-- ==== Sys2Proof/Word.lean ====
section
/-! DEFINITION. The byte and word types of the Cribo's memories, registers and link formats
(00_scope.md, Numbers, units and notation). -/

namespace Sys2Proof

/-- One byte. -/
abbrev Byte := BitVec 8

/-- A byte string, first byte first; multi-byte fields in it are little-endian unless a table says otherwise. -/
abbrev Bytes := List Byte

/-- A 32-bit register word. -/
abbrev Word := BitVec 32

end Sys2Proof
end

