-- ==== Sys2Proof/Syntax.lean ====
section
/-! DEFINITION. The commands of the block: one constructor per row of spec/opcode_table.json (what each row
holds is listed in spec/95_what_each_step_holds.md). The rows give no operand fields; the operands are what the
rule each row cites lets the outside (host, receivers, pins, DRAM devices) or an internal choice of the
hardware decide. Bytes that a step reads from host memory are an operand, because host memory is outside the
block. -/

namespace Sys2Proof

/-- Syntax that Table 4.2 names. -/
inductive CodedTool where
  /-- HEVC interlace indications -/
  | fieldSeq
  /-- HEVC or VVC NAL units with nuh_layer_id > 0 -/
  | otherLayer
  /-- HEVC screen content coding; high-throughput, 12-bit and higher profiles -/
  | hevcExtension
  | av1Professional
  | largeScaleTile
  /-- AV1 OBUs not in operating point 0 -/
  | otherPoint
  /-- H.264 frame_mbs_only_flag = 0 -/
  | interlaced
  /-- H.264 FMO and ASO -/
  | fmoAso
  /-- H.264 SVC and MVC NAL units -/
  | svcMvc
  | vvcRange
  /-- SEI messages and metadata OBUs -/
  | metadata
  deriving DecidableEq, Repr

/-- What the coded syntax of one access unit says, as the unit's video standard defines it (R78-R81, R84, R95,
R110-R113, R120). -/
structure AuInfo where
  /-- syntax of Table 4.2 that the unit carries -/
  tools : List CodedTool := []
  width : Nat := 0
  height : Nat := 0
  /-- 0 4:0:0, 1 4:2:0, 2 4:2:2, 3 4:4:4 -/
  chroma : Nat := 0
  depth : Nat := 8
  /-- level code signalled -/
  level : Nat := 0
  /-- random access point of Table 4.4 -/
  rap : Bool := false
  /-- a coded video sequence starts and output order counts anew -/
  newSeq : Bool := false
  /-- a random access point that is a VVC GDR or an H.264 recovery point; the recovery point picture of one (R122) -/
  gdr : Bool := false
  recovery : Bool := false
  /-- widths of the tile columns in luma samples, empty for a picture without them; tile rows, slices, entropy coding
  synchronisation (Table 4.6) -/
  tileCols : List Nat := []
  tileRows : Nat := 1
  slices : Nat := 1
  sync : Bool := false
  /-- CTU or superblock height (R95) -/
  ctu : Nat := 16
  /-- intra picture (R123) -/
  intra : Bool := false
  /-- output-order number of the picture -/
  order : Nat := 0
  /-- output-order numbers of the reference pictures the decoding process calls for (R120); the first is the first reference of
  list 0, for AV1 the LAST reference (R123) -/
  refs : List Nat := []
  /-- output-order numbers that stay in the decoded picture buffer with this picture -/
  keep : List Nat := []
  /-- output-order numbers that become long-term (R110) -/
  pin : List Nat := []
  /-- AV1: the reference slots that the frame is written into, one bit each (R110) -/
  refresh : Nat := 0
  /-- output-order numbers that the standard's output process releases with this picture (R18, R119, R121) -/
  outputs : List Nat := []
  /-- most reference pictures the unit's decoding needs (R113) -/
  refsNeeded : Nat := 0
  primaries : Nat := 2
  transfer : Nat := 2
  matrix : Nat := 2
  fullRange : Bool := false
  /-- chroma sample location type signalled (Table 7.2, CHROMA_LOC 0) -/
  chromaLoc : Nat := 0
  deriving DecidableEq, Repr

/-- What a lane receives (R292, R293): `n` valid characters that are no commas, or on a trunk blocks with valid sync headers; a comma
at a bit position; a code violation or an invalid sync header; an alignment marker with its lane's index, `at_` ns after some instant
common to the trunk; a marker missing where one is due. -/
inductive LaneRx
  | good (n : Nat)
  | comma (bit : Nat)
  | violation
  | marker (at_ : Nat)
  | noMarker
  deriving DecidableEq, Repr

/-- A training set received (Table 14.2): TYPE, POS, VERS, ARG0 and CRC8; ARG1 and ARG2 are 0. -/
structure TrainSet where
  type : Nat
  pos : Nat
  vers : Nat
  arg0 : Nat := 0
  crc : Nat
  deriving DecidableEq, Repr

/-- TYPE, ARG0 and CRC8 of a training set that carries POS and VERS beside them. -/
structure TrainRest where
  type : Nat
  arg0 : Nat := 0
  crc : Nat
  deriving DecidableEq, Repr

/-- VERS, TYPE, ARG0 and CRC8 of a training set that carries POS beside them. -/
structure TrainVers where
  vers : Nat
  rest : TrainRest
  deriving DecidableEq, Repr

/-- An HDM decoder and the device addresses it exposes, in units of 256 MiB (R31, R37). -/
structure HdmRange where
  decoder : Nat
  first : Nat := 0
  size : Nat := 0
  deriving DecidableEq, Repr

/-- What an SPDM request carries: whether it came over a secured session, and the bytes behind its code (R47). -/
structure SpdmData where
  secured : Bool := false
  bytes : Bytes := []
  deriving DecidableEq, Repr

/-- An MSI-X mask that the host writes (R46): a vector's mask clears, or the function mask takes a value. -/
inductive MsixMask where
  | vector (n : Nat)
  | function (masked : Bool)
  deriving DecidableEq, Repr

/-- A lane and what it receives (R292, R293). -/
structure LaneRun where
  lane : Nat
  rx : List LaneRx := []
  deriving DecidableEq, Repr

/-- How one work unit ended on its core (R97, R123). -/
structure UnitResult where
  /-- corrupt: kind of event 0x0113 ARG3 (1 range, 2 data short, 3 left over, 4 entry point); 0 for none -/
  corruptKind : Nat
  firstBlock : Nat
  blocksFilled : Nat
  /-- reference bytes read, and what they would take in plain layout, KiB -/
  refKib : Nat
  plainKib : Nat
  /-- compressed units of reference pictures whose header the core finds invalid, as output-order number and unit (R128) -/
  compBad : List (Nat × Nat)
  /-- bands of reference pictures that the unit reads, as output-order number and band (R97) -/
  refBands : List (Nat × Nat) := []
  /-- CTUs of a wavefront row before its next slice start (R123) -/
  toSlice : Nat := 0
  deriving DecidableEq, Repr

/-- How one tile column of a picture coded on its core (R243): header bytes, the size of each CTU or superblock when coded normally,
and the bytes that end its slice or tile. -/
structure EncCol where
  header : Nat := 0
  ctus : List Nat := []
  tail : Nat := 0
  deriving DecidableEq, Repr

/-- Failing elements of a self-test group (Tables 18.6 and 18.9). -/
structure BstFail where
  fabric : Bool
  dram : Nat
  host : Nat
  lanes : Nat
  i2c : Nat
  deriving DecidableEq, Repr

/-- What W5 finds of one DRAM channel (R380, R381). -/
structure ChanTrain where
  gib : Nat
  ok : Bool
  deriving DecidableEq, Repr

/-- How a read of memory ended: the bytes, an error response, or a translation failure. -/
inductive ReadEnd where
  | ok
  | error
  | xlat
  deriving DecidableEq, Repr

/-- What the DRAM error correction found on an access (R382-R384). -/
inductive Ecc where
  | clean
  | corrected
  | uncorrectable
  deriving DecidableEq, Repr

/-- Who writes a register: the host through BAR0, or regulator g (R331, R332). -/
inductive Agent where
  | host
  | regulator (g : Nat)
  deriving DecidableEq, Repr

/-- Who sends a pool command: an engine as its own owner, or command window w (R251, R258). -/
inductive PoolReq where
  | owner (o : Nat)
  | window (w : Nat)
  deriving DecidableEq, Repr

/-- What one module poll finds for one lane (R311). -/
structure ModInfo where
  present : Bool
  los : Bool
  cmis : Bool
  ident : Nat
  temp : Nat
  rxPwr : Nat
  ack : Bool
  deriving DecidableEq, Repr

/-- Responses to one DMA access (R345, R346): its number, whether it was on the source, and how it ended. -/
inductive DmaResp where
  | ok
  | error
  | domainOff
  | xlat
  deriving DecidableEq, Repr

/-- The commands. -/
inductive Instr where
  -- winding, resets, pins (20_winding_clocks_power.md, 18_faults_and_self_test.md)
  | powerOn
  | railOutOfRange
  | rootPllLoss
  | perstNAssert
  | perstNRelease
  | windingW0 (testMode capWriteN : Bool) (bootSel : Nat)
  | selfTestGroup (g coverage durUs : Nat) (fail : BstFail)
  | selfTestTimeout (g coverage : Nat)
  | windingW2
  | windingW3
  | windingW4
  | windingW5 (chans : List ChanTrain) (timing : List Nat)
  | windingW6
  | windingW7
  | strapSample (testMode capWriteN : Bool)
  | configRequestEarly (config : Bool)
  -- host attachment (02_host_attachment.md)
  | linkTrained (hostMode speed width : Nat) (flit256 cacheEn memEn : Bool)
  | linkRetrain (speed width : Nat)
  | linkDown
  | flr
  | hostBadAccess (write : Bool) (bar offset : Nat)
  | bar4Access (write : Bool) (offset len : Nat) (data : Bytes) (ecc : Ecc)
  | winBaseWrite (a : Nat) (v : Word)
  | hostSizeWrite (v : Word)
  | hdmDecoderCommit (d : HdmRange) (biEnable : Bool)
  | biSnoopResponse (line : Nat)
  | hostLineSnoop (line : Nat)
  | ccacheFlush (v : Word)
  | tenantEnable (n : Nat) (v : Word)
  | tenantDisable (n : Nat) (v : Word)
  | dbgrpOwnerWrite (w : Nat) (v : Word)
  | addressTranslationFail (ring index : Nat)
  | ideCheckFail
  | spdmRequest (code : Nat) (data : SpdmData)
  | setCertificate (slot : Nat) (secured : Bool) (chain : Bytes)
  | msixUnmask (mask : MsixMask)
  -- rings and jobs (03_rings_and_jobs.md)
  | rngDbPi (ring : Nat) (v : Word) (entries : List Bytes)
  | rngDbCi (ring : Nat) (v : Word)
  | payloadFetch (ring : Nat)
  | payloadFetchDone (ring : Nat) (payload : Bytes) (au : AuInfo)
  | seqGapTimeout (stream : Nat)
  | ringCfgWrite (ring reg : Nat) (v : Word)
  | ringEnable (ring : Nat) (v : Word)
  | ringDisable (ring : Nat) (v : Word)
  | commandFetch (ring : Nat) (entry : Bytes)
  | fencedCommandStart (job : Nat)
  | streamOpen (job : Nat)
  | streamClose (job : Nat)
  | streamFlush (job : Nat)
  | streamSetPolicy (job : Nat)
  | calibreWrite (job : Nat) (image : Bytes) (read : ReadEnd)
  | calibreWriteCommit (job : Nat)
  | calibreSwap (job : Nat)
  | swapArmed
  | oldBankRelease
  | calibreRead (job : Nat)
  | calibreSave (ok : Bool)
  | encSessionOpen (job : Nat)
  | encSessionClose (job : Nat)
  | dmaSubmit (job : Nat)
  | tileRefresh (job : Nat)
  | tileIdentityRead (job : Nat)
  | complicationLoad (job : Nat) (image : Bytes) (read : ReadEnd) (init : Option Bool)
  | query (job : Nat)
  | nop (job : Nat)
  | mtrEnable (m : Nat) (v : Word)
  | mtrRateWrite (m reg : Nat) (v : Word)
  | sysQueryCtl (v : Word)
  | queryResultReady
  | sysQueryResultRead
  | audSnapTake (page : Nat)
  -- frame timing (06_wall_model_and_calibres.md)
  | frameMark
  | wallsyncEdge
  | wallsyncHoldover
  -- decode array (04, 05)
  | unitDispatch (core : Nat)
  | workUnitDone (core : Nat) (res : UnitResult)
  | pinCopyDone (stream order : Nat)
  | pickup (window : Nat)
  | streamDrainDone (stream : Nat)
  | drainTimeout (stream : Nat)
  | decCoreCtlOffline (core : Nat) (v : Word)
  | decCoreReset (core : Nat)
  | rfsRegionWrite (reg : Nat) (v : Word)
  -- canvas and fusee (07, 08)
  | rowPairStart
  | driveRowPair
  | fusCapCommit
  | capCommitStoreDone (okA okB : Bool)
  | fusForce (page : Nat) (v : Word)
  -- mezzanine encoders (09, 10)
  | mzeRowPairStart (core : Nat)
  | mzeRowPairDone (core : Nat)
  | linkFrameSubmit (input : Nat)
  | mzeCoreReset (core : Nat)
  | mzeRefRegionWrite (reg : Nat) (v : Word)
  -- monitor and relay encoding (11)
  | encSourceReady (session : Nat)
  | encPictureStart (session : Nat)
  | encPictureDone (session : Nat) (cols : List EncCol) (qp : Nat) (guard : List (List Nat))
  | encCoreReset (core : Nat)
  | encRegionWrite (reg : Nat) (v : Word)
  -- buffer pool and switch (12)
  | alloc (r : PoolReq)
  | share (r : PoolReq) (buf n holder : Nat)
  | release (r : PoolReq) (buf : Nat)
  | free (r : PoolReq) (buf : Nat)
  | handover (r : PoolReq) (buf new : Nat)
  | listRebuildDone (pool : Nat)
  | forceFree (v : Word)
  | forceOwner (v : Word)
  | dpoolConfigWrite (reg : Nat) (v : Word)
  | dpoolRebuildDone
  | quotaWrite (owner : Nat) (v : Word)
  | minWrite (owner : Nat) (v : Word)
  | cellMatch
  -- beats and scheduling (13)
  | portMark (port : Nat)
  | linkFrameDepart (port slot : Nat)
  | tileClose (port tile : Nat)
  | shaperRateWrite (port : Nat) (v : Word)
  | shaperBurstWrite (port : Nat) (v : Word)
  | shaperForgive (port : Nat)
  | shaperEnable (port : Nat) (v : Word)
  | shaperDisable (port : Nat) (v : Word)
  | beatTableParity (port : Nat)
  -- panel link (14)
  | portTrainStart (port : Nat)
  | trainAlignTimeout (port : Nat)
  | trainRetryTimer (port : Nat)
  | tsType2Received (port pos vers : Nat) (rest : TrainRest)
  | positionCollectTimeout (port : Nat)
  | tsType4Received (port pos : Nat) (set : TrainVers)
  | versionConfirmTimeout (port pos : Nat)
  | echoReceived (port pos rtNs : Nat)
  | trainComplete (port : Nat)
  | laneAlignLoss (lane : LaneRun)
  | fomMeasure (lane fom : Nat)
  | plkRetrain (port : Nat)
  | plkPortCfgWrite (port : Nat) (v : Word)
  | portTestEnter (port : Nat)
  | portTestClear (port : Nat)
  | lneTestInject (lane : Nat)
  | statusFrame (port : Nat) (frame : Bytes)
  | mgmtResponse (port : Nat) (frame : Bytes)
  | identityReplyTimeout (port pos : Nat)
  | identityReread (port pos : Nat)
  | creditBlock (port n : Nat)
  | upstreamFrame (port : Nat) (frame : Bytes)
  | modulePoll (bus : Nat) (found : List ModInfo)
  | i2cGo (v : Word)
  -- escapements, images, pages (15, 21)
  | escRoutineStart (kind index routine : Nat)
  | escRoutineExit (kind index : Nat) (conds : List (BitVec 64))
  | escWaitTimeout (kind index : Nat) (conds : List (BitVec 64))
  | escSafePointExit (kind index : Nat) (conds : List (BitVec 64))
  | stopLimitExpiry (kind index : Nat)
  | microwordParity (kind index : Nat)
  | escLoadGo (v : Word)
  | escLoadDone
  | pgEnableClear (page : Nat)
  | pgEnableSet (page : Nat)
  | pgSoftReset (page : Nat)
  | pgSafeStop (page : Nat)
  | bundleWriteGo (v : Word)
  | bundleWriteDone (readBackOk : Bool)
  -- regulators (15)
  | watchdogRestart (g : Nat)
  | watchdogHalf (g : Nat)
  | watchdogExpire (g : Nat)
  | rglReload (g : Nat)
  | hostMbxPost (g : Nat)
  | lMbxPost (g : Nat) (v : Word)
  | lMbxPop (g : Nat)
  | lRxqCiWrite (g : Nat) (v : Word)
  | lTxqPiWrite (g : Nat) (v : Word)
  | txEntrySend (g : Nat)
  | frameOverrunStop (g slot : Nat) (access : Bool)
  | yield (g slot : Nat)
  | mbxSend (g slot target : Nat) (msg : Bytes)
  | mbxRecv (g slot : Nat)
  | pool (g slot op buf n owner : Nat)
  | event (g slot code : Nat) (args : List Word)
  | time (g slot : Nat)
  | rxqTake (g slot : Nat)
  | txqPost (g slot : Nat) (entry : Bytes)
  | publish (g slot kind addr : Nat)
  | lookup (g slot kind : Nat)
  | timer (g slot us : Nat)
  | timerExpire (g slot : Nat)
  -- DMA (16)
  | descriptorFetch (ch : Nat) (desc : Bytes) (resp : DmaResp)
  | dmaCopy (ch : Nat) (data : Bytes)
  | dmaFill (ch : Nat)
  | dmaCompare (ch : Nat) (a b : Bytes)
  | dmaAccessResponse (ch : Nat) (onSrc : Bool) (offset len : Nat) (resp : DmaResp)
  | dmaChainTimeout (ch : Nat)
  | dmaGo (ch : Nat)
  | dmaAbort (ch : Nat)
  -- interrupt controller (17)
  | intSourceEdge (id : Nat) (priv : Option Nat) (level : Bool)
  | intTimerMatch (g : Nat)
  | intSwset (v : Word)
  | lIntSwset (g : Nat) (v : Word)
  | intPendClear (page w : Nat) (v : Word)
  | intEntry (g pc : Nat)
  | intMret (g : Nat)
  | intHoldSet (v : Word)
  | intHoldClear (v : Word)
  | intHclaimRead (id : Nat)
  | intHclaimWrite (id : Nat) (v : Word)
  -- fault collection (18)
  | faultNPulseEnd
  | pgErrStickyW1c (page : Nat) (v : Word)
  | pgErrEnableWrite (page : Nat) (v : Word)
  | pgErrInjectWrite (page : Nat) (v : Word)
  | testUnlockKey1 (v : Word)
  | testUnlockKey2 (v : Word)
  | testUnlockArmTimeout
  | jtagInstruction (code : Nat)
  -- device memory and keeping store (19)
  | patrolScrub (line channel : Nat) (ecc : Ecc)
  | zeroChunk
  | memFreqGo (v : Word)
  | memFreqDone
  | memErrlogClear
  | memTimingWrite (f w : Nat) (v : Word)
  | kstXferGo (v : Word)
  | kstXferDone
  -- power, clocks, thermal (20)
  | pwrDomainOffReq (v : Word)
  | domainDrainDone (d : Nat)
  | domainDrainTimeout (d : Nat)
  | pwrDomainOnReq (v : Word)
  | domainWakeDone (d : Nat)
  | thermalSample (temps : List Int)
  | smbusRead (cmd : Nat)
  | registerWrite (by_ : Agent) (offset : Nat) (v : Word)
  | cxlMemAccess (write : Bool) (addr : Nat) (data : Bytes) (ecc : Ecc)
  | lanePllUnlock (lane : Nat)
  | lanePllRelock (lane : Nat)
  | i2cTransferDone (rdata : Nat) (nack : Bool)
  | ccacheFlushDone
  | complicationInitTimeout (job : Nat)
  deriving DecidableEq, Repr

end Sys2Proof
end

