-- ==== Sys2Proof/Config.lean ====
section
/-! DEFINITION. What an implementation fixes: the variant (Table 0.2, Table 0.4, Table 21.2), the internal clocks
(Table 20.3), and the free values, which are constants without a body. -/

namespace Sys2Proof

/-- The two variants of stepping B0 (00_scope.md, Variants). -/
inductive Variant where
  | c648
  | c624
  deriving DecidableEq, Repr

namespace Variant

/-- A figure that differs between the variants. -/
def pick {α : Type} (v : Variant) (a b : α) : α :=
  match v with
  | .c648 => a
  | .c624 => b

/-- Table 0.4: rings. -/
def rings (v : Variant) : Nat := v.pick 8192 4096
/-- Table 0.2: ingest meters. -/
def meters (v : Variant) : Nat := v.pick 4096 2048
/-- Table 0.4: streams. -/
def streams (v : Variant) : Nat := v.pick 1024 512
/-- Table 0.4: ports (and lanes). -/
def ports (v : Variant) : Nat := v.pick 64 32
/-- Table 0.4: tiles. -/
def tiles (v : Variant) : Nat := v.pick 16384 8192
/-- Table 0.4: circuits. -/
def circuits (v : Variant) : Nat := v.pick 512 256
/-- Table 0.4: decode cores, eight per cluster. -/
def decCores (v : Variant) : Nat := v.pick 48 24
/-- Table 0.4: mezzanine cores, eight per cluster. -/
def mzeCores (v : Variant) : Nat := v.pick 32 16
/-- Table 0.4: encode cores. -/
def encCores (v : Variant) : Nat := v.pick 8 4
/-- Table 11.1: encode sessions (R236). -/
def sessions (v : Variant) : Nat := v.pick 32 16
/-- Table 0.4: regulators. -/
def regulators (v : Variant) : Nat := v.pick 16 8
/-- Table 0.2: DMA channels. -/
def dmaChannels (v : Variant) : Nat := v.pick 32 16
/-- Table 0.2: DRAM channels. -/
def dramChannels (v : Variant) : Nat := v.pick 24 12
/-- Table 0.2: jobs in flight (R12). -/
def jobLimit (v : Variant) : Nat := v.pick 1024 512
/-- Table 0.2: pictures in flight (R12). -/
def pictureLimit (v : Variant) : Nat := v.pick 512 256
/-- Table 0.2: canvas rate limit, lamp updates per second (R10). -/
def lampRate (v : Variant) : Nat := v.pick 16000000000 8000000000
/-- Doorbell groups (02_host_attachment.md, R33 ff.). -/
def groups (v : Variant) : Nat := v.pick 256 128
/-- The device code of QUERY DEVICE and of the manufacturing record (Tables 3.9 and 19.5). -/
def code (v : Variant) : Nat := v.pick 0x648 0x624

end Variant

/-- One block type of Table 21.2: code, first page, pages on each variant, PG_VERSION.BLOCK. -/
structure BlockType where
  code : Nat
  first : Nat
  n648 : Nat
  n624 : Nat
  version : Nat
  deriving DecidableEq, Repr

/-- Table 21.2, in code order. -/
def blockTypes : List BlockType :=
  [⟨0x01, 0x000, 1, 1, 0x200⟩, ⟨0x02, 0x001, 1, 1, 0x200⟩, ⟨0x03, 0x100, 256, 128, 0x200⟩,
   ⟨0x04, 0x200, 128, 64, 0x200⟩, ⟨0x05, 0x280, 6, 3, 0x203⟩, ⟨0x06, 0x288, 1, 1, 0x200⟩,
   ⟨0x07, 0x289, 1, 1, 0x200⟩, ⟨0x08, 0x28A, 1, 1, 0x201⟩, ⟨0x09, 0x290, 4, 2, 0x200⟩] ++
  [⟨0x0A, 0x298, 4, 2, 0x202⟩, ⟨0x0B, 0x2A0, 8, 4, 0x201⟩, ⟨0x0C, 0x2A8, 1, 1, 0x200⟩,
   ⟨0x0D, 0x2A9, 1, 1, 0x200⟩, ⟨0x0E, 0x300, 64, 32, 0x200⟩, ⟨0x0F, 0x340, 64, 32, 0x200⟩,
   ⟨0x10, 0x380, 64, 32, 0x200⟩, ⟨0x11, 0x3C0, 1, 1, 0x200⟩, ⟨0x12, 0x3D0, 16, 8, 0x200⟩] ++
  [⟨0x13, 0x3E0, 2, 1, 0x200⟩, ⟨0x14, 0x3E8, 5, 5, 0x200⟩, ⟨0x15, 0x3F0, 1, 1, 0x200⟩,
   ⟨0x16, 0x3F1, 1, 1, 0x200⟩, ⟨0x17, 0x3F2, 1, 1, 0x200⟩, ⟨0x18, 0x3F3, 1, 1, 0x200⟩,
   ⟨0x19, 0x3F4, 1, 1, 0x200⟩, ⟨0x1A, 0x3F5, 1, 1, 0x200⟩, ⟨0x1B, 0x3F6, 1, 1, 0x200⟩]

/-- Instances of a block type on a variant. -/
def BlockType.count (t : BlockType) (v : Variant) : Nat := v.pick t.n648 t.n624

/-- Type codes of Table 21.2, by prefix. -/
abbrev Blk.sys : Nat := 0x01
abbrev Blk.hst : Nat := 0x02
abbrev Blk.rng : Nat := 0x03
abbrev Blk.mtr : Nat := 0x04
abbrev Blk.dec : Nat := 0x05
abbrev Blk.rfs : Nat := 0x06
abbrev Blk.cnv : Nat := 0x07
abbrev Blk.drv : Nat := 0x08
abbrev Blk.fus : Nat := 0x09
abbrev Blk.mze : Nat := 0x0A
abbrev Blk.enc : Nat := 0x0B
abbrev Blk.swc : Nat := 0x0C
abbrev Blk.bpm : Nat := 0x0D
abbrev Blk.sch : Nat := 0x0E
abbrev Blk.plk : Nat := 0x0F
abbrev Blk.lne : Nat := 0x10
abbrev Blk.esc : Nat := 0x11
abbrev Blk.rgl : Nat := 0x12
abbrev Blk.dma : Nat := 0x13
abbrev Blk.int : Nat := 0x14
abbrev Blk.flt : Nat := 0x15
abbrev Blk.bst : Nat := 0x16
abbrev Blk.mem : Nat := 0x17
abbrev Blk.kst : Nat := 0x18
abbrev Blk.clk : Nat := 0x19
abbrev Blk.pwr : Nat := 0x1A
abbrev Blk.clb : Nat := 0x1B

/-- First page of block type `t` (Table 21.2); the same on both variants (R414). -/
def firstPage (t : Nat) : Nat := ((blockTypes.find? (·.code = t)).map (·.first)).getD 0

/-- The page of instance `i` of block type `t` (R414). -/
def pageOf (t i : Nat) : Nat := firstPage t + i

/-- The block type and instance of a BAR0 page of the variant; none for a reserved page and for the page of an
instance that the variant lacks (R416, R4). -/
def pageOwner (v : Variant) (p : Nat) : Option (Nat × Nat) :=
  (blockTypes.find? fun t => decide (t.first ≤ p) && decide (p < t.first + t.count v)).map
    fun t => (t.code, p - t.first)

/-! ### Clocks (Table 20.3): periods in cycles of the 9.6 GHz root PLL, the model's unit of time -/

abbrev Clk.cclk : Nat := 8
abbrev Clk.fclk : Nat := 6
abbrev Clk.pclk : Nat := 10
abbrev Clk.uclk : Nat := 12
abbrev Clk.sclk : Nat := 96
/-- One microsecond. -/
abbrev Clk.us : Nat := 9600
/-- One millisecond. -/
abbrev Clk.ms : Nat := 9600000

namespace Config

/-! ### Free values. None has a body, so no proof can use a value of one. -/

/-- A 32-bit value the spec leaves undefined; the argument is the state's counter `freeCtr`. -/
opaque freeWord : Nat → BitVec 32

/-- The content of memory that the spec leaves undefined, by counter and offset. -/
opaque freeByte : Nat → Nat → Byte

/-- The DRAM channel of a line, as an index into the channels in use (the mapping is internal). -/
opaque lineChannel : Nat → Nat

/-- The bank of a line, numbered over all channels, and its row (the mapping is internal); how long after its acceptance a controller
issues the n-th write, in time units (R387: it reorders freely). -/
opaque lineBank : Nat → Nat
opaque lineRow : Nat → Nat
opaque issueDelay : Nat → Nat

/-- What the video standards make of a coded picture (R78), by plane, column and row. Their arithmetic is not in the spec: the block
reconstruction before the in-loop filters, from the coded data, the samples of its references and what fills corrupt blocks (R123);
the in-loop filters over it; AV1 film grain on a reconstructed sample. -/
opaque recon : Bytes → List (Nat → Nat → Nat → Nat) → (Nat → Nat → Nat → Option Nat) → Nat → Nat → Nat → Nat
opaque loopFilter : Bytes → (Nat → Nat → Nat → Nat) → Nat → Nat → Nat → Nat
opaque filmGrain : Bytes → Nat → Nat → Nat → Nat → Nat

/-- The coding inside a unit of the compressed layout is internal (R109): the sectors a unit takes, and its bytes, by picture and
unit. -/
opaque sectors : Nat → Nat → Nat
opaque packed : Nat → Nat → Nat → Byte

/-- Coefficients of the built-in scaling filter (R156: fixed in the Cribo, not given), by crop size, window size, phase and
tap. -/
opaque filterTap : Nat → Nat → Nat → Nat → BitVec 10

/-- Whether a complication, by its image, has subscribed to mailbox messages (0) or receive queue entries (1) (R337). How it does so is
the runtime's own: a free value (log 132). -/
opaque subscribed : Bytes → Nat → Bool

/-- Whether the signature of a signed image verifies against the key whose digest the fuse array holds (R325; the key is not
given). -/
opaque signatureOk : Bytes → Bool

/-- Contents of the boot ROM, and the Olimal certificate chain of slot 0 (R47: not given). -/
opaque bootRom : Bytes
opaque olimalChain : Bytes

/-- SHA-384, by FIPS 180-4 (R47; the spec names the hash and does not repeat it). -/
opaque sha384 : Bytes → Bytes

/-- Version of the boot ROM's recovery image of kind 6, and its microwords (R329: not given). -/
opaque recoveryVersion : BitVec 32
opaque recoveryWord : Nat → BitVec 192

end Config

end Sys2Proof
end

