-- ==== Sys2Proof/Machine/FaultTable.lean ====
section
/-! DEFINITION. The fault sources of every block (Tables 2.7, 3.13, 4.10, 5.7, 6.12, 7.8, 8.7, 10.4, 11.6, 12.9, 13.8,
14.15, 15.16, 16.5, 17.9, 18.10, 19.8, 20.11 and 21.5) with their fixed classes (R363). -/

namespace Sys2Proof.Machine

/-- One fault source: block type, bit of PG_ERR_STICKY, fixed class. -/
structure Src where
  blk : Nat
  bit : Nat
  cls : Nat
  deriving DecidableEq, Repr

/-! The common sources of Table 21.5, in the page of block type `t`. -/
def Src.badId (t : Nat) : Src := ⟨t, 0, 0⟩
def Src.clamp (t : Nat) : Src := ⟨t, 1, 0⟩
def Src.rsvWrite (t : Nat) : Src := ⟨t, 2, 0⟩
def Src.regParity (t : Nat) : Src := ⟨t, 3, 2⟩


/-! Table 2.7 HST fault sources -/
/-- HST.access: Unsupported access width or alignment to BAR0 or BAR2 -/
def Src.hstAccess : Src := ⟨Blk.hst, 8, 0⟩
/-- HST.tenancy: Doorbell to an unassigned group -/
def Src.hstTenancy : Src := ⟨Blk.hst, 9, 0⟩
/-- HST.window: BAR4 access beyond usable capacity -/
def Src.hstWindow : Src := ⟨Blk.hst, 10, 0⟩
/-- HST.busy: Write refused because of state (R37, R45) -/
def Src.hstBusy : Src := ⟨Blk.hst, 11, 0⟩
/-- HST.xlat: Address translation failure -/
def Src.hstXlat : Src := ⟨Blk.hst, 12, 1⟩
/-- HST.ide: IDE integrity failure -/
def Src.hstIde : Src := ⟨Blk.hst, 13, 2⟩
/-- HST.linkdown: Link down without PERST_N -/
def Src.hstLinkdown : Src := ⟨Blk.hst, 14, 2⟩

/-! Table 3.13 RNG fault sources -/
/-- RNG.ptr: Duplicate index mismatch (R67) -/
def Src.rngPtr : Src := ⟨Blk.rng, 8, 2⟩
/-- RNG.audit: Frame-mark audit mismatch (R25) -/
def Src.rngAudit : Src := ⟨Blk.rng, 9, 4⟩
/-- RNG.index: OVERRUN_CI or STALE_IDX counted -/
def Src.rngIndex : Src := ⟨Blk.rng, 10, 0⟩
/-- RNG.oversize: Oversize packet rewound -/
def Src.rngOversize : Src := ⟨Blk.rng, 11, 0⟩
/-- RNG.cfg: Configuration write or enable refused (R65) -/
def Src.rngCfg : Src := ⟨Blk.rng, 12, 0⟩

/-! Table 4.10 DEC fault sources -/
/-- DEC.core: Escapement wait timeout or data path parity error in a core -/
def Src.decCore : Src := ⟨Blk.dec, 8, 2⟩
/-- DEC.sram: Corrected ECC error in a core or dispatcher memory -/
def Src.decSram : Src := ⟨Blk.dec, 9, 1⟩
/-- DEC.audit: Frame-mark audit mismatch (R25) -/
def Src.decAudit : Src := ⟨Blk.dec, 10, 4⟩
/-- DEC.slip: DEC_BAND_SLIP counted -/
def Src.decSlip : Src := ⟨Blk.dec, 11, 0⟩

/-! Table 5.7 RFS fault sources -/
/-- RFS.comp: Invalid compressed unit header (R128) -/
def Src.rfsComp : Src := ⟨Blk.rfs, 8, 1⟩
/-- RFS.map: Parity error in the granule map. The streams whose granules it maps become FAULTED -/
def Src.rfsMap : Src := ⟨Blk.rfs, 9, 2⟩
/-- RFS.busy: Region write refused (R116) -/
def Src.rfsBusy : Src := ⟨Blk.rfs, 10, 0⟩
/-- RFS.sram: Corrected ECC error in reference store memory -/
def Src.rfsSram : Src := ⟨Blk.rfs, 11, 1⟩

/-! Table 6.12 CLB fault sources -/
/-- CLB.sync: WALLSYNC lock lost (R147) -/
def Src.clbSync : Src := ⟨Blk.clb, 8, 0⟩
/-- CLB.save: Last good save failed and will be retried (R149) -/
def Src.clbSave : Src := ⟨Blk.clb, 9, 1⟩
/-- CLB.sram: Corrected ECC error in bank storage -/
def Src.clbSram : Src := ⟨Blk.clb, 10, 1⟩
/-- CLB.tag: Work tagged with a released bank (R140) -/
def Src.clbTag : Src := ⟨Blk.clb, 11, 4⟩

/-! Table 7.8 CNV and DRV fault sources -/
/-- CNV.audit: Frame-mark audit mismatch (R25) -/
def Src.cnvAudit : Src := ⟨Blk.cnv, 8, 4⟩
/-- CNV.sram: Corrected ECC error in line or output buffers -/
def Src.cnvSram : Src := ⟨Blk.cnv, 9, 1⟩
/-- CNV.overrun: Scan overrun (R165) -/
def Src.cnvOverrun : Src := ⟨Blk.cnv, 10, 0⟩
/-- CNV.datapath: Parity error in the scaler or blend path -/
def Src.cnvDatapath : Src := ⟨Blk.cnv, 11, 2⟩
/-- DRV.audit: Frame-mark audit mismatch (R25) -/
def Src.drvAudit : Src := ⟨Blk.drv, 8, 4⟩
/-- DRV.sram: Corrected ECC error in drive stage buffers -/
def Src.drvSram : Src := ⟨Blk.drv, 9, 1⟩
/-- DRV.gmap: Damaged gain map record (R171) -/
def Src.drvGmap : Src := ⟨Blk.drv, 10, 0⟩
/-- DRV.datapath: Parity error in the correction or scale multipliers -/
def Src.drvDatapath : Src := ⟨Blk.drv, 11, 2⟩

/-! Table 8.7 FUS fault sources -/
/-- FUS.audit: Frame-mark audit mismatch (R25) -/
def Src.fusAudit : Src := ⟨Blk.fus, 8, 4⟩
/-- FUS.capcmp: Use above grant, or grant above cap (R189) -/
def Src.fusCapcmp : Src := ⟨Blk.fus, 9, 4⟩
/-- FUS.captable: No valid cap table at winding, or a copy failed read-back on commit -/
def Src.fusCaptable : Src := ⟨Blk.fus, 10, 2⟩
/-- FUS.capcopy: One cap table copy invalid at winding -/
def Src.fusCapcopy : Src := ⟨Blk.fus, 11, 1⟩
/-- FUS.capwr: Commit refused or ignored (R179) -/
def Src.fusCapwr : Src := ⟨Blk.fus, 12, 0⟩
/-- FUS.sram: Corrected ECC error in fusee state -/
def Src.fusSram : Src := ⟨Blk.fus, 13, 1⟩

/-! Table 10.4 MZE fault sources -/
/-- MZE.core: Escapement wait timeout or data path parity error in a core (R234) -/
def Src.mzeCore : Src := ⟨Blk.mze, 8, 2⟩
/-- MZE.sram: Corrected ECC error in input or candidate buffers -/
def Src.mzeSram : Src := ⟨Blk.mze, 9, 1⟩
/-- MZE.refread: Uncorrectable error on a reference read (R234) -/
def Src.mzeRefread : Src := ⟨Blk.mze, 10, 1⟩
/-- MZE.curve: Non-monotone curve used as linear (R219) -/
def Src.mzeCurve : Src := ⟨Blk.mze, 11, 0⟩
/-- MZE.busy: Reference region write refused (R227) -/
def Src.mzeBusy : Src := ⟨Blk.mze, 12, 0⟩

/-! Table 11.6 ENC fault sources -/
/-- ENC.core: Escapement wait timeout or data path parity error (R246) -/
def Src.encCore : Src := ⟨Blk.enc, 8, 2⟩
/-- ENC.sram: Corrected ECC error in core buffers -/
def Src.encSram : Src := ⟨Blk.enc, 9, 1⟩
/-- ENC.busy: Region write refused -/
def Src.encBusy : Src := ⟨Blk.enc, 10, 0⟩

/-! Table 12.9 BPM and SWC fault sources -/
/-- BPM.misuse: Command rejected (R255) -/
def Src.bpmMisuse : Src := ⟨Blk.bpm, 8, 1⟩
/-- BPM.list: Bad free-list link; pool rebuilt (R250) -/
def Src.bpmList : Src := ⟨Blk.bpm, 9, 2⟩
/-- BPM.cfg: Configuration or command write refused (R248, R253, R258) -/
def Src.bpmCfg : Src := ⟨Blk.bpm, 10, 0⟩
/-- BPM.sram: Corrected ECC error in state words -/
def Src.bpmSram : Src := ⟨Blk.bpm, 11, 1⟩
/-- BPM.audit: Frame-mark audit mismatch (R25) -/
def Src.bpmAudit : Src := ⟨Blk.bpm, 12, 4⟩
/-- SWC.audit: Frame-mark audit mismatch (R25) -/
def Src.swcAudit : Src := ⟨Blk.swc, 8, 4⟩
/-- SWC.sram: Corrected ECC error in queue memory -/
def Src.swcSram : Src := ⟨Blk.swc, 9, 1⟩
/-- SWC.datapath: Cell parity error; the frame is dropped after acceptance -/
def Src.swcDatapath : Src := ⟨Blk.swc, 10, 2⟩
/-- SWC.fwd: SWC_NOFWD counted -/
def Src.swcFwd : Src := ⟨Blk.swc, 11, 0⟩

/-! Table 13.8 SCH fault sources -/
/-- SCH.audit: Frame-mark audit mismatch (R25) -/
def Src.schAudit : Src := ⟨Blk.sch, 8, 4⟩
/-- SCH.sram: Corrected ECC error in queue or shaper state -/
def Src.schSram : Src := ⟨Blk.sch, 9, 1⟩
/-- SCH.cut: Port mark during a link frame (R272) -/
def Src.schCut : Src := ⟨Blk.sch, 10, 0⟩
/-- SCH.table: Beat table parity error (R286) -/
def Src.schTable : Src := ⟨Blk.sch, 11, 2⟩

/-! Table 14.15 PLK and LNE fault sources -/
/-- PLK.audit: Frame-mark audit mismatch (R25) -/
def Src.plkAudit : Src := ⟨Blk.plk, 8, 4⟩
/-- PLK.train: Training ended DOWN (Table 14.4) -/
def Src.plkTrain : Src := ⟨Blk.plk, 9, 0⟩
/-- PLK.mark: Position beyond the display delay (R303) -/
def Src.plkMark : Src := ⟨Blk.plk, 10, 0⟩
/-- PLK.sram: Corrected ECC error in port buffers -/
def Src.plkSram : Src := ⟨Blk.plk, 11, 1⟩
/-- LNE.pll: Lane PLL unlocked; the port retrains once it relocks -/
def Src.lnePll : Src := ⟨Blk.lne, 8, 2⟩
/-- LNE.cfg: LNE_TEST write outside TEST (R313) -/
def Src.lneCfg : Src := ⟨Blk.lne, 9, 0⟩
/-- LNE.module: Module not acknowledging, or module fault flag set -/
def Src.lneModule : Src := ⟨Blk.lne, 10, 0⟩
/-- LNE.align: LNE_ALIGN_LOSS counted -/
def Src.lneAlign : Src := ⟨Blk.lne, 11, 0⟩

/-! Table 15.16 ESC and RGL fault sources -/
/-- ESC.load: ESC_LOAD refused or ignored (R327) -/
def Src.escLoad : Src := ⟨Blk.esc, 8, 0⟩
/-- ESC.sram: Corrected ECC error in image memory -/
def Src.escSram : Src := ⟨Blk.esc, 9, 1⟩
/-- ESC.image: No valid image for a kind present at W4 -/
def Src.escImage : Src := ⟨Blk.esc, 10, 3⟩
/-- RGL.wdog: Watchdog expired (R333) -/
def Src.rglWdog : Src := ⟨Blk.rgl, 8, 3⟩
/-- RGL.fallback: Booted from slot B (R329) -/
def Src.rglFallback : Src := ⟨Blk.rgl, 9, 1⟩
/-- RGL.recovery: No valid bundle (R329) -/
def Src.rglRecovery : Src := ⟨Blk.rgl, 10, 3⟩
/-- RGL.access: Host-only write refused (R332) -/
def Src.rglAccess : Src := ⟨Blk.rgl, 11, 0⟩
/-- RGL.queue: Receive or transmit queue index write ignored (R335, R336) -/
def Src.rglQueue : Src := ⟨Blk.rgl, 12, 0⟩
/-- RGL.sram: Corrected ECC error in IMEM, DMEM or shared SRAM -/
def Src.rglSram : Src := ⟨Blk.rgl, 13, 1⟩

/-! Table 16.5 DMA fault sources -/
/-- DMA.datapath: Escapement wait timeout or funnel parity error; the page's busy chains end FAULTED -/
def Src.dmaDatapath : Src := ⟨Blk.dma, 8, 2⟩
/-- DMA.sram: Corrected ECC error in channel state -/
def Src.dmaSram : Src := ⟨Blk.dma, 9, 1⟩
/-- DMA.desc: A descriptor ended with DMA_ST_BAD_DESC -/
def Src.dmaDesc : Src := ⟨Blk.dma, 10, 0⟩
/-- DMA.resp: Error response on an access (R345) -/
def Src.dmaResp : Src := ⟨Blk.dma, 11, 0⟩
/-- DMA.busy: GO on a busy channel, or SOFT_RESET refused -/
def Src.dmaBusy : Src := ⟨Blk.dma, 12, 0⟩

/-! Table 17.9 INT fault sources -/
/-- INT.sram: Corrected ECC error in source configuration -/
def Src.intSram : Src := ⟨Blk.int, 8, 1⟩
/-- INT.cfg: INT_SWSET with an ID outside 33 to 1022 -/
def Src.intCfg : Src := ⟨Blk.int, 9, 0⟩

/-! Table 18.10 FLT and BST fault sources -/
/-- FLT.inject: Injection or unlock refused (R373, Table 18.4) -/
def Src.fltInject : Src := ⟨Blk.flt, 8, 0⟩
/-- FLT.log: Persistent log write failed (R371) -/
def Src.fltLog : Src := ⟨Blk.flt, 9, 1⟩
/-- FLT.sram: Corrected ECC error in collector state -/
def Src.fltSram : Src := ⟨Blk.flt, 10, 1⟩
/-- BST.fabric: Fabric, crossbar, switch or pool path failed -/
def Src.bstFabric : Src := ⟨Blk.bst, 8, 4⟩
/-- BST.dram: DRAM command and address loopback failed -/
def Src.bstDram : Src := ⟨Blk.bst, 9, 3⟩
/-- BST.hostphy: Host PHY lane failed -/
def Src.bstHostphy : Src := ⟨Blk.bst, 10, 0⟩
/-- BST.lane: Panel lane failed -/
def Src.bstLane : Src := ⟨Blk.bst, 11, 0⟩
/-- BST.i2c: Module I²C line failed -/
def Src.bstI2c : Src := ⟨Blk.bst, 12, 0⟩
/-- BST.timeout: Group stopped at twice its typical duration (R379) -/
def Src.bstTimeout : Src := ⟨Blk.bst, 13, 3⟩

/-! Table 19.8 MEM and KST fault sources -/
/-- MEM.ce: Corrected DRAM error (R383) -/
def Src.memCe : Src := ⟨Blk.mem, 8, 1⟩
/-- MEM.ue: Uncorrectable DRAM error, logged; the requester's own source carries the consequence (R384) -/
def Src.memUe : Src := ⟨Blk.mem, 9, 0⟩
/-- MEM.train: Channel group excluded at W5 (R381) -/
def Src.memTrain : Src := ⟨Blk.mem, 10, 3⟩
/-- MEM.mixed: Channels differ (R380) -/
def Src.memMixed : Src := ⟨Blk.mem, 11, 0⟩
/-- MEM.busy: Frequency change or timing write refused (R390, R391) -/
def Src.memBusy : Src := ⟨Blk.mem, 12, 0⟩
/-- MEM.sram: Corrected ECC error in controller queues -/
def Src.memSram : Src := ⟨Blk.mem, 13, 1⟩
/-- KST.ecc: Corrected keeping store error; injection privileged under R373 -/
def Src.kstEcc : Src := ⟨Blk.kst, 8, 1⟩
/-- KST.ue: Uncorrectable keeping store read (R398) -/
def Src.kstUe : Src := ⟨Blk.kst, 9, 3⟩
/-- KST.access: Transfer refused or ignored (R393, R398) -/
def Src.kstAccess : Src := ⟨Blk.kst, 10, 0⟩
/-- KST.wearwarn: A page passed 900,000,000 writes (R397) -/
def Src.kstWearwarn : Src := ⟨Blk.kst, 11, 0⟩
/-- KST.wear: Write refused at the endurance limit (R397) -/
def Src.kstWear : Src := ⟨Blk.kst, 12, 3⟩

/-! Table 20.11 CLK and PWR fault sources -/
/-- CLK.root: Root PLL lost lock after W0 (R403) -/
def Src.clkRoot : Src := ⟨Blk.clk, 8, 4⟩
/-- PWR.drain: Drain ended at PWR_DRAIN_TIMEOUT (Table 20.6) -/
def Src.pwrDrain : Src := ⟨Blk.pwr, 8, 1⟩
/-- PWR.refused: Power-off request refused (R405) -/
def Src.pwrRefused : Src := ⟨Blk.pwr, 9, 0⟩
/-- PWR.warn: WARN crossed (R411) -/
def Src.pwrWarn : Src := ⟨Blk.pwr, 10, 0⟩
/-- PWR.hot: HOT crossed (R411) -/
def Src.pwrHot : Src := ⟨Blk.pwr, 11, 0⟩
/-- PWR.crit: CRIT reached (R412) -/
def Src.pwrCrit : Src := ⟨Blk.pwr, 12, 4⟩
/-- PWR.rail: Rail outside its operating range after W0 (R400) -/
def Src.pwrRail : Src := ⟨Blk.pwr, 13, 4⟩
/-- PWR.sram: Corrected ECC error in power controller state -/
def Src.pwrSram : Src := ⟨Blk.pwr, 14, 1⟩

/-- Every block source. -/
def Src.all : List Src :=
  [Src.hstAccess, Src.hstTenancy, Src.hstWindow, Src.hstBusy, Src.hstXlat, Src.hstIde, Src.hstLinkdown, Src.rngPtr, Src.rngAudit, Src.rngIndex] ++
  [Src.rngOversize, Src.rngCfg, Src.decCore, Src.decSram, Src.decAudit, Src.decSlip, Src.rfsComp, Src.rfsMap, Src.rfsBusy, Src.rfsSram] ++
  [Src.clbSync, Src.clbSave, Src.clbSram, Src.clbTag, Src.cnvAudit, Src.cnvSram, Src.cnvOverrun, Src.cnvDatapath, Src.drvAudit, Src.drvSram] ++
  [Src.drvGmap, Src.drvDatapath, Src.fusAudit, Src.fusCapcmp, Src.fusCaptable, Src.fusCapcopy, Src.fusCapwr, Src.fusSram, Src.mzeCore, Src.mzeSram] ++
  [Src.mzeRefread, Src.mzeCurve, Src.mzeBusy, Src.encCore, Src.encSram, Src.encBusy, Src.bpmMisuse, Src.bpmList, Src.bpmCfg, Src.bpmSram] ++
  [Src.bpmAudit, Src.swcAudit, Src.swcSram, Src.swcDatapath, Src.swcFwd, Src.schAudit, Src.schSram, Src.schCut, Src.schTable, Src.plkAudit] ++
  [Src.plkTrain, Src.plkMark, Src.plkSram, Src.lnePll, Src.lneCfg, Src.lneModule, Src.lneAlign, Src.escLoad, Src.escSram, Src.escImage] ++
  [Src.rglWdog, Src.rglFallback, Src.rglRecovery, Src.rglAccess, Src.rglQueue, Src.rglSram, Src.dmaDatapath, Src.dmaSram, Src.dmaDesc, Src.dmaResp] ++
  [Src.dmaBusy, Src.intSram, Src.intCfg, Src.fltInject, Src.fltLog, Src.fltSram, Src.bstFabric, Src.bstDram, Src.bstHostphy, Src.bstLane] ++
  [Src.bstI2c, Src.bstTimeout, Src.memCe, Src.memUe, Src.memTrain, Src.memMixed, Src.memBusy, Src.memSram, Src.kstEcc, Src.kstUe] ++
  [Src.kstAccess, Src.kstWearwarn, Src.kstWear, Src.clkRoot, Src.pwrDrain, Src.pwrRefused, Src.pwrWarn, Src.pwrHot, Src.pwrCrit, Src.pwrRail] ++
  [Src.pwrSram]

/-- The fixed class of source `b` of block type `t` (R363); none where the block defines no such source. -/
def Src.fixedClass (t b : Nat) : Option Nat :=
  if b ≤ 2 then some 0
  else if b = 3 then some 2
  else (Src.all.find? fun s => decide (s.blk = t) && decide (s.bit = b)).map (·.cls)

/-- The mask of the C4 sources of a block type. -/
def Src.c4Mask (t : Nat) : Nat :=
  ((Src.all.filter fun s => decide (s.blk = t) && decide (s.cls = 4)).map fun s => 2 ^ s.bit).sum

/-- Sources with no checker, to which an injection is ignored (R372): those whose cause is a refused or counted
action of software or traffic, and not a check of stored or moving data. -/
def Src.hasChecker (s : Src) : Bool :=
  [Src.rngPtr, Src.decCore, Src.decSram, Src.rfsMap, Src.rfsSram, Src.clbSram, Src.clbTag,
   Src.cnvSram, Src.cnvDatapath, Src.drvSram, Src.drvDatapath, Src.fusCapcmp, Src.fusSram].contains s ||
  [Src.mzeCore, Src.mzeSram, Src.mzeRefread, Src.encCore, Src.encSram, Src.bpmList, Src.bpmSram, Src.swcSram,
   Src.swcDatapath, Src.schSram, Src.schTable, Src.plkSram, Src.escSram, Src.rglSram].contains s ||
  [Src.dmaDatapath, Src.dmaSram, Src.intSram, Src.fltSram, Src.memCe, Src.memUe, Src.memSram, Src.kstEcc, Src.kstUe,
   Src.pwrSram, Src.hstIde].contains s ||
  [Src.rngAudit, Src.decAudit, Src.cnvAudit, Src.drvAudit, Src.fusAudit, Src.bpmAudit, Src.swcAudit, Src.schAudit,
   Src.plkAudit].contains s || s == Src.regParity s.blk

end Sys2Proof.Machine
end

