-- ==== Sys2Proof/Machine/RegField.lean ====
section
/-! DEFINITION. What a register field is: its place in the pages, its access code (Table 0.5), its reset value and how a
write is bounded (R5, R20). -/

namespace Sys2Proof.Machine

/-- Access codes of Table 0.5; bits that no field covers are RSV. -/
inductive Access where
  | rw
  | ro
  | w1c
  | wo
  deriving DecidableEq, Repr

/-- The instances of a block type whose page has the field: every one, instance 0 alone, or all but instance 0. -/
inductive Insts where
  | all
  | first
  | rest
  deriving DecidableEq, Repr

/-- Reset values of the register tables. -/
inductive ResetVal where
  | const (n : Nat)
  /-- the field's own index (HST_WIN_BASE) -/
  | index
  /-- 0x1000 × (2w + 1) and 0x1000 × (2w + 2) (MZE_CURVE) -/
  | curveOdd
  | curveEven
  /-- 1 on the C648, 0 on the C624 (INT_SRC.RR) -/
  | rr
  /-- 0xFFFF on the C648, 0 on the C624 (INT_RR_MASK) -/
  | rrMask
  /-- 1 for cluster port 11 (MEM_ARB_W.URGENT) -/
  | urgent
  /-- fixed for the variant and computed where it is read -/
  | fixed
  deriving DecidableEq, Repr

/-- How a written value is bounded. -/
inductive WriteRule where
  | plain
  /-- clamped to lo..hi under R20 -/
  | clamp (lo hi : Nat)
  /-- clamped to a count that differs by variant under R20 -/
  | clampVar (b648 b624 : Nat)
  /-- an identifier below the bound, else R5 -/
  | ident (b648 b624 : Nat)
  /-- writable on the C648 alone (INT_SRC.RR, INT_RR_MASK) -/
  | rrVar
  deriving DecidableEq, Repr

/-- Where the field's value lives: in the register store, or in a record of the state that the field shows. -/
inductive Home where
  | store
  | object
  deriving DecidableEq, Repr

/-- One register field. `page` is its block type code, 0 for the common header; register `i` of the field lies at
`off + stride × (i / per)`, at bit `lo + lane × (i % per)`. -/
structure Fld where
  id : Nat
  page : Nat
  off : Nat
  stride : Nat
  count : Nat
  per : Nat
  lane : Nat
  lo : Nat
  width : Nat
  insts : Insts
  access : Access
  reset : ResetVal
  rule : WriteRule
  home : Home
  deriving DecidableEq, Repr

/-- The reset value of register `i` of a field on a variant. -/
def Fld.resetVal (f : Fld) (v : Variant) (i : Nat) : Nat :=
  match f.reset with
  | .const n => n
  | .index => i
  | .curveOdd => 0x1000 * (2 * (i % 8) + 1)
  | .curveEven => 0x1000 * (2 * (i % 8) + 2)
  | .rr => v.pick 1 0
  | .rrMask => v.pick 0xFFFF 0
  | .urgent => if i = 11 then 1 else 0
  | .fixed => 0

/-- The key under which the register store holds register `i` of a field; the fields are numbered below 1,024. -/
def Fld.key (f : Fld) (i : Nat) : Nat := i * 1024 + f.id

end Sys2Proof.Machine
end

