-- ==== Sys2Proof/Machine/RegTable.lean ====
section
/-! DEFINITION. The register fields of every page, one constant per field, taken from the register tables of the
spec (Tables 2.8, 2.9, 3.10-3.12, 4.9, 5.6, 6.11, 7.6, 7.7, 8.6, 10.3, 11.5, 12.7, 12.8, 13.7, 14.13, 14.14, 15.14,
15.15, 16.4, 17.7, 17.8, 18.7-18.9, 19.6, 19.7, 20.9, 20.10, 21.1, 21.3, 21.4). Each page's fields stand in one list. -/

namespace Sys2Proof.Machine.Reg


/-! Table 2.8. -/
def HST_LINK_STATUS_MODE : Fld := ⟨0, 2, 0x040, 0x0, 1, 1, 0, 0, 3, .all, .ro, .const 0x0, .plain, .store⟩
def HST_LINK_STATUS_SPEED : Fld := ⟨1, 2, 0x040, 0x0, 1, 1, 0, 3, 3, .all, .ro, .const 0x0, .plain, .store⟩
def HST_LINK_STATUS_WIDTH : Fld := ⟨2, 2, 0x040, 0x0, 1, 1, 0, 6, 5, .all, .ro, .const 0x0, .plain, .store⟩
def HST_LINK_STATUS_FLIT256 : Fld := ⟨3, 2, 0x040, 0x0, 1, 1, 0, 11, 1, .all, .ro, .const 0x0, .plain, .store⟩
def HST_LINK_STATUS_CACHE_EN : Fld := ⟨4, 2, 0x040, 0x0, 1, 1, 0, 12, 1, .all, .ro, .const 0x0, .plain, .store⟩
def HST_LINK_STATUS_MEM_EN : Fld := ⟨5, 2, 0x040, 0x0, 1, 1, 0, 13, 1, .all, .ro, .const 0x0, .plain, .store⟩
def HST_LINK_STATUS_HDM_DB : Fld := ⟨6, 2, 0x040, 0x0, 1, 1, 0, 14, 1, .all, .ro, .const 0x0, .plain, .store⟩
def HST_LINK_STATUS_IDE_ACTIVE : Fld := ⟨7, 2, 0x040, 0x0, 1, 1, 0, 15, 1, .all, .ro, .const 0x0, .plain, .store⟩

/-! Table 2.9. -/
def HST_HDM_CARVE_HOST_SIZE : Fld := ⟨8, 2, 0x044, 0x0, 1, 1, 0, 0, 12, .all, .rw, .const 0x0, .plain, .store⟩
def HST_WIN_BASE_BASE : Fld := ⟨9, 2, 0x048, 0x4, 4, 1, 0, 0, 4, .all, .rw, .index, .plain, .store⟩
def HST_DB_REJECT : Fld := ⟨10, 2, 0x058, 0x0, 1, 1, 0, 0, 32, .all, .ro, .const 0x0, .plain, .store⟩
def HST_CCACHE_CTL_ENABLE : Fld := ⟨11, 2, 0x05C, 0x0, 1, 1, 0, 0, 1, .all, .rw, .const 0x1, .plain, .store⟩
def HST_CCACHE_CTL_FLUSH : Fld := ⟨12, 2, 0x05C, 0x0, 1, 1, 0, 1, 1, .all, .wo, .const 0x0, .plain, .store⟩
def HST_CCACHE_STATUS_LINES : Fld := ⟨13, 2, 0x060, 0x0, 1, 1, 0, 0, 13, .all, .ro, .const 0x0, .plain, .store⟩
def HST_CCACHE_STATUS_FLUSH_BUSY : Fld := ⟨14, 2, 0x060, 0x0, 1, 1, 0, 13, 1, .all, .ro, .const 0x0, .plain, .store⟩
def HST_DBGRP_OWNER_TENANT : Fld := ⟨15, 2, 0x100, 0x4, 256, 4, 8, 0, 6, .all, .rw, .const 0x0, .plain, .store⟩
def HST_DBGRP_OWNER_VALID : Fld := ⟨16, 2, 0x100, 0x4, 256, 4, 8, 7, 1, .all, .rw, .const 0x0, .plain, .store⟩
def HST_TENANT_PASID : Fld := ⟨17, 2, 0x200, 0x8, 64, 1, 0, 0, 20, .all, .rw, .const 0x0, .plain, .store⟩
def HST_TENANT_PASID_EN : Fld := ⟨18, 2, 0x200, 0x8, 64, 1, 0, 20, 1, .all, .rw, .const 0x0, .plain, .store⟩
def HST_TENANT_ABI : Fld := ⟨19, 2, 0x200, 0x8, 64, 1, 0, 24, 3, .all, .ro, .const 0x0, .plain, .store⟩
def HST_TENANT_VALID : Fld := ⟨20, 2, 0x200, 0x8, 64, 1, 0, 31, 1, .all, .rw, .const 0x0, .plain, .store⟩
def HST_TENANT_ABI_OFFER : Fld := ⟨21, 2, 0x204, 0x8, 64, 1, 0, 0, 8, .all, .rw, .const 0x0, .plain, .store⟩

/-! Table 3.10. -/
def SYS_QUERY_CTL_SEL : Fld := ⟨22, 1, 0x0C0, 0x0, 1, 1, 0, 0, 8, .all, .wo, .const 0x0, .plain, .store⟩
def SYS_QUERY_CTL_ARG : Fld := ⟨23, 1, 0x0C0, 0x0, 1, 1, 0, 8, 24, .all, .wo, .const 0x0, .plain, .store⟩
def SYS_QUERY_RESULT_VALID : Fld := ⟨24, 1, 0x0C4, 0x0, 1, 1, 0, 0, 1, .all, .ro, .const 0x0, .plain, .store⟩
def SYS_QUERY_RESULT_READS : Fld := ⟨25, 1, 0x0C4, 0x0, 1, 1, 0, 1, 2, .all, .ro, .const 0x0, .plain, .store⟩
def SYS_QUERY_RESULT_SEQ : Fld := ⟨26, 1, 0x0C4, 0x0, 1, 1, 0, 8, 8, .all, .ro, .const 0x0, .plain, .store⟩
def SYS_QUERY_RESULT_STATUS : Fld := ⟨27, 1, 0x0C4, 0x0, 1, 1, 0, 16, 8, .all, .ro, .const 0x0, .plain, .store⟩
def SYS_QUERY_RESULT_IGNORED : Fld := ⟨28, 1, 0x0C4, 0x0, 1, 1, 0, 28, 4, .all, .ro, .const 0x0, .plain, .store⟩
def SYS_QUERY_DATA : Fld := ⟨29, 1, 0x0C8, 0x4, 4, 1, 0, 0, 32, .all, .ro, .const 0x0, .plain, .store⟩

/-! Table 3.11. -/
def RNG_AUD_SNAP_TAKE : Fld := ⟨30, 3, 0x040, 0x0, 1, 1, 0, 0, 1, .all, .wo, .const 0x0, .plain, .store⟩
def RNG_AUD_SNAP_SEQ : Fld := ⟨31, 3, 0x040, 0x0, 1, 1, 0, 16, 16, .all, .ro, .const 0x0, .plain, .store⟩
def RNG_BASE_LO_BASE : Fld := ⟨32, 3, 0x100, 0x40, 32, 1, 0, 12, 20, .all, .rw, .const 0x0, .plain, .object⟩
def RNG_BASE_HI : Fld := ⟨33, 3, 0x104, 0x40, 32, 1, 0, 0, 32, .all, .rw, .const 0x0, .plain, .object⟩
def RNG_CFG_CLASS : Fld := ⟨34, 3, 0x108, 0x40, 32, 1, 0, 0, 3, .all, .rw, .const 0x0, .plain, .object⟩
def RNG_CFG_SIZE_LOG2 : Fld := ⟨35, 3, 0x108, 0x40, 32, 1, 0, 4, 5, .all, .rw, .const 0x6, .plain, .object⟩
def RNG_CFG_MEMSPACE : Fld := ⟨36, 3, 0x108, 0x40, 32, 1, 0, 9, 1, .all, .rw, .const 0x0, .plain, .object⟩
def RNG_CFG_COHERENT : Fld := ⟨37, 3, 0x108, 0x40, 32, 1, 0, 10, 1, .all, .rw, .const 0x0, .plain, .object⟩
def RNG_CFG_ENABLE : Fld := ⟨38, 3, 0x108, 0x40, 32, 1, 0, 11, 1, .all, .rw, .const 0x0, .plain, .object⟩
def RNG_LINK_LINK : Fld := ⟨39, 3, 0x10C, 0x40, 32, 1, 0, 0, 13, .all, .rw, .const 0x0, .plain, .object⟩
def RNG_LINK_METER : Fld := ⟨40, 3, 0x10C, 0x40, 32, 1, 0, 16, 12, .all, .rw, .const 0x0, .plain, .object⟩
def RNG_LINK_METER_EN : Fld := ⟨41, 3, 0x10C, 0x40, 32, 1, 0, 31, 1, .all, .rw, .const 0x0, .plain, .object⟩
def RNG_EVQ_RING : Fld := ⟨42, 3, 0x110, 0x40, 32, 1, 0, 0, 13, .all, .rw, .const 0x0, .plain, .object⟩
def RNG_EVQ_EN : Fld := ⟨43, 3, 0x110, 0x40, 32, 1, 0, 31, 1, .all, .rw, .const 0x0, .plain, .object⟩
def RNG_PI : Fld := ⟨44, 3, 0x114, 0x40, 32, 1, 0, 0, 32, .all, .ro, .const 0x0, .plain, .object⟩
def RNG_CI : Fld := ⟨45, 3, 0x118, 0x40, 32, 1, 0, 0, 32, .all, .ro, .const 0x0, .plain, .object⟩
def RNG_COUNT : Fld := ⟨46, 3, 0x11C, 0x40, 32, 1, 0, 0, 32, .all, .ro, .const 0x0, .plain, .object⟩
def RNG_LOST_LO : Fld := ⟨47, 3, 0x120, 0x40, 32, 1, 0, 0, 32, .all, .ro, .const 0x0, .plain, .object⟩
def RNG_LOST_HI : Fld := ⟨48, 3, 0x124, 0x40, 32, 1, 0, 0, 32, .all, .ro, .const 0x0, .plain, .object⟩
def RNG_REWOUND : Fld := ⟨49, 3, 0x128, 0x40, 32, 1, 0, 0, 32, .all, .ro, .const 0x0, .plain, .object⟩
def RNG_ERR_OVERRUN_CI : Fld := ⟨50, 3, 0x12C, 0x40, 32, 1, 0, 0, 8, .all, .rw, .const 0x0, .plain, .object⟩
def RNG_ERR_STALE_IDX : Fld := ⟨51, 3, 0x12C, 0x40, 32, 1, 0, 8, 8, .all, .rw, .const 0x0, .plain, .object⟩
def RNG_ERR_OVERSIZE : Fld := ⟨52, 3, 0x12C, 0x40, 32, 1, 0, 16, 8, .all, .rw, .const 0x0, .plain, .object⟩
def RNG_ERR_HALTED : Fld := ⟨53, 3, 0x12C, 0x40, 32, 1, 0, 24, 1, .all, .ro, .const 0x0, .plain, .object⟩
def RNG_PEND : Fld := ⟨54, 3, 0x130, 0x40, 32, 1, 0, 0, 32, .all, .ro, .const 0x0, .plain, .object⟩
def RNG_AUD_PRODUCED : Fld := ⟨55, 3, 0x900, 0x20, 32, 1, 0, 0, 64, .all, .ro, .const 0x0, .plain, .object⟩
def RNG_AUD_CONSUMED : Fld := ⟨56, 3, 0x908, 0x20, 32, 1, 0, 0, 64, .all, .ro, .const 0x0, .plain, .object⟩
def RNG_AUD_LOST : Fld := ⟨57, 3, 0x910, 0x20, 32, 1, 0, 0, 64, .all, .ro, .const 0x0, .plain, .object⟩
def RNG_AUD_COUNT : Fld := ⟨58, 3, 0x918, 0x20, 32, 1, 0, 0, 64, .all, .ro, .const 0x0, .plain, .object⟩

/-! Table 3.12. -/
def MTR_CFG_ENABLE : Fld := ⟨59, 4, 0x100, 0x40, 32, 1, 0, 0, 1, .all, .rw, .const 0x0, .plain, .object⟩
def MTR_CFG_MODE : Fld := ⟨60, 4, 0x100, 0x40, 32, 1, 0, 1, 1, .all, .rw, .const 0x0, .plain, .object⟩
def MTR_CIR : Fld := ⟨61, 4, 0x104, 0x40, 32, 1, 0, 0, 24, .all, .rw, .const 0x0, .plain, .object⟩
def MTR_PIR : Fld := ⟨62, 4, 0x108, 0x40, 32, 1, 0, 0, 24, .all, .rw, .const 0x0, .plain, .object⟩
def MTR_CBS : Fld := ⟨63, 4, 0x10C, 0x40, 32, 1, 0, 0, 24, .all, .rw, .const 0x0, .plain, .object⟩
def MTR_PEBS : Fld := ⟨64, 4, 0x110, 0x40, 32, 1, 0, 0, 24, .all, .rw, .const 0x0, .plain, .object⟩
def MTR_GREEN : Fld := ⟨65, 4, 0x114, 0x40, 32, 1, 0, 0, 32, .all, .ro, .const 0x0, .plain, .object⟩
def MTR_YELLOW : Fld := ⟨66, 4, 0x118, 0x40, 32, 1, 0, 0, 32, .all, .ro, .const 0x0, .plain, .object⟩
def MTR_RED : Fld := ⟨67, 4, 0x11C, 0x40, 32, 1, 0, 0, 32, .all, .ro, .const 0x0, .plain, .object⟩
def MTR_YDROP : Fld := ⟨68, 4, 0x120, 0x40, 32, 1, 0, 0, 32, .all, .ro, .const 0x0, .plain, .object⟩

/-! Table 4.9. -/
def DEC_AUD_SNAP_TAKE : Fld := ⟨69, 5, 0x040, 0x0, 1, 1, 0, 0, 1, .all, .wo, .const 0x0, .plain, .store⟩
def DEC_AUD_SNAP_SEQ : Fld := ⟨70, 5, 0x040, 0x0, 1, 1, 0, 16, 16, .all, .ro, .const 0x0, .plain, .store⟩
def DEC_BIND_MARGIN_PCT : Fld := ⟨71, 5, 0x044, 0x0, 1, 1, 0, 0, 7, .first, .rw, .const 0x19, .clamp 0 100, .store⟩
def DEC_ADMIT_LIVE_PCT : Fld := ⟨72, 5, 0x048, 0x0, 1, 1, 0, 0, 7, .first, .rw, .const 0x55, .clamp 0 95, .store⟩
def DEC_ADMIT_STORED_MAX : Fld := ⟨73, 5, 0x048, 0x0, 1, 1, 0, 8, 6, .first, .rw, .const 0x8, .clampVar 48 24, .store⟩
def DEC_DRAIN_LIMIT_MS : Fld := ⟨74, 5, 0x04C, 0x0, 1, 1, 0, 0, 16, .first, .rw, .const 0x3E8, .plain, .store⟩
def DEC_BAND_SLIP : Fld := ⟨75, 5, 0x050, 0x0, 1, 1, 0, 0, 32, .first, .ro, .const 0x0, .plain, .store⟩
def DEC_LOAD_LIVE : Fld := ⟨76, 5, 0x054, 0x0, 1, 1, 0, 0, 32, .first, .ro, .const 0x0, .plain, .store⟩
def DEC_CAPACITY : Fld := ⟨77, 5, 0x058, 0x0, 1, 1, 0, 0, 32, .first, .ro, .const 0x0, .plain, .object⟩
def DEC_STREAM_SEL_STREAM : Fld := ⟨78, 5, 0x05C, 0x0, 1, 1, 0, 0, 10, .first, .rw, .const 0x0, .ident 1024 512, .store⟩
def DEC_SW_STATE_STATE : Fld := ⟨79, 5, 0x060, 0x0, 1, 1, 0, 0, 3, .first, .ro, .const 0x0, .plain, .object⟩
def DEC_SW_STATE_CLASS : Fld := ⟨80, 5, 0x060, 0x0, 1, 1, 0, 4, 3, .first, .ro, .const 0x0, .plain, .object⟩
def DEC_SW_STATE_ROW_CHAIN : Fld := ⟨81, 5, 0x060, 0x0, 1, 1, 0, 7, 1, .first, .ro, .const 0x0, .plain, .object⟩
def DEC_SW_STATE_CATCHUP : Fld := ⟨82, 5, 0x060, 0x0, 1, 1, 0, 8, 1, .first, .ro, .const 0x0, .plain, .object⟩
def DEC_SW_STATE_XLEVEL : Fld := ⟨83, 5, 0x060, 0x0, 1, 1, 0, 9, 1, .first, .ro, .const 0x0, .plain, .object⟩
def DEC_SW_STATE_TIMING : Fld := ⟨84, 5, 0x060, 0x0, 1, 1, 0, 10, 1, .first, .ro, .const 0x0, .plain, .object⟩
def DEC_SW_STATE_CORES_MAX : Fld := ⟨85, 5, 0x060, 0x0, 1, 1, 0, 16, 6, .first, .ro, .const 0x0, .plain, .object⟩
def DEC_SW_STATE_PACE : Fld := ⟨86, 5, 0x060, 0x0, 1, 1, 0, 24, 8, .first, .ro, .const 0x0, .plain, .object⟩
def DEC_SW_DECODED : Fld := ⟨87, 5, 0x064, 0x0, 1, 1, 0, 0, 32, .first, .ro, .const 0x0, .plain, .object⟩
def DEC_SW_LATE : Fld := ⟨88, 5, 0x068, 0x0, 1, 1, 0, 0, 32, .first, .ro, .const 0x0, .plain, .object⟩
def DEC_SW_PRE_RAP : Fld := ⟨89, 5, 0x06C, 0x0, 1, 1, 0, 0, 32, .first, .ro, .const 0x0, .plain, .object⟩
def DEC_SW_UNSUPPORTED : Fld := ⟨90, 5, 0x070, 0x0, 1, 1, 0, 0, 32, .first, .ro, .const 0x0, .plain, .object⟩
def DEC_SW_SHORT_SPLIT : Fld := ⟨91, 5, 0x074, 0x0, 1, 1, 0, 0, 32, .first, .ro, .const 0x0, .plain, .object⟩
def DEC_SW_COLOUR_PRIMARIES : Fld := ⟨92, 5, 0x078, 0x0, 1, 1, 0, 0, 8, .first, .ro, .const 0x0, .plain, .object⟩
def DEC_SW_COLOUR_TRANSFER : Fld := ⟨93, 5, 0x078, 0x0, 1, 1, 0, 8, 8, .first, .ro, .const 0x0, .plain, .object⟩
def DEC_SW_COLOUR_MATRIX : Fld := ⟨94, 5, 0x078, 0x0, 1, 1, 0, 16, 8, .first, .ro, .const 0x0, .plain, .object⟩
def DEC_SW_COLOUR_FULL_RANGE : Fld := ⟨95, 5, 0x078, 0x0, 1, 1, 0, 24, 1, .first, .ro, .const 0x0, .plain, .object⟩
def DEC_SW_INFLIGHT : Fld := ⟨96, 5, 0x07C, 0x0, 1, 1, 0, 0, 10, .first, .ro, .const 0x0, .plain, .object⟩
def DEC_CORE_STATUS_BUSY : Fld := ⟨97, 5, 0x100, 0x20, 8, 1, 0, 0, 1, .all, .ro, .const 0x0, .plain, .object⟩
def DEC_CORE_STATUS_RESERVED : Fld := ⟨98, 5, 0x100, 0x20, 8, 1, 0, 1, 1, .all, .ro, .const 0x0, .plain, .object⟩
def DEC_CORE_STATUS_OFFLINE : Fld := ⟨99, 5, 0x100, 0x20, 8, 1, 0, 2, 1, .all, .ro, .const 0x0, .plain, .object⟩
def DEC_CORE_STATUS_FUSED : Fld := ⟨100, 5, 0x100, 0x20, 8, 1, 0, 3, 1, .all, .ro, .const 0x0, .plain, .object⟩
def DEC_CORE_STATUS_STREAM : Fld := ⟨101, 5, 0x100, 0x20, 8, 1, 0, 8, 10, .all, .ro, .const 0x0, .plain, .object⟩
def DEC_CORE_STATUS_UNIT : Fld := ⟨102, 5, 0x100, 0x20, 8, 1, 0, 18, 2, .all, .ro, .const 0x0, .plain, .object⟩
def DEC_CORE_CTL_OFFLINE : Fld := ⟨103, 5, 0x104, 0x20, 8, 1, 0, 0, 1, .all, .rw, .const 0x0, .plain, .object⟩
def DEC_CORE_CTL_RESET : Fld := ⟨104, 5, 0x104, 0x20, 8, 1, 0, 1, 1, .all, .wo, .const 0x0, .plain, .object⟩
def DEC_CORE_UNITS : Fld := ⟨105, 5, 0x108, 0x20, 8, 1, 0, 0, 32, .all, .ro, .const 0x0, .plain, .object⟩
def DEC_CORE_BUSY : Fld := ⟨106, 5, 0x10C, 0x20, 8, 1, 0, 0, 32, .all, .ro, .const 0x0, .plain, .object⟩
def DEC_AUD_CR_ISSUED : Fld := ⟨107, 5, 0x900, 0x0, 1, 1, 0, 0, 64, .first, .ro, .const 0x0, .plain, .store⟩
def DEC_AUD_CR_RETURNED : Fld := ⟨108, 5, 0x908, 0x0, 1, 1, 0, 0, 64, .first, .ro, .const 0x0, .plain, .store⟩
def DEC_AUD_CR_OUT : Fld := ⟨109, 5, 0x910, 0x0, 1, 1, 0, 0, 64, .first, .ro, .const 0x0, .plain, .store⟩

/-! Table 5.6. -/
def RFS_REGION_BASE : Fld := ⟨110, 6, 0x040, 0x0, 1, 1, 0, 0, 24, .all, .rw, .const 0x0, .plain, .store⟩
def RFS_REGION_SIZE : Fld := ⟨111, 6, 0x044, 0x0, 1, 1, 0, 0, 24, .all, .rw, .const 0x0, .plain, .store⟩
def RFS_FREE : Fld := ⟨112, 6, 0x048, 0x0, 1, 1, 0, 0, 24, .all, .ro, .const 0x0, .plain, .store⟩
def RFS_REORDER_FRAMES : Fld := ⟨113, 6, 0x04C, 0x0, 1, 1, 0, 0, 4, .all, .rw, .const 0x2, .clamp 1 15, .store⟩
def RFS_STREAM_SEL_STREAM : Fld := ⟨114, 6, 0x050, 0x0, 1, 1, 0, 0, 10, .all, .rw, .const 0x0, .ident 1024 512, .store⟩
def RFS_SW_CFG_MODE : Fld := ⟨115, 6, 0x054, 0x0, 1, 1, 0, 0, 2, .all, .ro, .const 0x0, .plain, .object⟩
def RFS_SW_CFG_KEEP_PINNED : Fld := ⟨116, 6, 0x054, 0x0, 1, 1, 0, 2, 1, .all, .ro, .const 0x0, .plain, .object⟩
def RFS_SW_CFG_HIDE_CONCEALED : Fld := ⟨117, 6, 0x054, 0x0, 1, 1, 0, 3, 1, .all, .ro, .const 0x0, .plain, .object⟩
def RFS_SW_CFG_SEQ_CHECK : Fld := ⟨118, 6, 0x054, 0x0, 1, 1, 0, 4, 1, .all, .ro, .const 0x0, .plain, .object⟩
def RFS_SW_CFG_PIN_SLOTS : Fld := ⟨119, 6, 0x054, 0x0, 1, 1, 0, 8, 4, .all, .ro, .const 0x0, .plain, .object⟩
def RFS_SW_CFG_PIN_USED : Fld := ⟨120, 6, 0x054, 0x0, 1, 1, 0, 12, 4, .all, .ro, .const 0x0, .plain, .object⟩
def RFS_SW_CFG_PIN_MASK : Fld := ⟨121, 6, 0x054, 0x0, 1, 1, 0, 16, 8, .all, .ro, .const 0x0, .plain, .object⟩
def RFS_SW_CFG_DPB_PICS : Fld := ⟨122, 6, 0x054, 0x0, 1, 1, 0, 24, 5, .all, .ro, .const 0x0, .plain, .object⟩
def RFS_SW_CFG_HOLD_PICS : Fld := ⟨123, 6, 0x054, 0x0, 1, 1, 0, 29, 3, .all, .ro, .const 0x0, .plain, .object⟩
def RFS_SW_SEQ_REORDER_WIN : Fld := ⟨124, 6, 0x058, 0x0, 1, 1, 0, 0, 4, .all, .ro, .const 0x0, .plain, .object⟩
def RFS_SW_SEQ_HELD : Fld := ⟨125, 6, 0x058, 0x0, 1, 1, 0, 4, 4, .all, .ro, .const 0x0, .plain, .object⟩
def RFS_SW_SEQ_CONCEALING : Fld := ⟨126, 6, 0x058, 0x0, 1, 1, 0, 8, 1, .all, .ro, .const 0x0, .plain, .object⟩
def RFS_SW_NEXT_SEQ : Fld := ⟨127, 6, 0x05C, 0x0, 1, 1, 0, 0, 32, .all, .ro, .const 0x0, .plain, .object⟩
def RFS_SW_GRANULES : Fld := ⟨128, 6, 0x060, 0x0, 1, 1, 0, 0, 24, .all, .ro, .const 0x0, .plain, .object⟩
def RFS_SW_LOST : Fld := ⟨129, 6, 0x064, 0x0, 1, 1, 0, 0, 32, .all, .ro, .const 0x0, .plain, .object⟩
def RFS_SW_REF_MISSING : Fld := ⟨130, 6, 0x068, 0x0, 1, 1, 0, 0, 32, .all, .ro, .const 0x0, .plain, .object⟩
def RFS_SW_SLICE_CORRUPT : Fld := ⟨131, 6, 0x06C, 0x0, 1, 1, 0, 0, 32, .all, .ro, .const 0x0, .plain, .object⟩
def RFS_SW_CONCEALED : Fld := ⟨132, 6, 0x070, 0x0, 1, 1, 0, 0, 32, .all, .ro, .const 0x0, .plain, .object⟩
def RFS_SW_LATE_DROP : Fld := ⟨133, 6, 0x074, 0x0, 1, 1, 0, 0, 32, .all, .ro, .const 0x0, .plain, .object⟩
def RFS_SW_OOO : Fld := ⟨134, 6, 0x078, 0x0, 1, 1, 0, 0, 32, .all, .ro, .const 0x0, .plain, .object⟩
def RFS_SW_REF_READ_KIB : Fld := ⟨135, 6, 0x07C, 0x0, 1, 1, 0, 0, 32, .all, .ro, .const 0x0, .plain, .object⟩
def RFS_SW_REF_PLAIN_KIB : Fld := ⟨136, 6, 0x080, 0x0, 1, 1, 0, 0, 32, .all, .ro, .const 0x0, .plain, .object⟩

/-! Table 6.11. -/
def CLB_STATUS_ACTIVE_VALID : Fld := ⟨137, 27, 0x040, 0x0, 1, 1, 0, 0, 1, .all, .ro, .const 0x0, .plain, .object⟩
def CLB_STATUS_ACTIVE_BANK : Fld := ⟨138, 27, 0x040, 0x0, 1, 1, 0, 1, 1, .all, .ro, .const 0x0, .plain, .object⟩
def CLB_STATUS_SHADOW_VALID : Fld := ⟨139, 27, 0x040, 0x0, 1, 1, 0, 2, 1, .all, .ro, .const 0x0, .plain, .object⟩
def CLB_STATUS_SWAP_PENDING : Fld := ⟨140, 27, 0x040, 0x0, 1, 1, 0, 3, 1, .all, .ro, .const 0x0, .plain, .object⟩
def CLB_STATUS_OLD_BANK_BUSY : Fld := ⟨141, 27, 0x040, 0x0, 1, 1, 0, 4, 1, .all, .ro, .const 0x0, .plain, .object⟩
def CLB_STATUS_LOCKED : Fld := ⟨142, 27, 0x040, 0x0, 1, 1, 0, 5, 1, .all, .ro, .const 0x0, .plain, .object⟩
def CLB_WRITE_SEQ : Fld := ⟨143, 27, 0x044, 0x0, 1, 1, 0, 0, 16, .all, .ro, .const 0x0, .plain, .store⟩
def CLB_SWAP_FRAME : Fld := ⟨144, 27, 0x048, 0x0, 1, 1, 0, 0, 32, .all, .ro, .const 0x0, .plain, .store⟩
def CLB_EVQ_RING : Fld := ⟨145, 27, 0x04C, 0x0, 1, 1, 0, 0, 13, .all, .rw, .const 0x0, .ident 8192 4096, .store⟩
def CLB_EVQ_EN : Fld := ⟨146, 27, 0x04C, 0x0, 1, 1, 0, 31, 1, .all, .rw, .const 0x0, .plain, .store⟩
def CLB_GOOD_FRAMES : Fld := ⟨147, 27, 0x050, 0x0, 1, 1, 0, 0, 16, .all, .rw, .const 0x258, .clamp 1 65535, .store⟩
def CLB_PERIOD : Fld := ⟨148, 27, 0x054, 0x0, 1, 1, 0, 0, 32, .all, .ro, .const 0x1312D00, .plain, .store⟩
def CLB_SYNC_MEAS : Fld := ⟨149, 27, 0x058, 0x0, 1, 1, 0, 0, 32, .all, .ro, .const 0x0, .plain, .store⟩
def CLB_HOLDOVER_MARKS : Fld := ⟨150, 27, 0x05C, 0x0, 1, 1, 0, 0, 32, .all, .ro, .const 0x0, .plain, .store⟩
def CLB_TILE_SEL_TILE : Fld := ⟨151, 27, 0x060, 0x0, 1, 1, 0, 0, 14, .all, .rw, .const 0x0, .ident 16384 8192, .store⟩
def CLB_TILE_STATE_STATE : Fld := ⟨152, 27, 0x064, 0x0, 1, 1, 0, 0, 3, .all, .ro, .const 0x0, .plain, .object⟩
def CLB_TILE_STATE_MISMATCH : Fld := ⟨153, 27, 0x064, 0x0, 1, 1, 0, 8, 7, .all, .ro, .const 0x0, .plain, .object⟩
def CLB_DARK_TILES : Fld := ⟨154, 27, 0x068, 0x0, 1, 1, 0, 0, 15, .all, .ro, .const 0x0, .plain, .store⟩

/-! Table 7.6. -/
def CNV_AUD_SNAP_TAKE : Fld := ⟨155, 7, 0x040, 0x0, 1, 1, 0, 0, 1, .all, .wo, .const 0x0, .plain, .store⟩
def CNV_AUD_SNAP_SEQ : Fld := ⟨156, 7, 0x040, 0x0, 1, 1, 0, 16, 16, .all, .ro, .const 0x0, .plain, .store⟩
def CNV_LEAD_US : Fld := ⟨157, 7, 0x044, 0x0, 1, 1, 0, 0, 9, .all, .rw, .const 0x190, .clamp 100 400, .store⟩
def CNV_STATUS_ROW_PAIR : Fld := ⟨158, 7, 0x048, 0x0, 1, 1, 0, 0, 15, .all, .ro, .const 0x0, .plain, .store⟩
def CNV_STATUS_SCANNING : Fld := ⟨159, 7, 0x048, 0x0, 1, 1, 0, 16, 1, .all, .ro, .const 0x0, .plain, .store⟩
def CNV_FRAME : Fld := ⟨160, 7, 0x04C, 0x0, 1, 1, 0, 0, 32, .all, .ro, .const 0x0, .plain, .store⟩
def CNV_LATE_RP : Fld := ⟨161, 7, 0x050, 0x0, 1, 1, 0, 0, 32, .all, .ro, .const 0x0, .plain, .store⟩
def CNV_OVERRUN : Fld := ⟨162, 7, 0x054, 0x0, 1, 1, 0, 0, 32, .all, .ro, .const 0x0, .plain, .store⟩
def CNV_LATE_MAX : Fld := ⟨163, 7, 0x058, 0x0, 1, 1, 0, 0, 32, .all, .rw, .const 0x0, .plain, .store⟩
def CNV_EVQ_RING : Fld := ⟨164, 7, 0x05C, 0x0, 1, 1, 0, 0, 13, .all, .rw, .const 0x0, .ident 8192 4096, .store⟩
def CNV_EVQ_EN : Fld := ⟨165, 7, 0x05C, 0x0, 1, 1, 0, 31, 1, .all, .rw, .const 0x0, .plain, .store⟩
def CNV_WIN_SEL_WINDOW : Fld := ⟨166, 7, 0x060, 0x0, 1, 1, 0, 0, 8, .all, .rw, .const 0x0, .plain, .store⟩
def CNV_WIN_STATE_ENABLED : Fld := ⟨167, 7, 0x064, 0x0, 1, 1, 0, 0, 1, .all, .ro, .const 0x0, .plain, .object⟩
def CNV_WIN_STATE_BOUND : Fld := ⟨168, 7, 0x064, 0x0, 1, 1, 0, 1, 1, .all, .ro, .const 0x0, .plain, .object⟩
def CNV_WIN_STATE_REPEAT : Fld := ⟨169, 7, 0x064, 0x0, 1, 1, 0, 2, 1, .all, .ro, .const 0x0, .plain, .object⟩
def CNV_WIN_STATE_EMPTY : Fld := ⟨170, 7, 0x064, 0x0, 1, 1, 0, 3, 1, .all, .ro, .const 0x0, .plain, .object⟩
def CNV_WIN_STATE_STREAM : Fld := ⟨171, 7, 0x064, 0x0, 1, 1, 0, 8, 10, .all, .ro, .const 0x0, .plain, .object⟩
def CNV_WIN_COLOUR_PRIMARIES : Fld := ⟨172, 7, 0x068, 0x0, 1, 1, 0, 0, 8, .all, .ro, .const 0x0, .plain, .object⟩
def CNV_WIN_COLOUR_TRANSFER : Fld := ⟨173, 7, 0x068, 0x0, 1, 1, 0, 8, 8, .all, .ro, .const 0x0, .plain, .object⟩
def CNV_WIN_COLOUR_MATRIX : Fld := ⟨174, 7, 0x068, 0x0, 1, 1, 0, 16, 8, .all, .ro, .const 0x0, .plain, .object⟩
def CNV_WIN_COLOUR_FULL_RANGE : Fld := ⟨175, 7, 0x068, 0x0, 1, 1, 0, 24, 1, .all, .ro, .const 0x0, .plain, .object⟩
def CNV_WIN_REPEATS : Fld := ⟨176, 7, 0x06C, 0x0, 1, 1, 0, 0, 32, .all, .ro, .const 0x0, .plain, .object⟩
def CNV_AUD_CR_ISSUED : Fld := ⟨177, 7, 0x900, 0x0, 1, 1, 0, 0, 64, .all, .ro, .const 0x0, .plain, .store⟩
def CNV_AUD_CR_RETURNED : Fld := ⟨178, 7, 0x908, 0x0, 1, 1, 0, 0, 64, .all, .ro, .const 0x0, .plain, .store⟩
def CNV_AUD_CR_OUT : Fld := ⟨179, 7, 0x910, 0x0, 1, 1, 0, 0, 64, .all, .ro, .const 0x0, .plain, .store⟩

/-! Table 7.7. -/
def DRV_AUD_SNAP_TAKE : Fld := ⟨180, 8, 0x040, 0x0, 1, 1, 0, 0, 1, .all, .wo, .const 0x0, .plain, .store⟩
def DRV_AUD_SNAP_SEQ : Fld := ⟨181, 8, 0x040, 0x0, 1, 1, 0, 16, 16, .all, .ro, .const 0x0, .plain, .store⟩
def DRV_GMAP_ERRORS : Fld := ⟨182, 8, 0x044, 0x0, 1, 1, 0, 0, 32, .all, .ro, .const 0x0, .plain, .store⟩
def DRV_GMAP_KIB : Fld := ⟨183, 8, 0x048, 0x0, 1, 1, 0, 0, 32, .all, .ro, .const 0x0, .plain, .store⟩
def DRV_GMAP_WAIT : Fld := ⟨184, 8, 0x04C, 0x0, 1, 1, 0, 0, 32, .all, .ro, .const 0x0, .plain, .store⟩
def DRV_EVQ_RING : Fld := ⟨185, 8, 0x050, 0x0, 1, 1, 0, 0, 13, .all, .rw, .const 0x0, .ident 8192 4096, .store⟩
def DRV_EVQ_EN : Fld := ⟨186, 8, 0x050, 0x0, 1, 1, 0, 31, 1, .all, .rw, .const 0x0, .plain, .store⟩
def DRV_TILE_SEL_TILE : Fld := ⟨187, 8, 0x054, 0x0, 1, 1, 0, 0, 14, .all, .rw, .const 0x0, .ident 16384 8192, .store⟩
def DRV_TILE_STATUS_DARK : Fld := ⟨188, 8, 0x058, 0x0, 1, 1, 0, 0, 1, .all, .ro, .const 0x0, .plain, .object⟩
def DRV_TILE_STATUS_GMAP_ERR : Fld := ⟨189, 8, 0x058, 0x0, 1, 1, 0, 1, 1, .all, .ro, .const 0x0, .plain, .object⟩
def DRV_TILE_STATUS_NO_GMAP : Fld := ⟨190, 8, 0x058, 0x0, 1, 1, 0, 2, 1, .all, .ro, .const 0x0, .plain, .object⟩
def DRV_AUD_CR_ISSUED : Fld := ⟨191, 8, 0x900, 0x0, 1, 1, 0, 0, 64, .all, .ro, .const 0x0, .plain, .store⟩
def DRV_AUD_CR_RETURNED : Fld := ⟨192, 8, 0x908, 0x0, 1, 1, 0, 0, 64, .all, .ro, .const 0x0, .plain, .store⟩
def DRV_AUD_CR_OUT : Fld := ⟨193, 8, 0x910, 0x0, 1, 1, 0, 0, 64, .all, .ro, .const 0x0, .plain, .store⟩

/-! Table 8.6. -/
def FUS_AUD_SNAP_TAKE : Fld := ⟨194, 9, 0x040, 0x0, 1, 1, 0, 0, 1, .all, .wo, .const 0x0, .plain, .store⟩
def FUS_AUD_SNAP_SEQ : Fld := ⟨195, 9, 0x040, 0x0, 1, 1, 0, 16, 16, .all, .ro, .const 0x0, .plain, .store⟩
def FUS_CAP_CTL_COMMIT : Fld := ⟨196, 9, 0x044, 0x0, 1, 1, 0, 0, 1, .first, .wo, .const 0x0, .plain, .store⟩
def FUS_CAP_CTL_UNLOCKED : Fld := ⟨197, 9, 0x044, 0x0, 1, 1, 0, 1, 1, .first, .ro, .const 0x0, .plain, .store⟩
def FUS_CAP_CTL_BUSY : Fld := ⟨198, 9, 0x044, 0x0, 1, 1, 0, 2, 1, .first, .ro, .const 0x0, .plain, .store⟩
def FUS_CAP_CTL_LOADED : Fld := ⟨199, 9, 0x044, 0x0, 1, 1, 0, 3, 1, .first, .ro, .const 0x0, .plain, .store⟩
def FUS_CAP_CTL_RESULT : Fld := ⟨200, 9, 0x044, 0x0, 1, 1, 0, 4, 4, .first, .ro, .const 0x0, .plain, .store⟩
def FUS_CAP_SRC_LO_ADDR : Fld := ⟨201, 9, 0x048, 0x0, 1, 1, 0, 6, 26, .first, .rw, .const 0x0, .plain, .store⟩
def FUS_CAP_SRC_HI : Fld := ⟨202, 9, 0x04C, 0x0, 1, 1, 0, 0, 32, .first, .rw, .const 0x0, .plain, .store⟩
def FUS_CAP_SEQ : Fld := ⟨203, 9, 0x050, 0x0, 1, 1, 0, 0, 32, .first, .ro, .const 0x0, .plain, .store⟩
def FUS_EVQ_RING : Fld := ⟨204, 9, 0x054, 0x0, 1, 1, 0, 0, 13, .first, .rw, .const 0x0, .ident 8192 4096, .store⟩
def FUS_EVQ_CUT_EN : Fld := ⟨205, 9, 0x054, 0x0, 1, 1, 0, 30, 1, .first, .rw, .const 0x0, .plain, .store⟩
def FUS_EVQ_EN : Fld := ⟨206, 9, 0x054, 0x0, 1, 1, 0, 31, 1, .first, .rw, .const 0x0, .plain, .store⟩
def FUS_FORCE_CIRCUIT : Fld := ⟨207, 9, 0x058, 0x0, 1, 1, 0, 0, 7, .all, .wo, .const 0x0, .plain, .store⟩
def FUS_FORCE_GO : Fld := ⟨208, 9, 0x058, 0x0, 1, 1, 0, 31, 1, .all, .wo, .const 0x0, .plain, .store⟩
def FUS_FORCE_VAL_LO : Fld := ⟨209, 9, 0x05C, 0x0, 1, 1, 0, 0, 32, .all, .rw, .const 0x0, .plain, .store⟩
def FUS_FORCE_VAL_HI : Fld := ⟨210, 9, 0x060, 0x0, 1, 1, 0, 0, 16, .all, .rw, .const 0x0, .plain, .store⟩
def FUS_CIRC_SEL_CIRCUIT : Fld := ⟨211, 9, 0x064, 0x0, 1, 1, 0, 0, 7, .all, .rw, .const 0x0, .plain, .store⟩
def FUS_C_CAP_LO : Fld := ⟨212, 9, 0x068, 0x0, 1, 1, 0, 0, 32, .all, .ro, .const 0x0, .plain, .object⟩
def FUS_C_CAP_HI_CAP : Fld := ⟨213, 9, 0x06C, 0x0, 1, 1, 0, 0, 16, .all, .ro, .const 0x0, .plain, .object⟩
def FUS_C_CAP_HI_SLEW : Fld := ⟨214, 9, 0x06C, 0x0, 1, 1, 0, 16, 13, .all, .ro, .const 0x0, .plain, .object⟩
def FUS_C_GRANT_LO : Fld := ⟨215, 9, 0x070, 0x0, 1, 1, 0, 0, 32, .all, .ro, .const 0x0, .plain, .object⟩
def FUS_C_GRANT_HI : Fld := ⟨216, 9, 0x074, 0x0, 1, 1, 0, 0, 16, .all, .ro, .const 0x0, .plain, .object⟩
def FUS_C_USED_LO : Fld := ⟨217, 9, 0x078, 0x0, 1, 1, 0, 0, 32, .all, .ro, .const 0x0, .plain, .object⟩
def FUS_C_USED_HI : Fld := ⟨218, 9, 0x07C, 0x0, 1, 1, 0, 0, 16, .all, .ro, .const 0x0, .plain, .object⟩
def FUS_C_PREV_LO : Fld := ⟨219, 9, 0x080, 0x0, 1, 1, 0, 0, 32, .all, .ro, .const 0x0, .plain, .object⟩
def FUS_C_PREV_HI : Fld := ⟨220, 9, 0x084, 0x0, 1, 1, 0, 0, 16, .all, .ro, .const 0x0, .plain, .object⟩
def FUS_C_SCALE_S : Fld := ⟨221, 9, 0x088, 0x0, 1, 1, 0, 0, 16, .all, .ro, .const 0x8000, .plain, .object⟩
def FUS_C_SCALE_S_LOW : Fld := ⟨222, 9, 0x088, 0x0, 1, 1, 0, 16, 16, .all, .ro, .const 0x8000, .plain, .object⟩
def FUS_C_CUTS : Fld := ⟨223, 9, 0x08C, 0x0, 1, 1, 0, 0, 32, .all, .ro, .const 0x0, .plain, .object⟩
def FUS_C_LATE_TILES : Fld := ⟨224, 9, 0x090, 0x0, 1, 1, 0, 0, 32, .all, .ro, .const 0x0, .plain, .object⟩
def FUS_AUD_GRANTED : Fld := ⟨225, 9, 0x900, 0x0, 1, 1, 0, 0, 64, .all, .ro, .const 0x0, .plain, .object⟩
def FUS_AUD_CONSUMED : Fld := ⟨226, 9, 0x908, 0x0, 1, 1, 0, 0, 64, .all, .ro, .const 0x0, .plain, .object⟩
def FUS_AUD_EXPIRED : Fld := ⟨227, 9, 0x910, 0x0, 1, 1, 0, 0, 64, .all, .ro, .const 0x0, .plain, .object⟩
def FUS_TGT_LO_TOKENS : Fld := ⟨228, 9, 0xC00, 0x8, 128, 1, 0, 0, 32, .all, .rw, .const 0xFFFFFFFF, .plain, .store⟩
def FUS_TGT_HI_TOKENS : Fld := ⟨229, 9, 0xC04, 0x8, 128, 1, 0, 0, 16, .all, .rw, .const 0xFFFF, .plain, .store⟩
def FUS_TGT_HI_SCALE : Fld := ⟨230, 9, 0xC04, 0x8, 128, 1, 0, 16, 16, .all, .rw, .const 0x8000, .clamp 0 0x8000, .store⟩

/-! Table 10.3. -/
def MZE_QCTL_Q_START : Fld := ⟨231, 10, 0x040, 0x0, 1, 1, 0, 0, 5, .first, .rw, .const 0xC, .plain, .store⟩
def MZE_QCTL_STEP_DN : Fld := ⟨232, 10, 0x040, 0x0, 1, 1, 0, 8, 3, .first, .rw, .const 0x1, .plain, .store⟩
def MZE_QCTL_STEP_UP : Fld := ⟨233, 10, 0x040, 0x0, 1, 1, 0, 12, 3, .first, .rw, .const 0x2, .plain, .store⟩
def MZE_QCTL_FLOOR_JUMP : Fld := ⟨234, 10, 0x040, 0x0, 1, 1, 0, 16, 4, .first, .rw, .const 0x4, .plain, .store⟩
def MZE_QDZ_DEADZONE : Fld := ⟨235, 10, 0x044, 0x0, 1, 1, 0, 0, 16, .first, .rw, .const 0x5555, .clamp 0 0x8000, .store⟩
def MZE_SKIP_TOL : Fld := ⟨236, 10, 0x048, 0x0, 1, 1, 0, 0, 16, .first, .rw, .const 0x0, .plain, .store⟩
def MZE_REFRESH_ROLL_PERIOD : Fld := ⟨237, 10, 0x04C, 0x0, 1, 1, 0, 0, 8, .first, .rw, .const 0x40, .plain, .store⟩
def MZE_REFRESH_ABOVE_RUN : Fld := ⟨238, 10, 0x04C, 0x0, 1, 1, 0, 8, 8, .first, .rw, .const 0x8, .clamp 1 255, .store⟩
def MZE_REFRESH_ABOVE_EN : Fld := ⟨239, 10, 0x04C, 0x0, 1, 1, 0, 16, 1, .first, .rw, .const 0x1, .plain, .store⟩
def MZE_REF_BASE : Fld := ⟨240, 10, 0x050, 0x0, 1, 1, 0, 0, 24, .first, .rw, .const 0x0, .plain, .store⟩
def MZE_REF_SIZE : Fld := ⟨241, 10, 0x054, 0x0, 1, 1, 0, 0, 24, .first, .rw, .const 0x0, .plain, .store⟩
def MZE_REF_FREE : Fld := ⟨242, 10, 0x058, 0x0, 1, 1, 0, 0, 24, .first, .ro, .const 0x0, .plain, .store⟩
def MZE_EVQ_RING : Fld := ⟨243, 10, 0x05C, 0x0, 1, 1, 0, 0, 13, .first, .rw, .const 0x0, .ident 8192 4096, .store⟩
def MZE_EVQ_FLOOR_EN : Fld := ⟨244, 10, 0x05C, 0x0, 1, 1, 0, 30, 1, .first, .rw, .const 0x0, .plain, .store⟩
def MZE_EVQ_EN : Fld := ⟨245, 10, 0x05C, 0x0, 1, 1, 0, 31, 1, .first, .rw, .const 0x0, .plain, .store⟩
def MZE_CMAP_LO_ADDR : Fld := ⟨246, 10, 0x060, 0x0, 1, 1, 0, 6, 26, .first, .rw, .const 0x0, .plain, .store⟩
def MZE_CMAP_HI : Fld := ⟨247, 10, 0x064, 0x0, 1, 1, 0, 0, 32, .first, .rw, .const 0x0, .plain, .store⟩
def MZE_CMAP_CTL_EN : Fld := ⟨248, 10, 0x068, 0x0, 1, 1, 0, 0, 1, .first, .rw, .const 0x0, .plain, .store⟩
def MZE_TILE_SEL_TILE : Fld := ⟨249, 10, 0x06C, 0x0, 1, 1, 0, 0, 14, .first, .rw, .const 0x0, .ident 16384 8192, .store⟩
def MZE_TILE_BUDGET : Fld := ⟨250, 10, 0x070, 0x0, 1, 1, 0, 0, 24, .first, .ro, .const 0x0, .plain, .object⟩
def MZE_TILE_USED : Fld := ⟨251, 10, 0x074, 0x0, 1, 1, 0, 0, 24, .first, .ro, .const 0x0, .plain, .object⟩
def MZE_TILE_CODING_QB : Fld := ⟨252, 10, 0x078, 0x0, 1, 1, 0, 0, 5, .first, .ro, .const 0x0, .plain, .object⟩
def MZE_TILE_CODING_MIN_F : Fld := ⟨253, 10, 0x078, 0x0, 1, 1, 0, 8, 5, .first, .ro, .const 0x0, .plain, .object⟩
def MZE_TILE_CODING_FLOOR_RP : Fld := ⟨254, 10, 0x078, 0x0, 1, 1, 0, 16, 10, .first, .ro, .const 0x0, .plain, .object⟩
def MZE_TILE_STATE_SUSPECT : Fld := ⟨255, 10, 0x07C, 0x0, 1, 1, 0, 0, 10, .first, .ro, .const 0x0, .plain, .object⟩
def MZE_TILE_STATE_FLOORED : Fld := ⟨256, 10, 0x07C, 0x0, 1, 1, 0, 16, 10, .first, .ro, .const 0x0, .plain, .object⟩
def MZE_TILE_STATE_INTRA_ALL : Fld := ⟨257, 10, 0x07C, 0x0, 1, 1, 0, 31, 1, .first, .ro, .const 0x0, .plain, .object⟩
def MZE_FLOOR_RP : Fld := ⟨258, 10, 0x080, 0x0, 1, 1, 0, 0, 32, .first, .ro, .const 0x0, .plain, .store⟩
def MZE_REFRESH_RP : Fld := ⟨259, 10, 0x084, 0x0, 1, 1, 0, 0, 32, .first, .ro, .const 0x0, .plain, .store⟩
def MZE_DAMAGE_RP : Fld := ⟨260, 10, 0x088, 0x0, 1, 1, 0, 0, 32, .first, .ro, .const 0x0, .plain, .store⟩
def MZE_UNSENT_RP : Fld := ⟨261, 10, 0x08C, 0x0, 1, 1, 0, 0, 32, .first, .ro, .const 0x0, .plain, .store⟩
def MZE_CORE_STATUS_BUSY : Fld := ⟨262, 10, 0x100, 0x20, 8, 1, 0, 0, 1, .all, .ro, .const 0x0, .plain, .object⟩
def MZE_CORE_STATUS_OFFLINE : Fld := ⟨263, 10, 0x100, 0x20, 8, 1, 0, 1, 1, .all, .ro, .const 0x0, .plain, .object⟩
def MZE_CORE_STATUS_FUSED : Fld := ⟨264, 10, 0x100, 0x20, 8, 1, 0, 2, 1, .all, .ro, .const 0x0, .plain, .object⟩
def MZE_CORE_STATUS_TILE : Fld := ⟨265, 10, 0x100, 0x20, 8, 1, 0, 8, 14, .all, .ro, .const 0x0, .plain, .object⟩
def MZE_CORE_CTL_OFFLINE : Fld := ⟨266, 10, 0x104, 0x20, 8, 1, 0, 0, 1, .all, .rw, .const 0x0, .plain, .object⟩
def MZE_CORE_CTL_RESET : Fld := ⟨267, 10, 0x104, 0x20, 8, 1, 0, 1, 1, .all, .wo, .const 0x0, .plain, .object⟩
def MZE_CORE_RP : Fld := ⟨268, 10, 0x108, 0x20, 8, 1, 0, 0, 32, .all, .ro, .const 0x0, .plain, .object⟩
def MZE_CORE_BUSY : Fld := ⟨269, 10, 0x10C, 0x20, 8, 1, 0, 0, 32, .all, .ro, .const 0x0, .plain, .object⟩
def MZE_CURVE_A_ODD : Fld := ⟨270, 10, 0x400, 0x4, 128, 1, 0, 0, 16, .first, .rw, .curveOdd, .plain, .store⟩
def MZE_CURVE_A_EVEN : Fld := ⟨271, 10, 0x400, 0x4, 128, 1, 0, 16, 16, .first, .rw, .curveEven, .plain, .store⟩

/-! Table 11.5. -/
def ENC_REGION_BASE : Fld := ⟨272, 11, 0x040, 0x0, 1, 1, 0, 0, 24, .first, .rw, .const 0x0, .plain, .store⟩
def ENC_REGION_SIZE : Fld := ⟨273, 11, 0x044, 0x0, 1, 1, 0, 0, 24, .first, .rw, .const 0x0, .plain, .store⟩
def ENC_REGION_FREE : Fld := ⟨274, 11, 0x048, 0x0, 1, 1, 0, 0, 24, .first, .ro, .const 0x0, .plain, .store⟩
def ENC_SESS_SEL_SESSION : Fld := ⟨275, 11, 0x04C, 0x0, 1, 1, 0, 0, 5, .first, .rw, .const 0x0, .ident 32 16, .store⟩
def ENC_SS_STATE_STATE : Fld := ⟨276, 11, 0x050, 0x0, 1, 1, 0, 0, 2, .first, .ro, .const 0x0, .plain, .object⟩
def ENC_SS_STATE_SOURCE : Fld := ⟨277, 11, 0x050, 0x0, 1, 1, 0, 2, 1, .first, .ro, .const 0x0, .plain, .object⟩
def ENC_SS_STATE_RATE_MODE : Fld := ⟨278, 11, 0x050, 0x0, 1, 1, 0, 3, 2, .first, .ro, .const 0x0, .plain, .object⟩
def ENC_SS_STATE_CORES : Fld := ⟨279, 11, 0x050, 0x0, 1, 1, 0, 8, 8, .first, .ro, .const 0x0, .plain, .object⟩
def ENC_SS_PICS : Fld := ⟨280, 11, 0x054, 0x0, 1, 1, 0, 0, 32, .first, .ro, .const 0x0, .plain, .object⟩
def ENC_SS_SKIP : Fld := ⟨281, 11, 0x058, 0x0, 1, 1, 0, 0, 32, .first, .ro, .const 0x0, .plain, .object⟩
def ENC_SS_NOBUF : Fld := ⟨282, 11, 0x05C, 0x0, 1, 1, 0, 0, 32, .first, .ro, .const 0x0, .plain, .object⟩
def ENC_SS_GUARD : Fld := ⟨283, 11, 0x060, 0x0, 1, 1, 0, 0, 32, .first, .ro, .const 0x0, .plain, .object⟩
def ENC_SS_OVERFLOW : Fld := ⟨284, 11, 0x064, 0x0, 1, 1, 0, 0, 32, .first, .ro, .const 0x0, .plain, .object⟩
def ENC_SS_FULLNESS : Fld := ⟨285, 11, 0x068, 0x0, 1, 1, 0, 0, 32, .first, .ro, .const 0x0, .plain, .object⟩
def ENC_CORE_STATUS_BUSY : Fld := ⟨286, 11, 0x100, 0x0, 1, 1, 0, 0, 1, .all, .ro, .const 0x0, .plain, .object⟩
def ENC_CORE_STATUS_OFFLINE : Fld := ⟨287, 11, 0x100, 0x0, 1, 1, 0, 1, 1, .all, .ro, .const 0x0, .plain, .object⟩
def ENC_CORE_STATUS_FUSED : Fld := ⟨288, 11, 0x100, 0x0, 1, 1, 0, 2, 1, .all, .ro, .const 0x0, .plain, .object⟩
def ENC_CORE_STATUS_SESSION : Fld := ⟨289, 11, 0x100, 0x0, 1, 1, 0, 8, 5, .all, .ro, .const 0x0, .plain, .object⟩
def ENC_CORE_CTL_OFFLINE : Fld := ⟨290, 11, 0x104, 0x0, 1, 1, 0, 0, 1, .all, .rw, .const 0x0, .plain, .object⟩
def ENC_CORE_CTL_RESET : Fld := ⟨291, 11, 0x104, 0x0, 1, 1, 0, 1, 1, .all, .wo, .const 0x0, .plain, .object⟩
def ENC_CORE_LOAD : Fld := ⟨292, 11, 0x108, 0x0, 1, 1, 0, 0, 10, .all, .ro, .const 0x0, .plain, .object⟩
def ENC_CORE_BUSY : Fld := ⟨293, 11, 0x10C, 0x0, 1, 1, 0, 0, 32, .all, .ro, .const 0x0, .plain, .object⟩
def ENC_OETF_LO : Fld := ⟨294, 11, 0x800, 0x4, 512, 1, 0, 0, 10, .first, .rw, .const 0x0, .plain, .store⟩
def ENC_OETF_HI : Fld := ⟨295, 11, 0x800, 0x4, 512, 1, 0, 16, 10, .first, .rw, .const 0x0, .plain, .store⟩

/-! Table 12.7. -/
def BPM_AUD_SNAP_TAKE : Fld := ⟨296, 13, 0x040, 0x0, 1, 1, 0, 0, 1, .all, .wo, .const 0x0, .plain, .store⟩
def BPM_AUD_SNAP_SEQ : Fld := ⟨297, 13, 0x040, 0x0, 1, 1, 0, 16, 16, .all, .ro, .const 0x0, .plain, .store⟩
def BPM_STATUS_ODIE_READY : Fld := ⟨298, 13, 0x044, 0x0, 1, 1, 0, 0, 1, .all, .ro, .const 0x0, .plain, .store⟩
def BPM_STATUS_DPOOL_READY : Fld := ⟨299, 13, 0x044, 0x0, 1, 1, 0, 1, 1, .all, .ro, .const 0x0, .plain, .store⟩
def BPM_STATUS_REBUILD : Fld := ⟨300, 13, 0x044, 0x0, 1, 1, 0, 2, 1, .all, .ro, .const 0x0, .plain, .store⟩
def BPM_DPOOL_BASE : Fld := ⟨301, 13, 0x048, 0x0, 1, 1, 0, 0, 24, .all, .rw, .const 0x0, .plain, .store⟩
def BPM_DPOOL_COUNT : Fld := ⟨302, 13, 0x04C, 0x0, 1, 1, 0, 0, 25, .all, .rw, .const 0x0, .plain, .store⟩
def BPM_MISUSE : Fld := ⟨303, 13, 0x050, 0x0, 1, 1, 0, 0, 32, .all, .ro, .const 0x0, .plain, .store⟩
def BPM_MISUSE_LAST_OP : Fld := ⟨304, 13, 0x054, 0x0, 1, 1, 0, 0, 3, .all, .ro, .const 0x0, .plain, .store⟩
def BPM_MISUSE_LAST_STATUS : Fld := ⟨305, 13, 0x054, 0x0, 1, 1, 0, 4, 4, .all, .ro, .const 0x0, .plain, .store⟩
def BPM_MISUSE_LAST_OWNER : Fld := ⟨306, 13, 0x054, 0x0, 1, 1, 0, 8, 7, .all, .ro, .const 0x0, .plain, .store⟩
def BPM_MISUSE_BUF : Fld := ⟨307, 13, 0x058, 0x0, 1, 1, 0, 0, 25, .all, .ro, .const 0x0, .plain, .store⟩
def BPM_SHARED_FREE0 : Fld := ⟨308, 13, 0x05C, 0x0, 1, 1, 0, 0, 32, .all, .ro, .const 0x0, .plain, .object⟩
def BPM_SHARED_FREE1 : Fld := ⟨309, 13, 0x060, 0x0, 1, 1, 0, 0, 32, .all, .ro, .const 0x0, .plain, .object⟩
def BPM_OWN_SEL_OWNER : Fld := ⟨310, 13, 0x064, 0x0, 1, 1, 0, 0, 7, .all, .rw, .const 0x0, .plain, .store⟩
def BPM_OWN_NAMED : Fld := ⟨311, 13, 0x068, 0x0, 1, 1, 0, 0, 25, .all, .ro, .const 0x0, .plain, .object⟩
def BPM_OWN_HELD : Fld := ⟨312, 13, 0x06C, 0x0, 1, 1, 0, 0, 25, .all, .ro, .const 0x0, .plain, .object⟩
def BPM_OWN_STATUS_OVERQ : Fld := ⟨313, 13, 0x070, 0x0, 1, 1, 0, 0, 1, .all, .ro, .const 0x0, .plain, .object⟩
def BPM_OWN_STATUS_BELOW_MIN : Fld := ⟨314, 13, 0x070, 0x0, 1, 1, 0, 1, 1, .all, .ro, .const 0x0, .plain, .object⟩
def BPM_FORCE_BUF : Fld := ⟨315, 13, 0x074, 0x0, 1, 1, 0, 0, 25, .all, .rw, .const 0x0, .plain, .store⟩
def BPM_FORCE_GO : Fld := ⟨316, 13, 0x078, 0x0, 1, 1, 0, 0, 1, .all, .wo, .const 0x0, .plain, .store⟩
def BPM_FORCE_ACTION : Fld := ⟨317, 13, 0x078, 0x0, 1, 1, 0, 1, 1, .all, .wo, .const 0x0, .plain, .store⟩
def BPM_FORCE_OWNER : Fld := ⟨318, 13, 0x078, 0x0, 1, 1, 0, 8, 7, .all, .wo, .const 0x0, .plain, .store⟩
def BPM_CMD_BUF : Fld := ⟨319, 13, 0x100, 0x10, 17, 1, 0, 0, 25, .all, .rw, .const 0x0, .plain, .store⟩
def BPM_CMD_OP : Fld := ⟨320, 13, 0x104, 0x10, 17, 1, 0, 0, 3, .all, .wo, .const 0x0, .plain, .store⟩
def BPM_CMD_N : Fld := ⟨321, 13, 0x104, 0x10, 17, 1, 0, 4, 4, .all, .wo, .const 0x0, .plain, .store⟩
def BPM_CMD_OWNER : Fld := ⟨322, 13, 0x104, 0x10, 17, 1, 0, 8, 7, .all, .wo, .const 0x0, .plain, .store⟩
def BPM_RSP_BUF : Fld := ⟨323, 13, 0x108, 0x10, 17, 1, 0, 0, 25, .all, .ro, .const 0x0, .plain, .store⟩
def BPM_RSP_STATUS : Fld := ⟨324, 13, 0x108, 0x10, 17, 1, 0, 25, 4, .all, .ro, .const 0x0, .plain, .store⟩
def BPM_RSP_DONE : Fld := ⟨325, 13, 0x108, 0x10, 17, 1, 0, 31, 1, .all, .ro, .const 0x1, .plain, .store⟩
def BPM_QUOTA_QUOTA : Fld := ⟨326, 13, 0x300, 0x8, 128, 1, 0, 0, 25, .all, .rw, .const 0x0, .plain, .store⟩
def BPM_QUOTA_POOL : Fld := ⟨327, 13, 0x300, 0x8, 128, 1, 0, 25, 2, .all, .rw, .const 0x0, .plain, .store⟩
def BPM_MIN : Fld := ⟨328, 13, 0x304, 0x8, 128, 1, 0, 0, 25, .all, .rw, .const 0x0, .plain, .store⟩
def BPM_AUD_FREE : Fld := ⟨329, 13, 0x900, 0x20, 2, 1, 0, 0, 64, .all, .ro, .const 0x0, .plain, .store⟩
def BPM_AUD_ALLOC : Fld := ⟨330, 13, 0x908, 0x20, 2, 1, 0, 0, 64, .all, .ro, .const 0x0, .plain, .store⟩
def BPM_AUD_PENDING : Fld := ⟨331, 13, 0x910, 0x20, 2, 1, 0, 0, 64, .all, .ro, .const 0x0, .plain, .store⟩
def BPM_AUD_TOTAL : Fld := ⟨332, 13, 0x918, 0x20, 2, 1, 0, 0, 64, .all, .ro, .const 0x0, .plain, .store⟩

/-! Table 12.8. -/
def SWC_AUD_SNAP_TAKE : Fld := ⟨333, 12, 0x040, 0x0, 1, 1, 0, 0, 1, .all, .wo, .const 0x0, .plain, .store⟩
def SWC_AUD_SNAP_SEQ : Fld := ⟨334, 12, 0x040, 0x0, 1, 1, 0, 16, 16, .all, .ro, .const 0x0, .plain, .store⟩
def SWC_OUT_SEL_OUTPUT : Fld := ⟨335, 12, 0x044, 0x0, 1, 1, 0, 0, 7, .all, .rw, .const 0x0, .ident 66 66, .store⟩
def SWC_MC_PARTIAL : Fld := ⟨336, 12, 0x048, 0x0, 1, 1, 0, 0, 32, .all, .ro, .const 0x0, .plain, .store⟩
def SWC_SMP_CTL_RING : Fld := ⟨337, 12, 0x04C, 0x0, 1, 1, 0, 0, 13, .all, .rw, .const 0x0, .ident 8192 4096, .store⟩
def SWC_SMP_CTL_DEST : Fld := ⟨338, 12, 0x04C, 0x0, 1, 1, 0, 13, 1, .all, .rw, .const 0x0, .plain, .store⟩
def SWC_SMP_CTL_REG : Fld := ⟨339, 12, 0x04C, 0x0, 1, 1, 0, 14, 4, .all, .rw, .const 0x0, .ident 16 8, .store⟩
def SWC_SMP_CTL_EN : Fld := ⟨340, 12, 0x04C, 0x0, 1, 1, 0, 31, 1, .all, .rw, .const 0x0, .plain, .store⟩
def SWC_SMP_TAKEN : Fld := ⟨341, 12, 0x050, 0x0, 1, 1, 0, 0, 32, .all, .ro, .const 0x0, .plain, .store⟩
def SWC_SMP_DROP : Fld := ⟨342, 12, 0x054, 0x0, 1, 1, 0, 0, 32, .all, .ro, .const 0x0, .plain, .store⟩
def SWC_RX_ROUTE_REG : Fld := ⟨343, 12, 0x058, 0x0, 1, 1, 0, 0, 4, .all, .rw, .const 0x0, .ident 16 8, .store⟩
def SWC_NOFWD : Fld := ⟨344, 12, 0x05C, 0x0, 1, 1, 0, 0, 32, .all, .ro, .const 0x0, .plain, .store⟩
def SWC_FWD_SEL_TILE : Fld := ⟨345, 12, 0x060, 0x0, 1, 1, 0, 0, 14, .all, .rw, .const 0x0, .ident 16384 8192, .store⟩
def SWC_FWD_SEL_BANK : Fld := ⟨346, 12, 0x060, 0x0, 1, 1, 0, 14, 1, .all, .rw, .const 0x0, .plain, .store⟩
def SWC_FWD_VIEW_PORT : Fld := ⟨347, 12, 0x064, 0x4, 8, 4, 8, 0, 6, .all, .ro, .const 0x0, .plain, .object⟩
def SWC_FWD_VIEW_VALID : Fld := ⟨348, 12, 0x064, 0x4, 8, 4, 8, 7, 1, .all, .ro, .const 0x0, .plain, .object⟩
def SWC_PORT_CTL_ACCEPT : Fld := ⟨349, 12, 0x100, 0x10, 64, 1, 0, 0, 1, .all, .rw, .const 0x1, .plain, .store⟩
def SWC_PORT_SMP_N : Fld := ⟨350, 12, 0x104, 0x10, 64, 1, 0, 0, 16, .all, .rw, .const 0x0, .plain, .store⟩
def SWC_PORT_DROP : Fld := ⟨351, 12, 0x108, 0x10, 64, 1, 0, 0, 32, .all, .ro, .const 0x0, .plain, .store⟩
def SWC_PORT_FRAMES : Fld := ⟨352, 12, 0x10C, 0x10, 64, 1, 0, 0, 32, .all, .ro, .const 0x0, .plain, .store⟩
def SWC_AUD_IN : Fld := ⟨353, 12, 0x900, 0x0, 1, 1, 0, 0, 64, .all, .ro, .const 0x0, .plain, .object⟩
def SWC_AUD_OUT : Fld := ⟨354, 12, 0x908, 0x0, 1, 1, 0, 0, 64, .all, .ro, .const 0x0, .plain, .object⟩
def SWC_AUD_DROP : Fld := ⟨355, 12, 0x910, 0x0, 1, 1, 0, 0, 64, .all, .ro, .const 0x0, .plain, .object⟩
def SWC_AUD_RESIDENT : Fld := ⟨356, 12, 0x918, 0x0, 1, 1, 0, 0, 64, .all, .ro, .const 0x0, .plain, .object⟩

/-! Table 13.7. -/
def SCH_AUD_SNAP_TAKE : Fld := ⟨357, 14, 0x040, 0x0, 1, 1, 0, 0, 1, .all, .wo, .const 0x0, .plain, .store⟩
def SCH_AUD_SNAP_SEQ : Fld := ⟨358, 14, 0x040, 0x0, 1, 1, 0, 16, 16, .all, .ro, .const 0x0, .plain, .store⟩
def SCH_PORT_CTL_LEAF_FAIR : Fld := ⟨359, 14, 0x044, 0x0, 1, 1, 0, 0, 1, .all, .rw, .const 0x0, .plain, .store⟩
def SCH_PORT_INFO_OVH : Fld := ⟨360, 14, 0x048, 0x0, 1, 1, 0, 0, 16, .all, .ro, .const 0x0, .plain, .object⟩
def SCH_PORT_INFO_BEATS : Fld := ⟨361, 14, 0x048, 0x0, 1, 1, 0, 16, 13, .all, .ro, .const 0x0, .plain, .object⟩
def SCH_PORT_INFO_BORROW : Fld := ⟨362, 14, 0x048, 0x0, 1, 1, 0, 29, 1, .all, .ro, .const 0x0, .plain, .object⟩
def SCH_OFFSET : Fld := ⟨363, 14, 0x04C, 0x0, 1, 1, 0, 0, 32, .all, .ro, .const 0x0, .plain, .object⟩
def SCH_PFRAME : Fld := ⟨364, 14, 0x050, 0x0, 1, 1, 0, 0, 32, .all, .ro, .const 0x0, .plain, .store⟩
def SCH_SLOT : Fld := ⟨365, 14, 0x054, 0x0, 1, 1, 0, 0, 32, .all, .ro, .const 0x0, .plain, .object⟩
def SCH_LATE : Fld := ⟨366, 14, 0x058, 0x0, 1, 1, 0, 0, 32, .all, .ro, .const 0x0, .plain, .store⟩
def SCH_WAIT_FIT : Fld := ⟨367, 14, 0x05C, 0x0, 1, 1, 0, 0, 32, .all, .ro, .const 0x0, .plain, .store⟩
def SCH_OPEN_KIB : Fld := ⟨368, 14, 0x060, 0x0, 1, 1, 0, 0, 32, .all, .ro, .const 0x0, .plain, .store⟩
def SCH_BORROW_KIB : Fld := ⟨369, 14, 0x064, 0x0, 1, 1, 0, 0, 32, .all, .ro, .const 0x0, .plain, .store⟩
def SCH_CUT : Fld := ⟨370, 14, 0x068, 0x0, 1, 1, 0, 0, 32, .all, .ro, .const 0x0, .plain, .store⟩
def SCH_SUB_SEL_SUB : Fld := ⟨371, 14, 0x06C, 0x0, 1, 1, 0, 0, 9, .all, .rw, .const 0x0, .ident 258 258, .store⟩
def SCH_SUB_CFG_WEIGHT : Fld := ⟨372, 14, 0x070, 0x0, 1, 1, 0, 0, 8, .all, .rw, .const 0x1, .plain, .object⟩
def SCH_SUB_CFG_SHAPE_EN : Fld := ⟨373, 14, 0x070, 0x0, 1, 1, 0, 8, 1, .all, .rw, .const 0x0, .plain, .object⟩
def SCH_SHAPER_RATE : Fld := ⟨374, 14, 0x074, 0x0, 1, 1, 0, 0, 24, .all, .rw, .const 0x0, .plain, .object⟩
def SCH_SHAPER_BURST : Fld := ⟨375, 14, 0x078, 0x0, 1, 1, 0, 0, 24, .all, .rw, .const 0x2000, .plain, .object⟩
def SCH_SHAPER_CTL_FORGIVE : Fld := ⟨376, 14, 0x07C, 0x0, 1, 1, 0, 0, 1, .all, .wo, .const 0x0, .plain, .object⟩
def SCH_SHAPER_BAL : Fld := ⟨377, 14, 0x080, 0x0, 1, 1, 0, 0, 32, .all, .ro, .const 0x0, .plain, .object⟩
def SCH_SUB_STATUS_BACKLOG : Fld := ⟨378, 14, 0x084, 0x0, 1, 1, 0, 0, 4, .all, .ro, .const 0x0, .plain, .object⟩
def SCH_SUB_STATUS_DEFICIT : Fld := ⟨379, 14, 0x084, 0x0, 1, 1, 0, 8, 24, .all, .ro, .const 0x0, .plain, .object⟩
def SCH_AUD_CREDIT : Fld := ⟨380, 14, 0x900, 0x0, 1, 1, 0, 0, 64, .all, .ro, .const 0x0, .plain, .object⟩
def SCH_AUD_FORGIVEN : Fld := ⟨381, 14, 0x908, 0x0, 1, 1, 0, 0, 64, .all, .ro, .const 0x0, .plain, .object⟩
def SCH_AUD_SPENT : Fld := ⟨382, 14, 0x910, 0x0, 1, 1, 0, 0, 64, .all, .ro, .const 0x0, .plain, .object⟩
def SCH_AUD_CAPPED : Fld := ⟨383, 14, 0x918, 0x0, 1, 1, 0, 0, 64, .all, .ro, .const 0x0, .plain, .object⟩
def SCH_AUD_BALANCE : Fld := ⟨384, 14, 0x920, 0x0, 1, 1, 0, 0, 64, .all, .ro, .const 0x0, .plain, .object⟩

/-! Table 14.13. -/
def PLK_PORT_CFG_RATE : Fld := ⟨385, 15, 0x040, 0x0, 1, 1, 0, 0, 4, .all, .rw, .const 0x0, .plain, .store⟩
def PLK_PORT_CFG_CLASS : Fld := ⟨386, 15, 0x040, 0x0, 1, 1, 0, 4, 2, .all, .rw, .const 0x0, .plain, .store⟩
def PLK_PORT_CFG_EN : Fld := ⟨387, 15, 0x040, 0x0, 1, 1, 0, 6, 1, .all, .rw, .const 0x0, .plain, .store⟩
def PLK_PORT_CFG_VERS : Fld := ⟨388, 15, 0x040, 0x0, 1, 1, 0, 9, 3, .all, .rw, .const 0x7, .plain, .store⟩
def PLK_PORT_CTL_RETRAIN : Fld := ⟨389, 15, 0x044, 0x0, 1, 1, 0, 0, 1, .all, .wo, .const 0x0, .plain, .store⟩
def PLK_PORT_CTL_TEST : Fld := ⟨390, 15, 0x044, 0x0, 1, 1, 0, 1, 1, .all, .rw, .const 0x0, .plain, .store⟩
def PLK_PORT_STATE_STATE : Fld := ⟨391, 15, 0x048, 0x0, 1, 1, 0, 0, 3, .all, .ro, .const 0x0, .plain, .object⟩
def PLK_PORT_STATE_RECEIVERS : Fld := ⟨392, 15, 0x048, 0x0, 1, 1, 0, 8, 9, .all, .ro, .const 0x0, .plain, .object⟩
def PLK_POS_SEL_POSITION : Fld := ⟨393, 15, 0x04C, 0x0, 1, 1, 0, 0, 8, .all, .rw, .const 0x0, .plain, .store⟩
def PLK_POS_INFO_OFFERED : Fld := ⟨394, 15, 0x050, 0x0, 1, 1, 0, 0, 4, .all, .ro, .const 0x0, .plain, .object⟩
def PLK_POS_INFO_VERSION : Fld := ⟨395, 15, 0x050, 0x0, 1, 1, 0, 4, 2, .all, .ro, .const 0x0, .plain, .object⟩
def PLK_POS_INFO_REC_VALID : Fld := ⟨396, 15, 0x050, 0x0, 1, 1, 0, 6, 1, .all, .ro, .const 0x0, .plain, .object⟩
def PLK_POS_INFO_LAT_NS : Fld := ⟨397, 15, 0x050, 0x0, 1, 1, 0, 8, 16, .all, .ro, .const 0x0, .plain, .object⟩
def PLK_POS_CRC : Fld := ⟨398, 15, 0x054, 0x0, 1, 1, 0, 0, 32, .all, .ro, .const 0x0, .plain, .object⟩
def PLK_RX_CRC : Fld := ⟨399, 15, 0x058, 0x0, 1, 1, 0, 0, 32, .all, .ro, .const 0x0, .plain, .store⟩
def PLK_TRAINS : Fld := ⟨400, 15, 0x05C, 0x0, 1, 1, 0, 0, 32, .all, .ro, .const 0x0, .plain, .store⟩
def PLK_TRAIN_FAIL : Fld := ⟨401, 15, 0x060, 0x0, 1, 1, 0, 0, 32, .all, .ro, .const 0x0, .plain, .store⟩
def PLK_CR_STALL : Fld := ⟨402, 15, 0x064, 0x0, 1, 1, 0, 0, 32, .all, .ro, .const 0x0, .plain, .store⟩
def PLK_STATUS_RX : Fld := ⟨403, 15, 0x068, 0x0, 1, 1, 0, 0, 32, .all, .ro, .const 0x0, .plain, .store⟩
def PLK_AUD_SNAP_TAKE : Fld := ⟨404, 15, 0x06C, 0x0, 1, 1, 0, 0, 1, .all, .wo, .const 0x0, .plain, .store⟩
def PLK_AUD_SNAP_SEQ : Fld := ⟨405, 15, 0x06C, 0x0, 1, 1, 0, 16, 16, .all, .ro, .const 0x0, .plain, .store⟩
def PLK_MARK_DISPLAY_US : Fld := ⟨406, 15, 0x0C0, 0x0, 1, 1, 0, 0, 10, .first, .rw, .const 0x64, .clamp 10 1000, .store⟩
def PLK_EVQ_RING : Fld := ⟨407, 15, 0x0C4, 0x0, 1, 1, 0, 0, 13, .first, .rw, .const 0x0, .ident 8192 4096, .store⟩
def PLK_EVQ_EN : Fld := ⟨408, 15, 0x0C4, 0x0, 1, 1, 0, 31, 1, .first, .rw, .const 0x0, .plain, .store⟩
def PLK_I2C_CMD_BUS : Fld := ⟨409, 15, 0x0C8, 0x0, 1, 1, 0, 0, 3, .first, .rw, .const 0x0, .plain, .store⟩
def PLK_I2C_CMD_SPEED : Fld := ⟨410, 15, 0x0C8, 0x0, 1, 1, 0, 3, 1, .first, .rw, .const 0x0, .plain, .store⟩
def PLK_I2C_CMD_ADDR : Fld := ⟨411, 15, 0x0C8, 0x0, 1, 1, 0, 4, 7, .first, .rw, .const 0x50, .plain, .store⟩
def PLK_I2C_CMD_READ : Fld := ⟨412, 15, 0x0C8, 0x0, 1, 1, 0, 11, 1, .first, .rw, .const 0x1, .plain, .store⟩
def PLK_I2C_CMD_REG : Fld := ⟨413, 15, 0x0C8, 0x0, 1, 1, 0, 12, 8, .first, .rw, .const 0x0, .plain, .store⟩
def PLK_I2C_CMD_WDATA : Fld := ⟨414, 15, 0x0C8, 0x0, 1, 1, 0, 20, 8, .first, .rw, .const 0x0, .plain, .store⟩
def PLK_I2C_CMD_GO : Fld := ⟨415, 15, 0x0C8, 0x0, 1, 1, 0, 28, 1, .first, .wo, .const 0x0, .plain, .store⟩
def PLK_I2C_STAT_RDATA : Fld := ⟨416, 15, 0x0CC, 0x0, 1, 1, 0, 0, 8, .first, .ro, .const 0x0, .plain, .store⟩
def PLK_I2C_STAT_BUSY : Fld := ⟨417, 15, 0x0CC, 0x0, 1, 1, 0, 8, 1, .first, .ro, .const 0x0, .plain, .store⟩
def PLK_I2C_STAT_NACK : Fld := ⟨418, 15, 0x0CC, 0x0, 1, 1, 0, 9, 1, .first, .ro, .const 0x0, .plain, .store⟩
def PLK_MOD_POLL_MS : Fld := ⟨419, 15, 0x0D0, 0x0, 1, 1, 0, 0, 16, .first, .rw, .const 0x64, .clamp 1 65535, .store⟩
def PLK_AUD_CR_RCVD : Fld := ⟨420, 15, 0x900, 0x0, 1, 1, 0, 0, 64, .all, .ro, .const 0x0, .plain, .store⟩
def PLK_AUD_CR_SPENT : Fld := ⟨421, 15, 0x908, 0x0, 1, 1, 0, 0, 64, .all, .ro, .const 0x0, .plain, .store⟩
def PLK_AUD_CR_HELD : Fld := ⟨422, 15, 0x910, 0x0, 1, 1, 0, 0, 64, .all, .ro, .const 0x0, .plain, .store⟩

/-! Table 14.14. -/
def LNE_STATUS_SIGNAL : Fld := ⟨423, 16, 0x040, 0x0, 1, 1, 0, 0, 1, .all, .ro, .const 0x0, .plain, .store⟩
def LNE_STATUS_LOCK : Fld := ⟨424, 16, 0x040, 0x0, 1, 1, 0, 1, 1, .all, .ro, .const 0x0, .plain, .store⟩
def LNE_STATUS_ALIGNED : Fld := ⟨425, 16, 0x040, 0x0, 1, 1, 0, 2, 1, .all, .ro, .const 0x0, .plain, .store⟩
def LNE_STATUS_DESKEWED : Fld := ⟨426, 16, 0x040, 0x0, 1, 1, 0, 3, 1, .all, .ro, .const 0x0, .plain, .store⟩
def LNE_STATUS_FOM : Fld := ⟨427, 16, 0x040, 0x0, 1, 1, 0, 8, 8, .all, .ro, .const 0x0, .plain, .store⟩
def LNE_STATUS_SKEW_NS : Fld := ⟨428, 16, 0x040, 0x0, 1, 1, 0, 16, 8, .all, .ro, .const 0x0, .plain, .store⟩
def LNE_EQ_FOM_MIN : Fld := ⟨429, 16, 0x044, 0x0, 1, 1, 0, 0, 8, .all, .rw, .const 0x30, .plain, .store⟩
def LNE_EQ_ADAPT_EN : Fld := ⟨430, 16, 0x044, 0x0, 1, 1, 0, 8, 1, .all, .rw, .const 0x1, .plain, .store⟩
def LNE_EQ_TX_PRESET : Fld := ⟨431, 16, 0x044, 0x0, 1, 1, 0, 9, 4, .all, .rw, .const 0x4, .clamp 0 10, .store⟩
def LNE_SPREAD_SPREAD : Fld := ⟨432, 16, 0x048, 0x0, 1, 1, 0, 0, 2, .all, .rw, .const 0x0, .plain, .store⟩
def LNE_TEST_PATTERN : Fld := ⟨433, 16, 0x04C, 0x0, 1, 1, 0, 0, 2, .all, .rw, .const 0x0, .plain, .store⟩
def LNE_TEST_GEN_EN : Fld := ⟨434, 16, 0x04C, 0x0, 1, 1, 0, 2, 1, .all, .rw, .const 0x0, .plain, .store⟩
def LNE_TEST_CHK_EN : Fld := ⟨435, 16, 0x04C, 0x0, 1, 1, 0, 3, 1, .all, .rw, .const 0x0, .plain, .store⟩
def LNE_TEST_LOOP : Fld := ⟨436, 16, 0x04C, 0x0, 1, 1, 0, 4, 2, .all, .rw, .const 0x0, .plain, .store⟩
def LNE_TEST_INJECT : Fld := ⟨437, 16, 0x04C, 0x0, 1, 1, 0, 6, 1, .all, .wo, .const 0x0, .plain, .store⟩
def LNE_TEST_INJ_RATE : Fld := ⟨438, 16, 0x04C, 0x0, 1, 1, 0, 7, 5, .all, .rw, .const 0x0, .plain, .store⟩
def LNE_TEST_CHK_LOCK : Fld := ⟨439, 16, 0x04C, 0x0, 1, 1, 0, 12, 1, .all, .ro, .const 0x0, .plain, .store⟩
def LNE_PRBS_ERR : Fld := ⟨440, 16, 0x050, 0x0, 1, 1, 0, 0, 32, .all, .rw, .const 0x0, .plain, .store⟩
def LNE_PRBS_BITS : Fld := ⟨441, 16, 0x054, 0x0, 1, 1, 0, 0, 32, .all, .ro, .const 0x0, .plain, .store⟩
def LNE_CODE_ERR : Fld := ⟨442, 16, 0x058, 0x0, 1, 1, 0, 0, 32, .all, .ro, .const 0x0, .plain, .store⟩
def LNE_ALIGN_LOSS : Fld := ⟨443, 16, 0x05C, 0x0, 1, 1, 0, 0, 32, .all, .ro, .const 0x0, .plain, .store⟩
def LNE_MOD_PRESENT : Fld := ⟨444, 16, 0x060, 0x0, 1, 1, 0, 0, 1, .all, .ro, .const 0x0, .plain, .store⟩
def LNE_MOD_LOS : Fld := ⟨445, 16, 0x060, 0x0, 1, 1, 0, 1, 1, .all, .ro, .const 0x0, .plain, .store⟩
def LNE_MOD_CMIS : Fld := ⟨446, 16, 0x060, 0x0, 1, 1, 0, 2, 1, .all, .ro, .const 0x0, .plain, .store⟩
def LNE_MOD_TEMP : Fld := ⟨447, 16, 0x060, 0x0, 1, 1, 0, 8, 8, .all, .ro, .const 0x0, .plain, .store⟩
def LNE_MOD_RX_PWR : Fld := ⟨448, 16, 0x060, 0x0, 1, 1, 0, 16, 16, .all, .ro, .const 0x0, .plain, .store⟩

/-! Table 15.14. -/
def ESC_LOAD_CTL_GO : Fld := ⟨449, 17, 0x040, 0x0, 1, 1, 0, 0, 1, .all, .wo, .const 0x0, .plain, .store⟩
def ESC_LOAD_CTL_KIND : Fld := ⟨450, 17, 0x040, 0x0, 1, 1, 0, 1, 3, .all, .rw, .const 0x0, .plain, .store⟩
def ESC_LOAD_CTL_BUSY : Fld := ⟨451, 17, 0x040, 0x0, 1, 1, 0, 4, 1, .all, .ro, .const 0x0, .plain, .store⟩
def ESC_LOAD_CTL_RESULT : Fld := ⟨452, 17, 0x040, 0x0, 1, 1, 0, 8, 4, .all, .ro, .const 0x0, .plain, .store⟩
def ESC_LOAD_SRC_LO_ADDR : Fld := ⟨453, 17, 0x044, 0x0, 1, 1, 0, 6, 26, .all, .rw, .const 0x0, .plain, .store⟩
def ESC_LOAD_SRC_HI : Fld := ⟨454, 17, 0x048, 0x0, 1, 1, 0, 0, 32, .all, .rw, .const 0x0, .plain, .store⟩
def ESC_STOP_LIMIT : Fld := ⟨455, 17, 0x04C, 0x0, 1, 1, 0, 0, 16, .all, .rw, .const 0x40, .clamp 1 65535, .store⟩
def ESC_ESCAPE_SEL_KIND : Fld := ⟨456, 17, 0x050, 0x0, 1, 1, 0, 0, 3, .all, .rw, .const 0x1, .plain, .store⟩
def ESC_ESCAPE_SEL_INDEX : Fld := ⟨457, 17, 0x050, 0x0, 1, 1, 0, 8, 6, .all, .rw, .const 0x0, .plain, .store⟩
def ESC_ESCAPE_VER : Fld := ⟨458, 17, 0x054, 0x0, 1, 1, 0, 0, 32, .all, .ro, .const 0x0, .plain, .object⟩
def ESC_TIMEOUTS : Fld := ⟨459, 17, 0x058, 0x0, 1, 1, 0, 0, 32, .all, .ro, .const 0x0, .plain, .store⟩
def ESC_PARITY : Fld := ⟨460, 17, 0x05C, 0x0, 1, 1, 0, 0, 32, .all, .ro, .const 0x0, .plain, .store⟩
def ESC_VERSION : Fld := ⟨461, 17, 0x068, 0x8, 6, 1, 0, 0, 32, .all, .ro, .const 0x0, .plain, .object⟩
def ESC_VSTAT_SEC_VER : Fld := ⟨462, 17, 0x06C, 0x8, 6, 1, 0, 0, 16, .all, .ro, .const 0x0, .plain, .object⟩
def ESC_VSTAT_LOADED : Fld := ⟨463, 17, 0x06C, 0x8, 6, 1, 0, 16, 1, .all, .ro, .const 0x0, .plain, .object⟩

/-! Table 15.15. -/
def RGL_BOOT_SLOT : Fld := ⟨464, 18, 0x040, 0x0, 1, 1, 0, 0, 2, .first, .ro, .const 0x0, .plain, .store⟩
def RGL_BOOT_RECOVERY : Fld := ⟨465, 18, 0x040, 0x0, 1, 1, 0, 2, 1, .first, .ro, .const 0x0, .plain, .store⟩
def RGL_BOOT_FUSE_SECVER : Fld := ⟨466, 18, 0x040, 0x0, 1, 1, 0, 16, 16, .first, .ro, .const 0x0, .plain, .store⟩
def RGL_BUNDLE_CTL_GO : Fld := ⟨467, 18, 0x044, 0x0, 1, 1, 0, 0, 1, .first, .wo, .const 0x0, .plain, .store⟩
def RGL_BUNDLE_CTL_SLOT : Fld := ⟨468, 18, 0x044, 0x0, 1, 1, 0, 1, 1, .first, .rw, .const 0x0, .plain, .store⟩
def RGL_BUNDLE_CTL_BUSY : Fld := ⟨469, 18, 0x044, 0x0, 1, 1, 0, 2, 1, .first, .ro, .const 0x0, .plain, .store⟩
def RGL_BUNDLE_CTL_RESULT : Fld := ⟨470, 18, 0x044, 0x0, 1, 1, 0, 8, 4, .first, .ro, .const 0x0, .plain, .store⟩
def RGL_BUNDLE_SRC_LO : Fld := ⟨471, 18, 0x048, 0x0, 1, 1, 0, 0, 32, .first, .rw, .const 0x0, .plain, .store⟩
def RGL_BUNDLE_SRC_HI : Fld := ⟨472, 18, 0x04C, 0x0, 1, 1, 0, 0, 32, .first, .rw, .const 0x0, .plain, .store⟩
def RGL_EVQ_RING : Fld := ⟨473, 18, 0x050, 0x0, 1, 1, 0, 0, 13, .first, .rw, .const 0x0, .ident 8192 4096, .store⟩
def RGL_EVQ_EN : Fld := ⟨474, 18, 0x050, 0x0, 1, 1, 0, 31, 1, .first, .rw, .const 0x0, .plain, .store⟩
def RGL_CTL_RELOAD : Fld := ⟨475, 18, 0x060, 0x0, 1, 1, 0, 0, 1, .all, .wo, .const 0x0, .plain, .store⟩
def RGL_STATUS_STATE : Fld := ⟨476, 18, 0x064, 0x0, 1, 1, 0, 0, 2, .all, .ro, .const 0x0, .plain, .store⟩
def RGL_STATUS_CPLS : Fld := ⟨477, 18, 0x064, 0x0, 1, 1, 0, 2, 3, .all, .ro, .const 0x0, .plain, .object⟩
def RGL_WDOG_MS : Fld := ⟨478, 18, 0x068, 0x0, 1, 1, 0, 0, 16, .all, .rw, .const 0x64, .clamp 1 65535, .store⟩
def RGL_RXQ_DROP : Fld := ⟨479, 18, 0x06C, 0x0, 1, 1, 0, 0, 32, .all, .ro, .const 0x0, .plain, .store⟩
def RGL_TX_REJECT : Fld := ⟨480, 18, 0x070, 0x0, 1, 1, 0, 0, 32, .all, .ro, .const 0x0, .plain, .store⟩
def RGL_MBX_POST_GO : Fld := ⟨481, 18, 0x074, 0x0, 1, 1, 0, 0, 1, .all, .wo, .const 0x0, .plain, .store⟩
def RGL_MBX_POST_FULL : Fld := ⟨482, 18, 0x074, 0x0, 1, 1, 0, 1, 1, .all, .ro, .const 0x0, .plain, .store⟩
def RGL_MBX_DATA : Fld := ⟨483, 18, 0x080, 0x4, 8, 1, 0, 0, 32, .all, .rw, .const 0x0, .plain, .store⟩
def RGL_CPL_KIND : Fld := ⟨484, 18, 0x0A0, 0x4, 4, 1, 0, 0, 3, .all, .ro, .const 0x0, .plain, .object⟩

/-! Table 16.4. -/
def DMA_TIMEOUT_MS : Fld := ⟨485, 19, 0x040, 0x0, 1, 1, 0, 0, 16, .all, .rw, .const 0x3E8, .clamp 1 65535, .store⟩
def DMA_ERRORS : Fld := ⟨486, 19, 0x044, 0x0, 1, 1, 0, 0, 32, .all, .ro, .const 0x0, .plain, .store⟩
def DMA_BYTES_KIB : Fld := ⟨487, 19, 0x048, 0x0, 1, 1, 0, 0, 32, .all, .ro, .const 0x0, .plain, .store⟩
def DMA_CH_CFG_PDPOLICY : Fld := ⟨488, 19, 0x100, 0x40, 16, 1, 0, 0, 1, .all, .rw, .const 0x0, .plain, .object⟩
def DMA_CH_CTL_GO : Fld := ⟨489, 19, 0x104, 0x40, 16, 1, 0, 0, 1, .all, .wo, .const 0x0, .plain, .object⟩
def DMA_CH_CTL_ABORT : Fld := ⟨490, 19, 0x104, 0x40, 16, 1, 0, 1, 1, .all, .wo, .const 0x0, .plain, .object⟩
def DMA_CH_HEAD_LO_ADDR : Fld := ⟨491, 19, 0x108, 0x40, 16, 1, 0, 6, 26, .all, .rw, .const 0x0, .plain, .object⟩
def DMA_CH_HEAD_HI : Fld := ⟨492, 19, 0x10C, 0x40, 16, 1, 0, 0, 32, .all, .rw, .const 0x0, .plain, .object⟩
def DMA_CH_STATUS_BUSY : Fld := ⟨493, 19, 0x110, 0x40, 16, 1, 0, 0, 1, .all, .ro, .const 0x0, .plain, .object⟩
def DMA_CH_STATUS_DONE : Fld := ⟨494, 19, 0x110, 0x40, 16, 1, 0, 1, 1, .all, .w1c, .const 0x0, .plain, .object⟩
def DMA_CH_STATUS_LAST_ST : Fld := ⟨495, 19, 0x110, 0x40, 16, 1, 0, 8, 4, .all, .ro, .const 0x0, .plain, .object⟩
def DMA_CH_STATUS_SUBMITTER : Fld := ⟨496, 19, 0x110, 0x40, 16, 1, 0, 16, 7, .all, .ro, .const 0x0, .plain, .object⟩
def DMA_CH_DESCS : Fld := ⟨497, 19, 0x114, 0x40, 16, 1, 0, 0, 32, .all, .ro, .const 0x0, .plain, .object⟩
def DMA_CH_REMAIN : Fld := ⟨498, 19, 0x118, 0x40, 16, 1, 0, 0, 32, .all, .ro, .const 0x0, .plain, .object⟩
def DMA_CH_CUR_LO : Fld := ⟨499, 19, 0x11C, 0x40, 16, 1, 0, 0, 32, .all, .ro, .const 0x0, .plain, .object⟩
def DMA_CH_CUR_HI : Fld := ⟨500, 19, 0x120, 0x40, 16, 1, 0, 0, 32, .all, .ro, .const 0x0, .plain, .object⟩

/-! Table 17.7. -/
def INT_GLOBAL_HOLD : Fld := ⟨501, 20, 0x040, 0x0, 1, 1, 0, 0, 1, .first, .rw, .const 0x0, .plain, .store⟩
def INT_GLOBAL_HOST_EN : Fld := ⟨502, 20, 0x040, 0x0, 1, 1, 0, 1, 1, .first, .rw, .const 0x0, .plain, .store⟩
def INT_RR_MASK : Fld := ⟨503, 20, 0x044, 0x0, 1, 1, 0, 0, 16, .first, .rw, .rrMask, .rrVar, .store⟩
def INT_RR_PTR : Fld := ⟨504, 20, 0x048, 0x0, 1, 1, 0, 0, 4, .first, .ro, .const 0x0, .plain, .store⟩
def INT_SWSET_ID : Fld := ⟨505, 20, 0x04C, 0x0, 1, 1, 0, 0, 10, .first, .wo, .const 0x0, .plain, .store⟩
def INT_TGT_SEL_TARGET : Fld := ⟨506, 20, 0x050, 0x0, 1, 1, 0, 0, 4, .first, .rw, .const 0x0, .ident 16 8, .store⟩
def INT_TGT_STATE_LEVEL : Fld := ⟨507, 20, 0x054, 0x0, 1, 1, 0, 0, 5, .first, .ro, .const 0x0, .plain, .object⟩
def INT_TGT_STATE_DEPTH : Fld := ⟨508, 20, 0x054, 0x0, 1, 1, 0, 5, 2, .first, .ro, .const 0x0, .plain, .object⟩
def INT_TGT_STATE_ID : Fld := ⟨509, 20, 0x054, 0x0, 1, 1, 0, 8, 10, .first, .ro, .const 0x0, .plain, .object⟩
def INT_TGT_TAKEN : Fld := ⟨510, 20, 0x058, 0x0, 1, 1, 0, 0, 32, .first, .ro, .const 0x0, .plain, .object⟩
def INT_TGT_SPURIOUS : Fld := ⟨511, 20, 0x05C, 0x0, 1, 1, 0, 0, 32, .first, .ro, .const 0x0, .plain, .object⟩
def INT_TGT_CHAINED : Fld := ⟨512, 20, 0x060, 0x0, 1, 1, 0, 0, 32, .first, .ro, .const 0x0, .plain, .object⟩
def INT_HOST_MSGS : Fld := ⟨513, 20, 0x064, 0x0, 1, 1, 0, 0, 32, .first, .ro, .const 0x0, .plain, .store⟩

/-! Table 17.8. -/
def INT_PEND : Fld := ⟨514, 20, 0x040, 0x4, 8, 1, 0, 0, 32, .rest, .w1c, .const 0x0, .plain, .object⟩
def INT_EN : Fld := ⟨515, 20, 0x060, 0x4, 8, 1, 0, 0, 32, .rest, .ro, .const 0x0, .plain, .object⟩
def INT_SRC_PRIO : Fld := ⟨516, 20, 0x100, 0x4, 256, 1, 0, 0, 4, .rest, .rw, .const 0x0, .plain, .store⟩
def INT_SRC_ENABLE : Fld := ⟨517, 20, 0x100, 0x4, 256, 1, 0, 4, 1, .rest, .rw, .const 0x0, .plain, .store⟩
def INT_SRC_RR : Fld := ⟨518, 20, 0x100, 0x4, 256, 1, 0, 5, 1, .rest, .rw, .rr, .rrVar, .store⟩
def INT_SRC_HOST : Fld := ⟨519, 20, 0x100, 0x4, 256, 1, 0, 6, 1, .rest, .rw, .const 0x0, .plain, .store⟩
def INT_SRC_TARGET : Fld := ⟨520, 20, 0x100, 0x4, 256, 1, 0, 8, 4, .rest, .rw, .const 0x0, .ident 16 8, .store⟩
def INT_SRC_VECTOR : Fld := ⟨521, 20, 0x100, 0x4, 256, 1, 0, 16, 11, .rest, .rw, .const 0x0, .plain, .store⟩
def INT_SRC_PENDING : Fld := ⟨522, 20, 0x100, 0x4, 256, 1, 0, 28, 1, .rest, .ro, .const 0x0, .plain, .object⟩
def INT_SRC_ACTIVE : Fld := ⟨523, 20, 0x100, 0x4, 256, 1, 0, 29, 1, .rest, .ro, .const 0x0, .plain, .object⟩
def INT_SRC_LINE : Fld := ⟨524, 20, 0x100, 0x4, 256, 1, 0, 31, 1, .rest, .ro, .const 0x0, .plain, .object⟩
def INT_HCLAIM : Fld := ⟨525, 20, 0x900, 0x4, 256, 1, 0, 0, 32, .rest, .rw, .const 0x0, .plain, .object⟩

/-! Table 18.7. -/
def PG_ERR_STICKY : Fld := ⟨526, 0, 0x014, 0x0, 1, 1, 0, 0, 32, .all, .w1c, .const 0x0, .plain, .store⟩
def PG_ERR_ENABLE : Fld := ⟨527, 0, 0x018, 0x0, 1, 1, 0, 0, 32, .all, .rw, .const 0xFFFFFFFF, .plain, .store⟩
def PG_ERR_INJECT_COUNT : Fld := ⟨528, 0, 0x01C, 0x0, 1, 1, 0, 0, 8, .all, .rw, .const 0x0, .plain, .store⟩
def PG_ERR_INJECT_SOURCE : Fld := ⟨529, 0, 0x01C, 0x0, 1, 1, 0, 8, 5, .all, .rw, .const 0x0, .plain, .store⟩
def PG_ERR_INJECT_DOUBLE : Fld := ⟨530, 0, 0x01C, 0x0, 1, 1, 0, 13, 1, .all, .rw, .const 0x0, .plain, .store⟩
def PG_ERR_CLASS_RAISE : Fld := ⟨531, 0, 0x020, 0x4, 16, 16, 2, 0, 2, .all, .rw, .const 0x0, .plain, .store⟩

/-! Table 18.8. -/
def FLT_TOP_LO : Fld := ⟨532, 21, 0x040, 0x0, 1, 1, 0, 0, 32, .all, .ro, .const 0x0, .plain, .object⟩
def FLT_TOP_HI : Fld := ⟨533, 21, 0x044, 0x0, 1, 1, 0, 0, 32, .all, .ro, .const 0x0, .plain, .object⟩
def FLT_STATUS_MAX_CLASS : Fld := ⟨534, 21, 0x048, 0x0, 1, 1, 0, 0, 3, .all, .ro, .const 0x0, .plain, .object⟩
def FLT_STATUS_ANY : Fld := ⟨535, 21, 0x048, 0x0, 1, 1, 0, 3, 1, .all, .ro, .const 0x0, .plain, .object⟩
def FLT_STATUS_C4 : Fld := ⟨536, 21, 0x048, 0x0, 1, 1, 0, 4, 1, .all, .ro, .const 0x0, .plain, .object⟩
def FLT_STATUS_UNLOCKED : Fld := ⟨537, 21, 0x048, 0x0, 1, 1, 0, 5, 1, .all, .ro, .const 0x0, .plain, .object⟩
def FLT_STATUS_PIN : Fld := ⟨538, 21, 0x048, 0x0, 1, 1, 0, 6, 1, .all, .ro, .const 0x0, .plain, .object⟩
def FLT_PIN_THRESH : Fld := ⟨539, 21, 0x04C, 0x0, 1, 1, 0, 0, 3, .all, .rw, .const 0x2, .plain, .store⟩
def FLT_PIN_HOLD : Fld := ⟨540, 21, 0x04C, 0x0, 1, 1, 0, 4, 1, .all, .rw, .const 0x0, .plain, .store⟩
def FLT_PIN_C4_DARK : Fld := ⟨541, 21, 0x04C, 0x0, 1, 1, 0, 5, 1, .all, .rw, .const 0x1, .plain, .store⟩
def FLT_TEST_UNLOCK_KEY : Fld := ⟨542, 21, 0x050, 0x0, 1, 1, 0, 0, 16, .all, .wo, .const 0x0, .plain, .store⟩
def FLT_LOG_COUNT : Fld := ⟨543, 21, 0x054, 0x0, 1, 1, 0, 0, 16, .all, .ro, .const 0x0, .plain, .store⟩
def FLT_COUNT : Fld := ⟨544, 21, 0x060, 0x4, 5, 1, 0, 0, 32, .all, .ro, .const 0x0, .plain, .store⟩
def FLT_GRP : Fld := ⟨545, 21, 0x100, 0x4, 64, 1, 0, 0, 32, .all, .ro, .const 0x0, .plain, .object⟩

/-! Table 18.9. -/
def BST_STATUS_DONE : Fld := ⟨546, 22, 0x040, 0x0, 1, 1, 0, 0, 1, .all, .ro, .const 0x0, .plain, .store⟩
def BST_STATUS_ALL_PASS : Fld := ⟨547, 22, 0x040, 0x0, 1, 1, 0, 1, 1, .all, .ro, .const 0x0, .plain, .store⟩
def BST_STATUS_RUNNING : Fld := ⟨548, 22, 0x040, 0x0, 1, 1, 0, 2, 3, .all, .ro, .const 0x7, .plain, .store⟩
def BST_TOTAL_US : Fld := ⟨549, 22, 0x044, 0x0, 1, 1, 0, 0, 32, .all, .ro, .const 0x0, .plain, .store⟩
def BST_HOST_FAIL : Fld := ⟨550, 22, 0x048, 0x0, 1, 1, 0, 0, 16, .all, .ro, .const 0x0, .plain, .store⟩
def BST_DRAM_FAIL : Fld := ⟨551, 22, 0x04C, 0x0, 1, 1, 0, 0, 24, .all, .ro, .const 0x0, .plain, .store⟩
def BST_LANE_FAIL_LO : Fld := ⟨552, 22, 0x050, 0x0, 1, 1, 0, 0, 32, .all, .ro, .const 0x0, .plain, .store⟩
def BST_LANE_FAIL_HI : Fld := ⟨553, 22, 0x054, 0x0, 1, 1, 0, 0, 32, .all, .ro, .const 0x0, .plain, .store⟩
def BST_I2C_FAIL : Fld := ⟨554, 22, 0x058, 0x0, 1, 1, 0, 0, 16, .all, .ro, .const 0x0, .plain, .store⟩
def BST_RESULT_DONE : Fld := ⟨555, 22, 0x080, 0x8, 6, 1, 0, 0, 1, .all, .ro, .const 0x0, .plain, .store⟩
def BST_RESULT_PASS : Fld := ⟨556, 22, 0x080, 0x8, 6, 1, 0, 1, 1, .all, .ro, .const 0x0, .plain, .store⟩
def BST_RESULT_SKIPPED : Fld := ⟨557, 22, 0x080, 0x8, 6, 1, 0, 2, 1, .all, .ro, .const 0x0, .plain, .store⟩
def BST_RESULT_TIMEOUT : Fld := ⟨558, 22, 0x080, 0x8, 6, 1, 0, 3, 1, .all, .ro, .const 0x0, .plain, .store⟩
def BST_RESULT_COVERAGE : Fld := ⟨559, 22, 0x080, 0x8, 6, 1, 0, 4, 10, .all, .ro, .const 0x0, .plain, .store⟩
def BST_DUR : Fld := ⟨560, 22, 0x084, 0x8, 6, 1, 0, 0, 32, .all, .ro, .const 0x0, .plain, .store⟩

/-! Table 19.6. -/
def MEM_STATUS_READY : Fld := ⟨561, 23, 0x040, 0x0, 1, 1, 0, 0, 1, .all, .ro, .const 0x0, .plain, .store⟩
def MEM_STATUS_FREQ_BUSY : Fld := ⟨562, 23, 0x040, 0x0, 1, 1, 0, 1, 1, .all, .ro, .const 0x0, .plain, .store⟩
def MEM_STATUS_FREQ : Fld := ⟨563, 23, 0x040, 0x0, 1, 1, 0, 2, 2, .all, .ro, .const 0x0, .plain, .store⟩
def MEM_STATUS_GROUPS : Fld := ⟨564, 23, 0x040, 0x0, 1, 1, 0, 4, 6, .all, .ro, .const 0x0, .plain, .store⟩
def MEM_STATUS_ZEROED : Fld := ⟨565, 23, 0x040, 0x0, 1, 1, 0, 10, 1, .all, .ro, .const 0x0, .plain, .store⟩
def MEM_USABLE : Fld := ⟨566, 23, 0x044, 0x0, 1, 1, 0, 0, 24, .all, .ro, .const 0x0, .plain, .store⟩
def MEM_FREQ_CTL_TARGET : Fld := ⟨567, 23, 0x048, 0x0, 1, 1, 0, 0, 2, .all, .rw, .const 0x0, .plain, .store⟩
def MEM_FREQ_CTL_GO : Fld := ⟨568, 23, 0x048, 0x0, 1, 1, 0, 2, 1, .all, .wo, .const 0x0, .plain, .store⟩
def MEM_INORDER : Fld := ⟨569, 23, 0x04C, 0x0, 1, 1, 0, 0, 32, .all, .ro, .const 0x0, .plain, .store⟩
def MEM_ARB_CTL_LEAF_FAIR : Fld := ⟨570, 23, 0x050, 0x0, 1, 1, 0, 0, 1, .all, .rw, .const 0x1, .plain, .store⟩
def MEM_ARB_CTL_URGENT_NS : Fld := ⟨571, 23, 0x050, 0x0, 1, 1, 0, 16, 16, .all, .rw, .const 0x1F4, .plain, .store⟩
def MEM_SCRUB_HOURS : Fld := ⟨572, 23, 0x054, 0x0, 1, 1, 0, 0, 8, .all, .rw, .const 0x18, .plain, .store⟩
def MEM_ERRLOG_CTL_HEAD : Fld := ⟨573, 23, 0x058, 0x0, 1, 1, 0, 0, 4, .all, .ro, .const 0x0, .plain, .store⟩
def MEM_ERRLOG_CTL_VALID : Fld := ⟨574, 23, 0x058, 0x0, 1, 1, 0, 4, 5, .all, .ro, .const 0x0, .plain, .store⟩
def MEM_ERRLOG_CTL_LOST : Fld := ⟨575, 23, 0x058, 0x0, 1, 1, 0, 16, 8, .all, .ro, .const 0x0, .plain, .store⟩
def MEM_ERRLOG_CTL_CLEAR : Fld := ⟨576, 23, 0x058, 0x0, 1, 1, 0, 24, 1, .all, .wo, .const 0x0, .plain, .store⟩
def MEM_ARB_W_WEIGHT : Fld := ⟨577, 23, 0x080, 0x4, 16, 1, 0, 0, 8, .all, .rw, .const 0x1, .plain, .store⟩
def MEM_ARB_W_URGENT : Fld := ⟨578, 23, 0x080, 0x4, 16, 1, 0, 8, 1, .all, .rw, .urgent, .plain, .store⟩
def MEM_CE_COUNT : Fld := ⟨579, 23, 0x0C0, 0x4, 24, 1, 0, 0, 32, .all, .ro, .const 0x0, .plain, .store⟩
def MEM_ERRLOG_LO_ADDR : Fld := ⟨580, 23, 0x200, 0x10, 16, 1, 0, 6, 26, .all, .ro, .const 0x0, .plain, .object⟩
def MEM_ERRLOG_HI_ADDR : Fld := ⟨581, 23, 0x204, 0x10, 16, 1, 0, 0, 6, .all, .ro, .const 0x0, .plain, .object⟩
def MEM_ERRLOG_INFO_CHANNEL : Fld := ⟨582, 23, 0x208, 0x10, 16, 1, 0, 0, 5, .all, .ro, .const 0x0, .plain, .object⟩
def MEM_ERRLOG_INFO_PORT : Fld := ⟨583, 23, 0x208, 0x10, 16, 1, 0, 8, 4, .all, .ro, .const 0x0, .plain, .object⟩
def MEM_ERRLOG_INFO_KIND : Fld := ⟨584, 23, 0x208, 0x10, 16, 1, 0, 12, 2, .all, .ro, .const 0x0, .plain, .object⟩
def MEM_ERRLOG_FRAME : Fld := ⟨585, 23, 0x20C, 0x10, 16, 1, 0, 0, 32, .all, .ro, .const 0x0, .plain, .object⟩
def MEM_TIM_VALUE : Fld := ⟨586, 23, 0x300, 0x4, 24, 1, 0, 0, 16, .all, .rw, .const 0x0, .plain, .store⟩

/-! Table 19.7. -/
def KST_XFER_CTL_GO : Fld := ⟨587, 24, 0x040, 0x0, 1, 1, 0, 0, 1, .all, .wo, .const 0x0, .plain, .store⟩
def KST_XFER_CTL_WRITE : Fld := ⟨588, 24, 0x040, 0x0, 1, 1, 0, 1, 1, .all, .rw, .const 0x0, .plain, .store⟩
def KST_XFER_CTL_BUSY : Fld := ⟨589, 24, 0x040, 0x0, 1, 1, 0, 2, 1, .all, .ro, .const 0x0, .plain, .store⟩
def KST_XFER_CTL_RESULT : Fld := ⟨590, 24, 0x040, 0x0, 1, 1, 0, 8, 4, .all, .ro, .const 0x0, .plain, .store⟩
def KST_XFER_OFF : Fld := ⟨591, 24, 0x044, 0x0, 1, 1, 0, 6, 20, .all, .rw, .const 0x0, .plain, .store⟩
def KST_XFER_DST_LO_ADDR : Fld := ⟨592, 24, 0x048, 0x0, 1, 1, 0, 6, 26, .all, .rw, .const 0x0, .plain, .store⟩
def KST_XFER_DST_HI : Fld := ⟨593, 24, 0x04C, 0x0, 1, 1, 0, 0, 32, .all, .rw, .const 0x0, .plain, .store⟩
def KST_XFER_LEN : Fld := ⟨594, 24, 0x050, 0x0, 1, 1, 0, 0, 19, .all, .rw, .const 0x0, .plain, .store⟩
def KST_WINDINGS : Fld := ⟨595, 24, 0x054, 0x0, 1, 1, 0, 0, 32, .all, .ro, .const 0x0, .plain, .object⟩
def KST_LOG_HEAD : Fld := ⟨596, 24, 0x058, 0x0, 1, 1, 0, 0, 14, .all, .ro, .const 0x0, .plain, .object⟩
def KST_LOG_WRAPS : Fld := ⟨597, 24, 0x05C, 0x0, 1, 1, 0, 0, 32, .all, .ro, .const 0x0, .plain, .object⟩
def KST_WEAR : Fld := ⟨598, 24, 0x080, 0x4, 10, 1, 0, 0, 32, .all, .ro, .const 0x0, .plain, .object⟩

/-! Table 20.9. -/
def CLK_STATUS_ROOT_LOCK : Fld := ⟨599, 25, 0x040, 0x0, 1, 1, 0, 0, 1, .all, .ro, .const 0x0, .plain, .store⟩
def CLK_STATUS_REFCLK_OK : Fld := ⟨600, 25, 0x040, 0x0, 1, 1, 0, 1, 1, .all, .ro, .const 0x0, .plain, .store⟩
def CLK_GATE_SEL_DOMAIN : Fld := ⟨601, 25, 0x044, 0x0, 1, 1, 0, 0, 6, .all, .rw, .const 0x0, .ident 44 44, .store⟩
def CLK_GATE_CTL_FORCE_ON : Fld := ⟨602, 25, 0x048, 0x0, 1, 1, 0, 0, 1, .all, .rw, .const 0x0, .plain, .object⟩
def CLK_GATE_STATUS_RUNNING : Fld := ⟨603, 25, 0x04C, 0x0, 1, 1, 0, 0, 1, .all, .ro, .const 0x0, .plain, .object⟩
def CLK_GATE_STATUS_ALWAYS_ON : Fld := ⟨604, 25, 0x04C, 0x0, 1, 1, 0, 1, 1, .all, .ro, .const 0x0, .plain, .object⟩
def CLK_GATE_STATUS_POWER_OFF : Fld := ⟨605, 25, 0x04C, 0x0, 1, 1, 0, 2, 1, .all, .ro, .const 0x0, .plain, .object⟩
def CLK_RUN_LO : Fld := ⟨606, 25, 0x050, 0x0, 1, 1, 0, 0, 32, .all, .ro, .const 0x0, .plain, .object⟩
def CLK_RUN_HI : Fld := ⟨607, 25, 0x054, 0x0, 1, 1, 0, 0, 12, .all, .ro, .const 0x0, .plain, .object⟩

/-! Table 20.10. -/
def PWR_WIND_STAGE : Fld := ⟨608, 26, 0x040, 0x0, 1, 1, 0, 0, 4, .all, .ro, .const 0x0, .plain, .store⟩
def PWR_WIND_CAUSE : Fld := ⟨609, 26, 0x040, 0x0, 1, 1, 0, 4, 2, .all, .ro, .const 0x0, .plain, .store⟩
def PWR_WIND_TOTAL_US : Fld := ⟨610, 26, 0x044, 0x0, 1, 1, 0, 0, 32, .all, .ro, .const 0x0, .plain, .store⟩
def PWR_STAGE_US : Fld := ⟨611, 26, 0x048, 0x4, 7, 1, 0, 0, 32, .all, .ro, .const 0x0, .plain, .store⟩
def PWR_DRAIN_TIMEOUT_US : Fld := ⟨612, 26, 0x068, 0x0, 1, 1, 0, 0, 16, .all, .rw, .const 0x64, .clamp 1 65535, .store⟩
def PWR_DOM_SEL_DOMAIN : Fld := ⟨613, 26, 0x06C, 0x0, 1, 1, 0, 0, 6, .all, .rw, .const 0x0, .ident 58 58, .store⟩
def PWR_DOM_CTL_REQ : Fld := ⟨614, 26, 0x070, 0x0, 1, 1, 0, 0, 1, .all, .rw, .const 0x1, .plain, .object⟩
def PWR_DOM_STATUS_STATE : Fld := ⟨615, 26, 0x074, 0x0, 1, 1, 0, 0, 2, .all, .ro, .const 0x2, .plain, .object⟩
def PWR_DOM_STATUS_FORCED : Fld := ⟨616, 26, 0x074, 0x0, 1, 1, 0, 2, 1, .all, .ro, .const 0x0, .plain, .object⟩
def PWR_DOM_STATUS_FUSED : Fld := ⟨617, 26, 0x074, 0x0, 1, 1, 0, 3, 1, .all, .ro, .const 0x0, .plain, .object⟩
def PWR_DOM_ON_LO : Fld := ⟨618, 26, 0x078, 0x0, 1, 1, 0, 0, 32, .all, .ro, .const 0x0, .plain, .object⟩
def PWR_DOM_ON_HI : Fld := ⟨619, 26, 0x07C, 0x0, 1, 1, 0, 0, 26, .all, .ro, .const 0x0, .plain, .object⟩
def PWR_THERM_WARN : Fld := ⟨620, 26, 0x080, 0x0, 1, 1, 0, 0, 8, .all, .rw, .const 0x64, .clamp 0 108, .store⟩
def PWR_THERM_HOT : Fld := ⟨621, 26, 0x080, 0x0, 1, 1, 0, 8, 8, .all, .rw, .const 0x69, .clamp 0 108, .store⟩
def PWR_THERM_MEM_STEP : Fld := ⟨622, 26, 0x080, 0x0, 1, 1, 0, 16, 1, .all, .rw, .const 0x0, .plain, .store⟩
def PWR_TEMP_MAX : Fld := ⟨623, 26, 0x084, 0x0, 1, 1, 0, 0, 8, .all, .ro, .const 0x0, .plain, .store⟩
def PWR_TEMP_SENSOR : Fld := ⟨624, 26, 0x084, 0x0, 1, 1, 0, 8, 4, .all, .ro, .const 0x0, .plain, .store⟩
def PWR_THROTTLE_WARN : Fld := ⟨625, 26, 0x088, 0x0, 1, 1, 0, 0, 1, .all, .ro, .const 0x0, .plain, .store⟩
def PWR_THROTTLE_HOT : Fld := ⟨626, 26, 0x088, 0x0, 1, 1, 0, 1, 1, .all, .ro, .const 0x0, .plain, .store⟩
def PWR_HOT_MS : Fld := ⟨627, 26, 0x08C, 0x0, 1, 1, 0, 0, 32, .all, .ro, .const 0x0, .plain, .store⟩
def PWR_EVQ_RING : Fld := ⟨628, 26, 0x090, 0x0, 1, 1, 0, 0, 13, .all, .rw, .const 0x0, .ident 8192 4096, .store⟩
def PWR_EVQ_EN : Fld := ⟨629, 26, 0x090, 0x0, 1, 1, 0, 31, 1, .all, .rw, .const 0x0, .plain, .store⟩

/-! Table 21.1. -/
def SYS_DIR_TOP_LAST_PAGE : Fld := ⟨630, 1, 0x800, 0x0, 1, 1, 0, 0, 16, .all, .ro, .const 0x3F6, .plain, .object⟩
def SYS_DIR_TOP_TYPES : Fld := ⟨631, 1, 0x800, 0x0, 1, 1, 0, 16, 16, .all, .ro, .const 0x1B, .plain, .object⟩
def SYS_DIR_BASE : Fld := ⟨632, 1, 0x808, 0x8, 63, 1, 0, 0, 16, .all, .ro, .fixed, .plain, .object⟩
def SYS_DIR_COUNT : Fld := ⟨633, 1, 0x808, 0x8, 63, 1, 0, 16, 16, .all, .ro, .fixed, .plain, .object⟩
def SYS_DIR_TYPE : Fld := ⟨634, 1, 0x80C, 0x8, 63, 1, 0, 0, 8, .all, .ro, .fixed, .plain, .object⟩

/-! Table 21.3. -/
def SYS_STATUS_PROMISE_VOID : Fld := ⟨635, 1, 0x040, 0x0, 1, 1, 0, 0, 1, .all, .ro, .const 0x0, .plain, .object⟩
def SYS_STATUS_WOUND : Fld := ⟨636, 1, 0x040, 0x0, 1, 1, 0, 1, 1, .all, .ro, .const 0x0, .plain, .object⟩
def SYS_FRAME_COUNT : Fld := ⟨637, 1, 0x044, 0x0, 1, 1, 0, 0, 32, .all, .ro, .const 0x0, .plain, .store⟩

/-! Table 21.4. -/
def PG_IDENT_TYPE : Fld := ⟨638, 0, 0x000, 0x0, 1, 1, 0, 0, 16, .all, .ro, .fixed, .plain, .object⟩
def PG_IDENT_INSTANCE : Fld := ⟨639, 0, 0x000, 0x0, 1, 1, 0, 16, 8, .all, .ro, .fixed, .plain, .object⟩
def PG_IDENT_HDR_VER : Fld := ⟨640, 0, 0x000, 0x0, 1, 1, 0, 24, 8, .all, .ro, .const 0x1, .plain, .object⟩
def PG_VERSION_BLOCK : Fld := ⟨641, 0, 0x004, 0x0, 1, 1, 0, 0, 16, .all, .ro, .fixed, .plain, .object⟩
def PG_VERSION_STEPPING : Fld := ⟨642, 0, 0x004, 0x0, 1, 1, 0, 16, 8, .all, .ro, .const 0xB0, .plain, .object⟩
def PG_CAPS_UNITS : Fld := ⟨643, 0, 0x008, 0x0, 1, 1, 0, 0, 16, .all, .ro, .fixed, .plain, .object⟩
def PG_CAPS_AUDIT : Fld := ⟨644, 0, 0x008, 0x0, 1, 1, 0, 16, 1, .all, .ro, .fixed, .plain, .object⟩
def PG_CAPS_ESCAPEMENT : Fld := ⟨645, 0, 0x008, 0x0, 1, 1, 0, 17, 1, .all, .ro, .fixed, .plain, .object⟩
def PG_CTRL_ENABLE : Fld := ⟨646, 0, 0x00C, 0x0, 1, 1, 0, 0, 1, .all, .rw, .const 0x1, .plain, .store⟩
def PG_CTRL_SOFT_RESET : Fld := ⟨647, 0, 0x00C, 0x0, 1, 1, 0, 1, 1, .all, .wo, .const 0x0, .plain, .store⟩
def PG_CTRL_SAFE_STOP : Fld := ⟨648, 0, 0x00C, 0x0, 1, 1, 0, 2, 1, .all, .wo, .const 0x0, .plain, .store⟩
def PG_STATUS_IDLE : Fld := ⟨649, 0, 0x010, 0x0, 1, 1, 0, 0, 1, .all, .ro, .const 0x1, .plain, .object⟩
def PG_STATUS_STOPPING : Fld := ⟨650, 0, 0x010, 0x0, 1, 1, 0, 1, 1, .all, .ro, .const 0x0, .plain, .store⟩
def PG_STATUS_RESETTING : Fld := ⟨651, 0, 0x010, 0x0, 1, 1, 0, 2, 1, .all, .ro, .const 0x0, .plain, .store⟩
def PG_CALIBRE_BANK : Fld := ⟨652, 0, 0x024, 0x0, 1, 1, 0, 0, 1, .all, .ro, .const 0x0, .plain, .object⟩
def PG_CALIBRE_ACTIVE : Fld := ⟨653, 0, 0x024, 0x0, 1, 1, 0, 1, 1, .all, .ro, .const 0x0, .plain, .object⟩
def PG_CALIBRE_EPOCH : Fld := ⟨654, 0, 0x024, 0x0, 1, 1, 0, 8, 24, .all, .ro, .const 0x0, .plain, .object⟩
def PG_POWER_DOMAIN : Fld := ⟨655, 0, 0x028, 0x0, 1, 1, 0, 0, 6, .all, .ro, .fixed, .plain, .object⟩
def PG_POWER_STATE : Fld := ⟨656, 0, 0x028, 0x0, 1, 1, 0, 6, 2, .all, .ro, .const 0x2, .plain, .object⟩
def PG_POWER_CLOCK : Fld := ⟨657, 0, 0x028, 0x0, 1, 1, 0, 8, 6, .all, .ro, .fixed, .plain, .object⟩
def PG_POWER_RUNNING : Fld := ⟨658, 0, 0x028, 0x0, 1, 1, 0, 14, 1, .all, .ro, .const 0x0, .plain, .object⟩

/-- The fields of the pages of block type 0 (0: the common header). -/
def page0 : List Fld :=
  [PG_ERR_STICKY, PG_ERR_ENABLE, PG_ERR_INJECT_COUNT, PG_ERR_INJECT_SOURCE, PG_ERR_INJECT_DOUBLE, PG_ERR_CLASS_RAISE, PG_IDENT_TYPE, PG_IDENT_INSTANCE, PG_IDENT_HDR_VER, PG_VERSION_BLOCK, PG_VERSION_STEPPING, PG_CAPS_UNITS] ++
  [PG_CAPS_AUDIT, PG_CAPS_ESCAPEMENT, PG_CTRL_ENABLE, PG_CTRL_SOFT_RESET, PG_CTRL_SAFE_STOP, PG_STATUS_IDLE, PG_STATUS_STOPPING, PG_STATUS_RESETTING, PG_CALIBRE_BANK, PG_CALIBRE_ACTIVE, PG_CALIBRE_EPOCH, PG_POWER_DOMAIN] ++
  [PG_POWER_STATE, PG_POWER_CLOCK, PG_POWER_RUNNING]
/-- The fields of the pages of block type 1. -/
def page1 : List Fld :=
  [SYS_QUERY_CTL_SEL, SYS_QUERY_CTL_ARG, SYS_QUERY_RESULT_VALID, SYS_QUERY_RESULT_READS, SYS_QUERY_RESULT_SEQ, SYS_QUERY_RESULT_STATUS, SYS_QUERY_RESULT_IGNORED, SYS_QUERY_DATA, SYS_DIR_TOP_LAST_PAGE, SYS_DIR_TOP_TYPES, SYS_DIR_BASE, SYS_DIR_COUNT] ++
  [SYS_DIR_TYPE, SYS_STATUS_PROMISE_VOID, SYS_STATUS_WOUND, SYS_FRAME_COUNT]
/-- The fields of the pages of block type 2. -/
def page2 : List Fld :=
  [HST_LINK_STATUS_MODE, HST_LINK_STATUS_SPEED, HST_LINK_STATUS_WIDTH, HST_LINK_STATUS_FLIT256, HST_LINK_STATUS_CACHE_EN, HST_LINK_STATUS_MEM_EN, HST_LINK_STATUS_HDM_DB, HST_LINK_STATUS_IDE_ACTIVE, HST_HDM_CARVE_HOST_SIZE, HST_WIN_BASE_BASE, HST_DB_REJECT, HST_CCACHE_CTL_ENABLE] ++
  [HST_CCACHE_CTL_FLUSH, HST_CCACHE_STATUS_LINES, HST_CCACHE_STATUS_FLUSH_BUSY, HST_DBGRP_OWNER_TENANT, HST_DBGRP_OWNER_VALID, HST_TENANT_PASID, HST_TENANT_PASID_EN, HST_TENANT_ABI, HST_TENANT_VALID, HST_TENANT_ABI_OFFER]
/-- The fields of the pages of block type 3. -/
def page3 : List Fld :=
  [RNG_AUD_SNAP_TAKE, RNG_AUD_SNAP_SEQ, RNG_BASE_LO_BASE, RNG_BASE_HI, RNG_CFG_CLASS, RNG_CFG_SIZE_LOG2, RNG_CFG_MEMSPACE, RNG_CFG_COHERENT, RNG_CFG_ENABLE, RNG_LINK_LINK, RNG_LINK_METER, RNG_LINK_METER_EN] ++
  [RNG_EVQ_RING, RNG_EVQ_EN, RNG_PI, RNG_CI, RNG_COUNT, RNG_LOST_LO, RNG_LOST_HI, RNG_REWOUND, RNG_ERR_OVERRUN_CI, RNG_ERR_STALE_IDX, RNG_ERR_OVERSIZE, RNG_ERR_HALTED] ++
  [RNG_PEND, RNG_AUD_PRODUCED, RNG_AUD_CONSUMED, RNG_AUD_LOST, RNG_AUD_COUNT]
/-- The fields of the pages of block type 4. -/
def page4 : List Fld :=
  [MTR_CFG_ENABLE, MTR_CFG_MODE, MTR_CIR, MTR_PIR, MTR_CBS, MTR_PEBS, MTR_GREEN, MTR_YELLOW, MTR_RED, MTR_YDROP]
/-- The fields of the pages of block type 5. -/
def page5 : List Fld :=
  [DEC_AUD_SNAP_TAKE, DEC_AUD_SNAP_SEQ, DEC_BIND_MARGIN_PCT, DEC_ADMIT_LIVE_PCT, DEC_ADMIT_STORED_MAX, DEC_DRAIN_LIMIT_MS, DEC_BAND_SLIP, DEC_LOAD_LIVE, DEC_CAPACITY, DEC_STREAM_SEL_STREAM, DEC_SW_STATE_STATE, DEC_SW_STATE_CLASS] ++
  [DEC_SW_STATE_ROW_CHAIN, DEC_SW_STATE_CATCHUP, DEC_SW_STATE_XLEVEL, DEC_SW_STATE_TIMING, DEC_SW_STATE_CORES_MAX, DEC_SW_STATE_PACE, DEC_SW_DECODED, DEC_SW_LATE, DEC_SW_PRE_RAP, DEC_SW_UNSUPPORTED, DEC_SW_SHORT_SPLIT, DEC_SW_COLOUR_PRIMARIES] ++
  [DEC_SW_COLOUR_TRANSFER, DEC_SW_COLOUR_MATRIX, DEC_SW_COLOUR_FULL_RANGE, DEC_SW_INFLIGHT, DEC_CORE_STATUS_BUSY, DEC_CORE_STATUS_RESERVED, DEC_CORE_STATUS_OFFLINE, DEC_CORE_STATUS_FUSED, DEC_CORE_STATUS_STREAM, DEC_CORE_STATUS_UNIT, DEC_CORE_CTL_OFFLINE, DEC_CORE_CTL_RESET] ++
  [DEC_CORE_UNITS, DEC_CORE_BUSY, DEC_AUD_CR_ISSUED, DEC_AUD_CR_RETURNED, DEC_AUD_CR_OUT]
/-- The fields of the pages of block type 6. -/
def page6 : List Fld :=
  [RFS_REGION_BASE, RFS_REGION_SIZE, RFS_FREE, RFS_REORDER_FRAMES, RFS_STREAM_SEL_STREAM, RFS_SW_CFG_MODE, RFS_SW_CFG_KEEP_PINNED, RFS_SW_CFG_HIDE_CONCEALED, RFS_SW_CFG_SEQ_CHECK, RFS_SW_CFG_PIN_SLOTS, RFS_SW_CFG_PIN_USED, RFS_SW_CFG_PIN_MASK] ++
  [RFS_SW_CFG_DPB_PICS, RFS_SW_CFG_HOLD_PICS, RFS_SW_SEQ_REORDER_WIN, RFS_SW_SEQ_HELD, RFS_SW_SEQ_CONCEALING, RFS_SW_NEXT_SEQ, RFS_SW_GRANULES, RFS_SW_LOST, RFS_SW_REF_MISSING, RFS_SW_SLICE_CORRUPT, RFS_SW_CONCEALED, RFS_SW_LATE_DROP] ++
  [RFS_SW_OOO, RFS_SW_REF_READ_KIB, RFS_SW_REF_PLAIN_KIB]
/-- The fields of the pages of block type 7. -/
def page7 : List Fld :=
  [CNV_AUD_SNAP_TAKE, CNV_AUD_SNAP_SEQ, CNV_LEAD_US, CNV_STATUS_ROW_PAIR, CNV_STATUS_SCANNING, CNV_FRAME, CNV_LATE_RP, CNV_OVERRUN, CNV_LATE_MAX, CNV_EVQ_RING, CNV_EVQ_EN, CNV_WIN_SEL_WINDOW] ++
  [CNV_WIN_STATE_ENABLED, CNV_WIN_STATE_BOUND, CNV_WIN_STATE_REPEAT, CNV_WIN_STATE_EMPTY, CNV_WIN_STATE_STREAM, CNV_WIN_COLOUR_PRIMARIES, CNV_WIN_COLOUR_TRANSFER, CNV_WIN_COLOUR_MATRIX, CNV_WIN_COLOUR_FULL_RANGE, CNV_WIN_REPEATS, CNV_AUD_CR_ISSUED, CNV_AUD_CR_RETURNED] ++
  [CNV_AUD_CR_OUT]
/-- The fields of the pages of block type 8. -/
def page8 : List Fld :=
  [DRV_AUD_SNAP_TAKE, DRV_AUD_SNAP_SEQ, DRV_GMAP_ERRORS, DRV_GMAP_KIB, DRV_GMAP_WAIT, DRV_EVQ_RING, DRV_EVQ_EN, DRV_TILE_SEL_TILE, DRV_TILE_STATUS_DARK, DRV_TILE_STATUS_GMAP_ERR, DRV_TILE_STATUS_NO_GMAP, DRV_AUD_CR_ISSUED] ++
  [DRV_AUD_CR_RETURNED, DRV_AUD_CR_OUT]
/-- The fields of the pages of block type 9. -/
def page9 : List Fld :=
  [FUS_AUD_SNAP_TAKE, FUS_AUD_SNAP_SEQ, FUS_CAP_CTL_COMMIT, FUS_CAP_CTL_UNLOCKED, FUS_CAP_CTL_BUSY, FUS_CAP_CTL_LOADED, FUS_CAP_CTL_RESULT, FUS_CAP_SRC_LO_ADDR, FUS_CAP_SRC_HI, FUS_CAP_SEQ, FUS_EVQ_RING, FUS_EVQ_CUT_EN] ++
  [FUS_EVQ_EN, FUS_FORCE_CIRCUIT, FUS_FORCE_GO, FUS_FORCE_VAL_LO, FUS_FORCE_VAL_HI, FUS_CIRC_SEL_CIRCUIT, FUS_C_CAP_LO, FUS_C_CAP_HI_CAP, FUS_C_CAP_HI_SLEW, FUS_C_GRANT_LO, FUS_C_GRANT_HI, FUS_C_USED_LO] ++
  [FUS_C_USED_HI, FUS_C_PREV_LO, FUS_C_PREV_HI, FUS_C_SCALE_S, FUS_C_SCALE_S_LOW, FUS_C_CUTS, FUS_C_LATE_TILES, FUS_AUD_GRANTED, FUS_AUD_CONSUMED, FUS_AUD_EXPIRED, FUS_TGT_LO_TOKENS, FUS_TGT_HI_TOKENS] ++
  [FUS_TGT_HI_SCALE]
/-- The fields of the pages of block type 10. -/
def page10 : List Fld :=
  [MZE_QCTL_Q_START, MZE_QCTL_STEP_DN, MZE_QCTL_STEP_UP, MZE_QCTL_FLOOR_JUMP, MZE_QDZ_DEADZONE, MZE_SKIP_TOL, MZE_REFRESH_ROLL_PERIOD, MZE_REFRESH_ABOVE_RUN, MZE_REFRESH_ABOVE_EN, MZE_REF_BASE, MZE_REF_SIZE, MZE_REF_FREE] ++
  [MZE_EVQ_RING, MZE_EVQ_FLOOR_EN, MZE_EVQ_EN, MZE_CMAP_LO_ADDR, MZE_CMAP_HI, MZE_CMAP_CTL_EN, MZE_TILE_SEL_TILE, MZE_TILE_BUDGET, MZE_TILE_USED, MZE_TILE_CODING_QB, MZE_TILE_CODING_MIN_F, MZE_TILE_CODING_FLOOR_RP] ++
  [MZE_TILE_STATE_SUSPECT, MZE_TILE_STATE_FLOORED, MZE_TILE_STATE_INTRA_ALL, MZE_FLOOR_RP, MZE_REFRESH_RP, MZE_DAMAGE_RP, MZE_UNSENT_RP, MZE_CORE_STATUS_BUSY, MZE_CORE_STATUS_OFFLINE, MZE_CORE_STATUS_FUSED, MZE_CORE_STATUS_TILE, MZE_CORE_CTL_OFFLINE] ++
  [MZE_CORE_CTL_RESET, MZE_CORE_RP, MZE_CORE_BUSY, MZE_CURVE_A_ODD, MZE_CURVE_A_EVEN]
/-- The fields of the pages of block type 11. -/
def page11 : List Fld :=
  [ENC_REGION_BASE, ENC_REGION_SIZE, ENC_REGION_FREE, ENC_SESS_SEL_SESSION, ENC_SS_STATE_STATE, ENC_SS_STATE_SOURCE, ENC_SS_STATE_RATE_MODE, ENC_SS_STATE_CORES, ENC_SS_PICS, ENC_SS_SKIP, ENC_SS_NOBUF, ENC_SS_GUARD] ++
  [ENC_SS_OVERFLOW, ENC_SS_FULLNESS, ENC_CORE_STATUS_BUSY, ENC_CORE_STATUS_OFFLINE, ENC_CORE_STATUS_FUSED, ENC_CORE_STATUS_SESSION, ENC_CORE_CTL_OFFLINE, ENC_CORE_CTL_RESET, ENC_CORE_LOAD, ENC_CORE_BUSY, ENC_OETF_LO, ENC_OETF_HI]
/-- The fields of the pages of block type 12. -/
def page12 : List Fld :=
  [SWC_AUD_SNAP_TAKE, SWC_AUD_SNAP_SEQ, SWC_OUT_SEL_OUTPUT, SWC_MC_PARTIAL, SWC_SMP_CTL_RING, SWC_SMP_CTL_DEST, SWC_SMP_CTL_REG, SWC_SMP_CTL_EN, SWC_SMP_TAKEN, SWC_SMP_DROP, SWC_RX_ROUTE_REG, SWC_NOFWD] ++
  [SWC_FWD_SEL_TILE, SWC_FWD_SEL_BANK, SWC_FWD_VIEW_PORT, SWC_FWD_VIEW_VALID, SWC_PORT_CTL_ACCEPT, SWC_PORT_SMP_N, SWC_PORT_DROP, SWC_PORT_FRAMES, SWC_AUD_IN, SWC_AUD_OUT, SWC_AUD_DROP, SWC_AUD_RESIDENT]
/-- The fields of the pages of block type 13. -/
def page13 : List Fld :=
  [BPM_AUD_SNAP_TAKE, BPM_AUD_SNAP_SEQ, BPM_STATUS_ODIE_READY, BPM_STATUS_DPOOL_READY, BPM_STATUS_REBUILD, BPM_DPOOL_BASE, BPM_DPOOL_COUNT, BPM_MISUSE, BPM_MISUSE_LAST_OP, BPM_MISUSE_LAST_STATUS, BPM_MISUSE_LAST_OWNER, BPM_MISUSE_BUF] ++
  [BPM_SHARED_FREE0, BPM_SHARED_FREE1, BPM_OWN_SEL_OWNER, BPM_OWN_NAMED, BPM_OWN_HELD, BPM_OWN_STATUS_OVERQ, BPM_OWN_STATUS_BELOW_MIN, BPM_FORCE_BUF, BPM_FORCE_GO, BPM_FORCE_ACTION, BPM_FORCE_OWNER, BPM_CMD_BUF] ++
  [BPM_CMD_OP, BPM_CMD_N, BPM_CMD_OWNER, BPM_RSP_BUF, BPM_RSP_STATUS, BPM_RSP_DONE, BPM_QUOTA_QUOTA, BPM_QUOTA_POOL, BPM_MIN, BPM_AUD_FREE, BPM_AUD_ALLOC, BPM_AUD_PENDING] ++
  [BPM_AUD_TOTAL]
/-- The fields of the pages of block type 14. -/
def page14 : List Fld :=
  [SCH_AUD_SNAP_TAKE, SCH_AUD_SNAP_SEQ, SCH_PORT_CTL_LEAF_FAIR, SCH_PORT_INFO_OVH, SCH_PORT_INFO_BEATS, SCH_PORT_INFO_BORROW, SCH_OFFSET, SCH_PFRAME, SCH_SLOT, SCH_LATE, SCH_WAIT_FIT, SCH_OPEN_KIB] ++
  [SCH_BORROW_KIB, SCH_CUT, SCH_SUB_SEL_SUB, SCH_SUB_CFG_WEIGHT, SCH_SUB_CFG_SHAPE_EN, SCH_SHAPER_RATE, SCH_SHAPER_BURST, SCH_SHAPER_CTL_FORGIVE, SCH_SHAPER_BAL, SCH_SUB_STATUS_BACKLOG, SCH_SUB_STATUS_DEFICIT, SCH_AUD_CREDIT] ++
  [SCH_AUD_FORGIVEN, SCH_AUD_SPENT, SCH_AUD_CAPPED, SCH_AUD_BALANCE]
/-- The fields of the pages of block type 15. -/
def page15 : List Fld :=
  [PLK_PORT_CFG_RATE, PLK_PORT_CFG_CLASS, PLK_PORT_CFG_EN, PLK_PORT_CFG_VERS, PLK_PORT_CTL_RETRAIN, PLK_PORT_CTL_TEST, PLK_PORT_STATE_STATE, PLK_PORT_STATE_RECEIVERS, PLK_POS_SEL_POSITION, PLK_POS_INFO_OFFERED, PLK_POS_INFO_VERSION, PLK_POS_INFO_REC_VALID] ++
  [PLK_POS_INFO_LAT_NS, PLK_POS_CRC, PLK_RX_CRC, PLK_TRAINS, PLK_TRAIN_FAIL, PLK_CR_STALL, PLK_STATUS_RX, PLK_AUD_SNAP_TAKE, PLK_AUD_SNAP_SEQ, PLK_MARK_DISPLAY_US, PLK_EVQ_RING, PLK_EVQ_EN] ++
  [PLK_I2C_CMD_BUS, PLK_I2C_CMD_SPEED, PLK_I2C_CMD_ADDR, PLK_I2C_CMD_READ, PLK_I2C_CMD_REG, PLK_I2C_CMD_WDATA, PLK_I2C_CMD_GO, PLK_I2C_STAT_RDATA, PLK_I2C_STAT_BUSY, PLK_I2C_STAT_NACK, PLK_MOD_POLL_MS, PLK_AUD_CR_RCVD] ++
  [PLK_AUD_CR_SPENT, PLK_AUD_CR_HELD]
/-- The fields of the pages of block type 16. -/
def page16 : List Fld :=
  [LNE_STATUS_SIGNAL, LNE_STATUS_LOCK, LNE_STATUS_ALIGNED, LNE_STATUS_DESKEWED, LNE_STATUS_FOM, LNE_STATUS_SKEW_NS, LNE_EQ_FOM_MIN, LNE_EQ_ADAPT_EN, LNE_EQ_TX_PRESET, LNE_SPREAD_SPREAD, LNE_TEST_PATTERN, LNE_TEST_GEN_EN] ++
  [LNE_TEST_CHK_EN, LNE_TEST_LOOP, LNE_TEST_INJECT, LNE_TEST_INJ_RATE, LNE_TEST_CHK_LOCK, LNE_PRBS_ERR, LNE_PRBS_BITS, LNE_CODE_ERR, LNE_ALIGN_LOSS, LNE_MOD_PRESENT, LNE_MOD_LOS, LNE_MOD_CMIS] ++
  [LNE_MOD_TEMP, LNE_MOD_RX_PWR]
/-- The fields of the pages of block type 17. -/
def page17 : List Fld :=
  [ESC_LOAD_CTL_GO, ESC_LOAD_CTL_KIND, ESC_LOAD_CTL_BUSY, ESC_LOAD_CTL_RESULT, ESC_LOAD_SRC_LO_ADDR, ESC_LOAD_SRC_HI, ESC_STOP_LIMIT, ESC_ESCAPE_SEL_KIND, ESC_ESCAPE_SEL_INDEX, ESC_ESCAPE_VER, ESC_TIMEOUTS, ESC_PARITY] ++
  [ESC_VERSION, ESC_VSTAT_SEC_VER, ESC_VSTAT_LOADED]
/-- The fields of the pages of block type 18. -/
def page18 : List Fld :=
  [RGL_BOOT_SLOT, RGL_BOOT_RECOVERY, RGL_BOOT_FUSE_SECVER, RGL_BUNDLE_CTL_GO, RGL_BUNDLE_CTL_SLOT, RGL_BUNDLE_CTL_BUSY, RGL_BUNDLE_CTL_RESULT, RGL_BUNDLE_SRC_LO, RGL_BUNDLE_SRC_HI, RGL_EVQ_RING, RGL_EVQ_EN, RGL_CTL_RELOAD] ++
  [RGL_STATUS_STATE, RGL_STATUS_CPLS, RGL_WDOG_MS, RGL_RXQ_DROP, RGL_TX_REJECT, RGL_MBX_POST_GO, RGL_MBX_POST_FULL, RGL_MBX_DATA, RGL_CPL_KIND]
/-- The fields of the pages of block type 19. -/
def page19 : List Fld :=
  [DMA_TIMEOUT_MS, DMA_ERRORS, DMA_BYTES_KIB, DMA_CH_CFG_PDPOLICY, DMA_CH_CTL_GO, DMA_CH_CTL_ABORT, DMA_CH_HEAD_LO_ADDR, DMA_CH_HEAD_HI, DMA_CH_STATUS_BUSY, DMA_CH_STATUS_DONE, DMA_CH_STATUS_LAST_ST, DMA_CH_STATUS_SUBMITTER] ++
  [DMA_CH_DESCS, DMA_CH_REMAIN, DMA_CH_CUR_LO, DMA_CH_CUR_HI]
/-- The fields of the pages of block type 20. -/
def page20 : List Fld :=
  [INT_GLOBAL_HOLD, INT_GLOBAL_HOST_EN, INT_RR_MASK, INT_RR_PTR, INT_SWSET_ID, INT_TGT_SEL_TARGET, INT_TGT_STATE_LEVEL, INT_TGT_STATE_DEPTH, INT_TGT_STATE_ID, INT_TGT_TAKEN, INT_TGT_SPURIOUS, INT_TGT_CHAINED] ++
  [INT_HOST_MSGS, INT_PEND, INT_EN, INT_SRC_PRIO, INT_SRC_ENABLE, INT_SRC_RR, INT_SRC_HOST, INT_SRC_TARGET, INT_SRC_VECTOR, INT_SRC_PENDING, INT_SRC_ACTIVE, INT_SRC_LINE] ++
  [INT_HCLAIM]
/-- The fields of the pages of block type 21. -/
def page21 : List Fld :=
  [FLT_TOP_LO, FLT_TOP_HI, FLT_STATUS_MAX_CLASS, FLT_STATUS_ANY, FLT_STATUS_C4, FLT_STATUS_UNLOCKED, FLT_STATUS_PIN, FLT_PIN_THRESH, FLT_PIN_HOLD, FLT_PIN_C4_DARK, FLT_TEST_UNLOCK_KEY, FLT_LOG_COUNT] ++
  [FLT_COUNT, FLT_GRP]
/-- The fields of the pages of block type 22. -/
def page22 : List Fld :=
  [BST_STATUS_DONE, BST_STATUS_ALL_PASS, BST_STATUS_RUNNING, BST_TOTAL_US, BST_HOST_FAIL, BST_DRAM_FAIL, BST_LANE_FAIL_LO, BST_LANE_FAIL_HI, BST_I2C_FAIL, BST_RESULT_DONE, BST_RESULT_PASS, BST_RESULT_SKIPPED] ++
  [BST_RESULT_TIMEOUT, BST_RESULT_COVERAGE, BST_DUR]
/-- The fields of the pages of block type 23. -/
def page23 : List Fld :=
  [MEM_STATUS_READY, MEM_STATUS_FREQ_BUSY, MEM_STATUS_FREQ, MEM_STATUS_GROUPS, MEM_STATUS_ZEROED, MEM_USABLE, MEM_FREQ_CTL_TARGET, MEM_FREQ_CTL_GO, MEM_INORDER, MEM_ARB_CTL_LEAF_FAIR, MEM_ARB_CTL_URGENT_NS, MEM_SCRUB_HOURS] ++
  [MEM_ERRLOG_CTL_HEAD, MEM_ERRLOG_CTL_VALID, MEM_ERRLOG_CTL_LOST, MEM_ERRLOG_CTL_CLEAR, MEM_ARB_W_WEIGHT, MEM_ARB_W_URGENT, MEM_CE_COUNT, MEM_ERRLOG_LO_ADDR, MEM_ERRLOG_HI_ADDR, MEM_ERRLOG_INFO_CHANNEL, MEM_ERRLOG_INFO_PORT, MEM_ERRLOG_INFO_KIND] ++
  [MEM_ERRLOG_FRAME, MEM_TIM_VALUE]
/-- The fields of the pages of block type 24. -/
def page24 : List Fld :=
  [KST_XFER_CTL_GO, KST_XFER_CTL_WRITE, KST_XFER_CTL_BUSY, KST_XFER_CTL_RESULT, KST_XFER_OFF, KST_XFER_DST_LO_ADDR, KST_XFER_DST_HI, KST_XFER_LEN, KST_WINDINGS, KST_LOG_HEAD, KST_LOG_WRAPS, KST_WEAR]
/-- The fields of the pages of block type 25. -/
def page25 : List Fld :=
  [CLK_STATUS_ROOT_LOCK, CLK_STATUS_REFCLK_OK, CLK_GATE_SEL_DOMAIN, CLK_GATE_CTL_FORCE_ON, CLK_GATE_STATUS_RUNNING, CLK_GATE_STATUS_ALWAYS_ON, CLK_GATE_STATUS_POWER_OFF, CLK_RUN_LO, CLK_RUN_HI]
/-- The fields of the pages of block type 26. -/
def page26 : List Fld :=
  [PWR_WIND_STAGE, PWR_WIND_CAUSE, PWR_WIND_TOTAL_US, PWR_STAGE_US, PWR_DRAIN_TIMEOUT_US, PWR_DOM_SEL_DOMAIN, PWR_DOM_CTL_REQ, PWR_DOM_STATUS_STATE, PWR_DOM_STATUS_FORCED, PWR_DOM_STATUS_FUSED, PWR_DOM_ON_LO, PWR_DOM_ON_HI] ++
  [PWR_THERM_WARN, PWR_THERM_HOT, PWR_THERM_MEM_STEP, PWR_TEMP_MAX, PWR_TEMP_SENSOR, PWR_THROTTLE_WARN, PWR_THROTTLE_HOT, PWR_HOT_MS, PWR_EVQ_RING, PWR_EVQ_EN]
/-- The fields of the pages of block type 27. -/
def page27 : List Fld :=
  [CLB_STATUS_ACTIVE_VALID, CLB_STATUS_ACTIVE_BANK, CLB_STATUS_SHADOW_VALID, CLB_STATUS_SWAP_PENDING, CLB_STATUS_OLD_BANK_BUSY, CLB_STATUS_LOCKED, CLB_WRITE_SEQ, CLB_SWAP_FRAME, CLB_EVQ_RING, CLB_EVQ_EN, CLB_GOOD_FRAMES, CLB_PERIOD] ++
  [CLB_SYNC_MEAS, CLB_HOLDOVER_MARKS, CLB_TILE_SEL_TILE, CLB_TILE_STATE_STATE, CLB_TILE_STATE_MISMATCH, CLB_DARK_TILES]

/-- The fields of block type `t` (0 the common header), in table order. -/
def ofPage (t : Nat) : List Fld :=
  match t with
  | 0 => page0
  | 1 => page1
  | 2 => page2
  | 3 => page3
  | 4 => page4
  | 5 => page5
  | 6 => page6
  | 7 => page7
  | 8 => page8
  | 9 => page9
  | 10 => page10
  | 11 => page11
  | 12 => page12
  | 13 => page13
  | 14 => page14
  | 15 => page15
  | 16 => page16
  | 17 => page17
  | 18 => page18
  | 19 => page19
  | 20 => page20
  | 21 => page21
  | 22 => page22
  | 23 => page23
  | 24 => page24
  | 25 => page25
  | 26 => page26
  | 27 => page27
  | _ => []

end Sys2Proof.Machine.Reg
end

