-- ==== Sys2Proof/Machine/Tab.lean ====
section
/-! DEFINITION. Two plain containers: a table of records keyed by number, and a byte memory in canonical form. -/

namespace Sys2Proof.Machine

/-- Records by number, keys rising. A number that is not listed holds the reader's default. -/
abbrev Tab (α : Type) := List (Nat × α)

/-- The record of number `k`, or `d` where none is listed. -/
def Tab.get {α : Type} (d : α) : Tab α → Nat → α
  | [], _ => d
  | (j, x) :: t, k => if j = k then x else Tab.get d t k

/-- Whether number `k` is listed. -/
def Tab.has {α : Type} : Tab α → Nat → Bool
  | [], _ => false
  | (j, _) :: t, k => if j = k then true else Tab.has t k

/-- The table with record `x` at number `k`. -/
def Tab.set {α : Type} : Tab α → Nat → α → Tab α
  | [], k, x => [(k, x)]
  | (j, y) :: t, k, x =>
    if j = k then (k, x) :: t
    else if k < j then (k, x) :: (j, y) :: t
    else (j, y) :: Tab.set t k x

/-- The table without number `k`. -/
def Tab.del {α : Type} (t : Tab α) (k : Nat) : Tab α := t.filter fun e => e.1 != k

/-- Byte memory: addresses strictly rising, and no entry equal to 0, which is what an unlisted address reads as. -/
abbrev Mem := List Host.Cell

/-- The byte at an address. An unlisted address reads 0 (R389 for the DRAM). -/
def Mem.read : Mem → Nat → Byte
  | [], _ => 0
  | (a, b) :: m, x => if a = x then b else Mem.read m x

/-- The memory with byte `b` at address `x`, in canonical form. -/
def Mem.write : Mem → Nat → Byte → Mem
  | [], x, b => if b = 0 then [] else [(x, b)]
  | (a, c) :: m, x, b =>
    if a = x then (if b = 0 then m else (x, b) :: m)
    else if x < a then (if b = 0 then (a, c) :: m else (x, b) :: (a, c) :: m)
    else (a, c) :: Mem.write m x b

/-- The canonical form: every listed byte is not 0, and addresses rise strictly from above `lo`. -/
def Mem.wfFrom : Nat → Mem → Bool
  | _, [] => true
  | lo, (a, b) :: m => decide (lo ≤ a) && decide (b ≠ 0) && Mem.wfFrom (a + 1) m

/-- The canonical form of a memory. -/
def Mem.wf (m : Mem) : Bool := Mem.wfFrom 0 m

/-- `n` bytes from an address. -/
def Mem.readBytes (m : Mem) (a : Nat) : Nat → Bytes
  | 0 => []
  | n + 1 => m.read a :: Mem.readBytes m (a + 1) n

/-- A byte string written from an address. -/
def Mem.writeBytes : Mem → Nat → Bytes → Mem
  | m, _, [] => m
  | m, a, b :: bs => Mem.writeBytes (m.write a b) (a + 1) bs

/-- `n` zero bytes written from an address. -/
def Mem.clear (m : Mem) (a n : Nat) : Mem := m.filter fun e => !(decide (a ≤ e.1) && decide (e.1 < a + n))

/-- A little-endian number (00_scope.md). -/
def leNat : Bytes → Nat
  | [] => 0
  | b :: bs => b.toNat + 256 * leNat bs

/-- The `n` little-endian bytes of a number. -/
def leBytes (v : Nat) : Nat → Bytes
  | 0 => []
  | n + 1 => BitVec.ofNat 8 v :: leBytes (v / 256) n

/-- `n` bytes of a string from offset `o` as a number; bytes past the end count as 0. -/
def field (bs : Bytes) (o n : Nat) : Nat := leNat ((bs.drop o).take n)

/-- Bits `[hi:lo]` of a number. -/
def bits (v hi lo : Nat) : Nat := v / 2 ^ lo % 2 ^ (hi + 1 - lo)

/-- Bit `i` of a number. -/
def bit (v i : Nat) : Bool := v / 2 ^ i % 2 == 1

/-- A counter of `w` bits that wraps. -/
def wrap (w v : Nat) : Nat := v % 2 ^ w

/-- A counter of `w` bits that saturates. -/
def satur (w v : Nat) : Nat := min v (2 ^ w - 1)

/-- An element put into a list by its key, behind those of the same key. -/
def insertBy {α : Type} (key : α → Nat) (e : α) : List α → List α
  | [] => [e]
  | x :: xs => if key x ≤ key e then x :: insertBy key e xs else e :: x :: xs

/-- A list sorted by a key; elements of one key stay in order. -/
def sortBy {α : Type} (key : α → Nat) (l : List α) : List α := l.foldl (fun m e => insertBy key e m) []

/-- A Bool as a register bit. -/
def b2n (b : Bool) : Nat := if b then 1 else 0

end Sys2Proof.Machine
end

