-- ==== Sys2Proof/Machine/State.lean ====
section
/-! DEFINITION. The state of the block: every register, queue, buffer, counter, mode and pin that the spec names, as plain
data, with the queue of waiting commands. Registers without a record of their own live in the register store
(`State.regs`), one entry per field that has left its reset value; objects (rings, streams, tiles, ...) are records
in tables. The reset value of a hidden field is the default written at the field: it is the spec's where the spec
gives one, and otherwise zero, empty or false (notes/assumptions/7.md). -/

namespace Sys2Proof.Machine

/-- Why the machine stops. -/
inductive Fault where
  /-- No meaning raises it: the spec names no event at which the block stops for good. It keeps the outcome's three
  cases apart; safe. -/
  | unreached
  deriving DecidableEq, Repr

/-- Why a command has no meaning. -/
inductive Refusal where
  /-- Raised by Dispatch alone, for a row that has no meaning yet; safe. -/
  | notModelled (mnemonic : String)
  deriving DecidableEq, Repr

/-! ### 02_host_attachment.md -/

/-- One MSI-X vector (R32, R46): its table entry, its pending bit, and how many messages left on it. -/
structure MsixVec where
  /-- message address and data, words 0 to 2 of the table entry -/
  addrLo : Nat := 0
  addrHi : Nat := 0
  data : Nat := 0
  /-- vector control bit 0; 1 after reset as PCIe states (PRESUMED, log 11) -/
  masked : Bool := true
  /-- PBA bit (R46) -/
  pba : Bool := false
  /-- messages sent on the vector -/
  sent : Nat := 0
  deriving DecidableEq, Repr

/-- A device write to a host-visible line that waits for its back-invalidate response (R38). -/
structure BiWrite where
  line : Nat
  offset : Nat
  data : Bytes
  deriving DecidableEq, Repr

/-- Requests of the block to its host: ordinary memory reads and posted writes, and the CXL.cache requests of Table 2.2 with the
write-back of an owned line (R40). -/
inductive ReqKind where
  | memRead
  | memWrite
  | rdShared
  | rdOwn
  | itoMWr
  | writeBack
  | cleanEvict
  deriving DecidableEq, Repr

/-- A request of the block to its host, as R42 tags it; `dev` for an engine's access under HDM-D, whose address is a device
address (R38). -/
structure HostReq where
  kind : ReqKind
  addr : Nat
  len : Nat
  pasid : Option Nat
  dev : Bool := false
  deriving DecidableEq, Repr

/-- A committed HDM decoder: back-invalidate enabled, and the device addresses it exposes in units of 256 MiB (R31, R37). -/
structure HdmDec where
  bi : Bool
  first : Nat
  size : Nat
  deriving DecidableEq, Repr

/-- A line of the ring line cache: what it holds of its two 32-byte halves, and whether it is dirty (R39, R40, R50). -/
structure CacheLine where
  lo : Option Bytes := none
  hi : Option Bytes := none
  dirty : Bool := false
  deriving DecidableEq, Repr

/-- A host access to a line that a device write waits for; it is done after that write (R38). -/
structure HostAcc where
  write : Bool
  line : Nat
  data : Bytes
  ecc : Ecc
  deriving DecidableEq, Repr

/-- The last SPDM answer (R47): request code, whether it was an ERROR response, and what the answer carries. -/
structure SpdmAns where
  code : Nat
  error : Bool
  body : Bytes := []
  deriving DecidableEq, Repr

/-- The host attachment beyond its register fields. -/
structure HostSt where
  /-- PERST_N as the filtered pin reads (R29, R400, R430); asserted after power-on (DESIGN CHOICE, log 7) -/
  perstN : Bool := false
  /-- link in L0 (R28, R50) -/
  linkUp : Bool := false
  /-- the mode has been fixed since PERST_N was released (R29) -/
  modeFixed : Bool := false
  /-- host PHY released to link training (R377) -/
  phyReleased : Bool := false
  /-- committed HDM decoders (R31, R37) -/
  hdm : Tab HdmDec := []
  /-- lines of the ring line cache by line number (R39-R41) -/
  ccache : Tab CacheLine := []
  /-- a flush of the cache runs (R41, HST_CCACHE_STATUS) -/
  flushing : Bool := false
  /-- device writes that wait for a back-invalidate response, oldest first (R38) -/
  biWait : List BiWrite := []
  /-- host accesses to lines of those writes, oldest first (R38) -/
  hostWait : List HostAcc := []
  /-- MSI-X vectors (R46) -/
  msix : Tab MsixVec := []
  /-- MSI-X function mask; clear after reset as PCIe states (PRESUMED, log 51) -/
  fnMasked : Bool := false
  /-- certificate slot 1 and whether it was written in this winding (R47) -/
  slot1 : Bytes := []
  slot1Written : Bool := false
  /-- device key derived and key-ladder outputs present (R374-R376, W2) -/
  keysPresent : Bool := false
  /-- keys cleared by test unlock (R375) -/
  keysCleared : Bool := false
  /-- IDE keyed and in the secure state; traffic of CXL.cache and CXL.mem dropped after an IDE failure (R48) -/
  ideInsecure : Bool := false
  /-- an SPDM secured session is open (R47) -/
  spdmSession : Bool := false
  /-- the last SPDM answer (R47, R375) -/
  spdmLast : Option SpdmAns := none
  /-- answer to the last configuration request: true for Configuration RRS (R49) -/
  lastRrs : Option Bool := none
  /-- the last BAR read answered: data and whether it was refused or poisoned (R33, R35, R384) -/
  lastRead : Option (Bytes × Bool) := none
  /-- the last request sent to the host (R38-R42) -/
  lastReq : Option HostReq := none
  /-- what the block has written to host memory; 0 where it has written nothing (log 5) -/
  mem : Mem := []
  deriving DecidableEq, Repr

/-! ### 03_rings_and_jobs.md -/

/-- An access unit on its way to its stream (Table 3.3 step 8, R89, R117). -/
structure AccessUnit where
  auSeq : Nat
  time : Nat
  /-- payload bytes (for plan() and bind_test) -/
  bytes : Nat
  /-- 0 green, 1 yellow; the meter that coloured it, as number + 1 (R64) -/
  colour : Nat
  meter : Nat
  bufs : List Nat
  /-- commit instant in time units (R92, R438) -/
  commitAt : Nat
  /-- committed before the draining command (R88) -/
  marked : Bool
  /-- lost on arrival: 1 red, 2 discarded as yellow; 0 for none (Table 5.3) -/
  lost : Nat
  info : AuInfo
  /-- coded data -/
  data : Bytes := []
  /-- frame of the commit (R92), and frame marks passed while the unit is held behind a gap (R117) -/
  commitFrame : Nat := 0
  heldMarks : Nat := 0
  deriving DecidableEq, Repr

/-- One packet of a bitstream ring (R60-R64), from its first entry until it is consumed. -/
structure Pkt where
  items : Nat := 0
  /-- its first entry carried START -/
  started : Bool := false
  /-- END or ABORT covered -/
  closed : Bool := false
  abort : Bool := false
  /-- CRC flag and CRC32 of the END entry -/
  crc : Bool := false
  crc32 : Nat := 0
  /-- sum of LEN, and the payload segments (address, length) -/
  len : Nat := 0
  segs : List (Nat × Nat) := []
  time : Nat := 0
  auSeq : Nat := 0
  /-- colour: 0 green, 1 yellow, 2 red -/
  colour : Nat := 0
  /-- passed step 3 of Table 3.3 -/
  coloured : Bool := false
  /-- counted as produced (step 5 of Table 3.3) -/
  committed : Bool := false
  /-- commit instant and frame -/
  commitAt : Nat := 0
  commitFrame : Nat := 0
  /-- committed before its stream's draining command (R88) -/
  marked : Bool := false
  /-- payload fetch begun (step 6) -/
  fetching : Bool := false
  /-- fetched and committed; waits for its stream (R89) -/
  unit : Option AccessUnit := none
  /-- decode input buffers held -/
  bufs : List Nat := []
  /-- longer than its ring and marked for rewind by R57: CI passes its items once everything before it is consumed -/
  dropped : Bool := false
  /-- its ring was disabled or reset while its payload fetch ran, which completes for nothing (R66) -/
  gone : Bool := false
  deriving DecidableEq, Repr

/-- One ring: descriptor (Table 3.11), live counters and the packets it holds. -/
structure Ring where
  /-- RNG_BASE -/
  base : Nat := 0
  /-- RNG_CFG -/
  cls : Nat := 0
  sizeLog2 : Nat := 6
  memspace : Bool := false
  coherent : Bool := false
  enable : Bool := false
  /-- RNG_LINK -/
  link : Nat := 0
  meter : Nat := 0
  meterEn : Bool := false
  /-- RNG_EVQ -/
  evqRing : Nat := 0
  evqEn : Bool := false
  /-- RNG_PI, RNG_CI, RNG_COUNT, RNG_PEND, RNG_LOST, RNG_REWOUND -/
  pi : Nat := 0
  ci : Nat := 0
  count : Nat := 0
  pend : Nat := 0
  lost : Nat := 0
  rewound : Nat := 0
  /-- RNG_ERR -/
  overrunCi : Nat := 0
  staleIdx : Nat := 0
  oversize : Nat := 0
  halted : Bool := false
  /-- the ring takes no new entries after a translation failure (R42) -/
  stopped : Bool := false
  /-- entries that PI covers and CXL.cache could not read while IDE was insecure (R48) -/
  unread : Nat := 0
  /-- live audit terms (Table 1.7) -/
  produced : Nat := 0
  consumed : Nat := 0
  /-- the last audit snapshot (R76): produced, consumed, lost, count -/
  snapProduced : Nat := 0
  snapConsumed : Nat := 0
  snapLost : Nat := 0
  snapCount : Nat := 0
  /-- packets of a bitstream ring, oldest first; the last may be open -/
  pkts : List Pkt := []
  /-- item counts of the whole packets of a device-produced ring, oldest first (R58) -/
  devPkts : List Nat := []
  deriving DecidableEq, Repr

/-- One ingest meter (Table 3.12, R74); tokens are 1/6,400,000 byte, time is in UCLK cycles. -/
structure Meter where
  enable : Bool := false
  mode : Nat := 0
  cir : Nat := 0
  pir : Nat := 0
  cbs : Nat := 0
  pebs : Nat := 0
  last : Nat := 0
  tc : Nat := 0
  tp : Nat := 0
  te : Nat := 0
  green : Nat := 0
  yellow : Nat := 0
  red : Nat := 0
  ydrop : Nat := 0
  deriving DecidableEq, Repr

/-- One job (R12, R68-R70): an accepted command that has not ended. -/
structure Job where
  ring : Nat := 0
  index : Nat := 0
  opcode : Nat := 0
  tag : Nat := 0
  tenant : Nat := 0
  /-- ABI level of the tenant at acceptance (FRAME of Table 3.5) -/
  abi : Nat := 0
  fence : Bool := false
  silent : Bool := false
  /-- order of acceptance -/
  seq : Nat := 0
  /-- waits behind its FENCE (R68) or behind an earlier calibre command (R132) -/
  waits : Bool := false
  /-- the command entry (Table 3.4) -/
  args : Bytes := []
  /-- its work has begun (R68) -/
  started : Bool := false
  /-- work of the job that goes on: a number its opcode's chapter uses -/
  work : Nat := 0
  deriving DecidableEq, Repr

/-- Rings, meters and jobs. -/
structure RingSt where
  rings : Tab Ring := []
  meters : Tab Meter := []
  /-- jobs in flight by job number: ring × 2^32 + index, + 2^48 for each job of that number still in flight (R66, R69) -/
  jobs : Tab Job := []
  /-- a synchronous query runs (R73): selector and argument -/
  query : Option (Nat × Nat) := none
  /-- commands accepted so far (R68, R132) -/
  jobSeq : Nat := 0
  deriving DecidableEq, Repr

/-! ### 12_buffer_pool_and_switch.md -/

/-- The state word of one buffer (R248): 0 FREE, 1 ALLOCATED, 2 FREE_PENDING. -/
structure Buf where
  st : Nat := 0
  owner : Nat := 0
  shares : Nat := 0
  deriving DecidableEq, Repr

/-- One pool (R247-R250). The free list is threaded through the data of the free buffers from `head`; a buffer that
`PoolSt.bufs` does not list has stayed free since the list was built, and its link is the next index. -/
structure Pool where
  first : Nat := 0
  total : Nat := 0
  /-- head of the free list, 0xFFFFFFFF for none -/
  head : Nat := 0xFFFFFFFF
  /-- audit levels FREE, ALLOC and PENDING (R268) -/
  free : Nat := 0
  alloc : Nat := 0
  pending : Nat := 0
  /-- a rebuild of the list under R250 runs -/
  rebuilding : Bool := false
  /-- CCLK cycle of the last grant and grants in it (R256) -/
  grantCycle : Nat := 0
  grants : Nat := 0
  /-- round-robin pointers of the two ALLOC orders (R256) -/
  rrMin : Nat := 0
  rrOther : Nat := 0
  deriving DecidableEq, Repr

/-- Counts of one owner (R252). -/
structure Owner where
  named : Nat := 0
  held : Nat := 0
  deriving DecidableEq, Repr

/-- The buffer pool manager. -/
structure PoolSt where
  bufs : Tab Buf := []
  odie : Pool := ⟨0, 196608, 0, 196608, 0, 0, false, 0, 0, 0, 0⟩
  dram : Pool := ⟨196608, 0, 0xFFFFFFFF, 0, 0, 0, false, 0, 0, 0, 0⟩
  own : Tab Owner := []
  /-- data of the on-die buffers, byte `256 × index + offset` (R249) -/
  odieMem : Mem := []
  deriving DecidableEq, Repr

/-! ### 17_interrupts.md -/

/-- One shared source beyond its INT_SRC configuration (R351, R354). -/
structure IntSrc where
  pending : Bool := false
  active : Bool := false
  line : Bool := false
  /-- regulator a round-robin edge was assigned to -/
  assigned : Option Nat := none
  deriving DecidableEq, Repr

/-- One private source of a regulator (L_INT_PRIV, Table 17.6). -/
structure PrivSrc where
  prio : Nat := 0
  enable : Bool := false
  pending : Bool := false
  line : Bool := false
  active : Bool := false
  deriving DecidableEq, Repr

/-- One level of a regulator's shadow stack (R355): the interrupted PC and level, and the handler's source. -/
structure Shadow where
  pc : Nat
  level : Nat
  id : Nat
  deriving DecidableEq, Repr

/-- One interrupt target (Tables 17.6 and 17.7). -/
structure IntTgt where
  thresh : Nat := 0
  vbase : Nat := 0
  timer : Nat := 0
  priv : Tab PrivSrc := []
  /-- shadow entries, innermost first; the depth is the length -/
  shadow : List Shadow := []
  /-- current level of the running handler; unused at thread level -/
  level : Nat := 0
  /-- register bank in use (R355) -/
  bank : Nat := 0
  /-- an entry (some false) or a chained entry (some true) has begun and its take point has not come (R355-R357) -/
  taking : Option Bool := none
  /-- address of the handler instruction that the last vector read gave, or of the context returned to -/
  pc : Nat := 0
  /-- the first instruction of the handler just entered has not been seen to retire (R355) -/
  fresh : Bool := false
  taken : Nat := 0
  spurious : Nat := 0
  chained : Nat := 0
  deriving DecidableEq, Repr

/-- The interrupt controller. -/
structure IntSt where
  src : Tab IntSrc := []
  tgt : Tab IntTgt := []
  deriving DecidableEq, Repr

/-! ### 18_faults_and_self_test.md -/

/-- The fault collector beyond its register fields. -/
structure FaultSt where
  /-- sources whose lasting cause is present, as page × 32 + bit (R362) -/
  present : List Nat := []
  /-- C4 has latched since power-on (FLT_STATUS.C4) -/
  c4 : Bool := false
  /-- a FAULT_N pulse runs (R370) -/
  pulse : Bool := false
  /-- the last latch that qualified for a pulse: from then on the pulse runs for at least 10 µs -/
  pulseAt : Nat := 0
  /-- C4_DARK was 1 at a C4 latch, and from the next frame mark on the wall is dark until power is removed (R367) -/
  darkArmed : Bool := false
  dark : Bool := false
  /-- SYS_STATUS.PROMISE_VOID (R22) -/
  promiseVoid : Bool := false
  /-- sources logged in this winding, as page × 32 + bit (R371) -/
  logged : List Nat := []
  /-- test unlock: armed by key 1 and when, unlocked (Table 18.4) -/
  armed : Bool := false
  armedAt : Nat := 0
  unlocked : Bool := false
  /-- TEST_MODE has been high at every sample since W0 (R374) -/
  testHeld : Bool := false
  /-- test access port instruction in force (R376, R432); IDCODE, code 2, after reset -/
  jtag : Nat := 2
  /-- what the data register that the instruction selects captured: the IDCODE (22_electrical_and_package.md), else 0 -/
  jtagData : Nat := 0x1064856B
  deriving DecidableEq, Repr

/-! ### 19_memory_and_keeping_store.md -/

/-- One entry of MEM_ERRLOG (R385, Table 19.6). -/
structure ErrLog where
  addr : Nat := 0
  channel : Nat := 0
  port : Nat := 0
  kind : Nat := 0
  frame : Nat := 0
  deriving DecidableEq, Repr

/-- A write that a memory controller has accepted and not yet issued (R387, R388): its line, when it was accepted, and its number. -/
structure MemWrite where
  line : Nat
  at_ : Nat
  seq : Nat
  deriving DecidableEq, Repr

/-- Device DRAM and its controllers. -/
structure MemSt where
  /-- DRAM contents by device address (R381, R389) -/
  dram : Mem := []
  /-- lines that hold a poison pattern, by line number (R384) -/
  poison : List Nat := []
  /-- zeroing (R389): it runs; the chunks below `zeroNext` are zeroed, and those of `zeroed` ahead of their turn -/
  zeroing : Bool := false
  zeroNext : Nat := 0
  zeroed : List Nat := []
  /-- target of the frequency change that runs (R390) -/
  freqTarget : Nat := 0
  /-- MEM_ERRLOG entries (R385) -/
  log : Tab ErrLog := []
  /-- the timing set loaded into the controllers, by word (R390 step 3, R391) -/
  tim : Tab Nat := []
  /-- writes accepted and not yet issued, oldest first, and how many have been accepted (R388) -/
  waiting : List MemWrite := []
  writes : Nat := 0
  /-- banks in in-order mode, each with the number of the last write it held on entry, and the entries counted (MEM_INORDER) -/
  inOrder : List (Nat × Nat) := []
  entries : Nat := 0
  /-- domain request writes that wait for the end of a frequency change (R407) -/
  heldReq : List (Nat × Bool) := []
  deriving DecidableEq, Repr

/-- A keeping store transfer that runs (R398). -/
structure KstXfer where
  write : Bool
  off : Nat
  dst : Nat
  lines : Nat
  deriving DecidableEq, Repr

/-- The keeping store. -/
structure KstSt where
  /-- contents by keeping store offset (Table 19.5); as manufactured for a C648 with serial number 0 (log 12) -/
  mem : Mem := [(8, 0x48), (9, 0x06), (10, 0xB0)]
  /-- KST_WINDINGS, KST_LOG_HEAD and KST_LOG_WRAPS, kept by the keeping store (R394, R396) -/
  windings : Nat := 0
  logHead : Nat := 0
  logWraps : Nat := 0
  /-- lines with an uncorrectable word (R398) -/
  bad : List Nat := []
  /-- write count of each 4 KiB page (R397) -/
  wear : Tab Nat := []
  /-- regions that a refused write has made read-only (R397) -/
  readOnly : List Nat := []
  /-- the KST_XFER that runs (R398) -/
  xfer : Option KstXfer := none
  deriving DecidableEq, Repr

/-! ### 20_winding_clocks_power.md -/

/-- One power domain (Table 20.6): state 0 OFF, 1 WAKING, 2 ON, 3 DRAINING. -/
structure Domain where
  state : Nat := 2
  req : Bool := true
  forced : Bool := false
  /-- when the transition under way began -/
  since : Nat := 0
  deriving DecidableEq, Repr

/-- Winding, clocks, power and the sampled straps. -/
structure PowerSt where
  /-- straps as last sampled (R401): CAP_WRITE_N, TEST_MODE, BOOT_SEL -/
  capWriteN : Bool := true
  testMode : Bool := false
  bootSel : Nat := 0
  /-- clocks other than SCLK stopped after a loss of the root PLL (R403) -/
  clocksStopped : Bool := false
  /-- start of the winding and of the stage, in time units -/
  windStart : Nat := 0
  stageStart : Nat := 0
  domains : Tab Domain := []
  /-- CLK_GATE_CTL.FORCE_ON by clock domain (R404) -/
  forceOn : Tab Bool := []
  /-- time of the last periodic strap sample (R401) -/
  lastSample : Nat := 0
  /-- the last byte answered on SMBus (R402) -/
  smbus : Nat := 0
  /-- bundle slot chosen at W3: 0 A, 1 B, 2 none (R329) -/
  bundleSlot : Nat := 0
  /-- the CRIT stop of every core is in force (R412) -/
  critStop : Bool := false
  /-- self-test groups that have ended in this winding (R377) -/
  tested : List Nat := []
  deriving DecidableEq, Repr

/-! ### 04_stream_decoding.md and 05_reference_store_and_concealment.md -/

/-- Arguments of STREAM_OPEN (Tables 4.3 and 5.2). -/
structure StreamArgs where
  codec : Nat := 0
  profile : Nat := 0
  level : Nat := 0
  cls : Nat := 0
  rowChain : Bool := false
  catchup : Bool := false
  xlevel : Bool := false
  timingFrame : Bool := false
  noGrain : Bool := false
  chroma : Nat := 0
  bitdepth : Nat := 0
  coresMax : Nat := 0
  maxWidth : Nat := 0
  maxHeight : Nat := 0
  rateMhz : Nat := 0
  maxKbps : Nat := 0
  substreams : Nat := 0
  pace : Nat := 0
  rfsMode : Nat := 0
  keepPinned : Bool := false
  hideConcealed : Bool := false
  seqCheck : Bool := false
  pinSlots : Nat := 0
  pinMask : Nat := 0
  dpbPics : Nat := 0
  holdPics : Nat := 0
  reorderWin : Nat := 0
  deriving DecidableEq, Repr

/-- One decoded, decoding or waiting picture (R94-R102, R110, R122-R126, R439). -/
structure Picture where
  stream : Nat := 0
  auSeq : Nat := 0
  /-- position in decode order within the stream, and the coded video sequence it belongs to -/
  seq : Nat := 0
  epoch : Nat := 0
  info : AuInfo := {}
  /-- arguments and policy of its stream in force when the dispatcher took its unit (Table 4.4) -/
  args : StreamArgs := {}
  /-- coded data -/
  data : Bytes := []
  /-- lost units of the stream before it in decode order (R120) -/
  era : Nat := 0
  /-- target frame, none for a stored ASAP picture until it is complete (R92) -/
  target : Option Nat := none
  commitAt : Nat := 0
  /-- payload bytes, meter colour (0 green, 1 yellow), meter number + 1, decode input buffers held -/
  bytes : Nat := 0
  colour : Nat := 0
  meter : Nat := 0
  bufs : List Nat := []
  /-- committed before the draining command (R88) -/
  marked : Bool := false
  /-- TIME of its access unit's START entry (Table 11.3) -/
  time : Nat := 0
  /-- units given to cores; the decode has started once it is not 0 (R97) -/
  dispatched : Nat := 0
  /-- units done -/
  done : List Nat := []
  /-- cluster the units are placed in (R98) -/
  cluster : Option Nat := none
  /-- references in use, fixed when the decode starts: a picture by number, none for mid-grey; of an intra picture, the substitute
  that fills its corrupt blocks (R123); the missing ones with kind and output-order number of their substitute, reported when the
  first unit ends (R120, R121) -/
  refPics : List (Option Nat) := []
  missing : List (Nat × Nat × Nat) := []
  /-- it uses a concealed reference (R122); it holds an invalid compressed unit header (R128) -/
  dep : Bool := false
  badRef : Bool := false
  concealed : Bool := false
  decoded : Bool := false
  /-- instant and frame of its completion (R92) -/
  doneAt : Nat := 0
  doneFrame : Nat := 0
  /-- blocks filled under R123, as unit, first block and number of blocks -/
  filled : List (Nat × Nat × Nat) := []
  /-- samples, by plane × 2^16 + row, and how many luma rows are stored (R78, R80) -/
  rows : Tab (List Nat) := []
  stored : Nat := 0
  /-- slot of its stream's reservation: pinned, and number (R107, R110, R114) -/
  slot : Option (Bool × Nat) := none
  /-- its stream has been closed since (R126, R162) -/
  closed : Bool := false
  /-- released by the standard's output process (R18) -/
  released : Bool := false
  /-- held for output (R439) -/
  held : Bool := false
  /-- bound to a window in some frame -/
  shown : Bool := false
  /-- in the decoded picture buffer; kept as a substitute only (R111) -/
  inDpb : Bool := false
  substituteOnly : Bool := false
  /-- in a pinned slot; the pinned slot it is being copied into (R110) -/
  pinned : Bool := false
  copyTo : Option Nat := none
  /-- marked lost for output (R119), or dropped from output (R124) -/
  noOutput : Bool := false
  /-- completed after the pickup of its target frame (R124) -/
  late : Bool := false
  /-- bands issued to the compositor, and those it has returned (Table 1.4) -/
  bands : Nat := 0
  bandsBack : Nat := 0
  deriving DecidableEq, Repr

/-- A command that a stream carries out (flush or close) (Table 4.4). -/
structure DrainCmd where
  job : Nat
  close : Bool
  discard : Bool
  acceptedAt : Nat
  timedOut : Bool
  deriving DecidableEq, Repr

/-- One stream. State: 0 CLOSED, 1 OPEN, 2 RUNNING, 3 DRAINING, 4 FAULTED (Table 3.9). -/
structure StreamRec where
  state : Nat := 0
  tenant : Nat := 0
  args : StreamArgs := {}
  loadMs : Nat := 0
  granules : Nat := 0
  /-- units held behind a sequence gap (R117) -/
  held : List AccessUnit := []
  /-- granules reserved in the store's region, as runs of first and count (R114, R115) -/
  runs : List (Nat × Nat) := []
  /-- E of R117 once set, and the numbers declared lost as (first, count) -/
  nextSeq : Option Nat := none
  declaredLost : List (Nat × Nat) := []
  /-- flush and close under way, oldest first -/
  drains : List DrainCmd := []
  /-- decode order counter, coded video sequence, target of the last stored picture in output order (R92), lost units (R120) -/
  seq : Nat := 0
  losses : Nat := 0
  epoch : Nat := 0
  lastTarget : Option Nat := none
  /-- a run of units not decoded is open (R80); a concealment run and the pictures concealed in it (R122) -/
  undecRun : Bool := false
  concealing : Bool := false
  concealCount : Nat := 0
  /-- missing references already reported, as epoch × 2^32 + order (R121) -/
  reported : List Nat := []
  /-- frame for which LATE has been counted (R93) -/
  lateFrame : Option Nat := none
  /-- the last picture any window showed (R126), and the last picture the output process released (R121) -/
  lastShown : Option Nat := none
  lastOutput : Option Nat := none
  /-- DEC_SW counters -/
  decoded : Nat := 0
  late : Nat := 0
  preRap : Nat := 0
  unsupported : Nat := 0
  shortSplit : Nat := 0
  primaries : Nat := 0
  transfer : Nat := 0
  matrix : Nat := 0
  fullRange : Nat := 0
  /-- RFS_SW counters -/
  lostUnits : Nat := 0
  refMissing : Nat := 0
  sliceCorrupt : Nat := 0
  concealedPics : Nat := 0
  lateDrop : Nat := 0
  ooo : Nat := 0
  refReadKib : Nat := 0
  refPlainKib : Nat := 0
  /-- access units dropped by DISCARD; decoded and output by the flush (Table 4.5) -/
  discarded : Nat := 0
  flushDecoded : Nat := 0
  flushOutput : Nat := 0
  deriving DecidableEq, Repr

/-- One decode core (Table 4.9). -/
structure DecCore where
  busy : Bool := false
  offline : Bool := false
  /-- DEC_CORE_CTL.OFFLINE as written; a fault latched that only RESET clears (R106) -/
  offlineReq : Bool := false
  faulted : Bool := false
  /-- its unit goes on to a safe point for a stream that became FAULTED, or for a picture that is gone (R88) -/
  stopping : Bool := false
  /-- picture and unit it runs, and when the unit is planned to end (R101) -/
  pic : Nat := 0
  unit : Nat := 0
  unitKind : Nat := 0
  stream : Nat := 0
  plannedEnd : Nat := 0
  /-- picture it is reserved for (R102) -/
  reservedFor : Option Nat := none
  units : Nat := 0
  /-- busy time in CCLK cycles, and start of the unit -/
  busyCycles : Nat := 0
  startedAt : Nat := 0
  deriving DecidableEq, Repr

/-- The decode array and reference store. -/
structure DecSt where
  streams : Tab StreamRec := []
  /-- pictures by number; numbers are given out by `nextPic` -/
  pics : Tab Picture := []
  nextPic : Nat := 1
  cores : Tab DecCore := []
  /-- stored class whose turn it is: last stream served, by class (R103) -/
  turn : Tab Nat := []
  /-- live row credits of DEC → CNV (Table 1.4) -/
  crIssued : Nat := 0
  crReturned : Nat := 0
  crOut : Nat := 0
  deriving DecidableEq, Repr

/-! ### 06_wall_model_and_calibres.md -/

/-- One calibre bank (Table 6.1). State: 0 EMPTY, 1 SHADOW, 2 ACTIVE, 3 DRAINING. The contents are the image. -/
structure Bank where
  state : Nat := 0
  seq : Nat := 0
  image : Bytes := []
  /-- tiles whose LAT_UNBOUND flag the Cribo set (R27) -/
  latUnbound : List Nat := []
  deriving DecidableEq, Repr

/-- Identity state of a tile (Table 6.8) and its MISMATCH mask. -/
structure TileIdent where
  state : Nat := 0
  mismatch : Nat := 0
  /-- the record that made it MATCHED (R145, R175) -/
  record : Bytes := []
  deriving DecidableEq, Repr

/-- A swap under way (Table 6.7a): its job, the wanted frame, and once armed the mark s and the tile states. -/
structure Swap where
  job : Nat
  useAt : Bool
  frame : Nat
  armed : Bool
  s : Nat
  idents : Tab TileIdent
  mirrors : Tab TileIdent
  deriving DecidableEq, Repr

/-- A live edit that waits for its mark (R142). -/
structure LiveEdit where
  job : Nat
  image : Bytes
  /-- start of the command, time units -/
  startedAt : Nat
  deriving DecidableEq, Repr

/-- A calibre image that passed its checks and waits to replace the shadow (R133). -/
structure Staged where
  job : Nat
  image : Bytes
  latUnbound : List Nat
  deriving DecidableEq, Repr

/-- The wall model: banks, swap, tile states, frame marks, WALLSYNC. -/
structure ClbSt where
  bankA : Bank := {}
  bankB : Bank := {}
  /-- PG_CALIBRE.BANK, ACTIVE and EPOCH (R419): false is bank A -/
  active : Bool := false
  activeValid : Bool := false
  epoch : Nat := 0
  /-- issue counter (R134) -/
  issue : Nat := 0
  staged : Option Staged := none
  swap : Option Swap := none
  live : Option LiveEdit := none
  /-- mark of the last live edit, and the image that earlier frames use (R142, R274) -/
  before : Option (Nat × Bytes) := none
  /-- tile states in force (R144), and the results of mirror receivers by tile × 64 + port (R143) -/
  ident : Tab TileIdent := []
  mirrors : Tab TileIdent := []
  /-- states that frames before the last mark use (R140, R144) -/
  oldIdent : Tab TileIdent := []
  oldMirrors : Tab TileIdent := []
  /-- accumulator of R146, times of mark M(k - 1), of the last mark M(k) and of the next one, time units -/
  acc : Nat := 0
  prevMark : Nat := 0
  lastMark : Nat := 0
  nextMark : Nat := 0
  /-- WALLSYNC (R147): an edge has been seen, last accepted (or predicted) edge, accepted edges in a row, locked, marks
  from prediction in a row, ever locked, edge accepted for the coming mark, phase still moving toward the edges -/
  edgeKnown : Bool := false
  /-- CLB_SYNC_MEAS holds a period measured at the present frame rate -/
  measured : Bool := false
  slewing : Bool := false
  edgeAt : Nat := 0
  edges : Nat := 0
  locked : Bool := false
  holdRun : Nat := 0
  everLocked : Bool := false
  edgeSeen : Bool := false
  /-- frames the active calibre has been active without a fault of R149, and saved already -/
  goodFrames : Nat := 0
  saved : Bool := false
  /-- slot the last save used and its SAVE_SEQ (R395) -/
  saveSlot : Nat := 1
  saveSeq : Nat := 0
  savePending : Bool := false
  deriving DecidableEq, Repr

/-! ### 07_canvas_and_drive.md -/

/-- What a window shows in one frame: the tag of the bands it reads (R19), the picture bound, and the codes of R159. -/
structure WinBind where
  frame : Nat := 0
  bank : Bool := false
  /-- picture bound; none shows EMPTY behaviour -/
  pic : Option Nat := none
  repeated : Bool := false
  /-- EMPTY behaviour under R157 or R162 -/
  empty : Bool := true
  /-- the stream's signal when the picture was bound: primaries, transfer, matrix, range -/
  signal : Nat × Nat × Nat × Nat := (0, 0, 0, 0)
  /-- codes resolved (R159) -/
  primaries : Nat := 0
  transfer : Nat := 0
  matrix : Nat := 0
  fullRange : Nat := 0
  deriving DecidableEq, Repr

/-- One window: what it shows in the frame in scan and in later ones, oldest first; the last binding stays for a repeat (R15). -/
structure WinState where
  binds : List WinBind := []
  repeats : Nat := 0
  deriving DecidableEq, Repr

/-- A canvas row pair in the compositor's output buffer (Table 1.4): 2 × W lamps, three components each. -/
structure CanvasRp where
  frame : Nat
  bank : Bool
  q : Nat
  lamps : List (List Nat)
  deriving DecidableEq, Repr

/-- A tile row pair in drive codes (Table 1.4): one list of codes per emitter, row 2j then row 2j + 1. -/
structure TileRp where
  tile : Nat
  frame : Nat
  bank : Bool
  j : Nat
  codes : List (List Nat)
  deriving DecidableEq, Repr

/-- Per-tile state of the drive stage. -/
structure DrvTile where
  dark : Bool := false
  gmapErr : Bool := false
  noGmap : Bool := false
  /-- frame in which GAIN_MAP_ERROR was last raised (R171) -/
  errFrame : Option Nat := none
  deriving DecidableEq, Repr

/-- Compositor and drive stage. -/
structure CnvSt where
  wins : Tab WinState := []
  /-- frame in scan, its bank, and the next row pair; scanning -/
  frame : Nat := 0
  bank : Bool := false
  next : Nat := 0
  scanning : Bool := false
  /-- output buffer to the drive stage, at most 4 row pairs -/
  out : List CanvasRp := []
  crIssued : Nat := 0
  crReturned : Nat := 0
  crOut : Nat := 0
  /-- row pairs still to produce at the last mark (SCAN_OVERRUN ARG1) -/
  leftAtMark : Nat := 0
  /-- bands counted as missed for the row pair that waits: picture × 2^16 + band (R17) -/
  slipped : List Nat := []
  /-- gain map bytes read -/
  gmapBytes : Nat := 0
  /-- frame that the drive stage works on, and tile row pairs of it still to come (R175) -/
  drvFrame : Option Nat := none
  drvLeft : Nat := 0
  tiles : Tab DrvTile := []
  /-- DRV → MZE credits -/
  drvIssued : Nat := 0
  drvReturned : Nat := 0
  drvOut : Nat := 0
  /-- pictures whose WINDOW_RATIO was raised (R157), as window × 2^32 + picture -/
  ratioRaised : List Nat := []
  deriving DecidableEq, Repr

/-! ### 08_fusee.md -/

/-- One circuit (R176, R181). -/
structure Circuit where
  /-- values sampled at the open of the frame (R184) -/
  cap : Nat := 0
  slew : Nat := 0
  grant : Nat := 0
  limit : Nat := 0
  s : Nat := 32768
  s0 : Nat := 32768
  sLow : Nat := 32768
  used : Nat := 0
  uCur : Nat := 0
  uPrev : Nat := 0
  done : Nat := 0
  rows : Nat := 0
  prev : Nat := 0
  isOpen : Bool := false
  frame : Nat := 0
  /-- tile row pairs, dark ones included, still to come before the close (R175) -/
  left : Nat := 0
  /-- index of the first pair cut in the frame (Table 8.5) -/
  firstCut : Option Nat := none
  /-- weights by tile × 4 + emitter, fixed at the open (R175) -/
  weights : Tab Nat := []
  cuts : Nat := 0
  lateTiles : Nat := 0
  /-- FUS_FORCE value that applies at the next open (R186) -/
  force : Option Nat := none
  granted : Nat := 0
  consumed : Nat := 0
  expired : Nat := 0
  snapGranted : Nat := 0
  snapConsumed : Nat := 0
  snapExpired : Nat := 0
  /-- S_LOW of the last closed frame (FUS_C_SCALE) -/
  closedLow : Nat := 32768
  deriving DecidableEq, Repr

/-- The fusee. -/
structure FusSt where
  circ : Tab Circuit := []
  /-- caps and slews locked: circuit → cap, slew (R176), in force from the next frame open -/
  caps : Tab Nat := []
  slews : Tab Nat := []
  /-- cap-write session (R178): held low since W0 -/
  session : Bool := false
  /-- records of the table in force -/
  count : Nat := 0
  /-- image of the commit under way (R179) -/
  commit : Option Bytes := none
  deriving DecidableEq, Repr

/-! ### 10_mezzanine_encoding.md -/

/-- State word of one row pair of a tile (R226, R228-R230), as the encoders work on it; the reference region holds it too. -/
structure MzeRp where
  suspect : Bool := false
  floored : Bool := false
  /-- low 16 bits of the last frame that sent an INTRA or FLOOR segment for it (R230) -/
  refreshed : Option Nat := none
  deriving DecidableEq, Repr

/-- A tile picture in coding, or one whose close has not come (R216-R225). -/
structure MzePic where
  frame : Nat
  bank : Bool
  budget : Nat
  used : Nat := 16
  qb : Nat
  /-- qb after row pair 0 (R222) -/
  qbFirst : Nat
  profile : Nat
  emitters : Nat
  w8 : Nat
  h2 : Nat
  fmin : Nat
  /-- INTRA_ALL under R228 -/
  intraAll : Bool
  /-- points A(1) to A(15) -/
  curve : List Nat
  stepDn : Nat
  stepUp : Nat
  jump : Nat
  /-- row pairs that were not CLEAN at the open -/
  unclean : List Nat := []
  /-- TILE_REFRESH ranges that this frame carries -/
  refresh : List (Nat × Nat) := []
  /-- next row pair to code -/
  next : Nat := 0
  /-- coded bytes not yet in a link frame, and the offset of the first of them -/
  bytes : Bytes := []
  cut : Nat := 0
  /-- offsets of the headers -/
  starts : List Nat := [0]
  /-- segments: row pair, first byte, byte after the last, INTRA or FLOOR -/
  segs : List (Nat × Nat × Nat × Bool) := []
  floorAny : Bool := false
  floorRp : Nat := 0
  firstFloor : Nat := 0
  minF : Nat := 0
  /-- payload offset of the scheduler's notice, once its beats are over (R230) -/
  closedAt : Option Nat := none
  deriving DecidableEq, Repr

/-- One tile in the mezzanine encoders. -/
structure MzeTile where
  /-- input buffer, at most 4 tile row pairs (Table 1.4) -/
  inq : List TileRp := []
  pic : Option MzePic := none
  /-- pictures all of whose segments are coded and whose close has not come -/
  out : List MzePic := []
  rps : List MzeRp := []
  /-- granules of the reference region that hold its reference, as runs of first and count (R227) -/
  runs : List (Nat × Nat) := []
  /-- a notice that came before its tile picture opened: frame and offset (R230) -/
  notice : Option (Nat × Nat) := none
  /-- frame of the last tile picture sent in full, and of the last whose header was unsent (R228) -/
  sentFrame : Option Nat := none
  headerUnsent : Option Nat := none
  /-- geometry, profile and place of the last tile picture, and its receiver's serial number and geometry -/
  last : List Nat := []
  qb : Nat := 12
  /-- whole-picture report that no INTRA_ALL picture has answered (R228) -/
  wholeDamage : Option Nat := none
  /-- frame of the last INTRA_ALL picture -/
  lastIntraAll : Option Nat := none
  /-- pending TILE_REFRESH (R232): ALL, ranges, jobs -/
  refreshAll : Bool := false
  refresh : List (Nat × Nat) := []
  refreshJobs : List Nat := []
  /-- MZE_TILE registers of the last completed tile picture -/
  showBudget : Nat := 0
  showUsed : Nat := 0
  showQb : Nat := 0
  showMinF : Nat := 0
  showFloorRp : Nat := 0
  deriving DecidableEq, Repr

/-- One mezzanine core. -/
structure MzeCore where
  busy : Bool := false
  offline : Bool := false
  offlineReq : Bool := false
  faulted : Bool := false
  tile : Nat := 0
  j : Nat := 0
  /-- flags fixed before the candidates are coded (R222, R225) -/
  intra : Bool := false
  above : Bool := false
  /-- reference rows read at the start, and those of the row pair above: per emitter, one row then the next (R226) -/
  ref : List (List Nat) := []
  ups : List (List Nat) := []
  rps : Nat := 0
  busyCycles : Nat := 0
  startedAt : Nat := 0
  deriving DecidableEq, Repr

/-- Mezzanine encoders. -/
structure MzeSt where
  tiles : Tab MzeTile := []
  cores : Tab MzeCore := []
  deriving DecidableEq, Repr

/-! ### 12_buffer_pool_and_switch.md: the switch -/

/-- A link frame on its way to its ports (Tables 12.5 and 14.5). -/
structure LinkFrame where
  /-- L: SOF, header, payload, CRC-32 and EOF (R299) -/
  len : Nat := 0
  bufs : List Nat := []
  tile : Nat := 0
  /-- DIRECT and DPORT -/
  direct : Option Nat := none
  dreg : Nat := 0
  bank : Bool := false
  frame : Nat := 0
  frag : Nat := 0
  payload : Nat := 0
  /-- open frame: subscriber (256 for broadcast) and class (R280) -/
  isOpen : Bool := false
  sub : Nat := 0
  cls : Nat := 0
  /-- input, for SWC_RX_ROUTE (R265) -/
  input : Nat := 0
  /-- an identity engine request (R309) -/
  ident : Bool := false
  data : Bytes := []
  deriving DecidableEq, Repr

/-- One switch input. -/
structure SwIn where
  /-- link frames of the block behind the input that hold no buffers yet -/
  wait : List LinkFrame := []
  /-- link frames with buffers; the head is entering -/
  queue : List LinkFrame := []
  /-- the head's SOP has entered: outputs accepted, and those whose copy has been dropped since -/
  entered : Bool := false
  ports : List Nat := []
  dropped : List Nat := []
  /-- a cell of the head is in staging; its number, the outputs it has not reached, whether its data is written -/
  staged : Bool := false
  cell : Nat := 0
  left : List Nat := []
  written : Bool := false
  accept : Nat := 0
  deriving DecidableEq, Repr

/-- One switch output with its audit terms (R268): live, then the snapshot. -/
structure SwOut where
  grant : Nat := 0
  audIn : Nat := 0
  audOut : Nat := 0
  audDrop : Nat := 0
  resident : Nat := 0
  snapIn : Nat := 0
  snapOut : Nat := 0
  snapDrop : Nat := 0
  snapResident : Nat := 0
  /-- link frames departed since the last sample (R266) -/
  since : Nat := 0
  deriving DecidableEq, Repr

/-- The switch core. -/
structure SwcSt where
  ins : Tab SwIn := []
  outs : Tab SwOut := []
  deriving DecidableEq, Repr

/-! ### 13_beats_and_scheduling.md -/

/-- One shaper (R282); tokens are 1/9,600,000 byte. -/
structure Shaper where
  enable : Bool := false
  rate : Nat := 0
  burst : Nat := 0x2000
  bal : Int := 0
  last : Nat := 0
  credit : Nat := 0
  forgiven : Nat := 0
  spent : Nat := 0
  capped : Nat := 0
  snapCredit : Nat := 0
  snapForgiven : Nat := 0
  snapSpent : Nat := 0
  snapCapped : Nat := 0
  snapBal : Nat := 0
  deriving DecidableEq, Repr

/-- One port's scheduler. -/
structure SchPort where
  tileQ : List LinkFrame := []
  /-- leaf queues by 4 × subscriber + class -/
  leaves : Tab (List LinkFrame) := []
  /-- weights that differ from 1, shapers and deficits by subscriber; 257 is the port shaper -/
  weight : Tab Nat := []
  shapers : Tab Shaper := []
  dfc : Tab Nat := []
  ptr : Nat := 0
  fresh : Bool := true
  /-- a port frame has started since reset; instant of its mark, and the calibre bank of its frame (none without one) -/
  running : Bool := false
  markAt : Nat := 0
  /-- time of the port frame that was no lane time of byte slots: marks and training (R269) -/
  skipped : Nat := 0
  bank : Option Bool := none
  /-- the image that the port frame's beat table and positions were loaded from, and its OFFSET -/
  image : Bytes := []
  offset : Nat := 0
  /-- first slot free after the link frames started so far, and when the last of them ends -/
  free : Nat := 0
  busyUntil : Nat := 0
  /-- tiles dark on this port in the port frame, + 2^16 where only the mirror receiver is, and those whose BLANK has left
  (R305) -/
  dark : List Nat := []
  blanked : List Nat := []
  /-- per tile: payload bytes sent in full from offset 0, and the tiles closed -/
  sent : Tab Nat := []
  closed : List Nat := []
  /-- parity error in the beat table (R286) -/
  tableBad : Bool := false
  openBytes : Nat := 0
  borrowBytes : Nat := 0
  /-- the last link frame sent, as it left the port (R300) -/
  lastTx : Bytes := []
  deriving DecidableEq, Repr

/-- One close of a tile on a port (R277): frame and payload bytes sent in full. -/
structure TileClose where
  tile : Nat
  frame : Nat
  port : Nat
  sent : Nat
  deriving DecidableEq, Repr

/-- The scheduler. -/
structure SchSt where
  ports : Tab SchPort := []
  /-- closes of tiles whose other ports have not closed yet (R277) -/
  closes : List TileClose := []
  /-- tile pictures counted in FUS_C_LATE_TILES, as tile and frame (R187) -/
  late : List (Nat × Nat) := []
  deriving DecidableEq, Repr

/-! ### 14_panel_link.md -/

/-- A FRESH read of an identity record that is under way (R310). -/
structure FreshRead where
  job : Nat
  tag : Nat
  tries : Nat
  since : Nat
  deriving DecidableEq, Repr

/-- One chain position (R297, R303, R308, R309). -/
structure Position where
  offered : Nat := 0
  version : Nat := 0
  confirmed : Bool := false
  /-- round trips measured in step 5 -/
  trips : List Nat := []
  latNs : Int := 0
  /-- last good record, and the frame in which it was read -/
  record : Option Bytes := none
  recFrame : Nat := 0
  /-- identity engine: 0 idle, 1 record asked for, 2 MARK_ADJ written, 3 waits 100 ms for the record, 4 for MARK_ADJ; tries,
  TAG of the outstanding request, and when the state began -/
  engine : Nat := 0
  tries : Nat := 0
  tag : Nat := 0
  since : Nat := 0
  /-- the record is valid since the last training and MARK_ADJ has been written -/
  good : Bool := false
  /-- FRESH reads that wait for the record (R310) -/
  fresh : List FreshRead := []
  crcErrors : Nat := 0
  deriving DecidableEq, Repr

/-- A character of a tile link: K or D, and its 8-bit value (R291). -/
structure LinkChar where
  k : Bool
  v : Byte
  deriving DecidableEq, Repr

/-- One port. -/
structure PlkPort where
  state : Nat := 0
  receivers : Nat := 0
  pos : Tab Position := []
  /-- lane class and rate byte, and version bits, that the port uses -/
  lane : Nat := 0
  vers : Nat := 0
  /-- step of Table 14.4 while STATE = TRAIN, and when it began -/
  step : Nat := 0
  stepAt : Nat := 0
  /-- position and try of step 4 -/
  confirm : Nat := 0
  tries : Nat := 0
  /-- what the training in progress was started for (ARG2 of LINK_STATE) -/
  cause : Nat := 1
  /-- when STATE became DOWN, and the starts of training of the last second (R298) -/
  downAt : Nat := 0
  starts : List Nat := []
  /-- trunk credits (R301) -/
  held : Nat := 0
  rcvd : Nat := 0
  spent : Nat := 0
  stalled : Bool := false
  /-- N of the last MARK inserted (R302) -/
  markN : Option Nat := none
  /-- the characters of what the port put out last, an ordered set or a link frame with its fill and the MARK inside it, and when they
  began (R290, R291, R302) -/
  tx : List LinkChar := []
  txAt : Nat := 0
  /-- when the port left DATA: until it is back there, no byte slot passes (R269) -/
  outSince : Nat := 0
  /-- the next TAG of the identity engine, less 0x8000 (R307) -/
  tag : Nat := 0
  deriving DecidableEq, Repr

/-- One lane. -/
structure Lane where
  /-- measurements in a row with FOM below FOM_MIN (R298) -/
  fomLow : Nat := 0
  pllLost : Bool := false
  /-- R292: commas in a row at one bit position, that position, characters since the last comma, and the ages of the code violations
  (on a trunk, R293, invalid sync headers) among the last 64 characters -/
  commas : Nat := 0
  commaBit : Nat := 0
  since : Nat := 0
  bad : List Nat := []
  /-- R293: valid sync headers in a row, arrival of the last alignment marker, and markers missed in a row -/
  run : Nat := 0
  markerAt : Option Nat := none
  missed : Nat := 0
  /-- R313: since when the checker checks the lane's own looped-back pattern, the bits checked before that, and the bits after which
  the injection at INJ_RATE now set began -/
  chkAt : Option Nat := none
  chkBits : Nat := 0
  injFrom : Nat := 0
  deriving DecidableEq, Repr

/-- Panel link and lanes. -/
structure PlkSt where
  ports : Tab PlkPort := []
  lanes : Tab Lane := []
  /-- the transfer of PLK_I2C_CMD that runs -/
  i2c : Option Nat := none
  /-- position maps of the current frame and the three before it, newest first, as the images they are read from; every
  instance keeps the same copies (R306) -/
  maps : List (Nat × Bytes) := []
  deriving DecidableEq, Repr

/-! ### 15_escapements_and_regulators.md: queues -/

/-- One regulator's switch queues (R335, R336). -/
structure RglQueues where
  /-- L_RXQ by index, producer and consumer modulo 128 -/
  rxq : Tab Bytes := []
  rxPi : Nat := 0
  rxCi : Nat := 0
  /-- L_TXQ by index, producer and consumer modulo 32 -/
  txq : Tab Bytes := []
  txPi : Nat := 0
  txCi : Nat := 0
  deriving DecidableEq, Repr

/-- The queues of every regulator. -/
structure RgqSt where
  q : Tab RglQueues := []
  deriving DecidableEq, Repr

/-! ### 11_monitor_and_relay_encoding.md -/

/-- A source picture of an encode session (R239-R241). -/
structure EncPic where
  /-- FRAME, TIME and the concealed bit of its record (Table 11.3) -/
  frame : Nat := 0
  time : Nat := 0
  concealed : Bool := false
  /-- decoded picture it was taken from, for a stream source -/
  pic : Option Nat := none
  /-- Y, Cb and Cr codes at the session's depth, row by row -/
  planes : List (List Nat) := []
  deriving DecidableEq, Repr

/-- What a coded picture signals (R235, R239, Table 11.2). -/
structure EncHead where
  /-- level code of the standard; HEVC is of the Main tier -/
  level : Nat := 0
  /-- widths of the tile columns in CTUs or superblocks -/
  columns : List Nat := []
  /-- VPS, SPS and PPS, or the AV1 sequence header, go before it; an AV1 temporal delimiter does -/
  params : Bool := false
  delimiter : Bool := false
  /-- chroma_sample_loc_type -/
  chromaLoc : Nat := 1
  primaries : Nat := 0
  transfer : Nat := 0
  matrix : Nat := 0
  deriving DecidableEq, Repr

/-- One encode session. State: 0 CLOSED, 1 RUNNING, 2 CLOSING. -/
structure EncSession where
  state : Nat := 0
  tenant : Nat := 0
  codec : Nat := 0
  profile : Nat := 0
  depth : Nat := 8
  isStream : Bool := false
  /-- RATE_MODE: 0 CBR, 1 VBR, 2 CQP -/
  mode : Nat := 0
  nCores : Nat := 0
  div : Nat := 0
  stream : Nat := 0
  outW : Nat := 0
  outH : Nat := 0
  cx : Nat := 0
  cy : Nat := 0
  cw : Nat := 0
  ch : Nat := 0
  target : Nat := 0
  peak : Nat := 0
  buf : Nat := 0
  qp : Nat := 0
  keyInt : Nat := 0
  outRing : Nat := 0
  outCq : Nat := 0
  primaries : Nat := 0
  transfer : Nat := 0
  matrix : Nat := 0
  maxPic : Nat := 0
  /-- load by core, and the load of the whole session (R237) -/
  loads : Tab Nat := []
  load : Nat := 0
  granules : Nat := 0
  /-- picture rate, pictures per second as num / den -/
  rateNum : Nat := 0
  rateDen : Nat := 1
  /-- source buffers: canvas rows gathered for the frame being scanned; waiting; in coding (R239) -/
  fillFrame : Option Nat := none
  fill : Tab (List (List Nat)) := []
  waiting : Option EncPic := none
  coding : Option EncPic := none
  /-- the picture in coding is a key picture; its hard limit in bits, -1 for none (R242) -/
  codingKey : Bool := false
  hard : Int := 0
  /-- what the last picture coded signals -/
  head : Option EncHead := none
  /-- stream pictures taken already (R240) -/
  taken : List Nat := []
  /-- the stream is not RUNNING, and ENC_SOURCE has been raised for it -/
  sourceDown : Bool := false
  needKey : Bool := true
  /-- pictures delivered since the last key picture, it included -/
  sinceKey : Nat := 0
  /-- bucket fullness F and Fp in bits -/
  f : Nat := 0
  fp : Nat := 0
  /-- ENC_SS counters -/
  pics : Nat := 0
  skip : Nat := 0
  noBuf : Nat := 0
  guard : Nat := 0
  overflow : Nat := 0
  /-- ENC_SESSION_CLOSE jobs that wait for the end -/
  closeJobs : List Nat := []
  deriving DecidableEq, Repr

/-- One encode core. -/
structure EncCore where
  busy : Bool := false
  offline : Bool := false
  offlineReq : Bool := false
  faulted : Bool := false
  session : Nat := 0
  startedAt : Nat := 0
  /-- busy time in CCLK cycles -/
  busyCycles : Nat := 0
  deriving DecidableEq, Repr

/-- The encode cores. -/
structure EncSt where
  sessions : Tab EncSession := []
  cores : Tab EncCore := []
  deriving DecidableEq, Repr
/-! ### 15_escapements_and_regulators.md -/

/-- One image that an escapement kind has had as its current image (R326, R327). -/
structure EscImage where
  version : Nat := 0
  secVer : Nat := 0
  /-- the boot ROM's recovery image of kind 6, whose words are not given (R329) -/
  recovery : Bool := false
  words : Bytes := []
  deriving DecidableEq, Repr

/-- One escapement (R316-R324). -/
structure Escapement where
  /-- image in its store, by number -/
  image : Option Nat := none
  /-- halted by a parity error or under R323 until its engine's reset -/
  halted : Bool := false
  /-- routine held, address of the next word, call stack (innermost first) -/
  routine : Option Nat := none
  pc : Nat := 0
  stack : List Nat := []
  /-- the WAIT word at `pc` has timed out with TFLT = 1 -/
  timedOut : Bool := false
  /-- conditions 2 and 3, and when the older of the pending requests arose -/
  stop : Bool := false
  fault : Bool := false
  reqAt : Nat := 0
  /-- a SAFE_STOP request is outstanding (PG_STATUS.STOPPING, R418) -/
  safe : Bool := false
  deriving DecidableEq, Repr

/-- The escapements: images by number, the current image of each kind, and each escapement by 64 × kind + index. -/
structure EscSt where
  images : Tab EscImage := []
  nextImage : Nat := 0
  cur : Tab Nat := []
  units : Tab Escapement := []
  /-- kind of the ESC_LOAD that runs (R327) -/
  loading : Option Nat := none
  deriving DecidableEq, Repr

/-- One complication (R337, Table 15.9). -/
structure Cpl where
  kind : Nat := 0
  version : Nat := 0
  abi : Nat := 0
  /-- the image that the runtime keeps in shared SRAM -/
  image : Bytes := []
  /-- entry it is in: 0 none, 1 INIT, 2 FRAME, 3 MESSAGE, 4 STOP; when it began; entries that wait -/
  entry : Nat := 0
  entryAt : Nat := 0
  frameWaits : Bool := false
  msgWaits : Nat := 0
  /-- this FRAME call has been counted as an overrun; overruns in a row -/
  overran : Bool := false
  overruns : Nat := 0
  stopped : Bool := false
  /-- service timers: when each expires -/
  timers : List Nat := []
  /-- the last result in a0 and a1, and the message or queue entry that the last service returned -/
  a0 : Nat := 0
  a1 : Nat := 0
  got : Bytes := []
  /-- order of loading -/
  order : Nat := 0
  deriving DecidableEq, Repr

/-- One regulator beyond its register fields and switch queues. -/
structure Regulator where
  /-- inbound mailbox, oldest first (R334) -/
  mbx : List Bytes := []
  /-- local control (Table 15.7): L_MBX_OUT, L_MBX_RESULT, L_DWIN0 and L_DWIN1 -/
  mbxOut : Bytes := List.replicate 32 0
  postDone : Bool := false
  postFull : Bool := false
  dwin0 : Nat := 0
  dwin1 : Nat := 0
  /-- last watchdog restart; half of the period has signalled (R333, Table 17.1) -/
  wdogAt : Nat := 0
  wdogHalf : Bool := false
  /-- IMEM and DMEM as the runtime's load leaves them -/
  imem : Mem := []
  dmem : Mem := []
  /-- complications by slot -/
  cpls : Tab Cpl := []
  deriving DecidableEq, Repr

/-- A COMPLICATION_LOAD under way (R338): its job (none at winding and reload), place, whether INIT has returned 0, and the
complication. -/
structure CplLoad where
  job : Option Nat
  g : Nat
  slot : Nat
  initDone : Bool
  startedAt : Nat
  cpl : Cpl
  deriving DecidableEq, Repr

/-- A bundle write under way (R330). -/
structure BundleWrite where
  slot : Nat
  image : Bytes
  result : Nat
  deriving DecidableEq, Repr

/-- The regulators. -/
structure RglSt where
  regs : Tab Regulator := []
  /-- the regulator whose turn it is at a shared switch input, by input (R336) -/
  txTurn : Tab Nat := []
  /-- runtime of the bundle in use: IMEM then DMEM contents (R326) -/
  runtime : Bytes := []
  /-- shared SRAM, as the regulators' writes leave it (Table 15.6) -/
  sram : Mem := []
  /-- loads and unloads (job, kind) that wait for a mark -/
  loading : List CplLoad := []
  unloads : List (Nat × Nat) := []
  /-- addresses published by kind (Table 15.10) -/
  published : Tab Nat := []
  /-- complications loaded so far -/
  order : Nat := 0
  bundle : Option BundleWrite := none
  /-- arguments of the BOOT event that waits for the event ring (R329) -/
  bootEvent : Option (List Nat) := none
  deriving DecidableEq, Repr
/-! ### 16_dma.md -/

/-- A failing access of a descriptor (R345, R346). -/
structure DmaFail where
  /-- a read: of the source, or of COMPARE's second range -/
  onSrc : Bool
  offset : Nat
  len : Nat
  resp : DmaResp
  deriving DecidableEq, Repr

/-- One DMA channel. -/
structure DmaCh where
  /-- DMA_CHc_CFG.PDPOLICY, DMA_CHc_HEAD -/
  stopPolicy : Bool := false
  head : Nat := 0
  /-- DMA_CHc_STATUS -/
  busy : Bool := false
  done : Bool := false
  lastSt : Nat := 0
  submitter : Nat := 0
  /-- the job of DMA_SUBMIT; none for a register start -/
  job : Option Nat := none
  /-- descriptor address, and the descriptor once it has started -/
  cur : Nat := 0
  desc : Option Bytes := none
  startedAt : Nat := 0
  descs : Nat := 0
  remain : Nat := 0
  offset : Nat := 0
  /-- bytes from offset 0 whose accesses have been answered without error -/
  progress : Nat := 0
  fails : List DmaFail := []
  /-- ABORT, the time limit, and a domain stop under R348 wait for the access boundary -/
  abort : Bool := false
  timedOut : Bool := false
  domainStop : Bool := false
  /-- last error status of the chain, 0 for none -/
  lastErr : Nat := 0
  deriving DecidableEq, Repr

/-- The DMA engines. -/
structure DmaSt where
  ch : Tab DmaCh := []
  /-- bytes written, by page (DMA_BYTES_KIB) -/
  bytes : Tab Nat := []
  deriving DecidableEq, Repr
/-! ### The whole state -/

/-- The state of the block. -/
structure State where
  /-- the fuse that makes the part a C648 or a C624 (R3); no command changes it -/
  variant : Variant
  /-- time in cycles of the 9.6 GHz root PLL (Table 20.3); an empty-queue step adds 1 (log 3) -/
  now : Nat
  /-- the model's own counter of free values drawn (log 8) -/
  freeCtr : Nat
  /-- commands that wait, first in, first out -/
  pending : List Instr
  /-- register store: fields without a record, by Fld.key; an unlisted field holds its reset value -/
  regs : Tab Nat
  hst : HostSt
  rng : RingSt
  pool : PoolSt
  int : IntSt
  flt : FaultSt
  mem : MemSt
  kst : KstSt
  pwr : PowerSt
  dec : DecSt
  clb : ClbSt
  cnv : CnvSt
  fus : FusSt
  mze : MzeSt
  swc : SwcSt
  sch : SchSt
  plk : PlkSt
  rgq : RgqSt
  enc : EncSt
  esc : EscSt
  rgl : RglSt
  dma : DmaSt
  deriving DecidableEq, Repr

/-- The machine right after power-on: W0 is about to run, every register at its reset value (R9, R408, R427). -/
def State.reset : State where
  variant := .c648
  now := 0
  freeCtr := 0
  pending := []
  regs := []
  hst := {}
  rng := {}
  pool := {}
  int := {}
  flt := {}
  mem := {}
  kst := {}
  pwr := {}
  dec := {}
  clb := {}
  cnv := {}
  fus := {}
  mze := {}
  swc := {}
  sch := {}
  plk := {}
  rgq := {}
  enc := {}
  esc := {}
  rgl := {}
  dma := {}

end Sys2Proof.Machine
end

