-- ==== Sys2Proof/Machine/Ops.lean ====
section
/-! DEFINITION. The named operations over the state that the meanings share: registers, time, fault sources (R362-R371),
interrupt edges and messages (R351-R359), memories, ring records (R54, R58, R59), events and completions. -/

namespace Sys2Proof.Machine

/-- What a meaning answers. -/
abbrev Out := Host.Outcome State Fault Refusal

/-- Runs an operation of logic whose clock comes from the root PLL: once the PLL has lost lock nothing of it moves
until power is removed (R403). -/
def State.run (s : State) (f : State → State) : Out := .next (if s.pwr.clocksStopped then s else f s)

/-- A 64-bit number from its low and high words. -/
def addr64 (lo hi : Nat) : Nat := 4294967296 * hi + lo

/-! ### Register fields -/

/-- Register `i` of a field: a ring, page, port or other index, as the field's table counts it. -/
def State.fld (s : State) (f : Fld) (i : Nat := 0) : Nat :=
  Tab.get (f.resetVal s.variant i) s.regs (f.key i)

/-- The state with register `i` of a field at value `v`, cut to the field's width. -/
def State.setFld (s : State) (f : Fld) (i v : Nat) : State :=
  { s with regs := Tab.set s.regs (f.key i) (v % 2 ^ f.width) }

/-- A one-bit field as a Bool. -/
def State.flag (s : State) (f : Fld) (i : Nat := 0) : Bool := s.fld f i != 0

/-- Adds to a counter that wraps at its width. -/
def State.count (s : State) (f : Fld) (i : Nat := 0) (n : Nat := 1) : State := s.setFld f i (s.fld f i + n)

/-- Adds to a counter that saturates at its width. -/
def State.countSat (s : State) (f : Fld) (i : Nat := 0) (n : Nat := 1) : State :=
  s.setFld f i (satur f.width (s.fld f i + n))

/-- SYS_FRAME_COUNT (R11). -/
def State.frameCount (s : State) : Nat := s.fld Reg.SYS_FRAME_COUNT

/-- Winding has reached W7 (R399, SYS_STATUS.WOUND). -/
def State.wound (s : State) : Bool := s.fld Reg.PWR_WIND_STAGE == 15

/-- The page is enabled (PG_CTRL.ENABLE). -/
def State.pageEnabled (s : State) (blk inst : Nat) : Bool := s.flag Reg.PG_CTRL_ENABLE (pageOf blk inst)

/-- The register at a field's place as one word: low half and high half fields. -/
def State.pair (s : State) (lo hi : Fld) (i loShift hiShift : Nat) : Nat :=
  s.fld lo i * 2 ^ loShift + s.fld hi i * 2 ^ hiShift

/-- Whether a page of the block type and instance exists on the variant. -/
def State.hasPage (s : State) (blk inst : Nat) : Bool :=
  match blockTypes.find? (·.code = blk) with
  | some t => decide (inst < t.count s.variant)
  | none => false

/-- Removes every stored field of one page, so that each holds its reset value again (R9), and keeps those in `keep`. -/
def State.clearPage (s : State) (blk inst : Nat) (keep : List Fld := []) : State :=
  let own := (Reg.ofPage blk).filter fun f => !(keep.contains f)
  let hdr := (Reg.ofPage 0).filter fun f => !(keep.contains f)
  let page := pageOf blk inst
  { s with regs := s.regs.filter fun e =>
      let id := e.1 % 1024
      let ix := e.1 / 1024
      !(own.any fun f => f.id == id && (ix / f.count == (if f.insts = .rest then inst - 1 else inst))) &&
      !(hdr.any fun f => f.id == id && ix / f.count == page) }

/-! ### Free values -/

/-- Draws a free word: a value the spec leaves undefined (log 8). -/
def State.freeWord (s : State) : Nat × State :=
  ((Config.freeWord s.freeCtr).toNat, { s with freeCtr := s.freeCtr + 1 })

/-! ### Host messages and interrupt edges -/

def State.src (s : State) (id : Nat) : IntSrc := Tab.get {} s.int.src id

def State.setSrc (s : State) (id : Nat) (x : IntSrc) : State :=
  { s with int := { s.int with src := Tab.set s.int.src id x } }

def State.tgt (s : State) (g : Nat) : IntTgt := Tab.get {} s.int.tgt g

def State.setTgt (s : State) (g : Nat) (x : IntTgt) : State :=
  { s with int := { s.int with tgt := Tab.set s.int.tgt g x } }

def State.vec (s : State) (v : Nat) : MsixVec := Tab.get {} s.hst.msix v

def State.setVec (s : State) (v : Nat) (x : MsixVec) : State :=
  { s with hst := { s.hst with msix := Tab.set s.hst.msix v x } }

/-- A message on MSI-X vector `v` (R46): one masked by its own mask or by the function mask sets its PBA bit, an unmasked one sends
and is counted. -/
def State.sendMsix (s : State) (v : Nat) : State :=
  let x := s.vec v
  if x.masked || s.hst.fnMasked then s.setVec v { x with pba := true }
  else (s.setVec v { x with sent := x.sent + 1 }).count Reg.INT_HOST_MSGS

/-- The condition of R359 for shared source `id`: ENABLE ∧ PENDING ∧ ¬ACTIVE ∧ ¬HOLD. -/
def State.hostCond (s : State) (id : Nat) : Bool :=
  s.flag Reg.INT_SRC_ENABLE id && (s.src id).pending && !(s.src id).active && !(s.flag Reg.INT_GLOBAL_HOLD)

/-- Sends the message of R359 where the condition of source `id` has turned true since `before`. -/
def State.hostMsg (s before : State) (id : Nat) : State :=
  if s.hostCond id && !(before.hostCond id) && s.flag Reg.INT_SRC_HOST id && s.flag Reg.INT_GLOBAL_HOST_EN then
    s.sendMsix (s.fld Reg.INT_SRC_VECTOR id)
  else s

/-- The first regulator after INT_RR_PTR that INT_RR_MASK names and that runs (R354). -/
def State.rrPick (s : State) : Option Nat :=
  let p := s.fld Reg.INT_RR_PTR
  ((List.range 16).map fun k => (p + 1 + k) % 16).find? fun g =>
    bit (s.fld Reg.INT_RR_MASK) g && s.fld Reg.RGL_STATUS_STATE g == 1

/-- Assigns a round-robin source that has no regulator yet (R354). -/
def State.rrAssign (s : State) (id : Nat) : State :=
  if s.flag Reg.INT_SRC_RR id && !(s.flag Reg.INT_SRC_HOST id) && (s.src id).pending && (s.src id).assigned.isNone then
    match s.rrPick with
    | some g => (s.setSrc id { s.src id with assigned := some g }).setFld Reg.INT_RR_PTR 0 g
    | none => s
  else s

/-- A rising edge of shared source `id` (R351): sets pending, or merges into a pending bit already set. -/
def State.intEdge (s : State) (id : Nat) : State :=
  let x := s.src id
  if x.pending then s
  else ((s.setSrc id { x with pending := true, assigned := none }).rrAssign id).hostMsg s id

/-- A rising edge of private source `id` of regulator `g` (R351, R352). -/
def State.privEdge (s : State) (g id : Nat) : State :=
  let t := s.tgt g
  let p := Tab.get {} t.priv id
  s.setTgt g { t with priv := Tab.set t.priv id { p with pending := true } }

/-! ### Keeping store writes -/

/-- CRC-16 of R198: one byte into the running value. -/
def crc16Step (c : BitVec 16) (b : Byte) : BitVec 16 :=
  (List.range 8).foldl (fun c _ => if c.msb then (c <<< 1) ^^^ 0x1021#16 else c <<< 1) (c ^^^ (b.zeroExtend 16 <<< 8))

/-- CRC-16 of R198 over a byte string. -/
def crc16 (bs : Bytes) : BitVec 16 := bs.foldl crc16Step 0xFFFF#16

/-- The keeping store region of an offset (Table 19.5); none for the reserved ranges. -/
def kstRegion (off : Nat) : Option Nat :=
  if off < 0x10000 then some 0
  else if off < 0x20000 then some 1
  else if off < 0x30000 then some 2
  else if off < 0x40000 then some 3
  else if off < 0x80000 then some 4
  else if off < 0x100000 then none
  else if off < 0x800000 then some 5
  else if off < 0xF00000 then some 6
  else if off < 0x1000000 then some 7
  else if off < 0x2100000 then some 8
  else if off < 0x3200000 then some 9
  else none

/-- The page (4 KiB) of each 64-byte line that a range touches; the store writes one line at a time (R394). -/
def kstPages (off len : Nat) : List Nat :=
  if len = 0 then [] else (List.range ((off + len - 1) / 64 + 1 - off / 64)).map fun k => (off / 64 + k) / 64

/-- The page counts after a write of the range (R397). -/
def KstSt.wearAfter (k : KstSt) (off len : Nat) : Tab Nat :=
  (kstPages off len).foldl (fun w p => Tab.set w p (Tab.get 0 w p + 1)) k.wear

/-- The range lies in a region that has become read-only, or a page of it would pass 1,000,000,000 writes (R397). -/
def KstSt.worn (k : KstSt) (off len : Nat) : Bool :=
  ((kstRegion off).map k.readOnly.contains).getD false || (kstPages off len).any fun p => decide (1000000000 < Tab.get 0 (k.wearAfter off len) p)

/-- A refused write makes its region read-only (R397). -/
def KstSt.shut (k : KstSt) (off : Nat) : KstSt :=
  match kstRegion off with
  | some r => if k.readOnly.contains r then k else { k with readOnly := r :: k.readOnly }
  | none => k

/-- A page of the range reaches 900,000,000 writes with this write (R397). -/
def KstSt.warns (k : KstSt) (off len : Nat) : Bool :=
  (kstPages off len).any fun p =>
    decide (Tab.get 0 k.wear p < 900000000) && decide (900000000 ≤ Tab.get 0 (k.wearAfter off len) p)

/-- The write itself: bytes stored, lines good again, page counts up. -/
def KstSt.put (k : KstSt) (off : Nat) (bs : Bytes) : KstSt :=
  { k with
    mem := k.mem.writeBytes off bs
    bad := k.bad.filter fun l => !(decide (off ≤ l * 64) && decide (l * 64 + 64 ≤ off + bs.length))
    wear := k.wearAfter off bs.length }

/-! ### Fault sources -/

/-- The effective class of a source (R363, R364). -/
def State.effClass (s : State) (src : Src) (inst : Nat) : Nat :=
  if src.cls = 4 ∨ src.bit < 8 ∨ 24 ≤ src.bit then src.cls
  else
    let r := s.fld Reg.PG_ERR_CLASS_RAISE (pageOf src.blk inst * 16 + (src.bit - 8))
    if r = 3 then src.cls else min 3 (src.cls + r)

/-- FAULT_N is asserted (R370): a C4 has latched, a pulse runs, or HOLD is 1. -/
def State.faultPin (s : State) : Bool := s.flt.c4 || s.flt.pulse || s.flag Reg.FLT_PIN_HOLD

/-- Signals source 38 where FAULT_N has become asserted since `before`. -/
def State.pinEdge (s before : State) : State :=
  if s.faultPin && !before.faultPin then s.intEdge 38 else s

/-- The pin pulse and the C4 effects of a latch of class `c` (R22, R367, R370). -/
def State.latchEffects (s : State) (c : Nat) : State :=
  let starts := decide (s.fld Reg.FLT_PIN_THRESH ≤ c) && decide (s.fld Reg.FLT_PIN_THRESH ≤ 4)
  let pulse := s.flt.pulse || starts
  let at_ := if starts then s.now else s.flt.pulseAt
  let f :=
    if c = 4 then
      { s.flt with pulse := pulse, pulseAt := at_, c4 := true, promiseVoid := true,
                   darkArmed := s.flt.darkArmed || s.flag Reg.FLT_PIN_C4_DARK }
    else { s.flt with pulse := pulse, pulseAt := at_ }
  State.pinEdge { s with flt := f } s

/-- What the collector does at a latch of class `c` (R369, R370). -/
def State.collect (s : State) (c : Nat) : State :=
  ((s.count Reg.FLT_COUNT c).intEdge (33 + c)).latchEffects c

/-- The sticky bits of a page. -/
def State.sticky (s : State) (page : Nat) : Nat := s.fld Reg.PG_ERR_STICKY page

/-- The source is enabled for reporting; a C4 source always is (R365). -/
def State.srcEnabled (s : State) (src : Src) (page : Nat) : Bool :=
  src.cls == 4 || bit (s.fld Reg.PG_ERR_ENABLE page) src.bit

/-- Sets the sticky bit of a source. -/
def State.setSticky (s : State) (page b : Nat) : State :=
  if bit (s.sticky page) b then s else s.setFld Reg.PG_ERR_STICKY page (s.sticky page + 2 ^ b)

/-- A latch without the persistent log: the sticky bit, and the collector where the source is enabled and the bit was
clear (R362, R365, R366). -/
def State.latchCore (s : State) (src : Src) (inst : Nat) : State :=
  let page := pageOf src.blk inst
  let fresh := !(bit (s.sticky page) src.bit)
  let s1 := s.setSticky page src.bit
  if fresh && s.srcEnabled src page then s1.collect (s.effClass src inst) else s1

/-- The 16 bytes of a fault log record (Table 18.3). -/
def State.logRecord (s : State) (src : Src) (inst cls : Nat) : Bytes :=
  let stage := s.fld Reg.PWR_WIND_STAGE
  let b := leBytes s.kst.windings 4 ++ leBytes s.frameCount 4 ++
    [BitVec.ofNat 8 src.blk, BitVec.ofNat 8 inst, BitVec.ofNat 8 src.bit, BitVec.ofNat 8 (cls + 8 * stage), 0, 0]
  b ++ leBytes (crc16 b).toNat 2

/-- A check of a source's checker takes one armed inversion, if the page's injection names the source (R372). -/
def State.takeInject (s : State) (src : Src) (inst : Nat := 0) : Option State :=
  let page := pageOf src.blk inst
  let n := s.fld Reg.PG_ERR_INJECT_COUNT page
  if n ≠ 0 ∧ s.fld Reg.PG_ERR_INJECT_SOURCE page = src.bit then some (s.setFld Reg.PG_ERR_INJECT_COUNT page (n - 1))
  else none

/-- The collector's own memory is checked when a latch reaches it (R372). -/
def State.collectorCheck (s : State) : State :=
  match s.takeInject .fltSram with
  | some s => s.latchCore .fltSram 0
  | none => s

/-- Writes a log record (R371, R396, R397): a worn page refuses it, which latches KST.wear and FLT.log. -/
def State.logFault (s : State) (src : Src) (inst cls : Nat) : State :=
  let off := 0x40000 + 16 * s.kst.logHead
  let key := pageOf src.blk inst * 32 + src.bit
  let s := { s with flt := { s.flt with logged := key :: s.flt.logged } }
  if s.kst.worn off 16 then (State.latchCore { s with kst := s.kst.shut off } .kstWear 0).latchCore .fltLog 0
  else
    let warn := s.kst.warns off 16
    let k := s.kst.put off (s.logRecord src inst cls)
    let k := { k with logHead := (s.kst.logHead + 1) % 16384
                      logWraps := if s.kst.logHead = 16383 then wrap 32 (s.kst.logWraps + 1) else s.kst.logWraps }
    let s := State.count { s with kst := k } Reg.FLT_LOG_COUNT
    if warn then s.latchCore .kstWearwarn 0 else s

/-- A source presents its cause (R362-R371): latch, and for class C3 or C4 the first in the winding also the log. -/
def State.latch (s : State) (src : Src) (inst : Nat := 0) : State :=
  let page := pageOf src.blk inst
  let fresh := !(bit (s.sticky page) src.bit) && s.srcEnabled src page
  let c := s.effClass src inst
  let s0 := s.latchCore src inst
  let s1 := if fresh then s0.collectorCheck else s0
  if fresh && decide (3 ≤ c) && !(s1.flt.logged.contains (page * 32 + src.bit)) then s1.logFault src inst c else s1

/-- A lasting cause becomes present (R362). -/
def State.causeOn (s : State) (src : Src) (inst : Nat := 0) : State :=
  let key := pageOf src.blk inst * 32 + src.bit
  let s1 := s.latch src inst
  if s1.flt.present.contains key then s1 else { s1 with flt := { s1.flt with present := key :: s1.flt.present } }

/-- A lasting cause goes (R362). -/
def State.causeOff (s : State) (src : Src) (inst : Nat := 0) : State :=
  { s with flt := { s.flt with present := s.flt.present.filter (· != pageOf src.blk inst * 32 + src.bit) } }

/-- A write or command named an identifier beyond the variant: BAD_ID latches in the page (R5). -/
def State.badId (s : State) (blk inst : Nat) : State := s.latch (.badId blk) inst

/-- A write was clamped (R20). -/
def State.clampHit (s : State) (blk inst : Nat) : State := s.latch (.clamp blk) inst

/-- A keeping store write of a block (R394, R397): none where the endurance limit refuses it. -/
def State.kstWrite (s : State) (off : Nat) (bs : Bytes) : Option State :=
  if s.kst.worn off bs.length then none
  else
    let s1 := { s with kst := s.kst.put off bs }
    some (if s.kst.warns off bs.length then s1.latch .kstWearwarn else s1)

/-- A write that the endurance limit refuses: its region is read-only from then on, and KST.wear latches (R397). -/
def State.wearOut (s : State) (off : Nat) : State := State.latch { s with kst := s.kst.shut off } .kstWear

/-- A read of the keeping store by an internal reader: none where a line of the range has an uncorrectable word
(R398). -/
def State.kstRead (s : State) (off len : Nat) : Option Bytes :=
  if s.kst.bad.any fun l => decide (off < l * 64 + 64) && decide (l * 64 < off + len) then none
  else some (s.kst.mem.readBytes off len)

/-! ### Device memory -/

/-- Usable capacity in bytes (R381). -/
def State.usable (s : State) : Nat := 65536 * s.fld Reg.MEM_USABLE

/-- End of the host-visible region (R37). -/
def State.hostRegionEnd (s : State) : Nat := 268435456 * s.fld Reg.HST_HDM_CARVE_HOST_SIZE

/-- A range of device addresses lies wholly in the device-private region. -/
def State.inPrivate (s : State) (a len : Nat) : Bool :=
  decide (s.hostRegionEnd ≤ a) && decide (a + len ≤ s.usable)

/-- The lines of a range. -/
def linesIn (a len : Nat) : List Nat := (List.range ((a + len + 63) / 64 - a / 64)).map (a / 64 + ·)

/-- The writes that wait for their issue now: a bank in in-order mode issues them in order, and none issues during a frequency change
(R388, R390). -/
def MemSt.stillWaiting (m : MemSt) (now : Nat) (busy : Bool) : List MemWrite :=
  m.waiting.foldl (fun kept w =>
    let bank := Config.lineBank w.line
    let behind := m.inOrder.any (fun e => e.1 == bank) && kept.any fun v => Config.lineBank v.line == bank
    if busy ∨ behind ∨ now < w.at_ + Config.issueDelay w.seq then kept ++ [w] else kept) []

/-- The controllers' queues brought up to now: a bank leaves in-order mode once every write it held on entry has been issued. -/
def MemSt.settle (m : MemSt) (now : Nat) (busy : Bool) : MemSt :=
  let left := m.stillWaiting now busy
  { m with waiting := left
           inOrder := m.inOrder.filter fun e => left.any fun w => Config.lineBank w.line == e.1 && decide (w.seq ≤ e.2) }

/-- A write of a line is accepted. -/
def MemSt.accept (m : MemSt) (now line : Nat) : MemSt :=
  { m with waiting := m.waiting ++ [⟨line, now, m.writes⟩], writes := m.writes + 1 }

/-- A read of a line is accepted: its bank enters in-order mode where a write to the same bank and row waits (R388). -/
def MemSt.readAccepted (m : MemSt) (line : Nat) : MemSt :=
  let bank := Config.lineBank line
  if m.waiting.any (fun w => Config.lineBank w.line == bank && Config.lineRow w.line == Config.lineRow line) &&
      !(m.inOrder.any fun e => e.1 == bank) then
    { m with inOrder := (bank, m.writes) :: m.inOrder, entries := (m.entries + 1) % 2 ^ 32 }
  else m

/-- The controllers accept a read of a range. -/
def State.readsAccepted (s : State) (a len : Nat) : State :=
  { s with mem := (linesIn a len).foldl MemSt.readAccepted (s.mem.settle s.now (s.flag Reg.MEM_STATUS_FREQ_BUSY)) }

/-- The words that link a free buffer into its list (R249): the next free buffer, and its own index XOR 0xA5A5A5A5. -/
def linkWords (b next : Nat) : Bytes := leBytes next 4 ++ leBytes (b ^^^ 0xA5A5A5A5) 4

/-- The words of a buffer of a list that nothing has changed since it was built: in rising order up to the end of the pool. -/
def builtLink (b lim : Nat) : Bytes := linkWords b (if b + 1 < lim then b + 1 else 0xFFFFFFFF)

/-- The buffers of the DRAM pool that a range of device addresses meets (R247). -/
def State.poolBufs (s : State) (a len : Nat) : List Nat :=
  let base := s.fld Reg.BPM_DPOOL_BASE * 65536
  if s.pool.dram.total = 0 ∨ len = 0 then []
  else ((List.range (len / 256 + 2)).map (a / 256 + ·)).filterMap fun l =>
    if l * 256 < a + len ∧ base ≤ l * 256 ∧ l * 256 < base + s.pool.dram.total * 256 then some (196608 + (l * 256 - base) / 256)
    else none

/-- A byte of the DRAM. The first eight bytes of a pool buffer that nothing has touched since its list was built are its link
words (R249). -/
def State.dramByte (s : State) (a : Nat) : Byte :=
  match (s.poolBufs a 1).filter fun b => !(Tab.has s.pool.bufs b) with
  | b :: _ => if a % 256 < 8 then (builtLink b (196608 + s.pool.dram.total)).getD (a % 256) 0 else s.mem.dram.read a
  | [] => s.mem.dram.read a

/-- Bytes of the DRAM. -/
def State.dramBytes (s : State) (a n : Nat) : Bytes :=
  if s.pool.dram.total = 0 then s.mem.dram.readBytes a n else (List.range n).map fun i => s.dramByte (a + i)

/-- The link words of the untouched pool buffers of a range become plain bytes of memory, before something changes there. -/
def State.touchDram (s : State) (a len : Nat) : State :=
  let base := s.fld Reg.BPM_DPOOL_BASE * 65536
  ((s.poolBufs a len).filter fun b => !(Tab.has s.pool.bufs b)).foldl (fun (t : State) b =>
    { t with
        mem := { t.mem with
          dram := t.mem.dram.writeBytes (base + (b - 196608) * 256) (builtLink b (196608 + t.pool.dram.total)) }
        pool := { t.pool with bufs := Tab.set t.pool.bufs b {} } }) s

/-- Stores bytes in the DRAM (R384, R387, R389): a whole line written clears its poison; the chunks written count as zeroed. Reads give
the last write accepted, whenever the controllers issue it (log 130). -/
def State.dramPut (s0 : State) (a : Nat) (bs : Bytes) : State :=
  let s := s0.touchDram a bs.length
  let chunks := (List.range ((a + bs.length) / 1048576 + 1 - a / 1048576)).map (a / 1048576 + ·)
  let m := (linesIn a bs.length).foldl (fun m l => m.accept s.now l) (s.mem.settle s.now (s.flag Reg.MEM_STATUS_FREQ_BUSY))
  { s with mem := { m with
      dram := s.mem.dram.writeBytes a bs
      poison := s.mem.poison.filter fun l => !(decide (a ≤ l * 64) && decide (l * 64 + 64 ≤ a + bs.length))
      zeroed := if s.mem.zeroing then
                  s.mem.zeroed ++ chunks.filter fun c => decide (s.mem.zeroNext ≤ c) && !(s.mem.zeroed.contains c)
                else s.mem.zeroed } }

/-- A line of the range is poisoned (R384). -/
def State.poisoned (s : State) (a len : Nat) : Bool :=
  s.mem.poison.any fun l => decide (a < l * 64 + 64) && decide (l * 64 < a + len)

/-- A power domain is ON (Table 20.6). -/
def State.domOn (s : State) (d : Nat) : Bool := (Tab.get {} s.pwr.domains d).state == 2

/-- The range is usable DRAM and every DRAM group is ON (R35, R381, R406). -/
def State.dramOk (s : State) (a len : Nat) : Bool :=
  decide (a + len ≤ s.usable) && s.flag Reg.MEM_STATUS_READY &&
  (List.range 6).all fun g => !(bit (s.fld Reg.MEM_STATUS_GROUPS) g) || s.domOn (36 + g)

/-- Back-invalidate is active: decoders are committed, and every one of them as HDM-DB (R31, R38). -/
def State.hdmDb (s : State) : Bool := !s.hst.hdm.isEmpty && s.hst.hdm.all (·.2.bi)

/-- The committed decoder that exposes a device address of the host-visible region, if one does (R31, R37). -/
def State.decoderOf (s : State) (a : Nat) : Option HdmDec :=
  if s.hostRegionEnd ≤ a then none
  else (s.hst.hdm.find? fun e =>
    decide (268435456 * e.2.first ≤ a) && decide (a < 268435456 * (e.2.first + e.2.size))).map (·.2)

/-- The host reaches the BARs: W7 has come and the link is in L0 (R49, R50). -/
def State.hostReaches (s : State) : Bool := s.wound && s.hst.linkUp

/-- CXL.cache traffic flows: the link is in L0, and no IDE failure waits for new keys (R48, R50). -/
def State.cacheFlows (s : State) : Bool := s.hst.linkUp && !s.hst.ideInsecure

/-- Remembers a request to the host (R38-R42). -/
def State.request (s : State) (q : HostReq) : State := { s with hst := { s.hst with lastReq := some q } }

/-- The pieces of a write by 64-byte line. -/
def byLine (a : Nat) (bs : Bytes) (fuel : Nat) : List BiWrite :=
  match fuel with
  | 0 => []
  | n + 1 =>
    if bs = [] then []
    else
      let k := 64 - a % 64
      ⟨a / 64, a % 64, bs.take k⟩ :: byLine (a + k) (bs.drop k) n

/-- A device engine writes part of one line (R38). In the host-visible region under HDM-DB it first waits for the response to its
back-invalidate snoop. Under HDM-D it goes to the host as a CXL.cache request, and is lost while that traffic does not flow. -/
def State.linePut (s : State) (w : BiWrite) : State :=
  let a := w.line * 64 + w.offset
  match s.decoderOf a with
  | some d =>
    if d.bi then { s with hst := { s.hst with biWait := s.hst.biWait ++ [w] } }
    else if !s.cacheFlows then s
    else State.dramPut (s.request ⟨if w.data.length = 64 then .itoMWr else .rdOwn, w.line * 64, 64, none, true⟩) a w.data
  | none => s.dramPut a w.data

/-- A device engine writes DRAM (R38): line by line where HDM decoders expose the addresses, else at once. -/
def State.devWrite (s : State) (a : Nat) (bs : Bytes) : State :=
  if !s.hst.hdm.isEmpty && decide (a < s.hostRegionEnd) then (byLine a bs (bs.length + 1)).foldl State.linePut s
  else s.dramPut a bs

/-- The lines of a range that a decoder in HDM-D exposes: an engine reads them over CXL.cache (R38). -/
def State.hostBiased (s : State) (a len : Nat) : List Nat :=
  if s.hst.hdm.isEmpty ∨ s.hostRegionEnd ≤ a then []
  else ((List.range (len / 64 + 2)).map (a / 64 + ·)).filter fun l =>
    decide (l * 64 < a + len) && (match s.decoderOf (l * 64) with
      | some d => !d.bi
      | none => false)

/-- An engine's read reaches the controllers (R388), with its CXL.cache requests under HDM-D (R38); none of those while that traffic does
not flow. -/
def State.biasRead (s0 : State) (a len : Nat) : State :=
  let s := s0.readsAccepted a len
  if !s.cacheFlows then s
  else (s.hostBiased a len).foldl (fun t l => t.request ⟨.rdShared, l * 64, 64, none, true⟩) s

/-! ### Host memory -/

/-- The tenant that owns a ring's doorbell group, if the group is assigned (R34). -/
def State.ringTenant (s : State) (r : Nat) : Option Nat :=
  if s.flag Reg.HST_DBGRP_OWNER_VALID (r / 32) then some (s.fld Reg.HST_DBGRP_OWNER_TENANT (r / 32)) else none

/-- The PASID that a request for a tenant carries (R42). -/
def State.pasidOf (s : State) (t : Option Nat) : Option Nat :=
  match t with
  | some t => if s.flag Reg.HST_TENANT_PASID_EN t then some (s.fld Reg.HST_TENANT_PASID t) else none
  | none => none

/-- A request to host memory on behalf of a tenant, remembered with its PASID (R42). -/
def State.hostReq (s : State) (k : ReqKind) (a len : Nat) (t : Option Nat) : State := s.request ⟨k, a, len, s.pasidOf t, false⟩

/-- A write to host memory by a request of kind `k`. -/
def State.hostPut (s : State) (k : ReqKind) (a : Nat) (bs : Bytes) (t : Option Nat) : State :=
  let s := s.hostReq k a bs.length t
  { s with hst := { s.hst with mem := s.hst.mem.writeBytes a bs } }

/-- A posted write to host memory. -/
def State.hostWrite (s : State) (a : Nat) (bs : Bytes) (t : Option Nat) : State := s.hostPut .memWrite a bs t

/-- A write to a space: device when `dev`, else host. -/
def State.spaceWrite (s : State) (dev : Bool) (a : Nat) (bs : Bytes) (t : Option Nat) : State :=
  if dev then s.devWrite a bs else s.hostWrite a bs t

/-! ### The ring line cache (R39-R41) -/

/-- What a line holds of `n` bytes at an address: both halves, or one. -/
def CacheLine.held (c : CacheLine) (a n : Nat) : Option Bytes :=
  if n = 64 then
    match c.lo, c.hi with
    | some x, some y => some (x ++ y)
    | _, _ => none
  else if a / 32 % 2 = 0 then c.lo else c.hi

/-- The line with `bs` at an address. -/
def CacheLine.fill (c : CacheLine) (a : Nat) (bs : Bytes) : CacheLine :=
  if bs.length = 64 then { c with lo := some (bs.take 32), hi := some (bs.drop 32) }
  else if a / 32 % 2 = 0 then { c with lo := some bs } else { c with hi := some bs }

/-- A dirty line is written back to host memory. -/
def State.writeBack (s : State) (line : Nat) (c : CacheLine) : State :=
  if !c.dirty then s
  else
    let s1 := match c.lo with
      | some bs => s.hostPut .writeBack (line * 64) bs none
      | none => s
    match c.hi with
    | some bs => s1.hostPut .writeBack (line * 64 + 32) bs none
    | none => s1

/-- The line leaves the cache; a dirty one is written back. -/
def State.dropLine (s : State) (line : Nat) : State :=
  match s.hst.ccache.find? (·.1 == line) with
  | some e =>
    let s1 := s.writeBack line e.2
    { s1 with hst := { s1.hst with ccache := Tab.del s1.hst.ccache line } }
  | none => s

/-- At 4,096 lines one goes to make room, with CleanEvict when it is clean; which one is open. -/
def State.cacheRoom (s : State) : State :=
  if s.hst.ccache.length < 4096 then s
  else match (s.hst.ccache.drop ((Config.freeWord s.freeCtr).toNat % 4096)).head? with
    | some e =>
      let s1 := State.dropLine { s with freeCtr := s.freeCtr + 1 } e.1
      if e.2.dirty then s1 else s1.hostReq .cleanEvict (e.1 * 64) 64 none
    | none => s

/-- `bs` is put into the cached line at an address; a line that is not held, or is to be owned, is taken by a request of kind `k`. -/
def State.cachePut (s : State) (k : ReqKind) (a : Nat) (bs : Bytes) (dirty : Bool) (t : Option Nat) : State :=
  let line := a / 64
  let s0 := if Tab.has s.hst.ccache line then s else s.cacheRoom
  let s1 := if Tab.has s.hst.ccache line && k != .rdOwn then s0 else s0.hostReq k (line * 64) 64 t
  let c : CacheLine := Tab.get {} s1.hst.ccache line
  { s1 with hst := { s1.hst with ccache := Tab.set s1.hst.ccache line { c.fill a bs with dirty := dirty } } }

/-! ### Rings -/

def State.ring (s : State) (r : Nat) : Ring := Tab.get {} s.rng.rings r

def State.setRing (s : State) (r : Nat) (x : Ring) : State :=
  { s with rng := { s.rng with rings := Tab.set s.rng.rings r x } }

/-- Ring size in items (R52). -/
def Ring.size (x : Ring) : Nat := 2 ^ x.sizeLog2

/-- Item size in bytes (Table 3.1). -/
def Ring.itemSize (x : Ring) : Nat := if x.cls = 1 then 64 else 32

/-- Address of the item with index `i` (R52). -/
def Ring.itemAddr (x : Ring) (i : Nat) : Nat := x.base + i % x.size * x.itemSize

/-- The phase bit of the item with index `i` (R54). -/
def Ring.phase (x : Ring) (i : Nat) : Nat := 1 - i / x.size % 2

/-- Classes whose items the device produces (Table 3.1). -/
def Ring.deviceProduced (x : Ring) : Bool := x.cls == 2 || x.cls == 4 || x.cls == 5 || x.cls == 6

/-- Makes room for `k` items by overwriting the oldest whole packets (R58). -/
def Ring.reserve (x : Ring) (k : Nat) : List Nat → Ring
  | [] => x
  | p :: ps =>
    if x.size < x.count + k then
      Ring.reserve { x with ci := wrap 32 (x.ci + p), count := x.count - p, lost := wrap 64 (x.lost + p), devPkts := ps } k ps
    else x

/-- The COHERENT flag acts: modes 1 to 3, host memory, HST_CCACHE_CTL.ENABLE (R41). -/
def State.coherent (s : State) (x : Ring) : Bool :=
  x.coherent && !x.memspace && s.flag Reg.HST_CCACHE_CTL_ENABLE && decide (1 ≤ s.fld Reg.HST_LINK_STATUS_MODE) &&
  decide (s.fld Reg.HST_LINK_STATUS_MODE ≤ 3)

/-- A ring that takes no record now: disabled, halted, in host memory with the link down (R59, R50), or coherent while CXL.cache
traffic is dropped (R48). -/
def State.ringBlocked (s : State) (x : Ring) : Bool :=
  !x.enable || x.halted || (!x.memspace && !s.hst.linkUp) || (s.coherent x && s.hst.ideInsecure)

/-- Counts a record of `k` items that the device cannot write as produced and lost (R59). -/
def Ring.loseRecord (x : Ring) (k : Nat) : Ring :=
  { x with produced := wrap 64 (x.produced + k), lost := wrap 64 (x.lost + k) }

/-- A record item of a coherent ring that is not a whole line: the line is taken with RdOwn, merged, and written back at once, so
that it is clean again before the phase bit is visible (R40). -/
def State.mergeItem (s : State) (a : Nat) (bs : Bytes) (t : Option Nat) : State :=
  let s1 := s.cachePut .rdOwn a bs true t
  let c : CacheLine := Tab.get {} s1.hst.ccache (a / 64)
  let s2 := s1.hostPut .writeBack a bs t
  { s2 with hst := { s2.hst with ccache := Tab.set s2.hst.ccache (a / 64) { c with dirty := false } } }

/-- A whole line of a coherent ring: written with ItoMWr, and not held afterwards (R40). -/
def State.wholeLine (s : State) (a : Nat) (bs : Bytes) (t : Option Nat) : State :=
  let s1 : State := { s with hst := { s.hst with ccache := Tab.del s.hst.ccache (a / 64) } }
  s1.hostPut .itoMWr a bs t

/-- Writes items of a coherent ring to their places: two items of one line as a whole line, else each merged (R40). -/
def State.putCoherent (s : State) (r : Nat) (x : Ring) : Nat → List (Nat → Bytes) → State
  | _, [] => s
  | i, [item] => s.mergeItem (x.itemAddr i) (item (x.phase i)) (s.ringTenant r)
  | i, item :: next :: rest =>
    let j := wrap 32 (i + 1)
    if x.itemAddr i % 64 = 0 then
      (s.wholeLine (x.itemAddr i) (item (x.phase i) ++ next (x.phase j)) (s.ringTenant r)).putCoherent r x (wrap 32 (i + 2)) rest
    else (s.mergeItem (x.itemAddr i) (item (x.phase i)) (s.ringTenant r)).putCoherent r x j (next :: rest)

/-- Writes items to their places, each built for its phase bit. -/
def State.putItems (s : State) (r : Nat) (x : Ring) : Nat → List (Nat → Bytes) → State
  | _, [] => s
  | i, item :: rest =>
    let s := s.spaceWrite x.memspace (x.itemAddr i) (item (x.phase i)) (s.ringTenant r)
    State.putItems s r x (wrap 32 (i + 1)) rest

/-- Writes one packet of a device-produced ring of class `cls` (R54, R58, R59). A ring number that names no ring of
that class takes nothing and counts nothing (log 13). -/
def State.recordAt (s : State) (r cls : Nat) (items : List (Nat → Bytes)) : State :=
  let x := s.ring r
  let k := items.length
  if s.variant.rings ≤ r ∨ x.cls ≠ cls then s
  else if s.ringBlocked x then s.setRing r (x.loseRecord k)
  else
    let y := x.reserve k x.devPkts
    let s := if s.coherent x then s.putCoherent r y y.pi items else s.putItems r y y.pi items
    s.setRing r { y with pi := wrap 32 (y.pi + k), count := y.count + k,
                         produced := wrap 64 (y.produced + k), devPkts := y.devPkts ++ [k] }

/-- The item of an event (Table 3.8), but for its phase bit. -/
def State.eventItem (s : State) (code blk source : Nat) (args : List Nat) (ph : Nat) : Bytes :=
  leBytes code 2 ++ [BitVec.ofNat 8 blk, BitVec.ofNat 8 ph] ++ leBytes source 4 ++ leBytes s.frameCount 4 ++
    ((List.range 5).flatMap fun i => leBytes (args.getD i 0) 4)

/-- An event whose EN is 0 counts as produced and lost in the event ring named (R59). -/
def State.loseEvent (s : State) (r : Nat) : State :=
  if s.variant.rings ≤ r ∨ (s.ring r).cls ≠ 4 then s else s.setRing r ((s.ring r).loseRecord 1)

/-- The ring's indices, counts and packets after a duplicate index mismatch (R67). -/
def Ring.halt (x : Ring) : Ring :=
  { x with lost := wrap 64 (x.lost + x.count), count := 0, pend := 0, pi := 0, ci := 0, unread := 0, halted := true, devPkts := [] }

/-- A record for a ring: its duplicate indices are compared on the access, and a mismatch resets the ring, whose event is a record
of its own; the record then finds the ring halted (R67). `fuel` bounds the mismatches. -/
def State.recordN (s : State) (r cls : Nat) (items : List (Nat → Bytes)) : Nat → State
  | 0 => s.recordAt r cls items
  | n + 1 =>
    let x := s.ring r
    if s.variant.rings ≤ r ∨ x.cls ≠ cls ∨ s.ringBlocked x then s.recordAt r cls items
    else match s.takeInject .rngPtr (r / 32) with
      | none => s.recordAt r cls items
      | some t =>
        let t1 := t.setRing r x.halt
        let t2 := if x.evqEn then t1.recordN x.evqRing 4 [t1.eventItem 0x0010 Blk.rng r [x.count]] n else t1.loseEvent x.evqRing
        (t2.latch .rngPtr (r / 32)).recordAt r cls items

/-- One packet of a device-produced ring of class `cls`. -/
def State.record (s : State) (r cls : Nat) (items : List (Nat → Bytes)) : State := s.recordN r cls items 256

/-- An event to a ring that EN gates (R59, R71): with EN = 0 the record counts as produced and lost. -/
def State.eventTo (s : State) (r : Nat) (en : Bool) (code blk source : Nat) (args : List Nat) : State :=
  if en then s.record r 4 [s.eventItem code blk source args] else s.loseEvent r

/-- An event through a block's EVQ register. -/
def State.event (s : State) (ring en : Fld) (code blk source : Nat) (args : List Nat) : State :=
  s.eventTo (s.fld ring) (s.flag en) code blk source args

/-- An event about a ring (R71), to the ring that its RNG_EVQ names. -/
def State.ringEvent (s : State) (r code : Nat) (args : List Nat) : State :=
  s.eventTo (s.ring r).evqRing (s.ring r).evqEn code Blk.rng r args

/-- The bitstream ring whose RNG_EVQ carries a stream's events: the enabled one that names it, else the lowest-numbered
one (R105). -/
def State.streamRing (s : State) (st : Nat) : Option Nat :=
  let rs := s.rng.rings.filter fun e => e.2.cls == 3 && e.2.link == st
  match rs.find? (·.2.enable) with
  | some e => some e.1
  | none => rs.head?.map (·.1)

/-- A stream event (R105, R127). -/
def State.streamEvent (s : State) (st blk code : Nat) (args : List Nat) : State :=
  match s.streamRing st with
  | some r => s.eventTo (s.ring r).evqRing (s.ring r).evqEn code blk st args
  | none => s

/-! ### Jobs and completions -/

/-- The number of a job whose command entry has index `i` of ring `r` (R69). -/
def jobId (r i : Nat) : Nat := addr64 i r

/-- The number that a newly accepted command takes: one that no job in flight has, since a ring enabled again counts its indices
from 0 while jobs accepted before run on (R66, R69). -/
def State.newJob (s : State) (r i : Nat) : Nat :=
  (((List.range (s.rng.jobs.length + 1)).map fun k => jobId r i + 2 ^ 48 * k).find? fun j => !(Tab.has s.rng.jobs j)).getD
    (jobId r i)

/-- The job in flight that was accepted last from index `i` of ring `r`. -/
def State.jobAt (s : State) (r i : Nat) : Option Nat :=
  (s.rng.jobs.foldl (fun (b : Option (Nat × Job)) e =>
    if e.2.ring = r ∧ e.2.index = i then
      match b with
      | some q => if q.2.seq < e.2.seq then some e else b
      | none => some e
    else b) none).map (·.1)

def State.job (s : State) (j : Nat) : Job := Tab.get {} s.rng.jobs j

/-- Status codes of Table 3.7. -/
abbrev St.ok : Nat := 0
abbrev St.badOpcode : Nat := 1
abbrev St.badArg : Nat := 2
abbrev St.noResource : Nat := 3
abbrev St.state : Nat := 4
abbrev St.timeout : Nat := 5
abbrev St.faulted : Nat := 6
abbrev St.version : Nat := 7

/-- The completion record (Table 3.5). -/
def completionBytes (tag status r0 r1 r2 frame r3 ring index : Nat) (phase : Nat) : Bytes :=
  leBytes (tag % 1024) 2 ++ [BitVec.ofNat 8 status, BitVec.ofNat 8 phase] ++ leBytes r0 4 ++ leBytes r1 4 ++
  leBytes r2 4 ++ leBytes frame 4 ++ leBytes r3 4 ++ leBytes (ring % 8192) 2 ++ [0, 0] ++ leBytes index 4

/-- Writes the record of a command to its ring's completion ring (R69). -/
def State.completion (s : State) (ring index tag abi status r0 r1 r2 r3 : Nat) : State :=
  s.record (s.ring ring).link 2
    [completionBytes tag status r0 r1 r2 (if abi = 2 then s.frameCount else 0) r3 ring index]

/-- Ends a job (R69): its record is written unless it is SILENT and ends OK, and it is no longer in flight. -/
def State.finish (s : State) (j status : Nat) (r0 r1 r2 r3 : Nat := 0) : State :=
  let x := s.job j
  if Tab.has s.rng.jobs j then
    let s1 := { s with rng := { s.rng with jobs := Tab.del s.rng.jobs j } }
    if x.silent && status == St.ok then s1 else s1.completion x.ring x.index x.tag x.abi status r0 r1 r2 r3
  else s

/-- A job of the opcode that is accepted and has not begun. -/
def State.ready (s : State) (j op : Nat) : Bool :=
  Tab.has s.rng.jobs j && (s.job j).opcode == op && !(s.job j).started

/-- Marks a job as begun. -/
def State.start (s : State) (j : Nat) (work : Nat := 0) : State :=
  { s with rng := { s.rng with jobs := Tab.set s.rng.jobs j { s.job j with started := true, work := work } } }

/-- Jobs in flight (R12). -/
def State.jobCount (s : State) : Nat := s.rng.jobs.length

/-- Pictures in flight (R12, R439): decoding, or held for output. -/
def State.pictureCount (s : State) : Nat :=
  (s.dec.pics.filter fun e => (decide (0 < e.2.dispatched) && !e.2.decoded) || e.2.held).length

end Sys2Proof.Machine
end

