-- ==== Sys2Proof/Machine/FaultOps.lean ====
section
/-! DEFINITION. Commands on the fault registers, FAULT_N, test unlock and the test access port
(18_faults_and_self_test.md). -/

namespace Sys2Proof.Machine

/-- A write to a page that is reserved or that the variant lacks: ignored, and RSV_WRITE latches in page 0 (R4, R422);
the MSI-X pages latch nothing (R32). -/
def State.absentPage (s : State) (page : Nat) : State :=
  if 16368 ≤ page then s else s.latch (.rsvWrite Blk.sys) 0

/-- The source with bit `b` of a page's block. -/
def srcAt (blk b : Nat) : Src := ⟨blk, b, (Src.fixedClass blk b).getD 0⟩

/-- The pulse ends, at least 10 µs after the last latch that qualified, and the pin follows HOLD, or stays asserted after a C4
(R370). -/
def execFaultNPulseEnd (s : State) : Out :=
  s.run fun s => if s.now < s.flt.pulseAt + 10 * Clk.us then s else { s with flt := { s.flt with pulse := false } }

/-- Sources whose lasting cause is still present latch again in the next cycle (R366). -/
def State.relatch (s : State) (blk inst mask : Nat) : List Nat → State
  | [] => s
  | key :: ks =>
    let page := pageOf blk inst
    let s := if key / 32 = page ∧ bit mask (key % 32) then s.latch (srcAt blk (key % 32)) inst else s
    State.relatch s blk inst mask ks

/-- A W1C write of PG_ERR_STICKY: C4 bits stay (R367); a bit whose cause is still present latches again (R366). -/
def State.stickyW1c (s : State) (blk inst v : Nat) : State :=
  let page := pageOf blk inst
  let clr := v &&& (0xFFFFFFFF ^^^ Src.c4Mask blk)
  let s1 := s.setFld Reg.PG_ERR_STICKY page (s.sticky page &&& (0xFFFFFFFF ^^^ clr))
  s1.relatch blk inst clr s.flt.present

/-- Any write to the FLT page but one of FLT_TEST_UNLOCK disarms test unlock (Table 18.4 step 2a). -/
def State.disarm (s : State) (blk : Nat) : State :=
  if blk = Blk.flt then { s with flt := { s.flt with armed := false } } else s

/-- A regulator runs (RGL_STATUS.STATE). -/
def State.anyRegulator (s : State) : Bool :=
  (List.range s.variant.regulators).any fun g => s.fld Reg.RGL_STATUS_STATE g == 1

/-- A register write can come: the host's once W7 has come and the link is in L0 (R49), or a regulator's (R331). -/
def State.pagesReached (s : State) : Bool := s.hostReaches || s.anyRegulator

/-- The registers of a page are written (R372, R421): an inversion armed for their parity is met by the write, and RegParity
latches after what the write does, so that a write of 1 to its sticky bit leaves it set (R8). -/
def State.underParity (s : State) (blk inst : Nat) (f : State → State) : State :=
  match s.takeInject (.regParity blk) inst with
  | some t => (f t).latch (.regParity blk) inst
  | none => f s

/-- A register write of an instance of a block type (R4, R422): to an instance that the variant lacks it is ignored and RSV_WRITE
latches in page 0; where it sets reserved bits (`rsv` not 0) RSV_WRITE latches in the page. -/
def State.onInst (s : State) (blk inst rsv : Nat) (f : State → State) : State :=
  if s.hasPage blk inst then
    (s.disarm blk).underParity blk inst fun t => f (if rsv = 0 then t else t.latch (.rsvWrite blk) inst)
  else s.absentPage (pageOf blk inst)

/-- The bits of a written value that no field of its register takes. -/
def rsvBits (v : Word) (mask : Nat) : Nat := v.toNat &&& (0xFFFFFFFF ^^^ mask)

/-- A register write command, which comes from the host or from a regulator. -/
def State.regCmd (s : State) (blk inst rsv : Nat) (f : State → State) : State :=
  if s.pagesReached then s.onInst blk inst rsv f else s

/-- A register write command that only the host may send (R332). -/
def State.hostCmd (s : State) (blk inst rsv : Nat) (f : State → State) : State :=
  if s.hostReaches then s.onInst blk inst rsv f else s

/-- A register write command to a page, as its block and instance take it; or to one that is absent. -/
def State.onPage (s : State) (page rsv : Nat) (f : State → Nat → Nat → State) : State :=
  if !s.pagesReached then s
  else match pageOwner s.variant page with
    | some (blk, inst) => s.onInst blk inst rsv fun t => f t blk inst
    | none => s.absentPage page

/-- PG_ERR_STICKY write (R366, R367). -/
def execPgErrStickyW1c (page : Nat) (v : Word) (s : State) : Out :=
  s.run fun s => s.onPage page 0 fun s blk inst => s.stickyW1c blk inst v.toNat

/-- Every source of a page that is enabled now, was not before, and whose sticky bit is set counts as a latch (R365). -/
def State.enableLatches (s : State) (blk inst old new : Nat) : List Nat → State
  | [] => s
  | b :: bs =>
    let page := pageOf blk inst
    let s :=
      if bit new b && !(bit old b) && bit (s.sticky page) b then
        let c := s.effClass (srcAt blk b) inst
        let s1 := s.collect c
        if decide (3 ≤ c) && !(s1.flt.logged.contains (page * 32 + b)) then s1.logFault (srcAt blk b) inst c else s1
      else s
    State.enableLatches s blk inst old new bs

/-- PG_ERR_ENABLE write (R365): C4 bits read 1 and ignore the write. -/
def State.errEnable (s : State) (blk inst v : Nat) : State :=
  let page := pageOf blk inst
  let old := s.fld Reg.PG_ERR_ENABLE page ||| Src.c4Mask blk
  let new := v ||| Src.c4Mask blk
  (s.setFld Reg.PG_ERR_ENABLE page new).enableLatches blk inst old new (List.range 32)

/-- PG_ERR_ENABLE write. -/
def execPgErrEnableWrite (page : Nat) (v : Word) (s : State) : Out :=
  s.run fun s => s.onPage page 0 fun s blk inst => s.errEnable blk inst v.toNat

/-- The privileged checkers that are sources of a page (R373). -/
def Src.privileged (x : Src) : Bool := x == .kstEcc || x == .kstUe || x == .fusCapcmp

/-- PG_ERR_INJECT write (R372, R373): COUNT ≠ 0 arms the named checker, COUNT = 0 disarms and stores the other fields (R7); a source
without a checker is ignored; a privileged checker needs the test unlock, else FLT.inject latches. -/
def State.errInject (s : State) (blk inst v : Nat) : State :=
  let page := pageOf blk inst
  let src := srcAt blk (bits v 12 8)
  let put := fun (s : State) =>
    ((s.setFld Reg.PG_ERR_INJECT_COUNT page (bits v 7 0)).setFld Reg.PG_ERR_INJECT_SOURCE page (bits v 12 8)).setFld
      Reg.PG_ERR_INJECT_DOUBLE page (bits v 13 13)
  if bits v 7 0 = 0 then put s
  else if !src.hasChecker then s
  else if src.privileged && !s.flt.unlocked then s.latch .fltInject
  else put s

/-- PG_ERR_INJECT write. -/
def execPgErrInjectWrite (page : Nat) (v : Word) (s : State) : Out :=
  s.run fun s => s.onPage page (v.toNat / 2 ^ 14) fun s blk inst => s.errInject blk inst v.toNat

/-- A checker takes an armed inversion and its source latches (R372). -/
def State.check (s : State) (src : Src) (inst : Nat := 0) : State :=
  match s.takeInject src inst with
  | some s => s.latch src inst
  | none => s

/-- What the armed inversions make of one check of an error correction whose corrected and uncorrectable errors are two
sources of a page: one bit gives a corrected error, two bits an uncorrectable one (R372). -/
def State.eccCheck (s : State) (ce ue : Src) : Ecc × State :=
  let double := s.flag Reg.PG_ERR_INJECT_DOUBLE (pageOf ce.blk 0)
  match s.takeInject ce with
  | some t => (if double then .uncorrectable else .corrected, t)
  | none =>
    match s.takeInject ue with
    | some t => (if double then .uncorrectable else .corrected, t)
    | none => (.clean, s)

/-- Clears the device key, the key-ladder outputs and every IDE key: an IDE stream in use is insecure (Table 18.4 step 2, R375). -/
def State.clearKeys (s : State) : State :=
  { s with hst := { s.hst with keysPresent := false, keysCleared := true
                               ideInsecure := s.hst.ideInsecure || s.flag Reg.HST_LINK_STATUS_IDE_ACTIVE } }

/-- A write of FLT_TEST_UNLOCK.KEY (Table 18.4): steps 1, 1a, 2 and 2a. -/
def State.unlockKey (s : State) (key : Nat) : State :=
  if !s.flt.testHeld then s.latch .fltInject
  else if s.flt.armed then
    let inTime := decide (s.now ≤ s.flt.armedAt + 100 * Clk.us)
    if key = 0x81A8 ∧ inTime then
      let s1 := s.clearKeys.setFld Reg.HST_LINK_STATUS_IDE_ACTIVE 0 0
      { s1 with flt := { s1.flt with armed := false, unlocked := true } }
    else { s with flt := { s.flt with armed := false } }
  else if key = 0x7E57 then { s with flt := { s.flt with armed := true, armedAt := s.now } }
  else s

/-- A write of FLT_TEST_UNLOCK. -/
def State.unlockWrite (s : State) (v : Nat) : State :=
  if !s.pagesReached then s
  else s.underParity Blk.flt 0 fun t => (if v / 2 ^ 16 = 0 then t else t.latch (.rsvWrite Blk.flt)).unlockKey (bits v 15 0)

/-- Key 1 (Table 18.4 step 1). -/
def execTestUnlockKey1 (v : Word) (s : State) : Out := s.run fun s => s.unlockWrite v.toNat

/-- Key 2 (Table 18.4 steps 2 and 3). -/
def execTestUnlockKey2 (v : Word) (s : State) : Out := s.run fun s => s.unlockWrite v.toNat

/-- 100 µs pass after arming (Table 18.4 step 2a). -/
def execTestUnlockArmTimeout (s : State) : Out :=
  s.run fun s => { s with flt := { s.flt with armed := false } }

/-- The instruction that a code puts in force (R376, R432): codes 0x80 to 0xFE act only while UNLOCKED = 1 and are BYPASS
(0xFF) otherwise; every code Table 22.6 does not list is BYPASS. -/
def jtagActs (unlocked : Bool) (code : Nat) : Nat :=
  let c := code % 256
  if c ≤ 4 then c else if decide (0x80 ≤ c) && decide (c ≤ 0xFE) && unlocked then c else 0xFF

/-- What IDCODE reads (22_electrical_and_package.md, below Table 22.6). -/
def idcode (v : Variant) : Nat := v.pick 0x1064856B 0x1062456B

/-- What the data register of an instruction captures: the IDCODE, else 0 (BYPASS as IEEE 1149.1 states; the pins of the boundary
register are outside the model, log 50). -/
def jtagCapture (v : Variant) (instr : Nat) : Nat := if instr = 2 then idcode v else 0

/-- The instruction in force and what its data register captures. -/
def State.jtagSet (s : State) (instr : Nat) : State :=
  { s with flt := { s.flt with jtag := instr, jtagData := jtagCapture s.variant instr } }

/-- An IEEE 1149.1 instruction. -/
def execJtagInstruction (code : Nat) (s : State) : Out := .next (s.jtagSet (jtagActs s.flt.unlocked code))

end Sys2Proof.Machine
end

