-- ==== Sys2Proof/Machine/Memory.lean ====
section
/-! DEFINITION. Device memory and the keeping store (19_memory_and_keeping_store.md): errors found on reads, patrol scrub,
zeroing, frequency points, the error log, and keeping store transfers. -/

namespace Sys2Proof.Machine

/-! ### Errors of the DRAM (R382-R385) -/

/-- The channels in use (R381). -/
def State.channelsInUse (s : State) : List Nat :=
  (List.range s.variant.dramChannels).filter fun c => bit (s.fld Reg.MEM_STATUS_GROUPS) (c / 4)

/-- The channel of a line. How addresses map to channels is internal (19_memory_and_keeping_store.md): a free choice among
the channels in use. -/
def State.lineChannel (s : State) (line : Nat) : Nat :=
  let cs := s.channelsInUse
  cs.getD (Config.lineChannel line % max 1 cs.length) 0

/-- Writes one MEM_ERRLOG entry (R385): KIND 0 read, 1 merge, 2 scrub. -/
def State.errLog (s : State) (line channel port kind : Nat) : State :=
  let h := s.fld Reg.MEM_ERRLOG_CTL_HEAD
  let n := s.fld Reg.MEM_ERRLOG_CTL_VALID
  let s := { s with mem := { s.mem with log := Tab.set s.mem.log h ⟨line * 64, channel, port, kind, s.frameCount⟩ } }
  let s := s.setFld Reg.MEM_ERRLOG_CTL_HEAD 0 (h + 1)
  if n < 16 then s.setFld Reg.MEM_ERRLOG_CTL_VALID 0 (n + 1) else s.countSat Reg.MEM_ERRLOG_CTL_LOST

/-- What the ECC answers for a line: a poisoned line is uncorrectable (R384); a line of a chunk not yet zeroed is not
read at all (R389). -/
def State.eccOf (s : State) (line : Nat) (found : Ecc) : Ecc :=
  if s.mem.poison.contains line then .uncorrectable
  else if s.mem.zeroing && decide (s.mem.zeroNext ≤ line / 16384) && !(s.mem.zeroed.contains (line / 16384)) then .clean
  else found

/-- A corrected error on a channel (R383). -/
def State.memCorrected (s : State) (channel : Nat) : State := (s.count Reg.MEM_CE_COUNT channel).latch .memCe

/-- An uncorrectable error (R384): one log entry and MEM.ue. -/
def State.memUncorrectable (s : State) (line channel port kind : Nat) : State :=
  (s.errLog line channel port kind).latch .memUe

/-- What a read of a line finds: the line's own state, or an inversion armed for the DRAM's checker (R372). A line that is
not read at all takes no check. -/
def State.eccFound (s : State) (line : Nat) (found : Ecc) : Ecc × State :=
  match s.eccOf line found with
  | .clean => if s.eccOf line .corrected = .clean then (.clean, s) else s.eccCheck .memCe .memUe
  | e => (e, s)

/-- A requester reads a line: the state, and whether the data came back good. -/
def State.readLine (s0 : State) (line port kind : Nat) (found : Ecc) : Bool × State :=
  let (e, s) := ((s0.readsAccepted (line * 64) 64).check .memSram).eccFound line found
  match e with
  | .clean => (true, s)
  | .corrected => (true, s.memCorrected (s.lineChannel line))
  | .uncorrectable => (false, s.memUncorrectable line (s.lineChannel line) port kind)

/-- Every line of a range read by an engine through a port; lines that hold poison answer an error response (R384), and so do lines
in host bias while CXL.cache does not flow (R38, R48, log 122). An inversion armed for the checker meets the first line (log 54). -/
def State.engineRead (s : State) (a len port : Nat) : Option Bytes × State :=
  if len = 0 then (some [], s)
  else if !s.dramOk a len ∨ (s.hostBiased a len ≠ [] ∧ !s.cacheFlows) then (none, s)
  else
    let s := s.biasRead a len
    let bad := s.mem.poison.filter fun l => decide (a < l * 64 + 64) && decide (l * 64 < a + len)
    let s1 := bad.foldl (fun s l => s.memUncorrectable l (s.lineChannel l) port 0) s
    if bad = [] then
      let (good, s2) := s1.readLine (a / 64) port 0 .clean
      (if good then some (s.dramBytes a len) else none, s2)
    else (none, s1)

/-- A write of part of a line whose read finds an uncorrectable error poisons the merged line (R384). -/
def State.mergeWrite (s : State) (a : Nat) (bs : Bytes) (port : Nat) (found : Ecc) : State :=
  let line := a / 64
  if a % 64 = 0 ∧ bs.length = 64 then s.dramPut a bs
  else
    let (ok, s1) := s.readLine line port 1 found
    let s2 := s1.dramPut a bs
    if ok ∨ s2.mem.poison.contains line then s2 else { s2 with mem := { s2.mem with poison := line :: s2.mem.poison } }

/-- Patrol scrub of one line (R386): HOURS 0 turns it off; it corrects under R383, logs an uncorrectable line with
KIND 2. -/
def State.patrol (s : State) (line channel : Nat) (found : Ecc) : State :=
  if s.fld Reg.MEM_SCRUB_HOURS = 0 ∨ !s.dramOk (line * 64) 64 then s
  else
    let (e, t) := s.eccFound line found
    match e with
    | .clean => t
    | .corrected => t.memCorrected channel
    | .uncorrectable => t.memUncorrectable line channel 15 2

/-- PATROL_SCRUB. -/
def execPatrolScrub (line channel : Nat) (ecc : Ecc) (s : State) : Out := s.run fun s => s.patrol line channel ecc

/-- MEM_ERRLOG_CTL.CLEAR (R385). -/
def State.errlogClear (s : State) : State :=
  ((s.setFld Reg.MEM_ERRLOG_CTL_VALID 0 0).setFld Reg.MEM_ERRLOG_CTL_HEAD 0 0).setFld Reg.MEM_ERRLOG_CTL_LOST 0 0

/-- MEM_ERRLOG_CLEAR. -/
def execMemErrlogClear (s : State) : Out :=
  s.run fun s => s.regCmd Blk.mem 0 0 State.errlogClear

/-! ### Zeroing (R389) -/

/-- The first chunk from `c` on that a write has not zeroed already. -/
def nextChunk (done : List Nat) : Nat → Nat → Nat
  | c, 0 => c
  | c, n + 1 => if done.contains c then nextChunk done (c + 1) n else c

/-- Chunks of the usable capacity; the last may be part of 1 MiB. -/
def State.chunks (s : State) : Nat := (s.usable + 1048575) / 1048576

/-- The controller zeroes the next chunk in increasing address order, and sets ZEROED when none is left. Its bytes read
as 0 already (R389). -/
def State.zeroStep (s : State) : State :=
  if !s.mem.zeroing then s
  else
    let c := nextChunk s.mem.zeroed s.mem.zeroNext s.mem.zeroed.length
    let n := nextChunk s.mem.zeroed (c + 1) s.mem.zeroed.length
    if s.chunks ≤ n then
      State.setFld { s with mem := { s.mem with zeroing := false, zeroNext := n, zeroed := [] } } Reg.MEM_STATUS_ZEROED 0 1
    else { s with mem := { s.mem with zeroNext := n, zeroed := s.mem.zeroed.filter fun k => decide (n ≤ k) } }

/-- ZERO_CHUNK. -/
def execZeroChunk (s : State) : Out := s.run State.zeroStep

/-! ### Frequency points (R390, R391, R407) -/

/-- A DRAM group is DRAINING or WAKING (R407). -/
def State.groupMoving (s : State) : Bool :=
  (List.range 6).any fun g => let d := Tab.get {} s.pwr.domains (36 + g); d.state == 1 || d.state == 3

/-- A request for a frequency point (Table 19.2 steps 1, 1a, 1b). -/
def State.freqRequest (s : State) (target : Nat) : State :=
  let t := if target = 3 then 0 else target
  if s.flag Reg.MEM_STATUS_FREQ_BUSY then s.latch .memBusy
  else if t = s.fld Reg.MEM_STATUS_FREQ then s
  else State.setFld { s with mem := { s.mem with freqTarget := t } } Reg.MEM_STATUS_FREQ_BUSY 0 1

/-- A write of MEM_FREQ_CTL. -/
def State.freqCtl (s : State) (v : Nat) : State :=
  let s := s.setFld Reg.MEM_FREQ_CTL_TARGET 0 (bits v 1 0)
  if bit v 2 then s.freqRequest (bits v 1 0) else s

/-- MEM_FREQ_GO. -/
def execMemFreqGo (v : Word) (s : State) : Out :=
  s.run fun s => s.regCmd Blk.mem 0 (rsvBits v 7) fun s => s.freqCtl v.toNat

/-- Steps 2 to 4 of Table 19.2: not while a DRAM group moves between power states (R407); the target's timing set is
loaded. -/
def State.freqDone (s : State) : State :=
  if !s.flag Reg.MEM_STATUS_FREQ_BUSY ∨ s.groupMoving then s
  else
    let t := s.mem.freqTarget
    let set := (List.range 8).foldl (fun m w => Tab.set m w (s.fld Reg.MEM_TIM_VALUE (8 * t + w))) s.mem.tim
    (State.setFld { s with mem := { s.mem with tim := set } } Reg.MEM_STATUS_FREQ 0 t).setFld Reg.MEM_STATUS_FREQ_BUSY 0 0

/-- A write of MEM_TIMf_w (R391): the set in use refuses it. -/
def State.timingWrite (s : State) (f w v : Nat) : State :=
  if 3 ≤ f ∨ 8 ≤ w then s.latch (.rsvWrite Blk.mem)
  else if f = s.fld Reg.MEM_STATUS_FREQ then s.latch .memBusy
  else s.setFld Reg.MEM_TIM_VALUE (8 * f + w) v

/-- MEM_TIMING_WRITE. -/
def execMemTimingWrite (f w : Nat) (v : Word) (s : State) : Out :=
  s.run fun s => s.regCmd Blk.mem 0 (rsvBits v 0xFFFF) fun s => s.timingWrite f w v.toNat

/-! ### Keeping store transfers (R393, R398) -/

/-- A KST_XFER that ends at once or has ended. -/
def State.xferEnd (s : State) (result : Nat) : State :=
  State.setFld ((State.setFld { s with kst := { s.kst with xfer := none } } Reg.KST_XFER_CTL_BUSY 0 0))
    Reg.KST_XFER_CTL_RESULT 0 result

/-- A write of KST_XFER_CTL: the checks of R393 and R398 before a transfer starts. -/
def State.xferCtl (s : State) (v : Nat) : State :=
  let s := s.setFld Reg.KST_XFER_CTL_WRITE 0 (bits v 1 1)
  if !bit v 0 then s
  else if s.flag Reg.KST_XFER_CTL_BUSY then s.latch .kstAccess
  else
    let off := s.fld Reg.KST_XFER_OFF * 64
    let dst := addr64 (s.fld Reg.KST_XFER_DST_LO_ADDR * 64) (s.fld Reg.KST_XFER_DST_HI)
    let n := s.fld Reg.KST_XFER_LEN
    let write := bit v 1
    if write ∧ kstRegion off ≠ some 7 then (s.xferEnd 1).latch .kstAccess
    else if kstRegion off = none ∨ (n ≠ 0 ∧ kstRegion (off + 64 * n - 1) ≠ kstRegion off) ∨ s.usable < dst + 64 * n then
      s.xferEnd 2
    else State.setFld { s with kst := { s.kst with xfer := some ⟨write, off, dst, n⟩ } } Reg.KST_XFER_CTL_BUSY 0 1

/-- KST_XFER_GO. -/
def execKstXferGo (v : Word) (s : State) : Out :=
  s.run fun s => s.regCmd Blk.kst 0 (rsvBits v 0xF07) fun s => s.xferCtl v.toNat

/-- Lines of a transfer from the keeping store to device memory; an uncorrectable word, or an injected one, ends it. -/
def State.xferRead (s : State) (off dst : Nat) : Nat → State
  | 0 => s.xferEnd 0
  | n + 1 =>
    match s.kstRead off 64, s.eccCheck .kstEcc .kstUe with
    | none, _ => (s.xferEnd 3).latch .kstUe
    | some _, (.uncorrectable, t) => (t.xferEnd 3).latch .kstUe
    | some line, (.corrected, t) => State.xferRead ((t.latch .kstEcc).devWrite dst line) (off + 64) (dst + 64) n
    | some line, (.clean, t) => State.xferRead (t.devWrite dst line) (off + 64) (dst + 64) n

/-- Lines of a transfer from device memory to the keeping store; a worn page ends it (R397). What a line is written with
whose read gets an error response is left open: free bytes (log 8). -/
def State.xferWrite (s : State) (off dst : Nat) : Nat → State
  | 0 => s.xferEnd 0
  | n + 1 =>
    let (got, s) := s.engineRead dst 64 15
    let (line, s) := match got with
      | some bs => (bs, s)
      | none => ((List.range 64).map (Config.freeByte s.freeCtr), { s with freeCtr := s.freeCtr + 1 })
    match s.kstWrite off line with
    | none => (s.xferEnd 4).wearOut off
    | some s => State.xferWrite s (off + 64) (dst + 64) n

/-- The transfer that runs ends. -/
def State.xferDone (s : State) : State :=
  match s.kst.xfer with
  | none => s
  | some x => if x.write then s.xferWrite x.off x.dst x.lines else s.xferRead x.off x.dst x.lines

/-- KST_XFER_DONE. -/
def execKstXferDone (s : State) : Out := s.run State.xferDone

end Sys2Proof.Machine
end

