-- ==== Sys2Proof/Machine/Pool.lean ====
section
/-! DEFINITION. The buffer pool manager (12_buffer_pool_and_switch.md, R247-R259): owners, free lists, pool commands,
allocation, configuration. -/

namespace Sys2Proof.Machine

/-! ### Status codes of Table 12.3 -/
abbrev Pst.ok : Nat := 0
abbrev Pst.pending : Nat := 1
abbrev Pst.empty : Nat := 2
abbrev Pst.quota : Nat := 3
abbrev Pst.notOwner : Nat := 4
abbrev Pst.badState : Nat := 5
abbrev Pst.noShare : Nat := 6
abbrev Pst.shareLimit : Nat := 7
abbrev Pst.badArg : Nat := 8

/-! ### Owners (Table 12.1, R251-R253) -/

/-- The owner exists on the variant. -/
def validOwner (v : Variant) (o : Nat) : Bool :=
  (decide (1 ≤ o) && decide (o ≤ 5)) || (decide (8 ≤ o) && decide (o < 8 + v.regulators)) ||
  (decide (64 ≤ o) && decide (o < 64 + v.ports))

/-- The owners of the variant, in order. -/
def ownersOf (v : Variant) : List Nat := (List.range 128).filter (validOwner v)

def State.own (s : State) (o : Nat) : Owner := Tab.get {} s.pool.own o

def State.setOwn (s : State) (o : Nat) (x : Owner) : State :=
  { s with pool := { s.pool with own := Tab.set s.pool.own o x } }

/-- USE(o) (R252). -/
def State.use (s : State) (o : Nat) : Nat := (s.own o).named + (s.own o).held

/-- NAMED(o) moves by `up` and `down`. -/
def State.named (s : State) (o up down : Nat) : State :=
  s.setOwn o { s.own o with named := (s.own o).named + up - down }

/-- HELD(o) moves by `up` and `down`. -/
def State.held (s : State) (o up down : Nat) : State :=
  s.setOwn o { s.own o with held := (s.own o).held + up - down }

/-- The pool of an owner's minimum (R252): 1 for POOL 1, else 0. -/
def State.minPool (s : State) (o : Nat) : Nat := if s.fld Reg.BPM_QUOTA_POOL o = 1 then 1 else 0

/-! ### Pools and buffers (R247-R250) -/

def State.poolOf (s : State) (x : Nat) : Pool := if x = 0 then s.pool.odie else s.pool.dram

def State.setPool (s : State) (x : Nat) (p : Pool) : State :=
  if x = 0 then { s with pool := { s.pool with odie := p } } else { s with pool := { s.pool with dram := p } }

def State.buf (s : State) (b : Nat) : Buf := Tab.get {} s.pool.bufs b

def State.setBuf (s : State) (b : Nat) (x : Buf) : State :=
  { s with pool := { s.pool with bufs := Tab.set s.pool.bufs b x } }

/-- The pool of a buffer index. -/
def bufPool (b : Nat) : Nat := if b < 196608 then 0 else 1

/-- The index lies in a pool. -/
def State.bufOk (s : State) (b : Nat) : Bool := decide (b < 196608 + s.pool.dram.total)

/-- Device address of a buffer of the DRAM pool (R247). -/
def State.dramBuf (s : State) (b : Nat) : Nat := s.fld Reg.BPM_DPOOL_BASE * 65536 + (b - 196608) * 256

/-- Bytes of a buffer from an offset. -/
def State.bufRead (s : State) (b off n : Nat) : Bytes :=
  if bufPool b = 0 then s.pool.odieMem.readBytes (256 * b + off) n else s.dramBytes (s.dramBuf b + off) n

/-- The link words of a buffer that nothing has touched since its list was built become plain bytes of its memory (R249). -/
def State.touch (s : State) (b : Nat) : State :=
  if Tab.has s.pool.bufs b then s
  else if bufPool b = 0 then
    { s with pool := { s.pool with odieMem := s.pool.odieMem.writeBytes (256 * b) (builtLink b s.pool.odie.total)
                                   bufs := Tab.set s.pool.bufs b {} } }
  else s.touchDram (s.dramBuf b) 1

/-- Bytes stored in a buffer. -/
def State.bufWrite (s : State) (b off : Nat) (bs : Bytes) : State :=
  if bufPool b = 0 then { s with pool := { s.pool with odieMem := s.pool.odieMem.writeBytes (256 * b + off) bs } }
  else s.dramPut (s.dramBuf b + off) bs

/-- The two thread words of a free buffer (R249): its link, and its index under 0xA5A5A5A5. -/
def State.thread (s : State) (b next : Nat) : State :=
  s.bufWrite b 0 (linkWords b next)

/-- The link of a free buffer, and whether its own index word matches. -/
def State.linkOf (s0 : State) (b : Nat) : Nat × Bool :=
  let s := s0.touch b
  (leNat (s.bufRead b 0 4), leNat (s.bufRead b 4 4) == b ^^^ 0xA5A5A5A5)

/-- A buffer becomes FREE with no shares and goes to the head of its list (R249). -/
def State.pushFree (s : State) (b : Nat) : State :=
  let x := bufPool b
  let s1 := (s.setBuf b { st := 0, owner := (s.buf b).owner, shares := 0 }).thread b (s.poolOf x).head
  s1.setPool x { s1.poolOf x with head := b, free := (s1.poolOf x).free + 1 }

/-- The next free index from `b` on, or the end mark (rebuild of R250). -/
def State.nextFree (s : State) (lim : Nat) : Nat → Nat → Nat
  | b, 0 => if b < lim then b else 0xFFFFFFFF
  | b, n + 1 => if lim ≤ b then 0xFFFFFFFF else if (s.buf b).st = 0 then b else State.nextFree s lim (b + 1) n

/-- The list rebuilt from the state words (R250), in rising order. A buffer in front of one that is not free gets a
link of its own. -/
def State.rebuild (s : State) (x : Nat) : State :=
  let p := s.poolOf x
  let lim := p.first + p.total
  let mine := s.pool.bufs.filter fun e => bufPool e.1 == x
  let fuel := mine.length + 1
  let front := (mine.filter fun e => e.2.st != 0 && decide (p.first < e.1) && !(Tab.has s.pool.bufs (e.1 - 1))).map
    fun e => e.1 - 1
  let s1 := (front ++ (mine.filter fun e => e.2.st == 0).map (·.1)).foldl
    (fun t b => (t.setBuf b { t.buf b with st := 0 }).thread b (s.nextFree lim (b + 1) fuel)) s
  s1.setPool x { p with head := s.nextFree lim p.first fuel, rebuilding := false
                        free := p.total - (mine.filter fun e => e.2.st != 0).length }

/-- Takes the head of a pool's list, with the checks of R250; none where one fails and a rebuild starts. -/
def State.takeHead (s : State) (x : Nat) : Option Nat × State :=
  let p := s.poolOf x
  let b := p.head
  let inPool := fun i => decide (p.first ≤ i) && decide (i < p.first + p.total)
  let (next, own) := s.linkOf b
  let (bad, s) := match s.takeInject .bpmList with
    | some s => (true, s)
    | none => (false, s)
  if bad || !(inPool b && own && (s.buf b).st == 0 && (inPool next || next == 0xFFFFFFFF)) then
    (none, ((s.setPool x { p with rebuilding := true }).setFld Reg.BPM_STATUS_REBUILD 0 1).latch .bpmList)
  else (some b, (s.touch b).setPool x { p with head := next, free := p.free - 1 })

/-! ### Allocation (R256, R257) -/

/-- The list of a pool is built (R248, BPM_STATUS). -/
def State.listBuilt (s : State) (x : Nat) : Bool :=
  if x = 0 then s.flag Reg.BPM_STATUS_ODIE_READY else s.flag Reg.BPM_STATUS_DPOOL_READY

/-- The shared free count of a pool (R257, BPM_SHARED_FREEx): no buffer is free before its list is built. -/
def State.sharedFree (s : State) (x : Nat) : Int :=
  ((if s.listBuilt x then (s.poolOf x).free else 0 : Nat) : Int) -
    (((((ownersOf s.variant).filter fun p => s.minPool p == x).map fun p => s.fld Reg.BPM_MIN p - s.use p).sum : Nat) : Int)

/-- The pool answers allocations: its list is built, and no rebuild runs (R248, R250). -/
def State.poolReady (s : State) (x : Nat) : Bool :=
  s.pageEnabled Blk.bpm 0 && !(s.poolOf x).rebuilding && s.listBuilt x

/-- alloc_one (R257) with the state of the pool (R248, R250) and the four grants of a cycle (R256); `spread` for an engine that takes
several buffers, whose grants come in as many cycles as they need. -/
def State.allocTest (s : State) (o x : Nat) (spread : Bool := false) : Nat :=
  let p := s.poolOf x
  if s.fld Reg.BPM_QUOTA_QUOTA o ≤ s.use o then Pst.quota
  else if p.free = 0 ∨ !s.poolReady x then Pst.empty
  else if !spread ∧ p.grantCycle = s.now / Clk.cclk ∧ 4 ≤ p.grants then Pst.empty
  else if s.minPool o = x ∧ s.use o < s.fld Reg.BPM_MIN o then Pst.ok
  else if 0 < s.sharedFree x then Pst.ok
  else Pst.empty

/-- A grant from one pool. -/
def State.allocFrom (s : State) (o x : Nat) (spread : Bool := false) : Nat × Nat × State :=
  match s.allocTest o x spread with
  | 0 =>
    let below := decide (s.use o < s.fld Reg.BPM_MIN o)
    match s.takeHead x with
    | (none, s) => (Pst.empty, 0, s)
    | (some b, s) =>
      let p := s.poolOf x
      let c := s.now / Clk.cclk
      let p := { p with alloc := p.alloc + 1, grantCycle := c, grants := if p.grantCycle = c then p.grants + 1 else 1 }
      let p := if below then { p with rrMin := o + 1 } else { p with rrOther := o + 1 }
      (Pst.ok, b, ((s.setPool x p).setBuf b ⟨1, o, 0⟩).named o 1 0)
  | st => (st, 0, s)

/-- ALLOC by owner `o` (R257): POOL 2 tries the on-die pool, then the DRAM pool. -/
def State.poolAlloc (s : State) (o : Nat) (spread : Bool := false) : Nat × Nat × State :=
  match s.fld Reg.BPM_QUOTA_POOL o with
  | 1 => s.allocFrom o 1 spread
  | 2 =>
    match s.allocFrom o 0 spread with
    | (2, _, s) => s.allocFrom o 1 spread
    | r => r
  | _ => s.allocFrom o 0 spread

/-- Allocates `n` buffers for one owner, over as many cycles as the limit of R256 takes, or none: what has been granted is given back
(R13, R264). -/
def State.poolAllocN (s : State) (o : Nat) : Nat → List Nat → Option (List Nat) × State
  | 0, got => (some got.reverse, s)
  | n + 1, got =>
    match s.poolAlloc o true with
    | (0, b, s) => State.poolAllocN s o n (b :: got)
    | (_, _, s) =>
      (none, got.foldl (fun t b =>
        let p := t.poolOf (bufPool b)
        ((t.setPool (bufPool b) { p with alloc := p.alloc - 1 }).named o 0 1).pushFree b) s)

/-! ### The other commands (Table 12.2) -/

/-- A rejected command (R255). -/
def State.misuse (s : State) (op st o b : Nat) : State :=
  ((((s.count Reg.BPM_MISUSE).setFld Reg.BPM_MISUSE_LAST_OP 0 op).setFld Reg.BPM_MISUSE_LAST_STATUS 0 st).setFld
    Reg.BPM_MISUSE_LAST_OWNER 0 o).setFld Reg.BPM_MISUSE_BUF 0 b |>.latch .bpmMisuse

/-- The first check of SHARE that fails (R254). -/
def State.shareTest (s : State) (o b n holder : Nat) : Nat :=
  if !s.bufOk b ∨ n = 0 ∨ 15 < n ∨ !(validOwner s.variant holder) then Pst.badArg
  else if (s.buf b).st ≠ 1 then Pst.badState
  else if (s.buf b).owner ≠ o ∧ (s.own o).held = 0 then Pst.notOwner
  else if 15 < (s.buf b).shares + n then Pst.shareLimit
  else Pst.ok

def State.poolShare (s : State) (o b n holder : Nat) : Nat × State :=
  match s.shareTest o b n holder with
  | 0 => (Pst.ok, (s.setBuf b { s.buf b with shares := (s.buf b).shares + n }).held holder n 0)
  | st => (st, s.misuse 2 st o b)

def State.releaseTest (s : State) (o b : Nat) : Nat :=
  if !s.bufOk b then Pst.badArg
  else if (s.buf b).st = 0 then Pst.badState
  else if (s.buf b).shares = 0 ∨ (s.own o).held = 0 then Pst.noShare
  else Pst.ok

/-- One share of a buffer goes; a FREE_PENDING buffer without shares becomes FREE. -/
def State.dropShare (s : State) (b : Nat) : State :=
  let x := s.buf b
  if x.st = 2 ∧ x.shares = 1 then
    let p := s.poolOf (bufPool b)
    (s.setPool (bufPool b) { p with pending := p.pending - 1 }).pushFree b
  else s.setBuf b { x with shares := x.shares - 1 }

def State.poolRelease (s : State) (o b : Nat) : Nat × State :=
  match s.releaseTest o b with
  | 0 => (Pst.ok, (s.held o 0 1).dropShare b)
  | st => (st, s.misuse 3 st o b)

def State.freeTest (s : State) (o b : Nat) : Nat :=
  if !s.bufOk b then Pst.badArg
  else if (s.buf b).st ≠ 1 then Pst.badState
  else if (s.buf b).owner ≠ o then Pst.notOwner
  else Pst.ok

def State.poolFree (s : State) (o b : Nat) : Nat × State :=
  match s.freeTest o b with
  | 0 =>
    let x := bufPool b
    let p := s.poolOf x
    let s1 := s.named o 0 1
    if (s.buf b).shares = 0 then (Pst.ok, (s1.setPool x { p with alloc := p.alloc - 1 }).pushFree b)
    else (Pst.pending, (s1.setPool x { p with alloc := p.alloc - 1, pending := p.pending + 1 }).setBuf b
      { s.buf b with st := 2 })
  | st => (st, s.misuse 4 st o b)

def State.handoverTest (s : State) (o b new : Nat) : Nat :=
  if !s.bufOk b ∨ !(validOwner s.variant new) then Pst.badArg
  else if (s.buf b).st ≠ 1 then Pst.badState
  else if (s.buf b).owner ≠ o then Pst.notOwner
  else Pst.ok

def State.poolHandover (s : State) (o b new : Nat) : Nat × State :=
  match s.handoverTest o b new with
  | 0 => (Pst.ok, ((s.setBuf b { s.buf b with owner := new }).named o 0 1).named new 1 0)
  | st => (st, s.misuse 5 st o b)

/-- One pool command of an owner: status, buffer granted or acted on, state (R254); an unknown OP is BAD_ARG. -/
def State.poolCmd (s : State) (o op b n other : Nat) : Nat × Nat × State :=
  match op with
  | 1 => s.poolAlloc o
  | 2 => let (st, s) := s.poolShare o b n other; (st, b, s)
  | 3 => let (st, s) := s.poolRelease o b; (st, b, s)
  | 4 => let (st, s) := s.poolFree o b; (st, b, s)
  | 5 => let (st, s) := s.poolHandover o b other; (st, b, s)
  | _ => (Pst.badArg, b, s.misuse op Pst.badArg o b)

/-! ### Command windows (R258) -/

/-- The window exists on the variant. -/
def hasWindow (v : Variant) (w : Nat) : Bool := decide (w < v.regulators) || w == 16

/-- The owner that a window acts as. -/
def windowOwner (w : Nat) : Nat := if w = 16 then 5 else 8 + w

/-- The command that waits in a window is carried out: BPM_RSPw holds the status, DONE = 1. -/
def State.windowRun (s : State) (w : Nat) : State :=
  let (st, b, s) := s.poolCmd (windowOwner w) (s.fld Reg.BPM_CMD_OP w) (s.fld Reg.BPM_RSP_BUF w) (s.fld Reg.BPM_CMD_N w)
    (s.fld Reg.BPM_CMD_OWNER w)
  ((s.setFld Reg.BPM_RSP_BUF w b).setFld Reg.BPM_RSP_STATUS w st).setFld Reg.BPM_RSP_DONE w 1

/-- A write of BPM_CMDw: the command waits until it is carried out; an OP that Table 12.2 lacks ends at once. -/
def State.cmdWrite (s : State) (w v : Nat) : State :=
  if !s.flag Reg.BPM_RSP_DONE w then s.latch .bpmCfg
  else
    let s := (((s.setFld Reg.BPM_CMD_OP w (bits v 2 0)).setFld Reg.BPM_CMD_N w (bits v 7 4)).setFld Reg.BPM_CMD_OWNER w
      (bits v 14 8)).setFld Reg.BPM_RSP_BUF w (s.fld Reg.BPM_CMD_BUF w)
    let s := s.setFld Reg.BPM_RSP_DONE w 0
    if bits v 2 0 = 0 ∨ 5 < bits v 2 0 then s.windowRun w else s

/-- A command of a cycle: that of a window, or of another requester with its operands. -/
structure PoolCall where
  owner : Nat
  op : Nat
  window : Option Nat := none
  buf : Nat := 0
  n : Nat := 0
  other : Nat := 0
  deriving DecidableEq, Repr

/-- Carries out one command of a cycle. -/
def State.poolCall (s : State) (c : PoolCall) : State :=
  match c.window with
  | some w => s.windowRun w
  | none => (s.poolCmd c.owner c.op c.buf c.n c.other).2.2

/-- The commands that wait in the windows. -/
def State.windowCalls (s : State) : List PoolCall :=
  ((List.range 17).filter fun w => hasWindow s.variant w && !s.flag Reg.BPM_RSP_DONE w).map fun w =>
    { owner := windowOwner w, op := s.fld Reg.BPM_CMD_OP w, window := some w }

/-- ALLOCs in round robin from a pointer, by owner. -/
def roundRobin (from_ : Nat) (cs : List PoolCall) : List PoolCall :=
  cs.filter (fun c => decide (from_ ≤ c.owner)) ++ cs.filter fun c => decide (c.owner < from_)

/-- The ALLOCs of a cycle in their order (R256): those of requesters below their minimum at its start, then all others, each in round
robin. A requester goes by the pool that it tries first. -/
def State.allocOrder (s : State) (cs : List PoolCall) : List PoolCall :=
  let below := fun (c : PoolCall) => decide (s.use c.owner < s.fld Reg.BPM_MIN c.owner)
  let of := fun (x : Nat) (l : List PoolCall) => l.filter fun c => s.minPool c.owner == x
  ([0, 1].flatMap fun x => roundRobin (s.poolOf x).rrMin (of x (cs.filter below))) ++
    [0, 1].flatMap fun x => roundRobin (s.poolOf x).rrOther (of x (cs.filter fun c => !(below c)))

/-- One cycle of the pools (R256): every SHARE, RELEASE, FREE and HANDOVER first, in order of requester, then the ALLOCs. -/
def State.poolCycle (s : State) (cs : List PoolCall) : State :=
  let byOwner := (List.range 128).flatMap fun o => cs.filter fun c => c.owner == o
  let s1 := (byOwner.filter fun c => c.op != 1).foldl State.poolCall s
  (s.allocOrder (byOwner.filter fun c => c.op == 1)).foldl State.poolCall s1

/-- A pool command as it reaches the pool: from an owner with the operands given, or the command with OP `op` that waits
in a window. The commands that wait in other windows are of the same cycle (R256, log 103). -/
def State.poolReq (s : State) (r : PoolReq) (op b n other : Nat) : State :=
  if !s.pageEnabled Blk.bpm 0 then s
  else
  let s := s.check .bpmSram
  match r with
  | .owner o => if validOwner s.variant o then s.poolCycle (⟨o, op, none, b, n, other⟩ :: s.windowCalls) else s
  | .window w =>
    if hasWindow s.variant w && !s.flag Reg.BPM_RSP_DONE w && s.fld Reg.BPM_CMD_OP w == op then s.poolCycle s.windowCalls else s

/-- ALLOC. -/
def execAlloc (r : PoolReq) (s : State) : Out := s.run fun s => s.poolReq r 1 0 0 0
/-- SHARE. -/
def execShare (r : PoolReq) (buf n holder : Nat) (s : State) : Out := s.run fun s => s.poolReq r 2 buf n holder
/-- RELEASE. -/
def execRelease (r : PoolReq) (buf : Nat) (s : State) : Out := s.run fun s => s.poolReq r 3 buf 0 0
/-- FREE. -/
def execFree (r : PoolReq) (buf : Nat) (s : State) : Out := s.run fun s => s.poolReq r 4 buf 0 0
/-- HANDOVER. -/
def execHandover (r : PoolReq) (buf new : Nat) (s : State) : Out := s.run fun s => s.poolReq r 5 buf 0 new

/-- The rebuild of a pool's list under R250 ends. -/
def State.listRebuilt (s : State) (x : Nat) : State :=
  if 2 ≤ x ∨ !(s.poolOf x).rebuilding then s
  else
    let s1 := s.rebuild x
    s1.setFld Reg.BPM_STATUS_REBUILD 0 (b2n (s1.pool.odie.rebuilding || s1.pool.dram.rebuilding))

/-- LIST_REBUILD_DONE. -/
def execListRebuildDone (pool : Nat) (s : State) : Out := s.run fun s => s.listRebuilt pool

/-! ### Diagnosis (R259) and configuration (R248, R253) -/

/-- Every NAMED count and the audit levels of both pools from the state words (R259). -/
def State.recount (s : State) : State :=
  let s1 := (ownersOf s.variant).foldl (fun t o =>
    t.setOwn o { t.own o with named := (s.pool.bufs.filter fun e => e.2.st == 1 && e.2.owner == o).length }) s
  [0, 1].foldl (fun t x =>
    let n := fun k => (s.pool.bufs.filter fun e => bufPool e.1 == x && e.2.st == k).length
    let p := t.poolOf x
    t.setPool x { p with alloc := n 1, pending := n 2, free := p.total - n 1 - n 2 }) s1

/-- A write of BPM_FORCE (R259). -/
def State.force (s : State) (v : Nat) : State :=
  let b := s.fld Reg.BPM_FORCE_BUF
  let o := bits v 14 8
  if !bit v 0 then s
  else if !s.bufOk b ∨ (bit v 1 ∧ !(validOwner s.variant o)) then s.latch .bpmCfg
  else
    let s := { s with flt := { s.flt with promiseVoid := true } }
    let s := if bit v 1 then s.setBuf b ⟨1, o, 0⟩
      else if (s.buf b).st = 0 then s else s.pushFree b
    s.recount

/-- FORCE_FREE. -/
def execForceFree (v : Word) (s : State) : Out :=
  s.run fun s => s.regCmd Blk.bpm 0 (rsvBits v 0x7F03) fun s => s.force v.toNat
/-- FORCE_OWNER. -/
def execForceOwner (v : Word) (s : State) : Out :=
  s.run fun s => s.regCmd Blk.bpm 0 (rsvBits v 0x7F03) fun s => s.force v.toNat

/-- A write of BPM_DPOOL_BASE (register 0) or BPM_DPOOL_COUNT (1) (R248). -/
def State.dpoolConfig (s : State) (reg v : Nat) : State :=
  let base := if reg = 0 then v % 2 ^ 24 else s.fld Reg.BPM_DPOOL_BASE
  let n := if reg = 0 then s.fld Reg.BPM_DPOOL_COUNT else v % 2 ^ 25
  if s.pool.dram.alloc ≠ 0 ∨ s.pool.dram.pending ≠ 0 ∨ n % 256 ≠ 0 ∨ 16777216 < n ∨ !s.inPrivate (base * 65536) (n * 264) then
    s.latch .bpmCfg
  else
    let s := (s.setFld Reg.BPM_DPOOL_BASE 0 base).setFld Reg.BPM_DPOOL_COUNT 0 n
    let s := { s with pool := { s.pool with
      bufs := s.pool.bufs.filter fun e => decide (e.1 < 196608)
      dram := { s.pool.dram with total := n, free := n, rebuilding := false
                                 head := if n = 0 then 0xFFFFFFFF else 196608 } } }
    (s.setFld Reg.BPM_STATUS_DPOOL_READY 0 (b2n (n == 0))).setFld Reg.BPM_STATUS_REBUILD 0 (b2n s.pool.odie.rebuilding)

/-- DPOOL_CONFIG_WRITE. -/
def execDpoolConfigWrite (reg : Nat) (v : Word) (s : State) : Out :=
  s.run fun s => s.regCmd Blk.bpm 0 (rsvBits v (if reg = 0 then 0xFFFFFF else 0x1FFFFFF)) fun s => s.dpoolConfig reg v.toNat

/-- DPOOL_REBUILD_DONE. -/
def execDpoolRebuildDone (s : State) : Out := s.run fun s => s.setFld Reg.BPM_STATUS_DPOOL_READY 0 1

/-- A write of BPM_QUOTAo (R253): always accepted; owners that are not listed ignore it, and owners beyond the variant
fall under R5 (R251). -/
def State.quotaWrite (s : State) (o v : Nat) : State :=
  if 128 ≤ o then s.latch (.rsvWrite Blk.bpm)
  else if !(validOwner .c648 o) then s
  else if !(validOwner s.variant o) then s.badId Blk.bpm 0
  else (s.setFld Reg.BPM_QUOTA_QUOTA o (bits v 24 0)).setFld Reg.BPM_QUOTA_POOL o (bits v 26 25)

/-- QUOTA_WRITE. -/
def execQuotaWrite (owner : Nat) (v : Word) (s : State) : Out :=
  s.run fun s => s.regCmd Blk.bpm 0 (rsvBits v 0x7FFFFFF) fun s => s.quotaWrite owner v.toNat

/-- A write of BPM_MINo (R252, R253). -/
def State.minWrite (s : State) (o v : Nat) : State :=
  let new := bits v 24 0
  let x := s.minPool o
  let sum := (((ownersOf s.variant).filter fun p => s.minPool p == x && p != o).map fun p => s.fld Reg.BPM_MIN p).sum + new
  if 128 ≤ o then s.latch (.rsvWrite Blk.bpm)
  else if !(validOwner .c648 o) then s
  else if !(validOwner s.variant o) then s.badId Blk.bpm 0
  else if o = 3 ∨ o = 4 ∨ 64 ≤ o then s
  else if s.fld Reg.BPM_MIN o < new ∧ (s.poolOf x).total < sum then s.latch .bpmCfg
  else s.setFld Reg.BPM_MIN o new

/-- MIN_WRITE. -/
def execMinWrite (owner : Nat) (v : Word) (s : State) : Out :=
  s.run fun s => s.regCmd Blk.bpm 0 (rsvBits v 0x1FFFFFF) fun s => s.minWrite owner v.toNat

end Sys2Proof.Machine
end

