-- ==== Sys2Proof/Machine/Operands.lean ====
section
/-! DEFINITION. The operand forms: what the byte layouts of the spec say (scatter and command entries, calibre images and
their sections), CRC-32, serial frame numbers, and the instants that a calibre fixes (marks, pickups, row pairs). -/

namespace Sys2Proof.Machine

/-! ### Byte strings -/

/-- `n` bytes from an offset. -/
def slice (bs : Bytes) (o n : Nat) : Bytes := (bs.drop o).take n

/-- A two's complement number of `w` bits. -/
def signed (w v : Nat) : Int := if v % 2 ^ w < 2 ^ (w - 1) then (v % 2 ^ w : Nat) else ((v % 2 ^ w : Nat) : Int) - (2 ^ w : Nat)

/-- A signed little-endian field of `n` bytes. -/
def sfield (bs : Bytes) (o n : Nat) : Int := signed (8 * n) (field bs o n)

/-- One byte into the reflected CRC-32 of IEEE 802.3 (Table 3.2). -/
def crc32Step (c : BitVec 32) (b : Byte) : BitVec 32 :=
  (List.range 8).foldl (fun c _ => if c.getLsbD 0 then (c >>> 1) ^^^ 0xEDB88320#32 else c >>> 1)
    (c ^^^ b.zeroExtend 32)

/-- CRC-32 of a byte string (Table 3.2). -/
def crc32 (bs : Bytes) : Nat := (bs.foldl crc32Step 0xFFFFFFFF#32 ^^^ 0xFFFFFFFF#32).toNat

/-- A range is all zero bytes. -/
def zeros (bs : Bytes) (o n : Nat) : Bool := (slice bs o n).all (· == 0)

/-! ### Scatter entries (Table 3.2) and command entries (Table 3.4) -/

/-- An address word: bit 63 selects device memory; the rest is the address. -/
def addrSpace (a : Nat) : Bool × Nat := (bit a 63, a % 2 ^ 63)

def Entry.addr (e : Bytes) : Nat := field e 0 8
def Entry.len (e : Bytes) : Nat := field e 8 3
def Entry.start (e : Bytes) : Bool := bit (field e 11 1) 0
def Entry.fin (e : Bytes) : Bool := bit (field e 11 1) 1
def Entry.abort (e : Bytes) : Bool := bit (field e 11 1) 2
def Entry.crc (e : Bytes) : Bool := bit (field e 11 1) 3
def Entry.crc32 (e : Bytes) : Nat := field e 12 4
def Entry.time (e : Bytes) : Nat := field e 16 8
def Entry.auSeq (e : Bytes) : Nat := field e 24 4

/-! ### Serial frame numbers (Presentation targets and deadlines) -/

/-- `a ≤ b` for frame numbers: (b − a) mod 2^32 is below 2^31. -/
def frameLe (a b : Nat) : Bool := decide ((b + 2 ^ 32 - a % 2 ^ 32) % 2 ^ 32 < 2 ^ 31)

/-- The frame number `n` after frame `a`. -/
def frameAdd (a n : Nat) : Nat := (a + n) % 2 ^ 32

/-! ### Calibre images (Tables 6.3 to 6.5, 7.2, 7.4) -/

def Img.len (im : Bytes) : Nat := field im 8 4
def Img.num (im : Bytes) : Nat := field im 12 4
def Img.den (im : Bytes) : Nat := field im 16 2
/-- TIMING.SOURCE: true for WALLSYNC. -/
def Img.wallsync (im : Bytes) : Bool := bit (field im 18 1) 0
def Img.syncOffset (im : Bytes) : Int := sfield im 20 4
def Img.w (im : Bytes) : Nat := field im 24 2 + 1
def Img.h (im : Bytes) : Nat := field im 26 2 + 1
def Img.nTiles (im : Bytes) : Nat := field im 28 2
def Img.nMirrors (im : Bytes) : Nat := field im 30 2
def Img.nWindows (im : Bytes) : Nat := field im 32 2
def Img.nColours (im : Bytes) : Nat := field im 34 2
def Img.portOff (im : Bytes) : Nat := field im 36 4
def Img.tileOff (im : Bytes) : Nat := field im 40 4
def Img.mirrorOff (im : Bytes) : Nat := field im 44 4
def Img.windowOff (im : Bytes) : Nat := field im 48 4
def Img.colourOff (im : Bytes) : Nat := field im 52 4
def Img.convOff (im : Bytes) : Nat := field im 56 4
def Img.beatOff (im : Bytes) : Nat := field im 60 4
def Img.beatLen (im : Bytes) : Nat := field im 64 4

/-- Nominal frame period in CCLK cycles. -/
def Img.period (im : Bytes) : Nat := 1200000000 * Img.den im / Img.num im

/-- Canvas row pairs (R164). -/
def Img.nrp (im : Bytes) : Nat := Img.h im / 2

/-- Port entry p, 16 bytes. -/
def Img.port (im : Bytes) (p : Nat) : Bytes := slice im (Img.portOff im + 16 * p) 16
def Port.enable (e : Bytes) : Bool := bit (field e 0 1) 0
/-- Byte 1: lane class and rate code. -/
def Port.lane (e : Bytes) : Nat := field e 1 1
/-- Bytes 2-3: per-port overhead. -/
def Port.overhead (e : Bytes) : Nat := field e 2 2
/-- Byte 4: allowed link versions. -/
def Port.versions (e : Bytes) : Nat := field e 4 1

/-- Tile entry i, 64 bytes (Table 6.4). -/
def Img.tileAt (im : Bytes) (i : Nat) : Bytes := slice im (Img.tileOff im + 64 * i) 64
def Tile.id (e : Bytes) : Nat := bits (field e 0 2) 13 0
def Tile.port (e : Bytes) : Nat := bits (field e 2 1) 5 0
def Tile.pos (e : Bytes) : Nat := field e 3 1
def Tile.x (e : Bytes) : Nat := field e 4 2
def Tile.y (e : Bytes) : Nat := field e 6 2
def Tile.w (e : Bytes) : Nat := field e 8 2
def Tile.h (e : Bytes) : Nat := field e 10 2
def Tile.emitters (e : Bytes) : Nat := bits (field e 12 1) 2 0
/-- 0 PMF-I, 1 PMF-S, 2 PMF-L. -/
def Tile.profile (e : Bytes) : Nat := bits (field e 13 1) 1 0
def Tile.fmin (e : Bytes) : Nat := bits (field e 13 1) 7 4
def Tile.circuit (e : Bytes) : Nat := bits (field e 14 2) 8 0
def Tile.colour (e : Bytes) : Nat := field e 16 2
def Tile.matchSerial (e : Bytes) : Bool := bit (field e 18 2) 0
def Tile.forceDark (e : Bytes) : Bool := bit (field e 18 2) 1
def Tile.latUnbound (e : Bytes) : Bool := bit (field e 18 2) 2
def Tile.vendor (e : Bytes) : Nat := field e 20 4
def Tile.module (e : Bytes) : Nat := field e 24 2
def Tile.gainAddr (e : Bytes) : Nat := field e 28 8
def Tile.gainLen (e : Bytes) : Nat := field e 36 4
def Tile.serial (e : Bytes) : Nat := field e 40 8
/-- Row pairs of a tile. -/
def Tile.rps (e : Bytes) : Nat := Tile.h e / 2

/-- The tile entries of an image, in order. -/
def Img.tiles (im : Bytes) : List Bytes := (List.range (Img.nTiles im)).map (Img.tileAt im)

/-- The entry of a tile. -/
def Img.tile (im : Bytes) (t : Nat) : Option Bytes := (Img.tiles im).find? fun e => Tile.id e == t

/-- Mirror entry i, 8 bytes (Table 6.5). -/
def Img.mirrorAt (im : Bytes) (i : Nat) : Bytes := slice im (Img.mirrorOff im + 8 * i) 8
def Mirror.tile (e : Bytes) : Nat := bits (field e 0 2) 13 0
def Mirror.port (e : Bytes) : Nat := bits (field e 2 1) 5 0
def Mirror.enable (e : Bytes) : Bool := bit (field e 2 1) 6
def Mirror.pos (e : Bytes) : Nat := field e 3 1

/-- The mirror entries of an image, in order. -/
def Img.mirrors (im : Bytes) : List Bytes := (List.range (Img.nMirrors im)).map (Img.mirrorAt im)

/-- Window entry i, 64 bytes (Table 7.2). -/
def Img.window (im : Bytes) (i : Nat) : Bytes := slice im (Img.windowOff im + 64 * i) 64
def Win.enable (e : Bytes) : Bool := bit (field e 0 1) 0
def Win.solid (e : Bytes) : Bool := bit (field e 0 1) 1
def Win.fillEmpty (e : Bytes) : Bool := bit (field e 0 1) 2
def Win.layer (e : Bytes) : Nat := bits (field e 1 1) 2 0
def Win.stream (e : Bytes) : Nat := bits (field e 2 2) 9 0
def Win.x (e : Bytes) : Nat := field e 4 2
def Win.y (e : Bytes) : Nat := field e 6 2
def Win.w (e : Bytes) : Nat := field e 8 2
def Win.h (e : Bytes) : Nat := field e 10 2
def Win.cropX (e : Bytes) : Nat := field e 12 2
def Win.cropY (e : Bytes) : Nat := field e 14 2
def Win.cropW (e : Bytes) : Nat := field e 16 2
def Win.cropH (e : Bytes) : Nat := field e 18 2
def Win.alpha (e : Bytes) : Nat := field e 20 1
def Win.filter (e : Bytes) : Nat := field e 21 1
def Win.primaries (e : Bytes) : Nat := field e 22 1
def Win.transfer (e : Bytes) : Nat := field e 23 1
def Win.matrix (e : Bytes) : Nat := field e 24 1
def Win.range (e : Bytes) : Nat := field e 25 1
def Win.chromaLoc (e : Bytes) : Nat := field e 26 1
def Win.fill (e : Bytes) (c : Nat) : Nat := field e (28 + 2 * c) 2

/-- The windows of an image that show a stream: enabled, SOURCE stream, STREAM. -/
def Img.showing (im : Bytes) (st : Nat) : List Nat :=
  (List.range (Img.nWindows im)).filter fun i =>
    let e := Img.window im i
    Win.enable e && !(Win.solid e) && Win.stream e == st

/-- Colour correction entry i: coefficient of row e and component c (R166). -/
def Img.colour (im : Bytes) (i e c : Nat) : Int := sfield im (Img.colourOff im + 32 * i + 6 * e + 2 * c) 2

/-! ### Banks (Tables 6.1, 6.7a) -/

def State.bank (s : State) (b : Bool) : Bank := if b then s.clb.bankB else s.clb.bankA

def State.setBank (s : State) (b : Bool) (x : Bank) : State :=
  if b then { s with clb := { s.clb with bankB := x } } else { s with clb := { s.clb with bankA := x } }

/-- The bank that is not active: B while no bank is active and A holds nothing yet, else the other one. -/
def State.shadow (s : State) : Bool := if s.clb.activeValid then !s.clb.active else s.clb.active

/-- The image of the active bank. -/
def State.activeImg (s : State) : Option Bytes :=
  if s.clb.activeValid then some (s.bank s.clb.active).image else none

/-- The armed swap applies to frame k (R139 step 5). -/
def State.swapFor (s : State) (k : Nat) : Bool :=
  match s.clb.swap with
  | some w => w.armed && frameLe w.s k
  | none => false

/-! ### Instants -/

/-- CLB_PERIOD in time units. -/
def State.period (s : State) : Nat := s.fld Reg.CLB_PERIOD * Clk.cclk

/-- The instant of mark M(k): the last two marks as they fell, those before by the nominal period, the coming ones from the next mark
on. -/
def State.markTime (s : State) (k : Nat) : Nat :=
  let n := s.frameCount
  if k = n then s.clb.lastMark
  else if frameLe n k then s.clb.nextMark + ((k + 2 ^ 32 - n) % 2 ^ 32 - 1) * s.period
  else s.clb.prevMark - ((n + 2 ^ 32 - k) % 2 ^ 32 - 1) * s.period

/-- The live edit that waits applies to frame k: its mark is the first at least 400 µs after the command started (R142). -/
def State.editFor (s : State) (k : Nat) : Option Bytes :=
  match s.clb.live with
  | some x => if frameLe (frameAdd s.frameCount 1) k ∧ x.startedAt + 400 * Clk.us ≤ s.markTime k then some x.image else none
  | none => none

/-- The bank that pickups and deadlines of frame k use, and its image. -/
def State.bankFor (s : State) (k : Nat) : Option (Bool × Bytes) :=
  if s.swapFor k then some (s.shadow, (s.bank s.shadow).image)
  else (s.activeImg).map fun im => (s.clb.active, (s.editFor k).getD im)

/-- S(q) of frame k (R164): the frame's mark plus q row pairs of the scan. -/
def State.scanTime (s : State) (im : Bytes) (k q : Nat) : Nat :=
  s.markTime k + q * Img.period im / Img.nrp im * Clk.cclk

/-- CNV_LEAD in time units. -/
def State.lead (s : State) : Nat := s.fld Reg.CNV_LEAD_US * Clk.us

/-- The pickup of a window in frame k: the scan reaches its first canvas row, less CNV_LEAD. -/
def State.pickupTime (s : State) (im : Bytes) (k : Nat) (w : Bytes) : Nat := s.scanTime im k (Win.y w / 2) - s.lead

/-- The earliest pickup of frame k among the windows that show a stream; M(k + 1) where none does (R94, R438). -/
def State.firstPickup (s : State) (k st : Nat) : Nat :=
  match s.bankFor k with
  | none => s.markTime (frameAdd k 1)
  | some (_, im) =>
    match (Img.showing im st).map fun i => s.pickupTime im k (Img.window im i) with
    | [] => s.markTime (frameAdd k 1)
    | t :: ts => ts.foldl min t

/-! ### Source mapping (R156, R158) -/

/-- Effective crop along one axis: origin and size. -/
def effCrop (o n size : Nat) : Nat × Nat :=
  if n = 0 then (0, size) else (o, min (o + n) size - o)

def srcStep (n d : Nat) : Nat := (n * 65536 + d / 2) / d

/-- Source position in Q16. -/
def srcPos (o st x : Nat) : Int := (o * 65536 : Nat) + (((2 * x + 1) * st / 2 : Nat) : Int) - 32768

/-- The last source row or column that the taps of an output row or column read (R156). -/
def lastTap (filter o n st x : Nat) : Int :=
  let p := srcPos o st x
  let i := if filter = 0 then p / 65536 + 4 else if filter = 1 then (p + 32768) / 65536 else p / 65536 + 1
  max (o : Int) (min i ((o : Int) + n - 1))

/-- The first source row or column that the taps of an output row or column read. -/
def firstTap (filter o n st x : Nat) : Int :=
  let p := srcPos o st x
  let i := if filter = 0 then p / 65536 - 3 else if filter = 1 then (p + 32768) / 65536 else p / 65536
  max (o : Int) (min i ((o : Int) + n - 1))

/-- The window row pair that first reads source row r (R158); none where no row reads it or a later one. -/
def firstRead (w : Bytes) (picH r : Nat) : Option Nat :=
  let (o, n) := effCrop (Win.cropY w) (Win.cropH w) picH
  if n = 0 then none
  else
    let st := srcStep n (Win.h w)
    (List.range ((Win.h w + 1) / 2)).find? fun p =>
      decide ((r : Int) ≤ lastTap (Win.filter w) o n st (2 * p)) ||
      (decide (2 * p + 1 < Win.h w) && decide ((r : Int) ≤ lastTap (Win.filter w) o n st (2 * p + 1)))

/-- need(j) of R101 in time units, for the earliest window of the stream; none where the band is never read. -/
def State.bandNeed (s : State) (im : Bytes) (k : Nat) (w : Bytes) (picH j : Nat) : Option Nat :=
  (firstRead w picH (16 * j)).map fun p => s.scanTime im k (Win.y w / 2 + p)

/-- The effective crop of a picture in a window: (ox, nx, oy, ny). -/
def winCrop (w : Bytes) (pw ph : Nat) : (Nat × Nat) × (Nat × Nat) :=
  (effCrop (Win.cropX w) (Win.cropW w) pw, effCrop (Win.cropY w) (Win.cropH w) ph)

/-- The effective crop is empty or its ratio lies outside 1/8 to 8 (R157). -/
def badRatio (w : Bytes) (pw ph : Nat) : Bool :=
  let ((_, nx), (_, ny)) := winCrop w pw ph
  nx == 0 || ny == 0 || decide (8 * Win.w w < nx) || decide (8 * nx < Win.w w) ||
  decide (8 * Win.h w < ny) || decide (8 * ny < Win.h w)

/-! ### Jobs that may begin (R68, R132) -/

/-- The opcode is a calibre command (R132). -/
def calibreOp (op : Nat) : Bool := op == 0x10 || op == 0x11

/-- Nothing that a command waits for is outstanding: with FENCE every earlier command of its ring (R68), for a calibre
command every earlier calibre command (R132). -/
def State.waitOver (s : State) (j : Nat) : Bool :=
  let x := s.job j
  s.rng.jobs.all fun e =>
    decide (x.seq ≤ e.2.seq) ||
    ((!x.fence || e.2.ring != x.ring) && (!(calibreOp x.opcode) || !(calibreOp e.2.opcode)))

/-- Every earlier command of the ring has begun (R68). -/
def State.inOrder (s : State) (j : Nat) : Bool :=
  let x := s.job j
  s.rng.jobs.all fun e => e.2.ring != x.ring || e.2.started || decide (x.seq ≤ e.2.seq)

/-- The page of the block that carries an opcode out is enabled: a block whose ENABLE is 0 accepts no new work, and the
job waits (R418, log 52). -/
def State.opEnabled (s : State) (op : Nat) : Bool :=
  if op ≤ 0x04 then s.pageEnabled Blk.dec 0
  else if op ≤ 0x12 then s.pageEnabled Blk.clb 0
  else if op ≤ 0x21 then s.pageEnabled Blk.enc 0
  else if op = 0x40 then s.pageEnabled Blk.mze 0
  else if op = 0x50 then s.pageEnabled Blk.rgl 0
  else true

/-- A job of the opcode that may begin now. -/
def State.canStart (s : State) (j op : Nat) : Bool :=
  s.ready j op && !(s.job j).waits && s.inOrder j && s.opEnabled op

end Sys2Proof.Machine
end

