-- ==== Sys2Proof/Machine/ImageCheck.lean ====
section
/-! DEFINITION. What CALIBRE_WRITE checks of an image (Table 6.6; R129-R131, R135, R136, R153-R155, R168, R170, R192, R216-R218,
R227, R270, R273, R275, R279, R287-R290), and what an image fixes for a tile on a port: its beats, budget and flags. -/

namespace Sys2Proof.Machine

/-! ### The beat section (Tables 13.1 to 13.3) -/

/-- Directory entry of a port. -/
def Img.dir (im : Bytes) (p : Nat) : Bytes := slice im (Img.beatOff im + 16 * p) 16
def Dir.first (e : Bytes) : Nat := field e 0 4
def Dir.count (e : Bytes) : Nat := field e 4 2
def Dir.borrow (e : Bytes) : Bool := bit (field e 6 1) 0
def Dir.offset (e : Bytes) : Nat := field e 8 4

/-- Offset in the image of beat i of a port. -/
def Img.beatAt (im : Bytes) (p i : Nat) : Nat := Img.beatOff im + Dir.first (Img.dir im p) + 12 * i

/-- The beats of a port, in order. -/
def Img.beats (im : Bytes) (p : Nat) : List Bytes :=
  (List.range (Dir.count (Img.dir im p))).map fun i => slice im (Img.beatAt im p i) 12

def Beat.start (e : Bytes) : Nat := field e 0 4
def Beat.len (e : Bytes) : Nat := field e 4 4
def Beat.fin (e : Bytes) : Nat := Beat.start e + Beat.len e
def Beat.tile (e : Bytes) : Nat := bits (field e 8 2) 13 0
def Beat.kind (e : Bytes) : Nat := field e 10 1

/-- The tile beats of a tile on a port. -/
def Img.tileBeats (im : Bytes) (p t : Nat) : List Bytes :=
  (Img.beats im p).filter fun e => Beat.kind e == 0 && Beat.tile e == t

/-- RATE and CLASS of Table 14.1. -/
def laneRate (b : Nat) : Nat := bits b 3 0
def laneClass (b : Nat) : Nat := bits b 5 4

/-- Lanes of a class: 1 for a tile link. -/
def laneCount (c : Nat) : Nat := 2 ^ c

/-- The class and rate pair is one that Table 14.1 lists. -/
def laneOk (b : Nat) : Bool :=
  b / 64 % 4 == 0 && decide (b < 256) &&
  (if laneClass b = 0 then decide (1 ≤ laneRate b) && decide (laneRate b ≤ 5)
   else decide (8 ≤ laneRate b) && decide (laneRate b ≤ 10))

/-- Slot rate R in bytes per second (Table 13.1). -/
def slotRate (b : Nat) : Nat :=
  let n := laneCount (laneClass b)
  match laneRate b with
  | 1 => 125000000
  | 2 => 250000000
  | 3 => 312500000
  | 4 => 500000000
  | 5 => 625000000
  | 8 => n * 1249923000
  | 9 => n * 1515059000
  | 10 => n * 1939275000
  | _ => 1

/-- R of a port of the image. -/
def Img.rate (im : Bytes) (p : Nat) : Nat := slotRate (Port.lane (Img.port im p))

/-- k of R216 on a port: LFH of 32 bytes and OVH (R299). -/
def Img.k (im : Bytes) (p : Nat) : Nat := 32 + Port.overhead (Img.port im p)

/-- t(x) of R275, CCLK cycles. -/
def Img.slotTime (im : Bytes) (p x : Nat) : Nat := Dir.offset (Img.dir im p) + x * 1200000000 / Img.rate im p

/-- The ports that carry a tile: its primary port, then every mirror port whose ENABLE is 1 (R216, R262). -/
def Img.carriers (im : Bytes) (e : Bytes) : List Nat :=
  Tile.port e :: ((Img.mirrors im).filter fun m => Mirror.tile m == Tile.id e && Mirror.enable m).map Mirror.port

/-! ### Budgets (R216-R218) -/

/-- port_budget (R216) over the caps of a tile's beats. -/
def portBudget (k : Nat) : List Nat → Nat → Int → Nat
  | [], f, tail => 4096 * f + tail.toNat
  | c :: cs, f, tail =>
    let n := c / (4096 + k)
    let t := if 0 < n then 0 else tail
    portBudget k cs (f + n) (max t (((c - n * (4096 + k) : Nat) : Int) - k))

/-- B of a tile (R216). -/
def Img.budget (im : Bytes) (e : Bytes) : Nat :=
  ((Img.carriers im e).map fun p => portBudget (Img.k im p) ((Img.tileBeats im p (Tile.id e)).map Beat.len) 0 0).foldl min 16777215

/-- fcost(F) (R218). -/
def fcost (w em f : Nat) : Nat := w * em * f / 4 + 6

/-- Fmin of a tile entry: 4 for FMIN 0. -/
def Tile.floorMin (e : Bytes) : Nat := if Tile.fmin e = 0 then 4 else Tile.fmin e

/-- Granules of a tile's reference (R227). -/
def Tile.need (e : Bytes) : Nat := (Tile.w e * Tile.h e * Tile.emitters e * 2 + Tile.rps e * 8 + 65535) / 65536

/-- Two entries share a reference slot (R227). -/
def Tile.shares (a b : Bytes) : Bool :=
  Tile.id a == Tile.id b && Tile.w a == Tile.w b && Tile.h a == Tile.h b && Tile.emitters a == Tile.emitters b &&
  Tile.profile a == Tile.profile b && Tile.port a == Tile.port b && Tile.pos a == Tile.pos b

/-- The granules that a second image needs beside the active one's (R227). -/
def Img.extraGranules (active im : Bytes) : Nat :=
  ((Img.tiles im).filter fun e => !((Img.tiles active).any fun a => Tile.shares a e)).map Tile.need |>.sum

def Img.granules (im : Bytes) : Nat := ((Img.tiles im).map Tile.need).sum

/-- The tile meets the beat condition of R279 on every port that carries it. -/
def Img.latBound (im : Bytes) (e : Bytes) : Bool :=
  let f := (Tile.y e / 2 + Tile.rps e) * Img.period im / Img.nrp im
  (Img.carriers im e).all fun p =>
    match (Img.tileBeats im p (Tile.id e)).getLast? with
    | some b =>
      let t := Img.slotTime im p (Beat.fin b)
      decide (f + 120000 ≤ t) && decide (t ≤ f + 480000)
    | none => false

/-- The tiles that R27 and R279 flag LAT_UNBOUND. -/
def Img.latUnbound (im : Bytes) : List Nat := ((Img.tiles im).filter fun e => !(Img.latBound im e)).map Tile.id

/-! ### Offsets of the entries -/

def Img.tileOffs (im : Bytes) : List Nat := (List.range (Img.nTiles im)).map fun i => Img.tileOff im + 64 * i
def Img.mirrorOffs (im : Bytes) : List Nat := (List.range (Img.nMirrors im)).map fun i => Img.mirrorOff im + 8 * i
def Img.windowOffs (im : Bytes) : List Nat := (List.range (Img.nWindows im)).map fun i => Img.windowOff im + 64 * i
def Img.colourOffs (im : Bytes) : List Nat := (List.range (Img.nColours im)).map fun i => Img.colourOff im + 32 * i
def Img.portOffs (im : Bytes) : List Nat := (List.range 64).map fun i => Img.portOff im + 16 * i
def Img.dirOffs (im : Bytes) : List Nat := (List.range 64).map fun i => Img.beatOff im + 16 * i

/-- Offsets at which a test of the entry fails. -/
def failing (im : Bytes) (n : Nat) (offs : List Nat) (bad : Bytes → Bool) : List Nat := offs.filter fun o => bad (slice im o n)

/-- 0, the whole image, where a test of the header fails. -/
def whole (bad : Bool) : List Nat := if bad then [0] else []

/-! ### Reason 1: FORMAT -/

/-- Sections: offset, size, and whether the offset is checked. -/
def Img.sections (im : Bytes) : List (Nat × Nat) :=
  [(Img.portOff im, 1024), (Img.tileOff im, 64 * Img.nTiles im), (Img.mirrorOff im, 8 * Img.nMirrors im),
   (Img.windowOff im, 64 * Img.nWindows im), (Img.colourOff im, 32 * Img.nColours im), (Img.convOff im, 26688),
   (Img.beatOff im, Img.beatLen im)].filter fun e => e.2 != 0

/-- The section layout of R135 is wrong. -/
def Img.badLayout (im : Bytes) : Bool :=
  let all := (0, 128) :: Img.sections im
  (Img.sections im).any (fun e => e.1 % 8 != 0 || decide (Img.len im < e.1 + e.2)) ||
  !(all.zipIdx.all fun a => all.zipIdx.all fun b =>
      a.2 == b.2 || decide (a.1.1 + a.1.2 ≤ b.1.1) || decide (b.1.1 + b.1.2 ≤ a.1.1))

/-- The CRC32 of an image, over its bytes with the field taken as 0. -/
def Img.crc (im : Bytes) : Nat := crc32 (im.take 124 ++ [0, 0, 0, 0] ++ im.drop 128)

/-- The beat list of a port lies inside the beat section. -/
def Img.listFits (im : Bytes) (p : Nat) : Bool :=
  decide (Dir.first (Img.dir im p) + 12 * Dir.count (Img.dir im p) ≤ Img.beatLen im)

/-- Offsets of the beat entries of the lists that fit. -/
def Img.beatOffs (im : Bytes) : List Nat :=
  (List.range 64).flatMap fun p =>
    if Img.listFits im p then (List.range (Dir.count (Img.dir im p))).map (Img.beatAt im p) else []

/-- Reason 1. -/
def Img.format (im : Bytes) (length : Nat) : List Nat :=
  if field im 0 4 ≠ 0x31424C43 ∨ field im 4 2 ≠ 1 ∨ Img.len im ≠ length ∨ length < 128 ∨ Img.badLayout im then [0]
  else
    whole (Img.crc im != field im 124 4 || decide (Img.syncOffset im < -1000000) || decide (1000000 < Img.syncOffset im) ||
      !(zeros im 6 2) || bits (field im 18 1) 7 1 != 0 || !(zeros im 19 1) || !(zeros im 68 56)) ++
    failing im 16 (Img.portOffs im) (fun e => bits (field e 0 1) 7 1 != 0 || !(zeros e 5 11) ||
      (Port.enable e && (!(laneOk (Port.lane e)) || Port.versions e % 2 != 0 || 16 ≤ Port.versions e || Port.versions e == 0))) ++
    failing im 64 (Img.tileOffs im) (fun e => bits (field e 0 2) 15 14 != 0 || bits (field e 2 1) 7 6 != 0 ||
      bits (field e 12 1) 7 3 != 0 || bits (field e 13 1) 3 2 != 0 || bits (field e 14 2) 15 9 != 0 ||
      bits (field e 18 2) 15 2 != 0 || !(zeros e 26 2) || !(zeros e 48 16)) ++
    failing im 8 (Img.mirrorOffs im) (fun e => bits (field e 0 2) 15 14 != 0 || bit (field e 2 1) 7 || !(zeros e 4 4)) ++
    failing im 64 (Img.windowOffs im) (fun e => bits (field e 0 1) 7 3 != 0 || bits (field e 1 1) 7 3 != 0 ||
      bits (field e 2 2) 15 10 != 0 || !(zeros e 27 1) || !(zeros e 34 30)) ++
    failing im 32 (Img.colourOffs im) (fun e => !(zeros e 24 8)) ++
    failing im 16 (if Img.beatLen im < 1024 then [] else Img.dirOffs im)
      (fun e => bits (field e 6 1) 7 1 != 0 || !(zeros e 7 1) || !(zeros e 12 4)) ++
    failing im 12 (Img.beatOffs im) (fun e => bits (field e 8 2) 15 14 != 0 || !(zeros e 11 1))

/-! ### Reasons 2 to 6 -/

/-- Lamps covered by tiles (R10). -/
def Img.lamps (im : Bytes) : Nat := ((Img.tiles im).map fun e => Tile.w e * Tile.h e).sum

/-- Reason 2. -/
def Img.badRate (v : Variant) (im : Bytes) : List Nat :=
  whole (Img.den im == 0 || decide (Img.num im * 1001 < 24000 * Img.den im) || decide (240 * Img.den im < Img.num im) ||
    decide (v.lampRate * Img.den im < Img.lamps im * Img.num im))

/-- Two tile rectangles overlap (R129). -/
def Tile.overlaps (a b : Bytes) : Bool :=
  decide (Tile.x a < Tile.x b + Tile.w b) && decide (Tile.x b < Tile.x a + Tile.w a) &&
  decide (Tile.y a < Tile.y b + Tile.h b) && decide (Tile.y b < Tile.y a + Tile.h a)

/-- Reason 3. -/
def Img.badGeometry (im : Bytes) : List Nat :=
  whole (Img.w im % 8 != 0 || Img.h im % 2 != 0) ++
  (Img.tileOffs im).filter fun o =>
    let e := slice im o 64
    Tile.x e % 8 != 0 || Tile.y e % 2 != 0 || decide (Img.w im < Tile.x e + Tile.w e) || decide (Img.h im < Tile.y e + Tile.h e) ||
    decide (Tile.w e < 16) || decide (1024 < Tile.w e) || Tile.w e % 8 != 0 ||
    decide (Tile.h e < 16) || decide (1024 < Tile.h e) || Tile.h e % 2 != 0 ||
    Tile.emitters e == 0 || decide (4 < Tile.emitters e) || Tile.profile e == 3 ||
    (Img.tileOffs im).any fun q => q != o && Tile.overlaps e (slice im q 64)

/-- The port is present and enabled. -/
def Img.portOk (v : Variant) (im : Bytes) (p : Nat) : Bool := decide (p < v.ports) && Port.enable (Img.port im p)

/-- Port and position of every receiver, with the offset of its entry. -/
def Img.receivers (im : Bytes) : List (Nat × Nat × Nat) :=
  ((Img.tileOffs im).map fun o => (o, Tile.port (slice im o 64), Tile.pos (slice im o 64))) ++
  ((Img.mirrorOffs im).map fun o => (o, Mirror.port (slice im o 8), Mirror.pos (slice im o 8)))

/-- Entries whose port and position an earlier entry has. -/
def doubled : List (Nat × Nat × Nat) → List (Nat × Nat) → List Nat
  | [], _ => []
  | (o, p, q) :: rest, seen =>
    if seen.contains (p, q) then o :: doubled rest seen else doubled rest ((p, q) :: seen)

/-- Reason 4 (R131, R288): of a tile's mirrors, each on a port of its own. -/
def Img.badIdent (v : Variant) (im : Bytes) : List Nat :=
  whole (Img.nTiles im == 0 || decide (v.tiles < Img.nTiles im)) ++
  ((List.range 64).filter fun p =>
      let n := laneCount (laneClass (Port.lane (Img.port im p)))
      Port.enable (Img.port im p) && (decide (v.ports ≤ p) || p % n != 0 || decide (v.ports < p + n) ||
        (List.range (n - 1)).any fun i => Port.enable (Img.port im (p + 1 + i)))).map (fun p => Img.portOff im + 16 * p) ++
  ((List.range (Img.nTiles im)).filter fun i =>
      let e := Img.tileAt im i
      decide (v.tiles ≤ Tile.id e) || !(Img.portOk v im (Tile.port e)) ||
      (decide (0 < i) && decide (Tile.id e ≤ Tile.id (Img.tileAt im (i - 1))))).map (fun i => Img.tileOff im + 64 * i) ++
  failing im 8 (Img.mirrorOffs im) (fun e => decide (v.tiles ≤ Mirror.tile e) || !(Img.portOk v im (Mirror.port e))) ++
  doubled (Img.receivers im) [] ++
  ((List.range (Img.nMirrors im)).filter fun i =>
      let m := Img.mirrorAt im i
      ((Img.mirrors im).take i).any fun x => Mirror.tile x == Mirror.tile m && Mirror.port x == Mirror.port m).map
    fun i => Img.mirrorOff im + 8 * i

/-- Reason 5. -/
def Img.badMirror (im : Bytes) : List Nat :=
  (List.range (Img.nMirrors im)).filter (fun i =>
    let m := Img.mirrorAt im i
    (match Img.tile im (Mirror.tile m) with
     | none => true
     | some e => Tile.port e == Mirror.port m) ||
    decide (7 < (((Img.mirrors im).take (i + 1)).filter fun x => Mirror.tile x == Mirror.tile m).length)) |>.map
      fun i => Img.mirrorOff im + 8 * i

/-- The port cannot carry a profile (R289). -/
def Img.badProfileOn (im : Bytes) (p profile : Nat) : Bool :=
  let e := Img.port im p
  Port.versions e / 2 ^ (profile + 1) == 0 ||
  (profile == 2 && laneClass (Port.lane e) == 0 && decide (laneRate (Port.lane e) ≤ 3))

/-- Reason 6 (R192, R289). -/
def Img.badProfile (im : Bytes) : List Nat :=
  failing im 64 (Img.tileOffs im) (fun e => Img.badProfileOn im (Tile.port e) (Tile.profile e) ||
    (Tile.emitters e == 4 && Tile.profile e != 2)) ++
  failing im 8 (Img.mirrorOffs im) (fun m => match Img.tile im (Mirror.tile m) with
    | none => false
    | some e => Img.badProfileOn im (Mirror.port m) (Tile.profile e))

/-! ### Reason 7: REFERENCE (R168, R170, R218, R227) -/

/-- The gain map's header or index is wrong (R170). -/
def State.badGainMap (s : State) (e : Bytes) : Bool :=
  let a := Tile.gainAddr e
  if a = 0 then false
  else if !(s.inPrivate a (Tile.gainLen e)) ∨ Tile.gainLen e < 16 + 4 * Tile.rps e ∨ s.poisoned a (16 + 4 * Tile.rps e) then true
  else
    let m := s.dramBytes a (16 + 4 * Tile.rps e)
    let ix := fun j => field m (16 + 4 * j) 4
    field m 0 2 != 0x4D47 || field m 2 1 != 1 || field m 3 1 != Tile.emitters e || field m 4 2 != Tile.w e / 8 ||
    field m 6 2 != Tile.rps e || decide (Tile.gainLen e < field m 8 4) ||
    (List.range (Tile.rps e)).any fun j =>
      decide (ix j < 16 + 4 * Tile.rps e) || decide (field m 8 4 < ix j) || (decide (0 < j) && decide (ix j < ix (j - 1)))

/-- Reason 7. The slots of R227 are those of the active bank and of a new shadow. -/
def State.badReference (s : State) (im : Bytes) (live : Bool) : List Nat :=
  failing im 64 (Img.tileOffs im) (fun e =>
    decide (Img.nColours im ≤ Tile.colour e) || decide (s.variant.circuits ≤ Tile.circuit e) ||
    decide ((if Tile.profile e = 2 then 15 else 12) < Tile.fmin e) || s.badGainMap e) ++
  whole (!live && decide (s.fld Reg.MZE_REF_SIZE <
    match s.activeImg with
    | some a => Img.granules a + Img.extraGranules a im
    | none => Img.granules im))

/-! ### Reason 8: WINDOW (R153, R154) -/

/-- A crop size and window size give a ratio outside 1/8 to 8. -/
def ratioOut (d n : Nat) : Bool := n != 0 && (decide (8 * d < n) || decide (8 * n < d))

def Win.overlaps (a b : Bytes) : Bool :=
  decide (Win.x a < Win.x b + Win.w b) && decide (Win.x b < Win.x a + Win.w a) &&
  decide (Win.y a < Win.y b + Win.h b) && decide (Win.y b < Win.y a + Win.h a)

/-- LCAP (R154). -/
def Img.lcap (v : Variant) (im : Bytes) : Nat := v.pick 32 16 * 15 * (Img.period im * 4 / 5) / (16 * Img.h im)

/-- Reason 8. -/
def Img.badWindow (v : Variant) (im : Bytes) : List Nat :=
  let on := (List.range (Img.nWindows im)).map (Img.window im) |>.filter Win.enable
  failing im 64 [Img.convOff im] (fun e => !(zeros e 54 2) || !(zeros e 62 2)) ++
  whole (decide (256 < Img.nWindows im) || Img.nColours im == 0 ||
    on.any fun w => decide (Img.lcap v im < ((on.filter fun x =>
      decide (Win.y x ≤ Win.y w) && decide (Win.y w < Win.y x + Win.h x)).map Win.w).sum)) ++
  (Img.windowOffs im).filter fun o =>
    let e := slice im o 64
    (Win.enable e && (decide (Img.w im < Win.x e + Win.w e) || decide (Img.h im < Win.y e + Win.h e) || Win.w e == 0 || Win.h e == 0 ||
      (Img.windowOffs im).any fun q => q != o && Win.enable (slice im q 64) && Win.layer (slice im q 64) == Win.layer e &&
        Win.overlaps e (slice im q 64))) ||
    ratioOut (Win.w e) (Win.cropW e) || ratioOut (Win.h e) (Win.cropH e) ||
    Win.cropX e % 2 != 0 || Win.cropY e % 2 != 0 || Win.cropW e % 2 != 0 || Win.cropH e % 2 != 0 ||
    !([0, 1, 9, 11, 12].contains (Win.primaries e)) || !([0, 1, 6, 14, 15, 8, 16, 18].contains (Win.transfer e)) ||
    !([0xFF, 0, 1, 5, 6, 9].contains (Win.matrix e)) || decide (2 < Win.range e) || decide (2 < Win.filter e) ||
    decide (6 < Win.chromaLoc e) || decide (v.streams ≤ Win.stream e)

/-! ### Reason 9: BEAT (Table 13.4, R217, R290) -/

/-- The close time tc of a tile on a port is too late (Close). -/
def Img.badClose (im : Bytes) (p : Nat) (e : Bytes) : Bool :=
  let per := Img.period im
  match (Img.tileBeats im p (Tile.id e)).getLast? with
  | none => false
  | some b =>
    let tc := Dir.offset (Img.dir im p) + Beat.fin b * 1200000000000 / (Img.rate im p * 995)
    decide (99 * per / 100 + Tile.y e / 2 * per / Img.nrp im < tc + 6000)

/-- The port carries the tile as primary or as a mirror port. -/
def Img.serves (im : Bytes) (p t : Nat) : Bool :=
  (Img.tiles im).any (fun e => Tile.id e == t && Tile.port e == p) ||
  (Img.mirrors im).any fun m => Mirror.tile m == t && Mirror.port m == p

/-- Failing beats of a port: order, kind, length. -/
def Img.badBeats (im : Bytes) (p : Nat) : List Nat :=
  let bs := Img.beats im p
  (List.range bs.length).filter (fun i =>
    let b := bs.getD i []
    (decide (0 < i) && decide (Beat.start b < Beat.fin (bs.getD (i - 1) []))) || decide (1 < Beat.kind b) ||
    decide (Beat.len b < 256) || (Beat.kind b == 1 && field b 8 2 != 0) ||
    (Beat.kind b == 0 && !(Img.serves im p (Beat.tile b)))) |>.map (Img.beatAt im p)

/-- The beat list of a port overlaps the directory or another port's. -/
def Img.listClash (im : Bytes) (p : Nat) : Bool :=
  let f := Dir.first (Img.dir im p)
  let n := 12 * Dir.count (Img.dir im p)
  n != 0 && (decide (f < 1024) || f % 4 != 0 || !(Img.listFits im p) ||
    (List.range 64).any fun q => q != p && Dir.count (Img.dir im q) != 0 &&
      decide (Dir.first (Img.dir im q) < f + n) && decide (f < Dir.first (Img.dir im q) + 12 * Dir.count (Img.dir im q)))

/-- A directory entry that fails. -/
def Img.badDir (v : Variant) (im : Bytes) (p : Nat) : Bool :=
  let d := Img.dir im p
  let per := Img.period im
  let bs := Img.beats im p
  Img.listClash im p || (Dir.count d != 0 && !(Img.portOk v im p)) || decide (4096 < Dir.count d) ||
  decide (per / 2 < Dir.offset d) ||
  (match bs.getLast? with
   | some b => decide (per * Img.rate im p * 985 / 1200000000000 < Beat.fin b)
   | none => false) ||
  (Img.portOk v im p && !(bs.any fun b => Beat.kind b == 1 && decide (4096 + Img.k im p ≤ Beat.len b))) ||
  (Img.portOk v im p && laneClass (Port.lane (Img.port im p)) == 0 && decide (Port.overhead (Img.port im p) < 4))

/-- Reason 9. -/
def Img.badBeat (v : Variant) (im : Bytes) : List Nat :=
  if Img.beatLen im < 1024 then [0]
  else
    ((List.range 64).filter (Img.badDir v im)).map (fun p => Img.beatOff im + 16 * p) ++
    ((List.range 64).filter fun p => Img.listFits im p).flatMap (Img.badBeats im) ++
    (Img.tileOffs im).filter fun o =>
      let e := slice im o 64
      decide (Img.budget im e < 16 + Tile.rps e * fcost (Tile.w e) (Tile.emitters e) (Tile.floorMin e)) ||
      Img.badClose im (Tile.port e) e ||
      (Img.mirrors im).any fun m => Mirror.tile m == Tile.id e && Img.badClose im (Mirror.port m) e

/-! ### Reason 10: LIVE (R142) -/

/-- Byte `i` belongs to no field: between sections, or between the lists of the beat section. -/
def Img.noField (im : Bytes) (i : Nat) : Bool :=
  let inside := fun off n => decide (off ≤ i) && decide (i < off + n)
  !(decide (i < 128) || inside (Img.portOff im) 1024 || inside (Img.tileOff im) (64 * Img.nTiles im) ||
    inside (Img.mirrorOff im) (8 * Img.nMirrors im) || inside (Img.windowOff im) (64 * Img.nWindows im) ||
    inside (Img.colourOff im) (32 * Img.nColours im) || inside (Img.convOff im) 26688 || inside (Img.beatOff im) 1024 ||
    (Img.beatOffs im).any fun o => inside o 12)

/-- The bits of byte `i` of an image that a live edit may change, or that it does not have to match. -/
def Img.liveMask (im : Bytes) (i : Nat) : Byte :=
  let inside := fun off size n => decide (off ≤ i) && decide (i < off + size * n)
  if decide (124 ≤ i) && decide (i < 128) then 0xFF
  else if inside (Img.tileOff im) 64 (Img.nTiles im) then (if (i - Img.tileOff im) % 64 = 18 then 2 else 0)
  else if inside (Img.mirrorOff im) 8 (Img.nMirrors im) then (if (i - Img.mirrorOff im) % 8 = 2 then 0x40 else 0)
  else if inside (Img.windowOff im) 64 (Img.nWindows im) || inside (Img.colourOff im) 32 (Img.nColours im) then 0xFF
  else if inside (Img.beatOff im) 16 64 then (if (i - Img.beatOff im) % 16 = 6 then 1 else 0)
  else if (Img.beatOffs im).any fun o => decide (o ≤ i) && decide (i < o + 8) then 0xFF
  else if Img.noField im i then 0xFF
  else 0

/-- The entry that holds byte `i`; the header, 0, and any other section count as a whole. -/
def Img.entryOf (im : Bytes) (i : Nat) : Nat :=
  let entry := fun off size n => if decide (off ≤ i) && decide (i < off + size * n) then some (i - (i - off) % size) else none
  (entry (Img.tileOff im) 64 (Img.nTiles im) <|> entry (Img.mirrorOff im) 8 (Img.nMirrors im) <|>
   entry (Img.portOff im) 16 64 <|> entry (Img.beatOff im) 16 64 <|>
   ((Img.beatOffs im).find? fun o => decide (o ≤ i) && decide (i < o + 12)) <|> entry (Img.convOff im) 26688 1).getD 0

/-- Reason 10: fields that are not live and differ from the active image. -/
def State.badLive (s : State) (im : Bytes) : List Nat :=
  match s.activeImg with
  | none => [0]
  | some a =>
    if a.length ≠ im.length then [0]
    else (((a.zip im).zipIdx.filter fun e => (e.1.1 ^^^ e.1.2) &&& ~~~(Img.liveMask a e.2) != 0).map fun e => Img.entryOf a e.2)

/-! ### All the checks -/

/-- The failing offsets of each reason, in order. -/
def State.checks (s : State) (im : Bytes) (length : Nat) (live : Bool) : List (List Nat) :=
  [Img.format im length, Img.badRate s.variant im, Img.badGeometry im, Img.badIdent s.variant im, Img.badMirror im,
   Img.badProfile im, s.badReference im live, Img.badWindow s.variant im, Img.badBeat s.variant im,
   if live then s.badLive im else []]

/-- The lowest reason that fails, with the first failing entry in image order. -/
def firstReason : List (List Nat) → Nat → Option (Nat × Nat)
  | [], _ => none
  | [] :: rest, n => firstReason rest (n + 1)
  | (o :: os) :: _, n => some (n, os.foldl min o)

/-- What CALIBRE_WRITE finds wrong with an image (R133, Table 6.6). -/
def State.checkImage (s : State) (im : Bytes) (length : Nat) (live : Bool) : Option (Nat × Nat) :=
  match Img.format im length with
  | o :: os => some (1, os.foldl min o)
  | [] => firstReason (s.checks im length live) 1

/-- The image as CALIBRE_READ and a save give it: LAT_UNBOUND filled in, CRC32 recomputed (R138). -/
def Img.readBack (im : Bytes) (lat : List Nat) : Bytes :=
  let marked := ((List.range (Img.nTiles im)).filter fun i => lat.contains (Tile.id (Img.tileAt im i))).foldl
    (fun b i => b.modify (Img.tileOff im + 64 * i + 18) (· ||| 4)) im
  marked.take 124 ++ leBytes (Img.crc marked) 4 ++ marked.drop 128

end Sys2Proof.Machine
end

