-- ==== Sys2Proof/Machine/Sequencer.lean ====
section
/-! DEFINITION. The microcode sequencer of an escapement (15_escapements_and_regulators.md, R316-R324): its words, one
cycle of it, and the stop and fault requests. -/

namespace Sys2Proof.Machine

/-- Table 15.1: block and page of an escapement, by kind and index; none where the variant has none. -/
def escPlace (v : Variant) (kind i : Nat) : Option (Nat × Nat) :=
  match kind with
  | 1 => if i < v.decCores then some (Blk.dec, i / 8) else none
  | 2 => if i < v.encCores then some (Blk.enc, i) else none
  | 3 => if i < v.mzeCores then some (Blk.mze, i / 8) else none
  | 4 => if i = 0 then some (Blk.cnv, 0) else none
  | 5 => if i = 0 then some (Blk.drv, 0) else none
  | 6 => if 16 * i < v.dmaChannels then some (Blk.dma, i) else none
  | _ => none

/-- Escapements of a kind on the variant (Table 15.1). -/
def escCount (v : Variant) (kind : Nat) : Nat :=
  match kind with
  | 1 => v.decCores
  | 2 => v.encCores
  | 3 => v.mzeCores
  | 4 => 1
  | 5 => 1
  | 6 => (v.dmaChannels + 15) / 16
  | _ => 0

/-- Period of the engine's clock, in time units (R318, Table 20.4). -/
def escClock (kind : Nat) : Nat := if kind ≤ 3 then Clk.cclk else if kind = 6 then Clk.uclk else Clk.pclk

/-- The number of an escapement in the table. -/
def escKey (kind i : Nat) : Nat := 64 * kind + i

def State.esc_ (s : State) (kind i : Nat) : Escapement := Tab.get {} s.esc.units (escKey kind i)

def State.setEsc (s : State) (kind i : Nat) (x : Escapement) : State :=
  { s with esc := { s.esc with units := Tab.set s.esc.units (escKey kind i) x } }

/-- The escapement has an image and is not halted: its engine can run (R324, R329). -/
def State.escOk (s : State) (kind i : Nat) : Bool :=
  (s.esc_ kind i).image.isSome && !(s.esc_ kind i).halted

/-- A stop request (`stop`) or a fault request arises in an escapement (R322). An idle one has no routine to stop. -/
def State.escRequest (s : State) (kind i : Nat) (stop : Bool) : State :=
  let x := s.esc_ kind i
  if x.routine.isNone then s
  else s.setEsc kind i { x with stop := x.stop || stop, fault := x.fault || !stop
                                reqAt := if x.stop || x.fault then x.reqAt else s.now }

/-- The escapement adopts the current image of its kind at its engine's reset (R327). -/
def State.escAdopt (s : State) (kind i : Nat) : State :=
  s.setEsc kind i { image := if Tab.has s.esc.cur kind then some (Tab.get 0 s.esc.cur kind) else none }

/-- Every escapement of a kind adopts the current image (W4). -/
def State.escAdoptAll (s : State) (kind : Nat) : State :=
  (List.range (escCount s.variant kind)).foldl (fun t i => t.escAdopt kind i) s

/-- A new current image of a kind. -/
def State.escInstall (s : State) (kind : Nat) (im : EscImage) : State :=
  let n := s.esc.nextImage
  { s with esc := { s.esc with images := Tab.set s.esc.images n im, nextImage := n + 1, cur := Tab.set s.esc.cur kind n } }

/-! ### Words (R317-R320) -/

/-- Word `a` of an image. -/
def EscImage.word (im : EscImage) (a : Nat) : Nat :=
  if im.recovery then (Config.recoveryWord a).toNat else field im.words (24 * a) 24

/-- PAR matches (R317): bit i is the even parity of bits i, i + 8, ... of bits 183 to 0. -/
def parityOk (w : Nat) : Bool :=
  (List.range 8).all fun i => ((List.range 23).map fun k => bits w (i + 8 * k) (i + 8 * k)).sum % 2 == bits w (184 + i) (184 + i)

def Word.next (w : Nat) : Nat := bits w 139 128
def Word.seq (w : Nat) : Nat := bits w 142 140
def Word.safe (w : Nat) : Bool := bit w 143
def Word.csel (w k : Nat) : Nat := bits w (149 + 6 * k) (144 + 6 * k)
def Word.wcond (w : Nat) : Nat := bits w 173 168
def Word.wpol (w : Nat) : Bool := bit w 174
def Word.tmo (w : Nat) : Nat := bits w 179 175
def Word.tflt (w : Nat) : Bool := bit w 180

/-- Condition `c` as the escapement samples it: 0 and 1 are constants, 2 and 3 its requests, the others the engine's. -/
def Escapement.cond (x : Escapement) (engine : BitVec 64) (c : Nat) : Bool :=
  match c with
  | 0 => false
  | 1 => true
  | 2 => x.stop
  | 3 => x.fault
  | _ => bit engine.toNat c

/-- Target of BRANCH and CALL (R319). -/
def Escapement.target (x : Escapement) (engine : BitVec 64) (w : Nat) : Nat :=
  Word.next w ||| ((List.range 4).map fun k => b2n (x.cond engine (Word.csel w k)) * 2 ^ k).sum

/-- How one cycle ends. -/
inductive EscEnd where
  | goes (x : Escapement)
  | exits (x : Escapement)
  | parity
  deriving DecidableEq, Repr

/-- One cycle of a running escapement with the conditions sampled at its start (R318-R322, R324). -/
def Escapement.cycle (x : Escapement) (r w : Nat) (engine : BitVec 64) : EscEnd :=
  let inc := (x.pc + 1) % 4096
  if !parityOk w then .parity
  else if Word.safe w ∧ (x.stop ∨ x.fault) then .goes { x with pc := 2 * r + 1, stack := [], timedOut := false }
  else match Word.seq w with
    | 0 => .goes { x with pc := inc }
    | 1 => .goes { x with pc := Word.next w }
    | 2 => .goes { x with pc := x.target engine w }
    | 3 => if 4 ≤ x.stack.length then .parity else .goes { x with pc := x.target engine w, stack := inc :: x.stack }
    | 4 => match x.stack with
      | a :: rest => .goes { x with pc := a, stack := rest }
      | [] => .parity
    | 5 => if x.cond engine (Word.wcond w) = Word.wpol w then .goes { x with pc := inc, timedOut := false } else .goes x
    | 6 => .exits { x with routine := none, pc := 0, stack := [], timedOut := false, stop := false, fault := false, safe := false }
    | _ => .parity

/-- The cycles of a list of samples, up to EXIT or a parity error. -/
def Escapement.cycles (x : Escapement) (im : EscImage) (r : Nat) : List (BitVec 64) → EscEnd
  | [] => .goes x
  | c :: cs => match x.cycle r (im.word x.pc) c with
    | .goes y => Escapement.cycles y im r cs
    | e => e

/-- The image that an escapement holds. -/
def State.escImage (s : State) (x : Escapement) : EscImage :=
  match x.image with
  | some n => Tab.get {} s.esc.images n
  | none => {}

end Sys2Proof.Machine
end

