-- ==== Sys2Proof/Machine/Session.lean ====
section
/-! DEFINITION. Encode sessions as other blocks meet them (11_monitor_and_relay_encoding.md): their records, their events, and the
state of the stream a session takes its pictures from (R240). -/

namespace Sys2Proof.Machine

def State.ses (s : State) (e : Nat) : EncSession := Tab.get {} s.enc.sessions e

def State.setSes (s : State) (e : Nat) (x : EncSession) : State :=
  { s with enc := { s.enc with sessions := Tab.set s.enc.sessions e x } }

/-- An encode event, to the RNG_EVQ of the session's output ring (Table 11.4). -/
def State.encEvent (s : State) (e code : Nat) (args : List Nat) : State :=
  let r := s.ring (s.ses e).outRing
  s.eventTo r.evqRing r.evqEn code Blk.enc e args

/-- The source stream of a RUNNING session is in state `st`: ENC_SOURCE is raised once while it is not RUNNING, and the first picture
after it resumes is a key picture (R240). -/
def State.encSource (s : State) (e st : Nat) : State :=
  let x := s.ses e
  if x.state ≠ 1 ∨ !x.isStream then s
  else if st = 2 then (if x.sourceDown then s.setSes e { x with sourceDown := false, needKey := true } else s)
  else if x.sourceDown then s
  else (s.setSes e { x with sourceDown := true, needKey := true }).encEvent e 0x0B02 [x.stream, st, 0]

/-- A stream changes its state: the sessions that relay it see it. -/
def State.encSources (s : State) (st new : Nat) : State :=
  (s.enc.sessions.filter fun e => e.2.isStream && e.2.stream == st).foldl (fun t e => t.encSource e.1 new) s

end Sys2Proof.Machine
end

