-- ==== Sys2Proof/Machine/Meter.lean ====
section
/-! DEFINITION. Ingest meters (03_rings_and_jobs.md R74, R75). -/

namespace Sys2Proof.Machine

/-! ### Meters (R74, R75) -/

def State.meter (s : State) (m : Nat) : Meter := Tab.get {} s.rng.meters m

def State.setMeter (s : State) (m : Nat) (x : Meter) : State :=
  { s with rng := { s.rng with meters := Tab.set s.rng.meters m x } }

/-- Tokens of one byte. -/
abbrev tokens : Nat := 6400000

/-- The time in UCLK cycles. -/
def State.uclk (s : State) : Nat := s.now / Clk.uclk

/-- The buckets filled up to `now` (R74); `fill` of MODE 1 is a u64 and wraps (R6). -/
def Meter.fill (m : Meter) (now : Nat) : Meter :=
  let dt := now - m.last
  if m.mode = 0 then
    { m with last := now, tc := min (m.tc + m.cir * dt) (m.cbs * tokens), tp := min (m.tp + m.pir * dt) (m.pebs * tokens) }
  else
    let fill := m.cir * dt % 2 ^ 64
    let room := m.cbs * tokens - m.tc
    if fill ≤ room then { m with last := now, tc := m.tc + fill }
    else { m with last := now, tc := m.cbs * tokens, te := min (m.te + fill - room) (m.pebs * tokens) }

/-- meter_packet (R74): 0 green, 1 yellow, 2 red. -/
def Meter.colour (m : Meter) (bytes now : Nat) : Nat × Meter :=
  let m := m.fill now
  let b := bytes * tokens
  if m.mode = 0 then
    if m.tp < b then (2, m)
    else if m.tc < b then (1, { m with tp := m.tp - b })
    else (0, { m with tp := m.tp - b, tc := m.tc - b })
  else if b ≤ m.tc then (0, { m with tc := m.tc - b })
  else if b ≤ m.te then (1, { m with te := m.te - b })
  else (2, m)

/-- Counts a packet in its meter's colour register. -/
def Meter.counted (m : Meter) (c : Nat) : Meter :=
  if c = 0 then { m with green := wrap 32 (m.green + 1) }
  else if c = 1 then { m with yellow := wrap 32 (m.yellow + 1) }
  else { m with red := wrap 32 (m.red + 1) }

end Sys2Proof.Machine
end

