-- ==== Sys2Proof/Machine/Streams.lean ====
section
/-! DEFINITION. Streams (04_stream_decoding.md, 05_reference_store_and_concealment.md): admission, the access unit
sequence, the dispatcher's queue, and the stream commands. -/

namespace Sys2Proof.Machine

def State.stream (s : State) (st : Nat) : StreamRec := Tab.get {} s.dec.streams st

def State.setStream (s : State) (st : Nat) (x : StreamRec) : State :=
  { s with dec := { s.dec with streams := Tab.set s.dec.streams st x } }

def State.pic (s : State) (n : Nat) : Picture := Tab.get {} s.dec.pics n

def State.setPic (s : State) (n : Nat) (p : Picture) : State :=
  { s with dec := { s.dec with pics := Tab.set s.dec.pics n p } }

/-- Every picture changed by a function of its number. -/
def State.mapPics (s : State) (f : Nat → Picture → Picture) : State :=
  { s with dec := { s.dec with pics := s.dec.pics.map fun e => (e.1, f e.1 e.2) } }

/-- The pictures that a test of number and record keeps. -/
def State.keepPics (s : State) (f : Nat → Picture → Bool) : State :=
  { s with dec := { s.dec with pics := s.dec.pics.filter fun e => f e.1 e.2 } }

/-- Every stream changed by a function of its number. -/
def State.mapStreams (s : State) (f : Nat → StreamRec → StreamRec) : State :=
  { s with dec := { s.dec with streams := s.dec.streams.map fun e => (e.1, f e.1 e.2) } }

/-- Every ring changed by a function. -/
def State.mapRings (s : State) (f : Ring → Ring) : State :=
  { s with rng := { s.rng with rings := s.rng.rings.map fun e => (e.1, f e.2) } }

def State.core (s : State) (c : Nat) : DecCore := Tab.get {} s.dec.cores c

def State.setCore (s : State) (c : Nat) (x : DecCore) : State :=
  { s with dec := { s.dec with cores := Tab.set s.dec.cores c x } }

/-- The pictures of a stream by number, in decode order; none of before its last close. -/
def State.picsOf (s : State) (st : Nat) : List (Nat × Picture) := s.dec.pics.filter fun e => e.2.stream == st && !e.2.closed

/-- Picture `p` comes before `q` in output order. -/
def Picture.before (p q : Picture) : Bool :=
  decide (p.epoch < q.epoch) || (p.epoch == q.epoch && decide (p.info.order < q.info.order))

/-! ### Planning figures (R85, R100) -/

def w6 (chroma : Nat) : Nat := if chroma = 2 then 8 else if chroma = 3 then 12 else 6

/-- load_ms (R85), Msample/s rounded up. -/
def StreamArgs.load (a : StreamArgs) : Nat := (a.maxWidth * a.maxHeight * w6 a.chroma * a.rateMhz + 5999999999) / 6000000000

/-- recon (R100): reconstruction cycles of luma samples at a weight. -/
def recon (luma wt : Nat) : Nat := (luma * wt * 2 + 4) / 5

/-- entropy (R100): entropy decoding cycles of coded bits. -/
def entropyCost (n : Nat) : Nat := (n * 3 + 1) / 2

/-- plan (R100): the planned cycles of a picture on `n` cores. -/
def plan (luma wt nbits n units : Nat) : Nat :=
  max ((recon luma wt + n - 1) / n) ((entropyCost nbits + n - 1) / n) + 6000 * ((units + n - 1) / n)

/-- margin (R100): a planned time with DEC_BIND_MARGIN added, rounded up. -/
def State.margin (s : State) (c : Nat) : Nat := (c * (100 + s.fld Reg.DEC_BIND_MARGIN_PCT) + 99) / 100

/-- The margined planning time t of a stream's largest picture, CCLK cycles (R85). -/
def State.planTime (s : State) (a : StreamArgs) : Nat :=
  let n := min a.coresMax a.substreams
  s.margin (plan (a.maxWidth * a.maxHeight) (w6 a.chroma) (4 * a.maxKbps * 1000000 / a.rateMhz) n a.substreams)

/-- A core of the variant whose page is enabled, whose domain is ON and that is not OFFLINE. -/
def State.coreOnline (s : State) (c : Nat) : Bool :=
  decide (c < s.variant.decCores) && s.pageEnabled Blk.dec (c / 8) && s.domOn (c / 8) && !(s.core c).offline

def State.coresOnline (s : State) : List Nat := (List.range s.variant.decCores).filter s.coreOnline

/-- Live capacity (R85). -/
def State.liveCap (s : State) : Nat :=
  (s.coresOnline.length - s.fld Reg.DEC_ADMIT_STORED_MAX) * 500 * s.fld Reg.DEC_ADMIT_LIVE_PCT / 100

/-- T of R85: the period of the active calibre, or the 240 Hz period. -/
def State.admitPeriod (s : State) : Nat := if s.clb.activeValid then s.fld Reg.CLB_PERIOD else 5000000

def StreamArgs.live (a : StreamArgs) : Bool := decide (a.cls < 4)

/-- The admission test (R85): 0 or the reason. -/
def State.admission (s : State) (a : StreamArgs) : Nat :=
  if 800000 * min a.coresMax a.substreams < a.maxKbps then 3
  else if 4 ≤ a.cls then 0
  else if s.liveCap < s.fld Reg.DEC_LOAD_LIVE + a.load then 1
  else if s.admitPeriod < s.planTime a then 2
  else 0

/-! ### Memory reservation (R114) -/

/-- Container bytes B (R108). -/
def StreamArgs.b (a : StreamArgs) : Nat := if a.bitdepth = 10 then 2 else 1

def StreamArgs.cw (a : StreamArgs) : Nat := if a.chroma = 3 then 4 else a.chroma

def picPlain (w h cw b : Nat) : Nat := (w + 63) / 64 * 64 * ((h + 15) / 16 * 16) * b * (2 + cw) / 2

def picComp (w h cw b : Nat) : Nat := picPlain w h cw b + picPlain w h cw b / (128 * b)

def gran (n : Nat) : Nat := (n + 65535) / 65536

/-- Granules of a pinned slot, and of an ordinary one. -/
def StreamArgs.gp (a : StreamArgs) : Nat := gran (picPlain a.maxWidth a.maxHeight a.cw a.b)
def StreamArgs.go (a : StreamArgs) : Nat :=
  if a.rfsMode % 2 = 1 then gran (picComp a.maxWidth a.maxHeight a.cw a.b) else a.gp

/-- Ordinary slots. -/
def StreamArgs.slots (a : StreamArgs) : Nat := a.dpbPics + 1 + a.holdPics - a.pinSlots

def StreamArgs.reserve (a : StreamArgs) : Nat := a.pinSlots * a.gp + a.slots * a.go

/-- RFS_FREE: granules of the region that no stream has reserved; 0 while the region does not lie wholly in the device-private
region (R115, R116). -/
def State.rfsFree (s : State) : Nat :=
  let n := s.fld Reg.RFS_REGION_SIZE
  if s.inPrivate (s.fld Reg.RFS_REGION_BASE * 65536) (n * 65536) then n - (s.dec.streams.map fun e => e.2.granules).sum else 0

/-- The first `need` granules from `g` on, of `size`, that no run of granules holds, as runs; `fuel` is more than twice the number of
runs. Which granules a reservation takes is left open (R115): the lowest (DESIGN CHOICE, log 126). -/
def freeRuns (used : List (Nat × Nat)) (size : Nat) : Nat → Nat → Nat → List (Nat × Nat)
  | 0, _, _ => []
  | fuel + 1, need, g =>
    if need = 0 ∨ size ≤ g then []
    else match used.find? fun r => decide (r.1 ≤ g) && decide (g < r.1 + r.2) with
      | some r => freeRuns used size fuel need (r.1 + r.2)
      | none =>
        let stop := (used.filter fun r => decide (g < r.1)).foldl (fun m r => min m r.1) size
        let k := min need (stop - g)
        (g, k) :: freeRuns used size fuel (need - k) (g + k)

/-- The granules that a new reservation takes. -/
def State.newRuns (s : State) (need : Nat) : List (Nat × Nat) :=
  let used := s.dec.streams.flatMap fun e => e.2.runs
  freeRuns used (s.fld Reg.RFS_REGION_SIZE) (2 * used.length + 3) need 0

/-! ### Levels of the standards (R77, R84; the standards' own tables, log 20) -/

/-- The integer square root of `n` from its `k` lowest binary digits on, `r` holding the digits above. -/
def rootFrom (n : Nat) : Nat → Nat → Nat
  | 0, r => r
  | k + 1, r => rootFrom n k (if (r + 2 ^ k) * (r + 2 ^ k) ≤ n then r + 2 ^ k else r)

/-- The integer square root of a number below 2^40. -/
def root (n : Nat) : Nat := rootFrom n 20 0

/-- The largest luma picture and the largest width and height of a level; none for a value that is no level. -/
def levelLimit (codec level : Nat) : Option (Nat × Nat × Nat) :=
  let sq := fun n => some (n, root (8 * n), root (8 * n))
  let av := fun n w h => some (n, w, h)
  if codec = 1 then
    match level with
    | 30 => sq 36864 | 60 => sq 122880 | 63 => sq 245760 | 90 => sq 552960 | 93 => sq 983040
    | 120 => sq 2228224 | 123 => sq 2228224 | 150 => sq 8912896 | 153 => sq 8912896 | 156 => sq 8912896
    | 180 => sq 35651584 | 183 => sq 35651584 | 186 => sq 35651584 | _ => none
  else if codec = 2 then
    match level with
    | 0 => av 147456 2048 1152 | 1 => av 278784 2816 1584 | 4 => av 665856 4352 2448 | 5 => av 1065024 5504 3096
    | 8 => av 2359296 6144 3456 | 9 => av 2359296 6144 3456 | 12 => av 8912896 8192 4352 | 13 => av 8912896 8192 4352
    | 14 => av 8912896 8192 4352 | 15 => av 8912896 8192 4352 | 16 => av 35651584 16384 8704
    | 17 => av 35651584 16384 8704 | 18 => av 35651584 16384 8704 | 19 => av 35651584 16384 8704 | _ => none
  else if codec = 3 then
    let mb := fun n => some (n * 256, root (8 * n) * 16, root (8 * n) * 16)
    match level with
    | 9 => mb 99 | 10 => mb 99 | 11 => mb 396 | 12 => mb 396 | 13 => mb 396 | 20 => mb 396 | 21 => mb 792
    | 22 => mb 1620 | 30 => mb 1620 | 31 => mb 3600 | 32 => mb 5120 | 40 => mb 8192 | 41 => mb 8192 | 42 => mb 8704
    | 50 => mb 22080 | 51 => mb 36864 | 52 => mb 36864 | 60 => mb 139264 | 61 => mb 139264 | 62 => mb 139264 | _ => none
  else if codec = 4 then
    match level with
    | 16 => sq 36864 | 32 => sq 122880 | 35 => sq 245760 | 48 => sq 552960 | 51 => sq 983040 | 64 => sq 2228224
    | 67 => sq 2228224 | 80 => sq 8912896 | 83 => sq 8912896 | 86 => sq 8912896 | 96 => sq 35651584
    | 99 => sq 35651584 | _ => none
  else none

/-- MaxDpbMbs of an H.264 level (log 20). -/
def maxDpbMbs (level : Nat) : Nat :=
  if level ≤ 10 then 396 else if level = 11 then 900 else if level ≤ 20 then 2376 else if level = 21 then 4752
  else if level ≤ 30 then 8100 else if level = 31 then 18000 else if level = 32 then 20480 else if level ≤ 41 then 32768
  else if level = 42 then 34816 else if level = 50 then 110400 else if level ≤ 52 then 184320 else 696320

/-- The largest decoded picture buffer of the standard (DPB_PICS = 0, Table 5.2; log 20). -/
def maxDpb (codec level w h : Nat) : Nat :=
  let n := ((levelLimit codec level).map (·.1)).getD 0
  let p := w * h
  if codec = 1 then
    if 4 * p ≤ n then 16 else if 2 * p ≤ n then 12 else if 4 * p ≤ 3 * n then 8 else 6
  else if codec = 4 then
    if 2 * p ≤ n then 16 else if 3 * p ≤ 2 * n then 12 else 8
  else if codec = 3 then min 16 (maxDpbMbs level / max 1 ((w + 15) / 16 * ((h + 15) / 16)))
  else 8

/-! ### STREAM_OPEN (Tables 4.1, 4.3, 5.2) -/

/-- The row of Table 4.1 for codec and profile allows the chroma format and bit depth. -/
def formatOk (codec profile chroma depth : Nat) : Bool :=
  let d := depth == 8 || depth == 10
  match codec, profile with
  | 1, 1 => chroma == 1 && depth == 8
  | 1, 2 => chroma == 1 && d
  | 1, 3 => decide (chroma ≤ 2) && d
  | 1, 4 => decide (chroma ≤ 3) && d
  | 2, 1 => decide (chroma ≤ 1) && d
  | 2, 2 => (decide (chroma ≤ 1) || chroma == 3) && d
  | 3, 1 => decide (chroma ≤ 1) && depth == 8
  | 3, 2 => decide (chroma ≤ 1) && d
  | 3, 3 => decide (chroma ≤ 2) && d
  | 4, 1 => decide (chroma ≤ 1) && d
  | _, _ => false

/-- The arguments of STREAM_OPEN, with the defaults of Table 5.2. -/
def streamArgs (e : Bytes) : StreamArgs :=
  let m := field e 13 1
  let f := field e 14 1
  let r := field e 32 1
  { codec := field e 10 1, profile := field e 11 1, level := field e 12 1, cls := bits m 2 0, rowChain := bit m 3
    catchup := bit m 4, xlevel := bit m 5, timingFrame := bit m 6, noGrain := bit m 7, chroma := bits f 1 0
    bitdepth := bits f 7 4, coresMax := field e 15 1, maxWidth := field e 16 2, maxHeight := field e 18 2
    rateMhz := field e 20 4, maxKbps := field e 24 4, substreams := field e 28 2, pace := field e 30 1
    rfsMode := bits r 1 0, keepPinned := bit r 2, hideConcealed := bit r 3, seqCheck := bit r 4
    pinSlots := field e 33 1, pinMask := field e 34 1
    dpbPics := if field e 35 1 = 0 then maxDpb (field e 10 1) (field e 12 1) (field e 16 2) (field e 18 2)
               else field e 35 1
    holdPics := if field e 36 1 = 0 then 2 else field e 36 1
    reorderWin := field e 37 1 }

/-- The level is defined and the dimensions are within it, or within the limits of R81 under XLEVEL. -/
def levelOk (a : StreamArgs) : Bool :=
  if a.xlevel then
    ((a.codec == 1 && a.level == 255) || (a.codec == 2 && a.level == 31)) && decide (a.maxWidth ≤ 32768) &&
    decide (a.maxHeight ≤ 16384) && a.maxWidth % 8 == 0 && a.maxHeight % 8 == 0
  else
    match levelLimit a.codec a.level with
    | none => false
    | some (n, w, h) => decide (a.maxWidth * a.maxHeight ≤ n) && decide (a.maxWidth ≤ w) && decide (a.maxHeight ≤ h)

/-- PACE is in range for class and timing (R84). -/
def paceOk (live timingFrame : Bool) (pace : Nat) : Bool :=
  if live || timingFrame then pace == 0 else decide (1 ≤ pace) && decide (pace ≤ 255)

def popcount (v : Nat) : Nat := ((List.range 32).filter (bit v)).length

/-- The argument checks of R84 and R112 pass. -/
def openOk (v : Variant) (e : Bytes) : Bool :=
  let a := streamArgs e
  formatOk a.codec a.profile a.chroma a.bitdepth && levelOk a && (!a.xlevel || a.codec == 1 || a.codec == 2) &&
  !(a.rowChain && (a.codec == 3 || !a.live)) && paceOk a.live a.timingFrame a.pace &&
  a.maxWidth != 0 && a.maxHeight != 0 && a.coresMax != 0 && a.rateMhz != 0 && a.substreams != 0 &&
  decide (a.coresMax ≤ v.decCores) &&
  (if a.rfsMode < 2 then a.pinSlots == 0 else decide (1 ≤ a.pinSlots) && decide (a.pinSlots ≤ 8) &&
    decide (a.pinSlots ≤ a.dpbPics)) &&
  (if a.codec = 2 ∧ 2 ≤ a.rfsMode then decide (popcount a.pinMask ≤ a.pinSlots) else a.pinMask == 0) &&
  decide (field e 35 1 ≤ 16) && (!a.xlevel || field e 35 1 != 0) && decide (field e 36 1 ≤ 4) &&
  decide (a.reorderWin ≤ 15) && (a.seqCheck || a.reorderWin == 0)

/-! ### State changes and losses -/

/-- A stream changes state and raises STREAM_STATE (R88); the encode sessions that relay it see the change (R240). -/
def State.streamTo (s : State) (st new cause : Nat) : State :=
  let x := s.stream st
  ((s.setStream st { x with state := new }).streamEvent st Blk.dec 0x0101 [new, x.state, cause]).encSources st new

/-- Gives decode input buffers back (owner DEC_IN). -/
def State.freeBufs (s : State) (bufs : List Nat) : State := bufs.foldl (fun t b => (t.poolFree 2 b).2) s

/-- Lost access units of causes 1 to 3 (Table 5.3, R119): before the first random access point they count only. Each loss makes AV1
reference slots stale (R120): a picture carries the number of losses before it. -/
def State.unitsLost (s : State) (st cause first n : Nat) : State :=
  let x := s.stream st
  let s1 := s.setStream st { x with lostUnits := wrap 32 (x.lostUnits + n), losses := x.losses + 1 }
  if x.state = 1 then s1 else s1.streamEvent st Blk.rfs 0x0111 [cause, first, n]

/-- An access unit that is not decoded (R80): cause 4. -/
def State.notDecoded (s : State) (st reason : Nat) (u : AccessUnit) : State :=
  let x := s.stream st
  let s1 := (s.setStream st { x with lostUnits := wrap 32 (x.lostUnits + 1), unsupported := wrap 32 (x.unsupported + 1)
                                     undecRun := true, losses := x.losses + 1 }).freeBufs u.bufs
  if x.undecRun then s1 else s1.streamEvent st Blk.dec 0x0102 [reason, u.auSeq]

/-- The unit uses what Table 4.2 marks Unsupported for its codec (R79). Other syntax of the table is ignored, or is data that is
discarded and has no effect. -/
def unsupportedTool (codec : Nat) (i : AuInfo) : Bool :=
  i.tools.any (fun t => match t with
    | .hevcExtension => codec == 1
    | .av1Professional | .largeScaleTile => codec == 2
    | .interlaced | .fmoAso => codec == 3
    | .vvcRange => codec == 4
    | .fieldSeq | .otherLayer | .otherPoint | .svcMvc | .metadata => false) ||
  (decide (8192 < i.width) && (i.tileCols.isEmpty || i.tileCols.any fun w => decide (8192 < w)))

/-- A super-picture is coded as R81 requires: with tiles, or with wavefront parallel processing where its width allows it. -/
def superOk (i : AuInfo) : Bool :=
  decide (1 < i.tileCols.length) || decide (1 < i.tileRows) || (i.sync && decide (i.width ≤ 8192))

/-- The first reason of R80, R81, R92 and R113 for which a unit is not decoded; 0 where it is. A super-picture coded without tiles or
permitted wavefronts counts as an unsupported tool (DESIGN CHOICE, log 127). -/
def undecodedReason (a : StreamArgs) (u : AccessUnit) : Nat :=
  let i := u.info
  if unsupportedTool a.codec i ∨ (a.xlevel ∧ !(superOk i)) then 1
  else if a.maxWidth < i.width ∨ a.maxHeight < i.height ∨ a.dpbPics < i.refsNeeded then 2
  else if a.chroma < i.chroma ∨ a.bitdepth < i.depth then 3
  else if a.level < i.level then 4
  else if a.timingFrame ∧ u.time / 2 ^ 32 ≠ 0 then 5
  else 0

/-! ### Targets and the dispatcher's queue (R88, R92) -/

/-- The first frame whose cutoff under R438 falls at or after the commit of a live unit. -/
def State.asapTarget (s : State) (st : Nat) (a : StreamArgs) (u : AccessUnit) : Nat :=
  let t := if a.rowChain then 0 else s.planTime a * Clk.cclk
  let n := u.commitFrame
  ((List.range 64).map (frameAdd n)).find? (fun k => decide (u.commitAt + t ≤ s.firstPickup k st)) |>.getD (frameAdd n 64)

/-- The target frame that a unit's arrival fixes (R92); none for a stored stream under TIMING = ASAP. -/
def State.unitTarget (s : State) (st : Nat) (u : AccessUnit) : Option Nat :=
  let a := (s.stream st).args
  if a.timingFrame then some (u.time % 2 ^ 32)
  else if a.live then some (s.asapTarget st a u) else none

/-- A unit that will be decoded becomes a picture that waits at the dispatcher. It is not output if the output process has released a
later picture already (R119). -/
def State.enqueue (s : State) (st : Nat) (u : AccessUnit) : State :=
  let x := s.stream st
  let epoch := if u.info.newSeq then x.epoch + 1 else x.epoch
  let p : Picture := { stream := st, auSeq := u.auSeq, seq := x.seq, epoch := epoch, info := u.info, args := x.args, data := u.data
                       era := x.losses, target := s.unitTarget st u, commitAt := u.commitAt, bytes := u.bytes, colour := u.colour
                       meter := u.meter, bufs := u.bufs, marked := u.marked, time := u.time }
  let q := { p with noOutput := (s.picsOf st).any fun e => e.2.released && p.before e.2 }
  let s1 := s.setPic s.dec.nextPic q
  State.setStream { s1 with dec := { s1.dec with nextPic := s.dec.nextPic + 1 } } st
    { x with seq := x.seq + 1, epoch := epoch, undecRun := false }

/-- A unit reaches the dispatcher (R80, R88, Table 4.4). A marked unit that comes while the stream drains is decoded with no test for
a random access point (DESIGN CHOICE, log 127). -/
def State.toDispatcher (s : State) (st : Nat) (u : AccessUnit) : State :=
  let x := s.stream st
  match undecodedReason x.args u with
  | 0 =>
    if x.state = 1 then
      if u.info.rap then (s.streamTo st 2 1).enqueue st u
      else (s.setStream st { x with preRap := wrap 32 (x.preRap + 1), undecRun := false }).freeBufs u.bufs
    else s.enqueue st u
  | r => s.notDecoded st r u

/-! ### The access unit sequence (R117, R118) -/

/-- A unit taken in order: lost on arrival, or on to the dispatcher. -/
def State.takeUnit (s : State) (st : Nat) (u : AccessUnit) : State :=
  if u.lost = 0 then s.toDispatcher st u else s.unitsLost st u.lost u.auSeq 1

/-- Distance of a unit's number from E (R117). -/
def seqDist (e : Nat) (u : AccessUnit) : Nat := (u.auSeq + 2 ^ 32 - e) % 2 ^ 32

/-- A unit behind E is consumed without decoding (R117, R118). -/
def State.behind (s : State) (st e : Nat) (u : AccessUnit) : State :=
  let x := s.stream st
  let lost := x.declaredLost.any fun r => decide (seqDist r.1 u < r.2)
  ((s.setStream st { x with ooo := wrap 32 (x.ooo + 1) }).streamEvent st Blk.rfs 0x0115
    [u.auSeq, if lost then 1 else 2, e]).freeBufs u.bufs

/-- Held units run in order; numbers missing before one are declared lost (R117). -/
def State.runHeld (s : State) (st : Nat) : List AccessUnit → State
  | [] => s
  | u :: us =>
    let x := s.stream st
    let e := x.nextSeq.getD u.auSeq
    let d := seqDist e u
    let s1 :=
      if d = 0 then (s.setStream st { x with nextSeq := some ((e + 1) % 2 ^ 32) }).takeUnit st u
      else if d < 2 ^ 31 then
        ((s.setStream st { x with nextSeq := some ((u.auSeq + 1) % 2 ^ 32), declaredLost := (e, d) :: x.declaredLost }).unitsLost
          st 3 e d).takeUnit st u
      else s.behind st e u
    State.runHeld s1 st us

/-- The gap is closed: every missing number is declared lost and the held units run. -/
def State.closeGap (s : State) (st : Nat) : State :=
  let x := s.stream st
  (s.setStream st { x with held := [] }).runHeld st x.held

/-- The held units that now follow without a gap, second copies of a number among them, and the rest. -/
def followers (e : Nat) : List AccessUnit → List AccessUnit × List AccessUnit
  | [] => ([], [])
  | u :: us =>
    let d := seqDist e u
    if d = 0 then let (a, b) := followers ((e + 1) % 2 ^ 32) us; (u :: a, b)
    else if 2 ^ 31 ≤ d then let (a, b) := followers e us; (u :: a, b)
    else ([], u :: us)

/-- A unit put among the held ones by its distance from E, behind a held one of its number. -/
def holdUnit (e : Nat) (u : AccessUnit) : List AccessUnit → List AccessUnit
  | [] => [u]
  | v :: vs => if seqDist e u < seqDist e v then u :: v :: vs else v :: holdUnit e u vs

/-- The unit fills a gap, or part of one: a unit beyond it is held, and none of its number (R118; part of a gap: DEDUCED, log 128). -/
def fillsGap (e : Nat) (u : AccessUnit) (held : List AccessUnit) : Bool :=
  (held.any fun v => decide (seqDist e u < seqDist e v)) && !(held.any fun v => v.auSeq == u.auSeq)

/-- An access unit arrives at its stream (R117, R118). -/
def State.arrive (s : State) (st : Nat) (u : AccessUnit) : State :=
  let x := s.stream st
  if x.state = 0 ∨ x.state = 4 then s.freeBufs u.bufs
  else if !x.args.seqCheck then s.takeUnit st u
  else
    let e := x.nextSeq.getD u.auSeq
    let d := seqDist e u
    if 2 ^ 31 ≤ d then s.behind st e u
    else
      let s0 := if fillsGap e u x.held then s.streamEvent st Blk.rfs 0x0115 [u.auSeq, 0, e] else s
      if d = 0 then
        let (run, rest) := followers ((e + 1) % 2 ^ 32) x.held
        ((s0.setStream st { x with nextSeq := some ((e + 1) % 2 ^ 32), held := rest }).takeUnit st u).runHeld st run
      else
        let s1 := s0.setStream st { x with nextSeq := some e, held := holdUnit e u x.held }
        if x.args.reorderWin ≤ x.held.length + 1 then s1.closeGap st else s1

/-- RFS_REORDER.FRAMES marks have passed since the gap before a held unit opened, which was when the unit came (R117; for a second gap
DEDUCED, log 128). -/
def State.gapTimeout (s : State) (st : Nat) : State :=
  let x := s.stream st
  if x.held.any fun u => decide (s.fld Reg.RFS_REORDER_FRAMES ≤ u.heldMarks) then s.closeGap st else s

/-- SEQ_GAP_TIMEOUT. -/
def execSeqGapTimeout (stream : Nat) (s : State) : Out := s.run fun s => s.gapTimeout stream

/-! ### Units that wait on their ring (R89) -/

/-- The stream takes a unit now: OPEN or RUNNING, or DRAINING and the unit is marked. -/
def State.takes (s : State) (st : Nat) (u : AccessUnit) : Bool :=
  let x := s.stream st
  x.state == 1 || x.state == 2 || (x.state == 3 && u.marked)

/-- A bitstream ring that feeds a stream, not an encode session (R244). -/
def Ring.feedsStream (x : Ring) : Bool := x.cls == 3 && decide (x.link < 0x1000)

/-- A packet of `n` items is longer than a legal one (R63). -/
def Ring.tooLong (x : Ring) (n : Nat) : Bool := decide (4096 < n) || decide (x.size < n)

/-- A packet vanishes (R63): CI passes its items, which leave RNG_PEND unless R57 has taken them out already. -/
def Ring.rewindHead (x : Ring) (p : Pkt) (rest : List Pkt) (long : Bool) : Ring :=
  { x with ci := wrap 32 (x.ci + p.items), pend := if p.dropped then x.pend else x.pend - p.items
           rewound := wrap 32 (x.rewound + 1), oversize := if long then satur 8 (x.oversize + 1) else x.oversize, pkts := rest }

/-- Steps 3 to 5 of Table 3.3 for the packet at the head of a ring: its colour, and its commit unless its CRC is still to be checked. A
red packet is consumed at once and is lost to its stream. -/
def State.colourHead (s : State) (r : Nat) (p : Pkt) (ps : List Pkt) : State :=
  let x := s.ring r
  let m := s.meter x.meter
  let use := x.meterEn && m.enable
  let (c, m') := if use then m.colour p.len s.uclk else (0, m)
  let s1 := if use then s.setMeter x.meter (m'.counted c) else s
  let q := { p with coloured := true, colour := c }
  if c = 2 then
    let y := { x with produced := wrap 64 (x.produced + p.items), consumed := wrap 64 (x.consumed + p.items)
                      ci := wrap 32 (x.ci + p.items), pend := x.pend - p.items, pkts := ps }
    (s1.setRing r y).arrive x.link { auSeq := p.auSeq, time := p.time, bytes := p.len, colour := c, meter := 0, bufs := []
                                     commitAt := s.now, marked := p.marked, lost := 1, info := {} }
  else if p.crc then s1.setRing r { x with pkts := q :: ps }
  else
    s1.setRing r { x with produced := wrap 64 (x.produced + p.items), count := x.count + p.items, pend := x.pend - p.items
                          pkts := { q with committed := true, commitAt := s.now, commitFrame := s.frameCount } :: ps }

/-- What the packet at the head of a bitstream ring can do now (Table 3.3, R57, R60, R89); none where it waits. Packets are processed
strictly in ring order: the next one begins when the head is consumed or gone (R60; DEDUCED, log 125). -/
def State.headStep (s : State) (r : Nat) : Option State :=
  let x := s.ring r
  match x.pkts with
  | [] => none
  | p :: ps =>
    if p.gone then none
    else if p.dropped then
      if p.closed then some ((s.setRing r (x.rewindHead p ps true)).latch .rngOversize (r / 32))
      else if p.items = 0 then none
      else some (s.setRing r { x with ci := wrap 32 (x.ci + p.items), pkts := { p with items := 0 } :: ps })
    else match p.unit with
      | some u =>
        if s.takes x.link u then
          some ((s.setRing r { x with ci := wrap 32 (x.ci + p.items), count := x.count - p.items
                                      consumed := wrap 64 (x.consumed + p.items), pkts := ps }).arrive x.link u)
        else none
      | none =>
        if p.fetching ∨ p.coloured ∨ !p.closed then none
        else if p.abort ∨ !p.started ∨ x.tooLong p.items then
          let t := s.setRing r (x.rewindHead p ps (x.tooLong p.items))
          some (if x.tooLong p.items then t.latch .rngOversize (r / 32) else t)
        else if x.meterEn ∧ !s.pageEnabled Blk.mtr (x.meter / 32) then none
        else some (s.colourHead r p ps)

/-- Everything a bitstream ring can do now. -/
def State.ringRun (s : State) (r : Nat) : Nat → State
  | 0 => s
  | n + 1 =>
    if !(s.ring r).enable ∨ (s.ring r).halted ∨ !(s.ring r).feedsStream then s
    else match s.headStep r with
      | some t => t.ringRun r n
      | none => s

/-- The packets of a ring that stops: their buffers go back, but a payload fetch already begun completes (R66, R67). -/
def State.dropPkts (s : State) (r : Nat) : State :=
  let x := s.ring r
  let runs := fun (p : Pkt) => p.fetching && p.unit.isNone
  let s1 := (x.pkts.filter fun p => !(runs p)).foldl (fun t p =>
    t.freeBufs (match p.unit with
      | some u => u.bufs
      | none => p.bufs)) s
  s1.setRing r { s1.ring r with pkts := (x.pkts.filter runs).map fun p => { p with gone := true } }

/-- A duplicate index mismatch (R67). -/
def State.ringReset (s : State) (r : Nat) : State :=
  let x := s.ring r
  (((s.setRing r x.halt).dropPkts r).ringEvent r 0x0010 [x.count]).latch .rngPtr (r / 32)

/-- An access to a ring: both copies of its indices are compared, and a mismatch resets the ring in place of what the access would do
(R67). -/
def State.ringAccess (s : State) (r : Nat) (f : State → State) : State :=
  match s.takeInject .rngPtr (r / 32) with
  | some t => t.ringReset r
  | none => f s

/-- The units of a stream that wait on its rings are taken (R89). -/
def State.takeWaiting (s : State) (st : Nat) : State :=
  (s.rng.rings.filter fun e => e.2.feedsStream && e.2.link == st && e.2.enable && !e.2.halted && !e.2.pkts.isEmpty).foldl
    (fun t e => t.ringAccess e.1 fun u => u.ringRun e.1 (3 * e.2.pkts.length + 3)) s

/-! ### Stream commands (Tables 4.3 to 4.5) -/

/-- Ends a job before it began. -/
def State.refuse (s : State) (j status : Nat) (r0 r1 r2 r3 : Nat := 0) : State := s.finish j status r0 r1 r2 r3

/-- STREAM_OPEN (R83-R86, R112-R115). RESULT3 is 0 where the load is above the capacity already (DESIGN CHOICE, log 127). -/
def State.doOpen (s : State) (j : Nat) : State :=
  let e := (s.job j).args
  let st := bits (field e 8 2) 9 0
  let a := streamArgs e
  if (s.stream st).state ≠ 0 then s.finish j St.state
  else if !(openOk s.variant e) then s.finish j St.badArg
  else match s.admission a with
    | 0 =>
      if s.rfsFree < a.reserve then s.finish j St.noResource 0 0 4
      else
        let load := if a.live then a.load else 0
        let cap := s.liveCap
        let s1 := s.setStream st { state := 0, tenant := (s.job j).tenant, args := a, loadMs := load, granules := a.reserve
                                   runs := s.newRuns a.reserve }
        let s2 := (s1.setFld Reg.DEC_LOAD_LIVE 0 (s.fld Reg.DEC_LOAD_LIVE + load)).streamTo st 1 0
        let us := if a.live then (s.planTime a + 1199) / 1200 else 0
        (s2.finish j St.ok load us 0 (cap - (s.fld Reg.DEC_LOAD_LIVE + load))).takeWaiting st
    | r => s.finish j St.noResource 0 0 r

/-- STREAM_OPEN. -/
def execStreamOpen (job : Nat) (s : State) : Out := s.run fun s => if s.canStart job 0x01 then s.doOpen job else s

/-- Marks what is committed of a stream (R88): pictures at the dispatcher, held units, packets on its rings. -/
def State.markStream (s : State) (st : Nat) : State :=
  (s.mapPics fun _ p => if p.stream = st then { p with marked := true } else p).mapRings fun x =>
    if x.cls = 3 ∧ x.link = st then
      { x with pkts := x.pkts.map fun p =>
          if p.committed then { p with marked := true, unit := p.unit.map fun u => { u with marked := true } } else p }
    else x

/-- Drops the pictures of a stream that have not started (DISCARD = 1), and counts them. -/
def State.discardQueued (s : State) (st : Nat) : State :=
  let drop := (s.picsOf st).filter fun e => e.2.dispatched == 0
  let s1 := drop.foldl (fun t e => t.freeBufs e.2.bufs) s
  let x := s1.stream st
  (s1.keepPics fun _ p => !(p.stream == st && p.dispatched == 0)).setStream st { x with discarded := x.discarded + drop.length }

/-- A flush or close is accepted in OPEN or RUNNING: everything committed is marked and the gap is closed. -/
def State.beginDrain (s : State) (st j : Nat) (close discard : Bool) : State :=
  let s1 := (s.markStream st).closeGap st
  let s2 := s1.mapPics fun _ p => if p.stream = st then { p with marked := true } else p
  let s3 := if discard then s2.discardQueued st else s2
  let x := s3.stream st
  ((s3.setStream st { x with drains := x.drains ++ [⟨j, close, discard, s.now, false⟩] }).start j).streamTo st 3 0

/-- The drain of a stream that a function reset closes: as STREAM_CLOSE with DISCARD = 1, with no command to complete (R409). -/
def State.resetStream (s : State) (st : Nat) : State :=
  let s1 := (s.markStream st).closeGap st
  let s2 := (s1.mapPics fun _ p => if p.stream = st then { p with marked := true } else p).discardQueued st
  let x := s2.stream st
  let d : DrainCmd := { job := 2 ^ 64, close := true, discard := true, acceptedAt := s.now, timedOut := true }
  (s2.setStream st { x with drains := x.drains ++ [d] }).streamTo st 3 0

/-- Frees a stream (R115, R126, R162): memory and load go back; of its pictures only those that a window shows in some frame stay, for
that frame, in no slot. -/
def State.closeStream (s : State) (st : Nat) : State :=
  let x := s.stream st
  let gone := (s.picsOf st).filter fun e => !(s.cnv.wins.any fun w => w.2.binds.any fun b => b.pic == some e.1)
  let s1 := gone.foldl (fun t e => t.freeBufs (if e.2.decoded then [] else e.2.bufs)) s
  let s2 := (s1.keepPics fun n _ => !(gone.any fun g => g.1 == n)).mapPics fun _ p =>
    if p.stream = st then { p with held := false, inDpb := false, pinned := false, copyTo := none, substituteOnly := false
                                   closed := true, noOutput := true, slot := none } else p
  (s2.setFld Reg.DEC_LOAD_LIVE 0 (s.fld Reg.DEC_LOAD_LIVE - x.loadMs)).setStream st
    { s2.stream st with loadMs := 0, granules := 0, runs := [], held := [], drains := [], lastShown := none, lastOutput := none }

/-- A command for a stream of another tenant completes with BAD_ARG, one for a CLOSED stream with STATE (R83). -/
def State.streamGate (s : State) (j st : Nat) : Nat :=
  let x := s.stream st
  if x.state = 0 then St.state else if x.tenant ≠ (s.job j).tenant then St.badArg else St.ok

/-- STREAM_CLOSE (Tables 4.4, 4.5). -/
def State.doClose (s : State) (j : Nat) : State :=
  let e := (s.job j).args
  let st := bits (field e 8 2) 9 0
  let discard := bit (field e 10 1) 0
  let x := s.stream st
  match s.streamGate j st with
  | 0 =>
    if x.state = 4 then
      (((s.closeStream st).streamTo st 0 0).finish j St.ok x.decoded x.discarded)
    else if x.state = 3 then
      if x.drains.any (·.close) then s.finish j St.state
      else
        let s1 := if discard then s.discardQueued st else s
        let y := s1.stream st
        (s1.setStream st { y with drains := y.drains ++ [⟨j, true, discard, s.now, false⟩] }).start j
    else s.beginDrain st j true discard
  | r => s.finish j r

/-- STREAM_CLOSE. -/
def execStreamClose (job : Nat) (s : State) : Out := s.run fun s => if s.canStart job 0x02 then s.doClose job else s

/-- STREAM_FLUSH. -/
def State.doFlush (s : State) (j : Nat) : State :=
  let st := bits (field (s.job j).args 8 2) 9 0
  match s.streamGate j st with
  | 0 =>
    if (s.stream st).state = 1 ∨ (s.stream st).state = 2 then
      let s1 := s.setStream st { s.stream st with flushDecoded := 0, flushOutput := 0 }
      s1.beginDrain st j false false
    else s.finish j St.state
  | r => s.finish j r

/-- STREAM_FLUSH. -/
def execStreamFlush (job : Nat) (s : State) : Out := s.run fun s => if s.canStart job 0x03 then s.doFlush job else s

/-- STREAM_SET_POLICY (R91, Table 4.5): only the fields that MASK selects are checked and written. -/
def State.doPolicy (s : State) (j : Nat) : State :=
  let e := (s.job j).args
  let st := bits (field e 8 2) 9 0
  let m := field e 10 1
  let x := s.stream st
  let a := x.args
  let cls := field e 11 1
  let b := { a with cls := if bit m 0 then cls else a.cls
                    catchup := if bit m 1 then bit (field e 12 1) 0 else a.catchup
                    coresMax := if bit m 2 then field e 13 1 else a.coresMax
                    pace := if bit m 3 then field e 14 1 else a.pace }
  match s.streamGate j st with
  | 0 =>
    if x.state ≠ 1 ∧ x.state ≠ 2 then s.finish j St.state
    else if (bit m 0 ∧ (7 < cls ∨ decide (cls < 4) ≠ a.live)) ∨
        (bit m 2 ∧ (b.coresMax = 0 ∨ s.variant.decCores < b.coresMax)) ∨
        (bit m 3 ∧ !(paceOk b.live b.timingFrame b.pace)) then s.finish j St.badArg
    else if bit m 2 ∧ a.live ∧ s.admitPeriod < s.planTime b then s.finish j St.noResource 0 0 2
    else (s.setStream st { x with args := b }).finish j St.ok
  | r => s.finish j r

/-- STREAM_SET_POLICY. -/
def execStreamSetPolicy (job : Nat) (s : State) : Out := s.run fun s => if s.canStart job 0x04 then s.doPolicy job else s

/-! ### Drains (R89, R90) -/

/-- Marked work of a stream is outstanding: a picture not decoded, a unit held behind a gap, or a committed packet that is still on its
ring. -/
def State.drainBusy (s : State) (st : Nat) : Bool :=
  (s.picsOf st).any (fun e => e.2.marked && !e.2.decoded) || !(s.stream st).held.isEmpty ||
  s.rng.rings.any fun e => e.2.cls == 3 && e.2.link == st && e.2.pkts.any fun p => p.marked && !p.dropped

/-- The last of some pictures in output order. -/
def lastOut (ps : List (Nat × Picture)) : Option Nat :=
  (ps.foldl (fun (m : Option (Nat × Picture)) e => match m with
    | none => some e
    | some b => if b.2.before e.2 then some e else some b) none).map (·.1)

/-- Every decoded picture of a stream is output (Table 4.4): released, and counted for RESULT1 of the flush, which so counts those that
the output process had not released before the drain ended (DESIGN CHOICE, log 127). -/
def State.outputAll (s : State) (st : Nat) : State :=
  let n := ((s.picsOf st).filter fun e => e.2.decoded && !e.2.released && !e.2.noOutput).length
  let last := lastOut ((s.picsOf st).filter fun e => e.2.decoded && !e.2.noOutput)
  let s1 := s.mapPics fun _ p => if p.stream = st ∧ p.decoded then { p with released := true } else p
  let x := s1.stream st
  s1.setStream st { x with flushOutput := x.flushOutput + n, lastOutput := last.orElse fun _ => x.lastOutput }

/-- A flush empties the decoded picture buffer; pinned pictures stay as substitutes with KEEP_PINNED (R111). -/
def State.flushDpb (s : State) (st : Nat) : State :=
  let keep := (s.stream st).args.keepPinned
  s.mapPics fun _ p =>
    if p.stream = st then
      { p with inDpb := false, pinned := p.pinned && keep, substituteOnly := p.substituteOnly || (p.pinned && keep) }
    else p

/-- The marked work of a draining stream is done: the oldest drain ends (Table 4.4). -/
def State.drainDone (s : State) (st : Nat) : State :=
  let x := s.stream st
  match x.drains with
  | [] => s
  | d :: ds =>
    if x.state ≠ 3 ∨ s.drainBusy st then s
    else if d.close then
      let s1 := (s.closeStream st).streamTo st 0 3
      if d.timedOut then s1 else s1.finish d.job St.ok x.decoded x.discarded
    else
      let s1 := (s.outputAll st).flushDpb st
      let y := s1.stream st
      let s2 := s1.setStream st { y with drains := ds, nextSeq := none, declaredLost := [] }
      let s3 := if ds = [] then s2.streamTo st 1 3 else s2
      let s4 := if d.timedOut then s3 else s3.finish d.job St.ok y.flushDecoded y.flushOutput
      if ds = [] then s4.takeWaiting st else s4

/-- STREAM_DRAIN_DONE. -/
def execStreamDrainDone (stream : Nat) (s : State) : Out := s.run fun s => s.drainDone stream

/-- The first drain that has not timed out and has run DEC_DRAIN_LIMIT milliseconds completes with TIMEOUT (R90). -/
def State.drainTimeout (s : State) (st : Nat) : State :=
  let x := s.stream st
  match x.drains.find? (fun d => !d.timedOut) with
  | none => s
  | some d =>
    if s.now < d.acceptedAt + s.fld Reg.DEC_DRAIN_LIMIT_MS * Clk.ms then s
    else
      (s.setStream st { x with drains := x.drains.map fun e => if e.job = d.job then { e with timedOut := true } else e }).finish
        d.job St.timeout

/-- DRAIN_TIMEOUT. -/
def execDrainTimeout (stream : Nat) (s : State) : Out := s.run fun s => s.drainTimeout stream

/-- A write of RFS_REGION_BASE (0) or RFS_REGION_SIZE (1) (R116). -/
def State.rfsRegion (s : State) (reg v : Nat) : State :=
  if s.dec.streams.any (fun e => e.2.state != 0) then s.latch .rfsBusy
  else
    if reg = 0 then s.setFld Reg.RFS_REGION_BASE 0 v else s.setFld Reg.RFS_REGION_SIZE 0 v

/-- RFS_REGION_WRITE. -/
def execRfsRegionWrite (reg : Nat) (v : Word) (s : State) : Out :=
  s.run fun s => s.regCmd Blk.rfs 0 (rsvBits v 0xFFFFFF) fun s => s.rfsRegion reg v.toNat

end Sys2Proof.Machine
end

