-- ==== Sys2Proof/Machine/Store.lean ====
section
/-! DEFINITION. The reference store (05_reference_store_and_concealment.md): work units of a picture (Table 4.6), the layouts of
stored pictures and their samples (R107-R109, R123, R128), slots (R110, R111, R114), references and substitutes (R120, R121). -/

namespace Sys2Proof.Machine

/-! ### Work units (Table 4.6, R95) -/

/-- Height of a CTU, superblock or macroblock: LAG of R95. -/
def auBlock (codec : Nat) (i : AuInfo) : Nat := if codec = 3 then 16 else max 1 i.ctu

/-- Unit kind of Table 4.6. Where two of its rows hold, tile columns go before wavefront rows, and these before slices
(DESIGN CHOICE, log 129). -/
def auKind (codec : Nat) (i : AuInfo) : Nat :=
  if codec ≠ 3 ∧ 1 < i.tileCols.length then 1
  else if (codec = 1 ∨ codec = 4) ∧ i.sync ∧ auBlock codec i < i.height then 3
  else if 1 < i.slices ∧ (codec = 3 ∨ ((codec = 1 ∨ codec = 4) ∧ i.tileRows ≤ 1)) then 2
  else 0

def Picture.kind (p : Picture) : Nat := auKind p.args.codec p.info
def Picture.lag (p : Picture) : Nat := auBlock p.args.codec p.info

/-- Substreams of a picture, each of which is one unit (Table 4.6). -/
def Picture.units (p : Picture) : Nat :=
  if p.kind = 1 then p.info.tileCols.length else if p.kind = 2 then p.info.slices
  else if p.kind = 3 then (p.info.height + p.lag - 1) / p.lag else 1

/-- Bands of a picture. -/
def Picture.nBands (p : Picture) : Nat := (p.info.height + 15) / 16

/-- Consecutive unit numbers done from 0. -/
def contiguous (done : List Nat) : Nat → Nat → Nat
  | k, 0 => k
  | k, n + 1 => if done.contains k then contiguous done (k + 1) n else k

/-- Luma rows that are reconstructed across the picture: those of the wavefront rows done; no other kind of unit covers whole rows
before the last one is done. -/
def Picture.rowsDone (p : Picture) : Nat :=
  if p.decoded then p.info.height
  else if p.kind = 3 then min p.info.height (contiguous p.done 0 p.done.length * p.lag) else 0

/-- Luma rows that are final: LAG rows behind those reconstructed (R95). -/
def Picture.rowsFinal (p : Picture) : Nat := if p.rowsDone = p.info.height then p.info.height else p.rowsDone - p.lag

/-- Bands that are final (R95, R96). -/
def Picture.finalBands (p : Picture) : Nat :=
  if p.decoded then p.nBands
  else ((List.range p.nBands).filter fun j => decide (min p.info.height (16 * (j + 1)) ≤ p.rowsFinal)).length

/-! ### Layouts (R107-R109) -/

/-- Samples in a row of a plane, and rows of a plane. -/
def Picture.cols (p : Picture) (plane : Nat) : Nat :=
  if plane = 0 ∨ p.info.chroma = 3 then p.info.width else if p.info.chroma = 0 then 0 else (p.info.width + 1) / 2
def Picture.lines (p : Picture) (plane : Nat) : Nat :=
  if plane = 0 ∨ 2 ≤ p.info.chroma then p.info.height else if p.info.chroma = 0 then 0 else (p.info.height + 1) / 2

/-- Row stride of the luma plane (R108), its bytes, and the stride of the chroma plane. -/
def Picture.stride (p : Picture) : Nat := (p.args.maxWidth + 63) / 64 * 64 * p.args.b
def Picture.lumaBytes (p : Picture) : Nat := p.stride * ((p.args.maxHeight + 15) / 16 * 16)
def Picture.chromaStride (p : Picture) : Nat := if p.info.chroma = 3 then 2 * p.stride else p.stride

/-- Offset of a sample's container in its slot: luma rows, then Cb and Cr interleaved, Cb first (R108). -/
def Picture.sampleOff (p : Picture) (plane x y : Nat) : Nat :=
  if plane = 0 then y * p.stride + x * p.args.b
  else p.lumaBytes + y * p.chromaStride + (2 * x + plane - 1) * p.args.b

/-- Granule `i` of a reservation. -/
def runAt : List (Nat × Nat) → Nat → Nat
  | [], _ => 0
  | (g, n) :: rs, i => if i < n then g + i else runAt rs (i - n)

/-- The picture lies in plain layout (Table 5.1): in a pinned slot, or in an ordinary slot of a mode that is plain there. -/
def Picture.plain (p : Picture) : Bool :=
  match p.slot with
  | some (pin, _) => pin || p.args.rfsMode % 2 == 0
  | none => false

/-- Device address of a byte of a picture's slot, through the granule map (R115). The pinned slots come first. -/
def State.storeAddr (s : State) (p : Picture) (off : Nat) : Nat :=
  let start := match p.slot with
    | some (true, i) => i * p.args.gp
    | some (false, i) => p.args.pinSlots * p.args.gp + i * p.args.go
    | none => 0
  (s.fld Reg.RFS_REGION_BASE + runAt (s.stream p.stream).runs (start + off / 65536)) * 65536 + off % 65536

/-- Mid-grey (R121). -/
def Picture.grey (p : Picture) : Nat := 2 ^ (p.info.depth - 1)

/-- Units of the compressed layout, 128 samples each (R109), and the address of a unit's header: the headers follow the units
(DESIGN CHOICE, log 126). -/
def Picture.packUnits (p : Picture) : Nat := picPlain p.args.maxWidth p.args.maxHeight p.args.cw p.args.b / (128 * p.args.b)
def State.headerAddr (s : State) (p : Picture) (u : Nat) : Nat :=
  s.storeAddr p (picPlain p.args.maxWidth p.args.maxHeight p.args.cw p.args.b + u)

/-- The header of a unit gives more sectors than its raw size holds (R128). -/
def State.badHeader (s : State) (p : Picture) (u : Nat) : Bool :=
  decide (4 * p.args.b < (s.dramByte (s.headerAddr p u)).toNat)

/-- A sample as an engine reads it from the store (R108, R109, R128). A picture in no slot gives what it held. -/
def State.sampleOf (s : State) (n plane x y : Nat) : Nat :=
  let p := s.pic n
  let kept := (Tab.get [] p.rows (plane * 65536 + y)).getD x 0
  let off := p.sampleOff plane x y
  if p.slot.isNone then kept
  else if p.plain then leNat (s.dramBytes (s.storeAddr p off) p.args.b)
  else if s.badHeader p (off / (128 * p.args.b)) then p.grey else kept

/-- A sample as a window or an encode session takes it: with film grain where the stream asks for it (R78). -/
def State.outSample (s : State) (n plane x y : Nat) : Nat :=
  let p := s.pic n
  let v := s.sampleOf n plane x y
  if p.args.codec = 2 ∧ !p.args.noGrain then Config.filmGrain p.data plane x y v else v

/-- A compressed picture holds an invalid unit header. -/
def State.holdsBad (s : State) (n : Nat) : Bool :=
  let p := s.pic n
  p.slot.isSome && !p.plain && p.decoded && (List.range p.packUnits).any (s.badHeader p)

/-! ### Storing (R78, R80, R123) -/

/-- Place of a block in the order in which its unit decodes its blocks; none for a block of another tile column. -/
def Picture.blockIndex (p : Picture) (u bx row : Nat) : Option Nat :=
  if p.kind = 1 then
    let x0 := (p.info.tileCols.take u).sum / p.lag
    let w := (p.info.tileCols.getD u 0 + p.lag - 1) / p.lag
    if x0 ≤ bx ∧ bx < x0 + w then some (row * w + (bx - x0)) else none
  else some (row * ((p.info.width + p.lag - 1) / p.lag) + bx)

/-- Blocks in a row of a picture. -/
def Picture.blocksWide (p : Picture) : Nat := (p.info.width + p.lag - 1) / p.lag

/-- The block at a block address was filled under R123. -/
def Picture.blockFilled (p : Picture) (bx row : Nat) : Bool :=
  p.filled.any fun f =>
    match p.blockIndex f.1 bx row, p.blockIndex f.1 (f.2.1 % max 1 p.blocksWide) (f.2.1 / max 1 p.blocksWide) with
    | some i, some j => decide (j ≤ i) && decide (i < j + f.2.2)
    | _, _ => false

/-- Luma rows and columns per sample of a plane. -/
def Picture.subX (p : Picture) (plane : Nat) : Nat := if plane ≠ 0 ∧ (p.info.chroma = 1 ∨ p.info.chroma = 2) then 2 else 1
def Picture.subY (p : Picture) (plane : Nat) : Nat := if plane ≠ 0 ∧ p.info.chroma = 1 then 2 else 1

/-- The samples of a reference in use: those of its picture, or mid-grey. -/
def State.refSamples (s : State) (p : Picture) (r : Option Nat) : Nat → Nat → Nat → Nat :=
  match r with
  | some m => s.sampleOf m
  | none => fun _ _ _ => p.grey

/-- A sample of a picture's reconstruction (R78, R123): filled blocks take the co-located samples of the first reference, of an intra
picture those of its substitute; the in-loop filters run over all. -/
def State.reconSample (s : State) (p : Picture) (plane x y : Nat) : Nat :=
  let refs := p.refPics.map (s.refSamples p)
  let src := refs.headD fun _ _ _ => p.grey
  let fill := fun (pl x y : Nat) =>
    if p.blockFilled (x * p.subX pl / p.lag) (y * p.subY pl / p.lag) then some (src pl x y) else none
  let base := fun (pl x y : Nat) => (fill pl x y).getD (Config.recon p.data refs fill pl x y)
  Config.loopFilter p.data base plane x y % 2 ^ p.info.depth

/-- One row of samples in plain layout: containers of B bytes (R108). -/
def State.plainRow (s : State) (p : Picture) (plane y : Nat) (vs : List Nat) : State :=
  vs.zipIdx.foldl (fun t v => t.dramPut (t.storeAddr p (p.sampleOff plane v.2 y)) (leBytes v.1 p.args.b)) s

/-- One row of samples of picture `n` is stored. -/
def State.putRow (s : State) (n plane y : Nat) (vs : List Nat) : State :=
  let p := s.pic n
  let s1 := s.setPic n { p with rows := Tab.set p.rows (plane * 65536 + y) vs }
  if p.plain then s1.plainRow p plane y vs else s1

/-- The luma rows of picture `n` below row `k`, and the chroma rows beside them, are stored (R80). -/
def State.storeRows (s : State) (n k : Nat) : State :=
  let p := s.pic n
  let new := [0, 1, 2].flatMap fun pl =>
    ((List.range (p.lines pl)).filter fun y => decide (p.stored ≤ y * p.subY pl) && decide (y * p.subY pl < k)).map fun y =>
      (pl, y, (List.range (p.cols pl)).map fun x => s.reconSample p pl x y)
  let s1 := new.foldl (fun t r => t.putRow n r.1 r.2.1 r.2.2) s
  s1.setPic n { s1.pic n with stored := max p.stored k }

/-- The units of a decoded picture in compressed layout are written, each in its slot and with its header (R109). -/
def State.packPicture (s : State) (n : Nat) : State :=
  let p := s.pic n
  if p.slot.isNone ∨ p.plain then s
  else (List.range p.packUnits).foldl (fun t u =>
    let k := Config.sectors n u % (4 * p.args.b + 1)
    (t.dramPut (t.headerAddr p u) [BitVec.ofNat 8 k]).dramPut (t.storeAddr p (u * 128 * p.args.b))
      ((List.range (32 * k)).map (Config.packed n u))) s

/-- A picture's rows are written to its pinned slot, in plain layout (R110). -/
def State.copyPlain (s : State) (n : Nat) : State :=
  let p := s.pic n
  p.rows.foldl (fun t r => t.plainRow p (r.1 / 65536) (r.1 % 65536) r.2) s

/-! ### Slots (R110, R111, R114) -/

/-- A free slot of a stream's reservation: pinned, or ordinary. A pinned slot that a copy goes into is not free. -/
def State.freeSlot (s : State) (st : Nat) (pin : Bool) : Option Nat :=
  let a := (s.stream st).args
  (List.range (if pin then a.pinSlots else a.slots)).find? fun i =>
    (s.picsOf st).all fun e => e.2.slot != some (pin, i) && !(pin && e.2.copyTo == some i)

/-- Room for a new pinned picture: with no pinned slot free, the oldest substitute-only picture is evicted (R111). -/
def State.evictPin (s : State) (st : Nat) : State :=
  if (s.freeSlot st true).isSome then s
  else match (s.picsOf st).find? (fun e => e.2.substituteOnly) with
    | some e => s.setPic e.1 { e.2 with substituteOnly := false, pinned := false, slot := none }
    | none => s

/-- Pinned slots in use, those of substitutes and of copies under way included. -/
def State.pinsUsed (s : State) (st : Nat) : Nat :=
  ((s.picsOf st).filter fun e => e.2.pinned || e.2.copyTo.isSome || e.2.substituteOnly).length

/-- A long-term picture begins to be copied into a free pinned slot; with none free it stays where it is (R110). -/
def State.pinPicture (s : State) (st m : Nat) : State :=
  let q := s.pic m
  if (s.stream st).args.rfsMode < 2 ∨ q.pinned ∨ q.copyTo.isSome then s
  else
    let s1 := s.evictPin st
    match s1.freeSlot st true with
    | some i => s1.setPic m { s1.pic m with copyTo := some i }
    | none => s1

/-- The slot that a picture is decoded into. An AV1 frame written into a reference slot of PIN_MASK takes a pinned one, if one is free
(R110). A picture for which no slot is free is kept beside them (DESIGN CHOICE, log 126). -/
def State.takeSlot (s : State) (n : Nat) : State :=
  let p := s.pic n
  let pin := p.args.codec == 2 && decide (2 ≤ p.args.rfsMode) && p.info.refresh &&& p.args.pinMask != 0
  let s1 := if pin then s.evictPin p.stream else s
  match pin, s1.freeSlot p.stream true with
  | true, some i => s1.setPic n { s1.pic n with slot := some (true, i), pinned := true }
  | _, _ => s1.setPic n { s1.pic n with slot := (s1.freeSlot p.stream false).map fun i => (false, i) }

/-! ### References (R120, R121) -/

/-- The reference with an output-order number that a picture's decoding finds in the store. An AV1 reference slot that no frame has
refreshed since a loss is stale (R120). -/
def State.findRef (s : State) (p : Picture) (order : Nat) : Option (Nat × Picture) :=
  (s.picsOf p.stream).find? fun e =>
    e.2.inDpb && !(p.args.codec == 2 && decide (e.2.era < p.era)) && !e.2.substituteOnly && e.2.info.order == order &&
    decide (e.2.seq < p.seq)

/-- Sizes that allow a substitute: equal, or for AV1 and VVC within the standard's scaling limits (log 20). -/
def sizeOk (p q : Picture) : Bool :=
  let up := if p.args.codec = 2 then 16 else 8
  if p.args.codec = 2 ∨ p.args.codec = 4 then
    decide (q.info.width ≤ 2 * p.info.width) && decide (q.info.height ≤ 2 * p.info.height) &&
    decide (p.info.width ≤ up * q.info.width) && decide (p.info.height ≤ up * q.info.height)
  else q.info.width == p.info.width && q.info.height == p.info.height

/-- Distance of two output-order numbers. -/
def orderDist (a b : Nat) : Nat := if a ≤ b then b - a else a - b

/-- The substitute for a missing picture (R121): its kind, its output-order number, and its number, none for mid-grey. Of two pinned
pictures as near, the earlier in decode order is taken (DESIGN CHOICE, log 127). -/
def State.substitute (s : State) (p : Picture) (order : Nat) : Nat × Nat × Option Nat :=
  let pins := (s.picsOf p.stream).filter fun e => (e.2.pinned || e.2.substituteOnly) && e.2.decoded && sizeOk p e.2
  let best := pins.foldl (fun (b : Option (Nat × Picture)) e =>
    match b with
    | none => some e
    | some q => if orderDist e.2.info.order order < orderDist q.2.info.order order then some e else some q) none
  match best with
  | some q => (1, q.2.info.order, some q.1)
  | none =>
    match (s.stream p.stream).lastOutput with
    | some n =>
      if Tab.has s.dec.pics n ∧ sizeOk p (s.pic n) then (2, (s.pic n).info.order, some n) else (3, 0, none)
    | none => (3, 0, none)

end Sys2Proof.Machine
end

