-- ==== Sys2Proof/Machine/DecodeArray.lean ====
section
/-! DEFINITION. The decode array and the reference store (04_stream_decoding.md R94-R106, 05_reference_store_and_concealment.md
R110, R111, R119-R126, R439): dispatch, work units, concealment, pickup. -/

namespace Sys2Proof.Machine

/-- The stream row-chains, the unit kind allows it, and the picture has more than one substream (R96). -/
def Picture.rowChains (p : Picture) : Bool := p.args.rowChain && (p.kind == 1 || p.kind == 3) && decide (1 < p.units)

/-- Most cores a picture may hold (R98). -/
def Picture.coreLimit (p : Picture) : Nat := min p.args.coresMax p.units

/-- Every decode core changed by a function. -/
def State.mapCores (s : State) (f : DecCore → DecCore) : State :=
  { s with dec := { s.dec with cores := s.dec.cores.map fun e => (e.1, f e.2) } }

/-- Cores that run a unit of a picture. -/
def State.coresOf (s : State) (n : Nat) : Nat := (s.dec.cores.filter fun e => e.2.busy && e.2.pic == n).length

/-! ### Dispatch order (R94, R97-R104) -/

/-- Deadline D of a live picture. -/
def State.deadline (s : State) (p : Picture) : Nat := s.firstPickup (p.target.getD s.frameCount) p.stream

/-- Effective deadline: the smallest D of the unit and every later unit of its stream that has reached the dispatcher. -/
def State.effDeadline (s : State) (p : Picture) : Nat :=
  ((s.picsOf p.stream).filter fun e => decide (p.seq ≤ e.2.seq)).foldl
    (fun m e => min m (s.deadline e.2)) (s.deadline p)

/-- Free cores of a cluster. -/
def State.freeIn (s : State) (cl : Nat) : Nat :=
  ((List.range 8).filter fun i => s.coreOnline (8 * cl + i) && !(s.core (8 * cl + i)).busy).length

/-- The cluster with the most free cores, the lowest of several. -/
def State.bestCluster (s : State) : Nat :=
  (List.range (s.variant.decCores / 8)).foldl (fun b c => if s.freeIn b < s.freeIn c then c else b) 0

/-- The picture that a core is reserved for (R102), while it has units to come. -/
def State.reservation (s : State) (c : Nat) : Option Nat :=
  (s.core c).reservedFor.filter fun n => Tab.has s.dec.pics n && decide ((s.pic n).dispatched < (s.pic n).units)

/-- A unit of the picture may go to a core: the core limit, the four pictures of R97, the cluster of R98 unless the core is reserved
for the picture (R102), the picture limit of R12, decode order. -/
def State.unitFits (s : State) (n : Nat) (p : Picture) (c : Nat) : Bool :=
  let home := p.cluster.getD s.bestCluster
  decide (p.dispatched < p.units) && decide (s.coresOf n < p.coreLimit) &&
  (c / 8 == home || (decide (8 < p.args.coresMax) && s.freeIn home == 0) || s.reservation c == some n) &&
  (decide (0 < p.dispatched) ||
    (((s.picsOf p.stream).all fun e => decide (p.seq ≤ e.2.seq) || decide (0 < e.2.dispatched)) &&
     decide (((s.picsOf p.stream).filter fun e => decide (0 < e.2.dispatched) && !e.2.decoded).length < 4) &&
     decide (s.pictureCount < s.variant.pictureLimit)))

/-- STORED_MAX in force: 0 while above HOT (R104, R411). -/
def State.storedMax (s : State) : Nat :=
  if s.flag Reg.PWR_THROTTLE_HOT then 0 else s.fld Reg.DEC_ADMIT_STORED_MAX

/-- Cores that run stored units. -/
def State.storedCores (s : State) : Nat :=
  (s.dec.cores.filter fun e => e.2.busy && !(s.stream e.2.stream).args.live).length

/-- The place of a picture's unit in the order of R103: four numbers, smallest first. -/
def State.rank (s : State) (n : Nat) (p : Picture) (c : Nat) : List Nat :=
  let a := p.args
  if s.reservation c = some n then [0, p.seq, 0, 0]
  else if a.live then
    let d := s.effDeadline p
    if s.now ≤ d then [1, d, a.cls, p.stream] else [2, a.cls, d, p.stream]
  else
    let t := (Tab.get 0 s.dec.turn a.cls)
    [3, a.cls, if 0 < p.dispatched then 0 else 1, (p.stream + 1024 - t - 1) % 1024]

/-- The picture whose unit core `c` takes next; none where no unit may go there. -/
def State.pick (s : State) (c : Nat) : Option Nat :=
  let r := s.reservation c
  let ok := s.dec.pics.filter fun e =>
    let x := s.stream e.2.stream
    (x.state == 2 || x.state == 3) && !e.2.closed && !e.2.decoded && s.unitFits e.1 e.2 c &&
    (r.isNone || r == some e.1) && (e.2.args.live || decide (s.storedCores < s.storedMax))
  (ok.foldl (fun (b : Option (Nat × List Nat)) e =>
    let k := s.rank e.1 e.2 c
    match b with
    | none => some (e.1, k)
    | some (m, kb) => if k < kb then some (e.1, k) else some (m, kb)) none).map (·.1)

/-! ### Concealment and the start of a picture (R18, R97, R99, R119-R122) -/

/-- Marks a picture concealed, counted once (R122). -/
def State.markConcealed (s : State) (n : Nat) : State :=
  let p := s.pic n
  if p.concealed ∨ !(Tab.has s.dec.pics n) then s
  else
    let x := s.stream p.stream
    (s.setPic n { p with concealed := true }).setStream p.stream
      { x with concealedPics := wrap 32 (x.concealedPics + 1), concealing := true
               concealCount := if x.concealing then x.concealCount + 1 else 1 }

/-- The picture ends a run of concealment, and is clean of what went before it: a random access point, or for a VVC GDR or an H.264
recovery point the recovery point picture (R122). -/
def Picture.clean (p : Picture) : Bool := (p.info.rap && !p.info.gdr) || p.info.recovery

/-- The picture uses a reference that is concealed, or one that holds an invalid unit header (R122, R128). -/
def State.usesConcealed (s : State) (p : Picture) : Bool :=
  !p.info.intra && !p.clean && (p.dep || p.refPics.any fun r => match r with
    | some m => Tab.has s.dec.pics m && ((s.pic m).concealed || (s.pic m).badRef)
    | none => false)

/-- A picture is concealed, and with it every decoded picture that uses it (R122), in decode order. -/
def State.conceal (s : State) (n : Nat) : State :=
  let s1 := s.markConcealed n
  (s1.picsOf (s.pic n).stream).foldl (fun t e =>
    if (t.pic e.1).decoded ∧ t.usesConcealed (t.pic e.1) then t.markConcealed e.1 else t) s1

/-- The decoded picture buffer keeps what the standard keeps as picture `p` starts (R110, R111): a pinned picture leaves its slot with
it, unless KEEP_PINNED keeps it as a substitute. -/
def Picture.stays (q p : Picture) : Picture :=
  if q.inDpb ∧ !(p.info.keep.contains q.info.order) ∧ q.seq < p.seq then
    let sub := q.pinned && p.args.keepPinned && p.info.rap && !p.info.gdr
    { q with inDpb := false, copyTo := none, pinned := sub, substituteOnly := q.substituteOnly || sub
             slot := if q.pinned ∧ !sub then none else q.slot }
  else q

/-- The references that a picture's decoding uses, and the missing ones with their substitutes (R120, R121, R123). -/
def State.fixRefs (s : State) (p : Picture) : Picture :=
  let found := p.info.refs.map fun r => (r, s.findRef p r, s.substitute p r)
  { p with
    refPics := if p.info.intra then [(s.substitute p p.info.order).2.2] else found.map fun f => match f.2.1 with
      | some e => some e.1
      | none => f.2.2.2.2
    missing := (found.filter fun f => f.2.1.isNone).map fun f => (f.1, f.2.2.1, f.2.2.2.1)
    dep := found.any fun f => match f.2.1 with
      | some e => e.2.concealed || e.2.badRef
      | none => false }

/-- The start of a picture's decode, in decode order: its references are looked up, the buffer keeps what the standard keeps,
the output process releases its pictures, and pictures that wait behind it are lost for output where a later one is released (R18, R97,
R99, R119). -/
def State.startPicture (s : State) (n : Nat) : State :=
  let p := s.pic n
  let x := s.stream p.stream
  let out := p.info.outputs.contains p.info.order && !p.noOutput
  let freed := (s.picsOf p.stream).filter fun e => e.1 != n && p.info.outputs.contains e.2.info.order && !e.2.noOutput && !e.2.released
  let q := { s.fixRefs p with inDpb := true, released := out, cluster := some (p.cluster.getD s.bestCluster) }
  let s1 := (s.mapPics fun m r =>
    if r.stream ≠ p.stream ∨ r.closed ∨ m = n then r
    else
      let r := if freed.any fun e => e.1 == m then { r with released := true } else r
      let late := r.dispatched == 0 && (out && r.before p || freed.any fun e => r.before e.2)
      ({ r with noOutput := r.noOutput || late } : Picture).stays p).setPic n q
  let last := if out then some n else (lastOut freed).orElse fun _ => x.lastOutput
  let short := decide (p.units < x.args.substreams)
  let s2 := s1.setStream p.stream { x with lastOutput := last, primaries := p.info.primaries, transfer := p.info.transfer
                                           matrix := p.info.matrix, fullRange := b2n p.info.fullRange
                                           shortSplit := wrap 32 (x.shortSplit + b2n short) }
  let s3 := s2.takeSlot n
  if short then s3.streamEvent p.stream Blk.dec 0x0104 [p.auSeq, p.units, x.args.substreams] else s3

/-- Cycles that one unit of a picture is planned to take (R100). -/
def Picture.unitCycles (p : Picture) : Nat :=
  let wt := w6 p.info.chroma
  let luma := if p.kind = 3 then p.info.width * min p.lag (p.info.height - p.dispatched * p.lag)
    else p.info.width * p.info.height / p.units
  max (recon luma wt) (entropyCost (p.bytes * 8 / p.units)) + 6000

/-- A free core takes its next unit (R97-R104). -/
def State.dispatch (s : State) (c : Nat) : State :=
  let x := s.core c
  if !s.coreOnline c ∨ x.busy ∨ s.pwr.critStop ∨ !s.escOk 1 c then s
  else match s.pick c with
    | none => s
    | some n =>
      if (s.pic n).dispatched = 0 ∧ !s.pageEnabled Blk.rfs 0 then s
      else
      let s1 := if (s.pic n).dispatched = 0 then s.startPicture n else s
      let p := s1.pic n
      let y := { x with busy := true, pic := n, unit := p.dispatched, unitKind := p.kind, stream := p.stream
                        stopping := false, startedAt := s.now, plannedEnd := s.now + p.unitCycles * Clk.cclk }
      let s2 := (s1.setPic n { p with dispatched := p.dispatched + 1 }).setCore c y
      let s3 := if p.args.live then s2 else { s2 with dec := { s2.dec with turn := Tab.set s2.dec.turn p.args.cls p.stream } }
      if p.dispatched + 1 = p.units then
        s3.mapCores fun y => if y.reservedFor = some n then { y with reservedFor := none } else y
      else s3

/-- UNIT_DISPATCH. -/
def execUnitDispatch (core : Nat) (s : State) : Out := s.run fun s => s.dispatch core

/-! ### Work units that end (R96, R110, R121-R124) -/

/-- Band credits of a picture that the compositor returns, up to `k` bands (Table 1.4, R165). -/
def State.returnBands (s : State) (n k : Nat) : State :=
  let p := s.pic n
  let d := min k p.bands - p.bandsBack
  if !(Tab.has s.dec.pics n) ∨ d = 0 then s
  else
    let s1 := s.setPic n { p with bandsBack := p.bandsBack + d }
    { s1 with dec := { s1.dec with crReturned := wrap 64 (s1.dec.crReturned + d), crOut := wrap 64 (s1.dec.crOut + 2 ^ 64 - d) } }

/-- A window shows the picture in the frame in scan or a later one, or may repeat it. -/
def State.onWindow (s : State) (n : Nat) : Bool := s.cnv.wins.any fun w => w.2.binds.any fun b => b.pic == some n

/-- A picture whose decode has begun and goes on uses picture `n`. -/
def State.inUse (s : State) (n : Nat) : Bool :=
  s.dec.pics.any fun e => decide (0 < e.2.dispatched) && !e.2.decoded && e.2.refPics.contains (some n)

/-- A RUNNING encode session has yet to take the picture (R240). -/
def State.relayed (s : State) (n : Nat) (p : Picture) : Bool :=
  p.released && s.enc.sessions.any fun e =>
    e.2.state == 1 && e.2.isStream && e.2.stream == p.stream && !(e.2.taken.contains n)

/-- Pictures that nothing holds any more leave the store; credits for bands that no window will read go back. -/
def State.dropUnheld (s : State) : State :=
  let idle := fun n (p : Picture) => p.decoded && !p.held && !(s.onWindow n) && (p.shown || p.noOutput)
  let s1 := (s.dec.pics.filter fun e => idle e.1 e.2).foldl (fun t e => t.returnBands e.1 e.2.bands) s
  s1.keepPics fun n p =>
    !p.decoded || p.held || p.inDpb || p.pinned || p.substituteOnly || s.inUse n ||
    s.relayed n p || (s.stream p.stream).lastShown == some n || (s.stream p.stream).lastOutput == some n ||
    s.onWindow n || decide (p.bandsBack < p.bands)

/-- A RUNNING encode session takes its pictures from the picture's stream and has not taken this one (R439). -/
def State.relayPending (s : State) (n : Nat) (p : Picture) : Bool :=
  s.enc.sessions.any fun e => e.2.state == 1 && e.2.isStream && e.2.stream == p.stream && !(e.2.taken.contains n)

/-- A picture of a stream that no window of the active calibre shows stops being held at M(F + 1), or when an encode session
has taken it, if that is later (R439). -/
def State.releaseWindowless (s : State) : State :=
  let shown := fun (st : Nat) => match s.activeImg with
    | some im => Img.showing im st != []
    | none => false
  let due := fun (n : Nat) (p : Picture) =>
    p.held && !(shown p.stream) && !(s.relayPending n p) &&
    match p.target with
    | some f => frameLe (frameAdd f 1) s.frameCount
    | none => false
  (s.mapPics fun n p => if due n p then { p with held := false, noOutput := true } else p).dropUnheld

/-- The missing references of a picture are reported once each, by the first picture that references them, and the picture
is concealed (R120-R122). -/
def State.reportMissing (s : State) (n : Nat) : List (Nat × Nat × Nat) → State
  | [] => s
  | (r, kind, order) :: rs =>
    let p := s.pic n
    let x := s.stream p.stream
    let key := p.epoch * 2 ^ 32 + r
    let s1 :=
      if x.reported.contains key then s
      else
        (s.setStream p.stream { x with reported := key :: x.reported, refMissing := wrap 32 (x.refMissing + 1) }).streamEvent
          p.stream Blk.rfs 0x0112 [p.auSeq, r % 2 ^ 32, kind, order]
    State.reportMissing (s1.conceal n) n rs

/-- Rows that are final are stored, and band credits newly issued to the compositor (Table 1.4, R80, R96). -/
def State.issueBands (s0 : State) (n : Nat) : State :=
  let s := s0.storeRows n (min (s0.pic n).info.height (16 * (s0.pic n).finalBands))
  let p := s.pic n
  let now := if p.rowChains ∨ p.decoded then p.finalBands else p.bands
  let k := now - p.bands
  let s1 := s.setPic n { p with bands := p.bands + k }
  { s1 with dec := { s1.dec with crIssued := wrap 64 (s1.dec.crIssued + k), crOut := wrap 64 (s1.dec.crOut + k) } }

/-- Targets of a stored stream under TIMING = ASAP (R92), settled in output order as pictures are released and complete: the frame of
the previous picture plus PACE, or the first frame whose pickup follows the picture's completion, if that is later. -/
def State.settleTargets (s : State) (st : Nat) : Nat → State
  | 0 => s
  | fuel + 1 =>
    let next := ((s.picsOf st).filter fun e => e.2.target.isNone && e.2.released && !e.2.noOutput).foldl
      (fun (m : Option (Nat × Picture)) e => match m with
        | none => some e
        | some b => if e.2.before b.2 then some e else some b) none
    match next with
    | none => s
    | some (m, q) =>
      if !q.decoded then s
      else
        let x := s.stream st
        let first := ((List.range 4).map (frameAdd q.doneFrame)).find? (fun k => decide (q.doneAt < s.firstPickup k st))
          |>.getD (frameAdd q.doneFrame 4)
        let f := match x.lastTarget with
          | some b => if frameLe first (frameAdd b q.args.pace) then frameAdd b q.args.pace else first
          | none => first
        ((s.setPic m { q with target := some f }).setStream st { x with lastTarget := some f }).settleTargets st fuel

/-- Every stored stream's targets are settled. -/
def State.settleAll (s : State) : State :=
  s.dec.streams.foldl (fun t e => t.settleTargets e.1 (t.picsOf e.1).length) s

/-- A picture completes after the pickup of its target frame (R124). -/
def State.isLate (s : State) (p : Picture) : Bool :=
  !p.shown && match p.target with
    | some f => decide (s.firstPickup f p.stream < s.now)
    | none => false

/-- The late handling of a picture that completes (R124): without CATCHUP it is dropped from output. -/
def State.finishOutput (s : State) (n : Nat) : State :=
  let p := s.pic n
  let late := s.isLate p
  let lost := late && !p.args.catchup && !p.noOutput
  let drop := lost || p.noOutput
  let x := s.stream p.stream
  let s1 := s.setStream p.stream { x with decoded := wrap 32 (x.decoded + 1)
                                          flushDecoded := if x.state = 3 then x.flushDecoded + 1 else x.flushDecoded
                                          lateDrop := wrap 32 (x.lateDrop + b2n lost) }
  let s2 := s1.setPic n { p with decoded := true, bufs := [], held := !drop && !p.shown, late := late, noOutput := drop && !p.shown
                                 doneAt := s.now, doneFrame := s.frameCount }
  if lost then s2.streamEvent p.stream Blk.rfs 0x0114 [p.auSeq, p.target.getD 0, s.frameCount] else s2

/-- Long-term pictures that a picture's marking names go into pinned slots (R110); AV1 pins by PIN_MASK. -/
def State.pinMarked (s : State) (n : Nat) : State :=
  let p := s.pic n
  if p.args.codec = 2 then s
  else p.info.pin.foldl (fun t o =>
    match ((t.picsOf p.stream).find? fun e => e.2.inDpb && e.2.info.order == o) with
    | some e => t.pinPicture p.stream e.1
    | none => t) s

/-- A run of concealment ends at a clean random access point or recovery point picture (R122). -/
def State.concealEnd (s : State) (n : Nat) : State :=
  let p := s.pic n
  let x := s.stream p.stream
  if x.concealing ∧ p.clean ∧ !p.concealed then
    (s.setStream p.stream { x with concealing := false, concealCount := 0 }).streamEvent p.stream Blk.rfs 0x0116
      [p.auSeq, x.concealCount]
  else s

/-- A picture that is fully decoded: counters, pinned slots, the end of a concealment run, late handling (R110, R122,
R124, R439). -/
def State.pictureDone (s : State) (n : Nat) : State :=
  let p := s.pic n
  let s1 := s.freeBufs p.bufs
  let s2 := if s1.usesConcealed p then s1.conceal n else s1
  (((s2.finishOutput n).settleTargets p.stream (s2.picsOf p.stream).length).pinMarked n).concealEnd n

/-- A core goes OFFLINE: what asked for it holds, and live streams are checked again (R87). -/
def State.recheck (s : State) (cause : Nat) : State :=
  let full := decide (s.liveCap < s.fld Reg.DEC_LOAD_LIVE)
  s.dec.streams.foldl (fun t e =>
    let x := s.stream e.1
    if x.state ≠ 0 ∧ x.args.live ∧ (full ∨ s.admitPeriod < s.planTime x.args) then
      t.streamEvent e.1 Blk.dec 0x0103 [s.fld Reg.DEC_LOAD_LIVE, s.liveCap, cause]
    else t) s

def State.coreOffline (s : State) (c : Nat) : State :=
  if (s.core c).offline then s else (s.setCore c { s.core c with offline := true, reservedFor := none }).recheck 2

/-- KiB of reference reads: in plain layout as many as plain, in compressed layout at most the headers more (R107, R109). -/
def State.refReads (s : State) (p : Picture) (res : UnitResult) : Nat :=
  let packed := p.refPics.any fun r => match r with
    | some m => !(s.pic m).plain
    | none => false
  if packed then min res.refKib (res.plainKib + res.plainKib / 128 + 1) else res.plainKib

/-- What a core found of its references' units (R128): their headers are invalid, and their pictures count as concealed references. -/
def State.foundBad (s : State) (p : Picture) (bad : List (Nat × Nat)) : State :=
  let hits := p.refPics.filterMap fun r => match r with
    | some m =>
      let q := s.pic m
      let us := (bad.filter fun b => b.1 == q.info.order && decide (b.2 < q.packUnits)).map (·.2)
      if q.slot.isSome ∧ !q.plain ∧ (us ≠ [] ∨ s.holdsBad m) then some (m, us) else none
    | none => none
  if hits = [] then s
  else State.latch (hits.foldl (fun t h =>
    let q := t.pic h.1
    (h.2.foldl (fun u k => u.dramPut (u.headerAddr q k) [0xFF]) t).setPic h.1 { q with badRef := true }) s) .rfsComp

/-- The blocks that a unit fills under R123: those of a corrupt unit from the one found, or those of a wavefront row whose context
source lies in a filled region, up to the next slice start: the second CTU above, the first for VVC (log 129). -/
def Picture.fills (p : Picture) (u : Nat) (res : UnitResult) : Option (Nat × Nat × Nat) :=
  if res.corruptKind ≠ 0 then some (u, res.firstBlock, res.blocksFilled)
  else if p.kind = 3 ∧ 0 < u ∧ p.blockFilled (if p.args.codec = 4 then 0 else min 1 (p.blocksWide - 1)) (u - 1) then
    some (u, u * p.blocksWide, if res.toSlice = 0 then p.blocksWide else min res.toSlice p.blocksWide)
  else none

/-- A unit fills blocks: counted, reported where the core found it corrupt, and the picture is concealed (R122, R123). -/
def State.fillUnit (s : State) (n u : Nat) (res : UnitResult) : State :=
  let p := s.pic n
  match p.fills u res with
  | none => s
  | some g =>
    let x := s.stream p.stream
    let s1 := (s.setPic n { p with filled := p.filled ++ [g] }).setStream p.stream
      { x with sliceCorrupt := wrap 32 (x.sliceCorrupt + 1) }
    let s2 := if res.corruptKind = 0 then s1
      else s1.streamEvent p.stream Blk.rfs 0x0113 [p.auSeq, res.firstBlock, res.blocksFilled, res.corruptKind]
    s2.conceal n

/-- A unit of picture `n` is done (R96, R97, R121-R124, R128). -/
def State.unitOf (s : State) (n u : Nat) (res : UnitResult) : State :=
  let p := s.pic n
  let x := s.stream p.stream
  let s1 := s.setStream p.stream { x with refReadKib := wrap 32 (x.refReadKib + s.refReads p res)
                                          refPlainKib := wrap 32 (x.refPlainKib + res.plainKib) }
  let s2 := if p.done = [] then s1.reportMissing n p.missing else s1
  let s3 := (s2.foundBad p res.compBad).fillUnit n u res
  let s4 := s3.setPic n { s3.pic n with done := u :: (s3.pic n).done }
  let last := (s4.pic n).done.length == (s4.pic n).units
  let s5 := if last then s4.pictureDone n else s4
  let s6 := s5.issueBands n
  (if last then s6.packPicture n else s6).dropUnheld

/-- A work unit ends on its core. One of a stream that became FAULTED has come to its safe point only (R88). -/
def State.unitDone (s : State) (c : Nat) (res : UnitResult) : State :=
  let x := s.core c
  if !x.busy then s
  else
    let gone := x.stopping || !(Tab.has s.dec.pics x.pic)
    let s1 := s.setCore c { x with busy := false, stopping := false, units := if gone then x.units else wrap 32 (x.units + 1)
                                   busyCycles := x.busyCycles + (s.now - x.startedAt) / Clk.cclk }
    let s2 := if gone then s1 else s1.unitOf x.pic x.unit res
    if x.offlineReq then s2.coreOffline c else s2

/-- The unit reads a reference band that is not final yet: the core waits (R97). -/
def State.refWait (s : State) (n : Nat) (res : UnitResult) : Bool :=
  (s.pic n).refPics.any fun r => match r with
    | some m => res.refBands.any fun b => b.1 == (s.pic m).info.order && Tab.has s.dec.pics m && decide ((s.pic m).finalBands ≤ b.2)
    | none => false

/-- The copy of a picture into a pinned slot ends: its ordinary slot is released (R110). -/
def State.pinCopied (s : State) (st order : Nat) : State :=
  match (s.picsOf st).find? fun e => e.2.copyTo.isSome && e.2.info.order == order with
  | none => s
  | some e => ((s.setPic e.1 { e.2 with copyTo := none, pinned := true, slot := e.2.copyTo.map fun i => (true, i) }).copyPlain
      e.1).dropUnheld

/-- PIN_COPY_DONE. -/
def execPinCopyDone (stream order : Nat) (s : State) : Out := s.run fun s => s.pinCopied stream order

/-! ### Core faults and control (R88, R106) -/

/-- A stream becomes FAULTED (R88, Table 4.4): its cores stop at their next safe point, the picture `n` is dropped, and flush and close under way end
with FAULTED. -/
def State.faultStream (s : State) (st n : Nat) : State :=
  let peers := (s.dec.cores.filter fun e => e.2.busy && e.2.stream == st).map (·.1)
  let s1 := peers.foldl (fun t d => t.escRequest 1 d true) s
  let a := s1.mapCores fun y => if y.busy ∧ y.stream = st then { y with stopping := true } else y
  let b := a.freeBufs (a.pic n).bufs
  let b := b.keepPics fun m _ => m != n
  let js := (s.stream st).drains
  let d := (b.setStream st { b.stream st with drains := [] }).streamTo st 4 2
  js.foldl (fun t k => if k.timedOut then t else t.finish k.job St.faulted) d

/-- A fault of class C2 or above in a decode core (R88, R106): the core goes OFFLINE; a stream whose unit it runs becomes
FAULTED. -/
def State.decCoreFault (s : State) (c : Nat) : State :=
  let x := s.core c
  let st := x.stream
  let s1 := ((s.setCore c { x with busy := false, stopping := false, faulted := true }).latch .decCore (c / 8)).escRequest 1 c false
  let s2 :=
    if x.busy ∧ ((s.stream st).state = 1 ∨ (s.stream st).state = 2 ∨ (s.stream st).state = 3) then s1.faultStream st x.pic
    else s1
  s2.coreOffline c

/-- A work unit's end with the checks of its core and of the reference store (R106, R372, Tables 4.10 and 5.7): an inverted
check of the core's data path faults the core, and one of the granule map the stream whose granules it maps; so does a memory error of
the core that software has raised to class C2 (R88). -/
def State.unitEnd (s : State) (c : Nat) (res : UnitResult) : State :=
  let x := s.core c
  if !x.busy then s
  else
    let s1 := (s.check .decSram (c / 8)).check .rfsSram
    let sram := (s.takeInject .decSram (c / 8)).isSome && decide (2 ≤ s.effClass .decSram (c / 8))
    match s1.takeInject .decCore (c / 8), s1.takeInject .rfsMap with
    | some t, _ => t.decCoreFault c
    | none, some t => (t.latch .rfsMap).faultStream x.stream x.pic
    | none, none =>
      if sram ∧ !x.stopping then (s1.setCore c { s1.core c with busy := false }).faultStream x.stream x.pic
      else if !x.stopping ∧ s1.refWait x.pic res then s1
      else s1.unitDone c res

/-- WORK_UNIT_DONE. -/
def execWorkUnitDone (core : Nat) (res : UnitResult) (s : State) : Out := s.run fun s => s.unitEnd core res

/-- A write of DEC_CORE_CTL: OFFLINE takes the core out of dispatch once its unit ends; RESET resets an offline, idle core
(R106). -/
def State.decReset (s : State) (c : Nat) : State :=
  let x := s.core c
  if x.offline ∧ !x.busy then (s.setCore c { x with faulted := false, reservedFor := none }).escAdopt 1 c else s

def State.decCtl (s : State) (c v : Nat) : State :=
  if s.variant.decCores ≤ c then s
  else
    let x := s.core c
    let off := bit v 0
    let s1 := s.setCore c { x with offlineReq := off }
    let s2 :=
      if off then (if x.busy then s1 else s1.coreOffline c)
      else if x.faulted then s1 else s1.setCore c { s1.core c with offline := false }
    if bit v 1 then s2.decReset c else s2

/-- DEC_CORE_RESET. -/
def execDecCoreReset (core : Nat) (s : State) : Out :=
  s.run fun s => s.regCmd Blk.dec (core / 8) 0 fun s => s.decReset core

/-- DEC_CORE_CTL_OFFLINE. -/
def execDecCoreCtlOffline (core : Nat) (v : Word) (s : State) : Out :=
  s.run fun s => s.regCmd Blk.dec (core / 8) (rsvBits v 3) fun s => s.decCtl core v.toNat

/-! ### Pickup (R15, R16, R18, R93, R101, R102, R124-R126, R157, R159, R439) -/

def State.win (s : State) (w : Nat) : WinState := Tab.get {} s.cnv.wins w

def State.setWin (s : State) (w : Nat) (x : WinState) : State :=
  { s with cnv := { s.cnv with wins := Tab.set s.cnv.wins w x } }

/-- What a window shows in frame k, once it has been picked up for it. -/
def WinState.at_ (x : WinState) (k : Nat) : Option WinBind := x.binds.find? fun b => b.frame == k

/-- What a window shows in the last frame it was picked up for. -/
def WinState.last (x : WinState) : WinBind := x.binds.getLast?.getD {}

/-- A window picked up for one more frame. -/
def WinState.put (x : WinState) (b : WinBind) : WinState := { x with binds := x.binds.filter (fun c => c.frame != b.frame) ++ [b] }

/-- The scan of frame k is over: what a window showed up to it is needed no longer, but for the last binding, which it may repeat
unless its stream has been closed (R126, R162). -/
def WinState.scanned (x : WinState) (k : Nat) (closed : Nat → Bool) : WinState :=
  let later := x.binds.filter fun b => !(frameLe b.frame k)
  { x with binds := if later = [] then x.binds.getLast?.toList.map fun b =>
      if (match b.pic with
        | some n => closed n
        | none => false) then { b with pic := none, empty := true } else b
    else later }

/-- The instants at which the online cores are free, earliest first, with the core. -/
def State.freeTimes (s : State) : List (Nat × Nat) :=
  sortBy (·.1) ((s.coresOnline.filter fun c => (s.reservation c).isNone).map fun c =>
    (if (s.core c).busy then max s.now (s.core c).plannedEnd else s.now, c))

/-- need(j) of R101: the first instant at which a window of the picture's stream reads the band; none where none reads it. -/
def State.firstNeed (s : State) (im : Bytes) (k : Nat) (p : Picture) (j : Nat) : Option Nat :=
  ((Img.showing im p.stream).filterMap fun i => s.bandNeed im k (Img.window im i) p.info.height j).foldl
    (fun m t => match m with
      | none => some t
      | some u => some (min u t)) none

/-- bind_test (R101) for a picture in frame k. -/
def State.bindTest (s : State) (im : Bytes) (k : Nat) (p : Picture) : Bool :=
  let n := p.coreLimit
  let wt := w6 p.info.chroma
  let h := p.info.height
  match (if 0 < p.dispatched then some s.now else (s.freeTimes[n - 1]?).map (·.1)) with
  | none => false
  | some t0 =>
    (List.range p.nBands).all fun j =>
      decide (j < p.finalBands) ||
      (let rows := min h (16 * (j + 1) + p.lag) - p.rowsFinal
       let nbits := p.bytes * 8 * rows / h
       let c := max ((recon (p.info.width * rows) wt + n - 1) / n) ((entropyCost nbits + n - 1) / n)
       match s.firstNeed im k p j with
       | none => true
       | some need => decide (t0 + s.margin (c + 6000) * Clk.cclk ≤ need))

/-- The binding test of R16. -/
def State.passes (s : State) (im : Bytes) (k : Nat) (p : Picture) : Bool := p.decoded || (p.rowChains && s.bindTest im k p)

/-- A picture is eligible (R18): every picture before it in output order is decoded, bound, or lost for output. -/
def State.eligible (s : State) (p : Picture) : Bool :=
  (s.picsOf p.stream).all fun e => !(e.2.before p) || e.2.decoded || e.2.shown || e.2.noOutput

/-- A candidate at the pickup of frame k (R18, R93, R125): released by the output process, or about to be when its decode
starts. -/
def State.candidate (s : State) (k : Nat) (p : Picture) : Bool :=
  !p.noOutput && !p.closed && (p.released || (p.dispatched == 0 && p.info.outputs.contains p.info.order)) &&
  (match p.target with
   | some f => frameLe f k
   | none => false) &&
  (p.held || p.shown || !p.decoded) && s.eligible p && !(p.args.hideConcealed && p.concealed)

/-- The codes of a window that shows a picture under a signal of its stream (R159): an override wins, else the signal; a code that
Table 7.3 lacks is the default. -/
def winColour (w : Bytes) (signal : Nat × Nat × Nat × Nat) (chroma : Nat) : Nat × Nat × Nat × Nat :=
  let pr := if Win.primaries w = 0 then signal.1 else Win.primaries w
  let tr := if Win.transfer w = 0 then signal.2.1 else Win.transfer w
  let mx := if Win.matrix w = 0xFF then signal.2.2.1 else Win.matrix w
  let fr := if Win.range w = 1 then 0 else if Win.range w = 2 then 1 else signal.2.2.2
  (if [1, 9, 11, 12].contains pr then pr else 1, if [1, 6, 14, 15, 8, 16, 18].contains tr then tr else 1,
   if [1, 5, 6, 9].contains mx ∨ (mx = 0 ∧ chroma = 3) then mx else 1, fr)

/-- A window will show picture `n` in frame k (R157, R159): its crop and codes are worked out, and a bad ratio is raised once. -/
def State.showPic (s : State) (w : Nat) (e : Bytes) (k : Nat) (b : Bool) (n : Nat) (repeated : Bool)
    (signal : Nat × Nat × Nat × Nat) : State :=
  let p := s.pic n
  let bad := badRatio e p.info.width p.info.height
  let ((_, nx), (_, ny)) := winCrop e p.info.width p.info.height
  let (pr, tr, mx, fr) := winColour e signal p.info.chroma
  let s1 := s.setWin w ((s.win w).put { frame := k, bank := b, pic := some n, repeated := repeated, empty := bad, signal := signal
                                        primaries := pr, transfer := tr, matrix := mx, fullRange := fr })
  let key := w * 2 ^ 32 + n
  if bad ∧ !(s.cnv.ratioRaised.contains key) then
    State.event { s1 with cnv := { s1.cnv with ratioRaised := key :: s1.cnv.ratioRaised } } Reg.CNV_EVQ_RING Reg.CNV_EVQ_EN
      0x0703 Blk.cnv w [p.stream, nx, ny]
  else s1

/-- A window binds a picture (R126, R439): the pictures before it that are still held are passed over, the last picture shown is kept,
and a picture that has not started has its cores reserved (R102). -/
def State.bind (s : State) (w : Nat) (e : Bytes) (k : Nat) (b : Bool) (n : Nat) : State :=
  let p := s.pic n
  let st := p.stream
  let older := (s.picsOf st).filter fun q => q.2.held && q.2.before p
  let lateOver := (older.filter fun q => q.2.late).length
  let s1 := s.mapPics fun m q =>
    if m = n then { q with shown := true, held := false }
    else if older.any fun o => o.1 == m then { q with held := false, noOutput := true } else q
  let x := s1.stream st
  let s2 := s1.setStream st { x with lastShown := some n, lateDrop := wrap 32 (x.lateDrop + lateOver) }
  let s3 := s2.showPic w e k b n false (x.primaries, x.transfer, x.matrix, x.fullRange)
  let s4 :=
    if p.decoded ∨ 0 < p.dispatched then s3
    else (s3.freeTimes.take p.coreLimit).foldl (fun t c => t.setCore c.2 { t.core c.2 with reservedFor := some n }) s3
  s4.dropUnheld

/-- The frame whose pickup of a window is due: the frame in scan if the window has not been picked up for it, else the next;
none before the instant of the pickup. -/
def State.pickupFrame (s : State) (w : Nat) : Option Nat :=
  let n := s.frameCount
  let due := fun k => match s.bankFor k with
    | some (_, im) => decide (w < Img.nWindows im) && Win.enable (Img.window im w) && !(Win.solid (Img.window im w)) &&
        decide (s.pickupTime im k (Img.window im w) ≤ s.now)
    | none => false
  let has := fun k => ((s.win w).at_ k).isSome
  if !(has n) && !(has (frameAdd n 1)) && due n then some n
  else if !(has (frameAdd n 1)) && due (frameAdd n 1) then some (frameAdd n 1) else none

/-- A unit of the stream is committed, not yet at the dispatcher, and due at the pickup of frame k (R93): on its rings or held behind a
gap. -/
def State.unitOwed (s : State) (st k : Nat) : Bool :=
  let due := fun (commitAt frame time : Nat) =>
    match s.unitTarget st { auSeq := 0, time := time, bytes := 0, colour := 0, meter := 0, bufs := [], commitAt := commitAt
                            marked := false, lost := 0, info := {}, commitFrame := frame } with
    | some f => frameLe f k
    | none => false
  (s.stream st).held.any (fun u => u.lost == 0 && due u.commitAt u.commitFrame u.time) ||
  s.rng.rings.any fun e => e.2.feedsStream && e.2.link == st && e.2.pkts.any fun p =>
    p.committed && !p.dropped && !p.gone && due p.commitAt p.commitFrame p.time

/-- Nothing new passes at a pickup of frame k: LATE is counted once a frame, if a committed picture is due that is not yet shown (R15,
R93). -/
def State.countLate (s : State) (st k : Nat) : State :=
  let x := s.stream st
  let owed := (s.picsOf st).any (fun q => !q.2.shown && !q.2.noOutput && match q.2.target with
    | some f => frameLe f k
    | none => false) || s.unitOwed st k
  if owed ∧ x.lateFrame ≠ some k then s.setStream st { x with late := wrap 32 (x.late + 1), lateFrame := some k } else s

/-- The window repeats its last picture in frame k (R15, R163), or shows EMPTY where it has none. -/
def State.repeatPic (s : State) (w : Nat) (e : Bytes) (k : Nat) (b : Bool) (mine : Option Nat) : State :=
  match mine with
  | some n =>
    let s1 := s.showPic w e k b n true (s.win w).last.signal
    s1.setWin w { s1.win w with repeats := wrap 32 ((s1.win w).repeats + 1) }
  | none => s.setWin w ((s.win w).put { frame := k, bank := b })

/-- Pickup of a window (R15). -/
def State.pickup (s : State) (w : Nat) : State :=
  match s.pickupFrame w with
  | none => s
  | some k =>
    match s.bankFor k with
    | none => s
    | some (b, im) =>
      let e := Img.window im w
      let st := Win.stream e
      if (s.stream st).state = 0 then (s.repeatPic w e k b none).dropUnheld
      else
        let mine := (s.win w).last.pic.filter fun n => Tab.has s.dec.pics n && (s.pic n).stream == st && !(s.pic n).closed
        let newer := fun (q : Picture) => match mine with
          | some n => (s.pic n).before q
          | none => true
        match lastOut ((s.picsOf st).filter fun q => newer q.2 && s.candidate k q.2 && s.passes im k q.2) with
        | some n => s.bind w e k b n
        | none => ((s.countLate st k).repeatPic w e k b mine).dropUnheld

/-- PICKUP. -/
def execPickup (window : Nat) (s : State) : Out := s.run fun s => s.pickup window

end Sys2Proof.Machine
end

