-- ==== Sys2Proof/Machine/Flags.lean ====
section
/-! DEFINITION. The flags and summary words that the block computes from its state: fault lines, group words and
FLT_STATUS (R368-R370), SYS_STATUS (R22), bank flags (Table 6.1). -/

namespace Sys2Proof.Machine

/-- Table 18.2: group, block type, first instance. -/
def faultGroups : List (Nat × Nat × Nat) :=
  [(0, Blk.sys, 0), (1, Blk.hst, 0)] ++ (List.range 8).map (fun g => (g + 2, Blk.rng, 32 * g)) ++
  (List.range 4).map (fun g => (g + 10, Blk.mtr, 32 * g)) ++
  [(14, Blk.dec, 0), (15, Blk.rfs, 0), (16, Blk.cnv, 0), (17, Blk.drv, 0), (18, Blk.fus, 0), (19, Blk.mze, 0),
   (20, Blk.enc, 0), (21, Blk.swc, 0), (22, Blk.bpm, 0), (23, Blk.sch, 0), (24, Blk.sch, 32), (25, Blk.plk, 0),
   (26, Blk.plk, 32), (27, Blk.lne, 0), (28, Blk.lne, 32), (29, Blk.esc, 0)] ++
  [(30, Blk.rgl, 0), (31, Blk.dma, 0), (32, Blk.int, 0), (33, Blk.flt, 0), (34, Blk.bst, 0), (35, Blk.mem, 0),
   (36, Blk.kst, 0), (37, Blk.clk, 0), (38, Blk.pwr, 0), (39, Blk.clb, 0)]

/-- The line of an instance: an enabled sticky bit is set (R368). -/
def State.faultLine (s : State) (blk inst : Nat) : Bool :=
  let page := pageOf blk inst
  s.hasPage blk inst && (s.sticky page &&& (s.fld Reg.PG_ERR_ENABLE page ||| Src.c4Mask blk)) != 0

/-- FLT_GRPg (R368). -/
def State.faultGroup (s : State) (g : Nat) : Nat :=
  match faultGroups.find? (·.1 = g) with
  | some (_, blk, base) => ((List.range 32).map fun i => b2n (s.faultLine blk (base + i)) * 2 ^ i).sum
  | none => 0

/-- FLT_TOP as 64 bits (R368). -/
def State.faultTop (s : State) : Nat := ((List.range 40).map fun g => b2n (s.faultGroup g != 0) * 2 ^ g).sum

/-- The effective classes of the enabled sticky bits of an instance. -/
def State.classesOf (s : State) (blk inst : Nat) : List Nat :=
  let page := pageOf blk inst
  let m := s.sticky page &&& (s.fld Reg.PG_ERR_ENABLE page ||| Src.c4Mask blk)
  ((List.range 32).filter (bit m)).map fun b => s.effClass (⟨blk, b, (Src.fixedClass blk b).getD 0⟩) inst

/-- FLT_STATUS.MAX_CLASS (R369). -/
def State.maxClass (s : State) : Nat :=
  (blockTypes.flatMap fun t => (List.range (t.count s.variant)).flatMap fun i => s.classesOf t.code i).foldl max 0

/-- FLT_STATUS bits [6:0] (Table 18.8). -/
def State.faultStatus (s : State) : Nat :=
  s.maxClass + 8 * b2n (s.faultTop != 0) + 16 * b2n s.flt.c4 + 32 * b2n s.flt.unlocked + 64 * b2n s.faultPin

/-- SYS_STATUS. -/
def State.sysStatus (s : State) : Nat := b2n s.flt.promiseVoid + 2 * b2n s.wound

/-- Pictures in flight of one stream (DEC_SW_INFLIGHT, R12). -/
def State.streamInFlight (s : State) (st : Nat) : Nat :=
  ((s.picsOf st).filter fun e => (decide (0 < e.2.dispatched) && !e.2.decoded) || e.2.held).length

/-- Doorbell groups that a tenant owns. -/
def State.groupsOf (s : State) (t : Nat) : Nat :=
  ((List.range s.variant.groups).filter fun g =>
    s.flag Reg.HST_DBGRP_OWNER_VALID g && s.fld Reg.HST_DBGRP_OWNER_TENANT g == t).length

end Sys2Proof.Machine
end

