-- ==== Sys2Proof/Machine/Rings.lean ====
section
/-! DEFINITION. Rings, meters, commands and queries (03_rings_and_jobs.md): doorbells, payload fetches, ring control,
command fetch, QUERY and the synchronous query registers. -/

namespace Sys2Proof.Machine

/-- A write of MTR_CFG (R75): from 0 to 1 ENABLE fills every bucket. -/
def State.meterCfg (s : State) (m v : Nat) : State :=
  if s.variant.meters ≤ m then s.absentPage (pageOf Blk.mtr (m / 32))
  else
    let x := { s.meter m with mode := bits v 1 1 }
    if bit v 0 ∧ !x.enable then
      s.setMeter m { x with enable := true, last := s.uclk, tc := x.cbs * tokens, tp := x.pebs * tokens, te := x.pebs * tokens }
    else s.setMeter m { x with enable := bit v 0 }

/-- MTR_ENABLE. -/
def execMtrEnable (m : Nat) (v : Word) (s : State) : Out :=
  s.run fun s => s.regCmd Blk.mtr (m / 32) (rsvBits v 3) fun s => s.meterCfg m v.toNat

/-- A write of MTR_CIR (1), MTR_PIR (2), MTR_CBS (3) or MTR_PEBS (4): levels stay, clipped to the new sizes; filling goes
on with the new values (R75). -/
def State.meterRate (s : State) (m reg v : Nat) : State :=
  if s.variant.meters ≤ m then s.absentPage (pageOf Blk.mtr (m / 32))
  else
    let n := v % 2 ^ 24
    let x := if (s.meter m).enable then (s.meter m).fill s.uclk else s.meter m
    match reg with
    | 1 => s.setMeter m { x with cir := n }
    | 2 => s.setMeter m { x with pir := n }
    | 3 => s.setMeter m { x with cbs := n, tc := min x.tc (n * tokens) }
    | 4 => s.setMeter m { x with pebs := n, tp := min x.tp (n * tokens), te := min x.te (n * tokens) }
    | _ => s.latch (.rsvWrite Blk.mtr) (m / 32)

/-- MTR_RATE_WRITE. -/
def execMtrRateWrite (m reg : Nat) (v : Word) (s : State) : Out :=
  s.run fun s => s.regCmd Blk.mtr (m / 32) (rsvBits v 0xFFFFFF) fun s => s.meterRate m reg v.toNat

/-! ### Entries (R39-R41, R57, R60) -/

/-- The entry with index `i` of a ring: device memory is read, host memory gives the operand `given` (log 5). A coherent ring's entry
comes from the line cache where a line holds it, and is otherwise taken into it with RdShared (R39). -/
def State.entryAt (s : State) (r i : Nat) (given : Bytes) : Bytes × State :=
  let x := s.ring r
  let a := x.itemAddr i
  if x.memspace then (s.dramBytes a x.itemSize, s.biasRead a x.itemSize)
  else if !s.coherent x then (given, s.hostReq .memRead a x.itemSize (s.ringTenant r))
  else
    let c : CacheLine := Tab.get {} s.hst.ccache (a / 64)
    match c.held a x.itemSize with
    | some bs => (bs, s)
    | none => (given, s.cachePut .rdShared a given c.dirty (s.ringTenant r))

/-- Entries of a coherent ring cannot be read while CXL.cache traffic is dropped (R48). -/
def State.entriesHeld (s : State) (x : Ring) : Bool := s.coherent x && s.hst.ideInsecure

/-- `n` entries from index `i` on. -/
def State.entriesAt (s : State) (r i n : Nat) (given : List Bytes) : List Bytes × State :=
  (List.range n).foldl (fun (acc : List Bytes × State) k =>
    let (e, t) := acc.2.entryAt r (wrap 32 (i + k)) (given.getD k [])
    (acc.1 ++ [e], t)) ([], s)

/-- The open packet at the end of a ring, and those before it. -/
def splitOpen (ps : List Pkt) : List Pkt × Option Pkt :=
  match ps.getLast? with
  | some p => if p.closed then (ps, none) else (ps.dropLast, some p)
  | none => ([], none)

/-- One scatter entry that PI covers (R60), which RNG_PEND counts already; one that extends a packet marked under R57 leaves it
again. -/
def Ring.absorb (x : Ring) (e : Bytes) : Ring :=
  let (ps, o) := splitOpen x.pkts
  let p : Pkt := match o with
    | some p => p
    | none => { started := Entry.start e, time := Entry.time e, auSeq := Entry.auSeq e }
  let fin := Entry.fin e || Entry.abort e
  let q := { p with items := p.items + 1, len := p.len + Entry.len e, segs := p.segs ++ [(Entry.addr e, Entry.len e)]
                    closed := fin, abort := p.abort || Entry.abort e, crc := p.crc || (Entry.fin e && Entry.crc e)
                    crc32 := if Entry.fin e then Entry.crc32 e else p.crc32 }
  { x with pkts := ps ++ [q], pend := if p.dropped then x.pend - 1 else x.pend }

/-- Items between CI and PI. -/
def Ring.span (x : Ring) : Nat := (x.pi + 2 ^ 32 - x.ci) % 2 ^ 32

/-- Drops the oldest whole packets whose payload fetch has not begun until PI − CI fits (R57): counted as produced, unless
they were, and as lost. One longer than its ring could never be legal and is rewound as step 2 of Table 3.3 does. True where a packet
was oversize. -/
def Ring.fit (x : Ring) (kept : List Pkt) (big : Bool) : List Pkt → List Nat → Ring × List Nat × Bool
  | [], freed => ({ x with pkts := kept }, freed, big)
  | p :: ps, freed =>
    if x.span ≤ x.size then ({ x with pkts := kept ++ p :: ps }, freed, big)
    else if p.closed ∧ !p.fetching ∧ p.unit.isNone ∧ !p.dropped ∧ !p.gone then
      if x.size < p.items then Ring.fit (x.rewindHead p kept true) kept true ps freed
      else
        Ring.fit { x with ci := wrap 32 (x.ci + p.items), lost := wrap 64 (x.lost + p.items)
                          produced := if p.committed then x.produced else wrap 64 (x.produced + p.items)
                          pend := if p.committed then x.pend else x.pend - p.items
                          count := if p.committed then x.count - p.items else x.count } kept big ps (freed ++ p.bufs)
    else Ring.fit x (kept ++ [p]) big ps freed

/-- The open packet is already longer than the ring and is marked for rewind (R57). -/
def Ring.markOpen (x : Ring) : Ring :=
  let (ps, o) := splitOpen x.pkts
  match o with
  | some p =>
    if x.size < x.span ∧ !p.dropped then { x with pkts := ps ++ [{ p with dropped := true }], pend := x.pend - p.items } else x
  | none => x

/-- The items that a producer index covers on a bitstream ring (R57). While its entries cannot be read (R48) they wait, and are read
with those of the next doorbell (log 122). -/
def State.coverPackets (s : State) (r d : Nat) (entries : List Bytes) : State :=
  let x := s.ring r
  if s.entriesHeld x then
    s.setRing r { x with pi := wrap 32 (x.pi + d), pend := x.pend + d, unread := x.unread + d }
  else
    let (es, s) := s.entriesAt r (wrap 32 (x.pi + 2 ^ 32 - x.unread)) (x.unread + d) entries
    let y := s.ring r
    let x1 := es.foldl Ring.absorb { y with pi := wrap 32 (x.pi + d), pend := y.pend + d, unread := 0 }
    let (x2, freed, big) := Ring.fit x1 [] false x1.pkts []
    let s1 := (s.setRing r x2.markOpen).freeBufs freed
    let s2 := if big then s1.latch .rngOversize (r / 32) else s1
    s2.ringRun r (3 * (s2.ring r).pkts.length + 3)

/-- The items that a producer index covers on a ring whose items are committed at once (R53, R57). -/
def Ring.coverItems (x : Ring) (d : Nat) : Ring :=
  let y := { x with pi := wrap 32 (x.pi + d), count := x.count + d, produced := wrap 64 (x.produced + d) }
  let k := y.span - y.size
  { y with ci := wrap 32 (y.ci + k), count := y.count - k, lost := wrap 64 (y.lost + k) }

/-- The entries that a producer index covers on an encode output ring (R244): each is one committed packet, an empty buffer;
the oldest go when PI passes the ring's size (R57). -/
def State.coverBuffers (s : State) (r d : Nat) (entries : List Bytes) : State :=
  let x := s.ring r
  let y := x.coverItems d
  if s.entriesHeld x then s.setRing r { y with unread := x.unread + d }
  else
    let (es, s1) := s.entriesAt r (wrap 32 (x.pi + 2 ^ 32 - x.unread)) (x.unread + d) entries
    let ps := es.map fun e => ({ items := 1, started := true, closed := true, coloured := true, committed := true
                                 len := Entry.len e, segs := [(Entry.addr e, Entry.len e)] } : Pkt)
    let all := x.pkts ++ ps
    s1.setRing r { y with unread := 0, pkts := all.drop (all.length - y.count) }

/-- The ring's group is assigned to a valid tenant (R34). -/
def State.doorbellOk (s : State) (r : Nat) : Bool :=
  match s.ringTenant r with
  | some t => decide (r < s.variant.rings) && s.flag Reg.HST_TENANT_VALID t
  | none => false

/-- A dropped doorbell (R34). -/
def State.dbReject (s : State) : State := (s.countSat Reg.HST_DB_REJECT).latch .hstTenancy

/-- RNG_DB_PI (R34, R49, R57, R67, R440); a ring that a translation failure has stopped takes no new entries (R42). -/
def State.doorbellPi (s : State) (r v : Nat) (entries : List Bytes) : State :=
  let x := s.ring r
  if !s.hostReaches then s
  else if !s.doorbellOk r then s.dbReject
  else if !x.enable ∨ x.halted ∨ x.stopped ∨ x.cls = 0 ∨ x.deviceProduced then s
  else s.ringAccess r fun s =>
      let d := (v + 2 ^ 32 - x.pi) % 2 ^ 32
      if 2 ^ 31 ≤ d then (s.setRing r { x with staleIdx := satur 8 (x.staleIdx + 1) }).latch .rngIndex (r / 32)
      else if x.feedsStream then s.coverPackets r d entries
      else if x.cls = 3 then s.coverBuffers r d entries
      else s.setRing r (x.coverItems d)

/-- RNG_DB_PI. -/
def execRngDbPi (ring : Nat) (v : Word) (entries : List Bytes) (s : State) : Out :=
  s.run fun s => s.doorbellPi ring v.toNat entries

/-- Packets of a device-produced ring after `d` items are consumed. -/
def trimPkts : Nat → List Nat → List Nat
  | _, [] => []
  | d, p :: ps => if d = 0 then p :: ps else if d < p then (p - d) :: ps else trimPkts (d - p) ps

/-- RNG_DB_CI (R34, R49, R56, R67, R440). -/
def State.doorbellCi (s : State) (r v : Nat) : State :=
  let x := s.ring r
  if !s.hostReaches then s
  else if !s.doorbellOk r then s.dbReject
  else if !x.enable ∨ x.halted ∨ !x.deviceProduced then s
  else s.ringAccess r fun s =>
      let d := (v + 2 ^ 32 - x.ci) % 2 ^ 32
      if d ≤ x.count then
        s.setRing r { x with ci := wrap 32 (x.ci + d), count := x.count - d, consumed := wrap 64 (x.consumed + d)
                             devPkts := trimPkts d x.devPkts }
      else if d < 2 ^ 31 then
        (s.setRing r { x with ci := wrap 32 (x.ci + x.count), count := 0, consumed := wrap 64 (x.consumed + x.count)
                              devPkts := [], overrunCi := satur 8 (x.overrunCi + 1) }).latch .rngIndex (r / 32)
      else (s.setRing r { x with staleIdx := satur 8 (x.staleIdx + 1) }).latch .rngIndex (r / 32)

/-- RNG_DB_CI. -/
def execRngDbCi (ring : Nat) (v : Word) (s : State) : Out := s.run fun s => s.doorbellCi ring v.toNat

/-! ### Payload fetch (Table 3.3 steps 6 to 8) -/

/-- A yellow unit that has not been dispatched, with its class and commit: at the dispatcher, held behind a gap, or waiting on its
ring (R64). -/
inductive Waiting where
  | picture (n : Nat)
  | held (st i : Nat)
  | onRing (r : Nat)
  deriving DecidableEq, Repr

/-- The yellow units that still hold decode input buffers: class of the stream, commit, place. -/
def State.yellows (s : State) : List (Nat × Nat × Waiting) :=
  let cls := fun st => (s.stream st).args.cls
  ((s.dec.pics.filter fun e => e.2.colour == 1 && e.2.dispatched == 0 && e.2.bufs != []).map fun e =>
    (cls e.2.stream, e.2.commitAt, .picture e.1)) ++
  (s.dec.streams.flatMap fun e => (e.2.held.zipIdx.filter fun u => u.1.colour == 1 && u.1.bufs != []).map fun u =>
    (cls e.1, u.1.commitAt, .held e.1 u.2)) ++
  s.rng.rings.filterMap fun e => match e.2.pkts.head?.bind (·.unit) with
    | some u => if u.colour = 1 ∧ u.bufs ≠ [] then some (cls e.2.link, u.commitAt, .onRing e.1) else none
    | none => none

/-- A unit discarded as yellow: without buffers, and lost when it is taken in order (Table 5.3). -/
def AccessUnit.discarded (u : AccessUnit) : AccessUnit := { u with bufs := [], lost := 2 }

/-- A meter counts a discarded yellow unit; `m` is its number + 1, 0 for none. -/
def State.countYdrop (s : State) (m : Nat) : State :=
  if m = 0 then s
  else
    let x := s.meter (m - 1)
    s.setMeter (m - 1) { x with ydrop := wrap 32 (x.ydrop + 1) }

/-- One yellow unit gives its buffers back and becomes a lost unit of its stream (R64). -/
def State.dropYellow (s : State) (w : Waiting) : State :=
  match w with
  | .picture n =>
    let p := s.pic n
    let s1 := (((s.freeBufs p.bufs).countYdrop p.meter).keepPics fun k _ => k != n).unitsLost p.stream 2 p.auSeq 1
    s1.mapPics fun _ q => if q.stream = p.stream ∧ p.seq < q.seq then { q with era := q.era + 1 } else q
  | .held st i =>
    let x := s.stream st
    match x.held[i]? with
    | some u =>
      let s1 := (s.freeBufs u.bufs).countYdrop u.meter
      s1.setStream st { s1.stream st with held := x.held.set i u.discarded }
    | none => s
  | .onRing r =>
    match (s.ring r).pkts with
    | p :: ps =>
      match p.unit with
      | some u =>
        let s1 := (s.freeBufs u.bufs).countYdrop u.meter
        s1.setRing r { s1.ring r with pkts := { p with unit := some u.discarded } :: ps }
      | none => s
    | [] => s

/-- Releases the buffers of one waiting yellow unit: of the stream of the highest class number, then the oldest unit (R64). -/
def State.yellowOut (s : State) : Option State :=
  (s.yellows.foldl (fun (b : Option (Nat × Nat × Waiting)) e =>
    match b with
    | none => some e
    | some q => if q.1 < e.1 ∨ (q.1 = e.1 ∧ e.2.1 < q.2.1) then some e else some q) none).map fun e => s.dropYellow e.2.2

/-- Buffers for a payload: allocated as owner DEC_IN; a green packet makes yellow units give theirs back (R64). -/
def State.payloadBufs (s : State) (n : Nat) (green : Bool) : Nat → Option (List Nat) × State
  | 0 => s.poolAllocN 2 n []
  | fuel + 1 =>
    match s.poolAllocN 2 n [] with
    | (some b, t) => (some b, t)
    | (none, t) =>
      if green then
        match t.yellowOut with
        | some u => State.payloadBufs u n green fuel
        | none => (none, t)
      else (none, t)

/-- The requests for the payload's segments in host memory, and the engine reads under HDM-D for those in device memory (R38, R42). -/
def State.payloadReqs (s : State) (r : Nat) (segs : List (Nat × Nat)) : State :=
  segs.foldl (fun t g =>
    let (dev, a) := addrSpace g.1
    if dev then t.biasRead a g.2 else t.hostReq .memRead a g.2 (t.ringTenant r)) s

/-- A yellow packet that gets no buffers is discarded: committed if it was not, consumed, and lost to its stream (R64). -/
def State.discardHead (s : State) (r : Nat) (p : Pkt) (ps : List Pkt) : State :=
  let x := s.ring r
  let u : AccessUnit := { auSeq := p.auSeq, time := p.time, bytes := p.len, colour := 1, meter := 0, bufs := []
                          commitAt := s.now, marked := p.marked, lost := 2, info := {} }
  let y := { x with produced := if p.committed then x.produced else wrap 64 (x.produced + p.items)
                    consumed := wrap 64 (x.consumed + p.items)
                    count := if p.committed then x.count - p.items else x.count
                    pend := if p.committed then x.pend else x.pend - p.items
                    ci := wrap 32 (x.ci + p.items), pkts := ps }
  ((s.countYdrop (if x.meterEn then x.meter + 1 else 0)).setRing r y).arrive x.link u

/-- The packet at the head fetches its payload, or is discarded when yellow, or waits (R64). -/
def State.fetchHead (s : State) (r : Nat) : State :=
  match (s.ring r).pkts with
  | [] => s
  | p :: ps =>
    if !p.coloured ∨ p.fetching ∨ p.unit.isSome ∨ p.dropped ∨ p.gone then s
    else
      match s.payloadBufs ((p.len + 255) / 256) (p.colour == 0) (s.yellows.length + 1) with
      | (some b, t) => (t.setRing r { t.ring r with pkts := { p with fetching := true, bufs := b } :: ps }).payloadReqs r p.segs
      | (none, t) => if p.colour = 0 then t else (t.discardHead r p ps).ringRun r (3 * ps.length + 3)

/-- PAYLOAD_FETCH on a ring. -/
def State.fetchPayload (s : State) (r : Nat) : State :=
  let x := s.ring r
  if !x.enable ∨ x.halted ∨ x.stopped ∨ !x.feedsStream ∨ !s.pageEnabled Blk.rng (r / 32) then s
  else s.ringAccess r fun s => s.fetchHead r

/-- PAYLOAD_FETCH. -/
def execPayloadFetch (ring : Nat) (s : State) : Out := s.run fun s => s.fetchPayload ring

/-- The payload bytes of a packet: device segments are read, host segments take the operand's bytes in order. -/
def State.payloadOf (s : State) : List (Nat × Nat) → Bytes → Bytes
  | [], _ => []
  | (a, n) :: rest, given =>
    let (dev, addr) := addrSpace a
    if dev then s.dramBytes addr n ++ State.payloadOf s rest given
    else given.take n ++ State.payloadOf s rest (given.drop n)

/-- Stores a byte string in buffers, 256 bytes in each. -/
def State.fillBufs (s : State) : List Nat → Bytes → State
  | [], _ => s
  | b :: bs, d => State.fillBufs (s.bufWrite b 0 (d.take 256)) bs (d.drop 256)

/-- The payload of the packet at the head is complete: a failed CRC rewinds it, else it is committed and waits for its stream (Table 3.3
steps 7 and 8). -/
def State.payloadHead (s : State) (r : Nat) (p : Pkt) (ps : List Pkt) (given : Bytes) (au : AuInfo) : State :=
  let x := s.ring r
  let data := s.payloadOf p.segs given
  if p.crc ∧ crc32 data ≠ p.crc32 then ((s.setRing r (x.rewindHead p ps false)).freeBufs p.bufs).ringRun r (3 * ps.length + 3)
  else
    let at_ := if p.committed then p.commitAt else s.now
    let frame := if p.committed then p.commitFrame else s.frameCount
    let u : AccessUnit := { auSeq := p.auSeq, time := p.time, bytes := p.len, colour := p.colour
                            meter := if x.meterEn then x.meter + 1 else 0, bufs := p.bufs, commitAt := at_, marked := p.marked
                            lost := 0, info := au, data := data, commitFrame := frame }
    let y := { x with produced := if p.committed then x.produced else wrap 64 (x.produced + p.items)
                      count := if p.committed then x.count else x.count + p.items
                      pend := if p.committed then x.pend else x.pend - p.items
                      pkts := { p with committed := true, commitAt := at_, commitFrame := frame, unit := some u, bufs := [] } :: ps }
    ((s.fillBufs p.bufs data).setRing r y).ringRun r (3 * y.pkts.length + 3)

/-- The payload fetch of a ring is complete. That of a packet which the ring has dropped meanwhile only gives its buffers back (R66,
log 97). -/
def State.payloadDone (s : State) (r : Nat) (given : Bytes) (au : AuInfo) : State :=
  match (s.ring r).pkts with
  | [] => s
  | p :: ps =>
    if !p.fetching ∨ p.unit.isSome then s
    else if p.gone then ((s.setRing r { s.ring r with pkts := ps }).freeBufs p.bufs).ringRun r (3 * ps.length + 3)
    else s.ringAccess r fun s => s.payloadHead r p ps given au

/-- PAYLOAD_FETCH_DONE. -/
def execPayloadFetchDone (ring : Nat) (payload : Bytes) (au : AuInfo) (s : State) : Out :=
  s.run fun s => s.payloadDone ring payload au

/-! ### Ring control (R65, R66) -/

/-- The checks of R65 when ENABLE goes from 0 to 1. A command ring and a completion ring both in groups without a tenant count as of the
same tenant (DESIGN CHOICE, log 124). -/
def State.enableOk (s : State) (r : Nat) (x : Ring) : Bool :=
  (x.cls != 1 || (decide (x.link < s.variant.rings) && (s.ring x.link).cls == 2 && s.ringTenant r == s.ringTenant x.link)) &&
  (x.cls != 3 ||
    (if x.link < 0x1000 then
      decide (x.link < s.variant.streams) &&
        !(s.rng.rings.any fun e => e.1 != r && e.2.enable && e.2.cls == 3 && e.2.link == x.link)
     else decide (x.link < 0x1000 + s.variant.sessions))) &&
  (x.cls != 3 || !x.meterEn || decide (x.meter < s.variant.meters)) &&
  (!x.evqEn || decide (x.evqRing < s.variant.rings))

/-- ENABLE from 0 to 1 (R66). -/
def Ring.enabled (x : Ring) : Ring :=
  { x with enable := true, pi := 0, ci := 0, count := 0, pend := 0, unread := 0, halted := false, stopped := false
           devPkts := [] }

/-- ENABLE from 1 to 0 (R66): occupied items are lost, pending ones dropped; a fetch already begun completes. -/
def State.disableRing (s : State) (r : Nat) : State :=
  let x := s.ring r
  (s.setRing r { x with enable := false, lost := wrap 64 (x.lost + x.count), count := 0, pend := 0, unread := 0
                        devPkts := [] }).dropPkts r

/-- A write of RNG_CFG (R65). -/
def State.ringCfg (s : State) (r v : Nat) : State :=
  let x := s.ring r
  let inst := r / 32
  let cls := bits v 2 0
  let size := bits v 8 4
  let new := { x with cls := cls, sizeLog2 := size, memspace := bit v 9, coherent := bit v 10 }
  if cls = 7 ∨ size < 6 ∨ 20 < size then s.latch .rngCfg inst
  else if x.enable then
    let s1 := if bit v 11 then s else s.disableRing r
    if cls ≠ x.cls ∨ size ≠ x.sizeLog2 ∨ bit v 9 ≠ x.memspace ∨ bit v 10 ≠ x.coherent then s1.latch .rngCfg inst else s1
  else if !bit v 11 then s.setRing r new
  else if s.enableOk r new then s.setRing r new.enabled
  else (s.setRing r new).latch .rngCfg inst

/-- A write of a descriptor register of a ring: 0 RNG_BASE_LO, 1 RNG_BASE_HI, 2 RNG_CFG, 3 RNG_LINK, 4 RNG_EVQ (R65). -/
def State.ringWrite (s : State) (r reg v : Nat) : State :=
  let x := s.ring r
  if s.variant.rings ≤ r then s.absentPage (pageOf Blk.rng (r / 32))
  else if reg = 2 then s.ringCfg r v
  else if 5 ≤ reg then s.latch (.rsvWrite Blk.rng) (r / 32)
  else if x.enable then s.latch .rngCfg (r / 32)
  else
    match reg with
    | 0 => s.setRing r { x with base := addr64 (v / 4096 * 4096) (x.base / 2 ^ 32) }
    | 1 => s.setRing r { x with base := addr64 (x.base % 2 ^ 32) v }
    | 3 => s.setRing r { x with link := bits v 12 0, meter := bits v 27 16, meterEn := bit v 31 }
    | _ => s.setRing r { x with evqRing := bits v 12 0, evqEn := bit v 31 }

/-- RING_CFG_WRITE. -/
def execRingCfgWrite (ring reg : Nat) (v : Word) (s : State) : Out :=
  s.run fun s => s.regCmd Blk.rng (ring / 32) (rsvBits v (if reg = 0 then 0xFFFFF000 else if reg = 2 then 0xFF7 else if reg = 3 then 0x8FFF1FFF else if reg = 4 then 0x80001FFF else 0xFFFFFFFF)) fun s => s.ringWrite ring reg v.toNat
/-- RING_ENABLE. -/
def execRingEnable (ring : Nat) (v : Word) (s : State) : Out :=
  s.run fun s => s.regCmd Blk.rng (ring / 32) (rsvBits v 0xFF7) fun s => s.ringWrite ring 2 v.toNat
/-- RING_DISABLE. -/
def execRingDisable (ring : Nat) (v : Word) (s : State) : Out :=
  s.run fun s => s.regCmd Blk.rng (ring / 32) (rsvBits v 0xFF7) fun s => s.ringWrite ring 2 v.toNat

/-! ### Commands (R68-R70) -/

/-- Opcodes of Table 3.6. -/
def opcodes : List Nat := [0x01, 0x02, 0x03, 0x04, 0x10, 0x11, 0x12, 0x20, 0x21, 0x30, 0x40, 0x41, 0x50, 0x60, 0x7F]

/-- Opcodes that only tenant 0 may use (R43). -/
def tenant0Only (op : Nat) : Bool := [0x10, 0x11, 0x40, 0x41, 0x50].contains op

/-- A reserved field of the opcode's arguments is not zero (Tables 4.3, 4.5, 5.2, 6.2, 6.7, 10.1, 11.2, 14.10, 15.11, 16.3). -/
def argsReserved (op : Nat) (e : Bytes) : Bool :=
  match op with
  | 0x01 => bits (field e 8 2) 15 10 != 0 || bits (field e 14 1) 3 2 != 0 || !(zeros e 31 1) || bits (field e 32 1) 7 5 != 0 ||
            !(zeros e 38 26)
  | 0x02 => bits (field e 10 1) 7 1 != 0
  | 0x04 => bits (field e 10 1) 7 4 != 0 || bits (field e 12 1) 7 1 != 0
  | 0x10 => bits (field e 20 1) 7 1 != 0 || !(zeros e 21 43)
  | 0x11 => bits (field e 10 1) 7 1 != 0 || !(zeros e 11 1) || (!(bit (field e 10 1) 0) && !(zeros e 12 4))
  | 0x20 => bits (field e 8 1) 7 5 != 0 || bit (field e 11 1) 7 || bits (field e 14 2) 15 10 != 0 ||
            bits (field e 42 2) 15 13 != 0 || bits (field e 44 2) 15 13 != 0 || !(zeros e 49 3) || !(zeros e 56 8)
  | 0x30 => !(zeros e 9 7)
  | 0x40 => bits (field e 8 2) 15 14 != 0 || bits (field e 10 1) 7 1 != 0 || !(zeros e 11 1)
  | 0x41 => bits (field e 8 1) 7 6 != 0 || bits (field e 10 1) 7 1 != 0 || !(zeros e 11 5)
  | 0x50 => bits (field e 21 1) 7 1 != 0 || (!(bit (field e 21 1) 0) && !(zeros e 22 1)) || !(zeros e 23 41) ||
            (bit (field e 21 1) 0 && !(zeros e 16 4))
  | _ => false

/-- An argument names an identifier beyond the variant (R5). -/
def argsBeyond (v : Variant) (op : Nat) (e : Bytes) : Bool :=
  match op with
  | 0x01 | 0x02 | 0x03 | 0x04 => decide (v.streams ≤ field e 8 2)
  | 0x20 => decide (v.sessions ≤ bits (field e 8 1) 4 0) ||
            (bit (field e 11 1) 4 && decide (v.streams ≤ bits (field e 14 2) 9 0)) ||
            decide (v.rings ≤ bits (field e 42 2) 12 0) || decide (v.rings ≤ bits (field e 44 2) 12 0)
  | 0x21 => decide (v.sessions ≤ field e 8 1)
  | 0x30 => field e 8 1 != 0xFF && decide (v.dmaChannels ≤ field e 8 1)
  | 0x40 => decide (v.tiles ≤ bits (field e 8 2) 13 0)
  | 0x41 => decide (v.ports ≤ bits (field e 8 1) 5 0)
  | 0x50 => field e 20 1 != 0xFF && decide (v.regulators ≤ field e 20 1)
  | 0x60 => (field e 8 1 == 2 && decide (v.rings ≤ field e 12 4)) || (field e 8 1 == 3 && decide (v.streams ≤ field e 12 4))
  | _ => false

/-- The first case of R70 that applies to an entry; OK where the command is accepted. Case 4 has no instance: every opcode of Table 3.6
has ABI level 1. -/
def State.rejection (s : State) (r : Nat) (e : Bytes) : Nat :=
  let t := (s.ringTenant r).getD 0
  let abi := s.fld Reg.HST_TENANT_ABI t
  let op := field e 0 1
  if abi = 0 ∨ s.ringTenant r = none then St.version
  else if bits (field e 4 1) 5 0 ≠ t then St.badArg
  else if !(opcodes.contains op) then St.badOpcode
  else if tenant0Only op ∧ t ≠ 0 then St.badArg
  else if bit (field e 5 1) 0 ∧ abi = 1 then St.badArg
  else if !(zeros e 1 1) ∨ bits (field e 2 2) 15 10 ≠ 0 ∨ bits (field e 4 1) 7 6 ≠ 0 ∨ bits (field e 5 1) 7 2 ≠ 0 ∨
      !(zeros e 6 2) ∨ argsReserved op e then St.badArg
  else if argsBeyond s.variant op e then St.badArg
  else if s.variant.jobLimit ≤ s.jobCount then St.noResource
  else St.ok

/-- Accepts a command as a job (R12, R68, R132). -/
def State.accept (s : State) (r index : Nat) (e : Bytes) : State :=
  let t := (s.ringTenant r).getD 0
  let op := field e 0 1
  let j := s.newJob r index
  let x : Job := { ring := r, index := index, opcode := op, tag := bits (field e 2 2) 9 0, tenant := t
                   abi := s.fld Reg.HST_TENANT_ABI t, fence := bit (field e 5 1) 0, silent := bit (field e 5 1) 1
                   seq := s.rng.jobSeq, args := e }
  let s1 := { s with rng := { s.rng with jobs := Tab.set s.rng.jobs j x, jobSeq := s.rng.jobSeq + 1 } }
  { s1 with rng := { s1.rng with jobs := Tab.set s1.rng.jobs j { x with waits := !(s1.waitOver j) } } }

/-- The device reads the entry at CI of a command ring (R39, R54, R68-R70). -/
def State.fetchCommand (s : State) (r : Nat) (given : Bytes) : State :=
  let x := s.ring r
  if !x.enable ∨ x.halted ∨ x.stopped ∨ x.cls ≠ 1 ∨ x.count = 0 ∨ s.variant.rings ≤ r ∨
      !s.pageEnabled Blk.rng (r / 32) ∨ s.entriesHeld x then s
  else s.ringAccess r fun s =>
      let (e, s) := s.entryAt r x.ci given
      let s1 := s.setRing r { x with ci := wrap 32 (x.ci + 1), count := x.count - 1, consumed := wrap 64 (x.consumed + 1) }
      match s.rejection r e with
      | 0 => s1.accept r x.ci e
      | st => s1.completion r x.ci (bits (field e 2 2) 9 0) (s.fld Reg.HST_TENANT_ABI ((s.ringTenant r).getD 0)) st 0 0 0 0

/-- COMMAND_FETCH. -/
def execCommandFetch (ring : Nat) (entry : Bytes) (s : State) : Out := s.run fun s => s.fetchCommand ring entry

/-- What a command waited for is complete (R68, R132). -/
def State.unfence (s : State) (j : Nat) : State :=
  if Tab.has s.rng.jobs j && (s.job j).waits && s.waitOver j then
    { s with rng := { s.rng with jobs := Tab.set s.rng.jobs j { s.job j with waits := false } } }
  else s

/-- FENCED_COMMAND_START. -/
def execFencedCommandStart (job : Nat) (s : State) : Out := s.run fun s => s.unfence job

/-- NOP (Table 3.6). -/
def execNop (job : Nat) (s : State) : Out := s.run fun s => if s.canStart job 0x7F then s.finish job St.ok else s

/-! ### Queries (R72, R73) -/

/-- The answer to a query of a tenant: status and four results (Table 3.9). -/
def State.answer (s : State) (tenant sel arg : Nat) : Nat × List Nat :=
  let bad := (St.badArg, [0, 0, 0, 0])
  match sel with
  | 1 => (St.ok, [s.variant.code, 0xB0, s.variant.rings, s.variant.streams])
  | 2 =>
    if s.variant.rings ≤ arg ∨ (tenant ≠ 0 ∧ s.ringTenant arg ≠ some tenant) then bad
    else (St.ok, [(s.ring arg).pi, (s.ring arg).ci, (s.ring arg).count, (s.ring arg).pend])
  | 3 => if s.variant.streams ≤ arg then bad else (St.ok, [(s.stream arg).state, s.streamInFlight arg, 0, 0])
  | 4 =>
    if 64 ≤ arg ∨ (tenant ≠ 0 ∧ arg ≠ tenant) then bad else (St.ok, [s.fld Reg.HST_TENANT_ABI arg, s.groupsOf arg, 0, 0])
  | 5 => (St.ok, [s.jobCount, s.pictureCount, s.variant.jobLimit, s.variant.pictureLimit])
  | 6 => (St.ok, [s.faultTop % 2 ^ 32, s.faultTop / 2 ^ 32, s.sysStatus, 0])
  | _ => bad

/-- QUERY (R72). -/
def State.doQuery (s : State) (j : Nat) : State :=
  let e := (s.job j).args
  let (st, r) := s.answer (s.job j).tenant (field e 8 1) (field e 12 4)
  s.finish j st (r.getD 0 0) (r.getD 1 0) (r.getD 2 0) (r.getD 3 0)

/-- QUERY. -/
def execQuery (job : Nat) (s : State) : Out := s.run fun s => if s.canStart job 0x60 then s.doQuery job else s

/-- A write of SYS_QUERY_CTL (R73). -/
def State.queryCtl (s : State) (v : Nat) : State :=
  match s.rng.query with
  | some _ => s.countSat Reg.SYS_QUERY_RESULT_IGNORED
  | none =>
    let s1 := { s with rng := { s.rng with query := some (bits v 7 0, bits v 31 8) } }
    (List.range 4).foldl (fun t k => t.setFld Reg.SYS_QUERY_DATA k 0)
      ((s1.setFld Reg.SYS_QUERY_RESULT_VALID 0 0).setFld Reg.SYS_QUERY_RESULT_READS 0 0)

/-- SYS_QUERY_CTL. -/
def execSysQueryCtl (v : Word) (s : State) : Out :=
  s.run fun s => s.regCmd Blk.sys 0 0 fun s => s.queryCtl v.toNat

/-- The result of a synchronous query is ready (R73). -/
def State.queryReady (s : State) : State :=
  match s.rng.query with
  | none => s
  | some (sel, arg) =>
    let (st, r) := s.answer 0 sel arg
    let s1 := { s with rng := { s.rng with query := none } }
    let s2 := (List.range 4).foldl (fun t k => t.setFld Reg.SYS_QUERY_DATA k (r.getD k 0)) s1
    ((s2.count Reg.SYS_QUERY_RESULT_SEQ).setFld Reg.SYS_QUERY_RESULT_STATUS 0 st).setFld Reg.SYS_QUERY_RESULT_VALID 0 1

/-- QUERY_RESULT_READY. -/
def execQueryResultReady (s : State) : Out := s.run State.queryReady

/-- A read of SYS_QUERY_RESULT (R73): READS counts reads of a valid result, the current one included. -/
def execSysQueryResultRead (s : State) : Out :=
  s.run fun s => if s.flag Reg.SYS_QUERY_RESULT_VALID then s.countSat Reg.SYS_QUERY_RESULT_READS else s

/-- An address translation failure of a request for a ring (R42, R71): the job ends with FAULTED, the ring stops. -/
def State.translationFail (s : State) (r index : Nat) : State :=
  if s.variant.rings ≤ r then s
  else
    let s1 := s.setRing r { s.ring r with stopped := true }
    let s2 := match s1.jobAt r index with
      | some j => s1.finish j St.faulted
      | none => s1
    (s2.ringEvent r 0x0011 [index]).latch .hstXlat

/-- ADDRESS_TRANSLATION_FAIL. -/
def execAddressTranslationFail (ring index : Nat) (s : State) : Out := s.run fun s => s.translationFail ring index

end Sys2Proof.Machine
end

