-- ==== Sys2Proof/Machine/Calibre.lean ====
section
/-! DEFINITION. Tile identity (R143-R145), calibre commands, the swap and the last good calibre (06_wall_model_and_calibres.md). -/

namespace Sys2Proof.Machine

/-! ### Ports, positions and shared helpers -/

def State.port (s : State) (p : Nat) : PlkPort := Tab.get {} s.plk.ports p

def State.setPort (s : State) (p : Nat) (x : PlkPort) : State :=
  { s with plk := { s.plk with ports := Tab.set s.plk.ports p x } }

def State.posn (s : State) (p q : Nat) : Position := Tab.get {} (s.port p).pos q

def State.setPosn (s : State) (p q : Nat) (x : Position) : State :=
  s.setPort p { s.port p with pos := Tab.set (s.port p).pos q x }

/-- The port is in state DATA (Table 14.3). -/
def State.inData (s : State) (p : Nat) : Bool := (s.port p).state == 3

/-! ### Identity (R143, R308, Tables 6.8, 6.9, 14.9) -/

def Rec.linkVers (r : Bytes) : Nat := field r 5 1
def Rec.profiles (r : Bytes) : Nat := field r 6 1
def Rec.emitters (r : Bytes) : Nat := field r 7 1
def Rec.vendor (r : Bytes) : Nat := field r 8 2
def Rec.module (r : Bytes) : Nat := field r 10 2
def Rec.w (r : Bytes) : Nat := field r 12 2
def Rec.h (r : Bytes) : Nat := field r 14 2
def Rec.serial (r : Bytes) : Nat := field r 20 8
/-- The weight of emitter e; 0 counts as 65,535 (R174). -/
def Rec.weight (r : Bytes) (e : Nat) : Nat := let w := field r (28 + 2 * e) 2; if w = 0 then 65535 else w

/-- A valid identity record (R308). -/
def Rec.valid (r : Bytes) : Bool :=
  r.length == 256 && field r 0 4 == 0x31444952 && field r 4 1 == 1 && crc32 (r.take 252) == field r 252 4 &&
  bit (Rec.linkVers r) 1 && bit (Rec.profiles r) 0

/-- MISMATCH mask of Table 6.9: the tests that a record fails against a tile entry. -/
def mismatch (e r : Bytes) (version : Nat) : Nat :=
  b2n (Tile.vendor e != 0 && Tile.vendor e != Rec.vendor r) +
  2 * b2n (Tile.module e != 0 && Tile.module e != Rec.module r) +
  4 * b2n (Tile.w e != Rec.w r || Tile.h e != Rec.h r) +
  8 * b2n (Tile.emitters e != Rec.emitters r) +
  16 * b2n (!(bit (Rec.profiles r) (Tile.profile e))) +
  32 * b2n (decide (version < Tile.profile e + 1)) +
  64 * b2n (Tile.matchSerial e && Tile.serial e != Rec.serial r)

/-- Identity state of a tile entry against the receiver at a position (Table 6.8, R143, R297, R309). -/
def State.evalTile (s : State) (e : Bytes) (p q : Nat) : TileIdent :=
  let x := s.posn p q
  if !s.inData p ∨ (s.port p).receivers ≤ q then { state := 1 }
  else if x.version = 0 then { state := 4, mismatch := 0x20 }
  else match x.good, x.record with
    | true, some r =>
      let m := mismatch e r x.version
      if m = 0 then { state := 3, record := r } else { state := 4, mismatch := m }
    | _, _ => { state := 2 }

/-- Identity states of every tile of an image, and of its mirrors. -/
def State.evalTiles (s : State) (im : Bytes) : Tab TileIdent :=
  (Img.tiles im).foldl (fun t e => Tab.set t (Tile.id e) (s.evalTile e (Tile.port e) (Tile.pos e))) []

def State.evalMirrors (s : State) (im : Bytes) : Tab TileIdent :=
  (Img.mirrors im).foldl (fun t m => match Img.tile im (Mirror.tile m) with
    | some e => Tab.set t (Mirror.tile m * 64 + Mirror.port m) (s.evalTile e (Mirror.port m) (Mirror.pos m))
    | none => t) []

/-- The states that work of frame k uses: those in force since the last mark, or for an earlier frame those before it (R140, R144). -/
def State.identsFor (s : State) (k : Nat) : Tab TileIdent × Tab TileIdent :=
  if frameLe s.frameCount k then (s.clb.ident, s.clb.mirrors) else (s.clb.oldIdent, s.clb.oldMirrors)

/-- A tile of an image is lit in frame k (R143, R145, R367): MATCHED, FORCE_DARK 0, and the wall not dark after a C4. -/
def State.litFor (s : State) (k : Nat) (e : Bytes) : Bool :=
  !s.flt.dark && (Tab.get {} (s.identsFor k).1 (Tile.id e)).state == 3 && !(Tile.forceDark e)

/-- A mirror receiver is lit in frame k: its own tests pass and the tile is lit. -/
def State.mirrorLitFor (s : State) (k : Nat) (e : Bytes) (port : Nat) : Bool :=
  s.litFor k e && (Tab.get {} (s.identsFor k).2 (Tile.id e * 64 + port)).state == 3

/-- The same now. -/
def State.lit (s : State) (e : Bytes) : Bool := s.litFor s.frameCount e
def State.mirrorLit (s : State) (e : Bytes) (port : Nat) : Bool := s.mirrorLitFor s.frameCount e port

/-- The record that made a tile MATCHED, of the states that frame k uses. -/
def State.recordOf (s : State) (k : Nat) (e : Bytes) : Bytes := (Tab.get {} (s.identsFor k).1 (Tile.id e)).record

/-- Tiles of an image that are not lit. -/
def State.darkTiles (s : State) (im : Bytes) : Nat := ((Img.tiles im).filter fun e => !(s.lit e)).length

/-- Calibre events (R150). -/
def State.clbEvent (s : State) (code source : Nat) (args : List Nat) : State :=
  s.event Reg.CLB_EVQ_RING Reg.CLB_EVQ_EN code Blk.clb source args

/-- Port and position of a tile's primary receiver in an image, for TILE_IDENTITY. -/
def Img.tilePlace (im : Bytes) (t : Nat) : Option Nat := (Img.tile im t).map fun e => Tile.port e * 256 + Tile.pos e

/-- The same of a mirror receiver, by tile × 64 + port. -/
def Img.mirrorPlace (im : Bytes) (k : Nat) : Option Nat :=
  ((Img.mirrors im).find? fun m => Mirror.tile m * 64 + Mirror.port m == k).map fun m =>
    Mirror.port m * 256 + Mirror.pos m + 2 ^ 31

/-- TILE_IDENTITY for every receiver whose state changes from one table to another, those that leave included (R144). -/
def State.identEvents (s : State) (old new : Tab TileIdent) (tileOf : Nat → Nat) (place : Nat → Nat) : State :=
  (new.map (·.1) ++ (old.filter fun e => !(Tab.has new e.1)).map (·.1)).foldl (fun t k =>
    let a := Tab.get {} old k
    let b := Tab.get {} new k
    if a.state = b.state then t else t.clbEvent 0x0602 (tileOf k) [b.state, a.state, b.mismatch, place k]) s

/-- New identity states come into force at a mark (R144): of image `im`, those before it of image `prev`. -/
def State.takeIdents (s : State) (prev im : Bytes) (new mirrors : Tab TileIdent) : State :=
  let old := s.clb.ident
  let oldM := s.clb.mirrors
  let s1 := { s with clb := { s.clb with ident := new, mirrors := mirrors, oldIdent := old, oldMirrors := oldM } }
  let place := fun (f : Bytes → Nat → Option Nat) k => ((f im k).orElse fun _ => f prev k).getD 0
  let s2 := s1.identEvents old new id (place Img.tilePlace)
  let s3 := s2.identEvents oldM mirrors (· / 64) (place Img.mirrorPlace)
  s3.setFld Reg.CLB_DARK_TILES 0 (s3.darkTiles im)

/-- TILE_STATE_UPDATE at a mark. -/
def State.updateIdents (s : State) : State :=
  match s.activeImg with
  | some im => s.takeIdents im im (s.evalTiles im) (s.evalMirrors im)
  | none => s

/-! ### CALIBRE_WRITE (R133, R134, R142) -/

/-- A range is legal as a DMA source range (R341). -/
def State.rangeOk (s : State) (dev : Bool) (a n : Nat) : Bool :=
  if dev then decide (a + n ≤ s.usable) else decide (a + n ≤ 2 ^ 63)

/-- The image of a command: device memory is read, host memory gives the operand; `read` says how a host read ended. -/
def State.fetchImage (s : State) (src n : Nat) (given : Bytes) (read : ReadEnd) (port : Nat) : Option Bytes × State :=
  let (dev, a) := addrSpace src
  if dev then s.engineRead a n port
  else match read with
    | .ok => (some ((given ++ List.replicate (n - given.length) 0).take n), s.hostReq .memRead a n none)
    | _ => (none, s.hostReq .memRead a n none)

/-- A read that ended badly ends the job with FAULTED; a translation failure is also handled under R42. -/
def State.readFailed (s : State) (j : Nat) (src : Nat) (read : ReadEnd) : State :=
  let x := s.job j
  if (addrSpace src).1 ∨ read ≠ .xlat then s.finish j St.faulted else s.translationFail x.ring x.index

/-- Reads of gain map headers and indexes (R170): what they find of the DRAM's errors. -/
def State.gainReads (s : State) (im : Bytes) : State :=
  (Img.tiles im).foldl (fun t e =>
    if Tile.gainAddr e = 0 ∨ !(t.inPrivate (Tile.gainAddr e) (16 + 4 * Tile.rps e)) then t
    else (t.engineRead (Tile.gainAddr e) (16 + 4 * Tile.rps e) 11).2) s

/-- CALIBRE_WRITE starts: the image is read and checked (R133). -/
def State.calibreWrite (s : State) (j : Nat) (given : Bytes) (read : ReadEnd) : State :=
  let e := (s.job j).args
  let src := field e 8 8
  let n := field e 16 4
  let live := bit (field e 20 1) 0
  let (dev, a) := addrSpace src
  if 16777216 < n then s.finish j St.badArg 1
  else if !(s.rangeOk dev a n) then s.finish j St.badArg 1
  else match s.fetchImage src n given read 14 with
    | (none, s) => s.readFailed j src read
    | (some im, s) =>
      let s := s.gainReads im
      match s.checkImage im n live with
      | some (reason, off) => s.finish j St.badArg reason off
      | none =>
        if live then
          { s.start j with clb := { s.clb with live := some ⟨j, im, s.now⟩ } }
        else { s.start j with clb := { s.clb with staged := some ⟨j, im, Img.latUnbound im⟩ } }

/-- CALIBRE_WRITE. -/
def execCalibreWrite (job : Nat) (image : Bytes) (read : ReadEnd) (s : State) : Out :=
  s.run fun s => if s.canStart job 0x10 then s.calibreWrite job image read else s

/-- Granules of the reference region that neither bank holds (MZE_REF_FREE, R227). -/
def State.showRefFree (s : State) : State :=
  let sh := s.bank s.shadow
  let extra := fun (im : Bytes) => if sh.state = 0 then 0 else Img.extraGranules im sh.image
  let used := match s.activeImg with
    | some im => Img.granules im + extra im
    | none => if sh.state = 0 then 0 else Img.granules sh.image
  s.setFld Reg.MZE_REF_FREE 0 (s.fld Reg.MZE_REF_SIZE - used)

/-- A new sequence number (R134). -/
def State.newSeq (s : State) : Nat :=
  let n := (s.clb.issue + 1) % 65536
  if s.clb.activeValid ∧ n = (s.bank s.clb.active).seq then (n + 1) % 65536 else n

/-- The staged image replaces the shadow (R133), which is neither DRAINING nor armed. -/
def State.writeCommit (s : State) (j : Nat) : State :=
  match s.clb.staged with
  | none => s
  | some x =>
    if x.job ≠ j ∨ (s.bank s.shadow).state = 3 ∨ s.clb.swap.isSome then s
    else
      let n := s.newSeq
      let s1 := { s with clb := { s.clb with staged := none, issue := n } }
      let s2 := ((s1.setBank s.shadow ⟨1, n, x.image, x.latUnbound⟩).setFld Reg.CLB_WRITE_SEQ 0 n).showRefFree
      (s2.check .clbSram).finish j St.ok 0 0 x.latUnbound.length n

/-- CALIBRE_WRITE_COMMIT. -/
def execCalibreWriteCommit (job : Nat) (s : State) : Out := s.run fun s => s.writeCommit job

/-- A live edit takes effect at a mark (R142): the active image changes, its flags are worked out again (R279). -/
def State.applyLive (s : State) : State :=
  match s.clb.live with
  | none => s
  | some x =>
    if s.clb.lastMark < x.startedAt + 400 * Clk.us ∨ !s.clb.activeValid then s
    else
      let b := s.bank s.clb.active
      let lat := Img.latUnbound x.image
      let s1 := State.setBank { s with clb := { s.clb with live := none, before := some (s.frameCount, b.image) } } s.clb.active
        { b with image := x.image, latUnbound := lat }
      s1.finish x.job St.ok 0 0 lat.length (s.fld Reg.CLB_WRITE_SEQ)

/-! ### The swap (R139-R141) -/

/-- CALIBRE_SWAP starts (step 1): arming begins. -/
def State.calibreSwap (s : State) (j : Nat) : State :=
  let e := (s.job j).args
  if (s.bank s.shadow).state ≠ 1 ∨ field e 8 2 ≠ s.fld Reg.CLB_WRITE_SEQ then s.finish j St.state
  else { s.start j with clb := { s.clb with
    swap := some ⟨j, bit (field e 10 1) 0, field e 12 4, false, 0, [], []⟩ } }

/-- CALIBRE_SWAP. -/
def execCalibreSwap (job : Nat) (s : State) : Out := s.run fun s => if s.canStart job 0x11 then s.calibreSwap job else s

/-- Arming ends (steps 2 to 4): the tiles' identities are evaluated against the shadow, and s is fixed. -/
def State.swapArmed (s : State) : State :=
  match s.clb.swap with
  | none => s
  | some x =>
    if x.armed then s
    else
      let im := (s.bank s.shadow).image
      let n := s.frameCount
      let from_ := s.now + 400 * Clk.us
      let target :=
        if x.useAt then
          if frameLe (frameAdd n 1) x.frame ∧ from_ ≤ s.markTime x.frame then some x.frame else none
        else ((List.range 8).map fun i => frameAdd n (i + 1)).find? fun k => decide (from_ ≤ s.markTime k)
      match target with
      | some k => { s with clb := { s.clb with
          swap := some { x with armed := true, s := k, idents := s.evalTiles im, mirrors := s.evalMirrors im } } }
      | none => State.finish { s with clb := { s.clb with swap := none } } x.job St.timeout

/-- SWAP_ARMED. -/
def execSwapArmed (s : State) : Out := s.run State.swapArmed

/-- Step 6: at mark M(s) every block switches its bank. -/
def State.bankSwitch (s : State) (x : Swap) : State :=
  let new := s.shadow
  let b := s.bank new
  let old := s.fld Reg.CLB_PERIOD
  let per := Img.period b.image
  let s1 := if s.clb.activeValid then s.setBank s.clb.active { s.bank s.clb.active with state := 3 } else s
  let s1 := if s.clb.activeValid then s1 else { s1 with cnv := { s1.cnv with frame := frameAdd x.s (2 ^ 32 - 1) } }
  let s2 := s1.setBank new { b with state := 2 }
  let both := Img.wallsync b.image && match s.activeImg with
    | some im => Img.wallsync im
    | none => false
  let s3 := { s2 with clb := { s2.clb with
    active := new, activeValid := true, epoch := (s.clb.epoch + 1) % 2 ^ 24, swap := none, acc := 0, goodFrames := 0
    saved := false, savePending := false, measured := s2.clb.measured && per == old, slewing := s2.clb.slewing || both } }
  let s4 := (s3.setFld Reg.CLB_SWAP_FRAME 0 x.s).setFld Reg.CLB_PERIOD 0 per
  let s5 := s4.takeIdents (s.activeImg.getD []) b.image x.idents x.mirrors
  let s6 := s5.clbEvent 0x0601 (b2n new) [x.s, s5.clb.epoch, b.seq, s5.fld Reg.CLB_DARK_TILES]
  let s7 := s6.finish x.job St.ok
  (if per = old then s7 else s7.recheck 1).showRefFree

/-- The image that frame k uses of a bank: frames before a live edit's mark keep the image as it was (R142, R274). -/
def State.imageAt (s : State) (b : Bool) (k : Nat) : Bytes :=
  match s.clb.before with
  | some (m, old) => if frameLe m k then (s.bank b).image else old
  | none => (s.bank b).image

/-- The bank that work of frame k is tagged with (R19, R140), and its image. -/
def State.tagOf (s : State) (k : Nat) : Option (Bool × Bytes) :=
  if !s.clb.activeValid then none
  else if frameLe (s.fld Reg.CLB_SWAP_FRAME) k then some (s.clb.active, s.imageAt s.clb.active k)
  else if (s.bank (!s.clb.active)).state = 3 then some (!s.clb.active, s.imageAt (!s.clb.active) k)
  else none

/-- Work tagged with a bank is still in the path (R140): a row pair, a tile picture, a link frame, a port frame. -/
def State.tagged (s : State) (b : Bool) : Bool :=
  s.cnv.out.any (fun r => r.bank == b) || (s.cnv.scanning && s.cnv.bank == b) ||
  s.mze.tiles.any (fun t => t.2.inq.any (fun r => r.bank == b) || t.2.pic.any (fun p => p.bank == b)) ||
  s.swc.ins.any (fun i => i.2.wait.any (fun f => !f.isOpen && f.bank == b) || i.2.queue.any (fun f => !f.isOpen && f.bank == b)) ||
  s.sch.ports.any (fun p => p.2.tileQ.any (fun f => f.bank == b))

/-- Step 7: the old bank becomes SHADOW with its former contents and number. -/
def State.releaseBank (s : State) : State :=
  let o := !s.clb.active
  let b := s.bank o
  if !s.clb.activeValid ∨ b.state ≠ 3 then s
  else ((s.setBank o { b with state := 1 }).setFld Reg.CLB_WRITE_SEQ 0 b.seq).showRefFree

/-- Step 7 once no work tagged with the old bank remains. -/
def State.oldRelease (s : State) : State := if s.tagged (!s.clb.active) then s else s.releaseBank

/-- Step 7 at M(s + 1), by which it is reached whatever remains (R140). -/
def State.lastRelease (s : State) : State := if s.fld Reg.CLB_SWAP_FRAME = s.frameCount then s else s.releaseBank

/-- Work tagged with a bank reaches a block: CLB.tag where the bank is neither ACTIVE nor DRAINING (R140). -/
def State.tagCheck (s : State) (b : Bool) : State := if (s.bank b).state < 2 then s.latch .clbTag else s

/-- OLD_BANK_RELEASE. -/
def execOldBankRelease (s : State) : Out := s.run State.oldRelease

/-! ### CALIBRE_READ (R138) and the last good calibre (R149, R395) -/

/-- CALIBRE_READ. -/
def State.calibreRead (s : State) (j : Nat) : State :=
  let e := (s.job j).args
  let (dev, a) := addrSpace (field e 8 8)
  let which := field e 20 1
  let b := if which = 0 then s.bank s.clb.active else s.bank s.shadow
  let im := Img.readBack b.image b.latUnbound
  if 1 < which then s.finish j St.badArg
  else if !s.clb.activeValid ∨ b.state = 0 then s.finish j St.state
  else if field e 16 4 < im.length ∨ !(s.rangeOk dev a im.length) then s.finish j St.badArg
  else (s.spaceWrite dev a im (some (s.job j).tenant)).finish j St.ok im.length b.seq

/-- CALIBRE_READ. -/
def execCalibreRead (job : Nat) (s : State) : Out := s.run fun s => if s.canStart job 0x12 then s.calibreRead job else s

/-- Keeping store offset of a calibre slot (Table 19.5). -/
def calibreSlot (n : Nat) : Nat := if n = 0 then 0x1000000 else 0x2100000

/-- A slot's bytes (R395). -/
def slotBytes (saveSeq seq frame : Nat) (im : Bytes) : Bytes :=
  let h := leBytes 0x534C4243 4 ++ leBytes saveSeq 4 ++ leBytes seq 2 ++ leBytes 0 2 ++ leBytes frame 4 ++
    leBytes im.length 4 ++ List.replicate 40 0
  h ++ leBytes (crc32 (h ++ [0, 0, 0, 0] ++ im)) 4 ++ im

/-- A save of the active calibre ends: written to the slot other than the newer valid one, or failed and to be tried again at
the next mark. -/
def State.calibreSave (s : State) (ok : Bool) : State :=
  if !s.clb.savePending ∨ !s.clb.activeValid then s
  else
    let b := s.bank s.clb.active
    let slot := 1 - s.clb.saveSlot
    let frame := s.frameCount
    let bytes := slotBytes (wrap 32 (s.clb.saveSeq + 1)) b.seq frame (Img.readBack b.image b.latUnbound)
    let failed := State.latch { s with clb := { s.clb with savePending := false } } .clbSave
    match ok, s.kstWrite (calibreSlot slot) bytes with
    | true, some t =>
      State.clbEvent { t with clb := { t.clb with savePending := false, saved := true, saveSlot := slot
                                                  saveSeq := wrap 32 (s.clb.saveSeq + 1) } } 0x0604 slot [b.seq, frame]
    | true, none => failed.wearOut (calibreSlot slot)
    | false, _ => failed

/-- CALIBRE_SAVE. -/
def execCalibreSave (ok : Bool) (s : State) : Out := s.run fun s => s.calibreSave ok

/-- A fault of class C2 or above is latched in CLB, CNV, DRV, FUS, MZE, SCH or PLK (R149). -/
def State.wallFault (s : State) : Bool :=
  [Blk.clb, Blk.cnv, Blk.drv, Blk.fus, Blk.mze, Blk.sch, Blk.plk].any fun blk =>
    (List.range 64).any fun i => s.hasPage blk i && (s.classesOf blk i).any fun c => decide (2 ≤ c)

/-- The count of good frames at a mark, and the save it asks for (R149); at M(s) no frame has passed yet. -/
def State.goodFrame (s : State) : State :=
  if !s.clb.activeValid ∨ s.fld Reg.CLB_SWAP_FRAME = s.frameCount then s
  else
    let n := if s.wallFault then 0 else s.clb.goodFrames + 1
    { s with clb := { s.clb with goodFrames := n
                                 savePending := s.clb.savePending ||
                                   (!s.clb.saved && decide (s.fld Reg.CLB_GOOD_FRAMES ≤ n)) } }

end Sys2Proof.Machine
end

