-- ==== Sys2Proof/Machine/Fusee.lean ====
section
/-! DEFINITION. The fusee (08_fusee.md): grant and scale of each circuit, the cap commit, forcing. -/

namespace Sys2Proof.Machine

def State.circ (s : State) (c : Nat) : Circuit := Tab.get {} s.fus.circ c

def State.setCirc (s : State) (c : Nat) (x : Circuit) : State :=
  { s with fus := { s.fus with circ := Tab.set s.fus.circ c x } }

/-- Locked cap of a circuit; 0 where the table does not list it (R176). -/
def State.cap (s : State) (c : Nat) : Nat := Tab.get 0 s.fus.caps c

/-- Locked slew of a circuit. -/
def State.slew (s : State) (c : Nat) : Nat := Tab.get 0 s.fus.slews c

/-- FUS_TGT of a circuit: TOKENS and SCALE. -/
def State.target (s : State) (c : Nat) : Nat × Nat :=
  (s.pair Reg.FUS_TGT_LO_TOKENS Reg.FUS_TGT_HI_TOKENS c 0 32, s.fld Reg.FUS_TGT_HI_SCALE c)

/-- Fusee events (R190). -/
def State.fusEvent (s : State) (code source : Nat) (args : List Nat) : State :=
  s.event Reg.FUS_EVQ_RING Reg.FUS_EVQ_EN code Blk.fus source args

/-! ### Grant and scale cut (R181) -/

/-- The weights of a circuit's lit tiles in frame k, by 4 × tile + emitter (R174, R175). -/
def State.weightsOf (s : State) (k : Nat) (tiles : List Bytes) : Tab Nat :=
  (tiles.filter (s.litFor k)).foldl (fun t e =>
    (List.range (Tile.emitters e)).foldl (fun t m => Tab.set t (4 * Tile.id e + m) (Rec.weight (s.recordOf k e) m)) t) []

/-- frame_open (R181, R184, R186) for frame k. -/
def State.openCirc (s : State) (im : Bytes) (k c : Nat) : State :=
  let x := s.circ c
  if x.isOpen then s
  else
    let tiles := (Img.tiles im).filter fun e => Tile.circuit e == c
    let cap := s.cap c
    let (tokens, scale) := s.target c
    let prev := match x.force with
      | some v => min v cap
      | none => x.prev
    let grant := min cap (prev + cap * s.slew c / 4096)
    let sc := min 32768 scale
    s.setCirc c { x with cap := cap, slew := s.slew c, grant := grant, limit := min grant tokens, s := sc, s0 := sc, sLow := sc
                         used := 0, uCur := 0, done := 0, prev := prev, force := none, isOpen := true, frame := k
                         rows := ((tiles.filter (s.litFor k)).map Tile.rps).sum, left := (tiles.map Tile.rps).sum
                         firstCut := none, weights := s.weightsOf k tiles }

/-- row_scale (R181). -/
def Circuit.rowScale (x : Circuit) (a n : Nat) : Circuit :=
  let done := x.done + 1
  let uCur := x.uCur + a
  let r := max (x.uPrev - uCur) (uCur * (x.rows - done) / done)
  let num : Int := 32768 * ((x.limit : Int) - x.used) - 16384 * n
  let sc := if num < 0 then 0 else if 0 < a + r then min x.s (num.toNat / (a + r)) else x.s
  { x with done := done, uCur := uCur, s := sc, sLow := min x.sLow sc
           firstCut := if x.firstCut = none ∧ sc < x.s0 then some (done - 1) else x.firstCut }

/-- row_done (R181). -/
def Circuit.rowDone (x : Circuit) (e : Nat) : Circuit := { x with used := x.used + e }

/-- frame_close (R181, R188-R190). -/
def State.closeCirc (s : State) (c : Nat) : State :=
  let x := s.circ c
  let cut := decide (x.sLow < x.s0)
  let y := { x with isOpen := false, prev := x.used, uPrev := x.uCur, closedLow := x.sLow
                    granted := wrap 64 (x.granted + x.grant), consumed := wrap 64 (x.consumed + x.used)
                    expired := wrap 64 (x.expired + x.grant - x.used), cuts := wrap 32 (x.cuts + b2n cut) }
  let s1 := s.setCirc c y
  let s2 := if x.grant < x.used ∨ x.cap < x.grant then s1.latch .fusCapcmp (c / 128) else s1.check .fusCapcmp (c / 128)
  if cut ∧ s.flag Reg.FUS_EVQ_CUT_EN then s2.fusEvent 0x0801 c [x.frame, x.s0, x.sLow, x.firstCut.getD 0] else s2

/-- A tile row pair of a circuit is finished; the last one closes the frame (R175). -/
def State.rowOver (s : State) (c : Nat) : State :=
  let x := s.circ c
  let s1 := (s.setCirc c { x with left := x.left - 1 }).check .fusSram (c / 128)
  if x.left ≤ 1 then s1.closeCirc c else s1

/-- Circuits without a tile in an image. -/
def emptyCircuits (v : Variant) (im : Bytes) : List Nat :=
  let used := (Img.tiles im).map Tile.circuit
  (List.range v.circuits).filter fun c => !(used.contains c)

/-! ### The cap commit (Table 8.2) -/

/-- CAP_COMMIT.RESULT and the like. -/
def State.capResult (s : State) (r : Nat) : State :=
  State.setFld ((State.setFld { s with fus := { s.fus with commit := none } } Reg.FUS_CAP_CTL_BUSY 0 0)) Reg.FUS_CAP_CTL_RESULT 0 r

/-- Bytes of a cap table image of `n` records. -/
def capBytes (n : Nat) : Nat := 32 + 16 * n

/-- CRC-32 of a cap table image with the field taken as 0. -/
def capCrc (im : Bytes) : Nat := crc32 (im.take 28 ++ [0, 0, 0, 0] ++ im.drop 32)

/-- The image breaks step 3 of Table 8.2. -/
def capBadFormat (im : Bytes) : Bool :=
  let n := field im 6 2
  field im 0 4 != 0x50435546 || field im 4 2 != 1 || field im 8 4 != 0 || !(zeros im 12 16) || capCrc im != field im 28 4 ||
  (List.range n).any fun c => !(zeros im (32 + 16 * c + 6) 2) || !(zeros im (40 + 16 * c + 2) 6)

/-- The image breaks step 4 of Table 8.2. -/
def capBadRange (v : Variant) (im : Bytes) : Bool :=
  let n := field im 6 2
  n == 0 || decide (v.circuits < n) ||
  (List.range n).any fun c => let w := field im (40 + 16 * c) 2; w == 0 || decide (4096 < w)

/-- A write of FUS_CAP_CTL.COMMIT (R179): steps 1 to 4. -/
def State.capCommit (s : State) : State :=
  if s.flag Reg.FUS_CAP_CTL_BUSY then s.latch .fusCapwr
  else if !s.fus.session then (s.setFld Reg.FUS_CAP_CTL_RESULT 0 1).latch .fusCapwr
  else
    let a := addr64 (s.fld Reg.FUS_CAP_SRC_LO_ADDR * 64) (s.fld Reg.FUS_CAP_SRC_HI)
    match s.engineRead a 32 14 with
    | (none, s) => s.capResult 2
    | (some h, s) =>
      let n := field h 6 2
      if n = 0 ∨ s.variant.circuits < n then
        (if field h 0 4 ≠ 0x50435546 ∨ field h 4 2 ≠ 1 ∨ field h 8 4 ≠ 0 ∨ !(zeros h 12 16) then s.capResult 2
         else match s.engineRead a (capBytes n) 14 with
           | (some im, s) => s.capResult (if capBadFormat im then 2 else 3)
           | (none, s) => s.capResult 2)
      else match s.engineRead a (capBytes n) 14 with
        | (none, s) => s.capResult 2
        | (some im, s) =>
          if capBadFormat im then s.capResult 2
          else if capBadRange s.variant im then s.capResult 3
          else State.setFld { s with fus := { s.fus with commit := some im } } Reg.FUS_CAP_CTL_BUSY 0 1

/-- FUS_CAP_COMMIT. -/
def execFusCapCommit (s : State) : Out :=
  s.run fun s => s.hostCmd Blk.fus 0 0 State.capCommit

/-- Keeping store offsets of the two cap table copies (Table 19.5). -/
def capCopy (n : Nat) : Nat := if n = 0 then 0x20000 else 0x30000

/-- A stored copy of a cap table: with its sequence number and CRC (step 5). -/
def capStored (im : Bytes) (seq : Nat) : Bytes :=
  let b := im.take 8 ++ leBytes seq 4 ++ im.drop 12
  b.take 28 ++ leBytes (capCrc b) 4 ++ b.drop 32

/-- Puts a cap table into force: caps apply from the next frame open (R176, R184). -/
def State.takeCaps (s : State) (im : Bytes) : State :=
  let n := field im 6 2
  { s with fus := { s.fus with
      count := n
      caps := (List.range n).map fun c => (c, field im (32 + 16 * c) 6)
      slews := (List.range n).map fun c => (c, field im (40 + 16 * c) 2) } }

/-- A copy of the cap table in the keeping store, where it is valid (R180, R398). -/
def State.capCopyOk (s : State) (n : Nat) : Option Bytes :=
  match s.kstRead (capCopy n) 32 with
  | none => none
  | some h =>
    let k := field h 6 2
    if field h 0 4 ≠ 0x50435546 ∨ field h 4 2 ≠ 1 ∨ k = 0 ∨ s.variant.circuits < k then none
    else match s.kstRead (capCopy n) (capBytes k) with
      | none => none
      | some im => if capCrc im = field im 28 4 then some im else none

/-- The sequence number of the stored table (Table 8.1): the higher one of the valid copies, 0 without one. -/
def State.storedSeq (s : State) : Nat :=
  [s.capCopyOk 0, s.capCopyOk 1].foldl (fun m c => max m ((c.map fun im => field im 8 4).getD 0)) 0

/-- Steps 5 to 7: copy A, then copy B, each written and read back. -/
def State.capStore (s : State) (okA okB : Bool) : State :=
  match s.fus.commit with
  | none => s
  | some im =>
    let seq := wrap 32 (s.storedSeq + 1)
    let bytes := capStored im seq
    let failed := fun (t : State) => (t.capResult 4).latch .fusCaptable
    match s.kstWrite (capCopy 0) bytes with
    | none => (failed s).wearOut (capCopy 0)
    | some s =>
      if !okA then failed s
      else match s.kstWrite (capCopy 1) bytes with
        | none => (failed s).wearOut (capCopy 1)
        | some s =>
          if !okB then failed s
          else ((((s.takeCaps im).setFld Reg.FUS_CAP_SEQ 0 seq).setFld Reg.FUS_CAP_CTL_LOADED 0 1).capResult 0).fusEvent 0x0802 0 [2, seq, field im 6 2, 3]

/-- CAP_COMMIT_STORE_DONE. -/
def execCapCommitStoreDone (okA okB : Bool) (s : State) : Out := s.run fun s => s.capStore okA okB

/-- The load of the cap table in winding (R180). -/
def State.loadCaps (s : State) : State :=
  let a := s.capCopyOk 0
  let b := s.capCopyOk 1
  let mask := b2n a.isSome + 2 * b2n b.isSome
  let best := match a, b with
    | some x, some y => if field x 8 4 < field y 8 4 then some y else some x
    | some x, none => some x
    | none, y => y
  match best with
  | none => ((s.setFld Reg.FUS_CAP_CTL_LOADED 0 0).latch .fusCaptable).fusEvent 0x0802 0 [1, 0, 0, 0]
  | some im =>
    let s1 := ((s.takeCaps im).setFld Reg.FUS_CAP_SEQ 0 (field im 8 4)).setFld Reg.FUS_CAP_CTL_LOADED 0 1
    let s2 := if mask = 3 then s1 else s1.latch .fusCapcopy
    s2.fusEvent 0x0802 0 [1, field im 8 4, field im 6 2, mask]

/-! ### FUS_FORCE (R186) -/

/-- A write of FUS_FORCE of instance p. -/
def State.fusForce (s : State) (p v : Nat) : State :=
  let c := 128 * p + bits v 6 0
  if !bit v 31 then s
  else
    let s1 := s.setCirc c { s.circ c with
      force := some (s.pair Reg.FUS_FORCE_VAL_LO Reg.FUS_FORCE_VAL_HI p 0 32), granted := 0, consumed := 0, expired := 0 }
    { s1 with flt := { s1.flt with promiseVoid := true } }

/-- FUS_FORCE. -/
def execFusForce (page : Nat) (v : Word) (s : State) : Out :=
  s.run fun s => s.onPage page (rsvBits v 0x8000007F) fun s blk inst => if blk = Blk.fus then s.fusForce inst v.toNat else s

end Sys2Proof.Machine
end

