-- ==== Sys2Proof/Machine/EncSource.lean ====
section
/-! DEFINITION. Source pictures of encode sessions (11_monitor_and_relay_encoding.md, R239-R241): the canvas tap, the conversion to
Y'CbCr, and the waiting picture. -/

namespace Sys2Proof.Machine

/-- A checker of an engine whose data path fault is class C2: a fault request follows its latch (R322, R372). -/
def State.checkEngine (s : State) (src : Src) (kind i : Nat) : State :=
  match s.takeInject src (if kind = 6 then i else 0) with
  | some s => (s.latch src (if kind = 6 then i else 0)).escRequest kind i false
  | none => s

/-! ### Colour (R239) -/

/-- ENC_OETF entry. -/
def State.oetf (s : State) (i : Nat) : Nat :=
  if i % 2 = 0 then s.fld Reg.ENC_OETF_LO (i / 2) else s.fld Reg.ENC_OETF_HI (i / 2)

/-- Quotient rounded half up. -/
def halfUp (a b : Int) : Int := (2 * a + b) / (2 * b)

/-- Kr and Kb in 1/10,000 of MATRIX 1 (BT.709) or 9 (BT.2020) (the standards' values, log 21). -/
def encKr (matrix : Nat) : Int × Int := if matrix = 9 then (2627, 593) else (2126, 722)

/-- 10-bit limited-range Y'CbCr of a 10-bit R'G'B', with coefficients of 12 fraction bits (R239, log 21). -/
def toYcc (matrix : Nat) (r g b : Int) : List Int :=
  let (kr, kb) := encKr matrix
  let kg := 10000 - kr - kb
  let q := fun a d => halfUp (4096 * a) (d * 1023)
  let out := fun (base a : Int) => max 0 (min 1023 (base + (a + 2048) / 4096))
  [out 64 (q (876 * kr) 10000 * r + q (876 * kg) 10000 * g + q (876 * kb) 10000 * b),
   out 512 (q (-448 * kr) (10000 - kb) * r + q (-448 * kg) (10000 - kb) * g + q 448 1 * b),
   out 512 (q 448 1 * r + q (-448 * kg) (10000 - kr) * g + q (-448 * kb) (10000 - kr) * b)]

/-- A 10-bit code at the session's depth. -/
def atDepth (depth c : Nat) : Nat := if depth = 8 then min 255 ((c + 2) / 4) else c

/-! ### The canvas tap (R239) -/

/-- The region of a canvas session: CW = 0 means the whole canvas. -/
def EncSession.region (x : EncSession) (im : Bytes) : Nat × Nat × Nat × Nat :=
  if x.cw = 0 then (0, 0, Img.w im, Img.h im) else (x.cx, x.cy, x.cw, x.ch)

/-- One component of the mean of a block of lamps; lamps outside the canvas count as 0. A block without a lamp has no mean
that the spec states: `free` (log 8). -/
def EncSession.mean (x : EncSession) (c x0 x1 y0 y1 free : Nat) : Nat :=
  let n := (x1 - x0) * (y1 - y0)
  let sum := ((List.range (y1 - y0)).map fun i =>
    let row := Tab.get [] x.fill (y0 + i)
    ((List.range (x1 - x0)).map fun j => (row.getD (x0 + j) []).getD c 0).sum).sum
  if n = 0 then free else (sum + n / 2) / n

/-- The Y'CbCr of output sample (i, j), 10 bits. -/
def State.canvasYcc (s : State) (x : EncSession) (im : Bytes) (i j : Nat) : List Int :=
  let (cx, cy, cw, ch) := x.region im
  let free := fun c => (Config.freeByte s.freeCtr ((j * x.outW + i) * 3 + c)).toNat * 256
  let m := fun c => x.mean c (cx + i * cw / x.outW) (cx + (i + 1) * cw / x.outW) (cy + j * ch / x.outH)
    (cy + (j + 1) * ch / x.outH) (free c)
  let code := fun c => (s.oetf (m c / 64 % 1024) : Int)
  toYcc x.matrix (code 0) (code 1) (code 2)

/-- The three planes of a canvas picture: chroma is the mean of each 2 × 2 group. -/
def State.canvasPlanes (s : State) (x : EncSession) (im : Bytes) : List (List Nat) :=
  let at_ := fun i j c => ((s.canvasYcc x im i j).getD c 0).toNat
  let luma := (List.range (x.outW * x.outH)).map fun k => atDepth x.depth (at_ (k % x.outW) (k / x.outW) 0)
  let half := x.outW / 2
  let chroma := fun c => (List.range (half * (x.outH / 2))).map fun k =>
    let i := 2 * (k % half)
    let j := 2 * (k / half)
    atDepth x.depth ((at_ i j c + at_ (i + 1) j c + at_ i (j + 1) c + at_ (i + 1) (j + 1) c + 2) / 4)
  [luma, chroma 1, chroma 2]

/-- A newer ready picture replaces a waiting one (R241). -/
def EncSession.offer (x : EncSession) (p : EncPic) : EncSession :=
  { x with waiting := some p, skip := if x.waiting.isSome then wrap 32 (x.skip + 1) else x.skip }

/-- The end of scan k: the gathered picture is ready. -/
def State.canvasReady (s : State) (e : Nat) (im : Bytes) (k : Nat) : State :=
  let x := s.ses e
  if x.fillFrame ≠ some k then s
  else
    let p : EncPic := { frame := k, planes := s.canvasPlanes x im }
    let s1 := s.setSes e { x.offer p with fillFrame := none, fill := [] }
    { s1 with freeCtr := s1.freeCtr + 1 }

/-- A row pair of the scan reaches the tap of every RUNNING canvas session whose frame it is. -/
def State.encTap (s : State) (im : Bytes) (k q : Nat) (lamps : List (List Nat)) : State :=
  let w := Img.w im
  s.enc.sessions.foldl (fun t e =>
    let x := t.ses e.1
    if x.state ≠ 1 ∨ x.isStream ∨ x.div = 0 ∨ k % x.div ≠ 0 then t
    else
      let x1 := if q = 0 then { x with fillFrame := some k, fill := [] } else x
      if x1.fillFrame ≠ some k then t
      else
        let f := Tab.set (Tab.set x1.fill (2 * q) (lamps.take w)) (2 * q + 1) (lamps.drop w)
        let t1 := t.setSes e.1 { x1 with fill := f }
        if q + 1 = Img.nrp im then t1.canvasReady e.1 im k else t1) s

end Sys2Proof.Machine
end

