-- ==== Sys2Proof/Machine/Canvas.lean ====
section
/-! DEFINITION. The compositor and the drive stage (07_canvas_and_drive.md): the per-lamp pipeline, scan, gain maps, drive
codes. -/

namespace Sys2Proof.Machine

/-! ### The per-lamp pipeline (R151, R156, R159, Table 7.1) -/

def clip3 (lo hi v : Int) : Int := max lo (min hi v)

/-- A sample of picture `n` as u12 (step 1). -/
def State.sample12 (s : State) (n plane : Nat) (depth x y : Nat) : Int :=
  ((s.outSample n plane x y % 2 ^ depth * 2 ^ (12 - depth) : Nat) : Int)

/-- A coefficient of the built-in filter: the eight of a phase sum to 256 (Table 7.1). -/
def filterCoef (n d phase tap : Nat) : Int :=
  if tap < 7 then (Config.filterTap n d phase tap).toInt
  else 256 - ((List.range 7).map fun t => (Config.filterTap n d phase t).toInt).sum

/-- Taps of one axis: source index before clipping and coefficient. -/
def taps (filter n d : Nat) (p : Int) : List (Int × Int) :=
  let phase := ((p / 1024) % 64).toNat
  if filter = 1 then [((p + 32768) / 65536, 256)]
  else if filter = 2 then [(p / 65536, 4 * (64 - phase)), (p / 65536 + 1, 4 * phase)]
  else (List.range 8).map fun (t : Nat) => (p / 65536 - 3 + (t : Int), filterCoef n d phase t)

/-- One output of a pass: accumulate, round, clip (step 2). -/
def pass (ts : List (Int × Int)) (lo hi : Int) (f : Int → Int) : Int :=
  clip3 0 4095 (((ts.map fun t => t.2 * f (clip3 lo hi t.1)).sum + 128) / 256)

/-- One axis of the scaling of a plane: crop origin and size, window size, position, subsampled, chroma offset. -/
structure Axis where
  o : Nat
  n : Nat
  d : Nat
  x : Nat
  sub : Bool
  off : Int
  deriving DecidableEq, Repr

/-- Source position of an axis (R156). -/
def Axis.pos (a : Axis) : Int :=
  let p := srcPos a.o (srcStep a.n a.d) a.x
  if a.sub then (p - a.off) / 2 else p

def Axis.lo (a : Axis) : Int := if a.sub then a.o / 2 else a.o
def Axis.hi (a : Axis) : Int := (if a.sub then ((a.o + a.n) / 2 : Nat) else (a.o + a.n : Nat)) - 1

/-- A plane's value at a window lamp (steps 1 and 2): horizontal pass, then vertical pass. -/
def State.scaled (s : State) (filter n plane depth : Nat) (h v : Axis) : Int :=
  let th := taps filter h.n h.d h.pos
  pass (taps filter v.n v.d v.pos) v.lo v.hi fun y =>
    pass th h.lo h.hi fun x => s.sample12 n plane depth x.toNat y.toNat

/-- Rounded quotient, half up. -/
def roundDiv (a b : Int) : Int := (2 * a + b) / (2 * b)

/-- Kr and Kb of a matrix code, in 1/10,000 (the standards' values, log 21). -/
def kCoef (matrix : Nat) : Int × Int :=
  if matrix = 9 then (2627, 593) else if matrix = 5 ∨ matrix = 6 then (2990, 1140) else (2126, 722)

/-- Range expansion and Y'CbCr to R'G'B' (step 3). -/
def toRgb (matrix : Nat) (full : Bool) (y cb cr : Int) : Int × Int × Int :=
  let num : Int := 4095
  let (yo, yd, cd) : Int × Int × Int := if full then (0, 4095, 4095) else (256, 3504, 3584)
  let cy := roundDiv (4096 * num) yd
  let out := fun a => clip3 0 4095 ((a + 2048) / 4096)
  if matrix = 0 then (out (cy * (cr - yo)), out (cy * (y - yo)), out (cy * (cb - yo)))
  else
    let (kr, kb) := kCoef matrix
    let kg := 10000 - kr - kb
    let crr := roundDiv (4096 * num * 2 * (10000 - kr)) (10000 * cd)
    let cbb := roundDiv (4096 * num * 2 * (10000 - kb)) (10000 * cd)
    let cgb := roundDiv (4096 * num * 2 * kb * (10000 - kb)) (10000 * kg * cd)
    let cgr := roundDiv (4096 * num * 2 * kr * (10000 - kr)) (10000 * kg * cd)
    let l := cy * (y - yo)
    (out (l + crr * (cr - 2048)), out (l - cgb * (cb - 2048) - cgr * (cr - 2048)), out (l + cbb * (cb - 2048)))

/-- A u16 of the conversion section. -/
def conv16 (im : Bytes) (o : Nat) : Nat := field im (Img.convOff im + o) 2

/-- Linearisation (step 4). -/
def linear (im : Bytes) (transfer v : Nat) : Nat :=
  if transfer = 8 then v * 16 + v / 256
  else if transfer = 16 then conv16 im (8256 + 2 * v)
  else if transfer = 18 then conv16 im (16448 + 2 * v)
  else conv16 im (64 + 2 * v)

/-- The OOTF of HLG (R159). -/
def ootf (im : Bytes) (r g b : Nat) : Nat × Nat × Nat :=
  let ys := (8608 * r + 22217 * g + 1943 * b + 16384) / 32768
  let k := conv16 im (24640 + 2 * (ys / 64))
  let f := fun c => min 65535 ((c * k + 2048) / 4096)
  (f r, f g, f b)

/-- Gamut to wall primaries (step 5). -/
def gamut (im : Bytes) (primaries r g b : Nat) : List Nat :=
  let base := if primaries = 9 then 18 else if primaries = 11 ∨ primaries = 12 then 36 else 0
  (List.range 3).map fun i =>
    let m := fun k => sfield im (Img.convOff im + base + 6 * i + 2 * k) 2
    (clip3 0 65535 ((m 0 * r + m 1 * g + m 2 * b + 4096) / 8192)).toNat

/-- Horizontal and vertical chroma offset of a chroma sample location type (R156). -/
def chromaOff (loc : Nat) : Int × Int := (if loc % 2 = 1 then 32768 else 0, if loc ≤ 1 then 32768 else if loc ≤ 3 then 0 else 65536)

/-- The canvas value of a picture at a window lamp (steps 1 to 5). -/
def State.windowLamp (s : State) (im : Bytes) (e : Bytes) (w : WinBind) (n : Nat) (x y : Nat) : List Nat :=
  let p := s.pic n
  let ((ox, nx), (oy, ny)) := winCrop e p.info.width p.info.height
  let loc := if Win.chromaLoc e = 0 then p.info.chromaLoc else Win.chromaLoc e - 1
  let subX := p.info.chroma == 1 || p.info.chroma == 2
  let subY := p.info.chroma == 1
  let (offX, offY) := chromaOff loc
  let ax := fun sub => Axis.mk ox nx (Win.w e) x sub offX
  let ay := fun sub => Axis.mk oy ny (Win.h e) y sub offY
  let luma := s.scaled (Win.filter e) n 0 p.info.depth (ax false) (ay false)
  let chroma := fun k => if p.info.chroma = 0 then 2048 else s.scaled (Win.filter e) n k p.info.depth (ax subX) (ay subY)
  let (r, g, b) := toRgb w.matrix (w.fullRange != 0) luma (chroma 1) (chroma 2)
  let l := fun (v : Int) => linear im w.transfer v.toNat
  let (r, g, b) := if w.transfer = 18 then ootf im (l r) (l g) (l b) else (l r, l g, l b)
  gamut im w.primaries r g b

/-- What a window shows at a lamp of the frame in scan (R19, R163); none where it is transparent (R161, R162). -/
def State.layerValue (s : State) (im : Bytes) (i : Nat) (x y : Nat) : Option (List Nat) :=
  let e := Img.window im i
  let fill := (List.range 3).map (Win.fill e)
  let w := ((s.win i).at_ s.cnv.frame).getD {}
  if Win.solid e then some fill
  else match w.empty, w.pic with
    | false, some n => some (s.windowLamp im e w n (x - Win.x e) (y - Win.y e))
    | _, _ => if Win.fillEmpty e then some fill else none

/-- The enabled windows that cover a lamp, lowest layer first. -/
def Img.covering (im : Bytes) (x y : Nat) : List Nat :=
  sortBy (fun i => Win.layer (Img.window im i)) ((List.range (Img.nWindows im)).filter fun i =>
    let e := Img.window im i
    Win.enable e && decide (Win.x e ≤ x) && decide (x < Win.x e + Win.w e) && decide (Win.y e ≤ y) &&
    decide (y < Win.y e + Win.h e))

/-- One component of the blend (R161). -/
def blend (alpha v c : Nat) : Nat := let a := alpha + alpha / 128; (v * a + c * (256 - a) + 128) / 256

/-- The canvas value of a lamp (R151, R161). -/
def State.lamp (s : State) (im : Bytes) (x y : Nat) : List Nat :=
  (Img.covering im x y).foldl (fun c i => match s.layerValue im i x y with
    | none => c
    | some v => (List.range 3).map fun k => blend (Win.alpha (Img.window im i)) (v.getD k 0) (c.getD k 0))
    ((List.range 3).map fun k => conv16 im (56 + 2 * k))

/-! ### The scan (R164, R165, R17) -/

/-- The stream windows of an image that cover canvas row pair q, with the window rows in it. -/
def Img.inRowPair (im : Bytes) (q : Nat) : List (Nat × List Nat) :=
  ((List.range (Img.nWindows im)).filter fun i => Win.enable (Img.window im i) && !(Win.solid (Img.window im i))).filterMap fun i =>
    let e := Img.window im i
    let rows := [2 * q, 2 * q + 1].filter fun r => decide (Win.y e ≤ r) && decide (r < Win.y e + Win.h e)
    if rows = [] then none else some (i, rows.map fun r => r - Win.y e)

/-- The bands of a picture that window rows read, first and last. -/
def bandsFor (e : Bytes) (picH : Nat) (rows : List Nat) : Nat × Nat :=
  let (o, n) := effCrop (Win.cropY e) (Win.cropH e) picH
  let st := srcStep n (Win.h e)
  (rows.foldl (fun m r => min m ((firstTap (Win.filter e) o n st r).toNat / 16)) picH,
   rows.foldl (fun m r => max m ((lastTap (Win.filter e) o n st r).toNat / 16)) 0)

/-- The bands that row pair q of the frame in scan reads and for which no credit is held (R13, R17), as picture and band. -/
def State.missingBands (s : State) (im : Bytes) (q : Nat) : List (Nat × Nat) :=
  ((Img.inRowPair im q).flatMap fun (i, rows) =>
    let w := ((s.win i).at_ s.cnv.frame).getD {}
    match w.empty, w.pic with
    | false, some n =>
      let p := s.pic n
      let (lo, hi) := bandsFor (Img.window im i) p.info.height rows
      ((List.range (hi + 1)).filter fun j => decide (lo ≤ j) && (decide (j < p.bandsBack) || decide (p.bands ≤ j))).map fun j => (n, j)
    | _, _ => []).eraseDups

/-- Every stream window of the row pair has been picked up for frame k. -/
def State.pickedUp (s : State) (im : Bytes) (k q : Nat) : Bool :=
  (Img.inRowPair im q).all fun (i, _) => ((s.win i).at_ k).isSome

/-- The scan of the next frame begins once its mark has come and the scan before it is done. -/
def State.beginScan (s : State) : State :=
  let k := frameAdd s.cnv.frame 1
  if s.cnv.scanning ∨ !(frameLe k s.frameCount) then s
  else match s.tagOf k with
    | none => s
    | some (b, _) =>
      (((({ s with cnv := { s.cnv with frame := k, bank := b, next := 0, scanning := true } } : State).setFld
        Reg.CNV_FRAME 0 k).setFld Reg.CNV_STATUS_ROW_PAIR 0 0).setFld Reg.CNV_STATUS_SCANNING 0 1)

/-- Bands of a picture that no row from row pair q + 1 of the frame in scan on reads, nor a later frame: none while a window may repeat
the picture or still bind it. -/
def State.bandsOver (s : State) (im : Bytes) (q n : Nat) : Nat :=
  let p := s.pic n
  let k := s.cnv.frame
  let later := (s.stream p.stream).lastShown == some n && !p.closed || s.cnv.wins.any fun w =>
    w.2.last.pic == some n || w.2.binds.any fun b => b.pic == some n && b.frame != k
  if later then 0
  else ((List.range (Img.nWindows im)).filter fun i => (((s.win i).at_ k).bind (·.pic)) == some n).foldl (fun m i =>
    let e := Img.window im i
    let (o, c) := effCrop (Win.cropY e) (Win.cropH e) p.info.height
    let r := 2 * (q + 1) - Win.y e
    min m (if Win.y e + Win.h e ≤ 2 * (q + 1) then p.nBands
      else (firstTap (Win.filter e) o c (srcStep c (Win.h e)) r).toNat / 16)) p.nBands

/-- The end of a scan (R165): a late end counts, and SCAN_OVERRUN is raised. What windows showed in the frame is needed no longer. -/
def State.endScan (s : State) (im : Bytes) (k : Nat) : State :=
  let s0 : State := { s with cnv := { s.cnv with
    scanning := false, wins := s.cnv.wins.map fun w => (w.1, w.2.scanned k fun n => (s.pic n).closed) } }
  let s1 := (s0.setFld Reg.CNV_STATUS_SCANNING 0 0).dropUnheld
  let lag := (s.now - s.scanTime im k (Img.nrp im - 1)) / Clk.cclk
  if s.markTime (frameAdd k 1) + s.period / 64 < s.now then
    ((s1.count Reg.CNV_OVERRUN).latch .cnvOverrun).event Reg.CNV_EVQ_RING Reg.CNV_EVQ_EN 0x0702 Blk.cnv 0
      [k, s.cnv.leftAtMark, lag]
  else s1

/-- Produces row pair q of frame k (R151, R164). -/
def State.produce (s : State) (im : Bytes) (k q : Nat) : State :=
  let w := Img.w im
  let lamps := (List.range (2 * w)).map fun i => s.lamp im (i % w) (2 * q + i / w)
  let late := (s.now - s.scanTime im k q) / Clk.cclk
  let row : CanvasRp := ⟨k, s.cnv.bank, q, lamps⟩
  let s1 : State := { s with cnv := { s.cnv with
    out := s.cnv.out ++ [row], next := q + 1
    crIssued := wrap 64 (s.cnv.crIssued + 1), crOut := wrap 64 (s.cnv.crOut + 1) } }
  let s2 := s1.setFld Reg.CNV_STATUS_ROW_PAIR 0 q
  let s3 := if late = 0 then s2
    else (s2.count Reg.CNV_LATE_RP).setFld Reg.CNV_LATE_MAX 0 (max (s2.fld Reg.CNV_LATE_MAX) (min late (2 ^ 32 - 1)))
  let shown := ((List.range (Img.nWindows im)).filterMap fun i => ((s.win i).at_ k).bind (·.pic)).eraseDups
  let s3 := (shown.filter s.holdsBad).foldl (fun t n => (t.setPic n { t.pic n with badRef := true }).latch .rfsComp) s3
  let s4 := shown.foldl (fun t n => t.returnBands n (s.bandsOver im q n)) s3
  let s5 := ((s4.check .cnvSram).checkEngine .cnvDatapath 4 0).encTap im k q lamps
  if q + 1 = Img.nrp im then s5.endScan im k else s5

/-- ROW_PAIR_START (R13, R164): never before S(q), and only with the band credits and the drive stage's credit held. -/
def State.rowPairStart (s0 : State) : State :=
  let s := if s0.pageEnabled Blk.cnv 0 ∧ s0.escOk 4 0 then s0.beginScan else s0
  match s.cnv.scanning && s.escOk 4 0, s.tagOf s.cnv.frame with
  | true, some (_, im) =>
    let k := s.cnv.frame
    let q := s.cnv.next
    if s.now < s.scanTime im k q ∨ !(s.pickedUp im k q) then s
    else
      let missing := s.missingBands im q
      let fresh := missing.filter fun m => !(s.cnv.slipped.contains (m.1 * 65536 + m.2))
      let s1 := fresh.foldl (fun t _ => (t.count Reg.DEC_BAND_SLIP).latch .decSlip)
        { s with cnv := { s.cnv with slipped := s.cnv.slipped ++ fresh.map fun m => m.1 * 65536 + m.2 } }
      if missing ≠ [] then s1
      else if 4 ≤ s.cnv.out.length then s
      else State.produce { s with cnv := { s.cnv with slipped := [] } } im k q
  | true, none => s.tagCheck s.cnv.bank
  | _, _ => s

/-- ROW_PAIR_START. -/
def execRowPairStart (s : State) : Out := s.run State.rowPairStart

/-! ### Gain maps (R168-R171) -/

/-- `n` unsigned fields of `w` bits from a byte string, low bits first. -/
def bitFields (bs : Bytes) (w n : Nat) : List Nat := (List.range n).map fun i => leNat bs / 2 ^ (w * i) % 2 ^ w

/-- One coded block (R169): its 16 values and the rest of the record, or the kind of damage of Table 7.5. -/
def gainBlock (first : Bool) (prev : List Nat) (bs : Bytes) : Except Nat (List Nat × Bytes) :=
  match bs with
  | [] => .error 4
  | h :: rest =>
    let c := h.toNat
    if c = 15 then .ok (List.replicate 16 255, rest)
    else if c = 14 then (if first then .error 2 else .ok (prev, rest))
    else if 9 ≤ c then .error 1
    else if rest.length < 1 + 2 * c then .error 4
    else
      let vs := (bitFields (rest.drop 1 |>.take (2 * c)) c 16).map (· + field rest 0 1)
      if vs.any fun v => decide (255 < v) then .error 3 else .ok (vs, rest.drop (1 + 2 * c))

/-- The blocks of a record: per block position one per emitter; `prev` holds the last block of each emitter. The damage is
a kind and the offset of the block in the record. -/
def gainBlocks (em : Nat) (len : Nat) : Nat → List (List Nat) → Bytes → List (List Nat) → Except (Nat × Nat) (List (List Nat))
  | 0, _, bs, got => if bs = [] then .ok got else .error (5, len - bs.length)
  | n + 1, prev, bs, got =>
    match gainBlock (decide (got.length < em)) (prev.getD 0 []) bs with
    | .error k => .error (k, len - bs.length)
    | .ok (vs, rest) => gainBlocks em len n (prev.drop 1 ++ [vs]) rest (got ++ [vs])

/-- The gain codes of a tile row pair: by block × emitters + emitter; none for a damaged record, with its kind and offset. -/
def gainRecord (rec : Bytes) (w em : Nat) : Except (Nat × Nat) (List (List Nat)) :=
  gainBlocks em rec.length (w / 8 * em) (List.replicate em []) rec []

/-- The gain codes of row pair j of a tile (R168, R171, R172): 255 without a map and for a damaged record. -/
def State.gains (s : State) (e : Bytes) (k j : Nat) : List (List Nat) × State :=
  let a := Tile.gainAddr e
  let all := List.replicate (Tile.w e / 8 * Tile.emitters e) (List.replicate 16 255)
  let t := Tile.id e
  let d := Tab.get {} s.cnv.tiles t
  let put := fun (s : State) (d : DrvTile) => { s with cnv := { s.cnv with tiles := Tab.set s.cnv.tiles t d } }
  if a = 0 then (all, put s { d with noGmap := true, gmapErr := false })
  else
    let m := s.dramBytes a (16 + 4 * Tile.rps e)
    let o := field m (16 + 4 * j) 4
    let fin := if j + 1 = Tile.rps e then field m 8 4 else field m (16 + 4 * (j + 1)) 4
    let (got, s1) := s.engineRead (a + o) (fin - o) 11
    let bytes := s1.cnv.gmapBytes + (fin - o)
    let s2 := ({ s1 with cnv := { s1.cnv with gmapBytes := bytes } } : State).setFld Reg.DRV_GMAP_KIB 0 (bytes / 1024)
    let res := match got with
      | some rec => gainRecord rec (Tile.w e) (Tile.emitters e)
      | none => .error (4, 0)
    match res with
    | .ok g => (g, if j = 0 then put s2 { d with noGmap := false, gmapErr := d.errFrame == some (frameAdd k (2 ^ 32 - 1)) } else s2)
    | .error (kind, at_) =>
      let s3 := (put s2 { d with noGmap := false, gmapErr := true, errFrame := some k }).count Reg.DRV_GMAP_ERRORS |>.latch .drvGmap
      (all, if d.errFrame = some k then s3
            else s3.event Reg.DRV_EVQ_RING Reg.DRV_EVQ_EN 0x0701 Blk.drv t [j, kind, o + at_])

/-! ### Drive codes (R166, R167) -/

/-- The value after correction and gain, before scale (R166). -/
def driveValue (m : Nat → Int) (c : List Nat) (g : Nat) : Nat :=
  let acc := m 0 * c.getD 0 0 + m 1 * c.getD 1 0 + m 2 * c.getD 2 0
  ((clip3 0 65535 ((acc + 4096) / 8192)).toNat * (257 + g) + 256) / 512

/-- The drive code (R166). -/
def driveCode (v sc : Nat) : Nat := (v * sc + 16384) / 32768

/-- Values of a tile row pair before scale: per emitter, row 2j then row 2j + 1. -/
def driveValues (im e : Bytes) (rp : CanvasRp) (gains : List (List Nat)) : List (List Nat) :=
  let w := Tile.w e
  (List.range (Tile.emitters e)).map fun m =>
    (List.range (2 * w)).map fun i =>
      let x := i % w
      let r := i / w
      driveValue (Img.colour im (Tile.colour e) m) (rp.lamps.getD (r * Img.w im + Tile.x e + x) [])
        ((gains.getD (x / 8 * Tile.emitters e + m) []).getD (8 * r + x % 8) 255)

/-- A lit tile row pair: the fusee sets its scale, its codes go to the mezzanine encoder with a credit. -/
def State.driveLit (s0 : State) (im e : Bytes) (rp : CanvasRp) (j : Nat) : State :=
  let c := Tile.circuit e
  let (gains, s) := s0.gains e rp.frame j
  let vs := driveValues im e rp gains
  let x := s.circ c
  let ws := (List.range (Tile.emitters e)).map fun m => Tab.get 0 x.weights (4 * Tile.id e + m)
  let a := ((ws.zip vs).map fun p => p.1 * p.2.sum).sum
  let n := 2 * Tile.w e * ws.sum
  let y := x.rowScale a n
  let codes := vs.map fun row => row.map fun v => driveCode v y.s
  let used := ((ws.zip codes).map fun p => p.1 * p.2.sum).sum
  let s1 := s.setCirc c (y.rowDone used)
  let t : MzeTile := Tab.get {} s1.mze.tiles (Tile.id e)
  let row : TileRp := ⟨Tile.id e, rp.frame, rp.bank, j, codes⟩
  let t1 : MzeTile := { t with inq := t.inq ++ [row] }
  { s1 with
    mze := { s1.mze with tiles := Tab.set s1.mze.tiles (Tile.id e) t1 }
    cnv := { s1.cnv with drvIssued := wrap 64 (s1.cnv.drvIssued + 1), drvOut := wrap 64 (s1.cnv.drvOut + 1) } }

/-- One tile row pair of the canvas row pair (R167, R175). -/
def State.driveTile (s : State) (im e : Bytes) (rp : CanvasRp) : State :=
  let c := Tile.circuit e
  let j := rp.q - Tile.y e / 2
  let s1 := s.openCirc im rp.frame c
  let lit := Tab.has (s1.circ c).weights (4 * Tile.id e)
  let d := Tab.get {} s1.cnv.tiles (Tile.id e)
  let s2 := { s1 with cnv := { s1.cnv with tiles := Tab.set s1.cnv.tiles (Tile.id e) { d with dark := !lit } } }
  (if lit then s2.driveLit im e rp j else s2).rowOver c

/-- The tiles that a canvas row pair crosses, left to right. -/
def Img.crossing (im : Bytes) (q : Nat) : List Bytes :=
  sortBy Tile.x ((Img.tiles im).filter fun e => decide (Tile.y e / 2 ≤ q) && decide (q < Tile.y e / 2 + Tile.rps e))

/-- DRIVE_ROW_PAIR (R13, R167): the oldest canvas row pair, once every tile it crosses has room in its input buffer. -/
def State.driveRowPair (s : State) : State :=
  match s.cnv.out with
  | [] => s
  | rp :: rest =>
    match s.tagOf rp.frame with
    | none => s.tagCheck rp.bank
    | some (_, im) =>
      let ts := Img.crossing im rp.q
      let full := ts.any fun e => decide (4 ≤ (Tab.get {} s.mze.tiles (Tile.id e)).inq.length)
      let noFus := ts.any fun e => !s.pageEnabled Blk.fus (Tile.circuit e / 128) &&
        !((s.circ (Tile.circuit e)).isOpen && (s.circ (Tile.circuit e)).frame == rp.frame)
      if full ∨ noFus ∨ !s.pageEnabled Blk.drv 0 ∨ !s.escOk 5 0 then s
      else
        let total := ((Img.tiles im).map Tile.rps).sum
        let none_ := emptyCircuits s.variant im
        let fresh := s.cnv.drvFrame ≠ some rp.frame ∧ ts ≠ []
        let s1 := if fresh then
            none_.foldl (fun t c => t.openCirc im rp.frame c)
              { s with cnv := { s.cnv with drvFrame := some rp.frame, drvLeft := total } }
          else s
        let s2 := ts.foldl (fun t e => t.driveTile im e rp) s1
        let left := s1.cnv.drvLeft - ts.length
        let s3 := { s2 with cnv := { s2.cnv with
          out := rest, drvLeft := left, crReturned := wrap 64 (s2.cnv.crReturned + 1), crOut := wrap 64 (s2.cnv.crOut + 2 ^ 64 - 1) } }
        let s4 := if left = 0 ∧ ts ≠ [] then none_.foldl (fun t c => t.closeCirc c) s3 else s3
        (s4.check .drvSram).checkEngine .drvDatapath 5 0

/-- DRIVE_ROW_PAIR. -/
def execDriveRowPair (s : State) : Out := s.run State.driveRowPair

end Sys2Proof.Machine
end

