-- ==== Sys2Proof/Machine/Interrupt.lean ====
section
/-! DEFINITION. The interrupt controller (17_interrupts.md): routing and priority, entry, exit and chaining, host forwarding, and
the state of a regulator that routing depends on. -/

namespace Sys2Proof.Machine

/-! ### Sources -/

/-- ID is shared (R352). -/
def sharedId (id : Nat) : Bool := decide (33 ≤ id) && decide (id ≤ 1022)

/-- The line of a source as its block drives it (R351): a sample of 1 after a sample of 0 is an edge. -/
def State.lineSample (s : State) (id : Nat) (level : Bool) : State :=
  if !(sharedId id) then s
  else
    let was := (s.src id).line
    let s1 := s.setSrc id { s.src id with line := level }
    if level && !was then s1.intEdge id else s1

/-- The line of a private source of a regulator. -/
def State.privSample (s : State) (g id : Nat) (level : Bool) : State :=
  if id = 0 ∨ 32 < id ∨ s.variant.regulators ≤ g then s
  else
    let t := s.tgt g
    let p := Tab.get {} t.priv id
    let s1 := s.setTgt g { t with priv := Tab.set t.priv id { p with line := level } }
    if level && !p.line then s1.privEdge g id else s1

/-- INT_SOURCE_EDGE: a source's line at a sample. -/
def execIntSourceEdge (id : Nat) (priv : Option Nat) (level : Bool) (s : State) : Out :=
  s.run fun s => match priv with
    | some g => s.privSample g id level
    | none => (s.lineSample id level).check .intSram (1 + id / 256)

/-- INT_TIMER_MATCH: the low 32 bits of the UCLK cycle count equal L_INT_TIMER (Table 17.1). -/
def State.timerMatch (s : State) (g : Nat) : State :=
  if g < s.variant.regulators ∧ s.now / Clk.uclk % 2 ^ 32 = (s.tgt g).timer then s.privEdge g 1 else s

/-- INT_TIMER_MATCH. -/
def execIntTimerMatch (g : Nat) (s : State) : Out := s.run fun s => s.timerMatch g

/-- A write of INT_SWSET (R351, R352). -/
def State.swset (s : State) (v : Nat) : State :=
  let id := bits v 9 0
  if sharedId id then s.intEdge id else s.latch .intCfg

/-- INT_SWSET. -/
def execIntSwset (v : Word) (s : State) : Out :=
  s.run fun s => s.regCmd Blk.int 0 (rsvBits v 0x3FF) fun s => s.swset v.toNat

/-- A write of L_INT_SWSET: bit k raises private ID 7 + k (Table 17.6). -/
def State.lSwset (s : State) (g v : Nat) : State :=
  if s.variant.regulators ≤ g then s
  else ((List.range 10).filter (bit v)).foldl (fun t k => t.privEdge g (7 + k)) s

/-- L_INT_SWSET. -/
def execLIntSwset (g : Nat) (v : Word) (s : State) : Out := s.run fun s => s.lSwset g v.toNat

/-- A W1C write of INT_PENDw of page `page` (R351): pending bits clear; the words of IDs 0 to 32 and 1023 are reserved. -/
def State.pendClear (s : State) (page w v : Nat) : State :=
  if page = 0 ∨ 4 < page ∨ 8 ≤ w then s
  else
    ((List.range 32).filter (bit v)).foldl (fun t b =>
      let id := 256 * (page - 1) + 32 * w + b
      if sharedId id then t.setSrc id { t.src id with pending := false, assigned := none } else t) s

/-- INT_PEND_CLEAR. -/
def execIntPendClear (page w : Nat) (v : Word) (s : State) : Out :=
  s.run fun s => s.regCmd Blk.int page 0 fun s => s.pendClear page w v.toNat

/-! ### Priority and routing (R353, R354) -/

/-- Highest PRIO first, then the lowest ID: the better of two sources (PRIO, ID). -/
def better (b : Option (Nat × Nat)) (e : Nat × Nat) : Option (Nat × Nat) :=
  match b with
  | none => some e
  | some q => if q.1 < e.1 ∨ (q.1 = e.1 ∧ e.2 < q.2) then some e else some q

/-- A shared source is routed to regulator g. -/
def State.routedTo (s : State) (id g : Nat) : Bool :=
  !(s.flag Reg.INT_SRC_HOST id) &&
  (if s.flag Reg.INT_SRC_RR id then (s.src id).assigned == some g else s.fld Reg.INT_SRC_TARGET id == g)

/-- The source chosen at regulator g whose current level is c, as (PRIO, ID). -/
def State.chosen (s : State) (g c : Nat) : Option (Nat × Nat) :=
  if s.flag Reg.INT_GLOBAL_HOLD then none
  else
    let priv := ((s.tgt g).priv.filter fun e => e.2.enable && e.2.pending && decide (c ≤ e.2.prio)).map fun e => (e.2.prio, e.1)
    let shared := (s.int.src.filter fun e =>
      sharedId e.1 && e.2.pending && s.flag Reg.INT_SRC_ENABLE e.1 && decide (c ≤ s.fld Reg.INT_SRC_PRIO e.1) &&
      s.routedTo e.1 g).map fun e => (s.fld Reg.INT_SRC_PRIO e.1, e.1)
    (priv ++ shared).foldl better none

/-- Current level of a regulator (R353). -/
def IntTgt.curLevel (t : IntTgt) : Nat := if t.shadow = [] then t.thresh else t.level

/-! ### Entry (R355, R356) -/

/-- A vector word of a regulator: the runtime's part of IMEM; what lies above it is the runtime's own placing, a free value
(log 46). -/
def State.vector (s : State) (g id : Nat) : Nat × State :=
  let a := (s.tgt g).vbase * 4096 + 4 * id
  if a + 4 ≤ 0x4000 then (leNat ((Tab.get {} s.rgl.regs g).imem.readBytes a 4), s) else s.freeWord

/-- The taken source is no longer pending, and is ACTIVE. -/
def State.takeSource (s : State) (g id : Nat) : State :=
  if id ≤ 32 then
    let t := s.tgt g
    let p := Tab.get {} t.priv id
    s.setTgt g { t with priv := Tab.set t.priv id { p with pending := false, active := true } }
  else s.setSrc id { s.src id with pending := false, active := true, assigned := none }

/-- The take point (E3, C1): the highest eligible source, or 1023. -/
def State.takePoint (s : State) (g : Nat) (chained : Bool) : State :=
  let t := s.tgt g
  let c := if !chained ∧ t.shadow.length = 1 then t.thresh else t.level
  let (id, level) := match s.chosen g c with
    | some (prio, id) => (id, prio + 1)
    | none => (1023, c)
  let s1 := if id = 1023 then s else s.takeSource g id
  let (pc, s2) := s1.vector g id
  let u := s2.tgt g
  let top := match u.shadow with
    | e :: es => { e with id := id } :: es
    | [] => []
  s2.setTgt g { u with shadow := top, level := level, taking := none, pc := pc, fresh := true
                       taken := if id = 1023 then u.taken else wrap 32 (u.taken + 1)
                       spurious := if id = 1023 then wrap 32 (u.spurious + 1) else u.spurious
                       chained := if chained then wrap 32 (u.chained + 1) else u.chained }

/-- INT_ENTRY: with an entry or a chain under way, its take point; else E1 and E2, where a source is eligible and the depth
allows it, and not before the first instruction of the handler just entered. The command itself says that the regulator is at an instruction boundary with mstatus.MIE = 1 (log 46). -/
def State.entry (s : State) (g pc : Nat) : State :=
  let t := s.tgt g
  if s.variant.regulators ≤ g then s
  else match t.taking with
    | some chained => s.takePoint g chained
    | none =>
      if 3 ≤ t.shadow.length ∨ (s.chosen g t.curLevel).isNone ∨ (t.fresh ∧ pc = t.pc) then s
      else
        let d := t.shadow.length + 1
        s.setTgt g { t with shadow := ⟨pc, t.curLevel, 0⟩ :: t.shadow, level := t.curLevel, bank := d, taking := some false
                            fresh := false }

/-- INT_ENTRY. -/
def execIntEntry (g pc : Nat) (s : State) : Out := s.run fun s => s.entry g pc

/-! ### Exit (R357, R361) -/

/-- The handler of a source ends: ACTIVE clears; a source that has been moved to the host meanwhile may send (R359). -/
def State.endSource (s : State) (g id : Nat) : State :=
  if id = 0 ∨ id = 1023 then s
  else if id ≤ 32 then
    let t := s.tgt g
    let p := Tab.get {} t.priv id
    s.setTgt g { t with priv := Tab.set t.priv id { p with active := false } }
  else (s.setSrc id { s.src id with active := false }).hostMsg s id

/-- INT_MRET: X1, and then either the chain or X2 and X3. -/
def State.mret (s : State) (g : Nat) : State :=
  let t := s.tgt g
  match t.shadow, t.taking with
  | e :: es, none =>
    let r := if es = [] then t.thresh else e.level
    let s1 := s.endSource g e.id
    let u := s1.tgt g
    if (s1.chosen g r).isSome then s1.setTgt g { u with level := r, taking := some true }
    else s1.setTgt g { u with shadow := es, level := r, bank := es.length, pc := e.pc, fresh := false }
  | _, _ => s

/-- INT_MRET. -/
def execIntMret (g : Nat) (s : State) : Out := s.run fun s => s.mret g

/-! ### HOLD and the host (R358-R360) -/

/-- INT_GLOBAL.HOLD set: the two bits of the register are written. -/
def State.intGlobal (s : State) (v : Nat) : State :=
  let s1 := (s.setFld Reg.INT_GLOBAL_HOLD 0 (bits v 0 0)).setFld Reg.INT_GLOBAL_HOST_EN 0 (bits v 1 1)
  if s.flag Reg.INT_GLOBAL_HOLD && !(s1.flag Reg.INT_GLOBAL_HOLD) then
    (s.int.src.map (·.1)).foldl (fun t id => t.hostMsg { t with regs := s.regs } id) s1
  else s1

/-- INT_HOLD_SET. -/
def execIntHoldSet (v : Word) (s : State) : Out :=
  s.run fun s => s.regCmd Blk.int 0 (rsvBits v 3) fun s => s.intGlobal v.toNat
/-- INT_HOLD_CLEAR. -/
def execIntHoldClear (v : Word) (s : State) : Out :=
  s.run fun s => s.regCmd Blk.int 0 (rsvBits v 3) fun s => s.intGlobal v.toNat

/-- A read of INT_HCLAIMi (R360): the answer stands in the last read. -/
def State.claim (s : State) (id : Nat) : State :=
  let x := s.src id
  let ok := sharedId id && s.flag Reg.INT_SRC_HOST id && s.hostCond id
  let s1 := if ok then s.setSrc id { x with pending := false, active := true, assigned := none } else s
  { s1 with hst := { s1.hst with lastRead := some (leBytes (if !(sharedId id) then 0 else if ok then id else 1023) 4, false) } }

/-- INT_HCLAIM_READ. -/
def execIntHclaimRead (id : Nat) (s : State) : Out := s.run fun s => if s.pagesReached then s.claim id else s

/-- A write of INT_HCLAIMi completes the source (R360). -/
def State.claimDone (s : State) (id : Nat) : State :=
  if sharedId id then (s.setSrc id { s.src id with active := false }).hostMsg s id else s

/-- INT_HCLAIM_WRITE. -/
def execIntHclaimWrite (id : Nat) (_v : Word) (s : State) : Out :=
  s.run fun s => s.regCmd Blk.int (id / 256 + 1) 0 fun s => s.claimDone id

/-! ### The state of a regulator (Table 15.15, R354) -/

/-- RGL_STATUS.STATE changes. Leaving 1 signals source 73 + g, and the round-robin sources assigned to g are assigned again;
entering 1 lets sources that found no regulator be assigned (R354, Table 17.2). -/
def State.setRglState (s : State) (g new : Nat) : State :=
  let old := s.fld Reg.RGL_STATUS_STATE g
  let s1 := s.setFld Reg.RGL_STATUS_STATE g new
  if old = 1 ∧ new ≠ 1 then
    let ids := (s1.int.src.filter fun e => e.2.pending && e.2.assigned == some g).map (·.1)
    let s2 := ids.foldl (fun t id => t.setSrc id { t.src id with assigned := none }) s1
    (ids.foldl (fun t id => t.rrAssign id) s2).intEdge (73 + g)
  else if old ≠ 1 ∧ new = 1 then (s1.int.src.map (·.1)).foldl (fun t id => t.rrAssign id) s1
  else s1

end Sys2Proof.Machine
end

