-- ==== Sys2Proof/Machine/Signed.lean ====
section
/-! DEFINITION. Signed images and bundles (15_escapements_and_regulators.md, R325, R326, R328). -/

namespace Sys2Proof.Machine

def Sg.type (im : Bytes) : Nat := field im 5 1
def Sg.kind (im : Bytes) : Nat := field im 6 1
def Sg.advance (im : Bytes) : Bool := bit (field im 7 1) 0
def Sg.length (im : Bytes) : Nat := field im 8 4
def Sg.version (im : Bytes) : Nat := field im 12 4
def Sg.lo (im : Bytes) : Nat := field im 16 2
def Sg.hi (im : Bytes) : Nat := field im 18 2
def Sg.secVer (im : Bytes) : Nat := field im 22 2
def Sg.payloadLen (im : Bytes) : Nat := field im 24 4
def Sg.payload (im : Bytes) : Bytes := slice im 64 (Sg.payloadLen im)

/-- Header and length of a signed image of a type (Table 15.4). -/
def Sg.formatOk (im : Bytes) (type : Nat) : Bool :=
  field im 0 4 == 0x4D494C4F && field im 4 1 == 1 && Sg.type im == type &&
  (if type = 2 then decide (1 ≤ Sg.kind im) && decide (Sg.kind im ≤ 6)
   else if type = 3 then decide (1 ≤ Sg.kind im) && decide (Sg.kind im ≤ 7) else Sg.kind im == 0) &&
  bits (field im 7 1) 7 1 == 0 && (type == 1 || !(Sg.advance im)) &&
  Sg.length im == 160 + Sg.payloadLen im && im.length == Sg.length im &&
  (type == 2 || (type == 3 && Sg.lo im / 256 == 0) || Sg.lo im == 0) && (type == 2 || Sg.hi im == 0) &&
  bits (field im 20 2) 15 2 == 0 && zeros im 28 36

/-- STEPPINGS holds B0. -/
def Sg.stepping (im : Bytes) : Bool := bit (field im 20 2) 1

/-- The block version that an escapement image is compared with (Table 15.1). -/
def escBlockVersion (kind : Nat) : Nat :=
  let blk := match kind with
    | 1 => Blk.dec
    | 2 => Blk.enc
    | 3 => Blk.mze
    | 4 => Blk.cnv
    | 5 => Blk.drv
    | _ => Blk.dma
  ((blockTypes.find? (·.code = blk)).map (·.version)).getD 0

/-- The image applies to its kind (R326). -/
def Sg.applies (im : Bytes) : Bool :=
  decide (Sg.lo im ≤ escBlockVersion (Sg.kind im)) && decide (escBlockVersion (Sg.kind im) ≤ Sg.hi im)

/-- The outcome of an ESC_LOAD: 0 OK, 1 FORMAT, 2 SIGNATURE, 3 ROLLBACK, 4 VERSION, 5 STEPPING, in this order (log 45). -/
def escVerify (im : Bytes) (kind secMin : Nat) : Nat :=
  if !(Sg.formatOk im 2) ∨ Sg.kind im ≠ kind ∨ Sg.payloadLen im ≠ 98304 then 1
  else if !Config.signatureOk im then 2
  else if Sg.secVer im < secMin then 3
  else if !(Sg.applies im) then 4
  else if !(Sg.stepping im) then 5
  else 0

/-- The images that a bundle's payload holds, each starting on a 64-byte boundary; none where the layout is wrong. -/
def bundleImages (p : Bytes) : Nat → Nat → Option (List Bytes)
  | 0, _ => none
  | fuel + 1, o =>
    if p.length ≤ o then some []
    else
      let n := field p (o + 8) 4
      if n < 160 ∨ p.length < o + n then none
      else (bundleImages p fuel ((o + n + 63) / 64 * 64)).map fun rest => slice p o n :: rest

/-- The inner images of a bundle. -/
def Sg.images (im : Bytes) : Option (List Bytes) := bundleImages (Sg.payload im) (Sg.payloadLen im / 160 + 1) 0

/-- The form of an inner image: a runtime of 24 KiB, an escapement image that applies to its kind, or a complication. -/
def innerFormatOk (im : Bytes) : Bool :=
  (Sg.formatOk im 4 && Sg.payloadLen im == 24576) ||
  (Sg.formatOk im 2 && Sg.payloadLen im == 98304 && Sg.applies im) || Sg.formatOk im 3

/-- One runtime image, and one escapement image for each kind, all present on both variants (R328, Table 15.1). -/
def bundleComplete (ims : List Bytes) : Bool :=
  (ims.filter fun i => Sg.type i == 4).length == 1 &&
  [1, 2, 3, 4, 5, 6].all fun k => (ims.filter fun i => Sg.type i == 2 && Sg.kind i == k).length == 1

/-- The check of a bundle (R328, Table 15.5): 0, 1 FORMAT, 2 SIGNATURE or 3 ROLLBACK. -/
def bundleVerify (im : Bytes) (secMin : Nat) : Nat :=
  if !(Sg.formatOk im 1) then 1
  else match Sg.images im with
    | none => 1
    | some ims =>
      if !(Sg.stepping im) ∨ !(ims.all fun i => innerFormatOk i && Sg.stepping i) ∨ !(bundleComplete ims) then 1
      else if !Config.signatureOk im ∨ ims.any (fun i => !Config.signatureOk i) then 2
      else if Sg.secVer im < secMin ∨ ims.any (fun i => decide (Sg.secVer i < secMin)) then 3
      else 0

/-- Keeping store offset and size of a bundle slot (Table 19.5). -/
def bundleSlot (n : Nat) : Nat := if n = 0 then 0x100000 else 0x800000
abbrev bundleMax : Nat := 0x700000

/-- FUSE_SECVER. -/
def State.fuseSec (s : State) : Nat := s.fld Reg.RGL_BOOT_FUSE_SECVER

/-- The bundle of a slot; none where the slot cannot be read or its length is beyond the slot. -/
def State.slotBundle (s : State) (n : Nat) : Option Bytes :=
  match s.kstRead (bundleSlot n) 64 with
  | none => none
  | some h =>
    if field h 0 4 ≠ 0x4D494C4F ∨ bundleMax < Sg.length h then none
    else s.kstRead (bundleSlot n) (Sg.length h)

/-- A slot holds a bundle that passes. -/
def State.slotPasses (s : State) (n : Nat) : Bool :=
  match s.slotBundle n with
  | some im => bundleVerify im s.fuseSec == 0
  | none => false

end Sys2Proof.Machine
end

