-- ==== Sys2Proof/Machine/Pmf.lean ====
section
/-! DEFINITION. The Panel Mezzanine Format (09_mezzanine_format.md, R191-R206): companding, transform, quantisation, and the
coding of one segment as R223 and R224 choose it. -/

namespace Sys2Proof.Machine

/-! ### Domain (R191, R193) -/

/-- Sample domain D of a profile. -/
def pmfD (profile : Nat) : Nat := if profile = 2 then 16 else 12

/-- NMAX of a profile (Table 9.1). -/
def pmfNmax (profile : Nat) : Nat := if profile = 2 then 18 else 14

/-- compand (R193). -/
def compand (v : Nat) : Nat :=
  if v < 1024 then v
  else
    let e := Nat.log2 v - 8
    e * 512 + (v / 2 ^ (e - 1) - 512)

/-- expand (R194). -/
def expand (c : Nat) : Nat :=
  let e := c / 512
  let m := c % 512
  if e ≤ 1 then c else (512 + m) * 2 ^ (e - 1) + 2 ^ (e - 2)

/-- A drive code in the profile's domain. -/
def toDomain (profile v : Nat) : Nat := if profile = 2 then v else compand v

/-! ### Bit strings: a value and its length, first bit lowest (R199) -/

/-- Bits appended to a bit string. -/
def putBits (b : Nat × Nat) (n v : Nat) : Nat × Nat := (b.1 + v % 2 ^ n * 2 ^ b.2, b.2 + n)

/-- Bit strings joined. -/
def joinBits (a b : Nat × Nat) : Nat × Nat := (a.1 + b.1 * 2 ^ a.2, a.2 + b.2)

/-! ### Transform (R202) and its inverse (R204) -/

def pairFwd (a b : Int) : Int × Int := let d := a - b; (b + d / 2, d)

def pairInv (s d : Int) : Int × Int := let b := s - d / 2; (b + d, b)

/-- haar_fwd: level 3 sum and difference, level 2 differences, level 1 differences. -/
def haarFwd (v : List Int) : Int × Int × List Int × List Int :=
  let l1 := (List.range 4).map fun i => pairFwd (v.getD (2 * i) 0) (v.getD (2 * i + 1) 0)
  let g1 := fun i => (l1.getD i (0, 0)).1
  let l2 := [pairFwd (g1 0) (g1 1), pairFwd (g1 2) (g1 3)]
  let g2 := fun i => (l2.getD i (0, 0)).1
  let (s3, d3) := pairFwd (g2 0) (g2 1)
  (s3, d3, l2.map (·.2), l1.map (·.2))

def haarInv (s3 d3 : Int) (d2 d1 : List Int) : List Int :=
  let (a, b) := pairInv s3 d3
  let l1 := ([a, b].zip d2).flatMap fun p => let (x, y) := pairInv p.1 p.2; [x, y]
  (l1.zip d1).flatMap fun p => let (x, y) := pairInv p.1 p.2; [x, y]

/-- fwd: the 16 coefficients of a residual of two rows of eight (Table 9.8). -/
def fwd (x : List Int) : List Int :=
  let cols := (List.range 8).map fun k => pairFwd (x.getD k 0) (x.getD (8 + k) 0)
  let (ls, ld, l2, l1) := haarFwd (cols.map (·.1))
  let (hs, hd, h2, h1) := haarFwd (cols.map (·.2))
  [ls, ld, hs, hd] ++ l2 ++ h2 ++ l1 ++ h1

/-- The residual that 16 coefficients give. -/
def inv (c : List Int) : List Int :=
  let g := fun i => c.getD i 0
  let l := haarInv (g 0) (g 1) [g 4, g 5] [g 8, g 9, g 10, g 11]
  let h := haarInv (g 2) (g 3) [g 6, g 7] [g 12, g 13, g 14, g 15]
  let cols := (l.zip h).map fun p => pairInv p.1 p.2
  cols.map (·.1) ++ cols.map (·.2)

/-! ### Quantisation (R203, R223) -/

/-- MUL of Table 9.9. -/
def qMul (q : Nat) : Nat := if q = 0 then 1 else [128, 152, 181, 215].getD (q % 4) 0

/-- SH of Table 9.9. -/
def qSh (q : Nat) : Nat := if q = 0 then 0 else 7 - q / 4

/-- The extra shift x. -/
def qX (profile q : Nat) : Nat := if profile = 2 ∧ 0 < q then 4 else 0

/-- dequant (R203). -/
def dequant (l : Int) (q x : Nat) : Int :=
  let t := l.natAbs * qMul q * 2 ^ x
  let r := if qSh q = 0 then t else (t + 2 ^ (qSh q - 1)) / 2 ^ qSh q
  if l < 0 then -(r : Int) else r

/-- The level of a coefficient (R223). -/
def level (c : Int) (q x dz : Nat) : Int :=
  if q = 0 then c
  else
    let imul := (2 ^ (qSh q + 16 + x) + qMul q - 1) / qMul q
    let m := (c.natAbs * imul + dz) / 65536
    if c < 0 then -(m : Int) else m

/-! ### Coefficient groups (R200, Table 9.6) -/

/-- Smallest bit length that holds a magnitude. -/
def bitLen (m : Nat) : Nat := if m = 0 then 0 else Nat.log2 m + 1

/-- The NDELTA code of a difference. -/
def nDelta (d : Int) : Nat × Nat :=
  let s := if d < 0 then 1 else 0
  match d.natAbs with
  | 0 => (0, 1)
  | 1 => putBits (1, 2) 1 s
  | 2 => putBits (3, 3) 1 s
  | 3 => putBits (putBits (7, 4) 1 0) 1 s
  | 4 => putBits (putBits (7, 4) 1 1) 1 s
  | m => putBits (putBits (15, 4) 4 (m - 5)) 1 s

/-- Four levels at a bit length. -/
def putLevels (b : Nat × Nat) (n : Nat) (ls : List Int) : Nat × Nat :=
  ls.foldl (fun b l =>
    let b := putBits b n l.natAbs
    if l = 0 then b else putBits b 1 (if l < 0 then 1 else 0)) b

/-- The four groups of an emitter's block: bits, new bit lengths; none where a length passes NMAX. -/
def putGroups (nmax : Nat) (pn : List Nat) (ls : List Int) : Option ((Nat × Nat) × List Nat) :=
  (List.range 4).foldl (fun acc g =>
    match acc with
    | none => none
    | some (b, ns) =>
      let four := (ls.drop (4 * g)).take 4
      let n := (four.map fun l => bitLen l.natAbs).foldl max 0
      if nmax < n then none
      else some (putLevels (joinBits b (nDelta ((n : Int) - (pn.getD g 0 : Nat)))) n four, ns ++ [n]))
    (some ((0, 0), []))

/-! ### Blocks (R201, R224) -/

/-- What a segment is coded with: profile, q, dead zone, skip tolerance, flags. -/
structure SegCtx where
  profile : Nat
  q : Nat
  dz : Nat
  tol : Nat
  intra : Bool
  above : Bool
  deriving DecidableEq, Repr

/-- One emitter's sources for a block: the values, the reference, the row above, the two left values. -/
structure BlockIn where
  v : List Nat
  ref : List Nat
  up : List Nat
  left : Option (Nat × Nat)
  deriving DecidableEq, Repr

/-- dc_value (R201). -/
def dcValue (d : Nat) (up : Bool) (left : Option (Nat × Nat)) (sa : Nat) : Nat :=
  match up, left with
  | true, some (l0, l1) => (sa + 4 * (l0 + l1) + 8) / 16
  | true, none => (sa + 4) / 8
  | false, some (l0, l1) => (l0 + l1 + 1) / 2
  | false, none => 2 ^ (d - 1)

/-- The prediction of a mode (Table 9.7). -/
def predict (c : SegCtx) (b : BlockIn) (mode : Nat) : List Nat :=
  if mode = 0 then List.replicate 16 (dcValue (pmfD c.profile) c.above b.left b.up.sum)
  else if mode = 1 then b.up ++ b.up
  else b.ref

/-- An emitter's block in a mode: bits, bit lengths, reconstruction. -/
def codeEmitter (c : SegCtx) (mode : Nat) (pn : List Nat) (b : BlockIn) : Option ((Nat × Nat) × List Nat × List Nat) :=
  let p := predict c b mode
  let x := qX c.profile c.q
  let ls := (fwd ((b.v.zip p).map fun e => (e.1 : Int) - e.2)).map fun k => level k c.q x c.dz
  match putGroups (pmfNmax c.profile) pn ls with
  | none => none
  | some (bits_, ns) =>
    let res := inv (ls.map fun l => dequant l c.q x)
    some (bits_, ns, (p.zip res).map fun e => (clip3 0 (2 ^ pmfD c.profile - 1) ((e.1 : Int) + e.2)).toNat)

/-- All emitters of a block in a mode. -/
def codeMode (c : SegCtx) (mode : Nat) (pn : List (List Nat)) (bs : List BlockIn) :
    Option ((Nat × Nat) × List (List Nat) × List (List Nat)) :=
  let start := putBits (0, 0) (if c.profile = 0 then 1 else 2) mode
  (bs.zip pn).foldl (fun acc e =>
    match acc, codeEmitter c mode e.2 e.1 with
    | some (b, ns, rs), some (b', n, r) => some (joinBits b b', ns ++ [n], rs ++ [r])
    | _, _ => none) (some (start, [], []))

/-- Skip is chosen (R224). -/
def skips (c : SegCtx) (bs : List BlockIn) : Bool :=
  !c.intra && bs.all fun b => (b.v.zip b.ref).all fun e =>
    e.1 == e.2 || (decide (0 < c.q) && decide (e.1 ≤ e.2 + c.tol) && decide (e.2 ≤ e.1 + c.tol))

/-- A block as R224 codes it: the mode of the fewest bits, the lowest of several. -/
def codeBlock (c : SegCtx) (pn : List (List Nat)) (bs : List BlockIn) :
    Option ((Nat × Nat) × List (List Nat) × List (List Nat)) :=
  if skips c bs then some (putBits (0, 0) 2 3, pn, bs.map (·.ref))
  else
    let modes := [0] ++ (if c.above then [1] else []) ++ (if c.intra then [] else [2])
    (modes.filterMap fun m => codeMode c m pn bs).foldl (fun best r =>
      match best with
      | none => some r
      | some b => if r.1.2 < b.1.2 then some r else some b) none

/-! ### Segments (R197, R199, R204-R206) -/

/-- A row pair's values by emitter: `rows` holds, per emitter, row 2j then row 2j + 1. -/
def blockOf (rows : List Nat) (w b : Nat) : List Nat := (rows.drop (8 * b)).take 8 ++ ((rows.drop (w + 8 * b)).take 8)

/-- The blocks of a segment from block `b` on, with the bit lengths and the left neighbours of each emitter; the
reconstructed blocks in order. -/
def codeBlocks (c : SegCtx) (w : Nat) (vs refs ups : List (List Nat)) :
    Nat → Nat → List (List Nat) → List (Option (Nat × Nat)) → Option ((Nat × Nat) × List (List (List Nat)))
  | 0, _, _, _ => some ((0, 0), [])
  | n + 1, b, pn, left =>
    let ins := (List.range vs.length).map fun e =>
      (⟨blockOf (vs.getD e []) w b, blockOf (refs.getD e []) w b, ((ups.getD e []).drop (8 * b)).take 8, left.getD e none⟩ : BlockIn)
    match codeBlock c pn ins with
    | none => none
    | some (bits_, pn', recs) =>
      let left' := recs.map fun r => some (r.getD 7 0, r.getD 15 0)
      match codeBlocks c w vs refs ups n (b + 1) pn' left' with
      | none => none
      | some (more, rest) => some (joinBits bits_ more, recs :: rest)

/-- Rows of each emitter from reconstructed blocks. -/
def rowsOf (em : Nat) (blocks : List (List (List Nat))) : List (List Nat) :=
  (List.range em).map fun e =>
    (blocks.flatMap fun b => (b.getD e []).take 8) ++ (blocks.flatMap fun b => (b.getD e []).drop 8)

/-- Bytes of a bit string, padded with 0 bits (R199). -/
def bitBytes (b : Nat × Nat) : Bytes := leBytes b.1 ((b.2 + 7) / 8)

/-- A segment: header, data, SCRC (Table 9.4, R197). -/
def segment (j : Nat) (floor above intra : Bool) (q : Nat) (data : Bytes) : Bytes :=
  let h := leBytes (j + 512 * b2n floor + 1024 * b2n above + 2048 * b2n intra + 4096 * q + 131072 * data.length) 4
  h ++ data ++ leBytes (crc16 (h ++ data)).toNat 2

/-- A quantiser candidate: its segment and its reconstruction; none where the syntax cannot hold it (R200, R212). -/
def pmfCandidate (c : SegCtx) (j w : Nat) (vs refs ups : List (List Nat)) : Option (Bytes × List (List Nat)) :=
  let em := vs.length
  (codeBlocks c w vs refs ups (w / 8) 0 (List.replicate em [0, 0, 0, 0]) (List.replicate em none)).map fun r =>
    (segment j false c.above c.intra c.q (bitBytes r.1), rowsOf em r.2)

/-- floor_rec (R205). -/
def floorRec (d f depth : Nat) : Nat :=
  if f = 0 then 0 else if depth = d then f else f * 2 ^ (d - depth) + 2 ^ (d - depth - 1)

/-- A floor segment at depth F (R205, R206). -/
def floorSegment (profile j w depth : Nat) (vs : List (List Nat)) : Bytes × List (List Nat) :=
  let d := pmfD profile
  let top := vs.map fun r => r.map fun v => v / 2 ^ (d - depth)
  let order := (List.range (w / 8)).flatMap fun b => top.flatMap fun r => blockOf r w b
  let bits_ := order.foldl (fun b v => putBits b depth v) (0, 0)
  (segment j true false true depth (bitBytes bits_), top.map fun r => r.map fun f => floorRec d f depth)

/-- A tile picture header (Table 9.3). -/
def picHeader (profile tile frame w8 h2 em : Nat) (intraAll floorAny : Bool) : Bytes :=
  let h := leBytes 0xA5C396E1 4 ++ [1, BitVec.ofNat 8 profile] ++ leBytes tile 2 ++ leBytes frame 2 ++ leBytes w8 1 ++
    leBytes (h2 + 1024 * em) 2 ++ leBytes (b2n intraAll + 2 * b2n floorAny) 1
  h ++ leBytes (crc16 h).toNat 2

end Sys2Proof.Machine
end

