-- ==== Sys2Proof/Machine/Mezz.lean ====
section
/-! DEFINITION. The mezzanine encoders (10_mezzanine_encoding.md, R207, R212, R214-R234): the order of row pairs, the tile's
frame open, the choice of each row pair, link frames, refresh. -/

namespace Sys2Proof.Machine

def State.mzt (s : State) (t : Nat) : MzeTile := Tab.get {} s.mze.tiles t

def State.setMzt (s : State) (t : Nat) (x : MzeTile) : State :=
  { s with mze := { s.mze with tiles := Tab.set s.mze.tiles t x } }

def State.mzc (s : State) (c : Nat) : MzeCore := Tab.get {} s.mze.cores c

def State.setMzc (s : State) (c : Nat) (x : MzeCore) : State :=
  { s with mze := { s.mze with cores := Tab.set s.mze.cores c x } }

/-- Mezzanine encoder events (R233). -/
def State.mzeEvent (s : State) (code source : Nat) (args : List Nat) : State :=
  s.event Reg.MZE_EVQ_RING Reg.MZE_EVQ_EN code Blk.mze source args

/-- A core takes row pairs: present, page enabled, not OFFLINE (R214, R234). -/
def State.mzeOnline (s : State) (c : Nat) : Bool :=
  decide (c < s.variant.mzeCores) && s.pageEnabled Blk.mze (c / 8) && s.domOn (6 + c / 8) && !(s.mzc c).offline

/-- State word of a row pair. -/
def MzeTile.rp (x : MzeTile) (j : Nat) : MzeRp := x.rps.getD j {}

/-- Changes the state word of a row pair. -/
def MzeTile.setRp (x : MzeTile) (j : Nat) (f : MzeRp → MzeRp) : MzeTile := { x with rps := x.rps.modify j f }

/-! ### The reference region (R226, R227, R234) -/

/-- Device addresses and lengths of `n` bytes from an offset of a tile's reference, through its granules. -/
def State.refPieces (s : State) (x : MzeTile) : Nat → Nat → Nat → List (Nat × Nat)
  | 0, _, _ => []
  | fuel + 1, off, n =>
    if n = 0 then []
    else
      let k := min n (65536 - off % 65536)
      ((s.fld Reg.MZE_REF_BASE + runAt x.runs (off / 65536)) * 65536 + off % 65536, k) ::
        State.refPieces s x fuel (off + k) (n - k)

/-- Reads a tile's reference; none where a line of it is uncorrectable. -/
def State.refRead (s : State) (x : MzeTile) (off n port : Nat) : Option Bytes × State :=
  (s.refPieces x 2 off n).foldl (fun (a : Option Bytes × State) q =>
    let (got, t) := a.2.engineRead q.1 q.2 port
    (a.1.bind fun b => got.map (b ++ ·), t)) (some [], s)

/-- Writes a tile's reference. -/
def State.refWrite (s : State) (x : MzeTile) (off : Nat) (bs : Bytes) : State :=
  ((s.refPieces x 2 off bs.length).foldl (fun (a : State × Bytes) q => (a.1.devWrite q.1 (a.2.take q.2), a.2.drop q.2)) (s, bs)).1

/-- Offset of row pair j's rows in the reference: the row pairs in order, each emitter's two rows together, two bytes a value; the
state words follow (the layout within a slot is internal: DESIGN CHOICE, log 131). -/
def refOff (w em j : Nat) : Nat := j * (4 * w * em)

/-- A state word. -/
def MzeRp.word (r : MzeRp) : Bytes :=
  leBytes (b2n r.suspect + 2 * b2n r.floored + 4 * b2n r.refreshed.isSome) 2 ++ leBytes (r.refreshed.getD 0) 2 ++ leBytes 0 4

/-- Changes the state word of row pair j of a tile, in the region too. -/
def State.putRp (s : State) (t j : Nat) (f : MzeRp → MzeRp) : State :=
  let x := (s.mzt t).setRp j f
  let (w, em) := (x.last.getD 0 0, x.last.getD 2 0)
  (s.setMzt t x).refWrite x (refOff w em x.rps.length + 8 * j) (x.rp j).word

/-- The rows of row pair j's reference, where they are needed: none, with MZE.refread, where the read returns an uncorrectable error
(R234). -/
def State.refRows (s : State) (x : MzeTile) (w em j c : Nat) (need : Bool) : Option (List (List Nat)) × State :=
  if !need then (some [], s)
  else match s.takeInject .mzeRefread (c / 8) with
    | some u => (none, u.latch .mzeRefread (c / 8))
    | none =>
      match s.refRead x (refOff w em j) (4 * w * em) (6 + c / 8) with
      | (none, t) => (none, t.latch .mzeRefread (c / 8))
      | (some bs, t) =>
        (some ((List.range em).map fun m => (List.range (2 * w)).map fun i => field bs (2 * (2 * w * m + i)) 2), t)

/-- Granules for a tile's reference that no other tile of the image holds: the lowest (DESIGN CHOICE, log 131). -/
def State.refRuns (s : State) (im e : Bytes) : List (Nat × Nat) :=
  let used := ((Img.tiles im).filter fun o => Tile.id o != Tile.id e).flatMap fun o => (s.mzt (Tile.id o)).runs
  freeRuns used (s.fld Reg.MZE_REF_SIZE) (2 * used.length + 3) (Tile.need e) 0

/-! ### The order of ready row pairs (R214) -/

/-- A row pair of the tile is in coding. -/
def State.tileBusy (s : State) (t : Nat) : Bool := s.mze.cores.any fun c => c.2.busy && c.2.tile == t

/-- The earliest start of a beat of a tile still to come in frame k, on any port that carries it. -/
def State.nextBeat (s : State) (im e : Bytes) (k : Nat) : Option Nat :=
  let starts := (Img.carriers im e).flatMap fun p => (Img.tileBeats im p (Tile.id e)).map fun b =>
    s.markTime k + Img.slotTime im p (Beat.start b) * Clk.cclk
  (starts.filter fun t => decide (s.now ≤ t)).foldl (fun m t => match m with
    | none => some t
    | some u => some (min u t)) none

/-- The place of a row pair in the order: those with a beat to come first, by that beat, then by tile. -/
def State.rowKey (s : State) (im e : Bytes) (rp : TileRp) : List Nat :=
  match s.nextBeat im e rp.frame with
  | some b => [0, b, rp.tile]
  | none => [1, 0, rp.tile]

/-- One ready row pair with its place, tile entry and image. -/
structure ReadyRow where
  key : List Nat
  rp : TileRp
  e : Bytes
  im : Bytes
  deriving DecidableEq, Repr

/-- The row pair that a free core takes, with the tile entry and image of its frame (R214). -/
def State.readyRow (s : State) : Option ReadyRow :=
  let ready := s.mze.tiles.filterMap fun t =>
    match t.2.inq, s.tileBusy t.1 with
    | rp :: _, false =>
      match s.tagOf rp.frame with
      | some (_, im) => (Img.tile im t.1).map fun e => ReadyRow.mk (s.rowKey im e rp) rp e im
      | none => none
    | _, _ => none
  ready.foldl (fun best x => match best with
    | none => some x
    | some y => if x.key < y.key then some x else some y) none

/-! ### The tile's frame open (R216, R219, R222, R228, R232) -/

/-- The curve of a tile: its points, and whether they rise (R219). -/
def State.curve (s : State) (t : Nat) : List Nat :=
  let a := addr64 (s.fld Reg.MZE_CMAP_LO_ADDR * 64) (s.fld Reg.MZE_CMAP_HI)
  let c := if s.flag Reg.MZE_CMAP_CTL_EN then (s.dramByte (a + t)).toNat % 16 else 0
  ((List.range 8).flatMap fun w => [s.fld Reg.MZE_CURVE_A_ODD (8 * c + w), s.fld Reg.MZE_CURVE_A_EVEN (8 * c + w)]).take 15

/-- The points do not fall. -/
def rising (a : List Nat) : Bool := (a.zip (a.drop 1)).all fun p => decide (p.1 ≤ p.2)

/-- Geometry, profile and place of a tile picture, with the matched receiver's serial number and geometry (R228, R309). -/
def State.pictureKey (s : State) (k : Nat) (e : Bytes) : List Nat :=
  let r := s.recordOf k e
  [Tile.w e, Tile.h e, Tile.emitters e, Tile.profile e, Tile.port e, Tile.pos e, Rec.serial r, Rec.w r, Rec.h r, Rec.emitters r]

/-- A tile picture of frame k is coded INTRA_ALL (R228). -/
def State.intraAll (s : State) (e : Bytes) (k : Nat) : Bool :=
  let x := s.mzt (Tile.id e)
  let prev := frameAdd k (2 ^ 32 - 1)
  x.sentFrame != some prev || x.headerUnsent == some prev || x.last != s.pictureKey k e || x.refreshAll ||
  (match x.wholeDamage, x.lastIntraAll with
   | some f, some g => frameLe prev f && !(frameLe (frameAdd f 1) g)
   | some f, none => frameLe prev f
   | none, _ => false)

/-- Jobs that end with OK. -/
def State.finishAll (s : State) (js : List Nat) (r0 : Nat) : State := js.foldl (fun t j => t.finish j St.ok r0) s

/-- The tile's frame open: budget, curve, qb, flags; a pending TILE_REFRESH joins this frame. -/
def State.openTile (s : State) (im e : Bytes) (rp : TileRp) : State :=
  let t := Tile.id e
  let x := s.mzt t
  let k := rp.frame
  let all := s.intraAll e k
  let h2 := Tile.rps e
  let a := s.curve t
  let lin := (List.range 15).map fun i => 4096 * (i + 1)
  let same := x.rps.length = h2 ∧ x.last = s.pictureKey k e
  let rps := if same then x.rps else List.replicate h2 {}
  let runs := if same then x.runs else s.refRuns im e
  let q := if all then s.fld Reg.MZE_QCTL_Q_START else x.qb
  let closed := match x.notice with
    | some (f, o) => if f = k then some o else none
    | none => none
  let p : MzePic :=
    { frame := k, bank := rp.bank, budget := Img.budget im e, qb := q, qbFirst := q, profile := Tile.profile e
      emitters := Tile.emitters e, w8 := Tile.w e / 8, h2 := h2, fmin := Tile.floorMin e, intraAll := all
      curve := if rising a then a else lin
      stepDn := s.fld Reg.MZE_QCTL_STEP_DN, stepUp := s.fld Reg.MZE_QCTL_STEP_UP, jump := s.fld Reg.MZE_QCTL_FLOOR_JUMP
      unclean := (List.range h2).filter fun j => (rps.getD j {}).suspect || (rps.getD j {}).floored
      refresh := x.refresh, bytes := List.replicate 16 0, closedAt := closed }
  let y := { x with pic := some p, rps := rps, runs := runs, last := s.pictureKey k e, refreshAll := false, refresh := [], refreshJobs := []
                    wholeDamage := if all then none else x.wholeDamage
                    lastIntraAll := if all then some k else x.lastIntraAll }
  let s1 := (s.setMzt t y).finishAll x.refreshJobs k
  if rising a then s1 else s1.latch .mzeCurve 0

/-! ### A row pair starts (R214, R225, R229, R231) -/

/-- Row pair j is due for refresh (R229, first three cases). -/
def MzeTile.due (x : MzeTile) (p : MzePic) (j : Nat) : Bool :=
  (x.rp j).suspect || (x.rp j).floored || p.refresh.any fun r => decide (r.1 ≤ j) && decide (j < r.1 + r.2)

/-- Row pairs at the heads of the input buffers carry tags (R140). -/
def State.rowTags (s : State) : State :=
  s.mze.tiles.foldl (fun t x => match x.2.inq.head? with
    | some rp => t.tagCheck rp.bank
    | none => t) s

/-- MZE_ROW_PAIR_START: a core whose link frames still wait for pool buffers takes none (R215). -/
def State.rowStart (s0 : State) (c : Nat) : State :=
  let s := s0.rowTags
  if !(s.mzeOnline c) ∨ (s.mzc c).busy ∨ (Tab.get {} s.swc.ins c).wait ≠ [] ∨ s.pwr.critStop ∨ !s.escOk 3 c then s
  else match s.readyRow with
    | none => s
    | some r =>
      let rp := r.rp
      let e := r.e
      let im := r.im
      let t := rp.tile
      let j := rp.j
      let s1 := if j = 0 ∧ (s.mzt t).pic = none then s.openTile im e rp else s
      match (s1.mzt t).pic with
      | none => s
      | some p =>
        let x := s1.mzt t
        let roll := s1.fld Reg.MZE_REFRESH_ROLL_PERIOD
        let fixed := p.profile == 0 || p.intraAll || x.due p j || (roll != 0 && j % roll == (p.frame + t) % roll)
        let run := s1.fld Reg.MZE_REFRESH_ABOVE_RUN
        let next := decide (0 < j) && s1.flag Reg.MZE_REFRESH_ABOVE_EN && j % run != 0 &&
          (!(p.unclean.contains (j - 1)) || p.segs.any fun g => g.1 == j - 1 && g.2.2.2)
        let (ref, s2) := s1.refRows x (8 * p.w8) p.emitters j c (!fixed)
        let (ups, s3) := s2.refRows x (8 * p.w8) p.emitters (j - 1) c next
        let hurt := ref.isNone || ups.isNone
        let s4 := if fixed || hurt then s3.putRp t j fun r => { r with suspect := false, floored := false } else s3
        let s5 := s4.setMzc c
          { s4.mzc c with busy := true, tile := t, j := j, intra := fixed || hurt, above := next && ups.isSome
                          ref := ref.getD [], ups := (ups.getD []).map fun r => r.drop (8 * p.w8), startedAt := s4.now }
        if (x.due p j || hurt) ∧ p.profile ≠ 0 ∧ !p.intraAll then s5.count Reg.MZE_REFRESH_RP else s5

/-- MZE_ROW_PAIR_START. -/
def execMzeRowPairStart (core : Nat) (s : State) : Out := s.run fun s => s.rowStart core

/-! ### The choice of a row pair (R219, R220) -/

/-- cum (R219). -/
def cum (a : List Nat) (i h2 : Nat) : Nat :=
  let p := i * 65536 / h2
  let x := p / 4096
  let f := p % 4096
  if 16 ≤ x then 65536
  else
    let lo := if x = 0 then 0 else a.getD (x - 1) 0
    let hi := if x = 15 then 65536 else a.getD x 0
    lo + (hi - lo) * f / 4096

/-- The row allowance a of row pair j (R220). -/
def MzePic.allowance (p : MzePic) (j : Nat) : Int :=
  let fc : Int := fcost (8 * p.w8) p.emitters p.fmin
  let rest : Int := ((p.h2 : Int) - 1 - j) * fc
  let hard : Int := (p.budget : Int) - p.used - rest
  let soft : Int := 16 + ((p.budget : Int) - 16) * cum p.curve (j + 1) p.h2 / 65536 - p.used
  max fc (min soft hard)

/-- The floor depth that fits (R220). -/
def MzePic.floorDepth (p : MzePic) (a : Int) : Nat :=
  ((List.range (pmfD p.profile + 1)).filter fun f =>
    decide (p.fmin ≤ f) && (f == p.fmin || decide ((fcost (8 * p.w8) p.emitters f : Int) ≤ a))).foldl max p.fmin

/-- The three candidates' indices, lowest first (R220, R222). -/
def MzePic.qs (p : MzePic) : List Nat := [p.qb - p.stepDn, p.qb, min 31 (p.qb + p.stepUp)].eraseDups

/-- What a row pair is coded as: its segment, reconstruction, q of the candidate, or the depth of floor mode. -/
def State.codeRow (s : State) (k : MzeCore) (p : MzePic) (rp : TileRp) :
    Bytes × List (List Nat) × Option Nat × Nat :=
  let w := 8 * p.w8
  let vs := rp.codes.map fun r => r.map (toDomain p.profile)
  let zero := List.replicate p.emitters (List.replicate (2 * w) 0)
  let ref := if k.ref = [] then zero else k.ref
  let ups := if k.ups = [] then zero else k.ups
  let a := p.allowance rp.j
  let try_ := p.qs.filterMap fun q =>
    match pmfCandidate ⟨p.profile, q, s.fld Reg.MZE_QDZ_DEADZONE, s.fld Reg.MZE_SKIP_TOL, k.intra, k.above⟩ rp.j w vs ref ups with
    | some r => if (r.1.length : Int) ≤ a then some (r.1, r.2, some q, 0) else none
    | none => none
  match try_ with
  | r :: _ => r
  | [] =>
    let f := p.floorDepth a
    let r := floorSegment p.profile rp.j w f vs
    (r.1, r.2, none, f)

/-! ### Link frames (R195, R207, R212, R299) -/

/-- A link frame's bytes: SOF, header, payload, CRC-32, EOF (R299, Table 14.5). The K and D characters stand as their
8-bit values (log 22). -/
def linkBytes (type cls : Nat) (bcast up : Bool) (dest src tile frag fragFirst frame tag : Nat) (payload : Bytes) : Bytes :=
  let h := leBytes (type + 16 * cls + 64 * b2n bcast + 128 * b2n up) 1 ++ leBytes dest 1 ++ leBytes src 1 ++ leBytes 0 1 ++
    leBytes tile 2 ++ leBytes payload.length 2 ++ leBytes frag 3 ++ leBytes 0 1 ++ leBytes fragFirst 2 ++ leBytes frame 2 ++
    leBytes tag 2
  let h := h ++ leBytes (crc16 h).toNat 2
  [0xFB, 0xB5, 0xB5, 0xB5] ++ h ++ payload ++ leBytes (crc32 (h ++ payload)) 4 ++ [0xFD, 0xB5, 0xB5, 0xB5]

/-- The frame with DEST written and HCRC and CRC-32 computed again (R300). -/
def withDest (bs : Bytes) (dest : Nat) : Bytes :=
  let h := (bs.drop 4).take 1 ++ leBytes dest 1 ++ (bs.drop 6).take 16
  let h := h ++ leBytes (crc16 h).toNat 2
  let p := (bs.drop 24).take (bs.length - 32)
  bs.take 4 ++ h ++ p ++ leBytes (crc32 (h ++ p)) 4 ++ bs.drop (bs.length - 4)

/-- The frame as the block behind input `i` hands it over. -/
def LinkFrame.via (i : Nat) (f : LinkFrame) : LinkFrame := { f with input := i }

/-- Cuts link frames of 4,096 payload bytes; the last one of a tile picture takes the rest. The header goes into the first
with FLOOR_ANY as it stands then (R212). -/
def MzePic.cutFrames (t : Nat) (p : MzePic) : Nat → MzePic × List LinkFrame
  | 0 => (p, [])
  | n + 1 =>
    let last := p.next == p.h2
    if p.bytes.length < 4096 ∧ !(last && decide (0 < p.bytes.length)) then (p, [])
    else
      let body := if p.cut = 0 then
          picHeader p.profile t (p.frame % 65536) p.w8 p.h2 p.emitters (p.intraAll || p.profile == 0) p.floorAny ++ p.bytes.drop 16
        else p.bytes
      let pay := body.take 4096
      let first := (p.starts.find? fun o => decide (p.cut ≤ o) && decide (o < p.cut + pay.length))
      let data := linkBytes 0 0 false false 0 0 t p.cut ((first.map (· - p.cut)).getD 0xFFFF) (p.frame % 65536) 0 pay
      let f : LinkFrame := { len := data.length, tile := t, bank := p.bank, frame := p.frame, frag := p.cut
                             payload := pay.length, data := data }
      let q := { p with bytes := body.drop 4096, cut := p.cut + pay.length }
      let (r, fs) := MzePic.cutFrames t q n
      (r, f :: fs)

/-! ### The scheduler's notice (R230) -/

/-- The picture is over: an INTRA or FLOOR segment that was sent is remembered with its frame, the segments beyond the offset become
SUSPECT, and TILE_UNSENT is raised. -/
def State.unsent (s0 : State) (t : Nat) (p : MzePic) (off : Nat) : State :=
  let lost := p.segs.filter fun g => decide (off < g.2.2.1)
  let sent := p.segs.filter fun g => decide (g.2.2.1 ≤ off) && g.2.2.2
  let s1 := sent.foldl (fun t' g => t'.putRp t g.1 fun r => { r with refreshed := some (p.frame % 65536) }) s0
  let s := lost.foldl (fun t' g => t'.putRp t g.1 fun r => { r with suspect := true }) s1
  let y := s.mzt t
  let z := { y with out := y.out.filter fun q => q.frame != p.frame
                    sentFrame := if p.used ≤ off then some p.frame else y.sentFrame
                    headerUnsent := if off < 16 then some p.frame else y.headerUnsent }
  let s1 := (s.setMzt t z).count Reg.MZE_UNSENT_RP 0 lost.length
  match lost with
  | [] => s1
  | g :: _ => s1.mzeEvent 0x0A03 t [p.frame, g.1, p.used - off, b2n (decide (off < 16))]

/-- The notice for frame k: the highest payload offset that every carrying port sent in full (R230, R231). -/
def State.notice (s : State) (t k off : Nat) : State :=
  let x := s.mzt t
  match x.out.find? fun p => p.frame == k with
  | some p => s.unsent t p off
  | none =>
    match x.pic with
    | some p => if p.frame = k then s.setMzt t { x with pic := some { p with closedAt := some off } }
                else s.setMzt t { x with notice := some (k, off) }
    | none => s.setMzt t { x with notice := some (k, off) }

/-! ### A row pair is coded (R220-R226) -/

/-- The tile picture is complete: its registers show, TILE_FLOOR is raised, its notice may be due. -/
def State.picDone (s : State) (t : Nat) (p : MzePic) : State :=
  let x := s.mzt t
  let y := { x with pic := none, out := x.out ++ [p], qb := p.qbFirst, showBudget := p.budget, showUsed := p.used
                    showQb := p.qbFirst, showMinF := p.minF, showFloorRp := p.floorRp }
  let s1 := s.setMzt t y
  let s2 := if 0 < p.floorRp ∧ s.flag Reg.MZE_EVQ_FLOOR_EN then
      s1.mzeEvent 0x0A01 t [p.frame, p.firstFloor, p.floorRp, p.minF]
    else s1
  match p.closedAt with
  | some o => s2.unsent t p o
  | none => s2

/-- MZE_ROW_PAIR_DONE: the row pair's segment joins the tile picture, its reconstruction becomes the reference, the drive
stage's credit goes back. -/
def State.rowDone (s : State) (c : Nat) : State :=
  let k := s.mzc c
  let t := k.tile
  let x := s.mzt t
  match k.busy, x.pic, x.inq with
  | true, some p, rp :: rest =>
    let (seg, rec, q, f) := s.codeRow k p rp
    let floor := q.isNone
    let first := p.cut + p.bytes.length
    let p1 := { p with
      bytes := p.bytes ++ seg, starts := p.starts ++ [first]
      segs := p.segs ++ [(rp.j, first, first + seg.length, floor || k.intra)]
      used := p.used + seg.length, next := p.next + 1
      qb := match q with
        | some v => v
        | none => min 31 (p.qb + p.jump)
      floorAny := p.floorAny || (floor && p.cut == 0), floorRp := p.floorRp + b2n floor
      firstFloor := if floor && p.floorRp == 0 then rp.j else p.firstFloor
      minF := if floor then (if p.minF = 0 then f else min p.minF f) else p.minF }
    let p2 := if rp.j = 0 then { p1 with qbFirst := p1.qb } else p1
    let (p3, frames) := MzePic.cutFrames t p2 (p2.bytes.length / 4096 + 2)
    let y : MzeTile := { x with inq := rest, pic := some p3 }
    let s0 := (s.setMzt t y).refWrite y (refOff (8 * p.w8) p.emitters rp.j) (rec.flatten.flatMap fun v => leBytes v 2)
    let s1 := if floor then s0.putRp t rp.j fun r => { r with floored := true } else s0
    let i : SwIn := Tab.get {} s.swc.ins c
    let i1 : SwIn := { i with wait := i.wait ++ frames.map (LinkFrame.via c) }
    let s1 := s1.setMzc c
      { k with busy := false, rps := wrap 32 (k.rps + 1), busyCycles := k.busyCycles + (s.now - k.startedAt) / Clk.cclk
               offline := k.offline || k.offlineReq }
    let s2 := { s1 with
      swc := { s1.swc with ins := Tab.set s1.swc.ins c i1 }
      cnv := { s1.cnv with drvReturned := wrap 64 (s1.cnv.drvReturned + 1), drvOut := wrap 64 (s1.cnv.drvOut + 2 ^ 64 - 1) } }
    let s3 := (if floor then s2.count Reg.MZE_FLOOR_RP else s2).check .mzeSram (c / 8)
    if p3.next = p3.h2 then s3.picDone t p3 else s3
  | _, _, _ => s

/-! ### Damage reports (R230, R233, R306) -/

/-- The ports whose closes the notice of frame k waits for: lit mirrors and the primary (R230, R262). -/
def State.closers (s : State) (k : Nat) (im e : Bytes) : List Nat :=
  (Img.carriers im e).filter fun p => p == Tile.port e || s.mirrorLitFor k e p

/-- Payload bytes of tile t's picture of frame k that a port has sent in full so far. -/
def State.sentOn (s : State) (t k p : Nat) : Nat :=
  match s.sch.closes.find? fun c => c.tile == t && c.frame == k && c.port == p with
  | some c => c.sent
  | none => if s.fld Reg.SCH_PFRAME p = k then Tab.get 0 (Tab.get {} s.sch.ports p).sent t else 0

/-- The row pairs of a picture in the path whose INTRA or FLOOR segment every carrying port has sent. -/
def State.sentRows (s : State) (t : Nat) (p : MzePic) : List Nat :=
  match (s.tagOf p.frame).bind fun b => (Img.tile b.2 t).map fun e => s.closers p.frame b.2 e with
  | none => []
  | some ps =>
    let n := ps.foldl (fun m q => min m (s.sentOn t p.frame q)) (2 ^ 24)
    (p.segs.filter fun g => g.2.2.2 && decide (g.2.2.1 ≤ n)).map (·.1)

/-- One report of a receiver of the tile about frame f (16 bits): ranges of row pairs, or the whole tile picture. A row pair of which a
later frame has sent an INTRA or FLOOR segment is passed over. -/
def State.damage (s : State) (t f : Nat) (whole mirror : Bool) (ranges : List (Nat × Nat)) : State :=
  let x := s.mzt t
  let after := fun g => decide (g % 65536 ≠ f % 65536) && decide ((g % 65536 + 65536 - f % 65536) % 65536 < 32768)
  let path := ((x.out ++ x.pic.toList).filter fun p => after p.frame).flatMap fun p => s.sentRows t p
  let later := fun j => path.contains j || match (x.rp j).refreshed with
    | some g => after g
    | none => false
  let rows := (if whole then List.range x.rps.length
    else ranges.flatMap fun r => (List.range r.2).map (r.1 + ·)).filter fun j => decide (j < x.rps.length)
  let hit := rows.filter fun j => !(later j)
  let n := s.frameCount
  let full := frameAdd n (2 ^ 32 - (n + 65536 - f % 65536) % 65536)
  let s0 := hit.foldl (fun u j => u.putRp t j fun r => { r with suspect := true }) s
  let y := s0.mzt t
  let newest := match y.wholeDamage with
    | some g => if frameLe g full then full else g
    | none => full
  let z := if whole then { y with wholeDamage := some newest } else y
  let s1 := (s0.setMzt t z).count Reg.MZE_DAMAGE_RP 0 rows.length
  match hit with
  | [] => s1
  | j :: _ => s1.mzeEvent 0x0A02 t [full, j, rows.length, b2n whole + 2 * b2n mirror]

/-! ### TILE_REFRESH (R232) -/

/-- TILE_REFRESH. -/
def State.tileRefresh (s : State) (j : Nat) : State :=
  let a := (s.job j).args
  let t := bits (field a 8 2) 13 0
  let all := bit (field a 10 1) 0
  let first := field a 12 2
  let n := field a 14 2
  match s.activeImg with
  | none => s.finish j St.state
  | some im =>
    match Img.tile im t with
    | none => s.finish j St.state
    | some e =>
      if !all ∧ (n = 0 ∨ Tile.rps e < first + n) then s.finish j St.badArg
      else if !(s.lit e) then s.finish j St.ok
      else
        let s := s.start j
        let x := s.mzt t
        s.setMzt t { x with refreshAll := x.refreshAll || all, refresh := if all then x.refresh else x.refresh ++ [(first, n)]
                            refreshJobs := x.refreshJobs ++ [j] }

/-- TILE_REFRESH. -/
def execTileRefresh (job : Nat) (s : State) : Out := s.run fun s => if s.canStart job 0x40 then s.tileRefresh job else s

/-! ### Cores and the reference region (R106 form of MZE_CORE_CTL, R227, R234) -/

/-- A fault latched in a core: it goes OFFLINE, and its row pair is coded again on another (R234). -/
def State.mzeCoreFault (s : State) (c : Nat) : State :=
  let k := s.mzc c
  let s1 := if k.busy ∧ k.intra then s.putRp k.tile k.j fun r => { r with suspect := true } else s
  ((s1.setMzc c { k with busy := false, offline := true, faulted := true }).latch .mzeCore (c / 8)).escRequest 3 c false

/-- The end of a row pair with the check of its core (R234, R372). -/
def State.rowEnd (s : State) (c : Nat) : State :=
  if !(s.mzc c).busy then s
  else match s.takeInject .mzeCore (c / 8) with
    | some t => t.mzeCoreFault c
    | none => s.rowDone c

/-- MZE_ROW_PAIR_DONE. -/
def execMzeRowPairDone (core : Nat) (s : State) : Out := s.run fun s => s.rowEnd core

/-- RESET of an offline, idle core. -/
def State.mzeReset (s : State) (c : Nat) : State :=
  let k := s.mzc c
  if k.offline ∧ !k.busy then (s.setMzc c { k with faulted := false }).escAdopt 3 c else s

/-- MZE_CORE_RESET. -/
def execMzeCoreReset (core : Nat) (s : State) : Out :=
  s.run fun s => s.regCmd Blk.mze (core / 8) 0 fun s => s.mzeReset core

/-- A write of MZE_CORE_CTL. -/
def State.mzeCtl (s : State) (c v : Nat) : State :=
  if s.variant.mzeCores ≤ c then s
  else
    let k := s.mzc c
    let off := bit v 0
    let k1 := { k with offlineReq := off, offline := if off then k.offline || !k.busy else if k.faulted then k.offline else false }
    let s1 := s.setMzc c k1
    if bit v 1 then s1.mzeReset c else s1

/-- A write of MZE_REF_BASE (0) or MZE_REF_SIZE (1) (R227). -/
def State.mzeRegion (s : State) (reg v : Nat) : State :=
  if s.clb.activeValid then s.latch .mzeBusy 0
  else (if reg = 0 then s.setFld Reg.MZE_REF_BASE 0 (v % 2 ^ 24) else s.setFld Reg.MZE_REF_SIZE 0 (v % 2 ^ 24)).showRefFree

/-- MZE_REF_REGION_WRITE. -/
def execMzeRefRegionWrite (reg : Nat) (v : Word) (s : State) : Out :=
  s.run fun s => s.regCmd Blk.mze 0 (rsvBits v 0xFFFFFF) fun s => s.mzeRegion reg v.toNat

end Sys2Proof.Machine
end

