-- ==== Sys2Proof/Machine/Switch.lean ====
section
/-! DEFINITION. The switch core (12_buffer_pool_and_switch.md, R260-R268): submission of link frames, ingress, cell matching,
delivery to port queues and regulators, copies dropped after acceptance. -/

namespace Sys2Proof.Machine

def State.swin (s : State) (i : Nat) : SwIn := Tab.get {} s.swc.ins i

def State.setSwin (s : State) (i : Nat) (x : SwIn) : State :=
  { s with swc := { s.swc with ins := Tab.set s.swc.ins i x } }

def State.swout (s : State) (o : Nat) : SwOut := Tab.get {} s.swc.outs o

def State.setSwout (s : State) (o : Nat) (x : SwOut) : State :=
  { s with swc := { s.swc with outs := Tab.set s.swc.outs o x } }

def State.sport (s : State) (p : Nat) : SchPort := Tab.get {} s.sch.ports p

def State.setSport (s : State) (p : Nat) (x : SchPort) : State :=
  { s with sch := { s.sch with ports := Tab.set s.sch.ports p x } }

def State.rglQ (s : State) (g : Nat) : RglQueues := Tab.get {} s.rgq.q g

def State.setRglQ (s : State) (g : Nat) (x : RglQueues) : State :=
  { s with rgq := { s.rgq with q := Tab.set s.rgq.q g x } }

/-- Cells of a link frame (R260). -/
def LinkFrame.cells (f : LinkFrame) : Nat := (f.len + 127) / 128

/-- Buffers of a link frame (R260). -/
def LinkFrame.nbuf (f : LinkFrame) : Nat := (f.len + 255) / 256

/-! ### Audit terms of an output (R268) -/

/-- Cells of an accepted copy. -/
def State.audIn (s : State) (o n : Nat) : State :=
  let x := s.swout o
  s.setSwout o { x with audIn := wrap 64 (x.audIn + n), resident := wrap 64 (x.resident + n) }

/-- Cells sent. -/
def State.audOut (s : State) (o n : Nat) : State :=
  let x := s.swout o
  s.setSwout o { x with audOut := wrap 64 (x.audOut + n), resident := wrap 64 (x.resident + 2 ^ 64 - n) }

/-- Cells of a dropped copy. -/
def State.audDrop (s : State) (o n : Nat) : State :=
  let x := s.swout o
  s.setSwout o { x with audDrop := wrap 64 (x.audDrop + n), resident := wrap 64 (x.resident + 2 ^ 64 - n) }

/-! ### Owners and release -/

/-- The owner of a copy's shares on an output (R263, R265). -/
def LinkFrame.holder (f : LinkFrame) (o : Nat) : Nat := if o < 64 then 64 + o else if o = 64 then 3 else 8 + f.dreg

/-- The holder releases buffers (R264). -/
def State.releaseAll (s : State) (o : Nat) (bs : List Nat) : State := bs.foldl (fun t b => (t.poolRelease o b).2) s

/-- A queued copy is dropped (R264): shares released, cells counted. -/
def State.dropCopy (s : State) (o : Nat) (f : LinkFrame) : State :=
  (s.releaseAll (f.holder o) f.bufs).audDrop o f.cells

/-! ### Submission (R207, R260) -/

/-- An earlier fragment of the same tile picture has not crossed yet (R207). -/
def State.earlierFrag (s : State) (f : LinkFrame) : Bool :=
  s.swc.ins.any fun i => (i.2.wait ++ i.2.queue).any fun g =>
    decide (g.input < 32) && g.tile == f.tile && g.frame == f.frame && decide (g.frag < f.frag)

/-- The bytes of a link frame go into its buffers as its cells cross; the sender holds them all before the first (R260). -/
def State.frameSubmit (s : State) (i : Nat) : State :=
  let x := s.swin i
  match x.wait with
  | [] => s
  | f :: rest =>
    if !s.pageEnabled Blk.swc 0 ∨ 46 ≤ i ∨ (i < 32 ∧ s.earlierFrag f) then s
    else if f.bufs ≠ [] then s.setSwin i { x with wait := rest, queue := x.queue ++ [f] }
    else match s.poolAllocN (if i < 32 then 1 else 4) f.nbuf [] with
      | (some bs, s) => s.setSwin i { x with wait := rest, queue := x.queue ++ [{ f with bufs := bs }] }
      | (none, s) => s

/-- LINK_FRAME_SUBMIT. -/
def execLinkFrameSubmit (input : Nat) (s : State) : Out := s.run fun s => s.frameSubmit input

/-! ### Ingress (R262, R263, R265) -/

/-- The outputs that a link frame is for, with its target regulator; none where the list is empty. -/
def State.fwdList (s : State) (i : Nat) (f : LinkFrame) : List Nat × Nat :=
  if 41 ≤ i then ([65], s.fld Reg.SWC_RX_ROUTE_REG)
  else match f.direct with
    | some d =>
      if d = 65 ∧ s.variant.regulators ≤ f.dreg then ([], f.dreg)
      else if d < s.variant.ports ∨ d = 64 ∨ d = 65 then ([d], f.dreg) else ([], f.dreg)
    | none =>
      match (s.bank f.bank).state with
      | 0 => ([], 0)
      | 1 => ([], 0)
      | _ =>
        let im := (s.bank f.bank).image
        match Img.tile im f.tile with
        | none => ([], 0)
        | some e => ((Img.carriers im e).filter fun p => p == Tile.port e || s.mirrorLitFor f.frame e p, 0)

/-- An output accepts a frame (R263). -/
def State.accepts (s : State) (f : LinkFrame) (o : Nat) : Bool :=
  (decide (64 ≤ o) || (s.inData o && s.flag Reg.SWC_PORT_CTL_ACCEPT o)) &&
  decide (s.use (f.holder o) + f.nbuf ≤ s.fld Reg.BPM_QUOTA_QUOTA (f.holder o))

/-- One output of the list accepts or refuses its copy. -/
def State.ingressAt (s : State) (f : LinkFrame) (o : Nat) : Bool × State :=
  if s.accepts f o then (true, (s.held (f.holder o) f.nbuf 0).audIn o f.cells)
  else (false, if o < 64 then s.count Reg.SWC_PORT_DROP o else s)

/-- Every output of the list in turn: those that accepted. -/
def State.ingress (s : State) (f : LinkFrame) : List Nat → List Nat × State
  | [] => ([], s)
  | o :: os =>
    let (ok, s1) := s.ingressAt f o
    let (ps, s2) := State.ingress s1 f os
    (if ok then o :: ps else ps, s2)

/-- The sender's buffers go back at once: the frame had no port list (R262). -/
def State.freeFrame (s : State) (f : LinkFrame) : State :=
  f.bufs.foldl (fun t b => (t.poolFree (t.buf b).owner b).2) s

/-- A frame's tag names a bank that is neither ACTIVE nor DRAINING (R140). -/
def State.badTag (s : State) (i : Nat) (f : LinkFrame) : Bool :=
  decide (i < 41) && f.direct.isNone && decide ((s.bank f.bank).state < 2)

/-- The head's first cell enters: its list is resolved, or it is dropped for want of one (R262). -/
def State.sopEnter (s : State) (i : Nat) (x : SwIn) (f : LinkFrame) (rest : List LinkFrame) : State :=
  let s := if s.badTag i f then s.latch .clbTag else if i < 41 ∧ f.direct.isNone then s.check .clbTag else s
  match s.fwdList i f with
  | ([], _) => ((s.freeFrame f).setSwin i { x with queue := rest }).count Reg.SWC_NOFWD |>.latch .swcFwd
  | (os, g) =>
    let f1 : LinkFrame := { f with dreg := g }
    let (ps, s1) := s.ingress f1 os
    let s2 := if ps.length < os.length then s1.count Reg.SWC_MC_PARTIAL else s1
    s2.setSwin i { x with queue := f1 :: rest, entered := true, ports := ps, dropped := [], staged := true, cell := 0
                          left := ps, written := false }

/-! ### Buffers cross to the switch (R264) -/

/-- HANDOVER to SWC, one SHARE for each accepted port, FREE. HELD was charged at acceptance. -/
def State.crossBuf (s : State) (b copies : Nat) : State :=
  match s.poolHandover (s.buf b).owner b 4 with
  | (0, s1) =>
    let s2 := if 15 < (s1.buf b).shares + copies then s1.misuse 2 Pst.shareLimit 4 b
              else s1.setBuf b { s1.buf b with shares := (s1.buf b).shares + copies }
    (s2.poolFree 4 b).2
  | (_, s1) => s1

/-- The cell is the last of its buffer. -/
def LinkFrame.lastOfBuf (f : LinkFrame) (c : Nat) : Bool := c % 2 == 1 || c + 1 == f.cells

/-- Cells of the head that an output has taken. -/
def SwIn.taken (x : SwIn) (o : Nat) : Nat := if x.staged && !(x.left.contains o) then x.cell + 1 else x.cell

/-- The copies of the head that an output has been accepted for are dropped (R264): what has arrived is released now, the
rest as its cells arrive. -/
def State.dropCrossing (s : State) (i o : Nat) : State :=
  let x := s.swin i
  match x.queue with
  | [] => s
  | f :: _ =>
    if !x.entered ∨ !(x.ports.contains o) ∨ x.dropped.contains o then s
    else
      let n := x.taken o
      let whole := (List.range f.nbuf).filter fun k => decide (min f.cells (2 * k + 2) ≤ n)
      let s1 := s.releaseAll (f.holder o) (whole.map fun k => f.bufs.getD k 0)
      (s1.setSwin i { x with dropped := o :: x.dropped }).audDrop o n

/-- Every copy of the head is dropped: a cell parity error (SWC.datapath). -/
def State.dropHead (s : State) (i : Nat) : State := (s.swin i).ports.foldl (fun t o => t.dropCrossing i o) s

/-- A cell has entered staging: the checks of its data, and R264 with the last cell of a buffer. -/
def State.cellIn (s : State) (i : Nat) : State :=
  let x := s.swin i
  match x.queue with
  | [] => s
  | f :: _ =>
    let s1 := if f.lastOfBuf x.cell then s.crossBuf (f.bufs.getD (x.cell / 2) 0) x.ports.length else s
    match s1.takeInject .swcDatapath with
    | some s2 => (s2.latch .swcDatapath).dropHead i
    | none => s1

/-- An input whose staging register is free takes its next cell. -/
def State.stage (s : State) (i : Nat) : State :=
  let x := s.swin i
  if x.staged then s
  else match x.queue with
    | [] => s
    | f :: rest =>
      if x.entered then
        (s.setSwin i { x with staged := true, left := x.ports, written := false }).cellIn i
      else
        let s1 := s.sopEnter i x f rest
        if (s1.swin i).staged then s1.cellIn i else s1

/-! ### Delivery -/

/-- The 96-byte receive entry (Table 15.8a). -/
def rxEntry (len : Nat) (trunc : Bool) (frame port tile : Nat) (bufs : List Nat) : Bytes :=
  leBytes len 2 ++ leBytes bufs.length 1 ++ leBytes (b2n trunc) 1 ++ leBytes frame 4 ++ leBytes port 1 ++ leBytes 0 1 ++
  leBytes tile 2 ++ leBytes 0 4 ++ ((List.range 17).flatMap fun k => leBytes (bufs.getD k 0) 4) ++ leBytes 0 12

/-- A complication's MESSAGE entry: at once, or after the entry that it is in (R337). -/
def Cpl.messageEntry (c : Cpl) (now : Nat) : Cpl :=
  if c.stopped then c
  else if c.entry = 0 then { c with entry := 3, entryAt := now }
  else { c with msgWaits := c.msgWaits + 1 }

def State.rgl_ (s : State) (g : Nat) : Regulator := Tab.get {} s.rgl.regs g

def State.setRegl (s : State) (g : Nat) (x : Regulator) : State :=
  { s with rgl := { s.rgl with regs := Tab.set s.rgl.regs g x } }

/-- A mailbox message (0) or a queue entry (1) comes for regulator g: its complications that have subscribed to it get a MESSAGE entry
(R337). -/
def State.messageFor (s : State) (g what : Nat) : State :=
  let x := s.rgl_ g
  let told := fun (c : Cpl) => if Config.subscribed c.image what then c.messageEntry s.now else c
  if s.fld Reg.RGL_STATUS_STATE g = 1 ∧ x.cpls ≠ [] then
    s.setRegl g { x with cpls := x.cpls.map fun c => (c.1, told c.2) }
  else s

/-- A frame joins regulator g's receive queue, or is dropped where that is full (R265, R335). `len` is its frame length. -/
def State.rxDeliver (s : State) (g : Nat) (f : LinkFrame) (port : Nat) (trunc : Bool) (len : Nat) : State :=
  let q := s.rglQ g
  let n := (q.rxPi + 128 - q.rxCi) % 128
  if n = 64 then
    ((s.releaseAll (8 + g) f.bufs).audDrop 65 f.cells).count Reg.RGL_RXQ_DROP g
  else
    let e := rxEntry len trunc s.frameCount port f.tile f.bufs
    let s1 := (s.setRglQ g { q with rxq := Tab.set q.rxq (q.rxPi % 64) e, rxPi := (q.rxPi + 1) % 128 }).audOut 65 f.cells
    (if n = 0 then s1.privEdge g 3 else s1).messageFor g 1

/-- Key of a leaf queue: subscriber and class (R280). -/
def leafKey (sub cls : Nat) : Nat := 4 * sub + cls

/-- A leaf queue of a port. -/
def SchPort.leaf (x : SchPort) (k : Nat) : List LinkFrame := Tab.get [] x.leaves k

/-- A tile picture had a link frame dropped at a mark: its circuit counts it once (R187). -/
def State.lateTile (s : State) (f : LinkFrame) : State :=
  if s.sch.late.contains (f.tile, f.frame) then s
  else
    let recent := ((f.tile, f.frame) :: s.sch.late).filter fun e => frameLe (frameAdd s.frameCount (2 ^ 32 - 8)) e.2
    let s1 := { s with sch := { s.sch with late := recent } }
    match Img.tile (s.bank f.bank).image f.tile with
    | some e =>
      let c := s1.circ (Tile.circuit e)
      s1.setCirc (Tile.circuit e) { c with lateTiles := wrap 32 (c.lateTiles + 1) }
    | none => s1

/-- A queued tile frame of an ended port frame is dropped (R271). -/
def State.dropLate (s : State) (p : Nat) (f : LinkFrame) : State := ((s.dropCopy p f).count Reg.SCH_LATE p).lateTile f

/-- A copy joins a port's queue; a tile frame of an ended port frame is dropped (R271). -/
def State.joinPort (s0 : State) (p : Nat) (f : LinkFrame) : State :=
  let s := if f.isOpen then s0 else s0.tagCheck f.bank
  let x := s.sport p
  if f.isOpen then
    let k := leafKey f.sub f.cls
    s.setSport p { x with leaves := Tab.set x.leaves k (x.leaf k ++ [f]) }
  else if x.running && !(frameLe (s.fld Reg.SCH_PFRAME p) f.frame) then s.dropLate p f
  else s.setSport p { x with tileQ := x.tileQ ++ [f] }

/-- A frame that came whole to the host sample port from a sender is written as a sample packet (R267). -/
def sampleItems (port : Nat) (trunc : Bool) (tile len frame : Nat) (data : Bytes) : List (Nat → Bytes) :=
  let n := data.length
  let items := 1 + (n - 16 + 30) / 31
  let at_ := fun i => data.getD i 0
  (fun ph => leBytes (port + 64 * b2n trunc) 1 ++ leBytes items 1 ++ leBytes 0 1 ++ leBytes ph 1 ++ leBytes tile 2 ++
      leBytes n 2 ++ leBytes len 4 ++ leBytes frame 4 ++ (List.range 16).map at_) ::
  (List.range (items - 1)).map fun i => fun ph => (List.range 31).map (fun b => at_ (16 + 31 * i + b)) ++ leBytes ph 1

/-- The sample packet is committed and its share released (R267). -/
def State.sampleCommit (s : State) (port : Nat) (f : LinkFrame) (bufs : List Nat) (data : Bytes) : State :=
  (s.record (s.fld Reg.SWC_SMP_CTL_RING) 5
    (sampleItems port (decide (256 < f.len)) f.tile f.len s.frameCount data)).releaseAll 3 bufs

/-- The last cell of a copy has arrived at an output. -/
def State.deliver (s : State) (i o : Nat) (f : LinkFrame) : State :=
  if o < 64 then s.joinPort o f
  else if o = 64 then (s.sampleCommit 0 f f.bufs (f.data.take 256)).audOut 64 f.cells
  else s.rxDeliver f.dreg f i false f.len

/-- One match: the cell goes to an output's queue, its data to its buffer at the first match. -/
def State.matched (s : State) (i o : Nat) : State :=
  let x := s.swin i
  match x.queue with
  | [] => s
  | f :: _ =>
    let b := f.bufs.getD (x.cell / 2) 0
    let s1 := if x.written then s else s.bufWrite b (x.cell % 2 * 128) (slice f.data (x.cell * 128) 128)
    let s2 := s1.setSwin i { x with left := x.left.filter (· != o), written := true }
    let fin := x.cell + 1 == f.cells
    if x.dropped.contains o then
      let s3 := s2.audDrop o 1
      if f.lastOfBuf x.cell then s3.releaseAll (f.holder o) [b] else s3
    else if fin then s2.deliver i o f else s2

/-! ### Matching (R261) -/

/-- The first member of `xs` at or after `p` in round robin over `n` places. -/
def rrFirst (n p : Nat) (xs : List Nat) : Option Nat := ((List.range n).map fun k => (p + k) % n).find? fun k => xs.contains k

/-- The members of `xs` in round robin from `p`. -/
def rrOrder (n p : Nat) (xs : List Nat) : List Nat := ((List.range n).map fun k => (p + k) % n).filter fun k => xs.contains k

/-- Grants of an iteration: each output that is still unmatched grants one requesting input that is. -/
def State.grants (s : State) (mi mo : List Nat) : List (Nat × Nat) :=
  (List.range 66).filterMap fun o =>
    if mo.contains o || (decide (o < 64) && !s.pageEnabled Blk.sch o) then none
    else
      let req := (s.swc.ins.filter fun i => i.2.staged && i.2.left.contains o && !(mi.contains i.1)).map (·.1)
      (rrFirst 46 (s.swout o).grant req).map fun i => (i, o)

/-- Accepts of an iteration: each input takes up to four grants in round robin. -/
def State.accepted (s : State) (gs : List (Nat × Nat)) : List (Nat × Nat) :=
  ((gs.map (·.1)).eraseDups).flatMap fun i =>
    ((rrOrder 66 (s.swin i).accept ((gs.filter fun g => g.1 == i).map (·.2))).take 4).map fun o => (i, o)

/-- Pointers move one place past the partner, for first-iteration matches. -/
def State.movePointers (s : State) (m : Nat × Nat) : State :=
  let s1 := s.setSwout m.2 { s.swout m.2 with grant := (m.1 + 1) % 46 }
  s1.setSwin m.1 { s1.swin m.1 with accept := (m.2 + 1) % 66 }

/-- One phase: up to three iterations. -/
def State.iterations (s : State) (first : Bool) (mi mo : List Nat) : Nat → State
  | 0 => s
  | n + 1 =>
    let ms := s.accepted (s.grants mi mo)
    let s1 := ms.foldl (fun t m => t.matched m.1 m.2) s
    let s2 := if first then ms.foldl State.movePointers s1 else s1
    State.iterations s2 false (mi ++ ms.map (·.1)) (mo ++ ms.map (·.2)) n

/-- A cell that has reached all its outputs leaves staging. -/
def State.retire (s : State) (i : Nat) : State :=
  let x := s.swin i
  if !x.staged ∨ x.left ≠ [] then s
  else match x.queue with
    | [] => s
    | f :: rest =>
      if x.cell + 1 = f.cells then
        s.setSwin i { x with queue := rest, entered := false, ports := [], dropped := [], staged := false, cell := 0 }
      else s.setSwin i { x with staged := false, cell := x.cell + 1 }

/-- One matching phase. -/
def State.phase (s : State) : State :=
  let ins := s.swc.ins.map (·.1)
  let s1 := ins.foldl State.stage s
  let s2 := s1.iterations true [] [] 3
  ins.foldl State.retire s2

/-- A cell time has two matching phases. -/
def State.cellTime (s : State) : State := s.phase.phase.check .swcSram

/-- CELL_MATCH. -/
def execCellMatch (s : State) : Out := s.run State.cellTime

end Sys2Proof.Machine
end

