-- ==== Sys2Proof/Machine/Regulator.lean ====
section
/-! DEFINITION. Regulators (15_escapements_and_regulators.md, R330-R336): watchdog and reload, mailboxes, the queues to and from the
switch, bundle writes. -/

namespace Sys2Proof.Machine

/-- The regulator runs (RGL_STATUS.STATE 1). -/
def State.rglRuns (s : State) (g : Nat) : Bool := decide (g < s.variant.regulators) && s.fld Reg.RGL_STATUS_STATE g == 1

/-- A regulator event (Table 15.13). -/
def State.rglEvent (s : State) (code source : Nat) (args : List Nat) : State :=
  s.event Reg.RGL_EVQ_RING Reg.RGL_EVQ_EN code Blk.rgl source args

/-! ### Mailboxes (R334) -/

/-- A message of sender `from_`. -/
def mailMsg (from_ : Nat) (b : Bytes) : Bytes := leBytes from_ 2 ++ ((b ++ List.replicate 32 0).drop 2).take 30

/-- A post to a regulator's mailbox: whether it was taken. A message at an empty mailbox raises private ID 2. -/
def State.post (s : State) (g : Nat) (m : Bytes) : Bool × State :=
  let x := s.rgl_ g
  if 16 ≤ x.mbx.length ∨ !s.pageEnabled Blk.rgl g then (false, s)
  else
    let s1 := s.setRegl g { x with mbx := x.mbx ++ [m] }
    (true, (if x.mbx = [] then s1.privEdge g 2 else s1).messageFor g 0)

/-- A post by regulator g: to a regulator, or to the host as FW_MESSAGE. -/
def State.postFrom (s : State) (g target : Nat) (m : Bytes) : Bool × State :=
  let b := mailMsg g m
  if target = 16 then (true, s.rglEvent 0x1201 g [field b 0 4, field b 4 4, field b 8 4])
  else s.post target b

/-- RGL_MBX_POST.GO of a regulator's page. -/
def State.hostPost (s : State) (g : Nat) : State :=
  if s.variant.regulators ≤ g then s
  else
    let b := (List.range 8).flatMap fun w => leBytes (s.fld Reg.RGL_MBX_DATA (8 * g + w)) 4
    let (ok, s1) := s.post g (mailMsg 16 b)
    s1.setFld Reg.RGL_MBX_POST_FULL g (b2n !ok)

/-- HOST_MBX_POST. -/
def execHostMbxPost (g : Nat) (s : State) : Out :=
  s.run fun s => s.regCmd Blk.rgl g 0 fun s => s.hostPost g

/-- A write of L_MBX_POST: posts L_MBX_OUT. A target beyond the variant is not posted and latches RGL.BAD_ID (R5). -/
def State.lPost (s : State) (g v : Nat) : State :=
  let target := bits v 4 0
  if !(s.rglRuns g) then s
  else if target ≠ 16 ∧ s.variant.regulators ≤ target then s.badId Blk.rgl g
  else
    let (ok, s1) := s.postFrom g target (s.rgl_ g).mbxOut
    s1.setRegl g { s1.rgl_ g with postDone := true, postFull := !ok }

/-- L_MBX_POST. -/
def execLMbxPost (g : Nat) (v : Word) (s : State) : Out := s.run fun s => s.lPost g v.toNat

/-- A write of L_MBX_POP discards the head message. -/
def State.mbxPop (s : State) (g : Nat) : State :=
  if s.rglRuns g then s.setRegl g { s.rgl_ g with mbx := (s.rgl_ g).mbx.drop 1 } else s

/-- L_MBX_POP. -/
def execLMbxPop (g : Nat) (s : State) : Out := s.run fun s => s.mbxPop g

/-! ### Queues to and from the switch (R335, R336) -/

/-- A write of L_RXQ_CI. -/
def State.rxCi (s : State) (g v : Nat) : State :=
  let q := s.rglQ g
  let ci := bits v 6 0
  if !(s.rglRuns g) then s
  else if 64 < (q.rxPi + 128 - ci) % 128 then s.latch .rglQueue g
  else s.setRglQ g { q with rxCi := ci }

/-- L_RXQ_CI_WRITE. -/
def execLRxqCiWrite (g : Nat) (v : Word) (s : State) : Out := s.run fun s => s.rxCi g v.toNat

/-- A write of L_TXQ_PI. -/
def State.txPi (s : State) (g v : Nat) : State :=
  let q := s.rglQ g
  let pi := bits v 4 0
  if !(s.rglRuns g) then s
  else if 16 < (pi + 32 - q.txCi) % 32 then s.latch .rglQueue g
  else s.setRglQ g { q with txPi := pi }

/-- L_TXQ_PI_WRITE. -/
def execLTxqPiWrite (g : Nat) (v : Word) (s : State) : Out := s.run fun s => s.txPi g v.toNat

/-- Buffers that a transmit entry lists (Table 15.8a). -/
def Tx.bufs (e : Bytes) : List Nat := (List.range (field e 2 1)).map fun i => bits (field e (16 + 4 * i) 4) 24 0

/-- Every buffer of the entry is ALLOCATED and named by owner 8 + g; NBUF is 1 to 17. -/
def State.txOwned (s : State) (g : Nat) (e : Bytes) : Bool :=
  decide (1 ≤ field e 2 1) && decide (field e 2 1 ≤ 17) &&
  (Tx.bufs e).all fun b => s.bufOk b && (s.buf b).st == 1 && (s.buf b).owner == 8 + g

/-- The frame of a transmit entry; its header (Table 14.5) is read from its buffers. -/
def State.txFrame (s : State) (g : Nat) (e : Bytes) : LinkFrame :=
  let len := bits (field e 0 2) 12 0
  let data := ((Tx.bufs e).flatMap fun b => s.bufRead b 0 256).take len
  let direct := bit (field e 3 1) 1
  { len := len, bufs := Tx.bufs e, tile := bits (field e 10 2) 13 0
    direct := if direct then some (field e 8 1) else none, dreg := field e 9 1, bank := bit (field e 3 1) 2
    frame := field e 4 4, frag := field data 12 3, payload := bits (field data 10 2) 12 0, isOpen := direct
    sub := if bit (field data 4 1) 6 then 256 else field data 5 1, cls := bits (field data 4 1) 5 4
    input := 32 + g / 2, data := data }

/-- Entries that wait in a transmit queue. -/
def RglQueues.txCount (q : RglQueues) : Nat := (q.txPi + 32 - q.txCi) % 32

/-- The head transmit entry of regulator g goes into the switch, or is skipped (R336). The two regulators of an input take
turns. -/
def State.txSend (s : State) (g : Nat) : State :=
  let q := s.rglQ g
  let i := 32 + g / 2
  let other := if g % 2 = 0 then g + 1 else g - 1
  let turn := Tab.get (2 * (g / 2)) s.rgl.txTurn i
  if q.txCount = 0 ∨ s.variant.regulators ≤ g ∨ (turn ≠ g ∧ (s.rglQ other).txCount ≠ 0) then s
  else
    let e := Tab.get (List.replicate 96 0) q.txq (q.txCi % 16)
    let s1 := s.setRglQ g { q with txCi := (q.txCi + 1) % 32 }
    let s2 := s1.privEdge g 4
    if !(s.txOwned g e) then s2.count Reg.RGL_TX_REJECT g
    else
      let s3 : State := { s2 with rgl := { s2.rgl with txTurn := Tab.set s2.rgl.txTurn i other } }
      let x := s3.swin i
      s3.setSwin i { x with wait := x.wait ++ [s.txFrame g e] }

/-- TX_ENTRY_SEND. -/
def execTxEntrySend (g : Nat) (s : State) : Out := s.run fun s => s.txSend g

/-! ### Watchdog and reload (R333) -/

/-- A write of L_WDOG. -/
def State.wdogRestart (s : State) (g : Nat) : State :=
  if s.rglRuns g then s.setRegl g { s.rgl_ g with wdogAt := s.now, wdogHalf := false } else s

/-- WATCHDOG_RESTART. -/
def execWatchdogRestart (g : Nat) (s : State) : Out := s.run fun s => s.wdogRestart g

/-- Half of RGL_WDOG.MS passes without a restart: private ID 5 (Table 17.1). -/
def State.wdogHalf (s : State) (g : Nat) : State :=
  let x := s.rgl_ g
  if !(s.rglRuns g) ∨ x.wdogHalf ∨ s.now < x.wdogAt + s.fld Reg.RGL_WDOG_MS g * Clk.ms / 2 then s
  else (s.setRegl g { x with wdogHalf := true }).privEdge g 5

/-- WATCHDOG_HALF. -/
def execWatchdogHalf (g : Nat) (s : State) : Out := s.run fun s => s.wdogHalf g

/-- Loads under way on a regulator that stops end with FAULTED, reason 6 INIT (log 47). -/
def State.dropLoads (s : State) (g : Nat) : State :=
  let gone := s.rgl.loading.filter fun l => l.g == g
  let s1 : State := { s with rgl := { s.rgl with loading := s.rgl.loading.filter fun l => l.g != g } }
  gone.foldl (fun t l => match l.job with
    | some j => t.finish j St.faulted 6 l.cpl.version
    | none => t) s1

/-- RGL_WDOG.MS passes without a restart: the regulator halts. -/
def State.wdogExpire (s : State) (g : Nat) : State :=
  if !(s.rglRuns g) ∨ s.now < (s.rgl_ g).wdogAt + s.fld Reg.RGL_WDOG_MS g * Clk.ms then s
  else ((s.setRglState g 2).dropLoads g).latch .rglWdog g

/-- WATCHDOG_EXPIRE. -/
def execWatchdogExpire (g : Nat) (s : State) : Out := s.run fun s => s.wdogExpire g

/-- A byte string laid out as memory from an address. -/
def memOf (a : Nat) (bs : Bytes) : Mem := Mem.writeBytes [] a bs

/-- The handlers of a restarted regulator are gone: thread level, and their sources are no longer ACTIVE (log 47). -/
def State.clearHandlers (s : State) (g : Nat) : State :=
  let ids := (s.tgt g).shadow.map (·.id)
  let s1 := s.setTgt g { s.tgt g with shadow := [], taking := none, bank := 0, pc := 0 }
  ids.foldl (fun t id => t.endSource g id) s1

/-- The runtime of the bundle in use is loaded and the regulator starts in machine mode, its watchdog with it (W4, R333). -/
def State.startRuntime (s : State) (g : Nat) : State :=
  let x := s.rgl_ g
  let s1 := (s.clearHandlers g).setRegl g { x with imem := memOf 0 (s.rgl.runtime.take 16384)
                                                   dmem := memOf 0 (s.rgl.runtime.drop 16384), wdogAt := s.now
                                                   wdogHalf := false }
  s1.setRglState g 1

/-- A complication loaded and initialised again after a reload. -/
def Cpl.again (c : Cpl) : Cpl :=
  { c with entry := 0, frameWaits := false, msgWaits := 0, overran := false, overruns := 0, stopped := false, timers := []
           a0 := 0, a1 := 0, got := [] }

/-- A write of RGL_CTL.RELOAD: the regulator restarts, with the complications that it held. Without a runtime (recovery) or
with its power domain not ON there is nothing to restart. -/
def State.reload (s : State) (g : Nat) : State :=
  if s.variant.regulators ≤ g ∨ s.flag Reg.RGL_BOOT_RECOVERY ∨ s.rgl.runtime = [] ∨
      (Tab.get {} s.pwr.domains (18 + g)).state ≠ 2 then s
  else
    let s1 := s.dropLoads g
    let x := s1.rgl_ g
    let s2 := s1.setRegl g { x with cpls := x.cpls.map fun c => (c.1, c.2.again) }
    let s3 := if s2.fld Reg.RGL_STATUS_STATE g = 1 then s2.setRglState g 0 else s2
    s3.startRuntime g

/-- RGL_RELOAD. -/
def execRglReload (g : Nat) (s : State) : Out :=
  s.run fun s => s.regCmd Blk.rgl g 0 fun s => s.reload g

/-! ### Bundle writes (R330, Table 15.5) -/

/-- The header is no signed image, or gives a length beyond a slot (R325, R330). -/
def badHead (h : Bytes) : Bool := field h 0 4 != 0x4D494C4F || decide (bundleMax < Sg.length h)

/-- The bundle that RGL_BUNDLE_SRC names, and what its check says. -/
def State.bundleRead (s : State) : Bytes × Nat × State :=
  let a := addr64 (s.fld Reg.RGL_BUNDLE_SRC_LO / 64 * 64) (s.fld Reg.RGL_BUNDLE_SRC_HI)
  match s.engineRead a 64 15 with
  | (none, s1) => ([], 1, s1)
  | (some h, s1) =>
    if badHead h then ([], 1, s1)
    else match s1.engineRead a (Sg.length h) 15 with
      | (none, s2) => ([], 1, s2)
      | (some im, s2) => (im, bundleVerify im s2.fuseSec, s2)

/-- A write of RGL_BUNDLE_CTL: GO checks the bundle; the slot in use is refused unless the other slot holds one that passes.
GO while BUSY = 1 is ignored. -/
def State.bundleCtl (s : State) (v : Nat) : State :=
  let slot := bits v 1 1
  let s1 := s.setFld Reg.RGL_BUNDLE_CTL_SLOT 0 slot
  if !(bit v 0) ∨ s1.flag Reg.RGL_BUNDLE_CTL_BUSY ∨ !s.pageEnabled Blk.rgl 0 then s1
  else
    let (im, r, s2) := s1.bundleRead
    let inUse := s2.fld Reg.RGL_BOOT_SLOT == slot && !(s2.slotPasses (1 - slot))
    let res := if r ≠ 0 then r else if inUse then 4 else 0
    State.setFld { s2 with rgl := { s2.rgl with bundle := some ⟨slot, im, res⟩ } } Reg.RGL_BUNDLE_CTL_BUSY 0 1

/-- BUNDLE_WRITE_GO. -/
def execBundleWriteGo (v : Word) (s : State) : Out :=
  s.run fun s => s.hostCmd Blk.rgl 0 (rsvBits v 0xF07) fun s => s.bundleCtl v.toNat

/-- The write and its read-back end. A failed one leaves the slot without a valid header. -/
def State.bundleDone (s : State) (readBackOk : Bool) : State :=
  match s.rgl.bundle with
  | none => s
  | some w =>
    let s1 : State := { s with rgl := { s.rgl with bundle := none } }
    let off := bundleSlot w.slot
    let (res, s2) :=
      if w.result ≠ 0 then (w.result, s1)
      else match s1.kstWrite off w.image with
        | none => (5, s1.wearOut off)
        | some t => if readBackOk then (0, t) else (5, (t.kstWrite off (List.replicate 64 0)).getD t)
    ((s2.setFld Reg.RGL_BUNDLE_CTL_RESULT 0 res).setFld Reg.RGL_BUNDLE_CTL_BUSY 0 0).intEdge 156

/-- BUNDLE_WRITE_DONE. -/
def execBundleWriteDone (readBackOk : Bool) (s : State) : Out := s.run fun s => s.bundleDone readBackOk

end Sys2Proof.Machine
end

