-- ==== Sys2Proof/Machine/Complication.lean ====
section
/-! DEFINITION. Complications (15_escapements_and_regulators.md, R337-R339): loading, replacement and unloading at a frame mark, entries,
runtime services. -/

namespace Sys2Proof.Machine

/-! ### The manifest (Table 15.9) -/

def Mani.codeLen (im : Bytes) : Nat := field im 64 4
def Mani.dataLen (im : Bytes) : Nat := field im 68 4
def Mani.dmem (im : Bytes) : Nat := field im 72 4
def Mani.sram (im : Bytes) : Nat := field im 76 4
def Mani.frameUs (im : Bytes) : Nat := field im 100 2

/-- The manifest of a complication image. -/
def Mani.ok (im : Bytes) : Bool :=
  decide (64 + Mani.codeLen im + Mani.dataLen im ≤ Sg.payloadLen im) && decide (Mani.codeLen im ≤ 49152) &&
  decide (Mani.dmem im ≤ 57344) && decide (Mani.dataLen im ≤ Mani.dmem im) && decide (Mani.sram im ≤ 262144) &&
  ([80, 84, 88, 92].all fun o => decide (field im o 4 < Mani.codeLen im)) && zeros im 102 26

/-- The failure reason of an image (Table 15.11): 0 OK, 1 FORMAT, 2 SIGNATURE, 3 ROLLBACK, 4 ABI, 5 STEPPING, in this order
(log 45). -/
def cplVerify (im : Bytes) (secMin : Nat) : Nat :=
  if !(Sg.formatOk im 3) ∨ Sg.payloadLen im < 64 ∨ !(Mani.ok im) then 1
  else if !Config.signatureOk im then 2
  else if Sg.secVer im < secMin then 3
  else if Sg.lo im % 256 ≠ 1 ∧ Sg.lo im % 256 ≠ 2 then 4
  else if !(Sg.stepping im) then 5
  else 0

/-- A complication made from an image. -/
def Cpl.ofImage (im : Bytes) (order : Nat) : Cpl :=
  { kind := Sg.kind im, version := Sg.version im, abi := Sg.lo im % 256, image := im, order := order }

/-! ### Placement (R338) -/

/-- Complications of a regulator, those being loaded included. -/
def State.cplsOn (s : State) (g : Nat) : List Cpl :=
  (s.rgl_ g).cpls.map (·.2) ++ (s.rgl.loading.filter fun l => l.g == g).map (·.cpl)

/-- Free IMEM beside the runtime's 16 KiB, and free DMEM beside its 8 KiB. -/
def State.freeImem (s : State) (g : Nat) : Nat := 49152 - ((s.cplsOn g).map fun c => Mani.codeLen c.image).sum
def State.freeDmem (s : State) (g : Nat) : Nat := 57344 - ((s.cplsOn g).map fun c => Mani.dmem c.image).sum

/-- Shared SRAM that copies and SRAM ranges leave of 1 MiB. -/
def State.freeSram (s : State) : Nat :=
  1048576 - ((List.range 16).map fun g => ((s.cplsOn g).map fun c => c.image.length + Mani.sram c.image).sum).sum

/-- Where a complication of a kind is loaded: regulator and slot. -/
def State.findCpl (s : State) (kind : Nat) : Option (Nat × Nat) :=
  ((List.range 16).flatMap fun g => (s.rgl_ g).cpls.filterMap fun c => if c.2.kind = kind then some (g, c.1) else none).head?

/-- A slot of regulator g for a complication of a kind: a free one, or that of the complication it replaces. -/
def State.slotFor (s : State) (g kind : Nat) : Option Nat :=
  let used := (s.rgl_ g).cpls.map (·.1) ++ (s.rgl.loading.filter fun l => l.g == g).map (·.slot)
  match (List.range 4).find? fun k => !(used.contains k) with
  | some k => some k
  | none => match s.findCpl kind with
    | some (h, k) => if h = g ∧ !((s.rgl.loading.filter fun l => l.g == g).any fun l => l.slot == k) then some k else none
    | none => none

/-- Regulator g has room for an image. -/
def State.cplFits (s : State) (g : Nat) (im : Bytes) : Bool :=
  s.rglRuns g && (s.slotFor g (Sg.kind im)).isSome && decide (Mani.codeLen im ≤ s.freeImem g) &&
  decide (Mani.dmem im ≤ s.freeDmem g) && decide (im.length + Mani.sram im ≤ s.freeSram)

/-- The running regulator with the most free IMEM, the lowest number first among equals. -/
def State.roomiest (s : State) : Option Nat :=
  ((List.range 16).filter s.rglRuns).foldl (fun (b : Option Nat) g => match b with
    | none => some g
    | some h => if s.freeImem h < s.freeImem g then some g else some h) none

/-- The regulator that takes an image: the one asked for, or under 0xFF the roomiest. -/
def State.placeFor (s : State) (want : Nat) (im : Bytes) : Option Nat :=
  let g := if want = 0xFF then s.roomiest else some want
  g.bind fun g => if s.cplFits g im then some g else none

/-! ### COMPLICATION_LOAD -/

/-- A command ends with its reason (R338). -/
def cplStatus (reason : Nat) : Nat := if reason ≤ 3 then St.badArg else if reason ≤ 5 then St.version else St.faulted

/-- UNLOAD: STATE where no complication of the kind is loaded; else it is unloaded at the next mark. -/
def State.cplUnload (s : State) (j kind : Nat) : State :=
  if (s.findCpl kind).isNone then s.finish j St.state
  else State.start { s with rgl := { s.rgl with unloads := s.rgl.unloads ++ [(j, kind)] } } j

/-- The image is verified and placed, and INIT runs. `init` is INIT's outcome: some true for 0, some false for another value, none
where it has not returned. -/
def State.cplLoad (s : State) (j : Nat) (given : Bytes) (read : ReadEnd) (init : Option Bool) : State :=
  let e := (s.job j).args
  if bit (field e 21 1) 0 then s.cplUnload j (field e 22 1)
  else
    let src := field e 8 8
    let n := field e 16 4
    let (dev, a) := addrSpace src
    if !(s.rangeOk dev a n) then s.finish j St.badArg 1
    else match s.fetchImage src n given read 14 with
      | (none, s) => s.readFailed j src read
      | (some im, s) =>
        let r := if im.length = Sg.length im then cplVerify im s.fuseSec else 1
        if r ≠ 0 then s.finish j (cplStatus r) r (Sg.version im)
        else match s.placeFor (field e 20 1) im with
          | none => s.finish j St.noResource 0 (Sg.version im)
          | some g =>
            if init = some false then s.finish j St.faulted 6 (Sg.version im)
            else
              let slot := (s.slotFor g (Sg.kind im)).getD 0
              let c := Cpl.ofImage im s.rgl.order
              let l : CplLoad := ⟨some j, g, slot, init == some true, s.now, { c with entry := 1, entryAt := s.now, a0 := 2 }⟩
              State.start { s with rgl := { s.rgl with loading := s.rgl.loading ++ [l], order := s.rgl.order + 1 } } j

/-- COMPLICATION_LOAD. -/
def execComplicationLoad (job : Nat) (image : Bytes) (read : ReadEnd) (init : Option Bool) (s : State) : Out :=
  s.run fun s => if s.canStart job 0x50 then s.cplLoad job image read init else s

/-- INIT has not returned within 10 ms (R337, R338). -/
def State.initTimeout (s : State) (j : Nat) : State :=
  match s.rgl.loading.find? fun l => l.job == some j && !l.initDone with
  | none => s
  | some l =>
    if s.now < l.startedAt + 10 * Clk.ms then s
    else
      State.finish { s with rgl := { s.rgl with loading := s.rgl.loading.filter fun m => m.job != some j } } j St.timeout 6
        l.cpl.version

/-- COMPLICATION_INIT_TIMEOUT. -/
def execComplicationInitTimeout (job : Nat) (s : State) : Out := s.run fun s => s.initTimeout job

/-! ### At a frame mark (R337, R338) -/

/-- COMPLICATION_STATE: 1 running, 2 unloaded, 3 stopped by fault. -/
def State.cplEvent (s : State) (g state : Nat) (c : Cpl) : State := s.rglEvent 0x1202 g [c.kind, state, c.version]

/-- The complication of a kind gets STOP and is unloaded: its version. -/
def State.cplRemove (s : State) (kind : Nat) : Nat × State :=
  match s.findCpl kind with
  | none => (0, s)
  | some (g, k) =>
    let x := s.rgl_ g
    let c := Tab.get {} x.cpls k
    (c.version, (s.setRegl g { x with cpls := Tab.del x.cpls k }).cplEvent g 2 c)

/-- A complication whose INIT has returned takes its place. -/
def State.cplInstall (s : State) (l : CplLoad) : State :=
  let (old, s1) := s.cplRemove l.cpl.kind
  let x := s1.rgl_ l.g
  let c : Cpl := { l.cpl with entry := 0, entryAt := 0 }
  let s2 := (s1.setRegl l.g { x with cpls := Tab.set x.cpls l.slot c }).cplEvent l.g 1 c
  match l.job with
  | some j => s2.finish j St.ok (l.g + 16 * l.slot) c.version old s2.frameCount
  | none => s2

/-- An unload that waited for the mark. -/
def State.cplUnloadNow (s : State) (u : Nat × Nat) : State :=
  let at_ := (s.findCpl u.2).getD (0, 0)
  let (v, s1) := s.cplRemove u.2
  s1.finish u.1 St.ok (at_.1 + 16 * at_.2) v

/-- A complication's FRAME entry at a mark: at once, or after the entry that it is in. -/
def Cpl.frameEntry (c : Cpl) (k now : Nat) : Cpl :=
  if c.stopped then c
  else if c.entry = 0 then { c with entry := 2, entryAt := now, overran := false, a0 := k } else { c with frameWaits := true }

/-- Every complication of a running regulator is entered at FRAME. -/
def State.cplFrames (s : State) : State :=
  ((List.range 16).filter s.rglRuns).foldl (fun t g =>
    let x := t.rgl_ g
    if x.cpls = [] then t
    else t.setRegl g { x with cpls := x.cpls.map fun c => (c.1, c.2.frameEntry t.frameCount t.now) }) s

/-- The frame mark: loads and unloads take effect, then FRAME entries. -/
def State.cplMark (s : State) : State :=
  let done := s.rgl.loading.filter (·.initDone)
  let us := s.rgl.unloads
  let s1 : State := { s with rgl := { s.rgl with loading := s.rgl.loading.filter fun l => !l.initDone, unloads := [] } }
  (us.foldl State.cplUnloadNow (done.foldl State.cplInstall s1)).cplFrames

/-! ### Entries and services (R337, Table 15.10) -/

def State.cpl (s : State) (g k : Nat) : Cpl := Tab.get {} (s.rgl_ g).cpls k

def State.setCpl (s : State) (g k : Nat) (c : Cpl) : State :=
  let x := s.rgl_ g
  s.setRegl g { x with cpls := Tab.set x.cpls k c }

/-- A complication runs in an entry: it can call a service. -/
def State.cplRuns (s : State) (g k : Nat) : Bool :=
  s.rglRuns g && Tab.has (s.rgl_ g).cpls k && !(s.cpl g k).stopped && (s.cpl g k).entry != 0

/-- A service's result in a0 and a1. -/
def State.cplRet (s : State) (g k a0 a1 : Nat) : State := s.setCpl g k { s.cpl g k with a0 := a0, a1 := a1 }

/-- A service of ABI level 2 called by a level-1 complication returns 0xFFFF_FFFF. -/
def State.level2 (s : State) (g k : Nat) (f : State → State) : State :=
  if !(s.cplRuns g k) then s else if (s.cpl g k).abi < 2 then s.cplRet g k 0xFFFFFFFF 0 else f s

/-- The complication stops; its policy keeps the register values it last wrote. -/
def State.cplStop (s : State) (g k : Nat) : State :=
  let c := s.cpl g k
  (s.setCpl g k { c with stopped := true, entry := 0, frameWaits := false, msgWaits := 0, timers := [] }).cplEvent g 3 c

/-- FRAME_OVERRUN_STOP: an access outside its ranges stops a complication at once; a FRAME call past FRAME_US counts once, and
the third in a row stops it. -/
def State.overrun (s : State) (g k : Nat) (access : Bool) : State :=
  let c := s.cpl g k
  if !(s.cplRuns g k) then s
  else if access then s.cplStop g k
  else if c.entry ≠ 2 ∨ c.overran ∨ s.now ≤ c.entryAt + Mani.frameUs c.image * Clk.us then s
  else if 3 ≤ c.overruns + 1 then s.cplStop g k
  else s.setCpl g k { c with overran := true, overruns := c.overruns + 1 }

/-- FRAME_OVERRUN_STOP. -/
def execFrameOverrunStop (g slot : Nat) (access : Bool) (s : State) : Out := s.run fun s => s.overrun g slot access

/-- YIELD: the entry ends, and the next that waits begins. -/
def State.doYield (s : State) (g k : Nat) : State :=
  let c := s.cpl g k
  if !(s.cplRuns g k) then s
  else
    let d : Cpl := { c with overruns := if c.entry = 2 ∧ !c.overran then 0 else c.overruns }
    s.setCpl g k
      (if d.frameWaits then { d with entry := 2, entryAt := s.now, overran := false, frameWaits := false, a0 := s.frameCount }
       else if 0 < d.msgWaits then { d with entry := 3, entryAt := s.now, msgWaits := d.msgWaits - 1 }
       else { d with entry := 0 })

/-- YIELD. -/
def execYield (g slot : Nat) (s : State) : Out := s.run fun s => if s.cplRuns g slot then (s.doYield g slot).check .rglSram g else s

/-- MBX_SEND: 0 posted, 1 full. What a target that names nothing returns is not stated: a free value (log 8). -/
def State.svcSend (s : State) (g k target : Nat) (msg : Bytes) : State :=
  if !(s.cplRuns g k) then s
  else if target ≠ 16 ∧ s.variant.regulators ≤ target then let (v, s1) := s.freeWord; s1.cplRet g k v 0
  else let (ok, s1) := s.postFrom g target msg; s1.cplRet g k (b2n !ok) 0

/-- MBX_SEND. -/
def execMbxSend (g slot target : Nat) (msg : Bytes) (s : State) : Out := s.run fun s => s.svcSend g slot target msg

/-- MBX_RECV: 0 taken, 1 empty. -/
def State.svcRecv (s : State) (g k : Nat) : State :=
  if !(s.cplRuns g k) then s
  else match (s.rgl_ g).mbx with
    | [] => s.cplRet g k 1 0
    | m :: _ =>
      let s1 := (s.mbxPop g).cplRet g k 0 0
      s1.setCpl g k { s1.cpl g k with got := m }

/-- MBX_RECV. -/
def execMbxRecv (g slot : Nat) (s : State) : Out := s.run fun s => s.svcRecv g slot

/-- POOL: the status of Table 12.3 in a0, the buffer in a1. -/
def State.svcPool (s : State) (g k op b n owner : Nat) : State :=
  if !(s.cplRuns g k) then s
  else let (st, buf, s1) := s.poolCmd (8 + g) op b n owner; s1.cplRet g k st buf

/-- POOL. -/
def execPool (g slot op buf n owner : Nat) (s : State) : Out := s.run fun s => s.svcPool g slot op buf n owner

/-- EVENT: a record to the ring of RGL_EVQ. -/
def State.svcEvent (s : State) (g k code : Nat) (args : List Word) : State :=
  if !(s.cplRuns g k) then s
  else (s.rglEvent (code % 65536) g (args.map fun (a : Word) => a.toNat)).cplRet g k 0 0

/-- EVENT. -/
def execEvent (g slot code : Nat) (args : List Word) (s : State) : Out := s.run fun s => s.svcEvent g slot code args

/-- TIME: SYS_FRAME_COUNT and UCLK cycles since the mark. -/
def State.svcTime (s : State) (g k : Nat) : State :=
  if !(s.cplRuns g k) then s
  else s.cplRet g k s.frameCount ((s.now - s.clb.lastMark) / Clk.uclk % 2 ^ 32)

/-- TIME. -/
def execTime (g slot : Nat) (s : State) : Out := s.run fun s => s.svcTime g slot

/-- RXQ_TAKE: 0 taken, 1 empty. -/
def State.svcTake (s : State) (g k : Nat) : State :=
  let q := s.rglQ g
  if !(s.cplRuns g k) then s
  else if q.rxPi = q.rxCi then s.cplRet g k 1 0
  else
    let s1 := (s.setRglQ g { q with rxCi := (q.rxCi + 1) % 128 }).cplRet g k 0 0
    s1.setCpl g k { s1.cpl g k with got := Tab.get [] q.rxq (q.rxCi % 64) }

/-- RXQ_TAKE. -/
def execRxqTake (g slot : Nat) (s : State) : Out := s.run fun s => s.svcTake g slot

/-- TXQ_POST: 0 posted, 1 full. -/
def State.svcTx (s : State) (g k : Nat) (entry : Bytes) : State :=
  let q := s.rglQ g
  if !(s.cplRuns g k) then s
  else if q.txCount = 16 then s.cplRet g k 1 0
  else
    let e := (entry ++ List.replicate 96 0).take 96
    (s.setRglQ g { q with txq := Tab.set q.txq (q.txPi % 16) e, txPi := (q.txPi + 1) % 32 }).cplRet g k 0 0

/-- TXQ_POST. -/
def execTxqPost (g slot : Nat) (entry : Bytes) (s : State) : Out := s.run fun s => s.svcTx g slot entry

/-- PUBLISH: an SRAM address under a kind. Its result is not stated: a free value (log 8). -/
def State.svcPublish (s : State) (g k kind addr : Nat) : State :=
  s.level2 g k fun s =>
    let (v, s1) := s.freeWord
    State.cplRet { s1 with rgl := { s1.rgl with published := Tab.set s1.rgl.published kind (addr % 2 ^ 32) } } g k v 0

/-- PUBLISH. -/
def execPublish (g slot kind addr : Nat) (s : State) : Out := s.run fun s => s.svcPublish g slot kind addr

/-- LOOKUP: the address published under a kind; 0 if none. -/
def State.svcLookup (s : State) (g k kind : Nat) : State :=
  s.level2 g k fun s => s.cplRet g k (Tab.get 0 s.rgl.published kind) 0

/-- LOOKUP. -/
def execLookup (g slot kind : Nat) (s : State) : Out := s.run fun s => s.svcLookup g slot kind

/-- TIMER: a MESSAGE entry follows after `us`. -/
def State.svcTimer (s : State) (g k us : Nat) : State :=
  s.level2 g k fun s =>
    let c := s.cpl g k
    (s.setCpl g k { c with timers := c.timers ++ [s.now + us * Clk.us] }).cplRet g k 0 0

/-- TIMER. -/
def execTimer (g slot us : Nat) (s : State) : Out := s.run fun s => s.svcTimer g slot us

/-- A service timer expires: a MESSAGE entry, after the one the complication is in. -/
def State.timerDone (s : State) (g k : Nat) : State :=
  let c := s.cpl g k
  match c.timers.find? fun t => decide (t ≤ s.now) with
  | none => s
  | some t =>
    if !(s.rglRuns g) ∨ c.stopped then s
    else
      s.setCpl g k (Cpl.messageEntry { c with timers := c.timers.erase t } s.now)

/-- TIMER_EXPIRE. -/
def execTimerExpire (g slot : Nat) (s : State) : Out := s.run fun s => s.timerDone g slot

end Sys2Proof.Machine
end

