-- ==== Sys2Proof/Machine/Dma.lean ====
section
/-! DEFINITION. The DMA engines (16_dma.md): descriptors, the funnel, status and errors, chains. A descriptor runs from its fetch to
the command that ends it; the responses that arrive in between (DMA_ACCESS_RESPONSE) record progress and failing accesses. -/

namespace Sys2Proof.Machine

def State.dch (s : State) (c : Nat) : DmaCh := Tab.get {} s.dma.ch c

def State.setDch (s : State) (c : Nat) (x : DmaCh) : State :=
  { s with dma := { s.dma with ch := Tab.set s.dma.ch c x } }

/-- Statuses of Table 16.2. -/
abbrev Dst.ok : Nat := 0
abbrev Dst.mismatch : Nat := 1
abbrev Dst.errSrc : Nat := 2
abbrev Dst.errDst : Nat := 3
abbrev Dst.errTail : Nat := 4
abbrev Dst.domainOff : Nat := 5
abbrev Dst.badDesc : Nat := 6
abbrev Dst.aborted : Nat := 7
abbrev Dst.xlat : Nat := 8

/-! ### Descriptors (Table 16.1, R341) -/

def Desc.op (d : Bytes) : Nat := field d 0 1
def Desc.contOnErr (d : Bytes) : Bool := bit (field d 1 1) 0
def Desc.stopOnMismatch (d : Bytes) : Bool := bit (field d 1 1) 1
def Desc.wb (d : Bytes) : Bool := bit (field d 1 1) 2
def Desc.count (d : Bytes) : Nat := field d 4 4
def Desc.src (d : Bytes) : Nat := field d 8 8
def Desc.dst (d : Bytes) : Nat := field d 16 8
def Desc.next (d : Bytes) : Nat := field d 32 8
/-- Byte i of the destination of a FILL (R342). -/
def Desc.fillByte (d : Bytes) (i : Nat) : Byte := d.getD (24 + (Desc.dst d + i) % 8) 0

/-- A range that R341 refuses: it crosses the end of its space, lies beyond the usable capacity, or for a tenant other than 0
outside the host-visible region. -/
def State.dmaRangeBad (s : State) (restricted : Bool) (addr n : Nat) : Bool :=
  let (dev, a) := addrSpace addr
  if dev then decide (s.usable < a + n) || (restricted && decide (s.hostRegionEnd < a + n)) else decide (2 ^ 63 < a + n)

/-- The cases of R341. -/
def State.descBad (s : State) (restricted : Bool) (d : Bytes) : Bool :=
  let op := Desc.op d
  let n := Desc.count d
  op == 0 || decide (3 < op) || bits (field d 1 1) 7 3 != 0 || !(zeros d 2 2) || !(zeros d 40 24) || n == 0 ||
  (op == 2 && Desc.src d != 0) || (op != 2 && !(zeros d 24 8)) || Desc.next d % 64 != 0 ||
  (op != 2 && s.dmaRangeBad restricted (Desc.src d) n) || s.dmaRangeBad restricted (Desc.dst d) n ||
  (op == 1 && (addrSpace (Desc.src d)).1 == (addrSpace (Desc.dst d)).1 && decide (Desc.src d < Desc.dst d) &&
    decide (Desc.dst d < Desc.src d + n))

/-- The descriptor has a device range. -/
def Desc.touchesDevice (d : Bytes) : Bool :=
  (Desc.op d != 2 && (addrSpace (Desc.src d)).1) || (addrSpace (Desc.dst d)).1

/-- A DRAM group in use is not ON; device addresses spread over every group in use (R406). -/
def State.dramGroupOff (s : State) : Bool :=
  (List.range 6).any fun g => bit (s.fld Reg.MEM_STATUS_GROUPS) g && !s.domOn (36 + g)

/-- A DRAM group in use answers no access of a running descriptor: OFF or WAKING. While it drains, accesses of descriptors that
have started go on (R347, Table 20.6). -/
def State.dramGroupDead (s : State) : Bool :=
  (List.range 6).any fun g => bit (s.fld Reg.MEM_STATUS_GROUPS) g &&
    decide ((Tab.get {} s.pwr.domains (36 + g)).state < 2)

/-! ### The funnel (R344) -/

/-- `piece`: bytes of the next access at an address. -/
def piece (a left : Nat) : Nat :=
  (([64, 32, 16, 8, 4, 2].find? fun n => a % n == 0 && decide (n ≤ left)).getD 1)

/-- Whether an access of the range starts at an offset: the offsets of a range are those that `piece` reaches from 0. -/
def pieceAt (a count off : Nat) : Nat → Nat → Bool
  | 0, _ => false
  | fuel + 1, o => if o = off then decide (off < count) else if off < o then false
      else pieceAt a count off fuel (o + piece (a + o) (count - o))

/-- An access of `len` bytes at `off` belongs to the range. -/
def isAccess (a count off len : Nat) : Bool := pieceAt a count off (off + 1) 0 && piece (a + off) (count - off) == len

/-! ### Ends (Table 16.2, R345, R349, R350) -/

/-- A chain stops: the command or the register start gets its result. -/
def State.chainEnd (s : State) (c : Nat) (whole : Bool) : State :=
  let x := s.dch c
  let s1 := s.setDch c { x with busy := false, desc := none, fails := [], abort := false, domainStop := false
                                done := x.done || x.job.isNone }
  match x.job with
  | none => s1.intEdge (41 + c)
  | some j =>
    let st :=
      if x.timedOut then St.timeout
      else if x.lastSt = Dst.badDesc then St.badArg
      else if whole ∧ x.lastErr = 0 then St.ok else St.faulted
    let last := if whole ∧ x.lastErr ≠ 0 then x.lastErr else x.lastSt
    s1.finish j st x.descs last x.remain x.offset

/-- The write-back of bytes 48 to 63. -/
def State.descBack (s : State) (x : DmaCh) (st remain off : Nat) : State :=
  let (dev, a) := addrSpace x.cur
  let t := if x.submitter < 64 then x.submitter else 0
  s.spaceWrite dev (a + 48) (leBytes st 1 ++ [1, 0, 0] ++ leBytes remain 4 ++ leBytes off 4 ++ leBytes 0 4) (some t)

/-- Whether a status stops the chain (Table 16.2). -/
def stopsChain (d : Bytes) (st : Nat) : Bool :=
  if st = Dst.ok then false
  else if st = Dst.mismatch then Desc.stopOnMismatch d
  else if st ≤ Dst.domainOff then !(Desc.contOnErr d) else true

/-- A descriptor completes; the chain goes on or stops. -/
def State.descEnd (s : State) (c : Nat) (d : Bytes) (st remain off : Nat) : State :=
  let x := s.dch c
  let s1 := if Desc.wb d then s.descBack x st remain off else s
  let s2 := if 2 ≤ st then s1.count Reg.DMA_ERRORS (c / 16) else s1
  let s3 := if st = Dst.badDesc then s2.latch .dmaDesc (c / 16) else s2
  let y : DmaCh := { x with desc := none, fails := [], progress := 0, domainStop := false, descs := wrap 32 (x.descs + 1)
                            lastSt := st, remain := remain, offset := off, lastErr := if 2 ≤ st then st else x.lastErr }
  if stopsChain d st then (s3.setDch c y).chainEnd c (st == Dst.mismatch && Desc.next d == 0)
  else if Desc.next d = 0 then (s3.setDch c y).chainEnd c true
  else s3.setDch c { y with cur := Desc.next d }

/-- A fault of the page's data path: its busy chains end FAULTED (DMA.datapath). -/
def State.dmaFault (s : State) (p : Nat) : State :=
  let busy := (List.range 16).map (16 * p + ·) |>.filter fun c => (s.dch c).busy
  busy.foldl (fun t c => t.chainEnd c false) (s.latch .dmaDatapath p)

/-! ### Starting chains (R349, R350) -/

/-- A channel begins a chain. -/
def State.chainStart (s : State) (c head submitter : Nat) (job : Option Nat) : State :=
  let x := s.dch c
  s.setDch c { x with busy := true, submitter := submitter, job := job, cur := head, desc := none, startedAt := s.now
                      descs := 0, progress := 0, fails := [], abort := false, timedOut := false, domainStop := false
                      lastErr := 0 }

/-- DMA_SUBMIT. -/
def State.submit (s : State) (j : Nat) : State :=
  let e := (s.job j).args
  let want := field e 8 1
  let head := field e 16 8
  let go := fun (c : Nat) =>
    if s.pageEnabled Blk.dma (c / 16) then (s.start j).chainStart c head (s.job j).tenant (some j) else s
  if want ≠ 0xFF then (if (s.dch want).busy then s.finish j St.state else go want)
  else match (List.range s.variant.dmaChannels).find? fun c => !(s.dch c).busy with
    | some c => go c
    | none => s.finish j St.noResource

/-- DMA_SUBMIT. -/
def execDmaSubmit (job : Nat) (s : State) : Out := s.run fun s => if s.canStart job 0x30 then s.submit job else s

/-- A write of DMA_CHc_CTL.GO; a page whose ENABLE is 0 takes no new chain (R418). -/
def State.dmaStart (s : State) (c : Nat) : State :=
  let x := s.dch c
  if s.variant.dmaChannels ≤ c ∨ !s.pageEnabled Blk.dma (c / 16) then s
  else if x.busy then s.latch .dmaBusy (c / 16)
  else s.chainStart c x.head 64 none

/-- DMA_GO. -/
def execDmaGo (ch : Nat) (s : State) : Out :=
  s.run fun s => s.regCmd Blk.dma (ch / 16) 0 fun s => s.dmaStart ch

/-- A chain stops at the next access boundary with ABORTED: at once where no descriptor runs. -/
def State.chainStop (s : State) (c : Nat) (timedOut : Bool) : State :=
  let x := s.dch c
  if !x.busy then s
  else
    let y : DmaCh := { x with abort := true, timedOut := x.timedOut || timedOut }
    if x.desc.isSome then s.setDch c y
    else (s.setDch c { y with lastSt := Dst.aborted, lastErr := Dst.aborted }).chainEnd c false

/-- DMA_ABORT. -/
def execDmaAbort (ch : Nat) (s : State) : Out :=
  s.run fun s => s.regCmd Blk.dma (ch / 16) 0 fun s => s.chainStop ch false

/-- A chain runs past DMA_TIMEOUT.MS (R349). -/
def State.chainTimeout (s : State) (c : Nat) : State :=
  if (s.dch c).startedAt + s.fld Reg.DMA_TIMEOUT_MS (c / 16) * Clk.ms ≤ s.now then s.chainStop c true else s

/-- DMA_CHAIN_TIMEOUT. -/
def execDmaChainTimeout (ch : Nat) (s : State) : Out := s.run fun s => s.chainTimeout ch

/-! ### Running a descriptor -/

/-- The channel's engine can run. -/
def State.dmaRuns (s : State) (c : Nat) : Bool :=
  decide (c < s.variant.dmaChannels) && (s.dch c).busy && s.escOk 6 (c / 16) && s.domOn (34 + c / 16)

/-- The bytes of the next descriptor and how their read ended. -/
def State.descRead (s : State) (c : Nat) (given : Bytes) (resp : DmaResp) : Bytes × DmaResp × State :=
  let x := s.dch c
  let (dev, a) := addrSpace x.cur
  if dev then
    match s.engineRead a 64 13 with
    | (some bs, t) => (bs, .ok, t)
    | (none, t) => ([], if s.dramGroupOff then .domainOff else .error, t)
  else
    let bs := (given ++ List.replicate 64 0).take 64
    (bs, resp, s.hostReq .memRead a 64 (some (if x.submitter < 64 then x.submitter else 0)))

/-- DESCRIPTOR_FETCH (R341, R343, R347): a descriptor that no byte of is read ends the chain with the status of the read
(log 44). -/
def State.descFetch (s0 : State) (c : Nat) (given : Bytes) (resp : DmaResp) : State :=
  let x := s0.dch c
  if !(s0.dmaRuns c) ∨ x.desc.isSome then s0
  else
    let (d, r, s) := s0.descRead c given resp
    let n := Desc.count d
    match r with
    | .ok =>
      if x.cur % 64 ≠ 0 ∨ s.descBad (decide (0 < x.submitter) && decide (x.submitter < 64)) d then s.descEnd c d Dst.badDesc n 0
      else if Desc.touchesDevice d && s.dramGroupOff then s.descEnd c d Dst.domainOff n 0
      else s.setDch c { x with desc := some d, remain := n, progress := 0, fails := [], domainStop := false }
    | .error => (s.latch .dmaResp (c / 16)).descEnd c [] Dst.errSrc 0 0
    | .domainOff => s.descEnd c [] Dst.domainOff 0 0
    | .xlat => (s.descEnd c [] Dst.xlat 0 0).latch .hstXlat

/-- DESCRIPTOR_FETCH. -/
def execDescriptorFetch (ch : Nat) (desc : Bytes) (resp : DmaResp) (s : State) : Out :=
  s.run fun s => s.descFetch ch desc resp

/-- DMA_ACCESS_RESPONSE: the response to one access of the running descriptor (R345, R346). `onSrc` is a read of SRC; the other
range is DST. -/
def State.accessDone (s : State) (c : Nat) (onSrc : Bool) (off len : Nat) (resp : DmaResp) : State :=
  let x := s.dch c
  match x.desc with
  | none => s
  | some d =>
    let a := (addrSpace (if onSrc then Desc.src d else Desc.dst d)).2
    if (onSrc ∧ Desc.op d = 2) ∨ !(isAccess a (Desc.count d) off len) then s
    else match resp with
      | .ok =>
        if onSrc ∨ off ≠ x.progress then s
        else s.setDch c { x with progress := x.progress + len, remain := Desc.count d - (x.progress + len) }
      | .error => (s.setDch c { x with fails := x.fails ++ [⟨onSrc, off, len, .error⟩] }).latch .dmaResp (c / 16)
      | .domainOff => s.setDch c { x with fails := x.fails ++ [⟨onSrc, off, len, .domainOff⟩] }
      | .xlat => (s.setDch c { x with fails := x.fails ++ [⟨onSrc, off, len, .xlat⟩] }).latch .hstXlat

/-- DMA_ACCESS_RESPONSE. -/
def execDmaAccessResponse (ch : Nat) (onSrc : Bool) (offset len : Nat) (resp : DmaResp) (s : State) : Out :=
  s.run fun s => s.accessDone ch onSrc offset len resp

/-- The bytes of a range: device memory is read, host memory gives the operand; reads that find poison fail (R384), as do all
reads of a range whose DRAM groups are not all ON. -/
def State.dmaRead (s : State) (c addr n : Nat) (given : Bytes) (onSrc : Bool) (progress : Nat) : Bytes × List DmaFail × State :=
  let (dev, a) := addrSpace addr
  let x := s.dch c
  if !dev then
    ((given ++ List.replicate n 0).take n, [], s.hostReq .memRead a n (some (if x.submitter < 64 then x.submitter else 0)))
  else if s.dramGroupDead then (List.replicate n 0, [⟨onSrc, progress, 1, .domainOff⟩], s)
  else
    let bad := s.mem.poison.filter fun l => decide (a < l * 64 + 64) && decide (l * 64 < a + n)
    let (_, s1) := s.engineRead a n 13
    let fails := bad.map fun l =>
      let o := max a (l * 64) - a
      (⟨onSrc, o, piece (a + o) (n - o), .error⟩ : DmaFail)
    let s2 := if bad = [] then s1 else s1.latch .dmaResp (c / 16)
    if bad = [] ∧ !(decide (a + n ≤ s.usable) && s.flag Reg.MEM_STATUS_READY) then (List.replicate n 0, [⟨onSrc, 0, piece a n, .error⟩], s2)
    else (s.dramBytes a n, fails, s2)

/-- How a descriptor ended: status, bytes below the first that failed or was not issued, and the offset from which the
destination is undefined, if any. -/
structure DmaEnd where
  st : Nat
  moved : Nat
  remain : Nat
  undef : Option Nat
  deriving DecidableEq, Repr

/-- The status of a descriptor from its failing accesses and its stop requests (R345, R346, R348). -/
def dmaStatus (x : DmaCh) (d : Bytes) (fails : List DmaFail) : DmaEnd :=
  let n := Desc.count d
  let reads := Desc.op d == 3
  let errs := fails.filter fun f => f.resp == .error
  let low := fun (fs : List DmaFail) => fs.foldl (fun m f => min m f.offset) n
  let src := errs.filter fun f => f.onSrc || reads
  let off := fails.filter fun f => f.resp == .domainOff
  let xl := fails.filter fun f => f.resp == .xlat
  let at_ := low errs
  match errs with
  | [f] =>
    if !f.onSrc ∧ !reads ∧ f.offset + f.len = n then ⟨Dst.errTail, n, 0, some f.offset⟩
    else ⟨if src = [] then Dst.errDst else Dst.errSrc, at_, n - at_, some at_⟩
  | _ :: _ => ⟨if src = [] then Dst.errDst else Dst.errSrc, at_, n - at_, some at_⟩
  | [] =>
    if xl ≠ [] then ⟨Dst.xlat, low xl, n - low xl, some (low xl)⟩
    else if off ≠ [] then
      let m := if x.domainStop then min x.progress (low off) else low off
      ⟨Dst.domainOff, m, n - m, some m⟩
    else if x.domainStop then ⟨Dst.domainOff, x.progress, n - x.progress, none⟩
    else if x.abort then ⟨Dst.aborted, x.progress, n - x.progress, none⟩
    else ⟨Dst.ok, n, 0, none⟩

/-- Writes the bytes of a destination: those below the end are written, undefined ones are free bytes (log 8). -/
def State.dmaWrite (s : State) (c : Nat) (d : Bytes) (data : Bytes) (r : DmaEnd) : State :=
  let x := s.dch c
  let (dev, a) := addrSpace (Desc.dst d)
  let t := some (if x.submitter < 64 then x.submitter else 0)
  let n := Desc.count d
  let (bytes, ctr) := match r.undef with
    | some u => (data.take u ++ (List.range (n - u)).map (fun i => Config.freeByte s.freeCtr i), s.freeCtr + 1)
    | none => (data.take r.moved, s.freeCtr)
  let s1 : State := { s with freeCtr := ctr }
  let total := Tab.get 0 s1.dma.bytes (c / 16) + r.moved
  let s2 : State := { s1 with dma := { s1.dma with bytes := Tab.set s1.dma.bytes (c / 16) total } }
  (s2.spaceWrite dev a bytes t).setFld Reg.DMA_BYTES_KIB (c / 16) (total / 1024)

/-- The checkers of the channel's group. -/
def State.dmaChecks (s : State) (c : Nat) : State :=
  let s1 := s.check .dmaSram (c / 16)
  match s1.takeInject .dmaDatapath (c / 16) with
  | some s2 => (s2.dmaFault (c / 16)).escRequest 6 (c / 16) false
  | none => s1

/-- DMA_COPY: the running COPY descriptor ends. -/
def State.copyDone (s0 : State) (c : Nat) (given : Bytes) : State :=
  let s := if s0.dmaRuns c then s0.dmaChecks c else s0
  let x := s.dch c
  match s.dmaRuns c, x.desc with
  | true, some d =>
    if Desc.op d ≠ 1 then s
    else
      let (data, fs, s1) := s.dmaRead c (Desc.src d) (Desc.count d) given true x.progress
      let more := if (addrSpace (Desc.dst d)).1 ∧ s1.dramGroupDead then [(⟨false, x.progress, 1, .domainOff⟩ : DmaFail)] else []
      let r := dmaStatus x d (x.fails ++ fs ++ more)
      (s1.dmaWrite c d data r).descEnd c d r.st r.remain (Desc.count d - r.remain)
  | _, _ => s

/-- DMA_COPY. -/
def execDmaCopy (ch : Nat) (data : Bytes) (s : State) : Out := s.run fun s => s.copyDone ch data

/-- DMA_FILL: the running FILL descriptor ends. -/
def State.fillDone (s0 : State) (c : Nat) : State :=
  let s := if s0.dmaRuns c then s0.dmaChecks c else s0
  let x := s.dch c
  match s.dmaRuns c, x.desc with
  | true, some d =>
    if Desc.op d ≠ 2 then s
    else
      let more := if (addrSpace (Desc.dst d)).1 ∧ s.dramGroupDead then [(⟨false, x.progress, 1, .domainOff⟩ : DmaFail)] else []
      let r := dmaStatus x d (x.fails ++ more)
      (s.dmaWrite c d ((List.range (Desc.count d)).map (Desc.fillByte d)) r).descEnd c d r.st r.remain (Desc.count d - r.remain)
  | _, _ => s

/-- DMA_FILL. -/
def execDmaFill (ch : Nat) (s : State) : Out := s.run fun s => s.fillDone ch

/-- The first offset at which two strings of `n` bytes differ; `n` where they are equal. -/
def firstDiff : Bytes → Bytes → Nat
  | a :: as, b :: bs => if a = b then firstDiff as bs + 1 else 0
  | _, _ => 0

/-- DMA_COMPARE: the running COMPARE descriptor ends; nothing is written. -/
def State.compareDone (s0 : State) (c : Nat) (a b : Bytes) : State :=
  let s := if s0.dmaRuns c then s0.dmaChecks c else s0
  let x := s.dch c
  match s.dmaRuns c, x.desc with
  | true, some d =>
    if Desc.op d ≠ 3 then s
    else
      let n := Desc.count d
      let (p, fs, s1) := s.dmaRead c (Desc.src d) n a true x.progress
      let (q, gs, s2) := s1.dmaRead c (Desc.dst d) n b false x.progress
      let r := dmaStatus x d (x.fails ++ fs ++ gs)
      if r.st ≠ Dst.ok then s2.descEnd c d r.st r.remain (n - r.remain)
      else
        let k := firstDiff p q
        s2.descEnd c d (if k < n then Dst.mismatch else Dst.ok) 0 k
  | _, _ => s

/-- DMA_COMPARE. -/
def execDmaCompare (ch : Nat) (a b : Bytes) (s : State) : Out := s.run fun s => s.compareDone ch a b

end Sys2Proof.Machine
end

