-- ==== Sys2Proof/Machine/Enc.lean ====
section
/-! DEFINITION. Monitor and relay encoding (11_monitor_and_relay_encoding.md): sessions, stream sources, rate control, output and the encode
cores. -/

namespace Sys2Proof.Machine

def State.encCore (s : State) (c : Nat) : EncCore := Tab.get {} s.enc.cores c

def State.setEncCore (s : State) (c : Nat) (x : EncCore) : State :=
  { s with enc := { s.enc with cores := Tab.set s.enc.cores c x } }

/-- A core takes load: present, page enabled, not OFFLINE. -/
def State.encOnline (s : State) (c : Nat) : Bool :=
  decide (c < s.variant.encCores) && s.pageEnabled Blk.enc c && s.domOn (10 + c) && !(s.encCore c).offline

/-- ENC_CORE_LOAD: load placed on a core, Msample/s. -/
def State.encLoad (s : State) (c : Nat) : Nat := (s.enc.sessions.map fun e => Tab.get 0 e.2.loads c).sum

/-! ### ENC_SESSION_OPEN (Table 11.2, R236, R237) -/

/-- The arguments of ENC_SESSION_OPEN. -/
def encArgs (e : Bytes) : EncSession :=
  let m := field e 11 1
  { state := 1, codec := field e 9 1, profile := field e 10 1, depth := bits m 3 0, isStream := bit m 4, mode := bits m 6 5
    nCores := field e 12 1, div := field e 13 1, stream := bits (field e 14 2) 9 0, outW := field e 16 2, outH := field e 18 2
    cx := field e 20 2, cy := field e 22 2, cw := field e 24 2, ch := field e 26 2, target := field e 28 4
    peak := field e 32 4, buf := field e 36 4, qp := field e 40 1, keyInt := field e 41 1
    outRing := bits (field e 42 2) 12 0, outCq := bits (field e 44 2) 12 0, primaries := field e 46 1
    transfer := field e 47 1, matrix := field e 48 1, maxPic := field e 52 4 }

/-- Table 11.1: codec, profile and bit depth. -/
def EncSession.formatOk (x : EncSession) : Bool :=
  match x.codec, x.profile with
  | 1, 1 => x.depth == 8
  | 1, 2 => x.depth == 8 || x.depth == 10
  | 2, 1 => x.depth == 8 || x.depth == 10
  | _, _ => false

/-- The size of the output, and its share per core (R235, R236). -/
def EncSession.sizeOk (x : EncSession) (v : Variant) : Bool :=
  decide (1 ≤ x.nCores) && decide (x.nCores ≤ v.encCores) &&
  decide (64 ≤ x.outW) && decide (x.outW ≤ 8192) && x.outW % 8 == 0 &&
  decide (64 ≤ x.outH) && decide (x.outH ≤ 4320) && x.outH % 8 == 0 &&
  decide (256 * x.nCores ≤ x.outW) && decide (x.outW ≤ 4096 * x.nCores)

/-- The rate fields of Table 11.2. -/
def EncSession.rateOk (x : EncSession) : Bool :=
  match x.mode with
  | 0 => x.peak == 0 && x.qp == 0 && x.maxPic == 0
  | 1 => decide (x.target ≤ x.peak) && x.qp == 0 && x.maxPic == 0
  | 2 => x.target == 0 && x.peak == 0 && x.buf == 0 && decide (x.codec = 2 ∨ x.qp ≤ 51)
  | _ => false

/-- The source fields of Table 11.2: a canvas region not smaller than the output, a stream crop within 1/8 to 8. -/
def State.encSourceOk (s : State) (x : EncSession) : Bool :=
  if x.isStream then
    let ratio := fun (c o : Nat) => decide (o ≤ 8 * c) && decide (c ≤ 8 * o)
    x.div == 0 && (x.matrix == 0 || x.matrix == 1 || x.matrix == 9) &&
    (x.cw == 0 || (x.cx % 2 == 0 && x.cy % 2 == 0 && x.cw % 2 == 0 && x.ch % 2 == 0 && ratio x.cw x.outW && ratio x.ch x.outH))
  else
    let (_, _, w, h) := match s.activeImg with
      | some im => x.region im
      | none => (x.cx, x.cy, x.cw, x.ch)
    x.div != 0 && x.stream == 0 && (x.matrix == 1 || x.matrix == 9) && decide (x.outW ≤ w) && decide (x.outH ≤ h)

/-- OUT_RING and OUT_CQ (R236). -/
def State.encRingsOk (s : State) (e tenant : Nat) (x : EncSession) : Bool :=
  let r := s.ring x.outRing
  let q := s.ring x.outCq
  r.enable && r.cls == 3 && s.ringTenant x.outRing == some tenant && r.link == 0x1000 + e && !r.meterEn &&
  q.enable && q.cls == 2 && s.ringTenant x.outCq == some tenant &&
  !(s.rng.rings.any fun c => c.2.cls == 1 && c.2.link == x.outCq) &&
  !(s.enc.sessions.any fun o => o.1 != e && o.2.state != 0 && o.2.outCq == x.outCq)

/-- The picture rate of a session: the wall frame rate over DIV, or RATE_MHZ / 1,000 (R237). Without an active calibre the wall
frame period is the 240 Hz one of R85 (log 43). -/
def State.encRate (s : State) (x : EncSession) : Nat × Nat :=
  if x.isStream then ((s.stream x.stream).args.rateMhz, 1000)
  else match s.activeImg with
    | some im => (Img.num im, Img.den im * x.div)
    | none => (240, x.div)

/-- The load of a session in Msample/s, rounded up (R237). -/
def EncSession.loadOf (x : EncSession) (rate : Nat × Nat) : Nat :=
  (x.outW * x.outH * rate.1 + 1000000 * rate.2 - 1) / (1000000 * rate.2)

/-- The `n` online cores with the least load, the lowest number first among equals (R237). -/
def State.leastLoaded (s : State) : Nat → List Nat → List Nat
  | 0, _ => []
  | n + 1, cs =>
    match cs.foldl (fun (b : Option Nat) c => match b with
      | none => some c
      | some d => if s.encLoad c < s.encLoad d then some c else some d) none with
    | none => []
    | some c => c :: State.leastLoaded s n (cs.filter (· != c))

/-- ENC_REGION_FREE: granules of the ENC region that no session has reserved. -/
def State.encRegionFree (s : State) : Nat := s.fld Reg.ENC_REGION_SIZE - (s.enc.sessions.map (·.2.granules)).sum

/-- ENC_SESSION_OPEN. -/
def State.encOpen (s : State) (j : Nat) : State :=
  let a := (s.job j).args
  let e := bits (field a 8 1) 4 0
  let t := (s.job j).tenant
  let x := encArgs a
  if (s.ses e).state ≠ 0 then s.finish j St.state
  else if !(x.formatOk && x.sizeOk s.variant && x.rateOk && s.encSourceOk x && s.encRingsOk e t x) then s.finish j St.badArg
  else
    let rate := s.encRate x
    let load := x.loadOf rate
    let per := (load + x.nCores - 1) / x.nCores
    let cs := s.leastLoaded x.nCores ((List.range s.variant.encCores).filter s.encOnline)
    let g := 5 * gran (picPlain x.outW x.outH 1 (if x.depth = 10 then 2 else 1))
    if cs.length < x.nCores ∨ cs.any fun c => decide (500 < s.encLoad c + per) then s.finish j St.noResource 0 0 1
    else if s.encRegionFree < g then s.finish j St.noResource 0 0 4
    else
      let done := (s.picsOf x.stream).filterMap fun p => if p.2.released ∧ p.2.decoded then some p.1 else none
      let y : EncSession := { x with tenant := t, load := load, loads := cs.foldl (fun m c => Tab.set m c per) [], granules := g
                                     rateNum := rate.1, rateDen := rate.2, taken := if x.isStream then done else [] }
      ((s.setSes e y).encSource e (s.stream x.stream).state).finish j St.ok load g

/-- ENC_SESSION_OPEN. -/
def execEncSessionOpen (job : Nat) (s : State) : Out := s.run fun s => if s.canStart job 0x20 then s.encOpen job else s

/-! ### ENC_SESSION_CLOSE (R238) -/

/-- A CLOSING session with no picture in coding becomes CLOSED: load and reservation go back, its commands complete. -/
def State.encEnd (s : State) (e : Nat) : State :=
  let x := s.ses e
  if x.state ≠ 2 ∨ x.coding.isSome then s
  else
    let s1 := s.setSes e { state := 0 }
    x.closeJobs.foldl (fun t j => t.finish j St.ok x.pics) s1

/-- ENC_SESSION_CLOSE: of another tenant BAD_ARG, as R83 states for streams. -/
def State.encClose (s : State) (j : Nat) : State :=
  let e := field (s.job j).args 8 1
  let x := s.ses e
  if x.state = 0 then s.finish j St.state
  else if x.tenant ≠ (s.job j).tenant then s.finish j St.badArg
  else ((s.start j).setSes e { x with state := 2, waiting := none, closeJobs := x.closeJobs ++ [j] }).encEnd e

/-- ENC_SESSION_CLOSE. -/
def execEncSessionClose (job : Nat) (s : State) : Out := s.run fun s => if s.canStart job 0x21 then s.encClose job else s

/-! ### Stream sources (R240, R241) -/

/-- A source sample scaled with the built-in filter of R156, at the source's depth. -/
def State.relayValue (s : State) (n plane depth : Nat) (h v : Axis) : Nat :=
  let hi : Int := ((2 ^ depth - 1 : Nat) : Int)
  let th := taps 0 h.n h.d h.pos
  (min hi (pass (taps 0 v.n v.d v.pos) v.lo v.hi fun y =>
    min hi (pass th h.lo h.hi fun x => ((s.outSample n plane x.toNat y.toNat % 2 ^ depth : Nat) : Int)))).toNat

/-- A sample converted between 8 and 10 bits (R240). -/
def toDepth (src dst v : Nat) : Nat :=
  if src = 8 ∧ dst = 10 then v * 4 else if src = 10 ∧ dst = 8 then min 255 ((v + 2) / 4) else v

/-- The planes of a stream picture: the part of the crop that lies in the picture scaled to the output, chroma resampled to 4:2:0 in
the same pass from where the stream's sample location type puts it (R156), to the middle of each 2 × 2 group (log 43). -/
def State.relayPlanes (s : State) (x : EncSession) (n : Nat) : List (List Nat) :=
  let p := s.pic n
  let (ox, nx) := effCrop x.cx x.cw p.info.width
  let (oy, ny) := if x.cw = 0 then (0, p.info.height) else (x.cy, min (x.cy + x.ch) p.info.height - x.cy)
  let d := p.info.depth
  let subX := p.info.chroma == 1 || p.info.chroma == 2
  let subY := p.info.chroma == 1
  let (offX, offY) := chromaOff p.info.chromaLoc
  let at_ := fun (plane w h : Nat) (sx sy : Bool) (k : Nat) =>
    toDepth d x.depth (s.relayValue n plane d ⟨ox, nx, w, k % w, sx, offX⟩ ⟨oy, ny, h, k / w, sy, offY⟩)
  let luma := (List.range (x.outW * x.outH)).map (at_ 0 x.outW x.outH false false)
  let half := x.outW / 2
  let rows := x.outH / 2
  let chroma := fun (c : Nat) => (List.range (half * rows)).map fun k =>
    if p.info.chroma = 0 then 2 ^ (x.depth - 1) else at_ c half rows subX subY k
  [luma, chroma 1, chroma 2]

/-- The first picture in output order that the output process of the session's stream has released and that the session has not taken
(R235, R240). -/
def State.relayNext (s : State) (x : EncSession) : Option (Nat × Picture) :=
  (s.picsOf x.stream).foldl (fun (b : Option (Nat × Picture)) e =>
    if e.2.released ∧ e.2.decoded ∧ !(x.taken.contains e.1) then
      match b with
      | none => some e
      | some q => if e.2.before q.2 then some e else some q
    else b) none

/-- ENC_SOURCE_READY: a stream session takes the next released picture; reading an invalid unit header latches RFS.comp (R128). A canvas
picture is ready when its scan ends (`State.encTap`). -/
def State.encReady (s : State) (e : Nat) : State :=
  let x := s.ses e
  if x.state ≠ 1 ∨ !x.isStream then s
  else match s.relayNext x with
    | none => s
    | some (n, p) =>
      let seen := n :: x.taken.filter fun m => Tab.has s.dec.pics m
      if (s.stream x.stream).state ≠ 2 then (s.setSes e { x with taken := seen }).releaseWindowless
      else
        let q : EncPic := ⟨s.frameCount, p.time, p.concealed, some n, s.relayPlanes x n⟩
        let s1 := if s.holdsBad n then (s.setPic n { p with badRef := true }).latch .rfsComp else s
        (s1.setSes e { x.offer q with taken := seen }).releaseWindowless

/-- ENC_SOURCE_READY. -/
def execEncSourceReady (session : Nat) (s : State) : Out := s.run fun s => s.encReady session

/-! ### Pictures (R242-R245) -/

/-- Bits per picture at the session's rate, of a rate in kbit/s. -/
def EncSession.perPicture (x : EncSession) (kbps : Nat) : Nat := kbps * 1000 * x.rateDen / x.rateNum

/-- The hard limit of R242 in bits; -1 for none. -/
def EncSession.hardLimit (x : EncSession) : Int :=
  match x.mode with
  | 0 => (x.buf * 1000 : Nat) - (x.f : Int)
  | 1 => (x.buf * 1000 : Nat) - (x.fp : Int)
  | _ => if x.maxPic = 0 then -1 else (8 * x.maxPic : Nat)

/-- The cores of a session. -/
def EncSession.cores (x : EncSession) : List Nat := x.loads.map (·.1)

/-- The next picture is a key picture (R240, R245, KEY_INT). -/
def EncSession.keyNext (x : EncSession) : Bool := x.needKey || (x.keyInt != 0 && decide (x.keyInt ≤ x.sinceKey))

/-- ENC_PICTURE_START: the waiting picture starts on the session's cores, none of which is coding; not while HOT or after CRIT
(R411, R412). -/
def State.encStart (s : State) (e : Nat) : State :=
  let x := s.ses e
  let free := x.cores.all fun c => s.encOnline c && !(s.encCore c).busy && s.escOk 2 c
  if x.state ≠ 1 ∨ x.coding.isSome ∨ !free ∨ x.cores = [] ∨ s.flag Reg.PWR_THROTTLE_HOT ∨ s.pwr.critStop ∨
      (x.isStream ∧ (s.stream x.stream).state ≠ 2) then s
  else match x.waiting with
    | none => s
    | some p =>
      let rate := s.encRate x
      let y : EncSession := { x with waiting := none, coding := some p, codingKey := x.keyNext, needKey := false
                                     hard := x.hardLimit, rateNum := rate.1, rateDen := rate.2 }
      x.cores.foldl (fun t c => t.setEncCore c { t.encCore c with busy := true, session := e, startedAt := t.now }) (s.setSes e y)

/-- ENC_PICTURE_START. -/
def execEncPictureStart (session : Nat) (s : State) : Out := s.run fun s => s.encStart session

/-- The cores of a session are done with its picture. -/
def State.encFree (s : State) (e : Nat) : State :=
  (s.enc.cores.filter fun c => c.2.busy && c.2.session == e).foldl (fun t c =>
    let k := t.encCore c.1
    t.setEncCore c.1 { k with busy := false, offline := k.offline || k.offlineReq
                              busyCycles := k.busyCycles + (t.now - k.startedAt) / Clk.cclk }) s

/-- Entries at the head of an output ring that `n` bytes fill, and what is left over. -/
def entriesFor : Nat → List Pkt → Nat × Nat
  | _, [] => (0, 0)
  | n, p :: ps =>
    if n ≤ p.len then (1, n)
    else let (k, m) := entriesFor (n - p.len) ps; (k + 1, m)

/-- Writes coded bytes into the entries; what they are is the encoder's own (free bytes, log 8). -/
def State.encFill (s : State) (tenant ctr : Nat) : List Pkt → Nat → Nat → State
  | [], _, _ => s
  | p :: ps, o, n =>
    let k := min n p.len
    let (dev, a) := addrSpace ((p.segs.head?.map (·.1)).getD 0)
    let s1 := s.spaceWrite dev a ((List.range k).map fun i => Config.freeByte ctr (o + i)) (some tenant)
    State.encFill s1 tenant ctr ps (o + k) (n - k)

/-- The picture record (Table 11.3). -/
def encRecord (e qp bytes first entries type frame time num : Nat) (phase : Nat) : Bytes :=
  [BitVec.ofNat 8 e, BitVec.ofNat 8 qp, 0, BitVec.ofNat 8 phase] ++ leBytes bytes 4 ++ leBytes first 4 ++ leBytes entries 2 ++
  [BitVec.ofNat 8 type, 0] ++ leBytes frame 4 ++ leBytes time 8 ++ leBytes num 4

/-- `delivered` of R242: the target bucket, and under VBR the peak bucket. -/
def EncSession.delivered (x : EncSession) (bits_ : Nat) : EncSession :=
  { x with f := x.f + bits_ - x.perPicture x.target, fp := if x.mode = 1 then x.fp + bits_ - x.perPicture x.peak else x.fp }

/-- A bucket stands above BUF_KBIT × 1,000 (R242). -/
def EncSession.overFull (x : EncSession) : Bool :=
  decide (x.buf * 1000 < x.f) || (x.mode == 1 && decide (x.buf * 1000 < x.fp))

/-! ### The size of a picture (R235, R243) -/

/-- CTUs or superblocks in a row, and rows. -/
def EncSession.ctuCols (x : EncSession) : Nat := (x.outW + 63) / 64
def EncSession.ctuRows (x : EncSession) : Nat := (x.outH + 63) / 64

/-- The width in CTUs of uniform tile column `c` of `n` (the standards' uniform spacing, log 43). -/
def EncSession.column (x : EncSession) (c : Nat) : Nat :=
  (c + 1) * x.ctuCols / x.nCores - c * x.ctuCols / x.nCores

/-- The share h_c of a column of `n` CTUs in bytes; none without a hard limit. -/
def EncSession.share (x : EncSession) (n : Nat) : Option Int :=
  if x.mode = 2 ∧ x.maxPic = 0 then none
  else some ((x.hard.tdiv 8 * (n : Int)).tdiv ((x.ctuCols * x.ctuRows : Nat) : Int))

/-- The CTUs of a column, each coded normally while that leaves room for the rest, then all in guard mode at no more than `cap` bytes:
the bytes spent, and whether guard mode ran. -/
def encCtus (h : Option Int) (cap : Nat) : List (Nat × Nat) → Nat → Bool → Nat × Bool
  | [], spent, guard => (spent, guard)
  | (normal, low) :: rest, spent, guard =>
    let fits := match h with
      | none => true
      | some h => decide (((spent + normal + 2 * rest.length + 16 : Nat) : Int) ≤ h)
    if guard ∨ !fits then encCtus h cap rest (spent + min cap low) true else encCtus h cap rest (spent + normal) false

/-- One column, its CTUs' sizes in guard mode in `low`: header bytes count as spent before the first CTU, and at most 16 bytes end it. -/
def EncSession.codeColumn (x : EncSession) (c : Nat) (col : EncCol) (low : List Nat) : Nat × Bool :=
  let n := x.column c * x.ctuRows
  let r := encCtus (x.share n) (if x.codingKey then 24 else 2) ((List.range n).map fun i => (col.ctus.getD i 0, low.getD i 0))
    col.header false
  (r.1 + min 16 col.tail, r.2)

/-- The bytes of a picture, and whether a CTU of it was coded in guard mode; `guard` holds the CTU sizes of each column in that mode. -/
def EncSession.codePicture (x : EncSession) (cols : List EncCol) (guard : List (List Nat)) : Nat × Bool :=
  (List.range x.nCores).foldl (fun a c =>
    let r := x.codeColumn c (cols.getD c {}) (guard.getD c [])
    (a.1 + r.1, a.2 || r.2)) (0, false)

/-- Levels by picture size, width and height limit and sample rate, lowest first: HEVC, then AV1 (the standards' tables, log 20). -/
def encLevels (codec : Nat) : List (Nat × Nat) :=
  if codec = 1 then
    [(30, 552960), (60, 3686400), (63, 7372800), (90, 16588800), (93, 33177600), (120, 66846720), (123, 133693440),
     (150, 267386880), (153, 534773760), (156, 1069547520), (180, 1069547520), (183, 2139095040), (186, 4278190080)]
  else
    [(0, 4423680), (1, 8363520), (4, 19975680), (5, 31950720), (8, 70778880), (9, 141557760), (12, 267386880), (13, 534773760),
     (14, 1069547520), (16, 1069547520), (17, 2139095040), (18, 4278190080)]

/-- The level signalled: the lowest whose picture size and sample rate admit the session (R235). -/
def EncSession.level (x : EncSession) : Nat :=
  ((encLevels x.codec).find? fun l =>
    (match levelLimit x.codec l.1 with
     | some (n, w, h) => decide (x.outW * x.outH ≤ n) && decide (x.outW ≤ w) && decide (x.outH ≤ h)
     | none => false) && decide (x.outW * x.outH * x.rateNum ≤ l.2 * x.rateDen)).map (·.1) |>.getD 255

/-- What the picture in coding signals; for a stream source a colour code of 0 copies DEC_SW_COLOUR (Table 11.2). -/
def State.encHead (s : State) (x : EncSession) : EncHead :=
  let r := s.stream x.stream
  let code := fun (own copy : Nat) => if x.isStream ∧ own = 0 then copy else own
  { level := x.level, columns := (List.range x.nCores).map x.column, params := x.codingKey, delimiter := x.codec == 2
    primaries := code x.primaries r.primaries, transfer := code x.transfer r.transfer, matrix := code x.matrix r.matrix }

/-- The coded picture goes into the output entries and its record is written (R244). -/
def State.encDeliver (s : State) (e : Nat) (p : EncPic) (bytes qp : Nat) (guard : Bool) : State :=
  let x := s.ses e
  let r := s.ring x.outRing
  let (n, _) := entriesFor bytes r.pkts
  let y := x.delivered (8 * bytes)
  let high := y.overFull
  let num := wrap 32 (x.pics + 1)
  let type := b2n x.codingKey + 2 * b2n guard + 4 * b2n p.concealed + 8 * b2n high
  let q := if x.mode = 2 ∧ !guard then x.qp else qp
  let s1 := { s with freeCtr := s.freeCtr + 1 }
  let s2 := s1.encFill x.tenant s.freeCtr r.pkts 0 bytes
  let s3 := s2.record x.outCq 2 [encRecord e q bytes r.ci n type p.frame p.time num]
  let r3 := s3.ring x.outRing
  let s4 := s3.setRing x.outRing { r3 with ci := wrap 32 (r3.ci + n), count := r3.count - n
                                           consumed := wrap 64 (r3.consumed + n), pkts := r3.pkts.drop n }
  let z : EncSession := { y with coding := none, pics := num, guard := wrap 32 (x.guard + b2n guard)
                                 overflow := wrap 32 (x.overflow + b2n high)
                                 head := some (s.encHead x), sinceKey := if x.codingKey then 1 else x.sinceKey + 1 }
  let s5 := s4.setSes e z
  if high then s5.encEvent e 0x0B03 [num, min y.f (2 ^ 32 - 1), y.buf * 1000 % 2 ^ 32] else s5

/-- A picture that the entries cannot hold is dropped (R245). -/
def State.encNoBuf (s : State) (e bytes avail : Nat) : State :=
  let x := s.ses e
  (s.setSes e { x with coding := none, noBuf := wrap 32 (x.noBuf + 1), needKey := true }).encEvent e 0x0B01
    [wrap 32 (x.pics + 1), bytes % 2 ^ 32, avail % 2 ^ 32]

/-- ENC_PICTURE_DONE. -/
def State.encDone (s : State) (e : Nat) (cols : List EncCol) (qp : Nat) (low : List (List Nat)) : State :=
  let x := s.ses e
  match x.coding with
  | none => s
  | some p =>
    let (bytes, guard) := x.codePicture cols low
    let s1 := x.cores.foldl (fun t c => t.check .encSram c) (s.encFree e)
    let avail := ((s1.ring x.outRing).pkts.map (·.len)).sum
    let s2 := if avail < bytes then s1.encNoBuf e bytes avail else s1.encDeliver e p bytes (qp % 256) guard
    s2.encEnd e

/-! ### Cores and region (R237, R246) -/

/-- The loads of a core move to the least-loaded online core, session by session. -/
def State.encMove (s : State) (c : Nat) : List Nat → State
  | [] => s
  | e :: es =>
    let x := s.ses e
    let n := Tab.get 0 x.loads c
    let s1 := match s.leastLoaded 1 (((List.range s.variant.encCores).filter s.encOnline).filter (· != c)) with
      | d :: _ => s.setSes e { x with loads := Tab.set (Tab.del x.loads c) d (Tab.get 0 x.loads d + n) }
      | [] => s
    State.encMove s1 c es

/-- A fault latched in a core (R246): OFFLINE, the picture dropped, its loads moved; every session placed on it starts a key picture
next (R245). -/
def State.encCoreFault (s : State) (c : Nat) : State :=
  let k := s.encCore c
  let s1 := if k.busy then
      let t := s.encFree k.session
      let x := t.ses k.session
      (t.setSes k.session { x with coding := none, needKey := true }).encEnd k.session
    else s
  let s2 := s1.setEncCore c { s1.encCore c with busy := false, offline := true, faulted := true }
  let es := s2.enc.sessions.filterMap fun e => if Tab.has e.2.loads c then some e.1 else none
  let s3 := es.foldl (fun t e => t.setSes e { t.ses e with needKey := true }) s2
  ((s3.encMove c es).latch .encCore c).escRequest 2 c false

/-- The end of a picture with the checks of its cores (R246, R372): an inverted check faults its core. -/
def State.pictureEnd (s : State) (e : Nat) (cols : List EncCol) (qp : Nat) (guard : List (List Nat)) : State :=
  let x := s.ses e
  let hit := x.cores.find? fun c => (s.takeInject .encCore c).isSome
  match x.coding, hit with
  | some _, some c => ((s.takeInject .encCore c).getD s).encCoreFault c
  | _, _ => s.encDone e cols qp guard

/-- ENC_PICTURE_DONE. -/
def execEncPictureDone (session : Nat) (cols : List EncCol) (qp : Nat) (guard : List (List Nat)) (s : State) : Out :=
  s.run fun s => s.pictureEnd session cols qp guard

/-- RESET of an offline, idle core: its escapement reloads (R246, R327). -/
def State.encReset (s : State) (c : Nat) : State :=
  let k := s.encCore c
  if k.offline ∧ !k.busy then (s.setEncCore c { k with faulted := false }).escAdopt 2 c else s

/-- A write of ENC_CORE_CTL. -/
def State.encCtl (s : State) (c v : Nat) : State :=
  if s.variant.encCores ≤ c then s
  else
    let k := s.encCore c
    let off := bit v 0
    let k1 : EncCore := { k with offlineReq := off
                                 offline := if off then k.offline || !k.busy else if k.faulted then k.offline else false }
    let s1 := s.setEncCore c k1
    if bit v 1 then s1.encReset c else s1

/-- ENC_CORE_RESET. -/
def execEncCoreReset (core : Nat) (s : State) : Out :=
  s.run fun s => s.regCmd Blk.enc core 0 fun s => s.encReset core

/-- A write of ENC_REGION_BASE (0) or ENC_REGION_SIZE (1): only while every session is CLOSED. -/
def State.encRegion (s : State) (reg v : Nat) : State :=
  if s.enc.sessions.any (fun e => e.2.state != 0) then s.latch .encBusy 0
  else if reg = 0 then s.setFld Reg.ENC_REGION_BASE 0 v else s.setFld Reg.ENC_REGION_SIZE 0 v

/-- ENC_REGION_WRITE. -/
def execEncRegionWrite (reg : Nat) (v : Word) (s : State) : Out :=
  s.run fun s => s.regCmd Blk.enc 0 (rsvBits v 0xFFFFFF) fun s => s.encRegion reg v.toNat

/-- A swap that changes the wall rate recomputes the loads of canvas sessions without refusing any (R237). -/
def State.encRecompute (s : State) : State :=
  s.enc.sessions.foldl (fun t e =>
    let x := t.ses e.1
    if x.state = 0 ∨ x.isStream then t
    else
      let rate := t.encRate x
      let load := x.loadOf rate
      let per := (load + x.nCores - 1) / x.nCores
      let old := (x.load + x.nCores - 1) / x.nCores
      let loads := x.loads.map fun l => (l.1, if old = 0 then per else l.2 / old * per)
      t.setSes e.1 { x with load := load, loads := loads, rateNum := rate.1, rateDen := rate.2 }) s

end Sys2Proof.Machine
end

