-- ==== Sys2Proof/Machine/Escapement.lean ====
section
/-! DEFINITION. Commands on the escapements (15_escapements_and_regulators.md, R320-R327). -/

namespace Sys2Proof.Machine

/-- The fault of an engine whose escapement fails (R320, R324): the core fault with its block's response, or the data path
source. -/
def State.escFault (s : State) (kind i : Nat) : State :=
  match kind with
  | 1 => s.decCoreFault i
  | 2 => s.encCoreFault i
  | 3 => s.mzeCoreFault i
  | 4 => (s.latch .cnvDatapath).escRequest 4 0 false
  | 5 => (s.latch .drvDatapath).escRequest 5 0 false
  | _ => (s.dmaFault i).escRequest 6 i false

/-- The escapement halts until its engine's reset; its sequencing state is gone (R323, R324). -/
def State.escHalt (s : State) (kind i : Nat) : State := s.setEsc kind i { image := (s.esc_ kind i).image, halted := true }

/-- A parity error (R324). -/
def State.escParity (s : State) (kind i : Nat) : State := ((s.escHalt kind i).count Reg.ESC_PARITY).escFault kind i

/-- What a run of cycles leaves. -/
def State.escEnd (s : State) (kind i : Nat) (e : EscEnd) : State :=
  match e with
  | .goes x => s.setEsc kind i x
  | .exits x => s.setEsc kind i x
  | .parity => s.escParity kind i

/-- An escapement that runs a routine: it, its routine and its image. -/
def State.escRunning (s : State) (kind i : Nat) : Option (Escapement × Nat × EscImage) :=
  let x := s.esc_ kind i
  match escPlace s.variant kind i, x.routine with
  | some _, some r => if s.escOk kind i then some (x, r, s.escImage x) else none
  | _, _ => none

/-- The cycles of a running escapement whose engine conditions are `conds`, one word each. -/
def State.escRun (s : State) (kind i : Nat) (conds : List (BitVec 64)) : State :=
  match s.escRunning kind i with
  | none => s
  | some (x, r, im) => s.escEnd kind i (x.cycles im r conds)

/-- ESC_ROUTINE_START (R321): an idle escapement starts routine r at word 2r. -/
def State.escStart (s : State) (kind i r : Nat) : State :=
  let x := s.esc_ kind i
  match escPlace s.variant kind i with
  | none => s
  | some _ =>
    if !s.escOk kind i ∨ x.routine.isSome ∨ 32 ≤ r then s
    else s.setEsc kind i { x with routine := some r, pc := 2 * r, stack := [], timedOut := false, stop := false, fault := false }

/-- ESC_ROUTINE_START. -/
def execEscRoutineStart (kind index routine : Nat) (s : State) : Out := s.run fun s => s.escStart kind index routine

/-- ESC_ROUTINE_EXIT: the cycles up to an EXIT word (R318); samples after it have no effect. -/
def execEscRoutineExit (kind index : Nat) (conds : List (BitVec 64)) (s : State) : Out :=
  s.run fun s => s.escRun kind index conds

/-- A WAIT word at the end of a run has waited its limit (R320). -/
def State.escTimeout (s : State) (kind i : Nat) (conds : List (BitVec 64)) : State :=
  match s.escRunning kind i with
  | none => s
  | some (x, r, im) =>
    match x.cycles im r conds with
    | .goes y =>
      let w := im.word y.pc
      let t := s.setEsc kind i y
      if !parityOk w then s.escParity kind i
      else if Word.seq w ≠ 5 ∨ y.timedOut ∨ 28 ≤ Word.tmo w then t
      else if Word.safe w ∧ (y.stop ∨ y.fault) then
        t.setEsc kind i { y with pc := 2 * r + 1, stack := [], timedOut := false }
      else if !(Word.tflt w) then t.setEsc kind i { y with pc := Word.next w }
      else ((t.setEsc kind i { y with timedOut := true }).count Reg.ESC_TIMEOUTS).escFault kind i
    | e => s.escEnd kind i e

/-- ESC_WAIT_TIMEOUT. -/
def execEscWaitTimeout (kind index : Nat) (conds : List (BitVec 64)) (s : State) : Out :=
  s.run fun s => s.escTimeout kind index conds

/-- A safe point at the end of a run goes to the exit vector where a request is pending (R322). -/
def State.escSafe (s : State) (kind i : Nat) (conds : List (BitVec 64)) : State :=
  match s.escRunning kind i with
  | none => s
  | some (x, r, im) =>
    match x.cycles im r conds with
    | .goes y =>
      let w := im.word y.pc
      if !parityOk w then s.escParity kind i
      else if Word.safe w ∧ (y.stop ∨ y.fault) then
        s.setEsc kind i { y with pc := 2 * r + 1, stack := [], timedOut := false }
      else s.setEsc kind i y
    | e => s.escEnd kind i e

/-- ESC_SAFE_POINT_EXIT. -/
def execEscSafePointExit (kind index : Nat) (conds : List (BitVec 64)) (s : State) : Out :=
  s.run fun s => s.escSafe kind index conds

/-- An escapement has not reached EXIT within ESC_STOP_LIMIT × 1,024 cycles of the request (R323): halted, and a wait
timeout. -/
def State.stopExpired (s : State) (kind i : Nat) : State :=
  let x := s.esc_ kind i
  match s.escRunning kind i with
  | none => s
  | some _ =>
    if !(x.stop || x.fault) ∨ s.now ≤ x.reqAt + s.fld Reg.ESC_STOP_LIMIT * 1024 * escClock kind then s
    else ((s.escHalt kind i).count Reg.ESC_TIMEOUTS).escFault kind i

/-- STOP_LIMIT_EXPIRY. -/
def execStopLimitExpiry (kind index : Nat) (s : State) : Out := s.run fun s => s.stopExpired kind index

/-- MICROWORD_PARITY: PAR of the word being read does not match (R324). -/
def execMicrowordParity (kind index : Nat) (s : State) : Out :=
  s.run fun s => match s.escRunning kind index with
    | none => s
    | some _ => s.escParity kind index

/-! ### ESC_LOAD (R327) -/

/-- A write of ESC_LOAD_CTL. -/
def State.escLoadCtl (s : State) (v : Nat) : State :=
  if s.flag Reg.ESC_LOAD_CTL_BUSY ∨ !s.pageEnabled Blk.esc 0 then (if bit v 0 then s.latch .escLoad else s.setFld Reg.ESC_LOAD_CTL_KIND 0 (bits v 3 1))
  else
    let s1 := s.setFld Reg.ESC_LOAD_CTL_KIND 0 (bits v 3 1)
    if !(bit v 0) then s1
    else State.setFld { s1 with esc := { s1.esc with loading := some (bits v 3 1) } } Reg.ESC_LOAD_CTL_BUSY 0 1

/-- ESC_LOAD_GO. -/
def execEscLoadGo (v : Word) (s : State) : Out :=
  s.run fun s => s.regCmd Blk.esc 0 (rsvBits v 0xF1F) fun s => s.escLoadCtl v.toNat

/-- Verification ends: the image becomes the kind's current image, or is refused. An image that cannot be read fails with
FORMAT (log 45). -/
def State.escLoaded (s : State) : State :=
  match s.esc.loading with
  | none => s
  | some kind =>
    let a := addr64 (s.fld Reg.ESC_LOAD_SRC_LO_ADDR * 64) (s.fld Reg.ESC_LOAD_SRC_HI)
    let (got, s1) := s.engineRead a 98464 14
    let r := match got with
      | some im => escVerify im kind s.fuseSec
      | none => 1
    let s2 : State := { s1 with esc := { s1.esc with loading := none } }
    let s3 := match got with
      | some im => if r = 0 then s2.escInstall kind ⟨Sg.version im, Sg.secVer im, false, Sg.payload im⟩ else s2.latch .escLoad
      | none => s2.latch .escLoad
    (((s3.setFld Reg.ESC_LOAD_CTL_RESULT 0 r).setFld Reg.ESC_LOAD_CTL_BUSY 0 0).intEdge 155).check .escSram

/-- ESC_LOAD_DONE. -/
def execEscLoadDone (s : State) : Out := s.run State.escLoaded

end Sys2Proof.Machine
end

