-- ==== Sys2Proof/Machine/Chars.lean ====
section
/-! DEFINITION. The characters of a panel link (14_panel_link.md, R290-R293, R302): ordered sets, the characters that a port puts
out, and how a lane aligns or locks on those that it receives. -/

namespace Sys2Proof.Machine

/-! ### Ordered sets (Table 14.2) -/

/-- The D character of a byte. -/
def dChar (v : Nat) : LinkChar := ⟨false, BitVec.ofNat 8 v⟩

/-- A K character, followed by D characters. -/
def orderedSet (k : Nat) (ds : List Nat) : List LinkChar := ⟨true, BitVec.ofNat 8 k⟩ :: ds.map dChar

/-- IDLE: K28.5 D21.4 D21.5 D21.5. -/
def idleSet : List LinkChar := orderedSet 0xBC [0x95, 0xB5, 0xB5]

/-- MARK: K28.1, N, and CHK. -/
def markSet (n : Nat) : List LinkChar := orderedSet 0x3C [n % 256, n / 256 % 256, (n % 256) ^^^ (n / 256 % 256) ^^^ 0x5A]

/-- CRC-8 of Table 14.2: one byte into the running value. -/
def crc8Step (c b : Byte) : Byte :=
  (List.range 8).foldl (fun c _ => if c.msb then (c <<< 1) ^^^ 0x07#8 else c <<< 1) (c ^^^ b)

/-- CRC-8: polynomial 0x07, initial value 0, no reflection. -/
def crc8 (bs : Bytes) : Byte := bs.foldl crc8Step 0#8

/-- The six bytes of a training set that its CRC8 covers. -/
def trainBody (t : TrainSet) : List Nat := [t.type, t.pos, t.vers, t.arg0, 0, 0]

/-- The CRC8 of a training set. -/
def trainCheck (t : TrainSet) : Nat := (crc8 ((trainBody t).map (BitVec.ofNat 8))).toNat

/-- A training set that the port sends: ARG0 to ARG2 are 0. -/
def tsSet (type pos vers : Nat) : List LinkChar :=
  let t : TrainSet := { type := type, pos := pos, vers := vers, arg0 := 0, crc := 0 }
  orderedSet 0x7C (trainBody t ++ [trainCheck t])

/-- PROBE of a position. -/
def probeSet (pos : Nat) : List LinkChar := orderedSet 0x5C [pos, 0xB5, 0xB5]

/-- The fill after a link frame (R290): whole IDLE sets, then the first OVH mod 4 characters of one more. -/
def fillChars (ovh : Nat) : List LinkChar :=
  (List.replicate (ovh / 4) idleSet).flatten ++ idleSet.take (ovh % 4)

/-- The characters of a link frame's bytes, SOF to EOF: the first of each of the two sets is a K character. -/
def frameChars (bs : Bytes) : List LinkChar :=
  bs.zipIdx.map fun e => ⟨e.2 == 0 || e.2 + 4 == bs.length, e.1⟩

/-! ### The 4-character grid and MARK (R290, R302) -/

/-- Offsets in a link frame of `n` characters with `ovh` of fill, at which an ordered set may stand: groups of four from the end of SOF,
EOF and each whole IDLE set, and the end of the fill, where SOF or an IDLE set follows. -/
def boundaries (n ovh : Nat) : List Nat :=
  0 :: (((List.range ((n - 8) / 4 + 1)).map fun i => 4 + 4 * i).filter fun o => decide (o + 4 ≤ n)) ++
    (n - 4) :: (List.range (ovh / 4)).map (fun i => n + 4 * i) ++ [n + ovh]

/-- The offset of the first boundary at or after `at_`. -/
def nextBoundary (n ovh at_ : Nat) : Nat := ((boundaries n ovh).find? fun o => decide (at_ ≤ o)).getD (n + ovh)

/-- What a port puts out from now on. -/
def State.emit (s : State) (p : Nat) (cs : List LinkChar) : State := s.setPort p { s.port p with tx := cs, txAt := s.now }

/-! ### Alignment and lock of a lane (R292, R293) -/

/-- What a lane has found in what it received: the lane, code violations counted, and whether it is aligned. -/
structure RxFound where
  lane : Lane
  errs : Nat
  aligned : Bool
  lost : Bool
  deriving DecidableEq, Repr

/-- `n` characters or blocks pass: older violations leave the window of 64. -/
def Lane.age (x : Lane) (n : Nat) : Lane :=
  { x with bad := (x.bad.map (· + n)).filter fun a => decide (a < 64), since := x.since + n }

/-- A tile link lane receives (R292). -/
def RxFound.char (r : RxFound) (c : LaneRx) : RxFound :=
  match c with
  | .good n =>
    let x := r.lane.age n
    { r with lane := x, aligned := r.aligned && decide (x.since < 16384)
             lost := r.lost || (r.aligned && decide (16384 ≤ x.since)) }
  | .comma b =>
    let x := r.lane.age 1
    let n := if x.commas = 0 ∨ x.commaBit ≠ b then 1 else x.commas + 1
    if r.aligned then
      if x.commaBit = b then { r with lane := { x with since := 0 } }
      else { r with lane := x, aligned := decide (x.since < 16384), lost := r.lost || decide (16384 ≤ x.since) }
    else { r with lane := { x with commas := n, commaBit := b, since := 0 }, aligned := decide (3 ≤ n) }
  | .violation =>
    let x := r.lane.age 1
    let y := { x with bad := 0 :: x.bad, commas := 0 }
    let gone := decide (4 ≤ y.bad.length)
    { lane := if r.aligned && gone then { y with bad := [] } else y, errs := r.errs + 1
      aligned := r.aligned && !gone && decide (x.since < 16384)
      lost := r.lost || (r.aligned && (gone || decide (16384 ≤ x.since))) }
  | _ => r

/-- A trunk lane receives (R293): blocks with a valid or an invalid sync header, and alignment markers. -/
def RxFound.block (r : RxFound) (c : LaneRx) : RxFound :=
  match c with
  | .good n =>
    let x := { r.lane.age n with run := r.lane.run + n }
    { r with lane := x, aligned := r.aligned || decide (64 ≤ x.run) }
  | .violation =>
    let x := { r.lane.age 1 with run := 0 }
    let y := { x with bad := 0 :: x.bad }
    let gone := decide (16 ≤ y.bad.length)
    { lane := if r.aligned && gone then { y with bad := [], markerAt := none, missed := 0 } else y, errs := r.errs + 1
      aligned := r.aligned && !gone, lost := r.lost || (r.aligned && gone) }
  | .marker at_ => { r with lane := { r.lane with markerAt := some at_, missed := 0 } }
  | .noMarker =>
    let gone := decide (3 ≤ r.lane.missed + 1)
    { r with lane := if gone then { r.lane with markerAt := none, missed := 0, run := 0 }
                     else { r.lane with missed := r.lane.missed + 1 }
             aligned := r.aligned && !gone, lost := r.lost || (r.aligned && gone) }
  | .comma _ => r

/-- What a lane finds in a run that it receives. -/
def rxRun (trunk aligned : Bool) (x : Lane) (run : List LaneRx) : RxFound :=
  run.foldl (fun r c => if trunk then r.block c else r.char c) ⟨x, 0, aligned, false⟩

end Sys2Proof.Machine
end

