-- ==== Sys2Proof/Machine/Sched.lean ====
section
/-! DEFINITION. The scheduler (13_beats_and_scheduling.md, R269-R286; R300, R301 and R305 at departure; the sampler, R266,
R267): port marks, tile beats, open time, shapers, closes. -/

namespace Sys2Proof.Machine

/-! ### Shapers (R282, R283); time in CCLK cycles -/

/-- Tokens per byte. -/
def kt : Nat := 9600000

/-- CCLK cycle now. -/
def State.cclk (s : State) : Nat := s.now / Clk.cclk

def SchPort.shaper (x : SchPort) (h : Nat) : Shaper := Tab.get {} x.shapers h

def SchPort.setShaper (x : SchPort) (h : Nat) (v : Shaper) : SchPort := { x with shapers := Tab.set x.shapers h v }

/-- fill() of R282; a disabled shaper's balance does not change (R283). -/
def Shaper.fill (h : Shaper) (now : Nat) : Shaper :=
  if !h.enable then h
  else
    let add := h.rate * (now - h.last)
    let room : Int := (h.burst * kt : Nat) - h.bal
    let credited := wrap 64 (h.credit + add)
    if (add : Int) ≤ room then { h with last := now, credit := credited, bal := h.bal + add }
    else { h with last := now, credit := credited, bal := h.bal + room, capped := wrap 64 (h.capped + (add - room).toNat) }

/-- charge() of R282. -/
def Shaper.charge (h : Shaper) (bytes : Nat) : Shaper :=
  if !h.enable then h
  else { h with bal := h.bal - (bytes * kt : Nat), spent := wrap 64 (h.spent + bytes * kt) }

/-- forgive() of R282. -/
def Shaper.forgive (h : Shaper) : Shaper :=
  if h.bal < 0 then { h with forgiven := wrap 64 (h.forgiven + (-h.bal).toNat), bal := 0 } else h

/-- A frame may start under the shaper (R281). -/
def Shaper.open_ (h : Shaper) : Bool := !h.enable || decide (0 ≤ h.bal)

/-- A RATE write: filled at the old rate up to now (R283). -/
def Shaper.setRate (h : Shaper) (now v : Nat) : Shaper := { h.fill now with rate := v % 2 ^ 24 }

/-- A BURST write: filled first, then what is above the new burst is capped (R283). -/
def Shaper.setBurst (h : Shaper) (now v : Nat) : Shaper :=
  let g := h.fill now
  let b : Int := (v % 2 ^ 24 * kt : Nat)
  if b < g.bal then { g with burst := v % 2 ^ 24, bal := b, capped := wrap 64 (g.capped + (g.bal - b).toNat) }
  else { g with burst := v % 2 ^ 24 }

/-- SHAPE_EN, 0 to 1: the balance is set to 0, then filled to the burst, all of it credited (R283). What the balance held
before is settled so that the invariant of R284 holds: a debt is forgiven, a surplus capped (log 40). -/
def Shaper.turnOn (h : Shaper) (now : Nat) : Shaper :=
  if h.enable then h
  else
    let g := h.forgive
    let full := h.burst * kt
    { g with enable := true, bal := full, last := now, credit := wrap 64 (g.credit + full)
             capped := wrap 64 (g.capped + g.bal.toNat) }

/-- SHAPE_EN, 1 to 0: the balance stops changing (R283). -/
def Shaper.turnOff (h : Shaper) (now : Nat) : Shaper := if h.enable then { h.fill now with enable := false } else h

/-- Changes the shaper that SCH_SUB_SEL of a port selects. -/
def State.onShaper (s : State) (p : Nat) (f : Shaper → Shaper) : State :=
  if s.variant.ports ≤ p then s
  else
    let x := s.sport p
    let h := s.fld Reg.SCH_SUB_SEL_SUB p
    s.setSport p (x.setShaper h (f (x.shaper h)))

/-- SHAPER_RATE_WRITE. -/
def execShaperRateWrite (port : Nat) (v : Word) (s : State) : Out :=
  s.run fun s => s.regCmd Blk.sch port (rsvBits v 0xFFFFFF) fun s => s.onShaper port fun h => h.setRate s.cclk v.toNat
/-- SHAPER_BURST_WRITE. -/
def execShaperBurstWrite (port : Nat) (v : Word) (s : State) : Out :=
  s.run fun s => s.regCmd Blk.sch port (rsvBits v 0xFFFFFF) fun s => s.onShaper port fun h => h.setBurst s.cclk v.toNat
/-- SHAPER_FORGIVE. -/
def execShaperForgive (port : Nat) (s : State) : Out :=
  s.run fun s => s.regCmd Blk.sch port 0 fun s => s.onShaper port fun h => (h.fill s.cclk).forgive

/-- A write of SCH_SUB_CFG: the weight, and SHAPE_EN (R283). -/
def State.subCfg (s : State) (p v : Nat) : State :=
  if s.variant.ports ≤ p then s
  else
    let h := s.fld Reg.SCH_SUB_SEL_SUB p
    let x := s.sport p
    let s1 := if h = 257 then s else s.setSport p { x with weight := Tab.set x.weight h (v % 256) }
    s1.onShaper p fun q => if bit v 8 then q.turnOn s.cclk else q.turnOff s.cclk

/-- SHAPER_ENABLE. -/
def execShaperEnable (port : Nat) (v : Word) (s : State) : Out :=
  s.run fun s => s.regCmd Blk.sch port (rsvBits v 0x1FF) fun s => if bit v.toNat 8 then s.subCfg port v.toNat else s
/-- SHAPER_DISABLE. -/
def execShaperDisable (port : Nat) (v : Word) (s : State) : Out :=
  s.run fun s => s.regCmd Blk.sch port (rsvBits v 0x1FF) fun s => if bit v.toNat 8 then s else s.subCfg port v.toNat

/-! ### Port frames (R269, R271, R272) -/

/-- Per-port overhead in the port frame (R285: 0 without an active bank). -/
def SchPort.ovh (x : SchPort) (p : Nat) : Nat := if x.bank.isSome then Port.overhead (Img.port x.image p) else 0

/-- The lane setting in force: of the port frame's image, or PLK_PORT_CFG (R287). -/
def State.laneByte (s : State) (p : Nat) : Nat :=
  let x := s.sport p
  if x.bank.isSome then Port.lane (Img.port x.image p)
  else s.fld Reg.PLK_PORT_CFG_RATE p + 16 * s.fld Reg.PLK_PORT_CFG_CLASS p

/-- Time units that n byte slots take on a port at its nominal rate, rounded up. -/
def State.slotUnits (s : State) (p n : Nat) : Nat := (n * 9600000000 + slotRate (s.laneByte p) - 1) / slotRate (s.laneByte p)

/-- Lane time since an instant of the port's frame, without what was no lane time of byte slots (R269). -/
def State.laneTime (s : State) (p at_ : Nat) : Nat :=
  let x := s.sport p
  (if s.inData p then at_ else max (s.port p).outSince x.markAt) - x.markAt - x.skipped

/-- The byte slot of the port's frame at an instant (R269). -/
def State.slotAt (s : State) (p at_ : Nat) : Nat := s.laneTime p at_ * slotRate (s.laneByte p) / 9600000000

/-- Tiles of the image that the port carries dark in its port frame: the tile itself, or (+ 2^16) only the port's mirror
receiver (R145, R305). -/
def State.darkOn (s : State) (k : Nat) (im : Bytes) (p : Nat) : List Nat :=
  (Img.tiles im).filterMap fun e =>
    if !((Img.carriers im e).contains p) then none
    else if !(s.litFor k e) then some (Tile.id e)
    else if p ≠ Tile.port e ∧ !(s.mirrorLitFor k e p) then some (Tile.id e + 65536)
    else none

/-- The tiles that an image's beats name on a port. -/
def Img.tilesOn (im : Bytes) (p : Nat) : List Nat :=
  (((Img.beats im p).filter fun b => Beat.kind b == 0).map Beat.tile).eraseDups

/-! ### Closes (R277, R230) -/

/-- A tile closes on a port: queued frames count in SCH_WAIT_FIT, and with the last close the notice goes to the encoder. -/
def State.closeTile (s : State) (p t : Nat) : State :=
  let x := s.sport p
  let k := s.fld Reg.SCH_PFRAME p
  if x.closed.contains t ∨ x.bank.isNone then s
  else
    let wait := (x.tileQ.filter fun f => f.tile == t && f.frame == k).length
    let s1 := (s.setSport p { x with closed := t :: x.closed }).count Reg.SCH_WAIT_FIT p wait
    match Img.tile x.image t with
    | none => s1
    | some e =>
      let all := (⟨t, k, p, Tab.get 0 x.sent t⟩ : TileClose) :: s1.sch.closes
      let mine := all.filter fun c => c.tile == t && c.frame == k
      let ps := s1.closers k x.image e
      if ps.all fun q => mine.any fun c => c.port == q then
        let sent := (mine.filter fun c => ps.contains c.port).foldl (fun m c => min m c.sent) (2 ^ 24)
        State.notice { s1 with sch := { s1.sch with closes := all.filter fun c => !(c.tile == t && c.frame == k) } } t k sent
      else { s1 with sch := { s1.sch with closes := all.filter fun c => frameLe (frameAdd k (2 ^ 32 - 4)) c.frame } }

/-- TILE_CLOSE: once the last tile beat of the tile in the port frame has ended. -/
def State.tileClose (s : State) (p t : Nat) : State :=
  let x := s.sport p
  match (Img.tileBeats x.image p t).getLast? with
  | some b => if x.running ∧ Beat.fin b ≤ s.slotAt p s.now then s.closeTile p t else s
  | none => s

/-- TILE_CLOSE. -/
def execTileClose (port tile : Nat) (s : State) : Out := s.run fun s => s.tileClose port tile

/-! ### The port mark -/

/-- The port frame that comes next: the first one is that of the current frame. -/
def State.nextPframe (s : State) (p : Nat) : Nat :=
  if (s.sport p).running then frameAdd (s.fld Reg.SCH_PFRAME p) 1 else s.frameCount

/-- Closes, late drops and cuts of the port frame that ends. -/
def State.endPframe (s : State) (p k : Nat) (offset : Nat) : State :=
  let s1 := (Img.tilesOn (s.sport p).image p).foldl (fun t i => t.closeTile p i) s
  let x := s1.sport p
  let late := x.tileQ.filter fun f => !(frameLe k f.frame)
  let s2 := late.foldl (fun t f => t.dropLate p f)
    (s1.setSport p { x with tileQ := x.tileQ.filter fun f => frameLe k f.frame })
  let s3 := if x.busyUntil > s.now then (s2.count Reg.SCH_CUT p).latch .schCut p else s2
  if x.bank.isSome ∧ k = s.fld Reg.CLB_SWAP_FRAME ∧ offset < x.offset then s3.count Reg.SCH_CUT p else s3

/-- PORT_MARK (R271, R272): the port's next port frame starts. -/
def State.portMark (s : State) (p : Nat) : State :=
  let k := s.nextPframe p
  let tag := s.tagOf k
  let im := (tag.map (·.2)).getD []
  let offset := if tag.isSome then Dir.offset (Img.dir im p) else 0
  if s.variant.ports ≤ p ∨ !s.wound ∨ !(frameLe k s.frameCount) ∨ s.now < s.markTime k + offset * Clk.cclk then s
  else
    let s1 := if (s.sport p).running then s.endPframe p k offset else s
    let x := s1.sport p
    let y : SchPort := { x with running := true, markAt := s.now, skipped := 0, bank := tag.map (·.1), image := im, offset := offset
                                dark := s1.darkOn k im p, blanked := [], sent := [], closed := [], tableBad := false }
    let s2 := (s1.setSport p y).setFld Reg.SCH_PFRAME p k
    let busy := if s.now < x.busyUntil then
        ((x.busyUntil - s.now) * slotRate (s2.laneByte p) + 9599999999) / 9600000000 + y.ovh p
      else 0
    s2.setSport p { y with free := busy }

/-- A parity error in a port's beat table (R286). -/
def State.tableParity (s : State) (p : Nat) : State :=
  if s.variant.ports ≤ p ∨ !(s.sport p).running then s
  else (s.setSport p { s.sport p with tableBad := true }).latch .schTable p

/-- The port's mark, then the parity check of the beat table it loaded (R286, R372). -/
def State.portMarkChecked (s : State) (p : Nat) : State :=
  let s1 := s.portMark p
  match s1.takeInject .schTable p with
  | some t => t.tableParity p
  | none => s1

/-- PORT_MARK. -/
def execPortMark (port : Nat) (s : State) : Out := s.run fun s => s.portMarkChecked port

/-- BEAT_TABLE_PARITY. -/
def execBeatTableParity (port : Nat) (s : State) : Out := s.run fun s => s.tableParity port

/-! ### Departure: what a frame does as it leaves -/

/-- Credits that a frame takes (R301). -/
def LinkFrame.credits (f : LinkFrame) : Nat := (f.len + 255) / 256

/-- The port is a trunk. -/
def State.trunk (s : State) (p : Nat) : Bool := laneClass (s.port p).lane != 0

/-- The frame has the trunk credits it needs (R301). -/
def State.credited (s : State) (p : Nat) (f : LinkFrame) : Bool := !(s.trunk p) || decide (f.credits ≤ (s.port p).held)

/-- A frame's first wait for credits (R301). -/
def State.stall (s : State) (p : Nat) : State :=
  let y := s.port p
  if y.stalled then s else (s.setPort p { y with stalled := true }).count Reg.PLK_CR_STALL p

/-- Credits are spent at a frame's start (R301). -/
def State.spend (s : State) (p : Nat) (f : LinkFrame) : State :=
  let y := s.port p
  if s.trunk p then
    s.setPort p { y with held := y.held - f.credits, spent := wrap 64 (y.spent + f.credits), stalled := false }
  else s

/-- SAMPLE_TAKE and SAMPLE_COMMIT (R266, R267): a frame in pool buffers departs on a port. -/
def State.sample (s : State) (p : Nat) (f : LinkFrame) : State :=
  let n := s.fld Reg.SWC_PORT_SMP_N p
  match f.bufs with
  | [] => s
  | b :: _ =>
    if n = 0 then s
    else
      let x := s.swout p
      if x.since + 1 < n then s.setSwout p { x with since := x.since + 1 }
      else
        let s1 := s.setSwout p { x with since := 0 }
        let dest := s.flag Reg.SWC_SMP_CTL_DEST
        let g := s.fld Reg.SWC_SMP_CTL_REG
        let o := if dest then 8 + g else 3
        let over_ := fun o => decide (s.fld Reg.BPM_QUOTA_QUOTA o ≤ s.use o)
        if !s.flag Reg.SWC_SMP_CTL_EN ∨ 15 ≤ (s.buf b).shares ∨ s.variant.regulators ≤ g then s1
        else if over_ 3 ∨ over_ o then s1.count Reg.SWC_SMP_DROP
        else
          let s2 := ((s1.held o 1 0).setBuf b { s1.buf b with shares := (s1.buf b).shares + 1 }).count Reg.SWC_SMP_TAKEN
          let c : LinkFrame := { f with len := min f.len 256, bufs := [b], dreg := g }
          let out := if dest then 65 else 64
          let s3 := s2.audIn out c.cells
          if dest then s3.rxDeliver g c 64 (decide (256 < f.len)) f.len
          else (s3.sampleCommit p f [b] (f.data.take 256)).audOut 64 c.cells

/-- A link frame leaves the port at a slot: sampled, its buffers released, the lane taken until it ends. -/
def State.depart (s : State) (p slot : Nat) (f : LinkFrame) (tx : Bytes) : State :=
  let s1 := (s.sample p f).spend p f
  let s2 := if f.bufs = [] then s1
    else ((s1.releaseAll (f.holder p) f.bufs).audOut p f.cells).count Reg.SWC_PORT_FRAMES p
  let x := s2.sport p
  (s2.setSport p { x with free := slot + f.len + x.ovh p, busyUntil := s.now + s.slotUnits p f.len, lastTx := tx }).emit p
    (frameChars tx ++ fillChars (x.ovh p))

/-- Chain position of a tile on a port (R300). -/
def Img.posOn (im e : Bytes) (p : Nat) : Nat :=
  if p = Tile.port e then Tile.pos e
  else (((Img.mirrors im).find? fun m => Mirror.tile m == Tile.id e && Mirror.port m == p).map Mirror.pos).getD 0

/-- A tile's link frame leaves (R276, R300): DEST is the tile's position on the port. -/
def State.departTile (s : State) (p slot : Nat) (im e : Bytes) (f : LinkFrame) : State :=
  let x := s.sport p
  let n := Tab.get 0 x.sent f.tile
  let y : SchPort := { x with
    tileQ := x.tileQ.eraseP fun g => g.tile == f.tile && g.frame == f.frame
    sent := if f.frag = n then Tab.set x.sent f.tile (n + f.payload) else x.sent }
  (s.setSport p y).depart p slot f (withDest f.data (Img.posOn im e p))

/-- The BLANK of a dark tile leaves (R305). -/
def State.departBlank (s : State) (p slot k t : Nat) (im e : Bytes) : State :=
  let data := linkBytes 1 0 false false (Img.posOn im e p) 0 t 0 0 (k % 65536) 0 []
  let f : LinkFrame := { len := data.length, tile := t, frame := k, data := data }
  let x := s.sport p
  (s.setSport p { x with blanked := t :: x.blanked }).depart p slot f data

/-! ### Open time (R278, R280, R281) -/

def SchPort.weightOf (x : SchPort) (h : Nat) : Nat := Tab.get 1 x.weight h

/-- Classes of a subscriber that hold a frame. -/
def SchPort.backlog (x : SchPort) (h : Nat) : List Nat := (List.range 4).filter fun c => x.leaf (leafKey h c) != []

/-- An open period: its first free slot, its end and the port's overhead. -/
structure OpenTime where
  slot : Nat
  fin : Nat
  ovh : Nat
  deriving DecidableEq, Repr

/-- A frame of cost L + OVH fits an open period. -/
def OpenTime.fits (o : OpenTime) (f : LinkFrame) : Bool := decide (o.slot + f.len + o.ovh ≤ o.fin)

/-- The lowest eligible class of a subscriber, with its head frame (R281); `cr` answers for the trunk's credits. -/
def SchPort.eligible (x : SchPort) (o : OpenTime) (cr : LinkFrame → Bool) (h : Nat) : Option LinkFrame :=
  if !((x.shaper h).open_ && (x.shaper 257).open_) then none
  else ((x.backlog h).filterMap fun c => (x.leaf (leafKey h c)).head?).find? fun f => o.fits f && cr f

/-- pick() of R281: the frame to send, and the port's pointers and deficits after it. -/
def SchPort.pick (x : SchPort) (o : OpenTime) (cr : LinkFrame → Bool) (fair : Bool) : Nat → Option LinkFrame × SchPort
  | 0 => (none, x)
  | n + 1 =>
    let h := x.ptr
    let moved : SchPort := { x with ptr := (h + 1) % 257, fresh := true }
    match (if x.weightOf h = 0 then none else x.eligible o cr h) with
    | none =>
      let y : SchPort := if x.backlog h = [] then { moved with dfc := Tab.set moved.dfc h 0 } else moved
      SchPort.pick y o cr fair n
    | some f =>
      let w := x.weightOf h * (if fair then (x.backlog h).length else 1)
      let d := Tab.get 0 x.dfc h + (if x.fresh then 8192 * w else 0)
      let cost := f.len + o.ovh
      if cost ≤ d then (some f, { x with fresh := false, dfc := Tab.set x.dfc h (d - cost) })
      else SchPort.pick { moved with dfc := Tab.set moved.dfc h d } o cr fair n

/-- Every enabled shaper of the port is filled to now. -/
def SchPort.fillAll (x : SchPort) (now : Nat) : SchPort := { x with shapers := x.shapers.map fun h => (h.1, h.2.fill now) }

/-- The chosen open frame leaves its leaf; the shapers on its path are charged. -/
def SchPort.take (x : SchPort) (f : LinkFrame) (ovh : Nat) (borrow : Bool) : SchPort :=
  let k := leafKey f.sub f.cls
  let y := (x.setShaper f.sub ((x.shaper f.sub).charge (f.len + ovh)))
  let z := y.setShaper 257 ((y.shaper 257).charge (f.len + ovh))
  { z with leaves := Tab.set z.leaves k (z.leaf k).tail, openBytes := z.openBytes + f.len
           borrowBytes := z.borrowBytes + (if borrow then f.len else 0) }

/-- A port is free in open time (R281). -/
def State.openStep (s : State) (p : Nat) (o : OpenTime) (borrow : Bool) : State :=
  let x := (s.sport p).fillAll s.cclk
  let fair := s.flag Reg.SCH_PORT_CTL_LEAF_FAIR p
  match x.pick o (s.credited p) fair 257 with
  | (some f, y) =>
    let z := y.take f o.ovh borrow
    let s1 := (s.setSport p z).depart p o.slot f f.data
    (s1.setFld Reg.SCH_OPEN_KIB p (z.openBytes / 1024)).setFld Reg.SCH_BORROW_KIB p (z.borrowBytes / 1024)
  | (none, y) =>
    let s1 := s.setSport p y
    match (x.pick o (fun _ => true) fair 257).1 with
    | some _ => s1.stall p
    | none => s1

/-! ### LINK_FRAME_DEPART -/

/-- Every link frame of the tile's picture of frame k has departed on this port (R278). -/
def State.allSent (s : State) (p t k : Nat) : Bool :=
  (s.mzt t).out.any fun q => q.frame == k && decide (q.used ≤ Tab.get 0 (s.sport p).sent t)

/-- A slot of a tile beat: the BLANK, the tile's next link frame, or borrowed open time. -/
def State.tileBeat (s : State) (p slot k : Nat) (im b : Bytes) : State :=
  let t := Beat.tile b
  let x := s.sport p
  let ovh := x.ovh p
  match Img.tile im t with
  | none => s
  | some e =>
    let carries := (Img.carriers im e).contains p
    let dark := x.dark.contains t
    let blank := !x.tableBad && carries && (dark || x.dark.contains (t + 65536)) && !(x.blanked.contains t) &&
      (Img.tileBeats im p t).head? == some b
    if blank && decide (slot + 32 + ovh ≤ Beat.fin b) then
      if s.trunk p && (s.port p).held == 0 then s.stall p else s.departBlank p slot k t im e
    else
      let head := if dark || x.dark.contains (t + 65536) || x.tableBad || x.closed.contains t then none
        else x.tileQ.find? fun f => f.tile == t && f.frame == k
      match head with
      | some f =>
        if Beat.fin b < slot + f.len + ovh then s
        else if s.credited p f then s.departTile p slot im e f else s.stall p
      | none =>
        if Dir.borrow (Img.dir im p) && (dark || !carries || s.allSent p t k) && !x.tableBad then
          s.openStep p ⟨slot, Beat.fin b, ovh⟩ true
        else s

/-- LINK_FRAME_DEPART: the port, free at the slot that its lane has come to, starts what the slot's beat lets it start. Without an
active bank the whole port frame, up to the next 60 Hz mark, is one open period (R285). -/
def State.linkDepart (s : State) (p slot : Nat) : State :=
  let x := s.sport p
  let k := s.fld Reg.SCH_PFRAME p
  if s.variant.ports ≤ p ∨ !x.running ∨ slot < x.free ∨ slot ≠ s.slotAt p s.now ∨ !(s.inData p) then s
  else if x.bank.isNone then s.openStep p ⟨slot, s.slotAt p s.clb.nextMark, 0⟩ false
  else match (Img.beats x.image p).find? fun b => decide (Beat.start b ≤ slot) && decide (slot < Beat.fin b) with
    | none => s
    | some b =>
      if Beat.kind b = 0 then s.tileBeat p slot k x.image b
      else s.openStep p ⟨slot, Beat.fin b, x.ovh p⟩ false

/-- LINK_FRAME_DEPART. -/
def execLinkFrameDepart (port slot : Nat) (s : State) : Out :=
  s.run fun s => (s.linkDepart port slot).check .schSram port

end Sys2Proof.Machine
end

