-- ==== Sys2Proof/Machine/Link.lean ====
section
/-! DEFINITION. The panel link's ports and lanes (14_panel_link.md, R287-R302, R311-R313): settings, training, leaving DATA,
retraining, credits, modules, lane tests. -/

namespace Sys2Proof.Machine

/-- Panel link events (R315). -/
def State.plkEvent (s : State) (code source : Nat) (args : List Nat) : State :=
  s.event Reg.PLK_EVQ_RING Reg.PLK_EVQ_EN code Blk.plk source args

def State.lane (s : State) (l : Nat) : Lane := Tab.get {} s.plk.lanes l

def State.setLane (s : State) (l : Nat) (x : Lane) : State :=
  { s with plk := { s.plk with lanes := Tab.set s.plk.lanes l x } }

/-! ### Settings (R287, R288, R298) -/

/-- PLK_PORT_CFG as a lane byte. -/
def State.cfgLane (s : State) (p : Nat) : Nat := s.fld Reg.PLK_PORT_CFG_RATE p + 16 * s.fld Reg.PLK_PORT_CFG_CLASS p

/-- PLK_PORT_CFG holds settings that a port can train with (R298). -/
def State.cfgOk (s : State) (p : Nat) : Bool :=
  let b := s.cfgLane p
  let n := laneCount (laneClass b)
  s.flag Reg.PLK_PORT_CFG_EN p && laneOk b && s.fld Reg.PLK_PORT_CFG_VERS p != 0 &&
  (p % n == 0 && decide (p + n ≤ s.variant.ports) &&
    (List.range (n - 1)).all fun i => !s.flag Reg.PLK_PORT_CFG_EN (p + 1 + i))

/-- A lane that can serve a port: it passed self-test and its quad is ON (Tables 18.6, 20.5). -/
def State.laneOk (s : State) (l : Nat) : Bool :=
  !(bit (if l < 32 then s.fld Reg.BST_LANE_FAIL_LO else s.fld Reg.BST_LANE_FAIL_HI) (l % 32)) &&
  s.domOn (42 + l / 4) && s.pageEnabled Blk.lne l

/-- The lane byte and version bits that a port is to use; none where it is DISABLED (Table 14.3). -/
def State.portCfg (s : State) (p : Nat) : Option (Nat × Nat) :=
  let cfg :=
    if s.variant.ports ≤ p ∨ !(s.pageEnabled Blk.plk p) then none
    else match s.activeImg with
      | some im => if Port.enable (Img.port im p) then some (Port.lane (Img.port im p), Port.versions (Img.port im p)) else none
      | none => if s.cfgOk p then some (s.cfgLane p, 2 * s.fld Reg.PLK_PORT_CFG_VERS p) else none
  cfg.bind fun c => if (List.range (laneCount (laneClass c.1))).all fun i => s.laneOk (p + i) then some c else none

/-- A line of a module bus failed self-test (Table 18.6), or the variant does not drive the bus (R436). -/
def State.busBad (s : State) (b : Nat) : Bool :=
  decide (s.variant.ports ≤ 8 * b) || bits (s.fld Reg.BST_I2C_FAIL) (2 * b + 1) (2 * b) != 0

/-- The lanes of a port (R288). -/
def State.lanesOf (s : State) (p : Nat) : List Nat := (List.range (laneCount (laneClass (s.port p).lane))).map (p + ·)

/-- The port that a lane serves, if one that is not DISABLED does. -/
def State.portOfLane (s : State) (l : Nat) : Option Nat :=
  ((List.range 8).map (l - ·)).find? fun p =>
    (s.port p).state != 0 && decide (p ≤ l) && decide (l < p + laneCount (laneClass (s.port p).lane))

/-! ### Leaving DATA (R264, R295, R310) -/

/-- Every copy of the port, queued or crossing, and every queued open frame goes. -/
def State.dropPort (s : State) (p : Nat) : State :=
  let x := s.sport p
  let open_ := (x.leaves.flatMap (·.2)).filter fun f => f.bufs != []
  let s1 := s.setSport p { x with tileQ := [], leaves := [] }
  let s2 := (x.tileQ ++ open_).foldl (fun t f => t.dropCopy p f) s1
  (s2.swc.ins.map (·.1)).foldl (fun t i => t.dropCrossing i p) s2

/-- Identity reads end: FRESH reads with STATE, the engine stops (R295, R309, R310). -/
def State.stopIdent (s : State) (p : Nat) : State :=
  let y := s.port p
  let jobs := y.pos.flatMap fun q => q.2.fresh.map (·.job)
  let pos := y.pos.map fun q => (q.1, ({ q.2 with engine := 0, tries := 0, good := false, fresh := [] } : Position))
  jobs.foldl (fun t j => t.finish j St.state) (s.setPort p { y with pos := pos })

/-! ### Pattern checkers (R313) -/

/-- Line rate of a lane in bits per second (Table 14.1). -/
def lineRate (b : Nat) : Nat :=
  match laneRate b with
  | 8 => 10312500000
  | 9 => 12500000000
  | 10 => 16000000000
  | _ => 10 * slotRate b

/-- Bits that a lane's checker has checked since CHK_EN was set. -/
def State.prbsBits (s : State) (l : Nat) : Nat :=
  let x := Tab.get {} s.plk.lanes l
  match x.chkAt with
  | none => x.chkBits
  | some t => x.chkBits + (s.now - t) * lineRate (s.port ((s.portOfLane l).getD l)).lane / 9600000000

/-- LNE_PRBS_ERR: the errors counted, and one for every 2^(n + 9) bits since INJ_RATE n (1 to 22) was set; it saturates. -/
def State.prbsErr (s : State) (l : Nat) : Nat :=
  let x := Tab.get {} s.plk.lanes l
  let n := s.fld Reg.LNE_TEST_INJ_RATE l
  satur 32 (s.fld Reg.LNE_PRBS_ERR l + (if 1 ≤ n ∧ n ≤ 22 then (s.prbsBits l - x.injFrom) / 2 ^ (n + 9) else 0))

/-- The counts of a lane so far are taken into its registers, and its checker goes on, or stops. -/
def State.prbsSettle (s : State) (l : Nat) (on : Bool) : State :=
  let x := Tab.get {} s.plk.lanes l
  let n := s.prbsBits l
  let s1 := s.setFld Reg.LNE_PRBS_ERR l (s.prbsErr l)
  let y : Lane := { x with chkBits := n, injFrom := n, chkAt := if on then some s.now else none }
  { s1 with plk := { s1.plk with lanes := Tab.set s1.plk.lanes l y } }

/-- The checker sees the lane's own pattern: near-end loopback with generator and checker on; far-end loopback and a peer's pattern
bring none (log 42). -/
def State.prbsOwn (s : State) (l : Nat) : Bool :=
  s.flag Reg.LNE_TEST_GEN_EN l && s.flag Reg.LNE_TEST_CHK_EN l && s.fld Reg.LNE_TEST_LOOP l == 1 &&
  s.fld Reg.LNE_TEST_PATTERN l != 0

/-- LNE_TEST acts only in TEST (R313): the checkers of a port's lanes run from its entry to its end. -/
def State.prbsPort (s : State) (p : Nat) (on : Bool) : State :=
  (List.range s.variant.ports).foldl (fun t l =>
    if t.portOfLane l ≠ some p then t
    else (t.prbsSettle l (on && t.prbsOwn l)).setFld Reg.LNE_TEST_CHK_LOCK l (b2n (on && t.prbsOwn l))) s

/-- A change of STATE, with LINK_STATE (R295). -/
def State.setPortState (s : State) (p new cause : Nat) : State :=
  let y := s.port p
  if y.state = new then s
  else
    let x := s.sport p
    let sT := if y.state = 4 then s.prbsPort p false else if new = 4 then s.prbsPort p true else s
    let s0 := if new = 3 then sT.setSport p { x with skipped := x.skipped + (s.now - max y.outSince x.markAt) } else sT
    let s1 := s0.setPort p { y with state := new, outSince := if y.state = 3 then s.now else y.outSince }
    let s2 := if y.state = 3 then (s1.dropPort p).stopIdent p else s1
    s2.plkEvent 0x0F01 p [new, y.state, cause, y.receivers]

/-! ### Training (R296-R298, Table 14.4) -/

/-- Step 1 happens once the port may start (R298): TS TYPE 1 goes out. -/
def State.trainStep1 (s : State) (p : Nat) : State :=
  let y := s.port p
  let recent := y.starts.filter fun t => decide (s.now < t + 1000 * Clk.ms)
  if y.state ≠ 2 ∨ y.step ≠ 1 ∨ (8 < recent.length ∧ s.now < y.stepAt + 1000 * Clk.ms) then s
  else (s.setPort p { y with step := 2, stepAt := s.now, starts := s.now :: recent }).emit p (tsSet 1 0 y.vers)

/-- Sets a lane's status bits. -/
def State.laneBits (s : State) (on deskewed : Bool) (l : Nat) : State :=
  (((s.setFld Reg.LNE_STATUS_SIGNAL l (b2n on)).setFld Reg.LNE_STATUS_LOCK l (b2n on)).setFld Reg.LNE_STATUS_ALIGNED l
    (b2n on)).setFld Reg.LNE_STATUS_DESKEWED l (b2n (on && deskewed))

/-- The port trains: it enters TRAIN, the last training's results and the trunk's credits go (R296, R301). -/
def State.retrain (s : State) (p cause : Nat) : State :=
  let s1 := s.setPortState p 2 cause
  let y := s1.port p
  let keep := fun (q : Position) => ({ record := q.record, recFrame := q.recFrame, crcErrors := 0 } : Position)
  let s2 := s1.setPort p { y with step := 1, stepAt := s.now, cause := cause, receivers := 0, held := 0, rcvd := 0, spent := 0
                                  stalled := false, pos := y.pos.map fun q => (q.1, keep q.2) }
  ((s2.lanesOf p).foldl (State.laneBits · false false) s2).trainStep1 p

/-- The port takes up its settings as they now are (R298): disabled, trained, retrained, or unchanged. -/
def State.applyCfg (s : State) (p cause : Nat) : State :=
  let y := s.port p
  match s.portCfg p with
  | none => s.setPortState p 0 1
  | some (b, v) =>
    let s1 := s.setPort p { y with lane := b, vers := v }
    if y.state = 0 then
      if s.flag Reg.PLK_PORT_CTL_TEST p then s1.setPortState p 4 6 else s1.retrain p 1
    else if y.state = 4 ∨ (y.lane = b ∧ y.vers = v) then s1
    else s1.retrain p cause

/-- PORT_TRAIN_START: a port that is enabled starts, or one that had to wait 1 s does (R298). -/
def State.portTrainStart (s : State) (p : Nat) : State :=
  if (s.port p).state = 0 then s.applyCfg p 1 else s.trainStep1 p

/-- PORT_TRAIN_START. -/
def execPortTrainStart (port : Nat) (s : State) : Out := s.run fun s => if s.wound then s.portTrainStart port else s

/-- Step 2a. -/
def State.alignTimeout (s : State) (p : Nat) : State :=
  let y := s.port p
  if y.state ≠ 2 ∨ y.step ≠ 2 ∨ s.now < y.stepAt + 10 * Clk.ms then s
  else
    let s1 := s.setPortState p 1 7
    ((s1.setPort p { s1.port p with downAt := s.now }).count Reg.PLK_TRAIN_FAIL p).latch .plkTrain p

/-- TRAIN_ALIGN_TIMEOUT. -/
def execTrainAlignTimeout (port : Nat) (s : State) : Out := s.run fun s => s.alignTimeout port

/-- 100 ms in DOWN have passed. -/
def State.retryTimer (s : State) (p : Nat) : State :=
  let y := s.port p
  if y.state ≠ 1 ∨ s.now < y.downAt + 100 * Clk.ms then s else s.retrain p y.cause

/-- TRAIN_RETRY_TIMER. -/
def execTrainRetryTimer (port : Nat) (s : State) : Out := s.run fun s => s.retryTimer port

/-- The highest common version (R297); 0 for none. -/
def commonVersion (a b : Nat) : Nat := if bit (a &&& b) 3 then 3 else if bit (a &&& b) 2 then 2 else if bit (a &&& b) 1 then 1 else 0

/-- The first position at or after q with a version, or N (step 4). -/
def PlkPort.nextConfirm (y : PlkPort) : Nat → Nat → Nat
  | q, 0 => q
  | q, n + 1 => if y.receivers ≤ q then y.receivers else if (Tab.get {} y.pos q).version ≠ 0 then q else PlkPort.nextConfirm y (q + 1) n

/-- The TYPE 3 set of a position: VERS is the single bit of its version. -/
def State.askConfirm (s : State) (p q : Nat) : State := s.emit p (tsSet 3 q (2 ^ (s.posn p q).version))

/-- The PROBE that goes out next in step 5: of the first position with a version that has fewer than 16 round trips. -/
def State.probeNext (s : State) (p : Nat) : State :=
  let y := s.port p
  match (List.range y.receivers).find? fun q => (s.posn p q).version != 0 && decide ((s.posn p q).trips.length < 16) with
  | some q => s.emit p (probeSet q)
  | none => s

/-- Step 4 goes on to the next position, or ends in step 5. -/
def State.confirmNext (s : State) (p q : Nat) : State :=
  let y := s.port p
  let c := y.nextConfirm q 257
  let s1 := s.setPort p { y with step := if c < y.receivers then 4 else 5, stepAt := s.now, confirm := c, tries := 0 }
  if c < y.receivers then s1.askConfirm p c else s1.probeNext p

/-- Collection is over: N is fixed, each position's version is chosen (step 3, R297). -/
def State.collected (s : State) (p : Nat) : State :=
  let y := s.port p
  let pos := y.pos.map fun q => (q.1, ({ q.2 with version := commonVersion y.vers q.2.offered } : Position))
  (s.setPort p { y with pos := pos }).confirmNext p 0

/-- The spread of the arrival of a trunk's markers, of the lanes that hold one. -/
def State.skewOf (s : State) (p : Nat) : Nat :=
  let ats := (s.lanesOf p).filterMap fun l => (s.lane l).markerAt
  ats.foldl max 0 - ats.foldl min (ats.foldl max 0)

/-- TS TYPE 2 (step 3), with a good CRC8. A set is received on aligned lanes only, so that the port's lanes are aligned by now (step 2);
a trunk whose markers spread over more than 200 ns stays in training (R293). -/
def State.tsType2 (s : State) (p : Nat) (set : TrainSet) : State :=
  let y := s.port p
  let q := set.pos
  let vers := set.vers
  let last := bit set.arg0 0
  if y.state ≠ 2 ∨ (y.step ≠ 2 ∧ y.step ≠ 3) ∨ 255 < q ∨ set.type ≠ 2 ∨ set.crc ≠ trainCheck set ∨ 200 < s.skewOf p then s
  else
    let x : Position := Tab.get {} y.pos q
    let s0 := if y.step = 2 then (s.lanesOf p).foldl (State.laneBits · true (laneClass y.lane != 0)) s else s
    let fresh := decide (y.receivers ≤ q)
    let s1 := s0.setPort p { y with
      step := 3, stepAt := if fresh || y.step == 2 then s.now else y.stepAt, receivers := max y.receivers (q + 1)
      pos := Tab.set y.pos q { x with offered := vers % 16 } }
    if last then s1.collected p else s1

/-- TS_TYPE2_RECEIVED. -/
def execTsType2Received (port pos vers : Nat) (rest : TrainRest) (s : State) : Out :=
  s.run fun s => s.tsType2 port ⟨rest.type, pos, vers, rest.arg0, rest.crc⟩

/-- No new position for 4 ms. -/
def State.collectTimeout (s : State) (p : Nat) : State :=
  let y := s.port p
  if y.state ≠ 2 ∨ y.step ≠ 3 ∨ s.now < y.stepAt + 4 * Clk.ms then s else s.collected p

/-- POSITION_COLLECT_TIMEOUT. -/
def execPositionCollectTimeout (port : Nat) (s : State) : Out := s.run fun s => s.collectTimeout port

/-- TS TYPE 4 (step 4), with a good CRC8: the position confirms the version it was sent. -/
def State.tsType4 (s : State) (p : Nat) (set : TrainSet) : State :=
  let y := s.port p
  let q := set.pos
  let x := s.posn p q
  if y.state ≠ 2 ∨ y.step ≠ 4 ∨ y.confirm ≠ q ∨ set.vers ≠ 2 ^ x.version ∨ set.type ≠ 4 ∨ set.crc ≠ trainCheck set then s
  else (s.setPosn p q { x with confirmed := true }).confirmNext p (q + 1)

/-- TS_TYPE4_RECEIVED. -/
def execTsType4Received (port pos : Nat) (set : TrainVers) (s : State) : Out :=
  s.run fun s => s.tsType4 port ⟨set.rest.type, pos, set.vers, set.rest.arg0, set.rest.crc⟩

/-- 1 ms without TYPE 4: tried three times, then v(p) = 0. -/
def State.confirmTimeout (s : State) (p q : Nat) : State :=
  let y := s.port p
  if y.state ≠ 2 ∨ y.step ≠ 4 ∨ y.confirm ≠ q ∨ s.now < y.stepAt + Clk.ms then s
  else if y.tries < 2 then (s.setPort p { y with tries := y.tries + 1, stepAt := s.now }).askConfirm p q
  else (s.setPosn p q { s.posn p q with version := 0 }).confirmNext p (q + 1)

/-- VERSION_CONFIRM_TIMEOUT. -/
def execVersionConfirmTimeout (port pos : Nat) (s : State) : Out := s.run fun s => s.confirmTimeout port pos

/-- An ECHO (step 5). -/
def State.echo (s : State) (p q rt : Nat) : State :=
  let y := s.port p
  let x := s.posn p q
  if y.state ≠ 2 ∨ y.step ≠ 5 ∨ x.version = 0 ∨ 16 ≤ x.trips.length then s
  else (s.setPosn p q { x with trips := x.trips ++ [rt] }).probeNext p

/-- ECHO_RECEIVED. -/
def execEchoReceived (port pos rtNs : Nat) (s : State) : Out := s.run fun s => s.echo port pos rtNs

/-- A number put into a rising list. -/
def insertRising (x : Nat) : List Nat → List Nat
  | [] => [x]
  | y :: ys => if x ≤ y then x :: y :: ys else y :: insertRising x ys

/-- The median; of an even count the mean of the middle two (log 41). -/
def median (xs : List Nat) : Nat :=
  let s := xs.foldr insertRising []
  let n := s.length
  if n % 2 = 1 then s.getD (n / 2) 0 else (s.getD (n / 2 - 1) 0 + s.getD (n / 2) 0) / 2

/-- Lat(p) (R303); of a position none of whose probes came back it is a free value (log 8). -/
def State.latency (s : State) (x : Position) : Int × State :=
  if x.version = 0 then (0, s)
  else if x.trips = [] then (((s.freeWord.1 % 65536 : Nat) : Int), s.freeWord.2)
  else (((median x.trips : Nat) - 100 : Int).tdiv 2, s)

/-- Lat(p) of every position. -/
def State.latencies (s : State) (p : Nat) : State :=
  ((s.port p).pos.map (·.1)).foldl (fun t q =>
    let (l, t1) := t.latency (t.posn p q)
    t1.setPosn p q { t1.posn p q with latNs := l }) s

/-! ### Lanes: alignment, FOM, PLL (R292, R293, R298, R312) -/

/-- A lane loses alignment or lock; a port in DATA retrains. -/
def State.alignLoss (s : State) (l : Nat) : State :=
  if s.variant.ports ≤ l then s
  else
    let s1 := ((s.laneBits false false l).count Reg.LNE_ALIGN_LOSS l).latch .lneAlign l
    match s.portOfLane l with
    | some p => if s1.inData p then s1.retrain p 2 else s1
    | none => s1

/-- Every lane of a port is aligned or locked, and a trunk is deskewed: all its lanes hold markers at most 200 ns apart. -/
def State.rxReady (s : State) (p : Nat) : Bool :=
  (s.lanesOf p).all (fun l => s.flag Reg.LNE_STATUS_ALIGNED l) &&
  (!(s.trunk p) || ((s.lanesOf p).all (fun l => (s.lane l).markerAt.isSome) && decide (s.skewOf p ≤ 200)))

/-- LNE_STATUS of a trunk's lanes: each marker's lag behind the earliest, and whether the trunk is deskewed. -/
def State.showSkew (s : State) (p : Nat) : State :=
  let ats := (s.lanesOf p).filterMap fun l => (s.lane l).markerAt
  let first := ats.foldl min (ats.foldl max 0)
  let ok := b2n (s.rxReady p)
  if !(s.trunk p) then s
  else (s.lanesOf p).foldl (fun t l =>
    (t.setFld Reg.LNE_STATUS_SKEW_NS l (min 255 ((t.lane l).markerAt.getD first - first))).setFld Reg.LNE_STATUS_DESKEWED l ok) s

/-- A lane is aligned, or locked on a trunk. A port in step 2 of its training whose receivers are ready goes on to step 3. -/
def State.alignGain (s : State) (l : Nat) : State :=
  let s1 := ((s.setFld Reg.LNE_STATUS_SIGNAL l 1).setFld Reg.LNE_STATUS_LOCK l 1).setFld Reg.LNE_STATUS_ALIGNED l 1
  match s1.portOfLane l with
  | some p =>
    let s2 := s1.showSkew p
    let y := s2.port p
    if y.state = 2 ∧ y.step = 2 ∧ s2.rxReady p then s2.setPort p { y with step := 3, stepAt := s.now } else s2
  | none => s1

/-- A lane receives a run of characters or blocks (R292, R293): code violations count, and it aligns or locks, or loses that. -/
def State.laneRx (s : State) (l : Nat) (run : List LaneRx) : State :=
  if s.variant.ports ≤ l then s
  else
    let trunk := match s.portOfLane l with
      | some p => s.trunk p
      | none => false
    let r := rxRun trunk (s.flag Reg.LNE_STATUS_ALIGNED l) (s.lane l) run
    let s1 := (s.setLane l r.lane).count Reg.LNE_CODE_ERR l r.errs
    let s2 := if r.lost then s1.alignLoss l else s1
    if r.aligned then s2.alignGain l else s2

/-- LANE_ALIGN_LOSS: what the lane receives when it loses alignment or lock, or gains it. -/
def execLaneAlignLoss (lane : LaneRun) (s : State) : Out := s.run fun s => s.laneRx lane.lane lane.rx

/-- A lane's figure of merit: eight low measurements in a row retrain its port. -/
def State.fomMeasure (s : State) (l fom : Nat) : State :=
  if s.variant.ports ≤ l ∨ 255 < fom then s
  else
    let low := if fom < s.fld Reg.LNE_EQ_FOM_MIN l then (s.lane l).fomLow + 1 else 0
    let s1 := s.setFld Reg.LNE_STATUS_FOM l fom
    match s.portOfLane l with
    | some p =>
      if 8 ≤ low ∧ s.inData p then (s1.setLane l { s.lane l with fomLow := 0 }).retrain p 3
      else s1.setLane l { s.lane l with fomLow := min low 8 }
    | none => s1.setLane l { s.lane l with fomLow := min low 8 }

/-- FOM_MEASURE. -/
def execFomMeasure (lane fom : Nat) (s : State) : Out := s.run fun s => s.fomMeasure lane fom

/-- A lane PLL loses lock: LNE.pll is present for as long as it stays so (R362). -/
def State.pllUnlock (s : State) (l : Nat) : State :=
  if s.variant.ports ≤ l then s else (s.setLane l { s.lane l with pllLost := true }).causeOn .lnePll l

/-- LANE_PLL_UNLOCK. -/
def execLanePllUnlock (lane : Nat) (s : State) : Out := s.run fun s => s.pllUnlock lane

/-- The lane PLL relocks and its port retrains (Table 14.15). -/
def State.pllRelock (s : State) (l : Nat) : State :=
  if !(s.lane l).pllLost then s
  else
    let s1 := (s.setLane l { s.lane l with pllLost := false }).causeOff .lnePll l
    match s.portOfLane l with
    | some p => if (s1.port p).state = 4 then s1 else s1.retrain p 2
    | none => s1

/-- LANE_PLL_RELOCK. -/
def execLanePllRelock (lane : Nat) (s : State) : Out := s.run fun s => s.pllRelock lane

/-! ### Commands on a port (R298, R313) -/

/-- PLK_PORT_CTL.RETRAIN (R298). -/
def State.plkRetrain (s : State) (p : Nat) : State :=
  if (s.port p).state = 3 ∨ (s.port p).state = 1 then s.retrain p 4 else s

/-- PLK_RETRAIN. -/
def execPlkRetrain (port : Nat) (s : State) : Out :=
  s.run fun s => s.regCmd Blk.plk port 0 fun s => s.plkRetrain port

/-- A write of PLK_PORT_CFG (R298): stored as written; with no bank active it is the port's setting, and a trunk that the port
lies in is judged anew. -/
def State.portCfgWrite (s : State) (p v : Nat) : State :=
  if s.variant.ports ≤ p then s
  else
    let s1 := (((s.setFld Reg.PLK_PORT_CFG_RATE p (bits v 3 0)).setFld Reg.PLK_PORT_CFG_CLASS p (bits v 5 4)).setFld
      Reg.PLK_PORT_CFG_EN p (bits v 6 6)).setFld Reg.PLK_PORT_CFG_VERS p (bits v 11 9)
    if s.clb.activeValid ∨ !s.wound then s1
    else ((List.range 8).map fun i => p / 8 * 8 + i).foldl (fun t q => t.applyCfg q 4) s1

/-- PLK_PORT_CFG_WRITE. -/
def execPlkPortCfgWrite (port : Nat) (v : Word) (s : State) : Out :=
  s.run fun s => s.regCmd Blk.plk port (rsvBits v 0xE7F) fun s => s.portCfgWrite port v.toNat

/-- PLK_PORT_CTL.TEST set: the port is held in TEST; a disabled one stays DISABLED. -/
def State.testEnter (s : State) (p : Nat) : State :=
  if s.variant.ports ≤ p then s
  else
    let s1 := s.setFld Reg.PLK_PORT_CTL_TEST p 1
    if (s1.port p).state = 0 then s1 else s1.setPortState p 4 6

/-- PORT_TEST_ENTER. -/
def execPortTestEnter (port : Nat) (s : State) : Out :=
  s.run fun s => s.regCmd Blk.plk port 0 fun s => s.testEnter port

/-- PLK_PORT_CTL.TEST cleared: a port in TEST retrains. -/
def State.testClear (s : State) (p : Nat) : State :=
  if s.variant.ports ≤ p then s
  else
    let s1 := s.setFld Reg.PLK_PORT_CTL_TEST p 0
    if (s1.port p).state = 4 then s1.retrain p 6 else s1

/-- PORT_TEST_CLEAR. -/
def execPortTestClear (port : Nat) (s : State) : Out :=
  s.run fun s => s.regCmd Blk.plk port 0 fun s => s.testClear port

/-- A write of PLK_PORT_CTL: TEST, then RETRAIN. -/
def State.portCtl (s : State) (p v : Nat) : State :=
  let was := s.flag Reg.PLK_PORT_CTL_TEST p
  let s1 := if bit v 1 && !was then s.testEnter p else if !(bit v 1) && was then s.testClear p else s
  if bit v 0 then s1.plkRetrain p else s1

/-- The lane's port is in TEST (R313). -/
def State.laneInTest (s : State) (l : Nat) : Bool :=
  match s.portOfLane l with
  | some p => (s.port p).state == 4
  | none => false

/-- A write of LNE_PRBS_ERR: what is counted so far gives way to the value written. -/
def State.prbsWrite (s : State) (l v : Nat) : State :=
  (s.prbsSettle l (s.laneInTest l && s.prbsOwn l)).setFld Reg.LNE_PRBS_ERR l v

/-- LNE_TEST.INJECT inverts one bit of the pattern: a checker that the lane's own output is looped back to counts it. -/
def State.laneInject (s : State) (l : Nat) : State :=
  if s.variant.ports ≤ l then s
  else if !(s.laneInTest l) then s.latch .lneCfg l
  else if s.prbsOwn l && s.flag Reg.LNE_TEST_CHK_LOCK l then (s.prbsSettle l true).countSat Reg.LNE_PRBS_ERR l
  else s

/-- LNE_TEST_INJECT. -/
def execLneTestInject (lane : Nat) (s : State) : Out :=
  s.run fun s => s.regCmd Blk.lne lane 0 fun s => s.laneInject lane

/-- A write of LNE_TEST (R313): only while the lane's port is in TEST; setting CHK_EN clears the counters, and a checker of the
lane's own looped-back pattern locks (log 42). -/
def State.laneTest (s : State) (l v : Nat) : State :=
  if !(s.laneInTest l) then s.latch .lneCfg l
  else
    let started := bit v 3 && !s.flag Reg.LNE_TEST_CHK_EN l
    let s0 := s.prbsSettle l false
    let s1 := ((((s0.setFld Reg.LNE_TEST_PATTERN l (bits v 1 0)).setFld Reg.LNE_TEST_GEN_EN l (bits v 2 2)).setFld
      Reg.LNE_TEST_CHK_EN l (bits v 3 3)).setFld Reg.LNE_TEST_LOOP l (bits v 5 4)).setFld Reg.LNE_TEST_INJ_RATE l (bits v 11 7)
    let x := Tab.get {} s1.plk.lanes l
    let s2 : State :=
      if started then
        let t := s1.setFld Reg.LNE_PRBS_ERR l 0
        let y : Lane := { x with chkBits := 0, injFrom := 0 }
        { t with plk := { t.plk with lanes := Tab.set t.plk.lanes l y } }
      else s1
    let s3 := (s2.prbsSettle l (s2.prbsOwn l)).setFld Reg.LNE_TEST_CHK_LOCK l (b2n (s2.prbsOwn l))
    if bit v 6 then s3.laneInject l else s3

/-! ### Trunk credits (R301) -/

/-- A CREDIT block. -/
def State.creditBlock (s : State) (p n : Nat) : State :=
  let y := s.port p
  if !(s.inData p) ∨ !(s.trunk p) ∨ 65535 < n then s
  else s.setPort p { y with held := y.held + n, rcvd := wrap 64 (y.rcvd + n) }

/-- CREDIT_BLOCK. -/
def execCreditBlock (port n : Nat) (s : State) : Out := s.run fun s => s.creditBlock port n

/-! ### Pluggable optics (R311) -/

/-- One lane's module as a poll finds it. -/
def State.pollLane (s : State) (l : Nat) (m : ModInfo) : State :=
  if s.variant.ports ≤ l then s
  else if m.present && !m.ack then s.latch .lneModule l
  else
    let was := s.flag Reg.LNE_MOD_PRESENT l
    let los := s.flag Reg.LNE_MOD_LOS l
    let now := m.present && m.los
    let ev := fun (s : State) (on : Bool) (code : Nat) => if on then s.plkEvent 0x0F02 l [code, m.ident % 256, 0, 0] else s
    let s1 := ((((s.setFld Reg.LNE_MOD_PRESENT l (b2n m.present)).setFld Reg.LNE_MOD_LOS l (b2n now)).setFld Reg.LNE_MOD_CMIS l
      (b2n m.cmis)).setFld Reg.LNE_MOD_TEMP l m.temp).setFld Reg.LNE_MOD_RX_PWR l m.rxPwr
    let s2 := ev (ev s1 (m.present && !was) 1) (!m.present && was) 2
    let s3 := ev (ev s2 (now && !los) 3) (!now && los) 4
    if now && !los then s3.alignLoss l else s3

/-- One poll of a module bus; a bus with a failed line is not polled. -/
def State.modulePoll (s : State) (b : Nat) (found : List ModInfo) : State :=
  if 8 ≤ b ∨ s.busBad b then s else (found.take 8).zipIdx.foldl (fun t m => t.pollLane (8 * b + m.2) m.1) s

/-- MODULE_POLL. -/
def execModulePoll (bus : Nat) (found : List ModInfo) (s : State) : Out := s.run fun s => s.modulePoll bus found

/-- A write of PLK_I2C_CMD: its fields are set (R7); GO starts a transfer of them unless one runs, which goes on with what it was
started with. -/
def State.i2cGo (s : State) (v : Nat) : State :=
  let s1 := (((((s.setFld Reg.PLK_I2C_CMD_BUS 0 (bits v 2 0)).setFld Reg.PLK_I2C_CMD_SPEED 0 (bits v 3 3)).setFld
    Reg.PLK_I2C_CMD_ADDR 0 (bits v 10 4)).setFld Reg.PLK_I2C_CMD_READ 0 (bits v 11 11)).setFld Reg.PLK_I2C_CMD_REG 0
    (bits v 19 12)).setFld Reg.PLK_I2C_CMD_WDATA 0 (bits v 27 20)
  if bit v 28 && s.plk.i2c.isNone then State.setFld { s1 with plk := { s1.plk with i2c := some v } } Reg.PLK_I2C_STAT_BUSY 0 1
  else s1

/-- I2C_GO. -/
def execI2cGo (v : Word) (s : State) : Out :=
  s.run fun s => s.regCmd Blk.plk 0 (rsvBits v 0x1FFFFFFF) fun s => s.i2cGo v.toNat

/-- The transfer ends; on a bus with a failed line it fails with NACK. -/
def State.i2cDone (s : State) (rdata : Nat) (nack : Bool) : State :=
  match s.plk.i2c with
  | none => s
  | some v =>
    let nack := nack || s.busBad (bits v 2 0)
    let s1 := (State.setFld { s with plk := { s.plk with i2c := none } } Reg.PLK_I2C_STAT_BUSY 0 0).setFld
      Reg.PLK_I2C_STAT_NACK 0 (b2n nack)
    if bit v 11 && !nack then s1.setFld Reg.PLK_I2C_STAT_RDATA 0 rdata else s1

/-- I2C_TRANSFER_DONE. -/
def execI2cTransferDone (rdata : Nat) (nack : Bool) (s : State) : Out := s.run fun s => s.i2cDone rdata nack

end Sys2Proof.Machine
end

