-- ==== Sys2Proof/Machine/Frame.lean ====
section
/-! DEFINITION. The frame mark and what every block does at it, the conservation audits, and WALLSYNC
(06_wall_model_and_calibres.md R146-R148; 01_movement.md R11, R25). -/

namespace Sys2Proof.Machine

/-! ### Audits (R25, Table 1.7) -/

/-- One invariant is checked on the internal snapshot: a mismatch, or an inverted check, latches the source (R25, R372). -/
def State.audit (s : State) (src : Src) (inst : Nat) (ok : Bool) : State :=
  let s1 := s.check src inst
  if ok then s1 else s1.latch src inst

/-- total = a + b modulo 2^64. -/
def sums (total a b : Nat) : Bool := decide ((a + b) % 2 ^ 64 = total % 2 ^ 64)

def Pool.balanced (p : Pool) : Bool := decide (p.free + p.alloc + p.pending = p.total)

def Ring.balanced (x : Ring) : Bool := sums x.produced x.consumed (x.lost + x.count)

def SwOut.balanced (x : SwOut) : Bool := sums x.audIn x.audOut (x.audDrop + x.resident)

def Shaper.balanced (x : Shaper) : Bool :=
  decide (((x.credit : Int) + x.forgiven - x.spent - x.capped - x.bal) % 2 ^ 64 = 0)

def Circuit.balanced (x : Circuit) : Bool := sums x.granted x.consumed x.expired

/-- A trunk's credits; a port that is no trunk holds none. -/
def PlkPort.balanced (y : PlkPort) : Bool := sums y.rcvd y.spent y.held

/-- Every block checks its invariants (R25). An instance without a record holds zeroes and balances. -/
def State.auditRings (s : State) : State :=
  (List.range 256).foldl (fun t i =>
    if t.hasPage Blk.rng i then t.audit .rngAudit i (s.rng.rings.all fun e => e.1 / 32 != i || e.2.balanced) else t) s

/-- Switch, pools and the three row credit links. -/
def State.auditCore (s : State) : State :=
  let s1 := s.audit .bpmAudit 0 (s.pool.odie.balanced && s.pool.dram.balanced)
  let s2 := s1.audit .swcAudit 0 (s.swc.outs.all fun e => e.2.balanced)
  let s3 := s2.audit .decAudit 0 (sums s.dec.crIssued s.dec.crReturned s.dec.crOut)
  let s4 := s3.audit .cnvAudit 0 (sums s.cnv.crIssued s.cnv.crReturned s.cnv.crOut)
  s4.audit .drvAudit 0 (sums s.cnv.drvIssued s.cnv.drvReturned s.cnv.drvOut)

/-- Circuits, shapers and trunks. -/
def State.auditPorts (s : State) : State :=
  let s1 := (List.range 4).foldl (fun t i =>
    if t.hasPage Blk.fus i then t.audit .fusAudit i (s.fus.circ.all fun e => e.1 / 128 != i || e.2.balanced) else t) s
  (List.range 64).foldl (fun t p =>
    if t.hasPage Blk.sch p then
      (t.audit .schAudit p ((Tab.get {} s.sch.ports p).shapers.all fun e => e.2.balanced)).audit .plkAudit p
        (Tab.get {} s.plk.ports p).balanced
    else t) s1

/-- FRAME_AUDIT. -/
def State.frameAudit (s : State) : State := s.auditRings.auditCore.auditPorts

/-! ### The next mark (R146, R147) -/

/-- Marks follow WALLSYNC: the active calibre has SOURCE = 1 and lock is held (R147). -/
def State.following (s : State) : Bool :=
  s.clb.locked && match s.activeImg with
    | some im => Img.wallsync im
    | none => false

/-- SYNC_OFFSET of the active calibre in time units (ns × 9.6). -/
def State.syncOffset (s : State) : Int :=
  match s.activeImg with
  | some im => Img.syncOffset im * 48 / 5
  | none => 0

/-- The WALLSYNC period in time units: the measured one, or T before one is measured at the present rate. -/
def State.syncPeriod (s : State) : Nat :=
  if s.clb.measured then s.fld Reg.CLB_SYNC_MEAS * Clk.cclk else s.period

/-- The mark after the one at m by WALLSYNC: the predicted edge plus SYNC_OFFSET that lies within half a period of m + T,
approached by at most 0.5 % of T per frame after a lock or a swap, and never beyond 0.99 T to 1.01 T from m. -/
def State.syncMark (s : State) (m : Nat) : Nat × Bool :=
  let T : Int := s.period
  let p : Int := s.syncPeriod
  let t0 : Int := (s.clb.edgeAt : Int) + s.syncOffset
  let lo : Int := (m : Int) + T / 2
  let t := if p = 0 then t0 else t0 - (t0 - lo) / p * p
  let t := if t ≤ lo then t + p else t
  let d := t - ((m : Int) + T)
  let lim := T / 200
  if s.clb.slewing && (decide (lim < d) || decide (d < -lim)) then
    (((m : Int) + T + (if 0 < d then lim else -lim)).toNat, true)
  else (((m : Int) + T + max (-(T / 100)) (min (T / 100) d)).toNat, false)

/-- next_gap of R146 in time units, and the accumulator it leaves: at the rate of the active calibre, or at 60 Hz (R148). -/
def State.nextGap (s : State) : Nat × Nat :=
  let (num, den) := match s.activeImg with
    | some im => (Img.num im, Img.den im)
    | none => (60, 1)
  let x := 1200000000 * den + s.clb.acc
  (x / num * Clk.cclk, x % num)

/-- Places the mark that follows the one at m. -/
def State.placeMark (s : State) (m : Nat) : State :=
  if s.following then
    let (t, slew) := s.syncMark m
    { s with clb := { s.clb with nextMark := t, slewing := slew } }
  else
    let (gap, acc) := s.nextGap
    { s with clb := { s.clb with nextMark := m + gap, acc := acc } }

/-- Places the coming mark again after an edge or a prediction. -/
def State.moveMark (s : State) : State :=
  let (t, slew) := s.syncMark s.clb.lastMark
  if s.following then { s with clb := { s.clb with nextMark := t, slewing := slew } } else s

/-! ### WALLSYNC (R147) -/

/-- CLB_STATUS.LOCKED changes: interrupt source 153 and WALLSYNC_LOCK. -/
def State.lockChange (s : State) (locked : Bool) : State :=
  let s1 : State := { s with clb := { s.clb with locked := locked, everLocked := s.clb.everLocked || locked } }
  (s1.intEdge 153).clbEvent 0x0603 0 [b2n locked, s.fld Reg.CLB_SYNC_MEAS, s.fld Reg.CLB_HOLDOVER_MARKS]

/-- The active calibre takes its marks from WALLSYNC. -/
def State.syncSource (s : State) : Bool :=
  match s.activeImg with
  | some im => Img.wallsync im
  | none => false

/-- The period between two edges is measured; predictions use it where it lies within 1 % of T (log 48). -/
def State.measure (s : State) (from_ : Nat) : State :=
  let d := s.now - from_
  let s1 := s.setFld Reg.CLB_SYNC_MEAS 0 (d / Clk.cclk)
  { s1 with clb := { s1.clb with measured := decide (99 * s.period ≤ 100 * d) && decide (100 * d ≤ 101 * s.period) } }

/-- A rising edge: the first is a reference; a later one is accepted within 0.5 % of T of its prediction. A rejected edge
breaks the run, and becomes the reference while lock is not held (log 48). -/
def State.wallsyncEdge (s : State) : State :=
  if !s.wound ∨ !s.syncSource then s
  else
    let pred := s.clb.edgeAt + s.syncPeriod
    let lim := s.period / 200
    let ok := s.clb.edgeKnown && decide (s.now ≤ pred + lim) && decide (pred ≤ s.now + lim)
    if ok then
      let n := s.clb.edges + 1
      let s1 : State := { s with clb := { s.clb with edgeAt := s.now, edges := n, edgeSeen := true, holdRun := 0 } }
      let s2 := s1.measure s.clb.edgeAt
      let s3 := if 8 ≤ n ∧ !s.clb.locked then State.lockChange { s2 with clb := { s2.clb with slewing := true } } true else s2
      s3.moveMark
    else if s.clb.locked then { s with clb := { s.clb with edges := 0 } }
    else
      let s1 := if s.clb.edgeKnown then s.measure s.clb.edgeAt else s
      { s1 with clb := { s1.clb with edgeKnown := true, edgeAt := s.now, edges := 0 } }

/-- WALLSYNC_EDGE. -/
def execWallsyncEdge (s : State) : Out := s.run State.wallsyncEdge

/-- The predicted edge has not come, or the edge near it was rejected: the mark is placed by prediction; the fourth such mark
in a row loses the lock, and the generator runs on from the last mark. -/
def State.wallsyncHoldover (s : State) : State :=
  let pred := s.clb.edgeAt + s.syncPeriod
  if !s.wound ∨ !s.following ∨ s.now < pred then s
  else
    let n := s.clb.holdRun + 1
    let s1 := State.count { s with clb := { s.clb with edgeAt := pred, edges := 0, edgeSeen := true, holdRun := n } }
      Reg.CLB_HOLDOVER_MARKS
    let s2 := s1.moveMark
    if n < 4 then s2
    else
      let s3 : State := { s2 with clb := { s2.clb with edgeKnown := false, holdRun := 0, measured := false } }
      (s3.latch .clbSync).lockChange false

/-- WALLSYNC_HOLDOVER. -/
def execWallsyncHoldover (s : State) : Out := s.run State.wallsyncHoldover

/-! ### The mark -/

/-- A calibre without WALLSYNC holds no lock. -/
def State.dropSync (s : State) : State :=
  if s.syncSource then s
  else { s with clb := { s.clb with locked := false, edgeKnown := false, edges := 0, holdRun := 0, edgeSeen := false,
                                      measured := false } }

/-- The calibre at mark M(n): an armed swap for n switches the banks (Table 6.7a step 6) and the ports take the new settings;
otherwise a live edit and the tiles' states come into force (R142, R144). -/
def State.markCalibre (s : State) : State :=
  let swap := match s.clb.swap with
    | some x => if x.armed ∧ x.s = s.frameCount then some x else none
    | none => none
  match swap with
  | some x =>
    let s1 := s.bankSwitch x
    let s2 := (List.range s1.variant.ports).foldl (fun t p => t.applyCfg p 5) s1
    s2.encRecompute.dropSync
  | none => s.lastRelease.applyLive.updateIdents

/-- The image kept for frames before a live edit is dropped once no such frame is in the path. -/
def State.dropBefore (s : State) : State :=
  match s.clb.before with
  | some (m, _) => if frameLe (frameAdd m 4) s.frameCount then { s with clb := { s.clb with before := none } } else s
  | none => s

/-- The position map of frame n joins those of the three frames before it (R306). -/
def State.pushMap (s : State) : State :=
  let n := s.frameCount
  let im := match s.tagOf n with
    | some (_, im) => im
    | none => []
  { s with plk := { s.plk with maps := ((n, im) :: s.plk.maps).take 4 } }

/-- MARK on one port in DATA (R302): at the next boundary of the 4-character grid, inside the link frame or fill that goes out (on a
trunk, at the next block of 8), else on its own. It takes no byte slot, so that the frame ends four characters later. -/
def State.markOn (s : State) (p : Nat) : State :=
  let y := s.port p
  let x := s.sport p
  if y.state ≠ 3 then s
  else
    let n := s.frameCount % 65536
    let gone := (s.now - y.txAt) * slotRate (s.laneByte p) / 9600000000
    let at_ := if s.trunk p then (gone + 7) / 8 * 8 else nextBoundary x.lastTx.length (x.ovh p) gone
    let inside := decide (gone < y.tx.length) && decide (at_ < y.tx.length)
    let y1 : PlkPort := { y with
      markN := some n
      tx := if inside then y.tx.take at_ ++ markSet n ++ y.tx.drop at_ else markSet n
      txAt := if inside then y.txAt else s.now }
    let gap := s.slotUnits p 4
    (s.setPort p y1).setSport p { x with
      skipped := x.skipped + gap, busyUntil := if s.now < x.busyUntil then x.busyUntil + gap else x.busyUntil }

/-- MARK_INSERT (R302): on every port in DATA. -/
def State.markInsert (s : State) : State := (s.plk.ports.map (·.1)).foldl State.markOn s

/-- Streams at a mark: gaps grow older (R117), pictures that no window waits for are let go (R439). -/
def State.markStreams (s : State) : State :=
  ((s.mapStreams fun _ x => { x with held := x.held.map fun u => { u with heldMarks := u.heldMarks + 1 } }).settleAll).releaseWindowless

/-- Row pairs the scan still has to produce (SCAN_OVERRUN ARG1), and the dark wall of R367. -/
def State.markWall (s : State) : State :=
  let left := if s.cnv.scanning then match s.tagOf s.cnv.frame with
      | some (_, im) => Img.nrp im - s.cnv.next
      | none => 0
    else 0
  { s with cnv := { s.cnv with leftAtMark := left }, flt := { s.flt with dark := s.flt.dark || s.flt.darkArmed } }

/-- A frame mark falls, once it is due and, behind WALLSYNC with an offset not below 0, its edge is settled (R11, R146-R148). -/
def State.frameMark (s : State) : State :=
  if !s.wound ∨ s.now < s.clb.nextMark ∨ (s.following ∧ 0 ≤ s.syncOffset ∧ !s.clb.edgeSeen) then s
  else
    let m := s.clb.nextMark
    let s1 : State := { s with clb := { s.clb with prevMark := s.clb.lastMark, lastMark := m, edgeSeen := false } }
    let s2 := ((s1.markWall.count Reg.SYS_FRAME_COUNT).intEdge 40).markCalibre
    let s3 := (s2.placeMark m).dropBefore.pushMap.markInsert.markStreams
    s3.frameAudit.goodFrame.cplMark

/-- FRAME_MARK. -/
def execFrameMark (s : State) : Out := s.run State.frameMark

end Sys2Proof.Machine
end

