-- ==== Sys2Proof/Machine/Winding.lean ====
section
/-! DEFINITION. Winding, the resets that start it, straps and self-test (20_winding_clocks_power.md R399-R401, R408;
18_faults_and_self_test.md R377-R379). -/

namespace Sys2Proof.Machine

/-! ### Stages (R399) -/

/-- A stage ends: its duration is recorded and the next one is in progress. -/
def State.stageEnd (s : State) (next : Nat) : State :=
  let s1 := s.setFld Reg.PWR_STAGE_US (s.fld Reg.PWR_WIND_STAGE) ((s.now - s.pwr.stageStart) / Clk.us)
  State.setFld { s1 with pwr := { s1.pwr with stageStart := s.now } } Reg.PWR_WIND_STAGE 0 next

/-- Stage k is in progress. -/
def State.inStage (s : State) (k : Nat) : Bool := s.fld Reg.PWR_WIND_STAGE == k

/-! ### Resets that restart winding (R400, R403, R408) -/

/-- FUSE_SECVER is a fuse: a reset keeps it (R329, R408). -/
def State.keepFuse (s : State) (old : State) : State := s.setFld Reg.RGL_BOOT_FUSE_SECVER 0 old.fuseSec

/-- POWER_ON: everything but the keeping store and the fuses is at its reset value, and W0 starts. What lies outside the block
(host memory, the clock of the model, waiting commands) goes on. -/
def execPowerOn (s : State) : Out :=
  .next (State.keepFuse { State.reset with
    variant := s.variant, now := s.now, freeCtr := s.freeCtr, pending := s.pending
    hst := { mem := s.hst.mem }, kst := { s.kst with xfer := none }
    pwr := { windStart := s.now, stageStart := s.now, lastSample := s.now } } s)

/-- The C4 sticky bits of every page (R367, R408). -/
def State.keepC4 (s old : State) : State :=
  blockTypes.foldl (fun t b => (List.range (b.count old.variant)).foldl (fun t i =>
    t.setFld Reg.PG_ERR_STICKY (pageOf b.code i) (old.sticky (pageOf b.code i) &&& Src.c4Mask b.code)) t) s

/-- PERST_N asserted (R400, R408): every page, engine and bank and the DRAM is cleared; the C4 latch stays, and so do the stopped
clocks of R403, the darkness of R367 and the test access port. -/
def execPerstNAssert (s : State) : Out :=
  let base : State := { State.reset with
    variant := s.variant, now := s.now, freeCtr := s.freeCtr, pending := s.pending
    hst := { mem := s.hst.mem }, kst := { s.kst with xfer := none }
    flt := { c4 := s.flt.c4, darkArmed := s.flt.darkArmed, dark := s.flt.dark, jtag := jtagActs false s.flt.jtag
             jtagData := jtagCapture s.variant (jtagActs false s.flt.jtag) }
    pwr := { windStart := s.now, stageStart := s.now, lastSample := s.now, clocksStopped := s.pwr.clocksStopped } }
  .next (((base.keepFuse s).keepC4 s).setFld Reg.PWR_WIND_CAUSE 0 1)

/-- The self-test group in progress in W1: group 0 as soon as PERST_N is released, else the first of 1 to 5 that has not ended;
7 for none (R377). -/
def State.groupRunning (s : State) : Nat :=
  if s.hst.perstN ∧ !(s.pwr.tested.contains 0) then 0
  else (([1, 2, 3, 4, 5] : List Nat).find? fun g => !(s.pwr.tested.contains g)).getD 7

/-- BST_STATUS.RUNNING follows. -/
def State.showRunning (s : State) : State :=
  if s.inStage 1 then s.setFld Reg.BST_STATUS_RUNNING 0 s.groupRunning else s

/-- PERST_N released: group 0 starts (R377, R400). -/
def execPerstNRelease (s : State) : Out :=
  .next (State.showRunning { s with hst := { s.hst with perstN := true } })

/-- A rail leaves its operating range: W0 waits for it; later PWR.rail latches (R400). -/
def execRailOutOfRange (s : State) : Out := .next (if s.inStage 0 then s else s.latch .pwrRail)

/-- The root PLL loses lock after W0: CLK.root latches, and every clock but SCLK stops until power is removed (R403). -/
def execRootPllLoss (s : State) : Out :=
  .next (if s.inStage 0 ∨ s.pwr.clocksStopped then s
    else
      let s1 := (s.latch .clkRoot).setFld Reg.CLK_STATUS_ROOT_LOCK 0 0
      { s1 with pwr := { s1.pwr with clocksStopped := true } })

/-! ### Straps (R178, R374, R401) -/

/-- A cap-write session exists or has ended. -/
def State.setSession (s : State) (on : Bool) : State :=
  State.setFld { s with fus := { s.fus with session := on } } Reg.FUS_CAP_CTL_UNLOCKED 0 (b2n on)

/-- Test unlock ends: private test instructions are BYPASS (R374, R376). -/
def State.endUnlock (s : State) : State :=
  State.jtagSet { s with flt := { s.flt with testHeld := false, unlocked := false, armed := false } } (jtagActs false s.flt.jtag)

/-- WINDING_W0: the straps are sampled, the root PLL locks, the winding count goes up by one. -/
def execWindingW0 (testMode capWriteN : Bool) (bootSel : Nat) (s : State) : Out :=
  .next (if !s.inStage 0 ∨ s.pwr.clocksStopped then s
    else
      let s1 : State := { s.endUnlock with
        pwr := { s.pwr with testMode := testMode, capWriteN := capWriteN, bootSel := bootSel % 4
                            lastSample := s.pwr.windStart, tested := [] }
        kst := { s.kst with windings := wrap 32 (s.kst.windings + 1) }
        hst := { s.hst with keysPresent := false, keysCleared := false } }
      let s2 : State := { s1 with flt := { s1.flt with testHeld := testMode, logged := [] } }
      let s3 := (s2.setFld Reg.CLK_STATUS_ROOT_LOCK 0 1).setFld Reg.CLK_STATUS_REFCLK_OK 0 1
      ((s3.setSession !capWriteN).stageEnd 1).showRunning)

/-- STRAP_SAMPLE: sample n falls n ms after the start of W0. -/
def execStrapSample (testMode capWriteN : Bool) (s : State) : Out :=
  .next (if s.inStage 0 ∨ s.now < s.pwr.lastSample + Clk.ms then s
    else
      let s1 : State := { s with pwr := { s.pwr with testMode := testMode, capWriteN := capWriteN
                                                     lastSample := s.pwr.lastSample + Clk.ms } }
      let s2 := if capWriteN then s1.setSession false else s1
      if testMode then s2 else s2.endUnlock)

/-! ### Self-test (R377-R379) -/

/-- Typical duration of a group in microseconds (Table 18.5). -/
def groupTypical (g : Nat) : Nat := ([18000, 34000, 28000, 36000, 36000, 38000] : List Nat).getD g 0

/-- The elements of a group among those reported failing. -/
def groupFail (v : Variant) (g : Nat) (f : BstFail) : BstFail where
  fabric := f.fabric && (g == 1 || g == 5)
  dram := if g = 2 then f.dram % 2 ^ v.dramChannels else 0
  host := if g = 0 then f.host % 2 ^ 16 else 0
  lanes := if g = 3 then f.lanes % 2 ^ 32 else if g = 4 then f.lanes / 2 ^ 32 % 2 ^ 32 * 2 ^ 32 else 0
  i2c := if g = 5 then f.i2c % 2 ^ (v.pick 16 8) else 0

/-- A mask joins a field. -/
def State.orFld (s : State) (f : Fld) (v : Nat) : State := s.setFld f 0 (s.fld f ||| v)

/-- The failing elements are shown and their sources latch (Table 18.6). -/
def State.showFail (s : State) (f : BstFail) : State :=
  let s1 := ((((s.orFld Reg.BST_HOST_FAIL f.host).orFld Reg.BST_DRAM_FAIL f.dram).orFld Reg.BST_LANE_FAIL_LO
    (f.lanes % 2 ^ 32)).orFld Reg.BST_LANE_FAIL_HI (f.lanes / 2 ^ 32)).orFld Reg.BST_I2C_FAIL f.i2c
  let s2 := if f.fabric then s1.latch .bstFabric else s1
  let s3 := if f.dram = 0 then s2 else s2.latch .bstDram
  let s4 := if f.host = 0 then s3 else s3.latch .bstHostphy
  let s5 := if f.lanes = 0 then s4 else s4.latch .bstLane
  if f.i2c = 0 then s5 else s5.latch .bstI2c

/-- A group's result. -/
def State.groupResult (s : State) (g pass skipped timeout coverage durUs : Nat) : State :=
  let s1 := ((((s.setFld Reg.BST_RESULT_DONE g 1).setFld Reg.BST_RESULT_PASS g pass).setFld Reg.BST_RESULT_SKIPPED g
    skipped).setFld Reg.BST_RESULT_TIMEOUT g timeout).setFld Reg.BST_RESULT_COVERAGE g coverage
  State.setFld { s1 with pwr := { s1.pwr with tested := g :: s1.pwr.tested } } Reg.BST_DUR g durUs

/-- Group 4 is skipped on the C624 when its turn comes. -/
def State.skipGroup (s : State) : State :=
  if s.variant = .c624 ∧ !(s.pwr.tested.contains 4) ∧ [1, 2, 3].all fun g => s.pwr.tested.contains g then
    s.groupResult 4 1 1 0 0 0
  else s

/-- After a group: the host PHY goes to link training after group 0; W2 is next once every group has ended. -/
def State.afterGroup (s : State) (g : Nat) : State :=
  let s1 := (if g = 0 then { s with hst := { s.hst with phyReleased := true } } else s).skipGroup
  if ([0, 1, 2, 3, 4, 5].all fun k => s1.pwr.tested.contains k) then
    let pass := (List.range 6).all fun k => s1.flag Reg.BST_RESULT_PASS k
    let s2 := ((s1.setFld Reg.BST_STATUS_DONE 0 1).setFld Reg.BST_STATUS_ALL_PASS 0 (b2n pass)).setFld Reg.BST_STATUS_RUNNING 0 7
    (s2.setFld Reg.BST_TOTAL_US 0 ((s.now - s.pwr.stageStart) / Clk.us)).stageEnd 2
  else s1.showRunning

/-- A group ends within twice its typical duration. -/
def State.selfTest (s : State) (g coverage durUs : Nat) (fail : BstFail) : State :=
  if !s.inStage 1 ∨ s.groupRunning ≠ g ∨ 2 * groupTypical g ≤ durUs then s
  else
    let f := groupFail s.variant g fail
    let ok := f == ⟨false, 0, 0, 0, 0⟩
    ((s.groupResult g (b2n ok) 0 0 (min coverage 1000) durUs).showFail f).afterGroup g

/-- SELF_TEST_GROUP. -/
def execSelfTestGroup (g coverage durUs : Nat) (fail : BstFail) (s : State) : Out :=
  s.run fun s => s.selfTest g coverage durUs fail

/-- A group still running at twice its typical duration is stopped (R379). -/
def State.groupTimeout (s : State) (g coverage : Nat) : State :=
  if !s.inStage 1 ∨ s.groupRunning ≠ g then s
  else ((s.groupResult g 0 0 1 (min coverage 1000) (2 * groupTypical g)).latch .bstTimeout).afterGroup g

/-- SELF_TEST_TIMEOUT. -/
def execSelfTestTimeout (g coverage : Nat) (s : State) : Out := s.run fun s => s.groupTimeout g coverage

/-! ### W2 to W4 (R328, R329, R333) -/

/-- The key ladder derives the device key (R376). -/
def State.windW2 (s : State) : State :=
  if !s.inStage 2 then s else State.stageEnd { s with hst := { s.hst with keysPresent := true } } 3

/-- WINDING_W2. -/
def execWindingW2 (s : State) : Out := s.run State.windW2

/-- The recovery of R329 is noted. -/
def State.recover (s : State) : State :=
  let s1 := (s.setFld Reg.RGL_BOOT_SLOT 0 2).setFld Reg.RGL_BOOT_RECOVERY 0 1
  State.latch { s1 with pwr := { s1.pwr with bundleSlot := 2 }
                        rgl := { s1.rgl with runtime := [], bootEvent := none } } .rglRecovery 0

/-- A slot's bundle is used: ADVANCE raises FUSE_SECVER; slot B latches RGL.fallback, and BOOT waits for the event ring. -/
def State.useSlot (s : State) (n : Nat) (im : Bytes) : State :=
  let s1 := if Sg.advance im ∧ s.fuseSec < Sg.secVer im then s.setFld Reg.RGL_BOOT_FUSE_SECVER 0 (Sg.secVer im) else s
  let s2 := (s1.setFld Reg.RGL_BOOT_SLOT 0 n).setFld Reg.RGL_BOOT_RECOVERY 0 0
  let ev := if n = 1 then some [n, Sg.version im, s2.fuseSec] else none
  let s3 : State := { s2 with pwr := { s2.pwr with bundleSlot := n }, rgl := { s2.rgl with bootEvent := ev } }
  if n = 1 then s3.latch .rglFallback 0 else s3

/-- The first slot whose bundle passes. -/
def State.chosenSlot (s : State) : Option (Nat × Bytes) :=
  if s.slotPasses 0 then (s.slotBundle 0).map fun im => (0, im)
  else if s.slotPasses 1 then (s.slotBundle 1).map fun im => (1, im) else none

/-- The boot ROM checks slot A, then slot B. -/
def State.windW3 (s : State) : State :=
  if !s.inStage 3 then s
  else match s.chosenSlot with
    | some (n, im) => (s.useSlot n im).stageEnd 4
    | none => s.recover.stageEnd 4

/-- WINDING_W3. -/
def execWindingW3 (s : State) : Out := s.run State.windW3

/-- The images of the bundle in use; none in recovery. -/
def State.bundleInUse (s : State) : List Bytes :=
  if s.pwr.bundleSlot = 2 then [] else ((s.slotBundle s.pwr.bundleSlot).bind Sg.images).getD []

/-- The runtime is loaded into every regulator, and each escapement kind's image is installed and loaded. -/
def State.loadBundle (s : State) : State :=
  let ims := s.bundleInUse
  let rt := ((ims.find? fun i => Sg.type i == 4).map Sg.payload).getD []
  let s1 := (ims.filter fun i => Sg.type i == 2).foldl (fun t i =>
    (t.escInstall (Sg.kind i) ⟨Sg.version i, Sg.secVer i, false, Sg.payload i⟩).escAdoptAll (Sg.kind i)) s
  let s2 : State := { s1 with rgl := { s1.rgl with runtime := rt } }
  (List.range s2.variant.regulators).foldl State.startRuntime s2

/-- In recovery only the DMA escapements load an image, that of the boot ROM; the other kinds have none. -/
def State.loadRecovery (s : State) : State :=
  ((s.escInstall 6 ⟨Config.recoveryVersion.toNat, 0, true, []⟩).escAdoptAll 6).latch .escImage

/-- W4. -/
def State.windW4 (s : State) : State :=
  if !s.inStage 4 then s
  else (if s.flag Reg.RGL_BOOT_RECOVERY then s.loadRecovery else s.loadBundle).stageEnd 5

/-- WINDING_W4. -/
def execWindingW4 (s : State) : Out := s.run State.windW4

/-! ### W5 (R380, R381, R389, R391) -/

/-- The channel trained, with a configuration of Table 19.1. -/
def chanGood (c : ChanTrain) : Bool := c.ok && (c.gib == 2 || c.gib == 4 || c.gib == 8)

/-- Groups in use: every channel passed self-test and trained. -/
def State.goodGroups (s : State) (chans : List ChanTrain) : List Nat :=
  (List.range (s.variant.dramChannels / 4)).filter fun g => (List.range 4).all fun k =>
    !(bit (s.fld Reg.BST_DRAM_FAIL) (4 * g + k)) && chanGood (chans.getD (4 * g + k) ⟨0, false⟩)

/-- The timing sets, and the set of point 0 in the controllers. -/
def State.fillTiming (s : State) (timing : List Nat) : State :=
  let s1 := (List.range 24).foldl (fun t i => t.setFld Reg.MEM_TIM_VALUE i (timing.getD i 0)) s
  { s1 with mem := { s1.mem with tim := (List.range 8).map fun w => (w, s1.fld Reg.MEM_TIM_VALUE w) } }

/-- W5: every channel trains, the capacity is fixed, every line reads as 0 and zeroing starts. -/
def State.windW5 (s : State) (chans : List ChanTrain) (timing : List Nat) : State :=
  if !s.inStage 5 then s
  else
    let gs := s.goodGroups chans
    let sizes := gs.flatMap fun g => (List.range 4).map fun k => (chans.getD (4 * g + k) ⟨0, false⟩).gib
    let gib := sizes.foldl min 8
    let s1 := s.fillTiming timing
    let s2 := if gs.length = s.variant.dramChannels / 4 then s1 else s1.latch .memTrain
    let s3 := if sizes.all fun n => n == gib then s2 else s2.latch .memMixed
    let s4 := ((((s3.setFld Reg.MEM_STATUS_GROUPS 0 ((gs.map fun g => 2 ^ g).sum)).setFld Reg.MEM_USABLE 0
      (gs.length * 4 * gib * 15360)).setFld Reg.MEM_STATUS_READY 0 (b2n (gs != []))).setFld Reg.MEM_STATUS_FREQ 0 0).setFld
      Reg.MEM_STATUS_ZEROED 0 0
    State.stageEnd { s4 with mem := { s4.mem with dram := [], poison := [], zeroing := gs != [], zeroNext := 0, zeroed := [] } } 6

/-- WINDING_W5. -/
def execWindingW5 (chans : List ChanTrain) (timing : List Nat) (s : State) : Out := s.run fun s => s.windW5 chans timing

/-! ### W6 (R149, R180, R328, R395) -/

/-- A valid calibre slot: SAVE_SEQ, CLB_WRITE_SEQ and the image. -/
def State.calibreSlot (s : State) (n : Nat) : Option (Nat × Nat × Bytes) :=
  match s.kstRead (Sys2Proof.Machine.calibreSlot n) 64 with
  | none => none
  | some h =>
    let len := field h 16 4
    if field h 0 4 ≠ 0x534C4243 ∨ 0x1000000 < len then none
    else match s.kstRead (Sys2Proof.Machine.calibreSlot n + 64) len with
      | none => none
      | some im =>
        if crc32 (h.take 60 ++ [0, 0, 0, 0] ++ im) = field h 60 4 then some (field h 4 4, field h 8 2, im) else none

/-- An image as it was written: no LAT_UNBOUND flag set, and its CRC32. -/
def Img.unmarked (im : Bytes) : Bytes :=
  let b := (List.range (Img.nTiles im)).foldl (fun b i => b.modify (Img.tileOff im + 64 * i + 18) (· &&& 0xFB)) im
  Img.readBack b []

/-- The newer valid slot becomes bank A, SHADOW, with its CLB_WRITE_SEQ; the issue counter starts from it (R134). -/
def State.restoreCalibre (s : State) : State :=
  let best := match s.calibreSlot 0, s.calibreSlot 1 with
    | some a, some b => if a.1 < b.1 then some (1, b) else some (0, a)
    | some a, none => some (0, a)
    | none, some b => some (1, b)
    | none, none => none
  match best with
  | none => { s with clb := { s.clb with issue := 0, saveSlot := 1, saveSeq := 0 } }
  | some (slot, save, seq, im) =>
    let b : Bank := ⟨1, seq, Img.unmarked im, Img.latUnbound im⟩
    State.setFld { s with clb := { s.clb with bankA := b, issue := seq, saveSlot := slot, saveSeq := save } }
      Reg.CLB_WRITE_SEQ 0 seq

/-- The complications of the bundle start in payload order; INIT is taken to return 0, and one that its checks or the lack of
room turn away is passed over (log 49). -/
def State.startComplications (s : State) : State :=
  (s.bundleInUse.filter fun i => Sg.type i == 3).foldl (fun t i =>
    if cplVerify i t.fuseSec ≠ 0 then t
    else match t.placeFor 0xFF i with
      | none => t
      | some g =>
        let l : CplLoad := ⟨none, g, (t.slotFor g (Sg.kind i)).getD 0, true, t.now, Cpl.ofImage i t.rgl.order⟩
        State.cplInstall { t with rgl := { t.rgl with order := t.rgl.order + 1 } } l) s

/-- W6. -/
def State.windW6 (s : State) : State :=
  if !s.inStage 6 then s
  else
    let s1 := s.loadCaps
    (if s1.flag Reg.RGL_BOOT_RECOVERY then s1 else s1.restoreCalibre.startComplications).stageEnd 7

/-- WINDING_W6. -/
def execWindingW6 (s : State) : Out := s.run State.windW6

/-! ### W7 (R22, R148, R248) -/

/-- W7: the instant is M(0); a C4 latch kept through a fundamental reset sets PROMISE_VOID again (R408). -/
def State.windW7 (s : State) : State :=
  if !s.inStage 7 then s
  else
    let s1 := s.setFld Reg.PWR_WIND_TOTAL_US 0 ((s.now - s.pwr.windStart) / Clk.us)
    let s2 := ((s1.setFld Reg.PWR_WIND_STAGE 0 15).setFld Reg.BPM_STATUS_ODIE_READY 0 1).setFld Reg.BPM_STATUS_DPOOL_READY 0 1
    let s3 : State := { s2 with flt := { s2.flt with promiseVoid := s2.flt.promiseVoid || s2.flt.c4 }
                                clb := { s2.clb with lastMark := s2.now, acc := 0 } }
    s3.placeMark s3.now

/-- WINDING_W7. -/
def execWindingW7 (s : State) : Out := s.run State.windW7

end Sys2Proof.Machine
end

