-- ==== Sys2Proof/Machine/Power.lean ====
section
/-! DEFINITION. Power domains, thermal limits and board management (20_winding_clocks_power.md R402, R405-R407, R410-R413). -/

namespace Sys2Proof.Machine

/-! ### Power domains (Tables 20.5 and 20.6) -/

def State.dom (s : State) (d : Nat) : Domain := Tab.get {} s.pwr.domains d

def State.setDom (s : State) (d : Nat) (x : Domain) : State :=
  { s with pwr := { s.pwr with domains := Tab.set s.pwr.domains d x } }

/-- PWR events (R413). -/
def State.pwrEvent (s : State) (code source : Nat) (args : List Nat) : State :=
  s.event Reg.PWR_EVQ_RING Reg.PWR_EVQ_EN code Blk.pwr source args

/-- Domains of the C648 that the C624 has fused off, whose contents it does not have (R3, Table 20.5). -/
def domFused (v : Variant) (d : Nat) : Bool :=
  decide (58 ≤ d) || (v == .c624 &&
    ((decide (3 ≤ d) && decide (d ≤ 5)) || d == 8 || d == 9 || (decide (14 ≤ d) && decide (d ≤ 17)) ||
     (decide (26 ≤ d) && decide (d ≤ 33)) || d == 35 || (decide (39 ≤ d) && decide (d ≤ 41)) || decide (50 ≤ d)))

/-- Eight cores from the first of a cluster. -/
def eight (c : Nat) : List Nat := (List.range 8).map (8 * c + ·)

/-- Off is allowed (Table 20.5). -/
def State.offAllowed (s : State) (d : Nat) : Bool :=
  if d < 6 then (eight d).all fun c => (s.core c).offline && !(s.core c).busy
  else if d < 10 then (eight (d - 6)).all fun c => (s.mzc c).offline && !(s.mzc c).busy
  else if d < 18 then (s.encCore (d - 10)).offline && !(s.encCore (d - 10)).busy && s.encLoad (d - 10) == 0
  else if d < 34 then s.fld Reg.RGL_STATUS_STATE (d - 18) != 1
  else if d < 36 then (List.range 16).all fun k => !(s.dch (16 * (d - 34) + k)).busy
  else if d < 42 then true
  else (List.range 4).all fun k => (s.portOfLane (4 * (d - 42) + k)).isNone

/-- The channel runs a descriptor that touches a DRAM group (R347). -/
def State.touches (s : State) (c d : Nat) : Bool :=
  decide (36 ≤ d) && decide (d < 42) && bit (s.fld Reg.MEM_STATUS_GROUPS) (d - 36) &&
  match (s.dch c).desc with
  | some e => Desc.touchesDevice e
  | none => false

/-- Step 1: the domain drains; STOP channels whose descriptor touches it stop at the access boundary (R348). -/
def State.drainStart (s : State) (d : Nat) : State :=
  let s1 := s.setDom d { s.dom d with state := 3, req := false, since := s.now }
  (List.range 32).foldl (fun t c =>
    if t.touches c d ∧ (t.dch c).stopPolicy then t.setDch c { t.dch c with domainStop := true } else t) s1

/-- Step 5: the domain wakes. -/
def State.wakeStart (s : State) (d : Nat) : State := s.setDom d { s.dom d with state := 1, req := true, since := s.now }

/-- A REQ write that can act now. -/
def State.domReq (s : State) (d : Nat) (on : Bool) : State :=
  let x := s.dom d
  match x.state, on with
  | 2, false => if s.offAllowed d then s.drainStart d else s.latch .pwrRefused
  | 2, true => s.setDom d { x with req := true }
  | 0, true => s.wakeStart d
  | 0, false => s.setDom d { x with req := false }
  | _, _ => s.setDom d { x with req := on }

/-- A write of PWR_DOM_CTL (R405, R407): a fused domain accepts no request, and a DRAM group's waits for a frequency change. -/
def State.domCtl (s : State) (v : Nat) : State :=
  let d := s.fld Reg.PWR_DOM_SEL_DOMAIN
  if domFused s.variant d then s
  else if 36 ≤ d ∧ d < 42 ∧ s.flag Reg.MEM_STATUS_FREQ_BUSY then
    { s with mem := { s.mem with heldReq := s.mem.heldReq ++ [(d, bit v 0)] } }
  else s.domReq d (bit v 0)

/-- PWR_DOMAIN_OFF_REQ. -/
def execPwrDomainOffReq (v : Word) (s : State) : Out :=
  s.run fun s => s.regCmd Blk.pwr 0 (rsvBits v 1) fun s => s.domCtl v.toNat

/-- PWR_DOMAIN_ON_REQ. -/
def execPwrDomainOnReq (v : Word) (s : State) : Out :=
  s.run fun s => s.regCmd Blk.pwr 0 (rsvBits v 1) fun s => s.domCtl v.toNat

/-- Step 4: OFF; if REQ names ON by now the domain wakes again (R407). -/
def State.domOff (s : State) (d : Nat) (forced : Bool) : State :=
  let x := s.dom d
  let s1 := (s.setDom d { x with state := 0, forced := forced }).pwrEvent 0x1A02 d [0, x.state, b2n forced]
  if x.req then s1.wakeStart d else s1

/-- Step 2: every access has its response, and no descriptor that touches the domain runs. -/
def State.domDrained (s : State) (d : Nat) : State :=
  if 58 ≤ d ∨ (s.dom d).state ≠ 3 ∨ (List.range 32).any (fun c => s.touches c d) then s else s.domOff d false

/-- DOMAIN_DRAIN_DONE. -/
def execDomainDrainDone (d : Nat) (s : State) : Out := s.run fun s => s.domDrained d

/-- Step 3: isolation is forced; the accesses that running descriptors have still to make get error responses. -/
def State.drainTimeoutAt (s : State) (d : Nat) : State :=
  let x := s.dom d
  if 58 ≤ d ∨ x.state ≠ 3 ∨ s.now < x.since + s.fld Reg.PWR_DRAIN_TIMEOUT_US * Clk.us then s
  else
    let s1 := (List.range 32).foldl (fun t c =>
      let y := t.dch c
      match y.desc with
      | some e =>
        let src := Desc.op e != 2 && (addrSpace (Desc.src e)).1
        if t.touches c d then t.setDch c { y with fails := y.fails ++ [⟨src, y.progress, 1, .domainOff⟩] } else t
      | none => t) s
    (s1.latch .pwrDrain).domOff d true

/-- DOMAIN_DRAIN_TIMEOUT. -/
def execDomainDrainTimeout (d : Nat) (s : State) : Out := s.run fun s => s.drainTimeoutAt d

/-- What a domain holds comes back from OFF (R406): cores OFFLINE with the current image of their kind, a regulator in STATE 0
with its local state reset, the DMA engine with its image; lane quads let their ports train. -/
def State.wakeContents (s : State) (d : Nat) : State :=
  if d < 6 then (eight d).foldl (fun t c =>
    (t.setCore c { t.core c with busy := false, faulted := false, offline := true, offlineReq := true, reservedFor := none }).escAdopt 1 c) s
  else if d < 10 then (eight (d - 6)).foldl (fun t c =>
    (t.setMzc c { t.mzc c with busy := false, faulted := false, offline := true, offlineReq := true }).escAdopt 3 c) s
  else if d < 18 then
    let c := d - 10
    (s.setEncCore c { s.encCore c with busy := false, faulted := false, offline := true, offlineReq := true }).escAdopt 2 c
  else if d < 34 then
    let g := d - 18
    let s1 := (s.clearHandlers g).setRegl g { cpls := (s.rgl_ g).cpls }
    State.setRglState { s1 with rgq := { s1.rgq with q := Tab.set s1.rgq.q g {} } } g 0
  else if d < 36 then s.escAdopt 6 (d - 34)
  else if d < 42 then s
  else ((List.range 8).map (4 * (d - 42) / 8 * 8 + ·)).foldl (fun t p => t.applyCfg p 1) s

/-- Step 6: ON; if REQ names OFF by now the domain drains again (R407). -/
def State.wakeDone (s : State) (d : Nat) : State :=
  let x := s.dom d
  if 58 ≤ d ∨ x.state ≠ 1 then s
  else
    let s1 := ((s.setDom d { x with state := 2 }).wakeContents d).pwrEvent 0x1A02 d [2, 1, b2n x.forced]
    if x.req then s1 else s1.drainStart d

/-- DOMAIN_WAKE_DONE. -/
def execDomainWakeDone (d : Nat) (s : State) : Out := s.run fun s => s.wakeDone d

/-- MEM_FREQ_DONE: the change ends, and the domain requests that waited for it act (R407). -/
def State.memFreqDone (s : State) : State :=
  let s1 := s.freqDone
  if s1.flag Reg.MEM_STATUS_FREQ_BUSY then s1
  else s1.mem.heldReq.foldl (fun t r => t.domReq r.1 r.2) { s1 with mem := { s1.mem with heldReq := [] } }

/-- MEM_FREQ_DONE. -/
def execMemFreqDone (s : State) : Out := s.run State.memFreqDone

/-! ### Thermal limits (R411, R412) -/

/-- The highest reading and its sensor, the lowest number among equals. -/
def hottest : List Int → Nat → Int × Nat
  | [], i => (-128, i)
  | t :: ts, i => let (m, k) := hottest ts (i + 1); if m ≤ t then (t, i) else (m, k)

/-- An s8 value as a byte. -/
def s8 (t : Int) : Nat := (t % 256).toNat

/-- A threshold with 3 °C of hysteresis: above it now. -/
def above (was : Bool) (limit : Nat) (t : Int) : Bool := if was then decide ((limit : Int) - 3 < t) else decide ((limit : Int) ≤ t)

/-- CRIT: every decode, encode and mezzanine core stops at its next safe point. -/
def State.thermalCrit (s : State) : State :=
  let s1 := s.latch .pwrCrit
  let s2 : State := { s1 with pwr := { s1.pwr with critStop := true } }
  [1, 2, 3].foldl (fun t kind => (List.range (escCount t.variant kind)).foldl (fun t i => t.escRequest kind i true) t) s2

/-- The thresholds act on the reading. -/
def State.thermalAct (s : State) (m : Int) (k : Nat) : State :=
  let was := s.flag Reg.PWR_THROTTLE_WARN
  let wasHot := s.flag Reg.PWR_THROTTLE_HOT
  let warn := above was (s.fld Reg.PWR_THERM_WARN) m
  let hot := above wasHot (s.fld Reg.PWR_THERM_HOT) m
  let s1 := (s.setFld Reg.PWR_THROTTLE_WARN 0 (b2n warn)).setFld Reg.PWR_THROTTLE_HOT 0 (b2n hot)
  let s2 := if warn ∧ !was then (s1.pwrEvent 0x1A01 k [1, s8 m]).latch .pwrWarn else s1
  let s3 :=
    if hot ∧ !wasHot then
      let t := (s2.pwrEvent 0x1A01 k [2, s8 m]).latch .pwrHot
      if t.flag Reg.PWR_THERM_MEM_STEP then t.freqRequest 1 else t
    else s2
  let s4 :=
    if !hot ∧ wasHot then
      let t := s3.pwrEvent 0x1A01 k [3, s8 m]
      if t.flag Reg.PWR_THERM_MEM_STEP then t.freqRequest 0 else t
    else s3
  let s5 := if !warn ∧ was then s4.pwrEvent 0x1A01 k [4, s8 m] else s4
  let s6 := if hot then s5.count Reg.PWR_HOT_MS else s5
  if 115 ≤ m then s6.thermalCrit else s6

/-- THERMAL_SAMPLE: the 12 die sensors are read. With the root PLL lost only the reading itself changes. -/
def execThermalSample (temps : List Int) (s : State) : Out :=
  let (m, k) := hottest (temps.take 12) 0
  let t := (s.setFld Reg.PWR_TEMP_MAX 0 (s8 m)).setFld Reg.PWR_TEMP_SENSOR 0 k
  .next (if temps = [] then s else if s.pwr.clocksStopped then t else (t.check .pwrSram).thermalAct m k)

/-! ### Board management (R402) -/

/-- The byte that an SMBus command returns (Table 20.2). -/
def State.smbusByte (s : State) (cmd : Nat) : Nat :=
  match cmd with
  | 0 => s.fld Reg.PWR_WIND_STAGE + 16 * s.fld Reg.PWR_WIND_CAUSE + 64 * s.fld Reg.RGL_BOOT_RECOVERY
  | 1 => s.fld Reg.PWR_TEMP_MAX
  | 2 => s.faultStatus
  | _ => 0xFF

/-- SMBUS_READ: nothing in the Cribo changes but the byte answered. -/
def execSmbusRead (cmd : Nat) (s : State) : Out :=
  .next { s with pwr := { s.pwr with smbus := s.smbusByte cmd } }

end Sys2Proof.Machine
end

