-- ==== Sys2Proof/Machine/HostLink.lean ====
section
/-! DEFINITION. The host attachment: link, BAR4, HDM, the ring line cache, tenants, MSI-X, IDE and SPDM, function reset
(02_host_attachment.md; 20_winding_clocks_power.md R409). -/

namespace Sys2Proof.Machine

/-! ### The link (R28-R31, R49, R50) -/

/-- Speed code 1 to 6, and a lane count of Table 2.8. -/
def linkShape (speed width : Nat) : Bool := decide (1 ≤ speed) && decide (speed ≤ 6) && ([1, 2, 4, 8, 16] : List Nat).contains width

/-- CXL protocols run at x4 or wider and 8 GT/s or faster (R28). -/
def cxlShape (speed width : Nat) : Bool := decide (3 ≤ speed) && decide (4 ≤ width)

/-- Host lanes that self-test left (Table 18.6). -/
def State.hostLanes (s : State) : Nat := 16 - ((List.range 16).filter fun n => bit (s.fld Reg.BST_HOST_FAIL) n).length

/-- The mode that the first L0 fixes (R28, R29): the host's highest, or a PCIe mode by the speed where the link is narrower or
slower than CXL runs. -/
def linkMode (hostMode speed width : Nat) : Nat :=
  if cxlShape speed width then hostMode else if speed = 6 ∧ hostMode ≠ 5 then 4 else 5

/-- The link is in L0 at a speed and width. -/
def State.enterL0 (s : State) (speed width : Nat) : State :=
  State.setFld (s.setFld Reg.HST_LINK_STATUS_SPEED 0 speed) Reg.HST_LINK_STATUS_WIDTH 0 width

/-- LINK_TRAINED: L0 is reached; the first time since PERST_N was released it fixes the mode. A port in modes 1 to 3 does not
enter L0 narrower or slower than CXL runs (R30). -/
def State.linkTrained (s : State) (hostMode speed width : Nat) (flit256 cacheEn memEn : Bool) : State :=
  if !s.hst.phyReleased ∨ !s.hst.perstN ∨ s.hst.linkUp ∨ !(linkShape speed width) ∨ s.hostLanes < width ∨ hostMode = 0 ∨
      5 < hostMode then s
  else
    let mode := if s.hst.modeFixed then s.fld Reg.HST_LINK_STATUS_MODE else linkMode hostMode speed width
    if mode ≤ 3 ∧ !(cxlShape speed width) then s
    else
      let cxl := decide (mode ≤ 3)
      let s1 := State.enterL0 { s with hst := { s.hst with linkUp := true, modeFixed := true } } speed width
      (((s1.setFld Reg.HST_LINK_STATUS_MODE 0 mode).setFld Reg.HST_LINK_STATUS_FLIT256 0 (b2n (flit256 && mode == 1))).setFld
        Reg.HST_LINK_STATUS_CACHE_EN 0 (b2n (cacheEn && cxl))).setFld Reg.HST_LINK_STATUS_MEM_EN 0 (b2n (memEn && cxl))

/-- LINK_TRAINED. -/
def execLinkTrained (hostMode speed width : Nat) (flit256 cacheEn memEn : Bool) (s : State) : Out :=
  s.run fun s => s.linkTrained hostMode speed width flit256 cacheEn memEn

/-- The link goes down without PERST_N: dirty lines of the ring line cache are discarded (R50). -/
def State.linkLost (s : State) : State :=
  if !s.hst.linkUp then s
  else State.latch { s with hst := { s.hst with linkUp := false, ccache := s.hst.ccache.filter fun e => !e.2.dirty } } .hstLinkdown

/-- LINK_DOWN. -/
def execLinkDown (s : State) : Out := s.run State.linkLost

/-- LINK_RETRAIN: speed and width change, the mode does not; in modes 1 to 3 one that does not qualify takes the link down
(R29, R30). -/
def State.linkRetrain (s : State) (speed width : Nat) : State :=
  if !s.hst.linkUp ∨ !(linkShape speed width) ∨ s.hostLanes < width then s
  else if s.fld Reg.HST_LINK_STATUS_MODE ≤ 3 ∧ !(cxlShape speed width) then s.linkLost
  else s.enterL0 speed width

/-- LINK_RETRAIN. -/
def execLinkRetrain (speed width : Nat) (s : State) : Out := s.run fun s => s.linkRetrain speed width

/-- CONFIG_REQUEST_EARLY: until W7 a configuration request gets Configuration RRS and a memory request is dropped (R49). -/
def execConfigRequestEarly (config : Bool) (s : State) : Out :=
  s.run fun s => if config then { s with hst := { s.hst with lastRrs := some !s.wound } } else s

/-- What the last BAR or CXL.mem read returned; `bad` for an abort or poisoned data. -/
def State.hostAnswer (s : State) (bs : Bytes) (bad : Bool) : State := { s with hst := { s.hst with lastRead := some (bs, bad) } }

/-- HOST_BAD_ACCESS: an access to BAR0 or BAR2 that R33 does not allow has no effect, and a read returns 0. -/
def State.badAccess (s : State) (write : Bool) : State :=
  if !s.hostReaches then s
  else
    let s1 := s.latch .hstAccess
    if write then s1 else s1.hostAnswer (leBytes 0 8) false

/-- HOST_BAD_ACCESS. -/
def execHostBadAccess (write : Bool) (bar _offset : Nat) (s : State) : Out :=
  s.run fun s => if bar = 0 ∨ bar = 2 then s.badAccess write else s

/-! ### BAR4 (R35, R36) and CXL.mem (R37, R38, R384) -/

/-- Device address of a BAR4 offset (R35). -/
def State.bar4Addr (s : State) (x : Nat) : Nat := s.fld Reg.HST_WIN_BASE_BASE (x / 2 ^ 34) * 2 ^ 34 + x % 2 ^ 34

/-- Lines that a list of device addresses touches, in order. -/
def linesOf (as : List Nat) : List Nat := (as.map (· / 64)).eraseDups

/-- Each line is read through the host's port; what the correction found is on the first. False for poisoned data. -/
def State.hostLines (s : State) (ecc : Ecc) : List Nat → Bool × State
  | [] => (true, s)
  | l :: ls =>
    let (ok, s1) := s.readLine l 12 0 ecc
    let (oks, s2) := State.hostLines s1 .clean ls
    (ok && oks, s2)

/-- The bytes that go to one line. -/
def onLine (l : Nat) : List Nat → Bytes → List (Nat × Byte)
  | a :: as, b :: bs => if a / 64 = l then (a, b) :: onLine l as bs else onLine l as bs
  | _, _ => []

/-- A host write, line by line. -/
def State.hostStore (s : State) (ecc : Ecc) (as : List Nat) (bs : Bytes) : List Nat → State
  | [] => s
  | l :: ls =>
    let mine := onLine l as bs
    let a := (mine.map (·.1)).headD 0
    State.hostStore (s.mergeWrite a (mine.map (·.2)) 12 ecc) .clean as bs ls

/-- A BAR4 access in modes 4 and 5: refused as a whole where any byte lies beyond the usable capacity (R35). -/
def State.bar4 (s : State) (write : Bool) (x len : Nat) (data : Bytes) (ecc : Ecc) : State :=
  let n := if write then data.length else len
  let mode := s.fld Reg.HST_LINK_STATUS_MODE
  if !s.hostReaches ∨ mode < 4 ∨ n = 0 ∨ 2 ^ 36 < x + n then s
  else
    let as := (List.range n).map fun i => s.bar4Addr (x + i)
    if as.any fun a => decide (s.usable ≤ a) then
      let s1 := s.latch .hstWindow
      if write then s1 else s1.hostAnswer [] true
    else if !(s.dramOk 0 1) then (if write then s else s.hostAnswer [] true) -- DESIGN CHOICE (log 123): the section is silent
    else if write then s.hostStore ecc as data (linesOf as)
    else
      let (ok, s1) := s.hostLines ecc (linesOf as)
      s1.hostAnswer (as.map s1.dramByte) !ok

/-- BAR4_ACCESS. -/
def execBar4Access (write : Bool) (offset len : Nat) (data : Bytes) (ecc : Ecc) (s : State) : Out :=
  s.run fun s => s.bar4 write offset len data ecc

/-- WIN_BASE_WRITE (R36). -/
def execWinBaseWrite (a : Nat) (v : Word) (s : State) : Out :=
  s.run fun s => s.hostCmd Blk.hst 0 (rsvBits v 0xF) fun s =>
    if a < 4 then s.setFld Reg.HST_WIN_BASE_BASE a (bits v.toNat 3 0) else s

/-- HST_HDM_CARVE.HOST_SIZE changes only while no HDM decoder is committed (R37). The spec names no way to take a commit back; here
only PERST_N and power-on do (DESIGN CHOICE, log 123). -/
def State.hostSize (s : State) (v : Nat) : State :=
  if s.hst.hdm.isEmpty then s.setFld Reg.HST_HDM_CARVE_HOST_SIZE 0 (bits v 11 0) else s.latch .hstBusy

/-- HOST_SIZE_WRITE. -/
def execHostSizeWrite (v : Word) (s : State) : Out :=
  s.run fun s => s.hostCmd Blk.hst 0 (rsvBits v 0xFFF) fun s => s.hostSize v.toNat

/-- HDM_DECODER_COMMIT: one of the two decoders, in modes 1 to 3, over part of the host-visible region (R37); without
back-invalidate enabled, or below mode 1's CXL 3.1, it operates as HDM-D (R31, Table 2.1). -/
def State.hdmCommit (s : State) (d first size : Nat) (biEnable : Bool) : State :=
  let mode := s.fld Reg.HST_LINK_STATUS_MODE
  if 2 ≤ d ∨ !s.hostReaches ∨ mode = 0 ∨ 3 < mode ∨ s.fld Reg.HST_HDM_CARVE_HOST_SIZE < first + size then s
  else
    let s1 : State := { s with hst := { s.hst with hdm := Tab.set s.hst.hdm d ⟨biEnable && mode == 1, first, size⟩ } }
    s1.setFld Reg.HST_LINK_STATUS_HDM_DB 0 (b2n s1.hdmDb)

/-- HDM_DECODER_COMMIT. -/
def execHdmDecoderCommit (d : HdmRange) (biEnable : Bool) (s : State) : Out :=
  s.run fun s => s.hdmCommit d.decoder d.first d.size biEnable

/-- A CXL.mem access to one line, done at once. -/
def State.memAccess (s : State) (q : HostAcc) : State :=
  if !(s.dramOk (q.line * 64) 64) then (if q.write then s else s.hostAnswer (List.replicate 64 0) true)
  else if q.write then s.mergeWrite (q.line * 64) ((q.data ++ List.replicate 64 0).take 64) 12 q.ecc
  else
    let (ok, s1) := s.readLine q.line 12 0 q.ecc
    s1.hostAnswer (s1.dramBytes (q.line * 64) 64) !ok

/-- The first write that waits for a line, and the rest. -/
def takeBi (line : Nat) : List BiWrite → Option (BiWrite × List BiWrite)
  | [] => none
  | w :: ws => if w.line = line then some (w, ws) else (takeBi line ws).map fun r => (r.1, w :: r.2)

/-- A device write waits for the line's back-invalidate response (R38). -/
def State.biWaits (s : State) (line : Nat) : Bool := s.hst.biWait.any fun w => w.line == line

/-- BI_SNOOP_RESPONSE: the device write that waited for the line is made, and once none is left for the line the host accesses that
came meanwhile are done in order (R38). The response is CXL.mem traffic, which an IDE failure drops (R48). -/
def State.biResponse (s : State) (line : Nat) : State :=
  if s.hst.ideInsecure then s
  else match takeBi line s.hst.biWait with
    | none => s
    | some (w, rest) =>
      let s1 := State.dramPut { s with hst := { s.hst with biWait := rest } } (w.line * 64 + w.offset) w.data
      if s1.biWaits line then s1
      else
        let mine := s1.hst.hostWait.filter fun q => q.line == line
        mine.foldl State.memAccess { s1 with hst := { s1.hst with hostWait := s1.hst.hostWait.filter fun q => q.line != line } }

/-- BI_SNOOP_RESPONSE. -/
def execBiSnoopResponse (line : Nat) (s : State) : Out := s.run fun s => s.biResponse line

/-- A CXL.mem access to one line that a committed decoder exposes (R37). One to a line that a device write waits for comes after that
write (R38); after an IDE failure the traffic is dropped (R48). -/
def State.cxlMem (s : State) (write : Bool) (addr : Nat) (data : Bytes) (ecc : Ecc) : State :=
  let mode := s.fld Reg.HST_LINK_STATUS_MODE
  let line := addr / 64
  let q : HostAcc := ⟨write, line, data, ecc⟩
  if !s.hostReaches ∨ mode = 0 ∨ 3 < mode ∨ !s.flag Reg.HST_LINK_STATUS_MEM_EN ∨ s.hst.ideInsecure ∨
      s.decoderOf (line * 64) = none then s
  else if s.biWaits line then { s with hst := { s.hst with hostWait := s.hst.hostWait ++ [q] } }
  else s.memAccess q

/-- CXL_MEM_ACCESS. -/
def execCxlMemAccess (write : Bool) (addr : Nat) (data : Bytes) (ecc : Ecc) (s : State) : Out :=
  s.run fun s => s.cxlMem write addr data ecc

/-! ### The ring line cache (R39, R41) -/

/-- HOST_LINE_SNOOP: a host write to a cached line snoops it out (R39); after an IDE failure the traffic is dropped (R48). -/
def execHostLineSnoop (line : Nat) (s : State) : Out := s.run fun s => if s.cacheFlows then s.dropLine line else s

/-- A write of HST_CCACHE_CTL; FLUSH starts a flush. -/
def State.ccacheCtl (s : State) (v : Nat) : State :=
  let s1 := s.setFld Reg.HST_CCACHE_CTL_ENABLE 0 (bits v 0 0)
  if bit v 1 then State.setFld { s1 with hst := { s1.hst with flushing := true } } Reg.HST_CCACHE_STATUS_FLUSH_BUSY 0 1 else s1

/-- CCACHE_FLUSH. -/
def execCcacheFlush (v : Word) (s : State) : Out := s.run fun s => s.hostCmd Blk.hst 0 (rsvBits v 3) fun s => s.ccacheCtl v.toNat

/-- CCACHE_FLUSH_DONE: every line is written back and invalid. -/
def execCcacheFlushDone (s : State) : Out :=
  s.run fun s =>
    if s.hst.flushing then
      let s1 := s.hst.ccache.foldl (fun t e => t.dropLine e.1) s
      State.setFld { s1 with hst := { s1.hst with flushing := false } } Reg.HST_CCACHE_STATUS_FLUSH_BUSY 0 0
    else s

/-! ### Tenants (R43-R45) -/

/-- The highest ABI level, 2 or 1, that an offer shares with B0's; 0 for none (R44). -/
def abiLevel (offer : Nat) : Nat := if bit offer 2 then 2 else if bit offer 1 then 1 else 0

/-- A write of HST_TENANTn: PASID, PASID_EN and VALID; setting VALID selects the ABI level. -/
def State.tenantWrite (s : State) (n v : Nat) : State :=
  if 64 ≤ n then s
  else
    let s1 := (s.setFld Reg.HST_TENANT_PASID n (bits v 19 0)).setFld Reg.HST_TENANT_PASID_EN n (bits v 20 20)
    if !(bit v 31) then s1.setFld Reg.HST_TENANT_VALID n 0
    else if s.flag Reg.HST_TENANT_VALID n then s1
    else
      let abi := abiLevel (s.fld Reg.HST_TENANT_ABI_OFFER n)
      (s1.setFld Reg.HST_TENANT_ABI n abi).setFld Reg.HST_TENANT_VALID n (b2n (abi != 0))

/-- TENANT_ENABLE. -/
def execTenantEnable (n : Nat) (v : Word) (s : State) : Out :=
  s.run fun s => s.hostCmd Blk.hst 0 (rsvBits v 0x871FFFFF) fun s => s.tenantWrite n v.toNat

/-- TENANT_DISABLE. -/
def execTenantDisable (n : Nat) (v : Word) (s : State) : Out :=
  s.run fun s => s.hostCmd Blk.hst 0 (rsvBits v 0x871FFFFF) fun s => s.tenantWrite n v.toNat

/-- One entry of HST_DBGRP_OWNER (R45). -/
def State.ownerEntry (s : State) (g b : Nat) : State :=
  let old := s.fld Reg.HST_DBGRP_OWNER_TENANT g + 128 * s.fld Reg.HST_DBGRP_OWNER_VALID g
  if s.variant.groups ≤ g then (if b = 0 then s else s.badId Blk.hst 0)
  else if bits b 5 0 + 128 * bits b 7 7 = old then s
  else if (List.range 32).any fun i => (s.ring (32 * g + i)).enable then s.latch .hstBusy
  else (s.setFld Reg.HST_DBGRP_OWNER_TENANT g (bits b 5 0)).setFld Reg.HST_DBGRP_OWNER_VALID g (bits b 7 7)

/-- A write of one word of HST_DBGRP_OWNER: the entries of four groups. -/
def State.ownerWrite (s : State) (w v : Nat) : State :=
  if 64 ≤ w then s
  else
    let s1 := (List.range 4).foldl (fun t h => t.ownerEntry (4 * w + h) (bits v (8 * h + 7) (8 * h))) s
    if (List.range 4).any fun h => bit v (8 * h + 6) then s1.latch (.rsvWrite Blk.hst) else s1

/-- DBGRP_OWNER_WRITE. -/
def execDbgrpOwnerWrite (w : Nat) (v : Word) (s : State) : Out :=
  s.run fun s => s.hostCmd Blk.hst 0 0 fun s => s.ownerWrite w v.toNat

/-! ### MSI-X (R46) -/

/-- The message that waits on an unmasked vector is sent (R46). -/
def State.sendPending (s : State) (v : Nat) : State :=
  let x := s.vec v
  if x.pba && !x.masked && !s.hst.fnMasked then
    (s.setVec v { x with pba := false, sent := x.sent + 1 }).count Reg.INT_HOST_MSGS
  else s

/-- A vector's mask clears: a message that waited is sent, unless the function mask holds it. -/
def State.unmask (s : State) (v : Nat) : State :=
  if 2048 ≤ v then s else (s.setVec v { s.vec v with masked := false }).sendPending v

/-- The function mask is written; when it clears, every message that waited on an unmasked vector is sent (R46). -/
def State.fnMask (s : State) (m : Bool) : State :=
  let s1 : State := { s with hst := { s.hst with fnMasked := m } }
  if m then s1 else (s.hst.msix.map (·.1)).foldl State.sendPending s1

/-- MSIX_UNMASK: a vector's mask clears, or the function mask is written. -/
def execMsixUnmask (mask : MsixMask) (s : State) : Out :=
  s.run fun s => if !s.hostReaches then s else match mask with
    | .function m => s.fnMask m
    | .vector v => s.unmask v

/-! ### IDE and SPDM (R47, R48, R375) -/

/-- IDE_CHECK_FAIL: the IDE stream is insecure, and CXL.cache and CXL.mem traffic is dropped until it is keyed again. -/
def State.ideFail (s : State) : State :=
  if !s.flag Reg.HST_LINK_STATUS_IDE_ACTIVE then s
  else
    let s1 := (s.takeInject .hstIde).getD s
    State.latch { s1.setFld Reg.HST_LINK_STATUS_IDE_ACTIVE 0 0 with hst := { s1.hst with ideInsecure := true } } .hstIde

/-- IDE_CHECK_FAIL. -/
def execIdeCheckFail (s : State) : Out := s.run State.ideFail

/-- SPDM request codes that the capabilities of R47 serve, by DMTF DSP0274 (PRESUMED, log 51). -/
def spdmServed (code : Nat) : Bool :=
  ([0x81, 0x82, 0x83, 0x84, 0xE0, 0xE1, 0xE3, 0xE4, 0xE5, 0xE8, 0xE9, 0xEC, 0xEE, 0xFE] : List Nat).contains code

/-- Requests that need a signature or a session key (R375): all but version, capabilities, algorithms, digests, certificate, and
measurements without a signature. -/
def spdmKeyed (code : Nat) (data : Bytes) : Bool :=
  ([0x83, 0xE4, 0xE5, 0xE8, 0xE9, 0xEC, 0xEE, 0xFE] : List Nat).contains code || (code == 0xE0 && bit (field data 0 1) 0)

/-- Requests that are served only in a secured session: FINISH onward, vendor-defined IDE_KM and SET_CERTIFICATE (R47; PRESUMED,
log 51). -/
def spdmSecured (code : Nat) : Bool := ([0xE8, 0xE9, 0xEC, 0xEE, 0xFE] : List Nat).contains code

/-- Capability flags of R47 in the CAPABILITIES answer: CERT, CHAL, MEAS with signature, ENCRYPT, MAC and KEY_EX (bit places PRESUMED,
log 51). -/
def spdmCaps : Nat := 0x2D6

/-- What measurement block `i` covers (Table 2.6): 1 boot ROM, 2 firmware image and its version, 3 escapement images, 4 complications in
load order, 5 locked circuit caps, 6 the active calibre. -/
def State.measured (s : State) (i : Nat) : Bytes :=
  match i with
  | 1 => Config.bootRom
  | 2 => leBytes s.pwr.bundleSlot 1 ++ s.rgl.runtime
  | 3 => s.esc.cur.flatMap fun e => leBytes e.1 1 ++ (Tab.get {} s.esc.images e.2 : EscImage).words
  | 4 => (List.range (s.rgl.order + 1)).flatMap fun k =>
      s.rgl.regs.flatMap fun g => (g.2.cpls.filter fun c => c.2.order == k).flatMap fun c => c.2.image
  | 5 => (List.range s.variant.circuits).flatMap fun c => leBytes (Tab.get 0 s.fus.caps c) 8 ++ leBytes (Tab.get 0 s.fus.slews c) 8
  | _ => (s.activeImg).getD []

/-- The certificate chain of a slot (R47): the Olimal chain in slot 0, what SET_CERTIFICATE wrote in slot 1. -/
def State.certChain (s : State) (slot : Nat) : Bytes := if slot = 0 then Config.olimalChain else s.hst.slot1

/-- An ECDSA P-384 signature over an answer (R47): 96 bytes whose value the device key fixes, free here (log 51). -/
def State.signature (s : State) : Bytes × State :=
  ((List.range 96).map (Config.freeByte s.freeCtr), { s with freeCtr := s.freeCtr + 1 })

/-- What an answer carries (R47, Table 2.6); a challenge, signed measurements and a key exchange end in a signature. -/
def State.spdmBody (s : State) (code : Nat) (data : Bytes) : Bytes × State :=
  let blocks := fun (l : List Nat) => l.flatMap fun i => leBytes i 1 ++ Config.sha384 (s.measured i)
  let sig := fun (b : Bytes) => let (g, t) := s.signature; (b ++ g, t)
  match code with
  | 0x84 => ([0x12], s)
  | 0xE1 => (leBytes spdmCaps 4, s)
  | 0xE3 => (leBytes 0x80 4 ++ leBytes 2 4, s)
  | 0x81 => (leBytes (if s.hst.slot1Written then 3 else 1) 1 ++ Config.sha384 (s.certChain 0) ++
      (if s.hst.slot1Written then Config.sha384 (s.certChain 1) else []), s)
  | 0x82 => (s.certChain (field data 0 1 % 16), s)
  | 0x83 => sig (Config.sha384 (s.certChain (field data 0 1 % 16)))
  | 0xE0 =>
    let n := field data 1 1
    let b := if n = 0 then leBytes 6 1 else if n = 0xFF then blocks [1, 2, 3, 4, 5, 6] else if n ≤ 6 then blocks [n] else []
    if bit (field data 0 1) 0 then sig b else (b, s)
  | 0xE4 => sig []
  | _ => ([], s)

/-- Records an SPDM answer. -/
def State.spdmAnswer (s : State) (code : Nat) (err : Bool) (body : Bytes) : State :=
  { s with hst := { s.hst with spdmLast := some ⟨code, err, body⟩ } }

/-- SET_CERTIFICATE: slot 1, once in a winding, over a secured session (R47). -/
def State.setCert (s : State) (slot : Nat) (secured : Bool) (chain : Bytes) : State :=
  if !s.wound ∨ !s.hst.linkUp then s
  else if slot = 1 ∧ secured ∧ s.hst.keysPresent ∧ !s.hst.slot1Written then
    State.spdmAnswer { s with hst := { s.hst with slot1 := chain, slot1Written := true } } 0xEE false []
  else s.spdmAnswer 0xEE true []

/-- An SPDM request is answered (R47). A key exchange and its FINISH open a secured session and END_SESSION closes it; in a
vendor-defined request of the session IDE_KM starts (object 4) or stops (object 5) the link's IDE stream (PRESUMED, log 51). -/
def State.spdm (s : State) (code : Nat) (secured : Bool) (data : Bytes) : State :=
  if !s.wound ∨ !s.hst.linkUp then s
  else
    let err := !(spdmServed code) || (spdmKeyed code data && !s.hst.keysPresent) || (spdmSecured code && !secured) ||
      (secured && !s.hst.spdmSession) || (code == 0x82 && decide (1 < field data 0 1 % 16)) ||
      (code == 0x83 && decide (1 < field data 0 1 % 16))
    if err then s.spdmAnswer code true []
    else if code = 0xEE then s.setCert (field data 0 1 % 16) secured (data.drop 1)
    else
      let (body, t) := s.spdmBody code data
      let s1 := t.spdmAnswer code false body
      match code with
      | 0xE5 => { s1 with hst := { s1.hst with spdmSession := true } }
      | 0xEC => { s1 with hst := { s1.hst with spdmSession := false } }
      | 0xFE =>
        if field data 0 1 = 4 then
          State.setFld { s1 with hst := { s1.hst with ideInsecure := false } } Reg.HST_LINK_STATUS_IDE_ACTIVE 0 1
        else if field data 0 1 = 5 then s1.setFld Reg.HST_LINK_STATUS_IDE_ACTIVE 0 0
        else s1
      | _ => s1

/-- SPDM_REQUEST. -/
def execSpdmRequest (code : Nat) (data : SpdmData) (s : State) : Out := s.run fun s => s.spdm code data.secured data.bytes

/-- SET_CERTIFICATE. -/
def execSetCertificate (slot : Nat) (secured : Bool) (chain : Bytes) (s : State) : Out :=
  s.run fun s => s.setCert slot (secured && s.hst.spdmSession) chain

/-! ### Function reset (R409) -/

/-- Every instance of a block type returns to its reset values; its C4 latches stay (R367). -/
def State.resetPages (s : State) (blk : Nat) (keep : List Fld) : State :=
  (List.range 256).foldl (fun t i =>
    if t.hasPage blk i then
      let c4 := t.sticky (pageOf blk i) &&& Src.c4Mask blk
      let u := t.clearPage blk i keep
      if c4 = 0 then u else u.setFld Reg.PG_ERR_STICKY (pageOf blk i) c4
    else t) s

/-- Every stream closes without a job of its own. -/
def State.closeStreams (s : State) : State :=
  s.dec.streams.foldl (fun t e =>
    match (t.stream e.1).state with
    | 0 => t
    | 4 => (t.closeStream e.1).streamTo e.1 0 0
    | _ => t.resetStream e.1) s

/-- Every encode session closes without a job of its own. -/
def State.closeSessions (s : State) : State :=
  s.enc.sessions.foldl (fun t e =>
    if (t.ses e.1).state = 1 then (t.setSes e.1 { t.ses e.1 with state := 2, waiting := none }).encEnd e.1 else t) s

/-- Streams and encode sessions close, and chains stop with ABORTED. -/
def State.flrEngines (s : State) : State :=
  let s2 := s.closeStreams.closeSessions
  (List.range 32).foldl (fun t c =>
    if (t.dch c).busy then
      (t.setDch c { t.dch c with lastSt := Dst.aborted, lastErr := Dst.aborted, job := (t.dch c).job }).chainEnd c false
    else t) s2

/-- Fields of the HST page that an FLR keeps: the link and the carve-out (R50). -/
def flrKeep : List Fld :=
  [Reg.HST_LINK_STATUS_MODE, Reg.HST_LINK_STATUS_SPEED, Reg.HST_LINK_STATUS_WIDTH, Reg.HST_LINK_STATUS_FLIT256,
   Reg.HST_LINK_STATUS_CACHE_EN, Reg.HST_LINK_STATUS_MEM_EN, Reg.HST_LINK_STATUS_HDM_DB, Reg.HST_LINK_STATUS_IDE_ACTIVE,
   Reg.HST_HDM_CARVE_HOST_SIZE]

/-- Every ring in use is disabled. -/
def State.flrRings (s : State) : State :=
  (s.rng.rings.map (·.1)).foldl (fun t r => if (t.ring r).enable then t.disableRing r else t) s

/-- The query engine's registers go back to reset. -/
def State.flrQuery (s : State) : State :=
  [Reg.SYS_QUERY_RESULT_VALID, Reg.SYS_QUERY_RESULT_READS, Reg.SYS_QUERY_RESULT_SEQ, Reg.SYS_QUERY_RESULT_STATUS,
    Reg.SYS_QUERY_RESULT_IGNORED, Reg.SYS_QUERY_DATA].foldl
    (fun t f => (List.range 4).foldl (fun t i => if i = 0 ∨ f.id = Reg.SYS_QUERY_DATA.id then t.setFld f i 0 else t) t) s

/-- The register pages that go back to reset. -/
def State.flrFields (s : State) : State :=
  (((s.resetPages Blk.hst flrKeep).resetPages Blk.rng []).resetPages Blk.mtr []).resetPages Blk.dma []

/-- Rings, meters, queries, DMA channels, messages and the line cache go; host interrupts are off. -/
def State.flrRecords (s : State) : State :=
  State.setFld { s with
    rng := { s.rng with rings := [], meters := [], query := none }
    dma := {}
    hst := { s.hst with msix := [], ccache := [], flushing := false } } Reg.INT_GLOBAL_HOST_EN 0 0

/-- The pages that go back to their reset values. -/
def State.flrPages (s : State) : State := s.flrRings.flrFields.flrQuery.flrRecords

/-- FLR. -/
def State.functionReset (s : State) : State := if s.wound then s.flrEngines.flrPages else s

/-- FLR. -/
def execFlr (s : State) : Out := s.run State.functionReset

end Sys2Proof.Machine
end

