-- ==== Sys2Proof/Machine/Ident.lean ====
section
/-! DEFINITION. What comes back up a port: identity records and the identity engine (R303, R307-R310), STATUS frames (R306),
frames for the regulators (R301), and the end of training, at which identity reads start (14_panel_link.md). -/

namespace Sys2Proof.Machine

/-! ### Upstream frames (R297, R299) -/

/-- Fields of a whole link frame, SOF to EOF (Table 14.5). -/
def Up.type (f : Bytes) : Nat := bits (field f 4 1) 3 0
def Up.src (f : Bytes) : Nat := field f 6 1
def Up.len (f : Bytes) : Nat := bits (field f 10 2) 12 0
def Up.frame (f : Bytes) : Nat := field f 18 2
def Up.tag (f : Bytes) : Nat := field f 20 2
def Up.payload (f : Bytes) : Bytes := slice f 24 (Up.len f)

/-- HCRC and CRC-32 check. -/
def Up.valid (f : Bytes) : Bool :=
  decide (32 ≤ f.length) && f.length == Up.len f + 32 && (crc16 (slice f 4 18)).toNat == field f 22 2 &&
  crc32 (slice f 4 (20 + Up.len f)) == field f (24 + Up.len f) 4

/-- A frame that arrived on a port in DATA: a bad one counts in PLK_RX_CRC; one from a position without a version is dropped. -/
def State.upstream (s : State) (p : Nat) (f : Bytes) (k : State → State) : State :=
  if !(s.inData p) then s
  else if !(Up.valid f) then s.count Reg.PLK_RX_CRC p
  else if (s.posn p (Up.src f)).version = 0 then s
  else k s

/-- The switch input for a port's upstream frames (R288, R301). -/
def State.upInput (s : State) (p : Nat) : Nat := if s.trunk p then 41 + p / 16 else 45

/-- A frame enters the switch. -/
def State.intoSwitch (s : State) (p : Nat) (f : Bytes) : State :=
  let i := s.upInput p
  let x := s.swin i
  let g : LinkFrame := { len := f.length, isOpen := true, input := i, data := f }
  s.setSwin i { x with wait := x.wait ++ [g] }

/-- UPSTREAM_FRAME: neither a STATUS frame nor a management reply. -/
def execUpstreamFrame (port : Nat) (frame : Bytes) (s : State) : Out :=
  s.run fun s => s.upstream port frame fun s =>
    if Up.type frame = 3 ∨ Up.type frame = 4 then s else (s.check .plkSram port).intoSwitch port frame

/-! ### The identity engine (R303, R307, R309) -/

/-- The 16-byte argument block of a request (Table 14.8). -/
def mgmtBlock (op space len addr : Nat) : Bytes :=
  leBytes op 1 ++ leBytes space 1 ++ leBytes len 2 ++ leBytes addr 4 ++ List.replicate 8 0

/-- A request of the port's own goes into the class 0 queue of the subscriber; its TAG. -/
def State.identSend (s : State) (p q : Nat) (payload : Bytes) : Nat × State :=
  let y := s.port p
  let tag := 0x8000 + y.tag
  let data := linkBytes 2 0 false false q 0 0 0 0 0 tag payload
  let f : LinkFrame := { len := data.length, isOpen := true, sub := q, cls := 0, ident := true, data := data }
  let s1 := s.setPort p { y with tag := (y.tag + 1) % 32768 }
  let x := s1.sport p
  (tag, s1.setSport p { x with leaves := Tab.set x.leaves (leafKey q 0) (x.leaf (leafKey q 0) ++ [f]) })

/-- The engine asks for a position's record, as try n. -/
def State.askRecord (s : State) (p q n : Nat) : State :=
  let (tag, s1) := s.identSend p q (mgmtBlock 1 0 256 0)
  s1.setPosn p q { s1.posn p q with engine := 1, tries := n, tag := tag, since := s.now }

/-- MARK_ADJ of a position in ns, and whether it lies beyond the display delay (R303). -/
def State.markAdj (s : State) (x : Position) : Int × Bool :=
  let v : Int := (s.fld Reg.PLK_MARK_DISPLAY_US * 1000 : Nat) - x.latNs
  if v < 0 then (0, true) else (v, false)

/-- A signed value as an unsigned one of w bits. -/
def unsign (w : Nat) (v : Int) : Nat := (v % (2 ^ w : Nat)).toNat

/-- The engine writes MARK_ADJ, as try n; a position out of range is reported with the first. -/
def State.writeAdj (s : State) (p q n : Nat) : State :=
  let x := s.posn p q
  let (v, far) := s.markAdj x
  let s0 := if far ∧ n = 0 then
      (s.plkEvent 0x0F03 p [q, unsign 32 x.latNs, s.fld Reg.PLK_MARK_DISPLAY_US * 1000]).latch .plkMark p
    else s
  let (tag, s1) := s0.identSend p q (mgmtBlock 2 1 4 0 ++ leBytes (unsign 32 v) 4)
  s1.setPosn p q { s1.posn p q with engine := 2, tries := n, tag := tag, since := s.now }

/-- The engine waits 100 ms before it repeats the read (3) or the write (4). -/
def State.engineWait (s : State) (p q e : Nat) : State :=
  s.setPosn p q { s.posn p q with engine := e, tries := 0, since := s.now }

/-- A try of the engine came to nothing: retried twice, then left for 100 ms. -/
def State.engineRetry (s : State) (p q : Nat) : State :=
  let x := s.posn p q
  if x.engine = 1 then (if x.tries < 2 then s.askRecord p q (x.tries + 1) else s.engineWait p q 3)
  else if x.tries < 2 then s.writeAdj p q (x.tries + 1)
  else s.engineWait p q 4

/-- A valid record has come: it is the last good one, and MARK_ADJ is written next (R309). -/
def State.newRecord (s : State) (p q : Nat) (r : Bytes) : State :=
  (s.setPosn p q { s.posn p q with record := some r, recFrame := s.frameCount }).writeAdj p q 0

/-- The record differs from the last good one in serial number, geometry or emitter count (R309). -/
def Position.changes (x : Position) (r : Bytes) : Bool :=
  match x.record with
  | some o => Rec.serial o != Rec.serial r || Rec.w o != Rec.w r || Rec.h o != Rec.h r || Rec.emitters o != Rec.emitters r
  | none => true

/-! ### FRESH reads and TILE_IDENTITY_READ (R310) -/

/-- A FRESH read asks the receiver, as try n. -/
def State.askFresh (s : State) (p q j n : Nat) : State :=
  let (tag, s1) := s.identSend p q (mgmtBlock 1 0 256 0)
  let x := s1.posn p q
  s1.setPosn p q { x with fresh := x.fresh ++ [⟨j, tag, n, s.now⟩] }

/-- The command ends with the last good record (Table 14.10). -/
def State.identDone (s : State) (j p q : Nat) : State :=
  let (dev, a) := addrSpace (field (s.job j).args 16 8)
  let x := s.posn p q
  (s.spaceWrite dev a (x.record.getD []) (some (s.job j).tenant)).finish j St.ok x.version x.recFrame (unsign 32 x.latNs)

/-- TILE_IDENTITY_READ. -/
def State.identRead (s : State) (j : Nat) : State :=
  let a := (s.job j).args
  let p := bits (field a 8 1) 5 0
  let q := field a 9 1
  let fresh := bit (field a 10 1) 0
  let (dev, d) := addrSpace (field a 16 8)
  if s.variant.ports ≤ p ∨ !(s.rangeOk dev d 256) then s.finish j St.badArg
  else if !(s.inData p) ∨ (!fresh ∧ (s.posn p q).record = none) then s.finish j St.state
  else if fresh then (s.start j).askFresh p q j 0
  else s.identDone j p q

/-- TILE_IDENTITY_READ. -/
def execTileIdentityRead (job : Nat) (s : State) : Out :=
  s.run fun s => if s.canStart job 0x41 then s.identRead job else s

/-- A try of a FRESH read came to nothing: tried three times, then TIMEOUT. -/
def State.freshRetry (s : State) (p q : Nat) (r : FreshRead) : State :=
  let x := s.posn p q
  let s1 := s.setPosn p q { x with fresh := x.fresh.filter fun y => y.tag != r.tag }
  if r.tries < 2 then s1.askFresh p q r.job (r.tries + 1) else s1.finish r.job St.timeout

/-- A FRESH record has come: one that differs is handled as R309 says. -/
def State.freshGot (s : State) (p q : Nat) (r : FreshRead) (rec : Bytes) : State :=
  let x := s.posn p q
  let s1 := s.setPosn p q { x with fresh := x.fresh.filter fun y => y.tag != r.tag, record := some rec, recFrame := s.frameCount
                                   good := x.good && !(x.changes rec) }
  let s2 := if x.changes rec then s1.writeAdj p q 0 else s1
  s2.identDone r.job p q

/-! ### Replies -/

/-- The reply of an engine request or of a FRESH read. -/
def State.identReply (s : State) (p q tag : Nat) (pay : Bytes) : State :=
  let x := s.posn p q
  let ok := field pay 0 1 == 0
  let rec_ := slice pay 16 256
  let good := ok && Rec.valid rec_
  if (x.engine = 1 ∨ x.engine = 2) ∧ x.tag = tag then
    if x.engine = 1 then (if good then s.newRecord p q rec_ else s.engineWait p q 3)
    else if ok then s.setPosn p q { x with engine := 0, tries := 0, good := true }
    else s.engineRetry p q
  else match x.fresh.find? fun r => r.tag == tag with
    | some r => if good then s.freshGot p q r rec_ else s.freshRetry p q r
    | none => s

/-- MGMT_RESPONSE: a reply to the engine, or one that enters the switch (R307). -/
def execMgmtResponse (port : Nat) (frame : Bytes) (s : State) : Out :=
  s.run fun s => s.upstream port frame fun s =>
    if Up.type frame ≠ 3 then s
    else if 0x8000 ≤ Up.tag frame then s.identReply port (Up.src frame) (Up.tag frame) (Up.payload frame)
    else s.intoSwitch port frame

/-- 2 ms without a reply (R309). -/
def State.replyTimeout (s : State) (p q : Nat) : State :=
  let x := s.posn p q
  let old := fun t => decide (t + 2 * Clk.ms ≤ s.now)
  if !(s.inData p) then s
  else if (x.engine = 1 ∨ x.engine = 2) ∧ old x.since then s.engineRetry p q
  else match x.fresh.find? fun r => old r.since with
    | some r => s.freshRetry p q r
    | none => s

/-- IDENTITY_REPLY_TIMEOUT. -/
def execIdentityReplyTimeout (port pos : Nat) (s : State) : Out := s.run fun s => s.replyTimeout port pos

/-- 100 ms have passed: the record is asked for, or MARK_ADJ written, once more (R309). -/
def State.reread (s : State) (p q : Nat) : State :=
  let x := s.posn p q
  if !(s.inData p) ∨ s.now < x.since + 100 * Clk.ms then s
  else if x.engine = 3 then s.askRecord p q 0
  else if x.engine = 4 then s.writeAdj p q 2
  else s

/-- IDENTITY_REREAD. -/
def execIdentityReread (port pos : Nat) (s : State) : Out := s.run fun s => s.reread port pos

/-! ### The end of training (Table 14.4 step 6, R309) -/

/-- The port enters DATA; the record of every position with a version is asked for. -/
def State.trainComplete (s : State) (p : Nat) : State :=
  let y := s.port p
  if y.state ≠ 2 ∨ y.step ≠ 5 then s
  else
    let s1 := ((s.latencies p).setPortState p 3 y.cause).emit p idleSet
    ((y.pos.filter fun q => q.2.version != 0 && decide (q.1 < y.receivers)).map (·.1)).foldl
      (fun t q => t.askRecord p q 0) (s1.count Reg.PLK_TRAINS p)

/-- TRAIN_COMPLETE. -/
def execTrainComplete (port : Nat) (s : State) : Out := s.run fun s => s.trainComplete port

/-! ### STATUS frames (R306) -/

/-- The tile at a position of an image's map, and whether it is a mirror there. -/
def Img.at_ (im : Bytes) (p q : Nat) : Option (Bytes × Bool) :=
  match (Img.tiles im).find? fun e => Tile.port e == p && Tile.pos e == q with
  | some e => some (e, false)
  | none =>
    match (Img.mirrors im).find? fun m => Mirror.port m == p && Mirror.pos m == q with
    | some m => (Img.tile im (Mirror.tile m)).map fun e => (e, true)
    | none => none

/-- Ranges of a STATUS payload (Table 14.7). -/
def Status.ranges (pay : Bytes) : List (Nat × Nat) :=
  (List.range (min 16 (field pay 3 1))).map fun i => (field pay (12 + 4 * i) 2, field pay (14 + 4 * i) 2)

/-- A report's damage reaches the encoder, where the tile is still the one that frame used and is lit. -/
def State.statusDamage (s : State) (p : Nat) (f : Bytes) (im e : Bytes) (mirror : Bool) : State :=
  let pay := Up.payload f
  let whole := bit (field pay 2 1) 0
  match (s.activeImg.bind fun a => Img.tile a (Tile.id e)) with
  | none => s
  | some now =>
    let lit := if mirror then s.mirrorLit now p else s.lit now
    if !(Tile.shares now e) ∨ !lit ∨ im = [] ∨ (!whole ∧ Status.ranges pay = []) then s
    else s.damage (Tile.id e) (Up.frame f) whole mirror (Status.ranges pay)

/-- STATUS_FRAME. -/
def State.status (s : State) (p : Nat) (f : Bytes) : State :=
  let q := Up.src f
  let x := s.posn p q
  let s1 := (s.setPosn p q { x with crcErrors := field (Up.payload f) 4 4 }).count Reg.PLK_STATUS_RX p
  match s1.plk.maps.find? fun m => m.1 % 65536 == Up.frame f with
  | none => s1
  | some (_, im) =>
    match Img.at_ im p q with
    | some (e, mirror) => s1.statusDamage p f im e mirror
    | none => s1

/-- STATUS_FRAME. -/
def execStatusFrame (port : Nat) (frame : Bytes) (s : State) : Out :=
  s.run fun s => s.upstream port frame fun s => if Up.type frame = 4 then s.status port frame else s

end Sys2Proof.Machine
end

