-- ==== Sys2Proof/Machine/Pages.lean ====
section
/-! DEFINITION. The controls that every register page has: audit snapshots (R23, R24) and PG_CTRL
(21_register_pages.md R418; Table 20.7). -/

namespace Sys2Proof.Machine

/-! ### Audit snapshots (R24, R76, R284) -/

def Ring.snap (x : Ring) : Ring :=
  { x with snapProduced := x.produced, snapConsumed := x.consumed, snapLost := x.lost, snapCount := x.count }

def SwOut.snap (x : SwOut) : SwOut :=
  { x with snapIn := x.audIn, snapOut := x.audOut, snapDrop := x.audDrop, snapResident := x.resident }

def Circuit.snap (x : Circuit) : Circuit :=
  { x with snapGranted := x.granted, snapConsumed := x.consumed, snapExpired := x.expired }

/-- The balance is kept in two's complement. -/
def Shaper.snap (h : Shaper) (now : Nat) : Shaper :=
  let g := h.fill now
  { g with snapCredit := g.credit, snapForgiven := g.forgiven, snapSpent := g.spent, snapCapped := g.capped
           snapBal := (g.bal % 2 ^ 64).toNat }

def SchPort.snap (x : SchPort) (now : Nat) : SchPort := { x with shapers := x.shapers.map fun h => (h.1, h.2.snap now) }

/-- The snapshot of pool `x`. -/
def State.snapPool (s : State) (x : Nat) : State :=
  let p := s.poolOf x
  (((s.setFld Reg.BPM_AUD_FREE x p.free).setFld Reg.BPM_AUD_ALLOC x p.alloc).setFld Reg.BPM_AUD_PENDING x p.pending).setFld
    Reg.BPM_AUD_TOTAL x p.total

/-- The snapshot of a port's trunk credits. -/
def State.snapTrunk (s : State) (p : Nat) : State :=
  let y := s.port p
  ((s.setFld Reg.PLK_AUD_CR_RCVD p y.rcvd).setFld Reg.PLK_AUD_CR_SPENT p y.spent).setFld Reg.PLK_AUD_CR_HELD p y.held

/-- Row credits of a link of Table 1.4. -/
def State.snapLink (s : State) (a b c : Fld) (issued returned out : Nat) : State :=
  ((s.setFld a 0 issued).setFld b 0 returned).setFld c 0 out

/-- SEQ of every instance of a block counts the snapshot. -/
def State.snapSeq (s : State) (blk : Nat) (f : Fld) : State :=
  (List.range 256).foldl (fun t i => if t.hasPage blk i then t.count f i else t) s

/-- AUD_SNAP.TAKE: all audit counters of a block, for every instance, are copied (R24). -/
def State.snapBlock (s : State) (blk : Nat) : State :=
  match blk with
  | 0x03 => (s.mapRings Ring.snap).snapSeq blk Reg.RNG_AUD_SNAP_SEQ
  | 0x05 => (s.snapLink Reg.DEC_AUD_CR_ISSUED Reg.DEC_AUD_CR_RETURNED Reg.DEC_AUD_CR_OUT s.dec.crIssued s.dec.crReturned
      s.dec.crOut).snapSeq blk Reg.DEC_AUD_SNAP_SEQ
  | 0x07 => (s.snapLink Reg.CNV_AUD_CR_ISSUED Reg.CNV_AUD_CR_RETURNED Reg.CNV_AUD_CR_OUT s.cnv.crIssued s.cnv.crReturned
      s.cnv.crOut).snapSeq blk Reg.CNV_AUD_SNAP_SEQ
  | 0x08 => (s.snapLink Reg.DRV_AUD_CR_ISSUED Reg.DRV_AUD_CR_RETURNED Reg.DRV_AUD_CR_OUT s.cnv.drvIssued s.cnv.drvReturned
      s.cnv.drvOut).snapSeq blk Reg.DRV_AUD_SNAP_SEQ
  | 0x09 => State.snapSeq { s with fus := { s.fus with circ := s.fus.circ.map fun c => (c.1, c.2.snap) } } blk
      Reg.FUS_AUD_SNAP_SEQ
  | 0x0C => State.snapSeq { s with swc := { s.swc with outs := s.swc.outs.map fun c => (c.1, c.2.snap) } } blk
      Reg.SWC_AUD_SNAP_SEQ
  | 0x0D => ((s.snapPool 0).snapPool 1).snapSeq blk Reg.BPM_AUD_SNAP_SEQ
  | 0x0E => State.snapSeq { s with sch := { s.sch with ports := s.sch.ports.map fun c => (c.1, c.2.snap s.cclk) } } blk
      Reg.SCH_AUD_SNAP_SEQ
  | 0x0F => ((List.range 64).foldl (fun t p => if t.hasPage blk p then t.snapTrunk p else t) s).snapSeq blk
      Reg.PLK_AUD_SNAP_SEQ
  | _ => s

/-- AUD_SNAP_TAKE on a page. -/
def execAudSnapTake (page : Nat) (s : State) : Out :=
  s.run fun s => s.onPage page 0 fun s blk _ => s.snapBlock blk

/-! ### ENABLE (R418, R23) -/

/-- Pages whose ENABLE reads 1 and ignores writes. -/
def alwaysEnabled (blk : Nat) : Bool :=
  [Blk.sys, Blk.hst, Blk.int, Blk.flt, Blk.bst, Blk.mem, Blk.kst, Blk.clk, Blk.pwr].contains blk

/-- The ports that use lane or port `p` of their group of eight take up what they may now use. -/
def State.applyGroup (s : State) (p : Nat) : State :=
  ((List.range 8).map (p / 8 * 8 + ·)).foldl (fun t q => if q < t.variant.ports then t.applyCfg q 1 else t) s

/-- What a change of ENABLE does at once: a port of a disabled page or on a disabled lane is DISABLED (Table 14.3). -/
def State.enableChanged (s : State) (blk inst : Nat) : State :=
  if !s.wound then s
  else if blk = Blk.plk then s.applyCfg inst 1
  else if blk = Blk.lne then s.applyGroup inst
  else s

/-- PG_CTRL.ENABLE cleared. -/
def State.disablePage (s : State) (blk inst : Nat) : State :=
  if alwaysEnabled blk ∨ !s.pageEnabled blk inst then s
  else (s.setFld Reg.PG_CTRL_ENABLE (pageOf blk inst) 0).enableChanged blk inst

def Ring.zeroAudit (x : Ring) : Ring := { x with produced := x.count, consumed := 0, lost := 0 }

def SwOut.zeroAudit (x : SwOut) : SwOut := { x with audIn := 0, audOut := 0, audDrop := 0, resident := 0 }

def Shaper.zeroAudit (h : Shaper) : Shaper :=
  { h with credit := h.bal.toNat, spent := (-h.bal).toNat, forgiven := 0, capped := 0 }

def PlkPort.zeroAudit (y : PlkPort) : PlkPort := { y with rcvd := y.held, spent := 0 }

/-- The audit counters of an instance are zeroed (R23). What the block still holds stays counted, so that each invariant of
Table 1.7 goes on to hold: ring items, trunk credits and shaper balances that are there start as produced, received and credited
(R21, R24; log 52). -/
def State.zeroAudits (s : State) (blk inst : Nat) : State :=
  match blk with
  | 0x03 => { s with rng := { s.rng with rings := s.rng.rings.map fun e => (e.1, if e.1 / 32 = inst then e.2.zeroAudit else e.2) } }
  | 0x05 => if inst = 0 then { s with dec := { s.dec with crIssued := 0, crReturned := 0, crOut := 0 } } else s
  | 0x07 => { s with cnv := { s.cnv with crIssued := 0, crReturned := 0, crOut := 0 } }
  | 0x08 => { s with cnv := { s.cnv with drvIssued := 0, drvReturned := 0, drvOut := 0 } }
  | 0x09 => { s with fus := { s.fus with circ := s.fus.circ.map fun e =>
      (e.1, if e.1 / 128 = inst then { e.2 with granted := 0, consumed := 0, expired := 0 } else e.2) } }
  | 0x0C => { s with swc := { s.swc with outs := s.swc.outs.map fun e => (e.1, e.2.zeroAudit) } }
  | 0x0E =>
    let x := s.sport inst
    s.setSport inst { x with shapers := x.shapers.map fun h => (h.1, h.2.zeroAudit) }
  | 0x0F => s.setPort inst (s.port inst).zeroAudit
  | _ => s

/-- PG_CTRL.ENABLE set: the block resumes. -/
def State.enablePage (s : State) (blk inst : Nat) : State :=
  if s.pageEnabled blk inst then s
  else ((s.setFld Reg.PG_CTRL_ENABLE (pageOf blk inst) 1).zeroAudits blk inst).enableChanged blk inst

/-- PG_ENABLE_CLEAR. -/
def execPgEnableClear (page : Nat) (s : State) : Out :=
  s.run fun s => s.onPage page 0 fun s blk inst => s.disablePage blk inst

/-- PG_ENABLE_SET. -/
def execPgEnableSet (page : Nat) (s : State) : Out :=
  s.run fun s => s.onPage page 0 fun s blk inst => s.enablePage blk inst

/-! ### IDLE and SOFT_RESET (R418, Table 20.7) -/

/-- A scheduler port holds no work. -/
def SchPort.idle (x : SchPort) (now : Nat) : Bool :=
  x.tileQ.isEmpty && x.leaves.all (·.2.isEmpty) && decide (x.busyUntil ≤ now)

/-- A switch input holds no work that has buffers. -/
def SwIn.idle (x : SwIn) : Bool := x.queue.isEmpty && !x.staged

/-- PG_STATUS.IDLE: no work inside the instance (log 52). -/
def State.pageIdle (s : State) (blk inst : Nat) : Bool :=
  match blk with
  | 0x01 => s.rng.query.isNone
  | 0x03 => s.rng.rings.all fun e => e.1 / 32 != inst || e.2.pkts.all fun p => !p.fetching
  | 0x05 => ((eight inst).all fun c => !(s.core c).busy) &&
      (inst != 0 || s.dec.pics.all fun e => e.2.decoded || e.2.dispatched == 0)
  | 0x06 => s.dec.pics.all fun e => e.2.copyTo.isNone
  | 0x07 => !s.cnv.scanning && s.cnv.out.isEmpty
  | 0x09 => (s.fus.circ.all fun e => e.1 / 128 != inst || !e.2.isOpen) && (inst != 0 || s.fus.commit.isNone)
  | 0x0A => (eight inst).all fun c => !(s.mzc c).busy
  | 0x0B => !(s.encCore inst).busy
  | 0x0C => s.swc.ins.all fun e => e.2.idle
  | 0x0D => !s.pool.odie.rebuilding && !s.pool.dram.rebuilding
  | 0x0E => (s.sport inst).idle s.now
  | 0x0F => (s.port inst).state != 2 && (inst != 0 || s.plk.i2c.isNone)
  | 0x11 => s.esc.loading.isNone
  | 0x12 => (s.rglQ inst).txPi == (s.rglQ inst).txCi && (inst != 0 || s.rgl.bundle.isNone)
  | 0x13 => (List.range 16).all fun c => !(s.dch (16 * inst + c)).busy
  | 0x16 => s.fld Reg.PWR_WIND_STAGE != 1
  | 0x17 => !s.mem.zeroing && !s.flag Reg.MEM_STATUS_FREQ_BUSY
  | 0x18 => s.kst.xfer.isNone
  | 0x1B => s.clb.staged.isNone && s.clb.swap.isNone && s.clb.live.isNone && !s.clb.savePending
  | _ => true

/-- The DEC_SW counters of every stream at 0. -/
def State.clearDecSw (s : State) : State :=
  s.mapStreams fun _ x => { x with decoded := 0, late := 0, preRap := 0, unsupported := 0, shortSplit := 0, primaries := 0
                                   transfer := 0, matrix := 0, fullRange := 0 }

/-- The reference store of every stream is gone: the streams close, and the RFS_SW registers read 0 (Table 20.7; that the streams
close with it is the model's reading, log 52). -/
def State.resetRfs (s : State) : State :=
  s.closeStreams.mapStreams fun _ x => { x with nextSeq := none, declaredLost := [], concealing := false, concealCount := 0
                                                lostUnits := 0, refMissing := 0, sliceCorrupt := 0, concealedPics := 0
                                                lateDrop := 0, ooo := 0, refReadKib := 0, refPlainKib := 0
                                                args := { x.args with rfsMode := 0, keepPinned := false, hideConcealed := false,
                                                                      seqCheck := false, pinSlots := 0, pinMask := 0, dpbPics := 0,
                                                                      holdPics := 0, reorderWin := 0 } }

/-- The DEC page of a cluster; instance 0 holds the streams, too. -/
def State.resetDec (s : State) (inst : Nat) : State :=
  let s1 := if inst = 0 then
      let t := s.closeStreams.clearDecSw
      { t with dec := { t.dec with turn := [], crIssued := 0, crReturned := 0, crOut := 0 } }
    else s
  (eight inst).foldl (fun t c => t.setCore c {}) s1

/-- The fusee instance of 128 circuits: nothing stays open and no cap is locked. -/
def State.resetFus (s : State) (inst : Nat) : State :=
  let other := fun (e : Nat × Nat) => e.1 / 128 != inst
  { s with fus := { s.fus with
      circ := s.fus.circ.filter fun e => e.1 / 128 != inst
      caps := s.fus.caps.filter other
      slews := s.fus.slews.filter other
      count := if inst = 0 then 0 else s.fus.count } }

/-- The page of the regulator: local state and queues; its runtime is not reloaded, and its complications are gone. -/
def State.resetRgl (s : State) (g : Nat) : State :=
  let s1 := ((s.dropLoads g).clearHandlers g).setRegl g {}
  State.setRglState { s1 with rgq := { s1.rgq with q := Tab.set s1.rgq.q g {} } } g 0

/-- The pools as built (R427). -/
def State.resetPool (s : State) : State := { s with pool := {} }

/-- The objects of a block instance that SOFT_RESET clears besides its register fields. -/
def State.resetObjects (s : State) (blk inst : Nat) : State :=
  let mine := fun (k : Nat) => k / 32 == inst
  match blk with
  | 0x03 =>
    let rs := (s.rng.rings.map (·.1)).filter mine
    let s1 := rs.foldl (fun t r => if (t.ring r).enable then t.disableRing r else t) s
    { s1 with rng := { s1.rng with rings := s1.rng.rings.filter fun e => !(mine e.1) } }
  | 0x04 => { s with rng := { s.rng with meters := s.rng.meters.filter fun e => !(mine e.1) } }
  | 0x05 => s.resetDec inst
  | 0x06 => s.resetRfs
  | 0x07 => State.escAdopt { s with cnv := { s.cnv with
      wins := [], scanning := false, out := [], crIssued := 0, crReturned := 0, crOut := 0, leftAtMark := 0, slipped := []
      ratioRaised := [] } } 4 0
  | 0x08 => State.escAdopt { s with cnv := { s.cnv with
      drvFrame := none, drvLeft := 0, tiles := [], drvIssued := 0, drvReturned := 0, drvOut := 0, gmapBytes := 0 } } 5 0
  | 0x09 => s.resetFus inst
  | 0x0A =>
    let s1 := (eight inst).foldl (fun t c => t.setMzc c {}) s
    if inst = 0 then { s1 with mze := { s1.mze with tiles := [] } } else s1
  | 0x0B => if inst = 0 then (s.closeSessions).setEncCore 0 {} else s.setEncCore inst {}
  | 0x0C => { s with swc := {} }
  | 0x0D => s.resetPool
  | 0x0E => s.setSport inst {}
  | 0x0F => s.dropPort inst |>.setPort inst {}
  | 0x10 => s.setLane inst {}
  | 0x11 => { s with esc := { s.esc with cur := [], loading := none } }
  | 0x12 => s.resetRgl inst
  | 0x13 => State.escAdopt { s with dma := { ch := s.dma.ch.filter fun e => e.1 / 16 != inst
                                             bytes := Tab.del s.dma.bytes inst } } 6 inst
  | 0x17 => { s with mem := { s.mem with entries := 0 } }
  | 0x1B => { s with clb := { acc := s.clb.acc, lastMark := s.clb.lastMark, nextMark := s.clb.nextMark
                              saveSlot := s.clb.saveSlot, saveSeq := s.clb.saveSeq } }
  | _ => s

/-- What a soft reset leaves of the header, and what the cap-write pin and the anti-rollback fuses say (log 52). -/
def softKeep : List Fld :=
  [Reg.PG_ERR_STICKY, Reg.PG_CTRL_ENABLE, Reg.FUS_CAP_CTL_UNLOCKED, Reg.RGL_BOOT_FUSE_SECVER]

/-- A parity error in the registers of the page is gone with the words that held it (R421). -/
def State.softReset (s : State) (blk inst : Nat) : State :=
  if s.pageEnabled blk inst ∨ !s.pageIdle blk inst then (if blk = Blk.dma then s.latch .dmaBusy inst else s)
  else
    let s1 := ((s.resetObjects blk inst).clearPage blk inst softKeep).causeOff (.regParity blk) inst
    let s2 := if blk = Blk.bpm then
        (s1.setFld Reg.BPM_STATUS_ODIE_READY 0 1).setFld Reg.BPM_STATUS_DPOOL_READY 0 1 else s1
    if blk = Blk.lne then s2.applyGroup inst else s2

/-- PG_SOFT_RESET. -/
def execPgSoftReset (page : Nat) (s : State) : Out :=
  s.run fun s => s.onPage page 0 fun s blk inst => s.softReset blk inst

/-! ### SAFE_STOP (R322, R418) -/

/-- The escapements of a page. -/
def escsOf (v : Variant) (blk inst : Nat) : List (Nat × Nat) :=
  (List.range 7).flatMap fun k => ((List.range 48).filter fun i => escPlace v k i == some (blk, inst)).map fun i => (k, i)

/-- A stop request arises in every escapement of the page. -/
def State.safeStop (s : State) (blk inst : Nat) : State :=
  (escsOf s.variant blk inst).foldl (fun t e =>
    let u := t.escRequest e.1 e.2 true
    let x := u.esc_ e.1 e.2
    if x.routine.isNone then u else u.setEsc e.1 e.2 { x with safe := true }) s

/-- PG_SAFE_STOP. -/
def execPgSafeStop (page : Nat) (s : State) : Out :=
  s.run fun s => s.onPage page 0 fun s blk inst => s.safeStop blk inst

/-- PG_STATUS.STOPPING: a SAFE_STOP request of the page waits for EXIT. -/
def State.stopping (s : State) (blk inst : Nat) : Bool :=
  (escsOf s.variant blk inst).any fun e => (s.esc_ e.1 e.2).safe

end Sys2Proof.Machine
end

