-- ==== Sys2Proof/Machine/RegFile.lean ====
section
/-! DEFINITION. What a register write does where no block gives the register an action of its own: reserved bits (R422),
identifiers (R5), clamps (R20) and the access codes of Table 0.5 (00_scope.md, 21_register_pages.md). -/

namespace Sys2Proof.Machine

/-- The instance's page has the field. -/
def Fld.onInst (f : Fld) (inst : Nat) : Bool :=
  match f.insts with
  | .all => true
  | .first => inst == 0
  | .rest => inst != 0

/-- Bytes of one register of the field: 8 for the 64-bit audit registers. -/
def Fld.bytes (f : Fld) : Nat := if 32 < f.width then 8 else 4

/-- The number of the field's register that the word at an offset belongs to. -/
def Fld.row (f : Fld) (off : Nat) : Option Nat :=
  if off < f.off then none
  else if f.stride = 0 then (if off < f.off + f.bytes then some 0 else none)
  else if (off - f.off) % f.stride < f.bytes ∧ (off - f.off) / f.stride < f.count / f.per then some ((off - f.off) / f.stride)
  else none

/-- The fields of the word at an offset of a page, each with its register's number. -/
def fieldsAt (blk inst off : Nat) : List (Fld × Nat) :=
  (Reg.ofPage 0 ++ Reg.ofPage blk).filterMap fun f => if f.onInst inst then (f.row off).map fun r => (f, r) else none

/-- The field exists on the variant: INT_SRC.RR and INT_RR_MASK are RSV on the C624. -/
def Fld.exists_ (f : Fld) (v : Variant) : Bool := f.rule != .rrVar || v == .c648

/-- The bits of its register that a field takes. -/
def Fld.mask (f : Fld) : Nat :=
  if 32 < f.width then 2 ^ 32 - 1 else ((List.range f.per).map fun l => (2 ^ f.width - 1) * 2 ^ (f.lo + f.lane * l)).sum

/-- The value that a write gives lane `l` of a field. -/
def Fld.written (f : Fld) (l v : Nat) : Nat := v / 2 ^ (f.lo + f.lane * l) % 2 ^ f.width

/-- The index of lane `l` of register `r` of an instance's page. -/
def Fld.index (f : Fld) (blk inst r l : Nat) : Nat :=
  (if f.page = 0 then pageOf blk inst
   else match f.insts with
     | .all => inst
     | .first => 0
     | .rest => inst - 1) * f.count + r * f.per + l

/-- The words of IDs 0 to 32 and 1023 in INT instances 1 to 4 are reserved (17_interrupts.md). -/
def reservedWord (blk inst off : Nat) : Bool :=
  blk == Blk.int && inst != 0 &&
  ((decide (0x100 ≤ off) && decide (off < 0x500)) || (decide (0x900 ≤ off) && decide (off < 0xD00))) &&
  !(sharedId ((inst - 1) * 256 + (off - 0x100) % 0x400 / 4))

/-- Words that are reserved on the C624: SWC_PORTp of p = 32 to 63, MEM_CE_COUNTc of c = 12 to 23, and the pool windows of the
absent regulators, which do not exist (R258). -/
def absentWord (v : Variant) (blk off : Nat) : Bool :=
  v == .c624 &&
  ((blk == Blk.swc && decide (0x300 ≤ off) && decide (off < 0x500)) ||
   (blk == Blk.mem && decide (0x0F0 ≤ off) && decide (off < 0x120)) ||
   (blk == Blk.bpm && decide (0x180 ≤ off) && decide (off < 0x200)))

/-- The fields of a word that exist on the variant. -/
def State.wordFields (s : State) (blk inst off : Nat) : List (Fld × Nat) :=
  if reservedWord blk inst off || absentWord s.variant blk off then [] else (fieldsAt blk inst off).filter fun e => e.1.exists_ s.variant

/-- Bits of a word that some field takes; a write of 1 to another bit latches RSV_WRITE (R422). -/
def coverOf (fs : List (Fld × Nat)) : Nat := fs.foldl (fun m e => m ||| e.1.mask) 0

/-- Non-zero data to RSV fields or to a reserved offset (R422). -/
def State.rsvCheck (s : State) (blk inst v : Nat) (fs : List (Fld × Nat)) : State :=
  if v &&& (2 ^ 32 - 1 - coverOf fs) = 0 then s else s.latch (.rsvWrite blk) inst

/-- A lane of a field names an identifier beyond the variant (R5). -/
def Fld.beyond (f : Fld) (var : Variant) (v : Nat) : Bool :=
  match f.rule with
  | .ident a b => (List.range f.per).any fun l => decide (var.pick a b ≤ f.written l v)
  | _ => false

/-- The value that a field takes of what is written: within its limits (R20). -/
def Fld.bounded (f : Fld) (var : Variant) (x : Nat) : Nat :=
  match f.rule with
  | .clamp lo hi => max lo (min x hi)
  | .clampVar a b => min x (var.pick a b)
  | _ => x

/-- One lane of a plain RW field of the register store. -/
def State.putLane (s : State) (blk inst v : Nat) (f : Fld) (r l : Nat) : State :=
  let x := f.written l v
  let y := f.bounded s.variant x
  let s1 := s.setFld f (f.index blk inst r l) y
  if x = y then s1 else s1.clampHit blk inst

/-- One field of the word: RO, WO and W1C fields, and those that live in records, take nothing here. -/
def State.putField (s : State) (blk inst v : Nat) (e : Fld × Nat) : State :=
  if e.1.access = .rw ∧ e.1.home = .store then
    (List.range e.1.per).foldl (fun t l => t.putLane blk inst v e.1 e.2 l) s
  else s

/-- Selectors whose identifier is not one plain range (R5): an owner that the C624 lacks (R251), and an escapement that the variant
lacks (Table 15.1). -/
def selBeyond (v : Variant) (blk off x : Nat) : Bool :=
  if blk = Blk.bpm ∧ off = 0x064 then validOwner .c648 (bits x 6 0) && !(validOwner v (bits x 6 0))
  else if blk = Blk.esc ∧ off = 0x050 then
    decide (1 ≤ bits x 2 0) && decide (bits x 2 0 ≤ 6) && decide (escCount v (bits x 2 0) ≤ bits x 13 8)
  else false

/-- The plain part of a register write: an identifier beyond the variant leaves the whole register unchanged (R5). -/
def State.putWord (s : State) (blk inst off v : Nat) : State :=
  let fs := s.wordFields blk inst off
  if (fs.any fun e => e.1.access == .rw && e.1.beyond s.variant v) || selBeyond s.variant blk off v then s.badId blk inst
  else fs.foldl (fun t e => t.putField blk inst v e) s

end Sys2Proof.Machine
end

