-- ==== Sys2Proof/Machine/RegWrite.lean ====
section
/-! DEFINITION. REGISTER_WRITE: a write of the host to BAR0, or of a regulator in its address map (R331, R332, R414,
Tables 15.6, 15.7 and 17.6). A register with an action of its own takes it through the operation that its own command
uses; every other one through RegFile. -/

namespace Sys2Proof.Machine

/-- The number of the register of a group at `base` with `n` registers `stride` apart, and the place in it. -/
def inGroup (off base stride n : Nat) : Option (Nat × Nat) :=
  if off < base ∨ base + stride * n ≤ off then none else some ((off - base) / stride, (off - base) % stride)

/-- What a register with an action of its own does; none for a plain register. -/
abbrev RegAct := Option (State → State)

/-- TAKE of an audit snapshot register. -/
def takeAct (blk v : Nat) : RegAct := some fun s => if bit v 0 then s.snapBlock blk else s

/-- PG_CTRL (R418). -/
def State.pgCtrl (s : State) (blk inst v : Nat) : State :=
  let s1 := if bit v 0 then s.enablePage blk inst else s.disablePage blk inst
  let s2 := if bit v 2 then s1.safeStop blk inst else s1
  if bit v 1 then s2.softReset blk inst else s2

/-- PG_ERR_CLASS: the fields of C4 sources read 0 and ignore writes (R364). -/
def State.errClass (s : State) (blk inst v : Nat) : State :=
  ((List.range 16).filter fun k => !(bit (Src.c4Mask blk) (k + 8))).foldl
    (fun t k => t.setFld Reg.PG_ERR_CLASS_RAISE (pageOf blk inst * 16 + k) (bits v (2 * k + 1) (2 * k))) s

/-- The header (Table 21.4). -/
def hdrAct (blk inst off v : Nat) : RegAct :=
  match off with
  | 0x00C => some fun s => s.pgCtrl blk inst v
  | 0x014 => some fun s => s.stickyW1c blk inst v
  | 0x018 => some fun s => s.errEnable blk inst v
  | 0x01C => some fun s => s.errInject blk inst v
  | 0x020 => some fun s => s.errClass blk inst v
  | _ => none

/-- HST page: hostSize, the line cache, doorbell group owners, tenants (02_host_attachment.md). -/
def hstAct (off v : Nat) : RegAct :=
  if off = 0x044 then some fun s => s.hostSize v
  else if off = 0x05C then some fun s => s.ccacheCtl v
  else match inGroup off 0x100 4 64, inGroup off 0x200 8 64 with
    | some (w, _), _ => some fun s => s.ownerWrite w v
    | _, some (n, 0) => some fun s => s.tenantWrite n v
    | _, _ => none

/-- RNG_ERR: the counters take the written values. -/
def State.ringErr (s : State) (r v : Nat) : State :=
  s.setRing r { s.ring r with overrunCi := bits v 7 0, staleIdx := bits v 15 8, oversize := bits v 23 16 }

/-- RNG and MTR pages (03_rings_and_jobs.md). -/
def rngAct (inst off v : Nat) : RegAct :=
  if off = 0x040 then takeAct Blk.rng v
  else match inGroup off 0x100 0x40 32 with
    | some (i, k) =>
      if k ≤ 0x10 then some fun s => s.ringWrite (32 * inst + i) (k / 4) v
      else if k = 0x2C then some fun s => s.ringErr (32 * inst + i) v
      else none
    | none => none

def mtrAct (inst off v : Nat) : RegAct :=
  match inGroup off 0x100 0x40 32 with
  | some (i, 0) => some fun s => s.meterCfg (32 * inst + i) v
  | some (i, k) => if k ≤ 0x10 then some fun s => s.meterRate (32 * inst + i) (k / 4) v else none
  | none => none

/-- DEC, MZE and ENC pages: cores and store regions. -/
def decAct (inst off v : Nat) : RegAct :=
  if off = 0x040 then takeAct Blk.dec v
  else match inGroup off 0x100 0x20 8 with
    | some (i, 4) => some fun s => s.decCtl (8 * inst + i) v
    | _ => none

def mzeAct (inst off v : Nat) : RegAct :=
  if inst = 0 ∧ off = 0x050 then some fun s => s.mzeRegion 0 v
  else if inst = 0 ∧ off = 0x054 then some fun s => s.mzeRegion 1 v
  else match inGroup off 0x100 0x20 8 with
    | some (i, 4) => some fun s => s.mzeCtl (8 * inst + i) v
    | _ => none

def encAct (inst off v : Nat) : RegAct :=
  if inst = 0 ∧ off = 0x040 then some fun s => s.encRegion 0 v
  else if inst = 0 ∧ off = 0x044 then some fun s => s.encRegion 1 v
  else if off = 0x104 then some fun s => s.encCtl inst v
  else none

/-- FUS page. -/
def fusAct (inst off v : Nat) : RegAct :=
  if off = 0x040 then takeAct Blk.fus v
  else if inst = 0 ∧ off = 0x044 then some fun s => if bit v 0 then s.capCommit else s
  else if off = 0x058 then some fun s => s.fusForce inst v
  else none

/-- BPM and SWC pages (12_buffer_pool_and_switch.md). -/
def bpmAct (off v : Nat) : RegAct :=
  if off = 0x040 then takeAct Blk.bpm v
  else if off = 0x048 then some fun s => s.dpoolConfig 0 v
  else if off = 0x04C then some fun s => s.dpoolConfig 1 v
  else if off = 0x078 then some fun s => s.force v
  else match inGroup off 0x100 0x10 17, inGroup off 0x300 8 128 with
    | some (w, 4), _ => some fun s => s.cmdWrite w v
    | _, some (o, 0) => some fun s => s.quotaWrite o v
    | _, some (o, 4) => some fun s => s.minWrite o v
    | _, _ => none

def swcAct (off v : Nat) : RegAct :=
  if off = 0x040 then takeAct Blk.swc v else none

/-- SCH, PLK and LNE pages of port or lane `p`. -/
def schAct (p off v : Nat) : RegAct :=
  match off with
  | 0x040 => takeAct Blk.sch v
  | 0x070 => some fun s => s.subCfg p v
  | 0x074 => some fun s => s.onShaper p fun h => h.setRate s.cclk v
  | 0x078 => some fun s => s.onShaper p fun h => h.setBurst s.cclk v
  | 0x07C => some fun s => if bit v 0 then s.onShaper p fun h => (h.fill s.cclk).forgive else s
  | _ => none

def plkAct (p off v : Nat) : RegAct :=
  match off with
  | 0x040 => some fun s => s.portCfgWrite p v
  | 0x044 => some fun s => s.portCtl p v
  | 0x06C => takeAct Blk.plk v
  | 0x0C8 => if p = 0 then some fun s => s.i2cGo v else none
  | _ => none

def lneAct (l off v : Nat) : RegAct :=
  match off with
  | 0x04C => some fun s => s.laneTest l v
  | 0x050 => some fun s => s.prbsWrite l v
  | _ => none

/-- BOOT goes out once RGL_EVQ is set (R329). -/
def State.bootOut (s : State) : State :=
  match s.rgl.bootEvent with
  | some args =>
    if s.flag Reg.RGL_EVQ_EN then State.rglEvent { s with rgl := { s.rgl with bootEvent := none } } 0x1203 0 args else s
  | none => s

/-- RGL page of regulator `g`. -/
def rglAct (g off v : Nat) : RegAct :=
  match off with
  | 0x044 => if g = 0 then some fun s => s.bundleCtl v else none
  | 0x050 => if g = 0 then some fun s => (s.putWord Blk.rgl 0 0x050 v).bootOut else none
  | 0x060 => some fun s => if bit v 0 then s.reload g else s
  | 0x074 => some fun s => if bit v 0 then s.hostPost g else s
  | _ => none

/-- DMA_CHc: policy and head of the channel, DONE, and CTL, GO before ABORT (16_dma.md). -/
def State.dmaReg (s : State) (c k v : Nat) : State :=
  let x := s.dch c
  match k with
  | 0x00 => s.setDch c { x with stopPolicy := bit v 0 }
  | 0x04 =>
    let s1 := if bit v 0 then s.dmaStart c else s
    if bit v 1 then s1.chainStop c false else s1
  | 0x08 => s.setDch c { x with head := addr64 (v / 64 * 64) (x.head / 2 ^ 32) }
  | 0x0C => s.setDch c { x with head := addr64 (x.head % 2 ^ 32) v }
  | 0x10 => if bit v 1 then s.setDch c { x with done := false } else s
  | _ => s

def dmaAct (inst off v : Nat) : RegAct :=
  match inGroup off 0x100 0x40 16 with
  | some (c, k) => some fun s => s.dmaReg (16 * inst + c) k v
  | none => none

/-- INT_SRCi: the new routing acts at once on a pending source (R354, R359). -/
def State.srcWrite (s : State) (inst off v : Nat) : State :=
  let id := (inst - 1) * 256 + (off - 0x100) / 4
  ((s.putWord Blk.int inst off v).rrAssign id).hostMsg s id

/-- INT_RR_MASK: a source that no regulator qualified for is assigned once one does (R354). -/
def State.rrMask (s : State) (v : Nat) : State :=
  (s.int.src.map (·.1)).foldl (fun t id => t.rrAssign id) (s.putWord Blk.int 0 0x044 v)

def intAct (inst off v : Nat) : RegAct :=
  if inst = 0 then
    match off with
    | 0x040 => some fun s => s.intGlobal v
    | 0x044 => some fun s => s.rrMask v
    | 0x04C => some fun s => s.swset v
    | _ => none
  else match inGroup off 0x040 4 8, inGroup off 0x100 4 256, inGroup off 0x900 4 256 with
    | some (w, _), _, _ => some fun s => s.pendClear inst w v
    | _, some _, _ => some fun s => s.srcWrite inst off v
    | _, _, some (i, _) => some fun s => s.claimDone ((inst - 1) * 256 + i)
    | _, _, _ => none

/-- FLT_PIN: C4_DARK ignores writes once a C4 source has latched (R367, R370). -/
def State.pinWrite (s : State) (v : Nat) : State :=
  let s1 := (s.setFld Reg.FLT_PIN_THRESH 0 (bits v 2 0)).setFld Reg.FLT_PIN_HOLD 0 (bits v 4 4)
  let s2 := if s.flt.c4 then s1 else s1.setFld Reg.FLT_PIN_C4_DARK 0 (bits v 5 5)
  s2.pinEdge s

/-- CLK_GATE_CTL of the clock domain that CLK_GATE_SEL names (R404). -/
def State.forceOn (s : State) (v : Nat) : State :=
  { s with pwr := { s.pwr with forceOn := Tab.set s.pwr.forceOn (s.fld Reg.CLK_GATE_SEL_DOMAIN) (bit v 0) } }

/-- MEM page. -/
def memAct (off v : Nat) : RegAct :=
  if off = 0x048 then some fun s => s.freqCtl v
  else if off = 0x058 then some fun s => if bit v 24 then s.errlogClear else s
  else match inGroup off 0x300 4 24 with
    | some (k, _) => some fun s => s.timingWrite (k / 8) (k % 8) v
    | none => none

/-- The action of the register at an offset of a page. -/
def regAct (blk inst off v : Nat) : RegAct :=
  if off < 0x040 then hdrAct blk inst off v
  else match blk with
  | 0x01 => if off = 0x0C0 then some fun s => s.queryCtl v else none
  | 0x02 => hstAct off v
  | 0x03 => rngAct inst off v
  | 0x04 => mtrAct inst off v
  | 0x05 => decAct inst off v
  | 0x06 =>
    if off = 0x040 then some fun s => s.rfsRegion 0 v else if off = 0x044 then some fun s => s.rfsRegion 1 v else none
  | 0x07 => if off = 0x040 then takeAct blk v else none
  | 0x08 => if off = 0x040 then takeAct blk v else none
  | 0x09 => fusAct inst off v
  | 0x0A => mzeAct inst off v
  | 0x0B => encAct inst off v
  | 0x0C => swcAct off v
  | 0x0D => bpmAct off v
  | 0x0E => schAct inst off v
  | 0x0F => plkAct inst off v
  | 0x10 => lneAct inst off v
  | 0x11 => if off = 0x040 then some fun s => s.escLoadCtl v else none
  | 0x12 => rglAct inst off v
  | 0x13 => dmaAct inst off v
  | 0x14 => intAct inst off v
  | 0x15 => if off = 0x04C then some fun s => s.pinWrite v else none
  | 0x17 => memAct off v
  | 0x18 => if off = 0x040 then some fun s => s.xferCtl v else none
  | 0x19 => if off = 0x048 then some fun s => s.forceOn v else none
  | 0x1A => if off = 0x070 then some fun s => s.domCtl v else none
  | _ => none

/-- A write to the word at an offset of a page: reserved bits are checked, then the register acts. A word without a field
takes nothing. An identifier beyond the variant stops the write before any action. -/
def State.wordWrite (s : State) (blk inst off v : Nat) : State :=
  let fs := s.wordFields blk inst off
  s.underParity blk inst fun t =>
    let s1 := t.rsvCheck blk inst v fs
    if fs.isEmpty then s1
    else match regAct blk inst off v with
      | some f => f s1
      | none => s1.putWord blk inst off v

/-- A write to a register page. FLT_TEST_UNLOCK takes its key; any other FLT write disarms (Table 18.4 step 2a). -/
def State.pageWrite (s : State) (page off v : Nat) : State :=
  match pageOwner s.variant page with
  | none => s.absentPage page
  | some (blk, inst) =>
    if blk = Blk.flt ∧ off = 0x050 then
      s.underParity blk inst fun t => (t.rsvCheck blk inst v (t.wordFields blk inst off)).unlockKey (bits v 15 0)
    else (s.disarm blk).wordWrite blk inst off v

/-- A write to word `w` of an MSI-X table entry (R32, R46). -/
def State.msixWord (s : State) (n w v : Nat) : State :=
  let x := s.vec n
  match w with
  | 0 => s.setVec n { x with addrLo := v }
  | 1 => s.setVec n { x with addrHi := v }
  | 2 => s.setVec n { x with data := v }
  | _ => if bit v 0 then s.setVec n { x with masked := true } else s.unmask n

/-- A write at an offset of BAR0. -/
def State.bar0Write (s : State) (x v : Nat) : State :=
  if x < 0x3FF0000 then s.pageWrite (x / 4096) (x % 4096) v
  else if x < 0x3FF8000 then s.msixWord ((x - 0x3FF0000) / 16) (x % 16 / 4) v
  else s

/-! ### Regulators (R331, R332) -/

/-- Targets that a regulator's write may not reach (R332). -/
def hostOnly (v : Variant) (g x : Nat) : Bool :=
  match pageOwner v (x / 4096) with
  | some (blk, inst) =>
    let off := x % 4096
    blk == Blk.hst || (blk == Blk.rgl && ((inst == 0 && off == 0x044) || (inst != g && off == 0x060))) ||
    (blk == Blk.fus && inst == 0 && (off == 0x044 || off == 0x048 || off == 0x04C))
  | none => false

/-- L_INT_PRIVi (Table 17.6). -/
def State.privWrite (s : State) (g i v : Nat) : State :=
  let t := s.tgt g
  let p : PrivSrc := Tab.get {} t.priv i
  let q : PrivSrc := { p with prio := bits v 3 0, enable := bit v 4, pending := p.pending && !(bit v 5) }
  s.setTgt g { t with priv := Tab.set t.priv i q }

/-- The interrupt controls of local control (Table 17.6); THRESH above 16 clamps (R20). -/
def State.localInt (s : State) (g off v : Nat) : State :=
  let t := s.tgt g
  if off = 0x3800 then
    let s1 := s.setTgt g { t with thresh := min 16 (bits v 4 0) }
    if 16 < bits v 4 0 then s1.clampHit Blk.int 0 else s1
  else if off = 0x3804 then s.setTgt g { t with vbase := bits v 15 12 * 4096 }
  else if off = 0x380C then s.lSwset g v
  else if off = 0x3810 then s.setTgt g { t with timer := v }
  else if 0x3880 ≤ off ∧ off < 0x3900 then s.privWrite g ((off - 0x3880) / 4 + 1) v
  else s

/-- The 32-bit word at offset `o` of a byte string replaced. -/
def putWordAt (bs : Bytes) (o v : Nat) : Bytes := bs.take o ++ leBytes v 4 ++ bs.drop (o + 4)

/-- Local control (Table 15.7). -/
def State.localWrite (s : State) (g off v : Nat) : State :=
  let x := s.rgl_ g
  if off = 0x004 then s.wdogRestart g
  else if off = 0x014 then s.mbxPop g
  else if off = 0x020 then s.lPost g v
  else if off = 0x034 then s.rxCi g v
  else if off = 0x038 then s.txPi g v
  else if off = 0x040 then s.setRegl g { x with dwin0 := bits v 7 0 }
  else if off = 0x044 then s.setRegl g { x with dwin1 := bits v 7 0 }
  else if 0x200 ≤ off ∧ off < 0x220 then s.setRegl g { x with mbxOut := putWordAt x.mbxOut (off - 0x200) v }
  else if 0x3000 ≤ off ∧ off < 0x3600 then
    let q := s.rglQ g
    let i := (off - 0x3000) / 96
    let e : Bytes := Tab.get (List.replicate 96 0) q.txq i
    s.setRglQ g { q with txq := Tab.set q.txq i (putWordAt e ((off - 0x3000) % 96) v) }
  else if 0x3800 ≤ off then s.localInt g off v
  else s

/-- A regulator's store through a device DRAM window. -/
def State.windowWrite (s : State) (base x v : Nat) : State :=
  let a := base * 2 ^ 30 + x
  if s.dramOk a 4 then s.mergeWrite a (leBytes v 4) 15 .clean else s

/-- A write of a regulator in the map of Table 15.6. Outside it the core takes an access fault, which is its firmware's. -/
def State.regulatorWrite (s : State) (g a v : Nat) : State :=
  let x := s.rgl_ g
  if !(s.rglRuns g) ∨ a % 4 ≠ 0 then s
  else if a < 0x10000 then s.setRegl g { x with imem := x.imem.writeBytes a (leBytes v 4) }
  else if a < 0x20000 then s.setRegl g { x with dmem := x.dmem.writeBytes (a - 0x10000) (leBytes v 4) }
  else if 0x20000000 ≤ a ∧ a < 0x20200000 then
    { s with rgl := { s.rgl with sram := s.rgl.sram.writeBytes (a - 0x20000000) (leBytes v 4) } }
  else if 0x30000000 ≤ a ∧ a < 0x30004000 then s.localWrite g (a - 0x30000000) v
  else if 0x40000000 ≤ a ∧ a < 0x44000000 then
    if hostOnly s.variant g (a - 0x40000000) then s.latch .rglAccess g else s.bar0Write (a - 0x40000000) v
  else if 0x80000000 ≤ a ∧ a < 0xC0000000 then s.windowWrite x.dwin0 (a - 0x80000000) v
  else if 0xC0000000 ≤ a then s.windowWrite x.dwin1 (a - 0xC0000000) v
  else s

/-- A host write to BAR0, once register pages answer (R49); it must be aligned (R33). -/
def State.hostRegWrite (s : State) (x v : Nat) : State :=
  if !s.hostReaches ∨ 2 ^ 26 ≤ x then s
  else if x % 4 ≠ 0 then s.latch .hstAccess
  else s.bar0Write x v

/-- REGISTER_WRITE. -/
def execRegisterWrite (by_ : Agent) (offset : Nat) (v : Word) (s : State) : Out :=
  s.run fun s => match by_ with
    | .host => s.hostRegWrite offset v.toNat
    | .regulator g => s.regulatorWrite g offset v.toNat

end Sys2Proof.Machine
end

