-- ==== Sys2Proof/Machine/Dispatch.lean ====
section
/-! DEFINITION. What each command does: one arm per constructor, each one direct call of its meaning. -/

namespace Sys2Proof.Machine

def exec (i : Instr) (s : State) : Host.Outcome State Fault Refusal :=
  match i with
  | .powerOn => Sys2Proof.Machine.execPowerOn s
  | .railOutOfRange => Sys2Proof.Machine.execRailOutOfRange s
  | .rootPllLoss => Sys2Proof.Machine.execRootPllLoss s
  | .perstNAssert => Sys2Proof.Machine.execPerstNAssert s
  | .perstNRelease => Sys2Proof.Machine.execPerstNRelease s
  | .windingW0 testMode capWriteN bootSel => Sys2Proof.Machine.execWindingW0 testMode capWriteN bootSel s
  | .selfTestGroup g coverage durUs fail => Sys2Proof.Machine.execSelfTestGroup g coverage durUs fail s
  | .selfTestTimeout g coverage => Sys2Proof.Machine.execSelfTestTimeout g coverage s
  | .windingW2 => Sys2Proof.Machine.execWindingW2 s
  | .windingW3 => Sys2Proof.Machine.execWindingW3 s
  | .windingW4 => Sys2Proof.Machine.execWindingW4 s
  | .windingW5 chans timing => Sys2Proof.Machine.execWindingW5 chans timing s
  | .windingW6 => Sys2Proof.Machine.execWindingW6 s
  | .windingW7 => Sys2Proof.Machine.execWindingW7 s
  | .strapSample testMode capWriteN => Sys2Proof.Machine.execStrapSample testMode capWriteN s
  | .configRequestEarly config => Sys2Proof.Machine.execConfigRequestEarly config s
  | .linkTrained hostMode speed width flit256 cacheEn memEn => Sys2Proof.Machine.execLinkTrained hostMode speed width flit256 cacheEn memEn s
  | .linkRetrain speed width => Sys2Proof.Machine.execLinkRetrain speed width s
  | .linkDown => Sys2Proof.Machine.execLinkDown s
  | .flr => Sys2Proof.Machine.execFlr s
  | .hostBadAccess write bar offset => Sys2Proof.Machine.execHostBadAccess write bar offset s
  | .bar4Access write offset len data ecc => Sys2Proof.Machine.execBar4Access write offset len data ecc s
  | .winBaseWrite a v => Sys2Proof.Machine.execWinBaseWrite a v s
  | .hostSizeWrite v => Sys2Proof.Machine.execHostSizeWrite v s
  | .hdmDecoderCommit d biEnable => Sys2Proof.Machine.execHdmDecoderCommit d biEnable s
  | .biSnoopResponse line => Sys2Proof.Machine.execBiSnoopResponse line s
  | .hostLineSnoop line => Sys2Proof.Machine.execHostLineSnoop line s
  | .ccacheFlush v => Sys2Proof.Machine.execCcacheFlush v s
  | .tenantEnable n v => Sys2Proof.Machine.execTenantEnable n v s
  | .tenantDisable n v => Sys2Proof.Machine.execTenantDisable n v s
  | .dbgrpOwnerWrite w v => Sys2Proof.Machine.execDbgrpOwnerWrite w v s
  | .addressTranslationFail ring index => Sys2Proof.Machine.execAddressTranslationFail ring index s
  | .ideCheckFail => Sys2Proof.Machine.execIdeCheckFail s
  | .spdmRequest code data => Sys2Proof.Machine.execSpdmRequest code data s
  | .setCertificate slot secured chain => Sys2Proof.Machine.execSetCertificate slot secured chain s
  | .msixUnmask mask => Sys2Proof.Machine.execMsixUnmask mask s
  | .rngDbPi ring v entries => Sys2Proof.Machine.execRngDbPi ring v entries s
  | .rngDbCi ring v => Sys2Proof.Machine.execRngDbCi ring v s
  | .payloadFetch ring => Sys2Proof.Machine.execPayloadFetch ring s
  | .payloadFetchDone ring payload au => Sys2Proof.Machine.execPayloadFetchDone ring payload au s
  | .seqGapTimeout stream => Sys2Proof.Machine.execSeqGapTimeout stream s
  | .ringCfgWrite ring reg v => Sys2Proof.Machine.execRingCfgWrite ring reg v s
  | .ringEnable ring v => Sys2Proof.Machine.execRingEnable ring v s
  | .ringDisable ring v => Sys2Proof.Machine.execRingDisable ring v s
  | .commandFetch ring entry => Sys2Proof.Machine.execCommandFetch ring entry s
  | .fencedCommandStart job => Sys2Proof.Machine.execFencedCommandStart job s
  | .streamOpen job => Sys2Proof.Machine.execStreamOpen job s
  | .streamClose job => Sys2Proof.Machine.execStreamClose job s
  | .streamFlush job => Sys2Proof.Machine.execStreamFlush job s
  | .streamSetPolicy job => Sys2Proof.Machine.execStreamSetPolicy job s
  | .calibreWrite job image read => Sys2Proof.Machine.execCalibreWrite job image read s
  | .calibreWriteCommit job => Sys2Proof.Machine.execCalibreWriteCommit job s
  | .calibreSwap job => Sys2Proof.Machine.execCalibreSwap job s
  | .swapArmed => Sys2Proof.Machine.execSwapArmed s
  | .oldBankRelease => Sys2Proof.Machine.execOldBankRelease s
  | .calibreRead job => Sys2Proof.Machine.execCalibreRead job s
  | .calibreSave ok => Sys2Proof.Machine.execCalibreSave ok s
  | .encSessionOpen job => Sys2Proof.Machine.execEncSessionOpen job s
  | .encSessionClose job => Sys2Proof.Machine.execEncSessionClose job s
  | .dmaSubmit job => Sys2Proof.Machine.execDmaSubmit job s
  | .tileRefresh job => Sys2Proof.Machine.execTileRefresh job s
  | .tileIdentityRead job => Sys2Proof.Machine.execTileIdentityRead job s
  | .complicationLoad job image read init => Sys2Proof.Machine.execComplicationLoad job image read init s
  | .query job => Sys2Proof.Machine.execQuery job s
  | .nop job => Sys2Proof.Machine.execNop job s
  | .mtrEnable m v => Sys2Proof.Machine.execMtrEnable m v s
  | .mtrRateWrite m reg v => Sys2Proof.Machine.execMtrRateWrite m reg v s
  | .sysQueryCtl v => Sys2Proof.Machine.execSysQueryCtl v s
  | .queryResultReady => Sys2Proof.Machine.execQueryResultReady s
  | .sysQueryResultRead => Sys2Proof.Machine.execSysQueryResultRead s
  | .audSnapTake page => Sys2Proof.Machine.execAudSnapTake page s
  | .frameMark => Sys2Proof.Machine.execFrameMark s
  | .wallsyncEdge => Sys2Proof.Machine.execWallsyncEdge s
  | .wallsyncHoldover => Sys2Proof.Machine.execWallsyncHoldover s
  | .unitDispatch core => Sys2Proof.Machine.execUnitDispatch core s
  | .workUnitDone core res => Sys2Proof.Machine.execWorkUnitDone core res s
  | .pinCopyDone stream order => Sys2Proof.Machine.execPinCopyDone stream order s
  | .pickup window => Sys2Proof.Machine.execPickup window s
  | .streamDrainDone stream => Sys2Proof.Machine.execStreamDrainDone stream s
  | .drainTimeout stream => Sys2Proof.Machine.execDrainTimeout stream s
  | .decCoreCtlOffline core v => Sys2Proof.Machine.execDecCoreCtlOffline core v s
  | .decCoreReset core => Sys2Proof.Machine.execDecCoreReset core s
  | .rfsRegionWrite reg v => Sys2Proof.Machine.execRfsRegionWrite reg v s
  | .rowPairStart => Sys2Proof.Machine.execRowPairStart s
  | .driveRowPair => Sys2Proof.Machine.execDriveRowPair s
  | .fusCapCommit => Sys2Proof.Machine.execFusCapCommit s
  | .capCommitStoreDone okA okB => Sys2Proof.Machine.execCapCommitStoreDone okA okB s
  | .fusForce page v => Sys2Proof.Machine.execFusForce page v s
  | .mzeRowPairStart core => Sys2Proof.Machine.execMzeRowPairStart core s
  | .mzeRowPairDone core => Sys2Proof.Machine.execMzeRowPairDone core s
  | .linkFrameSubmit input => Sys2Proof.Machine.execLinkFrameSubmit input s
  | .mzeCoreReset core => Sys2Proof.Machine.execMzeCoreReset core s
  | .mzeRefRegionWrite reg v => Sys2Proof.Machine.execMzeRefRegionWrite reg v s
  | .encSourceReady session => Sys2Proof.Machine.execEncSourceReady session s
  | .encPictureStart session => Sys2Proof.Machine.execEncPictureStart session s
  | .encPictureDone session cols qp guard => Sys2Proof.Machine.execEncPictureDone session cols qp guard s
  | .encCoreReset core => Sys2Proof.Machine.execEncCoreReset core s
  | .encRegionWrite reg v => Sys2Proof.Machine.execEncRegionWrite reg v s
  | .alloc r => Sys2Proof.Machine.execAlloc r s
  | .share r buf n holder => Sys2Proof.Machine.execShare r buf n holder s
  | .release r buf => Sys2Proof.Machine.execRelease r buf s
  | .free r buf => Sys2Proof.Machine.execFree r buf s
  | .handover r buf new => Sys2Proof.Machine.execHandover r buf new s
  | .listRebuildDone pool => Sys2Proof.Machine.execListRebuildDone pool s
  | .forceFree v => Sys2Proof.Machine.execForceFree v s
  | .forceOwner v => Sys2Proof.Machine.execForceOwner v s
  | .dpoolConfigWrite reg v => Sys2Proof.Machine.execDpoolConfigWrite reg v s
  | .dpoolRebuildDone => Sys2Proof.Machine.execDpoolRebuildDone s
  | .quotaWrite owner v => Sys2Proof.Machine.execQuotaWrite owner v s
  | .minWrite owner v => Sys2Proof.Machine.execMinWrite owner v s
  | .cellMatch => Sys2Proof.Machine.execCellMatch s
  | .portMark port => Sys2Proof.Machine.execPortMark port s
  | .linkFrameDepart port slot => Sys2Proof.Machine.execLinkFrameDepart port slot s
  | .tileClose port tile => Sys2Proof.Machine.execTileClose port tile s
  | .shaperRateWrite port v => Sys2Proof.Machine.execShaperRateWrite port v s
  | .shaperBurstWrite port v => Sys2Proof.Machine.execShaperBurstWrite port v s
  | .shaperForgive port => Sys2Proof.Machine.execShaperForgive port s
  | .shaperEnable port v => Sys2Proof.Machine.execShaperEnable port v s
  | .shaperDisable port v => Sys2Proof.Machine.execShaperDisable port v s
  | .beatTableParity port => Sys2Proof.Machine.execBeatTableParity port s
  | .portTrainStart port => Sys2Proof.Machine.execPortTrainStart port s
  | .trainAlignTimeout port => Sys2Proof.Machine.execTrainAlignTimeout port s
  | .trainRetryTimer port => Sys2Proof.Machine.execTrainRetryTimer port s
  | .tsType2Received port pos vers rest => Sys2Proof.Machine.execTsType2Received port pos vers rest s
  | .positionCollectTimeout port => Sys2Proof.Machine.execPositionCollectTimeout port s
  | .tsType4Received port pos set => Sys2Proof.Machine.execTsType4Received port pos set s
  | .versionConfirmTimeout port pos => Sys2Proof.Machine.execVersionConfirmTimeout port pos s
  | .echoReceived port pos rtNs => Sys2Proof.Machine.execEchoReceived port pos rtNs s
  | .trainComplete port => Sys2Proof.Machine.execTrainComplete port s
  | .laneAlignLoss lane => Sys2Proof.Machine.execLaneAlignLoss lane s
  | .fomMeasure lane fom => Sys2Proof.Machine.execFomMeasure lane fom s
  | .plkRetrain port => Sys2Proof.Machine.execPlkRetrain port s
  | .plkPortCfgWrite port v => Sys2Proof.Machine.execPlkPortCfgWrite port v s
  | .portTestEnter port => Sys2Proof.Machine.execPortTestEnter port s
  | .portTestClear port => Sys2Proof.Machine.execPortTestClear port s
  | .lneTestInject lane => Sys2Proof.Machine.execLneTestInject lane s
  | .statusFrame port frame => Sys2Proof.Machine.execStatusFrame port frame s
  | .mgmtResponse port frame => Sys2Proof.Machine.execMgmtResponse port frame s
  | .identityReplyTimeout port pos => Sys2Proof.Machine.execIdentityReplyTimeout port pos s
  | .identityReread port pos => Sys2Proof.Machine.execIdentityReread port pos s
  | .creditBlock port n => Sys2Proof.Machine.execCreditBlock port n s
  | .upstreamFrame port frame => Sys2Proof.Machine.execUpstreamFrame port frame s
  | .modulePoll bus found => Sys2Proof.Machine.execModulePoll bus found s
  | .i2cGo v => Sys2Proof.Machine.execI2cGo v s
  | .escRoutineStart kind index routine => Sys2Proof.Machine.execEscRoutineStart kind index routine s
  | .escRoutineExit kind index conds => Sys2Proof.Machine.execEscRoutineExit kind index conds s
  | .escWaitTimeout kind index conds => Sys2Proof.Machine.execEscWaitTimeout kind index conds s
  | .escSafePointExit kind index conds => Sys2Proof.Machine.execEscSafePointExit kind index conds s
  | .stopLimitExpiry kind index => Sys2Proof.Machine.execStopLimitExpiry kind index s
  | .microwordParity kind index => Sys2Proof.Machine.execMicrowordParity kind index s
  | .escLoadGo v => Sys2Proof.Machine.execEscLoadGo v s
  | .escLoadDone => Sys2Proof.Machine.execEscLoadDone s
  | .pgEnableClear page => Sys2Proof.Machine.execPgEnableClear page s
  | .pgEnableSet page => Sys2Proof.Machine.execPgEnableSet page s
  | .pgSoftReset page => Sys2Proof.Machine.execPgSoftReset page s
  | .pgSafeStop page => Sys2Proof.Machine.execPgSafeStop page s
  | .bundleWriteGo v => Sys2Proof.Machine.execBundleWriteGo v s
  | .bundleWriteDone readBackOk => Sys2Proof.Machine.execBundleWriteDone readBackOk s
  | .watchdogRestart g => Sys2Proof.Machine.execWatchdogRestart g s
  | .watchdogHalf g => Sys2Proof.Machine.execWatchdogHalf g s
  | .watchdogExpire g => Sys2Proof.Machine.execWatchdogExpire g s
  | .rglReload g => Sys2Proof.Machine.execRglReload g s
  | .hostMbxPost g => Sys2Proof.Machine.execHostMbxPost g s
  | .lMbxPost g v => Sys2Proof.Machine.execLMbxPost g v s
  | .lMbxPop g => Sys2Proof.Machine.execLMbxPop g s
  | .lRxqCiWrite g v => Sys2Proof.Machine.execLRxqCiWrite g v s
  | .lTxqPiWrite g v => Sys2Proof.Machine.execLTxqPiWrite g v s
  | .txEntrySend g => Sys2Proof.Machine.execTxEntrySend g s
  | .frameOverrunStop g slot access => Sys2Proof.Machine.execFrameOverrunStop g slot access s
  | .yield g slot => Sys2Proof.Machine.execYield g slot s
  | .mbxSend g slot target msg => Sys2Proof.Machine.execMbxSend g slot target msg s
  | .mbxRecv g slot => Sys2Proof.Machine.execMbxRecv g slot s
  | .pool g slot op buf n owner => Sys2Proof.Machine.execPool g slot op buf n owner s
  | .event g slot code args => Sys2Proof.Machine.execEvent g slot code args s
  | .time g slot => Sys2Proof.Machine.execTime g slot s
  | .rxqTake g slot => Sys2Proof.Machine.execRxqTake g slot s
  | .txqPost g slot entry => Sys2Proof.Machine.execTxqPost g slot entry s
  | .publish g slot kind addr => Sys2Proof.Machine.execPublish g slot kind addr s
  | .lookup g slot kind => Sys2Proof.Machine.execLookup g slot kind s
  | .timer g slot us => Sys2Proof.Machine.execTimer g slot us s
  | .timerExpire g slot => Sys2Proof.Machine.execTimerExpire g slot s
  | .descriptorFetch ch desc resp => Sys2Proof.Machine.execDescriptorFetch ch desc resp s
  | .dmaCopy ch data => Sys2Proof.Machine.execDmaCopy ch data s
  | .dmaFill ch => Sys2Proof.Machine.execDmaFill ch s
  | .dmaCompare ch a b => Sys2Proof.Machine.execDmaCompare ch a b s
  | .dmaAccessResponse ch onSrc offset len resp => Sys2Proof.Machine.execDmaAccessResponse ch onSrc offset len resp s
  | .dmaChainTimeout ch => Sys2Proof.Machine.execDmaChainTimeout ch s
  | .dmaGo ch => Sys2Proof.Machine.execDmaGo ch s
  | .dmaAbort ch => Sys2Proof.Machine.execDmaAbort ch s
  | .intSourceEdge id priv level => Sys2Proof.Machine.execIntSourceEdge id priv level s
  | .intTimerMatch g => Sys2Proof.Machine.execIntTimerMatch g s
  | .intSwset v => Sys2Proof.Machine.execIntSwset v s
  | .lIntSwset g v => Sys2Proof.Machine.execLIntSwset g v s
  | .intPendClear page w v => Sys2Proof.Machine.execIntPendClear page w v s
  | .intEntry g pc => Sys2Proof.Machine.execIntEntry g pc s
  | .intMret g => Sys2Proof.Machine.execIntMret g s
  | .intHoldSet v => Sys2Proof.Machine.execIntHoldSet v s
  | .intHoldClear v => Sys2Proof.Machine.execIntHoldClear v s
  | .intHclaimRead id => Sys2Proof.Machine.execIntHclaimRead id s
  | .intHclaimWrite id v => Sys2Proof.Machine.execIntHclaimWrite id v s
  | .faultNPulseEnd => Sys2Proof.Machine.execFaultNPulseEnd s
  | .pgErrStickyW1c page v => Sys2Proof.Machine.execPgErrStickyW1c page v s
  | .pgErrEnableWrite page v => Sys2Proof.Machine.execPgErrEnableWrite page v s
  | .pgErrInjectWrite page v => Sys2Proof.Machine.execPgErrInjectWrite page v s
  | .testUnlockKey1 v => Sys2Proof.Machine.execTestUnlockKey1 v s
  | .testUnlockKey2 v => Sys2Proof.Machine.execTestUnlockKey2 v s
  | .testUnlockArmTimeout => Sys2Proof.Machine.execTestUnlockArmTimeout s
  | .jtagInstruction code => Sys2Proof.Machine.execJtagInstruction code s
  | .patrolScrub line channel ecc => Sys2Proof.Machine.execPatrolScrub line channel ecc s
  | .zeroChunk => Sys2Proof.Machine.execZeroChunk s
  | .memFreqGo v => Sys2Proof.Machine.execMemFreqGo v s
  | .memFreqDone => Sys2Proof.Machine.execMemFreqDone s
  | .memErrlogClear => Sys2Proof.Machine.execMemErrlogClear s
  | .memTimingWrite f w v => Sys2Proof.Machine.execMemTimingWrite f w v s
  | .kstXferGo v => Sys2Proof.Machine.execKstXferGo v s
  | .kstXferDone => Sys2Proof.Machine.execKstXferDone s
  | .pwrDomainOffReq v => Sys2Proof.Machine.execPwrDomainOffReq v s
  | .domainDrainDone d => Sys2Proof.Machine.execDomainDrainDone d s
  | .domainDrainTimeout d => Sys2Proof.Machine.execDomainDrainTimeout d s
  | .pwrDomainOnReq v => Sys2Proof.Machine.execPwrDomainOnReq v s
  | .domainWakeDone d => Sys2Proof.Machine.execDomainWakeDone d s
  | .thermalSample temps => Sys2Proof.Machine.execThermalSample temps s
  | .smbusRead cmd => Sys2Proof.Machine.execSmbusRead cmd s
  | .registerWrite by_ offset v => Sys2Proof.Machine.execRegisterWrite by_ offset v s
  | .cxlMemAccess write addr data ecc => Sys2Proof.Machine.execCxlMemAccess write addr data ecc s
  | .lanePllUnlock lane => Sys2Proof.Machine.execLanePllUnlock lane s
  | .lanePllRelock lane => Sys2Proof.Machine.execLanePllRelock lane s
  | .i2cTransferDone rdata nack => Sys2Proof.Machine.execI2cTransferDone rdata nack s
  | .ccacheFlushDone => Sys2Proof.Machine.execCcacheFlushDone s
  | .complicationInitTimeout job => Sys2Proof.Machine.execComplicationInitTimeout job s

end Sys2Proof.Machine
end

