-- ==== Sys2Proof/Machine/Views.lean ====
section
/-! DEFINITION. Register reads: the value of every field of a page, from the register store or from the record that the
field shows (R414-R422 and the register tables of each chapter). No command of the table reads a plain register; the
statements about registers use these views. -/

namespace Sys2Proof.Machine

/-- A field that shows a record: the value of the register with an index (Fld.index). -/
abbrev View := Fld × (State → Nat → Nat)

/-! ### Rings and meters (Tables 3.11, 3.12) -/

def rngViews : List View :=
  [(Reg.RNG_BASE_LO_BASE, fun s r => (s.ring r).base / 4096), (Reg.RNG_BASE_HI, fun s r => (s.ring r).base / 2 ^ 32),
   (Reg.RNG_CFG_CLASS, fun s r => (s.ring r).cls), (Reg.RNG_CFG_SIZE_LOG2, fun s r => (s.ring r).sizeLog2),
   (Reg.RNG_CFG_MEMSPACE, fun s r => b2n (s.ring r).memspace), (Reg.RNG_CFG_COHERENT, fun s r => b2n (s.ring r).coherent),
   (Reg.RNG_CFG_ENABLE, fun s r => b2n (s.ring r).enable), (Reg.RNG_LINK_LINK, fun s r => (s.ring r).link),
   (Reg.RNG_LINK_METER, fun s r => (s.ring r).meter), (Reg.RNG_LINK_METER_EN, fun s r => b2n (s.ring r).meterEn),
   (Reg.RNG_EVQ_RING, fun s r => (s.ring r).evqRing), (Reg.RNG_EVQ_EN, fun s r => b2n (s.ring r).evqEn)] ++
  [(Reg.RNG_PI, fun s r => (s.ring r).pi), (Reg.RNG_CI, fun s r => (s.ring r).ci), (Reg.RNG_COUNT, fun s r => (s.ring r).count),
   (Reg.RNG_LOST_LO, fun s r => (s.ring r).lost), (Reg.RNG_LOST_HI, fun s r => (s.ring r).lost / 2 ^ 32),
   (Reg.RNG_REWOUND, fun s r => (s.ring r).rewound), (Reg.RNG_ERR_OVERRUN_CI, fun s r => (s.ring r).overrunCi),
   (Reg.RNG_ERR_STALE_IDX, fun s r => (s.ring r).staleIdx), (Reg.RNG_ERR_OVERSIZE, fun s r => (s.ring r).oversize),
   (Reg.RNG_ERR_HALTED, fun s r => b2n (s.ring r).halted), (Reg.RNG_PEND, fun s r => (s.ring r).pend)] ++
  [(Reg.RNG_AUD_PRODUCED, fun s r => (s.ring r).snapProduced), (Reg.RNG_AUD_CONSUMED, fun s r => (s.ring r).snapConsumed),
   (Reg.RNG_AUD_LOST, fun s r => (s.ring r).snapLost), (Reg.RNG_AUD_COUNT, fun s r => (s.ring r).snapCount)]

def mtrViews : List View :=
  [(Reg.MTR_CFG_ENABLE, fun s m => b2n (s.meter m).enable), (Reg.MTR_CFG_MODE, fun s m => (s.meter m).mode),
   (Reg.MTR_CIR, fun s m => (s.meter m).cir), (Reg.MTR_PIR, fun s m => (s.meter m).pir),
   (Reg.MTR_CBS, fun s m => (s.meter m).cbs), (Reg.MTR_PEBS, fun s m => (s.meter m).pebs),
   (Reg.MTR_GREEN, fun s m => (s.meter m).green), (Reg.MTR_YELLOW, fun s m => (s.meter m).yellow),
   (Reg.MTR_RED, fun s m => (s.meter m).red), (Reg.MTR_YDROP, fun s m => (s.meter m).ydrop)]

/-! ### Decode array and reference store (Tables 4.9, 5.6) -/

/-- The stream that DEC_STREAM_SEL or RFS_STREAM_SEL names. -/
def State.selDec (s : State) : StreamRec := s.stream (s.fld Reg.DEC_STREAM_SEL_STREAM)
def State.selRfs (s : State) : StreamRec := s.stream (s.fld Reg.RFS_STREAM_SEL_STREAM)

def decViews : List View :=
  [(Reg.DEC_CAPACITY, fun s _ => s.liveCap), (Reg.DEC_SW_STATE_STATE, fun s _ => s.selDec.state),
   (Reg.DEC_SW_STATE_CLASS, fun s _ => s.selDec.args.cls), (Reg.DEC_SW_STATE_ROW_CHAIN, fun s _ => b2n s.selDec.args.rowChain),
   (Reg.DEC_SW_STATE_CATCHUP, fun s _ => b2n s.selDec.args.catchup), (Reg.DEC_SW_STATE_XLEVEL, fun s _ => b2n s.selDec.args.xlevel),
   (Reg.DEC_SW_STATE_TIMING, fun s _ => b2n s.selDec.args.timingFrame), (Reg.DEC_SW_STATE_CORES_MAX, fun s _ => s.selDec.args.coresMax),
   (Reg.DEC_SW_STATE_PACE, fun s _ => s.selDec.args.pace), (Reg.DEC_SW_DECODED, fun s _ => s.selDec.decoded),
   (Reg.DEC_SW_LATE, fun s _ => s.selDec.late), (Reg.DEC_SW_PRE_RAP, fun s _ => s.selDec.preRap),
   (Reg.DEC_SW_UNSUPPORTED, fun s _ => s.selDec.unsupported), (Reg.DEC_SW_SHORT_SPLIT, fun s _ => s.selDec.shortSplit)] ++
  [(Reg.DEC_SW_COLOUR_PRIMARIES, fun s _ => s.selDec.primaries), (Reg.DEC_SW_COLOUR_TRANSFER, fun s _ => s.selDec.transfer),
   (Reg.DEC_SW_COLOUR_MATRIX, fun s _ => s.selDec.matrix), (Reg.DEC_SW_COLOUR_FULL_RANGE, fun s _ => s.selDec.fullRange),
   (Reg.DEC_SW_INFLIGHT, fun s _ => s.streamInFlight (s.fld Reg.DEC_STREAM_SEL_STREAM)),
   (Reg.DEC_CORE_STATUS_BUSY, fun s c => b2n (s.core c).busy),
   (Reg.DEC_CORE_STATUS_RESERVED, fun s c => b2n (s.reservation c).isSome),
   (Reg.DEC_CORE_STATUS_OFFLINE, fun s c => b2n (s.core c).offline), (Reg.DEC_CORE_STATUS_FUSED, fun _ _ => 0),
   (Reg.DEC_CORE_STATUS_STREAM, fun s c => (s.core c).stream), (Reg.DEC_CORE_STATUS_UNIT, fun s c => (s.core c).unitKind),
   (Reg.DEC_CORE_CTL_OFFLINE, fun s c => b2n (s.core c).offlineReq), (Reg.DEC_CORE_CTL_RESET, fun _ _ => 0),
   (Reg.DEC_CORE_UNITS, fun s c => (s.core c).units), (Reg.DEC_CORE_BUSY, fun s c => (s.core c).busyCycles / 1024)]

def rfsViews : List View :=
  [(Reg.RFS_FREE, fun s _ => s.rfsFree), (Reg.RFS_SW_CFG_MODE, fun s _ => s.selRfs.args.rfsMode), (Reg.RFS_SW_CFG_KEEP_PINNED, fun s _ => b2n s.selRfs.args.keepPinned),
   (Reg.RFS_SW_CFG_HIDE_CONCEALED, fun s _ => b2n s.selRfs.args.hideConcealed),
   (Reg.RFS_SW_CFG_SEQ_CHECK, fun s _ => b2n s.selRfs.args.seqCheck), (Reg.RFS_SW_CFG_PIN_SLOTS, fun s _ => s.selRfs.args.pinSlots),
   (Reg.RFS_SW_CFG_PIN_USED, fun s _ => s.pinsUsed (s.fld Reg.RFS_STREAM_SEL_STREAM)),
   (Reg.RFS_SW_CFG_PIN_MASK, fun s _ => s.selRfs.args.pinMask), (Reg.RFS_SW_CFG_DPB_PICS, fun s _ => s.selRfs.args.dpbPics),
   (Reg.RFS_SW_CFG_HOLD_PICS, fun s _ => s.selRfs.args.holdPics), (Reg.RFS_SW_SEQ_REORDER_WIN, fun s _ => s.selRfs.args.reorderWin),
   (Reg.RFS_SW_SEQ_HELD, fun s _ => s.selRfs.held.length), (Reg.RFS_SW_SEQ_CONCEALING, fun s _ => b2n s.selRfs.concealing)] ++
  [(Reg.RFS_SW_NEXT_SEQ, fun s _ => s.selRfs.nextSeq.getD 0), (Reg.RFS_SW_GRANULES, fun s _ => s.selRfs.granules),
   (Reg.RFS_SW_LOST, fun s _ => s.selRfs.lostUnits), (Reg.RFS_SW_REF_MISSING, fun s _ => s.selRfs.refMissing),
   (Reg.RFS_SW_SLICE_CORRUPT, fun s _ => s.selRfs.sliceCorrupt), (Reg.RFS_SW_CONCEALED, fun s _ => s.selRfs.concealedPics),
   (Reg.RFS_SW_LATE_DROP, fun s _ => s.selRfs.lateDrop), (Reg.RFS_SW_OOO, fun s _ => s.selRfs.ooo),
   (Reg.RFS_SW_REF_READ_KIB, fun s _ => s.selRfs.refReadKib), (Reg.RFS_SW_REF_PLAIN_KIB, fun s _ => s.selRfs.refPlainKib)]

/-! ### Calibres, canvas, drive, fusee (Tables 6.11, 7.6, 7.7, 8.6) -/

def State.bankIn (s : State) (st : Nat) : Bool := s.clb.bankA.state == st || s.clb.bankB.state == st

def State.selIdent (s : State) : TileIdent := Tab.get {} s.clb.ident (s.fld Reg.CLB_TILE_SEL_TILE)

/-- The window that CNV_WIN_SEL names, and its entry in the active bank. -/
def State.selWin (s : State) : WinBind := (s.win (s.fld Reg.CNV_WIN_SEL_WINDOW)).last

def State.selWinEntry (s : State) : Bytes :=
  match s.activeImg with
  | some im =>
    let w := s.fld Reg.CNV_WIN_SEL_WINDOW
    if w < Img.nWindows im then Img.window im w else []
  | none => []

def State.selDrv (s : State) : DrvTile := Tab.get {} s.cnv.tiles (s.fld Reg.DRV_TILE_SEL_TILE)

def clbViews : List View :=
  [(Reg.CLB_STATUS_ACTIVE_VALID, fun s _ => b2n s.clb.activeValid), (Reg.CLB_STATUS_ACTIVE_BANK, fun s _ => b2n s.clb.active),
   (Reg.CLB_STATUS_SHADOW_VALID, fun s _ => b2n (s.bankIn 1)),
   (Reg.CLB_STATUS_SWAP_PENDING, fun s _ => b2n ((s.clb.swap.map Swap.armed).getD false)),
   (Reg.CLB_STATUS_OLD_BANK_BUSY, fun s _ => b2n (s.bankIn 3)), (Reg.CLB_STATUS_LOCKED, fun s _ => b2n s.clb.locked),
   (Reg.CLB_TILE_STATE_STATE, fun s _ => s.selIdent.state), (Reg.CLB_TILE_STATE_MISMATCH, fun s _ => s.selIdent.mismatch)]

def cnvViews : List View :=
  [(Reg.CNV_WIN_STATE_ENABLED, fun s _ => b2n (Win.enable s.selWinEntry)), (Reg.CNV_WIN_STATE_BOUND, fun s _ => b2n s.selWin.pic.isSome),
   (Reg.CNV_WIN_STATE_REPEAT, fun s _ => b2n s.selWin.repeated), (Reg.CNV_WIN_STATE_EMPTY, fun s _ => b2n s.selWin.empty),
   (Reg.CNV_WIN_STATE_STREAM, fun s _ => Win.stream s.selWinEntry), (Reg.CNV_WIN_COLOUR_PRIMARIES, fun s _ => s.selWin.primaries),
   (Reg.CNV_WIN_COLOUR_TRANSFER, fun s _ => s.selWin.transfer), (Reg.CNV_WIN_COLOUR_MATRIX, fun s _ => s.selWin.matrix),
   (Reg.CNV_WIN_COLOUR_FULL_RANGE, fun s _ => s.selWin.fullRange), (Reg.CNV_WIN_REPEATS, fun s _ => (s.win (s.fld Reg.CNV_WIN_SEL_WINDOW)).repeats),
   (Reg.DRV_TILE_STATUS_DARK, fun s _ => b2n s.selDrv.dark), (Reg.DRV_TILE_STATUS_GMAP_ERR, fun s _ => b2n s.selDrv.gmapErr),
   (Reg.DRV_TILE_STATUS_NO_GMAP, fun s _ => b2n s.selDrv.noGmap)]

/-- The circuit that FUS_CIRC_SEL of instance `i` names. -/
def State.selNum (s : State) (i : Nat) : Nat := 128 * i + s.fld Reg.FUS_CIRC_SEL_CIRCUIT i
def State.selCirc (s : State) (i : Nat) : Circuit := s.circ (s.selNum i)

def fusViews : List View :=
  [(Reg.FUS_C_CAP_LO, fun s i => s.cap (s.selNum i)), (Reg.FUS_C_CAP_HI_CAP, fun s i => s.cap (s.selNum i) / 2 ^ 32),
   (Reg.FUS_C_CAP_HI_SLEW, fun s i => s.slew (s.selNum i)), (Reg.FUS_C_GRANT_LO, fun s i => (s.selCirc i).grant),
   (Reg.FUS_C_GRANT_HI, fun s i => (s.selCirc i).grant / 2 ^ 32), (Reg.FUS_C_USED_LO, fun s i => (s.selCirc i).used),
   (Reg.FUS_C_USED_HI, fun s i => (s.selCirc i).used / 2 ^ 32), (Reg.FUS_C_PREV_LO, fun s i => (s.selCirc i).prev),
   (Reg.FUS_C_PREV_HI, fun s i => (s.selCirc i).prev / 2 ^ 32), (Reg.FUS_C_SCALE_S, fun s i => (s.selCirc i).s),
   (Reg.FUS_C_SCALE_S_LOW, fun s i => (s.selCirc i).closedLow), (Reg.FUS_C_CUTS, fun s i => (s.selCirc i).cuts),
   (Reg.FUS_C_LATE_TILES, fun s i => (s.selCirc i).lateTiles), (Reg.FUS_AUD_GRANTED, fun s i => (s.selCirc i).snapGranted),
   (Reg.FUS_AUD_CONSUMED, fun s i => (s.selCirc i).snapConsumed), (Reg.FUS_AUD_EXPIRED, fun s i => (s.selCirc i).snapExpired)]

/-! ### Mezzanine and monitor encoders (Tables 10.3, 11.5) -/

def State.selTile (s : State) : MzeTile := s.mzt (s.fld Reg.MZE_TILE_SEL_TILE)

/-- INTRA_ALL of the next tile picture of the selected tile. -/
def State.nextIntraAll (s : State) : Bool :=
  match s.activeImg with
  | some im => ((Img.tile im (s.fld Reg.MZE_TILE_SEL_TILE)).map fun e => s.intraAll e (frameAdd s.frameCount 1)).getD false
  | none => false

def mzeViews : List View :=
  [(Reg.MZE_TILE_BUDGET, fun s _ => s.selTile.showBudget), (Reg.MZE_TILE_USED, fun s _ => s.selTile.showUsed),
   (Reg.MZE_TILE_CODING_QB, fun s _ => s.selTile.showQb), (Reg.MZE_TILE_CODING_MIN_F, fun s _ => s.selTile.showMinF),
   (Reg.MZE_TILE_CODING_FLOOR_RP, fun s _ => s.selTile.showFloorRp),
   (Reg.MZE_TILE_STATE_SUSPECT, fun s _ => (s.selTile.rps.filter (·.suspect)).length),
   (Reg.MZE_TILE_STATE_FLOORED, fun s _ => (s.selTile.rps.filter (·.floored)).length),
   (Reg.MZE_TILE_STATE_INTRA_ALL, fun s _ => b2n s.nextIntraAll), (Reg.MZE_CORE_STATUS_BUSY, fun s c => b2n (s.mzc c).busy),
   (Reg.MZE_CORE_STATUS_OFFLINE, fun s c => b2n (s.mzc c).offline), (Reg.MZE_CORE_STATUS_FUSED, fun _ _ => 0),
   (Reg.MZE_CORE_STATUS_TILE, fun s c => (s.mzc c).tile), (Reg.MZE_CORE_CTL_OFFLINE, fun s c => b2n (s.mzc c).offlineReq),
   (Reg.MZE_CORE_CTL_RESET, fun _ _ => 0), (Reg.MZE_CORE_RP, fun s c => (s.mzc c).rps),
   (Reg.MZE_CORE_BUSY, fun s c => (s.mzc c).busyCycles / 1024)]

def State.selSes (s : State) : EncSession := s.ses (s.fld Reg.ENC_SESS_SEL_SESSION)

def encViews : List View :=
  [(Reg.ENC_REGION_FREE, fun s _ => s.encRegionFree), (Reg.ENC_SS_STATE_STATE, fun s _ => s.selSes.state), (Reg.ENC_SS_STATE_SOURCE, fun s _ => b2n s.selSes.isStream),
   (Reg.ENC_SS_STATE_RATE_MODE, fun s _ => s.selSes.mode),
   (Reg.ENC_SS_STATE_CORES, fun s _ => (s.selSes.loads.map fun e => 2 ^ e.1).sum), (Reg.ENC_SS_PICS, fun s _ => s.selSes.pics),
   (Reg.ENC_SS_SKIP, fun s _ => s.selSes.skip), (Reg.ENC_SS_NOBUF, fun s _ => s.selSes.noBuf),
   (Reg.ENC_SS_GUARD, fun s _ => s.selSes.guard), (Reg.ENC_SS_OVERFLOW, fun s _ => s.selSes.overflow),
   (Reg.ENC_SS_FULLNESS, fun s _ => min s.selSes.f (2 ^ 32 - 1)), (Reg.ENC_CORE_STATUS_BUSY, fun s c => b2n (s.encCore c).busy),
   (Reg.ENC_CORE_STATUS_OFFLINE, fun s c => b2n (s.encCore c).offline), (Reg.ENC_CORE_STATUS_FUSED, fun _ _ => 0),
   (Reg.ENC_CORE_STATUS_SESSION, fun s c => (s.encCore c).session), (Reg.ENC_CORE_CTL_OFFLINE, fun s c => b2n (s.encCore c).offlineReq),
   (Reg.ENC_CORE_CTL_RESET, fun _ _ => 0), (Reg.ENC_CORE_LOAD, fun s c => s.encLoad c),
   (Reg.ENC_CORE_BUSY, fun s c => (s.encCore c).busyCycles / 1024)]

/-! ### Pool, switch, scheduler, panel link (Tables 12.7, 12.8, 13.7, 14.13) -/

/-- A signed value as a 32-bit register shows it. -/
def s32 (x : Int) : Nat := (x % 2 ^ 32).toNat

def State.selOwner (s : State) : Nat := s.fld Reg.BPM_OWN_SEL_OWNER

def bpmViews : List View :=
  [(Reg.BPM_SHARED_FREE0, fun s _ => s32 (s.sharedFree 0)), (Reg.BPM_SHARED_FREE1, fun s _ => s32 (s.sharedFree 1)),
   (Reg.BPM_OWN_NAMED, fun s _ => (s.own s.selOwner).named), (Reg.BPM_OWN_HELD, fun s _ => (s.own s.selOwner).held),
   (Reg.BPM_OWN_STATUS_OVERQ, fun s _ => b2n (validOwner s.variant s.selOwner &&
      decide (s.fld Reg.BPM_QUOTA_QUOTA s.selOwner ≤ s.use s.selOwner))),
   (Reg.BPM_OWN_STATUS_BELOW_MIN, fun s _ => b2n (decide (s.use s.selOwner < s.fld Reg.BPM_MIN s.selOwner)))]

def State.selOut (s : State) : SwOut := s.swout (s.fld Reg.SWC_OUT_SEL_OUTPUT)

/-- The forwarding table's list of the tile that SWC_FWD_SEL names: CALIBRE_WRITE builds it, so a SHADOW bank has one, and a mirror
whose receiver is dark stays in it (R262). -/
def State.selFwd (s : State) : List Nat :=
  let b := s.bank (s.flag Reg.SWC_FWD_SEL_BANK)
  if b.state = 0 then []
  else match Img.tile b.image (s.fld Reg.SWC_FWD_SEL_TILE) with
    | some e => Img.carriers b.image e
    | none => []

def swcViews : List View :=
  [(Reg.SWC_FWD_VIEW_PORT, fun s i => s.selFwd.getD i 0),
   (Reg.SWC_FWD_VIEW_VALID, fun s i => b2n (decide (i < s.selFwd.length))), (Reg.SWC_AUD_IN, fun s _ => s.selOut.snapIn),
   (Reg.SWC_AUD_OUT, fun s _ => s.selOut.snapOut), (Reg.SWC_AUD_DROP, fun s _ => s.selOut.snapDrop),
   (Reg.SWC_AUD_RESIDENT, fun s _ => s.selOut.snapResident)]

/-- What a port's scheduler page shows of the active bank. -/
def State.actImg (s : State) : Bytes := s.activeImg.getD []

def State.selShaper (s : State) (p : Nat) : Shaper := ((s.sport p).shaper (s.fld Reg.SCH_SUB_SEL_SUB p)).fill s.cclk

/-- Classes of the selected subscriber with frames queued. -/
def State.backlog (s : State) (p : Nat) : Nat :=
  let h := s.fld Reg.SCH_SUB_SEL_SUB p
  ((List.range 4).map fun c => b2n (!(Tab.get [] (s.sport p).leaves (4 * h + c)).isEmpty) * 2 ^ c).sum

def schViews : List View :=
  [(Reg.SCH_PORT_INFO_OVH, fun s p => Port.overhead (Img.port s.actImg p)),
   (Reg.SCH_PORT_INFO_BEATS, fun s p => (Img.beats s.actImg p).length),
   (Reg.SCH_PORT_INFO_BORROW, fun s p => b2n (Dir.borrow (Img.dir s.actImg p))),
   (Reg.SCH_OFFSET, fun s p => Dir.offset (Img.dir s.actImg p)),
   (Reg.SCH_SLOT, fun s p => s.slotAt p s.now),
   (Reg.SCH_SUB_CFG_WEIGHT, fun s p => Tab.get 1 (s.sport p).weight (s.fld Reg.SCH_SUB_SEL_SUB p)),
   (Reg.SCH_SUB_CFG_SHAPE_EN, fun s p => b2n (s.selShaper p).enable), (Reg.SCH_SHAPER_RATE, fun s p => (s.selShaper p).rate),
   (Reg.SCH_SHAPER_BURST, fun s p => (s.selShaper p).burst), (Reg.SCH_SHAPER_CTL_FORGIVE, fun _ _ => 0),
   (Reg.SCH_SHAPER_BAL, fun s p => s32 ((s.selShaper p).bal / kt)), (Reg.SCH_SUB_STATUS_BACKLOG, fun s p => s.backlog p)] ++
  [(Reg.SCH_SUB_STATUS_DEFICIT, fun s p => satur 24 (Tab.get 0 (s.sport p).dfc (s.fld Reg.SCH_SUB_SEL_SUB p))),
   (Reg.SCH_AUD_CREDIT, fun s p => (s.selShaper p).snapCredit), (Reg.SCH_AUD_FORGIVEN, fun s p => (s.selShaper p).snapForgiven),
   (Reg.SCH_AUD_SPENT, fun s p => (s.selShaper p).snapSpent), (Reg.SCH_AUD_CAPPED, fun s p => (s.selShaper p).snapCapped),
   (Reg.SCH_AUD_BALANCE, fun s p => (s.selShaper p).snapBal)]

def State.selPos (s : State) (p : Nat) : Position := s.posn p (s.fld Reg.PLK_POS_SEL_POSITION p)

def lneViews : List View :=
  [(Reg.LNE_PRBS_ERR, fun s l => s.prbsErr l), (Reg.LNE_PRBS_BITS, fun s l => satur 32 (s.prbsBits l / 2 ^ 20))]

def plkViews : List View :=
  [(Reg.PLK_PORT_STATE_STATE, fun s p => (s.port p).state), (Reg.PLK_PORT_STATE_RECEIVERS, fun s p => (s.port p).receivers),
   (Reg.PLK_POS_INFO_OFFERED, fun s p => (s.selPos p).offered), (Reg.PLK_POS_INFO_VERSION, fun s p => (s.selPos p).version),
   (Reg.PLK_POS_INFO_REC_VALID, fun s p => b2n (s.selPos p).record.isSome),
   (Reg.PLK_POS_INFO_LAT_NS, fun s p => satur 16 (s.selPos p).latNs.toNat), (Reg.PLK_POS_CRC, fun s p => (s.selPos p).crcErrors)]

/-! ### Escapements, regulators, DMA (Tables 15.14, 15.15, 16.4) -/

/-- The current image of a kind. -/
def State.curImage (s : State) (k : Nat) : Option EscImage :=
  if Tab.has s.esc.cur k then some (Tab.get {} s.esc.images (Tab.get 0 s.esc.cur k)) else none

/-- The version that the escapement of ESC_ESCAPE_SEL runs. -/
def State.selEscape (s : State) : Nat :=
  (s.escImage (s.esc_ (s.fld Reg.ESC_ESCAPE_SEL_KIND) (s.fld Reg.ESC_ESCAPE_SEL_INDEX))).version

def escViews : List View :=
  [(Reg.ESC_ESCAPE_VER, fun s _ => s.selEscape), (Reg.ESC_VERSION, fun s i => ((s.curImage (i + 1)).map EscImage.version).getD 0),
   (Reg.ESC_VSTAT_SEC_VER, fun s i => ((s.curImage (i + 1)).map EscImage.secVer).getD 0),
   (Reg.ESC_VSTAT_LOADED, fun s i => b2n (s.curImage (i + 1)).isSome)]

def rglViews : List View :=
  [(Reg.RGL_STATUS_CPLS, fun s g => (s.rgl_ g).cpls.length), (Reg.RGL_CPL_KIND, fun s i => (s.cpl (i / 4) (i % 4)).kind)]

def dmaViews : List View :=
  [(Reg.DMA_CH_CFG_PDPOLICY, fun s c => b2n (s.dch c).stopPolicy), (Reg.DMA_CH_CTL_GO, fun _ _ => 0),
   (Reg.DMA_CH_CTL_ABORT, fun _ _ => 0), (Reg.DMA_CH_HEAD_LO_ADDR, fun s c => (s.dch c).head / 64),
   (Reg.DMA_CH_HEAD_HI, fun s c => (s.dch c).head / 2 ^ 32), (Reg.DMA_CH_STATUS_BUSY, fun s c => b2n (s.dch c).busy),
   (Reg.DMA_CH_STATUS_DONE, fun s c => b2n (s.dch c).done), (Reg.DMA_CH_STATUS_LAST_ST, fun s c => (s.dch c).lastSt),
   (Reg.DMA_CH_STATUS_SUBMITTER, fun s c => (s.dch c).submitter), (Reg.DMA_CH_DESCS, fun s c => (s.dch c).descs),
   (Reg.DMA_CH_REMAIN, fun s c => (s.dch c).remain), (Reg.DMA_CH_CUR_LO, fun s c => (s.dch c).cur),
   (Reg.DMA_CH_CUR_HI, fun s c => (s.dch c).cur / 2 ^ 32)]

/-! ### Interrupts, faults, memory, keeping store (Tables 17.7, 17.8, 18.8, 19.6, 19.7) -/

def State.selTgt (s : State) : IntTgt := s.tgt (s.fld Reg.INT_TGT_SEL_TARGET)

/-- A bit of each of the 32 IDs of word `w` of the pages of IDs. -/
def idWord (w : Nat) (f : Nat → Bool) : Nat := ((List.range 32).map fun b => b2n (f (32 * w + b)) * 2 ^ b).sum

def intViews : List View :=
  [(Reg.INT_TGT_STATE_LEVEL, fun s _ => s.selTgt.curLevel), (Reg.INT_TGT_STATE_DEPTH, fun s _ => s.selTgt.shadow.length),
   (Reg.INT_TGT_STATE_ID, fun s _ => (s.selTgt.shadow.head?.map Shadow.id).getD 0), (Reg.INT_TGT_TAKEN, fun s _ => s.selTgt.taken),
   (Reg.INT_TGT_SPURIOUS, fun s _ => s.selTgt.spurious), (Reg.INT_TGT_CHAINED, fun s _ => s.selTgt.chained),
   (Reg.INT_PEND, fun s w => idWord w fun id => (s.src id).pending), (Reg.INT_EN, fun s w => idWord w fun id => s.flag Reg.INT_SRC_ENABLE id),
   (Reg.INT_SRC_PENDING, fun s id => b2n (s.src id).pending), (Reg.INT_SRC_ACTIVE, fun s id => b2n (s.src id).active),
   (Reg.INT_SRC_LINE, fun s id => b2n (s.src id).line)]

def fltViews : List View :=
  [(Reg.FLT_TOP_LO, fun s _ => s.faultTop), (Reg.FLT_TOP_HI, fun s _ => s.faultTop / 2 ^ 32),
   (Reg.FLT_STATUS_MAX_CLASS, fun s _ => s.faultStatus % 8), (Reg.FLT_STATUS_ANY, fun s _ => s.faultStatus / 8 % 2),
   (Reg.FLT_STATUS_C4, fun s _ => b2n s.flt.c4), (Reg.FLT_STATUS_UNLOCKED, fun s _ => b2n s.flt.unlocked),
   (Reg.FLT_STATUS_PIN, fun s _ => b2n s.faultPin), (Reg.FLT_GRP, fun s g => s.faultGroup g)]

def State.errEntry (s : State) (e : Nat) : ErrLog := Tab.get {} s.mem.log e

/-- The highest page write count of a keeping store region (R397). -/
def KstSt.regionWear (k : KstSt) (r : Nat) : Nat :=
  ((k.wear.filter fun e => kstRegion (4096 * e.1) == some r).map (·.2)).foldl max 0

def memViews : List View :=
  [(Reg.MEM_INORDER, fun s _ => s.mem.entries), (Reg.MEM_ERRLOG_LO_ADDR, fun s e => (s.errEntry e).addr / 64), (Reg.MEM_ERRLOG_HI_ADDR, fun s e => (s.errEntry e).addr / 2 ^ 32),
   (Reg.MEM_ERRLOG_INFO_CHANNEL, fun s e => (s.errEntry e).channel), (Reg.MEM_ERRLOG_INFO_PORT, fun s e => (s.errEntry e).port),
   (Reg.MEM_ERRLOG_INFO_KIND, fun s e => (s.errEntry e).kind), (Reg.MEM_ERRLOG_FRAME, fun s e => (s.errEntry e).frame),
   (Reg.KST_WINDINGS, fun s _ => s.kst.windings), (Reg.KST_LOG_HEAD, fun s _ => s.kst.logHead),
   (Reg.KST_LOG_WRAPS, fun s _ => s.kst.logWraps), (Reg.KST_WEAR, fun s r => s.kst.regionWear r)]

/-! ### Clocks and power (Tables 20.9, 20.10) -/

/-- The power domain that a clock domain lies in (Tables 20.4, 20.5); none for one that is always on. Clock domains 10 and 11
cover four encode cores each. -/
def clockPower (c : Nat) : List Nat :=
  if c < 10 then [c]
  else if c = 10 then [10, 11, 12, 13]
  else if c = 11 then [14, 15, 16, 17]
  else if 16 ≤ c ∧ c < 22 then [c + 20]
  else if 24 ≤ c ∧ c < 40 then [c - 6]
  else if c = 40 ∨ c = 41 then [c - 6]
  else []

/-- A clock domain's power domain is not ON; of several, none is. -/
def State.clockOff (s : State) (c : Nat) : Bool := !(clockPower c).isEmpty && (clockPower c).all fun d => !s.domOn d

def busyIn (s : State) (blk first n : Nat) : Bool := (List.range n).any fun i => s.hasPage blk (first + i) && !s.pageIdle blk (first + i)

/-- Blocks of a clock domain are at work (R404). The fabric runs with any engine that moves data (log 53). -/
def State.clockBusy (s : State) (c : Nat) : Bool :=
  if c < 6 then busyIn s Blk.dec c 1
  else if c < 10 then busyIn s Blk.mze (c - 6) 1
  else if c < 12 then busyIn s Blk.enc (4 * (c - 10)) 4
  else if c = 12 then busyIn s Blk.swc 0 1
  else if c < 15 then busyIn s Blk.sch (32 * (c - 13)) 32 || busyIn s Blk.plk (32 * (c - 13)) 32
  else if c = 22 then busyIn s Blk.cnv 0 1
  else if c = 23 then busyIn s Blk.fus 0 4
  else if 24 ≤ c ∧ c < 40 then s.rglRuns (c - 24)
  else if c = 40 ∨ c = 41 then busyIn s Blk.dma (c - 40) 1
  else if 16 ≤ c ∧ c < 22 then busyIn s Blk.mem 0 1
  else busyIn s Blk.dec 0 6 || busyIn s Blk.mze 0 4 || busyIn s Blk.dma 0 2 || busyIn s Blk.cnv 0 1 || busyIn s Blk.swc 0 1

/-- The clock of a domain runs (R403, R404). -/
def State.clockRuns (s : State) (c : Nat) : Bool :=
  if c = 43 then true
  else if s.pwr.clocksStopped then false
  else if c = 42 then true
  else !s.clockOff c && (Tab.get false s.pwr.forceOn c || s.clockBusy c)

/-- A bit of each of 32 domains from `lo`. -/
def domWord (lo n : Nat) (f : Nat → Bool) : Nat := ((List.range n).map fun i => b2n (f (lo + i)) * 2 ^ i).sum

def State.selClk (s : State) : Nat := s.fld Reg.CLK_GATE_SEL_DOMAIN
def State.selDom (s : State) : Domain := s.dom (s.fld Reg.PWR_DOM_SEL_DOMAIN)

/-- A power domain is fused off on the variant: it reads OFF. -/
def State.domState (s : State) (d : Nat) : Nat := if domFused s.variant d then 0 else (s.dom d).state

def pwrViews : List View :=
  [(Reg.CLK_GATE_CTL_FORCE_ON, fun s _ => b2n (Tab.get false s.pwr.forceOn s.selClk)),
   (Reg.CLK_GATE_STATUS_RUNNING, fun s _ => b2n (s.clockRuns s.selClk)),
   (Reg.CLK_GATE_STATUS_ALWAYS_ON, fun s _ => b2n (s.selClk == 42 || s.selClk == 43)),
   (Reg.CLK_GATE_STATUS_POWER_OFF, fun s _ => b2n (s.clockOff s.selClk)),
   (Reg.CLK_RUN_LO, fun s _ => domWord 0 32 s.clockRuns), (Reg.CLK_RUN_HI, fun s _ => domWord 32 12 s.clockRuns),
   (Reg.PWR_DOM_CTL_REQ, fun s _ => b2n s.selDom.req),
   (Reg.PWR_DOM_STATUS_STATE, fun s _ => s.domState (s.fld Reg.PWR_DOM_SEL_DOMAIN)),
   (Reg.PWR_DOM_STATUS_FORCED, fun s _ => b2n s.selDom.forced),
   (Reg.PWR_DOM_STATUS_FUSED, fun s _ => b2n (domFused s.variant (s.fld Reg.PWR_DOM_SEL_DOMAIN))),
   (Reg.PWR_DOM_ON_LO, fun s _ => domWord 0 32 fun d => s.domState d == 2),
   (Reg.PWR_DOM_ON_HI, fun s _ => domWord 32 26 fun d => s.domState d == 2)]

/-! ### SYS page and the header (Tables 21.1, 21.3, 21.4) -/

/-- The directory entry of block type `t` (R415). -/
def dirType (v : Variant) (t : Nat) : Option BlockType := (blockTypes.find? (·.code = t)).filter fun b => decide (0 < b.count v)

/-- The line cache's valid lines (Table 2.9). -/
def hstViews : List View := [(Reg.HST_CCACHE_STATUS_LINES, fun s _ => s.hst.ccache.length)]

/-- The 7-bit SMBus target address that BOOT_SEL selects (R401). -/
def State.smbusAddr (s : State) : Nat := 0x68 + s.pwr.bootSel

def sysViews : List View :=
  [(Reg.SYS_DIR_TOP_LAST_PAGE, fun _ _ => 0x3F6), (Reg.SYS_DIR_TOP_TYPES, fun _ _ => 0x1B),
   (Reg.SYS_DIR_BASE, fun s i => ((dirType s.variant (i + 1)).map BlockType.first).getD 0),
   (Reg.SYS_DIR_COUNT, fun s i => ((dirType s.variant (i + 1)).map fun b => b.count s.variant).getD 0),
   (Reg.SYS_DIR_TYPE, fun s i => ((dirType s.variant (i + 1)).map BlockType.code).getD 0),
   (Reg.SYS_STATUS_PROMISE_VOID, fun s _ => b2n s.flt.promiseVoid), (Reg.SYS_STATUS_WOUND, fun s _ => b2n s.wound)]

/-- PG_CAPS.UNITS of an instance. -/
def capUnits (blk inst : Nat) : Nat :=
  match blk with
  | 0x03 => 32
  | 0x04 => 32
  | 0x05 => 8
  | 0x09 => 128
  | 0x0A => 8
  | 0x13 => 16
  | 0x14 => if inst = 0 then 1 else 256
  | _ => 1

/-- Pages with audit registers (R24). -/
def capAudit (blk : Nat) : Bool := [0x03, 0x05, 0x07, 0x08, 0x09, 0x0C, 0x0D, 0x0E, 0x0F].contains blk

/-- PG_POWER.DOMAIN: the switched domain of an instance, 63 for always on. -/
def pagePower (blk inst : Nat) : Nat :=
  match blk with
  | 0x05 => inst
  | 0x0A => 6 + inst
  | 0x0B => 10 + inst
  | 0x10 => 42 + inst / 4
  | 0x12 => 18 + inst
  | 0x13 => 34 + inst
  | _ => 63

/-- PG_POWER.CLOCK. Table 20.4 names no domain for SYS, RFS, ESC, MEM and CLB (log 53). -/
def pageClock (blk inst : Nat) : Nat :=
  match blk with
  | 0x05 => inst
  | 0x0A => 6 + inst
  | 0x0B => 10 + inst / 4
  | 0x0C => 12
  | 0x0E => 13 + inst / 32
  | 0x0F => 13 + inst / 32
  | 0x10 => 13 + inst / 32
  | 0x06 => 15
  | 0x17 => 16
  | 0x07 => 22
  | 0x08 => 23
  | 0x09 => 23
  | 0x12 => 24 + inst
  | 0x13 => 40 + inst
  | 0x02 => 42
  | 0x03 => 42
  | 0x04 => 42
  | 0x0D => 42
  | 0x14 => 42
  | 0x15 => 42
  | _ => 43

/-- A header field of the page with index `p`. -/
def State.ofPage (s : State) (p : Nat) (f : Nat → Nat → Nat) : Nat :=
  match pageOwner s.variant p with
  | some (blk, inst) => f blk inst
  | none => 0

def hdrViews : List View :=
  [(Reg.PG_IDENT_TYPE, fun s p => s.ofPage p fun blk _ => blk), (Reg.PG_IDENT_INSTANCE, fun s p => s.ofPage p fun _ i => i),
   (Reg.PG_IDENT_HDR_VER, fun _ _ => 1),
   (Reg.PG_VERSION_BLOCK, fun s p => s.ofPage p fun blk _ => ((blockTypes.find? (·.code = blk)).map BlockType.version).getD 0),
   (Reg.PG_VERSION_STEPPING, fun _ _ => 0xB0), (Reg.PG_CAPS_UNITS, fun s p => s.ofPage p capUnits),
   (Reg.PG_CAPS_AUDIT, fun s p => s.ofPage p fun blk _ => b2n (capAudit blk)),
   (Reg.PG_CAPS_ESCAPEMENT, fun s p => s.ofPage p fun blk i => b2n (!(escsOf s.variant blk i).isEmpty)),
   (Reg.PG_STATUS_IDLE, fun s p => s.ofPage p fun blk i => b2n (s.pageIdle blk i)),
   (Reg.PG_STATUS_STOPPING, fun s p => s.ofPage p fun blk i => b2n (s.stopping blk i)), (Reg.PG_STATUS_RESETTING, fun _ _ => 0)] ++
  [(Reg.PG_ERR_ENABLE, fun s p => s.ofPage p fun blk _ => s.fld Reg.PG_ERR_ENABLE p ||| Src.c4Mask blk),
   (Reg.PG_CALIBRE_BANK, fun s _ => b2n s.clb.active), (Reg.PG_CALIBRE_ACTIVE, fun s _ => b2n s.clb.activeValid),
   (Reg.PG_CALIBRE_EPOCH, fun s _ => s.clb.epoch), (Reg.PG_POWER_DOMAIN, fun s p => s.ofPage p pagePower),
   (Reg.PG_POWER_STATE, fun s p => s.ofPage p fun blk i => if pagePower blk i = 63 then 2 else s.domState (pagePower blk i)),
   (Reg.PG_POWER_CLOCK, fun s p => s.ofPage p pageClock),
   (Reg.PG_POWER_RUNNING, fun s p => s.ofPage p fun blk i => b2n (s.clockRuns (pageClock blk i)))]

/-- The views of the pages of a block type, the header's first. -/
def viewsOf (blk : Nat) : List View :=
  hdrViews ++ match blk with
  | 0x01 => sysViews
  | 0x02 => hstViews
  | 0x03 => rngViews
  | 0x04 => mtrViews
  | 0x05 => decViews
  | 0x06 => rfsViews
  | 0x07 => cnvViews
  | 0x08 => cnvViews
  | 0x09 => fusViews
  | 0x0A => mzeViews
  | 0x0B => encViews
  | 0x0C => swcViews
  | 0x0D => bpmViews
  | 0x0E => schViews
  | 0x0F => plkViews
  | 0x10 => lneViews
  | 0x11 => escViews
  | 0x12 => rglViews
  | 0x13 => dmaViews
  | 0x14 => intViews
  | 0x15 => fltViews
  | 0x17 => memViews
  | 0x18 => memViews
  | 0x19 => pwrViews
  | 0x1A => pwrViews
  | 0x1B => clbViews
  | _ => []

/-- What a read returns of one register of a field. -/
def State.fieldValue (s : State) (blk : Nat) (f : Fld) (i : Nat) : Nat :=
  if f.access = .wo then 0
  else match (viewsOf blk).find? fun w => w.1.id == f.id with
    | some w => w.2 s i % 2 ^ f.width
    | none => s.fld f i

/-- The 32-bit word that a field gives at an offset: one half of a 64-bit field. -/
def State.fieldBits (s : State) (blk inst off : Nat) (e : Fld × Nat) : Nat :=
  let f := e.1
  let val := fun l => s.fieldValue blk f (f.index blk inst e.2 l)
  if 32 < f.width then (if (off - f.off) % 8 = 4 then val 0 / 2 ^ 32 else val 0 % 2 ^ 32)
  else ((List.range f.per).map fun l => val l * 2 ^ (f.lo + f.lane * l)).sum

/-- A read of the MSI-X table (vector, word) or PBA (R32); 0 elsewhere in its pages. -/
def State.msixRead (s : State) (x : Nat) : Nat :=
  if x < 0x8000 then
    let v := s.vec (x / 16)
    match x % 16 / 4 with
    | 0 => v.addrLo
    | 1 => v.addrHi
    | 2 => v.data
    | _ => b2n v.masked
  else if x < 0x8100 then ((List.range 32).map fun k => b2n (s.vec ((x - 0x8000) / 4 * 32 + k)).pba * 2 ^ k).sum
  else 0

/-- A read of a register page: RSV bits, reserved offsets, reserved and absent pages read 0 (R9, R422, R4). A claim of
INT_HCLAIM is INT_HCLAIM_READ. -/
def State.regRead (s : State) (page off : Nat) : Nat :=
  if 16368 ≤ page then s.msixRead ((page - 16368) * 4096 + off)
  else match pageOwner s.variant page with
  | none => 0
  | some (blk, inst) => ((s.wordFields blk inst off).map (s.fieldBits blk inst off)).sum

/-! ### Local control of a regulator (Tables 15.7, 17.6) -/

def State.localRead (s : State) (g off : Nat) : Nat :=
  let x := s.rgl_ g
  let q := s.rglQ g
  let t := s.tgt g
  if off = 0x000 then g
  else if off = 0x010 then x.mbx.length
  else if off = 0x024 then b2n x.postDone + 2 * b2n x.postFull
  else if off = 0x030 then q.rxPi
  else if off = 0x034 then q.rxCi
  else if off = 0x038 then q.txPi
  else if off = 0x03C then q.txCi
  else if off = 0x040 then x.dwin0
  else if off = 0x044 then x.dwin1
  else if 0x100 ≤ off ∧ off < 0x120 then field (x.mbx.headD []) (off - 0x100) 4
  else if 0x200 ≤ off ∧ off < 0x220 then field x.mbxOut (off - 0x200) 4
  else if 0x1000 ≤ off ∧ off < 0x2800 then field (Tab.get [] q.rxq ((off - 0x1000) / 96)) ((off - 0x1000) % 96) 4
  else if 0x3000 ≤ off ∧ off < 0x3600 then field (Tab.get [] q.txq ((off - 0x3000) / 96)) ((off - 0x3000) % 96) 4
  else if off = 0x3800 then t.thresh
  else if off = 0x3804 then t.vbase
  else if off = 0x3808 then t.curLevel + 32 * t.shadow.length + 65536 * (t.shadow.head?.map Shadow.id).getD 0
  else if off = 0x3810 then t.timer
  else if 0x3880 ≤ off ∧ off < 0x3900 then
    let p : PrivSrc := Tab.get {} t.priv ((off - 0x3880) / 4 + 1)
    p.prio + 16 * b2n p.enable + 32 * b2n p.pending + 64 * b2n p.line
  else 0

end Sys2Proof.Machine
end

