-- ==== Sys2Proof/WellFormed.lean ====
section
/-! DEFINITION. Which operands a command may carry on a variant: the identifiers of the objects that exist
(Table 0.4 and the figures of each chapter) and the sizes of fixed records. The meanings do not rest on it: they take any
operand, and treat an identifier beyond the variant as R5 says. -/

namespace Sys2Proof

/-- An identifier below a bound. -/
def below (x n : Nat) : Bool := decide (x < n)

/-- A record of a fixed size. -/
def lengthIs (bs : Bytes) (n : Nat) : Bool := decide (bs.length = n)

/-- A writer that the variant has. -/
def agentOk (vr : Variant) (a : Agent) : Bool :=
  match a with
  | .host => true
  | .regulator g => below g vr.regulators

/-- The fields of a training set are bytes. -/
def trainOk (t : TrainRest) : Bool := below t.type 256 && below t.arg0 256 && below t.crc 256

/-- A vector that a mask names is below a bound. -/
def MsixMask.vectorBelow (m : MsixMask) (n : Nat) : Bool :=
  match m with
  | .vector v => below v n
  | .function _ => true

/-- The command names only objects of the variant, and its records have their size. -/
def Instr.wf (vr : Variant) (i : Instr) : Bool :=
  match i with
  | .powerOn => true
  | .railOutOfRange => true
  | .rootPllLoss => true
  | .perstNAssert => true
  | .perstNRelease => true
  | .windingW0 _ _ bootSel => below bootSel 4
  | .selfTestGroup g coverage _ _ => below g 6 && below coverage 256
  | .selfTestTimeout g coverage => below g 6 && below coverage 256
  | .windingW2 => true
  | .windingW3 => true
  | .windingW4 => true
  | .windingW5 _ _ => true
  | .windingW6 => true
  | .windingW7 => true
  | .strapSample _ _ => true
  | .configRequestEarly _ => true
  | .linkTrained hostMode speed width _ _ _ => below hostMode 5 && below speed 8 && below width 32
  | .linkRetrain speed width => below speed 8 && below width 32
  | .linkDown => true
  | .flr => true
  | .hostBadAccess _ bar _ => below bar 6
  | .bar4Access _ _ _ _ _ => true
  | .winBaseWrite a _ => below a 256
  | .hostSizeWrite _ => true
  | .hdmDecoderCommit d _ => below d.decoder 2 && below d.first 4096 && below d.size 4096
  | .biSnoopResponse line => below line (2 ^ 58)
  | .hostLineSnoop line => below line (2 ^ 58)
  | .ccacheFlush _ => true
  | .tenantEnable n _ => below n 64
  | .tenantDisable n _ => below n 64
  | .dbgrpOwnerWrite w _ => below w 64
  | .addressTranslationFail ring index => below ring vr.rings && below index (2 ^ 32)
  | .ideCheckFail => true
  | .spdmRequest code _ => below code 256
  | .setCertificate slot _ _ => below slot 8
  | .msixUnmask mask => mask.vectorBelow 2048
  | .rngDbPi ring _ _ => below ring vr.rings
  | .rngDbCi ring _ => below ring vr.rings
  | .payloadFetch ring => below ring vr.rings
  | .payloadFetchDone ring _ _ => below ring vr.rings
  | .seqGapTimeout stream => below stream vr.streams
  | .ringCfgWrite ring reg _ => below ring vr.rings && below reg 32
  | .ringEnable ring _ => below ring vr.rings
  | .ringDisable ring _ => below ring vr.rings
  | .commandFetch ring entry => below ring vr.rings && lengthIs entry 64
  | .fencedCommandStart job => below job (vr.rings * 2 ^ 32)
  | .streamOpen job => below job (vr.rings * 2 ^ 32)
  | .streamClose job => below job (vr.rings * 2 ^ 32)
  | .streamFlush job => below job (vr.rings * 2 ^ 32)
  | .streamSetPolicy job => below job (vr.rings * 2 ^ 32)
  | .calibreWrite job _ _ => below job (vr.rings * 2 ^ 32)
  | .calibreWriteCommit job => below job (vr.rings * 2 ^ 32)
  | .calibreSwap job => below job (vr.rings * 2 ^ 32)
  | .swapArmed => true
  | .oldBankRelease => true
  | .calibreRead job => below job (vr.rings * 2 ^ 32)
  | .calibreSave _ => true
  | .encSessionOpen job => below job (vr.rings * 2 ^ 32)
  | .encSessionClose job => below job (vr.rings * 2 ^ 32)
  | .dmaSubmit job => below job (vr.rings * 2 ^ 32)
  | .tileRefresh job => below job (vr.rings * 2 ^ 32)
  | .tileIdentityRead job => below job (vr.rings * 2 ^ 32)
  | .complicationLoad job _ _ _ => below job (vr.rings * 2 ^ 32)
  | .query job => below job (vr.rings * 2 ^ 32)
  | .nop job => below job (vr.rings * 2 ^ 32)
  | .mtrEnable m _ => below m vr.meters
  | .mtrRateWrite m reg _ => below m vr.meters && below reg 32
  | .sysQueryCtl _ => true
  | .queryResultReady => true
  | .sysQueryResultRead => true
  | .audSnapTake page => below page 16384
  | .frameMark => true
  | .wallsyncEdge => true
  | .wallsyncHoldover => true
  | .unitDispatch core => below core vr.decCores
  | .workUnitDone core _ => below core vr.decCores
  | .pinCopyDone stream _ => below stream vr.streams
  | .pickup window => below window 256
  | .streamDrainDone stream => below stream vr.streams
  | .drainTimeout stream => below stream vr.streams
  | .decCoreCtlOffline core _ => below core vr.decCores
  | .decCoreReset core => below core vr.decCores
  | .rfsRegionWrite _ _ => true
  | .rowPairStart => true
  | .driveRowPair => true
  | .fusCapCommit => true
  | .capCommitStoreDone _ _ => true
  | .fusForce page _ => below page 4
  | .mzeRowPairStart core => below core vr.mzeCores
  | .mzeRowPairDone core => below core vr.mzeCores
  | .linkFrameSubmit input => below input 46
  | .mzeCoreReset core => below core vr.mzeCores
  | .mzeRefRegionWrite _ _ => true
  | .encSourceReady session => below session vr.sessions
  | .encPictureStart session => below session vr.sessions
  | .encPictureDone session _ qp _ => below session vr.sessions && below qp 256
  | .encCoreReset core => below core vr.encCores
  | .encRegionWrite _ _ => true
  | .alloc _ => true
  | .share _ _ _ _ => true
  | .release _ _ => true
  | .free _ _ => true
  | .handover _ _ _ => true
  | .listRebuildDone which => below which 2
  | .forceFree _ => true
  | .forceOwner _ => true
  | .dpoolConfigWrite _ _ => true
  | .dpoolRebuildDone => true
  | .quotaWrite owner _ => below owner 64
  | .minWrite owner _ => below owner 64
  | .cellMatch => true
  | .portMark port => below port vr.ports
  | .linkFrameDepart port _ => below port vr.ports
  | .tileClose port tile => below port vr.ports && below tile vr.tiles
  | .shaperRateWrite port _ => below port vr.ports
  | .shaperBurstWrite port _ => below port vr.ports
  | .shaperForgive port => below port vr.ports
  | .shaperEnable port _ => below port vr.ports
  | .shaperDisable port _ => below port vr.ports
  | .beatTableParity port => below port vr.ports
  | .portTrainStart port => below port vr.ports
  | .trainAlignTimeout port => below port vr.ports
  | .trainRetryTimer port => below port vr.ports
  | .tsType2Received port pos vers rest => below port vr.ports && below pos 256 && below vers 256 && trainOk rest
  | .positionCollectTimeout port => below port vr.ports
  | .tsType4Received port pos set => below port vr.ports && below pos 256 && below set.vers 256 && trainOk set.rest
  | .versionConfirmTimeout port pos => below port vr.ports && below pos 256
  | .echoReceived port pos _ => below port vr.ports && below pos 256
  | .trainComplete port => below port vr.ports
  | .laneAlignLoss lane => below lane.lane vr.ports
  | .fomMeasure lane fom => below lane vr.ports && below fom 65536
  | .plkRetrain port => below port vr.ports
  | .plkPortCfgWrite port _ => below port vr.ports
  | .portTestEnter port => below port vr.ports
  | .portTestClear port => below port vr.ports
  | .lneTestInject lane => below lane vr.ports
  | .statusFrame port _ => below port vr.ports
  | .mgmtResponse port _ => below port vr.ports
  | .identityReplyTimeout port pos => below port vr.ports && below pos 256
  | .identityReread port pos => below port vr.ports && below pos 256
  | .creditBlock port n => below port vr.ports && below n 65536
  | .upstreamFrame port _ => below port vr.ports
  | .modulePoll bus _ => below bus 8
  | .i2cGo _ => true
  | .escRoutineStart kind index routine => below kind 7 && below index 64 && below routine 256
  | .escRoutineExit kind index _ => below kind 7 && below index 64
  | .escWaitTimeout kind index _ => below kind 7 && below index 64
  | .escSafePointExit kind index _ => below kind 7 && below index 64
  | .stopLimitExpiry kind index => below kind 7 && below index 64
  | .microwordParity kind index => below kind 7 && below index 64
  | .escLoadGo _ => true
  | .escLoadDone => true
  | .pgEnableClear page => below page 16384
  | .pgEnableSet page => below page 16384
  | .pgSoftReset page => below page 16384
  | .pgSafeStop page => below page 16384
  | .bundleWriteGo _ => true
  | .bundleWriteDone _ => true
  | .watchdogRestart g => below g vr.regulators
  | .watchdogHalf g => below g vr.regulators
  | .watchdogExpire g => below g vr.regulators
  | .rglReload g => below g vr.regulators
  | .hostMbxPost g => below g vr.regulators
  | .lMbxPost g _ => below g vr.regulators
  | .lMbxPop g => below g vr.regulators
  | .lRxqCiWrite g _ => below g vr.regulators
  | .lTxqPiWrite g _ => below g vr.regulators
  | .txEntrySend g => below g vr.regulators
  | .frameOverrunStop g slot _ => below g vr.regulators && below slot 4
  | .yield g slot => below g vr.regulators && below slot 4
  | .mbxSend g slot target msg => below g vr.regulators && below slot 4 && below target 17 && lengthIs msg 32
  | .mbxRecv g slot => below g vr.regulators && below slot 4
  | .pool g slot _ _ _ _ => below g vr.regulators && below slot 4
  | .event g slot code _ => below g vr.regulators && below slot 4 && below code 65536
  | .time g slot => below g vr.regulators && below slot 4
  | .rxqTake g slot => below g vr.regulators && below slot 4
  | .txqPost g slot entry => below g vr.regulators && below slot 4 && lengthIs entry 96
  | .publish g slot kind _ => below g vr.regulators && below slot 4 && below kind 256
  | .lookup g slot kind => below g vr.regulators && below slot 4 && below kind 256
  | .timer g slot _ => below g vr.regulators && below slot 4
  | .timerExpire g slot => below g vr.regulators && below slot 4
  | .descriptorFetch ch desc _ => below ch vr.dmaChannels && lengthIs desc 64
  | .dmaCopy ch _ => below ch vr.dmaChannels
  | .dmaFill ch => below ch vr.dmaChannels
  | .dmaCompare ch _ _ => below ch vr.dmaChannels
  | .dmaAccessResponse ch _ _ _ _ => below ch vr.dmaChannels
  | .dmaChainTimeout ch => below ch vr.dmaChannels
  | .dmaGo ch => below ch vr.dmaChannels
  | .dmaAbort ch => below ch vr.dmaChannels
  | .intSourceEdge id _ _ => below id 1024
  | .intTimerMatch g => below g vr.regulators
  | .intSwset _ => true
  | .lIntSwset g _ => below g vr.regulators
  | .intPendClear page w _ => below page 16384 && below w 8
  | .intEntry g pc => below g vr.regulators && below pc (2 ^ 32)
  | .intMret g => below g vr.regulators
  | .intHoldSet _ => true
  | .intHoldClear _ => true
  | .intHclaimRead id => below id 1024
  | .intHclaimWrite id _ => below id 1024
  | .faultNPulseEnd => true
  | .pgErrStickyW1c page _ => below page 16384
  | .pgErrEnableWrite page _ => below page 16384
  | .pgErrInjectWrite page _ => below page 16384
  | .testUnlockKey1 _ => true
  | .testUnlockKey2 _ => true
  | .testUnlockArmTimeout => true
  | .jtagInstruction code => below code 256
  | .patrolScrub line channel _ => below line (2 ^ 34) && below channel vr.dramChannels
  | .zeroChunk => true
  | .memFreqGo _ => true
  | .memFreqDone => true
  | .memErrlogClear => true
  | .memTimingWrite f w _ => below f 3 && below w 8
  | .kstXferGo _ => true
  | .kstXferDone => true
  | .pwrDomainOffReq _ => true
  | .domainDrainDone d => below d 58
  | .domainDrainTimeout d => below d 58
  | .pwrDomainOnReq _ => true
  | .domainWakeDone d => below d 58
  | .thermalSample _ => true
  | .smbusRead cmd => below cmd 256
  | .registerWrite by_ offset _ => agentOk vr by_ && below offset (2 ^ 26)
  | .cxlMemAccess _ _ _ _ => true
  | .lanePllUnlock lane => below lane vr.ports
  | .lanePllRelock lane => below lane vr.ports
  | .i2cTransferDone rdata _ => below rdata 256
  | .ccacheFlushDone => true
  | .complicationInitTimeout job => below job (vr.rings * 2 ^ 32)

end Sys2Proof
end

