-- ==== Sys2Proof/Safety.lean ====
section
/-! DEFINITION. What claims are stated in: the canonical form of every byte memory of the block, and what a step may never
touch. -/

namespace Sys2Proof.Machine

/-- A regulator's instruction and data memory are in canonical form. -/
def Regulator.memOk (r : Regulator) : Bool := r.imem.wf && r.dmem.wf

/-- Every byte memory of the block is in canonical form: DRAM, keeping store, on-die buffers, what has been written to host
memory, shared SRAM, and the regulators' own memories. -/
def State.memOk (s : State) : Bool :=
  s.mem.dram.wf && s.hst.mem.wf && s.kst.mem.wf && s.pool.odieMem.wf && s.rgl.sram.wf && s.rgl.regs.all fun e => e.2.memOk

/-- What every command keeps: the fuse that makes the variant (R3), the queue of waiting commands, and the canonical form of
the memories. -/
structure Kept (s t : State) : Prop where
  variant : t.variant = s.variant
  pending : t.pending = s.pending
  memOk : s.memOk = true → t.memOk = true

/-- The sticky bit of a fault source is set (R362). -/
def State.latched (s : State) (src : Src) (inst : Nat := 0) : Bool := bit (s.sticky (pageOf src.blk inst)) src.bit

/-- The command answers a next state, and `P` holds of that state. -/
def Runs (c : Instr) (s : State) (P : State → Prop) : Prop := ∃ t, exec c s = .next t ∧ P t

end Sys2Proof.Machine
end

