-- ==== Sys2Proof/Claims.lean ====
section
/-! DEFINITION. Names that the obligations are stated in: the duration of a winding stage, the sources eligible at a regulator, what
each command may change: the parts of the state, and of the register fields those it may write (two tables, one row a command). -/

namespace Sys2Proof.Machine

/-- A register write of the host or of a regulator reaches the page of an instance, and no error is armed for the parity of its
registers (R49, R331, R372). -/
def State.pageOpen (s : State) (blk inst : Nat) : Bool :=
  s.pagesReached && s.hasPage blk inst && (s.takeInject (.regParity blk) inst).isNone

/-- A register write of the host reaches the page of an instance, and no error is armed for the parity of its registers. -/
def State.hostPageOpen (s : State) (blk inst : Nat) : Bool :=
  s.hostReaches && s.hasPage blk inst && (s.takeInject (.regParity blk) inst).isNone

/-- The device memory of `t` reads `bs` at `a`, and everywhere else what that of `s` reads. -/
def Stored (s t : State) (a : Nat) (bs : Bytes) : Prop :=
  (∀ i, i < bs.length → t.dramByte (a + i) = bs.getD i 0) ∧ ∀ x, x < a ∨ a + bs.length ≤ x → t.dramByte x = s.dramByte x

/-- PWR_STAGE_USk holds how long the stage that ends in `t` has lasted since it began in `s` (R399). -/
def stageUs (s : State) (k : Nat) (t : State) : Prop :=
  t.fld Reg.PWR_STAGE_US k = (s.now - s.pwr.stageStart) / Clk.us % 4294967296

/-- The fault source of the engine of an escapement, and its instance (R320, R324). -/
def escSource (kind i : Nat) : Src × Nat :=
  match kind with
  | 1 => (.decCore, i / 8)
  | 2 => (.encCore, i)
  | 3 => (.mzeCore, i / 8)
  | 4 => (.cnvDatapath, 0)
  | 5 => (.drvDatapath, 0)
  | _ => (.dmaDatapath, i)

/-- The sources eligible at regulator g at a level, as (PRIO, ID) (R353, R354). -/
def State.intEligible (s : State) (g c : Nat) : List (Nat × Nat) :=
  (((s.tgt g).priv.filter fun e => e.2.enable && e.2.pending && decide (c ≤ e.2.prio)).map fun e => (e.2.prio, e.1)) ++
  ((s.int.src.filter fun e => sharedId e.1 && e.2.pending && s.flag Reg.INT_SRC_ENABLE e.1 &&
    decide (c ≤ s.fld Reg.INT_SRC_PRIO e.1) && s.routedTo e.1 g).map fun e => (s.fld Reg.INT_SRC_PRIO e.1, e.1))

/-- A part of the state that a frame speaks of: memories apart from the records that hold them. -/
inductive Part where
  | now | freeCtr | regs | hst | msix | hostMem | rng | pool | int | flt | mem | dram | kst | kstMem | pwr | dec | clb | cnv | fus
  | mze | swc | sch | plk | rgq | enc | esc | rgl | dma
  deriving DecidableEq, Repr

/-- Every part. -/
def Part.all : List Part :=
  [.now, .freeCtr, .regs, .hst, .msix, .hostMem, .rng, .pool, .int, .flt, .mem, .dram, .kst, .kstMem, .pwr, .dec, .clb, .cnv, .fus,
   .mze, .swc, .sch, .plk, .rgq, .enc, .esc, .rgl, .dma]

/-- A part of the state is the same in both states. -/
def Part.same (s t : State) : Part → Bool
  | .now => t.now == s.now
  | .freeCtr => t.freeCtr == s.freeCtr
  | .regs => t.regs == s.regs
  | .hst => t.hst == { s.hst with msix := t.hst.msix, mem := t.hst.mem }
  | .msix => t.hst.msix == s.hst.msix
  | .hostMem => t.hst.mem == s.hst.mem
  | .rng => t.rng == s.rng
  | .pool => t.pool == s.pool
  | .int => t.int == s.int
  | .flt => t.flt == s.flt
  | .mem => t.mem == { s.mem with dram := t.mem.dram }
  | .dram => t.mem.dram == s.mem.dram
  | .kst => t.kst == { s.kst with mem := t.kst.mem }
  | .kstMem => t.kst.mem == s.kst.mem
  | .pwr => t.pwr == s.pwr
  | .dec => t.dec == s.dec
  | .clb => t.clb == s.clb
  | .cnv => t.cnv == s.cnv
  | .fus => t.fus == s.fus
  | .mze => t.mze == s.mze
  | .swc => t.swc == s.swc
  | .sch => t.sch == s.sch
  | .plk => t.plk == s.plk
  | .rgq => t.rgq == s.rgq
  | .enc => t.enc == s.enc
  | .esc => t.esc == s.esc
  | .rgl => t.rgl == s.rgl
  | .dma => t.dma == s.dma

/-- What a latch of a fault source may change: sticky bits and counters, the collector, its interrupts and the persistent log. -/
def Part.latch : List Part := [.regs, .flt, .msix, .int, .kst, .kstMem]

/-- What a ring record, a message or an event may change beside: the rings, the two memories that they lie in, and the pool, whose
links a write to device memory makes plain. -/
def Part.report : List Part := Part.latch ++ [.freeCtr, .rng, .hst, .hostMem, .pool, .mem, .dram]

/-- What a latch may change, and the parts named. -/
def Part.withLatch (ps : List Part) : List Part := Part.latch ++ ps

/-- What a latch or a report may change, and the parts named. -/
def Part.withReport (ps : List Part) : List Part := Part.report ++ ps

/-- The register fields that a latch of a fault source may write. -/
def Part.latchFields : List Fld :=
  [Reg.FLT_COUNT, Reg.FLT_LOG_COUNT, Reg.INT_HOST_MSGS, Reg.INT_RR_PTR, Reg.PG_ERR_INJECT_COUNT, Reg.PG_ERR_STICKY]

/-- The command answers a next state that differs in nothing but the parts named. -/
def Changes (c : Instr) (s : State) (ps : List Part) : Prop :=
  Runs c s fun t => ∀ p ∈ Part.all, ps.contains p = false → p.same s t = true

/-- The command answers a next state in which every register field but those named reads what it read. -/
def ChangesFields (c : Instr) (s : State) (fs : List Fld) : Prop :=
  Runs c s fun t => ∀ (f : Fld) (i : Nat), f.id < 1024 → (fs.map fun g => g.id).contains f.id = false → t.fld f i = s.fld f i

/-- The parts of the state that a command may change: what it leaves unchanged is every other part. -/
def mayChange (c : Instr) : List Part :=
  match c with
  | .powerOn => Part.all
  | .railOutOfRange => Part.latch
  | .rootPllLoss => Part.withLatch [.pwr]
  | .perstNAssert => Part.all
  | .perstNRelease => [.regs, .hst]
  | .windingW0 _ _ _ => [.regs, .hst, .flt, .kst, .pwr, .fus]
  | .selfTestGroup _ _ _ _ => Part.withLatch [.hst, .pwr]
  | .selfTestTimeout _ _ => Part.withLatch [.hst, .pwr]
  | .windingW2 => [.regs, .hst, .pwr]
  | .windingW3 => Part.withLatch [.pwr, .rgl]
  | .windingW4 => Part.withLatch [.pwr, .esc, .rgl]
  | .windingW5 _ _ => Part.withLatch [.mem, .dram, .pwr]
  | .windingW6 => Part.withReport [.pwr, .clb, .fus, .rgl]
  | .windingW7 => [.regs, .flt, .clb]
  | .strapSample _ _ => [.regs, .flt, .pwr, .fus]
  | .configRequestEarly _ => [.hst]
  | .linkTrained _ _ _ _ _ _ => [.regs, .hst]
  | .linkRetrain _ _ => Part.withLatch [.hst]
  | .linkDown => Part.withLatch [.hst]
  | .flr => Part.withReport [.dec, .enc, .dma]
  | .hostBadAccess _ _ _ => Part.withLatch [.hst]
  | .bar4Access _ _ _ _ _ => Part.withLatch [.hst, .pool, .mem, .dram]
  | .winBaseWrite _ _ => Part.latch
  | .hostSizeWrite _ => Part.latch
  | .hdmDecoderCommit _ _ => [.regs, .hst]
  | .biSnoopResponse _ => Part.withLatch [.hst, .pool, .mem, .dram]
  | .hostLineSnoop _ => [.hst, .hostMem]
  | .ccacheFlush _ => Part.withLatch [.hst]
  | .tenantEnable _ _ => Part.latch
  | .tenantDisable _ _ => Part.latch
  | .dbgrpOwnerWrite _ _ => Part.latch
  | .addressTranslationFail _ _ => Part.report
  | .ideCheckFail => Part.withLatch [.hst]
  | .spdmRequest _ _ => [.freeCtr, .regs, .hst]
  | .setCertificate _ _ _ => [.hst]
  | .msixUnmask _ => [.regs, .hst, .msix]
  | .rngDbPi _ _ _ => Part.withReport [.dec, .enc]
  | .rngDbCi _ _ => Part.report
  | .payloadFetch _ => Part.withReport [.dec, .enc]
  | .payloadFetchDone _ _ _ => Part.withReport [.dec, .enc]
  | .seqGapTimeout _ => Part.withReport [.dec, .enc]
  | .ringCfgWrite _ _ _ => Part.withLatch [.rng, .pool, .mem, .dram]
  | .ringEnable _ _ => Part.withLatch [.rng, .pool, .mem, .dram]
  | .ringDisable _ _ => Part.withLatch [.rng, .pool, .mem, .dram]
  | .commandFetch _ _ => Part.report
  | .fencedCommandStart _ => [.rng]
  | .streamOpen _ => Part.withReport [.dec, .enc]
  | .streamClose _ => Part.withReport [.dec, .enc]
  | .streamFlush _ => Part.withReport [.dec, .enc]
  | .streamSetPolicy _ => Part.withReport [.dec]
  | .calibreWrite _ _ _ => Part.withReport [.clb]
  | .calibreWriteCommit _ => Part.withReport [.clb]
  | .calibreSwap _ => Part.withReport [.clb]
  | .swapArmed => Part.withReport [.clb]
  | .oldBankRelease => [.regs, .clb]
  | .calibreRead _ => Part.report
  | .calibreSave _ => Part.withReport [.clb]
  | .encSessionOpen _ => Part.withReport [.enc]
  | .encSessionClose _ => Part.withReport [.enc]
  | .dmaSubmit _ => Part.withReport [.dma]
  | .tileRefresh _ => Part.withReport [.mze]
  | .tileIdentityRead _ => Part.withReport [.sch, .plk]
  | .complicationLoad _ _ _ _ => Part.withReport [.rgl]
  | .query _ => Part.report
  | .nop _ => Part.report
  | .mtrEnable _ _ => Part.withLatch [.rng]
  | .mtrRateWrite _ _ _ => Part.withLatch [.rng]
  | .sysQueryCtl _ => Part.withLatch [.rng]
  | .queryResultReady => [.regs, .rng]
  | .sysQueryResultRead => [.regs]
  | .audSnapTake _ => Part.withLatch [.rng, .fus, .swc, .sch]
  | .frameMark => Part.withReport [.dec, .clb, .cnv, .swc, .sch, .plk, .enc, .rgl]
  | .wallsyncEdge => Part.withReport [.clb]
  | .wallsyncHoldover => Part.withReport [.clb]
  | .unitDispatch _ => Part.withReport [.dec]
  | .workUnitDone _ _ => Part.withReport [.dec, .enc, .esc]
  | .pinCopyDone _ _ => [.pool, .mem, .dram, .dec]
  | .pickup _ => Part.withReport [.dec, .cnv]
  | .streamDrainDone _ => Part.withReport [.dec, .enc]
  | .drainTimeout _ => Part.withReport [.dec]
  | .decCoreCtlOffline _ _ => Part.withReport [.dec, .esc]
  | .decCoreReset _ => Part.withLatch [.dec, .esc]
  | .rfsRegionWrite _ _ => Part.latch
  | .rowPairStart => Part.withReport [.dec, .cnv, .enc, .esc]
  | .driveRowPair => Part.withReport [.cnv, .fus, .mze, .esc]
  | .fusCapCommit => Part.withLatch [.hst, .mem, .fus]
  | .capCommitStoreDone _ _ => Part.withReport [.fus]
  | .fusForce _ _ => Part.withLatch [.fus]
  | .mzeRowPairStart _ => Part.withReport [.mze]
  | .mzeRowPairDone _ => Part.withReport [.cnv, .mze, .swc, .esc]
  | .linkFrameSubmit _ => Part.withLatch [.pool, .mem, .dram, .swc]
  | .mzeCoreReset _ => Part.withLatch [.mze, .esc]
  | .mzeRefRegionWrite _ _ => Part.latch
  | .encSourceReady _ => Part.withLatch [.dec, .enc]
  | .encPictureStart _ => [.enc]
  | .encPictureDone _ _ _ _ => Part.withReport [.enc, .esc]
  | .encCoreReset _ => Part.withLatch [.enc, .esc]
  | .encRegionWrite _ _ => Part.latch
  | .alloc _ => Part.withLatch [.pool, .mem, .dram]
  | .share _ _ _ _ => Part.withLatch [.pool, .mem, .dram]
  | .release _ _ => Part.withLatch [.pool, .mem, .dram]
  | .free _ _ => Part.withLatch [.pool, .mem, .dram]
  | .handover _ _ _ => Part.withLatch [.pool, .mem, .dram]
  | .listRebuildDone _ => [.regs, .pool, .mem, .dram]
  | .forceFree _ => Part.withLatch [.pool, .mem, .dram]
  | .forceOwner _ => Part.withLatch [.pool, .mem, .dram]
  | .dpoolConfigWrite _ _ => Part.withLatch [.pool]
  | .dpoolRebuildDone => [.regs]
  | .quotaWrite _ _ => Part.latch
  | .minWrite _ _ => Part.latch
  | .cellMatch => Part.withReport [.fus, .swc, .sch, .rgq, .rgl]
  | .portMark _ => Part.withReport [.fus, .mze, .swc, .sch]
  | .linkFrameDepart _ _ => Part.withReport [.swc, .sch, .plk, .rgq, .rgl]
  | .tileClose _ _ => Part.withReport [.mze, .sch]
  | .shaperRateWrite _ _ => Part.withLatch [.sch]
  | .shaperBurstWrite _ _ => Part.withLatch [.sch]
  | .shaperForgive _ => Part.withLatch [.sch]
  | .shaperEnable _ _ => Part.withLatch [.sch]
  | .shaperDisable _ _ => Part.withLatch [.sch]
  | .beatTableParity _ => Part.withLatch [.sch]
  | .portTrainStart _ => Part.withReport [.swc, .sch, .plk]
  | .trainAlignTimeout _ => Part.withReport [.swc, .sch, .plk]
  | .trainRetryTimer _ => Part.withReport [.swc, .sch, .plk]
  | .tsType2Received _ _ _ _ => [.regs, .plk]
  | .positionCollectTimeout _ => [.plk]
  | .tsType4Received _ _ _ => [.plk]
  | .versionConfirmTimeout _ _ => [.plk]
  | .echoReceived _ _ _ => [.plk]
  | .trainComplete _ => Part.withReport [.swc, .sch, .plk]
  | .laneAlignLoss _ => Part.withReport [.swc, .sch, .plk]
  | .fomMeasure _ _ => Part.withReport [.swc, .sch, .plk]
  | .plkRetrain _ => Part.withReport [.swc, .sch, .plk]
  | .plkPortCfgWrite _ _ => Part.withReport [.swc, .sch, .plk]
  | .portTestEnter _ => Part.withReport [.swc, .sch, .plk]
  | .portTestClear _ => Part.withReport [.swc, .sch, .plk]
  | .lneTestInject _ => Part.withLatch [.plk]
  | .statusFrame _ _ => Part.withReport [.mze, .plk]
  | .mgmtResponse _ _ => Part.withReport [.swc, .sch, .plk]
  | .identityReplyTimeout _ _ => Part.withReport [.sch, .plk]
  | .identityReread _ _ => Part.withReport [.sch, .plk]
  | .creditBlock _ _ => [.plk]
  | .upstreamFrame _ _ => Part.withLatch [.swc]
  | .modulePoll _ _ => Part.withReport [.swc, .sch, .plk]
  | .i2cGo _ => Part.withLatch [.plk]
  | .escRoutineStart _ _ _ => [.esc]
  | .escRoutineExit _ _ _ => Part.withReport [.dec, .mze, .enc, .esc, .dma]
  | .escWaitTimeout _ _ _ => Part.withReport [.dec, .mze, .enc, .esc, .dma]
  | .escSafePointExit _ _ _ => Part.withReport [.dec, .mze, .enc, .esc, .dma]
  | .stopLimitExpiry _ _ => Part.withReport [.dec, .mze, .enc, .esc, .dma]
  | .microwordParity _ _ => Part.withReport [.dec, .mze, .enc, .esc, .dma]
  | .escLoadGo _ => Part.withLatch [.esc]
  | .escLoadDone => Part.withLatch [.hst, .mem, .esc]
  | .pgEnableClear _ => Part.withReport [.swc, .sch, .plk]
  | .pgEnableSet _ => Part.withReport [.dec, .cnv, .fus, .swc, .sch, .plk]
  | .pgSoftReset _ => Part.withReport [.dec, .clb, .cnv, .fus, .mze, .swc, .sch, .plk, .rgq, .enc, .esc, .rgl, .dma]
  | .pgSafeStop _ => Part.withLatch [.esc]
  | .bundleWriteGo _ => Part.withLatch [.hst, .mem, .rgl]
  | .bundleWriteDone _ => Part.withLatch [.rgl]
  | .watchdogRestart _ => [.rgl]
  | .watchdogHalf _ => [.int, .rgl]
  | .watchdogExpire _ => Part.withReport [.rgl]
  | .rglReload _ => Part.withReport [.rgl]
  | .hostMbxPost _ => Part.withLatch [.rgl]
  | .lMbxPost _ _ => Part.withReport [.rgl]
  | .lMbxPop _ => [.rgl]
  | .lRxqCiWrite _ _ => Part.withLatch [.rgq]
  | .lTxqPiWrite _ _ => Part.withLatch [.rgq]
  | .txEntrySend _ => [.regs, .int, .swc, .rgq, .rgl]
  | .frameOverrunStop _ _ _ => Part.withReport [.rgl]
  | .yield _ _ => Part.withLatch [.rgl]
  | .mbxSend _ _ _ _ => Part.withReport [.rgl]
  | .mbxRecv _ _ => [.rgl]
  | .pool _ _ _ _ _ _ => Part.withLatch [.pool, .mem, .dram, .rgl]
  | .event _ _ _ _ => Part.withReport [.rgl]
  | .time _ _ => [.rgl]
  | .rxqTake _ _ => [.rgq, .rgl]
  | .txqPost _ _ _ => [.rgq, .rgl]
  | .publish _ _ _ _ => [.freeCtr, .rgl]
  | .lookup _ _ _ => [.rgl]
  | .timer _ _ _ => [.rgl]
  | .timerExpire _ _ => [.rgl]
  | .descriptorFetch _ _ _ => Part.withReport [.dma]
  | .dmaCopy _ _ => Part.withReport [.esc, .dma]
  | .dmaFill _ => Part.withReport [.esc, .dma]
  | .dmaCompare _ _ _ => Part.withReport [.esc, .dma]
  | .dmaAccessResponse _ _ _ _ _ => Part.withLatch [.dma]
  | .dmaChainTimeout _ => Part.withReport [.dma]
  | .dmaGo _ => Part.withLatch [.dma]
  | .dmaAbort _ => Part.withReport [.dma]
  | .intSourceEdge _ _ _ => Part.latch
  | .intTimerMatch _ => [.int]
  | .intSwset _ => Part.latch
  | .lIntSwset _ _ => [.int]
  | .intPendClear _ _ _ => Part.latch
  | .intEntry _ _ => [.freeCtr, .int]
  | .intMret _ => [.regs, .msix, .int]
  | .intHoldSet _ => Part.latch
  | .intHoldClear _ => Part.latch
  | .intHclaimRead _ => [.hst, .int]
  | .intHclaimWrite _ _ => Part.latch
  | .faultNPulseEnd => [.flt]
  | .pgErrStickyW1c _ _ => Part.latch
  | .pgErrEnableWrite _ _ => Part.latch
  | .pgErrInjectWrite _ _ => Part.latch
  | .testUnlockKey1 _ => Part.withLatch [.hst]
  | .testUnlockKey2 _ => Part.withLatch [.hst]
  | .testUnlockArmTimeout => [.flt]
  | .jtagInstruction _ => [.flt]
  | .patrolScrub _ _ _ => Part.withLatch [.mem]
  | .zeroChunk => [.regs, .mem]
  | .memFreqGo _ => Part.withLatch [.mem]
  | .memFreqDone => Part.withLatch [.mem, .pwr, .dma]
  | .memErrlogClear => Part.latch
  | .memTimingWrite _ _ _ => Part.latch
  | .kstXferGo _ => Part.latch
  | .kstXferDone => Part.withLatch [.freeCtr, .hst, .pool, .mem, .dram]
  | .pwrDomainOffReq _ => Part.withLatch [.mem, .pwr, .dma]
  | .domainDrainDone _ => Part.withReport [.pwr]
  | .domainDrainTimeout _ => Part.withReport [.pwr, .dma]
  | .pwrDomainOnReq _ => Part.withLatch [.mem, .pwr, .dma]
  | .domainWakeDone _ => Part.withReport [.pwr, .dec, .mze, .swc, .sch, .plk, .rgq, .enc, .esc, .rgl, .dma]
  | .thermalSample _ => Part.withReport [.pwr, .esc]
  | .smbusRead _ => [.pwr]
  | .registerWrite _ _ _ => Part.withReport [.pwr, .dec, .clb, .cnv, .fus, .mze, .swc, .sch, .plk, .rgq, .enc, .esc, .rgl, .dma]
  | .cxlMemAccess _ _ _ _ => Part.withLatch [.hst, .pool, .mem, .dram]
  | .lanePllUnlock _ => Part.withLatch [.plk]
  | .lanePllRelock _ => Part.withReport [.swc, .sch, .plk]
  | .i2cTransferDone _ _ => [.regs, .plk]
  | .ccacheFlushDone => [.regs, .hst, .hostMem]
  | .complicationInitTimeout _ => Part.withReport [.rgl]

/-- The register fields that report a misuse of the buffer pool. -/
def Part.misuseFields : List Fld :=
  [Reg.BPM_MISUSE, Reg.BPM_MISUSE_BUF, Reg.BPM_MISUSE_LAST_OP, Reg.BPM_MISUSE_LAST_OWNER, Reg.BPM_MISUSE_LAST_STATUS]

/-- The register fields that a read of device memory may write. -/
def Part.eccFields : List Fld :=
  [Reg.MEM_CE_COUNT, Reg.MEM_ERRLOG_CTL_HEAD, Reg.MEM_ERRLOG_CTL_LOST, Reg.MEM_ERRLOG_CTL_VALID]

/-- The register fields that a change of a port's state may write. -/
def Part.laneFields : List Fld :=
  [Reg.LNE_PRBS_ERR, Reg.LNE_STATUS_ALIGNED, Reg.LNE_STATUS_DESKEWED, Reg.LNE_STATUS_LOCK, Reg.LNE_STATUS_SIGNAL, Reg.LNE_TEST_CHK_LOCK]

/-- The register fields that a command may change; none is named for the resets and the generic register write, which may change any. -/
def mayWrite (c : Instr) : Option (List Fld) :=
  match c with
  | .powerOn => none
  | .railOutOfRange => some Part.latchFields
  | .rootPllLoss => some (Part.latchFields ++ [Reg.CLK_STATUS_ROOT_LOCK])
  | .perstNAssert => none
  | .perstNRelease => some [Reg.BST_STATUS_RUNNING]
  | .windingW0 _ _ _ => some [Reg.BST_STATUS_RUNNING, Reg.CLK_STATUS_REFCLK_OK, Reg.CLK_STATUS_ROOT_LOCK,
      Reg.FUS_CAP_CTL_UNLOCKED, Reg.PWR_STAGE_US, Reg.PWR_WIND_STAGE]
  | .selfTestGroup _ _ _ _ => some (Part.latchFields ++ [Reg.BST_DRAM_FAIL, Reg.BST_DUR, Reg.BST_HOST_FAIL, Reg.BST_I2C_FAIL,
      Reg.BST_LANE_FAIL_HI, Reg.BST_LANE_FAIL_LO, Reg.BST_RESULT_COVERAGE, Reg.BST_RESULT_DONE, Reg.BST_RESULT_PASS,
      Reg.BST_RESULT_SKIPPED, Reg.BST_RESULT_TIMEOUT, Reg.BST_STATUS_ALL_PASS, Reg.BST_STATUS_DONE, Reg.BST_STATUS_RUNNING,
      Reg.BST_TOTAL_US, Reg.PWR_STAGE_US, Reg.PWR_WIND_STAGE])
  | .selfTestTimeout _ _ => some (Part.latchFields ++ [Reg.BST_DUR, Reg.BST_RESULT_COVERAGE, Reg.BST_RESULT_DONE,
      Reg.BST_RESULT_PASS, Reg.BST_RESULT_SKIPPED, Reg.BST_RESULT_TIMEOUT, Reg.BST_STATUS_ALL_PASS, Reg.BST_STATUS_DONE,
      Reg.BST_STATUS_RUNNING, Reg.BST_TOTAL_US, Reg.PWR_STAGE_US, Reg.PWR_WIND_STAGE])
  | .windingW2 => some [Reg.PWR_STAGE_US, Reg.PWR_WIND_STAGE]
  | .windingW3 => some (Part.latchFields ++ [Reg.PWR_STAGE_US, Reg.PWR_WIND_STAGE, Reg.RGL_BOOT_FUSE_SECVER,
      Reg.RGL_BOOT_RECOVERY, Reg.RGL_BOOT_SLOT])
  | .windingW4 => some (Part.latchFields ++ [Reg.PWR_STAGE_US, Reg.PWR_WIND_STAGE, Reg.RGL_STATUS_STATE])
  | .windingW5 _ _ => some (Part.latchFields ++ [Reg.MEM_STATUS_FREQ, Reg.MEM_STATUS_GROUPS, Reg.MEM_STATUS_READY,
      Reg.MEM_STATUS_ZEROED, Reg.MEM_TIM_VALUE, Reg.MEM_USABLE, Reg.PWR_STAGE_US, Reg.PWR_WIND_STAGE])
  | .windingW6 => some (Part.latchFields ++ [Reg.CLB_WRITE_SEQ, Reg.FUS_CAP_CTL_LOADED, Reg.FUS_CAP_SEQ, Reg.PWR_STAGE_US,
      Reg.PWR_WIND_STAGE])
  | .windingW7 => some [Reg.BPM_STATUS_DPOOL_READY, Reg.BPM_STATUS_ODIE_READY, Reg.PWR_WIND_STAGE, Reg.PWR_WIND_TOTAL_US]
  | .strapSample _ _ => some [Reg.FUS_CAP_CTL_UNLOCKED]
  | .configRequestEarly _ => some []
  | .linkTrained _ _ _ _ _ _ => some [Reg.HST_LINK_STATUS_CACHE_EN, Reg.HST_LINK_STATUS_FLIT256, Reg.HST_LINK_STATUS_MEM_EN,
      Reg.HST_LINK_STATUS_MODE, Reg.HST_LINK_STATUS_SPEED, Reg.HST_LINK_STATUS_WIDTH]
  | .linkRetrain _ _ => some (Part.latchFields ++ [Reg.HST_LINK_STATUS_SPEED, Reg.HST_LINK_STATUS_WIDTH])
  | .linkDown => some Part.latchFields
  | .flr => none
  | .hostBadAccess _ _ _ => some Part.latchFields
  | .bar4Access _ _ _ _ _ => some (Part.latchFields ++ Part.eccFields)
  | .winBaseWrite _ _ => some (Part.latchFields ++ [Reg.HST_WIN_BASE_BASE])
  | .hostSizeWrite _ => some (Part.latchFields ++ [Reg.HST_HDM_CARVE_HOST_SIZE])
  | .hdmDecoderCommit _ _ => some [Reg.HST_LINK_STATUS_HDM_DB]
  | .biSnoopResponse _ => some (Part.latchFields ++ Part.eccFields)
  | .hostLineSnoop _ => some []
  | .ccacheFlush _ => some (Part.latchFields ++ [Reg.HST_CCACHE_CTL_ENABLE, Reg.HST_CCACHE_STATUS_FLUSH_BUSY])
  | .tenantEnable _ _ => some (Part.latchFields ++ [Reg.HST_TENANT_ABI, Reg.HST_TENANT_PASID, Reg.HST_TENANT_PASID_EN,
      Reg.HST_TENANT_VALID])
  | .tenantDisable _ _ => some (Part.latchFields ++ [Reg.HST_TENANT_ABI, Reg.HST_TENANT_PASID, Reg.HST_TENANT_PASID_EN,
      Reg.HST_TENANT_VALID])
  | .dbgrpOwnerWrite _ _ => some (Part.latchFields ++ [Reg.HST_DBGRP_OWNER_TENANT, Reg.HST_DBGRP_OWNER_VALID])
  | .addressTranslationFail _ _ => some Part.latchFields
  | .ideCheckFail => some (Part.latchFields ++ [Reg.HST_LINK_STATUS_IDE_ACTIVE])
  | .spdmRequest _ _ => some [Reg.HST_LINK_STATUS_IDE_ACTIVE]
  | .setCertificate _ _ _ => some []
  | .msixUnmask _ => some [Reg.INT_HOST_MSGS]
  | .rngDbPi _ _ _ => some (Part.latchFields ++ Part.misuseFields ++ [Reg.HST_DB_REJECT])
  | .rngDbCi _ _ => some (Part.latchFields ++ Part.misuseFields ++ [Reg.HST_DB_REJECT])
  | .payloadFetch _ => some (Part.latchFields ++ Part.misuseFields ++ [Reg.BPM_STATUS_REBUILD])
  | .payloadFetchDone _ _ _ => some (Part.latchFields ++ Part.misuseFields)
  | .seqGapTimeout _ => some (Part.latchFields ++ Part.misuseFields)
  | .ringCfgWrite _ _ _ => some (Part.latchFields ++ Part.misuseFields)
  | .ringEnable _ _ => some (Part.latchFields ++ Part.misuseFields)
  | .ringDisable _ _ => some (Part.latchFields ++ Part.misuseFields)
  | .commandFetch _ _ => some (Part.latchFields ++ Part.misuseFields)
  | .fencedCommandStart _ => some []
  | .streamOpen _ => some (Part.latchFields ++ Part.misuseFields ++ [Reg.DEC_LOAD_LIVE])
  | .streamClose _ => some (Part.latchFields ++ Part.misuseFields ++ [Reg.DEC_LOAD_LIVE])
  | .streamFlush _ => some (Part.latchFields ++ Part.misuseFields)
  | .streamSetPolicy _ => some Part.latchFields
  | .calibreWrite _ _ _ => some (Part.latchFields ++ Part.eccFields)
  | .calibreWriteCommit _ => some (Part.latchFields ++ [Reg.CLB_WRITE_SEQ, Reg.MZE_REF_FREE])
  | .calibreSwap _ => some Part.latchFields
  | .swapArmed => some Part.latchFields
  | .oldBankRelease => some [Reg.CLB_WRITE_SEQ, Reg.MZE_REF_FREE]
  | .calibreRead _ => some Part.latchFields
  | .calibreSave _ => some Part.latchFields
  | .encSessionOpen _ => some Part.latchFields
  | .encSessionClose _ => some Part.latchFields
  | .dmaSubmit _ => some Part.latchFields
  | .tileRefresh _ => some Part.latchFields
  | .tileIdentityRead _ => some Part.latchFields
  | .complicationLoad _ _ _ _ => some (Part.latchFields ++ Part.eccFields)
  | .query _ => some Part.latchFields
  | .nop _ => some Part.latchFields
  | .mtrEnable _ _ => some Part.latchFields
  | .mtrRateWrite _ _ _ => some Part.latchFields
  | .sysQueryCtl _ => some (Part.latchFields ++ [Reg.SYS_QUERY_DATA, Reg.SYS_QUERY_RESULT_IGNORED, Reg.SYS_QUERY_RESULT_READS,
      Reg.SYS_QUERY_RESULT_VALID])
  | .queryResultReady => some [Reg.SYS_QUERY_DATA, Reg.SYS_QUERY_RESULT_SEQ, Reg.SYS_QUERY_RESULT_STATUS,
      Reg.SYS_QUERY_RESULT_VALID]
  | .sysQueryResultRead => some [Reg.SYS_QUERY_RESULT_READS]
  | .audSnapTake _ => some (Part.latchFields ++ [Reg.BPM_AUD_ALLOC, Reg.BPM_AUD_FREE, Reg.BPM_AUD_PENDING, Reg.BPM_AUD_SNAP_SEQ,
      Reg.BPM_AUD_TOTAL, Reg.CNV_AUD_CR_ISSUED, Reg.CNV_AUD_CR_OUT, Reg.CNV_AUD_CR_RETURNED, Reg.CNV_AUD_SNAP_SEQ,
      Reg.DEC_AUD_CR_ISSUED, Reg.DEC_AUD_CR_OUT, Reg.DEC_AUD_CR_RETURNED, Reg.DEC_AUD_SNAP_SEQ, Reg.DRV_AUD_CR_ISSUED,
      Reg.DRV_AUD_CR_OUT, Reg.DRV_AUD_CR_RETURNED, Reg.DRV_AUD_SNAP_SEQ, Reg.FUS_AUD_SNAP_SEQ, Reg.PLK_AUD_CR_HELD,
      Reg.PLK_AUD_CR_RCVD, Reg.PLK_AUD_CR_SPENT, Reg.PLK_AUD_SNAP_SEQ, Reg.RNG_AUD_SNAP_SEQ, Reg.SCH_AUD_SNAP_SEQ,
      Reg.SWC_AUD_SNAP_SEQ])
  | .frameMark => some (Part.latchFields ++ Part.misuseFields ++ Part.laneFields ++ [Reg.CLB_DARK_TILES, Reg.CLB_PERIOD,
      Reg.CLB_SWAP_FRAME, Reg.CLB_WRITE_SEQ, Reg.MZE_REF_FREE, Reg.SYS_FRAME_COUNT])
  | .wallsyncEdge => some (Part.latchFields ++ [Reg.CLB_SYNC_MEAS])
  | .wallsyncHoldover => some (Part.latchFields ++ [Reg.CLB_HOLDOVER_MARKS])
  | .unitDispatch _ => some Part.latchFields
  | .workUnitDone _ _ => some (Part.latchFields ++ Part.misuseFields)
  | .pinCopyDone _ _ => some []
  | .pickup _ => some Part.latchFields
  | .streamDrainDone _ => some (Part.latchFields ++ Part.misuseFields ++ [Reg.DEC_LOAD_LIVE])
  | .drainTimeout _ => some Part.latchFields
  | .decCoreCtlOffline _ _ => some Part.latchFields
  | .decCoreReset _ => some Part.latchFields
  | .rfsRegionWrite _ _ => some (Part.latchFields ++ [Reg.RFS_REGION_BASE, Reg.RFS_REGION_SIZE])
  | .rowPairStart => some (Part.latchFields ++ [Reg.CNV_FRAME, Reg.CNV_LATE_MAX, Reg.CNV_LATE_RP, Reg.CNV_OVERRUN,
      Reg.CNV_STATUS_ROW_PAIR, Reg.CNV_STATUS_SCANNING, Reg.DEC_BAND_SLIP])
  | .driveRowPair => some (Part.latchFields ++ Part.eccFields ++ [Reg.DRV_GMAP_ERRORS, Reg.DRV_GMAP_KIB, Reg.FUS_TGT_HI_TOKENS,
      Reg.FUS_TGT_LO_TOKENS])
  | .fusCapCommit => some (Part.latchFields ++ Part.eccFields ++ [Reg.FUS_CAP_CTL_BUSY, Reg.FUS_CAP_CTL_RESULT])
  | .capCommitStoreDone _ _ => some (Part.latchFields ++ [Reg.FUS_CAP_CTL_BUSY, Reg.FUS_CAP_CTL_LOADED, Reg.FUS_CAP_CTL_RESULT,
      Reg.FUS_CAP_SEQ])
  | .fusForce _ _ => some (Part.latchFields ++ [Reg.FUS_FORCE_VAL_HI, Reg.FUS_FORCE_VAL_LO])
  | .mzeRowPairStart _ => some (Part.latchFields ++ Part.eccFields ++ [Reg.MZE_REFRESH_RP])
  | .mzeRowPairDone _ => some (Part.latchFields ++ [Reg.MZE_FLOOR_RP, Reg.MZE_UNSENT_RP])
  | .linkFrameSubmit _ => some (Part.latchFields ++ [Reg.BPM_STATUS_REBUILD])
  | .mzeCoreReset _ => some Part.latchFields
  | .mzeRefRegionWrite _ _ => some (Part.latchFields ++ [Reg.MZE_REF_BASE, Reg.MZE_REF_FREE, Reg.MZE_REF_SIZE])
  | .encSourceReady _ => some Part.latchFields
  | .encPictureStart _ => some []
  | .encPictureDone _ _ _ _ => some Part.latchFields
  | .encCoreReset _ => some Part.latchFields
  | .encRegionWrite _ _ => some (Part.latchFields ++ [Reg.ENC_REGION_BASE, Reg.ENC_REGION_SIZE])
  | .alloc _ => some (Part.latchFields ++ Part.misuseFields ++ [Reg.BPM_RSP_BUF, Reg.BPM_RSP_DONE, Reg.BPM_RSP_STATUS,
      Reg.BPM_STATUS_REBUILD])
  | .share _ _ _ _ => some (Part.latchFields ++ Part.misuseFields ++ [Reg.BPM_RSP_BUF, Reg.BPM_RSP_DONE, Reg.BPM_RSP_STATUS,
      Reg.BPM_STATUS_REBUILD])
  | .release _ _ => some (Part.latchFields ++ Part.misuseFields ++ [Reg.BPM_RSP_BUF, Reg.BPM_RSP_DONE, Reg.BPM_RSP_STATUS,
      Reg.BPM_STATUS_REBUILD])
  | .free _ _ => some (Part.latchFields ++ Part.misuseFields ++ [Reg.BPM_RSP_BUF, Reg.BPM_RSP_DONE, Reg.BPM_RSP_STATUS,
      Reg.BPM_STATUS_REBUILD])
  | .handover _ _ _ => some (Part.latchFields ++ Part.misuseFields ++ [Reg.BPM_RSP_BUF, Reg.BPM_RSP_DONE, Reg.BPM_RSP_STATUS,
      Reg.BPM_STATUS_REBUILD])
  | .listRebuildDone _ => some [Reg.BPM_STATUS_REBUILD]
  | .forceFree _ => some Part.latchFields
  | .forceOwner _ => some Part.latchFields
  | .dpoolConfigWrite _ _ => some (Part.latchFields ++ [Reg.BPM_DPOOL_BASE, Reg.BPM_DPOOL_COUNT, Reg.BPM_STATUS_DPOOL_READY,
      Reg.BPM_STATUS_REBUILD])
  | .dpoolRebuildDone => some [Reg.BPM_STATUS_DPOOL_READY]
  | .quotaWrite _ _ => some (Part.latchFields ++ [Reg.BPM_QUOTA_POOL, Reg.BPM_QUOTA_QUOTA])
  | .minWrite _ _ => some (Part.latchFields ++ [Reg.BPM_MIN])
  | .cellMatch => some (Part.latchFields ++ Part.misuseFields ++ [Reg.RGL_RXQ_DROP, Reg.SCH_LATE, Reg.SWC_MC_PARTIAL,
      Reg.SWC_NOFWD, Reg.SWC_PORT_DROP])
  | .portMark _ => some (Part.latchFields ++ Part.misuseFields ++ [Reg.MZE_UNSENT_RP, Reg.SCH_CUT, Reg.SCH_LATE, Reg.SCH_PFRAME,
      Reg.SCH_WAIT_FIT])
  | .linkFrameDepart _ _ => some (Part.latchFields ++ Part.misuseFields ++ [Reg.PLK_CR_STALL, Reg.RGL_RXQ_DROP,
      Reg.SCH_BORROW_KIB, Reg.SCH_OPEN_KIB, Reg.SWC_PORT_FRAMES, Reg.SWC_SMP_DROP, Reg.SWC_SMP_TAKEN])
  | .tileClose _ _ => some (Part.latchFields ++ [Reg.MZE_UNSENT_RP, Reg.SCH_WAIT_FIT])
  | .shaperRateWrite _ _ => some Part.latchFields
  | .shaperBurstWrite _ _ => some Part.latchFields
  | .shaperForgive _ => some Part.latchFields
  | .shaperEnable _ _ => some Part.latchFields
  | .shaperDisable _ _ => some Part.latchFields
  | .beatTableParity _ => some Part.latchFields
  | .portTrainStart _ => some (Part.latchFields ++ Part.misuseFields ++ Part.laneFields)
  | .trainAlignTimeout _ => some (Part.latchFields ++ Part.misuseFields ++ [Reg.LNE_PRBS_ERR, Reg.LNE_TEST_CHK_LOCK,
      Reg.PLK_TRAIN_FAIL])
  | .trainRetryTimer _ => some (Part.latchFields ++ Part.misuseFields ++ Part.laneFields)
  | .tsType2Received _ _ _ _ => some [Reg.LNE_STATUS_ALIGNED, Reg.LNE_STATUS_DESKEWED, Reg.LNE_STATUS_LOCK, Reg.LNE_STATUS_SIGNAL]
  | .positionCollectTimeout _ => some []
  | .tsType4Received _ _ _ => some []
  | .versionConfirmTimeout _ _ => some []
  | .echoReceived _ _ _ => some []
  | .trainComplete _ => some (Part.latchFields ++ Part.misuseFields ++ [Reg.LNE_PRBS_ERR, Reg.LNE_TEST_CHK_LOCK, Reg.PLK_TRAINS])
  | .laneAlignLoss _ => some (Part.latchFields ++ Part.misuseFields ++ Part.laneFields ++ [Reg.LNE_ALIGN_LOSS,
      Reg.LNE_CODE_ERR, Reg.LNE_STATUS_SKEW_NS])
  | .fomMeasure _ _ => some (Part.latchFields ++ Part.misuseFields ++ Part.laneFields ++ [Reg.LNE_STATUS_FOM])
  | .plkRetrain _ => some (Part.latchFields ++ Part.misuseFields ++ Part.laneFields)
  | .plkPortCfgWrite _ _ => some (Part.latchFields ++ Part.misuseFields ++ Part.laneFields ++ [Reg.PLK_PORT_CFG_CLASS,
      Reg.PLK_PORT_CFG_EN, Reg.PLK_PORT_CFG_RATE, Reg.PLK_PORT_CFG_VERS])
  | .portTestEnter _ => some (Part.latchFields ++ Part.misuseFields ++ [Reg.LNE_PRBS_ERR, Reg.LNE_TEST_CHK_LOCK,
      Reg.PLK_PORT_CTL_TEST])
  | .portTestClear _ => some (Part.latchFields ++ Part.misuseFields ++ Part.laneFields ++ [Reg.PLK_PORT_CTL_TEST])
  | .lneTestInject _ => some (Part.latchFields ++ [Reg.LNE_PRBS_ERR])
  | .statusFrame _ _ => some (Part.latchFields ++ [Reg.MZE_DAMAGE_RP, Reg.PLK_RX_CRC, Reg.PLK_STATUS_RX])
  | .mgmtResponse _ _ => some (Part.latchFields ++ [Reg.PLK_RX_CRC])
  | .identityReplyTimeout _ _ => some Part.latchFields
  | .identityReread _ _ => some Part.latchFields
  | .creditBlock _ _ => some []
  | .upstreamFrame _ _ => some (Part.latchFields ++ [Reg.PLK_RX_CRC])
  | .modulePoll _ _ => some (Part.latchFields ++ Part.misuseFields ++ Part.laneFields ++ [Reg.LNE_ALIGN_LOSS, Reg.LNE_MOD_CMIS,
      Reg.LNE_MOD_LOS, Reg.LNE_MOD_PRESENT, Reg.LNE_MOD_RX_PWR, Reg.LNE_MOD_TEMP])
  | .i2cGo _ => some (Part.latchFields ++ [Reg.PLK_I2C_CMD_ADDR, Reg.PLK_I2C_CMD_BUS, Reg.PLK_I2C_CMD_READ, Reg.PLK_I2C_CMD_REG,
      Reg.PLK_I2C_CMD_SPEED, Reg.PLK_I2C_CMD_WDATA, Reg.PLK_I2C_STAT_BUSY])
  | .escRoutineStart _ _ _ => some []
  | .escRoutineExit _ _ _ => some (Part.latchFields ++ Part.misuseFields ++ [Reg.ESC_PARITY])
  | .escWaitTimeout _ _ _ => some (Part.latchFields ++ Part.misuseFields ++ [Reg.ESC_PARITY, Reg.ESC_TIMEOUTS])
  | .escSafePointExit _ _ _ => some (Part.latchFields ++ Part.misuseFields ++ [Reg.ESC_PARITY])
  | .stopLimitExpiry _ _ => some (Part.latchFields ++ Part.misuseFields ++ [Reg.ESC_TIMEOUTS])
  | .microwordParity _ _ => some (Part.latchFields ++ Part.misuseFields ++ [Reg.ESC_PARITY])
  | .escLoadGo _ => some (Part.latchFields ++ [Reg.ESC_LOAD_CTL_BUSY, Reg.ESC_LOAD_CTL_KIND])
  | .escLoadDone => some (Part.latchFields ++ Part.eccFields ++ [Reg.ESC_LOAD_CTL_BUSY, Reg.ESC_LOAD_CTL_RESULT])
  | .pgEnableClear _ => some (Part.latchFields ++ Part.misuseFields ++ Part.laneFields ++ [Reg.PG_CTRL_ENABLE])
  | .pgEnableSet _ => some (Part.latchFields ++ Part.misuseFields ++ Part.laneFields ++ [Reg.PG_CTRL_ENABLE])
  | .pgSoftReset _ => none
  | .pgSafeStop _ => some Part.latchFields
  | .bundleWriteGo _ => some (Part.latchFields ++ Part.eccFields ++ [Reg.RGL_BUNDLE_CTL_BUSY, Reg.RGL_BUNDLE_CTL_SLOT])
  | .bundleWriteDone _ => some (Part.latchFields ++ [Reg.RGL_BUNDLE_CTL_BUSY, Reg.RGL_BUNDLE_CTL_RESULT])
  | .watchdogRestart _ => some []
  | .watchdogHalf _ => some []
  | .watchdogExpire _ => some (Part.latchFields ++ [Reg.RGL_STATUS_STATE])
  | .rglReload _ => some (Part.latchFields ++ [Reg.RGL_STATUS_STATE])
  | .hostMbxPost _ => some (Part.latchFields ++ [Reg.RGL_MBX_POST_FULL])
  | .lMbxPost _ _ => some Part.latchFields
  | .lMbxPop _ => some []
  | .lRxqCiWrite _ _ => some Part.latchFields
  | .lTxqPiWrite _ _ => some Part.latchFields
  | .txEntrySend _ => some [Reg.RGL_TX_REJECT]
  | .frameOverrunStop _ _ _ => some Part.latchFields
  | .yield _ _ => some Part.latchFields
  | .mbxSend _ _ _ _ => some Part.latchFields
  | .mbxRecv _ _ => some []
  | .pool _ _ _ _ _ _ => some (Part.latchFields ++ Part.misuseFields ++ [Reg.BPM_STATUS_REBUILD])
  | .event _ _ _ _ => some Part.latchFields
  | .time _ _ => some []
  | .rxqTake _ _ => some []
  | .txqPost _ _ _ => some []
  | .publish _ _ _ _ => some []
  | .lookup _ _ _ => some []
  | .timer _ _ _ => some []
  | .timerExpire _ _ => some []
  | .descriptorFetch _ _ _ => some (Part.latchFields ++ Part.eccFields ++ [Reg.DMA_ERRORS])
  | .dmaCopy _ _ => some (Part.latchFields ++ Part.eccFields ++ [Reg.DMA_BYTES_KIB, Reg.DMA_ERRORS])
  | .dmaFill _ => some (Part.latchFields ++ [Reg.DMA_BYTES_KIB, Reg.DMA_ERRORS])
  | .dmaCompare _ _ _ => some (Part.latchFields ++ Part.eccFields ++ [Reg.DMA_ERRORS])
  | .dmaAccessResponse _ _ _ _ _ => some Part.latchFields
  | .dmaChainTimeout _ => some Part.latchFields
  | .dmaGo _ => some Part.latchFields
  | .dmaAbort _ => some Part.latchFields
  | .intSourceEdge _ _ _ => some Part.latchFields
  | .intTimerMatch _ => some []
  | .intSwset _ => some Part.latchFields
  | .lIntSwset _ _ => some []
  | .intPendClear _ _ _ => some Part.latchFields
  | .intEntry _ _ => some []
  | .intMret _ => some [Reg.INT_HOST_MSGS]
  | .intHoldSet _ => some (Part.latchFields ++ [Reg.INT_GLOBAL_HOLD, Reg.INT_GLOBAL_HOST_EN])
  | .intHoldClear _ => some (Part.latchFields ++ [Reg.INT_GLOBAL_HOLD, Reg.INT_GLOBAL_HOST_EN])
  | .intHclaimRead _ => some []
  | .intHclaimWrite _ _ => some Part.latchFields
  | .faultNPulseEnd => some []
  | .pgErrStickyW1c _ _ => some Part.latchFields
  | .pgErrEnableWrite _ _ => some (Part.latchFields ++ [Reg.PG_ERR_ENABLE])
  | .pgErrInjectWrite _ _ => some (Part.latchFields ++ [Reg.PG_ERR_INJECT_DOUBLE, Reg.PG_ERR_INJECT_SOURCE])
  | .testUnlockKey1 _ => some (Part.latchFields ++ [Reg.HST_LINK_STATUS_IDE_ACTIVE])
  | .testUnlockKey2 _ => some (Part.latchFields ++ [Reg.HST_LINK_STATUS_IDE_ACTIVE])
  | .testUnlockArmTimeout => some []
  | .jtagInstruction _ => some []
  | .patrolScrub _ _ _ => some (Part.latchFields ++ Part.eccFields)
  | .zeroChunk => some [Reg.MEM_STATUS_ZEROED]
  | .memFreqGo _ => some (Part.latchFields ++ [Reg.MEM_FREQ_CTL_TARGET, Reg.MEM_STATUS_FREQ_BUSY])
  | .memFreqDone => some (Part.latchFields ++ [Reg.MEM_STATUS_FREQ, Reg.MEM_STATUS_FREQ_BUSY])
  | .memErrlogClear => some (Part.latchFields ++ [Reg.MEM_ERRLOG_CTL_HEAD, Reg.MEM_ERRLOG_CTL_LOST, Reg.MEM_ERRLOG_CTL_VALID])
  | .memTimingWrite _ _ _ => some (Part.latchFields ++ [Reg.MEM_TIM_VALUE])
  | .kstXferGo _ => some (Part.latchFields ++ [Reg.KST_XFER_CTL_BUSY, Reg.KST_XFER_CTL_RESULT, Reg.KST_XFER_CTL_WRITE])
  | .kstXferDone => some (Part.latchFields ++ Part.eccFields ++ [Reg.KST_XFER_CTL_BUSY, Reg.KST_XFER_CTL_RESULT])
  | .pwrDomainOffReq _ => some Part.latchFields
  | .domainDrainDone _ => some Part.latchFields
  | .domainDrainTimeout _ => some Part.latchFields
  | .pwrDomainOnReq _ => some Part.latchFields
  | .domainWakeDone _ => some (Part.latchFields ++ Part.misuseFields ++ Part.laneFields ++ [Reg.RGL_STATUS_STATE])
  | .thermalSample _ => some (Part.latchFields ++ [Reg.MEM_STATUS_FREQ_BUSY, Reg.PWR_HOT_MS, Reg.PWR_TEMP_MAX,
      Reg.PWR_TEMP_SENSOR, Reg.PWR_THROTTLE_HOT, Reg.PWR_THROTTLE_WARN])
  | .smbusRead _ => some []
  | .registerWrite _ _ _ => none
  | .cxlMemAccess _ _ _ _ => some (Part.latchFields ++ Part.eccFields)
  | .lanePllUnlock _ => some Part.latchFields
  | .lanePllRelock _ => some (Part.latchFields ++ Part.misuseFields ++ Part.laneFields)
  | .i2cTransferDone _ _ => some [Reg.PLK_I2C_STAT_BUSY, Reg.PLK_I2C_STAT_NACK, Reg.PLK_I2C_STAT_RDATA]
  | .ccacheFlushDone => some [Reg.HST_CCACHE_STATUS_FLUSH_BUSY]
  | .complicationInitTimeout _ => some Part.latchFields

end Sys2Proof.Machine
end

