-- ==== Sys2Proof/Certificates/Slice0/Obligations.lean ====
section
/-! DEFINITION. The obligations: what the provers are asked to prove of the model. Each docstring is the statement in words; the rules
and files of spec/ that it rests on are listed in OBLIGATIONS.json. -/

set_option maxRecDepth 20000

open Sys2Proof Sys2Proof.Machine

/-- A step runs the command at the front of the queue on the state with the queue's rest; with an empty queue only time moves (log 3).
For every state whose queue is a command followed by a rest, the step is that command's effect on the state with the rest as its
queue. With an empty queue the step answers the same state one time unit later, which is the model's choice (log 3). (00_scope.md) -/
def Obligations.StepRunsTheFrontCommand : Prop :=
  ∀ s : State,
    (∀ (c : Instr) (rest : List Instr), s.pending = c :: rest → step s = exec c { s with pending := rest }) ∧
    (s.pending = [] → step s = .next { s with now := s.now + 1 })

/-- Every step keeps every byte memory of the block in its canonical form, keeps the fuse that makes the variant, and takes one
command. For every state whose memories (device DRAM, keeping store, on-die buffers, host memory as the block has written it,
shared SRAM, the regulators' own memories) are in canonical form, addresses strictly rising and no listed byte equal to what an
unlisted one reads as: whatever step answers next has them so too. It has the same variant, and its queue is the rest of the
queue. (19_memory_and_keeping_store.md, 02_host_attachment.md) -/
def Obligations.EveryStepKeepsTheMemoryForm : Prop :=
  ∀ s t : State, s.memOk = true → step s = .next t → t.memOk = true ∧ t.variant = s.variant ∧ t.pending = s.pending.tail

/-- The machine after reset: memories canonical, no command waiting, W0 not begun, and the registers at the values of their tables.
State.reset has its memories in canonical form, an empty queue and no job, stream, session or swap; PWR_WIND.STAGE is 0 and the
clocks are not stopped; ENABLE of every page, FLT_PIN.THRESH, FLT_PIN.C4_DARK, ESC_STOP_LIMIT, RGL_WDOG.MS, MEM_SCRUB.HOURS,
PWR_DRAIN_TIMEOUT, PWR_THERM.WARN and HOT and PG_ERR_ENABLE read the reset values that their register tables give.
(20_winding_clocks_power.md, 21_register_pages.md, R399, R403) -/
def Obligations.ResetIsCanonical : Prop :=
  State.reset.memOk = true ∧ State.reset.pending = [] ∧ State.reset.rng.jobs = [] ∧ State.reset.dec.streams = [] ∧
    State.reset.enc.sessions = [] ∧ State.reset.clb.swap = none ∧ State.reset.pwr.clocksStopped = false ∧
    State.reset.fld Reg.PWR_WIND_STAGE = 0 ∧ (∀ p, p < 4096 → State.reset.fld Reg.PG_CTRL_ENABLE p = 1) ∧
    (∀ p, p < 4096 → State.reset.fld Reg.PG_ERR_ENABLE p = 0xFFFFFFFF) ∧ (∀ p, p < 4096 → State.reset.sticky p = 0) ∧
    State.reset.fld Reg.FLT_PIN_THRESH = 2 ∧ State.reset.fld Reg.FLT_PIN_C4_DARK = 1 ∧ State.reset.fld Reg.ESC_STOP_LIMIT = 0x40 ∧
    State.reset.fld Reg.RGL_WDOG_MS 3 = 0x64 ∧ State.reset.fld Reg.MEM_SCRUB_HOURS = 0x18 ∧
    State.reset.fld Reg.PWR_DRAIN_TIMEOUT_US = 0x64 ∧ State.reset.fld Reg.PWR_THERM_WARN = 0x64 ∧ State.reset.fld Reg.PWR_THERM_HOT = 0x69

/-- Every command answers a next state and leaves the fuse and the queue; with the root PLL lost only power, reset and SCLK commands
act. Every command, whatever its operands, answers a next state of every state: no command faults or refuses. That state has the
same variant and the same waiting commands. While the clocks are stopped by a loss of the root PLL, no command has an effect but
those of power, PERST_N, rails, PLL, straps, temperature, SMBus and the scan port. A command whose conditions do not hold leaves
the state as it is; that is the model's choice (log 2). (00_scope.md, 20_winding_clocks_power.md, R3, R403) -/
def Obligations.EveryCommandCompletes : Prop :=
  ∀ (c : Instr) (s : State), Runs c s fun t => t.variant = s.variant ∧ t.pending = s.pending ∧
    (s.pwr.clocksStopped = true →
      (match c with
        | .jtagInstruction _ | .perstNAssert | .perstNRelease | .powerOn | .railOutOfRange | .rootPllLoss | .smbusRead _
        | .strapSample _ _ | .thermalSample _ | .windingW0 _ _ _ => True
        | _ => t = s))

/-- Power-on and PERST_N give the reset values and restart winding; release, straps, a bad rail and root PLL loss have R400 to R403's
effects. POWER_ON and PERST_N_ASSERT answer a next state from every state. After POWER_ON every part but the keeping store, the
host's memory, the clock of the model, the queue and the fuses is at its reset value, FUSE_SECVER is kept, and the stage in
progress is W0. After PERST_N_ASSERT every engine, the DRAM and the link state are at their reset values, every register field but
the C4 sticky bits, FUSE_SECVER and the winding cause holds its reset value, the cause is 1, and the C4 latch is kept. What
outside the block goes on is the model's choice (logs 5, 49). PERST_N_RELEASE makes PERST_N read released and changes no register
but BST_STATUS.RUNNING. STRAP_SAMPLE, from 1 ms after the last sample and outside W0, takes the straps over, ends the cap-write
session where CAP_WRITE_N is high and ends test unlock where TEST_MODE is low, and leaves BOOT_SEL alone. A rail out of range
after W0 sets sticky bit of PWR.rail. Loss of lock after W0 sets the sticky bit of CLK.root, clears CLK_STATUS.ROOT_LOCK and stops
every clock but SCLK. (20_winding_clocks_power.md, R9, R400, R408, 18_faults_and_self_test.md, R377, R401, R403, R178, R374) -/
def Obligations.ResetsPinsStrapsAndClockLoss : Prop :=
  (∀ s : State,
    Runs .powerOn s (fun t =>
      t = { State.reset with
            variant := s.variant, now := s.now, freeCtr := s.freeCtr, pending := s.pending, regs := t.regs,
            hst := { mem := s.hst.mem }, kst := { s.kst with xfer := none },
            pwr := { windStart := s.now, stageStart := s.now, lastSample := s.now } } ∧
      t.fld Reg.RGL_BOOT_FUSE_SECVER = s.fuseSec % 65536 ∧ t.fld Reg.PWR_WIND_STAGE = 0 ∧
      ∀ (f : Fld) (i : Nat), f.id < 1024 → f.id ≠ Reg.RGL_BOOT_FUSE_SECVER.id → t.fld f i = f.resetVal s.variant i) ∧
    Runs .perstNAssert s (fun t =>
      t = { State.reset with
            variant := s.variant, now := s.now, freeCtr := s.freeCtr, pending := s.pending, regs := t.regs,
            hst := { mem := s.hst.mem }, kst := { s.kst with xfer := none }, flt := t.flt,
            pwr := { windStart := s.now, stageStart := s.now, lastSample := s.now, clocksStopped := s.pwr.clocksStopped } } ∧
      t.flt.c4 = s.flt.c4 ∧ t.flt.promiseVoid = false ∧ t.flt.unlocked = false ∧
      t.fld Reg.RGL_BOOT_FUSE_SECVER = s.fuseSec % 65536 ∧ t.fld Reg.PWR_WIND_CAUSE = 1 ∧ t.fld Reg.PWR_WIND_STAGE = 0 ∧
      ∀ (f : Fld) (i : Nat), f.id < 1024 → f.id ≠ Reg.RGL_BOOT_FUSE_SECVER.id → f.id ≠ Reg.PG_ERR_STICKY.id →
        f.id ≠ Reg.PWR_WIND_CAUSE.id → t.fld f i = f.resetVal s.variant i)) ∧
  (∀ s : State,
    Runs .perstNRelease s (fun t => t.hst = { s.hst with perstN := true } ∧
      t = { s with hst := t.hst, regs := t.regs }) ∧
    (∀ (testMode capWriteN : Bool), s.fld Reg.PWR_WIND_STAGE ≠ 0 → s.pwr.lastSample + Clk.ms ≤ s.now →
      Runs (.strapSample testMode capWriteN) s fun t =>
        t.pwr = { s.pwr with testMode := testMode, capWriteN := capWriteN, lastSample := s.pwr.lastSample + Clk.ms } ∧
        t.fus.session = (s.fus.session && !capWriteN) ∧ t.flt.testHeld = (s.flt.testHeld && testMode) ∧
        t.flt.unlocked = (s.flt.unlocked && testMode)) ∧
    (s.fld Reg.PWR_WIND_STAGE ≠ 0 → Runs .railOutOfRange s fun t =>
      t = s.latch .pwrRail ∧ t.pwr = s.pwr ∧ t.hst.mem = s.hst.mem) ∧
    (s.fld Reg.PWR_WIND_STAGE ≠ 0 → s.pwr.clocksStopped = false → Runs .rootPllLoss s fun t =>
      t.fld Reg.CLK_STATUS_ROOT_LOCK = 0 ∧ t.pwr = { s.pwr with clocksStopped := true } ∧ t.dec = s.dec ∧ t.rng = s.rng))

/-- A self-test group leaves its result or its timeout; each winding stage records its duration, starts the next and has its effect.
In stage W1 with the clocks running, group g in progress and g the lowest of 0 to 5 as R377 orders them: SELF_TEST_GROUP with a
duration below twice the typical one counts the group as ended and records DONE 1, TIMEOUT 0, SKIPPED 0, the coverage (at most
1000) and the duration; PASS is 1 exactly where no element of the group is reported failing. SELF_TEST_TIMEOUT records PASS 0,
TIMEOUT 1 and twice the typical duration. The group is not the last one to end here, so W1 stays in progress. With the clocks
running and stage k in progress, the command that ends the stage answers a next state in which stage k + 1 is in progress (15
after W7) and PWR_STAGE_USk holds the stage's length in microseconds. W0 samples the straps, locks the root PLL and adds one to
the winding count; W2 makes the key-ladder outputs present; W5 empties the DRAM; W7 makes the pools ready and sets PROMISE_VOID
where a C4 latch is kept. (18_faults_and_self_test.md, R377, R379, 20_winding_clocks_power.md, R399, R381, R22) -/
def Obligations.WindingStagesAndSelfTests : Prop :=
  (∀ (s : State) (g coverage : Nat), s.pwr.clocksStopped = false → s.fld Reg.PWR_WIND_STAGE = 1 → s.groupRunning = g → g < 4 →
    s.pwr.tested.contains 5 = false →
    (∀ (durUs : Nat) (fail : BstFail), durUs < 2 * groupTypical g →
      Runs (.selfTestGroup g coverage durUs fail) s fun t =>
        t.pwr.tested.contains g = true ∧ t.fld Reg.BST_RESULT_DONE g = 1 ∧ t.fld Reg.BST_RESULT_TIMEOUT g = 0 ∧
        t.fld Reg.BST_RESULT_SKIPPED g = 0 ∧ t.fld Reg.BST_RESULT_COVERAGE g = min coverage 1000 ∧
        t.fld Reg.BST_DUR g = durUs ∧ t.fld Reg.PWR_WIND_STAGE = 1 ∧
        (t.fld Reg.BST_RESULT_PASS g = 1 ↔ groupFail s.variant g fail = ⟨false, 0, 0, 0, 0⟩)) ∧
    Runs (.selfTestTimeout g coverage) s fun t =>
      t.pwr.tested.contains g = true ∧ t.fld Reg.BST_RESULT_DONE g = 1 ∧ t.fld Reg.BST_RESULT_PASS g = 0 ∧
      t.fld Reg.BST_RESULT_TIMEOUT g = 1 ∧ t.fld Reg.BST_RESULT_COVERAGE g = min coverage 1000 ∧
      t.fld Reg.BST_DUR g = 2 * groupTypical g ∧ t.fld Reg.PWR_WIND_STAGE = 1) ∧
  (∀ s : State, s.pwr.clocksStopped = false →
    (∀ (testMode capWriteN : Bool) (bootSel : Nat), s.fld Reg.PWR_WIND_STAGE = 0 →
      Runs (.windingW0 testMode capWriteN bootSel) s fun t =>
        t.fld Reg.PWR_WIND_STAGE = 1 ∧ stageUs s 0 t ∧ t.fld Reg.CLK_STATUS_ROOT_LOCK = 1 ∧ t.pwr.testMode = testMode ∧
        t.pwr.capWriteN = capWriteN ∧ t.pwr.bootSel = bootSel % 4 ∧ t.kst.windings = (s.kst.windings + 1) % 4294967296 ∧
        t.fus.session = !capWriteN ∧ t.flt.testHeld = testMode ∧ t.pwr.stageStart = s.now) ∧
    (s.fld Reg.PWR_WIND_STAGE = 2 → Runs .windingW2 s fun t =>
      t.fld Reg.PWR_WIND_STAGE = 3 ∧ stageUs s 2 t ∧ t.hst.keysPresent = true) ∧
    (s.fld Reg.PWR_WIND_STAGE = 3 → Runs .windingW3 s fun t => t.fld Reg.PWR_WIND_STAGE = 4) ∧
    (s.fld Reg.PWR_WIND_STAGE = 4 → Runs .windingW4 s fun t => t.fld Reg.PWR_WIND_STAGE = 5) ∧
    (∀ (chans : List ChanTrain) (timing : List Nat), s.fld Reg.PWR_WIND_STAGE = 5 →
      Runs (.windingW5 chans timing) s fun t =>
        t.fld Reg.PWR_WIND_STAGE = 6 ∧ t.mem.dram = [] ∧ t.mem.poison = [] ∧ t.mem.zeroNext = 0 ∧
        t.fld Reg.MEM_STATUS_ZEROED = 0 ∧ t.fld Reg.MEM_STATUS_FREQ = 0) ∧
    (s.fld Reg.PWR_WIND_STAGE = 6 → Runs .windingW6 s fun t => t.fld Reg.PWR_WIND_STAGE = 7) ∧
    (s.fld Reg.PWR_WIND_STAGE = 7 → Runs .windingW7 s fun t =>
      t.fld Reg.PWR_WIND_STAGE = 15 ∧ t.fld Reg.BPM_STATUS_ODIE_READY = 1 ∧ t.fld Reg.BPM_STATUS_DPOOL_READY = 1 ∧
      t.clb.lastMark = s.now ∧ t.flt.promiseVoid = (s.flt.promiseVoid || s.flt.c4) ∧ t.flt.c4 = s.flt.c4))

/-- The host link enters L0 with its mode fixed, changes speed, goes down, and turns away early and bad accesses. With the clocks
running: the first L0 since PERST_N was released (PHY released, link down, speed 1 to 6, lanes 1, 2, 4, 8 or 16 that self-test
left) brings the link up and fixes MODE, SPEED and WIDTH; a retrain that qualifies changes only SPEED and WIDTH; a link loss takes
the link down, keeps the clean lines of the ring line cache and latches HST.linkdown; a configuration request gets Configuration
RRS exactly before W7; a bad BAR0 or BAR2 access from a host that reaches the BARs latches HST.access, and a read answers zeros. A
host access changes no DRAM, no ring and no keeping store memory here. (02_host_attachment.md, R28, R29, R30, R49, R50, R33) -/
def Obligations.HostLinkStates : Prop :=
  ∀ s : State, s.pwr.clocksStopped = false →
    (∀ (hostMode speed width : Nat) (flit256 cacheEn memEn : Bool), s.hst.phyReleased = true → s.hst.perstN = true →
      s.hst.linkUp = false → s.hst.modeFixed = false → linkShape speed width = true → width ≤ s.hostLanes →
      1 ≤ hostMode → hostMode ≤ 5 →
      Runs (.linkTrained hostMode speed width flit256 cacheEn memEn) s fun t =>
        t.hst = { s.hst with linkUp := true, modeFixed := true } ∧
        t.fld Reg.HST_LINK_STATUS_MODE = linkMode hostMode speed width ∧ t.fld Reg.HST_LINK_STATUS_SPEED = speed ∧
        t.fld Reg.HST_LINK_STATUS_WIDTH = width ∧ t = { s with hst := t.hst, regs := t.regs }) ∧
    (∀ speed width : Nat, s.hst.linkUp = true → linkShape speed width = true → width ≤ s.hostLanes →
      (cxlShape speed width = true ∨ 3 < s.fld Reg.HST_LINK_STATUS_MODE) →
      Runs (.linkRetrain speed width) s fun t =>
        t.fld Reg.HST_LINK_STATUS_SPEED = speed ∧ t.fld Reg.HST_LINK_STATUS_WIDTH = width ∧
        t.fld Reg.HST_LINK_STATUS_MODE = s.fld Reg.HST_LINK_STATUS_MODE ∧ t = { s with regs := t.regs }) ∧
    (s.hst.linkUp = true → Runs .linkDown s fun t =>
      t.hst = { s.hst with linkUp := false, ccache := s.hst.ccache.filter (fun e => !e.2.dirty), msix := t.hst.msix } ∧
      t.latched .hstLinkdown = true ∧ t.mem = s.mem ∧ t.rng = s.rng ∧ t.dec = s.dec) ∧
    Runs (.configRequestEarly true) s (fun t => t = { s with hst := { s.hst with lastRrs := some !s.wound } }) ∧
    (∀ (write : Bool) (bar offset : Nat), (bar = 0 ∨ bar = 2) → s.hostReaches = true →
      Runs (.hostBadAccess write bar offset) s fun t =>
        t.latched .hstAccess = true ∧ t.rng = s.rng ∧ t.mem = s.mem ∧
        (write = false → t.hst.lastRead = some (List.replicate 8 0, false)))

/-- The host's accesses to device memory, and the answer to a back-invalidate snoop, read and write the bytes named. With the clocks
running: a BAR4 write of one whole aligned line within the usable capacity stores its bytes there, and one that reaches beyond
latches HST.window and stores nothing; a CXL.mem write of one line that a committed decoder exposes stores its 64 bytes, or waits
behind a device write of that line that waits for its snoop; a back-invalidate response makes the oldest device write that waits
for the line; a host write to a cached line removes it from the ring line cache alone. Every byte outside the stored ones reads as
before. (02_host_attachment.md, 19_memory_and_keeping_store.md, R35, R37, R38, R384, R39) -/
def Obligations.HostMemoryAccesses : Prop :=
  ∀ s : State, s.pwr.clocksStopped = false → s.mem.dram.wf = true →
    (∀ (offset : Nat) (data : Bytes), s.hostReaches = true → 4 ≤ s.fld Reg.HST_LINK_STATUS_MODE → data.length = 64 →
      offset % 64 = 0 → offset + 64 ≤ 68719476736 →
      (s.bar4Addr offset + 64 ≤ s.usable → s.dramOk 0 1 = true →
        Runs (.bar4Access true offset 0 data .clean) s fun t => Stored s t (s.bar4Addr offset) data ∧ t.hst = s.hst) ∧
      (s.usable ≤ s.bar4Addr offset →
        Runs (.bar4Access true offset 0 data .clean) s fun t => t.latched .hstWindow = true ∧ t.mem = s.mem)) ∧
    (∀ (line : Nat) (data : Bytes) (d : HdmDec), s.hostReaches = true → 1 ≤ s.fld Reg.HST_LINK_STATUS_MODE →
      s.fld Reg.HST_LINK_STATUS_MODE ≤ 3 → s.flag Reg.HST_LINK_STATUS_MEM_EN = true → s.hst.ideInsecure = false →
      s.decoderOf (line * 64) = some d → data.length = 64 →
      (s.biWaits line = false → s.dramOk (line * 64) 64 = true → Runs (.cxlMemAccess true (line * 64) data .clean) s fun t =>
        Stored s t (line * 64) data ∧ t.hst = s.hst) ∧
      (s.biWaits line = true → Runs (.cxlMemAccess true (line * 64) data .clean) s fun t =>
        t = { s with hst := { s.hst with hostWait := s.hst.hostWait ++ [⟨true, line, data, .clean⟩] } })) ∧
    (∀ (w : BiWrite) (rest : List BiWrite), s.hst.biWait = w :: rest → s.hst.hostWait = [] → s.hst.ideInsecure = false →
      Runs (.biSnoopResponse w.line) s fun t =>
        t.hst = { s.hst with biWait := rest } ∧ Stored s t (w.line * 64 + w.offset) w.data ∧
        t = { s with hst := t.hst, mem := t.mem, pool := t.pool }) ∧
    (∀ line : Nat, s.cacheFlows = true → Runs (.hostLineSnoop line) s fun t =>
      Tab.has t.hst.ccache line = false ∧ (∀ l, l ≠ line → Tab.get {} t.hst.ccache l = Tab.get {} s.hst.ccache l) ∧
      t = { s with hst := { s.hst with ccache := t.hst.ccache, mem := t.hst.mem, lastReq := t.hst.lastReq } })

/-- The host registers take a write as their rules say: windows, carve-out, decoders, line cache, tenants, groups, MSI-X. With the
clocks running, a register write of the host that reaches the page and sets no reserved bit: HST_WIN_BASE takes the low four bits;
HOST_SIZE changes only while no HDM decoder is committed, and otherwise latches HST.busy; a decoder commits over part of the
host-visible region; a FLUSH sets FLUSH_BUSY and its end leaves the line cache empty; a tenant whose offer shares ABI level 2 or 1
becomes valid with the highest one, one whose offer shares none stays invalid, and a write with VALID 0 makes it invalid; a
doorbell group without an enabled ring takes its owner; an unmasked vector whose PBA bit is set sends its message unless the
function mask holds it, and the function mask takes its value. (02_host_attachment.md, R36, R37, R31, R41, R44, R45, R46) -/
def Obligations.HostRegisters : Prop :=
  ∀ s : State, s.pwr.clocksStopped = false →
    (s.hostPageOpen Blk.hst 0 = true →
      (∀ (a : Nat) (v : Word), a < 4 → rsvBits v 0xF = 0 → Runs (.winBaseWrite a v) s fun t =>
        t.fld Reg.HST_WIN_BASE_BASE a = v.toNat ∧ t = { s with regs := t.regs } ∧
        ∀ b, b ≠ a → t.fld Reg.HST_WIN_BASE_BASE b = s.fld Reg.HST_WIN_BASE_BASE b) ∧
      (∀ v : Word, rsvBits v 0xFFF = 0 →
        (s.hst.hdm = [] → Runs (.hostSizeWrite v) s fun t =>
          t.fld Reg.HST_HDM_CARVE_HOST_SIZE = v.toNat ∧ t = { s with regs := t.regs }) ∧
        (s.hst.hdm ≠ [] → Runs (.hostSizeWrite v) s fun t =>
          t.latched .hstBusy = true ∧ t.fld Reg.HST_HDM_CARVE_HOST_SIZE = s.fld Reg.HST_HDM_CARVE_HOST_SIZE)) ∧
      (∀ v : Word, bit v.toNat 1 = true → rsvBits v 3 = 0 → Runs (.ccacheFlush v) s fun t =>
        t.fld Reg.HST_CCACHE_STATUS_FLUSH_BUSY = 1 ∧ t.hst = { s.hst with flushing := true } ∧
        t.fld Reg.HST_CCACHE_CTL_ENABLE = v.toNat % 2) ∧
      (∀ (n : Nat) (v : Word), n < 64 → bit v.toNat 31 = true → rsvBits v 0x871FFFFF = 0 →
        s.flag Reg.HST_TENANT_VALID n = false → Runs (.tenantEnable n v) s fun t =>
          t.fld Reg.HST_TENANT_ABI n = (if bit (s.fld Reg.HST_TENANT_ABI_OFFER n) 2 then 2
            else if bit (s.fld Reg.HST_TENANT_ABI_OFFER n) 1 then 1 else 0) ∧
          (t.fld Reg.HST_TENANT_VALID n = 1 ↔
            bit (s.fld Reg.HST_TENANT_ABI_OFFER n) 1 = true ∨ bit (s.fld Reg.HST_TENANT_ABI_OFFER n) 2 = true) ∧
          t.fld Reg.HST_TENANT_PASID n = v.toNat % 1048576) ∧
      (∀ (n : Nat) (v : Word), n < 64 → bit v.toNat 31 = false → rsvBits v 0x871FFFFF = 0 → Runs (.tenantDisable n v) s fun t =>
        t.fld Reg.HST_TENANT_VALID n = 0 ∧ t.fld Reg.HST_TENANT_ABI n = s.fld Reg.HST_TENANT_ABI n) ∧
      (∀ g tenant : Nat, g < s.variant.groups → g % 4 = 3 → tenant < 64 →
        (List.range 32).any (fun i => (s.ring (32 * g + i)).enable) = false →
        s.fld Reg.HST_DBGRP_OWNER_VALID g = 0 → s.fld Reg.HST_DBGRP_OWNER_TENANT g = 0 →
        Runs (.dbgrpOwnerWrite (g / 4) (BitVec.ofNat 32 (16777216 * (128 + tenant)))) s fun t =>
          t.fld Reg.HST_DBGRP_OWNER_VALID g = 1 ∧ t.fld Reg.HST_DBGRP_OWNER_TENANT g = tenant)) ∧
    (∀ (d first size : Nat) (biEnable : Bool), d < 2 → s.hostReaches = true → 1 ≤ s.fld Reg.HST_LINK_STATUS_MODE →
      s.fld Reg.HST_LINK_STATUS_MODE ≤ 3 → first + size ≤ s.fld Reg.HST_HDM_CARVE_HOST_SIZE →
      Runs (.hdmDecoderCommit ⟨d, first, size⟩ biEnable) s fun t =>
        Tab.has t.hst.hdm d = true ∧
        Tab.get ⟨false, 0, 0⟩ t.hst.hdm d = ⟨biEnable && s.fld Reg.HST_LINK_STATUS_MODE == 1, first, size⟩ ∧
        t.fld Reg.HST_LINK_STATUS_HDM_DB = b2n t.hdmDb) ∧
    (s.hst.flushing = true → Runs .ccacheFlushDone s fun t =>
      t.hst.flushing = false ∧ t.hst.ccache = [] ∧ t.fld Reg.HST_CCACHE_STATUS_FLUSH_BUSY = 0 ∧
      t = { s with hst := t.hst, regs := t.regs }) ∧
    (s.hostReaches = true →
      (∀ v : Nat, v < 2048 → Runs (.msixUnmask (.vector v)) s fun t =>
        (t.vec v).masked = false ∧ (t.vec v).pba = ((s.vec v).pba && s.hst.fnMasked) ∧
        (t.vec v).sent = (s.vec v).sent + (if (s.vec v).pba && !s.hst.fnMasked then 1 else 0)) ∧
      (∀ m : Bool, Runs (.msixUnmask (.function m)) s fun t => t.hst.fnMasked = m))

/-- IDE failure, SPDM, certificate slot 1, an address translation failure and a function reset have their effects. With the clocks
running and winding over: a failed IDE check ends the IDE stream, makes the link insecure and latches HST.ide; an SPDM request
that needs a key that is absent is answered with ERROR, and one for version, capabilities, algorithms or digests without;
SET_CERTIFICATE over a secured session writes slot 1 once in a winding and is refused after that; a translation failure of a
ring's entry stops that ring and latches HST.xlat; a function reset leaves no ring, meter, DMA channel, MSI-X vector or cached
line, and turns host interrupts off. What stands in an answer beyond R47 and Table 2.6 is the model's choice (log 51).
(02_host_attachment.md, 20_winding_clocks_power.md, R42, R47, R48, R375, R409) -/
def Obligations.HostSecurityAndFunctionReset : Prop :=
  ∀ s : State, s.pwr.clocksStopped = false → s.wound = true →
    (s.flag Reg.HST_LINK_STATUS_IDE_ACTIVE = true → Runs .ideCheckFail s fun t =>
      t.fld Reg.HST_LINK_STATUS_IDE_ACTIVE = 0 ∧ t.hst.ideInsecure = true ∧ t.latched .hstIde = true ∧ t.rng = s.rng ∧
      t.mem = s.mem) ∧
    (s.hst.linkUp = true →
      (∀ (code : Nat) (secured : Bool) (data : Bytes), s.hst.keysPresent = false → spdmKeyed code data = true →
        Runs (.spdmRequest code ⟨secured, data⟩) s fun t =>
          t = { s with hst := { s.hst with spdmLast := some ⟨code, true, []⟩ } }) ∧
      (∀ (code : Nat) (data : Bytes), code ∈ [0x84, 0xE1, 0xE3, 0x81] → Runs (.spdmRequest code ⟨false, data⟩) s fun t =>
        t = { s with hst := { s.hst with spdmLast := t.hst.spdmLast } } ∧
        t.hst.spdmLast.map (fun a => (a.code, a.error)) = some (code, false)) ∧
      (∀ chain : Bytes, s.hst.keysPresent = true → s.hst.spdmSession = true →
        (s.hst.slot1Written = false → Runs (.setCertificate 1 true chain) s fun t =>
          t.hst = { s.hst with slot1 := chain, slot1Written := true, spdmLast := some ⟨0xEE, false, []⟩ }) ∧
        (s.hst.slot1Written = true → Runs (.setCertificate 1 true chain) s fun t =>
          t.hst = { s.hst with spdmLast := some ⟨0xEE, true, []⟩ }))) ∧
    Runs .flr s (fun t =>
      t.rng.rings = [] ∧ t.rng.meters = [] ∧ t.rng.query = none ∧ t.dma = {} ∧ t.hst.msix = [] ∧ t.hst.ccache = [] ∧
      t.fld Reg.INT_GLOBAL_HOST_EN = 0) ∧
    (∀ ring index : Nat, ring < s.variant.rings → Runs (.addressTranslationFail ring index) s fun t =>
      (t.ring ring).stopped = true ∧ t.latched .hstXlat = true ∧
      ∀ j, s.jobAt ring index = some j → Tab.has t.rng.jobs j = false)

/-- A doorbell moves PI of a command ring and CI of a device-produced ring with their counts; a foreign one is rejected. With the
clocks running, winding over, the link up and no error armed for the ring's duplicate indices. On an enabled command ring of the
writer's own tenant a new producer index that is ahead of the old one and fits the ring moves RNG_PI and adds the items to
RNG_COUNT and to what was produced. On a device-produced ring a new consumer index within RNG_COUNT moves RNG_CI, takes the items
off and counts them as consumed; one past it consumes what there is, counts in OVERRUN_CI and latches RNG.index. A doorbell of a
group without a valid owner changes no ring, counts in HST_DB_REJECT, which saturates, and latches HST.tenancy. No other ring
changes. (03_rings_and_jobs.md, 02_host_attachment.md, R34, R53, R56, R440) -/
def Obligations.DoorbellsMoveIndexes : Prop :=
  ∀ (s : State) (r : Nat) (v : Word), s.pwr.clocksStopped = false → s.hostReaches = true →
    (s.takeInject .rngPtr (r / 32)).isNone = true →
    (∀ entries : List Bytes, s.doorbellOk r = true → (s.ring r).enable = true → (s.ring r).halted = false →
      (s.ring r).stopped = false → (s.ring r).cls = 1 →
      (s.ring r).pi < 4294967296 → (s.ring r).ci < 4294967296 → (s.ring r).lost < 18446744073709551616 →
      (v.toNat + 4294967296 - (s.ring r).pi) % 4294967296 < 2147483648 →
      (v.toNat + 4294967296 - (s.ring r).ci) % 4294967296 ≤ (s.ring r).size →
      Runs (.rngDbPi r v entries) s fun t =>
        t = s.setRing r { s.ring r with
          pi := v.toNat
          count := (s.ring r).count + (v.toNat + 4294967296 - (s.ring r).pi) % 4294967296
          produced := ((s.ring r).produced + (v.toNat + 4294967296 - (s.ring r).pi) % 4294967296) % 18446744073709551616 }) ∧
    (s.doorbellOk r = true → (s.ring r).enable = true → (s.ring r).halted = false → (s.ring r).deviceProduced = true →
      (s.ring r).ci < 4294967296 →
      ((v.toNat + 4294967296 - (s.ring r).ci) % 4294967296 ≤ (s.ring r).count →
        Runs (.rngDbCi r v) s fun t =>
          (t.ring r).ci = v.toNat ∧
          (t.ring r).count = (s.ring r).count - (v.toNat + 4294967296 - (s.ring r).ci) % 4294967296 ∧
          (t.ring r).consumed =
            ((s.ring r).consumed + (v.toNat + 4294967296 - (s.ring r).ci) % 4294967296) % 18446744073709551616 ∧
          (t.ring r).pi = (s.ring r).pi ∧ (t.ring r).lost = (s.ring r).lost ∧ t = s.setRing r (t.ring r)) ∧
      ((s.ring r).count < (v.toNat + 4294967296 - (s.ring r).ci) % 4294967296 →
        (v.toNat + 4294967296 - (s.ring r).ci) % 4294967296 < 2147483648 → r < 8192 →
        Runs (.rngDbCi r v) s fun t =>
          (t.ring r).count = 0 ∧ (t.ring r).ci = ((s.ring r).ci + (s.ring r).count) % 4294967296 ∧
          (t.ring r).overrunCi = min ((s.ring r).overrunCi + 1) 255 ∧ t.latched .rngIndex (r / 32) = true)) ∧
    (s.doorbellOk r = false → Runs (.rngDbCi r v) s fun t =>
      t.rng = s.rng ∧ t.fld Reg.HST_DB_REJECT = min (s.fld Reg.HST_DB_REJECT + 1) 4294967295 ∧ t.latched .hstTenancy = true)

/-- A ring's registers change only while it is disabled; enabling starts it empty, disabling counts what it held as lost. With the
clocks running, a ring of the variant, its page open to register writes and reserved bits 0. RNG_LINK and RNG_EVQ of a disabled
ring take their fields. A write of RNG_CFG with ENABLE 1 to a disabled ring, a class below 7, a size of 6 to 20 and the checks of
R65 met enables it with PI, CI, COUNT, PEND and the error state cleared. A write with ENABLE 0 and the other fields unchanged to
an enabled ring disables it, and where it holds no packet records its occupied items are counted as lost. A descriptor write to an
enabled ring changes no ring and latches RNG.cfg. (03_rings_and_jobs.md, R65, R66) -/
def Obligations.RingControl : Prop :=
  ∀ (s : State) (r : Nat) (v : Word), s.pwr.clocksStopped = false → r < s.variant.rings →
    s.pageOpen Blk.rng (r / 32) = true →
    ((s.ring r).enable = false → rsvBits v 0x8FFF1FFF = 0 → Runs (.ringCfgWrite r 3 v) s fun t =>
      t = s.setRing r { s.ring r with link := v.toNat % 8192, meter := v.toNat / 65536 % 4096, meterEn := bit v.toNat 31 }) ∧
    ((s.ring r).enable = false → rsvBits v 0x80001FFF = 0 → Runs (.ringCfgWrite r 4 v) s fun t =>
      t = s.setRing r { s.ring r with evqRing := v.toNat % 8192, evqEn := bit v.toNat 31 }) ∧
    ((s.ring r).enable = false → rsvBits v 0xFFFFF000 = 0 → Runs (.ringCfgWrite r 0 v) s fun t =>
      t = s.setRing r { s.ring r with base := (s.ring r).base / 4294967296 * 4294967296 + v.toNat }) ∧
    ((s.ring r).enable = false → Runs (.ringCfgWrite r 1 v) s fun t =>
      t = s.setRing r { s.ring r with base := v.toNat * 4294967296 + (s.ring r).base % 4294967296 }) ∧
    (∀ reg : Nat, reg < 5 → reg ≠ 2 → (s.ring r).enable = true → Runs (.ringCfgWrite r reg v) s fun t =>
      t.rng = s.rng ∧ t.latched .rngCfg (r / 32) = true) ∧
    ((s.ring r).enable = false → rsvBits v 0xFF7 = 0 → bit v.toNat 11 = true → v.toNat % 8 ≠ 7 → 6 ≤ v.toNat / 16 % 32 → v.toNat / 16 % 32 ≤ 20 →
      s.enableOk r { s.ring r with cls := v.toNat % 8, sizeLog2 := v.toNat / 16 % 32, memspace := bit v.toNat 9,
                                   coherent := bit v.toNat 10 } = true →
      Runs (.ringEnable r v) s fun t =>
        t = s.setRing r { s.ring r with
          cls := v.toNat % 8, sizeLog2 := v.toNat / 16 % 32, memspace := bit v.toNat 9, coherent := bit v.toNat 10,
          enable := true, pi := 0, ci := 0, count := 0, pend := 0, unread := 0, halted := false, stopped := false,
          devPkts := [] }) ∧
    ((s.ring r).enable = true → rsvBits v 0xFF7 = 0 → bit v.toNat 11 = false → v.toNat % 8 = (s.ring r).cls → v.toNat % 8 ≠ 7 →
      v.toNat / 16 % 32 = (s.ring r).sizeLog2 → 6 ≤ (s.ring r).sizeLog2 → (s.ring r).sizeLog2 ≤ 20 →
      bit v.toNat 9 = (s.ring r).memspace → bit v.toNat 10 = (s.ring r).coherent → (s.ring r).pkts = [] →
      Runs (.ringDisable r v) s fun t =>
        (t.ring r).enable = false ∧ (t.ring r).count = 0 ∧ (t.ring r).pend = 0 ∧
        (t.ring r).lost = ((s.ring r).lost + (s.ring r).count) % 18446744073709551616 ∧
        (t.ring r).cls = (s.ring r).cls ∧ t.mem = s.mem)

/-- A fetched command becomes a job or a refused completion; a fence opens; NOP and QUERY end; a record is written with its phase bit.
With the clocks running. A COMMAND_FETCH of a command ring that holds an entry (in device memory, in the line cache, or the
operand's) takes it off the ring; an entry that no case of R70 refuses becomes a job in flight that carries its opcode, tag and
entry and has not started; a refused one leaves the jobs in flight as they were. FENCED_COMMAND_START clears the wait of a job
whose fence is met and changes nothing else. NOP and QUERY, once they may start, end: the job is no longer in flight, and no other
job is touched. Where a NOP job that is not SILENT may start, its ring's LINK names a completion ring in host memory that takes a
record and has room for one more, no error is armed for its duplicate indices, and a coherent ring finds no dirty line in the line
cache: NOP answers the state in which the 32 bytes of Table 3.5, with status OK, the job's tag, ring and index and the ring's
phase bit, stand in host memory at the record's place, RNG_PI and RNG_COUNT of the completion ring have gone up by one, and every
byte of host memory outside the record reads as before. (03_rings_and_jobs.md, R54, R68, R69, R70, R12, R58, Table 3.5) -/
def Obligations.CommandsJobsAndCompletions : Prop :=
  (∀ s : State, s.pwr.clocksStopped = false →
    (∀ (r : Nat) (entry : Bytes), (s.ring r).enable = true → (s.ring r).halted = false → (s.ring r).stopped = false →
      (s.ring r).cls = 1 → (s.ring r).count ≠ 0 → r < s.variant.rings →
      s.pageEnabled Blk.rng (r / 32) = true → s.entriesHeld (s.ring r) = false →
      (s.takeInject .rngPtr (r / 32)).isNone = true →
      (s.rejection r (s.entryAt r (s.ring r).ci entry).1 = 0 → Runs (.commandFetch r entry) s fun t =>
        let e := (s.entryAt r (s.ring r).ci entry).1
        let j := s.newJob r (s.ring r).ci
        Tab.has t.rng.jobs j = true ∧ (t.job j).ring = r ∧ (t.job j).index = (s.ring r).ci ∧
        (t.job j).opcode = field e 0 1 ∧ (t.job j).tag = field e 2 2 % 1024 ∧ (t.job j).args = e ∧
        (t.job j).started = false ∧ (∀ k, k ≠ j → t.job k = s.job k) ∧
        (t.ring r).count = (s.ring r).count - 1 ∧ (t.ring r).ci = ((s.ring r).ci + 1) % 4294967296) ∧
      (s.rejection r (s.entryAt r (s.ring r).ci entry).1 ≠ 0 → Runs (.commandFetch r entry) s fun t =>
        t.rng.jobs = s.rng.jobs ∧ (t.ring r).count = (s.ring r).count - 1 ∧
        (t.ring r).ci = ((s.ring r).ci + 1) % 4294967296)) ∧
    (∀ j : Nat, Tab.has s.rng.jobs j = true → (s.job j).waits = true → s.waitOver j = true →
      Runs (.fencedCommandStart j) s fun t =>
        (t.job j).waits = false ∧ t = { s with rng := { s.rng with jobs := Tab.set s.rng.jobs j (t.job j) } }) ∧
    (∀ j : Nat, s.canStart j 0x7F = true → Runs (.nop j) s fun t =>
      Tab.has t.rng.jobs j = false ∧ (∀ k, k ≠ j → t.job k = s.job k) ∧ t.dec = s.dec ∧ t.clb = s.clb) ∧
    (∀ j : Nat, s.canStart j 0x60 = true → Runs (.query j) s fun t =>
      Tab.has t.rng.jobs j = false ∧ (∀ k, k ≠ j → t.job k = s.job k) ∧ t.dec = s.dec ∧ t.clb = s.clb)) ∧
  (∀ (s : State) (j : Nat), s.pwr.clocksStopped = false → s.canStart j 0x7F = true → (s.job j).silent = false →
    (s.ring (s.job j).ring).link < s.variant.rings → (s.ring (s.ring (s.job j).ring).link).cls = 2 →
    s.ringBlocked (s.ring (s.ring (s.job j).ring).link) = false →
    (s.takeInject .rngPtr ((s.ring (s.job j).ring).link / 32)).isNone = true →
    (s.ring (s.ring (s.job j).ring).link).memspace = false → s.hst.mem.wf = true →
    (s.coherent (s.ring (s.ring (s.job j).ring).link) = true → ∀ e ∈ s.hst.ccache, e.2.dirty = false) →
    (s.ring (s.ring (s.job j).ring).link).count + 1 ≤ (s.ring (s.ring (s.job j).ring).link).size →
    Runs (.nop j) s fun t =>
      let x := s.job j
      let l := (s.ring x.ring).link
      let c := s.ring l
      let a := c.itemAddr c.pi
      t.hst.mem = s.hst.mem.writeBytes a
        (completionBytes x.tag St.ok 0 0 0 (if x.abi = 2 then s.frameCount else 0) 0 x.ring x.index (c.phase c.pi)) ∧
      (t.ring l).pi = (c.pi + 1) % 4294967296 ∧ (t.ring l).count = c.count + 1 ∧
      (∀ b, b < a ∨ a + 32 ≤ b → t.hst.mem.read b = s.hst.mem.read b) ∧ t.mem = s.mem)

/-- Enabling a meter fills its buckets, a rate write clips levels, and a synchronous query runs from request to read. With the clocks
running, the page written open to register writes and reserved bits 0. ENABLE from 0 to 1 of a meter of the variant fills every
bucket to its size; a write of MTR_CIR sets the rate, and one of MTR_CBS sets the size and clips the level to it. A write of
SYS_QUERY_CTL while no query runs starts one and clears the result; while one runs it is only counted in IGNORED. When the result
is ready VALID is 1, SEQ has gone up by one and the data hold the answer; a read of a valid result counts in READS, up to 3.
(03_rings_and_jobs.md, R73, R74, R75) -/
def Obligations.MetersAndSynchronousQuery : Prop :=
  ∀ s : State, s.pwr.clocksStopped = false →
    (∀ (m : Nat) (v : Word), m < s.variant.meters → s.pageOpen Blk.mtr (m / 32) = true → rsvBits v 3 = 0 → bit v.toNat 0 = true → (s.meter m).enable = false →
      Runs (.mtrEnable m v) s fun t =>
        (t.meter m).enable = true ∧ (t.meter m).mode = v.toNat / 2 % 2 ∧ (t.meter m).tc = (s.meter m).cbs * 6400000 ∧
        (t.meter m).tp = (s.meter m).pebs * 6400000 ∧ (t.meter m).te = (s.meter m).pebs * 6400000 ∧
        t = s.setMeter m (t.meter m)) ∧
    (∀ (m : Nat) (v : Word), m < s.variant.meters → s.pageOpen Blk.mtr (m / 32) = true → rsvBits v 0xFFFFFF = 0 →
      (s.meter m).enable = false →
      (Runs (.mtrRateWrite m 1 v) s fun t => t = s.setMeter m { s.meter m with cir := v.toNat % 16777216 }) ∧
      (Runs (.mtrRateWrite m 3 v) s fun t =>
        t = s.setMeter m { s.meter m with cbs := v.toNat % 16777216,
                                          tc := min (s.meter m).tc (v.toNat % 16777216 * 6400000) })) ∧
    (∀ v : Word, s.pageOpen Blk.sys 0 = true →
      (s.rng.query = none → Runs (.sysQueryCtl v) s fun t =>
        t.rng = { s.rng with query := some (v.toNat % 256, v.toNat / 256 % 16777216) } ∧
        t.fld Reg.SYS_QUERY_RESULT_VALID = 0 ∧ t.fld Reg.SYS_QUERY_RESULT_READS = 0 ∧ t.fld Reg.SYS_QUERY_DATA 3 = 0) ∧
      (s.rng.query ≠ none → Runs (.sysQueryCtl v) s fun t =>
        t.rng = s.rng ∧ t.fld Reg.SYS_QUERY_RESULT_IGNORED = min (s.fld Reg.SYS_QUERY_RESULT_IGNORED + 1) 15)) ∧
    (∀ sel arg : Nat, s.rng.query = some (sel, arg) → Runs .queryResultReady s fun t =>
      t.rng.query = none ∧ t.fld Reg.SYS_QUERY_RESULT_VALID = 1 ∧
      t.fld Reg.SYS_QUERY_RESULT_SEQ = (s.fld Reg.SYS_QUERY_RESULT_SEQ + 1) % 256 ∧
      t.fld Reg.SYS_QUERY_RESULT_STATUS = (s.answer 0 sel arg).1 % 256 ∧
      t.fld Reg.SYS_QUERY_DATA 0 = (s.answer 0 sel arg).2.getD 0 0 % 4294967296) ∧
    (s.flag Reg.SYS_QUERY_RESULT_VALID = true → Runs .sysQueryResultRead s fun t =>
      t.fld Reg.SYS_QUERY_RESULT_READS = min (s.fld Reg.SYS_QUERY_RESULT_READS + 1) 3 ∧
      t.fld Reg.SYS_QUERY_DATA 0 = s.fld Reg.SYS_QUERY_DATA 0)

/-- A payload fetch begins for the packet at the head, its end consumes the packet, and a sequence gap that lasts is closed. With the
clocks running and no error armed for the ring's duplicate indices. On an enabled bitstream ring that feeds a stream, where the
packet at the head has its colour and gets its buffers, PAYLOAD_FETCH marks it as fetching with those buffers and asks the host
for its payload. PAYLOAD_FETCH_DONE of a ring's only packet, which carries no CRC flag and was not yet committed, whose stream
takes units, consumes the packet: the ring is empty of packets, CI and both audit counts have moved by its items. SEQ_GAP_TIMEOUT
of a stream that holds a unit for RFS_REORDER.FRAMES marks leaves no unit held. (03_rings_and_jobs.md,
05_reference_store_and_concealment.md, R60, R63, R64, R89, R117, Table 3.3) -/
def Obligations.PayloadsReachTheirStream : Prop :=
  ∀ s : State, s.pwr.clocksStopped = false →
    (∀ (r : Nat) (p : Pkt) (ps : List Pkt) (b : List Nat) (u : State), (s.ring r).enable = true → (s.ring r).halted = false →
      (s.ring r).stopped = false → (s.ring r).feedsStream = true → s.pageEnabled Blk.rng (r / 32) = true →
      (s.takeInject .rngPtr (r / 32)).isNone = true → (s.ring r).pkts = p :: ps →
      p.coloured = true → p.fetching = false → p.unit.isNone = true → p.dropped = false → p.gone = false →
      s.payloadBufs ((p.len + 255) / 256) (p.colour == 0) (s.yellows.length + 1) = (some b, u) →
      Runs (.payloadFetch r) s fun t =>
        (t.ring r).pkts = { p with fetching := true, bufs := b } :: ps ∧
        t = (u.setRing r { u.ring r with pkts := { p with fetching := true, bufs := b } :: ps }).payloadReqs r p.segs) ∧
    (∀ (r : Nat) (p : Pkt) (payload : Bytes) (au : AuInfo), (s.ring r).feedsStream = true → (s.ring r).enable = true →
      (s.ring r).halted = false → (s.takeInject .rngPtr (r / 32)).isNone = true → (s.ring r).pkts = [p] →
      p.fetching = true → p.unit.isNone = true → p.crc = false → p.committed = false → p.dropped = false → p.gone = false →
      ((s.stream (s.ring r).link).state = 1 ∨ (s.stream (s.ring r).link).state = 2 ∨
        (s.stream (s.ring r).link).state = 3 ∧ p.marked = true) →
      Runs (.payloadFetchDone r payload au) s fun t =>
        (t.ring r).pkts = [] ∧ (t.ring r).ci = ((s.ring r).ci + p.items) % 4294967296 ∧
        (t.ring r).produced = ((s.ring r).produced + p.items) % 18446744073709551616 ∧
        (t.ring r).consumed = ((s.ring r).consumed + p.items) % 18446744073709551616 ∧
        (t.ring r).count = (s.ring r).count ∧ (t.ring r).pend = (s.ring r).pend - p.items) ∧
    (∀ st : Nat, ((s.stream st).held.any fun u => decide (s.fld Reg.RFS_REORDER_FRAMES ≤ u.heldMarks)) = true →
      Runs (.seqGapTimeout st) s fun t => (t.stream st).held = [])

/-- STREAM_OPEN reserves what R85 and R114 ask for and opens the stream; a flush or close drains it, or closes it when FAULTED. With
the clocks running and the job ready to start. A STREAM_OPEN that passes its checks, the admission of R85 and the memory
reservation, while no enabled bitstream ring feeds the stream, leaves it OPEN with the command's tenant and arguments, holding its
granules, and adds its load to DEC_LOAD_LIVE. A close or flush of the owner's stream in OPEN or RUNNING starts to drain it: the
stream is DRAINING with the command last in its list and the job begun. A close of a FAULTED stream leaves it CLOSED with no
granule held. Each of these but a drain ends its job. (04_stream_decoding.md, 05_reference_store_and_concealment.md, R83, R85,
R88, R114, R115) -/
def Obligations.StreamsOpenAndClose : Prop :=
  ∀ (s : State) (j : Nat), s.pwr.clocksStopped = false →
    (∀ st : Nat, st = field (s.job j).args 8 2 % 1024 → s.canStart j 0x01 = true → (s.stream st).state = 0 →
      openOk s.variant (s.job j).args = true → s.admission (streamArgs (s.job j).args) = 0 →
      (streamArgs (s.job j).args).reserve ≤ s.rfsFree →
      (s.rng.rings.filter fun e => e.2.cls == 3 && e.2.link == st && e.2.enable) = [] →
      Runs (.streamOpen j) s fun t =>
        (t.stream st).state = 1 ∧ (t.stream st).tenant = (s.job j).tenant ∧
        (t.stream st).args = streamArgs (s.job j).args ∧
        (t.stream st).granules = (streamArgs (s.job j).args).reserve ∧ (t.stream st).drains = [] ∧
        (t.stream st).runs = s.newRuns (streamArgs (s.job j).args).reserve ∧
        t.fld Reg.DEC_LOAD_LIVE = (s.fld Reg.DEC_LOAD_LIVE + (t.stream st).loadMs) % 4294967296 ∧
        Tab.has t.rng.jobs j = false) ∧
    (∀ st : Nat, st = field (s.job j).args 8 2 % 1024 → s.canStart j 0x02 = true →
      (s.stream st).tenant = (s.job j).tenant →
      (((s.stream st).state = 1 ∨ (s.stream st).state = 2) → Runs (.streamClose j) s fun t =>
        (t.stream st).state = 3 ∧ ((t.stream st).drains.getLast?.map fun d => (d.job, d.close)) = some (j, true) ∧
        (t.job j).started = true) ∧
      ((s.stream st).state = 4 → Runs (.streamClose j) s fun t =>
        (t.stream st).state = 0 ∧ (t.stream st).granules = 0 ∧ (t.stream st).drains = [] ∧ Tab.has t.rng.jobs j = false)) ∧
    (∀ st : Nat, st = field (s.job j).args 8 2 % 1024 → s.canStart j 0x03 = true →
      (s.stream st).tenant = (s.job j).tenant → ((s.stream st).state = 1 ∨ (s.stream st).state = 2) →
      Runs (.streamFlush j) s fun t =>
        (t.stream st).state = 3 ∧ ((t.stream st).drains.getLast?.map fun d => (d.job, d.close)) = some (j, false) ∧
        (t.job j).started = true)

/-- Policy changes, the end and the time limit of a drain, and the reference store's region write. With the clocks running. A
STREAM_SET_POLICY of the owner that changes only the class of a stored stream in OPEN or RUNNING to another stored class writes
that class and ends its job. The end of the last drain, a close, leaves the stream CLOSED with nothing held. The time limit of R90
marks the first drain that has not timed out and ends its job, and the stream goes on draining. A region write, with its page open
to register writes, while no stream is open sets the register, from which RFS_FREE follows; while one is open it latches RFS.busy
and changes neither. (04_stream_decoding.md, 05_reference_store_and_concealment.md, R90, R91, R116, Table 4.4, Table 4.5) -/
def Obligations.StreamPolicyDrainsAndRegion : Prop :=
  ∀ s : State, s.pwr.clocksStopped = false →
    (∀ (j st cls : Nat), st = field (s.job j).args 8 2 % 1024 → s.canStart j 0x04 = true → field (s.job j).args 10 1 = 1 →
      cls = field (s.job j).args 11 1 → 4 ≤ cls → cls ≤ 7 → 4 ≤ (s.stream st).args.cls →
      (s.stream st).tenant = (s.job j).tenant → ((s.stream st).state = 1 ∨ (s.stream st).state = 2) →
      Runs (.streamSetPolicy j) s fun t =>
        t.stream st = { s.stream st with args := { (s.stream st).args with cls := cls } } ∧ Tab.has t.rng.jobs j = false ∧
        t.dec.pics = s.dec.pics) ∧
    (∀ (st : Nat) (d : DrainCmd), (s.stream st).drains = [d] → d.close = true → (s.stream st).state = 3 →
      s.drainBusy st = false → Runs (.streamDrainDone st) s fun t =>
        (t.stream st).state = 0 ∧ (t.stream st).granules = 0 ∧ (t.stream st).drains = [] ∧
        (d.timedOut = false → Tab.has t.rng.jobs d.job = false)) ∧
    (∀ (st : Nat) (d : DrainCmd), (s.stream st).drains.find? (fun d => !d.timedOut) = some d →
      d.acceptedAt + s.fld Reg.DEC_DRAIN_LIMIT_MS * Clk.ms ≤ s.now → Runs (.drainTimeout st) s fun t =>
        (t.stream st).state = (s.stream st).state ∧ (∀ e ∈ (t.stream st).drains, e.job = d.job → e.timedOut = true) ∧
        (t.stream st).drains.length = (s.stream st).drains.length ∧ Tab.has t.rng.jobs d.job = false) ∧
    (∀ v : Word, s.pageOpen Blk.rfs 0 = true → rsvBits v 0xFFFFFF = 0 →
      (s.dec.streams.any (fun e => e.2.state != 0) = false →
        (Runs (.rfsRegionWrite 0 v) s fun t => t = s.setFld Reg.RFS_REGION_BASE 0 v.toNat) ∧
        (Runs (.rfsRegionWrite 1 v) s fun t => t = s.setFld Reg.RFS_REGION_SIZE 0 v.toNat ∧
          (s.inPrivate (s.fld Reg.RFS_REGION_BASE * 65536) (v.toNat * 65536) = true →
            t.rfsFree = v.toNat - (s.dec.streams.map fun e => e.2.granules).sum) ∧
          (s.inPrivate (s.fld Reg.RFS_REGION_BASE * 65536) (v.toNat * 65536) = false → t.rfsFree = 0))) ∧
      (∀ reg : Nat, s.dec.streams.any (fun e => e.2.state != 0) = true → Runs (.rfsRegionWrite reg v) s fun t =>
        t.latched .rfsBusy = true ∧ t.fld Reg.RFS_REGION_SIZE = s.fld Reg.RFS_REGION_SIZE ∧
        t.fld Reg.RFS_REGION_BASE = s.fld Reg.RFS_REGION_BASE ∧ t.dec = s.dec))

/-- A free core takes the picture that the dispatch order names, a unit's end frees its core, a pin copy ends. With the clocks
running. A core that is online, idle and whose escapement runs, with the CRIT stop not in force, and for which the order of R103
names a picture: UNIT_DISPATCH makes it busy with the next unit of that picture. WORK_UNIT_DONE of a busy core, with no injection
armed in its page or the reference store's, makes the core idle and counts the unit, where its picture is in the store and every
reference band that the unit reads is final; where one is not, the core waits. PIN_COPY_DONE pins the picture in the slot that the
copy went to. OFFLINE of an idle core takes it out of dispatch, and RESET of an offline idle core clears its fault and
reservation, with the core's page open to register writes. (04_stream_decoding.md, 05_reference_store_and_concealment.md, R97,
R106, R110, R123) -/
def Obligations.DecodeUnitsRun : Prop :=
  ∀ s : State, s.pwr.clocksStopped = false →
    (∀ c n : Nat, s.coreOnline c = true → (s.core c).busy = false → s.pwr.critStop = false → s.escOk 1 c = true →
      s.pick c = some n → ((s.pic n).dispatched ≠ 0 ∨ s.pageEnabled Blk.rfs 0 = true) →
      Runs (.unitDispatch c) s fun t =>
        (t.core c).busy = true ∧ (t.core c).pic = n ∧ (t.core c).unit = (s.pic n).dispatched ∧
        (t.core c).startedAt = s.now ∧ (t.pic n).dispatched = (s.pic n).dispatched + 1) ∧
    (∀ (c : Nat) (res : UnitResult), (s.core c).busy = true →
      s.fld Reg.PG_ERR_INJECT_COUNT (pageOf Blk.dec (c / 8)) = 0 → s.fld Reg.PG_ERR_INJECT_COUNT (pageOf Blk.rfs 0) = 0 →
      (s.core c).stopping = false → Tab.has s.dec.pics (s.core c).pic = true →
      (s.refWait (s.core c).pic res = false → Runs (.workUnitDone c res) s fun t =>
        (t.core c).busy = false ∧ (t.core c).units = ((s.core c).units + 1) % 4294967296 ∧
        (t.core c).offline = ((s.core c).offline || (s.core c).offlineReq)) ∧
      (s.refWait (s.core c).pic res = true → Runs (.workUnitDone c res) s fun t => t = s)) ∧
    (∀ (st order n i : Nat) (p : Picture),
      ((s.picsOf st).find? fun e => e.2.copyTo.isSome && e.2.info.order == order) = some (n, p) → p.copyTo = some i →
      Runs (.pinCopyDone st order) s fun t =>
        (t.pic n).pinned = true ∧ (t.pic n).copyTo = none ∧ (t.pic n).slot = some (true, i) ∧ t.regs = s.regs) ∧
    (∀ (c : Nat) (v : Word), c < s.variant.decCores → s.pageOpen Blk.dec (c / 8) = true → rsvBits v 3 = 0 →
      (s.core c).busy = false → bit v.toNat 0 = true → bit v.toNat 1 = false →
      Runs (.decCoreCtlOffline c v) s fun t =>
        (t.core c).offline = true ∧ (t.core c).offlineReq = true ∧ (∀ d, d ≠ c → t.core d = s.core d)) ∧
    (∀ c : Nat, c < s.variant.decCores → s.pageOpen Blk.dec (c / 8) = true → (s.core c).offline = true → (s.core c).busy = false → Runs (.decCoreReset c) s fun t =>
      t.core c = { s.core c with faulted := false, reservedFor := none })

/-- A frame mark counts the frame; a WALLSYNC edge, or its absence, moves the lock as R147 says. With the clocks running and winding
over. A due mark, while no swap is under way, no live edit waits and marks do not follow WALLSYNC, adds one to SYS_FRAME_COUNT and
becomes the last mark. Under an active calibre with SOURCE 1 an edge within 0.5 % of T of its prediction is accepted, one run
longer, with its period measured; the first edge is only a reference. A holdover places the mark by prediction and counts in
CLB_HOLDOVER_MARKS; the fourth in a row loses the lock and latches CLB.sync, an earlier one keeps it. That the first edge is only
a reference is the model's reading (log 48). (06_wall_model_and_calibres.md, R11, R146, R147) -/
def Obligations.FrameMarksAndWallsync : Prop :=
  ∀ s : State, s.pwr.clocksStopped = false → s.wound = true →
    (s.clb.nextMark ≤ s.now → s.following = false → s.clb.swap = none → s.clb.live = none → Runs .frameMark s fun t =>
      t.frameCount = (s.frameCount + 1) % 4294967296 ∧ t.clb.lastMark = s.clb.nextMark ∧ t.now = s.now) ∧
    (s.syncSource = true → s.clb.edgeKnown = true → s.now ≤ s.clb.edgeAt + s.syncPeriod + s.period / 200 →
      s.clb.edgeAt + s.syncPeriod ≤ s.now + s.period / 200 → Runs .wallsyncEdge s fun t =>
        t.clb.edges = s.clb.edges + 1 ∧ t.clb.edgeAt = s.now ∧ t.clb.edgeSeen = true ∧ t.clb.holdRun = 0 ∧
        t.clb.locked = (s.clb.locked || decide (8 ≤ s.clb.edges + 1)) ∧
        t.fld Reg.CLB_SYNC_MEAS = (s.now - s.clb.edgeAt) / Clk.cclk % 4294967296) ∧
    (s.syncSource = true → s.clb.edgeKnown = false → s.clb.locked = false → Runs .wallsyncEdge s fun t =>
      t = { s with clb := { s.clb with edgeKnown := true, edgeAt := s.now, edges := 0 } }) ∧
    (s.following = true → s.clb.edgeAt + s.syncPeriod ≤ s.now →
      (s.clb.holdRun + 1 < 4 → Runs .wallsyncHoldover s fun t =>
        t.clb.locked = true ∧ t.clb.holdRun = s.clb.holdRun + 1 ∧ t.clb.edgeAt = s.clb.edgeAt + s.syncPeriod ∧
        t.fld Reg.CLB_HOLDOVER_MARKS = (s.fld Reg.CLB_HOLDOVER_MARKS + 1) % 4294967296) ∧
      (4 ≤ s.clb.holdRun + 1 → Runs .wallsyncHoldover s fun t =>
        t.clb.locked = false ∧ t.clb.edgeKnown = false ∧ t.latched .clbSync = true))

/-- A window is picked up for its frame, a canvas row pair is produced in order, and the drive stage takes the oldest one. With the
clocks running. A pickup that is due for frame k leaves the window with a binding for frame k under the bank of that frame, and
every other window as it was. While the scan of a frame runs, its row pair is due, picked up and has every band, and the output
buffer has room, ROW_PAIR_START appends exactly that row pair and moves on to the next, with one credit issued. DRIVE_ROW_PAIR
with room in every tile it crosses and its circuits enabled, or open for that frame already, takes the oldest canvas row pair and
returns its credit. The injections of the canvas page are not armed here. (07_canvas_and_drive.md, 01_movement.md, R13, R15, R164,
R165, R167) -/
def Obligations.RowPairsScanAndDrive : Prop :=
  ∀ s : State, s.pwr.clocksStopped = false →
    (∀ (w k : Nat) (b : Bool) (im : Bytes), s.pickupFrame w = some k → s.bankFor k = some (b, im) →
      Runs (.pickup w) s fun t => ((t.win w).at_ k).map (·.bank) = some b ∧ t.cnv.out = s.cnv.out ∧
        (∀ v, v ≠ w → t.win v = s.win v)) ∧
    (∀ (b : Bool) (im : Bytes), s.cnv.scanning = true → s.escOk 4 0 = true → s.tagOf s.cnv.frame = some (b, im) →
      s.scanTime im s.cnv.frame s.cnv.next ≤ s.now → s.pickedUp im s.cnv.frame s.cnv.next = true →
      s.missingBands im s.cnv.next = [] → s.cnv.out.length < 4 →
      s.fld Reg.PG_ERR_INJECT_COUNT (pageOf Blk.cnv 0) = 0 → Runs .rowPairStart s fun t =>
        t.cnv.out.length = s.cnv.out.length + 1 ∧ t.cnv.out.take s.cnv.out.length = s.cnv.out ∧
        (t.cnv.out.getLast?.map fun r => (r.frame, r.q, r.lamps.length)) = some (s.cnv.frame, s.cnv.next, 2 * Img.w im) ∧
        t.cnv.next = s.cnv.next + 1 ∧ t.cnv.crIssued = (s.cnv.crIssued + 1) % 18446744073709551616) ∧
    (∀ (rp : CanvasRp) (rest : List CanvasRp) (b : Bool) (im : Bytes), s.cnv.out = rp :: rest →
      s.tagOf rp.frame = some (b, im) →
      ((Img.crossing im rp.q).any fun e => decide (4 ≤ (s.mzt (Tile.id e)).inq.length)) = false →
      ((Img.crossing im rp.q).any fun e => !s.pageEnabled Blk.fus (Tile.circuit e / 128) &&
        !((s.circ (Tile.circuit e)).isOpen && (s.circ (Tile.circuit e)).frame == rp.frame)) = false →
      s.pageEnabled Blk.drv 0 = true → s.escOk 5 0 = true → Runs .driveRowPair s fun t =>
        t.cnv.out = rest ∧ t.cnv.crReturned = (s.cnv.crReturned + 1) % 18446744073709551616)

/-- A cap commit runs only in a cap-write session and both copies put it into force; FUS_FORCE and AUD_SNAP act as stated. With the
clocks running, the host reaching the page of the fusee, or the named page open. Without a session a commit ends with RESULT 1 and
FUS.capwr; while one is BUSY it only latches FUS.capwr; an image that reads and passes steps 2 to 4 makes it BUSY with that image
held. When both copies are stored and read back, caps and slews are those of the image, FUS_CAP_SEQ is one above the stored
sequence number, LOADED is 1, RESULT 0 and BUSY 0. FUS_FORCE of an instance with bit 31 sets the forced value of the circuit,
zeroes its audit terms and voids the promise. AUD_SNAP.TAKE on the switch's page copies every output's audit counters and leaves
the live ones. (08_fusee.md, 01_movement.md, R24, R179, R180, R186, Table 8.2) -/
def Obligations.CapsAndAudits : Prop :=
  ∀ s : State, s.pwr.clocksStopped = false →
    (s.hostPageOpen Blk.fus 0 = true → s.flag Reg.FUS_CAP_CTL_BUSY = true → Runs .fusCapCommit s fun t => t.latched .fusCapwr = true ∧ t.fus = s.fus) ∧
    (s.hostPageOpen Blk.fus 0 = true → s.flag Reg.FUS_CAP_CTL_BUSY = false → s.fus.session = false → Runs .fusCapCommit s fun t =>
      t.fld Reg.FUS_CAP_CTL_RESULT = 1 ∧ t.latched .fusCapwr = true ∧ t.fus = s.fus) ∧
    (∀ (h im : Bytes) (u w : State), s.hostPageOpen Blk.fus 0 = true → s.flag Reg.FUS_CAP_CTL_BUSY = false → s.fus.session = true →
      s.engineRead (addr64 (s.fld Reg.FUS_CAP_SRC_LO_ADDR * 64) (s.fld Reg.FUS_CAP_SRC_HI)) 32 14 = (some h, u) →
      field h 6 2 ≠ 0 → field h 6 2 ≤ u.variant.circuits →
      u.engineRead (addr64 (s.fld Reg.FUS_CAP_SRC_LO_ADDR * 64) (s.fld Reg.FUS_CAP_SRC_HI)) (capBytes (field h 6 2)) 14 =
        (some im, w) → capBadFormat im = false → capBadRange w.variant im = false →
      Runs .fusCapCommit s fun t => t.fld Reg.FUS_CAP_CTL_BUSY = 1 ∧ t.fus = { w.fus with commit := some im }) ∧
    (∀ (im : Bytes) (u w : State), s.fus.commit = some im →
      s.kstWrite (capCopy 0) (capStored im ((s.storedSeq + 1) % 4294967296)) = some u →
      u.kstWrite (capCopy 1) (capStored im ((s.storedSeq + 1) % 4294967296)) = some w →
      Runs (.capCommitStoreDone true true) s fun t =>
        t.fus = { w.fus with commit := none, count := field im 6 2,
                             caps := (List.range (field im 6 2)).map (fun c => (c, field im (32 + 16 * c) 6)),
                             slews := (List.range (field im 6 2)).map (fun c => (c, field im (40 + 16 * c) 2)) } ∧
        t.fld Reg.FUS_CAP_SEQ = (s.storedSeq + 1) % 4294967296 ∧ t.flag Reg.FUS_CAP_CTL_LOADED = true ∧ t.fld Reg.FUS_CAP_CTL_RESULT = 0 ∧
        t.fld Reg.FUS_CAP_CTL_BUSY = 0) ∧
    (∀ (i : Nat) (v : Word), i < s.variant.pick 4 2 → s.pageOpen Blk.fus i = true → rsvBits v 0x8000007F = 0 →
      bit v.toNat 31 = true → Runs (.fusForce (pageOf Blk.fus i) v) s fun t =>
      (t.circ (128 * i + v.toNat % 128)).force =
        some (s.fld Reg.FUS_FORCE_VAL_LO i + s.fld Reg.FUS_FORCE_VAL_HI i * 4294967296) ∧
      (t.circ (128 * i + v.toNat % 128)).granted = 0 ∧ (t.circ (128 * i + v.toNat % 128)).consumed = 0 ∧
      (t.circ (128 * i + v.toNat % 128)).expired = 0 ∧ t.flt.promiseVoid = true ∧
      (∀ c, c ≠ 128 * i + v.toNat % 128 → t.circ c = s.circ c)) ∧
    (s.pageOpen Blk.swc 0 = true → Runs (.audSnapTake (pageOf Blk.swc 0)) s fun t => ∀ o,
      (t.swout o).audIn = (s.swout o).audIn ∧ (t.swout o).audOut = (s.swout o).audOut ∧
      (Tab.has s.swc.outs o = true → (t.swout o).snapIn = (s.swout o).audIn ∧ (t.swout o).snapOut = (s.swout o).audOut ∧
        (t.swout o).snapDrop = (s.swout o).audDrop ∧ (t.swout o).snapResident = (s.swout o).resident))

/-- CALIBRE_WRITE refuses an image with the check that fails and stages one that passes; the commit makes it the shadow. With the
clocks running, for a CALIBRE_WRITE that may start and names a legal host range of the image's length. A host read that fails ends
the job with no change to the calibre state. An image that fails a check ends the job with no change to the calibre state. An
image that passes all of them, without LIVE, is staged with its LAT_UNBOUND tiles while the job runs and both banks stay. The
commit of a staged image, while the shadow does not drain and no swap is under way, gives the shadow that image, state 1 and the
next sequence number, which CLB_WRITE_SEQ shows; the other bank is untouched and the job ends. (06_wall_model_and_calibres.md,
R133, R134, R142, Table 6.6) -/
def Obligations.CalibreWriteChecksAndStages : Prop :=
  ∀ (s : State) (j : Nat), s.pwr.clocksStopped = false →
    (∀ im : Bytes, s.canStart j 0x10 = true → field (s.job j).args 16 4 = im.length → im.length ≤ 16777216 →
      (addrSpace (field (s.job j).args 8 8)).1 = false →
      (addrSpace (field (s.job j).args 8 8)).2 + im.length ≤ 9223372036854775808 →
      (Runs (.calibreWrite j im .error) s fun t => t.clb = s.clb ∧ Tab.has t.rng.jobs j = false) ∧
      (((s.hostReq .memRead (addrSpace (field (s.job j).args 8 8)).2 im.length none).gainReads im).checkImage im im.length
          (bit (field (s.job j).args 20 1) 0) ≠ none →
        Runs (.calibreWrite j im .ok) s fun t => t.clb = s.clb ∧ Tab.has t.rng.jobs j = false) ∧
      (((s.hostReq .memRead (addrSpace (field (s.job j).args 8 8)).2 im.length none).gainReads im).checkImage im im.length
          false = none → bit (field (s.job j).args 20 1) 0 = false →
        Runs (.calibreWrite j im .ok) s fun t =>
          t.clb = { s.clb with staged := some ⟨j, im, Img.latUnbound im⟩ } ∧ (t.job j).started = true ∧
          (t.job j).args = (s.job j).args)) ∧
    (∀ (im : Bytes) (lat : List Nat), s.clb.staged = some ⟨j, im, lat⟩ → (s.bank s.shadow).state ≠ 3 → s.clb.swap = none →
      Runs (.calibreWriteCommit j) s fun t =>
        t.bank s.shadow = ⟨1, s.newSeq, im, lat⟩ ∧ t.bank (!s.shadow) = s.bank (!s.shadow) ∧ t.clb.staged = none ∧
        t.fld Reg.CLB_WRITE_SEQ = s.newSeq ∧ t.clb.issue = s.newSeq ∧ Tab.has t.rng.jobs j = false)

/-- CALIBRE_SWAP arms 400 us ahead, for its frame, or times out; the old bank is released; a read gives the image, a save the slot not
newer. With the clocks running. A CALIBRE_SWAP that may start, with a shadow written under the number that CLB_WRITE_SEQ shows,
starts arming and changes no bank; with another number, or without a written shadow, it ends and the calibre state stays.
SWAP_ARMED without AT takes the first of the next eight frames whose mark lies 400 us or more ahead, with AT the frame named if
its mark lies so, and otherwise drops the swap and ends the job. A bank that drains and that no work is tagged with becomes the
written shadow again, with its number in CLB_WRITE_SEQ. With the clocks running. A CALIBRE_READ of the active calibre that may
start, silently, into a legal host range long enough, writes exactly the image as R138 gives it to host memory, changes no calibre
state and ends. A save that succeeds, where the store is not worn, no page nears its limit and no error is armed for the event
ring's indices, writes the slot of R395 to the keeping store at the other slot's place, and the next save goes to the first slot
again; a save that fails latches CLB.save and leaves the keeping store alone unless the latch logs.
(06_wall_model_and_calibres.md, R139, R140, R138, R149, R395) -/
def Obligations.CalibreSwapReadAndSave : Prop :=
  (∀ (s : State) (j : Nat), s.pwr.clocksStopped = false →
    (s.canStart j 0x11 = true → (s.bank s.shadow).state = 1 → field (s.job j).args 8 2 = s.fld Reg.CLB_WRITE_SEQ →
      Runs (.calibreSwap j) s fun t =>
        t.clb = { s.clb with
          swap := some ⟨j, bit (field (s.job j).args 10 1) 0, field (s.job j).args 12 4, false, 0, [], []⟩ } ∧
        (t.job j).started = true) ∧
    (s.canStart j 0x11 = true → (s.bank s.shadow).state ≠ 1 ∨ field (s.job j).args 8 2 ≠ s.fld Reg.CLB_WRITE_SEQ →
      Runs (.calibreSwap j) s fun t => t.clb = s.clb ∧ Tab.has t.rng.jobs j = false) ∧
    (∀ frame i : Nat, s.clb.swap = some ⟨j, false, frame, false, 0, [], []⟩ → i < 8 →
      s.now + 400 * Clk.us ≤ s.markTime (frameAdd s.frameCount (i + 1)) →
      (∀ k, k < i → s.markTime (frameAdd s.frameCount (k + 1)) < s.now + 400 * Clk.us) →
      Runs .swapArmed s fun t => t = { s with clb := { s.clb with
        swap := some ⟨j, false, frame, true, frameAdd s.frameCount (i + 1),
          s.evalTiles (s.bank s.shadow).image, s.evalMirrors (s.bank s.shadow).image⟩ } }) ∧
    (∀ frame : Nat, s.clb.swap = some ⟨j, true, frame, false, 0, [], []⟩ →
      (frameLe (frameAdd s.frameCount 1) frame = true → s.now + 400 * Clk.us ≤ s.markTime frame →
        Runs .swapArmed s fun t => (t.clb.swap.map fun x => (x.armed, x.s)) = some (true, frame) ∧ t.rng = s.rng) ∧
      (s.markTime frame < s.now + 400 * Clk.us →
        Runs .swapArmed s fun t => t.clb = { s.clb with swap := none } ∧ Tab.has t.rng.jobs j = false)) ∧
    (s.clb.activeValid = true → (s.bank (!s.clb.active)).state = 3 → s.tagged (!s.clb.active) = false →
      Runs .oldBankRelease s fun t =>
        t.bank (!s.clb.active) = { s.bank (!s.clb.active) with state := 1 } ∧
        t.bank s.clb.active = s.bank s.clb.active ∧
        t.fld Reg.CLB_WRITE_SEQ = (s.bank (!s.clb.active)).seq % 65536)) ∧
  (∀ s : State, s.pwr.clocksStopped = false →
    (∀ j : Nat, s.canStart j 0x12 = true → (s.job j).silent = true → field (s.job j).args 20 1 = 0 →
      s.clb.activeValid = true → (s.bank s.clb.active).state ≠ 0 → (addrSpace (field (s.job j).args 8 8)).1 = false →
      (Img.readBack (s.bank s.clb.active).image (s.bank s.clb.active).latUnbound).length ≤ field (s.job j).args 16 4 →
      (addrSpace (field (s.job j).args 8 8)).2 +
        (Img.readBack (s.bank s.clb.active).image (s.bank s.clb.active).latUnbound).length ≤ 9223372036854775808 →
      Runs (.calibreRead j) s fun t =>
        t.hst.mem = s.hst.mem.writeBytes (addrSpace (field (s.job j).args 8 8)).2
          (Img.readBack (s.bank s.clb.active).image (s.bank s.clb.active).latUnbound) ∧
        t.clb = s.clb ∧ t.mem = s.mem ∧ t.regs = s.regs ∧ Tab.has t.rng.jobs j = false) ∧
    (∀ (off : Nat) (bytes : Bytes), s.clb.savePending = true → s.clb.activeValid = true → s.clb.saveSlot < 2 →
      off = calibreSlot (1 - s.clb.saveSlot) →
      bytes = slotBytes ((s.clb.saveSeq + 1) % 4294967296) (s.bank s.clb.active).seq s.frameCount
        (Img.readBack (s.bank s.clb.active).image (s.bank s.clb.active).latUnbound) →
      s.kst.worn off bytes.length = false → s.kst.warns off bytes.length = false →
      (s.takeInject .rngPtr (s.fld Reg.CLB_EVQ_RING / 32)).isNone = true →
      Runs (.calibreSave true) s fun t =>
        t.kst.mem = s.kst.mem.writeBytes off bytes ∧ t.clb.saved = true ∧ t.clb.savePending = false ∧
        t.clb.saveSlot = 1 - s.clb.saveSlot ∧ t.clb.saveSeq = (s.clb.saveSeq + 1) % 4294967296) ∧
    (s.clb.savePending = true → s.clb.activeValid = true → Runs (.calibreSave false) s fun t =>
      t.latched .clbSave = true ∧ t.clb = { s.clb with savePending := false }))

/-- ENC_SESSION_OPEN places a session on the least-loaded cores and reserves its buffers; CLOSE gives both back. With the clocks
running, for an ENC_SESSION_OPEN that may start. A session that is not CLOSED refuses it and is not changed, and so does one whose
arguments fail a check of R236. Otherwise, with cores cs the least loaded, no core past 500 Msample/s and enough of the region
free, the session is RUNNING with its arguments, its load, its share on each core of cs and its granules, no other session changes
and the job ends. A CLOSE of a session of the same tenant with no picture in coding makes it CLOSED, with nothing loaded or
reserved, and ends the job; with a picture in coding the session is CLOSING, its waiting picture is dropped and the job goes on.
(11_monitor_and_relay_encoding.md, R235, R236, R237, R238, Table 11.2) -/
def Obligations.EncodeSessionsOpenAndClose : Prop :=
  ∀ (s : State) (j : Nat), s.pwr.clocksStopped = false →
    (∀ e : Nat, s.canStart j 0x20 = true → e = bits (field (s.job j).args 8 1) 4 0 →
      ((s.ses e).state ≠ 0 → Runs (.encSessionOpen j) s fun t => t.enc = s.enc ∧ Tab.has t.rng.jobs j = false) ∧
      ((s.ses e).state = 0 →
        ((encArgs (s.job j).args).formatOk && (encArgs (s.job j).args).sizeOk s.variant && (encArgs (s.job j).args).rateOk &&
          s.encSourceOk (encArgs (s.job j).args) && s.encRingsOk e (s.job j).tenant (encArgs (s.job j).args)) = false →
        Runs (.encSessionOpen j) s fun t => t.enc = s.enc ∧ Tab.has t.rng.jobs j = false) ∧
      (∀ (cs : List Nat) (load per g : Nat), (s.ses e).state = 0 →
        ((encArgs (s.job j).args).formatOk && (encArgs (s.job j).args).sizeOk s.variant && (encArgs (s.job j).args).rateOk &&
          s.encSourceOk (encArgs (s.job j).args) && s.encRingsOk e (s.job j).tenant (encArgs (s.job j).args)) = true →
        load = (encArgs (s.job j).args).loadOf (s.encRate (encArgs (s.job j).args)) →
        per = (load + (encArgs (s.job j).args).nCores - 1) / (encArgs (s.job j).args).nCores →
        cs = s.leastLoaded (encArgs (s.job j).args).nCores ((List.range s.variant.encCores).filter s.encOnline) →
        g = 5 * gran (picPlain (encArgs (s.job j).args).outW (encArgs (s.job j).args).outH 1
          (if (encArgs (s.job j).args).depth = 10 then 2 else 1)) →
        cs.length = (encArgs (s.job j).args).nCores → (∀ c, c ∈ cs → s.encLoad c + per ≤ 500) →
        g ≤ s.encRegionFree →
        Runs (.encSessionOpen j) s fun t =>
          (t.ses e).state = 1 ∧ (t.ses e).load = load ∧ (t.ses e).granules = g ∧ (t.ses e).tenant = (s.job j).tenant ∧
          (t.ses e).codec = field (s.job j).args 9 1 ∧ (t.ses e).outW = field (s.job j).args 16 2 ∧
          (t.ses e).outH = field (s.job j).args 18 2 ∧ (∀ c, c ∈ cs → Tab.get 0 (t.ses e).loads c = per) ∧
          (∀ f, f ≠ e → t.ses f = s.ses f) ∧ Tab.has t.rng.jobs j = false)) ∧
    (∀ e : Nat, s.canStart j 0x21 = true → e = field (s.job j).args 8 1 → (s.ses e).state ≠ 0 →
      (s.ses e).tenant = (s.job j).tenant →
      ((s.ses e).coding = none → Runs (.encSessionClose j) s fun t =>
        t.ses e = {} ∧ Tab.has t.rng.jobs j = false ∧ (∀ f, f ≠ e → t.ses f = s.ses f)) ∧
      ((s.ses e).coding ≠ none → Runs (.encSessionClose j) s fun t =>
        (t.ses e).state = 2 ∧ (t.ses e).waiting = none ∧ (t.ses e).coding = (s.ses e).coding ∧
        Tab.has t.rng.jobs j = true ∧ (∀ f, f ≠ e → t.ses f = s.ses f)))

/-- A ready picture waits, a started one takes the session's cores, a finished one goes out or is dropped; cores reset, the region
moves closed. With the clocks running. The next released picture of a RUNNING source stream becomes the waiting picture with the
stream's time and concealment, and counts a skip where one waited already. A waiting picture starts when the session's cores are
online, idle and loaded with their image, and a stream source is RUNNING: it is in coding under the hard limit of R242 and each
core is busy with the session. A finished picture has the bytes that R243 makes of its columns. One that the output entries cannot
hold is dropped, counted in NO_BUF and followed by a key picture; one they hold counts in PICS, consumes its entries from the
output ring and leaves the session ready for the next one. No error is armed for the cores here. With the clocks running and the
page written open to register writes. ENC_CORE_RESET of a core that is OFFLINE and idle clears its fault and keeps it OFFLINE, and
of another one changes nothing. A write of ENC_REGION_BASE or SIZE while every session is CLOSED takes the value, from which
ENC_REGION_FREE follows, and touches no session; while one is open neither changes and ENC.busy latches.
(11_monitor_and_relay_encoding.md, R240, R241, R242, R244, R245, R237, R246) -/
def Obligations.EncodePicturesCoresAndRegion : Prop :=
  (∀ (s : State) (e : Nat), s.pwr.clocksStopped = false → (s.ses e).state = 1 →
    (∀ (n : Nat) (p : Picture), (s.ses e).isStream = true →
      (s.stream (s.ses e).stream).state = 2 → s.relayNext (s.ses e) = some (n, p) →
      Runs (.encSourceReady e) s fun t =>
        ((t.ses e).waiting.map fun q => (q.frame, q.time, q.concealed, q.pic)) = some (s.frameCount, p.time, p.concealed, some n) ∧
        (t.ses e).skip = (if (s.ses e).waiting = none then (s.ses e).skip else ((s.ses e).skip + 1) % 4294967296)) ∧
    (∀ p : EncPic, ((s.ses e).isStream = true → (s.stream (s.ses e).stream).state = 2) → (s.ses e).coding = none → (s.ses e).waiting = some p →
      (s.ses e).cores ≠ [] → (∀ c, c ∈ (s.ses e).cores →
        s.encOnline c = true ∧ (s.encCore c).busy = false ∧ s.escOk 2 c = true) →
      s.flag Reg.PWR_THROTTLE_HOT = false → s.pwr.critStop = false →
      Runs (.encPictureStart e) s fun t =>
        (t.ses e).coding = some p ∧ (t.ses e).waiting = none ∧ (t.ses e).hard = (s.ses e).hardLimit ∧
        (t.ses e).codingKey = (s.ses e).keyNext ∧ (∀ c, c ∈ (s.ses e).cores →
          (t.encCore c).busy = true ∧ (t.encCore c).session = e ∧ (t.encCore c).startedAt = s.now)) ∧
    (∀ (p : EncPic) (n qp : Nat) (guard : Bool) (cols : List EncCol) (low : List (List Nat)), (s.ses e).coding = some p →
      (s.ses e).codePicture cols low = (n, guard) →
      (s.ring (s.ses e).outRing).cls = 3 → (∀ c, c ∈ (s.ses e).cores → s.takeInject .encCore c = none) →
      (((s.ring (s.ses e).outRing).pkts.map (·.len)).sum < n → Runs (.encPictureDone e cols qp low) s fun t =>
        (t.ses e).coding = none ∧ (t.ses e).noBuf = ((s.ses e).noBuf + 1) % 4294967296 ∧ (t.ses e).needKey = true ∧
        (t.ses e).pics = (s.ses e).pics ∧ (∀ c, (s.encCore c).busy = true → (s.encCore c).session = e →
          (t.encCore c).busy = false)) ∧
      (n ≤ ((s.ring (s.ses e).outRing).pkts.map (·.len)).sum → Runs (.encPictureDone e cols qp low) s fun t =>
        (t.ses e).coding = none ∧ (t.ses e).pics = ((s.ses e).pics + 1) % 4294967296 ∧ (t.ses e).needKey = (s.ses e).needKey ∧
        (t.ses e).guard = ((s.ses e).guard + b2n guard) % 4294967296 ∧
        (t.ring (s.ses e).outRing).ci = ((s.ring (s.ses e).outRing).ci +
          (entriesFor n (s.ring (s.ses e).outRing).pkts).1) % 4294967296 ∧
        (t.ring (s.ses e).outRing).pkts =
          (s.ring (s.ses e).outRing).pkts.drop (entriesFor n (s.ring (s.ses e).outRing).pkts).1))) ∧
  (∀ s : State, s.pwr.clocksStopped = false →
    (∀ c : Nat, c < s.variant.encCores → s.pageOpen Blk.enc c = true →
      ((s.encCore c).offline = true → (s.encCore c).busy = false → Runs (.encCoreReset c) s fun t =>
        t.encCore c = { s.encCore c with faulted := false } ∧ t.enc.sessions = s.enc.sessions ∧
        (∀ d, d ≠ c → t.encCore d = s.encCore d)) ∧
      ((s.encCore c).offline = false ∨ (s.encCore c).busy = true → Runs (.encCoreReset c) s fun t => t = s)) ∧
    (∀ v : Word, s.pageOpen Blk.enc 0 = true → rsvBits v 0xFFFFFF = 0 →
      ((∀ e x, (e, x) ∈ s.enc.sessions → x.state = 0) →
        (Runs (.encRegionWrite 0 v) s fun t =>
          t = s.setFld Reg.ENC_REGION_BASE 0 v.toNat) ∧
        (Runs (.encRegionWrite 1 v) s fun t =>
          t = s.setFld Reg.ENC_REGION_SIZE 0 v.toNat ∧
            t.encRegionFree = v.toNat - (s.enc.sessions.map (·.2.granules)).sum)) ∧
      (∀ reg e x, (e, x) ∈ s.enc.sessions → x.state ≠ 0 → Runs (.encRegionWrite reg v) s fun t =>
        t.fld Reg.ENC_REGION_SIZE = s.fld Reg.ENC_REGION_SIZE ∧ t.fld Reg.ENC_REGION_BASE = s.fld Reg.ENC_REGION_BASE ∧
        t.latched .encBusy = true ∧ t.enc = s.enc)))

/-- A DMA chain starts by command or by GO on an idle channel, and stops at once or at an access boundary by ABORT or timeout. With
the clocks running, and for GO and ABORT the page open to register writes. DMA_SUBMIT to an idle channel of an enabled page starts
a chain there at the head of its arguments, for the job's tenant; to a busy one, or to any when every channel is busy, it ends and
no channel changes. GO on an idle channel of an enabled page starts a chain at the channel's own head with submitter 64; on a busy
one it changes no channel and latches DMA.busy. ABORT of a busy channel asks the running descriptor to stop, and ends the chain at
once with ABORTED where none runs. The timeout does the same once DMA_TIMEOUT has passed and nothing before. (16_dma.md, R349,
R350, R418, Table 16.2) -/
def Obligations.DmaChainsStartAndStop : Prop :=
  ∀ (s : State) (c : Nat), s.pwr.clocksStopped = false →
    (∀ j : Nat, s.canStart j 0x30 = true →
      (field (s.job j).args 8 1 = c → c ≠ 255 → (s.dch c).busy = false → s.pageEnabled Blk.dma (c / 16) = true →
        Runs (.dmaSubmit j) s fun t =>
          (t.dch c).busy = true ∧ (t.dch c).cur = field (s.job j).args 16 8 ∧ (t.dch c).submitter = (s.job j).tenant ∧
          (t.dch c).job = some j ∧ (t.dch c).descs = 0 ∧ (t.dch c).desc = none ∧ (t.dch c).startedAt = s.now ∧
          (∀ d, d ≠ c → t.dch d = s.dch d) ∧ (t.job j).started = true) ∧
      (field (s.job j).args 8 1 = c → c ≠ 255 → (s.dch c).busy = true →
        Runs (.dmaSubmit j) s fun t => t.dma = s.dma ∧ Tab.has t.rng.jobs j = false) ∧
      (field (s.job j).args 8 1 = 255 → (∀ d, d < s.variant.dmaChannels → (s.dch d).busy = true) →
        Runs (.dmaSubmit j) s fun t => t.dma = s.dma ∧ Tab.has t.rng.jobs j = false)) ∧
    (c < s.variant.dmaChannels → s.pageEnabled Blk.dma (c / 16) = true → s.pageOpen Blk.dma (c / 16) = true →
      ((s.dch c).busy = false → Runs (.dmaGo c) s fun t =>
        (t.dch c).busy = true ∧ (t.dch c).cur = (s.dch c).head ∧ (t.dch c).submitter = 64 ∧ (t.dch c).job = none ∧
        (t.dch c).descs = 0 ∧ (t.dch c).startedAt = s.now ∧ t = s.setDch c (t.dch c)) ∧
      ((s.dch c).busy = true → Runs (.dmaGo c) s fun t => t.dma = s.dma ∧ t.latched .dmaBusy (c / 16) = true)) ∧
    ((s.dch c).busy = true →
      (s.pageOpen Blk.dma (c / 16) = true → (s.dch c).desc ≠ none → Runs (.dmaAbort c) s fun t => t = s.setDch c { s.dch c with abort := true }) ∧
      (s.pageOpen Blk.dma (c / 16) = true → (s.dch c).desc = none → Runs (.dmaAbort c) s fun t =>
        (t.dch c).busy = false ∧ (t.dch c).lastSt = Dst.aborted ∧ (∀ d, d ≠ c → t.dch d = s.dch d)) ∧
      ((s.dch c).startedAt + s.fld Reg.DMA_TIMEOUT_MS (c / 16) * Clk.ms ≤ s.now → (s.dch c).desc ≠ none →
        Runs (.dmaChainTimeout c) s fun t => t = s.setDch c { s.dch c with abort := true, timedOut := true })) ∧
    (s.now < (s.dch c).startedAt + s.fld Reg.DMA_TIMEOUT_MS (c / 16) * Clk.ms → Runs (.dmaChainTimeout c) s fun t => t = s)

/-- A fetched descriptor runs or ends the chain; COPY and FILL write their destination, COMPARE finds the first difference. With the
clocks running, a channel that can run and no armed injection in its page. A descriptor read from host memory without error that
no case of R341 refuses becomes the running one; a refused one ends the chain with BAD_DESC and latches DMA.desc, a failed read
ends it with ERR_SRC and latches DMA.resp. A good response to the next access of DST moves the progress on, an error on SRC is
recorded and latches DMA.resp. COPY and FILL without failing accesses write exactly their bytes to the destination, in host memory
or in DRAM that no HDM decoder exposes; COMPARE writes nothing and ends with the offset of the first difference, MISMATCH where
there is one. Write-back is not asked for here. (16_dma.md, R341, R342, R343, R345, R346, R350, Table 16.1, Table 16.2) -/
def Obligations.DmaDescriptorsRun : Prop :=
  ∀ (s : State) (c : Nat), s.pwr.clocksStopped = false → s.dmaRuns c = true →
    s.fld Reg.PG_ERR_INJECT_COUNT (pageOf Blk.dma (c / 16)) = 0 →
    (∀ d : Bytes, (s.dch c).desc = none → (addrSpace (s.dch c).cur).1 = false → (s.dch c).cur % 64 = 0 → d.length = 64 →
      (s.descBad (decide (0 < (s.dch c).submitter) && decide ((s.dch c).submitter < 64)) d = false →
        (Desc.touchesDevice d && s.dramGroupOff) = false → Runs (.descriptorFetch c d .ok) s fun t =>
          t.dch c = { s.dch c with desc := some d, remain := Desc.count d, progress := 0, fails := [], domainStop := false }) ∧
      (s.descBad (decide (0 < (s.dch c).submitter) && decide ((s.dch c).submitter < 64)) d = true →
        Runs (.descriptorFetch c d .ok) s fun t =>
          (t.dch c).busy = false ∧ (t.dch c).lastSt = Dst.badDesc ∧ t.latched .dmaDesc (c / 16) = true) ∧
      (Runs (.descriptorFetch c d .error) s fun t =>
        (t.dch c).busy = false ∧ (t.dch c).lastSt = Dst.errSrc ∧ t.latched .dmaResp (c / 16) = true)) ∧
    (∀ (d : Bytes) (n : Nat), (s.dch c).desc = some d → Desc.op d ≠ 2 →
      isAccess (addrSpace (Desc.src d)).2 (Desc.count d) (s.dch c).progress n = true →
      (Runs (.dmaAccessResponse c true (s.dch c).progress n .error) s fun t =>
        (t.dch c).fails = (s.dch c).fails ++ [⟨true, (s.dch c).progress, n, .error⟩] ∧ t.latched .dmaResp (c / 16) = true)) ∧
    (∀ (d : Bytes) (n : Nat), (s.dch c).desc = some d →
      isAccess (addrSpace (Desc.dst d)).2 (Desc.count d) (s.dch c).progress n = true →
      (Runs (.dmaAccessResponse c false (s.dch c).progress n .ok) s fun t =>
        t = s.setDch c { s.dch c with progress := (s.dch c).progress + n, remain := Desc.count d - ((s.dch c).progress + n) })) ∧
    (∀ d : Bytes, (s.dch c).desc = some d → (s.dch c).fails = [] → (s.dch c).domainStop = false → (s.dch c).abort = false →
      (s.dch c).job = none → Desc.wb d = false →
      (∀ data : Bytes, Desc.op d = 1 → data.length = Desc.count d → (addrSpace (Desc.src d)).1 = false →
        ((addrSpace (Desc.dst d)).1 = false → Runs (.dmaCopy c data) s fun t =>
          t.hst.mem = s.hst.mem.writeBytes (addrSpace (Desc.dst d)).2 data ∧ t.mem = s.mem ∧ (t.dch c).lastSt = Dst.ok ∧
          (t.dch c).descs = ((s.dch c).descs + 1) % 4294967296 ∧ (t.dch c).busy = (Desc.next d != 0)) ∧
        ((addrSpace (Desc.dst d)).1 = true → s.mem.dram.wf = true → (s.hst.hdm = [] ∨ s.hostRegionEnd ≤ (addrSpace (Desc.dst d)).2) →
          s.dramGroupDead = false → Runs (.dmaCopy c data) s fun t =>
            Stored s t (addrSpace (Desc.dst d)).2 data ∧ t.hst.mem = s.hst.mem ∧ (t.dch c).lastSt = Dst.ok)) ∧
      (Desc.op d = 2 → (addrSpace (Desc.dst d)).1 = false → Runs (.dmaFill c) s fun t =>
        t.hst.mem = s.hst.mem.writeBytes (addrSpace (Desc.dst d)).2 ((List.range (Desc.count d)).map (Desc.fillByte d)) ∧
        t.mem = s.mem ∧ (t.dch c).lastSt = Dst.ok ∧ (t.dch c).remain = 0) ∧
      (∀ a b : Bytes, Desc.op d = 3 → a.length = Desc.count d → b.length = Desc.count d → (addrSpace (Desc.src d)).1 = false →
        (addrSpace (Desc.dst d)).1 = false → Runs (.dmaCompare c a b) s fun t =>
          t.hst.mem = s.hst.mem ∧ t.mem = s.mem ∧ (t.dch c).offset = firstDiff a b ∧
          (t.dch c).lastSt = (if a = b then Dst.ok else Dst.mismatch)))

/-- A free core takes the first ready tile row pair and opens its picture; a coded row pair becomes the reference and frees its core.
With the clocks running. A core that is online, idle and has its image takes the row pair that R214 picks: it is busy with that
tile and row pair, the pair stays in the tile's input until it is coded, a picture in coding goes on and with row pair 0 a new one
opens for its frame with the budget of R216 and 16 bytes used. A coded row pair leaves the input, its core is idle and has counted
it, its reconstruction goes to the tile's reference, the drive stage's credit returns, and while row pairs of the picture remain
its bytes are added to those used; where no HDM decoder exposes the region and the rows lie in one granule, device memory then
holds the reconstruction there and is otherwise as before. The page's injections are not armed, every waiting row pair's tag is
good and the core's link frames have left it. (10_mezzanine_encoding.md, R214, R216, R222, R225, R226, R231) -/
def Obligations.MezzanineRowPairs : Prop :=
  ∀ (s : State) (c : Nat), s.pwr.clocksStopped = false → s.fld Reg.PG_ERR_INJECT_COUNT (pageOf Blk.mze (c / 8)) = 0 →
    (∀ r : ReadyRow, s.mzeOnline c = true → (s.mzc c).busy = false → s.pwr.critStop = false → s.escOk 3 c = true →
      s.rowTags = s → (s.swin c).wait = [] → s.readyRow = some r → Tile.id r.e = r.rp.tile →
      (∀ p : MzePic, (s.mzt r.rp.tile).pic = some p → Runs (.mzeRowPairStart c) s fun t =>
        (t.mzc c).busy = true ∧ (t.mzc c).tile = r.rp.tile ∧ (t.mzc c).j = r.rp.j ∧ (t.mzc c).startedAt = s.now ∧
        (t.mzt r.rp.tile).inq = (s.mzt r.rp.tile).inq ∧ (t.mzt r.rp.tile).pic = some p ∧
        ((p.profile = 0 ∨ p.intraAll = true ∨ (s.mzt r.rp.tile).due p r.rp.j = true) → (t.mzc c).intra = true) ∧
        (∀ d, d ≠ c → t.mzc d = s.mzc d)) ∧
      ((s.mzt r.rp.tile).pic = none → r.rp.j = 0 → s.fld Reg.PG_ERR_INJECT_COUNT (pageOf Blk.mze 0) = 0 →
        Runs (.mzeRowPairStart c) s fun t =>
          (t.mzc c).busy = true ∧ (t.mzc c).tile = r.rp.tile ∧ (t.mzc c).j = 0 ∧
          ((t.mzt r.rp.tile).pic.map fun p => (p.frame, p.used, p.budget, p.intraAll)) =
            some (r.rp.frame, 16, Img.budget r.im r.e, s.intraAll r.e r.rp.frame))) ∧
    (∀ (x : MzeTile) (p : MzePic) (rp : TileRp) (rest : List TileRp), (s.mzc c).busy = true → s.mzt (s.mzc c).tile = x →
      x.pic = some p → x.inq = rp :: rest →
      Runs (.mzeRowPairDone c) s fun t =>
        (t.mzc c).busy = false ∧ (t.mzc c).rps = ((s.mzc c).rps + 1) % 4294967296 ∧
        (t.mzt (s.mzc c).tile).inq = rest ∧
        (∀ a : Nat, let bs := (s.codeRow (s.mzc c) p rp).2.1.flatten.flatMap fun v => leBytes v 2
          (s.codeRow (s.mzc c) p rp).2.2.1 ≠ none → p.next + 1 ≠ p.h2 → s.hst.hdm = [] → s.mem.dram.wf = true →
          s.refPieces x 2 (refOff (8 * p.w8) p.emitters rp.j) bs.length = [(a, bs.length)] → Stored s t a bs) ∧
        t.cnv.drvReturned = (s.cnv.drvReturned + 1) % 18446744073709551616 ∧
        (p.next + 1 ≠ p.h2 → ((t.mzt (s.mzc c).tile).pic.map fun q => (q.used, q.next)) =
          some (p.used + (s.codeRow (s.mzc c) p rp).1.length, p.next + 1)))

/-- TILE_REFRESH joins the tile's next frame; a core reset clears an offline core's fault; the reference region moves only unlit. With
the clocks running and, for the register commands, the page open to register writes and no reserved bit written. TILE_REFRESH that
may start, for a lit tile of the active image, is held with the tile until its next frame opens, for all row pairs or for its
range; for a tile that is not lit it ends and nothing is held; for one that the image lacks, or without an active image, it ends.
MZE_CORE_RESET of a core that is OFFLINE and idle clears its fault and keeps it OFFLINE, and of another one changes nothing. A
write of MZE_REF_BASE or SIZE without an active calibre takes the value's 24 bits; with one it changes neither and latches
MZE.busy. (10_mezzanine_encoding.md, R227, R232, R234) -/
def Obligations.MezzanineRefreshCoresAndRegion : Prop :=
  ∀ s : State, s.pwr.clocksStopped = false →
    (∀ j tile : Nat, s.canStart j 0x40 = true → tile = bits (field (s.job j).args 8 2) 13 0 →
      (∀ im e : Bytes, s.activeImg = some im → Img.tile im tile = some e →
        (s.lit e = true → bit (field (s.job j).args 10 1) 0 = true → Runs (.tileRefresh j) s fun t =>
          t.mzt tile = { s.mzt tile with refreshAll := true, refreshJobs := (s.mzt tile).refreshJobs ++ [j] } ∧
          (t.job j).started = true) ∧
        (s.lit e = true → bit (field (s.job j).args 10 1) 0 = false → field (s.job j).args 14 2 ≠ 0 →
          field (s.job j).args 12 2 + field (s.job j).args 14 2 ≤ Tile.rps e → Runs (.tileRefresh j) s fun t =>
          t.mzt tile = { s.mzt tile with
            refresh := (s.mzt tile).refresh ++ [(field (s.job j).args 12 2, field (s.job j).args 14 2)]
            refreshJobs := (s.mzt tile).refreshJobs ++ [j] } ∧ (t.job j).started = true) ∧
        (s.lit e = false → Runs (.tileRefresh j) s fun t => t.mze = s.mze ∧ Tab.has t.rng.jobs j = false)) ∧
      ((∀ im, s.activeImg = some im → Img.tile im tile = none) → Runs (.tileRefresh j) s fun t =>
        t.mze = s.mze ∧ Tab.has t.rng.jobs j = false)) ∧
    (∀ c : Nat, c < s.variant.mzeCores → s.pageOpen Blk.mze (c / 8) = true →
      ((s.mzc c).offline = true → (s.mzc c).busy = false → Runs (.mzeCoreReset c) s fun t =>
        t.mzc c = { s.mzc c with faulted := false } ∧ t.mze.tiles = s.mze.tiles) ∧
      ((s.mzc c).offline = false ∨ (s.mzc c).busy = true → Runs (.mzeCoreReset c) s fun t => t = s)) ∧
    (∀ v : Word, s.pageOpen Blk.mze 0 = true → rsvBits v 0xFFFFFF = 0 →
      (s.clb.activeValid = false →
        (Runs (.mzeRefRegionWrite 0 v) s fun t => t.fld Reg.MZE_REF_BASE = v.toNat % 16777216 ∧
          t.fld Reg.MZE_REF_SIZE = s.fld Reg.MZE_REF_SIZE ∧ t.mze = s.mze) ∧
        (Runs (.mzeRefRegionWrite 1 v) s fun t => t.fld Reg.MZE_REF_SIZE = v.toNat % 16777216 ∧
          t.fld Reg.MZE_REF_BASE = s.fld Reg.MZE_REF_BASE ∧ t.mze = s.mze)) ∧
      (∀ reg : Nat, s.clb.activeValid = true → Runs (.mzeRefRegionWrite reg v) s fun t =>
        t.fld Reg.MZE_REF_SIZE = s.fld Reg.MZE_REF_SIZE ∧ t.fld Reg.MZE_REF_BASE = s.fld Reg.MZE_REF_BASE ∧
        t.latched .mzeBusy = true ∧ t.mze = s.mze))

/-- ALLOC, SHARE, RELEASE, FREE and HANDOVER move buffers, counts and shares as Table 12.2 says; a rejected one is only counted. With
the clocks running, the pool's page enabled and no injection armed there, for an owner of the variant while no command waits in a
window. ALLOC from the on-die pool that R257 admits, with a sound list head, makes the head a buffer of the owner, counted for it
and out of the free list; one it does not allow changes nothing. SHARE adds shares to the buffer and to what the holder holds,
RELEASE takes one of each, FREE of a buffer without shares makes it free and one with shares pending, HANDOVER moves the buffer
and the count to the new owner. Each that its check of Table 12.3 rejects leaves the pool alone, counts in BPM_MISUSE and latches
BPM.misuse. A command that waits in a window, alone or with those of other windows, sets RSP_DONE. (12_buffer_pool_and_switch.md,
R249, R252, R254, R255, R257, R258, Table 12.2, Table 12.3) -/
def Obligations.PoolCommands : Prop :=
  ∀ s : State, s.pwr.clocksStopped = false → s.pageEnabled Blk.bpm 0 = true →
    s.fld Reg.PG_ERR_INJECT_COUNT (pageOf Blk.bpm 0) = 0 →
    (∀ o : Nat, validOwner s.variant o = true → s.windowCalls = [] →
      (s.fld Reg.BPM_QUOTA_POOL o = 0 →
        (s.allocTest o 0 = Pst.ok → (s.linkOf s.pool.odie.head).2 = true → (s.buf s.pool.odie.head).st = 0 →
          s.pool.odie.first ≤ s.pool.odie.head → s.pool.odie.head < s.pool.odie.first + s.pool.odie.total →
          (s.linkOf s.pool.odie.head).1 = 4294967295 ∨ (s.pool.odie.first ≤ (s.linkOf s.pool.odie.head).1 ∧
            (s.linkOf s.pool.odie.head).1 < s.pool.odie.first + s.pool.odie.total) →
          Runs (.alloc (.owner o)) s fun t =>
            t.buf s.pool.odie.head = ⟨1, o, 0⟩ ∧ (t.own o).named = (s.own o).named + 1 ∧ (t.own o).held = (s.own o).held ∧
            t.pool.odie.free = s.pool.odie.free - 1 ∧ t.pool.odie.alloc = s.pool.odie.alloc + 1 ∧
            t.pool.odie.head = (s.linkOf s.pool.odie.head).1 ∧ (∀ b, b ≠ s.pool.odie.head → t.buf b = s.buf b)) ∧
        (s.allocTest o 0 ≠ Pst.ok → Runs (.alloc (.owner o)) s fun t => t = s)) ∧
      (∀ b n h : Nat,
        (s.shareTest o b n h = Pst.ok → Runs (.share (.owner o) b n h) s fun t =>
          t.buf b = { s.buf b with shares := (s.buf b).shares + n } ∧ (t.own h).held = (s.own h).held + n) ∧
        (s.shareTest o b n h ≠ Pst.ok → Runs (.share (.owner o) b n h) s fun t =>
          t.pool = s.pool ∧ t.fld Reg.BPM_MISUSE = (s.fld Reg.BPM_MISUSE + 1) % 4294967296 ∧ t.latched .bpmMisuse = true) ∧
        (s.releaseTest o b = Pst.ok → (s.own o).held < 4294967296 →
          (s.buf b).st = 1 ∨ 1 < (s.buf b).shares → Runs (.release (.owner o) b) s fun t =>
            t.buf b = { s.buf b with shares := (s.buf b).shares - 1 } ∧ (t.own o).held = (s.own o).held - 1) ∧
        (s.releaseTest o b = Pst.ok → (s.buf b).st = 2 → (s.buf b).shares = 1 → Runs (.release (.owner o) b) s fun t =>
          (t.buf b).st = 0 ∧ (t.own o).held = (s.own o).held - 1 ∧
          (t.poolOf (bufPool b)).free = (s.poolOf (bufPool b)).free + 1) ∧
        (s.freeTest o b = Pst.ok → (s.buf b).shares = 0 → Runs (.free (.owner o) b) s fun t =>
          (t.buf b).st = 0 ∧ (t.own o).named = (s.own o).named - 1 ∧
          (t.poolOf (bufPool b)).free = (s.poolOf (bufPool b)).free + 1 ∧ (t.poolOf (bufPool b)).head = b) ∧
        (s.freeTest o b = Pst.ok → (s.buf b).shares ≠ 0 → Runs (.free (.owner o) b) s fun t =>
          t.buf b = { s.buf b with st := 2 } ∧ (t.own o).named = (s.own o).named - 1 ∧
          (t.poolOf (bufPool b)).pending = (s.poolOf (bufPool b)).pending + 1) ∧
        (s.freeTest o b ≠ Pst.ok → Runs (.free (.owner o) b) s fun t =>
          t.pool = s.pool ∧ t.fld Reg.BPM_MISUSE = (s.fld Reg.BPM_MISUSE + 1) % 4294967296 ∧ t.latched .bpmMisuse = true) ∧
        (s.handoverTest o b h = Pst.ok → h ≠ o → Runs (.handover (.owner o) b h) s fun t =>
          t.buf b = { s.buf b with owner := h } ∧ (t.own o).named = (s.own o).named - 1 ∧
          (t.own h).named = (s.own h).named + 1))) ∧
    (∀ w b n h : Nat, hasWindow s.variant w = true → s.flag Reg.BPM_RSP_DONE w = false →
      (s.fld Reg.BPM_CMD_OP w = 1 → Runs (.alloc (.window w)) s fun t => t.flag Reg.BPM_RSP_DONE w = true) ∧
      (s.fld Reg.BPM_CMD_OP w = 2 → Runs (.share (.window w) b n h) s fun t => t.flag Reg.BPM_RSP_DONE w = true) ∧
      (s.fld Reg.BPM_CMD_OP w = 3 → Runs (.release (.window w) b) s fun t => t.flag Reg.BPM_RSP_DONE w = true) ∧
      (s.fld Reg.BPM_CMD_OP w = 4 → Runs (.free (.window w) b) s fun t => t.flag Reg.BPM_RSP_DONE w = true) ∧
      (s.fld Reg.BPM_CMD_OP w = 5 → Runs (.handover (.window w) b h) s fun t => t.flag Reg.BPM_RSP_DONE w = true))

/-- Pool registers change as R248 and R253 allow, a rebuild restores the list, and BPM_FORCE sets a buffer's state. With the clocks
running and, for the register commands, the page open to register writes and no reserved bit written. A DRAM pool base or count is
taken while no buffer of it is in use and the region is device-private, and makes the whole pool free; otherwise the pool stays
and BPM.cfg latches. The end of its build sets DPOOL_READY. A quota write to an owner of the variant is always taken; a minimum is
taken where the sum of its pool's minima fits or it does not grow. A list rebuild that ends counts as free exactly the buffers
whose state says so. FORCE_FREE and FORCE_OWNER on a buffer in a pool make it free or the owner's, count the owner's buffers anew
and void the promise. (12_buffer_pool_and_switch.md, R248, R250, R251, R252, R253, R259) -/
def Obligations.PoolConfigurationAndForce : Prop :=
  ∀ s : State, s.pwr.clocksStopped = false →
    s.pageOpen Blk.bpm 0 = true →
    (∀ v : Word,
      (rsvBits v 0xFFFFFF = 0 → s.pool.dram.alloc = 0 → s.pool.dram.pending = 0 → s.fld Reg.BPM_DPOOL_COUNT % 256 = 0 →
        s.fld Reg.BPM_DPOOL_COUNT ≤ 16777216 →
        s.inPrivate (v.toNat % 16777216 * 65536) (s.fld Reg.BPM_DPOOL_COUNT * 264) = true →
        Runs (.dpoolConfigWrite 0 v) s fun t => t.fld Reg.BPM_DPOOL_BASE = v.toNat % 16777216 ∧
          t.pool.dram.total = s.fld Reg.BPM_DPOOL_COUNT ∧ t.pool.dram.free = s.fld Reg.BPM_DPOOL_COUNT ∧
          t.pool.odie = s.pool.odie) ∧
      (rsvBits v 0x1FFFFFF = 0 → s.pool.dram.alloc = 0 → s.pool.dram.pending = 0 → v.toNat % 33554432 % 256 = 0 → v.toNat % 33554432 ≤ 16777216 →
        s.inPrivate (s.fld Reg.BPM_DPOOL_BASE * 65536) (v.toNat % 33554432 * 264) = true →
        Runs (.dpoolConfigWrite 1 v) s fun t => t.fld Reg.BPM_DPOOL_COUNT = v.toNat % 33554432 ∧
          t.pool.dram.total = v.toNat % 33554432 ∧ t.pool.dram.free = v.toNat % 33554432 ∧
          (∀ b, b < 196608 → t.buf b = s.buf b)) ∧
      (∀ reg, rsvBits v (if reg = 0 then 0xFFFFFF else 0x1FFFFFF) = 0 → s.pool.dram.alloc ≠ 0 ∨ s.pool.dram.pending ≠ 0 → Runs (.dpoolConfigWrite reg v) s fun t =>
        t.pool = s.pool ∧ t.latched .bpmCfg = true)) ∧
    (Runs .dpoolRebuildDone s fun t => t = s.setFld Reg.BPM_STATUS_DPOOL_READY 0 1) ∧
    (∀ (o : Nat) (v : Word), validOwner s.variant o = true →
      (rsvBits v 0x7FFFFFF = 0 → Runs (.quotaWrite o v) s fun t => t.fld Reg.BPM_QUOTA_QUOTA o = v.toNat % 33554432 ∧
        t.fld Reg.BPM_QUOTA_POOL o = v.toNat / 33554432 % 4 ∧ t.pool = s.pool) ∧
      (rsvBits v 0x1FFFFFF = 0 → v.toNat % 33554432 ≤ s.fld Reg.BPM_MIN o → o ≠ 3 → o ≠ 4 → o < 64 → Runs (.minWrite o v) s fun t =>
        t = s.setFld Reg.BPM_MIN o (v.toNat % 33554432))) ∧
    (∀ x : Nat, x < 2 → (s.poolOf x).rebuilding = true → Runs (.listRebuildDone x) s fun t =>
      (t.poolOf x).rebuilding = false ∧ (t.poolOf x).total = (s.poolOf x).total ∧
      (t.poolOf x).free = (s.poolOf x).total -
        ((s.pool.bufs.filter fun e => bufPool e.1 == x).filter fun e => e.2.st != 0).length) ∧
    (∀ v : Word, rsvBits v 0x7F03 = 0 → bit v.toNat 0 = true → s.bufOk (s.fld Reg.BPM_FORCE_BUF) = true →
      (bit v.toNat 1 = false → (s.buf (s.fld Reg.BPM_FORCE_BUF)).st ≠ 0 → Runs (.forceFree v) s fun t =>
        (t.buf (s.fld Reg.BPM_FORCE_BUF)).st = 0 ∧ t.flt.promiseVoid = true) ∧
      (bit v.toNat 1 = true → validOwner s.variant (v.toNat / 256 % 128) = true → Runs (.forceOwner v) s fun t =>
        t.buf (s.fld Reg.BPM_FORCE_BUF) = ⟨1, v.toNat / 256 % 128, 0⟩ ∧ t.flt.promiseVoid = true ∧
        (t.own (v.toNat / 256 % 128)).named =
          (t.pool.bufs.filter fun e => e.2.st == 1 && e.2.owner == v.toNat / 256 % 128).length))

/-- A submitted link frame queues with its buffers; a lone frame for one port crosses the switch in one cell time into its leaf. With
the clocks running, the switch's and the port's pages enabled. LINK_FRAME_SUBMIT moves the oldest waiting frame of an input, once
no earlier fragment of its picture waits, to the input's queue, with the buffers that the pool grants where it has none.
CELL_MATCH, with no injection armed in the switch's page or the calibre's: a one-cell open frame in its own buffer at the only
input that holds anything, directed to a port in DATA that accepts and is under its quota, leaves the input and joins the port's
queue of its subscriber and class. (12_buffer_pool_and_switch.md, R207, R260, R261, R262, R263, R268) -/
def Obligations.SwitchCellsCross : Prop :=
  ∀ (s : State) (i : Nat) (f : LinkFrame), s.pwr.clocksStopped = false → s.pageEnabled Blk.swc 0 = true → i < 46 →
    (∀ rest : List LinkFrame, (s.swin i).wait = f :: rest → (i < 32 → s.earlierFrag f = false) →
      (f.bufs ≠ [] → Runs (.linkFrameSubmit i) s fun t =>
        t.swin i = { s.swin i with wait := rest, queue := (s.swin i).queue ++ [f] } ∧ t.pool = s.pool) ∧
      (∀ bs : List Nat, f.bufs = [] → (s.poolAllocN (if i < 32 then 1 else 4) f.nbuf []).1 = some bs →
        Runs (.linkFrameSubmit i) s fun t =>
          t.swin i = { s.swin i with wait := rest, queue := (s.swin i).queue ++ [{ f with bufs := bs }] } ∧
          t.pool = (s.poolAllocN (if i < 32 then 1 else 4) f.nbuf []).2.pool)) ∧
    (∀ b o : Nat, i < 41 → o < s.variant.ports → s.swc.ins = [(i, { queue := [f] })] → f.isOpen = true → f.direct = some o →
      f.bufs = [b] → 0 < f.len → f.len ≤ 128 → s.pageEnabled Blk.sch o = true → s.accepts f o = true →
      s.fld Reg.PG_ERR_INJECT_COUNT (pageOf Blk.swc 0) = 0 → s.fld Reg.PG_ERR_INJECT_COUNT (pageOf Blk.clb 0) = 0 →
      Runs .cellMatch s fun t =>
        (t.swin i).queue = [] ∧ (t.swin i).staged = false ∧
        (t.sport o).leaf (leafKey f.sub f.cls) = (s.sport o).leaf (leafKey f.sub f.cls) ++ [f] ∧
        (t.swout o).audIn = ((s.swout o).audIn + 1) % 18446744073709551616)

/-- A due port mark starts the next port frame; a tile closes once; in its beat a lit tile's oldest link frame leaves with its
position in DEST. With the clocks running, winding over and no injection armed in the port's scheduler page. A port mark that is
due starts the port frame that comes next, the current frame's for the first one: SCH_PFRAME shows it, the bank, image and offset
are those of its frame, nothing of it is sent or closed and the beat table is sound. A mark that is not due changes nothing.
TILE_CLOSE of a tile whose last beat on the port has ended closes it and counts its queued frames in SCH_WAIT_FIT; a second one
changes nothing. BEAT_TABLE_PARITY of a running port marks its table and latches SCH.table. With the clocks running, a port in
DATA whose port frame runs with a sound beat table, at the slot that its lane has come to, from the first free one on, in a tile
beat, no injection armed in its page and sampling off. Where the tile is lit on the port and not closed there and its frame of the
current port frame is queued, fits the beat and has its trunk credits, that link frame leaves the queue, is sent with DEST
rewritten to the tile's position, and the first free slot lies behind it and the overhead; its payload extends what has been sent
in full. At a slot before the first free one nothing happens. (13_beats_and_scheduling.md, R271, R272, R277, R286, R276, R300) -/
def Obligations.PortFramesAndDepartures : Prop :=
  (∀ (s : State) (p : Nat), s.pwr.clocksStopped = false → s.wound = true → p < s.variant.ports →
    s.fld Reg.PG_ERR_INJECT_COUNT (pageOf Blk.sch p) = 0 →
    (∀ b im, s.tagOf (s.nextPframe p) = some (b, im) → frameLe (s.nextPframe p) s.frameCount = true →
      (s.markTime (s.nextPframe p) + Dir.offset (Img.dir im p) * Clk.cclk ≤ s.now → Runs (.portMark p) s fun t =>
        t.fld Reg.SCH_PFRAME p = s.nextPframe p % 4294967296 ∧ (t.sport p).running = true ∧ (t.sport p).bank = some b ∧
        (t.sport p).image = im ∧ (t.sport p).offset = Dir.offset (Img.dir im p) ∧ (t.sport p).markAt = s.now ∧
        (t.sport p).sent = [] ∧ (t.sport p).closed = [] ∧ (t.sport p).tableBad = false) ∧
      (s.now < s.markTime (s.nextPframe p) + Dir.offset (Img.dir im p) * Clk.cclk → Runs (.portMark p) s fun t => t = s)) ∧
    (∀ (tile : Nat) (b : Bytes), (s.sport p).running = true → (Img.tileBeats (s.sport p).image p tile).getLast? = some b →
      Beat.fin b ≤ s.slotAt p s.now →
      ((s.sport p).closed.contains tile = false → (s.sport p).bank.isSome = true → Runs (.tileClose p tile) s fun t =>
        (t.sport p).closed = tile :: (s.sport p).closed ∧ (t.sport p).tileQ = (s.sport p).tileQ ∧
        t.fld Reg.SCH_WAIT_FIT p = (s.fld Reg.SCH_WAIT_FIT p +
          ((s.sport p).tileQ.filter fun f => f.tile == tile && f.frame == s.fld Reg.SCH_PFRAME p).length) % 4294967296) ∧
      ((s.sport p).closed.contains tile = true → Runs (.tileClose p tile) s fun t => t = s)) ∧
    ((s.sport p).running = true → Runs (.beatTableParity p) s fun t =>
      t.sport p = { s.sport p with tableBad := true } ∧ t.latched .schTable p = true)) ∧
  (∀ (s : State) (p slot : Nat), s.pwr.clocksStopped = false → p < s.variant.ports → (s.sport p).running = true →
    s.inData p = true → s.fld Reg.PG_ERR_INJECT_COUNT (pageOf Blk.sch p) = 0 →
    (slot < (s.sport p).free → Runs (.linkFrameDepart p slot) s fun t => t = s) ∧
    (∀ (beat e : Bytes) (f : LinkFrame), (s.sport p).free ≤ slot → slot = s.slotAt p s.now → (s.sport p).bank.isSome = true →
      (Img.beats (s.sport p).image p).find? (fun b => decide (Beat.start b ≤ slot) && decide (slot < Beat.fin b)) = some beat →
      Beat.kind beat = 0 → Img.tile (s.sport p).image (Beat.tile beat) = some e →
      (s.sport p).dark.contains (Beat.tile beat) = false → (s.sport p).dark.contains (Beat.tile beat + 65536) = false →
      (s.sport p).closed.contains (Beat.tile beat) = false → (s.sport p).tableBad = false → s.fld Reg.SWC_PORT_SMP_N p = 0 →
      (s.sport p).tileQ.find? (fun g => g.tile == Beat.tile beat && g.frame == s.fld Reg.SCH_PFRAME p) = some f →
      slot + f.len + (s.sport p).ovh p ≤ Beat.fin beat → s.credited p f = true →
      Runs (.linkFrameDepart p slot) s fun t =>
        (t.sport p).tileQ = (s.sport p).tileQ.eraseP (fun g => g.tile == f.tile && g.frame == f.frame) ∧
        (t.sport p).lastTx = withDest f.data (Img.posOn (s.sport p).image e p) ∧
        (t.sport p).free = slot + f.len + (s.sport p).ovh p ∧ (t.sport p).leaves = (s.sport p).leaves ∧
        (f.frag = Tab.get 0 (s.sport p).sent f.tile → Tab.get 0 (t.sport p).sent f.tile = f.frag + f.payload)))

/-- A shaper's balance fills at its rate up to its burst; RATE, BURST and SHAPE_EN settle it first, and FORGIVE clears a debt. With
the clocks running, the port's page open to register writes and no reserved bit written, for the shaper that SCH_SUB_SEL of a port
selects. A RATE write stores the rate's 24 bits after the balance has been filled at the old rate, no further than the burst;
while the shaper is disabled the balance stays. A BURST write of an enabled shaper fills first and then cuts the balance to the
new burst. FORGIVE fills an enabled shaper and raises a negative balance to 0. SHAPE_EN set makes the balance the whole burst and,
cleared, fills once more and stops it; both store the weight of a subscriber. No other port's scheduler changes.
(13_beats_and_scheduling.md, R282, R283) -/
def Obligations.ShapersFillAndForgive : Prop :=
  ∀ (s : State) (p h : Nat) (q : Shaper) (v : Word), s.pwr.clocksStopped = false → p < s.variant.ports → s.pageOpen Blk.sch p = true →
    h = s.fld Reg.SCH_SUB_SEL_SUB p → q = (s.sport p).shaper h →
    (q.enable = true →
      (rsvBits v 0xFFFFFF = 0 → Runs (.shaperRateWrite p v) s fun t =>
        ((t.sport p).shaper h).rate = v.toNat % 16777216 ∧ ((t.sport p).shaper h).last = s.now / Clk.cclk ∧
        ((t.sport p).shaper h).bal = min (q.bal + ((q.rate * (s.now / Clk.cclk - q.last) : Nat) : Int)) ((q.burst * 9600000 : Nat) : Int) ∧
        (∀ r, r ≠ p → t.sport r = s.sport r)) ∧
      (rsvBits v 0xFFFFFF = 0 → Runs (.shaperBurstWrite p v) s fun t =>
        ((t.sport p).shaper h).burst = v.toNat % 16777216 ∧
        ((t.sport p).shaper h).bal = min (min (q.bal + ((q.rate * (s.now / Clk.cclk - q.last) : Nat) : Int))
          ((q.burst * 9600000 : Nat) : Int)) ((v.toNat % 16777216 * 9600000 : Nat) : Int)) ∧
      (Runs (.shaperForgive p) s fun t =>
        ((t.sport p).shaper h).bal = max 0 (min (q.bal + ((q.rate * (s.now / Clk.cclk - q.last) : Nat) : Int))
          ((q.burst * 9600000 : Nat) : Int)) ∧ ((t.sport p).shaper h).rate = q.rate) ∧
      (rsvBits v 0x1FF = 0 → bit v.toNat 8 = false → Runs (.shaperDisable p v) s fun t =>
        ((t.sport p).shaper h).enable = false ∧
        ((t.sport p).shaper h).bal = min (q.bal + ((q.rate * (s.now / Clk.cclk - q.last) : Nat) : Int)) ((q.burst * 9600000 : Nat) : Int))) ∧
    (q.enable = false →
      (rsvBits v 0xFFFFFF = 0 → Runs (.shaperRateWrite p v) s fun t => (t.sport p).shaper h = { q with rate := v.toNat % 16777216 }) ∧
      (rsvBits v 0x1FF = 0 → bit v.toNat 8 = true → Runs (.shaperEnable p v) s fun t =>
        ((t.sport p).shaper h).enable = true ∧ ((t.sport p).shaper h).bal = ((q.burst * 9600000 : Nat) : Int) ∧
        ((t.sport p).shaper h).last = s.now / Clk.cclk ∧ (h ≠ 257 → (t.sport p).weightOf h = v.toNat % 256) ∧
        (∀ r, r ≠ p → t.sport r = s.sport r)))

/-- A port trains through the steps of Table 14.4: start, alignment, collection, confirmation, echoes, DATA. With the clocks running.
A DISABLED port with settings and TEST 0 enters TRAIN with them and no receivers, in step 2 unless it started more than eight
times in the last second. 10 ms without alignment bring DOWN, count in PLK_TRAIN_FAIL and latch PLK.train; 100 ms later it trains
again. A set whose CRC8 is wrong changes nothing. A TYPE 2 records what its position offers, on a trunk with markers at most 200
ns apart; the last one, or 4 ms without a new one, fixes each position's version as the highest common one and leads to step 4 or
5. A matching TYPE 4 confirms; a try without one is repeated, and three leave version 0. An echo adds a round trip, of at most 16.
The end of training enters DATA, counts in PLK_TRAINS and asks every receiver with a version for its record. (14_panel_link.md,
R296, R297, R298, R309, Table 14.3, Table 14.4) -/
def Obligations.PortsTrain : Prop :=
  ∀ (s : State) (p : Nat), s.pwr.clocksStopped = false →
    (∀ b v : Nat, s.wound = true → (s.port p).state = 0 → s.portCfg p = some (b, v) → s.flag Reg.PLK_PORT_CTL_TEST p = false →
      Runs (.portTrainStart p) s fun t =>
        (t.port p).state = 2 ∧ (t.port p).lane = b ∧ (t.port p).vers = v ∧ (t.port p).receivers = 0 ∧ (t.port p).held = 0 ∧
        (t.port p).step =
          (if ((s.port p).starts.filter fun u => decide (s.now < u + 1000 * Clk.ms)).length ≤ 8 then 2 else 1)) ∧
    ((s.port p).state = 2 → (s.port p).step = 2 →
      ((s.port p).stepAt + 10 * Clk.ms ≤ s.now → Runs (.trainAlignTimeout p) s fun t =>
        (t.port p).state = 1 ∧ (t.port p).downAt = s.now ∧
        t.fld Reg.PLK_TRAIN_FAIL p = (s.fld Reg.PLK_TRAIN_FAIL p + 1) % 4294967296 ∧ t.latched .plkTrain p = true) ∧
      (s.now < (s.port p).stepAt + 10 * Clk.ms → Runs (.trainAlignTimeout p) s fun t => t = s)) ∧
    ((s.port p).state = 1 → (s.port p).downAt + 100 * Clk.ms ≤ s.now → Runs (.trainRetryTimer p) s fun t =>
      (t.port p).state = 2 ∧ (t.port p).receivers = 0) ∧
    (∀ q v : Nat, (s.port p).state = 2 → q < 256 →
      (∀ x : TrainSet, x.pos = q → x.crc = trainCheck x →
        ((s.port p).step = 2 ∨ (s.port p).step = 3 → x.type = 2 → s.skewOf p ≤ 200 →
          (bit x.arg0 0 = false → Runs (.tsType2Received p x.pos x.vers ⟨x.type, x.arg0, x.crc⟩) s fun t =>
            (t.port p).step = 3 ∧ (t.port p).receivers = max (s.port p).receivers (q + 1) ∧
            (t.posn p q).offered = x.vers % 16) ∧
          (bit x.arg0 0 = true → Runs (.tsType2Received p x.pos x.vers ⟨x.type, x.arg0, x.crc⟩) s fun t =>
            (t.port p).receivers = max (s.port p).receivers (q + 1) ∧
            (t.posn p q).version = commonVersion (s.port p).vers (x.vers % 16) ∧
            ((t.port p).step = 4 ∨ (t.port p).step = 5))) ∧
        ((s.port p).step = 4 → (s.port p).confirm = q → x.type = 4 → x.vers = 2 ^ (s.posn p q).version →
          Runs (.tsType4Received p x.pos ⟨x.vers, ⟨x.type, x.arg0, x.crc⟩⟩) s fun t =>
            (t.posn p q).confirmed = true ∧ (t.posn p q).version = (s.posn p q).version)) ∧
      (∀ x : TrainSet, x.crc ≠ trainCheck x →
        (Runs (.tsType2Received p x.pos x.vers ⟨x.type, x.arg0, x.crc⟩) s fun t => t = s) ∧ (Runs (.tsType4Received p x.pos ⟨x.vers, ⟨x.type, x.arg0, x.crc⟩⟩) s fun t => t = s)) ∧
      ((s.port p).step = 3 → (s.port p).stepAt + 4 * Clk.ms ≤ s.now → Tab.has (s.port p).pos q = true →
        Runs (.positionCollectTimeout p) s fun t =>
          (t.posn p q).version = commonVersion (s.port p).vers (s.posn p q).offered ∧
          ((t.port p).step = 4 ∨ (t.port p).step = 5)) ∧
      ((s.port p).step = 4 → (s.port p).confirm = q →
        ((s.port p).stepAt + Clk.ms ≤ s.now →
          ((s.port p).tries < 2 → Runs (.versionConfirmTimeout p q) s fun t =>
            t = s.setPort p (t.port p) ∧ (t.port p).tries = (s.port p).tries + 1 ∧ (t.port p).stepAt = s.now ∧
            (t.port p).tx = tsSet 3 q (2 ^ (s.posn p q).version) ∧ (t.port p).pos = (s.port p).pos) ∧
          (2 ≤ (s.port p).tries → Runs (.versionConfirmTimeout p q) s fun t => (t.posn p q).version = 0))) ∧
      ((s.port p).step = 5 → (s.posn p q).version ≠ 0 →
        ((s.posn p q).trips.length < 16 → Runs (.echoReceived p q v) s fun t =>
          t.posn p q = { s.posn p q with trips := (s.posn p q).trips ++ [v] } ∧ (∀ r, r ≠ q → t.posn p r = s.posn p r) ∧
          t = s.setPort p (t.port p)) ∧
        (q < (s.port p).receivers → Runs (.trainComplete p) s fun t =>
          (t.port p).state = 3 ∧ (t.posn p q).engine = 1 ∧ (t.posn p q).tries = 0 ∧
          t.fld Reg.PLK_TRAINS p = (s.fld Reg.PLK_TRAINS p + 1) % 4294967296)))

/-- Loss of alignment, low merit and a relocked PLL retrain a port; its controls, tests, modules and I2C act as stated. With the
clocks running, for a lane l of the variant; register commands with the page open and no reserved bit. What a lane receives moves
its state and counts its code errors: alignment gained sets its bits; lost, it clears them, counts, latches LNE.align and retrains
a port in DATA; so does the eighth low figure of merit in a row, and one that is not low ends the row. A lane PLL that unlocks
latches LNE.pll, and its relock retrains a port not in TEST. RETRAIN retrains a port in DATA or DOWN and no other. Under an active
calibre PLK_PORT_CFG is only stored. TEST holds a port that is not DISABLED in TEST, and cleared retrains it. An injected error
counts in a looped-back, locked checker and outside TEST only latches LNE.cfg. A poll shows a module or latches LNE.module where
it does not answer. An I2C command is stored, and GO starts one transfer, whose end shows its result. (14_panel_link.md, R292,
R293, R298, R311, R312, R313) -/
def Obligations.LanesAndPortControl : Prop :=
  ∀ (s : State) (l : Nat), s.pwr.clocksStopped = false → l < s.variant.ports →
    (∀ (rx : List LaneRx) (trunk : Bool) (r : RxFound), trunk = (s.portOfLane l).any s.trunk →
      r = rxRun trunk (s.flag Reg.LNE_STATUS_ALIGNED l) (s.lane l) rx →
      (Runs (.laneAlignLoss ⟨l, rx⟩) s fun t =>
        t.lane l = r.lane ∧ t.fld Reg.LNE_CODE_ERR l = (s.fld Reg.LNE_CODE_ERR l + r.errs) % 4294967296) ∧
      (r.lost = true → r.aligned = false → Runs (.laneAlignLoss ⟨l, rx⟩) s fun t =>
        t.fld Reg.LNE_STATUS_ALIGNED l = 0 ∧ t.fld Reg.LNE_ALIGN_LOSS l = (s.fld Reg.LNE_ALIGN_LOSS l + 1) % 4294967296 ∧
        t.latched .lneAlign l = true ∧ (∀ p, s.portOfLane l = some p → s.inData p = true → (t.port p).state = 2)) ∧
      (r.aligned = true → Runs (.laneAlignLoss ⟨l, rx⟩) s fun t =>
        t.flag Reg.LNE_STATUS_ALIGNED l = true ∧ t.flag Reg.LNE_STATUS_LOCK l = true) ∧
      (r.lost = false → r.aligned = false → Runs (.laneAlignLoss ⟨l, rx⟩) s fun t =>
        t = (s.setLane l r.lane).count Reg.LNE_CODE_ERR l r.errs)) ∧
    (∀ fom : Nat, fom < 256 →
      ((∀ p, s.portOfLane l = some p → s.inData p = false) → Runs (.fomMeasure l fom) s fun t =>
        t.fld Reg.LNE_STATUS_FOM l = fom ∧
        (t.lane l).fomLow = (if fom < s.fld Reg.LNE_EQ_FOM_MIN l then min ((s.lane l).fomLow + 1) 8 else 0)) ∧
      (∀ p, s.portOfLane l = some p → s.inData p = true → fom < s.fld Reg.LNE_EQ_FOM_MIN l → 7 ≤ (s.lane l).fomLow →
        Runs (.fomMeasure l fom) s fun t => (t.port p).state = 2 ∧ (t.lane l).fomLow = 0)) ∧
    (Runs (.lanePllUnlock l) s fun t => (t.lane l).pllLost = true ∧ t.latched .lnePll l = true) ∧
    ((s.lane l).pllLost = true → Runs (.lanePllRelock l) s fun t =>
      (t.lane l).pllLost = false ∧ (∀ p, s.portOfLane l = some p → (s.port p).state ≠ 4 → (t.port p).state = 2)) ∧
    (s.pageOpen Blk.plk l = true → (s.port l).state = 3 ∨ (s.port l).state = 1 → Runs (.plkRetrain l) s fun t =>
      (t.port l).state = 2 ∧ (t.port l).cause = 4 ∧ (t.port l).receivers = 0) ∧
    (s.pageOpen Blk.plk l = true → (s.port l).state ≠ 3 → (s.port l).state ≠ 1 → Runs (.plkRetrain l) s fun t => t = s) ∧
    (∀ v : Word, s.pageOpen Blk.plk l = true → rsvBits v 0xE7F = 0 → s.clb.activeValid = true → Runs (.plkPortCfgWrite l v) s fun t =>
      t.fld Reg.PLK_PORT_CFG_RATE l = v.toNat % 16 ∧ t.fld Reg.PLK_PORT_CFG_CLASS l = v.toNat / 16 % 4 ∧
      t.fld Reg.PLK_PORT_CFG_EN l = v.toNat / 64 % 2 ∧ t.fld Reg.PLK_PORT_CFG_VERS l = v.toNat / 512 % 8 ∧ t.plk = s.plk) ∧
    (s.pageOpen Blk.plk l = true → Runs (.portTestEnter l) s fun t =>
      (t.port l).state = (if (s.port l).state = 0 then 0 else 4) ∧ t.flag Reg.PLK_PORT_CTL_TEST l = true) ∧
    (s.pageOpen Blk.plk l = true → (s.port l).state = 4 → Runs (.portTestClear l) s fun t =>
      (t.port l).state = 2 ∧ t.flag Reg.PLK_PORT_CTL_TEST l = false) ∧
    (s.pageOpen Blk.lne l = true → s.laneInTest l = true → s.flag Reg.LNE_TEST_GEN_EN l = true → s.flag Reg.LNE_TEST_CHK_EN l = true →
      s.fld Reg.LNE_TEST_LOOP l = 1 → s.fld Reg.LNE_TEST_PATTERN l ≠ 0 → s.flag Reg.LNE_TEST_CHK_LOCK l = true → Runs (.lneTestInject l) s fun t =>
        t.fld Reg.LNE_PRBS_ERR l = min (s.prbsErr l + 1) 4294967295) ∧
    (s.pageOpen Blk.lne l = true → s.laneInTest l = false → Runs (.lneTestInject l) s fun t =>
      t.fld Reg.LNE_PRBS_ERR l = s.fld Reg.LNE_PRBS_ERR l ∧ t.latched .lneCfg l = true) ∧
    (∀ (b : Nat) (m : ModInfo), l = 8 * b → s.busBad b = false → m.present = true →
      (m.ack = true → m.los = false → Runs (.modulePoll b [m]) s fun t =>
        t.flag Reg.LNE_MOD_PRESENT l = true ∧ t.fld Reg.LNE_MOD_TEMP l = m.temp % 256 ∧
        t.fld Reg.LNE_MOD_RX_PWR l = m.rxPwr % 65536) ∧
      (m.ack = false → Runs (.modulePoll b [m]) s fun t =>
        t.latched .lneModule l = true ∧ t.fld Reg.LNE_MOD_TEMP l = s.fld Reg.LNE_MOD_TEMP l)) ∧
    (∀ v : Word, s.pageOpen Blk.plk 0 = true → rsvBits v 0x1FFFFFFF = 0 →
      (s.plk.i2c ≠ none ∨ bit v.toNat 28 = false → Runs (.i2cGo v) s fun t =>
        t.plk = s.plk ∧ t.fld Reg.PLK_I2C_CMD_ADDR = v.toNat / 16 % 128 ∧ t.fld Reg.PLK_I2C_CMD_WDATA = v.toNat / 1048576 % 256 ∧
        t.fld Reg.PLK_I2C_STAT_BUSY = s.fld Reg.PLK_I2C_STAT_BUSY) ∧
      (s.plk.i2c = none → bit v.toNat 28 = true → Runs (.i2cGo v) s fun t =>
        t.plk = { s.plk with i2c := some v.toNat } ∧ t.fld Reg.PLK_I2C_STAT_BUSY = 1 ∧
        t.fld Reg.PLK_I2C_CMD_ADDR = v.toNat / 16 % 128)) ∧
    (∀ (r v : Nat) (nack : Bool), s.plk.i2c = some v → Runs (.i2cTransferDone r nack) s fun t =>
      t.plk = { s.plk with i2c := none } ∧ t.fld Reg.PLK_I2C_STAT_BUSY = 0 ∧
      t.flag Reg.PLK_I2C_STAT_NACK = (nack || s.busBad (v % 8)) ∧
      (bit v 11 = true → nack = false → s.busBad (v % 8) = false → t.fld Reg.PLK_I2C_STAT_RDATA = r % 256))

/-- A valid upstream frame is counted, answered to or switched; the identity engine asks, retries and waits; TILE_IDENTITY_READ. With
the clocks running. On a port in DATA a frame that fails its checks only counts in PLK_RX_CRC. A valid STATUS frame of a position
with a version counts in PLK_STATUS_RX and gives the position's CRC errors; a valid reply to the engine's MARK_ADJ write ends its
work with a good record; another valid frame joins the switch input of the port. 2 ms without a reply repeat the engine's request
twice and then make it wait; 100 ms later it asks again. A credit block adds to a trunk's credits. TILE_IDENTITY_READ without
FRESH, silent, writes the last good record to host memory and ends; with FRESH it asks the receiver and goes on.
(14_panel_link.md, R299, R301, R306, R307, R309, R310) -/
def Obligations.UpstreamFramesAndIdentity : Prop :=
  ∀ (s : State) (p : Nat) (f : Bytes), s.pwr.clocksStopped = false → s.inData p = true →
    s.fld Reg.PG_ERR_INJECT_COUNT (pageOf Blk.plk p) = 0 →
    (Up.valid f = false →
      (Runs (.statusFrame p f) s fun t => t = s.setFld Reg.PLK_RX_CRC p (s.fld Reg.PLK_RX_CRC p + 1)) ∧
      (Runs (.mgmtResponse p f) s fun t => t = s.setFld Reg.PLK_RX_CRC p (s.fld Reg.PLK_RX_CRC p + 1)) ∧
      (Runs (.upstreamFrame p f) s fun t => t = s.setFld Reg.PLK_RX_CRC p (s.fld Reg.PLK_RX_CRC p + 1))) ∧
    (Up.valid f = true → (s.posn p (Up.src f)).version ≠ 0 →
      (Up.type f = 4 → Runs (.statusFrame p f) s fun t =>
        t.fld Reg.PLK_STATUS_RX p = (s.fld Reg.PLK_STATUS_RX p + 1) % 4294967296 ∧
        (t.posn p (Up.src f)).crcErrors = field (Up.payload f) 4 4) ∧
      (Up.type f = 3 → Up.tag f = (s.posn p (Up.src f)).tag → 32768 ≤ Up.tag f → (s.posn p (Up.src f)).engine = 2 →
        field (Up.payload f) 0 1 = 0 → Runs (.mgmtResponse p f) s fun t =>
          t = s.setPosn p (Up.src f) { s.posn p (Up.src f) with engine := 0, tries := 0, good := true }) ∧
      (Up.type f ≠ 3 → Up.type f ≠ 4 → Runs (.upstreamFrame p f) s fun t =>
        ((t.swin (s.upInput p)).wait.map fun g => g.data) = (s.swin (s.upInput p)).wait.map (fun g => g.data) ++ [f] ∧
        (t.swin (s.upInput p)).queue = (s.swin (s.upInput p)).queue)) ∧
    (∀ q : Nat,
      ((s.posn p q).engine = 1 → (s.posn p q).since + 2 * Clk.ms ≤ s.now →
        ((s.posn p q).tries < 2 → Runs (.identityReplyTimeout p q) s fun t =>
          (t.posn p q).engine = 1 ∧ (t.posn p q).tries = (s.posn p q).tries + 1 ∧ (t.posn p q).since = s.now) ∧
        (2 ≤ (s.posn p q).tries → Runs (.identityReplyTimeout p q) s fun t =>
          (t.posn p q).engine = 3 ∧ (t.posn p q).tries = 0 ∧ (t.posn p q).since = s.now)) ∧
      ((s.posn p q).engine = 3 → (s.posn p q).since + 100 * Clk.ms ≤ s.now → Runs (.identityReread p q) s fun t =>
        (t.posn p q).engine = 1 ∧ (t.posn p q).tries = 0 ∧ (t.posn p q).since = s.now)) ∧
    (∀ n : Nat, s.trunk p = true → n < 65536 → Runs (.creditBlock p n) s fun t =>
      t = s.setPort p { s.port p with held := (s.port p).held + n, rcvd := ((s.port p).rcvd + n) % 18446744073709551616 }) ∧
    (∀ (j : Nat) (r : Bytes), s.canStart j 0x41 = true → p < s.variant.ports → p = bits (field (s.job j).args 8 1) 5 0 →
      (addrSpace (field (s.job j).args 16 8)).1 = false →
      (addrSpace (field (s.job j).args 16 8)).2 + 256 ≤ 9223372036854775808 →
      (bit (field (s.job j).args 10 1) 0 = false → (s.posn p (field (s.job j).args 9 1)).record = some r →
        (s.job j).silent = true → Runs (.tileIdentityRead j) s fun t =>
          t.hst.mem = s.hst.mem.writeBytes (addrSpace (field (s.job j).args 16 8)).2 r ∧ t.plk = s.plk ∧
          Tab.has t.rng.jobs j = false) ∧
      (bit (field (s.job j).args 10 1) 0 = true → Runs (.tileIdentityRead j) s fun t =>
        (t.job j).started = true ∧ (t.posn p (field (s.job j).args 9 1)).fresh.length =
          (s.posn p (field (s.job j).args 9 1)).fresh.length + 1))

/-- An escapement starts routine r at word 2r and each word goes where its SEQ says; safe points and waits end at the vectors they
name. For an escapement of the variant that has an image and is not halted, with the clocks running. Idle, it starts routine r
below 32 at word 2r with an empty stack and no request; while it runs, or for r from 32, nothing happens. Running routine r at a
word whose parity matches and which is no safe point with a request: CONT goes to the next word, JUMP to NEXT, BRANCH and CALL to
NEXT with the conditions that the CSELs name ORed into its low bits (CALL pushing the next address while the stack holds fewer
than 4), RET to the popped address, WAIT on when WCOND equals WPOL, and EXIT ends the routine with both requests cleared. A word
with SAFE = 1 goes to 2r + 1 with an empty stack when a request is pending. A WAIT word that has waited its limit, with TFLT 0,
goes to NEXT. Nothing but the escapement changes. (15_escapements_and_regulators.md, R318, R319, R320, R321, R322) -/
def Obligations.EscapementRoutinesRun : Prop :=
  ∀ (s : State) (k i : Nat) (x : Escapement), s.pwr.clocksStopped = false → (escPlace s.variant k i).isSome = true →
    x = s.esc_ k i → s.escOk k i = true →
    (∀ r : Nat, Runs (.escRoutineStart k i r) s fun t =>
      t = if x.routine = none ∧ r < 32 then
          s.setEsc k i { x with routine := some r, pc := 2 * r, stack := [], timedOut := false, stop := false, fault := false }
        else s) ∧
    (∀ (r w : Nat) (c : BitVec 64), x.routine = some r → w = (s.escImage x).word x.pc → parityOk w = true →
      ((Word.safe w = false ∨ (x.stop = false ∧ x.fault = false)) →
        (Word.seq w = 0 → Runs (.escRoutineExit k i [c]) s fun t => t = s.setEsc k i { x with pc := (x.pc + 1) % 4096 }) ∧
        (Word.seq w = 1 → Runs (.escRoutineExit k i [c]) s fun t => t = s.setEsc k i { x with pc := Word.next w }) ∧
        (Word.seq w = 2 → Runs (.escRoutineExit k i [c]) s fun t =>
          t = s.setEsc k i { x with pc := Word.next w ||| (b2n (x.cond c (Word.csel w 0)) + 2 * b2n (x.cond c (Word.csel w 1)) +
            4 * b2n (x.cond c (Word.csel w 2)) + 8 * b2n (x.cond c (Word.csel w 3))) }) ∧
        (Word.seq w = 3 → x.stack.length < 4 → Runs (.escRoutineExit k i [c]) s fun t =>
          (t.esc_ k i).stack = (x.pc + 1) % 4096 :: x.stack ∧
          (t.esc_ k i).pc = Word.next w ||| (b2n (x.cond c (Word.csel w 0)) + 2 * b2n (x.cond c (Word.csel w 1)) +
            4 * b2n (x.cond c (Word.csel w 2)) + 8 * b2n (x.cond c (Word.csel w 3)))) ∧
        (∀ (a : Nat) (rest : List Nat), Word.seq w = 4 → x.stack = a :: rest → Runs (.escRoutineExit k i [c]) s fun t =>
          t = s.setEsc k i { x with pc := a, stack := rest }) ∧
        (Word.seq w = 5 → x.cond c (Word.wcond w) = Word.wpol w → Runs (.escRoutineExit k i [c]) s fun t =>
          (t.esc_ k i).pc = (x.pc + 1) % 4096 ∧ (t.esc_ k i).routine = some r) ∧
        (Word.seq w = 5 → x.cond c (Word.wcond w) ≠ Word.wpol w → Runs (.escRoutineExit k i [c]) s fun t => t = s.setEsc k i x) ∧
        (Word.seq w = 6 → Runs (.escRoutineExit k i [c]) s fun t =>
          (t.esc_ k i).routine = none ∧ (t.esc_ k i).stop = false ∧ (t.esc_ k i).fault = false ∧
          (t.esc_ k i).image = x.image ∧ t = { s with esc := t.esc }) ∧
        (Word.seq w = 5 → x.timedOut = false → Word.tmo w < 28 → Word.tflt w = false → Runs (.escWaitTimeout k i []) s fun t =>
          (t.esc_ k i).pc = Word.next w ∧ (t.esc_ k i).routine = some r ∧ t = { s with esc := t.esc })) ∧
      (Word.safe w = true → (x.stop = true ∨ x.fault = true) →
        (Runs (.escSafePointExit k i []) s fun t =>
          t = s.setEsc k i { x with pc := 2 * r + 1, stack := [], timedOut := false }) ∧
        (Runs (.escRoutineExit k i [c]) s fun t =>
          t = s.setEsc k i { x with pc := 2 * r + 1, stack := [], timedOut := false })))

/-- A parity error or a stop that overruns ESC_STOP_LIMIT halts the escapement and latches its engine's fault; a TFLT timeout latches
it. For an escapement of the variant with an image that is not halted and runs a routine, with the clocks running.
MICROWORD_PARITY halts it: its sequencing state is gone, it keeps its image, ESC_PARITY counts and the fault source of its engine
is latched (the core fault of a decode, encode or mezzanine core, the data path source of CNV, DRV or DMA). STOP_LIMIT_EXPIRY does
the same with ESC_TIMEOUTS when more than ESC_STOP_LIMIT x 1,024 cycles of its clock have passed since a pending request arose,
and nothing before. A wait timeout at a WAIT word with TFLT = 1 counts ESC_TIMEOUTS, latches the same source and raises a fault
request: the routine goes on. Reserved SEQ 7, CALL on a full stack and RET from an empty one end as parity errors do.
(15_escapements_and_regulators.md, R320, R323, R324) -/
def Obligations.EscapementsHalt : Prop :=
  ∀ (s : State) (k i r : Nat) (x : Escapement), s.pwr.clocksStopped = false → (escPlace s.variant k i).isSome = true →
    x = s.esc_ k i → s.escOk k i = true → x.routine = some r →
    (Runs (.microwordParity k i) s fun t =>
      t.esc_ k i = { image := x.image, halted := true } ∧ t.fld Reg.ESC_PARITY = (s.fld Reg.ESC_PARITY + 1) % 4294967296 ∧
      t.latched (escSource k i).1 (escSource k i).2 = true) ∧
    ((x.stop = true ∨ x.fault = true) →
      x.reqAt + s.fld Reg.ESC_STOP_LIMIT * 1024 * escClock k < s.now → Runs (.stopLimitExpiry k i) s fun t =>
        t.esc_ k i = { image := x.image, halted := true } ∧
        t.fld Reg.ESC_TIMEOUTS = (s.fld Reg.ESC_TIMEOUTS + 1) % 4294967296 ∧
        t.latched (escSource k i).1 (escSource k i).2 = true) ∧
    ((x.stop = false ∧ x.fault = false) ∨ s.now ≤ x.reqAt + s.fld Reg.ESC_STOP_LIMIT * 1024 * escClock k →
      Runs (.stopLimitExpiry k i) s fun t => t = s) ∧
    (∀ (w : Nat) (c : BitVec 64), w = (s.escImage x).word x.pc → parityOk w = true →
      (Word.safe w = false ∨ (x.stop = false ∧ x.fault = false)) →
      (Word.seq w = 5 → x.timedOut = false → Word.tmo w < 28 → Word.tflt w = true → Runs (.escWaitTimeout k i []) s fun t =>
        t.fld Reg.ESC_TIMEOUTS = (s.fld Reg.ESC_TIMEOUTS + 1) % 4294967296 ∧ (t.esc_ k i).routine = some r ∧
        (t.esc_ k i).fault = true ∧ (t.esc_ k i).pc = x.pc ∧ t.latched (escSource k i).1 (escSource k i).2 = true) ∧
      (Word.seq w = 7 ∨ (Word.seq w = 3 ∧ 4 ≤ x.stack.length) ∨ (Word.seq w = 4 ∧ x.stack = []) →
        Runs (.escRoutineExit k i [c]) s fun t =>
          t.esc_ k i = { image := x.image, halted := true } ∧ t.fld Reg.ESC_PARITY = (s.fld Reg.ESC_PARITY + 1) % 4294967296 ∧
          t.latched (escSource k i).1 (escSource k i).2 = true))

/-- ESC_LOAD verifies an image and makes it current; a bundle write checks the bundle, writes its slot and reports RESULT. With the
clocks running, the ESC page enabled and open to register writes and no reserved bit written. GO while BUSY = 0 stores KIND and
sets BUSY; nothing else changes. GO while BUSY = 1 is ignored and ESC.load latches. When verification ends for a readable image of
98,464 bytes (no poison, no injection armed, no line of it under HDM-D), RESULT is the verdict for the kind, BUSY is 0, source 155
is pending, and the escapements run what they ran: with verdict 0 the image, with its VERSION and SEC_VER, becomes the current
image of the kind and no other kind's changes; else every current image stays and ESC.load latches. With the clocks running, RGL
page 0 enabled and open to the host's writes and no reserved bit written. RGL_BUNDLE_CTL without GO stores SLOT alone. GO while
BUSY = 0 takes SLOT, sets BUSY and starts a write whose result is the check's (1 FORMAT, 2 SIGNATURE, 3 ROLLBACK), or 4 INUSE for
the slot in use while the other holds no bundle that passes. GO while BUSY = 1 starts nothing. At its end BUSY is 0 and source 156
is pending: a write whose result is not 0 leaves the keeping store as it is, one with result 0 stores the image in its slot of the
keeping store, where the endurance of its pages allows it and none of them is near its limit, and RESULT is 0 when the read-back
agrees, else 5 with the slot's header zeroed. (15_escapements_and_regulators.md, R327, R330) -/
def Obligations.EscapementImagesAndBundles : Prop :=
  (∀ s : State, s.pwr.clocksStopped = false →
    (∀ v : Word, s.pageEnabled Blk.esc 0 = true → s.pageOpen Blk.esc 0 = true → rsvBits v 0xF1F = 0 → bit v.toNat 0 = true →
      (s.flag Reg.ESC_LOAD_CTL_BUSY = false → Runs (.escLoadGo v) s fun t =>
        t.fld Reg.ESC_LOAD_CTL_BUSY = 1 ∧ t.fld Reg.ESC_LOAD_CTL_KIND = bits v.toNat 3 1 ∧
        t.esc = { s.esc with loading := some (bits v.toNat 3 1) } ∧ t = { s with esc := t.esc, regs := t.regs }) ∧
      (s.flag Reg.ESC_LOAD_CTL_BUSY = true → Runs (.escLoadGo v) s fun t =>
        t.latched .escLoad = true ∧ t.esc = s.esc ∧ t.fld Reg.ESC_LOAD_CTL_KIND = s.fld Reg.ESC_LOAD_CTL_KIND)) ∧
    (∀ (k a : Nat) (im : Bytes), s.esc.loading = some k → a = addr64 (s.fld Reg.ESC_LOAD_SRC_LO_ADDR * 64) (s.fld Reg.ESC_LOAD_SRC_HI) →
      s.dramOk a 98464 = true → s.mem.poison = [] → s.hostBiased a 98464 = [] → s.fld Reg.PG_ERR_INJECT_COUNT (pageOf Blk.mem 0) = 0 →
      s.fld Reg.PG_ERR_INJECT_COUNT (pageOf Blk.esc 0) = 0 → im = s.dramBytes a 98464 →
      Runs .escLoadDone s fun t =>
        t.fld Reg.ESC_LOAD_CTL_RESULT = escVerify im k s.fuseSec ∧ t.fld Reg.ESC_LOAD_CTL_BUSY = 0 ∧ (t.src 155).pending = true ∧
        t.esc.loading = none ∧ t.esc.units = s.esc.units ∧
        (escVerify im k s.fuseSec = 0 →
          Tab.get {} t.esc.images (Tab.get 0 t.esc.cur k) = ⟨Sg.version im, Sg.secVer im, false, Sg.payload im⟩ ∧
          (∀ j, j ≠ k → Tab.get 0 t.esc.cur j = Tab.get 0 s.esc.cur j)) ∧
        (escVerify im k s.fuseSec ≠ 0 → t.esc.cur = s.esc.cur ∧ t.esc.images = s.esc.images ∧ t.latched .escLoad = true))) ∧
  (∀ s : State, s.pwr.clocksStopped = false →
    (∀ v : Word, s.pageEnabled Blk.rgl 0 = true → s.hostPageOpen Blk.rgl 0 = true → rsvBits v 0xF07 = 0 →
      (bit v.toNat 0 = false → Runs (.bundleWriteGo v) s fun t => t = s.setFld Reg.RGL_BUNDLE_CTL_SLOT 0 (bits v.toNat 1 1)) ∧
      (bit v.toNat 0 = true → s.flag Reg.RGL_BUNDLE_CTL_BUSY = true → Runs (.bundleWriteGo v) s fun t =>
        t = s.setFld Reg.RGL_BUNDLE_CTL_SLOT 0 (bits v.toNat 1 1)) ∧
      (∀ (im : Bytes) (r : Nat) (s2 : State), bit v.toNat 0 = true → s.flag Reg.RGL_BUNDLE_CTL_BUSY = false →
        (s.setFld Reg.RGL_BUNDLE_CTL_SLOT 0 (bits v.toNat 1 1)).bundleRead = (im, r, s2) → Runs (.bundleWriteGo v) s fun t =>
          t.flag Reg.RGL_BUNDLE_CTL_BUSY = true ∧ t.fld Reg.RGL_BUNDLE_CTL_SLOT = bits v.toNat 1 1 ∧ t.kst.mem = s2.kst.mem ∧
          t.rgl.bundle = some ⟨bits v.toNat 1 1, im, if r ≠ 0 then r
            else if s2.fld Reg.RGL_BOOT_SLOT = bits v.toNat 1 1 ∧ s2.slotPasses (1 - bits v.toNat 1 1) = false then 4 else 0⟩)) ∧
    (∀ (b : Bool) (w : BundleWrite), s.rgl.bundle = some w →
      (w.result ≠ 0 → Runs (.bundleWriteDone b) s fun t =>
        t.fld Reg.RGL_BUNDLE_CTL_RESULT = w.result % 16 ∧ t.flag Reg.RGL_BUNDLE_CTL_BUSY = false ∧ (t.src 156).pending = true ∧
        t.rgl.bundle = none ∧ t.kst = s.kst) ∧
      (w.result = 0 → s.kst.worn (bundleSlot w.slot) w.image.length = false →
        s.kst.warns (bundleSlot w.slot) w.image.length = false →
        (b = true → Runs (.bundleWriteDone b) s fun t =>
          t.fld Reg.RGL_BUNDLE_CTL_RESULT = 0 ∧ t.flag Reg.RGL_BUNDLE_CTL_BUSY = false ∧ (t.src 156).pending = true ∧
          t.rgl.bundle = none ∧ t.kst.mem = s.kst.mem.writeBytes (bundleSlot w.slot) w.image) ∧
        (b = false → Runs (.bundleWriteDone b) s fun t =>
          t.fld Reg.RGL_BUNDLE_CTL_RESULT = 5 ∧ t.flag Reg.RGL_BUNDLE_CTL_BUSY = false ∧ (t.src 156).pending = true ∧
          ((s.kst.put (bundleSlot w.slot) w.image).worn (bundleSlot w.slot) 64 = false →
            (s.kst.put (bundleSlot w.slot) w.image).warns (bundleSlot w.slot) 64 = false →
            t.kst.mem = (s.kst.mem.writeBytes (bundleSlot w.slot) w.image).writeBytes (bundleSlot w.slot) (List.replicate 64 0))))))

/-- ENABLE follows its writes but on the always-enabled pages, SOFT_RESET clears a disabled idle page and keeps its sticky bits,
SAFE_STOP stops. With the clocks running and pages open to register writes, for the register page of a block instance. Clearing
ENABLE makes it read 0 and setting it makes it 1, but on the pages whose ENABLE always reads 1, where both leave the state as it
is (except that a write to the FLT page disarms test unlock). SOFT_RESET of an enabled or busy page that is no DMA page changes
nothing but that; of a disabled idle SCH or SWC page it clears the block's state, makes its fields read their reset values and
keeps PG_ERR_STICKY and ENABLE. SAFE_STOP raises a stop request in every escapement of the page that runs a routine, until EXIT,
and touches nothing else. A write to a page below 16368 that is reserved or that the variant lacks latches RSV_WRITE of page 0.
(21_register_pages.md, R4, R322, R418) -/
def Obligations.PagesEnableResetAndStop : Prop :=
  ∀ (s : State) (p blk inst : Nat), s.pwr.clocksStopped = false →
    (pageOwner s.variant p = some (blk, inst) → s.pageOpen blk inst = true →
      (alwaysEnabled blk = false →
        (Runs (.pgEnableClear p) s fun t => t.fld Reg.PG_CTRL_ENABLE p = 0) ∧
        (Runs (.pgEnableSet p) s fun t => t.fld Reg.PG_CTRL_ENABLE p = 1)) ∧
      (alwaysEnabled blk = true → s.pageEnabled blk inst = true →
        (Runs (.pgEnableClear p) s fun t => t = s.disarm blk) ∧ (Runs (.pgEnableSet p) s fun t => t = s.disarm blk)) ∧
      (s.pageEnabled blk inst = true ∨ s.pageIdle blk inst = false → blk ≠ Blk.dma →
        Runs (.pgSoftReset p) s fun t => t = s.disarm blk) ∧
      (s.pageEnabled blk inst = false → s.pageIdle blk inst = true → blk = Blk.sch ∨ blk = Blk.swc →
        Runs (.pgSoftReset p) s fun t =>
          (blk = Blk.sch → t.sport inst = {}) ∧ (blk = Blk.swc → t.swc = {}) ∧ t.sticky p = s.sticky p ∧
          t.pageEnabled blk inst = false ∧
          (∀ f ∈ Reg.ofPage blk, ∀ j : Nat, j < f.count → f.insts = .all →
            t.fld f (inst * f.count + j) = f.resetVal s.variant (inst * f.count + j))) ∧
      (Runs (.pgSafeStop p) s fun t =>
        (∀ k i, escPlace s.variant k i = some (blk, inst) → (s.esc_ k i).routine ≠ none →
          (t.esc_ k i).stop = true ∧ (t.esc_ k i).safe = true ∧ (t.esc_ k i).routine = (s.esc_ k i).routine ∧
          (t.esc_ k i).pc = (s.esc_ k i).pc) ∧
        (∀ k i, escPlace s.variant k i ≠ some (blk, inst) → k < 7 → i < 64 → t.esc_ k i = s.esc_ k i) ∧
        t = { s.disarm blk with esc := t.esc })) ∧
    (pageOwner s.variant p = none → p < 16368 → s.pagesReached = true →
      (Runs (.pgEnableClear p) s fun t => t.latched (.rsvWrite Blk.sys) = true) ∧
      (Runs (.pgEnableSet p) s fun t => t.latched (.rsvWrite Blk.sys) = true) ∧
      (Runs (.pgSoftReset p) s fun t => t.latched (.rsvWrite Blk.sys) = true) ∧
      (Runs (.pgSafeStop p) s fun t => t.latched (.rsvWrite Blk.sys) = true))

/-- A regulator without an L_WDOG write in its period signals at half of it and halts at its end; RELOAD starts it again. With the
clocks running, for a regulator g of the variant. L_WDOG while it runs sets its watchdog to now. Half of RGL_WDOG.MS without one
raises private source 5 once, and before that nothing happens. The whole period without one halts it: STATE is 2, RGL.wdog of its
page is latched and source 73 + g is pending; its mailbox, its memories and its complications stay. RELOAD (its page open to
register writes, with a runtime, no recovery and the power domain ON) runs it again: STATE 1, a fresh watchdog, the runtime in
IMEM and DMEM, its complications each in its slot, not stopped and in no entry, no handler on its shadow stack; other regulators
are as before. (15_escapements_and_regulators.md, 17_interrupts.md, R333, R354) -/
def Obligations.RegulatorWatchdogAndReload : Prop :=
  ∀ (s : State) (g : Nat), s.pwr.clocksStopped = false → g < s.variant.regulators →
    (s.fld Reg.RGL_STATUS_STATE g = 1 →
      (Runs (.watchdogRestart g) s fun t => t = s.setRegl g { s.rgl_ g with wdogAt := s.now, wdogHalf := false }) ∧
      ((s.rgl_ g).wdogHalf = false → (s.rgl_ g).wdogAt + s.fld Reg.RGL_WDOG_MS g * Clk.ms / 2 ≤ s.now →
        Runs (.watchdogHalf g) s fun t => t = (s.setRegl g { s.rgl_ g with wdogHalf := true }).privEdge g 5) ∧
      ((s.rgl_ g).wdogHalf = true ∨ s.now < (s.rgl_ g).wdogAt + s.fld Reg.RGL_WDOG_MS g * Clk.ms / 2 →
        Runs (.watchdogHalf g) s fun t => t = s) ∧
      ((s.rgl_ g).wdogAt + s.fld Reg.RGL_WDOG_MS g * Clk.ms ≤ s.now → Runs (.watchdogExpire g) s fun t =>
        t.fld Reg.RGL_STATUS_STATE g = 2 ∧ t.latched .rglWdog g = true ∧ (t.src (73 + g)).pending = true ∧
        t.rgl_ g = s.rgl_ g ∧ t.rglQ g = s.rglQ g) ∧
      (s.now < (s.rgl_ g).wdogAt + s.fld Reg.RGL_WDOG_MS g * Clk.ms → Runs (.watchdogExpire g) s fun t => t = s)) ∧
    (s.fld Reg.RGL_STATUS_STATE g ≠ 1 →
      (Runs (.watchdogRestart g) s fun t => t = s) ∧ (Runs (.watchdogExpire g) s fun t => t = s)) ∧
    (s.pageOpen Blk.rgl g = true → s.fld Reg.RGL_BOOT_RECOVERY = 0 → s.rgl.runtime ≠ [] → s.domOn (18 + g) = true → s.rgl.loading = [] →
      Runs (.rglReload g) s fun t =>
        t.fld Reg.RGL_STATUS_STATE g = 1 ∧ (t.rgl_ g).wdogAt = s.now ∧ (t.rgl_ g).wdogHalf = false ∧
        (t.rgl_ g).imem = Mem.writeBytes [] 0 (s.rgl.runtime.take 16384) ∧
        (t.rgl_ g).dmem = Mem.writeBytes [] 0 (s.rgl.runtime.drop 16384) ∧ (t.rgl_ g).mbx = (s.rgl_ g).mbx ∧
        (t.rgl_ g).cpls.map (·.1) = (s.rgl_ g).cpls.map (·.1) ∧
        (∀ c ∈ (t.rgl_ g).cpls, c.2.stopped = false ∧ c.2.entry = 0) ∧ (t.tgt g).shadow = [] ∧
        (∀ h, h ≠ g → t.rgl_ h = s.rgl_ h)) ∧
    (s.pageOpen Blk.rgl g = true → s.flag Reg.RGL_BOOT_RECOVERY = true ∨ s.rgl.runtime = [] → Runs (.rglReload g) s fun t => t = s)

/-- A post reaches the target's mailbox or is refused when it holds 16; queue indices move within their bounds; TXQ entries go out.
With the clocks running, for a regulator g of the variant with its page enabled. A host post, with the page open to register
writes, appends the 32 bytes of RGL_MBX_DATA, bytes 0-1 set to 16, to a mailbox of fewer than 16 messages and FULL reads 0; at an
empty mailbox private source 2 becomes pending. At a full mailbox nothing is overwritten and FULL reads 1. While g runs:
L_MBX_POST to a regulator h does the same with sender g and reports DONE and FULL; L_MBX_POP drops the head; L_RXQ_CI and L_TXQ_PI
take an index that leaves at most 64 and 16 entries, and otherwise keep theirs while RGL.queue latches. TX_ENTRY_SEND consumes the
head entry on g's turn: private source 4 rises, and a frame with its length goes to the switch input 32 + g/2 when 1 to 17 buffers
owned by 8 + g hold it, else RGL_TX_REJECT counts. (15_escapements_and_regulators.md, R334, R335, R336) -/
def Obligations.RegulatorMailboxesAndQueues : Prop :=
  ∀ (s : State) (g : Nat), s.pwr.clocksStopped = false → g < s.variant.regulators → s.pageEnabled Blk.rgl g = true →
    (s.pageOpen Blk.rgl g = true → (s.rgl_ g).mbx.length < 16 → Runs (.hostMbxPost g) s fun t =>
      (t.rgl_ g).mbx = (s.rgl_ g).mbx ++ [leBytes 16 2 ++
        ((List.range 8).flatMap fun w => leBytes (s.fld Reg.RGL_MBX_DATA (8 * g + w)) 4).drop 2] ∧
      t.fld Reg.RGL_MBX_POST_FULL g = 0 ∧ ((s.rgl_ g).mbx = [] → (Tab.get {} (t.tgt g).priv 2).pending = true) ∧
      (∀ h, h ≠ g → t.rgl_ h = s.rgl_ h)) ∧
    (s.pageOpen Blk.rgl g = true → 16 ≤ (s.rgl_ g).mbx.length → Runs (.hostMbxPost g) s fun t => t = s.setFld Reg.RGL_MBX_POST_FULL g 1) ∧
    (s.fld Reg.RGL_STATUS_STATE g = 1 →
      (∀ (v : Word) (h : Nat), h = bits v.toNat 4 0 → h < s.variant.regulators → s.pageEnabled Blk.rgl h = true →
        ((s.rgl_ h).mbx.length < 16 → Runs (.lMbxPost g v) s fun t =>
          (t.rgl_ h).mbx = (s.rgl_ h).mbx ++ [leBytes g 2 ++ (((s.rgl_ g).mbxOut ++ List.replicate 32 0).drop 2).take 30] ∧
          (t.rgl_ g).postDone = true ∧ (t.rgl_ g).postFull = false ∧
          ((s.rgl_ h).mbx = [] → (Tab.get {} (t.tgt h).priv 2).pending = true)) ∧
        (16 ≤ (s.rgl_ h).mbx.length → Runs (.lMbxPost g v) s fun t =>
          t = s.setRegl g { s.rgl_ g with postDone := true, postFull := true })) ∧
      (Runs (.lMbxPop g) s fun t => t = s.setRegl g { s.rgl_ g with mbx := (s.rgl_ g).mbx.tail }) ∧
      (∀ v : Word,
        ((((s.rglQ g).rxPi + 128 - bits v.toNat 6 0) % 128 ≤ 64 → Runs (.lRxqCiWrite g v) s fun t =>
          t = s.setRglQ g { s.rglQ g with rxCi := bits v.toNat 6 0 }) ∧
        (64 < ((s.rglQ g).rxPi + 128 - bits v.toNat 6 0) % 128 → Runs (.lRxqCiWrite g v) s fun t =>
          t.rglQ g = s.rglQ g ∧ t.latched .rglQueue g = true)) ∧
        ((bits v.toNat 4 0 + 32 - (s.rglQ g).txCi) % 32 ≤ 16 → Runs (.lTxqPiWrite g v) s fun t =>
          t = s.setRglQ g { s.rglQ g with txPi := bits v.toNat 4 0 }) ∧
        (16 < (bits v.toNat 4 0 + 32 - (s.rglQ g).txCi) % 32 → Runs (.lTxqPiWrite g v) s fun t =>
          t.rglQ g = s.rglQ g ∧ t.latched .rglQueue g = true))) ∧
    (∀ e : Bytes, e = Tab.get (List.replicate 96 0) (s.rglQ g).txq ((s.rglQ g).txCi % 16) → (s.rglQ g).txCount ≠ 0 →
      Tab.get (2 * (g / 2)) s.rgl.txTurn (32 + g / 2) = g →
      (s.txOwned g e = true → Runs (.txEntrySend g) s fun t =>
        (t.rglQ g).txCi = ((s.rglQ g).txCi + 1) % 32 ∧ (Tab.get {} (t.tgt g).priv 4).pending = true ∧
        ((t.swin (32 + g / 2)).wait.map fun f => (f.len, f.bufs)) =
          ((s.swin (32 + g / 2)).wait.map fun f => (f.len, f.bufs)) ++ [(bits (field e 0 2) 12 0, Tx.bufs e)]) ∧
      (s.txOwned g e = false → Runs (.txEntrySend g) s fun t =>
        (t.rglQ g).txCi = ((s.rglQ g).txCi + 1) % 32 ∧ (Tab.get {} (t.tgt g).priv 4).pending = true ∧
        t.fld Reg.RGL_TX_REJECT g = (s.fld Reg.RGL_TX_REJECT g + 1) % 4294967296 ∧ t.swc = s.swc)) ∧
    ((s.rglQ g).txCount = 0 → Runs (.txEntrySend g) s fun t => t = s)

/-- A complication in an entry calls the runtime's services, and each does what Table 15.10 says and answers in a0. With the clocks
running and no injection armed in the regulator's page, for a complication in slot k of a running regulator g, in an entry and not
stopped. YIELD ends its entry; a FRAME entry that waits begins with SYS_FRAME_COUNT in a0. MBX_RECV answers 1 at an empty mailbox,
else 0 with the head message, which leaves. MBX_SEND to a regulator with room answers 0 and posts, to a full mailbox 1. POOL
answers a status and buffer of the pool command of owner 8 + g. EVENT answers 0. TIME answers SYS_FRAME_COUNT and the UCLK cycles
since the mark. RXQ_TAKE and TXQ_POST answer 1 on an empty or full queue, else 0 and move one entry. PUBLISH stores the address
and LOOKUP answers it or 0, TIMER answers 0 and sets a timer, all three 0xFFFFFFFF below ABI level 2.
(15_escapements_and_regulators.md, R334, R335, R336, R337) -/
def Obligations.RuntimeServicesAnswer : Prop :=
  ∀ (s : State) (g k : Nat) (c : Cpl), s.pwr.clocksStopped = false → s.cplRuns g k = true → c = s.cpl g k →
    s.fld Reg.PG_ERR_INJECT_COUNT (pageOf Blk.rgl g) = 0 →
    (c.frameWaits = false → c.msgWaits = 0 → Runs (.yield g k) s fun t => (t.cpl g k).entry = 0 ∧ t = { s with rgl := t.rgl }) ∧
    (c.frameWaits = true → Runs (.yield g k) s fun t =>
      (t.cpl g k).entry = 2 ∧ (t.cpl g k).a0 = s.frameCount ∧ (t.cpl g k).frameWaits = false ∧ t = { s with rgl := t.rgl }) ∧
    ((s.rgl_ g).mbx = [] → Runs (.mbxRecv g k) s fun t => t = s.setCpl g k { c with a0 := 1, a1 := 0 }) ∧
    (∀ (m : Bytes) (ms : List Bytes), (s.rgl_ g).mbx = m :: ms → Runs (.mbxRecv g k) s fun t =>
      (t.cpl g k).a0 = 0 ∧ (t.cpl g k).got = m ∧ (t.rgl_ g).mbx = ms ∧ t = { s with rgl := t.rgl }) ∧
    (∀ (h : Nat) (m : Bytes), h < s.variant.regulators → s.pageEnabled Blk.rgl h = true →
      ((s.rgl_ h).mbx.length < 16 → Runs (.mbxSend g k h m) s fun t =>
        (t.cpl g k).a0 = 0 ∧ (t.rgl_ h).mbx = (s.rgl_ h).mbx ++ [leBytes g 2 ++ ((m ++ List.replicate 32 0).drop 2).take 30]) ∧
      (16 ≤ (s.rgl_ h).mbx.length → Runs (.mbxSend g k h m) s fun t => t = s.setCpl g k { c with a0 := 1, a1 := 0 })) ∧
    (∀ op b n o : Nat, Runs (.pool g k op b n o) s fun t =>
      ((t.cpl g k).a0, (t.cpl g k).a1) = ((s.poolCmd (8 + g) op b n o).1, (s.poolCmd (8 + g) op b n o).2.1) ∧
      t.pool = (s.poolCmd (8 + g) op b n o).2.2.pool) ∧
    (∀ (code : Nat) (args : List Word), Runs (.event g k code args) s fun t => (t.cpl g k).a0 = 0 ∧ (t.rgl_ g).mbx = (s.rgl_ g).mbx ∧ t.rglQ g = s.rglQ g ∧ t.esc = s.esc) ∧
    (Runs (.time g k) s fun t => t = s.setCpl g k
      { c with a0 := s.frameCount, a1 := (s.now - s.clb.lastMark) / Clk.uclk % 4294967296 }) ∧
    ((s.rglQ g).rxPi = (s.rglQ g).rxCi → Runs (.rxqTake g k) s fun t => t = s.setCpl g k { c with a0 := 1, a1 := 0 }) ∧
    ((s.rglQ g).rxPi ≠ (s.rglQ g).rxCi → Runs (.rxqTake g k) s fun t =>
      (t.cpl g k).a0 = 0 ∧ (t.cpl g k).got = Tab.get [] (s.rglQ g).rxq ((s.rglQ g).rxCi % 64) ∧
      t.rglQ g = { s.rglQ g with rxCi := ((s.rglQ g).rxCi + 1) % 128 } ∧ t = { s with rgl := t.rgl, rgq := t.rgq }) ∧
    (∀ e : Bytes, e.length = 96 →
      ((s.rglQ g).txCount = 16 → Runs (.txqPost g k e) s fun t => t = s.setCpl g k { c with a0 := 1, a1 := 0 }) ∧
      ((s.rglQ g).txCount ≠ 16 → Runs (.txqPost g k e) s fun t =>
        (t.cpl g k).a0 = 0 ∧ (t.rglQ g).txPi = ((s.rglQ g).txPi + 1) % 32 ∧
        Tab.get [] (t.rglQ g).txq ((s.rglQ g).txPi % 16) = e ∧ t = { s with rgl := t.rgl, rgq := t.rgq })) ∧
    (∀ kd a u : Nat,
      (2 ≤ c.abi → (Runs (.publish g k kd a) s fun t => Tab.get 0 t.rgl.published kd = a % 4294967296) ∧
        (Runs (.lookup g k kd) s fun t => t = s.setCpl g k { c with a0 := Tab.get 0 s.rgl.published kd, a1 := 0 }) ∧
        (Runs (.timer g k u) s fun t =>
          (t.cpl g k).a0 = 0 ∧ (t.cpl g k).timers = c.timers ++ [s.now + u * Clk.us] ∧ t = { s with rgl := t.rgl })) ∧
      (c.abi < 2 → (Runs (.publish g k kd a) s fun t => t = s.setCpl g k { c with a0 := 0xFFFFFFFF, a1 := 0 }) ∧
        (Runs (.lookup g k kd) s fun t => t = s.setCpl g k { c with a0 := 0xFFFFFFFF, a1 := 0 }) ∧
        (Runs (.timer g k u) s fun t => t = s.setCpl g k { c with a0 := 0xFFFFFFFF, a1 := 0 })))

/-- COMPLICATION_LOAD verifies and places an image; UNLOAD waits for the mark; accesses out of range or three overruns stop it; timers
enter. With the clocks running, for a COMPLICATION_LOAD that may start. UNLOAD of a kind that is not loaded ends with STATE; of a
loaded kind it waits for the next frame mark. A load from host memory whose read ends in an error ends with FAULTED. An image in
wrong form ends with BAD_ARG, reason 1 and its VERSION; a form that is right but a signature that does not verify with reason 2. A
signed image in form whose SEC_VER is at least FUSE_SECVER, of ABI level 1 or 2 and for B0, with no regulator that has room ends
with NO_RESOURCE; with room, INIT returning another value ends it with FAULTED, reason 6, and otherwise the job waits and the
complication is being loaded on that regulator in a slot of it. COMPLICATION_INIT_TIMEOUT ends a load with TIMEOUT, reason 6, when
INIT has not returned for 10 ms, and not before. With the clocks running, for a complication in slot k of a running regulator g
that is in an entry and not stopped. An access outside its ranges stops it at once: no entry, no timers. A FRAME call that has
lasted longer than FRAME_US and has not been counted counts as one overrun, the third in a row stops the complication, and no
other policy's complication changes. A service timer that has expired leaves the list and begins a MESSAGE entry, or lets one wait
while the complication is in another. (15_escapements_and_regulators.md, R325, R337, R338) -/
def Obligations.ComplicationsLoadStopAndTimers : Prop :=
  (∀ (s : State) (j : Nat), s.pwr.clocksStopped = false →
    (s.canStart j 0x50 = true →
      (bit (field (s.job j).args 21 1) 0 = true → ∀ (b : Bytes) (o : Option Bool),
        (s.findCpl (field (s.job j).args 22 1) = none → Runs (.complicationLoad j b .ok o) s fun t => t = s.finish j St.state) ∧
        ((s.findCpl (field (s.job j).args 22 1)).isSome = true → Runs (.complicationLoad j b .ok o) s fun t =>
          t.rgl = { s.rgl with unloads := s.rgl.unloads ++ [(j, field (s.job j).args 22 1)] } ∧ (t.job j).started = true ∧
          t = { s with rgl := t.rgl, rng := t.rng })) ∧
      (bit (field (s.job j).args 21 1) 0 = false → (addrSpace (field (s.job j).args 8 8)).1 = false →
        (addrSpace (field (s.job j).args 8 8)).2 + field (s.job j).args 16 4 ≤ 9223372036854775808 →
        ∀ (im : Bytes) (h : State), im.length = field (s.job j).args 16 4 →
          h = s.hostReq .memRead (addrSpace (field (s.job j).args 8 8)).2 im.length none →
          (∀ o, Runs (.complicationLoad j im .error o) s fun t => t = h.finish j St.faulted) ∧
          (im.length = Sg.length im → Sg.formatOk im 3 = true → 64 ≤ Sg.payloadLen im → Mani.ok im = true →
            ∀ o, Runs (.complicationLoad j im .ok o) s fun t =>
              (Config.signatureOk im = false → t = h.finish j St.badArg 2 (Sg.version im)) ∧
              (Config.signatureOk im = true → s.fuseSec ≤ Sg.secVer im → Sg.lo im % 256 = 1 ∨ Sg.lo im % 256 = 2 →
                Sg.stepping im = true →
                (h.placeFor (field (s.job j).args 20 1) im = none → t = h.finish j St.noResource 0 (Sg.version im)) ∧
                (∀ g, h.placeFor (field (s.job j).args 20 1) im = some g →
                  (o = some false → t = h.finish j St.faulted 6 (Sg.version im)) ∧
                  (o ≠ some false → (t.job j).started = true ∧
                    t.rgl.loading = s.rgl.loading ++ [⟨some j, g, (h.slotFor g (Sg.kind im)).getD 0, o == some true, s.now,
                      { Cpl.ofImage im s.rgl.order with entry := 1, entryAt := s.now, a0 := 2 }⟩] ∧
                    t = { h with rgl := t.rgl, rng := t.rng })))) ∧
          (im.length ≠ Sg.length im ∨ Sg.formatOk im 3 = false ∨ Mani.ok im = false →
            ∀ o, Runs (.complicationLoad j im .ok o) s fun t => t = h.finish j St.badArg 1 (Sg.version im)))) ∧
    (∀ l : CplLoad, s.rgl.loading = [l] → l.job = some j → l.initDone = false →
      (s.now < l.startedAt + 10 * Clk.ms → Runs (.complicationInitTimeout j) s fun t => t = s) ∧
      (l.startedAt + 10 * Clk.ms ≤ s.now → Runs (.complicationInitTimeout j) s fun t =>
        t = State.finish { s with rgl := { s.rgl with loading := [] } } j St.timeout 6 l.cpl.version))) ∧
  (∀ (s : State) (g k : Nat) (c : Cpl), s.pwr.clocksStopped = false → s.rglRuns g = true → c = s.cpl g k →
    c.stopped = false →
    (Tab.has (s.rgl_ g).cpls k = true → c.entry ≠ 0 →
      (Runs (.frameOverrunStop g k true) s fun t =>
        (t.cpl g k).stopped = true ∧ (t.cpl g k).entry = 0 ∧ (t.cpl g k).timers = [] ∧
        (∀ n, n ≠ k → t.cpl g n = s.cpl g n) ∧ (∀ h, h ≠ g → t.rgl_ h = s.rgl_ h)) ∧
      (c.entry = 2 → c.overran = false → c.entryAt + Mani.frameUs c.image * Clk.us < s.now →
        (c.overruns < 2 → Runs (.frameOverrunStop g k false) s fun t =>
          t = s.setCpl g k { c with overran := true, overruns := c.overruns + 1 }) ∧
        (2 ≤ c.overruns → Runs (.frameOverrunStop g k false) s fun t =>
          (t.cpl g k).stopped = true ∧ (t.cpl g k).entry = 0 ∧ (∀ n, n ≠ k → t.cpl g n = s.cpl g n))) ∧
      (s.now ≤ c.entryAt + Mani.frameUs c.image * Clk.us → Runs (.frameOverrunStop g k false) s fun t => t = s)) ∧
    (∀ (u : Nat) (us : List Nat), c.timers = u :: us → u ≤ s.now →
      (c.entry = 0 → Runs (.timerExpire g k) s fun t => t = s.setCpl g k { c with timers := us, entry := 3, entryAt := s.now }) ∧
      (c.entry ≠ 0 → Runs (.timerExpire g k) s fun t => t = s.setCpl g k { c with timers := us, msgWaits := c.msgWaits + 1 })) ∧
    (c.timers = [] → Runs (.timerExpire g k) s fun t => t = s))

/-- A rising edge sets a source's pending bit, a line held high or a level of 0 does not; software raises and clears pending bits.
With the clocks running, no injection armed in INT, its pages open to register writes and no reserved bit written. A sample of 1
after a sample of 0 of a shared source (33 to 1022) or of a private source of a regulator of the variant makes it pending; another
sample changes only the line. INT_SWSET with a shared ID makes that source pending; with another ID nothing changes but INT.cfg,
which latches. L_INT_SWSET makes private IDs 7 + k pending for every set bit k of its ten. INT_TIMER_MATCH makes private ID 1
pending when the low 32 bits of the UCLK count equal L_INT_TIMER, else nothing happens. A write of 1s to INT_PENDw clears those
sources' pending bits and no others, and words of IDs 0 to 32 and 1023 take nothing. No command here but the edge of a round-robin
source assigns a regulator. (17_interrupts.md, R351, R352) -/
def Obligations.InterruptEdgesPend : Prop :=
  ∀ s : State, s.pwr.clocksStopped = false →
    (∀ (id : Nat) (b : Bool), 33 ≤ id → id ≤ 1022 → s.fld Reg.PG_ERR_INJECT_COUNT (pageOf Blk.int (1 + id / 256)) = 0 →
      (b = true → (s.src id).line = false → Runs (.intSourceEdge id none b) s fun t =>
        (t.src id).pending = true ∧ (t.src id).line = true ∧ (∀ k, k ≠ id → t.src k = s.src k) ∧ t.int.tgt = s.int.tgt) ∧
      (b = false ∨ (s.src id).line = true → Runs (.intSourceEdge id none b) s fun t =>
        t = s.setSrc id { s.src id with line := b })) ∧
    (∀ (g id : Nat) (b : Bool), g < s.variant.regulators → 1 ≤ id → id ≤ 32 →
      (b = true → (Tab.get {} (s.tgt g).priv id).line = false → Runs (.intSourceEdge id (some g) b) s fun t =>
        Tab.get {} (t.tgt g).priv id = { Tab.get {} (s.tgt g).priv id with pending := true, line := true } ∧
        (∀ h, h ≠ g → t.tgt h = s.tgt h) ∧ t = { s with int := t.int }) ∧
      (b = false ∨ (Tab.get {} (s.tgt g).priv id).line = true → Runs (.intSourceEdge id (some g) b) s fun t =>
        Tab.get {} (t.tgt g).priv id = { Tab.get {} (s.tgt g).priv id with line := b } ∧ t = { s with int := t.int })) ∧
    (∀ v : Word,
      (s.pageOpen Blk.int 0 = true → rsvBits v 0x3FF = 0 → 33 ≤ bits v.toNat 9 0 → bits v.toNat 9 0 ≤ 1022 → Runs (.intSwset v) s fun t =>
        (t.src (bits v.toNat 9 0)).pending = true ∧ (∀ k, k ≠ bits v.toNat 9 0 → t.src k = s.src k)) ∧
      (s.pageOpen Blk.int 0 = true → rsvBits v 0x3FF = 0 → bits v.toNat 9 0 < 33 ∨ 1022 < bits v.toNat 9 0 → Runs (.intSwset v) s fun t => t = s.latch .intCfg ∧ t.latched .intCfg = true)) ∧
    (∀ (g : Nat) (v : Word), g < s.variant.regulators → Runs (.lIntSwset g v) s fun t =>
      (∀ k, k < 10 → Tab.get {} (t.tgt g).priv (7 + k) = { Tab.get {} (s.tgt g).priv (7 + k) with
        pending := (Tab.get {} (s.tgt g).priv (7 + k)).pending || bit v.toNat k }) ∧ t = { s with int := t.int }) ∧
    (∀ g : Nat, g < s.variant.regulators →
      (s.now / Clk.uclk % 4294967296 = (s.tgt g).timer → Runs (.intTimerMatch g) s fun t =>
        (Tab.get {} (t.tgt g).priv 1).pending = true ∧ t = { s with int := t.int }) ∧
      (s.now / Clk.uclk % 4294967296 ≠ (s.tgt g).timer → Runs (.intTimerMatch g) s fun t => t = s)) ∧
    (∀ (p w : Nat) (v : Word), 1 ≤ p → p ≤ 4 → w < 8 → s.pageOpen Blk.int p = true → Runs (.intPendClear p w v) s fun t =>
      (∀ b, b < 32 → 33 ≤ 256 * (p - 1) + 32 * w + b → 256 * (p - 1) + 32 * w + b ≤ 1022 → bit v.toNat b = true →
        (t.src (256 * (p - 1) + 32 * w + b)).pending = false) ∧
      (∀ k, k < 33 ∨ 1022 < k ∨ k / 32 ≠ 8 * (p - 1) + w ∨ bit v.toNat (k % 32) = false → t.src k = s.src k) ∧
      t = { s with int := t.int })

/-- An entry takes the eligible source of highest PRIO and lowest ID, or 1023; MRET ends its handler, and chains where one is
eligible. With the clocks running, for a regulator g of the variant. With no entry under way, depth d below 3, an eligible source
and not before the first instruction of the handler just entered, INT_ENTRY saves the pc and the current level in shadow entry d +
1 and switches to bank d + 1; at depth 3, with HOLD set, with nothing eligible or before that first instruction it changes
nothing. The take point that follows takes a source of the eligible ones that no other outranks (higher PRIO, or the same and a
lower ID): its pending bit clears, it is ACTIVE, level becomes PRIO + 1, INT_TGT_TAKEN counts and the pc comes from its vector
word, where the runtime's part of IMEM holds it; every other source is as before. With HOLD set or nothing eligible it takes 1023:
INT_TGT_SPURIOUS counts and no source changes. With the clocks running, for a regulator with a handler and no entry under way
whose innermost source is a private one. With HOLD set, or nothing eligible at the level r that it returns to (L_INT_THRESH at
depth 1, else the saved level), MRET clears that source's ACTIVE, the shadow entry goes, the level is r, the bank is the one below
and the pc the saved one. With an eligible source it keeps the shadow entry and the bank, the level is r, and the chained take
point follows: it counts INT_TGT_CHAINED. A regulator without a handler, or with an entry under way, takes no MRET.
(17_interrupts.md, R353, R355, R356, R358, R357) -/
def Obligations.InterruptEntryAndExit : Prop :=
  (∀ (s : State) (g pc : Nat), s.pwr.clocksStopped = false → g < s.variant.regulators →
    ((s.tgt g).taking = none →
      ((s.tgt g).shadow.length < 3 → s.fld Reg.INT_GLOBAL_HOLD = 0 → s.intEligible g (s.tgt g).curLevel ≠ [] →
        (s.tgt g).fresh = false ∨ pc ≠ (s.tgt g).pc → Runs (.intEntry g pc) s fun t =>
          t = s.setTgt g { s.tgt g with
            shadow := ⟨pc, (s.tgt g).curLevel, 0⟩ :: (s.tgt g).shadow
            level := (s.tgt g).curLevel
            bank := (s.tgt g).shadow.length + 1
            taking := some false
            fresh := false }) ∧
      (3 ≤ (s.tgt g).shadow.length ∨ s.fld Reg.INT_GLOBAL_HOLD ≠ 0 ∨ s.intEligible g (s.tgt g).curLevel = [] ∨
        ((s.tgt g).fresh = true ∧ pc = (s.tgt g).pc) → Runs (.intEntry g pc) s fun t => t = s)) ∧
    (∀ (e : Shadow) (es : List Shadow) (c : Nat), (s.tgt g).taking = some false → (s.tgt g).shadow = e :: es →
      c = (if es = [] then (s.tgt g).thresh else (s.tgt g).level) →
      (s.fld Reg.INT_GLOBAL_HOLD = 0 → s.intEligible g c ≠ [] → Runs (.intEntry g pc) s fun t =>
        ∃ m ∈ s.intEligible g c,
          (∀ n ∈ s.intEligible g c, n.1 < m.1 ∨ (n.1 = m.1 ∧ m.2 ≤ n.2)) ∧
          (t.tgt g).shadow = { e with id := m.2 } :: es ∧ (t.tgt g).level = m.1 + 1 ∧ (t.tgt g).taking = none ∧
          (m.2 ≤ 1022 → (t.tgt g).taken = ((s.tgt g).taken + 1) % 4294967296 ∧ (t.tgt g).spurious = (s.tgt g).spurious) ∧
          ((s.tgt g).vbase * 4096 + 4 * m.2 + 4 ≤ 16384 →
            (t.tgt g).pc = leNat ((s.rgl_ g).imem.readBytes ((s.tgt g).vbase * 4096 + 4 * m.2) 4)) ∧
          (m.2 ≤ 32 → (Tab.get {} (t.tgt g).priv m.2).pending = false ∧ (Tab.get {} (t.tgt g).priv m.2).active = true ∧
            (∀ k, t.src k = s.src k)) ∧
          (32 < m.2 → m.2 ≤ 1022 → (t.src m.2).pending = false ∧ (t.src m.2).active = true ∧ (t.tgt g).priv = (s.tgt g).priv) ∧
          (∀ k, k ≠ m.2 → t.src k = s.src k ∧ Tab.get {} (t.tgt g).priv k = Tab.get {} (s.tgt g).priv k)) ∧
      (s.fld Reg.INT_GLOBAL_HOLD ≠ 0 ∨ s.intEligible g c = [] → Runs (.intEntry g pc) s fun t =>
        (t.tgt g).shadow = { e with id := 1023 } :: es ∧ (t.tgt g).level = c ∧ (t.tgt g).taking = none ∧
        (t.tgt g).spurious = ((s.tgt g).spurious + 1) % 4294967296 ∧ (t.tgt g).taken = (s.tgt g).taken ∧
        t.int.src = s.int.src ∧ (t.tgt g).priv = (s.tgt g).priv))) ∧
  (∀ (s : State) (g : Nat) (e : Shadow) (es : List Shadow) (r : Nat), s.pwr.clocksStopped = false →
    (s.tgt g).shadow = e :: es → r = (if es = [] then (s.tgt g).thresh else e.level) →
    ((s.tgt g).taking = none → 1 ≤ e.id → e.id ≤ 32 →
      (s.fld Reg.INT_GLOBAL_HOLD ≠ 0 ∨ s.intEligible g r = [] → Runs (.intMret g) s fun t =>
        (t.tgt g).shadow = es ∧ (t.tgt g).level = r ∧ (t.tgt g).bank = es.length ∧ (t.tgt g).pc = e.pc ∧
        (Tab.get {} (t.tgt g).priv e.id).active = false ∧ t = { s with int := t.int }) ∧
      (s.fld Reg.INT_GLOBAL_HOLD = 0 → s.intEligible g r ≠ [] → Runs (.intMret g) s fun t =>
        (t.tgt g).shadow = e :: es ∧ (t.tgt g).level = r ∧ (t.tgt g).bank = (s.tgt g).bank ∧ (t.tgt g).taking = some true ∧
        (Tab.get {} (t.tgt g).priv e.id).active = false ∧ t = { s with int := t.int })) ∧
    (∀ b : Bool, (s.tgt g).taking = some b → Runs (.intMret g) s fun t => t = s) ∧
    (g < s.variant.regulators → (s.tgt g).taking = some true → ∀ pc : Nat, Runs (.intEntry g pc) s fun t =>
      (t.tgt g).chained = ((s.tgt g).chained + 1) % 4294967296 ∧ (t.tgt g).bank = (s.tgt g).bank ∧ (t.tgt g).taking = none ∧
      (t.tgt g).shadow.map (fun x => (x.pc, x.level)) = (s.tgt g).shadow.map (fun x => (x.pc, x.level))))

/-- A claim of a host source returns it once, else 1023; completion clears ACTIVE and lets a new message follow; INT_GLOBAL takes its
bits. With the clocks running, the INT pages open to register writes and no reserved bit written. A write of INT_GLOBAL stores
HOLD and HOST_EN; setting HOLD changes nothing else and no message is sent. A read of INT_HCLAIMi of a shared HOST source whose
condition holds (ENABLE, PENDING, not ACTIVE, HOLD clear) answers i, clears PENDING and sets ACTIVE; a second one, and one whose
condition does not hold, answers 1023 and changes nothing else. A write completes the source: ACTIVE clears and PENDING stays, and
where the source is pending, enabled and HOST with HOST_EN set and HOLD clear, the message goes to its VECTOR: an unmasked one is
sent and INT_HOST_MSGS counts, a masked one sets its PBA bit. (R360) -/
def Obligations.HoldAndHostClaims : Prop :=
  ∀ s : State, s.pwr.clocksStopped = false →
    (∀ v : Word, s.pageOpen Blk.int 0 = true → rsvBits v 3 = 0 → bit v.toNat 0 = true → Runs (.intHoldSet v) s fun t =>
      t.fld Reg.INT_GLOBAL_HOLD = 1 ∧ t.fld Reg.INT_GLOBAL_HOST_EN = bits v.toNat 1 1 ∧ t = { s with regs := t.regs }) ∧
    (∀ v : Word, s.pageOpen Blk.int 0 = true → rsvBits v 3 = 0 → bit v.toNat 0 = false → Runs (.intHoldClear v) s fun t =>
      t.fld Reg.INT_GLOBAL_HOLD = 0 ∧ t.fld Reg.INT_GLOBAL_HOST_EN = bits v.toNat 1 1 ∧ t.int = s.int ∧
      (s.fld Reg.INT_GLOBAL_HOLD = 0 → t = { s with regs := t.regs })) ∧
    (∀ id : Nat, 33 ≤ id → id ≤ 1022 → s.pageOpen Blk.int (id / 256 + 1) = true →
      (s.flag Reg.INT_SRC_HOST id = true → s.hostCond id = true → Runs (.intHclaimRead id) s fun t =>
        t.hst.lastRead = some (leBytes id 4, false) ∧ (t.src id).pending = false ∧ (t.src id).active = true ∧
        (∀ k, k ≠ id → t.src k = s.src k) ∧ t = { s with int := t.int, hst := t.hst } ∧
        Runs (.intHclaimRead id) t fun u => u.hst.lastRead = some (leBytes 1023 4, false) ∧ u.int = t.int) ∧
      (s.flag Reg.INT_SRC_HOST id = false ∨ s.hostCond id = false → Runs (.intHclaimRead id) s fun t =>
        t = { s with hst := { s.hst with lastRead := some (leBytes 1023 4, false) } }) ∧
      (∀ v : Word, Runs (.intHclaimWrite id v) s fun t =>
        t.src id = { s.src id with active := false } ∧ (∀ k, k ≠ id → t.src k = s.src k) ∧
        ((s.src id).active = true → (s.src id).pending = true → s.flag Reg.INT_SRC_ENABLE id = true →
          s.flag Reg.INT_SRC_HOST id = true → s.flag Reg.INT_GLOBAL_HOLD = false → s.flag Reg.INT_GLOBAL_HOST_EN = true →
          ((s.vec (s.fld Reg.INT_SRC_VECTOR id)).masked = false →
            t.fld Reg.INT_HOST_MSGS = (s.fld Reg.INT_HOST_MSGS + 1) % 4294967296 ∧
            (t.vec (s.fld Reg.INT_SRC_VECTOR id)).sent = (s.vec (s.fld Reg.INT_SRC_VECTOR id)).sent + 1) ∧
          ((s.vec (s.fld Reg.INT_SRC_VECTOR id)).masked = true → (t.vec (s.fld Reg.INT_SRC_VECTOR id)).pba = true ∧
            t.fld Reg.INT_HOST_MSGS = s.fld Reg.INT_HOST_MSGS))))

/-- W1C clears sticky bits but C4 bits and present causes, ENABLE of a set bit counts as a latch, injection arms checkers. With the
clocks running, for the register page of a block instance that is open to register writes. PG_ERR_STICKY: written 1s clear their
bits, but C4 bits stay and a bit whose cause is still present is set again; with no cause present nothing else changes but test
unlock's arming on the FLT page. PG_ERR_ENABLE takes the value, C4 bits 1: where no set sticky bit becomes enabled nothing else
changes, and where exactly one does, of class below 3, FLT_COUNT of its class counts it and source 33 + class is pending.
PG_ERR_INJECT: without reserved bits, COUNT 0 disarms and stores the other fields; a source without a checker, or a privileged one
while test unlock is not UNLOCKED, leaves the armed checker as it was (the latter latches FLT.inject); any other arms COUNT,
SOURCE and DOUBLE. FAULT_N_PULSE_END ends a pulse that has lasted 10 us, and changes nothing else. (18_faults_and_self_test.md,
R364, R365, R366, R367, R372, R373) -/
def Obligations.StickyEnableAndInject : Prop :=
  ∀ (s : State) (p blk inst : Nat) (v : Word), s.pwr.clocksStopped = false → pageOwner s.variant p = some (blk, inst) → s.pageOpen blk inst = true →
    (s.flt.present = [] → Runs (.pgErrStickyW1c p v) s fun t =>
      t = (s.disarm blk).setFld Reg.PG_ERR_STICKY p (s.sticky p &&& (0xFFFFFFFF ^^^ (v.toNat &&& (0xFFFFFFFF ^^^ Src.c4Mask blk))))) ∧
    (Runs (.pgErrStickyW1c p v) s fun t =>
      (∀ b, b < 32 → bit v.toNat b = true → bit (Src.c4Mask blk) b = false → (p * 32 + b) ∈ s.flt.present →
        bit (t.sticky p) b = true) ∧
      (∀ b, b < 32 → bit (Src.c4Mask blk) b = true ∨ bit v.toNat b = false → bit (s.sticky p) b = true → bit (t.sticky p) b = true)) ∧
    (Runs (.pgErrEnableWrite p v) s fun t =>
      (∀ b, b < 32 → bit (t.fld Reg.PG_ERR_ENABLE p) b = (bit v.toNat b || bit (Src.c4Mask blk) b)) ∧
      ((∀ b, b < 32 → bit v.toNat b = true → bit (s.fld Reg.PG_ERR_ENABLE p) b = true ∨ bit (Src.c4Mask blk) b = true ∨
        bit (s.sticky p) b = false) → t = (s.disarm blk).setFld Reg.PG_ERR_ENABLE p (v.toNat ||| Src.c4Mask blk)) ∧
      (∀ b, b < 32 → v.toNat = 2 ^ b → bit (s.fld Reg.PG_ERR_ENABLE p) b = false → bit (Src.c4Mask blk) b = false →
        bit (s.sticky p) b = true → s.effClass (srcAt blk b) inst < 3 →
        t.fld Reg.FLT_COUNT (s.effClass (srcAt blk b) inst) = (s.fld Reg.FLT_COUNT (s.effClass (srcAt blk b) inst) + 1) % 4294967296 ∧
        (t.src (33 + s.effClass (srcAt blk b) inst)).pending = true)) ∧
    (bits v.toNat 7 0 = 0 → v.toNat < 16384 → Runs (.pgErrInjectWrite p v) s fun t =>
      t.fld Reg.PG_ERR_INJECT_COUNT p = 0 ∧ t.fld Reg.PG_ERR_INJECT_SOURCE p = bits v.toNat 12 8 ∧
      t.fld Reg.PG_ERR_INJECT_DOUBLE p = bits v.toNat 13 13 ∧ t = { s.disarm blk with regs := t.regs }) ∧
    (bits v.toNat 7 0 ≠ 0 → v.toNat < 16384 →
      ((srcAt blk (bits v.toNat 12 8)).hasChecker = false → Runs (.pgErrInjectWrite p v) s fun t => t = s.disarm blk) ∧
      ((srcAt blk (bits v.toNat 12 8)).hasChecker = true → (srcAt blk (bits v.toNat 12 8)).privileged = true →
        s.flt.unlocked = false → Runs (.pgErrInjectWrite p v) s fun t =>
          t.latched .fltInject = true ∧ t.fld Reg.PG_ERR_INJECT_COUNT p = s.fld Reg.PG_ERR_INJECT_COUNT p) ∧
      ((srcAt blk (bits v.toNat 12 8)).hasChecker = true →
        (srcAt blk (bits v.toNat 12 8)).privileged = false ∨ s.flt.unlocked = true → Runs (.pgErrInjectWrite p v) s fun t =>
          t.fld Reg.PG_ERR_INJECT_COUNT p = bits v.toNat 7 0 ∧ t.fld Reg.PG_ERR_INJECT_SOURCE p = bits v.toNat 12 8 ∧
          t.fld Reg.PG_ERR_INJECT_DOUBLE p = bits v.toNat 13 13 ∧ t = { s.disarm blk with regs := t.regs })) ∧
    (s.flt.pulseAt + 10 * Clk.us ≤ s.now → Runs .faultNPulseEnd s fun t => t = { s with flt := { s.flt with pulse := false } }) ∧
    (s.now < s.flt.pulseAt + 10 * Clk.us → Runs .faultNPulseEnd s fun t => t = s)

/-- Test unlock takes 0x7E57 and then 0x81A8 within 100 us with TEST_MODE held; a private JTAG code acts only while UNLOCKED. With the
clocks running; key writes with the FLT page open to register writes and no reserved bit. A KEY write while TEST_MODE is not held
high changes nothing but FLT.inject, which latches. With it held, 0x7E57 arms; armed, 0x81A8 within 100 us clears the device key,
the key-ladder outputs and the IDE keys and unlocks; later, or any other key, disarms without unlocking. TEST_UNLOCK_ARM_TIMEOUT
disarms. JTAG_INSTRUCTION puts a listed public code in force at all times, a private code 0x80 to 0xFE only while UNLOCKED, and
BYPASS for any other, and IDCODE captures the variant's code, another instruction 0; nothing else changes.
(18_faults_and_self_test.md, 22_electrical_and_package.md, R374, R375, R376, R432) -/
def Obligations.TestUnlockAndScan : Prop :=
  ∀ (s : State) (v : Word),
    (s.pwr.clocksStopped = false →
      (s.pageOpen Blk.flt 0 = true → v.toNat < 65536 → s.flt.testHeld = false →
        (Runs (.testUnlockKey1 v) s fun t => t = s.latch .fltInject ∧ t.latched .fltInject = true) ∧
        (Runs (.testUnlockKey2 v) s fun t => t = s.latch .fltInject ∧ t.latched .fltInject = true)) ∧
      (s.pageOpen Blk.flt 0 = true → v.toNat < 65536 → s.flt.testHeld = true →
        (s.flt.armed = false →
          (bits v.toNat 15 0 = 0x7E57 → Runs (.testUnlockKey1 v) s fun t =>
            t = { s with flt := { s.flt with armed := true, armedAt := s.now } }) ∧
          (bits v.toNat 15 0 ≠ 0x7E57 → Runs (.testUnlockKey1 v) s fun t => t = s)) ∧
        (s.flt.armed = true →
          (bits v.toNat 15 0 = 0x81A8 → s.now ≤ s.flt.armedAt + 100 * Clk.us → Runs (.testUnlockKey2 v) s fun t =>
            t.flt = { s.flt with armed := false, unlocked := true } ∧ t.hst.keysPresent = false ∧ t.hst.keysCleared = true ∧
            (s.flag Reg.HST_LINK_STATUS_IDE_ACTIVE = true → t.hst.ideInsecure = true) ∧
            t.fld Reg.HST_LINK_STATUS_IDE_ACTIVE = 0 ∧ t = { s with flt := t.flt, hst := t.hst, regs := t.regs }) ∧
          (bits v.toNat 15 0 ≠ 0x81A8 ∨ s.flt.armedAt + 100 * Clk.us < s.now → Runs (.testUnlockKey2 v) s fun t =>
            t = { s with flt := { s.flt with armed := false } }))) ∧
      (Runs .testUnlockArmTimeout s fun t => t = { s with flt := { s.flt with armed := false } })) ∧
    (∀ c : Nat, c < 256 → Runs (.jtagInstruction c) s fun t =>
      t = { s with flt := { s.flt with
        jtag := if c ≤ 4 ∨ (0x80 ≤ c ∧ c ≤ 0xFE ∧ s.flt.unlocked = true) then c else 0xFF
        jtagData := if c = 2 then idcode s.variant else 0 } })

/-- Scrub corrects or logs a line; CLEAR empties the log; zeroing runs to ZEROED; a frequency change starts, ends and loads its timing
set. With the clocks running and no injection armed in MEM. PATROL_SCRUB of a good line of usable DRAM that is not being zeroed: a
clean line changes nothing; a correctable error counts in its channel's MEM_CE_COUNT and latches MEM.ce; an uncorrectable one, and
any line that holds poison, gets one log entry with its address, channel, port 15, KIND 2 and SYS_FRAME_COUNT at HEAD, MEM.ue
latches, HEAD moves on and VALID counts to 16, from where on LOST counts up to 255. With SCRUB.HOURS 0 nothing happens. CLEAR,
where register writes reach MEM, makes VALID, HEAD and LOST 0 and changes nothing else. With the clocks running and, for the
register writes, MEM reached and no reserved bit set. ZERO_CHUNK moves zeroing past its next chunk, those already zeroed included,
and sets ZEROED when none of the usable capacity is left; without zeroing under way it does nothing; it never changes the bytes of
the DRAM. MEM_FREQ_CTL.GO stores TARGET; while FREQ_BUSY it starts nothing and MEM.busy latches; with TARGET (3 as 0) the point in
use it does nothing more; else FREQ_BUSY is set and the change goes to TARGET. The change ends, while no DRAM group is DRAINING or
WAKING, with FREQ the target, FREQ_BUSY 0 and the target's timing words loaded; without one under way nothing happens. MEM_TIMf_w
takes 16 bits for a point that is not in use; for the point in use MEM.busy latches and the set stays.
(19_memory_and_keeping_store.md, R383, R384, R385, R386, R389, R390, R391, R407) -/
def Obligations.DramErrorsZeroingAndFrequency : Prop :=
  (∀ (s : State) (line channel : Nat), s.pwr.clocksStopped = false → s.fld Reg.PG_ERR_INJECT_COUNT (pageOf Blk.mem 0) = 0 →
    (s.fld Reg.MEM_SCRUB_HOURS = 0 → ∀ e, Runs (.patrolScrub line channel e) s fun t => t = s) ∧
    (s.fld Reg.MEM_SCRUB_HOURS ≠ 0 → s.dramOk (line * 64) 64 = true → s.mem.zeroing = false →
      (s.mem.poison.contains line = false →
        (Runs (.patrolScrub line channel .clean) s fun t => t = s) ∧
        (channel < 24 → Runs (.patrolScrub line channel .corrected) s fun t =>
          t.fld Reg.MEM_CE_COUNT channel = (s.fld Reg.MEM_CE_COUNT channel + 1) % 4294967296 ∧ t.latched .memCe = true ∧
          t.mem = s.mem)) ∧
      (∀ e, e = .uncorrectable ∨ s.mem.poison.contains line = true → Runs (.patrolScrub line channel e) s fun t =>
        t.latched .memUe = true ∧
        t.mem = { s.mem with log := Tab.set s.mem.log (s.fld Reg.MEM_ERRLOG_CTL_HEAD) ⟨line * 64, channel, 15, 2, s.frameCount⟩ } ∧
        t.fld Reg.MEM_ERRLOG_CTL_HEAD = (s.fld Reg.MEM_ERRLOG_CTL_HEAD + 1) % 16 ∧
        (s.fld Reg.MEM_ERRLOG_CTL_VALID < 16 → t.fld Reg.MEM_ERRLOG_CTL_VALID = s.fld Reg.MEM_ERRLOG_CTL_VALID + 1 ∧
          t.fld Reg.MEM_ERRLOG_CTL_LOST = s.fld Reg.MEM_ERRLOG_CTL_LOST) ∧
        (16 ≤ s.fld Reg.MEM_ERRLOG_CTL_VALID → t.fld Reg.MEM_ERRLOG_CTL_VALID = s.fld Reg.MEM_ERRLOG_CTL_VALID ∧
          t.fld Reg.MEM_ERRLOG_CTL_LOST = min 255 (s.fld Reg.MEM_ERRLOG_CTL_LOST + 1)))) ∧
    (s.pageOpen Blk.mem 0 = true → Runs .memErrlogClear s fun t =>
      t.fld Reg.MEM_ERRLOG_CTL_VALID = 0 ∧ t.fld Reg.MEM_ERRLOG_CTL_HEAD = 0 ∧ t.fld Reg.MEM_ERRLOG_CTL_LOST = 0 ∧
      t = { s with regs := t.regs })) ∧
  (∀ s : State, s.pwr.clocksStopped = false →
    (s.mem.zeroing = false → Runs .zeroChunk s fun t => t = s) ∧
    (s.mem.zeroing = true → s.mem.zeroed = [] →
      (s.chunks ≤ s.mem.zeroNext + 1 → Runs .zeroChunk s fun t =>
        t.mem.zeroing = false ∧ t.fld Reg.MEM_STATUS_ZEROED = 1 ∧ t.mem.dram = s.mem.dram ∧ t = { s with mem := t.mem, regs := t.regs }) ∧
      (s.mem.zeroNext + 1 < s.chunks → Runs .zeroChunk s fun t => t = { s with mem := { s.mem with zeroNext := s.mem.zeroNext + 1 } })) ∧
    (∀ v : Word, s.pageOpen Blk.mem 0 = true → rsvBits v 7 = 0 → bit v.toNat 2 = true →
      (s.flag Reg.MEM_STATUS_FREQ_BUSY = true → Runs (.memFreqGo v) s fun t =>
        t.latched .memBusy = true ∧ t.mem = s.mem ∧ t.fld Reg.MEM_FREQ_CTL_TARGET = bits v.toNat 1 0) ∧
      (s.flag Reg.MEM_STATUS_FREQ_BUSY = false →
        (bits v.toNat 1 0 % 3 = s.fld Reg.MEM_STATUS_FREQ → Runs (.memFreqGo v) s fun t =>
          t = s.setFld Reg.MEM_FREQ_CTL_TARGET 0 (bits v.toNat 1 0)) ∧
        (bits v.toNat 1 0 % 3 ≠ s.fld Reg.MEM_STATUS_FREQ → Runs (.memFreqGo v) s fun t =>
          t.flag Reg.MEM_STATUS_FREQ_BUSY = true ∧ t.mem = { s.mem with freqTarget := bits v.toNat 1 0 % 3 } ∧
          t.fld Reg.MEM_STATUS_FREQ = s.fld Reg.MEM_STATUS_FREQ ∧ t = { s with mem := t.mem, regs := t.regs }))) ∧
    (∀ v : Word, s.pageOpen Blk.mem 0 = true → rsvBits v 7 = 0 → bit v.toNat 2 = false → Runs (.memFreqGo v) s fun t =>
      t = s.setFld Reg.MEM_FREQ_CTL_TARGET 0 (bits v.toNat 1 0)) ∧
    (s.mem.heldReq = [] → s.flag Reg.MEM_STATUS_FREQ_BUSY = false → Runs .memFreqDone s fun t => t = s) ∧
    (s.mem.heldReq = [] → s.flag Reg.MEM_STATUS_FREQ_BUSY = true →
      (s.groupMoving = false → s.mem.freqTarget < 3 → Runs .memFreqDone s fun t =>
        t.fld Reg.MEM_STATUS_FREQ = s.mem.freqTarget ∧ t.flag Reg.MEM_STATUS_FREQ_BUSY = false ∧
        (∀ w, w < 8 → Tab.get 0 t.mem.tim w = s.fld Reg.MEM_TIM_VALUE (8 * s.mem.freqTarget + w)) ∧
        t = { s with mem := t.mem, regs := t.regs }) ∧
      (s.groupMoving = true → Runs .memFreqDone s fun t => t = s)) ∧
    (∀ (f w : Nat) (v : Word), f < 3 → w < 8 → s.pageOpen Blk.mem 0 = true → rsvBits v 0xFFFF = 0 →
      (f = s.fld Reg.MEM_STATUS_FREQ → Runs (.memTimingWrite f w v) s fun t => t = s.latch .memBusy ∧ t.latched .memBusy = true) ∧
      (f ≠ s.fld Reg.MEM_STATUS_FREQ → Runs (.memTimingWrite f w v) s fun t =>
        t = s.setFld Reg.MEM_TIM_VALUE (8 * f + w) (v.toNat % 65536))))

/-- KST_XFER checks its region and range, copies its lines, and reports LOCKED, RANGE, UE or WEAR. With the clocks running and no
injection armed in KST or MEM; register writes reach KST, with no reserved bit set. GO while BUSY is ignored and latches
KST.access. A write to a region other than 7 ends at once with RESULT 1 and latches KST.access; a range that leaves its region or
lies beyond MEM_USABLE ends with RESULT 2; else BUSY is set and the transfer waits. A transfer of one line to device memory, with
no HDM decoder committed, copies the 64 bytes and ends with RESULT 0, or with 3 and KST.ue when the line cannot be read; to the
keeping store it stores the bytes that the device line holds (device bias, no poison), or ends with RESULT 4 and KST.wear when the
page's endurance refuses it. Without GO or without a transfer nothing but WRITE changes. (19_memory_and_keeping_store.md, R393,
R397, R398) -/
def Obligations.KeepingStoreTransfers : Prop :=
  ∀ s : State, s.pwr.clocksStopped = false → s.fld Reg.PG_ERR_INJECT_COUNT (pageOf Blk.kst 0) = 0 →
    s.fld Reg.PG_ERR_INJECT_COUNT (pageOf Blk.mem 0) = 0 →
    (∀ (v : Word) (off dst n : Nat), off = s.fld Reg.KST_XFER_OFF * 64 → n = s.fld Reg.KST_XFER_LEN →
      dst = addr64 (s.fld Reg.KST_XFER_DST_LO_ADDR * 64) (s.fld Reg.KST_XFER_DST_HI) →
      s.pageOpen Blk.kst 0 = true → rsvBits v 0xF07 = 0 →
      (bit v.toNat 0 = false → Runs (.kstXferGo v) s fun t => t = s.setFld Reg.KST_XFER_CTL_WRITE 0 (bits v.toNat 1 1)) ∧
      (bit v.toNat 0 = true → s.flag Reg.KST_XFER_CTL_BUSY = true → Runs (.kstXferGo v) s fun t =>
        t.latched .kstAccess = true ∧ t.kst.xfer = s.kst.xfer ∧ t.mem = s.mem) ∧
      (bit v.toNat 0 = true → s.flag Reg.KST_XFER_CTL_BUSY = false →
        (bit v.toNat 1 = true → kstRegion off ≠ some 7 → Runs (.kstXferGo v) s fun t =>
          t.fld Reg.KST_XFER_CTL_RESULT = 1 ∧ t.flag Reg.KST_XFER_CTL_BUSY = false ∧ t.latched .kstAccess = true ∧ t.kst.xfer = none) ∧
        (bit v.toNat 1 = false ∨ kstRegion off = some 7 → 1 ≤ n →
          (kstRegion off = none ∨ kstRegion (off + 64 * n - 1) ≠ kstRegion off ∨ s.usable < dst + 64 * n →
            Runs (.kstXferGo v) s fun t => t.fld Reg.KST_XFER_CTL_RESULT = 2 ∧ t.flag Reg.KST_XFER_CTL_BUSY = false ∧
              t.kst = { s.kst with xfer := none }) ∧
          ((kstRegion off).isSome = true → kstRegion (off + 64 * n - 1) = kstRegion off → dst + 64 * n ≤ s.usable →
            Runs (.kstXferGo v) s fun t => t.flag Reg.KST_XFER_CTL_BUSY = true ∧
              t.kst = { s.kst with xfer := some ⟨bit v.toNat 1, off, dst, n⟩ } ∧ t = { s with kst := t.kst, regs := t.regs })))) ∧
    (∀ off dst : Nat,
      (s.kst.xfer = some ⟨false, off, dst, 1⟩ → s.hst.hdm = [] → s.mem.dram.wf →
        (∀ line, s.kstRead off 64 = some line → Runs .kstXferDone s fun t =>
          t.fld Reg.KST_XFER_CTL_RESULT = 0 ∧ t.flag Reg.KST_XFER_CTL_BUSY = false ∧ t.kst = { s.kst with xfer := none } ∧
          Stored s t dst line) ∧
        (s.kstRead off 64 = none → Runs .kstXferDone s fun t =>
          t.fld Reg.KST_XFER_CTL_RESULT = 3 ∧ t.flag Reg.KST_XFER_CTL_BUSY = false ∧ t.latched .kstUe = true ∧ t.mem = s.mem)) ∧
      (s.kst.xfer = some ⟨true, off, dst, 1⟩ → s.dramOk dst 64 = true → s.hostBiased dst 64 = [] → s.mem.poison = [] →
        (s.kst.worn off 64 = false → s.kst.warns off 64 = false → Runs .kstXferDone s fun t =>
          t.fld Reg.KST_XFER_CTL_RESULT = 0 ∧ t.flag Reg.KST_XFER_CTL_BUSY = false ∧ t.kst.xfer = none ∧
          t.kst.mem = s.kst.mem.writeBytes off (s.dramBytes dst 64) ∧ t.mem.dram = s.mem.dram) ∧
        (s.kst.worn off 64 = true → Runs .kstXferDone s fun t =>
          t.fld Reg.KST_XFER_CTL_RESULT = 4 ∧ t.flag Reg.KST_XFER_CTL_BUSY = false ∧ t.latched .kstWear = true ∧ t.kst.xfer = none)))

/-- A domain that is ON drains when off is allowed, is OFF when drained or at the timeout, and wakes again on request. With the clocks
running, for the unfused power domain d that PWR_DOM_SEL names, no frequency change under way; the register writes reach PWR with
no reserved bit set. REQ = 0 for a domain that is ON: where Table 20.5 does not allow off PWR.refused latches and the domain stays
as it is; else it is DRAINING with REQ 0. REQ = 1 for one that is OFF: it is WAKING with REQ 1. A write during a transition only
sets REQ. DOMAIN_DRAIN_DONE, with no descriptor running that touches it, makes a draining domain OFF with FORCED 0, or WAKING
where REQ is 1 again; DOMAIN_DRAIN_TIMEOUT does so with FORCED 1 and PWR.drain when PWR_DRAIN_TIMEOUT has passed, and nothing
before. DOMAIN_WAKE_DONE makes a waking domain ON: decode cores come back OFFLINE, a regulator in STATE 0.
(20_winding_clocks_power.md, R403, R405, R406, R407) -/
def Obligations.PowerDomainsTurnOffAndOn : Prop :=
  ∀ (s : State) (d : Nat), s.pwr.clocksStopped = false → d = s.fld Reg.PWR_DOM_SEL_DOMAIN → domFused s.variant d = false →
    s.flag Reg.MEM_STATUS_FREQ_BUSY = false →
    (∀ v : Word, s.pageOpen Blk.pwr 0 = true → rsvBits v 1 = 0 → bit v.toNat 0 = false →
      ((s.dom d).state = 2 → s.offAllowed d = false → Runs (.pwrDomainOffReq v) s fun t =>
        t = s.latch .pwrRefused ∧ t.latched .pwrRefused = true ∧ t.dom d = s.dom d) ∧
      ((s.dom d).state = 2 → s.offAllowed d = true → Runs (.pwrDomainOffReq v) s fun t =>
        t.dom d = { s.dom d with state := 3, req := false, since := s.now } ∧ (∀ k, k ≠ d → t.dom k = s.dom k) ∧
        t = { s with pwr := t.pwr, dma := t.dma }) ∧
      ((s.dom d).state = 1 ∨ (s.dom d).state = 3 → Runs (.pwrDomainOffReq v) s fun t =>
        t = s.setDom d { s.dom d with req := false })) ∧
    (∀ v : Word, s.pageOpen Blk.pwr 0 = true → rsvBits v 1 = 0 → bit v.toNat 0 = true →
      ((s.dom d).state = 0 → Runs (.pwrDomainOnReq v) s fun t =>
        t = s.setDom d { s.dom d with state := 1, req := true, since := s.now }) ∧
      ((s.dom d).state = 1 ∨ (s.dom d).state = 2 ∨ (s.dom d).state = 3 → Runs (.pwrDomainOnReq v) s fun t =>
        t = s.setDom d { s.dom d with req := true })) ∧
    ((s.dom d).state = 3 →
      (∀ c, c < 32 → s.touches c d = false) →
      ((s.dom d).req = false → Runs (.domainDrainDone d) s fun t => t.dom d = { s.dom d with state := 0, forced := false }) ∧
      ((s.dom d).req = true → Runs (.domainDrainDone d) s fun t => (t.dom d).state = 1 ∧ (t.dom d).req = true ∧ (t.dom d).forced = false)) ∧
    ((s.dom d).state = 3 →
      (s.now < (s.dom d).since + s.fld Reg.PWR_DRAIN_TIMEOUT_US * Clk.us → Runs (.domainDrainTimeout d) s fun t => t = s) ∧
      ((s.dom d).since + s.fld Reg.PWR_DRAIN_TIMEOUT_US * Clk.us ≤ s.now → (s.dom d).req = false →
        Runs (.domainDrainTimeout d) s fun t =>
          t.dom d = { s.dom d with state := 0, forced := true } ∧ t.latched .pwrDrain = true)) ∧
    ((s.dom d).state = 1 → (s.dom d).req = true → Runs (.domainWakeDone d) s fun t =>
      t.dom d = { s.dom d with state := 2 } ∧
      (d < 6 → ∀ k, k < 8 → (t.core (8 * d + k)).offline = true ∧ (t.core (8 * d + k)).busy = false ∧
        (t.esc_ 1 (8 * d + k)).routine = none ∧
        (t.esc_ 1 (8 * d + k)).image = (if Tab.has s.esc.cur 1 then some (Tab.get 0 s.esc.cur 1) else none)) ∧
      (18 ≤ d → d < 34 → t.fld Reg.RGL_STATUS_STATE (d - 18) = 0 ∧ (t.rgl_ (d - 18)).mbx = []))

/-- The hottest sensor sets PWR_TEMP; WARN and HOT follow it with 3 C of hysteresis; 115 C is grave; SMBus reads change nothing. A
temperature sample of one or more sensors sets PWR_TEMP.MAX and SENSOR to the highest reading, also with the clocks stopped, when
nothing else changes. With the clocks running and no injection armed in PWR, PWR_THROTTLE.WARN and HOT are set at or above their
thresholds and, once set, until the reading is 3 C below; WARN and HOT crossed latch PWR.warn and PWR.hot; PWR_HOT_MS counts a
sample above HOT; at 115 C and more PWR.crit latches and a stop request stands in every decode core's escapement that runs. An
SMBus read changes nothing but the byte answered: stage, cause and recovery for 0, PWR_TEMP.MAX for 1, the fault status for 2,
else 0xFF. (20_winding_clocks_power.md, R402, R411, R412) -/
def Obligations.ThermalAndBoardManagement : Prop :=
  ∀ s : State,
    (∀ (x : Int) (xs : List Int), -128 ≤ x → x ≤ 127 → xs.length ≤ 11 → (∀ y ∈ xs, -128 ≤ y ∧ y ≤ x) →
      (s.pwr.clocksStopped = true → Runs (.thermalSample (x :: xs)) s fun t =>
        t.fld Reg.PWR_TEMP_MAX = (x % 256).toNat ∧ t.fld Reg.PWR_TEMP_SENSOR = 0 ∧ t = { s with regs := t.regs }) ∧
      (s.pwr.clocksStopped = false → s.fld Reg.PG_ERR_INJECT_COUNT (pageOf Blk.pwr 0) = 0 → Runs (.thermalSample (x :: xs)) s fun t =>
        t.fld Reg.PWR_TEMP_MAX = (x % 256).toNat ∧ t.fld Reg.PWR_TEMP_SENSOR = 0 ∧
        t.flag Reg.PWR_THROTTLE_WARN = (if s.flag Reg.PWR_THROTTLE_WARN then decide ((s.fld Reg.PWR_THERM_WARN : Int) < x + 3)
          else decide ((s.fld Reg.PWR_THERM_WARN : Int) ≤ x)) ∧
        t.flag Reg.PWR_THROTTLE_HOT = (if s.flag Reg.PWR_THROTTLE_HOT then decide ((s.fld Reg.PWR_THERM_HOT : Int) < x + 3)
          else decide ((s.fld Reg.PWR_THERM_HOT : Int) ≤ x)) ∧
        (s.flag Reg.PWR_THROTTLE_WARN = false → (s.fld Reg.PWR_THERM_WARN : Int) ≤ x → t.latched .pwrWarn = true) ∧
        (s.flag Reg.PWR_THROTTLE_HOT = false → (s.fld Reg.PWR_THERM_HOT : Int) ≤ x → t.latched .pwrHot = true) ∧
        t.fld Reg.PWR_HOT_MS = (if t.flag Reg.PWR_THROTTLE_HOT then (s.fld Reg.PWR_HOT_MS + 1) % 4294967296 else s.fld Reg.PWR_HOT_MS) ∧
        (115 ≤ x → t.latched .pwrCrit = true ∧
          (∀ i, i < s.variant.decCores → (s.esc_ 1 i).routine.isSome = true → (t.esc_ 1 i).stop = true)))) ∧
    (∀ c : Nat, Runs (.smbusRead c) s fun t =>
      t = { s with pwr := { s.pwr with smbus := t.pwr.smbus } } ∧
      (c = 0 → t.pwr.smbus = s.fld Reg.PWR_WIND_STAGE + 16 * s.fld Reg.PWR_WIND_CAUSE + 64 * s.fld Reg.RGL_BOOT_RECOVERY) ∧
      (c = 1 → t.pwr.smbus = s.fld Reg.PWR_TEMP_MAX) ∧ (c = 2 → t.pwr.smbus = s.faultStatus) ∧
      (3 ≤ c → t.pwr.smbus = 255))

/-- A host write to a plain register word gives each RW field its bits, clamped or refused; reserved bits and pages latch RSV_WRITE.
With the clocks running and register pages answering. A host write at no multiple of 4 changes nothing but HST.access, which
latches. For a word of an existing page (but FLT) that has fields, none with an action of its own, with no injection armed in the
page: when no identifier in it lies beyond the variant, every lane of its RW fields reads what was written, or its nearest limit;
with every value within its limits and no reserved bit 1 nothing but register fields changes; a value outside its limits latches
CLAMP; an identifier beyond the variant leaves every field of the word as it was and latches BAD_ID; a 1 in a reserved bit latches
RSV_WRITE. A write to a page below 16368 that the variant lacks latches RSV_WRITE of SYS. While register pages do not answer the
write does nothing. (02_host_attachment.md, 21_register_pages.md, R4, R5, R20, R33, R422) -/
def Obligations.RegisterWritesTakeTheirBits : Prop :=
  ∀ (s : State) (p off : Nat) (v : Word), s.pwr.clocksStopped = false → p < 16368 → off < 4096 →
    (s.hostReaches = false → Runs (.registerWrite .host (p * 4096 + off) v) s fun t => t = s) ∧
    (s.hostReaches = true → off % 4 ≠ 0 → Runs (.registerWrite .host (p * 4096 + off) v) s fun t =>
      t = s.latch .hstAccess ∧ t.latched .hstAccess = true) ∧
    (s.hostReaches = true → off % 4 = 0 → pageOwner s.variant p = none →
      Runs (.registerWrite .host (p * 4096 + off) v) s fun t => t.latched (.rsvWrite Blk.sys) = true) ∧
    (∀ blk inst : Nat, s.hostReaches = true → off % 4 = 0 → pageOwner s.variant p = some (blk, inst) → blk ≠ Blk.flt →
      (regAct blk inst off v.toNat).isNone = true → s.wordFields blk inst off ≠ [] → s.fld Reg.PG_ERR_INJECT_COUNT p = 0 →
      ((∀ e ∈ s.wordFields blk inst off, e.1.access = .rw → e.1.beyond s.variant v.toNat = false) →
        selBeyond s.variant blk off v.toNat = false →
        (Runs (.registerWrite .host (p * 4096 + off) v) s fun t =>
          (∀ e ∈ s.wordFields blk inst off, e.1.access = .rw → e.1.home = .store → ∀ l : Nat, l < e.1.per →
            t.fld e.1 (e.1.index blk inst e.2 l) = e.1.bounded s.variant (e.1.written l v.toNat) % 2 ^ e.1.width) ∧
          ((∀ e ∈ s.wordFields blk inst off, e.1.access = .rw → e.1.home = .store → ∀ l : Nat, l < e.1.per →
            e.1.bounded s.variant (e.1.written l v.toNat) = e.1.written l v.toNat) →
            v.toNat &&& (4294967295 - coverOf (s.wordFields blk inst off)) = 0 → t = { s with regs := t.regs }) ∧
          (∀ e ∈ s.wordFields blk inst off, e.1.access = .rw → e.1.home = .store → ∀ l : Nat, l < e.1.per →
            e.1.bounded s.variant (e.1.written l v.toNat) ≠ e.1.written l v.toNat → t.latched (.clamp blk) inst = true))) ∧
      ((∃ e ∈ s.wordFields blk inst off, e.1.access = .rw ∧ e.1.beyond s.variant v.toNat = true) ∨
          selBeyond s.variant blk off v.toNat = true →
        Runs (.registerWrite .host (p * 4096 + off) v) s fun t =>
          t.latched (.badId blk) inst = true ∧
          (∀ k ∈ s.wordFields blk inst off, k.1.access = .rw → ∀ l : Nat, l < k.1.per →
            t.fld k.1 (k.1.index blk inst k.2 l) = s.fld k.1 (k.1.index blk inst k.2 l))) ∧
      (v.toNat &&& (4294967295 - coverOf (s.wordFields blk inst off)) ≠ 0 →
        Runs (.registerWrite .host (p * 4096 + off) v) s fun t => t.latched (.rsvWrite blk) inst = true))

/-- The frame of every command: it answers a next state in which every part of the state and every register field not named for it is
as before. For every state and every command with any operands but a reset or a generic register write: the command answers a next
state; every part of the state that mayChange does not name for it is as it was, and every register field that mayWrite does not
name reads what it read. Parts are the fields of the state, with host memory, the MSI-X vectors, device DRAM and the contents of
the keeping store apart: every byte of a memory that is not named reads as before. For the resets (power-on, PERST_N, FLR, soft
reset) and the generic register write the parts are named, and the register fields are not. The two tables stand beside this
statement in Claims.lean, one arm per command; the clock moves in no command but a reset. (00_scope.md, 21_register_pages.md) -/
def Obligations.CommandsChangeNothingElse : Prop :=
  ∀ (c : Instr) (s : State), Changes c s (mayChange c) ∧ (∀ fs : List Fld, mayWrite c = some fs → ChangesFields c s fs)

/-- A fault source sets its sticky bit alone; an enabled new one counts in its class, raises its interrupt and, from C3, is logged.
For a fault source of class up to 4 at a bit below 32 and a block instance below 256, with no injection armed in FLT. Presented
while its sticky bit is set it changes nothing. Presented while its reporting is disabled it sets the bit and nothing else.
Otherwise the bit is set, every other sticky bit of the page stays, FLT_COUNT of its effective class counts one when the class is
below C3 and source 33 + class is pending. Of class C3 or C4, not logged yet in this winding, with the log's page neither worn nor
near its limit, its record of 16 bytes is written at the log's head in the keeping store, the head moves on and FLT_LOG_COUNT
counts. Rings, memories and engines stay as they are. (18_faults_and_self_test.md, R362, R365, R366, R369, R371) -/
def Obligations.FaultsLatchAndCount : Prop :=
  ∀ (s : State) (src : Src) (inst c : Nat), src.cls ≤ 4 → src.bit < 32 → inst < 256 → c = s.effClass src inst →
    s.fld Reg.PG_ERR_INJECT_COUNT (pageOf Blk.flt 0) = 0 →
    (bit (s.sticky (pageOf src.blk inst)) src.bit = true → s.latch src inst = s) ∧
    (bit (s.sticky (pageOf src.blk inst)) src.bit = false → s.srcEnabled src (pageOf src.blk inst) = false →
      (s.latch src inst).latched src inst = true ∧ s.latch src inst = { s with regs := (s.latch src inst).regs }) ∧
    (bit (s.sticky (pageOf src.blk inst)) src.bit = false → s.srcEnabled src (pageOf src.blk inst) = true →
      (s.latch src inst).latched src inst = true ∧ ((s.latch src inst).src (33 + c)).pending = true ∧
      (c < 3 → (s.latch src inst).fld Reg.FLT_COUNT c = (s.fld Reg.FLT_COUNT c + 1) % 4294967296 ∧
        (s.latch src inst).kst = s.kst ∧
        (∀ b, b < 32 → b ≠ src.bit →
          bit ((s.latch src inst).sticky (pageOf src.blk inst)) b = bit (s.sticky (pageOf src.blk inst)) b)) ∧
      (3 ≤ c → s.flt.logged.contains (pageOf src.blk inst * 32 + src.bit) = false →
        s.kst.worn (0x40000 + 16 * s.kst.logHead) 16 = false → s.kst.warns (0x40000 + 16 * s.kst.logHead) 16 = false →
        (s.latch src inst).kst.mem = s.kst.mem.writeBytes (0x40000 + 16 * s.kst.logHead) (s.logRecord src inst c) ∧
        (s.latch src inst).kst.logHead = (s.kst.logHead + 1) % 16384 ∧
        (s.latch src inst).fld Reg.FLT_LOG_COUNT = (s.fld Reg.FLT_LOG_COUNT + 1) % 65536) ∧
      s.latch src inst = { s with
        regs := (s.latch src inst).regs
        flt := (s.latch src inst).flt
        int := (s.latch src inst).int
        kst := (s.latch src inst).kst
        hst := { s.hst with msix := (s.latch src inst).hst.msix } })

/-- PG_ERR_CLASS holds a RAISE field for sources 8 to 23: 1 and 2 raise the class up to C3, 0 and 3 keep it, C4 and other sources keep
theirs. With the clocks running, register pages answering and no injection armed in the page: a host write of PG_ERR_CLASS of a
block's page gives the RAISE field of each source s from 8 to 23 bits 2s-15 to 2s-16 of the value, but the field of a C4 source,
which stays as it was (0 at reset). For every source of class up to 4 and every state: RAISE 0 and 3 keep the fixed class, RAISE 1
and 2 raise it by that many steps and never above C3; C4 sources, sources 0 to 7 and 24 to 31 keep their fixed class; no setting
lowers a class. (R364) -/
def Obligations.ClassesAreRaised : Prop :=
  ∀ s : State,
    (∀ (p blk inst : Nat) (v : Word), s.pwr.clocksStopped = false → s.hostReaches = true → p < 16368 →
      pageOwner s.variant p = some (blk, inst) → s.fld Reg.PG_ERR_INJECT_COUNT p = 0 →
      Runs (.registerWrite .host (p * 4096 + 0x020) v) s fun t => ∀ b, 8 ≤ b → b ≤ 23 →
        t.fld Reg.PG_ERR_CLASS_RAISE (p * 16 + (b - 8)) =
          if bit (Src.c4Mask blk) b then s.fld Reg.PG_ERR_CLASS_RAISE (p * 16 + (b - 8)) else bits v.toNat (2 * b - 15) (2 * b - 16)) ∧
    (∀ (src : Src) (inst r : Nat), src.cls ≤ 4 → r = s.fld Reg.PG_ERR_CLASS_RAISE (pageOf src.blk inst * 16 + (src.bit - 8)) →
      (8 ≤ src.bit → src.bit ≤ 23 → src.cls ≠ 4 →
        (r = 0 ∨ r = 3 → s.effClass src inst = src.cls) ∧ (r = 1 ∨ r = 2 → s.effClass src inst = min 3 (src.cls + r))) ∧
      (src.cls = 4 ∨ src.bit < 8 ∨ 24 ≤ src.bit → s.effClass src inst = src.cls) ∧ src.cls ≤ s.effClass src inst) ∧
    (∀ i, i < 65536 → State.reset.fld Reg.PG_ERR_CLASS_RAISE i = 0)

/-- Reset, winding, self-test, job, calibre, encode and memory commands: exec answers a next state with each command's own effect. For
every state and operands that meet the conditions given, exec answers a next state, in which: POWER_ON and PERST_N_ASSERT: W0
comes next and the engines are as at reset; PERST_N_RELEASE: PERST_N released; STRAP_SAMPLE: the straps taken; RAIL_OUT_OF_RANGE:
PWR.rail latched; ROOT_PLL_LOSS: clocks stopped; WINDING_W0, W2 to W7: the next stage; SELF_TEST_GROUP, SELF_TEST_TIMEOUT: the
group's result; COMMAND_FETCH: a job in flight; FENCED_COMMAND_START: its wait over; QUERY, NOP: the job ended; CALIBRE_SWAP: a
swap under way; SWAP_ARMED: it is armed; OLD_BANK_RELEASE: the bank SHADOW; CALIBRE_READ: the image in host memory; CALIBRE_SAVE:
the slot written; COMPLICATION_LOAD: the load under way or the kind waiting to unload; COMPLICATION_INIT_TIMEOUT: the load gone;
ENC_SOURCE_READY: a picture waits; ENC_PICTURE_START: it is in coding; ENC_PICTURE_DONE: PICS counted; ENC_CORE_RESET: FAULT
clear; ENC_REGION_WRITE: the region moved; PATROL_SCRUB: the corrected error counted; ZERO_CHUNK: the next chunk or ZEROED;
MEM_FREQ_GO, MEM_FREQ_DONE: the change under way, over; MEM_ERRLOG_CLEAR: VALID 0; MEM_TIMING_WRITE: the word taken.
(20_winding_clocks_power.md, 18_faults_and_self_test.md, 03_rings_and_jobs.md, 06_wall_model_and_calibres.md,
11_monitor_and_relay_encoding.md, 15_escapements_and_regulators.md, 19_memory_and_keeping_store.md) -/
def Obligations.WindingCalibreJobAndMemoryCommandsComplete : Prop :=
  ∀ s : State,
    (∃ t, Sys2Proof.Machine.exec (.powerOn) s = .next t ∧ t.fld Reg.PWR_WIND_STAGE = 0 ∧ t.dec = State.reset.dec ∧ t.rng = State.reset.rng ∧ t.mem = State.reset.mem) ∧
    (∃ t, Sys2Proof.Machine.exec (.perstNAssert) s = .next t ∧ t.fld Reg.PWR_WIND_STAGE = 0 ∧ t.fld Reg.PWR_WIND_CAUSE = 1 ∧ t.dec = State.reset.dec ∧ t.rng = State.reset.rng) ∧
    (∃ t, Sys2Proof.Machine.exec (.perstNRelease) s = .next t ∧ t.hst.perstN = true) ∧
    (∀ testMode capWriteN : Bool, s.fld Reg.PWR_WIND_STAGE ≠ 0 → s.pwr.lastSample + Clk.ms ≤ s.now →
      ∃ t, Sys2Proof.Machine.exec (.strapSample testMode capWriteN) s = .next t ∧ t.pwr.testMode = testMode ∧ t.pwr.capWriteN = capWriteN) ∧
    (s.fld Reg.PWR_WIND_STAGE ≠ 0 → ∃ t, Sys2Proof.Machine.exec (.railOutOfRange) s = .next t ∧ t.latched .pwrRail = true) ∧
    (s.fld Reg.PWR_WIND_STAGE ≠ 0 → s.pwr.clocksStopped = false →
      ∃ t, Sys2Proof.Machine.exec (.rootPllLoss) s = .next t ∧ t.pwr.clocksStopped = true ∧ t.fld Reg.CLK_STATUS_ROOT_LOCK = 0) ∧
    (s.pwr.clocksStopped = false →
      (∀ (testMode capWriteN : Bool) (bootSel : Nat), s.fld Reg.PWR_WIND_STAGE = 0 →
        ∃ t, Sys2Proof.Machine.exec (.windingW0 testMode capWriteN bootSel) s = .next t ∧ t.fld Reg.PWR_WIND_STAGE = 1 ∧ t.fld Reg.CLK_STATUS_ROOT_LOCK = 1) ∧
      (s.fld Reg.PWR_WIND_STAGE = 2 → ∃ t, Sys2Proof.Machine.exec (.windingW2) s = .next t ∧ t.fld Reg.PWR_WIND_STAGE = 3 ∧ t.hst.keysPresent = true) ∧
      (s.fld Reg.PWR_WIND_STAGE = 3 → ∃ t, Sys2Proof.Machine.exec (.windingW3) s = .next t ∧ t.fld Reg.PWR_WIND_STAGE = 4) ∧
      (s.fld Reg.PWR_WIND_STAGE = 4 → ∃ t, Sys2Proof.Machine.exec (.windingW4) s = .next t ∧ t.fld Reg.PWR_WIND_STAGE = 5) ∧
      (∀ (chans : List ChanTrain) (timing : List Nat), s.fld Reg.PWR_WIND_STAGE = 5 →
        ∃ t, Sys2Proof.Machine.exec (.windingW5 chans timing) s = .next t ∧ t.fld Reg.PWR_WIND_STAGE = 6 ∧ t.mem.dram = []) ∧
      (s.fld Reg.PWR_WIND_STAGE = 6 → ∃ t, Sys2Proof.Machine.exec (.windingW6) s = .next t ∧ t.fld Reg.PWR_WIND_STAGE = 7) ∧
      (s.fld Reg.PWR_WIND_STAGE = 7 → ∃ t, Sys2Proof.Machine.exec (.windingW7) s = .next t ∧ t.fld Reg.PWR_WIND_STAGE = 15 ∧ t.wound = true) ∧
      (∀ (g coverage durUs : Nat) (fail : BstFail), s.fld Reg.PWR_WIND_STAGE = 1 → s.groupRunning = g → g < 4 →
        s.pwr.tested.contains 5 = false → durUs < 2 * groupTypical g →
        (∃ t, Sys2Proof.Machine.exec (.selfTestGroup g coverage durUs fail) s = .next t ∧ t.fld Reg.BST_RESULT_DONE g = 1 ∧ t.fld Reg.BST_DUR g = durUs) ∧
        (∃ t, Sys2Proof.Machine.exec (.selfTestTimeout g coverage) s = .next t ∧ t.fld Reg.BST_RESULT_TIMEOUT g = 1 ∧ t.fld Reg.BST_RESULT_PASS g = 0)) ∧
      (∀ (r : Nat) (entry : Bytes), (s.ring r).enable = true → (s.ring r).halted = false → (s.ring r).stopped = false →
        (s.ring r).cls = 1 → (s.ring r).count ≠ 0 → r < s.variant.rings → s.pageEnabled Blk.rng (r / 32) = true →
        s.entriesHeld (s.ring r) = false → (s.takeInject .rngPtr (r / 32)).isNone = true →
        s.rejection r (s.entryAt r (s.ring r).ci entry).1 = 0 →
        ∃ t, Sys2Proof.Machine.exec (.commandFetch r entry) s = .next t ∧ Tab.has t.rng.jobs (s.newJob r (s.ring r).ci) = true ∧ (t.ring r).count = (s.ring r).count - 1) ∧
      (∀ j : Nat, Tab.has s.rng.jobs j = true → (s.job j).waits = true → s.waitOver j = true →
        ∃ t, Sys2Proof.Machine.exec (.fencedCommandStart j) s = .next t ∧ (t.job j).waits = false) ∧
      (∀ j : Nat, s.canStart j 0x7F = true → ∃ t, Sys2Proof.Machine.exec (.nop j) s = .next t ∧ Tab.has t.rng.jobs j = false) ∧
      (∀ j : Nat, s.canStart j 0x60 = true → ∃ t, Sys2Proof.Machine.exec (.query j) s = .next t ∧ Tab.has t.rng.jobs j = false) ∧
      (∀ j : Nat, s.canStart j 0x11 = true → (s.bank s.shadow).state = 1 → field (s.job j).args 8 2 = s.fld Reg.CLB_WRITE_SEQ →
        ∃ t, Sys2Proof.Machine.exec (.calibreSwap j) s = .next t ∧ (t.clb.swap.map fun x => x.job) = some j ∧ (t.job j).started = true) ∧
      (∀ j frame : Nat, s.clb.swap = some ⟨j, true, frame, false, 0, [], []⟩ → frameLe (frameAdd s.frameCount 1) frame = true →
        s.now + 400 * Clk.us ≤ s.markTime frame →
        ∃ t, Sys2Proof.Machine.exec (.swapArmed) s = .next t ∧ (t.clb.swap.map fun x => (x.armed, x.s)) = some (true, frame)) ∧
      (s.clb.activeValid = true → (s.bank (!s.clb.active)).state = 3 → s.tagged (!s.clb.active) = false →
        ∃ t, Sys2Proof.Machine.exec (.oldBankRelease) s = .next t ∧ (t.bank (!s.clb.active)).state = 1) ∧
      (∀ (j : Nat) (im : Bytes), s.canStart j 0x12 = true → (s.job j).silent = true → field (s.job j).args 20 1 = 0 →
        s.clb.activeValid = true → (s.bank s.clb.active).state ≠ 0 → (addrSpace (field (s.job j).args 8 8)).1 = false →
        im = Img.readBack (s.bank s.clb.active).image (s.bank s.clb.active).latUnbound → im.length ≤ field (s.job j).args 16 4 →
        (addrSpace (field (s.job j).args 8 8)).2 + im.length ≤ 9223372036854775808 →
        ∃ t, Sys2Proof.Machine.exec (.calibreRead j) s = .next t ∧ t.hst.mem = s.hst.mem.writeBytes (addrSpace (field (s.job j).args 8 8)).2 im ∧ Tab.has t.rng.jobs j = false) ∧
      (∀ (off : Nat) (bytes : Bytes), s.clb.savePending = true → s.clb.activeValid = true → s.clb.saveSlot < 2 →
        off = calibreSlot (1 - s.clb.saveSlot) →
        bytes = slotBytes ((s.clb.saveSeq + 1) % 4294967296) (s.bank s.clb.active).seq s.frameCount
          (Img.readBack (s.bank s.clb.active).image (s.bank s.clb.active).latUnbound) →
        s.kst.worn off bytes.length = false → s.kst.warns off bytes.length = false →
        (s.takeInject .rngPtr (s.fld Reg.CLB_EVQ_RING / 32)).isNone = true →
        ∃ t, Sys2Proof.Machine.exec (.calibreSave true) s = .next t ∧ t.kst.mem = s.kst.mem.writeBytes off bytes ∧ t.clb.saved = true) ∧
      (∀ (j : Nat) (im : Bytes) (h : State) (g : Nat), s.canStart j 0x50 = true → im.length = field (s.job j).args 16 4 →
        (bit (field (s.job j).args 21 1) 0 = true → (s.findCpl (field (s.job j).args 22 1)).isSome = true →
          ∃ t, Sys2Proof.Machine.exec (.complicationLoad j im .ok none) s = .next t ∧ t.rgl.unloads = s.rgl.unloads ++ [(j, field (s.job j).args 22 1)]) ∧
        (bit (field (s.job j).args 21 1) 0 = false → (addrSpace (field (s.job j).args 8 8)).1 = false →
          (addrSpace (field (s.job j).args 8 8)).2 + im.length ≤ 9223372036854775808 → im.length = Sg.length im →
          Sg.formatOk im 3 = true → 64 ≤ Sg.payloadLen im → Mani.ok im = true → s.fuseSec ≤ Sg.secVer im →
          Sg.lo im % 256 = 1 ∨ Sg.lo im % 256 = 2 → Sg.stepping im = true →
          h = s.hostReq .memRead (addrSpace (field (s.job j).args 8 8)).2 im.length none →
          h.placeFor (field (s.job j).args 20 1) im = some g →
          ∃ t, Sys2Proof.Machine.exec (.complicationLoad j im .ok (some true)) s = .next t ∧ (Config.signatureOk im = true →
            (t.job j).started = true ∧ t.rgl.loading.length = s.rgl.loading.length + 1))) ∧
      (∀ (j : Nat) (l : CplLoad), s.rgl.loading = [l] → l.job = some j → l.initDone = false → l.startedAt + 10 * Clk.ms ≤ s.now →
        ∃ t, Sys2Proof.Machine.exec (.complicationInitTimeout j) s = .next t ∧ t.rgl.loading = []) ∧
      (∀ e : Nat, (s.ses e).state = 1 →
        (∀ (n : Nat) (p : Picture), (s.ses e).isStream = true → (s.stream (s.ses e).stream).state = 2 →
          s.relayNext (s.ses e) = some (n, p) →
          ∃ t, Sys2Proof.Machine.exec (.encSourceReady e) s = .next t ∧ ((t.ses e).waiting.map fun q => q.pic) = some (some n)) ∧
        (∀ p : EncPic, ((s.ses e).isStream = true → (s.stream (s.ses e).stream).state = 2) → (s.ses e).coding = none →
          (s.ses e).waiting = some p → (s.ses e).cores ≠ [] →
          (∀ c, c ∈ (s.ses e).cores → s.encOnline c = true ∧ (s.encCore c).busy = false ∧ s.escOk 2 c = true) →
          s.flag Reg.PWR_THROTTLE_HOT = false → s.pwr.critStop = false →
          ∃ t, Sys2Proof.Machine.exec (.encPictureStart e) s = .next t ∧ (t.ses e).coding = some p ∧ (t.ses e).waiting = none) ∧
        (∀ (p : EncPic) (qp : Nat) (cols : List EncCol) (low : List (List Nat)), (s.ses e).coding = some p → (s.ring (s.ses e).outRing).cls = 3 →
          (∀ c, c ∈ (s.ses e).cores → s.takeInject .encCore c = none) →
          ((s.ses e).codePicture cols low).1 ≤ ((s.ring (s.ses e).outRing).pkts.map (·.len)).sum →
          ∃ t, Sys2Proof.Machine.exec (.encPictureDone e cols qp low) s = .next t ∧ (t.ses e).coding = none ∧ (t.ses e).pics = ((s.ses e).pics + 1) % 4294967296)) ∧
      (∀ c : Nat, c < s.variant.encCores → s.pageOpen Blk.enc c = true → (s.encCore c).offline = true → (s.encCore c).busy = false →
        ∃ t, Sys2Proof.Machine.exec (.encCoreReset c) s = .next t ∧ (t.encCore c).faulted = false ∧ (t.encCore c).offline = true) ∧
      (∀ v : Word, s.pageOpen Blk.enc 0 = true → rsvBits v 0xFFFFFF = 0 → (s.enc.sessions.any fun e => e.2.state != 0) = false →
        (∃ t, Sys2Proof.Machine.exec (.encRegionWrite 0 v) s = .next t ∧ t.fld Reg.ENC_REGION_BASE = v.toNat) ∧ (∃ t, Sys2Proof.Machine.exec (.encRegionWrite 1 v) s = .next t ∧ t.fld Reg.ENC_REGION_SIZE = v.toNat)) ∧
      (∀ line channel : Nat, s.fld Reg.PG_ERR_INJECT_COUNT (pageOf Blk.mem 0) = 0 → s.fld Reg.MEM_SCRUB_HOURS ≠ 0 →
        s.dramOk (line * 64) 64 = true → s.mem.zeroing = false → s.mem.poison.contains line = false → channel < 24 →
        ∃ t, Sys2Proof.Machine.exec (.patrolScrub line channel .corrected) s = .next t ∧ t.latched .memCe = true ∧
          t.fld Reg.MEM_CE_COUNT channel = (s.fld Reg.MEM_CE_COUNT channel + 1) % 4294967296) ∧
      (s.mem.zeroing = true → s.mem.zeroed = [] →
        ∃ t, Sys2Proof.Machine.exec (.zeroChunk) s = .next t ∧ (if s.chunks ≤ s.mem.zeroNext + 1 then t.fld Reg.MEM_STATUS_ZEROED = 1 ∧ t.mem.zeroing = false
          else t.mem.zeroNext = s.mem.zeroNext + 1)) ∧
      (∀ v : Word, s.pageOpen Blk.mem 0 = true → rsvBits v 7 = 0 → bit v.toNat 2 = true → s.flag Reg.MEM_STATUS_FREQ_BUSY = false →
        bits v.toNat 1 0 % 3 ≠ s.fld Reg.MEM_STATUS_FREQ →
        ∃ t, Sys2Proof.Machine.exec (.memFreqGo v) s = .next t ∧ t.flag Reg.MEM_STATUS_FREQ_BUSY = true ∧ t.mem.freqTarget = bits v.toNat 1 0 % 3) ∧
      (s.mem.heldReq = [] → s.flag Reg.MEM_STATUS_FREQ_BUSY = true → s.groupMoving = false → s.mem.freqTarget < 3 →
        ∃ t, Sys2Proof.Machine.exec (.memFreqDone) s = .next t ∧ t.fld Reg.MEM_STATUS_FREQ = s.mem.freqTarget ∧ t.flag Reg.MEM_STATUS_FREQ_BUSY = false) ∧
      (s.pageOpen Blk.mem 0 = true → ∃ t, Sys2Proof.Machine.exec (.memErrlogClear) s = .next t ∧ t.fld Reg.MEM_ERRLOG_CTL_VALID = 0) ∧
      (∀ (f w : Nat) (v : Word), f < 3 → w < 8 → s.pageOpen Blk.mem 0 = true → rsvBits v 0xFFFF = 0 →
        f ≠ s.fld Reg.MEM_STATUS_FREQ → ∃ t, Sys2Proof.Machine.exec (.memTimingWrite f w v) s = .next t ∧ t.fld Reg.MEM_TIM_VALUE (8 * f + w) = v.toNat))

/-- Scheduler, link, lane, escapement, bundle, interrupt and service commands: exec answers a next state with each command's own
effect. For every state with the clocks running and operands that meet the conditions given, exec answers a next state, in which:
PORT_MARK: the port frame runs; LINK_FRAME_DEPART: the frame has left; TILE_CLOSE: the tile closed; BEAT_TABLE_PARITY: the table
marked; LANE_ALIGN_LOSS: alignment lost; FOM_MEASURE: FOM shown; PLK_RETRAIN: TRAIN; PLK_PORT_CFG_WRITE: the fields taken;
PORT_TEST_ENTER, PORT_TEST_CLEAR: TEST, TRAIN; LNE_TEST_INJECT: one PRBS error counted; LANE_PLL_UNLOCK, LANE_PLL_RELOCK: lost,
back; CREDIT_BLOCK: credits added; MODULE_POLL: the module shown; I2C_GO, I2C_TRANSFER_DONE: BUSY 1, 0; ESC_LOAD_GO,
ESC_LOAD_DONE: BUSY 1, 0 with RESULT; BUNDLE_WRITE_GO, BUNDLE_WRITE_DONE: BUSY 1, the slot written; FRAME_OVERRUN_STOP: stopped;
TIMER_EXPIRE: a MESSAGE entry; INT_ENTRY: the handler's bank; INT_MRET: back to the level before; the services YIELD, MBX_RECV,
MBX_SEND, POOL, EVENT, TIME, RXQ_TAKE, TXQ_POST, PUBLISH, LOOKUP, TIMER: done, with the answer in a0. (13_beats_and_scheduling.md,
14_panel_link.md, 15_escapements_and_regulators.md, 17_interrupts.md) -/
def Obligations.LinkRegulatorAndServiceCommandsComplete : Prop :=
  ∀ s : State, s.pwr.clocksStopped = false →
    (∀ p : Nat, s.wound = true → p < s.variant.ports → s.fld Reg.PG_ERR_INJECT_COUNT (pageOf Blk.sch p) = 0 →
      (∀ b im, s.tagOf (s.nextPframe p) = some (b, im) → frameLe (s.nextPframe p) s.frameCount = true →
        s.markTime (s.nextPframe p) + Dir.offset (Img.dir im p) * Clk.cclk ≤ s.now →
        ∃ t, Sys2Proof.Machine.exec (.portMark p) s = .next t ∧ (t.sport p).running = true ∧ (t.sport p).bank = some b ∧ t.fld Reg.SCH_PFRAME p = s.nextPframe p % 4294967296) ∧
      (∀ (tile : Nat) (b : Bytes), (s.sport p).running = true → (Img.tileBeats (s.sport p).image p tile).getLast? = some b →
        Beat.fin b ≤ s.slotAt p s.now → (s.sport p).closed.contains tile = false → (s.sport p).bank.isSome = true →
        ∃ t, Sys2Proof.Machine.exec (.tileClose p tile) s = .next t ∧ (t.sport p).closed = tile :: (s.sport p).closed) ∧
      ((s.sport p).running = true → ∃ t, Sys2Proof.Machine.exec (.beatTableParity p) s = .next t ∧ (t.sport p).tableBad = true ∧ t.latched .schTable p = true) ∧
      (∀ (slot : Nat) (beat e : Bytes) (f : LinkFrame), (s.sport p).running = true → s.inData p = true →
        (s.sport p).free ≤ slot → slot = s.slotAt p s.now → (s.sport p).bank.isSome = true →
        (Img.beats (s.sport p).image p).find? (fun b => decide (Beat.start b ≤ slot) && decide (slot < Beat.fin b)) = some beat →
        Beat.kind beat = 0 → Img.tile (s.sport p).image (Beat.tile beat) = some e →
        (s.sport p).dark.contains (Beat.tile beat) = false → (s.sport p).dark.contains (Beat.tile beat + 65536) = false →
        (s.sport p).closed.contains (Beat.tile beat) = false → (s.sport p).tableBad = false → s.fld Reg.SWC_PORT_SMP_N p = 0 →
        (s.sport p).tileQ.find? (fun g => g.tile == Beat.tile beat && g.frame == s.fld Reg.SCH_PFRAME p) = some f →
        slot + f.len + (s.sport p).ovh p ≤ Beat.fin beat → s.credited p f = true →
        ∃ t, Sys2Proof.Machine.exec (.linkFrameDepart p slot) s = .next t ∧ (t.sport p).lastTx = withDest f.data (Img.posOn (s.sport p).image e p) ∧
          (t.sport p).free = slot + f.len + (s.sport p).ovh p)) ∧
    (∀ l : Nat, l < s.variant.ports →
      (∀ (rx : List LaneRx) (r : RxFound),
        r = rxRun ((s.portOfLane l).any s.trunk) (s.flag Reg.LNE_STATUS_ALIGNED l) (s.lane l) rx → r.lost = true → r.aligned = false →
        ∃ t, Sys2Proof.Machine.exec (.laneAlignLoss ⟨l, rx⟩) s = .next t ∧ t.fld Reg.LNE_STATUS_ALIGNED l = 0 ∧ t.latched .lneAlign l = true) ∧
      (∀ fom : Nat, fom < 256 → (∀ p, s.portOfLane l = some p → s.inData p = false) →
        ∃ t, Sys2Proof.Machine.exec (.fomMeasure l fom) s = .next t ∧ t.fld Reg.LNE_STATUS_FOM l = fom) ∧
      (∃ t, Sys2Proof.Machine.exec (.lanePllUnlock l) s = .next t ∧ (t.lane l).pllLost = true ∧ t.latched .lnePll l = true) ∧
      ((s.lane l).pllLost = true → ∃ t, Sys2Proof.Machine.exec (.lanePllRelock l) s = .next t ∧ (t.lane l).pllLost = false) ∧
      (s.pageOpen Blk.plk l = true → (s.port l).state = 3 ∨ (s.port l).state = 1 → ∃ t, Sys2Proof.Machine.exec (.plkRetrain l) s = .next t ∧ (t.port l).state = 2) ∧
      (∀ v : Word, s.pageOpen Blk.plk l = true → rsvBits v 0xE7F = 0 → s.clb.activeValid = true →
        ∃ t, Sys2Proof.Machine.exec (.plkPortCfgWrite l v) s = .next t ∧ t.fld Reg.PLK_PORT_CFG_RATE l = v.toNat % 16 ∧ t.fld Reg.PLK_PORT_CFG_EN l = v.toNat / 64 % 2) ∧
      (s.pageOpen Blk.plk l = true → (s.port l).state ≠ 0 →
        ∃ t, Sys2Proof.Machine.exec (.portTestEnter l) s = .next t ∧ (t.port l).state = 4 ∧ t.flag Reg.PLK_PORT_CTL_TEST l = true) ∧
      (s.pageOpen Blk.plk l = true → (s.port l).state = 4 →
        ∃ t, Sys2Proof.Machine.exec (.portTestClear l) s = .next t ∧ (t.port l).state = 2 ∧ t.flag Reg.PLK_PORT_CTL_TEST l = false) ∧
      (s.pageOpen Blk.lne l = true → s.laneInTest l = true → s.flag Reg.LNE_TEST_GEN_EN l = true → s.flag Reg.LNE_TEST_CHK_EN l = true →
        s.fld Reg.LNE_TEST_LOOP l = 1 → s.fld Reg.LNE_TEST_PATTERN l ≠ 0 → s.flag Reg.LNE_TEST_CHK_LOCK l = true →
        ∃ t, Sys2Proof.Machine.exec (.lneTestInject l) s = .next t ∧ t.fld Reg.LNE_PRBS_ERR l = min (s.prbsErr l + 1) 4294967295) ∧
      (∀ (b : Nat) (m : ModInfo), l = 8 * b → s.busBad b = false → m.present = true → m.ack = true → m.los = false →
        ∃ t, Sys2Proof.Machine.exec (.modulePoll b [m]) s = .next t ∧  t.flag Reg.LNE_MOD_PRESENT l = true ∧ t.fld Reg.LNE_MOD_TEMP l = m.temp % 256) ∧
      (∀ n : Nat, s.inData l = true → s.trunk l = true → n ≤ 65535 →
        ∃ t, Sys2Proof.Machine.exec (.creditBlock l n) s = .next t ∧ (t.port l).held = (s.port l).held + n)) ∧
    (∀ v : Word, s.pageOpen Blk.plk 0 = true → rsvBits v 0x1FFFFFFF = 0 → s.plk.i2c = none → bit v.toNat 28 = true →
      ∃ t, Sys2Proof.Machine.exec (.i2cGo v) s = .next t ∧ t.fld Reg.PLK_I2C_STAT_BUSY = 1 ∧ t.plk.i2c = some v.toNat) ∧
    (∀ (r v : Nat) (nack : Bool), s.plk.i2c = some v →
      ∃ t, Sys2Proof.Machine.exec (.i2cTransferDone r nack) s = .next t ∧ t.fld Reg.PLK_I2C_STAT_BUSY = 0 ∧ t.plk.i2c = none) ∧
    (∀ v : Word, s.pageEnabled Blk.esc 0 = true → s.pageOpen Blk.esc 0 = true → rsvBits v 0xF1F = 0 → bit v.toNat 0 = true →
      s.flag Reg.ESC_LOAD_CTL_BUSY = false → ∃ t, Sys2Proof.Machine.exec (.escLoadGo v) s = .next t ∧ t.fld Reg.ESC_LOAD_CTL_BUSY = 1 ∧ t.esc.loading = some (bits v.toNat 3 1)) ∧
    (∀ (k a : Nat), s.esc.loading = some k → a = addr64 (s.fld Reg.ESC_LOAD_SRC_LO_ADDR * 64) (s.fld Reg.ESC_LOAD_SRC_HI) →
      s.dramOk a 98464 = true → s.mem.poison = [] → s.hostBiased a 98464 = [] → s.fld Reg.PG_ERR_INJECT_COUNT (pageOf Blk.mem 0) = 0 →
      s.fld Reg.PG_ERR_INJECT_COUNT (pageOf Blk.esc 0) = 0 →
      ∃ t, Sys2Proof.Machine.exec (.escLoadDone) s = .next t ∧ t.fld Reg.ESC_LOAD_CTL_RESULT = escVerify (s.dramBytes a 98464) k s.fuseSec ∧ t.fld Reg.ESC_LOAD_CTL_BUSY = 0) ∧
    (∀ v : Word, s.pageEnabled Blk.rgl 0 = true → s.hostPageOpen Blk.rgl 0 = true → rsvBits v 0xF07 = 0 → bit v.toNat 0 = true →
      s.flag Reg.RGL_BUNDLE_CTL_BUSY = false → ∃ t, Sys2Proof.Machine.exec (.bundleWriteGo v) s = .next t ∧ t.flag Reg.RGL_BUNDLE_CTL_BUSY = true ∧ t.rgl.bundle.isSome = true) ∧
    (∀ w : BundleWrite, s.rgl.bundle = some w → w.result = 0 → s.kst.worn (bundleSlot w.slot) w.image.length = false →
      s.kst.warns (bundleSlot w.slot) w.image.length = false →
      ∃ t, Sys2Proof.Machine.exec (.bundleWriteDone true) s = .next t ∧ t.fld Reg.RGL_BUNDLE_CTL_RESULT = 0 ∧ t.flag Reg.RGL_BUNDLE_CTL_BUSY = false ∧
        t.kst.mem = s.kst.mem.writeBytes (bundleSlot w.slot) w.image) ∧
    (∀ g k : Nat, s.rglRuns g = true → (s.cpl g k).stopped = false →
      (Tab.has (s.rgl_ g).cpls k = true → (s.cpl g k).entry ≠ 0 → ∃ t, Sys2Proof.Machine.exec (.frameOverrunStop g k true) s = .next t ∧ (t.cpl g k).stopped = true) ∧
      (∀ (u : Nat) (us : List Nat), (s.cpl g k).timers = u :: us → u ≤ s.now → (s.cpl g k).entry = 0 →
        ∃ t, Sys2Proof.Machine.exec (.timerExpire g k) s = .next t ∧ (t.cpl g k).entry = 3 ∧ (t.cpl g k).timers = us)) ∧
    (∀ g pc : Nat, g < s.variant.regulators → (s.tgt g).taking = none → (s.tgt g).shadow.length < 3 →
      s.fld Reg.INT_GLOBAL_HOLD = 0 → s.intEligible g (s.tgt g).curLevel ≠ [] → (s.tgt g).fresh = false ∨ pc ≠ (s.tgt g).pc →
      ∃ t, Sys2Proof.Machine.exec (.intEntry g pc) s = .next t ∧ (t.tgt g).bank = (s.tgt g).shadow.length + 1 ∧ (t.tgt g).taking = some false ∧
        (t.tgt g).shadow = ⟨pc, (s.tgt g).curLevel, 0⟩ :: (s.tgt g).shadow) ∧
    (∀ (g : Nat) (e : Shadow) (es : List Shadow) (r : Nat), (s.tgt g).shadow = e :: es →
      r = (if es = [] then (s.tgt g).thresh else e.level) → (s.tgt g).taking = none → 1 ≤ e.id → e.id ≤ 32 →
      s.fld Reg.INT_GLOBAL_HOLD ≠ 0 ∨ s.intEligible g r = [] →
      ∃ t, Sys2Proof.Machine.exec (.intMret g) s = .next t ∧ (t.tgt g).shadow = es ∧ (t.tgt g).level = r ∧ (t.tgt g).pc = e.pc) ∧
    (∀ g k : Nat, s.cplRuns g k = true → s.fld Reg.PG_ERR_INJECT_COUNT (pageOf Blk.rgl g) = 0 →
      ((s.cpl g k).frameWaits = false → (s.cpl g k).msgWaits = 0 → ∃ t, Sys2Proof.Machine.exec (.yield g k) s = .next t ∧ (t.cpl g k).entry = 0) ∧
      (∀ (m : Bytes) (ms : List Bytes), (s.rgl_ g).mbx = m :: ms →
        ∃ t, Sys2Proof.Machine.exec (.mbxRecv g k) s = .next t ∧ (t.cpl g k).a0 = 0 ∧ (t.cpl g k).got = m ∧ (t.rgl_ g).mbx = ms) ∧
      (∀ (h : Nat) (m : Bytes), h < s.variant.regulators → s.pageEnabled Blk.rgl h = true → (s.rgl_ h).mbx.length < 16 →
        ∃ t, Sys2Proof.Machine.exec (.mbxSend g k h m) s = .next t ∧ (t.cpl g k).a0 = 0 ∧ (t.rgl_ h).mbx.length = (s.rgl_ h).mbx.length + 1) ∧
      (∀ op b n o : Nat, ∃ t, Sys2Proof.Machine.exec (.pool g k op b n o) s = .next t ∧ (t.cpl g k).a0 = (s.poolCmd (8 + g) op b n o).1 ∧
        t.pool = (s.poolCmd (8 + g) op b n o).2.2.pool) ∧
      (∀ (code : Nat) (args : List Word), ∃ t, Sys2Proof.Machine.exec (.event g k code args) s = .next t ∧ (t.cpl g k).a0 = 0) ∧
      (∃ t, Sys2Proof.Machine.exec (.time g k) s = .next t ∧ (t.cpl g k).a0 = s.frameCount ∧ (t.cpl g k).a1 = (s.now - s.clb.lastMark) / Clk.uclk % 4294967296) ∧
      ((s.rglQ g).rxPi ≠ (s.rglQ g).rxCi → ∃ t, Sys2Proof.Machine.exec (.rxqTake g k) s = .next t ∧ (t.cpl g k).a0 = 0 ∧ (t.rglQ g).rxCi = ((s.rglQ g).rxCi + 1) % 128) ∧
      (∀ e : Bytes, e.length = 96 → (s.rglQ g).txCount ≠ 16 →
        ∃ t, Sys2Proof.Machine.exec (.txqPost g k e) s = .next t ∧ (t.cpl g k).a0 = 0 ∧ (t.rglQ g).txPi = ((s.rglQ g).txPi + 1) % 32) ∧
      (∀ kd a u : Nat, 2 ≤ (s.cpl g k).abi →
        (∃ t, Sys2Proof.Machine.exec (.publish g k kd a) s = .next t ∧ Tab.get 0 t.rgl.published kd = a % 4294967296) ∧
        (∃ t, Sys2Proof.Machine.exec (.lookup g k kd) s = .next t ∧ (t.cpl g k).a0 = Tab.get 0 s.rgl.published kd) ∧
        (∃ t, Sys2Proof.Machine.exec (.timer g k u) s = .next t ∧ (t.cpl g k).a0 = 0 ∧ (t.cpl g k).timers = (s.cpl g k).timers ++ [s.now + u * Clk.us])))
end

