-- ==== Sys2Proof/Laws/Tab.lean ====
section
/-! SUPPORT. Laws of the two containers: a table answers what was last set, and every memory operation keeps the canonical
form and changes no other byte. -/

set_option Elab.async false
set_option linter.all false

namespace Sys2Proof.Machine

variable {α : Type}

@[simp] theorem Tab.get_nil (d : α) (k : Nat) : Tab.get d [] k = d := rfl

@[simp] theorem Tab.get_set_same (d : α) (t : Tab α) (k : Nat) (x : α) : Tab.get d (Tab.set t k x) k = x := by
  induction t with
  | nil => simp [Tab.set, Tab.get]
  | cons e t ih =>
    obtain ⟨j, y⟩ := e
    by_cases h : j = k
    · simp [Tab.set, Tab.get, h]
    · by_cases h2 : k < j
      · simp [Tab.set, Tab.get, h, h2]
      · simp [Tab.set, Tab.get, h, h2, ih]

theorem Tab.get_set_other (d : α) (t : Tab α) {k l : Nat} (x : α) (h : k ≠ l) :
    Tab.get d (Tab.set t k x) l = Tab.get d t l := by
  induction t with
  | nil => simp [Tab.set, Tab.get, h]
  | cons e t ih =>
    obtain ⟨j, y⟩ := e
    by_cases hj : j = k
    · subst hj; simp [Tab.set, Tab.get, h]
    · by_cases h2 : k < j
      · simp [Tab.set, Tab.get, hj, h2, h]
      · simp [Tab.set, Tab.get, hj, h2, ih]

@[simp] theorem Tab.has_set_same (t : Tab α) (k : Nat) (x : α) : Tab.has (Tab.set t k x) k = true := by
  induction t with
  | nil => simp [Tab.set, Tab.has]
  | cons e t ih =>
    obtain ⟨j, y⟩ := e
    by_cases h : j = k
    · simp [Tab.set, Tab.has, h]
    · by_cases h2 : k < j
      · simp [Tab.set, Tab.has, h, h2]
      · simp [Tab.set, Tab.has, h, h2, ih]

@[simp] theorem Tab.has_del_same (t : Tab α) (k : Nat) : Tab.has (Tab.del t k) k = false := by
  induction t with
  | nil => rfl
  | cons e t ih =>
    obtain ⟨j, y⟩ := e
    by_cases h : j = k
    · simpa [Tab.del, Tab.has, h] using ih
    · simpa [Tab.del, Tab.has, h] using ih

@[simp] theorem Tab.get_del_same (d : α) (t : Tab α) (k : Nat) : Tab.get d (Tab.del t k) k = d := by
  induction t with
  | nil => rfl
  | cons e t ih =>
    obtain ⟨j, y⟩ := e
    by_cases h : j = k
    · simpa [Tab.del, Tab.get, h] using ih
    · simpa [Tab.del, Tab.get, h] using ih

theorem Tab.get_del_other (d : α) (t : Tab α) {k l : Nat} (h : k ≠ l) : Tab.get d (Tab.del t k) l = Tab.get d t l := by
  induction t with
  | nil => rfl
  | cons e t ih =>
    obtain ⟨j, y⟩ := e
    by_cases hj : j = k
    · subst hj; simpa [Tab.del, Tab.get, h] using ih
    · by_cases hl : j = l
      · simp [Tab.del, Tab.get, hj, hl, h.symm]
      · simpa [Tab.del, Tab.get, hj, hl] using ih

/-! ### Memories -/

@[simp] theorem Mem.read_nil (x : Nat) : Mem.read [] x = 0 := rfl

theorem Mem.wfFrom_mono {m : Mem} : ∀ {a b : Nat}, b ≤ a → Mem.wfFrom a m = true → Mem.wfFrom b m = true := by
  cases m with
  | nil => intros; rfl
  | cons e m =>
    obtain ⟨j, y⟩ := e
    intro a b h w
    simp only [Mem.wfFrom, Bool.and_eq_true, decide_eq_true_eq] at w ⊢
    exact ⟨⟨by omega, w.1.2⟩, w.2⟩

theorem Mem.wfFrom_write (x : Nat) (b : Byte) : ∀ (m : Mem) (lo : Nat), lo ≤ x → Mem.wfFrom lo m = true →
    Mem.wfFrom lo (Mem.write m x b) = true := by
  intro m
  induction m with
  | nil =>
    intro lo h _
    by_cases hb : b = 0#8
    · simp [Mem.write, hb, Mem.wfFrom]
    · simp [Mem.write, hb, Mem.wfFrom, h]
  | cons e m ih =>
    obtain ⟨j, y⟩ := e
    intro lo h w
    simp only [Mem.wfFrom, Bool.and_eq_true, decide_eq_true_eq] at w
    obtain ⟨⟨w1, w2⟩, w3⟩ := w
    have w2 : ¬ y = 0#8 := w2
    by_cases hj : j = x
    · subst hj
      by_cases hb : b = 0#8
      · simp only [Mem.write, hb, if_true]; exact Mem.wfFrom_mono (by omega) w3
      · simp [Mem.write, hb, Mem.wfFrom, h, w3]
    · by_cases hx : x < j
      · by_cases hb : b = 0#8
        · simp [Mem.write, hj, hx, hb, Mem.wfFrom, w1, w2, w3]
        · have : x + 1 ≤ j := hx
          simp [Mem.write, hj, hx, hb, Mem.wfFrom, h, w2, w3, this]
      · have : j + 1 ≤ x := by omega
        simp [Mem.write, hj, hx, Mem.wfFrom, w1, w2, ih (j + 1) this w3]

/-- A write keeps the canonical form. -/
theorem Mem.wf_write {m : Mem} (h : m.wf = true) (x : Nat) (b : Byte) : (m.write x b).wf = true :=
  Mem.wfFrom_write x b m 0 (Nat.zero_le _) h

/-- A write of a byte string keeps the canonical form. -/
theorem Mem.wf_writeBytes (bs : Bytes) : ∀ {m : Mem} (a : Nat), m.wf = true → (m.writeBytes a bs).wf = true := by
  induction bs with
  | nil => intro m a h; exact h
  | cons b bs ih => intro m a h; exact ih (a + 1) (Mem.wf_write h a b)

theorem Mem.wfFrom_filter (p : Host.Cell → Bool) : ∀ (m : Mem) (lo : Nat), Mem.wfFrom lo m = true →
    Mem.wfFrom lo (m.filter p) = true := by
  intro m
  induction m with
  | nil => intros; rfl
  | cons e m ih =>
    obtain ⟨j, y⟩ := e
    intro lo w
    simp only [Mem.wfFrom, Bool.and_eq_true, decide_eq_true_eq] at w
    obtain ⟨⟨w1, w2⟩, w3⟩ := w
    have w2 : ¬ y = 0#8 := w2
    by_cases hp : p (j, y) = true
    · simp [List.filter, hp, Mem.wfFrom, w1, w2, ih (j + 1) w3]
    · simp only [List.filter, hp]; exact Mem.wfFrom_mono (by omega) (ih (j + 1) w3)

/-- Clearing a range keeps the canonical form. -/
theorem Mem.wf_clear {m : Mem} (h : m.wf = true) (a n : Nat) : (m.clear a n).wf = true :=
  Mem.wfFrom_filter _ m 0 h

theorem Mem.read_of_lt {m : Mem} {x : Nat} : ∀ {lo : Nat}, Mem.wfFrom lo m = true → x < lo → m.read x = 0 := by
  induction m with
  | nil => intros; rfl
  | cons e m ih =>
    obtain ⟨j, y⟩ := e
    intro lo w h
    simp only [Mem.wfFrom, Bool.and_eq_true, decide_eq_true_eq] at w
    have hne : j ≠ x := by omega
    simp only [Mem.read, hne, if_false]
    exact ih w.2 (by omega)

/-- The byte written is the byte read. -/
theorem Mem.read_write_same (x : Nat) (b : Byte) : ∀ (m : Mem) (lo : Nat), Mem.wfFrom lo m = true →
    (m.write x b).read x = b := by
  intro m
  induction m with
  | nil =>
    intro lo _
    by_cases hb : b = 0#8
    · simp [Mem.write, hb]
    · simp [Mem.write, hb, Mem.read]
  | cons e m ih =>
    obtain ⟨j, y⟩ := e
    intro lo w
    simp only [Mem.wfFrom, Bool.and_eq_true, decide_eq_true_eq] at w
    by_cases hj : j = x
    · subst hj
      by_cases hb : b = 0#8
      · simp only [Mem.write, hb, if_true]; exact Mem.read_of_lt w.2 (by omega)
      · simp [Mem.write, hb, Mem.read]
    · by_cases hx : x < j
      · by_cases hb : b = 0#8
        · simp [Mem.write, hj, hx, hb, Mem.read]
          exact Mem.read_of_lt w.2 (by omega)
        · simp [Mem.write, hj, hx, hb, Mem.read]
      · simp only [Mem.write, hj, hx, if_false, Mem.read]
        exact ih (j + 1) w.2

/-- A write changes no other byte. -/
theorem Mem.read_write_other {x y : Nat} (b : Byte) (h : x ≠ y) : ∀ (m : Mem) (lo : Nat), Mem.wfFrom lo m = true →
    (m.write x b).read y = m.read y := by
  intro m
  induction m with
  | nil =>
    intro lo _
    by_cases hb : b = 0#8
    · simp [Mem.write, hb]
    · simp [Mem.write, hb, Mem.read, h]
  | cons e m ih =>
    obtain ⟨j, c⟩ := e
    intro lo w
    simp only [Mem.wfFrom, Bool.and_eq_true, decide_eq_true_eq] at w
    by_cases hj : j = x
    · subst hj
      by_cases hb : b = 0#8
      · simp [Mem.write, hb, Mem.read, h]
      · simp [Mem.write, hb, Mem.read, h]
    · by_cases hx : x < j
      · by_cases hb : b = 0#8
        · simp [Mem.write, hj, hx, hb, Mem.read]
        · simp [Mem.write, hj, hx, hb, Mem.read, h]
      · simp only [Mem.write, hj, hx, if_false, Mem.read, ih (j + 1) w.2]

/-- A byte string written changes no byte outside it. -/
theorem Mem.read_writeBytes_outside (bs : Bytes) : ∀ (m : Mem) (a y : Nat), m.wf = true → y < a ∨ a + bs.length ≤ y →
    (m.writeBytes a bs).read y = m.read y := by
  induction bs with
  | nil => intros; rfl
  | cons b bs ih =>
    intro m a y h hy
    simp only [List.length_cons] at hy
    rw [Mem.writeBytes, ih (m.write a b) (a + 1) y (Mem.wf_write h a b) (by omega)]
    exact Mem.read_write_other b (by omega) m 0 h

end Sys2Proof.Machine
end

