-- ==== Sys2Proof/Laws/Kept.lean ====
section
/-! SUPPORT. How `Kept` composes: over updates, pairs, options, folds and outcomes. -/

set_option Elab.async false
set_option linter.all false

namespace Sys2Proof.Machine

theorem Kept.refl (s : State) : Kept s s := ⟨rfl, rfl, id⟩

theorem Kept.trans {a b c : State} (h : Kept a b) (k : Kept b c) : Kept a c :=
  ⟨k.variant.trans h.variant, k.pending.trans h.pending, fun m => k.memOk (h.memOk m)⟩

theorem State.memOk_iff (s : State) : s.memOk = true ↔
    s.mem.dram.wf = true ∧ s.hst.mem.wf = true ∧ s.kst.mem.wf = true ∧ s.pool.odieMem.wf = true ∧ s.rgl.sram.wf = true ∧
    (s.rgl.regs.all fun e => e.2.memOk) = true := by
  simp [State.memOk, and_assoc]

/-- An update keeps what it does not name, where each memory it names is in canonical form if it was before. -/
theorem Kept.put {s0 s : State} {now freeCtr : Nat} {regs : Tab Nat} {hst : HostSt} {rng : RingSt} {pool : PoolSt} {int : IntSt}
    {flt : FaultSt} {mem : MemSt} {kst : KstSt} {pwr : PowerSt} {dec : DecSt} {clb : ClbSt} {cnv : CnvSt} {fus : FusSt}
    {mze : MzeSt} {swc : SwcSt} {sch : SchSt} {plk : PlkSt} {rgq : RgqSt} {enc : EncSt} {esc : EscSt} {rgl : RglSt}
    {dma : DmaSt} (h : Kept s0 s)
    (h1 : s.mem.dram.wf = true → mem.dram.wf = true) (h2 : s.hst.mem.wf = true → hst.mem.wf = true)
    (h3 : s.kst.mem.wf = true → kst.mem.wf = true) (h4 : s.pool.odieMem.wf = true → pool.odieMem.wf = true)
    (h5 : s.rgl.sram.wf = true → rgl.sram.wf = true)
    (h6 : (s.rgl.regs.all fun e => e.2.memOk) = true → (rgl.regs.all fun e => e.2.memOk) = true) :
    Kept s0 ⟨s.variant, now, freeCtr, s.pending, regs, hst, rng, pool, int, flt, mem, kst, pwr, dec, clb, cnv, fus, mze, swc, sch,
      plk, rgq, enc, esc, rgl, dma⟩ := by
  refine ⟨h.variant, h.pending, fun m => ?_⟩
  have k := (State.memOk_iff s).1 (h.memOk m)
  exact (State.memOk_iff _).2 ⟨h1 k.1, h2 k.2.1, h3 k.2.2.1, h4 k.2.2.2.1, h5 k.2.2.2.2.1, h6 k.2.2.2.2.2⟩

/-- An update of a state that leaves its variant and its queue alone. -/
def State.upd (s : State) (now freeCtr : Nat) (regs : Tab Nat) (hst : HostSt) (rng : RingSt) (pool : PoolSt) (int : IntSt)
    (flt : FaultSt) (mem : MemSt) (kst : KstSt) (pwr : PowerSt) (dec : DecSt) (clb : ClbSt) (cnv : CnvSt) (fus : FusSt)
    (mze : MzeSt) (swc : SwcSt) (sch : SchSt) (plk : PlkSt) (rgq : RgqSt) (enc : EncSt) (esc : EscSt) (rgl : RglSt)
    (dma : DmaSt) : State :=
  ⟨s.variant, now, freeCtr, s.pending, regs, hst, rng, pool, int, flt, mem, kst, pwr, dec, clb, cnv, fus, mze, swc, sch, plk, rgq, enc,
    esc, rgl, dma⟩

theorem State.asUpd (s : State) (now freeCtr : Nat) (regs : Tab Nat) (hst : HostSt) (rng : RingSt) (pool : PoolSt) (int : IntSt)
    (flt : FaultSt) (mem : MemSt) (kst : KstSt) (pwr : PowerSt) (dec : DecSt) (clb : ClbSt) (cnv : CnvSt) (fus : FusSt)
    (mze : MzeSt) (swc : SwcSt) (sch : SchSt) (plk : PlkSt) (rgq : RgqSt) (enc : EncSt) (esc : EscSt) (rgl : RglSt)
    (dma : DmaSt) :
    State.mk s.variant now freeCtr s.pending regs hst rng pool int flt mem kst pwr dec clb cnv fus mze swc sch plk rgq enc esc rgl dma =
    s.upd now freeCtr regs hst rng pool int flt mem kst pwr dec clb cnv fus mze swc sch plk rgq enc esc rgl dma := rfl

/-- An update that names no memory. -/
theorem Kept.upd {s0 s : State} {now freeCtr : Nat} {regs : Tab Nat} {hst : HostSt} {rng : RingSt} {pool : PoolSt} {int : IntSt}
    {flt : FaultSt} {mem : MemSt} {kst : KstSt} {pwr : PowerSt} {dec : DecSt} {clb : ClbSt} {cnv : CnvSt} {fus : FusSt}
    {mze : MzeSt} {swc : SwcSt} {sch : SchSt} {plk : PlkSt} {rgq : RgqSt} {enc : EncSt} {esc : EscSt} {rgl : RglSt}
    {dma : DmaSt} (h : Kept s0 s)
    (h1 : mem.dram = s.mem.dram) (h2 : hst.mem = s.hst.mem) (h3 : kst.mem = s.kst.mem) (h4 : pool.odieMem = s.pool.odieMem)
    (h5 : rgl.sram = s.rgl.sram) (h6 : rgl.regs = s.rgl.regs) :
    Kept s0 (s.upd now freeCtr regs hst rng pool int flt mem kst pwr dec clb cnv fus mze swc sch plk rgq enc esc rgl dma) :=
  Kept.put h (by rw [h1]; exact id) (by rw [h2]; exact id) (by rw [h3]; exact id) (by rw [h4]; exact id) (by rw [h5]; exact id)
    (by rw [h6]; exact id)

theorem Kept.ite {s0 a b : State} {c : Prop} {_d : Decidable c} (h : Kept s0 a) (k : Kept s0 b) : Kept s0 (if c then a else b) := by
  split <;> assumption

theorem Kept.ofPair {α : Type} {s0 t : State} {p : α × State} {a : α} (e : p = (a, t)) (h : Kept s0 p.2) : Kept s0 t := by
  subst e; exact h

theorem Kept.ofTriple {α β : Type} {s0 t : State} {p : α × β × State} {a : α} {b : β} (e : p = (a, b, t)) (h : Kept s0 p.2.2) :
    Kept s0 t := by
  subst e; exact h

/-- An optional state that keeps what `Kept` says. -/
structure KeptO (s0 : State) (o : Option State) : Prop where
  keep : ∀ t, o = some t → Kept s0 t

theorem Kept.ofSome {s0 t : State} {o : Option State} (e : o = some t) (h : KeptO s0 o) : Kept s0 t := h.keep t e

theorem KeptO.some {s0 t : State} (h : Kept s0 t) : KeptO s0 (some t) := ⟨fun _ e => Option.some.inj e ▸ h⟩

theorem KeptO.none {s0 : State} : KeptO s0 none := ⟨fun _ e => by cases e⟩

theorem KeptO.map {α : Type} {s0 : State} {f : α → State} (h : ∀ a, Kept s0 (f a)) (o : Option α) : KeptO s0 (o.map f) := by
  cases o with
  | none => exact KeptO.none
  | some a => exact KeptO.some (h a)

theorem KeptO.getD {s0 s : State} {o : Option State} (h : KeptO s0 o) (k : Kept s0 s) : Kept s0 (o.getD s) := by
  cases o with
  | none => exact k
  | some t => exact h.keep t rfl

theorem Kept.foldl {α : Type} {s0 : State} {f : State → α → State} (hf : ∀ x a, Kept s0 x → Kept s0 (f x a)) :
    ∀ (l : List α) {s : State}, Kept s0 s → Kept s0 (l.foldl f s)
  | [], _, h => h
  | a :: l, _, h => Kept.foldl hf l (hf _ a h)

theorem Kept.foldlPair {α β : Type} {s0 : State} {f : β × State → α → β × State}
    (hf : ∀ x a, Kept s0 x.2 → Kept s0 (f x a).2) : ∀ (l : List α) {s : β × State}, Kept s0 s.2 → Kept s0 (l.foldl f s).2
  | [], _, h => h
  | a :: l, _, h => Kept.foldlPair hf l (hf _ a h)

/-- What a meaning answers keeps what `Kept` says. -/
structure KeptOut (s : State) (o : Out) : Prop where
  keep : ∀ t, o = .next t → Kept s t

theorem KeptOut.next {s t : State} (h : Kept s t) : KeptOut s (.next t) := ⟨fun _ e => Host.Outcome.next.inj e ▸ h⟩

theorem KeptOut.run {s : State} {f : State → State} (h : Kept s (f s)) : KeptOut s (s.run f) := by
  unfold State.run
  split
  · exact KeptOut.next (Kept.refl s)
  · exact KeptOut.next h

end Sys2Proof.Machine
end

