-- ==== Sys2Proof/Laws/KeepOps.lean ====
section
/-! SUPPORT. What every operation of Machine/Ops.lean keeps (`Kept`): the variant, the queue, and the canonical form of the
memories. -/

set_option Elab.async false
set_option linter.all false

namespace Sys2Proof.Machine


theorem State.setFld_kept {b0 s : State} (f : Fld) (i : Nat) (v : Nat)  (h : Kept b0 s) : Kept b0 (State.setFld s f i v) := by
  unfold State.setFld
  try simp -zeta only [State.asUpd]
  repeat' first | (with_reducible assumption) | (with_reducible apply Kept.upd)   | (with_reducible rfl) | (refine Kept.reglSame (s := ?_) (g := ?_) ?_ (by with_reducible rfl) (by with_reducible rfl)) | (intro; try dsimp -zeta only) | (with_reducible apply Kept.ite) | (dsimp -zeta only) | (with_reducible apply Kept.ofPair (by with_reducible assumption)) | (with_reducible apply Kept.ofTriple (by with_reducible assumption)) | (with_reducible apply Kept.ofSome (by with_reducible assumption)) | (with_reducible apply Kept.foldl) | (with_reducible apply Kept.foldlPair) | (with_reducible apply KeptO.map) | (with_reducible apply KeptO.getD) | (with_reducible apply KeptO.some) | (with_reducible apply KeptO.none) | (extract_lets +onlyGivenNames z; refine (fun (_hz : Kept b0 z) => ?_) ?_; clear_value z) | (extract_lets +onlyGivenNames z; refine (fun (_hz : Kept b0 z.2) => ?_) ?_; clear_value z) | (extract_lets +onlyGivenNames z; refine (fun (_hz : Kept b0 z.2.2) => ?_) ?_; clear_value z) | (extract_lets +onlyGivenNames z) | split | (with_reducible apply_assumption) | (simp -zeta only [State.asUpd]) | (dsimp -zeta +zetaDelta only) | (apply Kept.ite)

theorem State.count_kept {b0 s : State} (f : Fld) (i : optParam Nat 0) (n : optParam Nat 1)  (h : Kept b0 s) : Kept b0 (State.count s f i n) := by
  unfold State.count
  try simp -zeta only [State.asUpd]
  repeat' first | (with_reducible assumption) | (with_reducible apply Kept.upd)  | (with_reducible apply State.setFld_kept) | (with_reducible rfl) | (refine Kept.reglSame (s := ?_) (g := ?_) ?_ (by with_reducible rfl) (by with_reducible rfl)) | (intro; try dsimp -zeta only) | (with_reducible apply Kept.ite) | (dsimp -zeta only) | (with_reducible apply Kept.ofPair (by with_reducible assumption)) | (with_reducible apply Kept.ofTriple (by with_reducible assumption)) | (with_reducible apply Kept.ofSome (by with_reducible assumption)) | (with_reducible apply Kept.foldl) | (with_reducible apply Kept.foldlPair) | (with_reducible apply KeptO.map) | (with_reducible apply KeptO.getD) | (with_reducible apply KeptO.some) | (with_reducible apply KeptO.none) | (extract_lets +onlyGivenNames z; refine (fun (_hz : Kept b0 z) => ?_) ?_; clear_value z) | (extract_lets +onlyGivenNames z; refine (fun (_hz : Kept b0 z.2) => ?_) ?_; clear_value z) | (extract_lets +onlyGivenNames z; refine (fun (_hz : Kept b0 z.2.2) => ?_) ?_; clear_value z) | (extract_lets +onlyGivenNames z) | split | (with_reducible apply_assumption) | (simp -zeta only [State.asUpd]) | (dsimp -zeta +zetaDelta only) | (apply Kept.ite)

theorem State.countSat_kept {b0 s : State} (f : Fld) (i : optParam Nat 0) (n : optParam Nat 1)  (h : Kept b0 s) : Kept b0 (State.countSat s f i n) := by
  unfold State.countSat
  try simp -zeta only [State.asUpd]
  repeat' first | (with_reducible assumption) | (with_reducible apply Kept.upd)  | (with_reducible apply State.setFld_kept) | (with_reducible rfl) | (refine Kept.reglSame (s := ?_) (g := ?_) ?_ (by with_reducible rfl) (by with_reducible rfl)) | (intro; try dsimp -zeta only) | (with_reducible apply Kept.ite) | (dsimp -zeta only) | (with_reducible apply Kept.ofPair (by with_reducible assumption)) | (with_reducible apply Kept.ofTriple (by with_reducible assumption)) | (with_reducible apply Kept.ofSome (by with_reducible assumption)) | (with_reducible apply Kept.foldl) | (with_reducible apply Kept.foldlPair) | (with_reducible apply KeptO.map) | (with_reducible apply KeptO.getD) | (with_reducible apply KeptO.some) | (with_reducible apply KeptO.none) | (extract_lets +onlyGivenNames z; refine (fun (_hz : Kept b0 z) => ?_) ?_; clear_value z) | (extract_lets +onlyGivenNames z; refine (fun (_hz : Kept b0 z.2) => ?_) ?_; clear_value z) | (extract_lets +onlyGivenNames z; refine (fun (_hz : Kept b0 z.2.2) => ?_) ?_; clear_value z) | (extract_lets +onlyGivenNames z) | split | (with_reducible apply_assumption) | (simp -zeta only [State.asUpd]) | (dsimp -zeta +zetaDelta only) | (apply Kept.ite)

theorem State.clearPage_kept {b0 s : State} (blk : Nat) (inst : Nat) (keep : optParam (List Fld) [])  (h : Kept b0 s) : Kept b0 (State.clearPage s blk inst keep) := by
  unfold State.clearPage
  try simp -zeta only [State.asUpd]
  repeat' first | (with_reducible assumption) | (with_reducible apply Kept.upd)   | (with_reducible rfl) | (refine Kept.reglSame (s := ?_) (g := ?_) ?_ (by with_reducible rfl) (by with_reducible rfl)) | (intro; try dsimp -zeta only) | (with_reducible apply Kept.ite) | (dsimp -zeta only) | (with_reducible apply Kept.ofPair (by with_reducible assumption)) | (with_reducible apply Kept.ofTriple (by with_reducible assumption)) | (with_reducible apply Kept.ofSome (by with_reducible assumption)) | (with_reducible apply Kept.foldl) | (with_reducible apply Kept.foldlPair) | (with_reducible apply KeptO.map) | (with_reducible apply KeptO.getD) | (with_reducible apply KeptO.some) | (with_reducible apply KeptO.none) | (extract_lets +onlyGivenNames z; refine (fun (_hz : Kept b0 z) => ?_) ?_; clear_value z) | (extract_lets +onlyGivenNames z; refine (fun (_hz : Kept b0 z.2) => ?_) ?_; clear_value z) | (extract_lets +onlyGivenNames z; refine (fun (_hz : Kept b0 z.2.2) => ?_) ?_; clear_value z) | (extract_lets +onlyGivenNames z) | split | (with_reducible apply_assumption) | (simp -zeta only [State.asUpd]) | (dsimp -zeta +zetaDelta only) | (apply Kept.ite)

theorem State.freeWord_kept {b0 s : State}   (h : Kept b0 s) : Kept b0 (State.freeWord s).2 := by
  unfold State.freeWord
  try simp -zeta only [State.asUpd]
  repeat' first | (with_reducible assumption) | (with_reducible apply Kept.upd)   | (with_reducible rfl) | (refine Kept.reglSame (s := ?_) (g := ?_) ?_ (by with_reducible rfl) (by with_reducible rfl)) | (intro; try dsimp -zeta only) | (with_reducible apply Kept.ite) | (dsimp -zeta only) | (with_reducible apply Kept.ofPair (by with_reducible assumption)) | (with_reducible apply Kept.ofTriple (by with_reducible assumption)) | (with_reducible apply Kept.ofSome (by with_reducible assumption)) | (with_reducible apply Kept.foldl) | (with_reducible apply Kept.foldlPair) | (with_reducible apply KeptO.map) | (with_reducible apply KeptO.getD) | (with_reducible apply KeptO.some) | (with_reducible apply KeptO.none) | (extract_lets +onlyGivenNames z; refine (fun (_hz : Kept b0 z) => ?_) ?_; clear_value z) | (extract_lets +onlyGivenNames z; refine (fun (_hz : Kept b0 z.2) => ?_) ?_; clear_value z) | (extract_lets +onlyGivenNames z; refine (fun (_hz : Kept b0 z.2.2) => ?_) ?_; clear_value z) | (extract_lets +onlyGivenNames z) | split | (with_reducible apply_assumption) | (simp -zeta only [State.asUpd]) | (dsimp -zeta +zetaDelta only) | (apply Kept.ite)

theorem State.setSrc_kept {b0 s : State} (id : Nat) (x : IntSrc)  (h : Kept b0 s) : Kept b0 (State.setSrc s id x) := by
  unfold State.setSrc
  try simp -zeta only [State.asUpd]
  repeat' first | (with_reducible assumption) | (with_reducible apply Kept.upd)   | (with_reducible rfl) | (refine Kept.reglSame (s := ?_) (g := ?_) ?_ (by with_reducible rfl) (by with_reducible rfl)) | (intro; try dsimp -zeta only) | (with_reducible apply Kept.ite) | (dsimp -zeta only) | (with_reducible apply Kept.ofPair (by with_reducible assumption)) | (with_reducible apply Kept.ofTriple (by with_reducible assumption)) | (with_reducible apply Kept.ofSome (by with_reducible assumption)) | (with_reducible apply Kept.foldl) | (with_reducible apply Kept.foldlPair) | (with_reducible apply KeptO.map) | (with_reducible apply KeptO.getD) | (with_reducible apply KeptO.some) | (with_reducible apply KeptO.none) | (extract_lets +onlyGivenNames z; refine (fun (_hz : Kept b0 z) => ?_) ?_; clear_value z) | (extract_lets +onlyGivenNames z; refine (fun (_hz : Kept b0 z.2) => ?_) ?_; clear_value z) | (extract_lets +onlyGivenNames z; refine (fun (_hz : Kept b0 z.2.2) => ?_) ?_; clear_value z) | (extract_lets +onlyGivenNames z) | split | (with_reducible apply_assumption) | (simp -zeta only [State.asUpd]) | (dsimp -zeta +zetaDelta only) | (apply Kept.ite)

theorem State.setTgt_kept {b0 s : State} (g : Nat) (x : IntTgt)  (h : Kept b0 s) : Kept b0 (State.setTgt s g x) := by
  unfold State.setTgt
  try simp -zeta only [State.asUpd]
  repeat' first | (with_reducible assumption) | (with_reducible apply Kept.upd)   | (with_reducible rfl) | (refine Kept.reglSame (s := ?_) (g := ?_) ?_ (by with_reducible rfl) (by with_reducible rfl)) | (intro; try dsimp -zeta only) | (with_reducible apply Kept.ite) | (dsimp -zeta only) | (with_reducible apply Kept.ofPair (by with_reducible assumption)) | (with_reducible apply Kept.ofTriple (by with_reducible assumption)) | (with_reducible apply Kept.ofSome (by with_reducible assumption)) | (with_reducible apply Kept.foldl) | (with_reducible apply Kept.foldlPair) | (with_reducible apply KeptO.map) | (with_reducible apply KeptO.getD) | (with_reducible apply KeptO.some) | (with_reducible apply KeptO.none) | (extract_lets +onlyGivenNames z; refine (fun (_hz : Kept b0 z) => ?_) ?_; clear_value z) | (extract_lets +onlyGivenNames z; refine (fun (_hz : Kept b0 z.2) => ?_) ?_; clear_value z) | (extract_lets +onlyGivenNames z; refine (fun (_hz : Kept b0 z.2.2) => ?_) ?_; clear_value z) | (extract_lets +onlyGivenNames z) | split | (with_reducible apply_assumption) | (simp -zeta only [State.asUpd]) | (dsimp -zeta +zetaDelta only) | (apply Kept.ite)

theorem State.setVec_kept {b0 s : State} (v : Nat) (x : MsixVec)  (h : Kept b0 s) : Kept b0 (State.setVec s v x) := by
  unfold State.setVec
  try simp -zeta only [State.asUpd]
  repeat' first | (with_reducible assumption) | (with_reducible apply Kept.upd)   | (with_reducible rfl) | (refine Kept.reglSame (s := ?_) (g := ?_) ?_ (by with_reducible rfl) (by with_reducible rfl)) | (intro; try dsimp -zeta only) | (with_reducible apply Kept.ite) | (dsimp -zeta only) | (with_reducible apply Kept.ofPair (by with_reducible assumption)) | (with_reducible apply Kept.ofTriple (by with_reducible assumption)) | (with_reducible apply Kept.ofSome (by with_reducible assumption)) | (with_reducible apply Kept.foldl) | (with_reducible apply Kept.foldlPair) | (with_reducible apply KeptO.map) | (with_reducible apply KeptO.getD) | (with_reducible apply KeptO.some) | (with_reducible apply KeptO.none) | (extract_lets +onlyGivenNames z; refine (fun (_hz : Kept b0 z) => ?_) ?_; clear_value z) | (extract_lets +onlyGivenNames z; refine (fun (_hz : Kept b0 z.2) => ?_) ?_; clear_value z) | (extract_lets +onlyGivenNames z; refine (fun (_hz : Kept b0 z.2.2) => ?_) ?_; clear_value z) | (extract_lets +onlyGivenNames z) | split | (with_reducible apply_assumption) | (simp -zeta only [State.asUpd]) | (dsimp -zeta +zetaDelta only) | (apply Kept.ite)

theorem State.sendMsix_kept {b0 s : State} (v : Nat)  (h : Kept b0 s) : Kept b0 (State.sendMsix s v) := by
  unfold State.sendMsix
  try simp -zeta only [State.asUpd]
  repeat' first | (with_reducible assumption) | (with_reducible apply Kept.upd)  | (with_reducible apply State.setVec_kept) | (with_reducible apply State.count_kept) | (with_reducible rfl) | (refine Kept.reglSame (s := ?_) (g := ?_) ?_ (by with_reducible rfl) (by with_reducible rfl)) | (intro; try dsimp -zeta only) | (with_reducible apply Kept.ite) | (dsimp -zeta only) | (with_reducible apply Kept.ofPair (by with_reducible assumption)) | (with_reducible apply Kept.ofTriple (by with_reducible assumption)) | (with_reducible apply Kept.ofSome (by with_reducible assumption)) | (with_reducible apply Kept.foldl) | (with_reducible apply Kept.foldlPair) | (with_reducible apply KeptO.map) | (with_reducible apply KeptO.getD) | (with_reducible apply KeptO.some) | (with_reducible apply KeptO.none) | (extract_lets +onlyGivenNames z; refine (fun (_hz : Kept b0 z) => ?_) ?_; clear_value z) | (extract_lets +onlyGivenNames z; refine (fun (_hz : Kept b0 z.2) => ?_) ?_; clear_value z) | (extract_lets +onlyGivenNames z; refine (fun (_hz : Kept b0 z.2.2) => ?_) ?_; clear_value z) | (extract_lets +onlyGivenNames z) | split | (with_reducible apply_assumption) | (simp -zeta only [State.asUpd]) | (dsimp -zeta +zetaDelta only) | (apply Kept.ite)

theorem State.hostMsg_kept {b0 s : State} (before : State) (id : Nat)  (h : Kept b0 s) : Kept b0 (State.hostMsg s before id) := by
  unfold State.hostMsg
  try simp -zeta only [State.asUpd]
  repeat' first | (with_reducible assumption) | (with_reducible apply Kept.upd)  | (with_reducible apply State.sendMsix_kept) | (with_reducible rfl) | (refine Kept.reglSame (s := ?_) (g := ?_) ?_ (by with_reducible rfl) (by with_reducible rfl)) | (intro; try dsimp -zeta only) | (with_reducible apply Kept.ite) | (dsimp -zeta only) | (with_reducible apply Kept.ofPair (by with_reducible assumption)) | (with_reducible apply Kept.ofTriple (by with_reducible assumption)) | (with_reducible apply Kept.ofSome (by with_reducible assumption)) | (with_reducible apply Kept.foldl) | (with_reducible apply Kept.foldlPair) | (with_reducible apply KeptO.map) | (with_reducible apply KeptO.getD) | (with_reducible apply KeptO.some) | (with_reducible apply KeptO.none) | (extract_lets +onlyGivenNames z; refine (fun (_hz : Kept b0 z) => ?_) ?_; clear_value z) | (extract_lets +onlyGivenNames z; refine (fun (_hz : Kept b0 z.2) => ?_) ?_; clear_value z) | (extract_lets +onlyGivenNames z; refine (fun (_hz : Kept b0 z.2.2) => ?_) ?_; clear_value z) | (extract_lets +onlyGivenNames z) | split | (with_reducible apply_assumption) | (simp -zeta only [State.asUpd]) | (dsimp -zeta +zetaDelta only) | (apply Kept.ite)

theorem State.rrAssign_kept {b0 s : State} (id : Nat)  (h : Kept b0 s) : Kept b0 (State.rrAssign s id) := by
  unfold State.rrAssign
  try simp -zeta only [State.asUpd]
  repeat' first | (with_reducible assumption) | (with_reducible apply Kept.upd)  | (with_reducible apply State.setFld_kept) | (with_reducible apply State.setSrc_kept) | (with_reducible rfl) | (refine Kept.reglSame (s := ?_) (g := ?_) ?_ (by with_reducible rfl) (by with_reducible rfl)) | (intro; try dsimp -zeta only) | (with_reducible apply Kept.ite) | (dsimp -zeta only) | (with_reducible apply Kept.ofPair (by with_reducible assumption)) | (with_reducible apply Kept.ofTriple (by with_reducible assumption)) | (with_reducible apply Kept.ofSome (by with_reducible assumption)) | (with_reducible apply Kept.foldl) | (with_reducible apply Kept.foldlPair) | (with_reducible apply KeptO.map) | (with_reducible apply KeptO.getD) | (with_reducible apply KeptO.some) | (with_reducible apply KeptO.none) | (extract_lets +onlyGivenNames z; refine (fun (_hz : Kept b0 z) => ?_) ?_; clear_value z) | (extract_lets +onlyGivenNames z; refine (fun (_hz : Kept b0 z.2) => ?_) ?_; clear_value z) | (extract_lets +onlyGivenNames z; refine (fun (_hz : Kept b0 z.2.2) => ?_) ?_; clear_value z) | (extract_lets +onlyGivenNames z) | split | (with_reducible apply_assumption) | (simp -zeta only [State.asUpd]) | (dsimp -zeta +zetaDelta only) | (apply Kept.ite)

theorem State.intEdge_kept {b0 s : State} (id : Nat)  (h : Kept b0 s) : Kept b0 (State.intEdge s id) := by
  unfold State.intEdge
  try simp -zeta only [State.asUpd]
  repeat' first | (with_reducible assumption) | (with_reducible apply Kept.upd)  | (with_reducible apply State.hostMsg_kept) | (with_reducible apply State.rrAssign_kept) | (with_reducible apply State.setSrc_kept) | (with_reducible rfl) | (refine Kept.reglSame (s := ?_) (g := ?_) ?_ (by with_reducible rfl) (by with_reducible rfl)) | (intro; try dsimp -zeta only) | (with_reducible apply Kept.ite) | (dsimp -zeta only) | (with_reducible apply Kept.ofPair (by with_reducible assumption)) | (with_reducible apply Kept.ofTriple (by with_reducible assumption)) | (with_reducible apply Kept.ofSome (by with_reducible assumption)) | (with_reducible apply Kept.foldl) | (with_reducible apply Kept.foldlPair) | (with_reducible apply KeptO.map) | (with_reducible apply KeptO.getD) | (with_reducible apply KeptO.some) | (with_reducible apply KeptO.none) | (extract_lets +onlyGivenNames z; refine (fun (_hz : Kept b0 z) => ?_) ?_; clear_value z) | (extract_lets +onlyGivenNames z; refine (fun (_hz : Kept b0 z.2) => ?_) ?_; clear_value z) | (extract_lets +onlyGivenNames z; refine (fun (_hz : Kept b0 z.2.2) => ?_) ?_; clear_value z) | (extract_lets +onlyGivenNames z) | split | (with_reducible apply_assumption) | (simp -zeta only [State.asUpd]) | (dsimp -zeta +zetaDelta only) | (apply Kept.ite)

theorem State.privEdge_kept {b0 s : State} (g : Nat) (id : Nat)  (h : Kept b0 s) : Kept b0 (State.privEdge s g id) := by
  unfold State.privEdge
  try simp -zeta only [State.asUpd]
  repeat' first | (with_reducible assumption) | (with_reducible apply Kept.upd)  | (with_reducible apply State.setTgt_kept) | (with_reducible rfl) | (refine Kept.reglSame (s := ?_) (g := ?_) ?_ (by with_reducible rfl) (by with_reducible rfl)) | (intro; try dsimp -zeta only) | (with_reducible apply Kept.ite) | (dsimp -zeta only) | (with_reducible apply Kept.ofPair (by with_reducible assumption)) | (with_reducible apply Kept.ofTriple (by with_reducible assumption)) | (with_reducible apply Kept.ofSome (by with_reducible assumption)) | (with_reducible apply Kept.foldl) | (with_reducible apply Kept.foldlPair) | (with_reducible apply KeptO.map) | (with_reducible apply KeptO.getD) | (with_reducible apply KeptO.some) | (with_reducible apply KeptO.none) | (extract_lets +onlyGivenNames z; refine (fun (_hz : Kept b0 z) => ?_) ?_; clear_value z) | (extract_lets +onlyGivenNames z; refine (fun (_hz : Kept b0 z.2) => ?_) ?_; clear_value z) | (extract_lets +onlyGivenNames z; refine (fun (_hz : Kept b0 z.2.2) => ?_) ?_; clear_value z) | (extract_lets +onlyGivenNames z) | split | (with_reducible apply_assumption) | (simp -zeta only [State.asUpd]) | (dsimp -zeta +zetaDelta only) | (apply Kept.ite)

theorem State.pinEdge_kept {b0 s : State} (before : State)  (h : Kept b0 s) : Kept b0 (State.pinEdge s before) := by
  unfold State.pinEdge
  try simp -zeta only [State.asUpd]
  repeat' first | (with_reducible assumption) | (with_reducible apply Kept.upd)  | (with_reducible apply State.intEdge_kept) | (with_reducible rfl) | (refine Kept.reglSame (s := ?_) (g := ?_) ?_ (by with_reducible rfl) (by with_reducible rfl)) | (intro; try dsimp -zeta only) | (with_reducible apply Kept.ite) | (dsimp -zeta only) | (with_reducible apply Kept.ofPair (by with_reducible assumption)) | (with_reducible apply Kept.ofTriple (by with_reducible assumption)) | (with_reducible apply Kept.ofSome (by with_reducible assumption)) | (with_reducible apply Kept.foldl) | (with_reducible apply Kept.foldlPair) | (with_reducible apply KeptO.map) | (with_reducible apply KeptO.getD) | (with_reducible apply KeptO.some) | (with_reducible apply KeptO.none) | (extract_lets +onlyGivenNames z; refine (fun (_hz : Kept b0 z) => ?_) ?_; clear_value z) | (extract_lets +onlyGivenNames z; refine (fun (_hz : Kept b0 z.2) => ?_) ?_; clear_value z) | (extract_lets +onlyGivenNames z; refine (fun (_hz : Kept b0 z.2.2) => ?_) ?_; clear_value z) | (extract_lets +onlyGivenNames z) | split | (with_reducible apply_assumption) | (simp -zeta only [State.asUpd]) | (dsimp -zeta +zetaDelta only) | (apply Kept.ite)

theorem State.latchEffects_kept {b0 s : State} (c : Nat)  (h : Kept b0 s) : Kept b0 (State.latchEffects s c) := by
  unfold State.latchEffects
  try simp -zeta only [State.asUpd]
  repeat' first | (with_reducible assumption) | (with_reducible apply Kept.upd)  | (with_reducible apply State.pinEdge_kept) | (with_reducible rfl) | (refine Kept.reglSame (s := ?_) (g := ?_) ?_ (by with_reducible rfl) (by with_reducible rfl)) | (intro; try dsimp -zeta only) | (with_reducible apply Kept.ite) | (dsimp -zeta only) | (with_reducible apply Kept.ofPair (by with_reducible assumption)) | (with_reducible apply Kept.ofTriple (by with_reducible assumption)) | (with_reducible apply Kept.ofSome (by with_reducible assumption)) | (with_reducible apply Kept.foldl) | (with_reducible apply Kept.foldlPair) | (with_reducible apply KeptO.map) | (with_reducible apply KeptO.getD) | (with_reducible apply KeptO.some) | (with_reducible apply KeptO.none) | (extract_lets +onlyGivenNames z; refine (fun (_hz : Kept b0 z) => ?_) ?_; clear_value z) | (extract_lets +onlyGivenNames z; refine (fun (_hz : Kept b0 z.2) => ?_) ?_; clear_value z) | (extract_lets +onlyGivenNames z; refine (fun (_hz : Kept b0 z.2.2) => ?_) ?_; clear_value z) | (extract_lets +onlyGivenNames z) | split | (with_reducible apply_assumption) | (simp -zeta only [State.asUpd]) | (dsimp -zeta +zetaDelta only) | (apply Kept.ite)

theorem State.collect_kept {b0 s : State} (c : Nat)  (h : Kept b0 s) : Kept b0 (State.collect s c) := by
  unfold State.collect
  try simp -zeta only [State.asUpd]
  repeat' first | (with_reducible assumption) | (with_reducible apply Kept.upd)  | (with_reducible apply State.latchEffects_kept) | (with_reducible apply State.intEdge_kept) | (with_reducible apply State.count_kept) | (with_reducible rfl) | (refine Kept.reglSame (s := ?_) (g := ?_) ?_ (by with_reducible rfl) (by with_reducible rfl)) | (intro; try dsimp -zeta only) | (with_reducible apply Kept.ite) | (dsimp -zeta only) | (with_reducible apply Kept.ofPair (by with_reducible assumption)) | (with_reducible apply Kept.ofTriple (by with_reducible assumption)) | (with_reducible apply Kept.ofSome (by with_reducible assumption)) | (with_reducible apply Kept.foldl) | (with_reducible apply Kept.foldlPair) | (with_reducible apply KeptO.map) | (with_reducible apply KeptO.getD) | (with_reducible apply KeptO.some) | (with_reducible apply KeptO.none) | (extract_lets +onlyGivenNames z; refine (fun (_hz : Kept b0 z) => ?_) ?_; clear_value z) | (extract_lets +onlyGivenNames z; refine (fun (_hz : Kept b0 z.2) => ?_) ?_; clear_value z) | (extract_lets +onlyGivenNames z; refine (fun (_hz : Kept b0 z.2.2) => ?_) ?_; clear_value z) | (extract_lets +onlyGivenNames z) | split | (with_reducible apply_assumption) | (simp -zeta only [State.asUpd]) | (dsimp -zeta +zetaDelta only) | (apply Kept.ite)

theorem State.setSticky_kept {b0 s : State} (page : Nat) (b : Nat)  (h : Kept b0 s) : Kept b0 (State.setSticky s page b) := by
  unfold State.setSticky
  try simp -zeta only [State.asUpd]
  repeat' first | (with_reducible assumption) | (with_reducible apply Kept.upd)  | (with_reducible apply State.setFld_kept) | (with_reducible rfl) | (refine Kept.reglSame (s := ?_) (g := ?_) ?_ (by with_reducible rfl) (by with_reducible rfl)) | (intro; try dsimp -zeta only) | (with_reducible apply Kept.ite) | (dsimp -zeta only) | (with_reducible apply Kept.ofPair (by with_reducible assumption)) | (with_reducible apply Kept.ofTriple (by with_reducible assumption)) | (with_reducible apply Kept.ofSome (by with_reducible assumption)) | (with_reducible apply Kept.foldl) | (with_reducible apply Kept.foldlPair) | (with_reducible apply KeptO.map) | (with_reducible apply KeptO.getD) | (with_reducible apply KeptO.some) | (with_reducible apply KeptO.none) | (extract_lets +onlyGivenNames z; refine (fun (_hz : Kept b0 z) => ?_) ?_; clear_value z) | (extract_lets +onlyGivenNames z; refine (fun (_hz : Kept b0 z.2) => ?_) ?_; clear_value z) | (extract_lets +onlyGivenNames z; refine (fun (_hz : Kept b0 z.2.2) => ?_) ?_; clear_value z) | (extract_lets +onlyGivenNames z) | split | (with_reducible apply_assumption) | (simp -zeta only [State.asUpd]) | (dsimp -zeta +zetaDelta only) | (apply Kept.ite)

theorem State.latchCore_kept {b0 s : State} (src : Src) (inst : Nat)  (h : Kept b0 s) : Kept b0 (State.latchCore s src inst) := by
  unfold State.latchCore
  try simp -zeta only [State.asUpd]
  repeat' first | (with_reducible assumption) | (with_reducible apply Kept.upd)  | (with_reducible apply State.setSticky_kept) | (with_reducible apply State.collect_kept) | (with_reducible rfl) | (refine Kept.reglSame (s := ?_) (g := ?_) ?_ (by with_reducible rfl) (by with_reducible rfl)) | (intro; try dsimp -zeta only) | (with_reducible apply Kept.ite) | (dsimp -zeta only) | (with_reducible apply Kept.ofPair (by with_reducible assumption)) | (with_reducible apply Kept.ofTriple (by with_reducible assumption)) | (with_reducible apply Kept.ofSome (by with_reducible assumption)) | (with_reducible apply Kept.foldl) | (with_reducible apply Kept.foldlPair) | (with_reducible apply KeptO.map) | (with_reducible apply KeptO.getD) | (with_reducible apply KeptO.some) | (with_reducible apply KeptO.none) | (extract_lets +onlyGivenNames z; refine (fun (_hz : Kept b0 z) => ?_) ?_; clear_value z) | (extract_lets +onlyGivenNames z; refine (fun (_hz : Kept b0 z.2) => ?_) ?_; clear_value z) | (extract_lets +onlyGivenNames z; refine (fun (_hz : Kept b0 z.2.2) => ?_) ?_; clear_value z) | (extract_lets +onlyGivenNames z) | split | (with_reducible apply_assumption) | (simp -zeta only [State.asUpd]) | (dsimp -zeta +zetaDelta only) | (apply Kept.ite)

theorem State.takeInject_kept {s0 s : State} (src : Src) (inst : Nat) (h : Kept s0 s) : KeptO s0 (s.takeInject src inst) := by
  unfold State.takeInject
  extract_lets
  split
  · exact KeptO.some (State.setFld_kept _ _ _ h)
  · exact KeptO.none

theorem State.collectorCheck_kept {b0 s : State}   (h : Kept b0 s) : Kept b0 (State.collectorCheck s) := by
  unfold State.collectorCheck
  try simp -zeta only [State.asUpd]
  repeat' first | (with_reducible assumption) | (with_reducible apply Kept.upd)  | (with_reducible apply State.takeInject_kept) | (with_reducible apply State.latchCore_kept) | (with_reducible rfl) | (refine Kept.reglSame (s := ?_) (g := ?_) ?_ (by with_reducible rfl) (by with_reducible rfl)) | (intro; try dsimp -zeta only) | (with_reducible apply Kept.ite) | (dsimp -zeta only) | (with_reducible apply Kept.ofPair (by with_reducible assumption)) | (with_reducible apply Kept.ofTriple (by with_reducible assumption)) | (with_reducible apply Kept.ofSome (by with_reducible assumption)) | (with_reducible apply Kept.foldl) | (with_reducible apply Kept.foldlPair) | (with_reducible apply KeptO.map) | (with_reducible apply KeptO.getD) | (with_reducible apply KeptO.some) | (with_reducible apply KeptO.none) | (extract_lets +onlyGivenNames z; refine (fun (_hz : Kept b0 z) => ?_) ?_; clear_value z) | (extract_lets +onlyGivenNames z; refine (fun (_hz : Kept b0 z.2) => ?_) ?_; clear_value z) | (extract_lets +onlyGivenNames z; refine (fun (_hz : Kept b0 z.2.2) => ?_) ?_; clear_value z) | (extract_lets +onlyGivenNames z) | split | (with_reducible apply_assumption) | (simp -zeta only [State.asUpd]) | (dsimp -zeta +zetaDelta only) | (apply Kept.ite)

theorem KstSt.shut_wf {k : KstSt} (h : k.mem.wf = true) (off : Nat) : (k.shut off).mem.wf = true := by
  unfold KstSt.shut
  repeat' first | exact h | split

theorem KstSt.put_wf' {k : KstSt} (h : k.mem.wf = true) (off : Nat) (bs : Bytes) : (k.put off bs).mem.wf = true :=
  Mem.wf_writeBytes bs off h

theorem State.logFault_kept {s0 s : State} (src : Src) (inst cls : Nat) (h : Kept s0 s) : Kept s0 (s.logFault src inst cls) := by
  have h1 : Kept s0 { s with flt := { s.flt with logged := (pageOf src.blk inst * 32 + src.bit) :: s.flt.logged } } :=
    Kept.put h id id id id id id
  unfold State.logFault
  extract_lets
  split
  · exact State.latchCore_kept _ _ (State.latchCore_kept _ _ (Kept.put h1 id id (fun w => KstSt.shut_wf w _) id id id))
  · split
    · refine State.latchCore_kept _ _ (State.count_kept _ _ _ ?_)
      refine Kept.put h1 id id (fun w => ?_) id id id
      dsimp -zeta +zetaDelta only
      with_reducible apply KstSt.put_wf'
      exact w
    · refine State.count_kept _ _ _ ?_
      refine Kept.put h1 id id (fun w => ?_) id id id
      dsimp -zeta +zetaDelta only
      with_reducible apply KstSt.put_wf'
      exact w

theorem State.latch_kept {b0 s : State} (src : Src) (inst : optParam Nat 0)  (h : Kept b0 s) : Kept b0 (State.latch s src inst) := by
  unfold State.latch
  try simp -zeta only [State.asUpd]
  repeat' first | (with_reducible assumption) | (with_reducible apply Kept.upd)  | (with_reducible apply State.latchCore_kept) | (with_reducible apply State.collectorCheck_kept) | (with_reducible apply State.logFault_kept) | (with_reducible rfl) | (refine Kept.reglSame (s := ?_) (g := ?_) ?_ (by with_reducible rfl) (by with_reducible rfl)) | (intro; try dsimp -zeta only) | (with_reducible apply Kept.ite) | (dsimp -zeta only) | (with_reducible apply Kept.ofPair (by with_reducible assumption)) | (with_reducible apply Kept.ofTriple (by with_reducible assumption)) | (with_reducible apply Kept.ofSome (by with_reducible assumption)) | (with_reducible apply Kept.foldl) | (with_reducible apply Kept.foldlPair) | (with_reducible apply KeptO.map) | (with_reducible apply KeptO.getD) | (with_reducible apply KeptO.some) | (with_reducible apply KeptO.none) | (extract_lets +onlyGivenNames z; refine (fun (_hz : Kept b0 z) => ?_) ?_; clear_value z) | (extract_lets +onlyGivenNames z; refine (fun (_hz : Kept b0 z.2) => ?_) ?_; clear_value z) | (extract_lets +onlyGivenNames z; refine (fun (_hz : Kept b0 z.2.2) => ?_) ?_; clear_value z) | (extract_lets +onlyGivenNames z) | split | (with_reducible apply_assumption) | (simp -zeta only [State.asUpd]) | (dsimp -zeta +zetaDelta only) | (apply Kept.ite)

theorem State.causeOn_kept {b0 s : State} (src : Src) (inst : optParam Nat 0)  (h : Kept b0 s) : Kept b0 (State.causeOn s src inst) := by
  unfold State.causeOn
  try simp -zeta only [State.asUpd]
  repeat' first | (with_reducible assumption) | (with_reducible apply Kept.upd)  | (with_reducible apply State.latch_kept) | (with_reducible rfl) | (refine Kept.reglSame (s := ?_) (g := ?_) ?_ (by with_reducible rfl) (by with_reducible rfl)) | (intro; try dsimp -zeta only) | (with_reducible apply Kept.ite) | (dsimp -zeta only) | (with_reducible apply Kept.ofPair (by with_reducible assumption)) | (with_reducible apply Kept.ofTriple (by with_reducible assumption)) | (with_reducible apply Kept.ofSome (by with_reducible assumption)) | (with_reducible apply Kept.foldl) | (with_reducible apply Kept.foldlPair) | (with_reducible apply KeptO.map) | (with_reducible apply KeptO.getD) | (with_reducible apply KeptO.some) | (with_reducible apply KeptO.none) | (extract_lets +onlyGivenNames z; refine (fun (_hz : Kept b0 z) => ?_) ?_; clear_value z) | (extract_lets +onlyGivenNames z; refine (fun (_hz : Kept b0 z.2) => ?_) ?_; clear_value z) | (extract_lets +onlyGivenNames z; refine (fun (_hz : Kept b0 z.2.2) => ?_) ?_; clear_value z) | (extract_lets +onlyGivenNames z) | split | (with_reducible apply_assumption) | (simp -zeta only [State.asUpd]) | (dsimp -zeta +zetaDelta only) | (apply Kept.ite)

theorem State.causeOff_kept {b0 s : State} (src : Src) (inst : optParam Nat 0)  (h : Kept b0 s) : Kept b0 (State.causeOff s src inst) := by
  unfold State.causeOff
  try simp -zeta only [State.asUpd]
  repeat' first | (with_reducible assumption) | (with_reducible apply Kept.upd)   | (with_reducible rfl) | (refine Kept.reglSame (s := ?_) (g := ?_) ?_ (by with_reducible rfl) (by with_reducible rfl)) | (intro; try dsimp -zeta only) | (with_reducible apply Kept.ite) | (dsimp -zeta only) | (with_reducible apply Kept.ofPair (by with_reducible assumption)) | (with_reducible apply Kept.ofTriple (by with_reducible assumption)) | (with_reducible apply Kept.ofSome (by with_reducible assumption)) | (with_reducible apply Kept.foldl) | (with_reducible apply Kept.foldlPair) | (with_reducible apply KeptO.map) | (with_reducible apply KeptO.getD) | (with_reducible apply KeptO.some) | (with_reducible apply KeptO.none) | (extract_lets +onlyGivenNames z; refine (fun (_hz : Kept b0 z) => ?_) ?_; clear_value z) | (extract_lets +onlyGivenNames z; refine (fun (_hz : Kept b0 z.2) => ?_) ?_; clear_value z) | (extract_lets +onlyGivenNames z; refine (fun (_hz : Kept b0 z.2.2) => ?_) ?_; clear_value z) | (extract_lets +onlyGivenNames z) | split | (with_reducible apply_assumption) | (simp -zeta only [State.asUpd]) | (dsimp -zeta +zetaDelta only) | (apply Kept.ite)

theorem State.badId_kept {b0 s : State} (blk : Nat) (inst : Nat)  (h : Kept b0 s) : Kept b0 (State.badId s blk inst) := by
  unfold State.badId
  try simp -zeta only [State.asUpd]
  repeat' first | (with_reducible assumption) | (with_reducible apply Kept.upd)  | (with_reducible apply State.latch_kept) | (with_reducible rfl) | (refine Kept.reglSame (s := ?_) (g := ?_) ?_ (by with_reducible rfl) (by with_reducible rfl)) | (intro; try dsimp -zeta only) | (with_reducible apply Kept.ite) | (dsimp -zeta only) | (with_reducible apply Kept.ofPair (by with_reducible assumption)) | (with_reducible apply Kept.ofTriple (by with_reducible assumption)) | (with_reducible apply Kept.ofSome (by with_reducible assumption)) | (with_reducible apply Kept.foldl) | (with_reducible apply Kept.foldlPair) | (with_reducible apply KeptO.map) | (with_reducible apply KeptO.getD) | (with_reducible apply KeptO.some) | (with_reducible apply KeptO.none) | (extract_lets +onlyGivenNames z; refine (fun (_hz : Kept b0 z) => ?_) ?_; clear_value z) | (extract_lets +onlyGivenNames z; refine (fun (_hz : Kept b0 z.2) => ?_) ?_; clear_value z) | (extract_lets +onlyGivenNames z; refine (fun (_hz : Kept b0 z.2.2) => ?_) ?_; clear_value z) | (extract_lets +onlyGivenNames z) | split | (with_reducible apply_assumption) | (simp -zeta only [State.asUpd]) | (dsimp -zeta +zetaDelta only) | (apply Kept.ite)

theorem State.clampHit_kept {b0 s : State} (blk : Nat) (inst : Nat)  (h : Kept b0 s) : Kept b0 (State.clampHit s blk inst) := by
  unfold State.clampHit
  try simp -zeta only [State.asUpd]
  repeat' first | (with_reducible assumption) | (with_reducible apply Kept.upd)  | (with_reducible apply State.latch_kept) | (with_reducible rfl) | (refine Kept.reglSame (s := ?_) (g := ?_) ?_ (by with_reducible rfl) (by with_reducible rfl)) | (intro; try dsimp -zeta only) | (with_reducible apply Kept.ite) | (dsimp -zeta only) | (with_reducible apply Kept.ofPair (by with_reducible assumption)) | (with_reducible apply Kept.ofTriple (by with_reducible assumption)) | (with_reducible apply Kept.ofSome (by with_reducible assumption)) | (with_reducible apply Kept.foldl) | (with_reducible apply Kept.foldlPair) | (with_reducible apply KeptO.map) | (with_reducible apply KeptO.getD) | (with_reducible apply KeptO.some) | (with_reducible apply KeptO.none) | (extract_lets +onlyGivenNames z; refine (fun (_hz : Kept b0 z) => ?_) ?_; clear_value z) | (extract_lets +onlyGivenNames z; refine (fun (_hz : Kept b0 z.2) => ?_) ?_; clear_value z) | (extract_lets +onlyGivenNames z; refine (fun (_hz : Kept b0 z.2.2) => ?_) ?_; clear_value z) | (extract_lets +onlyGivenNames z) | split | (with_reducible apply_assumption) | (simp -zeta only [State.asUpd]) | (dsimp -zeta +zetaDelta only) | (apply Kept.ite)

theorem State.kstWrite_kept {s0 s : State} (off : Nat) (bs : Bytes) (h : Kept s0 s) : KeptO s0 (s.kstWrite off bs) := by
  unfold State.kstWrite
  extract_lets s1
  have h1 : Kept s0 s1 := Kept.put h id id (fun w => KstSt.put_wf' w _ _) id id id
  split
  · exact KeptO.none
  · refine KeptO.some ?_
    split
    · exact State.latch_kept _ _ h1
    · exact h1

theorem KstSt.shut_mem (k : KstSt) (off : Nat) : (k.shut off).mem = k.mem := by
  unfold KstSt.shut
  repeat' first | rfl | split

theorem KstSt.put_wf {k : KstSt} (h : k.mem.wf = true) (off : Nat) (bs : Bytes) : (k.put off bs).mem.wf = true :=
  Mem.wf_writeBytes bs off h

theorem Kept.kst {s0 s : State} (h : Kept s0 s) (k : KstSt) (hk : s.kst.mem.wf = true → k.mem.wf = true) :
    Kept s0 { s with kst := k } := Kept.put h id id hk id id id

theorem State.wearOut_kept {s0 s : State} (off : Nat) (h : Kept s0 s) : Kept s0 (s.wearOut off) := by
  unfold State.wearOut
  refine State.latch_kept _ _ (Kept.kst h _ fun w => ?_)
  rw [KstSt.shut_mem]; exact w

theorem MemSt.readAccepted_dram (m : MemSt) (l : Nat) : (m.readAccepted l).dram = m.dram := by
  unfold MemSt.readAccepted
  dsimp only
  split <;> rfl

theorem MemSt.reads_dram (ls : List Nat) (m : MemSt) : (ls.foldl MemSt.readAccepted m).dram = m.dram := by
  induction ls generalizing m with
  | nil => rfl
  | cons l ls ih => exact (ih _).trans (MemSt.readAccepted_dram m l)

theorem State.readsAccepted_kept {b0 s : State} (a len : Nat) (h : Kept b0 s) : Kept b0 (s.readsAccepted a len) :=
  Kept.put h (fun w => (congrArg Mem.wf (MemSt.reads_dram _ _)).trans w) id id id id id

theorem State.touchDram_kept {b0 s : State} (a len : Nat) (h : Kept b0 s) : Kept b0 (s.touchDram a len) := by
  unfold State.touchDram
  refine Kept.foldl (fun x b hx => ?_) _ h
  refine Kept.put hx (fun w => ?_) id id id id id
  exact Mem.wf_writeBytes _ _ w

theorem State.dramPut_kept {s0 s : State} (a : Nat) (bs : Bytes) (h : Kept s0 s) : Kept s0 (s.dramPut a bs) :=
  Kept.put (State.touchDram_kept _ _ h) (fun w => Mem.wf_writeBytes bs a w) id id id id id

theorem State.request_kept {b0 s : State} (q : HostReq)  (h : Kept b0 s) : Kept b0 (State.request s q) := by
  unfold State.request
  try simp -zeta only [State.asUpd]
  repeat' first | (with_reducible assumption) | (with_reducible apply Kept.upd)   | (with_reducible rfl) | (refine Kept.reglSame (s := ?_) (g := ?_) ?_ (by with_reducible rfl) (by with_reducible rfl)) | (intro; try dsimp -zeta only) | (with_reducible apply Kept.ite) | (dsimp -zeta only) | (with_reducible apply Kept.ofPair (by with_reducible assumption)) | (with_reducible apply Kept.ofTriple (by with_reducible assumption)) | (with_reducible apply Kept.ofSome (by with_reducible assumption)) | (with_reducible apply Kept.foldl) | (with_reducible apply Kept.foldlPair) | (with_reducible apply KeptO.map) | (with_reducible apply KeptO.getD) | (with_reducible apply KeptO.some) | (with_reducible apply KeptO.none) | (extract_lets +onlyGivenNames z; refine (fun (_hz : Kept b0 z) => ?_) ?_; clear_value z) | (extract_lets +onlyGivenNames z; refine (fun (_hz : Kept b0 z.2) => ?_) ?_; clear_value z) | (extract_lets +onlyGivenNames z; refine (fun (_hz : Kept b0 z.2.2) => ?_) ?_; clear_value z) | (extract_lets +onlyGivenNames z) | split | (with_reducible apply_assumption) | (simp -zeta only [State.asUpd]) | (dsimp -zeta +zetaDelta only) | (apply Kept.ite)

theorem State.linePut_kept {b0 s : State} (w : BiWrite)  (h : Kept b0 s) : Kept b0 (State.linePut s w) := by
  unfold State.linePut
  try simp -zeta only [State.asUpd]
  repeat' first | (with_reducible assumption) | (with_reducible apply Kept.upd)  | (with_reducible apply State.dramPut_kept) | (with_reducible apply State.request_kept) | (with_reducible rfl) | (refine Kept.reglSame (s := ?_) (g := ?_) ?_ (by with_reducible rfl) (by with_reducible rfl)) | (intro; try dsimp -zeta only) | (with_reducible apply Kept.ite) | (dsimp -zeta only) | (with_reducible apply Kept.ofPair (by with_reducible assumption)) | (with_reducible apply Kept.ofTriple (by with_reducible assumption)) | (with_reducible apply Kept.ofSome (by with_reducible assumption)) | (with_reducible apply Kept.foldl) | (with_reducible apply Kept.foldlPair) | (with_reducible apply KeptO.map) | (with_reducible apply KeptO.getD) | (with_reducible apply KeptO.some) | (with_reducible apply KeptO.none) | (extract_lets +onlyGivenNames z; refine (fun (_hz : Kept b0 z) => ?_) ?_; clear_value z) | (extract_lets +onlyGivenNames z; refine (fun (_hz : Kept b0 z.2) => ?_) ?_; clear_value z) | (extract_lets +onlyGivenNames z; refine (fun (_hz : Kept b0 z.2.2) => ?_) ?_; clear_value z) | (extract_lets +onlyGivenNames z) | split | (with_reducible apply_assumption) | (simp -zeta only [State.asUpd]) | (dsimp -zeta +zetaDelta only) | (apply Kept.ite)

theorem State.devWrite_kept {b0 s : State} (a : Nat) (bs : Bytes)  (h : Kept b0 s) : Kept b0 (State.devWrite s a bs) := by
  unfold State.devWrite
  try simp -zeta only [State.asUpd]
  repeat' first | (with_reducible assumption) | (with_reducible apply Kept.upd)  | (with_reducible apply State.linePut_kept) | (with_reducible apply State.dramPut_kept) | (with_reducible rfl) | (refine Kept.reglSame (s := ?_) (g := ?_) ?_ (by with_reducible rfl) (by with_reducible rfl)) | (intro; try dsimp -zeta only) | (with_reducible apply Kept.ite) | (dsimp -zeta only) | (with_reducible apply Kept.ofPair (by with_reducible assumption)) | (with_reducible apply Kept.ofTriple (by with_reducible assumption)) | (with_reducible apply Kept.ofSome (by with_reducible assumption)) | (with_reducible apply Kept.foldl) | (with_reducible apply Kept.foldlPair) | (with_reducible apply KeptO.map) | (with_reducible apply KeptO.getD) | (with_reducible apply KeptO.some) | (with_reducible apply KeptO.none) | (extract_lets +onlyGivenNames z; refine (fun (_hz : Kept b0 z) => ?_) ?_; clear_value z) | (extract_lets +onlyGivenNames z; refine (fun (_hz : Kept b0 z.2) => ?_) ?_; clear_value z) | (extract_lets +onlyGivenNames z; refine (fun (_hz : Kept b0 z.2.2) => ?_) ?_; clear_value z) | (extract_lets +onlyGivenNames z) | split | (with_reducible apply_assumption) | (simp -zeta only [State.asUpd]) | (dsimp -zeta +zetaDelta only) | (apply Kept.ite)

theorem State.biasRead_kept {b0 s0 : State} (a : Nat) (len : Nat)  (h : Kept b0 s0) : Kept b0 (State.biasRead s0 a len) := by
  unfold State.biasRead
  try simp -zeta only [State.asUpd]
  repeat' first | (with_reducible assumption) | (with_reducible apply Kept.upd)  | (with_reducible apply State.readsAccepted_kept) | (with_reducible apply State.request_kept) | (with_reducible rfl) | (refine Kept.reglSame (s := ?_) (g := ?_) ?_ (by with_reducible rfl) (by with_reducible rfl)) | (intro; try dsimp -zeta only) | (with_reducible apply Kept.ite) | (dsimp -zeta only) | (with_reducible apply Kept.ofPair (by with_reducible assumption)) | (with_reducible apply Kept.ofTriple (by with_reducible assumption)) | (with_reducible apply Kept.ofSome (by with_reducible assumption)) | (with_reducible apply Kept.foldl) | (with_reducible apply Kept.foldlPair) | (with_reducible apply KeptO.map) | (with_reducible apply KeptO.getD) | (with_reducible apply KeptO.some) | (with_reducible apply KeptO.none) | (extract_lets +onlyGivenNames z; refine (fun (_hz : Kept b0 z) => ?_) ?_; clear_value z) | (extract_lets +onlyGivenNames z; refine (fun (_hz : Kept b0 z.2) => ?_) ?_; clear_value z) | (extract_lets +onlyGivenNames z; refine (fun (_hz : Kept b0 z.2.2) => ?_) ?_; clear_value z) | (extract_lets +onlyGivenNames z) | split | (with_reducible apply_assumption) | (simp -zeta only [State.asUpd]) | (dsimp -zeta +zetaDelta only) | (apply Kept.ite)

theorem State.hostReq_kept {b0 s : State} (k : ReqKind) (a : Nat) (len : Nat) (t_4 : Option Nat)  (h : Kept b0 s) : Kept b0 (State.hostReq s k a len t_4) := by
  unfold State.hostReq
  try simp -zeta only [State.asUpd]
  repeat' first | (with_reducible assumption) | (with_reducible apply Kept.upd)  | (with_reducible apply State.request_kept) | (with_reducible rfl) | (refine Kept.reglSame (s := ?_) (g := ?_) ?_ (by with_reducible rfl) (by with_reducible rfl)) | (intro; try dsimp -zeta only) | (with_reducible apply Kept.ite) | (dsimp -zeta only) | (with_reducible apply Kept.ofPair (by with_reducible assumption)) | (with_reducible apply Kept.ofTriple (by with_reducible assumption)) | (with_reducible apply Kept.ofSome (by with_reducible assumption)) | (with_reducible apply Kept.foldl) | (with_reducible apply Kept.foldlPair) | (with_reducible apply KeptO.map) | (with_reducible apply KeptO.getD) | (with_reducible apply KeptO.some) | (with_reducible apply KeptO.none) | (extract_lets +onlyGivenNames z; refine (fun (_hz : Kept b0 z) => ?_) ?_; clear_value z) | (extract_lets +onlyGivenNames z; refine (fun (_hz : Kept b0 z.2) => ?_) ?_; clear_value z) | (extract_lets +onlyGivenNames z; refine (fun (_hz : Kept b0 z.2.2) => ?_) ?_; clear_value z) | (extract_lets +onlyGivenNames z) | split | (with_reducible apply_assumption) | (simp -zeta only [State.asUpd]) | (dsimp -zeta +zetaDelta only) | (apply Kept.ite)

theorem State.hostPut_kept {s0 s : State} (k : ReqKind) (a : Nat) (bs : Bytes) (t : Option Nat) (h : Kept s0 s) :
    Kept s0 (s.hostPut k a bs t) :=
  Kept.put (State.hostReq_kept _ _ _ _ h) id (fun w => Mem.wf_writeBytes bs a w) id id id id

theorem State.hostWrite_kept {b0 s : State} (a : Nat) (bs : Bytes) (t_3 : Option Nat)  (h : Kept b0 s) : Kept b0 (State.hostWrite s a bs t_3) := by
  unfold State.hostWrite
  try simp -zeta only [State.asUpd]
  repeat' first | (with_reducible assumption) | (with_reducible apply Kept.upd)  | (with_reducible apply State.hostPut_kept) | (with_reducible rfl) | (refine Kept.reglSame (s := ?_) (g := ?_) ?_ (by with_reducible rfl) (by with_reducible rfl)) | (intro; try dsimp -zeta only) | (with_reducible apply Kept.ite) | (dsimp -zeta only) | (with_reducible apply Kept.ofPair (by with_reducible assumption)) | (with_reducible apply Kept.ofTriple (by with_reducible assumption)) | (with_reducible apply Kept.ofSome (by with_reducible assumption)) | (with_reducible apply Kept.foldl) | (with_reducible apply Kept.foldlPair) | (with_reducible apply KeptO.map) | (with_reducible apply KeptO.getD) | (with_reducible apply KeptO.some) | (with_reducible apply KeptO.none) | (extract_lets +onlyGivenNames z; refine (fun (_hz : Kept b0 z) => ?_) ?_; clear_value z) | (extract_lets +onlyGivenNames z; refine (fun (_hz : Kept b0 z.2) => ?_) ?_; clear_value z) | (extract_lets +onlyGivenNames z; refine (fun (_hz : Kept b0 z.2.2) => ?_) ?_; clear_value z) | (extract_lets +onlyGivenNames z) | split | (with_reducible apply_assumption) | (simp -zeta only [State.asUpd]) | (dsimp -zeta +zetaDelta only) | (apply Kept.ite)

theorem State.spaceWrite_kept {b0 s : State} (dev : Bool) (a : Nat) (bs : Bytes) (t_4 : Option Nat)  (h : Kept b0 s) : Kept b0 (State.spaceWrite s dev a bs t_4) := by
  unfold State.spaceWrite
  try simp -zeta only [State.asUpd]
  repeat' first | (with_reducible assumption) | (with_reducible apply Kept.upd)  | (with_reducible apply State.devWrite_kept) | (with_reducible apply State.hostWrite_kept) | (with_reducible rfl) | (refine Kept.reglSame (s := ?_) (g := ?_) ?_ (by with_reducible rfl) (by with_reducible rfl)) | (intro; try dsimp -zeta only) | (with_reducible apply Kept.ite) | (dsimp -zeta only) | (with_reducible apply Kept.ofPair (by with_reducible assumption)) | (with_reducible apply Kept.ofTriple (by with_reducible assumption)) | (with_reducible apply Kept.ofSome (by with_reducible assumption)) | (with_reducible apply Kept.foldl) | (with_reducible apply Kept.foldlPair) | (with_reducible apply KeptO.map) | (with_reducible apply KeptO.getD) | (with_reducible apply KeptO.some) | (with_reducible apply KeptO.none) | (extract_lets +onlyGivenNames z; refine (fun (_hz : Kept b0 z) => ?_) ?_; clear_value z) | (extract_lets +onlyGivenNames z; refine (fun (_hz : Kept b0 z.2) => ?_) ?_; clear_value z) | (extract_lets +onlyGivenNames z; refine (fun (_hz : Kept b0 z.2.2) => ?_) ?_; clear_value z) | (extract_lets +onlyGivenNames z) | split | (with_reducible apply_assumption) | (simp -zeta only [State.asUpd]) | (dsimp -zeta +zetaDelta only) | (apply Kept.ite)

theorem State.writeBack_kept {b0 s : State} (line : Nat) (c : CacheLine)  (h : Kept b0 s) : Kept b0 (State.writeBack s line c) := by
  unfold State.writeBack
  try simp -zeta only [State.asUpd]
  repeat' first | (with_reducible assumption) | (with_reducible apply Kept.upd)  | (with_reducible apply State.hostPut_kept) | (with_reducible rfl) | (refine Kept.reglSame (s := ?_) (g := ?_) ?_ (by with_reducible rfl) (by with_reducible rfl)) | (intro; try dsimp -zeta only) | (with_reducible apply Kept.ite) | (dsimp -zeta only) | (with_reducible apply Kept.ofPair (by with_reducible assumption)) | (with_reducible apply Kept.ofTriple (by with_reducible assumption)) | (with_reducible apply Kept.ofSome (by with_reducible assumption)) | (with_reducible apply Kept.foldl) | (with_reducible apply Kept.foldlPair) | (with_reducible apply KeptO.map) | (with_reducible apply KeptO.getD) | (with_reducible apply KeptO.some) | (with_reducible apply KeptO.none) | (extract_lets +onlyGivenNames z; refine (fun (_hz : Kept b0 z) => ?_) ?_; clear_value z) | (extract_lets +onlyGivenNames z; refine (fun (_hz : Kept b0 z.2) => ?_) ?_; clear_value z) | (extract_lets +onlyGivenNames z; refine (fun (_hz : Kept b0 z.2.2) => ?_) ?_; clear_value z) | (extract_lets +onlyGivenNames z) | split | (with_reducible apply_assumption) | (simp -zeta only [State.asUpd]) | (dsimp -zeta +zetaDelta only) | (apply Kept.ite)

theorem State.dropLine_kept {b0 s : State} (line : Nat)  (h : Kept b0 s) : Kept b0 (State.dropLine s line) := by
  unfold State.dropLine
  try simp -zeta only [State.asUpd]
  repeat' first | (with_reducible assumption) | (with_reducible apply Kept.upd)  | (with_reducible apply State.writeBack_kept) | (with_reducible rfl) | (refine Kept.reglSame (s := ?_) (g := ?_) ?_ (by with_reducible rfl) (by with_reducible rfl)) | (intro; try dsimp -zeta only) | (with_reducible apply Kept.ite) | (dsimp -zeta only) | (with_reducible apply Kept.ofPair (by with_reducible assumption)) | (with_reducible apply Kept.ofTriple (by with_reducible assumption)) | (with_reducible apply Kept.ofSome (by with_reducible assumption)) | (with_reducible apply Kept.foldl) | (with_reducible apply Kept.foldlPair) | (with_reducible apply KeptO.map) | (with_reducible apply KeptO.getD) | (with_reducible apply KeptO.some) | (with_reducible apply KeptO.none) | (extract_lets +onlyGivenNames z; refine (fun (_hz : Kept b0 z) => ?_) ?_; clear_value z) | (extract_lets +onlyGivenNames z; refine (fun (_hz : Kept b0 z.2) => ?_) ?_; clear_value z) | (extract_lets +onlyGivenNames z; refine (fun (_hz : Kept b0 z.2.2) => ?_) ?_; clear_value z) | (extract_lets +onlyGivenNames z) | split | (with_reducible apply_assumption) | (simp -zeta only [State.asUpd]) | (dsimp -zeta +zetaDelta only) | (apply Kept.ite)

theorem State.cacheRoom_kept {b0 s : State}   (h : Kept b0 s) : Kept b0 (State.cacheRoom s) := by
  unfold State.cacheRoom
  try simp -zeta only [State.asUpd]
  repeat' first | (with_reducible assumption) | (with_reducible apply Kept.upd)  | (with_reducible apply State.dropLine_kept) | (with_reducible apply State.hostReq_kept) | (with_reducible rfl) | (refine Kept.reglSame (s := ?_) (g := ?_) ?_ (by with_reducible rfl) (by with_reducible rfl)) | (intro; try dsimp -zeta only) | (with_reducible apply Kept.ite) | (dsimp -zeta only) | (with_reducible apply Kept.ofPair (by with_reducible assumption)) | (with_reducible apply Kept.ofTriple (by with_reducible assumption)) | (with_reducible apply Kept.ofSome (by with_reducible assumption)) | (with_reducible apply Kept.foldl) | (with_reducible apply Kept.foldlPair) | (with_reducible apply KeptO.map) | (with_reducible apply KeptO.getD) | (with_reducible apply KeptO.some) | (with_reducible apply KeptO.none) | (extract_lets +onlyGivenNames z; refine (fun (_hz : Kept b0 z) => ?_) ?_; clear_value z) | (extract_lets +onlyGivenNames z; refine (fun (_hz : Kept b0 z.2) => ?_) ?_; clear_value z) | (extract_lets +onlyGivenNames z; refine (fun (_hz : Kept b0 z.2.2) => ?_) ?_; clear_value z) | (extract_lets +onlyGivenNames z) | split | (with_reducible apply_assumption) | (simp -zeta only [State.asUpd]) | (dsimp -zeta +zetaDelta only) | (apply Kept.ite)

theorem State.cachePut_kept {b0 s : State} (k : ReqKind) (a : Nat) (bs : Bytes) (dirty : Bool) (t_5 : Option Nat)  (h : Kept b0 s) : Kept b0 (State.cachePut s k a bs dirty t_5) := by
  unfold State.cachePut
  try simp -zeta only [State.asUpd]
  repeat' first | (with_reducible assumption) | (with_reducible apply Kept.upd)  | (with_reducible apply State.cacheRoom_kept) | (with_reducible apply State.hostReq_kept) | (with_reducible rfl) | (refine Kept.reglSame (s := ?_) (g := ?_) ?_ (by with_reducible rfl) (by with_reducible rfl)) | (intro; try dsimp -zeta only) | (with_reducible apply Kept.ite) | (dsimp -zeta only) | (with_reducible apply Kept.ofPair (by with_reducible assumption)) | (with_reducible apply Kept.ofTriple (by with_reducible assumption)) | (with_reducible apply Kept.ofSome (by with_reducible assumption)) | (with_reducible apply Kept.foldl) | (with_reducible apply Kept.foldlPair) | (with_reducible apply KeptO.map) | (with_reducible apply KeptO.getD) | (with_reducible apply KeptO.some) | (with_reducible apply KeptO.none) | (extract_lets +onlyGivenNames z; refine (fun (_hz : Kept b0 z) => ?_) ?_; clear_value z) | (extract_lets +onlyGivenNames z; refine (fun (_hz : Kept b0 z.2) => ?_) ?_; clear_value z) | (extract_lets +onlyGivenNames z; refine (fun (_hz : Kept b0 z.2.2) => ?_) ?_; clear_value z) | (extract_lets +onlyGivenNames z) | split | (with_reducible apply_assumption) | (simp -zeta only [State.asUpd]) | (dsimp -zeta +zetaDelta only) | (apply Kept.ite)

theorem State.setRing_kept {b0 s : State} (r : Nat) (x : Ring)  (h : Kept b0 s) : Kept b0 (State.setRing s r x) := by
  unfold State.setRing
  try simp -zeta only [State.asUpd]
  repeat' first | (with_reducible assumption) | (with_reducible apply Kept.upd)   | (with_reducible rfl) | (refine Kept.reglSame (s := ?_) (g := ?_) ?_ (by with_reducible rfl) (by with_reducible rfl)) | (intro; try dsimp -zeta only) | (with_reducible apply Kept.ite) | (dsimp -zeta only) | (with_reducible apply Kept.ofPair (by with_reducible assumption)) | (with_reducible apply Kept.ofTriple (by with_reducible assumption)) | (with_reducible apply Kept.ofSome (by with_reducible assumption)) | (with_reducible apply Kept.foldl) | (with_reducible apply Kept.foldlPair) | (with_reducible apply KeptO.map) | (with_reducible apply KeptO.getD) | (with_reducible apply KeptO.some) | (with_reducible apply KeptO.none) | (extract_lets +onlyGivenNames z; refine (fun (_hz : Kept b0 z) => ?_) ?_; clear_value z) | (extract_lets +onlyGivenNames z; refine (fun (_hz : Kept b0 z.2) => ?_) ?_; clear_value z) | (extract_lets +onlyGivenNames z; refine (fun (_hz : Kept b0 z.2.2) => ?_) ?_; clear_value z) | (extract_lets +onlyGivenNames z) | split | (with_reducible apply_assumption) | (simp -zeta only [State.asUpd]) | (dsimp -zeta +zetaDelta only) | (apply Kept.ite)

theorem State.mergeItem_kept {b0 s : State} (a : Nat) (bs : Bytes) (t_3 : Option Nat)  (h : Kept b0 s) : Kept b0 (State.mergeItem s a bs t_3) := by
  unfold State.mergeItem
  try simp -zeta only [State.asUpd]
  repeat' first | (with_reducible assumption) | (with_reducible apply Kept.upd)  | (with_reducible apply State.cachePut_kept) | (with_reducible apply State.hostPut_kept) | (with_reducible rfl) | (refine Kept.reglSame (s := ?_) (g := ?_) ?_ (by with_reducible rfl) (by with_reducible rfl)) | (intro; try dsimp -zeta only) | (with_reducible apply Kept.ite) | (dsimp -zeta only) | (with_reducible apply Kept.ofPair (by with_reducible assumption)) | (with_reducible apply Kept.ofTriple (by with_reducible assumption)) | (with_reducible apply Kept.ofSome (by with_reducible assumption)) | (with_reducible apply Kept.foldl) | (with_reducible apply Kept.foldlPair) | (with_reducible apply KeptO.map) | (with_reducible apply KeptO.getD) | (with_reducible apply KeptO.some) | (with_reducible apply KeptO.none) | (extract_lets +onlyGivenNames z; refine (fun (_hz : Kept b0 z) => ?_) ?_; clear_value z) | (extract_lets +onlyGivenNames z; refine (fun (_hz : Kept b0 z.2) => ?_) ?_; clear_value z) | (extract_lets +onlyGivenNames z; refine (fun (_hz : Kept b0 z.2.2) => ?_) ?_; clear_value z) | (extract_lets +onlyGivenNames z) | split | (with_reducible apply_assumption) | (simp -zeta only [State.asUpd]) | (dsimp -zeta +zetaDelta only) | (apply Kept.ite)

theorem State.wholeLine_kept {b0 s : State} (a : Nat) (bs : Bytes) (t_3 : Option Nat)  (h : Kept b0 s) : Kept b0 (State.wholeLine s a bs t_3) := by
  unfold State.wholeLine
  try simp -zeta only [State.asUpd]
  repeat' first | (with_reducible assumption) | (with_reducible apply Kept.upd)  | (with_reducible apply State.hostPut_kept) | (with_reducible rfl) | (refine Kept.reglSame (s := ?_) (g := ?_) ?_ (by with_reducible rfl) (by with_reducible rfl)) | (intro; try dsimp -zeta only) | (with_reducible apply Kept.ite) | (dsimp -zeta only) | (with_reducible apply Kept.ofPair (by with_reducible assumption)) | (with_reducible apply Kept.ofTriple (by with_reducible assumption)) | (with_reducible apply Kept.ofSome (by with_reducible assumption)) | (with_reducible apply Kept.foldl) | (with_reducible apply Kept.foldlPair) | (with_reducible apply KeptO.map) | (with_reducible apply KeptO.getD) | (with_reducible apply KeptO.some) | (with_reducible apply KeptO.none) | (extract_lets +onlyGivenNames z; refine (fun (_hz : Kept b0 z) => ?_) ?_; clear_value z) | (extract_lets +onlyGivenNames z; refine (fun (_hz : Kept b0 z.2) => ?_) ?_; clear_value z) | (extract_lets +onlyGivenNames z; refine (fun (_hz : Kept b0 z.2.2) => ?_) ?_; clear_value z) | (extract_lets +onlyGivenNames z) | split | (with_reducible apply_assumption) | (simp -zeta only [State.asUpd]) | (dsimp -zeta +zetaDelta only) | (apply Kept.ite)

theorem State.putCoherent_kept {b0 s : State} (r : Nat) (x : Ring) (y3 : Nat) (y4 : List (Nat → Bytes))  (h : Kept b0 s) : Kept b0 (State.putCoherent s r x y3 y4) := by
  fun_induction State.putCoherent s r x y3 y4 <;> try simp -zeta only [State.asUpd]
  all_goals repeat' first | (with_reducible assumption) | (with_reducible apply Kept.upd)  | (with_reducible apply State.mergeItem_kept) | (with_reducible apply State.wholeLine_kept) | (with_reducible rfl) | (refine Kept.reglSame (s := ?_) (g := ?_) ?_ (by with_reducible rfl) (by with_reducible rfl)) | (intro; try dsimp -zeta only) | (with_reducible apply Kept.ite) | (dsimp -zeta only) | (with_reducible apply Kept.ofPair (by with_reducible assumption)) | (with_reducible apply Kept.ofTriple (by with_reducible assumption)) | (with_reducible apply Kept.ofSome (by with_reducible assumption)) | (with_reducible apply Kept.foldl) | (with_reducible apply Kept.foldlPair) | (with_reducible apply KeptO.map) | (with_reducible apply KeptO.getD) | (with_reducible apply KeptO.some) | (with_reducible apply KeptO.none) | (extract_lets +onlyGivenNames z; refine (fun (_hz : Kept b0 z) => ?_) ?_; clear_value z) | (extract_lets +onlyGivenNames z; refine (fun (_hz : Kept b0 z.2) => ?_) ?_; clear_value z) | (extract_lets +onlyGivenNames z; refine (fun (_hz : Kept b0 z.2.2) => ?_) ?_; clear_value z) | (extract_lets +onlyGivenNames z) | split | (with_reducible apply_assumption) | (simp -zeta only [State.asUpd]) | (dsimp -zeta +zetaDelta only) | (apply Kept.ite)

theorem State.putItems_kept {b0 s : State} (r : Nat) (x : Ring) (y3 : Nat) (y4 : List (Nat → Bytes))  (h : Kept b0 s) : Kept b0 (State.putItems s r x y3 y4) := by
  fun_induction State.putItems s r x y3 y4 <;> try simp -zeta only [State.asUpd]
  all_goals repeat' first | (with_reducible assumption) | (with_reducible apply Kept.upd)  | (with_reducible apply State.spaceWrite_kept) | (with_reducible rfl) | (refine Kept.reglSame (s := ?_) (g := ?_) ?_ (by with_reducible rfl) (by with_reducible rfl)) | (intro; try dsimp -zeta only) | (with_reducible apply Kept.ite) | (dsimp -zeta only) | (with_reducible apply Kept.ofPair (by with_reducible assumption)) | (with_reducible apply Kept.ofTriple (by with_reducible assumption)) | (with_reducible apply Kept.ofSome (by with_reducible assumption)) | (with_reducible apply Kept.foldl) | (with_reducible apply Kept.foldlPair) | (with_reducible apply KeptO.map) | (with_reducible apply KeptO.getD) | (with_reducible apply KeptO.some) | (with_reducible apply KeptO.none) | (extract_lets +onlyGivenNames z; refine (fun (_hz : Kept b0 z) => ?_) ?_; clear_value z) | (extract_lets +onlyGivenNames z; refine (fun (_hz : Kept b0 z.2) => ?_) ?_; clear_value z) | (extract_lets +onlyGivenNames z; refine (fun (_hz : Kept b0 z.2.2) => ?_) ?_; clear_value z) | (extract_lets +onlyGivenNames z) | split | (with_reducible apply_assumption) | (simp -zeta only [State.asUpd]) | (dsimp -zeta +zetaDelta only) | (apply Kept.ite)

theorem State.recordAt_kept {b0 s : State} (r : Nat) (cls : Nat) (items : List (Nat → Bytes))  (h : Kept b0 s) : Kept b0 (State.recordAt s r cls items) := by
  unfold State.recordAt
  try simp -zeta only [State.asUpd]
  repeat' first | (with_reducible assumption) | (with_reducible apply Kept.upd)  | (with_reducible apply State.setRing_kept) | (with_reducible apply State.putCoherent_kept) | (with_reducible apply State.putItems_kept) | (with_reducible rfl) | (refine Kept.reglSame (s := ?_) (g := ?_) ?_ (by with_reducible rfl) (by with_reducible rfl)) | (intro; try dsimp -zeta only) | (with_reducible apply Kept.ite) | (dsimp -zeta only) | (with_reducible apply Kept.ofPair (by with_reducible assumption)) | (with_reducible apply Kept.ofTriple (by with_reducible assumption)) | (with_reducible apply Kept.ofSome (by with_reducible assumption)) | (with_reducible apply Kept.foldl) | (with_reducible apply Kept.foldlPair) | (with_reducible apply KeptO.map) | (with_reducible apply KeptO.getD) | (with_reducible apply KeptO.some) | (with_reducible apply KeptO.none) | (extract_lets +onlyGivenNames z; refine (fun (_hz : Kept b0 z) => ?_) ?_; clear_value z) | (extract_lets +onlyGivenNames z; refine (fun (_hz : Kept b0 z.2) => ?_) ?_; clear_value z) | (extract_lets +onlyGivenNames z; refine (fun (_hz : Kept b0 z.2.2) => ?_) ?_; clear_value z) | (extract_lets +onlyGivenNames z) | split | (with_reducible apply_assumption) | (simp -zeta only [State.asUpd]) | (dsimp -zeta +zetaDelta only) | (apply Kept.ite)

theorem State.loseEvent_kept {b0 s : State} (r : Nat)  (h : Kept b0 s) : Kept b0 (State.loseEvent s r) := by
  unfold State.loseEvent
  try simp -zeta only [State.asUpd]
  repeat' first | (with_reducible assumption) | (with_reducible apply Kept.upd)  | (with_reducible apply State.setRing_kept) | (with_reducible rfl) | (refine Kept.reglSame (s := ?_) (g := ?_) ?_ (by with_reducible rfl) (by with_reducible rfl)) | (intro; try dsimp -zeta only) | (with_reducible apply Kept.ite) | (dsimp -zeta only) | (with_reducible apply Kept.ofPair (by with_reducible assumption)) | (with_reducible apply Kept.ofTriple (by with_reducible assumption)) | (with_reducible apply Kept.ofSome (by with_reducible assumption)) | (with_reducible apply Kept.foldl) | (with_reducible apply Kept.foldlPair) | (with_reducible apply KeptO.map) | (with_reducible apply KeptO.getD) | (with_reducible apply KeptO.some) | (with_reducible apply KeptO.none) | (extract_lets +onlyGivenNames z; refine (fun (_hz : Kept b0 z) => ?_) ?_; clear_value z) | (extract_lets +onlyGivenNames z; refine (fun (_hz : Kept b0 z.2) => ?_) ?_; clear_value z) | (extract_lets +onlyGivenNames z; refine (fun (_hz : Kept b0 z.2.2) => ?_) ?_; clear_value z) | (extract_lets +onlyGivenNames z) | split | (with_reducible apply_assumption) | (simp -zeta only [State.asUpd]) | (dsimp -zeta +zetaDelta only) | (apply Kept.ite)

theorem State.recordN_kept {b0 s : State} (r : Nat) (cls : Nat) (items : List (Nat → Bytes)) (y4 : Nat)  (h : Kept b0 s) : Kept b0 (State.recordN s r cls items y4) := by
  fun_induction State.recordN s r cls items y4 <;> try simp -zeta only [State.asUpd]
  all_goals repeat' first | (with_reducible assumption) | (with_reducible apply Kept.upd)  | (with_reducible apply State.recordAt_kept) | (with_reducible apply State.takeInject_kept) | (with_reducible apply State.setRing_kept) | (with_reducible apply State.loseEvent_kept) | (with_reducible apply State.latch_kept) | (with_reducible rfl) | (refine Kept.reglSame (s := ?_) (g := ?_) ?_ (by with_reducible rfl) (by with_reducible rfl)) | (intro; try dsimp -zeta only) | (with_reducible apply Kept.ite) | (dsimp -zeta only) | (with_reducible apply Kept.ofPair (by with_reducible assumption)) | (with_reducible apply Kept.ofTriple (by with_reducible assumption)) | (with_reducible apply Kept.ofSome (by with_reducible assumption)) | (with_reducible apply Kept.foldl) | (with_reducible apply Kept.foldlPair) | (with_reducible apply KeptO.map) | (with_reducible apply KeptO.getD) | (with_reducible apply KeptO.some) | (with_reducible apply KeptO.none) | (extract_lets +onlyGivenNames z; refine (fun (_hz : Kept b0 z) => ?_) ?_; clear_value z) | (extract_lets +onlyGivenNames z; refine (fun (_hz : Kept b0 z.2) => ?_) ?_; clear_value z) | (extract_lets +onlyGivenNames z; refine (fun (_hz : Kept b0 z.2.2) => ?_) ?_; clear_value z) | (extract_lets +onlyGivenNames z) | split | (with_reducible apply_assumption) | (simp -zeta only [State.asUpd]) | (dsimp -zeta +zetaDelta only) | (apply Kept.ite)

theorem State.record_kept {b0 s : State} (r : Nat) (cls : Nat) (items : List (Nat → Bytes))  (h : Kept b0 s) : Kept b0 (State.record s r cls items) := by
  unfold State.record
  try simp -zeta only [State.asUpd]
  repeat' first | (with_reducible assumption) | (with_reducible apply Kept.upd)  | (with_reducible apply State.recordN_kept) | (with_reducible rfl) | (refine Kept.reglSame (s := ?_) (g := ?_) ?_ (by with_reducible rfl) (by with_reducible rfl)) | (intro; try dsimp -zeta only) | (with_reducible apply Kept.ite) | (dsimp -zeta only) | (with_reducible apply Kept.ofPair (by with_reducible assumption)) | (with_reducible apply Kept.ofTriple (by with_reducible assumption)) | (with_reducible apply Kept.ofSome (by with_reducible assumption)) | (with_reducible apply Kept.foldl) | (with_reducible apply Kept.foldlPair) | (with_reducible apply KeptO.map) | (with_reducible apply KeptO.getD) | (with_reducible apply KeptO.some) | (with_reducible apply KeptO.none) | (extract_lets +onlyGivenNames z; refine (fun (_hz : Kept b0 z) => ?_) ?_; clear_value z) | (extract_lets +onlyGivenNames z; refine (fun (_hz : Kept b0 z.2) => ?_) ?_; clear_value z) | (extract_lets +onlyGivenNames z; refine (fun (_hz : Kept b0 z.2.2) => ?_) ?_; clear_value z) | (extract_lets +onlyGivenNames z) | split | (with_reducible apply_assumption) | (simp -zeta only [State.asUpd]) | (dsimp -zeta +zetaDelta only) | (apply Kept.ite)

theorem State.eventTo_kept {b0 s : State} (r : Nat) (en : Bool) (code : Nat) (blk : Nat) (source : Nat) (args : List Nat)  (h : Kept b0 s) : Kept b0 (State.eventTo s r en code blk source args) := by
  unfold State.eventTo
  try simp -zeta only [State.asUpd]
  repeat' first | (with_reducible assumption) | (with_reducible apply Kept.upd)  | (with_reducible apply State.record_kept) | (with_reducible apply State.loseEvent_kept) | (with_reducible rfl) | (refine Kept.reglSame (s := ?_) (g := ?_) ?_ (by with_reducible rfl) (by with_reducible rfl)) | (intro; try dsimp -zeta only) | (with_reducible apply Kept.ite) | (dsimp -zeta only) | (with_reducible apply Kept.ofPair (by with_reducible assumption)) | (with_reducible apply Kept.ofTriple (by with_reducible assumption)) | (with_reducible apply Kept.ofSome (by with_reducible assumption)) | (with_reducible apply Kept.foldl) | (with_reducible apply Kept.foldlPair) | (with_reducible apply KeptO.map) | (with_reducible apply KeptO.getD) | (with_reducible apply KeptO.some) | (with_reducible apply KeptO.none) | (extract_lets +onlyGivenNames z; refine (fun (_hz : Kept b0 z) => ?_) ?_; clear_value z) | (extract_lets +onlyGivenNames z; refine (fun (_hz : Kept b0 z.2) => ?_) ?_; clear_value z) | (extract_lets +onlyGivenNames z; refine (fun (_hz : Kept b0 z.2.2) => ?_) ?_; clear_value z) | (extract_lets +onlyGivenNames z) | split | (with_reducible apply_assumption) | (simp -zeta only [State.asUpd]) | (dsimp -zeta +zetaDelta only) | (apply Kept.ite)

theorem State.event_kept {b0 s : State} (ring : Fld) (en : Fld) (code : Nat) (blk : Nat) (source : Nat) (args : List Nat)  (h : Kept b0 s) : Kept b0 (State.event s ring en code blk source args) := by
  unfold State.event
  try simp -zeta only [State.asUpd]
  repeat' first | (with_reducible assumption) | (with_reducible apply Kept.upd)  | (with_reducible apply State.eventTo_kept) | (with_reducible rfl) | (refine Kept.reglSame (s := ?_) (g := ?_) ?_ (by with_reducible rfl) (by with_reducible rfl)) | (intro; try dsimp -zeta only) | (with_reducible apply Kept.ite) | (dsimp -zeta only) | (with_reducible apply Kept.ofPair (by with_reducible assumption)) | (with_reducible apply Kept.ofTriple (by with_reducible assumption)) | (with_reducible apply Kept.ofSome (by with_reducible assumption)) | (with_reducible apply Kept.foldl) | (with_reducible apply Kept.foldlPair) | (with_reducible apply KeptO.map) | (with_reducible apply KeptO.getD) | (with_reducible apply KeptO.some) | (with_reducible apply KeptO.none) | (extract_lets +onlyGivenNames z; refine (fun (_hz : Kept b0 z) => ?_) ?_; clear_value z) | (extract_lets +onlyGivenNames z; refine (fun (_hz : Kept b0 z.2) => ?_) ?_; clear_value z) | (extract_lets +onlyGivenNames z; refine (fun (_hz : Kept b0 z.2.2) => ?_) ?_; clear_value z) | (extract_lets +onlyGivenNames z) | split | (with_reducible apply_assumption) | (simp -zeta only [State.asUpd]) | (dsimp -zeta +zetaDelta only) | (apply Kept.ite)

theorem State.ringEvent_kept {b0 s : State} (r : Nat) (code : Nat) (args : List Nat)  (h : Kept b0 s) : Kept b0 (State.ringEvent s r code args) := by
  unfold State.ringEvent
  try simp -zeta only [State.asUpd]
  repeat' first | (with_reducible assumption) | (with_reducible apply Kept.upd)  | (with_reducible apply State.eventTo_kept) | (with_reducible rfl) | (refine Kept.reglSame (s := ?_) (g := ?_) ?_ (by with_reducible rfl) (by with_reducible rfl)) | (intro; try dsimp -zeta only) | (with_reducible apply Kept.ite) | (dsimp -zeta only) | (with_reducible apply Kept.ofPair (by with_reducible assumption)) | (with_reducible apply Kept.ofTriple (by with_reducible assumption)) | (with_reducible apply Kept.ofSome (by with_reducible assumption)) | (with_reducible apply Kept.foldl) | (with_reducible apply Kept.foldlPair) | (with_reducible apply KeptO.map) | (with_reducible apply KeptO.getD) | (with_reducible apply KeptO.some) | (with_reducible apply KeptO.none) | (extract_lets +onlyGivenNames z; refine (fun (_hz : Kept b0 z) => ?_) ?_; clear_value z) | (extract_lets +onlyGivenNames z; refine (fun (_hz : Kept b0 z.2) => ?_) ?_; clear_value z) | (extract_lets +onlyGivenNames z; refine (fun (_hz : Kept b0 z.2.2) => ?_) ?_; clear_value z) | (extract_lets +onlyGivenNames z) | split | (with_reducible apply_assumption) | (simp -zeta only [State.asUpd]) | (dsimp -zeta +zetaDelta only) | (apply Kept.ite)

theorem State.streamEvent_kept {b0 s : State} (st : Nat) (blk : Nat) (code : Nat) (args : List Nat)  (h : Kept b0 s) : Kept b0 (State.streamEvent s st blk code args) := by
  unfold State.streamEvent
  try simp -zeta only [State.asUpd]
  repeat' first | (with_reducible assumption) | (with_reducible apply Kept.upd)  | (with_reducible apply State.eventTo_kept) | (with_reducible rfl) | (refine Kept.reglSame (s := ?_) (g := ?_) ?_ (by with_reducible rfl) (by with_reducible rfl)) | (intro; try dsimp -zeta only) | (with_reducible apply Kept.ite) | (dsimp -zeta only) | (with_reducible apply Kept.ofPair (by with_reducible assumption)) | (with_reducible apply Kept.ofTriple (by with_reducible assumption)) | (with_reducible apply Kept.ofSome (by with_reducible assumption)) | (with_reducible apply Kept.foldl) | (with_reducible apply Kept.foldlPair) | (with_reducible apply KeptO.map) | (with_reducible apply KeptO.getD) | (with_reducible apply KeptO.some) | (with_reducible apply KeptO.none) | (extract_lets +onlyGivenNames z; refine (fun (_hz : Kept b0 z) => ?_) ?_; clear_value z) | (extract_lets +onlyGivenNames z; refine (fun (_hz : Kept b0 z.2) => ?_) ?_; clear_value z) | (extract_lets +onlyGivenNames z; refine (fun (_hz : Kept b0 z.2.2) => ?_) ?_; clear_value z) | (extract_lets +onlyGivenNames z) | split | (with_reducible apply_assumption) | (simp -zeta only [State.asUpd]) | (dsimp -zeta +zetaDelta only) | (apply Kept.ite)

theorem State.completion_kept {b0 s : State} (ring : Nat) (index : Nat) (tag : Nat) (abi : Nat) (status : Nat) (r0 : Nat) (r1 : Nat) (r2 : Nat) (r3 : Nat)  (h : Kept b0 s) : Kept b0 (State.completion s ring index tag abi status r0 r1 r2 r3) := by
  unfold State.completion
  try simp -zeta only [State.asUpd]
  repeat' first | (with_reducible assumption) | (with_reducible apply Kept.upd)  | (with_reducible apply State.record_kept) | (with_reducible rfl) | (refine Kept.reglSame (s := ?_) (g := ?_) ?_ (by with_reducible rfl) (by with_reducible rfl)) | (intro; try dsimp -zeta only) | (with_reducible apply Kept.ite) | (dsimp -zeta only) | (with_reducible apply Kept.ofPair (by with_reducible assumption)) | (with_reducible apply Kept.ofTriple (by with_reducible assumption)) | (with_reducible apply Kept.ofSome (by with_reducible assumption)) | (with_reducible apply Kept.foldl) | (with_reducible apply Kept.foldlPair) | (with_reducible apply KeptO.map) | (with_reducible apply KeptO.getD) | (with_reducible apply KeptO.some) | (with_reducible apply KeptO.none) | (extract_lets +onlyGivenNames z; refine (fun (_hz : Kept b0 z) => ?_) ?_; clear_value z) | (extract_lets +onlyGivenNames z; refine (fun (_hz : Kept b0 z.2) => ?_) ?_; clear_value z) | (extract_lets +onlyGivenNames z; refine (fun (_hz : Kept b0 z.2.2) => ?_) ?_; clear_value z) | (extract_lets +onlyGivenNames z) | split | (with_reducible apply_assumption) | (simp -zeta only [State.asUpd]) | (dsimp -zeta +zetaDelta only) | (apply Kept.ite)

theorem State.finish_kept {b0 s : State} (j : Nat) (status : Nat) (r0 : optParam Nat 0) (r1 : optParam Nat 0) (r2 : optParam Nat 0) (r3 : optParam Nat 0)  (h : Kept b0 s) : Kept b0 (State.finish s j status r0 r1 r2 r3) := by
  unfold State.finish
  try simp -zeta only [State.asUpd]
  repeat' first | (with_reducible assumption) | (with_reducible apply Kept.upd)  | (with_reducible apply State.completion_kept) | (with_reducible rfl) | (refine Kept.reglSame (s := ?_) (g := ?_) ?_ (by with_reducible rfl) (by with_reducible rfl)) | (intro; try dsimp -zeta only) | (with_reducible apply Kept.ite) | (dsimp -zeta only) | (with_reducible apply Kept.ofPair (by with_reducible assumption)) | (with_reducible apply Kept.ofTriple (by with_reducible assumption)) | (with_reducible apply Kept.ofSome (by with_reducible assumption)) | (with_reducible apply Kept.foldl) | (with_reducible apply Kept.foldlPair) | (with_reducible apply KeptO.map) | (with_reducible apply KeptO.getD) | (with_reducible apply KeptO.some) | (with_reducible apply KeptO.none) | (extract_lets +onlyGivenNames z; refine (fun (_hz : Kept b0 z) => ?_) ?_; clear_value z) | (extract_lets +onlyGivenNames z; refine (fun (_hz : Kept b0 z.2) => ?_) ?_; clear_value z) | (extract_lets +onlyGivenNames z; refine (fun (_hz : Kept b0 z.2.2) => ?_) ?_; clear_value z) | (extract_lets +onlyGivenNames z) | split | (with_reducible apply_assumption) | (simp -zeta only [State.asUpd]) | (dsimp -zeta +zetaDelta only) | (apply Kept.ite)

theorem State.start_kept {b0 s : State} (j : Nat) (work : optParam Nat 0)  (h : Kept b0 s) : Kept b0 (State.start s j work) := by
  unfold State.start
  try simp -zeta only [State.asUpd]
  repeat' first | (with_reducible assumption) | (with_reducible apply Kept.upd)   | (with_reducible rfl) | (refine Kept.reglSame (s := ?_) (g := ?_) ?_ (by with_reducible rfl) (by with_reducible rfl)) | (intro; try dsimp -zeta only) | (with_reducible apply Kept.ite) | (dsimp -zeta only) | (with_reducible apply Kept.ofPair (by with_reducible assumption)) | (with_reducible apply Kept.ofTriple (by with_reducible assumption)) | (with_reducible apply Kept.ofSome (by with_reducible assumption)) | (with_reducible apply Kept.foldl) | (with_reducible apply Kept.foldlPair) | (with_reducible apply KeptO.map) | (with_reducible apply KeptO.getD) | (with_reducible apply KeptO.some) | (with_reducible apply KeptO.none) | (extract_lets +onlyGivenNames z; refine (fun (_hz : Kept b0 z) => ?_) ?_; clear_value z) | (extract_lets +onlyGivenNames z; refine (fun (_hz : Kept b0 z.2) => ?_) ?_; clear_value z) | (extract_lets +onlyGivenNames z; refine (fun (_hz : Kept b0 z.2.2) => ?_) ?_; clear_value z) | (extract_lets +onlyGivenNames z) | split | (with_reducible apply_assumption) | (simp -zeta only [State.asUpd]) | (dsimp -zeta +zetaDelta only) | (apply Kept.ite)

end Sys2Proof.Machine
end

