-- ==== Sys2Proof/Laws/KeepFaultOps.lean ====
section
/-! SUPPORT. What every operation of Machine/FaultOps.lean keeps (`Kept`): the variant, the queue, and the canonical form of the
memories. -/

set_option Elab.async false
set_option linter.all false

namespace Sys2Proof.Machine

theorem State.absentPage_kept {b0 s : State} (page : Nat)  (h : Kept b0 s) : Kept b0 (State.absentPage s page) := by
  unfold State.absentPage
  try simp -zeta only [State.asUpd]
  repeat' first | (with_reducible assumption) | (with_reducible apply Kept.upd)  | (with_reducible apply State.latch_kept) | (with_reducible rfl) | (refine Kept.reglSame (s := ?_) (g := ?_) ?_ (by with_reducible rfl) (by with_reducible rfl)) | (intro; try dsimp -zeta only) | (with_reducible apply Kept.ite) | (dsimp -zeta only) | (with_reducible apply Kept.ofPair (by with_reducible assumption)) | (with_reducible apply Kept.ofTriple (by with_reducible assumption)) | (with_reducible apply Kept.ofSome (by with_reducible assumption)) | (with_reducible apply Kept.foldl) | (with_reducible apply Kept.foldlPair) | (with_reducible apply KeptO.map) | (with_reducible apply KeptO.getD) | (with_reducible apply KeptO.some) | (with_reducible apply KeptO.none) | (extract_lets +onlyGivenNames z; refine (fun (_hz : Kept b0 z) => ?_) ?_; clear_value z) | (extract_lets +onlyGivenNames z; refine (fun (_hz : Kept b0 z.2) => ?_) ?_; clear_value z) | (extract_lets +onlyGivenNames z; refine (fun (_hz : Kept b0 z.2.2) => ?_) ?_; clear_value z) | (extract_lets +onlyGivenNames z) | split | (with_reducible apply_assumption) | (simp -zeta only [State.asUpd]) | (dsimp -zeta +zetaDelta only) | (apply Kept.ite)

theorem execFaultNPulseEnd_kept (s : State) : KeptOut s (execFaultNPulseEnd s) := by
  unfold execFaultNPulseEnd
  try simp -zeta only [State.asUpd]
  repeat' first | (with_reducible assumption) | (with_reducible exact Kept.refl _) | (with_reducible apply KeptOut.run; try dsimp -zeta only) | (with_reducible apply KeptOut.next) | (with_reducible apply Kept.upd)  | (with_reducible apply State.run_kept) | (with_reducible rfl) | (refine Kept.reglSame (s := ?_) (g := ?_) ?_ (by with_reducible rfl) (by with_reducible rfl)) | (intro; try dsimp -zeta only) | (with_reducible apply Kept.ite) | (dsimp -zeta only) | (with_reducible apply Kept.ofPair (by with_reducible assumption)) | (with_reducible apply Kept.ofTriple (by with_reducible assumption)) | (with_reducible apply Kept.ofSome (by with_reducible assumption)) | (with_reducible apply Kept.foldl) | (with_reducible apply Kept.foldlPair) | (with_reducible apply KeptO.map) | (with_reducible apply KeptO.getD) | (with_reducible apply KeptO.some) | (with_reducible apply KeptO.none) | (extract_lets +onlyGivenNames z; refine (fun (_hz : Kept s z) => ?_) ?_; clear_value z) | (extract_lets +onlyGivenNames z; refine (fun (_hz : Kept s z.2) => ?_) ?_; clear_value z) | (extract_lets +onlyGivenNames z; refine (fun (_hz : Kept s z.2.2) => ?_) ?_; clear_value z) | (extract_lets +onlyGivenNames z) | split | (with_reducible apply_assumption) | (simp -zeta only [State.asUpd]) | (dsimp -zeta +zetaDelta only) | (apply Kept.ite)

theorem State.relatch_kept {b0 s : State} (blk : Nat) (inst : Nat) (mask : Nat) (y4 : List Nat)  (h : Kept b0 s) : Kept b0 (State.relatch s blk inst mask y4) := by
  fun_induction State.relatch s blk inst mask y4 <;> try simp -zeta only [State.asUpd]
  all_goals repeat' first | (with_reducible assumption) | (with_reducible apply Kept.upd)  | (with_reducible apply State.latch_kept) | (with_reducible rfl) | (refine Kept.reglSame (s := ?_) (g := ?_) ?_ (by with_reducible rfl) (by with_reducible rfl)) | (intro; try dsimp -zeta only) | (with_reducible apply Kept.ite) | (dsimp -zeta only) | (with_reducible apply Kept.ofPair (by with_reducible assumption)) | (with_reducible apply Kept.ofTriple (by with_reducible assumption)) | (with_reducible apply Kept.ofSome (by with_reducible assumption)) | (with_reducible apply Kept.foldl) | (with_reducible apply Kept.foldlPair) | (with_reducible apply KeptO.map) | (with_reducible apply KeptO.getD) | (with_reducible apply KeptO.some) | (with_reducible apply KeptO.none) | (extract_lets +onlyGivenNames z; refine (fun (_hz : Kept b0 z) => ?_) ?_; clear_value z) | (extract_lets +onlyGivenNames z; refine (fun (_hz : Kept b0 z.2) => ?_) ?_; clear_value z) | (extract_lets +onlyGivenNames z; refine (fun (_hz : Kept b0 z.2.2) => ?_) ?_; clear_value z) | (extract_lets +onlyGivenNames z) | split | (with_reducible apply_assumption) | (simp -zeta only [State.asUpd]) | (dsimp -zeta +zetaDelta only) | (apply Kept.ite)

theorem State.stickyW1c_kept {b0 s : State} (blk : Nat) (inst : Nat) (v : Nat)  (h : Kept b0 s) : Kept b0 (State.stickyW1c s blk inst v) := by
  unfold State.stickyW1c
  try simp -zeta only [State.asUpd]
  repeat' first | (with_reducible assumption) | (with_reducible apply Kept.upd)  | (with_reducible apply State.setFld_kept) | (with_reducible apply State.relatch_kept) | (with_reducible rfl) | (refine Kept.reglSame (s := ?_) (g := ?_) ?_ (by with_reducible rfl) (by with_reducible rfl)) | (intro; try dsimp -zeta only) | (with_reducible apply Kept.ite) | (dsimp -zeta only) | (with_reducible apply Kept.ofPair (by with_reducible assumption)) | (with_reducible apply Kept.ofTriple (by with_reducible assumption)) | (with_reducible apply Kept.ofSome (by with_reducible assumption)) | (with_reducible apply Kept.foldl) | (with_reducible apply Kept.foldlPair) | (with_reducible apply KeptO.map) | (with_reducible apply KeptO.getD) | (with_reducible apply KeptO.some) | (with_reducible apply KeptO.none) | (extract_lets +onlyGivenNames z; refine (fun (_hz : Kept b0 z) => ?_) ?_; clear_value z) | (extract_lets +onlyGivenNames z; refine (fun (_hz : Kept b0 z.2) => ?_) ?_; clear_value z) | (extract_lets +onlyGivenNames z; refine (fun (_hz : Kept b0 z.2.2) => ?_) ?_; clear_value z) | (extract_lets +onlyGivenNames z) | split | (with_reducible apply_assumption) | (simp -zeta only [State.asUpd]) | (dsimp -zeta +zetaDelta only) | (apply Kept.ite)

theorem State.disarm_kept {b0 s : State} (blk : Nat)  (h : Kept b0 s) : Kept b0 (State.disarm s blk) := by
  unfold State.disarm
  try simp -zeta only [State.asUpd]
  repeat' first | (with_reducible assumption) | (with_reducible apply Kept.upd)   | (with_reducible rfl) | (refine Kept.reglSame (s := ?_) (g := ?_) ?_ (by with_reducible rfl) (by with_reducible rfl)) | (intro; try dsimp -zeta only) | (with_reducible apply Kept.ite) | (dsimp -zeta only) | (with_reducible apply Kept.ofPair (by with_reducible assumption)) | (with_reducible apply Kept.ofTriple (by with_reducible assumption)) | (with_reducible apply Kept.ofSome (by with_reducible assumption)) | (with_reducible apply Kept.foldl) | (with_reducible apply Kept.foldlPair) | (with_reducible apply KeptO.map) | (with_reducible apply KeptO.getD) | (with_reducible apply KeptO.some) | (with_reducible apply KeptO.none) | (extract_lets +onlyGivenNames z; refine (fun (_hz : Kept b0 z) => ?_) ?_; clear_value z) | (extract_lets +onlyGivenNames z; refine (fun (_hz : Kept b0 z.2) => ?_) ?_; clear_value z) | (extract_lets +onlyGivenNames z; refine (fun (_hz : Kept b0 z.2.2) => ?_) ?_; clear_value z) | (extract_lets +onlyGivenNames z) | split | (with_reducible apply_assumption) | (simp -zeta only [State.asUpd]) | (dsimp -zeta +zetaDelta only) | (apply Kept.ite)

theorem State.underParity_kept {b0 s : State} (blk : Nat) (inst : Nat) (f : State → State) (hf : ∀ z0, Kept b0 z0 → Kept b0 (f z0)) (h : Kept b0 s) : Kept b0 (State.underParity s blk inst f) := by
  unfold State.underParity
  try simp -zeta only [State.asUpd]
  repeat' first | (with_reducible assumption) | (with_reducible apply Kept.upd) | (with_reducible apply hf) | (with_reducible apply State.takeInject_kept) | (with_reducible apply State.latch_kept) | (with_reducible rfl) | (refine Kept.reglSame (s := ?_) (g := ?_) ?_ (by with_reducible rfl) (by with_reducible rfl)) | (intro; try dsimp -zeta only) | (with_reducible apply Kept.ite) | (dsimp -zeta only) | (with_reducible apply Kept.ofPair (by with_reducible assumption)) | (with_reducible apply Kept.ofTriple (by with_reducible assumption)) | (with_reducible apply Kept.ofSome (by with_reducible assumption)) | (with_reducible apply Kept.foldl) | (with_reducible apply Kept.foldlPair) | (with_reducible apply KeptO.map) | (with_reducible apply KeptO.getD) | (with_reducible apply KeptO.some) | (with_reducible apply KeptO.none) | (extract_lets +onlyGivenNames z; refine (fun (_hz : Kept b0 z) => ?_) ?_; clear_value z) | (extract_lets +onlyGivenNames z; refine (fun (_hz : Kept b0 z.2) => ?_) ?_; clear_value z) | (extract_lets +onlyGivenNames z; refine (fun (_hz : Kept b0 z.2.2) => ?_) ?_; clear_value z) | (extract_lets +onlyGivenNames z) | split | (with_reducible apply_assumption) | (simp -zeta only [State.asUpd]) | (dsimp -zeta +zetaDelta only) | (apply Kept.ite)

theorem State.onInst_kept {b0 s : State} (blk : Nat) (inst : Nat) (rsv : Nat) (f : State → State) (hf : ∀ z0, Kept b0 z0 → Kept b0 (f z0)) (h : Kept b0 s) : Kept b0 (State.onInst s blk inst rsv f) := by
  unfold State.onInst
  try simp -zeta only [State.asUpd]
  repeat' first | (with_reducible assumption) | (with_reducible apply Kept.upd) | (with_reducible apply hf) | (with_reducible apply State.underParity_kept) | (with_reducible apply State.disarm_kept) | (with_reducible apply State.latch_kept) | (with_reducible apply State.absentPage_kept) | (with_reducible rfl) | (refine Kept.reglSame (s := ?_) (g := ?_) ?_ (by with_reducible rfl) (by with_reducible rfl)) | (intro; try dsimp -zeta only) | (with_reducible apply Kept.ite) | (dsimp -zeta only) | (with_reducible apply Kept.ofPair (by with_reducible assumption)) | (with_reducible apply Kept.ofTriple (by with_reducible assumption)) | (with_reducible apply Kept.ofSome (by with_reducible assumption)) | (with_reducible apply Kept.foldl) | (with_reducible apply Kept.foldlPair) | (with_reducible apply KeptO.map) | (with_reducible apply KeptO.getD) | (with_reducible apply KeptO.some) | (with_reducible apply KeptO.none) | (extract_lets +onlyGivenNames z; refine (fun (_hz : Kept b0 z) => ?_) ?_; clear_value z) | (extract_lets +onlyGivenNames z; refine (fun (_hz : Kept b0 z.2) => ?_) ?_; clear_value z) | (extract_lets +onlyGivenNames z; refine (fun (_hz : Kept b0 z.2.2) => ?_) ?_; clear_value z) | (extract_lets +onlyGivenNames z) | split | (with_reducible apply_assumption) | (simp -zeta only [State.asUpd]) | (dsimp -zeta +zetaDelta only) | (apply Kept.ite)

theorem State.regCmd_kept {b0 s : State} (blk : Nat) (inst : Nat) (rsv : Nat) (f : State → State) (hf : ∀ z0, Kept b0 z0 → Kept b0 (f z0)) (h : Kept b0 s) : Kept b0 (State.regCmd s blk inst rsv f) := by
  unfold State.regCmd
  try simp -zeta only [State.asUpd]
  repeat' first | (with_reducible assumption) | (with_reducible apply Kept.upd) | (with_reducible apply hf) | (with_reducible apply State.onInst_kept) | (with_reducible rfl) | (refine Kept.reglSame (s := ?_) (g := ?_) ?_ (by with_reducible rfl) (by with_reducible rfl)) | (intro; try dsimp -zeta only) | (with_reducible apply Kept.ite) | (dsimp -zeta only) | (with_reducible apply Kept.ofPair (by with_reducible assumption)) | (with_reducible apply Kept.ofTriple (by with_reducible assumption)) | (with_reducible apply Kept.ofSome (by with_reducible assumption)) | (with_reducible apply Kept.foldl) | (with_reducible apply Kept.foldlPair) | (with_reducible apply KeptO.map) | (with_reducible apply KeptO.getD) | (with_reducible apply KeptO.some) | (with_reducible apply KeptO.none) | (extract_lets +onlyGivenNames z; refine (fun (_hz : Kept b0 z) => ?_) ?_; clear_value z) | (extract_lets +onlyGivenNames z; refine (fun (_hz : Kept b0 z.2) => ?_) ?_; clear_value z) | (extract_lets +onlyGivenNames z; refine (fun (_hz : Kept b0 z.2.2) => ?_) ?_; clear_value z) | (extract_lets +onlyGivenNames z) | split | (with_reducible apply_assumption) | (simp -zeta only [State.asUpd]) | (dsimp -zeta +zetaDelta only) | (apply Kept.ite)

theorem State.hostCmd_kept {b0 s : State} (blk : Nat) (inst : Nat) (rsv : Nat) (f : State → State) (hf : ∀ z0, Kept b0 z0 → Kept b0 (f z0)) (h : Kept b0 s) : Kept b0 (State.hostCmd s blk inst rsv f) := by
  unfold State.hostCmd
  try simp -zeta only [State.asUpd]
  repeat' first | (with_reducible assumption) | (with_reducible apply Kept.upd) | (with_reducible apply hf) | (with_reducible apply State.onInst_kept) | (with_reducible rfl) | (refine Kept.reglSame (s := ?_) (g := ?_) ?_ (by with_reducible rfl) (by with_reducible rfl)) | (intro; try dsimp -zeta only) | (with_reducible apply Kept.ite) | (dsimp -zeta only) | (with_reducible apply Kept.ofPair (by with_reducible assumption)) | (with_reducible apply Kept.ofTriple (by with_reducible assumption)) | (with_reducible apply Kept.ofSome (by with_reducible assumption)) | (with_reducible apply Kept.foldl) | (with_reducible apply Kept.foldlPair) | (with_reducible apply KeptO.map) | (with_reducible apply KeptO.getD) | (with_reducible apply KeptO.some) | (with_reducible apply KeptO.none) | (extract_lets +onlyGivenNames z; refine (fun (_hz : Kept b0 z) => ?_) ?_; clear_value z) | (extract_lets +onlyGivenNames z; refine (fun (_hz : Kept b0 z.2) => ?_) ?_; clear_value z) | (extract_lets +onlyGivenNames z; refine (fun (_hz : Kept b0 z.2.2) => ?_) ?_; clear_value z) | (extract_lets +onlyGivenNames z) | split | (with_reducible apply_assumption) | (simp -zeta only [State.asUpd]) | (dsimp -zeta +zetaDelta only) | (apply Kept.ite)

theorem State.onPage_kept {b0 s : State} (page : Nat) (rsv : Nat) (f : State → Nat → Nat → State) (hf : ∀ z0 z1 z2, Kept b0 z0 → Kept b0 (f z0 z1 z2)) (h : Kept b0 s) : Kept b0 (State.onPage s page rsv f) := by
  unfold State.onPage
  try simp -zeta only [State.asUpd]
  repeat' first | (with_reducible assumption) | (with_reducible apply Kept.upd) | (with_reducible apply hf) | (with_reducible apply State.onInst_kept) | (with_reducible apply State.absentPage_kept) | (with_reducible rfl) | (refine Kept.reglSame (s := ?_) (g := ?_) ?_ (by with_reducible rfl) (by with_reducible rfl)) | (intro; try dsimp -zeta only) | (with_reducible apply Kept.ite) | (dsimp -zeta only) | (with_reducible apply Kept.ofPair (by with_reducible assumption)) | (with_reducible apply Kept.ofTriple (by with_reducible assumption)) | (with_reducible apply Kept.ofSome (by with_reducible assumption)) | (with_reducible apply Kept.foldl) | (with_reducible apply Kept.foldlPair) | (with_reducible apply KeptO.map) | (with_reducible apply KeptO.getD) | (with_reducible apply KeptO.some) | (with_reducible apply KeptO.none) | (extract_lets +onlyGivenNames z; refine (fun (_hz : Kept b0 z) => ?_) ?_; clear_value z) | (extract_lets +onlyGivenNames z; refine (fun (_hz : Kept b0 z.2) => ?_) ?_; clear_value z) | (extract_lets +onlyGivenNames z; refine (fun (_hz : Kept b0 z.2.2) => ?_) ?_; clear_value z) | (extract_lets +onlyGivenNames z) | split | (with_reducible apply_assumption) | (simp -zeta only [State.asUpd]) | (dsimp -zeta +zetaDelta only) | (apply Kept.ite)

theorem execPgErrStickyW1c_kept (page : Nat) (v : Word) (s : State) : KeptOut s (execPgErrStickyW1c page v s) := by
  unfold execPgErrStickyW1c
  try simp -zeta only [State.asUpd]
  repeat' first | (with_reducible assumption) | (with_reducible exact Kept.refl _) | (with_reducible apply KeptOut.run; try dsimp -zeta only) | (with_reducible apply KeptOut.next) | (with_reducible apply Kept.upd)  | (with_reducible apply State.run_kept) | (with_reducible apply State.onPage_kept) | (with_reducible apply State.stickyW1c_kept) | (with_reducible rfl) | (refine Kept.reglSame (s := ?_) (g := ?_) ?_ (by with_reducible rfl) (by with_reducible rfl)) | (intro; try dsimp -zeta only) | (with_reducible apply Kept.ite) | (dsimp -zeta only) | (with_reducible apply Kept.ofPair (by with_reducible assumption)) | (with_reducible apply Kept.ofTriple (by with_reducible assumption)) | (with_reducible apply Kept.ofSome (by with_reducible assumption)) | (with_reducible apply Kept.foldl) | (with_reducible apply Kept.foldlPair) | (with_reducible apply KeptO.map) | (with_reducible apply KeptO.getD) | (with_reducible apply KeptO.some) | (with_reducible apply KeptO.none) | (extract_lets +onlyGivenNames z; refine (fun (_hz : Kept s z) => ?_) ?_; clear_value z) | (extract_lets +onlyGivenNames z; refine (fun (_hz : Kept s z.2) => ?_) ?_; clear_value z) | (extract_lets +onlyGivenNames z; refine (fun (_hz : Kept s z.2.2) => ?_) ?_; clear_value z) | (extract_lets +onlyGivenNames z) | split | (with_reducible apply_assumption) | (simp -zeta only [State.asUpd]) | (dsimp -zeta +zetaDelta only) | (apply Kept.ite)

theorem State.enableLatches_kept {b0 s : State} (blk : Nat) (inst : Nat) (old : Nat) (new : Nat) (y5 : List Nat)  (h : Kept b0 s) : Kept b0 (State.enableLatches s blk inst old new y5) := by
  fun_induction State.enableLatches s blk inst old new y5 <;> try simp -zeta only [State.asUpd]
  all_goals repeat' first | (with_reducible assumption) | (with_reducible apply Kept.upd)  | (with_reducible apply State.collect_kept) | (with_reducible apply State.logFault_kept) | (with_reducible rfl) | (refine Kept.reglSame (s := ?_) (g := ?_) ?_ (by with_reducible rfl) (by with_reducible rfl)) | (intro; try dsimp -zeta only) | (with_reducible apply Kept.ite) | (dsimp -zeta only) | (with_reducible apply Kept.ofPair (by with_reducible assumption)) | (with_reducible apply Kept.ofTriple (by with_reducible assumption)) | (with_reducible apply Kept.ofSome (by with_reducible assumption)) | (with_reducible apply Kept.foldl) | (with_reducible apply Kept.foldlPair) | (with_reducible apply KeptO.map) | (with_reducible apply KeptO.getD) | (with_reducible apply KeptO.some) | (with_reducible apply KeptO.none) | (extract_lets +onlyGivenNames z; refine (fun (_hz : Kept b0 z) => ?_) ?_; clear_value z) | (extract_lets +onlyGivenNames z; refine (fun (_hz : Kept b0 z.2) => ?_) ?_; clear_value z) | (extract_lets +onlyGivenNames z; refine (fun (_hz : Kept b0 z.2.2) => ?_) ?_; clear_value z) | (extract_lets +onlyGivenNames z) | split | (with_reducible apply_assumption) | (simp -zeta only [State.asUpd]) | (dsimp -zeta +zetaDelta only) | (apply Kept.ite)

theorem State.errEnable_kept {b0 s : State} (blk : Nat) (inst : Nat) (v : Nat)  (h : Kept b0 s) : Kept b0 (State.errEnable s blk inst v) := by
  unfold State.errEnable
  try simp -zeta only [State.asUpd]
  repeat' first | (with_reducible assumption) | (with_reducible apply Kept.upd)  | (with_reducible apply State.enableLatches_kept) | (with_reducible apply State.setFld_kept) | (with_reducible rfl) | (refine Kept.reglSame (s := ?_) (g := ?_) ?_ (by with_reducible rfl) (by with_reducible rfl)) | (intro; try dsimp -zeta only) | (with_reducible apply Kept.ite) | (dsimp -zeta only) | (with_reducible apply Kept.ofPair (by with_reducible assumption)) | (with_reducible apply Kept.ofTriple (by with_reducible assumption)) | (with_reducible apply Kept.ofSome (by with_reducible assumption)) | (with_reducible apply Kept.foldl) | (with_reducible apply Kept.foldlPair) | (with_reducible apply KeptO.map) | (with_reducible apply KeptO.getD) | (with_reducible apply KeptO.some) | (with_reducible apply KeptO.none) | (extract_lets +onlyGivenNames z; refine (fun (_hz : Kept b0 z) => ?_) ?_; clear_value z) | (extract_lets +onlyGivenNames z; refine (fun (_hz : Kept b0 z.2) => ?_) ?_; clear_value z) | (extract_lets +onlyGivenNames z; refine (fun (_hz : Kept b0 z.2.2) => ?_) ?_; clear_value z) | (extract_lets +onlyGivenNames z) | split | (with_reducible apply_assumption) | (simp -zeta only [State.asUpd]) | (dsimp -zeta +zetaDelta only) | (apply Kept.ite)

theorem execPgErrEnableWrite_kept (page : Nat) (v : Word) (s : State) : KeptOut s (execPgErrEnableWrite page v s) := by
  unfold execPgErrEnableWrite
  try simp -zeta only [State.asUpd]
  repeat' first | (with_reducible assumption) | (with_reducible exact Kept.refl _) | (with_reducible apply KeptOut.run; try dsimp -zeta only) | (with_reducible apply KeptOut.next) | (with_reducible apply Kept.upd)  | (with_reducible apply State.run_kept) | (with_reducible apply State.onPage_kept) | (with_reducible apply State.errEnable_kept) | (with_reducible rfl) | (refine Kept.reglSame (s := ?_) (g := ?_) ?_ (by with_reducible rfl) (by with_reducible rfl)) | (intro; try dsimp -zeta only) | (with_reducible apply Kept.ite) | (dsimp -zeta only) | (with_reducible apply Kept.ofPair (by with_reducible assumption)) | (with_reducible apply Kept.ofTriple (by with_reducible assumption)) | (with_reducible apply Kept.ofSome (by with_reducible assumption)) | (with_reducible apply Kept.foldl) | (with_reducible apply Kept.foldlPair) | (with_reducible apply KeptO.map) | (with_reducible apply KeptO.getD) | (with_reducible apply KeptO.some) | (with_reducible apply KeptO.none) | (extract_lets +onlyGivenNames z; refine (fun (_hz : Kept s z) => ?_) ?_; clear_value z) | (extract_lets +onlyGivenNames z; refine (fun (_hz : Kept s z.2) => ?_) ?_; clear_value z) | (extract_lets +onlyGivenNames z; refine (fun (_hz : Kept s z.2.2) => ?_) ?_; clear_value z) | (extract_lets +onlyGivenNames z) | split | (with_reducible apply_assumption) | (simp -zeta only [State.asUpd]) | (dsimp -zeta +zetaDelta only) | (apply Kept.ite)

theorem State.errInject_kept {b0 s : State} (blk : Nat) (inst : Nat) (v : Nat)  (h : Kept b0 s) : Kept b0 (State.errInject s blk inst v) := by
  unfold State.errInject
  try simp -zeta only [State.asUpd]
  repeat' first | (with_reducible assumption) | (with_reducible apply Kept.upd)  | (with_reducible apply State.setFld_kept) | (with_reducible apply State.latch_kept) | (with_reducible rfl) | (refine Kept.reglSame (s := ?_) (g := ?_) ?_ (by with_reducible rfl) (by with_reducible rfl)) | (intro; try dsimp -zeta only) | (with_reducible apply Kept.ite) | (dsimp -zeta only) | (with_reducible apply Kept.ofPair (by with_reducible assumption)) | (with_reducible apply Kept.ofTriple (by with_reducible assumption)) | (with_reducible apply Kept.ofSome (by with_reducible assumption)) | (with_reducible apply Kept.foldl) | (with_reducible apply Kept.foldlPair) | (with_reducible apply KeptO.map) | (with_reducible apply KeptO.getD) | (with_reducible apply KeptO.some) | (with_reducible apply KeptO.none) | (extract_lets +onlyGivenNames z; refine (fun (_hz : Kept b0 z) => ?_) ?_; clear_value z) | (extract_lets +onlyGivenNames z; refine (fun (_hz : Kept b0 z.2) => ?_) ?_; clear_value z) | (extract_lets +onlyGivenNames z; refine (fun (_hz : Kept b0 z.2.2) => ?_) ?_; clear_value z) | (extract_lets +onlyGivenNames z) | split | (with_reducible apply_assumption) | (simp -zeta only [State.asUpd]) | (dsimp -zeta +zetaDelta only) | (apply Kept.ite)

theorem execPgErrInjectWrite_kept (page : Nat) (v : Word) (s : State) : KeptOut s (execPgErrInjectWrite page v s) := by
  unfold execPgErrInjectWrite
  try simp -zeta only [State.asUpd]
  repeat' first | (with_reducible assumption) | (with_reducible exact Kept.refl _) | (with_reducible apply KeptOut.run; try dsimp -zeta only) | (with_reducible apply KeptOut.next) | (with_reducible apply Kept.upd)  | (with_reducible apply State.run_kept) | (with_reducible apply State.onPage_kept) | (with_reducible apply State.errInject_kept) | (with_reducible rfl) | (refine Kept.reglSame (s := ?_) (g := ?_) ?_ (by with_reducible rfl) (by with_reducible rfl)) | (intro; try dsimp -zeta only) | (with_reducible apply Kept.ite) | (dsimp -zeta only) | (with_reducible apply Kept.ofPair (by with_reducible assumption)) | (with_reducible apply Kept.ofTriple (by with_reducible assumption)) | (with_reducible apply Kept.ofSome (by with_reducible assumption)) | (with_reducible apply Kept.foldl) | (with_reducible apply Kept.foldlPair) | (with_reducible apply KeptO.map) | (with_reducible apply KeptO.getD) | (with_reducible apply KeptO.some) | (with_reducible apply KeptO.none) | (extract_lets +onlyGivenNames z; refine (fun (_hz : Kept s z) => ?_) ?_; clear_value z) | (extract_lets +onlyGivenNames z; refine (fun (_hz : Kept s z.2) => ?_) ?_; clear_value z) | (extract_lets +onlyGivenNames z; refine (fun (_hz : Kept s z.2.2) => ?_) ?_; clear_value z) | (extract_lets +onlyGivenNames z) | split | (with_reducible apply_assumption) | (simp -zeta only [State.asUpd]) | (dsimp -zeta +zetaDelta only) | (apply Kept.ite)

theorem State.check_kept {b0 s : State} (src : Src) (inst : optParam Nat 0)  (h : Kept b0 s) : Kept b0 (State.check s src inst) := by
  unfold State.check
  try simp -zeta only [State.asUpd]
  repeat' first | (with_reducible assumption) | (with_reducible apply Kept.upd)  | (with_reducible apply State.takeInject_kept) | (with_reducible apply State.latch_kept) | (with_reducible rfl) | (refine Kept.reglSame (s := ?_) (g := ?_) ?_ (by with_reducible rfl) (by with_reducible rfl)) | (intro; try dsimp -zeta only) | (with_reducible apply Kept.ite) | (dsimp -zeta only) | (with_reducible apply Kept.ofPair (by with_reducible assumption)) | (with_reducible apply Kept.ofTriple (by with_reducible assumption)) | (with_reducible apply Kept.ofSome (by with_reducible assumption)) | (with_reducible apply Kept.foldl) | (with_reducible apply Kept.foldlPair) | (with_reducible apply KeptO.map) | (with_reducible apply KeptO.getD) | (with_reducible apply KeptO.some) | (with_reducible apply KeptO.none) | (extract_lets +onlyGivenNames z; refine (fun (_hz : Kept b0 z) => ?_) ?_; clear_value z) | (extract_lets +onlyGivenNames z; refine (fun (_hz : Kept b0 z.2) => ?_) ?_; clear_value z) | (extract_lets +onlyGivenNames z; refine (fun (_hz : Kept b0 z.2.2) => ?_) ?_; clear_value z) | (extract_lets +onlyGivenNames z) | split | (with_reducible apply_assumption) | (simp -zeta only [State.asUpd]) | (dsimp -zeta +zetaDelta only) | (apply Kept.ite)

theorem State.eccCheck_kept {b0 s : State} (ce : Src) (ue : Src)  (h : Kept b0 s) : Kept b0 (State.eccCheck s ce ue).2 := by
  unfold State.eccCheck
  try simp -zeta only [State.asUpd]
  repeat' first | (with_reducible assumption) | (with_reducible apply Kept.upd)  | (with_reducible apply State.takeInject_kept) | (with_reducible rfl) | (refine Kept.reglSame (s := ?_) (g := ?_) ?_ (by with_reducible rfl) (by with_reducible rfl)) | (intro; try dsimp -zeta only) | (with_reducible apply Kept.ite) | (dsimp -zeta only) | (with_reducible apply Kept.ofPair (by with_reducible assumption)) | (with_reducible apply Kept.ofTriple (by with_reducible assumption)) | (with_reducible apply Kept.ofSome (by with_reducible assumption)) | (with_reducible apply Kept.foldl) | (with_reducible apply Kept.foldlPair) | (with_reducible apply KeptO.map) | (with_reducible apply KeptO.getD) | (with_reducible apply KeptO.some) | (with_reducible apply KeptO.none) | (extract_lets +onlyGivenNames z; refine (fun (_hz : Kept b0 z) => ?_) ?_; clear_value z) | (extract_lets +onlyGivenNames z; refine (fun (_hz : Kept b0 z.2) => ?_) ?_; clear_value z) | (extract_lets +onlyGivenNames z; refine (fun (_hz : Kept b0 z.2.2) => ?_) ?_; clear_value z) | (extract_lets +onlyGivenNames z) | split | (with_reducible apply_assumption) | (simp -zeta only [State.asUpd]) | (dsimp -zeta +zetaDelta only) | (apply Kept.ite)

theorem State.clearKeys_kept {b0 s : State}   (h : Kept b0 s) : Kept b0 (State.clearKeys s) := by
  unfold State.clearKeys
  try simp -zeta only [State.asUpd]
  repeat' first | (with_reducible assumption) | (with_reducible apply Kept.upd)   | (with_reducible rfl) | (refine Kept.reglSame (s := ?_) (g := ?_) ?_ (by with_reducible rfl) (by with_reducible rfl)) | (intro; try dsimp -zeta only) | (with_reducible apply Kept.ite) | (dsimp -zeta only) | (with_reducible apply Kept.ofPair (by with_reducible assumption)) | (with_reducible apply Kept.ofTriple (by with_reducible assumption)) | (with_reducible apply Kept.ofSome (by with_reducible assumption)) | (with_reducible apply Kept.foldl) | (with_reducible apply Kept.foldlPair) | (with_reducible apply KeptO.map) | (with_reducible apply KeptO.getD) | (with_reducible apply KeptO.some) | (with_reducible apply KeptO.none) | (extract_lets +onlyGivenNames z; refine (fun (_hz : Kept b0 z) => ?_) ?_; clear_value z) | (extract_lets +onlyGivenNames z; refine (fun (_hz : Kept b0 z.2) => ?_) ?_; clear_value z) | (extract_lets +onlyGivenNames z; refine (fun (_hz : Kept b0 z.2.2) => ?_) ?_; clear_value z) | (extract_lets +onlyGivenNames z) | split | (with_reducible apply_assumption) | (simp -zeta only [State.asUpd]) | (dsimp -zeta +zetaDelta only) | (apply Kept.ite)

theorem State.unlockKey_kept {b0 s : State} (key : Nat)  (h : Kept b0 s) : Kept b0 (State.unlockKey s key) := by
  unfold State.unlockKey
  try simp -zeta only [State.asUpd]
  repeat' first | (with_reducible assumption) | (with_reducible apply Kept.upd)  | (with_reducible apply State.latch_kept) | (with_reducible apply State.setFld_kept) | (with_reducible apply State.clearKeys_kept) | (with_reducible rfl) | (refine Kept.reglSame (s := ?_) (g := ?_) ?_ (by with_reducible rfl) (by with_reducible rfl)) | (intro; try dsimp -zeta only) | (with_reducible apply Kept.ite) | (dsimp -zeta only) | (with_reducible apply Kept.ofPair (by with_reducible assumption)) | (with_reducible apply Kept.ofTriple (by with_reducible assumption)) | (with_reducible apply Kept.ofSome (by with_reducible assumption)) | (with_reducible apply Kept.foldl) | (with_reducible apply Kept.foldlPair) | (with_reducible apply KeptO.map) | (with_reducible apply KeptO.getD) | (with_reducible apply KeptO.some) | (with_reducible apply KeptO.none) | (extract_lets +onlyGivenNames z; refine (fun (_hz : Kept b0 z) => ?_) ?_; clear_value z) | (extract_lets +onlyGivenNames z; refine (fun (_hz : Kept b0 z.2) => ?_) ?_; clear_value z) | (extract_lets +onlyGivenNames z; refine (fun (_hz : Kept b0 z.2.2) => ?_) ?_; clear_value z) | (extract_lets +onlyGivenNames z) | split | (with_reducible apply_assumption) | (simp -zeta only [State.asUpd]) | (dsimp -zeta +zetaDelta only) | (apply Kept.ite)

theorem State.unlockWrite_kept {b0 s : State} (v : Nat)  (h : Kept b0 s) : Kept b0 (State.unlockWrite s v) := by
  unfold State.unlockWrite
  try simp -zeta only [State.asUpd]
  repeat' first | (with_reducible assumption) | (with_reducible apply Kept.upd)  | (with_reducible apply State.underParity_kept) | (with_reducible apply State.unlockKey_kept) | (with_reducible apply State.latch_kept) | (with_reducible rfl) | (refine Kept.reglSame (s := ?_) (g := ?_) ?_ (by with_reducible rfl) (by with_reducible rfl)) | (intro; try dsimp -zeta only) | (with_reducible apply Kept.ite) | (dsimp -zeta only) | (with_reducible apply Kept.ofPair (by with_reducible assumption)) | (with_reducible apply Kept.ofTriple (by with_reducible assumption)) | (with_reducible apply Kept.ofSome (by with_reducible assumption)) | (with_reducible apply Kept.foldl) | (with_reducible apply Kept.foldlPair) | (with_reducible apply KeptO.map) | (with_reducible apply KeptO.getD) | (with_reducible apply KeptO.some) | (with_reducible apply KeptO.none) | (extract_lets +onlyGivenNames z; refine (fun (_hz : Kept b0 z) => ?_) ?_; clear_value z) | (extract_lets +onlyGivenNames z; refine (fun (_hz : Kept b0 z.2) => ?_) ?_; clear_value z) | (extract_lets +onlyGivenNames z; refine (fun (_hz : Kept b0 z.2.2) => ?_) ?_; clear_value z) | (extract_lets +onlyGivenNames z) | split | (with_reducible apply_assumption) | (simp -zeta only [State.asUpd]) | (dsimp -zeta +zetaDelta only) | (apply Kept.ite)

theorem execTestUnlockKey1_kept (v : Word) (s : State) : KeptOut s (execTestUnlockKey1 v s) := by
  unfold execTestUnlockKey1
  try simp -zeta only [State.asUpd]
  repeat' first | (with_reducible assumption) | (with_reducible exact Kept.refl _) | (with_reducible apply KeptOut.run; try dsimp -zeta only) | (with_reducible apply KeptOut.next) | (with_reducible apply Kept.upd)  | (with_reducible apply State.run_kept) | (with_reducible apply State.unlockWrite_kept) | (with_reducible rfl) | (refine Kept.reglSame (s := ?_) (g := ?_) ?_ (by with_reducible rfl) (by with_reducible rfl)) | (intro; try dsimp -zeta only) | (with_reducible apply Kept.ite) | (dsimp -zeta only) | (with_reducible apply Kept.ofPair (by with_reducible assumption)) | (with_reducible apply Kept.ofTriple (by with_reducible assumption)) | (with_reducible apply Kept.ofSome (by with_reducible assumption)) | (with_reducible apply Kept.foldl) | (with_reducible apply Kept.foldlPair) | (with_reducible apply KeptO.map) | (with_reducible apply KeptO.getD) | (with_reducible apply KeptO.some) | (with_reducible apply KeptO.none) | (extract_lets +onlyGivenNames z; refine (fun (_hz : Kept s z) => ?_) ?_; clear_value z) | (extract_lets +onlyGivenNames z; refine (fun (_hz : Kept s z.2) => ?_) ?_; clear_value z) | (extract_lets +onlyGivenNames z; refine (fun (_hz : Kept s z.2.2) => ?_) ?_; clear_value z) | (extract_lets +onlyGivenNames z) | split | (with_reducible apply_assumption) | (simp -zeta only [State.asUpd]) | (dsimp -zeta +zetaDelta only) | (apply Kept.ite)

theorem execTestUnlockKey2_kept (v : Word) (s : State) : KeptOut s (execTestUnlockKey2 v s) := by
  unfold execTestUnlockKey2
  try simp -zeta only [State.asUpd]
  repeat' first | (with_reducible assumption) | (with_reducible exact Kept.refl _) | (with_reducible apply KeptOut.run; try dsimp -zeta only) | (with_reducible apply KeptOut.next) | (with_reducible apply Kept.upd)  | (with_reducible apply State.run_kept) | (with_reducible apply State.unlockWrite_kept) | (with_reducible rfl) | (refine Kept.reglSame (s := ?_) (g := ?_) ?_ (by with_reducible rfl) (by with_reducible rfl)) | (intro; try dsimp -zeta only) | (with_reducible apply Kept.ite) | (dsimp -zeta only) | (with_reducible apply Kept.ofPair (by with_reducible assumption)) | (with_reducible apply Kept.ofTriple (by with_reducible assumption)) | (with_reducible apply Kept.ofSome (by with_reducible assumption)) | (with_reducible apply Kept.foldl) | (with_reducible apply Kept.foldlPair) | (with_reducible apply KeptO.map) | (with_reducible apply KeptO.getD) | (with_reducible apply KeptO.some) | (with_reducible apply KeptO.none) | (extract_lets +onlyGivenNames z; refine (fun (_hz : Kept s z) => ?_) ?_; clear_value z) | (extract_lets +onlyGivenNames z; refine (fun (_hz : Kept s z.2) => ?_) ?_; clear_value z) | (extract_lets +onlyGivenNames z; refine (fun (_hz : Kept s z.2.2) => ?_) ?_; clear_value z) | (extract_lets +onlyGivenNames z) | split | (with_reducible apply_assumption) | (simp -zeta only [State.asUpd]) | (dsimp -zeta +zetaDelta only) | (apply Kept.ite)

theorem execTestUnlockArmTimeout_kept (s : State) : KeptOut s (execTestUnlockArmTimeout s) := by
  unfold execTestUnlockArmTimeout
  try simp -zeta only [State.asUpd]
  repeat' first | (with_reducible assumption) | (with_reducible exact Kept.refl _) | (with_reducible apply KeptOut.run; try dsimp -zeta only) | (with_reducible apply KeptOut.next) | (with_reducible apply Kept.upd)  | (with_reducible apply State.run_kept) | (with_reducible rfl) | (refine Kept.reglSame (s := ?_) (g := ?_) ?_ (by with_reducible rfl) (by with_reducible rfl)) | (intro; try dsimp -zeta only) | (with_reducible apply Kept.ite) | (dsimp -zeta only) | (with_reducible apply Kept.ofPair (by with_reducible assumption)) | (with_reducible apply Kept.ofTriple (by with_reducible assumption)) | (with_reducible apply Kept.ofSome (by with_reducible assumption)) | (with_reducible apply Kept.foldl) | (with_reducible apply Kept.foldlPair) | (with_reducible apply KeptO.map) | (with_reducible apply KeptO.getD) | (with_reducible apply KeptO.some) | (with_reducible apply KeptO.none) | (extract_lets +onlyGivenNames z; refine (fun (_hz : Kept s z) => ?_) ?_; clear_value z) | (extract_lets +onlyGivenNames z; refine (fun (_hz : Kept s z.2) => ?_) ?_; clear_value z) | (extract_lets +onlyGivenNames z; refine (fun (_hz : Kept s z.2.2) => ?_) ?_; clear_value z) | (extract_lets +onlyGivenNames z) | split | (with_reducible apply_assumption) | (simp -zeta only [State.asUpd]) | (dsimp -zeta +zetaDelta only) | (apply Kept.ite)

theorem State.jtagSet_kept {b0 s : State} (instr : Nat)  (h : Kept b0 s) : Kept b0 (State.jtagSet s instr) := by
  unfold State.jtagSet
  try simp -zeta only [State.asUpd]
  repeat' first | (with_reducible assumption) | (with_reducible apply Kept.upd)   | (with_reducible rfl) | (refine Kept.reglSame (s := ?_) (g := ?_) ?_ (by with_reducible rfl) (by with_reducible rfl)) | (intro; try dsimp -zeta only) | (with_reducible apply Kept.ite) | (dsimp -zeta only) | (with_reducible apply Kept.ofPair (by with_reducible assumption)) | (with_reducible apply Kept.ofTriple (by with_reducible assumption)) | (with_reducible apply Kept.ofSome (by with_reducible assumption)) | (with_reducible apply Kept.foldl) | (with_reducible apply Kept.foldlPair) | (with_reducible apply KeptO.map) | (with_reducible apply KeptO.getD) | (with_reducible apply KeptO.some) | (with_reducible apply KeptO.none) | (extract_lets +onlyGivenNames z; refine (fun (_hz : Kept b0 z) => ?_) ?_; clear_value z) | (extract_lets +onlyGivenNames z; refine (fun (_hz : Kept b0 z.2) => ?_) ?_; clear_value z) | (extract_lets +onlyGivenNames z; refine (fun (_hz : Kept b0 z.2.2) => ?_) ?_; clear_value z) | (extract_lets +onlyGivenNames z) | split | (with_reducible apply_assumption) | (simp -zeta only [State.asUpd]) | (dsimp -zeta +zetaDelta only) | (apply Kept.ite)

theorem execJtagInstruction_kept (code : Nat) (s : State) : KeptOut s (execJtagInstruction code s) := by
  unfold execJtagInstruction
  try simp -zeta only [State.asUpd]
  repeat' first | (with_reducible assumption) | (with_reducible exact Kept.refl _) | (with_reducible apply KeptOut.run; try dsimp -zeta only) | (with_reducible apply KeptOut.next) | (with_reducible apply Kept.upd)  | (with_reducible apply State.jtagSet_kept) | (with_reducible rfl) | (refine Kept.reglSame (s := ?_) (g := ?_) ?_ (by with_reducible rfl) (by with_reducible rfl)) | (intro; try dsimp -zeta only) | (with_reducible apply Kept.ite) | (dsimp -zeta only) | (with_reducible apply Kept.ofPair (by with_reducible assumption)) | (with_reducible apply Kept.ofTriple (by with_reducible assumption)) | (with_reducible apply Kept.ofSome (by with_reducible assumption)) | (with_reducible apply Kept.foldl) | (with_reducible apply Kept.foldlPair) | (with_reducible apply KeptO.map) | (with_reducible apply KeptO.getD) | (with_reducible apply KeptO.some) | (with_reducible apply KeptO.none) | (extract_lets +onlyGivenNames z; refine (fun (_hz : Kept s z) => ?_) ?_; clear_value z) | (extract_lets +onlyGivenNames z; refine (fun (_hz : Kept s z.2) => ?_) ?_; clear_value z) | (extract_lets +onlyGivenNames z; refine (fun (_hz : Kept s z.2.2) => ?_) ?_; clear_value z) | (extract_lets +onlyGivenNames z) | split | (with_reducible apply_assumption) | (simp -zeta only [State.asUpd]) | (dsimp -zeta +zetaDelta only) | (apply Kept.ite)

end Sys2Proof.Machine
end

