-- ==== Sys2Proof/Laws/KeepSequencer.lean ====
section
/-! SUPPORT. What every operation of Machine/Sequencer.lean keeps (`Kept`): the variant, the queue, and the canonical form of the
memories. -/

set_option Elab.async false
set_option linter.all false

namespace Sys2Proof.Machine

theorem State.setEsc_kept {b0 s : State} (kind : Nat) (i : Nat) (x : Escapement)  (h : Kept b0 s) : Kept b0 (State.setEsc s kind i x) := by
  unfold State.setEsc
  try simp -zeta only [State.asUpd]
  repeat' first | (with_reducible assumption) | (with_reducible apply Kept.upd)   | (with_reducible rfl) | (refine Kept.reglSame (s := ?_) (g := ?_) ?_ (by with_reducible rfl) (by with_reducible rfl)) | (intro; try dsimp -zeta only) | (with_reducible apply Kept.ite) | (dsimp -zeta only) | (with_reducible apply Kept.ofPair (by with_reducible assumption)) | (with_reducible apply Kept.ofTriple (by with_reducible assumption)) | (with_reducible apply Kept.ofSome (by with_reducible assumption)) | (with_reducible apply Kept.foldl) | (with_reducible apply Kept.foldlPair) | (with_reducible apply KeptO.map) | (with_reducible apply KeptO.getD) | (with_reducible apply KeptO.some) | (with_reducible apply KeptO.none) | (extract_lets +onlyGivenNames z; refine (fun (_hz : Kept b0 z) => ?_) ?_; clear_value z) | (extract_lets +onlyGivenNames z; refine (fun (_hz : Kept b0 z.2) => ?_) ?_; clear_value z) | (extract_lets +onlyGivenNames z; refine (fun (_hz : Kept b0 z.2.2) => ?_) ?_; clear_value z) | (extract_lets +onlyGivenNames z) | split | (with_reducible apply_assumption) | (simp -zeta only [State.asUpd]) | (dsimp -zeta +zetaDelta only) | (apply Kept.ite)

theorem State.escRequest_kept {b0 s : State} (kind : Nat) (i : Nat) (stop : Bool)  (h : Kept b0 s) : Kept b0 (State.escRequest s kind i stop) := by
  unfold State.escRequest
  try simp -zeta only [State.asUpd]
  repeat' first | (with_reducible assumption) | (with_reducible apply Kept.upd)  | (with_reducible apply State.setEsc_kept) | (with_reducible rfl) | (refine Kept.reglSame (s := ?_) (g := ?_) ?_ (by with_reducible rfl) (by with_reducible rfl)) | (intro; try dsimp -zeta only) | (with_reducible apply Kept.ite) | (dsimp -zeta only) | (with_reducible apply Kept.ofPair (by with_reducible assumption)) | (with_reducible apply Kept.ofTriple (by with_reducible assumption)) | (with_reducible apply Kept.ofSome (by with_reducible assumption)) | (with_reducible apply Kept.foldl) | (with_reducible apply Kept.foldlPair) | (with_reducible apply KeptO.map) | (with_reducible apply KeptO.getD) | (with_reducible apply KeptO.some) | (with_reducible apply KeptO.none) | (extract_lets +onlyGivenNames z; refine (fun (_hz : Kept b0 z) => ?_) ?_; clear_value z) | (extract_lets +onlyGivenNames z; refine (fun (_hz : Kept b0 z.2) => ?_) ?_; clear_value z) | (extract_lets +onlyGivenNames z; refine (fun (_hz : Kept b0 z.2.2) => ?_) ?_; clear_value z) | (extract_lets +onlyGivenNames z) | split | (with_reducible apply_assumption) | (simp -zeta only [State.asUpd]) | (dsimp -zeta +zetaDelta only) | (apply Kept.ite)

theorem State.escAdopt_kept {b0 s : State} (kind : Nat) (i : Nat)  (h : Kept b0 s) : Kept b0 (State.escAdopt s kind i) := by
  unfold State.escAdopt
  try simp -zeta only [State.asUpd]
  repeat' first | (with_reducible assumption) | (with_reducible apply Kept.upd)  | (with_reducible apply State.setEsc_kept) | (with_reducible rfl) | (refine Kept.reglSame (s := ?_) (g := ?_) ?_ (by with_reducible rfl) (by with_reducible rfl)) | (intro; try dsimp -zeta only) | (with_reducible apply Kept.ite) | (dsimp -zeta only) | (with_reducible apply Kept.ofPair (by with_reducible assumption)) | (with_reducible apply Kept.ofTriple (by with_reducible assumption)) | (with_reducible apply Kept.ofSome (by with_reducible assumption)) | (with_reducible apply Kept.foldl) | (with_reducible apply Kept.foldlPair) | (with_reducible apply KeptO.map) | (with_reducible apply KeptO.getD) | (with_reducible apply KeptO.some) | (with_reducible apply KeptO.none) | (extract_lets +onlyGivenNames z; refine (fun (_hz : Kept b0 z) => ?_) ?_; clear_value z) | (extract_lets +onlyGivenNames z; refine (fun (_hz : Kept b0 z.2) => ?_) ?_; clear_value z) | (extract_lets +onlyGivenNames z; refine (fun (_hz : Kept b0 z.2.2) => ?_) ?_; clear_value z) | (extract_lets +onlyGivenNames z) | split | (with_reducible apply_assumption) | (simp -zeta only [State.asUpd]) | (dsimp -zeta +zetaDelta only) | (apply Kept.ite)

theorem State.escAdoptAll_kept {b0 s : State} (kind : Nat)  (h : Kept b0 s) : Kept b0 (State.escAdoptAll s kind) := by
  unfold State.escAdoptAll
  try simp -zeta only [State.asUpd]
  repeat' first | (with_reducible assumption) | (with_reducible apply Kept.upd)  | (with_reducible apply State.escAdopt_kept) | (with_reducible rfl) | (refine Kept.reglSame (s := ?_) (g := ?_) ?_ (by with_reducible rfl) (by with_reducible rfl)) | (intro; try dsimp -zeta only) | (with_reducible apply Kept.ite) | (dsimp -zeta only) | (with_reducible apply Kept.ofPair (by with_reducible assumption)) | (with_reducible apply Kept.ofTriple (by with_reducible assumption)) | (with_reducible apply Kept.ofSome (by with_reducible assumption)) | (with_reducible apply Kept.foldl) | (with_reducible apply Kept.foldlPair) | (with_reducible apply KeptO.map) | (with_reducible apply KeptO.getD) | (with_reducible apply KeptO.some) | (with_reducible apply KeptO.none) | (extract_lets +onlyGivenNames z; refine (fun (_hz : Kept b0 z) => ?_) ?_; clear_value z) | (extract_lets +onlyGivenNames z; refine (fun (_hz : Kept b0 z.2) => ?_) ?_; clear_value z) | (extract_lets +onlyGivenNames z; refine (fun (_hz : Kept b0 z.2.2) => ?_) ?_; clear_value z) | (extract_lets +onlyGivenNames z) | split | (with_reducible apply_assumption) | (simp -zeta only [State.asUpd]) | (dsimp -zeta +zetaDelta only) | (apply Kept.ite)

theorem State.escInstall_kept {b0 s : State} (kind : Nat) (im : EscImage)  (h : Kept b0 s) : Kept b0 (State.escInstall s kind im) := by
  unfold State.escInstall
  try simp -zeta only [State.asUpd]
  repeat' first | (with_reducible assumption) | (with_reducible apply Kept.upd)   | (with_reducible rfl) | (refine Kept.reglSame (s := ?_) (g := ?_) ?_ (by with_reducible rfl) (by with_reducible rfl)) | (intro; try dsimp -zeta only) | (with_reducible apply Kept.ite) | (dsimp -zeta only) | (with_reducible apply Kept.ofPair (by with_reducible assumption)) | (with_reducible apply Kept.ofTriple (by with_reducible assumption)) | (with_reducible apply Kept.ofSome (by with_reducible assumption)) | (with_reducible apply Kept.foldl) | (with_reducible apply Kept.foldlPair) | (with_reducible apply KeptO.map) | (with_reducible apply KeptO.getD) | (with_reducible apply KeptO.some) | (with_reducible apply KeptO.none) | (extract_lets +onlyGivenNames z; refine (fun (_hz : Kept b0 z) => ?_) ?_; clear_value z) | (extract_lets +onlyGivenNames z; refine (fun (_hz : Kept b0 z.2) => ?_) ?_; clear_value z) | (extract_lets +onlyGivenNames z; refine (fun (_hz : Kept b0 z.2.2) => ?_) ?_; clear_value z) | (extract_lets +onlyGivenNames z) | split | (with_reducible apply_assumption) | (simp -zeta only [State.asUpd]) | (dsimp -zeta +zetaDelta only) | (apply Kept.ite)

end Sys2Proof.Machine
end

