-- ==== Sys2Proof/Laws/KeepMemory.lean ====
section
/-! SUPPORT. What every operation of Machine/Memory.lean keeps (`Kept`): the variant, the queue, and the canonical form of the
memories. -/

set_option Elab.async false
set_option linter.all false

namespace Sys2Proof.Machine

theorem State.errLog_kept {b0 s : State} (line : Nat) (channel : Nat) (port : Nat) (kind : Nat)  (h : Kept b0 s) : Kept b0 (State.errLog s line channel port kind) := by
  unfold State.errLog
  try simp -zeta only [State.asUpd]
  repeat' first | (with_reducible assumption) | (with_reducible apply Kept.upd)  | (with_reducible apply State.setFld_kept) | (with_reducible apply State.countSat_kept) | (with_reducible rfl) | (refine Kept.reglSame (s := ?_) (g := ?_) ?_ (by with_reducible rfl) (by with_reducible rfl)) | (intro; try dsimp -zeta only) | (with_reducible apply Kept.ite) | (dsimp -zeta only) | (with_reducible apply Kept.ofPair (by with_reducible assumption)) | (with_reducible apply Kept.ofTriple (by with_reducible assumption)) | (with_reducible apply Kept.ofSome (by with_reducible assumption)) | (with_reducible apply Kept.foldl) | (with_reducible apply Kept.foldlPair) | (with_reducible apply KeptO.map) | (with_reducible apply KeptO.getD) | (with_reducible apply KeptO.some) | (with_reducible apply KeptO.none) | (extract_lets +onlyGivenNames z; refine (fun (_hz : Kept b0 z) => ?_) ?_; clear_value z) | (extract_lets +onlyGivenNames z; refine (fun (_hz : Kept b0 z.2) => ?_) ?_; clear_value z) | (extract_lets +onlyGivenNames z; refine (fun (_hz : Kept b0 z.2.2) => ?_) ?_; clear_value z) | (extract_lets +onlyGivenNames z) | split | (with_reducible apply_assumption) | (simp -zeta only [State.asUpd]) | (dsimp -zeta +zetaDelta only) | (apply Kept.ite)

theorem State.memCorrected_kept {b0 s : State} (channel : Nat)  (h : Kept b0 s) : Kept b0 (State.memCorrected s channel) := by
  unfold State.memCorrected
  try simp -zeta only [State.asUpd]
  repeat' first | (with_reducible assumption) | (with_reducible apply Kept.upd)  | (with_reducible apply State.latch_kept) | (with_reducible apply State.count_kept) | (with_reducible rfl) | (refine Kept.reglSame (s := ?_) (g := ?_) ?_ (by with_reducible rfl) (by with_reducible rfl)) | (intro; try dsimp -zeta only) | (with_reducible apply Kept.ite) | (dsimp -zeta only) | (with_reducible apply Kept.ofPair (by with_reducible assumption)) | (with_reducible apply Kept.ofTriple (by with_reducible assumption)) | (with_reducible apply Kept.ofSome (by with_reducible assumption)) | (with_reducible apply Kept.foldl) | (with_reducible apply Kept.foldlPair) | (with_reducible apply KeptO.map) | (with_reducible apply KeptO.getD) | (with_reducible apply KeptO.some) | (with_reducible apply KeptO.none) | (extract_lets +onlyGivenNames z; refine (fun (_hz : Kept b0 z) => ?_) ?_; clear_value z) | (extract_lets +onlyGivenNames z; refine (fun (_hz : Kept b0 z.2) => ?_) ?_; clear_value z) | (extract_lets +onlyGivenNames z; refine (fun (_hz : Kept b0 z.2.2) => ?_) ?_; clear_value z) | (extract_lets +onlyGivenNames z) | split | (with_reducible apply_assumption) | (simp -zeta only [State.asUpd]) | (dsimp -zeta +zetaDelta only) | (apply Kept.ite)

theorem State.memUncorrectable_kept {b0 s : State} (line : Nat) (channel : Nat) (port : Nat) (kind : Nat)  (h : Kept b0 s) : Kept b0 (State.memUncorrectable s line channel port kind) := by
  unfold State.memUncorrectable
  try simp -zeta only [State.asUpd]
  repeat' first | (with_reducible assumption) | (with_reducible apply Kept.upd)  | (with_reducible apply State.latch_kept) | (with_reducible apply State.errLog_kept) | (with_reducible rfl) | (refine Kept.reglSame (s := ?_) (g := ?_) ?_ (by with_reducible rfl) (by with_reducible rfl)) | (intro; try dsimp -zeta only) | (with_reducible apply Kept.ite) | (dsimp -zeta only) | (with_reducible apply Kept.ofPair (by with_reducible assumption)) | (with_reducible apply Kept.ofTriple (by with_reducible assumption)) | (with_reducible apply Kept.ofSome (by with_reducible assumption)) | (with_reducible apply Kept.foldl) | (with_reducible apply Kept.foldlPair) | (with_reducible apply KeptO.map) | (with_reducible apply KeptO.getD) | (with_reducible apply KeptO.some) | (with_reducible apply KeptO.none) | (extract_lets +onlyGivenNames z; refine (fun (_hz : Kept b0 z) => ?_) ?_; clear_value z) | (extract_lets +onlyGivenNames z; refine (fun (_hz : Kept b0 z.2) => ?_) ?_; clear_value z) | (extract_lets +onlyGivenNames z; refine (fun (_hz : Kept b0 z.2.2) => ?_) ?_; clear_value z) | (extract_lets +onlyGivenNames z) | split | (with_reducible apply_assumption) | (simp -zeta only [State.asUpd]) | (dsimp -zeta +zetaDelta only) | (apply Kept.ite)

theorem State.eccFound_kept {b0 s : State} (line : Nat) (found : Ecc)  (h : Kept b0 s) : Kept b0 (State.eccFound s line found).2 := by
  unfold State.eccFound
  try simp -zeta only [State.asUpd]
  repeat' first | (with_reducible assumption) | (with_reducible apply Kept.upd)  | (with_reducible apply State.eccCheck_kept) | (with_reducible rfl) | (refine Kept.reglSame (s := ?_) (g := ?_) ?_ (by with_reducible rfl) (by with_reducible rfl)) | (intro; try dsimp -zeta only) | (with_reducible apply Kept.ite) | (dsimp -zeta only) | (with_reducible apply Kept.ofPair (by with_reducible assumption)) | (with_reducible apply Kept.ofTriple (by with_reducible assumption)) | (with_reducible apply Kept.ofSome (by with_reducible assumption)) | (with_reducible apply Kept.foldl) | (with_reducible apply Kept.foldlPair) | (with_reducible apply KeptO.map) | (with_reducible apply KeptO.getD) | (with_reducible apply KeptO.some) | (with_reducible apply KeptO.none) | (extract_lets +onlyGivenNames z; refine (fun (_hz : Kept b0 z) => ?_) ?_; clear_value z) | (extract_lets +onlyGivenNames z; refine (fun (_hz : Kept b0 z.2) => ?_) ?_; clear_value z) | (extract_lets +onlyGivenNames z; refine (fun (_hz : Kept b0 z.2.2) => ?_) ?_; clear_value z) | (extract_lets +onlyGivenNames z) | split | (with_reducible apply_assumption) | (simp -zeta only [State.asUpd]) | (dsimp -zeta +zetaDelta only) | (apply Kept.ite)

theorem State.readLine_kept {b0 s0 : State} (line : Nat) (port : Nat) (kind : Nat) (found : Ecc)  (h : Kept b0 s0) : Kept b0 (State.readLine s0 line port kind found).2 := by
  unfold State.readLine
  try simp -zeta only [State.asUpd]
  repeat' first | (with_reducible assumption) | (with_reducible apply Kept.upd)  | (with_reducible apply State.eccFound_kept) | (with_reducible apply State.check_kept) | (with_reducible apply State.readsAccepted_kept) | (with_reducible apply State.memCorrected_kept) | (with_reducible apply State.memUncorrectable_kept) | (with_reducible rfl) | (refine Kept.reglSame (s := ?_) (g := ?_) ?_ (by with_reducible rfl) (by with_reducible rfl)) | (intro; try dsimp -zeta only) | (with_reducible apply Kept.ite) | (dsimp -zeta only) | (with_reducible apply Kept.ofPair (by with_reducible assumption)) | (with_reducible apply Kept.ofTriple (by with_reducible assumption)) | (with_reducible apply Kept.ofSome (by with_reducible assumption)) | (with_reducible apply Kept.foldl) | (with_reducible apply Kept.foldlPair) | (with_reducible apply KeptO.map) | (with_reducible apply KeptO.getD) | (with_reducible apply KeptO.some) | (with_reducible apply KeptO.none) | (extract_lets +onlyGivenNames z; refine (fun (_hz : Kept b0 z) => ?_) ?_; clear_value z) | (extract_lets +onlyGivenNames z; refine (fun (_hz : Kept b0 z.2) => ?_) ?_; clear_value z) | (extract_lets +onlyGivenNames z; refine (fun (_hz : Kept b0 z.2.2) => ?_) ?_; clear_value z) | (extract_lets +onlyGivenNames z) | split | (with_reducible apply_assumption) | (simp -zeta only [State.asUpd]) | (dsimp -zeta +zetaDelta only) | (apply Kept.ite)

theorem State.engineRead_kept {b0 s : State} (a : Nat) (len : Nat) (port : Nat)  (h : Kept b0 s) : Kept b0 (State.engineRead s a len port).2 := by
  unfold State.engineRead
  try simp -zeta only [State.asUpd]
  repeat' first | (with_reducible assumption) | (with_reducible apply Kept.upd)  | (with_reducible apply State.biasRead_kept) | (with_reducible apply State.memUncorrectable_kept) | (with_reducible apply State.readLine_kept) | (with_reducible rfl) | (refine Kept.reglSame (s := ?_) (g := ?_) ?_ (by with_reducible rfl) (by with_reducible rfl)) | (intro; try dsimp -zeta only) | (with_reducible apply Kept.ite) | (dsimp -zeta only) | (with_reducible apply Kept.ofPair (by with_reducible assumption)) | (with_reducible apply Kept.ofTriple (by with_reducible assumption)) | (with_reducible apply Kept.ofSome (by with_reducible assumption)) | (with_reducible apply Kept.foldl) | (with_reducible apply Kept.foldlPair) | (with_reducible apply KeptO.map) | (with_reducible apply KeptO.getD) | (with_reducible apply KeptO.some) | (with_reducible apply KeptO.none) | (extract_lets +onlyGivenNames z; refine (fun (_hz : Kept b0 z) => ?_) ?_; clear_value z) | (extract_lets +onlyGivenNames z; refine (fun (_hz : Kept b0 z.2) => ?_) ?_; clear_value z) | (extract_lets +onlyGivenNames z; refine (fun (_hz : Kept b0 z.2.2) => ?_) ?_; clear_value z) | (extract_lets +onlyGivenNames z) | split | (with_reducible apply_assumption) | (simp -zeta only [State.asUpd]) | (dsimp -zeta +zetaDelta only) | (apply Kept.ite)

theorem State.mergeWrite_kept {b0 s : State} (a : Nat) (bs : Bytes) (port : Nat) (found : Ecc)  (h : Kept b0 s) : Kept b0 (State.mergeWrite s a bs port found) := by
  unfold State.mergeWrite
  try simp -zeta only [State.asUpd]
  repeat' first | (with_reducible assumption) | (with_reducible apply Kept.upd)  | (with_reducible apply State.dramPut_kept) | (with_reducible apply State.readLine_kept) | (with_reducible rfl) | (refine Kept.reglSame (s := ?_) (g := ?_) ?_ (by with_reducible rfl) (by with_reducible rfl)) | (intro; try dsimp -zeta only) | (with_reducible apply Kept.ite) | (dsimp -zeta only) | (with_reducible apply Kept.ofPair (by with_reducible assumption)) | (with_reducible apply Kept.ofTriple (by with_reducible assumption)) | (with_reducible apply Kept.ofSome (by with_reducible assumption)) | (with_reducible apply Kept.foldl) | (with_reducible apply Kept.foldlPair) | (with_reducible apply KeptO.map) | (with_reducible apply KeptO.getD) | (with_reducible apply KeptO.some) | (with_reducible apply KeptO.none) | (extract_lets +onlyGivenNames z; refine (fun (_hz : Kept b0 z) => ?_) ?_; clear_value z) | (extract_lets +onlyGivenNames z; refine (fun (_hz : Kept b0 z.2) => ?_) ?_; clear_value z) | (extract_lets +onlyGivenNames z; refine (fun (_hz : Kept b0 z.2.2) => ?_) ?_; clear_value z) | (extract_lets +onlyGivenNames z) | split | (with_reducible apply_assumption) | (simp -zeta only [State.asUpd]) | (dsimp -zeta +zetaDelta only) | (apply Kept.ite)

theorem State.patrol_kept {b0 s : State} (line : Nat) (channel : Nat) (found : Ecc)  (h : Kept b0 s) : Kept b0 (State.patrol s line channel found) := by
  unfold State.patrol
  try simp -zeta only [State.asUpd]
  repeat' first | (with_reducible assumption) | (with_reducible apply Kept.upd)  | (with_reducible apply State.eccFound_kept) | (with_reducible apply State.memCorrected_kept) | (with_reducible apply State.memUncorrectable_kept) | (with_reducible rfl) | (refine Kept.reglSame (s := ?_) (g := ?_) ?_ (by with_reducible rfl) (by with_reducible rfl)) | (intro; try dsimp -zeta only) | (with_reducible apply Kept.ite) | (dsimp -zeta only) | (with_reducible apply Kept.ofPair (by with_reducible assumption)) | (with_reducible apply Kept.ofTriple (by with_reducible assumption)) | (with_reducible apply Kept.ofSome (by with_reducible assumption)) | (with_reducible apply Kept.foldl) | (with_reducible apply Kept.foldlPair) | (with_reducible apply KeptO.map) | (with_reducible apply KeptO.getD) | (with_reducible apply KeptO.some) | (with_reducible apply KeptO.none) | (extract_lets +onlyGivenNames z; refine (fun (_hz : Kept b0 z) => ?_) ?_; clear_value z) | (extract_lets +onlyGivenNames z; refine (fun (_hz : Kept b0 z.2) => ?_) ?_; clear_value z) | (extract_lets +onlyGivenNames z; refine (fun (_hz : Kept b0 z.2.2) => ?_) ?_; clear_value z) | (extract_lets +onlyGivenNames z) | split | (with_reducible apply_assumption) | (simp -zeta only [State.asUpd]) | (dsimp -zeta +zetaDelta only) | (apply Kept.ite)

theorem execPatrolScrub_kept (line : Nat) (channel : Nat) (ecc : Ecc) (s : State) : KeptOut s (execPatrolScrub line channel ecc s) := by
  unfold execPatrolScrub
  try simp -zeta only [State.asUpd]
  repeat' first | (with_reducible assumption) | (with_reducible exact Kept.refl _) | (with_reducible apply KeptOut.run; try dsimp -zeta only) | (with_reducible apply KeptOut.next) | (with_reducible apply Kept.upd)  | (with_reducible apply State.run_kept) | (with_reducible apply State.patrol_kept) | (with_reducible rfl) | (refine Kept.reglSame (s := ?_) (g := ?_) ?_ (by with_reducible rfl) (by with_reducible rfl)) | (intro; try dsimp -zeta only) | (with_reducible apply Kept.ite) | (dsimp -zeta only) | (with_reducible apply Kept.ofPair (by with_reducible assumption)) | (with_reducible apply Kept.ofTriple (by with_reducible assumption)) | (with_reducible apply Kept.ofSome (by with_reducible assumption)) | (with_reducible apply Kept.foldl) | (with_reducible apply Kept.foldlPair) | (with_reducible apply KeptO.map) | (with_reducible apply KeptO.getD) | (with_reducible apply KeptO.some) | (with_reducible apply KeptO.none) | (extract_lets +onlyGivenNames z; refine (fun (_hz : Kept s z) => ?_) ?_; clear_value z) | (extract_lets +onlyGivenNames z; refine (fun (_hz : Kept s z.2) => ?_) ?_; clear_value z) | (extract_lets +onlyGivenNames z; refine (fun (_hz : Kept s z.2.2) => ?_) ?_; clear_value z) | (extract_lets +onlyGivenNames z) | split | (with_reducible apply_assumption) | (simp -zeta only [State.asUpd]) | (dsimp -zeta +zetaDelta only) | (apply Kept.ite)

theorem State.errlogClear_kept {b0 s : State}   (h : Kept b0 s) : Kept b0 (State.errlogClear s) := by
  unfold State.errlogClear
  try simp -zeta only [State.asUpd]
  repeat' first | (with_reducible assumption) | (with_reducible apply Kept.upd)  | (with_reducible apply State.setFld_kept) | (with_reducible rfl) | (refine Kept.reglSame (s := ?_) (g := ?_) ?_ (by with_reducible rfl) (by with_reducible rfl)) | (intro; try dsimp -zeta only) | (with_reducible apply Kept.ite) | (dsimp -zeta only) | (with_reducible apply Kept.ofPair (by with_reducible assumption)) | (with_reducible apply Kept.ofTriple (by with_reducible assumption)) | (with_reducible apply Kept.ofSome (by with_reducible assumption)) | (with_reducible apply Kept.foldl) | (with_reducible apply Kept.foldlPair) | (with_reducible apply KeptO.map) | (with_reducible apply KeptO.getD) | (with_reducible apply KeptO.some) | (with_reducible apply KeptO.none) | (extract_lets +onlyGivenNames z; refine (fun (_hz : Kept b0 z) => ?_) ?_; clear_value z) | (extract_lets +onlyGivenNames z; refine (fun (_hz : Kept b0 z.2) => ?_) ?_; clear_value z) | (extract_lets +onlyGivenNames z; refine (fun (_hz : Kept b0 z.2.2) => ?_) ?_; clear_value z) | (extract_lets +onlyGivenNames z) | split | (with_reducible apply_assumption) | (simp -zeta only [State.asUpd]) | (dsimp -zeta +zetaDelta only) | (apply Kept.ite)

theorem execMemErrlogClear_kept (s : State) : KeptOut s (execMemErrlogClear s) := by
  unfold execMemErrlogClear
  try simp -zeta only [State.asUpd]
  repeat' first | (with_reducible assumption) | (with_reducible exact Kept.refl _) | (with_reducible apply KeptOut.run; try dsimp -zeta only) | (with_reducible apply KeptOut.next) | (with_reducible apply Kept.upd)  | (with_reducible apply State.run_kept) | (with_reducible apply State.regCmd_kept) | (with_reducible apply State.errlogClear_kept) | (with_reducible rfl) | (refine Kept.reglSame (s := ?_) (g := ?_) ?_ (by with_reducible rfl) (by with_reducible rfl)) | (intro; try dsimp -zeta only) | (with_reducible apply Kept.ite) | (dsimp -zeta only) | (with_reducible apply Kept.ofPair (by with_reducible assumption)) | (with_reducible apply Kept.ofTriple (by with_reducible assumption)) | (with_reducible apply Kept.ofSome (by with_reducible assumption)) | (with_reducible apply Kept.foldl) | (with_reducible apply Kept.foldlPair) | (with_reducible apply KeptO.map) | (with_reducible apply KeptO.getD) | (with_reducible apply KeptO.some) | (with_reducible apply KeptO.none) | (extract_lets +onlyGivenNames z; refine (fun (_hz : Kept s z) => ?_) ?_; clear_value z) | (extract_lets +onlyGivenNames z; refine (fun (_hz : Kept s z.2) => ?_) ?_; clear_value z) | (extract_lets +onlyGivenNames z; refine (fun (_hz : Kept s z.2.2) => ?_) ?_; clear_value z) | (extract_lets +onlyGivenNames z) | split | (with_reducible apply_assumption) | (simp -zeta only [State.asUpd]) | (dsimp -zeta +zetaDelta only) | (apply Kept.ite)

theorem State.zeroStep_kept {b0 s : State}   (h : Kept b0 s) : Kept b0 (State.zeroStep s) := by
  unfold State.zeroStep
  try simp -zeta only [State.asUpd]
  repeat' first | (with_reducible assumption) | (with_reducible apply Kept.upd)  | (with_reducible apply State.setFld_kept) | (with_reducible rfl) | (refine Kept.reglSame (s := ?_) (g := ?_) ?_ (by with_reducible rfl) (by with_reducible rfl)) | (intro; try dsimp -zeta only) | (with_reducible apply Kept.ite) | (dsimp -zeta only) | (with_reducible apply Kept.ofPair (by with_reducible assumption)) | (with_reducible apply Kept.ofTriple (by with_reducible assumption)) | (with_reducible apply Kept.ofSome (by with_reducible assumption)) | (with_reducible apply Kept.foldl) | (with_reducible apply Kept.foldlPair) | (with_reducible apply KeptO.map) | (with_reducible apply KeptO.getD) | (with_reducible apply KeptO.some) | (with_reducible apply KeptO.none) | (extract_lets +onlyGivenNames z; refine (fun (_hz : Kept b0 z) => ?_) ?_; clear_value z) | (extract_lets +onlyGivenNames z; refine (fun (_hz : Kept b0 z.2) => ?_) ?_; clear_value z) | (extract_lets +onlyGivenNames z; refine (fun (_hz : Kept b0 z.2.2) => ?_) ?_; clear_value z) | (extract_lets +onlyGivenNames z) | split | (with_reducible apply_assumption) | (simp -zeta only [State.asUpd]) | (dsimp -zeta +zetaDelta only) | (apply Kept.ite)

theorem execZeroChunk_kept (s : State) : KeptOut s (execZeroChunk s) := by
  unfold execZeroChunk
  try simp -zeta only [State.asUpd]
  repeat' first | (with_reducible assumption) | (with_reducible exact Kept.refl _) | (with_reducible apply KeptOut.run; try dsimp -zeta only) | (with_reducible apply KeptOut.next) | (with_reducible apply Kept.upd)  | (with_reducible apply State.run_kept) | (with_reducible apply State.zeroStep_kept) | (with_reducible rfl) | (refine Kept.reglSame (s := ?_) (g := ?_) ?_ (by with_reducible rfl) (by with_reducible rfl)) | (intro; try dsimp -zeta only) | (with_reducible apply Kept.ite) | (dsimp -zeta only) | (with_reducible apply Kept.ofPair (by with_reducible assumption)) | (with_reducible apply Kept.ofTriple (by with_reducible assumption)) | (with_reducible apply Kept.ofSome (by with_reducible assumption)) | (with_reducible apply Kept.foldl) | (with_reducible apply Kept.foldlPair) | (with_reducible apply KeptO.map) | (with_reducible apply KeptO.getD) | (with_reducible apply KeptO.some) | (with_reducible apply KeptO.none) | (extract_lets +onlyGivenNames z; refine (fun (_hz : Kept s z) => ?_) ?_; clear_value z) | (extract_lets +onlyGivenNames z; refine (fun (_hz : Kept s z.2) => ?_) ?_; clear_value z) | (extract_lets +onlyGivenNames z; refine (fun (_hz : Kept s z.2.2) => ?_) ?_; clear_value z) | (extract_lets +onlyGivenNames z) | split | (with_reducible apply_assumption) | (simp -zeta only [State.asUpd]) | (dsimp -zeta +zetaDelta only) | (apply Kept.ite)

theorem State.freqRequest_kept {b0 s : State} (target : Nat)  (h : Kept b0 s) : Kept b0 (State.freqRequest s target) := by
  unfold State.freqRequest
  try simp -zeta only [State.asUpd]
  repeat' first | (with_reducible assumption) | (with_reducible apply Kept.upd)  | (with_reducible apply State.latch_kept) | (with_reducible apply State.setFld_kept) | (with_reducible rfl) | (refine Kept.reglSame (s := ?_) (g := ?_) ?_ (by with_reducible rfl) (by with_reducible rfl)) | (intro; try dsimp -zeta only) | (with_reducible apply Kept.ite) | (dsimp -zeta only) | (with_reducible apply Kept.ofPair (by with_reducible assumption)) | (with_reducible apply Kept.ofTriple (by with_reducible assumption)) | (with_reducible apply Kept.ofSome (by with_reducible assumption)) | (with_reducible apply Kept.foldl) | (with_reducible apply Kept.foldlPair) | (with_reducible apply KeptO.map) | (with_reducible apply KeptO.getD) | (with_reducible apply KeptO.some) | (with_reducible apply KeptO.none) | (extract_lets +onlyGivenNames z; refine (fun (_hz : Kept b0 z) => ?_) ?_; clear_value z) | (extract_lets +onlyGivenNames z; refine (fun (_hz : Kept b0 z.2) => ?_) ?_; clear_value z) | (extract_lets +onlyGivenNames z; refine (fun (_hz : Kept b0 z.2.2) => ?_) ?_; clear_value z) | (extract_lets +onlyGivenNames z) | split | (with_reducible apply_assumption) | (simp -zeta only [State.asUpd]) | (dsimp -zeta +zetaDelta only) | (apply Kept.ite)

theorem State.freqCtl_kept {b0 s : State} (v : Nat)  (h : Kept b0 s) : Kept b0 (State.freqCtl s v) := by
  unfold State.freqCtl
  try simp -zeta only [State.asUpd]
  repeat' first | (with_reducible assumption) | (with_reducible apply Kept.upd)  | (with_reducible apply State.setFld_kept) | (with_reducible apply State.freqRequest_kept) | (with_reducible rfl) | (refine Kept.reglSame (s := ?_) (g := ?_) ?_ (by with_reducible rfl) (by with_reducible rfl)) | (intro; try dsimp -zeta only) | (with_reducible apply Kept.ite) | (dsimp -zeta only) | (with_reducible apply Kept.ofPair (by with_reducible assumption)) | (with_reducible apply Kept.ofTriple (by with_reducible assumption)) | (with_reducible apply Kept.ofSome (by with_reducible assumption)) | (with_reducible apply Kept.foldl) | (with_reducible apply Kept.foldlPair) | (with_reducible apply KeptO.map) | (with_reducible apply KeptO.getD) | (with_reducible apply KeptO.some) | (with_reducible apply KeptO.none) | (extract_lets +onlyGivenNames z; refine (fun (_hz : Kept b0 z) => ?_) ?_; clear_value z) | (extract_lets +onlyGivenNames z; refine (fun (_hz : Kept b0 z.2) => ?_) ?_; clear_value z) | (extract_lets +onlyGivenNames z; refine (fun (_hz : Kept b0 z.2.2) => ?_) ?_; clear_value z) | (extract_lets +onlyGivenNames z) | split | (with_reducible apply_assumption) | (simp -zeta only [State.asUpd]) | (dsimp -zeta +zetaDelta only) | (apply Kept.ite)

theorem execMemFreqGo_kept (v : Word) (s : State) : KeptOut s (execMemFreqGo v s) := by
  unfold execMemFreqGo
  try simp -zeta only [State.asUpd]
  repeat' first | (with_reducible assumption) | (with_reducible exact Kept.refl _) | (with_reducible apply KeptOut.run; try dsimp -zeta only) | (with_reducible apply KeptOut.next) | (with_reducible apply Kept.upd)  | (with_reducible apply State.run_kept) | (with_reducible apply State.regCmd_kept) | (with_reducible apply State.freqCtl_kept) | (with_reducible rfl) | (refine Kept.reglSame (s := ?_) (g := ?_) ?_ (by with_reducible rfl) (by with_reducible rfl)) | (intro; try dsimp -zeta only) | (with_reducible apply Kept.ite) | (dsimp -zeta only) | (with_reducible apply Kept.ofPair (by with_reducible assumption)) | (with_reducible apply Kept.ofTriple (by with_reducible assumption)) | (with_reducible apply Kept.ofSome (by with_reducible assumption)) | (with_reducible apply Kept.foldl) | (with_reducible apply Kept.foldlPair) | (with_reducible apply KeptO.map) | (with_reducible apply KeptO.getD) | (with_reducible apply KeptO.some) | (with_reducible apply KeptO.none) | (extract_lets +onlyGivenNames z; refine (fun (_hz : Kept s z) => ?_) ?_; clear_value z) | (extract_lets +onlyGivenNames z; refine (fun (_hz : Kept s z.2) => ?_) ?_; clear_value z) | (extract_lets +onlyGivenNames z; refine (fun (_hz : Kept s z.2.2) => ?_) ?_; clear_value z) | (extract_lets +onlyGivenNames z) | split | (with_reducible apply_assumption) | (simp -zeta only [State.asUpd]) | (dsimp -zeta +zetaDelta only) | (apply Kept.ite)

theorem State.freqDone_kept {b0 s : State}   (h : Kept b0 s) : Kept b0 (State.freqDone s) := by
  unfold State.freqDone
  try simp -zeta only [State.asUpd]
  repeat' first | (with_reducible assumption) | (with_reducible apply Kept.upd)  | (with_reducible apply State.setFld_kept) | (with_reducible rfl) | (refine Kept.reglSame (s := ?_) (g := ?_) ?_ (by with_reducible rfl) (by with_reducible rfl)) | (intro; try dsimp -zeta only) | (with_reducible apply Kept.ite) | (dsimp -zeta only) | (with_reducible apply Kept.ofPair (by with_reducible assumption)) | (with_reducible apply Kept.ofTriple (by with_reducible assumption)) | (with_reducible apply Kept.ofSome (by with_reducible assumption)) | (with_reducible apply Kept.foldl) | (with_reducible apply Kept.foldlPair) | (with_reducible apply KeptO.map) | (with_reducible apply KeptO.getD) | (with_reducible apply KeptO.some) | (with_reducible apply KeptO.none) | (extract_lets +onlyGivenNames z; refine (fun (_hz : Kept b0 z) => ?_) ?_; clear_value z) | (extract_lets +onlyGivenNames z; refine (fun (_hz : Kept b0 z.2) => ?_) ?_; clear_value z) | (extract_lets +onlyGivenNames z; refine (fun (_hz : Kept b0 z.2.2) => ?_) ?_; clear_value z) | (extract_lets +onlyGivenNames z) | split | (with_reducible apply_assumption) | (simp -zeta only [State.asUpd]) | (dsimp -zeta +zetaDelta only) | (apply Kept.ite)

theorem State.timingWrite_kept {b0 s : State} (f : Nat) (w : Nat) (v : Nat)  (h : Kept b0 s) : Kept b0 (State.timingWrite s f w v) := by
  unfold State.timingWrite
  try simp -zeta only [State.asUpd]
  repeat' first | (with_reducible assumption) | (with_reducible apply Kept.upd)  | (with_reducible apply State.latch_kept) | (with_reducible apply State.setFld_kept) | (with_reducible rfl) | (refine Kept.reglSame (s := ?_) (g := ?_) ?_ (by with_reducible rfl) (by with_reducible rfl)) | (intro; try dsimp -zeta only) | (with_reducible apply Kept.ite) | (dsimp -zeta only) | (with_reducible apply Kept.ofPair (by with_reducible assumption)) | (with_reducible apply Kept.ofTriple (by with_reducible assumption)) | (with_reducible apply Kept.ofSome (by with_reducible assumption)) | (with_reducible apply Kept.foldl) | (with_reducible apply Kept.foldlPair) | (with_reducible apply KeptO.map) | (with_reducible apply KeptO.getD) | (with_reducible apply KeptO.some) | (with_reducible apply KeptO.none) | (extract_lets +onlyGivenNames z; refine (fun (_hz : Kept b0 z) => ?_) ?_; clear_value z) | (extract_lets +onlyGivenNames z; refine (fun (_hz : Kept b0 z.2) => ?_) ?_; clear_value z) | (extract_lets +onlyGivenNames z; refine (fun (_hz : Kept b0 z.2.2) => ?_) ?_; clear_value z) | (extract_lets +onlyGivenNames z) | split | (with_reducible apply_assumption) | (simp -zeta only [State.asUpd]) | (dsimp -zeta +zetaDelta only) | (apply Kept.ite)

theorem execMemTimingWrite_kept (f : Nat) (w : Nat) (v : Word) (s : State) : KeptOut s (execMemTimingWrite f w v s) := by
  unfold execMemTimingWrite
  try simp -zeta only [State.asUpd]
  repeat' first | (with_reducible assumption) | (with_reducible exact Kept.refl _) | (with_reducible apply KeptOut.run; try dsimp -zeta only) | (with_reducible apply KeptOut.next) | (with_reducible apply Kept.upd)  | (with_reducible apply State.run_kept) | (with_reducible apply State.regCmd_kept) | (with_reducible apply State.timingWrite_kept) | (with_reducible rfl) | (refine Kept.reglSame (s := ?_) (g := ?_) ?_ (by with_reducible rfl) (by with_reducible rfl)) | (intro; try dsimp -zeta only) | (with_reducible apply Kept.ite) | (dsimp -zeta only) | (with_reducible apply Kept.ofPair (by with_reducible assumption)) | (with_reducible apply Kept.ofTriple (by with_reducible assumption)) | (with_reducible apply Kept.ofSome (by with_reducible assumption)) | (with_reducible apply Kept.foldl) | (with_reducible apply Kept.foldlPair) | (with_reducible apply KeptO.map) | (with_reducible apply KeptO.getD) | (with_reducible apply KeptO.some) | (with_reducible apply KeptO.none) | (extract_lets +onlyGivenNames z; refine (fun (_hz : Kept s z) => ?_) ?_; clear_value z) | (extract_lets +onlyGivenNames z; refine (fun (_hz : Kept s z.2) => ?_) ?_; clear_value z) | (extract_lets +onlyGivenNames z; refine (fun (_hz : Kept s z.2.2) => ?_) ?_; clear_value z) | (extract_lets +onlyGivenNames z) | split | (with_reducible apply_assumption) | (simp -zeta only [State.asUpd]) | (dsimp -zeta +zetaDelta only) | (apply Kept.ite)

theorem State.xferEnd_kept {b0 s : State} (result : Nat)  (h : Kept b0 s) : Kept b0 (State.xferEnd s result) := by
  unfold State.xferEnd
  try simp -zeta only [State.asUpd]
  repeat' first | (with_reducible assumption) | (with_reducible apply Kept.upd)  | (with_reducible apply State.setFld_kept) | (with_reducible rfl) | (refine Kept.reglSame (s := ?_) (g := ?_) ?_ (by with_reducible rfl) (by with_reducible rfl)) | (intro; try dsimp -zeta only) | (with_reducible apply Kept.ite) | (dsimp -zeta only) | (with_reducible apply Kept.ofPair (by with_reducible assumption)) | (with_reducible apply Kept.ofTriple (by with_reducible assumption)) | (with_reducible apply Kept.ofSome (by with_reducible assumption)) | (with_reducible apply Kept.foldl) | (with_reducible apply Kept.foldlPair) | (with_reducible apply KeptO.map) | (with_reducible apply KeptO.getD) | (with_reducible apply KeptO.some) | (with_reducible apply KeptO.none) | (extract_lets +onlyGivenNames z; refine (fun (_hz : Kept b0 z) => ?_) ?_; clear_value z) | (extract_lets +onlyGivenNames z; refine (fun (_hz : Kept b0 z.2) => ?_) ?_; clear_value z) | (extract_lets +onlyGivenNames z; refine (fun (_hz : Kept b0 z.2.2) => ?_) ?_; clear_value z) | (extract_lets +onlyGivenNames z) | split | (with_reducible apply_assumption) | (simp -zeta only [State.asUpd]) | (dsimp -zeta +zetaDelta only) | (apply Kept.ite)

theorem State.xferCtl_kept {b0 s : State} (v : Nat)  (h : Kept b0 s) : Kept b0 (State.xferCtl s v) := by
  unfold State.xferCtl
  try simp -zeta only [State.asUpd]
  repeat' first | (with_reducible assumption) | (with_reducible apply Kept.upd)  | (with_reducible apply State.setFld_kept) | (with_reducible apply State.latch_kept) | (with_reducible apply State.xferEnd_kept) | (with_reducible rfl) | (refine Kept.reglSame (s := ?_) (g := ?_) ?_ (by with_reducible rfl) (by with_reducible rfl)) | (intro; try dsimp -zeta only) | (with_reducible apply Kept.ite) | (dsimp -zeta only) | (with_reducible apply Kept.ofPair (by with_reducible assumption)) | (with_reducible apply Kept.ofTriple (by with_reducible assumption)) | (with_reducible apply Kept.ofSome (by with_reducible assumption)) | (with_reducible apply Kept.foldl) | (with_reducible apply Kept.foldlPair) | (with_reducible apply KeptO.map) | (with_reducible apply KeptO.getD) | (with_reducible apply KeptO.some) | (with_reducible apply KeptO.none) | (extract_lets +onlyGivenNames z; refine (fun (_hz : Kept b0 z) => ?_) ?_; clear_value z) | (extract_lets +onlyGivenNames z; refine (fun (_hz : Kept b0 z.2) => ?_) ?_; clear_value z) | (extract_lets +onlyGivenNames z; refine (fun (_hz : Kept b0 z.2.2) => ?_) ?_; clear_value z) | (extract_lets +onlyGivenNames z) | split | (with_reducible apply_assumption) | (simp -zeta only [State.asUpd]) | (dsimp -zeta +zetaDelta only) | (apply Kept.ite)

theorem execKstXferGo_kept (v : Word) (s : State) : KeptOut s (execKstXferGo v s) := by
  unfold execKstXferGo
  try simp -zeta only [State.asUpd]
  repeat' first | (with_reducible assumption) | (with_reducible exact Kept.refl _) | (with_reducible apply KeptOut.run; try dsimp -zeta only) | (with_reducible apply KeptOut.next) | (with_reducible apply Kept.upd)  | (with_reducible apply State.run_kept) | (with_reducible apply State.regCmd_kept) | (with_reducible apply State.xferCtl_kept) | (with_reducible rfl) | (refine Kept.reglSame (s := ?_) (g := ?_) ?_ (by with_reducible rfl) (by with_reducible rfl)) | (intro; try dsimp -zeta only) | (with_reducible apply Kept.ite) | (dsimp -zeta only) | (with_reducible apply Kept.ofPair (by with_reducible assumption)) | (with_reducible apply Kept.ofTriple (by with_reducible assumption)) | (with_reducible apply Kept.ofSome (by with_reducible assumption)) | (with_reducible apply Kept.foldl) | (with_reducible apply Kept.foldlPair) | (with_reducible apply KeptO.map) | (with_reducible apply KeptO.getD) | (with_reducible apply KeptO.some) | (with_reducible apply KeptO.none) | (extract_lets +onlyGivenNames z; refine (fun (_hz : Kept s z) => ?_) ?_; clear_value z) | (extract_lets +onlyGivenNames z; refine (fun (_hz : Kept s z.2) => ?_) ?_; clear_value z) | (extract_lets +onlyGivenNames z; refine (fun (_hz : Kept s z.2.2) => ?_) ?_; clear_value z) | (extract_lets +onlyGivenNames z) | split | (with_reducible apply_assumption) | (simp -zeta only [State.asUpd]) | (dsimp -zeta +zetaDelta only) | (apply Kept.ite)

theorem State.xferRead_kept {b0 s : State} (off : Nat) (dst : Nat) (y3 : Nat)  (h : Kept b0 s) : Kept b0 (State.xferRead s off dst y3) := by
  fun_induction State.xferRead s off dst y3 <;> try simp -zeta only [State.asUpd]
  all_goals repeat' first | (with_reducible assumption) | (with_reducible apply Kept.upd)  | (with_reducible apply State.xferEnd_kept) | (with_reducible apply State.eccCheck_kept) | (with_reducible apply State.latch_kept) | (with_reducible apply State.devWrite_kept) | (with_reducible rfl) | (refine Kept.reglSame (s := ?_) (g := ?_) ?_ (by with_reducible rfl) (by with_reducible rfl)) | (intro; try dsimp -zeta only) | (with_reducible apply Kept.ite) | (dsimp -zeta only) | (with_reducible apply Kept.ofPair (by with_reducible assumption)) | (with_reducible apply Kept.ofTriple (by with_reducible assumption)) | (with_reducible apply Kept.ofSome (by with_reducible assumption)) | (with_reducible apply Kept.foldl) | (with_reducible apply Kept.foldlPair) | (with_reducible apply KeptO.map) | (with_reducible apply KeptO.getD) | (with_reducible apply KeptO.some) | (with_reducible apply KeptO.none) | (extract_lets +onlyGivenNames z; refine (fun (_hz : Kept b0 z) => ?_) ?_; clear_value z) | (extract_lets +onlyGivenNames z; refine (fun (_hz : Kept b0 z.2) => ?_) ?_; clear_value z) | (extract_lets +onlyGivenNames z; refine (fun (_hz : Kept b0 z.2.2) => ?_) ?_; clear_value z) | (extract_lets +onlyGivenNames z) | split | (with_reducible apply_assumption) | (simp -zeta only [State.asUpd]) | (dsimp -zeta +zetaDelta only) | (apply Kept.ite)

theorem State.xferWrite_kept {b0 s : State} (off : Nat) (dst : Nat) (y3 : Nat)  (h : Kept b0 s) : Kept b0 (State.xferWrite s off dst y3) := by
  fun_induction State.xferWrite s off dst y3 <;> try simp -zeta only [State.asUpd]
  all_goals repeat' first | (with_reducible assumption) | (with_reducible apply Kept.upd)  | (with_reducible apply State.xferEnd_kept) | (with_reducible apply State.engineRead_kept) | (with_reducible apply State.kstWrite_kept) | (with_reducible apply State.wearOut_kept) | (with_reducible rfl) | (refine Kept.reglSame (s := ?_) (g := ?_) ?_ (by with_reducible rfl) (by with_reducible rfl)) | (intro; try dsimp -zeta only) | (with_reducible apply Kept.ite) | (dsimp -zeta only) | (with_reducible apply Kept.ofPair (by with_reducible assumption)) | (with_reducible apply Kept.ofTriple (by with_reducible assumption)) | (with_reducible apply Kept.ofSome (by with_reducible assumption)) | (with_reducible apply Kept.foldl) | (with_reducible apply Kept.foldlPair) | (with_reducible apply KeptO.map) | (with_reducible apply KeptO.getD) | (with_reducible apply KeptO.some) | (with_reducible apply KeptO.none) | (extract_lets +onlyGivenNames z; refine (fun (_hz : Kept b0 z) => ?_) ?_; clear_value z) | (extract_lets +onlyGivenNames z; refine (fun (_hz : Kept b0 z.2) => ?_) ?_; clear_value z) | (extract_lets +onlyGivenNames z; refine (fun (_hz : Kept b0 z.2.2) => ?_) ?_; clear_value z) | (extract_lets +onlyGivenNames z) | split | (with_reducible apply_assumption) | (simp -zeta only [State.asUpd]) | (dsimp -zeta +zetaDelta only) | (apply Kept.ite)

theorem State.xferDone_kept {b0 s : State}   (h : Kept b0 s) : Kept b0 (State.xferDone s) := by
  unfold State.xferDone
  try simp -zeta only [State.asUpd]
  repeat' first | (with_reducible assumption) | (with_reducible apply Kept.upd)  | (with_reducible apply State.xferWrite_kept) | (with_reducible apply State.xferRead_kept) | (with_reducible rfl) | (refine Kept.reglSame (s := ?_) (g := ?_) ?_ (by with_reducible rfl) (by with_reducible rfl)) | (intro; try dsimp -zeta only) | (with_reducible apply Kept.ite) | (dsimp -zeta only) | (with_reducible apply Kept.ofPair (by with_reducible assumption)) | (with_reducible apply Kept.ofTriple (by with_reducible assumption)) | (with_reducible apply Kept.ofSome (by with_reducible assumption)) | (with_reducible apply Kept.foldl) | (with_reducible apply Kept.foldlPair) | (with_reducible apply KeptO.map) | (with_reducible apply KeptO.getD) | (with_reducible apply KeptO.some) | (with_reducible apply KeptO.none) | (extract_lets +onlyGivenNames z; refine (fun (_hz : Kept b0 z) => ?_) ?_; clear_value z) | (extract_lets +onlyGivenNames z; refine (fun (_hz : Kept b0 z.2) => ?_) ?_; clear_value z) | (extract_lets +onlyGivenNames z; refine (fun (_hz : Kept b0 z.2.2) => ?_) ?_; clear_value z) | (extract_lets +onlyGivenNames z) | split | (with_reducible apply_assumption) | (simp -zeta only [State.asUpd]) | (dsimp -zeta +zetaDelta only) | (apply Kept.ite)

theorem execKstXferDone_kept (s : State) : KeptOut s (execKstXferDone s) := by
  unfold execKstXferDone
  try simp -zeta only [State.asUpd]
  repeat' first | (with_reducible assumption) | (with_reducible exact Kept.refl _) | (with_reducible apply KeptOut.run; try dsimp -zeta only) | (with_reducible apply KeptOut.next) | (with_reducible apply Kept.upd)  | (with_reducible apply State.run_kept) | (with_reducible apply State.xferDone_kept) | (with_reducible rfl) | (refine Kept.reglSame (s := ?_) (g := ?_) ?_ (by with_reducible rfl) (by with_reducible rfl)) | (intro; try dsimp -zeta only) | (with_reducible apply Kept.ite) | (dsimp -zeta only) | (with_reducible apply Kept.ofPair (by with_reducible assumption)) | (with_reducible apply Kept.ofTriple (by with_reducible assumption)) | (with_reducible apply Kept.ofSome (by with_reducible assumption)) | (with_reducible apply Kept.foldl) | (with_reducible apply Kept.foldlPair) | (with_reducible apply KeptO.map) | (with_reducible apply KeptO.getD) | (with_reducible apply KeptO.some) | (with_reducible apply KeptO.none) | (extract_lets +onlyGivenNames z; refine (fun (_hz : Kept s z) => ?_) ?_; clear_value z) | (extract_lets +onlyGivenNames z; refine (fun (_hz : Kept s z.2) => ?_) ?_; clear_value z) | (extract_lets +onlyGivenNames z; refine (fun (_hz : Kept s z.2.2) => ?_) ?_; clear_value z) | (extract_lets +onlyGivenNames z) | split | (with_reducible apply_assumption) | (simp -zeta only [State.asUpd]) | (dsimp -zeta +zetaDelta only) | (apply Kept.ite)

end Sys2Proof.Machine
end

