-- ==== Sys2Proof/Laws/KeepPool.lean ====
section
/-! SUPPORT. What every operation of Machine/Pool.lean keeps (`Kept`): the variant, the queue, and the canonical form of the
memories. -/

set_option Elab.async false
set_option linter.all false

namespace Sys2Proof.Machine

theorem State.setOwn_kept {b0 s : State} (o : Nat) (x : Owner)  (h : Kept b0 s) : Kept b0 (State.setOwn s o x) := by
  unfold State.setOwn
  try simp -zeta only [State.asUpd]
  repeat' first | (with_reducible assumption) | (with_reducible apply Kept.upd)   | (with_reducible rfl) | (refine Kept.reglSame (s := ?_) (g := ?_) ?_ (by with_reducible rfl) (by with_reducible rfl)) | (intro; try dsimp -zeta only) | (with_reducible apply Kept.ite) | (dsimp -zeta only) | (with_reducible apply Kept.ofPair (by with_reducible assumption)) | (with_reducible apply Kept.ofTriple (by with_reducible assumption)) | (with_reducible apply Kept.ofSome (by with_reducible assumption)) | (with_reducible apply Kept.foldl) | (with_reducible apply Kept.foldlPair) | (with_reducible apply KeptO.map) | (with_reducible apply KeptO.getD) | (with_reducible apply KeptO.some) | (with_reducible apply KeptO.none) | (extract_lets +onlyGivenNames z; refine (fun (_hz : Kept b0 z) => ?_) ?_; clear_value z) | (extract_lets +onlyGivenNames z; refine (fun (_hz : Kept b0 z.2) => ?_) ?_; clear_value z) | (extract_lets +onlyGivenNames z; refine (fun (_hz : Kept b0 z.2.2) => ?_) ?_; clear_value z) | (extract_lets +onlyGivenNames z) | split | (with_reducible apply_assumption) | (simp -zeta only [State.asUpd]) | (dsimp -zeta +zetaDelta only) | (apply Kept.ite)

theorem State.named_kept {b0 s : State} (o : Nat) (up : Nat) (down : Nat)  (h : Kept b0 s) : Kept b0 (State.named s o up down) := by
  unfold State.named
  try simp -zeta only [State.asUpd]
  repeat' first | (with_reducible assumption) | (with_reducible apply Kept.upd)  | (with_reducible apply State.setOwn_kept) | (with_reducible rfl) | (refine Kept.reglSame (s := ?_) (g := ?_) ?_ (by with_reducible rfl) (by with_reducible rfl)) | (intro; try dsimp -zeta only) | (with_reducible apply Kept.ite) | (dsimp -zeta only) | (with_reducible apply Kept.ofPair (by with_reducible assumption)) | (with_reducible apply Kept.ofTriple (by with_reducible assumption)) | (with_reducible apply Kept.ofSome (by with_reducible assumption)) | (with_reducible apply Kept.foldl) | (with_reducible apply Kept.foldlPair) | (with_reducible apply KeptO.map) | (with_reducible apply KeptO.getD) | (with_reducible apply KeptO.some) | (with_reducible apply KeptO.none) | (extract_lets +onlyGivenNames z; refine (fun (_hz : Kept b0 z) => ?_) ?_; clear_value z) | (extract_lets +onlyGivenNames z; refine (fun (_hz : Kept b0 z.2) => ?_) ?_; clear_value z) | (extract_lets +onlyGivenNames z; refine (fun (_hz : Kept b0 z.2.2) => ?_) ?_; clear_value z) | (extract_lets +onlyGivenNames z) | split | (with_reducible apply_assumption) | (simp -zeta only [State.asUpd]) | (dsimp -zeta +zetaDelta only) | (apply Kept.ite)

theorem State.held_kept {b0 s : State} (o : Nat) (up : Nat) (down : Nat)  (h : Kept b0 s) : Kept b0 (State.held s o up down) := by
  unfold State.held
  try simp -zeta only [State.asUpd]
  repeat' first | (with_reducible assumption) | (with_reducible apply Kept.upd)  | (with_reducible apply State.setOwn_kept) | (with_reducible rfl) | (refine Kept.reglSame (s := ?_) (g := ?_) ?_ (by with_reducible rfl) (by with_reducible rfl)) | (intro; try dsimp -zeta only) | (with_reducible apply Kept.ite) | (dsimp -zeta only) | (with_reducible apply Kept.ofPair (by with_reducible assumption)) | (with_reducible apply Kept.ofTriple (by with_reducible assumption)) | (with_reducible apply Kept.ofSome (by with_reducible assumption)) | (with_reducible apply Kept.foldl) | (with_reducible apply Kept.foldlPair) | (with_reducible apply KeptO.map) | (with_reducible apply KeptO.getD) | (with_reducible apply KeptO.some) | (with_reducible apply KeptO.none) | (extract_lets +onlyGivenNames z; refine (fun (_hz : Kept b0 z) => ?_) ?_; clear_value z) | (extract_lets +onlyGivenNames z; refine (fun (_hz : Kept b0 z.2) => ?_) ?_; clear_value z) | (extract_lets +onlyGivenNames z; refine (fun (_hz : Kept b0 z.2.2) => ?_) ?_; clear_value z) | (extract_lets +onlyGivenNames z) | split | (with_reducible apply_assumption) | (simp -zeta only [State.asUpd]) | (dsimp -zeta +zetaDelta only) | (apply Kept.ite)

theorem State.setPool_kept {b0 s : State} (x : Nat) (p : Pool)  (h : Kept b0 s) : Kept b0 (State.setPool s x p) := by
  unfold State.setPool
  try simp -zeta only [State.asUpd]
  repeat' first | (with_reducible assumption) | (with_reducible apply Kept.upd)   | (with_reducible rfl) | (refine Kept.reglSame (s := ?_) (g := ?_) ?_ (by with_reducible rfl) (by with_reducible rfl)) | (intro; try dsimp -zeta only) | (with_reducible apply Kept.ite) | (dsimp -zeta only) | (with_reducible apply Kept.ofPair (by with_reducible assumption)) | (with_reducible apply Kept.ofTriple (by with_reducible assumption)) | (with_reducible apply Kept.ofSome (by with_reducible assumption)) | (with_reducible apply Kept.foldl) | (with_reducible apply Kept.foldlPair) | (with_reducible apply KeptO.map) | (with_reducible apply KeptO.getD) | (with_reducible apply KeptO.some) | (with_reducible apply KeptO.none) | (extract_lets +onlyGivenNames z; refine (fun (_hz : Kept b0 z) => ?_) ?_; clear_value z) | (extract_lets +onlyGivenNames z; refine (fun (_hz : Kept b0 z.2) => ?_) ?_; clear_value z) | (extract_lets +onlyGivenNames z; refine (fun (_hz : Kept b0 z.2.2) => ?_) ?_; clear_value z) | (extract_lets +onlyGivenNames z) | split | (with_reducible apply_assumption) | (simp -zeta only [State.asUpd]) | (dsimp -zeta +zetaDelta only) | (apply Kept.ite)

theorem State.setBuf_kept {b0 s : State} (b : Nat) (x : Buf)  (h : Kept b0 s) : Kept b0 (State.setBuf s b x) := by
  unfold State.setBuf
  try simp -zeta only [State.asUpd]
  repeat' first | (with_reducible assumption) | (with_reducible apply Kept.upd)   | (with_reducible rfl) | (refine Kept.reglSame (s := ?_) (g := ?_) ?_ (by with_reducible rfl) (by with_reducible rfl)) | (intro; try dsimp -zeta only) | (with_reducible apply Kept.ite) | (dsimp -zeta only) | (with_reducible apply Kept.ofPair (by with_reducible assumption)) | (with_reducible apply Kept.ofTriple (by with_reducible assumption)) | (with_reducible apply Kept.ofSome (by with_reducible assumption)) | (with_reducible apply Kept.foldl) | (with_reducible apply Kept.foldlPair) | (with_reducible apply KeptO.map) | (with_reducible apply KeptO.getD) | (with_reducible apply KeptO.some) | (with_reducible apply KeptO.none) | (extract_lets +onlyGivenNames z; refine (fun (_hz : Kept b0 z) => ?_) ?_; clear_value z) | (extract_lets +onlyGivenNames z; refine (fun (_hz : Kept b0 z.2) => ?_) ?_; clear_value z) | (extract_lets +onlyGivenNames z; refine (fun (_hz : Kept b0 z.2.2) => ?_) ?_; clear_value z) | (extract_lets +onlyGivenNames z) | split | (with_reducible apply_assumption) | (simp -zeta only [State.asUpd]) | (dsimp -zeta +zetaDelta only) | (apply Kept.ite)

theorem State.touch_kept {b0 s : State} (b : Nat) (h : Kept b0 s) : Kept b0 (s.touch b) := by
  unfold State.touch
  repeat' first
    | exact h
    | exact State.touchDram_kept _ _ h
    | exact Kept.put h id id id (fun w => Mem.wf_writeBytes _ _ w) id id
    | split

theorem State.bufWrite_kept {s0 s : State} (b off : Nat) (bs : Bytes) (h : Kept s0 s) : Kept s0 (s.bufWrite b off bs) := by
  unfold State.bufWrite
  split
  · exact Kept.put h id id id (fun w => Mem.wf_writeBytes bs _ w) id id
  · exact State.dramPut_kept _ _ h

theorem State.thread_kept {b0 s : State} (b : Nat) (next : Nat)  (h : Kept b0 s) : Kept b0 (State.thread s b next) := by
  unfold State.thread
  try simp -zeta only [State.asUpd]
  repeat' first | (with_reducible assumption) | (with_reducible apply Kept.upd)  | (with_reducible apply State.bufWrite_kept) | (with_reducible rfl) | (refine Kept.reglSame (s := ?_) (g := ?_) ?_ (by with_reducible rfl) (by with_reducible rfl)) | (intro; try dsimp -zeta only) | (with_reducible apply Kept.ite) | (dsimp -zeta only) | (with_reducible apply Kept.ofPair (by with_reducible assumption)) | (with_reducible apply Kept.ofTriple (by with_reducible assumption)) | (with_reducible apply Kept.ofSome (by with_reducible assumption)) | (with_reducible apply Kept.foldl) | (with_reducible apply Kept.foldlPair) | (with_reducible apply KeptO.map) | (with_reducible apply KeptO.getD) | (with_reducible apply KeptO.some) | (with_reducible apply KeptO.none) | (extract_lets +onlyGivenNames z; refine (fun (_hz : Kept b0 z) => ?_) ?_; clear_value z) | (extract_lets +onlyGivenNames z; refine (fun (_hz : Kept b0 z.2) => ?_) ?_; clear_value z) | (extract_lets +onlyGivenNames z; refine (fun (_hz : Kept b0 z.2.2) => ?_) ?_; clear_value z) | (extract_lets +onlyGivenNames z) | split | (with_reducible apply_assumption) | (simp -zeta only [State.asUpd]) | (dsimp -zeta +zetaDelta only) | (apply Kept.ite)

theorem State.pushFree_kept {b0 s : State} (b : Nat)  (h : Kept b0 s) : Kept b0 (State.pushFree s b) := by
  unfold State.pushFree
  try simp -zeta only [State.asUpd]
  repeat' first | (with_reducible assumption) | (with_reducible apply Kept.upd)  | (with_reducible apply State.thread_kept) | (with_reducible apply State.setBuf_kept) | (with_reducible apply State.setPool_kept) | (with_reducible rfl) | (refine Kept.reglSame (s := ?_) (g := ?_) ?_ (by with_reducible rfl) (by with_reducible rfl)) | (intro; try dsimp -zeta only) | (with_reducible apply Kept.ite) | (dsimp -zeta only) | (with_reducible apply Kept.ofPair (by with_reducible assumption)) | (with_reducible apply Kept.ofTriple (by with_reducible assumption)) | (with_reducible apply Kept.ofSome (by with_reducible assumption)) | (with_reducible apply Kept.foldl) | (with_reducible apply Kept.foldlPair) | (with_reducible apply KeptO.map) | (with_reducible apply KeptO.getD) | (with_reducible apply KeptO.some) | (with_reducible apply KeptO.none) | (extract_lets +onlyGivenNames z; refine (fun (_hz : Kept b0 z) => ?_) ?_; clear_value z) | (extract_lets +onlyGivenNames z; refine (fun (_hz : Kept b0 z.2) => ?_) ?_; clear_value z) | (extract_lets +onlyGivenNames z; refine (fun (_hz : Kept b0 z.2.2) => ?_) ?_; clear_value z) | (extract_lets +onlyGivenNames z) | split | (with_reducible apply_assumption) | (simp -zeta only [State.asUpd]) | (dsimp -zeta +zetaDelta only) | (apply Kept.ite)

theorem State.rebuild_kept {b0 s : State} (x : Nat)  (h : Kept b0 s) : Kept b0 (State.rebuild s x) := by
  unfold State.rebuild
  try simp -zeta only [State.asUpd]
  repeat' first | (with_reducible assumption) | (with_reducible apply Kept.upd)  | (with_reducible apply State.thread_kept) | (with_reducible apply State.setBuf_kept) | (with_reducible apply State.setPool_kept) | (with_reducible rfl) | (refine Kept.reglSame (s := ?_) (g := ?_) ?_ (by with_reducible rfl) (by with_reducible rfl)) | (intro; try dsimp -zeta only) | (with_reducible apply Kept.ite) | (dsimp -zeta only) | (with_reducible apply Kept.ofPair (by with_reducible assumption)) | (with_reducible apply Kept.ofTriple (by with_reducible assumption)) | (with_reducible apply Kept.ofSome (by with_reducible assumption)) | (with_reducible apply Kept.foldl) | (with_reducible apply Kept.foldlPair) | (with_reducible apply KeptO.map) | (with_reducible apply KeptO.getD) | (with_reducible apply KeptO.some) | (with_reducible apply KeptO.none) | (extract_lets +onlyGivenNames z; refine (fun (_hz : Kept b0 z) => ?_) ?_; clear_value z) | (extract_lets +onlyGivenNames z; refine (fun (_hz : Kept b0 z.2) => ?_) ?_; clear_value z) | (extract_lets +onlyGivenNames z; refine (fun (_hz : Kept b0 z.2.2) => ?_) ?_; clear_value z) | (extract_lets +onlyGivenNames z) | split | (with_reducible apply_assumption) | (simp -zeta only [State.asUpd]) | (dsimp -zeta +zetaDelta only) | (apply Kept.ite)

theorem State.takeHead_kept {b0 s : State} (x : Nat)  (h : Kept b0 s) : Kept b0 (State.takeHead s x).2 := by
  unfold State.takeHead
  try simp -zeta only [State.asUpd]
  repeat' first | (with_reducible assumption) | (with_reducible apply Kept.upd)  | (with_reducible apply State.takeInject_kept) | (with_reducible apply State.latch_kept) | (with_reducible apply State.setFld_kept) | (with_reducible apply State.setPool_kept) | (with_reducible apply State.touch_kept) | (with_reducible rfl) | (refine Kept.reglSame (s := ?_) (g := ?_) ?_ (by with_reducible rfl) (by with_reducible rfl)) | (intro; try dsimp -zeta only) | (with_reducible apply Kept.ite) | (dsimp -zeta only) | (with_reducible apply Kept.ofPair (by with_reducible assumption)) | (with_reducible apply Kept.ofTriple (by with_reducible assumption)) | (with_reducible apply Kept.ofSome (by with_reducible assumption)) | (with_reducible apply Kept.foldl) | (with_reducible apply Kept.foldlPair) | (with_reducible apply KeptO.map) | (with_reducible apply KeptO.getD) | (with_reducible apply KeptO.some) | (with_reducible apply KeptO.none) | (extract_lets +onlyGivenNames z; refine (fun (_hz : Kept b0 z) => ?_) ?_; clear_value z) | (extract_lets +onlyGivenNames z; refine (fun (_hz : Kept b0 z.2) => ?_) ?_; clear_value z) | (extract_lets +onlyGivenNames z; refine (fun (_hz : Kept b0 z.2.2) => ?_) ?_; clear_value z) | (extract_lets +onlyGivenNames z) | split | (with_reducible apply_assumption) | (simp -zeta only [State.asUpd]) | (dsimp -zeta +zetaDelta only) | (apply Kept.ite)

theorem State.allocFrom_kept {b0 s : State} (o : Nat) (x : Nat) (spread : optParam Bool false)  (h : Kept b0 s) : Kept b0 (State.allocFrom s o x spread).2.2 := by
  unfold State.allocFrom
  try simp -zeta only [State.asUpd]
  repeat' first | (with_reducible assumption) | (with_reducible apply Kept.upd)  | (with_reducible apply State.takeHead_kept) | (with_reducible apply State.named_kept) | (with_reducible apply State.setBuf_kept) | (with_reducible apply State.setPool_kept) | (with_reducible rfl) | (refine Kept.reglSame (s := ?_) (g := ?_) ?_ (by with_reducible rfl) (by with_reducible rfl)) | (intro; try dsimp -zeta only) | (with_reducible apply Kept.ite) | (dsimp -zeta only) | (with_reducible apply Kept.ofPair (by with_reducible assumption)) | (with_reducible apply Kept.ofTriple (by with_reducible assumption)) | (with_reducible apply Kept.ofSome (by with_reducible assumption)) | (with_reducible apply Kept.foldl) | (with_reducible apply Kept.foldlPair) | (with_reducible apply KeptO.map) | (with_reducible apply KeptO.getD) | (with_reducible apply KeptO.some) | (with_reducible apply KeptO.none) | (extract_lets +onlyGivenNames z; refine (fun (_hz : Kept b0 z) => ?_) ?_; clear_value z) | (extract_lets +onlyGivenNames z; refine (fun (_hz : Kept b0 z.2) => ?_) ?_; clear_value z) | (extract_lets +onlyGivenNames z; refine (fun (_hz : Kept b0 z.2.2) => ?_) ?_; clear_value z) | (extract_lets +onlyGivenNames z) | split | (with_reducible apply_assumption) | (simp -zeta only [State.asUpd]) | (dsimp -zeta +zetaDelta only) | (apply Kept.ite)

theorem State.poolAlloc_kept {b0 s : State} (o : Nat) (spread : optParam Bool false)  (h : Kept b0 s) : Kept b0 (State.poolAlloc s o spread).2.2 := by
  unfold State.poolAlloc
  try simp -zeta only [State.asUpd]
  repeat' first | (with_reducible assumption) | (with_reducible apply Kept.upd)  | (with_reducible apply State.allocFrom_kept) | (with_reducible rfl) | (refine Kept.reglSame (s := ?_) (g := ?_) ?_ (by with_reducible rfl) (by with_reducible rfl)) | (intro; try dsimp -zeta only) | (with_reducible apply Kept.ite) | (dsimp -zeta only) | (with_reducible apply Kept.ofPair (by with_reducible assumption)) | (with_reducible apply Kept.ofTriple (by with_reducible assumption)) | (with_reducible apply Kept.ofSome (by with_reducible assumption)) | (with_reducible apply Kept.foldl) | (with_reducible apply Kept.foldlPair) | (with_reducible apply KeptO.map) | (with_reducible apply KeptO.getD) | (with_reducible apply KeptO.some) | (with_reducible apply KeptO.none) | (extract_lets +onlyGivenNames z; refine (fun (_hz : Kept b0 z) => ?_) ?_; clear_value z) | (extract_lets +onlyGivenNames z; refine (fun (_hz : Kept b0 z.2) => ?_) ?_; clear_value z) | (extract_lets +onlyGivenNames z; refine (fun (_hz : Kept b0 z.2.2) => ?_) ?_; clear_value z) | (extract_lets +onlyGivenNames z) | split | (with_reducible apply_assumption) | (simp -zeta only [State.asUpd]) | (dsimp -zeta +zetaDelta only) | (apply Kept.ite)

theorem State.poolAllocN_kept {b0 s : State} (o : Nat) (y2 : Nat) (y3 : List Nat)  (h : Kept b0 s) : Kept b0 (State.poolAllocN s o y2 y3).2 := by
  fun_induction State.poolAllocN s o y2 y3 <;> try simp -zeta only [State.asUpd]
  all_goals repeat' first | (with_reducible assumption) | (with_reducible apply Kept.upd)  | (with_reducible apply State.poolAlloc_kept) | (with_reducible apply State.pushFree_kept) | (with_reducible apply State.named_kept) | (with_reducible apply State.setPool_kept) | (with_reducible rfl) | (refine Kept.reglSame (s := ?_) (g := ?_) ?_ (by with_reducible rfl) (by with_reducible rfl)) | (intro; try dsimp -zeta only) | (with_reducible apply Kept.ite) | (dsimp -zeta only) | (with_reducible apply Kept.ofPair (by with_reducible assumption)) | (with_reducible apply Kept.ofTriple (by with_reducible assumption)) | (with_reducible apply Kept.ofSome (by with_reducible assumption)) | (with_reducible apply Kept.foldl) | (with_reducible apply Kept.foldlPair) | (with_reducible apply KeptO.map) | (with_reducible apply KeptO.getD) | (with_reducible apply KeptO.some) | (with_reducible apply KeptO.none) | (extract_lets +onlyGivenNames z; refine (fun (_hz : Kept b0 z) => ?_) ?_; clear_value z) | (extract_lets +onlyGivenNames z; refine (fun (_hz : Kept b0 z.2) => ?_) ?_; clear_value z) | (extract_lets +onlyGivenNames z; refine (fun (_hz : Kept b0 z.2.2) => ?_) ?_; clear_value z) | (extract_lets +onlyGivenNames z) | split | (with_reducible apply_assumption) | (simp -zeta only [State.asUpd]) | (dsimp -zeta +zetaDelta only) | (apply Kept.ite)

theorem State.misuse_kept {b0 s : State} (op : Nat) (st : Nat) (o : Nat) (b : Nat)  (h : Kept b0 s) : Kept b0 (State.misuse s op st o b) := by
  unfold State.misuse
  try simp -zeta only [State.asUpd]
  repeat' first | (with_reducible assumption) | (with_reducible apply Kept.upd)  | (with_reducible apply State.latch_kept) | (with_reducible apply State.setFld_kept) | (with_reducible apply State.count_kept) | (with_reducible rfl) | (refine Kept.reglSame (s := ?_) (g := ?_) ?_ (by with_reducible rfl) (by with_reducible rfl)) | (intro; try dsimp -zeta only) | (with_reducible apply Kept.ite) | (dsimp -zeta only) | (with_reducible apply Kept.ofPair (by with_reducible assumption)) | (with_reducible apply Kept.ofTriple (by with_reducible assumption)) | (with_reducible apply Kept.ofSome (by with_reducible assumption)) | (with_reducible apply Kept.foldl) | (with_reducible apply Kept.foldlPair) | (with_reducible apply KeptO.map) | (with_reducible apply KeptO.getD) | (with_reducible apply KeptO.some) | (with_reducible apply KeptO.none) | (extract_lets +onlyGivenNames z; refine (fun (_hz : Kept b0 z) => ?_) ?_; clear_value z) | (extract_lets +onlyGivenNames z; refine (fun (_hz : Kept b0 z.2) => ?_) ?_; clear_value z) | (extract_lets +onlyGivenNames z; refine (fun (_hz : Kept b0 z.2.2) => ?_) ?_; clear_value z) | (extract_lets +onlyGivenNames z) | split | (with_reducible apply_assumption) | (simp -zeta only [State.asUpd]) | (dsimp -zeta +zetaDelta only) | (apply Kept.ite)

theorem State.poolShare_kept {b0 s : State} (o : Nat) (b : Nat) (n : Nat) (holder : Nat)  (h : Kept b0 s) : Kept b0 (State.poolShare s o b n holder).2 := by
  unfold State.poolShare
  try simp -zeta only [State.asUpd]
  repeat' first | (with_reducible assumption) | (with_reducible apply Kept.upd)  | (with_reducible apply State.held_kept) | (with_reducible apply State.setBuf_kept) | (with_reducible apply State.misuse_kept) | (with_reducible rfl) | (refine Kept.reglSame (s := ?_) (g := ?_) ?_ (by with_reducible rfl) (by with_reducible rfl)) | (intro; try dsimp -zeta only) | (with_reducible apply Kept.ite) | (dsimp -zeta only) | (with_reducible apply Kept.ofPair (by with_reducible assumption)) | (with_reducible apply Kept.ofTriple (by with_reducible assumption)) | (with_reducible apply Kept.ofSome (by with_reducible assumption)) | (with_reducible apply Kept.foldl) | (with_reducible apply Kept.foldlPair) | (with_reducible apply KeptO.map) | (with_reducible apply KeptO.getD) | (with_reducible apply KeptO.some) | (with_reducible apply KeptO.none) | (extract_lets +onlyGivenNames z; refine (fun (_hz : Kept b0 z) => ?_) ?_; clear_value z) | (extract_lets +onlyGivenNames z; refine (fun (_hz : Kept b0 z.2) => ?_) ?_; clear_value z) | (extract_lets +onlyGivenNames z; refine (fun (_hz : Kept b0 z.2.2) => ?_) ?_; clear_value z) | (extract_lets +onlyGivenNames z) | split | (with_reducible apply_assumption) | (simp -zeta only [State.asUpd]) | (dsimp -zeta +zetaDelta only) | (apply Kept.ite)

theorem State.dropShare_kept {b0 s : State} (b : Nat)  (h : Kept b0 s) : Kept b0 (State.dropShare s b) := by
  unfold State.dropShare
  try simp -zeta only [State.asUpd]
  repeat' first | (with_reducible assumption) | (with_reducible apply Kept.upd)  | (with_reducible apply State.pushFree_kept) | (with_reducible apply State.setPool_kept) | (with_reducible apply State.setBuf_kept) | (with_reducible rfl) | (refine Kept.reglSame (s := ?_) (g := ?_) ?_ (by with_reducible rfl) (by with_reducible rfl)) | (intro; try dsimp -zeta only) | (with_reducible apply Kept.ite) | (dsimp -zeta only) | (with_reducible apply Kept.ofPair (by with_reducible assumption)) | (with_reducible apply Kept.ofTriple (by with_reducible assumption)) | (with_reducible apply Kept.ofSome (by with_reducible assumption)) | (with_reducible apply Kept.foldl) | (with_reducible apply Kept.foldlPair) | (with_reducible apply KeptO.map) | (with_reducible apply KeptO.getD) | (with_reducible apply KeptO.some) | (with_reducible apply KeptO.none) | (extract_lets +onlyGivenNames z; refine (fun (_hz : Kept b0 z) => ?_) ?_; clear_value z) | (extract_lets +onlyGivenNames z; refine (fun (_hz : Kept b0 z.2) => ?_) ?_; clear_value z) | (extract_lets +onlyGivenNames z; refine (fun (_hz : Kept b0 z.2.2) => ?_) ?_; clear_value z) | (extract_lets +onlyGivenNames z) | split | (with_reducible apply_assumption) | (simp -zeta only [State.asUpd]) | (dsimp -zeta +zetaDelta only) | (apply Kept.ite)

theorem State.poolRelease_kept {b0 s : State} (o : Nat) (b : Nat)  (h : Kept b0 s) : Kept b0 (State.poolRelease s o b).2 := by
  unfold State.poolRelease
  try simp -zeta only [State.asUpd]
  repeat' first | (with_reducible assumption) | (with_reducible apply Kept.upd)  | (with_reducible apply State.dropShare_kept) | (with_reducible apply State.held_kept) | (with_reducible apply State.misuse_kept) | (with_reducible rfl) | (refine Kept.reglSame (s := ?_) (g := ?_) ?_ (by with_reducible rfl) (by with_reducible rfl)) | (intro; try dsimp -zeta only) | (with_reducible apply Kept.ite) | (dsimp -zeta only) | (with_reducible apply Kept.ofPair (by with_reducible assumption)) | (with_reducible apply Kept.ofTriple (by with_reducible assumption)) | (with_reducible apply Kept.ofSome (by with_reducible assumption)) | (with_reducible apply Kept.foldl) | (with_reducible apply Kept.foldlPair) | (with_reducible apply KeptO.map) | (with_reducible apply KeptO.getD) | (with_reducible apply KeptO.some) | (with_reducible apply KeptO.none) | (extract_lets +onlyGivenNames z; refine (fun (_hz : Kept b0 z) => ?_) ?_; clear_value z) | (extract_lets +onlyGivenNames z; refine (fun (_hz : Kept b0 z.2) => ?_) ?_; clear_value z) | (extract_lets +onlyGivenNames z; refine (fun (_hz : Kept b0 z.2.2) => ?_) ?_; clear_value z) | (extract_lets +onlyGivenNames z) | split | (with_reducible apply_assumption) | (simp -zeta only [State.asUpd]) | (dsimp -zeta +zetaDelta only) | (apply Kept.ite)

theorem State.poolFree_kept {b0 s : State} (o : Nat) (b : Nat)  (h : Kept b0 s) : Kept b0 (State.poolFree s o b).2 := by
  unfold State.poolFree
  try simp -zeta only [State.asUpd]
  repeat' first | (with_reducible assumption) | (with_reducible apply Kept.upd)  | (with_reducible apply State.named_kept) | (with_reducible apply State.pushFree_kept) | (with_reducible apply State.setPool_kept) | (with_reducible apply State.setBuf_kept) | (with_reducible apply State.misuse_kept) | (with_reducible rfl) | (refine Kept.reglSame (s := ?_) (g := ?_) ?_ (by with_reducible rfl) (by with_reducible rfl)) | (intro; try dsimp -zeta only) | (with_reducible apply Kept.ite) | (dsimp -zeta only) | (with_reducible apply Kept.ofPair (by with_reducible assumption)) | (with_reducible apply Kept.ofTriple (by with_reducible assumption)) | (with_reducible apply Kept.ofSome (by with_reducible assumption)) | (with_reducible apply Kept.foldl) | (with_reducible apply Kept.foldlPair) | (with_reducible apply KeptO.map) | (with_reducible apply KeptO.getD) | (with_reducible apply KeptO.some) | (with_reducible apply KeptO.none) | (extract_lets +onlyGivenNames z; refine (fun (_hz : Kept b0 z) => ?_) ?_; clear_value z) | (extract_lets +onlyGivenNames z; refine (fun (_hz : Kept b0 z.2) => ?_) ?_; clear_value z) | (extract_lets +onlyGivenNames z; refine (fun (_hz : Kept b0 z.2.2) => ?_) ?_; clear_value z) | (extract_lets +onlyGivenNames z) | split | (with_reducible apply_assumption) | (simp -zeta only [State.asUpd]) | (dsimp -zeta +zetaDelta only) | (apply Kept.ite)

theorem State.poolHandover_kept {b0 s : State} (o : Nat) (b : Nat) (new : Nat)  (h : Kept b0 s) : Kept b0 (State.poolHandover s o b new).2 := by
  unfold State.poolHandover
  try simp -zeta only [State.asUpd]
  repeat' first | (with_reducible assumption) | (with_reducible apply Kept.upd)  | (with_reducible apply State.named_kept) | (with_reducible apply State.setBuf_kept) | (with_reducible apply State.misuse_kept) | (with_reducible rfl) | (refine Kept.reglSame (s := ?_) (g := ?_) ?_ (by with_reducible rfl) (by with_reducible rfl)) | (intro; try dsimp -zeta only) | (with_reducible apply Kept.ite) | (dsimp -zeta only) | (with_reducible apply Kept.ofPair (by with_reducible assumption)) | (with_reducible apply Kept.ofTriple (by with_reducible assumption)) | (with_reducible apply Kept.ofSome (by with_reducible assumption)) | (with_reducible apply Kept.foldl) | (with_reducible apply Kept.foldlPair) | (with_reducible apply KeptO.map) | (with_reducible apply KeptO.getD) | (with_reducible apply KeptO.some) | (with_reducible apply KeptO.none) | (extract_lets +onlyGivenNames z; refine (fun (_hz : Kept b0 z) => ?_) ?_; clear_value z) | (extract_lets +onlyGivenNames z; refine (fun (_hz : Kept b0 z.2) => ?_) ?_; clear_value z) | (extract_lets +onlyGivenNames z; refine (fun (_hz : Kept b0 z.2.2) => ?_) ?_; clear_value z) | (extract_lets +onlyGivenNames z) | split | (with_reducible apply_assumption) | (simp -zeta only [State.asUpd]) | (dsimp -zeta +zetaDelta only) | (apply Kept.ite)

theorem State.poolCmd_kept {b0 s : State} (o : Nat) (op : Nat) (b : Nat) (n : Nat) (other : Nat)  (h : Kept b0 s) : Kept b0 (State.poolCmd s o op b n other).2.2 := by
  unfold State.poolCmd
  try simp -zeta only [State.asUpd]
  repeat' first | (with_reducible assumption) | (with_reducible apply Kept.upd)  | (with_reducible apply State.poolAlloc_kept) | (with_reducible apply State.poolShare_kept) | (with_reducible apply State.poolRelease_kept) | (with_reducible apply State.poolFree_kept) | (with_reducible apply State.poolHandover_kept) | (with_reducible apply State.misuse_kept) | (with_reducible rfl) | (refine Kept.reglSame (s := ?_) (g := ?_) ?_ (by with_reducible rfl) (by with_reducible rfl)) | (intro; try dsimp -zeta only) | (with_reducible apply Kept.ite) | (dsimp -zeta only) | (with_reducible apply Kept.ofPair (by with_reducible assumption)) | (with_reducible apply Kept.ofTriple (by with_reducible assumption)) | (with_reducible apply Kept.ofSome (by with_reducible assumption)) | (with_reducible apply Kept.foldl) | (with_reducible apply Kept.foldlPair) | (with_reducible apply KeptO.map) | (with_reducible apply KeptO.getD) | (with_reducible apply KeptO.some) | (with_reducible apply KeptO.none) | (extract_lets +onlyGivenNames z; refine (fun (_hz : Kept b0 z) => ?_) ?_; clear_value z) | (extract_lets +onlyGivenNames z; refine (fun (_hz : Kept b0 z.2) => ?_) ?_; clear_value z) | (extract_lets +onlyGivenNames z; refine (fun (_hz : Kept b0 z.2.2) => ?_) ?_; clear_value z) | (extract_lets +onlyGivenNames z) | split | (with_reducible apply_assumption) | (simp -zeta only [State.asUpd]) | (dsimp -zeta +zetaDelta only) | (apply Kept.ite)

theorem State.windowRun_kept {b0 s : State} (w : Nat)  (h : Kept b0 s) : Kept b0 (State.windowRun s w) := by
  unfold State.windowRun
  try simp -zeta only [State.asUpd]
  repeat' first | (with_reducible assumption) | (with_reducible apply Kept.upd)  | (with_reducible apply State.poolCmd_kept) | (with_reducible apply State.setFld_kept) | (with_reducible rfl) | (refine Kept.reglSame (s := ?_) (g := ?_) ?_ (by with_reducible rfl) (by with_reducible rfl)) | (intro; try dsimp -zeta only) | (with_reducible apply Kept.ite) | (dsimp -zeta only) | (with_reducible apply Kept.ofPair (by with_reducible assumption)) | (with_reducible apply Kept.ofTriple (by with_reducible assumption)) | (with_reducible apply Kept.ofSome (by with_reducible assumption)) | (with_reducible apply Kept.foldl) | (with_reducible apply Kept.foldlPair) | (with_reducible apply KeptO.map) | (with_reducible apply KeptO.getD) | (with_reducible apply KeptO.some) | (with_reducible apply KeptO.none) | (extract_lets +onlyGivenNames z; refine (fun (_hz : Kept b0 z) => ?_) ?_; clear_value z) | (extract_lets +onlyGivenNames z; refine (fun (_hz : Kept b0 z.2) => ?_) ?_; clear_value z) | (extract_lets +onlyGivenNames z; refine (fun (_hz : Kept b0 z.2.2) => ?_) ?_; clear_value z) | (extract_lets +onlyGivenNames z) | split | (with_reducible apply_assumption) | (simp -zeta only [State.asUpd]) | (dsimp -zeta +zetaDelta only) | (apply Kept.ite)

theorem State.cmdWrite_kept {b0 s : State} (w : Nat) (v : Nat)  (h : Kept b0 s) : Kept b0 (State.cmdWrite s w v) := by
  unfold State.cmdWrite
  try simp -zeta only [State.asUpd]
  repeat' first | (with_reducible assumption) | (with_reducible apply Kept.upd)  | (with_reducible apply State.latch_kept) | (with_reducible apply State.setFld_kept) | (with_reducible apply State.windowRun_kept) | (with_reducible rfl) | (refine Kept.reglSame (s := ?_) (g := ?_) ?_ (by with_reducible rfl) (by with_reducible rfl)) | (intro; try dsimp -zeta only) | (with_reducible apply Kept.ite) | (dsimp -zeta only) | (with_reducible apply Kept.ofPair (by with_reducible assumption)) | (with_reducible apply Kept.ofTriple (by with_reducible assumption)) | (with_reducible apply Kept.ofSome (by with_reducible assumption)) | (with_reducible apply Kept.foldl) | (with_reducible apply Kept.foldlPair) | (with_reducible apply KeptO.map) | (with_reducible apply KeptO.getD) | (with_reducible apply KeptO.some) | (with_reducible apply KeptO.none) | (extract_lets +onlyGivenNames z; refine (fun (_hz : Kept b0 z) => ?_) ?_; clear_value z) | (extract_lets +onlyGivenNames z; refine (fun (_hz : Kept b0 z.2) => ?_) ?_; clear_value z) | (extract_lets +onlyGivenNames z; refine (fun (_hz : Kept b0 z.2.2) => ?_) ?_; clear_value z) | (extract_lets +onlyGivenNames z) | split | (with_reducible apply_assumption) | (simp -zeta only [State.asUpd]) | (dsimp -zeta +zetaDelta only) | (apply Kept.ite)

theorem State.poolCall_kept {b0 s : State} (c : PoolCall)  (h : Kept b0 s) : Kept b0 (State.poolCall s c) := by
  unfold State.poolCall
  try simp -zeta only [State.asUpd]
  repeat' first | (with_reducible assumption) | (with_reducible apply Kept.upd)  | (with_reducible apply State.windowRun_kept) | (with_reducible apply State.poolCmd_kept) | (with_reducible rfl) | (refine Kept.reglSame (s := ?_) (g := ?_) ?_ (by with_reducible rfl) (by with_reducible rfl)) | (intro; try dsimp -zeta only) | (with_reducible apply Kept.ite) | (dsimp -zeta only) | (with_reducible apply Kept.ofPair (by with_reducible assumption)) | (with_reducible apply Kept.ofTriple (by with_reducible assumption)) | (with_reducible apply Kept.ofSome (by with_reducible assumption)) | (with_reducible apply Kept.foldl) | (with_reducible apply Kept.foldlPair) | (with_reducible apply KeptO.map) | (with_reducible apply KeptO.getD) | (with_reducible apply KeptO.some) | (with_reducible apply KeptO.none) | (extract_lets +onlyGivenNames z; refine (fun (_hz : Kept b0 z) => ?_) ?_; clear_value z) | (extract_lets +onlyGivenNames z; refine (fun (_hz : Kept b0 z.2) => ?_) ?_; clear_value z) | (extract_lets +onlyGivenNames z; refine (fun (_hz : Kept b0 z.2.2) => ?_) ?_; clear_value z) | (extract_lets +onlyGivenNames z) | split | (with_reducible apply_assumption) | (simp -zeta only [State.asUpd]) | (dsimp -zeta +zetaDelta only) | (apply Kept.ite)

theorem State.poolCycle_kept {b0 s : State} (cs : List PoolCall)  (h : Kept b0 s) : Kept b0 (State.poolCycle s cs) := by
  unfold State.poolCycle
  try simp -zeta only [State.asUpd]
  repeat' first | (with_reducible assumption) | (with_reducible apply Kept.upd)  | (with_reducible apply State.poolCall_kept) | (with_reducible rfl) | (refine Kept.reglSame (s := ?_) (g := ?_) ?_ (by with_reducible rfl) (by with_reducible rfl)) | (intro; try dsimp -zeta only) | (with_reducible apply Kept.ite) | (dsimp -zeta only) | (with_reducible apply Kept.ofPair (by with_reducible assumption)) | (with_reducible apply Kept.ofTriple (by with_reducible assumption)) | (with_reducible apply Kept.ofSome (by with_reducible assumption)) | (with_reducible apply Kept.foldl) | (with_reducible apply Kept.foldlPair) | (with_reducible apply KeptO.map) | (with_reducible apply KeptO.getD) | (with_reducible apply KeptO.some) | (with_reducible apply KeptO.none) | (extract_lets +onlyGivenNames z; refine (fun (_hz : Kept b0 z) => ?_) ?_; clear_value z) | (extract_lets +onlyGivenNames z; refine (fun (_hz : Kept b0 z.2) => ?_) ?_; clear_value z) | (extract_lets +onlyGivenNames z; refine (fun (_hz : Kept b0 z.2.2) => ?_) ?_; clear_value z) | (extract_lets +onlyGivenNames z) | split | (with_reducible apply_assumption) | (simp -zeta only [State.asUpd]) | (dsimp -zeta +zetaDelta only) | (apply Kept.ite)

theorem State.poolReq_kept {b0 s : State} (r : PoolReq) (op : Nat) (b : Nat) (n : Nat) (other : Nat)  (h : Kept b0 s) : Kept b0 (State.poolReq s r op b n other) := by
  unfold State.poolReq
  try simp -zeta only [State.asUpd]
  repeat' first | (with_reducible assumption) | (with_reducible apply Kept.upd)  | (with_reducible apply State.check_kept) | (with_reducible apply State.poolCycle_kept) | (with_reducible rfl) | (refine Kept.reglSame (s := ?_) (g := ?_) ?_ (by with_reducible rfl) (by with_reducible rfl)) | (intro; try dsimp -zeta only) | (with_reducible apply Kept.ite) | (dsimp -zeta only) | (with_reducible apply Kept.ofPair (by with_reducible assumption)) | (with_reducible apply Kept.ofTriple (by with_reducible assumption)) | (with_reducible apply Kept.ofSome (by with_reducible assumption)) | (with_reducible apply Kept.foldl) | (with_reducible apply Kept.foldlPair) | (with_reducible apply KeptO.map) | (with_reducible apply KeptO.getD) | (with_reducible apply KeptO.some) | (with_reducible apply KeptO.none) | (extract_lets +onlyGivenNames z; refine (fun (_hz : Kept b0 z) => ?_) ?_; clear_value z) | (extract_lets +onlyGivenNames z; refine (fun (_hz : Kept b0 z.2) => ?_) ?_; clear_value z) | (extract_lets +onlyGivenNames z; refine (fun (_hz : Kept b0 z.2.2) => ?_) ?_; clear_value z) | (extract_lets +onlyGivenNames z) | split | (with_reducible apply_assumption) | (simp -zeta only [State.asUpd]) | (dsimp -zeta +zetaDelta only) | (apply Kept.ite)

theorem execAlloc_kept (r : PoolReq) (s : State) : KeptOut s (execAlloc r s) := by
  unfold execAlloc
  try simp -zeta only [State.asUpd]
  repeat' first | (with_reducible assumption) | (with_reducible exact Kept.refl _) | (with_reducible apply KeptOut.run; try dsimp -zeta only) | (with_reducible apply KeptOut.next) | (with_reducible apply Kept.upd)  | (with_reducible apply State.run_kept) | (with_reducible apply State.poolReq_kept) | (with_reducible rfl) | (refine Kept.reglSame (s := ?_) (g := ?_) ?_ (by with_reducible rfl) (by with_reducible rfl)) | (intro; try dsimp -zeta only) | (with_reducible apply Kept.ite) | (dsimp -zeta only) | (with_reducible apply Kept.ofPair (by with_reducible assumption)) | (with_reducible apply Kept.ofTriple (by with_reducible assumption)) | (with_reducible apply Kept.ofSome (by with_reducible assumption)) | (with_reducible apply Kept.foldl) | (with_reducible apply Kept.foldlPair) | (with_reducible apply KeptO.map) | (with_reducible apply KeptO.getD) | (with_reducible apply KeptO.some) | (with_reducible apply KeptO.none) | (extract_lets +onlyGivenNames z; refine (fun (_hz : Kept s z) => ?_) ?_; clear_value z) | (extract_lets +onlyGivenNames z; refine (fun (_hz : Kept s z.2) => ?_) ?_; clear_value z) | (extract_lets +onlyGivenNames z; refine (fun (_hz : Kept s z.2.2) => ?_) ?_; clear_value z) | (extract_lets +onlyGivenNames z) | split | (with_reducible apply_assumption) | (simp -zeta only [State.asUpd]) | (dsimp -zeta +zetaDelta only) | (apply Kept.ite)

theorem execShare_kept (r : PoolReq) (buf : Nat) (n : Nat) (holder : Nat) (s : State) : KeptOut s (execShare r buf n holder s) := by
  unfold execShare
  try simp -zeta only [State.asUpd]
  repeat' first | (with_reducible assumption) | (with_reducible exact Kept.refl _) | (with_reducible apply KeptOut.run; try dsimp -zeta only) | (with_reducible apply KeptOut.next) | (with_reducible apply Kept.upd)  | (with_reducible apply State.run_kept) | (with_reducible apply State.poolReq_kept) | (with_reducible rfl) | (refine Kept.reglSame (s := ?_) (g := ?_) ?_ (by with_reducible rfl) (by with_reducible rfl)) | (intro; try dsimp -zeta only) | (with_reducible apply Kept.ite) | (dsimp -zeta only) | (with_reducible apply Kept.ofPair (by with_reducible assumption)) | (with_reducible apply Kept.ofTriple (by with_reducible assumption)) | (with_reducible apply Kept.ofSome (by with_reducible assumption)) | (with_reducible apply Kept.foldl) | (with_reducible apply Kept.foldlPair) | (with_reducible apply KeptO.map) | (with_reducible apply KeptO.getD) | (with_reducible apply KeptO.some) | (with_reducible apply KeptO.none) | (extract_lets +onlyGivenNames z; refine (fun (_hz : Kept s z) => ?_) ?_; clear_value z) | (extract_lets +onlyGivenNames z; refine (fun (_hz : Kept s z.2) => ?_) ?_; clear_value z) | (extract_lets +onlyGivenNames z; refine (fun (_hz : Kept s z.2.2) => ?_) ?_; clear_value z) | (extract_lets +onlyGivenNames z) | split | (with_reducible apply_assumption) | (simp -zeta only [State.asUpd]) | (dsimp -zeta +zetaDelta only) | (apply Kept.ite)

theorem execRelease_kept (r : PoolReq) (buf : Nat) (s : State) : KeptOut s (execRelease r buf s) := by
  unfold execRelease
  try simp -zeta only [State.asUpd]
  repeat' first | (with_reducible assumption) | (with_reducible exact Kept.refl _) | (with_reducible apply KeptOut.run; try dsimp -zeta only) | (with_reducible apply KeptOut.next) | (with_reducible apply Kept.upd)  | (with_reducible apply State.run_kept) | (with_reducible apply State.poolReq_kept) | (with_reducible rfl) | (refine Kept.reglSame (s := ?_) (g := ?_) ?_ (by with_reducible rfl) (by with_reducible rfl)) | (intro; try dsimp -zeta only) | (with_reducible apply Kept.ite) | (dsimp -zeta only) | (with_reducible apply Kept.ofPair (by with_reducible assumption)) | (with_reducible apply Kept.ofTriple (by with_reducible assumption)) | (with_reducible apply Kept.ofSome (by with_reducible assumption)) | (with_reducible apply Kept.foldl) | (with_reducible apply Kept.foldlPair) | (with_reducible apply KeptO.map) | (with_reducible apply KeptO.getD) | (with_reducible apply KeptO.some) | (with_reducible apply KeptO.none) | (extract_lets +onlyGivenNames z; refine (fun (_hz : Kept s z) => ?_) ?_; clear_value z) | (extract_lets +onlyGivenNames z; refine (fun (_hz : Kept s z.2) => ?_) ?_; clear_value z) | (extract_lets +onlyGivenNames z; refine (fun (_hz : Kept s z.2.2) => ?_) ?_; clear_value z) | (extract_lets +onlyGivenNames z) | split | (with_reducible apply_assumption) | (simp -zeta only [State.asUpd]) | (dsimp -zeta +zetaDelta only) | (apply Kept.ite)

theorem execFree_kept (r : PoolReq) (buf : Nat) (s : State) : KeptOut s (execFree r buf s) := by
  unfold execFree
  try simp -zeta only [State.asUpd]
  repeat' first | (with_reducible assumption) | (with_reducible exact Kept.refl _) | (with_reducible apply KeptOut.run; try dsimp -zeta only) | (with_reducible apply KeptOut.next) | (with_reducible apply Kept.upd)  | (with_reducible apply State.run_kept) | (with_reducible apply State.poolReq_kept) | (with_reducible rfl) | (refine Kept.reglSame (s := ?_) (g := ?_) ?_ (by with_reducible rfl) (by with_reducible rfl)) | (intro; try dsimp -zeta only) | (with_reducible apply Kept.ite) | (dsimp -zeta only) | (with_reducible apply Kept.ofPair (by with_reducible assumption)) | (with_reducible apply Kept.ofTriple (by with_reducible assumption)) | (with_reducible apply Kept.ofSome (by with_reducible assumption)) | (with_reducible apply Kept.foldl) | (with_reducible apply Kept.foldlPair) | (with_reducible apply KeptO.map) | (with_reducible apply KeptO.getD) | (with_reducible apply KeptO.some) | (with_reducible apply KeptO.none) | (extract_lets +onlyGivenNames z; refine (fun (_hz : Kept s z) => ?_) ?_; clear_value z) | (extract_lets +onlyGivenNames z; refine (fun (_hz : Kept s z.2) => ?_) ?_; clear_value z) | (extract_lets +onlyGivenNames z; refine (fun (_hz : Kept s z.2.2) => ?_) ?_; clear_value z) | (extract_lets +onlyGivenNames z) | split | (with_reducible apply_assumption) | (simp -zeta only [State.asUpd]) | (dsimp -zeta +zetaDelta only) | (apply Kept.ite)

theorem execHandover_kept (r : PoolReq) (buf : Nat) (new : Nat) (s : State) : KeptOut s (execHandover r buf new s) := by
  unfold execHandover
  try simp -zeta only [State.asUpd]
  repeat' first | (with_reducible assumption) | (with_reducible exact Kept.refl _) | (with_reducible apply KeptOut.run; try dsimp -zeta only) | (with_reducible apply KeptOut.next) | (with_reducible apply Kept.upd)  | (with_reducible apply State.run_kept) | (with_reducible apply State.poolReq_kept) | (with_reducible rfl) | (refine Kept.reglSame (s := ?_) (g := ?_) ?_ (by with_reducible rfl) (by with_reducible rfl)) | (intro; try dsimp -zeta only) | (with_reducible apply Kept.ite) | (dsimp -zeta only) | (with_reducible apply Kept.ofPair (by with_reducible assumption)) | (with_reducible apply Kept.ofTriple (by with_reducible assumption)) | (with_reducible apply Kept.ofSome (by with_reducible assumption)) | (with_reducible apply Kept.foldl) | (with_reducible apply Kept.foldlPair) | (with_reducible apply KeptO.map) | (with_reducible apply KeptO.getD) | (with_reducible apply KeptO.some) | (with_reducible apply KeptO.none) | (extract_lets +onlyGivenNames z; refine (fun (_hz : Kept s z) => ?_) ?_; clear_value z) | (extract_lets +onlyGivenNames z; refine (fun (_hz : Kept s z.2) => ?_) ?_; clear_value z) | (extract_lets +onlyGivenNames z; refine (fun (_hz : Kept s z.2.2) => ?_) ?_; clear_value z) | (extract_lets +onlyGivenNames z) | split | (with_reducible apply_assumption) | (simp -zeta only [State.asUpd]) | (dsimp -zeta +zetaDelta only) | (apply Kept.ite)

theorem State.listRebuilt_kept {b0 s : State} (x : Nat)  (h : Kept b0 s) : Kept b0 (State.listRebuilt s x) := by
  unfold State.listRebuilt
  try simp -zeta only [State.asUpd]
  repeat' first | (with_reducible assumption) | (with_reducible apply Kept.upd)  | (with_reducible apply State.rebuild_kept) | (with_reducible apply State.setFld_kept) | (with_reducible rfl) | (refine Kept.reglSame (s := ?_) (g := ?_) ?_ (by with_reducible rfl) (by with_reducible rfl)) | (intro; try dsimp -zeta only) | (with_reducible apply Kept.ite) | (dsimp -zeta only) | (with_reducible apply Kept.ofPair (by with_reducible assumption)) | (with_reducible apply Kept.ofTriple (by with_reducible assumption)) | (with_reducible apply Kept.ofSome (by with_reducible assumption)) | (with_reducible apply Kept.foldl) | (with_reducible apply Kept.foldlPair) | (with_reducible apply KeptO.map) | (with_reducible apply KeptO.getD) | (with_reducible apply KeptO.some) | (with_reducible apply KeptO.none) | (extract_lets +onlyGivenNames z; refine (fun (_hz : Kept b0 z) => ?_) ?_; clear_value z) | (extract_lets +onlyGivenNames z; refine (fun (_hz : Kept b0 z.2) => ?_) ?_; clear_value z) | (extract_lets +onlyGivenNames z; refine (fun (_hz : Kept b0 z.2.2) => ?_) ?_; clear_value z) | (extract_lets +onlyGivenNames z) | split | (with_reducible apply_assumption) | (simp -zeta only [State.asUpd]) | (dsimp -zeta +zetaDelta only) | (apply Kept.ite)

theorem execListRebuildDone_kept (pool : Nat) (s : State) : KeptOut s (execListRebuildDone pool s) := by
  unfold execListRebuildDone
  try simp -zeta only [State.asUpd]
  repeat' first | (with_reducible assumption) | (with_reducible exact Kept.refl _) | (with_reducible apply KeptOut.run; try dsimp -zeta only) | (with_reducible apply KeptOut.next) | (with_reducible apply Kept.upd)  | (with_reducible apply State.run_kept) | (with_reducible apply State.listRebuilt_kept) | (with_reducible rfl) | (refine Kept.reglSame (s := ?_) (g := ?_) ?_ (by with_reducible rfl) (by with_reducible rfl)) | (intro; try dsimp -zeta only) | (with_reducible apply Kept.ite) | (dsimp -zeta only) | (with_reducible apply Kept.ofPair (by with_reducible assumption)) | (with_reducible apply Kept.ofTriple (by with_reducible assumption)) | (with_reducible apply Kept.ofSome (by with_reducible assumption)) | (with_reducible apply Kept.foldl) | (with_reducible apply Kept.foldlPair) | (with_reducible apply KeptO.map) | (with_reducible apply KeptO.getD) | (with_reducible apply KeptO.some) | (with_reducible apply KeptO.none) | (extract_lets +onlyGivenNames z; refine (fun (_hz : Kept s z) => ?_) ?_; clear_value z) | (extract_lets +onlyGivenNames z; refine (fun (_hz : Kept s z.2) => ?_) ?_; clear_value z) | (extract_lets +onlyGivenNames z; refine (fun (_hz : Kept s z.2.2) => ?_) ?_; clear_value z) | (extract_lets +onlyGivenNames z) | split | (with_reducible apply_assumption) | (simp -zeta only [State.asUpd]) | (dsimp -zeta +zetaDelta only) | (apply Kept.ite)

theorem State.recount_kept {b0 s : State}   (h : Kept b0 s) : Kept b0 (State.recount s) := by
  unfold State.recount
  try simp -zeta only [State.asUpd]
  repeat' first | (with_reducible assumption) | (with_reducible apply Kept.upd)  | (with_reducible apply State.setOwn_kept) | (with_reducible apply State.setPool_kept) | (with_reducible rfl) | (refine Kept.reglSame (s := ?_) (g := ?_) ?_ (by with_reducible rfl) (by with_reducible rfl)) | (intro; try dsimp -zeta only) | (with_reducible apply Kept.ite) | (dsimp -zeta only) | (with_reducible apply Kept.ofPair (by with_reducible assumption)) | (with_reducible apply Kept.ofTriple (by with_reducible assumption)) | (with_reducible apply Kept.ofSome (by with_reducible assumption)) | (with_reducible apply Kept.foldl) | (with_reducible apply Kept.foldlPair) | (with_reducible apply KeptO.map) | (with_reducible apply KeptO.getD) | (with_reducible apply KeptO.some) | (with_reducible apply KeptO.none) | (extract_lets +onlyGivenNames z; refine (fun (_hz : Kept b0 z) => ?_) ?_; clear_value z) | (extract_lets +onlyGivenNames z; refine (fun (_hz : Kept b0 z.2) => ?_) ?_; clear_value z) | (extract_lets +onlyGivenNames z; refine (fun (_hz : Kept b0 z.2.2) => ?_) ?_; clear_value z) | (extract_lets +onlyGivenNames z) | split | (with_reducible apply_assumption) | (simp -zeta only [State.asUpd]) | (dsimp -zeta +zetaDelta only) | (apply Kept.ite)

theorem State.force_kept {b0 s : State} (v : Nat)  (h : Kept b0 s) : Kept b0 (State.force s v) := by
  unfold State.force
  try simp -zeta only [State.asUpd]
  repeat' first | (with_reducible assumption) | (with_reducible apply Kept.upd)  | (with_reducible apply State.latch_kept) | (with_reducible apply State.setBuf_kept) | (with_reducible apply State.pushFree_kept) | (with_reducible apply State.recount_kept) | (with_reducible rfl) | (refine Kept.reglSame (s := ?_) (g := ?_) ?_ (by with_reducible rfl) (by with_reducible rfl)) | (intro; try dsimp -zeta only) | (with_reducible apply Kept.ite) | (dsimp -zeta only) | (with_reducible apply Kept.ofPair (by with_reducible assumption)) | (with_reducible apply Kept.ofTriple (by with_reducible assumption)) | (with_reducible apply Kept.ofSome (by with_reducible assumption)) | (with_reducible apply Kept.foldl) | (with_reducible apply Kept.foldlPair) | (with_reducible apply KeptO.map) | (with_reducible apply KeptO.getD) | (with_reducible apply KeptO.some) | (with_reducible apply KeptO.none) | (extract_lets +onlyGivenNames z; refine (fun (_hz : Kept b0 z) => ?_) ?_; clear_value z) | (extract_lets +onlyGivenNames z; refine (fun (_hz : Kept b0 z.2) => ?_) ?_; clear_value z) | (extract_lets +onlyGivenNames z; refine (fun (_hz : Kept b0 z.2.2) => ?_) ?_; clear_value z) | (extract_lets +onlyGivenNames z) | split | (with_reducible apply_assumption) | (simp -zeta only [State.asUpd]) | (dsimp -zeta +zetaDelta only) | (apply Kept.ite)

theorem execForceFree_kept (v : Word) (s : State) : KeptOut s (execForceFree v s) := by
  unfold execForceFree
  try simp -zeta only [State.asUpd]
  repeat' first | (with_reducible assumption) | (with_reducible exact Kept.refl _) | (with_reducible apply KeptOut.run; try dsimp -zeta only) | (with_reducible apply KeptOut.next) | (with_reducible apply Kept.upd)  | (with_reducible apply State.run_kept) | (with_reducible apply State.regCmd_kept) | (with_reducible apply State.force_kept) | (with_reducible rfl) | (refine Kept.reglSame (s := ?_) (g := ?_) ?_ (by with_reducible rfl) (by with_reducible rfl)) | (intro; try dsimp -zeta only) | (with_reducible apply Kept.ite) | (dsimp -zeta only) | (with_reducible apply Kept.ofPair (by with_reducible assumption)) | (with_reducible apply Kept.ofTriple (by with_reducible assumption)) | (with_reducible apply Kept.ofSome (by with_reducible assumption)) | (with_reducible apply Kept.foldl) | (with_reducible apply Kept.foldlPair) | (with_reducible apply KeptO.map) | (with_reducible apply KeptO.getD) | (with_reducible apply KeptO.some) | (with_reducible apply KeptO.none) | (extract_lets +onlyGivenNames z; refine (fun (_hz : Kept s z) => ?_) ?_; clear_value z) | (extract_lets +onlyGivenNames z; refine (fun (_hz : Kept s z.2) => ?_) ?_; clear_value z) | (extract_lets +onlyGivenNames z; refine (fun (_hz : Kept s z.2.2) => ?_) ?_; clear_value z) | (extract_lets +onlyGivenNames z) | split | (with_reducible apply_assumption) | (simp -zeta only [State.asUpd]) | (dsimp -zeta +zetaDelta only) | (apply Kept.ite)

theorem execForceOwner_kept (v : Word) (s : State) : KeptOut s (execForceOwner v s) := by
  unfold execForceOwner
  try simp -zeta only [State.asUpd]
  repeat' first | (with_reducible assumption) | (with_reducible exact Kept.refl _) | (with_reducible apply KeptOut.run; try dsimp -zeta only) | (with_reducible apply KeptOut.next) | (with_reducible apply Kept.upd)  | (with_reducible apply State.run_kept) | (with_reducible apply State.regCmd_kept) | (with_reducible apply State.force_kept) | (with_reducible rfl) | (refine Kept.reglSame (s := ?_) (g := ?_) ?_ (by with_reducible rfl) (by with_reducible rfl)) | (intro; try dsimp -zeta only) | (with_reducible apply Kept.ite) | (dsimp -zeta only) | (with_reducible apply Kept.ofPair (by with_reducible assumption)) | (with_reducible apply Kept.ofTriple (by with_reducible assumption)) | (with_reducible apply Kept.ofSome (by with_reducible assumption)) | (with_reducible apply Kept.foldl) | (with_reducible apply Kept.foldlPair) | (with_reducible apply KeptO.map) | (with_reducible apply KeptO.getD) | (with_reducible apply KeptO.some) | (with_reducible apply KeptO.none) | (extract_lets +onlyGivenNames z; refine (fun (_hz : Kept s z) => ?_) ?_; clear_value z) | (extract_lets +onlyGivenNames z; refine (fun (_hz : Kept s z.2) => ?_) ?_; clear_value z) | (extract_lets +onlyGivenNames z; refine (fun (_hz : Kept s z.2.2) => ?_) ?_; clear_value z) | (extract_lets +onlyGivenNames z) | split | (with_reducible apply_assumption) | (simp -zeta only [State.asUpd]) | (dsimp -zeta +zetaDelta only) | (apply Kept.ite)

theorem State.dpoolConfig_kept {b0 s : State} (reg : Nat) (v : Nat)  (h : Kept b0 s) : Kept b0 (State.dpoolConfig s reg v) := by
  unfold State.dpoolConfig
  try simp -zeta only [State.asUpd]
  repeat' first | (with_reducible assumption) | (with_reducible apply Kept.upd)  | (with_reducible apply State.latch_kept) | (with_reducible apply State.setFld_kept) | (with_reducible rfl) | (refine Kept.reglSame (s := ?_) (g := ?_) ?_ (by with_reducible rfl) (by with_reducible rfl)) | (intro; try dsimp -zeta only) | (with_reducible apply Kept.ite) | (dsimp -zeta only) | (with_reducible apply Kept.ofPair (by with_reducible assumption)) | (with_reducible apply Kept.ofTriple (by with_reducible assumption)) | (with_reducible apply Kept.ofSome (by with_reducible assumption)) | (with_reducible apply Kept.foldl) | (with_reducible apply Kept.foldlPair) | (with_reducible apply KeptO.map) | (with_reducible apply KeptO.getD) | (with_reducible apply KeptO.some) | (with_reducible apply KeptO.none) | (extract_lets +onlyGivenNames z; refine (fun (_hz : Kept b0 z) => ?_) ?_; clear_value z) | (extract_lets +onlyGivenNames z; refine (fun (_hz : Kept b0 z.2) => ?_) ?_; clear_value z) | (extract_lets +onlyGivenNames z; refine (fun (_hz : Kept b0 z.2.2) => ?_) ?_; clear_value z) | (extract_lets +onlyGivenNames z) | split | (with_reducible apply_assumption) | (simp -zeta only [State.asUpd]) | (dsimp -zeta +zetaDelta only) | (apply Kept.ite)

theorem execDpoolConfigWrite_kept (reg : Nat) (v : Word) (s : State) : KeptOut s (execDpoolConfigWrite reg v s) := by
  unfold execDpoolConfigWrite
  try simp -zeta only [State.asUpd]
  repeat' first | (with_reducible assumption) | (with_reducible exact Kept.refl _) | (with_reducible apply KeptOut.run; try dsimp -zeta only) | (with_reducible apply KeptOut.next) | (with_reducible apply Kept.upd)  | (with_reducible apply State.run_kept) | (with_reducible apply State.regCmd_kept) | (with_reducible apply State.dpoolConfig_kept) | (with_reducible rfl) | (refine Kept.reglSame (s := ?_) (g := ?_) ?_ (by with_reducible rfl) (by with_reducible rfl)) | (intro; try dsimp -zeta only) | (with_reducible apply Kept.ite) | (dsimp -zeta only) | (with_reducible apply Kept.ofPair (by with_reducible assumption)) | (with_reducible apply Kept.ofTriple (by with_reducible assumption)) | (with_reducible apply Kept.ofSome (by with_reducible assumption)) | (with_reducible apply Kept.foldl) | (with_reducible apply Kept.foldlPair) | (with_reducible apply KeptO.map) | (with_reducible apply KeptO.getD) | (with_reducible apply KeptO.some) | (with_reducible apply KeptO.none) | (extract_lets +onlyGivenNames z; refine (fun (_hz : Kept s z) => ?_) ?_; clear_value z) | (extract_lets +onlyGivenNames z; refine (fun (_hz : Kept s z.2) => ?_) ?_; clear_value z) | (extract_lets +onlyGivenNames z; refine (fun (_hz : Kept s z.2.2) => ?_) ?_; clear_value z) | (extract_lets +onlyGivenNames z) | split | (with_reducible apply_assumption) | (simp -zeta only [State.asUpd]) | (dsimp -zeta +zetaDelta only) | (apply Kept.ite)

theorem execDpoolRebuildDone_kept (s : State) : KeptOut s (execDpoolRebuildDone s) := by
  unfold execDpoolRebuildDone
  try simp -zeta only [State.asUpd]
  repeat' first | (with_reducible assumption) | (with_reducible exact Kept.refl _) | (with_reducible apply KeptOut.run; try dsimp -zeta only) | (with_reducible apply KeptOut.next) | (with_reducible apply Kept.upd)  | (with_reducible apply State.run_kept) | (with_reducible apply State.setFld_kept) | (with_reducible rfl) | (refine Kept.reglSame (s := ?_) (g := ?_) ?_ (by with_reducible rfl) (by with_reducible rfl)) | (intro; try dsimp -zeta only) | (with_reducible apply Kept.ite) | (dsimp -zeta only) | (with_reducible apply Kept.ofPair (by with_reducible assumption)) | (with_reducible apply Kept.ofTriple (by with_reducible assumption)) | (with_reducible apply Kept.ofSome (by with_reducible assumption)) | (with_reducible apply Kept.foldl) | (with_reducible apply Kept.foldlPair) | (with_reducible apply KeptO.map) | (with_reducible apply KeptO.getD) | (with_reducible apply KeptO.some) | (with_reducible apply KeptO.none) | (extract_lets +onlyGivenNames z; refine (fun (_hz : Kept s z) => ?_) ?_; clear_value z) | (extract_lets +onlyGivenNames z; refine (fun (_hz : Kept s z.2) => ?_) ?_; clear_value z) | (extract_lets +onlyGivenNames z; refine (fun (_hz : Kept s z.2.2) => ?_) ?_; clear_value z) | (extract_lets +onlyGivenNames z) | split | (with_reducible apply_assumption) | (simp -zeta only [State.asUpd]) | (dsimp -zeta +zetaDelta only) | (apply Kept.ite)

theorem State.quotaWrite_kept {b0 s : State} (o : Nat) (v : Nat)  (h : Kept b0 s) : Kept b0 (State.quotaWrite s o v) := by
  unfold State.quotaWrite
  try simp -zeta only [State.asUpd]
  repeat' first | (with_reducible assumption) | (with_reducible apply Kept.upd)  | (with_reducible apply State.latch_kept) | (with_reducible apply State.badId_kept) | (with_reducible apply State.setFld_kept) | (with_reducible rfl) | (refine Kept.reglSame (s := ?_) (g := ?_) ?_ (by with_reducible rfl) (by with_reducible rfl)) | (intro; try dsimp -zeta only) | (with_reducible apply Kept.ite) | (dsimp -zeta only) | (with_reducible apply Kept.ofPair (by with_reducible assumption)) | (with_reducible apply Kept.ofTriple (by with_reducible assumption)) | (with_reducible apply Kept.ofSome (by with_reducible assumption)) | (with_reducible apply Kept.foldl) | (with_reducible apply Kept.foldlPair) | (with_reducible apply KeptO.map) | (with_reducible apply KeptO.getD) | (with_reducible apply KeptO.some) | (with_reducible apply KeptO.none) | (extract_lets +onlyGivenNames z; refine (fun (_hz : Kept b0 z) => ?_) ?_; clear_value z) | (extract_lets +onlyGivenNames z; refine (fun (_hz : Kept b0 z.2) => ?_) ?_; clear_value z) | (extract_lets +onlyGivenNames z; refine (fun (_hz : Kept b0 z.2.2) => ?_) ?_; clear_value z) | (extract_lets +onlyGivenNames z) | split | (with_reducible apply_assumption) | (simp -zeta only [State.asUpd]) | (dsimp -zeta +zetaDelta only) | (apply Kept.ite)

theorem execQuotaWrite_kept (owner : Nat) (v : Word) (s : State) : KeptOut s (execQuotaWrite owner v s) := by
  unfold execQuotaWrite
  try simp -zeta only [State.asUpd]
  repeat' first | (with_reducible assumption) | (with_reducible exact Kept.refl _) | (with_reducible apply KeptOut.run; try dsimp -zeta only) | (with_reducible apply KeptOut.next) | (with_reducible apply Kept.upd)  | (with_reducible apply State.run_kept) | (with_reducible apply State.regCmd_kept) | (with_reducible apply State.quotaWrite_kept) | (with_reducible rfl) | (refine Kept.reglSame (s := ?_) (g := ?_) ?_ (by with_reducible rfl) (by with_reducible rfl)) | (intro; try dsimp -zeta only) | (with_reducible apply Kept.ite) | (dsimp -zeta only) | (with_reducible apply Kept.ofPair (by with_reducible assumption)) | (with_reducible apply Kept.ofTriple (by with_reducible assumption)) | (with_reducible apply Kept.ofSome (by with_reducible assumption)) | (with_reducible apply Kept.foldl) | (with_reducible apply Kept.foldlPair) | (with_reducible apply KeptO.map) | (with_reducible apply KeptO.getD) | (with_reducible apply KeptO.some) | (with_reducible apply KeptO.none) | (extract_lets +onlyGivenNames z; refine (fun (_hz : Kept s z) => ?_) ?_; clear_value z) | (extract_lets +onlyGivenNames z; refine (fun (_hz : Kept s z.2) => ?_) ?_; clear_value z) | (extract_lets +onlyGivenNames z; refine (fun (_hz : Kept s z.2.2) => ?_) ?_; clear_value z) | (extract_lets +onlyGivenNames z) | split | (with_reducible apply_assumption) | (simp -zeta only [State.asUpd]) | (dsimp -zeta +zetaDelta only) | (apply Kept.ite)

theorem State.minWrite_kept {b0 s : State} (o : Nat) (v : Nat)  (h : Kept b0 s) : Kept b0 (State.minWrite s o v) := by
  unfold State.minWrite
  try simp -zeta only [State.asUpd]
  repeat' first | (with_reducible assumption) | (with_reducible apply Kept.upd)  | (with_reducible apply State.latch_kept) | (with_reducible apply State.badId_kept) | (with_reducible apply State.setFld_kept) | (with_reducible rfl) | (refine Kept.reglSame (s := ?_) (g := ?_) ?_ (by with_reducible rfl) (by with_reducible rfl)) | (intro; try dsimp -zeta only) | (with_reducible apply Kept.ite) | (dsimp -zeta only) | (with_reducible apply Kept.ofPair (by with_reducible assumption)) | (with_reducible apply Kept.ofTriple (by with_reducible assumption)) | (with_reducible apply Kept.ofSome (by with_reducible assumption)) | (with_reducible apply Kept.foldl) | (with_reducible apply Kept.foldlPair) | (with_reducible apply KeptO.map) | (with_reducible apply KeptO.getD) | (with_reducible apply KeptO.some) | (with_reducible apply KeptO.none) | (extract_lets +onlyGivenNames z; refine (fun (_hz : Kept b0 z) => ?_) ?_; clear_value z) | (extract_lets +onlyGivenNames z; refine (fun (_hz : Kept b0 z.2) => ?_) ?_; clear_value z) | (extract_lets +onlyGivenNames z; refine (fun (_hz : Kept b0 z.2.2) => ?_) ?_; clear_value z) | (extract_lets +onlyGivenNames z) | split | (with_reducible apply_assumption) | (simp -zeta only [State.asUpd]) | (dsimp -zeta +zetaDelta only) | (apply Kept.ite)

theorem execMinWrite_kept (owner : Nat) (v : Word) (s : State) : KeptOut s (execMinWrite owner v s) := by
  unfold execMinWrite
  try simp -zeta only [State.asUpd]
  repeat' first | (with_reducible assumption) | (with_reducible exact Kept.refl _) | (with_reducible apply KeptOut.run; try dsimp -zeta only) | (with_reducible apply KeptOut.next) | (with_reducible apply Kept.upd)  | (with_reducible apply State.run_kept) | (with_reducible apply State.regCmd_kept) | (with_reducible apply State.minWrite_kept) | (with_reducible rfl) | (refine Kept.reglSame (s := ?_) (g := ?_) ?_ (by with_reducible rfl) (by with_reducible rfl)) | (intro; try dsimp -zeta only) | (with_reducible apply Kept.ite) | (dsimp -zeta only) | (with_reducible apply Kept.ofPair (by with_reducible assumption)) | (with_reducible apply Kept.ofTriple (by with_reducible assumption)) | (with_reducible apply Kept.ofSome (by with_reducible assumption)) | (with_reducible apply Kept.foldl) | (with_reducible apply Kept.foldlPair) | (with_reducible apply KeptO.map) | (with_reducible apply KeptO.getD) | (with_reducible apply KeptO.some) | (with_reducible apply KeptO.none) | (extract_lets +onlyGivenNames z; refine (fun (_hz : Kept s z) => ?_) ?_; clear_value z) | (extract_lets +onlyGivenNames z; refine (fun (_hz : Kept s z.2) => ?_) ?_; clear_value z) | (extract_lets +onlyGivenNames z; refine (fun (_hz : Kept s z.2.2) => ?_) ?_; clear_value z) | (extract_lets +onlyGivenNames z) | split | (with_reducible apply_assumption) | (simp -zeta only [State.asUpd]) | (dsimp -zeta +zetaDelta only) | (apply Kept.ite)

end Sys2Proof.Machine
end

