-- ==== Sys2Proof/Laws/KeepExec.lean ====
section
/-! SUPPORT. Every command keeps what `Kept` says: the variant, the queue's rest, and the canonical form of the memories. -/

set_option Elab.async false
set_option linter.all false

namespace Sys2Proof.Machine

theorem exec_kept (i : Instr) (s : State) : KeptOut s (exec i s) := by
  cases i with
  | powerOn => exact execPowerOn_kept s
  | railOutOfRange => exact execRailOutOfRange_kept s
  | rootPllLoss => exact execRootPllLoss_kept s
  | perstNAssert => exact execPerstNAssert_kept s
  | perstNRelease => exact execPerstNRelease_kept s
  | windingW0 testMode capWriteN bootSel => exact execWindingW0_kept testMode capWriteN bootSel s
  | selfTestGroup g coverage durUs fail => exact execSelfTestGroup_kept g coverage durUs fail s
  | selfTestTimeout g coverage => exact execSelfTestTimeout_kept g coverage s
  | windingW2 => exact execWindingW2_kept s
  | windingW3 => exact execWindingW3_kept s
  | windingW4 => exact execWindingW4_kept s
  | windingW5 chans timing => exact execWindingW5_kept chans timing s
  | windingW6 => exact execWindingW6_kept s
  | windingW7 => exact execWindingW7_kept s
  | strapSample testMode capWriteN => exact execStrapSample_kept testMode capWriteN s
  | configRequestEarly config => exact execConfigRequestEarly_kept config s
  | linkTrained hostMode speed width flit256 cacheEn memEn => exact execLinkTrained_kept hostMode speed width flit256 cacheEn memEn s
  | linkRetrain speed width => exact execLinkRetrain_kept speed width s
  | linkDown => exact execLinkDown_kept s
  | flr => exact execFlr_kept s
  | hostBadAccess write bar offset => exact execHostBadAccess_kept write bar offset s
  | bar4Access write offset len data ecc => exact execBar4Access_kept write offset len data ecc s
  | winBaseWrite a v => exact execWinBaseWrite_kept a v s
  | hostSizeWrite v => exact execHostSizeWrite_kept v s
  | hdmDecoderCommit d biEnable => exact execHdmDecoderCommit_kept d biEnable s
  | biSnoopResponse line => exact execBiSnoopResponse_kept line s
  | hostLineSnoop line => exact execHostLineSnoop_kept line s
  | ccacheFlush v => exact execCcacheFlush_kept v s
  | tenantEnable n v => exact execTenantEnable_kept n v s
  | tenantDisable n v => exact execTenantDisable_kept n v s
  | dbgrpOwnerWrite w v => exact execDbgrpOwnerWrite_kept w v s
  | addressTranslationFail ring index => exact execAddressTranslationFail_kept ring index s
  | ideCheckFail => exact execIdeCheckFail_kept s
  | spdmRequest code data => exact execSpdmRequest_kept code data s
  | setCertificate slot secured chain => exact execSetCertificate_kept slot secured chain s
  | msixUnmask mask => exact execMsixUnmask_kept mask s
  | rngDbPi ring v entries => exact execRngDbPi_kept ring v entries s
  | rngDbCi ring v => exact execRngDbCi_kept ring v s
  | payloadFetch ring => exact execPayloadFetch_kept ring s
  | payloadFetchDone ring payload au => exact execPayloadFetchDone_kept ring payload au s
  | seqGapTimeout stream => exact execSeqGapTimeout_kept stream s
  | ringCfgWrite ring reg v => exact execRingCfgWrite_kept ring reg v s
  | ringEnable ring v => exact execRingEnable_kept ring v s
  | ringDisable ring v => exact execRingDisable_kept ring v s
  | commandFetch ring entry => exact execCommandFetch_kept ring entry s
  | fencedCommandStart job => exact execFencedCommandStart_kept job s
  | streamOpen job => exact execStreamOpen_kept job s
  | streamClose job => exact execStreamClose_kept job s
  | streamFlush job => exact execStreamFlush_kept job s
  | streamSetPolicy job => exact execStreamSetPolicy_kept job s
  | calibreWrite job image read => exact execCalibreWrite_kept job image read s
  | calibreWriteCommit job => exact execCalibreWriteCommit_kept job s
  | calibreSwap job => exact execCalibreSwap_kept job s
  | swapArmed => exact execSwapArmed_kept s
  | oldBankRelease => exact execOldBankRelease_kept s
  | calibreRead job => exact execCalibreRead_kept job s
  | calibreSave ok => exact execCalibreSave_kept ok s
  | encSessionOpen job => exact execEncSessionOpen_kept job s
  | encSessionClose job => exact execEncSessionClose_kept job s
  | dmaSubmit job => exact execDmaSubmit_kept job s
  | tileRefresh job => exact execTileRefresh_kept job s
  | tileIdentityRead job => exact execTileIdentityRead_kept job s
  | complicationLoad job image read init => exact execComplicationLoad_kept job image read init s
  | query job => exact execQuery_kept job s
  | nop job => exact execNop_kept job s
  | mtrEnable m v => exact execMtrEnable_kept m v s
  | mtrRateWrite m reg v => exact execMtrRateWrite_kept m reg v s
  | sysQueryCtl v => exact execSysQueryCtl_kept v s
  | queryResultReady => exact execQueryResultReady_kept s
  | sysQueryResultRead => exact execSysQueryResultRead_kept s
  | audSnapTake page => exact execAudSnapTake_kept page s
  | frameMark => exact execFrameMark_kept s
  | wallsyncEdge => exact execWallsyncEdge_kept s
  | wallsyncHoldover => exact execWallsyncHoldover_kept s
  | unitDispatch core => exact execUnitDispatch_kept core s
  | workUnitDone core res => exact execWorkUnitDone_kept core res s
  | pinCopyDone stream order => exact execPinCopyDone_kept stream order s
  | pickup window => exact execPickup_kept window s
  | streamDrainDone stream => exact execStreamDrainDone_kept stream s
  | drainTimeout stream => exact execDrainTimeout_kept stream s
  | decCoreCtlOffline core v => exact execDecCoreCtlOffline_kept core v s
  | decCoreReset core => exact execDecCoreReset_kept core s
  | rfsRegionWrite reg v => exact execRfsRegionWrite_kept reg v s
  | rowPairStart => exact execRowPairStart_kept s
  | driveRowPair => exact execDriveRowPair_kept s
  | fusCapCommit => exact execFusCapCommit_kept s
  | capCommitStoreDone okA okB => exact execCapCommitStoreDone_kept okA okB s
  | fusForce page v => exact execFusForce_kept page v s
  | mzeRowPairStart core => exact execMzeRowPairStart_kept core s
  | mzeRowPairDone core => exact execMzeRowPairDone_kept core s
  | linkFrameSubmit input => exact execLinkFrameSubmit_kept input s
  | mzeCoreReset core => exact execMzeCoreReset_kept core s
  | mzeRefRegionWrite reg v => exact execMzeRefRegionWrite_kept reg v s
  | encSourceReady session => exact execEncSourceReady_kept session s
  | encPictureStart session => exact execEncPictureStart_kept session s
  | encPictureDone session cols qp guard => exact execEncPictureDone_kept session cols qp guard s
  | encCoreReset core => exact execEncCoreReset_kept core s
  | encRegionWrite reg v => exact execEncRegionWrite_kept reg v s
  | alloc r => exact execAlloc_kept r s
  | share r buf n holder => exact execShare_kept r buf n holder s
  | release r buf => exact execRelease_kept r buf s
  | free r buf => exact execFree_kept r buf s
  | handover r buf new => exact execHandover_kept r buf new s
  | listRebuildDone pool => exact execListRebuildDone_kept pool s
  | forceFree v => exact execForceFree_kept v s
  | forceOwner v => exact execForceOwner_kept v s
  | dpoolConfigWrite reg v => exact execDpoolConfigWrite_kept reg v s
  | dpoolRebuildDone => exact execDpoolRebuildDone_kept s
  | quotaWrite owner v => exact execQuotaWrite_kept owner v s
  | minWrite owner v => exact execMinWrite_kept owner v s
  | cellMatch => exact execCellMatch_kept s
  | portMark port => exact execPortMark_kept port s
  | linkFrameDepart port slot => exact execLinkFrameDepart_kept port slot s
  | tileClose port tile => exact execTileClose_kept port tile s
  | shaperRateWrite port v => exact execShaperRateWrite_kept port v s
  | shaperBurstWrite port v => exact execShaperBurstWrite_kept port v s
  | shaperForgive port => exact execShaperForgive_kept port s
  | shaperEnable port v => exact execShaperEnable_kept port v s
  | shaperDisable port v => exact execShaperDisable_kept port v s
  | beatTableParity port => exact execBeatTableParity_kept port s
  | portTrainStart port => exact execPortTrainStart_kept port s
  | trainAlignTimeout port => exact execTrainAlignTimeout_kept port s
  | trainRetryTimer port => exact execTrainRetryTimer_kept port s
  | tsType2Received port pos vers rest => exact execTsType2Received_kept port pos vers rest s
  | positionCollectTimeout port => exact execPositionCollectTimeout_kept port s
  | tsType4Received port pos set => exact execTsType4Received_kept port pos set s
  | versionConfirmTimeout port pos => exact execVersionConfirmTimeout_kept port pos s
  | echoReceived port pos rtNs => exact execEchoReceived_kept port pos rtNs s
  | trainComplete port => exact execTrainComplete_kept port s
  | laneAlignLoss lane => exact execLaneAlignLoss_kept lane s
  | fomMeasure lane fom => exact execFomMeasure_kept lane fom s
  | plkRetrain port => exact execPlkRetrain_kept port s
  | plkPortCfgWrite port v => exact execPlkPortCfgWrite_kept port v s
  | portTestEnter port => exact execPortTestEnter_kept port s
  | portTestClear port => exact execPortTestClear_kept port s
  | lneTestInject lane => exact execLneTestInject_kept lane s
  | statusFrame port frame => exact execStatusFrame_kept port frame s
  | mgmtResponse port frame => exact execMgmtResponse_kept port frame s
  | identityReplyTimeout port pos => exact execIdentityReplyTimeout_kept port pos s
  | identityReread port pos => exact execIdentityReread_kept port pos s
  | creditBlock port n => exact execCreditBlock_kept port n s
  | upstreamFrame port frame => exact execUpstreamFrame_kept port frame s
  | modulePoll bus found => exact execModulePoll_kept bus found s
  | i2cGo v => exact execI2cGo_kept v s
  | escRoutineStart kind index routine => exact execEscRoutineStart_kept kind index routine s
  | escRoutineExit kind index conds => exact execEscRoutineExit_kept kind index conds s
  | escWaitTimeout kind index conds => exact execEscWaitTimeout_kept kind index conds s
  | escSafePointExit kind index conds => exact execEscSafePointExit_kept kind index conds s
  | stopLimitExpiry kind index => exact execStopLimitExpiry_kept kind index s
  | microwordParity kind index => exact execMicrowordParity_kept kind index s
  | escLoadGo v => exact execEscLoadGo_kept v s
  | escLoadDone => exact execEscLoadDone_kept s
  | pgEnableClear page => exact execPgEnableClear_kept page s
  | pgEnableSet page => exact execPgEnableSet_kept page s
  | pgSoftReset page => exact execPgSoftReset_kept page s
  | pgSafeStop page => exact execPgSafeStop_kept page s
  | bundleWriteGo v => exact execBundleWriteGo_kept v s
  | bundleWriteDone readBackOk => exact execBundleWriteDone_kept readBackOk s
  | watchdogRestart g => exact execWatchdogRestart_kept g s
  | watchdogHalf g => exact execWatchdogHalf_kept g s
  | watchdogExpire g => exact execWatchdogExpire_kept g s
  | rglReload g => exact execRglReload_kept g s
  | hostMbxPost g => exact execHostMbxPost_kept g s
  | lMbxPost g v => exact execLMbxPost_kept g v s
  | lMbxPop g => exact execLMbxPop_kept g s
  | lRxqCiWrite g v => exact execLRxqCiWrite_kept g v s
  | lTxqPiWrite g v => exact execLTxqPiWrite_kept g v s
  | txEntrySend g => exact execTxEntrySend_kept g s
  | frameOverrunStop g slot access => exact execFrameOverrunStop_kept g slot access s
  | yield g slot => exact execYield_kept g slot s
  | mbxSend g slot target msg => exact execMbxSend_kept g slot target msg s
  | mbxRecv g slot => exact execMbxRecv_kept g slot s
  | pool g slot op buf n owner => exact execPool_kept g slot op buf n owner s
  | event g slot code args => exact execEvent_kept g slot code args s
  | time g slot => exact execTime_kept g slot s
  | rxqTake g slot => exact execRxqTake_kept g slot s
  | txqPost g slot entry => exact execTxqPost_kept g slot entry s
  | publish g slot kind addr => exact execPublish_kept g slot kind addr s
  | lookup g slot kind => exact execLookup_kept g slot kind s
  | timer g slot us => exact execTimer_kept g slot us s
  | timerExpire g slot => exact execTimerExpire_kept g slot s
  | descriptorFetch ch desc resp => exact execDescriptorFetch_kept ch desc resp s
  | dmaCopy ch data => exact execDmaCopy_kept ch data s
  | dmaFill ch => exact execDmaFill_kept ch s
  | dmaCompare ch a b => exact execDmaCompare_kept ch a b s
  | dmaAccessResponse ch onSrc offset len resp => exact execDmaAccessResponse_kept ch onSrc offset len resp s
  | dmaChainTimeout ch => exact execDmaChainTimeout_kept ch s
  | dmaGo ch => exact execDmaGo_kept ch s
  | dmaAbort ch => exact execDmaAbort_kept ch s
  | intSourceEdge id priv level => exact execIntSourceEdge_kept id priv level s
  | intTimerMatch g => exact execIntTimerMatch_kept g s
  | intSwset v => exact execIntSwset_kept v s
  | lIntSwset g v => exact execLIntSwset_kept g v s
  | intPendClear page w v => exact execIntPendClear_kept page w v s
  | intEntry g pc => exact execIntEntry_kept g pc s
  | intMret g => exact execIntMret_kept g s
  | intHoldSet v => exact execIntHoldSet_kept v s
  | intHoldClear v => exact execIntHoldClear_kept v s
  | intHclaimRead id => exact execIntHclaimRead_kept id s
  | intHclaimWrite id v => exact execIntHclaimWrite_kept id v s
  | faultNPulseEnd => exact execFaultNPulseEnd_kept s
  | pgErrStickyW1c page v => exact execPgErrStickyW1c_kept page v s
  | pgErrEnableWrite page v => exact execPgErrEnableWrite_kept page v s
  | pgErrInjectWrite page v => exact execPgErrInjectWrite_kept page v s
  | testUnlockKey1 v => exact execTestUnlockKey1_kept v s
  | testUnlockKey2 v => exact execTestUnlockKey2_kept v s
  | testUnlockArmTimeout => exact execTestUnlockArmTimeout_kept s
  | jtagInstruction code => exact execJtagInstruction_kept code s
  | patrolScrub line channel ecc => exact execPatrolScrub_kept line channel ecc s
  | zeroChunk => exact execZeroChunk_kept s
  | memFreqGo v => exact execMemFreqGo_kept v s
  | memFreqDone => exact execMemFreqDone_kept s
  | memErrlogClear => exact execMemErrlogClear_kept s
  | memTimingWrite f w v => exact execMemTimingWrite_kept f w v s
  | kstXferGo v => exact execKstXferGo_kept v s
  | kstXferDone => exact execKstXferDone_kept s
  | pwrDomainOffReq v => exact execPwrDomainOffReq_kept v s
  | domainDrainDone d => exact execDomainDrainDone_kept d s
  | domainDrainTimeout d => exact execDomainDrainTimeout_kept d s
  | pwrDomainOnReq v => exact execPwrDomainOnReq_kept v s
  | domainWakeDone d => exact execDomainWakeDone_kept d s
  | thermalSample temps => exact execThermalSample_kept temps s
  | smbusRead cmd => exact execSmbusRead_kept cmd s
  | registerWrite by_ offset v => exact execRegisterWrite_kept by_ offset v s
  | cxlMemAccess write addr data ecc => exact execCxlMemAccess_kept write addr data ecc s
  | lanePllUnlock lane => exact execLanePllUnlock_kept lane s
  | lanePllRelock lane => exact execLanePllRelock_kept lane s
  | i2cTransferDone rdata nack => exact execI2cTransferDone_kept rdata nack s
  | ccacheFlushDone => exact execCcacheFlushDone_kept s
  | complicationInitTimeout job => exact execComplicationInitTimeout_kept job s

end Sys2Proof.Machine
end

