-- ==== Sys2Proof/Laws/State.lean ====
section
/-! SUPPORT. What each update of the state reads back as, and which parts of the state each shared operation of
Machine/Ops.lean leaves alone: one lemma per part and operation, for `simp`. -/

set_option Elab.async false
set_option linter.all false

namespace Sys2Proof.Machine

/-! ### Records read back what was put into them -/

@[simp] theorem State.src_setSrc (s : State) (id : Nat) (x : IntSrc) : (s.setSrc id x).src id = x := by
  simp [State.src, State.setSrc]

theorem State.src_setSrc_other (s : State) (id : Nat) (x : IntSrc) {j : Nat} (h : id ≠ j) : (s.setSrc id x).src j = s.src j := by
  simp [State.src, State.setSrc, Tab.get_set_other _ _ _ h]

@[simp] theorem State.tgt_setTgt (s : State) (g : Nat) (x : IntTgt) : (s.setTgt g x).tgt g = x := by
  simp [State.tgt, State.setTgt]

theorem State.tgt_setTgt_other (s : State) (g : Nat) (x : IntTgt) {j : Nat} (h : g ≠ j) : (s.setTgt g x).tgt j = s.tgt j := by
  simp [State.tgt, State.setTgt, Tab.get_set_other _ _ _ h]

@[simp] theorem State.vec_setVec (s : State) (v : Nat) (x : MsixVec) : (s.setVec v x).vec v = x := by
  simp [State.vec, State.setVec]

theorem State.vec_setVec_other (s : State) (v : Nat) (x : MsixVec) {j : Nat} (h : v ≠ j) : (s.setVec v x).vec j = s.vec j := by
  simp [State.vec, State.setVec, Tab.get_set_other _ _ _ h]

@[simp] theorem State.ring_setRing (s : State) (r : Nat) (x : Ring) : (s.setRing r x).ring r = x := by
  simp [State.ring, State.setRing]

theorem State.ring_setRing_other (s : State) (r : Nat) (x : Ring) {j : Nat} (h : r ≠ j) : (s.setRing r x).ring j = s.ring j := by
  simp [State.ring, State.setRing, Tab.get_set_other _ _ _ h]

/-- A register field reads back what was written, cut to its width. -/
@[simp] theorem State.fld_setFld (s : State) (f : Fld) (i v : Nat) : (s.setFld f i v).fld f i = v % 2 ^ f.width := by
  simp [State.fld, State.setFld]

/-- Registers with another key keep their value. -/
theorem State.fld_setFld_key (s : State) {f g : Fld} {i j : Nat} (v : Nat) (h : f.key i ≠ g.key j) :
    (s.setFld f i v).fld g j = s.fld g j := by
  simp [State.fld, State.setFld, Tab.get_set_other _ _ _ h]

/-- Registers of another field keep their value: the fields are numbered below 1,024. -/
theorem State.fld_setFld_other (s : State) {f g : Fld} {i j : Nat} (v : Nat) (h : f.id ≠ g.id) (hf : f.id < 1024)
    (hg : g.id < 1024) : (s.setFld f i v).fld g j = s.fld g j := by
  apply State.fld_setFld_key
  unfold Fld.key
  omega

/-- Other registers of the same field keep their value. -/
theorem State.fld_setFld_index (s : State) (f : Fld) {i j : Nat} (v : Nat) (h : i ≠ j) :
    (s.setFld f i v).fld f j = s.fld f j := by
  apply State.fld_setFld_key
  unfold Fld.key
  omega

/-- A part that no register lies in does not change what a register reads. -/
theorem State.fld_congr {s t : State} (hv : t.variant = s.variant) (hr : t.regs = s.regs) (f : Fld) (i : Nat) : t.fld f i = s.fld f i := by
  simp [State.fld, hv, hr]

/-- A fold keeps what each of its steps keeps. -/
theorem State.foldl_part {α β : Type} {f : State → α → State} {g : State → β} (h : ∀ s a, g (f s a) = g s) :
    ∀ (l : List α) (s : State), g (l.foldl f s) = g s
  | [], _ => rfl
  | a :: l, s => (State.foldl_part h l (f s a)).trans (h s a)

/-! ### Parts that the shared operations leave alone -/

theorem State.takeInject_variant (s : State) (src : Src) (i : Nat) (t : State) (h : s.takeInject src i = some t) :
    t.variant = s.variant := by
  unfold State.takeInject at h
  dsimp only at h
  split at h
  · cases h; rfl
  · cases h

theorem State.takeInject_now (s : State) (src : Src) (i : Nat) (t : State) (h : s.takeInject src i = some t) :
    t.now = s.now := by
  unfold State.takeInject at h
  dsimp only at h
  split at h
  · cases h; rfl
  · cases h

theorem State.takeInject_freeCtr (s : State) (src : Src) (i : Nat) (t : State) (h : s.takeInject src i = some t) :
    t.freeCtr = s.freeCtr := by
  unfold State.takeInject at h
  dsimp only at h
  split at h
  · cases h; rfl
  · cases h

theorem State.takeInject_pending (s : State) (src : Src) (i : Nat) (t : State) (h : s.takeInject src i = some t) :
    t.pending = s.pending := by
  unfold State.takeInject at h
  dsimp only at h
  split at h
  · cases h; rfl
  · cases h

theorem State.takeInject_hst (s : State) (src : Src) (i : Nat) (t : State) (h : s.takeInject src i = some t) :
    t.hst = s.hst := by
  unfold State.takeInject at h
  dsimp only at h
  split at h
  · cases h; rfl
  · cases h

theorem State.takeInject_rng (s : State) (src : Src) (i : Nat) (t : State) (h : s.takeInject src i = some t) :
    t.rng = s.rng := by
  unfold State.takeInject at h
  dsimp only at h
  split at h
  · cases h; rfl
  · cases h

theorem State.takeInject_pool (s : State) (src : Src) (i : Nat) (t : State) (h : s.takeInject src i = some t) :
    t.pool = s.pool := by
  unfold State.takeInject at h
  dsimp only at h
  split at h
  · cases h; rfl
  · cases h

theorem State.takeInject_int (s : State) (src : Src) (i : Nat) (t : State) (h : s.takeInject src i = some t) :
    t.int = s.int := by
  unfold State.takeInject at h
  dsimp only at h
  split at h
  · cases h; rfl
  · cases h

theorem State.takeInject_flt (s : State) (src : Src) (i : Nat) (t : State) (h : s.takeInject src i = some t) :
    t.flt = s.flt := by
  unfold State.takeInject at h
  dsimp only at h
  split at h
  · cases h; rfl
  · cases h

theorem State.takeInject_mem (s : State) (src : Src) (i : Nat) (t : State) (h : s.takeInject src i = some t) :
    t.mem = s.mem := by
  unfold State.takeInject at h
  dsimp only at h
  split at h
  · cases h; rfl
  · cases h

theorem State.takeInject_kst (s : State) (src : Src) (i : Nat) (t : State) (h : s.takeInject src i = some t) :
    t.kst = s.kst := by
  unfold State.takeInject at h
  dsimp only at h
  split at h
  · cases h; rfl
  · cases h

theorem State.takeInject_pwr (s : State) (src : Src) (i : Nat) (t : State) (h : s.takeInject src i = some t) :
    t.pwr = s.pwr := by
  unfold State.takeInject at h
  dsimp only at h
  split at h
  · cases h; rfl
  · cases h

theorem State.takeInject_dec (s : State) (src : Src) (i : Nat) (t : State) (h : s.takeInject src i = some t) :
    t.dec = s.dec := by
  unfold State.takeInject at h
  dsimp only at h
  split at h
  · cases h; rfl
  · cases h

theorem State.takeInject_clb (s : State) (src : Src) (i : Nat) (t : State) (h : s.takeInject src i = some t) :
    t.clb = s.clb := by
  unfold State.takeInject at h
  dsimp only at h
  split at h
  · cases h; rfl
  · cases h

theorem State.takeInject_cnv (s : State) (src : Src) (i : Nat) (t : State) (h : s.takeInject src i = some t) :
    t.cnv = s.cnv := by
  unfold State.takeInject at h
  dsimp only at h
  split at h
  · cases h; rfl
  · cases h

theorem State.takeInject_fus (s : State) (src : Src) (i : Nat) (t : State) (h : s.takeInject src i = some t) :
    t.fus = s.fus := by
  unfold State.takeInject at h
  dsimp only at h
  split at h
  · cases h; rfl
  · cases h

theorem State.takeInject_mze (s : State) (src : Src) (i : Nat) (t : State) (h : s.takeInject src i = some t) :
    t.mze = s.mze := by
  unfold State.takeInject at h
  dsimp only at h
  split at h
  · cases h; rfl
  · cases h

theorem State.takeInject_swc (s : State) (src : Src) (i : Nat) (t : State) (h : s.takeInject src i = some t) :
    t.swc = s.swc := by
  unfold State.takeInject at h
  dsimp only at h
  split at h
  · cases h; rfl
  · cases h

theorem State.takeInject_sch (s : State) (src : Src) (i : Nat) (t : State) (h : s.takeInject src i = some t) :
    t.sch = s.sch := by
  unfold State.takeInject at h
  dsimp only at h
  split at h
  · cases h; rfl
  · cases h

theorem State.takeInject_plk (s : State) (src : Src) (i : Nat) (t : State) (h : s.takeInject src i = some t) :
    t.plk = s.plk := by
  unfold State.takeInject at h
  dsimp only at h
  split at h
  · cases h; rfl
  · cases h

theorem State.takeInject_rgq (s : State) (src : Src) (i : Nat) (t : State) (h : s.takeInject src i = some t) :
    t.rgq = s.rgq := by
  unfold State.takeInject at h
  dsimp only at h
  split at h
  · cases h; rfl
  · cases h

theorem State.takeInject_enc (s : State) (src : Src) (i : Nat) (t : State) (h : s.takeInject src i = some t) :
    t.enc = s.enc := by
  unfold State.takeInject at h
  dsimp only at h
  split at h
  · cases h; rfl
  · cases h

theorem State.takeInject_esc (s : State) (src : Src) (i : Nat) (t : State) (h : s.takeInject src i = some t) :
    t.esc = s.esc := by
  unfold State.takeInject at h
  dsimp only at h
  split at h
  · cases h; rfl
  · cases h

theorem State.takeInject_rgl (s : State) (src : Src) (i : Nat) (t : State) (h : s.takeInject src i = some t) :
    t.rgl = s.rgl := by
  unfold State.takeInject at h
  dsimp only at h
  split at h
  · cases h; rfl
  · cases h

theorem State.takeInject_dma (s : State) (src : Src) (i : Nat) (t : State) (h : s.takeInject src i = some t) :
    t.dma = s.dma := by
  unfold State.takeInject at h
  dsimp only at h
  split at h
  · cases h; rfl
  · cases h

@[simp] theorem State.setFld_variant (s : State) (f : Fld) (i v : Nat) : (s.setFld f i v).variant = s.variant := rfl

@[simp] theorem State.setFld_now (s : State) (f : Fld) (i v : Nat) : (s.setFld f i v).now = s.now := rfl

@[simp] theorem State.setFld_freeCtr (s : State) (f : Fld) (i v : Nat) : (s.setFld f i v).freeCtr = s.freeCtr := rfl

@[simp] theorem State.setFld_pending (s : State) (f : Fld) (i v : Nat) : (s.setFld f i v).pending = s.pending := rfl

@[simp] theorem State.setFld_hst (s : State) (f : Fld) (i v : Nat) : (s.setFld f i v).hst = s.hst := rfl

@[simp] theorem State.setFld_rng (s : State) (f : Fld) (i v : Nat) : (s.setFld f i v).rng = s.rng := rfl

@[simp] theorem State.setFld_pool (s : State) (f : Fld) (i v : Nat) : (s.setFld f i v).pool = s.pool := rfl

@[simp] theorem State.setFld_int (s : State) (f : Fld) (i v : Nat) : (s.setFld f i v).int = s.int := rfl

@[simp] theorem State.setFld_flt (s : State) (f : Fld) (i v : Nat) : (s.setFld f i v).flt = s.flt := rfl

@[simp] theorem State.setFld_mem (s : State) (f : Fld) (i v : Nat) : (s.setFld f i v).mem = s.mem := rfl

@[simp] theorem State.setFld_kst (s : State) (f : Fld) (i v : Nat) : (s.setFld f i v).kst = s.kst := rfl

@[simp] theorem State.setFld_pwr (s : State) (f : Fld) (i v : Nat) : (s.setFld f i v).pwr = s.pwr := rfl

@[simp] theorem State.setFld_dec (s : State) (f : Fld) (i v : Nat) : (s.setFld f i v).dec = s.dec := rfl

@[simp] theorem State.setFld_clb (s : State) (f : Fld) (i v : Nat) : (s.setFld f i v).clb = s.clb := rfl

@[simp] theorem State.setFld_cnv (s : State) (f : Fld) (i v : Nat) : (s.setFld f i v).cnv = s.cnv := rfl

@[simp] theorem State.setFld_fus (s : State) (f : Fld) (i v : Nat) : (s.setFld f i v).fus = s.fus := rfl

@[simp] theorem State.setFld_mze (s : State) (f : Fld) (i v : Nat) : (s.setFld f i v).mze = s.mze := rfl

@[simp] theorem State.setFld_swc (s : State) (f : Fld) (i v : Nat) : (s.setFld f i v).swc = s.swc := rfl

@[simp] theorem State.setFld_sch (s : State) (f : Fld) (i v : Nat) : (s.setFld f i v).sch = s.sch := rfl

@[simp] theorem State.setFld_plk (s : State) (f : Fld) (i v : Nat) : (s.setFld f i v).plk = s.plk := rfl

@[simp] theorem State.setFld_rgq (s : State) (f : Fld) (i v : Nat) : (s.setFld f i v).rgq = s.rgq := rfl

@[simp] theorem State.setFld_enc (s : State) (f : Fld) (i v : Nat) : (s.setFld f i v).enc = s.enc := rfl

@[simp] theorem State.setFld_esc (s : State) (f : Fld) (i v : Nat) : (s.setFld f i v).esc = s.esc := rfl

@[simp] theorem State.setFld_rgl (s : State) (f : Fld) (i v : Nat) : (s.setFld f i v).rgl = s.rgl := rfl

@[simp] theorem State.setFld_dma (s : State) (f : Fld) (i v : Nat) : (s.setFld f i v).dma = s.dma := rfl

@[simp] theorem State.count_variant (s : State) (f : Fld) (i n : Nat) : (s.count f i n).variant = s.variant := rfl

@[simp] theorem State.count_now (s : State) (f : Fld) (i n : Nat) : (s.count f i n).now = s.now := rfl

@[simp] theorem State.count_freeCtr (s : State) (f : Fld) (i n : Nat) : (s.count f i n).freeCtr = s.freeCtr := rfl

@[simp] theorem State.count_pending (s : State) (f : Fld) (i n : Nat) : (s.count f i n).pending = s.pending := rfl

@[simp] theorem State.count_hst (s : State) (f : Fld) (i n : Nat) : (s.count f i n).hst = s.hst := rfl

@[simp] theorem State.count_rng (s : State) (f : Fld) (i n : Nat) : (s.count f i n).rng = s.rng := rfl

@[simp] theorem State.count_pool (s : State) (f : Fld) (i n : Nat) : (s.count f i n).pool = s.pool := rfl

@[simp] theorem State.count_int (s : State) (f : Fld) (i n : Nat) : (s.count f i n).int = s.int := rfl

@[simp] theorem State.count_flt (s : State) (f : Fld) (i n : Nat) : (s.count f i n).flt = s.flt := rfl

@[simp] theorem State.count_mem (s : State) (f : Fld) (i n : Nat) : (s.count f i n).mem = s.mem := rfl

@[simp] theorem State.count_kst (s : State) (f : Fld) (i n : Nat) : (s.count f i n).kst = s.kst := rfl

@[simp] theorem State.count_pwr (s : State) (f : Fld) (i n : Nat) : (s.count f i n).pwr = s.pwr := rfl

@[simp] theorem State.count_dec (s : State) (f : Fld) (i n : Nat) : (s.count f i n).dec = s.dec := rfl

@[simp] theorem State.count_clb (s : State) (f : Fld) (i n : Nat) : (s.count f i n).clb = s.clb := rfl

@[simp] theorem State.count_cnv (s : State) (f : Fld) (i n : Nat) : (s.count f i n).cnv = s.cnv := rfl

@[simp] theorem State.count_fus (s : State) (f : Fld) (i n : Nat) : (s.count f i n).fus = s.fus := rfl

@[simp] theorem State.count_mze (s : State) (f : Fld) (i n : Nat) : (s.count f i n).mze = s.mze := rfl

@[simp] theorem State.count_swc (s : State) (f : Fld) (i n : Nat) : (s.count f i n).swc = s.swc := rfl

@[simp] theorem State.count_sch (s : State) (f : Fld) (i n : Nat) : (s.count f i n).sch = s.sch := rfl

@[simp] theorem State.count_plk (s : State) (f : Fld) (i n : Nat) : (s.count f i n).plk = s.plk := rfl

@[simp] theorem State.count_rgq (s : State) (f : Fld) (i n : Nat) : (s.count f i n).rgq = s.rgq := rfl

@[simp] theorem State.count_enc (s : State) (f : Fld) (i n : Nat) : (s.count f i n).enc = s.enc := rfl

@[simp] theorem State.count_esc (s : State) (f : Fld) (i n : Nat) : (s.count f i n).esc = s.esc := rfl

@[simp] theorem State.count_rgl (s : State) (f : Fld) (i n : Nat) : (s.count f i n).rgl = s.rgl := rfl

@[simp] theorem State.count_dma (s : State) (f : Fld) (i n : Nat) : (s.count f i n).dma = s.dma := rfl

@[simp] theorem State.countSat_variant (s : State) (f : Fld) (i n : Nat) : (s.countSat f i n).variant = s.variant := rfl

@[simp] theorem State.countSat_now (s : State) (f : Fld) (i n : Nat) : (s.countSat f i n).now = s.now := rfl

@[simp] theorem State.countSat_freeCtr (s : State) (f : Fld) (i n : Nat) : (s.countSat f i n).freeCtr = s.freeCtr := rfl

@[simp] theorem State.countSat_pending (s : State) (f : Fld) (i n : Nat) : (s.countSat f i n).pending = s.pending := rfl

@[simp] theorem State.countSat_hst (s : State) (f : Fld) (i n : Nat) : (s.countSat f i n).hst = s.hst := rfl

@[simp] theorem State.countSat_rng (s : State) (f : Fld) (i n : Nat) : (s.countSat f i n).rng = s.rng := rfl

@[simp] theorem State.countSat_pool (s : State) (f : Fld) (i n : Nat) : (s.countSat f i n).pool = s.pool := rfl

@[simp] theorem State.countSat_int (s : State) (f : Fld) (i n : Nat) : (s.countSat f i n).int = s.int := rfl

@[simp] theorem State.countSat_flt (s : State) (f : Fld) (i n : Nat) : (s.countSat f i n).flt = s.flt := rfl

@[simp] theorem State.countSat_mem (s : State) (f : Fld) (i n : Nat) : (s.countSat f i n).mem = s.mem := rfl

@[simp] theorem State.countSat_kst (s : State) (f : Fld) (i n : Nat) : (s.countSat f i n).kst = s.kst := rfl

@[simp] theorem State.countSat_pwr (s : State) (f : Fld) (i n : Nat) : (s.countSat f i n).pwr = s.pwr := rfl

@[simp] theorem State.countSat_dec (s : State) (f : Fld) (i n : Nat) : (s.countSat f i n).dec = s.dec := rfl

@[simp] theorem State.countSat_clb (s : State) (f : Fld) (i n : Nat) : (s.countSat f i n).clb = s.clb := rfl

@[simp] theorem State.countSat_cnv (s : State) (f : Fld) (i n : Nat) : (s.countSat f i n).cnv = s.cnv := rfl

@[simp] theorem State.countSat_fus (s : State) (f : Fld) (i n : Nat) : (s.countSat f i n).fus = s.fus := rfl

@[simp] theorem State.countSat_mze (s : State) (f : Fld) (i n : Nat) : (s.countSat f i n).mze = s.mze := rfl

@[simp] theorem State.countSat_swc (s : State) (f : Fld) (i n : Nat) : (s.countSat f i n).swc = s.swc := rfl

@[simp] theorem State.countSat_sch (s : State) (f : Fld) (i n : Nat) : (s.countSat f i n).sch = s.sch := rfl

@[simp] theorem State.countSat_plk (s : State) (f : Fld) (i n : Nat) : (s.countSat f i n).plk = s.plk := rfl

@[simp] theorem State.countSat_rgq (s : State) (f : Fld) (i n : Nat) : (s.countSat f i n).rgq = s.rgq := rfl

@[simp] theorem State.countSat_enc (s : State) (f : Fld) (i n : Nat) : (s.countSat f i n).enc = s.enc := rfl

@[simp] theorem State.countSat_esc (s : State) (f : Fld) (i n : Nat) : (s.countSat f i n).esc = s.esc := rfl

@[simp] theorem State.countSat_rgl (s : State) (f : Fld) (i n : Nat) : (s.countSat f i n).rgl = s.rgl := rfl

@[simp] theorem State.countSat_dma (s : State) (f : Fld) (i n : Nat) : (s.countSat f i n).dma = s.dma := rfl

@[simp] theorem State.clearPage_variant (s : State) (blk inst : Nat) (keep : List Fld) : (s.clearPage blk inst keep).variant = s.variant := rfl

@[simp] theorem State.clearPage_now (s : State) (blk inst : Nat) (keep : List Fld) : (s.clearPage blk inst keep).now = s.now := rfl

@[simp] theorem State.clearPage_freeCtr (s : State) (blk inst : Nat) (keep : List Fld) : (s.clearPage blk inst keep).freeCtr = s.freeCtr := rfl

@[simp] theorem State.clearPage_pending (s : State) (blk inst : Nat) (keep : List Fld) : (s.clearPage blk inst keep).pending = s.pending := rfl

@[simp] theorem State.clearPage_hst (s : State) (blk inst : Nat) (keep : List Fld) : (s.clearPage blk inst keep).hst = s.hst := rfl

@[simp] theorem State.clearPage_rng (s : State) (blk inst : Nat) (keep : List Fld) : (s.clearPage blk inst keep).rng = s.rng := rfl

@[simp] theorem State.clearPage_pool (s : State) (blk inst : Nat) (keep : List Fld) : (s.clearPage blk inst keep).pool = s.pool := rfl

@[simp] theorem State.clearPage_int (s : State) (blk inst : Nat) (keep : List Fld) : (s.clearPage blk inst keep).int = s.int := rfl

@[simp] theorem State.clearPage_flt (s : State) (blk inst : Nat) (keep : List Fld) : (s.clearPage blk inst keep).flt = s.flt := rfl

@[simp] theorem State.clearPage_mem (s : State) (blk inst : Nat) (keep : List Fld) : (s.clearPage blk inst keep).mem = s.mem := rfl

@[simp] theorem State.clearPage_kst (s : State) (blk inst : Nat) (keep : List Fld) : (s.clearPage blk inst keep).kst = s.kst := rfl

@[simp] theorem State.clearPage_pwr (s : State) (blk inst : Nat) (keep : List Fld) : (s.clearPage blk inst keep).pwr = s.pwr := rfl

@[simp] theorem State.clearPage_dec (s : State) (blk inst : Nat) (keep : List Fld) : (s.clearPage blk inst keep).dec = s.dec := rfl

@[simp] theorem State.clearPage_clb (s : State) (blk inst : Nat) (keep : List Fld) : (s.clearPage blk inst keep).clb = s.clb := rfl

@[simp] theorem State.clearPage_cnv (s : State) (blk inst : Nat) (keep : List Fld) : (s.clearPage blk inst keep).cnv = s.cnv := rfl

@[simp] theorem State.clearPage_fus (s : State) (blk inst : Nat) (keep : List Fld) : (s.clearPage blk inst keep).fus = s.fus := rfl

@[simp] theorem State.clearPage_mze (s : State) (blk inst : Nat) (keep : List Fld) : (s.clearPage blk inst keep).mze = s.mze := rfl

@[simp] theorem State.clearPage_swc (s : State) (blk inst : Nat) (keep : List Fld) : (s.clearPage blk inst keep).swc = s.swc := rfl

@[simp] theorem State.clearPage_sch (s : State) (blk inst : Nat) (keep : List Fld) : (s.clearPage blk inst keep).sch = s.sch := rfl

@[simp] theorem State.clearPage_plk (s : State) (blk inst : Nat) (keep : List Fld) : (s.clearPage blk inst keep).plk = s.plk := rfl

@[simp] theorem State.clearPage_rgq (s : State) (blk inst : Nat) (keep : List Fld) : (s.clearPage blk inst keep).rgq = s.rgq := rfl

@[simp] theorem State.clearPage_enc (s : State) (blk inst : Nat) (keep : List Fld) : (s.clearPage blk inst keep).enc = s.enc := rfl

@[simp] theorem State.clearPage_esc (s : State) (blk inst : Nat) (keep : List Fld) : (s.clearPage blk inst keep).esc = s.esc := rfl

@[simp] theorem State.clearPage_rgl (s : State) (blk inst : Nat) (keep : List Fld) : (s.clearPage blk inst keep).rgl = s.rgl := rfl

@[simp] theorem State.clearPage_dma (s : State) (blk inst : Nat) (keep : List Fld) : (s.clearPage blk inst keep).dma = s.dma := rfl

@[simp] theorem State.setSrc_variant (s : State) (id : Nat) (x : IntSrc) : (s.setSrc id x).variant = s.variant := rfl

@[simp] theorem State.setSrc_now (s : State) (id : Nat) (x : IntSrc) : (s.setSrc id x).now = s.now := rfl

@[simp] theorem State.setSrc_freeCtr (s : State) (id : Nat) (x : IntSrc) : (s.setSrc id x).freeCtr = s.freeCtr := rfl

@[simp] theorem State.setSrc_pending (s : State) (id : Nat) (x : IntSrc) : (s.setSrc id x).pending = s.pending := rfl

@[simp] theorem State.setSrc_regs (s : State) (id : Nat) (x : IntSrc) : (s.setSrc id x).regs = s.regs := rfl

@[simp] theorem State.setSrc_hst (s : State) (id : Nat) (x : IntSrc) : (s.setSrc id x).hst = s.hst := rfl

@[simp] theorem State.setSrc_rng (s : State) (id : Nat) (x : IntSrc) : (s.setSrc id x).rng = s.rng := rfl

@[simp] theorem State.setSrc_pool (s : State) (id : Nat) (x : IntSrc) : (s.setSrc id x).pool = s.pool := rfl

@[simp] theorem State.setSrc_flt (s : State) (id : Nat) (x : IntSrc) : (s.setSrc id x).flt = s.flt := rfl

@[simp] theorem State.setSrc_mem (s : State) (id : Nat) (x : IntSrc) : (s.setSrc id x).mem = s.mem := rfl

@[simp] theorem State.setSrc_kst (s : State) (id : Nat) (x : IntSrc) : (s.setSrc id x).kst = s.kst := rfl

@[simp] theorem State.setSrc_pwr (s : State) (id : Nat) (x : IntSrc) : (s.setSrc id x).pwr = s.pwr := rfl

@[simp] theorem State.setSrc_dec (s : State) (id : Nat) (x : IntSrc) : (s.setSrc id x).dec = s.dec := rfl

@[simp] theorem State.setSrc_clb (s : State) (id : Nat) (x : IntSrc) : (s.setSrc id x).clb = s.clb := rfl

@[simp] theorem State.setSrc_cnv (s : State) (id : Nat) (x : IntSrc) : (s.setSrc id x).cnv = s.cnv := rfl

@[simp] theorem State.setSrc_fus (s : State) (id : Nat) (x : IntSrc) : (s.setSrc id x).fus = s.fus := rfl

@[simp] theorem State.setSrc_mze (s : State) (id : Nat) (x : IntSrc) : (s.setSrc id x).mze = s.mze := rfl

@[simp] theorem State.setSrc_swc (s : State) (id : Nat) (x : IntSrc) : (s.setSrc id x).swc = s.swc := rfl

@[simp] theorem State.setSrc_sch (s : State) (id : Nat) (x : IntSrc) : (s.setSrc id x).sch = s.sch := rfl

@[simp] theorem State.setSrc_plk (s : State) (id : Nat) (x : IntSrc) : (s.setSrc id x).plk = s.plk := rfl

@[simp] theorem State.setSrc_rgq (s : State) (id : Nat) (x : IntSrc) : (s.setSrc id x).rgq = s.rgq := rfl

@[simp] theorem State.setSrc_enc (s : State) (id : Nat) (x : IntSrc) : (s.setSrc id x).enc = s.enc := rfl

@[simp] theorem State.setSrc_esc (s : State) (id : Nat) (x : IntSrc) : (s.setSrc id x).esc = s.esc := rfl

@[simp] theorem State.setSrc_rgl (s : State) (id : Nat) (x : IntSrc) : (s.setSrc id x).rgl = s.rgl := rfl

@[simp] theorem State.setSrc_dma (s : State) (id : Nat) (x : IntSrc) : (s.setSrc id x).dma = s.dma := rfl

@[simp] theorem State.setTgt_variant (s : State) (g : Nat) (x : IntTgt) : (s.setTgt g x).variant = s.variant := rfl

@[simp] theorem State.setTgt_now (s : State) (g : Nat) (x : IntTgt) : (s.setTgt g x).now = s.now := rfl

@[simp] theorem State.setTgt_freeCtr (s : State) (g : Nat) (x : IntTgt) : (s.setTgt g x).freeCtr = s.freeCtr := rfl

@[simp] theorem State.setTgt_pending (s : State) (g : Nat) (x : IntTgt) : (s.setTgt g x).pending = s.pending := rfl

@[simp] theorem State.setTgt_regs (s : State) (g : Nat) (x : IntTgt) : (s.setTgt g x).regs = s.regs := rfl

@[simp] theorem State.setTgt_hst (s : State) (g : Nat) (x : IntTgt) : (s.setTgt g x).hst = s.hst := rfl

@[simp] theorem State.setTgt_rng (s : State) (g : Nat) (x : IntTgt) : (s.setTgt g x).rng = s.rng := rfl

@[simp] theorem State.setTgt_pool (s : State) (g : Nat) (x : IntTgt) : (s.setTgt g x).pool = s.pool := rfl

@[simp] theorem State.setTgt_flt (s : State) (g : Nat) (x : IntTgt) : (s.setTgt g x).flt = s.flt := rfl

@[simp] theorem State.setTgt_mem (s : State) (g : Nat) (x : IntTgt) : (s.setTgt g x).mem = s.mem := rfl

@[simp] theorem State.setTgt_kst (s : State) (g : Nat) (x : IntTgt) : (s.setTgt g x).kst = s.kst := rfl

@[simp] theorem State.setTgt_pwr (s : State) (g : Nat) (x : IntTgt) : (s.setTgt g x).pwr = s.pwr := rfl

@[simp] theorem State.setTgt_dec (s : State) (g : Nat) (x : IntTgt) : (s.setTgt g x).dec = s.dec := rfl

@[simp] theorem State.setTgt_clb (s : State) (g : Nat) (x : IntTgt) : (s.setTgt g x).clb = s.clb := rfl

@[simp] theorem State.setTgt_cnv (s : State) (g : Nat) (x : IntTgt) : (s.setTgt g x).cnv = s.cnv := rfl

@[simp] theorem State.setTgt_fus (s : State) (g : Nat) (x : IntTgt) : (s.setTgt g x).fus = s.fus := rfl

@[simp] theorem State.setTgt_mze (s : State) (g : Nat) (x : IntTgt) : (s.setTgt g x).mze = s.mze := rfl

@[simp] theorem State.setTgt_swc (s : State) (g : Nat) (x : IntTgt) : (s.setTgt g x).swc = s.swc := rfl

@[simp] theorem State.setTgt_sch (s : State) (g : Nat) (x : IntTgt) : (s.setTgt g x).sch = s.sch := rfl

@[simp] theorem State.setTgt_plk (s : State) (g : Nat) (x : IntTgt) : (s.setTgt g x).plk = s.plk := rfl

@[simp] theorem State.setTgt_rgq (s : State) (g : Nat) (x : IntTgt) : (s.setTgt g x).rgq = s.rgq := rfl

@[simp] theorem State.setTgt_enc (s : State) (g : Nat) (x : IntTgt) : (s.setTgt g x).enc = s.enc := rfl

@[simp] theorem State.setTgt_esc (s : State) (g : Nat) (x : IntTgt) : (s.setTgt g x).esc = s.esc := rfl

@[simp] theorem State.setTgt_rgl (s : State) (g : Nat) (x : IntTgt) : (s.setTgt g x).rgl = s.rgl := rfl

@[simp] theorem State.setTgt_dma (s : State) (g : Nat) (x : IntTgt) : (s.setTgt g x).dma = s.dma := rfl

@[simp] theorem State.setVec_variant (s : State) (v : Nat) (x : MsixVec) : (s.setVec v x).variant = s.variant := rfl

@[simp] theorem State.setVec_now (s : State) (v : Nat) (x : MsixVec) : (s.setVec v x).now = s.now := rfl

@[simp] theorem State.setVec_freeCtr (s : State) (v : Nat) (x : MsixVec) : (s.setVec v x).freeCtr = s.freeCtr := rfl

@[simp] theorem State.setVec_pending (s : State) (v : Nat) (x : MsixVec) : (s.setVec v x).pending = s.pending := rfl

@[simp] theorem State.setVec_regs (s : State) (v : Nat) (x : MsixVec) : (s.setVec v x).regs = s.regs := rfl

@[simp] theorem State.setVec_rng (s : State) (v : Nat) (x : MsixVec) : (s.setVec v x).rng = s.rng := rfl

@[simp] theorem State.setVec_pool (s : State) (v : Nat) (x : MsixVec) : (s.setVec v x).pool = s.pool := rfl

@[simp] theorem State.setVec_int (s : State) (v : Nat) (x : MsixVec) : (s.setVec v x).int = s.int := rfl

@[simp] theorem State.setVec_flt (s : State) (v : Nat) (x : MsixVec) : (s.setVec v x).flt = s.flt := rfl

@[simp] theorem State.setVec_mem (s : State) (v : Nat) (x : MsixVec) : (s.setVec v x).mem = s.mem := rfl

@[simp] theorem State.setVec_kst (s : State) (v : Nat) (x : MsixVec) : (s.setVec v x).kst = s.kst := rfl

@[simp] theorem State.setVec_pwr (s : State) (v : Nat) (x : MsixVec) : (s.setVec v x).pwr = s.pwr := rfl

@[simp] theorem State.setVec_dec (s : State) (v : Nat) (x : MsixVec) : (s.setVec v x).dec = s.dec := rfl

@[simp] theorem State.setVec_clb (s : State) (v : Nat) (x : MsixVec) : (s.setVec v x).clb = s.clb := rfl

@[simp] theorem State.setVec_cnv (s : State) (v : Nat) (x : MsixVec) : (s.setVec v x).cnv = s.cnv := rfl

@[simp] theorem State.setVec_fus (s : State) (v : Nat) (x : MsixVec) : (s.setVec v x).fus = s.fus := rfl

@[simp] theorem State.setVec_mze (s : State) (v : Nat) (x : MsixVec) : (s.setVec v x).mze = s.mze := rfl

@[simp] theorem State.setVec_swc (s : State) (v : Nat) (x : MsixVec) : (s.setVec v x).swc = s.swc := rfl

@[simp] theorem State.setVec_sch (s : State) (v : Nat) (x : MsixVec) : (s.setVec v x).sch = s.sch := rfl

@[simp] theorem State.setVec_plk (s : State) (v : Nat) (x : MsixVec) : (s.setVec v x).plk = s.plk := rfl

@[simp] theorem State.setVec_rgq (s : State) (v : Nat) (x : MsixVec) : (s.setVec v x).rgq = s.rgq := rfl

@[simp] theorem State.setVec_enc (s : State) (v : Nat) (x : MsixVec) : (s.setVec v x).enc = s.enc := rfl

@[simp] theorem State.setVec_esc (s : State) (v : Nat) (x : MsixVec) : (s.setVec v x).esc = s.esc := rfl

@[simp] theorem State.setVec_rgl (s : State) (v : Nat) (x : MsixVec) : (s.setVec v x).rgl = s.rgl := rfl

@[simp] theorem State.setVec_dma (s : State) (v : Nat) (x : MsixVec) : (s.setVec v x).dma = s.dma := rfl

@[simp] theorem State.setRing_variant (s : State) (r : Nat) (x : Ring) : (s.setRing r x).variant = s.variant := rfl

@[simp] theorem State.setRing_now (s : State) (r : Nat) (x : Ring) : (s.setRing r x).now = s.now := rfl

@[simp] theorem State.setRing_freeCtr (s : State) (r : Nat) (x : Ring) : (s.setRing r x).freeCtr = s.freeCtr := rfl

@[simp] theorem State.setRing_pending (s : State) (r : Nat) (x : Ring) : (s.setRing r x).pending = s.pending := rfl

@[simp] theorem State.setRing_regs (s : State) (r : Nat) (x : Ring) : (s.setRing r x).regs = s.regs := rfl

@[simp] theorem State.setRing_hst (s : State) (r : Nat) (x : Ring) : (s.setRing r x).hst = s.hst := rfl

@[simp] theorem State.setRing_pool (s : State) (r : Nat) (x : Ring) : (s.setRing r x).pool = s.pool := rfl

@[simp] theorem State.setRing_int (s : State) (r : Nat) (x : Ring) : (s.setRing r x).int = s.int := rfl

@[simp] theorem State.setRing_flt (s : State) (r : Nat) (x : Ring) : (s.setRing r x).flt = s.flt := rfl

@[simp] theorem State.setRing_mem (s : State) (r : Nat) (x : Ring) : (s.setRing r x).mem = s.mem := rfl

@[simp] theorem State.setRing_kst (s : State) (r : Nat) (x : Ring) : (s.setRing r x).kst = s.kst := rfl

@[simp] theorem State.setRing_pwr (s : State) (r : Nat) (x : Ring) : (s.setRing r x).pwr = s.pwr := rfl

@[simp] theorem State.setRing_dec (s : State) (r : Nat) (x : Ring) : (s.setRing r x).dec = s.dec := rfl

@[simp] theorem State.setRing_clb (s : State) (r : Nat) (x : Ring) : (s.setRing r x).clb = s.clb := rfl

@[simp] theorem State.setRing_cnv (s : State) (r : Nat) (x : Ring) : (s.setRing r x).cnv = s.cnv := rfl

@[simp] theorem State.setRing_fus (s : State) (r : Nat) (x : Ring) : (s.setRing r x).fus = s.fus := rfl

@[simp] theorem State.setRing_mze (s : State) (r : Nat) (x : Ring) : (s.setRing r x).mze = s.mze := rfl

@[simp] theorem State.setRing_swc (s : State) (r : Nat) (x : Ring) : (s.setRing r x).swc = s.swc := rfl

@[simp] theorem State.setRing_sch (s : State) (r : Nat) (x : Ring) : (s.setRing r x).sch = s.sch := rfl

@[simp] theorem State.setRing_plk (s : State) (r : Nat) (x : Ring) : (s.setRing r x).plk = s.plk := rfl

@[simp] theorem State.setRing_rgq (s : State) (r : Nat) (x : Ring) : (s.setRing r x).rgq = s.rgq := rfl

@[simp] theorem State.setRing_enc (s : State) (r : Nat) (x : Ring) : (s.setRing r x).enc = s.enc := rfl

@[simp] theorem State.setRing_esc (s : State) (r : Nat) (x : Ring) : (s.setRing r x).esc = s.esc := rfl

@[simp] theorem State.setRing_rgl (s : State) (r : Nat) (x : Ring) : (s.setRing r x).rgl = s.rgl := rfl

@[simp] theorem State.setRing_dma (s : State) (r : Nat) (x : Ring) : (s.setRing r x).dma = s.dma := rfl

@[simp] theorem State.start_variant (s : State) (j w : Nat) : (s.start j w).variant = s.variant := rfl

@[simp] theorem State.start_now (s : State) (j w : Nat) : (s.start j w).now = s.now := rfl

@[simp] theorem State.start_freeCtr (s : State) (j w : Nat) : (s.start j w).freeCtr = s.freeCtr := rfl

@[simp] theorem State.start_pending (s : State) (j w : Nat) : (s.start j w).pending = s.pending := rfl

@[simp] theorem State.start_regs (s : State) (j w : Nat) : (s.start j w).regs = s.regs := rfl

@[simp] theorem State.start_hst (s : State) (j w : Nat) : (s.start j w).hst = s.hst := rfl

@[simp] theorem State.start_pool (s : State) (j w : Nat) : (s.start j w).pool = s.pool := rfl

@[simp] theorem State.start_int (s : State) (j w : Nat) : (s.start j w).int = s.int := rfl

@[simp] theorem State.start_flt (s : State) (j w : Nat) : (s.start j w).flt = s.flt := rfl

@[simp] theorem State.start_mem (s : State) (j w : Nat) : (s.start j w).mem = s.mem := rfl

@[simp] theorem State.start_kst (s : State) (j w : Nat) : (s.start j w).kst = s.kst := rfl

@[simp] theorem State.start_pwr (s : State) (j w : Nat) : (s.start j w).pwr = s.pwr := rfl

@[simp] theorem State.start_dec (s : State) (j w : Nat) : (s.start j w).dec = s.dec := rfl

@[simp] theorem State.start_clb (s : State) (j w : Nat) : (s.start j w).clb = s.clb := rfl

@[simp] theorem State.start_cnv (s : State) (j w : Nat) : (s.start j w).cnv = s.cnv := rfl

@[simp] theorem State.start_fus (s : State) (j w : Nat) : (s.start j w).fus = s.fus := rfl

@[simp] theorem State.start_mze (s : State) (j w : Nat) : (s.start j w).mze = s.mze := rfl

@[simp] theorem State.start_swc (s : State) (j w : Nat) : (s.start j w).swc = s.swc := rfl

@[simp] theorem State.start_sch (s : State) (j w : Nat) : (s.start j w).sch = s.sch := rfl

@[simp] theorem State.start_plk (s : State) (j w : Nat) : (s.start j w).plk = s.plk := rfl

@[simp] theorem State.start_rgq (s : State) (j w : Nat) : (s.start j w).rgq = s.rgq := rfl

@[simp] theorem State.start_enc (s : State) (j w : Nat) : (s.start j w).enc = s.enc := rfl

@[simp] theorem State.start_esc (s : State) (j w : Nat) : (s.start j w).esc = s.esc := rfl

@[simp] theorem State.start_rgl (s : State) (j w : Nat) : (s.start j w).rgl = s.rgl := rfl

@[simp] theorem State.start_dma (s : State) (j w : Nat) : (s.start j w).dma = s.dma := rfl

@[simp] theorem State.sendMsix_variant (s : State) (v : Nat) : (s.sendMsix v).variant = s.variant := by
  unfold State.sendMsix
  repeat' first | rfl | split | (simp; done) | dsimp only

@[simp] theorem State.sendMsix_now (s : State) (v : Nat) : (s.sendMsix v).now = s.now := by
  unfold State.sendMsix
  repeat' first | rfl | split | (simp; done) | dsimp only

@[simp] theorem State.sendMsix_freeCtr (s : State) (v : Nat) : (s.sendMsix v).freeCtr = s.freeCtr := by
  unfold State.sendMsix
  repeat' first | rfl | split | (simp; done) | dsimp only

@[simp] theorem State.sendMsix_pending (s : State) (v : Nat) : (s.sendMsix v).pending = s.pending := by
  unfold State.sendMsix
  repeat' first | rfl | split | (simp; done) | dsimp only

@[simp] theorem State.sendMsix_rng (s : State) (v : Nat) : (s.sendMsix v).rng = s.rng := by
  unfold State.sendMsix
  repeat' first | rfl | split | (simp; done) | dsimp only

@[simp] theorem State.sendMsix_pool (s : State) (v : Nat) : (s.sendMsix v).pool = s.pool := by
  unfold State.sendMsix
  repeat' first | rfl | split | (simp; done) | dsimp only

@[simp] theorem State.sendMsix_int (s : State) (v : Nat) : (s.sendMsix v).int = s.int := by
  unfold State.sendMsix
  repeat' first | rfl | split | (simp; done) | dsimp only

@[simp] theorem State.sendMsix_flt (s : State) (v : Nat) : (s.sendMsix v).flt = s.flt := by
  unfold State.sendMsix
  repeat' first | rfl | split | (simp; done) | dsimp only

@[simp] theorem State.sendMsix_mem (s : State) (v : Nat) : (s.sendMsix v).mem = s.mem := by
  unfold State.sendMsix
  repeat' first | rfl | split | (simp; done) | dsimp only

@[simp] theorem State.sendMsix_kst (s : State) (v : Nat) : (s.sendMsix v).kst = s.kst := by
  unfold State.sendMsix
  repeat' first | rfl | split | (simp; done) | dsimp only

@[simp] theorem State.sendMsix_pwr (s : State) (v : Nat) : (s.sendMsix v).pwr = s.pwr := by
  unfold State.sendMsix
  repeat' first | rfl | split | (simp; done) | dsimp only

@[simp] theorem State.sendMsix_dec (s : State) (v : Nat) : (s.sendMsix v).dec = s.dec := by
  unfold State.sendMsix
  repeat' first | rfl | split | (simp; done) | dsimp only

@[simp] theorem State.sendMsix_clb (s : State) (v : Nat) : (s.sendMsix v).clb = s.clb := by
  unfold State.sendMsix
  repeat' first | rfl | split | (simp; done) | dsimp only

@[simp] theorem State.sendMsix_cnv (s : State) (v : Nat) : (s.sendMsix v).cnv = s.cnv := by
  unfold State.sendMsix
  repeat' first | rfl | split | (simp; done) | dsimp only

@[simp] theorem State.sendMsix_fus (s : State) (v : Nat) : (s.sendMsix v).fus = s.fus := by
  unfold State.sendMsix
  repeat' first | rfl | split | (simp; done) | dsimp only

@[simp] theorem State.sendMsix_mze (s : State) (v : Nat) : (s.sendMsix v).mze = s.mze := by
  unfold State.sendMsix
  repeat' first | rfl | split | (simp; done) | dsimp only

@[simp] theorem State.sendMsix_swc (s : State) (v : Nat) : (s.sendMsix v).swc = s.swc := by
  unfold State.sendMsix
  repeat' first | rfl | split | (simp; done) | dsimp only

@[simp] theorem State.sendMsix_sch (s : State) (v : Nat) : (s.sendMsix v).sch = s.sch := by
  unfold State.sendMsix
  repeat' first | rfl | split | (simp; done) | dsimp only

@[simp] theorem State.sendMsix_plk (s : State) (v : Nat) : (s.sendMsix v).plk = s.plk := by
  unfold State.sendMsix
  repeat' first | rfl | split | (simp; done) | dsimp only

@[simp] theorem State.sendMsix_rgq (s : State) (v : Nat) : (s.sendMsix v).rgq = s.rgq := by
  unfold State.sendMsix
  repeat' first | rfl | split | (simp; done) | dsimp only

@[simp] theorem State.sendMsix_enc (s : State) (v : Nat) : (s.sendMsix v).enc = s.enc := by
  unfold State.sendMsix
  repeat' first | rfl | split | (simp; done) | dsimp only

@[simp] theorem State.sendMsix_esc (s : State) (v : Nat) : (s.sendMsix v).esc = s.esc := by
  unfold State.sendMsix
  repeat' first | rfl | split | (simp; done) | dsimp only

@[simp] theorem State.sendMsix_rgl (s : State) (v : Nat) : (s.sendMsix v).rgl = s.rgl := by
  unfold State.sendMsix
  repeat' first | rfl | split | (simp; done) | dsimp only

@[simp] theorem State.sendMsix_dma (s : State) (v : Nat) : (s.sendMsix v).dma = s.dma := by
  unfold State.sendMsix
  repeat' first | rfl | split | (simp; done) | dsimp only

@[simp] theorem State.hostMsg_variant (s : State) (b : State) (id : Nat) : (s.hostMsg b id).variant = s.variant := by
  unfold State.hostMsg
  repeat' first | rfl | split | (simp; done) | dsimp only

@[simp] theorem State.hostMsg_now (s : State) (b : State) (id : Nat) : (s.hostMsg b id).now = s.now := by
  unfold State.hostMsg
  repeat' first | rfl | split | (simp; done) | dsimp only

@[simp] theorem State.hostMsg_freeCtr (s : State) (b : State) (id : Nat) : (s.hostMsg b id).freeCtr = s.freeCtr := by
  unfold State.hostMsg
  repeat' first | rfl | split | (simp; done) | dsimp only

@[simp] theorem State.hostMsg_pending (s : State) (b : State) (id : Nat) : (s.hostMsg b id).pending = s.pending := by
  unfold State.hostMsg
  repeat' first | rfl | split | (simp; done) | dsimp only

@[simp] theorem State.hostMsg_rng (s : State) (b : State) (id : Nat) : (s.hostMsg b id).rng = s.rng := by
  unfold State.hostMsg
  repeat' first | rfl | split | (simp; done) | dsimp only

@[simp] theorem State.hostMsg_pool (s : State) (b : State) (id : Nat) : (s.hostMsg b id).pool = s.pool := by
  unfold State.hostMsg
  repeat' first | rfl | split | (simp; done) | dsimp only

@[simp] theorem State.hostMsg_int (s : State) (b : State) (id : Nat) : (s.hostMsg b id).int = s.int := by
  unfold State.hostMsg
  repeat' first | rfl | split | (simp; done) | dsimp only

@[simp] theorem State.hostMsg_flt (s : State) (b : State) (id : Nat) : (s.hostMsg b id).flt = s.flt := by
  unfold State.hostMsg
  repeat' first | rfl | split | (simp; done) | dsimp only

@[simp] theorem State.hostMsg_mem (s : State) (b : State) (id : Nat) : (s.hostMsg b id).mem = s.mem := by
  unfold State.hostMsg
  repeat' first | rfl | split | (simp; done) | dsimp only

@[simp] theorem State.hostMsg_kst (s : State) (b : State) (id : Nat) : (s.hostMsg b id).kst = s.kst := by
  unfold State.hostMsg
  repeat' first | rfl | split | (simp; done) | dsimp only

@[simp] theorem State.hostMsg_pwr (s : State) (b : State) (id : Nat) : (s.hostMsg b id).pwr = s.pwr := by
  unfold State.hostMsg
  repeat' first | rfl | split | (simp; done) | dsimp only

@[simp] theorem State.hostMsg_dec (s : State) (b : State) (id : Nat) : (s.hostMsg b id).dec = s.dec := by
  unfold State.hostMsg
  repeat' first | rfl | split | (simp; done) | dsimp only

@[simp] theorem State.hostMsg_clb (s : State) (b : State) (id : Nat) : (s.hostMsg b id).clb = s.clb := by
  unfold State.hostMsg
  repeat' first | rfl | split | (simp; done) | dsimp only

@[simp] theorem State.hostMsg_cnv (s : State) (b : State) (id : Nat) : (s.hostMsg b id).cnv = s.cnv := by
  unfold State.hostMsg
  repeat' first | rfl | split | (simp; done) | dsimp only

@[simp] theorem State.hostMsg_fus (s : State) (b : State) (id : Nat) : (s.hostMsg b id).fus = s.fus := by
  unfold State.hostMsg
  repeat' first | rfl | split | (simp; done) | dsimp only

@[simp] theorem State.hostMsg_mze (s : State) (b : State) (id : Nat) : (s.hostMsg b id).mze = s.mze := by
  unfold State.hostMsg
  repeat' first | rfl | split | (simp; done) | dsimp only

@[simp] theorem State.hostMsg_swc (s : State) (b : State) (id : Nat) : (s.hostMsg b id).swc = s.swc := by
  unfold State.hostMsg
  repeat' first | rfl | split | (simp; done) | dsimp only

@[simp] theorem State.hostMsg_sch (s : State) (b : State) (id : Nat) : (s.hostMsg b id).sch = s.sch := by
  unfold State.hostMsg
  repeat' first | rfl | split | (simp; done) | dsimp only

@[simp] theorem State.hostMsg_plk (s : State) (b : State) (id : Nat) : (s.hostMsg b id).plk = s.plk := by
  unfold State.hostMsg
  repeat' first | rfl | split | (simp; done) | dsimp only

@[simp] theorem State.hostMsg_rgq (s : State) (b : State) (id : Nat) : (s.hostMsg b id).rgq = s.rgq := by
  unfold State.hostMsg
  repeat' first | rfl | split | (simp; done) | dsimp only

@[simp] theorem State.hostMsg_enc (s : State) (b : State) (id : Nat) : (s.hostMsg b id).enc = s.enc := by
  unfold State.hostMsg
  repeat' first | rfl | split | (simp; done) | dsimp only

@[simp] theorem State.hostMsg_esc (s : State) (b : State) (id : Nat) : (s.hostMsg b id).esc = s.esc := by
  unfold State.hostMsg
  repeat' first | rfl | split | (simp; done) | dsimp only

@[simp] theorem State.hostMsg_rgl (s : State) (b : State) (id : Nat) : (s.hostMsg b id).rgl = s.rgl := by
  unfold State.hostMsg
  repeat' first | rfl | split | (simp; done) | dsimp only

@[simp] theorem State.hostMsg_dma (s : State) (b : State) (id : Nat) : (s.hostMsg b id).dma = s.dma := by
  unfold State.hostMsg
  repeat' first | rfl | split | (simp; done) | dsimp only

@[simp] theorem State.rrAssign_variant (s : State) (id : Nat) : (s.rrAssign id).variant = s.variant := by
  unfold State.rrAssign
  repeat' first | rfl | split | (simp; done) | dsimp only

@[simp] theorem State.rrAssign_now (s : State) (id : Nat) : (s.rrAssign id).now = s.now := by
  unfold State.rrAssign
  repeat' first | rfl | split | (simp; done) | dsimp only

@[simp] theorem State.rrAssign_freeCtr (s : State) (id : Nat) : (s.rrAssign id).freeCtr = s.freeCtr := by
  unfold State.rrAssign
  repeat' first | rfl | split | (simp; done) | dsimp only

@[simp] theorem State.rrAssign_pending (s : State) (id : Nat) : (s.rrAssign id).pending = s.pending := by
  unfold State.rrAssign
  repeat' first | rfl | split | (simp; done) | dsimp only

@[simp] theorem State.rrAssign_hst (s : State) (id : Nat) : (s.rrAssign id).hst = s.hst := by
  unfold State.rrAssign
  repeat' first | rfl | split | (simp; done) | dsimp only

@[simp] theorem State.rrAssign_rng (s : State) (id : Nat) : (s.rrAssign id).rng = s.rng := by
  unfold State.rrAssign
  repeat' first | rfl | split | (simp; done) | dsimp only

@[simp] theorem State.rrAssign_pool (s : State) (id : Nat) : (s.rrAssign id).pool = s.pool := by
  unfold State.rrAssign
  repeat' first | rfl | split | (simp; done) | dsimp only

@[simp] theorem State.rrAssign_flt (s : State) (id : Nat) : (s.rrAssign id).flt = s.flt := by
  unfold State.rrAssign
  repeat' first | rfl | split | (simp; done) | dsimp only

@[simp] theorem State.rrAssign_mem (s : State) (id : Nat) : (s.rrAssign id).mem = s.mem := by
  unfold State.rrAssign
  repeat' first | rfl | split | (simp; done) | dsimp only

@[simp] theorem State.rrAssign_kst (s : State) (id : Nat) : (s.rrAssign id).kst = s.kst := by
  unfold State.rrAssign
  repeat' first | rfl | split | (simp; done) | dsimp only

@[simp] theorem State.rrAssign_pwr (s : State) (id : Nat) : (s.rrAssign id).pwr = s.pwr := by
  unfold State.rrAssign
  repeat' first | rfl | split | (simp; done) | dsimp only

@[simp] theorem State.rrAssign_dec (s : State) (id : Nat) : (s.rrAssign id).dec = s.dec := by
  unfold State.rrAssign
  repeat' first | rfl | split | (simp; done) | dsimp only

@[simp] theorem State.rrAssign_clb (s : State) (id : Nat) : (s.rrAssign id).clb = s.clb := by
  unfold State.rrAssign
  repeat' first | rfl | split | (simp; done) | dsimp only

@[simp] theorem State.rrAssign_cnv (s : State) (id : Nat) : (s.rrAssign id).cnv = s.cnv := by
  unfold State.rrAssign
  repeat' first | rfl | split | (simp; done) | dsimp only

@[simp] theorem State.rrAssign_fus (s : State) (id : Nat) : (s.rrAssign id).fus = s.fus := by
  unfold State.rrAssign
  repeat' first | rfl | split | (simp; done) | dsimp only

@[simp] theorem State.rrAssign_mze (s : State) (id : Nat) : (s.rrAssign id).mze = s.mze := by
  unfold State.rrAssign
  repeat' first | rfl | split | (simp; done) | dsimp only

@[simp] theorem State.rrAssign_swc (s : State) (id : Nat) : (s.rrAssign id).swc = s.swc := by
  unfold State.rrAssign
  repeat' first | rfl | split | (simp; done) | dsimp only

@[simp] theorem State.rrAssign_sch (s : State) (id : Nat) : (s.rrAssign id).sch = s.sch := by
  unfold State.rrAssign
  repeat' first | rfl | split | (simp; done) | dsimp only

@[simp] theorem State.rrAssign_plk (s : State) (id : Nat) : (s.rrAssign id).plk = s.plk := by
  unfold State.rrAssign
  repeat' first | rfl | split | (simp; done) | dsimp only

@[simp] theorem State.rrAssign_rgq (s : State) (id : Nat) : (s.rrAssign id).rgq = s.rgq := by
  unfold State.rrAssign
  repeat' first | rfl | split | (simp; done) | dsimp only

@[simp] theorem State.rrAssign_enc (s : State) (id : Nat) : (s.rrAssign id).enc = s.enc := by
  unfold State.rrAssign
  repeat' first | rfl | split | (simp; done) | dsimp only

@[simp] theorem State.rrAssign_esc (s : State) (id : Nat) : (s.rrAssign id).esc = s.esc := by
  unfold State.rrAssign
  repeat' first | rfl | split | (simp; done) | dsimp only

@[simp] theorem State.rrAssign_rgl (s : State) (id : Nat) : (s.rrAssign id).rgl = s.rgl := by
  unfold State.rrAssign
  repeat' first | rfl | split | (simp; done) | dsimp only

@[simp] theorem State.rrAssign_dma (s : State) (id : Nat) : (s.rrAssign id).dma = s.dma := by
  unfold State.rrAssign
  repeat' first | rfl | split | (simp; done) | dsimp only

@[simp] theorem State.intEdge_variant (s : State) (id : Nat) : (s.intEdge id).variant = s.variant := by
  unfold State.intEdge
  repeat' first | rfl | split | (simp; done) | dsimp only

@[simp] theorem State.intEdge_now (s : State) (id : Nat) : (s.intEdge id).now = s.now := by
  unfold State.intEdge
  repeat' first | rfl | split | (simp; done) | dsimp only

@[simp] theorem State.intEdge_freeCtr (s : State) (id : Nat) : (s.intEdge id).freeCtr = s.freeCtr := by
  unfold State.intEdge
  repeat' first | rfl | split | (simp; done) | dsimp only

@[simp] theorem State.intEdge_pending (s : State) (id : Nat) : (s.intEdge id).pending = s.pending := by
  unfold State.intEdge
  repeat' first | rfl | split | (simp; done) | dsimp only

@[simp] theorem State.intEdge_rng (s : State) (id : Nat) : (s.intEdge id).rng = s.rng := by
  unfold State.intEdge
  repeat' first | rfl | split | (simp; done) | dsimp only

@[simp] theorem State.intEdge_pool (s : State) (id : Nat) : (s.intEdge id).pool = s.pool := by
  unfold State.intEdge
  repeat' first | rfl | split | (simp; done) | dsimp only

@[simp] theorem State.intEdge_flt (s : State) (id : Nat) : (s.intEdge id).flt = s.flt := by
  unfold State.intEdge
  repeat' first | rfl | split | (simp; done) | dsimp only

@[simp] theorem State.intEdge_mem (s : State) (id : Nat) : (s.intEdge id).mem = s.mem := by
  unfold State.intEdge
  repeat' first | rfl | split | (simp; done) | dsimp only

@[simp] theorem State.intEdge_kst (s : State) (id : Nat) : (s.intEdge id).kst = s.kst := by
  unfold State.intEdge
  repeat' first | rfl | split | (simp; done) | dsimp only

@[simp] theorem State.intEdge_pwr (s : State) (id : Nat) : (s.intEdge id).pwr = s.pwr := by
  unfold State.intEdge
  repeat' first | rfl | split | (simp; done) | dsimp only

@[simp] theorem State.intEdge_dec (s : State) (id : Nat) : (s.intEdge id).dec = s.dec := by
  unfold State.intEdge
  repeat' first | rfl | split | (simp; done) | dsimp only

@[simp] theorem State.intEdge_clb (s : State) (id : Nat) : (s.intEdge id).clb = s.clb := by
  unfold State.intEdge
  repeat' first | rfl | split | (simp; done) | dsimp only

@[simp] theorem State.intEdge_cnv (s : State) (id : Nat) : (s.intEdge id).cnv = s.cnv := by
  unfold State.intEdge
  repeat' first | rfl | split | (simp; done) | dsimp only

@[simp] theorem State.intEdge_fus (s : State) (id : Nat) : (s.intEdge id).fus = s.fus := by
  unfold State.intEdge
  repeat' first | rfl | split | (simp; done) | dsimp only

@[simp] theorem State.intEdge_mze (s : State) (id : Nat) : (s.intEdge id).mze = s.mze := by
  unfold State.intEdge
  repeat' first | rfl | split | (simp; done) | dsimp only

@[simp] theorem State.intEdge_swc (s : State) (id : Nat) : (s.intEdge id).swc = s.swc := by
  unfold State.intEdge
  repeat' first | rfl | split | (simp; done) | dsimp only

@[simp] theorem State.intEdge_sch (s : State) (id : Nat) : (s.intEdge id).sch = s.sch := by
  unfold State.intEdge
  repeat' first | rfl | split | (simp; done) | dsimp only

@[simp] theorem State.intEdge_plk (s : State) (id : Nat) : (s.intEdge id).plk = s.plk := by
  unfold State.intEdge
  repeat' first | rfl | split | (simp; done) | dsimp only

@[simp] theorem State.intEdge_rgq (s : State) (id : Nat) : (s.intEdge id).rgq = s.rgq := by
  unfold State.intEdge
  repeat' first | rfl | split | (simp; done) | dsimp only

@[simp] theorem State.intEdge_enc (s : State) (id : Nat) : (s.intEdge id).enc = s.enc := by
  unfold State.intEdge
  repeat' first | rfl | split | (simp; done) | dsimp only

@[simp] theorem State.intEdge_esc (s : State) (id : Nat) : (s.intEdge id).esc = s.esc := by
  unfold State.intEdge
  repeat' first | rfl | split | (simp; done) | dsimp only

@[simp] theorem State.intEdge_rgl (s : State) (id : Nat) : (s.intEdge id).rgl = s.rgl := by
  unfold State.intEdge
  repeat' first | rfl | split | (simp; done) | dsimp only

@[simp] theorem State.intEdge_dma (s : State) (id : Nat) : (s.intEdge id).dma = s.dma := by
  unfold State.intEdge
  repeat' first | rfl | split | (simp; done) | dsimp only

@[simp] theorem State.privEdge_variant (s : State) (g id : Nat) : (s.privEdge g id).variant = s.variant := rfl

@[simp] theorem State.privEdge_now (s : State) (g id : Nat) : (s.privEdge g id).now = s.now := rfl

@[simp] theorem State.privEdge_freeCtr (s : State) (g id : Nat) : (s.privEdge g id).freeCtr = s.freeCtr := rfl

@[simp] theorem State.privEdge_pending (s : State) (g id : Nat) : (s.privEdge g id).pending = s.pending := rfl

@[simp] theorem State.privEdge_regs (s : State) (g id : Nat) : (s.privEdge g id).regs = s.regs := rfl

@[simp] theorem State.privEdge_hst (s : State) (g id : Nat) : (s.privEdge g id).hst = s.hst := rfl

@[simp] theorem State.privEdge_rng (s : State) (g id : Nat) : (s.privEdge g id).rng = s.rng := rfl

@[simp] theorem State.privEdge_pool (s : State) (g id : Nat) : (s.privEdge g id).pool = s.pool := rfl

@[simp] theorem State.privEdge_flt (s : State) (g id : Nat) : (s.privEdge g id).flt = s.flt := rfl

@[simp] theorem State.privEdge_mem (s : State) (g id : Nat) : (s.privEdge g id).mem = s.mem := rfl

@[simp] theorem State.privEdge_kst (s : State) (g id : Nat) : (s.privEdge g id).kst = s.kst := rfl

@[simp] theorem State.privEdge_pwr (s : State) (g id : Nat) : (s.privEdge g id).pwr = s.pwr := rfl

@[simp] theorem State.privEdge_dec (s : State) (g id : Nat) : (s.privEdge g id).dec = s.dec := rfl

@[simp] theorem State.privEdge_clb (s : State) (g id : Nat) : (s.privEdge g id).clb = s.clb := rfl

@[simp] theorem State.privEdge_cnv (s : State) (g id : Nat) : (s.privEdge g id).cnv = s.cnv := rfl

@[simp] theorem State.privEdge_fus (s : State) (g id : Nat) : (s.privEdge g id).fus = s.fus := rfl

@[simp] theorem State.privEdge_mze (s : State) (g id : Nat) : (s.privEdge g id).mze = s.mze := rfl

@[simp] theorem State.privEdge_swc (s : State) (g id : Nat) : (s.privEdge g id).swc = s.swc := rfl

@[simp] theorem State.privEdge_sch (s : State) (g id : Nat) : (s.privEdge g id).sch = s.sch := rfl

@[simp] theorem State.privEdge_plk (s : State) (g id : Nat) : (s.privEdge g id).plk = s.plk := rfl

@[simp] theorem State.privEdge_rgq (s : State) (g id : Nat) : (s.privEdge g id).rgq = s.rgq := rfl

@[simp] theorem State.privEdge_enc (s : State) (g id : Nat) : (s.privEdge g id).enc = s.enc := rfl

@[simp] theorem State.privEdge_esc (s : State) (g id : Nat) : (s.privEdge g id).esc = s.esc := rfl

@[simp] theorem State.privEdge_rgl (s : State) (g id : Nat) : (s.privEdge g id).rgl = s.rgl := rfl

@[simp] theorem State.privEdge_dma (s : State) (g id : Nat) : (s.privEdge g id).dma = s.dma := rfl

@[simp] theorem State.pinEdge_variant (s : State) (b : State) : (s.pinEdge b).variant = s.variant := by
  unfold State.pinEdge
  repeat' first | rfl | split | (simp; done) | dsimp only

@[simp] theorem State.pinEdge_now (s : State) (b : State) : (s.pinEdge b).now = s.now := by
  unfold State.pinEdge
  repeat' first | rfl | split | (simp; done) | dsimp only

@[simp] theorem State.pinEdge_freeCtr (s : State) (b : State) : (s.pinEdge b).freeCtr = s.freeCtr := by
  unfold State.pinEdge
  repeat' first | rfl | split | (simp; done) | dsimp only

@[simp] theorem State.pinEdge_pending (s : State) (b : State) : (s.pinEdge b).pending = s.pending := by
  unfold State.pinEdge
  repeat' first | rfl | split | (simp; done) | dsimp only

@[simp] theorem State.pinEdge_rng (s : State) (b : State) : (s.pinEdge b).rng = s.rng := by
  unfold State.pinEdge
  repeat' first | rfl | split | (simp; done) | dsimp only

@[simp] theorem State.pinEdge_pool (s : State) (b : State) : (s.pinEdge b).pool = s.pool := by
  unfold State.pinEdge
  repeat' first | rfl | split | (simp; done) | dsimp only

@[simp] theorem State.pinEdge_flt (s : State) (b : State) : (s.pinEdge b).flt = s.flt := by
  unfold State.pinEdge
  repeat' first | rfl | split | (simp; done) | dsimp only

@[simp] theorem State.pinEdge_mem (s : State) (b : State) : (s.pinEdge b).mem = s.mem := by
  unfold State.pinEdge
  repeat' first | rfl | split | (simp; done) | dsimp only

@[simp] theorem State.pinEdge_kst (s : State) (b : State) : (s.pinEdge b).kst = s.kst := by
  unfold State.pinEdge
  repeat' first | rfl | split | (simp; done) | dsimp only

@[simp] theorem State.pinEdge_pwr (s : State) (b : State) : (s.pinEdge b).pwr = s.pwr := by
  unfold State.pinEdge
  repeat' first | rfl | split | (simp; done) | dsimp only

@[simp] theorem State.pinEdge_dec (s : State) (b : State) : (s.pinEdge b).dec = s.dec := by
  unfold State.pinEdge
  repeat' first | rfl | split | (simp; done) | dsimp only

@[simp] theorem State.pinEdge_clb (s : State) (b : State) : (s.pinEdge b).clb = s.clb := by
  unfold State.pinEdge
  repeat' first | rfl | split | (simp; done) | dsimp only

@[simp] theorem State.pinEdge_cnv (s : State) (b : State) : (s.pinEdge b).cnv = s.cnv := by
  unfold State.pinEdge
  repeat' first | rfl | split | (simp; done) | dsimp only

@[simp] theorem State.pinEdge_fus (s : State) (b : State) : (s.pinEdge b).fus = s.fus := by
  unfold State.pinEdge
  repeat' first | rfl | split | (simp; done) | dsimp only

@[simp] theorem State.pinEdge_mze (s : State) (b : State) : (s.pinEdge b).mze = s.mze := by
  unfold State.pinEdge
  repeat' first | rfl | split | (simp; done) | dsimp only

@[simp] theorem State.pinEdge_swc (s : State) (b : State) : (s.pinEdge b).swc = s.swc := by
  unfold State.pinEdge
  repeat' first | rfl | split | (simp; done) | dsimp only

@[simp] theorem State.pinEdge_sch (s : State) (b : State) : (s.pinEdge b).sch = s.sch := by
  unfold State.pinEdge
  repeat' first | rfl | split | (simp; done) | dsimp only

@[simp] theorem State.pinEdge_plk (s : State) (b : State) : (s.pinEdge b).plk = s.plk := by
  unfold State.pinEdge
  repeat' first | rfl | split | (simp; done) | dsimp only

@[simp] theorem State.pinEdge_rgq (s : State) (b : State) : (s.pinEdge b).rgq = s.rgq := by
  unfold State.pinEdge
  repeat' first | rfl | split | (simp; done) | dsimp only

@[simp] theorem State.pinEdge_enc (s : State) (b : State) : (s.pinEdge b).enc = s.enc := by
  unfold State.pinEdge
  repeat' first | rfl | split | (simp; done) | dsimp only

@[simp] theorem State.pinEdge_esc (s : State) (b : State) : (s.pinEdge b).esc = s.esc := by
  unfold State.pinEdge
  repeat' first | rfl | split | (simp; done) | dsimp only

@[simp] theorem State.pinEdge_rgl (s : State) (b : State) : (s.pinEdge b).rgl = s.rgl := by
  unfold State.pinEdge
  repeat' first | rfl | split | (simp; done) | dsimp only

@[simp] theorem State.pinEdge_dma (s : State) (b : State) : (s.pinEdge b).dma = s.dma := by
  unfold State.pinEdge
  repeat' first | rfl | split | (simp; done) | dsimp only

@[simp] theorem State.latchEffects_variant (s : State) (c : Nat) : (s.latchEffects c).variant = s.variant := by
  unfold State.latchEffects
  repeat' first | rfl | split | (simp; done) | dsimp only

@[simp] theorem State.latchEffects_now (s : State) (c : Nat) : (s.latchEffects c).now = s.now := by
  unfold State.latchEffects
  repeat' first | rfl | split | (simp; done) | dsimp only

@[simp] theorem State.latchEffects_freeCtr (s : State) (c : Nat) : (s.latchEffects c).freeCtr = s.freeCtr := by
  unfold State.latchEffects
  repeat' first | rfl | split | (simp; done) | dsimp only

@[simp] theorem State.latchEffects_pending (s : State) (c : Nat) : (s.latchEffects c).pending = s.pending := by
  unfold State.latchEffects
  repeat' first | rfl | split | (simp; done) | dsimp only

@[simp] theorem State.latchEffects_rng (s : State) (c : Nat) : (s.latchEffects c).rng = s.rng := by
  unfold State.latchEffects
  repeat' first | rfl | split | (simp; done) | dsimp only

@[simp] theorem State.latchEffects_pool (s : State) (c : Nat) : (s.latchEffects c).pool = s.pool := by
  unfold State.latchEffects
  repeat' first | rfl | split | (simp; done) | dsimp only

@[simp] theorem State.latchEffects_mem (s : State) (c : Nat) : (s.latchEffects c).mem = s.mem := by
  unfold State.latchEffects
  repeat' first | rfl | split | (simp; done) | dsimp only

@[simp] theorem State.latchEffects_kst (s : State) (c : Nat) : (s.latchEffects c).kst = s.kst := by
  unfold State.latchEffects
  repeat' first | rfl | split | (simp; done) | dsimp only

@[simp] theorem State.latchEffects_pwr (s : State) (c : Nat) : (s.latchEffects c).pwr = s.pwr := by
  unfold State.latchEffects
  repeat' first | rfl | split | (simp; done) | dsimp only

@[simp] theorem State.latchEffects_dec (s : State) (c : Nat) : (s.latchEffects c).dec = s.dec := by
  unfold State.latchEffects
  repeat' first | rfl | split | (simp; done) | dsimp only

@[simp] theorem State.latchEffects_clb (s : State) (c : Nat) : (s.latchEffects c).clb = s.clb := by
  unfold State.latchEffects
  repeat' first | rfl | split | (simp; done) | dsimp only

@[simp] theorem State.latchEffects_cnv (s : State) (c : Nat) : (s.latchEffects c).cnv = s.cnv := by
  unfold State.latchEffects
  repeat' first | rfl | split | (simp; done) | dsimp only

@[simp] theorem State.latchEffects_fus (s : State) (c : Nat) : (s.latchEffects c).fus = s.fus := by
  unfold State.latchEffects
  repeat' first | rfl | split | (simp; done) | dsimp only

@[simp] theorem State.latchEffects_mze (s : State) (c : Nat) : (s.latchEffects c).mze = s.mze := by
  unfold State.latchEffects
  repeat' first | rfl | split | (simp; done) | dsimp only

@[simp] theorem State.latchEffects_swc (s : State) (c : Nat) : (s.latchEffects c).swc = s.swc := by
  unfold State.latchEffects
  repeat' first | rfl | split | (simp; done) | dsimp only

@[simp] theorem State.latchEffects_sch (s : State) (c : Nat) : (s.latchEffects c).sch = s.sch := by
  unfold State.latchEffects
  repeat' first | rfl | split | (simp; done) | dsimp only

@[simp] theorem State.latchEffects_plk (s : State) (c : Nat) : (s.latchEffects c).plk = s.plk := by
  unfold State.latchEffects
  repeat' first | rfl | split | (simp; done) | dsimp only

@[simp] theorem State.latchEffects_rgq (s : State) (c : Nat) : (s.latchEffects c).rgq = s.rgq := by
  unfold State.latchEffects
  repeat' first | rfl | split | (simp; done) | dsimp only

@[simp] theorem State.latchEffects_enc (s : State) (c : Nat) : (s.latchEffects c).enc = s.enc := by
  unfold State.latchEffects
  repeat' first | rfl | split | (simp; done) | dsimp only

@[simp] theorem State.latchEffects_esc (s : State) (c : Nat) : (s.latchEffects c).esc = s.esc := by
  unfold State.latchEffects
  repeat' first | rfl | split | (simp; done) | dsimp only

@[simp] theorem State.latchEffects_rgl (s : State) (c : Nat) : (s.latchEffects c).rgl = s.rgl := by
  unfold State.latchEffects
  repeat' first | rfl | split | (simp; done) | dsimp only

@[simp] theorem State.latchEffects_dma (s : State) (c : Nat) : (s.latchEffects c).dma = s.dma := by
  unfold State.latchEffects
  repeat' first | rfl | split | (simp; done) | dsimp only

@[simp] theorem State.collect_variant (s : State) (c : Nat) : (s.collect c).variant = s.variant := by
  unfold State.collect
  repeat' first | rfl | split | (simp; done) | dsimp only

@[simp] theorem State.collect_now (s : State) (c : Nat) : (s.collect c).now = s.now := by
  unfold State.collect
  repeat' first | rfl | split | (simp; done) | dsimp only

@[simp] theorem State.collect_freeCtr (s : State) (c : Nat) : (s.collect c).freeCtr = s.freeCtr := by
  unfold State.collect
  repeat' first | rfl | split | (simp; done) | dsimp only

@[simp] theorem State.collect_pending (s : State) (c : Nat) : (s.collect c).pending = s.pending := by
  unfold State.collect
  repeat' first | rfl | split | (simp; done) | dsimp only

@[simp] theorem State.collect_rng (s : State) (c : Nat) : (s.collect c).rng = s.rng := by
  unfold State.collect
  repeat' first | rfl | split | (simp; done) | dsimp only

@[simp] theorem State.collect_pool (s : State) (c : Nat) : (s.collect c).pool = s.pool := by
  unfold State.collect
  repeat' first | rfl | split | (simp; done) | dsimp only

@[simp] theorem State.collect_mem (s : State) (c : Nat) : (s.collect c).mem = s.mem := by
  unfold State.collect
  repeat' first | rfl | split | (simp; done) | dsimp only

@[simp] theorem State.collect_kst (s : State) (c : Nat) : (s.collect c).kst = s.kst := by
  unfold State.collect
  repeat' first | rfl | split | (simp; done) | dsimp only

@[simp] theorem State.collect_pwr (s : State) (c : Nat) : (s.collect c).pwr = s.pwr := by
  unfold State.collect
  repeat' first | rfl | split | (simp; done) | dsimp only

@[simp] theorem State.collect_dec (s : State) (c : Nat) : (s.collect c).dec = s.dec := by
  unfold State.collect
  repeat' first | rfl | split | (simp; done) | dsimp only

@[simp] theorem State.collect_clb (s : State) (c : Nat) : (s.collect c).clb = s.clb := by
  unfold State.collect
  repeat' first | rfl | split | (simp; done) | dsimp only

@[simp] theorem State.collect_cnv (s : State) (c : Nat) : (s.collect c).cnv = s.cnv := by
  unfold State.collect
  repeat' first | rfl | split | (simp; done) | dsimp only

@[simp] theorem State.collect_fus (s : State) (c : Nat) : (s.collect c).fus = s.fus := by
  unfold State.collect
  repeat' first | rfl | split | (simp; done) | dsimp only

@[simp] theorem State.collect_mze (s : State) (c : Nat) : (s.collect c).mze = s.mze := by
  unfold State.collect
  repeat' first | rfl | split | (simp; done) | dsimp only

@[simp] theorem State.collect_swc (s : State) (c : Nat) : (s.collect c).swc = s.swc := by
  unfold State.collect
  repeat' first | rfl | split | (simp; done) | dsimp only

@[simp] theorem State.collect_sch (s : State) (c : Nat) : (s.collect c).sch = s.sch := by
  unfold State.collect
  repeat' first | rfl | split | (simp; done) | dsimp only

@[simp] theorem State.collect_plk (s : State) (c : Nat) : (s.collect c).plk = s.plk := by
  unfold State.collect
  repeat' first | rfl | split | (simp; done) | dsimp only

@[simp] theorem State.collect_rgq (s : State) (c : Nat) : (s.collect c).rgq = s.rgq := by
  unfold State.collect
  repeat' first | rfl | split | (simp; done) | dsimp only

@[simp] theorem State.collect_enc (s : State) (c : Nat) : (s.collect c).enc = s.enc := by
  unfold State.collect
  repeat' first | rfl | split | (simp; done) | dsimp only

@[simp] theorem State.collect_esc (s : State) (c : Nat) : (s.collect c).esc = s.esc := by
  unfold State.collect
  repeat' first | rfl | split | (simp; done) | dsimp only

@[simp] theorem State.collect_rgl (s : State) (c : Nat) : (s.collect c).rgl = s.rgl := by
  unfold State.collect
  repeat' first | rfl | split | (simp; done) | dsimp only

@[simp] theorem State.collect_dma (s : State) (c : Nat) : (s.collect c).dma = s.dma := by
  unfold State.collect
  repeat' first | rfl | split | (simp; done) | dsimp only

@[simp] theorem State.setSticky_variant (s : State) (p b : Nat) : (s.setSticky p b).variant = s.variant := by
  unfold State.setSticky
  repeat' first | rfl | split | (simp; done) | dsimp only

@[simp] theorem State.setSticky_now (s : State) (p b : Nat) : (s.setSticky p b).now = s.now := by
  unfold State.setSticky
  repeat' first | rfl | split | (simp; done) | dsimp only

@[simp] theorem State.setSticky_freeCtr (s : State) (p b : Nat) : (s.setSticky p b).freeCtr = s.freeCtr := by
  unfold State.setSticky
  repeat' first | rfl | split | (simp; done) | dsimp only

@[simp] theorem State.setSticky_pending (s : State) (p b : Nat) : (s.setSticky p b).pending = s.pending := by
  unfold State.setSticky
  repeat' first | rfl | split | (simp; done) | dsimp only

@[simp] theorem State.setSticky_hst (s : State) (p b : Nat) : (s.setSticky p b).hst = s.hst := by
  unfold State.setSticky
  repeat' first | rfl | split | (simp; done) | dsimp only

@[simp] theorem State.setSticky_rng (s : State) (p b : Nat) : (s.setSticky p b).rng = s.rng := by
  unfold State.setSticky
  repeat' first | rfl | split | (simp; done) | dsimp only

@[simp] theorem State.setSticky_pool (s : State) (p b : Nat) : (s.setSticky p b).pool = s.pool := by
  unfold State.setSticky
  repeat' first | rfl | split | (simp; done) | dsimp only

@[simp] theorem State.setSticky_int (s : State) (p b : Nat) : (s.setSticky p b).int = s.int := by
  unfold State.setSticky
  repeat' first | rfl | split | (simp; done) | dsimp only

@[simp] theorem State.setSticky_flt (s : State) (p b : Nat) : (s.setSticky p b).flt = s.flt := by
  unfold State.setSticky
  repeat' first | rfl | split | (simp; done) | dsimp only

@[simp] theorem State.setSticky_mem (s : State) (p b : Nat) : (s.setSticky p b).mem = s.mem := by
  unfold State.setSticky
  repeat' first | rfl | split | (simp; done) | dsimp only

@[simp] theorem State.setSticky_kst (s : State) (p b : Nat) : (s.setSticky p b).kst = s.kst := by
  unfold State.setSticky
  repeat' first | rfl | split | (simp; done) | dsimp only

@[simp] theorem State.setSticky_pwr (s : State) (p b : Nat) : (s.setSticky p b).pwr = s.pwr := by
  unfold State.setSticky
  repeat' first | rfl | split | (simp; done) | dsimp only

@[simp] theorem State.setSticky_dec (s : State) (p b : Nat) : (s.setSticky p b).dec = s.dec := by
  unfold State.setSticky
  repeat' first | rfl | split | (simp; done) | dsimp only

@[simp] theorem State.setSticky_clb (s : State) (p b : Nat) : (s.setSticky p b).clb = s.clb := by
  unfold State.setSticky
  repeat' first | rfl | split | (simp; done) | dsimp only

@[simp] theorem State.setSticky_cnv (s : State) (p b : Nat) : (s.setSticky p b).cnv = s.cnv := by
  unfold State.setSticky
  repeat' first | rfl | split | (simp; done) | dsimp only

@[simp] theorem State.setSticky_fus (s : State) (p b : Nat) : (s.setSticky p b).fus = s.fus := by
  unfold State.setSticky
  repeat' first | rfl | split | (simp; done) | dsimp only

@[simp] theorem State.setSticky_mze (s : State) (p b : Nat) : (s.setSticky p b).mze = s.mze := by
  unfold State.setSticky
  repeat' first | rfl | split | (simp; done) | dsimp only

@[simp] theorem State.setSticky_swc (s : State) (p b : Nat) : (s.setSticky p b).swc = s.swc := by
  unfold State.setSticky
  repeat' first | rfl | split | (simp; done) | dsimp only

@[simp] theorem State.setSticky_sch (s : State) (p b : Nat) : (s.setSticky p b).sch = s.sch := by
  unfold State.setSticky
  repeat' first | rfl | split | (simp; done) | dsimp only

@[simp] theorem State.setSticky_plk (s : State) (p b : Nat) : (s.setSticky p b).plk = s.plk := by
  unfold State.setSticky
  repeat' first | rfl | split | (simp; done) | dsimp only

@[simp] theorem State.setSticky_rgq (s : State) (p b : Nat) : (s.setSticky p b).rgq = s.rgq := by
  unfold State.setSticky
  repeat' first | rfl | split | (simp; done) | dsimp only

@[simp] theorem State.setSticky_enc (s : State) (p b : Nat) : (s.setSticky p b).enc = s.enc := by
  unfold State.setSticky
  repeat' first | rfl | split | (simp; done) | dsimp only

@[simp] theorem State.setSticky_esc (s : State) (p b : Nat) : (s.setSticky p b).esc = s.esc := by
  unfold State.setSticky
  repeat' first | rfl | split | (simp; done) | dsimp only

@[simp] theorem State.setSticky_rgl (s : State) (p b : Nat) : (s.setSticky p b).rgl = s.rgl := by
  unfold State.setSticky
  repeat' first | rfl | split | (simp; done) | dsimp only

@[simp] theorem State.setSticky_dma (s : State) (p b : Nat) : (s.setSticky p b).dma = s.dma := by
  unfold State.setSticky
  repeat' first | rfl | split | (simp; done) | dsimp only

@[simp] theorem State.latchCore_variant (s : State) (src : Src) (i : Nat) : (s.latchCore src i).variant = s.variant := by
  unfold State.latchCore
  repeat' first | rfl | split | (simp; done) | dsimp only

@[simp] theorem State.latchCore_now (s : State) (src : Src) (i : Nat) : (s.latchCore src i).now = s.now := by
  unfold State.latchCore
  repeat' first | rfl | split | (simp; done) | dsimp only

@[simp] theorem State.latchCore_freeCtr (s : State) (src : Src) (i : Nat) : (s.latchCore src i).freeCtr = s.freeCtr := by
  unfold State.latchCore
  repeat' first | rfl | split | (simp; done) | dsimp only

@[simp] theorem State.latchCore_pending (s : State) (src : Src) (i : Nat) : (s.latchCore src i).pending = s.pending := by
  unfold State.latchCore
  repeat' first | rfl | split | (simp; done) | dsimp only

@[simp] theorem State.latchCore_rng (s : State) (src : Src) (i : Nat) : (s.latchCore src i).rng = s.rng := by
  unfold State.latchCore
  repeat' first | rfl | split | (simp; done) | dsimp only

@[simp] theorem State.latchCore_pool (s : State) (src : Src) (i : Nat) : (s.latchCore src i).pool = s.pool := by
  unfold State.latchCore
  repeat' first | rfl | split | (simp; done) | dsimp only

@[simp] theorem State.latchCore_mem (s : State) (src : Src) (i : Nat) : (s.latchCore src i).mem = s.mem := by
  unfold State.latchCore
  repeat' first | rfl | split | (simp; done) | dsimp only

@[simp] theorem State.latchCore_kst (s : State) (src : Src) (i : Nat) : (s.latchCore src i).kst = s.kst := by
  unfold State.latchCore
  repeat' first | rfl | split | (simp; done) | dsimp only

@[simp] theorem State.latchCore_pwr (s : State) (src : Src) (i : Nat) : (s.latchCore src i).pwr = s.pwr := by
  unfold State.latchCore
  repeat' first | rfl | split | (simp; done) | dsimp only

@[simp] theorem State.latchCore_dec (s : State) (src : Src) (i : Nat) : (s.latchCore src i).dec = s.dec := by
  unfold State.latchCore
  repeat' first | rfl | split | (simp; done) | dsimp only

@[simp] theorem State.latchCore_clb (s : State) (src : Src) (i : Nat) : (s.latchCore src i).clb = s.clb := by
  unfold State.latchCore
  repeat' first | rfl | split | (simp; done) | dsimp only

@[simp] theorem State.latchCore_cnv (s : State) (src : Src) (i : Nat) : (s.latchCore src i).cnv = s.cnv := by
  unfold State.latchCore
  repeat' first | rfl | split | (simp; done) | dsimp only

@[simp] theorem State.latchCore_fus (s : State) (src : Src) (i : Nat) : (s.latchCore src i).fus = s.fus := by
  unfold State.latchCore
  repeat' first | rfl | split | (simp; done) | dsimp only

@[simp] theorem State.latchCore_mze (s : State) (src : Src) (i : Nat) : (s.latchCore src i).mze = s.mze := by
  unfold State.latchCore
  repeat' first | rfl | split | (simp; done) | dsimp only

@[simp] theorem State.latchCore_swc (s : State) (src : Src) (i : Nat) : (s.latchCore src i).swc = s.swc := by
  unfold State.latchCore
  repeat' first | rfl | split | (simp; done) | dsimp only

@[simp] theorem State.latchCore_sch (s : State) (src : Src) (i : Nat) : (s.latchCore src i).sch = s.sch := by
  unfold State.latchCore
  repeat' first | rfl | split | (simp; done) | dsimp only

@[simp] theorem State.latchCore_plk (s : State) (src : Src) (i : Nat) : (s.latchCore src i).plk = s.plk := by
  unfold State.latchCore
  repeat' first | rfl | split | (simp; done) | dsimp only

@[simp] theorem State.latchCore_rgq (s : State) (src : Src) (i : Nat) : (s.latchCore src i).rgq = s.rgq := by
  unfold State.latchCore
  repeat' first | rfl | split | (simp; done) | dsimp only

@[simp] theorem State.latchCore_enc (s : State) (src : Src) (i : Nat) : (s.latchCore src i).enc = s.enc := by
  unfold State.latchCore
  repeat' first | rfl | split | (simp; done) | dsimp only

@[simp] theorem State.latchCore_esc (s : State) (src : Src) (i : Nat) : (s.latchCore src i).esc = s.esc := by
  unfold State.latchCore
  repeat' first | rfl | split | (simp; done) | dsimp only

@[simp] theorem State.latchCore_rgl (s : State) (src : Src) (i : Nat) : (s.latchCore src i).rgl = s.rgl := by
  unfold State.latchCore
  repeat' first | rfl | split | (simp; done) | dsimp only

@[simp] theorem State.latchCore_dma (s : State) (src : Src) (i : Nat) : (s.latchCore src i).dma = s.dma := by
  unfold State.latchCore
  repeat' first | rfl | split | (simp; done) | dsimp only

@[simp] theorem State.collectorCheck_variant (s : State) : s.collectorCheck.variant = s.variant := by
  unfold State.collectorCheck
  split
  · rename_i h
    unfold State.takeInject at h
    dsimp only at h
    split at h
    · cases h; simp
    · cases h
  · rfl

@[simp] theorem State.collectorCheck_now (s : State) : s.collectorCheck.now = s.now := by
  unfold State.collectorCheck
  split
  · rename_i h
    unfold State.takeInject at h
    dsimp only at h
    split at h
    · cases h; simp
    · cases h
  · rfl

@[simp] theorem State.collectorCheck_freeCtr (s : State) : s.collectorCheck.freeCtr = s.freeCtr := by
  unfold State.collectorCheck
  split
  · rename_i h
    unfold State.takeInject at h
    dsimp only at h
    split at h
    · cases h; simp
    · cases h
  · rfl

@[simp] theorem State.collectorCheck_pending (s : State) : s.collectorCheck.pending = s.pending := by
  unfold State.collectorCheck
  split
  · rename_i h
    unfold State.takeInject at h
    dsimp only at h
    split at h
    · cases h; simp
    · cases h
  · rfl

@[simp] theorem State.collectorCheck_rng (s : State) : s.collectorCheck.rng = s.rng := by
  unfold State.collectorCheck
  split
  · rename_i h
    unfold State.takeInject at h
    dsimp only at h
    split at h
    · cases h; simp
    · cases h
  · rfl

@[simp] theorem State.collectorCheck_pool (s : State) : s.collectorCheck.pool = s.pool := by
  unfold State.collectorCheck
  split
  · rename_i h
    unfold State.takeInject at h
    dsimp only at h
    split at h
    · cases h; simp
    · cases h
  · rfl

@[simp] theorem State.collectorCheck_mem (s : State) : s.collectorCheck.mem = s.mem := by
  unfold State.collectorCheck
  split
  · rename_i h
    unfold State.takeInject at h
    dsimp only at h
    split at h
    · cases h; simp
    · cases h
  · rfl

@[simp] theorem State.collectorCheck_kst (s : State) : s.collectorCheck.kst = s.kst := by
  unfold State.collectorCheck
  split
  · rename_i h
    unfold State.takeInject at h
    dsimp only at h
    split at h
    · cases h; simp
    · cases h
  · rfl

@[simp] theorem State.collectorCheck_pwr (s : State) : s.collectorCheck.pwr = s.pwr := by
  unfold State.collectorCheck
  split
  · rename_i h
    unfold State.takeInject at h
    dsimp only at h
    split at h
    · cases h; simp
    · cases h
  · rfl

@[simp] theorem State.collectorCheck_dec (s : State) : s.collectorCheck.dec = s.dec := by
  unfold State.collectorCheck
  split
  · rename_i h
    unfold State.takeInject at h
    dsimp only at h
    split at h
    · cases h; simp
    · cases h
  · rfl

@[simp] theorem State.collectorCheck_clb (s : State) : s.collectorCheck.clb = s.clb := by
  unfold State.collectorCheck
  split
  · rename_i h
    unfold State.takeInject at h
    dsimp only at h
    split at h
    · cases h; simp
    · cases h
  · rfl

@[simp] theorem State.collectorCheck_cnv (s : State) : s.collectorCheck.cnv = s.cnv := by
  unfold State.collectorCheck
  split
  · rename_i h
    unfold State.takeInject at h
    dsimp only at h
    split at h
    · cases h; simp
    · cases h
  · rfl

@[simp] theorem State.collectorCheck_fus (s : State) : s.collectorCheck.fus = s.fus := by
  unfold State.collectorCheck
  split
  · rename_i h
    unfold State.takeInject at h
    dsimp only at h
    split at h
    · cases h; simp
    · cases h
  · rfl

@[simp] theorem State.collectorCheck_mze (s : State) : s.collectorCheck.mze = s.mze := by
  unfold State.collectorCheck
  split
  · rename_i h
    unfold State.takeInject at h
    dsimp only at h
    split at h
    · cases h; simp
    · cases h
  · rfl

@[simp] theorem State.collectorCheck_swc (s : State) : s.collectorCheck.swc = s.swc := by
  unfold State.collectorCheck
  split
  · rename_i h
    unfold State.takeInject at h
    dsimp only at h
    split at h
    · cases h; simp
    · cases h
  · rfl

@[simp] theorem State.collectorCheck_sch (s : State) : s.collectorCheck.sch = s.sch := by
  unfold State.collectorCheck
  split
  · rename_i h
    unfold State.takeInject at h
    dsimp only at h
    split at h
    · cases h; simp
    · cases h
  · rfl

@[simp] theorem State.collectorCheck_plk (s : State) : s.collectorCheck.plk = s.plk := by
  unfold State.collectorCheck
  split
  · rename_i h
    unfold State.takeInject at h
    dsimp only at h
    split at h
    · cases h; simp
    · cases h
  · rfl

@[simp] theorem State.collectorCheck_rgq (s : State) : s.collectorCheck.rgq = s.rgq := by
  unfold State.collectorCheck
  split
  · rename_i h
    unfold State.takeInject at h
    dsimp only at h
    split at h
    · cases h; simp
    · cases h
  · rfl

@[simp] theorem State.collectorCheck_enc (s : State) : s.collectorCheck.enc = s.enc := by
  unfold State.collectorCheck
  split
  · rename_i h
    unfold State.takeInject at h
    dsimp only at h
    split at h
    · cases h; simp
    · cases h
  · rfl

@[simp] theorem State.collectorCheck_esc (s : State) : s.collectorCheck.esc = s.esc := by
  unfold State.collectorCheck
  split
  · rename_i h
    unfold State.takeInject at h
    dsimp only at h
    split at h
    · cases h; simp
    · cases h
  · rfl

@[simp] theorem State.collectorCheck_rgl (s : State) : s.collectorCheck.rgl = s.rgl := by
  unfold State.collectorCheck
  split
  · rename_i h
    unfold State.takeInject at h
    dsimp only at h
    split at h
    · cases h; simp
    · cases h
  · rfl

@[simp] theorem State.collectorCheck_dma (s : State) : s.collectorCheck.dma = s.dma := by
  unfold State.collectorCheck
  split
  · rename_i h
    unfold State.takeInject at h
    dsimp only at h
    split at h
    · cases h; simp
    · cases h
  · rfl

@[simp] theorem State.logFault_variant (s : State) (src : Src) (i c : Nat) : (s.logFault src i c).variant = s.variant := by
  unfold State.logFault
  repeat' first | rfl | split | (simp; done) | dsimp only

@[simp] theorem State.logFault_now (s : State) (src : Src) (i c : Nat) : (s.logFault src i c).now = s.now := by
  unfold State.logFault
  repeat' first | rfl | split | (simp; done) | dsimp only

@[simp] theorem State.logFault_freeCtr (s : State) (src : Src) (i c : Nat) : (s.logFault src i c).freeCtr = s.freeCtr := by
  unfold State.logFault
  repeat' first | rfl | split | (simp; done) | dsimp only

@[simp] theorem State.logFault_pending (s : State) (src : Src) (i c : Nat) : (s.logFault src i c).pending = s.pending := by
  unfold State.logFault
  repeat' first | rfl | split | (simp; done) | dsimp only

@[simp] theorem State.logFault_rng (s : State) (src : Src) (i c : Nat) : (s.logFault src i c).rng = s.rng := by
  unfold State.logFault
  repeat' first | rfl | split | (simp; done) | dsimp only

@[simp] theorem State.logFault_pool (s : State) (src : Src) (i c : Nat) : (s.logFault src i c).pool = s.pool := by
  unfold State.logFault
  repeat' first | rfl | split | (simp; done) | dsimp only

@[simp] theorem State.logFault_mem (s : State) (src : Src) (i c : Nat) : (s.logFault src i c).mem = s.mem := by
  unfold State.logFault
  repeat' first | rfl | split | (simp; done) | dsimp only

@[simp] theorem State.logFault_pwr (s : State) (src : Src) (i c : Nat) : (s.logFault src i c).pwr = s.pwr := by
  unfold State.logFault
  repeat' first | rfl | split | (simp; done) | dsimp only

@[simp] theorem State.logFault_dec (s : State) (src : Src) (i c : Nat) : (s.logFault src i c).dec = s.dec := by
  unfold State.logFault
  repeat' first | rfl | split | (simp; done) | dsimp only

@[simp] theorem State.logFault_clb (s : State) (src : Src) (i c : Nat) : (s.logFault src i c).clb = s.clb := by
  unfold State.logFault
  repeat' first | rfl | split | (simp; done) | dsimp only

@[simp] theorem State.logFault_cnv (s : State) (src : Src) (i c : Nat) : (s.logFault src i c).cnv = s.cnv := by
  unfold State.logFault
  repeat' first | rfl | split | (simp; done) | dsimp only

@[simp] theorem State.logFault_fus (s : State) (src : Src) (i c : Nat) : (s.logFault src i c).fus = s.fus := by
  unfold State.logFault
  repeat' first | rfl | split | (simp; done) | dsimp only

@[simp] theorem State.logFault_mze (s : State) (src : Src) (i c : Nat) : (s.logFault src i c).mze = s.mze := by
  unfold State.logFault
  repeat' first | rfl | split | (simp; done) | dsimp only

@[simp] theorem State.logFault_swc (s : State) (src : Src) (i c : Nat) : (s.logFault src i c).swc = s.swc := by
  unfold State.logFault
  repeat' first | rfl | split | (simp; done) | dsimp only

@[simp] theorem State.logFault_sch (s : State) (src : Src) (i c : Nat) : (s.logFault src i c).sch = s.sch := by
  unfold State.logFault
  repeat' first | rfl | split | (simp; done) | dsimp only

@[simp] theorem State.logFault_plk (s : State) (src : Src) (i c : Nat) : (s.logFault src i c).plk = s.plk := by
  unfold State.logFault
  repeat' first | rfl | split | (simp; done) | dsimp only

@[simp] theorem State.logFault_rgq (s : State) (src : Src) (i c : Nat) : (s.logFault src i c).rgq = s.rgq := by
  unfold State.logFault
  repeat' first | rfl | split | (simp; done) | dsimp only

@[simp] theorem State.logFault_enc (s : State) (src : Src) (i c : Nat) : (s.logFault src i c).enc = s.enc := by
  unfold State.logFault
  repeat' first | rfl | split | (simp; done) | dsimp only

@[simp] theorem State.logFault_esc (s : State) (src : Src) (i c : Nat) : (s.logFault src i c).esc = s.esc := by
  unfold State.logFault
  repeat' first | rfl | split | (simp; done) | dsimp only

@[simp] theorem State.logFault_rgl (s : State) (src : Src) (i c : Nat) : (s.logFault src i c).rgl = s.rgl := by
  unfold State.logFault
  repeat' first | rfl | split | (simp; done) | dsimp only

@[simp] theorem State.logFault_dma (s : State) (src : Src) (i c : Nat) : (s.logFault src i c).dma = s.dma := by
  unfold State.logFault
  repeat' first | rfl | split | (simp; done) | dsimp only

@[simp] theorem State.latch_variant (s : State) (src : Src) (i : Nat) : (s.latch src i).variant = s.variant := by
  unfold State.latch
  repeat' first | rfl | split | (simp; done) | dsimp only

@[simp] theorem State.latch_now (s : State) (src : Src) (i : Nat) : (s.latch src i).now = s.now := by
  unfold State.latch
  repeat' first | rfl | split | (simp; done) | dsimp only

@[simp] theorem State.latch_freeCtr (s : State) (src : Src) (i : Nat) : (s.latch src i).freeCtr = s.freeCtr := by
  unfold State.latch
  repeat' first | rfl | split | (simp; done) | dsimp only

@[simp] theorem State.latch_pending (s : State) (src : Src) (i : Nat) : (s.latch src i).pending = s.pending := by
  unfold State.latch
  repeat' first | rfl | split | (simp; done) | dsimp only

@[simp] theorem State.latch_rng (s : State) (src : Src) (i : Nat) : (s.latch src i).rng = s.rng := by
  unfold State.latch
  repeat' first | rfl | split | (simp; done) | dsimp only

@[simp] theorem State.latch_pool (s : State) (src : Src) (i : Nat) : (s.latch src i).pool = s.pool := by
  unfold State.latch
  repeat' first | rfl | split | (simp; done) | dsimp only

@[simp] theorem State.latch_mem (s : State) (src : Src) (i : Nat) : (s.latch src i).mem = s.mem := by
  unfold State.latch
  repeat' first | rfl | split | (simp; done) | dsimp only

@[simp] theorem State.latch_pwr (s : State) (src : Src) (i : Nat) : (s.latch src i).pwr = s.pwr := by
  unfold State.latch
  repeat' first | rfl | split | (simp; done) | dsimp only

@[simp] theorem State.latch_dec (s : State) (src : Src) (i : Nat) : (s.latch src i).dec = s.dec := by
  unfold State.latch
  repeat' first | rfl | split | (simp; done) | dsimp only

@[simp] theorem State.latch_clb (s : State) (src : Src) (i : Nat) : (s.latch src i).clb = s.clb := by
  unfold State.latch
  repeat' first | rfl | split | (simp; done) | dsimp only

@[simp] theorem State.latch_cnv (s : State) (src : Src) (i : Nat) : (s.latch src i).cnv = s.cnv := by
  unfold State.latch
  repeat' first | rfl | split | (simp; done) | dsimp only

@[simp] theorem State.latch_fus (s : State) (src : Src) (i : Nat) : (s.latch src i).fus = s.fus := by
  unfold State.latch
  repeat' first | rfl | split | (simp; done) | dsimp only

@[simp] theorem State.latch_mze (s : State) (src : Src) (i : Nat) : (s.latch src i).mze = s.mze := by
  unfold State.latch
  repeat' first | rfl | split | (simp; done) | dsimp only

@[simp] theorem State.latch_swc (s : State) (src : Src) (i : Nat) : (s.latch src i).swc = s.swc := by
  unfold State.latch
  repeat' first | rfl | split | (simp; done) | dsimp only

@[simp] theorem State.latch_sch (s : State) (src : Src) (i : Nat) : (s.latch src i).sch = s.sch := by
  unfold State.latch
  repeat' first | rfl | split | (simp; done) | dsimp only

@[simp] theorem State.latch_plk (s : State) (src : Src) (i : Nat) : (s.latch src i).plk = s.plk := by
  unfold State.latch
  repeat' first | rfl | split | (simp; done) | dsimp only

@[simp] theorem State.latch_rgq (s : State) (src : Src) (i : Nat) : (s.latch src i).rgq = s.rgq := by
  unfold State.latch
  repeat' first | rfl | split | (simp; done) | dsimp only

@[simp] theorem State.latch_enc (s : State) (src : Src) (i : Nat) : (s.latch src i).enc = s.enc := by
  unfold State.latch
  repeat' first | rfl | split | (simp; done) | dsimp only

@[simp] theorem State.latch_esc (s : State) (src : Src) (i : Nat) : (s.latch src i).esc = s.esc := by
  unfold State.latch
  repeat' first | rfl | split | (simp; done) | dsimp only

@[simp] theorem State.latch_rgl (s : State) (src : Src) (i : Nat) : (s.latch src i).rgl = s.rgl := by
  unfold State.latch
  repeat' first | rfl | split | (simp; done) | dsimp only

@[simp] theorem State.latch_dma (s : State) (src : Src) (i : Nat) : (s.latch src i).dma = s.dma := by
  unfold State.latch
  repeat' first | rfl | split | (simp; done) | dsimp only

@[simp] theorem State.causeOn_variant (s : State) (src : Src) (i : Nat) : (s.causeOn src i).variant = s.variant := by
  unfold State.causeOn
  repeat' first | rfl | split | (simp; done) | dsimp only

@[simp] theorem State.causeOn_now (s : State) (src : Src) (i : Nat) : (s.causeOn src i).now = s.now := by
  unfold State.causeOn
  repeat' first | rfl | split | (simp; done) | dsimp only

@[simp] theorem State.causeOn_freeCtr (s : State) (src : Src) (i : Nat) : (s.causeOn src i).freeCtr = s.freeCtr := by
  unfold State.causeOn
  repeat' first | rfl | split | (simp; done) | dsimp only

@[simp] theorem State.causeOn_pending (s : State) (src : Src) (i : Nat) : (s.causeOn src i).pending = s.pending := by
  unfold State.causeOn
  repeat' first | rfl | split | (simp; done) | dsimp only

@[simp] theorem State.causeOn_rng (s : State) (src : Src) (i : Nat) : (s.causeOn src i).rng = s.rng := by
  unfold State.causeOn
  repeat' first | rfl | split | (simp; done) | dsimp only

@[simp] theorem State.causeOn_pool (s : State) (src : Src) (i : Nat) : (s.causeOn src i).pool = s.pool := by
  unfold State.causeOn
  repeat' first | rfl | split | (simp; done) | dsimp only

@[simp] theorem State.causeOn_mem (s : State) (src : Src) (i : Nat) : (s.causeOn src i).mem = s.mem := by
  unfold State.causeOn
  repeat' first | rfl | split | (simp; done) | dsimp only

@[simp] theorem State.causeOn_pwr (s : State) (src : Src) (i : Nat) : (s.causeOn src i).pwr = s.pwr := by
  unfold State.causeOn
  repeat' first | rfl | split | (simp; done) | dsimp only

@[simp] theorem State.causeOn_dec (s : State) (src : Src) (i : Nat) : (s.causeOn src i).dec = s.dec := by
  unfold State.causeOn
  repeat' first | rfl | split | (simp; done) | dsimp only

@[simp] theorem State.causeOn_clb (s : State) (src : Src) (i : Nat) : (s.causeOn src i).clb = s.clb := by
  unfold State.causeOn
  repeat' first | rfl | split | (simp; done) | dsimp only

@[simp] theorem State.causeOn_cnv (s : State) (src : Src) (i : Nat) : (s.causeOn src i).cnv = s.cnv := by
  unfold State.causeOn
  repeat' first | rfl | split | (simp; done) | dsimp only

@[simp] theorem State.causeOn_fus (s : State) (src : Src) (i : Nat) : (s.causeOn src i).fus = s.fus := by
  unfold State.causeOn
  repeat' first | rfl | split | (simp; done) | dsimp only

@[simp] theorem State.causeOn_mze (s : State) (src : Src) (i : Nat) : (s.causeOn src i).mze = s.mze := by
  unfold State.causeOn
  repeat' first | rfl | split | (simp; done) | dsimp only

@[simp] theorem State.causeOn_swc (s : State) (src : Src) (i : Nat) : (s.causeOn src i).swc = s.swc := by
  unfold State.causeOn
  repeat' first | rfl | split | (simp; done) | dsimp only

@[simp] theorem State.causeOn_sch (s : State) (src : Src) (i : Nat) : (s.causeOn src i).sch = s.sch := by
  unfold State.causeOn
  repeat' first | rfl | split | (simp; done) | dsimp only

@[simp] theorem State.causeOn_plk (s : State) (src : Src) (i : Nat) : (s.causeOn src i).plk = s.plk := by
  unfold State.causeOn
  repeat' first | rfl | split | (simp; done) | dsimp only

@[simp] theorem State.causeOn_rgq (s : State) (src : Src) (i : Nat) : (s.causeOn src i).rgq = s.rgq := by
  unfold State.causeOn
  repeat' first | rfl | split | (simp; done) | dsimp only

@[simp] theorem State.causeOn_enc (s : State) (src : Src) (i : Nat) : (s.causeOn src i).enc = s.enc := by
  unfold State.causeOn
  repeat' first | rfl | split | (simp; done) | dsimp only

@[simp] theorem State.causeOn_esc (s : State) (src : Src) (i : Nat) : (s.causeOn src i).esc = s.esc := by
  unfold State.causeOn
  repeat' first | rfl | split | (simp; done) | dsimp only

@[simp] theorem State.causeOn_rgl (s : State) (src : Src) (i : Nat) : (s.causeOn src i).rgl = s.rgl := by
  unfold State.causeOn
  repeat' first | rfl | split | (simp; done) | dsimp only

@[simp] theorem State.causeOn_dma (s : State) (src : Src) (i : Nat) : (s.causeOn src i).dma = s.dma := by
  unfold State.causeOn
  repeat' first | rfl | split | (simp; done) | dsimp only

@[simp] theorem State.causeOff_variant (s : State) (src : Src) (i : Nat) : (s.causeOff src i).variant = s.variant := rfl

@[simp] theorem State.causeOff_now (s : State) (src : Src) (i : Nat) : (s.causeOff src i).now = s.now := rfl

@[simp] theorem State.causeOff_freeCtr (s : State) (src : Src) (i : Nat) : (s.causeOff src i).freeCtr = s.freeCtr := rfl

@[simp] theorem State.causeOff_pending (s : State) (src : Src) (i : Nat) : (s.causeOff src i).pending = s.pending := rfl

@[simp] theorem State.causeOff_regs (s : State) (src : Src) (i : Nat) : (s.causeOff src i).regs = s.regs := rfl

@[simp] theorem State.causeOff_hst (s : State) (src : Src) (i : Nat) : (s.causeOff src i).hst = s.hst := rfl

@[simp] theorem State.causeOff_rng (s : State) (src : Src) (i : Nat) : (s.causeOff src i).rng = s.rng := rfl

@[simp] theorem State.causeOff_pool (s : State) (src : Src) (i : Nat) : (s.causeOff src i).pool = s.pool := rfl

@[simp] theorem State.causeOff_int (s : State) (src : Src) (i : Nat) : (s.causeOff src i).int = s.int := rfl

@[simp] theorem State.causeOff_mem (s : State) (src : Src) (i : Nat) : (s.causeOff src i).mem = s.mem := rfl

@[simp] theorem State.causeOff_kst (s : State) (src : Src) (i : Nat) : (s.causeOff src i).kst = s.kst := rfl

@[simp] theorem State.causeOff_pwr (s : State) (src : Src) (i : Nat) : (s.causeOff src i).pwr = s.pwr := rfl

@[simp] theorem State.causeOff_dec (s : State) (src : Src) (i : Nat) : (s.causeOff src i).dec = s.dec := rfl

@[simp] theorem State.causeOff_clb (s : State) (src : Src) (i : Nat) : (s.causeOff src i).clb = s.clb := rfl

@[simp] theorem State.causeOff_cnv (s : State) (src : Src) (i : Nat) : (s.causeOff src i).cnv = s.cnv := rfl

@[simp] theorem State.causeOff_fus (s : State) (src : Src) (i : Nat) : (s.causeOff src i).fus = s.fus := rfl

@[simp] theorem State.causeOff_mze (s : State) (src : Src) (i : Nat) : (s.causeOff src i).mze = s.mze := rfl

@[simp] theorem State.causeOff_swc (s : State) (src : Src) (i : Nat) : (s.causeOff src i).swc = s.swc := rfl

@[simp] theorem State.causeOff_sch (s : State) (src : Src) (i : Nat) : (s.causeOff src i).sch = s.sch := rfl

@[simp] theorem State.causeOff_plk (s : State) (src : Src) (i : Nat) : (s.causeOff src i).plk = s.plk := rfl

@[simp] theorem State.causeOff_rgq (s : State) (src : Src) (i : Nat) : (s.causeOff src i).rgq = s.rgq := rfl

@[simp] theorem State.causeOff_enc (s : State) (src : Src) (i : Nat) : (s.causeOff src i).enc = s.enc := rfl

@[simp] theorem State.causeOff_esc (s : State) (src : Src) (i : Nat) : (s.causeOff src i).esc = s.esc := rfl

@[simp] theorem State.causeOff_rgl (s : State) (src : Src) (i : Nat) : (s.causeOff src i).rgl = s.rgl := rfl

@[simp] theorem State.causeOff_dma (s : State) (src : Src) (i : Nat) : (s.causeOff src i).dma = s.dma := rfl

@[simp] theorem State.badId_variant (s : State) (b i : Nat) : (s.badId b i).variant = s.variant := by
  unfold State.badId
  repeat' first | rfl | split | (simp; done) | dsimp only

@[simp] theorem State.badId_now (s : State) (b i : Nat) : (s.badId b i).now = s.now := by
  unfold State.badId
  repeat' first | rfl | split | (simp; done) | dsimp only

@[simp] theorem State.badId_freeCtr (s : State) (b i : Nat) : (s.badId b i).freeCtr = s.freeCtr := by
  unfold State.badId
  repeat' first | rfl | split | (simp; done) | dsimp only

@[simp] theorem State.badId_pending (s : State) (b i : Nat) : (s.badId b i).pending = s.pending := by
  unfold State.badId
  repeat' first | rfl | split | (simp; done) | dsimp only

@[simp] theorem State.badId_rng (s : State) (b i : Nat) : (s.badId b i).rng = s.rng := by
  unfold State.badId
  repeat' first | rfl | split | (simp; done) | dsimp only

@[simp] theorem State.badId_pool (s : State) (b i : Nat) : (s.badId b i).pool = s.pool := by
  unfold State.badId
  repeat' first | rfl | split | (simp; done) | dsimp only

@[simp] theorem State.badId_mem (s : State) (b i : Nat) : (s.badId b i).mem = s.mem := by
  unfold State.badId
  repeat' first | rfl | split | (simp; done) | dsimp only

@[simp] theorem State.badId_pwr (s : State) (b i : Nat) : (s.badId b i).pwr = s.pwr := by
  unfold State.badId
  repeat' first | rfl | split | (simp; done) | dsimp only

@[simp] theorem State.badId_dec (s : State) (b i : Nat) : (s.badId b i).dec = s.dec := by
  unfold State.badId
  repeat' first | rfl | split | (simp; done) | dsimp only

@[simp] theorem State.badId_clb (s : State) (b i : Nat) : (s.badId b i).clb = s.clb := by
  unfold State.badId
  repeat' first | rfl | split | (simp; done) | dsimp only

@[simp] theorem State.badId_cnv (s : State) (b i : Nat) : (s.badId b i).cnv = s.cnv := by
  unfold State.badId
  repeat' first | rfl | split | (simp; done) | dsimp only

@[simp] theorem State.badId_fus (s : State) (b i : Nat) : (s.badId b i).fus = s.fus := by
  unfold State.badId
  repeat' first | rfl | split | (simp; done) | dsimp only

@[simp] theorem State.badId_mze (s : State) (b i : Nat) : (s.badId b i).mze = s.mze := by
  unfold State.badId
  repeat' first | rfl | split | (simp; done) | dsimp only

@[simp] theorem State.badId_swc (s : State) (b i : Nat) : (s.badId b i).swc = s.swc := by
  unfold State.badId
  repeat' first | rfl | split | (simp; done) | dsimp only

@[simp] theorem State.badId_sch (s : State) (b i : Nat) : (s.badId b i).sch = s.sch := by
  unfold State.badId
  repeat' first | rfl | split | (simp; done) | dsimp only

@[simp] theorem State.badId_plk (s : State) (b i : Nat) : (s.badId b i).plk = s.plk := by
  unfold State.badId
  repeat' first | rfl | split | (simp; done) | dsimp only

@[simp] theorem State.badId_rgq (s : State) (b i : Nat) : (s.badId b i).rgq = s.rgq := by
  unfold State.badId
  repeat' first | rfl | split | (simp; done) | dsimp only

@[simp] theorem State.badId_enc (s : State) (b i : Nat) : (s.badId b i).enc = s.enc := by
  unfold State.badId
  repeat' first | rfl | split | (simp; done) | dsimp only

@[simp] theorem State.badId_esc (s : State) (b i : Nat) : (s.badId b i).esc = s.esc := by
  unfold State.badId
  repeat' first | rfl | split | (simp; done) | dsimp only

@[simp] theorem State.badId_rgl (s : State) (b i : Nat) : (s.badId b i).rgl = s.rgl := by
  unfold State.badId
  repeat' first | rfl | split | (simp; done) | dsimp only

@[simp] theorem State.badId_dma (s : State) (b i : Nat) : (s.badId b i).dma = s.dma := by
  unfold State.badId
  repeat' first | rfl | split | (simp; done) | dsimp only

@[simp] theorem State.clampHit_variant (s : State) (b i : Nat) : (s.clampHit b i).variant = s.variant := by
  unfold State.clampHit
  repeat' first | rfl | split | (simp; done) | dsimp only

@[simp] theorem State.clampHit_now (s : State) (b i : Nat) : (s.clampHit b i).now = s.now := by
  unfold State.clampHit
  repeat' first | rfl | split | (simp; done) | dsimp only

@[simp] theorem State.clampHit_freeCtr (s : State) (b i : Nat) : (s.clampHit b i).freeCtr = s.freeCtr := by
  unfold State.clampHit
  repeat' first | rfl | split | (simp; done) | dsimp only

@[simp] theorem State.clampHit_pending (s : State) (b i : Nat) : (s.clampHit b i).pending = s.pending := by
  unfold State.clampHit
  repeat' first | rfl | split | (simp; done) | dsimp only

@[simp] theorem State.clampHit_rng (s : State) (b i : Nat) : (s.clampHit b i).rng = s.rng := by
  unfold State.clampHit
  repeat' first | rfl | split | (simp; done) | dsimp only

@[simp] theorem State.clampHit_pool (s : State) (b i : Nat) : (s.clampHit b i).pool = s.pool := by
  unfold State.clampHit
  repeat' first | rfl | split | (simp; done) | dsimp only

@[simp] theorem State.clampHit_mem (s : State) (b i : Nat) : (s.clampHit b i).mem = s.mem := by
  unfold State.clampHit
  repeat' first | rfl | split | (simp; done) | dsimp only

@[simp] theorem State.clampHit_pwr (s : State) (b i : Nat) : (s.clampHit b i).pwr = s.pwr := by
  unfold State.clampHit
  repeat' first | rfl | split | (simp; done) | dsimp only

@[simp] theorem State.clampHit_dec (s : State) (b i : Nat) : (s.clampHit b i).dec = s.dec := by
  unfold State.clampHit
  repeat' first | rfl | split | (simp; done) | dsimp only

@[simp] theorem State.clampHit_clb (s : State) (b i : Nat) : (s.clampHit b i).clb = s.clb := by
  unfold State.clampHit
  repeat' first | rfl | split | (simp; done) | dsimp only

@[simp] theorem State.clampHit_cnv (s : State) (b i : Nat) : (s.clampHit b i).cnv = s.cnv := by
  unfold State.clampHit
  repeat' first | rfl | split | (simp; done) | dsimp only

@[simp] theorem State.clampHit_fus (s : State) (b i : Nat) : (s.clampHit b i).fus = s.fus := by
  unfold State.clampHit
  repeat' first | rfl | split | (simp; done) | dsimp only

@[simp] theorem State.clampHit_mze (s : State) (b i : Nat) : (s.clampHit b i).mze = s.mze := by
  unfold State.clampHit
  repeat' first | rfl | split | (simp; done) | dsimp only

@[simp] theorem State.clampHit_swc (s : State) (b i : Nat) : (s.clampHit b i).swc = s.swc := by
  unfold State.clampHit
  repeat' first | rfl | split | (simp; done) | dsimp only

@[simp] theorem State.clampHit_sch (s : State) (b i : Nat) : (s.clampHit b i).sch = s.sch := by
  unfold State.clampHit
  repeat' first | rfl | split | (simp; done) | dsimp only

@[simp] theorem State.clampHit_plk (s : State) (b i : Nat) : (s.clampHit b i).plk = s.plk := by
  unfold State.clampHit
  repeat' first | rfl | split | (simp; done) | dsimp only

@[simp] theorem State.clampHit_rgq (s : State) (b i : Nat) : (s.clampHit b i).rgq = s.rgq := by
  unfold State.clampHit
  repeat' first | rfl | split | (simp; done) | dsimp only

@[simp] theorem State.clampHit_enc (s : State) (b i : Nat) : (s.clampHit b i).enc = s.enc := by
  unfold State.clampHit
  repeat' first | rfl | split | (simp; done) | dsimp only

@[simp] theorem State.clampHit_esc (s : State) (b i : Nat) : (s.clampHit b i).esc = s.esc := by
  unfold State.clampHit
  repeat' first | rfl | split | (simp; done) | dsimp only

@[simp] theorem State.clampHit_rgl (s : State) (b i : Nat) : (s.clampHit b i).rgl = s.rgl := by
  unfold State.clampHit
  repeat' first | rfl | split | (simp; done) | dsimp only

@[simp] theorem State.clampHit_dma (s : State) (b i : Nat) : (s.clampHit b i).dma = s.dma := by
  unfold State.clampHit
  repeat' first | rfl | split | (simp; done) | dsimp only

@[simp] theorem State.wearOut_variant (s : State) (o : Nat) : (s.wearOut o).variant = s.variant := by
  unfold State.wearOut
  repeat' first | rfl | split | (simp; done) | dsimp only

@[simp] theorem State.wearOut_now (s : State) (o : Nat) : (s.wearOut o).now = s.now := by
  unfold State.wearOut
  repeat' first | rfl | split | (simp; done) | dsimp only

@[simp] theorem State.wearOut_freeCtr (s : State) (o : Nat) : (s.wearOut o).freeCtr = s.freeCtr := by
  unfold State.wearOut
  repeat' first | rfl | split | (simp; done) | dsimp only

@[simp] theorem State.wearOut_pending (s : State) (o : Nat) : (s.wearOut o).pending = s.pending := by
  unfold State.wearOut
  repeat' first | rfl | split | (simp; done) | dsimp only

@[simp] theorem State.wearOut_rng (s : State) (o : Nat) : (s.wearOut o).rng = s.rng := by
  unfold State.wearOut
  repeat' first | rfl | split | (simp; done) | dsimp only

@[simp] theorem State.wearOut_pool (s : State) (o : Nat) : (s.wearOut o).pool = s.pool := by
  unfold State.wearOut
  repeat' first | rfl | split | (simp; done) | dsimp only

@[simp] theorem State.wearOut_mem (s : State) (o : Nat) : (s.wearOut o).mem = s.mem := by
  unfold State.wearOut
  repeat' first | rfl | split | (simp; done) | dsimp only

@[simp] theorem State.wearOut_pwr (s : State) (o : Nat) : (s.wearOut o).pwr = s.pwr := by
  unfold State.wearOut
  repeat' first | rfl | split | (simp; done) | dsimp only

@[simp] theorem State.wearOut_dec (s : State) (o : Nat) : (s.wearOut o).dec = s.dec := by
  unfold State.wearOut
  repeat' first | rfl | split | (simp; done) | dsimp only

@[simp] theorem State.wearOut_clb (s : State) (o : Nat) : (s.wearOut o).clb = s.clb := by
  unfold State.wearOut
  repeat' first | rfl | split | (simp; done) | dsimp only

@[simp] theorem State.wearOut_cnv (s : State) (o : Nat) : (s.wearOut o).cnv = s.cnv := by
  unfold State.wearOut
  repeat' first | rfl | split | (simp; done) | dsimp only

@[simp] theorem State.wearOut_fus (s : State) (o : Nat) : (s.wearOut o).fus = s.fus := by
  unfold State.wearOut
  repeat' first | rfl | split | (simp; done) | dsimp only

@[simp] theorem State.wearOut_mze (s : State) (o : Nat) : (s.wearOut o).mze = s.mze := by
  unfold State.wearOut
  repeat' first | rfl | split | (simp; done) | dsimp only

@[simp] theorem State.wearOut_swc (s : State) (o : Nat) : (s.wearOut o).swc = s.swc := by
  unfold State.wearOut
  repeat' first | rfl | split | (simp; done) | dsimp only

@[simp] theorem State.wearOut_sch (s : State) (o : Nat) : (s.wearOut o).sch = s.sch := by
  unfold State.wearOut
  repeat' first | rfl | split | (simp; done) | dsimp only

@[simp] theorem State.wearOut_plk (s : State) (o : Nat) : (s.wearOut o).plk = s.plk := by
  unfold State.wearOut
  repeat' first | rfl | split | (simp; done) | dsimp only

@[simp] theorem State.wearOut_rgq (s : State) (o : Nat) : (s.wearOut o).rgq = s.rgq := by
  unfold State.wearOut
  repeat' first | rfl | split | (simp; done) | dsimp only

@[simp] theorem State.wearOut_enc (s : State) (o : Nat) : (s.wearOut o).enc = s.enc := by
  unfold State.wearOut
  repeat' first | rfl | split | (simp; done) | dsimp only

@[simp] theorem State.wearOut_esc (s : State) (o : Nat) : (s.wearOut o).esc = s.esc := by
  unfold State.wearOut
  repeat' first | rfl | split | (simp; done) | dsimp only

@[simp] theorem State.wearOut_rgl (s : State) (o : Nat) : (s.wearOut o).rgl = s.rgl := by
  unfold State.wearOut
  repeat' first | rfl | split | (simp; done) | dsimp only

@[simp] theorem State.wearOut_dma (s : State) (o : Nat) : (s.wearOut o).dma = s.dma := by
  unfold State.wearOut
  repeat' first | rfl | split | (simp; done) | dsimp only

@[simp] theorem State.touchDram_variant (s : State) (a len : Nat) : (s.touchDram a len).variant = s.variant := by
  unfold State.touchDram
  dsimp only
  refine State.foldl_part (g := State.variant) (fun t b => ?_) _ _
  rfl

@[simp] theorem State.touchDram_now (s : State) (a len : Nat) : (s.touchDram a len).now = s.now := by
  unfold State.touchDram
  dsimp only
  refine State.foldl_part (g := State.now) (fun t b => ?_) _ _
  rfl

@[simp] theorem State.touchDram_freeCtr (s : State) (a len : Nat) : (s.touchDram a len).freeCtr = s.freeCtr := by
  unfold State.touchDram
  dsimp only
  refine State.foldl_part (g := State.freeCtr) (fun t b => ?_) _ _
  rfl

@[simp] theorem State.touchDram_pending (s : State) (a len : Nat) : (s.touchDram a len).pending = s.pending := by
  unfold State.touchDram
  dsimp only
  refine State.foldl_part (g := State.pending) (fun t b => ?_) _ _
  rfl

@[simp] theorem State.touchDram_regs (s : State) (a len : Nat) : (s.touchDram a len).regs = s.regs := by
  unfold State.touchDram
  dsimp only
  refine State.foldl_part (g := State.regs) (fun t b => ?_) _ _
  rfl

@[simp] theorem State.touchDram_hst (s : State) (a len : Nat) : (s.touchDram a len).hst = s.hst := by
  unfold State.touchDram
  dsimp only
  refine State.foldl_part (g := State.hst) (fun t b => ?_) _ _
  rfl

@[simp] theorem State.touchDram_rng (s : State) (a len : Nat) : (s.touchDram a len).rng = s.rng := by
  unfold State.touchDram
  dsimp only
  refine State.foldl_part (g := State.rng) (fun t b => ?_) _ _
  rfl

@[simp] theorem State.touchDram_int (s : State) (a len : Nat) : (s.touchDram a len).int = s.int := by
  unfold State.touchDram
  dsimp only
  refine State.foldl_part (g := State.int) (fun t b => ?_) _ _
  rfl

@[simp] theorem State.touchDram_flt (s : State) (a len : Nat) : (s.touchDram a len).flt = s.flt := by
  unfold State.touchDram
  dsimp only
  refine State.foldl_part (g := State.flt) (fun t b => ?_) _ _
  rfl

@[simp] theorem State.touchDram_kst (s : State) (a len : Nat) : (s.touchDram a len).kst = s.kst := by
  unfold State.touchDram
  dsimp only
  refine State.foldl_part (g := State.kst) (fun t b => ?_) _ _
  rfl

@[simp] theorem State.touchDram_pwr (s : State) (a len : Nat) : (s.touchDram a len).pwr = s.pwr := by
  unfold State.touchDram
  dsimp only
  refine State.foldl_part (g := State.pwr) (fun t b => ?_) _ _
  rfl

@[simp] theorem State.touchDram_dec (s : State) (a len : Nat) : (s.touchDram a len).dec = s.dec := by
  unfold State.touchDram
  dsimp only
  refine State.foldl_part (g := State.dec) (fun t b => ?_) _ _
  rfl

@[simp] theorem State.touchDram_clb (s : State) (a len : Nat) : (s.touchDram a len).clb = s.clb := by
  unfold State.touchDram
  dsimp only
  refine State.foldl_part (g := State.clb) (fun t b => ?_) _ _
  rfl

@[simp] theorem State.touchDram_cnv (s : State) (a len : Nat) : (s.touchDram a len).cnv = s.cnv := by
  unfold State.touchDram
  dsimp only
  refine State.foldl_part (g := State.cnv) (fun t b => ?_) _ _
  rfl

@[simp] theorem State.touchDram_fus (s : State) (a len : Nat) : (s.touchDram a len).fus = s.fus := by
  unfold State.touchDram
  dsimp only
  refine State.foldl_part (g := State.fus) (fun t b => ?_) _ _
  rfl

@[simp] theorem State.touchDram_mze (s : State) (a len : Nat) : (s.touchDram a len).mze = s.mze := by
  unfold State.touchDram
  dsimp only
  refine State.foldl_part (g := State.mze) (fun t b => ?_) _ _
  rfl

@[simp] theorem State.touchDram_swc (s : State) (a len : Nat) : (s.touchDram a len).swc = s.swc := by
  unfold State.touchDram
  dsimp only
  refine State.foldl_part (g := State.swc) (fun t b => ?_) _ _
  rfl

@[simp] theorem State.touchDram_sch (s : State) (a len : Nat) : (s.touchDram a len).sch = s.sch := by
  unfold State.touchDram
  dsimp only
  refine State.foldl_part (g := State.sch) (fun t b => ?_) _ _
  rfl

@[simp] theorem State.touchDram_plk (s : State) (a len : Nat) : (s.touchDram a len).plk = s.plk := by
  unfold State.touchDram
  dsimp only
  refine State.foldl_part (g := State.plk) (fun t b => ?_) _ _
  rfl

@[simp] theorem State.touchDram_rgq (s : State) (a len : Nat) : (s.touchDram a len).rgq = s.rgq := by
  unfold State.touchDram
  dsimp only
  refine State.foldl_part (g := State.rgq) (fun t b => ?_) _ _
  rfl

@[simp] theorem State.touchDram_enc (s : State) (a len : Nat) : (s.touchDram a len).enc = s.enc := by
  unfold State.touchDram
  dsimp only
  refine State.foldl_part (g := State.enc) (fun t b => ?_) _ _
  rfl

@[simp] theorem State.touchDram_esc (s : State) (a len : Nat) : (s.touchDram a len).esc = s.esc := by
  unfold State.touchDram
  dsimp only
  refine State.foldl_part (g := State.esc) (fun t b => ?_) _ _
  rfl

@[simp] theorem State.touchDram_rgl (s : State) (a len : Nat) : (s.touchDram a len).rgl = s.rgl := by
  unfold State.touchDram
  dsimp only
  refine State.foldl_part (g := State.rgl) (fun t b => ?_) _ _
  rfl

@[simp] theorem State.touchDram_dma (s : State) (a len : Nat) : (s.touchDram a len).dma = s.dma := by
  unfold State.touchDram
  dsimp only
  refine State.foldl_part (g := State.dma) (fun t b => ?_) _ _
  rfl

@[simp] theorem State.dramPut_variant (s : State) (a : Nat) (bs : Bytes) : (s.dramPut a bs).variant = s.variant := by
  exact State.touchDram_variant s a bs.length

@[simp] theorem State.dramPut_now (s : State) (a : Nat) (bs : Bytes) : (s.dramPut a bs).now = s.now := by
  exact State.touchDram_now s a bs.length

@[simp] theorem State.dramPut_freeCtr (s : State) (a : Nat) (bs : Bytes) : (s.dramPut a bs).freeCtr = s.freeCtr := by
  exact State.touchDram_freeCtr s a bs.length

@[simp] theorem State.dramPut_pending (s : State) (a : Nat) (bs : Bytes) : (s.dramPut a bs).pending = s.pending := by
  exact State.touchDram_pending s a bs.length

@[simp] theorem State.dramPut_regs (s : State) (a : Nat) (bs : Bytes) : (s.dramPut a bs).regs = s.regs := by
  exact State.touchDram_regs s a bs.length

@[simp] theorem State.dramPut_hst (s : State) (a : Nat) (bs : Bytes) : (s.dramPut a bs).hst = s.hst := by
  exact State.touchDram_hst s a bs.length

@[simp] theorem State.dramPut_rng (s : State) (a : Nat) (bs : Bytes) : (s.dramPut a bs).rng = s.rng := by
  exact State.touchDram_rng s a bs.length

@[simp] theorem State.dramPut_int (s : State) (a : Nat) (bs : Bytes) : (s.dramPut a bs).int = s.int := by
  exact State.touchDram_int s a bs.length

@[simp] theorem State.dramPut_flt (s : State) (a : Nat) (bs : Bytes) : (s.dramPut a bs).flt = s.flt := by
  exact State.touchDram_flt s a bs.length

@[simp] theorem State.dramPut_kst (s : State) (a : Nat) (bs : Bytes) : (s.dramPut a bs).kst = s.kst := by
  exact State.touchDram_kst s a bs.length

@[simp] theorem State.dramPut_pwr (s : State) (a : Nat) (bs : Bytes) : (s.dramPut a bs).pwr = s.pwr := by
  exact State.touchDram_pwr s a bs.length

@[simp] theorem State.dramPut_dec (s : State) (a : Nat) (bs : Bytes) : (s.dramPut a bs).dec = s.dec := by
  exact State.touchDram_dec s a bs.length

@[simp] theorem State.dramPut_clb (s : State) (a : Nat) (bs : Bytes) : (s.dramPut a bs).clb = s.clb := by
  exact State.touchDram_clb s a bs.length

@[simp] theorem State.dramPut_cnv (s : State) (a : Nat) (bs : Bytes) : (s.dramPut a bs).cnv = s.cnv := by
  exact State.touchDram_cnv s a bs.length

@[simp] theorem State.dramPut_fus (s : State) (a : Nat) (bs : Bytes) : (s.dramPut a bs).fus = s.fus := by
  exact State.touchDram_fus s a bs.length

@[simp] theorem State.dramPut_mze (s : State) (a : Nat) (bs : Bytes) : (s.dramPut a bs).mze = s.mze := by
  exact State.touchDram_mze s a bs.length

@[simp] theorem State.dramPut_swc (s : State) (a : Nat) (bs : Bytes) : (s.dramPut a bs).swc = s.swc := by
  exact State.touchDram_swc s a bs.length

@[simp] theorem State.dramPut_sch (s : State) (a : Nat) (bs : Bytes) : (s.dramPut a bs).sch = s.sch := by
  exact State.touchDram_sch s a bs.length

@[simp] theorem State.dramPut_plk (s : State) (a : Nat) (bs : Bytes) : (s.dramPut a bs).plk = s.plk := by
  exact State.touchDram_plk s a bs.length

@[simp] theorem State.dramPut_rgq (s : State) (a : Nat) (bs : Bytes) : (s.dramPut a bs).rgq = s.rgq := by
  exact State.touchDram_rgq s a bs.length

@[simp] theorem State.dramPut_enc (s : State) (a : Nat) (bs : Bytes) : (s.dramPut a bs).enc = s.enc := by
  exact State.touchDram_enc s a bs.length

@[simp] theorem State.dramPut_esc (s : State) (a : Nat) (bs : Bytes) : (s.dramPut a bs).esc = s.esc := by
  exact State.touchDram_esc s a bs.length

@[simp] theorem State.dramPut_rgl (s : State) (a : Nat) (bs : Bytes) : (s.dramPut a bs).rgl = s.rgl := by
  exact State.touchDram_rgl s a bs.length

@[simp] theorem State.dramPut_dma (s : State) (a : Nat) (bs : Bytes) : (s.dramPut a bs).dma = s.dma := by
  exact State.touchDram_dma s a bs.length

@[simp] theorem State.request_variant (s : State) (q : HostReq) : (s.request q).variant = s.variant := rfl

@[simp] theorem State.request_now (s : State) (q : HostReq) : (s.request q).now = s.now := rfl

@[simp] theorem State.request_freeCtr (s : State) (q : HostReq) : (s.request q).freeCtr = s.freeCtr := rfl

@[simp] theorem State.request_pending (s : State) (q : HostReq) : (s.request q).pending = s.pending := rfl

@[simp] theorem State.request_regs (s : State) (q : HostReq) : (s.request q).regs = s.regs := rfl

@[simp] theorem State.request_rng (s : State) (q : HostReq) : (s.request q).rng = s.rng := rfl

@[simp] theorem State.request_pool (s : State) (q : HostReq) : (s.request q).pool = s.pool := rfl

@[simp] theorem State.request_int (s : State) (q : HostReq) : (s.request q).int = s.int := rfl

@[simp] theorem State.request_flt (s : State) (q : HostReq) : (s.request q).flt = s.flt := rfl

@[simp] theorem State.request_mem (s : State) (q : HostReq) : (s.request q).mem = s.mem := rfl

@[simp] theorem State.request_kst (s : State) (q : HostReq) : (s.request q).kst = s.kst := rfl

@[simp] theorem State.request_pwr (s : State) (q : HostReq) : (s.request q).pwr = s.pwr := rfl

@[simp] theorem State.request_dec (s : State) (q : HostReq) : (s.request q).dec = s.dec := rfl

@[simp] theorem State.request_clb (s : State) (q : HostReq) : (s.request q).clb = s.clb := rfl

@[simp] theorem State.request_cnv (s : State) (q : HostReq) : (s.request q).cnv = s.cnv := rfl

@[simp] theorem State.request_fus (s : State) (q : HostReq) : (s.request q).fus = s.fus := rfl

@[simp] theorem State.request_mze (s : State) (q : HostReq) : (s.request q).mze = s.mze := rfl

@[simp] theorem State.request_swc (s : State) (q : HostReq) : (s.request q).swc = s.swc := rfl

@[simp] theorem State.request_sch (s : State) (q : HostReq) : (s.request q).sch = s.sch := rfl

@[simp] theorem State.request_plk (s : State) (q : HostReq) : (s.request q).plk = s.plk := rfl

@[simp] theorem State.request_rgq (s : State) (q : HostReq) : (s.request q).rgq = s.rgq := rfl

@[simp] theorem State.request_enc (s : State) (q : HostReq) : (s.request q).enc = s.enc := rfl

@[simp] theorem State.request_esc (s : State) (q : HostReq) : (s.request q).esc = s.esc := rfl

@[simp] theorem State.request_rgl (s : State) (q : HostReq) : (s.request q).rgl = s.rgl := rfl

@[simp] theorem State.request_dma (s : State) (q : HostReq) : (s.request q).dma = s.dma := rfl

@[simp] theorem State.linePut_variant (s : State) (w : BiWrite) : (s.linePut w).variant = s.variant := by
  unfold State.linePut
  repeat' first | rfl | split | (simp; done) | dsimp only

@[simp] theorem State.linePut_now (s : State) (w : BiWrite) : (s.linePut w).now = s.now := by
  unfold State.linePut
  repeat' first | rfl | split | (simp; done) | dsimp only

@[simp] theorem State.linePut_freeCtr (s : State) (w : BiWrite) : (s.linePut w).freeCtr = s.freeCtr := by
  unfold State.linePut
  repeat' first | rfl | split | (simp; done) | dsimp only

@[simp] theorem State.linePut_pending (s : State) (w : BiWrite) : (s.linePut w).pending = s.pending := by
  unfold State.linePut
  repeat' first | rfl | split | (simp; done) | dsimp only

@[simp] theorem State.linePut_regs (s : State) (w : BiWrite) : (s.linePut w).regs = s.regs := by
  unfold State.linePut
  repeat' first | rfl | split | (simp; done) | dsimp only

@[simp] theorem State.linePut_rng (s : State) (w : BiWrite) : (s.linePut w).rng = s.rng := by
  unfold State.linePut
  repeat' first | rfl | split | (simp; done) | dsimp only

@[simp] theorem State.linePut_int (s : State) (w : BiWrite) : (s.linePut w).int = s.int := by
  unfold State.linePut
  repeat' first | rfl | split | (simp; done) | dsimp only

@[simp] theorem State.linePut_flt (s : State) (w : BiWrite) : (s.linePut w).flt = s.flt := by
  unfold State.linePut
  repeat' first | rfl | split | (simp; done) | dsimp only

@[simp] theorem State.linePut_kst (s : State) (w : BiWrite) : (s.linePut w).kst = s.kst := by
  unfold State.linePut
  repeat' first | rfl | split | (simp; done) | dsimp only

@[simp] theorem State.linePut_pwr (s : State) (w : BiWrite) : (s.linePut w).pwr = s.pwr := by
  unfold State.linePut
  repeat' first | rfl | split | (simp; done) | dsimp only

@[simp] theorem State.linePut_dec (s : State) (w : BiWrite) : (s.linePut w).dec = s.dec := by
  unfold State.linePut
  repeat' first | rfl | split | (simp; done) | dsimp only

@[simp] theorem State.linePut_clb (s : State) (w : BiWrite) : (s.linePut w).clb = s.clb := by
  unfold State.linePut
  repeat' first | rfl | split | (simp; done) | dsimp only

@[simp] theorem State.linePut_cnv (s : State) (w : BiWrite) : (s.linePut w).cnv = s.cnv := by
  unfold State.linePut
  repeat' first | rfl | split | (simp; done) | dsimp only

@[simp] theorem State.linePut_fus (s : State) (w : BiWrite) : (s.linePut w).fus = s.fus := by
  unfold State.linePut
  repeat' first | rfl | split | (simp; done) | dsimp only

@[simp] theorem State.linePut_mze (s : State) (w : BiWrite) : (s.linePut w).mze = s.mze := by
  unfold State.linePut
  repeat' first | rfl | split | (simp; done) | dsimp only

@[simp] theorem State.linePut_swc (s : State) (w : BiWrite) : (s.linePut w).swc = s.swc := by
  unfold State.linePut
  repeat' first | rfl | split | (simp; done) | dsimp only

@[simp] theorem State.linePut_sch (s : State) (w : BiWrite) : (s.linePut w).sch = s.sch := by
  unfold State.linePut
  repeat' first | rfl | split | (simp; done) | dsimp only

@[simp] theorem State.linePut_plk (s : State) (w : BiWrite) : (s.linePut w).plk = s.plk := by
  unfold State.linePut
  repeat' first | rfl | split | (simp; done) | dsimp only

@[simp] theorem State.linePut_rgq (s : State) (w : BiWrite) : (s.linePut w).rgq = s.rgq := by
  unfold State.linePut
  repeat' first | rfl | split | (simp; done) | dsimp only

@[simp] theorem State.linePut_enc (s : State) (w : BiWrite) : (s.linePut w).enc = s.enc := by
  unfold State.linePut
  repeat' first | rfl | split | (simp; done) | dsimp only

@[simp] theorem State.linePut_esc (s : State) (w : BiWrite) : (s.linePut w).esc = s.esc := by
  unfold State.linePut
  repeat' first | rfl | split | (simp; done) | dsimp only

@[simp] theorem State.linePut_rgl (s : State) (w : BiWrite) : (s.linePut w).rgl = s.rgl := by
  unfold State.linePut
  repeat' first | rfl | split | (simp; done) | dsimp only

@[simp] theorem State.linePut_dma (s : State) (w : BiWrite) : (s.linePut w).dma = s.dma := by
  unfold State.linePut
  repeat' first | rfl | split | (simp; done) | dsimp only

@[simp] theorem State.devWrite_variant (s : State) (a : Nat) (bs : Bytes) : (s.devWrite a bs).variant = s.variant := by
  unfold State.devWrite
  split
  · exact State.foldl_part (g := State.variant) (fun _ _ => State.linePut_variant ..) _ _
  · simp

@[simp] theorem State.devWrite_now (s : State) (a : Nat) (bs : Bytes) : (s.devWrite a bs).now = s.now := by
  unfold State.devWrite
  split
  · exact State.foldl_part (g := State.now) (fun _ _ => State.linePut_now ..) _ _
  · simp

@[simp] theorem State.devWrite_freeCtr (s : State) (a : Nat) (bs : Bytes) : (s.devWrite a bs).freeCtr = s.freeCtr := by
  unfold State.devWrite
  split
  · exact State.foldl_part (g := State.freeCtr) (fun _ _ => State.linePut_freeCtr ..) _ _
  · simp

@[simp] theorem State.devWrite_pending (s : State) (a : Nat) (bs : Bytes) : (s.devWrite a bs).pending = s.pending := by
  unfold State.devWrite
  split
  · exact State.foldl_part (g := State.pending) (fun _ _ => State.linePut_pending ..) _ _
  · simp

@[simp] theorem State.devWrite_regs (s : State) (a : Nat) (bs : Bytes) : (s.devWrite a bs).regs = s.regs := by
  unfold State.devWrite
  split
  · exact State.foldl_part (g := State.regs) (fun _ _ => State.linePut_regs ..) _ _
  · simp

@[simp] theorem State.devWrite_rng (s : State) (a : Nat) (bs : Bytes) : (s.devWrite a bs).rng = s.rng := by
  unfold State.devWrite
  split
  · exact State.foldl_part (g := State.rng) (fun _ _ => State.linePut_rng ..) _ _
  · simp

@[simp] theorem State.devWrite_int (s : State) (a : Nat) (bs : Bytes) : (s.devWrite a bs).int = s.int := by
  unfold State.devWrite
  split
  · exact State.foldl_part (g := State.int) (fun _ _ => State.linePut_int ..) _ _
  · simp

@[simp] theorem State.devWrite_flt (s : State) (a : Nat) (bs : Bytes) : (s.devWrite a bs).flt = s.flt := by
  unfold State.devWrite
  split
  · exact State.foldl_part (g := State.flt) (fun _ _ => State.linePut_flt ..) _ _
  · simp

@[simp] theorem State.devWrite_kst (s : State) (a : Nat) (bs : Bytes) : (s.devWrite a bs).kst = s.kst := by
  unfold State.devWrite
  split
  · exact State.foldl_part (g := State.kst) (fun _ _ => State.linePut_kst ..) _ _
  · simp

@[simp] theorem State.devWrite_pwr (s : State) (a : Nat) (bs : Bytes) : (s.devWrite a bs).pwr = s.pwr := by
  unfold State.devWrite
  split
  · exact State.foldl_part (g := State.pwr) (fun _ _ => State.linePut_pwr ..) _ _
  · simp

@[simp] theorem State.devWrite_dec (s : State) (a : Nat) (bs : Bytes) : (s.devWrite a bs).dec = s.dec := by
  unfold State.devWrite
  split
  · exact State.foldl_part (g := State.dec) (fun _ _ => State.linePut_dec ..) _ _
  · simp

@[simp] theorem State.devWrite_clb (s : State) (a : Nat) (bs : Bytes) : (s.devWrite a bs).clb = s.clb := by
  unfold State.devWrite
  split
  · exact State.foldl_part (g := State.clb) (fun _ _ => State.linePut_clb ..) _ _
  · simp

@[simp] theorem State.devWrite_cnv (s : State) (a : Nat) (bs : Bytes) : (s.devWrite a bs).cnv = s.cnv := by
  unfold State.devWrite
  split
  · exact State.foldl_part (g := State.cnv) (fun _ _ => State.linePut_cnv ..) _ _
  · simp

@[simp] theorem State.devWrite_fus (s : State) (a : Nat) (bs : Bytes) : (s.devWrite a bs).fus = s.fus := by
  unfold State.devWrite
  split
  · exact State.foldl_part (g := State.fus) (fun _ _ => State.linePut_fus ..) _ _
  · simp

@[simp] theorem State.devWrite_mze (s : State) (a : Nat) (bs : Bytes) : (s.devWrite a bs).mze = s.mze := by
  unfold State.devWrite
  split
  · exact State.foldl_part (g := State.mze) (fun _ _ => State.linePut_mze ..) _ _
  · simp

@[simp] theorem State.devWrite_swc (s : State) (a : Nat) (bs : Bytes) : (s.devWrite a bs).swc = s.swc := by
  unfold State.devWrite
  split
  · exact State.foldl_part (g := State.swc) (fun _ _ => State.linePut_swc ..) _ _
  · simp

@[simp] theorem State.devWrite_sch (s : State) (a : Nat) (bs : Bytes) : (s.devWrite a bs).sch = s.sch := by
  unfold State.devWrite
  split
  · exact State.foldl_part (g := State.sch) (fun _ _ => State.linePut_sch ..) _ _
  · simp

@[simp] theorem State.devWrite_plk (s : State) (a : Nat) (bs : Bytes) : (s.devWrite a bs).plk = s.plk := by
  unfold State.devWrite
  split
  · exact State.foldl_part (g := State.plk) (fun _ _ => State.linePut_plk ..) _ _
  · simp

@[simp] theorem State.devWrite_rgq (s : State) (a : Nat) (bs : Bytes) : (s.devWrite a bs).rgq = s.rgq := by
  unfold State.devWrite
  split
  · exact State.foldl_part (g := State.rgq) (fun _ _ => State.linePut_rgq ..) _ _
  · simp

@[simp] theorem State.devWrite_enc (s : State) (a : Nat) (bs : Bytes) : (s.devWrite a bs).enc = s.enc := by
  unfold State.devWrite
  split
  · exact State.foldl_part (g := State.enc) (fun _ _ => State.linePut_enc ..) _ _
  · simp

@[simp] theorem State.devWrite_esc (s : State) (a : Nat) (bs : Bytes) : (s.devWrite a bs).esc = s.esc := by
  unfold State.devWrite
  split
  · exact State.foldl_part (g := State.esc) (fun _ _ => State.linePut_esc ..) _ _
  · simp

@[simp] theorem State.devWrite_rgl (s : State) (a : Nat) (bs : Bytes) : (s.devWrite a bs).rgl = s.rgl := by
  unfold State.devWrite
  split
  · exact State.foldl_part (g := State.rgl) (fun _ _ => State.linePut_rgl ..) _ _
  · simp

@[simp] theorem State.devWrite_dma (s : State) (a : Nat) (bs : Bytes) : (s.devWrite a bs).dma = s.dma := by
  unfold State.devWrite
  split
  · exact State.foldl_part (g := State.dma) (fun _ _ => State.linePut_dma ..) _ _
  · simp

@[simp] theorem State.hostReq_variant (s : State) (k : ReqKind) (a l : Nat) (t : Option Nat) : (s.hostReq k a l t).variant = s.variant := rfl

@[simp] theorem State.hostReq_now (s : State) (k : ReqKind) (a l : Nat) (t : Option Nat) : (s.hostReq k a l t).now = s.now := rfl

@[simp] theorem State.hostReq_freeCtr (s : State) (k : ReqKind) (a l : Nat) (t : Option Nat) : (s.hostReq k a l t).freeCtr = s.freeCtr := rfl

@[simp] theorem State.hostReq_pending (s : State) (k : ReqKind) (a l : Nat) (t : Option Nat) : (s.hostReq k a l t).pending = s.pending := rfl

@[simp] theorem State.hostReq_regs (s : State) (k : ReqKind) (a l : Nat) (t : Option Nat) : (s.hostReq k a l t).regs = s.regs := rfl

@[simp] theorem State.hostReq_rng (s : State) (k : ReqKind) (a l : Nat) (t : Option Nat) : (s.hostReq k a l t).rng = s.rng := rfl

@[simp] theorem State.hostReq_pool (s : State) (k : ReqKind) (a l : Nat) (t : Option Nat) : (s.hostReq k a l t).pool = s.pool := rfl

@[simp] theorem State.hostReq_int (s : State) (k : ReqKind) (a l : Nat) (t : Option Nat) : (s.hostReq k a l t).int = s.int := rfl

@[simp] theorem State.hostReq_flt (s : State) (k : ReqKind) (a l : Nat) (t : Option Nat) : (s.hostReq k a l t).flt = s.flt := rfl

@[simp] theorem State.hostReq_mem (s : State) (k : ReqKind) (a l : Nat) (t : Option Nat) : (s.hostReq k a l t).mem = s.mem := rfl

@[simp] theorem State.hostReq_kst (s : State) (k : ReqKind) (a l : Nat) (t : Option Nat) : (s.hostReq k a l t).kst = s.kst := rfl

@[simp] theorem State.hostReq_pwr (s : State) (k : ReqKind) (a l : Nat) (t : Option Nat) : (s.hostReq k a l t).pwr = s.pwr := rfl

@[simp] theorem State.hostReq_dec (s : State) (k : ReqKind) (a l : Nat) (t : Option Nat) : (s.hostReq k a l t).dec = s.dec := rfl

@[simp] theorem State.hostReq_clb (s : State) (k : ReqKind) (a l : Nat) (t : Option Nat) : (s.hostReq k a l t).clb = s.clb := rfl

@[simp] theorem State.hostReq_cnv (s : State) (k : ReqKind) (a l : Nat) (t : Option Nat) : (s.hostReq k a l t).cnv = s.cnv := rfl

@[simp] theorem State.hostReq_fus (s : State) (k : ReqKind) (a l : Nat) (t : Option Nat) : (s.hostReq k a l t).fus = s.fus := rfl

@[simp] theorem State.hostReq_mze (s : State) (k : ReqKind) (a l : Nat) (t : Option Nat) : (s.hostReq k a l t).mze = s.mze := rfl

@[simp] theorem State.hostReq_swc (s : State) (k : ReqKind) (a l : Nat) (t : Option Nat) : (s.hostReq k a l t).swc = s.swc := rfl

@[simp] theorem State.hostReq_sch (s : State) (k : ReqKind) (a l : Nat) (t : Option Nat) : (s.hostReq k a l t).sch = s.sch := rfl

@[simp] theorem State.hostReq_plk (s : State) (k : ReqKind) (a l : Nat) (t : Option Nat) : (s.hostReq k a l t).plk = s.plk := rfl

@[simp] theorem State.hostReq_rgq (s : State) (k : ReqKind) (a l : Nat) (t : Option Nat) : (s.hostReq k a l t).rgq = s.rgq := rfl

@[simp] theorem State.hostReq_enc (s : State) (k : ReqKind) (a l : Nat) (t : Option Nat) : (s.hostReq k a l t).enc = s.enc := rfl

@[simp] theorem State.hostReq_esc (s : State) (k : ReqKind) (a l : Nat) (t : Option Nat) : (s.hostReq k a l t).esc = s.esc := rfl

@[simp] theorem State.hostReq_rgl (s : State) (k : ReqKind) (a l : Nat) (t : Option Nat) : (s.hostReq k a l t).rgl = s.rgl := rfl

@[simp] theorem State.hostReq_dma (s : State) (k : ReqKind) (a l : Nat) (t : Option Nat) : (s.hostReq k a l t).dma = s.dma := rfl

@[simp] theorem State.hostPut_variant (s : State) (k : ReqKind) (a : Nat) (bs : Bytes) (t : Option Nat) : (s.hostPut k a bs t).variant = s.variant := rfl

@[simp] theorem State.hostPut_now (s : State) (k : ReqKind) (a : Nat) (bs : Bytes) (t : Option Nat) : (s.hostPut k a bs t).now = s.now := rfl

@[simp] theorem State.hostPut_freeCtr (s : State) (k : ReqKind) (a : Nat) (bs : Bytes) (t : Option Nat) : (s.hostPut k a bs t).freeCtr = s.freeCtr := rfl

@[simp] theorem State.hostPut_pending (s : State) (k : ReqKind) (a : Nat) (bs : Bytes) (t : Option Nat) : (s.hostPut k a bs t).pending = s.pending := rfl

@[simp] theorem State.hostPut_regs (s : State) (k : ReqKind) (a : Nat) (bs : Bytes) (t : Option Nat) : (s.hostPut k a bs t).regs = s.regs := rfl

@[simp] theorem State.hostPut_rng (s : State) (k : ReqKind) (a : Nat) (bs : Bytes) (t : Option Nat) : (s.hostPut k a bs t).rng = s.rng := rfl

@[simp] theorem State.hostPut_pool (s : State) (k : ReqKind) (a : Nat) (bs : Bytes) (t : Option Nat) : (s.hostPut k a bs t).pool = s.pool := rfl

@[simp] theorem State.hostPut_int (s : State) (k : ReqKind) (a : Nat) (bs : Bytes) (t : Option Nat) : (s.hostPut k a bs t).int = s.int := rfl

@[simp] theorem State.hostPut_flt (s : State) (k : ReqKind) (a : Nat) (bs : Bytes) (t : Option Nat) : (s.hostPut k a bs t).flt = s.flt := rfl

@[simp] theorem State.hostPut_mem (s : State) (k : ReqKind) (a : Nat) (bs : Bytes) (t : Option Nat) : (s.hostPut k a bs t).mem = s.mem := rfl

@[simp] theorem State.hostPut_kst (s : State) (k : ReqKind) (a : Nat) (bs : Bytes) (t : Option Nat) : (s.hostPut k a bs t).kst = s.kst := rfl

@[simp] theorem State.hostPut_pwr (s : State) (k : ReqKind) (a : Nat) (bs : Bytes) (t : Option Nat) : (s.hostPut k a bs t).pwr = s.pwr := rfl

@[simp] theorem State.hostPut_dec (s : State) (k : ReqKind) (a : Nat) (bs : Bytes) (t : Option Nat) : (s.hostPut k a bs t).dec = s.dec := rfl

@[simp] theorem State.hostPut_clb (s : State) (k : ReqKind) (a : Nat) (bs : Bytes) (t : Option Nat) : (s.hostPut k a bs t).clb = s.clb := rfl

@[simp] theorem State.hostPut_cnv (s : State) (k : ReqKind) (a : Nat) (bs : Bytes) (t : Option Nat) : (s.hostPut k a bs t).cnv = s.cnv := rfl

@[simp] theorem State.hostPut_fus (s : State) (k : ReqKind) (a : Nat) (bs : Bytes) (t : Option Nat) : (s.hostPut k a bs t).fus = s.fus := rfl

@[simp] theorem State.hostPut_mze (s : State) (k : ReqKind) (a : Nat) (bs : Bytes) (t : Option Nat) : (s.hostPut k a bs t).mze = s.mze := rfl

@[simp] theorem State.hostPut_swc (s : State) (k : ReqKind) (a : Nat) (bs : Bytes) (t : Option Nat) : (s.hostPut k a bs t).swc = s.swc := rfl

@[simp] theorem State.hostPut_sch (s : State) (k : ReqKind) (a : Nat) (bs : Bytes) (t : Option Nat) : (s.hostPut k a bs t).sch = s.sch := rfl

@[simp] theorem State.hostPut_plk (s : State) (k : ReqKind) (a : Nat) (bs : Bytes) (t : Option Nat) : (s.hostPut k a bs t).plk = s.plk := rfl

@[simp] theorem State.hostPut_rgq (s : State) (k : ReqKind) (a : Nat) (bs : Bytes) (t : Option Nat) : (s.hostPut k a bs t).rgq = s.rgq := rfl

@[simp] theorem State.hostPut_enc (s : State) (k : ReqKind) (a : Nat) (bs : Bytes) (t : Option Nat) : (s.hostPut k a bs t).enc = s.enc := rfl

@[simp] theorem State.hostPut_esc (s : State) (k : ReqKind) (a : Nat) (bs : Bytes) (t : Option Nat) : (s.hostPut k a bs t).esc = s.esc := rfl

@[simp] theorem State.hostPut_rgl (s : State) (k : ReqKind) (a : Nat) (bs : Bytes) (t : Option Nat) : (s.hostPut k a bs t).rgl = s.rgl := rfl

@[simp] theorem State.hostPut_dma (s : State) (k : ReqKind) (a : Nat) (bs : Bytes) (t : Option Nat) : (s.hostPut k a bs t).dma = s.dma := rfl

@[simp] theorem State.hostWrite_variant (s : State) (a : Nat) (bs : Bytes) (t : Option Nat) : (s.hostWrite a bs t).variant = s.variant := rfl

@[simp] theorem State.hostWrite_now (s : State) (a : Nat) (bs : Bytes) (t : Option Nat) : (s.hostWrite a bs t).now = s.now := rfl

@[simp] theorem State.hostWrite_freeCtr (s : State) (a : Nat) (bs : Bytes) (t : Option Nat) : (s.hostWrite a bs t).freeCtr = s.freeCtr := rfl

@[simp] theorem State.hostWrite_pending (s : State) (a : Nat) (bs : Bytes) (t : Option Nat) : (s.hostWrite a bs t).pending = s.pending := rfl

@[simp] theorem State.hostWrite_regs (s : State) (a : Nat) (bs : Bytes) (t : Option Nat) : (s.hostWrite a bs t).regs = s.regs := rfl

@[simp] theorem State.hostWrite_rng (s : State) (a : Nat) (bs : Bytes) (t : Option Nat) : (s.hostWrite a bs t).rng = s.rng := rfl

@[simp] theorem State.hostWrite_pool (s : State) (a : Nat) (bs : Bytes) (t : Option Nat) : (s.hostWrite a bs t).pool = s.pool := rfl

@[simp] theorem State.hostWrite_int (s : State) (a : Nat) (bs : Bytes) (t : Option Nat) : (s.hostWrite a bs t).int = s.int := rfl

@[simp] theorem State.hostWrite_flt (s : State) (a : Nat) (bs : Bytes) (t : Option Nat) : (s.hostWrite a bs t).flt = s.flt := rfl

@[simp] theorem State.hostWrite_mem (s : State) (a : Nat) (bs : Bytes) (t : Option Nat) : (s.hostWrite a bs t).mem = s.mem := rfl

@[simp] theorem State.hostWrite_kst (s : State) (a : Nat) (bs : Bytes) (t : Option Nat) : (s.hostWrite a bs t).kst = s.kst := rfl

@[simp] theorem State.hostWrite_pwr (s : State) (a : Nat) (bs : Bytes) (t : Option Nat) : (s.hostWrite a bs t).pwr = s.pwr := rfl

@[simp] theorem State.hostWrite_dec (s : State) (a : Nat) (bs : Bytes) (t : Option Nat) : (s.hostWrite a bs t).dec = s.dec := rfl

@[simp] theorem State.hostWrite_clb (s : State) (a : Nat) (bs : Bytes) (t : Option Nat) : (s.hostWrite a bs t).clb = s.clb := rfl

@[simp] theorem State.hostWrite_cnv (s : State) (a : Nat) (bs : Bytes) (t : Option Nat) : (s.hostWrite a bs t).cnv = s.cnv := rfl

@[simp] theorem State.hostWrite_fus (s : State) (a : Nat) (bs : Bytes) (t : Option Nat) : (s.hostWrite a bs t).fus = s.fus := rfl

@[simp] theorem State.hostWrite_mze (s : State) (a : Nat) (bs : Bytes) (t : Option Nat) : (s.hostWrite a bs t).mze = s.mze := rfl

@[simp] theorem State.hostWrite_swc (s : State) (a : Nat) (bs : Bytes) (t : Option Nat) : (s.hostWrite a bs t).swc = s.swc := rfl

@[simp] theorem State.hostWrite_sch (s : State) (a : Nat) (bs : Bytes) (t : Option Nat) : (s.hostWrite a bs t).sch = s.sch := rfl

@[simp] theorem State.hostWrite_plk (s : State) (a : Nat) (bs : Bytes) (t : Option Nat) : (s.hostWrite a bs t).plk = s.plk := rfl

@[simp] theorem State.hostWrite_rgq (s : State) (a : Nat) (bs : Bytes) (t : Option Nat) : (s.hostWrite a bs t).rgq = s.rgq := rfl

@[simp] theorem State.hostWrite_enc (s : State) (a : Nat) (bs : Bytes) (t : Option Nat) : (s.hostWrite a bs t).enc = s.enc := rfl

@[simp] theorem State.hostWrite_esc (s : State) (a : Nat) (bs : Bytes) (t : Option Nat) : (s.hostWrite a bs t).esc = s.esc := rfl

@[simp] theorem State.hostWrite_rgl (s : State) (a : Nat) (bs : Bytes) (t : Option Nat) : (s.hostWrite a bs t).rgl = s.rgl := rfl

@[simp] theorem State.hostWrite_dma (s : State) (a : Nat) (bs : Bytes) (t : Option Nat) : (s.hostWrite a bs t).dma = s.dma := rfl

@[simp] theorem State.spaceWrite_variant (s : State) (d : Bool) (a : Nat) (bs : Bytes) (t : Option Nat) : (s.spaceWrite d a bs t).variant = s.variant := by
  unfold State.spaceWrite
  repeat' first | rfl | split | (simp; done) | dsimp only

@[simp] theorem State.spaceWrite_now (s : State) (d : Bool) (a : Nat) (bs : Bytes) (t : Option Nat) : (s.spaceWrite d a bs t).now = s.now := by
  unfold State.spaceWrite
  repeat' first | rfl | split | (simp; done) | dsimp only

@[simp] theorem State.spaceWrite_freeCtr (s : State) (d : Bool) (a : Nat) (bs : Bytes) (t : Option Nat) : (s.spaceWrite d a bs t).freeCtr = s.freeCtr := by
  unfold State.spaceWrite
  repeat' first | rfl | split | (simp; done) | dsimp only

@[simp] theorem State.spaceWrite_pending (s : State) (d : Bool) (a : Nat) (bs : Bytes) (t : Option Nat) : (s.spaceWrite d a bs t).pending = s.pending := by
  unfold State.spaceWrite
  repeat' first | rfl | split | (simp; done) | dsimp only

@[simp] theorem State.spaceWrite_regs (s : State) (d : Bool) (a : Nat) (bs : Bytes) (t : Option Nat) : (s.spaceWrite d a bs t).regs = s.regs := by
  unfold State.spaceWrite
  repeat' first | rfl | split | (simp; done) | dsimp only

@[simp] theorem State.spaceWrite_rng (s : State) (d : Bool) (a : Nat) (bs : Bytes) (t : Option Nat) : (s.spaceWrite d a bs t).rng = s.rng := by
  unfold State.spaceWrite
  repeat' first | rfl | split | (simp; done) | dsimp only

@[simp] theorem State.spaceWrite_int (s : State) (d : Bool) (a : Nat) (bs : Bytes) (t : Option Nat) : (s.spaceWrite d a bs t).int = s.int := by
  unfold State.spaceWrite
  repeat' first | rfl | split | (simp; done) | dsimp only

@[simp] theorem State.spaceWrite_flt (s : State) (d : Bool) (a : Nat) (bs : Bytes) (t : Option Nat) : (s.spaceWrite d a bs t).flt = s.flt := by
  unfold State.spaceWrite
  repeat' first | rfl | split | (simp; done) | dsimp only

@[simp] theorem State.spaceWrite_kst (s : State) (d : Bool) (a : Nat) (bs : Bytes) (t : Option Nat) : (s.spaceWrite d a bs t).kst = s.kst := by
  unfold State.spaceWrite
  repeat' first | rfl | split | (simp; done) | dsimp only

@[simp] theorem State.spaceWrite_pwr (s : State) (d : Bool) (a : Nat) (bs : Bytes) (t : Option Nat) : (s.spaceWrite d a bs t).pwr = s.pwr := by
  unfold State.spaceWrite
  repeat' first | rfl | split | (simp; done) | dsimp only

@[simp] theorem State.spaceWrite_dec (s : State) (d : Bool) (a : Nat) (bs : Bytes) (t : Option Nat) : (s.spaceWrite d a bs t).dec = s.dec := by
  unfold State.spaceWrite
  repeat' first | rfl | split | (simp; done) | dsimp only

@[simp] theorem State.spaceWrite_clb (s : State) (d : Bool) (a : Nat) (bs : Bytes) (t : Option Nat) : (s.spaceWrite d a bs t).clb = s.clb := by
  unfold State.spaceWrite
  repeat' first | rfl | split | (simp; done) | dsimp only

@[simp] theorem State.spaceWrite_cnv (s : State) (d : Bool) (a : Nat) (bs : Bytes) (t : Option Nat) : (s.spaceWrite d a bs t).cnv = s.cnv := by
  unfold State.spaceWrite
  repeat' first | rfl | split | (simp; done) | dsimp only

@[simp] theorem State.spaceWrite_fus (s : State) (d : Bool) (a : Nat) (bs : Bytes) (t : Option Nat) : (s.spaceWrite d a bs t).fus = s.fus := by
  unfold State.spaceWrite
  repeat' first | rfl | split | (simp; done) | dsimp only

@[simp] theorem State.spaceWrite_mze (s : State) (d : Bool) (a : Nat) (bs : Bytes) (t : Option Nat) : (s.spaceWrite d a bs t).mze = s.mze := by
  unfold State.spaceWrite
  repeat' first | rfl | split | (simp; done) | dsimp only

@[simp] theorem State.spaceWrite_swc (s : State) (d : Bool) (a : Nat) (bs : Bytes) (t : Option Nat) : (s.spaceWrite d a bs t).swc = s.swc := by
  unfold State.spaceWrite
  repeat' first | rfl | split | (simp; done) | dsimp only

@[simp] theorem State.spaceWrite_sch (s : State) (d : Bool) (a : Nat) (bs : Bytes) (t : Option Nat) : (s.spaceWrite d a bs t).sch = s.sch := by
  unfold State.spaceWrite
  repeat' first | rfl | split | (simp; done) | dsimp only

@[simp] theorem State.spaceWrite_plk (s : State) (d : Bool) (a : Nat) (bs : Bytes) (t : Option Nat) : (s.spaceWrite d a bs t).plk = s.plk := by
  unfold State.spaceWrite
  repeat' first | rfl | split | (simp; done) | dsimp only

@[simp] theorem State.spaceWrite_rgq (s : State) (d : Bool) (a : Nat) (bs : Bytes) (t : Option Nat) : (s.spaceWrite d a bs t).rgq = s.rgq := by
  unfold State.spaceWrite
  repeat' first | rfl | split | (simp; done) | dsimp only

@[simp] theorem State.spaceWrite_enc (s : State) (d : Bool) (a : Nat) (bs : Bytes) (t : Option Nat) : (s.spaceWrite d a bs t).enc = s.enc := by
  unfold State.spaceWrite
  repeat' first | rfl | split | (simp; done) | dsimp only

@[simp] theorem State.spaceWrite_esc (s : State) (d : Bool) (a : Nat) (bs : Bytes) (t : Option Nat) : (s.spaceWrite d a bs t).esc = s.esc := by
  unfold State.spaceWrite
  repeat' first | rfl | split | (simp; done) | dsimp only

@[simp] theorem State.spaceWrite_rgl (s : State) (d : Bool) (a : Nat) (bs : Bytes) (t : Option Nat) : (s.spaceWrite d a bs t).rgl = s.rgl := by
  unfold State.spaceWrite
  repeat' first | rfl | split | (simp; done) | dsimp only

@[simp] theorem State.spaceWrite_dma (s : State) (d : Bool) (a : Nat) (bs : Bytes) (t : Option Nat) : (s.spaceWrite d a bs t).dma = s.dma := by
  unfold State.spaceWrite
  repeat' first | rfl | split | (simp; done) | dsimp only

@[simp] theorem State.writeBack_variant (s : State) (l : Nat) (c : CacheLine) : (s.writeBack l c).variant = s.variant := by
  unfold State.writeBack
  repeat' first | rfl | split | (simp; done) | dsimp only

@[simp] theorem State.writeBack_now (s : State) (l : Nat) (c : CacheLine) : (s.writeBack l c).now = s.now := by
  unfold State.writeBack
  repeat' first | rfl | split | (simp; done) | dsimp only

@[simp] theorem State.writeBack_freeCtr (s : State) (l : Nat) (c : CacheLine) : (s.writeBack l c).freeCtr = s.freeCtr := by
  unfold State.writeBack
  repeat' first | rfl | split | (simp; done) | dsimp only

@[simp] theorem State.writeBack_pending (s : State) (l : Nat) (c : CacheLine) : (s.writeBack l c).pending = s.pending := by
  unfold State.writeBack
  repeat' first | rfl | split | (simp; done) | dsimp only

@[simp] theorem State.writeBack_regs (s : State) (l : Nat) (c : CacheLine) : (s.writeBack l c).regs = s.regs := by
  unfold State.writeBack
  repeat' first | rfl | split | (simp; done) | dsimp only

@[simp] theorem State.writeBack_rng (s : State) (l : Nat) (c : CacheLine) : (s.writeBack l c).rng = s.rng := by
  unfold State.writeBack
  repeat' first | rfl | split | (simp; done) | dsimp only

@[simp] theorem State.writeBack_pool (s : State) (l : Nat) (c : CacheLine) : (s.writeBack l c).pool = s.pool := by
  unfold State.writeBack
  repeat' first | rfl | split | (simp; done) | dsimp only

@[simp] theorem State.writeBack_int (s : State) (l : Nat) (c : CacheLine) : (s.writeBack l c).int = s.int := by
  unfold State.writeBack
  repeat' first | rfl | split | (simp; done) | dsimp only

@[simp] theorem State.writeBack_flt (s : State) (l : Nat) (c : CacheLine) : (s.writeBack l c).flt = s.flt := by
  unfold State.writeBack
  repeat' first | rfl | split | (simp; done) | dsimp only

@[simp] theorem State.writeBack_mem (s : State) (l : Nat) (c : CacheLine) : (s.writeBack l c).mem = s.mem := by
  unfold State.writeBack
  repeat' first | rfl | split | (simp; done) | dsimp only

@[simp] theorem State.writeBack_kst (s : State) (l : Nat) (c : CacheLine) : (s.writeBack l c).kst = s.kst := by
  unfold State.writeBack
  repeat' first | rfl | split | (simp; done) | dsimp only

@[simp] theorem State.writeBack_pwr (s : State) (l : Nat) (c : CacheLine) : (s.writeBack l c).pwr = s.pwr := by
  unfold State.writeBack
  repeat' first | rfl | split | (simp; done) | dsimp only

@[simp] theorem State.writeBack_dec (s : State) (l : Nat) (c : CacheLine) : (s.writeBack l c).dec = s.dec := by
  unfold State.writeBack
  repeat' first | rfl | split | (simp; done) | dsimp only

@[simp] theorem State.writeBack_clb (s : State) (l : Nat) (c : CacheLine) : (s.writeBack l c).clb = s.clb := by
  unfold State.writeBack
  repeat' first | rfl | split | (simp; done) | dsimp only

@[simp] theorem State.writeBack_cnv (s : State) (l : Nat) (c : CacheLine) : (s.writeBack l c).cnv = s.cnv := by
  unfold State.writeBack
  repeat' first | rfl | split | (simp; done) | dsimp only

@[simp] theorem State.writeBack_fus (s : State) (l : Nat) (c : CacheLine) : (s.writeBack l c).fus = s.fus := by
  unfold State.writeBack
  repeat' first | rfl | split | (simp; done) | dsimp only

@[simp] theorem State.writeBack_mze (s : State) (l : Nat) (c : CacheLine) : (s.writeBack l c).mze = s.mze := by
  unfold State.writeBack
  repeat' first | rfl | split | (simp; done) | dsimp only

@[simp] theorem State.writeBack_swc (s : State) (l : Nat) (c : CacheLine) : (s.writeBack l c).swc = s.swc := by
  unfold State.writeBack
  repeat' first | rfl | split | (simp; done) | dsimp only

@[simp] theorem State.writeBack_sch (s : State) (l : Nat) (c : CacheLine) : (s.writeBack l c).sch = s.sch := by
  unfold State.writeBack
  repeat' first | rfl | split | (simp; done) | dsimp only

@[simp] theorem State.writeBack_plk (s : State) (l : Nat) (c : CacheLine) : (s.writeBack l c).plk = s.plk := by
  unfold State.writeBack
  repeat' first | rfl | split | (simp; done) | dsimp only

@[simp] theorem State.writeBack_rgq (s : State) (l : Nat) (c : CacheLine) : (s.writeBack l c).rgq = s.rgq := by
  unfold State.writeBack
  repeat' first | rfl | split | (simp; done) | dsimp only

@[simp] theorem State.writeBack_enc (s : State) (l : Nat) (c : CacheLine) : (s.writeBack l c).enc = s.enc := by
  unfold State.writeBack
  repeat' first | rfl | split | (simp; done) | dsimp only

@[simp] theorem State.writeBack_esc (s : State) (l : Nat) (c : CacheLine) : (s.writeBack l c).esc = s.esc := by
  unfold State.writeBack
  repeat' first | rfl | split | (simp; done) | dsimp only

@[simp] theorem State.writeBack_rgl (s : State) (l : Nat) (c : CacheLine) : (s.writeBack l c).rgl = s.rgl := by
  unfold State.writeBack
  repeat' first | rfl | split | (simp; done) | dsimp only

@[simp] theorem State.writeBack_dma (s : State) (l : Nat) (c : CacheLine) : (s.writeBack l c).dma = s.dma := by
  unfold State.writeBack
  repeat' first | rfl | split | (simp; done) | dsimp only

@[simp] theorem State.dropLine_variant (s : State) (l : Nat) : (s.dropLine l).variant = s.variant := by
  unfold State.dropLine
  split
  · exact State.writeBack_variant ..
  · rfl

@[simp] theorem State.dropLine_now (s : State) (l : Nat) : (s.dropLine l).now = s.now := by
  unfold State.dropLine
  split
  · exact State.writeBack_now ..
  · rfl

@[simp] theorem State.dropLine_freeCtr (s : State) (l : Nat) : (s.dropLine l).freeCtr = s.freeCtr := by
  unfold State.dropLine
  split
  · exact State.writeBack_freeCtr ..
  · rfl

@[simp] theorem State.dropLine_pending (s : State) (l : Nat) : (s.dropLine l).pending = s.pending := by
  unfold State.dropLine
  split
  · exact State.writeBack_pending ..
  · rfl

@[simp] theorem State.dropLine_regs (s : State) (l : Nat) : (s.dropLine l).regs = s.regs := by
  unfold State.dropLine
  split
  · exact State.writeBack_regs ..
  · rfl

@[simp] theorem State.dropLine_rng (s : State) (l : Nat) : (s.dropLine l).rng = s.rng := by
  unfold State.dropLine
  split
  · exact State.writeBack_rng ..
  · rfl

@[simp] theorem State.dropLine_pool (s : State) (l : Nat) : (s.dropLine l).pool = s.pool := by
  unfold State.dropLine
  split
  · exact State.writeBack_pool ..
  · rfl

@[simp] theorem State.dropLine_int (s : State) (l : Nat) : (s.dropLine l).int = s.int := by
  unfold State.dropLine
  split
  · exact State.writeBack_int ..
  · rfl

@[simp] theorem State.dropLine_flt (s : State) (l : Nat) : (s.dropLine l).flt = s.flt := by
  unfold State.dropLine
  split
  · exact State.writeBack_flt ..
  · rfl

@[simp] theorem State.dropLine_mem (s : State) (l : Nat) : (s.dropLine l).mem = s.mem := by
  unfold State.dropLine
  split
  · exact State.writeBack_mem ..
  · rfl

@[simp] theorem State.dropLine_kst (s : State) (l : Nat) : (s.dropLine l).kst = s.kst := by
  unfold State.dropLine
  split
  · exact State.writeBack_kst ..
  · rfl

@[simp] theorem State.dropLine_pwr (s : State) (l : Nat) : (s.dropLine l).pwr = s.pwr := by
  unfold State.dropLine
  split
  · exact State.writeBack_pwr ..
  · rfl

@[simp] theorem State.dropLine_dec (s : State) (l : Nat) : (s.dropLine l).dec = s.dec := by
  unfold State.dropLine
  split
  · exact State.writeBack_dec ..
  · rfl

@[simp] theorem State.dropLine_clb (s : State) (l : Nat) : (s.dropLine l).clb = s.clb := by
  unfold State.dropLine
  split
  · exact State.writeBack_clb ..
  · rfl

@[simp] theorem State.dropLine_cnv (s : State) (l : Nat) : (s.dropLine l).cnv = s.cnv := by
  unfold State.dropLine
  split
  · exact State.writeBack_cnv ..
  · rfl

@[simp] theorem State.dropLine_fus (s : State) (l : Nat) : (s.dropLine l).fus = s.fus := by
  unfold State.dropLine
  split
  · exact State.writeBack_fus ..
  · rfl

@[simp] theorem State.dropLine_mze (s : State) (l : Nat) : (s.dropLine l).mze = s.mze := by
  unfold State.dropLine
  split
  · exact State.writeBack_mze ..
  · rfl

@[simp] theorem State.dropLine_swc (s : State) (l : Nat) : (s.dropLine l).swc = s.swc := by
  unfold State.dropLine
  split
  · exact State.writeBack_swc ..
  · rfl

@[simp] theorem State.dropLine_sch (s : State) (l : Nat) : (s.dropLine l).sch = s.sch := by
  unfold State.dropLine
  split
  · exact State.writeBack_sch ..
  · rfl

@[simp] theorem State.dropLine_plk (s : State) (l : Nat) : (s.dropLine l).plk = s.plk := by
  unfold State.dropLine
  split
  · exact State.writeBack_plk ..
  · rfl

@[simp] theorem State.dropLine_rgq (s : State) (l : Nat) : (s.dropLine l).rgq = s.rgq := by
  unfold State.dropLine
  split
  · exact State.writeBack_rgq ..
  · rfl

@[simp] theorem State.dropLine_enc (s : State) (l : Nat) : (s.dropLine l).enc = s.enc := by
  unfold State.dropLine
  split
  · exact State.writeBack_enc ..
  · rfl

@[simp] theorem State.dropLine_esc (s : State) (l : Nat) : (s.dropLine l).esc = s.esc := by
  unfold State.dropLine
  split
  · exact State.writeBack_esc ..
  · rfl

@[simp] theorem State.dropLine_rgl (s : State) (l : Nat) : (s.dropLine l).rgl = s.rgl := by
  unfold State.dropLine
  split
  · exact State.writeBack_rgl ..
  · rfl

@[simp] theorem State.dropLine_dma (s : State) (l : Nat) : (s.dropLine l).dma = s.dma := by
  unfold State.dropLine
  split
  · exact State.writeBack_dma ..
  · rfl

@[simp] theorem State.cacheRoom_variant (s : State)  : (s.cacheRoom ).variant = s.variant := by
  unfold State.cacheRoom
  repeat' first | rfl | split | (simp; done) | dsimp only

@[simp] theorem State.cacheRoom_now (s : State)  : (s.cacheRoom ).now = s.now := by
  unfold State.cacheRoom
  repeat' first | rfl | split | (simp; done) | dsimp only

@[simp] theorem State.cacheRoom_pending (s : State)  : (s.cacheRoom ).pending = s.pending := by
  unfold State.cacheRoom
  repeat' first | rfl | split | (simp; done) | dsimp only

@[simp] theorem State.cacheRoom_regs (s : State)  : (s.cacheRoom ).regs = s.regs := by
  unfold State.cacheRoom
  repeat' first | rfl | split | (simp; done) | dsimp only

@[simp] theorem State.cacheRoom_rng (s : State)  : (s.cacheRoom ).rng = s.rng := by
  unfold State.cacheRoom
  repeat' first | rfl | split | (simp; done) | dsimp only

@[simp] theorem State.cacheRoom_pool (s : State)  : (s.cacheRoom ).pool = s.pool := by
  unfold State.cacheRoom
  repeat' first | rfl | split | (simp; done) | dsimp only

@[simp] theorem State.cacheRoom_int (s : State)  : (s.cacheRoom ).int = s.int := by
  unfold State.cacheRoom
  repeat' first | rfl | split | (simp; done) | dsimp only

@[simp] theorem State.cacheRoom_flt (s : State)  : (s.cacheRoom ).flt = s.flt := by
  unfold State.cacheRoom
  repeat' first | rfl | split | (simp; done) | dsimp only

@[simp] theorem State.cacheRoom_mem (s : State)  : (s.cacheRoom ).mem = s.mem := by
  unfold State.cacheRoom
  repeat' first | rfl | split | (simp; done) | dsimp only

@[simp] theorem State.cacheRoom_kst (s : State)  : (s.cacheRoom ).kst = s.kst := by
  unfold State.cacheRoom
  repeat' first | rfl | split | (simp; done) | dsimp only

@[simp] theorem State.cacheRoom_pwr (s : State)  : (s.cacheRoom ).pwr = s.pwr := by
  unfold State.cacheRoom
  repeat' first | rfl | split | (simp; done) | dsimp only

@[simp] theorem State.cacheRoom_dec (s : State)  : (s.cacheRoom ).dec = s.dec := by
  unfold State.cacheRoom
  repeat' first | rfl | split | (simp; done) | dsimp only

@[simp] theorem State.cacheRoom_clb (s : State)  : (s.cacheRoom ).clb = s.clb := by
  unfold State.cacheRoom
  repeat' first | rfl | split | (simp; done) | dsimp only

@[simp] theorem State.cacheRoom_cnv (s : State)  : (s.cacheRoom ).cnv = s.cnv := by
  unfold State.cacheRoom
  repeat' first | rfl | split | (simp; done) | dsimp only

@[simp] theorem State.cacheRoom_fus (s : State)  : (s.cacheRoom ).fus = s.fus := by
  unfold State.cacheRoom
  repeat' first | rfl | split | (simp; done) | dsimp only

@[simp] theorem State.cacheRoom_mze (s : State)  : (s.cacheRoom ).mze = s.mze := by
  unfold State.cacheRoom
  repeat' first | rfl | split | (simp; done) | dsimp only

@[simp] theorem State.cacheRoom_swc (s : State)  : (s.cacheRoom ).swc = s.swc := by
  unfold State.cacheRoom
  repeat' first | rfl | split | (simp; done) | dsimp only

@[simp] theorem State.cacheRoom_sch (s : State)  : (s.cacheRoom ).sch = s.sch := by
  unfold State.cacheRoom
  repeat' first | rfl | split | (simp; done) | dsimp only

@[simp] theorem State.cacheRoom_plk (s : State)  : (s.cacheRoom ).plk = s.plk := by
  unfold State.cacheRoom
  repeat' first | rfl | split | (simp; done) | dsimp only

@[simp] theorem State.cacheRoom_rgq (s : State)  : (s.cacheRoom ).rgq = s.rgq := by
  unfold State.cacheRoom
  repeat' first | rfl | split | (simp; done) | dsimp only

@[simp] theorem State.cacheRoom_enc (s : State)  : (s.cacheRoom ).enc = s.enc := by
  unfold State.cacheRoom
  repeat' first | rfl | split | (simp; done) | dsimp only

@[simp] theorem State.cacheRoom_esc (s : State)  : (s.cacheRoom ).esc = s.esc := by
  unfold State.cacheRoom
  repeat' first | rfl | split | (simp; done) | dsimp only

@[simp] theorem State.cacheRoom_rgl (s : State)  : (s.cacheRoom ).rgl = s.rgl := by
  unfold State.cacheRoom
  repeat' first | rfl | split | (simp; done) | dsimp only

@[simp] theorem State.cacheRoom_dma (s : State)  : (s.cacheRoom ).dma = s.dma := by
  unfold State.cacheRoom
  repeat' first | rfl | split | (simp; done) | dsimp only

@[simp] theorem State.cachePut_variant (s : State) (k : ReqKind) (a : Nat) (bs : Bytes) (d : Bool) (t : Option Nat) : (s.cachePut k a bs d t).variant = s.variant := by
  unfold State.cachePut
  dsimp only
  split <;> split <;> simp

@[simp] theorem State.cachePut_now (s : State) (k : ReqKind) (a : Nat) (bs : Bytes) (d : Bool) (t : Option Nat) : (s.cachePut k a bs d t).now = s.now := by
  unfold State.cachePut
  dsimp only
  split <;> split <;> simp

@[simp] theorem State.cachePut_pending (s : State) (k : ReqKind) (a : Nat) (bs : Bytes) (d : Bool) (t : Option Nat) : (s.cachePut k a bs d t).pending = s.pending := by
  unfold State.cachePut
  dsimp only
  split <;> split <;> simp

@[simp] theorem State.cachePut_regs (s : State) (k : ReqKind) (a : Nat) (bs : Bytes) (d : Bool) (t : Option Nat) : (s.cachePut k a bs d t).regs = s.regs := by
  unfold State.cachePut
  dsimp only
  split <;> split <;> simp

@[simp] theorem State.cachePut_rng (s : State) (k : ReqKind) (a : Nat) (bs : Bytes) (d : Bool) (t : Option Nat) : (s.cachePut k a bs d t).rng = s.rng := by
  unfold State.cachePut
  dsimp only
  split <;> split <;> simp

@[simp] theorem State.cachePut_pool (s : State) (k : ReqKind) (a : Nat) (bs : Bytes) (d : Bool) (t : Option Nat) : (s.cachePut k a bs d t).pool = s.pool := by
  unfold State.cachePut
  dsimp only
  split <;> split <;> simp

@[simp] theorem State.cachePut_int (s : State) (k : ReqKind) (a : Nat) (bs : Bytes) (d : Bool) (t : Option Nat) : (s.cachePut k a bs d t).int = s.int := by
  unfold State.cachePut
  dsimp only
  split <;> split <;> simp

@[simp] theorem State.cachePut_flt (s : State) (k : ReqKind) (a : Nat) (bs : Bytes) (d : Bool) (t : Option Nat) : (s.cachePut k a bs d t).flt = s.flt := by
  unfold State.cachePut
  dsimp only
  split <;> split <;> simp

@[simp] theorem State.cachePut_mem (s : State) (k : ReqKind) (a : Nat) (bs : Bytes) (d : Bool) (t : Option Nat) : (s.cachePut k a bs d t).mem = s.mem := by
  unfold State.cachePut
  dsimp only
  split <;> split <;> simp

@[simp] theorem State.cachePut_kst (s : State) (k : ReqKind) (a : Nat) (bs : Bytes) (d : Bool) (t : Option Nat) : (s.cachePut k a bs d t).kst = s.kst := by
  unfold State.cachePut
  dsimp only
  split <;> split <;> simp

@[simp] theorem State.cachePut_pwr (s : State) (k : ReqKind) (a : Nat) (bs : Bytes) (d : Bool) (t : Option Nat) : (s.cachePut k a bs d t).pwr = s.pwr := by
  unfold State.cachePut
  dsimp only
  split <;> split <;> simp

@[simp] theorem State.cachePut_dec (s : State) (k : ReqKind) (a : Nat) (bs : Bytes) (d : Bool) (t : Option Nat) : (s.cachePut k a bs d t).dec = s.dec := by
  unfold State.cachePut
  dsimp only
  split <;> split <;> simp

@[simp] theorem State.cachePut_clb (s : State) (k : ReqKind) (a : Nat) (bs : Bytes) (d : Bool) (t : Option Nat) : (s.cachePut k a bs d t).clb = s.clb := by
  unfold State.cachePut
  dsimp only
  split <;> split <;> simp

@[simp] theorem State.cachePut_cnv (s : State) (k : ReqKind) (a : Nat) (bs : Bytes) (d : Bool) (t : Option Nat) : (s.cachePut k a bs d t).cnv = s.cnv := by
  unfold State.cachePut
  dsimp only
  split <;> split <;> simp

@[simp] theorem State.cachePut_fus (s : State) (k : ReqKind) (a : Nat) (bs : Bytes) (d : Bool) (t : Option Nat) : (s.cachePut k a bs d t).fus = s.fus := by
  unfold State.cachePut
  dsimp only
  split <;> split <;> simp

@[simp] theorem State.cachePut_mze (s : State) (k : ReqKind) (a : Nat) (bs : Bytes) (d : Bool) (t : Option Nat) : (s.cachePut k a bs d t).mze = s.mze := by
  unfold State.cachePut
  dsimp only
  split <;> split <;> simp

@[simp] theorem State.cachePut_swc (s : State) (k : ReqKind) (a : Nat) (bs : Bytes) (d : Bool) (t : Option Nat) : (s.cachePut k a bs d t).swc = s.swc := by
  unfold State.cachePut
  dsimp only
  split <;> split <;> simp

@[simp] theorem State.cachePut_sch (s : State) (k : ReqKind) (a : Nat) (bs : Bytes) (d : Bool) (t : Option Nat) : (s.cachePut k a bs d t).sch = s.sch := by
  unfold State.cachePut
  dsimp only
  split <;> split <;> simp

@[simp] theorem State.cachePut_plk (s : State) (k : ReqKind) (a : Nat) (bs : Bytes) (d : Bool) (t : Option Nat) : (s.cachePut k a bs d t).plk = s.plk := by
  unfold State.cachePut
  dsimp only
  split <;> split <;> simp

@[simp] theorem State.cachePut_rgq (s : State) (k : ReqKind) (a : Nat) (bs : Bytes) (d : Bool) (t : Option Nat) : (s.cachePut k a bs d t).rgq = s.rgq := by
  unfold State.cachePut
  dsimp only
  split <;> split <;> simp

@[simp] theorem State.cachePut_enc (s : State) (k : ReqKind) (a : Nat) (bs : Bytes) (d : Bool) (t : Option Nat) : (s.cachePut k a bs d t).enc = s.enc := by
  unfold State.cachePut
  dsimp only
  split <;> split <;> simp

@[simp] theorem State.cachePut_esc (s : State) (k : ReqKind) (a : Nat) (bs : Bytes) (d : Bool) (t : Option Nat) : (s.cachePut k a bs d t).esc = s.esc := by
  unfold State.cachePut
  dsimp only
  split <;> split <;> simp

@[simp] theorem State.cachePut_rgl (s : State) (k : ReqKind) (a : Nat) (bs : Bytes) (d : Bool) (t : Option Nat) : (s.cachePut k a bs d t).rgl = s.rgl := by
  unfold State.cachePut
  dsimp only
  split <;> split <;> simp

@[simp] theorem State.cachePut_dma (s : State) (k : ReqKind) (a : Nat) (bs : Bytes) (d : Bool) (t : Option Nat) : (s.cachePut k a bs d t).dma = s.dma := by
  unfold State.cachePut
  dsimp only
  split <;> split <;> simp

@[simp] theorem State.mergeItem_variant (s : State) (a : Nat) (bs : Bytes) (t : Option Nat) : (s.mergeItem a bs t).variant = s.variant := by
  unfold State.mergeItem
  repeat' first | rfl | split | (simp; done) | dsimp only

@[simp] theorem State.mergeItem_now (s : State) (a : Nat) (bs : Bytes) (t : Option Nat) : (s.mergeItem a bs t).now = s.now := by
  unfold State.mergeItem
  repeat' first | rfl | split | (simp; done) | dsimp only

@[simp] theorem State.mergeItem_pending (s : State) (a : Nat) (bs : Bytes) (t : Option Nat) : (s.mergeItem a bs t).pending = s.pending := by
  unfold State.mergeItem
  repeat' first | rfl | split | (simp; done) | dsimp only

@[simp] theorem State.mergeItem_regs (s : State) (a : Nat) (bs : Bytes) (t : Option Nat) : (s.mergeItem a bs t).regs = s.regs := by
  unfold State.mergeItem
  repeat' first | rfl | split | (simp; done) | dsimp only

@[simp] theorem State.mergeItem_rng (s : State) (a : Nat) (bs : Bytes) (t : Option Nat) : (s.mergeItem a bs t).rng = s.rng := by
  unfold State.mergeItem
  repeat' first | rfl | split | (simp; done) | dsimp only

@[simp] theorem State.mergeItem_pool (s : State) (a : Nat) (bs : Bytes) (t : Option Nat) : (s.mergeItem a bs t).pool = s.pool := by
  unfold State.mergeItem
  repeat' first | rfl | split | (simp; done) | dsimp only

@[simp] theorem State.mergeItem_int (s : State) (a : Nat) (bs : Bytes) (t : Option Nat) : (s.mergeItem a bs t).int = s.int := by
  unfold State.mergeItem
  repeat' first | rfl | split | (simp; done) | dsimp only

@[simp] theorem State.mergeItem_flt (s : State) (a : Nat) (bs : Bytes) (t : Option Nat) : (s.mergeItem a bs t).flt = s.flt := by
  unfold State.mergeItem
  repeat' first | rfl | split | (simp; done) | dsimp only

@[simp] theorem State.mergeItem_mem (s : State) (a : Nat) (bs : Bytes) (t : Option Nat) : (s.mergeItem a bs t).mem = s.mem := by
  unfold State.mergeItem
  repeat' first | rfl | split | (simp; done) | dsimp only

@[simp] theorem State.mergeItem_kst (s : State) (a : Nat) (bs : Bytes) (t : Option Nat) : (s.mergeItem a bs t).kst = s.kst := by
  unfold State.mergeItem
  repeat' first | rfl | split | (simp; done) | dsimp only

@[simp] theorem State.mergeItem_pwr (s : State) (a : Nat) (bs : Bytes) (t : Option Nat) : (s.mergeItem a bs t).pwr = s.pwr := by
  unfold State.mergeItem
  repeat' first | rfl | split | (simp; done) | dsimp only

@[simp] theorem State.mergeItem_dec (s : State) (a : Nat) (bs : Bytes) (t : Option Nat) : (s.mergeItem a bs t).dec = s.dec := by
  unfold State.mergeItem
  repeat' first | rfl | split | (simp; done) | dsimp only

@[simp] theorem State.mergeItem_clb (s : State) (a : Nat) (bs : Bytes) (t : Option Nat) : (s.mergeItem a bs t).clb = s.clb := by
  unfold State.mergeItem
  repeat' first | rfl | split | (simp; done) | dsimp only

@[simp] theorem State.mergeItem_cnv (s : State) (a : Nat) (bs : Bytes) (t : Option Nat) : (s.mergeItem a bs t).cnv = s.cnv := by
  unfold State.mergeItem
  repeat' first | rfl | split | (simp; done) | dsimp only

@[simp] theorem State.mergeItem_fus (s : State) (a : Nat) (bs : Bytes) (t : Option Nat) : (s.mergeItem a bs t).fus = s.fus := by
  unfold State.mergeItem
  repeat' first | rfl | split | (simp; done) | dsimp only

@[simp] theorem State.mergeItem_mze (s : State) (a : Nat) (bs : Bytes) (t : Option Nat) : (s.mergeItem a bs t).mze = s.mze := by
  unfold State.mergeItem
  repeat' first | rfl | split | (simp; done) | dsimp only

@[simp] theorem State.mergeItem_swc (s : State) (a : Nat) (bs : Bytes) (t : Option Nat) : (s.mergeItem a bs t).swc = s.swc := by
  unfold State.mergeItem
  repeat' first | rfl | split | (simp; done) | dsimp only

@[simp] theorem State.mergeItem_sch (s : State) (a : Nat) (bs : Bytes) (t : Option Nat) : (s.mergeItem a bs t).sch = s.sch := by
  unfold State.mergeItem
  repeat' first | rfl | split | (simp; done) | dsimp only

@[simp] theorem State.mergeItem_plk (s : State) (a : Nat) (bs : Bytes) (t : Option Nat) : (s.mergeItem a bs t).plk = s.plk := by
  unfold State.mergeItem
  repeat' first | rfl | split | (simp; done) | dsimp only

@[simp] theorem State.mergeItem_rgq (s : State) (a : Nat) (bs : Bytes) (t : Option Nat) : (s.mergeItem a bs t).rgq = s.rgq := by
  unfold State.mergeItem
  repeat' first | rfl | split | (simp; done) | dsimp only

@[simp] theorem State.mergeItem_enc (s : State) (a : Nat) (bs : Bytes) (t : Option Nat) : (s.mergeItem a bs t).enc = s.enc := by
  unfold State.mergeItem
  repeat' first | rfl | split | (simp; done) | dsimp only

@[simp] theorem State.mergeItem_esc (s : State) (a : Nat) (bs : Bytes) (t : Option Nat) : (s.mergeItem a bs t).esc = s.esc := by
  unfold State.mergeItem
  repeat' first | rfl | split | (simp; done) | dsimp only

@[simp] theorem State.mergeItem_rgl (s : State) (a : Nat) (bs : Bytes) (t : Option Nat) : (s.mergeItem a bs t).rgl = s.rgl := by
  unfold State.mergeItem
  repeat' first | rfl | split | (simp; done) | dsimp only

@[simp] theorem State.mergeItem_dma (s : State) (a : Nat) (bs : Bytes) (t : Option Nat) : (s.mergeItem a bs t).dma = s.dma := by
  unfold State.mergeItem
  repeat' first | rfl | split | (simp; done) | dsimp only

@[simp] theorem State.wholeLine_variant (s : State) (a : Nat) (bs : Bytes) (t : Option Nat) : (s.wholeLine a bs t).variant = s.variant := rfl

@[simp] theorem State.wholeLine_now (s : State) (a : Nat) (bs : Bytes) (t : Option Nat) : (s.wholeLine a bs t).now = s.now := rfl

@[simp] theorem State.wholeLine_freeCtr (s : State) (a : Nat) (bs : Bytes) (t : Option Nat) : (s.wholeLine a bs t).freeCtr = s.freeCtr := rfl

@[simp] theorem State.wholeLine_pending (s : State) (a : Nat) (bs : Bytes) (t : Option Nat) : (s.wholeLine a bs t).pending = s.pending := rfl

@[simp] theorem State.wholeLine_regs (s : State) (a : Nat) (bs : Bytes) (t : Option Nat) : (s.wholeLine a bs t).regs = s.regs := rfl

@[simp] theorem State.wholeLine_rng (s : State) (a : Nat) (bs : Bytes) (t : Option Nat) : (s.wholeLine a bs t).rng = s.rng := rfl

@[simp] theorem State.wholeLine_pool (s : State) (a : Nat) (bs : Bytes) (t : Option Nat) : (s.wholeLine a bs t).pool = s.pool := rfl

@[simp] theorem State.wholeLine_int (s : State) (a : Nat) (bs : Bytes) (t : Option Nat) : (s.wholeLine a bs t).int = s.int := rfl

@[simp] theorem State.wholeLine_flt (s : State) (a : Nat) (bs : Bytes) (t : Option Nat) : (s.wholeLine a bs t).flt = s.flt := rfl

@[simp] theorem State.wholeLine_mem (s : State) (a : Nat) (bs : Bytes) (t : Option Nat) : (s.wholeLine a bs t).mem = s.mem := rfl

@[simp] theorem State.wholeLine_kst (s : State) (a : Nat) (bs : Bytes) (t : Option Nat) : (s.wholeLine a bs t).kst = s.kst := rfl

@[simp] theorem State.wholeLine_pwr (s : State) (a : Nat) (bs : Bytes) (t : Option Nat) : (s.wholeLine a bs t).pwr = s.pwr := rfl

@[simp] theorem State.wholeLine_dec (s : State) (a : Nat) (bs : Bytes) (t : Option Nat) : (s.wholeLine a bs t).dec = s.dec := rfl

@[simp] theorem State.wholeLine_clb (s : State) (a : Nat) (bs : Bytes) (t : Option Nat) : (s.wholeLine a bs t).clb = s.clb := rfl

@[simp] theorem State.wholeLine_cnv (s : State) (a : Nat) (bs : Bytes) (t : Option Nat) : (s.wholeLine a bs t).cnv = s.cnv := rfl

@[simp] theorem State.wholeLine_fus (s : State) (a : Nat) (bs : Bytes) (t : Option Nat) : (s.wholeLine a bs t).fus = s.fus := rfl

@[simp] theorem State.wholeLine_mze (s : State) (a : Nat) (bs : Bytes) (t : Option Nat) : (s.wholeLine a bs t).mze = s.mze := rfl

@[simp] theorem State.wholeLine_swc (s : State) (a : Nat) (bs : Bytes) (t : Option Nat) : (s.wholeLine a bs t).swc = s.swc := rfl

@[simp] theorem State.wholeLine_sch (s : State) (a : Nat) (bs : Bytes) (t : Option Nat) : (s.wholeLine a bs t).sch = s.sch := rfl

@[simp] theorem State.wholeLine_plk (s : State) (a : Nat) (bs : Bytes) (t : Option Nat) : (s.wholeLine a bs t).plk = s.plk := rfl

@[simp] theorem State.wholeLine_rgq (s : State) (a : Nat) (bs : Bytes) (t : Option Nat) : (s.wholeLine a bs t).rgq = s.rgq := rfl

@[simp] theorem State.wholeLine_enc (s : State) (a : Nat) (bs : Bytes) (t : Option Nat) : (s.wholeLine a bs t).enc = s.enc := rfl

@[simp] theorem State.wholeLine_esc (s : State) (a : Nat) (bs : Bytes) (t : Option Nat) : (s.wholeLine a bs t).esc = s.esc := rfl

@[simp] theorem State.wholeLine_rgl (s : State) (a : Nat) (bs : Bytes) (t : Option Nat) : (s.wholeLine a bs t).rgl = s.rgl := rfl

@[simp] theorem State.wholeLine_dma (s : State) (a : Nat) (bs : Bytes) (t : Option Nat) : (s.wholeLine a bs t).dma = s.dma := rfl

@[simp] theorem State.putCoherent_variant (s : State) (r : Nat) (x : Ring) (i : Nat) (l : List (Nat → Bytes)) : (s.putCoherent r x i l).variant = s.variant := by
  fun_induction State.putCoherent s r x i l <;> simp_all

@[simp] theorem State.putCoherent_now (s : State) (r : Nat) (x : Ring) (i : Nat) (l : List (Nat → Bytes)) : (s.putCoherent r x i l).now = s.now := by
  fun_induction State.putCoherent s r x i l <;> simp_all

@[simp] theorem State.putCoherent_pending (s : State) (r : Nat) (x : Ring) (i : Nat) (l : List (Nat → Bytes)) : (s.putCoherent r x i l).pending = s.pending := by
  fun_induction State.putCoherent s r x i l <;> simp_all

@[simp] theorem State.putCoherent_regs (s : State) (r : Nat) (x : Ring) (i : Nat) (l : List (Nat → Bytes)) : (s.putCoherent r x i l).regs = s.regs := by
  fun_induction State.putCoherent s r x i l <;> simp_all

@[simp] theorem State.putCoherent_rng (s : State) (r : Nat) (x : Ring) (i : Nat) (l : List (Nat → Bytes)) : (s.putCoherent r x i l).rng = s.rng := by
  fun_induction State.putCoherent s r x i l <;> simp_all

@[simp] theorem State.putCoherent_pool (s : State) (r : Nat) (x : Ring) (i : Nat) (l : List (Nat → Bytes)) : (s.putCoherent r x i l).pool = s.pool := by
  fun_induction State.putCoherent s r x i l <;> simp_all

@[simp] theorem State.putCoherent_int (s : State) (r : Nat) (x : Ring) (i : Nat) (l : List (Nat → Bytes)) : (s.putCoherent r x i l).int = s.int := by
  fun_induction State.putCoherent s r x i l <;> simp_all

@[simp] theorem State.putCoherent_flt (s : State) (r : Nat) (x : Ring) (i : Nat) (l : List (Nat → Bytes)) : (s.putCoherent r x i l).flt = s.flt := by
  fun_induction State.putCoherent s r x i l <;> simp_all

@[simp] theorem State.putCoherent_mem (s : State) (r : Nat) (x : Ring) (i : Nat) (l : List (Nat → Bytes)) : (s.putCoherent r x i l).mem = s.mem := by
  fun_induction State.putCoherent s r x i l <;> simp_all

@[simp] theorem State.putCoherent_kst (s : State) (r : Nat) (x : Ring) (i : Nat) (l : List (Nat → Bytes)) : (s.putCoherent r x i l).kst = s.kst := by
  fun_induction State.putCoherent s r x i l <;> simp_all

@[simp] theorem State.putCoherent_pwr (s : State) (r : Nat) (x : Ring) (i : Nat) (l : List (Nat → Bytes)) : (s.putCoherent r x i l).pwr = s.pwr := by
  fun_induction State.putCoherent s r x i l <;> simp_all

@[simp] theorem State.putCoherent_dec (s : State) (r : Nat) (x : Ring) (i : Nat) (l : List (Nat → Bytes)) : (s.putCoherent r x i l).dec = s.dec := by
  fun_induction State.putCoherent s r x i l <;> simp_all

@[simp] theorem State.putCoherent_clb (s : State) (r : Nat) (x : Ring) (i : Nat) (l : List (Nat → Bytes)) : (s.putCoherent r x i l).clb = s.clb := by
  fun_induction State.putCoherent s r x i l <;> simp_all

@[simp] theorem State.putCoherent_cnv (s : State) (r : Nat) (x : Ring) (i : Nat) (l : List (Nat → Bytes)) : (s.putCoherent r x i l).cnv = s.cnv := by
  fun_induction State.putCoherent s r x i l <;> simp_all

@[simp] theorem State.putCoherent_fus (s : State) (r : Nat) (x : Ring) (i : Nat) (l : List (Nat → Bytes)) : (s.putCoherent r x i l).fus = s.fus := by
  fun_induction State.putCoherent s r x i l <;> simp_all

@[simp] theorem State.putCoherent_mze (s : State) (r : Nat) (x : Ring) (i : Nat) (l : List (Nat → Bytes)) : (s.putCoherent r x i l).mze = s.mze := by
  fun_induction State.putCoherent s r x i l <;> simp_all

@[simp] theorem State.putCoherent_swc (s : State) (r : Nat) (x : Ring) (i : Nat) (l : List (Nat → Bytes)) : (s.putCoherent r x i l).swc = s.swc := by
  fun_induction State.putCoherent s r x i l <;> simp_all

@[simp] theorem State.putCoherent_sch (s : State) (r : Nat) (x : Ring) (i : Nat) (l : List (Nat → Bytes)) : (s.putCoherent r x i l).sch = s.sch := by
  fun_induction State.putCoherent s r x i l <;> simp_all

@[simp] theorem State.putCoherent_plk (s : State) (r : Nat) (x : Ring) (i : Nat) (l : List (Nat → Bytes)) : (s.putCoherent r x i l).plk = s.plk := by
  fun_induction State.putCoherent s r x i l <;> simp_all

@[simp] theorem State.putCoherent_rgq (s : State) (r : Nat) (x : Ring) (i : Nat) (l : List (Nat → Bytes)) : (s.putCoherent r x i l).rgq = s.rgq := by
  fun_induction State.putCoherent s r x i l <;> simp_all

@[simp] theorem State.putCoherent_enc (s : State) (r : Nat) (x : Ring) (i : Nat) (l : List (Nat → Bytes)) : (s.putCoherent r x i l).enc = s.enc := by
  fun_induction State.putCoherent s r x i l <;> simp_all

@[simp] theorem State.putCoherent_esc (s : State) (r : Nat) (x : Ring) (i : Nat) (l : List (Nat → Bytes)) : (s.putCoherent r x i l).esc = s.esc := by
  fun_induction State.putCoherent s r x i l <;> simp_all

@[simp] theorem State.putCoherent_rgl (s : State) (r : Nat) (x : Ring) (i : Nat) (l : List (Nat → Bytes)) : (s.putCoherent r x i l).rgl = s.rgl := by
  fun_induction State.putCoherent s r x i l <;> simp_all

@[simp] theorem State.putCoherent_dma (s : State) (r : Nat) (x : Ring) (i : Nat) (l : List (Nat → Bytes)) : (s.putCoherent r x i l).dma = s.dma := by
  fun_induction State.putCoherent s r x i l <;> simp_all

@[simp] theorem State.putItems_variant (s : State) (r : Nat) (x : Ring) (i : Nat) (l : List (Nat → Bytes)) : (s.putItems r x i l).variant = s.variant := by
  induction l generalizing s i with
  | nil => rfl
  | cons a l ih => simp [State.putItems, ih]

@[simp] theorem State.putItems_now (s : State) (r : Nat) (x : Ring) (i : Nat) (l : List (Nat → Bytes)) : (s.putItems r x i l).now = s.now := by
  induction l generalizing s i with
  | nil => rfl
  | cons a l ih => simp [State.putItems, ih]

@[simp] theorem State.putItems_freeCtr (s : State) (r : Nat) (x : Ring) (i : Nat) (l : List (Nat → Bytes)) : (s.putItems r x i l).freeCtr = s.freeCtr := by
  induction l generalizing s i with
  | nil => rfl
  | cons a l ih => simp [State.putItems, ih]

@[simp] theorem State.putItems_pending (s : State) (r : Nat) (x : Ring) (i : Nat) (l : List (Nat → Bytes)) : (s.putItems r x i l).pending = s.pending := by
  induction l generalizing s i with
  | nil => rfl
  | cons a l ih => simp [State.putItems, ih]

@[simp] theorem State.putItems_regs (s : State) (r : Nat) (x : Ring) (i : Nat) (l : List (Nat → Bytes)) : (s.putItems r x i l).regs = s.regs := by
  induction l generalizing s i with
  | nil => rfl
  | cons a l ih => simp [State.putItems, ih]

@[simp] theorem State.putItems_rng (s : State) (r : Nat) (x : Ring) (i : Nat) (l : List (Nat → Bytes)) : (s.putItems r x i l).rng = s.rng := by
  induction l generalizing s i with
  | nil => rfl
  | cons a l ih => simp [State.putItems, ih]

@[simp] theorem State.putItems_int (s : State) (r : Nat) (x : Ring) (i : Nat) (l : List (Nat → Bytes)) : (s.putItems r x i l).int = s.int := by
  induction l generalizing s i with
  | nil => rfl
  | cons a l ih => simp [State.putItems, ih]

@[simp] theorem State.putItems_flt (s : State) (r : Nat) (x : Ring) (i : Nat) (l : List (Nat → Bytes)) : (s.putItems r x i l).flt = s.flt := by
  induction l generalizing s i with
  | nil => rfl
  | cons a l ih => simp [State.putItems, ih]

@[simp] theorem State.putItems_kst (s : State) (r : Nat) (x : Ring) (i : Nat) (l : List (Nat → Bytes)) : (s.putItems r x i l).kst = s.kst := by
  induction l generalizing s i with
  | nil => rfl
  | cons a l ih => simp [State.putItems, ih]

@[simp] theorem State.putItems_pwr (s : State) (r : Nat) (x : Ring) (i : Nat) (l : List (Nat → Bytes)) : (s.putItems r x i l).pwr = s.pwr := by
  induction l generalizing s i with
  | nil => rfl
  | cons a l ih => simp [State.putItems, ih]

@[simp] theorem State.putItems_dec (s : State) (r : Nat) (x : Ring) (i : Nat) (l : List (Nat → Bytes)) : (s.putItems r x i l).dec = s.dec := by
  induction l generalizing s i with
  | nil => rfl
  | cons a l ih => simp [State.putItems, ih]

@[simp] theorem State.putItems_clb (s : State) (r : Nat) (x : Ring) (i : Nat) (l : List (Nat → Bytes)) : (s.putItems r x i l).clb = s.clb := by
  induction l generalizing s i with
  | nil => rfl
  | cons a l ih => simp [State.putItems, ih]

@[simp] theorem State.putItems_cnv (s : State) (r : Nat) (x : Ring) (i : Nat) (l : List (Nat → Bytes)) : (s.putItems r x i l).cnv = s.cnv := by
  induction l generalizing s i with
  | nil => rfl
  | cons a l ih => simp [State.putItems, ih]

@[simp] theorem State.putItems_fus (s : State) (r : Nat) (x : Ring) (i : Nat) (l : List (Nat → Bytes)) : (s.putItems r x i l).fus = s.fus := by
  induction l generalizing s i with
  | nil => rfl
  | cons a l ih => simp [State.putItems, ih]

@[simp] theorem State.putItems_mze (s : State) (r : Nat) (x : Ring) (i : Nat) (l : List (Nat → Bytes)) : (s.putItems r x i l).mze = s.mze := by
  induction l generalizing s i with
  | nil => rfl
  | cons a l ih => simp [State.putItems, ih]

@[simp] theorem State.putItems_swc (s : State) (r : Nat) (x : Ring) (i : Nat) (l : List (Nat → Bytes)) : (s.putItems r x i l).swc = s.swc := by
  induction l generalizing s i with
  | nil => rfl
  | cons a l ih => simp [State.putItems, ih]

@[simp] theorem State.putItems_sch (s : State) (r : Nat) (x : Ring) (i : Nat) (l : List (Nat → Bytes)) : (s.putItems r x i l).sch = s.sch := by
  induction l generalizing s i with
  | nil => rfl
  | cons a l ih => simp [State.putItems, ih]

@[simp] theorem State.putItems_plk (s : State) (r : Nat) (x : Ring) (i : Nat) (l : List (Nat → Bytes)) : (s.putItems r x i l).plk = s.plk := by
  induction l generalizing s i with
  | nil => rfl
  | cons a l ih => simp [State.putItems, ih]

@[simp] theorem State.putItems_rgq (s : State) (r : Nat) (x : Ring) (i : Nat) (l : List (Nat → Bytes)) : (s.putItems r x i l).rgq = s.rgq := by
  induction l generalizing s i with
  | nil => rfl
  | cons a l ih => simp [State.putItems, ih]

@[simp] theorem State.putItems_enc (s : State) (r : Nat) (x : Ring) (i : Nat) (l : List (Nat → Bytes)) : (s.putItems r x i l).enc = s.enc := by
  induction l generalizing s i with
  | nil => rfl
  | cons a l ih => simp [State.putItems, ih]

@[simp] theorem State.putItems_esc (s : State) (r : Nat) (x : Ring) (i : Nat) (l : List (Nat → Bytes)) : (s.putItems r x i l).esc = s.esc := by
  induction l generalizing s i with
  | nil => rfl
  | cons a l ih => simp [State.putItems, ih]

@[simp] theorem State.putItems_rgl (s : State) (r : Nat) (x : Ring) (i : Nat) (l : List (Nat → Bytes)) : (s.putItems r x i l).rgl = s.rgl := by
  induction l generalizing s i with
  | nil => rfl
  | cons a l ih => simp [State.putItems, ih]

@[simp] theorem State.putItems_dma (s : State) (r : Nat) (x : Ring) (i : Nat) (l : List (Nat → Bytes)) : (s.putItems r x i l).dma = s.dma := by
  induction l generalizing s i with
  | nil => rfl
  | cons a l ih => simp [State.putItems, ih]

@[simp] theorem State.recordAt_variant (s : State) (r c : Nat) (l : List (Nat → Bytes)) : (s.recordAt r c l).variant = s.variant := by
  unfold State.recordAt
  repeat' first | rfl | split | (simp; done) | dsimp only

@[simp] theorem State.recordAt_now (s : State) (r c : Nat) (l : List (Nat → Bytes)) : (s.recordAt r c l).now = s.now := by
  unfold State.recordAt
  repeat' first | rfl | split | (simp; done) | dsimp only

@[simp] theorem State.recordAt_pending (s : State) (r c : Nat) (l : List (Nat → Bytes)) : (s.recordAt r c l).pending = s.pending := by
  unfold State.recordAt
  repeat' first | rfl | split | (simp; done) | dsimp only

@[simp] theorem State.recordAt_regs (s : State) (r c : Nat) (l : List (Nat → Bytes)) : (s.recordAt r c l).regs = s.regs := by
  unfold State.recordAt
  repeat' first | rfl | split | (simp; done) | dsimp only

@[simp] theorem State.recordAt_int (s : State) (r c : Nat) (l : List (Nat → Bytes)) : (s.recordAt r c l).int = s.int := by
  unfold State.recordAt
  repeat' first | rfl | split | (simp; done) | dsimp only

@[simp] theorem State.recordAt_flt (s : State) (r c : Nat) (l : List (Nat → Bytes)) : (s.recordAt r c l).flt = s.flt := by
  unfold State.recordAt
  repeat' first | rfl | split | (simp; done) | dsimp only

@[simp] theorem State.recordAt_kst (s : State) (r c : Nat) (l : List (Nat → Bytes)) : (s.recordAt r c l).kst = s.kst := by
  unfold State.recordAt
  repeat' first | rfl | split | (simp; done) | dsimp only

@[simp] theorem State.recordAt_pwr (s : State) (r c : Nat) (l : List (Nat → Bytes)) : (s.recordAt r c l).pwr = s.pwr := by
  unfold State.recordAt
  repeat' first | rfl | split | (simp; done) | dsimp only

@[simp] theorem State.recordAt_dec (s : State) (r c : Nat) (l : List (Nat → Bytes)) : (s.recordAt r c l).dec = s.dec := by
  unfold State.recordAt
  repeat' first | rfl | split | (simp; done) | dsimp only

@[simp] theorem State.recordAt_clb (s : State) (r c : Nat) (l : List (Nat → Bytes)) : (s.recordAt r c l).clb = s.clb := by
  unfold State.recordAt
  repeat' first | rfl | split | (simp; done) | dsimp only

@[simp] theorem State.recordAt_cnv (s : State) (r c : Nat) (l : List (Nat → Bytes)) : (s.recordAt r c l).cnv = s.cnv := by
  unfold State.recordAt
  repeat' first | rfl | split | (simp; done) | dsimp only

@[simp] theorem State.recordAt_fus (s : State) (r c : Nat) (l : List (Nat → Bytes)) : (s.recordAt r c l).fus = s.fus := by
  unfold State.recordAt
  repeat' first | rfl | split | (simp; done) | dsimp only

@[simp] theorem State.recordAt_mze (s : State) (r c : Nat) (l : List (Nat → Bytes)) : (s.recordAt r c l).mze = s.mze := by
  unfold State.recordAt
  repeat' first | rfl | split | (simp; done) | dsimp only

@[simp] theorem State.recordAt_swc (s : State) (r c : Nat) (l : List (Nat → Bytes)) : (s.recordAt r c l).swc = s.swc := by
  unfold State.recordAt
  repeat' first | rfl | split | (simp; done) | dsimp only

@[simp] theorem State.recordAt_sch (s : State) (r c : Nat) (l : List (Nat → Bytes)) : (s.recordAt r c l).sch = s.sch := by
  unfold State.recordAt
  repeat' first | rfl | split | (simp; done) | dsimp only

@[simp] theorem State.recordAt_plk (s : State) (r c : Nat) (l : List (Nat → Bytes)) : (s.recordAt r c l).plk = s.plk := by
  unfold State.recordAt
  repeat' first | rfl | split | (simp; done) | dsimp only

@[simp] theorem State.recordAt_rgq (s : State) (r c : Nat) (l : List (Nat → Bytes)) : (s.recordAt r c l).rgq = s.rgq := by
  unfold State.recordAt
  repeat' first | rfl | split | (simp; done) | dsimp only

@[simp] theorem State.recordAt_enc (s : State) (r c : Nat) (l : List (Nat → Bytes)) : (s.recordAt r c l).enc = s.enc := by
  unfold State.recordAt
  repeat' first | rfl | split | (simp; done) | dsimp only

@[simp] theorem State.recordAt_esc (s : State) (r c : Nat) (l : List (Nat → Bytes)) : (s.recordAt r c l).esc = s.esc := by
  unfold State.recordAt
  repeat' first | rfl | split | (simp; done) | dsimp only

@[simp] theorem State.recordAt_rgl (s : State) (r c : Nat) (l : List (Nat → Bytes)) : (s.recordAt r c l).rgl = s.rgl := by
  unfold State.recordAt
  repeat' first | rfl | split | (simp; done) | dsimp only

@[simp] theorem State.recordAt_dma (s : State) (r c : Nat) (l : List (Nat → Bytes)) : (s.recordAt r c l).dma = s.dma := by
  unfold State.recordAt
  repeat' first | rfl | split | (simp; done) | dsimp only

@[simp] theorem State.loseEvent_variant (s : State) (r : Nat) : (s.loseEvent r).variant = s.variant := by
  unfold State.loseEvent
  repeat' first | rfl | split | (simp; done) | dsimp only

@[simp] theorem State.loseEvent_now (s : State) (r : Nat) : (s.loseEvent r).now = s.now := by
  unfold State.loseEvent
  repeat' first | rfl | split | (simp; done) | dsimp only

@[simp] theorem State.loseEvent_freeCtr (s : State) (r : Nat) : (s.loseEvent r).freeCtr = s.freeCtr := by
  unfold State.loseEvent
  repeat' first | rfl | split | (simp; done) | dsimp only

@[simp] theorem State.loseEvent_pending (s : State) (r : Nat) : (s.loseEvent r).pending = s.pending := by
  unfold State.loseEvent
  repeat' first | rfl | split | (simp; done) | dsimp only

@[simp] theorem State.loseEvent_regs (s : State) (r : Nat) : (s.loseEvent r).regs = s.regs := by
  unfold State.loseEvent
  repeat' first | rfl | split | (simp; done) | dsimp only

@[simp] theorem State.loseEvent_hst (s : State) (r : Nat) : (s.loseEvent r).hst = s.hst := by
  unfold State.loseEvent
  repeat' first | rfl | split | (simp; done) | dsimp only

@[simp] theorem State.loseEvent_pool (s : State) (r : Nat) : (s.loseEvent r).pool = s.pool := by
  unfold State.loseEvent
  repeat' first | rfl | split | (simp; done) | dsimp only

@[simp] theorem State.loseEvent_int (s : State) (r : Nat) : (s.loseEvent r).int = s.int := by
  unfold State.loseEvent
  repeat' first | rfl | split | (simp; done) | dsimp only

@[simp] theorem State.loseEvent_flt (s : State) (r : Nat) : (s.loseEvent r).flt = s.flt := by
  unfold State.loseEvent
  repeat' first | rfl | split | (simp; done) | dsimp only

@[simp] theorem State.loseEvent_mem (s : State) (r : Nat) : (s.loseEvent r).mem = s.mem := by
  unfold State.loseEvent
  repeat' first | rfl | split | (simp; done) | dsimp only

@[simp] theorem State.loseEvent_kst (s : State) (r : Nat) : (s.loseEvent r).kst = s.kst := by
  unfold State.loseEvent
  repeat' first | rfl | split | (simp; done) | dsimp only

@[simp] theorem State.loseEvent_pwr (s : State) (r : Nat) : (s.loseEvent r).pwr = s.pwr := by
  unfold State.loseEvent
  repeat' first | rfl | split | (simp; done) | dsimp only

@[simp] theorem State.loseEvent_dec (s : State) (r : Nat) : (s.loseEvent r).dec = s.dec := by
  unfold State.loseEvent
  repeat' first | rfl | split | (simp; done) | dsimp only

@[simp] theorem State.loseEvent_clb (s : State) (r : Nat) : (s.loseEvent r).clb = s.clb := by
  unfold State.loseEvent
  repeat' first | rfl | split | (simp; done) | dsimp only

@[simp] theorem State.loseEvent_cnv (s : State) (r : Nat) : (s.loseEvent r).cnv = s.cnv := by
  unfold State.loseEvent
  repeat' first | rfl | split | (simp; done) | dsimp only

@[simp] theorem State.loseEvent_fus (s : State) (r : Nat) : (s.loseEvent r).fus = s.fus := by
  unfold State.loseEvent
  repeat' first | rfl | split | (simp; done) | dsimp only

@[simp] theorem State.loseEvent_mze (s : State) (r : Nat) : (s.loseEvent r).mze = s.mze := by
  unfold State.loseEvent
  repeat' first | rfl | split | (simp; done) | dsimp only

@[simp] theorem State.loseEvent_swc (s : State) (r : Nat) : (s.loseEvent r).swc = s.swc := by
  unfold State.loseEvent
  repeat' first | rfl | split | (simp; done) | dsimp only

@[simp] theorem State.loseEvent_sch (s : State) (r : Nat) : (s.loseEvent r).sch = s.sch := by
  unfold State.loseEvent
  repeat' first | rfl | split | (simp; done) | dsimp only

@[simp] theorem State.loseEvent_plk (s : State) (r : Nat) : (s.loseEvent r).plk = s.plk := by
  unfold State.loseEvent
  repeat' first | rfl | split | (simp; done) | dsimp only

@[simp] theorem State.loseEvent_rgq (s : State) (r : Nat) : (s.loseEvent r).rgq = s.rgq := by
  unfold State.loseEvent
  repeat' first | rfl | split | (simp; done) | dsimp only

@[simp] theorem State.loseEvent_enc (s : State) (r : Nat) : (s.loseEvent r).enc = s.enc := by
  unfold State.loseEvent
  repeat' first | rfl | split | (simp; done) | dsimp only

@[simp] theorem State.loseEvent_esc (s : State) (r : Nat) : (s.loseEvent r).esc = s.esc := by
  unfold State.loseEvent
  repeat' first | rfl | split | (simp; done) | dsimp only

@[simp] theorem State.loseEvent_rgl (s : State) (r : Nat) : (s.loseEvent r).rgl = s.rgl := by
  unfold State.loseEvent
  repeat' first | rfl | split | (simp; done) | dsimp only

@[simp] theorem State.loseEvent_dma (s : State) (r : Nat) : (s.loseEvent r).dma = s.dma := by
  unfold State.loseEvent
  repeat' first | rfl | split | (simp; done) | dsimp only

@[simp] theorem State.recordN_variant (s : State) (r c : Nat) (l : List (Nat → Bytes)) (n : Nat) : (s.recordN r c l n).variant = s.variant := by
  fun_induction State.recordN s r c l n
  all_goals first | (simp; done) | (have hi := State.takeInject_variant _ _ _ _ (by assumption)
                                    refine (State.recordAt_variant ..).trans ((State.latch_variant ..).trans ?_)
                                    show State.variant (ite _ _ _) = _
                                    split <;> (simp_all; exact hi))

@[simp] theorem State.recordN_now (s : State) (r c : Nat) (l : List (Nat → Bytes)) (n : Nat) : (s.recordN r c l n).now = s.now := by
  fun_induction State.recordN s r c l n
  all_goals first | (simp; done) | (have hi := State.takeInject_now _ _ _ _ (by assumption)
                                    refine (State.recordAt_now ..).trans ((State.latch_now ..).trans ?_)
                                    show State.now (ite _ _ _) = _
                                    split <;> (simp_all; exact hi))

@[simp] theorem State.recordN_pending (s : State) (r c : Nat) (l : List (Nat → Bytes)) (n : Nat) : (s.recordN r c l n).pending = s.pending := by
  fun_induction State.recordN s r c l n
  all_goals first | (simp; done) | (have hi := State.takeInject_pending _ _ _ _ (by assumption)
                                    refine (State.recordAt_pending ..).trans ((State.latch_pending ..).trans ?_)
                                    show State.pending (ite _ _ _) = _
                                    split <;> (simp_all; exact hi))

@[simp] theorem State.recordN_pwr (s : State) (r c : Nat) (l : List (Nat → Bytes)) (n : Nat) : (s.recordN r c l n).pwr = s.pwr := by
  fun_induction State.recordN s r c l n
  all_goals first | (simp; done) | (have hi := State.takeInject_pwr _ _ _ _ (by assumption)
                                    refine (State.recordAt_pwr ..).trans ((State.latch_pwr ..).trans ?_)
                                    show State.pwr (ite _ _ _) = _
                                    split <;> (simp_all; exact hi))

@[simp] theorem State.recordN_dec (s : State) (r c : Nat) (l : List (Nat → Bytes)) (n : Nat) : (s.recordN r c l n).dec = s.dec := by
  fun_induction State.recordN s r c l n
  all_goals first | (simp; done) | (have hi := State.takeInject_dec _ _ _ _ (by assumption)
                                    refine (State.recordAt_dec ..).trans ((State.latch_dec ..).trans ?_)
                                    show State.dec (ite _ _ _) = _
                                    split <;> (simp_all; exact hi))

@[simp] theorem State.recordN_clb (s : State) (r c : Nat) (l : List (Nat → Bytes)) (n : Nat) : (s.recordN r c l n).clb = s.clb := by
  fun_induction State.recordN s r c l n
  all_goals first | (simp; done) | (have hi := State.takeInject_clb _ _ _ _ (by assumption)
                                    refine (State.recordAt_clb ..).trans ((State.latch_clb ..).trans ?_)
                                    show State.clb (ite _ _ _) = _
                                    split <;> (simp_all; exact hi))

@[simp] theorem State.recordN_cnv (s : State) (r c : Nat) (l : List (Nat → Bytes)) (n : Nat) : (s.recordN r c l n).cnv = s.cnv := by
  fun_induction State.recordN s r c l n
  all_goals first | (simp; done) | (have hi := State.takeInject_cnv _ _ _ _ (by assumption)
                                    refine (State.recordAt_cnv ..).trans ((State.latch_cnv ..).trans ?_)
                                    show State.cnv (ite _ _ _) = _
                                    split <;> (simp_all; exact hi))

@[simp] theorem State.recordN_fus (s : State) (r c : Nat) (l : List (Nat → Bytes)) (n : Nat) : (s.recordN r c l n).fus = s.fus := by
  fun_induction State.recordN s r c l n
  all_goals first | (simp; done) | (have hi := State.takeInject_fus _ _ _ _ (by assumption)
                                    refine (State.recordAt_fus ..).trans ((State.latch_fus ..).trans ?_)
                                    show State.fus (ite _ _ _) = _
                                    split <;> (simp_all; exact hi))

@[simp] theorem State.recordN_mze (s : State) (r c : Nat) (l : List (Nat → Bytes)) (n : Nat) : (s.recordN r c l n).mze = s.mze := by
  fun_induction State.recordN s r c l n
  all_goals first | (simp; done) | (have hi := State.takeInject_mze _ _ _ _ (by assumption)
                                    refine (State.recordAt_mze ..).trans ((State.latch_mze ..).trans ?_)
                                    show State.mze (ite _ _ _) = _
                                    split <;> (simp_all; exact hi))

@[simp] theorem State.recordN_swc (s : State) (r c : Nat) (l : List (Nat → Bytes)) (n : Nat) : (s.recordN r c l n).swc = s.swc := by
  fun_induction State.recordN s r c l n
  all_goals first | (simp; done) | (have hi := State.takeInject_swc _ _ _ _ (by assumption)
                                    refine (State.recordAt_swc ..).trans ((State.latch_swc ..).trans ?_)
                                    show State.swc (ite _ _ _) = _
                                    split <;> (simp_all; exact hi))

@[simp] theorem State.recordN_sch (s : State) (r c : Nat) (l : List (Nat → Bytes)) (n : Nat) : (s.recordN r c l n).sch = s.sch := by
  fun_induction State.recordN s r c l n
  all_goals first | (simp; done) | (have hi := State.takeInject_sch _ _ _ _ (by assumption)
                                    refine (State.recordAt_sch ..).trans ((State.latch_sch ..).trans ?_)
                                    show State.sch (ite _ _ _) = _
                                    split <;> (simp_all; exact hi))

@[simp] theorem State.recordN_plk (s : State) (r c : Nat) (l : List (Nat → Bytes)) (n : Nat) : (s.recordN r c l n).plk = s.plk := by
  fun_induction State.recordN s r c l n
  all_goals first | (simp; done) | (have hi := State.takeInject_plk _ _ _ _ (by assumption)
                                    refine (State.recordAt_plk ..).trans ((State.latch_plk ..).trans ?_)
                                    show State.plk (ite _ _ _) = _
                                    split <;> (simp_all; exact hi))

@[simp] theorem State.recordN_rgq (s : State) (r c : Nat) (l : List (Nat → Bytes)) (n : Nat) : (s.recordN r c l n).rgq = s.rgq := by
  fun_induction State.recordN s r c l n
  all_goals first | (simp; done) | (have hi := State.takeInject_rgq _ _ _ _ (by assumption)
                                    refine (State.recordAt_rgq ..).trans ((State.latch_rgq ..).trans ?_)
                                    show State.rgq (ite _ _ _) = _
                                    split <;> (simp_all; exact hi))

@[simp] theorem State.recordN_enc (s : State) (r c : Nat) (l : List (Nat → Bytes)) (n : Nat) : (s.recordN r c l n).enc = s.enc := by
  fun_induction State.recordN s r c l n
  all_goals first | (simp; done) | (have hi := State.takeInject_enc _ _ _ _ (by assumption)
                                    refine (State.recordAt_enc ..).trans ((State.latch_enc ..).trans ?_)
                                    show State.enc (ite _ _ _) = _
                                    split <;> (simp_all; exact hi))

@[simp] theorem State.recordN_esc (s : State) (r c : Nat) (l : List (Nat → Bytes)) (n : Nat) : (s.recordN r c l n).esc = s.esc := by
  fun_induction State.recordN s r c l n
  all_goals first | (simp; done) | (have hi := State.takeInject_esc _ _ _ _ (by assumption)
                                    refine (State.recordAt_esc ..).trans ((State.latch_esc ..).trans ?_)
                                    show State.esc (ite _ _ _) = _
                                    split <;> (simp_all; exact hi))

@[simp] theorem State.recordN_rgl (s : State) (r c : Nat) (l : List (Nat → Bytes)) (n : Nat) : (s.recordN r c l n).rgl = s.rgl := by
  fun_induction State.recordN s r c l n
  all_goals first | (simp; done) | (have hi := State.takeInject_rgl _ _ _ _ (by assumption)
                                    refine (State.recordAt_rgl ..).trans ((State.latch_rgl ..).trans ?_)
                                    show State.rgl (ite _ _ _) = _
                                    split <;> (simp_all; exact hi))

@[simp] theorem State.recordN_dma (s : State) (r c : Nat) (l : List (Nat → Bytes)) (n : Nat) : (s.recordN r c l n).dma = s.dma := by
  fun_induction State.recordN s r c l n
  all_goals first | (simp; done) | (have hi := State.takeInject_dma _ _ _ _ (by assumption)
                                    refine (State.recordAt_dma ..).trans ((State.latch_dma ..).trans ?_)
                                    show State.dma (ite _ _ _) = _
                                    split <;> (simp_all; exact hi))

@[simp] theorem State.record_variant (s : State) (r c : Nat) (l : List (Nat → Bytes)) : (s.record r c l).variant = s.variant := by
  unfold State.record
  repeat' first | rfl | split | (simp; done) | dsimp only

@[simp] theorem State.record_now (s : State) (r c : Nat) (l : List (Nat → Bytes)) : (s.record r c l).now = s.now := by
  unfold State.record
  repeat' first | rfl | split | (simp; done) | dsimp only

@[simp] theorem State.record_pending (s : State) (r c : Nat) (l : List (Nat → Bytes)) : (s.record r c l).pending = s.pending := by
  unfold State.record
  repeat' first | rfl | split | (simp; done) | dsimp only

@[simp] theorem State.record_pwr (s : State) (r c : Nat) (l : List (Nat → Bytes)) : (s.record r c l).pwr = s.pwr := by
  unfold State.record
  repeat' first | rfl | split | (simp; done) | dsimp only

@[simp] theorem State.record_dec (s : State) (r c : Nat) (l : List (Nat → Bytes)) : (s.record r c l).dec = s.dec := by
  unfold State.record
  repeat' first | rfl | split | (simp; done) | dsimp only

@[simp] theorem State.record_clb (s : State) (r c : Nat) (l : List (Nat → Bytes)) : (s.record r c l).clb = s.clb := by
  unfold State.record
  repeat' first | rfl | split | (simp; done) | dsimp only

@[simp] theorem State.record_cnv (s : State) (r c : Nat) (l : List (Nat → Bytes)) : (s.record r c l).cnv = s.cnv := by
  unfold State.record
  repeat' first | rfl | split | (simp; done) | dsimp only

@[simp] theorem State.record_fus (s : State) (r c : Nat) (l : List (Nat → Bytes)) : (s.record r c l).fus = s.fus := by
  unfold State.record
  repeat' first | rfl | split | (simp; done) | dsimp only

@[simp] theorem State.record_mze (s : State) (r c : Nat) (l : List (Nat → Bytes)) : (s.record r c l).mze = s.mze := by
  unfold State.record
  repeat' first | rfl | split | (simp; done) | dsimp only

@[simp] theorem State.record_swc (s : State) (r c : Nat) (l : List (Nat → Bytes)) : (s.record r c l).swc = s.swc := by
  unfold State.record
  repeat' first | rfl | split | (simp; done) | dsimp only

@[simp] theorem State.record_sch (s : State) (r c : Nat) (l : List (Nat → Bytes)) : (s.record r c l).sch = s.sch := by
  unfold State.record
  repeat' first | rfl | split | (simp; done) | dsimp only

@[simp] theorem State.record_plk (s : State) (r c : Nat) (l : List (Nat → Bytes)) : (s.record r c l).plk = s.plk := by
  unfold State.record
  repeat' first | rfl | split | (simp; done) | dsimp only

@[simp] theorem State.record_rgq (s : State) (r c : Nat) (l : List (Nat → Bytes)) : (s.record r c l).rgq = s.rgq := by
  unfold State.record
  repeat' first | rfl | split | (simp; done) | dsimp only

@[simp] theorem State.record_enc (s : State) (r c : Nat) (l : List (Nat → Bytes)) : (s.record r c l).enc = s.enc := by
  unfold State.record
  repeat' first | rfl | split | (simp; done) | dsimp only

@[simp] theorem State.record_esc (s : State) (r c : Nat) (l : List (Nat → Bytes)) : (s.record r c l).esc = s.esc := by
  unfold State.record
  repeat' first | rfl | split | (simp; done) | dsimp only

@[simp] theorem State.record_rgl (s : State) (r c : Nat) (l : List (Nat → Bytes)) : (s.record r c l).rgl = s.rgl := by
  unfold State.record
  repeat' first | rfl | split | (simp; done) | dsimp only

@[simp] theorem State.record_dma (s : State) (r c : Nat) (l : List (Nat → Bytes)) : (s.record r c l).dma = s.dma := by
  unfold State.record
  repeat' first | rfl | split | (simp; done) | dsimp only

@[simp] theorem State.eventTo_variant (s : State) (r : Nat) (en : Bool) (c b so : Nat) (l : List Nat) : (s.eventTo r en c b so l).variant = s.variant := by
  unfold State.eventTo
  repeat' first | rfl | split | (simp; done) | dsimp only

@[simp] theorem State.eventTo_now (s : State) (r : Nat) (en : Bool) (c b so : Nat) (l : List Nat) : (s.eventTo r en c b so l).now = s.now := by
  unfold State.eventTo
  repeat' first | rfl | split | (simp; done) | dsimp only

@[simp] theorem State.eventTo_pending (s : State) (r : Nat) (en : Bool) (c b so : Nat) (l : List Nat) : (s.eventTo r en c b so l).pending = s.pending := by
  unfold State.eventTo
  repeat' first | rfl | split | (simp; done) | dsimp only

@[simp] theorem State.eventTo_pwr (s : State) (r : Nat) (en : Bool) (c b so : Nat) (l : List Nat) : (s.eventTo r en c b so l).pwr = s.pwr := by
  unfold State.eventTo
  repeat' first | rfl | split | (simp; done) | dsimp only

@[simp] theorem State.eventTo_dec (s : State) (r : Nat) (en : Bool) (c b so : Nat) (l : List Nat) : (s.eventTo r en c b so l).dec = s.dec := by
  unfold State.eventTo
  repeat' first | rfl | split | (simp; done) | dsimp only

@[simp] theorem State.eventTo_clb (s : State) (r : Nat) (en : Bool) (c b so : Nat) (l : List Nat) : (s.eventTo r en c b so l).clb = s.clb := by
  unfold State.eventTo
  repeat' first | rfl | split | (simp; done) | dsimp only

@[simp] theorem State.eventTo_cnv (s : State) (r : Nat) (en : Bool) (c b so : Nat) (l : List Nat) : (s.eventTo r en c b so l).cnv = s.cnv := by
  unfold State.eventTo
  repeat' first | rfl | split | (simp; done) | dsimp only

@[simp] theorem State.eventTo_fus (s : State) (r : Nat) (en : Bool) (c b so : Nat) (l : List Nat) : (s.eventTo r en c b so l).fus = s.fus := by
  unfold State.eventTo
  repeat' first | rfl | split | (simp; done) | dsimp only

@[simp] theorem State.eventTo_mze (s : State) (r : Nat) (en : Bool) (c b so : Nat) (l : List Nat) : (s.eventTo r en c b so l).mze = s.mze := by
  unfold State.eventTo
  repeat' first | rfl | split | (simp; done) | dsimp only

@[simp] theorem State.eventTo_swc (s : State) (r : Nat) (en : Bool) (c b so : Nat) (l : List Nat) : (s.eventTo r en c b so l).swc = s.swc := by
  unfold State.eventTo
  repeat' first | rfl | split | (simp; done) | dsimp only

@[simp] theorem State.eventTo_sch (s : State) (r : Nat) (en : Bool) (c b so : Nat) (l : List Nat) : (s.eventTo r en c b so l).sch = s.sch := by
  unfold State.eventTo
  repeat' first | rfl | split | (simp; done) | dsimp only

@[simp] theorem State.eventTo_plk (s : State) (r : Nat) (en : Bool) (c b so : Nat) (l : List Nat) : (s.eventTo r en c b so l).plk = s.plk := by
  unfold State.eventTo
  repeat' first | rfl | split | (simp; done) | dsimp only

@[simp] theorem State.eventTo_rgq (s : State) (r : Nat) (en : Bool) (c b so : Nat) (l : List Nat) : (s.eventTo r en c b so l).rgq = s.rgq := by
  unfold State.eventTo
  repeat' first | rfl | split | (simp; done) | dsimp only

@[simp] theorem State.eventTo_enc (s : State) (r : Nat) (en : Bool) (c b so : Nat) (l : List Nat) : (s.eventTo r en c b so l).enc = s.enc := by
  unfold State.eventTo
  repeat' first | rfl | split | (simp; done) | dsimp only

@[simp] theorem State.eventTo_esc (s : State) (r : Nat) (en : Bool) (c b so : Nat) (l : List Nat) : (s.eventTo r en c b so l).esc = s.esc := by
  unfold State.eventTo
  repeat' first | rfl | split | (simp; done) | dsimp only

@[simp] theorem State.eventTo_rgl (s : State) (r : Nat) (en : Bool) (c b so : Nat) (l : List Nat) : (s.eventTo r en c b so l).rgl = s.rgl := by
  unfold State.eventTo
  repeat' first | rfl | split | (simp; done) | dsimp only

@[simp] theorem State.eventTo_dma (s : State) (r : Nat) (en : Bool) (c b so : Nat) (l : List Nat) : (s.eventTo r en c b so l).dma = s.dma := by
  unfold State.eventTo
  repeat' first | rfl | split | (simp; done) | dsimp only

@[simp] theorem State.event_variant (s : State) (r e : Fld) (c b so : Nat) (l : List Nat) : (s.event r e c b so l).variant = s.variant := by
  unfold State.event
  repeat' first | rfl | split | (simp; done) | dsimp only

@[simp] theorem State.event_now (s : State) (r e : Fld) (c b so : Nat) (l : List Nat) : (s.event r e c b so l).now = s.now := by
  unfold State.event
  repeat' first | rfl | split | (simp; done) | dsimp only

@[simp] theorem State.event_pending (s : State) (r e : Fld) (c b so : Nat) (l : List Nat) : (s.event r e c b so l).pending = s.pending := by
  unfold State.event
  repeat' first | rfl | split | (simp; done) | dsimp only

@[simp] theorem State.event_pwr (s : State) (r e : Fld) (c b so : Nat) (l : List Nat) : (s.event r e c b so l).pwr = s.pwr := by
  unfold State.event
  repeat' first | rfl | split | (simp; done) | dsimp only

@[simp] theorem State.event_dec (s : State) (r e : Fld) (c b so : Nat) (l : List Nat) : (s.event r e c b so l).dec = s.dec := by
  unfold State.event
  repeat' first | rfl | split | (simp; done) | dsimp only

@[simp] theorem State.event_clb (s : State) (r e : Fld) (c b so : Nat) (l : List Nat) : (s.event r e c b so l).clb = s.clb := by
  unfold State.event
  repeat' first | rfl | split | (simp; done) | dsimp only

@[simp] theorem State.event_cnv (s : State) (r e : Fld) (c b so : Nat) (l : List Nat) : (s.event r e c b so l).cnv = s.cnv := by
  unfold State.event
  repeat' first | rfl | split | (simp; done) | dsimp only

@[simp] theorem State.event_fus (s : State) (r e : Fld) (c b so : Nat) (l : List Nat) : (s.event r e c b so l).fus = s.fus := by
  unfold State.event
  repeat' first | rfl | split | (simp; done) | dsimp only

@[simp] theorem State.event_mze (s : State) (r e : Fld) (c b so : Nat) (l : List Nat) : (s.event r e c b so l).mze = s.mze := by
  unfold State.event
  repeat' first | rfl | split | (simp; done) | dsimp only

@[simp] theorem State.event_swc (s : State) (r e : Fld) (c b so : Nat) (l : List Nat) : (s.event r e c b so l).swc = s.swc := by
  unfold State.event
  repeat' first | rfl | split | (simp; done) | dsimp only

@[simp] theorem State.event_sch (s : State) (r e : Fld) (c b so : Nat) (l : List Nat) : (s.event r e c b so l).sch = s.sch := by
  unfold State.event
  repeat' first | rfl | split | (simp; done) | dsimp only

@[simp] theorem State.event_plk (s : State) (r e : Fld) (c b so : Nat) (l : List Nat) : (s.event r e c b so l).plk = s.plk := by
  unfold State.event
  repeat' first | rfl | split | (simp; done) | dsimp only

@[simp] theorem State.event_rgq (s : State) (r e : Fld) (c b so : Nat) (l : List Nat) : (s.event r e c b so l).rgq = s.rgq := by
  unfold State.event
  repeat' first | rfl | split | (simp; done) | dsimp only

@[simp] theorem State.event_enc (s : State) (r e : Fld) (c b so : Nat) (l : List Nat) : (s.event r e c b so l).enc = s.enc := by
  unfold State.event
  repeat' first | rfl | split | (simp; done) | dsimp only

@[simp] theorem State.event_esc (s : State) (r e : Fld) (c b so : Nat) (l : List Nat) : (s.event r e c b so l).esc = s.esc := by
  unfold State.event
  repeat' first | rfl | split | (simp; done) | dsimp only

@[simp] theorem State.event_rgl (s : State) (r e : Fld) (c b so : Nat) (l : List Nat) : (s.event r e c b so l).rgl = s.rgl := by
  unfold State.event
  repeat' first | rfl | split | (simp; done) | dsimp only

@[simp] theorem State.event_dma (s : State) (r e : Fld) (c b so : Nat) (l : List Nat) : (s.event r e c b so l).dma = s.dma := by
  unfold State.event
  repeat' first | rfl | split | (simp; done) | dsimp only

@[simp] theorem State.ringEvent_variant (s : State) (r c : Nat) (l : List Nat) : (s.ringEvent r c l).variant = s.variant := by
  unfold State.ringEvent
  repeat' first | rfl | split | (simp; done) | dsimp only

@[simp] theorem State.ringEvent_now (s : State) (r c : Nat) (l : List Nat) : (s.ringEvent r c l).now = s.now := by
  unfold State.ringEvent
  repeat' first | rfl | split | (simp; done) | dsimp only

@[simp] theorem State.ringEvent_pending (s : State) (r c : Nat) (l : List Nat) : (s.ringEvent r c l).pending = s.pending := by
  unfold State.ringEvent
  repeat' first | rfl | split | (simp; done) | dsimp only

@[simp] theorem State.ringEvent_pwr (s : State) (r c : Nat) (l : List Nat) : (s.ringEvent r c l).pwr = s.pwr := by
  unfold State.ringEvent
  repeat' first | rfl | split | (simp; done) | dsimp only

@[simp] theorem State.ringEvent_dec (s : State) (r c : Nat) (l : List Nat) : (s.ringEvent r c l).dec = s.dec := by
  unfold State.ringEvent
  repeat' first | rfl | split | (simp; done) | dsimp only

@[simp] theorem State.ringEvent_clb (s : State) (r c : Nat) (l : List Nat) : (s.ringEvent r c l).clb = s.clb := by
  unfold State.ringEvent
  repeat' first | rfl | split | (simp; done) | dsimp only

@[simp] theorem State.ringEvent_cnv (s : State) (r c : Nat) (l : List Nat) : (s.ringEvent r c l).cnv = s.cnv := by
  unfold State.ringEvent
  repeat' first | rfl | split | (simp; done) | dsimp only

@[simp] theorem State.ringEvent_fus (s : State) (r c : Nat) (l : List Nat) : (s.ringEvent r c l).fus = s.fus := by
  unfold State.ringEvent
  repeat' first | rfl | split | (simp; done) | dsimp only

@[simp] theorem State.ringEvent_mze (s : State) (r c : Nat) (l : List Nat) : (s.ringEvent r c l).mze = s.mze := by
  unfold State.ringEvent
  repeat' first | rfl | split | (simp; done) | dsimp only

@[simp] theorem State.ringEvent_swc (s : State) (r c : Nat) (l : List Nat) : (s.ringEvent r c l).swc = s.swc := by
  unfold State.ringEvent
  repeat' first | rfl | split | (simp; done) | dsimp only

@[simp] theorem State.ringEvent_sch (s : State) (r c : Nat) (l : List Nat) : (s.ringEvent r c l).sch = s.sch := by
  unfold State.ringEvent
  repeat' first | rfl | split | (simp; done) | dsimp only

@[simp] theorem State.ringEvent_plk (s : State) (r c : Nat) (l : List Nat) : (s.ringEvent r c l).plk = s.plk := by
  unfold State.ringEvent
  repeat' first | rfl | split | (simp; done) | dsimp only

@[simp] theorem State.ringEvent_rgq (s : State) (r c : Nat) (l : List Nat) : (s.ringEvent r c l).rgq = s.rgq := by
  unfold State.ringEvent
  repeat' first | rfl | split | (simp; done) | dsimp only

@[simp] theorem State.ringEvent_enc (s : State) (r c : Nat) (l : List Nat) : (s.ringEvent r c l).enc = s.enc := by
  unfold State.ringEvent
  repeat' first | rfl | split | (simp; done) | dsimp only

@[simp] theorem State.ringEvent_esc (s : State) (r c : Nat) (l : List Nat) : (s.ringEvent r c l).esc = s.esc := by
  unfold State.ringEvent
  repeat' first | rfl | split | (simp; done) | dsimp only

@[simp] theorem State.ringEvent_rgl (s : State) (r c : Nat) (l : List Nat) : (s.ringEvent r c l).rgl = s.rgl := by
  unfold State.ringEvent
  repeat' first | rfl | split | (simp; done) | dsimp only

@[simp] theorem State.ringEvent_dma (s : State) (r c : Nat) (l : List Nat) : (s.ringEvent r c l).dma = s.dma := by
  unfold State.ringEvent
  repeat' first | rfl | split | (simp; done) | dsimp only

@[simp] theorem State.streamEvent_variant (s : State) (st b c : Nat) (l : List Nat) : (s.streamEvent st b c l).variant = s.variant := by
  unfold State.streamEvent
  repeat' first | rfl | split | (simp; done) | dsimp only

@[simp] theorem State.streamEvent_now (s : State) (st b c : Nat) (l : List Nat) : (s.streamEvent st b c l).now = s.now := by
  unfold State.streamEvent
  repeat' first | rfl | split | (simp; done) | dsimp only

@[simp] theorem State.streamEvent_pending (s : State) (st b c : Nat) (l : List Nat) : (s.streamEvent st b c l).pending = s.pending := by
  unfold State.streamEvent
  repeat' first | rfl | split | (simp; done) | dsimp only

@[simp] theorem State.streamEvent_pwr (s : State) (st b c : Nat) (l : List Nat) : (s.streamEvent st b c l).pwr = s.pwr := by
  unfold State.streamEvent
  repeat' first | rfl | split | (simp; done) | dsimp only

@[simp] theorem State.streamEvent_dec (s : State) (st b c : Nat) (l : List Nat) : (s.streamEvent st b c l).dec = s.dec := by
  unfold State.streamEvent
  repeat' first | rfl | split | (simp; done) | dsimp only

@[simp] theorem State.streamEvent_clb (s : State) (st b c : Nat) (l : List Nat) : (s.streamEvent st b c l).clb = s.clb := by
  unfold State.streamEvent
  repeat' first | rfl | split | (simp; done) | dsimp only

@[simp] theorem State.streamEvent_cnv (s : State) (st b c : Nat) (l : List Nat) : (s.streamEvent st b c l).cnv = s.cnv := by
  unfold State.streamEvent
  repeat' first | rfl | split | (simp; done) | dsimp only

@[simp] theorem State.streamEvent_fus (s : State) (st b c : Nat) (l : List Nat) : (s.streamEvent st b c l).fus = s.fus := by
  unfold State.streamEvent
  repeat' first | rfl | split | (simp; done) | dsimp only

@[simp] theorem State.streamEvent_mze (s : State) (st b c : Nat) (l : List Nat) : (s.streamEvent st b c l).mze = s.mze := by
  unfold State.streamEvent
  repeat' first | rfl | split | (simp; done) | dsimp only

@[simp] theorem State.streamEvent_swc (s : State) (st b c : Nat) (l : List Nat) : (s.streamEvent st b c l).swc = s.swc := by
  unfold State.streamEvent
  repeat' first | rfl | split | (simp; done) | dsimp only

@[simp] theorem State.streamEvent_sch (s : State) (st b c : Nat) (l : List Nat) : (s.streamEvent st b c l).sch = s.sch := by
  unfold State.streamEvent
  repeat' first | rfl | split | (simp; done) | dsimp only

@[simp] theorem State.streamEvent_plk (s : State) (st b c : Nat) (l : List Nat) : (s.streamEvent st b c l).plk = s.plk := by
  unfold State.streamEvent
  repeat' first | rfl | split | (simp; done) | dsimp only

@[simp] theorem State.streamEvent_rgq (s : State) (st b c : Nat) (l : List Nat) : (s.streamEvent st b c l).rgq = s.rgq := by
  unfold State.streamEvent
  repeat' first | rfl | split | (simp; done) | dsimp only

@[simp] theorem State.streamEvent_enc (s : State) (st b c : Nat) (l : List Nat) : (s.streamEvent st b c l).enc = s.enc := by
  unfold State.streamEvent
  repeat' first | rfl | split | (simp; done) | dsimp only

@[simp] theorem State.streamEvent_esc (s : State) (st b c : Nat) (l : List Nat) : (s.streamEvent st b c l).esc = s.esc := by
  unfold State.streamEvent
  repeat' first | rfl | split | (simp; done) | dsimp only

@[simp] theorem State.streamEvent_rgl (s : State) (st b c : Nat) (l : List Nat) : (s.streamEvent st b c l).rgl = s.rgl := by
  unfold State.streamEvent
  repeat' first | rfl | split | (simp; done) | dsimp only

@[simp] theorem State.streamEvent_dma (s : State) (st b c : Nat) (l : List Nat) : (s.streamEvent st b c l).dma = s.dma := by
  unfold State.streamEvent
  repeat' first | rfl | split | (simp; done) | dsimp only

@[simp] theorem State.completion_variant (s : State) (r i tag abi st r0 r1 r2 r3 : Nat) : (s.completion r i tag abi st r0 r1 r2 r3).variant = s.variant := by
  unfold State.completion
  repeat' first | rfl | split | (simp; done) | dsimp only

@[simp] theorem State.completion_now (s : State) (r i tag abi st r0 r1 r2 r3 : Nat) : (s.completion r i tag abi st r0 r1 r2 r3).now = s.now := by
  unfold State.completion
  repeat' first | rfl | split | (simp; done) | dsimp only

@[simp] theorem State.completion_pending (s : State) (r i tag abi st r0 r1 r2 r3 : Nat) : (s.completion r i tag abi st r0 r1 r2 r3).pending = s.pending := by
  unfold State.completion
  repeat' first | rfl | split | (simp; done) | dsimp only

@[simp] theorem State.completion_pwr (s : State) (r i tag abi st r0 r1 r2 r3 : Nat) : (s.completion r i tag abi st r0 r1 r2 r3).pwr = s.pwr := by
  unfold State.completion
  repeat' first | rfl | split | (simp; done) | dsimp only

@[simp] theorem State.completion_dec (s : State) (r i tag abi st r0 r1 r2 r3 : Nat) : (s.completion r i tag abi st r0 r1 r2 r3).dec = s.dec := by
  unfold State.completion
  repeat' first | rfl | split | (simp; done) | dsimp only

@[simp] theorem State.completion_clb (s : State) (r i tag abi st r0 r1 r2 r3 : Nat) : (s.completion r i tag abi st r0 r1 r2 r3).clb = s.clb := by
  unfold State.completion
  repeat' first | rfl | split | (simp; done) | dsimp only

@[simp] theorem State.completion_cnv (s : State) (r i tag abi st r0 r1 r2 r3 : Nat) : (s.completion r i tag abi st r0 r1 r2 r3).cnv = s.cnv := by
  unfold State.completion
  repeat' first | rfl | split | (simp; done) | dsimp only

@[simp] theorem State.completion_fus (s : State) (r i tag abi st r0 r1 r2 r3 : Nat) : (s.completion r i tag abi st r0 r1 r2 r3).fus = s.fus := by
  unfold State.completion
  repeat' first | rfl | split | (simp; done) | dsimp only

@[simp] theorem State.completion_mze (s : State) (r i tag abi st r0 r1 r2 r3 : Nat) : (s.completion r i tag abi st r0 r1 r2 r3).mze = s.mze := by
  unfold State.completion
  repeat' first | rfl | split | (simp; done) | dsimp only

@[simp] theorem State.completion_swc (s : State) (r i tag abi st r0 r1 r2 r3 : Nat) : (s.completion r i tag abi st r0 r1 r2 r3).swc = s.swc := by
  unfold State.completion
  repeat' first | rfl | split | (simp; done) | dsimp only

@[simp] theorem State.completion_sch (s : State) (r i tag abi st r0 r1 r2 r3 : Nat) : (s.completion r i tag abi st r0 r1 r2 r3).sch = s.sch := by
  unfold State.completion
  repeat' first | rfl | split | (simp; done) | dsimp only

@[simp] theorem State.completion_plk (s : State) (r i tag abi st r0 r1 r2 r3 : Nat) : (s.completion r i tag abi st r0 r1 r2 r3).plk = s.plk := by
  unfold State.completion
  repeat' first | rfl | split | (simp; done) | dsimp only

@[simp] theorem State.completion_rgq (s : State) (r i tag abi st r0 r1 r2 r3 : Nat) : (s.completion r i tag abi st r0 r1 r2 r3).rgq = s.rgq := by
  unfold State.completion
  repeat' first | rfl | split | (simp; done) | dsimp only

@[simp] theorem State.completion_enc (s : State) (r i tag abi st r0 r1 r2 r3 : Nat) : (s.completion r i tag abi st r0 r1 r2 r3).enc = s.enc := by
  unfold State.completion
  repeat' first | rfl | split | (simp; done) | dsimp only

@[simp] theorem State.completion_esc (s : State) (r i tag abi st r0 r1 r2 r3 : Nat) : (s.completion r i tag abi st r0 r1 r2 r3).esc = s.esc := by
  unfold State.completion
  repeat' first | rfl | split | (simp; done) | dsimp only

@[simp] theorem State.completion_rgl (s : State) (r i tag abi st r0 r1 r2 r3 : Nat) : (s.completion r i tag abi st r0 r1 r2 r3).rgl = s.rgl := by
  unfold State.completion
  repeat' first | rfl | split | (simp; done) | dsimp only

@[simp] theorem State.completion_dma (s : State) (r i tag abi st r0 r1 r2 r3 : Nat) : (s.completion r i tag abi st r0 r1 r2 r3).dma = s.dma := by
  unfold State.completion
  repeat' first | rfl | split | (simp; done) | dsimp only

@[simp] theorem State.finish_variant (s : State) (j st r0 r1 r2 r3 : Nat) : (s.finish j st r0 r1 r2 r3).variant = s.variant := by
  unfold State.finish
  repeat' first | rfl | split | (simp; done) | dsimp only

@[simp] theorem State.finish_now (s : State) (j st r0 r1 r2 r3 : Nat) : (s.finish j st r0 r1 r2 r3).now = s.now := by
  unfold State.finish
  repeat' first | rfl | split | (simp; done) | dsimp only

@[simp] theorem State.finish_pending (s : State) (j st r0 r1 r2 r3 : Nat) : (s.finish j st r0 r1 r2 r3).pending = s.pending := by
  unfold State.finish
  repeat' first | rfl | split | (simp; done) | dsimp only

@[simp] theorem State.finish_pwr (s : State) (j st r0 r1 r2 r3 : Nat) : (s.finish j st r0 r1 r2 r3).pwr = s.pwr := by
  unfold State.finish
  repeat' first | rfl | split | (simp; done) | dsimp only

@[simp] theorem State.finish_dec (s : State) (j st r0 r1 r2 r3 : Nat) : (s.finish j st r0 r1 r2 r3).dec = s.dec := by
  unfold State.finish
  repeat' first | rfl | split | (simp; done) | dsimp only

@[simp] theorem State.finish_clb (s : State) (j st r0 r1 r2 r3 : Nat) : (s.finish j st r0 r1 r2 r3).clb = s.clb := by
  unfold State.finish
  repeat' first | rfl | split | (simp; done) | dsimp only

@[simp] theorem State.finish_cnv (s : State) (j st r0 r1 r2 r3 : Nat) : (s.finish j st r0 r1 r2 r3).cnv = s.cnv := by
  unfold State.finish
  repeat' first | rfl | split | (simp; done) | dsimp only

@[simp] theorem State.finish_fus (s : State) (j st r0 r1 r2 r3 : Nat) : (s.finish j st r0 r1 r2 r3).fus = s.fus := by
  unfold State.finish
  repeat' first | rfl | split | (simp; done) | dsimp only

@[simp] theorem State.finish_mze (s : State) (j st r0 r1 r2 r3 : Nat) : (s.finish j st r0 r1 r2 r3).mze = s.mze := by
  unfold State.finish
  repeat' first | rfl | split | (simp; done) | dsimp only

@[simp] theorem State.finish_swc (s : State) (j st r0 r1 r2 r3 : Nat) : (s.finish j st r0 r1 r2 r3).swc = s.swc := by
  unfold State.finish
  repeat' first | rfl | split | (simp; done) | dsimp only

@[simp] theorem State.finish_sch (s : State) (j st r0 r1 r2 r3 : Nat) : (s.finish j st r0 r1 r2 r3).sch = s.sch := by
  unfold State.finish
  repeat' first | rfl | split | (simp; done) | dsimp only

@[simp] theorem State.finish_plk (s : State) (j st r0 r1 r2 r3 : Nat) : (s.finish j st r0 r1 r2 r3).plk = s.plk := by
  unfold State.finish
  repeat' first | rfl | split | (simp; done) | dsimp only

@[simp] theorem State.finish_rgq (s : State) (j st r0 r1 r2 r3 : Nat) : (s.finish j st r0 r1 r2 r3).rgq = s.rgq := by
  unfold State.finish
  repeat' first | rfl | split | (simp; done) | dsimp only

@[simp] theorem State.finish_enc (s : State) (j st r0 r1 r2 r3 : Nat) : (s.finish j st r0 r1 r2 r3).enc = s.enc := by
  unfold State.finish
  repeat' first | rfl | split | (simp; done) | dsimp only

@[simp] theorem State.finish_esc (s : State) (j st r0 r1 r2 r3 : Nat) : (s.finish j st r0 r1 r2 r3).esc = s.esc := by
  unfold State.finish
  repeat' first | rfl | split | (simp; done) | dsimp only

@[simp] theorem State.finish_rgl (s : State) (j st r0 r1 r2 r3 : Nat) : (s.finish j st r0 r1 r2 r3).rgl = s.rgl := by
  unfold State.finish
  repeat' first | rfl | split | (simp; done) | dsimp only

@[simp] theorem State.finish_dma (s : State) (j st r0 r1 r2 r3 : Nat) : (s.finish j st r0 r1 r2 r3).dma = s.dma := by
  unfold State.finish
  repeat' first | rfl | split | (simp; done) | dsimp only

end Sys2Proof.Machine
end

