-- ==== Sys2Proof/Laws/Setters.lean ====
section
/-! SUPPORT. What each record update of the engines reads back as, and that it leaves every other part of the state alone. -/

set_option Elab.async false
set_option linter.all false

namespace Sys2Proof.Machine

@[simp] theorem State.meter_setMeter (s : State) (m : Nat) (x : Meter) : (s.setMeter m x).meter m = x := by
  simp [State.meter, State.setMeter]

theorem State.meter_setMeter_other (s : State) {m j : Nat} (x : Meter) (h : m ≠ j) : (s.setMeter m x).meter j = s.meter j := by
  simp [State.meter, State.setMeter, Tab.get_set_other _ _ _ h]

@[simp] theorem State.setMeter_variant (s : State) (m : Nat) (x : Meter) : (s.setMeter m x).variant = s.variant := rfl

@[simp] theorem State.setMeter_now (s : State) (m : Nat) (x : Meter) : (s.setMeter m x).now = s.now := rfl

@[simp] theorem State.setMeter_freeCtr (s : State) (m : Nat) (x : Meter) : (s.setMeter m x).freeCtr = s.freeCtr := rfl

@[simp] theorem State.setMeter_pending (s : State) (m : Nat) (x : Meter) : (s.setMeter m x).pending = s.pending := rfl

@[simp] theorem State.setMeter_regs (s : State) (m : Nat) (x : Meter) : (s.setMeter m x).regs = s.regs := rfl

@[simp] theorem State.setMeter_hst (s : State) (m : Nat) (x : Meter) : (s.setMeter m x).hst = s.hst := rfl

@[simp] theorem State.setMeter_pool (s : State) (m : Nat) (x : Meter) : (s.setMeter m x).pool = s.pool := rfl

@[simp] theorem State.setMeter_int (s : State) (m : Nat) (x : Meter) : (s.setMeter m x).int = s.int := rfl

@[simp] theorem State.setMeter_flt (s : State) (m : Nat) (x : Meter) : (s.setMeter m x).flt = s.flt := rfl

@[simp] theorem State.setMeter_mem (s : State) (m : Nat) (x : Meter) : (s.setMeter m x).mem = s.mem := rfl

@[simp] theorem State.setMeter_kst (s : State) (m : Nat) (x : Meter) : (s.setMeter m x).kst = s.kst := rfl

@[simp] theorem State.setMeter_pwr (s : State) (m : Nat) (x : Meter) : (s.setMeter m x).pwr = s.pwr := rfl

@[simp] theorem State.setMeter_dec (s : State) (m : Nat) (x : Meter) : (s.setMeter m x).dec = s.dec := rfl

@[simp] theorem State.setMeter_clb (s : State) (m : Nat) (x : Meter) : (s.setMeter m x).clb = s.clb := rfl

@[simp] theorem State.setMeter_cnv (s : State) (m : Nat) (x : Meter) : (s.setMeter m x).cnv = s.cnv := rfl

@[simp] theorem State.setMeter_fus (s : State) (m : Nat) (x : Meter) : (s.setMeter m x).fus = s.fus := rfl

@[simp] theorem State.setMeter_mze (s : State) (m : Nat) (x : Meter) : (s.setMeter m x).mze = s.mze := rfl

@[simp] theorem State.setMeter_swc (s : State) (m : Nat) (x : Meter) : (s.setMeter m x).swc = s.swc := rfl

@[simp] theorem State.setMeter_sch (s : State) (m : Nat) (x : Meter) : (s.setMeter m x).sch = s.sch := rfl

@[simp] theorem State.setMeter_plk (s : State) (m : Nat) (x : Meter) : (s.setMeter m x).plk = s.plk := rfl

@[simp] theorem State.setMeter_rgq (s : State) (m : Nat) (x : Meter) : (s.setMeter m x).rgq = s.rgq := rfl

@[simp] theorem State.setMeter_enc (s : State) (m : Nat) (x : Meter) : (s.setMeter m x).enc = s.enc := rfl

@[simp] theorem State.setMeter_esc (s : State) (m : Nat) (x : Meter) : (s.setMeter m x).esc = s.esc := rfl

@[simp] theorem State.setMeter_rgl (s : State) (m : Nat) (x : Meter) : (s.setMeter m x).rgl = s.rgl := rfl

@[simp] theorem State.setMeter_dma (s : State) (m : Nat) (x : Meter) : (s.setMeter m x).dma = s.dma := rfl

@[simp] theorem State.own_setOwn (s : State) (o : Nat) (x : Owner) : (s.setOwn o x).own o = x := by
  simp [State.own, State.setOwn]

theorem State.own_setOwn_other (s : State) {o j : Nat} (x : Owner) (h : o ≠ j) : (s.setOwn o x).own j = s.own j := by
  simp [State.own, State.setOwn, Tab.get_set_other _ _ _ h]

@[simp] theorem State.setOwn_variant (s : State) (o : Nat) (x : Owner) : (s.setOwn o x).variant = s.variant := rfl

@[simp] theorem State.setOwn_now (s : State) (o : Nat) (x : Owner) : (s.setOwn o x).now = s.now := rfl

@[simp] theorem State.setOwn_freeCtr (s : State) (o : Nat) (x : Owner) : (s.setOwn o x).freeCtr = s.freeCtr := rfl

@[simp] theorem State.setOwn_pending (s : State) (o : Nat) (x : Owner) : (s.setOwn o x).pending = s.pending := rfl

@[simp] theorem State.setOwn_regs (s : State) (o : Nat) (x : Owner) : (s.setOwn o x).regs = s.regs := rfl

@[simp] theorem State.setOwn_hst (s : State) (o : Nat) (x : Owner) : (s.setOwn o x).hst = s.hst := rfl

@[simp] theorem State.setOwn_rng (s : State) (o : Nat) (x : Owner) : (s.setOwn o x).rng = s.rng := rfl

@[simp] theorem State.setOwn_int (s : State) (o : Nat) (x : Owner) : (s.setOwn o x).int = s.int := rfl

@[simp] theorem State.setOwn_flt (s : State) (o : Nat) (x : Owner) : (s.setOwn o x).flt = s.flt := rfl

@[simp] theorem State.setOwn_mem (s : State) (o : Nat) (x : Owner) : (s.setOwn o x).mem = s.mem := rfl

@[simp] theorem State.setOwn_kst (s : State) (o : Nat) (x : Owner) : (s.setOwn o x).kst = s.kst := rfl

@[simp] theorem State.setOwn_pwr (s : State) (o : Nat) (x : Owner) : (s.setOwn o x).pwr = s.pwr := rfl

@[simp] theorem State.setOwn_dec (s : State) (o : Nat) (x : Owner) : (s.setOwn o x).dec = s.dec := rfl

@[simp] theorem State.setOwn_clb (s : State) (o : Nat) (x : Owner) : (s.setOwn o x).clb = s.clb := rfl

@[simp] theorem State.setOwn_cnv (s : State) (o : Nat) (x : Owner) : (s.setOwn o x).cnv = s.cnv := rfl

@[simp] theorem State.setOwn_fus (s : State) (o : Nat) (x : Owner) : (s.setOwn o x).fus = s.fus := rfl

@[simp] theorem State.setOwn_mze (s : State) (o : Nat) (x : Owner) : (s.setOwn o x).mze = s.mze := rfl

@[simp] theorem State.setOwn_swc (s : State) (o : Nat) (x : Owner) : (s.setOwn o x).swc = s.swc := rfl

@[simp] theorem State.setOwn_sch (s : State) (o : Nat) (x : Owner) : (s.setOwn o x).sch = s.sch := rfl

@[simp] theorem State.setOwn_plk (s : State) (o : Nat) (x : Owner) : (s.setOwn o x).plk = s.plk := rfl

@[simp] theorem State.setOwn_rgq (s : State) (o : Nat) (x : Owner) : (s.setOwn o x).rgq = s.rgq := rfl

@[simp] theorem State.setOwn_enc (s : State) (o : Nat) (x : Owner) : (s.setOwn o x).enc = s.enc := rfl

@[simp] theorem State.setOwn_esc (s : State) (o : Nat) (x : Owner) : (s.setOwn o x).esc = s.esc := rfl

@[simp] theorem State.setOwn_rgl (s : State) (o : Nat) (x : Owner) : (s.setOwn o x).rgl = s.rgl := rfl

@[simp] theorem State.setOwn_dma (s : State) (o : Nat) (x : Owner) : (s.setOwn o x).dma = s.dma := rfl

@[simp] theorem State.buf_setBuf (s : State) (b : Nat) (x : Buf) : (s.setBuf b x).buf b = x := by
  simp [State.buf, State.setBuf]

theorem State.buf_setBuf_other (s : State) {b j : Nat} (x : Buf) (h : b ≠ j) : (s.setBuf b x).buf j = s.buf j := by
  simp [State.buf, State.setBuf, Tab.get_set_other _ _ _ h]

@[simp] theorem State.setBuf_variant (s : State) (b : Nat) (x : Buf) : (s.setBuf b x).variant = s.variant := rfl

@[simp] theorem State.setBuf_now (s : State) (b : Nat) (x : Buf) : (s.setBuf b x).now = s.now := rfl

@[simp] theorem State.setBuf_freeCtr (s : State) (b : Nat) (x : Buf) : (s.setBuf b x).freeCtr = s.freeCtr := rfl

@[simp] theorem State.setBuf_pending (s : State) (b : Nat) (x : Buf) : (s.setBuf b x).pending = s.pending := rfl

@[simp] theorem State.setBuf_regs (s : State) (b : Nat) (x : Buf) : (s.setBuf b x).regs = s.regs := rfl

@[simp] theorem State.setBuf_hst (s : State) (b : Nat) (x : Buf) : (s.setBuf b x).hst = s.hst := rfl

@[simp] theorem State.setBuf_rng (s : State) (b : Nat) (x : Buf) : (s.setBuf b x).rng = s.rng := rfl

@[simp] theorem State.setBuf_int (s : State) (b : Nat) (x : Buf) : (s.setBuf b x).int = s.int := rfl

@[simp] theorem State.setBuf_flt (s : State) (b : Nat) (x : Buf) : (s.setBuf b x).flt = s.flt := rfl

@[simp] theorem State.setBuf_mem (s : State) (b : Nat) (x : Buf) : (s.setBuf b x).mem = s.mem := rfl

@[simp] theorem State.setBuf_kst (s : State) (b : Nat) (x : Buf) : (s.setBuf b x).kst = s.kst := rfl

@[simp] theorem State.setBuf_pwr (s : State) (b : Nat) (x : Buf) : (s.setBuf b x).pwr = s.pwr := rfl

@[simp] theorem State.setBuf_dec (s : State) (b : Nat) (x : Buf) : (s.setBuf b x).dec = s.dec := rfl

@[simp] theorem State.setBuf_clb (s : State) (b : Nat) (x : Buf) : (s.setBuf b x).clb = s.clb := rfl

@[simp] theorem State.setBuf_cnv (s : State) (b : Nat) (x : Buf) : (s.setBuf b x).cnv = s.cnv := rfl

@[simp] theorem State.setBuf_fus (s : State) (b : Nat) (x : Buf) : (s.setBuf b x).fus = s.fus := rfl

@[simp] theorem State.setBuf_mze (s : State) (b : Nat) (x : Buf) : (s.setBuf b x).mze = s.mze := rfl

@[simp] theorem State.setBuf_swc (s : State) (b : Nat) (x : Buf) : (s.setBuf b x).swc = s.swc := rfl

@[simp] theorem State.setBuf_sch (s : State) (b : Nat) (x : Buf) : (s.setBuf b x).sch = s.sch := rfl

@[simp] theorem State.setBuf_plk (s : State) (b : Nat) (x : Buf) : (s.setBuf b x).plk = s.plk := rfl

@[simp] theorem State.setBuf_rgq (s : State) (b : Nat) (x : Buf) : (s.setBuf b x).rgq = s.rgq := rfl

@[simp] theorem State.setBuf_enc (s : State) (b : Nat) (x : Buf) : (s.setBuf b x).enc = s.enc := rfl

@[simp] theorem State.setBuf_esc (s : State) (b : Nat) (x : Buf) : (s.setBuf b x).esc = s.esc := rfl

@[simp] theorem State.setBuf_rgl (s : State) (b : Nat) (x : Buf) : (s.setBuf b x).rgl = s.rgl := rfl

@[simp] theorem State.setBuf_dma (s : State) (b : Nat) (x : Buf) : (s.setBuf b x).dma = s.dma := rfl

@[simp] theorem State.dom_setDom (s : State) (d : Nat) (x : Domain) : (s.setDom d x).dom d = x := by
  simp [State.dom, State.setDom]

theorem State.dom_setDom_other (s : State) {d j : Nat} (x : Domain) (h : d ≠ j) : (s.setDom d x).dom j = s.dom j := by
  simp [State.dom, State.setDom, Tab.get_set_other _ _ _ h]

@[simp] theorem State.setDom_variant (s : State) (d : Nat) (x : Domain) : (s.setDom d x).variant = s.variant := rfl

@[simp] theorem State.setDom_now (s : State) (d : Nat) (x : Domain) : (s.setDom d x).now = s.now := rfl

@[simp] theorem State.setDom_freeCtr (s : State) (d : Nat) (x : Domain) : (s.setDom d x).freeCtr = s.freeCtr := rfl

@[simp] theorem State.setDom_pending (s : State) (d : Nat) (x : Domain) : (s.setDom d x).pending = s.pending := rfl

@[simp] theorem State.setDom_regs (s : State) (d : Nat) (x : Domain) : (s.setDom d x).regs = s.regs := rfl

@[simp] theorem State.setDom_hst (s : State) (d : Nat) (x : Domain) : (s.setDom d x).hst = s.hst := rfl

@[simp] theorem State.setDom_rng (s : State) (d : Nat) (x : Domain) : (s.setDom d x).rng = s.rng := rfl

@[simp] theorem State.setDom_pool (s : State) (d : Nat) (x : Domain) : (s.setDom d x).pool = s.pool := rfl

@[simp] theorem State.setDom_int (s : State) (d : Nat) (x : Domain) : (s.setDom d x).int = s.int := rfl

@[simp] theorem State.setDom_flt (s : State) (d : Nat) (x : Domain) : (s.setDom d x).flt = s.flt := rfl

@[simp] theorem State.setDom_mem (s : State) (d : Nat) (x : Domain) : (s.setDom d x).mem = s.mem := rfl

@[simp] theorem State.setDom_kst (s : State) (d : Nat) (x : Domain) : (s.setDom d x).kst = s.kst := rfl

@[simp] theorem State.setDom_dec (s : State) (d : Nat) (x : Domain) : (s.setDom d x).dec = s.dec := rfl

@[simp] theorem State.setDom_clb (s : State) (d : Nat) (x : Domain) : (s.setDom d x).clb = s.clb := rfl

@[simp] theorem State.setDom_cnv (s : State) (d : Nat) (x : Domain) : (s.setDom d x).cnv = s.cnv := rfl

@[simp] theorem State.setDom_fus (s : State) (d : Nat) (x : Domain) : (s.setDom d x).fus = s.fus := rfl

@[simp] theorem State.setDom_mze (s : State) (d : Nat) (x : Domain) : (s.setDom d x).mze = s.mze := rfl

@[simp] theorem State.setDom_swc (s : State) (d : Nat) (x : Domain) : (s.setDom d x).swc = s.swc := rfl

@[simp] theorem State.setDom_sch (s : State) (d : Nat) (x : Domain) : (s.setDom d x).sch = s.sch := rfl

@[simp] theorem State.setDom_plk (s : State) (d : Nat) (x : Domain) : (s.setDom d x).plk = s.plk := rfl

@[simp] theorem State.setDom_rgq (s : State) (d : Nat) (x : Domain) : (s.setDom d x).rgq = s.rgq := rfl

@[simp] theorem State.setDom_enc (s : State) (d : Nat) (x : Domain) : (s.setDom d x).enc = s.enc := rfl

@[simp] theorem State.setDom_esc (s : State) (d : Nat) (x : Domain) : (s.setDom d x).esc = s.esc := rfl

@[simp] theorem State.setDom_rgl (s : State) (d : Nat) (x : Domain) : (s.setDom d x).rgl = s.rgl := rfl

@[simp] theorem State.setDom_dma (s : State) (d : Nat) (x : Domain) : (s.setDom d x).dma = s.dma := rfl

@[simp] theorem State.stream_setStream (s : State) (st : Nat) (x : StreamRec) : (s.setStream st x).stream st = x := by
  simp [State.stream, State.setStream]

theorem State.stream_setStream_other (s : State) {st j : Nat} (x : StreamRec) (h : st ≠ j) : (s.setStream st x).stream j = s.stream j := by
  simp [State.stream, State.setStream, Tab.get_set_other _ _ _ h]

@[simp] theorem State.setStream_variant (s : State) (st : Nat) (x : StreamRec) : (s.setStream st x).variant = s.variant := rfl

@[simp] theorem State.setStream_now (s : State) (st : Nat) (x : StreamRec) : (s.setStream st x).now = s.now := rfl

@[simp] theorem State.setStream_freeCtr (s : State) (st : Nat) (x : StreamRec) : (s.setStream st x).freeCtr = s.freeCtr := rfl

@[simp] theorem State.setStream_pending (s : State) (st : Nat) (x : StreamRec) : (s.setStream st x).pending = s.pending := rfl

@[simp] theorem State.setStream_regs (s : State) (st : Nat) (x : StreamRec) : (s.setStream st x).regs = s.regs := rfl

@[simp] theorem State.setStream_hst (s : State) (st : Nat) (x : StreamRec) : (s.setStream st x).hst = s.hst := rfl

@[simp] theorem State.setStream_rng (s : State) (st : Nat) (x : StreamRec) : (s.setStream st x).rng = s.rng := rfl

@[simp] theorem State.setStream_pool (s : State) (st : Nat) (x : StreamRec) : (s.setStream st x).pool = s.pool := rfl

@[simp] theorem State.setStream_int (s : State) (st : Nat) (x : StreamRec) : (s.setStream st x).int = s.int := rfl

@[simp] theorem State.setStream_flt (s : State) (st : Nat) (x : StreamRec) : (s.setStream st x).flt = s.flt := rfl

@[simp] theorem State.setStream_mem (s : State) (st : Nat) (x : StreamRec) : (s.setStream st x).mem = s.mem := rfl

@[simp] theorem State.setStream_kst (s : State) (st : Nat) (x : StreamRec) : (s.setStream st x).kst = s.kst := rfl

@[simp] theorem State.setStream_pwr (s : State) (st : Nat) (x : StreamRec) : (s.setStream st x).pwr = s.pwr := rfl

@[simp] theorem State.setStream_clb (s : State) (st : Nat) (x : StreamRec) : (s.setStream st x).clb = s.clb := rfl

@[simp] theorem State.setStream_cnv (s : State) (st : Nat) (x : StreamRec) : (s.setStream st x).cnv = s.cnv := rfl

@[simp] theorem State.setStream_fus (s : State) (st : Nat) (x : StreamRec) : (s.setStream st x).fus = s.fus := rfl

@[simp] theorem State.setStream_mze (s : State) (st : Nat) (x : StreamRec) : (s.setStream st x).mze = s.mze := rfl

@[simp] theorem State.setStream_swc (s : State) (st : Nat) (x : StreamRec) : (s.setStream st x).swc = s.swc := rfl

@[simp] theorem State.setStream_sch (s : State) (st : Nat) (x : StreamRec) : (s.setStream st x).sch = s.sch := rfl

@[simp] theorem State.setStream_plk (s : State) (st : Nat) (x : StreamRec) : (s.setStream st x).plk = s.plk := rfl

@[simp] theorem State.setStream_rgq (s : State) (st : Nat) (x : StreamRec) : (s.setStream st x).rgq = s.rgq := rfl

@[simp] theorem State.setStream_enc (s : State) (st : Nat) (x : StreamRec) : (s.setStream st x).enc = s.enc := rfl

@[simp] theorem State.setStream_esc (s : State) (st : Nat) (x : StreamRec) : (s.setStream st x).esc = s.esc := rfl

@[simp] theorem State.setStream_rgl (s : State) (st : Nat) (x : StreamRec) : (s.setStream st x).rgl = s.rgl := rfl

@[simp] theorem State.setStream_dma (s : State) (st : Nat) (x : StreamRec) : (s.setStream st x).dma = s.dma := rfl

@[simp] theorem State.pic_setPic (s : State) (n : Nat) (x : Picture) : (s.setPic n x).pic n = x := by
  simp [State.pic, State.setPic]

theorem State.pic_setPic_other (s : State) {n j : Nat} (x : Picture) (h : n ≠ j) : (s.setPic n x).pic j = s.pic j := by
  simp [State.pic, State.setPic, Tab.get_set_other _ _ _ h]

@[simp] theorem State.setPic_variant (s : State) (n : Nat) (x : Picture) : (s.setPic n x).variant = s.variant := rfl

@[simp] theorem State.setPic_now (s : State) (n : Nat) (x : Picture) : (s.setPic n x).now = s.now := rfl

@[simp] theorem State.setPic_freeCtr (s : State) (n : Nat) (x : Picture) : (s.setPic n x).freeCtr = s.freeCtr := rfl

@[simp] theorem State.setPic_pending (s : State) (n : Nat) (x : Picture) : (s.setPic n x).pending = s.pending := rfl

@[simp] theorem State.setPic_regs (s : State) (n : Nat) (x : Picture) : (s.setPic n x).regs = s.regs := rfl

@[simp] theorem State.setPic_hst (s : State) (n : Nat) (x : Picture) : (s.setPic n x).hst = s.hst := rfl

@[simp] theorem State.setPic_rng (s : State) (n : Nat) (x : Picture) : (s.setPic n x).rng = s.rng := rfl

@[simp] theorem State.setPic_pool (s : State) (n : Nat) (x : Picture) : (s.setPic n x).pool = s.pool := rfl

@[simp] theorem State.setPic_int (s : State) (n : Nat) (x : Picture) : (s.setPic n x).int = s.int := rfl

@[simp] theorem State.setPic_flt (s : State) (n : Nat) (x : Picture) : (s.setPic n x).flt = s.flt := rfl

@[simp] theorem State.setPic_mem (s : State) (n : Nat) (x : Picture) : (s.setPic n x).mem = s.mem := rfl

@[simp] theorem State.setPic_kst (s : State) (n : Nat) (x : Picture) : (s.setPic n x).kst = s.kst := rfl

@[simp] theorem State.setPic_pwr (s : State) (n : Nat) (x : Picture) : (s.setPic n x).pwr = s.pwr := rfl

@[simp] theorem State.setPic_clb (s : State) (n : Nat) (x : Picture) : (s.setPic n x).clb = s.clb := rfl

@[simp] theorem State.setPic_cnv (s : State) (n : Nat) (x : Picture) : (s.setPic n x).cnv = s.cnv := rfl

@[simp] theorem State.setPic_fus (s : State) (n : Nat) (x : Picture) : (s.setPic n x).fus = s.fus := rfl

@[simp] theorem State.setPic_mze (s : State) (n : Nat) (x : Picture) : (s.setPic n x).mze = s.mze := rfl

@[simp] theorem State.setPic_swc (s : State) (n : Nat) (x : Picture) : (s.setPic n x).swc = s.swc := rfl

@[simp] theorem State.setPic_sch (s : State) (n : Nat) (x : Picture) : (s.setPic n x).sch = s.sch := rfl

@[simp] theorem State.setPic_plk (s : State) (n : Nat) (x : Picture) : (s.setPic n x).plk = s.plk := rfl

@[simp] theorem State.setPic_rgq (s : State) (n : Nat) (x : Picture) : (s.setPic n x).rgq = s.rgq := rfl

@[simp] theorem State.setPic_enc (s : State) (n : Nat) (x : Picture) : (s.setPic n x).enc = s.enc := rfl

@[simp] theorem State.setPic_esc (s : State) (n : Nat) (x : Picture) : (s.setPic n x).esc = s.esc := rfl

@[simp] theorem State.setPic_rgl (s : State) (n : Nat) (x : Picture) : (s.setPic n x).rgl = s.rgl := rfl

@[simp] theorem State.setPic_dma (s : State) (n : Nat) (x : Picture) : (s.setPic n x).dma = s.dma := rfl

@[simp] theorem State.core_setCore (s : State) (c : Nat) (x : DecCore) : (s.setCore c x).core c = x := by
  simp [State.core, State.setCore]

theorem State.core_setCore_other (s : State) {c j : Nat} (x : DecCore) (h : c ≠ j) : (s.setCore c x).core j = s.core j := by
  simp [State.core, State.setCore, Tab.get_set_other _ _ _ h]

@[simp] theorem State.setCore_variant (s : State) (c : Nat) (x : DecCore) : (s.setCore c x).variant = s.variant := rfl

@[simp] theorem State.setCore_now (s : State) (c : Nat) (x : DecCore) : (s.setCore c x).now = s.now := rfl

@[simp] theorem State.setCore_freeCtr (s : State) (c : Nat) (x : DecCore) : (s.setCore c x).freeCtr = s.freeCtr := rfl

@[simp] theorem State.setCore_pending (s : State) (c : Nat) (x : DecCore) : (s.setCore c x).pending = s.pending := rfl

@[simp] theorem State.setCore_regs (s : State) (c : Nat) (x : DecCore) : (s.setCore c x).regs = s.regs := rfl

@[simp] theorem State.setCore_hst (s : State) (c : Nat) (x : DecCore) : (s.setCore c x).hst = s.hst := rfl

@[simp] theorem State.setCore_rng (s : State) (c : Nat) (x : DecCore) : (s.setCore c x).rng = s.rng := rfl

@[simp] theorem State.setCore_pool (s : State) (c : Nat) (x : DecCore) : (s.setCore c x).pool = s.pool := rfl

@[simp] theorem State.setCore_int (s : State) (c : Nat) (x : DecCore) : (s.setCore c x).int = s.int := rfl

@[simp] theorem State.setCore_flt (s : State) (c : Nat) (x : DecCore) : (s.setCore c x).flt = s.flt := rfl

@[simp] theorem State.setCore_mem (s : State) (c : Nat) (x : DecCore) : (s.setCore c x).mem = s.mem := rfl

@[simp] theorem State.setCore_kst (s : State) (c : Nat) (x : DecCore) : (s.setCore c x).kst = s.kst := rfl

@[simp] theorem State.setCore_pwr (s : State) (c : Nat) (x : DecCore) : (s.setCore c x).pwr = s.pwr := rfl

@[simp] theorem State.setCore_clb (s : State) (c : Nat) (x : DecCore) : (s.setCore c x).clb = s.clb := rfl

@[simp] theorem State.setCore_cnv (s : State) (c : Nat) (x : DecCore) : (s.setCore c x).cnv = s.cnv := rfl

@[simp] theorem State.setCore_fus (s : State) (c : Nat) (x : DecCore) : (s.setCore c x).fus = s.fus := rfl

@[simp] theorem State.setCore_mze (s : State) (c : Nat) (x : DecCore) : (s.setCore c x).mze = s.mze := rfl

@[simp] theorem State.setCore_swc (s : State) (c : Nat) (x : DecCore) : (s.setCore c x).swc = s.swc := rfl

@[simp] theorem State.setCore_sch (s : State) (c : Nat) (x : DecCore) : (s.setCore c x).sch = s.sch := rfl

@[simp] theorem State.setCore_plk (s : State) (c : Nat) (x : DecCore) : (s.setCore c x).plk = s.plk := rfl

@[simp] theorem State.setCore_rgq (s : State) (c : Nat) (x : DecCore) : (s.setCore c x).rgq = s.rgq := rfl

@[simp] theorem State.setCore_enc (s : State) (c : Nat) (x : DecCore) : (s.setCore c x).enc = s.enc := rfl

@[simp] theorem State.setCore_esc (s : State) (c : Nat) (x : DecCore) : (s.setCore c x).esc = s.esc := rfl

@[simp] theorem State.setCore_rgl (s : State) (c : Nat) (x : DecCore) : (s.setCore c x).rgl = s.rgl := rfl

@[simp] theorem State.setCore_dma (s : State) (c : Nat) (x : DecCore) : (s.setCore c x).dma = s.dma := rfl

@[simp] theorem State.win_setWin (s : State) (w : Nat) (x : WinState) : (s.setWin w x).win w = x := by
  simp [State.win, State.setWin]

theorem State.win_setWin_other (s : State) {w j : Nat} (x : WinState) (h : w ≠ j) : (s.setWin w x).win j = s.win j := by
  simp [State.win, State.setWin, Tab.get_set_other _ _ _ h]

@[simp] theorem State.setWin_variant (s : State) (w : Nat) (x : WinState) : (s.setWin w x).variant = s.variant := rfl

@[simp] theorem State.setWin_now (s : State) (w : Nat) (x : WinState) : (s.setWin w x).now = s.now := rfl

@[simp] theorem State.setWin_freeCtr (s : State) (w : Nat) (x : WinState) : (s.setWin w x).freeCtr = s.freeCtr := rfl

@[simp] theorem State.setWin_pending (s : State) (w : Nat) (x : WinState) : (s.setWin w x).pending = s.pending := rfl

@[simp] theorem State.setWin_regs (s : State) (w : Nat) (x : WinState) : (s.setWin w x).regs = s.regs := rfl

@[simp] theorem State.setWin_hst (s : State) (w : Nat) (x : WinState) : (s.setWin w x).hst = s.hst := rfl

@[simp] theorem State.setWin_rng (s : State) (w : Nat) (x : WinState) : (s.setWin w x).rng = s.rng := rfl

@[simp] theorem State.setWin_pool (s : State) (w : Nat) (x : WinState) : (s.setWin w x).pool = s.pool := rfl

@[simp] theorem State.setWin_int (s : State) (w : Nat) (x : WinState) : (s.setWin w x).int = s.int := rfl

@[simp] theorem State.setWin_flt (s : State) (w : Nat) (x : WinState) : (s.setWin w x).flt = s.flt := rfl

@[simp] theorem State.setWin_mem (s : State) (w : Nat) (x : WinState) : (s.setWin w x).mem = s.mem := rfl

@[simp] theorem State.setWin_kst (s : State) (w : Nat) (x : WinState) : (s.setWin w x).kst = s.kst := rfl

@[simp] theorem State.setWin_pwr (s : State) (w : Nat) (x : WinState) : (s.setWin w x).pwr = s.pwr := rfl

@[simp] theorem State.setWin_dec (s : State) (w : Nat) (x : WinState) : (s.setWin w x).dec = s.dec := rfl

@[simp] theorem State.setWin_clb (s : State) (w : Nat) (x : WinState) : (s.setWin w x).clb = s.clb := rfl

@[simp] theorem State.setWin_fus (s : State) (w : Nat) (x : WinState) : (s.setWin w x).fus = s.fus := rfl

@[simp] theorem State.setWin_mze (s : State) (w : Nat) (x : WinState) : (s.setWin w x).mze = s.mze := rfl

@[simp] theorem State.setWin_swc (s : State) (w : Nat) (x : WinState) : (s.setWin w x).swc = s.swc := rfl

@[simp] theorem State.setWin_sch (s : State) (w : Nat) (x : WinState) : (s.setWin w x).sch = s.sch := rfl

@[simp] theorem State.setWin_plk (s : State) (w : Nat) (x : WinState) : (s.setWin w x).plk = s.plk := rfl

@[simp] theorem State.setWin_rgq (s : State) (w : Nat) (x : WinState) : (s.setWin w x).rgq = s.rgq := rfl

@[simp] theorem State.setWin_enc (s : State) (w : Nat) (x : WinState) : (s.setWin w x).enc = s.enc := rfl

@[simp] theorem State.setWin_esc (s : State) (w : Nat) (x : WinState) : (s.setWin w x).esc = s.esc := rfl

@[simp] theorem State.setWin_rgl (s : State) (w : Nat) (x : WinState) : (s.setWin w x).rgl = s.rgl := rfl

@[simp] theorem State.setWin_dma (s : State) (w : Nat) (x : WinState) : (s.setWin w x).dma = s.dma := rfl

@[simp] theorem State.circ_setCirc (s : State) (c : Nat) (x : Circuit) : (s.setCirc c x).circ c = x := by
  simp [State.circ, State.setCirc]

theorem State.circ_setCirc_other (s : State) {c j : Nat} (x : Circuit) (h : c ≠ j) : (s.setCirc c x).circ j = s.circ j := by
  simp [State.circ, State.setCirc, Tab.get_set_other _ _ _ h]

@[simp] theorem State.setCirc_variant (s : State) (c : Nat) (x : Circuit) : (s.setCirc c x).variant = s.variant := rfl

@[simp] theorem State.setCirc_now (s : State) (c : Nat) (x : Circuit) : (s.setCirc c x).now = s.now := rfl

@[simp] theorem State.setCirc_freeCtr (s : State) (c : Nat) (x : Circuit) : (s.setCirc c x).freeCtr = s.freeCtr := rfl

@[simp] theorem State.setCirc_pending (s : State) (c : Nat) (x : Circuit) : (s.setCirc c x).pending = s.pending := rfl

@[simp] theorem State.setCirc_regs (s : State) (c : Nat) (x : Circuit) : (s.setCirc c x).regs = s.regs := rfl

@[simp] theorem State.setCirc_hst (s : State) (c : Nat) (x : Circuit) : (s.setCirc c x).hst = s.hst := rfl

@[simp] theorem State.setCirc_rng (s : State) (c : Nat) (x : Circuit) : (s.setCirc c x).rng = s.rng := rfl

@[simp] theorem State.setCirc_pool (s : State) (c : Nat) (x : Circuit) : (s.setCirc c x).pool = s.pool := rfl

@[simp] theorem State.setCirc_int (s : State) (c : Nat) (x : Circuit) : (s.setCirc c x).int = s.int := rfl

@[simp] theorem State.setCirc_flt (s : State) (c : Nat) (x : Circuit) : (s.setCirc c x).flt = s.flt := rfl

@[simp] theorem State.setCirc_mem (s : State) (c : Nat) (x : Circuit) : (s.setCirc c x).mem = s.mem := rfl

@[simp] theorem State.setCirc_kst (s : State) (c : Nat) (x : Circuit) : (s.setCirc c x).kst = s.kst := rfl

@[simp] theorem State.setCirc_pwr (s : State) (c : Nat) (x : Circuit) : (s.setCirc c x).pwr = s.pwr := rfl

@[simp] theorem State.setCirc_dec (s : State) (c : Nat) (x : Circuit) : (s.setCirc c x).dec = s.dec := rfl

@[simp] theorem State.setCirc_clb (s : State) (c : Nat) (x : Circuit) : (s.setCirc c x).clb = s.clb := rfl

@[simp] theorem State.setCirc_cnv (s : State) (c : Nat) (x : Circuit) : (s.setCirc c x).cnv = s.cnv := rfl

@[simp] theorem State.setCirc_mze (s : State) (c : Nat) (x : Circuit) : (s.setCirc c x).mze = s.mze := rfl

@[simp] theorem State.setCirc_swc (s : State) (c : Nat) (x : Circuit) : (s.setCirc c x).swc = s.swc := rfl

@[simp] theorem State.setCirc_sch (s : State) (c : Nat) (x : Circuit) : (s.setCirc c x).sch = s.sch := rfl

@[simp] theorem State.setCirc_plk (s : State) (c : Nat) (x : Circuit) : (s.setCirc c x).plk = s.plk := rfl

@[simp] theorem State.setCirc_rgq (s : State) (c : Nat) (x : Circuit) : (s.setCirc c x).rgq = s.rgq := rfl

@[simp] theorem State.setCirc_enc (s : State) (c : Nat) (x : Circuit) : (s.setCirc c x).enc = s.enc := rfl

@[simp] theorem State.setCirc_esc (s : State) (c : Nat) (x : Circuit) : (s.setCirc c x).esc = s.esc := rfl

@[simp] theorem State.setCirc_rgl (s : State) (c : Nat) (x : Circuit) : (s.setCirc c x).rgl = s.rgl := rfl

@[simp] theorem State.setCirc_dma (s : State) (c : Nat) (x : Circuit) : (s.setCirc c x).dma = s.dma := rfl

@[simp] theorem State.mzt_setMzt (s : State) (t : Nat) (x : MzeTile) : (s.setMzt t x).mzt t = x := by
  simp [State.mzt, State.setMzt]

theorem State.mzt_setMzt_other (s : State) {t j : Nat} (x : MzeTile) (h : t ≠ j) : (s.setMzt t x).mzt j = s.mzt j := by
  simp [State.mzt, State.setMzt, Tab.get_set_other _ _ _ h]

@[simp] theorem State.setMzt_variant (s : State) (t : Nat) (x : MzeTile) : (s.setMzt t x).variant = s.variant := rfl

@[simp] theorem State.setMzt_now (s : State) (t : Nat) (x : MzeTile) : (s.setMzt t x).now = s.now := rfl

@[simp] theorem State.setMzt_freeCtr (s : State) (t : Nat) (x : MzeTile) : (s.setMzt t x).freeCtr = s.freeCtr := rfl

@[simp] theorem State.setMzt_pending (s : State) (t : Nat) (x : MzeTile) : (s.setMzt t x).pending = s.pending := rfl

@[simp] theorem State.setMzt_regs (s : State) (t : Nat) (x : MzeTile) : (s.setMzt t x).regs = s.regs := rfl

@[simp] theorem State.setMzt_hst (s : State) (t : Nat) (x : MzeTile) : (s.setMzt t x).hst = s.hst := rfl

@[simp] theorem State.setMzt_rng (s : State) (t : Nat) (x : MzeTile) : (s.setMzt t x).rng = s.rng := rfl

@[simp] theorem State.setMzt_pool (s : State) (t : Nat) (x : MzeTile) : (s.setMzt t x).pool = s.pool := rfl

@[simp] theorem State.setMzt_int (s : State) (t : Nat) (x : MzeTile) : (s.setMzt t x).int = s.int := rfl

@[simp] theorem State.setMzt_flt (s : State) (t : Nat) (x : MzeTile) : (s.setMzt t x).flt = s.flt := rfl

@[simp] theorem State.setMzt_mem (s : State) (t : Nat) (x : MzeTile) : (s.setMzt t x).mem = s.mem := rfl

@[simp] theorem State.setMzt_kst (s : State) (t : Nat) (x : MzeTile) : (s.setMzt t x).kst = s.kst := rfl

@[simp] theorem State.setMzt_pwr (s : State) (t : Nat) (x : MzeTile) : (s.setMzt t x).pwr = s.pwr := rfl

@[simp] theorem State.setMzt_dec (s : State) (t : Nat) (x : MzeTile) : (s.setMzt t x).dec = s.dec := rfl

@[simp] theorem State.setMzt_clb (s : State) (t : Nat) (x : MzeTile) : (s.setMzt t x).clb = s.clb := rfl

@[simp] theorem State.setMzt_cnv (s : State) (t : Nat) (x : MzeTile) : (s.setMzt t x).cnv = s.cnv := rfl

@[simp] theorem State.setMzt_fus (s : State) (t : Nat) (x : MzeTile) : (s.setMzt t x).fus = s.fus := rfl

@[simp] theorem State.setMzt_swc (s : State) (t : Nat) (x : MzeTile) : (s.setMzt t x).swc = s.swc := rfl

@[simp] theorem State.setMzt_sch (s : State) (t : Nat) (x : MzeTile) : (s.setMzt t x).sch = s.sch := rfl

@[simp] theorem State.setMzt_plk (s : State) (t : Nat) (x : MzeTile) : (s.setMzt t x).plk = s.plk := rfl

@[simp] theorem State.setMzt_rgq (s : State) (t : Nat) (x : MzeTile) : (s.setMzt t x).rgq = s.rgq := rfl

@[simp] theorem State.setMzt_enc (s : State) (t : Nat) (x : MzeTile) : (s.setMzt t x).enc = s.enc := rfl

@[simp] theorem State.setMzt_esc (s : State) (t : Nat) (x : MzeTile) : (s.setMzt t x).esc = s.esc := rfl

@[simp] theorem State.setMzt_rgl (s : State) (t : Nat) (x : MzeTile) : (s.setMzt t x).rgl = s.rgl := rfl

@[simp] theorem State.setMzt_dma (s : State) (t : Nat) (x : MzeTile) : (s.setMzt t x).dma = s.dma := rfl

@[simp] theorem State.mzc_setMzc (s : State) (c : Nat) (x : MzeCore) : (s.setMzc c x).mzc c = x := by
  simp [State.mzc, State.setMzc]

theorem State.mzc_setMzc_other (s : State) {c j : Nat} (x : MzeCore) (h : c ≠ j) : (s.setMzc c x).mzc j = s.mzc j := by
  simp [State.mzc, State.setMzc, Tab.get_set_other _ _ _ h]

@[simp] theorem State.setMzc_variant (s : State) (c : Nat) (x : MzeCore) : (s.setMzc c x).variant = s.variant := rfl

@[simp] theorem State.setMzc_now (s : State) (c : Nat) (x : MzeCore) : (s.setMzc c x).now = s.now := rfl

@[simp] theorem State.setMzc_freeCtr (s : State) (c : Nat) (x : MzeCore) : (s.setMzc c x).freeCtr = s.freeCtr := rfl

@[simp] theorem State.setMzc_pending (s : State) (c : Nat) (x : MzeCore) : (s.setMzc c x).pending = s.pending := rfl

@[simp] theorem State.setMzc_regs (s : State) (c : Nat) (x : MzeCore) : (s.setMzc c x).regs = s.regs := rfl

@[simp] theorem State.setMzc_hst (s : State) (c : Nat) (x : MzeCore) : (s.setMzc c x).hst = s.hst := rfl

@[simp] theorem State.setMzc_rng (s : State) (c : Nat) (x : MzeCore) : (s.setMzc c x).rng = s.rng := rfl

@[simp] theorem State.setMzc_pool (s : State) (c : Nat) (x : MzeCore) : (s.setMzc c x).pool = s.pool := rfl

@[simp] theorem State.setMzc_int (s : State) (c : Nat) (x : MzeCore) : (s.setMzc c x).int = s.int := rfl

@[simp] theorem State.setMzc_flt (s : State) (c : Nat) (x : MzeCore) : (s.setMzc c x).flt = s.flt := rfl

@[simp] theorem State.setMzc_mem (s : State) (c : Nat) (x : MzeCore) : (s.setMzc c x).mem = s.mem := rfl

@[simp] theorem State.setMzc_kst (s : State) (c : Nat) (x : MzeCore) : (s.setMzc c x).kst = s.kst := rfl

@[simp] theorem State.setMzc_pwr (s : State) (c : Nat) (x : MzeCore) : (s.setMzc c x).pwr = s.pwr := rfl

@[simp] theorem State.setMzc_dec (s : State) (c : Nat) (x : MzeCore) : (s.setMzc c x).dec = s.dec := rfl

@[simp] theorem State.setMzc_clb (s : State) (c : Nat) (x : MzeCore) : (s.setMzc c x).clb = s.clb := rfl

@[simp] theorem State.setMzc_cnv (s : State) (c : Nat) (x : MzeCore) : (s.setMzc c x).cnv = s.cnv := rfl

@[simp] theorem State.setMzc_fus (s : State) (c : Nat) (x : MzeCore) : (s.setMzc c x).fus = s.fus := rfl

@[simp] theorem State.setMzc_swc (s : State) (c : Nat) (x : MzeCore) : (s.setMzc c x).swc = s.swc := rfl

@[simp] theorem State.setMzc_sch (s : State) (c : Nat) (x : MzeCore) : (s.setMzc c x).sch = s.sch := rfl

@[simp] theorem State.setMzc_plk (s : State) (c : Nat) (x : MzeCore) : (s.setMzc c x).plk = s.plk := rfl

@[simp] theorem State.setMzc_rgq (s : State) (c : Nat) (x : MzeCore) : (s.setMzc c x).rgq = s.rgq := rfl

@[simp] theorem State.setMzc_enc (s : State) (c : Nat) (x : MzeCore) : (s.setMzc c x).enc = s.enc := rfl

@[simp] theorem State.setMzc_esc (s : State) (c : Nat) (x : MzeCore) : (s.setMzc c x).esc = s.esc := rfl

@[simp] theorem State.setMzc_rgl (s : State) (c : Nat) (x : MzeCore) : (s.setMzc c x).rgl = s.rgl := rfl

@[simp] theorem State.setMzc_dma (s : State) (c : Nat) (x : MzeCore) : (s.setMzc c x).dma = s.dma := rfl

@[simp] theorem State.swin_setSwin (s : State) (i : Nat) (x : SwIn) : (s.setSwin i x).swin i = x := by
  simp [State.swin, State.setSwin]

theorem State.swin_setSwin_other (s : State) {i j : Nat} (x : SwIn) (h : i ≠ j) : (s.setSwin i x).swin j = s.swin j := by
  simp [State.swin, State.setSwin, Tab.get_set_other _ _ _ h]

@[simp] theorem State.setSwin_variant (s : State) (i : Nat) (x : SwIn) : (s.setSwin i x).variant = s.variant := rfl

@[simp] theorem State.setSwin_now (s : State) (i : Nat) (x : SwIn) : (s.setSwin i x).now = s.now := rfl

@[simp] theorem State.setSwin_freeCtr (s : State) (i : Nat) (x : SwIn) : (s.setSwin i x).freeCtr = s.freeCtr := rfl

@[simp] theorem State.setSwin_pending (s : State) (i : Nat) (x : SwIn) : (s.setSwin i x).pending = s.pending := rfl

@[simp] theorem State.setSwin_regs (s : State) (i : Nat) (x : SwIn) : (s.setSwin i x).regs = s.regs := rfl

@[simp] theorem State.setSwin_hst (s : State) (i : Nat) (x : SwIn) : (s.setSwin i x).hst = s.hst := rfl

@[simp] theorem State.setSwin_rng (s : State) (i : Nat) (x : SwIn) : (s.setSwin i x).rng = s.rng := rfl

@[simp] theorem State.setSwin_pool (s : State) (i : Nat) (x : SwIn) : (s.setSwin i x).pool = s.pool := rfl

@[simp] theorem State.setSwin_int (s : State) (i : Nat) (x : SwIn) : (s.setSwin i x).int = s.int := rfl

@[simp] theorem State.setSwin_flt (s : State) (i : Nat) (x : SwIn) : (s.setSwin i x).flt = s.flt := rfl

@[simp] theorem State.setSwin_mem (s : State) (i : Nat) (x : SwIn) : (s.setSwin i x).mem = s.mem := rfl

@[simp] theorem State.setSwin_kst (s : State) (i : Nat) (x : SwIn) : (s.setSwin i x).kst = s.kst := rfl

@[simp] theorem State.setSwin_pwr (s : State) (i : Nat) (x : SwIn) : (s.setSwin i x).pwr = s.pwr := rfl

@[simp] theorem State.setSwin_dec (s : State) (i : Nat) (x : SwIn) : (s.setSwin i x).dec = s.dec := rfl

@[simp] theorem State.setSwin_clb (s : State) (i : Nat) (x : SwIn) : (s.setSwin i x).clb = s.clb := rfl

@[simp] theorem State.setSwin_cnv (s : State) (i : Nat) (x : SwIn) : (s.setSwin i x).cnv = s.cnv := rfl

@[simp] theorem State.setSwin_fus (s : State) (i : Nat) (x : SwIn) : (s.setSwin i x).fus = s.fus := rfl

@[simp] theorem State.setSwin_mze (s : State) (i : Nat) (x : SwIn) : (s.setSwin i x).mze = s.mze := rfl

@[simp] theorem State.setSwin_sch (s : State) (i : Nat) (x : SwIn) : (s.setSwin i x).sch = s.sch := rfl

@[simp] theorem State.setSwin_plk (s : State) (i : Nat) (x : SwIn) : (s.setSwin i x).plk = s.plk := rfl

@[simp] theorem State.setSwin_rgq (s : State) (i : Nat) (x : SwIn) : (s.setSwin i x).rgq = s.rgq := rfl

@[simp] theorem State.setSwin_enc (s : State) (i : Nat) (x : SwIn) : (s.setSwin i x).enc = s.enc := rfl

@[simp] theorem State.setSwin_esc (s : State) (i : Nat) (x : SwIn) : (s.setSwin i x).esc = s.esc := rfl

@[simp] theorem State.setSwin_rgl (s : State) (i : Nat) (x : SwIn) : (s.setSwin i x).rgl = s.rgl := rfl

@[simp] theorem State.setSwin_dma (s : State) (i : Nat) (x : SwIn) : (s.setSwin i x).dma = s.dma := rfl

@[simp] theorem State.swout_setSwout (s : State) (o : Nat) (x : SwOut) : (s.setSwout o x).swout o = x := by
  simp [State.swout, State.setSwout]

theorem State.swout_setSwout_other (s : State) {o j : Nat} (x : SwOut) (h : o ≠ j) : (s.setSwout o x).swout j = s.swout j := by
  simp [State.swout, State.setSwout, Tab.get_set_other _ _ _ h]

@[simp] theorem State.setSwout_variant (s : State) (o : Nat) (x : SwOut) : (s.setSwout o x).variant = s.variant := rfl

@[simp] theorem State.setSwout_now (s : State) (o : Nat) (x : SwOut) : (s.setSwout o x).now = s.now := rfl

@[simp] theorem State.setSwout_freeCtr (s : State) (o : Nat) (x : SwOut) : (s.setSwout o x).freeCtr = s.freeCtr := rfl

@[simp] theorem State.setSwout_pending (s : State) (o : Nat) (x : SwOut) : (s.setSwout o x).pending = s.pending := rfl

@[simp] theorem State.setSwout_regs (s : State) (o : Nat) (x : SwOut) : (s.setSwout o x).regs = s.regs := rfl

@[simp] theorem State.setSwout_hst (s : State) (o : Nat) (x : SwOut) : (s.setSwout o x).hst = s.hst := rfl

@[simp] theorem State.setSwout_rng (s : State) (o : Nat) (x : SwOut) : (s.setSwout o x).rng = s.rng := rfl

@[simp] theorem State.setSwout_pool (s : State) (o : Nat) (x : SwOut) : (s.setSwout o x).pool = s.pool := rfl

@[simp] theorem State.setSwout_int (s : State) (o : Nat) (x : SwOut) : (s.setSwout o x).int = s.int := rfl

@[simp] theorem State.setSwout_flt (s : State) (o : Nat) (x : SwOut) : (s.setSwout o x).flt = s.flt := rfl

@[simp] theorem State.setSwout_mem (s : State) (o : Nat) (x : SwOut) : (s.setSwout o x).mem = s.mem := rfl

@[simp] theorem State.setSwout_kst (s : State) (o : Nat) (x : SwOut) : (s.setSwout o x).kst = s.kst := rfl

@[simp] theorem State.setSwout_pwr (s : State) (o : Nat) (x : SwOut) : (s.setSwout o x).pwr = s.pwr := rfl

@[simp] theorem State.setSwout_dec (s : State) (o : Nat) (x : SwOut) : (s.setSwout o x).dec = s.dec := rfl

@[simp] theorem State.setSwout_clb (s : State) (o : Nat) (x : SwOut) : (s.setSwout o x).clb = s.clb := rfl

@[simp] theorem State.setSwout_cnv (s : State) (o : Nat) (x : SwOut) : (s.setSwout o x).cnv = s.cnv := rfl

@[simp] theorem State.setSwout_fus (s : State) (o : Nat) (x : SwOut) : (s.setSwout o x).fus = s.fus := rfl

@[simp] theorem State.setSwout_mze (s : State) (o : Nat) (x : SwOut) : (s.setSwout o x).mze = s.mze := rfl

@[simp] theorem State.setSwout_sch (s : State) (o : Nat) (x : SwOut) : (s.setSwout o x).sch = s.sch := rfl

@[simp] theorem State.setSwout_plk (s : State) (o : Nat) (x : SwOut) : (s.setSwout o x).plk = s.plk := rfl

@[simp] theorem State.setSwout_rgq (s : State) (o : Nat) (x : SwOut) : (s.setSwout o x).rgq = s.rgq := rfl

@[simp] theorem State.setSwout_enc (s : State) (o : Nat) (x : SwOut) : (s.setSwout o x).enc = s.enc := rfl

@[simp] theorem State.setSwout_esc (s : State) (o : Nat) (x : SwOut) : (s.setSwout o x).esc = s.esc := rfl

@[simp] theorem State.setSwout_rgl (s : State) (o : Nat) (x : SwOut) : (s.setSwout o x).rgl = s.rgl := rfl

@[simp] theorem State.setSwout_dma (s : State) (o : Nat) (x : SwOut) : (s.setSwout o x).dma = s.dma := rfl

@[simp] theorem State.sport_setSport (s : State) (p : Nat) (x : SchPort) : (s.setSport p x).sport p = x := by
  simp [State.sport, State.setSport]

theorem State.sport_setSport_other (s : State) {p j : Nat} (x : SchPort) (h : p ≠ j) : (s.setSport p x).sport j = s.sport j := by
  simp [State.sport, State.setSport, Tab.get_set_other _ _ _ h]

@[simp] theorem State.setSport_variant (s : State) (p : Nat) (x : SchPort) : (s.setSport p x).variant = s.variant := rfl

@[simp] theorem State.setSport_now (s : State) (p : Nat) (x : SchPort) : (s.setSport p x).now = s.now := rfl

@[simp] theorem State.setSport_freeCtr (s : State) (p : Nat) (x : SchPort) : (s.setSport p x).freeCtr = s.freeCtr := rfl

@[simp] theorem State.setSport_pending (s : State) (p : Nat) (x : SchPort) : (s.setSport p x).pending = s.pending := rfl

@[simp] theorem State.setSport_regs (s : State) (p : Nat) (x : SchPort) : (s.setSport p x).regs = s.regs := rfl

@[simp] theorem State.setSport_hst (s : State) (p : Nat) (x : SchPort) : (s.setSport p x).hst = s.hst := rfl

@[simp] theorem State.setSport_rng (s : State) (p : Nat) (x : SchPort) : (s.setSport p x).rng = s.rng := rfl

@[simp] theorem State.setSport_pool (s : State) (p : Nat) (x : SchPort) : (s.setSport p x).pool = s.pool := rfl

@[simp] theorem State.setSport_int (s : State) (p : Nat) (x : SchPort) : (s.setSport p x).int = s.int := rfl

@[simp] theorem State.setSport_flt (s : State) (p : Nat) (x : SchPort) : (s.setSport p x).flt = s.flt := rfl

@[simp] theorem State.setSport_mem (s : State) (p : Nat) (x : SchPort) : (s.setSport p x).mem = s.mem := rfl

@[simp] theorem State.setSport_kst (s : State) (p : Nat) (x : SchPort) : (s.setSport p x).kst = s.kst := rfl

@[simp] theorem State.setSport_pwr (s : State) (p : Nat) (x : SchPort) : (s.setSport p x).pwr = s.pwr := rfl

@[simp] theorem State.setSport_dec (s : State) (p : Nat) (x : SchPort) : (s.setSport p x).dec = s.dec := rfl

@[simp] theorem State.setSport_clb (s : State) (p : Nat) (x : SchPort) : (s.setSport p x).clb = s.clb := rfl

@[simp] theorem State.setSport_cnv (s : State) (p : Nat) (x : SchPort) : (s.setSport p x).cnv = s.cnv := rfl

@[simp] theorem State.setSport_fus (s : State) (p : Nat) (x : SchPort) : (s.setSport p x).fus = s.fus := rfl

@[simp] theorem State.setSport_mze (s : State) (p : Nat) (x : SchPort) : (s.setSport p x).mze = s.mze := rfl

@[simp] theorem State.setSport_swc (s : State) (p : Nat) (x : SchPort) : (s.setSport p x).swc = s.swc := rfl

@[simp] theorem State.setSport_plk (s : State) (p : Nat) (x : SchPort) : (s.setSport p x).plk = s.plk := rfl

@[simp] theorem State.setSport_rgq (s : State) (p : Nat) (x : SchPort) : (s.setSport p x).rgq = s.rgq := rfl

@[simp] theorem State.setSport_enc (s : State) (p : Nat) (x : SchPort) : (s.setSport p x).enc = s.enc := rfl

@[simp] theorem State.setSport_esc (s : State) (p : Nat) (x : SchPort) : (s.setSport p x).esc = s.esc := rfl

@[simp] theorem State.setSport_rgl (s : State) (p : Nat) (x : SchPort) : (s.setSport p x).rgl = s.rgl := rfl

@[simp] theorem State.setSport_dma (s : State) (p : Nat) (x : SchPort) : (s.setSport p x).dma = s.dma := rfl

@[simp] theorem State.port_setPort (s : State) (p : Nat) (x : PlkPort) : (s.setPort p x).port p = x := by
  simp [State.port, State.setPort]

theorem State.port_setPort_other (s : State) {p j : Nat} (x : PlkPort) (h : p ≠ j) : (s.setPort p x).port j = s.port j := by
  simp [State.port, State.setPort, Tab.get_set_other _ _ _ h]

@[simp] theorem State.setPort_variant (s : State) (p : Nat) (x : PlkPort) : (s.setPort p x).variant = s.variant := rfl

@[simp] theorem State.setPort_now (s : State) (p : Nat) (x : PlkPort) : (s.setPort p x).now = s.now := rfl

@[simp] theorem State.setPort_freeCtr (s : State) (p : Nat) (x : PlkPort) : (s.setPort p x).freeCtr = s.freeCtr := rfl

@[simp] theorem State.setPort_pending (s : State) (p : Nat) (x : PlkPort) : (s.setPort p x).pending = s.pending := rfl

@[simp] theorem State.setPort_regs (s : State) (p : Nat) (x : PlkPort) : (s.setPort p x).regs = s.regs := rfl

@[simp] theorem State.setPort_hst (s : State) (p : Nat) (x : PlkPort) : (s.setPort p x).hst = s.hst := rfl

@[simp] theorem State.setPort_rng (s : State) (p : Nat) (x : PlkPort) : (s.setPort p x).rng = s.rng := rfl

@[simp] theorem State.setPort_pool (s : State) (p : Nat) (x : PlkPort) : (s.setPort p x).pool = s.pool := rfl

@[simp] theorem State.setPort_int (s : State) (p : Nat) (x : PlkPort) : (s.setPort p x).int = s.int := rfl

@[simp] theorem State.setPort_flt (s : State) (p : Nat) (x : PlkPort) : (s.setPort p x).flt = s.flt := rfl

@[simp] theorem State.setPort_mem (s : State) (p : Nat) (x : PlkPort) : (s.setPort p x).mem = s.mem := rfl

@[simp] theorem State.setPort_kst (s : State) (p : Nat) (x : PlkPort) : (s.setPort p x).kst = s.kst := rfl

@[simp] theorem State.setPort_pwr (s : State) (p : Nat) (x : PlkPort) : (s.setPort p x).pwr = s.pwr := rfl

@[simp] theorem State.setPort_dec (s : State) (p : Nat) (x : PlkPort) : (s.setPort p x).dec = s.dec := rfl

@[simp] theorem State.setPort_clb (s : State) (p : Nat) (x : PlkPort) : (s.setPort p x).clb = s.clb := rfl

@[simp] theorem State.setPort_cnv (s : State) (p : Nat) (x : PlkPort) : (s.setPort p x).cnv = s.cnv := rfl

@[simp] theorem State.setPort_fus (s : State) (p : Nat) (x : PlkPort) : (s.setPort p x).fus = s.fus := rfl

@[simp] theorem State.setPort_mze (s : State) (p : Nat) (x : PlkPort) : (s.setPort p x).mze = s.mze := rfl

@[simp] theorem State.setPort_swc (s : State) (p : Nat) (x : PlkPort) : (s.setPort p x).swc = s.swc := rfl

@[simp] theorem State.setPort_sch (s : State) (p : Nat) (x : PlkPort) : (s.setPort p x).sch = s.sch := rfl

@[simp] theorem State.setPort_rgq (s : State) (p : Nat) (x : PlkPort) : (s.setPort p x).rgq = s.rgq := rfl

@[simp] theorem State.setPort_enc (s : State) (p : Nat) (x : PlkPort) : (s.setPort p x).enc = s.enc := rfl

@[simp] theorem State.setPort_esc (s : State) (p : Nat) (x : PlkPort) : (s.setPort p x).esc = s.esc := rfl

@[simp] theorem State.setPort_rgl (s : State) (p : Nat) (x : PlkPort) : (s.setPort p x).rgl = s.rgl := rfl

@[simp] theorem State.setPort_dma (s : State) (p : Nat) (x : PlkPort) : (s.setPort p x).dma = s.dma := rfl

@[simp] theorem State.lane_setLane (s : State) (l : Nat) (x : Lane) : (s.setLane l x).lane l = x := by
  simp [State.lane, State.setLane]

theorem State.lane_setLane_other (s : State) {l j : Nat} (x : Lane) (h : l ≠ j) : (s.setLane l x).lane j = s.lane j := by
  simp [State.lane, State.setLane, Tab.get_set_other _ _ _ h]

@[simp] theorem State.setLane_variant (s : State) (l : Nat) (x : Lane) : (s.setLane l x).variant = s.variant := rfl

@[simp] theorem State.setLane_now (s : State) (l : Nat) (x : Lane) : (s.setLane l x).now = s.now := rfl

@[simp] theorem State.setLane_freeCtr (s : State) (l : Nat) (x : Lane) : (s.setLane l x).freeCtr = s.freeCtr := rfl

@[simp] theorem State.setLane_pending (s : State) (l : Nat) (x : Lane) : (s.setLane l x).pending = s.pending := rfl

@[simp] theorem State.setLane_regs (s : State) (l : Nat) (x : Lane) : (s.setLane l x).regs = s.regs := rfl

@[simp] theorem State.setLane_hst (s : State) (l : Nat) (x : Lane) : (s.setLane l x).hst = s.hst := rfl

@[simp] theorem State.setLane_rng (s : State) (l : Nat) (x : Lane) : (s.setLane l x).rng = s.rng := rfl

@[simp] theorem State.setLane_pool (s : State) (l : Nat) (x : Lane) : (s.setLane l x).pool = s.pool := rfl

@[simp] theorem State.setLane_int (s : State) (l : Nat) (x : Lane) : (s.setLane l x).int = s.int := rfl

@[simp] theorem State.setLane_flt (s : State) (l : Nat) (x : Lane) : (s.setLane l x).flt = s.flt := rfl

@[simp] theorem State.setLane_mem (s : State) (l : Nat) (x : Lane) : (s.setLane l x).mem = s.mem := rfl

@[simp] theorem State.setLane_kst (s : State) (l : Nat) (x : Lane) : (s.setLane l x).kst = s.kst := rfl

@[simp] theorem State.setLane_pwr (s : State) (l : Nat) (x : Lane) : (s.setLane l x).pwr = s.pwr := rfl

@[simp] theorem State.setLane_dec (s : State) (l : Nat) (x : Lane) : (s.setLane l x).dec = s.dec := rfl

@[simp] theorem State.setLane_clb (s : State) (l : Nat) (x : Lane) : (s.setLane l x).clb = s.clb := rfl

@[simp] theorem State.setLane_cnv (s : State) (l : Nat) (x : Lane) : (s.setLane l x).cnv = s.cnv := rfl

@[simp] theorem State.setLane_fus (s : State) (l : Nat) (x : Lane) : (s.setLane l x).fus = s.fus := rfl

@[simp] theorem State.setLane_mze (s : State) (l : Nat) (x : Lane) : (s.setLane l x).mze = s.mze := rfl

@[simp] theorem State.setLane_swc (s : State) (l : Nat) (x : Lane) : (s.setLane l x).swc = s.swc := rfl

@[simp] theorem State.setLane_sch (s : State) (l : Nat) (x : Lane) : (s.setLane l x).sch = s.sch := rfl

@[simp] theorem State.setLane_rgq (s : State) (l : Nat) (x : Lane) : (s.setLane l x).rgq = s.rgq := rfl

@[simp] theorem State.setLane_enc (s : State) (l : Nat) (x : Lane) : (s.setLane l x).enc = s.enc := rfl

@[simp] theorem State.setLane_esc (s : State) (l : Nat) (x : Lane) : (s.setLane l x).esc = s.esc := rfl

@[simp] theorem State.setLane_rgl (s : State) (l : Nat) (x : Lane) : (s.setLane l x).rgl = s.rgl := rfl

@[simp] theorem State.setLane_dma (s : State) (l : Nat) (x : Lane) : (s.setLane l x).dma = s.dma := rfl

@[simp] theorem State.rglQ_setRglQ (s : State) (g : Nat) (x : RglQueues) : (s.setRglQ g x).rglQ g = x := by
  simp [State.rglQ, State.setRglQ]

theorem State.rglQ_setRglQ_other (s : State) {g j : Nat} (x : RglQueues) (h : g ≠ j) : (s.setRglQ g x).rglQ j = s.rglQ j := by
  simp [State.rglQ, State.setRglQ, Tab.get_set_other _ _ _ h]

@[simp] theorem State.setRglQ_variant (s : State) (g : Nat) (x : RglQueues) : (s.setRglQ g x).variant = s.variant := rfl

@[simp] theorem State.setRglQ_now (s : State) (g : Nat) (x : RglQueues) : (s.setRglQ g x).now = s.now := rfl

@[simp] theorem State.setRglQ_freeCtr (s : State) (g : Nat) (x : RglQueues) : (s.setRglQ g x).freeCtr = s.freeCtr := rfl

@[simp] theorem State.setRglQ_pending (s : State) (g : Nat) (x : RglQueues) : (s.setRglQ g x).pending = s.pending := rfl

@[simp] theorem State.setRglQ_regs (s : State) (g : Nat) (x : RglQueues) : (s.setRglQ g x).regs = s.regs := rfl

@[simp] theorem State.setRglQ_hst (s : State) (g : Nat) (x : RglQueues) : (s.setRglQ g x).hst = s.hst := rfl

@[simp] theorem State.setRglQ_rng (s : State) (g : Nat) (x : RglQueues) : (s.setRglQ g x).rng = s.rng := rfl

@[simp] theorem State.setRglQ_pool (s : State) (g : Nat) (x : RglQueues) : (s.setRglQ g x).pool = s.pool := rfl

@[simp] theorem State.setRglQ_int (s : State) (g : Nat) (x : RglQueues) : (s.setRglQ g x).int = s.int := rfl

@[simp] theorem State.setRglQ_flt (s : State) (g : Nat) (x : RglQueues) : (s.setRglQ g x).flt = s.flt := rfl

@[simp] theorem State.setRglQ_mem (s : State) (g : Nat) (x : RglQueues) : (s.setRglQ g x).mem = s.mem := rfl

@[simp] theorem State.setRglQ_kst (s : State) (g : Nat) (x : RglQueues) : (s.setRglQ g x).kst = s.kst := rfl

@[simp] theorem State.setRglQ_pwr (s : State) (g : Nat) (x : RglQueues) : (s.setRglQ g x).pwr = s.pwr := rfl

@[simp] theorem State.setRglQ_dec (s : State) (g : Nat) (x : RglQueues) : (s.setRglQ g x).dec = s.dec := rfl

@[simp] theorem State.setRglQ_clb (s : State) (g : Nat) (x : RglQueues) : (s.setRglQ g x).clb = s.clb := rfl

@[simp] theorem State.setRglQ_cnv (s : State) (g : Nat) (x : RglQueues) : (s.setRglQ g x).cnv = s.cnv := rfl

@[simp] theorem State.setRglQ_fus (s : State) (g : Nat) (x : RglQueues) : (s.setRglQ g x).fus = s.fus := rfl

@[simp] theorem State.setRglQ_mze (s : State) (g : Nat) (x : RglQueues) : (s.setRglQ g x).mze = s.mze := rfl

@[simp] theorem State.setRglQ_swc (s : State) (g : Nat) (x : RglQueues) : (s.setRglQ g x).swc = s.swc := rfl

@[simp] theorem State.setRglQ_sch (s : State) (g : Nat) (x : RglQueues) : (s.setRglQ g x).sch = s.sch := rfl

@[simp] theorem State.setRglQ_plk (s : State) (g : Nat) (x : RglQueues) : (s.setRglQ g x).plk = s.plk := rfl

@[simp] theorem State.setRglQ_enc (s : State) (g : Nat) (x : RglQueues) : (s.setRglQ g x).enc = s.enc := rfl

@[simp] theorem State.setRglQ_esc (s : State) (g : Nat) (x : RglQueues) : (s.setRglQ g x).esc = s.esc := rfl

@[simp] theorem State.setRglQ_rgl (s : State) (g : Nat) (x : RglQueues) : (s.setRglQ g x).rgl = s.rgl := rfl

@[simp] theorem State.setRglQ_dma (s : State) (g : Nat) (x : RglQueues) : (s.setRglQ g x).dma = s.dma := rfl

@[simp] theorem State.ses_setSes (s : State) (e : Nat) (x : EncSession) : (s.setSes e x).ses e = x := by
  simp [State.ses, State.setSes]

theorem State.ses_setSes_other (s : State) {e j : Nat} (x : EncSession) (h : e ≠ j) : (s.setSes e x).ses j = s.ses j := by
  simp [State.ses, State.setSes, Tab.get_set_other _ _ _ h]

@[simp] theorem State.setSes_variant (s : State) (e : Nat) (x : EncSession) : (s.setSes e x).variant = s.variant := rfl

@[simp] theorem State.setSes_now (s : State) (e : Nat) (x : EncSession) : (s.setSes e x).now = s.now := rfl

@[simp] theorem State.setSes_freeCtr (s : State) (e : Nat) (x : EncSession) : (s.setSes e x).freeCtr = s.freeCtr := rfl

@[simp] theorem State.setSes_pending (s : State) (e : Nat) (x : EncSession) : (s.setSes e x).pending = s.pending := rfl

@[simp] theorem State.setSes_regs (s : State) (e : Nat) (x : EncSession) : (s.setSes e x).regs = s.regs := rfl

@[simp] theorem State.setSes_hst (s : State) (e : Nat) (x : EncSession) : (s.setSes e x).hst = s.hst := rfl

@[simp] theorem State.setSes_rng (s : State) (e : Nat) (x : EncSession) : (s.setSes e x).rng = s.rng := rfl

@[simp] theorem State.setSes_pool (s : State) (e : Nat) (x : EncSession) : (s.setSes e x).pool = s.pool := rfl

@[simp] theorem State.setSes_int (s : State) (e : Nat) (x : EncSession) : (s.setSes e x).int = s.int := rfl

@[simp] theorem State.setSes_flt (s : State) (e : Nat) (x : EncSession) : (s.setSes e x).flt = s.flt := rfl

@[simp] theorem State.setSes_mem (s : State) (e : Nat) (x : EncSession) : (s.setSes e x).mem = s.mem := rfl

@[simp] theorem State.setSes_kst (s : State) (e : Nat) (x : EncSession) : (s.setSes e x).kst = s.kst := rfl

@[simp] theorem State.setSes_pwr (s : State) (e : Nat) (x : EncSession) : (s.setSes e x).pwr = s.pwr := rfl

@[simp] theorem State.setSes_dec (s : State) (e : Nat) (x : EncSession) : (s.setSes e x).dec = s.dec := rfl

@[simp] theorem State.setSes_clb (s : State) (e : Nat) (x : EncSession) : (s.setSes e x).clb = s.clb := rfl

@[simp] theorem State.setSes_cnv (s : State) (e : Nat) (x : EncSession) : (s.setSes e x).cnv = s.cnv := rfl

@[simp] theorem State.setSes_fus (s : State) (e : Nat) (x : EncSession) : (s.setSes e x).fus = s.fus := rfl

@[simp] theorem State.setSes_mze (s : State) (e : Nat) (x : EncSession) : (s.setSes e x).mze = s.mze := rfl

@[simp] theorem State.setSes_swc (s : State) (e : Nat) (x : EncSession) : (s.setSes e x).swc = s.swc := rfl

@[simp] theorem State.setSes_sch (s : State) (e : Nat) (x : EncSession) : (s.setSes e x).sch = s.sch := rfl

@[simp] theorem State.setSes_plk (s : State) (e : Nat) (x : EncSession) : (s.setSes e x).plk = s.plk := rfl

@[simp] theorem State.setSes_rgq (s : State) (e : Nat) (x : EncSession) : (s.setSes e x).rgq = s.rgq := rfl

@[simp] theorem State.setSes_esc (s : State) (e : Nat) (x : EncSession) : (s.setSes e x).esc = s.esc := rfl

@[simp] theorem State.setSes_rgl (s : State) (e : Nat) (x : EncSession) : (s.setSes e x).rgl = s.rgl := rfl

@[simp] theorem State.setSes_dma (s : State) (e : Nat) (x : EncSession) : (s.setSes e x).dma = s.dma := rfl

@[simp] theorem State.encCore_setEncCore (s : State) (c : Nat) (x : EncCore) : (s.setEncCore c x).encCore c = x := by
  simp [State.encCore, State.setEncCore]

theorem State.encCore_setEncCore_other (s : State) {c j : Nat} (x : EncCore) (h : c ≠ j) : (s.setEncCore c x).encCore j = s.encCore j := by
  simp [State.encCore, State.setEncCore, Tab.get_set_other _ _ _ h]

@[simp] theorem State.setEncCore_variant (s : State) (c : Nat) (x : EncCore) : (s.setEncCore c x).variant = s.variant := rfl

@[simp] theorem State.setEncCore_now (s : State) (c : Nat) (x : EncCore) : (s.setEncCore c x).now = s.now := rfl

@[simp] theorem State.setEncCore_freeCtr (s : State) (c : Nat) (x : EncCore) : (s.setEncCore c x).freeCtr = s.freeCtr := rfl

@[simp] theorem State.setEncCore_pending (s : State) (c : Nat) (x : EncCore) : (s.setEncCore c x).pending = s.pending := rfl

@[simp] theorem State.setEncCore_regs (s : State) (c : Nat) (x : EncCore) : (s.setEncCore c x).regs = s.regs := rfl

@[simp] theorem State.setEncCore_hst (s : State) (c : Nat) (x : EncCore) : (s.setEncCore c x).hst = s.hst := rfl

@[simp] theorem State.setEncCore_rng (s : State) (c : Nat) (x : EncCore) : (s.setEncCore c x).rng = s.rng := rfl

@[simp] theorem State.setEncCore_pool (s : State) (c : Nat) (x : EncCore) : (s.setEncCore c x).pool = s.pool := rfl

@[simp] theorem State.setEncCore_int (s : State) (c : Nat) (x : EncCore) : (s.setEncCore c x).int = s.int := rfl

@[simp] theorem State.setEncCore_flt (s : State) (c : Nat) (x : EncCore) : (s.setEncCore c x).flt = s.flt := rfl

@[simp] theorem State.setEncCore_mem (s : State) (c : Nat) (x : EncCore) : (s.setEncCore c x).mem = s.mem := rfl

@[simp] theorem State.setEncCore_kst (s : State) (c : Nat) (x : EncCore) : (s.setEncCore c x).kst = s.kst := rfl

@[simp] theorem State.setEncCore_pwr (s : State) (c : Nat) (x : EncCore) : (s.setEncCore c x).pwr = s.pwr := rfl

@[simp] theorem State.setEncCore_dec (s : State) (c : Nat) (x : EncCore) : (s.setEncCore c x).dec = s.dec := rfl

@[simp] theorem State.setEncCore_clb (s : State) (c : Nat) (x : EncCore) : (s.setEncCore c x).clb = s.clb := rfl

@[simp] theorem State.setEncCore_cnv (s : State) (c : Nat) (x : EncCore) : (s.setEncCore c x).cnv = s.cnv := rfl

@[simp] theorem State.setEncCore_fus (s : State) (c : Nat) (x : EncCore) : (s.setEncCore c x).fus = s.fus := rfl

@[simp] theorem State.setEncCore_mze (s : State) (c : Nat) (x : EncCore) : (s.setEncCore c x).mze = s.mze := rfl

@[simp] theorem State.setEncCore_swc (s : State) (c : Nat) (x : EncCore) : (s.setEncCore c x).swc = s.swc := rfl

@[simp] theorem State.setEncCore_sch (s : State) (c : Nat) (x : EncCore) : (s.setEncCore c x).sch = s.sch := rfl

@[simp] theorem State.setEncCore_plk (s : State) (c : Nat) (x : EncCore) : (s.setEncCore c x).plk = s.plk := rfl

@[simp] theorem State.setEncCore_rgq (s : State) (c : Nat) (x : EncCore) : (s.setEncCore c x).rgq = s.rgq := rfl

@[simp] theorem State.setEncCore_esc (s : State) (c : Nat) (x : EncCore) : (s.setEncCore c x).esc = s.esc := rfl

@[simp] theorem State.setEncCore_rgl (s : State) (c : Nat) (x : EncCore) : (s.setEncCore c x).rgl = s.rgl := rfl

@[simp] theorem State.setEncCore_dma (s : State) (c : Nat) (x : EncCore) : (s.setEncCore c x).dma = s.dma := rfl

@[simp] theorem State.rgl__setRegl (s : State) (g : Nat) (x : Regulator) : (s.setRegl g x).rgl_ g = x := by
  simp [State.rgl_, State.setRegl]

theorem State.rgl__setRegl_other (s : State) {g j : Nat} (x : Regulator) (h : g ≠ j) : (s.setRegl g x).rgl_ j = s.rgl_ j := by
  simp [State.rgl_, State.setRegl, Tab.get_set_other _ _ _ h]

@[simp] theorem State.setRegl_variant (s : State) (g : Nat) (x : Regulator) : (s.setRegl g x).variant = s.variant := rfl

@[simp] theorem State.setRegl_now (s : State) (g : Nat) (x : Regulator) : (s.setRegl g x).now = s.now := rfl

@[simp] theorem State.setRegl_freeCtr (s : State) (g : Nat) (x : Regulator) : (s.setRegl g x).freeCtr = s.freeCtr := rfl

@[simp] theorem State.setRegl_pending (s : State) (g : Nat) (x : Regulator) : (s.setRegl g x).pending = s.pending := rfl

@[simp] theorem State.setRegl_regs (s : State) (g : Nat) (x : Regulator) : (s.setRegl g x).regs = s.regs := rfl

@[simp] theorem State.setRegl_hst (s : State) (g : Nat) (x : Regulator) : (s.setRegl g x).hst = s.hst := rfl

@[simp] theorem State.setRegl_rng (s : State) (g : Nat) (x : Regulator) : (s.setRegl g x).rng = s.rng := rfl

@[simp] theorem State.setRegl_pool (s : State) (g : Nat) (x : Regulator) : (s.setRegl g x).pool = s.pool := rfl

@[simp] theorem State.setRegl_int (s : State) (g : Nat) (x : Regulator) : (s.setRegl g x).int = s.int := rfl

@[simp] theorem State.setRegl_flt (s : State) (g : Nat) (x : Regulator) : (s.setRegl g x).flt = s.flt := rfl

@[simp] theorem State.setRegl_mem (s : State) (g : Nat) (x : Regulator) : (s.setRegl g x).mem = s.mem := rfl

@[simp] theorem State.setRegl_kst (s : State) (g : Nat) (x : Regulator) : (s.setRegl g x).kst = s.kst := rfl

@[simp] theorem State.setRegl_pwr (s : State) (g : Nat) (x : Regulator) : (s.setRegl g x).pwr = s.pwr := rfl

@[simp] theorem State.setRegl_dec (s : State) (g : Nat) (x : Regulator) : (s.setRegl g x).dec = s.dec := rfl

@[simp] theorem State.setRegl_clb (s : State) (g : Nat) (x : Regulator) : (s.setRegl g x).clb = s.clb := rfl

@[simp] theorem State.setRegl_cnv (s : State) (g : Nat) (x : Regulator) : (s.setRegl g x).cnv = s.cnv := rfl

@[simp] theorem State.setRegl_fus (s : State) (g : Nat) (x : Regulator) : (s.setRegl g x).fus = s.fus := rfl

@[simp] theorem State.setRegl_mze (s : State) (g : Nat) (x : Regulator) : (s.setRegl g x).mze = s.mze := rfl

@[simp] theorem State.setRegl_swc (s : State) (g : Nat) (x : Regulator) : (s.setRegl g x).swc = s.swc := rfl

@[simp] theorem State.setRegl_sch (s : State) (g : Nat) (x : Regulator) : (s.setRegl g x).sch = s.sch := rfl

@[simp] theorem State.setRegl_plk (s : State) (g : Nat) (x : Regulator) : (s.setRegl g x).plk = s.plk := rfl

@[simp] theorem State.setRegl_rgq (s : State) (g : Nat) (x : Regulator) : (s.setRegl g x).rgq = s.rgq := rfl

@[simp] theorem State.setRegl_enc (s : State) (g : Nat) (x : Regulator) : (s.setRegl g x).enc = s.enc := rfl

@[simp] theorem State.setRegl_esc (s : State) (g : Nat) (x : Regulator) : (s.setRegl g x).esc = s.esc := rfl

@[simp] theorem State.setRegl_dma (s : State) (g : Nat) (x : Regulator) : (s.setRegl g x).dma = s.dma := rfl

@[simp] theorem State.dch_setDch (s : State) (c : Nat) (x : DmaCh) : (s.setDch c x).dch c = x := by
  simp [State.dch, State.setDch]

theorem State.dch_setDch_other (s : State) {c j : Nat} (x : DmaCh) (h : c ≠ j) : (s.setDch c x).dch j = s.dch j := by
  simp [State.dch, State.setDch, Tab.get_set_other _ _ _ h]

@[simp] theorem State.setDch_variant (s : State) (c : Nat) (x : DmaCh) : (s.setDch c x).variant = s.variant := rfl

@[simp] theorem State.setDch_now (s : State) (c : Nat) (x : DmaCh) : (s.setDch c x).now = s.now := rfl

@[simp] theorem State.setDch_freeCtr (s : State) (c : Nat) (x : DmaCh) : (s.setDch c x).freeCtr = s.freeCtr := rfl

@[simp] theorem State.setDch_pending (s : State) (c : Nat) (x : DmaCh) : (s.setDch c x).pending = s.pending := rfl

@[simp] theorem State.setDch_regs (s : State) (c : Nat) (x : DmaCh) : (s.setDch c x).regs = s.regs := rfl

@[simp] theorem State.setDch_hst (s : State) (c : Nat) (x : DmaCh) : (s.setDch c x).hst = s.hst := rfl

@[simp] theorem State.setDch_rng (s : State) (c : Nat) (x : DmaCh) : (s.setDch c x).rng = s.rng := rfl

@[simp] theorem State.setDch_pool (s : State) (c : Nat) (x : DmaCh) : (s.setDch c x).pool = s.pool := rfl

@[simp] theorem State.setDch_int (s : State) (c : Nat) (x : DmaCh) : (s.setDch c x).int = s.int := rfl

@[simp] theorem State.setDch_flt (s : State) (c : Nat) (x : DmaCh) : (s.setDch c x).flt = s.flt := rfl

@[simp] theorem State.setDch_mem (s : State) (c : Nat) (x : DmaCh) : (s.setDch c x).mem = s.mem := rfl

@[simp] theorem State.setDch_kst (s : State) (c : Nat) (x : DmaCh) : (s.setDch c x).kst = s.kst := rfl

@[simp] theorem State.setDch_pwr (s : State) (c : Nat) (x : DmaCh) : (s.setDch c x).pwr = s.pwr := rfl

@[simp] theorem State.setDch_dec (s : State) (c : Nat) (x : DmaCh) : (s.setDch c x).dec = s.dec := rfl

@[simp] theorem State.setDch_clb (s : State) (c : Nat) (x : DmaCh) : (s.setDch c x).clb = s.clb := rfl

@[simp] theorem State.setDch_cnv (s : State) (c : Nat) (x : DmaCh) : (s.setDch c x).cnv = s.cnv := rfl

@[simp] theorem State.setDch_fus (s : State) (c : Nat) (x : DmaCh) : (s.setDch c x).fus = s.fus := rfl

@[simp] theorem State.setDch_mze (s : State) (c : Nat) (x : DmaCh) : (s.setDch c x).mze = s.mze := rfl

@[simp] theorem State.setDch_swc (s : State) (c : Nat) (x : DmaCh) : (s.setDch c x).swc = s.swc := rfl

@[simp] theorem State.setDch_sch (s : State) (c : Nat) (x : DmaCh) : (s.setDch c x).sch = s.sch := rfl

@[simp] theorem State.setDch_plk (s : State) (c : Nat) (x : DmaCh) : (s.setDch c x).plk = s.plk := rfl

@[simp] theorem State.setDch_rgq (s : State) (c : Nat) (x : DmaCh) : (s.setDch c x).rgq = s.rgq := rfl

@[simp] theorem State.setDch_enc (s : State) (c : Nat) (x : DmaCh) : (s.setDch c x).enc = s.enc := rfl

@[simp] theorem State.setDch_esc (s : State) (c : Nat) (x : DmaCh) : (s.setDch c x).esc = s.esc := rfl

@[simp] theorem State.setDch_rgl (s : State) (c : Nat) (x : DmaCh) : (s.setDch c x).rgl = s.rgl := rfl

@[simp] theorem State.esc_setEsc (s : State) (k i : Nat) (x : Escapement) : (s.setEsc k i x).esc_ k i = x := by
  simp [State.esc_, State.setEsc]

@[simp] theorem State.setEsc_variant (s : State) (k i : Nat) (x : Escapement) : (s.setEsc k i x).variant = s.variant := rfl

@[simp] theorem State.setEsc_now (s : State) (k i : Nat) (x : Escapement) : (s.setEsc k i x).now = s.now := rfl

@[simp] theorem State.setEsc_freeCtr (s : State) (k i : Nat) (x : Escapement) : (s.setEsc k i x).freeCtr = s.freeCtr := rfl

@[simp] theorem State.setEsc_pending (s : State) (k i : Nat) (x : Escapement) : (s.setEsc k i x).pending = s.pending := rfl

@[simp] theorem State.setEsc_regs (s : State) (k i : Nat) (x : Escapement) : (s.setEsc k i x).regs = s.regs := rfl

@[simp] theorem State.setEsc_hst (s : State) (k i : Nat) (x : Escapement) : (s.setEsc k i x).hst = s.hst := rfl

@[simp] theorem State.setEsc_rng (s : State) (k i : Nat) (x : Escapement) : (s.setEsc k i x).rng = s.rng := rfl

@[simp] theorem State.setEsc_pool (s : State) (k i : Nat) (x : Escapement) : (s.setEsc k i x).pool = s.pool := rfl

@[simp] theorem State.setEsc_int (s : State) (k i : Nat) (x : Escapement) : (s.setEsc k i x).int = s.int := rfl

@[simp] theorem State.setEsc_flt (s : State) (k i : Nat) (x : Escapement) : (s.setEsc k i x).flt = s.flt := rfl

@[simp] theorem State.setEsc_mem (s : State) (k i : Nat) (x : Escapement) : (s.setEsc k i x).mem = s.mem := rfl

@[simp] theorem State.setEsc_kst (s : State) (k i : Nat) (x : Escapement) : (s.setEsc k i x).kst = s.kst := rfl

@[simp] theorem State.setEsc_pwr (s : State) (k i : Nat) (x : Escapement) : (s.setEsc k i x).pwr = s.pwr := rfl

@[simp] theorem State.setEsc_dec (s : State) (k i : Nat) (x : Escapement) : (s.setEsc k i x).dec = s.dec := rfl

@[simp] theorem State.setEsc_clb (s : State) (k i : Nat) (x : Escapement) : (s.setEsc k i x).clb = s.clb := rfl

@[simp] theorem State.setEsc_cnv (s : State) (k i : Nat) (x : Escapement) : (s.setEsc k i x).cnv = s.cnv := rfl

@[simp] theorem State.setEsc_fus (s : State) (k i : Nat) (x : Escapement) : (s.setEsc k i x).fus = s.fus := rfl

@[simp] theorem State.setEsc_mze (s : State) (k i : Nat) (x : Escapement) : (s.setEsc k i x).mze = s.mze := rfl

@[simp] theorem State.setEsc_swc (s : State) (k i : Nat) (x : Escapement) : (s.setEsc k i x).swc = s.swc := rfl

@[simp] theorem State.setEsc_sch (s : State) (k i : Nat) (x : Escapement) : (s.setEsc k i x).sch = s.sch := rfl

@[simp] theorem State.setEsc_plk (s : State) (k i : Nat) (x : Escapement) : (s.setEsc k i x).plk = s.plk := rfl

@[simp] theorem State.setEsc_rgq (s : State) (k i : Nat) (x : Escapement) : (s.setEsc k i x).rgq = s.rgq := rfl

@[simp] theorem State.setEsc_enc (s : State) (k i : Nat) (x : Escapement) : (s.setEsc k i x).enc = s.enc := rfl

@[simp] theorem State.setEsc_rgl (s : State) (k i : Nat) (x : Escapement) : (s.setEsc k i x).rgl = s.rgl := rfl

@[simp] theorem State.setEsc_dma (s : State) (k i : Nat) (x : Escapement) : (s.setEsc k i x).dma = s.dma := rfl

@[simp] theorem State.posn_setPosn (s : State) (p q : Nat) (x : Position) : (s.setPosn p q x).posn p q = x := by
  simp [State.posn, State.setPosn]

@[simp] theorem State.bank_setBank (s : State) (b : Bool) (x : Bank) : (s.setBank b x).bank b = x := by
  cases b <;> rfl

@[simp] theorem State.poolOf_setPool (s : State) (x : Nat) (p : Pool) : (s.setPool x p).poolOf x = p := by
  unfold State.setPool State.poolOf
  split <;> rfl

@[simp] theorem State.setPosn_variant (s : State) (p q : Nat) (x : Position) : (s.setPosn p q x).variant = s.variant := rfl

@[simp] theorem State.setPosn_now (s : State) (p q : Nat) (x : Position) : (s.setPosn p q x).now = s.now := rfl

@[simp] theorem State.setPosn_freeCtr (s : State) (p q : Nat) (x : Position) : (s.setPosn p q x).freeCtr = s.freeCtr := rfl

@[simp] theorem State.setPosn_pending (s : State) (p q : Nat) (x : Position) : (s.setPosn p q x).pending = s.pending := rfl

@[simp] theorem State.setPosn_regs (s : State) (p q : Nat) (x : Position) : (s.setPosn p q x).regs = s.regs := rfl

@[simp] theorem State.setPosn_hst (s : State) (p q : Nat) (x : Position) : (s.setPosn p q x).hst = s.hst := rfl

@[simp] theorem State.setPosn_rng (s : State) (p q : Nat) (x : Position) : (s.setPosn p q x).rng = s.rng := rfl

@[simp] theorem State.setPosn_pool (s : State) (p q : Nat) (x : Position) : (s.setPosn p q x).pool = s.pool := rfl

@[simp] theorem State.setPosn_int (s : State) (p q : Nat) (x : Position) : (s.setPosn p q x).int = s.int := rfl

@[simp] theorem State.setPosn_flt (s : State) (p q : Nat) (x : Position) : (s.setPosn p q x).flt = s.flt := rfl

@[simp] theorem State.setPosn_mem (s : State) (p q : Nat) (x : Position) : (s.setPosn p q x).mem = s.mem := rfl

@[simp] theorem State.setPosn_kst (s : State) (p q : Nat) (x : Position) : (s.setPosn p q x).kst = s.kst := rfl

@[simp] theorem State.setPosn_pwr (s : State) (p q : Nat) (x : Position) : (s.setPosn p q x).pwr = s.pwr := rfl

@[simp] theorem State.setPosn_dec (s : State) (p q : Nat) (x : Position) : (s.setPosn p q x).dec = s.dec := rfl

@[simp] theorem State.setPosn_clb (s : State) (p q : Nat) (x : Position) : (s.setPosn p q x).clb = s.clb := rfl

@[simp] theorem State.setPosn_cnv (s : State) (p q : Nat) (x : Position) : (s.setPosn p q x).cnv = s.cnv := rfl

@[simp] theorem State.setPosn_fus (s : State) (p q : Nat) (x : Position) : (s.setPosn p q x).fus = s.fus := rfl

@[simp] theorem State.setPosn_mze (s : State) (p q : Nat) (x : Position) : (s.setPosn p q x).mze = s.mze := rfl

@[simp] theorem State.setPosn_swc (s : State) (p q : Nat) (x : Position) : (s.setPosn p q x).swc = s.swc := rfl

@[simp] theorem State.setPosn_sch (s : State) (p q : Nat) (x : Position) : (s.setPosn p q x).sch = s.sch := rfl

@[simp] theorem State.setPosn_rgq (s : State) (p q : Nat) (x : Position) : (s.setPosn p q x).rgq = s.rgq := rfl

@[simp] theorem State.setPosn_enc (s : State) (p q : Nat) (x : Position) : (s.setPosn p q x).enc = s.enc := rfl

@[simp] theorem State.setPosn_esc (s : State) (p q : Nat) (x : Position) : (s.setPosn p q x).esc = s.esc := rfl

@[simp] theorem State.setPosn_rgl (s : State) (p q : Nat) (x : Position) : (s.setPosn p q x).rgl = s.rgl := rfl

@[simp] theorem State.setPosn_dma (s : State) (p q : Nat) (x : Position) : (s.setPosn p q x).dma = s.dma := rfl

@[simp] theorem State.setBank_variant (s : State) (b : Bool) (x : Bank) : (s.setBank b x).variant = s.variant := by
  cases b <;> rfl

@[simp] theorem State.setBank_now (s : State) (b : Bool) (x : Bank) : (s.setBank b x).now = s.now := by
  cases b <;> rfl

@[simp] theorem State.setBank_freeCtr (s : State) (b : Bool) (x : Bank) : (s.setBank b x).freeCtr = s.freeCtr := by
  cases b <;> rfl

@[simp] theorem State.setBank_pending (s : State) (b : Bool) (x : Bank) : (s.setBank b x).pending = s.pending := by
  cases b <;> rfl

@[simp] theorem State.setBank_regs (s : State) (b : Bool) (x : Bank) : (s.setBank b x).regs = s.regs := by
  cases b <;> rfl

@[simp] theorem State.setBank_hst (s : State) (b : Bool) (x : Bank) : (s.setBank b x).hst = s.hst := by
  cases b <;> rfl

@[simp] theorem State.setBank_rng (s : State) (b : Bool) (x : Bank) : (s.setBank b x).rng = s.rng := by
  cases b <;> rfl

@[simp] theorem State.setBank_pool (s : State) (b : Bool) (x : Bank) : (s.setBank b x).pool = s.pool := by
  cases b <;> rfl

@[simp] theorem State.setBank_int (s : State) (b : Bool) (x : Bank) : (s.setBank b x).int = s.int := by
  cases b <;> rfl

@[simp] theorem State.setBank_flt (s : State) (b : Bool) (x : Bank) : (s.setBank b x).flt = s.flt := by
  cases b <;> rfl

@[simp] theorem State.setBank_mem (s : State) (b : Bool) (x : Bank) : (s.setBank b x).mem = s.mem := by
  cases b <;> rfl

@[simp] theorem State.setBank_kst (s : State) (b : Bool) (x : Bank) : (s.setBank b x).kst = s.kst := by
  cases b <;> rfl

@[simp] theorem State.setBank_pwr (s : State) (b : Bool) (x : Bank) : (s.setBank b x).pwr = s.pwr := by
  cases b <;> rfl

@[simp] theorem State.setBank_dec (s : State) (b : Bool) (x : Bank) : (s.setBank b x).dec = s.dec := by
  cases b <;> rfl

@[simp] theorem State.setBank_cnv (s : State) (b : Bool) (x : Bank) : (s.setBank b x).cnv = s.cnv := by
  cases b <;> rfl

@[simp] theorem State.setBank_fus (s : State) (b : Bool) (x : Bank) : (s.setBank b x).fus = s.fus := by
  cases b <;> rfl

@[simp] theorem State.setBank_mze (s : State) (b : Bool) (x : Bank) : (s.setBank b x).mze = s.mze := by
  cases b <;> rfl

@[simp] theorem State.setBank_swc (s : State) (b : Bool) (x : Bank) : (s.setBank b x).swc = s.swc := by
  cases b <;> rfl

@[simp] theorem State.setBank_sch (s : State) (b : Bool) (x : Bank) : (s.setBank b x).sch = s.sch := by
  cases b <;> rfl

@[simp] theorem State.setBank_plk (s : State) (b : Bool) (x : Bank) : (s.setBank b x).plk = s.plk := by
  cases b <;> rfl

@[simp] theorem State.setBank_rgq (s : State) (b : Bool) (x : Bank) : (s.setBank b x).rgq = s.rgq := by
  cases b <;> rfl

@[simp] theorem State.setBank_enc (s : State) (b : Bool) (x : Bank) : (s.setBank b x).enc = s.enc := by
  cases b <;> rfl

@[simp] theorem State.setBank_esc (s : State) (b : Bool) (x : Bank) : (s.setBank b x).esc = s.esc := by
  cases b <;> rfl

@[simp] theorem State.setBank_rgl (s : State) (b : Bool) (x : Bank) : (s.setBank b x).rgl = s.rgl := by
  cases b <;> rfl

@[simp] theorem State.setBank_dma (s : State) (b : Bool) (x : Bank) : (s.setBank b x).dma = s.dma := by
  cases b <;> rfl

@[simp] theorem State.setPool_variant (s : State) (x : Nat) (p : Pool) : (s.setPool x p).variant = s.variant := by
  unfold State.setPool
  split <;> rfl

@[simp] theorem State.setPool_now (s : State) (x : Nat) (p : Pool) : (s.setPool x p).now = s.now := by
  unfold State.setPool
  split <;> rfl

@[simp] theorem State.setPool_freeCtr (s : State) (x : Nat) (p : Pool) : (s.setPool x p).freeCtr = s.freeCtr := by
  unfold State.setPool
  split <;> rfl

@[simp] theorem State.setPool_pending (s : State) (x : Nat) (p : Pool) : (s.setPool x p).pending = s.pending := by
  unfold State.setPool
  split <;> rfl

@[simp] theorem State.setPool_regs (s : State) (x : Nat) (p : Pool) : (s.setPool x p).regs = s.regs := by
  unfold State.setPool
  split <;> rfl

@[simp] theorem State.setPool_hst (s : State) (x : Nat) (p : Pool) : (s.setPool x p).hst = s.hst := by
  unfold State.setPool
  split <;> rfl

@[simp] theorem State.setPool_rng (s : State) (x : Nat) (p : Pool) : (s.setPool x p).rng = s.rng := by
  unfold State.setPool
  split <;> rfl

@[simp] theorem State.setPool_int (s : State) (x : Nat) (p : Pool) : (s.setPool x p).int = s.int := by
  unfold State.setPool
  split <;> rfl

@[simp] theorem State.setPool_flt (s : State) (x : Nat) (p : Pool) : (s.setPool x p).flt = s.flt := by
  unfold State.setPool
  split <;> rfl

@[simp] theorem State.setPool_mem (s : State) (x : Nat) (p : Pool) : (s.setPool x p).mem = s.mem := by
  unfold State.setPool
  split <;> rfl

@[simp] theorem State.setPool_kst (s : State) (x : Nat) (p : Pool) : (s.setPool x p).kst = s.kst := by
  unfold State.setPool
  split <;> rfl

@[simp] theorem State.setPool_pwr (s : State) (x : Nat) (p : Pool) : (s.setPool x p).pwr = s.pwr := by
  unfold State.setPool
  split <;> rfl

@[simp] theorem State.setPool_dec (s : State) (x : Nat) (p : Pool) : (s.setPool x p).dec = s.dec := by
  unfold State.setPool
  split <;> rfl

@[simp] theorem State.setPool_clb (s : State) (x : Nat) (p : Pool) : (s.setPool x p).clb = s.clb := by
  unfold State.setPool
  split <;> rfl

@[simp] theorem State.setPool_cnv (s : State) (x : Nat) (p : Pool) : (s.setPool x p).cnv = s.cnv := by
  unfold State.setPool
  split <;> rfl

@[simp] theorem State.setPool_fus (s : State) (x : Nat) (p : Pool) : (s.setPool x p).fus = s.fus := by
  unfold State.setPool
  split <;> rfl

@[simp] theorem State.setPool_mze (s : State) (x : Nat) (p : Pool) : (s.setPool x p).mze = s.mze := by
  unfold State.setPool
  split <;> rfl

@[simp] theorem State.setPool_swc (s : State) (x : Nat) (p : Pool) : (s.setPool x p).swc = s.swc := by
  unfold State.setPool
  split <;> rfl

@[simp] theorem State.setPool_sch (s : State) (x : Nat) (p : Pool) : (s.setPool x p).sch = s.sch := by
  unfold State.setPool
  split <;> rfl

@[simp] theorem State.setPool_plk (s : State) (x : Nat) (p : Pool) : (s.setPool x p).plk = s.plk := by
  unfold State.setPool
  split <;> rfl

@[simp] theorem State.setPool_rgq (s : State) (x : Nat) (p : Pool) : (s.setPool x p).rgq = s.rgq := by
  unfold State.setPool
  split <;> rfl

@[simp] theorem State.setPool_enc (s : State) (x : Nat) (p : Pool) : (s.setPool x p).enc = s.enc := by
  unfold State.setPool
  split <;> rfl

@[simp] theorem State.setPool_esc (s : State) (x : Nat) (p : Pool) : (s.setPool x p).esc = s.esc := by
  unfold State.setPool
  split <;> rfl

@[simp] theorem State.setPool_rgl (s : State) (x : Nat) (p : Pool) : (s.setPool x p).rgl = s.rgl := by
  unfold State.setPool
  split <;> rfl

@[simp] theorem State.setPool_dma (s : State) (x : Nat) (p : Pool) : (s.setPool x p).dma = s.dma := by
  unfold State.setPool
  split <;> rfl

end Sys2Proof.Machine
end

