-- ==== Sys2Proof/Laws/Latch.lean ====
section
/-! SUPPORT. What a latch of a fault source leaves alone: the register fields outside the collector's, and the host attachment but for
its MSI-X vectors. -/

set_option Elab.async false
set_option linter.all false

namespace Sys2Proof.Machine

/-! ### What shared operations leave alone inside the parts that they touch -/

/-- Register fields that a latch may write. -/
def latchFields : List Nat :=
  [Reg.PG_ERR_STICKY.id, Reg.FLT_COUNT.id, Reg.FLT_LOG_COUNT.id, Reg.INT_HOST_MSGS.id, Reg.INT_RR_PTR.id, Reg.PG_ERR_INJECT_COUNT.id]

/-- `t` reads every register field as `s` does, but for the fields that a latch may write. -/
structure SameFld (s t : State) : Prop where
  same : ∀ (f : Fld) (j : Nat), f.id < 1024 → f.id ∉ latchFields → t.fld f j = s.fld f j

theorem SameFld.refl (s : State) : SameFld s s := ⟨fun _ _ _ _ => rfl⟩

theorem SameFld.trans {a b c : State} (h : SameFld a b) (k : SameFld b c) : SameFld a c :=
  ⟨fun f j hj hf => (k.same f j hj hf).trans (h.same f j hj hf)⟩

theorem SameFld.of_regs {s t : State} (hv : t.variant = s.variant) (hr : t.regs = s.regs) : SameFld s t :=
  ⟨fun f j _ _ => State.fld_congr hv hr f j⟩

theorem latchFields_lt : ∀ n ∈ latchFields, n < 1024 := by decide

theorem SameFld.setFld {s t : State} (h : SameFld s t) {g : Fld} (i v : Nat) (hg : g.id ∈ latchFields) :
    SameFld s (t.setFld g i v) :=
  ⟨fun f j hj hf => (State.fld_setFld_other t v (fun e => hf (e ▸ hg)) (latchFields_lt _ hg) hj).trans (h.same f j hj hf)⟩

theorem sameFld_sendMsix {s t : State} (h : SameFld s t) (v : Nat) : SameFld s (t.sendMsix v) := by
  unfold State.sendMsix
  dsimp only
  split
  · exact h.trans (SameFld.of_regs rfl rfl)
  · exact SameFld.setFld (g := Reg.INT_HOST_MSGS) (h.trans (SameFld.of_regs (State.setVec_variant ..) (State.setVec_regs ..))) 0 _ (by decide)

theorem sameFld_hostMsg {s t : State} (h : SameFld s t) (b : State) (id : Nat) : SameFld s (t.hostMsg b id) := by
  unfold State.hostMsg
  split
  · exact sameFld_sendMsix h _
  · exact h

theorem sameFld_rrAssign {s t : State} (h : SameFld s t) (id : Nat) : SameFld s (t.rrAssign id) := by
  unfold State.rrAssign
  split
  · split
    · exact SameFld.setFld (g := Reg.INT_RR_PTR) (h.trans (SameFld.of_regs (State.setSrc_variant ..) (State.setSrc_regs ..))) 0 _ (by decide)
    · exact h
  · exact h

theorem sameFld_intEdge {s t : State} (h : SameFld s t) (id : Nat) : SameFld s (t.intEdge id) := by
  unfold State.intEdge
  dsimp only
  split
  · exact h
  · exact sameFld_hostMsg (sameFld_rrAssign (h.trans (SameFld.of_regs (State.setSrc_variant ..) (State.setSrc_regs ..))) _) _ _

theorem sameFld_pinEdge {s t : State} (h : SameFld s t) (b : State) : SameFld s (t.pinEdge b) := by
  unfold State.pinEdge
  split
  · exact sameFld_intEdge h _
  · exact h

theorem sameFld_collect {s t : State} (h : SameFld s t) (c : Nat) : SameFld s (t.collect c) := by
  unfold State.collect State.latchEffects
  apply sameFld_pinEdge
  refine SameFld.trans (sameFld_intEdge (SameFld.setFld h _ _ (by decide)) (33 + c)) (SameFld.of_regs rfl rfl)

theorem sameFld_latchCore {s t : State} (h : SameFld s t) (src : Src) (i : Nat) :
    SameFld s (t.latchCore src i) := by
  have hs : SameFld s (t.setSticky (pageOf src.blk i) src.bit) := by
    unfold State.setSticky
    split
    · exact h
    · exact SameFld.setFld h _ _ (by decide)
  unfold State.latchCore
  dsimp only
  split
  · exact sameFld_collect hs _
  · exact hs

theorem sameFld_collectorCheck {s t : State} (h : SameFld s t) : SameFld s t.collectorCheck := by
  unfold State.collectorCheck
  split
  · rename_i u hu
    unfold State.takeInject at hu
    dsimp only at hu
    split at hu
    · cases hu
      exact sameFld_latchCore (SameFld.setFld h _ _ (by decide)) _ _
    · cases hu
  · exact h

theorem sameFld_logFault {s t : State} (h : SameFld s t) (src : Src) (i c : Nat) : SameFld s (t.logFault src i c) := by
  have h1 : ∀ (f : FaultSt) (k : KstSt), SameFld s { t with flt := f, kst := k } := fun f k => h.trans (SameFld.of_regs rfl rfl)
  unfold State.logFault
  dsimp only
  split
  · exact sameFld_latchCore (sameFld_latchCore (h1 _ _) _ _) _ _
  · split
    · exact sameFld_latchCore (SameFld.setFld (h1 _ _) _ _ (by decide)) _ _
    · exact SameFld.setFld (h1 _ _) _ _ (by decide)

/-- A latch writes no register field but those of `latchFields`. -/
theorem State.latch_sameFld (s : State) (src : Src) (i : Nat) :
    SameFld s (s.latch src i) := by
  have h := sameFld_latchCore (SameFld.refl s) src i
  unfold State.latch
  dsimp only
  split
  · split
    · exact sameFld_logFault (sameFld_collectorCheck h) _ _ _
    · exact sameFld_collectorCheck h
  · split
    · exact sameFld_logFault h _ _ _
    · exact h

/-- A latch of a source, read at another register field. -/
theorem State.fld_latch (s : State) (src : Src) (i : Nat) {f : Fld} {j : Nat}
    (hj : f.id < 1024) (hf : f.id ∉ latchFields) : (s.latch src i).fld f j = s.fld f j :=
  (s.latch_sameFld src i).same f j hj hf

/-! ### The parts of the host attachment, the collector and the keeping store that a latch leaves alone -/

/-- `t` has the host attachment of `s` but for its MSI-X vectors. -/
def SameHst (s t : State) : Prop := t.hst = { s.hst with msix := t.hst.msix }

theorem SameHst.refl (s : State) : SameHst s s := rfl

theorem SameHst.trans {a b c : State} (h : SameHst a b) (k : SameHst b c) : SameHst a c := by
  unfold SameHst at *
  rw [k, h]

theorem sameHst_of_eq {s t : State} (h : t.hst = s.hst) : SameHst s t := by
  unfold SameHst
  rw [h]

theorem sameHst_sendMsix (s : State) (v : Nat) : SameHst s (s.sendMsix v) := by
  unfold State.sendMsix
  dsimp only
  split <;> rfl

theorem sameHst_intEdge (s : State) (id : Nat) : SameHst s (s.intEdge id) := by
  unfold State.intEdge State.hostMsg
  dsimp only
  split
  · exact SameHst.refl s
  · split
    · exact (sameHst_of_eq (by simp)).trans (sameHst_sendMsix _ _)
    · exact sameHst_of_eq (by simp)

theorem sameHst_pinEdge (s b : State) : SameHst s (s.pinEdge b) := by
  unfold State.pinEdge
  split
  · exact sameHst_intEdge s _
  · exact SameHst.refl s

theorem sameHst_latchEffects (s : State) (c : Nat) : SameHst s (s.latchEffects c) := by
  unfold State.latchEffects
  exact SameHst.trans (sameHst_of_eq rfl) (sameHst_pinEdge _ _)

theorem sameHst_collect (s : State) (c : Nat) : SameHst s (s.collect c) :=
  ((sameHst_of_eq (by simp)).trans (sameHst_intEdge (s.count Reg.FLT_COUNT c) (33 + c))).trans (sameHst_latchEffects _ _)

theorem sameHst_latchCore (s : State) (src : Src) (i : Nat) : SameHst s (s.latchCore src i) := by
  unfold State.latchCore
  dsimp only
  split
  · exact (sameHst_of_eq (by simp)).trans (sameHst_collect _ _)
  · exact sameHst_of_eq (by simp)

theorem sameHst_logFault (s : State) (src : Src) (i c : Nat) : SameHst s (s.logFault src i c) := by
  unfold State.logFault
  dsimp only
  split
  · refine SameHst.trans ?_ (sameHst_latchCore _ _ _)
    refine SameHst.trans ?_ (sameHst_latchCore _ _ _)
    exact sameHst_of_eq (by dsimp only)
  · split
    · refine SameHst.trans ?_ (sameHst_latchCore _ _ _)
      exact sameHst_of_eq (by simp only [State.count_hst])
    · exact sameHst_of_eq (by simp only [State.count_hst])

theorem sameHst_collectorCheck (s : State) : SameHst s s.collectorCheck := by
  unfold State.collectorCheck
  split
  · rename_i u hu
    unfold State.takeInject at hu
    dsimp only at hu
    split at hu
    · cases hu
      exact SameHst.trans (sameHst_of_eq rfl) (sameHst_latchCore _ _ _)
    · cases hu
  · exact SameHst.refl s

/-- A latch changes nothing of the host attachment but the MSI-X vectors. -/
theorem State.latch_hst (s : State) (src : Src) (i : Nat) :
    (s.latch src i).hst = { s.hst with msix := (s.latch src i).hst.msix } := by
  show SameHst s (s.latch src i)
  have h := sameHst_latchCore s src i
  unfold State.latch
  dsimp only
  split
  · split
    · exact (h.trans (sameHst_collectorCheck _)).trans (sameHst_logFault _ _ _ _)
    · exact h.trans (sameHst_collectorCheck _)
  · split
    · exact h.trans (sameHst_logFault _ _ _ _)
    · exact h

/-! ### The sticky bit of a latch -/

theorem bit_mod (x w c : Nat) (h : c < w) : bit (x % 2 ^ w) c = bit x c := by
  have := Nat.testBit_mod_two_pow x w c
  simp only [Nat.testBit_eq_decide_div_mod_eq] at this
  simpa [bit, h] using this

/-- Adding a power of two whose bit is clear sets that bit and no other. -/
theorem bit_add (x b c : Nat) (h : bit x b = false) : bit (x + 2 ^ b) c = (bit x c || b == c) := by
  have h0 : x / 2 ^ b % 2 = 0 := by
    have : ¬ x / 2 ^ b % 2 = 1 := by simpa [bit] using h
    omega
  rcases Nat.lt_trichotomy c b with hc | hc | hc
  · have e : (x + 2 ^ b) / 2 ^ c = x / 2 ^ c + 2 ^ (b - c) := by
      have : 2 ^ b = 2 ^ (b - c) * 2 ^ c := by rw [← pow_add]; congr 1; omega
      rw [this, Nat.add_mul_div_right _ _ (Nat.two_pow_pos c)]
    have e2 : 2 ^ (b - c) % 2 = 0 := by
      obtain ⟨d, hd⟩ : ∃ d, b - c = d + 1 := ⟨b - c - 1, by omega⟩
      rw [hd, pow_succ]; omega
    have : (b == c) = false := by simpa using (show b ≠ c by omega)
    simp only [bit, e, this, Bool.or_false]
    congr 1
    omega
  · subst hc
    simp only [bit, Nat.add_div_right _ (Nat.two_pow_pos c), beq_self_eq_true, Bool.or_true]
    simp; omega
  · obtain ⟨d, hd⟩ : ∃ d, c = b + (d + 1) := ⟨c - b - 1, by omega⟩
    have e : ∀ y : Nat, y / 2 ^ c = y / 2 ^ b / 2 / 2 ^ d := by
      intro y
      rw [hd, Nat.div_div_eq_div_mul, Nat.div_div_eq_div_mul, pow_add, pow_succ, mul_comm (2 ^ d) 2]
    have : (b == c) = false := by simpa using (show b ≠ c by omega)
    simp only [bit, this, Bool.or_false, e, Nat.add_div_right _ (Nat.two_pow_pos b)]
    congr 3
    omega

/-- The sticky bit `b` of page `p` is set. -/
def State.stuck (s : State) (p b : Nat) : Prop := bit (s.sticky p) b = true

theorem stuck_of_regs {s t : State} (hv : t.variant = s.variant) (hr : t.regs = s.regs) {p b : Nat} (h : s.stuck p b) : t.stuck p b := by
  unfold State.stuck State.sticky at *
  rw [State.fld_congr hv hr]
  exact h

theorem stuck_setFld {s : State} {p b : Nat} (h : s.stuck p b) (f : Fld) (i v : Nat) (hl : f.id < 1024)
    (hf : f.id ≠ Reg.PG_ERR_STICKY.id) : (s.setFld f i v).stuck p b := by
  unfold State.stuck State.sticky at *
  rw [State.fld_setFld_other _ _ hf hl (by decide)]
  exact h

theorem stuck_setSticky {s : State} {p b : Nat} (h : s.stuck p b) (q c : Nat) (hb : b < 32) : (s.setSticky q c).stuck p b := by
  unfold State.setSticky
  split
  · exact h
  · rename_i hc
    by_cases hq : q = p
    · subst hq
      unfold State.stuck State.sticky at *
      rw [State.fld_setFld]
      have : Reg.PG_ERR_STICKY.width = 32 := rfl
      rw [this, bit_mod _ _ _ hb, bit_add _ _ _ (by simpa using hc), h]
      rfl
    · unfold State.stuck State.sticky at *
      rw [State.fld_setFld_index _ _ _ hq]
      exact h

theorem setSticky_stuck (s : State) (p b : Nat) (hb : b < 32) : (s.setSticky p b).stuck p b := by
  unfold State.setSticky
  split
  · assumption
  · rename_i hc
    unfold State.stuck State.sticky at *
    rw [State.fld_setFld]
    have : Reg.PG_ERR_STICKY.width = 32 := rfl
    rw [this, bit_mod _ _ _ hb, bit_add _ _ _ (by simpa using hc)]
    simp

theorem stuck_sendMsix {s : State} {p b : Nat} (h : s.stuck p b) (v : Nat) : (s.sendMsix v).stuck p b := by
  unfold State.sendMsix
  dsimp only
  split
  · exact stuck_of_regs (State.setVec_variant ..) (State.setVec_regs ..) h
  · exact stuck_setFld (stuck_of_regs (State.setVec_variant ..) (State.setVec_regs ..) h) _ _ _ (by decide) (by decide)

theorem stuck_intEdge {s : State} {p b : Nat} (h : s.stuck p b) (id : Nat) : (s.intEdge id).stuck p b := by
  have h1 : ∀ x, ((s.setSrc id x).rrAssign id).stuck p b := by
    intro x
    have h0 : (s.setSrc id x).stuck p b := stuck_of_regs (State.setSrc_variant ..) (State.setSrc_regs ..) h
    unfold State.rrAssign
    split
    · split
      · exact stuck_setFld (stuck_of_regs (State.setSrc_variant ..) (State.setSrc_regs ..) h0) _ _ _ (by decide) (by decide)
      · exact h0
    · exact h0
  unfold State.intEdge State.hostMsg
  dsimp only
  split
  · exact h
  · split
    · exact stuck_sendMsix (h1 _) _
    · exact h1 _

theorem stuck_pinEdge {s : State} {p b : Nat} (h : s.stuck p b) (u : State) : (s.pinEdge u).stuck p b := by
  unfold State.pinEdge
  split
  · exact stuck_intEdge h _
  · exact h

theorem stuck_latchEffects {s : State} {p b : Nat} (h : s.stuck p b) (c : Nat) : (s.latchEffects c).stuck p b := by
  unfold State.latchEffects
  dsimp only
  refine stuck_pinEdge ?_ _
  exact stuck_of_regs rfl rfl h

theorem stuck_collect {s : State} {p b : Nat} (h : s.stuck p b) (c : Nat) : (s.collect c).stuck p b := by
  unfold State.collect
  exact stuck_latchEffects (stuck_intEdge (stuck_setFld h _ _ _ (by decide) (by decide)) _) _

theorem stuck_latchCore {s : State} {p b : Nat} (h : s.stuck p b) (hb : b < 32) (src : Src) (i : Nat)
    : (s.latchCore src i).stuck p b := by
  unfold State.latchCore
  dsimp only
  split
  · exact stuck_collect (stuck_setSticky h _ _ hb) _
  · exact stuck_setSticky h _ _ hb

theorem latchCore_stuck (s : State) (src : Src) (i : Nat) (hb : src.bit < 32) :
    (s.latchCore src i).stuck (pageOf src.blk i) src.bit := by
  unfold State.latchCore
  dsimp only
  split
  · exact stuck_collect (setSticky_stuck _ _ _ hb) _
  · exact setSticky_stuck _ _ _ hb

theorem stuck_latchRest {s : State} {p b : Nat} (hb : b < 32) (src : Src) (i : Nat)
    (h : (s.latchCore src i).stuck p b) : (s.latch src i).stuck p b := by
  have hk : (s.latchCore src i).collectorCheck.stuck p b := by
    unfold State.collectorCheck
    split
    · rename_i u hu
      unfold State.takeInject at hu
      dsimp only at hu
      split at hu
      · cases hu
        exact stuck_latchCore (stuck_setFld h _ _ _ (by decide) (by decide)) hb _ _
      · cases hu
    · exact h
  have hl : ∀ {t : State} (c : Nat), t.stuck p b → (t.logFault src i c).stuck p b := by
    intro t c ht
    have h1 : ∀ (f : FaultSt) (k : KstSt), State.stuck { t with flt := f, kst := k } p b := fun f k => stuck_of_regs rfl rfl ht
    unfold State.logFault
    dsimp only
    split
    · exact stuck_latchCore (stuck_latchCore (h1 _ _) hb _ _) hb _ _
    · split
      · exact stuck_latchCore (stuck_setFld (h1 _ _) _ _ _ (by decide) (by decide)) hb _ _
      · exact stuck_setFld (h1 _ _) _ _ _ (by decide) (by decide)
  unfold State.latch
  dsimp only
  split
  · split
    · exact hl _ hk
    · exact hk
  · split
    · exact hl _ h
    · exact h

/-- A sticky bit that is set stays set through a latch of any source. -/
theorem State.stuck_latch {s : State} {p b : Nat} (h : s.stuck p b) (hb : b < 32) (src : Src) (i : Nat)
    : (s.latch src i).stuck p b :=
  stuck_latchRest hb src i (stuck_latchCore h hb src i)

/-- After a latch the source's sticky bit is set. -/
theorem State.latched_latch (s : State) (src : Src) (i : Nat) (hb : src.bit < 32) :
    (s.latch src i).latched src i = true :=
  stuck_latchRest hb src i (latchCore_stuck s src i hb)

end Sys2Proof.Machine
end

