-- ==== Sys2Proof/Laws/PerInstr.lean ====
section
/-! SUPPORT. Per command: operands that name only objects of the smaller variant, C624, are operands of C648 as well
(Table 0.4: no count of C648 is below that of C624). -/

set_option Elab.async false
set_option linter.all false

/-- What is well formed for C624 is well formed for C648. -/
def Sys2Proof.Laws.Operands.Statement (i : Sys2Proof.Instr) : Prop := i.wf .c624 = true → i.wf .c648 = true

/-- A larger bound admits what the smaller admits. -/
theorem Sys2Proof.Laws.Operands.below_le {x n m : Nat} (h : n ≤ m) (hx : Sys2Proof.below x n = true) : Sys2Proof.below x m = true :=
  decide_eq_true (Nat.lt_of_lt_of_le (of_decide_eq_true hx) h)

theorem Sys2Proof.Laws.Operands.powerOn : Sys2Proof.Laws.Operands.Statement .powerOn := id

theorem Sys2Proof.Laws.Operands.railOutOfRange : Sys2Proof.Laws.Operands.Statement .railOutOfRange := id

theorem Sys2Proof.Laws.Operands.rootPllLoss : Sys2Proof.Laws.Operands.Statement .rootPllLoss := id

theorem Sys2Proof.Laws.Operands.perstNAssert : Sys2Proof.Laws.Operands.Statement .perstNAssert := id

theorem Sys2Proof.Laws.Operands.perstNRelease : Sys2Proof.Laws.Operands.Statement .perstNRelease := id

theorem Sys2Proof.Laws.Operands.windingW0 (testMode_ : Bool) (capWriteN_ : Bool) (bootSel_ : Nat) : Sys2Proof.Laws.Operands.Statement (.windingW0 testMode_ capWriteN_ bootSel_) := id

theorem Sys2Proof.Laws.Operands.selfTestGroup (g_ : Nat) (coverage_ : Nat) (durUs_ : Nat) (fail_ : Sys2Proof.BstFail) : Sys2Proof.Laws.Operands.Statement (.selfTestGroup g_ coverage_ durUs_ fail_) := id

theorem Sys2Proof.Laws.Operands.selfTestTimeout (g_ : Nat) (coverage_ : Nat) : Sys2Proof.Laws.Operands.Statement (.selfTestTimeout g_ coverage_) := id

theorem Sys2Proof.Laws.Operands.windingW2 : Sys2Proof.Laws.Operands.Statement .windingW2 := id

theorem Sys2Proof.Laws.Operands.windingW3 : Sys2Proof.Laws.Operands.Statement .windingW3 := id

theorem Sys2Proof.Laws.Operands.windingW4 : Sys2Proof.Laws.Operands.Statement .windingW4 := id

theorem Sys2Proof.Laws.Operands.windingW5 (chans_ : List Sys2Proof.ChanTrain) (timing_ : List Nat) : Sys2Proof.Laws.Operands.Statement (.windingW5 chans_ timing_) := id

theorem Sys2Proof.Laws.Operands.windingW6 : Sys2Proof.Laws.Operands.Statement .windingW6 := id

theorem Sys2Proof.Laws.Operands.windingW7 : Sys2Proof.Laws.Operands.Statement .windingW7 := id

theorem Sys2Proof.Laws.Operands.strapSample (testMode_ : Bool) (capWriteN_ : Bool) : Sys2Proof.Laws.Operands.Statement (.strapSample testMode_ capWriteN_) := id

theorem Sys2Proof.Laws.Operands.configRequestEarly (config_ : Bool) : Sys2Proof.Laws.Operands.Statement (.configRequestEarly config_) := id

theorem Sys2Proof.Laws.Operands.linkTrained (hostMode_ : Nat) (speed_ : Nat) (width_ : Nat) (flit256_ : Bool) (cacheEn_ : Bool) (memEn_ : Bool) : Sys2Proof.Laws.Operands.Statement (.linkTrained hostMode_ speed_ width_ flit256_ cacheEn_ memEn_) := id

theorem Sys2Proof.Laws.Operands.linkRetrain (speed_ : Nat) (width_ : Nat) : Sys2Proof.Laws.Operands.Statement (.linkRetrain speed_ width_) := id

theorem Sys2Proof.Laws.Operands.linkDown : Sys2Proof.Laws.Operands.Statement .linkDown := id

theorem Sys2Proof.Laws.Operands.flr : Sys2Proof.Laws.Operands.Statement .flr := id

theorem Sys2Proof.Laws.Operands.hostBadAccess (write_ : Bool) (bar_ : Nat) (offset_ : Nat) : Sys2Proof.Laws.Operands.Statement (.hostBadAccess write_ bar_ offset_) := id

theorem Sys2Proof.Laws.Operands.bar4Access (write_ : Bool) (offset_ : Nat) (len_ : Nat) (data_ : Sys2Proof.Bytes) (ecc_ : Sys2Proof.Ecc) : Sys2Proof.Laws.Operands.Statement (.bar4Access write_ offset_ len_ data_ ecc_) := id

theorem Sys2Proof.Laws.Operands.winBaseWrite (a_ : Nat) (v_ : Sys2Proof.Word) : Sys2Proof.Laws.Operands.Statement (.winBaseWrite a_ v_) := id

theorem Sys2Proof.Laws.Operands.hostSizeWrite (v_ : Sys2Proof.Word) : Sys2Proof.Laws.Operands.Statement (.hostSizeWrite v_) := id

theorem Sys2Proof.Laws.Operands.hdmDecoderCommit (d_ : HdmRange) (biEnable_ : Bool) : Sys2Proof.Laws.Operands.Statement (.hdmDecoderCommit d_ biEnable_) := id

theorem Sys2Proof.Laws.Operands.biSnoopResponse (line_ : Nat) : Sys2Proof.Laws.Operands.Statement (.biSnoopResponse line_) := id

theorem Sys2Proof.Laws.Operands.hostLineSnoop (line_ : Nat) : Sys2Proof.Laws.Operands.Statement (.hostLineSnoop line_) := id

theorem Sys2Proof.Laws.Operands.ccacheFlush (v_ : Sys2Proof.Word) : Sys2Proof.Laws.Operands.Statement (.ccacheFlush v_) := id

theorem Sys2Proof.Laws.Operands.tenantEnable (n_ : Nat) (v_ : Sys2Proof.Word) : Sys2Proof.Laws.Operands.Statement (.tenantEnable n_ v_) := id

theorem Sys2Proof.Laws.Operands.tenantDisable (n_ : Nat) (v_ : Sys2Proof.Word) : Sys2Proof.Laws.Operands.Statement (.tenantDisable n_ v_) := id

theorem Sys2Proof.Laws.Operands.dbgrpOwnerWrite (w_ : Nat) (v_ : Sys2Proof.Word) : Sys2Proof.Laws.Operands.Statement (.dbgrpOwnerWrite w_ v_) := id

theorem Sys2Proof.Laws.Operands.addressTranslationFail (ring_ : Nat) (index_ : Nat) : Sys2Proof.Laws.Operands.Statement (.addressTranslationFail ring_ index_) :=
  fun h => by
    simp only [Sys2Proof.Instr.wf, Bool.and_eq_true] at h ⊢
    exact ⟨Sys2Proof.Laws.Operands.below_le (by decide) h.1, h.2⟩

theorem Sys2Proof.Laws.Operands.ideCheckFail : Sys2Proof.Laws.Operands.Statement .ideCheckFail := id

theorem Sys2Proof.Laws.Operands.spdmRequest (code_ : Nat) (data_ : SpdmData) : Sys2Proof.Laws.Operands.Statement (.spdmRequest code_ data_) := id

theorem Sys2Proof.Laws.Operands.setCertificate (slot_ : Nat) (secured_ : Bool) (chain_ : Sys2Proof.Bytes) : Sys2Proof.Laws.Operands.Statement (.setCertificate slot_ secured_ chain_) := id

theorem Sys2Proof.Laws.Operands.msixUnmask (mask_ : MsixMask) : Sys2Proof.Laws.Operands.Statement (.msixUnmask mask_) := id

theorem Sys2Proof.Laws.Operands.rngDbPi (ring_ : Nat) (v_ : Sys2Proof.Word) (entries_ : List Sys2Proof.Bytes) : Sys2Proof.Laws.Operands.Statement (.rngDbPi ring_ v_ entries_) :=
  Sys2Proof.Laws.Operands.below_le (by decide)

theorem Sys2Proof.Laws.Operands.rngDbCi (ring_ : Nat) (v_ : Sys2Proof.Word) : Sys2Proof.Laws.Operands.Statement (.rngDbCi ring_ v_) :=
  Sys2Proof.Laws.Operands.below_le (by decide)

theorem Sys2Proof.Laws.Operands.payloadFetch (ring_ : Nat) : Sys2Proof.Laws.Operands.Statement (.payloadFetch ring_) :=
  Sys2Proof.Laws.Operands.below_le (by decide)

theorem Sys2Proof.Laws.Operands.payloadFetchDone (ring_ : Nat) (payload_ : Sys2Proof.Bytes) (au_ : Sys2Proof.AuInfo) : Sys2Proof.Laws.Operands.Statement (.payloadFetchDone ring_ payload_ au_) :=
  Sys2Proof.Laws.Operands.below_le (by decide)

theorem Sys2Proof.Laws.Operands.seqGapTimeout (stream_ : Nat) : Sys2Proof.Laws.Operands.Statement (.seqGapTimeout stream_) :=
  Sys2Proof.Laws.Operands.below_le (by decide)

theorem Sys2Proof.Laws.Operands.ringCfgWrite (ring_ : Nat) (reg_ : Nat) (v_ : Sys2Proof.Word) : Sys2Proof.Laws.Operands.Statement (.ringCfgWrite ring_ reg_ v_) :=
  fun h => by
    simp only [Sys2Proof.Instr.wf, Bool.and_eq_true] at h ⊢
    exact ⟨Sys2Proof.Laws.Operands.below_le (by decide) h.1, h.2⟩

theorem Sys2Proof.Laws.Operands.ringEnable (ring_ : Nat) (v_ : Sys2Proof.Word) : Sys2Proof.Laws.Operands.Statement (.ringEnable ring_ v_) :=
  Sys2Proof.Laws.Operands.below_le (by decide)

theorem Sys2Proof.Laws.Operands.ringDisable (ring_ : Nat) (v_ : Sys2Proof.Word) : Sys2Proof.Laws.Operands.Statement (.ringDisable ring_ v_) :=
  Sys2Proof.Laws.Operands.below_le (by decide)

theorem Sys2Proof.Laws.Operands.commandFetch (ring_ : Nat) (entry_ : Sys2Proof.Bytes) : Sys2Proof.Laws.Operands.Statement (.commandFetch ring_ entry_) :=
  fun h => by
    simp only [Sys2Proof.Instr.wf, Bool.and_eq_true] at h ⊢
    exact ⟨Sys2Proof.Laws.Operands.below_le (by decide) h.1, h.2⟩

theorem Sys2Proof.Laws.Operands.fencedCommandStart (job_ : Nat) : Sys2Proof.Laws.Operands.Statement (.fencedCommandStart job_) :=
  Sys2Proof.Laws.Operands.below_le (by decide)

theorem Sys2Proof.Laws.Operands.streamOpen (job_ : Nat) : Sys2Proof.Laws.Operands.Statement (.streamOpen job_) :=
  Sys2Proof.Laws.Operands.below_le (by decide)

theorem Sys2Proof.Laws.Operands.streamClose (job_ : Nat) : Sys2Proof.Laws.Operands.Statement (.streamClose job_) :=
  Sys2Proof.Laws.Operands.below_le (by decide)

theorem Sys2Proof.Laws.Operands.streamFlush (job_ : Nat) : Sys2Proof.Laws.Operands.Statement (.streamFlush job_) :=
  Sys2Proof.Laws.Operands.below_le (by decide)

theorem Sys2Proof.Laws.Operands.streamSetPolicy (job_ : Nat) : Sys2Proof.Laws.Operands.Statement (.streamSetPolicy job_) :=
  Sys2Proof.Laws.Operands.below_le (by decide)

theorem Sys2Proof.Laws.Operands.calibreWrite (job_ : Nat) (image_ : Sys2Proof.Bytes) (read_ : Sys2Proof.ReadEnd) : Sys2Proof.Laws.Operands.Statement (.calibreWrite job_ image_ read_) :=
  Sys2Proof.Laws.Operands.below_le (by decide)

theorem Sys2Proof.Laws.Operands.calibreWriteCommit (job_ : Nat) : Sys2Proof.Laws.Operands.Statement (.calibreWriteCommit job_) :=
  Sys2Proof.Laws.Operands.below_le (by decide)

theorem Sys2Proof.Laws.Operands.calibreSwap (job_ : Nat) : Sys2Proof.Laws.Operands.Statement (.calibreSwap job_) :=
  Sys2Proof.Laws.Operands.below_le (by decide)

theorem Sys2Proof.Laws.Operands.swapArmed : Sys2Proof.Laws.Operands.Statement .swapArmed := id

theorem Sys2Proof.Laws.Operands.oldBankRelease : Sys2Proof.Laws.Operands.Statement .oldBankRelease := id

theorem Sys2Proof.Laws.Operands.calibreRead (job_ : Nat) : Sys2Proof.Laws.Operands.Statement (.calibreRead job_) :=
  Sys2Proof.Laws.Operands.below_le (by decide)

theorem Sys2Proof.Laws.Operands.calibreSave (ok_ : Bool) : Sys2Proof.Laws.Operands.Statement (.calibreSave ok_) := id

theorem Sys2Proof.Laws.Operands.encSessionOpen (job_ : Nat) : Sys2Proof.Laws.Operands.Statement (.encSessionOpen job_) :=
  Sys2Proof.Laws.Operands.below_le (by decide)

theorem Sys2Proof.Laws.Operands.encSessionClose (job_ : Nat) : Sys2Proof.Laws.Operands.Statement (.encSessionClose job_) :=
  Sys2Proof.Laws.Operands.below_le (by decide)

theorem Sys2Proof.Laws.Operands.dmaSubmit (job_ : Nat) : Sys2Proof.Laws.Operands.Statement (.dmaSubmit job_) :=
  Sys2Proof.Laws.Operands.below_le (by decide)

theorem Sys2Proof.Laws.Operands.tileRefresh (job_ : Nat) : Sys2Proof.Laws.Operands.Statement (.tileRefresh job_) :=
  Sys2Proof.Laws.Operands.below_le (by decide)

theorem Sys2Proof.Laws.Operands.tileIdentityRead (job_ : Nat) : Sys2Proof.Laws.Operands.Statement (.tileIdentityRead job_) :=
  Sys2Proof.Laws.Operands.below_le (by decide)

theorem Sys2Proof.Laws.Operands.complicationLoad (job_ : Nat) (image_ : Sys2Proof.Bytes) (read_ : Sys2Proof.ReadEnd) (init_ : Option Bool) : Sys2Proof.Laws.Operands.Statement (.complicationLoad job_ image_ read_ init_) :=
  Sys2Proof.Laws.Operands.below_le (by decide)

theorem Sys2Proof.Laws.Operands.query (job_ : Nat) : Sys2Proof.Laws.Operands.Statement (.query job_) :=
  Sys2Proof.Laws.Operands.below_le (by decide)

theorem Sys2Proof.Laws.Operands.nop (job_ : Nat) : Sys2Proof.Laws.Operands.Statement (.nop job_) :=
  Sys2Proof.Laws.Operands.below_le (by decide)

theorem Sys2Proof.Laws.Operands.mtrEnable (m_ : Nat) (v_ : Sys2Proof.Word) : Sys2Proof.Laws.Operands.Statement (.mtrEnable m_ v_) :=
  Sys2Proof.Laws.Operands.below_le (by decide)

theorem Sys2Proof.Laws.Operands.mtrRateWrite (m_ : Nat) (reg_ : Nat) (v_ : Sys2Proof.Word) : Sys2Proof.Laws.Operands.Statement (.mtrRateWrite m_ reg_ v_) :=
  fun h => by
    simp only [Sys2Proof.Instr.wf, Bool.and_eq_true] at h ⊢
    exact ⟨Sys2Proof.Laws.Operands.below_le (by decide) h.1, h.2⟩

theorem Sys2Proof.Laws.Operands.sysQueryCtl (v_ : Sys2Proof.Word) : Sys2Proof.Laws.Operands.Statement (.sysQueryCtl v_) := id

theorem Sys2Proof.Laws.Operands.queryResultReady : Sys2Proof.Laws.Operands.Statement .queryResultReady := id

theorem Sys2Proof.Laws.Operands.sysQueryResultRead : Sys2Proof.Laws.Operands.Statement .sysQueryResultRead := id

theorem Sys2Proof.Laws.Operands.audSnapTake (page_ : Nat) : Sys2Proof.Laws.Operands.Statement (.audSnapTake page_) := id

theorem Sys2Proof.Laws.Operands.frameMark : Sys2Proof.Laws.Operands.Statement .frameMark := id

theorem Sys2Proof.Laws.Operands.wallsyncEdge : Sys2Proof.Laws.Operands.Statement .wallsyncEdge := id

theorem Sys2Proof.Laws.Operands.wallsyncHoldover : Sys2Proof.Laws.Operands.Statement .wallsyncHoldover := id

theorem Sys2Proof.Laws.Operands.unitDispatch (core_ : Nat) : Sys2Proof.Laws.Operands.Statement (.unitDispatch core_) :=
  Sys2Proof.Laws.Operands.below_le (by decide)

theorem Sys2Proof.Laws.Operands.workUnitDone (core_ : Nat) (res_ : Sys2Proof.UnitResult) : Sys2Proof.Laws.Operands.Statement (.workUnitDone core_ res_) :=
  Sys2Proof.Laws.Operands.below_le (by decide)

theorem Sys2Proof.Laws.Operands.pinCopyDone (stream_ : Nat) (order_ : Nat) : Sys2Proof.Laws.Operands.Statement (.pinCopyDone stream_ order_) :=
  Sys2Proof.Laws.Operands.below_le (by decide)

theorem Sys2Proof.Laws.Operands.pickup (window_ : Nat) : Sys2Proof.Laws.Operands.Statement (.pickup window_) := id

theorem Sys2Proof.Laws.Operands.streamDrainDone (stream_ : Nat) : Sys2Proof.Laws.Operands.Statement (.streamDrainDone stream_) :=
  Sys2Proof.Laws.Operands.below_le (by decide)

theorem Sys2Proof.Laws.Operands.drainTimeout (stream_ : Nat) : Sys2Proof.Laws.Operands.Statement (.drainTimeout stream_) :=
  Sys2Proof.Laws.Operands.below_le (by decide)

theorem Sys2Proof.Laws.Operands.decCoreCtlOffline (core_ : Nat) (v_ : Sys2Proof.Word) : Sys2Proof.Laws.Operands.Statement (.decCoreCtlOffline core_ v_) :=
  Sys2Proof.Laws.Operands.below_le (by decide)

theorem Sys2Proof.Laws.Operands.decCoreReset (core_ : Nat) : Sys2Proof.Laws.Operands.Statement (.decCoreReset core_) :=
  Sys2Proof.Laws.Operands.below_le (by decide)

theorem Sys2Proof.Laws.Operands.rfsRegionWrite (reg_ : Nat) (v_ : Sys2Proof.Word) : Sys2Proof.Laws.Operands.Statement (.rfsRegionWrite reg_ v_) := id

theorem Sys2Proof.Laws.Operands.rowPairStart : Sys2Proof.Laws.Operands.Statement .rowPairStart := id

theorem Sys2Proof.Laws.Operands.driveRowPair : Sys2Proof.Laws.Operands.Statement .driveRowPair := id

theorem Sys2Proof.Laws.Operands.fusCapCommit : Sys2Proof.Laws.Operands.Statement .fusCapCommit := id

theorem Sys2Proof.Laws.Operands.capCommitStoreDone (okA_ : Bool) (okB_ : Bool) : Sys2Proof.Laws.Operands.Statement (.capCommitStoreDone okA_ okB_) := id

theorem Sys2Proof.Laws.Operands.fusForce (page_ : Nat) (v_ : Sys2Proof.Word) : Sys2Proof.Laws.Operands.Statement (.fusForce page_ v_) := id

theorem Sys2Proof.Laws.Operands.mzeRowPairStart (core_ : Nat) : Sys2Proof.Laws.Operands.Statement (.mzeRowPairStart core_) :=
  Sys2Proof.Laws.Operands.below_le (by decide)

theorem Sys2Proof.Laws.Operands.mzeRowPairDone (core_ : Nat) : Sys2Proof.Laws.Operands.Statement (.mzeRowPairDone core_) :=
  Sys2Proof.Laws.Operands.below_le (by decide)

theorem Sys2Proof.Laws.Operands.linkFrameSubmit (input_ : Nat) : Sys2Proof.Laws.Operands.Statement (.linkFrameSubmit input_) := id

theorem Sys2Proof.Laws.Operands.mzeCoreReset (core_ : Nat) : Sys2Proof.Laws.Operands.Statement (.mzeCoreReset core_) :=
  Sys2Proof.Laws.Operands.below_le (by decide)

theorem Sys2Proof.Laws.Operands.mzeRefRegionWrite (reg_ : Nat) (v_ : Sys2Proof.Word) : Sys2Proof.Laws.Operands.Statement (.mzeRefRegionWrite reg_ v_) := id

theorem Sys2Proof.Laws.Operands.encSourceReady (session_ : Nat) : Sys2Proof.Laws.Operands.Statement (.encSourceReady session_) :=
  Sys2Proof.Laws.Operands.below_le (by decide)

theorem Sys2Proof.Laws.Operands.encPictureStart (session_ : Nat) : Sys2Proof.Laws.Operands.Statement (.encPictureStart session_) :=
  Sys2Proof.Laws.Operands.below_le (by decide)

theorem Sys2Proof.Laws.Operands.encPictureDone (session_ : Nat) (cols_ : List EncCol) (qp_ : Nat) (guard_ : List (List Nat)) : Sys2Proof.Laws.Operands.Statement (.encPictureDone session_ cols_ qp_ guard_) :=
  fun h => by
    simp only [Sys2Proof.Instr.wf, Bool.and_eq_true] at h ⊢
    exact ⟨Sys2Proof.Laws.Operands.below_le (by decide) h.1, h.2⟩

theorem Sys2Proof.Laws.Operands.encCoreReset (core_ : Nat) : Sys2Proof.Laws.Operands.Statement (.encCoreReset core_) :=
  Sys2Proof.Laws.Operands.below_le (by decide)

theorem Sys2Proof.Laws.Operands.encRegionWrite (reg_ : Nat) (v_ : Sys2Proof.Word) : Sys2Proof.Laws.Operands.Statement (.encRegionWrite reg_ v_) := id

theorem Sys2Proof.Laws.Operands.alloc (r_ : Sys2Proof.PoolReq) : Sys2Proof.Laws.Operands.Statement (.alloc r_) := id

theorem Sys2Proof.Laws.Operands.share (r_ : Sys2Proof.PoolReq) (buf_ : Nat) (n_ : Nat) (holder_ : Nat) : Sys2Proof.Laws.Operands.Statement (.share r_ buf_ n_ holder_) := id

theorem Sys2Proof.Laws.Operands.release (r_ : Sys2Proof.PoolReq) (buf_ : Nat) : Sys2Proof.Laws.Operands.Statement (.release r_ buf_) := id

theorem Sys2Proof.Laws.Operands.free (r_ : Sys2Proof.PoolReq) (buf_ : Nat) : Sys2Proof.Laws.Operands.Statement (.free r_ buf_) := id

theorem Sys2Proof.Laws.Operands.handover (r_ : Sys2Proof.PoolReq) (buf_ : Nat) (new_ : Nat) : Sys2Proof.Laws.Operands.Statement (.handover r_ buf_ new_) := id

theorem Sys2Proof.Laws.Operands.listRebuildDone (pool_ : Nat) : Sys2Proof.Laws.Operands.Statement (.listRebuildDone pool_) := id

theorem Sys2Proof.Laws.Operands.forceFree (v_ : Sys2Proof.Word) : Sys2Proof.Laws.Operands.Statement (.forceFree v_) := id

theorem Sys2Proof.Laws.Operands.forceOwner (v_ : Sys2Proof.Word) : Sys2Proof.Laws.Operands.Statement (.forceOwner v_) := id

theorem Sys2Proof.Laws.Operands.dpoolConfigWrite (reg_ : Nat) (v_ : Sys2Proof.Word) : Sys2Proof.Laws.Operands.Statement (.dpoolConfigWrite reg_ v_) := id

theorem Sys2Proof.Laws.Operands.dpoolRebuildDone : Sys2Proof.Laws.Operands.Statement .dpoolRebuildDone := id

theorem Sys2Proof.Laws.Operands.quotaWrite (owner_ : Nat) (v_ : Sys2Proof.Word) : Sys2Proof.Laws.Operands.Statement (.quotaWrite owner_ v_) := id

theorem Sys2Proof.Laws.Operands.minWrite (owner_ : Nat) (v_ : Sys2Proof.Word) : Sys2Proof.Laws.Operands.Statement (.minWrite owner_ v_) := id

theorem Sys2Proof.Laws.Operands.cellMatch : Sys2Proof.Laws.Operands.Statement .cellMatch := id

theorem Sys2Proof.Laws.Operands.portMark (port_ : Nat) : Sys2Proof.Laws.Operands.Statement (.portMark port_) :=
  Sys2Proof.Laws.Operands.below_le (by decide)

theorem Sys2Proof.Laws.Operands.linkFrameDepart (port_ : Nat) (slot_ : Nat) : Sys2Proof.Laws.Operands.Statement (.linkFrameDepart port_ slot_) :=
  Sys2Proof.Laws.Operands.below_le (by decide)

theorem Sys2Proof.Laws.Operands.tileClose (port_ : Nat) (tile_ : Nat) : Sys2Proof.Laws.Operands.Statement (.tileClose port_ tile_) :=
  fun h => by
    simp only [Sys2Proof.Instr.wf, Bool.and_eq_true] at h ⊢
    exact ⟨Sys2Proof.Laws.Operands.below_le (by decide) h.1, Sys2Proof.Laws.Operands.below_le (by decide) h.2⟩

theorem Sys2Proof.Laws.Operands.shaperRateWrite (port_ : Nat) (v_ : Sys2Proof.Word) : Sys2Proof.Laws.Operands.Statement (.shaperRateWrite port_ v_) :=
  Sys2Proof.Laws.Operands.below_le (by decide)

theorem Sys2Proof.Laws.Operands.shaperBurstWrite (port_ : Nat) (v_ : Sys2Proof.Word) : Sys2Proof.Laws.Operands.Statement (.shaperBurstWrite port_ v_) :=
  Sys2Proof.Laws.Operands.below_le (by decide)

theorem Sys2Proof.Laws.Operands.shaperForgive (port_ : Nat) : Sys2Proof.Laws.Operands.Statement (.shaperForgive port_) :=
  Sys2Proof.Laws.Operands.below_le (by decide)

theorem Sys2Proof.Laws.Operands.shaperEnable (port_ : Nat) (v_ : Sys2Proof.Word) : Sys2Proof.Laws.Operands.Statement (.shaperEnable port_ v_) :=
  Sys2Proof.Laws.Operands.below_le (by decide)

theorem Sys2Proof.Laws.Operands.shaperDisable (port_ : Nat) (v_ : Sys2Proof.Word) : Sys2Proof.Laws.Operands.Statement (.shaperDisable port_ v_) :=
  Sys2Proof.Laws.Operands.below_le (by decide)

theorem Sys2Proof.Laws.Operands.beatTableParity (port_ : Nat) : Sys2Proof.Laws.Operands.Statement (.beatTableParity port_) :=
  Sys2Proof.Laws.Operands.below_le (by decide)

theorem Sys2Proof.Laws.Operands.portTrainStart (port_ : Nat) : Sys2Proof.Laws.Operands.Statement (.portTrainStart port_) :=
  Sys2Proof.Laws.Operands.below_le (by decide)

theorem Sys2Proof.Laws.Operands.trainAlignTimeout (port_ : Nat) : Sys2Proof.Laws.Operands.Statement (.trainAlignTimeout port_) :=
  Sys2Proof.Laws.Operands.below_le (by decide)

theorem Sys2Proof.Laws.Operands.trainRetryTimer (port_ : Nat) : Sys2Proof.Laws.Operands.Statement (.trainRetryTimer port_) :=
  Sys2Proof.Laws.Operands.below_le (by decide)

theorem Sys2Proof.Laws.Operands.tsType2Received (port_ : Nat) (pos_ : Nat) (vers_ : Nat) (rest_ : TrainRest) : Sys2Proof.Laws.Operands.Statement (.tsType2Received port_ pos_ vers_ rest_) :=
  fun h => by
    simp only [Sys2Proof.Instr.wf, Bool.and_eq_true] at h ⊢
    exact ⟨⟨⟨Sys2Proof.Laws.Operands.below_le (by decide) h.1.1.1, h.1.1.2⟩, h.1.2⟩, h.2⟩

theorem Sys2Proof.Laws.Operands.positionCollectTimeout (port_ : Nat) : Sys2Proof.Laws.Operands.Statement (.positionCollectTimeout port_) :=
  Sys2Proof.Laws.Operands.below_le (by decide)

theorem Sys2Proof.Laws.Operands.tsType4Received (port_ : Nat) (pos_ : Nat) (set_ : TrainVers) : Sys2Proof.Laws.Operands.Statement (.tsType4Received port_ pos_ set_) :=
  fun h => by
    simp only [Sys2Proof.Instr.wf, Bool.and_eq_true] at h ⊢
    exact ⟨⟨⟨Sys2Proof.Laws.Operands.below_le (by decide) h.1.1.1, h.1.1.2⟩, h.1.2⟩, h.2⟩

theorem Sys2Proof.Laws.Operands.versionConfirmTimeout (port_ : Nat) (pos_ : Nat) : Sys2Proof.Laws.Operands.Statement (.versionConfirmTimeout port_ pos_) :=
  fun h => by
    simp only [Sys2Proof.Instr.wf, Bool.and_eq_true] at h ⊢
    exact ⟨Sys2Proof.Laws.Operands.below_le (by decide) h.1, h.2⟩

theorem Sys2Proof.Laws.Operands.echoReceived (port_ : Nat) (pos_ : Nat) (rtNs_ : Nat) : Sys2Proof.Laws.Operands.Statement (.echoReceived port_ pos_ rtNs_) :=
  fun h => by
    simp only [Sys2Proof.Instr.wf, Bool.and_eq_true] at h ⊢
    exact ⟨Sys2Proof.Laws.Operands.below_le (by decide) h.1, h.2⟩

theorem Sys2Proof.Laws.Operands.trainComplete (port_ : Nat) : Sys2Proof.Laws.Operands.Statement (.trainComplete port_) :=
  Sys2Proof.Laws.Operands.below_le (by decide)

theorem Sys2Proof.Laws.Operands.laneAlignLoss (lane_ : LaneRun) : Sys2Proof.Laws.Operands.Statement (.laneAlignLoss lane_) :=
  Sys2Proof.Laws.Operands.below_le (by decide)

theorem Sys2Proof.Laws.Operands.fomMeasure (lane_ : Nat) (fom_ : Nat) : Sys2Proof.Laws.Operands.Statement (.fomMeasure lane_ fom_) :=
  fun h => by
    simp only [Sys2Proof.Instr.wf, Bool.and_eq_true] at h ⊢
    exact ⟨Sys2Proof.Laws.Operands.below_le (by decide) h.1, h.2⟩

theorem Sys2Proof.Laws.Operands.plkRetrain (port_ : Nat) : Sys2Proof.Laws.Operands.Statement (.plkRetrain port_) :=
  Sys2Proof.Laws.Operands.below_le (by decide)

theorem Sys2Proof.Laws.Operands.plkPortCfgWrite (port_ : Nat) (v_ : Sys2Proof.Word) : Sys2Proof.Laws.Operands.Statement (.plkPortCfgWrite port_ v_) :=
  Sys2Proof.Laws.Operands.below_le (by decide)

theorem Sys2Proof.Laws.Operands.portTestEnter (port_ : Nat) : Sys2Proof.Laws.Operands.Statement (.portTestEnter port_) :=
  Sys2Proof.Laws.Operands.below_le (by decide)

theorem Sys2Proof.Laws.Operands.portTestClear (port_ : Nat) : Sys2Proof.Laws.Operands.Statement (.portTestClear port_) :=
  Sys2Proof.Laws.Operands.below_le (by decide)

theorem Sys2Proof.Laws.Operands.lneTestInject (lane_ : Nat) : Sys2Proof.Laws.Operands.Statement (.lneTestInject lane_) :=
  Sys2Proof.Laws.Operands.below_le (by decide)

theorem Sys2Proof.Laws.Operands.statusFrame (port_ : Nat) (frame_ : Sys2Proof.Bytes) : Sys2Proof.Laws.Operands.Statement (.statusFrame port_ frame_) :=
  Sys2Proof.Laws.Operands.below_le (by decide)

theorem Sys2Proof.Laws.Operands.mgmtResponse (port_ : Nat) (frame_ : Sys2Proof.Bytes) : Sys2Proof.Laws.Operands.Statement (.mgmtResponse port_ frame_) :=
  Sys2Proof.Laws.Operands.below_le (by decide)

theorem Sys2Proof.Laws.Operands.identityReplyTimeout (port_ : Nat) (pos_ : Nat) : Sys2Proof.Laws.Operands.Statement (.identityReplyTimeout port_ pos_) :=
  fun h => by
    simp only [Sys2Proof.Instr.wf, Bool.and_eq_true] at h ⊢
    exact ⟨Sys2Proof.Laws.Operands.below_le (by decide) h.1, h.2⟩

theorem Sys2Proof.Laws.Operands.identityReread (port_ : Nat) (pos_ : Nat) : Sys2Proof.Laws.Operands.Statement (.identityReread port_ pos_) :=
  fun h => by
    simp only [Sys2Proof.Instr.wf, Bool.and_eq_true] at h ⊢
    exact ⟨Sys2Proof.Laws.Operands.below_le (by decide) h.1, h.2⟩

theorem Sys2Proof.Laws.Operands.creditBlock (port_ : Nat) (n_ : Nat) : Sys2Proof.Laws.Operands.Statement (.creditBlock port_ n_) :=
  fun h => by
    simp only [Sys2Proof.Instr.wf, Bool.and_eq_true] at h ⊢
    exact ⟨Sys2Proof.Laws.Operands.below_le (by decide) h.1, h.2⟩

theorem Sys2Proof.Laws.Operands.upstreamFrame (port_ : Nat) (frame_ : Sys2Proof.Bytes) : Sys2Proof.Laws.Operands.Statement (.upstreamFrame port_ frame_) :=
  Sys2Proof.Laws.Operands.below_le (by decide)

theorem Sys2Proof.Laws.Operands.modulePoll (bus_ : Nat) (found_ : List Sys2Proof.ModInfo) : Sys2Proof.Laws.Operands.Statement (.modulePoll bus_ found_) := id

theorem Sys2Proof.Laws.Operands.i2cGo (v_ : Sys2Proof.Word) : Sys2Proof.Laws.Operands.Statement (.i2cGo v_) := id

theorem Sys2Proof.Laws.Operands.escRoutineStart (kind_ : Nat) (index_ : Nat) (routine_ : Nat) : Sys2Proof.Laws.Operands.Statement (.escRoutineStart kind_ index_ routine_) := id

theorem Sys2Proof.Laws.Operands.escRoutineExit (kind_ : Nat) (index_ : Nat) (conds_ : List (BitVec 64)) : Sys2Proof.Laws.Operands.Statement (.escRoutineExit kind_ index_ conds_) := id

theorem Sys2Proof.Laws.Operands.escWaitTimeout (kind_ : Nat) (index_ : Nat) (conds_ : List (BitVec 64)) : Sys2Proof.Laws.Operands.Statement (.escWaitTimeout kind_ index_ conds_) := id

theorem Sys2Proof.Laws.Operands.escSafePointExit (kind_ : Nat) (index_ : Nat) (conds_ : List (BitVec 64)) : Sys2Proof.Laws.Operands.Statement (.escSafePointExit kind_ index_ conds_) := id

theorem Sys2Proof.Laws.Operands.stopLimitExpiry (kind_ : Nat) (index_ : Nat) : Sys2Proof.Laws.Operands.Statement (.stopLimitExpiry kind_ index_) := id

theorem Sys2Proof.Laws.Operands.microwordParity (kind_ : Nat) (index_ : Nat) : Sys2Proof.Laws.Operands.Statement (.microwordParity kind_ index_) := id

theorem Sys2Proof.Laws.Operands.escLoadGo (v_ : Sys2Proof.Word) : Sys2Proof.Laws.Operands.Statement (.escLoadGo v_) := id

theorem Sys2Proof.Laws.Operands.escLoadDone : Sys2Proof.Laws.Operands.Statement .escLoadDone := id

theorem Sys2Proof.Laws.Operands.pgEnableClear (page_ : Nat) : Sys2Proof.Laws.Operands.Statement (.pgEnableClear page_) := id

theorem Sys2Proof.Laws.Operands.pgEnableSet (page_ : Nat) : Sys2Proof.Laws.Operands.Statement (.pgEnableSet page_) := id

theorem Sys2Proof.Laws.Operands.pgSoftReset (page_ : Nat) : Sys2Proof.Laws.Operands.Statement (.pgSoftReset page_) := id

theorem Sys2Proof.Laws.Operands.pgSafeStop (page_ : Nat) : Sys2Proof.Laws.Operands.Statement (.pgSafeStop page_) := id

theorem Sys2Proof.Laws.Operands.bundleWriteGo (v_ : Sys2Proof.Word) : Sys2Proof.Laws.Operands.Statement (.bundleWriteGo v_) := id

theorem Sys2Proof.Laws.Operands.bundleWriteDone (readBackOk_ : Bool) : Sys2Proof.Laws.Operands.Statement (.bundleWriteDone readBackOk_) := id

theorem Sys2Proof.Laws.Operands.watchdogRestart (g_ : Nat) : Sys2Proof.Laws.Operands.Statement (.watchdogRestart g_) :=
  Sys2Proof.Laws.Operands.below_le (by decide)

theorem Sys2Proof.Laws.Operands.watchdogHalf (g_ : Nat) : Sys2Proof.Laws.Operands.Statement (.watchdogHalf g_) :=
  Sys2Proof.Laws.Operands.below_le (by decide)

theorem Sys2Proof.Laws.Operands.watchdogExpire (g_ : Nat) : Sys2Proof.Laws.Operands.Statement (.watchdogExpire g_) :=
  Sys2Proof.Laws.Operands.below_le (by decide)

theorem Sys2Proof.Laws.Operands.rglReload (g_ : Nat) : Sys2Proof.Laws.Operands.Statement (.rglReload g_) :=
  Sys2Proof.Laws.Operands.below_le (by decide)

theorem Sys2Proof.Laws.Operands.hostMbxPost (g_ : Nat) : Sys2Proof.Laws.Operands.Statement (.hostMbxPost g_) :=
  Sys2Proof.Laws.Operands.below_le (by decide)

theorem Sys2Proof.Laws.Operands.lMbxPost (g_ : Nat) (v_ : Sys2Proof.Word) : Sys2Proof.Laws.Operands.Statement (.lMbxPost g_ v_) :=
  Sys2Proof.Laws.Operands.below_le (by decide)

theorem Sys2Proof.Laws.Operands.lMbxPop (g_ : Nat) : Sys2Proof.Laws.Operands.Statement (.lMbxPop g_) :=
  Sys2Proof.Laws.Operands.below_le (by decide)

theorem Sys2Proof.Laws.Operands.lRxqCiWrite (g_ : Nat) (v_ : Sys2Proof.Word) : Sys2Proof.Laws.Operands.Statement (.lRxqCiWrite g_ v_) :=
  Sys2Proof.Laws.Operands.below_le (by decide)

theorem Sys2Proof.Laws.Operands.lTxqPiWrite (g_ : Nat) (v_ : Sys2Proof.Word) : Sys2Proof.Laws.Operands.Statement (.lTxqPiWrite g_ v_) :=
  Sys2Proof.Laws.Operands.below_le (by decide)

theorem Sys2Proof.Laws.Operands.txEntrySend (g_ : Nat) : Sys2Proof.Laws.Operands.Statement (.txEntrySend g_) :=
  Sys2Proof.Laws.Operands.below_le (by decide)

theorem Sys2Proof.Laws.Operands.frameOverrunStop (g_ : Nat) (slot_ : Nat) (access_ : Bool) : Sys2Proof.Laws.Operands.Statement (.frameOverrunStop g_ slot_ access_) :=
  fun h => by
    simp only [Sys2Proof.Instr.wf, Bool.and_eq_true] at h ⊢
    exact ⟨Sys2Proof.Laws.Operands.below_le (by decide) h.1, h.2⟩

theorem Sys2Proof.Laws.Operands.yield (g_ : Nat) (slot_ : Nat) : Sys2Proof.Laws.Operands.Statement (.yield g_ slot_) :=
  fun h => by
    simp only [Sys2Proof.Instr.wf, Bool.and_eq_true] at h ⊢
    exact ⟨Sys2Proof.Laws.Operands.below_le (by decide) h.1, h.2⟩

theorem Sys2Proof.Laws.Operands.mbxSend (g_ : Nat) (slot_ : Nat) (target_ : Nat) (msg_ : Sys2Proof.Bytes) : Sys2Proof.Laws.Operands.Statement (.mbxSend g_ slot_ target_ msg_) :=
  fun h => by
    simp only [Sys2Proof.Instr.wf, Bool.and_eq_true] at h ⊢
    exact ⟨⟨⟨Sys2Proof.Laws.Operands.below_le (by decide) h.1.1.1, h.1.1.2⟩, h.1.2⟩, h.2⟩

theorem Sys2Proof.Laws.Operands.mbxRecv (g_ : Nat) (slot_ : Nat) : Sys2Proof.Laws.Operands.Statement (.mbxRecv g_ slot_) :=
  fun h => by
    simp only [Sys2Proof.Instr.wf, Bool.and_eq_true] at h ⊢
    exact ⟨Sys2Proof.Laws.Operands.below_le (by decide) h.1, h.2⟩

theorem Sys2Proof.Laws.Operands.pool (g_ : Nat) (slot_ : Nat) (op_ : Nat) (buf_ : Nat) (n_ : Nat) (owner_ : Nat) : Sys2Proof.Laws.Operands.Statement (.pool g_ slot_ op_ buf_ n_ owner_) :=
  fun h => by
    simp only [Sys2Proof.Instr.wf, Bool.and_eq_true] at h ⊢
    exact ⟨Sys2Proof.Laws.Operands.below_le (by decide) h.1, h.2⟩

theorem Sys2Proof.Laws.Operands.event (g_ : Nat) (slot_ : Nat) (code_ : Nat) (args_ : List Sys2Proof.Word) : Sys2Proof.Laws.Operands.Statement (.event g_ slot_ code_ args_) :=
  fun h => by
    simp only [Sys2Proof.Instr.wf, Bool.and_eq_true] at h ⊢
    exact ⟨⟨Sys2Proof.Laws.Operands.below_le (by decide) h.1.1, h.1.2⟩, h.2⟩

theorem Sys2Proof.Laws.Operands.time (g_ : Nat) (slot_ : Nat) : Sys2Proof.Laws.Operands.Statement (.time g_ slot_) :=
  fun h => by
    simp only [Sys2Proof.Instr.wf, Bool.and_eq_true] at h ⊢
    exact ⟨Sys2Proof.Laws.Operands.below_le (by decide) h.1, h.2⟩

theorem Sys2Proof.Laws.Operands.rxqTake (g_ : Nat) (slot_ : Nat) : Sys2Proof.Laws.Operands.Statement (.rxqTake g_ slot_) :=
  fun h => by
    simp only [Sys2Proof.Instr.wf, Bool.and_eq_true] at h ⊢
    exact ⟨Sys2Proof.Laws.Operands.below_le (by decide) h.1, h.2⟩

theorem Sys2Proof.Laws.Operands.txqPost (g_ : Nat) (slot_ : Nat) (entry_ : Sys2Proof.Bytes) : Sys2Proof.Laws.Operands.Statement (.txqPost g_ slot_ entry_) :=
  fun h => by
    simp only [Sys2Proof.Instr.wf, Bool.and_eq_true] at h ⊢
    exact ⟨⟨Sys2Proof.Laws.Operands.below_le (by decide) h.1.1, h.1.2⟩, h.2⟩

theorem Sys2Proof.Laws.Operands.publish (g_ : Nat) (slot_ : Nat) (kind_ : Nat) (addr_ : Nat) : Sys2Proof.Laws.Operands.Statement (.publish g_ slot_ kind_ addr_) :=
  fun h => by
    simp only [Sys2Proof.Instr.wf, Bool.and_eq_true] at h ⊢
    exact ⟨⟨Sys2Proof.Laws.Operands.below_le (by decide) h.1.1, h.1.2⟩, h.2⟩

theorem Sys2Proof.Laws.Operands.lookup (g_ : Nat) (slot_ : Nat) (kind_ : Nat) : Sys2Proof.Laws.Operands.Statement (.lookup g_ slot_ kind_) :=
  fun h => by
    simp only [Sys2Proof.Instr.wf, Bool.and_eq_true] at h ⊢
    exact ⟨⟨Sys2Proof.Laws.Operands.below_le (by decide) h.1.1, h.1.2⟩, h.2⟩

theorem Sys2Proof.Laws.Operands.timer (g_ : Nat) (slot_ : Nat) (us_ : Nat) : Sys2Proof.Laws.Operands.Statement (.timer g_ slot_ us_) :=
  fun h => by
    simp only [Sys2Proof.Instr.wf, Bool.and_eq_true] at h ⊢
    exact ⟨Sys2Proof.Laws.Operands.below_le (by decide) h.1, h.2⟩

theorem Sys2Proof.Laws.Operands.timerExpire (g_ : Nat) (slot_ : Nat) : Sys2Proof.Laws.Operands.Statement (.timerExpire g_ slot_) :=
  fun h => by
    simp only [Sys2Proof.Instr.wf, Bool.and_eq_true] at h ⊢
    exact ⟨Sys2Proof.Laws.Operands.below_le (by decide) h.1, h.2⟩

theorem Sys2Proof.Laws.Operands.descriptorFetch (ch_ : Nat) (desc_ : Sys2Proof.Bytes) (resp_ : Sys2Proof.DmaResp) : Sys2Proof.Laws.Operands.Statement (.descriptorFetch ch_ desc_ resp_) :=
  fun h => by
    simp only [Sys2Proof.Instr.wf, Bool.and_eq_true] at h ⊢
    exact ⟨Sys2Proof.Laws.Operands.below_le (by decide) h.1, h.2⟩

theorem Sys2Proof.Laws.Operands.dmaCopy (ch_ : Nat) (data_ : Sys2Proof.Bytes) : Sys2Proof.Laws.Operands.Statement (.dmaCopy ch_ data_) :=
  Sys2Proof.Laws.Operands.below_le (by decide)

theorem Sys2Proof.Laws.Operands.dmaFill (ch_ : Nat) : Sys2Proof.Laws.Operands.Statement (.dmaFill ch_) :=
  Sys2Proof.Laws.Operands.below_le (by decide)

theorem Sys2Proof.Laws.Operands.dmaCompare (ch_ : Nat) (a_ : Sys2Proof.Bytes) (b_ : Sys2Proof.Bytes) : Sys2Proof.Laws.Operands.Statement (.dmaCompare ch_ a_ b_) :=
  Sys2Proof.Laws.Operands.below_le (by decide)

theorem Sys2Proof.Laws.Operands.dmaAccessResponse (ch_ : Nat) (onSrc_ : Bool) (offset_ : Nat) (len_ : Nat) (resp_ : Sys2Proof.DmaResp) : Sys2Proof.Laws.Operands.Statement (.dmaAccessResponse ch_ onSrc_ offset_ len_ resp_) :=
  Sys2Proof.Laws.Operands.below_le (by decide)

theorem Sys2Proof.Laws.Operands.dmaChainTimeout (ch_ : Nat) : Sys2Proof.Laws.Operands.Statement (.dmaChainTimeout ch_) :=
  Sys2Proof.Laws.Operands.below_le (by decide)

theorem Sys2Proof.Laws.Operands.dmaGo (ch_ : Nat) : Sys2Proof.Laws.Operands.Statement (.dmaGo ch_) :=
  Sys2Proof.Laws.Operands.below_le (by decide)

theorem Sys2Proof.Laws.Operands.dmaAbort (ch_ : Nat) : Sys2Proof.Laws.Operands.Statement (.dmaAbort ch_) :=
  Sys2Proof.Laws.Operands.below_le (by decide)

theorem Sys2Proof.Laws.Operands.intSourceEdge (id_ : Nat) (priv_ : Option Nat) (level_ : Bool) : Sys2Proof.Laws.Operands.Statement (.intSourceEdge id_ priv_ level_) := id

theorem Sys2Proof.Laws.Operands.intTimerMatch (g_ : Nat) : Sys2Proof.Laws.Operands.Statement (.intTimerMatch g_) :=
  Sys2Proof.Laws.Operands.below_le (by decide)

theorem Sys2Proof.Laws.Operands.intSwset (v_ : Sys2Proof.Word) : Sys2Proof.Laws.Operands.Statement (.intSwset v_) := id

theorem Sys2Proof.Laws.Operands.lIntSwset (g_ : Nat) (v_ : Sys2Proof.Word) : Sys2Proof.Laws.Operands.Statement (.lIntSwset g_ v_) :=
  Sys2Proof.Laws.Operands.below_le (by decide)

theorem Sys2Proof.Laws.Operands.intPendClear (page_ : Nat) (w_ : Nat) (v_ : Sys2Proof.Word) : Sys2Proof.Laws.Operands.Statement (.intPendClear page_ w_ v_) := id

theorem Sys2Proof.Laws.Operands.intEntry (g_ : Nat) (pc_ : Nat) : Sys2Proof.Laws.Operands.Statement (.intEntry g_ pc_) :=
  fun h => by
    simp only [Sys2Proof.Instr.wf, Bool.and_eq_true] at h ⊢
    exact ⟨Sys2Proof.Laws.Operands.below_le (by decide) h.1, h.2⟩

theorem Sys2Proof.Laws.Operands.intMret (g_ : Nat) : Sys2Proof.Laws.Operands.Statement (.intMret g_) :=
  Sys2Proof.Laws.Operands.below_le (by decide)

theorem Sys2Proof.Laws.Operands.intHoldSet (v_ : Sys2Proof.Word) : Sys2Proof.Laws.Operands.Statement (.intHoldSet v_) := id

theorem Sys2Proof.Laws.Operands.intHoldClear (v_ : Sys2Proof.Word) : Sys2Proof.Laws.Operands.Statement (.intHoldClear v_) := id

theorem Sys2Proof.Laws.Operands.intHclaimRead (id_ : Nat) : Sys2Proof.Laws.Operands.Statement (.intHclaimRead id_) := id

theorem Sys2Proof.Laws.Operands.intHclaimWrite (id_ : Nat) (v_ : Sys2Proof.Word) : Sys2Proof.Laws.Operands.Statement (.intHclaimWrite id_ v_) := id

theorem Sys2Proof.Laws.Operands.faultNPulseEnd : Sys2Proof.Laws.Operands.Statement .faultNPulseEnd := id

theorem Sys2Proof.Laws.Operands.pgErrStickyW1c (page_ : Nat) (v_ : Sys2Proof.Word) : Sys2Proof.Laws.Operands.Statement (.pgErrStickyW1c page_ v_) := id

theorem Sys2Proof.Laws.Operands.pgErrEnableWrite (page_ : Nat) (v_ : Sys2Proof.Word) : Sys2Proof.Laws.Operands.Statement (.pgErrEnableWrite page_ v_) := id

theorem Sys2Proof.Laws.Operands.pgErrInjectWrite (page_ : Nat) (v_ : Sys2Proof.Word) : Sys2Proof.Laws.Operands.Statement (.pgErrInjectWrite page_ v_) := id

theorem Sys2Proof.Laws.Operands.testUnlockKey1 (v_ : Sys2Proof.Word) : Sys2Proof.Laws.Operands.Statement (.testUnlockKey1 v_) := id

theorem Sys2Proof.Laws.Operands.testUnlockKey2 (v_ : Sys2Proof.Word) : Sys2Proof.Laws.Operands.Statement (.testUnlockKey2 v_) := id

theorem Sys2Proof.Laws.Operands.testUnlockArmTimeout : Sys2Proof.Laws.Operands.Statement .testUnlockArmTimeout := id

theorem Sys2Proof.Laws.Operands.jtagInstruction (code_ : Nat) : Sys2Proof.Laws.Operands.Statement (.jtagInstruction code_) := id

theorem Sys2Proof.Laws.Operands.patrolScrub (line_ : Nat) (channel_ : Nat) (ecc_ : Sys2Proof.Ecc) : Sys2Proof.Laws.Operands.Statement (.patrolScrub line_ channel_ ecc_) :=
  fun h => by
    simp only [Sys2Proof.Instr.wf, Bool.and_eq_true] at h ⊢
    exact ⟨h.1, Sys2Proof.Laws.Operands.below_le (by decide) h.2⟩

theorem Sys2Proof.Laws.Operands.zeroChunk : Sys2Proof.Laws.Operands.Statement .zeroChunk := id

theorem Sys2Proof.Laws.Operands.memFreqGo (v_ : Sys2Proof.Word) : Sys2Proof.Laws.Operands.Statement (.memFreqGo v_) := id

theorem Sys2Proof.Laws.Operands.memFreqDone : Sys2Proof.Laws.Operands.Statement .memFreqDone := id

theorem Sys2Proof.Laws.Operands.memErrlogClear : Sys2Proof.Laws.Operands.Statement .memErrlogClear := id

theorem Sys2Proof.Laws.Operands.memTimingWrite (f_ : Nat) (w_ : Nat) (v_ : Sys2Proof.Word) : Sys2Proof.Laws.Operands.Statement (.memTimingWrite f_ w_ v_) := id

theorem Sys2Proof.Laws.Operands.kstXferGo (v_ : Sys2Proof.Word) : Sys2Proof.Laws.Operands.Statement (.kstXferGo v_) := id

theorem Sys2Proof.Laws.Operands.kstXferDone : Sys2Proof.Laws.Operands.Statement .kstXferDone := id

theorem Sys2Proof.Laws.Operands.pwrDomainOffReq (v_ : Sys2Proof.Word) : Sys2Proof.Laws.Operands.Statement (.pwrDomainOffReq v_) := id

theorem Sys2Proof.Laws.Operands.domainDrainDone (d_ : Nat) : Sys2Proof.Laws.Operands.Statement (.domainDrainDone d_) := id

theorem Sys2Proof.Laws.Operands.domainDrainTimeout (d_ : Nat) : Sys2Proof.Laws.Operands.Statement (.domainDrainTimeout d_) := id

theorem Sys2Proof.Laws.Operands.pwrDomainOnReq (v_ : Sys2Proof.Word) : Sys2Proof.Laws.Operands.Statement (.pwrDomainOnReq v_) := id

theorem Sys2Proof.Laws.Operands.domainWakeDone (d_ : Nat) : Sys2Proof.Laws.Operands.Statement (.domainWakeDone d_) := id

theorem Sys2Proof.Laws.Operands.thermalSample (temps_ : List Int) : Sys2Proof.Laws.Operands.Statement (.thermalSample temps_) := id

theorem Sys2Proof.Laws.Operands.smbusRead (cmd_ : Nat) : Sys2Proof.Laws.Operands.Statement (.smbusRead cmd_) := id

theorem Sys2Proof.Laws.Operands.registerWrite (by__ : Sys2Proof.Agent) (offset_ : Nat) (v_ : Sys2Proof.Word) : Sys2Proof.Laws.Operands.Statement (.registerWrite by__ offset_ v_) := by
  intro h
  cases by__ with
  | host => exact h
  | regulator g =>
    obtain ⟨h, k⟩ := (Bool.and_eq_true _ _).mp h
    exact (Bool.and_eq_true _ _).mpr ⟨Sys2Proof.Laws.Operands.below_le (by decide) h, k⟩

theorem Sys2Proof.Laws.Operands.cxlMemAccess (write_ : Bool) (addr_ : Nat) (data_ : Sys2Proof.Bytes) (ecc_ : Sys2Proof.Ecc) : Sys2Proof.Laws.Operands.Statement (.cxlMemAccess write_ addr_ data_ ecc_) := id

theorem Sys2Proof.Laws.Operands.lanePllUnlock (lane_ : Nat) : Sys2Proof.Laws.Operands.Statement (.lanePllUnlock lane_) :=
  Sys2Proof.Laws.Operands.below_le (by decide)

theorem Sys2Proof.Laws.Operands.lanePllRelock (lane_ : Nat) : Sys2Proof.Laws.Operands.Statement (.lanePllRelock lane_) :=
  Sys2Proof.Laws.Operands.below_le (by decide)

theorem Sys2Proof.Laws.Operands.i2cTransferDone (rdata_ : Nat) (nack_ : Bool) : Sys2Proof.Laws.Operands.Statement (.i2cTransferDone rdata_ nack_) := id

theorem Sys2Proof.Laws.Operands.ccacheFlushDone : Sys2Proof.Laws.Operands.Statement .ccacheFlushDone := id

theorem Sys2Proof.Laws.Operands.complicationInitTimeout (job_ : Nat) : Sys2Proof.Laws.Operands.Statement (.complicationInitTimeout job_) :=
  Sys2Proof.Laws.Operands.below_le (by decide)
end

