-- ==== Sys2Proof/Machine/Package.lean ====
section
/-! DEFINITION. The package as the board sees it (22_electrical_and_package.md): the name and the net of each of the 70 by 70
balls (R434-R436), the boundary-scan register over them (R432), and the VDD_CORE setpoint (R426). Nothing in it changes. -/

namespace Sys2Proof.Machine

/-- VDD_CORE setpoint of a bin, in millivolts (R426). -/
def vddCoreMv (bin : Nat) : Nat := 680 + 10 * bin

/-- Row letters, in order (R434). -/
def rowLetters : List String :=
  ["A", "B", "C", "D", "E", "F", "G", "H", "J", "K", "L", "M", "N", "P", "T", "U", "V", "W", "Y"]

/-- Name of a row by its index, 1 to 70 (R434). -/
def rowName (i : Nat) : String := ["", "A", "B", "C"].getD ((i - 1) / 19) "" ++ rowLetters.getD ((i - 1) % 19) ""

/-- Name of a ball: row, then column. -/
def ballName (row col : Nat) : String := rowName row ++ toString col

/-- What a ball carries. A host or panel lane's pins are 0 TXP, 1 TXN, 2 RXP, 3 RXN; a low-speed or DRAM signal goes by its name. -/
inductive Net where
  | supply (name : String)
  | laneBall (lane pin : Nat)
  | hostBall (lane pin : Nat)
  | clock (name : String)
  | dram (channel : Nat) (name : String)
  | low (name : String)
  deriving DecidableEq, Repr

/-- The DRAM block positions of Table 22.9, block rows 1 to 4. -/
def dramBlock : List (List String) :=
  [["DQ0", "DQ1", "DQ2", "DQ3", "DQ4", "DQ5", "DQ6", "DQ7", "DMI0", "RDQS0_T"],
   ["RDQS0_C", "WCK0_T", "WCK0_C", "CK_T", "CK_C", "CA0", "CA1", "CA2", "CA3", "CA4"],
   ["CA5", "CA6", "CS0", "CS1", "WCK1_T", "WCK1_C", "RDQS1_T", "RDQS1_C", "DMI1", "VDDQ"],
   ["DQ8", "DQ9", "DQ10", "DQ11", "DQ12", "DQ13", "DQ14", "DQ15", "VDDQ", "VDDQ"]]

/-- The low-speed balls of Table 22.9, rows 58 to 61. -/
def lowBlock : List (List String) :=
  [["WALLSYNC", "PERST_N", "FAULT_N", "SMB_SCL", "SMB_SDA", "TEST_MODE", "CAP_WRITE_N", "BOOT_SEL0", "BOOT_SEL1", "VDDIO"],
   ["TCK", "TMS", "TDI", "TDO", "TRST_N", "DDR_RESET_NL", "DDR_RESET_NR", "VDDIO", "VDDIO", "VDDIO"],
   ["MOD_SCL0", "MOD_SCL1", "MOD_SCL2", "MOD_SCL3", "MOD_SCL4", "MOD_SCL5", "MOD_SCL6", "MOD_SCL7", "VSS", "VSS"],
   ["MOD_SDA0", "MOD_SDA1", "MOD_SDA2", "MOD_SDA3", "MOD_SDA4", "MOD_SDA5", "MOD_SDA6", "MOD_SDA7", "VSS", "VSS"]]

/-- A position of a block table: a supply or a signal. -/
def blockNet (signal : String → Net) (name : String) : Net :=
  if ["VDDQ", "VDDIO", "VSS"].contains name then .supply name else signal name

/-- The net of a ball (Table 22.8); a position that the table does not name is VSS (R435). -/
def ballNet (row col : Nat) : Net :=
  if row ≤ 8 ∧ 3 ≤ col ∧ col ≤ 66 then
    match row with
    | 1 => .laneBall (col - 3) 0
    | 2 => .laneBall (col - 3) 1
    | 4 => .laneBall (col - 3) 2
    | 5 => .laneBall (col - 3) 3
    | 7 => .supply "VDD_LANE 0.9"
    | 8 => .supply "VDD_LANE 1.2"
    | _ => .supply "VSS"
  else if col = 1 ∧ row = 1 then .clock "WREF_P"
  else if col = 1 ∧ row = 2 then .clock "WREF_N"
  else if 9 ≤ row ∧ row ≤ 64 ∧ 11 ≤ col ∧ col ≤ 60 then
    if row = 9 ∧ col = 12 then .low "VDD_CORE_SENSE"
    else if row = 9 ∧ col = 14 then .low "VSS_SENSE"
    else if (row + col) % 2 = 0 then .supply "VSS"
    else if 16 ≤ row ∧ row % 8 = 0 then .supply "VDD_SRAM"
    else .supply "VDD_CORE"
  else if 10 ≤ row ∧ row ≤ 57 ∧ 1 ≤ col ∧ col ≤ 10 then
    blockNet (.dram ((row - 10) / 4)) ((dramBlock.getD ((row - 10) % 4) []).getD (col - 1) "")
  else if 10 ≤ row ∧ row ≤ 57 ∧ 61 ≤ col ∧ col ≤ 70 then
    blockNet (.dram (12 + (row - 10) / 4)) ((dramBlock.getD ((row - 10) % 4) []).getD (70 - col) "")
  else if 58 ≤ row ∧ row ≤ 61 ∧ 1 ≤ col ∧ col ≤ 10 then blockNet .low ((lowBlock.getD (row - 58) []).getD (col - 1) "")
  else if (row = 62 ∨ row = 63) ∧ ((1 ≤ col ∧ col ≤ 10) ∨ (61 ≤ col ∧ col ≤ 70)) then
    .supply (if row = 62 then "VDD2H" else "VDD1")
  else if 65 ≤ row ∧ row ≤ 70 ∧ 20 ≤ col ∧ col ≤ 50 ∧ col % 2 = 0 then
    match row with
    | 70 => .hostBall ((col - 20) / 2) 0
    | 69 => .hostBall ((col - 20) / 2) 1
    | 67 => .hostBall ((col - 20) / 2) 2
    | 66 => .hostBall ((col - 20) / 2) 3
    | _ => .supply "VSS"
  else if row = 70 ∧ col = 52 then .clock "REFCLK_P"
  else if row = 69 ∧ col = 52 then .clock "REFCLK_N"
  else if 65 ≤ row ∧ row ≤ 70 ∧ 54 ≤ col ∧ col ≤ 60 then
    .supply (if row ≤ 67 then "VDD_HST 0.9" else "VDD_HST 1.2")
  else if row = 70 ∧ 1 ≤ col ∧ col ≤ 4 then .supply "VDD_KST"
  else .supply "VSS"

/-- A ball that the variant connects: on the C624 lanes L32 to L63, channels 12 to 23 and DDR_RESET_NR are not (R436). -/
def ballUsed (v : Variant) : Net → Bool
  | .laneBall l _ => decide (l < v.pick 64 32)
  | .dram c _ => decide (c < v.pick 24 12)
  | .low n => v == .c648 || n != "DDR_RESET_NR"
  | _ => true

/-- The boundary-scan register covers the DRAM signal balls and the low-speed balls other than JTAG and the sense balls (R432). -/
def scanned : Net → Bool
  | .dram _ _ => true
  | .low n => !(["TCK", "TMS", "TDI", "TDO", "TRST_N", "VDD_CORE_SENSE", "VSS_SENSE"].contains n)
  | _ => false

/-- The scanned balls from TDI to TDO: ascending rows, and ascending columns within a row. -/
def scanBalls : List (Nat × Nat) :=
  ((List.range 70).flatMap fun r => (List.range 70).map fun c => (r + 1, c + 1)).filter fun b => scanned (ballNet b.1 b.2)

/-- The cells of the register: input, output and output enable of each scanned ball. -/
def scanCells : List (Nat × Nat × Nat) := scanBalls.flatMap fun b => [(b.1, b.2, 0), (b.1, b.2, 1), (b.1, b.2, 2)]

end Sys2Proof.Machine
end

