-- ==== Sys2Proof/Tests/Slice0.lean ====
section
/-! SUPPORT. Witnesses: for each obligation with hypotheses, states and operands that meet them together; the refusals of the
well-formedness check; and single steps with results taken from the spec. -/

set_option maxRecDepth 100000
set_option Elab.async false
set_option linter.all false

open Sys2Proof Sys2Proof.Machine

/-! ### Small states -/

def Wit.stage (k : Nat) : State := State.reset.setFld Reg.PWR_WIND_STAGE 0 k
def Wit.inW1 : State := { Wit.stage 1 with hst := { perstN := true } }
def Wit.wound : State := { Wit.stage 15 with hst := { perstN := true, phyReleased := true, linkUp := true, modeFixed := true } }
def Wit.dram (s : State) : State := (((s.setFld Reg.MEM_USABLE 0 0xB40000).setFld Reg.MEM_STATUS_READY 0 1).setFld Reg.MEM_STATUS_GROUPS 0 63).setFld Reg.MEM_STATUS_ZEROED 0 1
def Wit.bar : State := (Wit.dram Wit.wound).setFld Reg.HST_LINK_STATUS_MODE 0 5
def Wit.cxl : State := { (((Wit.dram Wit.wound).setFld Reg.HST_LINK_STATUS_MODE 0 1).setFld Reg.HST_LINK_STATUS_MEM_EN 0 1).setFld Reg.HST_HDM_CARVE_HOST_SIZE 0 1 with hst := { Wit.wound.hst with hdm := [(0, ⟨true, 0, 1⟩)] } }
def Wit.cached : State := { Wit.cxl with hst := { Wit.cxl.hst with ccache := [(5, { lo := some (List.replicate 32 1), dirty := true }), (6, {})] } }
def Wit.inL0 : State := { State.reset with hst := { perstN := true, phyReleased := true } }
def Wit.inW1b : State := { Wit.inW1 with pwr := { tested := [0, 1] } }
def Wit.late : State := { Wit.stage 15 with now := 9600000 }
def Wit.lateWound : State := { Wit.wound with now := 9600000 }
def Wit.ringR (cls : Nat) : Ring := { cls := cls, enable := true, sizeLog2 := 6 }
def Wit.host : State :=
  let s : State := { Wit.wound with rng := { rings := [(0, { Wit.ringR 1 with link := 1 }), (1, { Wit.ringR 2 with base := 0x10000 }), (2, { Wit.ringR 4 with base := 0x20000 })] } }
  (((s.setFld Reg.HST_DBGRP_OWNER_VALID 0 1).setFld Reg.HST_TENANT_VALID 0 1).setFld Reg.HST_TENANT_ABI 0 2)
def Wit.enabled (t : Nat) (s : State) : State := (List.range 8).foldl (fun s i => s.setFld Reg.PG_CTRL_ENABLE (pageOf t i) 1) s
def Wit.job (op : Nat) (args : Bytes) (s : State) : State :=
  { s with rng := { s.rng with jobs := [(5, { ring := 0, index := 5, opcode := op, tag := 9, abi := 2, args := args })] } }
def Wit.devring : State := Wit.host.setRing 2 { Wit.host.ring 2 with pi := 5, ci := 1, count := 3, devPkts := [1, 1, 1] }
def Wit.cmdring : State := (Wit.enabled Blk.rng Wit.host).setRing 0 { Wit.host.ring 0 with pi := 2, count := 2 }
def Wit.fenced : State :=
  { Wit.host with rng := { Wit.host.rng with jobs := [(6, { ring := 0, index := 6, opcode := 0x7F, fence := true, waits := true, seq := 3 })] } }
def Wit.pkt1 : Pkt := { items := 1, started := true, closed := true, coloured := true }
def Wit.pkt : Pkt := { items := 1, started := true, closed := true, coloured := true, len := 3, segs := [(0, 3)], fetching := true }
def Wit.ring3 (p : Pkt) : State :=
  { Wit.enabled Blk.rng Wit.host with rng := { rings := [(3, { Wit.ringR 3 with link := 7, pkts := [p], pi := 1, pend := 1 })] }, dec := { streams := [(7, { state := 2, args := { codec := 1, maxWidth := 64, maxHeight := 64, level := 90, bitdepth := 8, chroma := 1, cls := 4, rateMhz := 60000 } })] } }
def Wit.pay1 : State := Wit.ring3 Wit.pkt1
def Wit.payload : State := Wit.ring3 Wit.pkt
def Wit.gapped : State := { Wit.host with dec := { streams := [(7, { state := 2, held := [{ auSeq := 4, time := 0, bytes := 0, colour := 0, meter := 0, bufs := [], commitAt := 0, marked := false, lost := 1, info := {}, heldMarks := 3 }] })] } }
def Wit.openArgs : Bytes :=
  ([0x01, 0, 9, 0, 0, 0, 0, 0] : Bytes) ++ leBytes 7 2 ++ [1, 1, 90, 4, 0x81, 1] ++ leBytes 64 2 ++ leBytes 64 2 ++ leBytes 60000 4 ++ leBytes 1000 4 ++ leBytes 1 2 ++ [1, 0, 0, 0, 0, 1, 1, 0] ++ List.replicate 26 0
def Wit.rfs (s : State) : State := (Wit.dram (Wit.enabled Blk.rfs (Wit.enabled Blk.dec s))).setFld Reg.RFS_REGION_SIZE 0 1000
def Wit.opening : State := Wit.job 0x01 Wit.openArgs (Wit.rfs Wit.host)
def Wit.withStream (state : Nat) (s : State) : State :=
  s.setStream 7 { state := state, args := { codec := 1, profile := 1, level := 90, bitdepth := 8, chroma := 1, maxWidth := 64, maxHeight := 64, cls := 4, rateMhz := 60000, coresMax := 1, substreams := 1, dpbPics := 1, holdPics := 1 }, granules := 3, runs := [(0, 3)] }
def Wit.closing (state op : Nat) : State := Wit.job op (([BitVec.ofNat 8 op, 0, 9, 0, 0, 0, 0, 0] : Bytes) ++ leBytes 7 2 ++ List.replicate 54 0) (Wit.withStream state (Wit.rfs Wit.host))
def Wit.policy : State := Wit.job 0x04 ([0x04, 0, 9, 0, 0, 0, 0, 0] ++ leBytes 7 2 ++ [1, 6] ++ List.replicate 52 0) (Wit.withStream 2 (Wit.rfs Wit.host))
def Wit.draining (late : Bool) : State :=
  let s := Wit.closing 3 0x02
  { s.setStream 7 { s.stream 7 with drains := [⟨5, true, false, 0, late⟩] } with now := 100000000000000 }
def Wit.decoding : State :=
  let s := Wit.withStream 2 (Wit.rfs Wit.host)
  let s : State := { s with dec := { s.dec with pics := [(1, { stream := 7, args := (s.stream 7).args, info := { width := 64, height := 64, order := 0 } })], nextPic := 2 } }
  s.setEsc 1 0 { image := some 0 }
def Wit.copying : State :=
  let s := Wit.withStream 2 (Wit.rfs Wit.host)
  { s with dec := { s.dec with pics := [(1, { stream := 7, decoded := true, inDpb := true, slot := some (false, 0), copyTo := some 0, info := { width := 64, height := 64, order := 3 } })] } }
def Wit.busyCore : State := Wit.decoding.setCore 0 { busy := true, pic := 1, stream := 7 }
def Wit.put (off n v : Nat) (bs : Bytes) : Bytes := bs.take off ++ leBytes v n ++ bs.drop (off + n)
def Wit.img : Bytes :=
  Wit.put 48 4 72 (Wit.put 32 2 1 (Wit.put 26 2 3 (Wit.put 24 2 7 (Wit.put 16 2 1 (Wit.put 12 4 60 (Wit.put 72 1 1 (Wit.put 74 2 7 (Wit.put 80 2 8 (Wit.put 82 2 4 (List.replicate 136 0))))))))))
def Wit.pages (s : State) : State :=
  [Blk.cnv, Blk.drv, Blk.fus, Blk.mze, Blk.enc, Blk.swc, Blk.bpm, Blk.sch, Blk.plk, Blk.lne, Blk.esc, Blk.rgl, Blk.dma, Blk.clb, Blk.rng, Blk.mtr, Blk.dec, Blk.rfs].foldl (fun s t => Wit.enabled t s) s
def Wit.wallOf (im : Bytes) : State :=
  let s := (Wit.pages (Wit.dram Wit.host)).setFld Reg.CLB_PERIOD 0 20000000
  let s : State := { s with now := 1000000000, clb := { bankA := { state := 2, seq := 1, image := im }, active := false, activeValid := true, epoch := 1, lastMark := 900000000, nextMark := 1000000000 } }
  ((s.setEsc 4 0 { image := some 0 }).setEsc 5 0 { image := some 0 }).setEsc 2 0 { image := some 0 }
def Wit.wall : State := Wit.wallOf Wit.img
def Wit.sync : State :=
  let s := Wit.wallOf (Wit.put 18 1 1 Wit.img)
  { s with clb := { s.clb with edgeKnown := true, edgeAt := 840000000, edges := 3, locked := true, holdRun := 0 } }
def Wit.scan : State := { Wit.wall with cnv := { Wit.wall.cnv with frame := 0, scanning := true, wins := [(0, { binds := [{}] })] } }
def Wit.rowOut : State := { Wit.wall with cnv := { Wit.wall.cnv with out := [⟨0, false, 0, []⟩], crIssued := 1, crOut := 1 } }
def Wit.capRaw : Bytes := Wit.put 40 2 4096 (Wit.put 32 4 100 (Wit.put 0 4 0x50435546 (Wit.put 4 2 1 (Wit.put 6 2 1 (List.replicate 48 0)))))
def Wit.capImg : Bytes := Wit.put 28 4 (capCrc Wit.capRaw) Wit.capRaw
def Wit.capSession : State :=
  let s := Wit.wall.setFld Reg.FUS_CAP_SRC_LO_ADDR 0 1
  { s with mem := { s.mem with dram := Mem.writeBytes [] 64 Wit.capImg }, fus := { session := true } }
def Wit.wall2 : State := { Wit.wall with fus := { commit := some Wit.capImg } }
/-- The sections after the header of a minimal image: port 0 enabled, one tile of 16 by 16, one colour entry, two beats. -/
def Wit.calBody : Bytes :=
  ([1, 1, 4, 0, 2] ++ List.replicate 1019 0 : Bytes) ++
  Wit.put 8 2 16 (Wit.put 10 2 16 (Wit.put 12 1 3 (List.replicate 64 0))) ++ List.replicate 32 0 ++
  (leBytes 1024 4 ++ leBytes 2 2 ++ List.replicate 1018 0) ++
  (leBytes 0 4 ++ leBytes 512 4 ++ [0, 0, 0, 0]) ++ (leBytes 512 4 ++ leBytes 4200 4 ++ [0, 0, 1, 0]) ++ List.replicate 26688 0
def Wit.calHead : Bytes :=
  Wit.put 0 4 0x31424C43 (Wit.put 4 2 1 (Wit.put 8 4 28984 (Wit.put 12 4 60 (Wit.put 16 2 1 (Wit.put 24 2 15 (Wit.put 26 2 15 (Wit.put 28 2 1
    (Wit.put 34 2 1 (Wit.put 36 4 128 (Wit.put 40 4 1152 (Wit.put 52 4 1216 (Wit.put 56 4 2296 (Wit.put 60 4 1248 (Wit.put 64 4 1048 (List.replicate 124 0)))))))))))))))
def Wit.cal : Bytes := Wit.calHead ++ leBytes (Img.crc (Wit.calHead ++ [0, 0, 0, 0] ++ Wit.calBody)) 4 ++ Wit.calBody
def Wit.clbJob (op : Nat) (args : Bytes) (s : State) : State :=
  { s with rng := { s.rng with jobs := [(5, { ring := 0, index := 5, opcode := op, tag := 9, abi := 2, silent := true, args := args })] } }
def Wit.calWall : State := Wit.wall.setFld Reg.MZE_REF_SIZE 0 100
def Wit.calWrite (len flags : Nat) : State :=
  Wit.clbJob 0x10 (([0x10, 0, 9, 0, 0, 0, 0, 0] : Bytes) ++ leBytes 4096 8 ++ leBytes len 4 ++ [BitVec.ofNat 8 flags] ++ List.replicate 43 0) Wit.calWall
def Wit.shadowed : State := Wit.calWall.setBank true { state := 1, seq := 7, image := Wit.img }
def Wit.staged : State := { (Wit.calWrite 136 0) with clb := { Wit.calWall.clb with staged := some ⟨5, Wit.img, []⟩ } }
def Wit.swapJob : State := Wit.clbJob 0x11 (([0x11, 0, 9, 0, 0, 0, 0, 0] : Bytes) ++ leBytes 7 2 ++ List.replicate 54 0) (Wit.shadowed.setFld Reg.CLB_WRITE_SEQ 0 7)
def Wit.swapping (useAt : Bool) (frame : Nat) : State :=
  { Wit.swapJob with clb := { Wit.shadowed.clb with swap := some ⟨5, useAt, frame, false, 0, [], []⟩ } }
def Wit.draining2 : State := { Wit.swapJob.setBank true { state := 3, seq := 7, image := Wit.img } with rng := {} }
def Wit.readJob : State := Wit.clbJob 0x12 (([0x12, 0, 9, 0, 0, 0, 0, 0] : Bytes) ++ leBytes 4096 8 ++ leBytes 4096 4 ++ List.replicate 44 0) Wit.calWall
def Wit.saving : State := { Wit.calWall with clb := { Wit.calWall.clb with savePending := true } }
def Wit.encRings (s : State) : State :=
  (s.setRing 3 { Wit.ringR 3 with link := 0x1000, pkts := [{ len := 4096, segs := [(8192, 4096)] }], pi := 1, count := 1 }).setRing 4 { Wit.ringR 2 with base := 0x40000 }
def Wit.encOpenArgs : Bytes :=
  [0x20, 0, 9, 0, 0, 0, 0, 0, 0, 1, 1, 0x48, 1, 1] ++ leBytes 0 2 ++ leBytes 256 2 ++ leBytes 64 2 ++ leBytes 0 4 ++ leBytes 256 2 ++ leBytes 64 2 ++ List.replicate 12 0 ++ [30, 0] ++ leBytes 3 2 ++ leBytes 4 2 ++ [1, 1, 1] ++ List.replicate 15 0
def Wit.encReadyToOpen : State := Wit.encRings ((Wit.clbJob 0x20 Wit.encOpenArgs Wit.calWall).setFld Reg.ENC_REGION_SIZE 0 1000)
def Wit.session : EncSession := { encArgs Wit.encOpenArgs with loads := [(0, 1)], load := 1, granules := 5, rateNum := 60 }
def Wit.encSes (x : EncSession) : State :=
  Wit.encRings { Wit.clbJob 0x21 ([0x21] ++ List.replicate 63 0) Wit.calWall with enc := { sessions := [(0, x)] } }
def Wit.cols : List EncCol := [{ header := 10 }]
def Wit.manyCols : List EncCol := [{ header := 5000 }]
def Wit.encWaiting : State := Wit.encSes { Wit.session with waiting := some { frame := 3 } }
def Wit.encCoding (state : Nat) : State :=
  (Wit.encSes { Wit.session with state := state, coding := some { frame := 3 }, hard := -1 }).setEncCore 0 { busy := true, session := 0 }
def Wit.encRelay : State :=
  let s := Wit.encSes { Wit.session with isStream := true, stream := 7, outW := 8, outH := 8 }
  let s : State := { s with dec := { s.dec with pics := [(1, { stream := 7, released := true, decoded := true, info := { width := 8, height := 8 } })] } }
  s.setStream 7 { state := 2 }
def Wit.encOffline : State := Wit.calWall.setEncCore 0 { offline := true, faulted := true }
def Wit.dmaWall : State := Wit.calWall.setEsc 6 0 { image := some 0 }
def Wit.dmaSubmitJob (ch : Nat) : State := Wit.clbJob 0x30 ([0x30, 0, 9, 0, 0, 0, 0, 0, BitVec.ofNat 8 ch] ++ List.replicate 7 0 ++ leBytes 4096 8 ++ List.replicate 40 0) Wit.dmaWall
def Wit.dmaBusy (desc : Option Bytes) (s : State) : State :=
  s.setDch 0 { busy := true, submitter := 64, cur := 4096, desc := desc, remain := 128 }
def Wit.desc (op src dst : Nat) : Bytes :=
  [BitVec.ofNat 8 op, 0, 0, 0] ++ leBytes 128 4 ++ leBytes src 8 ++ leBytes dst 8 ++ (if op = 2 then [1, 2, 3, 4, 5, 6, 7, 8] else List.replicate 8 0) ++ List.replicate 32 0
def Wit.timg : Bytes :=
  Wit.put 28 2 1 (Wit.put 40 4 136 Wit.img) ++ Wit.put 8 2 8 (Wit.put 10 2 4 (Wit.put 12 1 1 (List.replicate 64 0)))
def Wit.trp (j : Nat) : TileRp := { tile := 0, frame := 0, bank := false, j := j, codes := List.replicate 2 (List.replicate 8 5) }
def Wit.mze : State :=
  let s := (Wit.wallOf Wit.timg).setEsc 3 0 { image := some 0 }
  { s with clb := { s.clb with ident := [(0, { state := 3 })] } }
def Wit.mzePic : MzePic :=
  { frame := 0, bank := false, budget := 4096, qb := 12, qbFirst := 12, profile := 0, emitters := 1, w8 := 1, h2 := 2, fmin := 4
    intraAll := true, curve := (List.range 15).map fun i => 4096 * (i + 1), stepDn := 1, stepUp := 1, jump := 4, unclean := [], refresh := [] }
def Wit.mzeReady : State := Wit.mze.setMzt 0 { inq := [Wit.trp 0] }
def Wit.mzeOpen : State := Wit.mze.setMzt 0 { inq := [Wit.trp 0], pic := some Wit.mzePic, rps := [{}, {}], runs := [(0, 1)] }
def Wit.mzeCoding : State := (Wit.mzeOpen.setMzc 0 { busy := true, tile := 0, intra := true })
def Wit.mzeOffline : State := Wit.mze.setMzc 0 { offline := true, faulted := true }
def Wit.refreshJob (t flags n : Nat) : State :=
  Wit.clbJob 0x40 ([0x40, 0, 9, 0, 0, 0, 0, 0] ++ leBytes t 2 ++ [BitVec.ofNat 8 flags, 0] ++ leBytes 0 2 ++ leBytes n 2 ++ List.replicate 48 0) Wit.mze
def Wit.pool : State :=
  let s := ((Wit.wall.setFld Reg.BPM_STATUS_ODIE_READY 0 1).setFld Reg.BPM_QUOTA_QUOTA 1 10).setFld Reg.BPM_QUOTA_QUOTA 64 1000
  (s.setBuf 7 ⟨1, 1, 0⟩).setOwn 1 { named := 1 }
def Wit.pool2 : State := (Wit.pool.setBuf 7 ⟨1, 1, 2⟩).setOwn 2 { held := 2 }
def Wit.pool3 : State := ((Wit.pool.setBuf 7 ⟨2, 1, 1⟩).setOwn 2 { held := 1 }).setOwn 1 {}
def Wit.poolWin (op : Nat) : State := (Wit.pool.setFld Reg.BPM_CMD_OP 0 op).setFld Reg.BPM_RSP_DONE 0 0
def Wit.poolBad : State := { Wit.pool with pool := { Wit.pool.pool with odie := { Wit.pool.pool.odie with rebuilding := true } } }
def Wit.forcing : State := Wit.pool.setFld Reg.BPM_FORCE_BUF 0 7
def Wit.swFrame : LinkFrame := { len := 100, bufs := [7], direct := some 0, isOpen := true, sub := 0, cls := 1 }
def Wit.switch : State :=
  (Wit.pool.setPort 0 { Wit.pool.port 0 with state := 3 }).setSwin 2 { queue := [Wit.swFrame] }
def Wit.switchWait (f : LinkFrame) : State := Wit.pool.setSwin 2 { wait := [f] }
def Wit.beatImg : Bytes :=
  Wit.put 36 4 1236 (Wit.put 60 4 200 (Wit.put 64 4 1036 Wit.timg)) ++ (leBytes 1024 4 ++ leBytes 1 2 ++ List.replicate 1018 0) ++ (leBytes 0 4 ++ leBytes 100000 4 ++ [0, 0, 0, 0]) ++ ([1, 1, 4, 0, 2] ++ List.replicate 11 0)
def Wit.schWall : State := Wit.wallOf Wit.beatImg
def Wit.tileFrame : LinkFrame := { len := 132, tile := 0, frame := 0, payload := 100, data := linkBytes 0 0 false false 0 0 0 0 0xFFFF 0 0 (List.replicate 100 1) }
def Wit.running : State :=
  (Wit.schWall.setSport 0 { running := true, bank := some false, image := Wit.beatImg, tileQ := [Wit.tileFrame] }).setPort 0 { state := 3, lane := 1 }
def Wit.runningAt : State := Wit.running.setSport 0 { Wit.running.sport 0 with markAt := Wit.running.now - (10 * 9600000000 / 125000000 + 1) }
def Wit.shaped (en : Bool) (bal : Int) : State :=
  (Wit.schWall.setFld Reg.SCH_SUB_SEL_SUB 0 3).setSport 0 { shapers := [(3, { enable := en, rate := 9600000, burst := 8192, bal := bal })] }
def Wit.trainWall : State := ({ Wit.pages Wit.host with now := 100000000000 }).setPort 0 { state := 2, step := 1, lane := 1, vers := 14 }
def Wit.train (step : Nat) (y : PlkPort) : State := Wit.trainWall.setPort 0 { y with state := 2, step := step, lane := 1, vers := 14, stepAt := 1000000 }
def Wit.pos1 : PlkPort := { receivers := 1, pos := [(0, { offered := 6, version := 2 })] }
def Wit.portCfgd : State :=
  (((Wit.trainWall.setPort 0 {}).setFld Reg.PLK_PORT_CFG_EN 0 1).setFld Reg.PLK_PORT_CFG_RATE 0 1).setFld Reg.PLK_PORT_CFG_VERS 0 3
def Wit.dataPort : State := Wit.trainWall.setPort 0 { state := 3, lane := 1, vers := 14, receivers := 1, pos := [(0, { version := 2, good := true, record := some (List.replicate 256 0) })] }
def Wit.trunkPort : State := Wit.trainWall.setPort 0 { state := 3, lane := 0x38 }
def Wit.testPort : State := ((((((Wit.trainWall.setPort 0 { state := 4, lane := 1 }).setFld Reg.LNE_TEST_GEN_EN 0 1).setFld Reg.LNE_TEST_CHK_EN 0 1).setFld Reg.LNE_TEST_LOOP 0 1).setFld Reg.LNE_TEST_CHK_LOCK 0 1).setFld Reg.LNE_TEST_PATTERN 0 1).setFld Reg.PLK_PORT_CTL_TEST 0 1
def Wit.engine (n : Nat) : State := Wit.trainWall.setPort 0 { state := 3, lane := 1, receivers := 1, pos := [(0, { version := 2, engine := n, tag := 0x8000 })] }
def Wit.upFrame (type tag : Nat) (pay : Bytes) : Bytes := linkBytes type 0 false true 0 0 0 0 0 0 tag pay
def Wit.badFrame : Bytes := List.replicate 40 0
def Wit.identJob (fresh : Nat) (s : State) : State :=
  Wit.clbJob 0x41 ([0x41, 0, 9, 0, 0, 0, 0, 0, 0, 0, BitVec.ofNat 8 fresh] ++ List.replicate 5 0 ++ leBytes 4096 8 ++ List.replicate 40 0) s
def Wit.word (next seq safe wcond wpol tmo tflt : Nat) : Nat :=
  let w := next * 2 ^ 128 + seq * 2 ^ 140 + safe * 2 ^ 143 + wcond * 2 ^ 168 + wpol * 2 ^ 174 + tmo * 2 ^ 175 + tflt * 2 ^ 180
  w + ((List.range 8).map fun i => ((List.range 23).map fun k => bits w (i + 8 * k) (i + 8 * k)).sum % 2 * 2 ^ (184 + i)).sum
def Wit.esc (k i : Nat) (w : Nat) (x : Escapement) (s : State := Wit.wall) : State :=
  { s with esc := { s.esc with images := [(0, { words := List.replicate 240 0 ++ leBytes w 24 })] } }.setEsc k i { x with image := some 0 }
def Wit.routine (stop fault : Bool) (stack : List Nat) : Escapement := { routine := some 5, pc := 10, stack := stack, stop := stop, fault := fault, reqAt := 0 }
def Wit.loading (k : Nat) : State := State.setFld { Wit.wall with esc := { Wit.wall.esc with loading := some k } } Reg.ESC_LOAD_CTL_BUSY 0 1
def Wit.bundle (r : Nat) : State := State.setFld { Wit.wall with rgl := { Wit.wall.rgl with bundle := some ⟨1, List.replicate 70 3, r⟩ } } Reg.RGL_BUNDLE_CTL_BUSY 0 1
def Wit.off (p : Nat) (s : State := Wit.wall) : State := (s.setFld Reg.PG_CTRL_ENABLE p 0).setFld Reg.PG_ERR_STICKY p 0x100
def Wit.used (s : State) : State := ((s.setSport 0 { closed := [1], dark := [2] }).setFld Reg.SCH_SUB_SEL_SUB 0 7).setFld Reg.SCH_WAIT_FIT 0 9
def Wit.rgl (g : Nat) (x : Regulator) (q : RglQueues := {}) : State :=
  let s := (Wit.wall.setFld Reg.RGL_STATUS_STATE g 1).setRegl g x
  s.setRglQ g q
def Wit.txEntry (n : Nat) : Bytes := leBytes 100 2 ++ ([BitVec.ofNat 8 n, 2] : Bytes) ++ List.replicate 12 0 ++ leBytes 7 4 ++ List.replicate 76 0
def Wit.tx (n : Nat) (owner : Nat) : State :=
  (Wit.rgl 2 {} { txPi := 1, txq := [(0, Wit.txEntry n)] }).setBuf 7 ⟨1, owner, 0⟩
def Wit.cpl (c : Cpl) (mbx : List Bytes := []) : State := Wit.rgl 2 { mbx := mbx, cpls := [(1, c)] }
def Wit.reloading : State :=
  let s := Wit.rgl 2 { mbx := [[1]], cpls := [(1, { kind := 3, stopped := true, entry := 2 })], wdogAt := 5, wdogHalf := true }
  { s.setFld Reg.RGL_STATUS_STATE 2 2 with
    rgl := { s.rgl with runtime := List.replicate 100 9 }
    pwr := { s.pwr with domains := Tab.set s.pwr.domains 20 { state := 2 } } }
def Wit.cplImg : Bytes :=
  Wit.put 0 4 0x4D494C4F (Wit.put 4 1 1 (Wit.put 5 1 3 (Wit.put 6 1 3 (Wit.put 8 4 232 (Wit.put 12 4 0x01000002 (Wit.put 16 1 2 (Wit.put 20 2 2
    (Wit.put 24 4 72 (Wit.put 64 4 8 (Wit.put 72 4 64 (Wit.put 100 2 500 (List.replicate 232 0))))))))))))
def Wit.cplJob (n flags : Nat) : State :=
  let s := Wit.clbJob 0x50 ([0x50, 0, 9, 0, 0, 0, 0, 0] ++ leBytes 4096 8 ++ leBytes n 4 ++ [0xFF, BitVec.ofNat 8 flags, BitVec.ofNat 8 (3 * flags)] ++ List.replicate 41 0) Wit.wall
  s.setFld Reg.RGL_STATUS_STATE 4 1
def Wit.cplIniting : State :=
  let s := Wit.cplJob 232 0
  { s with now := 1000000000, rgl := { s.rgl with loading := [⟨some 5, 4, 0, false, 0, { kind := 3, version := 7 }⟩] } }
def Wit.int (x : IntTgt) (src : Tab IntSrc := []) : State :=
  let s := ((Wit.wall.setFld Reg.INT_SRC_ENABLE 41 1).setFld Reg.INT_SRC_PRIO 41 5).setFld Reg.INT_SRC_RR 41 0
  let s := ((s.setFld Reg.INT_SRC_TARGET 41 3).setFld Reg.INT_SRC_ENABLE 42 1).setFld Reg.INT_SRC_HOST 42 1
  { s with int := { src := src, tgt := [(3, x)] } }
def Wit.mbxPriv : Tab PrivSrc := [(2, { prio := 9, enable := true, pending := true })]
def Wit.handler : IntTgt := { shadow := [⟨0x100, 0, 2⟩], level := 10, bank := 1, priv := [(2, { prio := 9, enable := true, active := true })] }
def Wit.scrubbing (poison : List Nat) : State := { Wit.wall with mem := { Wit.wall.mem with poison := poison } }
def Wit.zeroing (next : Nat) (z : List Nat) : State := { Wit.wall.setFld Reg.MEM_STATUS_ZEROED 0 0 with mem := { zeroing := true, zeroNext := next, zeroed := z } }
def Wit.freqBusy (t : Nat) : State := State.setFld { Wit.wall with mem := { freqTarget := t } } Reg.MEM_STATUS_FREQ_BUSY 0 1
def Wit.kst (off lines : Nat) : State := ((Wit.wall.setFld Reg.KST_XFER_OFF 0 off).setFld Reg.KST_XFER_DST_LO_ADDR 0 64).setFld Reg.KST_XFER_LEN 0 lines
def Wit.xfer (w : Bool) (off : Nat) : State := State.setFld { Wit.wall with kst := { Wit.wall.kst with xfer := some ⟨w, off, 4096, 1⟩ } } Reg.KST_XFER_CTL_BUSY 0 1
def Wit.dom (d : Nat) (x : Domain) : State := (Wit.wall.setFld Reg.PWR_DOM_SEL_DOMAIN 0 d).setDom d x

/-! ### A calibre image that passes every check -/

set_option maxRecDepth 100000
theorem Wit.calHead_length : Wit.calHead.length = 124 := by decide +kernel
theorem leBytes_length (v n : Nat) : (leBytes v n).length = n := by induction n generalizing v <;> simp [leBytes, *]
theorem leNat_leBytes4 (v : Nat) (h : v < 4294967296) : leNat (leBytes v 4) = v := by
  simp [leNat, leBytes]; omega
theorem Wit.crc_closed (h b : Bytes) (hh : h.length = 124) (c : Bytes) (hc : c.length = 4) :
    Img.crc (h ++ c ++ b) = crc32 (h ++ [0, 0, 0, 0] ++ b) := by
  unfold Img.crc
  rw [List.drop_left' (by rw [List.length_append, hh, hc]), List.append_assoc h c b, List.take_left' hh]
theorem Wit.cal_field (h b : Bytes) (hh : h.length = 124) (c : Bytes) (hc : c.length = 4) : field (h ++ c ++ b) 124 4 = leNat c := by
  unfold field; rw [List.append_assoc, List.drop_left' hh, List.take_left' hc]
theorem Wit.cal_crc : Img.crc Wit.cal = field Wit.cal 124 4 := by
  have h4 := Wit.crc_closed Wit.calHead Wit.calBody Wit.calHead_length [0, 0, 0, 0] rfl
  unfold Wit.cal
  rw [Wit.crc_closed _ _ Wit.calHead_length _ (leBytes_length _ _), Wit.cal_field _ _ Wit.calHead_length _ (leBytes_length _ _),
    leNat_leBytes4 _ (by rw [h4]; exact BitVec.isLt _), h4]
theorem Wit.cal_format : Img.format Wit.cal 28984 = [] := by
  unfold Img.format; rw [Wit.cal_crc]; simp only [bne_self_eq_false, Bool.false_or]; decide +kernel
theorem Wit.cal_checks : Img.badRate .c648 Wit.cal = [] ∧ Img.badGeometry Wit.cal = [] ∧ Img.badIdent .c648 Wit.cal = [] ∧
    Img.badMirror Wit.cal = [] ∧ Img.badProfile Wit.cal = [] ∧ Img.badWindow .c648 Wit.cal = [] := by decide +kernel
theorem Wit.cal_beat : Img.badBeat .c648 Wit.cal = [] := by decide +kernel
theorem Wit.cal_reference : Wit.calWall.badReference Wit.cal false = [] := by decide +kernel
theorem checkImage_none {s : State} {im : Bytes} {n : Nat} {v : Variant} (hv : s.variant = v) (h0 : Img.format im n = [])
    (h : Img.badRate v im = [] ∧ Img.badGeometry im = [] ∧ Img.badIdent v im = [] ∧
      Img.badMirror im = [] ∧ Img.badProfile im = [] ∧ Img.badWindow v im = [])
    (h7 : s.badReference im false = []) (h9 : Img.badBeat v im = []) : s.checkImage im n false = none := by
  obtain ⟨h1, h2, h3, h4, h5, h6⟩ := h
  simp only [State.checkImage, State.checks, h0, hv, h1, h2, h3, h4, h5, h6, h7, h9, firstReason, Bool.false_eq_true, if_false]
theorem Wit.cal_ok : Wit.calWall.checkImage Wit.cal 28984 false = none :=
  checkImage_none rfl Wit.cal_format Wit.cal_checks Wit.cal_reference Wit.cal_beat

/-! ### Hypotheses that are met -/

theorem witness_StepRunsTheFrontCommand_1 : ((({ State.reset with pending := [.nop 0] } : State)).pending = [.nop 0] ∧ State.reset.pending = []) := by decide +kernel

theorem witness_EveryStepKeepsTheMemoryForm_1 : (Wit.wall.memOk = true ∧ ({ Wit.pool with pending := [.jtagInstruction 3] } : State).memOk = true) := by decide +kernel

theorem witness_EveryCommandCompletes_1 : (({ Wit.wall with pwr := { clocksStopped := true } } : State).pwr.clocksStopped = true) := by decide +kernel

theorem witness_ResetsPinsStrapsAndClockLoss_1 : Reg.PWR_WIND_STAGE.id ≠ Reg.RGL_BOOT_FUSE_SECVER.id ∧ Reg.PWR_WIND_STAGE.id ≠ Reg.PG_ERR_STICKY.id ∧ Reg.PWR_WIND_STAGE.id ≠ Reg.PWR_WIND_CAUSE.id ∧ Reg.PWR_WIND_STAGE.id < 1024 := by decide +kernel

theorem witness_ResetsPinsStrapsAndClockLoss_2 : (let s := (State.reset.setFld Reg.PWR_WIND_STAGE 0 15); let s : State := { s with now := 9600000 }; s.fld Reg.PWR_WIND_STAGE ≠ 0 ∧ s.pwr.lastSample + Clk.ms ≤ s.now ∧ s.pwr.clocksStopped = false) := by decide +kernel

theorem witness_WindingStagesAndSelfTests_1 : (let s := Wit.inW1; s.pwr.clocksStopped = false ∧ s.fld Reg.PWR_WIND_STAGE = 1 ∧ s.groupRunning = 0 ∧ s.pwr.tested.contains 5 = false ∧ 35999 < 2 * groupTypical 0) := by decide +kernel

theorem witness_WindingStagesAndSelfTests_2 : (State.reset.setFld Reg.PWR_WIND_STAGE 0 0).fld Reg.PWR_WIND_STAGE = 0 ∧ (State.reset.setFld Reg.PWR_WIND_STAGE 0 0).pwr.clocksStopped = false := by decide +kernel

theorem witness_WindingStagesAndSelfTests_3 : (State.reset.setFld Reg.PWR_WIND_STAGE 0 2).fld Reg.PWR_WIND_STAGE = 2 ∧ (State.reset.setFld Reg.PWR_WIND_STAGE 0 2).pwr.clocksStopped = false := by decide +kernel

theorem witness_WindingStagesAndSelfTests_4 : (State.reset.setFld Reg.PWR_WIND_STAGE 0 3).fld Reg.PWR_WIND_STAGE = 3 ∧ (State.reset.setFld Reg.PWR_WIND_STAGE 0 3).pwr.clocksStopped = false := by decide +kernel

theorem witness_WindingStagesAndSelfTests_5 : (State.reset.setFld Reg.PWR_WIND_STAGE 0 4).fld Reg.PWR_WIND_STAGE = 4 ∧ (State.reset.setFld Reg.PWR_WIND_STAGE 0 4).pwr.clocksStopped = false := by decide +kernel

theorem witness_WindingStagesAndSelfTests_6 : (State.reset.setFld Reg.PWR_WIND_STAGE 0 5).fld Reg.PWR_WIND_STAGE = 5 ∧ (State.reset.setFld Reg.PWR_WIND_STAGE 0 5).pwr.clocksStopped = false := by decide +kernel

theorem witness_WindingStagesAndSelfTests_7 : (State.reset.setFld Reg.PWR_WIND_STAGE 0 6).fld Reg.PWR_WIND_STAGE = 6 ∧ (State.reset.setFld Reg.PWR_WIND_STAGE 0 6).pwr.clocksStopped = false := by decide +kernel

theorem witness_WindingStagesAndSelfTests_8 : (State.reset.setFld Reg.PWR_WIND_STAGE 0 7).fld Reg.PWR_WIND_STAGE = 7 ∧ (State.reset.setFld Reg.PWR_WIND_STAGE 0 7).pwr.clocksStopped = false := by decide +kernel

theorem witness_HostLinkStates_1 : (let s : State := { State.reset with hst := { perstN := true, phyReleased := true } }; s.pwr.clocksStopped = false ∧ s.hst.phyReleased = true ∧ s.hst.perstN = true ∧ s.hst.linkUp = false ∧ s.hst.modeFixed = false ∧ linkShape 6 16 = true ∧ linkShape 1 1 = true ∧ 16 ≤ s.hostLanes) := by decide +kernel

theorem witness_HostLinkStates_2 : Wit.wound.hst.linkUp = true ∧ Wit.wound.pwr.clocksStopped = false ∧ linkShape 3 4 = true ∧ cxlShape 3 4 = true ∧ 4 ≤ Wit.wound.hostLanes ∧ Wit.wound.hostReaches = true := by decide +kernel

theorem witness_HostMemoryAccesses_1 : (let s := Wit.bar; s.pwr.clocksStopped = false ∧ s.mem.dram.wf = true ∧ s.hostReaches = true ∧ 4 ≤ s.fld Reg.HST_LINK_STATUS_MODE ∧ s.bar4Addr 64 + 64 ≤ s.usable ∧ s.dramOk 0 1 = true) := by decide +kernel

theorem witness_HostMemoryAccesses_2 : (let s := Wit.bar.setFld Reg.MEM_USABLE 0 1; s.usable ≤ s.bar4Addr 68719476672) := by decide +kernel

theorem witness_HostMemoryAccesses_3 : (let s := Wit.cxl; s.hostReaches = true ∧ 1 ≤ s.fld Reg.HST_LINK_STATUS_MODE ∧ s.fld Reg.HST_LINK_STATUS_MODE ≤ 3 ∧ s.flag Reg.HST_LINK_STATUS_MEM_EN = true ∧ s.hst.ideInsecure = false ∧ s.decoderOf (4194303 * 64) = some ⟨true, 0, 1⟩ ∧ s.biWaits 4194303 = false ∧ s.dramOk (4194303 * 64) 64 = true) := by decide +kernel

theorem witness_HostMemoryAccesses_4 : (let s : State := { Wit.cxl with hst := { Wit.cxl.hst with biWait := [⟨5, 0, [1]⟩] } }; s.hst.biWait = ⟨5, 0, [1]⟩ :: [] ∧ s.hst.hostWait = [] ∧ s.hst.ideInsecure = false ∧ s.mem.dram.wf = true ∧ s.biWaits 5 = true ∧ s.decoderOf (5 * 64) = some ⟨true, 0, 1⟩) := by decide +kernel

theorem witness_HostMemoryAccesses_5 : (let s := Wit.cached; s.cacheFlows = true ∧ Tab.has s.hst.ccache 5 = true ∧ s.pwr.clocksStopped = false) := by decide +kernel

theorem witness_HostRegisters_1 : (let s := Wit.cxl; s.pwr.clocksStopped = false ∧ s.hst.hdm ≠ [] ∧ s.hostReaches = true ∧ s.fld Reg.HST_LINK_STATUS_MODE = 1 ∧ s.hostPageOpen Blk.hst 0 = true ∧ 0 + 1 ≤ s.fld Reg.HST_HDM_CARVE_HOST_SIZE) := by decide +kernel

theorem witness_HostRegisters_2 : (let s := Wit.wound; s.pwr.clocksStopped = false ∧ s.hostPageOpen Blk.hst 0 = true ∧ s.hst.hdm = [] ∧ bit (0x871FFFFF#32).toNat 31 = true ∧ rsvBits 0x871FFFFF#32 0x871FFFFF = 0 ∧ s.flag Reg.HST_TENANT_VALID 63 = false ∧ bit (0x071FFFFF#32).toNat 31 = false ∧ rsvBits 0x071FFFFF#32 0x871FFFFF = 0 ∧ bit (2#32).toNat 1 = true ∧ rsvBits 2#32 3 = 0 ∧ rsvBits 15#32 0xF = 0 ∧ rsvBits 0xFFF#32 0xFFF = 0) := by decide +kernel

theorem witness_HostRegisters_3 : (let s := Wit.wound; 255 < s.variant.groups ∧ 255 % 4 = 3 ∧ (List.range 32).any (fun i => (s.ring (32 * 255 + i)).enable) = false ∧ s.fld Reg.HST_DBGRP_OWNER_VALID 255 = 0 ∧ s.fld Reg.HST_DBGRP_OWNER_TENANT 255 = 0) := by decide +kernel

theorem witness_HostRegisters_4 : (let s : State := { Wit.cached with hst := { Wit.cached.hst with flushing := true } }; s.hst.flushing = true ∧ s.pwr.clocksStopped = false) := by decide +kernel

theorem witness_HostSecurityAndFunctionReset_1 : (let s := Wit.cxl.setFld Reg.HST_LINK_STATUS_IDE_ACTIVE 0 1; s.pwr.clocksStopped = false ∧ s.wound = true ∧ s.flag Reg.HST_LINK_STATUS_IDE_ACTIVE = true ∧ s.hst.linkUp = true ∧ s.hst.keysPresent = false ∧ spdmKeyed 0xE4 [] = true) := by decide +kernel

theorem witness_HostSecurityAndFunctionReset_2 : (let s : State := { Wit.cxl with hst := { Wit.cxl.hst with keysPresent := true, spdmSession := true } }; s.hst.keysPresent = true ∧ s.hst.spdmSession = true ∧ s.hst.slot1Written = false) := by decide +kernel

theorem witness_HostSecurityAndFunctionReset_3 : (let s : State := { Wit.cxl with hst := { Wit.cxl.hst with keysPresent := true, spdmSession := true, slot1Written := true } }; s.hst.keysPresent = true ∧ s.hst.slot1Written = true) := by decide +kernel

theorem witness_DoorbellsMoveIndexes_1 : (let s := Wit.host; s.hostReaches = true ∧ s.pwr.clocksStopped = false ∧ (s.takeInject .rngPtr 0).isNone = true ∧ s.doorbellOk 0 = true ∧ (s.ring 0).enable = true ∧ (s.ring 0).halted = false ∧ (s.ring 0).stopped = false ∧ (s.ring 0).cls = 1 ∧ (s.ring 0).pi < 4294967296 ∧ (s.ring 0).ci < 4294967296 ∧ (s.ring 0).lost < 18446744073709551616 ∧ ((64#32).toNat + 4294967296 - (s.ring 0).pi) % 4294967296 < 2147483648 ∧ ((64#32).toNat + 4294967296 - (s.ring 0).ci) % 4294967296 ≤ (s.ring 0).size) := by decide +kernel

theorem witness_DoorbellsMoveIndexes_2 : (let s := Wit.devring; s.hostReaches = true ∧ s.pwr.clocksStopped = false ∧ (s.takeInject .rngPtr 0).isNone = true ∧ s.doorbellOk 2 = true ∧ (s.ring 2).enable = true ∧ (s.ring 2).halted = false ∧ (s.ring 2).deviceProduced = true ∧ (s.ring 2).ci < 4294967296 ∧ ((4#32).toNat + 4294967296 - (s.ring 2).ci) % 4294967296 ≤ (s.ring 2).count ∧ (s.ring 2).count < ((5#32).toNat + 4294967296 - (s.ring 2).ci) % 4294967296) := by decide +kernel

theorem witness_DoorbellsMoveIndexes_3 : Wit.host.doorbellOk 8192 = false := by decide +kernel

theorem witness_RingControl_1 : (let s := Wit.host; s.pwr.clocksStopped = false ∧ 8191 < s.variant.rings ∧ (s.ring 8191).enable = false ∧ (s.ring 1).enable = true ∧ s.pageOpen Blk.rng 255 = true ∧ s.pageOpen Blk.rng 0 = true ∧ rsvBits (0x80001005#32) 0x8FFF1FFF = 0 ∧ rsvBits (0x80001005#32) 0x80001FFF = 0 ∧ rsvBits (0x80001000#32) 0xFFFFF000 = 0 ∧ rsvBits (0x874#32) 0xFF7 = 0 ∧ rsvBits (0x64#32) 0xFF7 = 0) := by decide +kernel

theorem witness_RingControl_2 : (let s := Wit.host; let v : Nat := (0x874#32).toNat; (s.ring 3).enable = false ∧ bit v 11 = true ∧ v % 8 ≠ 7 ∧ 6 ≤ v / 16 % 32 ∧ v / 16 % 32 ≤ 20 ∧ s.enableOk 3 { s.ring 3 with cls := v % 8, sizeLog2 := v / 16 % 32, memspace := bit v 9, coherent := bit v 10 } = true) := by decide +kernel

theorem witness_RingControl_3 : (let s := Wit.devring; let v : Nat := (0x64#32).toNat; (s.ring 2).enable = true ∧ bit v 11 = false ∧ v % 8 = (s.ring 2).cls ∧ v % 8 ≠ 7 ∧ v / 16 % 32 = (s.ring 2).sizeLog2 ∧ 6 ≤ (s.ring 2).sizeLog2 ∧ (s.ring 2).sizeLog2 ≤ 20 ∧ bit v 9 = (s.ring 2).memspace ∧ bit v 10 = (s.ring 2).coherent ∧ (s.ring 2).pkts = []) := by decide +kernel

theorem witness_CommandsJobsAndCompletions_1 : (let s := Wit.cmdring; s.pwr.clocksStopped = false ∧ (s.ring 0).enable = true ∧ (s.ring 0).halted = false ∧ (s.ring 0).stopped = false ∧ (s.ring 0).cls = 1 ∧ (s.ring 0).count ≠ 0 ∧ 0 < s.variant.rings ∧ s.pageEnabled Blk.rng 0 = true ∧ s.entriesHeld (s.ring 0) = false ∧ (s.takeInject .rngPtr 0).isNone = true ∧ s.rejection 0 (s.entryAt 0 (s.ring 0).ci (0x7F :: List.replicate 63 0)).1 = 0 ∧ s.rejection 0 (s.entryAt 0 (s.ring 0).ci (List.replicate 64 0)).1 ≠ 0) := by decide +kernel

theorem witness_CommandsJobsAndCompletions_2 : (Wit.job 0x7F [] Wit.host).canStart 5 0x7F = true ∧ (Wit.job 0x60 [] Wit.host).canStart 5 0x60 = true := by decide +kernel

theorem witness_CommandsJobsAndCompletions_3 : (let s := Wit.fenced; Tab.has s.rng.jobs 6 = true ∧ (s.job 6).waits = true ∧ s.waitOver 6 = true) := by decide +kernel

theorem witness_CommandsJobsAndCompletions_4 : (let s := Wit.job 0x7F [] Wit.host; s.pwr.clocksStopped = false ∧ s.canStart 5 0x7F = true ∧ (s.job 5).silent = false ∧ (s.ring (s.job 5).ring).link < s.variant.rings ∧ (s.ring (s.ring (s.job 5).ring).link).cls = 2 ∧ s.ringBlocked (s.ring (s.ring (s.job 5).ring).link) = false ∧ (s.takeInject .rngPtr ((s.ring (s.job 5).ring).link / 32)).isNone = true ∧ (s.ring (s.ring (s.job 5).ring).link).memspace = false ∧ s.coherent (s.ring (s.ring (s.job 5).ring).link) = false ∧ (∀ e ∈ s.hst.ccache, e.2.dirty = false) ∧ s.hst.mem.wf = true ∧ (s.ring (s.ring (s.job 5).ring).link).count + 1 ≤ (s.ring (s.ring (s.job 5).ring).link).size) := by decide +kernel

theorem witness_MetersAndSynchronousQuery_1 : (let s := Wit.host; s.pwr.clocksStopped = false ∧ 4095 < s.variant.meters ∧ (s.meter 4095).enable = false ∧ bit (1#32).toNat 0 = true ∧ rsvBits (1#32) 3 = 0 ∧ rsvBits (1#32) 0xFFFFFF = 0 ∧ s.pageOpen Blk.mtr 127 = true ∧ s.pageOpen Blk.sys 0 = true ∧ s.rng.query = none) := by decide +kernel

theorem witness_MetersAndSynchronousQuery_2 : (let s : State := { Wit.host with rng := { Wit.host.rng with query := some (1, 0) } }; s.rng.query = some (1, 0) ∧ s.rng.query ≠ none ∧ s.pageOpen Blk.sys 0 = true) := by decide +kernel

theorem witness_MetersAndSynchronousQuery_3 : (Wit.host.setFld Reg.SYS_QUERY_RESULT_VALID 0 1).flag Reg.SYS_QUERY_RESULT_VALID = true := by decide +kernel

theorem witness_PayloadsReachTheirStream_1 : (let s := Wit.pay1; let x := s.payloadBufs ((Wit.pkt1.len + 255) / 256) (Wit.pkt1.colour == 0) (s.yellows.length + 1); s.pwr.clocksStopped = false ∧ (s.ring 3).enable = true ∧ (s.ring 3).halted = false ∧ (s.ring 3).stopped = false ∧ (s.ring 3).feedsStream = true ∧ s.pageEnabled Blk.rng 0 = true ∧ (s.takeInject .rngPtr 0).isNone = true ∧ (s.ring 3).pkts = Wit.pkt1 :: [] ∧ Wit.pkt1.coloured = true ∧ Wit.pkt1.fetching = false ∧ Wit.pkt1.unit.isNone = true ∧ Wit.pkt1.dropped = false ∧ Wit.pkt1.gone = false ∧ x = (some [], x.2)) := by decide +kernel

theorem witness_PayloadsReachTheirStream_2 : (let s := Wit.payload; s.pwr.clocksStopped = false ∧ (s.ring 3).feedsStream = true ∧ (s.ring 3).enable = true ∧ (s.ring 3).halted = false ∧ (s.takeInject .rngPtr 0).isNone = true ∧ (s.ring 3).pkts = [Wit.pkt] ∧ Wit.pkt.fetching = true ∧ Wit.pkt.unit.isNone = true ∧ Wit.pkt.crc = false ∧ Wit.pkt.committed = false ∧ Wit.pkt.dropped = false ∧ Wit.pkt.gone = false ∧ (s.stream (s.ring 3).link).state = 2) := by decide +kernel

theorem witness_PayloadsReachTheirStream_3 : (let s := Wit.gapped; s.pwr.clocksStopped = false ∧ ((s.stream 7).held.any fun u => decide (s.fld Reg.RFS_REORDER_FRAMES ≤ u.heldMarks)) = true) := by decide +kernel

theorem witness_StreamsOpenAndClose_1 : (let s := Wit.opening; let e := (s.job 5).args; s.pwr.clocksStopped = false ∧ 7 = field e 8 2 % 1024 ∧ s.canStart 5 0x01 = true ∧ (s.stream 7).state = 0 ∧ openOk s.variant e = true ∧ s.admission (streamArgs e) = 0 ∧ (streamArgs e).reserve ≤ s.rfsFree ∧ (s.rng.rings.filter fun e => e.2.cls == 3 && e.2.link == 7 && e.2.enable) = []) := by decide +kernel

theorem witness_StreamsOpenAndClose_2 : (let s := Wit.closing 2 0x02; 7 = field (s.job 5).args 8 2 % 1024 ∧ s.canStart 5 0x02 = true ∧ (s.stream 7).tenant = (s.job 5).tenant ∧ (s.stream 7).state = 2) := by decide +kernel

theorem witness_StreamsOpenAndClose_3 : (let s := Wit.closing 4 0x02; 7 = field (s.job 5).args 8 2 % 1024 ∧ s.canStart 5 0x02 = true ∧ (s.stream 7).tenant = (s.job 5).tenant ∧ (s.stream 7).state = 4) := by decide +kernel

theorem witness_StreamsOpenAndClose_4 : (let s := Wit.closing 1 0x03; 7 = field (s.job 5).args 8 2 % 1024 ∧ s.canStart 5 0x03 = true ∧ (s.stream 7).tenant = (s.job 5).tenant ∧ (s.stream 7).state = 1) := by decide +kernel

theorem witness_StreamPolicyDrainsAndRegion_1 : (let s := Wit.policy; s.pwr.clocksStopped = false ∧ 7 = field (s.job 5).args 8 2 % 1024 ∧ s.canStart 5 0x04 = true ∧ field (s.job 5).args 10 1 = 1 ∧ 6 = field (s.job 5).args 11 1 ∧ 4 ≤ (s.stream 7).args.cls ∧ (s.stream 7).tenant = (s.job 5).tenant ∧ (s.stream 7).state = 2 ∧ s.dec.streams.any (fun e => e.2.state != 0) = true ∧ s.pageOpen Blk.rfs 0 = true ∧ rsvBits (1#32) 0xFFFFFF = 0) := by decide +kernel

theorem witness_StreamPolicyDrainsAndRegion_2 : (let s := Wit.draining false; let d : DrainCmd := ⟨5, true, false, 0, false⟩; (s.stream 7).drains = [d] ∧ (s.stream 7).state = 3 ∧ s.drainBusy 7 = false ∧ (s.stream 7).drains.find? (fun d => !d.timedOut) = some d ∧ d.acceptedAt + s.fld Reg.DEC_DRAIN_LIMIT_MS * Clk.ms ≤ s.now) := by decide +kernel

theorem witness_StreamPolicyDrainsAndRegion_3 : (let s := Wit.dram Wit.host; s.pwr.clocksStopped = false ∧ s.dec.streams.any (fun e => e.2.state != 0) = false ∧ s.pageOpen Blk.rfs 0 = true ∧ rsvBits (1#32) 0xFFFFFF = 0 ∧ s.inPrivate (s.fld Reg.RFS_REGION_BASE * 65536) ((1#32).toNat * 65536) = true) := by decide +kernel

theorem witness_DecodeUnitsRun_1 : (let s := Wit.decoding; s.pwr.clocksStopped = false ∧ s.coreOnline 0 = true ∧ (s.core 0).busy = false ∧ s.pwr.critStop = false ∧ s.escOk 1 0 = true ∧ s.pick 0 = some 1 ∧ s.pageEnabled Blk.rfs 0 = true ∧ 47 < s.variant.decCores ∧ s.pageOpen Blk.dec 5 = true ∧ rsvBits (1#32) 3 = 0 ∧ bit (1#32).toNat 0 = true ∧ bit (1#32).toNat 1 = false) := by decide +kernel

theorem witness_DecodeUnitsRun_2 : (let s := Wit.busyCore; (s.core 0).busy = true ∧ s.fld Reg.PG_ERR_INJECT_COUNT (pageOf Blk.dec 0) = 0 ∧ s.fld Reg.PG_ERR_INJECT_COUNT (pageOf Blk.rfs 0) = 0 ∧ (s.core 0).stopping = false ∧ Tab.has s.dec.pics (s.core 0).pic = true ∧ s.refWait (s.core 0).pic ⟨0,0,0,0,0,[],[],0⟩ = false) := by decide +kernel

theorem witness_DecodeUnitsRun_3 : (let s := Wit.copying; let e := ((s.picsOf 7).find? fun e => e.2.copyTo.isSome && e.2.info.order == 3); e.map (·.1) = some 1 ∧ e.bind (·.2.copyTo) = some 0) := by decide +kernel

theorem witness_DecodeUnitsRun_4 : (let s := Wit.decoding.setCore 0 { offline := true, faulted := true }; (s.core 0).offline = true ∧ (s.core 0).busy = false ∧ s.pageOpen Blk.dec 0 = true) := by decide +kernel

theorem witness_FrameMarksAndWallsync_1 : (let s := Wit.wall; s.pwr.clocksStopped = false ∧ s.wound = true ∧ s.clb.nextMark ≤ s.now ∧ s.following = false ∧ s.clb.swap = none ∧ s.clb.live = none) := by decide +kernel

theorem witness_FrameMarksAndWallsync_2 : (let s := Wit.sync; s.pwr.clocksStopped = false ∧ s.wound = true ∧ s.syncSource = true ∧ s.clb.edgeKnown = true ∧ s.now ≤ s.clb.edgeAt + s.syncPeriod + s.period / 200 ∧ s.clb.edgeAt + s.syncPeriod ≤ s.now + s.period / 200 ∧ s.following = true ∧ s.clb.edgeAt + s.syncPeriod ≤ s.now ∧ s.clb.holdRun + 1 < 4) := by decide +kernel

theorem witness_FrameMarksAndWallsync_3 : (let s : State := { Wit.sync with clb := { Wit.sync.clb with holdRun := 3 } }; s.following = true ∧ s.clb.edgeAt + s.syncPeriod ≤ s.now ∧ 4 ≤ s.clb.holdRun + 1) := by decide +kernel

theorem witness_FrameMarksAndWallsync_4 : (let s : State := { Wit.sync with clb := { Wit.sync.clb with locked := false, edgeKnown := false } }; s.syncSource = true ∧ s.clb.edgeKnown = false ∧ s.clb.locked = false) := by decide +kernel

theorem witness_RowPairsScanAndDrive_1 : (let s := Wit.wall; s.pwr.clocksStopped = false ∧ s.pickupFrame 0 = some 0 ∧ s.bankFor 0 = some (false, Wit.img)) := by decide +kernel

theorem witness_RowPairsScanAndDrive_2 : (let s := Wit.scan; let im := Wit.img; s.cnv.scanning = true ∧ s.escOk 4 0 = true ∧ s.tagOf s.cnv.frame = some (false, im) ∧ s.scanTime im s.cnv.frame s.cnv.next ≤ s.now ∧ s.pickedUp im s.cnv.frame s.cnv.next = true ∧ s.missingBands im s.cnv.next = [] ∧ s.cnv.out.length < 4 ∧ s.fld Reg.PG_ERR_INJECT_COUNT (pageOf Blk.cnv 0) = 0) := by decide +kernel

theorem witness_RowPairsScanAndDrive_3 : (let s := Wit.rowOut; s.cnv.out = ⟨0, false, 0, []⟩ :: [] ∧ s.tagOf 0 = some (false, Wit.img) ∧ ((Img.crossing Wit.img 0).any fun e => decide (4 ≤ (s.mzt (Tile.id e)).inq.length)) = false ∧ ((Img.crossing Wit.img 0).any fun e => !s.pageEnabled Blk.fus (Tile.circuit e / 128) && !((s.circ (Tile.circuit e)).isOpen && (s.circ (Tile.circuit e)).frame == 0)) = false ∧ s.pageEnabled Blk.drv 0 = true ∧ s.escOk 5 0 = true) := by decide +kernel

theorem witness_CapsAndAudits_1 : (let s := Wit.wall; s.pwr.clocksStopped = false ∧ s.flag Reg.FUS_CAP_CTL_BUSY = false ∧ s.fus.session = false ∧ s.hostPageOpen Blk.fus 0 = true ∧ 3 < s.variant.pick 4 2 ∧ s.pageOpen Blk.fus 3 = true ∧ rsvBits (0x80000001#32) 0x8000007F = 0 ∧ bit (0x80000001#32).toNat 31 = true ∧ s.pageOpen Blk.swc 0 = true) := by decide +kernel

theorem witness_CapsAndAudits_2 : (let s := Wit.wall.setFld Reg.FUS_CAP_CTL_BUSY 0 1; s.hostPageOpen Blk.fus 0 = true ∧ s.flag Reg.FUS_CAP_CTL_BUSY = true) := by decide +kernel

theorem witness_CapsAndAudits_3 : (let s := Wit.capSession; let a := addr64 (s.fld Reg.FUS_CAP_SRC_LO_ADDR * 64) (s.fld Reg.FUS_CAP_SRC_HI); let r := s.engineRead a 32 14; let q := r.2.engineRead a 48 14; s.hostPageOpen Blk.fus 0 = true ∧ s.flag Reg.FUS_CAP_CTL_BUSY = false ∧ s.fus.session = true ∧ (r.1.map fun h => field h 6 2) = some 1 ∧ q.1 = some Wit.capImg ∧ capBadFormat Wit.capImg = false ∧ capBadRange q.2.variant Wit.capImg = false) := by decide +kernel

theorem witness_CapsAndAudits_4 : (let s : State := { Wit.wall with fus := { commit := some Wit.capImg } }; s.fus.commit = some Wit.capImg ∧ ((s.kstWrite (capCopy 0) (capStored Wit.capImg 1)).bind fun u => u.kstWrite (capCopy 1) (capStored Wit.capImg 1)).isSome = true ∧ s.storedSeq = 0) := by decide +kernel

theorem witness_CalibreWriteChecksAndStages_1 : (let s := Wit.calWrite 136 0; s.pwr.clocksStopped = false ∧ s.canStart 5 0x10 = true ∧ field (s.job 5).args 16 4 = Wit.img.length ∧ Wit.img.length ≤ 16777216 ∧ (addrSpace (field (s.job 5).args 8 8)).1 = false ∧ (addrSpace (field (s.job 5).args 8 8)).2 + Wit.img.length ≤ 9223372036854775808 ∧ ((s.hostReq .memRead (addrSpace (field (s.job 5).args 8 8)).2 Wit.img.length none).gainReads Wit.img).checkImage Wit.img Wit.img.length (bit (field (s.job 5).args 20 1) 0) ≠ none) := by decide +kernel

theorem witness_CalibreWriteChecksAndStages_2 : (let s := Wit.calWrite 28984 0; s.canStart 5 0x10 = true ∧ field (s.job 5).args 16 4 = 28984 ∧ bit (field (s.job 5).args 20 1) 0 = false) := by decide +kernel

theorem witness_CalibreWriteChecksAndStages_3 : (let s := Wit.staged; s.clb.staged = some ⟨5, Wit.img, []⟩ ∧ (s.bank s.shadow).state ≠ 3 ∧ s.clb.swap = none) := by decide +kernel

theorem witness_CalibreSwapReadAndSave_1 : (let s := Wit.swapJob; s.pwr.clocksStopped = false ∧ s.canStart 5 0x11 = true ∧ (s.bank s.shadow).state = 1 ∧ field (s.job 5).args 8 2 = s.fld Reg.CLB_WRITE_SEQ) := by decide +kernel

theorem witness_CalibreSwapReadAndSave_2 : (let s := Wit.swapJob.setFld Reg.CLB_WRITE_SEQ 0 8; s.canStart 5 0x11 = true ∧ field (s.job 5).args 8 2 ≠ s.fld Reg.CLB_WRITE_SEQ) := by decide +kernel

theorem witness_CalibreSwapReadAndSave_3 : (let s := Wit.swapping false 0; s.clb.swap = some ⟨5, false, 0, false, 0, [], []⟩ ∧ s.now + 400 * Clk.us ≤ s.markTime (frameAdd s.frameCount (1 + 1)) ∧ (∀ k, k < 1 → s.markTime (frameAdd s.frameCount (k + 1)) < s.now + 400 * Clk.us)) := by decide +kernel

theorem witness_CalibreSwapReadAndSave_4 : (let s := Wit.swapping true 2; s.clb.swap = some ⟨5, true, 2, false, 0, [], []⟩ ∧ frameLe (frameAdd s.frameCount 1) 2 = true ∧ s.now + 400 * Clk.us ≤ s.markTime 2) := by decide +kernel

theorem witness_CalibreSwapReadAndSave_5 : (let s := Wit.swapping true 0; s.clb.swap = some ⟨5, true, 0, false, 0, [], []⟩ ∧ s.markTime 0 < s.now + 400 * Clk.us) := by decide +kernel

theorem witness_CalibreSwapReadAndSave_6 : (let s := Wit.draining2; s.clb.activeValid = true ∧ (s.bank (!s.clb.active)).state = 3 ∧ s.tagged (!s.clb.active) = false) := by decide +kernel

theorem witness_CalibreSwapReadAndSave_7 : (let s := Wit.readJob; s.pwr.clocksStopped = false ∧ s.canStart 5 0x12 = true ∧ (s.job 5).silent = true ∧ field (s.job 5).args 20 1 = 0 ∧ s.clb.activeValid = true ∧ (s.bank s.clb.active).state ≠ 0 ∧ (addrSpace (field (s.job 5).args 8 8)).1 = false ∧ (Img.readBack (s.bank s.clb.active).image (s.bank s.clb.active).latUnbound).length ≤ field (s.job 5).args 16 4 ∧ (addrSpace (field (s.job 5).args 8 8)).2 + (Img.readBack (s.bank s.clb.active).image (s.bank s.clb.active).latUnbound).length ≤ 9223372036854775808) := by decide +kernel

theorem witness_CalibreSwapReadAndSave_8 : (let s := Wit.saving; let bytes := slotBytes ((s.clb.saveSeq + 1) % 4294967296) (s.bank s.clb.active).seq s.frameCount (Img.readBack (s.bank s.clb.active).image (s.bank s.clb.active).latUnbound); s.clb.savePending = true ∧ s.clb.activeValid = true ∧ s.clb.saveSlot < 2 ∧ s.kst.worn (calibreSlot (1 - s.clb.saveSlot)) bytes.length = false ∧ s.kst.warns (calibreSlot (1 - s.clb.saveSlot)) bytes.length = false ∧ (s.takeInject .rngPtr (s.fld Reg.CLB_EVQ_RING / 32)).isNone = true) := by decide +kernel

theorem witness_EncodeSessionsOpenAndClose_1 : (let s := Wit.encReadyToOpen; let x := encArgs (s.job 5).args; let e := bits (field (s.job 5).args 8 1) 4 0; let load := x.loadOf (s.encRate x); let cs := s.leastLoaded x.nCores ((List.range s.variant.encCores).filter s.encOnline); s.pwr.clocksStopped = false ∧ s.canStart 5 0x20 = true ∧ (s.ses e).state = 0 ∧ (x.formatOk && x.sizeOk s.variant && x.rateOk && s.encSourceOk x && s.encRingsOk e (s.job 5).tenant x) = true ∧ cs.length = x.nCores ∧ (∀ c, c ∈ cs → s.encLoad c + (load + x.nCores - 1) / x.nCores ≤ 500) ∧ 5 * gran (picPlain x.outW x.outH 1 (if x.depth = 10 then 2 else 1)) ≤ s.encRegionFree) := by decide +kernel

theorem witness_EncodeSessionsOpenAndClose_2 : (let s := Wit.clbJob 0x20 (List.replicate 64 0) Wit.encReadyToOpen; let x := encArgs (s.job 5).args; s.canStart 5 0x20 = true ∧ (s.ses 0).state = 0 ∧ (x.formatOk && x.sizeOk s.variant && x.rateOk && s.encSourceOk x && s.encRingsOk 0 (s.job 5).tenant x) = false) := by decide +kernel

theorem witness_EncodeSessionsOpenAndClose_3 : (let s := Wit.encSes Wit.session; s.canStart 5 0x21 = true ∧ field (s.job 5).args 8 1 = 0 ∧ (s.ses 0).state ≠ 0 ∧ (s.ses 0).tenant = (s.job 5).tenant ∧ (s.ses 0).coding = none ∧ ((Wit.encCoding 1).ses 0).coding ≠ none ∧ (Wit.encCoding 1).canStart 5 0x21 = true) := by decide +kernel

theorem witness_EncodePicturesCoresAndRegion_1 : (let s := Wit.encRelay; s.pwr.clocksStopped = false ∧ (s.ses 0).state = 1 ∧ (s.ses 0).isStream = true ∧ (s.stream (s.ses 0).stream).state = 2 ∧ s.relayNext (s.ses 0) = some (1, { stream := 7, released := true, decoded := true, info := { width := 8, height := 8 } })) := by decide +kernel

theorem witness_EncodePicturesCoresAndRegion_2 : (let s := Wit.encWaiting; s.pwr.clocksStopped = false ∧ (s.ses 0).state = 1 ∧ (s.ses 0).isStream = false ∧ (s.ses 0).coding = none ∧ (s.ses 0).waiting = some { frame := 3 } ∧ (s.ses 0).cores ≠ [] ∧ (∀ c, c ∈ (s.ses 0).cores → s.encOnline c = true ∧ (s.encCore c).busy = false ∧ s.escOk 2 c = true) ∧ s.flag Reg.PWR_THROTTLE_HOT = false ∧ s.pwr.critStop = false) := by decide +kernel

theorem witness_EncodePicturesCoresAndRegion_3 : (let s := Wit.encCoding 1; (s.ses 0).state = 1 ∧ (s.ses 0).coding = some { frame := 3 } ∧ (s.ses 0).codePicture Wit.cols [] = (10, false) ∧ (s.ses 0).codePicture Wit.manyCols [] = (5000, false) ∧ (s.ring (s.ses 0).outRing).cls = 3 ∧ (∀ c, c ∈ (s.ses 0).cores → s.takeInject .encCore c = none) ∧ ((s.ring (s.ses 0).outRing).pkts.map (·.len)).sum = 4096) := by decide +kernel

theorem witness_EncodePicturesCoresAndRegion_4 : (let s := Wit.encOffline; s.pwr.clocksStopped = false ∧ 0 < s.variant.encCores ∧ (s.encCore 0).offline = true ∧ (s.encCore 0).busy = false ∧ s.enc.sessions = [] ∧ (s.encCore 1).offline = false ∧ s.pageOpen Blk.enc 0 = true ∧ s.pageOpen Blk.enc 1 = true ∧ rsvBits (1#32) 0xFFFFFF = 0) := by decide +kernel

theorem witness_EncodePicturesCoresAndRegion_5 : (0, Wit.session) ∈ (Wit.encSes Wit.session).enc.sessions ∧ Wit.session.state ≠ 0 ∧ (Wit.encSes Wit.session).pageOpen Blk.enc 0 = true := by decide +kernel

theorem witness_DmaChainsStartAndStop_1 : (let s := Wit.dmaSubmitJob 0; s.pwr.clocksStopped = false ∧ s.canStart 5 0x30 = true ∧ field (s.job 5).args 8 1 = 0 ∧ (s.dch 0).busy = false ∧ s.pageEnabled Blk.dma 0 = true ∧ 0 < s.variant.dmaChannels ∧ s.pageOpen Blk.dma 0 = true ∧ s.now < (s.dch 0).startedAt + s.fld Reg.DMA_TIMEOUT_MS 0 * Clk.ms) := by decide +kernel

theorem witness_DmaChainsStartAndStop_2 : (let s := Wit.dmaBusy none (Wit.dmaSubmitJob 0); s.canStart 5 0x30 = true ∧ field (s.job 5).args 8 1 = 0 ∧ (s.dch 0).busy = true ∧ (s.dch 0).desc = none) := by decide +kernel

theorem witness_DmaChainsStartAndStop_3 : (let s : State := { Wit.dmaBusy (some (Wit.desc 1 0 0)) Wit.dmaWall with now := 10000000000000 }; (s.dch 0).busy = true ∧ (s.dch 0).desc ≠ none ∧ (s.dch 0).startedAt + s.fld Reg.DMA_TIMEOUT_MS 0 * Clk.ms ≤ s.now) := by decide +kernel

theorem witness_DmaChainsStartAndStop_4 : (let s := (List.range 32).foldl (fun t c => t.setDch c { busy := true }) (Wit.dmaSubmitJob 255); s.canStart 5 0x30 = true ∧ field (s.job 5).args 8 1 = 255 ∧ (∀ d, d < s.variant.dmaChannels → (s.dch d).busy = true)) := by decide +kernel

theorem witness_DmaDescriptorsRun_1 : (let s := Wit.dmaBusy none Wit.dmaWall; s.pwr.clocksStopped = false ∧ s.dmaRuns 0 = true ∧ s.fld Reg.PG_ERR_INJECT_COUNT (pageOf Blk.dma 0) = 0 ∧ (s.dch 0).desc = none ∧ (addrSpace (s.dch 0).cur).1 = false ∧ (s.dch 0).cur % 64 = 0 ∧ (Wit.desc 1 0 8192).length = 64 ∧ s.descBad (decide (0 < (s.dch 0).submitter) && decide ((s.dch 0).submitter < 64)) (Wit.desc 1 0 8192) = false ∧ (Desc.touchesDevice (Wit.desc 1 0 8192) && s.dramGroupOff) = false ∧ s.descBad (decide (0 < (s.dch 0).submitter) && decide ((s.dch 0).submitter < 64)) (Wit.desc 7 0 0) = true) := by decide +kernel

theorem witness_DmaDescriptorsRun_2 : (let s := Wit.dmaBusy (some (Wit.desc 1 0 8192)) Wit.dmaWall; let d := Wit.desc 1 0 8192; s.dmaRuns 0 = true ∧ (s.dch 0).desc = some d ∧ Desc.op d = 1 ∧ isAccess (addrSpace (Desc.src d)).2 (Desc.count d) (s.dch 0).progress 64 = true ∧ isAccess (addrSpace (Desc.dst d)).2 (Desc.count d) (s.dch 0).progress 64 = true ∧ (s.dch 0).fails = [] ∧ (s.dch 0).domainStop = false ∧ (s.dch 0).abort = false ∧ (s.dch 0).job = none ∧ Desc.wb d = false ∧ (List.replicate 128 (7 : Byte)).length = Desc.count d ∧ (addrSpace (Desc.src d)).1 = false ∧ (addrSpace (Desc.dst d)).1 = false) := by decide +kernel

theorem witness_DmaDescriptorsRun_3 : (let s := Wit.dmaBusy (some (Wit.desc 1 0 (8192 + 2 ^ 63))) Wit.dmaWall; s.dmaRuns 0 = true ∧ (addrSpace (Desc.dst (Wit.desc 1 0 (8192 + 2 ^ 63)))).1 = true ∧ s.hst.hdm = [] ∧ s.mem.dram.wf = true ∧ s.dramGroupDead = false) := by decide +kernel

theorem witness_DmaDescriptorsRun_4 : Desc.op (Wit.desc 2 0 8192) = 2 ∧ (addrSpace (Desc.dst (Wit.desc 2 0 8192))).1 = false ∧ Desc.wb (Wit.desc 2 0 8192) = false ∧ Desc.op (Wit.desc 3 0 8192) = 3 ∧ Desc.wb (Wit.desc 3 0 8192) = false ∧ Desc.count (Wit.desc 3 0 8192) = 128 := by decide +kernel

theorem witness_MezzanineRowPairs_1 : (let s := Wit.mzeReady; s.pwr.clocksStopped = false ∧ s.fld Reg.PG_ERR_INJECT_COUNT (pageOf Blk.mze 0) = 0 ∧ s.mzeOnline 0 = true ∧ (s.mzc 0).busy = false ∧ s.pwr.critStop = false ∧ s.escOk 3 0 = true ∧ s.rowTags = s ∧ (s.swin 0).wait = [] ∧ (s.readyRow.map fun r => Tile.id r.e) = some 0 ∧ (s.readyRow.map fun r => r.rp) = some (Wit.trp 0) ∧ (s.mzt 0).pic = none) := by decide +kernel

theorem witness_MezzanineRowPairs_2 : (let s := Wit.mzeOpen; s.mzeOnline 0 = true ∧ (s.mzc 0).busy = false ∧ s.escOk 3 0 = true ∧ s.rowTags = s ∧ (s.swin 0).wait = [] ∧ (s.readyRow.map fun r => Tile.id r.e) = some 0 ∧ (s.readyRow.map fun r => r.rp) = some (Wit.trp 0) ∧ (s.mzt 0).pic = some Wit.mzePic) := by decide +kernel

theorem witness_MezzanineRowPairs_3 : (let s := Wit.mzeCoding; (s.mzc 0).busy = true ∧ (s.mzt (s.mzc 0).tile).pic = some Wit.mzePic ∧ (s.mzt (s.mzc 0).tile).inq = [Wit.trp 0] ∧ Wit.mzePic.next + 1 ≠ Wit.mzePic.h2 ∧ (s.codeRow (s.mzc 0) Wit.mzePic (Wit.trp 0)).2.2.1 ≠ none ∧ s.hst.hdm = [] ∧ s.mem.dram.wf = true ∧ s.refPieces (s.mzt 0) 2 (refOff 8 1 0) 32 = [(0, 32)]) := by decide +kernel

theorem witness_MezzanineRefreshCoresAndRegion_1 : (let s := Wit.refreshJob 0 1 0; s.pwr.clocksStopped = false ∧ s.canStart 5 0x40 = true ∧ bits (field (s.job 5).args 8 2) 13 0 = 0 ∧ s.activeImg = some Wit.timg ∧ (Img.tile Wit.timg 0).isSome = true ∧ s.lit ((Img.tile Wit.timg 0).getD []) = true ∧ bit (field (s.job 5).args 10 1) 0 = true) := by decide +kernel

theorem witness_MezzanineRefreshCoresAndRegion_2 : (let s := Wit.refreshJob 0 0 1; let e := (Img.tile Wit.timg 0).getD []; s.canStart 5 0x40 = true ∧ s.lit e = true ∧ bit (field (s.job 5).args 10 1) 0 = false ∧ field (s.job 5).args 14 2 ≠ 0 ∧ field (s.job 5).args 12 2 + field (s.job 5).args 14 2 ≤ Tile.rps e) := by decide +kernel

theorem witness_MezzanineRefreshCoresAndRegion_3 : (let s := Wit.refreshJob 9 1 0; s.canStart 5 0x40 = true ∧ bits (field (s.job 5).args 8 2) 13 0 = 9 ∧ (∀ im, s.activeImg = some im → Img.tile im 9 = none)) := by decide +kernel

theorem witness_MezzanineRefreshCoresAndRegion_4 : (let s := Wit.mzeOffline; 0 < s.variant.mzeCores ∧ (s.mzc 0).offline = true ∧ (s.mzc 0).busy = false ∧ s.pageOpen Blk.mze 0 = true ∧ rsvBits 5 0xFFFFFF = 0 ∧ s.clb.activeValid = true ∧ Wit.host.clb.activeValid = false ∧ Wit.host.pageOpen Blk.mze 0 = true) := by decide +kernel

theorem witness_PoolCommands_1 : (let s : State := { Wit.pool with pool := { Wit.pool.pool with odie := { Wit.pool.pool.odie with total := 1 } } }; s.pwr.clocksStopped = false ∧ s.pageEnabled Blk.bpm 0 = true ∧ s.fld Reg.PG_ERR_INJECT_COUNT (pageOf Blk.bpm 0) = 0 ∧ validOwner s.variant 1 = true ∧ s.fld Reg.BPM_QUOTA_POOL 1 = 0 ∧ s.allocTest 1 0 = Pst.ok ∧ (s.linkOf s.pool.odie.head).2 = true ∧ (s.buf s.pool.odie.head).st = 0 ∧ s.pool.odie.first ≤ s.pool.odie.head ∧ s.pool.odie.head < s.pool.odie.first + s.pool.odie.total ∧ (s.linkOf s.pool.odie.head).1 = 4294967295 ∧ s.windowCalls = [] ∧ s.allocTest 2 0 ≠ Pst.ok) := by decide +kernel

theorem witness_PoolCommands_2 : (let s := Wit.pool; s.shareTest 1 7 2 64 = Pst.ok ∧ s.shareTest 1 7 20 64 ≠ Pst.ok ∧ s.freeTest 1 7 = Pst.ok ∧ (s.buf 7).shares = 0 ∧ s.freeTest 2 7 ≠ Pst.ok ∧ s.handoverTest 1 7 2 = Pst.ok) := by decide +kernel

theorem witness_PoolCommands_3 : (let s := Wit.pool2; s.releaseTest 2 7 = Pst.ok ∧ (s.own 2).held < 4294967296 ∧ (s.buf 7).st = 1 ∧ (s.buf 7).shares ≠ 0 ∧ s.freeTest 1 7 = Pst.ok) := by decide +kernel

theorem witness_PoolCommands_4 : (let s := Wit.pool3; s.releaseTest 2 7 = Pst.ok ∧ (s.buf 7).st = 2 ∧ (s.buf 7).shares = 1) := by decide +kernel

theorem witness_PoolCommands_5 : (hasWindow .c648 0 = true ∧ ∀ k, k < 6 → 0 < k → (Wit.poolWin k).fld Reg.BPM_CMD_OP 0 = k ∧ (Wit.poolWin k).flag Reg.BPM_RSP_DONE 0 = false) := by decide +kernel

theorem witness_PoolConfigurationAndForce_1 : (let s := Wit.pool; s.pwr.clocksStopped = false ∧ s.pageOpen Blk.bpm 0 = true ∧ rsvBits 5 0xFFFFFF = 0 ∧ rsvBits 256 0x1FFFFFF = 0 ∧ s.pool.dram.alloc = 0 ∧ s.pool.dram.pending = 0 ∧ s.fld Reg.BPM_DPOOL_COUNT % 256 = 0 ∧ s.fld Reg.BPM_DPOOL_COUNT ≤ 16777216 ∧ s.inPrivate ((5#32).toNat % 16777216 * 65536) (s.fld Reg.BPM_DPOOL_COUNT * 264) = true ∧ s.inPrivate (s.fld Reg.BPM_DPOOL_BASE * 65536) ((256#32).toNat % 33554432 * 264) = true ∧ validOwner s.variant 5 = true) := by decide +kernel

theorem witness_PoolConfigurationAndForce_2 : (let s := Wit.forcing; s.pageOpen Blk.bpm 0 = true ∧ rsvBits 1 0x7F03 = 0 ∧ rsvBits 0x103 0x7F03 = 0 ∧ bit (1#32).toNat 0 = true ∧ bit (1#32).toNat 1 = false ∧ s.bufOk (s.fld Reg.BPM_FORCE_BUF) = true ∧ (s.buf (s.fld Reg.BPM_FORCE_BUF)).st ≠ 0 ∧ bit (0x103#32).toNat 1 = true ∧ validOwner s.variant ((0x103#32).toNat / 256 % 128) = true ∧ (Wit.poolBad.poolOf 0).rebuilding = true) := by decide +kernel

theorem witness_SwitchCellsCross_1 : (let s := Wit.switch; let f := Wit.swFrame; s.pwr.clocksStopped = false ∧ s.pageEnabled Blk.swc 0 = true ∧ 0 < s.variant.ports ∧ s.swc.ins = [(2, { queue := [f] })] ∧ f.isOpen = true ∧ f.direct = some 0 ∧ f.bufs = [7] ∧ 0 < f.len ∧ f.len ≤ 128 ∧ s.pageEnabled Blk.sch 0 = true ∧ s.accepts f 0 = true ∧ s.fld Reg.PG_ERR_INJECT_COUNT (pageOf Blk.swc 0) = 0 ∧ s.fld Reg.PG_ERR_INJECT_COUNT (pageOf Blk.clb 0) = 0) := by decide +kernel

theorem witness_SwitchCellsCross_2 : (let s := Wit.switchWait Wit.swFrame; (s.swin 2).wait = Wit.swFrame :: [] ∧ s.earlierFrag Wit.swFrame = false ∧ Wit.swFrame.bufs ≠ [] ∧ ((Wit.switchWait { Wit.swFrame with bufs := [] }).poolAllocN 1 1 []).1 = some [0]) := by decide +kernel

theorem witness_PortFramesAndDepartures_1 : (let s := Wit.schWall; s.pwr.clocksStopped = false ∧ s.wound = true ∧ 0 < s.variant.ports ∧ s.fld Reg.PG_ERR_INJECT_COUNT (pageOf Blk.sch 0) = 0 ∧ s.tagOf (s.nextPframe 0) = some (false, Wit.beatImg) ∧ frameLe (s.nextPframe 0) s.frameCount = true ∧ s.markTime (s.nextPframe 0) + Dir.offset (Img.dir Wit.beatImg 0) * Clk.cclk ≤ s.now) := by decide +kernel

theorem witness_PortFramesAndDepartures_2 : (let s := Wit.running; (s.sport 0).running = true ∧ (Img.tileBeats (s.sport 0).image 0 0).getLast? = some ((Img.beats Wit.beatImg 0).headD []) ∧ Beat.fin ((Img.beats Wit.beatImg 0).headD []) ≤ s.slotAt 0 s.now ∧ (s.sport 0).closed.contains 0 = false ∧ (s.sport 0).bank.isSome = true) := by decide +kernel

theorem witness_PortFramesAndDepartures_3 : (let s := Wit.runningAt; let b := (Img.beats Wit.beatImg 0).headD []; s.pwr.clocksStopped = false ∧ 0 < s.variant.ports ∧ (s.sport 0).running = true ∧ s.inData 0 = true ∧ s.fld Reg.PG_ERR_INJECT_COUNT (pageOf Blk.sch 0) = 0 ∧ (s.sport 0).free ≤ 10 ∧ s.slotAt 0 s.now = 10 ∧ (s.sport 0).closed = [] ∧ (s.sport 0).bank.isSome = true ∧ (Img.beats (s.sport 0).image 0).find? (fun b => decide (Beat.start b ≤ 10) && decide (10 < Beat.fin b)) = some b ∧ Beat.kind b = 0 ∧ Img.tile (s.sport 0).image (Beat.tile b) = some ((Img.tile Wit.beatImg 0).getD []) ∧ (s.sport 0).dark = [] ∧ (s.sport 0).tableBad = false ∧ s.fld Reg.SWC_PORT_SMP_N 0 = 0 ∧ (s.sport 0).tileQ.find? (fun g => g.tile == Beat.tile b && g.frame == s.fld Reg.SCH_PFRAME 0) = some Wit.tileFrame ∧ 10 + Wit.tileFrame.len + (s.sport 0).ovh 0 ≤ Beat.fin b ∧ s.credited 0 Wit.tileFrame = true) := by decide +kernel

theorem witness_ShapersFillAndForgive_1 : (let s := Wit.shaped true (-5); s.pwr.clocksStopped = false ∧ 0 < s.variant.ports ∧ s.pageOpen Blk.sch 0 = true ∧ rsvBits 0x107 0x1FF = 0 ∧ rsvBits 1 0x1FF = 0 ∧ rsvBits 1 0xFFFFFF = 0 ∧ s.fld Reg.SCH_SUB_SEL_SUB 0 = 3 ∧ ((s.sport 0).shaper 3).enable = true ∧ ((Wit.shaped false 0).sport 0).shaper 3 = { enable := false, rate := 9600000, burst := 8192, bal := 0 } ∧ bit (0x107#32).toNat 8 = true ∧ bit (1#32).toNat 8 = false) := by decide +kernel

theorem witness_PortsTrain_1 : (let s := Wit.portCfgd; s.pwr.clocksStopped = false ∧ s.wound = true ∧ (s.port 0).state = 0 ∧ s.portCfg 0 = some (1, 6) ∧ s.flag Reg.PLK_PORT_CTL_TEST 0 = false) := by decide +kernel

theorem witness_PortsTrain_2 : (let s := Wit.train 2 {}; (s.port 0).state = 2 ∧ (s.port 0).step = 2 ∧ (s.port 0).stepAt + 10 * Clk.ms ≤ s.now) := by decide +kernel

theorem witness_PortsTrain_3 : (let s := Wit.trainWall.setPort 0 { state := 1 }; (s.port 0).state = 1 ∧ (s.port 0).downAt + 100 * Clk.ms ≤ s.now) := by decide +kernel

theorem witness_PortsTrain_4 : (let s := Wit.train 3 Wit.pos1; (s.port 0).state = 2 ∧ (s.port 0).step = 3 ∧ (s.port 0).stepAt + 4 * Clk.ms ≤ s.now ∧ Tab.has (s.port 0).pos 0 = true) := by decide +kernel

theorem witness_PortsTrain_5 : (let s := Wit.train 4 { Wit.pos1 with tries := 2 }; (s.port 0).step = 4 ∧ (s.port 0).confirm = 0 ∧ (s.port 0).stepAt + Clk.ms ≤ s.now ∧ 2 ≤ (s.port 0).tries) := by decide +kernel

theorem witness_PortsTrain_6 : (let s := Wit.train 5 Wit.pos1; (s.port 0).state = 2 ∧ (s.port 0).step = 5 ∧ (s.posn 0 0).version ≠ 0 ∧ (s.posn 0 0).trips.length < 16 ∧ 0 < (s.port 0).receivers) := by decide +kernel

theorem witness_LanesAndPortControl_1 : (let s := Wit.dataPort; s.pwr.clocksStopped = false ∧ 0 < s.variant.ports ∧ s.portOfLane 0 = some 0 ∧ s.inData 0 = true ∧ 5 < s.fld Reg.LNE_EQ_FOM_MIN 0 ∧ (s.port 0).state = 3 ∧ s.pageOpen Blk.plk 0 = true ∧ s.pageOpen Blk.lne 0 = true ∧ s.portOfLane 5 = none ∧ s.laneInTest 0 = false ∧ s.busBad 0 = false ∧ s.plk.i2c = none ∧ rsvBits 0x10000000 0x1FFFFFFF = 0 ∧ rsvBits 0x241 0xE7F = 0 ∧ (rxRun false true (s.lane 0) [.good 20000]).lost = true ∧ (rxRun false false (s.lane 0) [.comma 3, .comma 3, .comma 3]).aligned = true ∧ (rxRun false false (s.lane 0) []).lost = false ∧ bit (0x10000000#32).toNat 28 = true) := by decide +kernel

theorem witness_LanesAndPortControl_2 : (let s := Wit.dataPort.setLane 0 { fomLow := 7, pllLost := true }; (s.lane 0).pllLost = true ∧ 7 ≤ (s.lane 0).fomLow ∧ (s.port 0).state ≠ 4) := by decide +kernel

theorem witness_LanesAndPortControl_3 : (let s := Wit.testPort; s.laneInTest 0 = true ∧ s.flag Reg.LNE_TEST_GEN_EN 0 = true ∧ s.flag Reg.LNE_TEST_CHK_EN 0 = true ∧ s.pageOpen Blk.lne 0 = true ∧ s.fld Reg.LNE_TEST_LOOP 0 = 1 ∧ s.fld Reg.LNE_TEST_PATTERN 0 ≠ 0 ∧ s.flag Reg.LNE_TEST_CHK_LOCK 0 = true ∧ (s.port 0).state = 4) := by decide +kernel

theorem witness_LanesAndPortControl_4 : ({ Wit.dataPort with clb := { Wit.dataPort.clb with activeValid := true } } : State).clb.activeValid = true ∧ ({ Wit.dataPort with plk := { Wit.dataPort.plk with i2c := some 2048 } } : State).plk.i2c = some 2048 := by decide +kernel

theorem witness_UpstreamFramesAndIdentity_1 : (let s := Wit.dataPort; s.pwr.clocksStopped = false ∧ s.inData 0 = true ∧ s.fld Reg.PG_ERR_INJECT_COUNT (pageOf Blk.plk 0) = 0 ∧ Up.valid Wit.badFrame = false ∧ (let f := Wit.upFrame 4 0 (List.replicate 12 0); Up.valid f = true ∧ Up.type f = 4 ∧ (s.posn 0 (Up.src f)).version ≠ 0) ∧ (let f := Wit.upFrame 5 7 [1,2,3]; Up.valid f = true ∧ Up.type f = 5)) := by decide +kernel

theorem witness_UpstreamFramesAndIdentity_2 : (let s := Wit.engine 2; let f := Wit.upFrame 3 0x8000 (List.replicate 16 0); s.inData 0 = true ∧ Up.valid f = true ∧ Up.type f = 3 ∧ Up.tag f = (s.posn 0 (Up.src f)).tag ∧ 32768 ≤ Up.tag f ∧ (s.posn 0 (Up.src f)).engine = 2 ∧ field (Up.payload f) 0 1 = 0) := by decide +kernel

theorem witness_UpstreamFramesAndIdentity_3 : (let s := Wit.engine 1; s.inData 0 = true ∧ (s.posn 0 0).engine = 1 ∧ (s.posn 0 0).since + 2 * Clk.ms ≤ s.now ∧ (s.posn 0 0).tries < 2 ∧ ((Wit.engine 3).posn 0 0).engine = 3 ∧ ((Wit.engine 3).posn 0 0).since + 100 * Clk.ms ≤ s.now) := by decide +kernel

theorem witness_UpstreamFramesAndIdentity_4 : (Wit.trunkPort.inData 0 = true ∧ Wit.trunkPort.trunk 0 = true) := by decide +kernel

theorem witness_UpstreamFramesAndIdentity_5 : (let s := Wit.identJob 0 Wit.dataPort; s.inData 0 = true ∧ s.canStart 5 0x41 = true ∧ 0 < s.variant.ports ∧ bits (field (s.job 5).args 8 1) 5 0 = 0 ∧ (addrSpace (field (s.job 5).args 16 8)).1 = false ∧ (addrSpace (field (s.job 5).args 16 8)).2 + 256 ≤ 9223372036854775808 ∧ bit (field (s.job 5).args 10 1) 0 = false ∧ (s.posn 0 (field (s.job 5).args 9 1)).record = some (List.replicate 256 0) ∧ (s.job 5).silent = true ∧ bit (field ((Wit.identJob 1 Wit.dataPort).job 5).args 10 1) 0 = true) := by decide +kernel

theorem witness_EscapementRoutinesRun_1 : (let s := Wit.esc 1 3 (Wit.word 7 6 0 4 1 3 0) (Wit.routine false false []); s.pwr.clocksStopped = false ∧ (escPlace s.variant 1 3).isSome = true ∧ s.escOk 1 3 = true ∧ (s.esc_ 1 3).routine = some 5 ∧ parityOk ((s.escImage (s.esc_ 1 3)).word 10) = true ∧ Word.safe ((s.escImage (s.esc_ 1 3)).word 10) = false ∧ Word.seq ((s.escImage (s.esc_ 1 3)).word 10) = 6) := by decide +kernel

theorem witness_EscapementRoutinesRun_2 : (let s := Wit.esc 1 3 (Wit.word 7 5 1 4 1 3 0) (Wit.routine true false []); s.escOk 1 3 = true ∧ parityOk ((s.escImage (s.esc_ 1 3)).word 10) = true ∧ Word.safe ((s.escImage (s.esc_ 1 3)).word 10) = true ∧ (s.esc_ 1 3).stop = true) := by decide +kernel

theorem witness_EscapementRoutinesRun_3 : (let w := Wit.word 7 5 0 4 1 3 0; Word.seq w = 5 ∧ Word.tmo w < 28 ∧ Word.tflt w = false ∧ Word.next w = 7 ∧ parityOk w = true ∧ parityOk (w + 1) = false) := by decide +kernel

theorem witness_EscapementsHalt_1 : (let s := Wit.esc 1 3 (Wit.word 7 5 0 4 1 3 1) (Wit.routine true false []); s.pwr.clocksStopped = false ∧ (escPlace s.variant 1 3).isSome = true ∧ s.escOk 1 3 = true ∧ (s.esc_ 1 3).routine = some 5 ∧ (s.esc_ 1 3).stop = true ∧ (s.esc_ 1 3).reqAt + s.fld Reg.ESC_STOP_LIMIT * 1024 * escClock 1 < s.now ∧ Word.tflt (Wit.word 7 5 0 4 1 3 1) = true ∧ Word.seq (Wit.word 7 5 0 4 1 3 1) = 5) := by decide +kernel

theorem witness_EscapementsHalt_2 : (Word.seq (Wit.word 7 7 0 4 1 3 1) = 7 ∧ parityOk (Wit.word 7 7 0 4 1 3 1) = true ∧ Word.safe (Wit.word 7 7 0 4 1 3 1) = false) := by decide +kernel

theorem witness_EscapementImagesAndBundles_1 : (let s := Wit.wall; s.pwr.clocksStopped = false ∧ s.pageEnabled Blk.esc 0 = true ∧ s.pageOpen Blk.esc 0 = true ∧ rsvBits 5 0xF1F = 0 ∧ (Wit.loading 2).pageOpen Blk.esc 0 = true ∧ s.flag Reg.ESC_LOAD_CTL_BUSY = false ∧ (Wit.loading 2).flag Reg.ESC_LOAD_CTL_BUSY = true ∧ (Wit.loading 2).pageEnabled Blk.esc 0 = true ∧ bit (5#32).toNat 0 = true) := by decide +kernel

theorem witness_EscapementImagesAndBundles_2 : (let s := Wit.loading 2; s.pwr.clocksStopped = false ∧ s.esc.loading = some 2 ∧ s.dramOk (addr64 (s.fld Reg.ESC_LOAD_SRC_LO_ADDR * 64) (s.fld Reg.ESC_LOAD_SRC_HI)) 98464 = true ∧ s.hostBiased (addr64 (s.fld Reg.ESC_LOAD_SRC_LO_ADDR * 64) (s.fld Reg.ESC_LOAD_SRC_HI)) 98464 = [] ∧ s.mem.poison = [] ∧ s.fld Reg.PG_ERR_INJECT_COUNT (pageOf Blk.mem 0) = 0 ∧ s.fld Reg.PG_ERR_INJECT_COUNT (pageOf Blk.esc 0) = 0) := by decide +kernel

theorem witness_EscapementImagesAndBundles_3 : (let s := Wit.wall; s.pwr.clocksStopped = false ∧ s.pageEnabled Blk.rgl 0 = true ∧ s.hostPageOpen Blk.rgl 0 = true ∧ rsvBits 1 0xF07 = 0 ∧ s.flag Reg.RGL_BUNDLE_CTL_BUSY = false ∧ (Wit.bundle 3).flag Reg.RGL_BUNDLE_CTL_BUSY = true ∧ (Wit.bundle 3).rgl.bundle = some ⟨1, List.replicate 70 3, 3⟩) := by decide +kernel

theorem witness_EscapementImagesAndBundles_4 : (let s := Wit.bundle 0; s.pwr.clocksStopped = false ∧ s.rgl.bundle = some ⟨1, List.replicate 70 3, 0⟩ ∧ s.kst.worn (bundleSlot 1) 70 = false ∧ s.kst.warns (bundleSlot 1) 70 = false ∧ (s.kst.put (bundleSlot 1) (List.replicate 70 3)).worn (bundleSlot 1) 64 = false ∧ (s.kst.put (bundleSlot 1) (List.replicate 70 3)).warns (bundleSlot 1) 64 = false) := by decide +kernel

theorem witness_PagesEnableResetAndStop_1 : (let s := Wit.wall; s.pwr.clocksStopped = false ∧ pageOwner s.variant (pageOf Blk.sch 1) = some (Blk.sch, 1) ∧ alwaysEnabled Blk.sch = false ∧ s.pageEnabled Blk.sch 1 = true ∧ s.pageOpen Blk.sch 1 = true ∧ s.pageOpen Blk.sys 0 = true ∧ s.pagesReached = true ∧ pageOwner s.variant (pageOf Blk.sys 0) = some (Blk.sys, 0) ∧ s.pageEnabled Blk.sys 0 = true ∧ alwaysEnabled Blk.sys = true ∧ pageOwner s.variant 3 = none) := by decide +kernel

theorem witness_PagesEnableResetAndStop_2 : (let s := Wit.off (pageOf Blk.sch 0) (Wit.used Wit.wall); s.pwr.clocksStopped = false ∧ s.pageEnabled Blk.sch 0 = false ∧ s.pageIdle Blk.sch 0 = true ∧ s.pageOpen Blk.sch 0 = true) := by decide +kernel

theorem witness_PagesEnableResetAndStop_3 : (let s := Wit.off (pageOf Blk.swc 0) Wit.wall; s.pwr.clocksStopped = false ∧ s.pageEnabled Blk.swc 0 = false ∧ s.pageIdle Blk.swc 0 = true ∧ s.pageOpen Blk.swc 0 = true) := by decide +kernel

theorem witness_PagesEnableResetAndStop_4 : (let s := Wit.esc 1 3 1 (Wit.routine false false []); s.pageOpen Blk.dec 0 = true ∧ escPlace s.variant 1 3 = some (Blk.dec, 0) ∧ (s.esc_ 1 3).routine ≠ none) := by decide +kernel

theorem witness_RegulatorWatchdogAndReload_1 : (let s := Wit.rgl 2 { wdogAt := 10 }; s.pwr.clocksStopped = false ∧ 2 < s.variant.regulators ∧ s.fld Reg.RGL_STATUS_STATE 2 = 1 ∧ (s.rgl_ 2).wdogHalf = false ∧ (s.rgl_ 2).wdogAt + s.fld Reg.RGL_WDOG_MS 2 * Clk.ms / 2 ≤ s.now) := by decide +kernel

theorem witness_RegulatorWatchdogAndReload_2 : (let s := { Wit.rgl 2 { wdogAt := 10 } with now := 20000000000 }; s.fld Reg.RGL_STATUS_STATE 2 = 1 ∧ (s.rgl_ 2).wdogAt + s.fld Reg.RGL_WDOG_MS 2 * Clk.ms ≤ s.now) := by decide +kernel

theorem witness_RegulatorWatchdogAndReload_3 : (let s := Wit.reloading; s.pwr.clocksStopped = false ∧ s.pageOpen Blk.rgl 2 = true ∧ Wit.wall.pageOpen Blk.rgl 2 = true ∧ s.fld Reg.RGL_BOOT_RECOVERY = 0 ∧ s.rgl.runtime ≠ [] ∧ s.domOn 20 = true ∧ s.rgl.loading = [] ∧ Wit.wall.rgl.runtime = []) := by decide +kernel

theorem witness_RegulatorMailboxesAndQueues_1 : (let s := Wit.rgl 2 {}; s.pwr.clocksStopped = false ∧ 2 < s.variant.regulators ∧ s.pageEnabled Blk.rgl 2 = true ∧ s.pageOpen Blk.rgl 2 = true ∧ s.fld Reg.RGL_STATUS_STATE 2 = 1 ∧ (s.rgl_ 2).mbx = [] ∧ ((Wit.rgl 2 { mbx := List.replicate 16 [1] }).rgl_ 2).mbx.length = 16 ∧ ((s.rglQ 2).rxPi + 128 - bits (0x41#32).toNat 6 0) % 128 = 63 ∧ 64 < ((s.rglQ 2).rxPi + 128 - bits (1#32).toNat 6 0) % 128) := by decide +kernel

theorem witness_RegulatorMailboxesAndQueues_2 : (let s := Wit.tx 1 10; (s.rglQ 2).txCount ≠ 0 ∧ Tab.get (2 * (2 / 2)) s.rgl.txTurn (32 + 2 / 2) = 2 ∧ s.txOwned 2 (Wit.txEntry 1) = true ∧ s.pageEnabled Blk.rgl 2 = true ∧ (Wit.tx 1 11).txOwned 2 (Wit.txEntry 1) = false) := by decide +kernel

theorem witness_RuntimeServicesAnswer_1 : (let s := Wit.cpl { entry := 2, abi := 1 }; s.pwr.clocksStopped = false ∧ s.cplRuns 2 1 = true ∧ s.fld Reg.PG_ERR_INJECT_COUNT (pageOf Blk.rgl 2) = 0 ∧ (s.cpl 2 1).frameWaits = false ∧ (s.cpl 2 1).msgWaits = 0 ∧ (s.rgl_ 2).mbx = [] ∧ (s.cpl 2 1).abi < 2 ∧ s.pageEnabled Blk.rgl 2 = true) := by decide +kernel

theorem witness_RuntimeServicesAnswer_2 : (let s := Wit.cpl { entry := 2, abi := 2, frameWaits := true } [[3]]; s.cplRuns 2 1 = true ∧ (s.cpl 2 1).frameWaits = true ∧ (s.rgl_ 2).mbx = [[3]] ∧ 2 ≤ (s.cpl 2 1).abi ∧ s.fld Reg.PG_ERR_INJECT_COUNT (pageOf Blk.rgl 2) = 0) := by decide +kernel

theorem witness_RuntimeServicesAnswer_3 : (let s := (Wit.cpl { entry := 3, abi := 2 }).setRglQ 2 { rxPi := 1, txPi := 16 }; s.cplRuns 2 1 = true ∧ (s.rglQ 2).txCount = 16 ∧ (s.rglQ 2).rxPi ≠ (s.rglQ 2).rxCi) := by decide +kernel

theorem witness_ComplicationsLoadStopAndTimers_1 : (let s := Wit.cplJob 232 0; s.pwr.clocksStopped = false ∧ s.canStart 5 0x50 = true ∧ bit (field (s.job 5).args 21 1) 0 = false ∧ (addrSpace (field (s.job 5).args 8 8)).1 = false ∧ (addrSpace (field (s.job 5).args 8 8)).2 + field (s.job 5).args 16 4 ≤ 9223372036854775808 ∧ Wit.cplImg.length = field (s.job 5).args 16 4) := by decide +kernel

theorem witness_ComplicationsLoadStopAndTimers_2 : (let im := Wit.cplImg; im.length = Sg.length im ∧ Sg.formatOk im 3 = true ∧ 64 ≤ Sg.payloadLen im ∧ Mani.ok im = true ∧ (Wit.cplJob 232 0).fuseSec ≤ Sg.secVer im ∧ Sg.lo im % 256 = 2 ∧ Sg.stepping im = true ∧ ((Wit.cplJob 232 0).hostReq .memRead 4096 232 none).placeFor 0xFF im = some 4 ∧ Sg.formatOk (List.replicate 232 0) 3 = false) := by decide +kernel

theorem witness_ComplicationsLoadStopAndTimers_3 : (let s := Wit.cplJob 0 1; s.canStart 5 0x50 = true ∧ bit (field (s.job 5).args 21 1) 0 = true ∧ s.findCpl (field (s.job 5).args 22 1) = none ∧ ({ s with rgl := { regs := [(2, { cpls := [(1, { kind := 3 })] })] } } : State).findCpl 3 = some (2, 1)) := by decide +kernel

theorem witness_ComplicationsLoadStopAndTimers_4 : (let s := Wit.cplIniting; s.pwr.clocksStopped = false ∧ s.rgl.loading = [⟨some 5, 4, 0, false, 0, { kind := 3, version := 7 }⟩] ∧ 0 + 10 * Clk.ms ≤ s.now) := by decide +kernel

theorem witness_ComplicationsLoadStopAndTimers_5 : (let s := Wit.cpl { entry := 2, overruns := 2, image := Wit.cplImg }; s.pwr.clocksStopped = false ∧ s.rglRuns 2 = true ∧ Tab.has (s.rgl_ 2).cpls 1 = true ∧ (s.cpl 2 1).stopped = false ∧ (s.cpl 2 1).entry = 2 ∧ (s.cpl 2 1).overran = false ∧ (s.cpl 2 1).entryAt + Mani.frameUs (s.cpl 2 1).image * Clk.us < s.now) := by decide +kernel

theorem witness_ComplicationsLoadStopAndTimers_6 : (let s := Wit.cpl { entry := 3, timers := [5] }; s.rglRuns 2 = true ∧ (s.cpl 2 1).timers = [5] ∧ 5 ≤ s.now ∧ (s.cpl 2 1).entry ≠ 0 ∧ ((Wit.cpl { timers := [5] }).cpl 2 1).entry = 0) := by decide +kernel

theorem witness_InterruptEdgesPend_1 : (let s := Wit.int { priv := Wit.mbxPriv }; s.pwr.clocksStopped = false ∧ s.fld Reg.PG_ERR_INJECT_COUNT (pageOf Blk.int (1 + 41 / 256)) = 0 ∧ (s.src 41).line = false ∧ 3 < s.variant.regulators ∧ (Tab.get {} (s.tgt 3).priv 2).line = false ∧ bits (41#32).toNat 9 0 = 41 ∧ 1022 < bits (0x3FF#32).toNat 9 0 ∧ rsvBits 0x3FF 0x3FF = 0 ∧ rsvBits 41 0x3FF = 0 ∧ s.pageOpen Blk.int 0 = true ∧ s.pageOpen Blk.int 1 = true) := by decide +kernel

theorem witness_InterruptEdgesPend_2 : (let s := Wit.int { timer := 83333333 } [(41, { pending := true, line := true })]; s.now / Clk.uclk % 4294967296 = (s.tgt 3).timer ∧ (s.src 41).line = true ∧ s.now / Clk.uclk % 4294967296 ≠ (s.tgt 2).timer) := by decide +kernel

theorem witness_InterruptEntryAndExit_1 : (let s := Wit.int { priv := Wit.mbxPriv }; s.pwr.clocksStopped = false ∧ 3 < s.variant.regulators ∧ (s.tgt 3).taking = none ∧ s.fld Reg.INT_GLOBAL_HOLD = 0 ∧ s.intEligible 3 (s.tgt 3).curLevel = [(9, 2)] ∧ (s.tgt 3).fresh = false) := by decide +kernel

theorem witness_InterruptEntryAndExit_2 : (let s := Wit.int { shadow := [⟨5, 3, 0⟩, ⟨4, 0, 41⟩], level := 3, taking := some false, priv := Wit.mbxPriv } [(41, { pending := true })]; s.intEligible 3 3 = [(9, 2), (5, 41)]) := by decide +kernel

theorem witness_InterruptEntryAndExit_3 : (let s := Wit.int { shadow := [⟨5, 13, 0⟩, ⟨4, 0, 41⟩], level := 13, taking := some false, priv := Wit.mbxPriv } [(41, { pending := true })]; s.intEligible 3 13 = [] ∧ (s.tgt 3).taking = some false) := by decide +kernel

theorem witness_InterruptEntryAndExit_4 : (let s := Wit.int Wit.handler; s.pwr.clocksStopped = false ∧ (s.tgt 3).shadow = [⟨0x100, 0, 2⟩] ∧ (s.tgt 3).thresh = 0 ∧ (s.tgt 3).taking = none ∧ s.intEligible 3 0 = []) := by decide +kernel

theorem witness_InterruptEntryAndExit_5 : (let s := Wit.int { Wit.handler with priv := Wit.mbxPriv }; (s.tgt 3).shadow = [⟨0x100, 0, 2⟩] ∧ s.intEligible 3 0 = [(9, 2)] ∧ s.fld Reg.INT_GLOBAL_HOLD = 0) := by decide +kernel

theorem witness_InterruptEntryAndExit_6 : (((Wit.int { Wit.handler with priv := Wit.mbxPriv, taking := some true }).tgt 3).taking = some true) := by decide +kernel

theorem witness_HoldAndHostClaims_1 : (let s := Wit.int {} [(42, { pending := true })]; s.pwr.clocksStopped = false ∧ s.flag Reg.INT_SRC_HOST 42 = true ∧ s.hostCond 42 = true ∧ s.hostCond 41 = false ∧ s.pageOpen Blk.int 0 = true ∧ s.pageOpen Blk.int 1 = true ∧ rsvBits 3 3 = 0) := by decide +kernel

theorem witness_HoldAndHostClaims_2 : (let s := ((Wit.int {} [(42, { pending := true, active := true })]).setFld Reg.INT_GLOBAL_HOST_EN 0 1).setVec 0 { masked := false }; (s.src 42).active = true ∧ (s.src 42).pending = true ∧ s.flag Reg.INT_SRC_ENABLE 42 = true ∧ s.flag Reg.INT_SRC_HOST 42 = true ∧ s.flag Reg.INT_GLOBAL_HOLD = false ∧ s.flag Reg.INT_GLOBAL_HOST_EN = true ∧ (s.vec (s.fld Reg.INT_SRC_VECTOR 42)).masked = false) := by decide +kernel

theorem witness_StickyEnableAndInject_1 : (let s := Wit.off (pageOf Blk.dec 1); s.pwr.clocksStopped = false ∧ pageOwner s.variant (pageOf Blk.dec 1) = some (Blk.dec, 1) ∧ s.flt.present = [] ∧ s.pageOpen Blk.dec 1 = true ∧ bit (s.sticky (pageOf Blk.dec 1)) 8 = true ∧ bit (Src.c4Mask Blk.dec) 8 = false ∧ s.flt.pulseAt + 10 * Clk.us ≤ s.now ∧ bits (0x805#32).toNat 7 0 = 5 ∧ (srcAt Blk.dec 8).hasChecker = true ∧ (srcAt Blk.dec 8).privileged = false) := by decide +kernel

theorem witness_StickyEnableAndInject_2 : (let s := (Wit.off (pageOf Blk.dec 1)).setFld Reg.PG_ERR_ENABLE (pageOf Blk.dec 1) 0; bit (s.fld Reg.PG_ERR_ENABLE (pageOf Blk.dec 1)) 8 = false ∧ bit (s.sticky (pageOf Blk.dec 1)) 8 = true ∧ s.effClass (srcAt Blk.dec 8) 1 < 3) := by decide +kernel

theorem witness_StickyEnableAndInject_3 : (srcAt Blk.kst 8 = .kstEcc ∧ (srcAt Blk.kst 8).hasChecker = true ∧ (srcAt Blk.kst 8).privileged = true ∧ Wit.wall.flt.unlocked = false ∧ (srcAt Blk.dec 0).hasChecker = false) := by decide +kernel

theorem witness_TestUnlockAndScan_1 : (let s := { Wit.lateWound with flt := { testHeld := true, armed := true, armedAt := 9000000 } }; s.pwr.clocksStopped = false ∧ s.pageOpen Blk.flt 0 = true ∧ s.flt.testHeld = true ∧ s.flt.armed = true ∧ bits (0x81A8#32).toNat 15 0 = 0x81A8 ∧ s.now ≤ s.flt.armedAt + 100 * Clk.us) := by decide +kernel

theorem witness_TestUnlockAndScan_2 : (let s := { Wit.lateWound with flt := { testHeld := true, armed := false } }; s.flt.armed = false ∧ bits (0x7E57#32).toNat 15 0 = 0x7E57 ∧ Wit.lateWound.flt.testHeld = false) := by decide +kernel

theorem witness_TestUnlockAndScan_3 : (let s := { Wit.lateWound with flt := { testHeld := true, armed := true, armedAt := 1 } }; s.flt.armedAt + 100 * Clk.us < s.now) := by decide +kernel

theorem witness_DramErrorsZeroingAndFrequency_1 : (let s := Wit.scrubbing [5]; s.pwr.clocksStopped = false ∧ s.fld Reg.PG_ERR_INJECT_COUNT (pageOf Blk.mem 0) = 0 ∧ s.fld Reg.MEM_SCRUB_HOURS ≠ 0 ∧ s.dramOk (5 * 64) 64 = true ∧ s.mem.zeroing = false ∧ s.mem.poison.contains 5 = true ∧ s.mem.poison.contains 6 = false ∧ s.fld Reg.MEM_ERRLOG_CTL_VALID < 16 ∧ s.pageOpen Blk.mem 0 = true) := by decide +kernel

theorem witness_DramErrorsZeroingAndFrequency_2 : (((Wit.scrubbing []).setFld Reg.MEM_SCRUB_HOURS 0 0).fld Reg.MEM_SCRUB_HOURS = 0 ∧ 16 ≤ ((Wit.scrubbing []).setFld Reg.MEM_ERRLOG_CTL_VALID 0 16).fld Reg.MEM_ERRLOG_CTL_VALID) := by decide +kernel

theorem witness_DramErrorsZeroingAndFrequency_3 : (let s := Wit.zeroing 5 []; s.pwr.clocksStopped = false ∧ s.mem.zeroing = true ∧ s.mem.zeroed = [] ∧ s.mem.zeroNext + 1 < s.chunks ∧ (Wit.zeroing 1000000 []).chunks ≤ 1000001 ∧ s.flag Reg.MEM_STATUS_FREQ_BUSY = false ∧ bit (5#32).toNat 2 = true ∧ bits (5#32).toNat 1 0 % 3 ≠ s.fld Reg.MEM_STATUS_FREQ ∧ Wit.wall.mem.zeroing = false ∧ s.pageOpen Blk.mem 0 = true ∧ rsvBits 5#32 7 = 0 ∧ rsvBits 0xFFFF#32 0xFFFF = 0) := by decide +kernel

theorem witness_DramErrorsZeroingAndFrequency_4 : (let s := Wit.freqBusy 2; s.mem.heldReq = [] ∧ s.flag Reg.MEM_STATUS_FREQ_BUSY = true ∧ s.groupMoving = false ∧ s.mem.freqTarget < 3 ∧ ((Wit.freqBusy 1).setDom 37 { state := 1 }).groupMoving = true) := by decide +kernel

theorem witness_KeepingStoreTransfers_1 : (let s := Wit.kst 0x3C000 1; s.pwr.clocksStopped = false ∧ s.fld Reg.PG_ERR_INJECT_COUNT (pageOf Blk.kst 0) = 0 ∧ s.fld Reg.PG_ERR_INJECT_COUNT (pageOf Blk.mem 0) = 0 ∧ s.fld Reg.KST_XFER_OFF * 64 = 0xF00000 ∧ kstRegion 0xF00000 = some 7 ∧ kstRegion (0xF00000 + 63) = some 7 ∧ 4096 + 64 ≤ s.usable ∧ s.flag Reg.KST_XFER_CTL_BUSY = false ∧ kstRegion 0x10000 ≠ some 7 ∧ kstRegion 0x80000 = none ∧ s.pageOpen Blk.kst 0 = true ∧ rsvBits 3#32 0xF07 = 0) := by decide +kernel

theorem witness_KeepingStoreTransfers_2 : (let s := Wit.xfer false 0xF00000; s.kst.xfer = some ⟨false, 0xF00000, 4096, 1⟩ ∧ s.hst.hdm = [] ∧ s.mem.dram.wf ∧ s.kstRead 0xF00000 64 = some (List.replicate 64 0)) := by decide +kernel

theorem witness_KeepingStoreTransfers_3 : (let s := Wit.xfer true 0xF00000; s.kst.xfer = some ⟨true, 0xF00000, 4096, 1⟩ ∧ s.dramOk 4096 64 = true ∧ s.hostBiased 4096 64 = [] ∧ s.mem.poison = [] ∧ s.kst.worn 0xF00000 64 = false ∧ s.kst.warns 0xF00000 64 = false) := by decide +kernel

theorem witness_PowerDomainsTurnOffAndOn_1 : (let s := Wit.dom 1 {}; s.pwr.clocksStopped = false ∧ s.fld Reg.PWR_DOM_SEL_DOMAIN = 1 ∧ domFused s.variant 1 = false ∧ s.flag Reg.MEM_STATUS_FREQ_BUSY = false ∧ (s.dom 1).state = 2 ∧ s.offAllowed 1 = false ∧ (Wit.dom 36 {}).offAllowed 36 = true ∧ domFused s.variant 36 = false ∧ s.pageOpen Blk.pwr 0 = true ∧ rsvBits 1#32 1 = 0) := by decide +kernel

theorem witness_PowerDomainsTurnOffAndOn_2 : (let s := Wit.dom 36 { state := 3, req := false }; (s.dom 36).state = 3 ∧ (∀ c, c < 32 → s.touches c 36 = false) ∧ (s.dom 36).since + s.fld Reg.PWR_DRAIN_TIMEOUT_US * Clk.us ≤ s.now) := by decide +kernel

theorem witness_PowerDomainsTurnOffAndOn_3 : (let s := Wit.dom 20 { state := 1 }; (s.dom 20).state = 1 ∧ (s.dom 20).req = true ∧ s.fld Reg.PWR_DOM_SEL_DOMAIN = 20 ∧ ((Wit.dom 1 { state := 0, req := false }).dom 1).state = 0) := by decide +kernel

theorem witness_ThermalAndBoardManagement_1 : (let s := Wit.wall; s.pwr.clocksStopped = false ∧ s.fld Reg.PG_ERR_INJECT_COUNT (pageOf Blk.pwr 0) = 0 ∧ s.flag Reg.PWR_THROTTLE_WARN = false ∧ (s.fld Reg.PWR_THERM_WARN : Int) ≤ 120 ∧ (s.fld Reg.PWR_THERM_HOT : Int) ≤ 120 ∧ ([30, -7] : List Int).length ≤ 11 ∧ (∀ y ∈ ([30, -7] : List Int), -128 ≤ y ∧ y ≤ 120) ∧ ({ s with pwr := { clocksStopped := true } } : State).pwr.clocksStopped = true) := by decide +kernel

theorem witness_RegisterWritesTakeTheirBits_1 : (let s := Wit.wall; s.pwr.clocksStopped = false ∧ s.hostReaches = true ∧ pageOwner s.variant (pageOf Blk.esc 0) = some (Blk.esc, 0) ∧ (regAct Blk.esc 0 0x04C (0x10005#32).toNat).isNone = true ∧ s.wordFields Blk.esc 0 0x04C = [(Reg.ESC_STOP_LIMIT, 0)] ∧ s.fld Reg.PG_ERR_INJECT_COUNT (pageOf Blk.esc 0) = 0 ∧ Reg.ESC_STOP_LIMIT.beyond s.variant (0x10005#32).toNat = false ∧ (0x10005#32).toNat &&& (4294967295 - coverOf [(Reg.ESC_STOP_LIMIT, 0)]) ≠ 0 ∧ (5#32).toNat &&& (4294967295 - coverOf [(Reg.ESC_STOP_LIMIT, 0)]) = 0 ∧ Reg.ESC_STOP_LIMIT.bounded s.variant (Reg.ESC_STOP_LIMIT.written 0 0) ≠ Reg.ESC_STOP_LIMIT.written 0 0) := by decide +kernel

theorem witness_RegisterWritesTakeTheirBits_2 : (let s := Wit.wall; (regAct Blk.pwr 0 0x06C 63).isNone = true ∧ s.wordFields Blk.pwr 0 0x06C = [(Reg.PWR_DOM_SEL_DOMAIN, 0)] ∧ Reg.PWR_DOM_SEL_DOMAIN.beyond s.variant 63 = true ∧ selBeyond .c624 Blk.bpm 0x064 96 = true ∧ selBeyond s.variant Blk.pwr 0x06C 63 = false ∧ pageOwner s.variant 3 = none ∧ State.reset.hostReaches = false ∧ State.reset.pwr.clocksStopped = false) := by decide +kernel

theorem witness_CommandsChangeNothingElse_1 : (mayWrite (.nop 0) = some Part.latchFields ∧ mayWrite .zeroChunk = some [Reg.MEM_STATUS_ZEROED] ∧ (mayChange (.nop 0)).contains .dec = false) := by decide +kernel

theorem witness_FaultsLatchAndCount_1 : (let s := Wit.wall; s.fld Reg.PG_ERR_INJECT_COUNT (pageOf Blk.flt 0) = 0 ∧ bit (s.sticky (pageOf Blk.mem 0)) 8 = false ∧ s.srcEnabled .memCe (pageOf Blk.mem 0) = true ∧ s.effClass .memCe 0 = 1 ∧ s.effClass .kstUe 0 = 3 ∧ s.flt.logged.contains (pageOf Blk.kst 0 * 32 + 9) = false ∧ s.kst.worn (0x40000 + 16 * s.kst.logHead) 16 = false ∧ s.kst.warns (0x40000 + 16 * s.kst.logHead) 16 = false) := by decide +kernel

theorem witness_FaultsLatchAndCount_2 : (bit ((Wit.off (pageOf Blk.mem 0)).sticky (pageOf Blk.mem 0)) 8 = true ∧ (Wit.wall.setFld Reg.PG_ERR_ENABLE (pageOf Blk.mem 0) 0).srcEnabled .memCe (pageOf Blk.mem 0) = false) := by decide +kernel

theorem witness_ClassesAreRaised_1 : (let s := Wit.wall; s.pwr.clocksStopped = false ∧ s.hostReaches = true ∧ pageOf Blk.mem 0 < 16368 ∧ pageOwner s.variant (pageOf Blk.mem 0) = some (Blk.mem, 0) ∧ s.fld Reg.PG_ERR_INJECT_COUNT (pageOf Blk.mem 0) = 0 ∧ bit (Src.c4Mask Blk.mem) 8 = false ∧ bit (Src.c4Mask Blk.pwr) 12 = true ∧ (Wit.wall.setFld Reg.PG_ERR_CLASS_RAISE (pageOf Blk.mem 0 * 16) 2).effClass .memCe 0 = 3) := by decide +kernel

theorem witness_WindingCalibreJobAndMemoryCommandsComplete_1 : (let s := Wit.late; s.fld Reg.PWR_WIND_STAGE ≠ 0 ∧ s.pwr.lastSample + Clk.ms ≤ s.now ∧ s.pwr.clocksStopped = false ∧ (State.reset.fld Reg.PWR_WIND_STAGE = 0 ∧ ∀ k ∈ [2, 3, 4, 5, 6, 7], (Wit.stage k).fld Reg.PWR_WIND_STAGE = k ∧ (Wit.stage k).pwr.clocksStopped = false)) := by decide +kernel

theorem witness_WindingCalibreJobAndMemoryCommandsComplete_2 : (let s := Wit.inW1; s.pwr.clocksStopped = false ∧ s.fld Reg.PWR_WIND_STAGE = 1 ∧ s.groupRunning = 0 ∧ s.pwr.tested.contains 5 = false ∧ 35999 < 2 * groupTypical 0) := by decide +kernel

theorem witness_WindingCalibreJobAndMemoryCommandsComplete_3 : (let s := Wit.cmdring; s.pwr.clocksStopped = false ∧ (s.ring 0).enable = true ∧ (s.ring 0).halted = false ∧ (s.ring 0).stopped = false ∧ (s.ring 0).cls = 1 ∧ (s.ring 0).count ≠ 0 ∧ 0 < s.variant.rings ∧ s.pageEnabled Blk.rng 0 = true ∧ s.entriesHeld (s.ring 0) = false ∧ (s.takeInject .rngPtr 0).isNone = true ∧ s.rejection 0 (s.entryAt 0 (s.ring 0).ci (0x7F :: List.replicate 63 0)).1 = 0) := by decide +kernel

theorem witness_WindingCalibreJobAndMemoryCommandsComplete_4 : ((Wit.job 0x7F [] Wit.host).canStart 5 0x7F = true ∧ (Wit.job 0x60 [] Wit.host).canStart 5 0x60 = true ∧ Tab.has Wit.fenced.rng.jobs 6 = true ∧ (Wit.fenced.job 6).waits = true ∧ Wit.fenced.waitOver 6 = true) := by decide +kernel

theorem witness_WindingCalibreJobAndMemoryCommandsComplete_5 : (let s := Wit.swapJob; s.canStart 5 0x11 = true ∧ (s.bank s.shadow).state = 1 ∧ field (s.job 5).args 8 2 = s.fld Reg.CLB_WRITE_SEQ ∧ (Wit.swapping true 2).clb.swap = some ⟨5, true, 2, false, 0, [], []⟩ ∧ frameLe (frameAdd (Wit.swapping true 2).frameCount 1) 2 = true ∧ (Wit.swapping true 2).now + 400 * Clk.us ≤ (Wit.swapping true 2).markTime 2) := by decide +kernel

theorem witness_WindingCalibreJobAndMemoryCommandsComplete_6 : (let s := Wit.draining2; s.clb.activeValid = true ∧ (s.bank (!s.clb.active)).state = 3 ∧ s.tagged (!s.clb.active) = false) := by decide +kernel

theorem witness_WindingCalibreJobAndMemoryCommandsComplete_7 : (let s := Wit.readJob; let im := Img.readBack (s.bank s.clb.active).image (s.bank s.clb.active).latUnbound; s.canStart 5 0x12 = true ∧ (s.job 5).silent = true ∧ field (s.job 5).args 20 1 = 0 ∧ s.clb.activeValid = true ∧ (s.bank s.clb.active).state ≠ 0 ∧ (addrSpace (field (s.job 5).args 8 8)).1 = false ∧ im.length ≤ field (s.job 5).args 16 4 ∧ (addrSpace (field (s.job 5).args 8 8)).2 + im.length ≤ 9223372036854775808) := by decide +kernel

theorem witness_WindingCalibreJobAndMemoryCommandsComplete_8 : (let s := Wit.saving; let bytes := slotBytes ((s.clb.saveSeq + 1) % 4294967296) (s.bank s.clb.active).seq s.frameCount (Img.readBack (s.bank s.clb.active).image (s.bank s.clb.active).latUnbound); s.clb.savePending = true ∧ s.clb.activeValid = true ∧ s.clb.saveSlot < 2 ∧ s.kst.worn (calibreSlot (1 - s.clb.saveSlot)) bytes.length = false ∧ s.kst.warns (calibreSlot (1 - s.clb.saveSlot)) bytes.length = false ∧ (s.takeInject .rngPtr (s.fld Reg.CLB_EVQ_RING / 32)).isNone = true) := by decide +kernel

theorem witness_WindingCalibreJobAndMemoryCommandsComplete_9 : (let s := Wit.cplJob 232 0; let im := Wit.cplImg; s.canStart 5 0x50 = true ∧ im.length = field (s.job 5).args 16 4 ∧ bit (field (s.job 5).args 21 1) 0 = false ∧ (addrSpace (field (s.job 5).args 8 8)).1 = false ∧ (addrSpace (field (s.job 5).args 8 8)).2 + im.length ≤ 9223372036854775808 ∧ im.length = Sg.length im ∧ Sg.formatOk im 3 = true ∧ 64 ≤ Sg.payloadLen im ∧ Mani.ok im = true ∧ s.fuseSec ≤ Sg.secVer im ∧ Sg.lo im % 256 = 2 ∧ Sg.stepping im = true ∧ field (s.job 5).args 20 1 = 0xFF ∧ (addrSpace (field (s.job 5).args 8 8)).2 = 4096 ∧ (s.hostReq .memRead 4096 232 none).placeFor 0xFF im = some 4) := by decide +kernel

theorem witness_WindingCalibreJobAndMemoryCommandsComplete_10 : (let s : State := { Wit.cplJob 0 1 with rgl := { regs := [(2, { cpls := [(1, { kind := 3 })] })] } }; s.canStart 5 0x50 = true ∧ bit (field (s.job 5).args 21 1) 0 = true ∧ (s.findCpl (field (s.job 5).args 22 1)).isSome = true ∧ field (s.job 5).args 16 4 = 0 ∧ Wit.cplIniting.rgl.loading = [⟨some 5, 4, 0, false, 0, { kind := 3, version := 7 }⟩] ∧ 0 + 10 * Clk.ms ≤ Wit.cplIniting.now) := by decide +kernel

theorem witness_WindingCalibreJobAndMemoryCommandsComplete_11 : (let s := Wit.encRelay; (s.ses 0).state = 1 ∧ (s.ses 0).isStream = true ∧ (s.stream (s.ses 0).stream).state = 2 ∧ s.relayNext (s.ses 0) = some (1, { stream := 7, released := true, decoded := true, info := { width := 8, height := 8 } })) := by decide +kernel

theorem witness_WindingCalibreJobAndMemoryCommandsComplete_12 : (let s := Wit.encWaiting; (s.ses 0).state = 1 ∧ (s.ses 0).isStream = false ∧ (s.ses 0).coding = none ∧ (s.ses 0).waiting = some { frame := 3 } ∧ (s.ses 0).cores ≠ [] ∧ (∀ c, c ∈ (s.ses 0).cores → s.encOnline c = true ∧ (s.encCore c).busy = false ∧ s.escOk 2 c = true) ∧ s.flag Reg.PWR_THROTTLE_HOT = false ∧ s.pwr.critStop = false) := by decide +kernel

theorem witness_WindingCalibreJobAndMemoryCommandsComplete_13 : (let s := Wit.encCoding 1; (s.ses 0).state = 1 ∧ (s.ses 0).coding = some { frame := 3 } ∧ (s.ring (s.ses 0).outRing).cls = 3 ∧ (∀ c, c ∈ (s.ses 0).cores → s.takeInject .encCore c = none) ∧ ((s.ses 0).codePicture Wit.cols []).1 ≤ ((s.ring (s.ses 0).outRing).pkts.map (·.len)).sum) := by decide +kernel

theorem witness_WindingCalibreJobAndMemoryCommandsComplete_14 : (let s := Wit.encOffline; 0 < s.variant.encCores ∧ s.pageOpen Blk.enc 0 = true ∧ (s.encCore 0).offline = true ∧ (s.encCore 0).busy = false ∧ rsvBits 5#32 0xFFFFFF = 0 ∧ s.enc.sessions = []) := by decide +kernel

theorem witness_WindingCalibreJobAndMemoryCommandsComplete_15 : (let s := Wit.scrubbing []; s.fld Reg.PG_ERR_INJECT_COUNT (pageOf Blk.mem 0) = 0 ∧ s.fld Reg.MEM_SCRUB_HOURS ≠ 0 ∧ s.dramOk (5 * 64) 64 = true ∧ s.mem.zeroing = false ∧ s.mem.poison.contains 5 = false ∧ s.pageOpen Blk.mem 0 = true ∧ rsvBits 0xFFFF#32 0xFFFF = 0 ∧ 1 ≠ s.fld Reg.MEM_STATUS_FREQ ∧ rsvBits 5#32 7 = 0 ∧ bit (5#32).toNat 2 = true ∧ s.flag Reg.MEM_STATUS_FREQ_BUSY = false ∧ bits (5#32).toNat 1 0 % 3 ≠ s.fld Reg.MEM_STATUS_FREQ) := by decide +kernel

theorem witness_WindingCalibreJobAndMemoryCommandsComplete_16 : ((Wit.zeroing 5 []).mem.zeroing = true ∧ (Wit.zeroing 5 []).mem.zeroed = [] ∧ (Wit.freqBusy 2).mem.heldReq = [] ∧ (Wit.freqBusy 2).flag Reg.MEM_STATUS_FREQ_BUSY = true ∧ (Wit.freqBusy 2).groupMoving = false ∧ (Wit.freqBusy 2).mem.freqTarget < 3) := by decide +kernel

theorem witness_LinkRegulatorAndServiceCommandsComplete_1 : (let s := Wit.schWall; s.pwr.clocksStopped = false ∧ s.wound = true ∧ 0 < s.variant.ports ∧ s.fld Reg.PG_ERR_INJECT_COUNT (pageOf Blk.sch 0) = 0 ∧ s.tagOf (s.nextPframe 0) = some (false, Wit.beatImg) ∧ frameLe (s.nextPframe 0) s.frameCount = true ∧ s.markTime (s.nextPframe 0) + Dir.offset (Img.dir Wit.beatImg 0) * Clk.cclk ≤ s.now) := by decide +kernel

theorem witness_LinkRegulatorAndServiceCommandsComplete_2 : (let s := Wit.running; s.pwr.clocksStopped = false ∧ s.wound = true ∧ (s.sport 0).running = true ∧ (Img.tileBeats (s.sport 0).image 0 0).getLast? = some ((Img.beats Wit.beatImg 0).headD []) ∧ Beat.fin ((Img.beats Wit.beatImg 0).headD []) ≤ s.slotAt 0 s.now ∧ (s.sport 0).closed.contains 0 = false ∧ (s.sport 0).bank.isSome = true) := by decide +kernel

theorem witness_LinkRegulatorAndServiceCommandsComplete_3 : (let s := Wit.runningAt; let b := (Img.beats Wit.beatImg 0).headD []; s.wound = true ∧ (s.sport 0).running = true ∧ s.inData 0 = true ∧ (s.sport 0).free ≤ 10 ∧ s.slotAt 0 s.now = 10 ∧ (s.sport 0).bank.isSome = true ∧ (Img.beats (s.sport 0).image 0).find? (fun b => decide (Beat.start b ≤ 10) && decide (10 < Beat.fin b)) = some b ∧ Beat.kind b = 0 ∧ Img.tile (s.sport 0).image (Beat.tile b) = some ((Img.tile Wit.beatImg 0).getD []) ∧ (s.sport 0).dark = [] ∧ (s.sport 0).closed = [] ∧ (s.sport 0).tableBad = false ∧ s.fld Reg.SWC_PORT_SMP_N 0 = 0 ∧ (s.sport 0).tileQ.find? (fun g => g.tile == Beat.tile b && g.frame == s.fld Reg.SCH_PFRAME 0) = some Wit.tileFrame ∧ 10 + Wit.tileFrame.len + (s.sport 0).ovh 0 ≤ Beat.fin b ∧ s.credited 0 Wit.tileFrame = true) := by decide +kernel

theorem witness_LinkRegulatorAndServiceCommandsComplete_4 : (let s := Wit.dataPort; s.pwr.clocksStopped = false ∧ 5 < s.variant.ports ∧ s.portOfLane 5 = none ∧ s.pageOpen Blk.plk 0 = true ∧ (s.port 0).state = 3 ∧ s.busBad 0 = false ∧ s.plk.i2c = none ∧ rsvBits 0x10000000 0x1FFFFFFF = 0 ∧ bit (0x10000000#32).toNat 28 = true ∧ rsvBits 0x241 0xE7F = 0 ∧ (s.portOfLane 0).any s.trunk = false ∧ (s.setFld Reg.LNE_STATUS_ALIGNED 0 1).flag Reg.LNE_STATUS_ALIGNED 0 = true ∧ (rxRun false true (s.lane 0) [.good 20000]).lost = true ∧ (rxRun false true (s.lane 0) [.good 20000]).aligned = false) := by decide +kernel

theorem witness_LinkRegulatorAndServiceCommandsComplete_5 : (((Wit.dataPort.setLane 0 { fomLow := 7, pllLost := true }).lane 0).pllLost = true ∧ ({ Wit.dataPort with clb := { Wit.dataPort.clb with activeValid := true } } : State).clb.activeValid = true ∧ ({ Wit.dataPort with plk := { Wit.dataPort.plk with i2c := some 2048 } } : State).plk.i2c = some 2048 ∧ Wit.trunkPort.inData 0 = true ∧ Wit.trunkPort.trunk 0 = true) := by decide +kernel

theorem witness_LinkRegulatorAndServiceCommandsComplete_6 : (let s := Wit.testPort; s.laneInTest 0 = true ∧ s.flag Reg.LNE_TEST_GEN_EN 0 = true ∧ s.flag Reg.LNE_TEST_CHK_EN 0 = true ∧ s.pageOpen Blk.lne 0 = true ∧ s.pageOpen Blk.plk 0 = true ∧ s.fld Reg.LNE_TEST_LOOP 0 = 1 ∧ s.fld Reg.LNE_TEST_PATTERN 0 ≠ 0 ∧ s.flag Reg.LNE_TEST_CHK_LOCK 0 = true ∧ (s.port 0).state = 4) := by decide +kernel

theorem witness_LinkRegulatorAndServiceCommandsComplete_7 : (let s := Wit.wall; s.pageEnabled Blk.esc 0 = true ∧ s.pageOpen Blk.esc 0 = true ∧ rsvBits 5 0xF1F = 0 ∧ s.flag Reg.ESC_LOAD_CTL_BUSY = false ∧ bit (5#32).toNat 0 = true ∧ s.pageEnabled Blk.rgl 0 = true ∧ s.hostPageOpen Blk.rgl 0 = true ∧ rsvBits 5 0xF07 = 0 ∧ s.flag Reg.RGL_BUNDLE_CTL_BUSY = false) := by decide +kernel

theorem witness_LinkRegulatorAndServiceCommandsComplete_8 : (let s := Wit.loading 2; let a := addr64 (s.fld Reg.ESC_LOAD_SRC_LO_ADDR * 64) (s.fld Reg.ESC_LOAD_SRC_HI); s.pwr.clocksStopped = false ∧ s.esc.loading = some 2 ∧ s.dramOk a 98464 = true ∧ s.hostBiased a 98464 = [] ∧ s.mem.poison = [] ∧ s.fld Reg.PG_ERR_INJECT_COUNT (pageOf Blk.mem 0) = 0 ∧ s.fld Reg.PG_ERR_INJECT_COUNT (pageOf Blk.esc 0) = 0) := by decide +kernel

theorem witness_LinkRegulatorAndServiceCommandsComplete_9 : (let s := Wit.bundle 0; s.pwr.clocksStopped = false ∧ s.rgl.bundle = some ⟨1, List.replicate 70 3, 0⟩ ∧ s.kst.worn (bundleSlot 1) 70 = false ∧ s.kst.warns (bundleSlot 1) 70 = false) := by decide +kernel

theorem witness_LinkRegulatorAndServiceCommandsComplete_10 : (let s := Wit.cpl { entry := 2, abi := 1 }; s.pwr.clocksStopped = false ∧ s.rglRuns 2 = true ∧ s.cplRuns 2 1 = true ∧ s.fld Reg.PG_ERR_INJECT_COUNT (pageOf Blk.rgl 2) = 0 ∧ (s.cpl 2 1).stopped = false ∧ Tab.has (s.rgl_ 2).cpls 1 = true ∧ (s.cpl 2 1).entry ≠ 0 ∧ (s.cpl 2 1).frameWaits = false ∧ (s.cpl 2 1).msgWaits = 0 ∧ s.pageEnabled Blk.rgl 2 = true ∧ (s.rgl_ 2).mbx.length < 16 ∧ (s.rglQ 2).txCount ≠ 16) := by decide +kernel

theorem witness_LinkRegulatorAndServiceCommandsComplete_11 : (let s := Wit.cpl { entry := 0, timers := [5] }; s.rglRuns 2 = true ∧ (s.cpl 2 1).stopped = false ∧ (s.cpl 2 1).timers = [5] ∧ 5 ≤ s.now ∧ (s.cpl 2 1).entry = 0 ∧ ((Wit.cpl { entry := 2, abi := 2 } [[3]]).rgl_ 2).mbx = [[3]] ∧ (Wit.cpl { entry := 2, abi := 2 } [[3]]).cplRuns 2 1 = true ∧ 2 ≤ ((Wit.cpl { entry := 2, abi := 2 } [[3]]).cpl 2 1).abi) := by decide +kernel

theorem witness_LinkRegulatorAndServiceCommandsComplete_12 : (let s := (Wit.cpl { entry := 3, abi := 2 }).setRglQ 2 { rxPi := 1, txPi := 1 }; s.cplRuns 2 1 = true ∧ (s.rglQ 2).rxPi ≠ (s.rglQ 2).rxCi ∧ (s.rglQ 2).txCount ≠ 16) := by decide +kernel

theorem witness_LinkRegulatorAndServiceCommandsComplete_13 : (let s := Wit.int { priv := Wit.mbxPriv }; s.pwr.clocksStopped = false ∧ 3 < s.variant.regulators ∧ (s.tgt 3).taking = none ∧ (s.tgt 3).shadow.length < 3 ∧ s.fld Reg.INT_GLOBAL_HOLD = 0 ∧ s.intEligible 3 (s.tgt 3).curLevel ≠ [] ∧ (s.tgt 3).fresh = false) := by decide +kernel

theorem witness_LinkRegulatorAndServiceCommandsComplete_14 : (let s := Wit.int { shadow := [⟨4, 0, 2⟩], level := 3 }; (s.tgt 3).shadow = [⟨4, 0, 2⟩] ∧ (s.tgt 3).taking = none ∧ s.intEligible 3 (s.tgt 3).thresh = []) := by decide +kernel

/-! ### The well-formedness check refuses an ill-formed operand for each of its checks, and takes the operand in range -/

theorem test_wf_refuses_1 :
    ([.windingW0 false false 4,
      .selfTestGroup 6 0 0 ⟨false, 0, 0, 0, 0⟩,
      .selfTestGroup 0 256 0 ⟨false, 0, 0, 0, 0⟩,
      .selfTestTimeout 6 0,
      .selfTestTimeout 0 256,
      .linkTrained 5 0 0 false false false,
      .linkTrained 0 8 0 false false false,
      .linkTrained 0 0 32 false false false,
      .linkRetrain 8 0,
      .linkRetrain 0 32,
      .hostBadAccess false 6 0,
      .winBaseWrite 256 0] : List Instr).all
      (fun i => !Instr.wf .c624 i) = true := by decide +kernel

theorem test_wf_takes_1 :
    ([.windingW0 false false 0,
      .selfTestGroup 0 0 0 ⟨false, 0, 0, 0, 0⟩,
      .selfTestTimeout 0 0,
      .linkTrained 0 0 0 false false false,
      .linkRetrain 0 0,
      .hostBadAccess false 0 0,
      .winBaseWrite 0 0] : List Instr).all
      (fun i => Instr.wf .c624 i) = true := by decide +kernel

theorem test_wf_refuses_2 :
    ([.hdmDecoderCommit ⟨2, 0, 0⟩ false,
      .hdmDecoderCommit ⟨0, 4096, 0⟩ false,
      .hdmDecoderCommit ⟨0, 0, 4096⟩ false,
      .biSnoopResponse 288230376151711744,
      .hostLineSnoop 288230376151711744,
      .tenantEnable 64 0,
      .tenantDisable 64 0,
      .dbgrpOwnerWrite 64 0,
      .addressTranslationFail 4096 0,
      .addressTranslationFail 0 4294967296,
      .spdmRequest 256 ⟨false, []⟩,
      .setCertificate 8 false []] : List Instr).all
      (fun i => !Instr.wf .c624 i) = true := by decide +kernel

theorem test_wf_takes_2 :
    ([.hdmDecoderCommit ⟨0, 0, 0⟩ false,
      .biSnoopResponse 0,
      .hostLineSnoop 0,
      .tenantEnable 0 0,
      .tenantDisable 0 0,
      .dbgrpOwnerWrite 0 0,
      .addressTranslationFail 0 0,
      .spdmRequest 0 ⟨false, []⟩,
      .setCertificate 0 false []] : List Instr).all
      (fun i => Instr.wf .c624 i) = true := by decide +kernel

theorem test_wf_refuses_3 :
    ([.msixUnmask (.vector 2048),
      .rngDbPi 4096 0 [],
      .rngDbCi 4096 0,
      .payloadFetch 4096,
      .payloadFetchDone 4096 [] {},
      .seqGapTimeout 512,
      .ringCfgWrite 4096 0 0,
      .ringCfgWrite 0 32 0,
      .ringEnable 4096 0,
      .ringDisable 4096 0,
      .commandFetch 4096 (List.replicate 64 0),
      .commandFetch 0 []] : List Instr).all
      (fun i => !Instr.wf .c624 i) = true := by decide +kernel

theorem test_wf_takes_3 :
    ([.msixUnmask (.vector 0),
      .rngDbPi 0 0 [],
      .rngDbCi 0 0,
      .payloadFetch 0,
      .payloadFetchDone 0 [] {},
      .seqGapTimeout 0,
      .ringCfgWrite 0 0 0,
      .ringEnable 0 0,
      .ringDisable 0 0,
      .commandFetch 0 (List.replicate 64 0)] : List Instr).all
      (fun i => Instr.wf .c624 i) = true := by decide +kernel

theorem test_wf_refuses_4 :
    ([.fencedCommandStart 17592186044416,
      .streamOpen 17592186044416,
      .streamClose 17592186044416,
      .streamFlush 17592186044416,
      .streamSetPolicy 17592186044416,
      .calibreWrite 17592186044416 [] .ok,
      .calibreWriteCommit 17592186044416,
      .calibreSwap 17592186044416,
      .calibreRead 17592186044416,
      .encSessionOpen 17592186044416,
      .encSessionClose 17592186044416,
      .dmaSubmit 17592186044416] : List Instr).all
      (fun i => !Instr.wf .c624 i) = true := by decide +kernel

theorem test_wf_takes_4 :
    ([.fencedCommandStart 0,
      .streamOpen 0,
      .streamClose 0,
      .streamFlush 0,
      .streamSetPolicy 0,
      .calibreWrite 0 [] .ok,
      .calibreWriteCommit 0,
      .calibreSwap 0,
      .calibreRead 0,
      .encSessionOpen 0,
      .encSessionClose 0,
      .dmaSubmit 0] : List Instr).all
      (fun i => Instr.wf .c624 i) = true := by decide +kernel

theorem test_wf_refuses_5 :
    ([.tileRefresh 17592186044416,
      .tileIdentityRead 17592186044416,
      .complicationLoad 17592186044416 [] .ok none,
      .query 17592186044416,
      .nop 17592186044416,
      .mtrEnable 2048 0,
      .mtrRateWrite 2048 0 0,
      .mtrRateWrite 0 32 0,
      .audSnapTake 16384,
      .unitDispatch 24,
      .workUnitDone 24 ⟨0, 0, 0, 0, 0, [], [], 0⟩,
      .pinCopyDone 512 0] : List Instr).all
      (fun i => !Instr.wf .c624 i) = true := by decide +kernel

theorem test_wf_takes_5 :
    ([.tileRefresh 0,
      .tileIdentityRead 0,
      .complicationLoad 0 [] .ok none,
      .query 0,
      .nop 0,
      .mtrEnable 0 0,
      .mtrRateWrite 0 0 0,
      .audSnapTake 0,
      .unitDispatch 0,
      .workUnitDone 0 ⟨0, 0, 0, 0, 0, [], [], 0⟩,
      .pinCopyDone 0 0] : List Instr).all
      (fun i => Instr.wf .c624 i) = true := by decide +kernel

theorem test_wf_refuses_6 :
    ([.pickup 256,
      .streamDrainDone 512,
      .drainTimeout 512,
      .decCoreCtlOffline 24 0,
      .decCoreReset 24,
      .fusForce 4 0,
      .mzeRowPairStart 16,
      .mzeRowPairDone 16,
      .linkFrameSubmit 46,
      .mzeCoreReset 16,
      .encSourceReady 16,
      .encPictureStart 16] : List Instr).all
      (fun i => !Instr.wf .c624 i) = true := by decide +kernel

theorem test_wf_takes_6 :
    ([.pickup 0,
      .streamDrainDone 0,
      .drainTimeout 0,
      .decCoreCtlOffline 0 0,
      .decCoreReset 0,
      .fusForce 0 0,
      .mzeRowPairStart 0,
      .mzeRowPairDone 0,
      .linkFrameSubmit 0,
      .mzeCoreReset 0,
      .encSourceReady 0,
      .encPictureStart 0] : List Instr).all
      (fun i => Instr.wf .c624 i) = true := by decide +kernel

theorem test_wf_refuses_7 :
    ([.encPictureDone 16 [] 0 [],
      .encPictureDone 0 [] 256 [],
      .encCoreReset 4,
      .listRebuildDone 2,
      .quotaWrite 64 0,
      .minWrite 64 0,
      .portMark 32,
      .linkFrameDepart 32 0,
      .tileClose 32 0,
      .tileClose 0 8192,
      .shaperRateWrite 32 0,
      .shaperBurstWrite 32 0] : List Instr).all
      (fun i => !Instr.wf .c624 i) = true := by decide +kernel

theorem test_wf_takes_7 :
    ([.encPictureDone 0 [] 0 [],
      .encCoreReset 0,
      .listRebuildDone 0,
      .quotaWrite 0 0,
      .minWrite 0 0,
      .portMark 0,
      .linkFrameDepart 0 0,
      .tileClose 0 0,
      .shaperRateWrite 0 0,
      .shaperBurstWrite 0 0] : List Instr).all
      (fun i => Instr.wf .c624 i) = true := by decide +kernel

theorem test_wf_refuses_8 :
    ([.shaperForgive 32,
      .shaperEnable 32 0,
      .shaperDisable 32 0,
      .beatTableParity 32,
      .portTrainStart 32,
      .trainAlignTimeout 32,
      .trainRetryTimer 32,
      .tsType2Received 32 0 0 ⟨0, 0, 0⟩,
      .tsType2Received 0 256 0 ⟨0, 0, 0⟩,
      .tsType2Received 0 0 256 ⟨0, 0, 0⟩,
      .tsType2Received 0 0 0 ⟨256, 0, 0⟩,
      .tsType2Received 0 0 0 ⟨0, 256, 0⟩] : List Instr).all
      (fun i => !Instr.wf .c624 i) = true := by decide +kernel

theorem test_wf_takes_8 :
    ([.shaperForgive 0,
      .shaperEnable 0 0,
      .shaperDisable 0 0,
      .beatTableParity 0,
      .portTrainStart 0,
      .trainAlignTimeout 0,
      .trainRetryTimer 0,
      .tsType2Received 0 0 0 ⟨0, 0, 0⟩] : List Instr).all
      (fun i => Instr.wf .c624 i) = true := by decide +kernel

theorem test_wf_refuses_9 :
    ([.tsType2Received 0 0 0 ⟨0, 0, 256⟩,
      .positionCollectTimeout 32,
      .tsType4Received 32 0 ⟨0, ⟨0, 0, 0⟩⟩,
      .tsType4Received 0 256 ⟨0, ⟨0, 0, 0⟩⟩,
      .tsType4Received 0 0 ⟨256, ⟨0, 0, 0⟩⟩,
      .tsType4Received 0 0 ⟨0, ⟨256, 0, 0⟩⟩,
      .tsType4Received 0 0 ⟨0, ⟨0, 256, 0⟩⟩,
      .tsType4Received 0 0 ⟨0, ⟨0, 0, 256⟩⟩,
      .versionConfirmTimeout 32 0,
      .versionConfirmTimeout 0 256,
      .echoReceived 32 0 0,
      .echoReceived 0 256 0] : List Instr).all
      (fun i => !Instr.wf .c624 i) = true := by decide +kernel

theorem test_wf_takes_9 :
    ([.tsType2Received 0 0 0 ⟨0, 0, 0⟩,
      .positionCollectTimeout 0,
      .tsType4Received 0 0 ⟨0, ⟨0, 0, 0⟩⟩,
      .versionConfirmTimeout 0 0,
      .echoReceived 0 0 0] : List Instr).all
      (fun i => Instr.wf .c624 i) = true := by decide +kernel

theorem test_wf_refuses_10 :
    ([.trainComplete 32,
      .laneAlignLoss ⟨32, []⟩,
      .fomMeasure 32 0,
      .fomMeasure 0 65536,
      .plkRetrain 32,
      .plkPortCfgWrite 32 0,
      .portTestEnter 32,
      .portTestClear 32,
      .lneTestInject 32,
      .statusFrame 32 [],
      .mgmtResponse 32 [],
      .identityReplyTimeout 32 0] : List Instr).all
      (fun i => !Instr.wf .c624 i) = true := by decide +kernel

theorem test_wf_takes_10 :
    ([.trainComplete 0,
      .laneAlignLoss ⟨0, []⟩,
      .fomMeasure 0 0,
      .plkRetrain 0,
      .plkPortCfgWrite 0 0,
      .portTestEnter 0,
      .portTestClear 0,
      .lneTestInject 0,
      .statusFrame 0 [],
      .mgmtResponse 0 [],
      .identityReplyTimeout 0 0] : List Instr).all
      (fun i => Instr.wf .c624 i) = true := by decide +kernel

theorem test_wf_refuses_11 :
    ([.identityReplyTimeout 0 256,
      .identityReread 32 0,
      .identityReread 0 256,
      .creditBlock 32 0,
      .creditBlock 0 65536,
      .upstreamFrame 32 [],
      .modulePoll 8 [],
      .escRoutineStart 7 0 0,
      .escRoutineStart 0 64 0,
      .escRoutineStart 0 0 256,
      .escRoutineExit 7 0 [],
      .escRoutineExit 0 64 []] : List Instr).all
      (fun i => !Instr.wf .c624 i) = true := by decide +kernel

theorem test_wf_takes_11 :
    ([.identityReplyTimeout 0 0,
      .identityReread 0 0,
      .creditBlock 0 0,
      .upstreamFrame 0 [],
      .modulePoll 0 [],
      .escRoutineStart 0 0 0,
      .escRoutineExit 0 0 []] : List Instr).all
      (fun i => Instr.wf .c624 i) = true := by decide +kernel

theorem test_wf_refuses_12 :
    ([.escWaitTimeout 7 0 [],
      .escWaitTimeout 0 64 [],
      .escSafePointExit 7 0 [],
      .escSafePointExit 0 64 [],
      .stopLimitExpiry 7 0,
      .stopLimitExpiry 0 64,
      .microwordParity 7 0,
      .microwordParity 0 64,
      .pgEnableClear 16384,
      .pgEnableSet 16384,
      .pgSoftReset 16384,
      .pgSafeStop 16384] : List Instr).all
      (fun i => !Instr.wf .c624 i) = true := by decide +kernel

theorem test_wf_takes_12 :
    ([.escWaitTimeout 0 0 [],
      .escSafePointExit 0 0 [],
      .stopLimitExpiry 0 0,
      .microwordParity 0 0,
      .pgEnableClear 0,
      .pgEnableSet 0,
      .pgSoftReset 0,
      .pgSafeStop 0] : List Instr).all
      (fun i => Instr.wf .c624 i) = true := by decide +kernel

theorem test_wf_refuses_13 :
    ([.watchdogRestart 8,
      .watchdogHalf 8,
      .watchdogExpire 8,
      .rglReload 8,
      .hostMbxPost 8,
      .lMbxPost 8 0,
      .lMbxPop 8,
      .lRxqCiWrite 8 0,
      .lTxqPiWrite 8 0,
      .txEntrySend 8,
      .frameOverrunStop 8 0 false,
      .frameOverrunStop 0 4 false] : List Instr).all
      (fun i => !Instr.wf .c624 i) = true := by decide +kernel

theorem test_wf_takes_13 :
    ([.watchdogRestart 0,
      .watchdogHalf 0,
      .watchdogExpire 0,
      .rglReload 0,
      .hostMbxPost 0,
      .lMbxPost 0 0,
      .lMbxPop 0,
      .lRxqCiWrite 0 0,
      .lTxqPiWrite 0 0,
      .txEntrySend 0,
      .frameOverrunStop 0 0 false] : List Instr).all
      (fun i => Instr.wf .c624 i) = true := by decide +kernel

theorem test_wf_refuses_14 :
    ([.yield 8 0,
      .yield 0 4,
      .mbxSend 8 0 0 (List.replicate 32 0),
      .mbxSend 0 4 0 (List.replicate 32 0),
      .mbxSend 0 0 17 (List.replicate 32 0),
      .mbxSend 0 0 0 [],
      .mbxRecv 8 0,
      .mbxRecv 0 4,
      .pool 8 0 0 0 0 0,
      .pool 0 4 0 0 0 0,
      .event 8 0 0 [],
      .event 0 4 0 []] : List Instr).all
      (fun i => !Instr.wf .c624 i) = true := by decide +kernel

theorem test_wf_takes_14 :
    ([.yield 0 0,
      .mbxSend 0 0 0 (List.replicate 32 0),
      .mbxRecv 0 0,
      .pool 0 0 0 0 0 0,
      .event 0 0 0 []] : List Instr).all
      (fun i => Instr.wf .c624 i) = true := by decide +kernel

theorem test_wf_refuses_15 :
    ([.event 0 0 65536 [],
      .time 8 0,
      .time 0 4,
      .rxqTake 8 0,
      .rxqTake 0 4,
      .txqPost 8 0 (List.replicate 96 0),
      .txqPost 0 4 (List.replicate 96 0),
      .txqPost 0 0 [],
      .publish 8 0 0 0,
      .publish 0 4 0 0,
      .publish 0 0 256 0,
      .lookup 8 0 0] : List Instr).all
      (fun i => !Instr.wf .c624 i) = true := by decide +kernel

theorem test_wf_takes_15 :
    ([.event 0 0 0 [],
      .time 0 0,
      .rxqTake 0 0,
      .txqPost 0 0 (List.replicate 96 0),
      .publish 0 0 0 0,
      .lookup 0 0 0] : List Instr).all
      (fun i => Instr.wf .c624 i) = true := by decide +kernel

theorem test_wf_refuses_16 :
    ([.lookup 0 4 0,
      .lookup 0 0 256,
      .timer 8 0 0,
      .timer 0 4 0,
      .timerExpire 8 0,
      .timerExpire 0 4,
      .descriptorFetch 16 (List.replicate 64 0) .ok,
      .descriptorFetch 0 [] .ok,
      .dmaCopy 16 [],
      .dmaFill 16,
      .dmaCompare 16 [] [],
      .dmaAccessResponse 16 false 0 0 .ok] : List Instr).all
      (fun i => !Instr.wf .c624 i) = true := by decide +kernel

theorem test_wf_takes_16 :
    ([.lookup 0 0 0,
      .timer 0 0 0,
      .timerExpire 0 0,
      .descriptorFetch 0 (List.replicate 64 0) .ok,
      .dmaCopy 0 [],
      .dmaFill 0,
      .dmaCompare 0 [] [],
      .dmaAccessResponse 0 false 0 0 .ok] : List Instr).all
      (fun i => Instr.wf .c624 i) = true := by decide +kernel

theorem test_wf_refuses_17 :
    ([.dmaChainTimeout 16,
      .dmaGo 16,
      .dmaAbort 16,
      .intSourceEdge 1024 none false,
      .intTimerMatch 8,
      .lIntSwset 8 0,
      .intPendClear 16384 0 0,
      .intPendClear 0 8 0,
      .intEntry 8 0,
      .intEntry 0 4294967296,
      .intMret 8,
      .intHclaimRead 1024] : List Instr).all
      (fun i => !Instr.wf .c624 i) = true := by decide +kernel

theorem test_wf_takes_17 :
    ([.dmaChainTimeout 0,
      .dmaGo 0,
      .dmaAbort 0,
      .intSourceEdge 0 none false,
      .intTimerMatch 0,
      .lIntSwset 0 0,
      .intPendClear 0 0 0,
      .intEntry 0 0,
      .intMret 0,
      .intHclaimRead 0] : List Instr).all
      (fun i => Instr.wf .c624 i) = true := by decide +kernel

theorem test_wf_refuses_18 :
    ([.intHclaimWrite 1024 0,
      .pgErrStickyW1c 16384 0,
      .pgErrEnableWrite 16384 0,
      .pgErrInjectWrite 16384 0,
      .jtagInstruction 256,
      .patrolScrub 17179869184 0 .clean,
      .patrolScrub 0 12 .clean,
      .memTimingWrite 3 0 0,
      .memTimingWrite 0 8 0,
      .domainDrainDone 58,
      .domainDrainTimeout 58,
      .domainWakeDone 58] : List Instr).all
      (fun i => !Instr.wf .c624 i) = true := by decide +kernel

theorem test_wf_takes_18 :
    ([.intHclaimWrite 0 0,
      .pgErrStickyW1c 0 0,
      .pgErrEnableWrite 0 0,
      .pgErrInjectWrite 0 0,
      .jtagInstruction 0,
      .patrolScrub 0 0 .clean,
      .memTimingWrite 0 0 0,
      .domainDrainDone 0,
      .domainDrainTimeout 0,
      .domainWakeDone 0] : List Instr).all
      (fun i => Instr.wf .c624 i) = true := by decide +kernel

theorem test_wf_refuses_19 :
    ([.smbusRead 256,
      .registerWrite (.regulator 8) 0 0,
      .registerWrite .host 67108864 0,
      .lanePllUnlock 32,
      .lanePllRelock 32,
      .i2cTransferDone 256 false,
      .complicationInitTimeout 17592186044416] : List Instr).all
      (fun i => !Instr.wf .c624 i) = true := by decide +kernel

theorem test_wf_takes_19 :
    ([.smbusRead 0,
      .registerWrite .host 0 0,
      .lanePllUnlock 0,
      .lanePllRelock 0,
      .i2cTransferDone 0 false,
      .complicationInitTimeout 0] : List Instr).all
      (fun i => Instr.wf .c624 i) = true := by decide +kernel

/-! ### Worked examples of the spec -/

/-- 09_mezzanine_format.md, companding: 1,500 to 1,262 and back to 1,501; 40,000 to 3,697 and 40,032; 65,535 to 4,095 and 65,504. -/
theorem test_compand : [1500, 40000, 65535].map compand = [1262, 3697, 4095] ∧ [1262, 3697, 4095].map expand = [1501, 40032, 65504] := by decide +kernel

/-- 10_mezzanine_encoding.md: at q = 9 with the reset DEADZONE, -13 becomes -3. -/
theorem test_level_q9 : level (-13) 9 0 0x5555 = -3 := by decide +kernel

/-- 04_stream_decoding.md: load_ms of a 3840x2160 4:2:0 stream at 60 pictures a second is 498. -/
theorem test_load_ms : StreamArgs.load { chroma := 1, maxWidth := 3840, maxHeight := 2160, rateMhz := 60000 } = 498 := by decide +kernel

/-- 04_stream_decoding.md: the same stream with 34 substreams on 4 cores takes (4,976,640 + 9 x 6,000) x 1.25 cycles. -/
theorem test_planning_time :
    State.reset.planTime { chroma := 1, maxWidth := 3840, maxHeight := 2160, rateMhz := 60000, coresMax := 4, substreams := 34, maxKbps := 20000 } = 6288300 := by
  decide +kernel

/-- 02_host_attachment.md: BASE 9 of aperture 1 puts BAR4 offset 0x6_0000_1000 at device address 0x26_0000_1000. -/
theorem test_bar4_aperture : (State.reset.setFld Reg.HST_WIN_BASE_BASE 1 9).bar4Addr 0x600001000 = 0x2600001000 := by decide +kernel

/-- 15_escapements_and_regulators.md: NEXT 0x310 with conditions 9, 14, 0 and 1 selected, 9 true and 14 false, branches to 0x319. -/
theorem test_branch_target :
    Escapement.target {} (BitVec.ofNat 64 (2 ^ 9)) (0x310 * 2 ^ 128 + 9 * 2 ^ 144 + 14 * 2 ^ 150 + 1 * 2 ^ 162) = 0x319 := by decide +kernel

/-- 03_rings_and_jobs.md, meter 17: packets of 1,500,000, 100,000 and 1,000,000 bytes 13,333,333 cycles apart are yellow, green, red. -/
theorem test_meter_colours :
    let m : Meter := { enable := true, cir := 40000, pir := 60000, cbs := 1000000, pebs := 2000000, tc := 1000000 * tokens, tp := 2000000 * tokens }
    let a := m.colour 1500000 0
    let b := a.2.colour 100000 13333333
    let c := b.2.colour 1000000 26666666
    a.1 = 1 ∧ a.2.tp = 500000 * tokens ∧ b.1 = 0 ∧ b.2.tc = 900000 * tokens ∧ c.1 = 2 ∧ c.2.tc / tokens = 983333 := by decide +kernel

/-- 22_electrical_and_package.md: DDR14_DQ3 lies at W67, the TXN ball of lane L40 at B43, the RXN ball of host lane 5 at CJ30. -/
theorem test_balls :
    [ballName 18 67, ballName 2 43, ballName 66 30] = ["W67", "B43", "CJ30"] ∧
    [ballNet 18 67, ballNet 2 43, ballNet 66 30] = [.dram 14 "DQ3", .laneBall 40 1, .hostBall 5 3] := by decide +kernel

/-! ### Single steps -/

/-- The front command runs and leaves the queue; a NOP without a job changes nothing (log 2). -/
theorem test_step_front :
    (match step { State.reset with pending := [.nop 0, .flr] } with
      | .next t => decide (t = { State.reset with pending := [.flr] })
      | _ => false) = true := by decide +kernel

/-- No word spells a command (log 9). -/
theorem test_no_word : decodeTableWord 8 0 = none ∧ State.reset.withFetchWord 8 0 = State.reset := by decide +kernel

/-- R36: a write of WIN_BASE takes bits 3:0 once the host reaches the registers. -/
theorem test_win_base :
    (match step { Wit.cxl with pending := [.winBaseWrite 1 0x19] } with
      | .next t => t.fld Reg.HST_WIN_BASE_BASE 1 == 9 && t.pending.isEmpty
      | _ => false) = true := by decide +kernel

/-- R399: POWER_ON in front of a PERST_N release leaves W0 in progress, with PERST_N released. -/
theorem test_power_on_then_release :
    (match step { State.reset with pending := [.powerOn, .perstNRelease] } with
      | .next t => (match step t with | .next u => u.fld Reg.PWR_WIND_STAGE == 0 && u.hst.perstN && u.pending.isEmpty | _ => false)
      | _ => false) = true := by decide +kernel

/-! ### The commit of a checked calibre image -/

theorem Wit.cal_length : Wit.cal.length = 28984 := by decide +kernel

theorem Wit.cal_reference_write :
    (((Wit.calWrite 28984 0).hostReq .memRead (addrSpace (field ((Wit.calWrite 28984 0).job 5).args 8 8)).2 28984 none).gainReads Wit.cal).badReference
      Wit.cal false = [] := by decide +kernel

/-- An image that passes every check of R142 meets the accepting clause of CalibreWriteChecksAndStages. -/
theorem witness_CalibreWriteChecksAndStages_accepts :
    (Wit.calWrite 28984 0).pwr.clocksStopped = false ∧ (Wit.calWrite 28984 0).canStart 5 0x10 = true ∧
    field ((Wit.calWrite 28984 0).job 5).args 16 4 = Wit.cal.length ∧ Wit.cal.length ≤ 16777216 ∧
    (addrSpace (field ((Wit.calWrite 28984 0).job 5).args 8 8)).1 = false ∧
    (addrSpace (field ((Wit.calWrite 28984 0).job 5).args 8 8)).2 + Wit.cal.length ≤ 9223372036854775808 ∧
    (((Wit.calWrite 28984 0).hostReq .memRead (addrSpace (field ((Wit.calWrite 28984 0).job 5).args 8 8)).2 Wit.cal.length none).gainReads
      Wit.cal).checkImage Wit.cal Wit.cal.length false = none ∧
    bit (field ((Wit.calWrite 28984 0).job 5).args 20 1) 0 = false := by
  rw [Wit.cal_length]
  refine ⟨by decide +kernel, by decide +kernel, by decide +kernel, by decide, by decide +kernel, by decide +kernel, ?_, by decide +kernel⟩
  exact checkImage_none (by decide +kernel) Wit.cal_format Wit.cal_checks Wit.cal_reference_write Wit.cal_beat
end

section
/-! PROOFS. Every command answers, and what acts while the root PLL is lost (00_scope.md R3, 20_winding_clocks_power.md R403). -/

namespace Sys2Proof.Machine

/-- The commands that act while the root PLL is lost: power, resets, rails, straps, temperature, SMBus and the scan port. -/
def actsOnSclk : Instr → Bool
  | .jtagInstruction _ | .perstNAssert | .perstNRelease | .powerOn | .railOutOfRange | .rootPllLoss | .smbusRead _
  | .strapSample _ _ | .thermalSample _ | .windingW0 _ _ _ => true
  | _ => false

theorem State.run_of_clocked {s : State} (h : s.pwr.clocksStopped = false) (f : State → State) : s.run f = .next (f s) := by
  simp [State.run, h]

/-- No command faults or refuses. -/
theorem exec_answers (c : Instr) (s : State) : ∃ t, exec c s = .next t := by
  cases c <;> exact ⟨_, rfl⟩

/-- With the clocks stopped every other command has no effect: it is a `State.run`, whose first branch answers the state itself. -/
theorem exec_of_stopped {c : Instr} (h : actsOnSclk c = false) {s : State} (hs : s.pwr.clocksStopped = true) :
    exec c s = .next s := by
  cases c
  case jtagInstruction => cases h
  case perstNAssert => cases h
  case perstNRelease => cases h
  case powerOn => cases h
  case railOutOfRange => cases h
  case rootPllLoss => cases h
  case smbusRead => cases h
  case strapSample => cases h
  case thermalSample => cases h
  case windingW0 => cases h
  all_goals exact congrArg Host.Outcome.next (if_pos hs)

/-- Settles O4: `exec_answers` gives the next state, `exec_kept` the fuse and the queue, `exec_of_stopped` the loss of the PLL. -/
theorem everyCommandCompletes : Obligations.EveryCommandCompletes := by
  intro c s
  obtain ⟨t, ht⟩ := exec_answers c s
  have kept := (exec_kept c s).keep t ht
  refine ⟨t, ht, kept.variant, kept.pending, fun hs => ?_⟩
  split
  case h_11 =>
    have h : actsOnSclk c = false := by
      unfold actsOnSclk
      split
      case h_11 => rfl
      all_goals simp_all
    exact Host.Outcome.next.inj (ht.symm.trans (exec_of_stopped h hs))
  all_goals trivial

end Sys2Proof.Machine
end

section
/-! PROOFS. The resets, the pins, the straps and the loss of the root PLL (20_winding_clocks_power.md). -/

namespace Sys2Proof.Machine

/-! ### What the operations of winding leave alone -/

/-- `t` is `s` but for its registers. -/
def OnlyRegs (s t : State) : Prop := t = { s with regs := t.regs }

theorem OnlyRegs.refl (s : State) : OnlyRegs s s := rfl

theorem OnlyRegs.setFld {s t : State} (h : OnlyRegs s t) (f : Fld) (i v : Nat) : OnlyRegs s (t.setFld f i v) := by
  unfold OnlyRegs at h ⊢
  rw [h]
  rfl

/-- Taking over the C4 sticky bits is a run of writes of PG_ERR_STICKY: what each of them keeps, all of them keep. -/
theorem keepC4_induction {P : State → Prop} (old : State) {s : State} (hs : P s)
    (step : ∀ t p v, P t → P (t.setFld Reg.PG_ERR_STICKY p v)) : P (s.keepC4 old) :=
  List.foldlRecOn _ _ hs fun _ ht _ _ => List.foldlRecOn _ _ ht fun _ hu _ _ => step _ _ _ hu

theorem State.fld_keepC4 (s old : State) {f : Fld} (i : Nat) (hf : f.id < 1024) (h : f.id ≠ Reg.PG_ERR_STICKY.id) :
    (s.keepC4 old).fld f i = s.fld f i :=
  keepC4_induction (P := fun t => t.fld f i = s.fld f i) old rfl fun t p v ht =>
    (State.fld_setFld_other t v (Ne.symm h) (by decide) hf).trans ht

theorem State.fld_keepFuse (s old : State) {f : Fld} (i : Nat) (hf : f.id < 1024) (h : f.id ≠ Reg.RGL_BOOT_FUSE_SECVER.id) :
    (s.keepFuse old).fld f i = s.fld f i :=
  State.fld_setFld_other s _ (Ne.symm h) (by decide) hf

theorem State.fld_keepFuse_secver (s old : State) : (s.keepFuse old).fld Reg.RGL_BOOT_FUSE_SECVER = old.fuseSec % 65536 :=
  State.fld_setFld s _ _ _

/-- With nothing in the register store, a field reads its reset value. -/
theorem State.fld_of_no_regs {s : State} (h : s.regs = []) (f : Fld) (i : Nat) : s.fld f i = f.resetVal s.variant i := by
  simp [State.fld, h]

theorem State.inStage_eq_false {s : State} {k : Nat} (h : s.fld Reg.PWR_WIND_STAGE ≠ k) : s.inStage k = false := by
  simpa [State.inStage] using h

theorem onlyRegs_showRunning (s : State) : OnlyRegs s s.showRunning := by
  unfold State.showRunning
  split
  · exact (OnlyRegs.refl s).setFld _ _ _
  · exact OnlyRegs.refl s

/-! ### The resets (R400, R408) -/

/-- What is left of the state by POWER_ON, before FUSE_SECVER is taken over. -/
def powerOnBase (s : State) : State :=
  { State.reset with
    variant := s.variant, now := s.now, freeCtr := s.freeCtr, pending := s.pending
    hst := { mem := s.hst.mem }, kst := { s.kst with xfer := none }
    pwr := { windStart := s.now, stageStart := s.now, lastSample := s.now } }

/-- What is left of the state by PERST_N, before FUSE_SECVER and the C4 sticky bits are taken over. -/
def perstBase (s : State) : State :=
  { powerOnBase s with
    flt := { c4 := s.flt.c4, darkArmed := s.flt.darkArmed, dark := s.flt.dark, jtag := jtagActs false s.flt.jtag
             jtagData := jtagCapture s.variant (jtagActs false s.flt.jtag) }
    pwr := { windStart := s.now, stageStart := s.now, lastSample := s.now, clocksStopped := s.pwr.clocksStopped } }

theorem exec_powerOn (s : State) : exec .powerOn s = .next ((powerOnBase s).keepFuse s) := rfl

theorem exec_perstNAssert (s : State) :
    exec .perstNAssert s = .next ((((perstBase s).keepFuse s).keepC4 s).setFld Reg.PWR_WIND_CAUSE 0 1) := rfl

theorem onlyRegs_perstNAssert (s : State) :
    OnlyRegs (perstBase s) ((((perstBase s).keepFuse s).keepC4 s).setFld Reg.PWR_WIND_CAUSE 0 1) :=
  (keepC4_induction s ((OnlyRegs.refl _).setFld _ _ _) fun _ p v h => h.setFld Reg.PG_ERR_STICKY p v).setFld _ _ _

theorem runs_powerOn (s : State) :
    Runs .powerOn s fun t =>
      t = { powerOnBase s with regs := t.regs } ∧
      t.fld Reg.RGL_BOOT_FUSE_SECVER = s.fuseSec % 65536 ∧ t.fld Reg.PWR_WIND_STAGE = 0 ∧
      ∀ (f : Fld) (i : Nat), f.id < 1024 → f.id ≠ Reg.RGL_BOOT_FUSE_SECVER.id → t.fld f i = f.resetVal s.variant i := by
  have others : ∀ (f : Fld) (i : Nat), f.id < 1024 → f.id ≠ Reg.RGL_BOOT_FUSE_SECVER.id →
      ((powerOnBase s).keepFuse s).fld f i = f.resetVal s.variant i := fun f i hf h =>
    (State.fld_keepFuse _ _ i hf h).trans (State.fld_of_no_regs rfl f i)
  exact ⟨_, exec_powerOn s, (OnlyRegs.refl _).setFld _ _ _, State.fld_keepFuse_secver _ _,
    others Reg.PWR_WIND_STAGE 0 (by decide) (by decide), others⟩

theorem runs_perstNAssert (s : State) :
    Runs .perstNAssert s fun t =>
      t = { perstBase s with regs := t.regs } ∧
      t.fld Reg.RGL_BOOT_FUSE_SECVER = s.fuseSec % 65536 ∧ t.fld Reg.PWR_WIND_CAUSE = 1 ∧ t.fld Reg.PWR_WIND_STAGE = 0 ∧
      ∀ (f : Fld) (i : Nat), f.id < 1024 → f.id ≠ Reg.RGL_BOOT_FUSE_SECVER.id → f.id ≠ Reg.PG_ERR_STICKY.id →
        f.id ≠ Reg.PWR_WIND_CAUSE.id → t.fld f i = f.resetVal s.variant i := by
  have fused : ∀ (f : Fld) (i : Nat), f.id < 1024 → f.id ≠ Reg.PG_ERR_STICKY.id → f.id ≠ Reg.PWR_WIND_CAUSE.id →
      ((((perstBase s).keepFuse s).keepC4 s).setFld Reg.PWR_WIND_CAUSE 0 1).fld f i = ((perstBase s).keepFuse s).fld f i :=
    fun f i hf hs hc => (State.fld_setFld_other _ _ (Ne.symm hc) (by decide) hf).trans (State.fld_keepC4 _ _ i hf hs)
  have others : ∀ (f : Fld) (i : Nat), f.id < 1024 → f.id ≠ Reg.RGL_BOOT_FUSE_SECVER.id → f.id ≠ Reg.PG_ERR_STICKY.id →
      f.id ≠ Reg.PWR_WIND_CAUSE.id →
      ((((perstBase s).keepFuse s).keepC4 s).setFld Reg.PWR_WIND_CAUSE 0 1).fld f i = f.resetVal s.variant i :=
    fun f i hf h hs hc => (fused f i hf hs hc).trans
      ((State.fld_keepFuse _ _ i hf h).trans (State.fld_of_no_regs rfl f i))
  exact ⟨_, exec_perstNAssert s, onlyRegs_perstNAssert s,
    (fused _ _ (by decide) (by decide) (by decide)).trans (State.fld_keepFuse_secver _ _), State.fld_setFld _ _ _ _,
    others _ _ (by decide) (by decide) (by decide) (by decide), others⟩

/-! ### Pins, straps and the PLL (R400, R401, R403) -/

theorem runs_perstNRelease (s : State) :
    Runs .perstNRelease s fun t => t.hst = { s.hst with perstN := true } ∧ t = { s with hst := t.hst, regs := t.regs } := by
  have h := onlyRegs_showRunning { s with hst := { s.hst with perstN := true } }
  unfold OnlyRegs at h
  refine ⟨_, rfl, ?_, ?_⟩
  · rw [h]
  · rw [h]

theorem runs_strapSample {s : State} (testMode capWriteN : Bool) (hw : s.fld Reg.PWR_WIND_STAGE ≠ 0)
    (hn : s.pwr.lastSample + Clk.ms ≤ s.now) :
    Runs (.strapSample testMode capWriteN) s fun t =>
      t.pwr = { s.pwr with testMode := testMode, capWriteN := capWriteN, lastSample := s.pwr.lastSample + Clk.ms } ∧
      t.fus.session = (s.fus.session && !capWriteN) ∧ t.flt.testHeld = (s.flt.testHeld && testMode) ∧
      t.flt.unlocked = (s.flt.unlocked && testMode) := by
  have sampled : ¬(s.inStage 0 ∨ s.now < s.pwr.lastSample + Clk.ms) := by
    simpa [State.inStage_eq_false hw] using hn
  refine ⟨_, congrArg Host.Outcome.next (if_neg sampled), ?_⟩
  cases testMode <;> cases capWriteN <;>
    simp [State.setSession, State.endUnlock, State.jtagSet, State.setFld]

theorem runs_railOutOfRange {s : State} (hw : s.fld Reg.PWR_WIND_STAGE ≠ 0) :
    Runs .railOutOfRange s fun t => t = s.latch .pwrRail ∧ t.pwr = s.pwr ∧ t.hst.mem = s.hst.mem := by
  refine ⟨_, congrArg Host.Outcome.next (if_neg (by simp [State.inStage_eq_false hw])), rfl, State.latch_pwr _ _ _, ?_⟩
  rw [State.latch_hst]

theorem runs_rootPllLoss {s : State} (hw : s.fld Reg.PWR_WIND_STAGE ≠ 0) (hc : s.pwr.clocksStopped = false) :
    Runs .rootPllLoss s fun t =>
      t.fld Reg.CLK_STATUS_ROOT_LOCK = 0 ∧ t.pwr = { s.pwr with clocksStopped := true } ∧ t.dec = s.dec ∧ t.rng = s.rng := by
  have locked : ¬(s.inStage 0 ∨ s.pwr.clocksStopped) := by simp [State.inStage_eq_false hw, hc]
  refine ⟨_, congrArg Host.Outcome.next (if_neg locked), ?_, ?_, ?_, ?_⟩
  · exact State.fld_setFld (s.latch .clkRoot) Reg.CLK_STATUS_ROOT_LOCK 0 0
  all_goals simp

/-- Settles O5: one lemma for each command above, `keepFuse` and `keepC4` being all that a reset carries over in registers. -/
theorem resetsPinsStrapsAndClockLoss : Obligations.ResetsPinsStrapsAndClockLoss := by
  refine ⟨fun s => ⟨runs_powerOn s, ?_⟩,
    fun s => ⟨runs_perstNRelease s, fun _ _ => runs_strapSample _ _, runs_railOutOfRange, runs_rootPllLoss⟩⟩
  obtain ⟨t, ht, hbase, hfuse, hcause, hstage, hfields⟩ := runs_perstNAssert s
  have hflt : t.flt = (perstBase s).flt := by rw [hbase]
  exact ⟨t, ht, hflt ▸ hbase, by rw [hflt]; rfl, by rw [hflt]; rfl, by rw [hflt]; rfl, hfuse, hcause, hstage, hfields⟩

end Sys2Proof.Machine
end

section
/-! PROOFS. PG_CTRL.ENABLE of a state whose register store holds more than the field's one bit (21_register_pages.md R418). -/

namespace Sys2Proof.Machine

/-- A wound machine with the link in L0, whose register store lists 2 for the one-bit ENABLE of the first RNG page. No run reaches it,
because every write cuts a value to its field's width, but a statement about every state speaks of it too. -/
def overwideEnable : State :=
  { State.reset with
    regs := [(Reg.PWR_WIND_STAGE.key 0, 15), (Reg.PG_CTRL_ENABLE.key 0x100, 2)]
    hst := { linkUp := true } }

/-- The page counts as enabled, so PG_ENABLE_SET leaves the state as it is. -/
theorem exec_pgEnableSet_overwideEnable : exec (.pgEnableSet 0x100) overwideEnable = .next overwideEnable := by rfl

theorem fld_enable_overwideEnable : overwideEnable.fld Reg.PG_CTRL_ENABLE 0x100 = 2 := by decide

theorem pageOpen_overwideEnable : overwideEnable.pageOpen Blk.rng 0 = true := by decide

theorem pageOwner_overwideEnable : pageOwner overwideEnable.variant 0x100 = some (Blk.rng, 0) := by decide

/-- Refutes O41: the clause that setting ENABLE makes it read 1 has no premise that the field fits its one bit. In `overwideEnable` it
reads 2, which counts as enabled, and PG_ENABLE_SET of an enabled page changes nothing, so that it goes on reading 2. -/
theorem not_pagesEnableResetAndStop : ¬ Obligations.PagesEnableResetAndStop := by
  intro h
  obtain ⟨onPage, -⟩ := h overwideEnable 0x100 Blk.rng 0 rfl
  obtain ⟨enable, -⟩ := onPage pageOwner_overwideEnable pageOpen_overwideEnable
  obtain ⟨-, t, ht, hread⟩ := enable rfl
  have same : overwideEnable = t := Host.Outcome.next.inj (exec_pgEnableSet_overwideEnable.symm.trans ht)
  rw [← same, fld_enable_overwideEnable] at hread
  exact absurd hread (by decide)

end Sys2Proof.Machine
end

section
/-! PROOFS. A host write to a plain register word: the fields of a word, one lane, one field, the whole word, and the way to it from
the command (00_scope.md R5, R20; 21_register_pages.md R422). -/

namespace Sys2Proof.Machine

/-! ### Block types and the register tables -/

theorem blockType_facts : ∀ b ∈ blockTypes, 1 ≤ b.code ∧ b.code < 28 ∧ firstPage b.code = b.first := by decide

/-- The owner of a page is of a block type of Table 21.2, and the page is the owner's own. -/
theorem pageOwner_some {v : Variant} {p blk inst : Nat} (h : pageOwner v p = some (blk, inst)) :
    1 ≤ blk ∧ blk < 28 ∧ pageOf blk inst = p := by
  obtain ⟨b, hb, he⟩ := Option.map_eq_some_iff.1 h
  obtain ⟨hlo, hhi, hfirst⟩ := blockType_facts b (List.mem_of_find?_eq_some hb)
  have hrange := List.find?_some hb
  simp only [Bool.and_eq_true, decide_eq_true_eq] at hrange
  cases he
  exact ⟨hlo, hhi, by unfold pageOf; omega⟩

/-- The number of a field names it among the fields of a page and its header. -/
theorem fieldIds_nodup : ∀ t < 28, 1 ≤ t → ((Reg.ofPage 0 ++ Reg.ofPage t).map Fld.id).Nodup := by decide +kernel

theorem fieldIds_lt : ∀ t < 28, ∀ f ∈ Reg.ofPage 0 ++ Reg.ofPage t, f.id < 1024 := by decide +kernel

/-- The only RW field that a latch may write is the injection count of the header. -/
theorem rw_latchField : ∀ t < 28, ∀ f ∈ Reg.ofPage 0 ++ Reg.ofPage t, f.access = .rw → f.id ∈ latchFields →
    f = Reg.PG_ERR_INJECT_COUNT := by decide +kernel

/-! ### The fields of a word -/

theorem mem_wordFields {s : State} {blk inst off : Nat} {e : Fld × Nat} (h : e ∈ s.wordFields blk inst off) :
    e.1 ∈ Reg.ofPage 0 ++ Reg.ofPage blk ∧ e.1.row off = some e.2 := by
  unfold State.wordFields at h
  split at h
  · cases h
  · obtain ⟨f, hf, hrow⟩ := List.mem_filterMap.1 (List.mem_filter.1 h).1
    split at hrow
    · obtain ⟨r, hr, rfl⟩ := Option.map_eq_some_iff.1 hrow
      exact ⟨hf, hr⟩
    · cases hrow

/-- Two fields of a word with one number are one field, of one register. -/
theorem wordFields_eq_of_id {s : State} {blk inst off : Nat} (hlo : 1 ≤ blk) (hhi : blk < 28) {d e : Fld × Nat}
    (hd : d ∈ s.wordFields blk inst off) (he : e ∈ s.wordFields blk inst off) (h : d.1.id = e.1.id) : d = e := by
  obtain ⟨hdPage, hdRow⟩ := mem_wordFields hd
  obtain ⟨hePage, heRow⟩ := mem_wordFields he
  have hfld : d.1 = e.1 := List.inj_on_of_nodup_map (fieldIds_nodup blk hhi hlo) hdPage hePage h
  exact Prod.ext hfld (Option.some.inj (hdRow.symm.trans (hfld ▸ heRow)))

theorem wordFields_id_lt {s : State} {blk inst off : Nat} (hhi : blk < 28) {e : Fld × Nat}
    (he : e ∈ s.wordFields blk inst off) : e.1.id < 1024 :=
  fieldIds_lt blk hhi _ (mem_wordFields he).1

/-- A field of a single register takes the words of that register only. -/
theorem Fld.row_of_single {f : Fld} {off r : Nat} (hs : f.stride = 0) (h : f.row off = some r) :
    f.off ≤ off ∧ off < f.off + f.bytes := by
  unfold Fld.row at h
  rw [if_pos hs] at h
  split at h
  · cases h
  · next hlo =>
    split at h
    · next hhi => exact ⟨Nat.le_of_not_lt hlo, hhi⟩
    · cases h

/-- A word of an existing page that has no action of its own for the written value. -/
structure PlainWord (blk inst off x : Nat) : Prop where
  lo : 1 ≤ blk
  hi : blk < 28
  aligned : off % 4 = 0
  plain : (regAct blk inst off x).isNone = true

/-- No RW field of a plain word is one that a latch may write: the word of the injection count has an action. -/
theorem PlainWord.not_latchField {s : State} {blk inst off x : Nat} (hp : PlainWord blk inst off x) {e : Fld × Nat}
    (he : e ∈ s.wordFields blk inst off) (hrw : e.1.access = .rw) : e.1.id ∉ latchFields := by
  intro hl
  obtain ⟨hpage, hrow⟩ := mem_wordFields he
  have hcount := rw_latchField blk hp.hi _ hpage hrw hl
  have hrange : 0x01C ≤ off ∧ off < 0x01C + 4 := Fld.row_of_single rfl (hcount ▸ hrow)
  have hoff : off = 0x01C := by
    have := hp.aligned
    omega
  subst hoff
  cases hp.plain

/-! ### One lane -/

/-- Lane `l` of a field of the word has taken its bits of the written value, within its limits (R20). -/
def LaneTaken (v : Variant) (blk inst x : Nat) (e : Fld × Nat) (l : Nat) (t : State) : Prop :=
  t.fld e.1 (e.1.index blk inst e.2 l) = e.1.bounded v (e.1.written l x) % 2 ^ e.1.width

@[simp] theorem State.putLane_variant (s : State) (blk inst x : Nat) (f : Fld) (r l : Nat) :
    (s.putLane blk inst x f r l).variant = s.variant := by
  unfold State.putLane
  dsimp only
  split <;> simp

theorem State.fld_clampHit (s : State) (blk inst : Nat) {f : Fld} (j : Nat) (hf : f.id < 1024) (hl : f.id ∉ latchFields) :
    (s.clampHit blk inst).fld f j = s.fld f j :=
  State.fld_latch s _ _ hf hl

/-- A lane's write changes what another register reads only through its own key. -/
theorem State.fld_putLane (s : State) (blk inst x : Nat) (f : Fld) (r l : Nat) {g : Fld} {j : Nat} (hg : g.id < 1024)
    (hl : g.id ∉ latchFields) :
    (s.putLane blk inst x f r l).fld g j =
      (s.setFld f (f.index blk inst r l) (f.bounded s.variant (f.written l x))).fld g j := by
  unfold State.putLane
  dsimp only
  split
  · rfl
  · exact State.fld_clampHit _ _ _ _ hg hl

theorem laneTaken_putLane (s : State) (blk inst x : Nat) {e : Fld × Nat} (l : Nat) (he : e.1.id < 1024)
    (hl : e.1.id ∉ latchFields) : LaneTaken s.variant blk inst x e l (s.putLane blk inst x e.1 e.2 l) :=
  (State.fld_putLane s _ _ _ _ _ _ he hl).trans (State.fld_setFld _ _ _ _)

/-- A lane that has taken its bits keeps them through the write of another field's lane, or of another lane of its own. -/
theorem LaneTaken.putLane_other {s : State} {v : Variant} {blk inst x : Nat} {d e : Fld × Nat} {k l : Nat} (he : e.1.id < 1024)
    (hl : e.1.id ∉ latchFields) (hkey : d.1.key (d.1.index blk inst d.2 k) ≠ e.1.key (e.1.index blk inst e.2 l))
    (h : LaneTaken v blk inst x e l s) : LaneTaken v blk inst x e l (s.putLane blk inst x d.1 d.2 k) :=
  ((State.fld_putLane s _ _ _ _ _ _ he hl).trans (State.fld_setFld_key _ _ hkey)).trans h

theorem key_ne_of_id_ne {f g : Fld} {i j : Nat} (hf : f.id < 1024) (hg : g.id < 1024) (h : f.id ≠ g.id) : f.key i ≠ g.key j := by
  unfold Fld.key
  omega

theorem key_ne_of_lane_ne {f : Fld} {blk inst r k l : Nat} (h : k ≠ l) :
    f.key (f.index blk inst r k) ≠ f.key (f.index blk inst r l) := by
  unfold Fld.key Fld.index
  omega

/-! ### Folds that bring something about -/

/-- A fold whose step at `a` brings `P` about, and no step of which takes `P` away again, ends with `P`. `I` holds throughout. -/
theorem foldl_establishes {α : Type} {I P : State → Prop} {f : State → α → State} {xs : List α} {a : α} (ha : a ∈ xs) {s : State}
    (hs : I s) (hI : ∀ t, I t → ∀ b ∈ xs, I (f t b)) (hset : ∀ t, I t → P (f t a))
    (hkeep : ∀ t, I t → P t → ∀ b ∈ xs, P (f t b)) : P (xs.foldl f s) := by
  obtain ⟨ys, zs, rfl⟩ := List.append_of_mem ha
  rw [List.foldl_append, List.foldl_cons]
  have before : I (ys.foldl f s) :=
    List.foldlRecOn _ _ hs fun t ht b hb => hI t ht b (List.mem_append_left _ hb)
  exact (List.foldlRecOn (motive := fun t => I t ∧ P t) zs f ⟨hI _ before a ha, hset _ before⟩ fun t ht b hb =>
    have hb' : b ∈ ys ++ a :: zs := List.mem_append_right _ (List.mem_cons_of_mem _ hb)
    ⟨hI t ht.1 b hb', hkeep t ht.1 ht.2 b hb'⟩).2

/-! ### One field -/

/-- A field that takes what is written to its word: RW, in the register store. -/
def takesWrite (e : Fld × Nat) : Prop := e.1.access = .rw ∧ e.1.home = .store

/-- What every lane's write keeps, a field's write keeps. -/
theorem putField_induction {P : State → Prop} {blk inst x : Nat} {e : Fld × Nat}
    (step : takesWrite e → ∀ t, P t → ∀ l < e.1.per, P (t.putLane blk inst x e.1 e.2 l)) {s : State} (hs : P s) :
    P (s.putField blk inst x e) := by
  unfold State.putField
  split
  · next h => exact List.foldlRecOn _ _ hs fun t ht l hl => step h t ht l (List.mem_range.1 hl)
  · exact hs

/-- What the write of one of its lanes brings about, and no other lane's takes away, a field's write brings about. -/
theorem putField_establishes {I P : State → Prop} {blk inst x : Nat} {e : Fld × Nat} (he : takesWrite e) {l : Nat} (hl : l < e.1.per)
    (hI : ∀ t, I t → ∀ k, I (t.putLane blk inst x e.1 e.2 k)) (hset : ∀ t, I t → P (t.putLane blk inst x e.1 e.2 l))
    (hkeep : ∀ t, I t → P t → ∀ k, P (t.putLane blk inst x e.1 e.2 k)) {s : State} (hs : I s) : P (s.putField blk inst x e) := by
  unfold State.putField
  rw [if_pos (show e.1.access = .rw ∧ e.1.home = .store from he)]
  exact foldl_establishes (List.mem_range.2 hl) hs (fun t ht k _ => hI t ht k) hset fun t ht hp k _ => hkeep t ht hp k

theorem State.putField_variant (s : State) (blk inst x : Nat) (e : Fld × Nat) : (s.putField blk inst x e).variant = s.variant :=
  putField_induction (P := fun t => t.variant = s.variant) (fun _ _ ht _ _ => (State.putLane_variant ..).trans ht) rfl

/-! ### The whole word, where every identifier is one of the variant's -/

/-- The write of every field of a word, in order. -/
def State.putFields (s : State) (blk inst x : Nat) (fs : List (Fld × Nat)) : State :=
  fs.foldl (fun t e => t.putField blk inst x e) s

/-- An identifier of the word lies beyond the variant (R5). -/
def beyondVariant (s : State) (blk inst off x : Nat) : Bool :=
  ((s.wordFields blk inst off).any fun e => e.1.access == .rw && e.1.beyond s.variant x) || selBeyond s.variant blk off x

theorem State.putWord_eq (s : State) (blk inst off x : Nat) :
    s.putWord blk inst off x =
      if beyondVariant s blk inst off x then s.badId blk inst else s.putFields blk inst x (s.wordFields blk inst off) := rfl

theorem beyondVariant_eq_true_iff {s : State} {blk inst off x : Nat} :
    beyondVariant s blk inst off x = true ↔
      (∃ e ∈ s.wordFields blk inst off, e.1.access = .rw ∧ e.1.beyond s.variant x = true) ∨ selBeyond s.variant blk off x = true := by
  simp [beyondVariant]

theorem beyondVariant_eq_false {s : State} {blk inst off x : Nat}
    (h : ∀ e ∈ s.wordFields blk inst off, e.1.access = .rw → e.1.beyond s.variant x = false)
    (hsel : selBeyond s.variant blk off x = false) : beyondVariant s blk inst off x = false := by
  rw [Bool.eq_false_iff]
  intro hb
  rcases beyondVariant_eq_true_iff.1 hb with ⟨e, he, hrw, hbey⟩ | hsel'
  · rw [h e he hrw] at hbey
    cases hbey
  · rw [hsel] at hsel'
    cases hsel'

/-- What every lane's write keeps, the word's write keeps. -/
theorem putFields_induction {P : State → Prop} {blk inst x : Nat} {fs : List (Fld × Nat)}
    (step : ∀ e ∈ fs, takesWrite e → ∀ t, P t → ∀ l < e.1.per, P (t.putLane blk inst x e.1 e.2 l)) {s : State} (hs : P s) :
    P (s.putFields blk inst x fs) :=
  List.foldlRecOn _ _ hs fun _ ht e he => putField_induction (step e he) ht

/-- What the write of one lane brings about, and no lane's takes away, the word's write brings about. -/
theorem putFields_establishes {P : State → Prop} {s : State} {blk inst x : Nat} {fs : List (Fld × Nat)} {e : Fld × Nat} (he : e ∈ fs)
    (hw : takesWrite e) {l : Nat} (hl : l < e.1.per)
    (hset : ∀ t : State, t.variant = s.variant → P (t.putLane blk inst x e.1 e.2 l))
    (hkeep : ∀ t : State, t.variant = s.variant → P t → ∀ d ∈ fs, takesWrite d → ∀ k, P (t.putLane blk inst x d.1 d.2 k)) :
    P (s.putFields blk inst x fs) := by
  refine foldl_establishes (I := fun t => t.variant = s.variant) he rfl
    (fun t ht d _ => (State.putField_variant ..).trans ht) (fun t ht => ?_) (fun t ht hp d hd => ?_)
  · exact putField_establishes (I := fun t => t.variant = s.variant) hw hl (fun u hu k => (State.putLane_variant ..).trans hu) hset
      (fun u hu hp k => hkeep u hu hp e he hw k) ht
  · exact (putField_induction (P := fun u => u.variant = s.variant ∧ P u)
      (fun hdw u hu k _ => ⟨(State.putLane_variant ..).trans hu.1, hkeep u hu.1 hu.2 d hd hdw k⟩) ⟨ht, hp⟩).2

/-- Every lane of every field of a plain word reads what was written to it, within its limits. -/
theorem laneTaken_putFields {s w : State} {blk inst off x : Nat} (hp : PlainWord blk inst off x) {e : Fld × Nat}
    (he : e ∈ w.wordFields blk inst off) (hw : takesWrite e) {l : Nat} (hl : l < e.1.per) :
    LaneTaken s.variant blk inst x e l (s.putFields blk inst x (w.wordFields blk inst off)) := by
  have hid := wordFields_id_lt hp.hi he
  have hlatch := hp.not_latchField he hw.1
  refine putFields_establishes he hw hl (fun t ht => ht ▸ laneTaken_putLane t _ _ _ _ hid hlatch) fun t ht taken d hd hdw k => ?_
  by_cases hsame : d.1.id = e.1.id
  · obtain rfl := wordFields_eq_of_id hp.lo hp.hi hd he hsame
    by_cases hlane : k = l
    · subst hlane
      exact ht ▸ laneTaken_putLane t _ _ _ _ hid hlatch
    · exact taken.putLane_other hid hlatch (key_ne_of_lane_ne hlane)
  · exact taken.putLane_other hid hlatch (key_ne_of_id_ne (wordFields_id_lt hp.hi hd) hid hsame)

/-- Where every value lies within its limits, only registers change. -/
theorem onlyRegs_putFields {s : State} {blk inst x : Nat} {fs : List (Fld × Nat)}
    (h : ∀ e ∈ fs, takesWrite e → ∀ l < e.1.per, e.1.bounded s.variant (e.1.written l x) = e.1.written l x) :
    OnlyRegs s (s.putFields blk inst x fs) := by
  refine (putFields_induction (P := fun t => t.variant = s.variant ∧ OnlyRegs s t) (fun e he hw t ht l hl => ?_) ⟨rfl, rfl⟩).2
  have hset : t.putLane blk inst x e.1 e.2 l = t.setFld e.1 (e.1.index blk inst e.2 l) (e.1.written l x) := by
    unfold State.putLane
    simp [ht.1, h e he hw l hl]
  exact ⟨(State.putLane_variant ..).trans ht.1, hset ▸ ht.2.setFld _ _ _⟩

theorem stuck_putLane {s : State} {p b : Nat} (h : s.stuck p b) (hb : b < 32) (blk inst x : Nat) {f : Fld} (hf : f.id < 1024)
    (hl : f.id ∉ latchFields) (r l : Nat) : (s.putLane blk inst x f r l).stuck p b := by
  have hset := stuck_setFld h f (f.index blk inst r l) (f.bounded s.variant (f.written l x)) hf
    (fun e => hl (e ▸ List.mem_cons_self))
  unfold State.putLane
  dsimp only
  split
  · exact hset
  · exact State.stuck_latch hset hb _ _

/-- A sticky bit stays set through the write of a plain word. -/
theorem stuck_putFields {s w : State} {p b blk inst off x : Nat} (hp : PlainWord blk inst off x) (h : s.stuck p b) (hb : b < 32) :
    (s.putFields blk inst x (w.wordFields blk inst off)).stuck p b :=
  putFields_induction (P := fun t => t.stuck p b) (fun _ he hw _ ht l _ =>
    stuck_putLane ht hb _ _ _ (wordFields_id_lt hp.hi he) (hp.not_latchField he hw.1) _ l) h

/-- A value outside its limits latches CLAMP (R20). -/
theorem clamp_putFields {s w : State} {blk inst off x : Nat} (hp : PlainWord blk inst off x) {e : Fld × Nat}
    (he : e ∈ w.wordFields blk inst off) (hw : takesWrite e) {l : Nat} (hl : l < e.1.per)
    (hout : e.1.bounded s.variant (e.1.written l x) ≠ e.1.written l x) :
    (s.putFields blk inst x (w.wordFields blk inst off)).latched (.clamp blk) inst = true := by
  refine putFields_establishes (P := fun t => t.stuck (pageOf blk inst) 1) he hw hl (fun t ht => ?_) fun t _ hstuck d hd hdw k =>
    stuck_putLane hstuck (by decide) _ _ _ (wordFields_id_lt hp.hi hd) (hp.not_latchField hd hdw.1) _ _
  unfold State.putLane
  rw [ht]
  simp only [if_neg (Ne.symm hout)]
  exact State.latched_latch _ (.clamp blk) inst (show 1 < 32 by decide)

/-! ### Reserved bits, and the write of a word that exists -/

theorem State.rsvCheck_of_zero {s : State} {blk inst x : Nat} {fs : List (Fld × Nat)} (h : x &&& (4294967295 - coverOf fs) = 0) :
    s.rsvCheck blk inst x fs = s :=
  if_pos h

theorem State.rsvCheck_of_ne_zero {s : State} {blk inst x : Nat} {fs : List (Fld × Nat)} (h : x &&& (4294967295 - coverOf fs) ≠ 0) :
    s.rsvCheck blk inst x fs = s.latch (.rsvWrite blk) inst :=
  if_neg h

@[simp] theorem State.rsvCheck_variant (s : State) (blk inst x : Nat) (fs : List (Fld × Nat)) :
    (s.rsvCheck blk inst x fs).variant = s.variant := by
  unfold State.rsvCheck
  split <;> simp

theorem State.fld_rsvCheck (s : State) (blk inst x : Nat) (fs : List (Fld × Nat)) {f : Fld} (j : Nat) (hf : f.id < 1024)
    (hl : f.id ∉ latchFields) : (s.rsvCheck blk inst x fs).fld f j = s.fld f j := by
  unfold State.rsvCheck
  split
  · rfl
  · exact State.fld_latch s _ _ hf hl

theorem State.wordFields_congr {s t : State} (h : t.variant = s.variant) (blk inst off : Nat) :
    t.wordFields blk inst off = s.wordFields blk inst off := by
  unfold State.wordFields
  rw [h]

theorem beyondVariant_congr {s t : State} (h : t.variant = s.variant) (blk inst off x : Nat) :
    beyondVariant t blk inst off x = beyondVariant s blk inst off x := by
  unfold beyondVariant
  rw [State.wordFields_congr h, h]

/-- With no injection armed in the page, no check of a source of the page takes one. -/
theorem State.takeInject_eq_none {s : State} {src : Src} {inst : Nat} (h : s.fld Reg.PG_ERR_INJECT_COUNT (pageOf src.blk inst) = 0) :
    s.takeInject src inst = none := by
  simp [State.takeInject, h]

theorem State.underParity_of_disarmed {s : State} {blk inst : Nat} (h : s.fld Reg.PG_ERR_INJECT_COUNT (pageOf blk inst) = 0)
    (f : State → State) : s.underParity blk inst f = f s := by
  have hnone : s.takeInject (.regParity blk) inst = none := State.takeInject_eq_none h
  unfold State.underParity
  rw [hnone]

theorem State.wordWrite_plain {s : State} {blk inst off x : Nat} (hp : PlainWord blk inst off x)
    (hfs : s.wordFields blk inst off ≠ []) (hinj : s.fld Reg.PG_ERR_INJECT_COUNT (pageOf blk inst) = 0) :
    s.wordWrite blk inst off x = (s.rsvCheck blk inst x (s.wordFields blk inst off)).putWord blk inst off x := by
  have hact : regAct blk inst off x = none := Option.isNone_iff_eq_none.1 hp.plain
  unfold State.wordWrite
  dsimp only
  rw [State.underParity_of_disarmed hinj, if_neg (by simpa using hfs), hact]

/-! ### From the command to the word -/

theorem exec_hostWrite {s : State} (hc : s.pwr.clocksStopped = false) (a : Nat) (v : Word) :
    exec (.registerWrite .host a v) s = .next (s.hostRegWrite a v.toNat) :=
  State.run_of_clocked hc fun s => s.hostRegWrite a v.toNat

theorem State.hostRegWrite_unreached {s : State} (h : s.hostReaches = false) (a x : Nat) : s.hostRegWrite a x = s := by
  simp [State.hostRegWrite, h]

/-- The offsets of register pages below 16368 lie in BAR0 in front of the MSI-X pages. -/
theorem State.hostRegWrite_misaligned {s : State} (h : s.hostReaches = true) {p off : Nat} (hp : p < 16368) (hoff : off < 4096)
    (hal : off % 4 ≠ 0) (x : Nat) : s.hostRegWrite (p * 4096 + off) x = s.latch .hstAccess := by
  unfold State.hostRegWrite
  rw [if_neg (by simp [h]; omega), if_pos (by omega)]

theorem State.hostRegWrite_page {s : State} (h : s.hostReaches = true) {p off : Nat} (hp : p < 16368) (hoff : off < 4096)
    (hal : off % 4 = 0) (x : Nat) : s.hostRegWrite (p * 4096 + off) x = s.pageWrite p off x := by
  have hpage : (p * 4096 + off) / 4096 = p := by omega
  have hword : (p * 4096 + off) % 4096 = off := by omega
  unfold State.hostRegWrite State.bar0Write
  rw [if_neg (by simp [h]; omega), if_neg (by omega), if_pos (by omega), hpage, hword]

theorem State.pageWrite_absent {s : State} {p : Nat} (h : pageOwner s.variant p = none) (hp : p < 16368) (off x : Nat) :
    s.pageWrite p off x = s.latch (.rsvWrite Blk.sys) := by
  unfold State.pageWrite State.absentPage
  rw [h]
  exact if_neg (by omega)

theorem State.pageWrite_word {s : State} {p blk inst : Nat} (h : pageOwner s.variant p = some (blk, inst)) (hflt : blk ≠ Blk.flt)
    (off x : Nat) : s.pageWrite p off x = s.wordWrite blk inst off x := by
  unfold State.pageWrite State.disarm
  rw [h]
  simp only [hflt, false_and, if_false]

/-! ### The clauses of a write to a plain word -/

section
variable {s : State} {blk inst off x : Nat} (hp : PlainWord blk inst off x)

/-- The state after the check of the reserved bits and the write of the word. -/
def plainWrite (s : State) (blk inst off x : Nat) : State :=
  (s.rsvCheck blk inst x (s.wordFields blk inst off)).putWord blk inst off x

theorem plainWrite_eq_putFields (h : beyondVariant s blk inst off x = false) :
    plainWrite s blk inst off x =
      (s.rsvCheck blk inst x (s.wordFields blk inst off)).putFields blk inst x (s.wordFields blk inst off) := by
  have hv := State.rsvCheck_variant s blk inst x (s.wordFields blk inst off)
  unfold plainWrite
  rw [State.putWord_eq, beyondVariant_congr hv, h, State.wordFields_congr hv]
  rfl

theorem plainWrite_eq_badId (h : beyondVariant s blk inst off x = true) :
    plainWrite s blk inst off x = (s.rsvCheck blk inst x (s.wordFields blk inst off)).badId blk inst := by
  unfold plainWrite
  rw [State.putWord_eq, beyondVariant_congr (State.rsvCheck_variant ..), h]
  rfl

include hp

theorem laneTaken_plainWrite (h : beyondVariant s blk inst off x = false) {e : Fld × Nat} (he : e ∈ s.wordFields blk inst off)
    (hw : takesWrite e) {l : Nat} (hl : l < e.1.per) : LaneTaken s.variant blk inst x e l (plainWrite s blk inst off x) := by
  have taken := laneTaken_putFields (s := s.rsvCheck blk inst x (s.wordFields blk inst off)) hp he hw hl
  rw [State.rsvCheck_variant] at taken
  exact plainWrite_eq_putFields h ▸ taken

theorem clamp_plainWrite (h : beyondVariant s blk inst off x = false) {e : Fld × Nat} (he : e ∈ s.wordFields blk inst off)
    (hw : takesWrite e) {l : Nat} (hl : l < e.1.per) (hout : e.1.bounded s.variant (e.1.written l x) ≠ e.1.written l x) :
    (plainWrite s blk inst off x).latched (.clamp blk) inst = true :=
  plainWrite_eq_putFields h ▸ clamp_putFields hp he hw hl (by rwa [State.rsvCheck_variant])

omit hp in
theorem onlyRegs_plainWrite (h : beyondVariant s blk inst off x = false)
    (hin : ∀ e ∈ s.wordFields blk inst off, takesWrite e → ∀ l < e.1.per,
      e.1.bounded s.variant (e.1.written l x) = e.1.written l x)
    (hrsv : x &&& (4294967295 - coverOf (s.wordFields blk inst off)) = 0) : OnlyRegs s (plainWrite s blk inst off x) := by
  rw [plainWrite_eq_putFields h, State.rsvCheck_of_zero hrsv]
  exact onlyRegs_putFields hin

omit hp in
theorem badId_plainWrite (h : beyondVariant s blk inst off x = true) :
    (plainWrite s blk inst off x).latched (.badId blk) inst = true := by
  rw [plainWrite_eq_badId h]
  exact State.latched_latch _ (.badId blk) inst (show 0 < 32 by decide)

/-- An identifier beyond the variant leaves every RW field of the word as it was (R5). -/
theorem fld_plainWrite_of_beyond (h : beyondVariant s blk inst off x = true) {e : Fld × Nat} (he : e ∈ s.wordFields blk inst off)
    (hrw : e.1.access = .rw) (j : Nat) : (plainWrite s blk inst off x).fld e.1 j = s.fld e.1 j := by
  have hid := wordFields_id_lt hp.hi he
  have hlatch := hp.not_latchField he hrw
  rw [plainWrite_eq_badId h]
  exact (State.fld_latch _ (.badId blk) inst hid hlatch).trans (State.fld_rsvCheck s blk inst x _ j hid hlatch)

theorem rsvWrite_plainWrite (hrsv : x &&& (4294967295 - coverOf (s.wordFields blk inst off)) ≠ 0) :
    (plainWrite s blk inst off x).latched (.rsvWrite blk) inst = true := by
  have latched : (s.latch (.rsvWrite blk) inst).stuck (pageOf blk inst) 2 :=
    State.latched_latch s (.rsvWrite blk) inst (show 2 < 32 by decide)
  cases h : beyondVariant s blk inst off x with
  | false =>
    rw [plainWrite_eq_putFields h, State.rsvCheck_of_ne_zero hrsv]
    exact stuck_putFields hp latched (show 2 < 32 by decide)
  | true =>
    rw [plainWrite_eq_badId h, State.rsvCheck_of_ne_zero hrsv]
    exact State.stuck_latch latched (show 2 < 32 by decide) _ _

end

/-- A host write to a plain word of an existing page, with no injection armed there, is `plainWrite`. -/
theorem exec_plainWrite {s : State} {p off blk inst : Nat} {v : Word} (hc : s.pwr.clocksStopped = false) (hp : p < 16368)
    (hoff : off < 4096) (hr : s.hostReaches = true) (hown : pageOwner s.variant p = some (blk, inst)) (hflt : blk ≠ Blk.flt)
    (hplain : PlainWord blk inst off v.toNat) (hfs : s.wordFields blk inst off ≠ []) (hinj : s.fld Reg.PG_ERR_INJECT_COUNT p = 0) :
    exec (.registerWrite .host (p * 4096 + off) v) s = .next (plainWrite s blk inst off v.toNat) := by
  obtain ⟨-, -, hpage⟩ := pageOwner_some hown
  rw [exec_hostWrite hc, State.hostRegWrite_page hr hp hoff hplain.aligned, State.pageWrite_word hown hflt,
    State.wordWrite_plain hplain hfs (hpage ▸ hinj)]
  rfl

/-- Settles O55: outside the plain words by the way to the word, in a plain word by the clauses of `plainWrite`. -/
theorem registerWritesTakeTheirBits : Obligations.RegisterWritesTakeTheirBits := by
  intro s p off v hc hp hoff
  refine ⟨fun hr => ⟨s, ?_, rfl⟩, fun hr hal => ⟨_, ?_, rfl, State.latched_latch s .hstAccess 0 (by decide)⟩,
    fun hr hal hown => ⟨_, ?_, State.latched_latch s (.rsvWrite Blk.sys) 0 (by decide)⟩,
    fun blk inst hr hal hown hflt hact hfs hinj => ?_⟩
  · rw [exec_hostWrite hc, State.hostRegWrite_unreached hr]
  · rw [exec_hostWrite hc, State.hostRegWrite_misaligned hr hp hoff hal]
  · rw [exec_hostWrite hc, State.hostRegWrite_page hr hp hoff hal, State.pageWrite_absent hown hp]
  obtain ⟨hlo, hhi, -⟩ := pageOwner_some hown
  have hplain : PlainWord blk inst off v.toNat := ⟨hlo, hhi, hal, hact⟩
  have runs := exec_plainWrite hc hp hoff hr hown hflt hplain hfs hinj
  refine ⟨fun hid hsel => ⟨_, runs, ?_⟩, fun hbeyond => ⟨_, runs, ?_⟩, fun hrsv => ⟨_, runs, rsvWrite_plainWrite hplain hrsv⟩⟩
  · have h := beyondVariant_eq_false hid hsel
    exact ⟨fun e he hrw hst l hl => laneTaken_plainWrite hplain h he ⟨hrw, hst⟩ hl,
      fun hin => onlyRegs_plainWrite h fun e he hw l hl => hin e he hw.1 hw.2 l hl,
      fun e he hrw hst l hl => clamp_plainWrite hplain h he ⟨hrw, hst⟩ hl⟩
  · have h := beyondVariant_eq_true_iff.2 hbeyond
    exact ⟨badId_plainWrite h, fun e he hrw l _ => fld_plainWrite_of_beyond hplain h he hrw _⟩

end Sys2Proof.Machine
end

section
/-! PROOFS. What a record, an event, a check of an armed inversion and the end of a job leave alone in the registers: whatever a latch
leaves alone there. -/

namespace Sys2Proof.Machine

/-- `P` speaks of the variant and the registers only, and outlasts an armed inversion that is taken (R372) and a latch. -/
structure OutlastsLatch (P : State → Prop) : Prop where
  regs : ∀ {s t : State}, t.variant = s.variant → t.regs = s.regs → P s → P t
  inject : ∀ {s : State} (p v : Nat), P s → P (s.setFld Reg.PG_ERR_INJECT_COUNT p v)
  latch : ∀ {s : State} (src : Src) (i : Nat), P s → P (s.latch src i)

theorem outlastsLatch_sameFld (s : State) : OutlastsLatch (SameFld s) where
  regs hv hr h := h.trans (.of_regs hv hr)
  inject _ _ h := h.setFld _ _ (by decide)
  latch _ _ h := h.trans (State.latch_sameFld ..)

theorem outlastsLatch_stuck (p : Nat) {b : Nat} (hb : b < 32) : OutlastsLatch (State.stuck · p b) where
  regs hv hr h := stuck_of_regs hv hr h
  inject _ _ h := stuck_setFld h _ _ _ (by decide) (by decide)
  latch src i h := State.stuck_latch h hb src i

/-- An armed inversion that is taken counts the injection down. -/
theorem State.takeInject_some {s t : State} {src : Src} {i : Nat} (h : s.takeInject src i = some t) :
    t = s.setFld Reg.PG_ERR_INJECT_COUNT (pageOf src.blk i) (s.fld Reg.PG_ERR_INJECT_COUNT (pageOf src.blk i) - 1) := by
  unfold State.takeInject at h
  dsimp only at h
  split at h
  · exact (Option.some.inj h).symm
  · cases h

/-- A check either finds no armed inversion or takes one and latches its source (R372). -/
theorem State.check_induction {P : State → Prop} {s : State} {src : Src} {i : Nat} (clean : P s)
    (inverted : ∀ t, s.takeInject src i = some t → P (t.latch src i)) : P (s.check src i) := by
  unfold State.check
  split
  · exact inverted _ ‹_›
  · exact clean

@[simp] theorem State.check_now (s : State) (src : Src) (i : Nat) : (s.check src i).now = s.now :=
  State.check_induction (P := fun t => t.now = s.now) rfl fun t ht => (t.latch_now src i).trans (s.takeInject_now src i t ht)

@[simp] theorem State.check_clb (s : State) (src : Src) (i : Nat) : (s.check src i).clb = s.clb :=
  State.check_induction (P := fun t => t.clb = s.clb) rfl fun t ht => (t.latch_clb src i).trans (s.takeInject_clb src i t ht)

@[simp] theorem State.check_cnv (s : State) (src : Src) (i : Nat) : (s.check src i).cnv = s.cnv :=
  State.check_induction (P := fun t => t.cnv = s.cnv) rfl fun t ht => (t.latch_cnv src i).trans (s.takeInject_cnv src i t ht)

namespace OutlastsLatch

variable {P : State → Prop} (k : OutlastsLatch P) {s : State}
include k

theorem takeInject (h : P s) {src : Src} {i : Nat} {t : State} (ht : s.takeInject src i = some t) : P t :=
  State.takeInject_some ht ▸ k.inject _ _ h

theorem check (h : P s) (src : Src) (i : Nat) : P (s.check src i) :=
  State.check_induction h fun _ ht => k.latch src i (k.takeInject h ht)

theorem recordAt (h : P s) (r cls : Nat) (items : List (Nat → Bytes)) : P (s.recordAt r cls items) :=
  k.regs (s.recordAt_variant r cls items) (s.recordAt_regs r cls items) h

theorem loseEvent (h : P s) (r : Nat) : P (s.loseEvent r) :=
  k.regs (s.loseEvent_variant r) (s.loseEvent_regs r) h

/-- A record writes registers only where a mismatch of the duplicate indices latches its source (R67). -/
theorem recordN (h : P s) (r cls : Nat) (items : List (Nat → Bytes)) (n : Nat) : P (s.recordN r cls items n) := by
  induction n generalizing s r cls items with
  | zero => exact k.recordAt h r cls items
  | succ n ih =>
    unfold State.recordN
    dsimp only
    split
    · exact k.recordAt h r cls items
    · split
      · exact k.recordAt h r cls items
      · rename_i u hu
        have halted : P (u.setRing r (s.ring r).halt) := k.regs (s := u) rfl rfl (k.takeInject h hu)
        split
        · exact k.recordAt (k.latch _ _ (ih halted _ _ _)) r cls items
        · exact k.recordAt (k.latch _ _ (k.loseEvent halted _)) r cls items

theorem event (h : P s) (ring en : Fld) (code blk source : Nat) (args : List Nat) : P (s.event ring en code blk source args) := by
  unfold State.event State.eventTo
  split
  · exact k.recordN h _ 4 _ 256
  · exact k.loseEvent h _

theorem finish (h : P s) (j status r0 r1 r2 r3 : Nat) : P (s.finish j status r0 r1 r2 r3) := by
  have ended : ∀ x : RingSt, P { s with rng := x } := fun _ => k.regs (s := s) rfl rfl h
  unfold State.finish
  dsimp only
  split
  · split
    · exact ended _
    · exact k.recordN (ended _) _ 2 _ 256
  · exact h

end OutlastsLatch

end Sys2Proof.Machine
end

section
/-! PROOFS. WALLSYNC edges and holdovers (06_wall_model_and_calibres.md R147). -/

namespace Sys2Proof.Machine

/-- A command whose meaning runs on the root PLL's clocks, while they run. -/
theorem Runs.of_run {c : Instr} {s t : State} {f : State → State} {P : State → Prop} (hexec : exec c s = s.run f)
    (hc : s.pwr.clocksStopped = false) (ht : f s = t) (h : P t) : Runs c s P :=
  ⟨t, (hexec.trans (State.run_of_clocked hc f)).trans (congrArg _ ht), h⟩

/-! ### What the lock and the coming mark leave alone -/

@[simp] theorem State.clbEvent_clb (s : State) (code source : Nat) (args : List Nat) : (s.clbEvent code source args).clb = s.clb :=
  s.event_clb ..

theorem State.lockChange_clb (s : State) (locked : Bool) :
    (s.lockChange locked).clb = { s.clb with locked := locked, everLocked := s.clb.everLocked || locked } := by
  simp [State.lockChange]

theorem State.sameFld_lockChange (s : State) (locked : Bool) : SameFld s (s.lockChange locked) := by
  have h : ∀ c : ClbSt, SameFld s { s with clb := c } := fun c => SameFld.of_regs rfl rfl
  unfold State.lockChange State.clbEvent
  exact (outlastsLatch_sameFld s).event (sameFld_intEdge (h _) 153) _ _ _ _ _ _

theorem stuck_lockChange {s : State} {p b : Nat} (h : s.stuck p b) (hb : b < 32) (locked : Bool) : (s.lockChange locked).stuck p b := by
  have h1 : ∀ c : ClbSt, State.stuck { s with clb := c } p b := fun c => stuck_of_regs rfl rfl h
  unfold State.lockChange State.clbEvent
  exact (outlastsLatch_stuck p hb).event (stuck_intEdge (h1 _) 153) _ _ _ _ _ _

/-- The coming mark moves, and with it only whether the phase still moves. -/
theorem State.moveMark_clb (s : State) :
    s.moveMark.clb = { s.clb with nextMark := s.moveMark.clb.nextMark, slewing := s.moveMark.clb.slewing } := by
  unfold State.moveMark
  dsimp only
  split <;> rfl

theorem State.fld_moveMark (s : State) (f : Fld) (i : Nat) : s.moveMark.fld f i = s.fld f i := by
  unfold State.moveMark
  dsimp only
  split <;> rfl

/-- A calibre that marks follow takes them from WALLSYNC, with lock held. -/
theorem State.following_iff (s : State) : s.following = true ↔ s.clb.locked = true ∧ s.syncSource = true := by
  unfold State.following State.syncSource
  cases s.activeImg <;> simp

/-! ### Edges -/

/-- An edge is within 0.5 % of T of its prediction. -/
def State.edgeFits (s : State) : Prop :=
  s.now ≤ s.clb.edgeAt + s.syncPeriod + s.period / 200 ∧ s.clb.edgeAt + s.syncPeriod ≤ s.now + s.period / 200

/-- The state when an edge has been accepted and its period measured, before the lock and the coming mark follow. -/
def State.edgeTaken (s : State) : State :=
  State.measure { s with clb := { s.clb with edgeAt := s.now, edges := s.clb.edges + 1, edgeSeen := true, holdRun := 0 } } s.clb.edgeAt

/-- The state after the lock follows the eighth accepted edge in a row. -/
def State.edgeLocked (s : State) : State :=
  if 8 ≤ s.clb.edges + 1 ∧ !s.clb.locked then
    State.lockChange { s.edgeTaken with clb := { s.edgeTaken.clb with slewing := true } } true
  else s.edgeTaken

theorem State.wallsyncEdge_accepted {s : State} (hw : s.wound = true) (hs : s.syncSource = true) (hk : s.clb.edgeKnown = true)
    (hfit : s.edgeFits) : s.wallsyncEdge = s.edgeLocked.moveMark := by
  obtain ⟨late, early⟩ := hfit
  unfold State.wallsyncEdge
  rw [if_neg (by simp [hw, hs])]
  dsimp only
  rw [if_pos (by simp [hk, late, early])]
  rfl

theorem State.wallsyncEdge_first {s : State} (hw : s.wound = true) (hs : s.syncSource = true) (hk : s.clb.edgeKnown = false)
    (hl : s.clb.locked = false) :
    s.wallsyncEdge = { s with clb := { s.clb with edgeKnown := true, edgeAt := s.now, edges := 0 } } := by
  unfold State.wallsyncEdge
  simp [hw, hs, hk, hl]

theorem State.fld_edgeTaken_meas (s : State) :
    s.edgeTaken.fld Reg.CLB_SYNC_MEAS = (s.now - s.clb.edgeAt) / Clk.cclk % 4294967296 :=
  (State.fld_congr rfl rfl _ _).trans (State.fld_setFld s Reg.CLB_SYNC_MEAS 0 _)

theorem State.fld_edgeLocked_meas (s : State) : s.edgeLocked.fld Reg.CLB_SYNC_MEAS = s.edgeTaken.fld Reg.CLB_SYNC_MEAS := by
  unfold State.edgeLocked
  split
  · exact (State.sameFld_lockChange _ true).same _ 0 (by decide) (by decide)
  · rfl

/-- What an accepted edge makes of the calibre state; the lock comes with the eighth in a row. -/
theorem State.edgeLocked_clb (s : State) :
    s.edgeLocked.clb.edges = s.clb.edges + 1 ∧ s.edgeLocked.clb.edgeAt = s.now ∧ s.edgeLocked.clb.edgeSeen = true ∧
      s.edgeLocked.clb.holdRun = 0 ∧ s.edgeLocked.clb.locked = (s.clb.locked || decide (8 ≤ s.clb.edges + 1)) := by
  unfold State.edgeLocked
  split
  · rename_i h
    rw [State.lockChange_clb]
    exact ⟨rfl, rfl, rfl, rfl, by simp [h.1]⟩
  · rename_i h
    refine ⟨rfl, rfl, rfl, rfl, ?_⟩
    show s.clb.locked = _
    cases hl : s.clb.locked with
    | true => rfl
    | false => simpa [hl] using h

theorem runs_wallsyncEdge_accepted {s : State} (hc : s.pwr.clocksStopped = false) (hw : s.wound = true) (hs : s.syncSource = true)
    (hk : s.clb.edgeKnown = true) (hfit : s.edgeFits) :
    Runs .wallsyncEdge s fun t =>
      t.clb.edges = s.clb.edges + 1 ∧ t.clb.edgeAt = s.now ∧ t.clb.edgeSeen = true ∧ t.clb.holdRun = 0 ∧
      t.clb.locked = (s.clb.locked || decide (8 ≤ s.clb.edges + 1)) ∧
      t.fld Reg.CLB_SYNC_MEAS = (s.now - s.clb.edgeAt) / Clk.cclk % 4294967296 := by
  obtain ⟨edges, edgeAt, seen, hold, locked⟩ := s.edgeLocked_clb
  refine Runs.of_run rfl hc (State.wallsyncEdge_accepted hw hs hk hfit) ?_
  rw [State.moveMark_clb, State.fld_moveMark]
  exact ⟨edges, edgeAt, seen, hold, locked, s.fld_edgeLocked_meas.trans s.fld_edgeTaken_meas⟩

/-! ### Holdovers -/

/-- The state when a predicted edge is taken as seen, the run of predictions one longer. -/
def State.edgePredicted (s : State) : State :=
  State.count
    { s with clb := { s.clb with edgeAt := s.clb.edgeAt + s.syncPeriod, edges := 0, edgeSeen := true, holdRun := s.clb.holdRun + 1 } }
    Reg.CLB_HOLDOVER_MARKS

theorem State.fld_edgePredicted_marks (s : State) :
    s.edgePredicted.fld Reg.CLB_HOLDOVER_MARKS = (s.fld Reg.CLB_HOLDOVER_MARKS + 1) % 4294967296 :=
  (State.fld_congr rfl rfl _ _).trans (State.fld_setFld s Reg.CLB_HOLDOVER_MARKS 0 _)

/-- A holdover acts once the predicted edge is past: the fourth in a row drops the lock (R147). -/
theorem State.wallsyncHoldover_eq {s : State} (hw : s.wound = true) (hf : s.following = true)
    (hpast : s.clb.edgeAt + s.syncPeriod ≤ s.now) :
    s.wallsyncHoldover =
      if s.clb.holdRun + 1 < 4 then s.edgePredicted.moveMark
      else
        let t := s.edgePredicted.moveMark
        (State.latch { t with clb := { t.clb with edgeKnown := false, holdRun := 0, measured := false } } .clbSync).lockChange false := by
  unfold State.wallsyncHoldover
  dsimp only
  rw [if_neg (by simp [hw, hf]; omega)]
  rfl

theorem runs_wallsyncHoldover_kept {s : State} (hc : s.pwr.clocksStopped = false) (hw : s.wound = true) (hf : s.following = true)
    (hpast : s.clb.edgeAt + s.syncPeriod ≤ s.now) (hrun : s.clb.holdRun + 1 < 4) :
    Runs .wallsyncHoldover s fun t =>
      t.clb.locked = true ∧ t.clb.holdRun = s.clb.holdRun + 1 ∧ t.clb.edgeAt = s.clb.edgeAt + s.syncPeriod ∧
      t.fld Reg.CLB_HOLDOVER_MARKS = (s.fld Reg.CLB_HOLDOVER_MARKS + 1) % 4294967296 := by
  have held : s.wallsyncHoldover = s.edgePredicted.moveMark := (State.wallsyncHoldover_eq hw hf hpast).trans (if_pos hrun)
  refine Runs.of_run rfl hc held ?_
  rw [State.moveMark_clb, State.fld_moveMark]
  exact ⟨(s.following_iff.1 hf).1, rfl, rfl, s.fld_edgePredicted_marks⟩

theorem runs_wallsyncHoldover_lost {s : State} (hc : s.pwr.clocksStopped = false) (hw : s.wound = true) (hf : s.following = true)
    (hpast : s.clb.edgeAt + s.syncPeriod ≤ s.now) (hrun : 4 ≤ s.clb.holdRun + 1) :
    Runs .wallsyncHoldover s fun t => t.clb.locked = false ∧ t.clb.edgeKnown = false ∧ t.latched .clbSync = true := by
  refine Runs.of_run rfl hc ((State.wallsyncHoldover_eq hw hf hpast).trans (if_neg (by omega))) ⟨?_, ?_, ?_⟩
  · rw [State.lockChange_clb]
  · rw [State.lockChange_clb, State.latch_clb]
  · exact stuck_lockChange (State.latched_latch _ .clbSync 0 (by decide)) (by decide) false

end Sys2Proof.Machine
end

section
/-! PROOFS. A frame mark counts the frame (06_wall_model_and_calibres.md R146; 01_movement.md R11). What happens at a mark after the
count leaves the time, the mark and the count alone: one lemma for each operation. -/

namespace Sys2Proof.Machine

/-- `t` has the time, the last mark and the frame count of `s`. -/
structure SameMark (s t : State) : Prop where
  now : t.now = s.now
  lastMark : t.clb.lastMark = s.clb.lastMark
  frameCount : t.frameCount = s.frameCount

theorem SameMark.refl (s : State) : SameMark s s := ⟨rfl, rfl, rfl⟩

theorem SameMark.trans {a b c : State} (h : SameMark a b) (k : SameMark b c) : SameMark a c :=
  ⟨k.now.trans h.now, k.lastMark.trans h.lastMark, k.frameCount.trans h.frameCount⟩

/-- What writes only register fields that a latch may write keeps the frame count. -/
theorem SameMark.of_sameFld {s t : State} (hnow : t.now = s.now) (hclb : t.clb = s.clb) (h : SameFld s t) : SameMark s t :=
  ⟨hnow, congrArg ClbSt.lastMark hclb, h.same Reg.SYS_FRAME_COUNT 0 (by decide) (by decide)⟩

theorem SameMark.setFld (s : State) {f : Fld} (i v : Nat) (hne : f.id ≠ Reg.SYS_FRAME_COUNT.id) (hlt : f.id < 1024) :
    SameMark s (s.setFld f i v) :=
  ⟨rfl, rfl, State.fld_setFld_other s v hne hlt (by decide)⟩

theorem SameMark.foldl {α : Type} {f : State → α → State} (h : ∀ t a, SameMark t (f t a)) (l : List α) (s : State) :
    SameMark s (l.foldl f s) := by
  induction l generalizing s with
  | nil => exact .refl s
  | cons a l ih => exact (h s a).trans (ih _)

theorem SameMark.ite {s a b : State} {c : Prop} [Decidable c] (ha : SameMark s a) (hb : SameMark s b) :
    SameMark s (if c then a else b) := by
  split
  · exact ha
  · exact hb

/-! ### Shared operations -/

theorem sameMark_intEdge (s : State) (id : Nat) : SameMark s (s.intEdge id) :=
  .of_sameFld (s.intEdge_now id) (s.intEdge_clb id) (sameFld_intEdge (.refl s) id)

theorem sameMark_latch (s : State) (src : Src) (i : Nat) : SameMark s (s.latch src i) :=
  .of_sameFld (s.latch_now src i) (s.latch_clb src i) (s.latch_sameFld src i)

theorem sameMark_check (s : State) (src : Src) (i : Nat) : SameMark s (s.check src i) :=
  .of_sameFld (s.check_now src i) (s.check_clb src i) ((outlastsLatch_sameFld s).check (.refl s) src i)

theorem sameMark_event (s : State) (ring en : Fld) (code blk source : Nat) (args : List Nat) :
    SameMark s (s.event ring en code blk source args) :=
  .of_sameFld (s.event_now ..) (s.event_clb ..) ((outlastsLatch_sameFld s).event (.refl s) ..)

theorem sameMark_finish (s : State) (j status r0 r1 r2 r3 : Nat) : SameMark s (s.finish j status r0 r1 r2 r3) :=
  .of_sameFld (s.finish_now ..) (s.finish_clb ..) ((outlastsLatch_sameFld s).finish (.refl s) ..)

/-! ### Calibre and tiles (R140, R142, R144) -/

theorem sameMark_setBank (s : State) (b : Bool) (x : Bank) : SameMark s (s.setBank b x) := by
  unfold State.setBank
  exact .ite ⟨rfl, rfl, rfl⟩ ⟨rfl, rfl, rfl⟩

theorem sameMark_releaseBank (s : State) : SameMark s s.releaseBank := by
  unfold State.releaseBank State.showRefFree
  exact .ite (.refl s) (((sameMark_setBank ..).trans (.setFld _ _ _ (by decide) (by decide))).trans
    (.setFld _ _ _ (by decide) (by decide)))

theorem State.setBank_live (s : State) (b : Bool) (x : Bank) : (s.setBank b x).clb.live = s.clb.live := by
  unfold State.setBank
  split <;> rfl

theorem State.releaseBank_live (s : State) : s.releaseBank.clb.live = s.clb.live := by
  unfold State.releaseBank
  dsimp only
  split
  · rfl
  · exact s.setBank_live _ _

/-- Without a live edit that waits, the bank that drains is released and nothing else of the calibre changes. -/
theorem sameMark_lastRelease_applyLive {s : State} (h : s.clb.live = none) : SameMark s s.lastRelease.applyLive := by
  have live : s.lastRelease.clb.live = none := by
    unfold State.lastRelease
    split
    · exact h
    · exact s.releaseBank_live.trans h
  unfold State.applyLive
  rw [live]
  exact .ite (.refl s) (sameMark_releaseBank s)

theorem sameMark_identEvents (s : State) (old new : Tab TileIdent) (tileOf place : Nat → Nat) :
    SameMark s (s.identEvents old new tileOf place) :=
  .foldl (fun t _ => .ite (.refl t) (sameMark_event t ..)) _ s

theorem sameMark_updateIdents (s : State) : SameMark s s.updateIdents := by
  unfold State.updateIdents
  split
  · unfold State.takeIdents
    refine SameMark.trans ?_ (.setFld _ (f := Reg.CLB_DARK_TILES) _ _ (by decide) (by decide))
    refine SameMark.trans ?_ (sameMark_identEvents ..)
    refine SameMark.trans ?_ (sameMark_identEvents ..)
    exact ⟨rfl, rfl, rfl⟩
  · exact .refl s

theorem sameMark_markCalibre {s : State} (hswap : s.clb.swap = none) (hlive : s.clb.live = none) : SameMark s s.markCalibre := by
  unfold State.markCalibre
  rw [hswap]
  exact (sameMark_lastRelease_applyLive hlive).trans (sameMark_updateIdents _)

theorem sameMark_placeMark (s : State) (m : Nat) : SameMark s (s.placeMark m) := by
  unfold State.placeMark
  exact .ite ⟨rfl, rfl, rfl⟩ ⟨rfl, rfl, rfl⟩

theorem sameMark_dropBefore (s : State) : SameMark s s.dropBefore := by
  unfold State.dropBefore
  split
  · exact .ite ⟨rfl, rfl, rfl⟩ (.refl s)
  · exact .refl s

theorem sameMark_goodFrame (s : State) : SameMark s s.goodFrame := by
  unfold State.goodFrame
  exact .ite (.refl s) ⟨rfl, rfl, rfl⟩

/-! ### Ports (R302, R306) -/

theorem sameMark_markOn (s : State) (p : Nat) : SameMark s (s.markOn p) := by
  unfold State.markOn
  exact .ite (.refl s) ⟨rfl, rfl, rfl⟩

theorem sameMark_markInsert (s : State) : SameMark s s.markInsert := .foldl sameMark_markOn _ s

/-! ### Streams and pictures (R117, R439) -/

theorem sameMark_settleTargets (s : State) (st fuel : Nat) : SameMark s (s.settleTargets st fuel) := by
  induction fuel generalizing s with
  | zero => exact .refl s
  | succ fuel ih =>
    unfold State.settleTargets
    dsimp only
    split
    · exact .refl s
    · rename_i m q _
      have aimed : ∀ x y, SameMark s ((s.setPic m x).setStream st y) := fun _ _ => ⟨rfl, rfl, rfl⟩
      exact .ite (.refl s) ((aimed _ _).trans (ih _))

theorem sameMark_returnBands (s : State) (n k : Nat) : SameMark s (s.returnBands n k) := by
  unfold State.returnBands
  exact .ite (.refl s) ⟨rfl, rfl, rfl⟩

theorem sameMark_dropUnheld (s : State) : SameMark s s.dropUnheld :=
  (SameMark.foldl (fun t (e : Nat × Picture) => sameMark_returnBands t e.1 e.2.bands) _ s).trans ⟨rfl, rfl, rfl⟩

theorem sameMark_markStreams (s : State) : SameMark s s.markStreams := by
  have aged : SameMark s (s.mapStreams fun _ x => { x with held := x.held.map fun u => { u with heldMarks := u.heldMarks + 1 } }) :=
    ⟨rfl, rfl, rfl⟩
  have settled : ∀ t : State, SameMark t t.settleAll := fun t => .foldl (fun t e => sameMark_settleTargets t _ _) _ t
  have released : ∀ t : State, SameMark t t.releaseWindowless := fun t =>
    SameMark.trans (b := t.mapPics _) ⟨rfl, rfl, rfl⟩ (sameMark_dropUnheld _)
  exact (aged.trans (settled _)).trans (released _)

/-! ### Audits (R25) -/

theorem sameMark_audit (s : State) (src : Src) (inst : Nat) (ok : Bool) : SameMark s (s.audit src inst ok) := by
  unfold State.audit
  exact .ite (sameMark_check s src inst) ((sameMark_check s src inst).trans (sameMark_latch _ src inst))

theorem sameMark_auditRings (s : State) : SameMark s s.auditRings :=
  .foldl (fun t _ => .ite (sameMark_audit t ..) (.refl t)) _ s

theorem sameMark_auditCore (s : State) : SameMark s s.auditCore :=
  ((((sameMark_audit s ..).trans (sameMark_audit ..)).trans (sameMark_audit ..)).trans (sameMark_audit ..)).trans (sameMark_audit ..)

theorem sameMark_auditPorts (s : State) : SameMark s s.auditPorts :=
  (SameMark.foldl (fun t _ => .ite (sameMark_audit t ..) (.refl t)) _ s).trans
    (.foldl (fun t _ => .ite ((sameMark_audit t ..).trans (sameMark_audit ..)) (.refl t)) _ _)

/-! ### Complications -/

theorem sameMark_cplRemove (s : State) (kind : Nat) : SameMark s (s.cplRemove kind).2 := by
  unfold State.cplRemove
  split
  · exact .refl s
  · exact SameMark.trans (b := s.setRegl _ _) ⟨rfl, rfl, rfl⟩ (sameMark_event ..)

theorem sameMark_cplInstall (s : State) (l : CplLoad) : SameMark s (s.cplInstall l) := by
  have installed : ∀ (t : State) x c, SameMark t ((t.setRegl l.g x).cplEvent l.g 1 c) := fun t x _ =>
    SameMark.trans (b := t.setRegl l.g x) ⟨rfl, rfl, rfl⟩ (sameMark_event ..)
  unfold State.cplInstall
  dsimp only
  split
  · exact ((sameMark_cplRemove s _).trans (installed _ _ _)).trans (sameMark_finish ..)
  · exact (sameMark_cplRemove s _).trans (installed _ _ _)

theorem sameMark_cplUnloadNow (s : State) (u : Nat × Nat) : SameMark s (s.cplUnloadNow u) :=
  (sameMark_cplRemove s u.2).trans (sameMark_finish ..)

theorem sameMark_cplMark (s : State) : SameMark s s.cplMark := by
  have frames : ∀ t : State, SameMark t t.cplFrames := fun t => by
    refine .foldl (fun u g => ?_) _ t
    dsimp only
    exact .ite (.refl u) ⟨rfl, rfl, rfl⟩
  have taken : SameMark s { s with rgl := { s.rgl with loading := s.rgl.loading.filter fun l => !l.initDone, unloads := [] } } :=
    ⟨rfl, rfl, rfl⟩
  exact ((taken.trans (.foldl sameMark_cplInstall _ _)).trans (.foldl sameMark_cplUnloadNow _ _)).trans (frames _)

/-! ### The mark -/

/-- The state in which the mark has fallen and its frame is counted. -/
def State.markCounted (s : State) : State :=
  (State.markWall { s with clb := { s.clb with prevMark := s.clb.lastMark, lastMark := s.clb.nextMark, edgeSeen := false } }).count
    Reg.SYS_FRAME_COUNT

theorem State.frameCount_markCounted (s : State) : s.markCounted.frameCount = (s.frameCount + 1) % 4294967296 :=
  State.fld_setFld _ Reg.SYS_FRAME_COUNT 0 _

/-- A mark that is due falls; behind WALLSYNC with an offset not below 0 it would wait for its edge. -/
theorem State.frameMark_eq {s : State} (hw : s.wound = true) (hdue : s.clb.nextMark ≤ s.now) (hf : s.following = false) :
    s.frameMark = ((((((((s.markCounted.intEdge 40).markCalibre).placeMark s.clb.nextMark).dropBefore).pushMap).markInsert).markStreams
      ).frameAudit).goodFrame.cplMark := by
  unfold State.frameMark
  rw [if_neg (by simp [hw, hf]; omega)]
  rfl

theorem sameMark_frameMark {s : State} (hw : s.wound = true) (hdue : s.clb.nextMark ≤ s.now) (hf : s.following = false)
    (hswap : s.clb.swap = none) (hlive : s.clb.live = none) : SameMark s.markCounted s.frameMark := by
  have edge : (s.markCounted.intEdge 40).clb = s.markCounted.clb := State.intEdge_clb ..
  have counted := sameMark_intEdge s.markCounted 40
  have calibre := counted.trans (sameMark_markCalibre (congrArg ClbSt.swap edge |>.trans hswap) (congrArg ClbSt.live edge |>.trans hlive))
  have placed := calibre.trans ((sameMark_placeMark _ s.clb.nextMark).trans (sameMark_dropBefore _))
  have ports := placed.trans (SameMark.trans (b := State.pushMap _) ⟨rfl, rfl, rfl⟩ (sameMark_markInsert _))
  have streams := ports.trans (sameMark_markStreams _)
  have audited := streams.trans (((sameMark_auditRings _).trans (sameMark_auditCore _)).trans (sameMark_auditPorts _))
  rw [State.frameMark_eq hw hdue hf]
  exact audited.trans ((sameMark_goodFrame _).trans (sameMark_cplMark _))

/-- Settles O19: `sameMark_frameMark` for the mark, then an edge taken, the first edge, a holdover that keeps lock and one that loses
it. -/
theorem frameMarksAndWallsync : Obligations.FrameMarksAndWallsync := by
  intro s hc hw
  refine ⟨fun hdue hf hswap hlive => ?_, fun hs hk late early => runs_wallsyncEdge_accepted hc hw hs hk ⟨late, early⟩,
    fun hs hk hl => Runs.of_run rfl hc (State.wallsyncEdge_first hw hs hk hl) rfl,
    fun hf hpast => ⟨runs_wallsyncHoldover_kept hc hw hf hpast, runs_wallsyncHoldover_lost hc hw hf hpast⟩⟩
  have mark := sameMark_frameMark hw hdue hf hswap hlive
  exact Runs.of_run rfl hc rfl ⟨mark.frameCount.trans s.frameCount_markCounted, mark.lastMark, mark.now⟩

end Sys2Proof.Machine
end

section
/-! PROOFS. Register write commands that reach an open page (00_scope.md R4, 17_interrupts.md R331; 18_faults_and_self_test.md R372;
21_register_pages.md R416). -/

namespace Sys2Proof.Machine

/-- The pages of two block types are apart on either variant. -/
theorem blockTypes_apart : ∀ a ∈ blockTypes, ∀ b ∈ blockTypes,
    a = b ∨ a.first + a.n648 ≤ b.first ∨ b.first + b.n648 ≤ a.first := by decide +kernel

theorem blockTypes_n624_le : ∀ b ∈ blockTypes, b.n624 ≤ b.n648 := by decide

theorem BlockType.count_le {b : BlockType} (hb : b ∈ blockTypes) (v : Variant) : b.count v ≤ b.n648 := by
  cases v
  · exact Nat.le_refl _
  · exact blockTypes_n624_le b hb

/-- A block type owns each page that it has on the variant. -/
theorem pageOwner_first_add {v : Variant} {b : BlockType} (hb : b ∈ blockTypes) {i : Nat} (hi : i < b.count v) :
    pageOwner v (b.first + i) = some (b.code, i) := by
  obtain ⟨a, ha⟩ : ∃ a, blockTypes.find? (fun t =>
      decide (t.first ≤ b.first + i) && decide (b.first + i < t.first + t.count v)) = some a :=
    Option.isSome_iff_exists.1 (List.find?_isSome.2 ⟨b, hb, by simp [hi]⟩)
  have hmem := List.mem_of_find?_eq_some ha
  have hrange := List.find?_some ha
  simp only [Bool.and_eq_true, decide_eq_true_eq] at hrange
  have hac := BlockType.count_le hmem v
  have hbc := BlockType.count_le hb v
  obtain rfl : a = b := by
    rcases blockTypes_apart a hmem b hb with h | h | h
    · exact h
    · omega
    · omega
  unfold pageOwner
  rw [ha]
  simp

theorem State.pageOwner_of_hasPage {s : State} {blk inst : Nat} (h : s.hasPage blk inst = true) :
    pageOwner s.variant (pageOf blk inst) = some (blk, inst) := by
  unfold State.hasPage at h
  split at h
  · rename_i b hb
    have hcode : b.code = blk := by simpa using List.find?_some hb
    have hmem := List.mem_of_find?_eq_some hb
    obtain ⟨-, -, hfirst⟩ := blockType_facts b hmem
    rw [← hcode, pageOf, hfirst]
    exact pageOwner_first_add hmem (by simpa using h)
  · cases h

/-! ### Writes that reach an open page -/

section
variable {s : State} {blk inst : Nat} (hflt : blk ≠ Blk.flt)
include hflt

theorem State.onInst_open (hpage : s.hasPage blk inst = true) (hpar : (s.takeInject (.regParity blk) inst).isNone = true)
    (f : State → State) : s.onInst blk inst 0 f = f s := by
  unfold State.onInst State.disarm State.underParity
  rw [if_pos hpage, if_neg hflt, Option.isNone_iff_eq_none.1 hpar]
  rfl

theorem State.hostCmd_open (h : s.hostPageOpen blk inst = true) (f : State → State) : s.hostCmd blk inst 0 f = f s := by
  simp only [State.hostPageOpen, Bool.and_eq_true] at h
  obtain ⟨⟨hreach, hpage⟩, hpar⟩ := h
  exact (if_pos hreach).trans (State.onInst_open hflt hpage hpar f)

theorem State.onPage_open (h : s.pageOpen blk inst = true) (f : State → Nat → Nat → State) :
    s.onPage (pageOf blk inst) 0 f = f s blk inst := by
  simp only [State.pageOpen, Bool.and_eq_true] at h
  obtain ⟨⟨hreach, hpage⟩, hpar⟩ := h
  unfold State.onPage
  rw [if_neg (by simp [hreach]), State.pageOwner_of_hasPage hpage]
  exact State.onInst_open hflt hpage hpar _

end

end Sys2Proof.Machine
end

section
/-! PROOFS. The cap commit, FUS_FORCE and the snapshot of the switch's audit counters (08_fusee.md R179, R180, R186, Table 8.2;
01_movement.md R24). -/

namespace Sys2Proof.Machine

/-! ### The cap commit (Table 8.2) -/

theorem State.capCommit_busy {s : State} (h : s.flag Reg.FUS_CAP_CTL_BUSY = true) : s.capCommit = s.latch .fusCapwr := if_pos h

theorem State.capCommit_shut {s : State} (h : s.flag Reg.FUS_CAP_CTL_BUSY = false) (hs : s.fus.session = false) :
    s.capCommit = (s.setFld Reg.FUS_CAP_CTL_RESULT 0 1).latch .fusCapwr := by
  unfold State.capCommit
  simp [h, hs]

theorem State.capCommit_image {s u w : State} {h im : Bytes} (hbusy : s.flag Reg.FUS_CAP_CTL_BUSY = false)
    (hsession : s.fus.session = true)
    (hhead : s.engineRead (addr64 (s.fld Reg.FUS_CAP_SRC_LO_ADDR * 64) (s.fld Reg.FUS_CAP_SRC_HI)) 32 14 = (some h, u))
    (hn : field h 6 2 ≠ 0) (hmax : field h 6 2 ≤ u.variant.circuits)
    (hread : u.engineRead (addr64 (s.fld Reg.FUS_CAP_SRC_LO_ADDR * 64) (s.fld Reg.FUS_CAP_SRC_HI)) (capBytes (field h 6 2)) 14 =
      (some im, w))
    (hformat : capBadFormat im = false) (hrange : capBadRange w.variant im = false) :
    s.capCommit = State.setFld { w with fus := { w.fus with commit := some im } } Reg.FUS_CAP_CTL_BUSY 0 1 := by
  have count : ¬(field h 6 2 = 0 ∨ u.variant.circuits < field h 6 2) := by omega
  unfold State.capCommit
  simp only [hbusy, hsession, hhead, hread, hformat, hrange, count, Bool.not_true, Bool.false_eq_true, if_false]

/-- Both copies are stored and read back (steps 5 to 7): the table is in force, and the commit is over. -/
theorem State.capStore_both {s u w : State} {im : Bytes} (him : s.fus.commit = some im)
    (ha : s.kstWrite (capCopy 0) (capStored im ((s.storedSeq + 1) % 4294967296)) = some u)
    (hb : u.kstWrite (capCopy 1) (capStored im ((s.storedSeq + 1) % 4294967296)) = some w) :
    s.capStore true true =
      ((((w.takeCaps im).setFld Reg.FUS_CAP_SEQ 0 ((s.storedSeq + 1) % 4294967296)).setFld Reg.FUS_CAP_CTL_LOADED 0 1).capResult 0
        ).fusEvent 0x0802 0 [2, (s.storedSeq + 1) % 4294967296, field im 6 2, 3] := by
  have seq : wrap 32 (s.storedSeq + 1) = (s.storedSeq + 1) % 4294967296 := rfl
  unfold State.capStore
  simp only [him, seq, ha, hb, Bool.not_true, Bool.false_eq_true, if_false]

/-- The end of a commit writes no field but BUSY and RESULT. -/
theorem State.fld_capResult_other (s : State) (r : Nat) {f : Fld} (hf : f.id < 1024) (hbusy : Reg.FUS_CAP_CTL_BUSY.id ≠ f.id)
    (hresult : Reg.FUS_CAP_CTL_RESULT.id ≠ f.id) (i : Nat) : (s.capResult r).fld f i = s.fld f i :=
  ((State.fld_setFld_other _ _ hresult (by decide) hf).trans (State.fld_setFld_other _ _ hbusy (by decide) hf)).trans
    (State.fld_congr rfl rfl f i)

theorem State.fld_capResult_result (s : State) (r : Nat) : (s.capResult r).fld Reg.FUS_CAP_CTL_RESULT = r % 16 :=
  State.fld_setFld _ Reg.FUS_CAP_CTL_RESULT 0 r

theorem State.fld_capResult_busy (s : State) (r : Nat) : (s.capResult r).fld Reg.FUS_CAP_CTL_BUSY = 0 :=
  (State.fld_setFld_other _ _ (by decide) (by decide) (by decide)).trans (State.fld_setFld _ Reg.FUS_CAP_CTL_BUSY 0 0)

theorem State.fld_fusEvent (s : State) (code source : Nat) (args : List Nat) {f : Fld} (hf : f.id < 1024) (hl : f.id ∉ latchFields)
    (i : Nat) : (s.fusEvent code source args).fld f i = s.fld f i :=
  ((outlastsLatch_sameFld s).event (.refl s) _ _ code Blk.fus source args).same f i hf hl

theorem runs_capCommitStoreDone {s u w : State} {im : Bytes} (hc : s.pwr.clocksStopped = false) (him : s.fus.commit = some im)
    (ha : s.kstWrite (capCopy 0) (capStored im ((s.storedSeq + 1) % 4294967296)) = some u)
    (hb : u.kstWrite (capCopy 1) (capStored im ((s.storedSeq + 1) % 4294967296)) = some w) :
    Runs (.capCommitStoreDone true true) s fun t =>
      t.fus = { w.fus with commit := none, count := field im 6 2,
                           caps := (List.range (field im 6 2)).map (fun c => (c, field im (32 + 16 * c) 6)),
                           slews := (List.range (field im 6 2)).map (fun c => (c, field im (40 + 16 * c) 2)) } ∧
      t.fld Reg.FUS_CAP_SEQ = (s.storedSeq + 1) % 4294967296 ∧ t.flag Reg.FUS_CAP_CTL_LOADED = true ∧
      t.fld Reg.FUS_CAP_CTL_RESULT = 0 ∧ t.fld Reg.FUS_CAP_CTL_BUSY = 0 := by
  refine Runs.of_run (f := fun s => s.capStore true true) rfl hc (State.capStore_both him ha hb) ⟨?_, ?_, ?_, ?_, ?_⟩
  · exact State.event_fus ..
  · rw [State.fld_fusEvent _ _ _ _ (by decide) (by decide), State.fld_capResult_other _ _ (by decide) (by decide) (by decide),
      State.fld_setFld_other _ _ (by decide) (by decide) (by decide), State.fld_setFld]
    exact Nat.mod_mod _ _
  · rw [State.flag, State.fld_fusEvent _ _ _ _ (by decide) (by decide),
      State.fld_capResult_other _ _ (by decide) (by decide) (by decide), State.fld_setFld]
    rfl
  · rw [State.fld_fusEvent _ _ _ _ (by decide) (by decide), State.fld_capResult_result]
  · rw [State.fld_fusEvent _ _ _ _ (by decide) (by decide), State.fld_capResult_busy]

/-! ### FUS_FORCE (R186) -/

/-- The circuit that a write `v` of FUS_FORCE in the fusee's page `p` names. -/
def forcedCirc (p v : Nat) : Nat := 128 * p + v % 128

/-- The forced circuit: the forced value set, its audit terms zero. -/
def State.forced (s : State) (p v : Nat) : Circuit :=
  { s.circ (forcedCirc p v) with
    force := some (s.fld Reg.FUS_FORCE_VAL_LO p + s.fld Reg.FUS_FORCE_VAL_HI p * 4294967296), granted := 0, consumed := 0, expired := 0 }

theorem State.fusForce_set {s : State} {p v : Nat} (h : bit v 31 = true) :
    s.fusForce p v = { s.setCirc (forcedCirc p v) (s.forced p v) with flt := { s.flt with promiseVoid := true } } := by
  have named : bits v 6 0 = v % 128 := by simp [bits]
  have value : s.pair Reg.FUS_FORCE_VAL_LO Reg.FUS_FORCE_VAL_HI p 0 32 =
      s.fld Reg.FUS_FORCE_VAL_LO p + s.fld Reg.FUS_FORCE_VAL_HI p * 4294967296 := by simp [State.pair]
  unfold State.fusForce
  rw [named, value, if_neg (by simp [h])]
  rfl

/-- A write with bit 31 to an open page of the fusee, by FUS_FORCE. -/
theorem exec_fusForce {s : State} {i : Nat} {v : Word} (hc : s.pwr.clocksStopped = false) (hopen : s.pageOpen Blk.fus i = true)
    (hrsv : rsvBits v 0x8000007F = 0) (hbit : bit v.toNat 31 = true) :
    exec (.fusForce (pageOf Blk.fus i) v) s =
      .next { s.setCirc (forcedCirc i v.toNat) (s.forced i v.toNat) with flt := { s.flt with promiseVoid := true } } := by
  show execFusForce (pageOf Blk.fus i) v s = _
  unfold execFusForce
  rw [State.run_of_clocked hc, hrsv, State.onPage_open (by decide) hopen, if_pos rfl, State.fusForce_set hbit]

/-! ### AUD_SNAP.TAKE (R24) -/

/-- A record of a table whose records are all mapped: the mapped one, and the reader's default where none is listed. -/
theorem Tab.get_map {α : Type} (d : α) (f : α → α) (t : Tab α) (k : Nat) :
    Tab.get d (t.map fun e => (e.1, f e.2)) k = if Tab.has t k then f (Tab.get d t k) else d := by
  induction t with
  | nil => rfl
  | cons e t ih =>
    obtain ⟨j, x⟩ := e
    by_cases h : j = k <;> simp [Tab.get, Tab.has, h, ih]

theorem Tab.get_of_not_has {α : Type} (d : α) {t : Tab α} {k : Nat} (h : Tab.has t k = false) : Tab.get d t k = d := by
  induction t with
  | nil => rfl
  | cons e t ih =>
    obtain ⟨j, x⟩ := e
    by_cases hj : j = k <;> simp_all [Tab.get, Tab.has]

theorem State.snapSeq_swc (s : State) (blk : Nat) (f : Fld) : (s.snapSeq blk f).swc = s.swc :=
  State.foldl_part (g := State.swc) (fun t _ => by split <;> rfl) _ s

theorem State.snapBlock_swc (s : State) :
    (s.snapBlock Blk.swc).swc = { s.swc with outs := s.swc.outs.map fun e => (e.1, e.2.snap) } :=
  State.snapSeq_swc ..

theorem State.swout_snapBlock (s : State) (o : Nat) :
    (s.snapBlock Blk.swc).swout o = if Tab.has s.swc.outs o then (s.swout o).snap else {} := by
  unfold State.swout
  rw [State.snapBlock_swc]
  exact Tab.get_map {} SwOut.snap s.swc.outs o

theorem runs_audSnapTake_swc {s : State} (hc : s.pwr.clocksStopped = false) (hopen : s.pageOpen Blk.swc 0 = true) :
    Runs (.audSnapTake (pageOf Blk.swc 0)) s fun t => ∀ o,
      (t.swout o).audIn = (s.swout o).audIn ∧ (t.swout o).audOut = (s.swout o).audOut ∧
      (Tab.has s.swc.outs o = true → (t.swout o).snapIn = (s.swout o).audIn ∧ (t.swout o).snapOut = (s.swout o).audOut ∧
        (t.swout o).snapDrop = (s.swout o).audDrop ∧ (t.swout o).snapResident = (s.swout o).resident) := by
  refine Runs.of_run (f := fun s => s.onPage (pageOf Blk.swc 0) 0 fun t blk _ => t.snapBlock blk) rfl hc
    (State.onPage_open (by decide) hopen _) fun o => ?_
  rw [State.swout_snapBlock]
  cases h : Tab.has s.swc.outs o with
  | true => exact ⟨rfl, rfl, fun _ => ⟨rfl, rfl, rfl, rfl⟩⟩
  | false =>
    have unlisted : s.swout o = {} := Tab.get_of_not_has ({} : SwOut) h
    rw [unlisted]
    exact ⟨rfl, rfl, nofun⟩

/-- Settles O21: the branches of the commit, its end with both copies stored, FUS_FORCE and AUD_SNAP.TAKE. -/
theorem capsAndAudits : Obligations.CapsAndAudits := by
  intro s hc
  have commit : ∀ {t : State} {P : State → Prop}, s.hostPageOpen Blk.fus 0 = true → s.capCommit = t → P t →
      Runs .fusCapCommit s P := fun hopen ht =>
    Runs.of_run rfl hc ((State.hostCmd_open (by decide) hopen _).trans ht)
  refine ⟨fun hopen hbusy =>
      commit hopen (State.capCommit_busy hbusy) ⟨State.latched_latch s .fusCapwr 0 (by decide), State.latch_fus ..⟩,
    fun hopen hbusy hs =>
      commit hopen (State.capCommit_shut hbusy hs) ⟨?_, State.latched_latch _ .fusCapwr 0 (by decide), State.latch_fus ..⟩,
    fun h im u w hopen hbusy hs hhead hn hmax hread hformat hrange =>
      commit hopen (State.capCommit_image hbusy hs hhead hn hmax hread hformat hrange) ⟨State.fld_setFld _ _ 0 1, rfl⟩,
    fun im u w him ha hb => runs_capCommitStoreDone hc him ha hb, fun i v _ hopen hrsv hbit =>
      ⟨_, exec_fusForce hc hopen hrsv hbit, ?_⟩, runs_audSnapTake_swc hc⟩
  · rw [State.fld_latch _ _ _ (by decide) (by decide), State.fld_setFld]
    rfl
  · have forced := State.circ_setCirc s (forcedCirc i v.toNat) (s.forced i v.toNat)
    exact ⟨congrArg Circuit.force forced, congrArg Circuit.granted forced, congrArg Circuit.consumed forced,
      congrArg Circuit.expired forced, rfl, fun c hne => State.circ_setCirc_other s _ hne.symm⟩

end Sys2Proof.Machine
end

section
/-! PROOFS. The pickup of a window (07_canvas_and_drive.md R15, R163). -/

namespace Sys2Proof.Machine

/-! ### Operations that leave the canvas alone -/

@[simp] theorem State.returnBands_cnv (s : State) (n k : Nat) : (s.returnBands n k).cnv = s.cnv := by
  unfold State.returnBands
  dsimp only
  split <;> rfl

@[simp] theorem State.dropUnheld_cnv (s : State) : s.dropUnheld.cnv = s.cnv :=
  State.foldl_part (g := State.cnv) (fun t (e : Nat × Picture) => t.returnBands_cnv e.1 e.2.bands) _ s

theorem State.countLate_cnv (s : State) (st k : Nat) : (s.countLate st k).cnv = s.cnv := by
  unfold State.countLate
  dsimp only
  split <;> rfl

/-! ### Bindings -/

/-- A window picked up for a frame shows what it was picked up with. -/
theorem WinState.at_put (x : WinState) (c : WinBind) : (x.put c).at_ c.frame = some c := by
  have before : (x.binds.filter fun d => d.frame != c.frame).find? (fun d => d.frame == c.frame) = none := by
    simp [List.find?_eq_none]
  simp [WinState.at_, WinState.put, List.find?_append, before]

/-- In `t`, window `w` has a binding for frame `k` under bank `b`; every other window and the output buffer are as in `s`. -/
structure PickedUp (s t : State) (w k : Nat) (b : Bool) : Prop where
  bound : ((t.win w).at_ k).map (·.bank) = some b
  out : t.cnv.out = s.cnv.out
  others : ∀ v, v ≠ w → t.win v = s.win v

/-- What leaves the canvas alone, before or after a pickup, does not change what was picked up. -/
theorem PickedUp.of_cnv {s s' t t' : State} {w k : Nat} {b : Bool} (h : PickedUp s t w k b) (hs : s.cnv = s'.cnv)
    (ht : t'.cnv = t.cnv) : PickedUp s' t' w k b := by
  have win : ∀ v, t'.win v = t.win v := fun v => by simp only [State.win, ht]
  refine ⟨?_, by rw [ht, h.out, hs], fun v hv => ?_⟩
  · rw [win]
    exact h.bound
  · rw [win, h.others v hv]
    simp only [State.win, hs]

theorem pickedUp_put (s : State) (w : Nat) (c : WinBind) : PickedUp s (s.setWin w ((s.win w).put c)) w c.frame c.bank := by
  refine ⟨?_, rfl, fun v hv => State.win_setWin_other s _ hv.symm⟩
  rw [State.win_setWin, WinState.at_put]
  rfl

theorem pickedUp_put_raised (s : State) (w : Nat) (c : WinBind) (raised : List Nat) :
    PickedUp s { s.setWin w ((s.win w).put c) with cnv := { (s.setWin w ((s.win w).put c)).cnv with ratioRaised := raised } }
      w c.frame c.bank :=
  ⟨(pickedUp_put s w c).bound, (pickedUp_put s w c).out, (pickedUp_put s w c).others⟩

/-- A window that shows a picture is picked up; that its ratio was raised is remembered apart from the windows. -/
theorem pickedUp_showPic (s : State) (w : Nat) (e : Bytes) (k : Nat) (b : Bool) (n : Nat) (repeated : Bool)
    (signal : Nat × Nat × Nat × Nat) : PickedUp s (s.showPic w e k b n repeated signal) w k b := by
  unfold State.showPic
  dsimp only
  split
  · exact (pickedUp_put_raised s w _ _).of_cnv rfl (State.event_cnv ..)
  · exact pickedUp_put s w _

/-- The window repeats its picture, or shows EMPTY; the count of repeats lies beside the bindings. -/
theorem pickedUp_repeatPic (s : State) (w : Nat) (e : Bytes) (k : Nat) (b : Bool) (mine : Option Nat) :
    PickedUp s (s.repeatPic w e k b mine) w k b := by
  cases mine with
  | none => exact pickedUp_put s w { frame := k, bank := b }
  | some n =>
    have shown := pickedUp_showPic s w e k b n true (s.win w).last.signal
    unfold State.repeatPic
    refine ⟨?_, shown.out, fun v hv => (State.win_setWin_other _ _ hv.symm).trans (shown.others v hv)⟩
    rw [State.win_setWin]
    exact shown.bound

theorem pickedUp_bind (s : State) (w : Nat) (e : Bytes) (k : Nat) (b : Bool) (n : Nat) : PickedUp s (s.bind w e k b n) w k b := by
  have shown : ∀ (u : State) (signal : Nat × Nat × Nat × Nat), u.cnv = s.cnv → PickedUp s (u.showPic w e k b n false signal) w k b :=
    fun u signal hu => (pickedUp_showPic u w e k b n false signal).of_cnv hu rfl
  have reserved : ∀ (u : State) (l : List (Nat × Nat)),
      (l.foldl (fun t c => t.setCore c.2 { t.core c.2 with reservedFor := some n }) u).cnv = u.cnv := fun u l =>
    State.foldl_part (g := State.cnv) (fun t c => t.setCore_cnv c.2 _) l u
  unfold State.bind
  dsimp only
  split
  · exact (shown _ _ (by rfl)).of_cnv rfl (State.dropUnheld_cnv _)
  · exact (shown _ _ (by rfl)).of_cnv rfl ((State.dropUnheld_cnv _).trans (reserved _ _))

/-- A pickup that is due binds the window for its frame, whatever it finds to show (R15). -/
theorem pickedUp_pickup {s : State} {w k : Nat} {b : Bool} {im : Bytes} (hk : s.pickupFrame w = some k)
    (hb : s.bankFor k = some (b, im)) : PickedUp s (s.pickup w) w k b := by
  unfold State.pickup
  simp only [hk, hb]
  split
  · exact (pickedUp_repeatPic s ..).of_cnv rfl (State.dropUnheld_cnv _)
  · split
    · exact pickedUp_bind s ..
    · exact (pickedUp_repeatPic (s.countLate _ k) ..).of_cnv (s.countLate_cnv _ k) (State.dropUnheld_cnv _)

end Sys2Proof.Machine
end

section
/-! PROOFS. Canvas row pairs: the scan appends one, the drive stage takes the oldest (07_canvas_and_drive.md R164, R165, R167;
01_movement.md R13). -/

namespace Sys2Proof.Machine

/-- `t` has the output buffer of the compositor, the next row pair and the credits of the link to the drive stage as `s` has them. -/
structure SameRows (s t : State) : Prop where
  out : t.cnv.out = s.cnv.out
  next : t.cnv.next = s.cnv.next
  crIssued : t.cnv.crIssued = s.cnv.crIssued
  crReturned : t.cnv.crReturned = s.cnv.crReturned

theorem SameRows.of_cnv {s t : State} (h : t.cnv = s.cnv) : SameRows s t := by
  constructor <;> rw [h]

theorem SameRows.refl (s : State) : SameRows s s := .of_cnv rfl

theorem SameRows.trans {a b c : State} (h : SameRows a b) (k : SameRows b c) : SameRows a c :=
  ⟨k.out.trans h.out, k.next.trans h.next, k.crIssued.trans h.crIssued, k.crReturned.trans h.crReturned⟩

theorem SameRows.foldl {α : Type} {f : State → α → State} (h : ∀ t a, SameRows t (f t a)) (l : List α) (s : State) :
    SameRows s (l.foldl f s) := by
  induction l generalizing s with
  | nil => exact .refl s
  | cons a l ih => exact (h s a).trans (ih _)

theorem SameRows.ite {s a b : State} {c : Prop} [Decidable c] (ha : SameRows s a) (hb : SameRows s b) :
    SameRows s (if c then a else b) := by
  split
  · exact ha
  · exact hb

/-! ### Engines and encode sessions -/

@[simp] theorem State.escRequest_cnv (s : State) (kind i : Nat) (stop : Bool) : (s.escRequest kind i stop).cnv = s.cnv := by
  unfold State.escRequest
  dsimp only
  split <;> rfl

@[simp] theorem State.checkEngine_cnv (s : State) (src : Src) (kind i : Nat) : (s.checkEngine src kind i).cnv = s.cnv := by
  unfold State.checkEngine
  split
  · rename_i t ht
    rw [State.escRequest_cnv, State.latch_cnv, State.takeInject_cnv s _ _ t ht]
  · rfl

theorem State.canvasReady_cnv (s : State) (e : Nat) (im : Bytes) (k : Nat) : (s.canvasReady e im k).cnv = s.cnv := by
  unfold State.canvasReady
  dsimp only
  split <;> rfl

theorem sameRows_encTap (s : State) (im : Bytes) (k q : Nat) (lamps : List (List Nat)) : SameRows s (s.encTap im k q lamps) := by
  refine .foldl (fun t e => ?_) _ s
  dsimp only
  exact .ite (.refl t) (.ite (.refl t) (.ite (.of_cnv (State.canvasReady_cnv ..)) (.of_cnv rfl)))

/-! ### Reads of device memory -/

theorem State.memCorrected_cnv (s : State) (channel : Nat) : (s.memCorrected channel).cnv = s.cnv := State.latch_cnv ..

theorem State.memUncorrectable_cnv (s : State) (line channel port kind : Nat) :
    (s.memUncorrectable line channel port kind).cnv = s.cnv := by
  unfold State.memUncorrectable State.errLog
  rw [State.latch_cnv]
  dsimp only
  split <;> rfl

theorem State.eccCheck_cnv (s : State) (ce ue : Src) : (s.eccCheck ce ue).2.cnv = s.cnv := by
  unfold State.eccCheck
  dsimp only
  split
  · exact s.takeInject_cnv _ _ _ ‹_›
  · split
    · exact s.takeInject_cnv _ _ _ ‹_›
    · rfl

theorem State.eccFound_cnv (s : State) (line : Nat) (found : Ecc) : (s.eccFound line found).2.cnv = s.cnv := by
  unfold State.eccFound
  split
  · split
    · rfl
    · exact s.eccCheck_cnv ..
  · rfl

theorem State.readLine_cnv (s : State) (line port kind : Nat) (found : Ecc) : (s.readLine line port kind found).2.cnv = s.cnv := by
  have found_cnv : ((((s.readsAccepted (line * 64) 64).check .memSram).eccFound line found).2).cnv = s.cnv :=
    (State.eccFound_cnv ..).trans (State.check_cnv ..)
  unfold State.readLine
  split
  rename_i e t he
  rw [he] at found_cnv
  split
  · exact found_cnv
  · exact (State.memCorrected_cnv ..).trans found_cnv
  · exact (State.memUncorrectable_cnv ..).trans found_cnv

theorem State.biasRead_cnv (s : State) (a len : Nat) : (s.biasRead a len).cnv = s.cnv := by
  unfold State.biasRead
  dsimp only
  split
  · rfl
  · exact State.foldl_part (g := State.cnv) (fun t l => t.request_cnv _) _ _

theorem State.engineRead_cnv (s : State) (a len port : Nat) : (s.engineRead a len port).2.cnv = s.cnv := by
  have poisoned : ∀ (l : List Nat) (t : State),
      (l.foldl (fun s l => s.memUncorrectable l (s.lineChannel l) port 0) t).cnv = t.cnv := fun l t =>
    State.foldl_part (g := State.cnv) (fun _ _ => State.memUncorrectable_cnv ..) l t
  unfold State.engineRead
  split
  · rfl
  · split
    · rfl
    · dsimp only
      split
      · exact (State.readLine_cnv ..).trans ((poisoned _ _).trans (s.biasRead_cnv a len))
      · exact (poisoned _ _).trans (s.biasRead_cnv a len)

/-! ### The scan -/

theorem sameRows_endScan (s : State) (im : Bytes) (k : Nat) : SameRows s (s.endScan im k) := by
  have ended : ∀ (t : State) (x : Tab WinState),
      SameRows t (State.setFld { t with cnv := { t.cnv with scanning := false, wins := x } } Reg.CNV_STATUS_SCANNING 0 0).dropUnheld :=
    fun t x => by constructor <;> simp
  have overrun : ∀ (t : State) (args : List Nat), SameRows t
      (((t.count Reg.CNV_OVERRUN).latch .cnvOverrun).event Reg.CNV_EVQ_RING Reg.CNV_EVQ_EN 0x0702 Blk.cnv 0 args) :=
    fun t args => .of_cnv (by simp)
  exact .ite ((ended s _).trans (overrun _ _)) (ended s _)

/-- Row pair `q` of frame `k`, as the scan produces it (R151). -/
def State.scannedRow (s : State) (im : Bytes) (k q : Nat) : CanvasRp :=
  ⟨k, s.cnv.bank, q, (List.range (2 * Img.w im)).map fun i => s.lamp im (i % Img.w im) (2 * q + i / Img.w im)⟩

/-- The row pair is in the output buffer, and a credit for it issued. -/
def State.rowAppended (s : State) (im : Bytes) (k q : Nat) : State :=
  { s with cnv := { s.cnv with
    out := s.cnv.out ++ [s.scannedRow im k q], next := q + 1
    crIssued := wrap 64 (s.cnv.crIssued + 1), crOut := wrap 64 (s.cnv.crOut + 1) } }

/-- What follows once the row pair is in the buffer, lateness, credits for bands, checks, the tap and the end of the scan, leaves the
buffer alone. -/
theorem sameRows_produce (s : State) (im : Bytes) (k q : Nat) : SameRows (s.rowAppended im k q) (s.produce im k q) := by
  have late : ∀ (t : State) (n : Nat), SameRows t (if n = 0 then t
      else (t.count Reg.CNV_LATE_RP).setFld Reg.CNV_LATE_MAX 0 (max (t.fld Reg.CNV_LATE_MAX) (min n (2 ^ 32 - 1)))) := fun t _ =>
    .ite (.refl t) (.of_cnv rfl)
  have bad : ∀ (t : State) (l : List Nat), SameRows t
      (l.foldl (fun t n => (t.setPic n { t.pic n with badRef := true }).latch .rfsComp) t) := fun t l =>
    .foldl (fun _ _ => .of_cnv (by simp)) l t
  have credits : ∀ (t : State) (l : List Nat) (f : Nat → Nat), SameRows t (l.foldl (fun t n => t.returnBands n (f n)) t) := fun t l _ =>
    .foldl (fun _ _ => .of_cnv (by simp)) l t
  have tapped : ∀ (t : State) (lamps : List (List Nat)),
      SameRows t (((t.check .cnvSram).checkEngine .cnvDatapath 4 0).encTap im k q lamps) := fun t lamps =>
    SameRows.trans (.of_cnv (by simp)) (sameRows_encTap _ im k q lamps)
  have ended : ∀ t : State, SameRows t (if q + 1 = Img.nrp im then t.endScan im k else t) := fun t =>
    .ite (sameRows_endScan t im k) (.refl t)
  have placed : SameRows (s.rowAppended im k q) ((s.rowAppended im k q).setFld Reg.CNV_STATUS_ROW_PAIR 0 q) := .of_cnv rfl
  exact ((((placed.trans (late _ _)).trans (bad _ _)).trans (credits _ _ _)).trans (tapped _ _)).trans (ended _)

/-- A row pair that is due, picked up and has every band is produced, while the output buffer has room (R13, R164). -/
theorem State.rowPairStart_eq_produce {s : State} {b : Bool} {im : Bytes} (hscan : s.cnv.scanning = true) (hesc : s.escOk 4 0 = true)
    (htag : s.tagOf s.cnv.frame = some (b, im)) (hdue : s.scanTime im s.cnv.frame s.cnv.next ≤ s.now)
    (hpicked : s.pickedUp im s.cnv.frame s.cnv.next = true) (hbands : s.missingBands im s.cnv.next = []) (hroom : s.cnv.out.length < 4) :
    s.rowPairStart = State.produce { s with cnv := { s.cnv with slipped := [] } } im s.cnv.frame s.cnv.next := by
  have begun : (if s.pageEnabled Blk.cnv 0 ∧ s.escOk 4 0 then s.beginScan else s) = s := by
    split
    · exact if_pos (.inl hscan)
    · rfl
  unfold State.rowPairStart
  rw [begun]
  simp only [hscan, hesc, htag, Bool.and_self, hpicked, hbands, Nat.not_lt.2 hdue, Nat.not_le.2 hroom, Bool.not_true,
    Bool.false_eq_true, or_false, if_false, ne_eq, not_true_eq_false]

/-! ### The drive stage -/

theorem sameRows_gains (s : State) (e : Bytes) (k j : Nat) : SameRows s (s.gains e k j).2 := by
  have put : ∀ (t : State) (x : Tab DrvTile), SameRows t { t with cnv := { t.cnv with tiles := x } } :=
    fun _ _ => ⟨rfl, rfl, rfl, rfl⟩
  have counted : ∀ (t : State) (n v : Nat),
      SameRows t (State.setFld { t with cnv := { t.cnv with gmapBytes := n } } Reg.DRV_GMAP_KIB 0 v) := fun _ _ _ => ⟨rfl, rfl, rfl, rfl⟩
  have damaged : ∀ t : State, SameRows t ((t.count Reg.DRV_GMAP_ERRORS).latch .drvGmap) := fun t => .of_cnv (by simp)
  have read : ∀ a n, SameRows s (s.engineRead a n 11).2 := fun a n => .of_cnv (s.engineRead_cnv a n 11)
  unfold State.gains
  dsimp only
  split
  · exact put s _
  · split
    · split
      · exact ((read _ _).trans (counted _ _ _)).trans (put _ _)
      · exact (read _ _).trans (counted _ _ _)
    · split
      · exact (((read _ _).trans (counted _ _ _)).trans (put _ _)).trans (damaged _)
      · exact ((((read _ _).trans (counted _ _ _)).trans (put _ _)).trans (damaged _)).trans (.of_cnv (State.event_cnv ..))

theorem sameRows_driveLit (s : State) (im e : Bytes) (rp : CanvasRp) (j : Nat) : SameRows s (s.driveLit im e rp j) :=
  (sameRows_gains s e rp.frame j).trans ⟨rfl, rfl, rfl, rfl⟩

theorem State.openCirc_cnv (s : State) (im : Bytes) (k c : Nat) : (s.openCirc im k c).cnv = s.cnv := by
  unfold State.openCirc
  dsimp only
  split <;> rfl

theorem State.closeCirc_cnv (s : State) (c : Nat) : (s.closeCirc c).cnv = s.cnv := by
  unfold State.closeCirc State.fusEvent
  dsimp only
  split <;> split <;> simp

theorem State.rowOver_cnv (s : State) (c : Nat) : (s.rowOver c).cnv = s.cnv := by
  unfold State.rowOver
  dsimp only
  split
  · exact (State.closeCirc_cnv ..).trans (State.check_cnv ..)
  · exact State.check_cnv ..

theorem sameRows_driveTile (s : State) (im e : Bytes) (rp : CanvasRp) : SameRows s (s.driveTile im e rp) := by
  have opened : SameRows s (s.openCirc im rp.frame (Tile.circuit e)) := .of_cnv (s.openCirc_cnv ..)
  have marked : ∀ (t : State) (x : Tab DrvTile), SameRows t { t with cnv := { t.cnv with tiles := x } } :=
    fun _ _ => ⟨rfl, rfl, rfl, rfl⟩
  have lit : ∀ (t : State) (c : Prop) [Decidable c] (j : Nat), SameRows t (if c then t.driveLit im e rp j else t) := fun t _ _ j =>
    .ite (sameRows_driveLit t im e rp j) (.refl t)
  exact ((opened.trans (marked _ _)).trans (lit _ _ _)).trans (.of_cnv (State.rowOver_cnv ..))

/-- The circuits that no tile of the calibre names are opened with the first row pair of a frame. -/
def State.driveBegun (s : State) (im : Bytes) (rp : CanvasRp) : State :=
  if s.cnv.drvFrame ≠ some rp.frame ∧ Img.crossing im rp.q ≠ [] then
    (emptyCircuits s.variant im).foldl (fun t c => t.openCirc im rp.frame c)
      { s with cnv := { s.cnv with drvFrame := some rp.frame, drvLeft := ((Img.tiles im).map Tile.rps).sum } }
  else s

/-- The tiles that the row pair crosses have taken their part of it. -/
def State.driveTiles (s : State) (im : Bytes) (rp : CanvasRp) : State :=
  (Img.crossing im rp.q).foldl (fun t e => t.driveTile im e rp) (s.driveBegun im rp)

theorem sameRows_driveTiles (s : State) (im : Bytes) (rp : CanvasRp) : SameRows s (s.driveTiles im rp) := by
  have opened : ∀ (l : List Nat) (t : State), SameRows t (l.foldl (fun t c => t.openCirc im rp.frame c) t) :=
    .foldl fun t c => .of_cnv (t.openCirc_cnv im rp.frame c)
  have begun : SameRows s (s.driveBegun im rp) := by
    refine .ite (SameRows.trans ?_ (opened _ _)) (.refl s)
    exact ⟨rfl, rfl, rfl, rfl⟩
  exact begun.trans (.foldl (fun t e => sameRows_driveTile t im e rp) _ _)

/-- The row pair has left the output buffer, and its credit goes back. -/
def State.rowTaken (s : State) (im : Bytes) (rp : CanvasRp) (rest : List CanvasRp) : State :=
  let t := s.driveTiles im rp
  { t with cnv := { t.cnv with
    out := rest, drvLeft := (s.driveBegun im rp).cnv.drvLeft - (Img.crossing im rp.q).length
    crReturned := wrap 64 (t.cnv.crReturned + 1), crOut := wrap 64 (t.cnv.crOut + 2 ^ 64 - 1) } }

/-- After the last row pair of a frame the circuits that no tile names are closed. -/
def State.driveEnded (s : State) (im : Bytes) (rp : CanvasRp) (rest : List CanvasRp) : State :=
  if (s.driveBegun im rp).cnv.drvLeft - (Img.crossing im rp.q).length = 0 ∧ Img.crossing im rp.q ≠ [] then
    (emptyCircuits s.variant im).foldl (fun t c => t.closeCirc c) (s.rowTaken im rp rest)
  else s.rowTaken im rp rest

theorem State.driveRowPair_eq {s : State} {rp : CanvasRp} {rest : List CanvasRp} {b : Bool} {im : Bytes} (hout : s.cnv.out = rp :: rest)
    (htag : s.tagOf rp.frame = some (b, im))
    (hroom : ((Img.crossing im rp.q).any fun e => decide (4 ≤ (s.mzt (Tile.id e)).inq.length)) = false)
    (hfus : ((Img.crossing im rp.q).any fun e => !s.pageEnabled Blk.fus (Tile.circuit e / 128) &&
      !((s.circ (Tile.circuit e)).isOpen && (s.circ (Tile.circuit e)).frame == rp.frame)) = false)
    (hdrv : s.pageEnabled Blk.drv 0 = true) (hesc : s.escOk 5 0 = true) :
    s.driveRowPair = ((s.driveEnded im rp rest).check .drvSram).checkEngine .drvDatapath 5 0 := by
  unfold State.mzt at hroom
  unfold State.driveRowPair
  split
  · cases hout.symm.trans ‹_›
  · obtain ⟨rfl, rfl⟩ := List.cons.inj (hout.symm.trans ‹_›)
    split
    · cases htag.symm.trans ‹_›
    · obtain ⟨rfl, rfl⟩ := Prod.mk.inj (Option.some.inj (htag.symm.trans ‹_›))
      exact if_neg (by rw [hroom, hfus, hdrv, hesc]; decide)

theorem sameRows_driveEnded (s : State) (im : Bytes) (rp : CanvasRp) (rest : List CanvasRp) :
    SameRows (s.rowTaken im rp rest) (s.driveEnded im rp rest) :=
  .ite (.foldl (fun t c => .of_cnv (t.closeCirc_cnv c)) _ _) (.refl _)

/-- Settles O20: `pickedUp_pickup`, then what the scan appends (`rowAppended`) and what the drive stage takes (`rowTaken`), which
nothing later in the command changes. -/
theorem rowPairsScanAndDrive : Obligations.RowPairsScanAndDrive := by
  intro s hc
  refine ⟨fun w k b im hk hb => ?_, fun b im hscan hesc htag hdue hpicked hbands hroom _ => ?_,
    fun rp rest b im hout htag hroom hfus hdrv hesc => ?_⟩
  · have h := pickedUp_pickup hk hb
    exact Runs.of_run (f := fun s => s.pickup w) rfl hc rfl ⟨h.bound, h.out, h.others⟩
  · have h := sameRows_produce { s with cnv := { s.cnv with slipped := [] } } im s.cnv.frame s.cnv.next
    refine Runs.of_run (f := State.rowPairStart) rfl hc
      (State.rowPairStart_eq_produce hscan hesc htag hdue hpicked hbands hroom) ⟨?_, ?_, ?_, h.next, h.crIssued⟩
    all_goals rw [h.out]; simp [State.rowAppended, State.scannedRow]
  · have taken : SameRows (s.rowTaken im rp rest) (((s.driveEnded im rp rest).check .drvSram).checkEngine .drvDatapath 5 0) :=
      (sameRows_driveEnded s im rp rest).trans (.of_cnv (by simp))
    refine Runs.of_run (f := State.driveRowPair) rfl hc (State.driveRowPair_eq hout htag hroom hfus hdrv hesc)
      ⟨taken.out, taken.crReturned.trans ?_⟩
    show wrap 64 ((s.driveTiles im rp).cnv.crReturned + 1) = _
    rw [(sameRows_driveTiles s im rp).crReturned]
    rfl

end Sys2Proof.Machine
end

section
/-! PROOFS. The host link: L0, a change of speed, the loss of the link, early and bad accesses (02_host_attachment.md R28 to R30, R33,
R49, R50). -/

namespace Sys2Proof.Machine

/-- Of a state with another host attachment, one that differs from it in its registers alone. -/
theorem OnlyRegs.of_hst {s t : State} {h : HostSt} (ht : OnlyRegs { s with hst := h } t) :
    t.hst = h ∧ t = { s with hst := t.hst, regs := t.regs } := by
  unfold OnlyRegs at ht
  rw [ht]
  exact ⟨rfl, rfl⟩

/-- A mode of CXL is fixed only at a width and speed that CXL runs at (R28, R29). -/
theorem cxlShape_of_linkMode_le {hostMode speed width : Nat} (h : linkMode hostMode speed width ≤ 3) : cxlShape speed width = true := by
  unfold linkMode at h
  split at h
  · assumption
  · split at h <;> omega

theorem linkMode_lt {hostMode : Nat} (h : hostMode ≤ 5) (speed width : Nat) : linkMode hostMode speed width < 8 := by
  unfold linkMode
  split
  · omega
  · split <;> omega

/-- A link of Table 2.8 has a speed code of 3 bits and a width of 5 bits. -/
theorem bounds_of_linkShape {speed width : Nat} (h : linkShape speed width = true) : speed < 8 ∧ width < 32 := by
  simp [linkShape] at h
  omega

/-- The link that enters L0 first in a mode, and what the host's features in that mode show. -/
def State.firstL0 (s : State) (mode speed width : Nat) (flit256 cacheEn memEn : Bool) : State :=
  ((((State.enterL0 { s with hst := { s.hst with linkUp := true, modeFixed := true } } speed width).setFld
    Reg.HST_LINK_STATUS_MODE 0 mode).setFld Reg.HST_LINK_STATUS_FLIT256 0 (b2n (flit256 && mode == 1))).setFld
    Reg.HST_LINK_STATUS_CACHE_EN 0 (b2n (cacheEn && decide (mode ≤ 3)))).setFld
    Reg.HST_LINK_STATUS_MEM_EN 0 (b2n (memEn && decide (mode ≤ 3)))

theorem State.linkTrained_first {s : State} {hostMode speed width : Nat} (flit256 cacheEn memEn : Bool)
    (hphy : s.hst.phyReleased = true) (hperst : s.hst.perstN = true) (hdown : s.hst.linkUp = false) (hfixed : s.hst.modeFixed = false)
    (hshape : linkShape speed width = true) (hlanes : width ≤ s.hostLanes) (hlo : 1 ≤ hostMode) (hhi : hostMode ≤ 5) :
    s.linkTrained hostMode speed width flit256 cacheEn memEn =
      s.firstL0 (linkMode hostMode speed width) speed width flit256 cacheEn memEn := by
  have accepted : ¬(!s.hst.phyReleased ∨ !s.hst.perstN ∨ s.hst.linkUp ∨ !(linkShape speed width) ∨ s.hostLanes < width ∨
      hostMode = 0 ∨ 5 < hostMode) := by
    simp only [hphy, hperst, hdown, hshape]
    simp
    omega
  have qualifies : ¬(linkMode hostMode speed width ≤ 3 ∧ !(cxlShape speed width)) := fun ⟨hcxl, hnot⟩ => by
    simp [cxlShape_of_linkMode_le hcxl] at hnot
  unfold State.linkTrained
  rw [if_neg accepted, hfixed]
  exact if_neg qualifies

theorem State.linkRetrain_qualified {s : State} {speed width : Nat} (hup : s.hst.linkUp = true) (hshape : linkShape speed width = true)
    (hlanes : width ≤ s.hostLanes) (hqual : cxlShape speed width = true ∨ 3 < s.fld Reg.HST_LINK_STATUS_MODE) :
    s.linkRetrain speed width = s.enterL0 speed width := by
  have accepted : ¬(!s.hst.linkUp ∨ !(linkShape speed width) ∨ s.hostLanes < width) := by
    simpa [hup, hshape] using hlanes
  have qualifies : ¬(s.fld Reg.HST_LINK_STATUS_MODE ≤ 3 ∧ !(cxlShape speed width)) := by
    rintro ⟨hcxl, hnot⟩
    rcases hqual with h | h
    · simp [h] at hnot
    · omega
  exact (if_neg accepted).trans (if_neg qualifies)

theorem State.fld_enterL0 (s : State) {speed width : Nat} (h : linkShape speed width = true) :
    (s.enterL0 speed width).fld Reg.HST_LINK_STATUS_SPEED = speed ∧ (s.enterL0 speed width).fld Reg.HST_LINK_STATUS_WIDTH = width := by
  obtain ⟨hspeed, hwidth⟩ := bounds_of_linkShape h
  refine ⟨?_, (State.fld_setFld ..).trans (Nat.mod_eq_of_lt hwidth)⟩
  exact (State.fld_setFld_other _ _ (by decide) (by decide) (by decide)).trans ((State.fld_setFld ..).trans (Nat.mod_eq_of_lt hspeed))

/-- A field beside SPEED and WIDTH keeps its value when the link enters L0. -/
theorem State.fld_enterL0_other (s : State) (speed width : Nat) {f : Fld} (i : Nat) (hf : f.id < 1024)
    (hs : Reg.HST_LINK_STATUS_SPEED.id ≠ f.id) (hw : Reg.HST_LINK_STATUS_WIDTH.id ≠ f.id) : (s.enterL0 speed width).fld f i = s.fld f i :=
  (State.fld_setFld_other _ _ hw (by decide) hf).trans (State.fld_setFld_other _ _ hs (by decide) hf)

theorem State.onlyRegs_enterL0 (s : State) (speed width : Nat) : OnlyRegs s (s.enterL0 speed width) :=
  ((OnlyRegs.refl s).setFld _ _ _).setFld _ _ _

theorem State.onlyRegs_firstL0 (s : State) (mode speed width : Nat) (flit256 cacheEn memEn : Bool) :
    OnlyRegs { s with hst := { s.hst with linkUp := true, modeFixed := true } } (s.firstL0 mode speed width flit256 cacheEn memEn) :=
  ((((onlyRegs_enterL0 _ speed width).setFld _ _ _).setFld _ _ _).setFld _ _ _).setFld _ _ _

/-- What the first L0 shows of a field beside FLIT256, CACHE_EN and MEM_EN stands from when the mode was set. -/
theorem State.fld_firstL0 (s : State) (mode speed width : Nat) (flit256 cacheEn memEn : Bool) {f : Fld} (hf : f.id < 3) :
    (s.firstL0 mode speed width flit256 cacheEn memEn).fld f =
      ((State.enterL0 { s with hst := { s.hst with linkUp := true, modeFixed := true } } speed width).setFld
        Reg.HST_LINK_STATUS_MODE 0 mode).fld f := by
  unfold State.firstL0
  rw [State.fld_setFld_other _ _ _ (by decide) (by omega), State.fld_setFld_other _ _ _ (by decide) (by omega),
    State.fld_setFld_other _ _ _ (by decide) (by omega)]
  all_goals
    intro h
    rw [← h] at hf
    exact absurd hf (by decide)

theorem State.fld_firstL0_shape (s : State) (mode : Nat) {speed width : Nat} (flit256 cacheEn memEn : Bool)
    (h : linkShape speed width = true) :
    (s.firstL0 mode speed width flit256 cacheEn memEn).fld Reg.HST_LINK_STATUS_SPEED = speed ∧
    (s.firstL0 mode speed width flit256 cacheEn memEn).fld Reg.HST_LINK_STATUS_WIDTH = width := by
  obtain ⟨hspeed, hwidth⟩ := State.fld_enterL0 { s with hst := { s.hst with linkUp := true, modeFixed := true } } h
  constructor
  · exact (State.fld_firstL0 _ _ _ _ _ _ _ (by decide)).trans ((State.fld_setFld_other _ _ (by decide) (by decide) (by decide)).trans hspeed)
  · exact (State.fld_firstL0 _ _ _ _ _ _ _ (by decide)).trans ((State.fld_setFld_other _ _ (by decide) (by decide) (by decide)).trans hwidth)

theorem State.fld_firstL0_mode (s : State) {mode : Nat} (speed width : Nat) (flit256 cacheEn memEn : Bool) (h : mode < 8) :
    (s.firstL0 mode speed width flit256 cacheEn memEn).fld Reg.HST_LINK_STATUS_MODE = mode :=
  (State.fld_firstL0 _ _ _ _ _ _ _ (by decide)).trans ((State.fld_setFld ..).trans (Nat.mod_eq_of_lt h))

/-- The link is down and the dirty lines of the ring line cache are discarded (R50), before the latch. -/
def State.linkCut (s : State) : State :=
  { s with hst := { s.hst with linkUp := false, ccache := s.hst.ccache.filter fun e => !e.2.dirty } }

theorem State.linkLost_up {s : State} (hup : s.hst.linkUp = true) : s.linkLost = s.linkCut.latch .hstLinkdown :=
  if_neg (by simp [hup])

/-- An access that R33 does not allow latches HST.access, and a read of it answers zeros. -/
theorem State.badAccess_reached {s : State} (h : s.hostReaches = true) (write : Bool) :
    s.badAccess write = if write then s.latch .hstAccess else (s.latch .hstAccess).hostAnswer (List.replicate 8 0) false :=
  if_neg (by simp [h])

theorem runs_hostBadAccess {s : State} (hc : s.pwr.clocksStopped = false) (write : Bool) {bar : Nat} (offset : Nat)
    (hbar : bar = 0 ∨ bar = 2) (hreach : s.hostReaches = true) :
    Runs (.hostBadAccess write bar offset) s fun t => t.latched .hstAccess = true ∧ t.rng = s.rng ∧ t.mem = s.mem ∧
      (write = false → t.hst.lastRead = some (List.replicate 8 0, false)) := by
  refine Runs.of_run rfl hc ((if_pos hbar).trans (State.badAccess_reached hreach write)) ?_
  have latched := State.latched_latch s .hstAccess 0 (by decide)
  cases write
  · exact ⟨latched, s.latch_rng .hstAccess 0, s.latch_mem .hstAccess 0, fun _ => rfl⟩
  · exact ⟨latched, s.latch_rng .hstAccess 0, s.latch_mem .hstAccess 0, fun h => by cases h⟩

/-- Settles O7: the equation of each of the link's commands in the case that the clause names, read at the fields and parts it speaks of. -/
theorem hostLinkStates : Obligations.HostLinkStates := by
  intro s hc
  refine ⟨fun hostMode speed width flit256 cacheEn memEn hphy hperst hdown hfixed hshape hlanes hlo hhi => ?_,
    fun speed width hup hshape hlanes hqual => ?_, fun hup => ?_, ?_, fun write bar offset => runs_hostBadAccess hc write offset⟩
  · obtain ⟨hspeed, hwidth⟩ := s.fld_firstL0_shape (linkMode hostMode speed width) flit256 cacheEn memEn hshape
    obtain ⟨hhst, honly⟩ := (s.onlyRegs_firstL0 (linkMode hostMode speed width) speed width flit256 cacheEn memEn).of_hst
    exact Runs.of_run (f := fun s => s.linkTrained hostMode speed width flit256 cacheEn memEn) rfl hc
      (State.linkTrained_first flit256 cacheEn memEn hphy hperst hdown hfixed hshape hlanes hlo hhi)
      ⟨hhst, s.fld_firstL0_mode speed width flit256 cacheEn memEn (linkMode_lt hhi speed width), hspeed, hwidth, honly⟩
  · obtain ⟨hspeed, hwidth⟩ := s.fld_enterL0 hshape
    exact Runs.of_run (f := fun s => s.linkRetrain speed width) rfl hc (State.linkRetrain_qualified hup hshape hlanes hqual)
      ⟨hspeed, hwidth, s.fld_enterL0_other speed width 0 (by decide) (by decide) (by decide), s.onlyRegs_enterL0 speed width⟩
  · exact Runs.of_run rfl hc (State.linkLost_up hup)
      ⟨s.linkCut.latch_hst .hstLinkdown 0, s.linkCut.latched_latch .hstLinkdown 0 (by decide), s.linkCut.latch_mem .hstLinkdown 0,
        s.linkCut.latch_rng .hstLinkdown 0, s.linkCut.latch_dec .hstLinkdown 0⟩
  · exact Runs.of_run rfl hc rfl rfl

end Sys2Proof.Machine
end

section
/-! PROOFS. A line leaves the ring line cache, and a flush empties it (02_host_attachment.md R39, R41). -/

namespace Sys2Proof.Machine

/-- `t` is `s` but for the ring line cache, what the block has written to host memory and the last request to the host. -/
def CacheOnly (s t : State) : Prop :=
  t = { s with hst := { s.hst with ccache := t.hst.ccache, mem := t.hst.mem, lastReq := t.hst.lastReq } }

theorem CacheOnly.refl (s : State) : CacheOnly s s := rfl

theorem CacheOnly.trans {a b c : State} (h : CacheOnly a b) (k : CacheOnly b c) : CacheOnly a c := by
  unfold CacheOnly at *
  rw [k, h]

/-- `t` is `s` but for what the block has written to host memory and the last request to the host. -/
def HostWritten (s t : State) : Prop := t = { s with hst := { s.hst with mem := t.hst.mem, lastReq := t.hst.lastReq } }

theorem HostWritten.trans {a b c : State} (h : HostWritten a b) (k : HostWritten b c) : HostWritten a c := by
  unfold HostWritten at *
  rw [k, h]

theorem HostWritten.hst {s t : State} (h : HostWritten s t) :
    t.hst = { s.hst with mem := t.hst.mem, lastReq := t.hst.lastReq } :=
  congrArg State.hst h

theorem hostWritten_hostPut (s : State) (k : ReqKind) (a : Nat) (bs : Bytes) (t : Option Nat) : HostWritten s (s.hostPut k a bs t) := rfl

theorem hostWritten_writeBack (s : State) (line : Nat) (c : CacheLine) : HostWritten s (s.writeBack line c) := by
  unfold State.writeBack
  split
  · rfl
  · dsimp only
    cases c.lo <;> cases c.hi <;> dsimp only
    · rfl
    · exact hostWritten_hostPut ..
    · exact hostWritten_hostPut ..
    · exact (hostWritten_hostPut ..).trans (hostWritten_hostPut ..)

theorem Tab.del_of_find?_eq_none {α : Type} {t : Tab α} {k : Nat} (h : t.find? (·.1 == k) = none) : Tab.del t k = t := by
  rw [List.find?_eq_none] at h
  exact List.filter_eq_self.2 fun e he => by simpa using h e he

/-- Whether or not the cache holds the line, afterwards it does not; the other lines stay. -/
theorem cacheOnly_dropLine (s : State) (line : Nat) :
    CacheOnly s (s.dropLine line) ∧ (s.dropLine line).hst.ccache = Tab.del s.hst.ccache line := by
  unfold State.dropLine
  split
  · rename_i e _
    have written := hostWritten_writeBack s line e.2
    have cached : (s.writeBack line e.2).hst.ccache = s.hst.ccache := by rw [written.hst]
    refine ⟨?_, congrArg (Tab.del · line) cached⟩
    unfold HostWritten at written
    unfold CacheOnly
    rw [written]
  · rename_i hnone
    exact ⟨.refl s, (Tab.del_of_find?_eq_none hnone).symm⟩

theorem cacheOnly_foldl_dropLine (l : Tab CacheLine) (s : State) :
    CacheOnly s (l.foldl (fun t e => t.dropLine e.1) s) ∧
    (l.foldl (fun t e => t.dropLine e.1) s).hst.ccache = s.hst.ccache.filter fun x => l.all fun e => x.1 != e.1 := by
  induction l generalizing s with
  | nil => exact ⟨.refl s, by simp⟩
  | cons e l ih =>
    obtain ⟨hdrop, hcache⟩ := cacheOnly_dropLine s e.1
    obtain ⟨hrest, hleft⟩ := ih (s.dropLine e.1)
    refine ⟨hdrop.trans hrest, ?_⟩
    rw [List.foldl_cons, hleft, hcache, Tab.del, List.filter_filter]
    exact List.filter_congr fun x _ => by rw [List.all_cons, Bool.and_comm]

/-- Dropping every line of the cache leaves none. -/
theorem ccache_dropLine_all (s : State) : (s.hst.ccache.foldl (fun t e => t.dropLine e.1) s).hst.ccache = [] := by
  rw [(cacheOnly_foldl_dropLine s.hst.ccache s).2, List.filter_eq_nil_iff]
  intro x hx hall
  simpa using List.all_eq_true.1 hall x hx

end Sys2Proof.Machine
end

section
/-! PROOFS. The host registers: windows, carve-out, decoders, line cache, tenants, doorbell groups and MSI-X (02_host_attachment.md R31,
R36, R37, R41, R44 to R46). -/

namespace Sys2Proof.Machine

/-! ### Register writes of the host -/

/-- A written value without reserved bits above its low `k` is less than `2 ^ k`. -/
theorem toNat_lt_of_rsvBits {v : Word} {k : Nat} (h : rsvBits v (2 ^ k - 1) = 0) : v.toNat < 2 ^ k := by
  by_contra hge
  obtain ⟨i, hi, hset⟩ := Nat.exists_ge_and_testBit_of_ge_two_pow (Nat.le_of_not_lt hge)
  have hlt : i < 32 := by
    by_contra hi32
    rw [Nat.testBit_eq_false_of_lt (Nat.lt_of_lt_of_le v.isLt (Nat.pow_le_pow_right (by decide) (Nat.le_of_not_lt hi32)))] at hset
    cases hset
  have hmask : (0xFFFFFFFF ^^^ (2 ^ k - 1)).testBit i = true := by
    rw [Nat.testBit_xor, show (0xFFFFFFFF : Nat) = 2 ^ 32 - 1 from rfl, Nat.testBit_two_pow_sub_one, Nat.testBit_two_pow_sub_one]
    simp [hlt, hi]
  have hand : (rsvBits v (2 ^ k - 1)).testBit i = true := by
    rw [rsvBits, Nat.testBit_and, hset, hmask]
    rfl
  rw [h] at hand
  simp at hand

/-- A register write of the host that reaches the HST page and sets no reserved bit does what its register does. -/
theorem Runs.of_hostCmd {c : Instr} {s t : State} {rsv : Nat} {f : State → State} {P : State → Prop}
    (hexec : exec c s = s.run fun s => s.hostCmd Blk.hst 0 rsv f) (hc : s.pwr.clocksStopped = false)
    (hopen : s.hostPageOpen Blk.hst 0 = true) (hrsv : rsv = 0) (ht : f s = t) (h : P t) : Runs c s P := by
  subst hrsv
  exact Runs.of_run hexec hc ((State.hostCmd_open (by decide) hopen f).trans ht) h

/-! ### Windows and carve-out (R36, R37) -/

theorem runs_winBaseWrite {s : State} (hc : s.pwr.clocksStopped = false) (hopen : s.hostPageOpen Blk.hst 0 = true) {a : Nat} {v : Word}
    (ha : a < 4) (hv : rsvBits v 0xF = 0) :
    Runs (.winBaseWrite a v) s fun t => t.fld Reg.HST_WIN_BASE_BASE a = v.toNat ∧ t = { s with regs := t.regs } ∧
      ∀ b, b ≠ a → t.fld Reg.HST_WIN_BASE_BASE b = s.fld Reg.HST_WIN_BASE_BASE b := by
  have hlt : v.toNat < 16 := toNat_lt_of_rsvBits (k := 4) hv
  have taken : bits v.toNat 3 0 = v.toNat := by unfold bits; omega
  refine Runs.of_hostCmd rfl hc hopen hv (if_pos ha) ⟨?_, rfl, fun b hb => State.fld_setFld_index _ _ _ (Ne.symm hb)⟩
  rw [State.fld_setFld, taken]
  exact Nat.mod_eq_of_lt hlt

theorem runs_hostSizeWrite_free {s : State} (hc : s.pwr.clocksStopped = false) (hopen : s.hostPageOpen Blk.hst 0 = true) {v : Word}
    (hv : rsvBits v 0xFFF = 0) (hhdm : s.hst.hdm = []) :
    Runs (.hostSizeWrite v) s fun t => t.fld Reg.HST_HDM_CARVE_HOST_SIZE = v.toNat ∧ t = { s with regs := t.regs } := by
  have hlt : v.toNat < 4096 := toNat_lt_of_rsvBits (k := 12) hv
  have taken : bits v.toNat 11 0 = v.toNat := by unfold bits; omega
  refine Runs.of_hostCmd rfl hc hopen hv (if_pos (by rw [hhdm]; rfl)) ⟨?_, rfl⟩
  rw [State.fld_setFld, taken]
  exact Nat.mod_eq_of_lt hlt

theorem runs_hostSizeWrite_committed {s : State} (hc : s.pwr.clocksStopped = false) (hopen : s.hostPageOpen Blk.hst 0 = true) {v : Word}
    (hv : rsvBits v 0xFFF = 0) (hhdm : s.hst.hdm ≠ []) :
    Runs (.hostSizeWrite v) s fun t =>
      t.latched .hstBusy = true ∧ t.fld Reg.HST_HDM_CARVE_HOST_SIZE = s.fld Reg.HST_HDM_CARVE_HOST_SIZE :=
  Runs.of_hostCmd rfl hc hopen hv (if_neg (by simpa using hhdm))
    ⟨State.latched_latch s .hstBusy 0 (by decide), State.fld_latch s .hstBusy 0 (by decide) (by decide)⟩

theorem runs_hdmDecoderCommit {s : State} (hc : s.pwr.clocksStopped = false) {d first size : Nat} (biEnable : Bool) (hd : d < 2)
    (hreach : s.hostReaches = true) (hlo : 1 ≤ s.fld Reg.HST_LINK_STATUS_MODE) (hhi : s.fld Reg.HST_LINK_STATUS_MODE ≤ 3)
    (hfit : first + size ≤ s.fld Reg.HST_HDM_CARVE_HOST_SIZE) :
    Runs (.hdmDecoderCommit ⟨d, first, size⟩ biEnable) s fun t =>
      Tab.has t.hst.hdm d = true ∧
      Tab.get ⟨false, 0, 0⟩ t.hst.hdm d = ⟨biEnable && s.fld Reg.HST_LINK_STATUS_MODE == 1, first, size⟩ ∧
      t.fld Reg.HST_LINK_STATUS_HDM_DB = b2n t.hdmDb := by
  have accepted : ¬(2 ≤ d ∨ !s.hostReaches ∨ s.fld Reg.HST_LINK_STATUS_MODE = 0 ∨ 3 < s.fld Reg.HST_LINK_STATUS_MODE ∨
      s.fld Reg.HST_HDM_CARVE_HOST_SIZE < first + size) := by
    rw [hreach]
    simp
    omega
  refine Runs.of_run (f := fun s => s.hdmCommit d first size biEnable) rfl hc (if_neg accepted)
    ⟨Tab.has_set_same .., Tab.get_set_same .., ?_⟩
  refine (State.fld_setFld ..).trans (Nat.mod_eq_of_lt ?_)
  unfold b2n
  split <;> decide

/-! ### The ring line cache (R41) -/

theorem runs_ccacheFlush {s : State} (hc : s.pwr.clocksStopped = false) (hopen : s.hostPageOpen Blk.hst 0 = true) {v : Word}
    (hflush : bit v.toNat 1 = true) (hv : rsvBits v 3 = 0) :
    Runs (.ccacheFlush v) s fun t => t.fld Reg.HST_CCACHE_STATUS_FLUSH_BUSY = 1 ∧ t.hst = { s.hst with flushing := true } ∧
      t.fld Reg.HST_CCACHE_CTL_ENABLE = v.toNat % 2 := by
  refine Runs.of_hostCmd rfl hc hopen hv (if_pos hflush) ⟨State.fld_setFld .., rfl, ?_⟩
  have enable : (s.setFld Reg.HST_CCACHE_CTL_ENABLE 0 (bits v.toNat 0 0)).fld Reg.HST_CCACHE_CTL_ENABLE = v.toNat % 2 := by
    rw [State.fld_setFld]
    simp [bits, Reg.HST_CCACHE_CTL_ENABLE]
  exact (State.fld_setFld_other _ _ (by decide) (by decide) (by decide)).trans enable

theorem runs_ccacheFlushDone {s : State} (hc : s.pwr.clocksStopped = false) (hflushing : s.hst.flushing = true) :
    Runs .ccacheFlushDone s fun t =>
      t.hst.flushing = false ∧ t.hst.ccache = [] ∧ t.fld Reg.HST_CCACHE_STATUS_FLUSH_BUSY = 0 ∧
      t = { s with hst := t.hst, regs := t.regs } := by
  refine Runs.of_run rfl hc (if_pos hflushing) ⟨rfl, ccache_dropLine_all s, State.fld_setFld .., ?_⟩
  have only := (cacheOnly_foldl_dropLine s.hst.ccache s).1
  unfold CacheOnly at only
  dsimp only
  rw [only]
  rfl

/-! ### Tenants (R44) -/

/-- The fields that every write of HST_TENANTn takes. -/
def State.tenantFields (s : State) (n v : Nat) : State :=
  (s.setFld Reg.HST_TENANT_PASID n (bits v 19 0)).setFld Reg.HST_TENANT_PASID_EN n (bits v 20 20)

theorem State.tenantWrite_enable {s : State} {n v : Nat} (hn : n < 64) (hv : bit v 31 = true) (hold : s.flag Reg.HST_TENANT_VALID n = false) :
    s.tenantWrite n v =
      ((s.tenantFields n v).setFld Reg.HST_TENANT_ABI n (abiLevel (s.fld Reg.HST_TENANT_ABI_OFFER n))).setFld Reg.HST_TENANT_VALID n
        (b2n (abiLevel (s.fld Reg.HST_TENANT_ABI_OFFER n) != 0)) := by
  unfold State.tenantWrite
  rw [if_neg (by omega), hv, hold]
  rfl

theorem State.tenantWrite_disable {s : State} {n v : Nat} (hn : n < 64) (hv : bit v 31 = false) :
    s.tenantWrite n v = (s.tenantFields n v).setFld Reg.HST_TENANT_VALID n 0 := by
  unfold State.tenantWrite
  rw [if_neg (by omega), hv]
  rfl

theorem abiLevel_lt (offer : Nat) : abiLevel offer < 8 := by
  unfold abiLevel
  split
  · omega
  · split <;> omega

/-- A tenant whose offer shares no level with B0's stays invalid. -/
theorem b2n_abiLevel_ne_zero (offer : Nat) : b2n (abiLevel offer != 0) % 2 = 1 ↔ bit offer 1 = true ∨ bit offer 2 = true := by
  unfold abiLevel
  cases bit offer 1 <;> cases bit offer 2 <;> decide

theorem runs_tenantEnable {s : State} (hc : s.pwr.clocksStopped = false) (hopen : s.hostPageOpen Blk.hst 0 = true) {n : Nat} {v : Word}
    (hn : n < 64) (hvalid : bit v.toNat 31 = true) (hv : rsvBits v 0x871FFFFF = 0) (hold : s.flag Reg.HST_TENANT_VALID n = false) :
    Runs (.tenantEnable n v) s fun t =>
      t.fld Reg.HST_TENANT_ABI n = abiLevel (s.fld Reg.HST_TENANT_ABI_OFFER n) ∧
      (t.fld Reg.HST_TENANT_VALID n = 1 ↔
        bit (s.fld Reg.HST_TENANT_ABI_OFFER n) 1 = true ∨ bit (s.fld Reg.HST_TENANT_ABI_OFFER n) 2 = true) ∧
      t.fld Reg.HST_TENANT_PASID n = v.toNat % 1048576 := by
  refine Runs.of_hostCmd rfl hc hopen hv (State.tenantWrite_enable hn hvalid hold) ⟨?_, ?_, ?_⟩
  · rw [State.fld_setFld_other _ _ (by decide) (by decide) (by decide), State.fld_setFld]
    exact Nat.mod_eq_of_lt (abiLevel_lt _)
  · rw [State.fld_setFld]
    exact b2n_abiLevel_ne_zero _
  · rw [State.fld_setFld_other _ _ (by decide) (by decide) (by decide), State.fld_setFld_other _ _ (by decide) (by decide) (by decide)]
    refine (State.fld_setFld_other _ _ (by decide) (by decide) (by decide)).trans ((State.fld_setFld ..).trans ?_)
    simp [bits, Reg.HST_TENANT_PASID]

theorem runs_tenantDisable {s : State} (hc : s.pwr.clocksStopped = false) (hopen : s.hostPageOpen Blk.hst 0 = true) {n : Nat} {v : Word}
    (hn : n < 64) (hvalid : bit v.toNat 31 = false) (hv : rsvBits v 0x871FFFFF = 0) :
    Runs (.tenantDisable n v) s fun t =>
      t.fld Reg.HST_TENANT_VALID n = 0 ∧ t.fld Reg.HST_TENANT_ABI n = s.fld Reg.HST_TENANT_ABI n := by
  refine Runs.of_hostCmd rfl hc hopen hv (State.tenantWrite_disable hn hvalid) ⟨State.fld_setFld .., ?_⟩
  rw [State.fld_setFld_other _ _ (by decide) (by decide) (by decide)]
  exact (State.fld_setFld_other _ _ (by decide) (by decide) (by decide)).trans
    (State.fld_setFld_other _ _ (by decide) (by decide) (by decide))

/-! ### Doorbell groups (R45) -/

/-- The owner of group `g` reads the same in `t` as in `s`, and so do the rings. -/
structure SameOwner (g : Nat) (s t : State) : Prop where
  variant : t.variant = s.variant
  rng : t.rng = s.rng
  tenant : t.fld Reg.HST_DBGRP_OWNER_TENANT g = s.fld Reg.HST_DBGRP_OWNER_TENANT g
  valid : t.fld Reg.HST_DBGRP_OWNER_VALID g = s.fld Reg.HST_DBGRP_OWNER_VALID g

theorem SameOwner.refl (g : Nat) (s : State) : SameOwner g s s := ⟨rfl, rfl, rfl, rfl⟩

theorem SameOwner.trans {g : Nat} {a b c : State} (h : SameOwner g a b) (k : SameOwner g b c) : SameOwner g a c :=
  ⟨k.variant.trans h.variant, k.rng.trans h.rng, k.tenant.trans h.tenant, k.valid.trans h.valid⟩

theorem sameOwner_latch (g : Nat) (s : State) (src : Src) (i : Nat) : SameOwner g s (s.latch src i) :=
  ⟨s.latch_variant src i, s.latch_rng src i, s.fld_latch src i (by decide) (by decide), s.fld_latch src i (by decide) (by decide)⟩

/-- The entry of another group leaves the owner of group `g` alone, whatever is written to it. -/
theorem sameOwner_ownerEntry {g h : Nat} (hne : h ≠ g) (s : State) (b : Nat) : SameOwner g s (s.ownerEntry h b) := by
  unfold State.ownerEntry
  dsimp only
  split
  · split
    · exact .refl g s
    · exact sameOwner_latch g s _ _
  · split
    · exact .refl g s
    · split
      · exact sameOwner_latch g s _ _
      · refine ⟨rfl, rfl, ?_, ?_⟩
        · rw [State.fld_setFld_other _ _ (by decide) (by decide) (by decide), State.fld_setFld_index _ _ _ hne]
        · rw [State.fld_setFld_index _ _ _ hne, State.fld_setFld_other _ _ (by decide) (by decide) (by decide)]

/-- An unowned group without an enabled ring takes its owner. -/
theorem State.ownerEntry_assign {s : State} {g tenant : Nat} (hg : g < s.variant.groups) (ht : tenant < 64)
    (hrings : (List.range 32).any (fun i => (s.ring (32 * g + i)).enable) = false)
    (hvalid : s.fld Reg.HST_DBGRP_OWNER_VALID g = 0) (htenant : s.fld Reg.HST_DBGRP_OWNER_TENANT g = 0) :
    s.ownerEntry g (128 + tenant) = (s.setFld Reg.HST_DBGRP_OWNER_TENANT g tenant).setFld Reg.HST_DBGRP_OWNER_VALID g 1 := by
  have hlow : bits (128 + tenant) 5 0 = tenant := by unfold bits; omega
  have hhigh : bits (128 + tenant) 7 7 = 1 := by unfold bits; omega
  unfold State.ownerEntry
  rw [hvalid, htenant, hlow, hhigh, if_neg (by omega), if_neg (by omega), hrings]
  rfl

/-- A word without reserved bits sets the owner of the highest of its four groups, 4w + 3, which is unowned and has no enabled ring. -/
theorem State.ownerWrite_last {s : State} {w v tenant : Nat} (hg : 4 * w + 3 < s.variant.groups) (ht : tenant < 64)
    (hv : bits v 31 24 = 128 + tenant) (hrsv : ((List.range 4).any fun h => bit v (8 * h + 6)) = false)
    (hrings : (List.range 32).any (fun i => (s.ring (32 * (4 * w + 3) + i)).enable) = false)
    (hvalid : s.fld Reg.HST_DBGRP_OWNER_VALID (4 * w + 3) = 0) (htenant : s.fld Reg.HST_DBGRP_OWNER_TENANT (4 * w + 3) = 0) :
    (s.ownerWrite w v).fld Reg.HST_DBGRP_OWNER_VALID (4 * w + 3) = 1 ∧
    (s.ownerWrite w v).fld Reg.HST_DBGRP_OWNER_TENANT (4 * w + 3) = tenant := by
  have hgroups : s.variant.groups ≤ 256 := by cases s.variant <;> decide
  obtain ⟨u, same, hu⟩ : ∃ u, SameOwner (4 * w + 3) s u ∧ s.ownerWrite w v = u.ownerEntry (4 * w + 3) (128 + tenant) := by
    refine ⟨(List.range 3).foldl (fun t h => t.ownerEntry (4 * w + h) (bits v (8 * h + 7) (8 * h))) s, ?_, ?_⟩
    · exact List.foldlRecOn _ _ (SameOwner.refl _ s) fun t ht h hh =>
        ht.trans (sameOwner_ownerEntry (by have := List.mem_range.1 hh; omega) t _)
    · unfold State.ownerWrite
      rw [if_neg (by omega), hrsv, ← hv]
      rfl
  have hring : (List.range 32).any (fun i => (u.ring (32 * (4 * w + 3) + i)).enable) = false := by
    unfold State.ring at hrings ⊢
    rw [same.rng]
    exact hrings
  rw [hu, State.ownerEntry_assign (by rw [same.variant]; exact hg) ht hring (same.valid.trans hvalid) (same.tenant.trans htenant)]
  refine ⟨State.fld_setFld .., ?_⟩
  rw [State.fld_setFld_other _ _ (by decide) (by decide) (by decide), State.fld_setFld]
  exact Nat.mod_eq_of_lt ht

theorem runs_dbgrpOwnerWrite {s : State} (hc : s.pwr.clocksStopped = false) (hopen : s.hostPageOpen Blk.hst 0 = true) {g tenant : Nat}
    (hg : g < s.variant.groups) (hlast : g % 4 = 3) (ht : tenant < 64)
    (hrings : (List.range 32).any (fun i => (s.ring (32 * g + i)).enable) = false)
    (hvalid : s.fld Reg.HST_DBGRP_OWNER_VALID g = 0) (htenant : s.fld Reg.HST_DBGRP_OWNER_TENANT g = 0) :
    Runs (.dbgrpOwnerWrite (g / 4) (BitVec.ofNat 32 (16777216 * (128 + tenant)))) s fun t =>
      t.fld Reg.HST_DBGRP_OWNER_VALID g = 1 ∧ t.fld Reg.HST_DBGRP_OWNER_TENANT g = tenant := by
  have hword : (BitVec.ofNat 32 (16777216 * (128 + tenant))).toNat = 16777216 * (128 + tenant) :=
    (BitVec.toNat_ofNat ..).trans (Nat.mod_eq_of_lt (by omega))
  have hbyte : bits (16777216 * (128 + tenant)) 31 24 = 128 + tenant := by unfold bits; omega
  have hrsv : ((List.range 4).any fun h => bit (16777216 * (128 + tenant)) (8 * h + 6)) = false := by
    simp [List.range_succ, bit]
    omega
  obtain ⟨w, rfl⟩ : ∃ w, g = 4 * w + 3 := ⟨g / 4, by omega⟩
  have hw : (4 * w + 3) / 4 = w := by omega
  rw [hw]
  refine Runs.of_hostCmd rfl hc hopen rfl rfl ?_
  rw [hword]
  exact State.ownerWrite_last hg ht hbyte hrsv hrings hvalid htenant

/-! ### MSI-X (R46) -/

/-- The message of a vector is sent where its PBA bit is set and neither mask holds it. -/
theorem State.vec_sendPending (s : State) (v : Nat) :
    (s.sendPending v).vec v =
      if (s.vec v).pba && !(s.vec v).masked && !s.hst.fnMasked then { s.vec v with pba := false, sent := (s.vec v).sent + 1 }
      else s.vec v := by
  unfold State.sendPending
  dsimp only
  split
  · exact State.vec_setVec ..
  · rfl

theorem State.sendPending_fnMasked (s : State) (v : Nat) : (s.sendPending v).hst.fnMasked = s.hst.fnMasked := by
  unfold State.sendPending
  dsimp only
  split <;> rfl

theorem State.fnMask_fnMasked (s : State) (m : Bool) : (s.fnMask m).hst.fnMasked = m := by
  unfold State.fnMask
  dsimp only
  split
  · rfl
  · exact State.foldl_part (g := fun t => t.hst.fnMasked) State.sendPending_fnMasked _ _

theorem State.vec_unmask (s : State) {v : Nat} (hv : v < 2048) :
    ((s.unmask v).vec v).masked = false ∧ ((s.unmask v).vec v).pba = ((s.vec v).pba && s.hst.fnMasked) ∧
    ((s.unmask v).vec v).sent = (s.vec v).sent + (if (s.vec v).pba && !s.hst.fnMasked then 1 else 0) := by
  unfold State.unmask
  rw [if_neg (by omega), State.vec_sendPending, State.vec_setVec]
  change _ ∧ _ = ((s.vec v).pba && (s.setVec v { s.vec v with masked := false }).hst.fnMasked) ∧
    _ = _ + if (s.vec v).pba && !(s.setVec v { s.vec v with masked := false }).hst.fnMasked then 1 else 0
  cases hpba : (s.vec v).pba <;> cases (s.setVec v { s.vec v with masked := false }).hst.fnMasked <;> simp [hpba]

theorem runs_msixUnmask_vector {s : State} (hc : s.pwr.clocksStopped = false) (hreach : s.hostReaches = true) {v : Nat} (hv : v < 2048) :
    Runs (.msixUnmask (.vector v)) s fun t =>
      (t.vec v).masked = false ∧ (t.vec v).pba = ((s.vec v).pba && s.hst.fnMasked) ∧
      (t.vec v).sent = (s.vec v).sent + (if (s.vec v).pba && !s.hst.fnMasked then 1 else 0) :=
  Runs.of_run (f := fun s => if !s.hostReaches then s else s.unmask v) rfl hc (if_neg (by simp [hreach])) (s.vec_unmask hv)

theorem runs_msixUnmask_function {s : State} (hc : s.pwr.clocksStopped = false) (hreach : s.hostReaches = true) (m : Bool) :
    Runs (.msixUnmask (.function m)) s fun t => t.hst.fnMasked = m :=
  Runs.of_run (f := fun s => if !s.hostReaches then s else s.fnMask m) rfl hc (if_neg (by simp [hreach])) (s.fnMask_fnMasked m)

/-- Settles O9: one lemma for each register above. -/
theorem hostRegisters : Obligations.HostRegisters := fun _ hc =>
  ⟨fun hopen => ⟨fun _ _ => runs_winBaseWrite hc hopen,
      fun _ hv => ⟨runs_hostSizeWrite_free hc hopen hv, runs_hostSizeWrite_committed hc hopen hv⟩,
      fun _ => runs_ccacheFlush hc hopen, fun _ _ => runs_tenantEnable hc hopen, fun _ _ => runs_tenantDisable hc hopen,
      fun _ _ => runs_dbgrpOwnerWrite hc hopen⟩,
    fun _ _ _ biEnable => runs_hdmDecoderCommit hc biEnable, runs_ccacheFlushDone hc,
    fun hreach => ⟨fun _ => runs_msixUnmask_vector hc hreach, runs_msixUnmask_function hc hreach⟩⟩

end Sys2Proof.Machine
end

section
/-! PROOFS. Doorbells (03_rings_and_jobs.md R53, R56, R440; 02_host_attachment.md R34). -/

namespace Sys2Proof.Machine

/-- With no error armed for the duplicate indices, an access to a ring does what it is for (R67). -/
theorem State.ringAccess_of_isNone {s : State} {r : Nat} (h : (s.takeInject .rngPtr (r / 32)).isNone = true) (f : State → State) :
    s.ringAccess r f = f s := by
  unfold State.ringAccess
  rw [Option.isNone_iff_eq_none.1 h]

/-- An index that is `d` behind another, modulo 2 ^ 32, reaches it in `d` steps. -/
theorem wrap_add_behind {v i : Nat} (hv : v < 4294967296) (hi : i < 4294967296) :
    wrap 32 (i + (v + 4294967296 - i) % 4294967296) = v := by
  unfold wrap
  omega

/-- A ring on which items are committed at once and fit: none is overwritten (R53). -/
theorem Ring.coverItems_of_fits {x : Ring} {v : Nat} (hv : v < 4294967296) (hpi : x.pi < 4294967296) (hci : x.ci < 4294967296)
    (hlost : x.lost < 18446744073709551616) (hfits : (v + 4294967296 - x.ci) % 4294967296 ≤ x.size) :
    x.coverItems ((v + 4294967296 - x.pi) % 4294967296) =
      { x with
        pi := v
        count := x.count + (v + 4294967296 - x.pi) % 4294967296
        produced := (x.produced + (v + 4294967296 - x.pi) % 4294967296) % 18446744073709551616 } := by
  have none_over : (v + 2 ^ 32 - x.ci) % 2 ^ 32 - x.size = 0 := Nat.sub_eq_zero_of_le hfits
  unfold Ring.coverItems
  rw [wrap_add_behind hv hpi]
  simp only [Ring.span, Ring.size] at none_over ⊢
  rw [none_over]
  simp [wrap, Nat.mod_eq_of_lt hci, Nat.mod_eq_of_lt hlost]

theorem State.doorbellPi_command {s : State} {r v : Nat} (entries : List Bytes) (hreach : s.hostReaches = true)
    (hinj : (s.takeInject .rngPtr (r / 32)).isNone = true) (hok : s.doorbellOk r = true) (hen : (s.ring r).enable = true)
    (hhalt : (s.ring r).halted = false) (hstop : (s.ring r).stopped = false) (hcls : (s.ring r).cls = 1)
    (hahead : (v + 4294967296 - (s.ring r).pi) % 4294967296 < 2147483648) :
    s.doorbellPi r v entries = s.setRing r ((s.ring r).coverItems ((v + 4294967296 - (s.ring r).pi) % 4294967296)) := by
  have taken : ¬(!(s.ring r).enable ∨ (s.ring r).halted ∨ (s.ring r).stopped ∨ (s.ring r).cls = 0 ∨ (s.ring r).deviceProduced) := by
    simp [hen, hhalt, hstop, hcls, Ring.deviceProduced]
  have noStream : ¬(s.ring r).feedsStream := by simp [Ring.feedsStream, hcls]
  have noOutput : ¬(s.ring r).cls = 3 := by omega
  unfold State.doorbellPi
  dsimp only
  rw [if_neg (by simp [hreach]), if_neg (by simp [hok]), if_neg taken, State.ringAccess_of_isNone hinj]
  exact (if_neg (Nat.not_le_of_lt hahead)).trans ((if_neg noStream).trans (if_neg noOutput))

section
variable {s : State} {r v : Nat} (hreach : s.hostReaches = true) (hinj : (s.takeInject .rngPtr (r / 32)).isNone = true)
  (hok : s.doorbellOk r = true) (hen : (s.ring r).enable = true) (hhalt : (s.ring r).halted = false)
  (hdev : (s.ring r).deviceProduced = true)
include hreach hinj hok hen hhalt hdev

theorem State.doorbellCi_within (hwithin : (v + 4294967296 - (s.ring r).ci) % 4294967296 ≤ (s.ring r).count) :
    s.doorbellCi r v =
      s.setRing r { s.ring r with
        ci := wrap 32 ((s.ring r).ci + (v + 4294967296 - (s.ring r).ci) % 4294967296)
        count := (s.ring r).count - (v + 4294967296 - (s.ring r).ci) % 4294967296
        consumed := wrap 64 ((s.ring r).consumed + (v + 4294967296 - (s.ring r).ci) % 4294967296)
        devPkts := trimPkts ((v + 4294967296 - (s.ring r).ci) % 4294967296) (s.ring r).devPkts } := by
  unfold State.doorbellCi
  dsimp only
  rw [if_neg (by simp [hreach]), if_neg (by simp [hok]), if_neg (by simp [hen, hhalt, hdev]), State.ringAccess_of_isNone hinj]
  exact if_pos hwithin

theorem State.doorbellCi_past (hpast : (s.ring r).count < (v + 4294967296 - (s.ring r).ci) % 4294967296)
    (hahead : (v + 4294967296 - (s.ring r).ci) % 4294967296 < 2147483648) :
    s.doorbellCi r v =
      (s.setRing r { s.ring r with
        ci := wrap 32 ((s.ring r).ci + (s.ring r).count)
        count := 0
        consumed := wrap 64 ((s.ring r).consumed + (s.ring r).count)
        devPkts := []
        overrunCi := satur 8 ((s.ring r).overrunCi + 1) }).latch .rngIndex (r / 32) := by
  unfold State.doorbellCi
  dsimp only
  rw [if_neg (by simp [hreach]), if_neg (by simp [hok]), if_neg (by simp [hen, hhalt, hdev]), State.ringAccess_of_isNone hinj]
  exact (if_neg (Nat.not_le_of_lt hpast)).trans (if_pos hahead)

end

theorem State.doorbellCi_foreign {s : State} {r : Nat} (v : Nat) (hreach : s.hostReaches = true) (hok : s.doorbellOk r = false) :
    s.doorbellCi r v = s.dbReject :=
  (if_neg (by simp [hreach])).trans (if_pos (by simp [hok]))

theorem State.ring_latch (s : State) (src : Src) (i r : Nat) : (s.latch src i).ring r = s.ring r := by
  unfold State.ring
  rw [State.latch_rng]

/-- HST_DB_REJECT counts the dropped doorbell and saturates. -/
theorem State.fld_dbReject (s : State) : s.dbReject.fld Reg.HST_DB_REJECT = min (s.fld Reg.HST_DB_REJECT + 1) 4294967295 := by
  refine (State.fld_latch _ .hstTenancy 0 (by decide) (by decide)).trans ((State.fld_setFld ..).trans (Nat.mod_eq_of_lt ?_))
  exact Nat.lt_of_le_of_lt (Nat.min_le_right _ _) (by decide)

/-- Settles O11: the equation of each doorbell in the case that its clause names. -/
theorem doorbellsMoveIndexes : Obligations.DoorbellsMoveIndexes := by
  intro s r v hc hreach hinj
  have hv : v.toNat < 4294967296 := v.isLt
  refine ⟨fun entries hok hen hhalt hstop hcls hpi hci hlost hahead hfits => ?_,
    fun hok hen hhalt hdev hci => ⟨fun hwithin => ?_, fun hpast hahead _ => ?_⟩, fun hok => ?_⟩
  · exact Runs.of_run (f := fun s => s.doorbellPi r v.toNat entries) rfl hc
      (State.doorbellPi_command entries hreach hinj hok hen hhalt hstop hcls hahead)
      (congrArg (s.setRing r) (Ring.coverItems_of_fits hv hpi hci hlost hfits))
  · refine Runs.of_run (f := fun s => s.doorbellCi r v.toNat) rfl hc (State.doorbellCi_within hreach hinj hok hen hhalt hdev hwithin) ?_
    rw [State.ring_setRing]
    exact ⟨wrap_add_behind hv hci, rfl, rfl, rfl, rfl, rfl⟩
  · refine Runs.of_run (f := fun s => s.doorbellCi r v.toNat) rfl hc (State.doorbellCi_past hreach hinj hok hen hhalt hdev hpast hahead) ?_
    rw [State.ring_latch, State.ring_setRing]
    exact ⟨rfl, rfl, rfl, State.latched_latch _ .rngIndex _ (by decide)⟩
  · exact Runs.of_run (f := fun s => s.doorbellCi r v.toNat) rfl hc (State.doorbellCi_foreign v.toNat hreach hok)
      ⟨State.latch_rng _ .hstTenancy 0, s.fld_dbReject, State.latched_latch _ .hstTenancy 0 (by decide)⟩

end Sys2Proof.Machine
end

section
/-! PROOFS. IDE, SPDM, certificate slot 1, function reset and translation failures (02_host_attachment.md R42, R47, R48;
18_faults_and_self_test.md R375; 20_winding_clocks_power.md R409). -/

namespace Sys2Proof.Machine

/-! ### IDE (R48) -/

theorem State.takeInject_getD (s : State) (src : Src) (i : Nat) :
    ((s.takeInject src i).getD s).rng = s.rng ∧ ((s.takeInject src i).getD s).mem = s.mem := by
  cases h : s.takeInject src i with
  | none => exact ⟨rfl, rfl⟩
  | some t => exact ⟨s.takeInject_rng src i t h, s.takeInject_mem src i t h⟩

/-- The IDE stream has ended and the link is insecure. -/
def State.ideBroken (s : State) : State :=
  { s.setFld Reg.HST_LINK_STATUS_IDE_ACTIVE 0 0 with hst := { s.hst with ideInsecure := true } }

theorem State.ideFail_of_active {s : State} (h : s.flag Reg.HST_LINK_STATUS_IDE_ACTIVE = true) :
    s.ideFail = ((s.takeInject .hstIde).getD s).ideBroken.latch .hstIde :=
  if_neg (by simp [h])

theorem State.latch_ideBroken (s : State) :
    (s.ideBroken.latch .hstIde).fld Reg.HST_LINK_STATUS_IDE_ACTIVE = 0 ∧ (s.ideBroken.latch .hstIde).hst.ideInsecure = true ∧
    (s.ideBroken.latch .hstIde).latched .hstIde = true ∧ (s.ideBroken.latch .hstIde).rng = s.rng ∧
    (s.ideBroken.latch .hstIde).mem = s.mem := by
  refine ⟨?_, ?_, State.latched_latch _ .hstIde 0 (by decide), State.latch_rng _ .hstIde 0, State.latch_mem _ .hstIde 0⟩
  · exact (State.fld_latch _ .hstIde 0 (by decide) (by decide)).trans (State.fld_setFld s _ 0 0)
  · rw [State.latch_hst]
    rfl

/-! ### SPDM (R47, R375) -/

theorem State.spdm_keyAbsent {s : State} {code : Nat} (secured : Bool) {data : Bytes} (hw : s.wound = true) (hup : s.hst.linkUp = true)
    (hkeys : s.hst.keysPresent = false) (hkeyed : spdmKeyed code data = true) : s.spdm code secured data = s.spdmAnswer code true [] := by
  unfold State.spdm
  rw [if_neg (by simp [hw, hup])]
  exact if_pos (by simp [hkeys, hkeyed])

/-- A request for version, capabilities, algorithms or digests is answered without an error, whatever keys are present. -/
theorem State.spdm_open {s : State} {code : Nat} (data : Bytes) (hw : s.wound = true) (hup : s.hst.linkUp = true)
    (hcode : code ∈ [0x84, 0xE1, 0xE3, 0x81]) : ∃ body, s.spdm code false data = s.spdmAnswer code false body := by
  have reached : ¬(!s.wound ∨ !s.hst.linkUp) := by simp [hw, hup]
  simp only [List.mem_cons, List.not_mem_nil, or_false] at hcode
  rcases hcode with rfl | rfl | rfl | rfl
  all_goals exact ⟨_, if_neg reached⟩

theorem State.setCert_first {s : State} {secured : Bool} (chain : Bytes) (hw : s.wound = true) (hup : s.hst.linkUp = true)
    (hsecured : secured = true) (hkeys : s.hst.keysPresent = true) (hfirst : s.hst.slot1Written = false) :
    s.setCert 1 secured chain = State.spdmAnswer { s with hst := { s.hst with slot1 := chain, slot1Written := true } } 0xEE false [] :=
  (if_neg (by simp [hw, hup])).trans (if_pos (by simp [hsecured, hkeys, hfirst]))

theorem State.setCert_again {s : State} (secured : Bool) (chain : Bytes) (hw : s.wound = true) (hup : s.hst.linkUp = true)
    (hagain : s.hst.slot1Written = true) : s.setCert 1 secured chain = s.spdmAnswer 0xEE true [] :=
  (if_neg (by simp [hw, hup])).trans (if_neg (by simp [hagain]))

/-! ### Function reset (R409) -/

theorem State.flrRecords_parts (s : State) :
    s.flrRecords.rng.rings = [] ∧ s.flrRecords.rng.meters = [] ∧ s.flrRecords.rng.query = none ∧ s.flrRecords.dma = {} ∧
    s.flrRecords.hst.msix = [] ∧ s.flrRecords.hst.ccache = [] ∧ s.flrRecords.fld Reg.INT_GLOBAL_HOST_EN = 0 :=
  ⟨rfl, rfl, rfl, rfl, rfl, rfl, State.fld_setFld ..⟩

/-! ### A record leaves the jobs and the stops of the rings alone -/

/-- `t` has the jobs of `s`, and each ring is stopped in `t` just where it is in `s`. -/
structure SameStops (s t : State) : Prop where
  jobs : t.rng.jobs = s.rng.jobs
  stopped : ∀ r, (t.ring r).stopped = (s.ring r).stopped

theorem SameStops.of_rng {s t : State} (h : t.rng = s.rng) : SameStops s t :=
  ⟨by rw [h], fun r => by unfold State.ring; rw [h]⟩

theorem SameStops.refl (s : State) : SameStops s s := .of_rng rfl

theorem SameStops.trans {a b c : State} (h : SameStops a b) (k : SameStops b c) : SameStops a c :=
  ⟨k.jobs.trans h.jobs, fun r => (k.stopped r).trans (h.stopped r)⟩

theorem sameStops_setRing (s : State) (r : Nat) {x : Ring} (h : x.stopped = (s.ring r).stopped) : SameStops s (s.setRing r x) := by
  refine ⟨rfl, fun q => ?_⟩
  by_cases hq : r = q
  · rw [← hq, State.ring_setRing, h]
  · rw [State.ring_setRing_other s r x hq]

theorem sameStops_latch (s : State) (src : Src) (i : Nat) : SameStops s (s.latch src i) := .of_rng (s.latch_rng src i)

theorem sameStops_loseEvent (s : State) (r : Nat) : SameStops s (s.loseEvent r) := by
  unfold State.loseEvent
  split
  · exact .refl s
  · exact sameStops_setRing s r rfl

theorem Ring.reserve_stopped (k : Nat) (ps : List Nat) (x : Ring) : (x.reserve k ps).stopped = x.stopped := by
  induction ps generalizing x with
  | nil => rfl
  | cons p ps ih =>
    unfold Ring.reserve
    split
    · exact ih _
    · rfl

theorem sameStops_recordAt (s : State) (r cls : Nat) (items : List (Nat → Bytes)) : SameStops s (s.recordAt r cls items) := by
  unfold State.recordAt
  dsimp only
  split
  · exact .refl s
  · split
    · exact sameStops_setRing s r rfl
    · have put : ∀ t : State, t.rng = s.rng → ∀ x : Ring, x.stopped = (s.ring r).stopped → SameStops s (t.setRing r x) :=
        fun t ht x hx => (SameStops.of_rng ht).trans (sameStops_setRing t r (hx.trans ((SameStops.of_rng ht).stopped r).symm))
      refine put _ ?_ _ (Ring.reserve_stopped ..)
      split
      · exact State.putCoherent_rng ..
      · exact State.putItems_rng ..

/-- A mismatch of the duplicate indices halts rings (R67) and stops none. -/
theorem sameStops_recordN (s : State) (r cls : Nat) (items : List (Nat → Bytes)) (n : Nat) : SameStops s (s.recordN r cls items n) := by
  induction n generalizing s r cls items with
  | zero => exact sameStops_recordAt s r cls items
  | succ n ih =>
    unfold State.recordN
    dsimp only
    split
    · exact sameStops_recordAt s r cls items
    · split
      · exact sameStops_recordAt s r cls items
      · rename_i u hu
        have taken : SameStops s u := .of_rng (s.takeInject_rng _ _ u hu)
        have halted : SameStops s (u.setRing r (s.ring r).halt) := taken.trans (sameStops_setRing u r (taken.stopped r).symm)
        refine SameStops.trans ?_ (sameStops_recordAt _ r cls items)
        refine SameStops.trans ?_ (sameStops_latch _ _ _)
        split
        · exact halted.trans (ih ..)
        · exact halted.trans (sameStops_loseEvent ..)

theorem sameStops_ringEvent (s : State) (r code : Nat) (args : List Nat) : SameStops s (s.ringEvent r code args) := by
  unfold State.ringEvent State.eventTo
  split
  · exact sameStops_recordN ..
  · exact sameStops_loseEvent s _

/-! ### Translation failures (R42) -/

/-- A job that ends is no longer in flight, and its completion record stops no ring. -/
theorem State.finish_ends (s : State) (j status r0 r1 r2 r3 : Nat) :
    Tab.has (s.finish j status r0 r1 r2 r3).rng.jobs j = false ∧
    ∀ r, ((s.finish j status r0 r1 r2 r3).ring r).stopped = (s.ring r).stopped := by
  unfold State.finish
  dsimp only
  split
  · split
    · exact ⟨Tab.has_del_same .., fun _ => rfl⟩
    · have recorded := sameStops_recordN { s with rng := { s.rng with jobs := Tab.del s.rng.jobs j } }
      exact ⟨(congrArg (Tab.has · j) (recorded ..).jobs).trans (Tab.has_del_same ..), (recorded ..).stopped⟩
  · exact ⟨Bool.eq_false_iff.2 ‹_›, fun _ => rfl⟩

/-- The ring is stopped, and the job that the entry became, if one is in flight, ends with FAULTED. -/
def State.stopRing (s : State) (r index : Nat) : State :=
  let t := s.setRing r { s.ring r with stopped := true }
  match s.jobAt r index with
  | some j => t.finish j St.faulted
  | none => t

theorem State.translationFail_eq {s : State} {r : Nat} (index : Nat) (hr : r < s.variant.rings) :
    s.translationFail r index = ((s.stopRing r index).ringEvent r 0x0011 [index]).latch .hstXlat :=
  if_neg (Nat.not_le_of_lt hr)

theorem State.stopRing_stopped (s : State) (r index : Nat) : ((s.stopRing r index).ring r).stopped = true := by
  unfold State.stopRing
  dsimp only
  split
  · rw [(State.finish_ends ..).2, State.ring_setRing]
  · rw [State.ring_setRing]

theorem State.stopRing_ends {s : State} {r index j : Nat} (h : s.jobAt r index = some j) :
    Tab.has (s.stopRing r index).rng.jobs j = false := by
  unfold State.stopRing
  rw [h]
  exact (State.finish_ends ..).1

/-- The event and the latch of a translation failure leave the ring stopped and its job ended. -/
theorem State.translationFail_stops {s : State} {r : Nat} (index : Nat) (hr : r < s.variant.rings) :
    ((s.translationFail r index).ring r).stopped = true ∧ (s.translationFail r index).latched .hstXlat = true ∧
    ∀ j, s.jobAt r index = some j → Tab.has (s.translationFail r index).rng.jobs j = false := by
  rw [State.translationFail_eq index hr]
  have kept := (sameStops_ringEvent (s.stopRing r index) r 0x0011 [index]).trans (sameStops_latch _ .hstXlat 0)
  refine ⟨(kept.stopped r).trans (s.stopRing_stopped r index), State.latched_latch _ .hstXlat 0 (by decide), fun j hj => ?_⟩
  rw [kept.jobs]
  exact State.stopRing_ends hj

/-- Settles O10: what each command does in the case that its clause names; the stop of a ring outlasts the records that a translation
failure writes. -/
theorem hostSecurityAndFunctionReset : Obligations.HostSecurityAndFunctionReset := by
  intro s hc hw
  refine ⟨fun hactive => ?_,
    fun hup => ⟨fun code secured data hkeys hkeyed => ?_, fun code data hcode => ?_,
      fun chain hkeys hsession => ⟨fun hfirst => ?_, fun hagain => ?_⟩⟩,
    Runs.of_run (f := State.functionReset) rfl hc (if_pos hw) (State.flrRecords_parts _),
    fun ring index hr => Runs.of_run (f := fun s => s.translationFail ring index) rfl hc rfl (State.translationFail_stops index hr)⟩
  · obtain ⟨hrng, hmem⟩ := s.takeInject_getD .hstIde 0
    obtain ⟨hactive', hinsecure, hlatched, hrng', hmem'⟩ := ((s.takeInject .hstIde).getD s).latch_ideBroken
    exact Runs.of_run (f := State.ideFail) rfl hc (State.ideFail_of_active hactive)
      ⟨hactive', hinsecure, hlatched, hrng'.trans hrng, hmem'.trans hmem⟩
  · exact Runs.of_run (f := fun s => s.spdm code secured data) rfl hc (State.spdm_keyAbsent secured hw hup hkeys hkeyed) rfl
  · obtain ⟨body, hbody⟩ := State.spdm_open data hw hup hcode
    exact Runs.of_run (f := fun s => s.spdm code false data) rfl hc hbody ⟨rfl, rfl⟩
  · exact Runs.of_run (f := fun s => s.setCert 1 (true && s.hst.spdmSession) chain) rfl hc
      (State.setCert_first chain hw hup (by rw [hsession]; rfl) hkeys hfirst) rfl
  · exact Runs.of_run (f := fun s => s.setCert 1 (true && s.hst.spdmSession) chain) rfl hc
      (State.setCert_again _ chain hw hup hagain) rfl

end Sys2Proof.Machine
end

section
/-! PROOFS. What device memory reads after a store: the bytes stored, and everywhere else what it read before, the link words of the pool's
free buffers included (19_memory_and_keeping_store.md R384, R389; 12_buffer_pool_and_switch.md R247, R249). -/

namespace Sys2Proof.Machine

/-! ### Byte memories -/

/-- A byte string written is the byte string read. -/
theorem Mem.read_writeBytes_inside (bs : Bytes) : ∀ (m : Mem) (a i : Nat), m.wf = true → i < bs.length →
    (m.writeBytes a bs).read (a + i) = bs.getD i 0 := by
  induction bs with
  | nil => intro m a i _ hi; exact absurd hi (Nat.not_lt_zero i)
  | cons b bs ih =>
    intro m a i h hi
    have hw := Mem.wf_write h a b
    cases i with
    | zero =>
      rw [Mem.writeBytes, Mem.read_writeBytes_outside bs _ _ _ hw (by omega)]
      exact Mem.read_write_same a b m 0 h
    | succ i =>
      rw [Mem.writeBytes, show a + (i + 1) = a + 1 + i by omega, ih _ _ _ hw (by simpa using hi)]
      rfl

theorem Tab.has_set_other {α : Type} (t : Tab α) {k l : Nat} (x : α) (h : k ≠ l) : Tab.has (Tab.set t k x) l = Tab.has t l := by
  induction t with
  | nil => simp [Tab.set, Tab.has, h]
  | cons e t ih =>
    obtain ⟨j, y⟩ := e
    by_cases hj : j = k
    · subst hj; simp [Tab.set, Tab.has, h]
    · by_cases h2 : k < j
      · simp [Tab.set, Tab.has, hj, h2, h]
      · simp [Tab.set, Tab.has, hj, h2, ih]

/-! ### The pool buffer at an address (R247) -/

/-- The address at which the DRAM pool begins. -/
def State.poolBase (s : State) : Nat := s.fld Reg.BPM_DPOOL_BASE * 65536

theorem State.poolBase_mod (s : State) : s.poolBase % 256 = 0 := by
  unfold State.poolBase
  omega

/-- The buffer of the DRAM pool that an address lies in. -/
def State.bufAt (s : State) (x : Nat) : Option Nat :=
  if s.poolBase ≤ x / 256 * 256 ∧ x / 256 * 256 < s.poolBase + s.pool.dram.total * 256 then
    some (196608 + (x / 256 * 256 - s.poolBase) / 256)
  else none

/-- Buffer `b` of the pool begins at the address that its link words are kept at (R249). -/
theorem State.bufAt_eq_some {s : State} {x b : Nat} :
    s.bufAt x = some b ↔ 196608 ≤ b ∧ b < 196608 + s.pool.dram.total ∧
      s.poolBase + (b - 196608) * 256 = x / 256 * 256 := by
  have aligned := s.poolBase_mod
  unfold State.bufAt
  split
  · rw [Option.some.injEq]
    constructor
    · rintro rfl
      omega
    · omega
  · constructor
    · intro h
      cases h
    · omega

theorem State.bufAt_eq_of_div {s : State} {x y : Nat} (h : x / 256 = y / 256) : s.bufAt x = s.bufAt y := by
  unfold State.bufAt
  rw [h]

theorem State.mem_poolBufs {s : State} {a len b : Nat} :
    b ∈ s.poolBufs a len ↔ len ≠ 0 ∧ ∃ l, a / 256 ≤ l ∧ l * 256 < a + len ∧ s.bufAt (l * 256) = some b := by
  unfold State.poolBufs
  dsimp only
  split
  · rename_i h
    constructor
    · intro hb
      cases hb
    · rintro ⟨hlen, l, -, -, hb⟩
      have hbuf := State.bufAt_eq_some.1 hb
      unfold State.poolBase at hbuf
      omega
  · rename_i h
    simp only [List.mem_filterMap, List.mem_map, List.mem_range]
    constructor
    · rintro ⟨l, ⟨k, -, rfl⟩, hl⟩
      split at hl
      · refine ⟨by omega, a / 256 + k, by omega, by omega, State.bufAt_eq_some.2 ?_⟩
        unfold State.poolBase
        cases hl
        omega
      · cases hl
    · rintro ⟨-, l, hlo, hhi, hb⟩
      have hbuf := State.bufAt_eq_some.1 hb
      unfold State.poolBase at hbuf
      refine ⟨l, ⟨l - a / 256, by omega, by omega⟩, ?_⟩
      rw [if_pos (by omega), Option.some.injEq]
      omega

theorem State.nodup_poolBufs (s : State) (a len : Nat) : (s.poolBufs a len).Nodup := by
  unfold State.poolBufs
  dsimp only
  split
  · exact List.nodup_nil
  · refine List.Nodup.filterMap ?_ ((List.nodup_range).map fun _ _ h => Nat.add_left_cancel h)
    intro l k b hl hk
    split at hl
    · split at hk
      · simp only [Option.mem_def, Option.some.injEq] at hl hk
        omega
      · cases hk
    · cases hl

/-- The buffers at a single address. -/
theorem State.poolBufs_one (s : State) (x : Nat) : s.poolBufs x 1 = (s.bufAt x).toList := by
  have mem_iff : ∀ b, b ∈ s.poolBufs x 1 ↔ s.bufAt x = some b := fun b => by
    rw [State.mem_poolBufs]
    constructor
    · rintro ⟨-, l, hlo, hhi, hb⟩
      exact (State.bufAt_eq_of_div (by omega)).trans hb
    · intro hb
      exact ⟨Nat.one_ne_zero, x / 256, Nat.le_refl _, by omega, (State.bufAt_eq_of_div (by omega)).trans hb⟩
  have nodup := s.nodup_poolBufs x 1
  match hl : s.poolBufs x 1, hb : s.bufAt x with
  | [], none => rfl
  | [], some b => exact absurd ((mem_iff b).2 hb) (by rw [hl]; exact List.not_mem_nil)
  | b :: bs, none => cases hb.symm.trans ((mem_iff b).1 (by rw [hl]; exact List.mem_cons_self))
  | [b], some c =>
    cases hb.symm.trans ((mem_iff b).1 (by rw [hl]; exact List.mem_cons_self))
    rfl
  | b :: d :: bs, some c =>
    have h1 := (mem_iff b).1 (by rw [hl]; exact List.mem_cons_self)
    have h2 := (mem_iff d).1 (by rw [hl]; exact List.mem_cons_of_mem _ List.mem_cons_self)
    rw [hl, Option.some.inj (h1.symm.trans h2)] at nodup
    simp at nodup

/-! ### A byte of device memory -/

theorem State.dramByte_of_touched {s : State} {x : Nat} (h : ∀ b, s.bufAt x = some b → Tab.has s.pool.bufs b = true) :
    s.dramByte x = s.mem.dram.read x := by
  have none_left : (s.poolBufs x 1).filter (fun b => !(Tab.has s.pool.bufs b)) = [] := by
    rw [State.poolBufs_one, List.filter_eq_nil_iff]
    intro b hb
    simp [h b (by simpa using hb)]
  unfold State.dramByte
  rw [none_left]

theorem State.dramByte_of_untouched {s : State} {x b : Nat} (hb : s.bufAt x = some b) (h : Tab.has s.pool.bufs b = false) :
    s.dramByte x =
      if x % 256 < 8 then (builtLink b (196608 + s.pool.dram.total)).getD (x % 256) 0 else s.mem.dram.read x := by
  have one_left : (s.poolBufs x 1).filter (fun b => !(Tab.has s.pool.bufs b)) = [b] := by
    rw [State.poolBufs_one, hb]
    simp [h]
  unfold State.dramByte
  rw [one_left]

/-! ### Link words become plain bytes -/

/-- `t` is `s` but for device memory and the buffer pool. -/
def OnlyDram (s t : State) : Prop := t = { s with mem := t.mem, pool := t.pool }

theorem OnlyDram.trans {a b c : State} (h : OnlyDram a b) (k : OnlyDram b c) : OnlyDram a c := by
  unfold OnlyDram at *
  rw [k, h]

/-- The link words of one buffer become plain bytes. -/
def State.touchBuf (base : Nat) (t : State) (b : Nat) : State :=
  { t with
    mem := { t.mem with dram := t.mem.dram.writeBytes (base + (b - 196608) * 256) (builtLink b (196608 + t.pool.dram.total)) }
    pool := { t.pool with bufs := Tab.set t.pool.bufs b {} } }

/-- The buffers of a range that nothing has touched since their list was built. -/
def State.untouched (s : State) (a len : Nat) : List Nat := (s.poolBufs a len).filter fun b => !(Tab.has s.pool.bufs b)

theorem State.touchDram_eq (s : State) (a len : Nat) :
    s.touchDram a len = (s.untouched a len).foldl (State.touchBuf s.poolBase) s := rfl

/-- No byte reads differently once the link words of an untouched buffer are plain. -/
theorem State.dramByte_touchBuf {s : State} {b : Nat} (hwf : s.mem.dram.wf = true) (hlo : 196608 ≤ b) (hhi : b < 196608 + s.pool.dram.total)
    (hnew : Tab.has s.pool.bufs b = false) (x : Nat) :
    (s.touchBuf s.poolBase b).dramByte x = s.dramByte x := by
  have at_same : (s.touchBuf s.poolBase b).bufAt x = s.bufAt x := rfl
  have has_self : Tab.has (s.touchBuf s.poolBase b).pool.bufs b = true := Tab.has_set_same ..
  have has_other : ∀ c, b ≠ c → Tab.has (s.touchBuf s.poolBase b).pool.bufs c = Tab.has s.pool.bufs c :=
    fun c hc => Tab.has_set_other _ _ hc
  have outside : x < s.poolBase + (b - 196608) * 256 ∨
      s.poolBase + (b - 196608) * 256 + 8 ≤ x →
      (s.touchBuf s.poolBase b).mem.dram.read x = s.mem.dram.read x := fun h =>
    Mem.read_writeBytes_outside _ _ _ _ hwf h
  by_cases hb : s.bufAt x = some b
  · rw [State.dramByte_of_untouched hb hnew, State.dramByte_of_touched fun c hc => by
      rw [at_same, hb] at hc
      cases hc
      exact has_self]
    obtain ⟨-, -, hbase⟩ := State.bufAt_eq_some.1 hb
    split
    · have hx : x = s.poolBase + (b - 196608) * 256 + x % 256 := by omega
      exact (congrArg _ hx).trans (Mem.read_writeBytes_inside _ _ _ _ hwf ‹_›)
    · exact outside (by omega)
  · have plain : (s.touchBuf s.poolBase b).mem.dram.read x = s.mem.dram.read x := by
      refine outside ?_
      by_contra hin
      have aligned := s.poolBase_mod
      exact hb (State.bufAt_eq_some.2 ⟨hlo, hhi, by omega⟩)
    by_cases hall : ∀ c, s.bufAt x = some c → Tab.has s.pool.bufs c = true
    · rw [State.dramByte_of_touched hall, State.dramByte_of_touched fun c hc => ?_, plain]
      rw [has_other c fun h => hb (h ▸ hc)]
      exact hall c hc
    · obtain ⟨c, hc, hcnew⟩ : ∃ c, s.bufAt x = some c ∧ Tab.has s.pool.bufs c = false := by simpa using hall
      rw [State.dramByte_of_untouched hc hcnew,
        State.dramByte_of_untouched (at_same.trans hc) ((has_other c fun h => hb (h ▸ hc)).trans hcnew), plain]
      rfl

/-- In `t` the buffers of `l` are touched too; it has the pool's place and every byte of device memory of `s`. -/
structure Touched (s t : State) (l : List Nat) : Prop where
  only : OnlyDram s t
  wf : t.mem.dram.wf = true
  total : t.pool.dram = s.pool.dram
  has : ∀ b, b ∈ l ∨ Tab.has s.pool.bufs b = true → Tab.has t.pool.bufs b = true
  byte : ∀ x, t.dramByte x = s.dramByte x

theorem touched_foldl {l : List Nat} {s : State} (hwf : s.mem.dram.wf = true) (hnodup : l.Nodup)
    (hl : ∀ b ∈ l, 196608 ≤ b ∧ b < 196608 + s.pool.dram.total ∧ Tab.has s.pool.bufs b = false) :
    Touched s (l.foldl (State.touchBuf s.poolBase) s) l := by
  induction l generalizing s with
  | nil => exact ⟨rfl, hwf, rfl, by simp, fun _ => rfl⟩
  | cons b l ih =>
    obtain ⟨hfresh, hrest⟩ := List.nodup_cons.1 hnodup
    obtain ⟨hlo, hhi, hnew⟩ := hl b List.mem_cons_self
    have next := ih (s := s.touchBuf s.poolBase b) (Mem.wf_writeBytes _ _ hwf) hrest fun c hc => by
      obtain ⟨clo, chi, cnew⟩ := hl c (List.mem_cons_of_mem _ hc)
      have hne : b ≠ c := fun h => hfresh (h ▸ hc)
      exact ⟨clo, chi, (Tab.has_set_other _ _ hne).trans cnew⟩
    have only : OnlyDram s (s.touchBuf s.poolBase b) := rfl
    refine ⟨only.trans next.only, next.wf, next.total, fun c hc => next.has c ?_,
      fun x => (next.byte x).trans (State.dramByte_touchBuf hwf hlo hhi hnew x)⟩
    by_cases hbc : b = c
    · exact .inr (hbc ▸ Tab.has_set_same ..)
    · rcases hc with hc | hc
      · exact .inl ((List.mem_cons.1 hc).resolve_left fun h => hbc h.symm)
      · exact .inr ((Tab.has_set_other _ _ hbc).trans hc)

theorem touched_touchDram {s : State} (hwf : s.mem.dram.wf = true) (a len : Nat) :
    Touched s (s.touchDram a len) (s.untouched a len) := by
  rw [State.touchDram_eq]
  refine touched_foldl hwf ((s.nodup_poolBufs a len).filter _) fun b hb => ?_
  obtain ⟨hmem, hnew⟩ := List.mem_filter.1 hb
  obtain ⟨-, l, -, -, hl⟩ := State.mem_poolBufs.1 hmem
  obtain ⟨hlo, hhi, -⟩ := State.bufAt_eq_some.1 hl
  exact ⟨hlo, hhi, by simpa using hnew⟩

/-! ### The store -/

theorem State.bufAt_congr {s t : State} (h : OnlyDram s t) (htotal : t.pool.dram = s.pool.dram) (x : Nat) : t.bufAt x = s.bufAt x := by
  have hbase : t.poolBase = s.poolBase := by
    unfold OnlyDram at h
    rw [h]
    rfl
  unfold State.bufAt
  rw [hbase, htotal]

/-- A state that differs in the bytes of its device memory alone reads another byte only where those differ. -/
theorem State.dramByte_congr {t u : State} {x : Nat} (hvar : u.variant = t.variant) (hregs : u.regs = t.regs) (hpool : u.pool = t.pool)
    (hread : u.mem.dram.read x = t.mem.dram.read x) : u.dramByte x = t.dramByte x := by
  unfold State.dramByte State.poolBufs
  rw [State.fld_congr hvar hregs, hpool, hread]

theorem onlyDram_dramPut {s : State} (hwf : s.mem.dram.wf = true) (a : Nat) (bs : Bytes) : OnlyDram s (s.dramPut a bs) :=
  (touched_touchDram hwf a bs.length).only.trans rfl

/-- Every buffer that a stored range meets has been touched, so that the stored bytes are what its addresses read (R384). -/
theorem stored_dramPut {s : State} (hwf : s.mem.dram.wf = true) (a : Nat) (bs : Bytes) : Stored s (s.dramPut a bs) a bs := by
  have touched := touched_touchDram hwf a bs.length
  refine ⟨fun i hi => ?_, fun x hx => ?_⟩
  · rw [State.dramByte_of_touched fun b hb => ?_]
    · exact Mem.read_writeBytes_inside bs _ a i touched.wf hi
    · have hb : s.bufAt (a + i) = some b := (State.bufAt_congr touched.only touched.total _).symm.trans hb
      have hmem : b ∈ s.poolBufs a bs.length :=
        State.mem_poolBufs.2 ⟨by omega, (a + i) / 256, by omega, by omega, (State.bufAt_eq_of_div (by omega)).trans hb⟩
      refine touched.has b ?_
      cases hhas : Tab.has s.pool.bufs b with
      | true => exact .inr rfl
      | false => exact .inl (List.mem_filter.2 ⟨hmem, by rw [hhas]; rfl⟩)
  · refine (State.dramByte_congr (t := s.touchDram a bs.length) (u := s.dramPut a bs) rfl rfl rfl ?_).trans (touched.byte x)
    exact Mem.read_writeBytes_outside bs _ a x touched.wf hx

end Sys2Proof.Machine
end

section
/-! PROOFS. The host's accesses to device memory, back-invalidate responses and snoops of the ring line cache (02_host_attachment.md R35,
R37 to R39; 19_memory_and_keeping_store.md R384). -/

namespace Sys2Proof.Machine

theorem State.mergeWrite_wholeLine (s : State) {a : Nat} {bs : Bytes} (port : Nat) (found : Ecc) (ha : a % 64 = 0) (hbs : bs.length = 64) :
    s.mergeWrite a bs port found = s.dramPut a bs :=
  if_pos ⟨ha, hbs⟩

/-! ### BAR4 (R35) -/

/-- A line of BAR4 lies within one aperture, whose base is whole lines. -/
theorem State.bar4Addr_line (s : State) {x : Nat} (hx : x % 64 = 0) :
    s.bar4Addr x % 64 = 0 ∧ ∀ i, i < 64 → s.bar4Addr (x + i) = s.bar4Addr x + i := by
  unfold State.bar4Addr
  refine ⟨by omega, fun i hi => ?_⟩
  have haperture : (x + i) / 2 ^ 34 = x / 2 ^ 34 := by omega
  rw [haperture]
  omega

theorem eraseDups_replicate (l n : Nat) : (List.replicate (n + 1) l).eraseDups = [l] := by
  rw [List.replicate_succ, List.eraseDups_cons, List.filter_eq_nil_iff.2]
  · rfl
  · intro x hx
    simp [List.eq_of_mem_replicate hx]

theorem linesOf_line {a : Nat} (ha : a % 64 = 0) : linesOf ((List.range 64).map (a + ·)) = [a / 64] := by
  have one_line : ((List.range 64).map (a + ·)).map (· / 64) = List.replicate 64 (a / 64) := by
    rw [List.eq_replicate_iff]
    refine ⟨by simp, fun x hx => ?_⟩
    simp only [List.mem_map, List.mem_range, exists_exists_and_eq_and] at hx
    obtain ⟨i, hi, rfl⟩ := hx
    omega
  unfold linesOf
  rw [one_line, eraseDups_replicate]

theorem onLine_eq_zip {l : Nat} {as : List Nat} (h : ∀ a ∈ as, a / 64 = l) (bs : Bytes) : onLine l as bs = as.zip bs := by
  induction as generalizing bs with
  | nil => cases bs <;> rfl
  | cons a as ih =>
    cases bs with
    | nil => rfl
    | cons b bs =>
      unfold onLine
      rw [if_pos (h a List.mem_cons_self), ih fun c hc => h c (List.mem_cons_of_mem _ hc), List.zip_cons_cons]

/-- A host write of one whole aligned line stores it (R35). -/
theorem State.hostStore_line (s : State) (ecc : Ecc) {a : Nat} {data : Bytes} (ha : a % 64 = 0) (hdata : data.length = 64) :
    s.hostStore ecc ((List.range 64).map (a + ·)) data [a / 64] = s.dramPut a data := by
  have mine : onLine (a / 64) ((List.range 64).map (a + ·)) data = ((List.range 64).map (a + ·)).zip data :=
    onLine_eq_zip (fun x hx => by
      simp only [List.mem_map, List.mem_range] at hx
      omega) data
  have first : ((onLine (a / 64) ((List.range 64).map (a + ·)) data).map (·.1)).headD 0 = a := by
    rw [mine, List.map_fst_zip (by simp [hdata])]
    rfl
  have bytes : (onLine (a / 64) ((List.range 64).map (a + ·)) data).map (·.2) = data := by
    rw [mine, List.map_snd_zip (by simp [hdata])]
  unfold State.hostStore
  dsimp only
  rw [first, bytes]
  exact State.mergeWrite_wholeLine s 12 ecc ha hdata

section
variable {s : State} {offset : Nat} {data : Bytes} (hreach : s.hostReaches = true) (hmode : 4 ≤ s.fld Reg.HST_LINK_STATUS_MODE)
  (hdata : data.length = 64) (halign : offset % 64 = 0) (hend : offset + 64 ≤ 68719476736)
include hreach hmode hdata halign hend

/-- What BAR4 does with a write of one whole aligned line within its offsets. -/
theorem State.bar4_writeLine (ecc : Ecc) :
    s.bar4 true offset 0 data ecc =
      if ((List.range 64).map (s.bar4Addr offset + ·)).any fun a => decide (s.usable ≤ a) then s.latch .hstWindow
      else if !(s.dramOk 0 1) then s else s.dramPut (s.bar4Addr offset) data := by
  obtain ⟨hline, haddr⟩ := s.bar4Addr_line halign
  have addrs : (List.range data.length).map (fun i => s.bar4Addr (offset + i)) = (List.range 64).map (s.bar4Addr offset + ·) := by
    rw [hdata]
    exact List.map_congr_left fun i hi => haddr i (List.mem_range.1 hi)
  have accepted : ¬(!s.hostReaches ∨ s.fld Reg.HST_LINK_STATUS_MODE < 4 ∨ data.length = 0 ∨ 2 ^ 36 < offset + data.length) := by
    rw [hreach, hdata]
    simp
    omega
  have stored : s.hostStore ecc ((List.range 64).map (s.bar4Addr offset + ·)) data
      (linesOf ((List.range 64).map (s.bar4Addr offset + ·))) = s.dramPut (s.bar4Addr offset) data := by
    rw [linesOf_line hline]
    exact State.hostStore_line s ecc hline hdata
  refine (if_neg accepted).trans ?_
  dsimp only [if_true]
  rw [if_pos rfl, addrs, stored]
  rfl

theorem State.bar4_writeLine_within (ecc : Ecc) (hfit : s.bar4Addr offset + 64 ≤ s.usable) (hok : s.dramOk 0 1 = true) :
    s.bar4 true offset 0 data ecc = s.dramPut (s.bar4Addr offset) data := by
  have within : ¬(((List.range 64).map (s.bar4Addr offset + ·)).any fun a => decide (s.usable ≤ a)) = true := by
    simp
    omega
  rw [State.bar4_writeLine hreach hmode hdata halign hend, if_neg within, if_neg (by simp [hok])]

theorem State.bar4_writeLine_beyond (ecc : Ecc) (hbeyond : s.usable ≤ s.bar4Addr offset) :
    s.bar4 true offset 0 data ecc = s.latch .hstWindow := by
  rw [State.bar4_writeLine hreach hmode hdata halign hend]
  refine if_pos (List.any_eq_true.2 ⟨s.bar4Addr offset, ?_, by simpa using hbeyond⟩)
  exact List.mem_map.2 ⟨0, List.mem_range.2 (by decide), Nat.add_zero _⟩

end

/-! ### CXL.mem (R37, R38) -/

section
variable {s : State} {line : Nat} {data : Bytes} {d : HdmDec} (hreach : s.hostReaches = true)
  (hlo : 1 ≤ s.fld Reg.HST_LINK_STATUS_MODE) (hhi : s.fld Reg.HST_LINK_STATUS_MODE ≤ 3)
  (hmem : s.flag Reg.HST_LINK_STATUS_MEM_EN = true) (hide : s.hst.ideInsecure = false) (hdec : s.decoderOf (line * 64) = some d)
include hreach hlo hhi hmem hide hdec

/-- What a CXL.mem write of an exposed line does. -/
theorem State.cxlMem_writeLine (ecc : Ecc) :
    s.cxlMem true (line * 64) data ecc =
      if s.biWaits line then { s with hst := { s.hst with hostWait := s.hst.hostWait ++ [⟨true, line, data, ecc⟩] } }
      else s.memAccess ⟨true, line, data, ecc⟩ := by
  have hline : line * 64 / 64 = line := Nat.mul_div_cancel _ (by decide)
  have accepted : ¬(!s.hostReaches ∨ s.fld Reg.HST_LINK_STATUS_MODE = 0 ∨ 3 < s.fld Reg.HST_LINK_STATUS_MODE ∨
      !s.flag Reg.HST_LINK_STATUS_MEM_EN ∨ s.hst.ideInsecure ∨ s.decoderOf (line * 64) = none) := by
    rw [hreach, hmem, hide, hdec]
    simp
    omega
  unfold State.cxlMem
  dsimp only
  rw [hline]
  exact if_neg accepted

end

theorem State.memAccess_writeLine {s : State} {line : Nat} {data : Bytes} (ecc : Ecc) (hdata : data.length = 64)
    (hok : s.dramOk (line * 64) 64 = true) : s.memAccess ⟨true, line, data, ecc⟩ = s.dramPut (line * 64) data := by
  have whole : (data ++ List.replicate 64 0).take 64 = data := by rw [← hdata, List.take_left]
  unfold State.memAccess
  dsimp only
  rw [if_neg (by simp [hok]), if_pos rfl, whole]
  exact State.mergeWrite_wholeLine s 12 ecc (Nat.mul_mod_left ..) hdata

/-! ### Back-invalidate responses (R38) -/

/-- With no host access waiting, the response makes the oldest device write and nothing else. -/
theorem State.biResponse_head {s : State} {w : BiWrite} {rest : List BiWrite} (hwait : s.hst.biWait = w :: rest)
    (hhost : s.hst.hostWait = []) (hide : s.hst.ideInsecure = false) :
    s.biResponse w.line = State.dramPut { s with hst := { s.hst with biWait := rest } } (w.line * 64 + w.offset) w.data := by
  have taken : takeBi w.line s.hst.biWait = some (w, rest) := by
    rw [hwait]
    exact if_pos rfl
  have noHost : (State.dramPut { s with hst := { s.hst with biWait := rest } } (w.line * 64 + w.offset) w.data).hst.hostWait = [] := by
    rw [State.dramPut_hst]
    exact hhost
  unfold State.biResponse
  rw [if_neg (by simp [hide]), taken]
  dsimp only
  split
  · rfl
  · rw [noHost, List.filter_nil, List.filter_nil, List.foldl_nil, ← noHost]

/-- Settles O8: `stored_dramPut` for what is stored, and before it the way of each access to that store. -/
theorem hostMemoryAccesses : Obligations.HostMemoryAccesses := by
  intro s hc hwf
  refine ⟨fun offset data hreach hmode hdata halign hend => ⟨fun hfit hok => ?_, fun hbeyond => ?_⟩,
    fun line data d hreach hlo hhi hmem hide hdec hdata => ⟨fun hfree hok => ?_, fun hbusy => ?_⟩,
    fun w rest hwait hhost hide => ?_, fun line hflows => ?_⟩
  · exact Runs.of_run (f := fun s => s.bar4 true offset 0 data .clean) rfl hc
      (State.bar4_writeLine_within hreach hmode hdata halign hend .clean hfit hok) ⟨stored_dramPut hwf _ _, State.dramPut_hst ..⟩
  · exact Runs.of_run (f := fun s => s.bar4 true offset 0 data .clean) rfl hc
      (State.bar4_writeLine_beyond hreach hmode hdata halign hend .clean hbeyond)
      ⟨State.latched_latch s .hstWindow 0 (by decide), State.latch_mem s .hstWindow 0⟩
  · exact Runs.of_run (f := fun s => s.cxlMem true (line * 64) data .clean) rfl hc
      ((State.cxlMem_writeLine hreach hlo hhi hmem hide hdec .clean).trans
        ((if_neg (by simp [hfree])).trans (State.memAccess_writeLine .clean hdata hok)))
      ⟨stored_dramPut hwf _ _, State.dramPut_hst ..⟩
  · exact Runs.of_run (f := fun s => s.cxlMem true (line * 64) data .clean) rfl hc
      ((State.cxlMem_writeLine hreach hlo hhi hmem hide hdec .clean).trans (if_pos hbusy)) rfl
  · have only := onlyDram_dramPut (s := { s with hst := { s.hst with biWait := rest } }) hwf (w.line * 64 + w.offset) w.data
    unfold OnlyDram at only
    refine Runs.of_run (f := fun s => s.biResponse w.line) rfl hc (State.biResponse_head hwait hhost hide)
      ⟨State.dramPut_hst .., ?_, ?_⟩
    · exact stored_dramPut (s := { s with hst := { s.hst with biWait := rest } }) hwf _ _
    · rw [only]
  · obtain ⟨honly, hcache⟩ := cacheOnly_dropLine s line
    refine Runs.of_run (f := fun s => if s.cacheFlows then s.dropLine line else s) rfl hc (if_pos hflows) ⟨?_, fun l hl => ?_, honly⟩
    · rw [hcache]
      exact Tab.has_del_same ..
    · rw [hcache]
      exact Tab.get_del_other _ _ (Ne.symm hl)

end Sys2Proof.Machine
end

section
/-! PROOFS. Rings: their descriptor registers, enabling and disabling (03_rings_and_jobs.md R65, R66). -/

namespace Sys2Proof.Machine

/-! ### Register writes that the host or a regulator sends -/

/-- A register write that reaches its page does what its register does, after RSV_WRITE has latched for reserved bits. -/
theorem State.regCmd_open {s : State} {blk inst : Nat} (hflt : blk ≠ Blk.flt) (h : s.pageOpen blk inst = true) (rsv : Nat)
    (f : State → State) : s.regCmd blk inst rsv f = f (if rsv = 0 then s else s.latch (.rsvWrite blk) inst) := by
  simp only [State.pageOpen, Bool.and_eq_true] at h
  obtain ⟨⟨hreach, hpage⟩, hpar⟩ := h
  unfold State.regCmd State.onInst State.disarm State.underParity
  rw [if_pos hreach, if_pos hpage, if_neg hflt, Option.isNone_iff_eq_none.1 hpar]

/-- A register write that reaches its page and sets no reserved bit does what its register does. -/
theorem Runs.of_regCmd {c : Instr} {s t : State} {blk inst rsv : Nat} {f : State → State} {P : State → Prop}
    (hexec : exec c s = s.run fun s => s.regCmd blk inst rsv f) (hc : s.pwr.clocksStopped = false) (hflt : blk ≠ Blk.flt)
    (hopen : s.pageOpen blk inst = true) (hrsv : rsv = 0) (ht : f s = t) (h : P t) : Runs c s P :=
  Runs.of_run hexec hc ((State.regCmd_open hflt hopen rsv f).trans ((congrArg f (if_pos hrsv)).trans ht)) h

/-! ### Descriptor registers (R65) -/

section
variable {s : State} {r : Nat} (hr : r < s.variant.rings)
include hr

/-- What each descriptor register of a disabled ring but RNG_CFG takes. -/
theorem State.ringWrite_disabled (hen : (s.ring r).enable = false) (v : Nat) :
    s.ringWrite r 0 v = s.setRing r { s.ring r with base := addr64 (v / 4096 * 4096) ((s.ring r).base / 4294967296) } ∧
    s.ringWrite r 1 v = s.setRing r { s.ring r with base := addr64 ((s.ring r).base % 4294967296) v } ∧
    s.ringWrite r 3 v = s.setRing r { s.ring r with link := bits v 12 0, meter := bits v 27 16, meterEn := bit v 31 } ∧
    s.ringWrite r 4 v = s.setRing r { s.ring r with evqRing := bits v 12 0, evqEn := bit v 31 } := by
  have present : ¬s.variant.rings ≤ r := Nat.not_le_of_lt hr
  have disabled : ¬(s.ring r).enable = true := by simp [hen]
  refine ⟨?_, ?_, ?_, ?_⟩
  all_goals exact (if_neg present).trans ((if_neg (by decide)).trans ((if_neg (by decide)).trans (if_neg disabled)))

/-- An enabled ring takes no descriptor write, with or without reserved bits: no ring changes and RNG.cfg latches. -/
theorem State.ringWrite_enabled (hopen : s.pageOpen Blk.rng (r / 32) = true) (hen : (s.ring r).enable = true) {reg : Nat}
    (hreg : reg < 5) (hcfg : reg ≠ 2) (rsv v : Nat) :
    (s.regCmd Blk.rng (r / 32) rsv fun t => t.ringWrite r reg v).rng = s.rng ∧
    (s.regCmd Blk.rng (r / 32) rsv fun t => t.ringWrite r reg v).latched .rngCfg (r / 32) = true := by
  have refuses : ∀ t : State, t.variant = s.variant → t.rng = s.rng → t.ringWrite r reg v = t.latch .rngCfg (r / 32) :=
    fun t hvar hrng =>
      (if_neg (by rw [hvar]; exact Nat.not_le_of_lt hr)).trans
        ((if_neg hcfg).trans ((if_neg (Nat.not_le_of_lt hreg)).trans (if_pos (by unfold State.ring at *; rw [hrng]; exact hen))))
  rw [State.regCmd_open (by decide) hopen]
  split
  · rw [refuses s rfl rfl]
    exact ⟨State.latch_rng .., State.latched_latch _ .rngCfg _ (by decide)⟩
  · rw [refuses _ (State.latch_variant ..) (State.latch_rng ..)]
    exact ⟨(State.latch_rng ..).trans (State.latch_rng ..), State.latched_latch _ .rngCfg _ (by decide)⟩

theorem State.ringWrite_cfg (v : Nat) : s.ringWrite r 2 v = s.ringCfg r v :=
  (if_neg (Nat.not_le_of_lt hr)).trans (if_pos rfl)

end

/-- The class that a value of RNG_CFG names. -/
theorem bits_cls (v : Nat) : bits v 2 0 = v % 8 := by simp [bits]

/-- The base of a ring from a value of RNG_BASE_LO without reserved bits. -/
theorem addr64_base_low {v : Word} (h : rsvBits v 0xFFFFF000 = 0) (hi : Nat) :
    addr64 (v.toNat / 4096 * 4096) hi = hi * 4294967296 + v.toNat := by
  have aligned : v.toNat % 4096 = 0 := by
    rw [show (4096 : Nat) = 2 ^ 12 from rfl, ← Nat.and_two_pow_sub_one_eq_mod]
    exact h
  unfold addr64
  omega

/-! ### ENABLE (R66) -/

section
variable {s : State} {r v : Nat} (hcls : v % 8 ≠ 7) (hlo : 6 ≤ v / 16 % 32) (hhi : v / 16 % 32 ≤ 20)
include hcls hlo hhi

/-- The class and the size of a value of RNG_CFG are ones that a ring can have. -/
theorem ringCfg_taken : ¬(bits v 2 0 = 7 ∨ bits v 8 4 < 6 ∨ 20 < bits v 8 4) := by
  unfold bits
  omega

theorem State.ringCfg_enables (hen : (s.ring r).enable = false) (hbit : bit v 11 = true)
    (hok : s.enableOk r { s.ring r with cls := v % 8, sizeLog2 := v / 16 % 32, memspace := bit v 9, coherent := bit v 10 } = true) :
    s.ringCfg r v =
      s.setRing r (Ring.enabled { s.ring r with cls := v % 8, sizeLog2 := v / 16 % 32, memspace := bit v 9, coherent := bit v 10 }) := by
  have taken := ringCfg_taken hcls hlo hhi
  unfold State.ringCfg
  dsimp only
  rw [if_neg taken, if_neg (by simp [hen]), if_neg (by simp [hbit]), bits_cls]
  exact if_pos hok

theorem State.ringCfg_disables (hen : (s.ring r).enable = true) (hbit : bit v 11 = false) (hsame : v % 8 = (s.ring r).cls)
    (hsize : v / 16 % 32 = (s.ring r).sizeLog2) (hspace : bit v 9 = (s.ring r).memspace) (hcoh : bit v 10 = (s.ring r).coherent) :
    s.ringCfg r v = s.disableRing r := by
  have taken := ringCfg_taken hcls hlo hhi
  have unchanged : ¬(bits v 2 0 ≠ (s.ring r).cls ∨ bits v 8 4 ≠ (s.ring r).sizeLog2 ∨ bit v 9 ≠ (s.ring r).memspace ∨
      bit v 10 ≠ (s.ring r).coherent) := by
    simpa [bits, hspace, hcoh] using ⟨hsame, hsize⟩
  unfold State.ringCfg
  dsimp only
  rw [if_neg taken, if_pos hen, if_neg unchanged, if_neg (by simp [hbit])]

end

/-- A ring without packet records holds no buffers, so that disabling it changes nothing but the ring. -/
theorem State.disableRing_empty {s : State} {r : Nat} (h : (s.ring r).pkts = []) :
    (s.disableRing r).ring r =
      { s.ring r with enable := false, lost := wrap 64 ((s.ring r).lost + (s.ring r).count), count := 0, pend := 0, unread := 0
                      devPkts := [] } ∧
    (s.disableRing r).mem = s.mem := by
  unfold State.disableRing State.dropPkts
  simp [h]

/-- Settles O12: a disabled ring takes its descriptor (`ringWrite_disabled`), an enabled one only latches, and RNG_CFG enables or
disables as its ENABLE bit says. -/
theorem ringControl : Obligations.RingControl := by
  intro s r v hc hr hopen
  refine ⟨fun hen hv => ?_, fun hen hv => ?_, fun hen hv => ?_, fun hen => ?_, fun reg hreg hcfg hen => ?_,
    fun hen hv hbit hcls hlo hhi hok => ?_, fun hen hv hbit hsame hcls hsize hlo hhi hspace hcoh hpkts => ?_⟩
  · obtain ⟨-, -, link, -⟩ := State.ringWrite_disabled hr hen v.toNat
    exact Runs.of_regCmd rfl hc (by decide) hopen hv link (by simp [bits])
  · obtain ⟨-, -, -, evq⟩ := State.ringWrite_disabled hr hen v.toNat
    exact Runs.of_regCmd rfl hc (by decide) hopen hv evq (by simp [bits])
  · obtain ⟨low, -, -, -⟩ := State.ringWrite_disabled hr hen v.toNat
    exact Runs.of_regCmd rfl hc (by decide) hopen hv low (by rw [addr64_base_low hv])
  · obtain ⟨-, high, -, -⟩ := State.ringWrite_disabled hr hen v.toNat
    exact Runs.of_regCmd rfl hc (by decide) hopen (by simp [rsvBits]) high (by rw [addr64, Nat.mul_comm])
  · exact Runs.of_run rfl hc rfl (State.ringWrite_enabled hr hopen hen hreg hcfg _ _)
  · exact Runs.of_regCmd rfl hc (by decide) hopen hv
      ((State.ringWrite_cfg hr _).trans (State.ringCfg_enables hcls hlo hhi hen hbit hok)) rfl
  · obtain ⟨hring, hmem⟩ := State.disableRing_empty hpkts
    refine Runs.of_regCmd rfl hc (by decide) hopen hv ((State.ringWrite_cfg hr _).trans
      (State.ringCfg_disables hcls (by rw [hsize]; exact hlo) (by rw [hsize]; exact hhi) hen hbit hsame hsize hspace hcoh)) ?_
    rw [hring]
    exact ⟨rfl, rfl, rfl, rfl, rfl, hmem⟩

end Sys2Proof.Machine
end

section
/-! PROOFS. Meters and the synchronous query registers (03_rings_and_jobs.md R73 to R75). -/

namespace Sys2Proof.Machine

/-! ### Meters (R75) -/

section
variable {s : State} {m : Nat} (hm : m < s.variant.meters) (hen : (s.meter m).enable = false)
include hm hen

theorem State.meterCfg_enables {v : Nat} (hv : bit v 0 = true) :
    s.meterCfg m v =
      s.setMeter m { s.meter m with
        mode := bits v 1 1, enable := true, last := s.uclk
        tc := (s.meter m).cbs * tokens, tp := (s.meter m).pebs * tokens, te := (s.meter m).pebs * tokens } := by
  have rises : bit v 0 = true ∧ (!(s.meter m).enable) = true := ⟨hv, by simp [hen]⟩
  exact (if_neg (Nat.not_le_of_lt hm)).trans (if_pos rises)

/-- A disabled meter does not fill: MTR_CIR only sets the rate, MTR_CBS the size and, at most, the level. -/
theorem State.meterRate_disabled (v : Nat) :
    s.meterRate m 1 v = s.setMeter m { s.meter m with cir := v % 2 ^ 24 } ∧
    s.meterRate m 3 v =
      s.setMeter m { s.meter m with cbs := v % 2 ^ 24, tc := min (s.meter m).tc (v % 2 ^ 24 * tokens) } := by
  have still : (if (s.meter m).enable then (s.meter m).fill s.uclk else s.meter m) = s.meter m := if_neg (by simp [hen])
  unfold State.meterRate
  rw [if_neg (Nat.not_le_of_lt hm), if_neg (Nat.not_le_of_lt hm)]
  dsimp only
  rw [still]
  exact ⟨rfl, rfl⟩

end

/-! ### A field's first registers written in turn -/

/-- Registers 0 to `n - 1` of a field, each with its value. -/
def State.setFlds (s : State) (f : Fld) (g : Nat → Nat) (n : Nat) : State :=
  (List.range n).foldl (fun t k => t.setFld f k (g k)) s

theorem State.setFlds_rng (s : State) (f : Fld) (g : Nat → Nat) (n : Nat) : (s.setFlds f g n).rng = s.rng :=
  State.foldl_part (f := fun t k => t.setFld f k (g k)) (g := State.rng) (fun _ _ => rfl) _ s

theorem State.fld_setFlds (s : State) (f : Fld) (g : Nat → Nat) {n k : Nat} (h : k < n) :
    (s.setFlds f g n).fld f k = g k % 2 ^ f.width := by
  induction n with
  | zero => exact absurd h (Nat.not_lt_zero k)
  | succ n ih =>
    have last : s.setFlds f g (n + 1) = (s.setFlds f g n).setFld f n (g n) := by
      simp [State.setFlds, List.range_succ]
    rw [last]
    by_cases hk : k = n
    · rw [hk, State.fld_setFld]
    · rw [State.fld_setFld_index _ _ _ (Ne.symm hk), ih (by omega)]

theorem State.fld_setFlds_other (s : State) {f e : Fld} (g : Nat → Nat) (n : Nat) {j : Nat} (hne : f.id ≠ e.id) (hf : f.id < 1024)
    (he : e.id < 1024) : (s.setFlds f g n).fld e j = s.fld e j :=
  State.foldl_part (f := fun t k => t.setFld f k (g k)) (g := fun t => t.fld e j) (fun t k => State.fld_setFld_other t (g k) hne hf he) _ s

/-! ### Synchronous queries (R73) -/

theorem State.queryCtl_idle {s : State} (h : s.rng.query = none) (v : Nat) :
    s.queryCtl v =
      (State.setFld (State.setFld { s with rng := { s.rng with query := some (bits v 7 0, bits v 31 8) } }
        Reg.SYS_QUERY_RESULT_VALID 0 0) Reg.SYS_QUERY_RESULT_READS 0 0).setFlds Reg.SYS_QUERY_DATA (fun _ => 0) 4 := by
  unfold State.queryCtl
  rw [h]
  rfl

theorem State.queryCtl_busy {s : State} (h : s.rng.query ≠ none) (v : Nat) :
    s.queryCtl v = s.countSat Reg.SYS_QUERY_RESULT_IGNORED := by
  obtain ⟨q, hq⟩ := Option.ne_none_iff_exists'.1 h
  unfold State.queryCtl
  rw [hq]

/-- The data registers hold the answer; the result's sequence number, status and VALID are still to come. -/
def State.answered (s : State) (sel arg : Nat) : State :=
  State.setFlds { s with rng := { s.rng with query := none } } Reg.SYS_QUERY_DATA (fun k => (s.answer 0 sel arg).2.getD k 0) 4

theorem State.queryReady_eq {s : State} {sel arg : Nat} (h : s.rng.query = some (sel, arg)) :
    s.queryReady =
      (((s.answered sel arg).count Reg.SYS_QUERY_RESULT_SEQ).setFld Reg.SYS_QUERY_RESULT_STATUS 0 (s.answer 0 sel arg).1).setFld
        Reg.SYS_QUERY_RESULT_VALID 0 1 := by
  unfold State.queryReady
  rw [h]
  rfl

theorem State.fld_answered_other (s : State) (sel arg : Nat) {e : Fld} (hne : Reg.SYS_QUERY_DATA.id ≠ e.id) (he : e.id < 1024) :
    (s.answered sel arg).fld e = s.fld e :=
  State.fld_setFlds_other _ _ _ hne (by decide) he

/-- A counter that saturates at its field's width. -/
theorem State.fld_countSat (s : State) (f : Fld) : (s.countSat f).fld f = min (s.fld f + 1) (2 ^ f.width - 1) := by
  have below : min (s.fld f + 1) (2 ^ f.width - 1) < 2 ^ f.width :=
    Nat.lt_of_le_of_lt (Nat.min_le_right _ _) (Nat.sub_lt (Nat.two_pow_pos _) Nat.one_pos)
  exact (State.fld_setFld ..).trans (Nat.mod_eq_of_lt below)

theorem State.fld_queryReady {s : State} {sel arg : Nat} (h : s.rng.query = some (sel, arg)) :
    s.queryReady.rng.query = none ∧ s.queryReady.fld Reg.SYS_QUERY_RESULT_VALID = 1 ∧
    s.queryReady.fld Reg.SYS_QUERY_RESULT_SEQ = (s.fld Reg.SYS_QUERY_RESULT_SEQ + 1) % 256 ∧
    s.queryReady.fld Reg.SYS_QUERY_RESULT_STATUS = (s.answer 0 sel arg).1 % 256 ∧
    s.queryReady.fld Reg.SYS_QUERY_DATA 0 = (s.answer 0 sel arg).2.getD 0 0 % 4294967296 := by
  rw [State.queryReady_eq h]
  refine ⟨congrArg RingSt.query (State.setFlds_rng ..), State.fld_setFld .., ?_, ?_, ?_⟩
  · simp (disch := decide) only [State.count, State.fld_setFld_other, State.fld_answered_other, State.fld_setFld]
    rfl
  · simp (disch := decide) only [State.fld_setFld_other, State.fld_setFld]
    rfl
  · simp (disch := decide) only [State.count, State.fld_setFld_other]
    exact State.fld_setFlds _ _ _ (by decide)

/-- Settles O14: the equation of each command in the case that its clause names, read at the fields of the result. -/
theorem metersAndSynchronousQuery : Obligations.MetersAndSynchronousQuery := by
  intro s hc
  refine ⟨fun m v hm hopen hrsv hv hen => ?_, fun m v hm hopen hrsv hen => ⟨?_, ?_⟩,
    fun v hopen => ⟨fun hidle => ?_, fun hbusy => ?_⟩, fun sel arg hq => ?_, fun hvalid => ?_⟩
  · refine Runs.of_regCmd rfl hc (by decide) hopen hrsv (State.meterCfg_enables hm hen hv) ?_
    rw [State.meter_setMeter]
    exact ⟨rfl, rfl, rfl, rfl, rfl, rfl⟩
  · exact Runs.of_regCmd rfl hc (by decide) hopen hrsv (State.meterRate_disabled hm hen _).1 rfl
  · exact Runs.of_regCmd rfl hc (by decide) hopen hrsv (State.meterRate_disabled hm hen _).2 rfl
  · refine Runs.of_regCmd rfl hc (by decide) hopen rfl (State.queryCtl_idle hidle _) ⟨?_, ?_, ?_, ?_⟩
    · rw [State.setFlds_rng]
      simp [State.setFld, bits]
    · rw [State.fld_setFlds_other _ _ _ (by decide) (by decide) (by decide),
        State.fld_setFld_other _ _ (by decide) (by decide) (by decide)]
      exact State.fld_setFld ..
    · rw [State.fld_setFlds_other _ _ _ (by decide) (by decide) (by decide)]
      exact State.fld_setFld ..
    · exact State.fld_setFlds _ _ _ (by decide)
  · exact Runs.of_regCmd rfl hc (by decide) hopen rfl (State.queryCtl_busy hbusy _) ⟨rfl, State.fld_countSat ..⟩
  · exact Runs.of_run rfl hc rfl (State.fld_queryReady hq)
  · exact Runs.of_run rfl hc (if_pos hvalid)
      ⟨State.fld_countSat .., State.fld_setFld_other _ _ (by decide) (by decide) (by decide)⟩

end Sys2Proof.Machine
end

section
/-! PROOFS. Commands, jobs and completions (03_rings_and_jobs.md R54, R58, R68 to R70; 02_host_attachment.md R39, R40). -/

namespace Sys2Proof.Machine

/-! ### Reading an entry leaves rings, jobs and registers alone (R39) -/

/-- `t` has the variant, the registers and the rings, meters and jobs of `s`. -/
structure SameRings (s t : State) : Prop where
  variant : t.variant = s.variant
  regs : t.regs = s.regs
  rng : t.rng = s.rng

theorem SameRings.refl (s : State) : SameRings s s := ⟨rfl, rfl, rfl⟩

theorem SameRings.trans {a b c : State} (h : SameRings a b) (k : SameRings b c) : SameRings a c :=
  ⟨k.variant.trans h.variant, k.regs.trans h.regs, k.rng.trans h.rng⟩

theorem SameRings.foldl {α : Type} {f : State → α → State} (h : ∀ t a, SameRings t (f t a)) (l : List α) (s : State) :
    SameRings s (l.foldl f s) := by
  induction l generalizing s with
  | nil => exact .refl s
  | cons a l ih => exact (h s a).trans (ih _)

theorem sameRings_biasRead (s : State) (a len : Nat) : SameRings s (s.biasRead a len) := by
  have accepted : SameRings s (s.readsAccepted a len) := ⟨rfl, rfl, rfl⟩
  unfold State.biasRead
  dsimp only
  split
  · exact accepted
  · exact accepted.trans (SameRings.foldl (f := fun t l => t.request ⟨.rdShared, l * 64, 64, none, true⟩)
      (fun _ _ => ⟨rfl, rfl, rfl⟩) _ _)

theorem sameRings_entryAt (s : State) (r i : Nat) (given : Bytes) : SameRings s (s.entryAt r i given).2 := by
  unfold State.entryAt
  dsimp only
  split
  · exact sameRings_biasRead ..
  · split
    · exact ⟨rfl, rfl, rfl⟩
    · split
      · exact .refl s
      · exact ⟨State.cachePut_variant .., State.cachePut_regs .., State.cachePut_rng ..⟩

/-- What refuses a command is in the entry, the registers and the jobs in flight (R70). -/
theorem State.rejection_congr {s t : State} (h : SameRings s t) (r : Nat) (e : Bytes) : t.rejection r e = s.rejection r e := by
  have fld : ∀ f i, t.fld f i = s.fld f i := State.fld_congr h.variant h.regs
  have tenant : t.ringTenant r = s.ringTenant r := by
    unfold State.ringTenant State.flag
    rw [fld, fld]
  unfold State.rejection State.jobCount
  dsimp only
  rw [tenant, fld, h.variant, h.rng]

theorem State.newJob_congr {s t : State} (h : t.rng.jobs = s.rng.jobs) (r i : Nat) : t.newJob r i = s.newJob r i := by
  unfold State.newJob
  rw [h]

/-! ### Accepting a command (R68) -/

/-- The entry becomes a job under its number; other jobs and the rings stay. -/
theorem State.accept_parts (s : State) (r index : Nat) (e : Bytes) :
    Tab.has (s.accept r index e).rng.jobs (s.newJob r index) = true ∧
    (∃ w, (s.accept r index e).job (s.newJob r index) =
      { ring := r, index := index, opcode := field e 0 1, tag := bits (field e 2 2) 9 0, tenant := (s.ringTenant r).getD 0
        abi := s.fld Reg.HST_TENANT_ABI ((s.ringTenant r).getD 0), fence := bit (field e 5 1) 0, silent := bit (field e 5 1) 1
        seq := s.rng.jobSeq, args := e, waits := w }) ∧
    (∀ k, k ≠ s.newJob r index → (s.accept r index e).job k = s.job k) ∧
    ∀ q, (s.accept r index e).ring q = s.ring q := by
  refine ⟨Tab.has_set_same .., ⟨_, Tab.get_set_same ..⟩, fun k hk => ?_, fun q => rfl⟩
  exact (Tab.get_set_other _ _ _ (Ne.symm hk)).trans (Tab.get_set_other _ _ _ (Ne.symm hk))

/-! ### A record leaves the command rings alone -/

/-- Every command ring of `s` is in `t` as it was. -/
def SameCommandRings (s t : State) : Prop := ∀ r, (s.ring r).cls = 1 → t.ring r = s.ring r

theorem SameCommandRings.of_rng {s t : State} (h : t.rng = s.rng) : SameCommandRings s t := fun r _ => by
  unfold State.ring
  rw [h]

theorem SameCommandRings.refl (s : State) : SameCommandRings s s := fun _ _ => rfl

theorem SameCommandRings.trans {a b c : State} (h : SameCommandRings a b) (k : SameCommandRings b c) : SameCommandRings a c :=
  fun r hr => (k r (by rw [h r hr]; exact hr)).trans (h r hr)

theorem sameCommandRings_setRing {s : State} {l : Nat} (h : (s.ring l).cls ≠ 1) (x : Ring) : SameCommandRings s (s.setRing l x) :=
  fun r hr => State.ring_setRing_other s l x fun hl => h (by rw [hl]; exact hr)

theorem sameCommandRings_loseEvent (s : State) (r : Nat) : SameCommandRings s (s.loseEvent r) := by
  unfold State.loseEvent
  split
  · exact .refl s
  · exact sameCommandRings_setRing (by omega) _

theorem sameCommandRings_recordAt (s : State) (r : Nat) {cls : Nat} (hcls : cls ≠ 1) (items : List (Nat → Bytes)) :
    SameCommandRings s (s.recordAt r cls items) := by
  unfold State.recordAt
  dsimp only
  split
  · exact .refl s
  · have produced : (s.ring r).cls ≠ 1 := by omega
    split
    · exact sameCommandRings_setRing produced _
    · have put : ∀ t : State, t.rng = s.rng → ∀ x : Ring, SameCommandRings s (t.setRing r x) := fun t ht x =>
        (SameCommandRings.of_rng ht).trans (sameCommandRings_setRing (by unfold State.ring at *; rw [ht]; exact produced) x)
      refine put _ ?_ _
      split
      · exact State.putCoherent_rng ..
      · exact State.putItems_rng ..

/-- A mismatch of the duplicate indices halts only rings that take records (R67). -/
theorem sameCommandRings_recordN (s : State) (r : Nat) {cls : Nat} (hcls : cls ≠ 1) (items : List (Nat → Bytes)) (n : Nat) :
    SameCommandRings s (s.recordN r cls items n) := by
  induction n generalizing s r cls items with
  | zero => exact sameCommandRings_recordAt s r hcls items
  | succ n ih =>
    unfold State.recordN
    dsimp only
    split
    · exact sameCommandRings_recordAt s r hcls items
    · split
      · exact sameCommandRings_recordAt s r hcls items
      · rename_i htakes u hu
        have hrng := s.takeInject_rng _ _ u hu
        have produced : (u.ring r).cls ≠ 1 := by
          unfold State.ring at *
          rw [hrng]
          omega
        have halted : SameCommandRings s (u.setRing r (s.ring r).halt) :=
          (SameCommandRings.of_rng hrng).trans (sameCommandRings_setRing produced _)
        refine SameCommandRings.trans ?_ (sameCommandRings_recordAt _ r hcls items)
        refine SameCommandRings.trans ?_ (.of_rng (State.latch_rng ..))
        split
        · exact halted.trans (ih _ _ (by decide) _)
        · exact halted.trans (sameCommandRings_loseEvent _ _)

/-! ### COMMAND_FETCH (R39, R54, R68 to R70) -/

/-- A command ring that holds an entry which can be read now (R48). -/
structure Fetchable (s : State) (r : Nat) : Prop where
  enable : (s.ring r).enable = true
  halted : (s.ring r).halted = false
  stopped : (s.ring r).stopped = false
  cls : (s.ring r).cls = 1
  count : (s.ring r).count ≠ 0
  present : r < s.variant.rings
  page : s.pageEnabled Blk.rng (r / 32) = true
  readable : s.entriesHeld (s.ring r) = false

/-- The entry at CI has been read and taken off its ring. -/
def State.entryTaken (s : State) (r : Nat) (given : Bytes) : State :=
  (s.entryAt r (s.ring r).ci given).2.setRing r
    { s.ring r with ci := wrap 32 ((s.ring r).ci + 1), count := (s.ring r).count - 1, consumed := wrap 64 ((s.ring r).consumed + 1) }

theorem State.entryTaken_jobs (s : State) (r : Nat) (given : Bytes) : (s.entryTaken r given).rng.jobs = s.rng.jobs :=
  (congrArg RingSt.jobs (sameRings_entryAt s r (s.ring r).ci given).rng :)

/-- An entry that no case of R70 refuses becomes a job; a refused one has its completion written with the case's status. -/
theorem State.fetchCommand_eq {s : State} {r : Nat} (h : Fetchable s r) (hinj : (s.takeInject .rngPtr (r / 32)).isNone = true)
    (given : Bytes) : ∃ tag abi : Nat, s.fetchCommand r given =
      if s.rejection r (s.entryAt r (s.ring r).ci given).1 = 0 then
        (s.entryTaken r given).accept r (s.ring r).ci (s.entryAt r (s.ring r).ci given).1
      else
        (s.entryTaken r given).completion r (s.ring r).ci tag abi (s.rejection r (s.entryAt r (s.ring r).ci given).1) 0 0 0 0 := by
  have fetches : ¬(!(s.ring r).enable ∨ (s.ring r).halted ∨ (s.ring r).stopped ∨ (s.ring r).cls ≠ 1 ∨ (s.ring r).count = 0 ∨
      s.variant.rings ≤ r ∨ !s.pageEnabled Blk.rng (r / 32) ∨ s.entriesHeld (s.ring r)) := by
    simp [h.enable, h.halted, h.stopped, h.cls, h.count, h.present, h.page, h.readable]
  refine ⟨bits (field (s.entryAt r (s.ring r).ci given).1 2 2) 9 0,
    (s.entryAt r (s.ring r).ci given).2.fld Reg.HST_TENANT_ABI (((s.entryAt r (s.ring r).ci given).2.ringTenant r).getD 0), ?_⟩
  unfold State.fetchCommand
  dsimp only
  rw [if_neg fetches, State.ringAccess_of_isNone hinj, ← State.rejection_congr (sameRings_entryAt s r (s.ring r).ci given)]
  split
  · rename_i hok
    rw [if_pos hok]
    rfl
  · rename_i hno
    rw [if_neg hno]
    rfl

theorem runs_commandFetch_accepted {s : State} {r : Nat} (hc : s.pwr.clocksStopped = false) (h : Fetchable s r)
    (hinj : (s.takeInject .rngPtr (r / 32)).isNone = true) (entry : Bytes)
    (hok : s.rejection r (s.entryAt r (s.ring r).ci entry).1 = 0) : Runs (.commandFetch r entry) s fun t =>
      let e := (s.entryAt r (s.ring r).ci entry).1
      let j := s.newJob r (s.ring r).ci
      Tab.has t.rng.jobs j = true ∧ (t.job j).ring = r ∧ (t.job j).index = (s.ring r).ci ∧
      (t.job j).opcode = field e 0 1 ∧ (t.job j).tag = field e 2 2 % 1024 ∧ (t.job j).args = e ∧
      (t.job j).started = false ∧ (∀ k, k ≠ j → t.job k = s.job k) ∧
      (t.ring r).count = (s.ring r).count - 1 ∧ (t.ring r).ci = ((s.ring r).ci + 1) % 4294967296 := by
  obtain ⟨tag, abi, fetched⟩ := State.fetchCommand_eq h hinj entry
  obtain ⟨listed, ⟨w, job⟩, others, rings⟩ :=
    (s.entryTaken r entry).accept_parts r (s.ring r).ci (s.entryAt r (s.ring r).ci entry).1
  have jobs := s.entryTaken_jobs r entry
  rw [State.newJob_congr jobs] at listed job others
  refine Runs.of_run (f := fun s => s.fetchCommand r entry) rfl hc (fetched.trans (if_pos hok)) ?_
  dsimp only
  rw [job, rings, State.entryTaken, State.ring_setRing]
  refine ⟨listed, rfl, rfl, rfl, by simp [bits], rfl, rfl, fun k hk => (others k hk).trans ?_, rfl, rfl⟩
  unfold State.job
  rw [jobs]

theorem runs_commandFetch_refused {s : State} {r : Nat} (hc : s.pwr.clocksStopped = false) (h : Fetchable s r)
    (hinj : (s.takeInject .rngPtr (r / 32)).isNone = true) (entry : Bytes)
    (hno : s.rejection r (s.entryAt r (s.ring r).ci entry).1 ≠ 0) : Runs (.commandFetch r entry) s fun t =>
      t.rng.jobs = s.rng.jobs ∧ (t.ring r).count = (s.ring r).count - 1 ∧ (t.ring r).ci = ((s.ring r).ci + 1) % 4294967296 := by
  obtain ⟨tag, abi, fetched⟩ := State.fetchCommand_eq h hinj entry
  have taken : (s.entryTaken r entry).ring r = _ := State.ring_setRing ..
  refine Runs.of_run (f := fun s => s.fetchCommand r entry) rfl hc (fetched.trans (if_neg hno)) ?_
  have kept := sameCommandRings_recordN (s.entryTaken r entry) ((s.entryTaken r entry).ring r).link (cls := 2) (by decide)
  unfold State.completion State.record
  rw [kept _ _ r (by rw [taken]; exact h.cls), taken]
  exact ⟨(sameStops_recordN ..).jobs.trans (s.entryTaken_jobs r entry), rfl, rfl⟩

/-! ### Jobs that end (R69) -/

theorem State.has_of_canStart {s : State} {j op : Nat} (h : s.canStart j op = true) : Tab.has s.rng.jobs j = true := by
  simp only [State.canStart, State.ready, Bool.and_eq_true] at h
  obtain ⟨⟨⟨⟨⟨listed, -⟩, -⟩, -⟩, -⟩, -⟩ := h
  exact listed

/-- The state in which the completion of a job that ends is written: the job is no longer in flight. -/
def State.jobEnded (s : State) (j : Nat) : State := { s with rng := { s.rng with jobs := Tab.del s.rng.jobs j } }

/-- The end of a job touches no other job. -/
theorem State.job_finish_other {s : State} {j k : Nat} (hk : k ≠ j) (status r0 r1 r2 r3 : Nat) :
    (s.finish j status r0 r1 r2 r3).job k = s.job k := by
  have ended : Tab.get {} (Tab.del s.rng.jobs j) k = s.job k := Tab.get_del_other _ _ (Ne.symm hk)
  unfold State.finish
  dsimp only
  split
  · split
    · exact ended
    · exact (congrArg (Tab.get {} · k) (sameStops_recordN (s.jobEnded j) ..).jobs).trans ended
  · rfl

/-- What the end of a job leaves: it is no longer in flight, the other jobs, the decode array and the calibres are as before. -/
theorem State.finish_frame (s : State) (j status r0 r1 r2 r3 : Nat) :
    Tab.has (s.finish j status r0 r1 r2 r3).rng.jobs j = false ∧ (∀ k, k ≠ j → (s.finish j status r0 r1 r2 r3).job k = s.job k) ∧
    (s.finish j status r0 r1 r2 r3).dec = s.dec ∧ (s.finish j status r0 r1 r2 r3).clb = s.clb :=
  ⟨(s.finish_ends ..).1, fun _ hk => State.job_finish_other hk .., State.finish_dec .., State.finish_clb ..⟩

/-! ### A record of one item in host memory (R54, R58, R40) -/

section
variable {s : State} (hclean : ∀ e ∈ s.hst.ccache, e.2.dirty = false)
include hclean

/-- A clean line leaves the line cache without a write. -/
theorem State.dropLine_hostMem (line : Nat) : (s.dropLine line).hst.mem = s.hst.mem := by
  unfold State.dropLine
  split
  · rename_i e he
    have unwritten : s.writeBack line e.2 = s := if_pos (by simp [hclean e (List.mem_of_find?_eq_some he)])
    rw [unwritten]
  · rfl

theorem State.cacheRoom_hostMem : s.cacheRoom.hst.mem = s.hst.mem := by
  unfold State.cacheRoom
  split
  · rfl
  · split
    · dsimp only
      split
      · exact State.dropLine_hostMem (s := { s with freeCtr := s.freeCtr + 1 }) hclean _
      · exact State.dropLine_hostMem (s := { s with freeCtr := s.freeCtr + 1 }) hclean _
    · rfl

theorem State.cachePut_hostMem (k : ReqKind) (a : Nat) (bs : Bytes) (dirty : Bool) (t : Option Nat) :
    (s.cachePut k a bs dirty t).hst.mem = s.hst.mem := by
  have room : (if Tab.has s.hst.ccache (a / 64) then s else s.cacheRoom).hst.mem = s.hst.mem := by
    split
    · rfl
    · exact State.cacheRoom_hostMem hclean
  unfold State.cachePut
  dsimp only
  split
  · exact room
  · exact room

theorem State.mergeItem_hostMem (a : Nat) (bs : Bytes) (t : Option Nat) :
    (s.mergeItem a bs t).hst.mem = s.hst.mem.writeBytes a bs :=
  congrArg (Mem.writeBytes · a bs) (State.cachePut_hostMem hclean .rdOwn a bs true t)

end

theorem Ring.reserve_of_fits {x : Ring} {k : Nat} (h : x.count + k ≤ x.size) (ps : List Nat) : x.reserve k ps = x := by
  cases ps with
  | nil => rfl
  | cons p ps => exact if_neg (Nat.not_lt_of_le h)

/-- Whether an error is armed for a source is in the registers. -/
theorem State.takeInject_isNone_congr {s t : State} (hv : t.variant = s.variant) (hr : t.regs = s.regs) (src : Src) (i : Nat) :
    (t.takeInject src i).isNone = (s.takeInject src i).isNone := by
  unfold State.takeInject
  dsimp only
  rw [State.fld_congr hv hr, State.fld_congr hv hr]
  split
  · rfl
  · rfl

/-- With no error armed for the duplicate indices, a record is written (R67). -/
theorem State.recordN_of_isNone {s : State} {r : Nat} (h : (s.takeInject .rngPtr (r / 32)).isNone = true) (cls : Nat)
    (items : List (Nat → Bytes)) (n : Nat) : s.recordN r cls items n = s.recordAt r cls items := by
  cases n with
  | zero => rfl
  | succ n =>
    unfold State.recordN
    dsimp only
    split
    · rfl
    · rw [Option.isNone_iff_eq_none.1 h]

/-- One item put in its place and phase on a ring in host memory. -/
def State.itemPut (s : State) (r : Nat) (item : Nat → Bytes) : State :=
  if s.coherent (s.ring r) then s.mergeItem ((s.ring r).itemAddr (s.ring r).pi) (item ((s.ring r).phase (s.ring r).pi)) (s.ringTenant r)
  else s.hostWrite ((s.ring r).itemAddr (s.ring r).pi) (item ((s.ring r).phase (s.ring r).pi)) (s.ringTenant r)

/-- A record of one item that the ring takes and has room for. -/
theorem State.recordAt_one {s : State} {r cls : Nat} (hr : r < s.variant.rings) (hcls : (s.ring r).cls = cls)
    (htakes : s.ringBlocked (s.ring r) = false) (hhost : (s.ring r).memspace = false)
    (hroom : (s.ring r).count + 1 ≤ (s.ring r).size) (item : Nat → Bytes) :
    s.recordAt r cls [item] =
      (s.itemPut r item).setRing r { s.ring r with
        pi := wrap 32 ((s.ring r).pi + 1), count := (s.ring r).count + 1, produced := wrap 64 ((s.ring r).produced + 1)
        devPkts := (s.ring r).devPkts ++ [1] } := by
  have takes : ¬(s.variant.rings ≤ r ∨ (s.ring r).cls ≠ cls) := by
    rintro (absent | other)
    · exact Nat.not_le_of_lt hr absent
    · exact other hcls
  have plain : s.putItems r (s.ring r) (s.ring r).pi [item] =
      s.hostWrite ((s.ring r).itemAddr (s.ring r).pi) (item ((s.ring r).phase (s.ring r).pi)) (s.ringTenant r) :=
    if_neg (by simp [hhost])
  unfold State.recordAt
  dsimp only
  rw [if_neg takes, if_neg (by simp [htakes]), List.length_singleton, Ring.reserve_of_fits hroom, plain]
  rfl

/-- The item is written to host memory, and to no other. -/
theorem State.itemPut_mems {s : State} {r : Nat} (hclean : s.coherent (s.ring r) = true → ∀ e ∈ s.hst.ccache, e.2.dirty = false)
    (item : Nat → Bytes) :
    (s.itemPut r item).hst.mem =
      s.hst.mem.writeBytes ((s.ring r).itemAddr (s.ring r).pi) (item ((s.ring r).phase (s.ring r).pi)) ∧
    (s.itemPut r item).mem = s.mem := by
  unfold State.itemPut
  split
  · exact ⟨State.mergeItem_hostMem (hclean ‹_›) .., State.mergeItem_mem ..⟩
  · exact ⟨rfl, rfl⟩

theorem completionBytes_length (tag status r0 r1 r2 frame r3 ring index phase : Nat) :
    (completionBytes tag status r0 r1 r2 frame r3 ring index phase).length = 32 := by
  simp [completionBytes, leBytes_length]

/-- A job whose completion ring in host memory takes a record and has room for one more (R58, R59). -/
structure Completable (s : State) (j : Nat) : Prop where
  present : (s.ring (s.job j).ring).link < s.variant.rings
  cls : (s.ring (s.ring (s.job j).ring).link).cls = 2
  takes : s.ringBlocked (s.ring (s.ring (s.job j).ring).link) = false
  disarmed : (s.takeInject .rngPtr ((s.ring (s.job j).ring).link / 32)).isNone = true
  host : (s.ring (s.ring (s.job j).ring).link).memspace = false
  clean : s.coherent (s.ring (s.ring (s.job j).ring).link) = true → ∀ e ∈ s.hst.ccache, e.2.dirty = false
  room : (s.ring (s.ring (s.job j).ring).link).count + 1 ≤ (s.ring (s.ring (s.job j).ring).link).size

/-- The record of a job that ends stands at the place that its completion ring's PI names, and PI and COUNT have gone up. -/
theorem State.finish_record {s : State} {j : Nat} (hj : Tab.has s.rng.jobs j = true) (hloud : (s.job j).silent = false)
    (h : Completable s j) (status : Nat) :
    let x := s.job j
    let l := (s.ring x.ring).link
    let c := s.ring l
    let t := s.finish j status
    t.hst.mem = s.hst.mem.writeBytes (c.itemAddr c.pi)
      (completionBytes x.tag status 0 0 0 (if x.abi = 2 then s.frameCount else 0) 0 x.ring x.index (c.phase c.pi)) ∧
    t.ring l = { c with pi := wrap 32 (c.pi + 1), count := c.count + 1, produced := wrap 64 (c.produced + 1)
                        devPkts := c.devPkts ++ [1] } ∧
    t.mem = s.mem := by
  dsimp only
  have quiet : ((s.jobEnded j).takeInject .rngPtr ((s.ring (s.job j).ring).link / 32)).isNone = true :=
    (State.takeInject_isNone_congr (s := s) (t := s.jobEnded j) rfl rfl ..).trans h.disarmed
  have written : s.finish j status = _ :=
    (if_pos hj).trans ((if_neg (by simp [hloud])).trans
      ((State.recordN_of_isNone quiet 2 _ 256).trans (State.recordAt_one (s := s.jobEnded j) h.present h.cls h.takes h.host h.room _)))
  obtain ⟨hostMem, mem⟩ := State.itemPut_mems (s := s.jobEnded j) (r := (s.ring (s.job j).ring).link) h.clean
    (completionBytes (s.job j).tag status 0 0 0 (if (s.job j).abi = 2 then s.frameCount else 0) 0 (s.job j).ring (s.job j).index)
  rw [written, State.ring_setRing]
  exact ⟨hostMem, rfl, mem⟩

/-! ### What the commands do -/

theorem runs_fencedCommandStart {s : State} {j : Nat} (hc : s.pwr.clocksStopped = false) (hj : Tab.has s.rng.jobs j = true)
    (hwaits : (s.job j).waits = true) (hmet : s.waitOver j = true) : Runs (.fencedCommandStart j) s fun t =>
      (t.job j).waits = false ∧ t = { s with rng := { s.rng with jobs := Tab.set s.rng.jobs j (t.job j) } } := by
  have job : State.job { s with rng := { s.rng with jobs := Tab.set s.rng.jobs j { s.job j with waits := false } } } j =
      { s.job j with waits := false } := Tab.get_set_same ..
  refine Runs.of_run rfl hc (if_pos (by simp [hj, hwaits, hmet])) ?_
  rw [job]
  exact ⟨rfl, rfl⟩

theorem runs_nop_recorded {s : State} {j : Nat} (hc : s.pwr.clocksStopped = false) (hstart : s.canStart j 0x7F = true)
    (hloud : (s.job j).silent = false) (hwf : s.hst.mem.wf = true) (h : Completable s j) : Runs (.nop j) s fun t =>
      let x := s.job j
      let l := (s.ring x.ring).link
      let c := s.ring l
      let a := c.itemAddr c.pi
      t.hst.mem = s.hst.mem.writeBytes a
        (completionBytes x.tag St.ok 0 0 0 (if x.abi = 2 then s.frameCount else 0) 0 x.ring x.index (c.phase c.pi)) ∧
      (t.ring l).pi = (c.pi + 1) % 4294967296 ∧ (t.ring l).count = c.count + 1 ∧
      (∀ b, b < a ∨ a + 32 ≤ b → t.hst.mem.read b = s.hst.mem.read b) ∧ t.mem = s.mem := by
  obtain ⟨hostMem, ring, mem⟩ := State.finish_record (State.has_of_canStart hstart) hloud h St.ok
  refine Runs.of_run rfl hc (if_pos hstart) ⟨hostMem, ?_, ?_, fun b hb => ?_, mem⟩
  · rw [ring]
    rfl
  · rw [ring]
  · rw [hostMem]
    exact Mem.read_writeBytes_outside _ _ _ _ hwf (by rw [completionBytes_length]; exact hb)

/-- Settles O13: what a fetch, a fence that opens and the end of a job do; the record of a NOP is that of `State.finish_record`. -/
theorem commandsJobsAndCompletions : Obligations.CommandsJobsAndCompletions := by
  refine ⟨fun s hc => ⟨fun r entry hen hhalt hstop hcls hcount hr hpage hread hinj => ?_,
      fun j hj hwaits hmet => runs_fencedCommandStart hc hj hwaits hmet, fun j hstart => ?_, fun j hstart => ?_⟩,
    fun s j hc hstart hloud hl hcls htakes hinj hhost hwf hclean hroom =>
      runs_nop_recorded hc hstart hloud hwf ⟨hl, hcls, htakes, hinj, hhost, hclean, hroom⟩⟩
  · have fetchable : Fetchable s r := ⟨hen, hhalt, hstop, hcls, hcount, hr, hpage, hread⟩
    exact ⟨runs_commandFetch_accepted hc fetchable hinj entry, runs_commandFetch_refused hc fetchable hinj entry⟩
  · exact Runs.of_run rfl hc (if_pos hstart) (s.finish_frame ..)
  · exact Runs.of_run rfl hc (if_pos hstart) (s.finish_frame ..)

end Sys2Proof.Machine
end

section
/-! PROOFS. Streams open, drain and close (04_stream_decoding.md R83 to R90, 05_reference_store_and_concealment.md R114, R115). -/

namespace Sys2Proof.Machine

/-! ### What a report leaves alone: an event of a stream or of an encode session -/

/-- No enabled bitstream ring is listed for a stream. -/
def State.unfed (s : State) (st : Nat) : Bool := s.rng.rings.all fun e => !(e.2.cls == 3 && e.2.link == st && e.2.enable)

theorem State.unfed_congr {s t : State} (h : t.rng.rings = s.rng.rings) (st : Nat) : t.unfed st = s.unfed st := by
  unfold State.unfed
  rw [h]

theorem State.unfed_of_filter {s : State} {st : Nat}
    (h : (s.rng.rings.filter fun e => e.2.cls == 3 && e.2.link == st && e.2.enable) = []) : s.unfed st = true := by
  refine List.all_eq_true.2 fun e he => ?_
  rw [Bool.eq_false_of_not_eq_true (List.filter_eq_nil_iff.1 h e he)]
  rfl

theorem State.unfed_setRing {s : State} {st : Nat} (h : s.unfed st = true) (r : Nat) {x : Ring} (hx : x.cls ≠ 3) :
    (s.setRing r x).unfed st = true :=
  Tab.all_set (by simp [hx]) _ h

theorem Ring.reserve_cls (k : Nat) (ps : List Nat) (x : Ring) : (x.reserve k ps).cls = x.cls := by
  induction ps generalizing x with
  | nil => rfl
  | cons p ps ih =>
    unfold Ring.reserve
    split
    · exact ih _
    · rfl

section
variable {s : State} {st : Nat} (h : s.unfed st = true)
include h

theorem State.unfed_loseEvent (r : Nat) : (s.loseEvent r).unfed st = true := by
  unfold State.loseEvent
  split
  · exact h
  · rename_i hcls
    exact State.unfed_setRing h r (show (s.ring r).cls ≠ 3 by omega)

theorem State.unfed_recordAt (r : Nat) {cls : Nat} (hcls : cls ≠ 3) (items : List (Nat → Bytes)) :
    (s.recordAt r cls items).unfed st = true := by
  unfold State.recordAt
  dsimp only
  split
  · exact h
  · have produced : (s.ring r).cls ≠ 3 := by omega
    split
    · exact State.unfed_setRing h r produced
    · refine State.unfed_setRing ((State.unfed_congr (congrArg RingSt.rings ?_) st).trans h) r
        (show ((s.ring r).reserve _ _).cls ≠ 3 by rwa [Ring.reserve_cls])
      split
      · exact State.putCoherent_rng ..
      · exact State.putItems_rng ..

/-- A record goes to a ring of its own class, and so does the event of a mismatch that its access finds (R67). -/
theorem State.unfed_recordN (r : Nat) {cls : Nat} (hcls : cls ≠ 3) (items : List (Nat → Bytes)) (n : Nat) :
    (s.recordN r cls items n).unfed st = true := by
  induction n generalizing s r cls items with
  | zero => exact State.unfed_recordAt h r hcls items
  | succ n ih =>
    unfold State.recordN
    dsimp only
    split
    · exact State.unfed_recordAt h r hcls items
    · split
      · exact State.unfed_recordAt h r hcls items
      · rename_i htakes u hu
        have taken : u.unfed st = true := (State.unfed_congr (congrArg RingSt.rings (s.takeInject_rng _ _ u hu)) st).trans h
        have halted : (u.setRing r (s.ring r).halt).unfed st = true :=
          State.unfed_setRing taken r (show (s.ring r).cls ≠ 3 by omega)
        refine State.unfed_recordAt ((State.unfed_congr (congrArg RingSt.rings (State.latch_rng ..)) st).trans ?_) r hcls items
        split
        · exact ih halted _ (by decide) _
        · exact State.unfed_loseEvent halted _

theorem State.unfed_finish (j status r0 r1 r2 r3 : Nat) : (s.finish j status r0 r1 r2 r3).unfed st = true := by
  have ended : (s.jobEnded j).unfed st = true := h
  unfold State.finish
  dsimp only
  split
  · split
    · exact ended
    · exact State.unfed_recordN ended _ (by decide) _ _
  · exact h

end

/-- `t` differs from `s` at most in what an event may change: the decode array, the jobs and the register fields that no latch writes
are as before, and no bitstream ring has come up. -/
structure Reported (s t : State) : Prop where
  dec : t.dec = s.dec
  jobs : t.rng.jobs = s.rng.jobs
  fld : SameFld s t
  unfed : ∀ st, s.unfed st = true → t.unfed st = true

theorem Reported.refl (s : State) : Reported s s := ⟨rfl, rfl, .refl s, fun _ => id⟩

theorem Reported.trans {a b c : State} (h : Reported a b) (k : Reported b c) : Reported a c :=
  ⟨k.dec.trans h.dec, k.jobs.trans h.jobs, h.fld.trans k.fld, fun st hst => k.unfed st (h.unfed st hst)⟩

theorem Reported.foldl {α : Type} {f : State → α → State} (h : ∀ t a, Reported t (f t a)) (l : List α) (s : State) :
    Reported s (l.foldl f s) :=
  List.foldlRecOn l f (.refl s) fun _ ht _ _ => ht.trans (h _ _)

theorem reported_eventTo (s : State) (r : Nat) (en : Bool) (code blk source : Nat) (args : List Nat) :
    Reported s (s.eventTo r en code blk source args) := by
  have same := outlastsLatch_sameFld s
  unfold State.eventTo State.record
  split
  · exact ⟨State.recordN_dec .., (sameStops_recordN ..).jobs, same.recordN (.refl s) ..,
      fun _ h => State.unfed_recordN h _ (by decide) _ _⟩
  · exact ⟨State.loseEvent_dec .., (sameStops_loseEvent ..).jobs, same.loseEvent (.refl s) _, fun _ h => State.unfed_loseEvent h _⟩

theorem reported_streamEvent (s : State) (st blk code : Nat) (args : List Nat) : Reported s (s.streamEvent st blk code args) := by
  unfold State.streamEvent
  split
  · exact reported_eventTo ..
  · exact .refl s

theorem reported_setSes (s : State) (e : Nat) (x : EncSession) : Reported s (s.setSes e x) := ⟨rfl, rfl, .of_regs rfl rfl, fun _ => id⟩

theorem reported_encSource (s : State) (e st : Nat) : Reported s (s.encSource e st) := by
  unfold State.encSource
  dsimp only
  split
  · exact .refl s
  · split
    · split
      · exact reported_setSes ..
      · exact .refl s
    · split
      · exact .refl s
      · exact (reported_setSes ..).trans (reported_eventTo ..)

/-- A stream that changes its state reports it, and the encode sessions that relay it see it (R88, R240). -/
theorem reported_streamTo (s : State) (st new cause : Nat) :
    Reported (s.setStream st { s.stream st with state := new }) (s.streamTo st new cause) :=
  (reported_streamEvent ..).trans (.foldl (fun t (e : Nat × EncSession) => reported_encSource t e.1 new) _ _)

theorem State.stream_congr {s t : State} (h : t.dec = s.dec) (st : Nat) : t.stream st = s.stream st := by
  unfold State.stream
  rw [h]

@[simp] theorem State.stream_streamTo (s : State) (st new cause : Nat) :
    (s.streamTo st new cause).stream st = { s.stream st with state := new } :=
  (State.stream_congr (reported_streamTo ..).dec st).trans (State.stream_setStream ..)

@[simp] theorem State.stream_finish (s : State) (st j status r0 r1 r2 r3 : Nat) :
    (s.finish j status r0 r1 r2 r3).stream st = s.stream st :=
  State.stream_congr (State.finish_dec ..) st

/-- Without an enabled bitstream ring no unit waits for the stream (R89). -/
theorem State.takeWaiting_of_unfed {s : State} {st : Nat} (h : s.unfed st = true) : s.takeWaiting st = s := by
  have idle : (s.rng.rings.filter fun e =>
      e.2.feedsStream && e.2.link == st && e.2.enable && !e.2.halted && !e.2.pkts.isEmpty) = [] := by
    refine List.filter_eq_nil_iff.2 fun e he hfeeds => ?_
    have hrest := List.all_eq_true.1 h e he
    simp only [Ring.feedsStream, Bool.and_eq_true] at hfeeds
    obtain ⟨⟨⟨⟨⟨hcls, -⟩, hlink⟩, hen⟩, -⟩, -⟩ := hfeeds
    simp [hcls, hlink, hen] at hrest
  unfold State.takeWaiting
  rw [idle]
  rfl

theorem State.fld_finish (s : State) (j status r0 r1 r2 r3 : Nat) {f : Fld} (i : Nat) (hf : f.id < 1024) (hl : f.id ∉ latchFields) :
    (s.finish j status r0 r1 r2 r3).fld f i = s.fld f i :=
  ((outlastsLatch_sameFld s).finish (.refl s) ..).same f i hf hl

/-! ### STREAM_OPEN (R83 to R86, R114) -/

/-- The number of the stream that a command names. -/
theorem bits_stream (v : Nat) : bits v 9 0 = v % 1024 := by simp [bits]

/-- The record with which a STREAM_OPEN reserves the memory and the load of its stream. -/
def State.openRec (s : State) (j : Nat) (a : StreamArgs) : StreamRec :=
  { state := 0, tenant := (s.job j).tenant, args := a, loadMs := if a.live then a.load else 0, granules := a.reserve
    runs := s.newRuns a.reserve }

/-- The state in which a STREAM_OPEN has made its stream OPEN and its job is still to end. -/
def State.opened (s : State) (j st : Nat) (a : StreamArgs) : State :=
  State.streamTo ((s.setStream st (s.openRec j a)).setFld Reg.DEC_LOAD_LIVE 0
    (s.fld Reg.DEC_LOAD_LIVE + (s.openRec j a).loadMs)) st 1 0

theorem State.stream_opened (s : State) (j st : Nat) (a : StreamArgs) :
    (s.opened j st a).stream st = { s.openRec j a with state := 1 } := by
  have reserved : ((s.setStream st (s.openRec j a)).setFld Reg.DEC_LOAD_LIVE 0
      (s.fld Reg.DEC_LOAD_LIVE + (s.openRec j a).loadMs)).stream st = s.openRec j a := State.stream_setStream ..
  rw [State.opened, State.stream_streamTo, reserved]

theorem State.fld_opened (s : State) (j st : Nat) (a : StreamArgs) :
    (s.opened j st a).fld Reg.DEC_LOAD_LIVE = (s.fld Reg.DEC_LOAD_LIVE + (s.openRec j a).loadMs) % 4294967296 :=
  ((reported_streamTo ..).fld.same _ _ (by decide) (by decide)).trans (State.fld_setFld (s.setStream st _) ..)

section
variable {s : State} {j st : Nat} (hst : st = field (s.job j).args 8 2 % 1024)
include hst

theorem State.doOpen_eq {a : StreamArgs} (ha : a = streamArgs (s.job j).args) (hstate : (s.stream st).state = 0)
    (hok : openOk s.variant (s.job j).args = true) (hadmit : s.admission a = 0) (hfree : a.reserve ≤ s.rfsFree) :
    s.doOpen j =
      ((s.opened j st a).finish j St.ok (s.openRec j a).loadMs (if a.live then (s.planTime a + 1199) / 1200 else 0) 0
        (s.liveCap - (s.fld Reg.DEC_LOAD_LIVE + (s.openRec j a).loadMs))).takeWaiting st := by
  subst ha
  unfold State.doOpen
  dsimp only
  rw [bits_stream, ← hst, if_neg (by simp [hstate]), if_neg (by simp [hok]), hadmit]
  exact if_neg (Nat.not_lt.2 hfree)

theorem runs_streamOpen {a : StreamArgs} (ha : a = streamArgs (s.job j).args) (hc : s.pwr.clocksStopped = false)
    (hstart : s.canStart j 0x01 = true) (hstate : (s.stream st).state = 0) (hok : openOk s.variant (s.job j).args = true)
    (hadmit : s.admission a = 0) (hfree : a.reserve ≤ s.rfsFree) (hunfed : s.unfed st = true) :
    Runs (.streamOpen j) s fun t =>
      t.stream st = { s.openRec j a with state := 1 } ∧
      t.fld Reg.DEC_LOAD_LIVE = (s.fld Reg.DEC_LOAD_LIVE + (s.openRec j a).loadMs) % 4294967296 ∧
      Tab.has t.rng.jobs j = false := by
  have unfed : (s.opened j st a).unfed st = true := (reported_streamTo ..).unfed st hunfed
  have hopen := State.doOpen_eq hst ha hstate hok hadmit hfree
  rw [State.takeWaiting_of_unfed (State.unfed_finish unfed ..)] at hopen
  refine Runs.of_run (f := fun s => if s.canStart j 0x01 then s.doOpen j else s) rfl hc ((if_pos hstart).trans hopen)
    ⟨?_, ?_, (State.finish_ends ..).1⟩
  · rw [State.stream_finish, State.stream_opened]
  · rw [State.fld_finish _ _ _ _ _ _ _ _ (by decide) (by decide), State.fld_opened]

/-! ### STREAM_CLOSE and STREAM_FLUSH (R88, Table 4.4) -/

omit hst in
theorem State.streamGate_ok (hstate : (s.stream st).state ≠ 0) (htenant : (s.stream st).tenant = (s.job j).tenant) :
    s.streamGate j st = 0 :=
  (if_neg hstate).trans (if_neg (not_not.2 htenant))

theorem State.doClose_drains (htenant : (s.stream st).tenant = (s.job j).tenant)
    (hstate : (s.stream st).state = 1 ∨ (s.stream st).state = 2) :
    s.doClose j = s.beginDrain st j true (bit (field (s.job j).args 10 1) 0) := by
  unfold State.doClose
  dsimp only
  rw [bits_stream, ← hst, State.streamGate_ok (by omega) htenant]
  exact (if_neg (by omega)).trans (if_neg (by omega))

theorem State.doClose_faulted (htenant : (s.stream st).tenant = (s.job j).tenant) (hstate : (s.stream st).state = 4) :
    s.doClose j =
      ((s.closeStream st).streamTo st 0 0).finish j St.ok (s.stream st).decoded (s.stream st).discarded := by
  unfold State.doClose
  dsimp only
  rw [bits_stream, ← hst, State.streamGate_ok (by omega) htenant]
  exact if_pos hstate

theorem State.doFlush_drains (htenant : (s.stream st).tenant = (s.job j).tenant)
    (hstate : (s.stream st).state = 1 ∨ (s.stream st).state = 2) :
    s.doFlush j =
      (s.setStream st { s.stream st with flushDecoded := 0, flushOutput := 0 }).beginDrain st j false false := by
  unfold State.doFlush
  dsimp only
  rw [bits_stream, ← hst, State.streamGate_ok (by omega) htenant]
  exact if_pos hstate

end

/-- A command put last in the list of a stream that becomes DRAINING, its job begun. -/
theorem State.drain_begun (s : State) (st : Nat) (x : StreamRec) (d : DrainCmd) :
    let t := ((s.setStream st { x with drains := x.drains ++ [d] }).start d.job).streamTo st 3 0
    (t.stream st).state = 3 ∧ ((t.stream st).drains.getLast?.map fun e => (e.job, e.close)) = some (d.job, d.close) ∧
    (t.job d.job).started = true := by
  dsimp only
  have jobs := (reported_streamTo ((s.setStream st { x with drains := x.drains ++ [d] }).start d.job) st 3 0).jobs
  rw [State.stream_streamTo, State.stream_congr (State.start_dec ..), State.stream_setStream, State.job, jobs]
  simp [State.start]

theorem State.beginDrain_drains (s : State) (st j : Nat) (close discard : Bool) :
    let t := s.beginDrain st j close discard
    (t.stream st).state = 3 ∧ ((t.stream st).drains.getLast?.map fun d => (d.job, d.close)) = some (j, close) ∧
    (t.job j).started = true :=
  State.drain_begun _ st _ ⟨j, close, discard, s.now, false⟩

/-- The end of a close leaves its stream CLOSED with nothing held (R115). -/
theorem State.stream_closed (s : State) (st cause : Nat) :
    let x := ((s.closeStream st).streamTo st 0 cause).stream st
    x.state = 0 ∧ x.granules = 0 ∧ x.drains = [] := by
  dsimp only
  rw [State.stream_streamTo, State.closeStream, State.stream_setStream]
  exact ⟨rfl, rfl, rfl⟩

/-- Settles O16: `runs_streamOpen` for an open, the equation of each other command in the case that its clause names, and what the
beginning of a drain and the end of a close leave. -/
theorem streamsOpenAndClose : Obligations.StreamsOpenAndClose := by
  intro s j hc
  refine ⟨fun st hst hstart hstate hok hadmit hfree hrings => ?_, fun st hst hstart htenant => ⟨fun hstate => ?_, fun hstate => ?_⟩,
    fun st hst hstart htenant hstate => ?_⟩
  · obtain ⟨t, ht, hstream, hload, hended⟩ :=
      runs_streamOpen hst rfl hc hstart hstate hok hadmit hfree (State.unfed_of_filter hrings)
    refine ⟨t, ht, ?_⟩
    dsimp only
    rw [hstream]
    exact ⟨rfl, rfl, rfl, rfl, rfl, rfl, hload, hended⟩
  · exact Runs.of_run rfl hc ((if_pos hstart).trans (State.doClose_drains hst htenant hstate)) (State.beginDrain_drains ..)
  · obtain ⟨closed, granules, drains⟩ := s.stream_closed st 0
    refine Runs.of_run rfl hc ((if_pos hstart).trans (State.doClose_faulted hst htenant hstate)) ?_
    rw [State.stream_finish]
    exact ⟨closed, granules, drains, (State.finish_ends ..).1⟩
  · exact Runs.of_run rfl hc ((if_pos hstart).trans (State.doFlush_drains hst htenant hstate)) (State.beginDrain_drains ..)

end Sys2Proof.Machine
end

section
/-! PROOFS. Policy changes, the end and the time limit of drains, and the reference store's region (04_stream_decoding.md R90, R91,
Tables 4.4 and 4.5; 05_reference_store_and_concealment.md R116). -/

namespace Sys2Proof.Machine

/-! ### STREAM_SET_POLICY (R91) -/

/-- A MASK of 1 selects the class alone, which may go from a stored class to any other. -/
theorem State.doPolicy_cls {s : State} {j st cls : Nat} (hst : st = field (s.job j).args 8 2 % 1024)
    (hmask : field (s.job j).args 10 1 = 1) (hcls : cls = field (s.job j).args 11 1) (hlo : 4 ≤ cls) (hhi : cls ≤ 7)
    (hstored : 4 ≤ (s.stream st).args.cls) (htenant : (s.stream st).tenant = (s.job j).tenant)
    (hstate : (s.stream st).state = 1 ∨ (s.stream st).state = 2) :
    s.doPolicy j =
      (s.setStream st { s.stream st with args := { (s.stream st).args with cls := cls } }).finish j St.ok := by
  have selected : bit 1 0 = true ∧ bit 1 1 = false ∧ bit 1 2 = false ∧ bit 1 3 = false := by decide
  obtain ⟨class_, catchup, cores, pace⟩ := selected
  have stored : (s.stream st).args.live = false := by simpa [StreamArgs.live] using hstored
  unfold State.doPolicy
  dsimp only
  rw [bits_stream, ← hst, hmask, ← hcls, State.streamGate_ok (by omega) htenant, class_, catchup, cores, pace]
  rw [if_neg (by omega), if_neg (by simp [stored]; omega), if_neg (by simp)]
  rfl

/-! ### Drains (R90, Table 4.4) -/

/-- The last drain of a stream ends, and it is a close. -/
theorem State.drainDone_close {s : State} {st : Nat} {d : DrainCmd} (hdrains : (s.stream st).drains = [d]) (hclose : d.close = true)
    (hstate : (s.stream st).state = 3) (hidle : s.drainBusy st = false) :
    s.drainDone st =
      if d.timedOut then (s.closeStream st).streamTo st 0 3
      else ((s.closeStream st).streamTo st 0 3).finish d.job St.ok (s.stream st).decoded (s.stream st).discarded := by
  unfold State.drainDone
  dsimp only
  rw [hdrains]
  dsimp only
  rw [if_neg (by simp [hstate, hidle]), if_pos hclose]

theorem runs_streamDrainDone_close {s : State} {st : Nat} {d : DrainCmd} (hc : s.pwr.clocksStopped = false)
    (hdrains : (s.stream st).drains = [d]) (hclose : d.close = true) (hstate : (s.stream st).state = 3)
    (hidle : s.drainBusy st = false) : Runs (.streamDrainDone st) s fun t =>
      (t.stream st).state = 0 ∧ (t.stream st).granules = 0 ∧ (t.stream st).drains = [] ∧
      (d.timedOut = false → Tab.has t.rng.jobs d.job = false) := by
  obtain ⟨closed, granules, drains⟩ := s.stream_closed st 3
  refine Runs.of_run (f := fun s => s.drainDone st) rfl hc (State.drainDone_close hdrains hclose hstate hidle) ?_
  split
  · rename_i hlate
    exact ⟨closed, granules, drains, fun htime => by simp [hlate] at htime⟩
  · rw [State.stream_finish]
    exact ⟨closed, granules, drains, fun _ => (State.finish_ends ..).1⟩

/-- A drain marked as timed out where it carries out the job. -/
def DrainCmd.expire (j : Nat) (e : DrainCmd) : DrainCmd := if e.job = j then { e with timedOut := true } else e

theorem DrainCmd.timedOut_expire {j : Nat} {e : DrainCmd} (h : (e.expire j).job = j) : (e.expire j).timedOut = true := by
  unfold DrainCmd.expire at h ⊢
  split
  · rfl
  · rename_i hother
    exact absurd ((congrArg DrainCmd.job (if_neg hother)).symm.trans h) hother

theorem State.drainTimeout_due {s : State} {st : Nat} {d : DrainCmd}
    (hfirst : (s.stream st).drains.find? (fun d => !d.timedOut) = some d)
    (hdue : d.acceptedAt + s.fld Reg.DEC_DRAIN_LIMIT_MS * Clk.ms ≤ s.now) :
    s.drainTimeout st =
      (s.setStream st { s.stream st with drains := (s.stream st).drains.map (DrainCmd.expire d.job) }).finish d.job St.timeout := by
  unfold State.drainTimeout
  dsimp only
  rw [hfirst]
  exact if_neg (Nat.not_lt.2 hdue)

theorem runs_drainTimeout_due {s : State} {st : Nat} {d : DrainCmd} (hc : s.pwr.clocksStopped = false)
    (hfirst : (s.stream st).drains.find? (fun d => !d.timedOut) = some d)
    (hdue : d.acceptedAt + s.fld Reg.DEC_DRAIN_LIMIT_MS * Clk.ms ≤ s.now) : Runs (.drainTimeout st) s fun t =>
      (t.stream st).state = (s.stream st).state ∧ (∀ e ∈ (t.stream st).drains, e.job = d.job → e.timedOut = true) ∧
      (t.stream st).drains.length = (s.stream st).drains.length ∧ Tab.has t.rng.jobs d.job = false := by
  refine Runs.of_run (f := fun s => s.drainTimeout st) rfl hc (State.drainTimeout_due hfirst hdue) ?_
  rw [State.stream_finish, State.stream_setStream]
  refine ⟨rfl, fun e he hjob => ?_, List.length_map _, (State.finish_ends ..).1⟩
  obtain ⟨e, -, rfl⟩ := List.mem_map.1 he
  exact DrainCmd.timedOut_expire hjob

/-! ### The region of the reference store (R116) -/

/-- A word whose upper byte is reserved and written as 0. -/
theorem toNat_lt_of_upper_reserved {v : Word} (h : rsvBits v 0xFFFFFF = 0) : v.toNat < 2 ^ 24 := by
  have upper : (v.toNat >>> 24) &&& (2 ^ 8 - 1) = 0 := by
    have shifted := congrArg (· >>> 24) h
    simpa [rsvBits, Nat.shiftRight_and_distrib] using shifted
  rw [Nat.and_two_pow_sub_one_eq_mod, Nat.shiftRight_eq_div_pow] at upper
  have := v.isLt
  omega

theorem State.rfsRegion_closed {s : State} (h : s.dec.streams.any (fun e => e.2.state != 0) = false) (reg v : Nat) :
    s.rfsRegion reg v = if reg = 0 then s.setFld Reg.RFS_REGION_BASE 0 v else s.setFld Reg.RFS_REGION_SIZE 0 v :=
  if_neg (by simp [h])

theorem State.rfsRegion_open {s : State} (h : s.dec.streams.any (fun e => e.2.state != 0) = true) (reg v : Nat) :
    s.rfsRegion reg v = s.latch .rfsBusy :=
  if_pos h

/-- RFS_FREE after a write of RFS_REGION_SIZE: the new size less what the streams hold, within the device-private region. -/
theorem State.rfsFree_setSize (s : State) {v : Nat} (hv : v < 2 ^ 24) :
    (s.setFld Reg.RFS_REGION_SIZE 0 v).rfsFree =
      if s.inPrivate (s.fld Reg.RFS_REGION_BASE * 65536) (v * 65536) then v - (s.dec.streams.map fun e => e.2.granules).sum
      else 0 := by
  have size : (s.setFld Reg.RFS_REGION_SIZE 0 v).fld Reg.RFS_REGION_SIZE = v :=
    (State.fld_setFld ..).trans (Nat.mod_eq_of_lt hv)
  have other : ∀ f : Fld, Reg.RFS_REGION_SIZE.id ≠ f.id → f.id < 1024 → (s.setFld Reg.RFS_REGION_SIZE 0 v).fld f = s.fld f :=
    fun f hne hf => State.fld_setFld_other s v hne (by decide) hf
  unfold State.rfsFree State.inPrivate State.hostRegionEnd State.usable
  dsimp only
  rw [size, other _ (by decide) (by decide), other _ (by decide) (by decide), other _ (by decide) (by decide)]
  rfl

/-- Settles O17: the equation of each command in the case that its clause names, read at the stream, the job or the registers. -/
theorem streamPolicyDrainsAndRegion : Obligations.StreamPolicyDrainsAndRegion := by
  intro s hc
  refine ⟨fun j st cls hst hstart hmask hcls hlo hhi hstored htenant hstate => ?_,
    fun st d hdrains hclose hstate hidle => runs_streamDrainDone_close hc hdrains hclose hstate hidle,
    fun st d hfirst hdue => runs_drainTimeout_due hc hfirst hdue,
    fun v hopen hrsv => ⟨fun hclosed => ⟨?_, ?_⟩, fun reg hany => ?_⟩⟩
  · refine Runs.of_run rfl hc
      ((if_pos hstart).trans (State.doPolicy_cls hst hmask hcls hlo hhi hstored htenant hstate)) ⟨?_, (State.finish_ends ..).1, ?_⟩
    · rw [State.stream_finish, State.stream_setStream]
    · rw [State.finish_dec]
      rfl
  · exact Runs.of_regCmd rfl hc (by decide) hopen hrsv (State.rfsRegion_closed hclosed 0 _) rfl
  · have free := s.rfsFree_setSize (toNat_lt_of_upper_reserved hrsv)
    exact Runs.of_regCmd rfl hc (by decide) hopen hrsv (State.rfsRegion_closed hclosed 1 _)
      ⟨rfl, fun hin => free.trans (if_pos hin), fun hout => free.trans (if_neg (by simp [hout]))⟩
  · exact Runs.of_regCmd rfl hc (by decide) hopen hrsv (State.rfsRegion_open hany reg _)
      ⟨State.latched_latch s .rfsBusy 0 (by decide), State.fld_latch _ _ _ (by decide) (by decide),
        State.fld_latch _ _ _ (by decide) (by decide), State.latch_dec ..⟩

end Sys2Proof.Machine
end

section
/-! PROOFS. UNIT_DISPATCH where two records bear one picture's number (04_stream_decoding.md R97, 05_reference_store_and_concealment.md
R110, R111). -/

namespace Sys2Proof.Machine

/-- An AV1 picture of stream 7 that has not started and takes a pinned slot of PIN_MASK (R110). -/
def pinningPicture : Picture :=
  { stream := 7, args := { codec := 2, rfsMode := 2, pinMask := 1, coresMax := 1 }, info := { refresh := 1 } }

/-- Core 0 is free to start picture 1 of the RUNNING stream 7, but number 1 is listed twice: the second record is a substitute of
which 5 units have gone to cores. No run reaches it, because `State.enqueue` gives each picture a number of its own, but a statement
about every state speaks of it too. -/
def twiceListed : State :=
  { State.reset with
    pwr := { domains := [(0, { state := 2 })] }
    dec := { streams := [(7, { state := 2, args := { rfsMode := 2 } })]
             pics := [(1, pinningPicture), (1, { pinningPicture with dispatched := 5, substituteOnly := true })] }
    esc := { units := [(escKey 1 0, { image := some 0 })] } }

theorem coreFree_twiceListed :
    twiceListed.coreOnline 0 = true ∧ (twiceListed.core 0).busy = false ∧ twiceListed.pwr.critStop = false ∧
    twiceListed.escOk 1 0 = true := by decide

theorem pick_twiceListed : twiceListed.pick 0 = some 1 := by decide

theorem pageEnabled_rfs_twiceListed : twiceListed.pageEnabled Blk.rfs 0 = true := by decide

theorem exec_unitDispatch_twiceListed : exec (.unitDispatch 0) twiceListed = .next (twiceListed.dispatch 0) := rfl

/-- No pinned slot is free, so the start of the picture evicts the oldest substitute of its stream (R111), and what is left of that
record stands for picture 1 from then on. -/
theorem unit_dispatch_twiceListed : ((twiceListed.dispatch 0).core 0).unit = 5 := by decide

/-- Refutes O18: the clause on UNIT_DISPATCH has no premise that a picture's number is listed once. In `twiceListed` picture 1 reads as
not started, and the core is given unit 5 of it. -/
theorem not_decodeUnitsRun : ¬ Obligations.DecodeUnitsRun := by
  intro h
  obtain ⟨dispatched, -⟩ := h twiceListed rfl
  obtain ⟨online, idle, hot, runs⟩ := coreFree_twiceListed
  obtain ⟨t, ht, -, -, hunit, -⟩ := dispatched 0 1 online idle hot runs pick_twiceListed (.inr pageEnabled_rfs_twiceListed)
  have same : twiceListed.dispatch 0 = t := Host.Outcome.next.inj (exec_unitDispatch_twiceListed.symm.trans ht)
  rw [← same, unit_dispatch_twiceListed] at hunit
  exact absurd hunit (by decide)

end Sys2Proof.Machine
end

section
/-! PROOFS. Calibre images are written, swapped in, read back and saved (06_wall_model_and_calibres.md R133, R134, R138 to R140, R142,
R149; 19_memory_and_keeping_store.md R395). -/

namespace Sys2Proof.Machine

/-! ### Reads of device memory leave the calibres, the rings and the jobs alone -/

/-- `t` has the calibre state, the rings and the jobs of `s`. -/
structure SameCalibres (s t : State) : Prop where
  clb : t.clb = s.clb
  rng : t.rng = s.rng

theorem SameCalibres.refl (s : State) : SameCalibres s s := ⟨rfl, rfl⟩

theorem SameCalibres.trans {a b c : State} (h : SameCalibres a b) (k : SameCalibres b c) : SameCalibres a c :=
  ⟨k.clb.trans h.clb, k.rng.trans h.rng⟩

theorem SameCalibres.foldl {α : Type} {f : State → α → State} (h : ∀ t a, SameCalibres t (f t a)) (l : List α) (s : State) :
    SameCalibres s (l.foldl f s) :=
  List.foldlRecOn l f (.refl s) fun _ ht _ _ => ht.trans (h _ _)

theorem sameCalibres_latch (s : State) (src : Src) (i : Nat) : SameCalibres s (s.latch src i) :=
  ⟨s.latch_clb src i, s.latch_rng src i⟩

theorem sameCalibres_takeInject {s t : State} {src : Src} {i : Nat} (h : s.takeInject src i = some t) : SameCalibres s t :=
  ⟨s.takeInject_clb src i t h, s.takeInject_rng src i t h⟩

theorem sameCalibres_check (s : State) (src : Src) (i : Nat) : SameCalibres s (s.check src i) :=
  State.check_induction (.refl s) fun _ ht => (sameCalibres_takeInject ht).trans (sameCalibres_latch ..)

theorem sameCalibres_memCorrected (s : State) (channel : Nat) : SameCalibres s (s.memCorrected channel) :=
  SameCalibres.trans (b := s.count Reg.MEM_CE_COUNT channel) ⟨rfl, rfl⟩ (sameCalibres_latch ..)

theorem sameCalibres_memUncorrectable (s : State) (line channel port kind : Nat) :
    SameCalibres s (s.memUncorrectable line channel port kind) := by
  refine SameCalibres.trans (b := s.errLog line channel port kind) ?_ (sameCalibres_latch ..)
  unfold State.errLog
  dsimp only
  split
  · exact ⟨rfl, rfl⟩
  · exact ⟨rfl, rfl⟩

theorem sameCalibres_eccCheck (s : State) (ce ue : Src) : SameCalibres s (s.eccCheck ce ue).2 := by
  unfold State.eccCheck
  dsimp only
  split
  · exact sameCalibres_takeInject ‹_›
  · split
    · exact sameCalibres_takeInject ‹_›
    · exact .refl s

theorem sameCalibres_eccFound (s : State) (line : Nat) (found : Ecc) : SameCalibres s (s.eccFound line found).2 := by
  unfold State.eccFound
  split
  · split
    · exact .refl s
    · exact sameCalibres_eccCheck ..
  · exact .refl s

theorem sameCalibres_readLine (s : State) (line port kind : Nat) (found : Ecc) :
    SameCalibres s (s.readLine line port kind found).2 := by
  have accepted : SameCalibres s (s.readsAccepted (line * 64) 64) := ⟨rfl, rfl⟩
  have checked := accepted.trans ((sameCalibres_check _ .memSram 0).trans (sameCalibres_eccFound _ line found))
  unfold State.readLine
  split
  rename_i e t he
  rw [he] at checked
  split
  · exact checked
  · exact checked.trans (sameCalibres_memCorrected ..)
  · exact checked.trans (sameCalibres_memUncorrectable ..)

theorem sameCalibres_biasRead (s : State) (a len : Nat) : SameCalibres s (s.biasRead a len) := by
  have accepted : SameCalibres s (s.readsAccepted a len) := ⟨rfl, rfl⟩
  unfold State.biasRead
  dsimp only
  split
  · exact accepted
  · exact accepted.trans (.foldl (fun t _ => ⟨t.request_clb _, t.request_rng _⟩) _ _)

theorem sameCalibres_engineRead (s : State) (a len port : Nat) : SameCalibres s (s.engineRead a len port).2 := by
  have poisoned : ∀ l : List Nat, SameCalibres s
      (l.foldl (fun s l => s.memUncorrectable l (s.lineChannel l) port 0) (s.biasRead a len)) := fun l =>
    (sameCalibres_biasRead ..).trans (.foldl (fun _ _ => sameCalibres_memUncorrectable ..) l _)
  unfold State.engineRead
  split
  · exact .refl s
  · split
    · exact .refl s
    · dsimp only
      split
      · exact (poisoned _).trans (sameCalibres_readLine ..)
      · exact poisoned _

theorem sameCalibres_gainReads (s : State) (im : Bytes) : SameCalibres s (s.gainReads im) := by
  refine .foldl (fun t e => ?_) _ s
  split
  · exact .refl t
  · exact sameCalibres_engineRead ..

/-! ### Banks, jobs and the event of a save -/

theorem State.bank_congr {s t : State} (h : t.clb = s.clb) (b : Bool) : t.bank b = s.bank b := by
  unfold State.bank
  rw [h]

theorem State.bank_setBank_other (s : State) {b c : Bool} (x : Bank) (h : b ≠ c) : (s.setBank b x).bank c = s.bank c := by
  cases Bool.eq_not_of_ne h
  cases c
  · rfl
  · rfl

theorem State.setBank_staged_issue (s : State) (b : Bool) (x : Bank) :
    (s.setBank b x).clb.staged = s.clb.staged ∧ (s.setBank b x).clb.issue = s.clb.issue := by
  cases b
  · exact ⟨rfl, rfl⟩
  · exact ⟨rfl, rfl⟩

/-- A bank becomes the written shadow: CLB_WRITE_SEQ shows its number and MZE_REF_FREE what is left of the reference region. -/
def State.bankShown (s : State) (b : Bool) (x : Bank) : State := ((s.setBank b x).setFld Reg.CLB_WRITE_SEQ 0 x.seq).showRefFree

theorem State.bankShown_clb (s : State) (b : Bool) (x : Bank) : (s.bankShown b x).clb = (s.setBank b x).clb := rfl

theorem State.bank_bankShown (s : State) (b : Bool) (x : Bank) : (s.bankShown b x).bank b = x :=
  (State.bank_congr (s.bankShown_clb b x) b).trans (State.bank_setBank ..)

theorem State.bank_bankShown_other (s : State) {b c : Bool} (x : Bank) (h : b ≠ c) : (s.bankShown b x).bank c = s.bank c :=
  (State.bank_congr (s.bankShown_clb b x) c).trans (State.bank_setBank_other s x h)

theorem State.fld_bankShown (s : State) (b : Bool) (x : Bank) : (s.bankShown b x).fld Reg.CLB_WRITE_SEQ = x.seq % 65536 :=
  (State.fld_setFld_other _ _ (by decide) (by decide) (by decide)).trans (State.fld_setFld ..)

theorem State.job_congr {s t : State} (h : t.rng = s.rng) (j : Nat) : t.job j = s.job j := by
  unfold State.job
  rw [h]

theorem State.job_start (s : State) (j work : Nat) : (s.start j work).job j = { s.job j with started := true, work := work } :=
  Tab.get_set_same ..

/-- A job that ends is no longer in flight, and the calibres are those of a state before, if they still were when it ended. -/
theorem State.finish_calibres {s t : State} (h : t.clb = s.clb) (j status r0 r1 r2 r3 : Nat) :
    (t.finish j status r0 r1 r2 r3).clb = s.clb ∧ Tab.has (t.finish j status r0 r1 r2 r3).rng.jobs j = false :=
  ⟨(t.finish_clb ..).trans h, (t.finish_ends ..).1⟩

/-- A silent job that ends OK writes no record (R69). -/
theorem State.finish_silent {s : State} {j : Nat} (hj : Tab.has s.rng.jobs j = true) (hsilent : (s.job j).silent = true)
    (r0 r1 r2 r3 : Nat) : s.finish j St.ok r0 r1 r2 r3 = s.jobEnded j :=
  (if_pos hj).trans (if_pos (by simp [hsilent]))

/-- With no error armed for the ring's indices an event latches nothing, so that no fault is logged in the keeping store. -/
theorem State.clbEvent_kst {s : State} (h : (s.takeInject .rngPtr (s.fld Reg.CLB_EVQ_RING / 32)).isNone = true)
    (code source : Nat) (args : List Nat) : (s.clbEvent code source args).kst = s.kst := by
  unfold State.clbEvent State.event State.eventTo State.record
  split
  · rw [State.recordN_of_isNone h]
    exact State.recordAt_kst ..
  · exact State.loseEvent_kst ..

/-! ### CALIBRE_WRITE (R133, R134, R142) -/

theorem State.rangeOk_host (s : State) {a n : Nat} (h : a + n ≤ 9223372036854775808) : s.rangeOk false a n = true := decide_eq_true h

/-- The command of job `j` names a legal host range, of the length of the image `im`. -/
structure NamesHostImage (s : State) (j : Nat) (im : Bytes) : Prop where
  length : field (s.job j).args 16 4 = im.length
  fits : im.length ≤ 16777216
  host : (addrSpace (field (s.job j).args 8 8)).1 = false
  range : (addrSpace (field (s.job j).args 8 8)).2 + im.length ≤ 9223372036854775808

/-- The image of a CALIBRE_WRITE has been asked for in host memory. -/
def State.imageAsked (s : State) (j : Nat) (im : Bytes) : State :=
  s.hostReq .memRead (addrSpace (field (s.job j).args 8 8)).2 im.length none

/-- The state in which the image is checked: it and the gain maps that it names have been read. -/
def State.imageRead (s : State) (j : Nat) (im : Bytes) : State := (s.imageAsked j im).gainReads im

theorem sameCalibres_imageRead (s : State) (j : Nat) (im : Bytes) : SameCalibres s (s.imageRead j im) :=
  SameCalibres.trans (b := s.imageAsked j im) ⟨rfl, rfl⟩ (sameCalibres_gainReads ..)

section
variable {s : State} {j : Nat} {im : Bytes} (h : NamesHostImage s j im)
include h

theorem State.rangeOk_hostImage :
    s.rangeOk (addrSpace (field (s.job j).args 8 8)).1 (addrSpace (field (s.job j).args 8 8)).2 im.length = true := by
  rw [h.host]
  exact State.rangeOk_host s h.range

theorem State.fetchImage_error (port : Nat) :
    s.fetchImage (field (s.job j).args 8 8) im.length im .error port = (none, s.imageAsked j im) :=
  if_neg (Bool.eq_false_iff.1 h.host)

theorem State.fetchImage_ok (port : Nat) :
    s.fetchImage (field (s.job j).args 8 8) im.length im .ok port = (some im, s.imageAsked j im) := by
  have whole : (im ++ List.replicate (im.length - im.length) 0).take im.length = im := by simp
  refine (if_neg (Bool.eq_false_iff.1 h.host)).trans ?_
  rw [whole]
  rfl

theorem State.calibreWrite_unread : s.calibreWrite j im .error = (s.imageAsked j im).finish j St.faulted := by
  unfold State.calibreWrite
  dsimp only
  rw [h.length, if_neg (Nat.not_lt.2 h.fits), if_neg (by simp [State.rangeOk_hostImage h]), State.fetchImage_error h]
  exact if_pos (.inr (by decide))

theorem State.calibreWrite_refused {reason off : Nat}
    (hbad : (s.imageRead j im).checkImage im im.length (bit (field (s.job j).args 20 1) 0) = some (reason, off)) :
    s.calibreWrite j im .ok = (s.imageRead j im).finish j St.badArg reason off := by
  unfold State.calibreWrite
  dsimp only
  rw [h.length, if_neg (Nat.not_lt.2 h.fits), if_neg (by simp [State.rangeOk_hostImage h]), State.fetchImage_ok h]
  dsimp only
  rw [← State.imageRead, hbad]

theorem State.calibreWrite_staged (hlive : bit (field (s.job j).args 20 1) 0 = false)
    (hgood : (s.imageRead j im).checkImage im im.length false = none) :
    s.calibreWrite j im .ok = { (s.imageRead j im).start j with
      clb := { (s.imageRead j im).clb with staged := some ⟨j, im, Img.latUnbound im⟩ } } := by
  unfold State.calibreWrite
  dsimp only
  rw [h.length, if_neg (Nat.not_lt.2 h.fits), if_neg (by simp [State.rangeOk_hostImage h]), State.fetchImage_ok h, hlive]
  dsimp only
  rw [← State.imageRead, hgood]
  rfl

end

/-! ### CALIBRE_WRITE_COMMIT (R133, R134) -/

theorem State.newSeq_lt (s : State) : s.newSeq < 65536 := by
  unfold State.newSeq
  dsimp only
  split
  · exact Nat.mod_lt _ (by decide)
  · exact Nat.mod_lt _ (by decide)

/-- The shadow holds a staged image under the next sequence number. -/
def State.committed (s : State) (im : Bytes) (lat : List Nat) : State :=
  State.bankShown { s with clb := { s.clb with staged := none, issue := s.newSeq } } s.shadow ⟨1, s.newSeq, im, lat⟩

theorem State.committed_parts (s : State) (im : Bytes) (lat : List Nat) :
    (s.committed im lat).bank s.shadow = ⟨1, s.newSeq, im, lat⟩ ∧
    (s.committed im lat).bank (!s.shadow) = s.bank (!s.shadow) ∧ (s.committed im lat).clb.staged = none ∧
    (s.committed im lat).fld Reg.CLB_WRITE_SEQ = s.newSeq ∧ (s.committed im lat).clb.issue = s.newSeq := by
  obtain ⟨hstaged, hissue⟩ := State.setBank_staged_issue { s with clb := { s.clb with staged := none, issue := s.newSeq } } s.shadow
    ⟨1, s.newSeq, im, lat⟩
  exact ⟨State.bank_bankShown .., State.bank_bankShown_other _ _ (by simp), hstaged,
    (State.fld_bankShown ..).trans (Nat.mod_eq_of_lt s.newSeq_lt), hissue⟩

theorem State.writeCommit_eq {s : State} {j : Nat} {im : Bytes} {lat : List Nat} (hstaged : s.clb.staged = some ⟨j, im, lat⟩)
    (hdrain : (s.bank s.shadow).state ≠ 3) (hswap : s.clb.swap = none) :
    s.writeCommit j = ((s.committed im lat).check .clbSram).finish j St.ok 0 0 lat.length s.newSeq := by
  unfold State.writeCommit
  rw [hstaged]
  exact if_neg (by simp [hdrain, hswap])

/-- The check of the store and the end of the job leave what the commit has made. -/
theorem runs_calibreWriteCommit {s : State} {j : Nat} {im : Bytes} {lat : List Nat} (hc : s.pwr.clocksStopped = false)
    (hstaged : s.clb.staged = some ⟨j, im, lat⟩) (hdrain : (s.bank s.shadow).state ≠ 3) (hswap : s.clb.swap = none) :
    Runs (.calibreWriteCommit j) s fun t =>
      t.bank s.shadow = ⟨1, s.newSeq, im, lat⟩ ∧ t.bank (!s.shadow) = s.bank (!s.shadow) ∧ t.clb.staged = none ∧
      t.fld Reg.CLB_WRITE_SEQ = s.newSeq ∧ t.clb.issue = s.newSeq ∧ Tab.has t.rng.jobs j = false := by
  refine Runs.of_run (f := fun s => s.writeCommit j) rfl hc (State.writeCommit_eq hstaged hdrain hswap) ?_
  obtain ⟨hnew, hother, hstaged', hseq, hissue⟩ := s.committed_parts im lat
  have checked : SameFld (s.committed im lat) ((s.committed im lat).check .clbSram) :=
    (outlastsLatch_sameFld _).check (.refl _) _ _
  obtain ⟨hclb, hended⟩ := State.finish_calibres ((s.committed im lat).check_clb .clbSram 0) j St.ok 0 0 lat.length s.newSeq
  rw [State.bank_congr hclb, State.bank_congr hclb, hclb]
  refine ⟨hnew, hother, hstaged', ?_, hissue, hended⟩
  rw [State.fld_finish _ _ _ _ _ _ _ _ (by decide) (by decide), checked.same _ _ (by decide) (by decide), hseq]

/-- Settles O22: the branches of CALIBRE_WRITE, whose reads leave the calibres and the jobs alone, and the commit. -/
theorem calibreWriteChecksAndStages : Obligations.CalibreWriteChecksAndStages := by
  refine fun s j hc => ⟨fun im hstart hlen hfits hhost hrange => ?_,
    fun im lat hstaged hdrain hswap => runs_calibreWriteCommit hc hstaged hdrain hswap⟩
  have named : NamesHostImage s j im := ⟨hlen, hfits, hhost, hrange⟩
  have read := sameCalibres_imageRead s j im
  refine ⟨?_, fun hbad => ?_, fun hgood hlive => ?_⟩
  · exact Runs.of_run rfl hc ((if_pos hstart).trans (State.calibreWrite_unread named)) (State.finish_calibres rfl ..)
  · obtain ⟨⟨reason, off⟩, hreason⟩ := Option.ne_none_iff_exists'.1 hbad
    exact Runs.of_run rfl hc ((if_pos hstart).trans (State.calibreWrite_refused named hreason)) (State.finish_calibres read.clb ..)
  · have job : (s.imageRead j im).job j = s.job j := State.job_congr read.rng j
    have started : ((s.imageRead j im).start j).job j = { s.job j with started := true, work := 0 } := by rw [State.job_start, job]
    refine Runs.of_run rfl hc ((if_pos hstart).trans (State.calibreWrite_staged named hlive hgood))
      ⟨?_, (congrArg Job.started started :), (congrArg Job.args started :)⟩
    rw [read.clb]

/-! ### The swap (R139, R140) -/

/-- Whether the mark of a frame lies 400 µs or more ahead (R139 step 3). -/
def State.ahead (s : State) (k : Nat) : Bool := decide (s.now + 400 * Clk.us ≤ s.markTime k)

theorem State.ahead_of_le {s : State} {k : Nat} (h : s.now + 400 * Clk.us ≤ s.markTime k) : s.ahead k = true :=
  decide_eq_true h

theorem State.ahead_of_lt {s : State} {k : Nat} (h : s.markTime k < s.now + 400 * Clk.us) : s.ahead k = false :=
  decide_eq_false (Nat.not_le_of_lt h)

/-- The frame that a swap takes, if one is left for it (R139 step 3). -/
def State.swapFrame (s : State) (x : Swap) : Option Nat :=
  if x.useAt then
    if frameLe (frameAdd s.frameCount 1) x.frame ∧ s.now + 400 * Clk.us ≤ s.markTime x.frame then some x.frame else none
  else ((List.range 8).map fun i => frameAdd s.frameCount (i + 1)).find? s.ahead

/-- Without AT a swap takes the first of the next eight frames whose mark lies far enough ahead. -/
theorem State.swapFrame_first {s : State} {x : Swap} {i : Nat} (hat : x.useAt = false) (hi : i < 8)
    (hfar : s.ahead (frameAdd s.frameCount (i + 1)) = true)
    (hnear : ∀ k, k < i → s.ahead (frameAdd s.frameCount (k + 1)) = false) :
    s.swapFrame x = some (frameAdd s.frameCount (i + 1)) := by
  have first : (List.range 8).find? (fun i => s.ahead (frameAdd s.frameCount (i + 1))) = some i :=
    List.find?_range_eq_some.2 ⟨hfar, List.mem_range.2 hi, fun k hk => congrArg (!·) (hnear k hk)⟩
  unfold State.swapFrame
  rw [hat, if_neg Bool.false_ne_true, List.find?_map, Function.comp_def, first]
  rfl

/-- The swap is armed for frame `k`, with the identities of the shadow's tiles. -/
def State.swapSet (s : State) (x : Swap) (k : Nat) : State :=
  { s with clb := { s.clb with swap := some { x with
      armed := true, s := k, idents := s.evalTiles (s.bank s.shadow).image, mirrors := s.evalMirrors (s.bank s.shadow).image } } }

section
variable {s : State} {x : Swap} (hswap : s.clb.swap = some x) (hunarmed : x.armed = false)
include hswap hunarmed

theorem State.swapArmed_some {k : Nat} (hframe : s.swapFrame x = some k) : s.swapArmed = s.swapSet x k := by
  unfold State.swapFrame State.ahead at hframe
  unfold State.swapArmed
  rw [hswap]
  dsimp only
  rw [hunarmed, if_neg Bool.false_ne_true, hframe]
  rfl

theorem State.swapArmed_none (hframe : s.swapFrame x = none) :
    s.swapArmed = State.finish { s with clb := { s.clb with swap := none } } x.job St.timeout := by
  unfold State.swapFrame State.ahead at hframe
  unfold State.swapArmed
  rw [hswap]
  dsimp only
  rw [hunarmed, if_neg Bool.false_ne_true, hframe]

end

/-- The bank that drains becomes the written shadow again, and CLB_WRITE_SEQ shows its number. -/
theorem State.releaseBank_parts {s : State} (hvalid : s.clb.activeValid = true) (hdrains : (s.bank (!s.clb.active)).state = 3) :
    s.releaseBank.bank (!s.clb.active) = { s.bank (!s.clb.active) with state := 1 } ∧
    s.releaseBank.bank s.clb.active = s.bank s.clb.active ∧
    s.releaseBank.fld Reg.CLB_WRITE_SEQ = (s.bank (!s.clb.active)).seq % 65536 := by
  have released : s.releaseBank = s.bankShown (!s.clb.active) { s.bank (!s.clb.active) with state := 1 } :=
    if_neg (by simp [hvalid, hdrains])
  rw [released]
  exact ⟨State.bank_bankShown .., State.bank_bankShown_other _ _ (by simp), State.fld_bankShown ..⟩

/-! ### CALIBRE_READ (R138) -/

/-- The image of the active bank as a read and a save give it. -/
def State.activeImage (s : State) : Bytes := Img.readBack (s.bank s.clb.active).image (s.bank s.clb.active).latUnbound

theorem State.calibreRead_active {s : State} {j : Nat} (hj : Tab.has s.rng.jobs j = true) (hsilent : (s.job j).silent = true)
    (hwhich : field (s.job j).args 20 1 = 0) (hvalid : s.clb.activeValid = true)
    (hstate : (s.bank s.clb.active).state ≠ 0) (hhost : (addrSpace (field (s.job j).args 8 8)).1 = false)
    (hroom : s.activeImage.length ≤ field (s.job j).args 16 4)
    (hrange : (addrSpace (field (s.job j).args 8 8)).2 + s.activeImage.length ≤ 9223372036854775808) :
    s.calibreRead j =
      (s.hostWrite (addrSpace (field (s.job j).args 8 8)).2 s.activeImage (some (s.job j).tenant)).jobEnded j := by
  have legal : s.rangeOk false (addrSpace (field (s.job j).args 8 8)).2 s.activeImage.length = true :=
    State.rangeOk_host s hrange
  unfold State.calibreRead
  dsimp only
  rw [hwhich, hhost, if_pos rfl, ← State.activeImage, if_neg (by decide), if_neg (by simp [hvalid, hstate]),
    if_neg (by simp [Nat.not_lt.2 hroom, legal])]
  exact State.finish_silent (s := s.hostWrite (addrSpace (field (s.job j).args 8 8)).2 s.activeImage (some (s.job j).tenant))
    hj hsilent ..

/-! ### CALIBRE_SAVE (R149, R395) -/

/-- A keeping store write that wears no page out and warns of none stores the bytes and does nothing else. -/
theorem State.kstWrite_stores {s : State} {off : Nat} {bs : Bytes} (hworn : s.kst.worn off bs.length = false)
    (hwarns : s.kst.warns off bs.length = false) : s.kstWrite off bs = some { s with kst := s.kst.put off bs } := by
  simp [State.kstWrite, hworn, hwarns]

/-- The place of the slot that the last save did not write. -/
def State.saveOffset (s : State) : Nat := Machine.calibreSlot (1 - s.clb.saveSlot)

/-- The slot that the next save of the active calibre writes. -/
def State.saveSlotBytes (s : State) : Bytes :=
  slotBytes ((s.clb.saveSeq + 1) % 4294967296) (s.bank s.clb.active).seq s.frameCount s.activeImage

/-- The slot is written, and the next save goes to the other one. -/
def State.slotSaved (s : State) : State :=
  { s with
    kst := s.kst.put s.saveOffset s.saveSlotBytes
    clb := { s.clb with savePending := false, saved := true, saveSlot := 1 - s.clb.saveSlot
                        saveSeq := (s.clb.saveSeq + 1) % 4294967296 } }

@[simp] theorem KstSt.put_mem (k : KstSt) (off : Nat) (bs : Bytes) : (k.put off bs).mem = k.mem.writeBytes off bs := rfl

theorem State.slotSaved_variant (s : State) : s.slotSaved.variant = s.variant := rfl

theorem State.slotSaved_regs (s : State) : s.slotSaved.regs = s.regs := rfl

theorem State.slotSaved_kst (s : State) : s.slotSaved.kst = s.kst.put s.saveOffset s.saveSlotBytes := rfl

theorem State.slotSaved_clb (s : State) :
    s.slotSaved.clb = { s.clb with savePending := false, saved := true, saveSlot := 1 - s.clb.saveSlot
                                   saveSeq := (s.clb.saveSeq + 1) % 4294967296 } := rfl

/-- The event of a save leaves the slot written and the calibre state as the save has made it. -/
theorem State.slotSaved_reported {s : State} (h : (s.takeInject .rngPtr (s.fld Reg.CLB_EVQ_RING / 32)).isNone = true)
    (code source : Nat) (args : List Nat) :
    (s.slotSaved.clbEvent code source args).kst = s.kst.put s.saveOffset s.saveSlotBytes ∧
    (s.slotSaved.clbEvent code source args).clb =
      { s.clb with savePending := false, saved := true, saveSlot := 1 - s.clb.saveSlot
                   saveSeq := (s.clb.saveSeq + 1) % 4294967296 } := by
  have sameRing : s.slotSaved.fld Reg.CLB_EVQ_RING = s.fld Reg.CLB_EVQ_RING :=
    State.fld_congr s.slotSaved_variant s.slotSaved_regs ..
  have disarmed : (s.slotSaved.takeInject .rngPtr (s.slotSaved.fld Reg.CLB_EVQ_RING / 32)).isNone = true := by
    rw [sameRing, State.takeInject_isNone_congr s.slotSaved_variant s.slotSaved_regs, h]
  exact ⟨(State.clbEvent_kst disarmed ..).trans s.slotSaved_kst, (State.clbEvent_clb ..).trans s.slotSaved_clb⟩

section
variable {s : State} (hpending : s.clb.savePending = true) (hvalid : s.clb.activeValid = true)
include hpending hvalid

theorem State.calibreSave_stores (hworn : s.kst.worn s.saveOffset s.saveSlotBytes.length = false)
    (hwarns : s.kst.warns s.saveOffset s.saveSlotBytes.length = false) :
    s.calibreSave true =
      s.slotSaved.clbEvent 0x0604 (1 - s.clb.saveSlot) [(s.bank s.clb.active).seq, s.frameCount] := by
  have stored := State.kstWrite_stores hworn hwarns
  have next : wrap 32 (s.clb.saveSeq + 1) = (s.clb.saveSeq + 1) % 4294967296 := rfl
  unfold State.saveOffset State.saveSlotBytes State.activeImage at stored
  unfold State.calibreSave
  rw [if_neg (by simp [hpending, hvalid])]
  dsimp only
  rw [next, stored]
  rfl

theorem State.calibreSave_fails :
    s.calibreSave false = State.latch { s with clb := { s.clb with savePending := false } } .clbSave :=
  if_neg (by simp [hpending, hvalid])

end

/-- Settles O23: the equation of each command in the case that its clause names; the event of a save logs no fault, so that the slot's
bytes are the last that the keeping store takes. -/
theorem calibreSwapReadAndSave : Obligations.CalibreSwapReadAndSave := by
  refine ⟨fun s j hc => ⟨fun hstart hwritten hseq => ?_, fun hstart hother => ?_, fun frame i hswap hi hfar hnear => ?_,
      fun frame hswap => ⟨fun hnext hfar => ?_, fun hnear => ?_⟩, fun hvalid hdrains huntagged => ?_⟩,
    fun s hc => ⟨fun j hstart hsilent hwhich hvalid hstate hhost hroom hrange => ?_,
      fun off bytes hpending hvalid _ hoff hbytes hworn hwarns hinj => ?_, fun hpending hvalid => ?_⟩⟩
  · exact Runs.of_run rfl hc ((if_pos hstart).trans (if_neg (by simp [hwritten, hseq])))
      ⟨rfl, congrArg Job.started (s.job_start j 0)⟩
  · exact Runs.of_run rfl hc ((if_pos hstart).trans (if_pos hother)) (State.finish_calibres rfl ..)
  · have first := State.swapFrame_first (s := s) (x := ⟨j, false, frame, false, 0, [], []⟩) rfl hi (State.ahead_of_le hfar)
      fun k hk => State.ahead_of_lt (hnear k hk)
    exact Runs.of_run rfl hc (State.swapArmed_some hswap rfl first) rfl
  · exact Runs.of_run rfl hc (State.swapArmed_some hswap rfl ((if_pos rfl).trans (if_pos ⟨hnext, hfar⟩))) ⟨rfl, rfl⟩
  · have late : ¬(frameLe (frameAdd s.frameCount 1) frame = true ∧ s.now + 400 * Clk.us ≤ s.markTime frame) :=
      fun h => Nat.not_le_of_lt hnear h.2
    exact Runs.of_run rfl hc (State.swapArmed_none hswap rfl ((if_pos rfl).trans (if_neg late)))
      ⟨State.finish_clb .., (State.finish_ends ..).1⟩
  · exact Runs.of_run rfl hc (if_neg (by simp [huntagged])) (State.releaseBank_parts hvalid hdrains)
  · have ended := State.calibreRead_active (State.has_of_canStart hstart) hsilent hwhich hvalid hstate hhost hroom hrange
    exact Runs.of_run rfl hc ((if_pos hstart).trans ended) ⟨rfl, rfl, rfl, rfl, Tab.has_del_same ..⟩
  · obtain rfl : off = s.saveOffset := hoff
    obtain rfl : bytes = s.saveSlotBytes := hbytes
    obtain ⟨hkst, hclb⟩ := State.slotSaved_reported hinj 0x0604 (1 - s.clb.saveSlot) [(s.bank s.clb.active).seq, s.frameCount]
    exact Runs.of_run (f := fun s => s.calibreSave true) rfl hc (State.calibreSave_stores hpending hvalid hworn hwarns)
      ⟨(congrArg KstSt.mem hkst).trans (KstSt.put_mem ..), congrArg ClbSt.saved hclb, congrArg ClbSt.savePending hclb,
        congrArg ClbSt.saveSlot hclb, congrArg ClbSt.saveSeq hclb⟩
  · exact Runs.of_run (f := fun s => s.calibreSave false) rfl hc (State.calibreSave_fails hpending hvalid)
      ⟨State.latched_latch _ .clbSave 0 (by decide), State.latch_clb { s with clb := { s.clb with savePending := false } } ..⟩

end Sys2Proof.Machine
end

section
/-! PROOFS. The injections armed in a page outlast a latch, but for the page of the collector, whose own memory is checked then
(18_faults_and_self_test.md R362 to R372). -/

namespace Sys2Proof.Machine

/-- The injections that a page still has armed (R372). -/
def State.armed (s : State) (p : Nat) : Nat := s.fld Reg.PG_ERR_INJECT_COUNT p

theorem State.armed_congr {s t : State} (hv : t.variant = s.variant) (hr : t.regs = s.regs) (p : Nat) : t.armed p = s.armed p :=
  State.fld_congr hv hr _ p

theorem State.armed_setFld (s : State) {f : Fld} (i v p : Nat) (hf : f.id ≠ Reg.PG_ERR_INJECT_COUNT.id) (hl : f.id < 1024) :
    (s.setFld f i v).armed p = s.armed p :=
  State.fld_setFld_other s v hf hl (by decide)

theorem State.armed_sendMsix (s : State) (v p : Nat) : (s.sendMsix v).armed p = s.armed p := by
  unfold State.sendMsix
  dsimp only
  split
  · exact State.armed_congr rfl rfl p
  · exact (State.armed_setFld _ _ _ p (by decide) (by decide)).trans (State.armed_congr rfl rfl p)

theorem State.armed_hostMsg (s b : State) (id p : Nat) : (s.hostMsg b id).armed p = s.armed p := by
  unfold State.hostMsg
  split
  · exact s.armed_sendMsix _ p
  · rfl

theorem State.armed_rrAssign (s : State) (id p : Nat) : (s.rrAssign id).armed p = s.armed p := by
  unfold State.rrAssign
  split
  · split
    · exact (State.armed_setFld _ _ _ p (by decide) (by decide)).trans (State.armed_congr rfl rfl p)
    · rfl
  · rfl

theorem State.armed_intEdge (s : State) (id p : Nat) : (s.intEdge id).armed p = s.armed p := by
  unfold State.intEdge
  dsimp only
  split
  · rfl
  · exact (State.armed_hostMsg ..).trans ((State.armed_rrAssign ..).trans (State.armed_congr rfl rfl p))

theorem State.armed_pinEdge (s b : State) (p : Nat) : (s.pinEdge b).armed p = s.armed p := by
  unfold State.pinEdge
  split
  · exact s.armed_intEdge _ p
  · rfl

theorem State.armed_collect (s : State) (c p : Nat) : (s.collect c).armed p = s.armed p := by
  unfold State.collect State.latchEffects
  exact (State.armed_pinEdge ..).trans ((State.armed_congr rfl rfl p).trans
    ((State.armed_intEdge ..).trans (s.armed_setFld _ _ p (by decide) (by decide))))

theorem State.armed_setSticky (s : State) (q b p : Nat) : (s.setSticky q b).armed p = s.armed p := by
  unfold State.setSticky
  split
  · rfl
  · exact s.armed_setFld _ _ p (by decide) (by decide)

theorem State.armed_latchCore (s : State) (src : Src) (i p : Nat) : (s.latchCore src i).armed p = s.armed p := by
  unfold State.latchCore
  dsimp only
  split
  · exact (State.armed_collect ..).trans (s.armed_setSticky ..)
  · exact s.armed_setSticky ..

theorem State.armed_logFault (s : State) (src : Src) (i c p : Nat) : (s.logFault src i c).armed p = s.armed p := by
  have recorded (f : FaultSt) (k : KstSt) : State.armed { s with flt := f, kst := k } p = s.armed p := State.armed_congr rfl rfl p
  have counted (f : FaultSt) (k : KstSt) : (State.count { s with flt := f, kst := k } Reg.FLT_LOG_COUNT).armed p = s.armed p :=
    (State.armed_setFld _ _ _ p (by decide) (by decide)).trans (recorded f k)
  unfold State.logFault
  dsimp only
  split
  · exact (State.armed_latchCore ..).trans ((State.armed_latchCore ..).trans (recorded _ _))
  · split
    · exact (State.armed_latchCore ..).trans (counted _ _)
    · exact counted _ _

section
variable (s : State) {p : Nat} (hp : p ≠ pageOf Blk.flt 0)
include hp

theorem State.armed_collectorCheck : s.collectorCheck.armed p = s.armed p := by
  unfold State.collectorCheck
  split
  · rename_i t ht
    exact (State.armed_latchCore ..).trans (State.takeInject_some ht ▸ State.fld_setFld_index s _ _ (Ne.symm hp))
  · rfl

theorem State.armed_latch (src : Src) (i : Nat) : (s.latch src i).armed p = s.armed p := by
  have checked : (s.latchCore src i).collectorCheck.armed p = s.armed p :=
    (State.armed_collectorCheck _ hp).trans (s.armed_latchCore ..)
  unfold State.latch
  dsimp only
  split <;> split
  · exact (State.armed_logFault ..).trans checked
  · exact checked
  · exact (State.armed_logFault ..).trans (s.armed_latchCore ..)
  · exact s.armed_latchCore ..

end

end Sys2Proof.Machine
end

section
/-! PROOFS. Link frames queue at the switch's inputs and cross it (12_buffer_pool_and_switch.md R207, R260 to R264, R268). -/

namespace Sys2Proof.Machine

/-! ### Submission (R207, R260) -/

/-- Nothing holds the oldest waiting frame back: the page is enabled, and no earlier fragment of its picture waits. -/
theorem State.not_heldBack {s : State} {i : Nat} {f : LinkFrame} (hpage : s.pageEnabled Blk.swc 0 = true) (hi : i < 46)
    (hfirst : i < 32 → s.earlierFrag f = false) :
    ¬((!s.pageEnabled Blk.swc 0) = true ∨ 46 ≤ i ∨ (i < 32 ∧ s.earlierFrag f = true)) := by
  rintro (h | h | ⟨hlt, h⟩)
  · simp [hpage] at h
  · omega
  · simp [hfirst hlt] at h

section
variable {s : State} {i : Nat} {f : LinkFrame} {rest : List LinkFrame} (hpage : s.pageEnabled Blk.swc 0 = true) (hi : i < 46)
  (hwait : (s.swin i).wait = f :: rest) (hfirst : i < 32 → s.earlierFrag f = false)
include hpage hi hwait hfirst

theorem State.frameSubmit_buffered (h : f.bufs ≠ []) :
    s.frameSubmit i = s.setSwin i { s.swin i with wait := rest, queue := (s.swin i).queue ++ [f] } := by
  unfold State.frameSubmit
  dsimp only
  rw [hwait]
  exact (if_neg (State.not_heldBack hpage hi hfirst)).trans (if_pos h)

theorem State.frameSubmit_granted (h : f.bufs = []) {bs : List Nat}
    (hgrant : (s.poolAllocN (if i < 32 then 1 else 4) f.nbuf []).1 = some bs) :
    s.frameSubmit i = (s.poolAllocN (if i < 32 then 1 else 4) f.nbuf []).2.setSwin i
      { s.swin i with wait := rest, queue := (s.swin i).queue ++ [{ f with bufs := bs }] } := by
  unfold State.frameSubmit
  dsimp only
  rw [hwait]
  refine (if_neg (State.not_heldBack hpage hi hfirst)).trans ((if_neg (not_not.2 h)).trans ?_)
  generalize s.poolAllocN (if i < 32 then 1 else 4) f.nbuf [] = granted at hgrant ⊢
  obtain ⟨_, s1⟩ := granted
  obtain rfl := hgrant
  rfl

end

/-! ### Pool commands and stores leave the switch and its ports alone -/

/-- `t` has the switch, the port queues, the enabled pages and, outside the collector's page, the armed injections of `s`. -/
structure SameSwitch (s t : State) : Prop where
  swc : t.swc = s.swc
  sch : t.sch = s.sch
  enabled : ∀ blk inst, t.pageEnabled blk inst = s.pageEnabled blk inst
  armed : ∀ p, p ≠ pageOf Blk.flt 0 → t.armed p = s.armed p

namespace SameSwitch

variable {s t u : State}

theorem trans (h : SameSwitch s t) (k : SameSwitch t u) : SameSwitch s u where
  swc := k.swc.trans h.swc
  sch := k.sch.trans h.sch
  enabled blk inst := (k.enabled blk inst).trans (h.enabled blk inst)
  armed p hp := (k.armed p hp).trans (h.armed p hp)

theorem ins (h : SameSwitch s t) : t.swc.ins = s.swc.ins := congrArg SwcSt.ins h.swc

theorem swout (h : SameSwitch s t) (o : Nat) : t.swout o = s.swout o := by
  unfold State.swout
  rw [h.swc]

theorem sport (h : SameSwitch s t) (p : Nat) : t.sport p = s.sport p := by
  unfold State.sport
  rw [h.sch]

theorem of_parts (hv : t.variant = s.variant) (hr : t.regs = s.regs) (hswc : t.swc = s.swc) (hsch : t.sch = s.sch) :
    SameSwitch s t where
  swc := hswc
  sch := hsch
  enabled _ _ := congrArg (· != 0) (State.fld_congr hv hr ..)
  armed p _ := State.armed_congr hv hr p

theorem setFld (s : State) (f : Fld) (i v : Nat) (hl : f.id < 1024 := by decide)
    (henable : f.id ≠ Reg.PG_CTRL_ENABLE.id := by decide) (harm : f.id ≠ Reg.PG_ERR_INJECT_COUNT.id := by decide) :
    SameSwitch s (s.setFld f i v) where
  swc := rfl
  sch := rfl
  enabled _ _ := congrArg (· != 0) (State.fld_setFld_other s v henable hl (by decide))
  armed p _ := s.armed_setFld i v p harm hl

theorem latch (s : State) (src : Src) (i : Nat) : SameSwitch s (s.latch src i) where
  swc := s.latch_swc src i
  sch := s.latch_sch src i
  enabled _ _ := congrArg (· != 0) (s.fld_latch src i (by decide) (by decide))
  armed _ hp := s.armed_latch hp src i

theorem setOwn (s : State) (o : Nat) (x : Owner) : SameSwitch s (s.setOwn o x) := of_parts rfl rfl rfl rfl

theorem setBuf (s : State) (b : Nat) (x : Buf) : SameSwitch s (s.setBuf b x) := of_parts rfl rfl rfl rfl

theorem setPool (s : State) (x : Nat) (p : Pool) : SameSwitch s (s.setPool x p) := by
  apply of_parts <;> simp

theorem bufWrite (s : State) (b off : Nat) (bs : Bytes) : SameSwitch s (s.bufWrite b off bs) := by
  unfold State.bufWrite
  split
  · exact of_parts rfl rfl rfl rfl
  · apply of_parts <;> simp

theorem misuse (s : State) (op st o b : Nat) : SameSwitch s (s.misuse op st o b) := by
  unfold State.misuse State.count
  exact (setFld _ Reg.BPM_MISUSE ..).trans ((setFld _ Reg.BPM_MISUSE_LAST_OP ..).trans
    ((setFld _ Reg.BPM_MISUSE_LAST_STATUS ..).trans ((setFld _ Reg.BPM_MISUSE_LAST_OWNER ..).trans
      ((setFld _ Reg.BPM_MISUSE_BUF ..).trans (latch ..)))))

theorem pushFree (s : State) (b : Nat) : SameSwitch s (s.pushFree b) := by
  unfold State.pushFree State.thread
  exact (setBuf ..).trans ((bufWrite ..).trans (setPool ..))

theorem poolFree (s : State) (o b : Nat) : SameSwitch s (s.poolFree o b).2 := by
  unfold State.poolFree State.named
  split
  · dsimp only
    split
    · exact (setOwn ..).trans ((setPool ..).trans (pushFree ..))
    · exact (setOwn ..).trans ((setPool ..).trans (setBuf ..))
  · exact misuse ..

theorem poolHandover (s : State) (o b new : Nat) : SameSwitch s (s.poolHandover o b new).2 := by
  unfold State.poolHandover State.named
  split
  · exact (setBuf ..).trans ((setOwn ..).trans (setOwn ..))
  · exact misuse ..

theorem crossBuf (s : State) (b copies : Nat) : SameSwitch s (s.crossBuf b copies) := by
  have handed := poolHandover s (s.buf b).owner b 4
  unfold State.crossBuf
  split
  · rename_i s1 h
    rw [h] at handed
    dsimp only
    refine handed.trans (SameSwitch.trans ?_ (poolFree ..))
    split
    · exact misuse ..
    · exact setBuf ..
  · rename_i h
    rw [h] at handed
    exact handed

end SameSwitch

/-! ### Round robin (R261) -/

/-- Some place at or after `p` in the round of `n` is `x`. -/
theorem mem_round {n p x : Nat} (hx : x < n) : x ∈ (List.range n).map fun k => (p + k) % n := by
  have hp : p % n < n := Nat.mod_lt p (by omega)
  have back : p + (x + (n - p % n)) = x + n * (p / n + 1) := by
    have := Nat.mod_add_div p n
    rw [Nat.mul_add]
    omega
  refine List.mem_map.2 ⟨(x + (n - p % n)) % n, List.mem_range.2 (Nat.mod_lt _ (by omega)), ?_⟩
  rw [Nat.add_mod_mod, back, Nat.add_mul_mod_self_left, Nat.mod_eq_of_lt hx]

theorem nodup_round (n p : Nat) : ((List.range n).map fun k => (p + k) % n).Nodup :=
  List.nodup_range.map_on fun _ hk _ hl h =>
    Nat.ModEq.eq_of_lt_of_lt (Nat.ModEq.add_left_cancel' p h) (List.mem_range.1 hk) (List.mem_range.1 hl)

theorem filter_contains_singleton {l : List Nat} (hl : l.Nodup) {x : Nat} (hx : x ∈ l) :
    l.filter (fun k => [x].contains k) = [x] := by
  have only : (fun k => [x].contains k) = fun k => k == x := by
    funext k
    simp only [List.contains_cons, List.contains_nil, Bool.or_false]
  rw [only, List.filter_beq, List.count_eq_one_of_mem hl hx]
  rfl

theorem rrOrder_singleton {n x : Nat} (p : Nat) (hx : x < n) : rrOrder n p [x] = [x] :=
  filter_contains_singleton (nodup_round n p) (mem_round hx)

theorem rrFirst_singleton {n x : Nat} (p : Nat) (hx : x < n) : rrFirst n p [x] = some x :=
  (List.head?_filter ..).symm.trans (congrArg List.head? (rrOrder_singleton p hx))

theorem rrFirst_nil (n p : Nat) : rrFirst n p [] = none := List.find?_eq_none.2 fun _ _ => by simp

/-! ### Matching (R261) -/

/-- The inputs that ask for an output in an iteration. -/
def State.asking (s : State) (mi : List Nat) (o : Nat) : List Nat :=
  (s.swc.ins.filter fun i => i.2.staged && i.2.left.contains o && !(mi.contains i.1)).map (·.1)

theorem State.grants_eq (s : State) (mi mo : List Nat) :
    s.grants mi mo = (List.range 66).filterMap fun o =>
      if mo.contains o || (decide (o < 64) && !s.pageEnabled Blk.sch o) then none
      else (rrFirst 46 (s.swout o).grant (s.asking mi o)).map fun i => (i, o) := rfl

/-- Where no cell has an output left to reach, an iteration matches nothing. -/
theorem State.iterations_idle {s : State} (h : ∀ e ∈ s.swc.ins, e.2.left = []) (first : Bool) (mi mo : List Nat) (n : Nat) :
    s.iterations first mi mo n = s := by
  have silent (mi : List Nat) (o : Nat) : s.asking mi o = [] := by
    refine List.map_eq_nil_iff.2 (List.filter_eq_nil_iff.2 fun e he => ?_)
    simp [h e he]
  have ungranted (mi mo : List Nat) : s.grants mi mo = [] := by
    rw [State.grants_eq]
    refine List.filterMap_eq_nil_iff.2 fun o _ => ?_
    rw [silent, rrFirst_nil]
    exact ite_self none
  induction n generalizing first mi mo with
  | zero => rfl
  | succ n ih =>
    unfold State.iterations
    rw [ungranted]
    exact (congrArg (fun t => State.iterations t false _ _ n) (ite_self s)).trans (ih _ _ _)

/-! ### A frame alone at the inputs -/

/-- An input whose only frame has one cell, which stands in staging for output `o`. -/
def SwIn.staging (f : LinkFrame) (o : Nat) : SwIn := { queue := [f], entered := true, ports := [o], staged := true, left := [o] }

/-- Input `i` with its only cell delivered, before it leaves staging. -/
def SwIn.delivered (f : LinkFrame) (o : Nat) : SwIn := { SwIn.staging f o with left := [], written := true }

@[simp] theorem State.sport_setSwin (s : State) (i : Nat) (x : SwIn) (p : Nat) : (s.setSwin i x).sport p = s.sport p := rfl

@[simp] theorem State.sport_setSwout (s : State) (o : Nat) (x : SwOut) (p : Nat) : (s.setSwout o x).sport p = s.sport p := rfl

@[simp] theorem State.swout_setSwin (s : State) (i : Nat) (x : SwIn) (o : Nat) : (s.setSwin i x).swout o = s.swout o := rfl

@[simp] theorem State.swout_setSport (s : State) (p : Nat) (x : SchPort) (o : Nat) : (s.setSport p x).swout o = s.swout o := rfl

@[simp] theorem State.armed_setSwin (s : State) (i : Nat) (x : SwIn) (p : Nat) : (s.setSwin i x).armed p = s.armed p :=
  State.armed_congr rfl rfl p

@[simp] theorem State.armed_setSwout (s : State) (o : Nat) (x : SwOut) (p : Nat) : (s.setSwout o x).armed p = s.armed p :=
  State.armed_congr rfl rfl p

@[simp] theorem State.armed_setSport (s : State) (q : Nat) (x : SchPort) (p : Nat) : (s.setSport q x).armed p = s.armed p :=
  State.armed_congr rfl rfl p

theorem State.swin_of_lone {s : State} {i : Nat} {x : SwIn} (h : s.swc.ins = [(i, x)]) : s.swin i = x := by
  simp [State.swin, h, Tab.get]

theorem State.setSwin_lone {s : State} {i : Nat} {x : SwIn} (h : s.swc.ins = [(i, x)]) (y : SwIn) :
    (s.setSwin i y).swc.ins = [(i, y)] := by
  simp [State.setSwin, h, Tab.set]

section
variable {s : State} {i o : Nat} {f : LinkFrame} (hlone : s.swc.ins = [(i, SwIn.staging f o)])
include hlone

/-- The only cell in staging is granted its output and accepts it. -/
theorem State.accepted_lone (hi : i < 46) (ho : o < 64) (hpage : s.pageEnabled Blk.sch o = true) :
    s.accepted (s.grants [] []) = [(i, o)] := by
  have asks (k : Nat) : s.asking [] k = if k = o then [i] else [] := by
    unfold State.asking
    rw [hlone]
    by_cases h : k = o <;> simp [SwIn.staging, h]
  have granted : s.grants [] [] = ((List.range 66).filter fun k => [o].contains k).filterMap fun k => some (i, k) := by
    rw [State.grants_eq, List.filterMap_filter]
    refine List.filterMap_congr fun k _ => ?_
    rw [asks]
    by_cases h : k = o
    · simp [h, hpage, rrFirst_singleton _ hi]
    · simp [h, rrFirst_nil]
  rw [granted, filter_contains_singleton List.nodup_range (List.mem_range.2 (by omega))]
  have once : [i].eraseDups = [i] := by simp [List.eraseDups_cons]
  simp [State.accepted, once, rrOrder_singleton _ (show o < 66 by omega)]

theorem State.iterations_lone (hi : i < 46) (ho : o < 64) (hpage : s.pageEnabled Blk.sch o = true) {x : SwIn}
    (hdone : ((s.matched i o).movePointers (i, o)).swc.ins = [(i, x)]) (hleft : x.left = []) :
    s.iterations true [] [] 3 = (s.matched i o).movePointers (i, o) := by
  rw [State.iterations, State.accepted_lone hlone hi ho hpage]
  exact State.iterations_idle (by simp [hdone, hleft]) ..

end

/-! ### One open frame of one cell crosses to its port (R261 to R264, R268) -/

/-- An open frame of one cell in buffer `b`, directed to output `o`. -/
structure LinkFrame.ToPort (f : LinkFrame) (o b : Nat) : Prop where
  isOpen : f.isOpen = true
  direct : f.direct = some o
  bufs : f.bufs = [b]
  cells : f.cells = 1

/-- A port with an open frame in the leaf of its subscriber and class (R280). -/
def SchPort.withOpen (x : SchPort) (f : LinkFrame) : SchPort :=
  { x with leaves := Tab.set x.leaves (leafKey f.sub f.cls) (x.leaf (leafKey f.sub f.cls) ++ [f]) }

theorem SchPort.leaf_withOpen (x : SchPort) (f : LinkFrame) :
    (x.withOpen f).leaf (leafKey f.sub f.cls) = x.leaf (leafKey f.sub f.cls) ++ [f] :=
  Tab.get_set_same ..

theorem State.joinPort_open (s : State) (o : Nat) {f : LinkFrame} (h : f.isOpen = true) :
    s.joinPort o f = s.setSport o ((s.sport o).withOpen f) := by
  unfold State.joinPort
  simp only [h, if_true]
  rfl

section
variable {s : State} {i o : Nat} {f : LinkFrame} {x : SwIn}

theorem State.movePointers_lone (h : s.swc.ins = [(i, x)]) :
    s.movePointers (i, o) =
      (s.setSwout o { s.swout o with grant := (i + 1) % 46 }).setSwin i { x with accept := (o + 1) % 66 } := by
  have kept : (s.setSwout o { s.swout o with grant := (i + 1) % 46 }).swin i = x := State.swin_of_lone h
  unfold State.movePointers
  dsimp only
  rw [kept]

/-- The cell of input `i` has joined the queue of port `o`, and the pointers have moved. -/
def State.delivery (s : State) (i o : Nat) (f : LinkFrame) : State :=
  ((s.setSwin i (SwIn.delivered f o)).joinPort o f).movePointers (i, o)

/-- The parts that a delivery writes, one after the other. -/
theorem State.delivery_eq (hopen : f.isOpen = true) (hlone : s.swc.ins = [(i, x)]) :
    s.delivery i o f = (((s.setSwin i (SwIn.delivered f o)).setSport o ((s.sport o).withOpen f)).setSwout o
      { s.swout o with grant := (i + 1) % 46 }).setSwin i { SwIn.delivered f o with accept := (o + 1) % 66 } := by
  have emptied : (s.setSwin i (SwIn.delivered f o)).swc.ins = [(i, SwIn.delivered f o)] := State.setSwin_lone hlone _
  unfold State.delivery
  rw [State.joinPort_open _ o hopen]
  exact State.movePointers_lone (s := (s.setSwin i (SwIn.delivered f o)).setSport o ((s.sport o).withOpen f)) emptied

theorem State.delivery_lone (hopen : f.isOpen = true) (hlone : s.swc.ins = [(i, x)]) :
    (s.delivery i o f).swc.ins = [(i, { SwIn.delivered f o with accept := (o + 1) % 66 })] := by
  rw [State.delivery_eq hopen hlone]
  exact State.setSwin_lone (State.setSwin_lone hlone (SwIn.delivered f o)) _

end

/-- The frame has left input `i` and stands in its leaf of port `o`; no other input holds anything. -/
structure Crossed (s t : State) (i o : Nat) (f : LinkFrame) : Prop where
  alone : ∃ x : SwIn, t.swc.ins = [(i, x)] ∧ x.queue = [] ∧ x.staged = false ∧ x.left = []
  leaf : (t.sport o).leaf (leafKey f.sub f.cls) = (s.sport o).leaf (leafKey f.sub f.cls) ++ [f]
  audIn : (t.swout o).audIn = wrap 64 ((s.swout o).audIn + 1)
  armed : t.armed (pageOf Blk.swc 0) = s.armed (pageOf Blk.swc 0)

/-- Output `o` has taken a frame of one cell, which input `i` has in staging for it. -/
def State.entering (s : State) (i o : Nat) (f : LinkFrame) : State :=
  ((s.held (f.holder o) f.nbuf 0).audIn o f.cells).setSwin i (SwIn.staging f o)

theorem State.entering_lone {s : State} {i o : Nat} {f : LinkFrame} {x : SwIn} (h : s.swc.ins = [(i, x)]) :
    (s.entering i o f).swc.ins = [(i, SwIn.staging f o)] :=
  State.setSwin_lone (s := (s.held (f.holder o) f.nbuf 0).audIn o f.cells) h _

theorem State.audIn_entering (s : State) (i o : Nat) (f : LinkFrame) :
    ((s.entering i o f).swout o).audIn = wrap 64 ((s.swout o).audIn + f.cells) :=
  congrArg SwOut.audIn (State.swout_setSwout ..)

theorem State.armed_entering (s : State) (i o : Nat) (f : LinkFrame) (p : Nat) : (s.entering i o f).armed p = s.armed p :=
  State.armed_congr rfl rfl p

section
variable {s : State} {i o b : Nat} {f : LinkFrame} (hf : f.ToPort o b)
include hf

theorem State.sopEnter_toPort (hi : i < 41) (ho : o < s.variant.ports) (haccepts : s.accepts f o = true) :
    s.sopEnter i { queue := [f] } f [] = s.entering i o f := by
  have tagless : f.direct.isNone = false := by rw [hf.direct]; rfl
  have tagged : s.badTag i f = false := by simp [State.badTag, tagless]
  have ports : s.variant.ports ≤ 64 := by cases s.variant <;> decide
  have list : s.fwdList i f = ([o], f.dreg) := by
    unfold State.fwdList
    rw [if_neg (by omega), hf.direct]
    exact (if_neg fun h => absurd h.1 (by omega)).trans (if_pos (Or.inl ho))
  have taken : s.ingress f [o] = ([o], (s.held (f.holder o) f.nbuf 0).audIn o f.cells) := by
    simp [State.ingress, State.ingressAt, haccepts]
  unfold State.sopEnter
  dsimp only
  rw [tagged, tagless, if_neg (by simp), if_neg (by simp), list]
  dsimp only
  rw [taken]
  rfl

theorem State.cellIn_staging (hx : s.swin i = SwIn.staging f o)
    (hdisarmed : (s.crossBuf b 1).armed (pageOf Blk.swc 0) = 0) : s.cellIn i = s.crossBuf b 1 := by
  have last : f.lastOfBuf 0 = true := by simp [LinkFrame.lastOfBuf, hf.cells]
  have crossed : s.crossBuf (f.bufs.getD 0 0) 1 = s.crossBuf b 1 := by rw [hf.bufs]; rfl
  have clean : (s.crossBuf b 1).takeInject .swcDatapath = none := State.takeInject_eq_none hdisarmed
  unfold State.cellIn
  rw [hx]
  dsimp only [SwIn.staging]
  rw [last, if_pos rfl, Nat.zero_div, List.length_singleton, crossed, clean]

/-- The head enters and its buffer crosses to the switch. -/
theorem State.stage_toPort (hlone : s.swc.ins = [(i, { queue := [f] })]) (hi : i < 41) (ho : o < s.variant.ports)
    (haccepts : s.accepts f o = true) (hdisarmed : s.armed (pageOf Blk.swc 0) = 0) :
    s.stage i = (s.entering i o f).crossBuf b 1 := by
  have inside : (s.entering i o f).swin i = SwIn.staging f o := State.swin_setSwin ..
  have quiet : ((s.entering i o f).crossBuf b 1).armed (pageOf Blk.swc 0) = 0 :=
    ((SameSwitch.crossBuf ..).armed _ (by decide)).trans hdisarmed
  unfold State.stage
  rw [State.swin_of_lone hlone]
  dsimp only
  rw [if_neg (by decide), if_neg (by decide), State.sopEnter_toPort hf hi ho haccepts, inside]
  exact (if_pos rfl).trans (State.cellIn_staging hf inside quiet)

theorem State.matched_toPort (hx : s.swin i = SwIn.staging f o) (ho : o < 64) :
    s.matched i o = ((s.bufWrite b 0 (slice f.data 0 128)).setSwin i (SwIn.delivered f o)).joinPort o f := by
  unfold State.matched State.deliver
  rw [hx]
  simp [SwIn.staging, SwIn.delivered, hf.cells, hf.bufs, ho]

theorem State.retire_toPort {x : SwIn} (hx : s.swin i = x) (hstaged : x.staged = true) (hleft : x.left = [])
    (hqueue : x.queue = [f]) (hcell : x.cell = 0) :
    s.retire i = s.setSwin i { x with queue := [], entered := false, ports := [], dropped := [], staged := false, cell := 0 } := by
  unfold State.retire
  rw [hx]
  dsimp only
  rw [if_neg (by simp [hstaged, hleft]), hqueue]
  dsimp only
  rw [if_pos (by rw [hcell, hf.cells])]

/-- Whatever state the pool is in, a cell that has entered reaches its leaf, and its frame then leaves the input. -/
theorem State.crossed_of_entered {u : State} (hlone : s.swc.ins = [(i, { queue := [f] })]) (k : SameSwitch (s.entering i o f) u) :
    Crossed s ((u.delivery i o f).retire i) i o f := by
  have inside : u.swc.ins = [(i, SwIn.staging f o)] := k.ins.trans (State.entering_lone hlone)
  have last := State.delivery_lone (o := o) hf.isOpen inside
  have port : u.sport o = s.sport o := k.sport o
  have taken : (u.swout o).audIn = wrap 64 ((s.swout o).audIn + 1) := by
    rw [k.swout, State.audIn_entering, hf.cells]
  have armed : u.armed (pageOf Blk.swc 0) = s.armed (pageOf Blk.swc 0) := (k.armed _ (by decide)).trans (s.armed_entering ..)
  rw [State.retire_toPort hf (State.swin_of_lone last) rfl rfl rfl rfl]
  refine ⟨⟨_, State.setSwin_lone last _, rfl, rfl, rfl⟩, ?_, ?_, ?_⟩ <;> rw [State.delivery_eq hf.isOpen inside]
  · simp [port, SchPort.leaf_withOpen]
  · simp [taken]
  · simp [armed]

end

/-! ### One cell time (R261) -/

theorem State.phase_lone {s : State} {i : Nat} {x : SwIn} (h : s.swc.ins = [(i, x)]) :
    s.phase = ((s.stage i).iterations true [] [] 3).retire i := by
  simp only [State.phase, h, List.map_cons, List.map_nil, List.foldl_cons, List.foldl_nil]

/-- A lone frame for one port crosses in one phase. -/
theorem State.phase_toPort {s : State} {i o b : Nat} {f : LinkFrame} (hf : f.ToPort o b)
    (hlone : s.swc.ins = [(i, { queue := [f] })]) (hi : i < 41) (ho : o < s.variant.ports) (haccepts : s.accepts f o = true)
    (hpage : s.pageEnabled Blk.sch o = true) (hdisarmed : s.armed (pageOf Blk.swc 0) = 0) : Crossed s s.phase i o f := by
  have port : o < 64 := Nat.lt_of_lt_of_le ho (by cases s.variant <;> decide)
  have k : SameSwitch (s.entering i o f) (s.stage i) := by
    rw [State.stage_toPort hf hlone hi ho haccepts hdisarmed]
    exact .crossBuf ..
  have inside : (s.stage i).swc.ins = [(i, SwIn.staging f o)] := k.ins.trans (State.entering_lone hlone)
  have opened : (s.stage i).pageEnabled Blk.sch o = true := (k.enabled ..).trans hpage
  have stored := k.trans (.bufWrite (s.stage i) b 0 (slice f.data 0 128))
  have delivered : ((s.stage i).matched i o).movePointers (i, o) = State.delivery _ i o f :=
    congrArg (State.movePointers · (i, o)) (State.matched_toPort hf (State.swin_of_lone inside) port)
  have reached := State.delivery_lone (o := o) hf.isOpen (stored.ins.trans (State.entering_lone hlone))
  rw [State.phase_lone hlone, State.iterations_lone inside (by omega) port opened (delivered ▸ reached) rfl, delivered]
  exact State.crossed_of_entered hf hlone stored

/-- A phase at which the only listed input is empty does nothing. -/
theorem State.phase_empty {s : State} {i : Nat} {x : SwIn} (h : s.swc.ins = [(i, x)]) (hqueue : x.queue = [])
    (hstaged : x.staged = false) (hleft : x.left = []) : s.phase = s := by
  have input := State.swin_of_lone h
  have staged : s.stage i = s := by
    unfold State.stage
    rw [input]
    dsimp only
    rw [hstaged, hqueue]
    rfl
  have retired : s.retire i = s := by
    unfold State.retire
    rw [input]
    exact if_pos (Or.inl (by simp [hstaged]))
  rw [State.phase_lone h, staged, State.iterations_idle (by simp [h, hleft]), retired]

/-- Settles O32: LINK_FRAME_SUBMIT by the two ways in which the oldest frame comes by its buffers; CELL_MATCH by the first of its two
phases, in which the lone frame crosses, since the second finds the input empty and no injection is armed. -/
theorem switchCellsCross : Obligations.SwitchCellsCross := by
  intro s i f hc hswc hi
  refine ⟨fun rest hwait hfirst => ⟨fun hbufs => ?_, fun bs hbufs hgrant => ?_⟩,
    fun b o hi ho hlone hopen hdirect hbufs hlen hshort hpage haccepts hdisarmed _ => ?_⟩
  · exact Runs.of_run (f := fun s => s.frameSubmit i) rfl hc (State.frameSubmit_buffered hswc hi hwait hfirst hbufs)
      ⟨State.swin_setSwin .., rfl⟩
  · exact Runs.of_run (f := fun s => s.frameSubmit i) rfl hc (State.frameSubmit_granted hswc hi hwait hfirst hbufs hgrant)
      ⟨State.swin_setSwin .., rfl⟩
  · have hf : f.ToPort o b := ⟨hopen, hdirect, hbufs, by unfold LinkFrame.cells; omega⟩
    obtain ⟨⟨x, hx, hqueue, hstaged, hleft⟩, hleaf, haud, harmed⟩ := State.phase_toPort hf hlone hi ho haccepts hpage hdisarmed
    have unchecked : s.phase.takeInject .swcSram = none := State.takeInject_eq_none (harmed.trans hdisarmed)
    have crossed : s.cellTime = s.phase := by
      unfold State.cellTime State.check
      rw [State.phase_empty hx hqueue hstaged hleft, unchecked]
    have input := State.swin_of_lone hx
    exact Runs.of_run rfl hc crossed
      ⟨(congrArg SwIn.queue input).trans hqueue, (congrArg SwIn.staged input).trans hstaged, hleaf, haud⟩

end Sys2Proof.Machine
end

section
/-! PROOFS. What a read of device memory leaves alone, and what the reads and writes of a tile's reference leave alone
(10_mezzanine_encoding.md R226, R227; 19_memory_and_keeping_store.md R384). -/

namespace Sys2Proof.Machine

/-! ### Reads of device memory -/

/-- `g` looks at parts of the state that a latch, the registers, the device memory and the requests to the host do not lie in. -/
structure OutsideReads {β : Type} (g : State → β) : Prop where
  latch : ∀ (s : State) (src : Src) (i : Nat), g (s.latch src i) = g s
  regs : ∀ (s : State) (r : Tab Nat), g { s with regs := r } = g s
  mem : ∀ (s : State) (m : MemSt), g { s with mem := m } = g s
  request : ∀ (s : State) (q : HostReq), g (s.request q) = g s

namespace OutsideReads

variable {β : Type} {g : State → β} (k : OutsideReads g) (s : State)
include k

theorem setFld (f : Fld) (i v : Nat) : g (s.setFld f i v) = g s := k.regs s _

theorem takeInject {s t : State} {src : Src} {i : Nat} (h : s.takeInject src i = some t) : g t = g s :=
  (congrArg g (State.takeInject_some h)).trans (k.setFld ..)

theorem check (src : Src) (i : Nat) : g (s.check src i) = g s :=
  State.check_induction (P := fun t => g t = g s) rfl fun t ht => (k.latch t src i).trans (k.takeInject ht)

theorem errLog (line channel port kind : Nat) : g (s.errLog line channel port kind) = g s := by
  unfold State.errLog
  dsimp only
  split
  · exact (k.setFld ..).trans ((k.setFld ..).trans (k.mem s _))
  · exact (k.setFld ..).trans ((k.setFld ..).trans (k.mem s _))

theorem memUncorrectable (line channel port kind : Nat) : g (s.memUncorrectable line channel port kind) = g s :=
  (k.latch ..).trans (k.errLog ..)

theorem eccFound (line : Nat) (found : Ecc) : g (s.eccFound line found).2 = g s := by
  unfold State.eccFound State.eccCheck
  dsimp only
  split
  · split
    · rfl
    · split
      · exact k.takeInject ‹_›
      · split
        · exact k.takeInject ‹_›
        · rfl
  · rfl

theorem readLine (line port kind : Nat) (found : Ecc) : g (s.readLine line port kind found).2 = g s := by
  have checked : g (((s.readsAccepted (line * 64) 64).check .memSram).eccFound line found).2 = g s :=
    (k.eccFound ..).trans ((k.check ..).trans (k.mem s _))
  unfold State.readLine
  split
  rename_i e t he
  rw [he] at checked
  split
  · exact checked
  · exact (k.latch ..).trans ((k.setFld ..).trans checked)
  · exact (k.memUncorrectable ..).trans checked

theorem biasRead (a len : Nat) : g (s.biasRead a len) = g s := by
  unfold State.biasRead
  dsimp only
  split
  · exact k.mem s _
  · exact (State.foldl_part (fun t _ => k.request t _) _ _).trans (k.mem s _)

theorem engineRead (a len port : Nat) : g (s.engineRead a len port).2 = g s := by
  have poisoned (l : List Nat) : g (l.foldl (fun s l => s.memUncorrectable l (s.lineChannel l) port 0) (s.biasRead a len)) = g s :=
    (State.foldl_part (fun t _ => k.memUncorrectable t ..) l _).trans (k.biasRead ..)
  unfold State.engineRead
  split
  · rfl
  · split
    · rfl
    · dsimp only
      split
      · exact (k.readLine ..).trans (poisoned _)
      · exact poisoned _

end OutsideReads

/-! ### The cores and the inputs of the mezzanine encoders -/

theorem State.mzc_congr {s t : State} (h : t.mze.cores = s.mze.cores) (c : Nat) : t.mzc c = s.mzc c := by
  unfold State.mzc
  rw [h]

theorem State.mzt_congr {s t : State} (h : t.mze.tiles = s.mze.tiles) (n : Nat) : t.mzt n = s.mzt n := by
  unfold State.mzt
  rw [h]

/-- `t` has the mezzanine cores of `s`, the input and the open picture of tile `n`, the canvas and the time. -/
structure SameInputs (n : Nat) (s t : State) : Prop where
  cores : t.mze.cores = s.mze.cores
  inq : (t.mzt n).inq = (s.mzt n).inq
  pic : (t.mzt n).pic = (s.mzt n).pic
  cnv : t.cnv = s.cnv
  now : t.now = s.now

namespace SameInputs

variable {n : Nat} {a b c s t : State}

theorem of_parts (h : (t.mze, t.cnv, t.now) = (s.mze, s.cnv, s.now)) : SameInputs n s t := by
  simp only [Prod.mk.injEq] at h
  obtain ⟨hmze, hcnv, hnow⟩ := h
  have tile : t.mzt n = s.mzt n := State.mzt_congr (congrArg MzeSt.tiles hmze) n
  exact ⟨congrArg MzeSt.cores hmze, congrArg MzeTile.inq tile, congrArg MzeTile.pic tile, hcnv, hnow⟩

theorem refl (s : State) : SameInputs n s s := of_parts rfl

theorem trans (h : SameInputs n a b) (k : SameInputs n b c) : SameInputs n a c :=
  ⟨k.cores.trans h.cores, k.inq.trans h.inq, k.pic.trans h.pic, k.cnv.trans h.cnv, k.now.trans h.now⟩

theorem foldl {α : Type} {f : State → α → State} (h : ∀ t a, SameInputs n t (f t a)) (l : List α) (s : State) :
    SameInputs n s (l.foldl f s) :=
  List.foldlRecOn l f (.refl s) fun _ ht _ _ => ht.trans (h _ _)

theorem mzc (h : SameInputs n s t) (d : Nat) : t.mzc d = s.mzc d := State.mzc_congr h.cores d

theorem latch (s : State) (src : Src) (i : Nat) : SameInputs n s (s.latch src i) := of_parts (by simp)

theorem setFld (s : State) (f : Fld) (i v : Nat) : SameInputs n s (s.setFld f i v) := of_parts rfl

theorem event (s : State) (code source : Nat) (args : List Nat) : SameInputs n s (s.mzeEvent code source args) :=
  of_parts (by simp [State.mzeEvent])

theorem finishAll (s : State) (js : List Nat) (r : Nat) : SameInputs n s (s.finishAll js r) :=
  foldl (fun _ _ => of_parts (by simp)) js s

/-- A change of tile `n` that leaves its input and its open picture alone. -/
theorem setMzt (s : State) {x : MzeTile} (hinq : x.inq = (s.mzt n).inq) (hpic : x.pic = (s.mzt n).pic) :
    SameInputs n s (s.setMzt n x) :=
  ⟨rfl, (congrArg MzeTile.inq (s.mzt_setMzt n x)).trans hinq, (congrArg MzeTile.pic (s.mzt_setMzt n x)).trans hpic, rfl, rfl⟩

end SameInputs

theorem outsideReads_inputs : OutsideReads fun s => (s.mze, s.cnv, s.now) where
  latch s src i := by simp
  regs _ _ := rfl
  mem _ _ := rfl
  request _ _ := rfl

theorem sameInputs_takeInject {n : Nat} {s t : State} {src : Src} {i : Nat} (h : s.takeInject src i = some t) : SameInputs n s t :=
  .of_parts (outsideReads_inputs.takeInject h)

theorem sameInputs_check (n : Nat) (s : State) (src : Src) (i : Nat) : SameInputs n s (s.check src i) :=
  .of_parts (outsideReads_inputs.check ..)

/-! ### A tile's reference (R226, R227) -/

theorem sameInputs_refRead (n : Nat) (s : State) (x : MzeTile) (off len port : Nat) :
    SameInputs n s (s.refRead x off len port).2 :=
  List.foldlRecOn (motive := fun a : Option Bytes × State => SameInputs n s a.2) _ _ (.refl s) fun a ha (q : Nat × Nat) _ =>
    ha.trans (.of_parts (outsideReads_inputs.engineRead a.2 q.1 q.2 port))

theorem sameInputs_refRows (n : Nat) (s : State) (x : MzeTile) (w em j c : Nat) (need : Bool) :
    SameInputs n s (s.refRows x w em j c need).2 := by
  have read := sameInputs_refRead n s x (refOff w em j) (4 * w * em) (6 + c / 8)
  unfold State.refRows
  split
  · exact .refl s
  · split
    · exact (sameInputs_takeInject ‹_›).trans (.latch ..)
    · split
      · rename_i t ht
        rw [ht] at read
        exact read.trans (.latch ..)
      · rename_i t ht
        rw [ht] at read
        exact read

theorem sameInputs_refWrite (n : Nat) (s : State) (x : MzeTile) (off : Nat) (bs : Bytes) :
    SameInputs n s (s.refWrite x off bs) :=
  List.foldlRecOn (motive := fun a : State × Bytes => SameInputs n s a.1) _ _ (.refl s) fun _ ha _ _ =>
    ha.trans (.of_parts (by simp))

theorem sameInputs_putRp (s : State) (n j : Nat) (f : MzeRp → MzeRp) : SameInputs n s (s.putRp n j f) :=
  (SameInputs.setMzt (x := (s.mzt n).setRp j f) s rfl rfl).trans (sameInputs_refWrite ..)

/-- Where a tile's reference lies depends on its granules and on the base of the region only. -/
theorem State.refPieces_congr {s t : State} {x y : MzeTile} (hbase : t.fld Reg.MZE_REF_BASE = s.fld Reg.MZE_REF_BASE)
    (hruns : y.runs = x.runs) (fuel off len : Nat) : t.refPieces y fuel off len = s.refPieces x fuel off len := by
  induction fuel generalizing off len with
  | zero => rfl
  | succ fuel ih =>
    unfold State.refPieces
    simp only [hbase, hruns, ih]

/-- Bytes of a reference that lie in one granule, where no HDM decoder exposes device memory, are stored there at once. -/
theorem State.refWrite_onePiece {s : State} {x : MzeTile} {off a : Nat} {bs : Bytes}
    (hpiece : s.refPieces x 2 off bs.length = [(a, bs.length)]) (hhdm : s.hst.hdm = []) :
    s.refWrite x off bs = s.dramPut a bs := by
  unfold State.refWrite
  rw [hpiece]
  simp only [List.foldl_cons, List.foldl_nil, List.take_length]
  exact if_neg (by simp [hhdm])

end Sys2Proof.Machine
end

section
/-! PROOFS. A core takes a row pair, and the first one of a picture opens it (10_mezzanine_encoding.md R214 to R216, R225, R229,
R231, R232). -/

namespace Sys2Proof.Machine

/-- A picture opens in its tile for the row pair's frame, with the budget of R216 and the header's 16 bytes used. -/
theorem State.openTile_opens (s : State) (im e : Bytes) (rp : TileRp) :
    ∃ p : MzePic, (p.frame, p.used, p.budget, p.intraAll) = (rp.frame, 16, Img.budget im e, s.intraAll e rp.frame) ∧
      ((s.openTile im e rp).mzt (Tile.id e)).pic = some p := by
  unfold State.openTile
  extract_lets n x k all h2 points lin same rps runs q closed p y answered
  have put : (s.setMzt n y).mzt n = y := State.mzt_setMzt ..
  have opened : SameInputs n (s.setMzt n y) answered := .finishAll ..
  refine ⟨p, by simp only [p, k, all], ?_⟩
  split
  · exact opened.pic.trans (congrArg MzeTile.pic put)
  · exact (opened.trans (.latch ..)).pic.trans (congrArg MzeTile.pic put)

/-- Core `c` of `t` is busy with a row pair of picture `p`; the rest is as in `s`, in which the picture was open. -/
structure RowTaken (s t : State) (c : Nat) (rp : TileRp) (p : MzePic) : Prop where
  busy : (t.mzc c).busy = true
  tile : (t.mzc c).tile = rp.tile
  j : (t.mzc c).j = rp.j
  startedAt : (t.mzc c).startedAt = s.now
  intra : p.profile = 0 ∨ p.intraAll = true ∨ (s.mzt rp.tile).due p rp.j = true → (t.mzc c).intra = true
  others : ∀ d, d ≠ c → t.mzc d = s.mzc d
  inq : (t.mzt rp.tile).inq = (s.mzt rp.tile).inq
  pic : (t.mzt rp.tile).pic = some p

/-- `k` is a core's record of a row pair that it takes at `now`. -/
structure MzeCore.Takes (k : MzeCore) (now : Nat) (rp : TileRp) (fixed : Bool) : Prop where
  busy : k.busy = true
  tile : k.tile = rp.tile
  j : k.j = rp.j
  startedAt : k.startedAt = now
  intra : fixed = true → k.intra = true

/-- What is done for a core before its record is written leaves the inputs alone, and what is done after it the encoders. -/
theorem RowTaken.of_takes {s u t : State} {c : Nat} {rp : TileRp} {p : MzePic} {k : MzeCore} {fixed : Bool}
    (hu : SameInputs rp.tile s u) (ht : t.mze = (u.setMzc c k).mze) (hk : k.Takes u.now rp fixed)
    (hfixed : p.profile = 0 ∨ p.intraAll = true ∨ (s.mzt rp.tile).due p rp.j = true → fixed = true)
    (hp : (s.mzt rp.tile).pic = some p) : RowTaken s t c rp p := by
  have cores (d : Nat) : t.mzc d = (u.setMzc c k).mzc d := State.mzc_congr (congrArg MzeSt.cores ht) d
  have core : t.mzc c = k := (cores c).trans (State.mzc_setMzc ..)
  have tiles : t.mzt rp.tile = u.mzt rp.tile := (State.mzt_congr (congrArg MzeSt.tiles ht) _).trans rfl
  exact {
    busy := core ▸ hk.busy
    tile := core ▸ hk.tile
    j := core ▸ hk.j
    startedAt := core ▸ hk.startedAt.trans hu.now
    intra := fun h => core ▸ hk.intra (hfixed h)
    others := fun d hd => (cores d).trans ((State.mzc_setMzc_other u k (Ne.symm hd)).trans (hu.mzc d))
    inq := tiles ▸ hu.inq
    pic := tiles ▸ hu.pic.trans hp }

/-- A free core takes the row pair that R214 picks; `u` is the state in which the row pair's picture is open. -/
theorem State.rowStart_takes {s u : State} {c : Nat} {r : ReadyRow} {p : MzePic} (honline : s.mzeOnline c = true)
    (hidle : (s.mzc c).busy = false) (hcrit : s.pwr.critStop = false) (hesc : s.escOk 3 c = true) (htags : s.rowTags = s)
    (hwait : (Tab.get {} s.swc.ins c).wait = []) (hready : s.readyRow = some r)
    (hu : (if r.rp.j = 0 ∧ (s.mzt r.rp.tile).pic = none then s.openTile r.im r.e r.rp else s) = u)
    (hp : (u.mzt r.rp.tile).pic = some p) : RowTaken u (s.rowStart c) c r.rp p := by
  have free : ¬((!s.mzeOnline c) = true ∨ (s.mzc c).busy = true ∨ (Tab.get {} s.swc.ins c).wait ≠ [] ∨ s.pwr.critStop = true ∨
      (!s.escOk 3 c) = true) := by
    simp [honline, hidle, hcrit, hesc, hwait]
  unfold State.rowStart
  extract_lets now
  have tagged : now = s := htags
  clear_value now
  subst tagged
  rw [if_neg free, hready]
  dsimp -zeta only
  extract_lets rp e im t j opened x roll run
  have hopened : opened = u := hu
  clear_value opened
  subst hopened
  rw [hp]
  dsimp -zeta only
  extract_lets fixed next hurt marked core taken
  have same : SameInputs rp.tile opened marked := by
    unfold marked
    split
    · exact ((sameInputs_refRows ..).trans (sameInputs_refRows ..)).trans (sameInputs_putRp ..)
    · exact (sameInputs_refRows ..).trans (sameInputs_refRows ..)
  have due (h : p.profile = 0 ∨ p.intraAll = true ∨ (opened.mzt rp.tile).due p rp.j = true) : (fixed || hurt) = true := by
    rcases h with h | h | h
    · simp [fixed, h]
    · simp [fixed, h]
    · simp [fixed, x, t, j, h]
  have takes (w : State) (hw : w.mze = taken.mze) : RowTaken opened w c rp p := .of_takes same hw ⟨rfl, rfl, rfl, rfl, id⟩ due hp
  split
  · exact takes _ rfl
  · exact takes _ rfl

end Sys2Proof.Machine
end

section
/-! PROOFS. A coded row pair joins its picture and becomes the reference (10_mezzanine_encoding.md R220 to R226, R230, R231). -/

namespace Sys2Proof.Machine

/-- Cutting link frames takes coded bytes out of a picture, but none of its row pairs and none of its budget. -/
theorem MzePic.cutFrames_counts (t : Nat) (p : MzePic) (n : Nat) :
    (MzePic.cutFrames t p n).1.next = p.next ∧ (MzePic.cutFrames t p n).1.h2 = p.h2 ∧ (MzePic.cutFrames t p n).1.used = p.used := by
  induction n generalizing p with
  | zero => exact ⟨rfl, rfl, rfl⟩
  | succ n ih =>
    unfold MzePic.cutFrames
    dsimp only
    split
    · exact ⟨rfl, rfl, rfl⟩
    · exact ih _

/-! ### The end of a picture (R230) -/

theorem sameInputs_unsent (s : State) (n : Nat) (p : MzePic) (off : Nat) : SameInputs n s (s.unsent n p off) := by
  unfold State.unsent
  extract_lets lost sent remembered suspected y z counted
  have words : SameInputs n s suspected :=
    (SameInputs.foldl (fun _ _ => sameInputs_putRp ..) sent s).trans (.foldl (fun _ _ => sameInputs_putRp ..) lost remembered)
  have same : SameInputs n s counted := words.trans ((SameInputs.setMzt (x := z) suspected rfl rfl).trans (.setFld ..))
  clear_value lost
  split
  · exact same
  · exact same.trans (.event ..)

/-- A complete picture leaves its tile, and the tile's input stays. -/
theorem State.picDone_leaves (s : State) (n : Nat) (p : MzePic) :
    (s.picDone n p).mze.cores = s.mze.cores ∧ ((s.picDone n p).mzt n).inq = (s.mzt n).inq ∧ (s.picDone n p).cnv = s.cnv := by
  unfold State.picDone
  extract_lets x y shown raised
  have reported : SameInputs n shown raised := by
    unfold raised
    split
    · exact .event ..
    · exact .refl _
  have leaves {t : State} (h : SameInputs n shown t) :
      t.mze.cores = s.mze.cores ∧ (t.mzt n).inq = (s.mzt n).inq ∧ t.cnv = s.cnv :=
    ⟨h.cores, h.inq.trans ((congrArg MzeTile.inq (s.mzt_setMzt n y)).trans rfl), h.cnv⟩
  split
  · exact leaves (reported.trans (sameInputs_unsent ..))
  · exact leaves reported

/-! ### The stages of MZE_ROW_PAIR_DONE -/

/-- The reconstruction of a row pair goes to its tile's reference, whose record becomes `y`; floor mode is noted there. -/
def State.rowKept (s : State) (n : Nat) (y : MzeTile) (p : MzePic) (j : Nat) (rec : List (List Nat)) (floor : Bool) : State :=
  let s0 := (s.setMzt n y).refWrite y (refOff (8 * p.w8) p.emitters j) (rec.flatten.flatMap fun v => leBytes v 2)
  if floor then s0.putRp n j fun r => { r with floored := true } else s0

/-- The core is free again, the switch has its link frames, and the drive stage has its credit back. -/
def State.rowFreed (s : State) (c : Nat) (k : MzeCore) (ins : Tab SwIn) : State :=
  { s.setMzc c k with
    swc := { s.swc with ins := ins }
    cnv := { s.cnv with drvReturned := wrap 64 (s.cnv.drvReturned + 1), drvOut := wrap 64 (s.cnv.drvOut + 2 ^ 64 - 1) } }

theorem State.mzt_rowFreed (s : State) (c : Nat) (k : MzeCore) (ins : Tab SwIn) (n : Nat) : (s.rowFreed c k ins).mzt n = s.mzt n := rfl

theorem State.dramByte_rowFreed (s : State) (c : Nat) (k : MzeCore) (ins : Tab SwIn) (a : Nat) :
    (s.rowFreed c k ins).dramByte a = s.dramByte a :=
  State.dramByte_congr rfl rfl rfl rfl

/-- A row pair in floor mode is counted, and the core's memory checked. -/
def State.rowCounted (s : State) (c : Nat) (floor : Bool) : State :=
  (if floor then s.count Reg.MZE_FLOOR_RP else s).check .mzeSram (c / 8)

theorem sameInputs_rowKept (s : State) (n : Nat) (y : MzeTile) (p : MzePic) (j : Nat) (rec : List (List Nat)) (floor : Bool) :
    SameInputs n (s.setMzt n y) (s.rowKept n y p j rec floor) := by
  unfold State.rowKept
  dsimp only
  split
  · exact (sameInputs_refWrite ..).trans (sameInputs_putRp ..)
  · exact sameInputs_refWrite ..

theorem sameInputs_rowCounted (n : Nat) (s : State) (c : Nat) (floor : Bool) : SameInputs n s (s.rowCounted c floor) := by
  unfold State.rowCounted
  split
  · exact (SameInputs.setFld ..).trans (sameInputs_check ..)
  · exact sameInputs_check ..

/-- The core after its row pair. -/
def State.coreAfter (s : State) (c : Nat) : MzeCore :=
  let k := s.mzc c
  { k with
    busy := false, rps := wrap 32 (k.rps + 1), busyCycles := k.busyCycles + (s.now - k.startedAt) / Clk.cclk
    offline := k.offline || k.offlineReq }

/-- `q` is picture `p` with one more row pair, coded in `n` bytes. -/
structure MzePic.Joins (p q : MzePic) (n : Nat) : Prop where
  next : q.next = p.next + 1
  h2 : q.h2 = p.h2
  used : q.used = p.used + n

/-- The stages of MZE_ROW_PAIR_DONE while the picture goes on; `y` is the tile's record with the row pair gone from its input. -/
def State.rowCoded (s : State) (c : Nat) (y : MzeTile) (p : MzePic) (rp : TileRp) (ins : Tab SwIn) : State :=
  let coded := s.codeRow (s.mzc c) p rp
  ((s.rowKept (s.mzc c).tile y p rp.j coded.2.1 coded.2.2.1.isNone).rowFreed c (s.coreAfter c) ins).rowCounted c coded.2.2.1.isNone

/-- MZE_ROW_PAIR_DONE in its stages: with the last row pair the picture is complete. -/
theorem State.rowDone_stages {s : State} {c : Nat} {x : MzeTile} {p : MzePic} {rp : TileRp} {rest : List TileRp}
    (hbusy : (s.mzc c).busy = true) (hx : s.mzt (s.mzc c).tile = x) (hp : x.pic = some p) (hinq : x.inq = rp :: rest) :
    ∃ (q : MzePic) (ins : Tab SwIn), p.Joins q (s.codeRow (s.mzc c) p rp).1.length ∧
      s.rowDone c =
        let t := s.rowCoded c { x with inq := rest, pic := some q } p rp ins
        if q.next = q.h2 then t.picDone (s.mzc c).tile q else t := by
  unfold State.rowDone
  extract_lets k n y
  have hy : y = x := hx
  clear_value y
  subst hy
  rw [show k.busy = true from hbusy, hp, hinq]
  dsimp -zeta only
  extract_lets floor first joined headed
  obtain ⟨hnext, hh2, hused⟩ := MzePic.cutFrames_counts n headed (headed.bytes.length / 4096 + 2)
  have joins : p.Joins headed (s.codeRow k p rp).1.length := by
    unfold headed
    split
    · exact ⟨rfl, rfl, rfl⟩
    · exact ⟨rfl, rfl, rfl⟩
  exact ⟨_, _, ⟨hnext.trans joins.next, hh2.trans joins.h2, hused.trans joins.used⟩, rfl⟩

/-- The core is free, the tile's record is `y` as to its input and its picture, and the drive stage has its credit (R231). -/
theorem State.rowCoded_leaves (s : State) (c : Nat) (y : MzeTile) (p : MzePic) (rp : TileRp) (ins : Tab SwIn) :
    let t := s.rowCoded c y p rp ins
    t.mzc c = s.coreAfter c ∧ (t.mzt (s.mzc c).tile).inq = y.inq ∧ (t.mzt (s.mzc c).tile).pic = y.pic ∧
      t.cnv.drvReturned = wrap 64 (s.cnv.drvReturned + 1) := by
  unfold State.rowCoded
  extract_lets coded t
  have kept := sameInputs_rowKept s (s.mzc c).tile y p rp.j coded.2.1 coded.2.2.1.isNone
  have counted : SameInputs (s.mzc c).tile _ t := sameInputs_rowCounted ..
  have put : (s.setMzt (s.mzc c).tile y).mzt (s.mzc c).tile = y := State.mzt_setMzt ..
  refine ⟨(counted.mzc c).trans (State.mzc_setMzc ..), ?_, ?_, ?_⟩
  · rw [counted.inq, State.mzt_rowFreed, kept.inq, put]
  · rw [counted.pic, State.mzt_rowFreed, kept.pic, put]
  · exact (congrArg CnvSt.drvReturned counted.cnv).trans (congrArg (fun v : CnvSt => wrap 64 (v.drvReturned + 1)) kept.cnv)

/-- What MZE_ROW_PAIR_DONE leaves, and the state while row pairs of the picture remain. -/
theorem State.rowDone_leaves {s : State} {c : Nat} {x : MzeTile} {p : MzePic} {rp : TileRp} {rest : List TileRp}
    (hbusy : (s.mzc c).busy = true) (hx : s.mzt (s.mzc c).tile = x) (hp : x.pic = some p) (hinq : x.inq = rp :: rest) :
    (s.rowDone c).mzc c = s.coreAfter c ∧ ((s.rowDone c).mzt (s.mzc c).tile).inq = rest ∧
      (s.rowDone c).cnv.drvReturned = wrap 64 (s.cnv.drvReturned + 1) ∧
      (p.next + 1 ≠ p.h2 → ∃ (q : MzePic) (ins : Tab SwIn), p.Joins q (s.codeRow (s.mzc c) p rp).1.length ∧
        s.rowDone c = s.rowCoded c { x with inq := rest, pic := some q } p rp ins) := by
  obtain ⟨q, ins, joins, hdone⟩ := State.rowDone_stages hbusy hx hp hinq
  obtain ⟨hcore, hinput, -, hcredit⟩ := s.rowCoded_leaves c { x with inq := rest, pic := some q } p rp ins
  dsimp only at hdone
  rw [joins.next, joins.h2] at hdone
  by_cases hlast : p.next + 1 = p.h2
  · rw [if_pos hlast] at hdone
    obtain ⟨hcores, hqueue, hcnv⟩ := State.picDone_leaves (s.rowCoded c { x with inq := rest, pic := some q } p rp ins) (s.mzc c).tile q
    rw [hdone]
    exact ⟨(State.mzc_congr hcores c).trans hcore, hqueue.trans hinput, (congrArg CnvSt.drvReturned hcnv).trans hcredit,
      fun h => absurd hlast h⟩
  · rw [if_neg hlast] at hdone
    rw [hdone]
    exact ⟨hcore, hinput, hcredit, fun _ => ⟨q, ins, joins, rfl⟩⟩

/-! ### Device memory after a row pair (R226) -/

/-- A row pair that a candidate codes is not counted, and without an armed injection its check finds nothing (R372). -/
theorem State.rowCounted_disarmed {s : State} {c : Nat} (h : s.fld Reg.PG_ERR_INJECT_COUNT (pageOf Blk.mze (c / 8)) = 0) :
    s.rowCounted c false = s := by
  have unchecked : s.takeInject .mzeSram (c / 8) = none := State.takeInject_eq_none h
  unfold State.rowCounted State.check
  rw [if_neg (by decide), unchecked]

/-- A reconstruction that lies in one granule is stored there, and nothing else in device memory changes. -/
theorem State.rowCoded_stored {s : State} {c a : Nat} {y : MzeTile} {p : MzePic} {rp : TileRp} (ins : Tab SwIn) {bs : Bytes}
    (hdisarmed : s.fld Reg.PG_ERR_INJECT_COUNT (pageOf Blk.mze (c / 8)) = 0)
    (hbs : bs = (s.codeRow (s.mzc c) p rp).2.1.flatten.flatMap fun v => leBytes v 2)
    (hfits : (s.codeRow (s.mzc c) p rp).2.2.1 ≠ none) (hhdm : s.hst.hdm = []) (hwf : s.mem.dram.wf = true)
    (hpiece : s.refPieces y 2 (refOff (8 * p.w8) p.emitters rp.j) bs.length = [(a, bs.length)]) :
    Stored s (s.rowCoded c y p rp ins) a bs := by
  have nofloor : (s.codeRow (s.mzc c) p rp).2.2.1.isNone = false := Option.isNone_eq_false_iff.2 (Option.isSome_iff_ne_none.2 hfits)
  have written : s.rowKept (s.mzc c).tile y p rp.j (s.codeRow (s.mzc c) p rp).2.1 false = (s.setMzt (s.mzc c).tile y).dramPut a bs :=
    hbs ▸ State.refWrite_onePiece (s := s.setMzt (s.mzc c).tile y) (hbs ▸ (State.refPieces_congr rfl rfl ..).trans hpiece) hhdm
  have only := onlyDram_dramPut (s := s.setMzt (s.mzc c).tile y) hwf a bs
  generalize hu : (s.setMzt (s.mzc c).tile y).dramPut a bs = u at written only
  have coded : s.rowCoded c y p rp ins = u.rowFreed c (s.coreAfter c) ins := by
    unfold State.rowCoded
    dsimp only
    rw [nofloor, written]
    refine State.rowCounted_disarmed ((State.fld_congr ?_ ?_ _ _).trans hdisarmed)
    · rw [only]; rfl
    · rw [only]; rfl
  obtain ⟨hin, hout⟩ := stored_dramPut (s := s.setMzt (s.mzc c).tile y) hwf a bs
  rw [hu] at hin hout
  rw [coded]
  exact ⟨fun i hi => (State.dramByte_rowFreed ..).trans (hin i hi),
    fun z hz => (State.dramByte_rowFreed ..).trans ((hout z hz).trans (State.dramByte_congr rfl rfl rfl rfl))⟩

end Sys2Proof.Machine
end

section
/-! PROOFS. The row pairs of the mezzanine encoders, from the input to the reference (10_mezzanine_encoding.md R214 to R231). -/

namespace Sys2Proof.Machine

theorem State.rowEnd_disarmed {s : State} {c : Nat} (hbusy : (s.mzc c).busy = true)
    (h : s.fld Reg.PG_ERR_INJECT_COUNT (pageOf Blk.mze (c / 8)) = 0) : s.rowEnd c = s.rowDone c := by
  have unchecked : s.takeInject .mzeCore (c / 8) = none := State.takeInject_eq_none h
  unfold State.rowEnd
  rw [if_neg (by simp [hbusy]), unchecked]

/-- Settles O28: `rowStart_takes` for the start, with a picture open or opened by `openTile_opens`, and the stages of the end. -/
theorem mezzanineRowPairs : Obligations.MezzanineRowPairs := by
  intro s c hc hdisarmed
  refine ⟨fun r honline hidle hcrit hesc htags hwait hready hid => ⟨fun p hp => ?_, fun hnone hj _ => ?_⟩,
    fun x p rp rest hbusy hx hp hinq => ?_⟩
  · have taken := State.rowStart_takes honline hidle hcrit hesc htags hwait hready (if_neg (by simp [hp])) hp
    exact Runs.of_run (f := fun s => s.rowStart c) rfl hc rfl
      ⟨taken.busy, taken.tile, taken.j, taken.startedAt, taken.inq, taken.pic, taken.intra, taken.others⟩
  · obtain ⟨p, hfields, hopen⟩ := s.openTile_opens r.im r.e r.rp
    have taken := State.rowStart_takes honline hidle hcrit hesc htags hwait hready (if_pos ⟨hj, hnone⟩) (hid ▸ hopen)
    exact Runs.of_run (f := fun s => s.rowStart c) rfl hc rfl
      ⟨taken.busy, taken.tile, taken.j.trans hj, (congrArg (Option.map _) taken.pic).trans (congrArg some hfields)⟩
  · obtain ⟨hcore, hinput, hcredit, going⟩ := State.rowDone_leaves hbusy hx hp hinq
    refine Runs.of_run (f := fun s => s.rowEnd c) rfl hc (State.rowEnd_disarmed hbusy hdisarmed)
      ⟨congrArg MzeCore.busy hcore, congrArg MzeCore.rps hcore, hinput, fun a hfits hnext hhdm hwf hpiece => ?_, hcredit,
        fun hnext => ?_⟩
    · obtain ⟨q, ins, -, hdone⟩ := going hnext
      exact hdone ▸ State.rowCoded_stored ins hdisarmed rfl hfits hhdm hwf ((State.refPieces_congr rfl rfl ..).trans hpiece)
    · obtain ⟨q, ins, joins, hdone⟩ := going hnext
      obtain ⟨-, -, hpic, -⟩ := s.rowCoded_leaves c { x with inq := rest, pic := some q } p rp ins
      rw [hdone, hpic]
      exact congrArg some (Prod.ext joins.used joins.next)

end Sys2Proof.Machine
end

section
/-! PROOFS. TILE_REFRESH, the reset of a mezzanine core and the reference region (10_mezzanine_encoding.md R227, R232, R234). -/

namespace Sys2Proof.Machine

/-! ### TILE_REFRESH (R232) -/

/-- The tile that the TILE_REFRESH of a job names. -/
def State.refreshTile (s : State) (j : Nat) : Nat := bits (field (s.job j).args 8 2) 13 0

/-- A tile with one more TILE_REFRESH held for its next frame: for all row pairs, or for `n` of them from `first` on. -/
def MzeTile.holding (x : MzeTile) (j : Nat) (all : Bool) (first n : Nat) : MzeTile :=
  { x with
    refreshAll := x.refreshAll || all, refresh := if all then x.refresh else x.refresh ++ [(first, n)]
    refreshJobs := x.refreshJobs ++ [j] }

/-- The state in which the TILE_REFRESH of a job is held with its tile. -/
def State.refreshHeld (s : State) (j : Nat) : State :=
  let args := (s.job j).args
  (s.start j).setMzt (s.refreshTile j)
    ((s.mzt (s.refreshTile j)).holding j (bit (field args 10 1) 0) (field args 12 2) (field args 14 2))

theorem State.mzt_refreshHeld (s : State) (j : Nat) :
    (s.refreshHeld j).mzt (s.refreshTile j) = (s.mzt (s.refreshTile j)).holding j (bit (field (s.job j).args 10 1) 0)
      (field (s.job j).args 12 2) (field (s.job j).args 14 2) :=
  State.mzt_setMzt ..

theorem State.started_refreshHeld (s : State) (j : Nat) : ((s.refreshHeld j).job j).started = true :=
  congrArg Job.started (s.job_start j 0)

section
variable {s : State} {j : Nat} {im e : Bytes} (him : s.activeImg = some im) (he : Img.tile im (s.refreshTile j) = some e)
include him he

theorem State.tileRefresh_lit (hlit : s.lit e = true)
    (hrange : bit (field (s.job j).args 10 1) 0 = true ∨
      field (s.job j).args 14 2 ≠ 0 ∧ field (s.job j).args 12 2 + field (s.job j).args 14 2 ≤ Tile.rps e) :
    s.tileRefresh j = s.refreshHeld j := by
  have taken : ¬((!bit (field (s.job j).args 10 1) 0) = true ∧
      (field (s.job j).args 14 2 = 0 ∨ Tile.rps e < field (s.job j).args 12 2 + field (s.job j).args 14 2)) := by
    rintro ⟨hall, hbad⟩
    rcases hrange with h | ⟨hn, hfit⟩
    · simp [h] at hall
    · omega
  unfold State.refreshTile at he
  unfold State.tileRefresh
  dsimp only
  rw [him]
  dsimp only
  rw [he]
  dsimp only
  rw [if_neg taken, if_neg (by simp [hlit])]
  rfl

theorem State.tileRefresh_unlit (hlit : s.lit e = false) : ∃ status, s.tileRefresh j = s.finish j status := by
  unfold State.refreshTile at he
  unfold State.tileRefresh
  dsimp only
  rw [him]
  dsimp only
  rw [he]
  dsimp only
  split
  · exact ⟨_, rfl⟩
  · exact ⟨_, if_pos (by simp [hlit])⟩

end

theorem State.tileRefresh_absent {s : State} {j : Nat} (h : ∀ im, s.activeImg = some im → Img.tile im (s.refreshTile j) = none) :
    s.tileRefresh j = s.finish j St.state := by
  unfold State.refreshTile at h
  unfold State.tileRefresh
  dsimp only
  split
  · rfl
  · rw [h _ ‹_›]

/-- A TILE_REFRESH that ends at once holds nothing. -/
theorem State.finish_holdsNothing (s : State) (j status : Nat) :
    (s.finish j status).mze = s.mze ∧ Tab.has (s.finish j status).rng.jobs j = false :=
  ⟨State.finish_mze .., (s.finish_ends ..).1⟩

theorem Runs.of_tileRefresh {s t : State} {j : Nat} {P : State → Prop} (hc : s.pwr.clocksStopped = false)
    (hstart : s.canStart j 0x40 = true) (ht : s.tileRefresh j = t) (h : P t) : Runs (.tileRefresh j) s P :=
  Runs.of_run rfl hc ((if_pos hstart).trans ht) h

/-! ### The reset of a core (R234) -/

theorem State.mzeReset_offline {s : State} {c : Nat} (hoff : (s.mzc c).offline = true) (hidle : (s.mzc c).busy = false) :
    s.mzeReset c = (s.setMzc c { s.mzc c with faulted := false }).escAdopt 3 c :=
  if_pos ⟨hoff, by simp [hidle]⟩

theorem State.mzeReset_other {s : State} {c : Nat} (h : (s.mzc c).offline = false ∨ (s.mzc c).busy = true) : s.mzeReset c = s := by
  refine if_neg fun ⟨hoff, hidle⟩ => ?_
  rcases h with h | h
  · simp [h] at hoff
  · simp [h] at hidle

/-! ### The reference region (R227) -/

theorem State.mzeRegion_lit {s : State} (h : s.clb.activeValid = true) (reg v : Nat) : s.mzeRegion reg v = s.latch .mzeBusy :=
  if_pos h

theorem State.mzeRegion_unlit {s : State} (h : s.clb.activeValid = false) (reg v : Nat) :
    s.mzeRegion reg v =
      (if reg = 0 then s.setFld Reg.MZE_REF_BASE 0 (v % 2 ^ 24) else s.setFld Reg.MZE_REF_SIZE 0 (v % 2 ^ 24)).showRefFree :=
  if_neg (by simp [h])

/-- Showing the free granules writes one register field. -/
theorem State.fld_showRefFree (s : State) {f : Fld} (i : Nat) (hf : f.id < 1024) (h : f.id ≠ Reg.MZE_REF_FREE.id) :
    s.showRefFree.fld f i = s.fld f i :=
  State.fld_setFld_other s _ (Ne.symm h) (by decide) hf

/-- Settles O29: the branches of TILE_REFRESH, of the core's reset and of a write of the region's registers. -/
theorem mezzanineRefreshCoresAndRegion : Obligations.MezzanineRefreshCoresAndRegion := by
  intro s hc
  refine ⟨?_, ?_, ?_⟩
  · rintro j tile hstart rfl
    refine ⟨fun im e him he => ⟨fun hlit hall => ?_, fun hlit hall hn hfit => ?_, fun hlit => ?_⟩, fun habsent => ?_⟩
    · refine Runs.of_tileRefresh hc hstart (State.tileRefresh_lit him he hlit (.inl hall))
        ⟨(s.mzt_refreshHeld j).trans ?_, s.started_refreshHeld j⟩
      simp [MzeTile.holding, hall, State.refreshTile]
    · refine Runs.of_tileRefresh hc hstart (State.tileRefresh_lit him he hlit (.inr ⟨hn, hfit⟩))
        ⟨(s.mzt_refreshHeld j).trans ?_, s.started_refreshHeld j⟩
      simp [MzeTile.holding, hall, State.refreshTile]
    · obtain ⟨status, ht⟩ := State.tileRefresh_unlit him he hlit
      exact Runs.of_tileRefresh hc hstart ht (s.finish_holdsNothing j status)
    · exact Runs.of_tileRefresh hc hstart (State.tileRefresh_absent habsent) (s.finish_holdsNothing j _)
  · intro c _ hopen
    refine ⟨fun hoff hidle => ?_, fun hother => ?_⟩
    · exact Runs.of_regCmd rfl hc (by decide) hopen rfl (State.mzeReset_offline hoff hidle) ⟨State.mzc_setMzc .., rfl⟩
    · exact Runs.of_regCmd rfl hc (by decide) hopen rfl (State.mzeReset_other hother) rfl
  · intro v hopen hrsv
    refine ⟨fun hdark => ⟨?_, ?_⟩, fun reg hlit => ?_⟩
    · refine Runs.of_regCmd rfl hc (by decide) hopen hrsv (State.mzeRegion_unlit hdark 0 _) ⟨?_, ?_, rfl⟩
      · exact (State.fld_showRefFree _ 0 (by decide) (by decide)).trans ((State.fld_setFld ..).trans (Nat.mod_mod _ _))
      · exact (State.fld_showRefFree _ 0 (by decide) (by decide)).trans (State.fld_setFld_other _ _ (by decide) (by decide) (by decide))
    · refine Runs.of_regCmd rfl hc (by decide) hopen hrsv (State.mzeRegion_unlit hdark 1 _) ⟨?_, ?_, rfl⟩
      · exact (State.fld_showRefFree _ 0 (by decide) (by decide)).trans ((State.fld_setFld ..).trans (Nat.mod_mod _ _))
      · exact (State.fld_showRefFree _ 0 (by decide) (by decide)).trans (State.fld_setFld_other _ _ (by decide) (by decide) (by decide))
    · exact Runs.of_regCmd rfl hc (by decide) hopen hrsv (State.mzeRegion_lit hlit reg _)
        ⟨State.fld_latch _ _ _ (by decide) (by decide), State.fld_latch _ _ _ (by decide) (by decide),
          State.latched_latch _ _ _ (by decide), State.latch_mze ..⟩

end Sys2Proof.Machine
end

section
/-! PROOFS. A record changes the rings that take records of its class and event rings, and no other (03_rings_and_jobs.md R54, R58, R59,
R67). -/

namespace Sys2Proof.Machine

/-- Every ring of class `k` is in `t` as it is in `s`. -/
def SameOfClass (k : Nat) (s t : State) : Prop := ∀ r, (s.ring r).cls = k → t.ring r = s.ring r

theorem State.ring_congr {s t : State} (h : t.rng = s.rng) (r : Nat) : t.ring r = s.ring r := by
  unfold State.ring
  rw [h]

namespace SameOfClass

variable {k : Nat} {s t u : State}

theorem of_rng (h : t.rng = s.rng) : SameOfClass k s t := fun r _ => State.ring_congr h r

theorem trans (h : SameOfClass k s t) (l : SameOfClass k t u) : SameOfClass k s u := fun r hr =>
  (l r (by rw [h r hr]; exact hr)).trans (h r hr)

theorem setRing (s : State) {l : Nat} (h : (s.ring l).cls ≠ k) (x : Ring) : SameOfClass k s (s.setRing l x) := fun r hr =>
  State.ring_setRing_other s l x fun hl => h (by rw [hl]; exact hr)

end SameOfClass

/-- A record is taken or lost by the ring of its class that it names; else it changes nothing (R59). -/
theorem State.recordAt_rng (s : State) (r cls : Nat) (items : List (Nat → Bytes)) :
    (s.recordAt r cls items).rng = s.rng ∨ (s.ring r).cls = cls ∧ ∃ x, (s.recordAt r cls items).rng = (s.setRing r x).rng := by
  unfold State.recordAt
  dsimp only
  split
  · exact .inl rfl
  · refine .inr ⟨by omega, ?_⟩
    split
    · exact ⟨_, rfl⟩
    · have put : ∀ t : State, t.rng = s.rng → ∀ x : Ring, (t.setRing r x).rng = (s.setRing r x).rng := fun t ht x => by
        simp only [State.setRing, ht]
      refine ⟨_, put _ ?_ _⟩
      split
      · exact State.putCoherent_rng ..
      · exact State.putItems_rng ..

section
variable {k : Nat} (s : State)

theorem sameOfClass_recordAt (r : Nat) {cls : Nat} (hcls : cls ≠ k) (items : List (Nat → Bytes)) :
    SameOfClass k s (s.recordAt r cls items) := by
  rcases s.recordAt_rng r cls items with h | ⟨hr, x, h⟩
  · exact .of_rng h
  · exact (SameOfClass.setRing s (by rwa [hr]) x).trans (.of_rng h)

variable (hevent : 4 ≠ k)
include hevent

theorem sameOfClass_loseEvent (r : Nat) : SameOfClass k s (s.loseEvent r) := by
  unfold State.loseEvent
  split
  · exact .of_rng rfl
  · exact .setRing s (by omega) _

/-- A mismatch of the duplicate indices halts a ring of the record's class and is reported to an event ring (R67). -/
theorem sameOfClass_recordN (r : Nat) {cls : Nat} (hcls : cls ≠ k) (items : List (Nat → Bytes)) (n : Nat) :
    SameOfClass k s (s.recordN r cls items n) := by
  induction n generalizing s r cls items with
  | zero => exact sameOfClass_recordAt s r hcls items
  | succ n ih =>
    unfold State.recordN
    dsimp only
    split
    · exact sameOfClass_recordAt s r hcls items
    · split
      · exact sameOfClass_recordAt s r hcls items
      · rename_i htakes u hu
        have taken : SameOfClass k s u := .of_rng (s.takeInject_rng _ _ u hu)
        have named : (u.ring r).cls ≠ k := by
          rw [State.ring_congr (s.takeInject_rng _ _ u hu)]
          omega
        have halted := taken.trans (.setRing u named (s.ring r).halt)
        refine SameOfClass.trans (.trans ?_ (.of_rng (State.latch_rng ..))) (sameOfClass_recordAt _ r hcls items)
        split
        · exact halted.trans (ih _ _ hevent _)
        · exact halted.trans (sameOfClass_loseEvent _ hevent _)

theorem sameOfClass_eventTo (r : Nat) (en : Bool) (code blk source : Nat) (args : List Nat) :
    SameOfClass k s (s.eventTo r en code blk source args) := by
  unfold State.eventTo State.record
  split
  · exact sameOfClass_recordN s hevent r hevent _ _
  · exact sameOfClass_loseEvent s hevent r

end

end Sys2Proof.Machine
end

section
/-! PROOFS. Encode sessions open and close (11_monitor_and_relay_encoding.md R236 to R238, Table 11.2). -/

namespace Sys2Proof.Machine

/-! ### What reports and the ends of jobs leave of the sessions -/

theorem State.ses_congr {s t : State} (h : t.enc.sessions = s.enc.sessions) (e : Nat) : t.ses e = s.ses e := by
  unfold State.ses
  rw [h]

theorem State.encCore_congr {s t : State} (h : t.enc.cores = s.enc.cores) (c : Nat) : t.encCore c = s.encCore c := by
  unfold State.encCore
  rw [h]

@[simp] theorem State.ses_finish (s : State) (e j status r0 r1 r2 r3 : Nat) : (s.finish j status r0 r1 r2 r3).ses e = s.ses e :=
  State.ses_congr (congrArg EncSt.sessions (State.finish_enc ..)) e

@[simp] theorem State.encEvent_enc (s : State) (e code : Nat) (args : List Nat) : (s.encEvent e code args).enc = s.enc :=
  State.eventTo_enc ..

@[simp] theorem State.ses_encEvent (s : State) (e code : Nat) (args : List Nat) (f : Nat) : (s.encEvent e code args).ses f = s.ses f :=
  State.ses_congr (congrArg EncSt.sessions (State.encEvent_enc ..)) f

/-- A source stream's state reaches its session in two flags (R240). -/
theorem State.ses_encSource (s : State) (e st : Nat) :
    ∃ down key, (s.encSource e st).ses e = { s.ses e with sourceDown := down, needKey := key } := by
  unfold State.encSource
  dsimp only
  split
  · exact ⟨_, _, rfl⟩
  · split
    · split
      · exact ⟨_, _, State.ses_setSes ..⟩
      · exact ⟨_, _, rfl⟩
    · split
      · exact ⟨_, _, rfl⟩
      · exact ⟨_, _, (State.ses_encEvent ..).trans (State.ses_setSes ..)⟩

theorem State.ses_encSource_other (s : State) {e f : Nat} (h : f ≠ e) (st : Nat) : (s.encSource e st).ses f = s.ses f := by
  have other := fun x => s.ses_setSes_other x (Ne.symm h)
  unfold State.encSource
  dsimp only
  split
  · rfl
  · split
    · split
      · exact other _
      · rfl
    · split
      · rfl
      · exact (State.ses_encEvent ..).trans (other _)

/-! ### ENC_SESSION_OPEN (R236, R237) -/

/-- The checks of R236 on the arguments of an ENC_SESSION_OPEN of session `e`. -/
def State.encArgsOk (s : State) (j e : Nat) : Bool :=
  (encArgs (s.job j).args).formatOk && (encArgs (s.job j).args).sizeOk s.variant && (encArgs (s.job j).args).rateOk &&
    s.encSourceOk (encArgs (s.job j).args) && s.encRingsOk e (s.job j).tenant (encArgs (s.job j).args)

/-- The session that job `j` opens on cores `cs`, `per` Msample/s on each, with `g` granules. -/
def State.placedSession (s : State) (j load per g : Nat) (cs : List Nat) : EncSession :=
  let x := encArgs (s.job j).args
  { x with
    tenant := (s.job j).tenant, load := load, loads := cs.foldl (fun m c => Tab.set m c per) [], granules := g
    rateNum := (s.encRate x).1, rateDen := (s.encRate x).2
    taken := if x.isStream then (s.picsOf x.stream).filterMap fun p => if p.2.released ∧ p.2.decoded then some p.1 else none else [] }

theorem Tab.get_foldl_set {α : Type} (d v : α) {c : Nat} {cs : List Nat} (h : c ∈ cs) (t : Tab α) :
    Tab.get d (cs.foldl (fun m c => Tab.set m c v) t) c = v := by
  obtain ⟨as, bs, rfl⟩ := List.append_of_mem h
  rw [List.foldl_append, List.foldl_cons]
  refine List.foldlRecOn (motive := fun m => Tab.get d m c = v) _ _ (Tab.get_set_same ..) fun m hm b _ => ?_
  by_cases hb : b = c
  · rw [hb, Tab.get_set_same]
  · rw [Tab.get_set_other d m v hb, hm]

section
variable {s : State} {j e : Nat} (he : e = bits (field (s.job j).args 8 1) 4 0)
include he

theorem State.encOpen_notClosed (h : (s.ses e).state ≠ 0) : s.encOpen j = s.finish j St.state := by
  subst he
  exact if_pos h

theorem State.encOpen_badArg (hstate : (s.ses e).state = 0) (h : s.encArgsOk j e = false) : s.encOpen j = s.finish j St.badArg := by
  subst he
  exact (if_neg (not_not_intro hstate)).trans (if_pos ((Bool.not_eq_true' _).mpr h))

theorem State.encOpen_places (hstate : (s.ses e).state = 0) (hargs : s.encArgsOk j e = true) {cs : List Nat} {load per g : Nat}
    (hload : load = (encArgs (s.job j).args).loadOf (s.encRate (encArgs (s.job j).args)))
    (hper : per = (load + (encArgs (s.job j).args).nCores - 1) / (encArgs (s.job j).args).nCores)
    (hcs : cs = s.leastLoaded (encArgs (s.job j).args).nCores ((List.range s.variant.encCores).filter s.encOnline))
    (hg : g = 5 * gran (picPlain (encArgs (s.job j).args).outW (encArgs (s.job j).args).outH 1
      (if (encArgs (s.job j).args).depth = 10 then 2 else 1)))
    (hall : cs.length = (encArgs (s.job j).args).nCores) (hroom : ∀ c, c ∈ cs → s.encLoad c + per ≤ 500)
    (hfree : g ≤ s.encRegionFree) :
    s.encOpen j = ((s.setSes e (s.placedSession j load per g cs)).encSource e
      (s.stream (encArgs (s.job j).args).stream).state).finish j St.ok load g := by
  have placed : ¬ (cs.length < (encArgs (s.job j).args).nCores ∨ cs.any fun c => decide (500 < s.encLoad c + per)) := by
    simpa [hall] using hroom
  have reserved : ¬ s.encRegionFree < g := Nat.not_lt.2 hfree
  subst he hload hper hcs hg
  exact (if_neg (not_not_intro hstate)).trans ((if_neg (by simpa [State.encArgsOk] using hargs)).trans
    ((if_neg placed).trans (if_neg reserved)))

end

theorem Runs.of_encOpen {s t : State} {j : Nat} {P : State → Prop} (hc : s.pwr.clocksStopped = false)
    (hstart : s.canStart j 0x20 = true) (ht : s.encOpen j = t) (h : P t) : Runs (.encSessionOpen j) s P :=
  Runs.of_run rfl hc ((if_pos hstart).trans ht) h

/-! ### ENC_SESSION_CLOSE (R238) -/

theorem State.encEnd_closing {s : State} {e : Nat} (hstate : (s.ses e).state = 2) (hcoding : (s.ses e).coding = none) :
    s.encEnd e = (s.ses e).closeJobs.foldl (fun t j => t.finish j St.ok (s.ses e).pics) (s.setSes e {}) :=
  if_neg (by simp [hstate, hcoding])

theorem State.encEnd_of_coding {s : State} {e : Nat} (h : (s.ses e).coding ≠ none) : s.encEnd e = s :=
  if_pos (.inr (Option.isSome_iff_ne_none.2 h))

theorem State.encEnd_notClosing {s : State} {e : Nat} (h : (s.ses e).state ≠ 2) : s.encEnd e = s := if_pos (.inl h)

/-- A session that an ENC_SESSION_CLOSE of job `j` has reached: its waiting picture is dropped. -/
def EncSession.closing (x : EncSession) (j : Nat) : EncSession :=
  { x with state := 2, waiting := none, closeJobs := x.closeJobs ++ [j] }

/-- The job runs and the session is CLOSING. -/
def State.encClosing (s : State) (j e : Nat) : State := (s.start j).setSes e ((s.ses e).closing j)

theorem State.ses_encClosing (s : State) (j e : Nat) : (s.encClosing j e).ses e = (s.ses e).closing j := State.ses_setSes ..

theorem State.ses_encClosing_other (s : State) (j : Nat) {e f : Nat} (h : f ≠ e) : (s.encClosing j e).ses f = s.ses f :=
  (State.ses_setSes_other _ _ (Ne.symm h)).trans rfl

section
variable {s : State} {j e : Nat} (he : e = field (s.job j).args 8 1) (hstate : (s.ses e).state ≠ 0)
  (htenant : (s.ses e).tenant = (s.job j).tenant)
include he hstate htenant

theorem State.encClose_eq : s.encClose j = (s.encClosing j e).encEnd e := by
  subst he
  exact (if_neg hstate).trans (if_neg (not_not_intro htenant))

theorem State.encClose_idle (hcoding : (s.ses e).coding = none) :
    (s.encClose j).ses e = {} ∧ Tab.has (s.encClose j).rng.jobs j = false ∧ ∀ f, f ≠ e → (s.encClose j).ses f = s.ses f := by
  have closing := s.ses_encClosing j e
  have ended : s.encClose j = ((s.ses e).closeJobs.foldl (fun t i => t.finish i St.ok (s.ses e).pics)
      ((s.encClosing j e).setSes e {})).finish j St.ok (s.ses e).pics := by
    rw [State.encClose_eq he hstate htenant, State.encEnd_closing (by rw [closing]; rfl) (by rw [closing]; exact hcoding), closing]
    exact List.foldl_append ..
  have sessions : ∀ f, (s.encClose j).ses f = ((s.encClosing j e).setSes e {}).ses f := fun f => by
    rw [ended, State.ses_finish]
    exact State.foldl_part (g := (·.ses f)) (fun t i => t.ses_finish ..) _ _
  refine ⟨(sessions e).trans (State.ses_setSes ..), ?_, fun f hf => ?_⟩
  · rw [ended]
    exact (State.finish_ends ..).1
  · exact (sessions f).trans ((State.ses_setSes_other _ _ (Ne.symm hf)).trans (s.ses_encClosing_other j hf))

theorem State.encClose_coding (hcoding : (s.ses e).coding ≠ none) : s.encClose j = s.encClosing j e :=
  (State.encClose_eq he hstate htenant).trans (State.encEnd_of_coding (by rw [State.ses_encClosing]; exact hcoding))

end

/-- Settles O24: the branches of ENC_SESSION_OPEN, and a close with the picture coded or still in coding. -/
theorem encodeSessionsOpenAndClose : Obligations.EncodeSessionsOpenAndClose := by
  intro s j hc
  have refused : ∀ status, (s.finish j status).enc = s.enc ∧ Tab.has (s.finish j status).rng.jobs j = false :=
    fun status => ⟨State.finish_enc .., (State.finish_ends ..).1⟩
  refine ⟨fun e hstart he => ⟨fun hstate => ?_, fun hstate hargs => ?_, ?_⟩,
    fun e hstart he hstate htenant => ⟨fun hcoding => ?_, fun hcoding => ?_⟩⟩
  · exact Runs.of_encOpen hc hstart (State.encOpen_notClosed he hstate) (refused _)
  · exact Runs.of_encOpen hc hstart (State.encOpen_badArg he hstate hargs) (refused _)
  · intro cs load per g hstate hargs hload hper hcs hg hall hroom hfree
    refine Runs.of_encOpen hc hstart (State.encOpen_places he hstate hargs hload hper hcs hg hall hroom hfree) ?_
    obtain ⟨down, key, opened⟩ := (s.setSes e (s.placedSession j load per g cs)).ses_encSource e
      (s.stream (encArgs (s.job j).args).stream).state
    rw [State.ses_setSes] at opened
    simp only [State.ses_finish, opened]
    refine ⟨rfl, rfl, rfl, rfl, rfl, rfl, rfl, fun c hmem => Tab.get_foldl_set 0 per hmem [], fun f hf => ?_, (State.finish_ends ..).1⟩
    exact (State.ses_encSource_other _ hf _).trans (State.ses_setSes_other _ _ (Ne.symm hf))
  · exact Runs.of_run rfl hc (if_pos hstart) (State.encClose_idle he hstate htenant hcoding)
  · refine Runs.of_run rfl hc ((if_pos hstart).trans (State.encClose_coding he hstate htenant hcoding)) ?_
    rw [State.ses_encClosing]
    exact ⟨rfl, rfl, rfl, Tab.has_set_same .., fun f hf => s.ses_encClosing_other j hf⟩

end Sys2Proof.Machine
end

section
/-! PROOFS. Pictures of encode sessions, from the source to the output ring, the reset of a core and the region of the references
(11_monitor_and_relay_encoding.md R237, R240 to R246). -/

namespace Sys2Proof.Machine

/-! ### ENC_SOURCE_READY (R240, R241) -/

@[simp] theorem State.returnBands_enc (s : State) (n k : Nat) : (s.returnBands n k).enc = s.enc := by
  unfold State.returnBands
  dsimp only
  split <;> rfl

@[simp] theorem State.releaseWindowless_enc (s : State) : s.releaseWindowless.enc = s.enc :=
  (State.foldl_part (g := State.enc) (fun _ _ => State.returnBands_enc ..) _ _).trans rfl

/-- The session takes the next released picture and remembers which of the listed pictures it has taken. -/
theorem State.encReady_takes {s : State} {e n : Nat} {p : Picture} (hstate : (s.ses e).state = 1) (hstream : (s.ses e).isStream = true)
    (hrunning : (s.stream (s.ses e).stream).state = 2) (hnext : s.relayNext (s.ses e) = some (n, p)) :
    ∃ planes seen, (s.encReady e).ses e =
      { (s.ses e).offer ⟨s.frameCount, p.time, p.concealed, some n, planes⟩ with taken := seen } := by
  have takes : ¬ ((s.ses e).state ≠ 1 ∨ (!(s.ses e).isStream) = true) := by simp [hstate, hstream]
  unfold State.encReady
  dsimp only
  rw [if_neg takes, hnext]
  dsimp only
  rw [if_neg (not_not_intro hrunning)]
  exact ⟨_, _, (State.ses_congr (congrArg EncSt.sessions (State.releaseWindowless_enc _)) e).trans (State.ses_setSes ..)⟩

theorem EncSession.offer_skip (x : EncSession) (p : EncPic) :
    (x.offer p).skip = if x.waiting = none then x.skip else (x.skip + 1) % 4294967296 := by
  unfold EncSession.offer
  cases x.waiting <;> rfl

/-! ### ENC_PICTURE_START (R241, R242) -/

/-- A core begins the session's picture. -/
def State.takeCore (e : Nat) (s : State) (c : Nat) : State :=
  s.setEncCore c { s.encCore c with busy := true, session := e, startedAt := s.now }

/-- The session with picture `p` in coding. -/
def State.codingSession (s : State) (x : EncSession) (p : EncPic) : EncSession :=
  { x with waiting := none, coding := some p, codingKey := x.keyNext, needKey := false, hard := x.hardLimit
           rateNum := (s.encRate x).1, rateDen := (s.encRate x).2 }

theorem State.encStart_starts {s : State} {e : Nat} {p : EncPic} (hstate : (s.ses e).state = 1)
    (hsource : (s.ses e).isStream = true → (s.stream (s.ses e).stream).state = 2) (hcoding : (s.ses e).coding = none)
    (hwaiting : (s.ses e).waiting = some p) (hcores : (s.ses e).cores ≠ [])
    (hfree : ∀ c, c ∈ (s.ses e).cores → s.encOnline c = true ∧ (s.encCore c).busy = false ∧ s.escOk 2 c = true)
    (hhot : s.flag Reg.PWR_THROTTLE_HOT = false) (hcrit : s.pwr.critStop = false) :
    s.encStart e = (s.ses e).cores.foldl (State.takeCore e) (s.setSes e (s.codingSession (s.ses e) p)) := by
  have free : ((s.ses e).cores.all fun c => s.encOnline c && !(s.encCore c).busy && s.escOk 2 c) = true := by
    refine List.all_eq_true.2 fun c hmem => ?_
    obtain ⟨honline, hidle, hloaded⟩ := hfree c hmem
    simp [honline, hidle, hloaded]
  unfold State.encStart
  dsimp only
  rw [if_neg (by simpa [hstate, hcoding, free, hcores, hhot, hcrit] using hsource), hwaiting]
  rfl

theorem State.ses_takeCores (e : Nat) (cs : List Nat) (s : State) (f : Nat) : (cs.foldl (State.takeCore e) s).ses f = s.ses f :=
  State.foldl_part (f := State.takeCore e) (g := (·.ses f)) (fun _ _ => rfl) cs s

/-- Each core of the list is busy with the session from now on. -/
theorem State.encCore_takeCores (e : Nat) {cs : List Nat} {c : Nat} (hmem : c ∈ cs) (s : State) :
    ((cs.foldl (State.takeCore e) s).encCore c).busy = true ∧ ((cs.foldl (State.takeCore e) s).encCore c).session = e ∧
    ((cs.foldl (State.takeCore e) s).encCore c).startedAt = s.now := by
  have took : ∀ t : State, t.now = s.now → ((State.takeCore e t c).encCore c).busy = true ∧
      ((State.takeCore e t c).encCore c).session = e ∧ ((State.takeCore e t c).encCore c).startedAt = s.now := fun t ht => by
    unfold State.takeCore
    rw [State.encCore_setEncCore]
    exact ⟨rfl, rfl, ht⟩
  refine foldl_establishes (I := fun t => t.now = s.now)
    (P := fun t => (t.encCore c).busy = true ∧ (t.encCore c).session = e ∧ (t.encCore c).startedAt = s.now)
    hmem rfl (fun _ ht _ _ => ht) took fun t ht hc b _ => ?_
  by_cases hb : b = c
  · rw [hb]
    exact took t ht
  · rw [State.takeCore, State.encCore_setEncCore_other _ _ hb]
    exact hc

/-! ### ENC_PICTURE_DONE (R244, R245) -/

/-- A core is done with its picture; it goes OFFLINE then if it was asked to. -/
def State.freeCore (s : State) (c : Nat) : State :=
  s.setEncCore c { s.encCore c with
    busy := false, offline := (s.encCore c).offline || (s.encCore c).offlineReq
    busyCycles := (s.encCore c).busyCycles + (s.now - (s.encCore c).startedAt) / Clk.cclk }

theorem State.encFree_eq (s : State) (e : Nat) :
    s.encFree e = (s.enc.cores.filter fun c => c.2.busy && c.2.session == e).foldl (fun t c => t.freeCore c.1) s := rfl

/-- What a number reads other than the default is listed under it. -/
theorem Tab.mem_of_get_ne {α : Type} {d x : α} {t : Tab α} {k : Nat} (h : Tab.get d t k = x) (hx : x ≠ d) : (k, x) ∈ t := by
  induction t with
  | nil => exact absurd h.symm hx
  | cons y t ih =>
    obtain ⟨l, y⟩ := y
    unfold Tab.get at h
    split at h
    · rename_i hl
      rw [hl, h]
      exact List.mem_cons_self
    · exact List.mem_cons_of_mem _ (ih h)

theorem State.encCore_encFree {s : State} {c e : Nat} (hbusy : (s.encCore c).busy = true) (hsession : (s.encCore c).session = e) :
    ((s.encFree e).encCore c).busy = false := by
  have listed : (c, s.encCore c) ∈ s.enc.cores.filter fun c => c.2.busy && c.2.session == e := by
    refine List.mem_filter.2 ⟨Tab.mem_of_get_ne rfl fun hdefault => ?_, by simp [hbusy, hsession]⟩
    have idle : (s.encCore c).busy = false := congrArg EncCore.busy hdefault
    rw [hbusy] at idle
    cases idle
  have freed : ∀ t : State, ((t.freeCore c).encCore c).busy = false := fun t => by rw [State.freeCore, State.encCore_setEncCore]
  rw [State.encFree_eq]
  refine foldl_establishes (I := fun _ => True) (P := fun t => (t.encCore c).busy = false) listed trivial (fun _ _ _ _ => trivial)
    (fun t _ => freed t) fun t _ ht b _ => ?_
  by_cases hb : b.1 = c
  · rw [hb]
    exact freed t
  · rw [State.freeCore, State.encCore_setEncCore_other _ _ hb]
    exact ht

/-- The session's cores are free and their memories have been checked. -/
def State.coresDone (s : State) (e : Nat) : State := (s.ses e).cores.foldl (fun t c => t.check .encSram c) (s.encFree e)

theorem outsideReads_encAndRings : OutsideReads fun s => (s.enc, s.rng) where
  latch s src i := by simp
  regs _ _ := rfl
  mem _ _ := rfl
  request _ _ := rfl

theorem State.coresDone_parts (s : State) (e : Nat) :
    (s.coresDone e).enc = (s.encFree e).enc ∧ (s.coresDone e).enc.sessions = s.enc.sessions ∧ (s.coresDone e).rng = s.rng := by
  have checked : ((s.coresDone e).enc, (s.coresDone e).rng) = ((s.encFree e).enc, (s.encFree e).rng) :=
    State.foldl_part (g := fun t => (t.enc, t.rng)) (fun t c => outsideReads_encAndRings.check t .encSram c) _ _
  have freed : ((s.encFree e).enc.sessions, (s.encFree e).rng) = (s.enc.sessions, s.rng) :=
    State.foldl_part (g := fun t => (t.enc.sessions, t.rng)) (f := fun t (c : Nat × EncCore) => t.freeCore c.1) (fun _ _ => rfl) _ s
  simp only [Prod.mk.injEq] at checked freed
  exact ⟨checked.1, (congrArg EncSt.sessions checked.1).trans freed.1, checked.2.trans freed.2⟩

theorem State.pictureEnd_clean {s : State} {e : Nat} (h : ∀ c, c ∈ (s.ses e).cores → s.takeInject .encCore c = none)
    (cols : List EncCol) (qp : Nat) (low : List (List Nat)) : s.pictureEnd e cols qp low = s.encDone e cols qp low := by
  have clean : ((s.ses e).cores.find? fun c => (s.takeInject .encCore c).isSome) = none :=
    List.find?_eq_none.2 fun c hmem => by simp [h c hmem]
  unfold State.pictureEnd
  dsimp only
  rw [clean]
  cases (s.ses e).coding <;> rfl

/-- Bytes that the entries of a ring hold. -/
def Ring.room (x : Ring) : Nat := (x.pkts.map (·.len)).sum

theorem State.encDone_codes {s : State} {e n : Nat} {guard : Bool} {p : EncPic} {cols : List EncCol} {low : List (List Nat)}
    (hcoding : (s.ses e).coding = some p) (hcode : (s.ses e).codePicture cols low = (n, guard)) (qp : Nat) :
    s.encDone e cols qp low =
      (if (s.ring (s.ses e).outRing).room < n then (s.coresDone e).encNoBuf e n (s.ring (s.ses e).outRing).room
        else (s.coresDone e).encDeliver e p n (qp % 256) guard).encEnd e := by
  rw [← State.ring_congr (s.coresDone_parts e).2.2]
  unfold State.encDone
  dsimp only
  rw [hcoding, hcode]
  rfl

/-! ### A picture that the entries cannot hold (R245) -/

theorem State.encNoBuf_enc (s : State) (e bytes avail : Nat) :
    (s.encNoBuf e bytes avail).enc =
      (s.setSes e { s.ses e with coding := none, noBuf := wrap 32 ((s.ses e).noBuf + 1), needKey := true }).enc :=
  State.encEvent_enc ..

/-! ### A picture that they hold (R244) -/

theorem State.encFill_rng (tenant ctr : Nat) (ps : List Pkt) (s : State) (o n : Nat) : (s.encFill tenant ctr ps o n).rng = s.rng := by
  induction ps generalizing s o n with
  | nil => rfl
  | cons p ps ih => exact (ih ..).trans (State.spaceWrite_rng ..)

/-- The first `n` entries of an output ring are consumed. -/
def Ring.consume (x : Ring) (n : Nat) : Ring :=
  { x with ci := wrap 32 (x.ci + n), count := x.count - n, consumed := wrap 64 (x.consumed + n), pkts := x.pkts.drop n }

/-- The entries hold the picture's bytes and its record is written (R244). -/
def State.pictureWritten (s : State) (e : Nat) (p : EncPic) (bytes qp : Nat) (guard : Bool) : State :=
  let x := s.ses e
  let r := s.ring x.outRing
  let type := b2n x.codingKey + 2 * b2n guard + 4 * b2n p.concealed + 8 * b2n (x.delivered (8 * bytes)).overFull
  let filled := State.encFill { s with freeCtr := s.freeCtr + 1 } x.tenant s.freeCtr r.pkts 0 bytes
  filled.record x.outCq 2 [encRecord e (if x.mode = 2 ∧ !guard then x.qp else qp) bytes r.ci (entriesFor bytes r.pkts).1 type p.frame
    p.time (wrap 32 (x.pics + 1))]

/-- The session once its picture of `bytes` bytes is out. -/
def State.sessionAfter (s : State) (e bytes : Nat) (guard : Bool) : EncSession :=
  let x := s.ses e
  let y := x.delivered (8 * bytes)
  { y with
    coding := none, pics := wrap 32 (x.pics + 1), guard := wrap 32 (x.guard + b2n guard), overflow := wrap 32 (x.overflow + b2n y.overFull)
    head := some (s.encHead x), sinceKey := if x.codingKey then 1 else x.sinceKey + 1 }

/-- The picture is out: its entries are consumed and the session is ready for the next one. -/
def State.pictureOut (s : State) (e : Nat) (p : EncPic) (bytes qp : Nat) (guard : Bool) : State :=
  let r := (s.ses e).outRing
  let t := s.pictureWritten e p bytes qp guard
  (t.setRing r ((t.ring r).consume (entriesFor bytes (s.ring r).pkts).1)).setSes e (s.sessionAfter e bytes guard)

/-- An overfull bucket is reported after that (R242). -/
theorem State.encDeliver_eq (s : State) (e : Nat) (p : EncPic) (bytes qp : Nat) (guard : Bool) :
    ∃ args, s.encDeliver e p bytes qp guard =
      if ((s.ses e).delivered (8 * bytes)).overFull then (s.pictureOut e p bytes qp guard).encEvent e 0x0B03 args
      else s.pictureOut e p bytes qp guard :=
  ⟨_, rfl⟩

theorem sameOfClass_pictureWritten (s : State) (e : Nat) (p : EncPic) (bytes qp : Nat) (guard : Bool) :
    SameOfClass 3 s (s.pictureWritten e p bytes qp guard) := by
  have filled := State.encFill_rng (s.ses e).tenant s.freeCtr (s.ring (s.ses e).outRing).pkts { s with freeCtr := s.freeCtr + 1 } 0 bytes
  exact (SameOfClass.of_rng filled).trans (sameOfClass_recordN _ (by decide) _ (by decide) _ _)

section
variable {s : State} {e : Nat} (hcls : (s.ring (s.ses e).outRing).cls = 3) (p : EncPic) (bytes qp : Nat) (guard : Bool)
include hcls

theorem State.ring_pictureOut : (s.pictureOut e p bytes qp guard).ring (s.ses e).outRing =
    (s.ring (s.ses e).outRing).consume (entriesFor bytes (s.ring (s.ses e).outRing).pkts).1 := by
  have written := sameOfClass_pictureWritten s e p bytes qp guard (s.ses e).outRing hcls
  unfold State.pictureOut
  dsimp only
  rw [written]
  exact State.ring_setRing ..

theorem State.encDeliver_parts :
    (s.encDeliver e p bytes qp guard).ses e = s.sessionAfter e bytes guard ∧
    (s.encDeliver e p bytes qp guard).ring (s.ses e).outRing =
      (s.ring (s.ses e).outRing).consume (entriesFor bytes (s.ring (s.ses e).outRing).pkts).1 := by
  have session : (s.pictureOut e p bytes qp guard).ses e = s.sessionAfter e bytes guard := State.ses_setSes ..
  have ring := State.ring_pictureOut hcls p bytes qp guard
  obtain ⟨args, heq⟩ := s.encDeliver_eq e p bytes qp guard
  rw [heq]
  split
  · have reported := sameOfClass_eventTo (k := 3) (s.pictureOut e p bytes qp guard) (by decide)
    exact ⟨(State.ses_encEvent ..).trans session, (reported _ _ _ _ _ _ _ ((congrArg Ring.cls ring).trans hcls)).trans ring⟩
  · exact ⟨session, ring⟩

end

section
variable {s : State} {e n : Nat} {guard : Bool} {p : EncPic} {cols : List EncCol} {low : List (List Nat)}
  (hstate : (s.ses e).state = 1) (hcoding : (s.ses e).coding = some p) (hcode : (s.ses e).codePicture cols low = (n, guard))
include hstate hcoding hcode

theorem State.encDone_noBuf (hfull : (s.ring (s.ses e).outRing).room < n) (qp : Nat) :
    (s.encDone e cols qp low).ses e =
      { s.ses e with coding := none, noBuf := wrap 32 ((s.ses e).noBuf + 1), needKey := true } ∧
    ∀ c, (s.encCore c).busy = true → (s.encCore c).session = e → ((s.encDone e cols qp low).encCore c).busy = false := by
  obtain ⟨henc, hsessions, -⟩ := s.coresDone_parts e
  have dropped := (s.coresDone e).encNoBuf_enc e n (s.ring (s.ses e).outRing).room
  have session := (State.ses_congr (congrArg EncSt.sessions dropped) e).trans (State.ses_setSes ..)
  rw [State.ses_congr hsessions] at session
  rw [State.encDone_codes hcoding hcode, if_pos hfull,
    State.encEnd_notClosing (by rw [session]; exact fun h => absurd (hstate.symm.trans h) (by decide))]
  refine ⟨session, fun c hbusy hsession => ?_⟩
  rw [State.encCore_congr (congrArg EncSt.cores dropped) c]
  exact (congrArg EncCore.busy (State.encCore_congr (congrArg EncSt.cores henc) c)).trans (State.encCore_encFree hbusy hsession)

theorem State.encDone_delivers (hcls : (s.ring (s.ses e).outRing).cls = 3) (hfits : n ≤ (s.ring (s.ses e).outRing).room) (qp : Nat) :
    (s.encDone e cols qp low).ses e = (s.coresDone e).sessionAfter e n guard ∧
    (s.encDone e cols qp low).ring (s.ses e).outRing =
      (s.ring (s.ses e).outRing).consume (entriesFor n (s.ring (s.ses e).outRing).pkts).1 := by
  obtain ⟨-, hsessions, hrng⟩ := s.coresDone_parts e
  have same := State.ses_congr hsessions e
  have ring := State.ring_congr hrng (s.ses e).outRing
  have delivered := State.encDeliver_parts (s := s.coresDone e) (e := e) (by rwa [same, ring]) p n (qp % 256) guard
  have running : ((s.coresDone e).sessionAfter e n guard).state = 1 := (congrArg EncSession.state same).trans hstate
  rw [same, ring] at delivered
  rwa [State.encDone_codes hcoding hcode, if_neg (Nat.not_lt.2 hfits),
    State.encEnd_notClosing (by rw [delivered.1, running]; decide)]

end

/-! ### The reset of a core (R246) -/

theorem State.encReset_offline {s : State} {c : Nat} (hoff : (s.encCore c).offline = true) (hidle : (s.encCore c).busy = false) :
    s.encReset c = (s.setEncCore c { s.encCore c with faulted := false }).escAdopt 2 c :=
  if_pos ⟨hoff, by simp [hidle]⟩

theorem State.encReset_other {s : State} {c : Nat} (h : (s.encCore c).offline = false ∨ (s.encCore c).busy = true) :
    s.encReset c = s := by
  refine if_neg fun ⟨hoff, hidle⟩ => ?_
  rcases h with h | h
  · simp [h] at hoff
  · simp [h] at hidle

/-! ### The region (R237) -/

theorem State.encRegion_closed {s : State} (h : ∀ e x, (e, x) ∈ s.enc.sessions → x.state = 0) (reg v : Nat) :
    s.encRegion reg v = if reg = 0 then s.setFld Reg.ENC_REGION_BASE 0 v else s.setFld Reg.ENC_REGION_SIZE 0 v :=
  if_neg (by simpa using h)

theorem State.encRegion_open {s : State} {e : Nat} {x : EncSession} (hmem : (e, x) ∈ s.enc.sessions) (hx : x.state ≠ 0) (reg v : Nat) :
    s.encRegion reg v = s.latch .encBusy :=
  if_pos (List.any_eq_true.2 ⟨(e, x), hmem, by simpa using hx⟩)

theorem State.encRegionFree_setSize (s : State) {v : Nat} (hv : v < 2 ^ 24) :
    (s.setFld Reg.ENC_REGION_SIZE 0 v).encRegionFree = v - (s.enc.sessions.map (·.2.granules)).sum :=
  congrArg (· - _) ((State.fld_setFld ..).trans (Nat.mod_eq_of_lt hv))

/-- Settles O25: the equation of each command in the case that its clause names, read at the session, the cores, the output ring or the
registers. -/
theorem encodePicturesCoresAndRegion : Obligations.EncodePicturesCoresAndRegion := by
  refine ⟨fun s e hc hstate => ⟨?_, ?_, ?_⟩, fun s hc => ⟨fun c _ hopen => ⟨fun hoff hidle => ?_, fun hother => ?_⟩,
    fun v hopen hrsv => ⟨fun hclosed => ⟨?_, ?_⟩, fun reg e x hmem hx => ?_⟩⟩⟩
  · intro n p hstream hrunning hnext
    obtain ⟨planes, seen, taken⟩ := State.encReady_takes hstate hstream hrunning hnext
    refine Runs.of_run (f := (·.encReady e)) rfl hc rfl ?_
    rw [taken]
    exact ⟨rfl, EncSession.offer_skip _ ⟨s.frameCount, p.time, p.concealed, some n, planes⟩⟩
  · intro p hsource hcoding hwaiting hcores hfree hhot hcrit
    refine Runs.of_run (f := (·.encStart e)) rfl hc
      (State.encStart_starts hstate hsource hcoding hwaiting hcores hfree hhot hcrit) ?_
    rw [State.ses_takeCores, State.ses_setSes]
    exact ⟨rfl, rfl, rfl, rfl, fun c hmem => State.encCore_takeCores e hmem _⟩
  · intro p n qp guard cols low hcoding hcode hcls hclean
    refine ⟨fun hfull => ?_, fun hfits => ?_⟩
    · obtain ⟨session, cores⟩ := State.encDone_noBuf hstate hcoding hcode hfull qp
      refine Runs.of_run (f := (·.pictureEnd e cols qp low)) rfl hc (State.pictureEnd_clean hclean cols qp low) ?_
      rw [session]
      exact ⟨rfl, rfl, rfl, rfl, cores⟩
    · obtain ⟨session, ring⟩ := State.encDone_delivers hstate hcoding hcode hcls hfits qp
      refine Runs.of_run (f := (·.pictureEnd e cols qp low)) rfl hc (State.pictureEnd_clean hclean cols qp low) ?_
      rw [session, State.sessionAfter, State.ses_congr (s.coresDone_parts e).2.1, ring]
      exact ⟨rfl, rfl, rfl, rfl, rfl, rfl⟩
  · exact Runs.of_regCmd rfl hc (by decide) hopen rfl (State.encReset_offline hoff hidle)
      ⟨State.encCore_setEncCore .., rfl, fun d hd => State.encCore_setEncCore_other _ _ (Ne.symm hd)⟩
  · exact Runs.of_regCmd rfl hc (by decide) hopen rfl (State.encReset_other hother) rfl
  · exact Runs.of_regCmd rfl hc (by decide) hopen hrsv (State.encRegion_closed hclosed 0 _) rfl
  · exact Runs.of_regCmd rfl hc (by decide) hopen hrsv (State.encRegion_closed hclosed 1 _)
      ⟨rfl, s.encRegionFree_setSize (toNat_lt_of_upper_reserved hrsv)⟩
  · exact Runs.of_regCmd rfl hc (by decide) hopen hrsv (State.encRegion_open hmem hx reg _)
      ⟨State.fld_latch _ _ _ (by decide) (by decide), State.fld_latch _ _ _ (by decide) (by decide),
        State.latched_latch s .encBusy 0 (by decide), State.latch_enc ..⟩

end Sys2Proof.Machine
end

section
/-! PROOFS. The parts of the buffer pool: what each update of it leaves of the owners, the levels and the state words
(12_buffer_pool_and_switch.md R247 to R252). -/

namespace Sys2Proof.Machine

/-! ### Owners, levels and state words -/

@[simp] theorem State.own_setBuf (s : State) (b : Nat) (x : Buf) (o : Nat) : (s.setBuf b x).own o = s.own o := rfl

@[simp] theorem State.poolOf_setBuf (s : State) (b : Nat) (x : Buf) (i : Nat) : (s.setBuf b x).poolOf i = s.poolOf i := rfl

@[simp] theorem State.buf_setOwn (s : State) (o : Nat) (x : Owner) (b : Nat) : (s.setOwn o x).buf b = s.buf b := rfl

@[simp] theorem State.poolOf_setOwn (s : State) (o : Nat) (x : Owner) (i : Nat) : (s.setOwn o x).poolOf i = s.poolOf i := rfl

theorem State.setPool_bufs (s : State) (x : Nat) (p : Pool) : (s.setPool x p).pool.bufs = s.pool.bufs := by
  unfold State.setPool
  split <;> rfl

@[simp] theorem State.buf_setPool (s : State) (x : Nat) (p : Pool) (b : Nat) : (s.setPool x p).buf b = s.buf b :=
  congrArg (Tab.get ({} : Buf) · b) (s.setPool_bufs x p)

@[simp] theorem State.own_setPool (s : State) (x : Nat) (p : Pool) (o : Nat) : (s.setPool x p).own o = s.own o := by
  unfold State.setPool
  split <;> rfl

@[simp] theorem State.own_named (s : State) (o up down : Nat) :
    (s.named o up down).own o = { s.own o with named := (s.own o).named + up - down } := State.own_setOwn ..

theorem State.own_named_other (s : State) {o j : Nat} (up down : Nat) (h : o ≠ j) : (s.named o up down).own j = s.own j :=
  State.own_setOwn_other _ _ h

@[simp] theorem State.own_held (s : State) (o up down : Nat) :
    (s.held o up down).own o = { s.own o with held := (s.own o).held + up - down } := State.own_setOwn ..

@[simp] theorem State.buf_named (s : State) (o up down b : Nat) : (s.named o up down).buf b = s.buf b := rfl

@[simp] theorem State.poolOf_named (s : State) (o up down x : Nat) : (s.named o up down).poolOf x = s.poolOf x := rfl

@[simp] theorem State.buf_held (s : State) (o up down b : Nat) : (s.held o up down).buf b = s.buf b := rfl

@[simp] theorem State.poolOf_held (s : State) (o up down x : Nat) : (s.held o up down).poolOf x = s.poolOf x := rfl

/-! ### Data of the buffers (R247, R249) -/

/-- `t` has the owners, the levels and every state word of `s`: at most the data of buffers differ. -/
structure SamePool (s t : State) : Prop where
  owners : t.pool.own = s.pool.own
  odie : t.pool.odie = s.pool.odie
  dram : t.pool.dram = s.pool.dram
  buf : ∀ b, t.buf b = s.buf b

theorem SamePool.of_pool {s t : State} (h : t.pool = s.pool) : SamePool s t := by
  refine ⟨?_, ?_, ?_, fun b => ?_⟩ <;> simp [State.buf, h]

theorem SamePool.own {s t : State} (h : SamePool s t) (o : Nat) : t.own o = s.own o :=
  congrArg (Tab.get ({} : Owner) · o) h.owners

theorem SamePool.poolOf {s t : State} (h : SamePool s t) (x : Nat) : t.poolOf x = s.poolOf x := by
  unfold State.poolOf
  rw [h.odie, h.dram]

/-- A buffer that the table does not list is free, as the record put there says. -/
theorem State.get_set_free (s : State) {b : Nat} (h : Tab.has s.pool.bufs b = false) (c : Nat) :
    Tab.get {} (Tab.set s.pool.bufs b ({} : Buf)) c = s.buf c := by
  by_cases hc : b = c
  · rw [← hc, Tab.get_set_same]
    exact (Tab.get_of_not_has _ h).symm
  · exact Tab.get_set_other _ _ _ hc

theorem samePool_touchDram (s : State) (a len : Nat) : SamePool s (s.touchDram a len) := by
  have free : ∀ b ∈ s.untouched a len, s.buf b = {} := fun b hb =>
    Tab.get_of_not_has _ (by simpa using (List.mem_filter.1 hb).2)
  rw [State.touchDram_eq]
  refine List.foldlRecOn (motive := SamePool s) _ _ (.of_pool rfl) fun t ht b hb => ⟨ht.owners, ht.odie, ht.dram, fun c => ?_⟩
  by_cases hc : b = c
  · rw [← hc, free b hb]
    exact Tab.get_set_same ..
  · exact (Tab.get_set_other _ _ _ hc).trans (ht.buf c)

theorem samePool_bufWrite (s : State) (b off : Nat) (bs : Bytes) : SamePool s (s.bufWrite b off bs) := by
  unfold State.bufWrite
  split
  · exact ⟨rfl, rfl, rfl, fun _ => rfl⟩
  · obtain ⟨owners, odie, dram, buf⟩ := samePool_touchDram s (s.dramBuf b + off) bs.length
    exact ⟨owners, odie, dram, buf⟩

theorem samePool_thread (s : State) (b next : Nat) : SamePool s (s.thread b next) := samePool_bufWrite ..

theorem samePool_touch (s : State) (b : Nat) : SamePool s (s.touch b) := by
  unfold State.touch
  split
  · exact .of_pool rfl
  · rename_i hnew
    split
    · exact ⟨rfl, rfl, rfl, s.get_set_free (by simpa using hnew)⟩
    · exact samePool_touchDram ..

@[simp] theorem State.bufWrite_variant (s : State) (b off : Nat) (bs : Bytes) : (s.bufWrite b off bs).variant = s.variant := by
  unfold State.bufWrite
  split
  · rfl
  · exact State.dramPut_variant ..

@[simp] theorem State.bufWrite_regs (s : State) (b off : Nat) (bs : Bytes) : (s.bufWrite b off bs).regs = s.regs := by
  unfold State.bufWrite
  split
  · rfl
  · exact State.dramPut_regs ..

@[simp] theorem State.bufWrite_flt (s : State) (b off : Nat) (bs : Bytes) : (s.bufWrite b off bs).flt = s.flt := by
  unfold State.bufWrite
  split
  · rfl
  · exact State.dramPut_flt ..

@[simp] theorem State.touch_variant (s : State) (b : Nat) : (s.touch b).variant = s.variant := by
  unfold State.touch
  split
  · rfl
  · split
    · rfl
    · exact State.touchDram_variant ..

@[simp] theorem State.touch_regs (s : State) (b : Nat) : (s.touch b).regs = s.regs := by
  unfold State.touch
  split
  · rfl
  · split
    · rfl
    · exact State.touchDram_regs ..

/-! ### A buffer becomes free (R249) -/

@[simp] theorem State.pushFree_variant (s : State) (b : Nat) : (s.pushFree b).variant = s.variant := by
  simp [State.pushFree, State.thread]

@[simp] theorem State.pushFree_regs (s : State) (b : Nat) : (s.pushFree b).regs = s.regs := by
  simp [State.pushFree, State.thread]

@[simp] theorem State.pushFree_flt (s : State) (b : Nat) : (s.pushFree b).flt = s.flt := by
  simp [State.pushFree, State.thread]

@[simp] theorem State.buf_pushFree (s : State) (b : Nat) : (s.pushFree b).buf b = { st := 0, owner := (s.buf b).owner, shares := 0 } := by
  simp [State.pushFree, (samePool_thread ..).buf]

@[simp] theorem State.own_pushFree (s : State) (b o : Nat) : (s.pushFree b).own o = s.own o := by
  simp [State.pushFree, (samePool_thread ..).own]

@[simp] theorem State.poolOf_pushFree (s : State) (b : Nat) :
    (s.pushFree b).poolOf (bufPool b) = { s.poolOf (bufPool b) with head := b, free := (s.poolOf (bufPool b)).free + 1 } := by
  simp [State.pushFree, (samePool_thread ..).poolOf]

end Sys2Proof.Machine
end

section
/-! PROOFS. The order in which a cycle takes its pool commands: each one once (12_buffer_pool_and_switch.md R256). -/

namespace Sys2Proof.Machine

theorem flatMap_ite_singleton {α : Type} {l : List Nat} {k : Nat} (hl : l.Nodup) (hk : k ∈ l) (c : α) :
    (l.flatMap fun x => if k == x then [c] else []) = [c] := by
  induction l with
  | nil => cases hk
  | cons x l ih =>
    obtain ⟨hx, hnodup⟩ := List.nodup_cons.1 hl
    rw [List.flatMap_cons]
    by_cases hkx : k = x
    · have none_left : (l.flatMap fun y => if k == y then [c] else []) = [] :=
        List.flatMap_eq_nil_iff.2 fun y hy => if_neg (by simpa [hkx] using fun h : x = y => hx (h ▸ hy))
      rw [none_left, if_pos (by simpa using hkx), List.append_nil]
    · rw [if_neg (by simpa using hkx), List.nil_append]
      exact ih hnodup ((List.mem_cons.1 hk).resolve_left hkx)

/-- The elements of a list gathered by a key are those of the list. -/
theorem gathered_perm {α : Type} {l : List Nat} (hl : l.Nodup) (k : α → Nat) (cs : List α) (h : ∀ c ∈ cs, k c ∈ l) :
    (l.flatMap fun x => cs.filter fun c => k c == x).Perm cs := by
  induction cs with
  | nil => simp
  | cons c cs ih =>
    have split_off (x : Nat) : (c :: cs).filter (fun c => k c == x) = (if k c == x then [c] else []) ++ cs.filter fun c => k c == x := by
      rw [List.filter_cons]
      split <;> rfl
    have one := flatMap_ite_singleton hl (h c List.mem_cons_self) c
    have rest := ih fun d hd => h d (List.mem_cons_of_mem _ hd)
    simp only [split_off]
    refine (List.flatMap_append_perm ..).symm.trans ?_
    rw [one]
    exact rest.cons c

theorem roundRobin_perm (from_ : Nat) (cs : List PoolCall) : (roundRobin from_ cs).Perm cs := by
  have above : (fun c : PoolCall => decide (c.owner < from_)) = fun c => !decide (from_ ≤ c.owner) := by
    funext c
    rw [← decide_not]
    exact decide_eq_decide.2 Nat.not_le.symm
  unfold roundRobin
  rw [above]
  exact List.filter_append_perm ..

theorem State.allocOrder_perm (s : State) (cs : List PoolCall) : (s.allocOrder cs).Perm cs := by
  have pools (f : Nat → Nat) (l : List PoolCall) :
      ([0, 1].flatMap fun x => roundRobin (f x) (l.filter fun c => s.minPool c.owner == x)).Perm l := by
    refine (List.Perm.flatMap_left _ fun x _ => roundRobin_perm (f x) _).trans (gathered_perm (by decide) _ l fun c _ => ?_)
    unfold State.minPool
    split <;> decide
  exact ((pools ..).append (pools ..)).trans (List.filter_append_perm ..)

/-- The commands of a cycle by requester. -/
theorem byOwner_perm {cs : List PoolCall} (h : ∀ c ∈ cs, c.owner < 128) :
    ((List.range 128).flatMap fun o => cs.filter fun c => c.owner == o).Perm cs :=
  gathered_perm List.nodup_range _ cs fun c hc => List.mem_range.2 (h c hc)

/-- A command alone in its cycle. -/
theorem State.poolCycle_singleton (s : State) {c : PoolCall} (h : c.owner < 128) : s.poolCycle [c] = s.poolCall c := by
  have alone := List.perm_singleton.1 (byOwner_perm (cs := [c]) (by simpa using h))
  unfold State.poolCycle
  dsimp only
  rw [alone]
  by_cases hop : c.op = 1
  · simp [hop, List.perm_singleton.1 (s.allocOrder_perm [c])]
  · simp [hop, List.perm_nil.1 (s.allocOrder_perm [])]

/-- What a command of the cycle brings about, and no pool command takes away, holds at its end. -/
theorem State.poolCycle_establishes {P : State → Prop} {cs : List PoolCall} (hcs : ∀ c ∈ cs, c.owner < 128) {c : PoolCall} (hc : c ∈ cs)
    (hset : ∀ t : State, P (t.poolCall c)) (hkeep : ∀ (t : State) (d : PoolCall), P t → P (t.poolCall d)) (s : State) :
    P (s.poolCycle cs) := by
  have hmem := (byOwner_perm hcs).mem_iff.2 hc
  have run (l : List PoolCall) (hl : c ∈ l) (t : State) : P (l.foldl State.poolCall t) :=
    foldl_establishes (I := fun _ => True) hl trivial (fun _ _ _ _ => trivial) (fun t _ => hset t) fun t _ ht d _ => hkeep t d ht
  by_cases hop : c.op = 1
  · exact run _ ((s.allocOrder_perm _).mem_iff.2 (List.mem_filter.2 ⟨hmem, by simpa using hop⟩)) _
  · exact List.foldlRecOn (motive := P) _ _ (run _ (List.mem_filter.2 ⟨hmem, by simpa using hop⟩) s) fun t ht d _ => hkeep t d ht

end Sys2Proof.Machine
end

section
/-! PROOFS. The pool commands: what each changes, what a rejected one changes, and the answers of the command windows
(12_buffer_pool_and_switch.md R249 to R258). -/

namespace Sys2Proof.Machine

/-! ### A rejected command (R255) -/

/-- `t` is `s` after a command that Table 12.3 rejects. -/
structure Misused (s t : State) : Prop where
  pool : t.pool = s.pool
  count : t.fld Reg.BPM_MISUSE = (s.fld Reg.BPM_MISUSE + 1) % 4294967296
  latched : t.latched .bpmMisuse = true

theorem State.misused_misuse (s : State) (op st o b : Nat) : Misused s (s.misuse op st o b) := by
  refine ⟨State.latch_pool .., ?_, State.latched_latch _ .bpmMisuse 0 (by decide)⟩
  unfold State.misuse State.count
  rw [State.fld_latch _ _ _ (by decide) (by decide),
    State.fld_setFld_other (f := Reg.BPM_MISUSE_BUF) _ _ (by decide) (by decide) (by decide),
    State.fld_setFld_other (f := Reg.BPM_MISUSE_LAST_OWNER) _ _ (by decide) (by decide) (by decide),
    State.fld_setFld_other (f := Reg.BPM_MISUSE_LAST_STATUS) _ _ (by decide) (by decide) (by decide),
    State.fld_setFld_other (f := Reg.BPM_MISUSE_LAST_OP) _ _ (by decide) (by decide) (by decide), State.fld_setFld]
  rfl

theorem State.poolShare_rejected {s : State} {o b n h : Nat} (hbad : s.shareTest o b n h ≠ Pst.ok) : Misused s (s.poolShare o b n h).2 := by
  unfold State.poolShare
  split
  · contradiction
  · exact s.misused_misuse ..

theorem State.poolFree_rejected {s : State} {o b : Nat} (hbad : s.freeTest o b ≠ Pst.ok) : Misused s (s.poolFree o b).2 := by
  unfold State.poolFree
  split
  · contradiction
  · exact s.misused_misuse ..

/-! ### SHARE, RELEASE, FREE and HANDOVER (Table 12.2) -/

section
variable {s : State} {o b : Nat}

theorem State.poolShare_ok {n h : Nat} (hok : s.shareTest o b n h = Pst.ok) :
    (s.poolShare o b n h).2 = (s.setBuf b { s.buf b with shares := (s.buf b).shares + n }).held h n 0 := by
  unfold State.poolShare
  rw [hok]
  rfl

theorem State.poolRelease_ok (hok : s.releaseTest o b = Pst.ok) : (s.poolRelease o b).2 = (s.held o 0 1).dropShare b := by
  unfold State.poolRelease
  rw [hok]
  rfl

theorem State.dropShare_stays (h : (s.buf b).st = 1 ∨ 1 < (s.buf b).shares) :
    s.dropShare b = s.setBuf b { s.buf b with shares := (s.buf b).shares - 1 } :=
  if_neg (by omega)

theorem State.dropShare_last (hst : (s.buf b).st = 2) (hlast : (s.buf b).shares = 1) :
    s.dropShare b = (s.setPool (bufPool b)
      { s.poolOf (bufPool b) with pending := (s.poolOf (bufPool b)).pending - 1 }).pushFree b :=
  if_pos ⟨hst, hlast⟩

theorem State.poolFree_unshared (hok : s.freeTest o b = Pst.ok) (h : (s.buf b).shares = 0) :
    (s.poolFree o b).2 = ((s.named o 0 1).setPool (bufPool b)
      { s.poolOf (bufPool b) with alloc := (s.poolOf (bufPool b)).alloc - 1 }).pushFree b := by
  unfold State.poolFree
  rw [hok]
  exact congrArg Prod.snd (if_pos h)

theorem State.poolFree_shared (hok : s.freeTest o b = Pst.ok) (h : (s.buf b).shares ≠ 0) :
    (s.poolFree o b).2 = ((s.named o 0 1).setPool (bufPool b)
      { s.poolOf (bufPool b) with
        alloc := (s.poolOf (bufPool b)).alloc - 1, pending := (s.poolOf (bufPool b)).pending + 1 }).setBuf b { s.buf b with st := 2 } := by
  unfold State.poolFree
  rw [hok]
  exact congrArg Prod.snd (if_neg h)

theorem State.poolHandover_ok {new : Nat} (hok : s.handoverTest o b new = Pst.ok) :
    (s.poolHandover o b new).2 = ((s.setBuf b { s.buf b with owner := new }).named o 0 1).named new 1 0 := by
  unfold State.poolHandover
  rw [hok]
  rfl

end

/-! ### ALLOC (R249, R250, R257) -/

/-- The head of the on-die pool's list passes the checks of R250. -/
structure State.SoundHead (s : State) : Prop where
  disarmed : s.takeInject .bpmList = none
  own : (s.linkOf s.pool.odie.head).2 = true
  free : (s.buf s.pool.odie.head).st = 0
  lower : s.pool.odie.first ≤ s.pool.odie.head
  upper : s.pool.odie.head < s.pool.odie.first + s.pool.odie.total
  next : (s.linkOf s.pool.odie.head).1 = 4294967295 ∨ (s.pool.odie.first ≤ (s.linkOf s.pool.odie.head).1 ∧
    (s.linkOf s.pool.odie.head).1 < s.pool.odie.first + s.pool.odie.total)

theorem State.takeHead_sound {s : State} (h : s.SoundHead) :
    s.takeHead 0 = (some s.pool.odie.head, (s.touch s.pool.odie.head).setPool 0
      { s.pool.odie with head := (s.linkOf s.pool.odie.head).1, free := s.pool.odie.free - 1 }) := by
  obtain ⟨disarmed, own, free, lower, upper, next⟩ := h
  unfold State.takeHead
  dsimp only
  rw [disarmed]
  refine if_neg ?_
  have next' : ((decide (s.pool.odie.first ≤ (s.linkOf s.pool.odie.head).1) &&
      decide ((s.linkOf s.pool.odie.head).1 < s.pool.odie.first + s.pool.odie.total)) ||
      (s.linkOf s.pool.odie.head).1 == 4294967295) = true := by
    simpa [Or.comm] using next
  simp only [State.poolOf, if_pos, own, free, lower, upper, next']
  decide

/-- The levels and pointers of a pool after a grant (R256). -/
def Pool.granted (p : Pool) (o cycle : Nat) (below : Bool) : Pool :=
  let p := { p with alloc := p.alloc + 1, grantCycle := cycle, grants := if p.grantCycle = cycle then p.grants + 1 else 1 }
  if below then { p with rrMin := o + 1 } else { p with rrOther := o + 1 }

theorem Pool.granted_levels (p : Pool) (o cycle : Nat) (below : Bool) :
    (p.granted o cycle below).free = p.free ∧ (p.granted o cycle below).alloc = p.alloc + 1 ∧
      (p.granted o cycle below).head = p.head := by
  cases below <;> exact ⟨rfl, rfl, rfl⟩

theorem State.allocFrom_granted {s t : State} {o x b : Nat} (hok : s.allocTest o x = Pst.ok) (hhead : s.takeHead x = (some b, t)) :
    (s.allocFrom o x).2.2 = ((t.setPool x ((t.poolOf x).granted o (t.now / Clk.cclk)
      (decide (s.use o < s.fld Reg.BPM_MIN o)))).setBuf b ⟨1, o, 0⟩).named o 1 0 := by
  unfold State.allocFrom
  rw [hok]
  dsimp only
  rw [hhead]
  rfl

theorem State.allocFrom_denied {s : State} {o x : Nat} (h : s.allocTest o x ≠ Pst.ok) : (s.allocFrom o x).2.2 = s := by
  unfold State.allocFrom
  split
  · contradiction
  · rfl

theorem State.poolAlloc_odie {s : State} {o : Nat} (h : s.fld Reg.BPM_QUOTA_POOL o = 0) : s.poolAlloc o = s.allocFrom o 0 := by
  unfold State.poolAlloc
  rw [h]
  rfl

/-- A grant from the on-die pool takes the head of its list for the owner. -/
structure Granted (s t : State) (o : Nat) : Prop where
  buf : t.buf s.pool.odie.head = ⟨1, o, 0⟩
  named : (t.own o).named = (s.own o).named + 1
  held : (t.own o).held = (s.own o).held
  free : t.pool.odie.free = s.pool.odie.free - 1
  alloc : t.pool.odie.alloc = s.pool.odie.alloc + 1
  head : t.pool.odie.head = (s.linkOf s.pool.odie.head).1
  others : ∀ b, b ≠ s.pool.odie.head → t.buf b = s.buf b

theorem State.granted_allocFrom {s : State} {o : Nat} (hok : s.allocTest o 0 = Pst.ok) (hsound : s.SoundHead) :
    Granted s (s.allocFrom o 0).2.2 o := by
  have touched := samePool_touch s s.pool.odie.head
  rw [State.allocFrom_granted hok (State.takeHead_sound hsound)]
  generalize s.touch s.pool.odie.head = u at touched ⊢
  obtain ⟨free, alloc, head⟩ := Pool.granted_levels
    { s.pool.odie with head := (s.linkOf s.pool.odie.head).1, free := s.pool.odie.free - 1 } o
    ((u.setPool 0 _).now / Clk.cclk) (decide (s.use o < s.fld Reg.BPM_MIN o))
  exact {
    buf := State.buf_setBuf ..
    named := by simp [touched.own]
    held := by simp [touched.own]
    free, alloc, head
    others := fun b hb => by
      rw [State.buf_named, State.buf_setBuf_other _ _ (Ne.symm hb), State.buf_setPool, State.buf_setPool, touched.buf] }

/-! ### What a pool command leaves alone in the registers -/

/-- The register fields that a pool command writes itself. -/
def poolFields : List Fld :=
  [Reg.BPM_STATUS_REBUILD, Reg.BPM_MISUSE, Reg.BPM_MISUSE_LAST_OP, Reg.BPM_MISUSE_LAST_STATUS, Reg.BPM_MISUSE_LAST_OWNER,
    Reg.BPM_MISUSE_BUF]

/-- `P` speaks of the variant and the registers only, and outlasts a latch and a write of the fields of `poolFields`. -/
structure OutlastsPool (P : State → Prop) : Prop extends OutlastsLatch P where
  setFld : ∀ {s : State} {f : Fld} (v : Nat), f ∈ poolFields → P s → P (s.setFld f 0 v)

namespace OutlastsPool

variable {P : State → Prop} (k : OutlastsPool P) {s : State}
include k

theorem misuse (h : P s) (op st o b : Nat) : P (s.misuse op st o b) := by
  unfold State.misuse State.count
  exact k.latch _ _ (k.setFld _ (by decide) (k.setFld _ (by decide) (k.setFld _ (by decide) (k.setFld _ (by decide)
    (k.setFld _ (by decide) h)))))

theorem takeHead (h : P s) (x : Nat) : P (s.takeHead x).2 := by
  have rebuilding {u : State} (hu : P u) (p : Pool) : P (((u.setPool x p).setFld Reg.BPM_STATUS_REBUILD 0 1).latch .bpmList) :=
    k.latch _ _ (k.setFld _ (by decide) (k.regs (State.setPool_variant ..) (State.setPool_regs ..) hu))
  have taken {u : State} (hu : P u) (b : Nat) (p : Pool) : P ((u.touch b).setPool x p) :=
    k.regs ((State.setPool_variant ..).trans (u.touch_variant b)) ((State.setPool_regs ..).trans (u.touch_regs b)) hu
  unfold State.takeHead
  dsimp only
  split
  · split
    · exact rebuilding (k.takeInject h ‹_›) _
    · exact taken (k.takeInject h ‹_›) ..
  · split
    · exact rebuilding h _
    · exact taken h ..

theorem allocFrom (h : P s) (o x : Nat) : P (s.allocFrom o x).2.2 := by
  have head := k.takeHead h x
  unfold State.allocFrom
  split
  · dsimp only
    generalize s.takeHead x = r at head ⊢
    obtain ⟨_ | b, u⟩ := r
    · exact head
    · exact k.regs (State.setPool_variant u ..) (State.setPool_regs u ..) head
  · exact h

theorem poolAlloc (h : P s) (o : Nat) : P (s.poolAlloc o).2.2 := by
  have odie := k.allocFrom h o 0
  unfold State.poolAlloc
  split
  · exact k.allocFrom h o 1
  · generalize s.allocFrom o 0 = r at odie ⊢
    split
    · exact k.allocFrom odie o 1
    · exact odie
  · exact odie

theorem dropShare (h : P s) (b : Nat) : P (s.dropShare b) := by
  unfold State.dropShare
  dsimp only
  split
  · exact k.regs (by simp) (by simp) h
  · exact k.regs (s := s) rfl rfl h

theorem poolShare (h : P s) (o b n holder : Nat) : P (s.poolShare o b n holder).2 := by
  unfold State.poolShare
  split
  · exact k.regs (s := s) rfl rfl h
  · exact k.misuse h ..

theorem poolRelease (h : P s) (o b : Nat) : P (s.poolRelease o b).2 := by
  unfold State.poolRelease
  split
  · exact k.dropShare (s := s.held o 0 1) (k.regs (s := s) rfl rfl h) b
  · exact k.misuse h ..

theorem poolFree (h : P s) (o b : Nat) : P (s.poolFree o b).2 := by
  have counted (p : Pool) : P ((s.named o 0 1).setPool (bufPool b) p) :=
    k.regs (State.setPool_variant (s.named o 0 1) ..) (State.setPool_regs (s.named o 0 1) ..) (k.regs (s := s) rfl rfl h)
  unfold State.poolFree
  split
  · dsimp only
    split
    · exact k.regs (State.pushFree_variant ..) (State.pushFree_regs ..) (counted _)
    · exact k.regs (s := (s.named o 0 1).setPool (bufPool b) _) rfl rfl (counted _)
  · exact k.misuse h ..

theorem poolHandover (h : P s) (o b new : Nat) : P (s.poolHandover o b new).2 := by
  unfold State.poolHandover
  split
  · exact k.regs (s := s) rfl rfl h
  · exact k.misuse h ..

theorem poolCmd (h : P s) (o op b n other : Nat) : P (s.poolCmd o op b n other).2.2 := by
  unfold State.poolCmd
  split
  · exact k.poolAlloc h o
  · exact k.poolShare h ..
  · exact k.poolRelease h ..
  · exact k.poolFree h ..
  · exact k.poolHandover h ..
  · exact k.misuse h ..

end OutlastsPool

/-! ### Commands as they reach the pool (R256, R258) -/

theorem State.check_disarmed {s : State} {src : Src} {i : Nat} (h : s.fld Reg.PG_ERR_INJECT_COUNT (pageOf src.blk i) = 0) :
    s.check src i = s := by
  unfold State.check
  rw [State.takeInject_eq_none h]

theorem validOwner_lt {v : Variant} {o : Nat} (h : validOwner v o = true) : o < 128 := by
  have ports : v.ports ≤ 64 := by cases v <;> decide
  have regulators : v.regulators ≤ 16 := by cases v <;> decide
  simp only [validOwner, Bool.or_eq_true, Bool.and_eq_true, decide_eq_true_eq] at h
  omega

section
variable {s : State} (hpage : s.pageEnabled Blk.bpm 0 = true) (hdisarmed : s.fld Reg.PG_ERR_INJECT_COUNT (pageOf Blk.bpm 0) = 0)
include hpage hdisarmed

theorem State.poolReq_owner {o : Nat} (ho : validOwner s.variant o = true) (hidle : s.windowCalls = []) (op b n other : Nat) :
    s.poolReq (.owner o) op b n other = (s.poolCmd o op b n other).2.2 := by
  have unchecked : s.check .bpmSram = s := State.check_disarmed hdisarmed
  simp only [State.poolReq, hpage, unchecked, ho, hidle, Bool.not_true, Bool.false_eq_true, if_false, if_true]
  exact s.poolCycle_singleton (validOwner_lt ho)

theorem State.poolReq_window {w op : Nat} (hw : hasWindow s.variant w = true) (hwaits : s.flag Reg.BPM_RSP_DONE w = false)
    (hop : s.fld Reg.BPM_CMD_OP w = op) (b n other : Nat) : s.poolReq (.window w) op b n other = s.poolCycle s.windowCalls := by
  have unchecked : s.check .bpmSram = s := State.check_disarmed hdisarmed
  simp only [State.poolReq, hpage, unchecked, hw, hwaits, hop, Bool.not_true, Bool.not_false, Bool.false_eq_true, if_false,
    Bool.and_true, BEq.rfl, if_true]

end

/-! ### The answers of the windows (R258) -/

theorem hasWindow_lt {v : Variant} {w : Nat} (h : hasWindow v w = true) : w < 17 := by
  have regulators : v.regulators ≤ 16 := by cases v <;> decide
  simp only [hasWindow, Bool.or_eq_true, decide_eq_true_eq, beq_iff_eq] at h
  omega

theorem windowOwner_lt {w : Nat} (h : w < 17) : windowOwner w < 128 := by
  unfold windowOwner
  split <;> omega

theorem State.owner_lt_of_mem_windowCalls {s : State} {c : PoolCall} (h : c ∈ s.windowCalls) : c.owner < 128 := by
  obtain ⟨w, hw, rfl⟩ := List.mem_map.1 h
  exact windowOwner_lt (List.mem_range.1 (List.mem_filter.1 hw).1)

theorem State.mem_windowCalls {s : State} {w : Nat} (hw : hasWindow s.variant w = true) (hwaits : s.flag Reg.BPM_RSP_DONE w = false) :
    { owner := windowOwner w, op := s.fld Reg.BPM_CMD_OP w, window := some w } ∈ s.windowCalls :=
  List.mem_map.2 ⟨w, List.mem_filter.2 ⟨List.mem_range.2 (hasWindow_lt hw), by simp [hw, hwaits]⟩, rfl⟩

/-- The window holds an answer. -/
def Answered (w : Nat) (s : State) : Prop := s.flag Reg.BPM_RSP_DONE w = true

theorem answered_setFld {s : State} {w : Nat} {f : Fld} (i v : Nat) (h : Answered w s) (hl : f.id < 1024 := by decide)
    (hf : f.id ≠ Reg.BPM_RSP_DONE.id := by decide) : Answered w (s.setFld f i v) :=
  (congrArg (· != 0) (State.fld_setFld_other s v hf hl (by decide))).trans h

theorem outlastsPool_answered (w : Nat) : OutlastsPool (Answered w) where
  regs hv hr h := (congrArg (· != 0) (State.fld_congr hv hr ..)).trans h
  inject _ _ h := answered_setFld _ _ h
  latch src i h := (congrArg (· != 0) (State.fld_latch _ src i (by decide) (by decide))).trans h
  setFld v hf h :=
    have apart : ∀ f ∈ poolFields, f.id < 1024 ∧ f.id ≠ Reg.BPM_RSP_DONE.id := by decide
    answered_setFld 0 v h (apart _ hf).1 (apart _ hf).2

theorem answered_windowRun (s : State) (w : Nat) : Answered w (s.windowRun w) :=
  congrArg (· != 0) (State.fld_setFld _ Reg.BPM_RSP_DONE w 1)

theorem answered_windowRun_of_answered {s : State} {w : Nat} (h : Answered w s) (v : Nat) : Answered w (s.windowRun v) := by
  by_cases hv : v = w
  · exact hv ▸ answered_windowRun s v
  · refine (congrArg (· != 0) (State.fld_setFld_index _ _ _ hv)).trans ?_
    exact answered_setFld (f := Reg.BPM_RSP_STATUS) _ _
      (answered_setFld (f := Reg.BPM_RSP_BUF) _ _ ((outlastsPool_answered w).poolCmd h ..))

theorem answered_poolCall {s : State} {w : Nat} (h : Answered w s) (c : PoolCall) : Answered w (s.poolCall c) := by
  unfold State.poolCall
  split
  · exact answered_windowRun_of_answered h _
  · exact (outlastsPool_answered w).poolCmd h ..

theorem answered_poolCycle {s : State} {w : Nat} (hw : hasWindow s.variant w = true) (hwaits : s.flag Reg.BPM_RSP_DONE w = false) :
    Answered w (s.poolCycle s.windowCalls) :=
  State.poolCycle_establishes (fun _ => State.owner_lt_of_mem_windowCalls) (State.mem_windowCalls hw hwaits)
    (fun t => answered_windowRun t w) (fun _ d ht => answered_poolCall ht d) s

/-! ### The commands -/

section
variable {s : State} (hc : s.pwr.clocksStopped = false) (hpage : s.pageEnabled Blk.bpm 0 = true)
  (hdisarmed : s.fld Reg.PG_ERR_INJECT_COUNT (pageOf Blk.bpm 0) = 0)
include hc hpage hdisarmed

/-- A command of an owner, while no window's command waits. -/
theorem Runs.of_ownerCmd {c : Instr} {o op b n other : Nat} {t : State} {P : State → Prop}
    (hexec : exec c s = s.run fun s => s.poolReq (.owner o) op b n other) (ho : validOwner s.variant o = true)
    (hidle : s.windowCalls = []) (ht : (s.poolCmd o op b n other).2.2 = t) (h : P t) : Runs c s P :=
  Runs.of_run hexec hc ((State.poolReq_owner hpage hdisarmed ho hidle ..).trans ht) h

/-- The command that waits in a window. -/
theorem Runs.of_windowCmd {c : Instr} {w op b n other : Nat} (hexec : exec c s = s.run fun s => s.poolReq (.window w) op b n other)
    (hw : hasWindow s.variant w = true) (hwaits : s.flag Reg.BPM_RSP_DONE w = false) (hop : s.fld Reg.BPM_CMD_OP w = op) :
    Runs c s fun t => t.flag Reg.BPM_RSP_DONE w = true :=
  Runs.of_run hexec hc (State.poolReq_window hpage hdisarmed hw hwaits hop ..) (answered_poolCycle hw hwaits)

end

/-- Settles O30: the pool's update for each command that its check admits, the count of misuse for one that it rejects, and the answer
of a window whose command is of the cycle. -/
theorem poolCommands : Obligations.PoolCommands := by
  intro s hc hpage hdisarmed
  refine ⟨fun o ho hidle => ⟨fun hpool => ⟨?_, ?_⟩, fun b n h => ⟨?_, ?_, ?_, ?_, ?_, ?_, ?_, ?_⟩⟩,
    fun w b n h hw hwaits => ⟨?_, ?_, ?_, ?_, ?_⟩⟩
  · intro hok own free lower upper next
    obtain ⟨buf, named, held, pfree, alloc, head, others⟩ :=
      State.granted_allocFrom hok ⟨State.takeInject_eq_none hdisarmed, own, free, lower, upper, next⟩
    exact Runs.of_ownerCmd hc hpage hdisarmed (op := 1) rfl ho hidle (congrArg (·.2.2) (State.poolAlloc_odie hpool))
      ⟨buf, named, held, pfree, alloc, head, others⟩
  · intro hno
    exact Runs.of_ownerCmd hc hpage hdisarmed (op := 1) rfl ho hidle
      ((congrArg (·.2.2) (State.poolAlloc_odie hpool)).trans (State.allocFrom_denied hno)) rfl
  · intro hok
    exact Runs.of_ownerCmd hc hpage hdisarmed (op := 2) rfl ho hidle (State.poolShare_ok hok) (by simp)
  · intro hbad
    obtain ⟨pool, count, latched⟩ := State.poolShare_rejected hbad
    exact Runs.of_ownerCmd hc hpage hdisarmed (op := 2) rfl ho hidle rfl ⟨pool, count, latched⟩
  · intro hok _ hstays
    exact Runs.of_ownerCmd hc hpage hdisarmed (op := 3) rfl ho hidle
      ((State.poolRelease_ok hok).trans (State.dropShare_stays hstays)) (by simp)
  · intro hok hst hlast
    exact Runs.of_ownerCmd hc hpage hdisarmed (op := 3) rfl ho hidle
      ((State.poolRelease_ok hok).trans (State.dropShare_last hst hlast)) (by simp)
  · intro hok hshares
    exact Runs.of_ownerCmd hc hpage hdisarmed (op := 4) rfl ho hidle (State.poolFree_unshared hok hshares) (by simp)
  · intro hok hshares
    exact Runs.of_ownerCmd hc hpage hdisarmed (op := 4) rfl ho hidle (State.poolFree_shared hok hshares) (by simp)
  · intro hbad
    obtain ⟨pool, count, latched⟩ := State.poolFree_rejected hbad
    exact Runs.of_ownerCmd hc hpage hdisarmed (op := 4) rfl ho hidle rfl ⟨pool, count, latched⟩
  · intro hok hne
    exact Runs.of_ownerCmd hc hpage hdisarmed (op := 5) rfl ho hidle (State.poolHandover_ok hok)
      (by simp [State.own_named_other _ _ _ hne, State.own_named_other _ _ _ (Ne.symm hne)])
  all_goals exact Runs.of_windowCmd hc hpage hdisarmed rfl hw hwaits

end Sys2Proof.Machine
end

section
/-! PROOFS. The registers of the buffer pool, the rebuild of a list and BPM_FORCE (12_buffer_pool_and_switch.md R248, R250 to R253, R259). -/

namespace Sys2Proof.Machine

/-! ### BPM_DPOOL_BASE and BPM_DPOOL_COUNT (R248) -/

/-- The state after a write of the DRAM pool's registers that R248 admits. -/
def State.dpoolPlaced (s : State) (base n : Nat) : State :=
  let s := (s.setFld Reg.BPM_DPOOL_BASE 0 base).setFld Reg.BPM_DPOOL_COUNT 0 n
  let s := { s with pool := { s.pool with
    bufs := s.pool.bufs.filter fun e => decide (e.1 < 196608)
    dram := { s.pool.dram with total := n, free := n, rebuilding := false, head := if n = 0 then 0xFFFFFFFF else 196608 } } }
  (s.setFld Reg.BPM_STATUS_DPOOL_READY 0 (b2n (n == 0))).setFld Reg.BPM_STATUS_REBUILD 0 (b2n s.pool.odie.rebuilding)

section
variable {s : State} (halloc : s.pool.dram.alloc = 0) (hpending : s.pool.dram.pending = 0)
include halloc hpending

theorem State.dpoolConfig_base {v : Nat} (hmul : s.fld Reg.BPM_DPOOL_COUNT % 256 = 0) (hmax : s.fld Reg.BPM_DPOOL_COUNT ≤ 16777216)
    (hregion : s.inPrivate (v % 2 ^ 24 * 65536) (s.fld Reg.BPM_DPOOL_COUNT * 264) = true) :
    s.dpoolConfig 0 v = s.dpoolPlaced (v % 2 ^ 24) (s.fld Reg.BPM_DPOOL_COUNT) := by
  refine if_neg ?_
  rintro (h | h | h | h | h)
  · exact h halloc
  · exact h hpending
  · exact h hmul
  · exact Nat.not_lt.2 hmax h
  · rw [if_pos rfl, if_pos rfl, hregion] at h
    cases h

theorem State.dpoolConfig_count {v : Nat} (hmul : v % 2 ^ 25 % 256 = 0) (hmax : v % 2 ^ 25 ≤ 16777216)
    (hregion : s.inPrivate (s.fld Reg.BPM_DPOOL_BASE * 65536) (v % 2 ^ 25 * 264) = true) :
    s.dpoolConfig 1 v = s.dpoolPlaced (s.fld Reg.BPM_DPOOL_BASE) (v % 2 ^ 25) := by
  refine if_neg ?_
  rintro (h | h | h | h | h)
  · exact h halloc
  · exact h hpending
  · exact h hmul
  · exact Nat.not_lt.2 hmax h
  · rw [if_neg Nat.one_ne_zero, if_neg Nat.one_ne_zero, hregion] at h
    cases h

end

theorem State.dpoolConfig_inUse {s : State} (h : s.pool.dram.alloc ≠ 0 ∨ s.pool.dram.pending ≠ 0) (reg v : Nat) :
    s.dpoolConfig reg v = s.latch .bpmCfg :=
  if_pos (h.imp_right .inl)

theorem State.fld_dpoolPlaced (s : State) (base n : Nat) {f : Fld} (hl : f.id < 1024) (hready : f.id ≠ Reg.BPM_STATUS_DPOOL_READY.id)
    (hrebuild : f.id ≠ Reg.BPM_STATUS_REBUILD.id) :
    (s.dpoolPlaced base n).fld f = ((s.setFld Reg.BPM_DPOOL_BASE 0 base).setFld Reg.BPM_DPOOL_COUNT 0 n).fld f := by
  unfold State.dpoolPlaced
  dsimp only
  rw [State.fld_setFld_other (f := Reg.BPM_STATUS_REBUILD) _ _ (Ne.symm hrebuild) (by decide) hl,
    State.fld_setFld_other (f := Reg.BPM_STATUS_DPOOL_READY) _ _ (Ne.symm hready) (by decide) hl]
  exact State.fld_congr rfl rfl f 0

theorem State.base_dpoolPlaced (s : State) (base n : Nat) : (s.dpoolPlaced base n).fld Reg.BPM_DPOOL_BASE = base % 2 ^ 24 := by
  rw [State.fld_dpoolPlaced _ _ _ (by decide) (by decide) (by decide),
    State.fld_setFld_other _ _ (by decide) (by decide) (by decide), State.fld_setFld]
  rfl

theorem State.count_dpoolPlaced (s : State) (base n : Nat) : (s.dpoolPlaced base n).fld Reg.BPM_DPOOL_COUNT = n % 2 ^ 25 := by
  rw [State.fld_dpoolPlaced _ _ _ (by decide) (by decide) (by decide), State.fld_setFld]
  rfl

theorem Tab.get_filter {α : Type} (d : α) (p : Nat → Bool) (t : Tab α) {k : Nat} (h : p k = true) :
    Tab.get d (t.filter fun e => p e.1) k = Tab.get d t k := by
  induction t with
  | nil => rfl
  | cons e t ih =>
    obtain ⟨j, x⟩ := e
    by_cases hj : j = k
    · subst hj
      simp [Tab.get, h]
    · by_cases hp : p j = true <;> simp [Tab.get, hp, hj, ih]

/-- The state words of the on-die pool stay. -/
theorem State.buf_dpoolPlaced (s : State) (base n : Nat) {b : Nat} (hb : b < 196608) : (s.dpoolPlaced base n).buf b = s.buf b :=
  Tab.get_filter _ (fun k => decide (k < 196608)) s.pool.bufs (by simpa using hb)

/-! ### BPM_QUOTAo and BPM_MINo (R251 to R253) -/

theorem validOwner_c648 {v : Variant} {o : Nat} (h : validOwner v o = true) : validOwner .c648 o = true := by
  have ports : v.ports ≤ Variant.c648.ports := by cases v <;> decide
  have regulators : v.regulators ≤ Variant.c648.regulators := by cases v <;> decide
  simp only [validOwner, Bool.or_eq_true, Bool.and_eq_true, decide_eq_true_eq] at h ⊢
  omega

theorem State.quotaWrite_valid {s : State} {o : Nat} (h : validOwner s.variant o = true) (v : Nat) :
    s.quotaWrite o v = (s.setFld Reg.BPM_QUOTA_QUOTA o (bits v 24 0)).setFld Reg.BPM_QUOTA_POOL o (bits v 26 25) := by
  unfold State.quotaWrite
  rw [if_neg (Nat.not_le.2 (validOwner_lt h)), if_neg (by simp [validOwner_c648 h]), if_neg (by simp [h])]

/-- A minimum that does not grow is taken, whatever the others of its pool sum up to. -/
theorem State.minWrite_lowered {s : State} {o v : Nat} (h : validOwner s.variant o = true) (hmin : ¬(o = 3 ∨ o = 4 ∨ 64 ≤ o))
    (hle : bits v 24 0 ≤ s.fld Reg.BPM_MIN o) : s.minWrite o v = s.setFld Reg.BPM_MIN o (bits v 24 0) := by
  unfold State.minWrite
  dsimp only
  rw [if_neg (Nat.not_le.2 (validOwner_lt h)), if_neg (by simp [validOwner_c648 h]), if_neg (by simp [h]), if_neg hmin,
    if_neg fun grows => Nat.not_lt.2 hle grows.1]

theorem bits_low_25 (v : Nat) : bits v 24 0 = v % 33554432 := by simp [bits]

/-! ### The rebuild of a list (R250) -/

/-- The list of pool `x` counts as free what the state words say. -/
theorem State.poolOf_rebuild (s : State) (x : Nat) :
    ((s.rebuild x).poolOf x).rebuilding = false ∧ ((s.rebuild x).poolOf x).total = (s.poolOf x).total ∧
      ((s.rebuild x).poolOf x).free = (s.poolOf x).total -
        ((s.pool.bufs.filter fun e => bufPool e.1 == x).filter fun e => e.2.st != 0).length := by
  simp [State.rebuild]

theorem State.listRebuilt_poolOf {s : State} {x : Nat} (hx : x < 2) (h : (s.poolOf x).rebuilding = true) (y : Nat) :
    (s.listRebuilt x).poolOf y = (s.rebuild x).poolOf y := by
  unfold State.listRebuilt
  rw [if_neg (by simp [h, hx])]
  rfl

/-! ### BPM_FORCE (R259) -/

/-- The count anew sets owners and levels only. -/
theorem State.recount_part {β : Type} {g : State → β} (hown : ∀ t o x, g (t.setOwn o x) = g t) (hpool : ∀ t x p, g (t.setPool x p) = g t)
    (s : State) : g s.recount = g s :=
  (State.foldl_part (fun t x => hpool t x _) _ _).trans (State.foldl_part (fun t o => hown t o _) _ _)

theorem State.recount_bufs (s : State) : s.recount.pool.bufs = s.pool.bufs :=
  State.recount_part (g := (·.pool.bufs)) (fun _ _ _ => rfl) State.setPool_bufs s

theorem State.recount_flt (s : State) : s.recount.flt = s.flt :=
  State.recount_part (fun _ _ _ => rfl) State.setPool_flt s

@[simp] theorem State.buf_recount (s : State) (b : Nat) : s.recount.buf b = s.buf b :=
  congrArg (Tab.get ({} : Buf) · b) s.recount_bufs

/-- An owner of the variant has as many named buffers as the state words name it. -/
theorem State.named_recount {s : State} {o : Nat} (ho : validOwner s.variant o = true) :
    (s.recount.own o).named = (s.recount.pool.bufs.filter fun e => e.2.st == 1 && e.2.owner == o).length := by
  have listed : o ∈ ownersOf s.variant := List.mem_filter.2 ⟨List.mem_range.2 (validOwner_lt ho), ho⟩
  rw [State.recount_bufs]
  refine (congrArg Owner.named (State.foldl_part (g := (·.own o)) (fun t x => t.own_setPool x _ o) _ _)).trans ?_
  refine foldl_establishes (I := fun _ => True)
    (P := fun t => (t.own o).named = (s.pool.bufs.filter fun e => e.2.st == 1 && e.2.owner == o).length)
    listed trivial (fun _ _ _ _ => trivial) (fun t _ => ?_) fun t _ ht p _ => ?_
  · rw [State.own_setOwn]
  · by_cases hp : p = o
    · subst hp
      rw [State.own_setOwn]
    · rw [State.own_setOwn_other _ _ hp]
      exact ht

/-- The promise is void (R22, R259). -/
def State.voided (s : State) : State := { s with flt := { s.flt with promiseVoid := true } }

section
variable {s : State} {v : Nat} (hgo : bit v 0 = true) (hbuf : s.bufOk (s.fld Reg.BPM_FORCE_BUF) = true)
include hgo hbuf

theorem State.force_free (haction : bit v 1 = false) (hst : (s.buf (s.fld Reg.BPM_FORCE_BUF)).st ≠ 0) :
    s.force v = (s.voided.pushFree (s.fld Reg.BPM_FORCE_BUF)).recount := by
  unfold State.force
  dsimp only
  rw [if_neg (by simp [hgo]), if_neg (by simp [hbuf, haction]), if_neg (by simp [haction])]
  exact congrArg State.recount (if_neg hst)

theorem State.force_owner (haction : bit v 1 = true) (ho : validOwner s.variant (bits v 14 8) = true) :
    s.force v = (s.voided.setBuf (s.fld Reg.BPM_FORCE_BUF) ⟨1, bits v 14 8, 0⟩).recount := by
  unfold State.force
  dsimp only
  rw [if_neg (by simp [hgo]), if_neg (by simp [hbuf, ho]), if_pos haction]
  rfl

end

/-- Settles O31: the branches of each register write, the rebuilt list, and the forced state words counted anew. -/
theorem poolConfigurationAndForce : Obligations.PoolConfigurationAndForce := by
  intro s hc hopen
  refine ⟨fun v => ⟨?_, ?_, ?_⟩, ?_, fun o v ho => ⟨?_, ?_⟩, ?_, fun v hrsv hgo hbuf => ⟨?_, ?_⟩⟩
  · intro hrsv halloc hpending hmul hmax hregion
    exact Runs.of_regCmd rfl hc (by decide) hopen hrsv (State.dpoolConfig_base halloc hpending hmul hmax hregion)
      ⟨(s.base_dpoolPlaced ..).trans (Nat.mod_mod _ _), rfl, rfl, rfl⟩
  · intro hrsv halloc hpending hmul hmax hregion
    exact Runs.of_regCmd rfl hc (by decide) hopen hrsv (State.dpoolConfig_count halloc hpending hmul hmax hregion)
      ⟨(s.count_dpoolPlaced ..).trans (Nat.mod_mod _ _), rfl, rfl, fun b hb => s.buf_dpoolPlaced _ _ hb⟩
  · intro reg hrsv hused
    exact Runs.of_regCmd rfl hc (by decide) hopen hrsv (State.dpoolConfig_inUse hused reg _)
      ⟨State.latch_pool .., State.latched_latch s .bpmCfg 0 (by decide)⟩
  · exact Runs.of_run (f := (·.setFld Reg.BPM_STATUS_DPOOL_READY 0 1)) rfl hc rfl rfl
  · intro hrsv
    refine Runs.of_regCmd rfl hc (by decide) hopen hrsv (State.quotaWrite_valid ho _) ⟨?_, ?_, rfl⟩
    · rw [State.fld_setFld_other _ _ (by decide) (by decide) (by decide), State.fld_setFld, bits_low_25]
      exact Nat.mod_mod _ _
    · rw [State.fld_setFld]
      exact Nat.mod_mod _ _
  · intro hrsv hle h3 h4 h64
    have lowered := State.minWrite_lowered ho (by omega) (hle.trans' (bits_low_25 v.toNat).le)
    exact Runs.of_regCmd rfl hc (by decide) hopen hrsv lowered (by rw [bits_low_25])
  · intro x hx hrebuilding
    refine Runs.of_run (f := fun s => s.listRebuilt x) rfl hc rfl ?_
    rw [State.listRebuilt_poolOf hx hrebuilding]
    exact s.poolOf_rebuild x
  · intro haction hst
    refine Runs.of_regCmd rfl hc (by decide) hopen hrsv (State.force_free hgo hbuf haction hst) ⟨by simp, ?_⟩
    rw [State.recount_flt, State.pushFree_flt]
    rfl
  · intro haction ho
    refine Runs.of_regCmd rfl hc (by decide) hopen hrsv (State.force_owner hgo hbuf haction ho) ⟨?_, ?_, ?_⟩
    · exact (State.buf_recount ..).trans (State.buf_setBuf ..)
    · rw [State.recount_flt]
      rfl
    · exact State.named_recount ho

end Sys2Proof.Machine
end

section
/-! PROOFS. The shapers of a port: what fills, cuts and forgives a balance, and the register writes that do so
(13_beats_and_scheduling.md R282, R283). -/

namespace Sys2Proof.Machine

/-! ### One shaper (R282, R283) -/

theorem Shaper.fill_disabled {q : Shaper} (h : q.enable = false) (now : Nat) : q.fill now = q :=
  if_pos (by simp [h])

theorem Shaper.fill_rate (q : Shaper) (now : Nat) : (q.fill now).rate = q.rate := by
  unfold Shaper.fill
  dsimp only
  split
  · rfl
  · split <;> rfl

theorem Shaper.setRate_disabled {q : Shaper} (h : q.enable = false) (now v : Nat) :
    q.setRate now v = { q with rate := v % 16777216 } := by
  unfold Shaper.setRate
  rw [Shaper.fill_disabled h]
  rfl

section
variable {q : Shaper} (h : q.enable = true) (now : Nat)
include h

/-- An enabled shaper fills at its rate, no further than its burst (R282). -/
theorem Shaper.fill_enabled : (q.fill now).last = now ∧
    (q.fill now).bal = min (q.bal + ((q.rate * (now - q.last) : Nat) : Int)) ((q.burst * 9600000 : Nat) : Int) := by
  unfold Shaper.fill
  dsimp only
  rw [if_neg (by simp [h]), kt]
  split
  · exact ⟨rfl, by dsimp only; omega⟩
  · exact ⟨rfl, by dsimp only; omega⟩

theorem Shaper.turnOff_enabled : q.turnOff now = { q.fill now with enable := false } := if_pos h

end

/-- A BURST write cuts what stands above the new burst (R283). -/
theorem Shaper.setBurst_parts (q : Shaper) (now v : Nat) : (q.setBurst now v).burst = v % 16777216 ∧
    (q.setBurst now v).bal = min (q.fill now).bal ((v % 16777216 * 9600000 : Nat) : Int) := by
  unfold Shaper.setBurst
  dsimp only
  rw [kt]
  split
  · exact ⟨rfl, by dsimp only; omega⟩
  · exact ⟨rfl, by dsimp only; omega⟩

theorem Shaper.forgive_parts (q : Shaper) : q.forgive.bal = max 0 q.bal ∧ q.forgive.rate = q.rate := by
  unfold Shaper.forgive
  split
  · exact ⟨by dsimp only; omega, rfl⟩
  · exact ⟨by omega, rfl⟩

/-- A shaper that is turned on starts with the whole burst (R283). -/
theorem Shaper.turnOn_disabled {q : Shaper} (h : q.enable = false) (now : Nat) : (q.turnOn now).enable = true ∧
    (q.turnOn now).bal = ((q.burst * 9600000 : Nat) : Int) ∧ (q.turnOn now).last = now := by
  unfold Shaper.turnOn
  rw [if_neg (by simp [h])]
  exact ⟨rfl, rfl, rfl⟩

/-! ### The shaper that SCH_SUB_SEL selects -/

@[simp] theorem SchPort.shaper_setShaper (x : SchPort) (h : Nat) (q : Shaper) : (x.setShaper h q).shaper h = q :=
  Tab.get_set_same ..

section
variable {s : State} {p : Nat} (hp : p < s.variant.ports)
include hp

theorem State.onShaper_eq (f : Shaper → Shaper) : s.onShaper p f = s.setSport p ((s.sport p).setShaper
    (s.fld Reg.SCH_SUB_SEL_SUB p) (f ((s.sport p).shaper (s.fld Reg.SCH_SUB_SEL_SUB p)))) :=
  if_neg (Nat.not_le.2 hp)

theorem State.shaper_onShaper (f : Shaper → Shaper) :
    ((s.onShaper p f).sport p).shaper (s.fld Reg.SCH_SUB_SEL_SUB p) = f ((s.sport p).shaper (s.fld Reg.SCH_SUB_SEL_SUB p)) := by
  rw [State.onShaper_eq hp, State.sport_setSport, SchPort.shaper_setShaper]

theorem State.sport_onShaper_other (f : Shaper → Shaper) {r : Nat} (hr : r ≠ p) : (s.onShaper p f).sport r = s.sport r := by
  rw [State.onShaper_eq hp, State.sport_setSport_other _ _ hr.symm]

end

/-- A register write of the selected shaper does to it what the register does, and leaves the other ports alone. -/
theorem Runs.of_shaperCmd {c : Instr} {s : State} {p rsv : Nat} {f : State → Shaper → Shaper} {P : State → Prop}
    (hexec : exec c s = s.run fun s => s.regCmd Blk.sch p rsv fun s => s.onShaper p (f s)) (hc : s.pwr.clocksStopped = false)
    (hp : p < s.variant.ports) (hopen : s.pageOpen Blk.sch p = true) (hrsv : rsv = 0)
    (h : ∀ t, (t.sport p).shaper (s.fld Reg.SCH_SUB_SEL_SUB p) = f s ((s.sport p).shaper (s.fld Reg.SCH_SUB_SEL_SUB p)) →
      (∀ r, r ≠ p → t.sport r = s.sport r) → P t) : Runs c s P :=
  Runs.of_regCmd hexec hc (by decide) hopen hrsv rfl
    (h _ (State.shaper_onShaper hp (f s)) fun _ hr => State.sport_onShaper_other hp (f s) hr)

/-! ### SCH_SUB_CFG (R283) -/

/-- The weight that a write of SCH_SUB_CFG stores for a subscriber; the port shaper has none. -/
def State.weighted (s : State) (p h w : Nat) : State :=
  if h = 257 then s else s.setSport p { s.sport p with weight := Tab.set (s.sport p).weight h w }

theorem State.weighted_parts (s : State) (p h w : Nat) : (s.weighted p h w).variant = s.variant ∧
    (s.weighted p h w).regs = s.regs ∧ ((s.weighted p h w).sport p).shapers = (s.sport p).shapers ∧
    (h ≠ 257 → ((s.weighted p h w).sport p).weightOf h = w) ∧ ∀ r, r ≠ p → (s.weighted p h w).sport r = s.sport r := by
  unfold State.weighted
  split
  · exact ⟨rfl, rfl, rfl, fun hne => absurd ‹_› hne, fun _ _ => rfl⟩
  · refine ⟨rfl, rfl, by rw [State.sport_setSport], fun _ => ?_, fun r hr => State.sport_setSport_other _ _ hr.symm⟩
    rw [State.sport_setSport]
    exact Tab.get_set_same ..

section
variable {s : State} {p : Nat} (hp : p < s.variant.ports) (v : Nat)
include hp

theorem State.subCfg_eq : s.subCfg p v = (s.weighted p (s.fld Reg.SCH_SUB_SEL_SUB p) (v % 256)).onShaper p
    fun q => if bit v 8 then q.turnOn s.cclk else q.turnOff s.cclk :=
  if_neg (Nat.not_le.2 hp)

/-- What a write of SCH_SUB_CFG makes of the selected shaper, of its subscriber's weight and of the other ports. -/
theorem State.subCfg_parts {h : Nat} (hh : h = s.fld Reg.SCH_SUB_SEL_SUB p) :
    ((s.subCfg p v).sport p).shaper h =
      (if bit v 8 then ((s.sport p).shaper h).turnOn s.cclk else ((s.sport p).shaper h).turnOff s.cclk) ∧
    (h ≠ 257 → ((s.subCfg p v).sport p).weightOf h = v % 256) ∧ ∀ r, r ≠ p → (s.subCfg p v).sport r = s.sport r := by
  obtain ⟨variant, regs, shapers, weight, others⟩ := s.weighted_parts p h (v % 256)
  have hp' : p < (s.weighted p h (v % 256)).variant.ports := by rwa [variant]
  have selected : (s.weighted p h (v % 256)).fld Reg.SCH_SUB_SEL_SUB p = h := (State.fld_congr variant regs ..).trans hh.symm
  have shaper : ((s.weighted p h (v % 256)).sport p).shaper h = (s.sport p).shaper h := congrArg (fun x => Tab.get ({} : Shaper) x h) shapers
  rw [State.subCfg_eq hp, ← hh]
  refine ⟨?_, fun hne => ?_, fun r hr => (State.sport_onShaper_other hp' _ hr).trans (others r hr)⟩
  · have changed := State.shaper_onShaper hp' fun q => if bit v 8 then q.turnOn s.cclk else q.turnOff s.cclk
    rwa [selected, shaper] at changed
  · rw [State.onShaper_eq hp', State.sport_setSport]
    exact weight hne

end

/-- Settles O34: each register write does one thing to the selected shaper, and the lemmas on one shaper say what that leaves. -/
theorem shapersFillAndForgive : Obligations.ShapersFillAndForgive := by
  rintro s p h q v hc hp hopen rfl rfl
  refine ⟨fun hen => ⟨fun hrsv => ?_, fun hrsv => ?_, ?_, fun hrsv hbit => ?_⟩, fun hdis => ⟨fun hrsv => ?_, fun hrsv hbit => ?_⟩⟩
  · refine Runs.of_shaperCmd (f := fun s q => q.setRate s.cclk v.toNat) rfl hc hp hopen hrsv fun t ht others => ?_
    obtain ⟨last, bal⟩ := Shaper.fill_enabled hen s.cclk
    rw [ht]
    exact ⟨rfl, last, bal, others⟩
  · refine Runs.of_shaperCmd (f := fun s q => q.setBurst s.cclk v.toNat) rfl hc hp hopen hrsv fun t ht _ => ?_
    rw [ht, ← (Shaper.fill_enabled hen (s.now / Clk.cclk)).2]
    exact Shaper.setBurst_parts ..
  · refine Runs.of_shaperCmd (f := fun s q => (q.fill s.cclk).forgive) rfl hc hp hopen rfl fun t ht _ => ?_
    obtain ⟨bal, rate⟩ := Shaper.forgive_parts (((s.sport p).shaper (s.fld Reg.SCH_SUB_SEL_SUB p)).fill s.cclk)
    rw [ht, ← (Shaper.fill_enabled hen (s.now / Clk.cclk)).2]
    exact ⟨bal, rate.trans (Shaper.fill_rate ..)⟩
  · obtain ⟨shaper, -, -⟩ := State.subCfg_parts hp v.toNat rfl
    refine Runs.of_regCmd rfl hc (by decide) hopen hrsv (if_neg (by simp [hbit])) ?_
    rw [shaper, if_neg (by simp [hbit]), Shaper.turnOff_enabled hen]
    exact ⟨rfl, (Shaper.fill_enabled hen _).2⟩
  · refine Runs.of_shaperCmd (f := fun s q => q.setRate s.cclk v.toNat) rfl hc hp hopen hrsv fun t ht _ => ?_
    exact ht.trans (Shaper.setRate_disabled hdis ..)
  · obtain ⟨shaper, weight, others⟩ := State.subCfg_parts hp v.toNat rfl
    obtain ⟨enable, bal, last⟩ := Shaper.turnOn_disabled hdis s.cclk
    refine Runs.of_regCmd rfl hc (by decide) hopen hrsv (if_pos hbit) ?_
    rw [shaper, if_pos hbit]
    exact ⟨enable, bal, last, weight, others⟩

end Sys2Proof.Machine
end

section
/-! PROOFS. What the notice of a close leaves alone (10_mezzanine_encoding.md R230, R231; 13_beats_and_scheduling.md R277). -/

namespace Sys2Proof.Machine

theorem ports_le (v : Variant) : v.ports ≤ 64 := by cases v <;> decide

theorem schPage_ne_collector {v : Variant} {p : Nat} (hp : p < v.ports) : pageOf Blk.sch p ≠ pageOf Blk.flt 0 := by
  have bound := hp.trans_le (ports_le v)
  have first : firstPage Blk.sch + 64 ≤ firstPage Blk.flt ∨ firstPage Blk.flt < firstPage Blk.sch := by decide
  unfold pageOf
  omega

/-- A page without an armed injection has none after another page's was taken (R372). -/
theorem State.disarmed_takeInject {s t : State} {src : Src} {i q : Nat} (ht : s.takeInject src i = some t) (h : s.armed q = 0) :
    t.armed q = 0 := by
  by_cases hq : pageOf src.blk i = q
  · subst hq
    rw [State.takeInject_eq_none h] at ht
    cases ht
  · rw [State.takeInject_some ht]
    exact (State.fld_setFld_index s _ _ hq).trans h

/-- `P` speaks of the variant and the registers only, and outlasts an armed inversion that a check takes, a latch, and the count of
unsent row pairs. -/
structure OutlastsNotice (P : State → Prop) : Prop where
  regs : ∀ {s t : State}, t.variant = s.variant → t.regs = s.regs → P s → P t
  takeInject : ∀ {s t : State} {src : Src} {i : Nat}, s.takeInject src i = some t → P s → P t
  latch : ∀ {s : State} (src : Src) (i : Nat), P s → P (s.latch src i)
  unsentRp : ∀ {s : State} (v : Nat), P s → P (s.setFld Reg.MZE_UNSENT_RP 0 v)

theorem outlastsNotice_disarmed {q : Nat} (hq : q ≠ pageOf Blk.flt 0) : OutlastsNotice fun s => s.armed q = 0 where
  regs hv hr h := (State.armed_congr hv hr q).trans h
  takeInject := State.disarmed_takeInject
  latch src i h := (State.armed_latch _ hq src i).trans h
  unsentRp v h := (State.armed_setFld _ _ v q (by decide) (by decide)).trans h

theorem outlastsNotice_waitFit (p n : Nat) : OutlastsNotice fun s => s.fld Reg.SCH_WAIT_FIT p = n where
  regs hv hr h := (State.fld_congr hv hr ..).trans h
  takeInject ht h := State.takeInject_some ht ▸ (State.fld_setFld_other _ _ (by decide) (by decide) (by decide)).trans h
  latch src i h := (State.fld_latch _ src i (by decide) (by decide)).trans h
  unsentRp v h := (State.fld_setFld_other _ v (by decide) (by decide) (by decide)).trans h

/-- A store to a tile's reference leaves the registers and the scheduler alone. -/
theorem State.refWrite_parts (s : State) (x : MzeTile) (off : Nat) (bs : Bytes) :
    (s.refWrite x off bs).variant = s.variant ∧ (s.refWrite x off bs).regs = s.regs ∧ (s.refWrite x off bs).sch = s.sch := by
  unfold State.refWrite
  exact List.foldlRecOn (motive := fun a : State × Bytes => a.1.variant = s.variant ∧ a.1.regs = s.regs ∧ a.1.sch = s.sch)
    _ _ ⟨rfl, rfl, rfl⟩ fun _ ⟨hv, hr, hs⟩ _ _ =>
      ⟨(State.devWrite_variant ..).trans hv, (State.devWrite_regs ..).trans hr, (State.devWrite_sch ..).trans hs⟩

theorem State.putRp_parts (s : State) (t j : Nat) (f : MzeRp → MzeRp) :
    (s.putRp t j f).variant = s.variant ∧ (s.putRp t j f).regs = s.regs ∧ (s.putRp t j f).sch = s.sch := by
  unfold State.putRp
  exact State.refWrite_parts (s.setMzt t _) ..

namespace OutlastsNotice

variable {P : State → Prop} (k : OutlastsNotice P) {s : State}
include k

/-- A record writes registers only where a mismatch of the duplicate indices latches its source (R67). -/
theorem recordN (h : P s) (r cls : Nat) (items : List (Nat → Bytes)) (n : Nat) : P (s.recordN r cls items n) := by
  have recorded {u : State} (hu : P u) : P (u.recordAt r cls items) := k.regs (u.recordAt_variant ..) (u.recordAt_regs ..) hu
  induction n generalizing s r cls items with
  | zero => exact recorded h
  | succ n ih =>
    unfold State.recordN
    dsimp only
    split
    · exact recorded h
    · split
      · exact recorded h
      · rename_i u hu
        have halted : P (u.setRing r (s.ring r).halt) := k.regs (s := u) rfl rfl (k.takeInject hu h)
        refine recorded (k.latch _ _ ?_)
        split
        · exact ih halted _ _ _ fun hv => k.regs (State.recordAt_variant ..) (State.recordAt_regs ..) hv
        · exact k.regs (State.loseEvent_variant ..) (State.loseEvent_regs ..) halted

theorem mzeEvent (h : P s) (code source : Nat) (args : List Nat) : P (s.mzeEvent code source args) := by
  unfold State.mzeEvent State.event State.eventTo
  split
  · exact k.recordN h _ 4 _ 256
  · exact k.regs (State.loseEvent_variant ..) (State.loseEvent_regs ..) h

theorem putRps (h : P s) {α : Type} (l : List α) (t : Nat) (j : α → Nat) (f : MzeRp → MzeRp) :
    P (l.foldl (fun u g => u.putRp t (j g) f) s) :=
  List.foldlRecOn _ _ h fun u hu g _ => by
    obtain ⟨hv, hr, -⟩ := u.putRp_parts t (j g) f
    exact k.regs hv hr hu

theorem unsent (h : P s) (t : Nat) (p : MzePic) (off : Nat) : P (s.unsent t p off) := by
  have counted {u : State} (hu : P u) (x : MzeTile) (n : Nat) : P ((u.setMzt t x).count Reg.MZE_UNSENT_RP 0 n) :=
    k.unsentRp _ (k.regs (s := u) rfl rfl hu)
  unfold State.unsent
  dsimp only
  split
  · exact counted (k.putRps (k.putRps h ..) ..) ..
  · exact k.mzeEvent (counted (k.putRps (k.putRps h ..) ..) ..) ..

theorem notice (h : P s) (t n off : Nat) : P (s.notice t n off) := by
  have stored (x : MzeTile) : P (s.setMzt t x) := k.regs (s := s) rfl rfl h
  unfold State.notice
  dsimp only
  split
  · exact k.unsent h ..
  · split
    · split
      · exact stored _
      · exact stored _
    · exact stored _

end OutlastsNotice

theorem State.putRps_sch {α : Type} (s : State) (l : List α) (t : Nat) (j : α → Nat) (f : MzeRp → MzeRp) :
    (l.foldl (fun u g => u.putRp t (j g) f) s).sch = s.sch :=
  State.foldl_part (g := State.sch) (fun u g => by
    obtain ⟨-, -, hsch⟩ := u.putRp_parts t (j g) f
    exact hsch) l s

theorem State.unsent_sch (s : State) (t : Nat) (p : MzePic) (off : Nat) : (s.unsent t p off).sch = s.sch := by
  unfold State.unsent
  dsimp only
  split
  · exact (State.putRps_sch ..).trans (State.putRps_sch ..)
  · exact (State.event_sch ..).trans ((State.putRps_sch ..).trans (State.putRps_sch ..))

theorem State.notice_sch (s : State) (t n off : Nat) : (s.notice t n off).sch = s.sch := by
  unfold State.notice
  dsimp only
  split
  · exact State.unsent_sch ..
  · split
    · split <;> rfl
    · rfl

end Sys2Proof.Machine
end

section
/-! PROOFS. Tiles close on a port, and port frames end and start (13_beats_and_scheduling.md R269, R271, R272, R277, R286). -/

namespace Sys2Proof.Machine

theorem State.sport_congr {s t : State} (h : t.sch.ports = s.sch.ports) (p : Nat) : t.sport p = s.sport p :=
  congrArg (fun x => Tab.get ({} : SchPort) x p) h

/-! ### Closes (R277) -/

/-- The tile is closed on the port, and its queued frames of the port frame are counted. -/
def State.tileShut (s : State) (p t : Nat) : State :=
  (s.setSport p { s.sport p with closed := t :: (s.sport p).closed }).count Reg.SCH_WAIT_FIT p
    ((s.sport p).tileQ.filter fun f => f.tile == t && f.frame == s.fld Reg.SCH_PFRAME p).length

/-- The closes that wait for other ports. -/
def State.withCloses (s : State) (cs : List TileClose) : State := { s with sch := { s.sch with closes := cs } }

theorem State.closeTile_unchanged {s : State} {p t : Nat}
    (h : (s.sport p).closed.contains t = true ∨ (s.sport p).bank.isNone = true) : s.closeTile p t = s :=
  if_pos h

/-- A close shuts the tile on the port; it may be the last one that the notice waits for. -/
theorem State.closeTile_first {s : State} {p t : Nat}
    (h : ¬((s.sport p).closed.contains t = true ∨ (s.sport p).bank.isNone = true)) :
    ∃ cs, s.closeTile p t = (s.tileShut p t).withCloses cs ∨
      ∃ k off, s.closeTile p t = ((s.tileShut p t).withCloses cs).notice t k off := by
  unfold State.closeTile
  dsimp only
  rw [if_neg h]
  split
  · exact ⟨_, .inl rfl⟩
  · split
    · exact ⟨_, .inr ⟨_, _, rfl⟩⟩
    · exact ⟨_, .inl rfl⟩

theorem State.tileShut_parts (s : State) (p t : Nat) (cs : List TileClose) :
    ((s.tileShut p t).withCloses cs).sport p = { s.sport p with closed := t :: (s.sport p).closed } ∧
    ((s.tileShut p t).withCloses cs).fld Reg.SCH_WAIT_FIT p = (s.fld Reg.SCH_WAIT_FIT p +
      ((s.sport p).tileQ.filter fun f => f.tile == t && f.frame == s.fld Reg.SCH_PFRAME p).length) % 4294967296 :=
  ⟨State.sport_setSport .., State.fld_setFld (s.setSport p _) Reg.SCH_WAIT_FIT p _⟩

/-- What a first close of a tile on a port leaves there. -/
theorem State.closeTile_parts {s : State} {p t : Nat} (hclosed : (s.sport p).closed.contains t = false)
    (hbank : (s.sport p).bank.isSome = true) :
    (s.closeTile p t).sport p = { s.sport p with closed := t :: (s.sport p).closed } ∧
    (s.closeTile p t).fld Reg.SCH_WAIT_FIT p = (s.fld Reg.SCH_WAIT_FIT p +
      ((s.sport p).tileQ.filter fun f => f.tile == t && f.frame == s.fld Reg.SCH_PFRAME p).length) % 4294967296 := by
  have first : ¬((s.sport p).closed.contains t = true ∨ (s.sport p).bank.isNone = true) := by
    rw [hclosed, ← Option.not_isSome, hbank]
    decide
  obtain ⟨cs, shut | ⟨k, off, noticed⟩⟩ := State.closeTile_first first
  · rw [shut]
    exact s.tileShut_parts p t cs
  · obtain ⟨sport, waitFit⟩ := s.tileShut_parts p t cs
    rw [noticed]
    exact ⟨(State.sport_congr (congrArg SchSt.ports (State.notice_sch ..)) p).trans sport,
      (outlastsNotice_waitFit p _).notice waitFit t k off⟩

theorem State.tileClose_ended {s : State} {p t : Nat} {b : Bytes} (hrun : (s.sport p).running = true)
    (hlast : (Img.tileBeats (s.sport p).image p t).getLast? = some b) (hend : Beat.fin b ≤ s.slotAt p s.now) :
    s.tileClose p t = s.closeTile p t := by
  unfold State.tileClose
  dsimp only
  rw [hlast]
  exact if_pos ⟨hrun, hend⟩

/-! ### Released buffers -/

theorem SameSwitch.refl (s : State) : SameSwitch s s := .of_parts rfl rfl rfl rfl

theorem SameSwitch.poolRelease (s : State) (o b : Nat) : SameSwitch s (s.poolRelease o b).2 := by
  have dropped (t : State) : SameSwitch t (t.dropShare b) := by
    unfold State.dropShare
    dsimp only
    split
    · exact (setPool ..).trans (pushFree ..)
    · exact setBuf ..
  unfold State.poolRelease
  split
  · exact (setOwn ..).trans (dropped (s.held o 0 1))
  · exact misuse ..

theorem SameSwitch.releaseAll (s : State) (o : Nat) (bs : List Nat) : SameSwitch s (s.releaseAll o bs) :=
  List.foldlRecOn bs _ (.refl s) fun _ h _ _ => h.trans (poolRelease ..)

/-! ### The end of a port frame arms no injection -/

section
variable {q : Nat} (hq : q ≠ pageOf Blk.flt 0)
include hq

theorem State.disarmed_closeTile {s : State} (h : s.armed q = 0) (p t : Nat) : (s.closeTile p t).armed q = 0 := by
  have shut (cs : List TileClose) : ((s.tileShut p t).withCloses cs).armed q = 0 :=
    (State.armed_setFld (s.setSport p _) _ _ q (by decide) (by decide)).trans ((State.armed_setSport ..).trans h)
  by_cases hkept : (s.sport p).closed.contains t = true ∨ (s.sport p).bank.isNone = true
  · rw [State.closeTile_unchanged hkept]
    exact h
  · obtain ⟨cs, he | ⟨k, off, he⟩⟩ := State.closeTile_first hkept
    · exact he ▸ shut cs
    · exact he ▸ (outlastsNotice_disarmed hq).notice (shut cs) t k off

theorem State.armed_dropLate (s : State) (p : Nat) (f : LinkFrame) : (s.dropLate p f).armed q = s.armed q := by
  have dropped : ((s.dropCopy p f).count Reg.SCH_LATE p).armed q = s.armed q :=
    (State.armed_setFld _ _ _ q (by decide) (by decide)).trans
      ((State.armed_setSwout ..).trans ((SameSwitch.releaseAll ..).armed q hq))
  have listed (t : State) (x : SchSt) : State.armed { t with sch := x } q = t.armed q := State.armed_congr rfl rfl q
  have late (t : State) : (t.lateTile f).armed q = t.armed q := by
    unfold State.lateTile
    dsimp only
    split
    · rfl
    · split
      · exact State.armed_congr rfl rfl q
      · exact listed t _
  unfold State.dropLate
  exact (late _).trans dropped

theorem State.disarmed_endPframe {s : State} (h : s.armed q = 0) (p k offset : Nat) : (s.endPframe p k offset).armed q = 0 := by
  have counted (t : State) : (t.count Reg.SCH_CUT p).armed q = t.armed q := t.armed_setFld _ _ q (by decide) (by decide)
  have closed (l : List Nat) : (l.foldl (fun t i => t.closeTile p i) s).armed q = 0 :=
    List.foldlRecOn (motive := fun t : State => t.armed q = 0) l _ h fun _ ht _ _ => State.disarmed_closeTile hq ht ..
  have dropped (l : List LinkFrame) (t : State) : (l.foldl (fun t f => t.dropLate p f) t).armed q = t.armed q :=
    State.foldl_part (g := (State.armed · q)) (fun t f => State.armed_dropLate hq t p f) l t
  have cut (c : Prop) [Decidable c] (t : State) (ht : t.armed q = 0) :
      (if c then (t.count Reg.SCH_CUT p).latch .schCut p else t).armed q = 0 := by
    split
    · exact (State.armed_latch _ hq ..).trans ((counted t).trans ht)
    · exact ht
  unfold State.endPframe
  dsimp only
  split
  · exact (counted _).trans (cut _ _ ((dropped ..).trans ((State.armed_setSport ..).trans (closed _))))
  · exact cut _ _ ((dropped ..).trans ((State.armed_setSport ..).trans (closed _)))

end

/-! ### Port marks (R271, R272, R286) -/

/-- On port `p` of `t` the port frame `k` has started at time `now`, with the bank and the image of its frame. -/
structure PframeStarted (t : State) (p k now : Nat) (b : Bool) (im : Bytes) : Prop where
  pframe : t.fld Reg.SCH_PFRAME p = k % 4294967296
  running : (t.sport p).running = true
  bank : (t.sport p).bank = some b
  image : (t.sport p).image = im
  offset : (t.sport p).offset = Dir.offset (Img.dir im p)
  markAt : (t.sport p).markAt = now
  sent : (t.sport p).sent = []
  closed : (t.sport p).closed = []
  sound : (t.sport p).tableBad = false

/-- The port with nothing sent or closed of a port frame that starts. -/
def SchPort.started (x : SchPort) (now : Nat) (b : Bool) (im : Bytes) (offset : Nat) (dark : List Nat) : SchPort :=
  { x with running := true, markAt := now, skipped := 0, bank := some b, image := im, offset := offset, dark := dark, blanked := []
           sent := [], closed := [], tableBad := false }

/-- Port frame `k` starts on port `p`, which is free once what it still sends has left. -/
def State.pframeBegun (u : State) (p k now : Nat) (b : Bool) (im : Bytes) : State :=
  let y := (u.sport p).started now b im (Dir.offset (Img.dir im p)) (u.darkOn k im p)
  let v := (u.setSport p y).setFld Reg.SCH_PFRAME p k
  v.setSport p { y with free := if now < y.busyUntil then
      ((y.busyUntil - now) * slotRate (v.laneByte p) + 9599999999) / 9600000000 + y.ovh p
    else 0 }

theorem pframeStarted_pframeBegun (u : State) (p k now : Nat) (b : Bool) (im : Bytes) :
    PframeStarted (u.pframeBegun p k now b im) p k now b im := by
  refine ⟨State.fld_setFld (u.setSport p _) Reg.SCH_PFRAME p k, ?_, ?_, ?_, ?_, ?_, ?_, ?_, ?_⟩
  all_goals
    unfold State.pframeBegun
    rw [State.sport_setSport]
    rfl

theorem State.armed_pframeBegun (u : State) (p k now : Nat) (b : Bool) (im : Bytes) (q : Nat) :
    (u.pframeBegun p k now b im).armed q = u.armed q :=
  (State.armed_setSport ..).trans ((State.armed_setFld (u.setSport p _) p k q (by decide) (by decide)).trans
    (State.armed_setSport ..))

/-- The port frame that runs has ended, where there is one. -/
def State.lastPframeEnded (s : State) (p offset : Nat) : State :=
  if (s.sport p).running then s.endPframe p (s.nextPframe p) offset else s

section
variable {s : State} {p : Nat}

section
variable {b : Bool} {im : Bytes} (htag : s.tagOf (s.nextPframe p) = some (b, im))
include htag

/-- A mark that is not due changes nothing; one that is ends the port's port frame and starts the next one. -/
theorem State.portMark_tagged : s.portMark p =
    if s.variant.ports ≤ p ∨ (!s.wound) = true ∨ (!frameLe (s.nextPframe p) s.frameCount) = true ∨
        s.now < s.markTime (s.nextPframe p) + Dir.offset (Img.dir im p) * Clk.cclk then s
    else (s.lastPframeEnded p (Dir.offset (Img.dir im p))).pframeBegun p (s.nextPframe p) s.now b im := by
  unfold State.portMark
  dsimp only
  rw [htag]
  rfl

theorem State.portMark_due (hp : p < s.variant.ports) (hw : s.wound = true) (hle : frameLe (s.nextPframe p) s.frameCount = true)
    (hdue : s.markTime (s.nextPframe p) + Dir.offset (Img.dir im p) * Clk.cclk ≤ s.now) :
    s.portMark p = (s.lastPframeEnded p (Dir.offset (Img.dir im p))).pframeBegun p (s.nextPframe p) s.now b im :=
  (State.portMark_tagged htag).trans (if_neg (by simpa [hw, hle] using ⟨hp, hdue⟩))

theorem State.portMark_early (hearly : s.now < s.markTime (s.nextPframe p) + Dir.offset (Img.dir im p) * Clk.cclk) :
    s.portMark p = s :=
  (State.portMark_tagged htag).trans (if_pos (.inr (.inr (.inr hearly))))

end

theorem State.disarmed_lastPframeEnded (hp : p < s.variant.ports) (h : s.armed (pageOf Blk.sch p) = 0) (offset : Nat) :
    (s.lastPframeEnded p offset).armed (pageOf Blk.sch p) = 0 := by
  unfold State.lastPframeEnded
  split
  · exact State.disarmed_endPframe (schPage_ne_collector hp) h ..
  · exact h

/-- The beat table that a mark loads is sound where no inversion is armed (R286, R372). -/
theorem State.portMarkChecked_disarmed (h : (s.portMark p).armed (pageOf Blk.sch p) = 0) : s.portMarkChecked p = s.portMark p := by
  have unchecked : (s.portMark p).takeInject .schTable p = none := State.takeInject_eq_none h
  unfold State.portMarkChecked
  dsimp only
  rw [unchecked]

theorem State.tableParity_running (hp : p < s.variant.ports) (hrun : (s.sport p).running = true) :
    s.tableParity p = (s.setSport p { s.sport p with tableBad := true }).latch .schTable p :=
  if_neg fun
    | .inl h => Nat.not_le.2 hp h
    | .inr h => by simp [hrun] at h

end

end Sys2Proof.Machine
end

section
/-! PROOFS. Link frames leave a port (13_beats_and_scheduling.md R276, R300, R301), and the port frames of
PortFramesAndDepartures. -/

namespace Sys2Proof.Machine

/-! ### What leaves with a frame -/

/-- The buffers of a frame are released, and the frame is counted (R264, R268). -/
def State.bufsLeft (s : State) (p : Nat) (f : LinkFrame) : State :=
  if f.bufs = [] then s else ((s.releaseAll (f.holder p) f.bufs).audOut p f.cells).count Reg.SWC_PORT_FRAMES p

theorem State.bufsLeft_parts (s : State) (p : Nat) (f : LinkFrame) {q : Nat} (hq : q ≠ pageOf Blk.flt 0) :
    (s.bufsLeft p f).sport p = s.sport p ∧ (s.bufsLeft p f).armed q = s.armed q := by
  have released := SameSwitch.releaseAll s (f.holder p) f.bufs
  unfold State.bufsLeft
  split
  · exact ⟨rfl, rfl⟩
  · exact ⟨released.sport p, (State.armed_setFld _ _ _ q (by decide) (by decide)).trans
      ((State.armed_setSwout ..).trans (released.armed q hq))⟩

theorem State.spend_parts (s : State) (p : Nat) (f : LinkFrame) (q : Nat) :
    (s.spend p f).sport p = s.sport p ∧ (s.spend p f).armed q = s.armed q := by
  unfold State.spend
  dsimp only
  split
  · exact ⟨rfl, State.armed_congr rfl rfl q⟩
  · exact ⟨rfl, rfl⟩

/-- With sampling off no departing frame is sampled (R266). -/
theorem State.sample_off {s : State} {p : Nat} (h : s.fld Reg.SWC_PORT_SMP_N p = 0) (f : LinkFrame) : s.sample p f = s := by
  unfold State.sample
  dsimp only
  split
  · rfl
  · exact if_pos h

/-- A departing frame takes the port until it and the overhead have gone. -/
theorem State.depart_parts {s : State} {p : Nat} (hsample : s.fld Reg.SWC_PORT_SMP_N p = 0) (slot : Nat) (f : LinkFrame) (tx : Bytes)
    {q : Nat} (hq : q ≠ pageOf Blk.flt 0) : (s.depart p slot f tx).armed q = s.armed q ∧
    ∃ busyUntil, (s.depart p slot f tx).sport p = { s.sport p with
      free := slot + f.len + (s.sport p).ovh p, busyUntil := busyUntil, lastTx := tx } := by
  obtain ⟨spentSport, spentArmed⟩ := s.spend_parts p f q
  obtain ⟨leftSport, leftArmed⟩ := (s.spend p f).bufsLeft_parts p f hq
  have departed : s.depart p slot f tx = (((s.spend p f).bufsLeft p f).setSport p { ((s.spend p f).bufsLeft p f).sport p with
      free := slot + f.len + (((s.spend p f).bufsLeft p f).sport p).ovh p
      busyUntil := s.now + s.slotUnits p f.len, lastTx := tx }).emit p
        (frameChars tx ++ fillChars ((((s.spend p f).bufsLeft p f).sport p).ovh p)) := by
    unfold State.depart
    rw [State.sample_off hsample]
    rfl
  rw [departed]
  refine ⟨(State.armed_congr rfl rfl q).trans (leftArmed.trans spentArmed), s.now + s.slotUnits p f.len, ?_⟩
  rw [← spentSport, ← leftSport]
  exact State.sport_setSport ..

/-- A tile's frame that leaves in its beat: out of the queue, with the tile's position in DEST, its payload sent in full. -/
structure TileFrameLeft (s t : State) (p slot : Nat) (e : Bytes) (f : LinkFrame) : Prop where
  tileQ : (t.sport p).tileQ = (s.sport p).tileQ.eraseP fun g => g.tile == f.tile && g.frame == f.frame
  lastTx : (t.sport p).lastTx = withDest f.data (Img.posOn (s.sport p).image e p)
  free : (t.sport p).free = slot + f.len + (s.sport p).ovh p
  leaves : (t.sport p).leaves = (s.sport p).leaves
  sent : f.frag = Tab.get 0 (s.sport p).sent f.tile → Tab.get 0 (t.sport p).sent f.tile = f.frag + f.payload

/-- The port without a tile's frame in its queue, and with the frame's payload sent in full where it comes next. -/
def SchPort.without (x : SchPort) (f : LinkFrame) : SchPort :=
  { x with
    tileQ := x.tileQ.eraseP fun g => g.tile == f.tile && g.frame == f.frame
    sent := if f.frag = Tab.get 0 x.sent f.tile then Tab.set x.sent f.tile (Tab.get 0 x.sent f.tile + f.payload) else x.sent }

theorem SchPort.sent_without {x : SchPort} {f : LinkFrame} (h : f.frag = Tab.get 0 x.sent f.tile) :
    Tab.get 0 (x.without f).sent f.tile = f.frag + f.payload := by
  unfold SchPort.without
  dsimp only
  rw [if_pos h, ← h]
  exact Tab.get_set_same ..

theorem State.departTile_parts {s : State} {p : Nat} (hsample : s.fld Reg.SWC_PORT_SMP_N p = 0) (slot : Nat) (e : Bytes) (f : LinkFrame)
    {q : Nat} (hq : q ≠ pageOf Blk.flt 0) : TileFrameLeft s (s.departTile p slot (s.sport p).image e f) p slot e f ∧
      (s.departTile p slot (s.sport p).image e f).armed q = s.armed q := by
  obtain ⟨armed, busyUntil, port⟩ := State.depart_parts (s := s.setSport p ((s.sport p).without f)) hsample slot f
    (withDest f.data (Img.posOn (s.sport p).image e p)) hq
  have departed : s.departTile p slot (s.sport p).image e f = (s.setSport p ((s.sport p).without f)).depart p slot f
    (withDest f.data (Img.posOn (s.sport p).image e p)) := rfl
  rw [State.sport_setSport, ← departed] at port
  refine ⟨⟨?_, ?_, ?_, ?_, fun hfrag => ?_⟩, armed.trans (State.armed_setSport ..)⟩
  · rw [port]
    rfl
  · rw [port]
  · rw [port]
    rfl
  · rw [port]
    rfl
  · rw [port]
    exact SchPort.sent_without hfrag

/-! ### What starts at a slot (R276) -/

section
variable {s : State} {p slot : Nat} {beat e : Bytes} {f : LinkFrame}

/-- In a beat of a lit tile that is open and whose beat table is sound, the oldest frame leaves that fits and has its credits. -/
theorem State.tileBeat_lit {im : Bytes} {k : Nat} (htile : Img.tile im (Beat.tile beat) = some e)
    (hdark : (s.sport p).dark.contains (Beat.tile beat) = false) (hmirror : (s.sport p).dark.contains (Beat.tile beat + 65536) = false)
    (hclosed : (s.sport p).closed.contains (Beat.tile beat) = false) (hsound : (s.sport p).tableBad = false)
    (hhead : (s.sport p).tileQ.find? (fun g => g.tile == Beat.tile beat && g.frame == k) = some f)
    (hfits : slot + f.len + (s.sport p).ovh p ≤ Beat.fin beat) (hcredit : s.credited p f = true) :
    s.tileBeat p slot k im beat = s.departTile p slot im e f := by
  unfold State.tileBeat
  dsimp only
  rw [htile]
  dsimp only
  rw [hdark, hmirror, hclosed, hsound]
  simp only [Bool.or_false, Bool.and_false, Bool.false_and, Bool.false_eq_true, if_false]
  rw [hhead]
  exact (if_neg (Nat.not_lt.2 hfits)).trans (if_pos hcredit)

theorem State.linkDepart_tileBeat (hp : p < s.variant.ports) (hrun : (s.sport p).running = true) (hdata : s.inData p = true)
    (hfree : (s.sport p).free ≤ slot) (hslot : slot = s.slotAt p s.now) (hbank : (s.sport p).bank.isSome = true)
    (hbeat : (Img.beats (s.sport p).image p).find? (fun b => decide (Beat.start b ≤ slot) && decide (slot < Beat.fin b)) = some beat)
    (hkind : Beat.kind beat = 0) :
    s.linkDepart p slot = s.tileBeat p slot (s.fld Reg.SCH_PFRAME p) (s.sport p).image beat := by
  have starts : ¬(s.variant.ports ≤ p ∨ (!(s.sport p).running) = true ∨ slot < (s.sport p).free ∨ slot ≠ s.slotAt p s.now ∨
      (!s.inData p) = true) := by
    simp [hrun, hdata, ← hslot, hp, hfree]
  have active : ¬(s.sport p).bank.isNone = true := by
    rw [← Option.not_isSome, hbank]
    decide
  unfold State.linkDepart
  dsimp only
  rw [if_neg starts, if_neg active, hbeat]
  exact if_pos hkind

theorem State.linkDepart_taken (h : slot < (s.sport p).free) : s.linkDepart p slot = s :=
  if_pos (.inr (.inr (.inl h)))

end

theorem Runs.of_linkFrameDepart {s : State} {p slot : Nat} {P : State → Prop} (hc : s.pwr.clocksStopped = false)
    (harmed : (s.linkDepart p slot).armed (pageOf Blk.sch p) = 0) (h : P (s.linkDepart p slot)) : Runs (.linkFrameDepart p slot) s P :=
  Runs.of_run (f := fun s => (s.linkDepart p slot).check .schSram p) rfl hc (State.check_disarmed harmed) h

/-! ### The obligation -/

/-- Settles O33: a due mark is `pframeBegun` on the ended port frame, a close is `tileShut` with its notice, and a departure is
`departTile`; none of them arms an injection, so that the checks behind them find nothing. -/
theorem portFramesAndDepartures : Obligations.PortFramesAndDepartures := by
  refine ⟨fun s p hc hw hp hdisarmed => ⟨fun b im htag hle => ⟨fun hdue => ?_, fun hearly => ?_⟩,
    fun tile b hrun hlast hend => ⟨fun hclosed hbank => ?_, fun hclosed => ?_⟩, fun hrun => ?_⟩,
    fun s p slot hc hp hrun hdata hdisarmed => ⟨fun htaken => ?_, ?_⟩⟩
  · obtain ⟨pframe, running, bank, image, offset, markAt, sent, closed, sound⟩ :=
      pframeStarted_pframeBegun (s.lastPframeEnded p (Dir.offset (Img.dir im p))) p (s.nextPframe p) s.now b im
    have due := State.portMark_due htag hp hw hle hdue
    have disarmed : (s.portMark p).armed (pageOf Blk.sch p) = 0 := by
      rw [due, State.armed_pframeBegun]
      exact State.disarmed_lastPframeEnded hp hdisarmed _
    exact Runs.of_run (f := fun s => s.portMarkChecked p) rfl hc ((State.portMarkChecked_disarmed disarmed).trans due)
      ⟨pframe, running, bank, image, offset, markAt, sent, closed, sound⟩
  · have early := State.portMark_early htag hearly
    exact Runs.of_run (f := fun s => s.portMarkChecked p) rfl hc
      ((State.portMarkChecked_disarmed (early.symm ▸ hdisarmed)).trans early) rfl
  · obtain ⟨port, waitFit⟩ := State.closeTile_parts hclosed hbank
    exact Runs.of_run (f := fun s => s.tileClose p tile) rfl hc (State.tileClose_ended hrun hlast hend)
      ⟨by rw [port], by rw [port], waitFit⟩
  · exact Runs.of_run (f := fun s => s.tileClose p tile) rfl hc
      ((State.tileClose_ended hrun hlast hend).trans (State.closeTile_unchanged (.inl hclosed))) rfl
  · refine Runs.of_run (f := fun s => s.tableParity p) rfl hc (State.tableParity_running hp hrun) ⟨?_, ?_⟩
    · exact (State.sport_congr (congrArg SchSt.ports (State.latch_sch ..)) p).trans (State.sport_setSport ..)
    · exact State.latched_latch _ .schTable p (by decide)
  · have same := State.linkDepart_taken htaken
    exact Runs.of_linkFrameDepart hc (same.symm ▸ hdisarmed) same
  · intro beat e f hfree hslot hbank hbeat hkind htile hdark hmirror hclosed hsound hsample hhead hfits hcredit
    have left := (State.linkDepart_tileBeat hp hrun hdata hfree hslot hbank hbeat hkind).trans
      (State.tileBeat_lit htile hdark hmirror hclosed hsound hhead hfits hcredit)
    obtain ⟨⟨tileQ, lastTx, free, leaves, sent⟩, armed⟩ := State.departTile_parts hsample slot e f (schPage_ne_collector hp)
    refine Runs.of_linkFrameDepart hc ?_ ?_
    · rw [left]
      exact armed.trans hdisarmed
    · rw [left]
      exact ⟨tileQ, lastTx, free, leaves, sent⟩

end Sys2Proof.Machine
end

section
/-! PROOFS. One step and the state after reset (00_scope.md; 20_winding_clocks_power.md R399; 21_register_pages.md). -/

namespace Sys2Proof.Machine

theorem step_cons {s : State} {c : Instr} {rest : List Instr} (h : s.pending = c :: rest) :
    step s = exec c { s with pending := rest } := by
  unfold step
  rw [h]

theorem step_nil {s : State} (h : s.pending = []) : step s = .next { s with now := s.now + 1 } := by
  unfold step
  rw [h]

/-- Settles O1: the two cases of `step`. -/
theorem stepRunsTheFrontCommand : Obligations.StepRunsTheFrontCommand :=
  fun _ => ⟨fun _ _ => step_cons, step_nil⟩

/-- Settles O2: on an empty queue only the clock moves; else `exec_kept` says what the front command keeps of the state with the rest
as its queue. -/
theorem everyStepKeepsTheMemoryForm : Obligations.EveryStepKeepsTheMemoryForm := by
  intro s t hmem hstep
  cases hq : s.pending with
  | nil =>
    obtain rfl := Host.Outcome.next.inj ((step_nil hq).symm.trans hstep)
    exact ⟨hmem, rfl, hq⟩
  | cons c rest =>
    have kept := (exec_kept c { s with pending := rest }).keep t ((step_cons hq).symm.trans hstep)
    exact ⟨kept.memOk hmem, kept.variant, kept.pending⟩

/-- After reset every register reads the reset value of its table: the register store is empty. -/
theorem State.fld_reset (f : Fld) (i : Nat) : State.reset.fld f i = f.resetVal .c648 i := State.fld_of_no_regs rfl f i

/-- Settles O3: the memories by evaluation, the registers by `State.fld_reset`, which for a field of constant reset value is that
value. -/
theorem resetIsCanonical : Obligations.ResetIsCanonical := by
  have const {f : Fld} {n : Nat} (h : f.reset = .const n) (i : Nat) : State.reset.fld f i = n := by
    rw [State.fld_reset, Fld.resetVal, h]
  exact ⟨by decide, rfl, rfl, rfl, rfl, rfl, rfl, const rfl 0, fun p _ => const rfl p, fun p _ => const rfl p, fun p _ => const rfl p,
    const rfl 0, const rfl 0, const rfl 0, const rfl 3, const rfl 0, const rfl 0, const rfl 0, const rfl 0⟩

end Sys2Proof.Machine
end

section
/-! PROOFS. A fault source that presents its cause: the sticky bit, the count of its class, its interrupt and the persistent log
(18_faults_and_self_test.md R362, R365, R366, R369, R371). -/

namespace Sys2Proof.Machine

/-! ### Interrupt edges: registers and pending bits -/

/-- A message leaves every register alone but INT_HOST_MSGS. -/
theorem State.fld_sendMsix (s : State) (v : Nat) {f : Fld} (i : Nat) (hf : f.id < 1024) (hm : f.id ≠ Reg.INT_HOST_MSGS.id) :
    (s.sendMsix v).fld f i = s.fld f i := by
  unfold State.sendMsix
  dsimp only
  split
  · exact State.fld_congr rfl rfl f i
  · exact (State.fld_setFld_other _ _ (Ne.symm hm) (by decide) hf).trans (State.fld_congr rfl rfl f i)

theorem State.fld_hostMsg (s before : State) (id : Nat) {f : Fld} (i : Nat) (hf : f.id < 1024) (hm : f.id ≠ Reg.INT_HOST_MSGS.id) :
    (s.hostMsg before id).fld f i = s.fld f i := by
  unfold State.hostMsg
  split
  · exact s.fld_sendMsix _ i hf hm
  · rfl

theorem State.fld_rrAssign (s : State) (id : Nat) {f : Fld} (i : Nat) (hf : f.id < 1024) (hr : f.id ≠ Reg.INT_RR_PTR.id) :
    (s.rrAssign id).fld f i = s.fld f i := by
  unfold State.rrAssign
  split
  · split
    · exact (State.fld_setFld_other _ _ (Ne.symm hr) (by decide) hf).trans (State.fld_congr rfl rfl f i)
    · rfl
  · rfl

/-- An edge of an interrupt source leaves every register alone but INT_HOST_MSGS and INT_RR_PTR. -/
theorem State.fld_intEdge (s : State) (id : Nat) {f : Fld} (i : Nat) (hf : f.id < 1024) (hm : f.id ≠ Reg.INT_HOST_MSGS.id)
    (hr : f.id ≠ Reg.INT_RR_PTR.id) : (s.intEdge id).fld f i = s.fld f i := by
  unfold State.intEdge
  dsimp only
  split
  · rfl
  · exact (State.fld_hostMsg _ _ _ i hf hm).trans ((State.fld_rrAssign _ _ i hf hr).trans (State.fld_congr rfl rfl f i))

/-- The shared source is pending (R351). -/
def State.pends (s : State) (id : Nat) : Prop := (s.src id).pending = true

theorem State.pends_of_int {s t : State} (h : t.int = s.int) {id : Nat} (hs : s.pends id) : t.pends id := by
  unfold State.pends State.src at *
  rwa [h]

theorem State.pends_setSrc {s : State} {id : Nat} (hs : s.pends id) (j : Nat) {x : IntSrc} (hx : x.pending = true) :
    (s.setSrc j x).pends id := by
  unfold State.pends at *
  by_cases h : j = id
  · rwa [h, State.src_setSrc]
  · rwa [State.src_setSrc_other _ _ _ h]

theorem State.pends_rrAssign {s : State} {id : Nat} (hs : s.pends id) (j : Nat) : (s.rrAssign j).pends id := by
  unfold State.rrAssign
  split
  · rename_i h
    simp only [Bool.and_eq_true] at h
    split
    · exact State.pends_of_int (State.setFld_int ..) (State.pends_setSrc hs j h.1.2)
    · exact hs
  · exact hs

theorem State.pends_hostMsg {s : State} {id : Nat} (hs : s.pends id) (before : State) (j : Nat) : (s.hostMsg before j).pends id :=
  State.pends_of_int (State.hostMsg_int ..) hs

/-- A source that is pending stays so through an edge of any source. -/
theorem State.pends_intEdge {s : State} {id : Nat} (hs : s.pends id) (j : Nat) : (s.intEdge j).pends id := by
  unfold State.intEdge
  dsimp only
  split
  · exact hs
  · exact State.pends_hostMsg (State.pends_rrAssign (State.pends_setSrc hs j rfl) j) _ _

/-- After an edge its source is pending. -/
theorem State.intEdge_pends (s : State) (id : Nat) : (s.intEdge id).pends id := by
  unfold State.intEdge
  dsimp only
  split
  · assumption
  · refine State.pends_hostMsg (State.pends_rrAssign ?_ id) _ _
    unfold State.pends
    rw [State.src_setSrc]

theorem State.pends_pinEdge {s : State} {id : Nat} (hs : s.pends id) (before : State) : (s.pinEdge before).pends id := by
  unfold State.pinEdge
  split
  · exact State.pends_intEdge hs _
  · exact hs

theorem State.pends_latchEffects {s : State} {id : Nat} (hs : s.pends id) (c : Nat) : (s.latchEffects c).pends id := by
  unfold State.latchEffects
  refine State.pends_pinEdge ?_ _
  exact State.pends_of_int (s := s) rfl hs

theorem State.pends_collect {s : State} {id : Nat} (hs : s.pends id) (c : Nat) : (s.collect c).pends id :=
  State.pends_latchEffects (State.pends_intEdge (State.pends_of_int (State.count_int ..) hs) _) c

/-- The interrupt of the class is pending once the collector has taken a latch (R369). -/
theorem State.collect_pends (s : State) (c : Nat) : (s.collect c).pends (33 + c) :=
  State.pends_latchEffects (State.intEdge_pends _ _) c

theorem State.pends_latchCore {s : State} {id : Nat} (hs : s.pends id) (src : Src) (i : Nat) : (s.latchCore src i).pends id := by
  have marked : (s.setSticky (pageOf src.blk i) src.bit).pends id := State.pends_of_int (State.setSticky_int ..) hs
  unfold State.latchCore
  dsimp only
  split
  · exact State.pends_collect marked _
  · exact marked

theorem State.pends_logFault {s : State} {id : Nat} (hs : s.pends id) (src : Src) (i c : Nat) : (s.logFault src i c).pends id := by
  have written : ∀ (f : FaultSt) (k : KstSt), State.pends { s with flt := f, kst := k } id := fun _ _ => State.pends_of_int rfl hs
  have counted : ∀ (f : FaultSt) (k : KstSt), (State.count { s with flt := f, kst := k } Reg.FLT_LOG_COUNT).pends id :=
    fun f k => State.pends_of_int (State.count_int ..) (written f k)
  unfold State.logFault
  dsimp only
  split
  · exact State.pends_latchCore (State.pends_latchCore (written _ _) _ _) _ _
  · split
    · exact State.pends_latchCore (counted _ _) _ _
    · exact counted _ _

/-! ### The collector -/

theorem State.fld_pinEdge (s before : State) {f : Fld} (i : Nat) (hf : f.id < 1024) (hm : f.id ≠ Reg.INT_HOST_MSGS.id)
    (hr : f.id ≠ Reg.INT_RR_PTR.id) : (s.pinEdge before).fld f i = s.fld f i := by
  unfold State.pinEdge
  split
  · exact s.fld_intEdge _ i hf hm hr
  · rfl

theorem State.fld_latchEffects (s : State) (c : Nat) {f : Fld} (i : Nat) (hf : f.id < 1024) (hm : f.id ≠ Reg.INT_HOST_MSGS.id)
    (hr : f.id ≠ Reg.INT_RR_PTR.id) : (s.latchEffects c).fld f i = s.fld f i := by
  unfold State.latchEffects
  exact (State.fld_pinEdge _ _ i hf hm hr).trans (State.fld_congr rfl rfl f i)

/-- The collector leaves every register alone but FLT_COUNT and those of an interrupt's edge. -/
theorem State.fld_collect (s : State) (c : Nat) {f : Fld} (i : Nat) (hf : f.id < 1024) (hm : f.id ≠ Reg.INT_HOST_MSGS.id)
    (hr : f.id ≠ Reg.INT_RR_PTR.id) (hc : f.id ≠ Reg.FLT_COUNT.id) : (s.collect c).fld f i = s.fld f i :=
  (State.fld_latchEffects _ c i hf hm hr).trans ((State.fld_intEdge _ _ i hf hm hr).trans
    (State.fld_setFld_other _ _ (Ne.symm hc) (by decide) hf))

/-- The collector counts the latch in its class (R369). -/
theorem State.fld_collect_count (s : State) (c : Nat) :
    (s.collect c).fld Reg.FLT_COUNT c = (s.fld Reg.FLT_COUNT c + 1) % 4294967296 :=
  (State.fld_latchEffects _ c c (by decide) (by decide) (by decide)).trans
    ((State.fld_intEdge _ _ c (by decide) (by decide) (by decide)).trans (State.fld_setFld s Reg.FLT_COUNT c _))

theorem State.logged_latchEffects (s : State) (c : Nat) : (s.latchEffects c).flt.logged = s.flt.logged := by
  unfold State.latchEffects
  dsimp only
  rw [State.pinEdge_flt]
  split <;> rfl

theorem State.logged_collect (s : State) (c : Nat) : (s.collect c).flt.logged = s.flt.logged := by
  unfold State.collect
  rw [State.logged_latchEffects, State.intEdge_flt, State.count_flt]

theorem State.fld_setSticky (s : State) (p b : Nat) {f : Fld} (i : Nat) (hf : f.id < 1024) (hs : f.id ≠ Reg.PG_ERR_STICKY.id) :
    (s.setSticky p b).fld f i = s.fld f i := by
  unfold State.setSticky
  split
  · rfl
  · exact State.fld_setFld_other s _ (Ne.symm hs) (by decide) hf

/-- Setting one sticky bit leaves the others as they are. -/
theorem State.bit_sticky_setSticky (s : State) (p : Nat) {b c : Nat} (hc : c < 32) (h : c ≠ b) :
    bit ((s.setSticky p b).sticky p) c = bit (s.sticky p) c := by
  unfold State.setSticky
  split
  · rfl
  · rename_i clear
    have width : Reg.PG_ERR_STICKY.width = 32 := rfl
    have other : (b == c) = false := by simpa using Ne.symm h
    unfold State.sticky at *
    rw [State.fld_setFld, width, bit_mod _ _ _ hc, bit_add _ _ _ (by simpa using clear), other, Bool.or_false]

/-! ### The three cases of a latch -/

section
variable {s : State} {src : Src} {inst : Nat}

/-- A cause whose sticky bit is set already changes nothing (R366). -/
theorem State.latch_of_latched (h : s.latched src inst = true) : s.latch src inst = s := by
  have h : bit (s.sticky (pageOf src.blk inst)) src.bit = true := h
  have core : s.latchCore src inst = s := by simp [State.latchCore, State.setSticky, h]
  simp [State.latch, core, h]

/-- A source that is not enabled for reporting sets its sticky bit alone (R365). -/
theorem State.latch_of_disabled (h : s.srcEnabled src (pageOf src.blk inst) = false) :
    s.latch src inst = s.setSticky (pageOf src.blk inst) src.bit := by
  simp [State.latch, State.latchCore, h]

/-- The state once the collector has taken a new latch of the source. -/
def State.latchTaken (s : State) (src : Src) (inst : Nat) : State :=
  (s.setSticky (pageOf src.blk inst) src.bit).collect (s.effClass src inst)

/-- A new latch of an enabled source reaches the collector, and the log where its class is C3 or C4 and the winding has not logged it
(R369, R371). -/
theorem State.latch_fresh (hclear : s.latched src inst = false) (hen : s.srcEnabled src (pageOf src.blk inst) = true)
    (hdisarmed : s.fld Reg.PG_ERR_INJECT_COUNT (pageOf Blk.flt 0) = 0) :
    s.latch src inst =
      if 3 ≤ s.effClass src inst ∧ s.flt.logged.contains (pageOf src.blk inst * 32 + src.bit) = false then
        (s.latchTaken src inst).logFault src inst (s.effClass src inst)
      else s.latchTaken src inst := by
  have hclear : bit (s.sticky (pageOf src.blk inst)) src.bit = false := hclear
  have core : s.latchCore src inst = s.latchTaken src inst := by simp [State.latchCore, State.latchTaken, hclear, hen]
  have unarmed : (s.latchTaken src inst).fld Reg.PG_ERR_INJECT_COUNT (pageOf Blk.flt 0) = 0 :=
    core ▸ (State.armed_latchCore s src inst (pageOf Blk.flt 0)).trans hdisarmed
  have checked : (s.latchTaken src inst).collectorCheck = s.latchTaken src inst := by
    have none : (s.latchTaken src inst).takeInject .fltSram = none := State.takeInject_eq_none unarmed
    unfold State.collectorCheck
    rw [none]
  have logged : (s.latchTaken src inst).flt.logged = s.flt.logged := by
    unfold State.latchTaken
    rw [State.logged_collect, State.setSticky_flt]
  unfold State.latch
  simp only [hclear, hen, checked, core, logged, Bool.not_false, Bool.and_true, if_true, Bool.true_and, Bool.and_eq_true,
    decide_eq_true_eq, Bool.not_eq_true']

end

theorem State.eta (s : State) :
    s = ⟨s.variant, s.now, s.freeCtr, s.pending, s.regs, s.hst, s.rng, s.pool, s.int, s.flt, s.mem, s.kst, s.pwr, s.dec, s.clb, s.cnv,
      s.fus, s.mze, s.swc, s.sch, s.plk, s.rgq, s.enc, s.esc, s.rgl, s.dma⟩ := rfl

/-- What a latch may change: registers, the collector, the interrupts, the keeping store and the MSI-X vectors. -/
theorem State.latch_eq (s : State) (src : Src) (inst : Nat) :
    s.latch src inst = { s with
      regs := (s.latch src inst).regs
      flt := (s.latch src inst).flt
      int := (s.latch src inst).int
      kst := (s.latch src inst).kst
      hst := { s.hst with msix := (s.latch src inst).hst.msix } } := by
  conv_lhs => rw [State.eta (s.latch src inst)]
  rw [← State.latch_hst]
  simp only [State.latch_variant, State.latch_now, State.latch_freeCtr, State.latch_pending, State.latch_rng, State.latch_pool,
    State.latch_mem, State.latch_pwr, State.latch_dec, State.latch_clb, State.latch_cnv, State.latch_fus, State.latch_mze,
    State.latch_swc, State.latch_sch, State.latch_plk, State.latch_rgq, State.latch_enc, State.latch_esc, State.latch_rgl,
    State.latch_dma]

/-! ### The keeping store and the log -/

theorem State.latchTaken_kst (s : State) (src : Src) (inst : Nat) : (s.latchTaken src inst).kst = s.kst := by
  simp [State.latchTaken]

/-- A latch in the collector leaves every register alone but sticky bits, FLT_COUNT and those of an interrupt's edge. -/
theorem State.fld_latchTaken (s : State) (src : Src) (inst : Nat) {f : Fld} (i : Nat) (hf : f.id < 1024)
    (hl : f.id ∉ [Reg.PG_ERR_STICKY.id, Reg.FLT_COUNT.id, Reg.INT_HOST_MSGS.id, Reg.INT_RR_PTR.id]) :
    (s.latchTaken src inst).fld f i = s.fld f i := by
  simp only [List.mem_cons, List.not_mem_nil, or_false, not_or] at hl
  obtain ⟨hs, hc, hm, hr⟩ := hl
  exact (State.fld_collect _ _ i hf hm hr hc).trans (State.fld_setSticky s _ _ i hf hs)

theorem State.setSticky_onlyRegs (s : State) (p b : Nat) : s.setSticky p b = { s with regs := (s.setSticky p b).regs } := by
  unfold State.setSticky
  split <;> rfl

/-- A record that the store takes without a warning is written at the log's head, which moves on (R371, R396). -/
theorem State.logFault_written {s : State} {src : Src} {inst c : Nat} (hworn : s.kst.worn (0x40000 + 16 * s.kst.logHead) 16 = false)
    (hwarns : s.kst.warns (0x40000 + 16 * s.kst.logHead) 16 = false) :
    (s.logFault src inst c).kst.mem = s.kst.mem.writeBytes (0x40000 + 16 * s.kst.logHead) (s.logRecord src inst c) ∧
    (s.logFault src inst c).kst.logHead = (s.kst.logHead + 1) % 16384 ∧
    (s.logFault src inst c).fld Reg.FLT_LOG_COUNT = (s.fld Reg.FLT_LOG_COUNT + 1) % 65536 := by
  unfold State.logFault
  dsimp only
  rw [if_neg (by simp [hworn]), if_neg (by simp [hwarns])]
  exact ⟨rfl, rfl, State.fld_setFld _ Reg.FLT_LOG_COUNT 0 _⟩

/-- The record of a source speaks of what a latch in the collector leaves alone. -/
theorem State.logRecord_latchTaken (s : State) (src : Src) (inst : Nat) (x : Src) (i c : Nat) :
    (s.latchTaken src inst).logRecord x i c = s.logRecord x i c := by
  unfold State.logRecord State.frameCount
  rw [State.fld_latchTaken _ _ _ _ (by decide) (by decide), State.fld_latchTaken _ _ _ _ (by decide) (by decide),
    State.latchTaken_kst]

/-! ### The obligation -/

/-- Settles O57: the three cases of a latch, and in the third the record that the log takes. -/
theorem faultsLatchAndCount : Obligations.FaultsLatchAndCount := by
  rintro s src inst c hcls hbit - rfl hdisarmed
  refine ⟨State.latch_of_latched, fun hclear hoff => ⟨State.latched_latch s src inst hbit, ?_⟩, fun hclear hen => ?_⟩
  · rw [State.latch_of_disabled hoff]
    exact State.setSticky_onlyRegs ..
  have fresh := State.latch_fresh hclear hen hdisarmed
  refine ⟨State.latched_latch s src inst hbit, ?_, fun hlow => ?_, fun hhigh hlogged hworn hwarns => ?_, State.latch_eq s src inst⟩
  · rw [fresh]
    split
    · exact State.pends_logFault (State.collect_pends _ _) _ _ _
    · exact State.collect_pends _ _
  · rw [fresh, if_neg (by omega)]
    refine ⟨?_, State.latchTaken_kst .., fun b hb hne => ?_⟩
    · exact (State.fld_collect_count _ _).trans (by rw [State.fld_setSticky _ _ _ _ (by decide) (by decide)])
    · exact (congrArg (bit · b) (State.fld_collect _ _ _ (by decide) (by decide) (by decide) (by decide))).trans
        (State.bit_sticky_setSticky s _ hb hne)
  · rw [fresh, if_pos ⟨hhigh, hlogged⟩]
    have kst := s.latchTaken_kst src inst
    obtain ⟨mem, head, count⟩ := State.logFault_written (s := s.latchTaken src inst) (src := src) (inst := inst)
      (c := s.effClass src inst) (by rwa [kst]) (by rwa [kst])
    rw [kst] at mem head
    rw [State.logRecord_latchTaken] at mem
    rw [State.fld_latchTaken _ _ _ _ (by decide) (by decide)] at count
    exact ⟨mem, head, count⟩

end Sys2Proof.Machine
end

section
/-! PROOFS. The header registers of a page: PG_ERR_CLASS, PG_ERR_STICKY, PG_ERR_ENABLE and PG_ERR_INJECT, and the end of a FAULT_N
pulse (18_faults_and_self_test.md R364 to R367, R370, R372, R373). -/

namespace Sys2Proof.Machine

/-! ### Bits of words -/

theorem bit_eq_testBit (v i : Nat) : bit v i = v.testBit i := by
  rw [Nat.testBit_eq_decide_div_mod_eq, bit, beq_eq_decide]

theorem bit_and (a b i : Nat) : bit (a &&& b) i = (bit a i && bit b i) := by
  simp only [bit_eq_testBit, Nat.testBit_and]

theorem bit_or (a b i : Nat) : bit (a ||| b) i = (bit a i || bit b i) := by
  simp only [bit_eq_testBit, Nat.testBit_or]

/-- The complement of a mask within a word. -/
theorem bit_word_xor (a : Nat) {i : Nat} (h : i < 32) : bit (0xFFFFFFFF ^^^ a) i = !bit a i := by
  rw [bit_eq_testBit, bit_eq_testBit, Nat.testBit_xor, show (0xFFFFFFFF : Nat) = 2 ^ 32 - 1 from rfl, Nat.testBit_two_pow_sub_one]
  simp [h]

theorem bit_two_pow (b i : Nat) : bit (2 ^ b) i = decide (b = i) := by
  rw [bit_eq_testBit, Nat.testBit_two_pow]

/-! ### PG_ERR_CLASS (R364) -/

/-- The fields of sources other than C4 take their bits of the value, those of C4 sources stay. -/
theorem State.fld_errClass (s : State) (blk inst v : Nat) {k : Nat} (hk : k < 16) :
    (s.errClass blk inst v).fld Reg.PG_ERR_CLASS_RAISE (pageOf blk inst * 16 + k) =
      if bit (Src.c4Mask blk) (k + 8) then s.fld Reg.PG_ERR_CLASS_RAISE (pageOf blk inst * 16 + k)
      else bits v (2 * k + 1) (2 * k) := by
  have other (t : State) {j : Nat} (h : j ≠ k) (x : Nat) :
      (t.setFld Reg.PG_ERR_CLASS_RAISE (pageOf blk inst * 16 + j) x).fld Reg.PG_ERR_CLASS_RAISE (pageOf blk inst * 16 + k) =
        t.fld Reg.PG_ERR_CLASS_RAISE (pageOf blk inst * 16 + k) :=
    State.fld_setFld_index t _ x (by omega)
  unfold State.errClass
  split
  · rename_i hc4
    refine List.foldlRecOn (motive := fun t : State => t.fld Reg.PG_ERR_CLASS_RAISE (pageOf blk inst * 16 + k) =
      s.fld Reg.PG_ERR_CLASS_RAISE (pageOf blk inst * 16 + k)) _ _ rfl fun t ht j hj => ?_
    have hne : j ≠ k := by
      rintro rfl
      simp [hc4] at hj
    exact (other t hne _).trans ht
  · rename_i hc4
    have written (t : State) : (t.setFld Reg.PG_ERR_CLASS_RAISE (pageOf blk inst * 16 + k) (bits v (2 * k + 1) (2 * k))).fld
        Reg.PG_ERR_CLASS_RAISE (pageOf blk inst * 16 + k) = bits v (2 * k + 1) (2 * k) := by
      rw [State.fld_setFld, bits, show 2 * k + 1 + 1 - 2 * k = 2 by omega, show Reg.PG_ERR_CLASS_RAISE.width = 2 from rfl,
        Nat.mod_mod]
    refine foldl_establishes (I := fun _ => True)
      (P := fun t => t.fld Reg.PG_ERR_CLASS_RAISE (pageOf blk inst * 16 + k) = bits v (2 * k + 1) (2 * k)) (a := k) ?_ trivial (fun _ _ _ _ => trivial) (fun t _ => written t)
      fun t _ ht j _ => ?_
    · simpa [hk] using hc4
    · by_cases hj : j = k
      · rw [hj, written]
      · exact (other t hj _).trans ht

/-- The word of PG_ERR_CLASS has a field in every page. -/
theorem fieldsAt_errClass (blk inst : Nat) : (Reg.PG_ERR_CLASS_RAISE, 0) ∈ fieldsAt blk inst 0x020 :=
  List.mem_filterMap.2 ⟨Reg.PG_ERR_CLASS_RAISE, List.mem_append_left _ (by decide), rfl⟩

theorem State.wordFields_errClass (s : State) (blk inst : Nat) : s.wordFields blk inst 0x020 ≠ [] := by
  have present : (reservedWord blk inst 0x020 || absentWord s.variant blk 0x020) = false := by
    simp [reservedWord, absentWord]
  unfold State.wordFields
  rw [present]
  exact List.ne_nil_of_mem (List.mem_filter.2 ⟨fieldsAt_errClass blk inst, rfl⟩)

theorem State.disarm_variant (s : State) (blk : Nat) : (s.disarm blk).variant = s.variant := by
  unfold State.disarm
  split <;> rfl

theorem State.disarm_regs (s : State) (blk : Nat) : (s.disarm blk).regs = s.regs := by
  unfold State.disarm
  split <;> rfl

theorem State.fld_disarm (s : State) (blk : Nat) (f : Fld) (i : Nat) : (s.disarm blk).fld f i = s.fld f i :=
  State.fld_congr (s.disarm_variant blk) (s.disarm_regs blk) f i

/-- A host write of PG_ERR_CLASS, with no injection armed in the page, sets the classes after the check of its reserved bits. -/
theorem exec_errClassWrite {s : State} {p blk inst : Nat} (v : Word) (hc : s.pwr.clocksStopped = false) (hr : s.hostReaches = true)
    (hp : p < 16368) (hown : pageOwner s.variant p = some (blk, inst)) (hinj : s.fld Reg.PG_ERR_INJECT_COUNT p = 0) :
    exec (.registerWrite .host (p * 4096 + 0x020) v) s =
      .next (((s.disarm blk).rsvCheck blk inst v.toNat ((s.disarm blk).wordFields blk inst 0x020)).errClass blk inst v.toNat) := by
  obtain ⟨-, -, hpage⟩ := pageOwner_some hown
  have disarmed : (s.disarm blk).fld Reg.PG_ERR_INJECT_COUNT (pageOf blk inst) = 0 := by rw [State.fld_disarm, hpage, hinj]
  rw [exec_hostWrite hc, State.hostRegWrite_page hr hp (by decide) (by decide)]
  unfold State.pageWrite
  rw [hown]
  dsimp only
  rw [if_neg (by simp)]
  unfold State.wordWrite
  rw [State.underParity_of_disarmed disarmed, if_neg (by simpa using State.wordFields_errClass _ blk inst)]
  rfl

/-- Settles O58: `State.fld_errClass` for the write; the effective class by the cases of its definition. -/
theorem classesAreRaised : Obligations.ClassesAreRaised := by
  refine fun s => ⟨fun p blk inst v hc hr hp hown hinj => ⟨_, exec_errClassWrite v hc hr hp hown hinj, fun b hlo hhi => ?_⟩,
    fun src inst r hcls hraise => ⟨fun hb8 hb23 hc4 => ⟨fun hsame => ?_, fun hup => ?_⟩, fun hfixed => if_pos hfixed, ?_⟩,
    fun i _ => State.fld_reset _ i⟩
  · obtain ⟨-, -, hpage⟩ := pageOwner_some hown
    obtain ⟨k, rfl⟩ : ∃ k, b = k + 8 := ⟨b - 8, by omega⟩
    rw [← hpage, Nat.add_sub_cancel, State.fld_errClass _ _ _ _ (by omega), State.fld_rsvCheck _ _ _ _ _ _ (by decide) (by decide),
      State.fld_disarm, show 2 * (k + 8) - 15 = 2 * k + 1 by omega, show 2 * (k + 8) - 16 = 2 * k by omega]
  all_goals
    unfold State.effClass
    dsimp only
    rw [← hraise]
  · rw [if_neg (by omega)]
    split <;> omega
  · rw [if_neg (by omega), if_neg (by omega)]
  · split
    · exact Nat.le_refl _
    · split <;> omega

/-! ### Writes that reach the page of the collector as well -/

/-- A register write that reaches its page and sets no reserved bit does what its register does, after test unlock has been disarmed
in the page of the collector. -/
theorem Runs.of_onPage {c : Instr} {s t : State} {p blk inst rsv : Nat} {f : State → Nat → Nat → State} {P : State → Prop}
    (hexec : exec c s = s.run fun s => s.onPage p rsv f) (hc : s.pwr.clocksStopped = false)
    (hown : pageOwner s.variant p = some (blk, inst)) (hopen : s.pageOpen blk inst = true) (hrsv : rsv = 0)
    (ht : f (s.disarm blk) blk inst = t) (h : P t) : Runs c s P := by
  simp only [State.pageOpen, Bool.and_eq_true, Option.isNone_iff_eq_none] at hopen
  obtain ⟨⟨hreach, hpage⟩, hpar⟩ := hopen
  have unarmed : (s.disarm blk).takeInject (.regParity blk) inst = none :=
    Option.isNone_iff_eq_none.1 ((State.takeInject_isNone_congr (s.disarm_variant blk) (s.disarm_regs blk) _ _).trans (by rw [hpar]; rfl))
  refine Runs.of_run hexec hc ?_ h
  unfold State.onPage State.onInst State.underParity
  rw [if_neg (by simp [hreach]), hown]
  dsimp only
  rw [if_pos hpage, unarmed]
  simpa [hrsv] using ht

end Sys2Proof.Machine
end

section
/-! PROOFS. Sticky bits, reporting and injection of a page (18_faults_and_self_test.md R362, R365 to R367, R370, R372, R373). -/

namespace Sys2Proof.Machine

/-! ### PG_ERR_STICKY (R366, R367) -/

theorem State.stuck_relatch {s : State} {q b : Nat} (h : s.stuck q b) (hb : b < 32) (blk inst mask : Nat) (keys : List Nat) :
    (s.relatch blk inst mask keys).stuck q b := by
  induction keys generalizing s with
  | nil => exact h
  | cons key keys ih =>
    unfold State.relatch
    dsimp only
    split
    · exact ih (State.stuck_latch h hb _ _)
    · exact ih h

/-- Every source of the page that the mask names and whose cause is present is latched again. -/
theorem State.relatch_stuck (s : State) {blk inst mask b : Nat} {keys : List Nat} (hb : b < 32) (hmask : bit mask b = true)
    (hkey : pageOf blk inst * 32 + b ∈ keys) : (s.relatch blk inst mask keys).stuck (pageOf blk inst) b := by
  induction keys generalizing s with
  | nil => cases hkey
  | cons key keys ih =>
    unfold State.relatch
    rcases List.mem_cons.1 hkey with rfl | hkey
    · have hbit : (pageOf blk inst * 32 + b) % 32 = b := by omega
      dsimp only
      rw [hbit, if_pos ⟨by omega, hmask⟩]
      exact State.stuck_relatch (State.latched_latch s (srcAt blk b) inst hb) hb ..
    · exact ih _ hkey

section
variable (s : State) (blk inst v : Nat)

/-- The sticky bits of the page that a W1C write of `v` leaves: those of C4 sources stay. -/
def State.afterW1c : Nat :=
  s.sticky (pageOf blk inst) &&& (0xFFFFFFFF ^^^ (v &&& (0xFFFFFFFF ^^^ Src.c4Mask blk)))

theorem State.stickyW1c_eq : s.stickyW1c blk inst v =
    (s.setFld Reg.PG_ERR_STICKY (pageOf blk inst) (s.afterW1c blk inst v)).relatch blk inst (v &&& (0xFFFFFFFF ^^^ Src.c4Mask blk))
      s.flt.present := rfl

/-- A present cause sets its bit again (R366). -/
theorem State.stickyW1c_present {b : Nat} (hb : b < 32) (hv : bit v b = true) (hc4 : bit (Src.c4Mask blk) b = false)
    (hcause : pageOf blk inst * 32 + b ∈ s.flt.present) : (s.stickyW1c blk inst v).stuck (pageOf blk inst) b := by
  rw [State.stickyW1c_eq]
  exact State.relatch_stuck _ hb (by rw [bit_and, bit_word_xor _ hb, hv, hc4]; rfl) hcause

/-- The bits of C4 sources, and those that the value does not name, stay (R367). -/
theorem State.stickyW1c_stays {b : Nat} (hb : b < 32) (hstay : bit (Src.c4Mask blk) b = true ∨ bit v b = false)
    (hset : s.stuck (pageOf blk inst) b) : (s.stickyW1c blk inst v).stuck (pageOf blk inst) b := by
  rw [State.stickyW1c_eq]
  refine State.stuck_relatch ?_ hb ..
  have hset : bit (s.sticky (pageOf blk inst)) b = true := hset
  unfold State.stuck State.sticky
  rw [State.fld_setFld, show Reg.PG_ERR_STICKY.width = 32 from rfl, bit_mod _ _ _ hb, State.afterW1c, bit_and, bit_word_xor _ hb,
    bit_and, bit_word_xor _ hb, hset]
  rcases hstay with h | h <;> simp [h]

end

/-! ### PG_ERR_ENABLE (R365) -/

section
variable {s : State} {blk inst old new : Nat}

/-- Where no set sticky bit becomes enabled, nothing counts as a latch. -/
theorem State.enableLatches_none {bs : List Nat}
    (h : ∀ b ∈ bs, (bit new b && !(bit old b) && bit (s.sticky (pageOf blk inst)) b) = false) :
    s.enableLatches blk inst old new bs = s := by
  induction bs with
  | nil => rfl
  | cons b bs ih =>
    unfold State.enableLatches
    dsimp only
    rw [h b (List.mem_cons_self ..), if_neg Bool.false_ne_true]
    exact ih fun c hc => h c (List.mem_cons_of_mem _ hc)

theorem State.enableLatches_append (as bs : List Nat) :
    s.enableLatches blk inst old new (as ++ bs) = (s.enableLatches blk inst old new as).enableLatches blk inst old new bs := by
  induction as generalizing s with
  | nil => rfl
  | cons a as ih => exact ih

/-- A set sticky bit of a class below C3 that becomes enabled alone reaches the collector. -/
theorem State.enableLatches_one {b : Nat} (hb : b < 32) (hnew : bit new b = true) (hold : bit old b = false)
    (hset : bit (s.sticky (pageOf blk inst)) b = true) (hlow : s.effClass (srcAt blk b) inst < 3)
    (hothers : ∀ c, c ≠ b → bit new c = true → bit old c = true) :
    s.enableLatches blk inst old new (List.range 32) = s.collect (s.effClass (srcAt blk b) inst) := by
  have skip (t : State) {bs : List Nat} (hbs : b ∉ bs) : t.enableLatches blk inst old new bs = t :=
    State.enableLatches_none fun c hc => by
      cases hn : bit new c with
      | false => simp
      | true => simp [hothers c (fun e => hbs (e ▸ hc)) hn]
  obtain ⟨as, bs, hsplit⟩ := List.append_of_mem (List.mem_range.2 hb)
  have hnodup : (as ++ b :: bs).Nodup := hsplit ▸ List.nodup_range
  have has : b ∉ as := fun h => (List.nodup_append.1 hnodup).2.2 b h b (List.mem_cons_self ..) rfl
  have hbs : b ∉ bs := (List.nodup_cons.1 (List.nodup_append.1 hnodup).2.1).1
  rw [hsplit, State.enableLatches_append, skip s has]
  unfold State.enableLatches
  simp only [hnew, hold, hset, Bool.not_false, Bool.and_self, if_true, Nat.not_le.2 hlow, decide_false, Bool.false_and]
  exact skip _ hbs

theorem State.sameFld_enableLatches (bs : List Nat) : SameFld s (s.enableLatches blk inst old new bs) := by
  induction bs generalizing s with
  | nil => exact SameFld.refl s
  | cons b bs ih =>
    unfold State.enableLatches
    dsimp only
    split
    · split
      · exact (sameFld_logFault (sameFld_collect (SameFld.refl s) _) _ _ _).trans ih
      · exact (sameFld_collect (SameFld.refl s) _).trans ih
    · exact ih

end

/-- The register takes the value, C4 bits 1. -/
theorem State.bit_enable_errEnable (s : State) (blk inst v : Nat) {b : Nat} (hb : b < 32) :
    bit ((s.errEnable blk inst v).fld Reg.PG_ERR_ENABLE (pageOf blk inst)) b = (bit v b || bit (Src.c4Mask blk) b) := by
  unfold State.errEnable
  rw [State.sameFld_enableLatches _ |>.same _ _ (by decide) (by decide), State.fld_setFld, show Reg.PG_ERR_ENABLE.width = 32 from rfl,
    bit_mod _ _ _ hb, bit_or]

theorem State.sticky_setFld (s : State) {f : Fld} (i v p : Nat) (hf : f.id < 1024) (hs : f.id ≠ Reg.PG_ERR_STICKY.id) :
    (s.setFld f i v).sticky p = s.sticky p :=
  State.fld_setFld_other s v hs hf (by decide)

/-- Where no set sticky bit becomes enabled nothing else changes. -/
theorem State.errEnable_quiet {s : State} {blk inst v : Nat}
    (h : ∀ b, b < 32 → bit v b = true → bit (s.fld Reg.PG_ERR_ENABLE (pageOf blk inst)) b = true ∨ bit (Src.c4Mask blk) b = true ∨
      bit (s.sticky (pageOf blk inst)) b = false) :
    s.errEnable blk inst v = s.setFld Reg.PG_ERR_ENABLE (pageOf blk inst) (v ||| Src.c4Mask blk) := by
  refine State.enableLatches_none fun b hb => ?_
  rw [State.sticky_setFld _ _ _ _ (by decide) (by decide), bit_or, bit_or]
  cases hc4 : bit (Src.c4Mask blk) b with
  | true => simp
  | false =>
    cases hv : bit v b with
    | false => simp
    | true =>
      rcases h b (List.mem_range.1 hb) hv with h | h | h
      · simp [h]
      · simp [hc4] at h
      · simp [h]

theorem State.effClass_congr {s t : State} {src : Src} {inst : Nat} (h : SameFld s t) : t.effClass src inst = s.effClass src inst := by
  unfold State.effClass
  rw [h.same _ _ (by decide) (by decide)]

/-- A set sticky bit that becomes enabled counts as a latch of its class (R365). -/
theorem State.errEnable_one {s : State} {blk inst b : Nat} (hb : b < 32)
    (hoff : bit (s.fld Reg.PG_ERR_ENABLE (pageOf blk inst)) b = false) (hc4 : bit (Src.c4Mask blk) b = false)
    (hset : bit (s.sticky (pageOf blk inst)) b = true) (hlow : s.effClass (srcAt blk b) inst < 3) :
    s.errEnable blk inst (2 ^ b) =
      (s.setFld Reg.PG_ERR_ENABLE (pageOf blk inst) (2 ^ b ||| Src.c4Mask blk)).collect (s.effClass (srcAt blk b) inst) := by
  have cls : (s.setFld Reg.PG_ERR_ENABLE (pageOf blk inst) (2 ^ b ||| Src.c4Mask blk)).effClass (srcAt blk b) inst =
      s.effClass (srcAt blk b) inst := by
    unfold State.effClass
    rw [State.fld_setFld_other _ _ (by decide) (by decide) (by decide)]
  unfold State.errEnable
  dsimp only
  rw [State.enableLatches_one hb (by simp [bit_or, bit_two_pow]) (by simp [bit_or, hoff, hc4])
    (by rwa [State.sticky_setFld _ _ _ _ (by decide) (by decide)]) (by rwa [cls]), cls]
  intro c hc h
  rw [bit_or, bit_two_pow, decide_eq_false (Ne.symm hc), Bool.false_or] at h
  rw [bit_or, h, Bool.or_true]

/-! ### PG_ERR_INJECT (R372, R373) -/

/-- The three fields of PG_ERR_INJECT take their bits of the value. -/
def State.injectFields (s : State) (page v : Nat) : State :=
  ((s.setFld Reg.PG_ERR_INJECT_COUNT page (bits v 7 0)).setFld Reg.PG_ERR_INJECT_SOURCE page (bits v 12 8)).setFld
    Reg.PG_ERR_INJECT_DOUBLE page (bits v 13 13)

theorem State.injectFields_parts (s : State) (page v : Nat) :
    (s.injectFields page v).fld Reg.PG_ERR_INJECT_COUNT page = bits v 7 0 ∧
    (s.injectFields page v).fld Reg.PG_ERR_INJECT_SOURCE page = bits v 12 8 ∧
    (s.injectFields page v).fld Reg.PG_ERR_INJECT_DOUBLE page = bits v 13 13 ∧
    s.injectFields page v = { s with regs := (s.injectFields page v).regs } := by
  have count : bits v 7 0 % 2 ^ 8 = bits v 7 0 := Nat.mod_mod _ _
  have source : bits v 12 8 % 2 ^ 5 = bits v 12 8 := Nat.mod_mod _ _
  have double : bits v 13 13 % 2 ^ 1 = bits v 13 13 := Nat.mod_mod _ _
  unfold State.injectFields
  refine ⟨?_, ?_, ?_, rfl⟩
  · rw [State.fld_setFld_other _ _ (by decide) (by decide) (by decide), State.fld_setFld_other _ _ (by decide) (by decide) (by decide),
      State.fld_setFld]
    exact count
  · rw [State.fld_setFld_other _ _ (by decide) (by decide) (by decide), State.fld_setFld]
    exact source
  · rw [State.fld_setFld]
    exact double

section
variable {s : State} {blk inst v : Nat}

theorem State.errInject_disarm (h : bits v 7 0 = 0) : s.errInject blk inst v = s.injectFields (pageOf blk inst) v := if_pos h

theorem State.errInject_unchecked (h : bits v 7 0 ≠ 0) (hsrc : (srcAt blk (bits v 12 8)).hasChecker = false) :
    s.errInject blk inst v = s := by
  simp [State.errInject, h, hsrc]

theorem State.errInject_locked (h : bits v 7 0 ≠ 0) (hsrc : (srcAt blk (bits v 12 8)).hasChecker = true)
    (hpriv : (srcAt blk (bits v 12 8)).privileged = true) (hlock : s.flt.unlocked = false) :
    s.errInject blk inst v = s.latch .fltInject := by
  simp [State.errInject, h, hsrc, hpriv, hlock]

theorem State.errInject_arm (h : bits v 7 0 ≠ 0) (hsrc : (srcAt blk (bits v 12 8)).hasChecker = true)
    (hfree : (srcAt blk (bits v 12 8)).privileged = false ∨ s.flt.unlocked = true) :
    s.errInject blk inst v = s.injectFields (pageOf blk inst) v := by
  rcases hfree with h' | h' <;> simp [State.errInject, State.injectFields, h, hsrc, h']

end

/-- The privileged checkers lie outside the page of the collector. -/
theorem privileged_blk {blk b : Nat} (h : (srcAt blk b).privileged = true) : blk ≠ Blk.flt := by
  rintro rfl
  simp [Src.privileged, srcAt, Src.kstEcc, Src.kstUe, Src.fusCapcmp] at h

theorem pageOwner_flt (v : Variant) : pageOwner v (pageOf Blk.flt 0) = some (Blk.flt, 0) := by
  cases v <;> decide

/-! ### The end of a pulse (R370) -/

theorem runs_faultNPulseEnd {s : State} (hc : s.pwr.clocksStopped = false) :
    (s.flt.pulseAt + 10 * Clk.us ≤ s.now → Runs .faultNPulseEnd s fun t => t = { s with flt := { s.flt with pulse := false } }) ∧
    (s.now < s.flt.pulseAt + 10 * Clk.us → Runs .faultNPulseEnd s fun t => t = s) := by
  have runs : exec .faultNPulseEnd s =
      .next (if s.now < s.flt.pulseAt + 10 * Clk.us then s else { s with flt := { s.flt with pulse := false } }) :=
    State.run_of_clocked hc fun s =>
      if s.now < s.flt.pulseAt + 10 * Clk.us then s else { s with flt := { s.flt with pulse := false } }
  exact ⟨fun h => ⟨_, runs, if_neg (Nat.not_lt.2 h)⟩, fun h => ⟨_, runs, if_pos h⟩⟩

/-- Settles O49: what each of the three registers does in the case that its clause names, on the state in which a write has disarmed
test unlock. -/
theorem stickyEnableAndInject : Obligations.StickyEnableAndInject := by
  intro s p blk inst v hc hown hopen
  obtain ⟨-, -, rfl⟩ := pageOwner_some hown
  have unarmed (f : Fld) : (s.disarm blk).fld f (pageOf blk inst) = s.fld f (pageOf blk inst) := s.fld_disarm ..
  have present : (s.disarm blk).flt.present = s.flt.present := by
    unfold State.disarm
    split <;> rfl
  have locks : (s.disarm blk).flt.unlocked = s.flt.unlocked := by
    unfold State.disarm
    split <;> rfl
  have cls (src : Src) : (s.disarm blk).effClass src inst = s.effClass src inst :=
    State.effClass_congr (.of_regs (s.disarm_variant blk) (s.disarm_regs blk))
  refine ⟨fun hnone => ?_, ?_, ?_, fun h0 hrsv => ?_, fun h0 hrsv => ⟨fun hsrc => ?_, fun hsrc hpriv hlock => ?_, fun hsrc hfree => ?_⟩,
    runs_faultNPulseEnd hc⟩
  · refine Runs.of_onPage rfl hc hown hopen rfl ?_ rfl
    rw [State.stickyW1c_eq, present, hnone]
    exact congrArg (fun x => (s.disarm blk).setFld Reg.PG_ERR_STICKY (pageOf blk inst)
      (x &&& (0xFFFFFFFF ^^^ (v.toNat &&& (0xFFFFFFFF ^^^ Src.c4Mask blk))))) (unarmed Reg.PG_ERR_STICKY)
  · exact Runs.of_onPage rfl hc hown hopen rfl rfl
      ⟨fun b hb hv hc4 hcause => State.stickyW1c_present _ _ _ _ hb hv hc4 (present ▸ hcause),
        fun b hb hstay hset => State.stickyW1c_stays _ _ _ _ hb hstay ((congrArg (bit · b) (unarmed Reg.PG_ERR_STICKY)).trans hset)⟩
  · refine Runs.of_onPage rfl hc hown hopen rfl rfl ⟨fun b hb => State.bit_enable_errEnable _ _ _ _ hb, fun hquiet => ?_,
      fun b hb hv hoff hc4 hset hlow => ?_⟩
    · exact State.errEnable_quiet fun b hb hv => by
        simpa only [State.sticky, unarmed] using hquiet b hb hv
    · rw [hv, State.errEnable_one hb (by rwa [unarmed]) hc4 ((congrArg (bit · b) (unarmed Reg.PG_ERR_STICKY)).trans hset) (by rwa [cls]), cls]
      refine ⟨?_, State.collect_pends _ _⟩
      rw [State.fld_collect_count, State.fld_setFld_other _ _ (by decide) (by decide) (by decide), State.fld_disarm]
  · obtain ⟨count, source, double, only⟩ := (s.disarm blk).injectFields_parts (pageOf blk inst) v.toNat
    exact Runs.of_onPage rfl hc hown hopen (Nat.div_eq_of_lt hrsv) (State.errInject_disarm h0) ⟨count.trans h0, source, double, only⟩
  · exact Runs.of_onPage rfl hc hown hopen (Nat.div_eq_of_lt hrsv) (State.errInject_unchecked h0 hsrc) rfl
  · refine Runs.of_onPage rfl hc hown hopen (Nat.div_eq_of_lt hrsv) (State.errInject_locked h0 hsrc hpriv (locks.trans hlock))
      ⟨State.latched_latch _ .fltInject 0 (by decide), ?_⟩
    have hpage : pageOf blk inst ≠ pageOf Blk.flt 0 := by
      intro he
      rw [he, pageOwner_flt] at hown
      exact privileged_blk hpriv (congrArg Prod.fst (Option.some.inj hown)).symm
    exact (State.armed_latch _ hpage .fltInject 0).trans (unarmed _)
  · obtain ⟨count, source, double, only⟩ := (s.disarm blk).injectFields_parts (pageOf blk inst) v.toNat
    exact Runs.of_onPage rfl hc hown hopen (Nat.div_eq_of_lt hrsv) (State.errInject_arm h0 hsrc (locks ▸ hfree))
      ⟨count, source, double, only⟩

end Sys2Proof.Machine
end

section
/-! PROOFS. Test unlock and the scan port (18_faults_and_self_test.md R374 to R376, Table 18.4; 22_electrical_and_package.md R432). -/

namespace Sys2Proof.Machine

section
variable {s : State} {key : Nat}

/-! ### Keys (Table 18.4) -/

theorem State.unlockKey_unheld (h : s.flt.testHeld = false) : s.unlockKey key = s.latch .fltInject := if_pos (by simp [h])

theorem State.unlockKey_arms (hheld : s.flt.testHeld = true) (harmed : s.flt.armed = false) (hkey : key = 0x7E57) :
    s.unlockKey key = { s with flt := { s.flt with armed := true, armedAt := s.now } } := by
  simp [State.unlockKey, hheld, harmed, hkey]

theorem State.unlockKey_ignored (hheld : s.flt.testHeld = true) (harmed : s.flt.armed = false) (hkey : key ≠ 0x7E57) :
    s.unlockKey key = s := by
  simp [State.unlockKey, hheld, harmed, hkey]

/-- The keys cleared and test unlock UNLOCKED. -/
def State.testUnlocked (s : State) : State :=
  { s.clearKeys.setFld Reg.HST_LINK_STATUS_IDE_ACTIVE 0 0 with flt := { s.flt with armed := false, unlocked := true } }

theorem State.unlockKey_unlocks (hheld : s.flt.testHeld = true) (harmed : s.flt.armed = true) (hkey : key = 0x81A8)
    (htime : s.now ≤ s.flt.armedAt + 100 * Clk.us) : s.unlockKey key = s.testUnlocked := by
  unfold State.unlockKey
  rw [if_neg (by simp [hheld]), if_pos harmed, if_pos ⟨hkey, by simpa using htime⟩]
  rfl

theorem State.unlockKey_disarms (hheld : s.flt.testHeld = true) (harmed : s.flt.armed = true)
    (h : key ≠ 0x81A8 ∨ s.flt.armedAt + 100 * Clk.us < s.now) :
    s.unlockKey key = { s with flt := { s.flt with armed := false } } := by
  unfold State.unlockKey
  rw [if_neg (by simp [hheld]), if_pos harmed, if_neg]
  rintro ⟨hkey, htime⟩
  rcases h with h | h
  · exact h hkey
  · exact absurd (of_decide_eq_true htime) (Nat.not_le.2 h)

end

/-- A key write that reaches the page and sets no reserved bit is that of its key. -/
theorem State.unlockWrite_open {s : State} (hopen : s.pageOpen Blk.flt 0 = true) {v : Nat} (hv : v < 65536) :
    s.unlockWrite v = s.unlockKey (bits v 15 0) := by
  simp only [State.pageOpen, Bool.and_eq_true, Option.isNone_iff_eq_none] at hopen
  obtain ⟨⟨hreach, -⟩, hpar⟩ := hopen
  unfold State.unlockWrite State.underParity
  rw [if_neg (by simp [hreach]), hpar]
  dsimp only
  rw [Nat.div_eq_of_lt (show v < 2 ^ 16 from hv), if_pos rfl]

theorem Runs.of_key {c : Instr} {s t : State} {v : Word} {P : State → Prop} (hexec : exec c s = s.run fun s => s.unlockWrite v.toNat)
    (hc : s.pwr.clocksStopped = false) (hopen : s.pageOpen Blk.flt 0 = true) (hv : v.toNat < 65536)
    (ht : s.unlockKey (bits v.toNat 15 0) = t) (h : P t) : Runs c s P :=
  Runs.of_run hexec hc ((State.unlockWrite_open hopen hv).trans ht) h

/-! ### Instructions of the scan port (R376, R432) -/

theorem jtagActs_eq {c : Nat} (hc : c < 256) (unlocked : Bool) :
    jtagActs unlocked c = if c ≤ 4 ∨ (0x80 ≤ c ∧ c ≤ 0xFE ∧ unlocked = true) then c else 0xFF := by
  unfold jtagActs
  rw [Nat.mod_eq_of_lt hc]
  by_cases h : c ≤ 4
  · simp [h]
  · simp [h, and_assoc]

/-- IDCODE is in force under its own code alone. -/
theorem jtagActs_eq_two {c : Nat} (hc : c < 256) (unlocked : Bool) : jtagActs unlocked c = 2 ↔ c = 2 := by
  rw [jtagActs_eq hc]
  split <;> omega

/-- Settles O50: a key write by the five cases of `State.unlockKey`, an instruction by `jtagActs_eq`. -/
theorem testUnlockAndScan : Obligations.TestUnlockAndScan := by
  refine fun s v => ⟨fun hc => ⟨fun hopen hv hheld => ?_, fun hopen hv hheld => ⟨fun harmed => ⟨fun hkey => ?_, fun hkey => ?_⟩,
    fun harmed => ⟨fun hkey htime => ?_, fun hbad => ?_⟩⟩, Runs.of_run (f := fun s => { s with flt := { s.flt with armed := false } }) rfl hc rfl rfl⟩, fun c hc => ⟨_, rfl, ?_⟩⟩
  · have refused := State.unlockKey_unheld (key := bits v.toNat 15 0) hheld
    have latched := State.latched_latch s .fltInject 0 (by decide)
    exact ⟨Runs.of_key rfl hc hopen hv refused ⟨rfl, latched⟩, Runs.of_key rfl hc hopen hv refused ⟨rfl, latched⟩⟩
  · exact Runs.of_key rfl hc hopen hv (State.unlockKey_arms hheld harmed hkey) rfl
  · exact Runs.of_key rfl hc hopen hv (State.unlockKey_ignored hheld harmed hkey) rfl
  · refine Runs.of_key rfl hc hopen hv (State.unlockKey_unlocks hheld harmed hkey htime) ⟨rfl, rfl, rfl, fun hide => ?_, ?_, rfl⟩
    · show (s.hst.ideInsecure || s.flag Reg.HST_LINK_STATUS_IDE_ACTIVE) = true
      rw [hide, Bool.or_true]
    · exact State.fld_setFld s.clearKeys Reg.HST_LINK_STATUS_IDE_ACTIVE 0 0
  · exact Runs.of_key rfl hc hopen hv (State.unlockKey_disarms hheld harmed hbad) rfl
  · have capture : jtagCapture s.variant (jtagActs s.flt.unlocked c) = if c = 2 then idcode s.variant else 0 := by
      unfold jtagCapture
      simp only [jtagActs_eq_two hc]
    unfold State.jtagSet
    rw [capture, jtagActs_eq hc]

end Sys2Proof.Machine
end

section
/-! PROOFS. Edges, software sets and clears of interrupt sources (17_interrupts.md R351, R352, Tables 17.1 and 17.6). -/

namespace Sys2Proof.Machine

/-! ### Shared sources (R351) -/

theorem sharedId_iff {id : Nat} : sharedId id = true ↔ 33 ≤ id ∧ id ≤ 1022 := by
  simp [sharedId]

theorem State.src_of_int {s t : State} (h : t.int = s.int) (k : Nat) : t.src k = s.src k := by
  unfold State.src
  rw [h]

theorem State.tgt_of_int {s t : State} (h : t.int.tgt = s.int.tgt) (g : Nat) : t.tgt g = s.tgt g := by
  unfold State.tgt
  rw [h]

/-- `t` differs from `s` in no interrupt source but `id`, whose line is the same, and in no target. -/
structure OnlySource (id : Nat) (s t : State) : Prop where
  others : ∀ k, k ≠ id → t.src k = s.src k
  line : (t.src id).line = (s.src id).line
  targets : t.int.tgt = s.int.tgt

theorem OnlySource.of_int {id : Nat} {s t : State} (h : t.int = s.int) : OnlySource id s t :=
  ⟨fun k _ => State.src_of_int h k, by rw [State.src_of_int h], by rw [h]⟩

theorem OnlySource.trans {id : Nat} {a b c : State} (h : OnlySource id a b) (k : OnlySource id b c) : OnlySource id a c :=
  ⟨fun j hj => (k.others j hj).trans (h.others j hj), k.line.trans h.line, k.targets.trans h.targets⟩

theorem onlySource_setSrc (s : State) (id : Nat) {x : IntSrc} (h : x.line = (s.src id).line) : OnlySource id s (s.setSrc id x) :=
  ⟨fun _ hk => State.src_setSrc_other s id x (Ne.symm hk), by rw [State.src_setSrc, h], rfl⟩

theorem onlySource_rrAssign (s : State) (id : Nat) : OnlySource id s (s.rrAssign id) := by
  unfold State.rrAssign
  split
  · split
    · refine (onlySource_setSrc s id ?_).trans (.of_int (State.setFld_int ..))
      rfl
    · exact .of_int rfl
  · exact .of_int rfl

/-- An edge of a shared source changes no other source, and no target. -/
theorem onlySource_intEdge (s : State) (id : Nat) : OnlySource id s (s.intEdge id) := by
  unfold State.intEdge
  dsimp only
  split
  · exact .of_int rfl
  · refine (onlySource_setSrc s id ?_).trans ((onlySource_rrAssign _ id).trans (.of_int (State.hostMsg_int ..)))
    rfl

section
variable {s : State} {id : Nat} (hid : 33 ≤ id ∧ id ≤ 1022)
include hid

theorem State.lineSample_rise (hline : (s.src id).line = false) :
    s.lineSample id true = (s.setSrc id { s.src id with line := true }).intEdge id := by
  simp [State.lineSample, sharedId_iff.2 hid, hline]

theorem State.lineSample_level {b : Bool} (h : b = false ∨ (s.src id).line = true) :
    s.lineSample id b = s.setSrc id { s.src id with line := b } := by
  rcases h with h | h <;> simp [State.lineSample, sharedId_iff.2 hid, h]

end

/-! ### Private sources (R352) -/

/-- Regulator `g`'s own source `id`. -/
def State.privSrc (s : State) (g id : Nat) : PrivSrc := Tab.get {} (s.tgt g).priv id

/-- The state with `x` as regulator `g`'s own source `id`. -/
def State.setPriv (s : State) (g id : Nat) (x : PrivSrc) : State :=
  s.setTgt g { s.tgt g with priv := Tab.set (s.tgt g).priv id x }

theorem State.privSrc_setPriv (s : State) (g id : Nat) (x : PrivSrc) : (s.setPriv g id x).privSrc g id = x := by
  rw [State.privSrc, State.setPriv, State.tgt_setTgt, Tab.get_set_same]

theorem State.privSrc_setPriv_other (s : State) (g : Nat) {id j : Nat} (x : PrivSrc) (h : id ≠ j) :
    (s.setPriv g id x).privSrc g j = s.privSrc g j := by
  rw [State.privSrc, State.setPriv, State.tgt_setTgt, Tab.get_set_other _ _ _ h, State.privSrc]

theorem State.tgt_setPriv_other (s : State) {g h : Nat} (id : Nat) (x : PrivSrc) (hne : h ≠ g) : (s.setPriv g id x).tgt h = s.tgt h :=
  State.tgt_setTgt_other s g _ (Ne.symm hne)

theorem State.privEdge_eq (s : State) (g id : Nat) : s.privEdge g id = s.setPriv g id { s.privSrc g id with pending := true } := rfl

section
variable {s : State} {g id : Nat} (hg : g < s.variant.regulators) (hlo : 1 ≤ id) (hhi : id ≤ 32)
include hg hlo hhi

theorem State.privSample_rise (hline : (s.privSrc g id).line = false) :
    s.privSample g id true = (s.setPriv g id { s.privSrc g id with line := true }).privEdge g id := by
  unfold State.privSample
  rw [if_neg (by omega)]
  exact if_pos (by simpa [State.privSrc] using hline)

theorem State.privSample_level {b : Bool} (h : b = false ∨ (s.privSrc g id).line = true) :
    s.privSample g id b = s.setPriv g id { s.privSrc g id with line := b } := by
  unfold State.privSample
  rw [if_neg (by omega)]
  exact if_neg (by rcases h with h | h <;> simp [State.privSrc] at h ⊢ <;> simp [h])

end

theorem State.setPriv_onlyInt (s : State) (g id : Nat) (x : PrivSrc) : s.setPriv g id x = { s with int := (s.setPriv g id x).int } := rfl

/-! ### L_INT_SWSET (Table 17.6) -/

/-- The edges of the regulator's own sources for the bits `ks` of L_INT_SWSET. -/
def State.privEdges (s : State) (g : Nat) (ks : List Nat) : State := ks.foldl (fun t k => t.privEdge g (7 + k)) s

theorem State.privEdges_onlyInt (s : State) (g : Nat) (ks : List Nat) : s.privEdges g ks = { s with int := (s.privEdges g ks).int } :=
  List.foldlRecOn (motive := fun t : State => t = { s with int := t.int }) ks _ rfl fun t ht k _ => by
    rw [State.privEdge_eq, State.setPriv_onlyInt, ht]

theorem State.privSrc_privEdges (s : State) (g : Nat) (ks : List Nat) (k : Nat) :
    (s.privEdges g ks).privSrc g (7 + k) =
      { s.privSrc g (7 + k) with pending := (s.privSrc g (7 + k)).pending || ks.contains k } := by
  induction ks generalizing s with
  | nil => simp [State.privEdges]
  | cons j ks ih =>
    have first : s.privEdges g (j :: ks) = (s.privEdge g (7 + j)).privEdges g ks := rfl
    rw [first, ih, State.privEdge_eq, List.contains_cons]
    by_cases h : k = j
    · subst h
      rw [State.privSrc_setPriv]
      simp
    · rw [State.privSrc_setPriv_other _ _ _ (by omega), beq_false_of_ne h, Bool.false_or]

/-! ### INT_PENDw (R351) -/

/-- One bit of a W1C write of INT_PENDw of page `p`. -/
def State.pendBit (s : State) (p w b : Nat) : State :=
  if sharedId (256 * (p - 1) + 32 * w + b) then
    s.setSrc (256 * (p - 1) + 32 * w + b)
      { s.src (256 * (p - 1) + 32 * w + b) with pending := false, assigned := none }
  else s

theorem State.pendClear_eq (s : State) {p w : Nat} (v : Nat) (hlo : 1 ≤ p) (hhi : p ≤ 4) (hw : w < 8) :
    s.pendClear p w v = ((List.range 32).filter (bit v)).foldl (fun t b => t.pendBit p w b) s :=
  if_neg (by omega)

theorem State.src_pendBit_other (s : State) {p w b k : Nat} (h : k < 33 ∨ 1022 < k ∨ k ≠ 256 * (p - 1) + 32 * w + b) :
    (s.pendBit p w b).src k = s.src k := by
  unfold State.pendBit
  split
  · rename_i hid
    obtain ⟨hlo, hhi⟩ := sharedId_iff.1 hid
    exact State.src_setSrc_other _ _ _ (by omega)
  · rfl

theorem State.pendBit_onlyInt (s : State) (p w b : Nat) : s.pendBit p w b = { s with int := (s.pendBit p w b).int } := by
  unfold State.pendBit
  split <;> rfl

section
variable {s : State} {p w v : Nat} (hlo : 1 ≤ p) (hhi : p ≤ 4) (hw : w < 8)
include hlo hhi hw

theorem State.pendClear_clears {b : Nat} (hb : b < 32) (hid : 33 ≤ 256 * (p - 1) + 32 * w + b)
    (hid' : 256 * (p - 1) + 32 * w + b ≤ 1022) (hv : bit v b = true) :
    ((s.pendClear p w v).src (256 * (p - 1) + 32 * w + b)).pending = false := by
  have cleared (t : State) : ((t.pendBit p w b).src (256 * (p - 1) + 32 * w + b)).pending = false := by
    rw [State.pendBit, if_pos (sharedId_iff.2 ⟨hid, hid'⟩), State.src_setSrc]
  rw [State.pendClear_eq s v hlo hhi hw]
  refine foldl_establishes (I := fun _ => True) (P := fun t => (t.src (256 * (p - 1) + 32 * w + b)).pending = false) (a := b)
    (by simp [hb, hv]) trivial (fun _ _ _ _ => trivial) (fun t _ => cleared t) fun t _ ht c _ => ?_
  by_cases hc : c = b
  · rw [hc]
    exact cleared t
  · rw [State.src_pendBit_other _ (.inr (.inr (by omega)))]
    exact ht

theorem State.src_pendClear_other {k : Nat}
    (hk : k < 33 ∨ 1022 < k ∨ k / 32 ≠ 8 * (p - 1) + w ∨ bit v (k % 32) = false) : (s.pendClear p w v).src k = s.src k := by
  rw [State.pendClear_eq s v hlo hhi hw]
  refine List.foldlRecOn (motive := fun t : State => t.src k = s.src k) _ _ rfl fun t ht b hb => ?_
  obtain ⟨hb32, hv⟩ := List.mem_filter.1 hb
  have hb32 := List.mem_range.1 hb32
  refine (State.src_pendBit_other t ?_).trans ht
  by_contra hne
  have hkb : k = 256 * (p - 1) + 32 * w + b := by omega
  have hmod : k % 32 = b := by omega
  rcases hk with hk | hk | hk | hk
  · omega
  · omega
  · omega
  · rw [hmod, hv] at hk
    cases hk

theorem State.pendClear_onlyInt : s.pendClear p w v = { s with int := (s.pendClear p w v).int } := by
  rw [State.pendClear_eq s v hlo hhi hw]
  exact List.foldlRecOn (motive := fun t : State => t = { s with int := t.int }) _ _ rfl fun t ht b _ => by
    rw [State.pendBit_onlyInt, ht]

end

/-- Settles O46: the equation of each command in the case that its clause names, read at the sources. -/
theorem interruptEdgesPend : Obligations.InterruptEdgesPend := by
  intro s hc
  refine ⟨fun id b hlo hhi hinj => ⟨fun hb hline => ?_, fun hlevel => ?_⟩, fun g id b hg hlo hhi => ⟨fun hb hline => ?_, fun hlevel => ?_⟩,
    fun v => ⟨fun hopen hrsv hlo hhi => ?_, fun hopen hrsv hid => ?_⟩, fun g v hg => ?_, fun g hg => ⟨fun hmatch => ?_, fun hmatch => ?_⟩,
    fun p w v hlo hhi hw hopen => ?_⟩
  · subst hb
    have rise := State.lineSample_rise ⟨hlo, hhi⟩ hline
    have only := onlySource_intEdge (s.setSrc id { s.src id with line := true }) id
    have unarmed : (s.lineSample id true).fld Reg.PG_ERR_INJECT_COUNT (pageOf Blk.int (1 + id / 256)) = 0 := by
      rw [rise]
      exact (State.armed_intEdge _ id _).trans hinj
    refine Runs.of_run (f := fun s => (s.lineSample id true).check .intSram (1 + id / 256)) rfl hc
      ((State.check_disarmed (src := .intSram) unarmed).trans rise) ⟨State.intEdge_pends _ id, ?_, fun k hk => ?_, only.targets⟩
    · rw [only.line, State.src_setSrc]
    · rw [only.others k hk, State.src_setSrc_other _ _ _ (Ne.symm hk)]
  · have level := State.lineSample_level ⟨hlo, hhi⟩ hlevel
    have unarmed : (s.lineSample id b).fld Reg.PG_ERR_INJECT_COUNT (pageOf Blk.int (1 + id / 256)) = 0 := by
      rw [level]
      exact hinj
    exact Runs.of_run (f := fun s => (s.lineSample id b).check .intSram (1 + id / 256)) rfl hc
      ((State.check_disarmed (src := .intSram) unarmed).trans level) rfl
  · subst hb
    refine Runs.of_run (f := fun s => s.privSample g id true) rfl hc (State.privSample_rise hg hlo hhi hline)
      ⟨?_, fun h hne => ?_, rfl⟩
    · show ((s.setPriv g id { s.privSrc g id with line := true }).privEdge g id).privSrc g id = _
      rw [State.privEdge_eq, State.privSrc_setPriv, State.privSrc_setPriv]
      rfl
    · rw [State.privEdge_eq, State.tgt_setPriv_other _ _ _ hne, State.tgt_setPriv_other _ _ _ hne]
  · exact Runs.of_run (f := fun s => s.privSample g id b) rfl hc (State.privSample_level hg hlo hhi hlevel)
      ⟨State.privSrc_setPriv .., rfl⟩
  · refine Runs.of_regCmd rfl hc (by decide) hopen hrsv (if_pos (sharedId_iff.2 ⟨hlo, hhi⟩)) ⟨State.intEdge_pends .., ?_⟩
    exact (onlySource_intEdge s _).others
  · have foreign : ¬sharedId (bits v.toNat 9 0) = true := fun h => by
      obtain ⟨hlo, hhi⟩ := sharedId_iff.1 h
      omega
    exact Runs.of_regCmd rfl hc (by decide) hopen hrsv (if_neg foreign) ⟨rfl, State.latched_latch s .intCfg 0 (by decide)⟩
  · refine Runs.of_run (f := fun s => s.lSwset g v.toNat) rfl hc (if_neg (Nat.not_le.2 hg))
      ⟨fun k hk => ?_, s.privEdges_onlyInt g _⟩
    have set := s.privSrc_privEdges g ((List.range 10).filter (bit v.toNat)) k
    have named : ((List.range 10).filter (bit v.toNat)).contains k = bit v.toNat k := by
      rw [Bool.eq_iff_iff]
      simp [hk]
    rw [named] at set
    exact set
  · refine Runs.of_run (f := fun s => s.timerMatch g) rfl hc (if_pos ⟨hg, hmatch⟩) ⟨?_, rfl⟩
    exact congrArg PrivSrc.pending (s.privSrc_setPriv g 1 _)
  · exact Runs.of_run (f := fun s => s.timerMatch g) rfl hc (if_neg fun h => hmatch h.2) rfl
  · exact Runs.of_regCmd rfl hc (by decide) hopen rfl rfl ⟨fun b hb hid hid' hv => State.pendClear_clears hlo hhi hw hb hid hid' hv,
      fun k hk => State.src_pendClear_other hlo hhi hw hk, State.pendClear_onlyInt hlo hhi hw⟩

end Sys2Proof.Machine
end

section
/-! PROOFS. The completion of a host source while the host has masked the whole function (17_interrupts.md R359, R360;
02_host_attachment.md R46). -/

namespace Sys2Proof.Machine

/-- A wound machine with the link in L0. Shared source 33 is enabled, goes to the host on vector 0, is in service and has become
pending again; vector 0 is not masked itself, but the function mask of the MSI-X capability is set. -/
def functionMasked : State :=
  { State.reset with
    regs := [(Reg.PWR_WIND_STAGE.key 0, 15), (Reg.INT_GLOBAL_HOST_EN.key 0, 1), (Reg.INT_SRC_ENABLE.key 33, 1),
      (Reg.INT_SRC_HOST.key 33, 1)]
    hst := { linkUp := true, fnMasked := true, msix := [(0, { masked := false })] }
    int := { src := [(33, { pending := true, active := true })] } }

/-- Source 33 is completed and vector 0 gets the PBA bit of its message (R46). -/
theorem exec_intHclaimWrite_functionMasked :
    exec (.intHclaimWrite 33 0#32) functionMasked = .next
      { functionMasked with
        hst := { linkUp := true, fnMasked := true, msix := [(0, { masked := false, pba := true })] }
        int := { src := [(33, { pending := true, active := false })] } } := by rfl

theorem pageOpen_functionMasked : functionMasked.pageOpen Blk.int (33 / 256 + 1) = true := by decide

/-- The conditions under which the message of source 33 goes to its vector. -/
theorem sends_functionMasked :
    (functionMasked.src 33).active = true ∧ (functionMasked.src 33).pending = true ∧
    functionMasked.flag Reg.INT_SRC_ENABLE 33 = true ∧ functionMasked.flag Reg.INT_SRC_HOST 33 = true ∧
    functionMasked.flag Reg.INT_GLOBAL_HOLD = false ∧ functionMasked.flag Reg.INT_GLOBAL_HOST_EN = true ∧
    (functionMasked.vec (functionMasked.fld Reg.INT_SRC_VECTOR 33)).masked = false := by decide

/-- Refutes O48: the clause that an unmasked vector sends its message looks at the vector's own mask alone. In `functionMasked` the
function mask holds the message back: its PBA bit is set, and INT_HOST_MSGS does not count. -/
theorem not_holdAndHostClaims : ¬ Obligations.HoldAndHostClaims := by
  intro h
  obtain ⟨-, -, sources⟩ := h functionMasked rfl
  obtain ⟨-, -, completes⟩ := sources 33 (by decide) (by decide) pageOpen_functionMasked
  obtain ⟨t, ht, -, -, message⟩ := completes 0#32
  obtain ⟨active, pending, enabled, host, free, hostEn, unmasked⟩ := sends_functionMasked
  obtain ⟨sends, -⟩ := message active pending enabled host free hostEn
  have counted := (sends unmasked).1
  obtain rfl := Host.Outcome.next.inj (exec_intHclaimWrite_functionMasked.symm.trans ht)
  exact absurd counted (by decide)

end Sys2Proof.Machine
end

section
/-! PROOFS. Entry into a handler, its take point, and the return from it (17_interrupts.md R353 to R358). -/

namespace Sys2Proof.Machine

/-! ### The source that no other outranks (R353) -/

/-- `e` outranks or equals `n`: higher PRIO, or the same and an ID that is not higher. -/
def Outranks (e n : Nat × Nat) : Prop := n.1 < e.1 ∨ (n.1 = e.1 ∧ e.2 ≤ n.2)

theorem Outranks.refl (e : Nat × Nat) : Outranks e e := .inr ⟨rfl, Nat.le_refl _⟩

theorem Outranks.trans {a b c : Nat × Nat} (h : Outranks a b) (k : Outranks b c) : Outranks a c := by
  unfold Outranks at *
  omega

/-- The better of two sources is one of them and outranks both. -/
theorem better_some (q e : Nat × Nat) :
    ∃ m, better (some q) e = some m ∧ (m = q ∨ m = e) ∧ Outranks m q ∧ Outranks m e := by
  unfold better
  dsimp only
  split
  · rename_i h
    exact ⟨e, rfl, .inr rfl, by unfold Outranks; omega, .refl e⟩
  · rename_i h
    exact ⟨q, rfl, .inl rfl, .refl q, by unfold Outranks; omega⟩

theorem foldl_better_some (l : List (Nat × Nat)) (q : Nat × Nat) :
    ∃ m, l.foldl better (some q) = some m ∧ (m = q ∨ m ∈ l) ∧ Outranks m q ∧ ∀ n ∈ l, Outranks m n := by
  induction l generalizing q with
  | nil => exact ⟨q, rfl, .inl rfl, .refl q, by simp⟩
  | cons e l ih =>
    obtain ⟨p, hp, hpmem, hpq, hpe⟩ := better_some q e
    obtain ⟨m, hm, hmem, hmp, hml⟩ := ih p
    refine ⟨m, by rw [List.foldl_cons, hp, hm], ?_, hmp.trans hpq, fun n hn => ?_⟩
    · rcases hmem with rfl | hmem
      · exact hpmem.imp id fun h => List.mem_cons.2 (.inl h)
      · exact .inr (List.mem_cons_of_mem _ hmem)
    · rcases List.mem_cons.1 hn with rfl | hn
      · exact hmp.trans hpe
      · exact hml n hn

/-- Of a list that is not empty the fold gives a member that outranks every other. -/
theorem foldl_better {l : List (Nat × Nat)} (h : l ≠ []) : ∃ m ∈ l, l.foldl better none = some m ∧ ∀ n ∈ l, Outranks m n := by
  cases l with
  | nil => exact absurd rfl h
  | cons e l =>
    obtain ⟨m, hm, hmem, hme, hml⟩ := foldl_better_some l e
    refine ⟨m, ?_, hm, fun n hn => ?_⟩
    · exact List.mem_cons.2 hmem
    · rcases List.mem_cons.1 hn with rfl | hn
      · exact hme
      · exact hml n hn

section
variable {s : State} {g c : Nat}

theorem State.chosen_held (h : s.fld Reg.INT_GLOBAL_HOLD ≠ 0 ∨ s.intEligible g c = []) : s.chosen g c = none := by
  unfold State.chosen
  split
  · rfl
  · rename_i hhold
    have none : s.intEligible g c = [] := h.resolve_left (by simpa [State.flag] using hhold)
    exact congrArg (List.foldl better Option.none) none

theorem State.chosen_free (hhold : s.fld Reg.INT_GLOBAL_HOLD = 0) (h : s.intEligible g c ≠ []) :
    ∃ m ∈ s.intEligible g c, s.chosen g c = some m ∧ ∀ n ∈ s.intEligible g c, Outranks m n := by
  have chosen : s.chosen g c = (s.intEligible g c).foldl better none := if_neg (by simp [State.flag, hhold])
  rw [chosen]
  exact foldl_better h

theorem State.chosen_isSome : (s.chosen g c).isSome = true ↔ s.fld Reg.INT_GLOBAL_HOLD = 0 ∧ s.intEligible g c ≠ [] := by
  by_cases h : s.fld Reg.INT_GLOBAL_HOLD = 0 ∧ s.intEligible g c ≠ []
  · obtain ⟨m, -, hm, -⟩ := State.chosen_free h.1 h.2
    simp [hm, h]
  · rw [State.chosen_held (by by_contra hc; exact h (by simpa [not_or] using hc))]
    simpa using h

end

/-! ### Vectors (R356) -/

/-- A vector word is read, or is a free value. -/
theorem State.vector_parts (s : State) (g id : Nat) :
    ((s.tgt g).vbase * 4096 + 4 * id + 4 ≤ 16384 →
      (s.vector g id).1 = leNat ((s.rgl_ g).imem.readBytes ((s.tgt g).vbase * 4096 + 4 * id) 4)) ∧
    (s.vector g id).2.int = s.int := by
  unfold State.vector
  dsimp only
  split
  · exact ⟨fun _ => rfl, rfl⟩
  · exact ⟨fun h => absurd h ‹_›, rfl⟩

/-! ### Entry (E1, E2) -/

section
variable {s : State} {g pc : Nat} (hg : g < s.variant.regulators)
include hg

theorem State.entry_begins (htaking : (s.tgt g).taking = none) (hdepth : (s.tgt g).shadow.length < 3)
    (hchosen : (s.chosen g (s.tgt g).curLevel).isSome = true) (hfresh : (s.tgt g).fresh = false ∨ pc ≠ (s.tgt g).pc) :
    s.entry g pc = s.setTgt g { s.tgt g with
      shadow := ⟨pc, (s.tgt g).curLevel, 0⟩ :: (s.tgt g).shadow
      level := (s.tgt g).curLevel
      bank := (s.tgt g).shadow.length + 1
      taking := some false
      fresh := false } := by
  have chosen : (s.chosen g (s.tgt g).curLevel).isNone = false := by rw [← Option.not_isSome, hchosen]; rfl
  have allowed : ¬(3 ≤ (s.tgt g).shadow.length ∨ (s.chosen g (s.tgt g).curLevel).isNone = true ∨
      ((s.tgt g).fresh = true ∧ pc = (s.tgt g).pc)) := by
    rw [chosen]
    rintro (h | h | ⟨hf, hpc⟩)
    · omega
    · cases h
    · rcases hfresh with h | h
      · rw [h] at hf
        cases hf
      · exact h hpc
  unfold State.entry
  dsimp only
  rw [if_neg (Nat.not_le.2 hg), htaking]
  exact if_neg allowed

theorem State.entry_refused (htaking : (s.tgt g).taking = none)
    (h : 3 ≤ (s.tgt g).shadow.length ∨ s.chosen g (s.tgt g).curLevel = none ∨ ((s.tgt g).fresh = true ∧ pc = (s.tgt g).pc)) :
    s.entry g pc = s := by
  unfold State.entry
  dsimp only
  rw [if_neg (Nat.not_le.2 hg), htaking]
  exact if_pos (h.imp id (Or.imp (fun h => by rw [h]; rfl) id))

theorem State.entry_takes {b : Bool} (htaking : (s.tgt g).taking = some b) : s.entry g pc = s.takePoint g b := by
  unfold State.entry
  dsimp only
  rw [if_neg (Nat.not_le.2 hg), htaking]

end

/-! ### The take point (E3, C1) -/

/-- What the take point takes: the source, or 1023, and the level from then on. -/
def State.picked (s : State) (g : Nat) (chained : Bool) : Nat × Nat :=
  let c := if !chained ∧ (s.tgt g).shadow.length = 1 then (s.tgt g).thresh else (s.tgt g).level
  match s.chosen g c with
  | some (prio, id) => (id, prio + 1)
  | none => (1023, c)

/-- The source that is taken is in service; 1023 is none. -/
def State.takenFrom (s : State) (g id : Nat) : State := if id = 1023 then s else s.takeSource g id

/-- The take point, for what it takes. -/
def State.takeAt (s : State) (g : Nat) (chained : Bool) (id level : Nat) : State :=
  let s2 := ((s.takenFrom g id).vector g id).2
  let u := s2.tgt g
  s2.setTgt g { u with
    shadow := match u.shadow with
      | e :: es => { e with id := id } :: es
      | [] => []
    level := level, taking := none, pc := ((s.takenFrom g id).vector g id).1, fresh := true
    taken := if id = 1023 then u.taken else wrap 32 (u.taken + 1)
    spurious := if id = 1023 then wrap 32 (u.spurious + 1) else u.spurious
    chained := if chained then wrap 32 (u.chained + 1) else u.chained }

theorem State.takePoint_eq (s : State) (g : Nat) (chained : Bool) :
    s.takePoint g chained = s.takeAt g chained (s.picked g chained).1 (s.picked g chained).2 := by
  show (match s.picked g chained with | (id, level) => s.takeAt g chained id level) = _
  rfl

/-- Taking a source changes of its regulator's target the regulator's own sources alone. -/
theorem State.tgt_takenFrom (s : State) (g id : Nat) :
    (s.takenFrom g id).tgt g = { s.tgt g with priv := ((s.takenFrom g id).tgt g).priv } := by
  unfold State.takenFrom State.takeSource
  split
  · rfl
  · split
    · simp only [State.tgt_setTgt]
    · rfl

theorem State.takenFrom_rgl (s : State) (g id : Nat) : (s.takenFrom g id).rgl = s.rgl := by
  unfold State.takenFrom State.takeSource
  split
  · rfl
  · split <;> rfl

section
variable (s : State) (g : Nat) (chained : Bool) (id level : Nat)

/-- The regulator's target after the take point. -/
theorem State.tgt_takeAt :
    (s.takeAt g chained id level).tgt g = { s.tgt g with
      priv := ((s.takenFrom g id).tgt g).priv
      shadow := match (s.tgt g).shadow with
        | e :: es => { e with id := id } :: es
        | [] => []
      level := level, taking := none, pc := ((s.takenFrom g id).vector g id).1, fresh := true
      taken := if id = 1023 then (s.tgt g).taken else wrap 32 ((s.tgt g).taken + 1)
      spurious := if id = 1023 then wrap 32 ((s.tgt g).spurious + 1) else (s.tgt g).spurious
      chained := if chained then wrap 32 ((s.tgt g).chained + 1) else (s.tgt g).chained } := by
  have read : (((s.takenFrom g id).vector g id).2).tgt g = (s.takenFrom g id).tgt g :=
    State.tgt_of_int (by rw [((s.takenFrom g id).vector_parts g id).2]) g
  unfold State.takeAt
  dsimp only
  rw [State.tgt_setTgt, read, State.tgt_takenFrom]

theorem State.src_takeAt : (s.takeAt g chained id level).int.src = (s.takenFrom g id).int.src := by
  show (((s.takenFrom g id).vector g id).2).int.src = _
  rw [((s.takenFrom g id).vector_parts g id).2]

/-- The pc comes from the source's vector word where the runtime's part of IMEM holds it. -/
theorem State.pc_takeAt (h : (s.tgt g).vbase * 4096 + 4 * id + 4 ≤ 16384) :
    ((s.takeAt g chained id level).tgt g).pc = leNat ((s.rgl_ g).imem.readBytes ((s.tgt g).vbase * 4096 + 4 * id) 4) := by
  have vbase : ((s.takenFrom g id).tgt g).vbase = (s.tgt g).vbase := by rw [State.tgt_takenFrom]
  have imem : (s.takenFrom g id).rgl_ g = s.rgl_ g := by
    unfold State.rgl_
    rw [State.takenFrom_rgl]
  rw [State.tgt_takeAt]
  have word := ((s.takenFrom g id).vector_parts g id).1
  rw [vbase, imem] at word
  exact word h

end

section
variable {s : State} {g id : Nat}

/-- A regulator's own source that is taken is in service and no longer pending; the shared ones stay. -/
theorem State.takenFrom_private (h : id ≤ 32) :
    (Tab.get {} ((s.takenFrom g id).tgt g).priv id).pending = false ∧ (Tab.get {} ((s.takenFrom g id).tgt g).priv id).active = true ∧
    (s.takenFrom g id).int.src = s.int.src := by
  have taken : s.takenFrom g id = s.setPriv g id { s.privSrc g id with pending := false, active := true } := by
    unfold State.takenFrom State.takeSource
    rw [if_neg (by omega), if_pos h]
    rfl
  have read := s.privSrc_setPriv g id { s.privSrc g id with pending := false, active := true }
  rw [← taken] at read
  exact ⟨congrArg PrivSrc.pending read, congrArg PrivSrc.active read, by rw [taken]; rfl⟩

/-- A shared source that is taken is in service and no longer pending; the regulator's own ones stay. -/
theorem State.takenFrom_shared (hlo : 32 < id) (hne : id ≠ 1023) :
    ((s.takenFrom g id).src id).pending = false ∧ ((s.takenFrom g id).src id).active = true ∧
    ((s.takenFrom g id).tgt g).priv = (s.tgt g).priv := by
  unfold State.takenFrom State.takeSource
  rw [if_neg hne, if_neg (Nat.not_le.2 hlo), State.src_setSrc]
  exact ⟨rfl, rfl, rfl⟩

/-- Every other source is as before. -/
theorem State.takenFrom_other {k : Nat} (h : k ≠ id) :
    (s.takenFrom g id).src k = s.src k ∧ Tab.get {} ((s.takenFrom g id).tgt g).priv k = Tab.get {} (s.tgt g).priv k := by
  unfold State.takenFrom State.takeSource
  split
  · exact ⟨rfl, rfl⟩
  · split
    · refine ⟨rfl, ?_⟩
      rw [State.tgt_setTgt]
      exact Tab.get_set_other _ _ _ (Ne.symm h)
    · exact ⟨State.src_setSrc_other _ _ _ (Ne.symm h), rfl⟩

end

/-- The level of an entry that is not chained: the threshold at depth 1, else the level. -/
theorem State.picked_entry {s : State} {g : Nat} {e : Shadow} {es : List Shadow} (h : (s.tgt g).shadow = e :: es) :
    s.picked g false = match s.chosen g (if es = [] then (s.tgt g).thresh else (s.tgt g).level) with
      | some (prio, id) => (id, prio + 1)
      | none => (1023, if es = [] then (s.tgt g).thresh else (s.tgt g).level) := by
  unfold State.picked
  rw [h]
  cases es <;> simp

/-! ### Return (X1 to X3) -/

/-- Setting a record to one that a test of records treats alike changes nothing in whether some record passes. -/
theorem Tab.exists_mem_set {α : Type} {d : α} {p : Nat × α → Bool} (t : Tab α) (k : Nat) {x : α}
    (hx : p (k, x) = p (k, Tab.get d t k)) (hd : p (k, d) = false) :
    (∃ e ∈ Tab.set t k x, p e = true) ↔ ∃ e ∈ t, p e = true := by
  induction t with
  | nil => simp [Tab.set, hx.trans hd]
  | cons e t ih =>
    obtain ⟨j, y⟩ := e
    by_cases hj : j = k
    · subst hj
      have alike : p (j, x) = p (j, y) := by simpa [Tab.get] using hx
      simp [Tab.set, alike]
    · have hx : p (k, x) = p (k, Tab.get d t k) := by simpa [Tab.get, hj] using hx
      by_cases hlt : k < j
      · have listed : p (k, x) = true → ∃ e ∈ t, p e = true := fun h =>
          ⟨_, Tab.mem_of_get_ne (x := Tab.get d t k) rfl (fun he => by rw [hx, he, hd] at h; cases h), hx ▸ h⟩
        simp only [Tab.set, hj, hlt, if_false, if_true, List.exists_mem_cons_iff]
        tauto
      · simp only [Tab.set, hj, hlt, if_false, List.exists_mem_cons_iff, ih hx]

/-- The regulator's own sources eligible at a level. -/
def privEligible (c : Nat) (e : Nat × PrivSrc) : Bool := e.2.enable && e.2.pending && decide (c ≤ e.2.prio)

theorem State.intEligible_ne_nil {s : State} {g c : Nat} : s.intEligible g c ≠ [] ↔
    (∃ e ∈ (s.tgt g).priv, privEligible c e = true) ∨
    ∃ e ∈ s.int.src, (sharedId e.1 && e.2.pending && s.flag Reg.INT_SRC_ENABLE e.1 && decide (c ≤ s.fld Reg.INT_SRC_PRIO e.1) &&
      s.routedTo e.1 g) = true := by
  unfold State.intEligible
  rw [Ne, List.append_eq_nil_iff, List.map_eq_nil_iff, List.map_eq_nil_iff, List.filter_eq_nil_iff, List.filter_eq_nil_iff, not_and_or]
  simp only [not_forall, not_not, exists_prop]
  rfl

/-- The handler of a regulator's own source has ended. -/
def State.privEnded (s : State) (g id : Nat) : State := s.setPriv g id { s.privSrc g id with active := false }

/-- The end of a handler makes no source eligible, and none ineligible. -/
theorem State.chosen_privEnded (s : State) (g id c : Nat) : ((s.privEnded g id).chosen g c).isSome = (s.chosen g c).isSome := by
  rw [Bool.eq_iff_iff, State.chosen_isSome, State.chosen_isSome]
  refine and_congr Iff.rfl ?_
  rw [State.intEligible_ne_nil, State.intEligible_ne_nil]
  refine or_congr ?_ Iff.rfl
  unfold State.privEnded State.setPriv
  rw [State.tgt_setTgt]
  exact Tab.exists_mem_set (d := {}) _ id rfl rfl

section
variable {s : State} {g : Nat} {e : Shadow} {es : List Shadow} (hshadow : (s.tgt g).shadow = e :: es)
  (htaking : (s.tgt g).taking = none) (hlo : 1 ≤ e.id) (hhi : e.id ≤ 32)
include hshadow htaking hlo hhi

/-- MRET ends the handler of a regulator's own source, and then chains or returns. -/
theorem State.mret_private : s.mret g =
    if ((s.privEnded g e.id).chosen g (if es = [] then (s.tgt g).thresh else e.level)).isSome then
      (s.privEnded g e.id).setTgt g { (s.privEnded g e.id).tgt g with
        level := if es = [] then (s.tgt g).thresh else e.level
        taking := some true }
    else
      (s.privEnded g e.id).setTgt g { (s.privEnded g e.id).tgt g with
        shadow := es
        level := if es = [] then (s.tgt g).thresh else e.level
        bank := es.length
        pc := e.pc
        fresh := false } := by
  have ended : s.endSource g e.id = s.privEnded g e.id := by
    unfold State.endSource
    rw [if_neg (by omega), if_pos hhi]
    rfl
  unfold State.mret
  dsimp only
  rw [hshadow, htaking]
  dsimp only
  rw [ended]

end

/-- With an entry under way MRET is not taken. -/
theorem State.mret_taking {s : State} {g : Nat} {b : Bool} (h : (s.tgt g).taking = some b) : s.mret g = s := by
  unfold State.mret
  dsimp only
  rw [h]
  split
  · rename_i hn
    cases hn
  · rfl

theorem State.tgt_privEnded (s : State) (g id : Nat) :
    (s.privEnded g id).tgt g = { s.tgt g with priv := ((s.privEnded g id).tgt g).priv } := by
  simp only [State.privEnded, State.setPriv, State.tgt_setTgt]

theorem State.active_privEnded (s : State) (g id : Nat) : (Tab.get {} ((s.privEnded g id).tgt g).priv id).active = false :=
  congrArg PrivSrc.active (s.privSrc_setPriv g id _)

/-! ### The obligation -/

/-- Settles O47: entry, take point and return by the equation of each in the case that its clause names. -/
theorem interruptEntryAndExit : Obligations.InterruptEntryAndExit := by
  refine ⟨fun s g pc hc hg => ⟨fun htaking => ⟨fun hdepth hhold hel hfresh => ?_, fun h => ?_⟩,
    fun e es c htaking hshadow hlevel => ⟨fun hhold hel => ?_, fun h => ?_⟩⟩,
    fun s g e es r hc hshadow hr => ⟨fun htaking hlo hhi => ⟨fun h => ?_, fun hhold hel => ?_⟩, fun b htaking => ?_,
      fun hg htaking pc => ?_⟩⟩
  · exact Runs.of_run (f := fun s => s.entry g pc) rfl hc
      (State.entry_begins hg htaking hdepth (State.chosen_isSome.2 ⟨hhold, hel⟩) hfresh) rfl
  · refine Runs.of_run (f := fun s => s.entry g pc) rfl hc (State.entry_refused hg htaking ?_) rfl
    rcases h with h | h | h | h
    · exact .inl h
    · exact .inr (.inl (State.chosen_held (.inl h)))
    · exact .inr (.inl (State.chosen_held (.inr h)))
    · exact .inr (.inr h)
  · obtain ⟨m, hm, hchosen, hbest⟩ := State.chosen_free hhold hel
    have picked : s.picked g false = (m.2, m.1 + 1) := by rw [State.picked_entry hshadow, ← hlevel, hchosen]
    have take : s.entry g pc = s.takeAt g false m.2 (m.1 + 1) := by
      rw [State.entry_takes hg htaking, State.takePoint_eq, picked]
    refine Runs.of_run (f := fun s => s.entry g pc) rfl hc take ⟨m, hm, hbest, ?_⟩
    have priv : ((s.takeAt g false m.2 (m.1 + 1)).tgt g).priv = ((s.takenFrom g m.2).tgt g).priv := by rw [State.tgt_takeAt]
    have src (k : Nat) : (s.takeAt g false m.2 (m.1 + 1)).src k = (s.takenFrom g m.2).src k := by
      unfold State.src
      rw [State.src_takeAt]
    refine ⟨?_, ?_, ?_, fun hid => ?_, State.pc_takeAt s g false m.2 (m.1 + 1), fun hid => ?_, fun hlo hhi => ?_, fun k hk => ?_⟩
    · rw [State.tgt_takeAt, hshadow]
    · rw [State.tgt_takeAt]
    · rw [State.tgt_takeAt]
    · rw [State.tgt_takeAt]
      exact ⟨if_neg (by omega), if_neg (by omega)⟩
    · rw [priv]
      obtain ⟨pending, active, shared⟩ := State.takenFrom_private (s := s) (g := g) hid
      exact ⟨pending, active, fun k => (src k).trans (by unfold State.src; rw [shared])⟩
    · rw [priv, src]
      exact State.takenFrom_shared hlo (by omega)
    · rw [priv, src]
      exact State.takenFrom_other hk
  · have chosen := State.chosen_held h
    have picked : s.picked g false = (1023, c) := by rw [State.picked_entry hshadow, ← hlevel, chosen]
    have take : s.entry g pc = s.takeAt g false 1023 c := by rw [State.entry_takes hg htaking, State.takePoint_eq, picked]
    have none : s.takenFrom g 1023 = s := if_pos rfl
    refine Runs.of_run (f := fun s => s.entry g pc) rfl hc take ⟨?_, ?_, ?_, ?_, ?_, ?_, ?_⟩
    · rw [State.tgt_takeAt, hshadow]
    · rw [State.tgt_takeAt]
    · rw [State.tgt_takeAt]
    · rw [State.tgt_takeAt]
      dsimp only
      rw [if_pos rfl]
      rfl
    · rw [State.tgt_takeAt]
      dsimp only
      rw [if_pos rfl]
    · rw [State.src_takeAt, none]
    · rw [State.tgt_takeAt, none]
  · have mret := State.mret_private hshadow htaking hlo hhi
    rw [State.chosen_privEnded, ← hr, State.chosen_held h, if_neg (by decide)] at mret
    refine Runs.of_run (f := fun s => s.mret g) rfl hc mret ⟨?_, ?_, ?_, ?_, ?_, rfl⟩
    all_goals rw [State.tgt_setTgt]
    exact s.active_privEnded g e.id
  · have mret := State.mret_private hshadow htaking hlo hhi
    rw [State.chosen_privEnded, ← hr, if_pos (State.chosen_isSome.2 ⟨hhold, hel⟩)] at mret
    refine Runs.of_run (f := fun s => s.mret g) rfl hc mret ⟨?_, ?_, ?_, ?_, ?_, rfl⟩
    all_goals rw [State.tgt_setTgt]
    · rw [State.tgt_privEnded]
      exact hshadow
    · rw [State.tgt_privEnded]
    · exact s.active_privEnded g e.id
  · exact Runs.of_run (f := fun s => s.mret g) rfl hc (State.mret_taking htaking) rfl
  · have take : s.entry g pc = s.takeAt g true (s.picked g true).1 (s.picked g true).2 := by
      rw [State.entry_takes hg htaking, State.takePoint_eq]
    refine Runs.of_run (f := fun s => s.entry g pc) rfl hc take ?_
    rw [State.tgt_takeAt]
    exact ⟨rfl, rfl, rfl, by rw [hshadow]; rfl⟩

end Sys2Proof.Machine
end

section
/-! PROOFS. DMA chains start and stop (16_dma.md R349, R350, Table 16.2). -/

namespace Sys2Proof.Machine

/-! ### A channel -/

theorem State.dch_congr {s t : State} (h : t.dma = s.dma) (c : Nat) : t.dch c = s.dch c := by
  unfold State.dch
  rw [h]

theorem State.setDch_dma {s t : State} (h : t.dma = s.dma) (c : Nat) (x : DmaCh) : (t.setDch c x).dma = (s.setDch c x).dma := by
  unfold State.setDch
  rw [h]

/-! ### The end of a chain -/

/-- A channel whose chain has stopped. -/
def DmaCh.ended (x : DmaCh) : DmaCh :=
  { x with busy := false, desc := none, fails := [], abort := false, domainStop := false, done := x.done || x.job.isNone }

theorem State.chainEnd_of_register {s : State} {c : Nat} (whole : Bool) (h : (s.dch c).job = none) :
    s.chainEnd c whole = (s.setDch c (s.dch c).ended).intEdge (41 + c) := by
  unfold State.chainEnd DmaCh.ended
  simp only [h]

/-- Whoever waits for the chain learns of its end; of the channels only this one changes. -/
theorem State.chainEnd_dma (s : State) (c : Nat) (whole : Bool) : (s.chainEnd c whole).dma = (s.setDch c (s.dch c).ended).dma := by
  unfold State.chainEnd
  dsimp only
  split
  · exact State.intEdge_dma ..
  · exact State.finish_dma ..

theorem State.dch_chainEnd (s : State) (c : Nat) (whole : Bool) : (s.chainEnd c whole).dch c = (s.dch c).ended :=
  (State.dch_congr (s.chainEnd_dma c whole) c).trans (State.dch_setDch ..)

theorem stuck_chainEnd {s : State} {p b : Nat} (h : s.stuck p b) (hb : b < 32) (c : Nat) (whole : Bool) : (s.chainEnd c whole).stuck p b := by
  have stopped : (s.setDch c (s.dch c).ended).stuck p b := stuck_of_regs (s := s) rfl rfl h
  unfold State.chainEnd
  dsimp only
  split
  · exact stuck_intEdge stopped _
  · exact (outlastsLatch_stuck p hb).finish stopped ..

/-! ### DMA_SUBMIT and GO (R349) -/

theorem Runs.of_dmaSubmit {s t : State} {j : Nat} {P : State → Prop} (hc : s.pwr.clocksStopped = false) (hj : s.canStart j 0x30 = true)
    (ht : s.submit j = t) (h : P t) : Runs (.dmaSubmit j) s P :=
  Runs.of_run rfl hc ((if_pos hj).trans ht) h

theorem State.submit_named {s : State} {j c : Nat} (hwant : field (s.job j).args 8 1 = c) (hc : c ≠ 255) (hidle : (s.dch c).busy = false)
    (hpage : s.pageEnabled Blk.dma (c / 16) = true) :
    s.submit j = (s.start j).chainStart c (field (s.job j).args 16 8) (s.job j).tenant (some j) := by
  unfold State.submit
  simp [hwant, hc, hidle, hpage]

theorem State.submit_busy {s : State} {j c : Nat} (hwant : field (s.job j).args 8 1 = c) (hc : c ≠ 255) (hbusy : (s.dch c).busy = true) :
    s.submit j = s.finish j St.state := by
  unfold State.submit
  simp [hwant, hc, hbusy]

theorem State.submit_full {s : State} {j : Nat} (hwant : field (s.job j).args 8 1 = 255)
    (hall : ∀ d, d < s.variant.dmaChannels → (s.dch d).busy = true) : s.submit j = s.finish j St.noResource := by
  have none_idle : (List.range s.variant.dmaChannels).find? (fun c => !(s.dch c).busy) = none :=
    List.find?_eq_none.2 fun d hd => by simp [hall d (List.mem_range.1 hd)]
  unfold State.submit
  simp [hwant, none_idle]

theorem State.dmaStart_idle {s : State} {c : Nat} (hc : c < s.variant.dmaChannels) (hpage : s.pageEnabled Blk.dma (c / 16) = true)
    (hidle : (s.dch c).busy = false) : s.dmaStart c = s.chainStart c (s.dch c).head 64 none := by
  unfold State.dmaStart
  simp [hc, hpage, hidle]

theorem State.dmaStart_busy {s : State} {c : Nat} (hc : c < s.variant.dmaChannels) (hpage : s.pageEnabled Blk.dma (c / 16) = true)
    (hbusy : (s.dch c).busy = true) : s.dmaStart c = s.latch .dmaBusy (c / 16) := by
  unfold State.dmaStart
  simp [hc, hpage, hbusy]

/-! ### ABORT and the timeout (R349, R350) -/

theorem State.chainStop_running {s : State} {c : Nat} (late : Bool) (hbusy : (s.dch c).busy = true) (hd : (s.dch c).desc ≠ none) :
    s.chainStop c late = s.setDch c { s.dch c with abort := true, timedOut := (s.dch c).timedOut || late } := by
  unfold State.chainStop
  simp [hbusy, Option.isSome_iff_ne_none.2 hd]

theorem State.chainStop_between {s : State} {c : Nat} (late : Bool) (hbusy : (s.dch c).busy = true) (hd : (s.dch c).desc = none) :
    ∃ x : DmaCh, x.lastSt = Dst.aborted ∧ s.chainStop c late = (s.setDch c x).chainEnd c false := by
  unfold State.chainStop
  simp only [hbusy, hd]
  exact ⟨_, rfl, rfl⟩

/-- Settles O26: DMA_SUBMIT by the three cases of `State.submit`, GO by the two of `State.dmaStart`, ABORT and the timeout by whether a
descriptor runs. -/
theorem dmaChainsStartAndStop : Obligations.DmaChainsStartAndStop := by
  intro s c hc
  refine ⟨fun j hj => ⟨fun hwant hne hidle hpage => ?_, fun hwant hne hbusy => ?_, fun hwant hall => ?_⟩,
    fun hlt hpage hopen => ⟨fun hidle => ?_, fun hbusy => ?_⟩, fun hbusy => ⟨fun hopen hd => ?_, fun hopen hd => ?_, fun htime hd => ?_⟩,
    fun htime => ?_⟩
  · refine Runs.of_dmaSubmit hc hj (State.submit_named hwant hne hidle hpage) ?_
    unfold State.chainStart
    refine ⟨?_, ?_, ?_, ?_, ?_, ?_, ?_, fun d hd => (State.dch_setDch_other _ _ (Ne.symm hd)).trans rfl,
      (congrArg Job.started (s.job_start j 0)).trans rfl⟩ <;> simp only [State.dch_setDch, State.start_now]
  · exact Runs.of_dmaSubmit hc hj (State.submit_busy hwant hne hbusy) ⟨State.finish_dma .., (State.finish_ends ..).1⟩
  · exact Runs.of_dmaSubmit hc hj (State.submit_full hwant hall) ⟨State.finish_dma .., (State.finish_ends ..).1⟩
  · refine Runs.of_regCmd rfl hc (by decide) hopen rfl (State.dmaStart_idle hlt hpage hidle) ?_
    unfold State.chainStart
    refine ⟨?_, ?_, ?_, ?_, ?_, ?_, ?_⟩ <;> rw [State.dch_setDch]
  · exact Runs.of_regCmd rfl hc (by decide) hopen rfl (State.dmaStart_busy hlt hpage hbusy)
      ⟨State.latch_dma .., State.latched_latch _ _ _ (by decide)⟩
  · exact Runs.of_regCmd rfl hc (by decide) hopen rfl (State.chainStop_running false hbusy hd) (by rw [Bool.or_false])
  · obtain ⟨x, haborted, hstop⟩ := State.chainStop_between (s := s) false hbusy hd
    refine Runs.of_regCmd rfl hc (by decide) hopen rfl hstop ⟨?_, ?_, fun d hd => ?_⟩
    · rw [State.dch_chainEnd]
      rfl
    · rw [State.dch_chainEnd, State.dch_setDch]
      exact haborted
    · rw [State.dch_congr (State.chainEnd_dma ..), State.dch_setDch_other _ _ (Ne.symm hd), State.dch_setDch_other _ _ (Ne.symm hd)]
  · exact Runs.of_run (f := fun s => s.chainTimeout c) rfl hc ((if_pos htime).trans (State.chainStop_running true hbusy hd)) (by rw [Bool.or_true])
  · exact Runs.of_run (f := fun s => s.chainTimeout c) rfl hc (if_neg (Nat.not_le.2 htime)) rfl

end Sys2Proof.Machine
end

section
/-! PROOFS. DMA descriptors: what a fetch makes of one, what a response records, and what COPY, FILL and COMPARE leave (16_dma.md R341 to
R346, R350, Tables 16.1 and 16.2). -/

namespace Sys2Proof.Machine

/-! ### The end of a descriptor -/

/-- The channel after a descriptor that completed. -/
def DmaCh.after (x : DmaCh) (st remain off : Nat) : DmaCh :=
  { x with desc := none, fails := [], progress := 0, domainStop := false, descs := wrap 32 (x.descs + 1)
           lastSt := st, remain := remain, offset := off, lastErr := if 2 ≤ st then st else x.lastErr }

/-- A status without a failing access counts and latches nothing; without write-back no byte is written. -/
theorem State.descEnd_clean {s : State} {c : Nat} {d : Bytes} {st remain off : Nat} (hwb : Desc.wb d = false) (hst : st < 2) :
    s.descEnd c d st remain off =
      if stopsChain d st then (s.setDch c ((s.dch c).after st remain off)).chainEnd c (st == Dst.mismatch && Desc.next d == 0)
      else if Desc.next d = 0 then (s.setDch c ((s.dch c).after st remain off)).chainEnd c true
      else s.setDch c { (s.dch c).after st remain off with cur := Desc.next d } := by
  have hgood : ¬ 2 ≤ st := by omega
  have hdesc : st ≠ Dst.badDesc := by
    show st ≠ 6
    omega
  unfold State.descEnd DmaCh.after
  simp [hwb, hgood, hdesc]

/-- A status that stops the chain leaves the channel with it, and a sticky bit as it was. -/
theorem State.descEnd_stops {s : State} {c : Nat} {d : Bytes} {st : Nat} (remain off : Nat) (h : stopsChain d st = true) :
    ∃ t : State, t.dma = s.dma ∧ (∀ p b, b < 32 → s.stuck p b → t.stuck p b) ∧
      (st = Dst.badDesc → t.latched .dmaDesc (c / 16) = true) ∧
      s.descEnd c d st remain off =
        (t.setDch c ((s.dch c).after st remain off)).chainEnd c (st == Dst.mismatch && Desc.next d == 0) := by
  have back : ∀ u : State, ∀ p b, u.stuck p b → (if Desc.wb d then u.descBack (u.dch c) st remain off else u).stuck p b := by
    intro u p b hu
    split
    · exact stuck_of_regs (State.spaceWrite_variant ..) (State.spaceWrite_regs ..) hu
    · exact hu
  have back_dma : (if Desc.wb d then s.descBack (s.dch c) st remain off else s).dma = s.dma := by
    split
    · exact State.spaceWrite_dma ..
    · rfl
  have counted : ∀ u : State, ∀ p b, u.stuck p b → (if 2 ≤ st then u.count Reg.DMA_ERRORS (c / 16) else u).stuck p b := by
    intro u p b hu
    split
    · exact stuck_setFld hu _ _ _ (by decide) (by decide)
    · exact hu
  refine ⟨_, ?_, fun p b hb hs => ?_, fun hst => ?_, by unfold State.descEnd; dsimp only; rw [if_pos h]; rfl⟩
  · split
    · rw [State.latch_dma, apply_ite State.dma, State.count_dma, ite_self, back_dma]
    · rw [apply_ite State.dma, State.count_dma, ite_self, back_dma]
  · have kept := counted _ p b (back s p b hs)
    split
    · exact State.stuck_latch kept hb ..
    · exact kept
  · rw [if_pos hst]
    exact State.latched_latch _ _ _ (by decide)

/-- The channel whose chain a status stops. -/
theorem State.dch_descEnd_stops {s : State} {c : Nat} {d : Bytes} {st : Nat} (remain off : Nat) (h : stopsChain d st = true) :
    (s.descEnd c d st remain off).dch c = ((s.dch c).after st remain off).ended := by
  obtain ⟨t, -, -, -, heq⟩ := State.descEnd_stops (s := s) (c := c) remain off h
  rw [heq, State.dch_chainEnd, State.dch_setDch]

theorem stuck_descEnd_stops {s : State} {c : Nat} {d : Bytes} {st : Nat} (remain off : Nat) (h : stopsChain d st = true) {p b : Nat}
    (hs : s.stuck p b) (hb : b < 32) : (s.descEnd c d st remain off).stuck p b := by
  obtain ⟨t, -, hkept, -, heq⟩ := State.descEnd_stops (s := s) (c := c) remain off h
  rw [heq]
  exact stuck_chainEnd (stuck_of_regs (s := t) (t := t.setDch c _) rfl rfl (hkept p b hb hs)) hb ..

theorem State.latched_descEnd_badDesc (s : State) (c : Nat) (d : Bytes) (remain off : Nat) :
    (s.descEnd c d Dst.badDesc remain off).latched .dmaDesc (c / 16) = true := by
  obtain ⟨t, -, -, hlatched, heq⟩ := State.descEnd_stops (s := s) (c := c) (d := d) (st := Dst.badDesc) remain off rfl
  rw [heq]
  exact stuck_chainEnd (stuck_of_regs (s := t) (t := t.setDch c _) rfl rfl (hlatched rfl)) (by decide) ..

/-! ### DESCRIPTOR_FETCH (R341) -/

section
variable {s : State} {c : Nat} {d : Bytes} (hruns : s.dmaRuns c = true) (hidle : (s.dch c).desc = none)
  (hhost : (addrSpace (s.dch c).cur).1 = false) (hlen : d.length = 64)
include hruns hidle hhost hlen

/-- The state after the read of a descriptor from host memory. -/
def State.descAsked (s : State) (c : Nat) : State :=
  s.hostReq .memRead (addrSpace (s.dch c).cur).2 64 (some (if (s.dch c).submitter < 64 then (s.dch c).submitter else 0))

omit hruns hidle in
theorem State.descRead_host (r : DmaResp) : s.descRead c d r = (d, r, s.descAsked c) := by
  have whole : (d ++ List.replicate 64 0).take 64 = d := by rw [← hlen, List.take_left]
  unfold State.descRead State.descAsked
  dsimp only
  rw [hhost, if_neg (by decide), whole]

theorem State.descFetch_error :
    s.descFetch c d .error = ((s.descAsked c).latch .dmaResp (c / 16)).descEnd c [] Dst.errSrc 0 0 := by
  unfold State.descFetch
  rw [State.descRead_host hhost hlen]
  simp [hruns, hidle]

variable (hline : (s.dch c).cur % 64 = 0)
include hline

omit hline in
theorem State.descFetch_bad (hbad : s.descBad (decide (0 < (s.dch c).submitter) && decide ((s.dch c).submitter < 64)) d = true) :
    s.descFetch c d .ok = (s.descAsked c).descEnd c d Dst.badDesc (Desc.count d) 0 := by
  have hbad' : (s.descAsked c).descBad (decide (0 < (s.dch c).submitter) && decide ((s.dch c).submitter < 64)) d = true := hbad
  unfold State.descFetch
  rw [State.descRead_host hhost hlen]
  simp only [hruns, hidle, hbad']
  simp

theorem State.descFetch_good (hgood : s.descBad (decide (0 < (s.dch c).submitter) && decide ((s.dch c).submitter < 64)) d = false)
    (hon : (Desc.touchesDevice d && s.dramGroupOff) = false) :
    s.descFetch c d .ok = (s.descAsked c).setDch c
      { s.dch c with desc := some d, remain := Desc.count d, progress := 0, fails := [], domainStop := false } := by
  have hgood' : (s.descAsked c).descBad (decide (0 < (s.dch c).submitter) && decide ((s.dch c).submitter < 64)) d = false := hgood
  have hon' : (Desc.touchesDevice d && (s.descAsked c).dramGroupOff) = false := hon
  unfold State.descFetch
  rw [State.descRead_host hhost hlen]
  simp only [hruns, hidle, hgood', hon', hline]
  simp

end

/-! ### DMA_ACCESS_RESPONSE (R345, R346) -/

theorem State.accessDone_srcError {s : State} {c : Nat} {d : Bytes} {off n : Nat} (hd : (s.dch c).desc = some d) (hop : Desc.op d ≠ 2)
    (hacc : isAccess (addrSpace (Desc.src d)).2 (Desc.count d) off n = true) :
    s.accessDone c true off n .error =
      (s.setDch c { s.dch c with fails := (s.dch c).fails ++ [⟨true, off, n, .error⟩] }).latch .dmaResp (c / 16) := by
  unfold State.accessDone
  simp only [hd]
  rw [if_neg (by simp [hop, hacc])]

theorem State.accessDone_dstGood {s : State} {c : Nat} {d : Bytes} {n : Nat} (hd : (s.dch c).desc = some d)
    (hacc : isAccess (addrSpace (Desc.dst d)).2 (Desc.count d) (s.dch c).progress n = true) :
    s.accessDone c false (s.dch c).progress n .ok =
      s.setDch c { s.dch c with progress := (s.dch c).progress + n, remain := Desc.count d - ((s.dch c).progress + n) } := by
  unfold State.accessDone
  simp only [hd]
  rw [if_neg (by simp [hacc]), if_neg (by simp)]

/-! ### COPY, FILL and COMPARE (R342, R345) -/

theorem State.dmaChecks_disarmed {s : State} {c : Nat} (h : s.fld Reg.PG_ERR_INJECT_COUNT (pageOf Blk.dma (c / 16)) = 0) :
    s.dmaChecks c = s := by
  unfold State.dmaChecks
  dsimp only
  rw [State.check_disarmed (src := .dmaSram) h, State.takeInject_eq_none (src := .dmaDatapath) h]

/-- Without a failing access and without a stop request a descriptor ends OK. -/
theorem dmaStatus_clean {x : DmaCh} (d : Bytes) (hstop : x.domainStop = false) (habort : x.abort = false) :
    dmaStatus x d [] = ⟨Dst.ok, Desc.count d, 0, none⟩ := by
  unfold dmaStatus
  simp [hstop, habort]

/-- A read of host memory by the channel's engine. -/
def State.dmaAsked (s : State) (c addr n : Nat) : State :=
  s.hostReq .memRead (addrSpace addr).2 n (some (if (s.dch c).submitter < 64 then (s.dch c).submitter else 0))

theorem State.dmaRead_host {s : State} {c addr n : Nat} {given : Bytes} (hhost : (addrSpace addr).1 = false) (hlen : given.length = n)
    (onSrc : Bool) (progress : Nat) : s.dmaRead c addr n given onSrc progress = (given, [], s.dmaAsked c addr n) := by
  have whole : (given ++ List.replicate n 0).take n = given := by rw [← hlen, List.take_left]
  unfold State.dmaRead State.dmaAsked
  dsimp only
  rw [hhost, if_pos (by decide), whole]

/-- The bytes that the channel's group has moved, counted. -/
def State.moved (s : State) (c n : Nat) : State :=
  { s with dma := { s.dma with bytes := Tab.set s.dma.bytes (c / 16) (Tab.get 0 s.dma.bytes (c / 16) + n) } }

theorem State.dmaWrite_clean (s : State) (c : Nat) (d : Bytes) {data : Bytes} (hlen : data.length = Desc.count d) :
    s.dmaWrite c d data ⟨Dst.ok, Desc.count d, 0, none⟩ =
      ((s.moved c (Desc.count d)).spaceWrite (addrSpace (Desc.dst d)).1 (addrSpace (Desc.dst d)).2 data
        (some (if (s.dch c).submitter < 64 then (s.dch c).submitter else 0))).setFld Reg.DMA_BYTES_KIB (c / 16)
          ((Tab.get 0 s.dma.bytes (c / 16) + Desc.count d) / 1024) := by
  have whole : data.take (Desc.count d) = data := by rw [← hlen, List.take_length]
  unfold State.dmaWrite State.moved
  simp only [whole]

/-- A running descriptor of a channel that runs, without a failing access or a stop request, of the register start and without
write-back. -/
structure DmaClean (s : State) (c : Nat) (d : Bytes) : Prop where
  runs : s.dmaRuns c = true
  disarmed : s.fld Reg.PG_ERR_INJECT_COUNT (pageOf Blk.dma (c / 16)) = 0
  running : (s.dch c).desc = some d
  fails : (s.dch c).fails = []
  domainStop : (s.dch c).domainStop = false
  abort : (s.dch c).abort = false
  job : (s.dch c).job = none
  wb : Desc.wb d = false

/-- What the end of a clean descriptor leaves. -/
structure DescEnded (s : State) (c : Nat) (d : Bytes) (st remain off : Nat) (t : State) : Prop where
  dch : t.dch c = if stopsChain d st ∨ Desc.next d = 0 then ((s.dch c).after st remain off).ended
    else { (s.dch c).after st remain off with cur := Desc.next d }
  mem : t.mem = s.mem
  hostMem : t.hst.mem = s.hst.mem
  variant : t.variant = s.variant
  pool : t.pool = s.pool
  base : t.fld Reg.BPM_DPOOL_BASE = s.fld Reg.BPM_DPOOL_BASE

theorem State.intEdge_hostMem (s : State) (id : Nat) : (s.intEdge id).hst.mem = s.hst.mem := by
  unfold State.intEdge State.hostMsg State.rrAssign State.sendMsix
  dsimp only
  repeat' split
  all_goals rfl

theorem DescEnded.of_stopped (s : State) (c : Nat) {d : Bytes} {st remain off : Nat} (whole : Bool) (hjob : (s.dch c).job = none)
    (h : stopsChain d st ∨ Desc.next d = 0) :
    DescEnded s c d st remain off ((s.setDch c ((s.dch c).after st remain off)).chainEnd c whole) := by
  have hend := State.chainEnd_of_register (s := s.setDch c ((s.dch c).after st remain off)) (c := c) whole
    ((congrArg DmaCh.job (State.dch_setDch ..)).trans hjob)
  refine ⟨?_, ?_, ?_, ?_, ?_, ?_⟩
  · rw [State.dch_chainEnd, State.dch_setDch, if_pos h]
  all_goals rw [hend]
  · exact State.intEdge_mem ..
  · exact State.intEdge_hostMem ..
  · exact State.intEdge_variant ..
  · exact State.intEdge_pool ..
  · exact State.fld_intEdge _ _ 0 (by decide) (by decide) (by decide)

theorem descEnded_descEnd {s : State} {c : Nat} {d : Bytes} {st remain off : Nat} (hjob : (s.dch c).job = none) (hwb : Desc.wb d = false)
    (hst : st < 2) : DescEnded s c d st remain off (s.descEnd c d st remain off) := by
  rw [State.descEnd_clean hwb hst]
  split
  next h => exact .of_stopped s c _ hjob (.inl h)
  next hgo =>
    split
    next h => exact .of_stopped s c _ hjob (.inr h)
    next hnext => exact ⟨by rw [State.dch_setDch, if_neg (by simp [hgo, hnext])], rfl, rfl, rfl, rfl, rfl⟩

/-! ### The three operations -/

section
variable {s : State} {c : Nat} {d : Bytes} (k : DmaClean s c d)
include k

theorem State.copyDone_clean {data : Bytes} (hop : Desc.op d = 1) (hlen : data.length = Desc.count d)
    (hsrc : (addrSpace (Desc.src d)).1 = false) (hdst : (addrSpace (Desc.dst d)).1 = true → s.dramGroupDead = false) :
    s.copyDone c data = ((s.dmaAsked c (Desc.src d) (Desc.count d)).dmaWrite c d data ⟨Dst.ok, Desc.count d, 0, none⟩).descEnd
      c d Dst.ok 0 (Desc.count d) := by
  have hmore : ¬ ((addrSpace (Desc.dst d)).1 = true ∧ (s.dmaAsked c (Desc.src d) (Desc.count d)).dramGroupDead = true) :=
    fun ⟨hdev, hdead⟩ => absurd ((hdst hdev).symm.trans hdead) (by decide)
  unfold State.copyDone
  simp only [k.runs, if_true, State.dmaChecks_disarmed k.disarmed, k.running, hop, State.dmaRead_host hsrc hlen, if_neg hmore,
    k.fails, List.append_nil, dmaStatus_clean d k.domainStop k.abort]
  rfl

theorem State.fillDone_clean (hop : Desc.op d = 2) (hdst : (addrSpace (Desc.dst d)).1 = false) :
    s.fillDone c = (s.dmaWrite c d ((List.range (Desc.count d)).map (Desc.fillByte d)) ⟨Dst.ok, Desc.count d, 0, none⟩).descEnd
      c d Dst.ok 0 (Desc.count d) := by
  unfold State.fillDone
  simp only [k.runs, if_true, State.dmaChecks_disarmed k.disarmed, k.running, hop, if_neg (show ¬ ((addrSpace (Desc.dst d)).1 = true ∧
    s.dramGroupDead = true) by simp [hdst]), k.fails, List.append_nil, dmaStatus_clean d k.domainStop k.abort]
  rfl

theorem State.compareDone_clean {a b : Bytes} (hop : Desc.op d = 3) (ha : a.length = Desc.count d) (hb : b.length = Desc.count d)
    (hsrc : (addrSpace (Desc.src d)).1 = false) (hdst : (addrSpace (Desc.dst d)).1 = false) :
    s.compareDone c a b = ((s.dmaAsked c (Desc.src d) (Desc.count d)).dmaAsked c (Desc.dst d) (Desc.count d)).descEnd c d
      (if firstDiff a b < Desc.count d then Dst.mismatch else Dst.ok) 0 (firstDiff a b) := by
  unfold State.compareDone
  simp only [k.runs, if_true, State.dmaChecks_disarmed k.disarmed, k.running, hop, State.dmaRead_host hsrc ha, State.dmaRead_host hdst hb,
    k.fails, List.append_nil, dmaStatus_clean d k.domainStop k.abort]
  rfl

end

/-- The first difference lies within strings of one length exactly where they differ. -/
theorem firstDiff_lt_iff {a b : Bytes} (h : a.length = b.length) : firstDiff a b < a.length ↔ a ≠ b := by
  induction a generalizing b with
  | nil =>
    obtain rfl : b = [] := List.length_eq_zero_iff.1 h.symm
    simp [firstDiff]
  | cons x xs ih =>
    obtain _ | ⟨y, ys⟩ := b
    · simp at h
    · by_cases hxy : x = y
      · have := ih (b := ys) (by simpa using h)
        simp [firstDiff, hxy, this]
      · simp [firstDiff, hxy]

theorem stopsChain_ok (d : Bytes) : stopsChain d Dst.ok = false := rfl

/-- The channel after a descriptor that ended OK. -/
theorem DescEnded.good {s t : State} {c : Nat} {d : Bytes} {remain off : Nat} (h : DescEnded s c d Dst.ok remain off t)
    (hbusy : (s.dch c).busy = true) :
    (t.dch c).lastSt = Dst.ok ∧ (t.dch c).descs = ((s.dch c).descs + 1) % 4294967296 ∧ (t.dch c).busy = (Desc.next d != 0) ∧
    (t.dch c).remain = remain := by
  rw [h.dch]
  by_cases hnext : Desc.next d = 0
  · rw [if_pos (.inr hnext)]
    exact ⟨rfl, rfl, by simp [hnext, DmaCh.ended], rfl⟩
  · rw [if_neg (by simp [hnext, stopsChain_ok])]
    exact ⟨rfl, rfl, hbusy.trans (by simp [hnext]), rfl⟩

/-- Whatever its status, the channel keeps the offset and the status of the descriptor that ended. -/
theorem DescEnded.result {s t : State} {c : Nat} {d : Bytes} {st remain off : Nat} (h : DescEnded s c d st remain off t) :
    (t.dch c).lastSt = st ∧ (t.dch c).offset = off := by
  rw [h.dch]
  split <;> exact ⟨rfl, rfl⟩

/-- A write of the destination changes no channel. -/
theorem State.dch_dmaWrite (s : State) (c : Nat) (d : Bytes) {data : Bytes} (hlen : data.length = Desc.count d) (e : Nat) :
    (s.dmaWrite c d data ⟨Dst.ok, Desc.count d, 0, none⟩).dch e = s.dch e := by
  rw [State.dmaWrite_clean s c d hlen]
  exact (congrArg (fun x : DmaSt => Tab.get {} x.ch e) ((State.setFld_dma ..).trans (State.spaceWrite_dma ..)))

theorem State.dmaWrite_host (s : State) {c : Nat} {d data : Bytes} (hlen : data.length = Desc.count d) (hdst : (addrSpace (Desc.dst d)).1 = false) :
    (s.dmaWrite c d data ⟨Dst.ok, Desc.count d, 0, none⟩).mem = s.mem ∧
    (s.dmaWrite c d data ⟨Dst.ok, Desc.count d, 0, none⟩).hst.mem = s.hst.mem.writeBytes (addrSpace (Desc.dst d)).2 data := by
  rw [State.dmaWrite_clean s c d hlen, hdst]
  exact ⟨rfl, rfl⟩

theorem State.dramByte_of_base {s t : State} (hbase : t.fld Reg.BPM_DPOOL_BASE = s.fld Reg.BPM_DPOOL_BASE) (hpool : t.pool = s.pool)
    (hmem : t.mem = s.mem) (x : Nat) : t.dramByte x = s.dramByte x := by
  unfold State.dramByte State.poolBufs
  rw [hbase, hpool, hmem]

theorem State.dmaRuns_busy {s : State} {c : Nat} (h : s.dmaRuns c = true) : (s.dch c).busy = true ∧ c < s.variant.dmaChannels := by
  simp only [State.dmaRuns, Bool.and_eq_true, decide_eq_true_eq] at h
  obtain ⟨⟨⟨hlt, hbusy⟩, -⟩, -⟩ := h
  exact ⟨hbusy, hlt⟩

/-- Device memory that no HDM decoder exposes takes the bytes at once. -/
theorem State.dmaWrite_device (s : State) {c : Nat} {d data : Bytes} (hlen : data.length = Desc.count d)
    (hdst : (addrSpace (Desc.dst d)).1 = true) (hwf : s.mem.dram.wf = true)
    (hfree : s.hst.hdm = [] ∨ s.hostRegionEnd ≤ (addrSpace (Desc.dst d)).2) :
    Stored s (s.dmaWrite c d data ⟨Dst.ok, Desc.count d, 0, none⟩) (addrSpace (Desc.dst d)).2 data ∧
    (s.dmaWrite c d data ⟨Dst.ok, Desc.count d, 0, none⟩).hst.mem = s.hst.mem := by
  have direct : (s.moved c (Desc.count d)).devWrite (addrSpace (Desc.dst d)).2 data =
      (s.moved c (Desc.count d)).dramPut (addrSpace (Desc.dst d)).2 data := by
    refine if_neg ?_
    rcases hfree with h | h
    · show ¬ (!s.hst.hdm.isEmpty && _) = true
      simp [h]
    · show ¬ (_ && decide ((addrSpace (Desc.dst d)).2 < s.hostRegionEnd)) = true
      simp [h]
  rw [State.dmaWrite_clean s c d hlen, hdst]
  unfold State.spaceWrite
  rw [if_pos rfl, direct]
  have counted := fun x => State.dramByte_of_base
    (State.fld_setFld_other ((s.moved c (Desc.count d)).dramPut (addrSpace (Desc.dst d)).2 data) (f := Reg.DMA_BYTES_KIB)
      (g := Reg.BPM_DPOOL_BASE) (i := c / 16) (j := 0) ((Tab.get 0 s.dma.bytes (c / 16) + Desc.count d) / 1024)
      (by decide) (by decide) (by decide)) rfl rfl x
  obtain ⟨inside, outside⟩ := stored_dramPut (s := s.moved c (Desc.count d)) hwf (addrSpace (Desc.dst d)).2 data
  refine ⟨⟨fun i hi => ?_, fun x hx => ?_⟩, ?_⟩
  · exact (counted _).trans (inside i hi)
  · exact (counted _).trans ((outside x hx).trans (State.dramByte_congr rfl rfl rfl rfl))
  · exact congrArg HostSt.mem (State.dramPut_hst (s.moved c (Desc.count d)) _ data)

/-- Settles O27: a fetch by the branches of `State.descFetch`; each operation without failing accesses ends its descriptor with
`descEnded_descEnd` after the write of its destination. -/
theorem dmaDescriptorsRun : Obligations.DmaDescriptorsRun := by
  intro s c hc hruns hinj
  refine ⟨fun d hidle hhost hline hlen => ⟨fun hgood hon => ?_, fun hbad => ?_, ?_⟩, fun d n hd hop hacc => ?_, fun d n hd hacc => ?_,
    fun d hd hfails hdom habort hjob hwb => ?_⟩
  · refine Runs.of_run (f := fun s => s.descFetch c d .ok) rfl hc (State.descFetch_good hruns hidle hhost hlen hline hgood hon) ?_
    exact State.dch_setDch ..
  · refine Runs.of_run (f := fun s => s.descFetch c d .ok) rfl hc (State.descFetch_bad hruns hidle hhost hlen hbad) ⟨?_, ?_, ?_⟩
    · rw [State.dch_descEnd_stops _ _ rfl]
      rfl
    · rw [State.dch_descEnd_stops _ _ rfl]
      rfl
    · exact State.latched_descEnd_badDesc ..
  · refine Runs.of_run (f := fun s => s.descFetch c d .error) rfl hc (State.descFetch_error hruns hidle hhost hlen) ⟨?_, ?_, ?_⟩
    · rw [State.dch_descEnd_stops _ _ rfl]
      rfl
    · rw [State.dch_descEnd_stops _ _ rfl]
      rfl
    · exact stuck_descEnd_stops _ _ rfl (State.latched_latch _ .dmaResp _ (by decide)) (by decide)
  · refine Runs.of_run (f := fun s => s.accessDone c true (s.dch c).progress n .error) rfl hc (State.accessDone_srcError hd hop hacc) ⟨?_, ?_⟩
    · rw [State.dch_congr (State.latch_dma ..), State.dch_setDch]
    · exact State.latched_latch _ _ _ (by decide)
  · exact Runs.of_run (f := fun s => s.accessDone c false (s.dch c).progress n .ok) rfl hc (State.accessDone_dstGood hd hacc) rfl
  · have k : DmaClean s c d := ⟨hruns, hinj, hd, hfails, hdom, habort, hjob, hwb⟩
    have hbusy := (State.dmaRuns_busy hruns).1
    refine ⟨fun data hop hlen hsrc => ⟨fun hdst => ?_, fun hdst hwf hfree hdead => ?_⟩, fun hop hdst => ?_, fun a b hop ha hb hsrc hdst => ?_⟩
    · have keep := State.dch_dmaWrite (s.dmaAsked c (Desc.src d) (Desc.count d)) c d hlen c
      obtain ⟨hmem, hhostMem⟩ := State.dmaWrite_host (s.dmaAsked c (Desc.src d) (Desc.count d)) (c := c) hlen hdst
      have ended := descEnded_descEnd (remain := 0) (off := Desc.count d) ((congrArg DmaCh.job keep).trans hjob) hwb (show Dst.ok < 2 by decide)
      obtain ⟨hst, hdescs, hnext, -⟩ := ended.good ((congrArg DmaCh.busy keep).trans hbusy)
      exact Runs.of_run (f := fun s => s.copyDone c data) rfl hc (State.copyDone_clean k hop hlen hsrc (by simp [hdst]))
        ⟨ended.hostMem.trans hhostMem, ended.mem.trans hmem, hst, by rw [hdescs, keep]; rfl, hnext⟩
    · have keep := State.dch_dmaWrite (s.dmaAsked c (Desc.src d) (Desc.count d)) c d hlen c
      obtain ⟨stored, hhostMem⟩ := State.dmaWrite_device (s.dmaAsked c (Desc.src d) (Desc.count d)) (c := c) hlen hdst hwf hfree
      have ended := descEnded_descEnd (remain := 0) (off := Desc.count d) ((congrArg DmaCh.job keep).trans hjob) hwb (show Dst.ok < 2 by decide)
      have same : ∀ x, _ := fun x => State.dramByte_of_base ended.base ended.pool ended.mem x
      refine Runs.of_run (f := fun s => s.copyDone c data) rfl hc (State.copyDone_clean k hop hlen hsrc fun _ => hdead)
        ⟨⟨fun i hi => (same _).trans (stored.1 i hi), fun x hx => (same x).trans (stored.2 x hx)⟩, ended.hostMem.trans hhostMem, ended.result.1⟩
    · have hlen : ((List.range (Desc.count d)).map (Desc.fillByte d)).length = Desc.count d := by simp
      have keep := State.dch_dmaWrite s c d hlen c
      obtain ⟨hmem, hhostMem⟩ := State.dmaWrite_host s (c := c) hlen hdst
      have ended := descEnded_descEnd (remain := 0) (off := Desc.count d) ((congrArg DmaCh.job keep).trans hjob) hwb (show Dst.ok < 2 by decide)
      obtain ⟨hst, -, -, hremain⟩ := ended.good ((congrArg DmaCh.busy keep).trans hbusy)
      exact Runs.of_run (f := fun s => s.fillDone c) rfl hc (State.fillDone_clean k hop hdst)
        ⟨ended.hostMem.trans hhostMem, ended.mem.trans hmem, hst, hremain⟩
    · have ended := descEnded_descEnd (s := (s.dmaAsked c (Desc.src d) (Desc.count d)).dmaAsked c (Desc.dst d) (Desc.count d)) (c := c)
        (st := if firstDiff a b < Desc.count d then Dst.mismatch else Dst.ok) (remain := 0) (off := firstDiff a b) hjob hwb
        (by split <;> decide)
      have differ : firstDiff a b < Desc.count d ↔ a ≠ b := ha ▸ firstDiff_lt_iff (ha.trans hb.symm)
      refine Runs.of_run (f := fun s => s.compareDone c a b) rfl hc (State.compareDone_clean k hop ha hb hsrc hdst)
        ⟨ended.hostMem, ended.mem, ended.result.2, ended.result.1.trans ?_⟩
      rw [if_congr differ rfl rfl]
      exact ite_not ..

end Sys2Proof.Machine
end

section
/-! PROOFS. Self-test groups and the stages of winding (18_faults_and_self_test.md R377, R379; 20_winding_clocks_power.md R399, R381; R22). -/

namespace Sys2Proof.Machine

/-! ### Results of self-test groups (R377, R379) -/

/-- The fields that show how a group ended. -/
def resultFields : List Fld :=
  [Reg.BST_RESULT_DONE, Reg.BST_RESULT_PASS, Reg.BST_RESULT_SKIPPED, Reg.BST_RESULT_TIMEOUT, Reg.BST_RESULT_COVERAGE, Reg.BST_DUR]

theorem resultFields_lt : ∀ f ∈ resultFields, f.id < 1024 := by decide

theorem resultFields_latch : ∀ f ∈ resultFields, f.id ∉ latchFields := by decide

/-- What the result of group `g` and the stage rest on is in `t` as in `s`; of the other groups more may have ended, but not group 5. -/
structure SameResult (g : Nat) (s t : State) : Prop where
  result : ∀ f ∈ resultFields, t.fld f g = s.fld f g
  stage : t.fld Reg.PWR_WIND_STAGE = s.fld Reg.PWR_WIND_STAGE
  ended : s.pwr.tested.contains g = true → t.pwr.tested.contains g = true
  last : t.pwr.tested.contains 5 = s.pwr.tested.contains 5

namespace SameResult

variable {g : Nat} {s t u : State}

theorem refl (g : Nat) (s : State) : SameResult g s s := ⟨fun _ _ => rfl, rfl, id, rfl⟩

theorem trans (h : SameResult g s t) (k : SameResult g t u) : SameResult g s u where
  result f hf := (k.result f hf).trans (h.result f hf)
  stage := k.stage.trans h.stage
  ended hs := k.ended (h.ended hs)
  last := k.last.trans h.last

theorem setFld (h : SameResult g s t) (f : Fld) (i v : Nat) (hf : f.id < 1024) (hresult : f.id ∉ resultFields.map Fld.id)
    (hstage : f.id ≠ Reg.PWR_WIND_STAGE.id) : SameResult g s (t.setFld f i v) :=
  h.trans {
    result := fun e he => State.fld_setFld_other _ _ (fun heq => hresult (heq ▸ List.mem_map_of_mem he)) hf (resultFields_lt e he)
    stage := State.fld_setFld_other _ _ hstage hf (by decide)
    ended := id
    last := rfl }

theorem latch (h : SameResult g s t) (src : Src) (i : Nat) : SameResult g s (t.latch src i) :=
  h.trans {
    result := fun e he => (State.latch_sameFld t src i).same e g (resultFields_lt e he) (resultFields_latch e he)
    stage := (State.latch_sameFld t src i).same _ 0 (by decide) (by decide)
    ended := fun hs => (congrArg (fun p : PowerSt => p.tested.contains g) (State.latch_pwr t src i)).trans hs
    last := congrArg (fun p : PowerSt => p.tested.contains 5) (State.latch_pwr t src i) }

/-- A latch that may not come about. -/
theorem latchUnless (h : SameResult g s t) (c : Prop) [Decidable c] (src : Src) (i : Nat) :
    SameResult g s (if c then t else t.latch src i) := by
  split
  · exact h
  · exact h.latch src i

theorem of_parts (hv : t.variant = s.variant) (hr : t.regs = s.regs) (hp : t.pwr = s.pwr) : SameResult g s t where
  result f _ := State.fld_congr hv hr f g
  stage := State.fld_congr hv hr ..
  ended h := by rwa [hp]
  last := by rw [hp]

end SameResult

/-- The registers that a group's result writes. -/
theorem State.fld_groupResult (s : State) (g pass skipped timeout coverage durUs : Nat) (f : Fld) (i : Nat) :
    (s.groupResult g pass skipped timeout coverage durUs).fld f i =
      ((((((s.setFld Reg.BST_RESULT_DONE g 1).setFld Reg.BST_RESULT_PASS g pass).setFld Reg.BST_RESULT_SKIPPED g skipped).setFld
        Reg.BST_RESULT_TIMEOUT g timeout).setFld Reg.BST_RESULT_COVERAGE g coverage).setFld Reg.BST_DUR g durUs).fld f i := rfl

/-- A write of a field at one index leaves every field at another index alone. -/
theorem State.fld_setFld_elsewhere (s : State) {f g : Fld} {i j : Nat} (v : Nat) (h : i ≠ j) (hf : f.id < 1024) (hg : g.id < 1024) :
    (s.setFld f i v).fld g j = s.fld g j := by
  apply State.fld_setFld_key
  unfold Fld.key
  omega

/-- The result of another group than the last. -/
theorem sameResult_groupResult (s : State) {g h : Nat} (hne : h ≠ g) (h5 : h ≠ 5) (pass skipped timeout coverage durUs : Nat) :
    SameResult g s (s.groupResult h pass skipped timeout coverage durUs) where
  result f hf := by
    have hlt := resultFields_lt f hf
    rw [State.fld_groupResult]
    iterate 6 rw [State.fld_setFld_elsewhere _ _ hne (by decide) hlt]
  stage := by
    rw [State.fld_groupResult]
    simp (disch := decide) only [State.fld_setFld_other]
  ended hs := by simp_all [State.groupResult]
  last := by simp [State.groupResult, Ne.symm h5]

/-- How a group ended. -/
structure ShowsResult (t : State) (g pass timeout coverage durUs : Nat) : Prop where
  tested : t.pwr.tested.contains g = true
  done : t.fld Reg.BST_RESULT_DONE g = 1
  pass : t.fld Reg.BST_RESULT_PASS g = pass
  timeout : t.fld Reg.BST_RESULT_TIMEOUT g = timeout
  skipped : t.fld Reg.BST_RESULT_SKIPPED g = 0
  coverage : t.fld Reg.BST_RESULT_COVERAGE g = coverage
  dur : t.fld Reg.BST_DUR g = durUs

theorem showsResult_groupResult (s : State) (g : Nat) {pass timeout coverage durUs : Nat} (hpass : pass < 2) (htimeout : timeout < 2)
    (hcoverage : coverage < 1024) (hdur : durUs < 4294967296) :
    ShowsResult (s.groupResult g pass 0 timeout coverage durUs) g pass timeout coverage durUs := by
  refine ⟨by simp [State.groupResult], ?_, ?_, ?_, ?_, ?_, ?_⟩
  all_goals
    rw [State.fld_groupResult]
    simp (disch := decide) only [State.fld_setFld_other, State.fld_setFld]
  · rfl
  · exact Nat.mod_eq_of_lt hpass
  · exact Nat.mod_eq_of_lt htimeout
  · rfl
  · exact Nat.mod_eq_of_lt hcoverage
  · exact Nat.mod_eq_of_lt hdur

theorem ShowsResult.of_same {s t : State} {g pass timeout coverage durUs : Nat} (h : ShowsResult s g pass timeout coverage durUs)
    (k : SameResult g s t) : ShowsResult t g pass timeout coverage durUs where
  tested := k.ended h.tested
  done := (k.result _ (by simp [resultFields])).trans h.done
  pass := (k.result _ (by simp [resultFields])).trans h.pass
  timeout := (k.result _ (by simp [resultFields])).trans h.timeout
  skipped := (k.result _ (by simp [resultFields])).trans h.skipped
  coverage := (k.result _ (by simp [resultFields])).trans h.coverage
  dur := (k.result _ (by simp [resultFields])).trans h.dur

theorem sameResult_showFail (g : Nat) (s : State) (f : BstFail) : SameResult g s (s.showFail f) := by
  have shown : SameResult g s (((((s.orFld Reg.BST_HOST_FAIL f.host).orFld Reg.BST_DRAM_FAIL f.dram).orFld Reg.BST_LANE_FAIL_LO
      (f.lanes % 2 ^ 32)).orFld Reg.BST_LANE_FAIL_HI (f.lanes / 2 ^ 32)).orFld Reg.BST_I2C_FAIL f.i2c) :=
    ((((SameResult.refl g s).setFld Reg.BST_HOST_FAIL 0 _ (by decide) (by decide) (by decide)).setFld Reg.BST_DRAM_FAIL 0 _ (by decide)
      (by decide) (by decide)).setFld Reg.BST_LANE_FAIL_LO 0 _ (by decide) (by decide) (by decide)).setFld Reg.BST_LANE_FAIL_HI 0 _
      (by decide) (by decide) (by decide) |>.setFld Reg.BST_I2C_FAIL 0 _ (by decide) (by decide) (by decide)
  have fabric := shown.latchUnless (¬ f.fabric = true) .bstFabric 0
  rw [ite_not] at fabric
  exact (((fabric.latchUnless (f.dram = 0) .bstDram 0).latchUnless (f.host = 0) .bstHostphy 0).latchUnless (f.lanes = 0) .bstLane
    0).latchUnless (f.i2c = 0) .bstI2c 0

theorem sameResult_showRunning (g : Nat) (s : State) : SameResult g s s.showRunning := by
  unfold State.showRunning
  split
  · exact (SameResult.refl g s).setFld Reg.BST_STATUS_RUNNING 0 _ (by decide) (by decide) (by decide)
  · exact .refl g s

theorem sameResult_skipGroup {g : Nat} (hg : g < 4) (s : State) : SameResult g s s.skipGroup := by
  unfold State.skipGroup
  split
  · exact sameResult_groupResult s (by omega) (by decide) ..
  · exact .refl g s

/-- While group 5 has not ended, what follows a group among 0 to 3 touches neither its result nor the stage. -/
theorem sameResult_afterGroup {s : State} {g : Nat} (hg : g < 4) (h5 : s.pwr.tested.contains 5 = false) :
    SameResult g s (s.afterGroup g) := by
  have released : SameResult g s (if g = 0 then { s with hst := { s.hst with phyReleased := true } } else s) := by
    split
    · exact .of_parts rfl rfl rfl
    · exact .refl g s
  have skipped := released.trans (sameResult_skipGroup hg _)
  unfold State.afterGroup
  dsimp only
  rw [if_neg (by simpa using fun _ _ _ _ _ => Bool.eq_false_iff.1 (skipped.last.trans h5))]
  exact skipped.trans (sameResult_showRunning g _)

theorem groupTypical_lt {g : Nat} (hg : g < 4) : 2 * groupTypical g < 4294967296 := by
  interval_cases g <;> decide

/-! ### SELF_TEST_GROUP and SELF_TEST_TIMEOUT -/

theorem State.inStage_of_fld {s : State} {k : Nat} (h : s.fld Reg.PWR_WIND_STAGE = k) : s.inStage k = true := by
  unfold State.inStage
  rw [h, beq_self_eq_true]

section
variable {s : State} {g : Nat} (hstage : s.fld Reg.PWR_WIND_STAGE = 1) (hrun : s.groupRunning = g) (hg : g < 4)
  (h5 : s.pwr.tested.contains 5 = false)
include hstage hrun hg h5

/-- A group's result leaves group 5 to come and the stage as they were. -/
theorem State.groupResult_goesOn (pass timeout coverage durUs : Nat) :
    (s.groupResult g pass 0 timeout coverage durUs).pwr.tested.contains 5 = false ∧
    (s.groupResult g pass 0 timeout coverage durUs).fld Reg.PWR_WIND_STAGE = 1 := by
  have same := sameResult_groupResult s (g := 7) (h := g) (by omega) (by omega) pass 0 timeout coverage durUs
  exact ⟨same.last.trans h5, same.stage.trans hstage⟩

theorem State.selfTest_shows {durUs : Nat} (hdur : durUs < 2 * groupTypical g) (coverage : Nat) (fail : BstFail) :
    ShowsResult (s.selfTest g coverage durUs fail) g (b2n (groupFail s.variant g fail == ⟨false, 0, 0, 0, 0⟩)) 0 (min coverage 1000) durUs ∧
    (s.selfTest g coverage durUs fail).fld Reg.PWR_WIND_STAGE = 1 := by
  have hbit : b2n (groupFail s.variant g fail == ⟨false, 0, 0, 0, 0⟩) < 2 := by
    cases groupFail s.variant g fail == ⟨false, 0, 0, 0, 0⟩ <;> decide
  have shown := showsResult_groupResult s g hbit (show 0 < 2 by decide) (show min coverage 1000 < 1024 by omega)
    (hdur.trans (groupTypical_lt hg))
  obtain ⟨htested, hst⟩ := State.groupResult_goesOn hstage hrun hg h5
    (b2n (groupFail s.variant g fail == ⟨false, 0, 0, 0, 0⟩)) 0 (min coverage 1000) durUs
  have failed := sameResult_showFail g (s.groupResult g (b2n (groupFail s.variant g fail == ⟨false, 0, 0, 0, 0⟩)) 0 0 (min coverage 1000) durUs)
    (groupFail s.variant g fail)
  have same := failed.trans (sameResult_afterGroup hg (failed.last.trans htested))
  unfold State.selfTest
  rw [if_neg (by simp [State.inStage_of_fld hstage, hrun, Nat.not_le.2 hdur])]
  exact ⟨shown.of_same same, same.stage.trans hst⟩

theorem State.groupTimeout_shows (coverage : Nat) :
    ShowsResult (s.groupTimeout g coverage) g 0 1 (min coverage 1000) (2 * groupTypical g) ∧
    (s.groupTimeout g coverage).fld Reg.PWR_WIND_STAGE = 1 := by
  have shown := showsResult_groupResult s g (show 0 < 2 by decide) (show 1 < 2 by decide) (show min coverage 1000 < 1024 by omega)
    (groupTypical_lt hg)
  obtain ⟨htested, hst⟩ := State.groupResult_goesOn hstage hrun hg h5 0 1 (min coverage 1000) (2 * groupTypical g)
  have latched := (SameResult.refl g (s.groupResult g 0 0 1 (min coverage 1000) (2 * groupTypical g))).latch .bstTimeout 0
  have same := latched.trans (sameResult_afterGroup hg (latched.last.trans htested))
  unfold State.groupTimeout
  rw [if_neg (by simp [State.inStage_of_fld hstage, hrun])]
  exact ⟨shown.of_same same, same.stage.trans hst⟩

end

/-! ### Stages (R399) -/

/-- The registers that the end of a stage writes. -/
theorem State.fld_stageEnd (s : State) (next : Nat) (f : Fld) (i : Nat) :
    (s.stageEnd next).fld f i = ((s.setFld Reg.PWR_STAGE_US (s.fld Reg.PWR_WIND_STAGE) ((s.now - s.pwr.stageStart) / Clk.us)).setFld
      Reg.PWR_WIND_STAGE 0 next).fld f i := rfl

/-- The end of a stage names the next one. -/
theorem State.fld_stageEnd_stage (s : State) {k : Nat} (h : k < 16) : (s.stageEnd k).fld Reg.PWR_WIND_STAGE = k :=
  (State.fld_setFld ..).trans (Nat.mod_eq_of_lt h)

theorem State.fld_stageEnd_us (s : State) {k : Nat} (hk : s.fld Reg.PWR_WIND_STAGE = k) (next : Nat) :
    (s.stageEnd next).fld Reg.PWR_STAGE_US k = (s.now - s.pwr.stageStart) / Clk.us % 4294967296 := by
  rw [State.fld_stageEnd, State.fld_setFld_other _ _ (by decide) (by decide) (by decide), hk]
  exact State.fld_setFld s Reg.PWR_STAGE_US _ _

theorem State.fld_stageEnd_other (s : State) (next : Nat) {f : Fld} (i : Nat) (hf : f.id < 1024) (hus : f.id ≠ Reg.PWR_STAGE_US.id)
    (hstage : f.id ≠ Reg.PWR_WIND_STAGE.id) : (s.stageEnd next).fld f i = s.fld f i := by
  rw [State.fld_stageEnd, State.fld_setFld_other _ _ (Ne.symm hstage) (by decide) hf,
    State.fld_setFld_other _ _ (Ne.symm hus) (by decide) hf]

theorem State.fld_showRunning_other (s : State) {f : Fld} (i : Nat) (hf : f.id < 1024) (hne : f.id ≠ Reg.BST_STATUS_RUNNING.id) :
    s.showRunning.fld f i = s.fld f i := by
  unfold State.showRunning
  split
  · exact State.fld_setFld_other _ _ (Ne.symm hne) (by decide) hf
  · rfl

/-- A stage that ends one way or another names the next one. -/
theorem fld_windW3 {s : State} (h : s.fld Reg.PWR_WIND_STAGE = 3) : s.windW3.fld Reg.PWR_WIND_STAGE = 4 := by
  unfold State.windW3
  rw [if_neg (by simp [State.inStage_of_fld h])]
  split <;> exact State.fld_stageEnd_stage _ (by decide)

theorem fld_windW4 {s : State} (h : s.fld Reg.PWR_WIND_STAGE = 4) : s.windW4.fld Reg.PWR_WIND_STAGE = 5 := by
  unfold State.windW4
  rw [if_neg (by simp [State.inStage_of_fld h])]
  exact State.fld_stageEnd_stage _ (by decide)

theorem fld_windW6 {s : State} (h : s.fld Reg.PWR_WIND_STAGE = 6) : s.windW6.fld Reg.PWR_WIND_STAGE = 7 := by
  unfold State.windW6
  rw [if_neg (by simp [State.inStage_of_fld h])]
  exact State.fld_stageEnd_stage _ (by decide)

/-- The state of W0 once the straps are sampled and the root PLL has locked. -/
def State.strapped (s : State) (testMode capWriteN : Bool) (bootSel : Nat) : State :=
  let s1 : State := { s.endUnlock with
    pwr := { s.pwr with testMode := testMode, capWriteN := capWriteN, bootSel := bootSel % 4
                        lastSample := s.pwr.windStart, tested := [] }
    kst := { s.kst with windings := wrap 32 (s.kst.windings + 1) }
    hst := { s.hst with keysPresent := false, keysCleared := false } }
  let s2 : State := { s1 with flt := { s1.flt with testHeld := testMode, logged := [] } }
  ((s2.setFld Reg.CLK_STATUS_ROOT_LOCK 0 1).setFld Reg.CLK_STATUS_REFCLK_OK 0 1).setSession !capWriteN

theorem State.fld_strapped (s : State) (testMode capWriteN : Bool) (bootSel : Nat) (f : Fld) (i : Nat) :
    (s.strapped testMode capWriteN bootSel).fld f i = (((s.setFld Reg.CLK_STATUS_ROOT_LOCK 0 1).setFld Reg.CLK_STATUS_REFCLK_OK 0 1).setFld
      Reg.FUS_CAP_CTL_UNLOCKED 0 (b2n !capWriteN)).fld f i := rfl

theorem exec_windingW0 {s : State} (hc : s.pwr.clocksStopped = false) (h : s.fld Reg.PWR_WIND_STAGE = 0) (testMode capWriteN : Bool)
    (bootSel : Nat) :
    exec (.windingW0 testMode capWriteN bootSel) s = .next ((s.strapped testMode capWriteN bootSel).stageEnd 1).showRunning :=
  congrArg Host.Outcome.next (if_neg (by simp [State.inStage_of_fld h, hc]))

theorem State.showRunning_parts (s : State) :
    s.showRunning.pwr = s.pwr ∧ s.showRunning.kst = s.kst ∧ s.showRunning.fus = s.fus ∧ s.showRunning.flt = s.flt := by
  unfold State.showRunning
  split <;> exact ⟨rfl, rfl, rfl, rfl⟩

/-- W0: the straps are sampled and the winding count goes up by one. -/
theorem runs_windingW0 {s : State} (hc : s.pwr.clocksStopped = false) (h : s.fld Reg.PWR_WIND_STAGE = 0) (testMode capWriteN : Bool)
    (bootSel : Nat) : Runs (.windingW0 testMode capWriteN bootSel) s fun t =>
      t.fld Reg.PWR_WIND_STAGE = 1 ∧ stageUs s 0 t ∧ t.fld Reg.CLK_STATUS_ROOT_LOCK = 1 ∧ t.pwr.testMode = testMode ∧
      t.pwr.capWriteN = capWriteN ∧ t.pwr.bootSel = bootSel % 4 ∧ t.kst.windings = (s.kst.windings + 1) % 4294967296 ∧
      t.fus.session = !capWriteN ∧ t.flt.testHeld = testMode ∧ t.pwr.stageStart = s.now := by
  refine ⟨_, exec_windingW0 hc h testMode capWriteN bootSel, ?_⟩
  obtain ⟨hpwr, hkst, hfus, hflt⟩ := ((s.strapped testMode capWriteN bootSel).stageEnd 1).showRunning_parts
  rw [hpwr, hkst, hfus, hflt]
  refine ⟨?_, ?_, ?_, rfl, rfl, rfl, rfl, rfl, rfl, rfl⟩
  · rw [State.fld_showRunning_other _ 0 (by decide) (by decide)]
    exact State.fld_stageEnd_stage _ (by decide)
  · unfold stageUs
    rw [State.fld_showRunning_other _ 0 (by decide) (by decide)]
    refine State.fld_stageEnd_us (s.strapped testMode capWriteN bootSel) ?_ 1
    rw [State.fld_strapped]
    simpa (disch := decide) only [State.fld_setFld_other] using h
  · rw [State.fld_showRunning_other _ 0 (by decide) (by decide), State.fld_stageEnd_other _ _ 0 (by decide) (by decide) (by decide),
      State.fld_strapped]
    simp (disch := decide) only [State.fld_setFld_other, State.fld_setFld]
    rfl

theorem State.fld_withMem (s : State) (m : MemSt) (f : Fld) (i : Nat) : State.fld { s with mem := m } f i = s.fld f i := rfl

/-- W5: every line of the DRAM reads as 0 again, at point 0. -/
theorem windW5_empties {s : State} (h : s.fld Reg.PWR_WIND_STAGE = 5) (chans : List ChanTrain) (timing : List Nat) :
    (s.windW5 chans timing).fld Reg.PWR_WIND_STAGE = 6 ∧ (s.windW5 chans timing).mem.dram = [] ∧ (s.windW5 chans timing).mem.poison = [] ∧
    (s.windW5 chans timing).mem.zeroNext = 0 ∧ (s.windW5 chans timing).fld Reg.MEM_STATUS_ZEROED = 0 ∧
    (s.windW5 chans timing).fld Reg.MEM_STATUS_FREQ = 0 := by
  unfold State.windW5
  rw [if_neg (by simp [State.inStage_of_fld h])]
  refine ⟨State.fld_stageEnd_stage _ (by decide), rfl, rfl, rfl, ?_, ?_⟩
  all_goals
    refine (State.fld_stageEnd_other _ _ 0 (by decide) (by decide) (by decide)).trans
      ((State.fld_withMem ..).trans ?_)
  · exact State.fld_setFld ..
  · exact (State.fld_setFld_other _ _ (by decide) (by decide) (by decide)).trans (State.fld_setFld ..)

theorem State.placeMark_only (s : State) (m : Nat) : ∃ x, s.placeMark m = { s with clb := x } ∧ x.lastMark = s.clb.lastMark := by
  unfold State.placeMark
  split <;> exact ⟨_, rfl, rfl⟩

/-- The state of W7 before the first mark is placed. -/
def State.firstMark (s : State) : State :=
  { (((s.setFld Reg.PWR_WIND_TOTAL_US 0 ((s.now - s.pwr.windStart) / Clk.us)).setFld Reg.PWR_WIND_STAGE 0 15).setFld
      Reg.BPM_STATUS_ODIE_READY 0 1).setFld Reg.BPM_STATUS_DPOOL_READY 0 1 with
    flt := { s.flt with promiseVoid := s.flt.promiseVoid || s.flt.c4 }
    clb := { s.clb with lastMark := s.now, acc := 0 } }

theorem State.fld_firstMark (s : State) (f : Fld) (i : Nat) :
    s.firstMark.fld f i = ((((s.setFld Reg.PWR_WIND_TOTAL_US 0 ((s.now - s.pwr.windStart) / Clk.us)).setFld Reg.PWR_WIND_STAGE 0
      15).setFld Reg.BPM_STATUS_ODIE_READY 0 1).setFld Reg.BPM_STATUS_DPOOL_READY 0 1).fld f i := rfl

/-- W7: the pools are ready, the frame clock starts, and a C4 latch that was kept voids the promise again. -/
theorem windW7_starts {s : State} (h : s.fld Reg.PWR_WIND_STAGE = 7) :
    s.windW7.fld Reg.PWR_WIND_STAGE = 15 ∧ s.windW7.fld Reg.BPM_STATUS_ODIE_READY = 1 ∧ s.windW7.fld Reg.BPM_STATUS_DPOOL_READY = 1 ∧
    s.windW7.clb.lastMark = s.now ∧ s.windW7.flt.promiseVoid = (s.flt.promiseVoid || s.flt.c4) ∧ s.windW7.flt.c4 = s.flt.c4 := by
  obtain ⟨x, hx, hlast⟩ := s.firstMark.placeMark_only s.now
  have hseven : s.windW7 = { s.firstMark with clb := x } := (if_neg (by simp [State.inStage_of_fld h])).trans hx
  rw [hseven]
  refine ⟨?_, ?_, ?_, hlast, rfl, rfl⟩
  all_goals
    refine (State.fld_congr (s := s.firstMark) rfl rfl ..).trans ((s.fld_firstMark ..).trans ?_)
    simp (disch := decide) only [State.fld_setFld_other, State.fld_setFld]
    rfl

/-- Settles O6: a group's result outlasts what follows it (`SameResult`), and each stage ends in `State.stageEnd`. -/
theorem windingStagesAndSelfTests : Obligations.WindingStagesAndSelfTests := by
  refine ⟨fun s g coverage hc hstage hrun hg h5 => ⟨fun durUs fail hdur => ?_, ?_⟩, fun s hc =>
    ⟨fun testMode capWriteN bootSel h => runs_windingW0 hc h testMode capWriteN bootSel, fun h => ?_, fun h => ?_, fun h => ?_,
      fun chans timing h => ?_, fun h => ?_, fun h => ?_⟩⟩
  · obtain ⟨shown, hstays⟩ := State.selfTest_shows hstage hrun hg h5 hdur coverage fail
    refine Runs.of_run (f := fun s => s.selfTest g coverage durUs fail) rfl hc rfl ⟨shown.tested, shown.done, shown.timeout, shown.skipped,
      shown.coverage, shown.dur, hstays, ?_⟩
    rw [shown.pass]
    by_cases hfail : groupFail s.variant g fail = ⟨false, 0, 0, 0, 0⟩ <;> simp [hfail, b2n]
  · obtain ⟨shown, hstays⟩ := State.groupTimeout_shows hstage hrun hg h5 coverage
    exact Runs.of_run (f := fun s => s.groupTimeout g coverage) rfl hc rfl ⟨shown.tested, shown.done, shown.pass, shown.timeout, shown.coverage,
      shown.dur, hstays⟩
  · refine Runs.of_run (f := State.windW2) rfl hc (if_neg (by simp [State.inStage_of_fld h])) ⟨State.fld_stageEnd_stage _ (by decide), ?_, rfl⟩
    exact State.fld_stageEnd_us (s := { s with hst := { s.hst with keysPresent := true } }) h 3
  · exact Runs.of_run (f := State.windW3) rfl hc rfl (fld_windW3 h)
  · exact Runs.of_run (f := State.windW4) rfl hc rfl (fld_windW4 h)
  · exact Runs.of_run (f := fun s => s.windW5 chans timing) rfl hc rfl (windW5_empties h chans timing)
  · exact Runs.of_run (f := State.windW6) rfl hc rfl (fld_windW6 h)
  · exact Runs.of_run (f := State.windW7) rfl hc rfl (windW7_starts h)

end Sys2Proof.Machine
end

section
/-! PROOFS. The ports of the panel link: what leaving a state, an event and the checkers of lanes leave alone, and what a port that
trains has (14_panel_link.md R264, R295 to R298). -/

namespace Sys2Proof.Machine

/-! ### What the link's bookkeeping leaves alone -/

/-- The time, the registers of the ports and every sticky bit set are in `t` as in `s`; so are, where `still` holds, the lanes, what they
count and their loss of alignment. -/
structure LinkRegs (still : Prop) (s t : State) : Prop where
  now : t.now = s.now
  stuck : ∀ p b, b < 32 → s.stuck p b → t.stuck p b
  plk : ∀ (f : Fld) (i : Nat), 385 ≤ f.id → f.id < 423 → t.fld f i = s.fld f i
  lane : still → ∀ l, t.lane l = s.lane l
  lne : still → ∀ (f : Fld) (i : Nat), 427 ≤ f.id → f.id < 449 → t.fld f i = s.fld f i
  lost : still → ∀ l, s.fld Reg.LNE_STATUS_ALIGNED l = 0 → t.fld Reg.LNE_STATUS_ALIGNED l = 0

/-- As `LinkRegs`, and every port is in `t` as in `s`. -/
structure LinkSame (still : Prop) (s t : State) : Prop where
  regs : LinkRegs still s t
  port : ∀ r, t.port r = s.port r

theorem latchFields_notLink : ∀ n ∈ latchFields, n < 385 ∨ 449 ≤ n := by decide

namespace LinkRegs

variable {c : Prop} {s t u : State}

theorem trans (h : LinkRegs c s t) (k : LinkRegs c t u) : LinkRegs c s u where
  now := k.now.trans h.now
  stuck p b hb hs := k.stuck p b hb (h.stuck p b hb hs)
  plk f i hlo hhi := (k.plk f i hlo hhi).trans (h.plk f i hlo hhi)
  lane hc l := (k.lane hc l).trans (h.lane hc l)
  lne hc f i hlo hhi := (k.lne hc f i hlo hhi).trans (h.lne hc f i hlo hhi)
  lost hc l hl := k.lost hc l (h.lost hc l hl)

theorem of_parts (hnow : t.now = s.now) (hv : t.variant = s.variant) (hr : t.regs = s.regs) (hlane : ∀ l, t.lane l = s.lane l) :
    LinkRegs c s t where
  now := hnow
  stuck _ _ _ hs := stuck_of_regs hv hr hs
  plk f i _ _ := State.fld_congr hv hr f i
  lane _ := hlane
  lne _ f i _ _ := State.fld_congr hv hr f i
  lost _ _ hl := (State.fld_congr hv hr ..).trans hl

theorem refl (c : Prop) (s : State) : LinkRegs c s s := of_parts rfl rfl rfl fun _ => rfl

theorem setPort (s : State) (p : Nat) (x : PlkPort) : LinkRegs c s (s.setPort p x) := of_parts rfl rfl rfl fun _ => rfl

/-- A write of a field outside the link's pages. -/
theorem setFld (s : State) (f : Fld) (i v : Nat) (hl : f.id < 1024) (hout : f.id < 385 ∨ 449 ≤ f.id)
    (hsticky : f.id ≠ Reg.PG_ERR_STICKY.id) : LinkRegs c s (s.setFld f i v) where
  now := rfl
  stuck _ _ _ hs := stuck_setFld hs f i v hl hsticky
  plk _ _ _ _ := State.fld_setFld_other s v (by omega) hl (by omega)
  lane _ _ := rfl
  lne _ _ _ _ _ := State.fld_setFld_other s v (by omega) hl (by omega)
  lost _ _ hs := (State.fld_setFld_other s v (by show f.id ≠ 425; omega) hl (by decide)).trans hs

theorem of_sameFld (hnow : t.now = s.now) (hplk : t.plk = s.plk) (hfld : SameFld s t)
    (hstuck : ∀ p b, b < 32 → s.stuck p b → t.stuck p b) : LinkRegs c s t where
  now := hnow
  stuck := hstuck
  plk f i _ _ := hfld.same f i (by omega) fun h => by have := latchFields_notLink _ h; omega
  lane _ _ := by
    unfold State.lane
    rw [hplk]
  lne _ f i _ _ := hfld.same f i (by omega) fun h => by have := latchFields_notLink _ h; omega
  lost _ _ hs := (hfld.same Reg.LNE_STATUS_ALIGNED _ (by decide) (by decide)).trans hs

end LinkRegs

namespace LinkSame

variable {c : Prop} {s t u : State}

theorem refl (c : Prop) (s : State) : LinkSame c s s := ⟨.refl c s, fun _ => rfl⟩

theorem trans (h : LinkSame c s t) (k : LinkSame c t u) : LinkSame c s u :=
  ⟨h.regs.trans k.regs, fun r => (k.port r).trans (h.port r)⟩

theorem foldl {α : Type} {f : State → α → State} (h : ∀ t a, LinkSame c t (f t a)) (l : List α) (s : State) :
    LinkSame c s (l.foldl f s) :=
  List.foldlRecOn l f (.refl c s) fun _ ht a _ => ht.trans (h _ a)

theorem of_parts (hnow : t.now = s.now) (hv : t.variant = s.variant) (hr : t.regs = s.regs) (hplk : t.plk = s.plk) : LinkSame c s t where
  regs := .of_parts hnow hv hr fun _ => by
    unfold State.lane
    rw [hplk]
  port _ := by
    unfold State.port
    rw [hplk]

theorem setFld (s : State) (f : Fld) (i v : Nat) (hl : f.id < 1024 := by decide) (hout : f.id < 385 ∨ 449 ≤ f.id := by decide)
    (hsticky : f.id ≠ Reg.PG_ERR_STICKY.id := by decide) : LinkSame c s (s.setFld f i v) :=
  ⟨.setFld s f i v hl hout hsticky, fun _ => rfl⟩

theorem of_sameFld (hnow : t.now = s.now) (hplk : t.plk = s.plk) (hfld : SameFld s t)
    (hstuck : ∀ p b, b < 32 → s.stuck p b → t.stuck p b) : LinkSame c s t where
  regs := .of_sameFld hnow hplk hfld hstuck
  port _ := by
    unfold State.port
    rw [hplk]

theorem latch (s : State) (src : Src) (i : Nat) : LinkSame c s (s.latch src i) :=
  of_sameFld (State.latch_now ..) (State.latch_plk ..) (State.latch_sameFld ..) fun _ _ hb hs => State.stuck_latch hs hb src i

theorem event (s : State) (ring en : Fld) (code blk source : Nat) (args : List Nat) : LinkSame c s (s.event ring en code blk source args) :=
  of_sameFld (State.event_now ..) (State.event_plk ..) ((outlastsLatch_sameFld s).event (.refl s) ..) fun p _ hb hs =>
    (outlastsLatch_stuck p hb).event hs ..

theorem finish (s : State) (j status r0 r1 r2 r3 : Nat) : LinkSame c s (s.finish j status r0 r1 r2 r3) :=
  of_sameFld (State.finish_now ..) (State.finish_plk ..) ((outlastsLatch_sameFld s).finish (.refl s) ..) fun p _ hb hs =>
    (outlastsLatch_stuck p hb).finish hs ..

/-! ### Buffers that a port lets go (R264) -/

theorem setBuf (s : State) (b : Nat) (x : Buf) : LinkSame c s (s.setBuf b x) := of_parts rfl rfl rfl rfl

theorem setOwn (s : State) (o : Nat) (x : Owner) : LinkSame c s (s.setOwn o x) := of_parts rfl rfl rfl rfl

theorem setPool (s : State) (x : Nat) (p : Pool) : LinkSame c s (s.setPool x p) := by
  apply of_parts <;> simp

theorem misuse (s : State) (op st o b : Nat) : LinkSame c s (s.misuse op st o b) := by
  unfold State.misuse State.count
  exact (setFld _ Reg.BPM_MISUSE ..).trans ((setFld _ Reg.BPM_MISUSE_LAST_OP ..).trans
    ((setFld _ Reg.BPM_MISUSE_LAST_STATUS ..).trans ((setFld _ Reg.BPM_MISUSE_LAST_OWNER ..).trans
      ((setFld _ Reg.BPM_MISUSE_BUF ..).trans (latch ..)))))

theorem bufWrite (s : State) (b off : Nat) (bs : Bytes) : LinkSame c s (s.bufWrite b off bs) := by
  unfold State.bufWrite
  split
  · exact of_parts rfl rfl rfl rfl
  · apply of_parts <;> simp

theorem pushFree (s : State) (b : Nat) : LinkSame c s (s.pushFree b) := by
  unfold State.pushFree State.thread
  exact (setBuf ..).trans ((bufWrite ..).trans (setPool ..))

theorem dropShare (s : State) (b : Nat) : LinkSame c s (s.dropShare b) := by
  unfold State.dropShare
  dsimp only
  split
  · exact (setPool ..).trans (pushFree ..)
  · exact setBuf ..

theorem poolRelease (s : State) (o b : Nat) : LinkSame c s (s.poolRelease o b).2 := by
  unfold State.poolRelease State.held
  split
  · exact (setOwn ..).trans (dropShare ..)
  · exact misuse ..

theorem dropCopy (s : State) (o : Nat) (f : LinkFrame) : LinkSame c s (s.dropCopy o f) :=
  (foldl (fun t b => poolRelease t _ b) f.bufs s).trans (of_parts rfl rfl rfl rfl)

theorem dropCrossing (s : State) (i o : Nat) : LinkSame c s (s.dropCrossing i o) := by
  unfold State.dropCrossing
  dsimp only
  split
  · exact .refl c s
  · split
    · exact .refl c s
    · exact (foldl (fun t b => poolRelease t _ b) _ s).trans (of_parts rfl rfl rfl rfl)

theorem dropPort (s : State) (p : Nat) : LinkSame c s (s.dropPort p) := by
  have cleared : LinkSame c s (s.setSport p { s.sport p with tileQ := [], leaves := [] }) := of_parts rfl rfl rfl rfl
  unfold State.dropPort
  exact cleared.trans ((foldl (fun t f => dropCopy t p f) _ _).trans (foldl (fun t i => dropCrossing t i p) _ _))

theorem plkEvent (s : State) (code source : Nat) (args : List Nat) : LinkSame c s (s.plkEvent code source args) := event ..

end LinkSame

/-! ### Changes of STATE (R295) -/

/-- A write of a field of the lanes. -/
theorem LinkSame.setLne (s : State) (f : Fld) (i v : Nat) (hl : f.id < 1024 := by decide) (hout : 423 ≤ f.id := by decide)
    (hsticky : f.id ≠ Reg.PG_ERR_STICKY.id := by decide) : LinkSame False s (s.setFld f i v) where
  regs :=
    { now := rfl
      stuck := fun _ _ _ hs => stuck_setFld hs f i v hl hsticky
      plk := fun _ _ _ _ => State.fld_setFld_other s v (by omega) hl (by omega)
      lane := False.elim
      lne := False.elim
      lost := False.elim }
  port _ := rfl

/-- The counts of a lane's checker touch no port. -/
theorem linkSame_prbsSettle (s : State) (l : Nat) (on : Bool) : LinkSame False s (s.prbsSettle l on) := by
  unfold State.prbsSettle
  exact (LinkSame.setLne s Reg.LNE_PRBS_ERR l _).trans
    { regs := { now := rfl, stuck := fun _ _ _ hs => hs, plk := fun _ _ _ _ => rfl, lane := False.elim, lne := False.elim, lost := False.elim }
      port := fun _ => rfl }

theorem linkSame_prbsPort (s : State) (p : Nat) (on : Bool) : LinkSame False s (s.prbsPort p on) :=
  LinkSame.foldl (fun t l => by
    split
    · exact .refl _ t
    · exact (linkSame_prbsSettle t l _).trans (LinkSame.setLne _ Reg.LNE_TEST_CHK_LOCK l _)) _ s

/-- `t` has the state `new` in port p, and whatever a change of STATE leaves alone as `s` has it. -/
structure PortMoved (s t : State) (p new : Nat) : Prop where
  port : t.port p = { s.port p with state := new, outSince := (t.port p).outSince, pos := (t.port p).pos }
  pos : (s.port p).state ≠ 3 → (t.port p).pos = (s.port p).pos
  others : ∀ r, r ≠ p → t.port r = s.port r
  regs : LinkRegs ((s.port p).state ≠ 4 ∧ new ≠ 4) s t

theorem LinkRegs.weaken {c d : Prop} {s t : State} (h : LinkRegs c s t) (k : d → c) : LinkRegs d s t :=
  ⟨h.now, h.stuck, h.plk, fun hd => h.lane (k hd), fun hd => h.lne (k hd), fun hd => h.lost (k hd)⟩

theorem LinkSame.weaken {c d : Prop} {s t : State} (h : LinkSame c s t) (k : d → c) : LinkSame d s t := ⟨h.regs.weaken k, h.port⟩

/-- The checkers of a port's lanes stop when it leaves TEST and start when it enters it. -/
theorem linkSame_prbs (s : State) (p old new : Nat) :
    LinkSame (old ≠ 4 ∧ new ≠ 4) s (if old = 4 then s.prbsPort p false else if new = 4 then s.prbsPort p true else s) := by
  split
  next h => exact (linkSame_prbsPort s p false).weaken fun k => k.1 h
  next =>
    split
    next h => exact (linkSame_prbsPort s p true).weaken fun k => k.2 h
    next => exact .refl _ s

/-- The reads of a port's records end. -/
def PlkPort.stopped (y : PlkPort) : PlkPort :=
  { y with pos := y.pos.map fun q => (q.1, ({ q.2 with engine := 0, tries := 0, good := false, fresh := [] } : Position)) }

theorem linkSame_stopIdent (c : Prop) (s : State) (p : Nat) : LinkSame c (s.setPort p (s.port p).stopped) (s.stopIdent p) := by
  unfold State.stopIdent
  exact LinkSame.foldl (fun t j => LinkSame.finish t j ..) _ _

theorem portMoved_setPortState (s : State) (p new cause : Nat) : PortMoved s (s.setPortState p new cause) p new := by
  unfold State.setPortState
  dsimp only
  split
  next h =>
    subst h
    exact ⟨rfl, fun _ => rfl, fun _ _ => rfl, .refl _ s⟩
  next hne =>
    have checked := linkSame_prbs s p (s.port p).state new
    have skipped : ∀ (u : State) (x : SchPort), LinkSame ((s.port p).state ≠ 4 ∧ new ≠ 4) u (if new = 3 then u.setSport p x else u) := by
      intro u x
      split
      · exact .of_parts rfl rfl rfl rfl
      · exact .refl _ u
    have base := checked.trans (skipped _ { s.sport p with skipped := (s.sport p).skipped +
      (s.now - max (s.port p).outSince (s.sport p).markAt) })
    revert base
    generalize (if new = 3 then State.setSport _ p _ else _) = u
    intro base
    generalize (if (s.port p).state = 3 then s.now else (s.port p).outSince) = o
    have moved : (u.setPort p { s.port p with state := new, outSince := o }).port p = { s.port p with state := new, outSince := o } :=
      State.port_setPort ..
    split
    next h =>
      have dropped := LinkSame.dropPort (c := (s.port p).state ≠ 4 ∧ new ≠ 4) (u.setPort p { s.port p with state := new, outSince := o }) p
      have stopped := linkSame_stopIdent ((s.port p).state ≠ 4 ∧ new ≠ 4)
        ((u.setPort p { s.port p with state := new, outSince := o }).dropPort p) p
      have told := fun args => LinkSame.plkEvent (c := (s.port p).state ≠ 4 ∧ new ≠ 4)
        (((u.setPort p { s.port p with state := new, outSince := o }).dropPort p).stopIdent p) 0x0F01 p args
      have hport := ((told [new, (s.port p).state, cause, (s.port p).receivers]).port p).trans ((stopped.port p).trans (State.port_setPort ..))
      rw [dropped.port p, moved] at hport
      refine ⟨?_, fun hne3 => absurd h hne3, fun r hr => ?_, ?_⟩
      · rw [hport]
        rfl
      · rw [(told _).port r, stopped.port r, State.port_setPort_other _ _ (Ne.symm hr), dropped.port r, State.port_setPort_other _ _ (Ne.symm hr),
          base.port r]
      · exact base.regs.trans ((LinkRegs.setPort ..).trans (dropped.regs.trans ((LinkRegs.setPort ..).trans (stopped.regs.trans (told _).regs))))
    next h =>
      have told := fun args => LinkSame.plkEvent (c := (s.port p).state ≠ 4 ∧ new ≠ 4)
        (u.setPort p { s.port p with state := new, outSince := o }) 0x0F01 p args
      have hport := ((told [new, (s.port p).state, cause, (s.port p).receivers]).port p).trans moved
      refine ⟨?_, fun _ => ?_, fun r hr => ?_, ?_⟩
      · rw [hport]
      · rw [hport]
      · rw [(told _).port r, State.port_setPort_other _ _ (Ne.symm hr), base.port r]
      · exact base.regs.trans ((LinkRegs.setPort ..).trans (told _).regs)

/-! ### A port trains (R296, R298) -/

theorem linkSame_laneBits (s : State) (on deskewed : Bool) (l : Nat) : LinkSame False s (s.laneBits on deskewed l) :=
  (LinkSame.setLne s Reg.LNE_STATUS_SIGNAL l _).trans ((LinkSame.setLne _ Reg.LNE_STATUS_LOCK l _).trans
    ((LinkSame.setLne _ Reg.LNE_STATUS_ALIGNED l _).trans (LinkSame.setLne _ Reg.LNE_STATUS_DESKEWED l _)))

/-- The status bits of a lane that is lost. -/
theorem linkSame_laneLost (c : Prop) (s : State) (deskewed : Bool) (l : Nat) : LinkSame c s (s.laneBits false deskewed l) where
  port := (linkSame_laneBits s false deskewed l).port
  regs :=
    { now := rfl
      stuck := (linkSame_laneBits s false deskewed l).regs.stuck
      plk := (linkSame_laneBits s false deskewed l).regs.plk
      lane := fun _ _ => rfl
      lne := fun _ f i hlo hhi => by
        unfold State.laneBits
        iterate 4 rw [State.fld_setFld_other _ _ (by show _ ≠ f.id; simp only [Reg.LNE_STATUS_SIGNAL, Reg.LNE_STATUS_LOCK, Reg.LNE_STATUS_ALIGNED, Reg.LNE_STATUS_DESKEWED]; omega) (by decide) (by omega)]
      lost := fun _ k hk => by
        unfold State.laneBits
        rw [State.fld_setFld_other _ _ (by decide) (by decide) (by decide)]
        by_cases h : l = k
        · subst h
          exact State.fld_setFld ..
        · rw [State.fld_setFld_index _ _ _ h]
          simp (disch := decide) only [State.fld_setFld_other]
          exact hk }

theorem State.port_emit (s : State) (p : Nat) (cs : List LinkChar) : (s.emit p cs).port p = { s.port p with tx := cs, txAt := s.now } :=
  State.port_setPort ..

theorem State.port_emit_other (s : State) {p r : Nat} (cs : List LinkChar) (h : p ≠ r) : (s.emit p cs).port r = s.port r :=
  State.port_setPort_other _ _ h

/-- The starts of a port in the last second. -/
def State.recentStarts (s : State) (p : Nat) : List Nat := (s.port p).starts.filter fun u => decide (s.now < u + 1000 * Clk.ms)

/-- A port that may start sends TS TYPE 1; one that started more than eight times in the last second waits. -/
theorem State.trainStep1_port {s : State} {p : Nat} (hstate : (s.port p).state = 2) (hstep : (s.port p).step = 1) (hat : (s.port p).stepAt = s.now) :
    s.trainStep1 p = if (s.recentStarts p).length ≤ 8 then
      (s.setPort p { s.port p with step := 2, stepAt := s.now, starts := s.now :: s.recentStarts p }).emit p (tsSet 1 0 (s.port p).vers)
    else s := by
  have hnow : s.now < s.now + 1000 * Clk.ms := by
    show s.now < s.now + 1000 * 9600000
    omega
  unfold State.trainStep1
  by_cases h : (s.recentStarts p).length ≤ 8
  · rw [if_pos h]
    refine if_neg ?_
    rintro (hne | hne | ⟨hlong, -⟩)
    · exact hne hstate
    · exact hne hstep
    · exact absurd h (Nat.not_le.2 hlong)
  · rw [if_neg h]
    exact if_pos (.inr (.inr ⟨Nat.not_le.1 h, hat ▸ hnow⟩))

/-- What a port that trains anew has. -/
structure Retrained (s t : State) (p cause : Nat) : Prop where
  state : (t.port p).state = 2
  cause : (t.port p).cause = cause
  receivers : (t.port p).receivers = 0
  held : (t.port p).held = 0
  lane : (t.port p).lane = (s.port p).lane
  vers : (t.port p).vers = (s.port p).vers
  step : (t.port p).step = if (s.recentStarts p).length ≤ 8 then 2 else 1
  others : ∀ r, r ≠ p → t.port r = s.port r
  regs : LinkRegs ((s.port p).state ≠ 4) s t

/-- The port of a state in which step 1 is about to happen. -/
def PlkPort.atStep1 (y : PlkPort) (now cause : Nat) : PlkPort :=
  { y with step := 1, stepAt := now, cause := cause, receivers := 0, held := 0, rcvd := 0, spent := 0, stalled := false
           pos := y.pos.map fun q => (q.1, ({ record := q.2.record, recFrame := q.2.recFrame, crcErrors := 0 } : Position)) }

/-- The state in which step 1 is about to happen, its lanes' status bits cleared. -/
def State.atStep1 (s : State) (p cause : Nat) : State :=
  let u := s.setPortState p 2 cause
  let v := u.setPort p ((u.port p).atStep1 s.now cause)
  (v.lanesOf p).foldl (State.laneBits · false false) v

theorem State.retrain_eq (s : State) (p cause : Nat) : s.retrain p cause = (s.atStep1 p cause).trainStep1 p := rfl

theorem retrained_retrain (s : State) (p cause : Nat) : Retrained s (s.retrain p cause) p cause := by
  have moved := portMoved_setPortState s p 2 cause
  have hport := moved.port
  have kept : LinkRegs ((s.port p).state ≠ 4) s (s.setPortState p 2 cause) := moved.regs.weaken fun h => ⟨h, by decide⟩
  rw [State.retrain_eq]
  unfold State.atStep1
  dsimp only
  generalize s.setPortState p 2 cause = u at *
  rw [← kept.now]
  have at1 : (u.setPort p ((u.port p).atStep1 u.now cause)).port p = (u.port p).atStep1 u.now cause := State.port_setPort ..
  have cleared := LinkSame.foldl (fun t l => linkSame_laneLost ((s.port p).state ≠ 4) t false l)
    ((u.setPort p ((u.port p).atStep1 u.now cause)).lanesOf p) (u.setPort p ((u.port p).atStep1 u.now cause))
  generalize List.foldl _ (u.setPort p ((u.port p).atStep1 u.now cause)) _ = w at *
  have hw : w.port p = (u.port p).atStep1 u.now cause := (cleared.port p).trans at1
  have hnow : w.now = u.now := cleared.regs.now
  have hstarts : w.recentStarts p = s.recentStarts p := by
    unfold State.recentStarts
    rw [hw, hnow, kept.now]
    exact (congrArg (fun y : PlkPort => y.starts.filter fun v => decide (s.now < v + 1000 * Clk.ms)) hport :)
  have others : ∀ r, r ≠ p → w.port r = s.port r := fun r hr =>
    (cleared.port r).trans ((State.port_setPort_other _ _ (Ne.symm hr)).trans (moved.others r hr))
  have regs : LinkRegs ((s.port p).state ≠ 4) s w := kept.trans ((LinkRegs.setPort ..).trans cleared.regs)
  have hlane : (w.port p).lane = (s.port p).lane := by
    rw [hw]
    exact (congrArg PlkPort.lane hport :)
  have hvers : (w.port p).vers = (s.port p).vers := by
    rw [hw]
    exact (congrArg PlkPort.vers hport :)
  have hstate : (w.port p).state = 2 := by
    rw [hw]
    exact (congrArg PlkPort.state hport :)
  rw [State.trainStep1_port hstate (by rw [hw]; rfl) (by rw [hw, hnow]; rfl), hstarts]
  split
  next few =>
    have started := State.port_emit (w.setPort p { w.port p with step := 2, stepAt := w.now, starts := w.now :: s.recentStarts p }) p
      (tsSet 1 0 (w.port p).vers)
    rw [State.port_setPort] at started
    refine ⟨by rw [started]; exact hstate, by rw [started, hw]; rfl, by rw [started, hw]; rfl, by rw [started, hw]; rfl,
      by rw [started]; exact hlane, by rw [started]; exact hvers, by rw [started, if_pos few], fun r hr => ?_,
      regs.trans ((LinkRegs.setPort ..).trans (LinkRegs.setPort ..))⟩
    rw [State.port_emit_other _ _ (Ne.symm hr), State.port_setPort_other _ _ (Ne.symm hr), others r hr]
  next many =>
    exact ⟨hstate, by rw [hw]; rfl, by rw [hw]; rfl, by rw [hw]; rfl, hlane, hvers, by rw [hw, if_neg many]; rfl, others, regs⟩

end Sys2Proof.Machine
end

section
/-! PROOFS. A port trains (14_panel_link.md R296 to R298, R309, Tables 14.3 and 14.4). -/

namespace Sys2Proof.Machine

theorem Tab.set_set {α : Type} (t : Tab α) (k : Nat) (x y : α) : Tab.set (Tab.set t k x) k y = Tab.set t k y := by
  induction t with
  | nil => simp [Tab.set]
  | cons e t ih =>
    obtain ⟨j, z⟩ := e
    by_cases hj : j = k
    · simp [Tab.set, hj]
    · by_cases hlt : k < j
      · simp [Tab.set, hj, hlt]
      · simp [Tab.set, hj, hlt, ih]

theorem State.setPort_setPort (s : State) (p : Nat) (x y : PlkPort) : (s.setPort p x).setPort p y = s.setPort p y := by
  unfold State.setPort
  simp [Tab.set_set]

theorem State.posn_congr {s t : State} {p : Nat} (h : (t.port p).pos = (s.port p).pos) (q : Nat) : t.posn p q = s.posn p q := by
  unfold State.posn
  rw [h]

/-! ### Start, loss of time and retry (steps 1 and 2) -/

theorem State.portTrainStart_eq {s : State} {p b v : Nat} (hstate : (s.port p).state = 0) (hcfg : s.portCfg p = some (b, v))
    (htest : s.flag Reg.PLK_PORT_CTL_TEST p = false) :
    s.portTrainStart p = (s.setPort p { s.port p with lane := b, vers := v }).retrain p 1 := by
  unfold State.portTrainStart State.applyCfg
  simp [hstate, hcfg, htest]

theorem State.alignTimeout_due {s : State} {p : Nat} (hstate : (s.port p).state = 2) (hstep : (s.port p).step = 2)
    (hdue : (s.port p).stepAt + 10 * Clk.ms ≤ s.now) :
    s.alignTimeout p = (((s.setPortState p 1 7).setPort p { (s.setPortState p 1 7).port p with downAt := s.now }).count
      Reg.PLK_TRAIN_FAIL p).latch .plkTrain p := by
  unfold State.alignTimeout
  exact if_neg (by simp [hstate, hstep, Nat.not_lt.2 hdue])

/-- A count of the port's own reads one more. -/
theorem LinkRegs.count {c : Prop} {s t : State} (h : LinkRegs c s t) {f : Fld} (i : Nat) (hlo : 385 ≤ f.id) (hhi : f.id < 423) (hw : f.width = 32) :
    (t.count f i).fld f i = (s.fld f i + 1) % 4294967296 := by
  unfold State.count
  rw [State.fld_setFld, h.plk f i hlo hhi, hw]
  rfl

theorem runs_trainAlignTimeout {s : State} {p : Nat} (hc : s.pwr.clocksStopped = false) (hstate : (s.port p).state = 2)
    (hstep : (s.port p).step = 2) (hdue : (s.port p).stepAt + 10 * Clk.ms ≤ s.now) :
    Runs (.trainAlignTimeout p) s fun t => (t.port p).state = 1 ∧ (t.port p).downAt = s.now ∧
      t.fld Reg.PLK_TRAIN_FAIL p = (s.fld Reg.PLK_TRAIN_FAIL p + 1) % 4294967296 ∧ t.latched .plkTrain p = true := by
  have moved := portMoved_setPortState s p 1 7
  refine Runs.of_run (f := fun s => s.alignTimeout p) rfl hc (State.alignTimeout_due hstate hstep hdue) ?_
  generalize s.setPortState p 1 7 = u at *
  have told := LinkSame.latch (c := True) ((u.setPort p { u.port p with downAt := s.now }).count Reg.PLK_TRAIN_FAIL p) .plkTrain p
  have hport : (State.latch ((u.setPort p { u.port p with downAt := s.now }).count Reg.PLK_TRAIN_FAIL p) .plkTrain p).port p =
      { u.port p with downAt := s.now } := (told.port p).trans (State.port_setPort ..)
  refine ⟨?_, ?_, ?_, State.latched_latch _ _ _ (by decide)⟩
  · rw [hport]
    exact (congrArg PlkPort.state moved.port :)
  · rw [hport]
  · rw [told.regs.plk _ _ (by decide) (by decide)]
    exact (moved.regs.trans (LinkRegs.setPort u p _)).count p (by decide) (by decide) rfl

/-! ### Collection and confirmation (steps 3 and 4) -/

/-- Step 5 sends a PROBE, or nothing. -/
theorem State.probeNext_eq (s : State) (p : Nat) : s.probeNext p = s ∨ ∃ cs, s.probeNext p = s.emit p cs := by
  unfold State.probeNext
  dsimp only
  split
  · exact .inr ⟨_, rfl⟩
  · exact .inl rfl

/-- Step 4 goes on to a position with a version or gives way to step 5; what each position has stays. -/
theorem State.confirmNext_port (s : State) (p q : Nat) :
    ((s.confirmNext p q).port p).pos = (s.port p).pos ∧ ((s.confirmNext p q).port p).receivers = (s.port p).receivers ∧
    (((s.confirmNext p q).port p).step = 4 ∨ ((s.confirmNext p q).port p).step = 5) := by
  unfold State.confirmNext State.askConfirm
  dsimp only
  split
  · rw [State.port_emit, State.port_setPort]
    exact ⟨rfl, rfl, .inl rfl⟩
  · obtain h | ⟨cs, h⟩ := State.probeNext_eq (s.setPort p { s.port p with
      step := 5, stepAt := s.now, confirm := (s.port p).nextConfirm q 257, tries := 0 }) p
    · rw [h, State.port_setPort]
      exact ⟨rfl, rfl, .inr rfl⟩
    · rw [h, State.port_emit, State.port_setPort]
      exact ⟨rfl, rfl, .inr rfl⟩

theorem State.posn_confirmNext (s : State) (p q r : Nat) : (s.confirmNext p q).posn p r = s.posn p r :=
  State.posn_congr (s.confirmNext_port p q).1 r

/-- A position with the version that collection chooses for it. -/
def Position.chosen (vers : Nat) (x : Position) : Position := { x with version := commonVersion vers x.offered }

theorem State.collected_eq (s : State) (p : Nat) : s.collected p = (s.setPort p { s.port p with
    pos := (s.port p).pos.map fun q => (q.1, q.2.chosen (s.port p).vers) }).confirmNext p 0 := rfl

theorem State.posn_setPort (s : State) (p : Nat) (x : PlkPort) (q : Nat) : (s.setPort p x).posn p q = Tab.get {} x.pos q := by
  unfold State.posn
  rw [State.port_setPort]

/-- The end of collection chooses each position's version (R297). -/
theorem State.collected_port {s : State} {p q : Nat} (hq : Tab.has (s.port p).pos q = true) :
    ((s.collected p).posn p q).version = commonVersion (s.port p).vers (s.posn p q).offered ∧
    ((s.collected p).port p).receivers = (s.port p).receivers ∧
    (((s.collected p).port p).step = 4 ∨ ((s.collected p).port p).step = 5) := by
  rw [State.collected_eq]
  obtain ⟨-, hreceivers, hstep⟩ := State.confirmNext_port (s.setPort p { s.port p with
    pos := (s.port p).pos.map fun q => (q.1, q.2.chosen (s.port p).vers) }) p 0
  refine ⟨?_, hreceivers.trans (by rw [State.port_setPort]), hstep⟩
  rw [State.posn_confirmNext, State.posn_setPort, Tab.get_map _ (Position.chosen (s.port p).vers), if_pos hq]
  rfl

/-- The state in which a set of TYPE 2 has been taken. -/
theorem State.tsType2_port {s : State} {p : Nat} {x : TrainSet} (hstate : (s.port p).state = 2)
    (hstep : (s.port p).step = 2 ∨ (s.port p).step = 3) (hpos : x.pos < 256) (htype : x.type = 2) (hcrc : x.crc = trainCheck x)
    (hskew : s.skewOf p ≤ 200) : ∃ u : State,
      (u.port p).step = 3 ∧ (u.port p).receivers = max (s.port p).receivers (x.pos + 1) ∧ (u.port p).vers = (s.port p).vers ∧
      (u.posn p x.pos).offered = x.vers % 16 ∧ Tab.has (u.port p).pos x.pos = true ∧
      s.tsType2 p x = if bit x.arg0 0 then u.collected p else u := by
  refine ⟨_, ?_, ?_, ?_, ?_, ?_, if_neg (by simp [hstate, hcrc, htype, Nat.not_lt.2 hskew]; omega)⟩
  · rw [State.port_setPort]
  · rw [State.port_setPort]
  · rw [State.port_setPort]
  · rw [State.posn_setPort, Tab.get_set_same]
  · rw [State.port_setPort]
    exact Tab.has_set_same ..

/-! ### Confirmation and echoes (steps 4 and 5) -/

theorem State.posn_setPosn_other (s : State) {p q r : Nat} (x : Position) (h : q ≠ r) : (s.setPosn p q x).posn p r = s.posn p r := by
  unfold State.setPosn
  rw [State.posn_setPort]
  exact Tab.get_set_other _ _ _ h

theorem State.tsType4_taken {s : State} {p : Nat} {x : TrainSet} (hstate : (s.port p).state = 2) (hstep : (s.port p).step = 4)
    (hconfirm : (s.port p).confirm = x.pos) (htype : x.type = 4) (hvers : x.vers = 2 ^ (s.posn p x.pos).version) (hcrc : x.crc = trainCheck x) :
    s.tsType4 p x = (s.setPosn p x.pos { s.posn p x.pos with confirmed := true }).confirmNext p (x.pos + 1) := by
  unfold State.tsType4
  exact if_neg (by simp [hstate, hstep, hconfirm, htype, ← hvers, ← hcrc])

theorem State.confirmTimeout_again {s : State} {p q : Nat} (hstate : (s.port p).state = 2) (hstep : (s.port p).step = 4)
    (hconfirm : (s.port p).confirm = q) (hdue : (s.port p).stepAt + Clk.ms ≤ s.now) (htries : (s.port p).tries < 2) :
    s.confirmTimeout p q = (s.setPort p { s.port p with tries := (s.port p).tries + 1, stepAt := s.now }).askConfirm p q := by
  unfold State.confirmTimeout
  exact (if_neg (by simp [hstate, hstep, hconfirm, Nat.not_lt.2 hdue])).trans (if_pos htries)

theorem State.confirmTimeout_last {s : State} {p q : Nat} (hstate : (s.port p).state = 2) (hstep : (s.port p).step = 4)
    (hconfirm : (s.port p).confirm = q) (hdue : (s.port p).stepAt + Clk.ms ≤ s.now) (htries : 2 ≤ (s.port p).tries) :
    s.confirmTimeout p q = (s.setPosn p q { s.posn p q with version := 0 }).confirmNext p (q + 1) := by
  unfold State.confirmTimeout
  exact (if_neg (by simp [hstate, hstep, hconfirm, Nat.not_lt.2 hdue])).trans (if_neg (Nat.not_lt.2 htries))

theorem State.echo_taken {s : State} {p q : Nat} (v : Nat) (hstate : (s.port p).state = 2) (hstep : (s.port p).step = 5)
    (hvers : (s.posn p q).version ≠ 0) (htrips : (s.posn p q).trips.length < 16) :
    s.echo p q v = (s.setPosn p q { s.posn p q with trips := (s.posn p q).trips ++ [v] }).probeNext p := by
  unfold State.echo
  exact if_neg (by simp [hstate, hstep, hvers, Nat.not_le.2 htrips])

/-- A PROBE changes nothing of a port but what it sends. -/
theorem State.probeNext_port (s : State) (p : Nat) (x : PlkPort) :
    (∀ q, ((s.setPort p x).probeNext p).posn p q = (s.setPort p x).posn p q) ∧
    (s.setPort p x).probeNext p = s.setPort p (((s.setPort p x).probeNext p).port p) := by
  obtain h | ⟨cs, h⟩ := State.probeNext_eq (s.setPort p x) p
  · rw [h, State.port_setPort]
    exact ⟨fun _ => rfl, rfl⟩
  · rw [h]
    refine ⟨fun q => State.posn_congr (by rw [State.port_emit]) q, ?_⟩
    unfold State.emit
    rw [State.setPort_setPort, State.port_setPort, State.port_setPort]

/-! ### The end of training (step 6) -/

/-- What the end of training builds on: the port is in DATA and its trains are counted. -/
structure PortIn (s : State) (p state : Nat) (n : Nat) : Prop where
  state : (s.port p).state = state
  trains : s.fld Reg.PLK_TRAINS p = n

theorem State.port_identSend (s : State) (p q : Nat) (pay : Bytes) : ∃ tag, (s.identSend p q pay).2.port p = { s.port p with tag := tag } :=
  ⟨_, State.port_setPort ..⟩

theorem State.askRecord_port (s : State) (p q n : Nat) : ∃ tag,
    (s.askRecord p q n).posn p q = { s.posn p q with engine := 1, tries := n, tag := tag, since := s.now } ∧
    (∀ r, r ≠ q → (s.askRecord p q n).posn p r = s.posn p r) ∧ ((s.askRecord p q n).port p).state = (s.port p).state ∧
    ∀ f i, (s.askRecord p q n).fld f i = s.fld f i := by
  obtain ⟨tag, h⟩ := s.port_identSend p q (mgmtBlock 1 0 256 0)
  have same : ∀ r, (s.identSend p q (mgmtBlock 1 0 256 0)).2.posn p r = s.posn p r := fun r => State.posn_congr (by rw [h]) r
  unfold State.askRecord
  dsimp only
  refine ⟨(s.identSend p q (mgmtBlock 1 0 256 0)).1, ?_, fun r hr => (State.posn_setPosn_other _ _ (Ne.symm hr)).trans (same r), ?_,
    fun _ _ => rfl⟩
  · rw [State.posn_setPosn, same]
  · unfold State.setPosn
    rw [State.port_setPort, h]

theorem linkRegs_latencies (c : Prop) (s : State) (p : Nat) : LinkRegs c s (s.latencies p) := by
  refine List.foldlRecOn (motive := LinkRegs c s) _ _ (.refl c s) fun t ht q _ => ht.trans ?_
  unfold State.latency
  dsimp only
  split
  · exact .of_parts rfl rfl rfl fun _ => rfl
  · split
    · exact .of_parts rfl rfl rfl fun _ => rfl
    · exact .of_parts rfl rfl rfl fun _ => rfl

/-- The port in DATA, before its records are asked for. -/
def State.trained (s : State) (p : Nat) : State :=
  (((s.latencies p).setPortState p 3 (s.port p).cause).emit p idleSet).count Reg.PLK_TRAINS p

theorem State.trainComplete_due {s : State} {p : Nat} (hstate : (s.port p).state = 2) (hstep : (s.port p).step = 5) :
    s.trainComplete p = (((s.port p).pos.filter fun q => q.2.version != 0 && decide (q.1 < (s.port p).receivers)).map (·.1)).foldl
      (fun t q => t.askRecord p q 0) (s.trained p) := by
  unfold State.trainComplete
  exact if_neg (by simp [hstate, hstep])

theorem portIn_trained (s : State) (p : Nat) : PortIn (s.trained p) p 3 ((s.fld Reg.PLK_TRAINS p + 1) % 4294967296) := by
  have moved := portMoved_setPortState (s.latencies p) p 3 (s.port p).cause
  have kept : LinkRegs False s ((s.latencies p).setPortState p 3 (s.port p).cause) :=
    (linkRegs_latencies False s p).trans (moved.regs.weaken False.elim)
  unfold State.trained
  refine ⟨?_, (kept.trans (LinkRegs.setPort ..)).count p (by decide) (by decide) rfl⟩
  exact (congrArg PlkPort.state (State.port_emit ..)).trans (congrArg PlkPort.state moved.port :)

/-- Every receiver with a version is asked for its record (R309). -/
theorem runs_trainComplete {s : State} {p q : Nat} (hc : s.pwr.clocksStopped = false) (hstate : (s.port p).state = 2)
    (hstep : (s.port p).step = 5) (hvers : (s.posn p q).version ≠ 0) (hq : q < (s.port p).receivers) :
    Runs (.trainComplete p) s fun t => (t.port p).state = 3 ∧ (t.posn p q).engine = 1 ∧ (t.posn p q).tries = 0 ∧
      t.fld Reg.PLK_TRAINS p = (s.fld Reg.PLK_TRAINS p + 1) % 4294967296 := by
  have listed : q ∈ ((s.port p).pos.filter fun q => q.2.version != 0 && decide (q.1 < (s.port p).receivers)).map (·.1) := by
    have hmem : (q, s.posn p q) ∈ (s.port p).pos := Tab.mem_of_get_ne rfl fun h => hvers (by rw [h])
    exact List.mem_map_of_mem (f := Prod.fst) (List.mem_filter.2 ⟨hmem, by simp [hvers, hq]⟩)
  have asked : ∀ t r, PortIn t p 3 ((s.fld Reg.PLK_TRAINS p + 1) % 4294967296) →
      PortIn (t.askRecord p r 0) p 3 ((s.fld Reg.PLK_TRAINS p + 1) % 4294967296) := fun t r ht => by
    obtain ⟨_, -, -, hst, hfld⟩ := t.askRecord_port p r 0
    exact ⟨hst.trans ht.state, (hfld _ _).trans ht.trains⟩
  have first : ∀ t : State, ((t.askRecord p q 0).posn p q).engine = 1 ∧ ((t.askRecord p q 0).posn p q).tries = 0 := fun t => by
    obtain ⟨_, hq, -⟩ := t.askRecord_port p q 0
    rw [hq]
    exact ⟨rfl, rfl⟩
  have stays : ∀ (t : State) (r : Nat), (t.posn p q).engine = 1 ∧ (t.posn p q).tries = 0 →
      ((t.askRecord p r 0).posn p q).engine = 1 ∧ ((t.askRecord p r 0).posn p q).tries = 0 := fun t r ht => by
    by_cases h : q = r
    · exact h ▸ first t
    · obtain ⟨_, -, hother, -⟩ := t.askRecord_port p r 0
      rwa [hother q h]
  refine Runs.of_run (f := fun s => s.trainComplete p) rfl hc (State.trainComplete_due hstate hstep) ?_
  have inData := List.foldlRecOn (motive := fun t => PortIn t p 3 ((s.fld Reg.PLK_TRAINS p + 1) % 4294967296))
    (((s.port p).pos.filter fun q => q.2.version != 0 && decide (q.1 < (s.port p).receivers)).map (·.1))
    (fun t q => t.askRecord p q 0) (portIn_trained s p) fun t ht r _ => asked t r ht
  have reads := foldl_establishes (I := fun _ => True) (P := fun t => (t.posn p q).engine = 1 ∧ (t.posn p q).tries = 0)
    (f := fun t q => t.askRecord p q 0) listed (s := s.trained p) trivial (fun _ _ _ _ => trivial) (fun t _ => first t)
    fun t _ ht r _ => stays t r ht
  exact ⟨inData.state, reads.1, reads.2, inData.trains⟩

/-- Settles O35: start and retry by `retrained_retrain`, each set and timeout by what its step makes of it. -/
theorem portsTrain : Obligations.PortsTrain := by
  intro s p hc
  refine ⟨fun b v hw hstate hcfg htest => ?_, fun hstate hstep => ⟨fun hdue => runs_trainAlignTimeout hc hstate hstep hdue, fun hearly => ?_⟩,
    fun hstate hdue => ?_, fun q v hstate hq => ⟨fun x hx hcrc => ⟨fun hstep htype hskew => ⟨fun hmore => ?_, fun hlast => ?_⟩,
      fun hstep hconfirm htype hvers => ?_⟩, fun x hcrc => ⟨?_, ?_⟩, fun hstep hdue hhas => ?_,
      fun hstep hconfirm hdue => ⟨fun htries => ?_, fun htries => ?_⟩, fun hstep hvers => ⟨fun htrips => ?_, fun hr =>
        runs_trainComplete hc hstate hstep hvers hr⟩⟩⟩
  · have k := retrained_retrain (s.setPort p { s.port p with lane := b, vers := v }) p 1
    refine Runs.of_run (f := fun s => if s.wound then s.portTrainStart p else s) rfl hc
      ((if_pos hw).trans (State.portTrainStart_eq hstate hcfg htest)) ⟨k.state, ?_, ?_, k.receivers, k.held, ?_⟩
    · rw [k.lane, State.port_setPort]
    · rw [k.vers, State.port_setPort]
    · rw [k.step]
      unfold State.recentStarts
      rw [State.port_setPort]
      rfl
  · exact Runs.of_run (f := fun s => s.alignTimeout p) rfl hc (if_pos (.inr (.inr hearly))) rfl
  · have k := retrained_retrain s p (s.port p).cause
    exact Runs.of_run (f := fun s => s.retryTimer p) rfl hc (if_neg (by simp [hstate, Nat.not_lt.2 hdue])) ⟨k.state, k.receivers⟩
  · subst hx
    obtain ⟨u, hstep3, hrec, -, hoff, -, heq⟩ := State.tsType2_port hstate hstep hq htype hcrc hskew
    exact Runs.of_run (f := fun s => s.tsType2 p x) rfl hc (heq.trans (if_neg (by simp [hmore]))) ⟨hstep3, hrec, hoff⟩
  · subst hx
    obtain ⟨u, -, hrec, hvers, hoff, hhas, heq⟩ := State.tsType2_port hstate hstep hq htype hcrc hskew
    obtain ⟨hversion, hreceivers, hnext⟩ := State.collected_port hhas
    exact Runs.of_run (f := fun s => s.tsType2 p x) rfl hc (heq.trans (if_pos hlast))
      ⟨hreceivers.trans hrec, hversion.trans (by rw [hvers, hoff]), hnext⟩
  · subst hx
    refine Runs.of_run (f := fun s => s.tsType4 p x) rfl hc (State.tsType4_taken hstate hstep hconfirm htype hvers hcrc) ?_
    rw [State.posn_confirmNext, State.posn_setPosn]
    exact ⟨rfl, rfl⟩
  · exact Runs.of_run (f := fun s => s.tsType2 p x) rfl hc (if_pos (by simp [hcrc])) rfl
  · exact Runs.of_run (f := fun s => s.tsType4 p x) rfl hc (if_pos (by simp [hcrc])) rfl
  · obtain ⟨hversion, -, hnext⟩ := State.collected_port hhas
    exact Runs.of_run (f := fun s => s.collectTimeout p) rfl hc (if_neg (by simp [hstate, hstep, Nat.not_lt.2 hdue])) ⟨hversion, hnext⟩
  · refine Runs.of_run (f := fun s => s.confirmTimeout p q) rfl hc (State.confirmTimeout_again hstate hstep hconfirm hdue htries) ?_
    have asked : (s.setPort p { s.port p with tries := (s.port p).tries + 1, stepAt := s.now }).posn p q = s.posn p q :=
      State.posn_congr (by rw [State.port_setPort]) q
    unfold State.askConfirm
    rw [State.port_emit, State.port_setPort, asked]
    refine ⟨?_, rfl, rfl, rfl, rfl⟩
    unfold State.emit
    rw [State.setPort_setPort, State.port_setPort]
  · refine Runs.of_run (f := fun s => s.confirmTimeout p q) rfl hc (State.confirmTimeout_last hstate hstep hconfirm hdue htries) ?_
    rw [State.posn_confirmNext, State.posn_setPosn]
  · refine Runs.of_run (f := fun s => s.echo p q v) rfl hc (State.echo_taken v hstate hstep hvers htrips) ?_
    obtain ⟨hposn, hport⟩ := s.probeNext_port p
      { s.port p with pos := Tab.set (s.port p).pos q { s.posn p q with trips := (s.posn p q).trips ++ [v] } }
    refine ⟨(hposn q).trans (State.posn_setPosn ..), fun r hr => (hposn r).trans (State.posn_setPosn_other _ _ (Ne.symm hr)), hport⟩

end Sys2Proof.Machine
end

section
/-! PROOFS. Lanes, and the commands on a port, its tests, modules and I2C bus (14_panel_link.md R292, R293, R298, R311 to R313). -/

namespace Sys2Proof.Machine

/-! ### Alignment lost and gained (R292, R293) -/

theorem State.portOfLane_congr {s t : State} (h : ∀ r, t.port r = s.port r) (l : Nat) : t.portOfLane l = s.portOfLane l := by
  unfold State.portOfLane
  simp only [h]

theorem State.inData_congr {s t : State} {p : Nat} (h : t.port p = s.port p) : t.inData p = s.inData p := by
  unfold State.inData
  rw [h]

/-- The lane's own part of a loss: its bits go, it counts and LNE.align latches. -/
def State.laneLost (s : State) (l : Nat) : State := ((s.laneBits false false l).count Reg.LNE_ALIGN_LOSS l).latch .lneAlign l

theorem State.laneLost_port (s : State) (l r : Nat) : (s.laneLost l).port r = s.port r :=
  ((LinkSame.latch (c := True) ..).port r).trans rfl

theorem State.fld_laneLost (s : State) (l : Nat) {f : Fld} (i : Nat) (hlo : 385 ≤ f.id) (hhi : f.id < 449) :
    (s.laneLost l).fld f i = ((s.laneBits false false l).count Reg.LNE_ALIGN_LOSS l).fld f i :=
  (State.latch_sameFld ..).same f i (by omega) fun h => by have := latchFields_notLink _ h; omega

/-- What a loss of alignment leaves: the lane's own part, and with a port in DATA that the port trains. -/
theorem State.alignLoss_leaves {s : State} {l : Nat} (hl : l < s.variant.ports) :
    LinkRegs True (s.laneLost l) (s.alignLoss l) ∧
    ∀ p, s.portOfLane l = some p → s.inData p = true → ((s.alignLoss l).port p).state = 2 := by
  have hport : (s.laneLost l).portOfLane l = s.portOfLane l := State.portOfLane_congr (s.laneLost_port l) l
  have heq : s.alignLoss l = match s.portOfLane l with
      | some p => if (s.laneLost l).inData p then (s.laneLost l).retrain p 2 else s.laneLost l
      | none => s.laneLost l := by
    unfold State.alignLoss
    rw [if_neg (Nat.not_le.2 hl)]
    rfl
  rw [heq]
  cases hp : s.portOfLane l with
  | none => exact ⟨.refl _ _, fun _ h => by simp at h⟩
  | some p =>
    dsimp only
    rw [State.inData_congr (s.laneLost_port l p)]
    by_cases hdata : s.inData p = true
    · have k := retrained_retrain (s.laneLost l) p 2
      have h3 : (s.port p).state = 3 := by simpa [State.inData] using hdata
      rw [if_pos hdata]
      refine ⟨k.regs.weaken fun _ => by rw [s.laneLost_port l p, h3]; decide, fun q hq _ => ?_⟩
      obtain rfl : p = q := by simpa using hq
      exact k.state
    · rw [if_neg hdata]
      refine ⟨.refl _ _, fun q hq h => ?_⟩
      obtain rfl : p = q := by simpa using hq
      exact absurd h hdata

/-- The status of a trunk's lanes is shown; no port and no other field changes. -/
theorem State.showSkew_leaves (s : State) (p : Nat) : (∀ r, (s.showSkew p).port r = s.port r) ∧ (∀ l, (s.showSkew p).lane l = s.lane l) ∧
    ∀ (f : Fld) (i : Nat), f.id < 1024 → f.id ≠ 426 → f.id ≠ 428 → (s.showSkew p).fld f i = s.fld f i := by
  unfold State.showSkew
  dsimp only
  split
  · exact ⟨fun _ => rfl, fun _ => rfl, fun _ _ _ _ _ => rfl⟩
  · refine List.foldlRecOn (motive := fun t : State => (∀ r, t.port r = s.port r) ∧ (∀ l, t.lane l = s.lane l) ∧
      ∀ (f : Fld) (i : Nat), f.id < 1024 → f.id ≠ 426 → f.id ≠ 428 → t.fld f i = s.fld f i) _ _
      ⟨fun _ => rfl, fun _ => rfl, fun _ _ _ _ _ => rfl⟩ fun t ht l _ => ?_
    obtain ⟨hport, hlane, hfld⟩ := ht
    exact ⟨hport, hlane, fun f i hf h1 h2 => (State.fld_setFld_other _ _ (Ne.symm h1) (by decide) hf).trans
      ((State.fld_setFld_other _ _ (Ne.symm h2) (by decide) hf).trans (hfld f i hf h1 h2))⟩

/-- The bits of a lane that is aligned or locked. -/
def State.laneFound (s : State) (l : Nat) : State :=
  ((s.setFld Reg.LNE_STATUS_SIGNAL l 1).setFld Reg.LNE_STATUS_LOCK l 1).setFld Reg.LNE_STATUS_ALIGNED l 1

theorem State.alignGain_shows (s : State) (l : Nat) : (∀ k, (s.alignGain l).lane k = s.lane k) ∧
    ∀ (f : Fld) (i : Nat), f.id < 1024 → f.id ≠ 426 → f.id ≠ 428 → (s.alignGain l).fld f i = (s.laneFound l).fld f i := by
  unfold State.alignGain
  dsimp only
  split
  next p _ =>
    obtain ⟨-, hlane, hfld⟩ := State.showSkew_leaves (s.laneFound l) p
    split
    · exact ⟨hlane, hfld⟩
    · exact ⟨hlane, hfld⟩
  next => exact ⟨fun _ => rfl, fun _ _ _ _ _ => rfl⟩

/-- Alignment gained shows in the lane's bits; what the lane holds and counts stays. -/
theorem State.alignGain_leaves (s : State) (l : Nat) :
    (∀ k, (s.alignGain l).lane k = s.lane k) ∧ (s.alignGain l).fld Reg.LNE_STATUS_ALIGNED l = 1 ∧ (s.alignGain l).fld Reg.LNE_STATUS_LOCK l = 1 ∧
    ∀ (f : Fld) (i : Nat), 429 ≤ f.id → f.id < 449 → (s.alignGain l).fld f i = s.fld f i := by
  obtain ⟨hlane, shown⟩ := s.alignGain_shows l
  refine ⟨hlane, ?_, ?_, fun f i hlo hhi => ?_⟩
  · rw [shown _ _ (by decide) (by decide) (by decide)]
    exact State.fld_setFld ..
  · rw [shown _ _ (by decide) (by decide) (by decide)]
    exact (State.fld_setFld_other _ _ (by decide) (by decide) (by decide)).trans (State.fld_setFld ..)
  · have hne : ∀ g : Fld, g.id < 429 → g.id ≠ f.id := fun g hg => by omega
    rw [shown f i (by omega) (by omega) (by omega)]
    unfold State.laneFound
    rw [State.fld_setFld_other _ _ (hne _ (by decide)) (by decide) (by omega),
      State.fld_setFld_other _ _ (hne _ (by decide)) (by decide) (by omega),
      State.fld_setFld_other _ _ (hne _ (by decide)) (by decide) (by omega)]

/-! ### What a lane receives -/

/-- The lane and its count of code errors after a run. -/
def State.laneHeard (s : State) (l : Nat) (r : RxFound) : State := (s.setLane l r.lane).count Reg.LNE_CODE_ERR l r.errs

section
variable {s : State} {l : Nat} (hl : l < s.variant.ports) {rx : List LaneRx} {r : RxFound}
  (hr : r = rxRun ((s.portOfLane l).any s.trunk) (s.flag Reg.LNE_STATUS_ALIGNED l) (s.lane l) rx)
include hl hr

theorem State.laneRx_eq : s.laneRx l rx =
    if r.aligned then (if r.lost then (s.laneHeard l r).alignLoss l else s.laneHeard l r).alignGain l
    else if r.lost then (s.laneHeard l r).alignLoss l else s.laneHeard l r := by
  subst hr
  unfold State.laneRx
  rw [if_neg (Nat.not_le.2 hl)]
  cases s.portOfLane l <;> rfl

omit hr in
/-- After a run that may have lost alignment the lane holds what it found and has counted its errors. -/
theorem State.laneHeard_lost (r : RxFound) :
    (if r.lost then (s.laneHeard l r).alignLoss l else s.laneHeard l r).lane l = r.lane ∧
    (if r.lost then (s.laneHeard l r).alignLoss l else s.laneHeard l r).fld Reg.LNE_CODE_ERR l =
      (s.fld Reg.LNE_CODE_ERR l + r.errs) % 4294967296 := by
  have hlane : (s.laneHeard l r).lane l = r.lane := State.lane_setLane ..
  have herr : (s.laneHeard l r).fld Reg.LNE_CODE_ERR l = (s.fld Reg.LNE_CODE_ERR l + r.errs) % 4294967296 := State.fld_setFld ..
  split
  · obtain ⟨kept, -⟩ := State.alignLoss_leaves (s := s.laneHeard l r) hl
    refine ⟨(kept.lane trivial l).trans ?_, (kept.lne trivial _ _ (by decide) (by decide)).trans ?_⟩
    · have latched := (LinkSame.latch (c := True) (((s.laneHeard l r).laneBits false false l).count Reg.LNE_ALIGN_LOSS l) .lneAlign l).regs
      exact (latched.lane trivial l).trans hlane
    · rw [State.fld_laneLost _ _ _ (by decide) (by decide)]
      refine Eq.trans ?_ herr
      unfold State.count State.laneBits
      simp (disch := decide) only [State.fld_setFld_other]
  · exact ⟨hlane, herr⟩

end

/-! ### Figures of merit and lane PLLs (R298, R312) -/

theorem State.fomMeasure_stays {s : State} {l fom : Nat} (hl : l < s.variant.ports) (hfom : fom < 256)
    (h : ∀ p, s.portOfLane l = some p → s.inData p = false) :
    s.fomMeasure l fom = (s.setFld Reg.LNE_STATUS_FOM l fom).setLane l { s.lane l with
      fomLow := min (if fom < s.fld Reg.LNE_EQ_FOM_MIN l then (s.lane l).fomLow + 1 else 0) 8 } := by
  unfold State.fomMeasure
  rw [if_neg (by omega)]
  dsimp only
  cases hp : s.portOfLane l with
  | none => rfl
  | some p => exact if_neg (by simp [h p hp])

theorem State.fomMeasure_retrains {s : State} {l fom p : Nat} (hl : l < s.variant.ports) (hfom : fom < 256) (hp : s.portOfLane l = some p)
    (hdata : s.inData p = true) (hlow : fom < s.fld Reg.LNE_EQ_FOM_MIN l) (hseven : 7 ≤ (s.lane l).fomLow) :
    s.fomMeasure l fom = ((s.setFld Reg.LNE_STATUS_FOM l fom).setLane l { s.lane l with fomLow := 0 }).retrain p 3 := by
  unfold State.fomMeasure
  rw [if_neg (by omega)]
  dsimp only
  rw [hp]
  exact if_pos ⟨by rw [if_pos hlow]; omega, hdata⟩

theorem State.latched_causeOn (s : State) (src : Src) (i : Nat) (hb : src.bit < 32) : (s.causeOn src i).latched src i = true := by
  have h := State.latched_latch s src i hb
  unfold State.causeOn
  dsimp only
  split
  · exact h
  · exact stuck_of_regs (s := s.latch src i) rfl rfl h

theorem State.lane_of_plk {s t : State} (h : t.plk = s.plk) (l : Nat) : t.lane l = s.lane l := by
  unfold State.lane
  rw [h]

/-! ### The commands on a port -/

theorem State.plkRetrain_eq {s : State} {p : Nat} (h : (s.port p).state = 3 ∨ (s.port p).state = 1) : s.plkRetrain p = s.retrain p 4 := if_pos h

theorem State.portCfgWrite_stored {s : State} {p : Nat} (v : Nat) (hp : p < s.variant.ports) (h : s.clb.activeValid = true) :
    s.portCfgWrite p v = (((s.setFld Reg.PLK_PORT_CFG_RATE p (bits v 3 0)).setFld Reg.PLK_PORT_CFG_CLASS p (bits v 5 4)).setFld
      Reg.PLK_PORT_CFG_EN p (bits v 6 6)).setFld Reg.PLK_PORT_CFG_VERS p (bits v 11 9) := by
  unfold State.portCfgWrite
  exact (if_neg (Nat.not_le.2 hp)).trans (if_pos (.inl h))

theorem State.testEnter_eq {s : State} {p : Nat} (hp : p < s.variant.ports) : s.testEnter p =
    if (s.port p).state = 0 then s.setFld Reg.PLK_PORT_CTL_TEST p 1 else (s.setFld Reg.PLK_PORT_CTL_TEST p 1).setPortState p 4 6 :=
  if_neg (Nat.not_le.2 hp)

theorem State.testClear_eq {s : State} {p : Nat} (hp : p < s.variant.ports) (h : (s.port p).state = 4) :
    s.testClear p = (s.setFld Reg.PLK_PORT_CTL_TEST p 0).retrain p 6 :=
  (if_neg (Nat.not_le.2 hp)).trans (if_pos h)

theorem State.testEnter_leaves {s : State} {p : Nat} (hp : p < s.variant.ports) :
    ((s.testEnter p).port p).state = (if (s.port p).state = 0 then 0 else 4) ∧ (s.testEnter p).flag Reg.PLK_PORT_CTL_TEST p = true := by
  have set : (s.setFld Reg.PLK_PORT_CTL_TEST p 1).fld Reg.PLK_PORT_CTL_TEST p = 1 := State.fld_setFld ..
  have moved := portMoved_setPortState (s.setFld Reg.PLK_PORT_CTL_TEST p 1) p 4 6
  unfold State.flag
  rw [State.testEnter_eq hp]
  split
  next h => exact ⟨h, by rw [set]; rfl⟩
  next => exact ⟨(congrArg PlkPort.state moved.port :), by rw [moved.regs.plk _ _ (by decide) (by decide), set]; rfl⟩

/-! ### Pattern tests (R313) -/

theorem State.prbsErr_lt (s : State) (l : Nat) : s.prbsErr l < 4294967296 := by
  unfold State.prbsErr satur
  exact lt_of_le_of_lt (min_le_right ..) (by decide)

theorem State.laneInject_counts {s : State} {l : Nat} (hl : l < s.variant.ports) (htest : s.laneInTest l = true) (hown : s.prbsOwn l = true)
    (hlock : s.flag Reg.LNE_TEST_CHK_LOCK l = true) :
    (s.laneInject l).fld Reg.LNE_PRBS_ERR l = min (s.prbsErr l + 1) 4294967295 := by
  have settled : (s.prbsSettle l true).fld Reg.LNE_PRBS_ERR l = s.prbsErr l :=
    (State.fld_setFld s Reg.LNE_PRBS_ERR l _).trans (Nat.mod_eq_of_lt (s.prbsErr_lt l))
  have hinject : s.laneInject l = (s.prbsSettle l true).countSat Reg.LNE_PRBS_ERR l := by
    unfold State.laneInject
    simp [Nat.not_le.2 hl, htest, hown, hlock]
  rw [hinject]
  unfold State.countSat satur
  rw [State.fld_setFld, settled]
  exact Nat.mod_eq_of_lt (by show min _ (2 ^ 32 - 1) < 2 ^ 32; omega)

theorem State.laneInject_outside {s : State} {l : Nat} (hl : l < s.variant.ports) (htest : s.laneInTest l = false) :
    s.laneInject l = s.latch .lneCfg l := by
  unfold State.laneInject
  simp [Nat.not_le.2 hl, htest]

/-! ### Modules and I2C (R311) -/

theorem State.modulePoll_one {s : State} {b : Nat} (hb : 8 * b < s.variant.ports) (hbus : s.busBad b = false) (m : ModInfo) :
    s.modulePoll b [m] = s.pollLane (8 * b) m := by
  have hports : s.variant.ports ≤ 64 := by cases s.variant <;> decide
  unfold State.modulePoll
  rw [if_neg (by rw [hbus]; simp; omega)]
  rfl

theorem State.fld_plkEvent (s : State) (code source : Nat) (args : List Nat) {f : Fld} (i : Nat) (hf : f.id < 1024) (hl : f.id ∉ latchFields) :
    (s.plkEvent code source args).fld f i = s.fld f i :=
  ((outlastsLatch_sameFld s).event (.refl s) ..).same f i hf hl

/-- A module that answers is shown as it reports itself. -/
theorem State.pollLane_shows {s : State} {l : Nat} (hl : l < s.variant.ports) {m : ModInfo} (hm : m.present = true) (hack : m.ack = true)
    (hlos : m.los = false) : ∀ f : Fld, f.id < 1024 → f.id ∉ latchFields →
      (s.pollLane l m).fld f l = (((((s.setFld Reg.LNE_MOD_PRESENT l 1).setFld Reg.LNE_MOD_LOS l 0).setFld Reg.LNE_MOD_CMIS l
        (b2n m.cmis)).setFld Reg.LNE_MOD_TEMP l m.temp).setFld Reg.LNE_MOD_RX_PWR l m.rxPwr).fld f l := by
  intro f hf hlat
  have told : ∀ (t : State) (on : Bool) (code : Nat),
      (if on then t.plkEvent 0x0F02 l [code, m.ident % 256, 0, 0] else t).fld f l = t.fld f l := by
    intro t on code
    split
    · exact t.fld_plkEvent _ _ _ l hf hlat
    · rfl
  unfold State.pollLane
  rw [if_neg (Nat.not_le.2 hl), if_neg (by simp [hack])]
  simp only [hm, hlos, Bool.and_false, Bool.false_and, Bool.false_eq_true, if_false, told]
  rfl

/-- A write of PLK_I2C_CMD sets its fields. -/
def State.i2cSet (s : State) (v : Nat) : State :=
  (((((s.setFld Reg.PLK_I2C_CMD_BUS 0 (bits v 2 0)).setFld Reg.PLK_I2C_CMD_SPEED 0 (bits v 3 3)).setFld
    Reg.PLK_I2C_CMD_ADDR 0 (bits v 10 4)).setFld Reg.PLK_I2C_CMD_READ 0 (bits v 11 11)).setFld Reg.PLK_I2C_CMD_REG 0
    (bits v 19 12)).setFld Reg.PLK_I2C_CMD_WDATA 0 (bits v 27 20)

theorem State.fld_i2cSet (s : State) (v : Nat) :
    (s.i2cSet v).fld Reg.PLK_I2C_CMD_ADDR = v / 16 % 128 ∧ (s.i2cSet v).fld Reg.PLK_I2C_CMD_WDATA = v / 1048576 % 256 ∧
    (s.i2cSet v).fld Reg.PLK_I2C_STAT_BUSY = s.fld Reg.PLK_I2C_STAT_BUSY := by
  unfold State.i2cSet
  refine ⟨?_, ?_, ?_⟩ <;> simp (disch := decide) only [State.fld_setFld_other, State.fld_setFld]
  · exact Nat.mod_mod _ 128
  · exact Nat.mod_mod _ 256

theorem State.i2cGo_stored {s : State} {v : Nat} (h : s.plk.i2c ≠ none ∨ bit v 28 = false) : s.i2cGo v = s.i2cSet v := by
  refine if_neg ?_
  rcases h with h | h <;> simp [h]

theorem State.i2cGo_starts {s : State} {v : Nat} (hidle : s.plk.i2c = none) (hgo : bit v 28 = true) :
    s.i2cGo v = State.setFld { s.i2cSet v with plk := { s.plk with i2c := some v } } Reg.PLK_I2C_STAT_BUSY 0 1 :=
  if_pos (by simp [hidle, hgo])

/-- The state after a transfer of `v`, before its data is shown. -/
def State.i2cEnded (s : State) (v : Nat) (nack : Bool) : State :=
  (State.setFld { s with plk := { s.plk with i2c := none } } Reg.PLK_I2C_STAT_BUSY 0 0).setFld Reg.PLK_I2C_STAT_NACK 0
    (b2n (nack || s.busBad (v % 8)))

theorem State.i2cDone_eq {s : State} {v : Nat} (h : s.plk.i2c = some v) (r : Nat) (nack : Bool) :
    s.i2cDone r nack = if bit v 11 && !(nack || s.busBad (v % 8)) then (s.i2cEnded v nack).setFld Reg.PLK_I2C_STAT_RDATA 0 r
      else s.i2cEnded v nack := by
  unfold State.i2cDone
  simp only [h, show bits v 2 0 = v % 8 by unfold bits; simp]
  rfl

theorem State.i2cEnded_shows (s : State) (v : Nat) (nack : Bool) : (s.i2cEnded v nack).fld Reg.PLK_I2C_STAT_BUSY = 0 ∧
    (s.i2cEnded v nack).flag Reg.PLK_I2C_STAT_NACK = (nack || s.busBad (v % 8)) := by
  unfold State.i2cEnded State.flag
  refine ⟨(State.fld_setFld_other _ _ (by decide) (by decide) (by decide)).trans (State.fld_setFld ..), ?_⟩
  rw [State.fld_setFld]
  cases nack || s.busBad (v % 8) <;> rfl

theorem bits_low (v n : Nat) : bits v n 0 = v % 2 ^ (n + 1) := by
  unfold bits
  simp

/-- Settles O36: what a lane receives by `State.laneRx_eq`, the retrains by `retrained_retrain`, the other commands field by field. -/
theorem lanesAndPortControl : Obligations.LanesAndPortControl := by
  intro s l hc hl
  refine ⟨fun rx trunk r htrunk hr => ?_, fun fom hfom => ⟨fun hno => ?_, fun p hp hdata hlow hseven => ?_⟩, ?_, fun hlost => ?_,
    fun hopen hstate => ?_, fun hopen h3 h1 => ?_, fun v hopen hrsv hactive => ?_, fun hopen => ?_, fun hopen hstate => ?_,
    fun hopen htest hgen hchk hloop hpattern hlock => ?_, fun hopen htest => ?_, fun b m hb hbus hm => ⟨fun hack hlos => ?_, fun hack => ?_⟩,
    fun v hopen hrsv => ⟨fun h => ?_, fun hidle hgo => ?_⟩, fun r v nack hi2c => ?_⟩
  · subst htrunk
    have heq := State.laneRx_eq hl hr
    obtain ⟨hlane, herr⟩ := State.laneHeard_lost hl r
    refine ⟨Runs.of_run (f := fun s => s.laneRx l rx) rfl hc heq ?_, fun hlost haligned => Runs.of_run (f := fun s => s.laneRx l rx) rfl hc
      (heq.trans ((if_neg (by simp [haligned])).trans (if_pos hlost))) ?_, fun haligned => Runs.of_run (f := fun s => s.laneRx l rx) rfl hc
      (heq.trans (if_pos haligned)) ?_, fun hlost haligned => Runs.of_run (f := fun s => s.laneRx l rx) rfl hc
      (heq.trans ((if_neg (by simp [haligned])).trans (if_neg (by simp [hlost])))) rfl⟩
    · split
      · obtain ⟨hkeep, -, -, hfld⟩ := State.alignGain_leaves (if r.lost then (s.laneHeard l r).alignLoss l else s.laneHeard l r) l
        exact ⟨(hkeep l).trans hlane, (hfld _ _ (by decide) (by decide)).trans herr⟩
      · exact ⟨hlane, herr⟩
    · obtain ⟨kept, hport⟩ := State.alignLoss_leaves (s := s.laneHeard l r) hl
      refine ⟨kept.lost trivial l ?_, ?_, kept.stuck _ _ (by decide) (State.latched_latch _ .lneAlign l (by decide)), hport⟩
      · rw [State.fld_laneLost _ _ _ (by decide) (by decide)]
        unfold State.count State.laneBits
        simp (disch := decide) only [State.fld_setFld_other, State.fld_setFld]
        rfl
      · rw [kept.lne trivial _ _ (by decide) (by decide), State.fld_laneLost _ _ _ (by decide) (by decide)]
        unfold State.count State.laneBits State.laneHeard State.count
        simp (disch := decide) only [State.fld_setFld_other, State.fld_setFld]
        rfl
    · obtain ⟨-, haligned, hlock, -⟩ := State.alignGain_leaves (if r.lost then (s.laneHeard l r).alignLoss l else s.laneHeard l r) l
      unfold State.flag
      rw [haligned, hlock]
      exact ⟨rfl, rfl⟩
  · refine Runs.of_run (f := fun s => s.fomMeasure l fom) rfl hc (State.fomMeasure_stays hl hfom hno) ⟨?_, ?_⟩
    · exact (State.fld_setFld s Reg.LNE_STATUS_FOM l fom).trans (Nat.mod_eq_of_lt hfom)
    · rw [State.lane_setLane]
      split <;> rfl
  · have k := retrained_retrain ((s.setFld Reg.LNE_STATUS_FOM l fom).setLane l { s.lane l with fomLow := 0 }) p 3
    have h3 : (s.port p).state = 3 := by simpa [State.inData] using hdata
    refine Runs.of_run (f := fun s => s.fomMeasure l fom) rfl hc (State.fomMeasure_retrains hl hfom hp hdata hlow hseven) ⟨k.state, ?_⟩
    rw [k.regs.lane (by show (s.port p).state ≠ 4; omega), State.lane_setLane]
  · refine Runs.of_run (f := fun s => s.pllUnlock l) rfl hc (if_neg (Nat.not_le.2 hl)) ⟨?_, State.latched_causeOn _ _ _ (by decide)⟩
    rw [State.lane_of_plk (State.causeOn_plk ..), State.lane_setLane]
  · have heq : s.pllRelock l = match s.portOfLane l with
        | some p => if (s.port p).state = 4 then (s.setLane l { s.lane l with pllLost := false }).causeOff .lnePll l
            else ((s.setLane l { s.lane l with pllLost := false }).causeOff .lnePll l).retrain p 2
        | none => (s.setLane l { s.lane l with pllLost := false }).causeOff .lnePll l := by
      unfold State.pllRelock
      rw [if_neg (by simp [hlost])]
      cases s.portOfLane l <;> rfl
    have hlane : (((s.setLane l { s.lane l with pllLost := false }).causeOff .lnePll l).lane l).pllLost = false :=
      congrArg Lane.pllLost (State.lane_setLane ..)
    refine Runs.of_run (f := fun s => s.pllRelock l) rfl hc heq ?_
    cases hp : s.portOfLane l with
    | none => exact ⟨hlane, fun _ h => by simp at h⟩
    | some p =>
      dsimp only
      split
      next h4 => exact ⟨hlane, fun q hq hne => absurd ((Option.some.inj hq) ▸ h4) hne⟩
      next h4 =>
        have k := retrained_retrain ((s.setLane l { s.lane l with pllLost := false }).causeOff .lnePll l) p 2
        refine ⟨by rw [k.regs.lane h4]; exact hlane, fun q hq _ => ?_⟩
        obtain rfl : p = q := Option.some.inj hq
        exact k.state
  · have k := retrained_retrain s l 4
    exact Runs.of_regCmd rfl hc (by decide) hopen rfl (State.plkRetrain_eq hstate) ⟨k.state, k.cause, k.receivers⟩
  · exact Runs.of_regCmd rfl hc (by decide) hopen rfl (if_neg (by simp [h3, h1])) rfl
  · refine Runs.of_regCmd rfl hc (by decide) hopen hrsv (State.portCfgWrite_stored v.toNat hl hactive) ⟨?_, ?_, ?_, ?_, rfl⟩
    all_goals simp (disch := decide) only [State.fld_setFld_other, State.fld_setFld]
    · rw [bits_low]
      exact Nat.mod_mod _ 16
    · exact Nat.mod_mod _ 4
    · exact Nat.mod_mod _ 2
    · exact Nat.mod_mod _ 8
  · exact Runs.of_regCmd rfl hc (by decide) hopen rfl rfl (State.testEnter_leaves hl)
  · have k := retrained_retrain (s.setFld Reg.PLK_PORT_CTL_TEST l 0) l 6
    refine Runs.of_regCmd rfl hc (by decide) hopen rfl (State.testClear_eq hl hstate) ⟨k.state, ?_⟩
    unfold State.flag
    rw [k.regs.plk _ _ (by decide) (by decide), State.fld_setFld]
    rfl
  · refine Runs.of_regCmd rfl hc (by decide) hopen rfl rfl (State.laneInject_counts hl htest ?_ hlock)
    simp [State.prbsOwn, hgen, hchk, hloop, hpattern]
  · refine Runs.of_regCmd rfl hc (by decide) hopen rfl (State.laneInject_outside hl htest) ⟨?_, State.latched_latch _ _ _ (by decide)⟩
    exact (State.latch_sameFld ..).same _ _ (by decide) (by decide)
  · subst hb
    have shown := State.pollLane_shows hl hm hack hlos
    refine Runs.of_run (f := fun s => s.modulePoll b [m]) rfl hc (State.modulePoll_one hl hbus m) ⟨?_, ?_, ?_⟩
    · unfold State.flag
      rw [shown _ (by decide) (by decide)]
      simp (disch := decide) only [State.fld_setFld_other, State.fld_setFld]
      rfl
    all_goals
      rw [shown _ (by decide) (by decide)]
      simp (disch := decide) only [State.fld_setFld_other, State.fld_setFld]
      rfl
  · subst hb
    have silent : s.pollLane (8 * b) m = s.latch .lneModule (8 * b) := by
      unfold State.pollLane
      rw [if_neg (Nat.not_le.2 hl), if_pos (by simp [hm, hack])]
    exact Runs.of_run (f := fun s => s.modulePoll b [m]) rfl hc ((State.modulePoll_one hl hbus m).trans silent)
      ⟨State.latched_latch _ _ _ (by decide), (State.latch_sameFld ..).same _ _ (by decide) (by decide)⟩
  · obtain ⟨haddr, hwdata, hbusy⟩ := s.fld_i2cSet v.toNat
    exact Runs.of_regCmd rfl hc (by decide) hopen hrsv (State.i2cGo_stored h) ⟨rfl, haddr, hwdata, hbusy⟩
  · obtain ⟨haddr, -, -⟩ := s.fld_i2cSet v.toNat
    refine Runs.of_regCmd rfl hc (by decide) hopen hrsv (State.i2cGo_starts hidle hgo) ⟨rfl, State.fld_setFld .., ?_⟩
    exact (State.fld_setFld_other _ _ (by decide) (by decide) (by decide)).trans haddr
  · obtain ⟨hbusy, hnack⟩ := s.i2cEnded_shows v nack
    refine Runs.of_run (f := fun s => s.i2cDone r nack) rfl hc (State.i2cDone_eq hi2c r nack) ?_
    split
    · unfold State.flag at *
      rw [State.fld_setFld_other _ _ (by decide) (by decide) (by decide), State.fld_setFld_other _ _ (by decide) (by decide) (by decide)]
      exact ⟨rfl, hbusy, hnack, fun _ _ _ => State.fld_setFld ..⟩
    next h => exact ⟨rfl, hbusy, hnack, fun hread hgood hbad => absurd (show (bit v 11 && !(nack || s.busBad (v % 8))) = true by
        simp [hread, hgood, hbad]) h⟩

end Sys2Proof.Machine
end

section
/-! PROOFS. Upstream frames, the identity engine, credits and TILE_IDENTITY_READ (14_panel_link.md R299, R301, R306, R307, R309, R310). -/

namespace Sys2Proof.Machine

/-! ### Upstream frames (R299, R306, R307) -/

section
variable {s : State} {p : Nat} {f : Bytes} (hdata : s.inData p = true)
include hdata

theorem State.upstream_bad (hbad : Up.valid f = false) (k : State → State) :
    s.upstream p f k = s.setFld Reg.PLK_RX_CRC p (s.fld Reg.PLK_RX_CRC p + 1) := by
  unfold State.upstream
  simp only [hdata, hbad]
  rfl

theorem State.upstream_good (hgood : Up.valid f = true) (hvers : (s.posn p (Up.src f)).version ≠ 0) (k : State → State) :
    s.upstream p f k = k s := by
  unfold State.upstream
  simp [hdata, hgood, hvers]

end

theorem linkSame_putRp (c : Prop) (s : State) (t j : Nat) (f : MzeRp → MzeRp) : LinkSame c s (s.putRp t j f) := by
  have stored : ∀ (u : State) (x : MzeTile) (off : Nat) (bs : Bytes), LinkSame c u (u.refWrite x off bs) := fun u x off bs =>
    List.foldlRecOn (motive := fun a : State × Bytes => LinkSame c u a.1) _ _ (.refl c u) fun _ ha _ _ =>
      ha.trans (.of_parts (by simp) (by simp) (by simp) (by simp))
  exact (LinkSame.of_parts (s := s) (t := s.setMzt t ((s.mzt t).setRp j f)) rfl rfl rfl rfl).trans (stored ..)

/-- What a STATUS frame makes of the damage it reports stays within the encoder. -/
theorem linkSame_damage (c : Prop) (s : State) (t f : Nat) (whole mirror : Bool) (ranges : List (Nat × Nat)) :
    LinkSame c s (s.damage t f whole mirror ranges) := by
  have suspected : ∀ (u : State) (js : List Nat), LinkSame c u (js.foldl (fun u j => u.putRp t j fun r => { r with suspect := true }) u) :=
    fun u js => LinkSame.foldl (fun v j => linkSame_putRp c v t j _) js u
  have counted : ∀ (u : State) (z : MzeTile) (n : Nat), LinkSame c u ((u.setMzt t z).count Reg.MZE_DAMAGE_RP 0 n) := fun u z n =>
    (LinkSame.of_parts (s := u) (t := u.setMzt t z) rfl rfl rfl rfl).trans (LinkSame.setFld (u.setMzt t z) Reg.MZE_DAMAGE_RP 0 _)
  unfold State.damage
  dsimp only
  split
  · exact (suspected ..).trans (counted ..)
  · exact (suspected ..).trans ((counted ..).trans (LinkSame.event ..))

theorem linkSame_statusDamage (c : Prop) (s : State) (p : Nat) (f im e : Bytes) (mirror : Bool) :
    LinkSame c s (s.statusDamage p f im e mirror) := by
  unfold State.statusDamage
  dsimp only
  split
  · exact .refl c s
  · generalize (if mirror then State.mirrorLit s _ p else State.lit s _) = lit
    split
    · exact .refl c s
    · exact linkSame_damage ..

/-- A STATUS frame's count and the errors of its position, before its damage reaches the encoder. -/
def State.statusTaken (s : State) (p : Nat) (f : Bytes) : State :=
  (s.setPosn p (Up.src f) { s.posn p (Up.src f) with crcErrors := field (Up.payload f) 4 4 }).count Reg.PLK_STATUS_RX p

theorem linkSame_status (c : Prop) (s : State) (p : Nat) (f : Bytes) : LinkSame c (s.statusTaken p f) (s.status p f) := by
  unfold State.status
  dsimp only
  split
  · exact .refl c _
  · split
    · exact linkSame_statusDamage ..
    · exact .refl c _

/-! ### The identity engine (R309) -/

theorem State.replyTimeout_due {s : State} {p q : Nat} (hdata : s.inData p = true) (hengine : (s.posn p q).engine = 1)
    (hdue : (s.posn p q).since + 2 * Clk.ms ≤ s.now) : s.replyTimeout p q =
      if (s.posn p q).tries < 2 then s.askRecord p q ((s.posn p q).tries + 1) else s.engineWait p q 3 := by
  unfold State.replyTimeout State.engineRetry
  simp [hdata, hengine, hdue]

theorem State.reread_due {s : State} {p q : Nat} (hdata : s.inData p = true) (hengine : (s.posn p q).engine = 3)
    (hdue : (s.posn p q).since + 100 * Clk.ms ≤ s.now) : s.reread p q = s.askRecord p q 0 := by
  unfold State.reread
  simp [hdata, hengine, Nat.not_lt.2 hdue]

/-- An engine that has just asked for a record. -/
theorem State.askRecord_engine (s : State) (p q n : Nat) : ((s.askRecord p q n).posn p q).engine = 1 ∧
    ((s.askRecord p q n).posn p q).tries = n ∧ ((s.askRecord p q n).posn p q).since = s.now := by
  obtain ⟨tag, h, -⟩ := s.askRecord_port p q n
  rw [h]
  exact ⟨rfl, rfl, rfl⟩

theorem State.identReply_written {s : State} {p q tag : Nat} {pay : Bytes} (hengine : (s.posn p q).engine = 2) (htag : tag = (s.posn p q).tag)
    (hok : field pay 0 1 = 0) : s.identReply p q tag pay = s.setPosn p q { s.posn p q with engine := 0, tries := 0, good := true } := by
  unfold State.identReply
  simp [hengine, htag, hok]

/-! ### TILE_IDENTITY_READ (R310) -/

/-- A read whose arguments hold names a port in DATA and a destination of 256 bytes in host memory. -/
structure IdentArgs (s : State) (j p : Nat) : Prop where
  inData : s.inData p = true
  port : p < s.variant.ports
  named : p = bits (field (s.job j).args 8 1) 5 0
  host : (addrSpace (field (s.job j).args 16 8)).1 = false
  room : (addrSpace (field (s.job j).args 16 8)).2 + 256 ≤ 9223372036854775808

theorem IdentArgs.identRead_eq {s : State} {j p : Nat} (k : IdentArgs s j p) : s.identRead j =
    if !bit (field (s.job j).args 10 1) 0 ∧ (s.posn p (field (s.job j).args 9 1)).record = none then s.finish j St.state
    else if bit (field (s.job j).args 10 1) 0 then (s.start j).askFresh p (field (s.job j).args 9 1) j 0
    else s.identDone j p (field (s.job j).args 9 1) := by
  have room : s.rangeOk (addrSpace (field (s.job j).args 16 8)).1 (addrSpace (field (s.job j).args 16 8)).2 256 = true := by
    unfold State.rangeOk
    rw [k.host]
    exact decide_eq_true k.room
  unfold State.identRead
  dsimp only
  rw [← k.named, if_neg (by simp [Nat.not_le.2 k.port, room])]
  simp only [k.inData, Bool.not_true, Bool.false_eq_true, false_or]

theorem State.identDone_host {s : State} {j p q : Nat} {r : Bytes} (hj : Tab.has s.rng.jobs j = true) (hsilent : (s.job j).silent = true)
    (hhost : (addrSpace (field (s.job j).args 16 8)).1 = false) (hr : (s.posn p q).record = some r) :
    s.identDone j p q = (s.hostWrite (addrSpace (field (s.job j).args 16 8)).2 r (some (s.job j).tenant)).jobEnded j := by
  unfold State.identDone
  dsimp only
  rw [hhost, hr]
  exact State.finish_silent (s := s.hostWrite (addrSpace (field (s.job j).args 16 8)).2 r (some (s.job j).tenant)) hj hsilent ..

theorem State.askFresh_adds (s : State) (p q j n : Nat) : ((s.askFresh p q j n).posn p q).fresh.length = (s.posn p q).fresh.length + 1 := by
  obtain ⟨tag, h⟩ := s.port_identSend p q (mgmtBlock 1 0 256 0)
  have same : (s.identSend p q (mgmtBlock 1 0 256 0)).2.posn p q = s.posn p q := State.posn_congr (by rw [h]) q
  unfold State.askFresh
  dsimp only
  rw [State.posn_setPosn, same]
  simp

theorem exec_mgmtResponse (s : State) (p : Nat) (f : Bytes) : exec (.mgmtResponse p f) s = s.run fun s => s.upstream p f fun s =>
    if Up.type f ≠ 3 then s
    else if 0x8000 ≤ Up.tag f then s.identReply p (Up.src f) (Up.tag f) (Up.payload f)
    else s.intoSwitch p f := rfl

theorem exec_upstreamFrame (s : State) (p : Nat) (f : Bytes) : exec (.upstreamFrame p f) s = s.run fun s => s.upstream p f fun s =>
    if Up.type f = 3 ∨ Up.type f = 4 then s else (s.check .plkSram p).intoSwitch p f := rfl

/-- Settles O37: a bad frame by `State.upstream_bad`, the others by what their frame, timer or command does with the position. -/
theorem upstreamFramesAndIdentity : Obligations.UpstreamFramesAndIdentity := by
  intro s p f hc hdata hinj
  refine ⟨fun hbad => ⟨?_, ?_, ?_⟩, fun hgood hvers => ⟨fun htype => ?_, fun htype htag hown hengine hok => ?_, fun h3 h4 => ?_⟩,
    fun q => ⟨fun hengine hdue => ⟨fun htries => ?_, fun htries => ?_⟩, fun hengine hdue => ?_⟩, fun n htrunk hn => ?_,
    fun j r hstart hp hnamed hhost hroom => ⟨fun hold hrec hsilent => ?_, fun hfresh => ?_⟩⟩
  · exact Runs.of_run (f := fun s => s.upstream p f fun s => if Up.type f = 4 then s.status p f else s) rfl hc (State.upstream_bad hdata hbad _) rfl
  · exact Runs.of_run (exec_mgmtResponse s p f) hc (State.upstream_bad hdata hbad _) rfl
  · exact Runs.of_run (exec_upstreamFrame s p f) hc (State.upstream_bad hdata hbad _) rfl
  · refine Runs.of_run (f := fun s => s.upstream p f fun s => if Up.type f = 4 then s.status p f else s) rfl hc
      ((State.upstream_good hdata hgood hvers _).trans (if_pos htype)) ⟨?_, ?_⟩
    · rw [(linkSame_status True s p f).regs.plk _ _ (by decide) (by decide)]
      exact State.fld_setFld ..
    · rw [State.posn_congr (congrArg PlkPort.pos ((linkSame_status True s p f).port p))]
      exact congrArg Position.crcErrors (State.posn_setPosn ..)
  · refine Runs.of_run (exec_mgmtResponse s p f) hc
      ((State.upstream_good hdata hgood hvers _).trans ((if_neg (not_not.2 htype)).trans (if_pos hown))) ?_
    exact State.identReply_written hengine htag hok
  · refine Runs.of_run (exec_upstreamFrame s p f) hc ((State.upstream_good hdata hgood hvers _).trans (if_neg (by simp [h3, h4]))) ?_
    rw [State.check_disarmed (src := .plkSram) hinj]
    unfold State.intoSwitch
    rw [State.swin_setSwin]
    exact ⟨by simp, rfl⟩
  · refine Runs.of_run (f := fun s => s.replyTimeout p q) rfl hc ((State.replyTimeout_due hdata hengine hdue).trans (if_pos htries)) ?_
    exact State.askRecord_engine ..
  · refine Runs.of_run (f := fun s => s.replyTimeout p q) rfl hc ((State.replyTimeout_due hdata hengine hdue).trans (if_neg (Nat.not_lt.2 htries))) ?_
    unfold State.engineWait
    rw [State.posn_setPosn]
    exact ⟨rfl, rfl, rfl⟩
  · exact Runs.of_run (f := fun s => s.reread p q) rfl hc (State.reread_due hdata hengine hdue) (State.askRecord_engine ..)
  · exact Runs.of_run (f := fun s => s.creditBlock p n) rfl hc (if_neg (by simp [hdata, htrunk]; omega)) rfl
  · have k : IdentArgs s j p := ⟨hdata, hp, hnamed, hhost, hroom⟩
    refine Runs.of_run (f := fun s => if s.canStart j 0x41 then s.identRead j else s) rfl hc ((if_pos hstart).trans (k.identRead_eq.trans
      ((if_neg (by simp [hrec])).trans ((if_neg (by simp [hold])).trans (State.identDone_host (State.has_of_canStart hstart) hsilent hhost hrec))))) ?_
    exact ⟨rfl, rfl, Tab.has_del_same ..⟩
  · have k : IdentArgs s j p := ⟨hdata, hp, hnamed, hhost, hroom⟩
    refine Runs.of_run (f := fun s => if s.canStart j 0x41 then s.identRead j else s) rfl hc ((if_pos hstart).trans (k.identRead_eq.trans
      ((if_neg (by simp [hfresh])).trans (if_pos hfresh)))) ⟨?_, ?_⟩
    · exact (congrArg Job.started (s.job_start j 0) :)
    · exact State.askFresh_adds ..

end Sys2Proof.Machine
end

section
/-! PROOFS. The routines of an escapement (15_escapements_and_regulators.md, R318-R322): what one word of the running routine leads
to, by its SEQ, and the commands that run one word. -/

namespace Sys2Proof.Machine

/-! ### One escapement of the table -/

@[simp] theorem State.esc_setEsc_same (s : State) (k i : Nat) (x : Escapement) : (s.setEsc k i x).esc_ k i = x := Tab.get_set_same ..

theorem State.esc_setEsc_other (s : State) {k i j m : Nat} (x : Escapement) (h : escKey k i ≠ escKey j m) :
    (s.setEsc k i x).esc_ j m = s.esc_ j m := Tab.get_set_other _ _ _ h

@[simp] theorem State.setEsc_setEsc (s : State) (k i : Nat) (x y : Escapement) : (s.setEsc k i x).setEsc k i y = s.setEsc k i y := by
  unfold State.setEsc
  exact congrArg (fun u => ({ s with esc := { s.esc with units := u } } : State)) (Tab.set_set ..)

/-! ### One cycle (R318-R320, R322) -/

/-- No stop or fault request ends the routine at this word (R322). -/
def Escapement.goesOn (x : Escapement) (w : Nat) : Prop := Word.safe w = false ∨ (x.stop = false ∧ x.fault = false)

/-- The escapement at the exit vector of routine `r` (R321). -/
def Escapement.exitVector (x : Escapement) (r : Nat) : Escapement := { x with pc := 2 * r + 1, stack := [], timedOut := false }

section
variable {x : Escapement} {w : Nat}

theorem Escapement.goesOn.not_exit (h : x.goesOn w) : ¬ (Word.safe w = true ∧ (x.stop = true ∨ x.fault = true)) := by
  rintro ⟨hsafe, hreq⟩
  rcases h with h | ⟨hstop, hfault⟩
  · simp [h] at hsafe
  · simp [hstop, hfault] at hreq

theorem Escapement.target_eq (x : Escapement) (c : BitVec 64) (w : Nat) :
    x.target c w = Word.next w ||| (b2n (x.cond c (Word.csel w 0)) + 2 * b2n (x.cond c (Word.csel w 1)) +
      4 * b2n (x.cond c (Word.csel w 2)) + 8 * b2n (x.cond c (Word.csel w 3))) := by
  have hsum : ((List.range 4).map fun k => b2n (x.cond c (Word.csel w k)) * 2 ^ k).sum =
      b2n (x.cond c (Word.csel w 0)) + 2 * b2n (x.cond c (Word.csel w 1)) +
        4 * b2n (x.cond c (Word.csel w 2)) + 8 * b2n (x.cond c (Word.csel w 3)) := by
    simp only [List.range_succ, List.range_zero, List.map_append, List.map_cons, List.map_nil, List.sum_append, List.sum_cons, List.sum_nil,
      List.nil_append]
    omega
  exact congrArg _ hsum

theorem Escapement.cycle_exit (hpar : parityOk w = true) (hsafe : Word.safe w = true) (hreq : x.stop = true ∨ x.fault = true) (r : Nat)
    (c : BitVec 64) : x.cycle r w c = .goes (x.exitVector r) := by
  unfold Escapement.cycle
  dsimp only
  rw [if_neg (by simp [hpar]), if_pos ⟨hsafe, hreq⟩]
  rfl

variable (hpar : parityOk w = true) (hgo : x.goesOn w) (r : Nat) (c : BitVec 64)
include hpar hgo

theorem Escapement.cycle_cont (hseq : Word.seq w = 0) : x.cycle r w c = .goes { x with pc := (x.pc + 1) % 4096 } := by
  simp [Escapement.cycle, hpar, if_neg hgo.not_exit, hseq]

theorem Escapement.cycle_jump (hseq : Word.seq w = 1) : x.cycle r w c = .goes { x with pc := Word.next w } := by
  simp [Escapement.cycle, hpar, if_neg hgo.not_exit, hseq]

theorem Escapement.cycle_branch (hseq : Word.seq w = 2) : x.cycle r w c = .goes { x with pc := x.target c w } := by
  simp [Escapement.cycle, hpar, if_neg hgo.not_exit, hseq]

theorem Escapement.cycle_call (hseq : Word.seq w = 3) (hroom : x.stack.length < 4) :
    x.cycle r w c = .goes { x with pc := x.target c w, stack := (x.pc + 1) % 4096 :: x.stack } := by
  simp [Escapement.cycle, hpar, if_neg hgo.not_exit, hseq, Nat.not_le.mpr hroom]

theorem Escapement.cycle_call_full (hseq : Word.seq w = 3) (hfull : 4 ≤ x.stack.length) : x.cycle r w c = .parity := by
  simp [Escapement.cycle, hpar, if_neg hgo.not_exit, hseq, hfull]

theorem Escapement.cycle_ret {a : Nat} {rest : List Nat} (hseq : Word.seq w = 4) (hstack : x.stack = a :: rest) :
    x.cycle r w c = .goes { x with pc := a, stack := rest } := by
  simp [Escapement.cycle, hpar, if_neg hgo.not_exit, hseq, hstack]

theorem Escapement.cycle_ret_empty (hseq : Word.seq w = 4) (hstack : x.stack = []) : x.cycle r w c = .parity := by
  simp [Escapement.cycle, hpar, if_neg hgo.not_exit, hseq, hstack]

theorem Escapement.cycle_wait_met (hseq : Word.seq w = 5) (hcond : x.cond c (Word.wcond w) = Word.wpol w) :
    x.cycle r w c = .goes { x with pc := (x.pc + 1) % 4096, timedOut := false } := by
  simp [Escapement.cycle, hpar, if_neg hgo.not_exit, hseq, hcond]

theorem Escapement.cycle_wait (hseq : Word.seq w = 5) (hcond : x.cond c (Word.wcond w) ≠ Word.wpol w) : x.cycle r w c = .goes x := by
  simp [Escapement.cycle, hpar, if_neg hgo.not_exit, hseq, hcond]

theorem Escapement.cycle_end (hseq : Word.seq w = 6) :
    x.cycle r w c =
      .exits { x with routine := none, pc := 0, stack := [], timedOut := false, stop := false, fault := false, safe := false } := by
  simp [Escapement.cycle, hpar, if_neg hgo.not_exit, hseq]

theorem Escapement.cycle_reserved (hseq : Word.seq w = 7) : x.cycle r w c = .parity := by
  simp [Escapement.cycle, hpar, if_neg hgo.not_exit, hseq]

end

/-- One sample runs one cycle. -/
theorem Escapement.cycles_one (x : Escapement) (im : EscImage) (r : Nat) (c : BitVec 64) :
    x.cycles im r [c] = x.cycle r (im.word x.pc) c := by
  simp only [Escapement.cycles]
  cases x.cycle r (im.word x.pc) c <;> rfl

/-! ### The commands that run words -/

section
variable {s : State} {k i r : Nat} {x : Escapement} (hplace : (escPlace s.variant k i).isSome = true) (hx : x = s.esc_ k i)
  (hok : s.escOk k i = true)
include hplace hx hok

theorem State.escRunning_eq (hrun : x.routine = some r) : s.escRunning k i = some (x, r, s.escImage x) := by
  subst hx
  obtain ⟨pl, hpl⟩ := Option.isSome_iff_exists.mp hplace
  simp only [State.escRunning, hpl, hrun, hok, if_true]

theorem State.escStart_eq (r : Nat) :
    s.escStart k i r = if x.routine = none ∧ r < 32 then
      s.setEsc k i { x with routine := some r, pc := 2 * r, stack := [], timedOut := false, stop := false, fault := false } else s := by
  subst hx
  obtain ⟨pl, hpl⟩ := Option.isSome_iff_exists.mp hplace
  simp only [State.escStart, hpl, hok]
  by_cases hidle : (s.esc_ k i).routine = none ∧ r < 32
  · rw [if_pos hidle, if_neg (by simp [hidle.1, hidle.2])]
  · rw [if_neg hidle, if_pos (by
      rcases hroutine : (s.esc_ k i).routine with _ | q
      · have hr : ¬ r < 32 := fun h => hidle ⟨hroutine, h⟩
        simp [Nat.not_lt.mp hr]
      · simp)]

variable (hrun : x.routine = some r) (hc : s.pwr.clocksStopped = false)
include hrun hc

/-- ESC_ROUTINE_EXIT with one sample runs the word that is being read. -/
theorem Runs.of_escCycle {c : BitVec 64} {e : EscEnd} {P : State → Prop} (hcycle : x.cycle r ((s.escImage x).word x.pc) c = e)
    (h : P (s.escEnd k i e)) : Runs (.escRoutineExit k i [c]) s P := by
  refine Runs.of_run (f := fun s => s.escRun k i [c]) rfl hc ?_ h
  unfold State.escRun
  rw [State.escRunning_eq hplace hx hok hrun]
  exact congrArg (s.escEnd k i) ((x.cycles_one ..).trans hcycle)

/-- ESC_SAFE_POINT_EXIT at a safe point with a request pending. -/
theorem Runs.of_escSafe {P : State → Prop} (hpar : parityOk ((s.escImage x).word x.pc) = true)
    (hsafe : Word.safe ((s.escImage x).word x.pc) = true) (hreq : x.stop = true ∨ x.fault = true)
    (h : P (s.setEsc k i (x.exitVector r))) : Runs (.escSafePointExit k i []) s P := by
  refine Runs.of_run (f := fun s => s.escSafe k i []) rfl hc ?_ h
  unfold State.escSafe
  rw [State.escRunning_eq hplace hx hok hrun]
  dsimp only [Escapement.cycles]
  rw [if_neg (by simp [hpar]), if_pos ⟨hsafe, hreq⟩]
  rfl

/-- ESC_WAIT_TIMEOUT at a WAIT word that has waited its limit (R320). -/
theorem Runs.of_escTimeout {P : State → Prop} {w : Nat} (hw : w = (s.escImage x).word x.pc) (hpar : parityOk w = true) (hgo : x.goesOn w)
    (hseq : Word.seq w = 5) (hfirst : x.timedOut = false) (htmo : Word.tmo w < 28)
    (h : P (if Word.tflt w then ((s.setEsc k i { x with timedOut := true }).count Reg.ESC_TIMEOUTS).escFault k i
      else s.setEsc k i { x with pc := Word.next w })) : Runs (.escWaitTimeout k i []) s P := by
  refine Runs.of_run (f := fun s => s.escTimeout k i []) rfl hc ?_ h
  unfold State.escTimeout
  rw [State.escRunning_eq hplace hx hok hrun]
  dsimp only [Escapement.cycles]
  rw [← hw, if_neg (by simp [hpar]), if_neg (by simp [hseq, hfirst, htmo]), if_neg hgo.not_exit]
  cases Word.tflt w <;> simp

end

/-- Settles O38: by the word that is being read, one cycle of the routine. -/
theorem escapementRoutinesRun : Obligations.EscapementRoutinesRun := by
  unfold Obligations.EscapementRoutinesRun
  intro s k i x hc hplace hx hok
  refine ⟨fun r => Runs.of_run (f := fun s => s.escStart k i r) rfl hc (State.escStart_eq hplace hx hok r) rfl, ?_⟩
  intro r w c hrun hw hpar
  have one {e : EscEnd} {P : State → Prop} (hcycle : x.cycle r w c = e) (h : P (s.escEnd k i e)) : Runs (.escRoutineExit k i [c]) s P :=
    Runs.of_escCycle hplace hx hok hrun hc (hw ▸ hcycle) h
  refine ⟨fun hgo => ⟨?_, ?_, ?_, ?_, ?_, ?_, ?_, ?_, ?_⟩, fun hsafe hreq => ⟨?_, ?_⟩⟩
  · exact fun hseq => one (Escapement.cycle_cont hpar hgo r c hseq) rfl
  · exact fun hseq => one (Escapement.cycle_jump hpar hgo r c hseq) rfl
  · exact fun hseq => one (Escapement.cycle_branch hpar hgo r c hseq) (x.target_eq c w ▸ rfl)
  · refine fun hseq hroom => one (Escapement.cycle_call hpar hgo r c hseq hroom) ?_
    unfold State.escEnd
    rw [State.esc_setEsc_same]
    exact ⟨rfl, x.target_eq c w⟩
  · exact fun a rest hseq hstack => one (Escapement.cycle_ret hpar hgo r c hseq hstack) rfl
  · refine fun hseq hcond => one (Escapement.cycle_wait_met hpar hgo r c hseq hcond) ?_
    unfold State.escEnd
    rw [State.esc_setEsc_same]
    exact ⟨rfl, hrun⟩
  · exact fun hseq hcond => one (Escapement.cycle_wait hpar hgo r c hseq hcond) rfl
  · refine fun hseq => one (Escapement.cycle_end hpar hgo r c hseq) ?_
    unfold State.escEnd
    rw [State.esc_setEsc_same]
    exact ⟨rfl, rfl, rfl, rfl, rfl⟩
  · intro hseq hfirst htmo htflt
    refine Runs.of_escTimeout hplace hx hok hrun hc hw hpar hgo hseq hfirst htmo ?_
    rw [htflt, if_neg (by decide), State.esc_setEsc_same]
    exact ⟨rfl, hrun, rfl⟩
  · exact Runs.of_escSafe hplace hx hok hrun hc (hw ▸ hpar) (hw ▸ hsafe) hreq rfl
  · exact one (Escapement.cycle_exit hpar hsafe hreq r c) rfl

end Sys2Proof.Machine
end

section
/-! PROOFS. An escapement that fails (15_escapements_and_regulators.md, R320, R322 to R324): what the response of its engine leaves of
the escapements, and the sources that it latches. -/

namespace Sys2Proof.Machine

/-! ### What a response leaves of the escapements -/

/-- `y` is the escapement `x`, but for the requests that may have arisen while it runs a routine (R322). -/
structure Requested (x y : Escapement) : Prop where
  idle : x.routine = none → y = x
  routine : y.routine = x.routine
  pc : y.pc = x.pc
  fault : x.fault = true → y.fault = true

/-- The registers of the escapements' page and every sticky bit set are in `t` as in `s`, and each escapement but for requests. -/
structure EscKept (s t : State) : Prop where
  fld : ∀ (f : Fld) (i : Nat), 449 ≤ f.id → f.id < 464 → t.fld f i = s.fld f i
  stuck : ∀ p b, b < 32 → s.stuck p b → t.stuck p b
  esc : ∀ k i, Requested (s.esc_ k i) (t.esc_ k i)

theorem Requested.refl (x : Escapement) : Requested x x := ⟨fun _ => rfl, rfl, rfl, id⟩

theorem Requested.trans {x y z : Escapement} (h : Requested x y) (k : Requested y z) : Requested x z where
  idle hx := by
    obtain rfl := h.idle hx
    exact k.idle hx
  routine := k.routine.trans h.routine
  pc := k.pc.trans h.pc
  fault hx := k.fault (h.fault hx)

theorem State.esc_of_escSt {s t : State} (h : t.esc = s.esc) (k i : Nat) : t.esc_ k i = s.esc_ k i := by
  unfold State.esc_
  rw [h]

theorem latchFields_notEsc : ∀ n ∈ latchFields, n < 449 ∨ 464 ≤ n := by decide

namespace EscKept

variable {s t u : State}

theorem trans (h : EscKept s t) (k : EscKept t u) : EscKept s u where
  fld f i hlo hhi := (k.fld f i hlo hhi).trans (h.fld f i hlo hhi)
  stuck p b hb hs := k.stuck p b hb (h.stuck p b hb hs)
  esc n i := (h.esc n i).trans (k.esc n i)

theorem of_sameFld (hesc : t.esc = s.esc) (hfld : SameFld s t) (hstuck : ∀ p b, b < 32 → s.stuck p b → t.stuck p b) : EscKept s t where
  fld f i _ _ := hfld.same f i (by omega) fun h => by have := latchFields_notEsc _ h; omega
  stuck := hstuck
  esc k i := State.esc_of_escSt hesc k i ▸ .refl _

theorem of_parts (hesc : t.esc = s.esc) (hv : t.variant = s.variant) (hr : t.regs = s.regs) : EscKept s t :=
  of_sameFld hesc (.of_regs hv hr) fun _ _ _ h => stuck_of_regs hv hr h

theorem refl (s : State) : EscKept s s := of_parts rfl rfl rfl

theorem foldl {α : Type} {f : State → α → State} (h : ∀ t a, EscKept t (f t a)) (l : List α) (s : State) : EscKept s (l.foldl f s) :=
  List.foldlRecOn l f (.refl s) fun _ ht a _ => ht.trans (h _ a)

theorem setFld (s : State) (f : Fld) (i v : Nat) (hl : f.id < 1024 := by decide) (hout : f.id < 449 ∨ 464 ≤ f.id := by decide)
    (hsticky : f.id ≠ Reg.PG_ERR_STICKY.id := by decide) : EscKept s (s.setFld f i v) where
  fld _ _ _ _ := State.fld_setFld_other s v (by omega) hl (by omega)
  stuck _ _ _ hs := stuck_setFld hs f i v hl hsticky
  esc _ _ := .refl _

theorem latch (s : State) (src : Src) (i : Nat) : EscKept s (s.latch src i) :=
  of_sameFld (State.latch_esc ..) (State.latch_sameFld ..) fun _ _ hb hs => State.stuck_latch hs hb src i

theorem intEdge (s : State) (id : Nat) : EscKept s (s.intEdge id) where
  fld f i _ _ := State.fld_intEdge s id i (f := f) (by omega) (by show f.id ≠ 513; omega) (by show f.id ≠ 504; omega)
  stuck _ _ _ hs := stuck_intEdge hs id
  esc k i := State.esc_of_escSt (State.intEdge_esc ..) k i ▸ .refl _

theorem eventTo (s : State) (r : Nat) (en : Bool) (code blk source : Nat) (args : List Nat) :
    EscKept s (s.eventTo r en code blk source args) := by
  unfold State.eventTo
  split
  · exact of_sameFld (State.record_esc ..) ((outlastsLatch_sameFld s).recordN (.refl s) ..) fun p _ hb hs =>
      (outlastsLatch_stuck p hb).recordN hs ..
  · exact of_parts (State.loseEvent_esc ..) (State.loseEvent_variant ..) (State.loseEvent_regs ..)

theorem finish (s : State) (j status r0 r1 r2 r3 : Nat) : EscKept s (s.finish j status r0 r1 r2 r3) :=
  of_sameFld (State.finish_esc ..) ((outlastsLatch_sameFld s).finish (.refl s) ..) fun p _ hb hs =>
    (outlastsLatch_stuck p hb).finish hs ..

theorem streamEvent (s : State) (st blk code : Nat) (args : List Nat) : EscKept s (s.streamEvent st blk code args) := by
  unfold State.streamEvent
  split
  · exact eventTo ..
  · exact .refl s

/-- A request reaches a running escapement only. -/
theorem escRequest (s : State) (kind i : Nat) (stop : Bool) : EscKept s (s.escRequest kind i stop) := by
  unfold State.escRequest
  dsimp only
  split
  · exact .refl s
  next hrun =>
    refine ⟨fun _ _ _ _ => rfl, fun _ _ _ h => h, fun k j => ?_⟩
    by_cases hkey : escKey kind i = escKey k j
    · have hsame : s.esc_ k j = s.esc_ kind i := congrArg (Tab.get ({} : Escapement) s.esc.units) hkey.symm
      have hnew (x : Escapement) : (s.setEsc kind i x).esc_ k j = x :=
        (congrArg (Tab.get ({} : Escapement) (s.setEsc kind i x).esc.units) hkey.symm).trans (State.esc_setEsc_same s kind i x)
      rw [hnew, hsame]
      exact ⟨fun h => absurd (h ▸ rfl) hrun, rfl, rfl, fun h => by simp [h]⟩
    · rw [State.esc_setEsc_other _ _ hkey]
      exact .refl _

/-! ### Buffers, streams, sessions and the reference store -/

theorem poolFree (s : State) (o b : Nat) : EscKept s (s.poolFree o b).2 := by
  have setPool (u : State) (x : Nat) (p : Pool) : EscKept u (u.setPool x p) := by apply of_parts <;> simp
  have setBuf (u : State) (b : Nat) (x : Buf) : EscKept u (u.setBuf b x) := of_parts rfl rfl rfl
  have bufWrite (u : State) (b off : Nat) (bs : Bytes) : EscKept u (u.bufWrite b off bs) := by
    unfold State.bufWrite
    split
    · exact of_parts rfl rfl rfl
    · apply of_parts <;> simp
  have pushFree (u : State) (b : Nat) : EscKept u (u.pushFree b) := by
    unfold State.pushFree State.thread
    exact (setBuf ..).trans ((bufWrite ..).trans (setPool ..))
  have named (u : State) : EscKept u (u.named o 0 1) := of_parts rfl rfl rfl
  unfold State.poolFree
  split
  · dsimp only
    split
    · exact (named s).trans ((setPool ..).trans (pushFree ..))
    · exact (named s).trans ((setPool ..).trans (setBuf ..))
  · unfold State.misuse State.count
    exact (setFld _ Reg.BPM_MISUSE ..).trans ((setFld _ Reg.BPM_MISUSE_LAST_OP ..).trans
      ((setFld _ Reg.BPM_MISUSE_LAST_STATUS ..).trans ((setFld _ Reg.BPM_MISUSE_LAST_OWNER ..).trans
        ((setFld _ Reg.BPM_MISUSE_BUF ..).trans (latch ..)))))

theorem encSource (s : State) (e st : Nat) : EscKept s (s.encSource e st) := by
  have setSes (u : State) (x : EncSession) : EscKept u (u.setSes e x) := of_parts rfl rfl rfl
  unfold State.encSource
  dsimp only
  split
  · exact .refl s
  · split
    · split
      · exact setSes ..
      · exact .refl s
    · split
      · exact .refl s
      · exact (setSes ..).trans (eventTo ..)

theorem streamTo (s : State) (st new cause : Nat) : EscKept s (s.streamTo st new cause) := by
  have setStream (u : State) (x : StreamRec) : EscKept u (u.setStream st x) := of_parts rfl rfl rfl
  unfold State.streamTo State.encSources
  exact (setStream ..).trans ((streamEvent ..).trans (foldl (fun t _ => encSource t _ new) ..))

theorem faultStream (s : State) (st n : Nat) : EscKept s (s.faultStream st n) := by
  have setStream (u : State) (x : StreamRec) : EscKept u (u.setStream st x) := of_parts rfl rfl rfl
  have mapCores (u : State) (f : DecCore → DecCore) : EscKept u (u.mapCores f) := of_parts rfl rfl rfl
  have keepPics (u : State) (f : Nat → Picture → Bool) : EscKept u (u.keepPics f) := of_parts rfl rfl rfl
  unfold State.faultStream State.freeBufs
  refine (foldl (fun t d => escRequest t 1 d true) ..).trans ((mapCores ..).trans ((foldl (fun t b => poolFree t 2 b) ..).trans
    ((keepPics ..).trans ((setStream ..).trans ((streamTo ..).trans (foldl (fun t k => ?_) ..))))))
  split
  · exact .refl t
  · exact finish ..

theorem recheck (s : State) (cause : Nat) : EscKept s (s.recheck cause) := by
  unfold State.recheck
  refine foldl (fun t e => ?_) ..
  dsimp only
  split
  · exact streamEvent ..
  · exact .refl t

theorem coreOffline (s : State) (c : Nat) : EscKept s (s.coreOffline c) := by
  have setCore (u : State) (x : DecCore) : EscKept u (u.setCore c x) := of_parts rfl rfl rfl
  unfold State.coreOffline
  split
  · exact .refl s
  · exact (setCore ..).trans (recheck ..)

theorem encEnd (s : State) (e : Nat) : EscKept s (s.encEnd e) := by
  have setSes (u : State) (x : EncSession) : EscKept u (u.setSes e x) := of_parts rfl rfl rfl
  unfold State.encEnd
  dsimp only
  split
  · exact .refl s
  · exact (setSes ..).trans (foldl (fun t j => finish t j ..) ..)

theorem encFree (s : State) (e : Nat) : EscKept s (s.encFree e) := by
  unfold State.encFree
  refine foldl (fun t c => ?_) ..
  exact of_parts rfl rfl rfl

theorem encMove (s : State) (c : Nat) (es : List Nat) : EscKept s (s.encMove c es) := by
  induction es generalizing s with
  | nil => exact .refl s
  | cons e es ih =>
    unfold State.encMove
    dsimp only
    split
    · exact (of_parts rfl rfl rfl : EscKept s (s.setSes e _)).trans (ih _)
    · exact ih s

theorem devWrite (s : State) (a : Nat) (bs : Bytes) : EscKept s (s.devWrite a bs) := by apply of_parts <;> simp

theorem refWrite (s : State) (x : MzeTile) (off : Nat) (bs : Bytes) : EscKept s (s.refWrite x off bs) := by
  unfold State.refWrite
  exact List.foldlRecOn (motive := fun a : State × Bytes => EscKept s a.1) _ _ (.refl s) fun _ ha _ _ => ha.trans (devWrite ..)

theorem putRp (s : State) (t j : Nat) (f : MzeRp → MzeRp) : EscKept s (s.putRp t j f) := by
  have setMzt (u : State) (x : MzeTile) : EscKept u (u.setMzt t x) := of_parts rfl rfl rfl
  unfold State.putRp
  exact (setMzt ..).trans (refWrite ..)

theorem chainEnd (s : State) (c : Nat) (whole : Bool) : EscKept s (s.chainEnd c whole) := by
  have setDch (u : State) (x : DmaCh) : EscKept u (u.setDch c x) := of_parts rfl rfl rfl
  unfold State.chainEnd
  dsimp only
  split
  · exact (setDch ..).trans (intEdge ..)
  · exact (setDch ..).trans (finish ..)

end EscKept

/-! ### The response of the engine (R320, R324) -/

/-- A response latches `src` of `inst`, then raises a fault request in the escapement of kind k and index i. -/
structure EngineResponse (s t : State) (k i : Nat) (src : Src) (inst : Nat) : Prop where
  kept : EscKept s t
  latched : t.latched src inst = true
  fault : (s.esc_ k i).routine ≠ none → (t.esc_ k i).fault = true

theorem State.fault_escRequest {s : State} {k i : Nat} (h : (s.esc_ k i).routine ≠ none) : ((s.escRequest k i false).esc_ k i).fault = true := by
  unfold State.escRequest
  dsimp only
  rw [if_neg (by simpa using h), State.esc_setEsc_same]
  simp

/-- The source is latched and the request raised, in this order; what comes before and after leaves the escapements. -/
theorem EngineResponse.of_latch {s u t : State} {k i : Nat} {src : Src} {inst : Nat} (hb : src.bit < 32) (before : EscKept s u)
    (after : EscKept ((u.latch src inst).escRequest k i false) t) : EngineResponse s t k i src inst where
  kept := before.trans ((EscKept.latch ..).trans ((EscKept.escRequest ..).trans after))
  latched := after.stuck _ _ hb ((EscKept.escRequest ..).stuck _ _ hb (State.latched_latch u src inst hb))
  fault h := by
    have running : ((u.latch src inst).esc_ k i).routine ≠ none := by
      rw [((EscKept.latch u src inst).esc k i).routine, (before.esc k i).routine]
      exact h
    exact (after.esc k i).fault (State.fault_escRequest running)

theorem engineResponse_decCoreFault (s : State) (c : Nat) : EngineResponse s (s.decCoreFault c) 1 c .decCore (c / 8) := by
  unfold State.decCoreFault
  refine .of_latch (u := s.setCore c { s.core c with busy := false, stopping := false, faulted := true }) (by decide)
    (.of_parts rfl rfl rfl) (EscKept.trans ?_ (.coreOffline _ c))
  dsimp only
  split
  · exact .faultStream ..
  · exact .refl _

theorem engineResponse_encCoreFault (s : State) (c : Nat) : EngineResponse s (s.encCoreFault c) 2 c .encCore c := by
  have setEncCore (u : State) (x : EncCore) : EscKept u (u.setEncCore c x) := .of_parts rfl rfl rfl
  have setSes (u : State) (e : Nat) (x : EncSession) : EscKept u (u.setSes e x) := .of_parts rfl rfl rfl
  unfold State.encCoreFault
  refine .of_latch (by decide) ?_ (.refl _)
  refine EscKept.trans ?_ ((setEncCore ..).trans ((EscKept.foldl (fun t e => setSes t e _) ..).trans (.encMove ..)))
  dsimp only
  split
  · exact (EscKept.encFree ..).trans ((setSes ..).trans (.encEnd ..))
  · exact .refl s

theorem engineResponse_mzeCoreFault (s : State) (c : Nat) : EngineResponse s (s.mzeCoreFault c) 3 c .mzeCore (c / 8) := by
  have setMzc (u : State) (x : MzeCore) : EscKept u (u.setMzc c x) := .of_parts rfl rfl rfl
  unfold State.mzeCoreFault
  refine .of_latch (by decide) (EscKept.trans ?_ (setMzc ..)) (.refl _)
  split
  · exact .putRp ..
  · exact .refl s

/-- The chains of a DMA page end before the request is raised. -/
theorem engineResponse_dmaFault (s : State) (p : Nat) : EngineResponse s ((s.dmaFault p).escRequest 6 p false) 6 p .dmaDatapath p := by
  have ended : EscKept (s.latch .dmaDatapath p) (s.dmaFault p) := EscKept.foldl (fun t c => .chainEnd t c false) ..
  have before : EscKept s (s.dmaFault p) := (EscKept.latch ..).trans ended
  exact {
    kept := before.trans (.escRequest ..)
    latched := (EscKept.escRequest ..).stuck _ _ (by decide) (ended.stuck _ _ (by decide) (State.latched_latch s .dmaDatapath p (by decide)))
    fault := fun h => State.fault_escRequest (by
      rw [(before.esc 6 p).routine]
      exact h) }

theorem engineResponse_escFault {s : State} {v : Variant} {k i : Nat} (hplace : (escPlace v k i).isSome = true) :
    EngineResponse s (s.escFault k i) k i (escSource k i).1 (escSource k i).2 := by
  match k with
  | 0 => cases hplace
  | 1 => exact engineResponse_decCoreFault s i
  | 2 => exact engineResponse_encCoreFault s i
  | 3 => exact engineResponse_mzeCoreFault s i
  | 4 =>
    have hi : i = 0 := by
      by_contra h
      simp [escPlace, h] at hplace
    subst hi
    exact .of_latch (src := .cnvDatapath) (inst := 0) (by decide) (.refl s) (.refl _)
  | 5 =>
    have hi : i = 0 := by
      by_contra h
      simp [escPlace, h] at hplace
    subst hi
    exact .of_latch (src := .drvDatapath) (inst := 0) (by decide) (.refl s) (.refl _)
  | 6 => exact engineResponse_dmaFault s i
  | _ + 7 => cases hplace

/-! ### Halts and timeouts -/

/-- A WAIT word with TFLT = 1 has waited its limit (R320). -/
def State.escWaited (s : State) (k i : Nat) (x : Escapement) : State :=
  ((s.setEsc k i { x with timedOut := true }).count Reg.ESC_TIMEOUTS).escFault k i

section
variable {s : State} {k i : Nat} (hplace : (escPlace s.variant k i).isSome = true)
include hplace

/-- A halted escapement whose failure counts in `f`: no routine is left in it, so the engine's response leaves it. -/
theorem State.escHalt_escFault (f : Fld) (hf : 449 ≤ f.id ∧ f.id < 464) (hw : f.width = 32) :
    (((s.escHalt k i).count f).escFault k i).esc_ k i = { image := (s.esc_ k i).image, halted := true } ∧
    (((s.escHalt k i).count f).escFault k i).fld f = (s.fld f + 1) % 4294967296 ∧
    (((s.escHalt k i).count f).escFault k i).latched (escSource k i).1 (escSource k i).2 = true := by
  have halted : ((s.escHalt k i).count f).esc_ k i = { image := (s.esc_ k i).image, halted := true } := State.esc_setEsc_same ..
  have response := engineResponse_escFault (s := (s.escHalt k i).count f) (v := s.variant) hplace
  refine ⟨(response.kept.esc k i).idle (by rw [halted]) |>.trans halted, ?_, response.latched⟩
  rw [response.kept.fld f 0 hf.1 hf.2]
  unfold State.count
  rw [State.fld_setFld, hw]
  rfl

theorem State.escWaited_goesOn {x : Escapement} {r : Nat} (hrun : x.routine = some r) :
    (s.escWaited k i x).fld Reg.ESC_TIMEOUTS = (s.fld Reg.ESC_TIMEOUTS + 1) % 4294967296 ∧
    ((s.escWaited k i x).esc_ k i).routine = some r ∧ ((s.escWaited k i x).esc_ k i).fault = true ∧
    ((s.escWaited k i x).esc_ k i).pc = x.pc ∧ (s.escWaited k i x).latched (escSource k i).1 (escSource k i).2 = true := by
  have before : ((s.setEsc k i { x with timedOut := true }).count Reg.ESC_TIMEOUTS).esc_ k i = { x with timedOut := true } :=
    State.esc_setEsc_same ..
  have response : EngineResponse _ (s.escWaited k i x) k i _ _ := engineResponse_escFault (v := s.variant) hplace
  obtain ⟨-, hroutine, hpc, -⟩ := response.kept.esc k i
  rw [before] at hroutine hpc
  refine ⟨?_, hroutine.trans hrun, response.fault ?_, hpc, response.latched⟩
  · rw [response.kept.fld Reg.ESC_TIMEOUTS 0 (by decide) (by decide)]
    exact State.fld_setFld ..
  · rw [before]
    simp [hrun]

end

/-- Settles O39: the response of the engine latches its source and leaves an escapement without a routine; a running one it only asks
to stop. -/
theorem escapementsHalt : Obligations.EscapementsHalt := by
  unfold Obligations.EscapementsHalt
  intro s k i r x hc hplace hx hok hrun
  have running := State.escRunning_eq hplace hx hok hrun
  have parity := State.escHalt_escFault hplace Reg.ESC_PARITY (by decide) rfl
  have timeout := State.escHalt_escFault hplace Reg.ESC_TIMEOUTS (by decide) rfl
  rw [← hx] at parity timeout
  refine ⟨?_, fun hreq hlate => ?_, fun hearly => ?_, fun w c hw hpar hgo => ⟨fun hseq hfirst htmo htflt => ?_, fun hbad => ?_⟩⟩
  · exact Runs.of_run (f := fun s => match s.escRunning k i with | none => s | some _ => s.escParity k i) rfl hc
      (by rw [running]; rfl) parity
  · refine Runs.of_run (f := fun s => s.stopExpired k i) rfl hc ?_ timeout
    unfold State.stopExpired
    rw [running, ← hx]
    refine if_neg ?_
    rintro (hnone | hle)
    · rcases hreq with h | h <;> simp [h] at hnone
    · exact absurd hlate (Nat.not_lt.mpr hle)
  · refine Runs.of_run (f := fun s => s.stopExpired k i) rfl hc ?_ rfl
    unfold State.stopExpired
    rw [running, ← hx]
    refine if_pos (hearly.imp (fun h => ?_) id)
    simp [h.1, h.2]
  · refine Runs.of_escTimeout hplace hx hok hrun hc hw hpar hgo hseq hfirst htmo ?_
    rw [if_pos htflt]
    exact State.escWaited_goesOn hplace hrun
  · refine Runs.of_escCycle hplace hx hok hrun hc (e := .parity) (hw ▸ ?_) parity
    rcases hbad with hseq | ⟨hseq, hfull⟩ | ⟨hseq, hempty⟩
    · exact Escapement.cycle_reserved hpar hgo r c hseq
    · exact Escapement.cycle_call_full hpar hgo r c hseq hfull
    · exact Escapement.cycle_ret_empty hpar hgo r c hseq hempty

end Sys2Proof.Machine
end

section
/-! PROOFS. Reads of device memory that meet no error (19_memory_and_keeping_store.md R384, R388), and the images of escapements and of
bundles (15_escapements_and_regulators.md R327, R330). -/

namespace Sys2Proof.Machine

/-! ### Reads that the controllers accept -/

/-- `t` differs from `s` in the controllers' queues at most (R388). -/
structure ReadAccepted (s t : State) : Prop where
  outside : t = { s with mem := t.mem }
  dram : t.mem.dram = s.mem.dram
  poison : t.mem.poison = s.mem.poison
  zeroing : t.mem.zeroing = s.mem.zeroing
  zeroNext : t.mem.zeroNext = s.mem.zeroNext
  zeroed : t.mem.zeroed = s.mem.zeroed
  log : t.mem.log = s.mem.log

namespace ReadAccepted

variable {s t u : State}

theorem refl (s : State) : ReadAccepted s s := ⟨rfl, rfl, rfl, rfl, rfl, rfl, rfl⟩

theorem trans (h : ReadAccepted s t) (k : ReadAccepted t u) : ReadAccepted s u where
  outside := by
    rw [k.outside, h.outside]
  dram := k.dram.trans h.dram
  poison := k.poison.trans h.poison
  zeroing := k.zeroing.trans h.zeroing
  zeroNext := k.zeroNext.trans h.zeroNext
  zeroed := k.zeroed.trans h.zeroed
  log := k.log.trans h.log

theorem variant (h : ReadAccepted s t) : t.variant = s.variant := h.outside ▸ rfl

theorem regs (h : ReadAccepted s t) : t.regs = s.regs := h.outside ▸ rfl

theorem fld (h : ReadAccepted s t) (f : Fld) (i : Nat) : t.fld f i = s.fld f i := State.fld_congr h.variant h.regs f i

theorem esc (h : ReadAccepted s t) : t.esc = s.esc := h.outside ▸ rfl

theorem dramByte (h : ReadAccepted s t) (a : Nat) : t.dramByte a = s.dramByte a := by
  have hdram := h.dram
  rw [h.outside] at hdram ⊢
  unfold State.dramByte
  rw [hdram]
  rfl

theorem dramBytes (h : ReadAccepted s t) (a n : Nat) : t.dramBytes a n = s.dramBytes a n := by
  have hdram := h.dram
  have hpool : t.pool = s.pool := h.outside ▸ rfl
  unfold State.dramBytes
  rw [hdram, hpool]
  simp only [h.dramByte]

end ReadAccepted

theorem readAccepted_readsAccepted (s : State) (a len : Nat) : ReadAccepted s (s.readsAccepted a len) := by
  have accepted (m : MemSt) (line : Nat) : m.readAccepted line = { m with inOrder := (m.readAccepted line).inOrder, entries := (m.readAccepted line).entries } := by
    unfold MemSt.readAccepted
    dsimp only
    split <;> rfl
  have all : ∀ (l : List Nat) (m : MemSt), ReadAccepted { s with mem := m } { s with mem := l.foldl MemSt.readAccepted m } := by
    intro l
    induction l with
    | nil => exact fun m => .refl _
    | cons line rest ih =>
      refine fun m => ReadAccepted.trans ?_ (ih (m.readAccepted line))
      rw [accepted m line]
      exact ⟨rfl, rfl, rfl, rfl, rfl, rfl, rfl⟩
  exact ReadAccepted.trans (t := { s with mem := s.mem.settle s.now (s.flag Reg.MEM_STATUS_FREQ_BUSY) })
    ⟨rfl, rfl, rfl, rfl, rfl, rfl, rfl⟩ (all ..)

section
variable {s : State} (hinj : s.fld Reg.PG_ERR_INJECT_COUNT (pageOf Blk.mem 0) = 0)
include hinj

theorem State.eccFound_clean {line : Nat} (hgood : s.eccOf line .clean = .clean) : s.eccFound line .clean = (.clean, s) := by
  unfold State.eccFound State.eccCheck
  rw [hgood, State.takeInject_eq_none (src := .memCe) hinj, State.takeInject_eq_none (src := .memUe) hinj]
  simp

/-- A line without poison answers good data where no inversion is armed. -/
theorem State.readLine_clean {line : Nat} (hgood : s.mem.poison.contains line = false) (port kind : Nat) :
    s.readLine line port kind .clean = (true, s.readsAccepted (line * 64) 64) := by
  have accepted := readAccepted_readsAccepted s (line * 64) 64
  have clean : (s.readsAccepted (line * 64) 64).eccOf line .clean = .clean := by
    unfold State.eccOf
    rw [accepted.poison, hgood]
    simp
  unfold State.readLine
  rw [State.check_disarmed (src := .memSram) ((accepted.fld ..).trans hinj), State.eccFound_clean ((accepted.fld ..).trans hinj) clean]

theorem State.engineRead_clean {a len : Nat} (hlen : len ≠ 0) (hok : s.dramOk a len = true) (hpoison : s.mem.poison = [])
    (hbias : s.hostBiased a len = []) (port : Nat) :
    ∃ t, s.engineRead a len port = (some (s.dramBytes a len), t) ∧ ReadAccepted s t := by
  have accepted := readAccepted_readsAccepted s a len
  have bias : s.biasRead a len = s.readsAccepted a len := by
    have none : (s.readsAccepted a len).hostBiased a len = [] := by
      rw [accepted.outside]
      exact hbias
    unfold State.biasRead
    dsimp only
    rw [none]
    exact ite_self _
  have noPoison : (s.readsAccepted a len).mem.poison = [] := accepted.poison.trans hpoison
  refine ⟨(s.readsAccepted a len).readsAccepted (a / 64 * 64) 64, ?_, accepted.trans (readAccepted_readsAccepted ..)⟩
  unfold State.engineRead
  rw [if_neg hlen, if_neg (by simp [hok, hbias]), bias]
  dsimp only
  rw [noPoison, List.filter_nil, List.foldl_nil, if_pos rfl, State.readLine_clean ((accepted.fld ..).trans hinj) (by rw [noPoison]; rfl), accepted.dramBytes]
  rfl

end

/-! ### ESC_LOAD (R327) -/

theorem escVerify_lt (im : Bytes) (k secMin : Nat) : escVerify im k secMin < 16 := by
  unfold escVerify
  repeat' split
  all_goals decide

section
variable {s : State} {v : Nat} (hgo : bit v 0 = true)
include hgo

theorem State.escLoadCtl_busy (hbusy : s.flag Reg.ESC_LOAD_CTL_BUSY = true) : s.escLoadCtl v = s.latch .escLoad :=
  (if_pos (.inl hbusy)).trans (if_pos hgo)

theorem State.escLoadCtl_idle (hen : s.pageEnabled Blk.esc 0 = true) (hidle : s.flag Reg.ESC_LOAD_CTL_BUSY = false) :
    s.escLoadCtl v = State.setFld { s.setFld Reg.ESC_LOAD_CTL_KIND 0 (bits v 3 1) with
      esc := { s.esc with loading := some (bits v 3 1) } } Reg.ESC_LOAD_CTL_BUSY 0 1 :=
  (if_neg (by simp [hen, hidle])).trans (if_neg (by simp [hgo]))

end

theorem bits_lt (v hi lo : Nat) : bits v hi lo < 2 ^ (hi + 1 - lo) := Nat.mod_lt _ (Nat.two_pow_pos _)

/-- The registers, the interrupt and the check with which a verification ends. -/
def State.escReported (s : State) (r : Nat) : State :=
  (((s.setFld Reg.ESC_LOAD_CTL_RESULT 0 r).setFld Reg.ESC_LOAD_CTL_BUSY 0 0).intEdge 155).check .escSram

/-- What the end of a verification says, and what it leaves to the images. -/
structure EscReported (s t : State) (r : Nat) : Prop where
  result : t.fld Reg.ESC_LOAD_CTL_RESULT = r
  idle : t.fld Reg.ESC_LOAD_CTL_BUSY = 0
  pending : (t.src 155).pending = true
  esc : t.esc = s.esc
  stuck : ∀ p b, s.stuck p b → t.stuck p b

theorem escReported_escReported {s : State} {r : Nat} (hr : r < 16) (hinj : s.fld Reg.PG_ERR_INJECT_COUNT (pageOf Blk.esc 0) = 0) :
    EscReported s (s.escReported r) r := by
  have unchecked : s.escReported r = ((s.setFld Reg.ESC_LOAD_CTL_RESULT 0 r).setFld Reg.ESC_LOAD_CTL_BUSY 0 0).intEdge 155 := by
    refine State.check_disarmed (src := .escSram) ?_
    show State.armed _ (pageOf Blk.esc 0) = 0
    rw [State.armed_intEdge, State.armed_setFld _ _ _ _ (by decide) (by decide), State.armed_setFld _ _ _ _ (by decide) (by decide)]
    exact hinj
  rw [unchecked]
  exact {
    result := by
      rw [State.fld_intEdge _ _ _ (by decide) (by decide) (by decide), State.fld_setFld_other _ _ (by decide) (by decide) (by decide),
        State.fld_setFld]
      exact Nat.mod_eq_of_lt hr
    idle := by
      rw [State.fld_intEdge _ _ _ (by decide) (by decide) (by decide), State.fld_setFld]
      rfl
    pending := State.intEdge_pends ..
    esc := State.intEdge_esc ..
    stuck := fun p b h => stuck_intEdge (stuck_setFld (stuck_setFld h _ _ _ (by decide) (by decide)) _ _ _ (by decide) (by decide)) _ }

/-- The end of the verification of a readable image `im`: the image becomes current, or ESC.load latches. -/
theorem State.escLoaded_read {s t : State} {k : Nat} {im : Bytes} (hload : s.esc.loading = some k)
    (hread : s.engineRead (addr64 (s.fld Reg.ESC_LOAD_SRC_LO_ADDR * 64) (s.fld Reg.ESC_LOAD_SRC_HI)) 98464 14 = (some im, t)) :
    s.escLoaded = State.escReported (if escVerify im k s.fuseSec = 0 then
        State.escInstall { t with esc := { t.esc with loading := none } } k ⟨Sg.version im, Sg.secVer im, false, Sg.payload im⟩
      else State.latch { t with esc := { t.esc with loading := none } } .escLoad) (escVerify im k s.fuseSec) := by
  unfold State.escLoaded
  rw [hload]
  dsimp only
  rw [hread]
  rfl

/-! ### Bundles (R330) -/

section
variable {s : State} {v : Nat}

theorem State.bundleCtl_none (h : bit v 0 = false ∨ s.flag Reg.RGL_BUNDLE_CTL_BUSY = true) :
    s.bundleCtl v = s.setFld Reg.RGL_BUNDLE_CTL_SLOT 0 (bits v 1 1) := by
  have kept : (s.setFld Reg.RGL_BUNDLE_CTL_SLOT 0 (bits v 1 1)).flag Reg.RGL_BUNDLE_CTL_BUSY = s.flag Reg.RGL_BUNDLE_CTL_BUSY := by
    unfold State.flag
    rw [State.fld_setFld_other _ _ (by decide) (by decide) (by decide)]
  refine if_pos ?_
  rcases h with h | h
  · exact .inl (by simp [h])
  · exact .inr (.inl (kept.trans h))

theorem State.bundleCtl_go {im : Bytes} {r : Nat} {t : State} (hgo : bit v 0 = true) (hidle : s.flag Reg.RGL_BUNDLE_CTL_BUSY = false)
    (hen : s.pageEnabled Blk.rgl 0 = true) (hread : (s.setFld Reg.RGL_BUNDLE_CTL_SLOT 0 (bits v 1 1)).bundleRead = (im, r, t)) :
    s.bundleCtl v = State.setFld { t with rgl := { t.rgl with bundle := some ⟨bits v 1 1, im, if r ≠ 0 then r
      else if t.fld Reg.RGL_BOOT_SLOT = bits v 1 1 ∧ t.slotPasses (1 - bits v 1 1) = false then 4 else 0⟩ } }
      Reg.RGL_BUNDLE_CTL_BUSY 0 1 := by
  have kept : (s.setFld Reg.RGL_BUNDLE_CTL_SLOT 0 (bits v 1 1)).flag Reg.RGL_BUNDLE_CTL_BUSY = s.flag Reg.RGL_BUNDLE_CTL_BUSY := by
    unfold State.flag
    rw [State.fld_setFld_other _ _ (by decide) (by decide) (by decide)]
  unfold State.bundleCtl
  dsimp only
  rw [if_neg (by simp [hgo, kept, hidle, hen]), hread]
  simp

end

/-- The register fields that the controllers write when a read finds an error (R383 to R385). -/
structure OutlastsReads (P : State → Prop) : Prop extends OutlastsLatch P where
  ecc : ∀ {s : State} {f : Fld} (i v : Nat), f ∈ Part.eccFields → P s → P (s.setFld f i v)

namespace OutlastsReads

variable {P : State → Prop} (k : OutlastsReads P) {s : State}
include k

theorem mem (h : P s) (m : MemSt) : P { s with mem := m } := k.regs (s := s) rfl rfl h

theorem memUncorrectable (h : P s) (line channel port kind : Nat) : P (s.memUncorrectable line channel port kind) := by
  unfold State.memUncorrectable State.errLog
  refine k.latch _ _ ?_
  dsimp only
  split
  · exact k.ecc _ _ (by decide) (k.ecc _ _ (by decide) (k.mem h _))
  · exact k.ecc _ _ (by decide) (k.ecc _ _ (by decide) (k.mem h _))

theorem eccFound (h : P s) (line : Nat) (found : Ecc) : P (s.eccFound line found).2 := by
  unfold State.eccFound State.eccCheck
  dsimp only
  split
  · split
    · exact h
    · split
      · exact k.takeInject h ‹_›
      · split
        · exact k.takeInject h ‹_›
        · exact h
  · exact h

theorem readLine (h : P s) (line port kind : Nat) (found : Ecc) : P (s.readLine line port kind found).2 := by
  have checked : P (((s.readsAccepted (line * 64) 64).check .memSram).eccFound line found).2 :=
    k.eccFound (k.check (k.mem h _) ..) ..
  unfold State.readLine
  split
  rename_i e t he
  rw [he] at checked
  split
  · exact checked
  · exact k.latch _ _ (k.ecc _ _ (by decide) checked)
  · exact k.memUncorrectable checked ..

theorem biasRead (h : P s) (a len : Nat) : P (s.biasRead a len) := by
  unfold State.biasRead
  dsimp only
  split
  · exact k.mem h _
  · exact List.foldlRecOn (motive := P) _ _ (k.mem h _) fun t ht _ _ => k.regs (s := t) rfl rfl ht

theorem engineRead (h : P s) (a len port : Nat) : P (s.engineRead a len port).2 := by
  have poisoned (l : List Nat) : P (l.foldl (fun s l => s.memUncorrectable l (s.lineChannel l) port 0) (s.biasRead a len)) :=
    List.foldlRecOn (motive := P) _ _ (k.biasRead h ..) fun _ ht _ _ => k.memUncorrectable ht ..
  unfold State.engineRead
  split
  · exact h
  · split
    · exact h
    · dsimp only
      split
      · exact k.readLine (poisoned _) ..
      · exact poisoned _

theorem bundleRead (h : P s) : P s.bundleRead.2.2 := by
  have head := k.engineRead h (addr64 (s.fld Reg.RGL_BUNDLE_SRC_LO / 64 * 64) (s.fld Reg.RGL_BUNDLE_SRC_HI)) 64 15
  unfold State.bundleRead
  dsimp only
  split
  next he =>
    rw [he] at head
    exact head
  next u he =>
    rw [he] at head
    split
    · exact head
    · have body (n : Nat) := k.engineRead head (addr64 (s.fld Reg.RGL_BUNDLE_SRC_LO / 64 * 64) (s.fld Reg.RGL_BUNDLE_SRC_HI)) n 15
      split
      next hb => exact (congrArg (fun r => P r.2) hb).mp (body _)
      next hb => exact (congrArg (fun r => P r.2) hb).mp (body _)

end OutlastsReads

theorem eccFields_not_slot : ∀ f ∈ Part.eccFields, f.id ≠ Reg.RGL_BUNDLE_CTL_SLOT.id ∧ f.id < 1024 := by decide

/-- RGL_BUNDLE_CTL.SLOT holds its value through latches and the error log. -/
theorem outlastsReads_slot (n : Nat) : OutlastsReads fun s => s.fld Reg.RGL_BUNDLE_CTL_SLOT = n where
  regs hv hr h := (State.fld_congr hv hr ..).trans h
  inject _ _ h := (State.fld_setFld_other _ _ (by decide) (by decide) (by decide)).trans h
  latch src i h := (State.fld_latch _ src i (by decide) (by decide)).trans h
  ecc i v hf h := (State.fld_setFld_other _ _ (eccFields_not_slot _ hf).1 (eccFields_not_slot _ hf).2 (by decide)).trans h

/-- The end of a bundle write: RESULT, BUSY 0 and source 156. -/
def State.bundleReported (s : State) (r : Nat) : State :=
  ((s.setFld Reg.RGL_BUNDLE_CTL_RESULT 0 r).setFld Reg.RGL_BUNDLE_CTL_BUSY 0 0).intEdge 156

theorem State.bundleReported_spec (s : State) (r : Nat) :
    (s.bundleReported r).fld Reg.RGL_BUNDLE_CTL_RESULT = r % 16 ∧ (s.bundleReported r).flag Reg.RGL_BUNDLE_CTL_BUSY = false ∧
    ((s.bundleReported r).src 156).pending = true ∧ (s.bundleReported r).rgl = s.rgl ∧ (s.bundleReported r).kst = s.kst := by
  unfold State.bundleReported
  refine ⟨?_, ?_, State.intEdge_pends .., State.intEdge_rgl .., State.intEdge_kst ..⟩
  · rw [State.fld_intEdge _ _ _ (by decide) (by decide) (by decide), State.fld_setFld_other _ _ (by decide) (by decide) (by decide),
      State.fld_setFld]
    rfl
  · unfold State.flag
    rw [State.fld_intEdge _ _ _ (by decide) (by decide) (by decide), State.fld_setFld]
    rfl

/-- What a write within the endurance of its pages stores. -/
theorem State.kstWrite_within {s : State} {off : Nat} {bs : Bytes} (hworn : s.kst.worn off bs.length = false)
    (hwarns : s.kst.warns off bs.length = false) : s.kstWrite off bs = some { s with kst := s.kst.put off bs } :=
  (if_neg (by simp [hworn])).trans (congrArg some (if_neg (by simp [hwarns])))

/-- The bundle write that is under way is over. -/
def State.bundleTaken (s : State) : State := { s with rgl := { s.rgl with bundle := none } }

/-- The image of the bundle write is in its slot. -/
def State.bundleStored (s : State) (w : BundleWrite) : State := { s.bundleTaken with kst := s.kst.put (bundleSlot w.slot) w.image }

/-- The header of the slot is zeroed, where the endurance of its page allows it. -/
def State.headZeroed (s : State) (w : BundleWrite) : State := (s.kstWrite (bundleSlot w.slot) (List.replicate 64 0)).getD s

theorem State.kstWrite_mem {s : State} {off : Nat} {bs : Bytes} (hworn : s.kst.worn off bs.length = false)
    (hwarns : s.kst.warns off bs.length = false) : ((s.kstWrite off bs).getD s).kst.mem = s.kst.mem.writeBytes off bs := by
  rw [State.kstWrite_within hworn hwarns]
  rfl

theorem State.headZeroed_mem {s : State} {w : BundleWrite} (hworn : s.kst.worn (bundleSlot w.slot) 64 = false)
    (hwarns : s.kst.warns (bundleSlot w.slot) 64 = false) :
    (s.headZeroed w).kst.mem = s.kst.mem.writeBytes (bundleSlot w.slot) (List.replicate 64 0) := by
  have length : (List.replicate 64 (0 : Byte)).length = 64 := List.length_replicate
  exact State.kstWrite_mem (length.symm ▸ hworn) (length.symm ▸ hwarns)

section
variable {s : State} {w : BundleWrite} (hw : s.rgl.bundle = some w)
include hw

theorem State.bundleDone_refused (hr : w.result ≠ 0) (b : Bool) : s.bundleDone b = s.bundleTaken.bundleReported w.result := by
  unfold State.bundleDone
  rw [hw]
  dsimp only
  rw [if_pos hr]
  rfl

variable (hr : w.result = 0) (hworn : s.kst.worn (bundleSlot w.slot) w.image.length = false)
  (hwarns : s.kst.warns (bundleSlot w.slot) w.image.length = false)
include hr hworn hwarns

theorem State.bundleDone_stored (b : Bool) :
    s.bundleDone b = if b then (s.bundleStored w).bundleReported 0 else ((s.bundleStored w).headZeroed w).bundleReported 5 := by
  have stored : ({ s with rgl := { s.rgl with bundle := none } } : State).kstWrite (bundleSlot w.slot) w.image = some (s.bundleStored w) :=
    State.kstWrite_within hworn hwarns
  unfold State.bundleDone
  rw [hw]
  dsimp only
  rw [if_neg (by simp [hr]), stored]
  cases b <;> rfl

end

/-- A register write of the host to an open page, with no reserved bit. -/
theorem Runs.of_hostWrite {c : Instr} {s t : State} {blk inst rsv : Nat} {f : State → State} {P : State → Prop}
    (hexec : exec c s = s.run fun s => s.hostCmd blk inst rsv f) (hc : s.pwr.clocksStopped = false) (hflt : blk ≠ Blk.flt)
    (hopen : s.hostPageOpen blk inst = true) (hrsv : rsv = 0) (ht : f s = t) (h : P t) : Runs c s P := by
  subst hrsv
  exact Runs.of_run hexec hc ((State.hostCmd_open hflt hopen f).trans ht) h

/-- Settles O40: a verification by the verdict of its image, a bundle write by its result and its read-back. -/
theorem escapementImagesAndBundles : Obligations.EscapementImagesAndBundles := by
  unfold Obligations.EscapementImagesAndBundles
  refine ⟨fun s hc => ⟨fun v hen hopen hrsv hgo => ⟨fun hidle => ?_, fun hbusy => ?_⟩, ?_⟩,
    fun s hc => ⟨fun v hen hopen hrsv => ⟨fun hgo => ?_, fun hgo hbusy => ?_, fun im r t hgo hidle hread => ?_⟩, fun b w hw => ⟨fun hr => ?_,
      fun hr hworn hwarns => ⟨fun hb => ?_, fun hb => ?_⟩⟩⟩⟩
  · refine Runs.of_regCmd rfl hc (by decide) hopen hrsv (State.escLoadCtl_idle hgo hen hidle) ⟨State.fld_setFld .., ?_, rfl, rfl⟩
    rw [State.fld_setFld_other _ _ (by decide) (by decide) (by decide)]
    exact (State.fld_setFld s Reg.ESC_LOAD_CTL_KIND 0 (bits v.toNat 3 1)).trans (Nat.mod_eq_of_lt (bits_lt ..))
  · exact Runs.of_regCmd rfl hc (by decide) hopen hrsv (State.escLoadCtl_busy hgo hbusy)
      ⟨State.latched_latch _ .escLoad 0 (by decide), State.latch_esc .., State.fld_latch _ _ _ (by decide) (by decide)⟩
  · rintro k a im hload rfl hok hpoison hbias hmem hinj rfl
    obtain ⟨t, hread, accepted⟩ := State.engineRead_clean hmem (by decide) hok hpoison hbias 14
    refine Runs.of_run (f := State.escLoaded) rfl hc (State.escLoaded_read hload hread) ?_
    generalize s.dramBytes _ 98464 = im
    have hlt := escVerify_lt im k s.fuseSec
    generalize hu : (if escVerify im k s.fuseSec = 0 then _ else _ : State) = u
    have disarmed : u.fld Reg.PG_ERR_INJECT_COUNT (pageOf Blk.esc 0) = 0 := by
      rw [← hu]
      split
      · exact (accepted.fld ..).trans hinj
      · exact (State.armed_latch _ (by decide) _ _).trans ((accepted.fld ..).trans hinj)
    have reported := escReported_escReported hlt disarmed
    have loading : u.esc.loading = none := by
      rw [← hu]
      split
      · rfl
      · exact congrArg EscSt.loading (State.latch_esc ..)
    have units : u.esc.units = s.esc.units := by
      rw [← hu]
      split
      · exact (congrArg EscSt.units accepted.esc :)
      · exact (congrArg EscSt.units (State.latch_esc ..)).trans (congrArg EscSt.units accepted.esc :)
    refine ⟨reported.result, reported.idle, reported.pending, reported.esc ▸ loading, reported.esc ▸ units, fun hv => ?_, fun hv => ?_⟩
    · rw [if_pos hv] at hu
      rw [reported.esc, ← hu]
      unfold State.escInstall
      dsimp only
      rw [Tab.get_set_same, Tab.get_set_same, accepted.esc]
      exact ⟨rfl, fun j hj => Tab.get_set_other _ _ _ (Ne.symm hj)⟩
    · rw [if_neg hv] at hu
      refine ⟨?_, ?_, reported.stuck _ _ ?_⟩
      · rw [reported.esc, ← hu, State.latch_esc]
        exact (congrArg EscSt.cur accepted.esc :)
      · rw [reported.esc, ← hu, State.latch_esc]
        exact (congrArg EscSt.images accepted.esc :)
      · rw [← hu]
        exact State.latched_latch _ .escLoad 0 (by decide)
  · exact Runs.of_hostWrite rfl hc (by decide) hopen hrsv (State.bundleCtl_none (.inl hgo)) rfl
  · exact Runs.of_hostWrite rfl hc (by decide) hopen hrsv (State.bundleCtl_none (.inr hbusy)) rfl
  · have slot := (outlastsReads_slot (bits v.toNat 1 1)).bundleRead (s := s.setFld Reg.RGL_BUNDLE_CTL_SLOT 0 (bits v.toNat 1 1))
      ((State.fld_setFld s Reg.RGL_BUNDLE_CTL_SLOT 0 _).trans (Nat.mod_eq_of_lt (bits_lt ..)))
    rw [hread] at slot
    refine Runs.of_hostWrite rfl hc (by decide) hopen hrsv (State.bundleCtl_go hgo hidle hen hread) ⟨?_, ?_, rfl, rfl⟩
    · unfold State.flag
      rw [State.fld_setFld]
      rfl
    · rw [State.fld_setFld_other _ _ (by decide) (by decide) (by decide)]
      exact slot
  · obtain ⟨result, idle, pending, rgl, kst⟩ := s.bundleTaken.bundleReported_spec w.result
    exact Runs.of_run (f := fun s => s.bundleDone b) rfl hc (State.bundleDone_refused hw hr b)
      ⟨result, idle, pending, congrArg RglSt.bundle rgl, kst⟩
  · subst hb
    obtain ⟨result, idle, pending, rgl, kst⟩ := (s.bundleStored w).bundleReported_spec 0
    exact Runs.of_run (f := fun s => s.bundleDone true) rfl hc (State.bundleDone_stored hw hr hworn hwarns true)
      ⟨result, idle, pending, congrArg RglSt.bundle rgl, congrArg KstSt.mem kst⟩
  · subst hb
    obtain ⟨result, idle, pending, -, kst⟩ := ((s.bundleStored w).headZeroed w).bundleReported_spec 5
    exact Runs.of_run (f := fun s => s.bundleDone false) rfl hc (State.bundleDone_stored hw hr hworn hwarns false)
      ⟨result, idle, pending, fun hworn' hwarns' => (congrArg KstSt.mem kst).trans (State.headZeroed_mem hworn' hwarns')⟩

end Sys2Proof.Machine
end

section
/-! PROOFS. The watchdog and the reload of a regulator (15_escapements_and_regulators.md R333, 17_interrupts.md R351, R354). -/

namespace Sys2Proof.Machine

/-! ### A source that is pending outlasts a latch and a record -/

theorem State.pends_latch {s : State} {id : Nat} (hs : s.pends id) (src : Src) (i : Nat) : (s.latch src i).pends id := by
  have core := State.pends_latchCore hs src i
  have checked : (s.latchCore src i).collectorCheck.pends id := by
    unfold State.collectorCheck
    split
    next ht => exact State.pends_latchCore (State.pends_of_int (State.takeInject_int _ _ _ _ ht) core) ..
    next => exact core
  unfold State.latch
  dsimp only
  split <;> split
  · exact State.pends_logFault checked ..
  · exact checked
  · exact State.pends_logFault core ..
  · exact core

/-- `P` speaks of the registers and the interrupt sources only, and outlasts an armed inversion that is taken and a latch. -/
structure OutlastsRecord (P : State → Prop) : Prop where
  parts : ∀ {s t : State}, t.variant = s.variant → t.regs = s.regs → t.int = s.int → P s → P t
  inject : ∀ {s : State} (p v : Nat), P s → P (s.setFld Reg.PG_ERR_INJECT_COUNT p v)
  latch : ∀ {s : State} (src : Src) (i : Nat), P s → P (s.latch src i)

theorem outlastsRecord_pends (id : Nat) : OutlastsRecord (State.pends · id) where
  parts _ _ hint h := State.pends_of_int hint h
  inject _ _ h := State.pends_of_int (State.setFld_int ..) h
  latch src i h := State.pends_latch h src i

namespace OutlastsRecord

variable {P : State → Prop} (k : OutlastsRecord P) {s : State}
include k

theorem recordAt (h : P s) (r cls : Nat) (items : List (Nat → Bytes)) : P (s.recordAt r cls items) :=
  k.parts (s.recordAt_variant r cls items) (s.recordAt_regs r cls items) (s.recordAt_int r cls items) h

theorem loseEvent (h : P s) (r : Nat) : P (s.loseEvent r) :=
  k.parts (s.loseEvent_variant r) (s.loseEvent_regs r) (s.loseEvent_int r) h

/-- A record touches registers and sources only where a mismatch of the duplicate indices latches its source (R67). -/
theorem recordN (h : P s) (r cls : Nat) (items : List (Nat → Bytes)) (n : Nat) : P (s.recordN r cls items n) := by
  induction n generalizing s r cls items with
  | zero => exact k.recordAt h r cls items
  | succ n ih =>
    unfold State.recordN
    dsimp only
    split
    · exact k.recordAt h r cls items
    · split
      · exact k.recordAt h r cls items
      next u hu =>
        have taken : P u := State.takeInject_some hu ▸ k.inject _ _ h
        have halted : P (u.setRing r (s.ring r).halt) := k.parts (s := u) rfl rfl rfl taken
        split
        · exact k.recordAt (k.latch _ _ (ih halted _ _ _)) r cls items
        · exact k.recordAt (k.latch _ _ (k.loseEvent halted _)) r cls items

theorem eventTo (h : P s) (r : Nat) (en : Bool) (code blk source : Nat) (args : List Nat) : P (s.eventTo r en code blk source args) := by
  unfold State.eventTo
  split
  · exact k.recordN h _ 4 _ 256
  · exact k.loseEvent h _

theorem finish (h : P s) (j status r0 r1 r2 r3 : Nat) : P (s.finish j status r0 r1 r2 r3) := by
  have ended : ∀ x : RingSt, P { s with rng := x } := fun _ => k.parts (s := s) rfl rfl rfl h
  unfold State.finish
  dsimp only
  split
  · split
    · exact ended _
    · exact k.recordN (ended _) _ 2 _ 256
  · exact h

end OutlastsRecord

/-! ### Changes of RGL_STATUS.STATE (R354) -/

/-- `t` differs from `s` in nothing that a change of a regulator's state leaves alone: the regulators, the queues, the time, the
targets of the interrupt controller and the registers but for its own two. -/
structure StateMoved (s t : State) : Prop where
  now : t.now = s.now
  rgl : t.rgl = s.rgl
  rgq : t.rgq = s.rgq
  pwr : t.pwr = s.pwr
  targets : t.int.tgt = s.int.tgt
  variant : t.variant = s.variant
  fld : ∀ (f : Fld) (i : Nat), f.id < 1024 → f.id ≠ Reg.INT_HOST_MSGS.id → f.id ≠ Reg.INT_RR_PTR.id → t.fld f i = s.fld f i

namespace StateMoved

variable {s t u : State}

theorem refl (s : State) : StateMoved s s := ⟨rfl, rfl, rfl, rfl, rfl, rfl, fun _ _ _ _ _ => rfl⟩

theorem trans (h : StateMoved s t) (k : StateMoved t u) : StateMoved s u where
  now := k.now.trans h.now
  rgl := k.rgl.trans h.rgl
  rgq := k.rgq.trans h.rgq
  pwr := k.pwr.trans h.pwr
  targets := k.targets.trans h.targets
  variant := k.variant.trans h.variant
  fld f i hl hm hr := (k.fld f i hl hm hr).trans (h.fld f i hl hm hr)

theorem foldl {α : Type} {f : State → α → State} (h : ∀ t a, StateMoved t (f t a)) (l : List α) (s : State) : StateMoved s (l.foldl f s) :=
  List.foldlRecOn l f (.refl s) fun _ ht a _ => ht.trans (h _ a)

theorem setSrc (s : State) (id : Nat) (x : IntSrc) : StateMoved s (s.setSrc id x) := ⟨rfl, rfl, rfl, rfl, rfl, rfl, fun _ _ _ _ _ => rfl⟩

theorem rrAssign (s : State) (id : Nat) : StateMoved s (s.rrAssign id) :=
  ⟨State.rrAssign_now .., State.rrAssign_rgl .., State.rrAssign_rgq .., State.rrAssign_pwr .., (onlySource_rrAssign s id).targets,
    State.rrAssign_variant .., fun _ i hl _ hr => State.fld_rrAssign s id i hl hr⟩

theorem intEdge (s : State) (id : Nat) : StateMoved s (s.intEdge id) :=
  ⟨State.intEdge_now .., State.intEdge_rgl .., State.intEdge_rgq .., State.intEdge_pwr .., (onlySource_intEdge s id).targets,
    State.intEdge_variant .., fun _ i hl hm hr => State.fld_intEdge s id i hl hm hr⟩

end StateMoved

theorem stateMoved_setRglState (s : State) (g new : Nat) : StateMoved (s.setFld Reg.RGL_STATUS_STATE g new) (s.setRglState g new) := by
  unfold State.setRglState
  dsimp only
  split
  · exact (StateMoved.foldl (fun t id => .setSrc t id _) _ _).trans ((StateMoved.foldl .rrAssign _ _).trans (.intEdge ..))
  · split
    · exact StateMoved.foldl .rrAssign _ _
    · exact .refl _

section
variable (s : State) (g : Nat)

theorem State.fld_setRglState {new : Nat} (hnew : new < 4) : (s.setRglState g new).fld Reg.RGL_STATUS_STATE g = new :=
  ((stateMoved_setRglState s g new).fld _ _ (by decide) (by decide) (by decide)).trans
    ((State.fld_setFld s Reg.RGL_STATUS_STATE g new).trans (Nat.mod_eq_of_lt hnew))

/-- A regulator that stops raises source 73 + g (Table 17.1). -/
theorem State.pends_setRglState {new : Nat} (hrun : s.fld Reg.RGL_STATUS_STATE g = 1) (hnew : new ≠ 1) :
    (s.setRglState g new).pends (73 + g) := by
  unfold State.setRglState
  dsimp only
  rw [if_pos ⟨hrun, hnew⟩]
  exact State.intEdge_pends ..

/-! ### The watchdog (R333) -/

theorem State.regulator_of_rgl {s t : State} (h : t.rgl = s.rgl) (g : Nat) : t.rgl_ g = s.rgl_ g := by
  unfold State.rgl_
  rw [h]

/-- The end of a load that a halted regulator drops (log 47). -/
def State.loadDropped (t : State) (l : CplLoad) : State :=
  match l.job with
  | some j => t.finish j St.faulted 6 l.cpl.version
  | none => t

theorem State.dropLoads_eq : s.dropLoads g = (s.rgl.loading.filter fun l => l.g == g).foldl State.loadDropped
    { s with rgl := { s.rgl with loading := s.rgl.loading.filter fun l => l.g != g } } := rfl

theorem State.dropLoads_rgl : (s.dropLoads g).rgl = { s.rgl with loading := s.rgl.loading.filter fun l => l.g != g } := by
  refine State.foldl_part (g := State.rgl) (fun t l => ?_) _ _
  split
  · exact State.finish_rgl ..
  · rfl

theorem State.dropLoads_rgq : (s.dropLoads g).rgq = s.rgq := by
  refine State.foldl_part (g := State.rgq) (fun t l => ?_) _ _
  split
  · exact State.finish_rgq ..
  · rfl

theorem State.fld_dropLoads {f : Fld} (i : Nat) (hl : f.id < 1024) (hf : f.id ∉ latchFields) : (s.dropLoads g).fld f i = s.fld f i := by
  refine State.foldl_part (g := fun t => t.fld f i) (fun t l => ?_) _ _
  split
  · exact State.fld_finish _ _ _ _ _ _ _ i hl hf
  · rfl

theorem State.pends_dropLoads {id : Nat} (h : s.pends id) : (s.dropLoads g).pends id := by
  rw [State.dropLoads_eq]
  refine List.foldlRecOn (motive := fun t : State => t.pends id) _ _ (State.pends_of_int rfl h) fun t ht l _ => ?_
  unfold State.loadDropped
  split
  · exact (outlastsRecord_pends id).finish ht ..
  · exact ht

theorem State.rglRuns_of_state {s : State} {g : Nat} (hg : g < s.variant.regulators) (hrun : s.fld Reg.RGL_STATUS_STATE g = 1) :
    s.rglRuns g = true := by simp [State.rglRuns, hg, hrun]

theorem State.rglRuns_eq_false {s : State} {g : Nat} (hrun : s.fld Reg.RGL_STATUS_STATE g ≠ 1) : s.rglRuns g = false := by
  simp [State.rglRuns, hrun]

end

section
variable {s : State} {g : Nat} (hruns : s.rglRuns g = true)
include hruns

theorem State.wdogHalf_raised (hfirst : (s.rgl_ g).wdogHalf = false)
    (htime : (s.rgl_ g).wdogAt + s.fld Reg.RGL_WDOG_MS g * Clk.ms / 2 ≤ s.now) :
    s.wdogHalf g = (s.setRegl g { s.rgl_ g with wdogHalf := true }).privEdge g 5 :=
  if_neg (by simp [hruns, hfirst, htime])

theorem State.wdogExpire_halts (htime : (s.rgl_ g).wdogAt + s.fld Reg.RGL_WDOG_MS g * Clk.ms ≤ s.now) :
    s.wdogExpire g = ((s.setRglState g 2).dropLoads g).latch .rglWdog g :=
  if_neg (by simp [hruns, htime])

end

/-- What the halt of a running regulator leaves. -/
theorem State.halted_spec {s : State} {g : Nat} (hrun : s.fld Reg.RGL_STATUS_STATE g = 1) :
    let t := ((s.setRglState g 2).dropLoads g).latch .rglWdog g
    t.fld Reg.RGL_STATUS_STATE g = 2 ∧ t.latched .rglWdog g = true ∧ (t.src (73 + g)).pending = true ∧ t.rgl_ g = s.rgl_ g ∧
      t.rglQ g = s.rglQ g := by
  intro t
  have moved := stateMoved_setRglState s g 2
  have rgl : t.rgl = { s.rgl with loading := s.rgl.loading.filter fun l => l.g != g } := by
    rw [State.latch_rgl, State.dropLoads_rgl, moved.rgl]
    rfl
  have rgq : t.rgq = s.rgq := by
    rw [State.latch_rgq, State.dropLoads_rgq, moved.rgq]
    rfl
  refine ⟨?_, State.latched_latch _ .rglWdog g (by decide),
    State.pends_latch (State.pends_dropLoads _ g (State.pends_setRglState s g hrun (by decide))) .rglWdog g, ?_, ?_⟩
  · rw [State.fld_latch _ _ _ (by decide) (by decide), State.fld_dropLoads _ _ _ (by decide) (by decide), State.fld_setRglState s g (by decide)]
  · unfold State.rgl_
    rw [rgl]
  · unfold State.rglQ
    rw [rgq]

/-! ### RELOAD (R333) -/

/-- A source that ends leaves the shadow stacks and the regulators. -/
theorem State.shadow_endSource (s : State) (g id h : Nat) :
    ((s.endSource g id).tgt h).shadow = (s.tgt h).shadow ∧ (s.endSource g id).rgl = s.rgl := by
  unfold State.endSource
  dsimp only
  split
  · exact ⟨rfl, rfl⟩
  · split
    · refine ⟨?_, rfl⟩
      by_cases hg : g = h
      · subst hg
        rw [State.tgt_setTgt]
      · rw [State.tgt_setTgt_other _ _ _ hg]
    · exact ⟨by rw [State.tgt_of_int (congrArg IntSt.tgt (State.hostMsg_int ..))]; rfl, State.hostMsg_rgl ..⟩

theorem State.clearHandlers_spec (s : State) (g : Nat) : ((s.clearHandlers g).tgt g).shadow = [] ∧ (s.clearHandlers g).rgl = s.rgl ∧
    (s.clearHandlers g).now = s.now := by
  have now : ∀ (t : State) (id : Nat), (t.endSource g id).now = t.now := by
    intro t id
    unfold State.endSource
    dsimp only
    split
    · rfl
    · split
      · rfl
      · exact State.hostMsg_now ..
  unfold State.clearHandlers
  refine ⟨?_, State.foldl_part (fun t id => (t.shadow_endSource g id g).2) _ _, State.foldl_part now _ _⟩
  rw [State.foldl_part (g := fun t => (t.tgt g).shadow) (fun t id => (t.shadow_endSource g id g).1), State.tgt_setTgt]

/-- The regulator as a start of its runtime leaves it. -/
def Regulator.started (x : Regulator) (runtime : Bytes) (now : Nat) : Regulator :=
  { x with imem := memOf 0 (runtime.take 16384), dmem := memOf 0 (runtime.drop 16384), wdogAt := now, wdogHalf := false }

theorem State.startRuntime_spec (s : State) (g : Nat) :
    (s.startRuntime g).fld Reg.RGL_STATUS_STATE g = 1 ∧ (s.startRuntime g).rgl_ g = (s.rgl_ g).started s.rgl.runtime s.now ∧
    ((s.startRuntime g).tgt g).shadow = [] ∧ ∀ h, h ≠ g → (s.startRuntime g).rgl_ h = s.rgl_ h := by
  obtain ⟨shadow, rgl, -⟩ := s.clearHandlers_spec g
  have start : s.startRuntime g = ((s.clearHandlers g).setRegl g ((s.rgl_ g).started s.rgl.runtime s.now)).setRglState g 1 := rfl
  have moved := stateMoved_setRglState ((s.clearHandlers g).setRegl g ((s.rgl_ g).started s.rgl.runtime s.now)) g 1
  rw [start]
  refine ⟨State.fld_setRglState _ _ (by decide), ?_, ?_, fun h hne => ?_⟩
  · exact (State.regulator_of_rgl moved.rgl g).trans (State.rgl__setRegl ..)
  · rw [State.tgt_of_int moved.targets]
    exact shadow
  · exact (State.regulator_of_rgl moved.rgl h).trans ((State.rgl__setRegl_other _ _ (Ne.symm hne)).trans (State.regulator_of_rgl rgl h))

/-- The complications of a reloaded regulator begin again. -/
def Regulator.reloaded (x : Regulator) : Regulator := { x with cpls := x.cpls.map fun c => (c.1, c.2.again) }

/-- The regulator stops, unless it stands still already. -/
def State.rglStopped (s : State) (g : Nat) : State := if s.fld Reg.RGL_STATUS_STATE g = 1 then s.setRglState g 0 else s

theorem State.reload_starts {s : State} {g : Nat} (hg : g < s.variant.regulators) (hboot : s.fld Reg.RGL_BOOT_RECOVERY = 0)
    (hruntime : s.rgl.runtime ≠ []) (hon : s.domOn (18 + g) = true) (hidle : s.rgl.loading = []) :
    s.reload g = ((s.setRegl g (s.rgl_ g).reloaded).rglStopped g).startRuntime g := by
  have noLoads : s.dropLoads g = s := by
    have same : ({ s with rgl := { s.rgl with loading := [] } } : State) = s := by
      rw [← hidle]
    unfold State.dropLoads
    rw [hidle]
    exact same
  have on : (Tab.get {} s.pwr.domains (18 + g)).state = 2 := by simpa [State.domOn] using hon
  have noRecovery : s.flag Reg.RGL_BOOT_RECOVERY = false := by
    unfold State.flag
    rw [hboot]
    rfl
  unfold State.reload
  rw [if_neg (by simp [Nat.not_le.mpr hg, noRecovery, hruntime, on]), noLoads]
  rfl

theorem stateMoved_rglStopped (s : State) (g : Nat) : (s.rglStopped g).rgl = s.rgl ∧ (s.rglStopped g).now = s.now := by
  unfold State.rglStopped
  split
  · exact ⟨(stateMoved_setRglState s g 0).rgl, (stateMoved_setRglState s g 0).now⟩
  · exact ⟨rfl, rfl⟩

/-- Settles O42: by the two times of the watchdog, and by the steps of a reload. -/
theorem regulatorWatchdogAndReload : Obligations.RegulatorWatchdogAndReload := by
  unfold Obligations.RegulatorWatchdogAndReload
  intro s g hc hg
  refine ⟨fun hrun => ?_, fun hrun => ?_, fun hopen hboot hruntime hon hidle => ?_, fun hopen hnone => ?_⟩
  · have runs := State.rglRuns_of_state hg hrun
    refine ⟨Runs.of_run (f := fun s => s.wdogRestart g) rfl hc (if_pos runs) rfl, fun hfirst htime => ?_, fun hearly => ?_, fun htime => ?_,
      fun htime => ?_⟩
    · exact Runs.of_run (f := fun s => s.wdogHalf g) rfl hc (State.wdogHalf_raised runs hfirst htime) rfl
    · exact Runs.of_run (f := fun s => s.wdogHalf g) rfl hc (if_pos (.inr hearly)) rfl
    · exact Runs.of_run (f := fun s => s.wdogExpire g) rfl hc (State.wdogExpire_halts runs htime) (State.halted_spec hrun)
    · exact Runs.of_run (f := fun s => s.wdogExpire g) rfl hc (if_pos (.inr htime)) rfl
  · have stands := State.rglRuns_eq_false hrun
    exact ⟨Runs.of_run (f := fun s => s.wdogRestart g) rfl hc (if_neg (by simp [stands])) rfl,
      Runs.of_run (f := fun s => s.wdogExpire g) rfl hc (if_pos (by simp [stands])) rfl⟩
  · refine Runs.of_regCmd rfl hc (by decide) hopen rfl (State.reload_starts hg hboot hruntime hon hidle) ?_
    obtain ⟨rgl, now⟩ := stateMoved_rglStopped (s.setRegl g (s.rgl_ g).reloaded) g
    obtain ⟨running, started, shadow, others⟩ := ((s.setRegl g (s.rgl_ g).reloaded).rglStopped g).startRuntime_spec g
    have regulator : ((s.setRegl g (s.rgl_ g).reloaded).rglStopped g).rgl_ g = (s.rgl_ g).reloaded :=
      (State.regulator_of_rgl rgl g).trans (State.rgl__setRegl ..)
    rw [regulator, rgl, now] at started
    rw [started]
    refine ⟨running, rfl, rfl, rfl, rfl, rfl, ?_, fun c hmem => ?_, shadow, fun h hne => ?_⟩
    · exact List.map_map.trans rfl
    · obtain ⟨c', -, rfl⟩ := List.mem_map.mp hmem
      exact ⟨rfl, rfl⟩
    · exact (others h hne).trans ((State.regulator_of_rgl rgl h).trans (State.rgl__setRegl_other _ _ (Ne.symm hne)))
  · exact Runs.of_regCmd rfl hc (by decide) hopen rfl (if_pos (.inr (hnone.imp id .inl))) rfl

end Sys2Proof.Machine
end

section
/-! PROOFS. The mailboxes of the regulators and their queues to and from the switch (15_escapements_and_regulators.md R334 to R336). -/

namespace Sys2Proof.Machine

/-! ### Mailboxes (R334) -/

/-- `t` differs from `s` in the regulators' complications of `g` at most. -/
structure Told (s t : State) (g : Nat) : Prop where
  outside : t = { s with rgl := t.rgl }
  same : t.rgl_ g = { s.rgl_ g with cpls := (t.rgl_ g).cpls }
  others : ∀ h, h ≠ g → t.rgl_ h = s.rgl_ h

theorem told_messageFor (s : State) (g what : Nat) : Told s (s.messageFor g what) g := by
  unfold State.messageFor
  dsimp only
  split
  · exact ⟨rfl, by rw [State.rgl__setRegl], fun h hne => State.rgl__setRegl_other _ _ (Ne.symm hne)⟩
  · exact ⟨rfl, rfl, fun _ _ => rfl⟩

/-- The message `m` has joined the mailbox of regulator g, and raised its own source 2 there where it was empty. -/
structure Posted (s t : State) (g : Nat) (m : Bytes) : Prop where
  mbx : (t.rgl_ g).mbx = (s.rgl_ g).mbx ++ [m]
  others : ∀ h, h ≠ g → t.rgl_ h = s.rgl_ h
  edge : (s.rgl_ g).mbx = [] → (Tab.get {} (t.tgt g).priv 2).pending = true

theorem State.privEdge_pends (s : State) (g id : Nat) : (Tab.get {} ((s.privEdge g id).tgt g).priv id).pending = true := by
  unfold State.privEdge
  rw [State.tgt_setTgt, Tab.get_set_same]

theorem State.post_room {s : State} {g : Nat} (hroom : (s.rgl_ g).mbx.length < 16) (hen : s.pageEnabled Blk.rgl g = true) (m : Bytes) :
    ∃ t, s.post g m = (true, t) ∧ Posted s t g m := by
  unfold State.post
  refine ⟨_, if_neg (by simp [Nat.not_le.mpr hroom, hen]), ?_⟩
  have told (u : State) : Told u (u.messageFor g 0) g := told_messageFor u g 0
  have placed : (s.setRegl g { s.rgl_ g with mbx := (s.rgl_ g).mbx ++ [m] }).rgl_ g =
      { s.rgl_ g with mbx := (s.rgl_ g).mbx ++ [m] } := State.rgl__setRegl ..
  have beside (h : Nat) (hne : h ≠ g) : (s.setRegl g { s.rgl_ g with mbx := (s.rgl_ g).mbx ++ [m] }).rgl_ h = s.rgl_ h :=
    State.rgl__setRegl_other _ _ (Ne.symm hne)
  generalize s.setRegl g { s.rgl_ g with mbx := (s.rgl_ g).mbx ++ [m] } = u at placed beside
  by_cases hempty : (s.rgl_ g).mbx = []
  · simp only [if_pos hempty]
    have toldEdge := told (u.privEdge g 2)
    refine ⟨?_, fun h hne => (toldEdge.others h hne).trans (beside h hne), fun _ => ?_⟩
    · rw [toldEdge.same]
      exact congrArg Regulator.mbx placed
    · rw [toldEdge.outside]
      exact u.privEdge_pends g 2
  · simp only [if_neg hempty]
    refine ⟨?_, fun h hne => ((told u).others h hne).trans (beside h hne), fun h => absurd h hempty⟩
    rw [(told u).same]
    exact congrArg Regulator.mbx placed

theorem State.post_full {s : State} {g : Nat} (hfull : 16 ≤ (s.rgl_ g).mbx.length) (m : Bytes) : s.post g m = (false, s) :=
  if_pos (.inl hfull)

/-- A host message of 32 bytes keeps its last 30 (Table 15.15). -/
theorem mailMsg_of_length {b : Bytes} (h : b.length = 32) (sender : Nat) : mailMsg sender b = leBytes sender 2 ++ b.drop 2 := by
  have kept : ((b ++ List.replicate 32 0).drop 2).take 30 = b.drop 2 := by
    rw [List.drop_append_of_le_length (by omega), List.take_append_of_le_length (by simp [h])]
    exact List.take_of_length_le (by simp [h])
  exact congrArg (leBytes sender 2 ++ ·) kept

theorem hostMail_length (s : State) (g : Nat) :
    ((List.range 8).flatMap fun w => leBytes (s.fld Reg.RGL_MBX_DATA (8 * g + w)) 4).length = 32 := by
  simp [List.length_flatMap, leBytes_length]

/-- Regulators are fewer than the host's number in a mailbox. -/
theorem variant_regulators_le (v : Variant) : v.regulators ≤ 16 := by cases v <;> decide

section
variable {s : State} {g : Nat}

theorem State.hostPost_room (hg : g < s.variant.regulators) (hroom : (s.rgl_ g).mbx.length < 16) (hen : s.pageEnabled Blk.rgl g = true) :
    ∃ t, s.hostPost g = t.setFld Reg.RGL_MBX_POST_FULL g 0 ∧ Posted s t g (leBytes 16 2 ++
      ((List.range 8).flatMap fun w => leBytes (s.fld Reg.RGL_MBX_DATA (8 * g + w)) 4).drop 2) := by
  obtain ⟨t, ht, posted⟩ := State.post_room hroom hen
    (mailMsg 16 ((List.range 8).flatMap fun w => leBytes (s.fld Reg.RGL_MBX_DATA (8 * g + w)) 4))
  refine ⟨t, ?_, mailMsg_of_length (hostMail_length s g) 16 ▸ posted⟩
  unfold State.hostPost
  rw [if_neg (Nat.not_le.mpr hg)]
  dsimp only
  rw [ht]
  rfl

theorem State.hostPost_full (hg : g < s.variant.regulators) (hfull : 16 ≤ (s.rgl_ g).mbx.length) :
    s.hostPost g = s.setFld Reg.RGL_MBX_POST_FULL g 1 := by
  unfold State.hostPost
  rw [if_neg (Nat.not_le.mpr hg)]
  dsimp only
  rw [State.post_full hfull]
  rfl

theorem State.postFrom_regulator {h : Nat} (hh : h < s.variant.regulators) (m : Bytes) :
    s.postFrom g h m = s.post h (mailMsg g m) :=
  if_neg (by have := variant_regulators_le s.variant; omega)

theorem State.lPost_regulator {v h : Nat} (hruns : s.rglRuns g = true) (hv : h = bits v 4 0) (hh : h < s.variant.regulators) :
    s.lPost g v = (s.post h (mailMsg g (s.rgl_ g).mbxOut)).2.setRegl g
      { (s.post h (mailMsg g (s.rgl_ g).mbxOut)).2.rgl_ g with postDone := true, postFull := !(s.post h (mailMsg g (s.rgl_ g).mbxOut)).1 } := by
  subst hv
  unfold State.lPost
  dsimp only
  rw [if_neg (by simp [hruns]), if_neg (by simp [Nat.not_le.mpr hh]), State.postFrom_regulator hh]

end

/-! ### Transmit entries (R336) -/

/-- The queue and own source 4 once the head entry of regulator g is taken. -/
def State.txTaken (s : State) (g : Nat) : State :=
  (s.setRglQ g { s.rglQ g with txCi := ((s.rglQ g).txCi + 1) % 32 }).privEdge g 4

/-- The frame of entry `e` waits at the switch input of regulator g, and the turn passes. -/
def State.txQueued (s : State) (g : Nat) (e : Bytes) : State :=
  let t : State := { s.txTaken g with rgl := { s.rgl with txTurn := Tab.set s.rgl.txTurn (32 + g / 2) (if g % 2 = 0 then g + 1 else g - 1) } }
  t.setSwin (32 + g / 2) { s.swin (32 + g / 2) with wait := (s.swin (32 + g / 2)).wait ++ [s.txFrame g e] }

theorem State.txSend_eq {s : State} {g : Nat} {e : Bytes} (hg : g < s.variant.regulators)
    (he : e = Tab.get (List.replicate 96 0) (s.rglQ g).txq ((s.rglQ g).txCi % 16)) (hwait : (s.rglQ g).txCount ≠ 0)
    (hturn : Tab.get (2 * (g / 2)) s.rgl.txTurn (32 + g / 2) = g) :
    s.txSend g = if s.txOwned g e then s.txQueued g e else (s.txTaken g).count Reg.RGL_TX_REJECT g := by
  subst he
  unfold State.txSend
  dsimp only
  rw [if_neg (by simp [hwait, Nat.not_le.mpr hg, hturn])]
  cases s.txOwned g _ <;> rfl

/-- Settles O43: a post by the room in the mailbox, an index by its distance from the other, an entry by the owner of its buffers. -/
theorem regulatorMailboxesAndQueues : Obligations.RegulatorMailboxesAndQueues := by
  unfold Obligations.RegulatorMailboxesAndQueues
  intro s g hc hg hen
  refine ⟨fun hopen hroom => ?_, fun hopen hfull => ?_, fun hrun => ?_, fun e he hwait hturn => ⟨fun howned => ?_, fun hnot => ?_⟩,
    fun hnone => Runs.of_run (f := fun s => s.txSend g) rfl hc (if_pos (.inl hnone)) rfl⟩
  · obtain ⟨t, ht, posted⟩ := State.hostPost_room hg hroom hen
    exact Runs.of_regCmd rfl hc (by decide) hopen rfl ht ⟨posted.mbx, State.fld_setFld .., posted.edge, posted.others⟩
  · exact Runs.of_regCmd rfl hc (by decide) hopen rfl (State.hostPost_full hg hfull) rfl
  · have runs := State.rglRuns_of_state hg hrun
    refine ⟨fun v h hv hh henh => ⟨fun hroom => ?_, fun hfull => ?_⟩,
      Runs.of_run (f := fun s => s.mbxPop g) rfl hc (if_pos runs) (by rw [List.drop_one]), fun v => ⟨⟨fun hle => ?_, fun hgt => ?_⟩, fun hle => ?_,
        fun hgt => ?_⟩⟩
    · obtain ⟨t, ht, posted⟩ := State.post_room hroom henh (mailMsg g (s.rgl_ g).mbxOut)
      refine Runs.of_run (f := fun s => s.lPost g v.toNat) rfl hc (State.lPost_regulator runs hv hh) ?_
      rw [ht]
      refine ⟨?_, by rw [State.rgl__setRegl], by rw [State.rgl__setRegl]; rfl, posted.edge⟩
      refine Eq.trans ?_ posted.mbx
      by_cases hgh : g = h
      · subst hgh
        rw [State.rgl__setRegl]
      · rw [State.rgl__setRegl_other _ _ hgh]
    · refine Runs.of_run (f := fun s => s.lPost g v.toNat) rfl hc (State.lPost_regulator runs hv hh) ?_
      rw [State.post_full hfull]
      rfl
    · exact Runs.of_run (f := fun s => s.rxCi g v.toNat) rfl hc ((if_neg (by simp [runs])).trans (if_neg (Nat.not_lt.mpr hle))) rfl
    · exact Runs.of_run (f := fun s => s.rxCi g v.toNat) rfl hc ((if_neg (by simp [runs])).trans (if_pos hgt))
        ⟨by unfold State.rglQ; rw [State.latch_rgq], State.latched_latch _ .rglQueue g (by decide)⟩
    · exact Runs.of_run (f := fun s => s.txPi g v.toNat) rfl hc ((if_neg (by simp [runs])).trans (if_neg (Nat.not_lt.mpr hle))) rfl
    · exact Runs.of_run (f := fun s => s.txPi g v.toNat) rfl hc ((if_neg (by simp [runs])).trans (if_pos hgt))
        ⟨by unfold State.rglQ; rw [State.latch_rgq], State.latched_latch _ .rglQueue g (by decide)⟩
  · refine Runs.of_run (f := fun s => s.txSend g) rfl hc ((State.txSend_eq hg he hwait hturn).trans (if_pos howned)) ⟨?_, ?_, ?_⟩
    · exact congrArg RglQueues.txCi (State.rglQ_setRglQ ..)
    · exact State.privEdge_pends (s.setRglQ g { s.rglQ g with txCi := ((s.rglQ g).txCi + 1) % 32 }) g 4
    · unfold State.txQueued
      rw [State.swin_setSwin]
      exact List.map_append
  · refine Runs.of_run (f := fun s => s.txSend g) rfl hc ((State.txSend_eq hg he hwait hturn).trans (if_neg (by simp [hnot]))) ⟨?_, ?_, ?_, rfl⟩
    · exact congrArg RglQueues.txCi (State.rglQ_setRglQ ..)
    · exact State.privEdge_pends (s.setRglQ g { s.rglQ g with txCi := ((s.rglQ g).txCi + 1) % 32 }) g 4
    · exact State.fld_setFld ..

end Sys2Proof.Machine
end

section
/-! PROOFS. The services of the runtime (15_escapements_and_regulators.md R337, Table 15.10). -/

namespace Sys2Proof.Machine

/-! ### A complication in its slot -/

theorem State.queues_of_rgq {s t : State} (h : t.rgq = s.rgq) (g : Nat) : t.rglQ g = s.rglQ g := by
  unfold State.rglQ
  rw [h]

@[simp] theorem State.cpl_setCpl (s : State) (g k : Nat) (c : Cpl) : (s.setCpl g k c).cpl g k = c := by
  unfold State.cpl State.setCpl
  rw [State.rgl__setRegl, Tab.get_set_same]

theorem State.regl_setCpl (s : State) (g k : Nat) (c : Cpl) :
    (s.setCpl g k c).rgl_ g = { s.rgl_ g with cpls := Tab.set (s.rgl_ g).cpls k c } := State.rgl__setRegl ..

theorem State.regl_setCpl_other (s : State) {g h : Nat} (k : Nat) (c : Cpl) (hne : h ≠ g) : (s.setCpl g k c).rgl_ h = s.rgl_ h :=
  State.rgl__setRegl_other _ _ (Ne.symm hne)

theorem State.mbx_setCpl (s : State) (g k h : Nat) (c : Cpl) : ((s.setCpl g k c).rgl_ h).mbx = (s.rgl_ h).mbx := by
  by_cases hne : h = g
  · rw [hne, State.regl_setCpl]
  · rw [State.regl_setCpl_other _ _ _ hne]

theorem State.cpl_cplRet (s : State) (g k a0 a1 : Nat) : (s.cplRet g k a0 a1).cpl g k = { s.cpl g k with a0 := a0, a1 := a1 } :=
  State.cpl_setCpl ..

theorem State.mbx_cplRet (s : State) (g k h a0 a1 : Nat) : ((s.cplRet g k a0 a1).rgl_ h).mbx = (s.rgl_ h).mbx := State.mbx_setCpl ..

/-- The register page of a regulator reads as before through a change of a complication. -/
theorem State.fld_setCpl (s : State) (g k : Nat) (c : Cpl) (f : Fld) (i : Nat) : (s.setCpl g k c).fld f i = s.fld f i := State.fld_congr rfl rfl f i

theorem State.rglRuns_of_cplRuns {s : State} {g k : Nat} (h : s.cplRuns g k = true) : s.rglRuns g = true := by
  simp only [State.cplRuns, Bool.and_eq_true] at h
  exact h.1.1.1

section
variable {s : State} {g k : Nat} (hruns : s.cplRuns g k = true)
include hruns

/-! ### Entries -/

theorem State.doYield_idle (hframe : (s.cpl g k).frameWaits = false) (hmsg : (s.cpl g k).msgWaits = 0) :
    s.doYield g k = s.setCpl g k { s.cpl g k with
      entry := 0, overruns := if (s.cpl g k).entry = 2 ∧ !(s.cpl g k).overran then 0 else (s.cpl g k).overruns } := by
  unfold State.doYield
  dsimp only
  rw [if_neg (by simp [hruns]), if_neg (by simp [hframe]), if_neg (by simp [hmsg])]

theorem State.doYield_frame (hframe : (s.cpl g k).frameWaits = true) :
    s.doYield g k = s.setCpl g k { s.cpl g k with
      entry := 2, entryAt := s.now, overran := false, frameWaits := false, a0 := s.frameCount
      overruns := if (s.cpl g k).entry = 2 ∧ !(s.cpl g k).overran then 0 else (s.cpl g k).overruns } := by
  unfold State.doYield
  dsimp only
  rw [if_neg (by simp [hruns]), if_pos hframe]

/-- YIELD with no injection armed in the regulator's page. -/
theorem Runs.of_yield {c : Cpl} {P : State → Prop} (hc : s.pwr.clocksStopped = false)
    (hinj : s.fld Reg.PG_ERR_INJECT_COUNT (pageOf Blk.rgl g) = 0) (hyield : s.doYield g k = s.setCpl g k c) (h : P (s.setCpl g k c)) :
    Runs (.yield g k) s P := by
  refine Runs.of_run (f := fun s => if s.cplRuns g k then (s.doYield g k).check .rglSram g else s) rfl hc ((if_pos hruns).trans ?_) h
  rw [hyield]
  exact State.check_disarmed (src := .rglSram) ((State.fld_setCpl ..).trans hinj)

/-! ### Messages, queues and published addresses -/

theorem State.svcRecv_empty (hmbx : (s.rgl_ g).mbx = []) : s.svcRecv g k = s.cplRet g k 1 0 := by
  unfold State.svcRecv
  rw [if_neg (by simp [hruns]), hmbx]

theorem State.svcRecv_head {m : Bytes} {ms : List Bytes} (hmbx : (s.rgl_ g).mbx = m :: ms) :
    s.svcRecv g k = ((s.setRegl g { s.rgl_ g with mbx := ms }).cplRet g k 0 0).setCpl g k
      { ((s.setRegl g { s.rgl_ g with mbx := ms }).cplRet g k 0 0).cpl g k with got := m } := by
  have popped : s.mbxPop g = s.setRegl g { s.rgl_ g with mbx := ms } := by
    unfold State.mbxPop
    rw [if_pos (State.rglRuns_of_cplRuns hruns), hmbx]
    rfl
  unfold State.svcRecv
  rw [if_neg (by simp [hruns]), hmbx]
  dsimp only
  rw [popped]

theorem State.svcSend_regulator {h : Nat} (hh : h < s.variant.regulators) (m : Bytes) :
    s.svcSend g k h m = (s.post h (mailMsg g m)).2.cplRet g k (b2n !(s.post h (mailMsg g m)).1) 0 := by
  unfold State.svcSend
  rw [if_neg (by simp [hruns]), if_neg (by simp [Nat.not_le.mpr hh]), State.postFrom_regulator hh]

theorem State.svcTake_empty (h : (s.rglQ g).rxPi = (s.rglQ g).rxCi) : s.svcTake g k = s.cplRet g k 1 0 := by
  unfold State.svcTake
  dsimp only
  rw [if_neg (by simp [hruns]), if_pos h]

theorem State.svcTake_head (h : (s.rglQ g).rxPi ≠ (s.rglQ g).rxCi) :
    s.svcTake g k = ((s.setRglQ g { s.rglQ g with rxCi := ((s.rglQ g).rxCi + 1) % 128 }).cplRet g k 0 0).setCpl g k
      { ((s.setRglQ g { s.rglQ g with rxCi := ((s.rglQ g).rxCi + 1) % 128 }).cplRet g k 0 0).cpl g k with
        got := Tab.get [] (s.rglQ g).rxq ((s.rglQ g).rxCi % 64) } := by
  unfold State.svcTake
  dsimp only
  rw [if_neg (by simp [hruns]), if_neg h]

theorem State.svcTx_full (h : (s.rglQ g).txCount = 16) (e : Bytes) : s.svcTx g k e = s.cplRet g k 1 0 := by
  unfold State.svcTx
  dsimp only
  rw [if_neg (by simp [hruns]), if_pos h]

theorem State.svcTx_room (h : (s.rglQ g).txCount ≠ 16) {e : Bytes} (he : e.length = 96) :
    s.svcTx g k e = (s.setRglQ g { s.rglQ g with
      txq := Tab.set (s.rglQ g).txq ((s.rglQ g).txPi % 16) e, txPi := ((s.rglQ g).txPi + 1) % 32 }).cplRet g k 0 0 := by
  have whole : (e ++ List.replicate 96 0).take 96 = e := List.take_left' he
  unfold State.svcTx
  dsimp only
  rw [if_neg (by simp [hruns]), if_neg h, whole]

theorem State.level2_above (habi : 2 ≤ (s.cpl g k).abi) (f : State → State) : s.level2 g k f = f s :=
  (if_neg (by simp [hruns])).trans (if_neg (Nat.not_lt.mpr habi))

theorem State.level2_below (habi : (s.cpl g k).abi < 2) (f : State → State) : s.level2 g k f = s.cplRet g k 0xFFFFFFFF 0 :=
  (if_neg (by simp [hruns])).trans (if_pos habi)

end

/-- Settles O44: each service by its result. -/
theorem runtimeServicesAnswer : Obligations.RuntimeServicesAnswer := by
  unfold Obligations.RuntimeServicesAnswer
  rintro s g k c hc hruns rfl hinj
  have inEntry : ¬ (!(s.cplRuns g k)) = true := by simp [hruns]
  refine ⟨fun hframe hmsg => ?_, fun hframe => ?_, fun hmbx => ?_, fun m ms hmbx => ?_, fun h m hh hen => ⟨fun hroom => ?_, fun hfull => ?_⟩,
    fun op b n o => ?_, fun code args => ?_, ?_, fun hq => ?_, fun hq => ?_, fun e he => ⟨fun hq => ?_, fun hq => ?_⟩,
    fun kd a u => ⟨fun habi => ⟨?_, ?_, ?_⟩, fun habi => ⟨?_, ?_, ?_⟩⟩⟩
  · exact Runs.of_yield hruns hc hinj (State.doYield_idle hruns hframe hmsg) ⟨congrArg Cpl.entry (State.cpl_setCpl ..), rfl⟩
  · refine Runs.of_yield hruns hc hinj (State.doYield_frame hruns hframe) ?_
    rw [State.cpl_setCpl]
    exact ⟨rfl, rfl, rfl, rfl⟩
  · exact Runs.of_run (f := fun s => s.svcRecv g k) rfl hc (State.svcRecv_empty hruns hmbx) rfl
  · refine Runs.of_run (f := fun s => s.svcRecv g k) rfl hc (State.svcRecv_head hruns hmbx) ?_
    rw [State.cpl_setCpl, State.cpl_cplRet, State.mbx_setCpl, State.mbx_cplRet, State.rgl__setRegl]
    exact ⟨rfl, rfl, rfl, rfl⟩
  · obtain ⟨t, ht, posted⟩ := State.post_room hroom hen (mailMsg g m)
    refine Runs.of_run (f := fun s => s.svcSend g k h m) rfl hc (State.svcSend_regulator hruns hh m) ?_
    rw [ht, State.cpl_cplRet, State.mbx_cplRet]
    exact ⟨rfl, posted.mbx⟩
  · refine Runs.of_run (f := fun s => s.svcSend g k h m) rfl hc (State.svcSend_regulator hruns hh m) ?_
    rw [State.post_full hfull]
    rfl
  · refine Runs.of_run (f := fun s => s.svcPool g k op b n o) rfl hc (if_neg inEntry) ?_
    dsimp only
    rw [State.cpl_cplRet]
    exact ⟨rfl, rfl⟩
  · refine Runs.of_run (f := fun s => s.svcEvent g k code args) rfl hc (if_neg inEntry) ?_
    rw [State.cpl_cplRet, State.mbx_cplRet]
    exact ⟨rfl, congrArg Regulator.mbx (State.regulator_of_rgl (State.event_rgl ..) g),
      State.queues_of_rgq (State.event_rgq ..) g, State.event_esc ..⟩
  · exact Runs.of_run (f := fun s => s.svcTime g k) rfl hc (if_neg inEntry) rfl
  · exact Runs.of_run (f := fun s => s.svcTake g k) rfl hc (State.svcTake_empty hruns hq) rfl
  · refine Runs.of_run (f := fun s => s.svcTake g k) rfl hc (State.svcTake_head hruns hq) ?_
    rw [State.cpl_setCpl, State.cpl_cplRet]
    exact ⟨rfl, rfl, State.rglQ_setRglQ .., rfl⟩
  · exact Runs.of_run (f := fun s => s.svcTx g k e) rfl hc (State.svcTx_full hruns hq e) rfl
  · refine Runs.of_run (f := fun s => s.svcTx g k e) rfl hc (State.svcTx_room hruns hq he) ?_
    have queue (q : RglQueues) : ((s.setRglQ g q).cplRet g k 0 0).rglQ g = q := State.rglQ_setRglQ ..
    rw [State.cpl_cplRet, queue]
    exact ⟨rfl, rfl, Tab.get_set_same .., rfl⟩
  · exact Runs.of_run (f := fun s => s.svcPublish g k kd a) rfl hc (State.level2_above hruns habi _) (Tab.get_set_same ..)
  · exact Runs.of_run (f := fun s => s.svcLookup g k kd) rfl hc (State.level2_above hruns habi _) rfl
  · refine Runs.of_run (f := fun s => s.svcTimer g k u) rfl hc (State.level2_above hruns habi _) ?_
    dsimp only
    rw [State.cpl_cplRet, State.cpl_setCpl]
    exact ⟨rfl, rfl, rfl⟩
  · exact Runs.of_run (f := fun s => s.svcPublish g k kd a) rfl hc (State.level2_below hruns habi _) rfl
  · exact Runs.of_run (f := fun s => s.svcLookup g k kd) rfl hc (State.level2_below hruns habi _) rfl
  · exact Runs.of_run (f := fun s => s.svcTimer g k u) rfl hc (State.level2_below hruns habi _) rfl

end Sys2Proof.Machine
end

section
/-! PROOFS. Complications that are loaded, stopped and called (15_escapements_and_regulators.md R325, R337, R338). -/

namespace Sys2Proof.Machine

/-! ### COMPLICATION_LOAD (R338) -/

/-- The command of job `j` loads the image `im` from a legal range of host memory. -/
structure LoadsFromHost (s : State) (j : Nat) (im : Bytes) : Prop where
  load : bit (field (s.job j).args 21 1) 0 = false
  host : (addrSpace (field (s.job j).args 8 8)).1 = false
  range : (addrSpace (field (s.job j).args 8 8)).2 + field (s.job j).args 16 4 ≤ 9223372036854775808
  length : im.length = field (s.job j).args 16 4

/-- The load of `im` on regulator `g`, its INIT under way or returned. -/
def State.loadBegun (s : State) (j g : Nat) (im : Bytes) (init : Option Bool) : CplLoad :=
  ⟨some j, g, (s.slotFor g (Sg.kind im)).getD 0, init == some true, s.now,
    { Cpl.ofImage im s.rgl.order with entry := 1, entryAt := s.now, a0 := 2 }⟩

/-- The job of a load waits for INIT and for the mark. -/
def State.cplPlaced (s : State) (j g : Nat) (im : Bytes) (init : Option Bool) : State :=
  State.start { s with rgl := { s.rgl with loading := s.rgl.loading ++ [s.loadBegun j g im init], order := s.rgl.order + 1 } } j

section
variable {s : State} {j : Nat} {im : Bytes} (h : LoadsFromHost s j im)
include h

theorem State.cplFetch (r : ReadEnd) :
    s.fetchImage (field (s.job j).args 8 8) (field (s.job j).args 16 4) im r 14 = (if r = .ok then some im else none, s.imageAsked j im) := by
  have whole : (im ++ List.replicate (im.length - im.length) 0).take im.length = im := by simp
  rw [← h.length]
  refine (if_neg (Bool.eq_false_iff.1 h.host)).trans ?_
  cases r with
  | ok =>
    rw [whole]
    rfl
  | error => rfl
  | xlat => rfl

theorem State.cplRange : s.rangeOk (addrSpace (field (s.job j).args 8 8)).1 (addrSpace (field (s.job j).args 8 8)).2 (field (s.job j).args 16 4) = true := by
  rw [h.host]
  exact State.rangeOk_host s h.range

theorem State.cplLoad_error (init : Option Bool) : s.cplLoad j im .error init = (s.imageAsked j im).finish j St.faulted := by
  unfold State.cplLoad
  dsimp only
  rw [if_neg (by simp [h.load]), if_neg (by simp [State.cplRange h]), State.cplFetch h]
  exact if_pos (.inr (by decide))

/-- What a load does with an image that has been read: `r` is what the check says. -/
theorem State.cplLoad_read {r : Nat} (hr : (if im.length = Sg.length im then cplVerify im s.fuseSec else 1) = r) (init : Option Bool) :
    s.cplLoad j im .ok init =
      if r ≠ 0 then (s.imageAsked j im).finish j (cplStatus r) r (Sg.version im)
      else match (s.imageAsked j im).placeFor (field (s.job j).args 20 1) im with
        | none => (s.imageAsked j im).finish j St.noResource 0 (Sg.version im)
        | some g => if init = some false then (s.imageAsked j im).finish j St.faulted 6 (Sg.version im)
          else (s.imageAsked j im).cplPlaced j g im init := by
  subst hr
  unfold State.cplLoad
  dsimp only
  rw [if_neg (by simp [h.load]), if_neg (by simp [State.cplRange h]), State.cplFetch h]
  rfl

theorem State.cplLoad_refused {r : Nat} (hr : (if im.length = Sg.length im then cplVerify im s.fuseSec else 1) = r) (hne : r ≠ 0)
    (init : Option Bool) : s.cplLoad j im .ok init = (s.imageAsked j im).finish j (cplStatus r) r (Sg.version im) :=
  (State.cplLoad_read h hr init).trans (if_pos hne)

variable (hgood : (if im.length = Sg.length im then cplVerify im s.fuseSec else 1) = 0) (init : Option Bool)
include hgood

theorem State.cplLoad_noRoom (hroom : (s.imageAsked j im).placeFor (field (s.job j).args 20 1) im = none) :
    s.cplLoad j im .ok init = (s.imageAsked j im).finish j St.noResource 0 (Sg.version im) := by
  rw [State.cplLoad_read h hgood init, if_neg (by decide), hroom]

theorem State.cplLoad_room {g : Nat} (hroom : (s.imageAsked j im).placeFor (field (s.job j).args 20 1) im = some g) :
    s.cplLoad j im .ok init = if init = some false then (s.imageAsked j im).finish j St.faulted 6 (Sg.version im)
      else (s.imageAsked j im).cplPlaced j g im init := by
  rw [State.cplLoad_read h hgood init, if_neg (by decide), hroom]

end

section
variable {im : Bytes} {n : Nat}

theorem cplVerify_format (h : Sg.formatOk im 3 = false ∨ Mani.ok im = false) : cplVerify im n = 1 := by
  unfold cplVerify
  rw [if_pos]
  rcases h with h | h <;> simp [h]

variable (hform : Sg.formatOk im 3 = true) (hlen : 64 ≤ Sg.payloadLen im) (hmani : Mani.ok im = true)
include hform hlen hmani

theorem cplVerify_unsigned (h : Config.signatureOk im = false) : cplVerify im n = 2 := by
  unfold cplVerify
  rw [if_neg (by simp [hform, hmani, hlen]), if_pos (by simp [h])]

theorem cplVerify_good (hsig : Config.signatureOk im = true) (hsec : n ≤ Sg.secVer im) (habi : Sg.lo im % 256 = 1 ∨ Sg.lo im % 256 = 2)
    (hstep : Sg.stepping im = true) : cplVerify im n = 0 := by
  unfold cplVerify
  rw [if_neg (by simp [hform, hmani, hlen]), if_neg (by simp [hsig]), if_neg (Nat.not_lt.mpr hsec), if_neg (by omega), if_neg (by simp [hstep])]

end

section
variable {s : State} {j : Nat} (hunload : bit (field (s.job j).args 21 1) 0 = true) (b : Bytes) (o : Option Bool)
include hunload

theorem State.cplLoad_unloaded (h : s.findCpl (field (s.job j).args 22 1) = none) : s.cplLoad j b .ok o = s.finish j St.state :=
  (if_pos hunload).trans (if_pos (by rw [h]; rfl))

theorem State.cplLoad_unload (h : (s.findCpl (field (s.job j).args 22 1)).isSome = true) :
    s.cplLoad j b .ok o =
      State.start { s with rgl := { s.rgl with unloads := s.rgl.unloads ++ [(j, field (s.job j).args 22 1)] } } j :=
  (if_pos hunload).trans (if_neg (by
    rw [Option.isNone_iff_eq_none]
    rintro hnone
    rw [hnone] at h
    cases h))

end

/-! ### INIT that does not return (R337) -/

section
variable {s : State} {j : Nat} {l : CplLoad} (hload : s.rgl.loading = [l]) (hjob : l.job = some j) (hinit : l.initDone = false)
include hload hjob hinit

theorem State.initTimeout_eq :
    s.initTimeout j = if s.now < l.startedAt + 10 * Clk.ms then s
      else State.finish { s with rgl := { s.rgl with loading := [] } } j St.timeout 6 l.cpl.version := by
  have found : ([l].find? fun l => l.job == some j && !l.initDone) = some l := List.find?_cons_of_pos (by simp [hjob, hinit])
  have others : [l].filter (fun m => m.job != some j) = [] := by simp [hjob]
  unfold State.initTimeout
  rw [hload, found, others]

end

/-! ### A complication that stops (R337) -/

theorem State.cplStop_spec (s : State) (g k : Nat) :
    ((s.cplStop g k).cpl g k).stopped = true ∧ ((s.cplStop g k).cpl g k).entry = 0 ∧ ((s.cplStop g k).cpl g k).timers = [] ∧
    (∀ n, n ≠ k → (s.cplStop g k).cpl g n = s.cpl g n) ∧ ∀ h, h ≠ g → (s.cplStop g k).rgl_ h = s.rgl_ h := by
  let c : Cpl := { s.cpl g k with stopped := true, entry := 0, frameWaits := false, msgWaits := 0, timers := [] }
  have regulator : ∀ h, (s.cplStop g k).rgl_ h = (s.setCpl g k c).rgl_ h := fun h => State.regulator_of_rgl (State.event_rgl ..) h
  have slot (n : Nat) : (s.cplStop g k).cpl g n = (s.setCpl g k c).cpl g n := congrArg (fun x : Regulator => Tab.get ({} : Cpl) x.cpls n) (regulator g)
  have stopped : (s.cplStop g k).cpl g k = c := (slot k).trans (State.cpl_setCpl ..)
  rw [stopped]
  refine ⟨rfl, rfl, rfl, fun n hne => (slot n).trans ?_, fun h hne => (regulator h).trans (State.regl_setCpl_other _ _ _ hne)⟩
  unfold State.cpl
  rw [State.regl_setCpl]
  exact Tab.get_set_other _ _ _ (Ne.symm hne)

section
variable {s : State} {g k : Nat} (hruns : s.cplRuns g k = true)
include hruns

theorem State.overrun_access : s.overrun g k true = s.cplStop g k := (if_neg (by simp [hruns])).trans (if_pos rfl)

theorem State.overrun_late (hentry : (s.cpl g k).entry = 2) (hfirst : (s.cpl g k).overran = false)
    (hlate : (s.cpl g k).entryAt + Mani.frameUs (s.cpl g k).image * Clk.us < s.now) :
    s.overrun g k false = if 2 ≤ (s.cpl g k).overruns then s.cplStop g k
      else s.setCpl g k { s.cpl g k with overran := true, overruns := (s.cpl g k).overruns + 1 } := by
  unfold State.overrun
  dsimp only
  rw [if_neg (by simp [hruns]), if_neg (by simp), if_neg (by simp [hentry, hfirst, hlate])]
  exact if_congr (by omega) rfl rfl

theorem State.overrun_inTime (htime : s.now ≤ (s.cpl g k).entryAt + Mani.frameUs (s.cpl g k).image * Clk.us) : s.overrun g k false = s := by
  unfold State.overrun
  dsimp only
  rw [if_neg (by simp [hruns]), if_neg (by simp), if_pos (.inr (.inr htime))]

end

/-- A timer that has expired at the head of the list goes, and its MESSAGE entry comes. -/
theorem State.timerDone_head {s : State} {g k u : Nat} {us : List Nat} (hruns : s.rglRuns g = true) (hstopped : (s.cpl g k).stopped = false)
    (htimers : (s.cpl g k).timers = u :: us) (hdue : u ≤ s.now) :
    s.timerDone g k = s.setCpl g k (Cpl.messageEntry { s.cpl g k with timers := us } s.now) := by
  have found : (u :: us).find? (fun t => decide (t ≤ s.now)) = some u := List.find?_cons_of_pos (by simp [hdue])
  unfold State.timerDone
  dsimp only
  rw [htimers, found]
  dsimp only
  rw [if_neg (by simp [hruns, hstopped]), List.erase_cons_head]

/-- Settles O45: a load by what the check and the placement say, a stop and a timer by the entry that the complication is in. -/
theorem complicationsLoadStopAndTimers : Obligations.ComplicationsLoadStopAndTimers := by
  unfold Obligations.ComplicationsLoadStopAndTimers
  refine ⟨fun s j hc => ⟨fun hstart => ?_, fun l hload hjob hinit => ?_⟩, ?_⟩
  · have runs {b : Bytes} {r : ReadEnd} {o : Option Bool} {t : State} {P : State → Prop} (ht : s.cplLoad j b r o = t) (hP : P t) :
        Runs (.complicationLoad j b r o) s P :=
      Runs.of_run (f := fun s => if s.canStart j 0x50 then s.cplLoad j b r o else s) rfl hc ((if_pos hstart).trans ht) hP
    refine ⟨fun hunload b o => ⟨fun hnone => runs (State.cplLoad_unloaded hunload b o hnone) rfl, fun hsome => ?_⟩,
      fun hload hhost hrange im h hlen hh => ?_⟩
    · refine runs (State.cplLoad_unload hunload b o hsome) ⟨rfl, ?_, rfl⟩
      rw [State.job_start]
    · subst hh
      have loads : LoadsFromHost s j im := ⟨hload, hhost, hrange, hlen⟩
      refine ⟨fun o => runs (State.cplLoad_error loads o) rfl, fun hsg hform hpay hmani o => ?_, fun hbad o => ?_⟩
      · have verdict : (if im.length = Sg.length im then cplVerify im s.fuseSec else 1) = cplVerify im s.fuseSec := if_pos hsg
        cases hsig : Config.signatureOk im with
        | false =>
          exact runs (State.cplLoad_refused loads (verdict.trans (cplVerify_unsigned hform hpay hmani hsig)) (by decide) o)
            ⟨fun _ => rfl, fun h => by cases h⟩
        | true =>
          by_cases hgood : s.fuseSec ≤ Sg.secVer im ∧ (Sg.lo im % 256 = 1 ∨ Sg.lo im % 256 = 2) ∧ Sg.stepping im = true
          · obtain ⟨hsec, habi, hstep⟩ := hgood
            have passes := verdict.trans (cplVerify_good hform hpay hmani hsig hsec habi hstep)
            cases hplace : (s.imageAsked j im).placeFor (field (s.job j).args 20 1) im with
            | none =>
              refine runs (State.cplLoad_noRoom loads passes o hplace) ⟨(by cases ·), fun _ _ _ _ => ⟨fun _ => rfl, fun g hg => ?_⟩⟩
              cases hplace.symm.trans hg
            | some g =>
              refine runs (State.cplLoad_room loads passes o hplace) ⟨(by cases ·), fun _ _ _ _ => ⟨fun hnone => ?_, fun g' hg => ?_⟩⟩
              · cases hplace.symm.trans hnone
              · obtain rfl : g = g' := Option.some.inj (hplace.symm.trans hg)
                refine ⟨fun ho => if_pos ho, fun ho => ?_⟩
                rw [if_neg ho]
                refine ⟨?_, rfl, rfl⟩
                unfold State.cplPlaced
                rw [State.job_start]
          · exact ⟨_, State.run_of_clocked hc _, (by cases ·), fun _ hsec habi hstep => absurd ⟨hsec, habi, hstep⟩ hgood⟩
      · refine runs (State.cplLoad_refused (r := 1) loads ?_ (by decide) o) rfl
        rcases hbad with h | h
        · exact if_neg h
        · rw [cplVerify_format h]
          exact ite_self _
  · have timeout := State.initTimeout_eq hload hjob hinit
    exact ⟨fun hearly => Runs.of_run (f := fun s => s.initTimeout j) rfl hc (timeout.trans (if_pos hearly)) rfl,
      fun hlate => Runs.of_run (f := fun s => s.initTimeout j) rfl hc (timeout.trans (if_neg (Nat.not_lt.mpr hlate))) rfl⟩
  · rintro s g k c hc hrgl rfl hstopped
    refine ⟨fun hhas hentry => ?_, fun u us htimers hdue => ⟨fun hidle => ?_, fun hbusy => ?_⟩, fun hnone => ?_⟩
    · have hruns : s.cplRuns g k = true := by simp [State.cplRuns, hrgl, hhas, hstopped, hentry]
      have stops := s.cplStop_spec g k
      obtain ⟨stopped, entry, -, slots, -⟩ := stops
      refine ⟨Runs.of_run (f := fun s => s.overrun g k true) rfl hc (State.overrun_access hruns) (s.cplStop_spec g k),
        fun hframe hfirst hlate => ⟨fun hfew => ?_, fun hthird => ?_⟩, fun htime => ?_⟩
      · exact Runs.of_run (f := fun s => s.overrun g k false) rfl hc
          ((State.overrun_late hruns hframe hfirst hlate).trans (if_neg (Nat.not_le.mpr hfew))) rfl
      · exact Runs.of_run (f := fun s => s.overrun g k false) rfl hc
          ((State.overrun_late hruns hframe hfirst hlate).trans (if_pos hthird)) ⟨stopped, entry, slots⟩
      · exact Runs.of_run (f := fun s => s.overrun g k false) rfl hc (State.overrun_inTime hruns htime) rfl
    · refine Runs.of_run (f := fun s => s.timerDone g k) rfl hc (State.timerDone_head hrgl hstopped htimers hdue) (congrArg (s.setCpl g k) ?_)
      unfold Cpl.messageEntry
      rw [if_neg (by simp [hstopped]), if_pos hidle]
    · refine Runs.of_run (f := fun s => s.timerDone g k) rfl hc (State.timerDone_head hrgl hstopped htimers hdue) (congrArg (s.setCpl g k) ?_)
      unfold Cpl.messageEntry
      rw [if_neg (by simp [hstopped]), if_neg hbusy]
    · refine Runs.of_run (f := fun s => s.timerDone g k) rfl hc ?_ rfl
      unfold State.timerDone
      dsimp only
      rw [hnone]
      rfl

end Sys2Proof.Machine
end

section
/-! PROOFS. Scrub, the error log, zeroing and frequency changes of the DRAM (19_memory_and_keeping_store.md R383 to R386, R389 to R391,
R407). -/

namespace Sys2Proof.Machine

/-! ### Scrub (R386) -/

/-- What a scrub does with a line once the ECC has answered `e` (R383, R384). -/
def State.scrubbed (s : State) (line channel : Nat) (e : Ecc) : State :=
  match e with
  | .clean => s
  | .corrected => s.memCorrected channel
  | .uncorrectable => s.memUncorrectable line channel 15 2

theorem State.patrol_found {s : State} {line channel : Nat} (hon : s.fld Reg.MEM_SCRUB_HOURS ≠ 0) (hok : s.dramOk (line * 64) 64 = true)
    {found e : Ecc} (hfound : s.eccFound line found = (e, s)) : s.patrol line channel found = s.scrubbed line channel e := by
  unfold State.patrol
  rw [if_neg (by simp [hon, hok]), hfound]
  cases e <;> rfl

theorem State.eccFound_bad {s : State} {line : Nat} {found e : Ecc} (h : s.eccOf line found = e) (he : e ≠ .clean) :
    s.eccFound line found = (e, s) := by
  unfold State.eccFound
  rw [h]
  cases e with
  | clean => exact absurd rfl he
  | corrected => rfl
  | uncorrectable => rfl

section
variable {s : State} {line : Nat}

theorem State.eccOf_good (hgood : s.mem.poison.contains line = false) (hzero : s.mem.zeroing = false) (found : Ecc) :
    s.eccOf line found = found :=
  (if_neg (Bool.eq_false_iff.1 hgood)).trans (if_neg (by simp [hzero]))

theorem State.eccOf_uncorrectable (hzero : s.mem.zeroing = false) {e : Ecc} (h : e = .uncorrectable ∨ s.mem.poison.contains line = true) :
    s.eccOf line e = .uncorrectable := by
  by_cases hp : s.mem.poison.contains line = true
  · exact if_pos hp
  · exact (State.eccOf_good (Bool.eq_false_iff.2 hp) hzero e).trans (h.resolve_right hp)

end

/-- What an uncorrectable error leaves in the log: one entry at HEAD, and VALID or LOST one up (R385). -/
theorem State.memUncorrectable_spec (s : State) (line channel port kind : Nat) :
    let t := s.memUncorrectable line channel port kind
    t.latched .memUe = true ∧
    t.mem = { s.mem with log := Tab.set s.mem.log (s.fld Reg.MEM_ERRLOG_CTL_HEAD) ⟨line * 64, channel, port, kind, s.frameCount⟩ } ∧
    t.fld Reg.MEM_ERRLOG_CTL_HEAD = (s.fld Reg.MEM_ERRLOG_CTL_HEAD + 1) % 16 ∧
    (s.fld Reg.MEM_ERRLOG_CTL_VALID < 16 → t.fld Reg.MEM_ERRLOG_CTL_VALID = s.fld Reg.MEM_ERRLOG_CTL_VALID + 1 ∧
      t.fld Reg.MEM_ERRLOG_CTL_LOST = s.fld Reg.MEM_ERRLOG_CTL_LOST) ∧
    (16 ≤ s.fld Reg.MEM_ERRLOG_CTL_VALID → t.fld Reg.MEM_ERRLOG_CTL_VALID = s.fld Reg.MEM_ERRLOG_CTL_VALID ∧
      t.fld Reg.MEM_ERRLOG_CTL_LOST = min 255 (s.fld Reg.MEM_ERRLOG_CTL_LOST + 1)) := by
  intro t
  let u : State := State.setFld { s with mem := { s.mem with
    log := Tab.set s.mem.log (s.fld Reg.MEM_ERRLOG_CTL_HEAD) ⟨line * 64, channel, port, kind, s.frameCount⟩ } }
    Reg.MEM_ERRLOG_CTL_HEAD 0 (s.fld Reg.MEM_ERRLOG_CTL_HEAD + 1)
  have head : u.fld Reg.MEM_ERRLOG_CTL_HEAD = (s.fld Reg.MEM_ERRLOG_CTL_HEAD + 1) % 16 := State.fld_setFld ..
  have valid : u.fld Reg.MEM_ERRLOG_CTL_VALID = s.fld Reg.MEM_ERRLOG_CTL_VALID :=
    State.fld_setFld_other (s := s) _ (by decide) (by decide) (by decide)
  have lost : u.fld Reg.MEM_ERRLOG_CTL_LOST = s.fld Reg.MEM_ERRLOG_CTL_LOST :=
    State.fld_setFld_other (s := s) _ (by decide) (by decide) (by decide)
  have through (f : Fld) (hf : f.id < 1024) (hn : f.id ∉ latchFields) : t.fld f = (s.errLog line channel port kind).fld f :=
    State.fld_latch _ .memUe 0 hf hn
  by_cases h : s.fld Reg.MEM_ERRLOG_CTL_VALID < 16
  · have logged : s.errLog line channel port kind = u.setFld Reg.MEM_ERRLOG_CTL_VALID 0 (s.fld Reg.MEM_ERRLOG_CTL_VALID + 1) := if_pos h
    refine ⟨State.latched_latch _ .memUe 0 (by decide), ?_, ?_, fun _ => ⟨?_, ?_⟩, fun hfull => absurd h (Nat.not_lt.mpr hfull)⟩
    · exact (State.latch_mem ..).trans (congrArg State.mem logged)
    · rw [through _ (by decide) (by decide), logged, State.fld_setFld_other _ _ (by decide) (by decide) (by decide), head]
    · rw [through _ (by decide) (by decide), logged, State.fld_setFld]
      exact Nat.mod_eq_of_lt (by show _ < 32; omega)
    · rw [through _ (by decide) (by decide), logged, State.fld_setFld_other _ _ (by decide) (by decide) (by decide), lost]
  · have logged : s.errLog line channel port kind = u.countSat Reg.MEM_ERRLOG_CTL_LOST := if_neg h
    refine ⟨State.latched_latch _ .memUe 0 (by decide), ?_, ?_, fun hroom => absurd hroom h, fun _ => ⟨?_, ?_⟩⟩
    · exact (State.latch_mem ..).trans (congrArg State.mem logged)
    · rw [through _ (by decide) (by decide), logged]
      exact (State.fld_setFld_other u _ (by decide) (by decide) (by decide)).trans head
    · rw [through _ (by decide) (by decide), logged]
      exact (State.fld_setFld_other u _ (by decide) (by decide) (by decide)).trans valid
    · rw [through _ (by decide) (by decide), logged, State.fld_countSat, lost]
      exact Nat.min_comm ..

/-- A corrected error counts on its channel (R383). -/
theorem State.memCorrected_spec (s : State) (channel : Nat) :
    (s.memCorrected channel).fld Reg.MEM_CE_COUNT channel = (s.fld Reg.MEM_CE_COUNT channel + 1) % 4294967296 ∧
    (s.memCorrected channel).latched .memCe = true ∧ (s.memCorrected channel).mem = s.mem :=
  ⟨(State.fld_latch _ .memCe 0 (by decide) (by decide)).trans (State.fld_setFld ..), State.latched_latch _ .memCe 0 (by decide),
    State.latch_mem ..⟩

/-! ### Zeroing (R389) -/

theorem State.zeroStep_eq {s : State} (hzero : s.mem.zeroing = true) (hdone : s.mem.zeroed = []) :
    s.zeroStep = if s.chunks ≤ s.mem.zeroNext + 1 then
        State.setFld { s with mem := { s.mem with zeroing := false, zeroNext := s.mem.zeroNext + 1, zeroed := [] } } Reg.MEM_STATUS_ZEROED 0 1
      else { s with mem := { s.mem with zeroNext := s.mem.zeroNext + 1 } } := by
  have kept : ({ s.mem with zeroNext := s.mem.zeroNext + 1, zeroed := [] } : MemSt) = { s.mem with zeroNext := s.mem.zeroNext + 1 } := by
    rw [← hdone]
  unfold State.zeroStep
  rw [if_neg (by simp [hzero]), hdone]
  dsimp only [List.length_nil, nextChunk, List.filter_nil]
  rw [kept]

/-! ### Frequency changes (R390, R407) -/

theorem bits10_mod (v : Nat) : (if bits v 1 0 = 3 then 0 else bits v 1 0) = bits v 1 0 % 3 := by
  have := bits_lt v 1 0
  split <;> omega

section
variable {s : State} {v : Nat}

/-- The target of a frequency change is stored. -/
def State.targeted (s : State) (v : Nat) : State := s.setFld Reg.MEM_FREQ_CTL_TARGET 0 (bits v 1 0)

theorem State.targeted_busy : (s.targeted v).flag Reg.MEM_STATUS_FREQ_BUSY = s.flag Reg.MEM_STATUS_FREQ_BUSY := by
  unfold State.flag State.targeted
  rw [State.fld_setFld_other _ _ (by decide) (by decide) (by decide)]

theorem State.targeted_freq : (s.targeted v).fld Reg.MEM_STATUS_FREQ = s.fld Reg.MEM_STATUS_FREQ :=
  State.fld_setFld_other _ _ (by decide) (by decide) (by decide)

theorem State.freqCtl_busy (hgo : bit v 2 = true) (hbusy : s.flag Reg.MEM_STATUS_FREQ_BUSY = true) :
    s.freqCtl v = (s.targeted v).latch .memBusy :=
  (if_pos hgo).trans (if_pos (State.targeted_busy.trans hbusy))

theorem State.freqCtl_idle (hgo : bit v 2 = true) (hidle : s.flag Reg.MEM_STATUS_FREQ_BUSY = false) :
    s.freqCtl v = if bits v 1 0 % 3 = s.fld Reg.MEM_STATUS_FREQ then s.targeted v
      else State.setFld { s.targeted v with mem := { s.mem with freqTarget := bits v 1 0 % 3 } } Reg.MEM_STATUS_FREQ_BUSY 0 1 := by
  refine (if_pos hgo).trans ?_
  unfold State.freqRequest
  rw [bits10_mod, show (s.setFld Reg.MEM_FREQ_CTL_TARGET 0 (bits v 1 0)) = s.targeted v from rfl, State.targeted_freq,
    if_neg (by rw [State.targeted_busy, hidle]; decide)]
  rfl

end

theorem Tab.get_foldl_set_range {α : Type} (d : α) (g : Nat → α) (n : Nat) (t : Tab α) {w : Nat} (hw : w < n) :
    Tab.get d ((List.range n).foldl (fun m k => Tab.set m k (g k)) t) w = g w := by
  induction n with
  | zero => exact absurd hw (Nat.not_lt_zero w)
  | succ n ih =>
    rw [List.range_succ, List.foldl_append]
    by_cases h : w = n
    · rw [h]
      exact Tab.get_set_same ..
    · exact (Tab.get_set_other _ _ _ (Ne.symm h)).trans (ih (by omega))

/-- The timing set of the target. -/
def State.targetTimings (s : State) : Tab Nat :=
  (List.range 8).foldl (fun m w => Tab.set m w (s.fld Reg.MEM_TIM_VALUE (8 * s.mem.freqTarget + w))) s.mem.tim

/-- The state once a frequency change has ended. -/
def State.freqEnded (s : State) : State :=
  (State.setFld { s with mem := { s.mem with tim := s.targetTimings } } Reg.MEM_STATUS_FREQ 0 s.mem.freqTarget).setFld
    Reg.MEM_STATUS_FREQ_BUSY 0 0

theorem State.freqEnded_idle (s : State) : s.freqEnded.flag Reg.MEM_STATUS_FREQ_BUSY = false := by
  unfold State.flag State.freqEnded
  rw [State.fld_setFld]
  rfl

section
variable {s : State} (hheld : s.mem.heldReq = [])
include hheld

theorem State.noHeldReq : ({ s with mem := { s.mem with heldReq := [] } } : State) = s := by
  rw [← hheld]

theorem State.memFreqDone_of_waiting (h : s.flag Reg.MEM_STATUS_FREQ_BUSY = false ∨ s.groupMoving = true) : s.memFreqDone = s := by
  have waits : s.freqDone = s := if_pos (by rcases h with h | h <;> simp [h])
  unfold State.memFreqDone
  dsimp only
  rw [waits]
  split
  · rfl
  · rw [hheld]
    exact State.noHeldReq hheld

theorem State.memFreqDone_ends (hbusy : s.flag Reg.MEM_STATUS_FREQ_BUSY = true) (hstill : s.groupMoving = false) :
    s.memFreqDone = s.freqEnded := by
  have ends : s.freqDone = s.freqEnded := if_neg (by simp [hbusy, hstill])
  have none : s.freqEnded.mem.heldReq = [] := hheld
  unfold State.memFreqDone
  dsimp only
  rw [ends, State.freqEnded_idle, if_neg (by decide), none]
  exact State.noHeldReq none

end

/-- Settles O51: a scrub by what the line holds, zeroing by what is left, a frequency change by its target. -/
theorem dramErrorsZeroingAndFrequency : Obligations.DramErrorsZeroingAndFrequency := by
  unfold Obligations.DramErrorsZeroingAndFrequency
  refine ⟨fun s line channel hc hinj => ⟨fun hoff e => ?_, fun hon hok hzero => ⟨fun hgood => ⟨?_, fun _ => ?_⟩, fun e he => ?_⟩, fun hopen => ?_⟩,
    fun s hc => ⟨fun hnot => ?_, fun hzero hdone => ⟨fun hlast => ?_, fun hmore => ?_⟩, fun v hopen hrsv hgo => ⟨fun hbusy => ?_,
      fun hidle => ⟨fun hsame => ?_, fun hother => ?_⟩⟩, fun v hopen hrsv hgo => ?_, fun hheld hidle => ?_,
      fun hheld hbusy => ⟨fun hstill htarget => ?_, fun hmoving => ?_⟩, fun f w v hf hw hopen hrsv => ⟨fun hsame => ?_, fun hother => ?_⟩⟩⟩
  · exact Runs.of_run (f := fun s => s.patrol line channel e) rfl hc (if_pos (.inl hoff)) rfl
  · exact Runs.of_run (f := fun s => s.patrol line channel .clean) rfl hc
      (State.patrol_found hon hok (State.eccFound_clean hinj (State.eccOf_good hgood hzero _))) rfl
  · exact Runs.of_run (f := fun s => s.patrol line channel .corrected) rfl hc
      (State.patrol_found hon hok (State.eccFound_bad (State.eccOf_good hgood hzero _) (by decide))) (s.memCorrected_spec channel)
  · exact Runs.of_run (f := fun s => s.patrol line channel e) rfl hc
      (State.patrol_found hon hok (State.eccFound_bad (State.eccOf_uncorrectable hzero he) (by decide))) (s.memUncorrectable_spec line channel 15 2)
  · refine Runs.of_regCmd rfl hc (by decide) hopen rfl (f := State.errlogClear) rfl ?_
    unfold State.errlogClear
    simp (disch := decide) only [State.fld_setFld_other, State.fld_setFld]
    exact ⟨rfl, rfl, rfl, rfl⟩
  · exact Runs.of_run (f := State.zeroStep) rfl hc (if_pos (by simp [hnot])) rfl
  · exact Runs.of_run (f := State.zeroStep) rfl hc ((State.zeroStep_eq hzero hdone).trans (if_pos hlast)) ⟨rfl, State.fld_setFld .., rfl, rfl⟩
  · exact Runs.of_run (f := State.zeroStep) rfl hc ((State.zeroStep_eq hzero hdone).trans (if_neg (Nat.not_le.mpr hmore))) rfl
  · refine Runs.of_regCmd rfl hc (by decide) hopen hrsv (State.freqCtl_busy hgo hbusy)
      ⟨State.latched_latch _ .memBusy 0 (by decide), State.latch_mem .., ?_⟩
    rw [State.fld_latch _ _ _ (by decide) (by decide)]
    exact (State.fld_setFld s Reg.MEM_FREQ_CTL_TARGET 0 (bits v.toNat 1 0)).trans (Nat.mod_eq_of_lt (bits_lt ..))
  · exact Runs.of_regCmd rfl hc (by decide) hopen hrsv ((State.freqCtl_idle hgo hidle).trans (if_pos hsame)) rfl
  · refine Runs.of_regCmd rfl hc (by decide) hopen hrsv ((State.freqCtl_idle hgo hidle).trans (if_neg hother)) ⟨?_, rfl, ?_, rfl⟩
    · unfold State.flag
      rw [State.fld_setFld]
      rfl
    · rw [State.fld_setFld_other _ _ (by decide) (by decide) (by decide)]
      exact State.targeted_freq (s := s)
  · exact Runs.of_regCmd rfl hc (by decide) hopen hrsv (if_neg (by simp [hgo])) rfl
  · exact Runs.of_run (f := State.memFreqDone) rfl hc (State.memFreqDone_of_waiting hheld (.inl hidle)) rfl
  · refine Runs.of_run (f := State.memFreqDone) rfl hc (State.memFreqDone_ends hheld hbusy hstill)
      ⟨?_, State.freqEnded_idle s, fun w hw => ?_, rfl⟩
    · unfold State.freqEnded
      rw [State.fld_setFld_other _ _ (by decide) (by decide) (by decide), State.fld_setFld]
      exact Nat.mod_eq_of_lt (by show _ < 4; omega)
    · exact Tab.get_foldl_set_range 0 (fun w => s.fld Reg.MEM_TIM_VALUE (8 * s.mem.freqTarget + w)) 8 s.mem.tim hw
  · exact Runs.of_run (f := State.memFreqDone) rfl hc (State.memFreqDone_of_waiting hheld (.inr hmoving)) rfl
  · exact Runs.of_regCmd rfl hc (by decide) hopen hrsv ((if_neg (by omega)).trans (if_pos hsame))
      ⟨rfl, State.latched_latch _ .memBusy 0 (by decide)⟩
  · refine Runs.of_regCmd rfl hc (by decide) hopen hrsv ((if_neg (by omega)).trans (if_neg hother)) ?_
    unfold State.setFld
    rw [show (2 : Nat) ^ Reg.MEM_TIM_VALUE.width = 65536 from rfl, Nat.mod_mod]

end Sys2Proof.Machine
end

section
/-! PROOFS. Keeping store transfers (19_memory_and_keeping_store.md R393, R397, R398). -/

namespace Sys2Proof.Machine

/-! ### The transfer under way outlasts a latch -/

theorem KstSt.xfer_shut (k : KstSt) (off : Nat) : (k.shut off).xfer = k.xfer := by
  unfold KstSt.shut
  split
  · split <;> rfl
  · rfl

theorem State.xfer_logFault (s : State) (src : Src) (i c : Nat) : (s.logFault src i c).kst.xfer = s.kst.xfer := by
  unfold State.logFault
  dsimp only
  split
  · rw [State.latchCore_kst, State.latchCore_kst]
    exact KstSt.xfer_shut ..
  · split
    · rw [State.latchCore_kst]
      rfl
    · rfl

theorem State.xfer_latch (s : State) (src : Src) (i : Nat) : (s.latch src i).kst.xfer = s.kst.xfer := by
  unfold State.latch
  dsimp only
  split <;> split
  · exact (State.xfer_logFault ..).trans (congrArg KstSt.xfer ((State.collectorCheck_kst _).trans (State.latchCore_kst ..)))
  · exact congrArg KstSt.xfer ((State.collectorCheck_kst _).trans (State.latchCore_kst ..))
  · exact (State.xfer_logFault ..).trans (congrArg KstSt.xfer (State.latchCore_kst ..))
  · exact congrArg KstSt.xfer (State.latchCore_kst ..)

/-! ### The checks before a transfer (R393, R398) -/

/-- A KST_XFER that has ended with `r`. -/
theorem State.xferEnd_spec (s : State) {r : Nat} (hr : r < 16) :
    (s.xferEnd r).fld Reg.KST_XFER_CTL_RESULT = r ∧ (s.xferEnd r).flag Reg.KST_XFER_CTL_BUSY = false ∧
      (s.xferEnd r).kst = { s.kst with xfer := none } := by
  refine ⟨(State.fld_setFld ..).trans (Nat.mod_eq_of_lt hr), ?_, rfl⟩
  unfold State.flag State.xferEnd
  rw [State.fld_setFld_other _ _ (by decide) (by decide) (by decide), State.fld_setFld]
  rfl

/-- A KST_XFER that has ended with `r` and latched. -/
theorem State.xferEnd_latch_spec (s : State) {r : Nat} (hr : r < 16) (src : Src) (i : Nat) :
    ((s.xferEnd r).latch src i).fld Reg.KST_XFER_CTL_RESULT = r ∧ ((s.xferEnd r).latch src i).flag Reg.KST_XFER_CTL_BUSY = false ∧
      ((s.xferEnd r).latch src i).kst.xfer = none := by
  obtain ⟨result, idle, kst⟩ := s.xferEnd_spec hr
  refine ⟨?_, ?_, ?_⟩
  · rw [State.fld_latch _ _ _ (by decide) (by decide), result]
  · unfold State.flag at idle ⊢
    rwa [State.fld_latch _ _ _ (by decide) (by decide)]
  · rw [State.xfer_latch, kst]

section
variable {s : State} {v : Nat}

/-- The direction of the transfer is stored. -/
def State.xferAsked (s : State) (v : Nat) : State := s.setFld Reg.KST_XFER_CTL_WRITE 0 (bits v 1 1)

theorem State.fld_xferAsked {f : Fld} (hf : Reg.KST_XFER_CTL_WRITE.id ≠ f.id) (hl : f.id < 1024) (i : Nat) :
    (s.xferAsked v).fld f i = s.fld f i := State.fld_setFld_other _ _ hf (by decide) hl

theorem State.xferAsked_busy : (s.xferAsked v).flag Reg.KST_XFER_CTL_BUSY = s.flag Reg.KST_XFER_CTL_BUSY := by
  unfold State.flag
  rw [State.fld_xferAsked (by decide) (by decide)]

theorem State.xferCtl_busy (hgo : bit v 0 = true) (hbusy : s.flag Reg.KST_XFER_CTL_BUSY = true) :
    s.xferCtl v = (s.xferAsked v).latch .kstAccess :=
  (if_neg (by simp [hgo])).trans (if_pos (State.xferAsked_busy.trans hbusy))

variable {off dst n : Nat} (hoff : off = s.fld Reg.KST_XFER_OFF * 64) (hn : n = s.fld Reg.KST_XFER_LEN)
  (hdst : dst = addr64 (s.fld Reg.KST_XFER_DST_LO_ADDR * 64) (s.fld Reg.KST_XFER_DST_HI)) (hgo : bit v 0 = true)
  (hidle : s.flag Reg.KST_XFER_CTL_BUSY = false)
include hoff hn hdst hgo hidle

theorem State.xferCtl_go :
    s.xferCtl v = if bit v 1 ∧ kstRegion off ≠ some 7 then ((s.xferAsked v).xferEnd 1).latch .kstAccess
      else if kstRegion off = none ∨ (n ≠ 0 ∧ kstRegion (off + 64 * n - 1) ≠ kstRegion off) ∨ s.usable < dst + 64 * n then
        (s.xferAsked v).xferEnd 2
      else State.setFld { s.xferAsked v with kst := { s.kst with xfer := some ⟨bit v 1, off, dst, n⟩ } } Reg.KST_XFER_CTL_BUSY 0 1 := by
  have usable : (s.xferAsked v).usable = s.usable := by
    unfold State.usable
    rw [State.fld_xferAsked (by decide) (by decide)]
  subst hoff hn hdst
  refine (if_neg (by simp [hgo])).trans ((if_neg ?_).trans ?_)
  · exact Bool.eq_false_iff.1 (State.xferAsked_busy.trans hidle)
  · rw [show s.setFld Reg.KST_XFER_CTL_WRITE 0 (bits v 1 1) = s.xferAsked v from rfl]
    dsimp only
    rw [usable, State.fld_xferAsked (by decide) (by decide), State.fld_xferAsked (by decide) (by decide), State.fld_xferAsked (by decide) (by decide),
      State.fld_xferAsked (by decide) (by decide)]
    rfl

end

/-! ### A transfer of one line (R398) -/

section
variable {s : State} (hinj : s.fld Reg.PG_ERR_INJECT_COUNT (pageOf Blk.kst 0) = 0) {off dst : Nat}
include hinj

theorem State.eccCheck_kst_clean : s.eccCheck .kstEcc .kstUe = (.clean, s) := by
  unfold State.eccCheck
  rw [State.takeInject_eq_none (src := .kstEcc) hinj, State.takeInject_eq_none (src := .kstUe) hinj]

theorem State.xferRead_line {line : Bytes} (hread : s.kstRead off 64 = some line) :
    s.xferRead off dst 1 = (s.devWrite dst line).xferEnd 0 := by
  unfold State.xferRead
  rw [hread, State.eccCheck_kst_clean hinj]
  rfl

theorem State.xferRead_bad (hread : s.kstRead off 64 = none) : s.xferRead off dst 1 = (s.xferEnd 3).latch .kstUe := by
  unfold State.xferRead
  rw [hread, State.eccCheck_kst_clean hinj]

end

theorem length_dramBytes (s : State) (a n : Nat) : (s.dramBytes a n).length = n := by
  have read (m : Mem) : ∀ (n a : Nat), (m.readBytes a n).length = n := by
    intro n
    induction n with
    | zero => exact fun _ => rfl
    | succ n ih => exact fun a => congrArg Nat.succ (ih (a + 1))
  unfold State.dramBytes
  split
  · exact read ..
  · simp

section
variable {s t : State} {off dst : Nat} {line : Bytes} (hxfer : s.kst.xfer = some ⟨true, off, dst, 1⟩)
  (hread : s.engineRead dst 64 15 = (some line, t))
include hxfer hread

/-- The bytes of a line read without an error go to the keeping store, where its endurance allows it. -/
theorem State.xferDone_stored {u : State} (hstored : t.kstWrite off line = some u) : s.xferDone = u.xferEnd 0 := by
  unfold State.xferDone
  rw [hxfer]
  show s.xferWrite off dst 1 = _
  unfold State.xferWrite
  rw [hread]
  dsimp only
  rw [hstored]
  rfl

theorem State.xferDone_worn (hworn : t.kstWrite off line = none) : s.xferDone = (t.xferEnd 4).wearOut off := by
  unfold State.xferDone
  rw [hxfer]
  show s.xferWrite off dst 1 = _
  unfold State.xferWrite
  rw [hread]
  dsimp only
  rw [hworn]

end

/-- A register write of the keeping store's page leaves the bytes of the DRAM. -/
theorem State.dramByte_xferEnd (s : State) (r a : Nat) : (s.xferEnd r).dramByte a = s.dramByte a := by
  have base : (s.xferEnd r).fld Reg.BPM_DPOOL_BASE = s.fld Reg.BPM_DPOOL_BASE := by
    unfold State.xferEnd
    simp (disch := decide) only [State.fld_setFld_other]
    exact State.fld_congr rfl rfl ..
  exact State.dramByte_of_base base rfl rfl a

/-- Settles O52: a write of KST_XFER_CTL by its checks, a transfer of one line by its read and its write. -/
theorem keepingStoreTransfers : Obligations.KeepingStoreTransfers := by
  unfold Obligations.KeepingStoreTransfers
  intro s hc hkst hmem
  refine ⟨fun v off dst n hoff hn hdst hopen hrsv => ⟨fun hgo => ?_, fun hgo hbusy => ?_, fun hgo hidle => ⟨fun hwrite hregion => ?_,
    fun hlegal hlen => ⟨fun hrange => ?_, fun hregion hend hroom => ?_⟩⟩⟩, fun off dst => ⟨fun hxfer hhdm hwf => ⟨fun line hread => ?_,
      fun hread => ?_⟩, fun hxfer hok hbias hpoison => ?_⟩⟩
  · exact Runs.of_regCmd rfl hc (by decide) hopen hrsv (if_pos (by simp [hgo])) rfl
  · exact Runs.of_regCmd rfl hc (by decide) hopen hrsv (State.xferCtl_busy hgo hbusy)
      ⟨State.latched_latch _ .kstAccess 0 (by decide), State.xfer_latch .., State.latch_mem ..⟩
  · obtain ⟨result, idle, xfer⟩ := (s.xferAsked v.toNat).xferEnd_latch_spec (r := 1) (by decide) .kstAccess 0
    exact Runs.of_regCmd rfl hc (by decide) hopen hrsv ((State.xferCtl_go hoff hn hdst hgo hidle).trans (if_pos ⟨hwrite, hregion⟩))
      ⟨result, idle, State.latched_latch _ .kstAccess 0 (by decide), xfer⟩
  · refine Runs.of_regCmd rfl hc (by decide) hopen hrsv ((State.xferCtl_go hoff hn hdst hgo hidle).trans ((if_neg ?_).trans (if_pos ?_)))
      ((s.xferAsked v.toNat).xferEnd_spec (by decide))
    · rintro ⟨hwrite, hregion⟩
      exact hlegal.elim (fun h => by simp [h] at hwrite) hregion
    · exact hrange.imp id (Or.imp (fun h => ⟨by omega, h⟩) id)
  · refine Runs.of_regCmd rfl hc (by decide) hopen hrsv ((State.xferCtl_go hoff hn hdst hgo hidle).trans ((if_neg ?_).trans (if_neg ?_)))
      ⟨?_, rfl, rfl⟩
    · rintro ⟨hwrite, hregion⟩
      exact hlegal.elim (fun h => by simp [h] at hwrite) hregion
    · rintro (hnone | ⟨-, hout⟩ | hbeyond)
      · simp [hnone] at hregion
      · exact hout hend
      · omega
    · unfold State.flag
      rw [State.fld_setFld]
      rfl
  · obtain ⟨result, idle, kst⟩ := (s.devWrite dst line).xferEnd_spec (r := 0) (by decide)
    have plain : s.devWrite dst line = s.dramPut dst line := by
      unfold State.devWrite
      rw [hhdm]
      rfl
    have done : s.xferDone = (s.devWrite dst line).xferEnd 0 := by
      unfold State.xferDone
      rw [hxfer]
      exact State.xferRead_line hkst hread
    obtain ⟨inside, outside⟩ := stored_dramPut hwf dst line
    refine Runs.of_run (f := State.xferDone) rfl hc done ⟨result, idle, kst.trans ?_, fun i hi => ?_, fun x hx => ?_⟩
    · rw [plain, State.dramPut_kst]
    · rw [State.dramByte_xferEnd, plain, inside i hi]
    · rw [State.dramByte_xferEnd, plain, outside x hx]
  · obtain ⟨result, idle, -⟩ := s.xferEnd_latch_spec (r := 3) (by decide) .kstUe 0
    have done : s.xferDone = (s.xferEnd 3).latch .kstUe := by
      unfold State.xferDone
      rw [hxfer]
      exact State.xferRead_bad hkst hread
    exact Runs.of_run (f := State.xferDone) rfl hc done ⟨result, idle, State.latched_latch _ .kstUe 0 (by decide), State.latch_mem ..⟩
  · obtain ⟨t, hread, accepted⟩ := State.engineRead_clean hmem (by decide) hok hpoison hbias 15
    have kept : t.kst = s.kst := accepted.outside ▸ rfl
    have length : (s.dramBytes dst 64).length = 64 := length_dramBytes ..
    refine ⟨fun hworn hwarns => ?_, fun hworn => ?_⟩
    · have stored : t.kstWrite off (s.dramBytes dst 64) = some { t with kst := t.kst.put off (s.dramBytes dst 64) } :=
        State.kstWrite_within (by rw [kept, length, hworn]) (by rw [kept, length, hwarns])
      obtain ⟨result, idle, kst⟩ := State.xferEnd_spec { t with kst := t.kst.put off (s.dramBytes dst 64) } (r := 0) (by decide)
      refine Runs.of_run (f := State.xferDone) rfl hc (State.xferDone_stored hxfer hread stored) ⟨result, idle, congrArg KstSt.xfer kst, (congrArg KstSt.mem kst).trans ?_, accepted.dram⟩
      rw [← kept]
      rfl
    · have refused : t.kstWrite off (s.dramBytes dst 64) = none := if_pos (by rw [kept, length, hworn])
      let u : State := { t.xferEnd 4 with kst := (t.xferEnd 4).kst.shut off }
      refine Runs.of_run (f := State.xferDone) rfl hc (State.xferDone_worn hxfer hread refused) ⟨?_, ?_, State.latched_latch u .kstWear 0 (by decide), ?_⟩
      · exact (State.fld_latch u .kstWear 0 (by decide) (by decide)).trans (t.xferEnd_spec (r := 4) (by decide)).1
      · have idle := (t.xferEnd_spec (r := 4) (by decide)).2.1
        unfold State.flag at idle ⊢
        rw [← idle]
        exact congrArg (· != 0) (State.fld_latch u .kstWear 0 (by decide) (by decide))
      · exact (State.xfer_latch u .kstWear 0).trans (KstSt.xfer_shut ..)

end Sys2Proof.Machine
end

section
/-! PROOFS. Temperature samples and SMBus reads (20_winding_clocks_power.md R402, R411, R412). -/

namespace Sys2Proof.Machine

/-! ### The hottest sensor (R411) -/

theorem hottest_le (xs : List Int) (i : Nat) {x : Int} (hx : -128 ≤ x) (h : ∀ y ∈ xs, y ≤ x) : (hottest xs i).1 ≤ x := by
  induction xs generalizing i with
  | nil => exact hx
  | cons y ys ih =>
    have rest := ih (i + 1) fun z hz => h z (List.mem_cons_of_mem _ hz)
    unfold hottest
    dsimp only
    split
    · exact h y List.mem_cons_self
    · exact rest

theorem hottest_head {x : Int} {xs : List Int} (hx : -128 ≤ x) (h : ∀ y ∈ xs, y ≤ x) : hottest (x :: xs) 0 = (x, 0) :=
  if_pos (hottest_le xs 1 hx h)

/-! ### What the thresholds leave alone (R412) -/

/-- The thermal registers and every sticky bit set are in `t` as in `s`, each escapement runs what it ran, and its stop requests
stand. -/
structure ThermalKept (s t : State) : Prop where
  variant : t.variant = s.variant
  fld : ∀ (f : Fld) (i : Nat), 620 ≤ f.id → f.id < 628 → t.fld f i = s.fld f i
  stuck : ∀ p b, b < 32 → s.stuck p b → t.stuck p b
  routine : ∀ k i, (t.esc_ k i).routine = (s.esc_ k i).routine
  stop : ∀ k i, (s.esc_ k i).stop = true → (t.esc_ k i).stop = true

theorem latchFields_notThermal : ∀ n ∈ latchFields, n < 620 ∨ 628 ≤ n := by decide

namespace ThermalKept

variable {s t u : State}

theorem trans (h : ThermalKept s t) (k : ThermalKept t u) : ThermalKept s u where
  variant := k.variant.trans h.variant
  fld f i hlo hhi := (k.fld f i hlo hhi).trans (h.fld f i hlo hhi)
  stuck p b hb hs := k.stuck p b hb (h.stuck p b hb hs)
  routine n i := (k.routine n i).trans (h.routine n i)
  stop n i hs := k.stop n i (h.stop n i hs)

theorem of_sameFld (hv : t.variant = s.variant) (hesc : t.esc = s.esc) (hfld : SameFld s t) (hstuck : ∀ p b, b < 32 → s.stuck p b → t.stuck p b) :
    ThermalKept s t where
  variant := hv
  fld f i _ _ := hfld.same f i (by omega) fun h => by have := latchFields_notThermal _ h; omega
  stuck := hstuck
  routine k i := congrArg Escapement.routine (State.esc_of_escSt hesc k i)
  stop k i h := (congrArg Escapement.stop (State.esc_of_escSt hesc k i)).trans h

theorem of_parts (hv : t.variant = s.variant) (hr : t.regs = s.regs) (hesc : t.esc = s.esc) : ThermalKept s t :=
  of_sameFld hv hesc (.of_regs hv hr) fun _ _ _ h => stuck_of_regs hv hr h

theorem refl (s : State) : ThermalKept s s := of_parts rfl rfl rfl

theorem latch (s : State) (src : Src) (i : Nat) : ThermalKept s (s.latch src i) :=
  of_sameFld (State.latch_variant ..) (State.latch_esc ..) (State.latch_sameFld ..) fun _ _ hb hs => State.stuck_latch hs hb src i

theorem pwrEvent (s : State) (code source : Nat) (args : List Nat) : ThermalKept s (s.pwrEvent code source args) :=
  of_sameFld (State.event_variant ..) (State.event_esc ..) ((outlastsLatch_sameFld s).event (.refl s) ..) fun p _ hb hs =>
    (outlastsLatch_stuck p hb).event hs ..

/-- A frequency change that the thresholds ask for. -/
theorem freqRequest (s : State) (target : Nat) : ThermalKept s (s.freqRequest target) := by
  have asked (n : Nat) : ThermalKept s (State.setFld { s with mem := { s.mem with freqTarget := n } } Reg.MEM_STATUS_FREQ_BUSY 0 1) :=
    ⟨rfl, fun f _ hlo _ => State.fld_setFld_other (s := s) _ (fun h => absurd (h ▸ hlo) (by decide)) (by decide) (by omega),
      fun _ _ _ h => stuck_setFld h Reg.MEM_STATUS_FREQ_BUSY 0 1 (by decide) (by decide), fun _ _ => rfl, fun _ _ h => h⟩
  unfold State.freqRequest
  generalize (if target = 3 then 0 else target) = n
  dsimp only
  split
  · exact latch ..
  · split
    · exact refl s
    · exact asked n

theorem memStep (s : State) (target : Nat) : ThermalKept s (if s.flag Reg.PWR_THERM_MEM_STEP then s.freqRequest target else s) := by
  split
  · exact freqRequest ..
  · exact refl s

theorem ite {c : Prop} [Decidable c] (h : ThermalKept s t) : ThermalKept s (if c then t else s) := by
  split
  · exact h
  · exact refl s

theorem escRequest (s : State) (kind i : Nat) : ThermalKept s (s.escRequest kind i true) := by
  have kept := EscKept.escRequest s kind i true
  refine ⟨?_, ?_, kept.stuck, fun k j => (kept.esc k j).routine, fun k j h => ?_⟩
  · unfold State.escRequest
    dsimp only
    split <;> rfl
  · unfold State.escRequest
    dsimp only
    split <;> exact fun _ _ _ _ => rfl
  · unfold State.escRequest
    dsimp only
    split
    · exact h
    · by_cases hkey : escKey kind i = escKey k j
      · have hsame : s.esc_ kind i = s.esc_ k j := congrArg (Tab.get ({} : Escapement) s.esc.units) hkey
        have hnew (x : Escapement) : (s.setEsc kind i x).esc_ k j = x :=
          (congrArg (Tab.get ({} : Escapement) (s.setEsc kind i x).esc.units) hkey.symm).trans (State.esc_setEsc_same s kind i x)
        rw [hnew, hsame, h]
        rfl
      · rw [State.esc_setEsc_other _ _ hkey]
        exact h

theorem foldl {α : Type} {f : State → α → State} (h : ∀ t a, ThermalKept t (f t a)) (l : List α) (s : State) : ThermalKept s (l.foldl f s) :=
  List.foldlRecOn l f (.refl s) fun _ ht a _ => ht.trans (h _ a)

end ThermalKept

/-! ### The thresholds (R412) -/

/-- The two flags of PWR_THROTTLE take their new values. -/
def State.throttled (s : State) (warn hot : Bool) : State := (s.setFld Reg.PWR_THROTTLE_WARN 0 (b2n warn)).setFld Reg.PWR_THROTTLE_HOT 0 (b2n hot)

/-- WARN has been crossed upwards. -/
def State.warnCrossed (s : State) (crossed : Bool) (m : Int) (k : Nat) : State :=
  if crossed then (s.pwrEvent 0x1A01 k [1, s8 m]).latch .pwrWarn else s

/-- HOT has been crossed upwards. -/
def State.hotCrossed (s : State) (crossed : Bool) (m : Int) (k : Nat) : State :=
  if crossed then
    let t := (s.pwrEvent 0x1A01 k [2, s8 m]).latch .pwrHot
    if t.flag Reg.PWR_THERM_MEM_STEP then t.freqRequest 1 else t
  else s

/-- HOT and WARN have been crossed downwards. -/
def State.cooled (s : State) (hotOver warnOver : Bool) (m : Int) (k : Nat) : State :=
  let t :=
    if hotOver then
      let t := s.pwrEvent 0x1A01 k [3, s8 m]
      if t.flag Reg.PWR_THERM_MEM_STEP then t.freqRequest 0 else t
    else s
  if warnOver then t.pwrEvent 0x1A01 k [4, s8 m] else t

theorem State.thermalAct_eq (s : State) (m : Int) (k : Nat) {was wasHot warn hot : Bool} (hwas : s.flag Reg.PWR_THROTTLE_WARN = was)
    (hwasHot : s.flag Reg.PWR_THROTTLE_HOT = wasHot) (hwarn : above was (s.fld Reg.PWR_THERM_WARN) m = warn)
    (hhot : above wasHot (s.fld Reg.PWR_THERM_HOT) m = hot) :
    s.thermalAct m k =
      let t := (((s.throttled warn hot).warnCrossed (warn && !was) m k).hotCrossed (hot && !wasHot) m k).cooled (!hot && wasHot) (!warn && was) m k
      let u := if hot then t.count Reg.PWR_HOT_MS else t
      if 115 ≤ m then u.thermalCrit else u := by
  subst hwas hwasHot hwarn hhot
  simp only [State.thermalAct, State.throttled, State.warnCrossed, State.hotCrossed, State.cooled, Bool.and_eq_true]

theorem thermalKept_warnCrossed (s : State) (c : Bool) (m : Int) (k : Nat) : ThermalKept s (s.warnCrossed c m k) :=
  ((ThermalKept.pwrEvent ..).trans (.latch ..)).ite

theorem thermalKept_hotCrossed (s : State) (c : Bool) (m : Int) (k : Nat) : ThermalKept s (s.hotCrossed c m k) :=
  ((ThermalKept.pwrEvent ..).trans ((ThermalKept.latch ..).trans (.memStep ..))).ite

theorem thermalKept_cooled (s : State) (c d : Bool) (m : Int) (k : Nat) : ThermalKept s (s.cooled c d m k) :=
  ThermalKept.trans ((ThermalKept.pwrEvent ..).trans (.memStep ..)).ite (ThermalKept.pwrEvent ..).ite

/-! ### CRIT (R412) -/

/-- The stop requests of CRIT stand in every core. -/
def State.critStopped (s : State) : State :=
  [1, 2, 3].foldl (fun t kind => (List.range (escCount t.variant kind)).foldl (fun t i => t.escRequest kind i true) t) s

theorem State.stop_escRequest {s : State} {k i : Nat} (h : (s.esc_ k i).routine.isSome = true) : ((s.escRequest k i true).esc_ k i).stop = true := by
  unfold State.escRequest
  dsimp only
  rw [if_neg (by rw [← Option.not_isSome, h]; decide), State.esc_setEsc_same]
  simp

/-- A kind's requests reach every escapement of it that runs. -/
theorem State.stop_escRequests {s : State} {k i n : Nat} (hi : i < n) (h : (s.esc_ k i).routine.isSome = true) :
    (((List.range n).foldl (fun t i => t.escRequest k i true) s).esc_ k i).stop = true :=
  foldl_establishes (I := fun t => (t.esc_ k i).routine.isSome = true) (P := fun t => (t.esc_ k i).stop = true) (List.mem_range.mpr hi) h
    (fun t ht j _ => ((ThermalKept.escRequest t k j).routine k i).symm ▸ ht) (fun _ ht => State.stop_escRequest ht)
    fun t _ hstop j _ => (ThermalKept.escRequest t k j).stop k i hstop

theorem thermalKept_escRequests (s : State) (n kind : Nat) : ThermalKept s ((List.range n).foldl (fun t i => t.escRequest kind i true) s) :=
  ThermalKept.foldl (fun t i => .escRequest t kind i) _ s

theorem thermalKept_critStopped (s : State) : ThermalKept s s.critStopped :=
  ThermalKept.foldl (fun t kind => thermalKept_escRequests t (escCount t.variant kind) kind) _ s

theorem State.stop_critStopped {s : State} {i : Nat} (hi : i < s.variant.decCores) (h : (s.esc_ 1 i).routine.isSome = true) :
    (s.critStopped.esc_ 1 i).stop = true :=
  (ThermalKept.foldl (fun t kind => thermalKept_escRequests t (escCount t.variant kind) kind) [2, 3] _).stop 1 i
    (State.stop_escRequests (k := 1) hi h)

theorem State.thermalCrit_spec (s : State) :
    ThermalKept s s.thermalCrit ∧ s.thermalCrit.latched .pwrCrit = true ∧
      ∀ i, i < s.variant.decCores → (s.esc_ 1 i).routine.isSome = true → (s.thermalCrit.esc_ 1 i).stop = true := by
  let u : State := { s.latch .pwrCrit with pwr := { (s.latch .pwrCrit).pwr with critStop := true } }
  have latched : ThermalKept s u := (ThermalKept.latch s .pwrCrit 0).trans (.of_parts rfl rfl rfl)
  have stops := thermalKept_critStopped u
  refine ⟨latched.trans stops, stops.stuck _ _ (by decide) (stuck_of_regs (s := s.latch .pwrCrit) rfl rfl (State.latched_latch s .pwrCrit 0 (by decide))),
    fun i hi h => ?_⟩
  exact State.stop_critStopped (s := u) (latched.variant.symm ▸ hi) ((latched.routine 1 i).symm ▸ h)

/-! ### A sample -/

/-- PWR_TEMP takes the highest reading and its sensor. -/
def State.tempRead (s : State) (m : Int) (k : Nat) : State := (s.setFld Reg.PWR_TEMP_MAX 0 (s8 m)).setFld Reg.PWR_TEMP_SENSOR 0 k

theorem s8_lt (m : Int) : s8 m < 256 := by
  unfold s8
  omega

theorem exec_thermalSample {s : State} {x : Int} {xs : List Int} (hx : -128 ≤ x) (hlen : xs.length ≤ 11) (h : ∀ y ∈ xs, y ≤ x) :
    exec (.thermalSample (x :: xs)) s =
      .next (if s.pwr.clocksStopped then s.tempRead x 0 else ((s.tempRead x 0).check .pwrSram).thermalAct x 0) := by
  have whole : (x :: xs).take 12 = x :: xs := List.take_of_length_le (by simp; omega)
  have head := hottest_head hx h
  show execThermalSample (x :: xs) s = _
  unfold execThermalSample
  rw [whole, head]
  rfl

theorem above_eq (was : Bool) (limit : Nat) (x : Int) :
    above was limit x = if was then decide ((limit : Int) < x + 3) else decide ((limit : Int) ≤ x) := by
  cases was with
  | false => rfl
  | true => exact decide_eq_decide.mpr (by omega)

theorem State.flag_tempRead (s : State) (m : Int) (k : Nat) {f : Fld} (hf : f.id < 1024) (h : f.id ≠ 623 ∧ f.id ≠ 624) :
    (s.tempRead m k).fld f = s.fld f :=
  (State.fld_setFld_other _ _ (Ne.symm h.2) (by decide) hf).trans (State.fld_setFld_other _ _ (Ne.symm h.1) (by decide) hf)

theorem b2n_ne_zero (b : Bool) : ((b2n b % 2 ^ 1) != 0) = b := by cases b <;> rfl

theorem State.flag_throttled (s : State) (warn hot : Bool) :
    (s.throttled warn hot).flag Reg.PWR_THROTTLE_WARN = warn ∧ (s.throttled warn hot).flag Reg.PWR_THROTTLE_HOT = hot := by
  unfold State.flag State.throttled
  rw [State.fld_setFld_other _ _ (by decide) (by decide) (by decide), State.fld_setFld, State.fld_setFld]
  exact ⟨b2n_ne_zero warn, b2n_ne_zero hot⟩

theorem State.fld_throttled (s : State) (warn hot : Bool) {f : Fld} (hf : f.id < 1024) (h : f.id ≠ 625 ∧ f.id ≠ 626) :
    (s.throttled warn hot).fld f = s.fld f :=
  (State.fld_setFld_other _ _ (Ne.symm h.2) (by decide) hf).trans (State.fld_setFld_other _ _ (Ne.symm h.1) (by decide) hf)

theorem State.latched_warnCrossed (s : State) (m : Int) (k : Nat) : (s.warnCrossed true m k).latched .pwrWarn = true :=
  State.latched_latch _ .pwrWarn 0 (by decide)

theorem State.latched_hotCrossed (s : State) (m : Int) (k : Nat) : (s.hotCrossed true m k).latched .pwrHot = true :=
  (ThermalKept.memStep ((s.pwrEvent 0x1A01 k [2, s8 m]).latch .pwrHot) 1).stuck _ _ (by decide) (State.latched_latch _ .pwrHot 0 (by decide))

/-- What a sample's thresholds do: `warn` and `hot` are the new flags. -/
structure Throttled (s t : State) (m : Int) (warn hot : Bool) : Prop where
  max : t.fld Reg.PWR_TEMP_MAX = s.fld Reg.PWR_TEMP_MAX
  sensor : t.fld Reg.PWR_TEMP_SENSOR = s.fld Reg.PWR_TEMP_SENSOR
  warns : t.flag Reg.PWR_THROTTLE_WARN = warn
  hots : t.flag Reg.PWR_THROTTLE_HOT = hot
  warned : s.flag Reg.PWR_THROTTLE_WARN = false → warn = true → t.latched .pwrWarn = true
  hotted : s.flag Reg.PWR_THROTTLE_HOT = false → hot = true → t.latched .pwrHot = true
  counted : t.fld Reg.PWR_HOT_MS = if hot then (s.fld Reg.PWR_HOT_MS + 1) % 4294967296 else s.fld Reg.PWR_HOT_MS
  crit : 115 ≤ m → t.latched .pwrCrit = true ∧
    ∀ i, i < s.variant.decCores → (s.esc_ 1 i).routine.isSome = true → (t.esc_ 1 i).stop = true

theorem throttled_thermalAct (s : State) (m : Int) (k : Nat) {was wasHot warn hot : Bool} (hwas : s.flag Reg.PWR_THROTTLE_WARN = was)
    (hwasHot : s.flag Reg.PWR_THROTTLE_HOT = wasHot) (hwarn : above was (s.fld Reg.PWR_THERM_WARN) m = warn)
    (hhot : above wasHot (s.fld Reg.PWR_THERM_HOT) m = hot) : Throttled s (s.thermalAct m k) m warn hot := by
  rw [State.thermalAct_eq s m k hwas hwasHot hwarn hhot]
  obtain ⟨flagWarn, flagHot⟩ := s.flag_throttled warn hot
  have keptWarn := thermalKept_warnCrossed (s.throttled warn hot) (warn && !was) m k
  have keptHot := thermalKept_hotCrossed ((s.throttled warn hot).warnCrossed (warn && !was) m k) (hot && !wasHot) m k
  have keptCool := thermalKept_cooled (((s.throttled warn hot).warnCrossed (warn && !was) m k).hotCrossed (hot && !wasHot) m k)
    (!hot && wasHot) (!warn && was) m k
  have warned (hcross : (warn && !was) = true) := (keptHot.trans keptCool).stuck _ _ (by decide)
    (hcross.symm ▸ (s.throttled warn hot).latched_warnCrossed m k : ((s.throttled warn hot).warnCrossed (warn && !was) m k).latched .pwrWarn = true)
  have hotted (hcross : (hot && !wasHot) = true) := keptCool.stuck _ _ (by decide)
    (hcross.symm ▸ State.latched_hotCrossed _ m k :
      (((s.throttled warn hot).warnCrossed (warn && !was) m k).hotCrossed (hot && !wasHot) m k).latched .pwrHot = true)
  have kept := keptWarn.trans (keptHot.trans keptCool)
  revert kept warned hotted
  generalize State.cooled _ _ _ m k = t
  intro warned hotted kept
  dsimp only
  have counted : ∀ f : Fld, 620 ≤ f.id → f.id < 627 → (if hot then t.count Reg.PWR_HOT_MS else t).fld f = t.fld f := by
    intro f hlo hhi
    split
    · exact State.fld_setFld_other _ _ (by show 627 ≠ f.id; omega) (by decide) (by omega)
    · rfl
  have count : (if hot then t.count Reg.PWR_HOT_MS else t).fld Reg.PWR_HOT_MS =
      if hot then (s.fld Reg.PWR_HOT_MS + 1) % 4294967296 else s.fld Reg.PWR_HOT_MS := by
    have before : t.fld Reg.PWR_HOT_MS = s.fld Reg.PWR_HOT_MS :=
      (kept.fld _ _ (by decide) (by decide)).trans (s.fld_throttled warn hot (by decide) (by decide))
    cases hot with
    | true => exact (State.fld_setFld ..).trans (by rw [before]; rfl)
    | false => exact before
  have stuck : ∀ p b, b < 32 → t.stuck p b → (if hot then t.count Reg.PWR_HOT_MS else t).stuck p b := by
    intro p b _ h
    split
    · exact stuck_setFld h _ _ _ (by decide) (by decide)
    · exact h
  have variant : (if hot then t.count Reg.PWR_HOT_MS else t).variant = s.variant := by
    refine Eq.trans ?_ kept.variant
    split <;> rfl
  have routine (i : Nat) : ((if hot then t.count Reg.PWR_HOT_MS else t).esc_ 1 i).routine = (s.esc_ 1 i).routine := by
    refine Eq.trans ?_ (kept.routine 1 i)
    split <;> rfl
  revert counted count stuck variant routine
  generalize (if hot then t.count Reg.PWR_HOT_MS else t) = u
  intro counted count stuck variant routine
  obtain ⟨keptCrit, crit, stops⟩ := u.thermalCrit_spec
  have last : ThermalKept u (if 115 ≤ m then u.thermalCrit else u) := keptCrit.ite
  have through (f : Fld) (hlo : 620 ≤ f.id) (hhi : f.id < 627) :
      (if 115 ≤ m then u.thermalCrit else u).fld f = (s.throttled warn hot).fld f :=
    (last.fld f 0 hlo (by omega)).trans ((counted f hlo hhi).trans (kept.fld f 0 hlo (by omega)))
  exact {
    max := (through _ (by decide) (by decide)).trans (s.fld_throttled warn hot (by decide) (by decide))
    sensor := (through _ (by decide) (by decide)).trans (s.fld_throttled warn hot (by decide) (by decide))
    warns := (congrArg (· != 0) (through Reg.PWR_THROTTLE_WARN (by decide) (by decide))).trans flagWarn
    hots := (congrArg (· != 0) (through Reg.PWR_THROTTLE_HOT (by decide) (by decide))).trans flagHot
    warned := fun hoff hon => last.stuck _ _ (by decide) (stuck _ _ (by decide) (warned (by rw [hon, ← hwas, hoff]; rfl)))
    hotted := fun hoff hon => last.stuck _ _ (by decide) (stuck _ _ (by decide) (hotted (by rw [hon, ← hwasHot, hoff]; rfl)))
    counted := (last.fld _ _ (by decide) (by decide)).trans count
    crit := fun hm => by
      rw [if_pos hm]
      exact ⟨crit, fun i hi h => stops i (variant.symm ▸ hi) ((routine i).symm ▸ h)⟩ }

theorem State.tempRead_spec (s : State) (m : Int) :
    (s.tempRead m 0).fld Reg.PWR_TEMP_MAX = (m % 256).toNat ∧ (s.tempRead m 0).fld Reg.PWR_TEMP_SENSOR = 0 := by
  unfold State.tempRead
  rw [State.fld_setFld_other _ _ (by decide) (by decide) (by decide), State.fld_setFld, State.fld_setFld]
  exact ⟨Nat.mod_eq_of_lt (s8_lt m), rfl⟩

/-- Settles O54: the two registers of the reading, then each threshold by its own step. -/
theorem thermalAndBoardManagement : Obligations.ThermalAndBoardManagement := by
  unfold Obligations.ThermalAndBoardManagement
  refine fun s => ⟨fun x xs hlo hhi hlen hmax => ⟨fun hc => ?_, fun hc hinj => ?_⟩, fun c => ⟨_, rfl, rfl, ?_, ?_, ?_, ?_⟩⟩
  · obtain ⟨max, sensor⟩ := s.tempRead_spec x
    exact ⟨_, (exec_thermalSample hlo hlen fun y hy => (hmax y hy).2).trans (congrArg (fun t => (.next t : Out)) (if_pos hc)), max, sensor, rfl⟩
  · obtain ⟨max, sensor⟩ := s.tempRead_spec x
    have same {f : Fld} (hf : f.id < 1024) (h : f.id ≠ 623 ∧ f.id ≠ 624) := s.flag_tempRead x 0 hf h
    have flags {f : Fld} (hf : f.id < 1024) (h : f.id ≠ 623 ∧ f.id ≠ 624) : (s.tempRead x 0).flag f = s.flag f :=
      congrArg (· != 0) (same hf h)
    have unchecked : (s.tempRead x 0).check .pwrSram = s.tempRead x 0 := by
      refine State.check_disarmed (src := .pwrSram) ?_
      unfold State.tempRead
      rw [State.fld_setFld_other _ _ (by decide) (by decide) (by decide), State.fld_setFld_other _ _ (by decide) (by decide) (by decide)]
      exact hinj
    have act := throttled_thermalAct (s.tempRead x 0) x 0 (flags (by decide) (by decide)) (flags (by decide) (by decide))
      (congrArg (above _ · x) (same (by decide) (by decide))) (congrArg (above _ · x) (same (by decide) (by decide)))
    refine ⟨_, (exec_thermalSample hlo hlen fun y hy => (hmax y hy).2).trans (congrArg (fun t => (.next t : Out)) (if_neg (Bool.eq_false_iff.1 hc))), ?_⟩
    rw [unchecked]
    refine ⟨act.max.trans max, act.sensor.trans sensor, act.warns.trans (above_eq ..), act.hots.trans (above_eq ..), fun hoff hle => ?_,
      fun hoff hle => ?_, ?_, act.crit⟩
    · exact act.warned ((flags (by decide) (by decide)).trans hoff) (by rw [hoff]; exact decide_eq_true hle)
    · exact act.hotted ((flags (by decide) (by decide)).trans hoff) (by rw [hoff]; exact decide_eq_true hle)
    · rw [act.counted, act.hots, same (by decide) (by decide)]
  · rintro rfl
    rfl
  · rintro rfl
    rfl
  · rintro rfl
    rfl
  · intro hc
    match c with
    | _ + 3 => rfl

end Sys2Proof.Machine
end

section
/-! PROOFS. Power domains: requests, draining, waking (20_winding_clocks_power.md R405-R407). -/

namespace Sys2Proof.Machine

/-! ### A port that takes up its settings leaves the power domains as they are (R298, R405) -/

section
variable (s : State)

theorem State.pushFree_pwr (b : Nat) : (s.pushFree b).pwr = s.pwr := by
  have written : ∀ (t : State) (off : Nat) (bs : Bytes), (t.bufWrite b off bs).pwr = t.pwr := by
    intro t off bs
    unfold State.bufWrite
    split
    · rfl
    · exact State.dramPut_pwr ..
  have pooled : ∀ (t : State) (x : Nat) (p : Pool), (t.setPool x p).pwr = t.pwr := by
    intro t x p
    unfold State.setPool
    split <;> rfl
  exact (pooled ..).trans (written ..)

theorem State.poolRelease_pwr (o b : Nat) : (s.poolRelease o b).2.pwr = s.pwr := by
  unfold State.poolRelease
  split
  · unfold State.dropShare
    dsimp only
    split
    · exact (State.pushFree_pwr ..).trans (by unfold State.setPool; split <;> rfl)
    · rfl
  · exact State.latch_pwr ..

theorem State.dropPort_pwr (p : Nat) : (s.dropPort p).pwr = s.pwr := by
  have released : ∀ (t : State) (o : Nat) (bs : List Nat), (t.releaseAll o bs).pwr = t.pwr := fun t o bs =>
    State.foldl_part (fun t b => State.poolRelease_pwr t o b) bs t
  have crossing : ∀ (t : State) (i : Nat), (t.dropCrossing i p).pwr = t.pwr := by
    intro t i
    unfold State.dropCrossing
    dsimp only
    split
    · rfl
    · split
      · rfl
      · exact released ..
  have copy : ∀ (t : State) (f : LinkFrame), (t.dropCopy p f).pwr = t.pwr := fun t f => released t (f.holder p) f.bufs
  unfold State.dropPort
  dsimp only
  rw [State.foldl_part crossing, State.foldl_part copy]
  rfl

theorem State.prbsPort_pwr (p : Nat) (on : Bool) : (s.prbsPort p on).pwr = s.pwr := by
  refine State.foldl_part (fun t l => ?_) _ _
  split <;> rfl

theorem State.setPortState_pwr (p new cause : Nat) : (s.setPortState p new cause).pwr = s.pwr := by
  have stopped : ∀ t : State, (t.stopIdent p).pwr = t.pwr := fun t => State.foldl_part (fun t j => State.finish_pwr t j ..) _ (t.setPort p _)
  have checked : (if (s.port p).state = 4 then s.prbsPort p false else if new = 4 then s.prbsPort p true else s).pwr = s.pwr := by
    split
    · exact State.prbsPort_pwr ..
    · split
      · exact State.prbsPort_pwr ..
      · rfl
  unfold State.setPortState
  dsimp only
  split
  · rfl
  · refine (State.event_pwr ..).trans (.trans ?_ checked)
    split
    · refine (stopped _).trans ((State.dropPort_pwr ..).trans ?_)
      split <;> rfl
    · split <;> rfl

theorem State.retrain_pwr (p cause : Nat) : (s.retrain p cause).pwr = s.pwr := by
  have begun : ∀ t : State, (t.trainStep1 p).pwr = t.pwr := by
    intro t
    unfold State.trainStep1
    dsimp only
    split <;> rfl
  have lanes : ∀ (t : State) (l : Nat), (t.laneBits false false l).pwr = t.pwr := fun _ _ => rfl
  exact (begun _).trans ((State.foldl_part lanes _ _).trans (State.setPortState_pwr s p 2 cause))

theorem State.applyCfg_pwr (p cause : Nat) : (s.applyCfg p cause).pwr = s.pwr := by
  unfold State.applyCfg
  dsimp only
  split
  · exact State.setPortState_pwr ..
  · split
    · split
      · exact State.setPortState_pwr ..
      · exact State.retrain_pwr ..
    · split
      · rfl
      · exact State.retrain_pwr ..

theorem State.clearHandlers_pwr (g : Nat) : (s.clearHandlers g).pwr = s.pwr := by
  have ended : ∀ (t : State) (id : Nat), (t.endSource g id).pwr = t.pwr := by
    intro t id
    unfold State.endSource
    dsimp only
    split
    · rfl
    · split
      · rfl
      · exact State.hostMsg_pwr ..
  exact State.foldl_part (g := State.pwr) ended _ _

/-- Whatever a domain holds comes back without a change of any domain. -/
theorem State.wakeContents_pwr (d : Nat) : (s.wakeContents d).pwr = s.pwr := by
  unfold State.wakeContents
  dsimp only
  split
  · refine State.foldl_part (g := State.pwr) (fun t c => ?_) _ _
    rfl
  split
  · refine State.foldl_part (g := State.pwr) (fun t c => ?_) _ _
    rfl
  split
  · rfl
  split
  · exact (stateMoved_setRglState _ _ _).pwr.trans (State.clearHandlers_pwr s (d - 18))
  split
  · rfl
  split
  · rfl
  · exact State.foldl_part (g := State.pwr) (fun t p => State.applyCfg_pwr t p 1) _ _

end

/-! ### Domains -/

section
variable {s t : State} {d : Nat}

theorem State.dom_of_pwr (h : t.pwr = s.pwr) (k : Nat) : t.dom k = s.dom k := by
  unfold State.dom
  rw [h]

/-- A chain of changes of channels changes nothing but the DMA engine. -/
theorem State.foldl_dma {α : Type} {f : State → α → State} (h : ∀ t a, f t a = { t with dma := (f t a).dma }) (l : List α) (s : State) :
    l.foldl f s = { s with dma := (l.foldl f s).dma } := by
  induction l generalizing s with
  | nil => rfl
  | cons a l ih =>
    exact (ih (f s a)).trans (congrArg (fun u : State => { u with dma := (l.foldl f (f s a)).dma }) (h s a))

/-- The drain begins: nothing but the domain and the channels changes (R347, R348). -/
theorem State.drainStart_eq (s : State) (d : Nat) : s.drainStart d =
    { s.setDom d { s.dom d with state := 3, req := false, since := s.now } with dma := (s.drainStart d).dma } := by
  refine State.foldl_dma (fun t c => ?_) _ _
  split <;> rfl

theorem State.drainStart_spec (s : State) (d : Nat) : (s.drainStart d).dom d = { s.dom d with state := 3, req := false, since := s.now } ∧
    (∀ k, k ≠ d → (s.drainStart d).dom k = s.dom k) ∧ s.drainStart d = { s with pwr := (s.drainStart d).pwr, dma := (s.drainStart d).dma } := by
  have eq := State.drainStart_eq s d
  generalize s.drainStart d = t at eq
  have pwr : t.pwr = (s.setDom d { s.dom d with state := 3, req := false, since := s.now }).pwr := by
    rw [eq]
  refine ⟨(State.dom_of_pwr pwr d).trans (State.dom_setDom ..), fun k hk => (State.dom_of_pwr pwr k).trans (State.dom_setDom_other _ _ (Ne.symm hk)), ?_⟩
  exact eq.trans (congrArg (fun p => ({ s with pwr := p, dma := t.dma } : State)) pwr.symm)

/-- The domain is OFF, and the interrupt tells so. -/
def State.toldOff (s : State) (d : Nat) (forced : Bool) : State :=
  (s.setDom d { s.dom d with state := 0, forced := forced }).pwrEvent 0x1A02 d [0, (s.dom d).state, b2n forced]

theorem State.toldOff_dom (s : State) (d : Nat) (forced : Bool) : (s.toldOff d forced).dom d = { s.dom d with state := 0, forced := forced } :=
  (State.dom_of_pwr (State.event_pwr ..) d).trans (State.dom_setDom ..)

theorem State.domOff_stays {s : State} {d : Nat} (forced : Bool) (h : (s.dom d).req = false) : s.domOff d forced = s.toldOff d forced :=
  if_neg (by rw [h]; decide)

theorem State.domOff_wakes {s : State} {d : Nat} (forced : Bool) (h : (s.dom d).req = true) :
    s.domOff d forced = (s.toldOff d forced).wakeStart d := if_pos h

/-- A sticky bit that is set stays set when a domain is OFF. -/
theorem State.stuck_toldOff {s : State} {p b : Nat} (hb : b < 32) (h : s.stuck p b) (d : Nat) (forced : Bool) : (s.toldOff d forced).stuck p b :=
  (outlastsLatch_stuck p hb).event (s := s.setDom d { s.dom d with state := 0, forced := forced })
    (stuck_of_regs (State.setDom_variant ..) (State.setDom_regs ..) h) ..

/-- The accesses that running descriptors have still to make fail (step 3). -/
def State.failAccesses (s : State) (d : Nat) : State :=
  (List.range 32).foldl (fun t c =>
    let y := t.dch c
    match y.desc with
    | some e =>
      let src := Desc.op e != 2 && (addrSpace (Desc.src e)).1
      if t.touches c d then t.setDch c { y with fails := y.fails ++ [⟨src, y.progress, 1, .domainOff⟩] } else t
    | none => t) s

theorem State.failAccesses_pwr (s : State) (d : Nat) : (s.failAccesses d).pwr = s.pwr := by
  refine State.foldl_part (fun t c => ?_) _ _
  dsimp only
  split
  · split <;> rfl
  · rfl

end

/-- A domain that the variant has is one of the 58. -/
theorem lt_of_domFused {v : Variant} {d : Nat} (h : domFused v d = false) : d < 58 := by
  by_contra hd
  have : decide (58 ≤ d) = true := decide_eq_true (by omega)
  simp [domFused, this] at h

section
variable {s : State} {d : Nat}

theorem State.domCtl_ready (hd : d = s.fld Reg.PWR_DOM_SEL_DOMAIN) (hfused : domFused s.variant d = false) (hfreq : s.flag Reg.MEM_STATUS_FREQ_BUSY = false)
    (v : Nat) : s.domCtl v = s.domReq d (bit v 0) := by
  unfold State.domCtl
  dsimp only
  rw [← hd, hfused, hfreq]
  simp

theorem State.domDrained_off (hd : d < 58) (hstate : (s.dom d).state = 3) (htouch : ∀ c, c < 32 → s.touches c d = false) :
    s.domDrained d = s.domOff d false := by
  have none : (List.range 32).any (fun c => s.touches c d) = false := by
    rw [List.any_eq_false]
    intro c hc
    simp [htouch c (List.mem_range.mp hc)]
  refine if_neg fun h => ?_
  rcases h with h | h | h
  · omega
  · exact h hstate
  · rw [none] at h
    cases h

theorem State.drainTimeoutAt_due (hd : d < 58) (hstate : (s.dom d).state = 3) (hdue : (s.dom d).since + s.fld Reg.PWR_DRAIN_TIMEOUT_US * Clk.us ≤ s.now) :
    s.drainTimeoutAt d = ((s.failAccesses d).latch .pwrDrain).domOff d true :=
  if_neg (by rw [hstate]; omega)

theorem State.wakeDone_on (hd : d < 58) (hstate : (s.dom d).state = 1) (hreq : (s.dom d).req = true) : s.wakeDone d =
    ((s.setDom d { s.dom d with state := 2 }).wakeContents d).pwrEvent 0x1A02 d [2, 1, b2n (s.dom d).forced] := by
  unfold State.wakeDone
  dsimp only
  rw [if_neg (by rw [hstate]; omega), if_pos hreq]

/-! ### What comes back in a domain (R406) -/

/-- A core of a domain that wakes. -/
def State.coreBack (s : State) (c : Nat) : State :=
  (s.setCore c { s.core c with busy := false, faulted := false, offline := true, offlineReq := true, reservedFor := none }).escAdopt 1 c

/-- Core c stands offline, its escapement idle on the current image of its kind. -/
structure CoreBack (s : State) (c : Nat) (im : Option Nat) : Prop where
  offline : (s.core c).offline = true
  busy : (s.core c).busy = false
  routine : (s.esc_ 1 c).routine = none
  image : (s.esc_ 1 c).image = im

theorem State.coreBack_cur (s : State) (c : Nat) : (s.coreBack c).esc.cur = s.esc.cur := rfl

theorem State.coreBack_same (s : State) (c : Nat) :
    CoreBack (s.coreBack c) c (if Tab.has s.esc.cur 1 then some (Tab.get 0 s.esc.cur 1) else none) := by
  have core : (s.coreBack c).core c = { s.core c with busy := false, faulted := false, offline := true, offlineReq := true, reservedFor := none } :=
    State.core_setCore ..
  have esc : (s.coreBack c).esc_ 1 c = { image := if Tab.has s.esc.cur 1 then some (Tab.get 0 s.esc.cur 1) else none } :=
    State.esc_setEsc_same ..
  exact ⟨by rw [core], by rw [core], by rw [esc], by rw [esc]⟩

theorem CoreBack.step {s : State} {k : Nat} {im : Option Nat} (h : CoreBack s k im)
    (him : im = if Tab.has s.esc.cur 1 then some (Tab.get 0 s.esc.cur 1) else none) (c : Nat) : CoreBack (s.coreBack c) k im := by
  by_cases hc : c = k
  · subst hc
    rw [him]
    exact s.coreBack_same c
  · have core : (s.coreBack c).core k = s.core k := State.core_setCore_other _ _ hc
    have esc : (s.coreBack c).esc_ 1 k = s.esc_ 1 k := State.esc_setEsc_other _ _ (by unfold escKey; omega)
    exact ⟨by rw [core]; exact h.offline, by rw [core]; exact h.busy, by rw [esc]; exact h.routine, by rw [esc]; exact h.image⟩

theorem State.foldl_coreBack {l : List Nat} {k : Nat} (hk : k ∈ l) (s : State) :
    CoreBack (l.foldl State.coreBack s) k (if Tab.has s.esc.cur 1 then some (Tab.get 0 s.esc.cur 1) else none) := by
  have cur : ∀ (l : List Nat) (s : State), (l.foldl State.coreBack s).esc.cur = s.esc.cur := fun l s =>
    State.foldl_part (g := fun t => t.esc.cur) State.coreBack_cur l s
  induction l using List.reverseRecOn with
  | nil => cases hk
  | append_singleton l c ih =>
    rw [List.foldl_append, List.foldl_cons, List.foldl_nil]
    rcases List.mem_append.mp hk with hl | hc
    · exact (ih hl).step (by rw [cur]) c
    · rw [List.mem_singleton.mp hc, ← cur l s]
      exact State.coreBack_same _ _

theorem State.wakeContents_cores (hd : d < 6) {k : Nat} (hk : k < 8) :
    CoreBack (s.wakeContents d) (8 * d + k) (if Tab.has s.esc.cur 1 then some (Tab.get 0 s.esc.cur 1) else none) := by
  have eq : s.wakeContents d = (eight d).foldl State.coreBack s := if_pos hd
  rw [eq]
  exact State.foldl_coreBack (List.mem_map.mpr ⟨k, List.mem_range.mpr hk, rfl⟩) s

theorem State.wakeContents_regulator (hlo : 18 ≤ d) (hhi : d < 34) :
    (s.wakeContents d).fld Reg.RGL_STATUS_STATE (d - 18) = 0 ∧ ((s.wakeContents d).rgl_ (d - 18)).mbx = [] := by
  have eq : s.wakeContents d =
      let s1 := (s.clearHandlers (d - 18)).setRegl (d - 18) { cpls := (s.rgl_ (d - 18)).cpls }
      State.setRglState { s1 with rgq := { s1.rgq with q := Tab.set s1.rgq.q (d - 18) {} } } (d - 18) 0 := by
    unfold State.wakeContents
    rw [if_neg (by omega), if_neg (by omega), if_neg (by omega), if_pos hhi]
  rw [eq]
  refine ⟨State.fld_setRglState _ _ (by decide), ?_⟩
  rw [State.regulator_of_rgl (stateMoved_setRglState _ (d - 18) 0).rgl]
  exact congrArg Regulator.mbx (State.rgl__setRegl ..)

theorem CoreBack.event {s : State} {c : Nat} {im : Option Nat} (h : CoreBack s c im) (code source : Nat) (args : List Nat) :
    CoreBack (s.pwrEvent code source args) c im := by
  have core : (s.pwrEvent code source args).core c = s.core c := by
    unfold State.core State.pwrEvent
    rw [State.event_dec]
  have esc : (s.pwrEvent code source args).esc_ 1 c = s.esc_ 1 c := State.esc_of_escSt (State.event_esc ..) 1 c
  exact ⟨by rw [core]; exact h.offline, by rw [core]; exact h.busy, by rw [esc]; exact h.routine, by rw [esc]; exact h.image⟩

end

/-! ### Requests, drains and wakes -/

section
variable {s : State} {d : Nat}

theorem runs_pwrRequest {c : Instr} {v : Word} (on : Bool) (hcmd : exec c s = s.run fun s => s.regCmd Blk.pwr 0 (rsvBits v 1) fun s => s.domCtl v.toNat)
    (hc : s.pwr.clocksStopped = false) (hd : d = s.fld Reg.PWR_DOM_SEL_DOMAIN) (hfused : domFused s.variant d = false)
    (hfreq : s.flag Reg.MEM_STATUS_FREQ_BUSY = false) (hopen : s.pageOpen Blk.pwr 0 = true) (hrsv : rsvBits v 1 = 0)
    (hon : bit v.toNat 0 = on) {t : State} (heq : s.domReq d on = t) {P : State → Prop} (h : P t) : Runs c s P :=
  Runs.of_regCmd hcmd hc (by decide) hopen hrsv ((State.domCtl_ready hd hfused hfreq v.toNat).trans (hon ▸ heq)) h

theorem runs_pwrDomainOffReq (hc : s.pwr.clocksStopped = false) (hd : d = s.fld Reg.PWR_DOM_SEL_DOMAIN) (hfused : domFused s.variant d = false)
    (hfreq : s.flag Reg.MEM_STATUS_FREQ_BUSY = false) (v : Word) (hopen : s.pageOpen Blk.pwr 0 = true) (hrsv : rsvBits v 1 = 0)
    (hoff : bit v.toNat 0 = false) :
    ((s.dom d).state = 2 → s.offAllowed d = false → Runs (.pwrDomainOffReq v) s fun t =>
      t = s.latch .pwrRefused ∧ t.latched .pwrRefused = true ∧ t.dom d = s.dom d) ∧
    ((s.dom d).state = 2 → s.offAllowed d = true → Runs (.pwrDomainOffReq v) s fun t =>
      t.dom d = { s.dom d with state := 3, req := false, since := s.now } ∧ (∀ k, k ≠ d → t.dom k = s.dom k) ∧
      t = { s with pwr := t.pwr, dma := t.dma }) ∧
    ((s.dom d).state = 1 ∨ (s.dom d).state = 3 → Runs (.pwrDomainOffReq v) s fun t =>
      t = s.setDom d { s.dom d with req := false }) := by
  refine ⟨fun hstate hallow => ?_, fun hstate hallow => ?_, fun hstate => ?_⟩
  · refine runs_pwrRequest false rfl hc hd hfused hfreq hopen hrsv hoff (t := s.latch .pwrRefused) ?_
      ⟨rfl, State.latched_latch _ .pwrRefused 0 (by decide), State.dom_of_pwr (State.latch_pwr ..) d⟩
    unfold State.domReq
    dsimp only
    rw [hstate, hallow]
    rfl
  · refine runs_pwrRequest false rfl hc hd hfused hfreq hopen hrsv hoff (t := s.drainStart d) ?_ (State.drainStart_spec s d)
    unfold State.domReq
    dsimp only
    rw [hstate, hallow]
    rfl
  · refine runs_pwrRequest false rfl hc hd hfused hfreq hopen hrsv hoff ?_ rfl
    unfold State.domReq
    dsimp only
    rcases hstate with h | h <;> simp only [h]

theorem runs_pwrDomainOnReq (hc : s.pwr.clocksStopped = false) (hd : d = s.fld Reg.PWR_DOM_SEL_DOMAIN) (hfused : domFused s.variant d = false)
    (hfreq : s.flag Reg.MEM_STATUS_FREQ_BUSY = false) (v : Word) (hopen : s.pageOpen Blk.pwr 0 = true) (hrsv : rsvBits v 1 = 0)
    (hon : bit v.toNat 0 = true) :
    ((s.dom d).state = 0 → Runs (.pwrDomainOnReq v) s fun t => t = s.setDom d { s.dom d with state := 1, req := true, since := s.now }) ∧
    ((s.dom d).state = 1 ∨ (s.dom d).state = 2 ∨ (s.dom d).state = 3 → Runs (.pwrDomainOnReq v) s fun t =>
      t = s.setDom d { s.dom d with req := true }) := by
  refine ⟨fun hstate => ?_, fun hstate => ?_⟩
  · refine runs_pwrRequest true rfl hc hd hfused hfreq hopen hrsv hon ?_ rfl
    unfold State.domReq
    dsimp only
    rw [hstate]
    rfl
  · refine runs_pwrRequest true rfl hc hd hfused hfreq hopen hrsv hon ?_ rfl
    unfold State.domReq
    dsimp only
    rcases hstate with h | h | h <;> simp only [h]

theorem runs_domainDrainDone (hc : s.pwr.clocksStopped = false) (hd : d < 58) (hstate : (s.dom d).state = 3)
    (htouch : ∀ c, c < 32 → s.touches c d = false) :
    ((s.dom d).req = false → Runs (.domainDrainDone d) s fun t => t.dom d = { s.dom d with state := 0, forced := false }) ∧
    ((s.dom d).req = true → Runs (.domainDrainDone d) s fun t => (t.dom d).state = 1 ∧ (t.dom d).req = true ∧ (t.dom d).forced = false) := by
  have eq := State.domDrained_off hd hstate htouch
  refine ⟨fun hreq => ?_, fun hreq => ?_⟩
  · exact Runs.of_run (f := fun s => s.domDrained d) rfl hc (eq.trans (State.domOff_stays false hreq)) (State.toldOff_dom s d false)
  · refine Runs.of_run (f := fun s => s.domDrained d) rfl hc (eq.trans (State.domOff_wakes false hreq)) ?_
    unfold State.wakeStart
    rw [State.dom_setDom, State.toldOff_dom]
    exact ⟨rfl, rfl, rfl⟩

theorem runs_domainDrainTimeout (hc : s.pwr.clocksStopped = false) (hd : d < 58) (hstate : (s.dom d).state = 3) :
    (s.now < (s.dom d).since + s.fld Reg.PWR_DRAIN_TIMEOUT_US * Clk.us → Runs (.domainDrainTimeout d) s fun t => t = s) ∧
    ((s.dom d).since + s.fld Reg.PWR_DRAIN_TIMEOUT_US * Clk.us ≤ s.now → (s.dom d).req = false →
      Runs (.domainDrainTimeout d) s fun t => t.dom d = { s.dom d with state := 0, forced := true } ∧ t.latched .pwrDrain = true) := by
  refine ⟨fun hearly => ?_, fun hdue hreq => ?_⟩
  · exact Runs.of_run (f := fun s => s.drainTimeoutAt d) rfl hc (if_pos (.inr (.inr hearly))) rfl
  · have dom : ((s.failAccesses d).latch .pwrDrain).dom d = s.dom d :=
      State.dom_of_pwr ((State.latch_pwr ..).trans (State.failAccesses_pwr s d)) d
    refine Runs.of_run (f := fun s => s.drainTimeoutAt d) rfl hc ((State.drainTimeoutAt_due hd hstate hdue).trans
      (State.domOff_stays true (by rw [dom]; exact hreq))) ⟨?_, ?_⟩
    · rw [State.toldOff_dom, dom]
    · exact State.stuck_toldOff (by decide) (State.latched_latch _ .pwrDrain 0 (by decide)) d true

theorem runs_domainWakeDone (hc : s.pwr.clocksStopped = false) (hd : d < 58) (hstate : (s.dom d).state = 1) (hreq : (s.dom d).req = true) :
    Runs (.domainWakeDone d) s fun t =>
      t.dom d = { s.dom d with state := 2 } ∧
      (d < 6 → ∀ k, k < 8 → (t.core (8 * d + k)).offline = true ∧ (t.core (8 * d + k)).busy = false ∧
        (t.esc_ 1 (8 * d + k)).routine = none ∧
        (t.esc_ 1 (8 * d + k)).image = (if Tab.has s.esc.cur 1 then some (Tab.get 0 s.esc.cur 1) else none)) ∧
      (18 ≤ d → d < 34 → t.fld Reg.RGL_STATUS_STATE (d - 18) = 0 ∧ (t.rgl_ (d - 18)).mbx = []) := by
  refine Runs.of_run (f := fun s => s.wakeDone d) rfl hc (State.wakeDone_on hd hstate hreq) ⟨?_, fun hlt k hk => ?_, fun hlo hhi => ?_⟩
  · exact (State.dom_of_pwr ((State.event_pwr ..).trans (State.wakeContents_pwr ..)) d).trans (State.dom_setDom ..)
  · obtain ⟨offline, busy, routine, image⟩ :=
      ((s.setDom d { s.dom d with state := 2 }).wakeContents_cores hlt hk).event 0x1A02 d [2, 1, b2n (s.dom d).forced]
    exact ⟨offline, busy, routine, image⟩
  · obtain ⟨state, mbx⟩ := State.wakeContents_regulator (s := s.setDom d { s.dom d with state := 2 }) hlo hhi
    refine ⟨?_, ?_⟩
    · exact (((outlastsLatch_sameFld _).event (.refl _) ..).same Reg.RGL_STATUS_STATE _ (by decide) (by decide)).trans state
    · exact (congrArg Regulator.mbx (State.regulator_of_rgl (State.event_rgl ..) (d - 18))).trans mbx

end

/-- Settles O53. -/
theorem powerDomainsTurnOffAndOn : Obligations.PowerDomainsTurnOffAndOn := by
  unfold Obligations.PowerDomainsTurnOffAndOn
  intro s d hc hd hfused hfreq
  have hlt := lt_of_domFused hfused
  exact ⟨runs_pwrDomainOffReq hc hd hfused hfreq, runs_pwrDomainOnReq hc hd hfused hfreq, runs_domainDrainDone hc hlt,
    runs_domainDrainTimeout hc hlt, runs_domainWakeDone hc hlt⟩

end Sys2Proof.Machine
end

section
/-! PROOFS. The commands of winding, jobs, calibres, complications, encoding and memory complete (20_winding_clocks_power.md,
03_rings_and_jobs.md, 06_wall_model_and_calibres.md, 11_monitor_and_relay_encoding.md, 15_escapements_and_regulators.md,
19_memory_and_keeping_store.md): each effect is part of what the statement about its command says. -/

namespace Sys2Proof.Machine

theorem Runs.imp {c : Instr} {s : State} {P Q : State → Prop} (h : Runs c s P) (k : ∀ t, P t → Q t) : ∃ t, exec c s = .next t ∧ Q t := by
  obtain ⟨t, hexec, hP⟩ := h
  exact ⟨t, hexec, k t hP⟩

theorem State.fld_of_setFld {s t : State} {f : Fld} {i v : Nat} (h : t = s.setFld f i v) (hv : v < 2 ^ f.width) : t.fld f i = v := by
  rw [h, State.fld_setFld, Nat.mod_eq_of_lt hv]

/-- Settles O59: each clause is a part of a statement that is settled already. -/
theorem windingCalibreJobAndMemoryCommandsComplete : Obligations.WindingCalibreJobAndMemoryCommandsComplete := by
  intro s
  obtain ⟨resets, pins⟩ := resetsPinsStrapsAndClockLoss
  obtain ⟨powered, asserted⟩ := resets s
  obtain ⟨released, sampled, railed, unlocked⟩ := pins s
  refine ⟨powered.imp fun t ⟨h, _, stage, _⟩ => ⟨stage, by rw [h], by rw [h], by rw [h]⟩,
    asserted.imp fun t ⟨h, _, _, _, _, cause, stage, _⟩ => ⟨stage, cause, by rw [h], by rw [h]⟩,
    released.imp fun t ⟨h, _⟩ => congrArg HostSt.perstN h,
    fun testMode capWriteN hw hdue => (sampled testMode capWriteN hw hdue).imp fun t ⟨h, _⟩ =>
      ⟨congrArg PowerSt.testMode h, congrArg PowerSt.capWriteN h⟩,
    fun hw => (railed hw).imp fun t ⟨h, _⟩ => h ▸ State.latched_latch _ .pwrRail 0 (by decide),
    fun hw hrun => (unlocked hw hrun).imp fun t ⟨lock, h, _⟩ => ⟨congrArg PowerSt.clocksStopped h, lock⟩, fun hc => ?_⟩
  obtain ⟨groups, stages⟩ := windingStagesAndSelfTests
  obtain ⟨w0, w2, w3, w4, w5, w6, w7⟩ := stages s hc
  obtain ⟨jobs, -⟩ := commandsJobsAndCompletions
  obtain ⟨fetched, waited, nop, query⟩ := jobs s hc
  obtain ⟨swaps, reads⟩ := calibreSwapReadAndSave
  obtain ⟨read, saved, -⟩ := reads s hc
  obtain ⟨loads, -⟩ := complicationsLoadStopAndTimers
  obtain ⟨pictures, cores⟩ := encodePicturesCoresAndRegion
  obtain ⟨reset, region⟩ := cores s hc
  obtain ⟨lines, frequency⟩ := dramErrorsZeroingAndFrequency
  obtain ⟨-, zeroing, changed, -, -, ended, timed⟩ := frequency s hc
  refine ⟨fun testMode capWriteN bootSel h => (w0 testMode capWriteN bootSel h).imp fun t ⟨stage, _, lock, _⟩ => ⟨stage, lock⟩,
    fun h => (w2 h).imp fun t ⟨stage, _, keys⟩ => ⟨stage, keys⟩, w3, w4,
    fun chans timing h => (w5 chans timing h).imp fun t ⟨stage, dram, _⟩ => ⟨stage, dram⟩, w6,
    fun h => (w7 h).imp fun t ⟨stage, _⟩ => ⟨stage, by unfold State.wound; rw [stage]; rfl⟩, ?_, ?_,
    fun j hj hw hready => (waited j hj hw hready).imp fun t ⟨h, _⟩ => h, fun j hj => (nop j hj).imp fun t ⟨gone, _⟩ => gone,
    fun j hj => (query j hj).imp fun t ⟨gone, _⟩ => gone, ?_, ?_, ?_, ?_, ?_, ?_, ?_, ?_, ?_, ?_, ?_, ?_, ?_, ?_, ?_, ?_⟩
  case refine_1 =>
    intro g coverage durUs fail hstage hrun hg h5 hdur
    obtain ⟨passed, timedOut⟩ := groups s g coverage hc hstage hrun hg h5
    exact ⟨(passed durUs fail hdur).imp fun t ⟨_, done, _, _, _, dur, _⟩ => ⟨done, dur⟩,
      timedOut.imp fun t ⟨_, _, pass, timeout, _⟩ => ⟨timeout, pass⟩⟩
  case refine_2 =>
    intro r entry hen hhalt hstop hcls hcount hr hpage hheld hinj haccept
    obtain ⟨accepted, -⟩ := fetched r entry hen hhalt hstop hcls hcount hr hpage hheld hinj
    exact (accepted haccept).imp fun t ⟨has, _, _, _, _, _, _, _, count, _⟩ => ⟨has, count⟩
  case refine_3 =>
    intro j hj hbank hseq
    obtain ⟨swapped, -⟩ := swaps s j hc
    exact (swapped hj hbank hseq).imp fun t ⟨h, started⟩ => ⟨by rw [h]; rfl, started⟩
  case refine_4 =>
    intro j frame hswap hnext hdue
    obtain ⟨-, -, -, atFrame, -⟩ := swaps s j hc
    obtain ⟨armed, -⟩ := atFrame frame hswap
    exact (armed hnext hdue).imp fun t ⟨h, _⟩ => h
  case refine_5 =>
    intro hvalid hstate htag
    obtain ⟨-, -, -, -, freed⟩ := swaps s 0 hc
    exact (freed hvalid hstate htag).imp fun t ⟨h, _⟩ => by rw [h]
  case refine_6 =>
    rintro j im hj hsilent hwhich hvalid hbank hspace rfl hlen hroom
    exact (read j hj hsilent hwhich hvalid hbank hspace hlen hroom).imp fun t ⟨mem, _, _, _, gone⟩ => ⟨mem, gone⟩
  case refine_7 =>
    intro off bytes hpend hvalid hslot hoff hbytes hworn hwarn hinj
    exact (saved off bytes hpend hvalid hslot hoff hbytes hworn hwarn hinj).imp fun t ⟨mem, done, _⟩ => ⟨mem, done⟩
  case refine_8 =>
    intro j im h g hj hlen
    obtain ⟨load, -⟩ := loads s j hc
    obtain ⟨unload, place⟩ := load hj
    refine ⟨fun hun hfound => ?_, fun hun hspace hroom hfull hform hpay hmani hsec habi hstep hh hg => ?_⟩
    · obtain ⟨-, found⟩ := unload hun im none
      exact (found hfound).imp fun t ⟨rgl, _⟩ => congrArg RglSt.unloads rgl
    · obtain ⟨-, signed, -⟩ := place hun hspace (hlen ▸ hroom) im h hlen hh
      refine (signed hfull hform hpay hmani (some true)).imp fun t ⟨_, verified⟩ hsig => ?_
      obtain ⟨-, placed⟩ := verified hsig hsec habi hstep
      obtain ⟨-, joined⟩ := placed g hg
      obtain ⟨started, loading, -⟩ := joined (by decide)
      exact ⟨started, by rw [loading, List.length_append]; rfl⟩
  case refine_9 =>
    intro j l hl hjob hinit hdue
    obtain ⟨-, timeout⟩ := loads s j hc
    obtain ⟨-, late⟩ := timeout l hl hjob hinit
    exact (late hdue).imp fun t h => by rw [h, State.finish_rgl]
  case refine_10 =>
    intro e he
    obtain ⟨ready, begun, coded⟩ := pictures s e hc he
    refine ⟨fun n p hstream hopen hnext => (ready n p hstream hopen hnext).imp fun t ⟨h, _⟩ => ?_,
      fun p hopen hcoding hwait hcores hfree hhot hcrit => (begun p hopen hcoding hwait hcores hfree hhot hcrit).imp fun t ⟨coding, waiting, _⟩ =>
        ⟨coding, waiting⟩, fun p qp cols low hcoding hcls hinj hroom => ?_⟩
    · have pic := congrArg (Option.map fun q => q.2.2.2) h
      rwa [Option.map_map] at pic
    · obtain ⟨-, fits⟩ := coded p _ qp _ cols low hcoding rfl hcls hinj
      exact (fits hroom).imp fun t ⟨coding, pics, _⟩ => ⟨coding, pics⟩
  case refine_11 =>
    intro c hlt hopen hoff hbusy
    obtain ⟨again, -⟩ := reset c hlt hopen
    exact (again hoff hbusy).imp fun t ⟨h, _⟩ => ⟨congrArg EncCore.faulted h, (congrArg EncCore.offline h).trans hoff⟩
  case refine_12 =>
    intro v hopen hrsv hidle
    obtain ⟨moved, -⟩ := region v hopen hrsv
    have small : v.toNat < 2 ^ 24 := toNat_lt_of_upper_reserved hrsv
    obtain ⟨base, size⟩ := moved fun e x hmem => by simpa using List.any_eq_false.mp hidle (e, x) hmem
    exact ⟨base.imp fun t h => State.fld_of_setFld h small, size.imp fun t ⟨h, _⟩ => State.fld_of_setFld h small⟩
  case refine_13 =>
    intro line channel hinj hhours hok hzero hpoison hchannel
    obtain ⟨-, scrubbed, -⟩ := lines s line channel hc hinj
    obtain ⟨good, -⟩ := scrubbed hhours hok hzero
    obtain ⟨-, corrected⟩ := good hpoison
    exact (corrected hchannel).imp fun t ⟨count, latched, _⟩ => ⟨latched, count⟩
  case refine_14 =>
    intro hzero hnone
    obtain ⟨last, more⟩ := zeroing hzero hnone
    by_cases h : s.chunks ≤ s.mem.zeroNext + 1
    · exact (last h).imp fun t ⟨idle, zeroed, _⟩ => by rw [if_pos h]; exact ⟨zeroed, idle⟩
    · exact (more (by omega)).imp fun t hnext => by rw [if_neg h, hnext]
  case refine_15 =>
    intro v hopen hrsv hgo hbusy hother
    obtain ⟨-, idle⟩ := changed v hopen hrsv hgo
    obtain ⟨-, started⟩ := idle hbusy
    exact (started hother).imp fun t ⟨busy, mem, _⟩ => ⟨busy, congrArg MemSt.freqTarget mem⟩
  case refine_16 =>
    intro hheld hbusy hstill htarget
    obtain ⟨done, -⟩ := ended hheld hbusy
    exact (done hstill htarget).imp fun t ⟨freq, busy, _⟩ => ⟨freq, busy⟩
  case refine_17 =>
    intro hopen
    refine Runs.of_regCmd rfl hc (by decide) hopen rfl (f := State.errlogClear) rfl ?_
    unfold State.errlogClear
    simp (disch := decide) only [State.fld_setFld_other, State.fld_setFld]
    rfl
  case refine_18 =>
    intro f w v hf hw hopen hrsv hother
    obtain ⟨-, written⟩ := timed f w v hf hw hopen hrsv
    have small : v.toNat < 2 ^ 16 := toNat_lt_of_rsvBits (k := 16) hrsv
    rw [show v.toNat % 65536 = v.toNat from Nat.mod_eq_of_lt small] at written
    exact (written hother).imp fun t h => State.fld_of_setFld h small

end Sys2Proof.Machine
end

section
/-! PROOFS. The commands of ports, lanes, escapements, bundles, interrupts and runtime services complete (13_beats_and_scheduling.md,
14_panel_link.md, 15_escapements_and_regulators.md, 17_interrupts.md): each effect is part of what the statement about its command
says. -/

namespace Sys2Proof.Machine

theorem runs_creditBlock {s : State} {p n : Nat} (hc : s.pwr.clocksStopped = false) (hdata : s.inData p = true) (htrunk : s.trunk p = true)
    (hn : n < 65536) : Runs (.creditBlock p n) s fun t => (t.port p).held = (s.port p).held + n :=
  Runs.of_run (f := fun s => s.creditBlock p n) rfl hc (if_neg (by simp [hdata, htrunk]; omega)) (congrArg PlkPort.held (State.port_setPort ..))

theorem variant_ports_pos (v : Variant) : 0 < v.ports := by cases v <;> decide

/-- Settles O60: each clause is a part of a statement that is settled already. -/
theorem linkRegulatorAndServiceCommandsComplete : Obligations.LinkRegulatorAndServiceCommandsComplete := by
  intro s hc
  obtain ⟨marks, departs⟩ := portFramesAndDepartures
  obtain ⟨loads, bundles⟩ := escapementImagesAndBundles
  obtain ⟨loadGo, loadDone⟩ := loads s hc
  obtain ⟨bundleGo, bundleDone⟩ := bundles s hc
  obtain ⟨-, calls⟩ := complicationsLoadStopAndTimers
  obtain ⟨entries, exits⟩ := interruptEntryAndExit
  refine ⟨fun p hw hp hinj => ?_, fun l hl => ?_, ?_, ?_, ?_, ?_, ?_, ?_, ?_, ?_, ?_, fun g k hruns hinj => ?_⟩
  case refine_1 =>
    obtain ⟨mark, close, parity⟩ := marks s p hc hw hp hinj
    refine ⟨fun b im htag hle hdue => ?_, fun tile b hrun hlast hfin hopen hbank => ?_, fun hrun => ?_, ?_⟩
    · obtain ⟨due, -⟩ := mark b im htag hle
      exact (due hdue).imp fun t ⟨frame, running, bank, _⟩ => ⟨running, bank, frame⟩
    · obtain ⟨closed, -⟩ := close tile b hrun hlast hfin
      exact (closed hopen hbank).imp fun t ⟨h, _⟩ => h
    · exact (parity hrun).imp fun t ⟨h, latched⟩ => ⟨by rw [h], latched⟩
    · intro slot beat e f hrun hdata hfree hslot hbank hbeat hkind htile hdark hdark' hopen htable hsmp hframe hfit hcredit
      obtain ⟨-, sent⟩ := departs s p slot hc hp hrun hdata hinj
      exact (sent beat e f hfree hslot hbank hbeat hkind htile hdark hdark' hopen htable hsmp hframe hfit hcredit).imp
        fun t ⟨_, last, free, _⟩ => ⟨last, free⟩
  case refine_2 =>
    obtain ⟨align, fom, pllLost, pllBack, retrain, -, cfg, enter, clear, inject, -, poll, -, -⟩ := lanesAndPortControl s l hc hl
    refine ⟨fun rx r hr hlost hnot => ?_, fun n hn hout => ?_, pllLost, fun h => ?_, fun hopen hstate => ?_, fun v hopen hrsv hvalid => ?_,
      fun hopen hstate => ?_, clear, inject, fun b m hb hbad hpres hack hlos => ?_, fun n hdata htrunk hn => ?_⟩
    · obtain ⟨-, lost, -⟩ := align rx _ r rfl hr
      exact (lost hlost hnot).imp fun t ⟨aligned, _, latched, _⟩ => ⟨aligned, latched⟩
    · obtain ⟨outside, -⟩ := fom n hn
      exact (outside hout).imp fun t ⟨shown, _⟩ => shown
    · exact (pllBack h).imp fun t ⟨back, _⟩ => back
    · exact (retrain hopen hstate).imp fun t ⟨train, _⟩ => train
    · exact (cfg v hopen hrsv hvalid).imp fun t ⟨rate, _, en, _⟩ => ⟨rate, en⟩
    · exact (enter hopen).imp fun t ⟨test, flag⟩ => ⟨test.trans (if_neg hstate), flag⟩
    · obtain ⟨acked, -⟩ := poll b m hb hbad hpres
      exact (acked hack hlos).imp fun t ⟨present, temp, _⟩ => ⟨present, temp⟩
    · exact runs_creditBlock hc hdata htrunk (Nat.lt_succ_of_le hn)
  case refine_3 =>
    intro v hopen hrsv hidle hgo
    obtain ⟨-, -, -, -, -, -, -, -, -, -, -, -, go, -⟩ := lanesAndPortControl s 0 hc (variant_ports_pos s.variant)
    obtain ⟨-, started⟩ := go v hopen hrsv
    exact (started hidle hgo).imp fun t ⟨plk, busy, _⟩ => ⟨busy, congrArg PlkSt.i2c plk⟩
  case refine_4 =>
    intro r v nack hbusy
    obtain ⟨-, -, -, -, -, -, -, -, -, -, -, -, -, done⟩ := lanesAndPortControl s 0 hc (variant_ports_pos s.variant)
    exact (done r v nack hbusy).imp fun t ⟨plk, busy, _⟩ => ⟨busy, congrArg PlkSt.i2c plk⟩
  case refine_5 =>
    intro v hen hopen hrsv hgo hidle
    obtain ⟨started, -⟩ := loadGo v hen hopen hrsv hgo
    exact (started hidle).imp fun t ⟨busy, _, esc, _⟩ => ⟨busy, congrArg EscSt.loading esc⟩
  case refine_6 =>
    intro k a hload ha hok hpoison hbias hmem hesc
    exact (loadDone k a _ hload ha hok hpoison hbias hmem hesc rfl).imp fun t ⟨result, busy, _⟩ => ⟨result, busy⟩
  case refine_7 =>
    intro v hen hopen hrsv hgo hidle
    obtain ⟨-, -, started⟩ := bundleGo v hen hopen hrsv
    exact (started _ _ _ hgo hidle rfl).imp fun t ⟨busy, _, _, bundle⟩ => ⟨busy, by rw [bundle]; rfl⟩
  case refine_8 =>
    intro w hw hres hworn hwarn
    obtain ⟨-, written⟩ := bundleDone true w hw
    obtain ⟨good, -⟩ := written hres hworn hwarn
    exact (good rfl).imp fun t ⟨result, busy, _, _, mem⟩ => ⟨result, busy, mem⟩
  case refine_9 =>
    intro g k hruns hstop
    obtain ⟨stops, timers, -⟩ := calls s g k _ hc hruns rfl hstop
    refine ⟨fun hhas hentry => ?_, fun u us htimers hdue hidle => ?_⟩
    · obtain ⟨range, -⟩ := stops hhas hentry
      exact range.imp fun t ⟨stopped, _⟩ => stopped
    · obtain ⟨begun, -⟩ := timers u us htimers hdue
      exact (begun hidle).imp fun t h => by rw [h, State.cpl_setCpl]; exact ⟨rfl, rfl⟩
  case refine_10 =>
    intro g pc hg htaking hdepth hhold helig hfresh
    obtain ⟨entry, -⟩ := entries s g pc hc hg
    obtain ⟨begun, -⟩ := entry htaking
    exact (begun hdepth hhold helig hfresh).imp fun t h => by rw [h, State.tgt_setTgt]; exact ⟨rfl, rfl, rfl⟩
  case refine_11 =>
    intro g e es r hshadow hr htaking hlo hhi hnone
    obtain ⟨exit, -⟩ := exits s g e es r hc hshadow hr
    obtain ⟨back, -⟩ := exit htaking hlo hhi
    exact (back hnone).imp fun t ⟨shadow, level, _, pc, _⟩ => ⟨shadow, level, pc⟩
  case refine_12 =>
    obtain ⟨yield, -, -, recv, send, pool, event, time, -, take, post, level⟩ := runtimeServicesAnswer s g k _ hc hruns rfl hinj
    refine ⟨fun hframe hmsg => ?_, fun m ms hmbx => ?_, fun h m hh hpage hroom => ?_, fun op b n o => ?_, fun code args => ?_, ?_, fun hne => ?_,
      fun e he hroom => ?_, fun kd a u habi => ?_⟩
    · exact (yield hframe hmsg).imp fun t ⟨entry, _⟩ => entry
    · exact (recv m ms hmbx).imp fun t ⟨a0, got, mbx, _⟩ => ⟨a0, got, mbx⟩
    · obtain ⟨room, -⟩ := send h m hh hpage
      exact (room hroom).imp fun t ⟨a0, mbx⟩ => ⟨a0, by rw [mbx, List.length_append]; rfl⟩
    · exact (pool op b n o).imp fun t ⟨answer, h⟩ => ⟨congrArg Prod.fst answer, h⟩
    · exact (event code args).imp fun t ⟨a0, _⟩ => a0
    · exact time.imp fun t h => by rw [h, State.cpl_setCpl]; exact ⟨rfl, rfl⟩
    · exact (take hne).imp fun t ⟨a0, _, queue, _⟩ => ⟨a0, congrArg RglQueues.rxCi queue⟩
    · obtain ⟨-, room⟩ := post e he
      exact (room hroom).imp fun t ⟨a0, pi, _⟩ => ⟨a0, pi⟩
    · obtain ⟨two, -⟩ := level kd a u
      obtain ⟨publish, lookup, timer⟩ := two habi
      exact ⟨publish, lookup.imp fun t h => by rw [h, State.cpl_setCpl], timer.imp fun t ⟨a0, timers, _⟩ => ⟨a0, timers⟩⟩

end Sys2Proof.Machine
end

section
/-! PROOFS. What an operation may change: scopes of parts and register fields, and how frames compose (00_scope.md,
21_register_pages.md). -/

namespace Sys2Proof.Machine

/-! ### Scopes -/

/-- The parts of the state and the register fields that an operation may change, as two sets of numbers. -/
structure Scope where
  parts : Nat
  fields : Nat

/-- The number of a part. -/
def Part.no (p : Part) : Nat := Part.all.idxOf p

/-- The set of some numbers. -/
@[irreducible] def setOf (ns : List Nat) : Nat := ns.foldr (2 ^ · ||| ·) 0

theorem testBit_setOf (ns : List Nat) (k : Nat) : (setOf ns).testBit k = ns.contains k := by
  unfold setOf
  induction ns with
  | nil => simp
  | cons n ns ih =>
    rw [List.foldr_cons, Nat.testBit_or, ih, List.contains_cons, Nat.testBit_two_pow]
    congr 1
    exact decide_eq_decide.mpr eq_comm

/-- A set has no number that another lacks. -/
def subset (a b : Nat) : Bool := a ||| b == b

theorem testBit_of_subset {a b k : Nat} (h : subset a b = true) (hk : a.testBit k = true) : b.testBit k = true := by
  have := congrArg (Nat.testBit · k) (beq_iff_eq.mp h)
  simpa [hk] using this.symm

theorem subset_trans {a b c : Nat} (h : subset a b = true) (k : subset b c = true) : subset a c = true := by
  have hb : a ||| b = b := beq_iff_eq.mp h
  have hc : b ||| c = c := beq_iff_eq.mp k
  refine beq_iff_eq.mpr ?_
  rw [← hc, ← Nat.or_assoc, hb]

namespace Scope

/-- Some parts and some fields. -/
@[irreducible] def of (ps : List Part) (fs : List Fld) : Scope := ⟨setOf (ps.map Part.no), setOf (fs.map (·.id))⟩

@[irreducible] def has (w : Scope) (p : Part) : Bool := w.parts.testBit p.no

@[irreducible] def writes (w : Scope) (f : Fld) : Bool := decide (f.id < 1024) && w.fields.testBit f.id

/-- Both together. -/
@[irreducible] def union (v w : Scope) : Scope := ⟨v.parts ||| w.parts, v.fields ||| w.fields⟩

@[irreducible] def le (v w : Scope) : Bool := subset v.parts w.parts && subset v.fields w.fields

abbrev Le (v w : Scope) : Prop := v.le w = true

variable {u v w : Scope}

theorem le_iff : v.Le w ↔ subset v.parts w.parts = true ∧ subset v.fields w.fields = true := by
  unfold Le le
  exact Bool.and_eq_true_iff

theorem writes_iff {f : Fld} : w.writes f = true ↔ f.id < 1024 ∧ w.fields.testBit f.id = true := by
  unfold writes
  rw [Bool.and_eq_true_iff, decide_eq_true_iff]

theorem Le.sub (h : v.Le w) (k : u.Le v) : u.Le w := by
  rw [le_iff] at *
  exact ⟨subset_trans k.1 h.1, subset_trans k.2 h.2⟩

theorem Le.has {p : Part} (h : v.Le w) (hp : v.has p = true) : w.has p = true := by
  unfold Scope.has at *
  exact testBit_of_subset (le_iff.mp h).1 hp

theorem Le.writes {f : Fld} (h : v.Le w) (hf : v.writes f = true) : w.writes f = true := by
  rw [writes_iff] at *
  exact ⟨hf.1, testBit_of_subset (le_iff.mp h).2 hf.2⟩

theorem has_of (ps : List Part) (fs : List Fld) (p : Part) : (of ps fs).has p = (ps.map Part.no).contains p.no := by
  unfold has of
  exact testBit_setOf ..

theorem writes_of (ps : List Part) (fs : List Fld) (f : Fld) :
    (of ps fs).writes f = true ↔ f.id < 1024 ∧ (fs.map (·.id)).contains f.id = true := by
  rw [writes_iff, ← testBit_setOf]
  unfold of
  rfl

end Scope

/-! ### Frames -/

theorem Part.same_refl (p : Part) (s : State) : p.same s s = true := by
  cases p <;> exact beq_self_eq_true _

theorem Part.same_trans {p : Part} {s t u : State} (h : p.same s t = true) (k : p.same t u = true) : p.same s u = true := by
  cases p
  case hst =>
    exact beq_iff_eq.mpr ((beq_iff_eq.mp k).trans
      (congrArg (fun x : HostSt => { x with msix := u.hst.msix, mem := u.hst.mem }) (beq_iff_eq.mp h)))
  case mem => exact beq_iff_eq.mpr ((beq_iff_eq.mp k).trans (congrArg (fun x : MemSt => { x with dram := u.mem.dram }) (beq_iff_eq.mp h)))
  case kst => exact beq_iff_eq.mpr ((beq_iff_eq.mp k).trans (congrArg (fun x : KstSt => { x with mem := u.kst.mem }) (beq_iff_eq.mp h)))
  all_goals exact beq_iff_eq.mpr ((beq_iff_eq.mp k).trans (beq_iff_eq.mp h))

/-- `t` differs from `s` in nothing but what the scope names. -/
structure Within (w : Scope) (s t : State) : Prop where
  variant : t.variant = s.variant
  same : ∀ p, w.has p = false → p.same s t = true
  fld : ∀ (f : Fld) (i : Nat), f.id < 1024 → w.writes f = false → t.fld f i = s.fld f i

namespace Within

variable {w : Scope} {b s t : State}

theorem refl (w : Scope) (s : State) : Within w s s := ⟨rfl, fun p _ => p.same_refl s, fun _ _ _ _ => rfl⟩

theorem trans {u : State} (h : Within w s t) (k : Within w t u) : Within w s u :=
  ⟨k.variant.trans h.variant, fun p hp => Part.same_trans (h.same p hp) (k.same p hp),
    fun f i hl hf => (k.fld f i hl hf).trans (h.fld f i hl hf)⟩

/-- A change of one part. -/
theorem put (hs : Within w b s) {p : Part} (hp : w.has p = true) (hv : t.variant = s.variant) (hr : t.regs = s.regs)
    (h : ∀ q, q ≠ p → q.same s t = true) : Within w b t :=
  hs.trans ⟨hv, fun q hq => h q (ne_of_apply_ne w.has (by rw [hq, hp]; decide)), fun f i _ _ => State.fld_congr hv hr f i⟩

theorem now (hp : w.has .now = true) (hs : Within w b s) (x : Nat) : Within w b { s with now := x } :=
  hs.put hp rfl rfl fun q hq => by
    cases q
    case now => exact absurd rfl hq
    all_goals exact beq_self_eq_true _

theorem freeCtr (hp : w.has .freeCtr = true) (hs : Within w b s) (x : Nat) : Within w b { s with freeCtr := x } :=
  hs.put hp rfl rfl fun q hq => by
    cases q
    case freeCtr => exact absurd rfl hq
    all_goals exact beq_self_eq_true _

theorem rng (hp : w.has .rng = true) (hs : Within w b s) (x : RingSt) : Within w b { s with rng := x } :=
  hs.put hp rfl rfl fun q hq => by
    cases q
    case rng => exact absurd rfl hq
    all_goals exact beq_self_eq_true _

theorem pool (hp : w.has .pool = true) (hs : Within w b s) (x : PoolSt) : Within w b { s with pool := x } :=
  hs.put hp rfl rfl fun q hq => by
    cases q
    case pool => exact absurd rfl hq
    all_goals exact beq_self_eq_true _

theorem int (hp : w.has .int = true) (hs : Within w b s) (x : IntSt) : Within w b { s with int := x } :=
  hs.put hp rfl rfl fun q hq => by
    cases q
    case int => exact absurd rfl hq
    all_goals exact beq_self_eq_true _

theorem flt (hp : w.has .flt = true) (hs : Within w b s) (x : FaultSt) : Within w b { s with flt := x } :=
  hs.put hp rfl rfl fun q hq => by
    cases q
    case flt => exact absurd rfl hq
    all_goals exact beq_self_eq_true _

theorem pwr (hp : w.has .pwr = true) (hs : Within w b s) (x : PowerSt) : Within w b { s with pwr := x } :=
  hs.put hp rfl rfl fun q hq => by
    cases q
    case pwr => exact absurd rfl hq
    all_goals exact beq_self_eq_true _

theorem dec (hp : w.has .dec = true) (hs : Within w b s) (x : DecSt) : Within w b { s with dec := x } :=
  hs.put hp rfl rfl fun q hq => by
    cases q
    case dec => exact absurd rfl hq
    all_goals exact beq_self_eq_true _

theorem clb (hp : w.has .clb = true) (hs : Within w b s) (x : ClbSt) : Within w b { s with clb := x } :=
  hs.put hp rfl rfl fun q hq => by
    cases q
    case clb => exact absurd rfl hq
    all_goals exact beq_self_eq_true _

theorem cnv (hp : w.has .cnv = true) (hs : Within w b s) (x : CnvSt) : Within w b { s with cnv := x } :=
  hs.put hp rfl rfl fun q hq => by
    cases q
    case cnv => exact absurd rfl hq
    all_goals exact beq_self_eq_true _

theorem fus (hp : w.has .fus = true) (hs : Within w b s) (x : FusSt) : Within w b { s with fus := x } :=
  hs.put hp rfl rfl fun q hq => by
    cases q
    case fus => exact absurd rfl hq
    all_goals exact beq_self_eq_true _

theorem mze (hp : w.has .mze = true) (hs : Within w b s) (x : MzeSt) : Within w b { s with mze := x } :=
  hs.put hp rfl rfl fun q hq => by
    cases q
    case mze => exact absurd rfl hq
    all_goals exact beq_self_eq_true _

theorem swc (hp : w.has .swc = true) (hs : Within w b s) (x : SwcSt) : Within w b { s with swc := x } :=
  hs.put hp rfl rfl fun q hq => by
    cases q
    case swc => exact absurd rfl hq
    all_goals exact beq_self_eq_true _

theorem sch (hp : w.has .sch = true) (hs : Within w b s) (x : SchSt) : Within w b { s with sch := x } :=
  hs.put hp rfl rfl fun q hq => by
    cases q
    case sch => exact absurd rfl hq
    all_goals exact beq_self_eq_true _

theorem plk (hp : w.has .plk = true) (hs : Within w b s) (x : PlkSt) : Within w b { s with plk := x } :=
  hs.put hp rfl rfl fun q hq => by
    cases q
    case plk => exact absurd rfl hq
    all_goals exact beq_self_eq_true _

theorem rgq (hp : w.has .rgq = true) (hs : Within w b s) (x : RgqSt) : Within w b { s with rgq := x } :=
  hs.put hp rfl rfl fun q hq => by
    cases q
    case rgq => exact absurd rfl hq
    all_goals exact beq_self_eq_true _

theorem enc (hp : w.has .enc = true) (hs : Within w b s) (x : EncSt) : Within w b { s with enc := x } :=
  hs.put hp rfl rfl fun q hq => by
    cases q
    case enc => exact absurd rfl hq
    all_goals exact beq_self_eq_true _

theorem esc (hp : w.has .esc = true) (hs : Within w b s) (x : EscSt) : Within w b { s with esc := x } :=
  hs.put hp rfl rfl fun q hq => by
    cases q
    case esc => exact absurd rfl hq
    all_goals exact beq_self_eq_true _

theorem rgl (hp : w.has .rgl = true) (hs : Within w b s) (x : RglSt) : Within w b { s with rgl := x } :=
  hs.put hp rfl rfl fun q hq => by
    cases q
    case rgl => exact absurd rfl hq
    all_goals exact beq_self_eq_true _

theorem dma (hp : w.has .dma = true) (hs : Within w b s) (x : DmaSt) : Within w b { s with dma := x } :=
  hs.put hp rfl rfl fun q hq => by
    cases q
    case dma => exact absurd rfl hq
    all_goals exact beq_self_eq_true _

theorem setFld {f : Fld} (hp : w.has .regs = true) (hf : w.writes f = true) (hs : Within w b s) (i v : Nat) : Within w b (s.setFld f i v) := by
  obtain ⟨hlt, hbit⟩ := Scope.writes_iff.mp hf
  refine hs.trans ⟨rfl, fun q hq => ?_, fun g j hl hg => State.fld_setFld_other _ _ (fun e => ?_) hlt hl⟩
  · cases q
    case regs => rw [hp] at hq; cases hq
    all_goals exact beq_self_eq_true _
  · rw [Scope.writes_iff.mpr ⟨hl, e ▸ hbit⟩] at hg
    cases hg

theorem hst (hp : w.has .hst = true) (hs : Within w b s) (x : HostSt) (hv : x.msix = s.hst.msix) (hm : x.mem = s.hst.mem) :
    Within w b { s with hst := x } :=
  hs.put hp rfl rfl fun q hq => by
    cases q
    case hst => exact absurd rfl hq
    case msix => exact beq_iff_eq.mpr hv
    case hostMem => exact beq_iff_eq.mpr hm
    all_goals exact beq_self_eq_true _

theorem msix (hp : w.has .msix = true) (hs : Within w b s) (x : Tab MsixVec) : Within w b { s with hst := { s.hst with msix := x } } :=
  hs.put hp rfl rfl fun q hq => by
    cases q
    case msix => exact absurd rfl hq
    all_goals exact beq_self_eq_true _

theorem hostMem (hp : w.has .hostMem = true) (hs : Within w b s) (x : Mem) : Within w b { s with hst := { s.hst with mem := x } } :=
  hs.put hp rfl rfl fun q hq => by
    cases q
    case hostMem => exact absurd rfl hq
    all_goals exact beq_self_eq_true _

theorem mem (hp : w.has .mem = true) (hs : Within w b s) (x : MemSt) (hx : x.dram = s.mem.dram) : Within w b { s with mem := x } :=
  hs.put hp rfl rfl fun q hq => by
    cases q
    case mem => exact absurd rfl hq
    case dram => exact beq_iff_eq.mpr hx
    all_goals exact beq_self_eq_true _

theorem dram (hp : w.has .dram = true) (hs : Within w b s) (x : Mem) : Within w b { s with mem := { s.mem with dram := x } } :=
  hs.put hp rfl rfl fun q hq => by
    cases q
    case dram => exact absurd rfl hq
    all_goals exact beq_self_eq_true _

theorem kst (hp : w.has .kst = true) (hs : Within w b s) (x : KstSt) (hx : x.mem = s.kst.mem) : Within w b { s with kst := x } :=
  hs.put hp rfl rfl fun q hq => by
    cases q
    case kst => exact absurd rfl hq
    case kstMem => exact beq_iff_eq.mpr hx
    all_goals exact beq_self_eq_true _

theorem kstMem (hp : w.has .kstMem = true) (hs : Within w b s) (x : Mem) : Within w b { s with kst := { s.kst with mem := x } } :=
  hs.put hp rfl rfl fun q hq => by
    cases q
    case kstMem => exact absurd rfl hq
    all_goals exact beq_self_eq_true _

/-- The whole keeping store. -/
theorem kstAll (hp : w.has .kst = true) (hm : w.has .kstMem = true) (hs : Within w b s) (x : KstSt) : Within w b { s with kst := x } :=
  (hs.kst hp { x with mem := s.kst.mem } rfl).kstMem hm x.mem

/-- The whole host interface but its vectors. -/
theorem hstAll (hp : w.has .hst = true) (hm : w.has .hostMem = true) (hs : Within w b s) (x : HostSt) (hv : x.msix = s.hst.msix) :
    Within w b { s with hst := x } :=
  (hs.hst hp { x with mem := s.hst.mem } hv rfl).hostMem hm x.mem

/-- The whole memory controller. -/
theorem memAll (hp : w.has .mem = true) (hm : w.has .dram = true) (hs : Within w b s) (x : MemSt) : Within w b { s with mem := x } :=
  (hs.mem hp { x with dram := s.mem.dram } rfl).dram hm x.dram

/-- A change of several parts at once. -/
theorem parts (hs : Within w b s) (ps : List Part) (hp : (Scope.of ps []).Le w) (hv : t.variant = s.variant) (hr : t.regs = s.regs)
    (h : ∀ q, q ∉ ps → q.same s t = true) : Within w b t :=
  hs.trans ⟨hv, fun q hq => h q fun hm => Bool.false_ne_true (hq.symm.trans
    (hp.has ((Scope.has_of ..).trans (List.contains_iff_mem.mpr (List.mem_map_of_mem hm))))), fun f i _ _ => State.fld_congr hv hr f i⟩

/-- A change of any register fields. -/
theorem anyField (hp : w.has .regs = true) (hf : ∀ {f : Fld}, f.id < 1024 → w.writes f = true) (hs : Within w b s) (hv : t.variant = s.variant)
    (h : ∀ q : Part, q ≠ .regs → q.same s t = true) : Within w b t :=
  hs.trans ⟨hv, fun q hq => h q (ne_of_apply_ne w.has (by rw [hq, hp]; decide)), fun f i hl hw => by rw [hf hl] at hw; cases hw⟩

theorem ite {c : Prop} [Decidable c] {x y : State} (hx : Within w b x) (hy : Within w b y) : Within w b (if c then x else y) := by
  split
  · exact hx
  · exact hy

theorem foldl {α : Type} {f : State → α → State} (hs : Within w b s) (hf : ∀ x a, Within w b x → Within w b (f x a)) (l : List α) :
    Within w b (l.foldl f s) :=
  List.foldlRecOn l f hs fun x hx a _ => hf x a hx

theorem foldlPair {α β : Type} {f : β × State → α → β × State} {x : β × State} (hs : Within w b x.2)
    (hf : ∀ x a, Within w b x.2 → Within w b (f x a).2) (l : List α) : Within w b (l.foldl f x).2 :=
  List.foldlRecOn l f (motive := fun x => Within w b x.2) hs fun x hx a _ => hf x a hx

theorem ofPair {α : Type} {x : α × State} {a : α} (e : x = (a, t)) (h : Within w b x.2) : Within w b t := by
  rw [e] at h
  exact h

theorem ofTriple {α β : Type} {x : α × β × State} {a : α} {c : β} (e : x = (a, c, t)) (h : Within w b x.2.2) : Within w b t := by
  rw [e] at h
  exact h

end Within

/-! ### The scopes of latches and reports -/

namespace Scope

/-- A scope with more parts and fields. -/
@[irreducible] def plus (w : Scope) (ps : List Part) (fs : List Fld) : Scope := w.union (of ps fs)

/-- The scope with every register field. -/
@[irreducible] def anyReg (w : Scope) : Scope := ⟨w.parts, setOf (List.range 1024)⟩

theorem writes_anyReg (w : Scope) {f : Fld} (h : f.id < 1024) : w.anyReg.writes f = true := by
  rw [writes_iff]
  unfold anyReg
  exact ⟨h, (testBit_setOf ..).trans (List.contains_iff_mem.mpr (List.mem_range.mpr h))⟩

/-- What a latch of a fault source may change. -/
@[irreducible] def latch : Scope := of Part.latch Part.latchFields

/-- What a record, a message or an event may change. -/
@[irreducible] def report : Scope := of Part.report Part.latchFields

end Scope

/-- In a scope with every register field, a write of any field. -/
theorem Within.setAny {w : Scope} {b s : State} (le : (Scope.of [.regs] []).anyReg.Le w) (hs : Within w b s) (f : Fld) (i v : Nat) :
    Within w b (s.setFld f i v) :=
  hs.anyField (le.has (by decide +kernel)) (fun h => le.writes (Scope.writes_anyReg _ h)) rfl
    fun q hq => by
      cases q
      case regs => exact absurd rfl hq
      all_goals exact beq_self_eq_true _

section
variable {scope : Scope} {old s : State}

theorem State.count_changes {f : Fld} (hp : scope.has .regs = true) (hf : scope.writes f = true) (within : Within scope old s) (i n : Nat) :
    Within scope old (s.count f i n) := within.setFld hp hf ..

theorem State.countSat_changes {f : Fld} (hp : scope.has .regs = true) (hf : scope.writes f = true) (within : Within scope old s) (i n : Nat) :
    Within scope old (s.countSat f i n) := within.setFld hp hf ..

end

end Sys2Proof.Machine
end

section
/-! PROOFS. Frames of the operations of interrupts, faults, the keeping store, host and device memory, records and self checks
(16_dma.md to 19_memory_and_keeping_store.md, 03_rings_and_jobs.md). -/

namespace Sys2Proof.Machine

section
-- The lemmas are many and small: one after another they need one thread only.
set_option Elab.async false

variable {scope : Scope} {old s : State}

theorem State.clearPage_changes (le : (Scope.of [.regs] []).anyReg.Le scope) (within : Within scope old s) (blk inst : Nat)
    (keep : List Fld) :
    Within scope old (s.clearPage blk inst keep) :=
  within.anyField (le.has (by decide +kernel)) (fun hf => le.writes (Scope.writes_anyReg _ hf)) rfl
    fun q hq => by
      cases q
      case regs => exact absurd rfl hq
      all_goals exact beq_self_eq_true _

theorem State.freeWord_changes (le : (Scope.of [.freeCtr] []).Le scope) (within : Within scope old s) :
    Within scope old (s.freeWord).2 := by
  unfold State.freeWord
  with_reducible apply_rules [within, Within.freeCtr, le.has, le.sub, le.writes]
  decide +kernel

theorem State.setSrc_changes (le : (Scope.of [.int] []).Le scope) (within : Within scope old s) (id : Nat) (x : IntSrc) :
    Within scope old (s.setSrc id x) := by
  unfold State.setSrc
  with_reducible apply_rules [within, Within.int, le.has, le.sub, le.writes]
  decide +kernel

theorem State.setTgt_changes (le : (Scope.of [.int] []).Le scope) (within : Within scope old s) (g : Nat) (x : IntTgt) :
    Within scope old (s.setTgt g x) := by
  unfold State.setTgt
  with_reducible apply_rules [within, Within.int, le.has, le.sub, le.writes]
  decide +kernel

theorem State.setVec_changes (le : (Scope.of [.msix] []).Le scope) (within : Within scope old s) (v : Nat) (x : MsixVec) :
    Within scope old (s.setVec v x) := by
  unfold State.setVec
  with_reducible apply_rules [within, Within.msix, le.has, le.sub, le.writes]
  decide +kernel

theorem State.sendMsix_changes (le : (Scope.of [.regs, .msix] [Reg.INT_HOST_MSGS]).Le scope) (within : Within scope old s)
    (v : Nat) :
    Within scope old (s.sendMsix v) := by
  unfold State.sendMsix
  with_reducible apply_rules [within, State.setVec_changes, State.count_changes, Within.ite, le.has, le.sub,
                              le.writes] <;> decide +kernel

theorem State.hostMsg_changes (le : (Scope.of [.regs, .msix] [Reg.INT_HOST_MSGS]).Le scope) (within : Within scope old s)
    (before : State) (id : Nat) :
    Within scope old (s.hostMsg before id) := by
  unfold State.hostMsg
  with_reducible apply_rules [within, State.sendMsix_changes, Within.ite, le.has, le.sub, le.writes]

theorem State.rrAssign_changes (le : (Scope.of [.regs, .int] [Reg.INT_RR_PTR]).Le scope) (within : Within scope old s) (id : Nat) :
    Within scope old (s.rrAssign id) := by
  unfold State.rrAssign
  dsimp only
  (repeat' split) <;> with_reducible apply_rules [within, State.setSrc_changes, Within.setFld, Within.ite, le.has, le.sub,
                                                  le.writes] <;> decide +kernel

theorem State.intEdge_changes (le : (Scope.of [.regs, .msix, .int] [Reg.INT_HOST_MSGS, Reg.INT_RR_PTR]).Le scope) (within :
    Within scope old s) (id : Nat) :
    Within scope old (s.intEdge id) := by
  unfold State.intEdge
  with_reducible apply_rules [within, State.hostMsg_changes, State.rrAssign_changes, State.setSrc_changes, Within.ite, le.has,
                              le.sub, le.writes] <;> decide +kernel

theorem State.privEdge_changes (le : (Scope.of [.int] []).Le scope) (within : Within scope old s) (g id : Nat) :
    Within scope old (s.privEdge g id) := by
  unfold State.privEdge
  with_reducible apply_rules [within, State.setTgt_changes, le.has, le.sub, le.writes]

theorem State.pinEdge_changes (le : (Scope.of [.regs, .msix, .int] [Reg.INT_HOST_MSGS, Reg.INT_RR_PTR]).Le scope) (within :
    Within scope old s) (before : State) :
    Within scope old (s.pinEdge before) := by
  unfold State.pinEdge
  with_reducible apply_rules [within, State.intEdge_changes, Within.ite, le.has, le.sub, le.writes]

theorem State.latchEffects_changes (le : (Scope.of [.regs, .msix, .int, .flt] [Reg.INT_HOST_MSGS, Reg.INT_RR_PTR]).Le scope)
    (within : Within scope old s) (c : Nat) :
    Within scope old (s.latchEffects c) := by
  unfold State.latchEffects
  with_reducible apply_rules [within, State.pinEdge_changes, Within.flt, Within.ite, le.has, le.sub, le.writes] <;> decide +kernel

theorem State.collect_changes (le : (Scope.of [.regs, .msix, .int, .flt] [Reg.FLT_COUNT, Reg.INT_HOST_MSGS,
    Reg.INT_RR_PTR]).Le scope) (within : Within scope old s) (c : Nat) :
    Within scope old (s.collect c) := by
  unfold State.collect
  with_reducible apply_rules [within, State.latchEffects_changes, State.intEdge_changes, State.count_changes, le.has, le.sub,
                              le.writes] <;> decide +kernel

theorem State.setSticky_changes (le : (Scope.of [.regs] [Reg.PG_ERR_STICKY]).Le scope) (within : Within scope old s)
    (page b : Nat) :
    Within scope old (s.setSticky page b) := by
  unfold State.setSticky
  with_reducible apply_rules [within, Within.setFld, Within.ite, le.has, le.sub, le.writes] <;> decide +kernel

theorem State.latchCore_changes (le : (Scope.of [.regs, .msix, .int, .flt] [Reg.FLT_COUNT, Reg.INT_HOST_MSGS, Reg.INT_RR_PTR,
    Reg.PG_ERR_STICKY]).Le scope) (within : Within scope old s) (src : Src) (inst : Nat) :
    Within scope old (s.latchCore src inst) := by
  unfold State.latchCore
  with_reducible apply_rules [within, State.setSticky_changes, State.collect_changes, Within.ite, le.has, le.sub,
                              le.writes] <;> decide +kernel

theorem State.takeInject_changes (le : (Scope.of [.regs] [Reg.PG_ERR_INJECT_COUNT]).Le scope) (within :
    Within scope old s) {src : Src}
    {inst : Nat} {t : State} (ht : s.takeInject src inst = some t) : Within scope old t := by
  unfold State.takeInject at ht
  dsimp only at ht
  split at ht
  · cases ht
    exact within.setFld (le.has (by decide +kernel)) (le.writes (by decide +kernel)) ..
  · cases ht

theorem State.collectorCheck_changes (le : (Scope.of [.regs, .msix, .int, .flt] [Reg.FLT_COUNT, Reg.INT_HOST_MSGS, Reg.INT_RR_PTR,
    Reg.PG_ERR_INJECT_COUNT, Reg.PG_ERR_STICKY]).Le scope) (within : Within scope old s) : Within scope old s.collectorCheck := by
  unfold State.collectorCheck
  split
  next t ht => exact State.latchCore_changes (le.sub (by decide +kernel)) (State.takeInject_changes (le.sub
      (by decide +kernel)) within ht) ..
  next => exact within

theorem State.logFault_changes (le : (Scope.of [.regs, .msix, .int, .flt, .kst, .kstMem] [Reg.FLT_COUNT, Reg.FLT_LOG_COUNT,
    Reg.INT_HOST_MSGS, Reg.INT_RR_PTR, Reg.PG_ERR_STICKY]).Le scope) (within : Within scope old s) (src : Src) (inst cls : Nat) :
    Within scope old (s.logFault src inst cls) := by
  have logged := within.flt (le.has (by decide +kernel)) { s.flt with logged :=
      (pageOf src.blk inst * 32 + src.bit) :: s.flt.logged }
  have core : ∀ {t : State}, Within scope old t → ∀ f i, Within scope old (t.latchCore f i) := fun h f i =>
    State.latchCore_changes (le.sub (by decide +kernel)) h f i
  have counted : ∀ {t : State}, Within scope old t → Within scope old (t.count Reg.FLT_LOG_COUNT) := fun h =>
    State.count_changes (le.has (by decide +kernel)) (le.writes (by decide +kernel)) h ..
  have stored := fun k => logged.kstAll (le.has (by decide +kernel)) (le.has (by decide +kernel)) k
  unfold State.logFault
  dsimp only
  split
  · exact core (core (stored _) ..) ..
  · split
    · exact core (counted (stored _)) ..
    · exact counted (stored _)

theorem State.latch_changes (le : Scope.latch.Le scope) (within : Within scope old s) (src : Src) (inst : Nat) :
    Within scope old (s.latch src inst) := by
  unfold State.latch
  with_reducible apply_rules [within, State.latchCore_changes, State.collectorCheck_changes, State.logFault_changes, Within.ite,
                              le.has, le.sub, le.writes] <;> decide +kernel

theorem State.causeOn_changes (le : Scope.latch.Le scope) (within : Within scope old s) (src : Src) (inst : Nat) :
    Within scope old (s.causeOn src inst) := by
  unfold State.causeOn
  dsimp only
  split <;> with_reducible apply_rules [within, State.latch_changes, Within.flt, Within.ite, le.has, le.sub,
                                        le.writes] <;> decide +kernel

theorem State.causeOff_changes (le : (Scope.of [.flt] []).Le scope) (within : Within scope old s) (src : Src) (inst : Nat) :
    Within scope old (s.causeOff src inst) := by
  unfold State.causeOff
  with_reducible apply_rules [within, Within.flt, le.has, le.sub, le.writes]
  decide +kernel

theorem State.badId_changes (le : Scope.latch.Le scope) (within : Within scope old s) (blk inst : Nat) :
    Within scope old (s.badId blk inst) := by
  unfold State.badId
  with_reducible apply_rules [within, State.latch_changes, le.has, le.sub, le.writes]

theorem State.clampHit_changes (le : Scope.latch.Le scope) (within : Within scope old s) (blk inst : Nat) :
    Within scope old (s.clampHit blk inst) := by
  unfold State.clampHit
  with_reducible apply_rules [within, State.latch_changes, le.has, le.sub, le.writes]

theorem State.kstWrite_changes (le : Scope.latch.Le scope) (within : Within scope old s) {off : Nat} {bs : Bytes} {t : State}
    (ht : s.kstWrite off bs = some t) : Within scope old t := by
  have stored := within.kstAll (le.has (by decide +kernel)) (le.has (by decide +kernel)) (s.kst.put off bs)
  unfold State.kstWrite at ht
  split at ht
  · cases ht
  · cases ht
    exact .ite (State.latch_changes le stored ..) stored

theorem State.wearOut_changes (le : Scope.latch.Le scope) (within : Within scope old s) (off : Nat) : Within scope old
    (s.wearOut off) :=
  State.latch_changes le (within.kst (le.has (by decide +kernel)) (s.kst.shut off) (KstSt.shut_mem ..)) ..

theorem State.readsAccepted_changes (le : (Scope.of [.mem] []).Le scope) (within : Within scope old s) (a len : Nat) :
    Within scope old (s.readsAccepted a len) :=
  within.mem (le.has (by decide +kernel)) _ (MemSt.reads_dram ..)

theorem State.touchDram_changes (le : (Scope.of [.pool, .dram] []).Le scope) (within : Within scope old s) (a len : Nat) :
    Within scope old (s.touchDram a len) :=
  within.foldl (fun t i h => by
    exact h.parts [.pool, .dram] (le.sub (by decide +kernel)) rfl rfl
      fun q hq => by
        cases q
        case pool | dram => exact absurd (by decide) hq
        all_goals exact beq_self_eq_true _) _

theorem State.dramPut_changes (le : (Scope.of [.pool, .mem, .dram] []).Le scope) (within : Within scope old s) (a : Nat)
    (bs : Bytes) :
    Within scope old (s.dramPut a bs) :=
  (State.touchDram_changes (le.sub (by decide +kernel)) within a bs.length).memAll (le.has (by decide +kernel)) (le.has
      (by decide +kernel)) _

theorem State.request_changes (le : (Scope.of [.hst] []).Le scope) (within : Within scope old s) (q : HostReq) :
    Within scope old (s.request q) := by
  unfold State.request
  with_reducible apply_rules [within, Within.hst, le.has, le.sub, le.writes]
  decide +kernel

theorem State.linePut_changes (le : (Scope.of [.hst, .pool, .mem, .dram] []).Le scope) (within : Within scope old s) (w : BiWrite) :
    Within scope old (s.linePut w) := by
  unfold State.linePut
  dsimp only
  (repeat' split) <;> with_reducible apply_rules [within, State.dramPut_changes, State.request_changes, Within.hst, Within.ite,
                                                  le.has, le.sub, le.writes] <;> decide +kernel

theorem State.devWrite_changes (le : (Scope.of [.hst, .pool, .mem, .dram] []).Le scope) (within : Within scope old s) (a : Nat)
    (bs : Bytes) :
    Within scope old (s.devWrite a bs) :=
  .ite (within.foldl (fun _ w h => State.linePut_changes le h w) _) (State.dramPut_changes (le.sub (by decide +kernel)) within a bs)

theorem State.biasRead_changes (le : (Scope.of [.hst, .mem] []).Le scope) (within : Within scope old s) (a len : Nat) :
    Within scope old (s.biasRead a len) := by
  have read := State.readsAccepted_changes (le.sub (by decide +kernel)) within a len
  exact .ite read (read.foldl (fun t l h => State.request_changes (le.sub (by decide +kernel)) h _) _)

theorem State.hostReq_changes (le : (Scope.of [.hst] []).Le scope) (within : Within scope old s) (k : ReqKind) (a len : Nat)
    (t_4 : Option Nat) :
    Within scope old (s.hostReq k a len t_4) := by
  unfold State.hostReq
  with_reducible apply_rules [within, State.request_changes, le.has, le.sub, le.writes]

theorem State.hostPut_changes (le : (Scope.of [.hst, .hostMem] []).Le scope) (within : Within scope old s) (k : ReqKind) (a : Nat)
    (bs : Bytes)
    (t : Option Nat) : Within scope old (s.hostPut k a bs t) :=
  (State.hostReq_changes (le.sub (by decide +kernel)) within k a bs.length t).hostMem (le.has (by decide +kernel)) _

theorem State.hostWrite_changes (le : (Scope.of [.hst, .hostMem] []).Le scope) (within : Within scope old s) (a : Nat) (bs : Bytes)
    (t_3 : Option Nat) :
    Within scope old (s.hostWrite a bs t_3) := by
  unfold State.hostWrite
  with_reducible apply_rules [within, State.hostPut_changes, le.has, le.sub, le.writes]

theorem State.spaceWrite_changes (le : (Scope.of [.hst, .hostMem, .pool, .mem, .dram] []).Le scope) (within : Within scope old s)
    (dev : Bool) (a : Nat) (bs : Bytes) (t_4 : Option Nat) :
    Within scope old (s.spaceWrite dev a bs t_4) := by
  unfold State.spaceWrite
  with_reducible apply_rules [within, State.devWrite_changes, State.hostWrite_changes, Within.ite, le.has, le.sub,
                              le.writes] <;> decide +kernel

theorem State.writeBack_changes (le : (Scope.of [.hst, .hostMem] []).Le scope) (within : Within scope old s) (line : Nat)
    (c : CacheLine) :
    Within scope old (s.writeBack line c) := by
  have put : ∀ {t : State}, Within scope old t → ∀ a bs, Within scope old (t.hostPut .writeBack a bs none) := fun h a bs =>
    State.hostPut_changes le h _ a bs _
  refine .ite within ?_
  cases c.lo <;> cases c.hi <;> dsimp only
  · exact within
  · exact put within ..
  · exact put within ..
  · exact put (put within ..) ..

theorem State.dropLine_changes (le : (Scope.of [.hst, .hostMem] []).Le scope) (within : Within scope old s) (line : Nat) :
    Within scope old (s.dropLine line) := by
  unfold State.dropLine
  split <;> with_reducible apply_rules [within, State.writeBack_changes, Within.hst, le.has, le.sub, le.writes] <;> decide +kernel

theorem State.cacheRoom_changes (le : (Scope.of [.freeCtr, .hst, .hostMem] []).Le scope) (within : Within scope old s) :
    Within scope old (s.cacheRoom) := by
  unfold State.cacheRoom
  dsimp only
  (repeat' split) <;> with_reducible apply_rules [within, State.dropLine_changes, State.hostReq_changes, Within.freeCtr, Within.ite,
                                                  le.has, le.sub, le.writes] <;> decide +kernel

theorem State.cachePut_changes (le : (Scope.of [.freeCtr, .hst, .hostMem] []).Le scope) (within : Within scope old s) (k : ReqKind)
    (a : Nat) (bs : Bytes) (dirty : Bool) (t_5 : Option Nat) :
    Within scope old (s.cachePut k a bs dirty t_5) := by
  unfold State.cachePut
  dsimp only
  (repeat' split) <;> with_reducible apply_rules [within, State.cacheRoom_changes, State.hostReq_changes, Within.hst, Within.ite,
                                                  le.has, le.sub, le.writes] <;> decide +kernel

theorem State.setRing_changes (le : (Scope.of [.rng] []).Le scope) (within : Within scope old s) (r : Nat) (x : Ring) :
    Within scope old (s.setRing r x) := by
  unfold State.setRing
  with_reducible apply_rules [within, Within.rng, le.has, le.sub, le.writes]
  decide +kernel

theorem State.mergeItem_changes (le : (Scope.of [.freeCtr, .hst, .hostMem] []).Le scope) (within : Within scope old s) (a : Nat)
    (bs : Bytes) (t_3 : Option Nat) :
    Within scope old (s.mergeItem a bs t_3) := by
  unfold State.mergeItem
  with_reducible apply_rules [within, State.cachePut_changes, State.hostPut_changes, Within.hst, le.has, le.sub,
                              le.writes] <;> decide +kernel

theorem State.wholeLine_changes (le : (Scope.of [.hst, .hostMem] []).Le scope) (within : Within scope old s) (a : Nat) (bs : Bytes)
    (t_3 : Option Nat) :
    Within scope old (s.wholeLine a bs t_3) := by
  unfold State.wholeLine
  with_reducible apply_rules [within, State.hostPut_changes, Within.hst, le.has, le.sub, le.writes]
  decide +kernel

theorem State.putCoherent_changes (le : (Scope.of [.freeCtr, .hst, .hostMem] []).Le scope) (within : Within scope old s) (r : Nat)
    (x : Ring) (i : Nat)
    (items : List (Nat → Bytes)) : Within scope old (s.putCoherent r x i items) := by
  induction s, i, items using State.putCoherent.induct r x with
  | case1 => exact within
  | case2 s i item => exact State.mergeItem_changes le within ..
  | case3 s i item next rest j hline ih =>
    unfold State.putCoherent
    rw [if_pos hline]
    exact ih (State.wholeLine_changes (le.sub (by decide +kernel)) within ..)
  | case4 s i item next rest j hline ih =>
    unfold State.putCoherent
    rw [if_neg hline]
    exact ih (State.mergeItem_changes le within ..)

theorem State.putItems_changes (le : (Scope.of [.hst, .hostMem, .pool, .mem, .dram] []).Le scope) (within : Within scope old s)
    (r : Nat) (x : Ring) (i : Nat)
    (items : List (Nat → Bytes)) : Within scope old (s.putItems r x i items) := by
  induction items generalizing s i with
  | nil => exact within
  | cons item rest ih => exact ih (State.spaceWrite_changes (le.sub (by decide +kernel)) within ..) _

theorem State.recordAt_changes (le : (Scope.of [.freeCtr, .hst, .hostMem, .rng, .pool, .mem, .dram] []).Le scope) (within :
    Within scope old s) (r cls : Nat) (items : List (Nat → Bytes)) :
    Within scope old (s.recordAt r cls items) := by
  unfold State.recordAt
  with_reducible apply_rules [within, State.setRing_changes, State.putCoherent_changes, State.putItems_changes, Within.ite, le.has,
                              le.sub, le.writes] <;> decide +kernel

theorem State.loseEvent_changes (le : (Scope.of [.rng] []).Le scope) (within : Within scope old s) (r : Nat) :
    Within scope old (s.loseEvent r) := by
  unfold State.loseEvent
  with_reducible apply_rules [within, State.setRing_changes, Within.ite, le.has, le.sub, le.writes]

theorem State.recordN_changes (le : Scope.report.Le scope) (within : Within scope old s) (r cls : Nat) (items : List (Nat → Bytes))
    (n : Nat) :
    Within scope old (s.recordN r cls items n) := by
  have written : ∀ {t : State}, Within scope old t → ∀ r cls items, Within scope old
      (t.recordAt r cls items) := fun h r cls items =>
    State.recordAt_changes (le.sub (by decide +kernel)) h r cls items
  induction n generalizing s r cls items with
  | zero => exact written within ..
  | succ n ih =>
    unfold State.recordN
    dsimp only
    split
    · exact written within ..
    · split
      next => exact written within ..
      next t ht =>
        have halted := State.setRing_changes (le.sub (by decide +kernel)) (State.takeInject_changes (le.sub
            (by decide +kernel)) within ht) r (s.ring r).halt
        exact written (State.latch_changes (le.sub (by decide +kernel))
          (.ite (ih halted ..) (State.loseEvent_changes (le.sub (by decide +kernel)) halted _)) ..) ..

theorem State.record_changes (le : Scope.report.Le scope) (within : Within scope old s) (r cls : Nat) (items : List (Nat → Bytes)) :
    Within scope old (s.record r cls items) := by
  unfold State.record
  with_reducible apply_rules [within, State.recordN_changes, le.has, le.sub, le.writes]

theorem State.eventTo_changes (le : Scope.report.Le scope) (within : Within scope old s) (r : Nat) (en : Bool)
    (code blk source : Nat) (args : List Nat) :
    Within scope old (s.eventTo r en code blk source args) := by
  unfold State.eventTo
  with_reducible apply_rules [within, State.record_changes, State.loseEvent_changes, Within.ite, le.has, le.sub, le.writes]
  decide +kernel

theorem State.event_changes (le : Scope.report.Le scope) (within : Within scope old s) (ring en : Fld) (code blk source : Nat)
    (args : List Nat) :
    Within scope old (s.event ring en code blk source args) := by
  unfold State.event
  with_reducible apply_rules [within, State.eventTo_changes, le.has, le.sub, le.writes]

theorem State.ringEvent_changes (le : Scope.report.Le scope) (within : Within scope old s) (r code : Nat) (args : List Nat) :
    Within scope old (s.ringEvent r code args) := by
  unfold State.ringEvent
  with_reducible apply_rules [within, State.eventTo_changes, le.has, le.sub, le.writes]

theorem State.streamEvent_changes (le : Scope.report.Le scope) (within : Within scope old s) (st blk code : Nat) (args : List Nat) :
    Within scope old (s.streamEvent st blk code args) := by
  unfold State.streamEvent
  split <;> with_reducible apply_rules [within, State.eventTo_changes, le.has, le.sub, le.writes]

theorem State.completion_changes (le : Scope.report.Le scope) (within : Within scope old s)
    (ring index tag abi status r0 r1 r2 r3 : Nat) :
    Within scope old (s.completion ring index tag abi status r0 r1 r2 r3) := by
  unfold State.completion
  with_reducible apply_rules [within, State.record_changes, Within.ite, le.has, le.sub, le.writes]

theorem State.finish_changes (le : Scope.report.Le scope) (within : Within scope old s) (j status r0 r1 r2 r3 : Nat) :
    Within scope old (s.finish j status r0 r1 r2 r3) := by
  unfold State.finish
  dsimp only
  (repeat' split) <;> with_reducible apply_rules [within, State.completion_changes, Within.rng, Within.ite, le.has, le.sub,
                                                  le.writes] <;> decide +kernel

theorem State.start_changes (le : (Scope.of [.rng] []).Le scope) (within : Within scope old s) (j work : Nat) :
    Within scope old (s.start j work) := by
  unfold State.start
  with_reducible apply_rules [within, Within.rng, le.has, le.sub, le.writes]
  decide +kernel

theorem State.absentPage_changes (le : Scope.latch.Le scope) (within : Within scope old s) (page : Nat) :
    Within scope old (s.absentPage page) := by
  unfold State.absentPage
  with_reducible apply_rules [within, State.latch_changes, Within.ite, le.has, le.sub, le.writes]

theorem State.relatch_changes (le : Scope.latch.Le scope) (within : Within scope old s) (blk inst mask : Nat) (keys : List Nat) :
    Within scope old (s.relatch blk inst mask keys) := by
  induction keys generalizing s with
  | nil => exact within
  | cons key keys ih => exact ih (.ite (State.latch_changes le within ..) within)

theorem State.stickyW1c_changes (le : Scope.latch.Le scope) (within : Within scope old s) (blk inst v : Nat) :
    Within scope old (s.stickyW1c blk inst v) := by
  unfold State.stickyW1c
  with_reducible apply_rules [within, State.relatch_changes, Within.setFld, le.has, le.sub, le.writes] <;> decide +kernel

theorem State.disarm_changes (le : (Scope.of [.flt] []).Le scope) (within : Within scope old s) (blk : Nat) :
    Within scope old (s.disarm blk) := by
  unfold State.disarm
  split <;> with_reducible apply_rules [within, Within.flt, Within.ite, le.has, le.sub, le.writes] <;> decide +kernel

theorem State.underParity_changes (le : Scope.latch.Le scope) (within : Within scope old s) (blk inst : Nat) (f : State → State)
    (hf : ∀ x, Within scope old x → Within scope old (f x)) : Within scope old (s.underParity blk inst f) := by
  unfold State.underParity
  split
  next t ht => exact State.latch_changes le (hf t (State.takeInject_changes (le.sub (by decide +kernel)) within ht)) ..
  next => exact hf s within

theorem State.onInst_changes (le : Scope.latch.Le scope) (within : Within scope old s) (blk inst rsv : Nat) (f : State → State)
    (hf : ∀ x, Within scope old x → Within scope old (f x)) : Within scope old (s.onInst blk inst rsv f) := by
  unfold State.onInst
  split
  · exact State.underParity_changes le (State.disarm_changes (le.sub (by decide +kernel)) within _) _ _ _
      fun t h => hf _ (.ite h (State.latch_changes le h ..))
  · exact State.absentPage_changes le within _

theorem State.regCmd_changes (le : Scope.latch.Le scope) (within : Within scope old s) (blk inst rsv : Nat) (f : State → State)
    (hf : ∀ x, Within scope old x → Within scope old (f x)) :
    Within scope old (s.regCmd blk inst rsv f) := by
  unfold State.regCmd
  with_reducible apply_rules [within, State.onInst_changes, Within.ite, hf, le.has, le.sub, le.writes]

theorem State.hostCmd_changes (le : Scope.latch.Le scope) (within : Within scope old s) (blk inst rsv : Nat) (f : State → State)
    (hf : ∀ x, Within scope old x → Within scope old (f x)) :
    Within scope old (s.hostCmd blk inst rsv f) := by
  unfold State.hostCmd
  with_reducible apply_rules [within, State.onInst_changes, Within.ite, hf, le.has, le.sub, le.writes]

theorem State.onPage_changes (le : Scope.latch.Le scope) (within : Within scope old s) (page rsv : Nat)
    (f : State → Nat → Nat → State)
    (hf : ∀ x blk inst, Within scope old x → Within scope old (f x blk inst)) : Within scope old (s.onPage page rsv f) := by
  unfold State.onPage
  split
  · exact within
  · split
    next blk inst _ => exact State.onInst_changes le within _ _ _ _ fun t h => hf t blk inst h
    next => exact State.absentPage_changes le within _

theorem State.enableLatches_changes (le : (Scope.of [.regs, .msix, .int, .flt, .kst, .kstMem] [Reg.FLT_COUNT, Reg.FLT_LOG_COUNT,
    Reg.INT_HOST_MSGS, Reg.INT_RR_PTR, Reg.PG_ERR_STICKY]).Le scope) (within : Within scope old s) (blk inst old' new : Nat)
    (bs : List Nat) :
    Within scope old (s.enableLatches blk inst old' new bs) := by
  induction bs generalizing s with
  | nil => exact within
  | cons b bs ih =>
    have collected := State.collect_changes (le.sub (by decide +kernel)) within (s.effClass (srcAt blk b) inst)
    exact ih (.ite (.ite (State.logFault_changes (le.sub (by decide +kernel)) collected ..) collected) within)

theorem State.errEnable_changes (le : (Scope.of [.regs, .msix, .int, .flt, .kst, .kstMem] [Reg.FLT_COUNT, Reg.FLT_LOG_COUNT,
    Reg.INT_HOST_MSGS, Reg.INT_RR_PTR, Reg.PG_ERR_ENABLE, Reg.PG_ERR_STICKY]).Le scope) (within : Within scope old s)
    (blk inst v : Nat) :
    Within scope old (s.errEnable blk inst v) := by
  unfold State.errEnable
  with_reducible apply_rules [within, State.enableLatches_changes, Within.setFld, le.has, le.sub, le.writes] <;> decide +kernel

theorem State.errInject_changes (le : (Scope.latch.plus [] [Reg.PG_ERR_INJECT_DOUBLE, Reg.PG_ERR_INJECT_SOURCE]).Le scope)
    (within : Within scope old s) (blk inst v : Nat) :
    Within scope old (s.errInject blk inst v) := by
  unfold State.errInject
  with_reducible apply_rules [within, State.latch_changes, Within.setFld, Within.ite, le.has, le.sub, le.writes] <;> decide +kernel

theorem State.check_changes (le : Scope.latch.Le scope) (within : Within scope old s) (src : Src) (inst : Nat) :
    Within scope old (s.check src inst) := by
  unfold State.check
  split
  next t ht => exact State.latch_changes le (State.takeInject_changes (le.sub (by decide +kernel)) within ht) ..
  next => exact within

theorem State.eccCheck_changes (le : (Scope.of [.regs] [Reg.PG_ERR_INJECT_COUNT]).Le scope) (within : Within scope old s)
    (ce ue : Src) :
    Within scope old (s.eccCheck ce ue).2 := by
  unfold State.eccCheck
  dsimp only
  (repeat' split) <;> with_reducible apply_rules [within, State.takeInject_changes, Within.ite, le.has, le.sub, le.writes]

theorem State.clearKeys_changes (le : (Scope.of [.hst] []).Le scope) (within : Within scope old s) :
    Within scope old (s.clearKeys) := by
  unfold State.clearKeys
  with_reducible apply_rules [within, Within.hst, le.has, le.sub, le.writes]
  decide +kernel

theorem State.unlockKey_changes (le : (Scope.latch.plus [.hst] [Reg.HST_LINK_STATUS_IDE_ACTIVE]).Le scope) (within :
    Within scope old s) (key : Nat) :
    Within scope old (s.unlockKey key) := by
  unfold State.unlockKey
  dsimp only
  (repeat' split) <;> with_reducible apply_rules [within, State.latch_changes, State.clearKeys_changes, Within.flt, Within.setFld,
                                                  Within.ite, le.has, le.sub, le.writes] <;> decide +kernel

theorem State.unlockWrite_changes (le : (Scope.latch.plus [.hst] [Reg.HST_LINK_STATUS_IDE_ACTIVE]).Le scope) (within :
    Within scope old s) (v : Nat) :
    Within scope old (s.unlockWrite v) :=
  .ite within (State.underParity_changes (le.sub (by decide +kernel)) within _ _ _ fun _ h =>
    State.unlockKey_changes le (.ite h (State.latch_changes (le.sub (by decide +kernel)) h ..)) _)

theorem State.jtagSet_changes (le : (Scope.of [.flt] []).Le scope) (within : Within scope old s) (instr : Nat) :
    Within scope old (s.jtagSet instr) := by
  unfold State.jtagSet
  with_reducible apply_rules [within, Within.flt, le.has, le.sub, le.writes]
  decide +kernel

theorem State.setEsc_changes (le : (Scope.of [.esc] []).Le scope) (within : Within scope old s) (kind i : Nat) (x : Escapement) :
    Within scope old (s.setEsc kind i x) := by
  unfold State.setEsc
  with_reducible apply_rules [within, Within.esc, le.has, le.sub, le.writes]
  decide +kernel

theorem State.escRequest_changes (le : (Scope.of [.esc] []).Le scope) (within : Within scope old s) (kind i : Nat) (stop : Bool) :
    Within scope old (s.escRequest kind i stop) := by
  unfold State.escRequest
  with_reducible apply_rules [within, State.setEsc_changes, Within.ite, le.has, le.sub, le.writes]

theorem State.escAdopt_changes (le : (Scope.of [.esc] []).Le scope) (within : Within scope old s) (kind i : Nat) :
    Within scope old (s.escAdopt kind i) := by
  unfold State.escAdopt
  with_reducible apply_rules [within, State.setEsc_changes, Within.ite, le.has, le.sub, le.writes]

theorem State.escAdoptAll_changes (le : (Scope.of [.esc] []).Le scope) (within : Within scope old s) (kind : Nat) :
    Within scope old (s.escAdoptAll kind) := by
  unfold State.escAdoptAll
  refine within.foldl (fun t a within => ?_) _
  with_reducible apply_rules [within, State.escAdopt_changes, Within.foldl, le.has, le.sub, le.writes]

theorem State.escInstall_changes (le : (Scope.of [.esc] []).Le scope) (within : Within scope old s) (kind : Nat) (im : EscImage) :
    Within scope old (s.escInstall kind im) := by
  unfold State.escInstall
  with_reducible apply_rules [within, Within.esc, le.has, le.sub, le.writes]
  decide +kernel

theorem State.errLog_changes (le : (Scope.of [.regs, .mem] [Reg.MEM_ERRLOG_CTL_HEAD, Reg.MEM_ERRLOG_CTL_LOST,
    Reg.MEM_ERRLOG_CTL_VALID]).Le scope) (within : Within scope old s) (line channel port kind : Nat) :
    Within scope old (s.errLog line channel port kind) := by
  unfold State.errLog
  dsimp only
  split <;> with_reducible apply_rules [within, State.countSat_changes, Within.mem, Within.setFld, Within.ite, le.has, le.sub,
                                        le.writes] <;> decide +kernel

theorem State.memCorrected_changes (le : (Scope.latch.plus [] [Reg.MEM_CE_COUNT]).Le scope) (within : Within scope old s)
    (channel : Nat) :
    Within scope old (s.memCorrected channel) := by
  unfold State.memCorrected
  with_reducible apply_rules [within, State.latch_changes, State.count_changes, le.has, le.sub, le.writes] <;> decide +kernel

theorem State.memUncorrectable_changes (le : (Scope.latch.plus [.mem] [Reg.MEM_ERRLOG_CTL_HEAD, Reg.MEM_ERRLOG_CTL_LOST,
    Reg.MEM_ERRLOG_CTL_VALID]).Le scope) (within : Within scope old s) (line channel port kind : Nat) :
    Within scope old (s.memUncorrectable line channel port kind) := by
  unfold State.memUncorrectable
  with_reducible apply_rules [within, State.latch_changes, State.errLog_changes, le.has, le.sub, le.writes] <;> decide +kernel

theorem State.eccFound_changes (le : (Scope.of [.regs] [Reg.PG_ERR_INJECT_COUNT]).Le scope) (within : Within scope old s)
    (line : Nat) (found : Ecc) :
    Within scope old (s.eccFound line found).2 := by
  unfold State.eccFound
  split
  · split
    · exact within
    · exact State.eccCheck_changes le within ..
  · exact within

theorem State.readLine_changes (le : (Scope.latch.plus [.mem] Part.eccFields).Le scope) (within : Within scope old s)
    (line port kind : Nat) (found : Ecc) :
    Within scope old (s.readLine line port kind found).2 := by
  have checked := State.check_changes (le.sub (by decide +kernel))
    (State.readsAccepted_changes (le.sub (by decide +kernel)) within (line * 64) 64) .memSram 0
  have read := State.eccFound_changes (le.sub (by decide +kernel)) checked line found
  unfold State.readLine
  dsimp only
  generalize ((s.readsAccepted (line * 64) 64).check .memSram).eccFound line found = x at read
  obtain ⟨e, t⟩ := x
  cases e
  · exact read
  · exact State.memCorrected_changes (le.sub (by decide +kernel)) read _
  · exact State.memUncorrectable_changes (le.sub (by decide +kernel)) read ..

theorem State.engineRead_changes (le : (Scope.latch.plus [.hst, .mem] Part.eccFields).Le scope) (within : Within scope old s)
    (a len port : Nat) :
    Within scope old (s.engineRead a len port).2 := by
  have found := (State.biasRead_changes (le.sub (by decide +kernel)) within a len).foldl (f := fun s l => s.memUncorrectable l
      (s.lineChannel l) port 0)
    (fun _ _ h => State.memUncorrectable_changes (le.sub (by decide +kernel)) h ..)
  unfold State.engineRead
  split
  · exact within
  · split
    · exact within
    · dsimp only
      split
      · exact State.readLine_changes (le.sub (by decide +kernel)) (found _) ..
      · exact found _

theorem State.mergeWrite_changes (le : (Scope.latch.plus [.pool, .mem, .dram] Part.eccFields).Le scope) (within :
    Within scope old s) (a : Nat) (bs : Bytes) (port : Nat) (found : Ecc) :
    Within scope old (s.mergeWrite a bs port found) := by
  have put : ∀ {t : State}, Within scope old t → Within scope old (t.dramPut a bs) := fun h =>
    State.dramPut_changes (le.sub (by decide +kernel)) h a bs
  have merged := put (State.readLine_changes (le.sub (by decide +kernel)) within (a / 64) port 1 found)
  exact .ite (put within) (.ite merged (merged.mem (le.has (by decide +kernel)) _ rfl))

theorem State.patrol_changes (le : (Scope.latch.plus [.mem] Part.eccFields).Le scope) (within : Within scope old s)
    (line channel : Nat) (found : Ecc) :
    Within scope old (s.patrol line channel found) := by
  have read := State.eccFound_changes (le.sub (by decide +kernel)) within line found
  unfold State.patrol
  refine .ite within ?_
  dsimp only
  generalize s.eccFound line found = x at read
  obtain ⟨e, t⟩ := x
  cases e
  · exact read
  · exact State.memCorrected_changes (le.sub (by decide +kernel)) read _
  · exact State.memUncorrectable_changes (le.sub (by decide +kernel)) read ..

theorem State.errlogClear_changes (le : (Scope.of [.regs] [Reg.MEM_ERRLOG_CTL_HEAD, Reg.MEM_ERRLOG_CTL_LOST,
    Reg.MEM_ERRLOG_CTL_VALID]).Le scope) (within : Within scope old s) :
    Within scope old (s.errlogClear) := by
  unfold State.errlogClear
  with_reducible apply_rules [within, Within.setFld, le.has, le.sub, le.writes] <;> decide +kernel

theorem State.zeroStep_changes (le : (Scope.of [.regs, .mem] [Reg.MEM_STATUS_ZEROED]).Le scope) (within : Within scope old s) :
    Within scope old (s.zeroStep) := by
  unfold State.zeroStep
  dsimp only
  (repeat' split) <;> with_reducible apply_rules [within, Within.mem, Within.setFld, Within.ite, le.has, le.sub,
                                                  le.writes] <;> decide +kernel

theorem State.freqRequest_changes (le : (Scope.latch.plus [.mem] [Reg.MEM_STATUS_FREQ_BUSY]).Le scope) (within :
    Within scope old s) (target : Nat) :
    Within scope old (s.freqRequest target) := by
  unfold State.freqRequest
  dsimp only
  (repeat' split) <;> with_reducible apply_rules [within, State.latch_changes, Within.mem, Within.setFld, Within.ite, le.has,
                                                  le.sub, le.writes] <;> decide +kernel

theorem State.freqCtl_changes (le : (Scope.latch.plus [.mem] [Reg.MEM_FREQ_CTL_TARGET, Reg.MEM_STATUS_FREQ_BUSY]).Le scope)
    (within : Within scope old s) (v : Nat) :
    Within scope old (s.freqCtl v) := by
  unfold State.freqCtl
  with_reducible apply_rules [within, State.freqRequest_changes, Within.setFld, Within.ite, le.has, le.sub,
                              le.writes] <;> decide +kernel

theorem State.freqDone_changes (le : (Scope.of [.regs, .mem] [Reg.MEM_STATUS_FREQ, Reg.MEM_STATUS_FREQ_BUSY]).Le scope) (within :
    Within scope old s) :
    Within scope old (s.freqDone) := by
  unfold State.freqDone
  split <;> with_reducible apply_rules [within, Within.mem, Within.setFld, Within.foldl, Within.ite, le.has, le.sub,
                                        le.writes] <;> decide +kernel

theorem State.timingWrite_changes (le : (Scope.latch.plus [] [Reg.MEM_TIM_VALUE]).Le scope) (within : Within scope old s)
    (f w v : Nat) :
    Within scope old (s.timingWrite f w v) := by
  unfold State.timingWrite
  with_reducible apply_rules [within, State.latch_changes, Within.setFld, Within.ite, le.has, le.sub, le.writes] <;> decide +kernel

theorem State.xferEnd_changes (le : (Scope.of [.regs, .kst] [Reg.KST_XFER_CTL_BUSY, Reg.KST_XFER_CTL_RESULT]).Le scope) (within :
    Within scope old s) (result : Nat) :
    Within scope old (s.xferEnd result) := by
  unfold State.xferEnd
  with_reducible apply_rules [within, Within.kst, Within.setFld, le.has, le.sub, le.writes] <;> decide +kernel

theorem State.xferCtl_changes (le : (Scope.latch.plus [] [Reg.KST_XFER_CTL_BUSY, Reg.KST_XFER_CTL_RESULT,
    Reg.KST_XFER_CTL_WRITE]).Le scope) (within : Within scope old s) (v : Nat) :
    Within scope old (s.xferCtl v) := by
  unfold State.xferCtl
  dsimp only
  (repeat' split) <;> with_reducible apply_rules [within, State.latch_changes, State.xferEnd_changes, Within.kst, Within.setFld,
                                                  Within.ite, le.has, le.sub, le.writes] <;> decide +kernel

theorem State.xferRead_changes (le : (Scope.latch.plus [.hst, .pool, .mem, .dram] [Reg.KST_XFER_CTL_BUSY,
    Reg.KST_XFER_CTL_RESULT]).Le scope) (within : Within scope old s) (off dst n : Nat) :
    Within scope old (s.xferRead off dst n) := by
  have ended : ∀ {t : State}, Within scope old t → ∀ r, Within scope old (t.xferEnd r) := fun h r =>
    State.xferEnd_changes (le.sub (by decide +kernel)) h r
  have latched : ∀ {t : State}, Within scope old t → ∀ x, Within scope old (t.latch x) := fun h x =>
    State.latch_changes (le.sub (by decide +kernel)) h x _
  have stored : ∀ {t : State}, Within scope old t → ∀ a bs, Within scope old (t.devWrite a bs) := fun h a bs =>
    State.devWrite_changes (le.sub (by decide +kernel)) h a bs
  induction n generalizing s off dst with
  | zero => exact ended within 0
  | succ n ih =>
    have checked := State.eccCheck_changes (le.sub (by decide +kernel)) within .kstEcc .kstUe
    unfold State.xferRead
    split
    next => exact latched (ended within 3) _
    next t _ h => exact latched (ended (.ofPair h checked) 3) _
    next t _ h => exact ih (stored (latched (.ofPair h checked) _) ..) ..
    next t _ h => exact ih (stored (.ofPair h checked) ..) ..

theorem State.xferWrite_changes (le : (Scope.latch.plus [.freeCtr, .hst, .mem] (Part.eccFields ++ [Reg.KST_XFER_CTL_BUSY,
    Reg.KST_XFER_CTL_RESULT])).Le scope) (within : Within scope old s) (off dst n : Nat) :
    Within scope old (s.xferWrite off dst n) := by
  have ended : ∀ {t : State}, Within scope old t → ∀ r, Within scope old (t.xferEnd r) := fun h r =>
    State.xferEnd_changes (le.sub (by decide +kernel)) h r
  induction n generalizing s off dst with
  | zero => exact ended within 0
  | succ n ih =>
    have read := State.engineRead_changes (le.sub (by decide +kernel)) within dst 64 15
    have stored : ∀ {t u : State} {line : Bytes},
        Within scope old t → t.kstWrite off line = some u → Within scope old u := fun h e =>
      State.kstWrite_changes (le.sub (by decide +kernel)) h e
    have worn : ∀ {t : State}, Within scope old t → Within scope old ((t.xferEnd 4).wearOut off) := fun h =>
      State.wearOut_changes (le.sub (by decide +kernel)) (ended h 4) off
    unfold State.xferWrite
    generalize s.engineRead dst 64 15 = x at read
    obtain ⟨got, t⟩ := x
    cases got with
    | some line =>
      dsimp only
      split
      · exact worn read
      next h => exact ih (stored read h) ..
    | none =>
      have drawn := Within.freeCtr (le.has (by decide +kernel)) read (t.freeCtr + 1)
      dsimp only
      split
      · exact worn drawn
      next h => exact ih (stored drawn h) ..

theorem State.xferDone_changes (le : (Scope.latch.plus [.freeCtr, .hst, .pool, .mem, .dram]
    (Part.eccFields ++ [Reg.KST_XFER_CTL_BUSY, Reg.KST_XFER_CTL_RESULT])).Le scope) (within : Within scope old s) :
    Within scope old (s.xferDone) := by
  unfold State.xferDone
  split <;> with_reducible apply_rules [within, State.xferWrite_changes, State.xferRead_changes, Within.ite, le.has, le.sub,
                                        le.writes] <;> decide +kernel

end

end Sys2Proof.Machine
end

section
/-! PROOFS. Frames of the operations of the buffer pool, rings and jobs, streams, decode and pickup (03_rings_and_jobs.md to
05_reference_store_and_concealment.md, 12_buffer_pool_and_switch.md). -/

namespace Sys2Proof.Machine

section
-- The lemmas are many and small: one after another they need one thread only.
set_option Elab.async false

variable {scope : Scope} {old s : State}

theorem State.setOwn_changes (le : (Scope.of [.pool] []).Le scope) (within : Within scope old s) (o : Nat) (x : Owner) :
    Within scope old (s.setOwn o x) := by
  unfold State.setOwn
  with_reducible apply_rules [within, Within.pool, le.has, le.sub, le.writes]
  decide +kernel

theorem State.named_changes (le : (Scope.of [.pool] []).Le scope) (within : Within scope old s) (o up down : Nat) :
    Within scope old (s.named o up down) := by
  unfold State.named
  with_reducible apply_rules [within, State.setOwn_changes, le.has, le.sub, le.writes]

theorem State.held_changes (le : (Scope.of [.pool] []).Le scope) (within : Within scope old s) (o up down : Nat) :
    Within scope old (s.held o up down) := by
  unfold State.held
  with_reducible apply_rules [within, State.setOwn_changes, le.has, le.sub, le.writes]

theorem State.setPool_changes (le : (Scope.of [.pool] []).Le scope) (within : Within scope old s) (x : Nat) (p : Pool) :
    Within scope old (s.setPool x p) := by
  unfold State.setPool
  split <;> with_reducible apply_rules [within, Within.pool, Within.ite, le.has, le.sub, le.writes] <;> decide +kernel

theorem State.setBuf_changes (le : (Scope.of [.pool] []).Le scope) (within : Within scope old s) (b : Nat) (x : Buf) :
    Within scope old (s.setBuf b x) := by
  unfold State.setBuf
  with_reducible apply_rules [within, Within.pool, le.has, le.sub, le.writes]
  decide +kernel

theorem State.touch_changes (le : (Scope.of [.pool, .dram] []).Le scope) (within : Within scope old s) (b : Nat) :
    Within scope old (s.touch b) :=
  .ite within (.ite (within.pool (le.has (by decide +kernel)) _) (State.touchDram_changes le within ..))

theorem State.bufWrite_changes (le : (Scope.of [.pool, .mem, .dram] []).Le scope) (within : Within scope old s) (b off : Nat)
    (bs : Bytes) :
    Within scope old (s.bufWrite b off bs) :=
  .ite (within.pool (le.has (by decide +kernel)) _) (State.dramPut_changes le within ..)

theorem State.thread_changes (le : (Scope.of [.pool, .mem, .dram] []).Le scope) (within : Within scope old s) (b next : Nat) :
    Within scope old (s.thread b next) := by
  unfold State.thread
  with_reducible apply_rules [within, State.bufWrite_changes, le.has, le.sub, le.writes]

theorem State.pushFree_changes (le : (Scope.of [.pool, .mem, .dram] []).Le scope) (within : Within scope old s) (b : Nat) :
    Within scope old (s.pushFree b) := by
  unfold State.pushFree
  with_reducible apply_rules [within, State.thread_changes, State.setBuf_changes, State.setPool_changes, le.has, le.sub,
                              le.writes] <;> decide +kernel

theorem State.rebuild_changes (le : (Scope.of [.pool, .mem, .dram] []).Le scope) (within : Within scope old s) (x : Nat) :
    Within scope old (s.rebuild x) :=
  State.setPool_changes (le.sub (by decide +kernel)) (within.foldl (fun _ _ h =>
    State.thread_changes (le.sub (by decide +kernel)) (State.setBuf_changes (le.sub (by decide +kernel)) h ..) ..) _) ..

theorem State.takeHead_changes (le : (Scope.latch.plus [.pool, .dram] [Reg.BPM_STATUS_REBUILD]).Le scope) (within :
    Within scope old s) (x : Nat) :
    Within scope old (s.takeHead x).2 := by
  have failed : ∀ {t : State}, Within scope old t →
      Within scope old
          (((t.setPool x { s.poolOf x with rebuilding := true }).setFld Reg.BPM_STATUS_REBUILD 0 1).latch .bpmList) := fun h =>
    State.latch_changes (le.sub (by decide +kernel)) (Within.setFld (le.has (by decide +kernel)) (le.writes (by decide +kernel))
      (State.setPool_changes (le.sub (by decide +kernel)) h ..) ..) ..
  unfold State.takeHead
  dsimp only
  cases h : s.takeInject .bpmList with
  | some t => exact failed (State.takeInject_changes (le.sub (by decide +kernel)) within h)
  | none =>
    dsimp only
    split
    · exact failed within
    · exact State.setPool_changes (le.sub (by decide +kernel)) (State.touch_changes (le.sub (by decide +kernel)) within _) ..

theorem State.allocFrom_changes (le : (Scope.latch.plus [.pool, .dram] [Reg.BPM_STATUS_REBUILD]).Le scope) (within :
    Within scope old s) (o x : Nat) (spread : Bool) :
    Within scope old (s.allocFrom o x spread).2.2 := by
  have taken := State.takeHead_changes le within x
  unfold State.allocFrom
  split
  · dsimp only
    split
    next h => exact .ofPair h taken
    next h => exact State.named_changes (le.sub (by decide +kernel)) (State.setBuf_changes (le.sub (by decide +kernel))
        (State.setPool_changes (le.sub (by decide +kernel)) (.ofPair h taken) ..) ..) ..
  · exact within

theorem State.poolAlloc_changes (le : (Scope.latch.plus [.pool, .dram] [Reg.BPM_STATUS_REBUILD]).Le scope) (within :
    Within scope old s) (o : Nat) (spread : Bool) :
    Within scope old (s.poolAlloc o spread).2.2 := by
  unfold State.poolAlloc
  split
  · exact State.allocFrom_changes le within ..
  · split
    next h => exact State.allocFrom_changes le (.ofTriple h (State.allocFrom_changes le within ..)) ..
    next => exact State.allocFrom_changes le within ..
  · exact State.allocFrom_changes le within ..

theorem State.poolAllocN_changes (le : (Scope.latch.plus [.pool, .mem, .dram] [Reg.BPM_STATUS_REBUILD]).Le scope) (within :
    Within scope old s) (o n : Nat) (got : List Nat) :
    Within scope old (s.poolAllocN o n got).2 := by
  induction n generalizing s got with
  | zero => exact within
  | succ n ih =>
    have tried := State.poolAlloc_changes (le.sub (by decide +kernel)) within o true
    unfold State.poolAllocN
    split
    next h => exact ih (.ofTriple h tried) _
    next h => exact (Within.ofTriple h tried).foldl (fun t b h => State.pushFree_changes (le.sub (by decide +kernel))
        (State.named_changes (le.sub (by decide +kernel)) (State.setPool_changes (le.sub (by decide +kernel)) h ..) ..) _) _

theorem State.misuse_changes (le : (Scope.latch.plus [] Part.misuseFields).Le scope) (within : Within scope old s)
    (op st o b : Nat) :
    Within scope old (s.misuse op st o b) := by
  unfold State.misuse
  with_reducible apply_rules [within, State.latch_changes, State.count_changes, Within.setFld, le.has, le.sub,
                              le.writes] <;> decide +kernel

theorem State.poolShare_changes (le : (Scope.latch.plus [.pool] Part.misuseFields).Le scope) (within : Within scope old s)
    (o b n holder : Nat) :
    Within scope old (s.poolShare o b n holder).2 := by
  unfold State.poolShare
  split <;> with_reducible apply_rules [within, State.held_changes, State.setBuf_changes, State.misuse_changes, le.has, le.sub,
                                        le.writes] <;> decide +kernel

theorem State.dropShare_changes (le : (Scope.of [.pool, .mem, .dram] []).Le scope) (within : Within scope old s) (b : Nat) :
    Within scope old (s.dropShare b) := by
  unfold State.dropShare
  with_reducible apply_rules [within, State.pushFree_changes, State.setPool_changes, State.setBuf_changes, Within.ite, le.has,
                              le.sub, le.writes] <;> decide +kernel

theorem State.poolRelease_changes (le : (Scope.latch.plus [.pool, .mem, .dram] Part.misuseFields).Le scope) (within :
    Within scope old s) (o b : Nat) :
    Within scope old (s.poolRelease o b).2 := by
  unfold State.poolRelease
  split <;> with_reducible apply_rules [within, State.dropShare_changes, State.held_changes, State.misuse_changes, le.has, le.sub,
                                        le.writes] <;> decide +kernel

theorem State.poolFree_changes (le : (Scope.latch.plus [.pool, .mem, .dram] Part.misuseFields).Le scope) (within :
    Within scope old s) (o b : Nat) :
    Within scope old (s.poolFree o b).2 := by
  unfold State.poolFree
  dsimp only
  (repeat' split) <;> with_reducible apply_rules [within, State.named_changes, State.pushFree_changes, State.setPool_changes,
                                                  State.setBuf_changes, State.misuse_changes, Within.ite, le.has, le.sub,
                                                  le.writes] <;> decide +kernel

theorem State.poolHandover_changes (le : (Scope.latch.plus [.pool] Part.misuseFields).Le scope) (within : Within scope old s)
    (o b new : Nat) :
    Within scope old (s.poolHandover o b new).2 := by
  unfold State.poolHandover
  split <;> with_reducible apply_rules [within, State.named_changes, State.setBuf_changes, State.misuse_changes, le.has, le.sub,
                                        le.writes] <;> decide +kernel

theorem State.poolCmd_changes (le : (Scope.latch.plus [.pool, .mem, .dram]
    (Part.misuseFields ++ [Reg.BPM_STATUS_REBUILD])).Le scope) (within : Within scope old s) (o op b n other : Nat) :
    Within scope old (s.poolCmd o op b n other).2.2 := by
  unfold State.poolCmd
  split <;> with_reducible apply_rules [within, State.poolAlloc_changes, State.poolShare_changes, State.poolRelease_changes,
                                        State.poolFree_changes, State.poolHandover_changes, State.misuse_changes, le.has, le.sub,
                                        le.writes] <;> decide +kernel

theorem State.windowRun_changes (le : (Scope.latch.plus [.pool, .mem, .dram] (Part.misuseFields ++ [Reg.BPM_RSP_BUF,
    Reg.BPM_RSP_DONE, Reg.BPM_RSP_STATUS, Reg.BPM_STATUS_REBUILD])).Le scope) (within : Within scope old s) (w : Nat) :
    Within scope old (s.windowRun w) := by
  unfold State.windowRun
  with_reducible apply_rules [within, State.poolCmd_changes, Within.setFld, le.has, le.sub, le.writes] <;> decide +kernel

theorem State.cmdWrite_changes (le : (Scope.latch.plus [.pool, .mem, .dram] (Part.misuseFields ++ [Reg.BPM_CMD_N, Reg.BPM_CMD_OP,
    Reg.BPM_CMD_OWNER, Reg.BPM_RSP_BUF, Reg.BPM_RSP_DONE, Reg.BPM_RSP_STATUS, Reg.BPM_STATUS_REBUILD])).Le scope) (within :
    Within scope old s) (w v : Nat) :
    Within scope old (s.cmdWrite w v) := by
  unfold State.cmdWrite
  dsimp only
  (repeat' split) <;> with_reducible apply_rules [within, State.latch_changes, State.windowRun_changes, Within.setFld, Within.ite,
                                                  le.has, le.sub, le.writes] <;> decide +kernel

theorem State.poolCall_changes (le : (Scope.latch.plus [.pool, .mem, .dram] (Part.misuseFields ++ [Reg.BPM_RSP_BUF,
    Reg.BPM_RSP_DONE, Reg.BPM_RSP_STATUS, Reg.BPM_STATUS_REBUILD])).Le scope) (within : Within scope old s) (c : PoolCall) :
    Within scope old (s.poolCall c) := by
  unfold State.poolCall
  split <;> with_reducible apply_rules [within, State.windowRun_changes, State.poolCmd_changes, le.has, le.sub,
                                        le.writes] <;> decide +kernel

theorem State.poolCycle_changes (le : (Scope.latch.plus [.pool, .mem, .dram] (Part.misuseFields ++ [Reg.BPM_RSP_BUF,
    Reg.BPM_RSP_DONE, Reg.BPM_RSP_STATUS, Reg.BPM_STATUS_REBUILD])).Le scope) (within : Within scope old s) (cs : List PoolCall) :
    Within scope old (s.poolCycle cs) := by
  have calls : ∀ {t : State}, Within scope old t → ∀ cs : List PoolCall, Within scope old (cs.foldl State.poolCall t) := fun h =>
    h.foldl fun _ a h => State.poolCall_changes (le.sub (by decide +kernel)) h a
  exact calls (calls within _) _

theorem State.poolReq_changes (le : (Scope.latch.plus [.pool, .mem, .dram] (Part.misuseFields ++ [Reg.BPM_RSP_BUF, Reg.BPM_RSP_DONE,
    Reg.BPM_RSP_STATUS, Reg.BPM_STATUS_REBUILD])).Le scope) (within : Within scope old s) (r : PoolReq) (op b n other : Nat) :
    Within scope old (s.poolReq r op b n other) := by
  unfold State.poolReq
  dsimp only
  (repeat' split) <;> with_reducible apply_rules [within, State.check_changes, State.poolCycle_changes, Within.ite, le.has, le.sub,
                                                  le.writes] <;> decide +kernel

theorem State.listRebuilt_changes (le : (Scope.of [.regs, .pool, .mem, .dram] [Reg.BPM_STATUS_REBUILD]).Le scope) (within :
    Within scope old s) (x : Nat) :
    Within scope old (s.listRebuilt x) := by
  unfold State.listRebuilt
  with_reducible apply_rules [within, State.rebuild_changes, Within.setFld, Within.ite, le.has, le.sub,
                              le.writes] <;> decide +kernel

theorem State.recount_changes (le : (Scope.of [.pool] []).Le scope) (within : Within scope old s) :
    Within scope old (s.recount) :=
  Within.foldl (within.foldl (fun _ _ h => State.setOwn_changes (le.sub (by decide +kernel)) h ..) _) (fun _ _ h =>
      State.setPool_changes (le.sub (by decide +kernel)) h ..) _

theorem State.force_changes (le : (Scope.latch.plus [.pool, .mem, .dram] []).Le scope) (within : Within scope old s) (v : Nat) :
    Within scope old (s.force v) := by
  unfold State.force
  dsimp only
  (repeat' split) <;> with_reducible apply_rules [within, State.latch_changes, State.setBuf_changes, State.pushFree_changes,
                                                  State.recount_changes, Within.flt, Within.ite, le.has, le.sub,
                                                  le.writes] <;> decide +kernel

theorem State.dpoolConfig_changes (le : (Scope.latch.plus [.pool] [Reg.BPM_DPOOL_BASE, Reg.BPM_DPOOL_COUNT,
    Reg.BPM_STATUS_DPOOL_READY, Reg.BPM_STATUS_REBUILD]).Le scope) (within : Within scope old s) (reg v : Nat) :
    Within scope old (s.dpoolConfig reg v) := by
  unfold State.dpoolConfig
  dsimp only
  (repeat' split) <;> with_reducible apply_rules [within, State.latch_changes, Within.pool, Within.setFld, Within.ite, le.has,
                                                  le.sub, le.writes] <;> decide +kernel

theorem State.quotaWrite_changes (le : (Scope.latch.plus [] [Reg.BPM_QUOTA_POOL, Reg.BPM_QUOTA_QUOTA]).Le scope) (within :
    Within scope old s) (o v : Nat) :
    Within scope old (s.quotaWrite o v) := by
  unfold State.quotaWrite
  with_reducible apply_rules [within, State.latch_changes, State.badId_changes, Within.setFld, Within.ite, le.has, le.sub,
                              le.writes] <;> decide +kernel

theorem State.minWrite_changes (le : (Scope.latch.plus [] [Reg.BPM_MIN]).Le scope) (within : Within scope old s) (o v : Nat) :
    Within scope old (s.minWrite o v) := by
  unfold State.minWrite
  with_reducible apply_rules [within, State.latch_changes, State.badId_changes, Within.setFld, Within.ite, le.has, le.sub,
                              le.writes] <;> decide +kernel

theorem State.setBank_changes (le : (Scope.of [.clb] []).Le scope) (within : Within scope old s) (b : Bool) (x : Bank) :
    Within scope old (s.setBank b x) := by
  unfold State.setBank
  split <;> with_reducible apply_rules [within, Within.clb, Within.ite, le.has, le.sub, le.writes] <;> decide +kernel

theorem State.setSes_changes (le : (Scope.of [.enc] []).Le scope) (within : Within scope old s) (e : Nat) (x : EncSession) :
    Within scope old (s.setSes e x) := by
  unfold State.setSes
  with_reducible apply_rules [within, Within.enc, le.has, le.sub, le.writes]
  decide +kernel

theorem State.encEvent_changes (le : Scope.report.Le scope) (within : Within scope old s) (e code : Nat) (args : List Nat) :
    Within scope old (s.encEvent e code args) := by
  unfold State.encEvent
  with_reducible apply_rules [within, State.eventTo_changes, le.has, le.sub, le.writes]

theorem State.encSource_changes (le : (Scope.report.plus [.enc] []).Le scope) (within : Within scope old s) (e st : Nat) :
    Within scope old (s.encSource e st) := by
  unfold State.encSource
  with_reducible apply_rules [within, State.setSes_changes, State.encEvent_changes, Within.ite, le.has, le.sub,
                              le.writes] <;> decide +kernel

theorem State.encSources_changes (le : (Scope.report.plus [.enc] []).Le scope) (within : Within scope old s) (st new : Nat) :
    Within scope old (s.encSources st new) := by
  unfold State.encSources
  refine within.foldl (fun t a within => ?_) _
  with_reducible apply_rules [within, State.encSource_changes, Within.foldl, le.has, le.sub, le.writes]

theorem State.setMeter_changes (le : (Scope.of [.rng] []).Le scope) (within : Within scope old s) (m : Nat) (x : Meter) :
    Within scope old (s.setMeter m x) := by
  unfold State.setMeter
  with_reducible apply_rules [within, Within.rng, le.has, le.sub, le.writes]
  decide +kernel

theorem State.setStream_changes (le : (Scope.of [.dec] []).Le scope) (within : Within scope old s) (st : Nat) (x : StreamRec) :
    Within scope old (s.setStream st x) := by
  unfold State.setStream
  with_reducible apply_rules [within, Within.dec, le.has, le.sub, le.writes]
  decide +kernel

theorem State.setPic_changes (le : (Scope.of [.dec] []).Le scope) (within : Within scope old s) (n : Nat) (p : Picture) :
    Within scope old (s.setPic n p) := by
  unfold State.setPic
  with_reducible apply_rules [within, Within.dec, le.has, le.sub, le.writes]
  decide +kernel

theorem State.mapPics_changes (le : (Scope.of [.dec] []).Le scope) (within : Within scope old s) (f : Nat → Picture → Picture) :
    Within scope old (s.mapPics f) := by
  unfold State.mapPics
  with_reducible apply_rules [within, Within.dec, le.has, le.sub, le.writes]
  decide +kernel

theorem State.keepPics_changes (le : (Scope.of [.dec] []).Le scope) (within : Within scope old s) (f : Nat → Picture → Bool) :
    Within scope old (s.keepPics f) := by
  unfold State.keepPics
  with_reducible apply_rules [within, Within.dec, le.has, le.sub, le.writes]
  decide +kernel

theorem State.mapStreams_changes (le : (Scope.of [.dec] []).Le scope) (within : Within scope old s)
    (f : Nat → StreamRec → StreamRec) :
    Within scope old (s.mapStreams f) := by
  unfold State.mapStreams
  with_reducible apply_rules [within, Within.dec, le.has, le.sub, le.writes]
  decide +kernel

theorem State.mapRings_changes (le : (Scope.of [.rng] []).Le scope) (within : Within scope old s) (f : Ring → Ring) :
    Within scope old (s.mapRings f) := by
  unfold State.mapRings
  with_reducible apply_rules [within, Within.rng, le.has, le.sub, le.writes]
  decide +kernel

theorem State.setCore_changes (le : (Scope.of [.dec] []).Le scope) (within : Within scope old s) (c : Nat) (x : DecCore) :
    Within scope old (s.setCore c x) := by
  unfold State.setCore
  with_reducible apply_rules [within, Within.dec, le.has, le.sub, le.writes]
  decide +kernel

theorem State.streamTo_changes (le : (Scope.report.plus [.dec, .enc] []).Le scope) (within : Within scope old s)
    (st new cause : Nat) :
    Within scope old (s.streamTo st new cause) := by
  unfold State.streamTo
  with_reducible apply_rules [within, State.encSources_changes, State.streamEvent_changes, State.setStream_changes, le.has, le.sub,
                              le.writes] <;> decide +kernel

theorem State.freeBufs_changes (le : (Scope.latch.plus [.pool, .mem, .dram] Part.misuseFields).Le scope) (within :
    Within scope old s) (bufs : List Nat) :
    Within scope old (s.freeBufs bufs) := by
  unfold State.freeBufs
  refine within.foldl (fun t a within => ?_) _
  with_reducible apply_rules [within, State.poolFree_changes, Within.foldl, le.has, le.sub, le.writes]

theorem State.unitsLost_changes (le : (Scope.report.plus [.dec] []).Le scope) (within : Within scope old s)
    (st cause first n : Nat) :
    Within scope old (s.unitsLost st cause first n) := by
  unfold State.unitsLost
  with_reducible apply_rules [within, State.setStream_changes, State.streamEvent_changes, Within.ite, le.has, le.sub,
                              le.writes] <;> decide +kernel

theorem State.notDecoded_changes (le : (Scope.report.plus [.dec] Part.misuseFields).Le scope) (within : Within scope old s)
    (st reason : Nat) (u : AccessUnit) :
    Within scope old (s.notDecoded st reason u) := by
  unfold State.notDecoded
  with_reducible apply_rules [within, State.freeBufs_changes, State.setStream_changes, State.streamEvent_changes, Within.ite,
                              le.has, le.sub, le.writes] <;> decide +kernel

theorem State.enqueue_changes (le : (Scope.of [.dec] []).Le scope) (within : Within scope old s) (st : Nat) (u : AccessUnit) :
    Within scope old (s.enqueue st u) := by
  unfold State.enqueue
  with_reducible apply_rules [within, State.setPic_changes, State.setStream_changes, Within.dec, Within.ite, le.has, le.sub,
                              le.writes]
  decide +kernel

theorem State.toDispatcher_changes (le : (Scope.report.plus [.dec, .enc] Part.misuseFields).Le scope) (within : Within scope old s)
    (st : Nat) (u : AccessUnit) :
    Within scope old (s.toDispatcher st u) := by
  unfold State.toDispatcher
  dsimp only
  split
  · refine .ite (.ite ?_ ?_) ?_
    · exact State.enqueue_changes (le.sub (by decide +kernel)) (State.streamTo_changes (le.sub (by decide +kernel)) within ..) ..
    · exact State.freeBufs_changes (le.sub (by decide +kernel)) (State.setStream_changes (le.sub (by decide +kernel)) within ..) _
    · exact State.enqueue_changes (le.sub (by decide +kernel)) within ..
  · exact State.notDecoded_changes (le.sub (by decide +kernel)) within ..

theorem State.takeUnit_changes (le : (Scope.report.plus [.dec, .enc] Part.misuseFields).Le scope) (within : Within scope old s)
    (st : Nat) (u : AccessUnit) :
    Within scope old (s.takeUnit st u) := by
  unfold State.takeUnit
  with_reducible apply_rules [within, State.toDispatcher_changes, State.unitsLost_changes, Within.ite, le.has, le.sub, le.writes]
  decide +kernel

theorem State.behind_changes (le : (Scope.report.plus [.dec] Part.misuseFields).Le scope) (within : Within scope old s)
    (st e : Nat) (u : AccessUnit) :
    Within scope old (s.behind st e u) := by
  unfold State.behind
  with_reducible apply_rules [within, State.freeBufs_changes, State.streamEvent_changes, State.setStream_changes, Within.ite,
                              le.has, le.sub, le.writes] <;> decide +kernel

theorem State.runHeld_changes (le : (Scope.report.plus [.dec, .enc] Part.misuseFields).Le scope) (within : Within scope old s)
    (st : Nat) (us : List AccessUnit) :
    Within scope old (s.runHeld st us) := by
  have set : ∀ {t : State}, Within scope old t → ∀ x, Within scope old (t.setStream st x) := fun h x => State.setStream_changes
      (le.sub (by decide +kernel)) h ..
  have taken : ∀ {t : State}, Within scope old t → ∀ u, Within scope old (t.takeUnit st u) := fun h u => State.takeUnit_changes
      (le.sub (by decide +kernel)) h ..
  induction us generalizing s with
  | nil => exact within
  | cons u us ih =>
    exact ih (.ite (taken (set within _) _) (.ite (taken (State.unitsLost_changes (le.sub (by decide +kernel))
        (set within _) ..) _) (State.behind_changes (le.sub (by decide +kernel)) within ..)))

theorem State.closeGap_changes (le : (Scope.report.plus [.dec, .enc] Part.misuseFields).Le scope) (within : Within scope old s)
    (st : Nat) :
    Within scope old (s.closeGap st) := by
  unfold State.closeGap
  with_reducible apply_rules [within, State.runHeld_changes, State.setStream_changes, le.has, le.sub, le.writes]
  decide +kernel

theorem State.arrive_changes (le : (Scope.report.plus [.dec, .enc] Part.misuseFields).Le scope) (within : Within scope old s)
    (st : Nat) (u : AccessUnit) :
    Within scope old (s.arrive st u) := by
  unfold State.arrive
  dsimp only
  (repeat' split) <;> with_reducible apply_rules [within, State.freeBufs_changes, State.takeUnit_changes, State.behind_changes,
                                                  State.streamEvent_changes, State.runHeld_changes, State.setStream_changes,
                                                  State.closeGap_changes, Within.ite, le.has, le.sub, le.writes] <;> decide +kernel

theorem State.gapTimeout_changes (le : (Scope.report.plus [.dec, .enc] Part.misuseFields).Le scope) (within : Within scope old s)
    (st : Nat) :
    Within scope old (s.gapTimeout st) := by
  unfold State.gapTimeout
  with_reducible apply_rules [within, State.closeGap_changes, Within.ite, le.has, le.sub, le.writes]

theorem State.colourHead_changes (le : (Scope.report.plus [.dec, .enc] Part.misuseFields).Le scope) (within : Within scope old s)
    (r : Nat) (p : Pkt) (ps : List Pkt) :
    Within scope old (s.colourHead r p ps) := by
  unfold State.colourHead
  with_reducible apply_rules [within, State.setMeter_changes, State.arrive_changes, State.setRing_changes, Within.ite, le.has,
                              le.sub, le.writes] <;> decide +kernel

theorem State.headStep_changes (le : (Scope.report.plus [.dec, .enc] Part.misuseFields).Le scope) (within : Within scope old s)
    (r : Nat) {t : State} (ht : (s.headStep r) = some t) :
    Within scope old t := by
  have set : ∀ x, Within scope old (s.setRing r x) := fun x => State.setRing_changes (le.sub (by decide +kernel)) within ..
  have latched : ∀ {t : State}, Within scope old t → Within scope old (t.latch .rngOversize (r / 32)) := fun h =>
      State.latch_changes (le.sub (by decide +kernel)) h ..
  unfold State.headStep at ht
  dsimp only at ht
  split at ht
  · cases ht
  · split at ht
    · cases ht
    · split at ht
      · split at ht
        · cases ht
          exact latched (set _)
        · split at ht <;> cases ht
          exact set _
      · split at ht
        · split at ht <;> cases ht
          exact State.arrive_changes (le.sub (by decide +kernel)) (set _) ..
        · split at ht
          · cases ht
          · split at ht
            · cases ht
              exact .ite (latched (set _)) (set _)
            · split at ht <;> cases ht
              exact State.colourHead_changes (le.sub (by decide +kernel)) within ..

theorem State.ringRun_changes (le : (Scope.report.plus [.dec, .enc] Part.misuseFields).Le scope) (within : Within scope old s)
    (r n : Nat) :
    Within scope old (s.ringRun r n) := by
  induction n generalizing s with
  | zero => exact within
  | succ n ih =>
    unfold State.ringRun
    refine .ite within ?_
    split
    next h => exact ih (State.headStep_changes (le.sub (by decide +kernel)) within _ h)
    next => exact within

theorem State.dropPkts_changes (le : (Scope.latch.plus [.rng, .pool, .mem, .dram] Part.misuseFields).Le scope) (within :
    Within scope old s) (r : Nat) :
    Within scope old (s.dropPkts r) :=
  State.setRing_changes (le.sub (by decide +kernel)) (within.foldl (fun _ _ h => State.freeBufs_changes (le.sub
      (by decide +kernel)) h _) _) ..

theorem State.ringReset_changes (le : (Scope.report.plus [] Part.misuseFields).Le scope) (within : Within scope old s) (r : Nat) :
    Within scope old (s.ringReset r) := by
  unfold State.ringReset
  with_reducible apply_rules [within, State.latch_changes, State.ringEvent_changes, State.dropPkts_changes, State.setRing_changes,
                              le.has, le.sub, le.writes] <;> decide +kernel

theorem State.ringAccess_changes (le : (Scope.report.plus [] Part.misuseFields).Le scope) (within : Within scope old s) (r : Nat)
    (f : State → State) (hf : ∀ x, Within scope old x → Within scope old (f x)) :
    Within scope old (s.ringAccess r f) := by
  unfold State.ringAccess
  split
  next h => exact State.ringReset_changes (le.sub (by decide +kernel)) (State.takeInject_changes (le.sub
      (by decide +kernel)) within h) _
  next => exact hf s within

theorem State.takeWaiting_changes (le : (Scope.report.plus [.dec, .enc] Part.misuseFields).Le scope) (within : Within scope old s)
    (st : Nat) :
    Within scope old (s.takeWaiting st) :=
  within.foldl (fun _ _ h => State.ringAccess_changes (le.sub (by decide +kernel)) h _ _ fun _ h => State.ringRun_changes (le.sub
      (by decide +kernel)) h ..) _

theorem State.refuse_changes (le : Scope.report.Le scope) (within : Within scope old s) (j status r0 r1 r2 r3 : Nat) :
    Within scope old (s.refuse j status r0 r1 r2 r3) := by
  unfold State.refuse
  with_reducible apply_rules [within, State.finish_changes, le.has, le.sub, le.writes]

theorem State.doOpen_changes (le : (Scope.report.plus [.dec, .enc] (Part.misuseFields ++ [Reg.DEC_LOAD_LIVE])).Le scope) (within :
    Within scope old s) (j : Nat) :
    Within scope old (s.doOpen j) := by
  unfold State.doOpen
  dsimp only
  (repeat' split) <;> with_reducible apply_rules [within, State.finish_changes, State.setStream_changes, State.streamTo_changes,
                                                  State.takeWaiting_changes, Within.setFld, Within.ite, le.has, le.sub,
                                                  le.writes] <;> decide +kernel

theorem State.markStream_changes (le : (Scope.of [.rng, .dec] []).Le scope) (within : Within scope old s) (st : Nat) :
    Within scope old (s.markStream st) := by
  unfold State.markStream
  with_reducible apply_rules [within, State.mapRings_changes, State.mapPics_changes, Within.ite, le.has, le.sub,
                              le.writes] <;> decide +kernel

theorem State.discardQueued_changes (le : (Scope.latch.plus [.pool, .mem, .dram, .dec] Part.misuseFields).Le scope) (within :
    Within scope old s) (st : Nat) :
    Within scope old (s.discardQueued st) :=
  State.setStream_changes (le.sub (by decide +kernel)) (State.keepPics_changes (le.sub (by decide +kernel)) (within.foldl
      (fun _ _ h => State.freeBufs_changes (le.sub (by decide +kernel)) h _) _) _) ..

theorem State.beginDrain_changes (le : (Scope.report.plus [.dec, .enc] Part.misuseFields).Le scope) (within : Within scope old s)
    (st j : Nat) (close discard : Bool) :
    Within scope old (s.beginDrain st j close discard) := by
  unfold State.beginDrain
  with_reducible apply_rules [within, State.closeGap_changes, State.markStream_changes, State.mapPics_changes,
                              State.discardQueued_changes, State.streamTo_changes, State.start_changes, State.setStream_changes,
                              Within.ite, le.has, le.sub, le.writes] <;> decide +kernel

theorem State.resetStream_changes (le : (Scope.report.plus [.dec, .enc] Part.misuseFields).Le scope) (within : Within scope old s)
    (st : Nat) :
    Within scope old (s.resetStream st) :=
  State.streamTo_changes (le.sub (by decide +kernel)) (State.setStream_changes (le.sub (by decide +kernel))
      (State.discardQueued_changes (le.sub (by decide +kernel)) (State.mapPics_changes (le.sub (by decide +kernel))
      (State.closeGap_changes (le.sub (by decide +kernel)) (State.markStream_changes (le.sub
      (by decide +kernel)) within _) _) _) _) ..) ..

theorem State.closeStream_changes (le : (Scope.latch.plus [.pool, .mem, .dram, .dec]
    (Part.misuseFields ++ [Reg.DEC_LOAD_LIVE])).Le scope) (within : Within scope old s) (st : Nat) :
    Within scope old (s.closeStream st) :=
  State.setStream_changes (le.sub (by decide +kernel)) (Within.setFld (le.has (by decide +kernel)) (le.writes (by decide +kernel))
      (State.mapPics_changes (le.sub (by decide +kernel)) (State.keepPics_changes (le.sub (by decide +kernel)) (within.foldl
      (fun _ _ h => State.freeBufs_changes (le.sub (by decide +kernel)) h _) _) _) _) ..) ..

theorem State.doClose_changes (le : (Scope.report.plus [.dec, .enc] (Part.misuseFields ++ [Reg.DEC_LOAD_LIVE])).Le scope) (within :
    Within scope old s) (j : Nat) :
    Within scope old (s.doClose j) := by
  have ended : ∀ {t : State}, Within scope old t → ∀ r a b, Within scope old (t.finish j r a b) := fun h r a b =>
      State.finish_changes (le.sub (by decide +kernel)) h ..
  unfold State.doClose
  dsimp only
  split
  · refine .ite (ended (State.streamTo_changes (le.sub (by decide +kernel)) (State.closeStream_changes (le.sub
      (by decide +kernel)) within _) ..) ..) (.ite (.ite (ended within ..) ?_) (State.beginDrain_changes (le.sub
      (by decide +kernel)) within ..))
    exact State.start_changes (le.sub (by decide +kernel)) (State.setStream_changes (le.sub (by decide +kernel)) (.ite
        (State.discardQueued_changes (le.sub (by decide +kernel)) within _) within) ..) ..
  · exact ended within ..

theorem State.doFlush_changes (le : (Scope.report.plus [.dec, .enc] Part.misuseFields).Le scope) (within : Within scope old s)
    (j : Nat) :
    Within scope old (s.doFlush j) := by
  unfold State.doFlush
  dsimp only
  split <;> with_reducible apply_rules [within, State.setStream_changes, State.beginDrain_changes, State.finish_changes, Within.ite,
                                        le.has, le.sub, le.writes] <;> decide +kernel

theorem State.doPolicy_changes (le : (Scope.report.plus [.dec] []).Le scope) (within : Within scope old s) (j : Nat) :
    Within scope old (s.doPolicy j) := by
  unfold State.doPolicy
  dsimp only
  split <;> with_reducible apply_rules [within, State.finish_changes, State.setStream_changes, Within.ite, le.has, le.sub,
                                        le.writes] <;> decide +kernel

theorem State.outputAll_changes (le : (Scope.of [.dec] []).Le scope) (within : Within scope old s) (st : Nat) :
    Within scope old (s.outputAll st) := by
  unfold State.outputAll
  with_reducible apply_rules [within, State.mapPics_changes, State.setStream_changes, Within.ite, le.has, le.sub, le.writes]

theorem State.flushDpb_changes (le : (Scope.of [.dec] []).Le scope) (within : Within scope old s) (st : Nat) :
    Within scope old (s.flushDpb st) := by
  unfold State.flushDpb
  with_reducible apply_rules [within, State.mapPics_changes, Within.ite, le.has, le.sub, le.writes]

theorem State.drainDone_changes (le : (Scope.report.plus [.dec, .enc] (Part.misuseFields ++ [Reg.DEC_LOAD_LIVE])).Le scope)
    (within : Within scope old s) (st : Nat) :
    Within scope old (s.drainDone st) := by
  have ended : ∀ {t : State}, Within scope old t → ∀ {c : Prop} [Decidable c] j r a b, Within scope old
      (if c then t else t.finish j r a b) :=
    fun h _ _ j r a b => .ite h (State.finish_changes (le.sub (by decide +kernel)) h ..)
  unfold State.drainDone
  dsimp only
  split
  · exact within
  next d ds _ =>
    refine .ite within (.ite (ended (State.streamTo_changes (le.sub (by decide +kernel)) (State.closeStream_changes (le.sub
        (by decide +kernel)) within _) ..) ..) ?_)
    have left : ∀ y, Within scope old (if ds = [] then (((s.outputAll st).flushDpb st).setStream st y).streamTo st 1 3
        else ((s.outputAll st).flushDpb st).setStream st y) := fun y =>
      .ite (State.streamTo_changes (le.sub (by decide +kernel)) (State.setStream_changes (le.sub (by decide +kernel))
          (State.flushDpb_changes (le.sub (by decide +kernel)) (State.outputAll_changes (le.sub
          (by decide +kernel)) within st) st) ..) ..) (State.setStream_changes (le.sub (by decide +kernel)) (State.flushDpb_changes
          (le.sub (by decide +kernel)) (State.outputAll_changes (le.sub (by decide +kernel)) within st) st) ..)
    exact .ite (State.takeWaiting_changes (le.sub (by decide +kernel)) (ended (left _) ..) _) (ended (left _) ..)

theorem State.drainTimeout_changes (le : (Scope.report.plus [.dec] []).Le scope) (within : Within scope old s) (st : Nat) :
    Within scope old (s.drainTimeout st) := by
  unfold State.drainTimeout
  dsimp only
  split <;> with_reducible apply_rules [within, State.finish_changes, State.setStream_changes, Within.ite, le.has, le.sub,
                                        le.writes] <;> decide +kernel

theorem State.rfsRegion_changes (le : (Scope.latch.plus [] [Reg.RFS_REGION_BASE, Reg.RFS_REGION_SIZE]).Le scope) (within :
    Within scope old s) (reg v : Nat) :
    Within scope old (s.rfsRegion reg v) := by
  unfold State.rfsRegion
  with_reducible apply_rules [within, State.latch_changes, Within.setFld, Within.ite, le.has, le.sub, le.writes] <;> decide +kernel

theorem State.plainRow_changes (le : (Scope.of [.pool, .mem, .dram] []).Le scope) (within : Within scope old s) (p : Picture)
    (plane y : Nat) (vs : List Nat) :
    Within scope old (s.plainRow p plane y vs) := by
  unfold State.plainRow
  refine within.foldl (fun t a within => ?_) _
  with_reducible apply_rules [within, State.dramPut_changes, Within.foldl, le.has, le.sub, le.writes]

theorem State.putRow_changes (le : (Scope.of [.pool, .mem, .dram, .dec] []).Le scope) (within : Within scope old s)
    (n plane y : Nat) (vs : List Nat) :
    Within scope old (s.putRow n plane y vs) := by
  unfold State.putRow
  with_reducible apply_rules [within, State.setPic_changes, State.plainRow_changes, Within.ite, le.has, le.sub,
                              le.writes] <;> decide +kernel

theorem State.storeRows_changes (le : (Scope.of [.pool, .mem, .dram, .dec] []).Le scope) (within : Within scope old s) (n k : Nat) :
    Within scope old (s.storeRows n k) :=
  State.setPic_changes (le.sub (by decide +kernel)) (within.foldl (fun _ _ h => State.putRow_changes (le.sub
      (by decide +kernel)) h ..) _) ..

theorem State.packPicture_changes (le : (Scope.of [.pool, .mem, .dram] []).Le scope) (within : Within scope old s) (n : Nat) :
    Within scope old (s.packPicture n) :=
  .ite within (within.foldl (fun _ _ h => State.dramPut_changes (le.sub (by decide +kernel)) (State.dramPut_changes (le.sub
      (by decide +kernel)) h ..) ..) _)

theorem State.copyPlain_changes (le : (Scope.of [.pool, .mem, .dram] []).Le scope) (within : Within scope old s) (n : Nat) :
    Within scope old (s.copyPlain n) := by
  unfold State.copyPlain
  refine within.foldl (fun t a within => ?_) _
  with_reducible apply_rules [within, State.plainRow_changes, Within.foldl, le.has, le.sub, le.writes]

theorem State.evictPin_changes (le : (Scope.of [.dec] []).Le scope) (within : Within scope old s) (st : Nat) :
    Within scope old (s.evictPin st) := by
  unfold State.evictPin
  dsimp only
  (repeat' split) <;> with_reducible apply_rules [within, State.setPic_changes, Within.ite, le.has, le.sub, le.writes]

theorem State.pinPicture_changes (le : (Scope.of [.dec] []).Le scope) (within : Within scope old s) (st m : Nat) :
    Within scope old (s.pinPicture st m) := by
  unfold State.pinPicture
  dsimp only
  (repeat' split) <;> with_reducible apply_rules [within, State.evictPin_changes, State.setPic_changes, Within.ite, le.has, le.sub,
                                                  le.writes]

theorem State.takeSlot_changes (le : (Scope.of [.dec] []).Le scope) (within : Within scope old s) (n : Nat) :
    Within scope old (s.takeSlot n) := by
  unfold State.takeSlot
  dsimp only
  split <;> with_reducible apply_rules [within, State.evictPin_changes, State.setPic_changes, Within.ite, le.has, le.sub, le.writes]

theorem State.mapCores_changes (le : (Scope.of [.dec] []).Le scope) (within : Within scope old s) (f : DecCore → DecCore) :
    Within scope old (s.mapCores f) := by
  unfold State.mapCores
  with_reducible apply_rules [within, Within.dec, le.has, le.sub, le.writes]
  decide +kernel

theorem State.markConcealed_changes (le : (Scope.of [.dec] []).Le scope) (within : Within scope old s) (n : Nat) :
    Within scope old (s.markConcealed n) := by
  unfold State.markConcealed
  with_reducible apply_rules [within, State.setStream_changes, State.setPic_changes, Within.ite, le.has, le.sub, le.writes]

theorem State.conceal_changes (le : (Scope.of [.dec] []).Le scope) (within : Within scope old s) (n : Nat) :
    Within scope old (s.conceal n) := by
  have marked := State.markConcealed_changes (le.sub (by decide +kernel)) within n
  exact marked.foldl (fun _ _ h => .ite (State.markConcealed_changes (le.sub (by decide +kernel)) h _) h) _

theorem State.startPicture_changes (le : (Scope.report.plus [.dec] []).Le scope) (within : Within scope old s) (n : Nat) :
    Within scope old (s.startPicture n) := by
  unfold State.startPicture
  with_reducible apply_rules [within, State.setPic_changes, State.mapPics_changes, State.setStream_changes, State.takeSlot_changes,
                              State.streamEvent_changes, Within.ite, le.has, le.sub, le.writes] <;> decide +kernel

theorem State.dispatch_changes (le : (Scope.report.plus [.dec] []).Le scope) (within : Within scope old s) (c : Nat) :
    Within scope old (s.dispatch c) := by
  unfold State.dispatch
  refine .ite within ?_
  split
  · exact within
  next n _ =>
    refine .ite within ?_
    have set : ∀ p y, Within scope old (((if
        (s.pic n).dispatched = 0 then s.startPicture n else s).setPic n p).setCore c y) := fun p y =>
      State.setCore_changes (le.sub (by decide +kernel)) (State.setPic_changes (le.sub (by decide +kernel)) (.ite
          (State.startPicture_changes (le.sub (by decide +kernel)) within n) within) ..) ..
    exact .ite (State.mapCores_changes (le.sub (by decide +kernel)) (.ite (set ..) ((set ..).dec (le.has
        (by decide +kernel)) _)) _) (.ite (set ..) ((set ..).dec (le.has (by decide +kernel)) _))

theorem State.returnBands_changes (le : (Scope.of [.dec] []).Le scope) (within : Within scope old s) (n k : Nat) :
    Within scope old (s.returnBands n k) := by
  unfold State.returnBands
  dsimp only
  split <;> with_reducible apply_rules [within, State.setPic_changes, Within.dec, Within.ite, le.has, le.sub,
                                        le.writes] <;> decide +kernel

theorem State.dropUnheld_changes (le : (Scope.of [.dec] []).Le scope) (within : Within scope old s) :
    Within scope old (s.dropUnheld) := by
  unfold State.dropUnheld
  exact State.keepPics_changes (le.sub (by decide +kernel)) (within.foldl (fun _ _ h => State.returnBands_changes (le.sub
      (by decide +kernel)) h ..) _) _

theorem State.releaseWindowless_changes (le : (Scope.of [.dec] []).Le scope) (within : Within scope old s) :
    Within scope old (s.releaseWindowless) := by
  unfold State.releaseWindowless
  with_reducible apply_rules [within, State.dropUnheld_changes, State.mapPics_changes, Within.ite, le.has, le.sub, le.writes]

theorem State.reportMissing_changes (le : (Scope.report.plus [.dec] []).Le scope) (within : Within scope old s) (n : Nat)
    (rs : List (Nat × Nat × Nat)) :
    Within scope old (s.reportMissing n rs) := by
  induction rs generalizing s with
  | nil => exact within
  | cons x rs ih =>
    obtain ⟨r, kind, order⟩ := x
    exact ih (State.conceal_changes (le.sub (by decide +kernel)) (.ite within (State.streamEvent_changes (le.sub
        (by decide +kernel)) (State.setStream_changes (le.sub (by decide +kernel)) within ..) ..)) _)

theorem State.issueBands_changes (le : (Scope.of [.pool, .mem, .dram, .dec] []).Le scope) (within : Within scope old s) (n : Nat) :
    Within scope old (s.issueBands n) := by
  have stored := State.storeRows_changes (le.sub (by decide +kernel)) within n (min (s.pic n).info.height (16 *
      (s.pic n).finalBands))
  exact Within.dec (le.has (by decide +kernel)) (State.setPic_changes (le.sub (by decide +kernel)) stored ..) _

theorem State.settleTargets_changes (le : (Scope.of [.dec] []).Le scope) (within : Within scope old s) (st n : Nat) :
    Within scope old (s.settleTargets st n) := by
  induction n generalizing s with
  | zero => exact within
  | succ n ih =>
    unfold State.settleTargets
    dsimp only
    split
    · exact within
    · exact .ite within (ih (State.setStream_changes (le.sub (by decide +kernel)) (State.setPic_changes (le.sub
        (by decide +kernel)) within ..) ..))

theorem State.settleAll_changes (le : (Scope.of [.dec] []).Le scope) (within : Within scope old s) :
    Within scope old (s.settleAll) := by
  unfold State.settleAll
  refine within.foldl (fun t a within => ?_) _
  with_reducible apply_rules [within, State.settleTargets_changes, Within.foldl, le.has, le.sub, le.writes]

theorem State.finishOutput_changes (le : (Scope.report.plus [.dec] []).Le scope) (within : Within scope old s) (n : Nat) :
    Within scope old (s.finishOutput n) := by
  unfold State.finishOutput
  with_reducible apply_rules [within, State.setStream_changes, State.setPic_changes, State.streamEvent_changes, Within.ite, le.has,
                              le.sub, le.writes] <;> decide +kernel

theorem State.pinMarked_changes (le : (Scope.of [.dec] []).Le scope) (within : Within scope old s) (n : Nat) :
    Within scope old (s.pinMarked n) := by
  refine .ite within (within.foldl (fun t o h => ?_) _)
  split
  · exact State.pinPicture_changes (le.sub (by decide +kernel)) h ..
  · exact h

theorem State.concealEnd_changes (le : (Scope.report.plus [.dec] []).Le scope) (within : Within scope old s) (n : Nat) :
    Within scope old (s.concealEnd n) := by
  unfold State.concealEnd
  with_reducible apply_rules [within, State.streamEvent_changes, State.setStream_changes, Within.ite, le.has, le.sub,
                              le.writes] <;> decide +kernel

theorem State.pictureDone_changes (le : (Scope.report.plus [.dec] Part.misuseFields).Le scope) (within : Within scope old s)
    (n : Nat) :
    Within scope old (s.pictureDone n) := by
  unfold State.pictureDone
  with_reducible apply_rules [within, State.freeBufs_changes, State.conceal_changes, State.concealEnd_changes,
                              State.pinMarked_changes, State.settleTargets_changes, State.finishOutput_changes, Within.ite, le.has,
                              le.sub, le.writes] <;> decide +kernel

theorem State.recheck_changes (le : Scope.report.Le scope) (within : Within scope old s) (cause : Nat) :
    Within scope old (s.recheck cause) := by
  unfold State.recheck
  refine within.foldl (fun t a within => ?_) _
  with_reducible apply_rules [within, State.streamEvent_changes, Within.foldl, Within.ite, le.has, le.sub, le.writes]

theorem State.coreOffline_changes (le : (Scope.report.plus [.dec] []).Le scope) (within : Within scope old s) (c : Nat) :
    Within scope old (s.coreOffline c) := by
  unfold State.coreOffline
  with_reducible apply_rules [within, State.recheck_changes, State.setCore_changes, Within.ite, le.has, le.sub,
                              le.writes] <;> decide +kernel

theorem State.foundBad_changes (le : (Scope.latch.plus [.pool, .mem, .dram, .dec] []).Le scope) (within : Within scope old s)
    (p : Picture) (bad : List (Nat × Nat)) :
    Within scope old (s.foundBad p bad) :=
  .ite within (State.latch_changes (le.sub (by decide +kernel)) (within.foldl (fun _ _ h => State.setPic_changes (le.sub
      (by decide +kernel)) (h.foldl (fun _ _ h => State.dramPut_changes (le.sub (by decide +kernel)) h ..) _) ..) _) ..)

theorem State.fillUnit_changes (le : (Scope.report.plus [.dec] []).Le scope) (within : Within scope old s) (n u : Nat)
    (res : UnitResult) :
    Within scope old (s.fillUnit n u res) := by
  unfold State.fillUnit
  dsimp only
  split <;> with_reducible apply_rules [within, State.setStream_changes, State.setPic_changes, State.streamEvent_changes,
                                        State.conceal_changes, Within.ite, le.has, le.sub, le.writes] <;> decide +kernel

theorem State.unitOf_changes (le : (Scope.report.plus [.dec] Part.misuseFields).Le scope) (within : Within scope old s) (n u : Nat)
    (res : UnitResult) :
    Within scope old (s.unitOf n u res) := by
  have done : ∀ y p, Within scope old ((((if (s.pic n).done = [] then
      (s.setStream (s.pic n).stream y).reportMissing n (s.pic n).missing else s.setStream (s.pic n).stream y).foundBad
          (s.pic n) res.compBad).fillUnit
        n u res).setPic n p) := fun y p =>
    State.setPic_changes (le.sub (by decide +kernel)) (State.fillUnit_changes (le.sub (by decide +kernel)) (State.foundBad_changes
        (le.sub (by decide +kernel)) (.ite (State.reportMissing_changes (le.sub (by decide +kernel)) (State.setStream_changes
        (le.sub (by decide +kernel)) within ..) ..) (State.setStream_changes (le.sub (by decide +kernel)) within ..)) ..) ..) ..
  have issued : ∀ y p {c : Prop} [Decidable c], Within scope old _ := fun y p c _ =>
    State.issueBands_changes (le.sub (by decide +kernel)) (.ite (c := c) (State.pictureDone_changes (le.sub (by decide +kernel))
        (done y p) n) (done y p)) n
  exact State.dropUnheld_changes (le.sub (by decide +kernel)) (.ite (State.packPicture_changes (le.sub (by decide +kernel))
      (issued ..) _) (issued ..))

theorem State.unitDone_changes (le : (Scope.report.plus [.dec] Part.misuseFields).Le scope) (within : Within scope old s) (c : Nat)
    (res : UnitResult) :
    Within scope old (s.unitDone c res) := by
  unfold State.unitDone
  with_reducible apply_rules [within, State.setCore_changes, State.unitOf_changes, State.coreOffline_changes, Within.ite, le.has,
                              le.sub, le.writes] <;> decide +kernel

theorem State.pinCopied_changes (le : (Scope.of [.pool, .mem, .dram, .dec] []).Le scope) (within : Within scope old s)
    (st order : Nat) :
    Within scope old (s.pinCopied st order) := by
  unfold State.pinCopied
  split <;> with_reducible apply_rules [within, State.dropUnheld_changes, State.copyPlain_changes, State.setPic_changes, le.has,
                                        le.sub, le.writes] <;> decide +kernel

theorem State.faultStream_changes (le : (Scope.report.plus [.dec, .enc, .esc] Part.misuseFields).Le scope) (within :
    Within scope old s) (st n : Nat) :
    Within scope old (s.faultStream st n) := by
  unfold State.faultStream
  refine Within.foldl (State.streamTo_changes (le.sub (by decide +kernel)) (State.setStream_changes (le.sub (by decide +kernel))
      (State.keepPics_changes (le.sub (by decide +kernel)) (State.freeBufs_changes (le.sub (by decide +kernel))
      (State.mapCores_changes (le.sub (by decide +kernel)) ?_ _) _) _) ..) ..) (fun _ _ h => .ite h (State.finish_changes (le.sub
      (by decide +kernel)) h ..)) _
  exact within.foldl (fun _ _ h => State.escRequest_changes (le.sub (by decide +kernel)) h ..) _

theorem State.decCoreFault_changes (le : (Scope.report.plus [.dec, .enc, .esc] Part.misuseFields).Le scope) (within :
    Within scope old s) (c : Nat) :
    Within scope old (s.decCoreFault c) := by
  unfold State.decCoreFault
  with_reducible apply_rules [within, State.escRequest_changes, State.latch_changes, State.setCore_changes,
                              State.faultStream_changes, State.coreOffline_changes, Within.ite, le.has, le.sub,
                              le.writes] <;> decide +kernel

theorem State.unitEnd_changes (le : (Scope.report.plus [.dec, .enc, .esc] Part.misuseFields).Le scope) (within :
    Within scope old s) (c : Nat) (res : UnitResult) :
    Within scope old (s.unitEnd c res) := by
  have checked := State.check_changes (le.sub (by decide +kernel)) (State.check_changes (le.sub
      (by decide +kernel)) within .decSram (c / 8)) .rfsSram 0
  unfold State.unitEnd
  refine .ite within ?_
  dsimp only
  split
  next h => exact State.decCoreFault_changes (le.sub (by decide +kernel)) (State.takeInject_changes (le.sub
      (by decide +kernel)) checked h) _
  next h => exact State.faultStream_changes (le.sub (by decide +kernel)) (State.latch_changes (le.sub (by decide +kernel))
      (State.takeInject_changes (le.sub (by decide +kernel)) checked h) ..) ..
  next => exact .ite (State.faultStream_changes (le.sub (by decide +kernel)) (State.setCore_changes (le.sub
      (by decide +kernel)) checked ..) ..) (.ite checked (State.unitDone_changes (le.sub (by decide +kernel)) checked ..))

theorem State.decReset_changes (le : (Scope.of [.dec, .esc] []).Le scope) (within : Within scope old s) (c : Nat) :
    Within scope old (s.decReset c) := by
  unfold State.decReset
  with_reducible apply_rules [within, State.escAdopt_changes, State.setCore_changes, Within.ite, le.has, le.sub,
                              le.writes] <;> decide +kernel

theorem State.decCtl_changes (le : (Scope.report.plus [.dec, .esc] []).Le scope) (within : Within scope old s) (c v : Nat) :
    Within scope old (s.decCtl c v) := by
  unfold State.decCtl
  dsimp only
  (repeat' split) <;> with_reducible apply_rules [within, State.setCore_changes, State.coreOffline_changes, State.decReset_changes,
                                                  Within.ite, le.has, le.sub, le.writes] <;> decide +kernel

theorem State.setWin_changes (le : (Scope.of [.cnv] []).Le scope) (within : Within scope old s) (w : Nat) (x : WinState) :
    Within scope old (s.setWin w x) := by
  unfold State.setWin
  with_reducible apply_rules [within, Within.cnv, le.has, le.sub, le.writes]
  decide +kernel

theorem State.showPic_changes (le : (Scope.report.plus [.cnv] []).Le scope) (within : Within scope old s) (w : Nat) (e : Bytes)
    (k : Nat) (b : Bool) (n : Nat) (repeated : Bool) (signal : Nat × Nat × Nat × Nat) :
    Within scope old (s.showPic w e k b n repeated signal) := by
  unfold State.showPic
  dsimp only
  split <;> with_reducible apply_rules [within, State.setWin_changes, State.event_changes, Within.cnv, Within.ite, le.has, le.sub,
                                        le.writes] <;> decide +kernel

theorem State.bind_changes (le : (Scope.report.plus [.dec, .cnv] []).Le scope) (within : Within scope old s) (w : Nat) (e : Bytes)
    (k : Nat) (b : Bool) (n : Nat) :
    Within scope old (s.bind w e k b n) := by
  have shown := fun f y z b => State.showPic_changes (le.sub (by decide +kernel)) (State.setStream_changes (le.sub
      (by decide +kernel)) (State.mapPics_changes (le.sub (by decide +kernel)) within f) (s.pic n).stream y) w e k b n false z
  unfold State.bind
  refine State.dropUnheld_changes (le.sub (by decide +kernel)) (.ite (shown _ _ _ _) ((shown _ _ _ _).foldl (fun t c h =>
      State.setCore_changes (le.sub (by decide +kernel)) h ..) _))

theorem State.countLate_changes (le : (Scope.of [.dec] []).Le scope) (within : Within scope old s) (st k : Nat) :
    Within scope old (s.countLate st k) := by
  unfold State.countLate
  with_reducible apply_rules [within, State.setStream_changes, Within.ite, le.has, le.sub, le.writes]

theorem State.repeatPic_changes (le : (Scope.report.plus [.cnv] []).Le scope) (within : Within scope old s) (w : Nat) (e : Bytes)
    (k : Nat) (b : Bool) (mine : Option Nat) :
    Within scope old (s.repeatPic w e k b mine) := by
  unfold State.repeatPic
  split <;> with_reducible apply_rules [within, State.showPic_changes, State.setWin_changes, le.has, le.sub,
                                        le.writes] <;> decide +kernel

theorem State.pickup_changes (le : (Scope.report.plus [.dec, .cnv] []).Le scope) (within : Within scope old s) (w : Nat) :
    Within scope old (s.pickup w) := by
  have repeated : ∀ {t : State}, Within scope old t → ∀ e k b m, Within scope old
      (t.repeatPic w e k b m).dropUnheld := fun h e k b m =>
    State.dropUnheld_changes (le.sub (by decide +kernel)) (State.repeatPic_changes (le.sub (by decide +kernel)) h ..)
  unfold State.pickup
  split
  · exact within
  · split
    · exact within
    · refine .ite (repeated within ..) ?_
      dsimp only
      split
      · exact State.bind_changes (le.sub (by decide +kernel)) within ..
      · exact repeated (State.countLate_changes (le.sub (by decide +kernel)) within ..) ..

theorem State.meterCfg_changes (le : (Scope.latch.plus [.rng] []).Le scope) (within : Within scope old s) (m v : Nat) :
    Within scope old (s.meterCfg m v) := by
  unfold State.meterCfg
  with_reducible apply_rules [within, State.absentPage_changes, State.setMeter_changes, Within.ite, le.has, le.sub,
                              le.writes] <;> decide +kernel

theorem State.meterRate_changes (le : (Scope.latch.plus [.rng] []).Le scope) (within : Within scope old s) (m reg v : Nat) :
    Within scope old (s.meterRate m reg v) := by
  unfold State.meterRate
  dsimp only
  (repeat' split) <;> with_reducible apply_rules [within, State.absentPage_changes, State.setMeter_changes, State.latch_changes,
                                                  Within.ite, le.has, le.sub, le.writes] <;> decide +kernel

theorem State.entryAt_changes (le : (Scope.of [.freeCtr, .hst, .hostMem, .mem] []).Le scope) (within : Within scope old s)
    (r i : Nat) (given : Bytes) :
    Within scope old (s.entryAt r i given).2 := by
  unfold State.entryAt
  dsimp only
  (repeat' split) <;> with_reducible apply_rules [within, State.biasRead_changes, State.hostReq_changes, State.cachePut_changes,
                                                  Within.ite, le.has, le.sub, le.writes] <;> decide +kernel

theorem State.entriesAt_changes (le : (Scope.of [.freeCtr, .hst, .hostMem, .mem] []).Le scope) (within : Within scope old s)
    (r i n : Nat) (given : List Bytes) :
    Within scope old (s.entriesAt r i n given).2 := by
  unfold State.entriesAt
  refine Within.foldlPair (x := ([], s)) within (fun acc k h => ?_) _
  exact State.entryAt_changes (le.sub (by decide +kernel)) h r (wrap 32 (i + k)) (given.getD k [])

theorem State.coverPackets_changes (le : (Scope.report.plus [.dec, .enc] Part.misuseFields).Le scope) (within : Within scope old s)
    (r d : Nat) (entries : List Bytes) :
    Within scope old (s.coverPackets r d entries) := by
  unfold State.coverPackets
  with_reducible apply_rules [within, State.setRing_changes, State.entriesAt_changes, State.freeBufs_changes, State.latch_changes,
                              State.ringRun_changes, Within.foldl, Within.ite, le.has, le.sub, le.writes] <;> decide +kernel

theorem State.coverBuffers_changes (le : (Scope.of [.freeCtr, .hst, .hostMem, .rng, .mem] []).Le scope) (within :
    Within scope old s) (r d : Nat) (entries : List Bytes) :
    Within scope old (s.coverBuffers r d entries) := by
  unfold State.coverBuffers
  with_reducible apply_rules [within, State.setRing_changes, State.entriesAt_changes, Within.ite, le.has, le.sub,
                              le.writes] <;> decide +kernel

theorem State.dbReject_changes (le : (Scope.latch.plus [] [Reg.HST_DB_REJECT]).Le scope) (within : Within scope old s) :
    Within scope old (s.dbReject) := by
  unfold State.dbReject
  with_reducible apply_rules [within, State.latch_changes, State.countSat_changes, le.has, le.sub, le.writes] <;> decide +kernel

theorem State.doorbellPi_changes (le : (Scope.report.plus [.dec, .enc] (Part.misuseFields ++ [Reg.HST_DB_REJECT])).Le scope)
    (within : Within scope old s) (r v : Nat) (entries : List Bytes) :
    Within scope old (s.doorbellPi r v entries) := by
  have set : ∀ {t : State}, Within scope old t → ∀ x, Within scope old (t.setRing r x) := fun h x => State.setRing_changes (le.sub
      (by decide +kernel)) h ..
  refine .ite within (.ite (State.dbReject_changes (le.sub (by decide +kernel)) within) (.ite within (State.ringAccess_changes
      (le.sub (by decide +kernel)) within _ _ fun t h => ?_)))
  exact .ite (State.latch_changes (le.sub (by decide +kernel)) (set h _) ..) (.ite (State.coverPackets_changes (le.sub
      (by decide +kernel)) h ..) (.ite (State.coverBuffers_changes (le.sub (by decide +kernel)) h ..) (set h _)))

theorem State.doorbellCi_changes (le : (Scope.report.plus [] (Part.misuseFields ++ [Reg.HST_DB_REJECT])).Le scope) (within :
    Within scope old s) (r v : Nat) :
    Within scope old (s.doorbellCi r v) := by
  have set : ∀ {t : State}, Within scope old t → ∀ x, Within scope old (t.setRing r x) := fun h x => State.setRing_changes (le.sub
      (by decide +kernel)) h ..
  refine .ite within (.ite (State.dbReject_changes (le.sub (by decide +kernel)) within) (.ite within (State.ringAccess_changes
      (le.sub (by decide +kernel)) within _ _ fun t h => ?_)))
  exact .ite (set h _) (.ite (State.latch_changes (le.sub (by decide +kernel)) (set h _) ..) (State.latch_changes (le.sub
      (by decide +kernel)) (set h _) ..))

theorem State.countYdrop_changes (le : (Scope.of [.rng] []).Le scope) (within : Within scope old s) (m : Nat) :
    Within scope old (s.countYdrop m) := by
  unfold State.countYdrop
  with_reducible apply_rules [within, State.setMeter_changes, Within.ite, le.has, le.sub, le.writes]

theorem State.dropYellow_changes (le : (Scope.report.plus [.dec] Part.misuseFields).Le scope) (within : Within scope old s)
    (w : Waiting) :
    Within scope old (s.dropYellow w) := by
  unfold State.dropYellow
  dsimp only
  (repeat' split) <;> with_reducible apply_rules [within, State.unitsLost_changes, State.keepPics_changes, State.countYdrop_changes,
                                                  State.freeBufs_changes, State.mapPics_changes, State.setStream_changes,
                                                  State.setRing_changes, Within.ite, le.has, le.sub, le.writes] <;> decide +kernel

theorem State.yellowOut_changes (le : (Scope.report.plus [.dec] Part.misuseFields).Le scope) (within :
    Within scope old s) {t : State} (ht : (s.yellowOut) = some t) :
    Within scope old t := by
  unfold State.yellowOut at ht
  obtain ⟨e, -, rfl⟩ := Option.map_eq_some_iff.mp ht
  exact State.dropYellow_changes (le.sub (by decide +kernel)) within _

theorem State.payloadBufs_changes (le : (Scope.report.plus [.dec] (Part.misuseFields ++ [Reg.BPM_STATUS_REBUILD])).Le scope)
    (within : Within scope old s) (n : Nat) (green : Bool) (k : Nat) :
    Within scope old (s.payloadBufs n green k).2 := by
  induction k generalizing s with
  | zero => exact State.poolAllocN_changes (le.sub (by decide +kernel)) within ..
  | succ k ih =>
    have tried := State.poolAllocN_changes (le.sub (by decide +kernel)) within 2 n []
    unfold State.payloadBufs
    split
    next h => exact .ofPair h tried
    next h =>
      have left := Within.ofPair h tried
      split
      · split
        next h => exact ih (State.yellowOut_changes (le.sub (by decide +kernel)) left h)
        next => exact left
      · exact left

theorem State.payloadReqs_changes (le : (Scope.of [.hst, .mem] []).Le scope) (within : Within scope old s) (r : Nat) (segs : List
    (Nat × Nat)) :
    Within scope old (s.payloadReqs r segs) := by
  unfold State.payloadReqs
  refine within.foldl (fun t a within => ?_) _
  with_reducible apply_rules [within, State.biasRead_changes, State.hostReq_changes, Within.foldl, Within.ite, le.has, le.sub,
                              le.writes]
  decide +kernel

theorem State.discardHead_changes (le : (Scope.report.plus [.dec, .enc] Part.misuseFields).Le scope) (within : Within scope old s)
    (r : Nat) (p : Pkt) (ps : List Pkt) :
    Within scope old (s.discardHead r p ps) := by
  unfold State.discardHead
  with_reducible apply_rules [within, State.arrive_changes, State.setRing_changes, State.countYdrop_changes, Within.ite, le.has,
                              le.sub, le.writes] <;> decide +kernel

theorem State.fetchHead_changes (le : (Scope.report.plus [.dec, .enc] (Part.misuseFields ++ [Reg.BPM_STATUS_REBUILD])).Le scope)
    (within : Within scope old s) (r : Nat) :
    Within scope old (s.fetchHead r) := by
  unfold State.fetchHead
  split
  · exact within
  · refine .ite within ?_
    split
    next h => exact State.payloadReqs_changes (le.sub (by decide +kernel)) (State.setRing_changes (le.sub (by decide +kernel))
        (.ofPair h (State.payloadBufs_changes (le.sub (by decide +kernel)) within ..)) ..) ..
    next h =>
      have left := Within.ofPair h (State.payloadBufs_changes (le.sub (by decide +kernel)) within ..)
      exact .ite left (State.ringRun_changes (le.sub (by decide +kernel)) (State.discardHead_changes (le.sub
          (by decide +kernel)) left ..) ..)

theorem State.fetchPayload_changes (le : (Scope.report.plus [.dec, .enc] (Part.misuseFields ++ [Reg.BPM_STATUS_REBUILD])).Le scope)
    (within : Within scope old s) (r : Nat) :
    Within scope old (s.fetchPayload r) :=
  .ite within (State.ringAccess_changes (le.sub (by decide +kernel)) within _ _ fun _ h => State.fetchHead_changes (le.sub
      (by decide +kernel)) h _)

theorem State.fillBufs_changes (le : (Scope.of [.pool, .mem, .dram] []).Le scope) (within : Within scope old s) (bufs : List Nat)
    (d : Bytes) :
    Within scope old (s.fillBufs bufs d) := by
  induction bufs generalizing s d with
  | nil => exact within
  | cons b bs ih => exact ih (State.bufWrite_changes (le.sub (by decide +kernel)) within ..) _

theorem State.payloadHead_changes (le : (Scope.report.plus [.dec, .enc] Part.misuseFields).Le scope) (within : Within scope old s)
    (r : Nat) (p : Pkt) (ps : List Pkt) (given : Bytes) (au : AuInfo) :
    Within scope old (s.payloadHead r p ps given au) := by
  unfold State.payloadHead
  with_reducible apply_rules [within, State.ringRun_changes, State.freeBufs_changes, State.setRing_changes, State.fillBufs_changes,
                              Within.ite, le.has, le.sub, le.writes] <;> decide +kernel

theorem State.payloadDone_changes (le : (Scope.report.plus [.dec, .enc] Part.misuseFields).Le scope) (within : Within scope old s)
    (r : Nat) (given : Bytes) (au : AuInfo) :
    Within scope old (s.payloadDone r given au) := by
  unfold State.payloadDone
  split
  · exact within
  · exact .ite within (.ite (State.ringRun_changes (le.sub (by decide +kernel)) (State.freeBufs_changes (le.sub
      (by decide +kernel)) (State.setRing_changes (le.sub (by decide +kernel)) within ..) _) ..) (State.ringAccess_changes (le.sub
      (by decide +kernel)) within _ _ fun _ h => State.payloadHead_changes (le.sub (by decide +kernel)) h ..))

theorem State.disableRing_changes (le : (Scope.latch.plus [.rng, .pool, .mem, .dram] Part.misuseFields).Le scope) (within :
    Within scope old s) (r : Nat) :
    Within scope old (s.disableRing r) := by
  unfold State.disableRing
  with_reducible apply_rules [within, State.dropPkts_changes, State.setRing_changes, le.has, le.sub, le.writes]
  decide +kernel

theorem State.ringCfg_changes (le : (Scope.latch.plus [.rng, .pool, .mem, .dram] Part.misuseFields).Le scope) (within :
    Within scope old s) (r v : Nat) :
    Within scope old (s.ringCfg r v) := by
  unfold State.ringCfg
  with_reducible apply_rules [within, State.latch_changes, State.disableRing_changes, State.setRing_changes, Within.ite, le.has,
                              le.sub, le.writes] <;> decide +kernel

theorem State.ringWrite_changes (le : (Scope.latch.plus [.rng, .pool, .mem, .dram] Part.misuseFields).Le scope) (within :
    Within scope old s) (r reg v : Nat) :
    Within scope old (s.ringWrite r reg v) := by
  unfold State.ringWrite
  dsimp only
  (repeat' split) <;> with_reducible apply_rules [within, State.absentPage_changes, State.ringCfg_changes, State.latch_changes,
                                                  State.setRing_changes, Within.ite, le.has, le.sub, le.writes] <;> decide +kernel

theorem State.accept_changes (le : (Scope.of [.rng] []).Le scope) (within : Within scope old s) (r index : Nat) (e : Bytes) :
    Within scope old (s.accept r index e) := by
  unfold State.accept
  with_reducible apply_rules [within, Within.rng, le.has, le.sub, le.writes] <;> decide +kernel

theorem State.fetchCommand_changes (le : (Scope.report.plus [] Part.misuseFields).Le scope) (within : Within scope old s) (r : Nat)
    (given : Bytes) :
    Within scope old (s.fetchCommand r given) := by
  refine .ite within (State.ringAccess_changes (le.sub (by decide +kernel)) within _ _ fun t h => ?_)
  dsimp only
  have taken : ∀ y, Within scope old ((t.entryAt r (s.ring r).ci given).2.setRing r y) := fun y => State.setRing_changes (le.sub
      (by decide +kernel)) (State.entryAt_changes (le.sub (by decide +kernel)) h ..) ..
  split
  · exact State.accept_changes (le.sub (by decide +kernel)) (taken _) ..
  · exact State.completion_changes (le.sub (by decide +kernel)) (taken _) ..

theorem State.unfence_changes (le : (Scope.of [.rng] []).Le scope) (within : Within scope old s) (j : Nat) :
    Within scope old (s.unfence j) := by
  unfold State.unfence
  split <;> with_reducible apply_rules [within, Within.rng, Within.ite, le.has, le.sub, le.writes] <;> decide +kernel

theorem State.doQuery_changes (le : Scope.report.Le scope) (within : Within scope old s) (j : Nat) :
    Within scope old (s.doQuery j) := by
  unfold State.doQuery
  with_reducible apply_rules [within, State.finish_changes, le.has, le.sub, le.writes]

theorem State.queryCtl_changes (le : (Scope.of [.regs, .rng] [Reg.SYS_QUERY_DATA, Reg.SYS_QUERY_RESULT_IGNORED,
    Reg.SYS_QUERY_RESULT_READS, Reg.SYS_QUERY_RESULT_VALID]).Le scope) (within : Within scope old s) (v : Nat) :
    Within scope old (s.queryCtl v) := by
  unfold State.queryCtl
  split
  · exact State.countSat_changes (le.has (by decide +kernel)) (le.writes (by decide +kernel)) within ..
  · have asked := within.rng (le.has (by decide +kernel)) { s.rng with query := some (bits v 7 0, bits v 31 8) }
    exact .foldl (.setFld (le.has (by decide +kernel)) (le.writes (by decide +kernel)) (.setFld (le.has (by decide +kernel))
        (le.writes (by decide +kernel)) asked ..) ..) (fun _ k h => h.setFld (le.has (by decide +kernel)) (le.writes
        (by decide +kernel)) k 0) _

theorem State.queryReady_changes (le : (Scope.of [.regs, .rng] [Reg.SYS_QUERY_DATA, Reg.SYS_QUERY_RESULT_SEQ,
    Reg.SYS_QUERY_RESULT_STATUS, Reg.SYS_QUERY_RESULT_VALID]).Le scope) (within : Within scope old s) :
    Within scope old (s.queryReady) := by
  unfold State.queryReady
  split
  · exact within
  · next sel arg _ =>
    rcases s.answer 0 sel arg with ⟨st, r⟩
    exact .setFld (le.has (by decide +kernel)) (le.writes (by decide +kernel)) (.setFld (le.has (by decide +kernel)) (le.writes
        (by decide +kernel)) (State.count_changes (le.has (by decide +kernel)) (le.writes (by decide +kernel)) (.foldl (.rng
        (le.has (by decide +kernel)) within _)
      (fun _ k h => h.setFld (le.has (by decide +kernel)) (le.writes (by decide +kernel)) k _) _) ..) ..) ..

theorem State.translationFail_changes (le : Scope.report.Le scope) (within : Within scope old s) (r index : Nat) :
    Within scope old (s.translationFail r index) := by
  unfold State.translationFail
  dsimp only
  (repeat' split) <;> with_reducible apply_rules [within, State.setRing_changes, State.finish_changes, State.latch_changes,
                                                  State.ringEvent_changes, Within.ite, le.has, le.sub, le.writes] <;> decide +kernel

end

end Sys2Proof.Machine
end

section
/-! PROOFS. Frames of the operations of calibres, canvas, fusion and driving, mezzanine, the switch and the scheduler
(06_wall_model_and_calibres.md to 13_beats_and_scheduling.md). -/

namespace Sys2Proof.Machine

section
-- The lemmas are many and small: one after another they need one thread only.
set_option Elab.async false

variable {scope : Scope} {old s : State}

theorem State.setPort_changes (le : (Scope.of [.plk] []).Le scope) (within : Within scope old s) (p : Nat) (x : PlkPort) :
    Within scope old (s.setPort p x) := by
  unfold State.setPort
  with_reducible apply_rules [within, Within.plk, le.has, le.sub, le.writes]
  decide +kernel

theorem State.setPosn_changes (le : (Scope.of [.plk] []).Le scope) (within : Within scope old s) (p q : Nat) (x : Position) :
    Within scope old (s.setPosn p q x) := by
  unfold State.setPosn
  with_reducible apply_rules [within, State.setPort_changes, le.has, le.sub, le.writes]

theorem State.clbEvent_changes (le : Scope.report.Le scope) (within : Within scope old s) (code source : Nat) (args : List Nat) :
    Within scope old (s.clbEvent code source args) := by
  unfold State.clbEvent
  with_reducible apply_rules [within, State.event_changes, le.has, le.sub, le.writes]

theorem State.identEvents_changes (le : Scope.report.Le scope) (within : Within scope old s) (before after : Tab TileIdent)
    (tileOf place : Nat → Nat) :
    Within scope old (s.identEvents before after tileOf place) :=
  within.foldl (fun _ _ h => .ite h (State.clbEvent_changes (le.sub (by decide +kernel)) h ..)) _

theorem State.takeIdents_changes (le : (Scope.report.plus [.clb] [Reg.CLB_DARK_TILES]).Le scope) (within : Within scope old s)
    (prev im : Bytes) (new mirrors : Tab TileIdent) :
    Within scope old (s.takeIdents prev im new mirrors) :=
  Within.setFld (f := Reg.CLB_DARK_TILES) (le.has (by decide +kernel)) (le.writes (by decide +kernel)) (State.identEvents_changes
      (le.sub (by decide +kernel)) (State.identEvents_changes (le.sub (by decide +kernel)) (within.clb (le.has
      (by decide +kernel)) _) ..) ..) ..

theorem State.updateIdents_changes (le : (Scope.report.plus [.clb] [Reg.CLB_DARK_TILES]).Le scope) (within : Within scope old s) :
    Within scope old (s.updateIdents) := by
  unfold State.updateIdents
  split <;> with_reducible apply_rules [within, State.takeIdents_changes, le.has, le.sub, le.writes]

theorem State.fetchImage_changes (le : (Scope.latch.plus [.hst, .mem] Part.eccFields).Le scope) (within : Within scope old s)
    (src n : Nat) (given : Bytes) (read : ReadEnd) (port : Nat) :
    Within scope old (s.fetchImage src n given read port).2 := by
  unfold State.fetchImage
  dsimp only
  (repeat' split) <;> with_reducible apply_rules [within, State.engineRead_changes, State.hostReq_changes, Within.ite, le.has,
                                                  le.sub, le.writes] <;> decide +kernel

theorem State.readFailed_changes (le : Scope.report.Le scope) (within : Within scope old s) (j src : Nat) (read : ReadEnd) :
    Within scope old (s.readFailed j src read) := by
  unfold State.readFailed
  with_reducible apply_rules [within, State.finish_changes, State.translationFail_changes, Within.ite, le.has, le.sub, le.writes]

theorem State.gainReads_changes (le : (Scope.latch.plus [.hst, .mem] Part.eccFields).Le scope) (within : Within scope old s)
    (im : Bytes) :
    Within scope old (s.gainReads im) := by
  unfold State.gainReads
  refine within.foldl (fun t a within => ?_) _
  with_reducible apply_rules [within, State.engineRead_changes, Within.foldl, Within.ite, le.has, le.sub, le.writes]

theorem State.calibreWrite_changes (le : (Scope.report.plus [.clb] Part.eccFields).Le scope) (within : Within scope old s)
    (j : Nat) (given : Bytes) (read : ReadEnd) :
    Within scope old (s.calibreWrite j given read) := by
  have ended : ∀ {t : State}, Within scope old t → ∀ r a b, Within scope old (t.finish j r a b) := fun h r a b =>
      State.finish_changes (le.sub (by decide +kernel)) h ..
  have fetched := State.fetchImage_changes (le.sub (by decide +kernel)) within (field (s.job j).args 8 8) (field
      (s.job j).args 16 4) given read 14
  refine .ite (ended within ..) (.ite (ended within ..) ?_)
  split
  next h => exact State.readFailed_changes (le.sub (by decide +kernel)) (.ofPair h fetched) ..
  next h =>
    have checked := fun im => State.gainReads_changes (le.sub (by decide +kernel)) (.ofPair h fetched) im
    dsimp only
    split
    · exact ended (checked _) ..
    · exact .ite (Within.clb (le.has (by decide +kernel)) (State.start_changes (le.sub (by decide +kernel)) (checked _) ..) _)
        (Within.clb (le.has (by decide +kernel)) (State.start_changes (le.sub (by decide +kernel)) (checked _) ..) _)

theorem State.showRefFree_changes (le : (Scope.of [.regs] [Reg.MZE_REF_FREE]).Le scope) (within : Within scope old s) :
    Within scope old (s.showRefFree) := by
  unfold State.showRefFree
  with_reducible apply_rules [within, Within.setFld, Within.ite, le.has, le.sub, le.writes] <;> decide +kernel

theorem State.writeCommit_changes (le : (Scope.report.plus [.clb] [Reg.CLB_WRITE_SEQ, Reg.MZE_REF_FREE]).Le scope) (within :
    Within scope old s) (j : Nat) :
    Within scope old (s.writeCommit j) := by
  unfold State.writeCommit
  dsimp only
  (repeat' split) <;> with_reducible apply_rules [within, State.showRefFree_changes, State.setBank_changes, State.finish_changes,
                                                  State.check_changes, Within.clb, Within.setFld, Within.ite, le.has, le.sub,
                                                  le.writes] <;> decide +kernel

theorem State.applyLive_changes (le : (Scope.report.plus [.clb] []).Le scope) (within : Within scope old s) :
    Within scope old (s.applyLive) := by
  unfold State.applyLive
  dsimp only
  (repeat' split) <;> with_reducible apply_rules [within, State.setBank_changes, State.finish_changes, Within.clb, Within.ite,
                                                  le.has, le.sub, le.writes] <;> decide +kernel

theorem State.calibreSwap_changes (le : (Scope.report.plus [.clb] []).Le scope) (within : Within scope old s) (j : Nat) :
    Within scope old (s.calibreSwap j) := by
  unfold State.calibreSwap
  dsimp only
  split <;> with_reducible apply_rules [within, State.finish_changes, State.start_changes, Within.clb, Within.ite, le.has, le.sub,
                                        le.writes] <;> decide +kernel

theorem State.swapArmed_changes (le : (Scope.report.plus [.clb] []).Le scope) (within : Within scope old s) :
    Within scope old (s.swapArmed) := by
  unfold State.swapArmed
  dsimp only
  (repeat' split) <;> with_reducible apply_rules [within, State.finish_changes, Within.clb, Within.ite, le.has, le.sub,
                                                  le.writes] <;> decide +kernel

theorem State.bankSwitch_changes (le : (Scope.report.plus [.clb, .cnv] [Reg.CLB_DARK_TILES, Reg.CLB_PERIOD, Reg.CLB_SWAP_FRAME,
    Reg.MZE_REF_FREE]).Le scope) (within : Within scope old s) (x : Swap) :
    Within scope old (s.bankSwitch x) := by
  unfold State.bankSwitch
  extract_lets new b old' per b1 s1 c1 s1' s2 both b2 s3 s4 s5 s6 s7
  have h1 : Within scope old s1 := .ite (State.setBank_changes (le.sub (by decide +kernel)) within ..) within
  have h2 : Within scope old s2 := State.setBank_changes (le.sub (by decide +kernel)) (.ite h1 (Within.cnv (le.has
      (by decide +kernel)) h1 _)) ..
  have h3 : Within scope old s3 := h2.clb (le.has (by decide +kernel)) _
  have h4 : Within scope old s4 := Within.setFld (f := Reg.CLB_PERIOD) (le.has (by decide +kernel)) (le.writes (by decide +kernel))
      (Within.setFld (f := Reg.CLB_SWAP_FRAME) (le.has (by decide +kernel)) (le.writes (by decide +kernel)) h3 ..) ..
  have h7 : Within scope old s7 := State.finish_changes (le.sub (by decide +kernel)) (State.clbEvent_changes (le.sub
      (by decide +kernel)) (State.takeIdents_changes (le.sub (by decide +kernel)) h4 ..) ..) ..
  exact State.showRefFree_changes (le.sub (by decide +kernel)) (.ite h7 (State.recheck_changes (le.sub (by decide +kernel)) h7 _))

theorem State.releaseBank_changes (le : (Scope.of [.regs, .clb] [Reg.CLB_WRITE_SEQ, Reg.MZE_REF_FREE]).Le scope) (within :
    Within scope old s) :
    Within scope old (s.releaseBank) := by
  unfold State.releaseBank
  with_reducible apply_rules [within, State.showRefFree_changes, State.setBank_changes, Within.setFld, Within.ite, le.has, le.sub,
                              le.writes] <;> decide +kernel

theorem State.oldRelease_changes (le : (Scope.of [.regs, .clb] [Reg.CLB_WRITE_SEQ, Reg.MZE_REF_FREE]).Le scope) (within :
    Within scope old s) :
    Within scope old (s.oldRelease) := by
  unfold State.oldRelease
  with_reducible apply_rules [within, State.releaseBank_changes, Within.ite, le.has, le.sub, le.writes]

theorem State.lastRelease_changes (le : (Scope.of [.regs, .clb] [Reg.CLB_WRITE_SEQ, Reg.MZE_REF_FREE]).Le scope) (within :
    Within scope old s) :
    Within scope old (s.lastRelease) := by
  unfold State.lastRelease
  with_reducible apply_rules [within, State.releaseBank_changes, Within.ite, le.has, le.sub, le.writes]

theorem State.tagCheck_changes (le : Scope.latch.Le scope) (within : Within scope old s) (b : Bool) :
    Within scope old (s.tagCheck b) := by
  unfold State.tagCheck
  with_reducible apply_rules [within, State.latch_changes, Within.ite, le.has, le.sub, le.writes]

theorem State.calibreRead_changes (le : Scope.report.Le scope) (within : Within scope old s) (j : Nat) :
    Within scope old (s.calibreRead j) := by
  have ended : ∀ {t : State}, Within scope old t → ∀ r a b, Within scope old (t.finish j r a b) := fun h r a b =>
      State.finish_changes (le.sub (by decide +kernel)) h ..
  exact .ite (ended within ..) (.ite (ended within ..) (.ite (ended within ..) (ended (State.spaceWrite_changes (le.sub
      (by decide +kernel)) within ..) ..)))

theorem State.calibreSave_changes (le : (Scope.report.plus [.clb] []).Le scope) (within : Within scope old s) (ok : Bool) :
    Within scope old (s.calibreSave ok) := by
  have failed := State.latch_changes (le.sub (by decide +kernel)) (within.clb (le.has
      (by decide +kernel)) { s.clb with savePending := false }) .clbSave 0
  unfold State.calibreSave
  refine .ite within ?_
  dsimp only
  split
  next h => exact State.clbEvent_changes (le.sub (by decide +kernel)) (Within.clb (le.has (by decide +kernel))
      (State.kstWrite_changes (le.sub (by decide +kernel)) within h) _) ..
  next => exact State.wearOut_changes (le.sub (by decide +kernel)) failed _
  next => exact failed

theorem State.goodFrame_changes (le : (Scope.of [.clb] []).Le scope) (within : Within scope old s) :
    Within scope old (s.goodFrame) := by
  unfold State.goodFrame
  split <;> with_reducible apply_rules [within, Within.clb, Within.ite, le.has, le.sub, le.writes] <;> decide +kernel

theorem State.setCirc_changes (le : (Scope.of [.fus] []).Le scope) (within : Within scope old s) (c : Nat) (x : Circuit) :
    Within scope old (s.setCirc c x) := by
  unfold State.setCirc
  with_reducible apply_rules [within, Within.fus, le.has, le.sub, le.writes]
  decide +kernel

theorem State.fusEvent_changes (le : Scope.report.Le scope) (within : Within scope old s) (code source : Nat) (args : List Nat) :
    Within scope old (s.fusEvent code source args) := by
  unfold State.fusEvent
  with_reducible apply_rules [within, State.event_changes, le.has, le.sub, le.writes]

theorem State.openCirc_changes (le : (Scope.of [.fus] []).Le scope) (within : Within scope old s) (im : Bytes) (k c : Nat) :
    Within scope old (s.openCirc im k c) := by
  unfold State.openCirc
  with_reducible apply_rules [within, State.setCirc_changes, Within.ite, le.has, le.sub, le.writes]

theorem State.closeCirc_changes (le : (Scope.report.plus [.fus] []).Le scope) (within : Within scope old s) (c : Nat) :
    Within scope old (s.closeCirc c) := by
  unfold State.closeCirc
  with_reducible apply_rules [within, State.setCirc_changes, State.latch_changes, State.check_changes, State.fusEvent_changes,
                              Within.ite, le.has, le.sub, le.writes] <;> decide +kernel

theorem State.rowOver_changes (le : (Scope.report.plus [.fus] []).Le scope) (within : Within scope old s) (c : Nat) :
    Within scope old (s.rowOver c) := by
  unfold State.rowOver
  with_reducible apply_rules [within, State.check_changes, State.setCirc_changes, State.closeCirc_changes, Within.ite, le.has,
                              le.sub, le.writes] <;> decide +kernel

theorem State.capResult_changes (le : (Scope.of [.regs, .fus] [Reg.FUS_CAP_CTL_BUSY, Reg.FUS_CAP_CTL_RESULT]).Le scope) (within :
    Within scope old s) (r : Nat) :
    Within scope old (s.capResult r) := by
  unfold State.capResult
  with_reducible apply_rules [within, Within.fus, Within.setFld, le.has, le.sub, le.writes] <;> decide +kernel

theorem State.capCommit_changes (le : (Scope.latch.plus [.hst, .mem, .fus] (Part.eccFields ++ [Reg.FUS_CAP_CTL_BUSY,
    Reg.FUS_CAP_CTL_RESULT])).Le scope) (within : Within scope old s) :
    Within scope old (s.capCommit) := by
  have ended : ∀ {t : State}, Within scope old t → ∀ r, Within scope old (t.capResult r) := fun h r => State.capResult_changes
      (le.sub (by decide +kernel)) h r
  have read : ∀ {t : State}, Within scope old t → ∀ {a n : Nat} {got u}, t.engineRead a n 14 = (got,
      u) → Within scope old u := fun h _ _ _ _ e =>
    .ofPair e (State.engineRead_changes (le.sub (by decide +kernel)) h ..)
  unfold State.capCommit
  refine .ite (State.latch_changes (le.sub (by decide +kernel)) within ..) (.ite (State.latch_changes (le.sub (by decide +kernel))
      (within.setFld (le.has (by decide +kernel)) (le.writes (by decide +kernel)) ..) ..) ?_)
  dsimp only
  split
  next h => exact ended (read within h) _
  next h =>
    have headed := read within h
    refine .ite (.ite (ended headed _) ?_) ?_
    · split
      next h => exact ended (read headed h) _
      next h => exact ended (read headed h) _
    · split
      next h => exact ended (read headed h) _
      next h =>
        have whole := read headed h
        exact .ite (ended whole _) (.ite (ended whole _) (Within.setFld (le.has (by decide +kernel)) (le.writes
            (by decide +kernel)) (whole.fus (le.has (by decide +kernel)) _) ..))

theorem State.takeCaps_changes (le : (Scope.of [.fus] []).Le scope) (within : Within scope old s) (im : Bytes) :
    Within scope old (s.takeCaps im) := by
  unfold State.takeCaps
  with_reducible apply_rules [within, Within.fus, le.has, le.sub, le.writes]
  decide +kernel

theorem State.capStore_changes (le : (Scope.report.plus [.fus] [Reg.FUS_CAP_CTL_BUSY, Reg.FUS_CAP_CTL_LOADED,
    Reg.FUS_CAP_CTL_RESULT, Reg.FUS_CAP_SEQ]).Le scope) (within : Within scope old s) (okA okB : Bool) :
    Within scope old (s.capStore okA okB) := by
  have failed : ∀ {t : State}, Within scope old t → Within scope old ((t.capResult 4).latch .fusCaptable) := fun h =>
      State.latch_changes (le.sub (by decide +kernel)) (State.capResult_changes (le.sub (by decide +kernel)) h _) ..
  unfold State.capStore
  split
  · exact within
  · dsimp only
    split
    · exact State.wearOut_changes (le.sub (by decide +kernel)) (failed within) _
    next h =>
      have first := State.kstWrite_changes (le.sub (by decide +kernel)) within h
      refine .ite (failed first) ?_
      split
      · exact State.wearOut_changes (le.sub (by decide +kernel)) (failed first) _
      next h =>
        have second := State.kstWrite_changes (le.sub (by decide +kernel)) first h
        exact .ite (failed second) (State.fusEvent_changes (le.sub (by decide +kernel)) (State.capResult_changes (le.sub
            (by decide +kernel)) (Within.setFld (le.has (by decide +kernel)) (le.writes (by decide +kernel)) (Within.setFld (le.has
            (by decide +kernel)) (le.writes (by decide +kernel)) (State.takeCaps_changes (le.sub
            (by decide +kernel)) second _) ..) ..) _) ..)

theorem State.loadCaps_changes (le : (Scope.report.plus [.fus] [Reg.FUS_CAP_CTL_LOADED, Reg.FUS_CAP_SEQ]).Le scope) (within :
    Within scope old s) :
    Within scope old (s.loadCaps) := by
  unfold State.loadCaps
  dsimp only
  split <;> with_reducible apply_rules [within, State.fusEvent_changes, State.latch_changes, State.takeCaps_changes, Within.setFld,
                                        Within.ite, le.has, le.sub, le.writes] <;> decide +kernel

theorem State.fusForce_changes (le : (Scope.of [.flt, .fus] []).Le scope) (within : Within scope old s) (p v : Nat) :
    Within scope old (s.fusForce p v) := by
  unfold State.fusForce
  split <;> with_reducible apply_rules [within, State.setCirc_changes, Within.flt, Within.ite, le.has, le.sub,
                                        le.writes] <;> decide +kernel

theorem State.checkEngine_changes (le : (Scope.latch.plus [.esc] []).Le scope) (within : Within scope old s) (src : Src)
    (kind i : Nat) :
    Within scope old (s.checkEngine src kind i) := by
  unfold State.checkEngine
  split
  next h => exact State.escRequest_changes (le.sub (by decide +kernel)) (State.latch_changes (le.sub (by decide +kernel))
      (State.takeInject_changes (le.sub (by decide +kernel)) within h) ..) ..
  next => exact within

theorem State.canvasReady_changes (le : (Scope.of [.freeCtr, .enc] []).Le scope) (within : Within scope old s) (e : Nat)
    (im : Bytes) (k : Nat) :
    Within scope old (s.canvasReady e im k) := by
  unfold State.canvasReady
  dsimp only
  split <;> with_reducible apply_rules [within, State.setSes_changes, Within.freeCtr, Within.ite, le.has, le.sub,
                                        le.writes] <;> decide +kernel

theorem State.encTap_changes (le : (Scope.of [.freeCtr, .enc] []).Le scope) (within : Within scope old s) (im : Bytes) (k q : Nat)
    (lamps : List (List Nat)) :
    Within scope old (s.encTap im k q lamps) := by
  unfold State.encTap
  refine within.foldl (fun t a within => ?_) _
  with_reducible apply_rules [within, State.setSes_changes, State.canvasReady_changes, Within.foldl, Within.ite, le.has, le.sub,
                              le.writes] <;> decide +kernel

theorem State.beginScan_changes (le : (Scope.of [.regs, .cnv] [Reg.CNV_FRAME, Reg.CNV_STATUS_ROW_PAIR,
    Reg.CNV_STATUS_SCANNING]).Le scope) (within : Within scope old s) :
    Within scope old (s.beginScan) := by
  unfold State.beginScan
  dsimp only
  (repeat' split) <;> with_reducible apply_rules [within, Within.cnv, Within.setFld, Within.ite, le.has, le.sub,
                                                  le.writes] <;> decide +kernel

theorem State.endScan_changes (le : (Scope.report.plus [.dec, .cnv] [Reg.CNV_OVERRUN, Reg.CNV_STATUS_SCANNING]).Le scope) (within :
    Within scope old s) (im : Bytes) (k : Nat) :
    Within scope old (s.endScan im k) := by
  unfold State.endScan
  split <;> with_reducible apply_rules [within, State.dropUnheld_changes, State.event_changes, State.latch_changes,
                                        State.count_changes, Within.cnv, Within.setFld, Within.ite, le.has, le.sub,
                                        le.writes] <;> decide +kernel

theorem State.produce_changes (le : (Scope.report.plus [.dec, .cnv, .enc, .esc] [Reg.CNV_LATE_MAX, Reg.CNV_LATE_RP, Reg.CNV_OVERRUN,
    Reg.CNV_STATUS_ROW_PAIR, Reg.CNV_STATUS_SCANNING]).Le scope) (within : Within scope old s) (im : Bytes) (k q : Nat) :
    Within scope old (s.produce im k q) := by
  unfold State.produce
  extract_lets w lamps late row c s1 s2 s3 shown s3' s4 s5
  have h2 : Within scope old s2 := Within.setFld (le.has (by decide +kernel)) (le.writes (by decide +kernel)) (within.cnv (le.has
      (by decide +kernel)) _) ..
  have h3 : Within scope old s3 := .ite h2 (Within.setFld (le.has (by decide +kernel)) (le.writes (by decide +kernel))
      (State.count_changes (le.has (by decide +kernel)) (le.writes (by decide +kernel)) h2 ..) ..)
  have h3' : Within scope old s3' := h3.foldl (fun _ _ h => State.latch_changes (le.sub (by decide +kernel)) (State.setPic_changes
      (le.sub (by decide +kernel)) h ..) ..) _
  have h4 : Within scope old s4 := h3'.foldl (fun _ _ h => State.returnBands_changes (le.sub (by decide +kernel)) h ..) _
  have h5 : Within scope old s5 := State.encTap_changes (le.sub (by decide +kernel)) (State.checkEngine_changes (le.sub
      (by decide +kernel)) (State.check_changes (le.sub (by decide +kernel)) h4 ..) ..) ..
  exact .ite (State.endScan_changes (le.sub (by decide +kernel)) h5 ..) h5

theorem State.rowPairStart_changes (le : (Scope.report.plus [.dec, .cnv, .enc, .esc] [Reg.CNV_FRAME, Reg.CNV_LATE_MAX,
    Reg.CNV_LATE_RP, Reg.CNV_OVERRUN, Reg.CNV_STATUS_ROW_PAIR, Reg.CNV_STATUS_SCANNING, Reg.DEC_BAND_SLIP]).Le scope) (within :
    Within scope old s) :
    Within scope old (s.rowPairStart) := by
  have begun : Within scope old (if s.pageEnabled Blk.cnv 0 ∧ s.escOk 4 0 then s.beginScan else s) := .ite (State.beginScan_changes
      (le.sub (by decide +kernel)) within) within
  unfold State.rowPairStart
  extract_lets t k q c
  have ht : Within scope old t := begun
  split
  · extract_lets missing fresh s1
    have h1 : Within scope old s1 := Within.foldl (ht.cnv (le.has (by decide +kernel)) _) (fun _ _ h => State.latch_changes (le.sub
        (by decide +kernel)) (State.count_changes (le.has (by decide +kernel)) (le.writes (by decide +kernel)) h ..) ..) _
    exact .ite ht (.ite h1 (.ite ht (State.produce_changes (le.sub (by decide +kernel)) (ht.cnv (le.has
        (by decide +kernel)) _) ..)))
  · exact State.tagCheck_changes (le.sub (by decide +kernel)) ht _
  · exact ht

theorem State.gains_changes (le : (Scope.report.plus [.cnv] (Part.eccFields ++ [Reg.DRV_GMAP_ERRORS, Reg.DRV_GMAP_KIB])).Le scope)
    (within : Within scope old s) (e : Bytes) (k j : Nat) :
    Within scope old (s.gains e k j).2 := by
  have put : ∀ {u : State}, Within scope old u → ∀ t d,
      Within scope old { u with cnv := { u.cnv with tiles := Tab.set u.cnv.tiles t d } } :=
    fun h t d => h.cnv (le.has (by decide +kernel)) _
  have shown : ∀ {u : State} (n : Nat), Within scope old u →
      Within scope old (({ u with cnv := { u.cnv with gmapBytes := n } } : State).setFld Reg.DRV_GMAP_KIB 0
          (n / 1024)) := fun _ h =>
    Within.setFld (le.has (by decide +kernel)) (le.writes (by decide +kernel)) (h.cnv (le.has (by decide +kernel)) _) ..
  have failed : ∀ {u : State}, Within scope old u → Within scope old ((u.count Reg.DRV_GMAP_ERRORS).latch .drvGmap) := fun h =>
    State.latch_changes (le.sub (by decide +kernel)) (State.count_changes (le.has (by decide +kernel)) (le.writes
        (by decide +kernel)) h ..) ..
  unfold State.gains
  dsimp only
  split
  · exact put within ..
  · have read : ∀ a n, Within scope old (s.engineRead a n 11).2 := fun a n => State.engineRead_changes (le.sub
      (by decide +kernel)) within a n 11
    split
    · exact .ite (put (shown _ (read ..)) ..) (shown _ (read ..))
    · exact .ite (failed (put (shown _ (read ..)) ..)) (State.event_changes (le.sub (by decide +kernel)) (failed (put (shown _
        (read ..)) ..)) ..)

theorem State.driveLit_changes (le : (Scope.report.plus [.cnv, .fus, .mze] (Part.eccFields ++ [Reg.DRV_GMAP_ERRORS,
    Reg.DRV_GMAP_KIB])).Le scope) (within : Within scope old s) (im e : Bytes) (rp : CanvasRp) (j : Nat) :
    Within scope old (s.driveLit im e rp j) :=
  Within.parts (State.setCirc_changes (le.sub (by decide +kernel)) (State.gains_changes (le.sub
      (by decide +kernel)) within ..) ..) [.mze, .cnv] (le.sub (by decide +kernel)) rfl rfl
    fun q hq => by
      cases q
      case mze | cnv => exact absurd (by decide) hq
      all_goals exact beq_self_eq_true _

theorem State.driveTile_changes (le : (Scope.report.plus [.cnv, .fus, .mze] (Part.eccFields ++ [Reg.DRV_GMAP_ERRORS,
    Reg.DRV_GMAP_KIB])).Le scope) (within : Within scope old s) (im e : Bytes) (rp : CanvasRp) :
    Within scope old (s.driveTile im e rp) := by
  unfold State.driveTile
  dsimp only
  split <;> with_reducible apply_rules [within, State.openCirc_changes, State.rowOver_changes, State.driveLit_changes, Within.cnv,
                                        Within.ite, le.has, le.sub, le.writes] <;> decide +kernel

theorem State.driveRowPair_changes (le : (Scope.report.plus [.cnv, .fus, .mze, .esc] (Part.eccFields ++ [Reg.DRV_GMAP_ERRORS,
    Reg.DRV_GMAP_KIB])).Le scope) (within : Within scope old s) :
    Within scope old (s.driveRowPair) := by
  unfold State.driveRowPair
  split
  · exact within
  · split
    · exact State.tagCheck_changes (le.sub (by decide +kernel)) within _
    · extract_lets ts full noFus total none_ fresh c s1 s2 left c' s3 s4
      refine .ite within ?_
      have h1 : Within scope old s1 := .ite (Within.foldl (within.cnv (le.has (by decide +kernel)) _) (fun _ _ h =>
          State.openCirc_changes (le.sub (by decide +kernel)) h ..) _) within
      have h2 : Within scope old s2 := h1.foldl (fun _ _ h => State.driveTile_changes (le.sub (by decide +kernel)) h ..) _
      have h3 : Within scope old s3 := h2.cnv (le.has (by decide +kernel)) _
      have h4 : Within scope old s4 := .ite (h3.foldl (fun _ _ h => State.closeCirc_changes (le.sub (by decide +kernel)) h _) _) h3
      exact State.checkEngine_changes (le.sub (by decide +kernel)) (State.check_changes (le.sub (by decide +kernel)) h4 ..) ..

theorem State.setMzt_changes (le : (Scope.of [.mze] []).Le scope) (within : Within scope old s) (t_1 : Nat) (x : MzeTile) :
    Within scope old (s.setMzt t_1 x) := by
  unfold State.setMzt
  with_reducible apply_rules [within, Within.mze, le.has, le.sub, le.writes]
  decide +kernel

theorem State.setMzc_changes (le : (Scope.of [.mze] []).Le scope) (within : Within scope old s) (c : Nat) (x : MzeCore) :
    Within scope old (s.setMzc c x) := by
  unfold State.setMzc
  with_reducible apply_rules [within, Within.mze, le.has, le.sub, le.writes]
  decide +kernel

theorem State.mzeEvent_changes (le : Scope.report.Le scope) (within : Within scope old s) (code source : Nat) (args : List Nat) :
    Within scope old (s.mzeEvent code source args) := by
  unfold State.mzeEvent
  with_reducible apply_rules [within, State.event_changes, le.has, le.sub, le.writes]

theorem State.refRead_changes (le : (Scope.latch.plus [.hst, .mem] Part.eccFields).Le scope) (within : Within scope old s)
    (x : MzeTile) (off n port : Nat) :
    Within scope old (s.refRead x off n port).2 := by
  unfold State.refRead
  refine Within.foldlPair (x := (some [], s)) within (fun a q h => ?_) _
  exact State.engineRead_changes (le.sub (by decide +kernel)) h q.1 q.2 port

theorem State.refWrite_changes (le : (Scope.of [.hst, .pool, .mem, .dram] []).Le scope) (within : Within scope old s) (x : MzeTile)
    (off : Nat)
    (bs : Bytes) : Within scope old (s.refWrite x off bs) :=
  List.foldlRecOn _ _ (motive := fun a : State × Bytes => Within scope old a.1) within fun _ h _ _ => State.devWrite_changes
      (le.sub (by decide +kernel)) h ..

theorem State.putRp_changes (le : (Scope.of [.hst, .pool, .mem, .dram, .mze] []).Le scope) (within : Within scope old s)
    (t_1 j : Nat) (f : MzeRp → MzeRp) :
    Within scope old (s.putRp t_1 j f) := by
  unfold State.putRp
  with_reducible apply_rules [within, State.refWrite_changes, State.setMzt_changes, le.has, le.sub, le.writes] <;> decide +kernel

theorem State.refRows_changes (le : (Scope.latch.plus [.hst, .mem] Part.eccFields).Le scope) (within : Within scope old s)
    (x : MzeTile) (w em j c : Nat) (need : Bool) :
    Within scope old (s.refRows x w em j c need).2 := by
  unfold State.refRows
  split
  · exact within
  · split
    next h => exact State.latch_changes (le.sub (by decide +kernel)) (State.takeInject_changes (le.sub
        (by decide +kernel)) within h) ..
    next =>
      have read := State.refRead_changes (le.sub (by decide +kernel)) within x (refOff w em j) (4 * w * em) (6 + c / 8)
      split
      next h => exact State.latch_changes (le.sub (by decide +kernel)) (.ofPair h read) ..
      next h => exact .ofPair h read

theorem State.finishAll_changes (le : Scope.report.Le scope) (within : Within scope old s) (js : List Nat) (r0 : Nat) :
    Within scope old (s.finishAll js r0) := by
  unfold State.finishAll
  refine within.foldl (fun t a within => ?_) _
  with_reducible apply_rules [within, State.finish_changes, Within.foldl, le.has, le.sub, le.writes]

theorem State.openTile_changes (le : (Scope.report.plus [.mze] []).Le scope) (within : Within scope old s) (im e : Bytes)
    (rp : TileRp) :
    Within scope old (s.openTile im e rp) := by
  unfold State.openTile
  with_reducible apply_rules [within, State.finishAll_changes, State.setMzt_changes, State.latch_changes, Within.ite, le.has,
                              le.sub, le.writes] <;> decide +kernel

theorem State.rowTags_changes (le : Scope.latch.Le scope) (within : Within scope old s) :
    Within scope old (s.rowTags) := by
  refine within.foldl (fun t x h => ?_) _
  split
  · exact State.tagCheck_changes (le.sub (by decide +kernel)) h _
  · exact h

theorem State.rowStart_changes (le : (Scope.report.plus [.mze] (Part.eccFields ++ [Reg.MZE_REFRESH_RP])).Le scope) (within :
    Within scope old s) (c : Nat) :
    Within scope old (s.rowStart c) := by
  have tagged := State.rowTags_changes (le.sub (by decide +kernel)) within
  unfold State.rowStart
  extract_lets t
  have ht : Within scope old t := tagged
  refine .ite ht ?_
  split
  · exact ht
  · extract_lets rp e im i j s1 x roll run
    have h1 : Within scope old s1 := .ite (State.openTile_changes (le.sub (by decide +kernel)) ht ..) ht
    split
    · exact ht
    next p _ =>
      extract_lets fixed next
      have read := State.refRows_changes (le.sub (by decide +kernel)) h1 x (8 * p.w8) p.emitters j c (!fixed)
      generalize s1.refRows x (8 * p.w8) p.emitters j c (!fixed) = a at read
      obtain ⟨ref, s2⟩ := a
      have above := State.refRows_changes (le.sub (by decide +kernel)) read x (8 * p.w8) p.emitters (j - 1) c next
      dsimp -zeta only
      generalize s2.refRows x (8 * p.w8) p.emitters (j - 1) c next = a at above
      obtain ⟨ups, s3⟩ := a
      extract_lets hurt s4 c5 s5
      have h5 : Within scope old s5 := State.setMzc_changes (le.sub (by decide +kernel)) (.ite (State.putRp_changes (le.sub
          (by decide +kernel)) above ..) above) ..
      exact .ite (State.count_changes (le.has (by decide +kernel)) (le.writes (by decide +kernel)) h5 ..) h5

theorem State.unsent_changes (le : (Scope.report.plus [.mze] [Reg.MZE_UNSENT_RP]).Le scope) (within : Within scope old s)
    (t_1 : Nat) (p : MzePic) (off : Nat) :
    Within scope old (s.unsent t_1 p off) := by
  unfold State.unsent
  extract_lets lost sent s1 t y z s2
  have h1 : Within scope old s1 := within.foldl (fun _ _ h => State.putRp_changes (le.sub (by decide +kernel)) h ..) _
  have ht : Within scope old t := h1.foldl (fun _ _ h => State.putRp_changes (le.sub (by decide +kernel)) h ..) _
  have h2 : Within scope old s2 := State.count_changes (le.has (by decide +kernel)) (le.writes (by decide +kernel))
      (State.setMzt_changes (le.sub (by decide +kernel)) ht ..) ..
  clear_value lost s2
  split
  · exact h2
  · exact State.mzeEvent_changes (le.sub (by decide +kernel)) h2 ..

theorem State.notice_changes (le : (Scope.report.plus [.mze] [Reg.MZE_UNSENT_RP]).Le scope) (within : Within scope old s)
    (t_1 k off : Nat) :
    Within scope old (s.notice t_1 k off) := by
  unfold State.notice
  dsimp only
  (repeat' split) <;> with_reducible apply_rules [within, State.unsent_changes, State.setMzt_changes, Within.ite, le.has, le.sub,
                                                  le.writes] <;> decide +kernel

theorem State.picDone_changes (le : (Scope.report.plus [.mze] [Reg.MZE_UNSENT_RP]).Le scope) (within : Within scope old s)
    (t_1 : Nat) (p : MzePic) :
    Within scope old (s.picDone t_1 p) := by
  unfold State.picDone
  dsimp only
  split <;> with_reducible apply_rules [within, State.setMzt_changes, State.mzeEvent_changes, State.unsent_changes, Within.ite,
                                        le.has, le.sub, le.writes] <;> decide +kernel

theorem State.rowDone_changes (le : (Scope.report.plus [.cnv, .mze, .swc] [Reg.MZE_FLOOR_RP, Reg.MZE_UNSENT_RP]).Le scope)
    (within : Within scope old s) (c : Nat) :
    Within scope old (s.rowDone c) := by
  unfold State.rowDone
  extract_lets k t x i
  split
  next p rp rest _ _ _ =>
    extract_lets first
    generalize s.codeRow k p rp = a
    obtain ⟨seg, rec, q, f⟩ := a
    dsimp -zeta only
    extract_lets floor p1 p2 y s0 s1 i1 s1' c' w s2 s3
    generalize MzePic.cutFrames t p2 (p2.bytes.length / 4096 + 2) = a
    obtain ⟨p3, frames⟩ := a
    have h0 : Within scope old s0 := State.refWrite_changes (le.sub (by decide +kernel)) (State.setMzt_changes (le.sub
        (by decide +kernel)) within ..) ..
    have h1 : Within scope old s1 := .ite (State.putRp_changes (le.sub (by decide +kernel)) h0 ..) h0
    have h1' : Within scope old s1' := State.setMzc_changes (le.sub (by decide +kernel)) h1 ..
    have h2 : Within scope old s2 := Within.parts h1' [.swc, .cnv] (le.sub (by decide +kernel)) rfl rfl
      fun q hq => by
        cases q
        case swc | cnv => exact absurd (by decide) hq
        all_goals exact beq_self_eq_true _
    have h3 : Within scope old s3 := State.check_changes (le.sub (by decide +kernel)) (.ite (State.count_changes (le.has
        (by decide +kernel)) (le.writes (by decide +kernel)) h2 ..) h2) ..
    exact .ite (State.picDone_changes (le.sub (by decide +kernel)) h3 ..) h3
  next => exact within

theorem State.damage_changes (le : (Scope.report.plus [.mze] [Reg.MZE_DAMAGE_RP]).Le scope) (within : Within scope old s)
    (t_1 f : Nat) (whole mirror : Bool) (ranges : List (Nat × Nat)) :
    Within scope old (s.damage t_1 f whole mirror ranges) := by
  unfold State.damage
  extract_lets x after path later rows hit n full s0 y newest z s1
  have h0 : Within scope old s0 := within.foldl (fun _ _ h => State.putRp_changes (le.sub (by decide +kernel)) h ..) _
  have h1 : Within scope old s1 := State.count_changes (le.has (by decide +kernel)) (le.writes (by decide +kernel))
      (State.setMzt_changes (le.sub (by decide +kernel)) h0 ..) ..
  clear_value hit s1
  split
  · exact h1
  · exact State.mzeEvent_changes (le.sub (by decide +kernel)) h1 ..

theorem State.tileRefresh_changes (le : (Scope.report.plus [.mze] []).Le scope) (within : Within scope old s) (j : Nat) :
    Within scope old (s.tileRefresh j) := by
  unfold State.tileRefresh
  dsimp only
  (repeat' split) <;> with_reducible apply_rules [within, State.finish_changes, State.start_changes, State.setMzt_changes,
                                                  Within.ite, le.has, le.sub, le.writes] <;> decide +kernel

theorem State.mzeCoreFault_changes (le : (Scope.latch.plus [.hst, .pool, .mem, .dram, .mze, .esc] []).Le scope) (within :
    Within scope old s) (c : Nat) :
    Within scope old (s.mzeCoreFault c) := by
  unfold State.mzeCoreFault
  with_reducible apply_rules [within, State.putRp_changes, State.escRequest_changes, State.latch_changes, State.setMzc_changes,
                              Within.ite, le.has, le.sub, le.writes] <;> decide +kernel

theorem State.rowEnd_changes (le : (Scope.report.plus [.cnv, .mze, .swc, .esc] [Reg.MZE_FLOOR_RP, Reg.MZE_UNSENT_RP]).Le scope)
    (within : Within scope old s) (c : Nat) :
    Within scope old (s.rowEnd c) := by
  unfold State.rowEnd
  refine .ite within ?_
  split
  next h => exact State.mzeCoreFault_changes (le.sub (by decide +kernel)) (State.takeInject_changes (le.sub
      (by decide +kernel)) within h) _
  next => exact State.rowDone_changes (le.sub (by decide +kernel)) within _

theorem State.mzeReset_changes (le : (Scope.of [.mze, .esc] []).Le scope) (within : Within scope old s) (c : Nat) :
    Within scope old (s.mzeReset c) := by
  unfold State.mzeReset
  with_reducible apply_rules [within, State.escAdopt_changes, State.setMzc_changes, Within.ite, le.has, le.sub,
                              le.writes] <;> decide +kernel

theorem State.mzeCtl_changes (le : (Scope.of [.mze, .esc] []).Le scope) (within : Within scope old s) (c v : Nat) :
    Within scope old (s.mzeCtl c v) := by
  unfold State.mzeCtl
  with_reducible apply_rules [within, State.setMzc_changes, State.mzeReset_changes, Within.ite, le.has, le.sub,
                              le.writes] <;> decide +kernel

theorem State.mzeRegion_changes (le : (Scope.latch.plus [] [Reg.MZE_REF_BASE, Reg.MZE_REF_FREE, Reg.MZE_REF_SIZE]).Le scope)
    (within : Within scope old s) (reg v : Nat) :
    Within scope old (s.mzeRegion reg v) := by
  unfold State.mzeRegion
  with_reducible apply_rules [within, State.latch_changes, State.showRefFree_changes, Within.setFld, Within.ite, le.has, le.sub,
                              le.writes] <;> decide +kernel

theorem State.emit_changes (le : (Scope.of [.plk] []).Le scope) (within : Within scope old s) (p : Nat) (cs : List LinkChar) :
    Within scope old (s.emit p cs) := by
  unfold State.emit
  with_reducible apply_rules [within, State.setPort_changes, le.has, le.sub, le.writes]

theorem State.setSwin_changes (le : (Scope.of [.swc] []).Le scope) (within : Within scope old s) (i : Nat) (x : SwIn) :
    Within scope old (s.setSwin i x) := by
  unfold State.setSwin
  with_reducible apply_rules [within, Within.swc, le.has, le.sub, le.writes]
  decide +kernel

theorem State.setSwout_changes (le : (Scope.of [.swc] []).Le scope) (within : Within scope old s) (o : Nat) (x : SwOut) :
    Within scope old (s.setSwout o x) := by
  unfold State.setSwout
  with_reducible apply_rules [within, Within.swc, le.has, le.sub, le.writes]
  decide +kernel

theorem State.setSport_changes (le : (Scope.of [.sch] []).Le scope) (within : Within scope old s) (p : Nat) (x : SchPort) :
    Within scope old (s.setSport p x) := by
  unfold State.setSport
  with_reducible apply_rules [within, Within.sch, le.has, le.sub, le.writes]
  decide +kernel

theorem State.setRglQ_changes (le : (Scope.of [.rgq] []).Le scope) (within : Within scope old s) (g : Nat) (x : RglQueues) :
    Within scope old (s.setRglQ g x) := by
  unfold State.setRglQ
  with_reducible apply_rules [within, Within.rgq, le.has, le.sub, le.writes]
  decide +kernel

theorem State.audIn_changes (le : (Scope.of [.swc] []).Le scope) (within : Within scope old s) (o n : Nat) :
    Within scope old (s.audIn o n) := by
  unfold State.audIn
  with_reducible apply_rules [within, State.setSwout_changes, le.has, le.sub, le.writes]

theorem State.audOut_changes (le : (Scope.of [.swc] []).Le scope) (within : Within scope old s) (o n : Nat) :
    Within scope old (s.audOut o n) := by
  unfold State.audOut
  with_reducible apply_rules [within, State.setSwout_changes, le.has, le.sub, le.writes]

theorem State.audDrop_changes (le : (Scope.of [.swc] []).Le scope) (within : Within scope old s) (o n : Nat) :
    Within scope old (s.audDrop o n) := by
  unfold State.audDrop
  with_reducible apply_rules [within, State.setSwout_changes, le.has, le.sub, le.writes]

theorem State.releaseAll_changes (le : (Scope.latch.plus [.pool, .mem, .dram] Part.misuseFields).Le scope) (within :
    Within scope old s) (o : Nat) (bs : List Nat) :
    Within scope old (s.releaseAll o bs) := by
  unfold State.releaseAll
  refine within.foldl (fun t a within => ?_) _
  with_reducible apply_rules [within, State.poolRelease_changes, Within.foldl, le.has, le.sub, le.writes]

theorem State.dropCopy_changes (le : (Scope.latch.plus [.pool, .mem, .dram, .swc] Part.misuseFields).Le scope) (within :
    Within scope old s) (o : Nat) (f : LinkFrame) :
    Within scope old (s.dropCopy o f) := by
  unfold State.dropCopy
  with_reducible apply_rules [within, State.audDrop_changes, State.releaseAll_changes, le.has, le.sub, le.writes] <;> decide +kernel

theorem State.frameSubmit_changes (le : (Scope.latch.plus [.pool, .mem, .dram, .swc] [Reg.BPM_STATUS_REBUILD]).Le scope) (within :
    Within scope old s) (i : Nat) :
    Within scope old (s.frameSubmit i) := by
  unfold State.frameSubmit
  dsimp only
  split
  · exact within
  next f _ _ =>
    refine .ite within (.ite (State.setSwin_changes (le.sub (by decide +kernel)) within ..) ?_)
    have tried := State.poolAllocN_changes (le.sub (by decide +kernel)) within (if i < 32 then 1 else 4) f.nbuf []
    split
    next h => exact State.setSwin_changes (le.sub (by decide +kernel)) (.ofPair h tried) ..
    next h => exact .ofPair h tried

theorem State.ingressAt_changes (le : (Scope.of [.regs, .pool, .swc] [Reg.SWC_PORT_DROP]).Le scope) (within : Within scope old s)
    (f : LinkFrame) (o : Nat) :
    Within scope old (s.ingressAt f o).2 := by
  unfold State.ingressAt
  split <;> with_reducible apply_rules [within, State.audIn_changes, State.held_changes, State.count_changes, Within.ite, le.has,
                                        le.sub, le.writes] <;> decide +kernel

theorem State.ingress_changes (le : (Scope.of [.regs, .pool, .swc] [Reg.SWC_PORT_DROP]).Le scope) (within : Within scope old s)
    (f : LinkFrame) (outs : List Nat) :
    Within scope old (s.ingress f outs).2 := by
  induction outs generalizing s with
  | nil => exact within
  | cons o os ih => exact ih (State.ingressAt_changes (le.sub (by decide +kernel)) within f o)

theorem State.freeFrame_changes (le : (Scope.latch.plus [.pool, .mem, .dram] Part.misuseFields).Le scope) (within :
    Within scope old s) (f : LinkFrame) :
    Within scope old (s.freeFrame f) := by
  unfold State.freeFrame
  refine within.foldl (fun t a within => ?_) _
  with_reducible apply_rules [within, State.poolFree_changes, Within.foldl, le.has, le.sub, le.writes]

theorem State.sopEnter_changes (le : (Scope.latch.plus [.pool, .mem, .dram, .swc] (Part.misuseFields ++ [Reg.SWC_MC_PARTIAL,
    Reg.SWC_NOFWD, Reg.SWC_PORT_DROP])).Le scope) (within : Within scope old s) (i : Nat) (x : SwIn) (f : LinkFrame)
    (rest : List LinkFrame) :
    Within scope old (s.sopEnter i x f rest) := by
  unfold State.sopEnter
  dsimp only
  split <;> with_reducible apply_rules [within, State.latch_changes, State.check_changes, State.count_changes,
                                        State.setSwin_changes, State.freeFrame_changes, State.ingress_changes, Within.ite, le.has,
                                        le.sub, le.writes] <;> decide +kernel

theorem State.crossBuf_changes (le : (Scope.latch.plus [.pool, .mem, .dram] Part.misuseFields).Le scope) (within :
    Within scope old s) (b copies : Nat) :
    Within scope old (s.crossBuf b copies) := by
  have handed := State.poolHandover_changes (le.sub (by decide +kernel)) within (s.buf b).owner b 4
  unfold State.crossBuf
  split
  next h =>
    have left := Within.ofPair h handed
    exact State.poolFree_changes (le.sub (by decide +kernel)) (.ite (State.misuse_changes (le.sub (by decide +kernel)) left ..)
        (State.setBuf_changes (le.sub (by decide +kernel)) left ..)) ..
  next h => exact .ofPair h handed

theorem State.dropCrossing_changes (le : (Scope.latch.plus [.pool, .mem, .dram, .swc] Part.misuseFields).Le scope) (within :
    Within scope old s) (i o : Nat) :
    Within scope old (s.dropCrossing i o) := by
  unfold State.dropCrossing
  dsimp only
  split <;> with_reducible apply_rules [within, State.releaseAll_changes, State.audDrop_changes, State.setSwin_changes, Within.ite,
                                        le.has, le.sub, le.writes] <;> decide +kernel

theorem State.dropHead_changes (le : (Scope.latch.plus [.pool, .mem, .dram, .swc] Part.misuseFields).Le scope) (within :
    Within scope old s) (i : Nat) :
    Within scope old (s.dropHead i) := by
  unfold State.dropHead
  refine within.foldl (fun t a within => ?_) _
  with_reducible apply_rules [within, State.dropCrossing_changes, Within.foldl, le.has, le.sub, le.writes]

theorem State.cellIn_changes (le : (Scope.latch.plus [.pool, .mem, .dram, .swc] Part.misuseFields).Le scope) (within :
    Within scope old s) (i : Nat) :
    Within scope old (s.cellIn i) := by
  unfold State.cellIn
  dsimp only
  split
  · exact within
  next f _ _ =>
    have crossed : Within scope old (if f.lastOfBuf (s.swin i).cell then s.crossBuf (f.bufs.getD ((s.swin i).cell / 2) 0)
        (s.swin i).ports.length
      else s) := .ite (State.crossBuf_changes (le.sub (by decide +kernel)) within ..) within
    split
    next h => exact State.dropHead_changes (le.sub (by decide +kernel)) (State.latch_changes (le.sub (by decide +kernel))
        (State.takeInject_changes (le.sub (by decide +kernel)) crossed h) ..) _
    next => exact crossed

theorem State.stage_changes (le : (Scope.latch.plus [.pool, .mem, .dram, .swc] (Part.misuseFields ++ [Reg.SWC_MC_PARTIAL,
    Reg.SWC_NOFWD, Reg.SWC_PORT_DROP])).Le scope) (within : Within scope old s) (i : Nat) :
    Within scope old (s.stage i) := by
  unfold State.stage
  dsimp only
  (repeat' split) <;> with_reducible apply_rules [within, State.cellIn_changes, State.setSwin_changes, State.sopEnter_changes,
                                                  Within.ite, le.has, le.sub, le.writes] <;> decide +kernel

theorem State.setRegl_changes (le : (Scope.of [.rgl] []).Le scope) (within : Within scope old s) (g : Nat) (x : Regulator) :
    Within scope old (s.setRegl g x) := within.rgl (le.has (by decide +kernel)) _

theorem State.messageFor_changes (le : (Scope.of [.rgl] []).Le scope) (within : Within scope old s) (g what : Nat) :
    Within scope old (s.messageFor g what) := by
  unfold State.messageFor
  with_reducible apply_rules [within, State.setRegl_changes, Within.ite, le.has, le.sub, le.writes]

theorem State.rxDeliver_changes (le : (Scope.latch.plus [.pool, .mem, .dram, .swc, .rgq, .rgl]
    (Part.misuseFields ++ [Reg.RGL_RXQ_DROP])).Le scope) (within : Within scope old s) (g : Nat) (f : LinkFrame) (port : Nat)
    (trunc : Bool) (len : Nat) :
    Within scope old (s.rxDeliver g f port trunc len) := by
  unfold State.rxDeliver
  with_reducible apply_rules [within, State.count_changes, State.audDrop_changes, State.releaseAll_changes, State.audOut_changes,
                              State.setRglQ_changes, State.messageFor_changes, State.privEdge_changes, Within.ite, le.has, le.sub,
                              le.writes] <;> decide +kernel

theorem State.lateTile_changes (le : (Scope.of [.fus, .sch] []).Le scope) (within : Within scope old s) (f : LinkFrame) :
    Within scope old (s.lateTile f) := by
  have noted := fun r => within.sch (le.has (by decide +kernel)) { s.sch with late := r }
  unfold State.lateTile
  refine .ite within ?_
  dsimp only
  split
  · exact State.setCirc_changes (le.sub (by decide +kernel)) (noted _) ..
  · exact noted _

theorem State.dropLate_changes (le : (Scope.latch.plus [.pool, .mem, .dram, .fus, .swc, .sch]
    (Part.misuseFields ++ [Reg.SCH_LATE])).Le scope) (within : Within scope old s) (p : Nat) (f : LinkFrame) :
    Within scope old (s.dropLate p f) := by
  unfold State.dropLate
  with_reducible apply_rules [within, State.lateTile_changes, State.count_changes, State.dropCopy_changes, le.has, le.sub,
                              le.writes] <;> decide +kernel

theorem State.joinPort_changes (le : (Scope.latch.plus [.pool, .mem, .dram, .fus, .swc, .sch]
    (Part.misuseFields ++ [Reg.SCH_LATE])).Le scope) (within : Within scope old s) (p : Nat) (f : LinkFrame) :
    Within scope old (s.joinPort p f) := by
  unfold State.joinPort
  with_reducible apply_rules [within, State.tagCheck_changes, State.setSport_changes, State.dropLate_changes, Within.ite, le.has,
                              le.sub, le.writes] <;> decide +kernel

theorem State.sampleCommit_changes (le : (Scope.report.plus [] Part.misuseFields).Le scope) (within : Within scope old s)
    (port : Nat) (f : LinkFrame) (bufs : List Nat) (data : Bytes) :
    Within scope old (s.sampleCommit port f bufs data) := by
  unfold State.sampleCommit
  with_reducible apply_rules [within, State.releaseAll_changes, State.record_changes, le.has, le.sub, le.writes] <;> decide +kernel

theorem State.deliver_changes (le : (Scope.report.plus [.fus, .swc, .sch, .rgq, .rgl] (Part.misuseFields ++ [Reg.RGL_RXQ_DROP,
    Reg.SCH_LATE])).Le scope) (within : Within scope old s) (i o : Nat) (f : LinkFrame) :
    Within scope old (s.deliver i o f) := by
  unfold State.deliver
  with_reducible apply_rules [within, State.joinPort_changes, State.audOut_changes, State.sampleCommit_changes,
                              State.rxDeliver_changes, Within.ite, le.has, le.sub, le.writes] <;> decide +kernel

theorem State.matched_changes (le : (Scope.report.plus [.fus, .swc, .sch, .rgq, .rgl] (Part.misuseFields ++ [Reg.RGL_RXQ_DROP,
    Reg.SCH_LATE])).Le scope) (within : Within scope old s) (i o : Nat) :
    Within scope old (s.matched i o) := by
  unfold State.matched
  dsimp only
  split <;> with_reducible apply_rules [within, State.bufWrite_changes, State.setSwin_changes, State.audDrop_changes,
                                        State.releaseAll_changes, State.deliver_changes, Within.ite, le.has, le.sub,
                                        le.writes] <;> decide +kernel

theorem State.movePointers_changes (le : (Scope.of [.swc] []).Le scope) (within : Within scope old s) (m : Nat × Nat) :
    Within scope old (s.movePointers m) := by
  unfold State.movePointers
  with_reducible apply_rules [within, State.setSwout_changes, State.setSwin_changes, le.has, le.sub, le.writes]

theorem State.iterations_changes (le : (Scope.report.plus [.fus, .swc, .sch, .rgq, .rgl] (Part.misuseFields ++ [Reg.RGL_RXQ_DROP,
    Reg.SCH_LATE])).Le scope) (within : Within scope old s) (first : Bool) (mi mo : List Nat) (n : Nat) :
    Within scope old (s.iterations first mi mo n) := by
  induction n generalizing s first mi mo with
  | zero => exact within
  | succ n ih =>
    have matched := within.foldl (f := fun t m => t.matched m.1 m.2) (fun _ _ h => State.matched_changes (le.sub
        (by decide +kernel)) h ..) (s.accepted (s.grants mi mo))
    exact ih (.ite (matched.foldl (fun _ _ h => State.movePointers_changes (le.sub (by decide +kernel)) h _) _) matched) ..

theorem State.retire_changes (le : (Scope.of [.swc] []).Le scope) (within : Within scope old s) (i : Nat) :
    Within scope old (s.retire i) := by
  unfold State.retire
  dsimp only
  (repeat' split) <;> with_reducible apply_rules [within, State.setSwin_changes, Within.ite, le.has, le.sub, le.writes]

theorem State.phase_changes (le : (Scope.report.plus [.fus, .swc, .sch, .rgq, .rgl] (Part.misuseFields ++ [Reg.RGL_RXQ_DROP,
    Reg.SCH_LATE, Reg.SWC_MC_PARTIAL, Reg.SWC_NOFWD, Reg.SWC_PORT_DROP])).Le scope) (within : Within scope old s) :
    Within scope old (s.phase) :=
  Within.foldl (State.iterations_changes (le.sub (by decide +kernel)) (within.foldl (fun _ _ h => State.stage_changes (le.sub
      (by decide +kernel)) h _) _) ..) (fun _ _ h => State.retire_changes (le.sub (by decide +kernel)) h _) _

theorem State.cellTime_changes (le : (Scope.report.plus [.fus, .swc, .sch, .rgq, .rgl] (Part.misuseFields ++ [Reg.RGL_RXQ_DROP,
    Reg.SCH_LATE, Reg.SWC_MC_PARTIAL, Reg.SWC_NOFWD, Reg.SWC_PORT_DROP])).Le scope) (within : Within scope old s) :
    Within scope old (s.cellTime) := by
  unfold State.cellTime
  with_reducible apply_rules [within, State.check_changes, State.phase_changes, le.has, le.sub, le.writes]
  decide +kernel

theorem State.onShaper_changes (le : (Scope.of [.sch] []).Le scope) (within : Within scope old s) (p : Nat) (f : Shaper → Shaper) :
    Within scope old (s.onShaper p f) := by
  unfold State.onShaper
  with_reducible apply_rules [within, State.setSport_changes, Within.ite, le.has, le.sub, le.writes]

theorem State.subCfg_changes (le : (Scope.of [.sch] []).Le scope) (within : Within scope old s) (p v : Nat) :
    Within scope old (s.subCfg p v) := by
  unfold State.subCfg
  with_reducible apply_rules [within, State.setSport_changes, State.onShaper_changes, Within.ite, le.has, le.sub, le.writes]

theorem State.closeTile_changes (le : (Scope.report.plus [.mze, .sch] [Reg.MZE_UNSENT_RP, Reg.SCH_WAIT_FIT]).Le scope) (within :
    Within scope old s) (p t_2 : Nat) :
    Within scope old (s.closeTile p t_2) := by
  unfold State.closeTile
  dsimp only
  (repeat' split) <;> with_reducible apply_rules [within, State.count_changes, State.setSport_changes, State.notice_changes,
                                                  Within.sch, Within.foldl, Within.ite, le.has, le.sub,
                                                  le.writes] <;> decide +kernel

theorem State.tileClose_changes (le : (Scope.report.plus [.mze, .sch] [Reg.MZE_UNSENT_RP, Reg.SCH_WAIT_FIT]).Le scope) (within :
    Within scope old s) (p t_2 : Nat) :
    Within scope old (s.tileClose p t_2) := by
  unfold State.tileClose
  dsimp only
  split <;> with_reducible apply_rules [within, State.closeTile_changes, Within.ite, le.has, le.sub, le.writes]

theorem State.endPframe_changes (le : (Scope.report.plus [.fus, .mze, .swc, .sch] (Part.misuseFields ++ [Reg.MZE_UNSENT_RP,
    Reg.SCH_CUT, Reg.SCH_LATE, Reg.SCH_WAIT_FIT])).Le scope) (within : Within scope old s) (p k offset : Nat) :
    Within scope old (s.endPframe p k offset) := by
  unfold State.endPframe
  extract_lets s1 x late s2 s3
  have h1 : Within scope old s1 := within.foldl (fun _ _ h => State.closeTile_changes (le.sub (by decide +kernel)) h ..) _
  have h2 : Within scope old s2 := Within.foldl (State.setSport_changes (le.sub (by decide +kernel)) h1 ..) (fun _ _ h =>
      State.dropLate_changes (le.sub (by decide +kernel)) h ..) _
  have h3 : Within scope old s3 := .ite (State.latch_changes (le.sub (by decide +kernel)) (State.count_changes (le.has
      (by decide +kernel)) (le.writes (by decide +kernel)) h2 ..) ..) h2
  exact .ite (State.count_changes (le.has (by decide +kernel)) (le.writes (by decide +kernel)) h3 ..) h3

theorem State.portMark_changes (le : (Scope.report.plus [.fus, .mze, .swc, .sch] (Part.misuseFields ++ [Reg.MZE_UNSENT_RP,
    Reg.SCH_CUT, Reg.SCH_LATE, Reg.SCH_PFRAME, Reg.SCH_WAIT_FIT])).Le scope) (within : Within scope old s) (p : Nat) :
    Within scope old (s.portMark p) := by
  unfold State.portMark
  extract_lets k tag im offset s1 x y s2 busy
  refine .ite within ?_
  have h1 : Within scope old s1 := .ite (State.endPframe_changes (le.sub (by decide +kernel)) within ..) within
  have h2 : Within scope old s2 := Within.setFld (le.has (by decide +kernel)) (le.writes (by decide +kernel))
      (State.setSport_changes (le.sub (by decide +kernel)) h1 ..) ..
  exact State.setSport_changes (le.sub (by decide +kernel)) h2 ..

theorem State.tableParity_changes (le : (Scope.latch.plus [.sch] []).Le scope) (within : Within scope old s) (p : Nat) :
    Within scope old (s.tableParity p) := by
  unfold State.tableParity
  with_reducible apply_rules [within, State.latch_changes, State.setSport_changes, Within.ite, le.has, le.sub,
                              le.writes] <;> decide +kernel

theorem State.portMarkChecked_changes (le : (Scope.report.plus [.fus, .mze, .swc, .sch] (Part.misuseFields ++ [Reg.MZE_UNSENT_RP,
    Reg.SCH_CUT, Reg.SCH_LATE, Reg.SCH_PFRAME, Reg.SCH_WAIT_FIT])).Le scope) (within : Within scope old s) (p : Nat) :
    Within scope old (s.portMarkChecked p) := by
  have marked := State.portMark_changes (le.sub (by decide +kernel)) within p
  unfold State.portMarkChecked
  dsimp only
  split
  next h => exact State.tableParity_changes (le.sub (by decide +kernel)) (State.takeInject_changes (le.sub
      (by decide +kernel)) marked h) _
  next => exact marked

theorem State.stall_changes (le : (Scope.of [.regs, .plk] [Reg.PLK_CR_STALL]).Le scope) (within : Within scope old s) (p : Nat) :
    Within scope old (s.stall p) := by
  unfold State.stall
  with_reducible apply_rules [within, State.count_changes, State.setPort_changes, Within.ite, le.has, le.sub,
                              le.writes] <;> decide +kernel

theorem State.spend_changes (le : (Scope.of [.plk] []).Le scope) (within : Within scope old s) (p : Nat) (f : LinkFrame) :
    Within scope old (s.spend p f) := by
  unfold State.spend
  with_reducible apply_rules [within, State.setPort_changes, Within.ite, le.has, le.sub, le.writes]

theorem State.sample_changes (le : (Scope.report.plus [.swc, .rgq, .rgl] (Part.misuseFields ++ [Reg.RGL_RXQ_DROP, Reg.SWC_SMP_DROP,
    Reg.SWC_SMP_TAKEN])).Le scope) (within : Within scope old s) (p : Nat) (f : LinkFrame) :
    Within scope old (s.sample p f) := by
  unfold State.sample
  dsimp only
  (repeat' split) <;> with_reducible apply_rules [within, State.setSwout_changes, State.count_changes, State.setBuf_changes,
                                                  State.held_changes, State.audIn_changes, State.rxDeliver_changes,
                                                  State.audOut_changes, State.sampleCommit_changes, Within.ite, le.has, le.sub,
                                                  le.writes] <;> decide +kernel

theorem State.depart_changes (le : (Scope.report.plus [.swc, .sch, .plk, .rgq, .rgl] (Part.misuseFields ++ [Reg.RGL_RXQ_DROP,
    Reg.SWC_PORT_FRAMES, Reg.SWC_SMP_DROP, Reg.SWC_SMP_TAKEN])).Le scope) (within : Within scope old s) (p slot : Nat)
    (f : LinkFrame) (tx : Bytes) :
    Within scope old (s.depart p slot f tx) := by
  unfold State.depart
  with_reducible apply_rules [within, State.spend_changes, State.sample_changes, State.count_changes, State.audOut_changes,
                              State.releaseAll_changes, State.emit_changes, State.setSport_changes, Within.ite, le.has, le.sub,
                              le.writes] <;> decide +kernel

theorem State.departTile_changes (le : (Scope.report.plus [.swc, .sch, .plk, .rgq, .rgl] (Part.misuseFields ++ [Reg.RGL_RXQ_DROP,
    Reg.SWC_PORT_FRAMES, Reg.SWC_SMP_DROP, Reg.SWC_SMP_TAKEN])).Le scope) (within : Within scope old s) (p slot : Nat)
    (im e : Bytes) (f : LinkFrame) :
    Within scope old (s.departTile p slot im e f) := by
  unfold State.departTile
  with_reducible apply_rules [within, State.depart_changes, State.setSport_changes, Within.ite, le.has, le.sub, le.writes]
  decide +kernel

theorem State.departBlank_changes (le : (Scope.report.plus [.swc, .sch, .plk, .rgq, .rgl] (Part.misuseFields ++ [Reg.RGL_RXQ_DROP,
    Reg.SWC_PORT_FRAMES, Reg.SWC_SMP_DROP, Reg.SWC_SMP_TAKEN])).Le scope) (within : Within scope old s) (p slot k t_4 : Nat)
    (im e : Bytes) :
    Within scope old (s.departBlank p slot k t_4 im e) := by
  unfold State.departBlank
  with_reducible apply_rules [within, State.depart_changes, State.setSport_changes, le.has, le.sub, le.writes]
  decide +kernel

theorem State.openStep_changes (le : (Scope.report.plus [.swc, .sch, .plk, .rgq, .rgl] (Part.misuseFields ++ [Reg.PLK_CR_STALL,
    Reg.RGL_RXQ_DROP, Reg.SCH_BORROW_KIB, Reg.SCH_OPEN_KIB, Reg.SWC_PORT_FRAMES, Reg.SWC_SMP_DROP, Reg.SWC_SMP_TAKEN])).Le scope)
    (within : Within scope old s) (p : Nat) (o : OpenTime) (borrow : Bool) :
    Within scope old (s.openStep p o borrow) := by
  unfold State.openStep
  dsimp only
  (repeat' split) <;> with_reducible apply_rules [within, State.depart_changes, State.setSport_changes, State.stall_changes,
                                                  Within.setFld, le.has, le.sub, le.writes] <;> decide +kernel

theorem State.tileBeat_changes (le : (Scope.report.plus [.swc, .sch, .plk, .rgq, .rgl] (Part.misuseFields ++ [Reg.PLK_CR_STALL,
    Reg.RGL_RXQ_DROP, Reg.SCH_BORROW_KIB, Reg.SCH_OPEN_KIB, Reg.SWC_PORT_FRAMES, Reg.SWC_SMP_DROP, Reg.SWC_SMP_TAKEN])).Le scope)
    (within : Within scope old s) (p slot k : Nat) (im b : Bytes) :
    Within scope old (s.tileBeat p slot k im b) := by
  unfold State.tileBeat
  dsimp only
  (repeat' split) <;> with_reducible apply_rules [within, State.stall_changes, State.departBlank_changes, State.departTile_changes,
                                                  State.openStep_changes, Within.ite, le.has, le.sub, le.writes] <;> decide +kernel

theorem State.linkDepart_changes (le : (Scope.report.plus [.swc, .sch, .plk, .rgq, .rgl] (Part.misuseFields ++ [Reg.PLK_CR_STALL,
    Reg.RGL_RXQ_DROP, Reg.SCH_BORROW_KIB, Reg.SCH_OPEN_KIB, Reg.SWC_PORT_FRAMES, Reg.SWC_SMP_DROP, Reg.SWC_SMP_TAKEN])).Le scope)
    (within : Within scope old s) (p slot : Nat) :
    Within scope old (s.linkDepart p slot) := by
  unfold State.linkDepart
  dsimp only
  (repeat' split) <;> with_reducible apply_rules [within, State.openStep_changes, State.tileBeat_changes, Within.ite, le.has,
                                                  le.sub, le.writes]

end

end Sys2Proof.Machine
end

section
/-! PROOFS. Frames of the operations of the panel link, encoding, DMA and escapements (11_monitor_and_relay_encoding.md,
14_panel_link.md, 15_escapements_and_regulators.md, 16_dma.md). -/

namespace Sys2Proof.Machine

section
-- The lemmas are many and small: one after another they need one thread only.
set_option Elab.async false

variable {scope : Scope} {old s : State}

theorem State.plkEvent_changes (le : Scope.report.Le scope) (within : Within scope old s) (code source : Nat) (args : List Nat) :
    Within scope old (s.plkEvent code source args) := by
  unfold State.plkEvent
  with_reducible apply_rules [within, State.event_changes, le.has, le.sub, le.writes]

theorem State.setLane_changes (le : (Scope.of [.plk] []).Le scope) (within : Within scope old s) (l : Nat) (x : Lane) :
    Within scope old (s.setLane l x) := by
  unfold State.setLane
  with_reducible apply_rules [within, Within.plk, le.has, le.sub, le.writes]
  decide +kernel

theorem State.dropPort_changes (le : (Scope.latch.plus [.pool, .mem, .dram, .swc, .sch] Part.misuseFields).Le scope) (within :
    Within scope old s) (p : Nat) :
    Within scope old (s.dropPort p) :=
  Within.foldl (Within.foldl (State.setSport_changes (le.sub (by decide +kernel)) within ..) (fun _ _ h => State.dropCopy_changes
      (le.sub (by decide +kernel)) h ..) _) (fun _ _ h => State.dropCrossing_changes (le.sub (by decide +kernel)) h ..) _

theorem State.stopIdent_changes (le : (Scope.report.plus [.plk] []).Le scope) (within : Within scope old s) (p : Nat) :
    Within scope old (s.stopIdent p) :=
  Within.foldl (State.setPort_changes (le.sub (by decide +kernel)) within ..) (fun _ _ h => State.finish_changes (le.sub
      (by decide +kernel)) h ..) _

theorem State.prbsSettle_changes (le : (Scope.of [.regs, .plk] [Reg.LNE_PRBS_ERR]).Le scope) (within : Within scope old s)
    (l : Nat) (on : Bool) :
    Within scope old (s.prbsSettle l on) := by
  unfold State.prbsSettle
  with_reducible apply_rules [within, Within.plk, Within.setFld, Within.ite, le.has, le.sub, le.writes] <;> decide +kernel

theorem State.prbsPort_changes (le : (Scope.of [.regs, .plk] [Reg.LNE_PRBS_ERR, Reg.LNE_TEST_CHK_LOCK]).Le scope) (within :
    Within scope old s) (p : Nat) (on : Bool) :
    Within scope old (s.prbsPort p on) := by
  unfold State.prbsPort
  exact within.foldl (fun _ _ h => .ite h (Within.setFld (le.has (by decide +kernel)) (le.writes (by decide +kernel))
      (State.prbsSettle_changes (le.sub (by decide +kernel)) h ..) ..)) _

theorem State.setPortState_changes (le : (Scope.report.plus [.swc, .sch, .plk] (Part.misuseFields ++ [Reg.LNE_PRBS_ERR,
    Reg.LNE_TEST_CHK_LOCK])).Le scope) (within : Within scope old s) (p new cause : Nat) :
    Within scope old (s.setPortState p new cause) := by
  unfold State.setPortState
  extract_lets y x sT s0 s1 s2
  refine .ite within ?_
  have hT : Within scope old sT := .ite (State.prbsPort_changes (le.sub (by decide +kernel)) within ..) (.ite
      (State.prbsPort_changes (le.sub (by decide +kernel)) within ..) within)
  have h0 : Within scope old s0 := .ite (State.setSport_changes (le.sub (by decide +kernel)) hT ..) hT
  have h1 : Within scope old s1 := State.setPort_changes (le.sub (by decide +kernel)) h0 ..
  have h2 : Within scope old s2 := .ite (State.stopIdent_changes (le.sub (by decide +kernel)) (State.dropPort_changes (le.sub
      (by decide +kernel)) h1 _) _) h1
  exact State.plkEvent_changes (le.sub (by decide +kernel)) h2 ..

theorem State.trainStep1_changes (le : (Scope.of [.plk] []).Le scope) (within : Within scope old s) (p : Nat) :
    Within scope old (s.trainStep1 p) := by
  unfold State.trainStep1
  with_reducible apply_rules [within, State.emit_changes, State.setPort_changes, Within.ite, le.has, le.sub, le.writes]

theorem State.laneBits_changes (le : (Scope.of [.regs] [Reg.LNE_STATUS_ALIGNED, Reg.LNE_STATUS_DESKEWED, Reg.LNE_STATUS_LOCK,
    Reg.LNE_STATUS_SIGNAL]).Le scope) (within : Within scope old s) (on deskewed : Bool) (l : Nat) :
    Within scope old (s.laneBits on deskewed l) := by
  unfold State.laneBits
  with_reducible apply_rules [within, Within.setFld, le.has, le.sub, le.writes] <;> decide +kernel

theorem State.retrain_changes (le : (Scope.report.plus [.swc, .sch, .plk] (Part.misuseFields ++ Part.laneFields)).Le scope)
    (within : Within scope old s) (p cause : Nat) :
    Within scope old (s.retrain p cause) := by
  unfold State.retrain
  refine State.trainStep1_changes (le.sub (by decide +kernel)) (Within.foldl (State.setPort_changes (le.sub (by decide +kernel))
      (State.setPortState_changes (le.sub (by decide +kernel)) within ..) ..) (fun _ _ h => ?_) _) _
  exact State.laneBits_changes (le.sub (by decide +kernel)) h ..

theorem State.applyCfg_changes (le : (Scope.report.plus [.swc, .sch, .plk] (Part.misuseFields ++ Part.laneFields)).Le scope)
    (within : Within scope old s) (p cause : Nat) :
    Within scope old (s.applyCfg p cause) := by
  unfold State.applyCfg
  split <;> with_reducible apply_rules [within, State.setPortState_changes, State.setPort_changes, State.retrain_changes,
                                        Within.ite, le.has, le.sub, le.writes] <;> decide +kernel

theorem State.portTrainStart_changes (le : (Scope.report.plus [.swc, .sch, .plk] (Part.misuseFields ++ Part.laneFields)).Le scope)
    (within : Within scope old s) (p : Nat) :
    Within scope old (s.portTrainStart p) := by
  unfold State.portTrainStart
  with_reducible apply_rules [within, State.applyCfg_changes, State.trainStep1_changes, Within.ite, le.has, le.sub, le.writes]
  decide +kernel

theorem State.alignTimeout_changes (le : (Scope.report.plus [.swc, .sch, .plk] (Part.misuseFields ++ [Reg.LNE_PRBS_ERR,
    Reg.LNE_TEST_CHK_LOCK, Reg.PLK_TRAIN_FAIL])).Le scope) (within : Within scope old s) (p : Nat) :
    Within scope old (s.alignTimeout p) := by
  unfold State.alignTimeout
  with_reducible apply_rules [within, State.setPortState_changes, State.latch_changes, State.count_changes, State.setPort_changes,
                              Within.ite, le.has, le.sub, le.writes] <;> decide +kernel

theorem State.retryTimer_changes (le : (Scope.report.plus [.swc, .sch, .plk] (Part.misuseFields ++ Part.laneFields)).Le scope)
    (within : Within scope old s) (p : Nat) :
    Within scope old (s.retryTimer p) := by
  unfold State.retryTimer
  with_reducible apply_rules [within, State.retrain_changes, Within.ite, le.has, le.sub, le.writes]

theorem State.askConfirm_changes (le : (Scope.of [.plk] []).Le scope) (within : Within scope old s) (p q : Nat) :
    Within scope old (s.askConfirm p q) := by
  unfold State.askConfirm
  with_reducible apply_rules [within, State.emit_changes, le.has, le.sub, le.writes]

theorem State.probeNext_changes (le : (Scope.of [.plk] []).Le scope) (within : Within scope old s) (p : Nat) :
    Within scope old (s.probeNext p) := by
  unfold State.probeNext
  dsimp only
  split <;> with_reducible apply_rules [within, State.emit_changes, le.has, le.sub, le.writes]

theorem State.confirmNext_changes (le : (Scope.of [.plk] []).Le scope) (within : Within scope old s) (p q : Nat) :
    Within scope old (s.confirmNext p q) := by
  unfold State.confirmNext
  with_reducible apply_rules [within, State.setPort_changes, State.askConfirm_changes, State.probeNext_changes, Within.ite, le.has,
                              le.sub, le.writes]

theorem State.collected_changes (le : (Scope.of [.plk] []).Le scope) (within : Within scope old s) (p : Nat) :
    Within scope old (s.collected p) := by
  unfold State.collected
  with_reducible apply_rules [within, State.confirmNext_changes, State.setPort_changes, le.has, le.sub, le.writes]

theorem State.tsType2_changes (le : (Scope.of [.regs, .plk] [Reg.LNE_STATUS_ALIGNED, Reg.LNE_STATUS_DESKEWED, Reg.LNE_STATUS_LOCK,
    Reg.LNE_STATUS_SIGNAL]).Le scope) (within : Within scope old s) (p : Nat) (set : TrainSet) :
    Within scope old (s.tsType2 p set) := by
  unfold State.tsType2
  extract_lets y q vers last x s0 fresh s1
  have h0 : Within scope old s0 := .ite (within.foldl (fun _ _ h => State.laneBits_changes (le.sub
      (by decide +kernel)) h ..) _) within
  have h1 : Within scope old s1 := State.setPort_changes (le.sub (by decide +kernel)) h0 ..
  exact .ite within (.ite (State.collected_changes (le.sub (by decide +kernel)) h1 _) h1)

theorem State.collectTimeout_changes (le : (Scope.of [.plk] []).Le scope) (within : Within scope old s) (p : Nat) :
    Within scope old (s.collectTimeout p) := by
  unfold State.collectTimeout
  with_reducible apply_rules [within, State.collected_changes, Within.ite, le.has, le.sub, le.writes]

theorem State.tsType4_changes (le : (Scope.of [.plk] []).Le scope) (within : Within scope old s) (p : Nat) (set : TrainSet) :
    Within scope old (s.tsType4 p set) := by
  unfold State.tsType4
  with_reducible apply_rules [within, State.confirmNext_changes, State.setPosn_changes, Within.ite, le.has, le.sub, le.writes]

theorem State.confirmTimeout_changes (le : (Scope.of [.plk] []).Le scope) (within : Within scope old s) (p q : Nat) :
    Within scope old (s.confirmTimeout p q) := by
  unfold State.confirmTimeout
  with_reducible apply_rules [within, State.askConfirm_changes, State.setPort_changes, State.confirmNext_changes,
                              State.setPosn_changes, Within.ite, le.has, le.sub, le.writes]

theorem State.echo_changes (le : (Scope.of [.plk] []).Le scope) (within : Within scope old s) (p q rt : Nat) :
    Within scope old (s.echo p q rt) := by
  unfold State.echo
  with_reducible apply_rules [within, State.probeNext_changes, State.setPosn_changes, Within.ite, le.has, le.sub, le.writes]

theorem State.latency_changes (le : (Scope.of [.freeCtr] []).Le scope) (within : Within scope old s) (x : Position) :
    Within scope old (s.latency x).2 :=
  by
  unfold State.latency
  split
  · exact within
  · split
    · exact State.freeWord_changes (le.sub (by decide +kernel)) within
    · exact within

theorem State.latencies_changes (le : (Scope.of [.freeCtr, .plk] []).Le scope) (within : Within scope old s) (p : Nat) :
    Within scope old (s.latencies p) := by
  refine within.foldl (fun _ _ h => ?_) _
  exact State.setPosn_changes (le.sub (by decide +kernel)) (State.latency_changes (le.sub (by decide +kernel)) h _) ..

theorem State.alignLoss_changes (le : (Scope.report.plus [.swc, .sch, .plk]
    (Part.misuseFields ++ Part.laneFields ++ [Reg.LNE_ALIGN_LOSS])).Le scope) (within : Within scope old s) (l : Nat) :
    Within scope old (s.alignLoss l) := by
  have lost := State.latch_changes (le.sub (by decide +kernel)) (State.count_changes (f := Reg.LNE_ALIGN_LOSS) (le.has
      (by decide +kernel)) (le.writes (by decide +kernel)) (State.laneBits_changes (le.sub
      (by decide +kernel)) within false false l) l 1) .lneAlign l
  unfold State.alignLoss
  refine .ite within ?_
  dsimp only
  split
  · exact .ite (State.retrain_changes (le.sub (by decide +kernel)) lost ..) lost
  · exact lost

theorem State.showSkew_changes (le : (Scope.of [.regs] [Reg.LNE_STATUS_DESKEWED, Reg.LNE_STATUS_SKEW_NS]).Le scope) (within :
    Within scope old s) (p : Nat) :
    Within scope old (s.showSkew p) := by
  refine .ite within (within.foldl (fun _ _ h => ?_) _)
  exact Within.setFld (le.has (by decide +kernel)) (le.writes (by decide +kernel)) (Within.setFld (le.has (by decide +kernel))
      (le.writes (by decide +kernel)) h ..) ..

theorem State.alignGain_changes (le : (Scope.of [.regs, .plk] [Reg.LNE_STATUS_ALIGNED, Reg.LNE_STATUS_DESKEWED, Reg.LNE_STATUS_LOCK,
    Reg.LNE_STATUS_SIGNAL, Reg.LNE_STATUS_SKEW_NS]).Le scope) (within : Within scope old s) (l : Nat) :
    Within scope old (s.alignGain l) := by
  unfold State.alignGain
  dsimp only
  split <;> with_reducible apply_rules [within, State.showSkew_changes, State.setPort_changes, Within.setFld, Within.ite, le.has,
                                        le.sub, le.writes] <;> decide +kernel

theorem State.laneRx_changes (le : (Scope.report.plus [.swc, .sch, .plk]
    (Part.misuseFields ++ Part.laneFields ++ [Reg.LNE_ALIGN_LOSS, Reg.LNE_CODE_ERR, Reg.LNE_STATUS_SKEW_NS])).Le scope) (within :
    Within scope old s) (l : Nat) (run : List LaneRx) :
    Within scope old (s.laneRx l run) := by
  unfold State.laneRx
  with_reducible apply_rules [within, State.count_changes, State.setLane_changes, State.alignLoss_changes, State.alignGain_changes,
                              Within.ite, le.has, le.sub, le.writes] <;> decide +kernel

theorem State.fomMeasure_changes (le : (Scope.report.plus [.swc, .sch, .plk]
    (Part.misuseFields ++ Part.laneFields ++ [Reg.LNE_STATUS_FOM])).Le scope) (within : Within scope old s) (l fom : Nat) :
    Within scope old (s.fomMeasure l fom) := by
  unfold State.fomMeasure
  dsimp only
  (repeat' split) <;> with_reducible apply_rules [within, State.retrain_changes, State.setLane_changes, Within.setFld, Within.ite,
                                                  le.has, le.sub, le.writes] <;> decide +kernel

theorem State.pllUnlock_changes (le : (Scope.latch.plus [.plk] []).Le scope) (within : Within scope old s) (l : Nat) :
    Within scope old (s.pllUnlock l) := by
  unfold State.pllUnlock
  with_reducible apply_rules [within, State.causeOn_changes, State.setLane_changes, Within.ite, le.has, le.sub,
                              le.writes] <;> decide +kernel

theorem State.pllRelock_changes (le : (Scope.report.plus [.swc, .sch, .plk] (Part.misuseFields ++ Part.laneFields)).Le scope)
    (within : Within scope old s) (l : Nat) :
    Within scope old (s.pllRelock l) := by
  unfold State.pllRelock
  dsimp only
  (repeat' split) <;> with_reducible apply_rules [within, State.causeOff_changes, State.setLane_changes, State.retrain_changes,
                                                  Within.ite, le.has, le.sub, le.writes] <;> decide +kernel

theorem State.plkRetrain_changes (le : (Scope.report.plus [.swc, .sch, .plk] (Part.misuseFields ++ Part.laneFields)).Le scope)
    (within : Within scope old s) (p : Nat) :
    Within scope old (s.plkRetrain p) := by
  unfold State.plkRetrain
  with_reducible apply_rules [within, State.retrain_changes, Within.ite, le.has, le.sub, le.writes]

theorem State.portCfgWrite_changes (le : (Scope.report.plus [.swc, .sch, .plk]
    (Part.misuseFields ++ Part.laneFields ++ [Reg.PLK_PORT_CFG_CLASS, Reg.PLK_PORT_CFG_EN, Reg.PLK_PORT_CFG_RATE,
    Reg.PLK_PORT_CFG_VERS])).Le scope) (within : Within scope old s) (p v : Nat) :
    Within scope old (s.portCfgWrite p v) := by
  unfold State.portCfgWrite
  dsimp only
  (repeat' split) <;> with_reducible apply_rules [within, State.applyCfg_changes, Within.setFld, Within.foldl, Within.ite, le.has,
                                                  le.sub, le.writes] <;> decide +kernel

theorem State.testEnter_changes (le : (Scope.report.plus [.swc, .sch, .plk] (Part.misuseFields ++ [Reg.LNE_PRBS_ERR,
    Reg.LNE_TEST_CHK_LOCK, Reg.PLK_PORT_CTL_TEST])).Le scope) (within : Within scope old s) (p : Nat) :
    Within scope old (s.testEnter p) := by
  unfold State.testEnter
  with_reducible apply_rules [within, State.setPortState_changes, Within.setFld, Within.ite, le.has, le.sub,
                              le.writes] <;> decide +kernel

theorem State.testClear_changes (le : (Scope.report.plus [.swc, .sch, .plk]
    (Part.misuseFields ++ Part.laneFields ++ [Reg.PLK_PORT_CTL_TEST])).Le scope) (within : Within scope old s) (p : Nat) :
    Within scope old (s.testClear p) := by
  unfold State.testClear
  with_reducible apply_rules [within, State.retrain_changes, Within.setFld, Within.ite, le.has, le.sub,
                              le.writes] <;> decide +kernel

theorem State.portCtl_changes (le : (Scope.report.plus [.swc, .sch, .plk]
    (Part.misuseFields ++ Part.laneFields ++ [Reg.PLK_PORT_CTL_TEST])).Le scope) (within : Within scope old s) (p v : Nat) :
    Within scope old (s.portCtl p v) := by
  unfold State.portCtl
  with_reducible apply_rules [within, State.testEnter_changes, State.testClear_changes, State.plkRetrain_changes, Within.ite,
                              le.has, le.sub, le.writes] <;> decide +kernel

theorem State.prbsWrite_changes (le : (Scope.of [.regs, .plk] [Reg.LNE_PRBS_ERR]).Le scope) (within : Within scope old s)
    (l v : Nat) :
    Within scope old (s.prbsWrite l v) := by
  unfold State.prbsWrite
  with_reducible apply_rules [within, State.prbsSettle_changes, Within.setFld, le.has, le.sub, le.writes] <;> decide +kernel

theorem State.laneInject_changes (le : (Scope.latch.plus [.plk] [Reg.LNE_PRBS_ERR]).Le scope) (within : Within scope old s)
    (l : Nat) :
    Within scope old (s.laneInject l) := by
  unfold State.laneInject
  with_reducible apply_rules [within, State.latch_changes, State.countSat_changes, State.prbsSettle_changes, Within.ite, le.has,
                              le.sub, le.writes] <;> decide +kernel

theorem State.laneTest_changes (le : (Scope.latch.plus [.plk] [Reg.LNE_PRBS_ERR, Reg.LNE_TEST_CHK_EN, Reg.LNE_TEST_CHK_LOCK,
    Reg.LNE_TEST_GEN_EN, Reg.LNE_TEST_INJ_RATE, Reg.LNE_TEST_LOOP, Reg.LNE_TEST_PATTERN]).Le scope) (within : Within scope old s)
    (l v : Nat) :
    Within scope old (s.laneTest l v) := by
  unfold State.laneTest
  extract_lets started s0 s1 x t y p s2 s3
  refine .ite (State.latch_changes (le.sub (by decide +kernel)) within ..) ?_
  have h0 : Within scope old s0 := State.prbsSettle_changes (le.sub (by decide +kernel)) within ..
  have h1 : Within scope old s1 := Within.setFld (le.has (by decide +kernel)) (le.writes (by decide +kernel)) (Within.setFld
      (le.has (by decide +kernel)) (le.writes (by decide +kernel)) (Within.setFld (le.has (by decide +kernel)) (le.writes
      (by decide +kernel))
    (Within.setFld (le.has (by decide +kernel)) (le.writes (by decide +kernel)) (Within.setFld (le.has (by decide +kernel))
        (le.writes (by decide +kernel)) h0 ..) ..) ..) ..) ..
  have h2 : Within scope old s2 := .ite (Within.plk (le.has (by decide +kernel)) (Within.setFld (f := Reg.LNE_PRBS_ERR) (le.has
      (by decide +kernel)) (le.writes (by decide +kernel)) h1 ..) _) h1
  have h3 : Within scope old s3 := Within.setFld (le.has (by decide +kernel)) (le.writes (by decide +kernel))
      (State.prbsSettle_changes (le.sub (by decide +kernel)) h2 ..) ..
  exact .ite (State.laneInject_changes (le.sub (by decide +kernel)) h3 _) h3

theorem State.creditBlock_changes (le : (Scope.of [.plk] []).Le scope) (within : Within scope old s) (p n : Nat) :
    Within scope old (s.creditBlock p n) := by
  unfold State.creditBlock
  with_reducible apply_rules [within, State.setPort_changes, Within.ite, le.has, le.sub, le.writes]

theorem State.pollLane_changes (le : (Scope.report.plus [.swc, .sch, .plk]
    (Part.misuseFields ++ Part.laneFields ++ [Reg.LNE_ALIGN_LOSS, Reg.LNE_MOD_CMIS, Reg.LNE_MOD_LOS, Reg.LNE_MOD_PRESENT,
    Reg.LNE_MOD_RX_PWR, Reg.LNE_MOD_TEMP])).Le scope) (within : Within scope old s) (l : Nat) (m : ModInfo) :
    Within scope old (s.pollLane l m) := by
  unfold State.pollLane
  extract_lets was los now ev s1 s2 s3
  refine .ite within (.ite (State.latch_changes (le.sub (by decide +kernel)) within ..) ?_)
  have told : ∀ {t : State}, Within scope old t → ∀ on code, Within scope old (ev t on code) := fun h on code => .ite
      (State.plkEvent_changes (le.sub (by decide +kernel)) h ..) h
  have h1 : Within scope old s1 := Within.setFld (le.has (by decide +kernel)) (le.writes (by decide +kernel)) (Within.setFld
      (le.has (by decide +kernel)) (le.writes (by decide +kernel)) (Within.setFld (le.has (by decide +kernel)) (le.writes
      (by decide +kernel))
    (Within.setFld (le.has (by decide +kernel)) (le.writes (by decide +kernel)) (Within.setFld (le.has (by decide +kernel))
        (le.writes (by decide +kernel)) within ..) ..) ..) ..) ..
  have h3 : Within scope old s3 := told (told (told (told h1 ..) ..) ..) ..
  exact .ite (State.alignLoss_changes (le.sub (by decide +kernel)) h3 _) h3

theorem State.modulePoll_changes (le : (Scope.report.plus [.swc, .sch, .plk]
    (Part.misuseFields ++ Part.laneFields ++ [Reg.LNE_ALIGN_LOSS, Reg.LNE_MOD_CMIS, Reg.LNE_MOD_LOS, Reg.LNE_MOD_PRESENT,
    Reg.LNE_MOD_RX_PWR, Reg.LNE_MOD_TEMP])).Le scope) (within : Within scope old s) (b : Nat) (found : List ModInfo) :
    Within scope old (s.modulePoll b found) :=
  .ite within (within.foldl (fun _ _ h => State.pollLane_changes (le.sub (by decide +kernel)) h ..) _)

theorem State.i2cGo_changes (le : (Scope.of [.regs, .plk] [Reg.PLK_I2C_CMD_ADDR, Reg.PLK_I2C_CMD_BUS, Reg.PLK_I2C_CMD_READ,
    Reg.PLK_I2C_CMD_REG, Reg.PLK_I2C_CMD_SPEED, Reg.PLK_I2C_CMD_WDATA, Reg.PLK_I2C_STAT_BUSY]).Le scope) (within :
    Within scope old s) (v : Nat) :
    Within scope old (s.i2cGo v) := by
  unfold State.i2cGo
  extract_lets s1
  have h1 : Within scope old s1 := Within.setFld (le.has (by decide +kernel)) (le.writes (by decide +kernel)) (Within.setFld
      (le.has (by decide +kernel)) (le.writes (by decide +kernel)) (Within.setFld (le.has (by decide +kernel)) (le.writes
      (by decide +kernel))
    (Within.setFld (le.has (by decide +kernel)) (le.writes (by decide +kernel)) (Within.setFld (le.has (by decide +kernel))
        (le.writes (by decide +kernel)) (Within.setFld (le.has (by decide +kernel)) (le.writes
        (by decide +kernel)) within ..) ..) ..) ..) ..) ..
  exact .ite (Within.setFld (le.has (by decide +kernel)) (le.writes (by decide +kernel)) (Within.plk (le.has
      (by decide +kernel)) h1 _) ..) h1

theorem State.i2cDone_changes (le : (Scope.of [.regs, .plk] [Reg.PLK_I2C_STAT_BUSY, Reg.PLK_I2C_STAT_NACK,
    Reg.PLK_I2C_STAT_RDATA]).Le scope) (within : Within scope old s) (rdata : Nat) (nack : Bool) :
    Within scope old (s.i2cDone rdata nack) := by
  unfold State.i2cDone
  dsimp only
  (repeat' split) <;> with_reducible apply_rules [within, Within.plk, Within.setFld, Within.ite, le.has, le.sub,
                                                  le.writes] <;> decide +kernel

theorem State.upstream_changes (le : (Scope.of [.regs] [Reg.PLK_RX_CRC]).Le scope) (within : Within scope old s) (p : Nat)
    (f : Bytes) (k : State → State) (hk : ∀ x, Within scope old x → Within scope old (k x)) :
    Within scope old (s.upstream p f k) := by
  unfold State.upstream
  with_reducible apply_rules [within, State.count_changes, Within.ite, hk, le.has, le.sub, le.writes] <;> decide +kernel

theorem State.intoSwitch_changes (le : (Scope.of [.swc] []).Le scope) (within : Within scope old s) (p : Nat) (f : Bytes) :
    Within scope old (s.intoSwitch p f) := by
  unfold State.intoSwitch
  with_reducible apply_rules [within, State.setSwin_changes, le.has, le.sub, le.writes]

theorem State.identSend_changes (le : (Scope.of [.sch, .plk] []).Le scope) (within : Within scope old s) (p q : Nat)
    (payload : Bytes) :
    Within scope old (s.identSend p q payload).2 := by
  unfold State.identSend
  with_reducible apply_rules [within, State.setPort_changes, State.setSport_changes, le.has, le.sub, le.writes] <;> decide +kernel

theorem State.askRecord_changes (le : (Scope.of [.sch, .plk] []).Le scope) (within : Within scope old s) (p q n : Nat) :
    Within scope old (s.askRecord p q n) :=
  State.setPosn_changes (le.sub (by decide +kernel)) (State.identSend_changes (le.sub (by decide +kernel)) within ..) ..

theorem State.writeAdj_changes (le : (Scope.report.plus [.sch, .plk] []).Le scope) (within : Within scope old s) (p q n : Nat) :
    Within scope old (s.writeAdj p q n) := by
  unfold State.writeAdj
  exact State.setPosn_changes (le.sub (by decide +kernel)) (State.identSend_changes (le.sub (by decide +kernel)) (.ite
      (State.latch_changes (le.sub (by decide +kernel)) (State.plkEvent_changes (le.sub
      (by decide +kernel)) within ..) ..) within) ..) ..

theorem State.engineWait_changes (le : (Scope.of [.plk] []).Le scope) (within : Within scope old s) (p q e : Nat) :
    Within scope old (s.engineWait p q e) := by
  unfold State.engineWait
  with_reducible apply_rules [within, State.setPosn_changes, le.has, le.sub, le.writes]

theorem State.engineRetry_changes (le : (Scope.report.plus [.sch, .plk] []).Le scope) (within : Within scope old s) (p q : Nat) :
    Within scope old (s.engineRetry p q) :=
  .ite (.ite (State.askRecord_changes (le.sub (by decide +kernel)) within ..) (State.engineWait_changes (le.sub
      (by decide +kernel)) within ..)) (.ite (State.writeAdj_changes (le.sub (by decide +kernel)) within ..)
      (State.engineWait_changes (le.sub (by decide +kernel)) within ..))

theorem State.newRecord_changes (le : (Scope.report.plus [.sch, .plk] []).Le scope) (within : Within scope old s) (p q : Nat)
    (r : Bytes) :
    Within scope old (s.newRecord p q r) := by
  unfold State.newRecord
  with_reducible apply_rules [within, State.writeAdj_changes, State.setPosn_changes, le.has, le.sub, le.writes]
  decide +kernel

theorem State.askFresh_changes (le : (Scope.of [.sch, .plk] []).Le scope) (within : Within scope old s) (p q j n : Nat) :
    Within scope old (s.askFresh p q j n) :=
  State.setPosn_changes (le.sub (by decide +kernel)) (State.identSend_changes (le.sub (by decide +kernel)) within ..) ..

theorem State.identDone_changes (le : Scope.report.Le scope) (within : Within scope old s) (j p q : Nat) :
    Within scope old (s.identDone j p q) := by
  unfold State.identDone
  with_reducible apply_rules [within, State.finish_changes, State.spaceWrite_changes, le.has, le.sub, le.writes]
  decide +kernel

theorem State.identRead_changes (le : (Scope.report.plus [.sch, .plk] []).Le scope) (within : Within scope old s) (j : Nat) :
    Within scope old (s.identRead j) := by
  have ended : ∀ r, Within scope old (s.finish j r) := fun r => State.finish_changes (le.sub (by decide +kernel)) within ..
  unfold State.identRead
  exact .ite (ended _) (.ite (ended _) (.ite (State.askFresh_changes (le.sub (by decide +kernel)) (State.start_changes (le.sub
      (by decide +kernel)) within ..) ..) (State.identDone_changes (le.sub (by decide +kernel)) within ..)))

theorem State.freshRetry_changes (le : (Scope.report.plus [.sch, .plk] []).Le scope) (within : Within scope old s) (p q : Nat)
    (r : FreshRead) :
    Within scope old (s.freshRetry p q r) := by
  unfold State.freshRetry
  exact .ite (State.askFresh_changes (le.sub (by decide +kernel)) (State.setPosn_changes (le.sub
      (by decide +kernel)) within ..) ..) (State.finish_changes (le.sub (by decide +kernel)) (State.setPosn_changes (le.sub
      (by decide +kernel)) within ..) ..)

theorem State.freshGot_changes (le : (Scope.report.plus [.sch, .plk] []).Le scope) (within : Within scope old s) (p q : Nat)
    (r : FreshRead) (rec : Bytes) :
    Within scope old (s.freshGot p q r rec) := by
  unfold State.freshGot
  exact State.identDone_changes (le.sub (by decide +kernel)) (.ite (State.writeAdj_changes (le.sub (by decide +kernel))
      (State.setPosn_changes (le.sub (by decide +kernel)) within ..) ..) (State.setPosn_changes (le.sub
      (by decide +kernel)) within ..)) ..

theorem State.identReply_changes (le : (Scope.report.plus [.sch, .plk] []).Le scope) (within : Within scope old s) (p q tag : Nat)
    (pay : Bytes) :
    Within scope old (s.identReply p q tag pay) := by
  unfold State.identReply
  dsimp only
  (repeat' split) <;> with_reducible apply_rules [within, State.newRecord_changes, State.engineWait_changes, State.setPosn_changes,
                                                  State.engineRetry_changes, State.freshGot_changes, State.freshRetry_changes,
                                                  Within.ite, le.has, le.sub, le.writes] <;> decide +kernel

theorem State.replyTimeout_changes (le : (Scope.report.plus [.sch, .plk] []).Le scope) (within : Within scope old s) (p q : Nat) :
    Within scope old (s.replyTimeout p q) := by
  unfold State.replyTimeout
  dsimp only
  (repeat' split) <;> with_reducible apply_rules [within, State.engineRetry_changes, State.freshRetry_changes, Within.ite, le.has,
                                                  le.sub, le.writes]

theorem State.reread_changes (le : (Scope.report.plus [.sch, .plk] []).Le scope) (within : Within scope old s) (p q : Nat) :
    Within scope old (s.reread p q) :=
  .ite within (.ite (State.askRecord_changes (le.sub (by decide +kernel)) within ..) (.ite (State.writeAdj_changes (le.sub
      (by decide +kernel)) within ..) within))

theorem State.trainComplete_changes (le : (Scope.report.plus [.swc, .sch, .plk] (Part.misuseFields ++ [Reg.LNE_PRBS_ERR,
    Reg.LNE_TEST_CHK_LOCK, Reg.PLK_TRAINS])).Le scope) (within : Within scope old s) (p : Nat) :
    Within scope old (s.trainComplete p) := by
  unfold State.trainComplete
  refine .ite within (Within.foldl (State.count_changes (le.has (by decide +kernel)) (le.writes (by decide +kernel))
      (State.emit_changes (le.sub (by decide +kernel)) (State.setPortState_changes (le.sub (by decide +kernel))
      (State.latencies_changes (le.sub (by decide +kernel)) within _) ..) ..) ..) (fun _ _ h => ?_) _)
  exact State.askRecord_changes (le.sub (by decide +kernel)) h ..

theorem State.statusDamage_changes (le : (Scope.report.plus [.mze] [Reg.MZE_DAMAGE_RP]).Le scope) (within : Within scope old s)
    (p : Nat) (f im e : Bytes) (mirror : Bool) :
    Within scope old (s.statusDamage p f im e mirror) := by
  unfold State.statusDamage
  split <;> with_reducible apply_rules [within, State.damage_changes, Within.ite, le.has, le.sub, le.writes]

theorem State.status_changes (le : (Scope.report.plus [.mze, .plk] [Reg.MZE_DAMAGE_RP, Reg.PLK_STATUS_RX]).Le scope) (within :
    Within scope old s) (p : Nat) (f : Bytes) :
    Within scope old (s.status p f) := by
  unfold State.status
  dsimp only
  (repeat' split) <;> with_reducible apply_rules [within, State.count_changes, State.setPosn_changes, State.statusDamage_changes,
                                                  le.has, le.sub, le.writes] <;> decide +kernel

theorem State.setEncCore_changes (le : (Scope.of [.enc] []).Le scope) (within : Within scope old s) (c : Nat) (x : EncCore) :
    Within scope old (s.setEncCore c x) := by
  unfold State.setEncCore
  with_reducible apply_rules [within, Within.enc, le.has, le.sub, le.writes]
  decide +kernel

theorem State.encOpen_changes (le : (Scope.report.plus [.enc] []).Le scope) (within : Within scope old s) (j : Nat) :
    Within scope old (s.encOpen j) := by
  unfold State.encOpen
  with_reducible apply_rules [within, State.finish_changes, State.encSource_changes, State.setSes_changes, Within.foldl, Within.ite,
                              le.has, le.sub, le.writes] <;> decide +kernel

theorem State.encEnd_changes (le : (Scope.report.plus [.enc] []).Le scope) (within : Within scope old s) (e : Nat) :
    Within scope old (s.encEnd e) :=
  .ite within (Within.foldl (State.setSes_changes (le.sub (by decide +kernel)) within ..) (fun _ _ h => State.finish_changes
      (le.sub (by decide +kernel)) h ..) _)

theorem State.encClose_changes (le : (Scope.report.plus [.enc] []).Le scope) (within : Within scope old s) (j : Nat) :
    Within scope old (s.encClose j) := by
  unfold State.encClose
  with_reducible apply_rules [within, State.finish_changes, State.encEnd_changes, State.setSes_changes, State.start_changes,
                              Within.ite, le.has, le.sub, le.writes] <;> decide +kernel

theorem State.encReady_changes (le : (Scope.latch.plus [.dec, .enc] []).Le scope) (within : Within scope old s) (e : Nat) :
    Within scope old (s.encReady e) := by
  unfold State.encReady
  dsimp only
  (repeat' split) <;> with_reducible apply_rules [within, State.releaseWindowless_changes, State.setSes_changes,
                                                  State.latch_changes, State.setPic_changes, Within.ite, le.has, le.sub,
                                                  le.writes] <;> decide +kernel

theorem State.encStart_changes (le : (Scope.of [.enc] []).Le scope) (within : Within scope old s) (e : Nat) :
    Within scope old (s.encStart e) := by
  unfold State.encStart
  refine .ite within ?_
  split
  · exact within
  · exact Within.foldl (State.setSes_changes (le.sub (by decide +kernel)) within ..) (fun _ _ h => State.setEncCore_changes (le.sub
      (by decide +kernel)) h ..) _

theorem State.encFree_changes (le : (Scope.of [.enc] []).Le scope) (within : Within scope old s) (e : Nat) :
    Within scope old (s.encFree e) := by
  unfold State.encFree
  refine within.foldl (fun t a within => ?_) _
  with_reducible apply_rules [within, State.setEncCore_changes, Within.foldl, le.has, le.sub, le.writes]

theorem State.encFill_changes (le : (Scope.of [.hst, .hostMem, .pool, .mem, .dram] []).Le scope) (within : Within scope old s)
    (tenant ctr : Nat) (pkts : List Pkt) (o n : Nat) :
    Within scope old (s.encFill tenant ctr pkts o n) := by
  induction pkts generalizing s o n with
  | nil => exact within
  | cons p ps ih => exact ih (State.spaceWrite_changes (le.sub (by decide +kernel)) within ..) ..

theorem State.encDeliver_changes (le : (Scope.report.plus [.enc] []).Le scope) (within : Within scope old s) (e : Nat) (p : EncPic)
    (bytes qp : Nat) (guard : Bool) :
    Within scope old (s.encDeliver e p bytes qp guard) := by
  unfold State.encDeliver
  dsimp only
  split <;> with_reducible apply_rules [within, State.encFill_changes, State.record_changes, State.setRing_changes,
                                        State.setSes_changes, State.encEvent_changes, Within.freeCtr, Within.ite, le.has, le.sub,
                                        le.writes] <;> decide +kernel

theorem State.encNoBuf_changes (le : (Scope.report.plus [.enc] []).Le scope) (within : Within scope old s) (e bytes avail : Nat) :
    Within scope old (s.encNoBuf e bytes avail) := by
  unfold State.encNoBuf
  with_reducible apply_rules [within, State.encEvent_changes, State.setSes_changes, le.has, le.sub, le.writes] <;> decide +kernel

theorem State.encDone_changes (le : (Scope.report.plus [.enc] []).Le scope) (within : Within scope old s) (e : Nat)
    (cols : List EncCol) (qp : Nat) (low : List (List Nat)) :
    Within scope old (s.encDone e cols qp low) := by
  unfold State.encDone
  dsimp only
  split
  · exact within
  · have checked := Within.foldl (f := fun t c => t.check .encSram c) (State.encFree_changes (le.sub (by decide +kernel)) within e)
      (fun _ _ h => State.check_changes (le.sub (by decide +kernel)) h ..) (s.ses e).cores
    exact State.encEnd_changes (le.sub (by decide +kernel)) (.ite (State.encNoBuf_changes (le.sub (by decide +kernel)) checked ..)
        (State.encDeliver_changes (le.sub (by decide +kernel)) checked ..)) _

theorem State.encMove_changes (le : (Scope.of [.enc] []).Le scope) (within : Within scope old s) (c : Nat) (es : List Nat) :
    Within scope old (s.encMove c es) := by
  induction es generalizing s with
  | nil => exact within
  | cons e es ih =>
    refine ih ?_
    split
    · exact State.setSes_changes (le.sub (by decide +kernel)) within ..
    · exact within

theorem State.encCoreFault_changes (le : (Scope.report.plus [.enc, .esc] []).Le scope) (within : Within scope old s) (c : Nat) :
    Within scope old (s.encCoreFault c) := by
  unfold State.encCoreFault
  refine State.escRequest_changes (le.sub (by decide +kernel)) (State.latch_changes (le.sub (by decide +kernel))
      (State.encMove_changes (le.sub (by decide +kernel)) (Within.foldl (State.setEncCore_changes (le.sub
      (by decide +kernel)) ?_ ..) (fun _ _ h => State.setSes_changes (le.sub (by decide +kernel)) h ..) _) ..) ..) ..
  exact .ite (State.encEnd_changes (le.sub (by decide +kernel)) (State.setSes_changes (le.sub (by decide +kernel))
      (State.encFree_changes (le.sub (by decide +kernel)) within _) ..) _) within

theorem State.pictureEnd_changes (le : (Scope.report.plus [.enc, .esc] []).Le scope) (within : Within scope old s) (e : Nat)
    (cols : List EncCol) (qp : Nat) (guard : List (List Nat)) :
    Within scope old (s.pictureEnd e cols qp guard) := by
  unfold State.pictureEnd
  dsimp only
  split
  next c _ _ =>
    refine State.encCoreFault_changes (le.sub (by decide +kernel)) ?_ _
    cases h : s.takeInject .encCore c with
    | some t => exact State.takeInject_changes (le.sub (by decide +kernel)) within h
    | none => exact within
  next => exact State.encDone_changes (le.sub (by decide +kernel)) within ..

theorem State.encReset_changes (le : (Scope.of [.enc, .esc] []).Le scope) (within : Within scope old s) (c : Nat) :
    Within scope old (s.encReset c) := by
  unfold State.encReset
  with_reducible apply_rules [within, State.escAdopt_changes, State.setEncCore_changes, Within.ite, le.has, le.sub,
                              le.writes] <;> decide +kernel

theorem State.encCtl_changes (le : (Scope.of [.enc, .esc] []).Le scope) (within : Within scope old s) (c v : Nat) :
    Within scope old (s.encCtl c v) := by
  unfold State.encCtl
  with_reducible apply_rules [within, State.setEncCore_changes, State.encReset_changes, Within.ite, le.has, le.sub,
                              le.writes] <;> decide +kernel

theorem State.encRegion_changes (le : (Scope.latch.plus [] [Reg.ENC_REGION_BASE, Reg.ENC_REGION_SIZE]).Le scope) (within :
    Within scope old s) (reg v : Nat) :
    Within scope old (s.encRegion reg v) := by
  unfold State.encRegion
  with_reducible apply_rules [within, State.latch_changes, Within.setFld, Within.ite, le.has, le.sub, le.writes] <;> decide +kernel

theorem State.encRecompute_changes (le : (Scope.of [.enc] []).Le scope) (within : Within scope old s) :
    Within scope old (s.encRecompute) := by
  unfold State.encRecompute
  refine within.foldl (fun t a within => ?_) _
  with_reducible apply_rules [within, State.setSes_changes, Within.foldl, Within.ite, le.has, le.sub, le.writes]

theorem State.setDch_changes (le : (Scope.of [.dma] []).Le scope) (within : Within scope old s) (c : Nat) (x : DmaCh) :
    Within scope old (s.setDch c x) := by
  unfold State.setDch
  with_reducible apply_rules [within, Within.dma, le.has, le.sub, le.writes]
  decide +kernel

theorem State.chainEnd_changes (le : (Scope.report.plus [.dma] []).Le scope) (within : Within scope old s) (c : Nat)
    (whole : Bool) :
    Within scope old (s.chainEnd c whole) := by
  unfold State.chainEnd
  dsimp only
  split <;> with_reducible apply_rules [within, State.setDch_changes, State.intEdge_changes, State.finish_changes, Within.ite,
                                        le.has, le.sub, le.writes] <;> decide +kernel

theorem State.descBack_changes (le : (Scope.of [.hst, .hostMem, .pool, .mem, .dram] []).Le scope) (within : Within scope old s)
    (x : DmaCh) (st remain off : Nat) :
    Within scope old (s.descBack x st remain off) := by
  unfold State.descBack
  with_reducible apply_rules [within, State.spaceWrite_changes, Within.ite, le.has, le.sub, le.writes]

theorem State.descEnd_changes (le : (Scope.report.plus [.dma] [Reg.DMA_ERRORS]).Le scope) (within : Within scope old s) (c : Nat)
    (d : Bytes) (st remain off : Nat) :
    Within scope old (s.descEnd c d st remain off) := by
  unfold State.descEnd
  dsimp only
  (repeat' split) <;> with_reducible apply_rules [within, State.descBack_changes, State.count_changes, State.latch_changes,
                                                  State.chainEnd_changes, State.setDch_changes, Within.ite, le.has, le.sub,
                                                  le.writes] <;> decide +kernel

theorem State.dmaFault_changes (le : (Scope.report.plus [.dma] []).Le scope) (within : Within scope old s) (p : Nat) :
    Within scope old (s.dmaFault p) :=
  Within.foldl (State.latch_changes (le.sub (by decide +kernel)) within ..) (fun _ _ h => State.chainEnd_changes (le.sub
      (by decide +kernel)) h ..) _

theorem State.chainStart_changes (le : (Scope.of [.dma] []).Le scope) (within : Within scope old s) (c head submitter : Nat)
    (job : Option Nat) :
    Within scope old (s.chainStart c head submitter job) := by
  unfold State.chainStart
  with_reducible apply_rules [within, State.setDch_changes, le.has, le.sub, le.writes]

theorem State.submit_changes (le : (Scope.report.plus [.dma] []).Le scope) (within : Within scope old s) (j : Nat) :
    Within scope old (s.submit j) := by
  unfold State.submit
  split <;> with_reducible apply_rules [within, State.chainStart_changes, State.start_changes, State.finish_changes, Within.ite,
                                        le.has, le.sub, le.writes] <;> decide +kernel

theorem State.dmaStart_changes (le : (Scope.latch.plus [.dma] []).Le scope) (within : Within scope old s) (c : Nat) :
    Within scope old (s.dmaStart c) := by
  unfold State.dmaStart
  with_reducible apply_rules [within, State.latch_changes, State.chainStart_changes, Within.ite, le.has, le.sub,
                              le.writes] <;> decide +kernel

theorem State.chainStop_changes (le : (Scope.report.plus [.dma] []).Le scope) (within : Within scope old s) (c : Nat)
    (timedOut : Bool) :
    Within scope old (s.chainStop c timedOut) := by
  unfold State.chainStop
  with_reducible apply_rules [within, State.setDch_changes, State.chainEnd_changes, Within.ite, le.has, le.sub,
                              le.writes] <;> decide +kernel

theorem State.chainTimeout_changes (le : (Scope.report.plus [.dma] []).Le scope) (within : Within scope old s) (c : Nat) :
    Within scope old (s.chainTimeout c) := by
  unfold State.chainTimeout
  with_reducible apply_rules [within, State.chainStop_changes, Within.ite, le.has, le.sub, le.writes]

theorem State.descRead_changes (le : (Scope.latch.plus [.hst, .mem] Part.eccFields).Le scope) (within : Within scope old s)
    (c : Nat) (given : Bytes) (resp : DmaResp) :
    Within scope old (s.descRead c given resp).2.2 := by
  unfold State.descRead
  dsimp only
  split
  · split
    next h => exact .ofPair h (State.engineRead_changes (le.sub (by decide +kernel)) within ..)
    next h => exact .ofPair h (State.engineRead_changes (le.sub (by decide +kernel)) within ..)
  · exact State.hostReq_changes (le.sub (by decide +kernel)) within ..

theorem State.descFetch_changes (le : (Scope.report.plus [.dma] (Part.eccFields ++ [Reg.DMA_ERRORS])).Le scope) (within :
    Within scope old s) (c : Nat) (given : Bytes) (resp : DmaResp) :
    Within scope old (s.descFetch c given resp) := by
  unfold State.descFetch
  dsimp only
  (repeat' split) <;> with_reducible apply_rules [within, State.descRead_changes, State.descEnd_changes, State.setDch_changes,
                                                  State.latch_changes, Within.ite, le.has, le.sub, le.writes] <;> decide +kernel

theorem State.accessDone_changes (le : (Scope.latch.plus [.dma] []).Le scope) (within : Within scope old s) (c : Nat)
    (onSrc : Bool) (off len : Nat) (resp : DmaResp) :
    Within scope old (s.accessDone c onSrc off len resp) := by
  unfold State.accessDone
  dsimp only
  (repeat' split) <;> with_reducible apply_rules [within, State.setDch_changes, State.latch_changes, Within.ite, le.has, le.sub,
                                                  le.writes] <;> decide +kernel

theorem State.dmaRead_changes (le : (Scope.latch.plus [.hst, .mem] Part.eccFields).Le scope) (within : Within scope old s)
    (c addr n : Nat) (given : Bytes) (onSrc : Bool) (progress : Nat) :
    Within scope old (s.dmaRead c addr n given onSrc progress).2.2 := by
  unfold State.dmaRead
  dsimp only
  (repeat' split) <;> with_reducible apply_rules [within, State.hostReq_changes, State.engineRead_changes, State.latch_changes,
                                                  Within.ite, le.has, le.sub, le.writes] <;> decide +kernel

theorem State.dmaWrite_changes (le : (Scope.of [.freeCtr, .regs, .hst, .hostMem, .pool, .mem, .dram,
    .dma] [Reg.DMA_BYTES_KIB]).Le scope) (within : Within scope old s) (c : Nat) (d data : Bytes) (r : DmaEnd) :
    Within scope old (s.dmaWrite c d data r) := by
  unfold State.dmaWrite
  with_reducible apply_rules [within, State.spaceWrite_changes, Within.freeCtr, Within.dma, Within.setFld, Within.ite, le.has,
                              le.sub, le.writes] <;> decide +kernel

theorem State.dmaChecks_changes (le : (Scope.report.plus [.esc, .dma] []).Le scope) (within : Within scope old s) (c : Nat) :
    Within scope old (s.dmaChecks c) := by
  have checked := State.check_changes (le.sub (by decide +kernel)) within .dmaSram (c / 16)
  unfold State.dmaChecks
  dsimp only
  split
  next h => exact State.escRequest_changes (le.sub (by decide +kernel)) (State.dmaFault_changes (le.sub (by decide +kernel))
      (State.takeInject_changes (le.sub (by decide +kernel)) checked h) _) ..
  next => exact checked

theorem State.copyDone_changes (le : (Scope.report.plus [.esc, .dma] (Part.eccFields ++ [Reg.DMA_BYTES_KIB,
    Reg.DMA_ERRORS])).Le scope) (within : Within scope old s) (c : Nat) (given : Bytes) :
    Within scope old (s.copyDone c given) := by
  unfold State.copyDone
  dsimp only
  split <;> with_reducible apply_rules [within, State.dmaChecks_changes, State.dmaRead_changes, State.descEnd_changes,
                                        State.dmaWrite_changes, Within.ite, le.has, le.sub, le.writes] <;> decide +kernel

theorem State.fillDone_changes (le : (Scope.report.plus [.esc, .dma] [Reg.DMA_BYTES_KIB, Reg.DMA_ERRORS]).Le scope) (within :
    Within scope old s) (c : Nat) :
    Within scope old (s.fillDone c) := by
  unfold State.fillDone
  dsimp only
  split <;> with_reducible apply_rules [within, State.dmaChecks_changes, State.descEnd_changes, State.dmaWrite_changes, Within.ite,
                                        le.has, le.sub, le.writes] <;> decide +kernel

theorem State.compareDone_changes (le : (Scope.report.plus [.esc, .dma] (Part.eccFields ++ [Reg.DMA_ERRORS])).Le scope) (within :
    Within scope old s) (c : Nat) (a b : Bytes) :
    Within scope old (s.compareDone c a b) := by
  unfold State.compareDone
  dsimp only
  split <;> with_reducible apply_rules [within, State.dmaChecks_changes, State.dmaRead_changes, State.descEnd_changes, Within.ite,
                                        le.has, le.sub, le.writes] <;> decide +kernel

theorem State.escFault_changes (le : (Scope.report.plus [.dec, .mze, .enc, .esc, .dma] Part.misuseFields).Le scope) (within :
    Within scope old s) (kind i : Nat) :
    Within scope old (s.escFault kind i) := by
  unfold State.escFault
  split
  · exact State.decCoreFault_changes (le.sub (by decide +kernel)) within _
  · exact State.encCoreFault_changes (le.sub (by decide +kernel)) within _
  · exact State.mzeCoreFault_changes (le.sub (by decide +kernel)) within _
  · exact State.escRequest_changes (le.sub (by decide +kernel)) (State.latch_changes (le.sub (by decide +kernel)) within ..) ..
  · exact State.escRequest_changes (le.sub (by decide +kernel)) (State.latch_changes (le.sub (by decide +kernel)) within ..) ..
  · exact State.escRequest_changes (le.sub (by decide +kernel)) (State.dmaFault_changes (le.sub (by decide +kernel)) within _) ..

theorem State.escHalt_changes (le : (Scope.of [.esc] []).Le scope) (within : Within scope old s) (kind i : Nat) :
    Within scope old (s.escHalt kind i) := by
  unfold State.escHalt
  with_reducible apply_rules [within, State.setEsc_changes, le.has, le.sub, le.writes]

theorem State.escParity_changes (le : (Scope.report.plus [.dec, .mze, .enc, .esc, .dma]
    (Part.misuseFields ++ [Reg.ESC_PARITY])).Le scope) (within : Within scope old s) (kind i : Nat) :
    Within scope old (s.escParity kind i) :=
  State.escFault_changes (le.sub (by decide +kernel)) (State.count_changes (le.has (by decide +kernel)) (le.writes
      (by decide +kernel)) (State.escHalt_changes (le.sub (by decide +kernel)) within ..) ..) ..

theorem State.escEnd_changes (le : (Scope.report.plus [.dec, .mze, .enc, .esc, .dma]
    (Part.misuseFields ++ [Reg.ESC_PARITY])).Le scope) (within : Within scope old s) (kind i : Nat) (e : EscEnd) :
    Within scope old (s.escEnd kind i e) := by
  unfold State.escEnd
  split <;> with_reducible apply_rules [within, State.setEsc_changes, State.escParity_changes, le.has, le.sub,
                                        le.writes] <;> decide +kernel

theorem State.escRun_changes (le : (Scope.report.plus [.dec, .mze, .enc, .esc, .dma]
    (Part.misuseFields ++ [Reg.ESC_PARITY])).Le scope) (within : Within scope old s) (kind i : Nat) (conds : List (BitVec 64)) :
    Within scope old (s.escRun kind i conds) := by
  unfold State.escRun
  split <;> with_reducible apply_rules [within, State.escEnd_changes, le.has, le.sub, le.writes]

theorem State.escStart_changes (le : (Scope.of [.esc] []).Le scope) (within : Within scope old s) (kind i r : Nat) :
    Within scope old (s.escStart kind i r) := by
  unfold State.escStart
  split <;> with_reducible apply_rules [within, State.setEsc_changes, Within.ite, le.has, le.sub, le.writes]

theorem State.escTimeout_changes (le : (Scope.report.plus [.dec, .mze, .enc, .esc, .dma] (Part.misuseFields ++ [Reg.ESC_PARITY,
    Reg.ESC_TIMEOUTS])).Le scope) (within : Within scope old s) (kind i : Nat) (conds : List (BitVec 64)) :
    Within scope old (s.escTimeout kind i conds) := by
  unfold State.escTimeout
  split
  · exact within
  · split
    · have set := fun y => State.setEsc_changes (le.sub (by decide +kernel)) within kind i y
      exact .ite (State.escParity_changes (le.sub (by decide +kernel)) within ..) (.ite (set _) (.ite (State.setEsc_changes (le.sub
          (by decide +kernel)) (set _) ..) (.ite (State.setEsc_changes (le.sub (by decide +kernel)) (set _) ..)
        (State.escFault_changes (le.sub (by decide +kernel)) (State.count_changes (le.has (by decide +kernel)) (le.writes
            (by decide +kernel)) (State.setEsc_changes (le.sub (by decide +kernel)) (set _) ..) ..) ..))))
    · exact State.escEnd_changes (le.sub (by decide +kernel)) within ..

theorem State.escSafe_changes (le : (Scope.report.plus [.dec, .mze, .enc, .esc, .dma]
    (Part.misuseFields ++ [Reg.ESC_PARITY])).Le scope) (within : Within scope old s) (kind i : Nat) (conds : List (BitVec 64)) :
    Within scope old (s.escSafe kind i conds) := by
  unfold State.escSafe
  dsimp only
  (repeat' split) <;> with_reducible apply_rules [within, State.escParity_changes, State.setEsc_changes, State.escEnd_changes,
                                                  Within.ite, le.has, le.sub, le.writes] <;> decide +kernel

theorem State.stopExpired_changes (le : (Scope.report.plus [.dec, .mze, .enc, .esc, .dma]
    (Part.misuseFields ++ [Reg.ESC_TIMEOUTS])).Le scope) (within : Within scope old s) (kind i : Nat) :
    Within scope old (s.stopExpired kind i) := by
  unfold State.stopExpired
  dsimp only
  split
  · exact within
  · exact .ite within (State.escFault_changes (le.sub (by decide +kernel)) (State.count_changes (le.has (by decide +kernel))
      (le.writes (by decide +kernel)) (State.escHalt_changes (le.sub (by decide +kernel)) within ..) ..) ..)

theorem State.escLoadCtl_changes (le : (Scope.latch.plus [.esc] [Reg.ESC_LOAD_CTL_BUSY, Reg.ESC_LOAD_CTL_KIND]).Le scope) (within :
    Within scope old s) (v : Nat) :
    Within scope old (s.escLoadCtl v) := by
  unfold State.escLoadCtl
  dsimp only
  (repeat' split) <;> with_reducible apply_rules [within, State.latch_changes, Within.esc, Within.setFld, Within.ite, le.has,
                                                  le.sub, le.writes] <;> decide +kernel

theorem State.escLoaded_changes (le : (Scope.latch.plus [.hst, .mem, .esc] (Part.eccFields ++ [Reg.ESC_LOAD_CTL_BUSY,
    Reg.ESC_LOAD_CTL_RESULT])).Le scope) (within : Within scope old s) :
    Within scope old s.escLoaded := by
  unfold State.escLoaded
  split
  · exact within
  · extract_lets a
    have read := State.engineRead_changes (le.sub (by decide +kernel)) within a 98464 14
    generalize s.engineRead a 98464 14 = x at read
    obtain ⟨got, s1⟩ := x
    have latched := State.latch_changes (le.sub (by decide +kernel)) (Within.esc (le.has
        (by decide +kernel)) read { s1.esc with loading := none }) .escLoad 0
    refine State.check_changes (le.sub (by decide +kernel)) (State.intEdge_changes (le.sub (by decide +kernel)) (Within.setFld
        (f := Reg.ESC_LOAD_CTL_BUSY) (le.has (by decide +kernel)) (le.writes (by decide +kernel)) (Within.setFld
        (f := Reg.ESC_LOAD_CTL_RESULT) (le.has (by decide +kernel)) (le.writes (by decide +kernel)) ?_ ..) ..) _) ..
    cases got with
    | some im => exact .ite (State.escInstall_changes (le.sub (by decide +kernel)) (Within.esc (le.has
        (by decide +kernel)) read _) ..) latched
    | none => exact latched

end

end Sys2Proof.Machine
end

section
/-! PROOFS. Frames of the operations of interrupt delivery, regulators, complications, frame marks and winding
(15_escapements_and_regulators.md, 17_interrupts.md, 20_winding_clocks_power.md). -/

namespace Sys2Proof.Machine

section
-- The lemmas are many and small: one after another they need one thread only.
set_option Elab.async false

variable {scope : Scope} {old s : State}

theorem State.lineSample_changes (le : (Scope.of [.regs, .msix, .int] [Reg.INT_HOST_MSGS, Reg.INT_RR_PTR]).Le scope) (within :
    Within scope old s) (id : Nat) (level : Bool) :
    Within scope old (s.lineSample id level) := by
  unfold State.lineSample
  with_reducible apply_rules [within, State.setSrc_changes, State.intEdge_changes, Within.ite, le.has, le.sub,
                              le.writes] <;> decide +kernel

theorem State.privSample_changes (le : (Scope.of [.int] []).Le scope) (within : Within scope old s) (g id : Nat) (level : Bool) :
    Within scope old (s.privSample g id level) := by
  unfold State.privSample
  with_reducible apply_rules [within, State.setTgt_changes, State.privEdge_changes, Within.ite, le.has, le.sub, le.writes]

theorem State.timerMatch_changes (le : (Scope.of [.int] []).Le scope) (within : Within scope old s) (g : Nat) :
    Within scope old (s.timerMatch g) := by
  unfold State.timerMatch
  with_reducible apply_rules [within, State.privEdge_changes, Within.ite, le.has, le.sub, le.writes]

theorem State.swset_changes (le : Scope.latch.Le scope) (within : Within scope old s) (v : Nat) :
    Within scope old (s.swset v) := by
  unfold State.swset
  with_reducible apply_rules [within, State.intEdge_changes, State.latch_changes, Within.ite, le.has, le.sub, le.writes]
  decide +kernel

theorem State.lSwset_changes (le : (Scope.of [.int] []).Le scope) (within : Within scope old s) (g v : Nat) :
    Within scope old (s.lSwset g v) :=
  .ite within (within.foldl (fun _ _ h => State.privEdge_changes (le.sub (by decide +kernel)) h ..) _)

theorem State.pendClear_changes (le : (Scope.of [.int] []).Le scope) (within : Within scope old s) (page w v : Nat) :
    Within scope old (s.pendClear page w v) :=
  .ite within (within.foldl (fun _ _ h => .ite (State.setSrc_changes (le.sub (by decide +kernel)) h ..) h) _)

theorem State.vector_changes (le : (Scope.of [.freeCtr] []).Le scope) (within : Within scope old s) (g id : Nat) :
    Within scope old (s.vector g id).2 := by
  unfold State.vector
  dsimp only
  split <;> with_reducible apply_rules [within, State.freeWord_changes, Within.ite, le.has, le.sub, le.writes]

theorem State.takeSource_changes (le : (Scope.of [.int] []).Le scope) (within : Within scope old s) (g id : Nat) :
    Within scope old (s.takeSource g id) := by
  unfold State.takeSource
  with_reducible apply_rules [within, State.setTgt_changes, State.setSrc_changes, Within.ite, le.has, le.sub, le.writes]

theorem State.takePoint_changes (le : (Scope.of [.freeCtr, .int] []).Le scope) (within : Within scope old s) (g : Nat)
    (chained : Bool) :
    Within scope old (s.takePoint g chained) := by
  unfold State.takePoint
  with_reducible apply_rules [within, State.takeSource_changes, State.vector_changes, State.setTgt_changes, Within.ite, le.has,
                              le.sub, le.writes] <;> decide +kernel

theorem State.entry_changes (le : (Scope.of [.freeCtr, .int] []).Le scope) (within : Within scope old s) (g pc : Nat) :
    Within scope old (s.entry g pc) := by
  unfold State.entry
  dsimp only
  (repeat' split) <;> with_reducible apply_rules [within, State.takePoint_changes, State.setTgt_changes, Within.ite, le.has, le.sub,
                                                  le.writes] <;> decide +kernel

theorem State.endSource_changes (le : (Scope.of [.regs, .msix, .int] [Reg.INT_HOST_MSGS]).Le scope) (within : Within scope old s)
    (g id : Nat) :
    Within scope old (s.endSource g id) := by
  unfold State.endSource
  with_reducible apply_rules [within, State.setTgt_changes, State.hostMsg_changes, State.setSrc_changes, Within.ite, le.has, le.sub,
                              le.writes] <;> decide +kernel

theorem State.mret_changes (le : (Scope.of [.regs, .msix, .int] [Reg.INT_HOST_MSGS]).Le scope) (within : Within scope old s)
    (g : Nat) :
    Within scope old (s.mret g) := by
  unfold State.mret
  dsimp only
  split <;> with_reducible apply_rules [within, State.endSource_changes, State.setTgt_changes, Within.ite, le.has, le.sub,
                                        le.writes] <;> decide +kernel

theorem State.intGlobal_changes (le : (Scope.of [.regs, .msix] [Reg.INT_GLOBAL_HOLD, Reg.INT_GLOBAL_HOST_EN,
    Reg.INT_HOST_MSGS]).Le scope) (within : Within scope old s) (v : Nat) :
    Within scope old (s.intGlobal v) := by
  have stored := Within.setFld (f := Reg.INT_GLOBAL_HOST_EN) (le.has (by decide +kernel)) (le.writes (by decide +kernel))
    (Within.setFld (f := Reg.INT_GLOBAL_HOLD) (le.has (by decide +kernel)) (le.writes (by decide +kernel)) within 0 (bits v 0 0)) 0
        (bits v 1 1)
  exact .ite (stored.foldl (fun _ _ h => State.hostMsg_changes (le.sub (by decide +kernel)) h ..) _) stored

theorem State.claim_changes (le : (Scope.of [.hst, .int] []).Le scope) (within : Within scope old s) (id : Nat) :
    Within scope old (s.claim id) := by
  unfold State.claim
  dsimp only
  split <;> with_reducible apply_rules [within, State.setSrc_changes, Within.hst, Within.ite, le.has, le.sub,
                                        le.writes] <;> decide +kernel

theorem State.claimDone_changes (le : (Scope.of [.regs, .msix, .int] [Reg.INT_HOST_MSGS]).Le scope) (within : Within scope old s)
    (id : Nat) :
    Within scope old (s.claimDone id) := by
  unfold State.claimDone
  with_reducible apply_rules [within, State.hostMsg_changes, State.setSrc_changes, Within.ite, le.has, le.sub,
                              le.writes] <;> decide +kernel

theorem State.setRglState_changes (le : (Scope.of [.regs, .msix, .int] [Reg.INT_HOST_MSGS, Reg.INT_RR_PTR,
    Reg.RGL_STATUS_STATE]).Le scope) (within : Within scope old s) (g new : Nat) :
    Within scope old (s.setRglState g new) := by
  have set := Within.setFld (f := Reg.RGL_STATUS_STATE) (le.has (by decide +kernel)) (le.writes (by decide +kernel)) within g new
  refine .ite (State.intEdge_changes (le.sub (by decide +kernel)) (Within.foldl (set.foldl (fun _ _ h => ?_) _) (fun _ _ h =>
      ?_) _) _) (.ite (set.foldl (fun _ _ h => ?_) _) set)
  · exact State.setSrc_changes (le.sub (by decide +kernel)) h ..
  · exact State.rrAssign_changes (le.sub (by decide +kernel)) h _
  · exact State.rrAssign_changes (le.sub (by decide +kernel)) h _

theorem State.rglEvent_changes (le : Scope.report.Le scope) (within : Within scope old s) (code source : Nat) (args : List Nat) :
    Within scope old (s.rglEvent code source args) := by
  unfold State.rglEvent
  with_reducible apply_rules [within, State.event_changes, le.has, le.sub, le.writes]

theorem State.post_changes (le : (Scope.of [.int, .rgl] []).Le scope) (within : Within scope old s) (g : Nat) (m : Bytes) :
    Within scope old (s.post g m).2 := by
  unfold State.post
  dsimp only
  split <;> with_reducible apply_rules [within, State.setRegl_changes, State.messageFor_changes, State.privEdge_changes, Within.ite,
                                        le.has, le.sub, le.writes] <;> decide +kernel

theorem State.postFrom_changes (le : (Scope.report.plus [.rgl] []).Le scope) (within : Within scope old s) (g target : Nat)
    (m : Bytes) :
    Within scope old (s.postFrom g target m).2 := by
  unfold State.postFrom
  split <;> with_reducible apply_rules [within, State.rglEvent_changes, State.post_changes, Within.ite, le.has, le.sub,
                                        le.writes] <;> decide +kernel

theorem State.hostPost_changes (le : (Scope.of [.regs, .int, .rgl] [Reg.RGL_MBX_POST_FULL]).Le scope) (within : Within scope old s)
    (g : Nat) :
    Within scope old (s.hostPost g) := by
  unfold State.hostPost
  with_reducible apply_rules [within, State.post_changes, Within.setFld, Within.ite, le.has, le.sub, le.writes] <;> decide +kernel

theorem State.lPost_changes (le : (Scope.report.plus [.rgl] []).Le scope) (within : Within scope old s) (g v : Nat) :
    Within scope old (s.lPost g v) := by
  unfold State.lPost
  with_reducible apply_rules [within, State.badId_changes, State.postFrom_changes, State.setRegl_changes, Within.ite, le.has,
                              le.sub, le.writes] <;> decide +kernel

theorem State.mbxPop_changes (le : (Scope.of [.rgl] []).Le scope) (within : Within scope old s) (g : Nat) :
    Within scope old (s.mbxPop g) := by
  unfold State.mbxPop
  with_reducible apply_rules [within, State.setRegl_changes, Within.ite, le.has, le.sub, le.writes]

theorem State.rxCi_changes (le : (Scope.latch.plus [.rgq] []).Le scope) (within : Within scope old s) (g v : Nat) :
    Within scope old (s.rxCi g v) := by
  unfold State.rxCi
  with_reducible apply_rules [within, State.latch_changes, State.setRglQ_changes, Within.ite, le.has, le.sub,
                              le.writes] <;> decide +kernel

theorem State.txPi_changes (le : (Scope.latch.plus [.rgq] []).Le scope) (within : Within scope old s) (g v : Nat) :
    Within scope old (s.txPi g v) := by
  unfold State.txPi
  with_reducible apply_rules [within, State.latch_changes, State.setRglQ_changes, Within.ite, le.has, le.sub,
                              le.writes] <;> decide +kernel

theorem State.txSend_changes (le : (Scope.of [.regs, .int, .swc, .rgq, .rgl] [Reg.RGL_TX_REJECT]).Le scope) (within :
    Within scope old s) (g : Nat) :
    Within scope old (s.txSend g) := by
  unfold State.txSend
  dsimp only
  (repeat' split) <;> with_reducible apply_rules [within, State.setRglQ_changes, State.privEdge_changes, State.count_changes,
                                                  State.setSwin_changes, Within.rgl, Within.ite, le.has, le.sub,
                                                  le.writes] <;> decide +kernel

theorem State.wdogRestart_changes (le : (Scope.of [.rgl] []).Le scope) (within : Within scope old s) (g : Nat) :
    Within scope old (s.wdogRestart g) := by
  unfold State.wdogRestart
  with_reducible apply_rules [within, State.setRegl_changes, Within.ite, le.has, le.sub, le.writes]

theorem State.wdogHalf_changes (le : (Scope.of [.int, .rgl] []).Le scope) (within : Within scope old s) (g : Nat) :
    Within scope old (s.wdogHalf g) := by
  unfold State.wdogHalf
  with_reducible apply_rules [within, State.privEdge_changes, State.setRegl_changes, Within.ite, le.has, le.sub,
                              le.writes] <;> decide +kernel

theorem State.dropLoads_changes (le : (Scope.report.plus [.rgl] []).Le scope) (within : Within scope old s) (g : Nat) :
    Within scope old (s.dropLoads g) := by
  refine Within.foldl (within.rgl (le.has (by decide +kernel)) _) (fun t l h => ?_) _
  split
  · exact State.finish_changes (le.sub (by decide +kernel)) h ..
  · exact h

theorem State.wdogExpire_changes (le : (Scope.report.plus [.rgl] [Reg.RGL_STATUS_STATE]).Le scope) (within : Within scope old s)
    (g : Nat) :
    Within scope old (s.wdogExpire g) := by
  unfold State.wdogExpire
  with_reducible apply_rules [within, State.latch_changes, State.dropLoads_changes, State.setRglState_changes, Within.ite, le.has,
                              le.sub, le.writes] <;> decide +kernel

theorem State.clearHandlers_changes (le : (Scope.of [.regs, .msix, .int] [Reg.INT_HOST_MSGS]).Le scope) (within :
    Within scope old s) (g : Nat) :
    Within scope old (s.clearHandlers g) :=
  Within.foldl (State.setTgt_changes (le.sub (by decide +kernel)) within ..) (fun _ _ h => State.endSource_changes (le.sub
      (by decide +kernel)) h ..) _

theorem State.startRuntime_changes (le : (Scope.of [.regs, .msix, .int, .rgl] [Reg.INT_HOST_MSGS, Reg.INT_RR_PTR,
    Reg.RGL_STATUS_STATE]).Le scope) (within : Within scope old s) (g : Nat) :
    Within scope old (s.startRuntime g) :=
  State.setRglState_changes (le.sub (by decide +kernel)) (State.setRegl_changes (le.sub (by decide +kernel))
      (State.clearHandlers_changes (le.sub (by decide +kernel)) within _) ..) ..

theorem State.reload_changes (le : (Scope.report.plus [.rgl] [Reg.RGL_STATUS_STATE]).Le scope) (within : Within scope old s)
    (g : Nat) :
    Within scope old (s.reload g) := by
  have dropped := fun x => State.setRegl_changes (le.sub (by decide +kernel)) (State.dropLoads_changes (le.sub
      (by decide +kernel)) within g) g x
  exact .ite within (State.startRuntime_changes (le.sub (by decide +kernel)) (.ite (State.setRglState_changes (le.sub
      (by decide +kernel)) (dropped _) ..) (dropped _)) _)

theorem State.bundleRead_changes (le : (Scope.latch.plus [.hst, .mem] Part.eccFields).Le scope) (within : Within scope old s) :
    Within scope old s.bundleRead.2.2 := by
  unfold State.bundleRead
  dsimp only
  split
  next h => exact .ofPair h (State.engineRead_changes (le.sub (by decide +kernel)) within ..)
  next h =>
    have headed := Within.ofPair h (State.engineRead_changes (le.sub (by decide +kernel)) within ..)
    split
    · exact headed
    · split
      next h => exact .ofPair h (State.engineRead_changes (le.sub (by decide +kernel)) headed ..)
      next h => exact .ofPair h (State.engineRead_changes (le.sub (by decide +kernel)) headed ..)

theorem State.bundleCtl_changes (le : (Scope.latch.plus [.hst, .mem, .rgl] (Part.eccFields ++ [Reg.RGL_BUNDLE_CTL_BUSY,
    Reg.RGL_BUNDLE_CTL_SLOT])).Le scope) (within : Within scope old s) (v : Nat) :
    Within scope old (s.bundleCtl v) := by
  have set := Within.setFld (f := Reg.RGL_BUNDLE_CTL_SLOT) (le.has (by decide +kernel)) (le.writes (by decide +kernel)) within 0
      (bits v 1 1)
  exact .ite set (Within.setFld (le.has (by decide +kernel)) (le.writes (by decide +kernel)) (Within.rgl (le.has
      (by decide +kernel)) (State.bundleRead_changes (le.sub (by decide +kernel)) set) _) ..)

theorem State.bundleDone_changes (le : (Scope.latch.plus [.rgl] [Reg.RGL_BUNDLE_CTL_BUSY, Reg.RGL_BUNDLE_CTL_RESULT]).Le scope)
    (within : Within scope old s) (readBackOk : Bool) :
    Within scope old (s.bundleDone readBackOk) := by
  have shown : ∀ x : Nat × State, Within scope old x.2 →
      Within scope old (((x.2.setFld Reg.RGL_BUNDLE_CTL_RESULT 0 x.1).setFld Reg.RGL_BUNDLE_CTL_BUSY 0 0).intEdge 156) := fun x h =>
    State.intEdge_changes (le.sub (by decide +kernel)) (Within.setFld (le.has (by decide +kernel)) (le.writes (by decide +kernel))
        (Within.setFld (le.has (by decide +kernel)) (le.writes (by decide +kernel)) h ..) ..) _
  unfold State.bundleDone
  split
  · exact within
  next w _ =>
    have taken := within.rgl (le.has (by decide +kernel)) { s.rgl with bundle := none }
    refine shown (if w.result ≠ 0 then _ else _) ?_
    split
    · exact taken
    · split
      · exact State.wearOut_changes (le.sub (by decide +kernel)) taken _
      next t h =>
        have stored := State.kstWrite_changes (le.sub (by decide +kernel)) taken h
        split
        · exact stored
        · cases e : t.kstWrite (bundleSlot w.slot) (List.replicate 64 0) with
          | some u => exact State.kstWrite_changes (le.sub (by decide +kernel)) stored e
          | none => exact stored

theorem State.cplUnload_changes (le : (Scope.report.plus [.rgl] []).Le scope) (within : Within scope old s) (j kind : Nat) :
    Within scope old (s.cplUnload j kind) := by
  unfold State.cplUnload
  split <;> with_reducible apply_rules [within, State.finish_changes, State.start_changes, Within.rgl, Within.ite, le.has, le.sub,
                                        le.writes] <;> decide +kernel

theorem State.cplLoad_changes (le : (Scope.report.plus [.rgl] Part.eccFields).Le scope) (within : Within scope old s) (j : Nat)
    (given : Bytes) (read : ReadEnd) (init : Option Bool) :
    Within scope old (s.cplLoad j given read init) := by
  have ended : ∀ {t : State}, Within scope old t → ∀ r a b, Within scope old (t.finish j r a b) := fun h r a b =>
      State.finish_changes (le.sub (by decide +kernel)) h ..
  unfold State.cplLoad
  dsimp only
  refine .ite (State.cplUnload_changes (le.sub (by decide +kernel)) within ..) (.ite (ended within ..) ?_)
  split
  next h => exact State.readFailed_changes (le.sub (by decide +kernel)) (.ofPair h (State.fetchImage_changes (le.sub
      (by decide +kernel)) within ..)) ..
  next h =>
    have fetched := Within.ofPair h (State.fetchImage_changes (le.sub (by decide +kernel)) within ..)
    refine .ite (ended fetched ..) ?_
    split
    · exact ended fetched ..
    · exact .ite (ended fetched ..) (State.start_changes (le.sub (by decide +kernel)) (fetched.rgl (le.has
        (by decide +kernel)) _) ..)

theorem State.initTimeout_changes (le : (Scope.report.plus [.rgl] []).Le scope) (within : Within scope old s) (j : Nat) :
    Within scope old (s.initTimeout j) := by
  unfold State.initTimeout
  dsimp only
  (repeat' split) <;> with_reducible apply_rules [within, State.finish_changes, Within.rgl, Within.ite, le.has, le.sub,
                                                  le.writes] <;> decide +kernel

theorem State.cplEvent_changes (le : Scope.report.Le scope) (within : Within scope old s) (g state : Nat) (c : Cpl) :
    Within scope old (s.cplEvent g state c) := by
  unfold State.cplEvent
  with_reducible apply_rules [within, State.rglEvent_changes, le.has, le.sub, le.writes]

theorem State.cplRemove_changes (le : (Scope.report.plus [.rgl] []).Le scope) (within : Within scope old s) (kind : Nat) :
    Within scope old (s.cplRemove kind).2 := by
  unfold State.cplRemove
  split <;> with_reducible apply_rules [within, State.cplEvent_changes, State.setRegl_changes, le.has, le.sub,
                                        le.writes] <;> decide +kernel

theorem State.cplInstall_changes (le : (Scope.report.plus [.rgl] []).Le scope) (within : Within scope old s) (l : CplLoad) :
    Within scope old (s.cplInstall l) := by
  unfold State.cplInstall
  dsimp only
  split <;> with_reducible apply_rules [within, State.cplRemove_changes, State.cplEvent_changes, State.setRegl_changes,
                                        State.finish_changes, le.has, le.sub, le.writes] <;> decide +kernel

theorem State.cplUnloadNow_changes (le : (Scope.report.plus [.rgl] []).Le scope) (within : Within scope old s) (u : Nat × Nat) :
    Within scope old (s.cplUnloadNow u) := by
  unfold State.cplUnloadNow
  with_reducible apply_rules [within, State.cplRemove_changes, State.finish_changes, le.has, le.sub, le.writes]
  decide +kernel

theorem State.cplFrames_changes (le : (Scope.of [.rgl] []).Le scope) (within : Within scope old s) :
    Within scope old (s.cplFrames) := by
  unfold State.cplFrames
  refine within.foldl (fun t a within => ?_) _
  with_reducible apply_rules [within, State.setRegl_changes, Within.foldl, Within.ite, le.has, le.sub, le.writes]

theorem State.cplMark_changes (le : (Scope.report.plus [.rgl] []).Le scope) (within : Within scope old s) :
    Within scope old (s.cplMark) := by
  have done : ∀ (x : RglSt) (cs : List CplLoad), Within scope old (cs.foldl State.cplInstall { s with rgl := x }) := fun x _ =>
    (within.rgl (le.has (by decide +kernel)) x).foldl (fun _ l h => State.cplInstall_changes (le.sub (by decide +kernel)) h l) _
  exact State.cplFrames_changes (le.sub (by decide +kernel)) ((done ..).foldl (fun _ u h => State.cplUnloadNow_changes (le.sub
      (by decide +kernel)) h u) _)

theorem State.setCpl_changes (le : (Scope.of [.rgl] []).Le scope) (within : Within scope old s) (g k : Nat) (c : Cpl) :
    Within scope old (s.setCpl g k c) := by
  unfold State.setCpl
  with_reducible apply_rules [within, State.setRegl_changes, le.has, le.sub, le.writes]

theorem State.cplRet_changes (le : (Scope.of [.rgl] []).Le scope) (within : Within scope old s) (g k a0 a1 : Nat) :
    Within scope old (s.cplRet g k a0 a1) := by
  unfold State.cplRet
  with_reducible apply_rules [within, State.setCpl_changes, le.has, le.sub, le.writes]

theorem State.level2_changes (le : (Scope.of [.rgl] []).Le scope) (within : Within scope old s) (g k : Nat) (f : State → State)
    (hf : ∀ x, Within scope old x → Within scope old (f x)) :
    Within scope old (s.level2 g k f) := by
  unfold State.level2
  with_reducible apply_rules [within, State.cplRet_changes, Within.ite, hf, le.has, le.sub, le.writes]

theorem State.cplStop_changes (le : (Scope.report.plus [.rgl] []).Le scope) (within : Within scope old s) (g k : Nat) :
    Within scope old (s.cplStop g k) := by
  unfold State.cplStop
  with_reducible apply_rules [within, State.cplEvent_changes, State.setCpl_changes, le.has, le.sub, le.writes] <;> decide +kernel

theorem State.overrun_changes (le : (Scope.report.plus [.rgl] []).Le scope) (within : Within scope old s) (g k : Nat)
    (access : Bool) :
    Within scope old (s.overrun g k access) := by
  unfold State.overrun
  with_reducible apply_rules [within, State.cplStop_changes, State.setCpl_changes, Within.ite, le.has, le.sub, le.writes]
  decide +kernel

theorem State.doYield_changes (le : (Scope.of [.rgl] []).Le scope) (within : Within scope old s) (g k : Nat) :
    Within scope old (s.doYield g k) := by
  unfold State.doYield
  with_reducible apply_rules [within, State.setCpl_changes, Within.ite, le.has, le.sub, le.writes]

theorem State.svcSend_changes (le : (Scope.report.plus [.rgl] []).Le scope) (within : Within scope old s) (g k target : Nat)
    (msg : Bytes) :
    Within scope old (s.svcSend g k target msg) := by
  unfold State.svcSend
  with_reducible apply_rules [within, State.freeWord_changes, State.cplRet_changes, State.postFrom_changes, Within.ite, le.has,
                              le.sub, le.writes] <;> decide +kernel

theorem State.svcRecv_changes (le : (Scope.of [.rgl] []).Le scope) (within : Within scope old s) (g k : Nat) :
    Within scope old (s.svcRecv g k) := by
  unfold State.svcRecv
  dsimp only
  (repeat' split) <;> with_reducible apply_rules [within, State.cplRet_changes, State.mbxPop_changes, State.setCpl_changes,
                                                  Within.ite, le.has, le.sub, le.writes]

theorem State.svcPool_changes (le : (Scope.latch.plus [.pool, .mem, .dram, .rgl]
    (Part.misuseFields ++ [Reg.BPM_STATUS_REBUILD])).Le scope) (within : Within scope old s) (g k op b n owner : Nat) :
    Within scope old (s.svcPool g k op b n owner) := by
  unfold State.svcPool
  with_reducible apply_rules [within, State.poolCmd_changes, State.cplRet_changes, Within.ite, le.has, le.sub,
                              le.writes] <;> decide +kernel

theorem State.svcEvent_changes (le : (Scope.report.plus [.rgl] []).Le scope) (within : Within scope old s) (g k code : Nat)
    (args : List Word) :
    Within scope old (s.svcEvent g k code args) := by
  unfold State.svcEvent
  with_reducible apply_rules [within, State.cplRet_changes, State.rglEvent_changes, Within.ite, le.has, le.sub,
                              le.writes] <;> decide +kernel

theorem State.svcTime_changes (le : (Scope.of [.rgl] []).Le scope) (within : Within scope old s) (g k : Nat) :
    Within scope old (s.svcTime g k) := by
  unfold State.svcTime
  with_reducible apply_rules [within, State.cplRet_changes, Within.ite, le.has, le.sub, le.writes]

theorem State.svcTake_changes (le : (Scope.of [.rgq, .rgl] []).Le scope) (within : Within scope old s) (g k : Nat) :
    Within scope old (s.svcTake g k) := by
  unfold State.svcTake
  with_reducible apply_rules [within, State.cplRet_changes, State.setRglQ_changes, State.setCpl_changes, Within.ite, le.has, le.sub,
                              le.writes] <;> decide +kernel

theorem State.svcTx_changes (le : (Scope.of [.rgq, .rgl] []).Le scope) (within : Within scope old s) (g k : Nat) (entry : Bytes) :
    Within scope old (s.svcTx g k entry) := by
  unfold State.svcTx
  with_reducible apply_rules [within, State.cplRet_changes, State.setRglQ_changes, Within.ite, le.has, le.sub,
                              le.writes] <;> decide +kernel

theorem State.svcPublish_changes (le : (Scope.of [.freeCtr, .rgl] []).Le scope) (within : Within scope old s)
    (g k kind addr : Nat) :
    Within scope old (s.svcPublish g k kind addr) :=
  State.level2_changes (le.sub (by decide +kernel)) within _ _ _ fun _ h => State.cplRet_changes (le.sub (by decide +kernel))
      (Within.rgl (le.has (by decide +kernel)) (State.freeWord_changes (le.sub (by decide +kernel)) h) _) ..

theorem State.svcLookup_changes (le : (Scope.of [.rgl] []).Le scope) (within : Within scope old s) (g k kind : Nat) :
    Within scope old (s.svcLookup g k kind) :=
  State.level2_changes (le.sub (by decide +kernel)) within _ _ _ fun _ h => State.cplRet_changes (le.sub (by decide +kernel)) h ..

theorem State.svcTimer_changes (le : (Scope.of [.rgl] []).Le scope) (within : Within scope old s) (g k us : Nat) :
    Within scope old (s.svcTimer g k us) :=
  State.level2_changes (le.sub (by decide +kernel)) within _ _ _ fun _ h => State.cplRet_changes (le.sub (by decide +kernel))
      (State.setCpl_changes (le.sub (by decide +kernel)) h ..) ..

theorem State.timerDone_changes (le : (Scope.of [.rgl] []).Le scope) (within : Within scope old s) (g k : Nat) :
    Within scope old (s.timerDone g k) := by
  unfold State.timerDone
  dsimp only
  split <;> with_reducible apply_rules [within, State.setCpl_changes, Within.ite, le.has, le.sub, le.writes]

theorem State.audit_changes (le : Scope.latch.Le scope) (within : Within scope old s) (src : Src) (inst : Nat) (ok : Bool) :
    Within scope old (s.audit src inst ok) := by
  unfold State.audit
  with_reducible apply_rules [within, State.check_changes, State.latch_changes, Within.ite, le.has, le.sub, le.writes]

theorem State.auditRings_changes (le : Scope.latch.Le scope) (within : Within scope old s) :
    Within scope old (s.auditRings) :=
  within.foldl (fun _ _ h => .ite (State.audit_changes (le.sub (by decide +kernel)) h ..) h) _

theorem State.auditCore_changes (le : Scope.latch.Le scope) (within : Within scope old s) :
    Within scope old (s.auditCore) := by
  unfold State.auditCore
  with_reducible apply_rules [within, State.audit_changes, le.has, le.sub, le.writes]

theorem State.auditPorts_changes (le : Scope.latch.Le scope) (within : Within scope old s) :
    Within scope old (s.auditPorts) :=
  Within.foldl (within.foldl (fun _ _ h => .ite (State.audit_changes (le.sub (by decide +kernel)) h ..) h) _) (fun _ _ h => .ite
      (State.audit_changes (le.sub (by decide +kernel)) (State.audit_changes (le.sub (by decide +kernel)) h ..) ..) h) _

theorem State.frameAudit_changes (le : Scope.latch.Le scope) (within : Within scope old s) :
    Within scope old (s.frameAudit) :=
  State.auditPorts_changes (le.sub (by decide +kernel)) (State.auditCore_changes (le.sub (by decide +kernel))
      (State.auditRings_changes (le.sub (by decide +kernel)) within))

theorem State.placeMark_changes (le : (Scope.of [.clb] []).Le scope) (within : Within scope old s) (m : Nat) :
    Within scope old (s.placeMark m) := by
  unfold State.placeMark
  split <;> with_reducible apply_rules [within, Within.clb, Within.ite, le.has, le.sub, le.writes] <;> decide +kernel

theorem State.moveMark_changes (le : (Scope.of [.clb] []).Le scope) (within : Within scope old s) :
    Within scope old (s.moveMark) := by
  unfold State.moveMark
  dsimp only
  split <;> with_reducible apply_rules [within, Within.clb, Within.ite, le.has, le.sub, le.writes] <;> decide +kernel

theorem State.lockChange_changes (le : (Scope.report.plus [.clb] []).Le scope) (within : Within scope old s) (locked : Bool) :
    Within scope old (s.lockChange locked) := by
  unfold State.lockChange
  with_reducible apply_rules [within, State.clbEvent_changes, State.intEdge_changes, Within.clb, le.has, le.sub,
                              le.writes] <;> decide +kernel

theorem State.measure_changes (le : (Scope.of [.regs, .clb] [Reg.CLB_SYNC_MEAS]).Le scope) (within : Within scope old s)
    (from_ : Nat) :
    Within scope old (s.measure from_) := by
  unfold State.measure
  with_reducible apply_rules [within, Within.clb, Within.setFld, le.has, le.sub, le.writes] <;> decide +kernel

theorem State.wallsyncEdge_changes (le : (Scope.report.plus [.clb] [Reg.CLB_SYNC_MEAS]).Le scope) (within : Within scope old s) :
    Within scope old (s.wallsyncEdge) := by
  unfold State.wallsyncEdge
  dsimp only
  (repeat' split) <;> with_reducible apply_rules [within, State.measure_changes, State.lockChange_changes, State.moveMark_changes,
                                                  Within.clb, Within.ite, le.has, le.sub, le.writes] <;> decide +kernel

theorem State.wallsyncHoldover_changes (le : (Scope.report.plus [.clb] [Reg.CLB_HOLDOVER_MARKS]).Le scope) (within :
    Within scope old s) :
    Within scope old (s.wallsyncHoldover) := by
  unfold State.wallsyncHoldover
  dsimp only
  (repeat' split) <;> with_reducible apply_rules [within, State.count_changes, State.moveMark_changes, State.lockChange_changes,
                                                  State.latch_changes, Within.clb, Within.ite, le.has, le.sub,
                                                  le.writes] <;> decide +kernel

theorem State.dropSync_changes (le : (Scope.of [.clb] []).Le scope) (within : Within scope old s) :
    Within scope old (s.dropSync) := by
  unfold State.dropSync
  split <;> with_reducible apply_rules [within, Within.clb, Within.ite, le.has, le.sub, le.writes] <;> decide +kernel

theorem State.markCalibre_changes (le : (Scope.report.plus [.clb, .cnv, .swc, .sch, .plk, .enc]
    (Part.misuseFields ++ Part.laneFields ++ [Reg.CLB_DARK_TILES, Reg.CLB_PERIOD, Reg.CLB_SWAP_FRAME, Reg.CLB_WRITE_SEQ,
    Reg.MZE_REF_FREE])).Le scope) (within : Within scope old s) :
    Within scope old (s.markCalibre) := by
  unfold State.markCalibre
  dsimp only
  split
  next x _ =>
    exact State.dropSync_changes (le.sub (by decide +kernel)) (State.encRecompute_changes (le.sub (by decide +kernel))
        (Within.foldl (State.bankSwitch_changes (le.sub (by decide +kernel)) within x) (fun _ _ h => State.applyCfg_changes (le.sub
        (by decide +kernel)) h ..) _))
  next => exact State.updateIdents_changes (le.sub (by decide +kernel)) (State.applyLive_changes (le.sub (by decide +kernel))
      (State.lastRelease_changes (le.sub (by decide +kernel)) within))

theorem State.dropBefore_changes (le : (Scope.of [.clb] []).Le scope) (within : Within scope old s) :
    Within scope old (s.dropBefore) := by
  unfold State.dropBefore
  dsimp only
  (repeat' split) <;> with_reducible apply_rules [within, Within.clb, Within.ite, le.has, le.sub, le.writes] <;> decide +kernel

theorem State.pushMap_changes (le : (Scope.of [.plk] []).Le scope) (within : Within scope old s) :
    Within scope old (s.pushMap) := by
  unfold State.pushMap
  with_reducible apply_rules [within, Within.plk, le.has, le.sub, le.writes]
  decide +kernel

theorem State.markOn_changes (le : (Scope.of [.sch, .plk] []).Le scope) (within : Within scope old s) (p : Nat) :
    Within scope old (s.markOn p) := by
  unfold State.markOn
  with_reducible apply_rules [within, State.setSport_changes, State.setPort_changes, Within.ite, le.has, le.sub,
                              le.writes] <;> decide +kernel

theorem State.markInsert_changes (le : (Scope.of [.sch, .plk] []).Le scope) (within : Within scope old s) :
    Within scope old (s.markInsert) := by
  unfold State.markInsert
  refine within.foldl (fun t a within => ?_) _
  with_reducible apply_rules [within, State.markOn_changes, Within.foldl, le.has, le.sub, le.writes]

theorem State.markStreams_changes (le : (Scope.of [.dec] []).Le scope) (within : Within scope old s) :
    Within scope old (s.markStreams) := by
  unfold State.markStreams
  with_reducible apply_rules [within, State.releaseWindowless_changes, State.settleAll_changes, State.mapStreams_changes, le.has,
                              le.sub, le.writes]

theorem State.markWall_changes (le : (Scope.of [.flt, .cnv] []).Le scope) (within : Within scope old s) :
    Within scope old (s.markWall) :=
  within.parts [.cnv, .flt] (le.sub (by decide +kernel)) rfl rfl
    fun q hq => by
      cases q
      case cnv | flt => exact absurd (by decide) hq
      all_goals exact beq_self_eq_true _

theorem State.frameMark_changes (le : (Scope.report.plus [.dec, .clb, .cnv, .swc, .sch, .plk, .enc, .rgl]
    (Part.misuseFields ++ Part.laneFields ++ [Reg.CLB_DARK_TILES, Reg.CLB_PERIOD, Reg.CLB_SWAP_FRAME, Reg.CLB_WRITE_SEQ,
    Reg.MZE_REF_FREE, Reg.SYS_FRAME_COUNT])).Le scope) (within : Within scope old s) :
    Within scope old (s.frameMark) := by
  refine .ite within (State.cplMark_changes (le.sub (by decide +kernel)) (State.goodFrame_changes (le.sub (by decide +kernel))
      (State.frameAudit_changes (le.sub (by decide +kernel)) ?_)))
  refine State.markStreams_changes (le.sub (by decide +kernel)) (State.markInsert_changes (le.sub (by decide +kernel))
      (State.pushMap_changes (le.sub (by decide +kernel)) (State.dropBefore_changes (le.sub (by decide +kernel))
      (State.placeMark_changes (le.sub (by decide +kernel)) (State.markCalibre_changes (le.sub (by decide +kernel))
      (State.intEdge_changes (le.sub (by decide +kernel)) ?_ _)) _))))
  exact State.count_changes (le.has (by decide +kernel)) (le.writes (by decide +kernel)) (State.markWall_changes (le.sub
      (by decide +kernel)) (within.clb (le.has (by decide +kernel)) _)) ..

theorem State.stageEnd_changes (le : (Scope.of [.regs, .pwr] [Reg.PWR_STAGE_US, Reg.PWR_WIND_STAGE]).Le scope) (within :
    Within scope old s) (next : Nat) :
    Within scope old (s.stageEnd next) := by
  unfold State.stageEnd
  with_reducible apply_rules [within, Within.pwr, Within.setFld, le.has, le.sub, le.writes] <;> decide +kernel

theorem State.showRunning_changes (le : (Scope.of [.regs] [Reg.BST_STATUS_RUNNING]).Le scope) (within : Within scope old s) :
    Within scope old (s.showRunning) := by
  unfold State.showRunning
  with_reducible apply_rules [within, Within.setFld, Within.ite, le.has, le.sub, le.writes] <;> decide +kernel

theorem State.setSession_changes (le : (Scope.of [.regs, .fus] [Reg.FUS_CAP_CTL_UNLOCKED]).Le scope) (within : Within scope old s)
    (on : Bool) :
    Within scope old (s.setSession on) := by
  unfold State.setSession
  with_reducible apply_rules [within, Within.fus, Within.setFld, le.has, le.sub, le.writes] <;> decide +kernel

theorem State.endUnlock_changes (le : (Scope.of [.flt] []).Le scope) (within : Within scope old s) :
    Within scope old (s.endUnlock) := by
  unfold State.endUnlock
  with_reducible apply_rules [within, State.jtagSet_changes, Within.flt, le.has, le.sub, le.writes]
  decide +kernel

theorem State.orFld_changes {f : Fld} (hp : scope.has .regs = true) (hf : scope.writes f = true) (within : Within scope old s)
    (v : Nat) :
    Within scope old (s.orFld f v) := within.setFld hp hf ..

theorem State.showFail_changes (le : (Scope.latch.plus [] [Reg.BST_DRAM_FAIL, Reg.BST_HOST_FAIL, Reg.BST_I2C_FAIL,
    Reg.BST_LANE_FAIL_HI, Reg.BST_LANE_FAIL_LO]).Le scope) (within : Within scope old s) (f : BstFail) :
    Within scope old (s.showFail f) := by
  unfold State.showFail
  extract_lets s1 s2 s3 s4 s5
  have latched : ∀ {t : State}, Within scope old t → ∀ x, Within scope old (t.latch x) := fun h x => State.latch_changes (le.sub
      (by decide +kernel)) h ..
  have h1 : Within scope old s1 := State.orFld_changes (le.has (by decide +kernel)) (le.writes (by decide +kernel))
      (State.orFld_changes (le.has (by decide +kernel)) (le.writes (by decide +kernel)) (State.orFld_changes (le.has
      (by decide +kernel)) (le.writes (by decide +kernel))
    (State.orFld_changes (le.has (by decide +kernel)) (le.writes (by decide +kernel)) (State.orFld_changes (le.has
        (by decide +kernel)) (le.writes (by decide +kernel)) within _) _) _) _) _
  have h2 : Within scope old s2 := .ite (latched h1 _) h1
  have h3 : Within scope old s3 := .ite h2 (latched h2 _)
  have h4 : Within scope old s4 := .ite h3 (latched h3 _)
  have h5 : Within scope old s5 := .ite h4 (latched h4 _)
  exact .ite h5 (latched h5 _)

theorem State.groupResult_changes (le : (Scope.of [.regs, .pwr] [Reg.BST_DUR, Reg.BST_RESULT_COVERAGE, Reg.BST_RESULT_DONE,
    Reg.BST_RESULT_PASS, Reg.BST_RESULT_SKIPPED, Reg.BST_RESULT_TIMEOUT]).Le scope) (within : Within scope old s)
    (g pass skipped timeout coverage durUs : Nat) :
    Within scope old (s.groupResult g pass skipped timeout coverage durUs) := by
  unfold State.groupResult
  with_reducible apply_rules [within, Within.pwr, Within.setFld, le.has, le.sub, le.writes] <;> decide +kernel

theorem State.skipGroup_changes (le : (Scope.of [.regs, .pwr] [Reg.BST_DUR, Reg.BST_RESULT_COVERAGE, Reg.BST_RESULT_DONE,
    Reg.BST_RESULT_PASS, Reg.BST_RESULT_SKIPPED, Reg.BST_RESULT_TIMEOUT]).Le scope) (within : Within scope old s) :
    Within scope old (s.skipGroup) :=
  .ite (State.groupResult_changes (le.sub (by decide +kernel)) within ..) within

theorem State.afterGroup_changes (le : (Scope.of [.regs, .hst, .pwr] [Reg.BST_DUR, Reg.BST_RESULT_COVERAGE, Reg.BST_RESULT_DONE,
    Reg.BST_RESULT_PASS, Reg.BST_RESULT_SKIPPED, Reg.BST_RESULT_TIMEOUT, Reg.BST_STATUS_ALL_PASS, Reg.BST_STATUS_DONE,
    Reg.BST_STATUS_RUNNING, Reg.BST_TOTAL_US, Reg.PWR_STAGE_US, Reg.PWR_WIND_STAGE]).Le scope) (within : Within scope old s)
    (g : Nat) :
    Within scope old (s.afterGroup g) := by
  unfold State.afterGroup
  extract_lets h s1 pass s2
  have h1 : Within scope old s1 := State.skipGroup_changes (le.sub (by decide +kernel)) (.ite (within.hst (le.has
      (by decide +kernel)) _ rfl rfl) within)
  have h2 : Within scope old s2 := Within.setFld (le.has (by decide +kernel)) (le.writes (by decide +kernel)) (Within.setFld
      (le.has (by decide +kernel)) (le.writes (by decide +kernel)) (Within.setFld (le.has (by decide +kernel)) (le.writes
      (by decide +kernel)) h1 ..) ..) ..
  exact .ite (State.stageEnd_changes (le.sub (by decide +kernel)) (Within.setFld (le.has (by decide +kernel)) (le.writes
      (by decide +kernel)) h2 ..) _) (State.showRunning_changes (le.sub (by decide +kernel)) h1)

theorem State.selfTest_changes (le : (Scope.latch.plus [.hst, .pwr] [Reg.BST_DRAM_FAIL, Reg.BST_DUR, Reg.BST_HOST_FAIL,
    Reg.BST_I2C_FAIL, Reg.BST_LANE_FAIL_HI, Reg.BST_LANE_FAIL_LO, Reg.BST_RESULT_COVERAGE, Reg.BST_RESULT_DONE, Reg.BST_RESULT_PASS,
    Reg.BST_RESULT_SKIPPED, Reg.BST_RESULT_TIMEOUT, Reg.BST_STATUS_ALL_PASS, Reg.BST_STATUS_DONE, Reg.BST_STATUS_RUNNING,
    Reg.BST_TOTAL_US, Reg.PWR_STAGE_US, Reg.PWR_WIND_STAGE]).Le scope) (within : Within scope old s) (g coverage durUs : Nat)
    (fail : BstFail) :
    Within scope old (s.selfTest g coverage durUs fail) :=
  .ite within (State.afterGroup_changes (le.sub (by decide +kernel)) (State.showFail_changes (le.sub (by decide +kernel))
      (State.groupResult_changes (le.sub (by decide +kernel)) within ..) _) _)

theorem State.groupTimeout_changes (le : (Scope.latch.plus [.hst, .pwr] [Reg.BST_DUR, Reg.BST_RESULT_COVERAGE, Reg.BST_RESULT_DONE,
    Reg.BST_RESULT_PASS, Reg.BST_RESULT_SKIPPED, Reg.BST_RESULT_TIMEOUT, Reg.BST_STATUS_ALL_PASS, Reg.BST_STATUS_DONE,
    Reg.BST_STATUS_RUNNING, Reg.BST_TOTAL_US, Reg.PWR_STAGE_US, Reg.PWR_WIND_STAGE]).Le scope) (within : Within scope old s)
    (g coverage : Nat) :
    Within scope old (s.groupTimeout g coverage) :=
  .ite within (State.afterGroup_changes (le.sub (by decide +kernel)) (State.latch_changes (le.sub (by decide +kernel))
      (State.groupResult_changes (le.sub (by decide +kernel)) within ..) ..) _)

theorem State.windW2_changes (le : (Scope.of [.regs, .hst, .pwr] [Reg.PWR_STAGE_US, Reg.PWR_WIND_STAGE]).Le scope) (within :
    Within scope old s) :
    Within scope old (s.windW2) := by
  unfold State.windW2
  split <;> with_reducible apply_rules [within, State.stageEnd_changes, Within.hst, Within.ite, le.has, le.sub,
                                        le.writes] <;> decide +kernel

theorem State.recover_changes (le : (Scope.latch.plus [.pwr, .rgl] [Reg.RGL_BOOT_RECOVERY, Reg.RGL_BOOT_SLOT]).Le scope) (within :
    Within scope old s) :
    Within scope old (s.recover) := by
  have marked := Within.setFld (f := Reg.RGL_BOOT_RECOVERY) (le.has (by decide +kernel)) (le.writes (by decide +kernel))
      (Within.setFld (f := Reg.RGL_BOOT_SLOT) (le.has (by decide +kernel)) (le.writes (by decide +kernel)) within 0 2) 0 1
  refine State.latch_changes (le.sub (by decide +kernel)) ?_ ..
  exact marked.parts [.pwr, .rgl] (le.sub (by decide +kernel)) rfl rfl
    fun q hq => by
      cases q
      case pwr | rgl => exact absurd (by decide) hq
      all_goals exact beq_self_eq_true _

theorem State.useSlot_changes (le : (Scope.latch.plus [.pwr, .rgl] [Reg.RGL_BOOT_FUSE_SECVER, Reg.RGL_BOOT_RECOVERY,
    Reg.RGL_BOOT_SLOT]).Le scope) (within : Within scope old s) (n : Nat) (im : Bytes) :
    Within scope old (s.useSlot n im) := by
  unfold State.useSlot
  extract_lets s1 s2 ev p r s3
  have h1 : Within scope old s1 := .ite (Within.setFld (le.has (by decide +kernel)) (le.writes
      (by decide +kernel)) within ..) within
  have h2 : Within scope old s2 := Within.setFld (le.has (by decide +kernel)) (le.writes (by decide +kernel)) (Within.setFld
      (le.has (by decide +kernel)) (le.writes (by decide +kernel)) h1 ..) ..
  have h3 : Within scope old s3 := h2.parts [.pwr, .rgl] (le.sub (by decide +kernel)) rfl rfl
    fun q hq => by
      cases q
      case pwr | rgl => exact absurd (by decide) hq
      all_goals exact beq_self_eq_true _
  exact .ite (State.latch_changes (le.sub (by decide +kernel)) h3 ..) h3

theorem State.windW3_changes (le : (Scope.latch.plus [.pwr, .rgl] [Reg.PWR_STAGE_US, Reg.PWR_WIND_STAGE, Reg.RGL_BOOT_FUSE_SECVER,
    Reg.RGL_BOOT_RECOVERY, Reg.RGL_BOOT_SLOT]).Le scope) (within : Within scope old s) :
    Within scope old (s.windW3) := by
  refine .ite within ?_
  split
  · exact State.stageEnd_changes (le.sub (by decide +kernel)) (State.useSlot_changes (le.sub (by decide +kernel)) within ..) _
  · exact State.stageEnd_changes (le.sub (by decide +kernel)) (State.recover_changes (le.sub (by decide +kernel)) within) _

theorem State.loadBundle_changes (le : (Scope.of [.regs, .msix, .int, .esc, .rgl] [Reg.INT_HOST_MSGS, Reg.INT_RR_PTR,
    Reg.RGL_STATUS_STATE]).Le scope) (within : Within scope old s) :
    Within scope old (s.loadBundle) := by
  refine Within.foldl (Within.rgl (le.has (by decide +kernel)) (within.foldl (fun _ _ h => ?_) _) _) (fun _ _ h =>
      State.startRuntime_changes (le.sub (by decide +kernel)) h _) _
  exact State.escAdoptAll_changes (le.sub (by decide +kernel)) (State.escInstall_changes (le.sub (by decide +kernel)) h ..) _

theorem State.loadRecovery_changes (le : (Scope.latch.plus [.esc] []).Le scope) (within : Within scope old s) :
    Within scope old (s.loadRecovery) := by
  unfold State.loadRecovery
  with_reducible apply_rules [within, State.latch_changes, State.escAdoptAll_changes, State.escInstall_changes, le.has, le.sub,
                              le.writes] <;> decide +kernel

theorem State.windW4_changes (le : (Scope.latch.plus [.pwr, .esc, .rgl] [Reg.PWR_STAGE_US, Reg.PWR_WIND_STAGE,
    Reg.RGL_STATUS_STATE]).Le scope) (within : Within scope old s) :
    Within scope old (s.windW4) := by
  unfold State.windW4
  with_reducible apply_rules [within, State.stageEnd_changes, State.loadRecovery_changes, State.loadBundle_changes, Within.ite,
                              le.has, le.sub, le.writes] <;> decide +kernel

theorem State.fillTiming_changes (le : (Scope.of [.regs, .mem] [Reg.MEM_TIM_VALUE]).Le scope) (within : Within scope old s)
    (timing : List Nat) :
    Within scope old (s.fillTiming timing) := by
  unfold State.fillTiming
  extract_lets s1 m
  have h1 : Within scope old s1 := within.foldl (fun _ _ h => Within.setFld (le.has (by decide +kernel)) (le.writes
      (by decide +kernel)) h ..) _
  exact h1.mem (le.has (by decide +kernel)) _ rfl

theorem State.restoreCalibre_changes (le : (Scope.of [.regs, .clb] [Reg.CLB_WRITE_SEQ]).Le scope) (within : Within scope old s) :
    Within scope old (s.restoreCalibre) := by
  unfold State.restoreCalibre
  dsimp only
  split <;> with_reducible apply_rules [within, Within.clb, Within.setFld, Within.ite, le.has, le.sub, le.writes] <;> decide +kernel

theorem State.startComplications_changes (le : (Scope.report.plus [.rgl] []).Le scope) (within : Within scope old s) :
    Within scope old (s.startComplications) := by
  unfold State.startComplications
  refine within.foldl (fun t a within => ?_) _
  dsimp only
  (repeat' split) <;> with_reducible apply_rules [within, State.cplInstall_changes, Within.rgl, Within.foldl, Within.ite, le.has,
                                                  le.sub, le.writes] <;> decide +kernel

theorem State.windW6_changes (le : (Scope.report.plus [.pwr, .clb, .fus, .rgl] [Reg.CLB_WRITE_SEQ, Reg.FUS_CAP_CTL_LOADED,
    Reg.FUS_CAP_SEQ, Reg.PWR_STAGE_US, Reg.PWR_WIND_STAGE]).Le scope) (within : Within scope old s) :
    Within scope old (s.windW6) := by
  unfold State.windW6
  with_reducible apply_rules [within, State.loadCaps_changes, State.stageEnd_changes, State.startComplications_changes,
                              State.restoreCalibre_changes, Within.ite, le.has, le.sub, le.writes] <;> decide +kernel

theorem State.windW7_changes (le : (Scope.of [.regs, .flt, .clb] [Reg.BPM_STATUS_DPOOL_READY, Reg.BPM_STATUS_ODIE_READY,
    Reg.PWR_WIND_STAGE, Reg.PWR_WIND_TOTAL_US]).Le scope) (within : Within scope old s) :
    Within scope old (s.windW7) := by
  have shown := Within.setFld (f := Reg.BPM_STATUS_DPOOL_READY) (le.has (by decide +kernel)) (le.writes (by decide +kernel))
      (Within.setFld (f := Reg.BPM_STATUS_ODIE_READY) (le.has (by decide +kernel)) (le.writes (by decide +kernel))
    (Within.setFld (f := Reg.PWR_WIND_STAGE) (le.has (by decide +kernel)) (le.writes (by decide +kernel)) (Within.setFld
        (f := Reg.PWR_WIND_TOTAL_US) (le.has (by decide +kernel)) (le.writes (by decide +kernel)) within
      0 ((s.now - s.pwr.windStart) / Clk.us)) 0 15) 0 1) 0 1
  refine .ite within (State.placeMark_changes (le.sub (by decide +kernel)) ?_ _)
  exact shown.parts [.flt, .clb] (le.sub (by decide +kernel)) rfl rfl
    fun q hq => by
      cases q
      case flt | clb => exact absurd (by decide) hq
      all_goals exact beq_self_eq_true _

theorem State.windW5_changes (le : (Scope.latch.plus [.mem, .dram, .pwr] [Reg.MEM_STATUS_FREQ, Reg.MEM_STATUS_GROUPS,
    Reg.MEM_STATUS_READY,
    Reg.MEM_STATUS_ZEROED, Reg.MEM_TIM_VALUE, Reg.MEM_USABLE, Reg.PWR_STAGE_US, Reg.PWR_WIND_STAGE]).Le scope) (within :
        Within scope old s)
    (chans : List ChanTrain) (timing : List Nat) : Within scope old (s.windW5 chans timing) := by
  unfold State.windW5
  extract_lets gs sizes gib s1 s2 s3 s4
  refine .ite within ?_
  have h1 : Within scope old s1 := State.fillTiming_changes (le.sub (by decide +kernel)) within _
  have h2 : Within scope old s2 := .ite h1 (State.latch_changes (le.sub (by decide +kernel)) h1 ..)
  have h3 : Within scope old s3 := .ite h2 (State.latch_changes (le.sub (by decide +kernel)) h2 ..)
  have h4 : Within scope old s4 := Within.setFld (le.has (by decide +kernel)) (le.writes (by decide +kernel)) (Within.setFld
      (le.has (by decide +kernel)) (le.writes (by decide +kernel)) (Within.setFld (le.has (by decide +kernel)) (le.writes
      (by decide +kernel))
    (Within.setFld (le.has (by decide +kernel)) (le.writes (by decide +kernel)) (Within.setFld (le.has (by decide +kernel))
        (le.writes (by decide +kernel)) h3 ..) ..) ..) ..) ..
  exact State.stageEnd_changes (le.sub (by decide +kernel)) (h4.memAll (le.has (by decide +kernel)) (le.has
      (by decide +kernel)) _) _

end

end Sys2Proof.Machine
end

section
/-! PROOFS. Frames of the operations of power, the host interface, resets and register writes (02_host_attachment.md,
20_winding_clocks_power.md, 21_register_pages.md). -/

namespace Sys2Proof.Machine

section
-- The lemmas are many and small: one after another they need one thread only.
set_option Elab.async false

variable {scope : Scope} {old s : State}

theorem State.setDom_changes (le : (Scope.of [.pwr] []).Le scope) (within : Within scope old s) (d : Nat) (x : Domain) :
    Within scope old (s.setDom d x) := by
  unfold State.setDom
  with_reducible apply_rules [within, Within.pwr, le.has, le.sub, le.writes]
  decide +kernel

theorem State.pwrEvent_changes (le : Scope.report.Le scope) (within : Within scope old s) (code source : Nat) (args : List Nat) :
    Within scope old (s.pwrEvent code source args) := by
  unfold State.pwrEvent
  with_reducible apply_rules [within, State.event_changes, le.has, le.sub, le.writes]

theorem State.drainStart_changes (le : (Scope.of [.pwr, .dma] []).Le scope) (within : Within scope old s) (d : Nat) :
    Within scope old (s.drainStart d) :=
  Within.foldl (State.setDom_changes (le.sub (by decide +kernel)) within ..) (fun _ _ h => .ite (State.setDch_changes (le.sub
      (by decide +kernel)) h ..) h) _

theorem State.wakeStart_changes (le : (Scope.of [.pwr] []).Le scope) (within : Within scope old s) (d : Nat) :
    Within scope old (s.wakeStart d) := by
  unfold State.wakeStart
  with_reducible apply_rules [within, State.setDom_changes, le.has, le.sub, le.writes]

theorem State.domReq_changes (le : (Scope.latch.plus [.pwr, .dma] []).Le scope) (within : Within scope old s) (d : Nat)
    (on : Bool) :
    Within scope old (s.domReq d on) := by
  unfold State.domReq
  dsimp only
  split <;> with_reducible apply_rules [within, State.drainStart_changes, State.latch_changes, State.setDom_changes,
                                        State.wakeStart_changes, Within.ite, le.has, le.sub, le.writes] <;> decide +kernel

theorem State.domCtl_changes (le : (Scope.latch.plus [.mem, .pwr, .dma] []).Le scope) (within : Within scope old s) (v : Nat) :
    Within scope old (s.domCtl v) := by
  unfold State.domCtl
  dsimp only
  (repeat' split) <;> with_reducible apply_rules [within, State.domReq_changes, Within.mem, Within.ite, le.has, le.sub,
                                                  le.writes] <;> decide +kernel

theorem State.domOff_changes (le : (Scope.report.plus [.pwr] []).Le scope) (within : Within scope old s) (d : Nat) (forced : Bool) :
    Within scope old (s.domOff d forced) := by
  unfold State.domOff
  with_reducible apply_rules [within, State.pwrEvent_changes, State.setDom_changes, State.wakeStart_changes, Within.ite, le.has,
                              le.sub, le.writes] <;> decide +kernel

theorem State.domDrained_changes (le : (Scope.report.plus [.pwr] []).Le scope) (within : Within scope old s) (d : Nat) :
    Within scope old (s.domDrained d) := by
  unfold State.domDrained
  with_reducible apply_rules [within, State.domOff_changes, Within.ite, le.has, le.sub, le.writes]

theorem State.drainTimeoutAt_changes (le : (Scope.report.plus [.pwr, .dma] []).Le scope) (within : Within scope old s) (d : Nat) :
    Within scope old (s.drainTimeoutAt d) := by
  unfold State.drainTimeoutAt
  refine .ite within (State.domOff_changes (le.sub (by decide +kernel)) (State.latch_changes (le.sub (by decide +kernel))
      (within.foldl (fun t c h => ?_) _) ..) ..)
  dsimp only
  split
  · exact .ite (State.setDch_changes (le.sub (by decide +kernel)) h ..) h
  · exact h

theorem State.wakeContents_changes (le : (Scope.report.plus [.dec, .mze, .swc, .sch, .plk, .rgq, .enc, .esc, .rgl]
    (Part.misuseFields ++ Part.laneFields ++ [Reg.RGL_STATUS_STATE])).Le scope) (within : Within scope old s) (d : Nat) :
    Within scope old (s.wakeContents d) := by
  unfold State.wakeContents
  refine .ite ?_ (.ite ?_ (.ite ?_ (.ite ?_ (.ite ?_ (.ite within ?_)))))
  · exact within.foldl (fun _ _ h => State.escAdopt_changes (le.sub (by decide +kernel)) (State.setCore_changes (le.sub
      (by decide +kernel)) h ..) ..) _
  · exact within.foldl (fun _ _ h => State.escAdopt_changes (le.sub (by decide +kernel)) (State.setMzc_changes (le.sub
      (by decide +kernel)) h ..) ..) _
  · exact State.escAdopt_changes (le.sub (by decide +kernel)) (State.setEncCore_changes (le.sub (by decide +kernel)) within ..) ..
  · exact State.setRglState_changes (le.sub (by decide +kernel)) (Within.rgq (le.has (by decide +kernel)) (State.setRegl_changes
      (le.sub (by decide +kernel)) (State.clearHandlers_changes (le.sub (by decide +kernel)) within _) ..) _) ..
  · exact State.escAdopt_changes (le.sub (by decide +kernel)) within ..
  · exact within.foldl (fun _ _ h => State.applyCfg_changes (le.sub (by decide +kernel)) h ..) _

theorem State.wakeDone_changes (le : (Scope.report.plus [.pwr, .dec, .mze, .swc, .sch, .plk, .rgq, .enc, .esc, .rgl, .dma]
    (Part.misuseFields ++ Part.laneFields ++ [Reg.RGL_STATUS_STATE])).Le scope) (within : Within scope old s) (d : Nat) :
    Within scope old (s.wakeDone d) := by
  have awake := fun x => State.pwrEvent_changes (le.sub (by decide +kernel)) (State.wakeContents_changes (le.sub
      (by decide +kernel)) (State.setDom_changes (le.sub (by decide +kernel)) within d x) d) 0x1A02 d [2, 1, b2n (s.dom d).forced]
  exact .ite within (.ite (awake _) (State.drainStart_changes (le.sub (by decide +kernel)) (awake _) _))

theorem State.memFreqDone_changes (le : (Scope.latch.plus [.mem, .pwr, .dma] [Reg.MEM_STATUS_FREQ,
    Reg.MEM_STATUS_FREQ_BUSY]).Le scope) (within : Within scope old s) :
    Within scope old (s.memFreqDone) := by
  have done := State.freqDone_changes (le.sub (by decide +kernel)) within
  refine .ite done (Within.foldl ?_ (fun _ r h => State.domReq_changes (le.sub (by decide +kernel)) h ..) _)
  exact done.mem (le.has (by decide +kernel)) _ rfl

theorem State.thermalCrit_changes (le : (Scope.latch.plus [.pwr, .esc] []).Le scope) (within : Within scope old s) :
    Within scope old (s.thermalCrit) :=
  Within.foldl (Within.pwr (le.has (by decide +kernel)) (State.latch_changes (le.sub (by decide +kernel)) within ..) _)
      (fun _ _ h => h.foldl (fun _ _ h => State.escRequest_changes (le.sub (by decide +kernel)) h ..) _) _

theorem State.thermalAct_changes (le : (Scope.report.plus [.pwr, .esc] [Reg.MEM_STATUS_FREQ_BUSY, Reg.PWR_HOT_MS,
    Reg.PWR_THROTTLE_HOT, Reg.PWR_THROTTLE_WARN]).Le scope) (within : Within scope old s) (m : Int) (k : Nat) :
    Within scope old (s.thermalAct m k) := by
  unfold State.thermalAct
  extract_lets was wasHot warn hot s1 s2 u s3 v s4 s5 s6
  have told : ∀ {t : State}, Within scope old t → ∀ a, Within scope old (t.pwrEvent 0x1A01 k a) := fun h a =>
      State.pwrEvent_changes (le.sub (by decide +kernel)) h ..
  have stepped : ∀ {t : State}, Within scope old t → ∀ {c : Prop} [Decidable c] f, Within scope old
      (if c then t.freqRequest f else t) :=
    fun h _ _ f => .ite (State.freqRequest_changes (le.sub (by decide +kernel)) h _) h
  have h1 : Within scope old s1 := Within.setFld (le.has (by decide +kernel)) (le.writes (by decide +kernel)) (Within.setFld
      (le.has (by decide +kernel)) (le.writes (by decide +kernel)) within ..) ..
  have h2 : Within scope old s2 := .ite (State.latch_changes (le.sub (by decide +kernel)) (told h1 _) ..) h1
  have h3 : Within scope old s3 := .ite (stepped (State.latch_changes (le.sub (by decide +kernel)) (told h2 _) ..) _) h2
  have h4 : Within scope old s4 := .ite (stepped (told h3 _) _) h3
  have h5 : Within scope old s5 := .ite (told h4 _) h4
  have h6 : Within scope old s6 := .ite (State.count_changes (le.has (by decide +kernel)) (le.writes (by decide +kernel)) h5 ..) h5
  exact .ite (State.thermalCrit_changes (le.sub (by decide +kernel)) h6) h6

theorem State.enterL0_changes (le : (Scope.of [.regs] [Reg.HST_LINK_STATUS_SPEED, Reg.HST_LINK_STATUS_WIDTH]).Le scope) (within :
    Within scope old s) (speed width : Nat) :
    Within scope old (s.enterL0 speed width) := by
  unfold State.enterL0
  with_reducible apply_rules [within, Within.setFld, le.has, le.sub, le.writes] <;> decide +kernel

theorem State.linkTrained_changes (le : (Scope.of [.regs, .hst] [Reg.HST_LINK_STATUS_CACHE_EN, Reg.HST_LINK_STATUS_FLIT256,
    Reg.HST_LINK_STATUS_MEM_EN, Reg.HST_LINK_STATUS_MODE, Reg.HST_LINK_STATUS_SPEED, Reg.HST_LINK_STATUS_WIDTH]).Le scope)
    (within : Within scope old s) (hostMode speed width : Nat) (flit256 cacheEn memEn : Bool) :
    Within scope old (s.linkTrained hostMode speed width flit256 cacheEn memEn) := by
  unfold State.linkTrained
  dsimp only
  (repeat' split) <;> with_reducible apply_rules [within, State.enterL0_changes, Within.hst, Within.setFld, Within.ite, le.has,
                                                  le.sub, le.writes] <;> decide +kernel

theorem State.linkLost_changes (le : (Scope.latch.plus [.hst] []).Le scope) (within : Within scope old s) :
    Within scope old (s.linkLost) := by
  unfold State.linkLost
  split <;> with_reducible apply_rules [within, State.latch_changes, Within.hst, Within.ite, le.has, le.sub,
                                        le.writes] <;> decide +kernel

theorem State.linkRetrain_changes (le : (Scope.latch.plus [.hst] [Reg.HST_LINK_STATUS_SPEED, Reg.HST_LINK_STATUS_WIDTH]).Le scope)
    (within : Within scope old s) (speed width : Nat) :
    Within scope old (s.linkRetrain speed width) := by
  unfold State.linkRetrain
  with_reducible apply_rules [within, State.linkLost_changes, State.enterL0_changes, Within.ite, le.has, le.sub,
                              le.writes] <;> decide +kernel

theorem State.hostAnswer_changes (le : (Scope.of [.hst] []).Le scope) (within : Within scope old s) (bs : Bytes) (bad : Bool) :
    Within scope old (s.hostAnswer bs bad) := by
  unfold State.hostAnswer
  with_reducible apply_rules [within, Within.hst, le.has, le.sub, le.writes]
  decide +kernel

theorem State.badAccess_changes (le : (Scope.latch.plus [.hst] []).Le scope) (within : Within scope old s) (write : Bool) :
    Within scope old (s.badAccess write) := by
  unfold State.badAccess
  with_reducible apply_rules [within, State.latch_changes, State.hostAnswer_changes, Within.ite, le.has, le.sub,
                              le.writes] <;> decide +kernel

theorem State.hostLines_changes (le : (Scope.latch.plus [.mem] Part.eccFields).Le scope) (within : Within scope old s) (ecc : Ecc)
    (ls : List Nat) :
    Within scope old (s.hostLines ecc ls).2 := by
  induction ls generalizing s ecc with
  | nil => exact within
  | cons l ls ih => exact ih (State.readLine_changes (le.sub (by decide +kernel)) within l 12 0 ecc) .clean

theorem State.hostStore_changes (le : (Scope.latch.plus [.pool, .mem, .dram] Part.eccFields).Le scope) (within :
    Within scope old s) (ecc : Ecc) (as : List Nat) (bs : Bytes) (ls : List Nat) :
    Within scope old (s.hostStore ecc as bs ls) := by
  induction ls generalizing s ecc with
  | nil => exact within
  | cons l ls ih => exact ih (State.mergeWrite_changes (le.sub (by decide +kernel)) within ..) .clean

theorem State.bar4_changes (le : (Scope.latch.plus [.hst, .pool, .mem, .dram] Part.eccFields).Le scope) (within :
    Within scope old s) (write : Bool) (x len : Nat) (data : Bytes) (ecc : Ecc) :
    Within scope old (s.bar4 write x len data ecc) := by
  unfold State.bar4
  with_reducible apply_rules [within, State.latch_changes, State.hostAnswer_changes, State.hostStore_changes,
                              State.hostLines_changes, Within.ite, le.has, le.sub, le.writes] <;> decide +kernel

theorem State.hostSize_changes (le : (Scope.latch.plus [] [Reg.HST_HDM_CARVE_HOST_SIZE]).Le scope) (within : Within scope old s)
    (v : Nat) :
    Within scope old (s.hostSize v) := by
  unfold State.hostSize
  with_reducible apply_rules [within, State.latch_changes, Within.setFld, Within.ite, le.has, le.sub, le.writes] <;> decide +kernel

theorem State.hdmCommit_changes (le : (Scope.of [.regs, .hst] [Reg.HST_LINK_STATUS_HDM_DB]).Le scope) (within : Within scope old s)
    (d first size : Nat) (biEnable : Bool) :
    Within scope old (s.hdmCommit d first size biEnable) := by
  unfold State.hdmCommit
  dsimp only
  split <;> with_reducible apply_rules [within, Within.hst, Within.setFld, Within.ite, le.has, le.sub, le.writes] <;> decide +kernel

theorem State.memAccess_changes (le : (Scope.latch.plus [.hst, .pool, .mem, .dram] Part.eccFields).Le scope) (within :
    Within scope old s) (q : HostAcc) :
    Within scope old (s.memAccess q) := by
  unfold State.memAccess
  with_reducible apply_rules [within, State.hostAnswer_changes, State.mergeWrite_changes, State.readLine_changes, Within.ite,
                              le.has, le.sub, le.writes] <;> decide +kernel

theorem State.biResponse_changes (le : (Scope.latch.plus [.hst, .pool, .mem, .dram] Part.eccFields).Le scope) (within :
    Within scope old s) (line : Nat) :
    Within scope old (s.biResponse line) := by
  unfold State.biResponse
  refine .ite within ?_
  split
  · exact within
  next w rest _ =>
    have put := State.dramPut_changes (le.sub (by decide +kernel)) (within.hst (le.has
        (by decide +kernel)) { s.hst with biWait := rest } rfl rfl) (w.line * 64 + w.offset) w.data
    refine .ite put (Within.foldl ?_ (fun _ q h => State.memAccess_changes (le.sub (by decide +kernel)) h q) _)
    refine put.hst (le.has (by decide +kernel)) _ ?_ ?_
    · rfl
    · rfl

theorem State.cxlMem_changes (le : (Scope.latch.plus [.hst, .pool, .mem, .dram] Part.eccFields).Le scope) (within :
    Within scope old s) (write : Bool) (addr : Nat) (data : Bytes) (ecc : Ecc) :
    Within scope old (s.cxlMem write addr data ecc) := by
  unfold State.cxlMem
  dsimp only
  (repeat' split) <;> with_reducible apply_rules [within, State.memAccess_changes, Within.hst, Within.ite, le.has, le.sub,
                                                  le.writes] <;> decide +kernel

theorem State.ccacheCtl_changes (le : (Scope.of [.regs, .hst] [Reg.HST_CCACHE_CTL_ENABLE,
    Reg.HST_CCACHE_STATUS_FLUSH_BUSY]).Le scope) (within : Within scope old s) (v : Nat) :
    Within scope old (s.ccacheCtl v) := by
  unfold State.ccacheCtl
  split <;> with_reducible apply_rules [within, Within.hst, Within.setFld, Within.ite, le.has, le.sub, le.writes] <;> decide +kernel

theorem State.tenantWrite_changes (le : (Scope.of [.regs] [Reg.HST_TENANT_ABI, Reg.HST_TENANT_PASID, Reg.HST_TENANT_PASID_EN,
    Reg.HST_TENANT_VALID]).Le scope) (within : Within scope old s) (n v : Nat) :
    Within scope old (s.tenantWrite n v) := by
  unfold State.tenantWrite
  split <;> with_reducible apply_rules [within, Within.setFld, Within.ite, le.has, le.sub, le.writes] <;> decide +kernel

theorem State.ownerEntry_changes (le : (Scope.latch.plus [] [Reg.HST_DBGRP_OWNER_TENANT, Reg.HST_DBGRP_OWNER_VALID]).Le scope)
    (within : Within scope old s) (g b : Nat) :
    Within scope old (s.ownerEntry g b) := by
  unfold State.ownerEntry
  with_reducible apply_rules [within, State.badId_changes, State.latch_changes, Within.setFld, Within.ite, le.has, le.sub,
                              le.writes] <;> decide +kernel

theorem State.ownerWrite_changes (le : (Scope.latch.plus [] [Reg.HST_DBGRP_OWNER_TENANT, Reg.HST_DBGRP_OWNER_VALID]).Le scope)
    (within : Within scope old s) (w v : Nat) :
    Within scope old (s.ownerWrite w v) := by
  unfold State.ownerWrite
  with_reducible apply_rules [within, State.ownerEntry_changes, State.latch_changes, Within.foldl, Within.ite, le.has, le.sub,
                              le.writes]
  decide +kernel

theorem State.sendPending_changes (le : (Scope.of [.regs, .msix] [Reg.INT_HOST_MSGS]).Le scope) (within : Within scope old s)
    (v : Nat) :
    Within scope old (s.sendPending v) := by
  unfold State.sendPending
  with_reducible apply_rules [within, State.count_changes, State.setVec_changes, Within.ite, le.has, le.sub,
                              le.writes] <;> decide +kernel

theorem State.unmask_changes (le : (Scope.of [.regs, .msix] [Reg.INT_HOST_MSGS]).Le scope) (within : Within scope old s) (v : Nat) :
    Within scope old (s.unmask v) := by
  unfold State.unmask
  with_reducible apply_rules [within, State.sendPending_changes, State.setVec_changes, Within.ite, le.has, le.sub, le.writes]
  decide +kernel

theorem State.fnMask_changes (le : (Scope.of [.regs, .hst, .msix] [Reg.INT_HOST_MSGS]).Le scope) (within : Within scope old s)
    (m : Bool) :
    Within scope old (s.fnMask m) := by
  have set := within.hst (le.has (by decide +kernel)) { s.hst with fnMasked := m } rfl rfl
  exact .ite set (set.foldl (fun _ n h => State.sendPending_changes (le.sub (by decide +kernel)) h n) _)

theorem State.ideFail_changes (le : (Scope.latch.plus [.hst] [Reg.HST_LINK_STATUS_IDE_ACTIVE]).Le scope) (within :
    Within scope old s) :
    Within scope old (s.ideFail) := by
  refine .ite within (State.latch_changes (le.sub (by decide +kernel)) ?_ ..)
  have taken : Within scope old ((s.takeInject .hstIde).getD s) := by
    cases h : s.takeInject .hstIde with
    | some t => exact State.takeInject_changes (le.sub (by decide +kernel)) within h
    | none => exact within
  exact Within.hst (le.has (by decide +kernel)) (Within.setFld (f := Reg.HST_LINK_STATUS_IDE_ACTIVE) (le.has (by decide +kernel))
      (le.writes (by decide +kernel)) taken 0 0) _ rfl rfl

theorem State.signature_changes (le : (Scope.of [.freeCtr] []).Le scope) (within : Within scope old s) :
    Within scope old (s.signature).2 := by
  unfold State.signature
  with_reducible apply_rules [within, Within.freeCtr, le.has, le.sub, le.writes]
  decide +kernel

theorem State.spdmBody_changes (le : (Scope.of [.freeCtr] []).Le scope) (within : Within scope old s) (code : Nat) (data : Bytes) :
    Within scope old (s.spdmBody code data).2 := by
  unfold State.spdmBody
  dsimp only
  (repeat' split) <;> with_reducible apply_rules [within, State.signature_changes, Within.ite, le.has, le.sub, le.writes]

theorem State.spdmAnswer_changes (le : (Scope.of [.hst] []).Le scope) (within : Within scope old s) (code : Nat) (err : Bool)
    (body : Bytes) :
    Within scope old (s.spdmAnswer code err body) := by
  unfold State.spdmAnswer
  with_reducible apply_rules [within, Within.hst, le.has, le.sub, le.writes]
  decide +kernel

theorem State.setCert_changes (le : (Scope.of [.hst] []).Le scope) (within : Within scope old s) (slot : Nat) (secured : Bool)
    (chain : Bytes) :
    Within scope old (s.setCert slot secured chain) := by
  unfold State.setCert
  dsimp only
  (repeat' split) <;> with_reducible apply_rules [within, State.spdmAnswer_changes, Within.hst, Within.ite, le.has, le.sub,
                                                  le.writes] <;> decide +kernel

theorem State.spdm_changes (le : (Scope.of [.freeCtr, .regs, .hst] [Reg.HST_LINK_STATUS_IDE_ACTIVE]).Le scope) (within :
    Within scope old s) (code : Nat) (secured : Bool) (data : Bytes) :
    Within scope old (s.spdm code secured data) := by
  unfold State.spdm
  dsimp only
  (repeat' split) <;> with_reducible apply_rules [within, State.spdmAnswer_changes, State.setCert_changes, State.spdmBody_changes,
                                                  Within.hst, Within.setFld, Within.ite, le.has, le.sub,
                                                  le.writes] <;> decide +kernel

theorem State.resetPages_changes (le : ((Scope.of [.regs] []).anyReg).Le scope) (within : Within scope old s) (blk : Nat)
    (keep : List Fld) :
    Within scope old (s.resetPages blk keep) := by
  refine within.foldl (fun t i h => .ite ?_ h) _
  exact .ite (State.clearPage_changes (le.sub (by decide +kernel)) h ..) (Within.setFld (le.has (by decide +kernel)) (le.writes
      (by decide +kernel)) (State.clearPage_changes (le.sub (by decide +kernel)) h ..) ..)

theorem State.closeStreams_changes (le : (Scope.report.plus [.dec, .enc] (Part.misuseFields ++ [Reg.DEC_LOAD_LIVE])).Le scope)
    (within : Within scope old s) :
    Within scope old (s.closeStreams) := by
  refine within.foldl (fun t e h => ?_) _
  split
  · exact h
  · exact State.streamTo_changes (le.sub (by decide +kernel)) (State.closeStream_changes (le.sub (by decide +kernel)) h _) ..
  · exact State.resetStream_changes (le.sub (by decide +kernel)) h _

theorem State.closeSessions_changes (le : (Scope.report.plus [.enc] []).Le scope) (within : Within scope old s) :
    Within scope old (s.closeSessions) := by
  unfold State.closeSessions
  refine within.foldl (fun t a within => ?_) _
  with_reducible apply_rules [within, State.encEnd_changes, State.setSes_changes, Within.foldl, Within.ite, le.has, le.sub,
                              le.writes]
  decide +kernel

theorem State.flrEngines_changes (le : (Scope.report.plus [.dec, .enc, .dma] (Part.misuseFields ++ [Reg.DEC_LOAD_LIVE])).Le scope)
    (within : Within scope old s) :
    Within scope old (s.flrEngines) :=
  Within.foldl (State.closeSessions_changes (le.sub (by decide +kernel)) (State.closeStreams_changes (le.sub
      (by decide +kernel)) within)) (fun _ _ h => .ite (State.chainEnd_changes (le.sub (by decide +kernel)) (State.setDch_changes
      (le.sub (by decide +kernel)) h ..) ..) h) _

theorem State.flrRings_changes (le : (Scope.latch.plus [.rng, .pool, .mem, .dram] Part.misuseFields).Le scope) (within :
    Within scope old s) :
    Within scope old (s.flrRings) := by
  unfold State.flrRings
  refine within.foldl (fun t a within => ?_) _
  with_reducible apply_rules [within, State.disableRing_changes, Within.foldl, Within.ite, le.has, le.sub, le.writes]

theorem State.flrQuery_changes (le : ((Scope.of [.regs] []).anyReg).Le scope) (within : Within scope old s) :
    Within scope old (s.flrQuery) :=
  within.foldl (fun _ _ h => h.foldl (fun _ _ h => .ite (h.setAny (le.sub (by decide +kernel)) ..) h) _) _

theorem State.flrFields_changes (le : ((Scope.of [.regs] []).anyReg).Le scope) (within : Within scope old s) :
    Within scope old (s.flrFields) :=
  State.resetPages_changes (le.sub (by decide +kernel)) (State.resetPages_changes (le.sub (by decide +kernel))
      (State.resetPages_changes (le.sub (by decide +kernel)) (State.resetPages_changes (le.sub
      (by decide +kernel)) within ..) ..) ..) ..

theorem State.flrRecords_changes (le : (Scope.of [.regs, .hst, .msix, .rng, .dma] [Reg.INT_GLOBAL_HOST_EN]).Le scope) (within :
    Within scope old s) :
    Within scope old (s.flrRecords) := by
  refine Within.setFld (le.has (by decide +kernel)) (le.writes (by decide +kernel)) ?_ ..
  exact within.parts [.rng, .dma, .hst, .msix] (le.sub (by decide +kernel)) rfl rfl
    fun q hq => by
      cases q
      case rng | dma | hst | msix => exact absurd (by decide) hq
      all_goals exact beq_self_eq_true _

theorem State.flrPages_changes (le : ((Scope.latch.plus [.hst, .rng, .pool, .mem, .dram, .dma] []).anyReg).Le scope) (within :
    Within scope old s) :
    Within scope old (s.flrPages) :=
  State.flrRecords_changes (le.sub (by decide +kernel)) (State.flrQuery_changes (le.sub (by decide +kernel))
      (State.flrFields_changes (le.sub (by decide +kernel)) (State.flrRings_changes (le.sub (by decide +kernel)) within)))

theorem State.functionReset_changes (le : ((Scope.report.plus [.dec, .enc, .dma] []).anyReg).Le scope) (within :
    Within scope old s) :
    Within scope old (s.functionReset) :=
  .ite (State.flrPages_changes (le.sub (by decide +kernel)) (State.flrEngines_changes (le.sub (by decide +kernel)) within)) within

theorem State.snapPool_changes (le : (Scope.of [.regs] [Reg.BPM_AUD_ALLOC, Reg.BPM_AUD_FREE, Reg.BPM_AUD_PENDING,
    Reg.BPM_AUD_TOTAL]).Le scope) (within : Within scope old s) (x : Nat) :
    Within scope old (s.snapPool x) := by
  unfold State.snapPool
  with_reducible apply_rules [within, Within.setFld, le.has, le.sub, le.writes] <;> decide +kernel

theorem State.snapTrunk_changes (le : (Scope.of [.regs] [Reg.PLK_AUD_CR_HELD, Reg.PLK_AUD_CR_RCVD, Reg.PLK_AUD_CR_SPENT]).Le scope)
    (within : Within scope old s) (p : Nat) :
    Within scope old (s.snapTrunk p) := by
  unfold State.snapTrunk
  with_reducible apply_rules [within, Within.setFld, le.has, le.sub, le.writes] <;> decide +kernel

theorem State.snapLink_changes {a b c : Fld} (hp : scope.has .regs = true) (ha : scope.writes a = true) (hb : scope.writes b = true)
    (hc : scope.writes c = true) (within : Within scope old s) (issued returned out : Nat) :
    Within scope old (s.snapLink a b c issued returned out) :=
  ((within.setFld hp ha ..).setFld hp hb ..).setFld hp hc ..

theorem State.snapSeq_changes {f : Fld} (hp : scope.has .regs = true) (hf : scope.writes f = true) (within : Within scope old s)
    (blk : Nat) :
    Within scope old (s.snapSeq blk f) :=
  within.foldl (fun _ _ h => .ite (State.count_changes hp hf h ..) h) _

theorem State.snapBlock_changes (le : (Scope.of [.regs, .rng, .fus, .swc, .sch] [Reg.BPM_AUD_ALLOC, Reg.BPM_AUD_FREE,
    Reg.BPM_AUD_PENDING, Reg.BPM_AUD_SNAP_SEQ, Reg.BPM_AUD_TOTAL, Reg.CNV_AUD_CR_ISSUED, Reg.CNV_AUD_CR_OUT,
    Reg.CNV_AUD_CR_RETURNED, Reg.CNV_AUD_SNAP_SEQ, Reg.DEC_AUD_CR_ISSUED, Reg.DEC_AUD_CR_OUT, Reg.DEC_AUD_CR_RETURNED,
    Reg.DEC_AUD_SNAP_SEQ, Reg.DRV_AUD_CR_ISSUED, Reg.DRV_AUD_CR_OUT, Reg.DRV_AUD_CR_RETURNED, Reg.DRV_AUD_SNAP_SEQ,
    Reg.FUS_AUD_SNAP_SEQ, Reg.PLK_AUD_CR_HELD, Reg.PLK_AUD_CR_RCVD, Reg.PLK_AUD_CR_SPENT, Reg.PLK_AUD_SNAP_SEQ,
    Reg.RNG_AUD_SNAP_SEQ, Reg.SCH_AUD_SNAP_SEQ, Reg.SWC_AUD_SNAP_SEQ]).Le scope) (within : Within scope old s) (blk : Nat) :
    Within scope old (s.snapBlock blk) := by
  unfold State.snapBlock
  split
  · exact State.snapSeq_changes (le.has (by decide +kernel)) (le.writes (by decide +kernel)) (State.mapRings_changes (le.sub
      (by decide +kernel)) within _) _
  · exact State.snapSeq_changes (le.has (by decide +kernel)) (le.writes (by decide +kernel)) (State.snapLink_changes (le.has
      (by decide +kernel)) (le.writes (by decide +kernel)) (le.writes (by decide +kernel)) (le.writes
      (by decide +kernel)) within ..) _
  · exact State.snapSeq_changes (le.has (by decide +kernel)) (le.writes (by decide +kernel)) (State.snapLink_changes (le.has
      (by decide +kernel)) (le.writes (by decide +kernel)) (le.writes (by decide +kernel)) (le.writes
      (by decide +kernel)) within ..) _
  · exact State.snapSeq_changes (le.has (by decide +kernel)) (le.writes (by decide +kernel)) (State.snapLink_changes (le.has
      (by decide +kernel)) (le.writes (by decide +kernel)) (le.writes (by decide +kernel)) (le.writes
      (by decide +kernel)) within ..) _
  · exact State.snapSeq_changes (le.has (by decide +kernel)) (le.writes (by decide +kernel)) (within.fus (le.has
      (by decide +kernel)) _) _
  · exact State.snapSeq_changes (le.has (by decide +kernel)) (le.writes (by decide +kernel)) (within.swc (le.has
      (by decide +kernel)) _) _
  · exact State.snapSeq_changes (le.has (by decide +kernel)) (le.writes (by decide +kernel)) (State.snapPool_changes (le.sub
      (by decide +kernel)) (State.snapPool_changes (le.sub (by decide +kernel)) within _) _) _
  · exact State.snapSeq_changes (le.has (by decide +kernel)) (le.writes (by decide +kernel)) (within.sch (le.has
      (by decide +kernel)) _) _
  · exact State.snapSeq_changes (le.has (by decide +kernel)) (le.writes (by decide +kernel)) (within.foldl (fun _ _ h => .ite
      (State.snapTrunk_changes (le.sub (by decide +kernel)) h _) h) _) _
  · exact within

theorem State.applyGroup_changes (le : (Scope.report.plus [.swc, .sch, .plk] (Part.misuseFields ++ Part.laneFields)).Le scope)
    (within : Within scope old s) (p : Nat) :
    Within scope old (s.applyGroup p) := by
  unfold State.applyGroup
  refine within.foldl (fun t a within => ?_) _
  with_reducible apply_rules [within, State.applyCfg_changes, Within.foldl, Within.ite, le.has, le.sub, le.writes]

theorem State.enableChanged_changes (le : (Scope.report.plus [.swc, .sch, .plk] (Part.misuseFields ++ Part.laneFields)).Le scope)
    (within : Within scope old s) (blk inst : Nat) :
    Within scope old (s.enableChanged blk inst) := by
  unfold State.enableChanged
  with_reducible apply_rules [within, State.applyCfg_changes, State.applyGroup_changes, Within.ite, le.has, le.sub, le.writes]

theorem State.disablePage_changes (le : (Scope.report.plus [.swc, .sch, .plk]
    (Part.misuseFields ++ Part.laneFields ++ [Reg.PG_CTRL_ENABLE])).Le scope) (within : Within scope old s) (blk inst : Nat) :
    Within scope old (s.disablePage blk inst) := by
  unfold State.disablePage
  with_reducible apply_rules [within, State.enableChanged_changes, Within.setFld, Within.ite, le.has, le.sub,
                              le.writes] <;> decide +kernel

theorem State.zeroAudits_changes (le : (Scope.of [.rng, .dec, .cnv, .fus, .swc, .sch, .plk] []).Le scope) (within :
    Within scope old s) (blk inst : Nat) :
    Within scope old (s.zeroAudits blk inst) := by
  unfold State.zeroAudits
  dsimp only
  (repeat' split) <;> with_reducible apply_rules [within, State.setSport_changes, State.setPort_changes, Within.rng, Within.dec,
                                                  Within.cnv, Within.fus, Within.swc, Within.ite, le.has, le.sub,
                                                  le.writes] <;> decide +kernel

theorem State.enablePage_changes (le : (Scope.report.plus [.dec, .cnv, .fus, .swc, .sch, .plk]
    (Part.misuseFields ++ Part.laneFields ++ [Reg.PG_CTRL_ENABLE])).Le scope) (within : Within scope old s) (blk inst : Nat) :
    Within scope old (s.enablePage blk inst) := by
  unfold State.enablePage
  with_reducible apply_rules [within, State.enableChanged_changes, State.zeroAudits_changes, Within.setFld, Within.ite, le.has,
                              le.sub, le.writes] <;> decide +kernel

theorem State.clearDecSw_changes (le : (Scope.of [.dec] []).Le scope) (within : Within scope old s) :
    Within scope old (s.clearDecSw) := by
  unfold State.clearDecSw
  with_reducible apply_rules [within, State.mapStreams_changes, le.has, le.sub, le.writes]

theorem State.resetRfs_changes (le : (Scope.report.plus [.dec, .enc] (Part.misuseFields ++ [Reg.DEC_LOAD_LIVE])).Le scope)
    (within : Within scope old s) :
    Within scope old (s.resetRfs) := by
  unfold State.resetRfs
  with_reducible apply_rules [within, State.mapStreams_changes, State.closeStreams_changes, le.has, le.sub, le.writes]
  decide +kernel

theorem State.resetDec_changes (le : (Scope.report.plus [.dec, .enc] (Part.misuseFields ++ [Reg.DEC_LOAD_LIVE])).Le scope)
    (within : Within scope old s) (inst : Nat) :
    Within scope old (s.resetDec inst) :=
  Within.foldl (.ite (Within.dec (le.has (by decide +kernel)) (State.clearDecSw_changes (le.sub (by decide +kernel))
      (State.closeStreams_changes (le.sub (by decide +kernel)) within)) _) within) (fun _ _ h => State.setCore_changes (le.sub
      (by decide +kernel)) h ..) _

theorem State.resetFus_changes (le : (Scope.of [.fus] []).Le scope) (within : Within scope old s) (inst : Nat) :
    Within scope old (s.resetFus inst) := by
  unfold State.resetFus
  with_reducible apply_rules [within, Within.fus, Within.ite, le.has, le.sub, le.writes]
  decide +kernel

theorem State.resetRgl_changes (le : (Scope.report.plus [.rgq, .rgl] [Reg.RGL_STATUS_STATE]).Le scope) (within :
    Within scope old s) (g : Nat) :
    Within scope old (s.resetRgl g) := by
  unfold State.resetRgl
  with_reducible apply_rules [within, State.setRegl_changes, State.clearHandlers_changes, State.dropLoads_changes,
                              State.setRglState_changes, Within.rgq, le.has, le.sub, le.writes] <;> decide +kernel

theorem State.resetPool_changes (le : (Scope.of [.pool] []).Le scope) (within : Within scope old s) :
    Within scope old s.resetPool := by
  unfold State.resetPool
  with_reducible apply_rules [within, Within.pool, le.has, le.sub, le.writes]
  decide +kernel

theorem State.resetObjects_changes (le : (Scope.report.plus [.dec, .clb, .cnv, .fus, .mze, .swc, .sch, .plk, .rgq, .enc, .esc, .rgl,
    .dma] (Part.misuseFields ++ [Reg.DEC_LOAD_LIVE, Reg.RGL_STATUS_STATE])).Le scope) (within : Within scope old s)
    (blk inst : Nat) :
    Within scope old (s.resetObjects blk inst) := by
  unfold State.resetObjects
  extract_lets mine
  split
  · exact Within.rng (le.has (by decide +kernel)) (within.foldl (fun _ _ h => .ite (State.disableRing_changes (le.sub
      (by decide +kernel)) h _) h) _) _
  · exact within.rng (le.has (by decide +kernel)) _
  · exact State.resetDec_changes (le.sub (by decide +kernel)) within _
  · exact State.resetRfs_changes (le.sub (by decide +kernel)) within
  · exact State.escAdopt_changes (le.sub (by decide +kernel)) (within.cnv (le.has (by decide +kernel)) _) ..
  · exact State.escAdopt_changes (le.sub (by decide +kernel)) (within.cnv (le.has (by decide +kernel)) _) ..
  · exact State.resetFus_changes (le.sub (by decide +kernel)) within _
  · have cores := within.foldl (f := fun t c => t.setMzc c {}) (fun _ _ h => State.setMzc_changes (le.sub
      (by decide +kernel)) h ..) (eight inst)
    exact .ite (cores.mze (le.has (by decide +kernel)) _) cores
  · exact .ite (State.setEncCore_changes (le.sub (by decide +kernel)) (State.closeSessions_changes (le.sub
      (by decide +kernel)) within) ..) (State.setEncCore_changes (le.sub (by decide +kernel)) within ..)
  · exact within.swc (le.has (by decide +kernel)) _
  · exact State.resetPool_changes (le.sub (by decide +kernel)) within
  · exact State.setSport_changes (le.sub (by decide +kernel)) within ..
  · exact State.setPort_changes (le.sub (by decide +kernel)) (State.dropPort_changes (le.sub (by decide +kernel)) within _) ..
  · exact State.setLane_changes (le.sub (by decide +kernel)) within ..
  · exact within.esc (le.has (by decide +kernel)) _
  · exact State.resetRgl_changes (le.sub (by decide +kernel)) within _
  · exact State.escAdopt_changes (le.sub (by decide +kernel)) (within.dma (le.has (by decide +kernel)) _) ..
  · exact within.mem (le.has (by decide +kernel)) _ rfl
  · exact within.clb (le.has (by decide +kernel)) _
  · exact within

theorem State.softReset_changes (le : ((Scope.report.plus [.dec, .clb, .cnv, .fus, .mze, .swc, .sch, .plk, .rgq, .enc, .esc, .rgl,
    .dma] []).anyReg).Le scope) (within : Within scope old s) (blk inst : Nat) :
    Within scope old (s.softReset blk inst) := by
  have cleared := State.causeOff_changes (le.sub (by decide +kernel)) (State.clearPage_changes (le.sub (by decide +kernel))
      (State.resetObjects_changes (le.sub (by decide +kernel)) within blk inst) blk inst softKeep) (.regParity blk) inst
  have ready : Within scope old (if blk = Blk.bpm then _ else _) := .ite
    (Within.setFld (f := Reg.BPM_STATUS_DPOOL_READY) (le.has (by decide +kernel)) (le.writes (by decide +kernel)) (Within.setFld
        (f := Reg.BPM_STATUS_ODIE_READY) (le.has (by decide +kernel)) (le.writes (by decide +kernel)) cleared 0 1) 0 1) cleared
  exact .ite (.ite (State.latch_changes (le.sub (by decide +kernel)) within ..) within) (.ite (State.applyGroup_changes (le.sub
      (by decide +kernel)) ready _) ready)

theorem State.safeStop_changes (le : (Scope.of [.esc] []).Le scope) (within : Within scope old s) (blk inst : Nat) :
    Within scope old (s.safeStop blk inst) := by
  unfold State.safeStop
  refine within.foldl (fun t a within => ?_) _
  with_reducible apply_rules [within, State.escRequest_changes, State.setEsc_changes, Within.foldl, Within.ite, le.has, le.sub,
                              le.writes]

theorem State.rsvCheck_changes (le : Scope.latch.Le scope) (within : Within scope old s) (blk inst v : Nat) (fs : List
    (Fld × Nat)) :
    Within scope old (s.rsvCheck blk inst v fs) := by
  unfold State.rsvCheck
  with_reducible apply_rules [within, State.latch_changes, Within.ite, le.has, le.sub, le.writes]

theorem State.putLane_changes (le : ((Scope.latch.plus [] []).anyReg).Le scope) (within : Within scope old s) (blk inst v : Nat)
    (f : Fld) (r l : Nat) :
    Within scope old (s.putLane blk inst v f r l) :=
  .ite (within.setAny (le.sub (by decide +kernel)) ..) (State.clampHit_changes (le.sub (by decide +kernel)) (within.setAny (le.sub
      (by decide +kernel)) ..) ..)

theorem State.putField_changes (le : ((Scope.latch.plus [] []).anyReg).Le scope) (within : Within scope old s) (blk inst v : Nat)
    (e : Fld × Nat) :
    Within scope old (s.putField blk inst v e) :=
  .ite (within.foldl (fun _ _ h => State.putLane_changes (le.sub (by decide +kernel)) h ..) _) within

theorem State.putWord_changes (le : ((Scope.latch.plus [] []).anyReg).Le scope) (within : Within scope old s)
    (blk inst off v : Nat) :
    Within scope old (s.putWord blk inst off v) :=
  .ite (State.badId_changes (le.sub (by decide +kernel)) within ..) (within.foldl (fun _ _ h => State.putField_changes (le.sub
      (by decide +kernel)) h ..) _)

theorem State.pgCtrl_changes (le : ((Scope.report.plus [.dec, .clb, .cnv, .fus, .mze, .swc, .sch, .plk, .rgq, .enc, .esc, .rgl,
    .dma] []).anyReg).Le scope) (within : Within scope old s) (blk inst v : Nat) :
    Within scope old (s.pgCtrl blk inst v) := by
  have first : Within scope old (if bit v 0 then s.enablePage blk inst else s.disablePage blk inst) :=
    .ite (State.enablePage_changes (le.sub (by decide +kernel)) within ..) (State.disablePage_changes (le.sub
        (by decide +kernel)) within ..)
  exact .ite (State.softReset_changes (le.sub (by decide +kernel)) (.ite (State.safeStop_changes (le.sub
      (by decide +kernel)) first ..) first) ..) (.ite (State.safeStop_changes (le.sub (by decide +kernel)) first ..) first)

theorem State.errClass_changes (le : (Scope.of [.regs] [Reg.PG_ERR_CLASS_RAISE]).Le scope) (within : Within scope old s)
    (blk inst v : Nat) :
    Within scope old (s.errClass blk inst v) := by
  unfold State.errClass
  refine within.foldl (fun t a within => ?_) _
  with_reducible apply_rules [within, Within.setFld, Within.foldl, le.has, le.sub, le.writes] <;> decide +kernel

theorem State.ringErr_changes (le : (Scope.of [.rng] []).Le scope) (within : Within scope old s) (r v : Nat) :
    Within scope old (s.ringErr r v) := by
  unfold State.ringErr
  with_reducible apply_rules [within, State.setRing_changes, le.has, le.sub, le.writes]

theorem State.bootOut_changes (le : (Scope.report.plus [.rgl] []).Le scope) (within : Within scope old s) :
    Within scope old (s.bootOut) := by
  unfold State.bootOut
  dsimp only
  (repeat' split) <;> with_reducible apply_rules [within, State.rglEvent_changes, Within.rgl, Within.ite, le.has, le.sub,
                                                  le.writes] <;> decide +kernel

theorem State.dmaReg_changes (le : (Scope.report.plus [.dma] []).Le scope) (within : Within scope old s) (c k v : Nat) :
    Within scope old (s.dmaReg c k v) := by
  unfold State.dmaReg
  split <;> with_reducible apply_rules [within, State.setDch_changes, State.dmaStart_changes, State.chainStop_changes, Within.ite,
                                        le.has, le.sub, le.writes] <;> decide +kernel

theorem State.srcWrite_changes (le : ((Scope.latch.plus [] []).anyReg).Le scope) (within : Within scope old s) (inst off v : Nat) :
    Within scope old (s.srcWrite inst off v) := by
  unfold State.srcWrite
  with_reducible apply_rules [within, State.hostMsg_changes, State.rrAssign_changes, State.putWord_changes, le.has, le.sub,
                              le.writes] <;> decide +kernel

theorem State.rrMask_changes (le : ((Scope.latch.plus [] []).anyReg).Le scope) (within : Within scope old s) (v : Nat) :
    Within scope old (s.rrMask v) :=
  Within.foldl (State.putWord_changes (le.sub (by decide +kernel)) within ..) (fun _ _ h => State.rrAssign_changes (le.sub
      (by decide +kernel)) h _) _

theorem State.pinWrite_changes (le : (Scope.of [.regs, .msix, .int] [Reg.FLT_PIN_C4_DARK, Reg.FLT_PIN_HOLD, Reg.FLT_PIN_THRESH,
    Reg.INT_HOST_MSGS, Reg.INT_RR_PTR]).Le scope) (within : Within scope old s) (v : Nat) :
    Within scope old (s.pinWrite v) := by
  unfold State.pinWrite
  with_reducible apply_rules [within, State.pinEdge_changes, Within.setFld, Within.ite, le.has, le.sub,
                              le.writes] <;> decide +kernel

theorem State.forceOn_changes (le : (Scope.of [.pwr] []).Le scope) (within : Within scope old s) (v : Nat) :
    Within scope old (s.forceOn v) := by
  unfold State.forceOn
  with_reducible apply_rules [within, Within.pwr, le.has, le.sub, le.writes]
  decide +kernel

/-- What any register write may change. -/
@[irreducible] def Scope.regWrite : Scope :=
  (Scope.report.plus [.pwr, .dec, .clb, .cnv, .fus, .mze, .swc, .sch, .plk, .rgq, .enc, .esc, .rgl, .dma] []).anyReg

/-- The action of a register, if it has one, stays within a scope. -/
structure Acts (w : Scope) (o : RegAct) : Prop where
  act : ∀ f, o = some f → ∀ {b s : State}, Within w b s → Within w b (f s)

theorem Acts.none {w : Scope} : Acts w none := ⟨fun _ e => by cases e⟩

theorem Acts.some {w : Scope} {f : State → State} (h : ∀ {b s : State}, Within w b s → Within w b (f s)) : Acts w (some f) :=
  ⟨fun _ e => Option.some.inj e ▸ h⟩

theorem Acts.ite {w : Scope} {c : Prop} [Decidable c] {x y : RegAct} (hx : Acts w x) (hy : Acts w y) : Acts w
    (if c then x else y) := by
  split
  · exact hx
  · exact hy

theorem takeAct_changes (le : Scope.regWrite.Le scope) (blk v : Nat) : Acts scope (takeAct blk v) :=
  .some fun h => .ite (State.snapBlock_changes (le.sub (by decide +kernel)) h _) h

theorem hdrAct_changes (le : Scope.regWrite.Le scope) (blk inst off v : Nat) : Acts scope (hdrAct blk inst off v) := by
  unfold hdrAct
  split
  · exact .some fun h => State.pgCtrl_changes (le.sub (by decide +kernel)) h ..
  · exact .some fun h => State.stickyW1c_changes (le.sub (by decide +kernel)) h ..
  · exact .some fun h => State.errEnable_changes (le.sub (by decide +kernel)) h ..
  · exact .some fun h => State.errInject_changes (le.sub (by decide +kernel)) h ..
  · exact .some fun h => State.errClass_changes (le.sub (by decide +kernel)) h ..
  · exact .none

theorem hstAct_changes (le : Scope.regWrite.Le scope) (off v : Nat) : Acts scope (hstAct off v) := by
  refine .ite (.some fun h => State.hostSize_changes (le.sub (by decide +kernel)) h _) (.ite (.some fun h =>
      State.ccacheCtl_changes (le.sub (by decide +kernel)) h _) ?_)
  split
  · exact .some fun h => State.ownerWrite_changes (le.sub (by decide +kernel)) h ..
  · exact .some fun h => State.tenantWrite_changes (le.sub (by decide +kernel)) h ..
  · exact .none

theorem rngAct_changes (le : Scope.regWrite.Le scope) (inst off v : Nat) : Acts scope (rngAct inst off v) := by
  refine .ite (takeAct_changes le ..) ?_
  split
  · exact .ite (.some fun h => State.ringWrite_changes (le.sub (by decide +kernel)) h ..) (.ite (.some fun h =>
      State.ringErr_changes (le.sub (by decide +kernel)) h ..) .none)
  · exact .none

theorem mtrAct_changes (le : Scope.regWrite.Le scope) (inst off v : Nat) : Acts scope (mtrAct inst off v) := by
  unfold mtrAct
  split
  · exact .some fun h => State.meterCfg_changes (le.sub (by decide +kernel)) h ..
  · exact .ite (.some fun h => State.meterRate_changes (le.sub (by decide +kernel)) h ..) .none
  · exact .none

theorem decAct_changes (le : Scope.regWrite.Le scope) (inst off v : Nat) : Acts scope (decAct inst off v) := by
  refine .ite (takeAct_changes le ..) ?_
  split
  · exact .some fun h => State.decCtl_changes (le.sub (by decide +kernel)) h ..
  · exact .none

theorem mzeAct_changes (le : Scope.regWrite.Le scope) (inst off v : Nat) : Acts scope (mzeAct inst off v) := by
  refine .ite (.some fun h => State.mzeRegion_changes (le.sub (by decide +kernel)) h ..) (.ite (.some fun h =>
      State.mzeRegion_changes (le.sub (by decide +kernel)) h ..) ?_)
  split
  · exact .some fun h => State.mzeCtl_changes (le.sub (by decide +kernel)) h ..
  · exact .none

theorem encAct_changes (le : Scope.regWrite.Le scope) (inst off v : Nat) : Acts scope (encAct inst off v) :=
  .ite (.some fun h => State.encRegion_changes (le.sub (by decide +kernel)) h ..) (.ite (.some fun h => State.encRegion_changes
      (le.sub (by decide +kernel)) h ..) (.ite (.some fun h => State.encCtl_changes (le.sub (by decide +kernel)) h ..) .none))

theorem fusAct_changes (le : Scope.regWrite.Le scope) (inst off v : Nat) : Acts scope (fusAct inst off v) :=
  .ite (takeAct_changes le ..) (.ite (.some fun h => .ite (State.capCommit_changes (le.sub (by decide +kernel)) h) h) (.ite
      (.some fun h => State.fusForce_changes (le.sub (by decide +kernel)) h ..) .none))

theorem bpmAct_changes (le : Scope.regWrite.Le scope) (off v : Nat) : Acts scope (bpmAct off v) := by
  refine .ite (takeAct_changes le ..) (.ite (.some fun h => State.dpoolConfig_changes (le.sub (by decide +kernel)) h ..) (.ite
      (.some fun h => State.dpoolConfig_changes (le.sub (by decide +kernel)) h ..)
    (.ite (.some fun h => State.force_changes (le.sub (by decide +kernel)) h _) ?_)))
  split
  · exact .some fun h => State.cmdWrite_changes (le.sub (by decide +kernel)) h ..
  · exact .some fun h => State.quotaWrite_changes (le.sub (by decide +kernel)) h ..
  · exact .some fun h => State.minWrite_changes (le.sub (by decide +kernel)) h ..
  · exact .none

theorem schAct_changes (le : Scope.regWrite.Le scope) (p off v : Nat) : Acts scope (schAct p off v) := by
  unfold schAct
  split
  · exact takeAct_changes le ..
  · exact .some fun h => State.subCfg_changes (le.sub (by decide +kernel)) h ..
  · exact .some fun h => State.onShaper_changes (le.sub (by decide +kernel)) h ..
  · exact .some fun h => State.onShaper_changes (le.sub (by decide +kernel)) h ..
  · exact .some fun h => .ite (State.onShaper_changes (le.sub (by decide +kernel)) h ..) h
  · exact .none

theorem plkAct_changes (le : Scope.regWrite.Le scope) (p off v : Nat) : Acts scope (plkAct p off v) := by
  unfold plkAct
  split
  · exact .some fun h => State.portCfgWrite_changes (le.sub (by decide +kernel)) h ..
  · exact .some fun h => State.portCtl_changes (le.sub (by decide +kernel)) h ..
  · exact takeAct_changes le ..
  · exact .ite (.some fun h => State.i2cGo_changes (le.sub (by decide +kernel)) h _) .none
  · exact .none

theorem lneAct_changes (le : Scope.regWrite.Le scope) (l off v : Nat) : Acts scope (lneAct l off v) := by
  unfold lneAct
  split
  · exact .some fun h => State.laneTest_changes (le.sub (by decide +kernel)) h ..
  · exact .some fun h => State.prbsWrite_changes (le.sub (by decide +kernel)) h ..
  · exact .none

theorem rglAct_changes (le : Scope.regWrite.Le scope) (g off v : Nat) : Acts scope (rglAct g off v) := by
  unfold rglAct
  split
  · exact .ite (.some fun h => State.bundleCtl_changes (le.sub (by decide +kernel)) h _) .none
  · exact .ite (.some fun h => State.bootOut_changes (le.sub (by decide +kernel)) (State.putWord_changes (le.sub
      (by decide +kernel)) h ..)) .none
  · exact .some fun h => .ite (State.reload_changes (le.sub (by decide +kernel)) h _) h
  · exact .some fun h => .ite (State.hostPost_changes (le.sub (by decide +kernel)) h _) h
  · exact .none

theorem dmaAct_changes (le : Scope.regWrite.Le scope) (inst off v : Nat) : Acts scope (dmaAct inst off v) := by
  unfold dmaAct
  split
  · exact .some fun h => State.dmaReg_changes (le.sub (by decide +kernel)) h ..
  · exact .none

theorem intAct_changes (le : Scope.regWrite.Le scope) (inst off v : Nat) : Acts scope (intAct inst off v) := by
  refine .ite ?_ ?_
  · split
    · exact .some fun h => State.intGlobal_changes (le.sub (by decide +kernel)) h _
    · exact .some fun h => State.rrMask_changes (le.sub (by decide +kernel)) h _
    · exact .some fun h => State.swset_changes (le.sub (by decide +kernel)) h _
    · exact .none
  · split
    · exact .some fun h => State.pendClear_changes (le.sub (by decide +kernel)) h ..
    · exact .some fun h => State.srcWrite_changes (le.sub (by decide +kernel)) h ..
    · exact .some fun h => State.claimDone_changes (le.sub (by decide +kernel)) h _
    · exact .none

theorem memAct_changes (le : Scope.regWrite.Le scope) (off v : Nat) : Acts scope (memAct off v) := by
  refine .ite (.some fun h => State.freqCtl_changes (le.sub (by decide +kernel)) h _) (.ite (.some fun h => .ite
      (State.errlogClear_changes (le.sub (by decide +kernel)) h) h) ?_)
  split
  · exact .some fun h => State.timingWrite_changes (le.sub (by decide +kernel)) h ..
  · exact .none

theorem regAct_changes (le : Scope.regWrite.Le scope) (blk inst off v : Nat) : Acts scope (regAct blk inst off v) := by
  refine .ite (hdrAct_changes le ..) ?_
  split
  · exact .ite (.some fun h => State.queryCtl_changes (le.sub (by decide +kernel)) h _) .none
  · exact hstAct_changes le ..
  · exact rngAct_changes le ..
  · exact mtrAct_changes le ..
  · exact decAct_changes le ..
  · exact .ite (.some fun h => State.rfsRegion_changes (le.sub (by decide +kernel)) h ..) (.ite (.some fun h =>
      State.rfsRegion_changes (le.sub (by decide +kernel)) h ..) .none)
  · exact .ite (takeAct_changes le ..) .none
  · exact .ite (takeAct_changes le ..) .none
  · exact fusAct_changes le ..
  · exact mzeAct_changes le ..
  · exact encAct_changes le ..
  · exact .ite (takeAct_changes le ..) .none
  · exact bpmAct_changes le ..
  · exact schAct_changes le ..
  · exact plkAct_changes le ..
  · exact lneAct_changes le ..
  · exact .ite (.some fun h => State.escLoadCtl_changes (le.sub (by decide +kernel)) h _) .none
  · exact rglAct_changes le ..
  · exact dmaAct_changes le ..
  · exact intAct_changes le ..
  · exact .ite (.some fun h => State.pinWrite_changes (le.sub (by decide +kernel)) h _) .none
  · exact memAct_changes le ..
  · exact .ite (.some fun h => State.xferCtl_changes (le.sub (by decide +kernel)) h _) .none
  · exact .ite (.some fun h => State.forceOn_changes (le.sub (by decide +kernel)) h _) .none
  · exact .ite (.some fun h => State.domCtl_changes (le.sub (by decide +kernel)) h _) .none
  · exact .none

theorem State.wordWrite_changes (le : Scope.regWrite.Le scope) (within : Within scope old s) (blk inst off v : Nat) :
    Within scope old (s.wordWrite blk inst off v) := by
  refine State.underParity_changes (le.sub (by decide +kernel)) within _ _ _ fun t h => ?_
  have checked := State.rsvCheck_changes (le.sub (by decide +kernel)) h blk inst v (s.wordFields blk inst off)
  refine .ite checked ?_
  split
  next f e => exact (regAct_changes le blk inst off v).act f e checked
  next => exact State.putWord_changes (le.sub (by decide +kernel)) checked ..

theorem State.pageWrite_changes (le : Scope.regWrite.Le scope) (within : Within scope old s) (page off v : Nat) :
    Within scope old (s.pageWrite page off v) := by
  unfold State.pageWrite
  split
  · exact State.absentPage_changes (le.sub (by decide +kernel)) within _
  · refine .ite (State.underParity_changes (le.sub (by decide +kernel)) within _ _ _ fun t h => ?_) (State.wordWrite_changes
      (le.sub (by decide +kernel)) (State.disarm_changes (le.sub (by decide +kernel)) within _) ..)
    exact State.unlockKey_changes (le.sub (by decide +kernel)) (State.rsvCheck_changes (le.sub (by decide +kernel)) h ..) _

theorem State.msixWord_changes (le : (Scope.of [.regs, .msix] [Reg.INT_HOST_MSGS]).Le scope) (within : Within scope old s)
    (n w v : Nat) :
    Within scope old (s.msixWord n w v) := by
  unfold State.msixWord
  split <;> with_reducible apply_rules [within, State.setVec_changes, State.unmask_changes, Within.ite, le.has, le.sub,
                                        le.writes] <;> decide +kernel

theorem State.bar0Write_changes (le : Scope.regWrite.Le scope) (within : Within scope old s) (x v : Nat) :
    Within scope old (s.bar0Write x v) :=
  .ite (State.pageWrite_changes (le.sub (by decide +kernel)) within ..) (.ite (State.msixWord_changes (le.sub
      (by decide +kernel)) within ..) within)

theorem State.privWrite_changes (le : (Scope.of [.int] []).Le scope) (within : Within scope old s) (g i v : Nat) :
    Within scope old (s.privWrite g i v) := by
  unfold State.privWrite
  with_reducible apply_rules [within, State.setTgt_changes, le.has, le.sub, le.writes]

theorem State.localInt_changes (le : Scope.latch.Le scope) (within : Within scope old s) (g off v : Nat) :
    Within scope old (s.localInt g off v) := by
  unfold State.localInt
  with_reducible apply_rules [within, State.setTgt_changes, State.clampHit_changes, State.lSwset_changes, State.privWrite_changes,
                              Within.ite, le.has, le.sub, le.writes] <;> decide +kernel

theorem State.localWrite_changes (le : (Scope.report.plus [.rgq, .rgl] []).Le scope) (within : Within scope old s) (g off v : Nat) :
    Within scope old (s.localWrite g off v) := by
  unfold State.localWrite
  split <;> with_reducible apply_rules [within, State.wdogRestart_changes, State.mbxPop_changes, State.lPost_changes,
                                        State.rxCi_changes, State.txPi_changes, State.setRegl_changes, State.setRglQ_changes,
                                        State.localInt_changes, Within.ite, le.has, le.sub, le.writes] <;> decide +kernel

theorem State.windowWrite_changes (le : (Scope.latch.plus [.pool, .mem, .dram] Part.eccFields).Le scope) (within :
    Within scope old s) (base x v : Nat) :
    Within scope old (s.windowWrite base x v) := by
  unfold State.windowWrite
  with_reducible apply_rules [within, State.mergeWrite_changes, Within.ite, le.has, le.sub, le.writes]

theorem State.regulatorWrite_changes (le : Scope.regWrite.Le scope) (within : Within scope old s) (g a v : Nat) :
    Within scope old (s.regulatorWrite g a v) :=
  .ite within (.ite (State.setRegl_changes (le.sub (by decide +kernel)) within ..) (.ite (State.setRegl_changes (le.sub
      (by decide +kernel)) within ..) (.ite (within.rgl (le.has (by decide +kernel)) _) (.ite (State.localWrite_changes (le.sub
      (by decide +kernel)) within ..)
    (.ite (.ite (State.latch_changes (le.sub (by decide +kernel)) within ..) (State.bar0Write_changes (le.sub
        (by decide +kernel)) within ..)) (.ite (State.windowWrite_changes (le.sub (by decide +kernel)) within ..) (.ite
        (State.windowWrite_changes (le.sub (by decide +kernel)) within ..) within)))))))

theorem State.hostRegWrite_changes (le : Scope.regWrite.Le scope) (within : Within scope old s) (x v : Nat) :
    Within scope old (s.hostRegWrite x v) :=
  .ite within (.ite (State.latch_changes (le.sub (by decide +kernel)) within ..) (State.bar0Write_changes (le.sub
      (by decide +kernel)) within ..))

end

end Sys2Proof.Machine
end

section
/-! PROOFS. The frame of every command (00_scope.md, 21_register_pages.md): its operations stay within the scope that the two tables
name for it. -/

namespace Sys2Proof.Machine

section
-- The lemmas are many and small: one after another they need one thread only.
set_option Elab.async false

/-- The command answers a state that differs in nothing but what the scope names. -/
def Stays (w : Scope) (s : State) (o : Out) : Prop := ∃ t, o = .next t ∧ Within w s t

theorem Stays.next {w : Scope} {s t : State} (h : Within w s t) : Stays w s (.next t) := ⟨t, rfl, h⟩

theorem Stays.run {w : Scope} {s : State} {f : State → State} (h : Within w s (f s)) : Stays w s (s.run f) :=
  .next (.ite (.refl w s) h)

/-- What the two tables name for a command. -/
def commandScope (c : Instr) : Scope :=
  match mayWrite c with
  | some fs => Scope.of (mayChange c) fs
  | none => (Scope.of (mayChange c) []).anyReg

theorem Part.mem_all (p : Part) : p ∈ Part.all := by cases p <;> decide

theorem Part.no_injective : Function.Injective Part.no := fun p _ h => (List.idxOf_inj p.mem_all).mp h

theorem Scope.has_anyReg (w : Scope) (p : Part) : w.anyReg.has p = w.has p := by
  unfold Scope.has anyReg
  rfl

/-- The scope with every part and every field. -/
theorem Within.all {s t : State} (hv : t.variant = s.variant) : Within (Scope.of Part.all []).anyReg s t :=
  ⟨hv, fun p hp => by cases p <;> exact absurd hp (by decide +kernel), fun f _ hl hf =>
      by rw [Scope.writes_anyReg _ hl] at hf; cases hf⟩

theorem execPowerOn_changes (s : State) : Stays (commandScope .powerOn) s (execPowerOn s) := by
  simp only [commandScope, mayChange, mayWrite]
  exact .next (.all ((execPowerOn_kept s).keep _ rfl).variant)

theorem execRailOutOfRange_changes (s : State) : Stays (commandScope .railOutOfRange) s (execRailOutOfRange s) := by
  simp only [commandScope, mayChange, mayWrite]
  exact .next (.ite (.refl ..) (State.latch_changes (by decide +kernel) (.refl ..) ..))

theorem execRootPllLoss_changes (s : State) : Stays (commandScope .rootPllLoss) s (execRootPllLoss s) := by
  simp only [commandScope, mayChange, mayWrite]
  exact .next (.ite (.refl ..) (.pwr (by decide +kernel) (.setFld (by decide +kernel) (by decide +kernel) (State.latch_changes
      (by decide +kernel) (.refl ..) ..) ..) _))

theorem execPerstNAssert_changes (s : State) : Stays (commandScope .perstNAssert) s (execPerstNAssert s) := by
  simp only [commandScope, mayChange, mayWrite]
  exact .next (.all ((execPerstNAssert_kept s).keep _ rfl).variant)

theorem execPerstNRelease_changes (s : State) : Stays (commandScope .perstNRelease) s (execPerstNRelease s) := by
  simp only [commandScope, mayChange, mayWrite]
  refine .next (State.showRunning_changes (by decide +kernel) ?_)
  exact .hst (by decide +kernel) (.refl ..) _ rfl rfl

theorem execWindingW0_changes (testMode capWriteN : Bool) (bootSel : Nat) (s : State) :
    Stays (commandScope (.windingW0 testMode capWriteN bootSel)) s (execWindingW0 testMode capWriteN bootSel s) := by
  simp only [commandScope, mayChange, mayWrite]
  refine .next (.ite (.refl ..) (State.showRunning_changes (by decide +kernel) (State.stageEnd_changes (by decide +kernel)
      (State.setSession_changes (by decide +kernel) ?_ _) _)))
  refine .setFld (by decide +kernel) (by decide +kernel) (.setFld (by decide +kernel) (by decide +kernel) ?_ ..) ..
  exact .parts (State.endUnlock_changes (by decide +kernel) (.refl ..)) [.hst, .flt, .kst, .pwr] (by decide +kernel) rfl rfl
    fun q hq => by
      cases q
      case hst | flt | kst | pwr => exact absurd (by decide) hq
      all_goals exact beq_self_eq_true _

theorem execSelfTestGroup_changes (g coverage durUs : Nat) (fail : BstFail) (s : State) :
    Stays (commandScope (.selfTestGroup g coverage durUs fail)) s (execSelfTestGroup g coverage durUs fail s) := by
  simp only [commandScope, mayChange, mayWrite]
  exact .run (State.selfTest_changes (by decide +kernel) (.refl ..) ..)

theorem execSelfTestTimeout_changes (g coverage : Nat) (s : State) :
    Stays (commandScope (.selfTestTimeout g coverage)) s (execSelfTestTimeout g coverage s) := by
  simp only [commandScope, mayChange, mayWrite]
  exact .run (State.groupTimeout_changes (by decide +kernel) (.refl ..) ..)

theorem execWindingW2_changes (s : State) : Stays (commandScope .windingW2) s (execWindingW2 s) := by
  simp only [commandScope, mayChange, mayWrite]
  exact .run (State.windW2_changes (by decide +kernel) (.refl ..) ..)

theorem execWindingW3_changes (s : State) : Stays (commandScope .windingW3) s (execWindingW3 s) := by
  simp only [commandScope, mayChange, mayWrite]
  exact .run (State.windW3_changes (by decide +kernel) (.refl ..) ..)

theorem execWindingW4_changes (s : State) : Stays (commandScope .windingW4) s (execWindingW4 s) := by
  simp only [commandScope, mayChange, mayWrite]
  exact .run (State.windW4_changes (by decide +kernel) (.refl ..) ..)

theorem execWindingW5_changes (chans : List ChanTrain) (timing : List Nat) (s : State) :
    Stays (commandScope (.windingW5 chans timing)) s (execWindingW5 chans timing s) := by
  simp only [commandScope, mayChange, mayWrite]
  exact .run (State.windW5_changes (by decide +kernel) (.refl ..) ..)

theorem execWindingW6_changes (s : State) : Stays (commandScope .windingW6) s (execWindingW6 s) := by
  simp only [commandScope, mayChange, mayWrite]
  exact .run (State.windW6_changes (by decide +kernel) (.refl ..) ..)

theorem execWindingW7_changes (s : State) : Stays (commandScope .windingW7) s (execWindingW7 s) := by
  simp only [commandScope, mayChange, mayWrite]
  exact .run (State.windW7_changes (by decide +kernel) (.refl ..) ..)

theorem execStrapSample_changes (testMode capWriteN : Bool) (s : State) :
    Stays (commandScope (.strapSample testMode capWriteN)) s (execStrapSample testMode capWriteN s) := by
  simp only [commandScope, mayChange, mayWrite]
  refine .next (.ite (.refl ..) (.ite ?_ (State.endUnlock_changes (by decide +kernel) ?_)))
  all_goals exact .ite (State.setSession_changes (by decide +kernel) (.pwr (by decide +kernel) (.refl ..) _) _) (.pwr
      (by decide +kernel) (.refl ..) _)

theorem execConfigRequestEarly_changes (config : Bool) (s : State) :
    Stays (commandScope (.configRequestEarly config)) s (execConfigRequestEarly config s) := by
  simp only [commandScope, mayChange, mayWrite]
  exact .run (.ite (.hst (by decide +kernel) (.refl ..) _ rfl rfl) (.refl ..))

theorem execLinkTrained_changes (hostMode speed width : Nat) (flit256 cacheEn memEn : Bool) (s : State) :
    Stays (commandScope (.linkTrained hostMode speed width flit256 cacheEn memEn)) s
        (execLinkTrained hostMode speed width flit256 cacheEn memEn s) := by
  simp only [commandScope, mayChange, mayWrite]
  exact .run (State.linkTrained_changes (by decide +kernel) (.refl ..) ..)

theorem execLinkRetrain_changes (speed width : Nat) (s : State) :
    Stays (commandScope (.linkRetrain speed width)) s (execLinkRetrain speed width s) := by
  simp only [commandScope, mayChange, mayWrite]
  exact .run (State.linkRetrain_changes (by decide +kernel) (.refl ..) ..)

theorem execLinkDown_changes (s : State) : Stays (commandScope .linkDown) s (execLinkDown s) := by
  simp only [commandScope, mayChange, mayWrite]
  exact .run (State.linkLost_changes (by decide +kernel) (.refl ..) ..)

theorem execFlr_changes (s : State) : Stays (commandScope .flr) s (execFlr s) := by
  simp only [commandScope, mayChange, mayWrite]
  exact .run (State.functionReset_changes (by decide +kernel) (.refl ..) ..)

theorem execHostBadAccess_changes (write : Bool) (bar offset : Nat) (s : State) :
    Stays (commandScope (.hostBadAccess write bar offset)) s (execHostBadAccess write bar offset s) := by
  simp only [commandScope, mayChange, mayWrite]
  exact .run (.ite (State.badAccess_changes (by decide +kernel) (.refl ..) ..) (.refl ..))

theorem execBar4Access_changes (write : Bool) (offset len : Nat) (data : Bytes) (ecc : Ecc) (s : State) :
    Stays (commandScope (.bar4Access write offset len data ecc)) s (execBar4Access write offset len data ecc s) := by
  simp only [commandScope, mayChange, mayWrite]
  exact .run (State.bar4_changes (by decide +kernel) (.refl ..) ..)

theorem execWinBaseWrite_changes (a : Nat) (v : Word) (s : State) :
    Stays (commandScope (.winBaseWrite a v)) s (execWinBaseWrite a v s) := by
  simp only [commandScope, mayChange, mayWrite]
  exact .run (State.hostCmd_changes (by decide +kernel) (.refl ..) _ _ _ _ fun _ h => .ite (Within.setFld (by decide +kernel)
      (by decide +kernel) h ..) h)

theorem execHostSizeWrite_changes (v : Word) (s : State) : Stays (commandScope (.hostSizeWrite v)) s (execHostSizeWrite v s) := by
  simp only [commandScope, mayChange, mayWrite]
  exact .run (State.hostCmd_changes (by decide +kernel) (.refl ..) _ _ _ _ fun _ h => State.hostSize_changes
      (by decide +kernel) h ..)

theorem execHdmDecoderCommit_changes (d : HdmRange) (biEnable : Bool) (s : State) :
    Stays (commandScope (.hdmDecoderCommit d biEnable)) s (execHdmDecoderCommit d biEnable s) := by
  simp only [commandScope, mayChange, mayWrite]
  exact .run (State.hdmCommit_changes (by decide +kernel) (.refl ..) ..)

theorem execBiSnoopResponse_changes (line : Nat) (s : State) :
    Stays (commandScope (.biSnoopResponse line)) s (execBiSnoopResponse line s) := by
  simp only [commandScope, mayChange, mayWrite]
  exact .run (State.biResponse_changes (by decide +kernel) (.refl ..) ..)

theorem execHostLineSnoop_changes (line : Nat) (s : State) :
    Stays (commandScope (.hostLineSnoop line)) s (execHostLineSnoop line s) := by
  simp only [commandScope, mayChange, mayWrite]
  exact .run (.ite (State.dropLine_changes (by decide +kernel) (.refl ..) ..) (.refl ..))

theorem execCcacheFlush_changes (v : Word) (s : State) : Stays (commandScope (.ccacheFlush v)) s (execCcacheFlush v s) := by
  simp only [commandScope, mayChange, mayWrite]
  exact .run (State.hostCmd_changes (by decide +kernel) (.refl ..) _ _ _ _ fun _ h => State.ccacheCtl_changes
      (by decide +kernel) h ..)

theorem execTenantEnable_changes (n : Nat) (v : Word) (s : State) :
    Stays (commandScope (.tenantEnable n v)) s (execTenantEnable n v s) := by
  simp only [commandScope, mayChange, mayWrite]
  exact .run (State.hostCmd_changes (by decide +kernel) (.refl ..) _ _ _ _ fun _ h => State.tenantWrite_changes
      (by decide +kernel) h ..)

theorem execTenantDisable_changes (n : Nat) (v : Word) (s : State) :
    Stays (commandScope (.tenantDisable n v)) s (execTenantDisable n v s) := by
  simp only [commandScope, mayChange, mayWrite]
  exact .run (State.hostCmd_changes (by decide +kernel) (.refl ..) _ _ _ _ fun _ h => State.tenantWrite_changes
      (by decide +kernel) h ..)

theorem execDbgrpOwnerWrite_changes (w : Nat) (v : Word) (s : State) :
    Stays (commandScope (.dbgrpOwnerWrite w v)) s (execDbgrpOwnerWrite w v s) := by
  simp only [commandScope, mayChange, mayWrite]
  exact .run (State.hostCmd_changes (by decide +kernel) (.refl ..) _ _ _ _ fun _ h => State.ownerWrite_changes
      (by decide +kernel) h ..)

theorem execAddressTranslationFail_changes (ring index : Nat) (s : State) :
    Stays (commandScope (.addressTranslationFail ring index)) s (execAddressTranslationFail ring index s) := by
  simp only [commandScope, mayChange, mayWrite]
  exact .run (State.translationFail_changes (by decide +kernel) (.refl ..) ..)

theorem execIdeCheckFail_changes (s : State) : Stays (commandScope .ideCheckFail) s (execIdeCheckFail s) := by
  simp only [commandScope, mayChange, mayWrite]
  exact .run (State.ideFail_changes (by decide +kernel) (.refl ..) ..)

theorem execSpdmRequest_changes (code : Nat) (data : SpdmData) (s : State) :
    Stays (commandScope (.spdmRequest code data)) s (execSpdmRequest code data s) := by
  simp only [commandScope, mayChange, mayWrite]
  exact .run (State.spdm_changes (by decide +kernel) (.refl ..) ..)

theorem execSetCertificate_changes (slot : Nat) (secured : Bool) (chain : Bytes) (s : State) :
    Stays (commandScope (.setCertificate slot secured chain)) s (execSetCertificate slot secured chain s) := by
  simp only [commandScope, mayChange, mayWrite]
  exact .run (State.setCert_changes (by decide +kernel) (.refl ..) ..)

theorem execMsixUnmask_changes (mask : MsixMask) (s : State) :
    Stays (commandScope (.msixUnmask mask)) s (execMsixUnmask mask s) := by
  simp only [commandScope, mayChange, mayWrite]
  cases mask with
  | function m => exact .run (.ite (.refl ..) (State.fnMask_changes (by decide +kernel) (.refl ..) m))
  | vector v => exact .run (.ite (.refl ..) (State.unmask_changes (by decide +kernel) (.refl ..) v))

theorem execRngDbPi_changes (ring : Nat) (v : Word) (entries : List Bytes) (s : State) :
    Stays (commandScope (.rngDbPi ring v entries)) s (execRngDbPi ring v entries s) := by
  simp only [commandScope, mayChange, mayWrite]
  exact .run (State.doorbellPi_changes (by decide +kernel) (.refl ..) ..)

theorem execRngDbCi_changes (ring : Nat) (v : Word) (s : State) :
    Stays (commandScope (.rngDbCi ring v)) s (execRngDbCi ring v s) := by
  simp only [commandScope, mayChange, mayWrite]
  exact .run (State.doorbellCi_changes (by decide +kernel) (.refl ..) ..)

theorem execPayloadFetch_changes (ring : Nat) (s : State) :
    Stays (commandScope (.payloadFetch ring)) s (execPayloadFetch ring s) := by
  simp only [commandScope, mayChange, mayWrite]
  exact .run (State.fetchPayload_changes (by decide +kernel) (.refl ..) ..)

theorem execPayloadFetchDone_changes (ring : Nat) (payload : Bytes) (au : AuInfo) (s : State) :
    Stays (commandScope (.payloadFetchDone ring payload au)) s (execPayloadFetchDone ring payload au s) := by
  simp only [commandScope, mayChange, mayWrite]
  exact .run (State.payloadDone_changes (by decide +kernel) (.refl ..) ..)

theorem execSeqGapTimeout_changes (stream : Nat) (s : State) :
    Stays (commandScope (.seqGapTimeout stream)) s (execSeqGapTimeout stream s) := by
  simp only [commandScope, mayChange, mayWrite]
  exact .run (State.gapTimeout_changes (by decide +kernel) (.refl ..) ..)

theorem execRingCfgWrite_changes (ring reg : Nat) (v : Word) (s : State) :
    Stays (commandScope (.ringCfgWrite ring reg v)) s (execRingCfgWrite ring reg v s) := by
  simp only [commandScope, mayChange, mayWrite]
  exact .run (State.regCmd_changes (by decide +kernel) (.refl ..) _ _ _ _ fun _ h => State.ringWrite_changes
      (by decide +kernel) h ..)

theorem execRingEnable_changes (ring : Nat) (v : Word) (s : State) :
    Stays (commandScope (.ringEnable ring v)) s (execRingEnable ring v s) := by
  simp only [commandScope, mayChange, mayWrite]
  exact .run (State.regCmd_changes (by decide +kernel) (.refl ..) _ _ _ _ fun _ h => State.ringWrite_changes
      (by decide +kernel) h ..)

theorem execRingDisable_changes (ring : Nat) (v : Word) (s : State) :
    Stays (commandScope (.ringDisable ring v)) s (execRingDisable ring v s) := by
  simp only [commandScope, mayChange, mayWrite]
  exact .run (State.regCmd_changes (by decide +kernel) (.refl ..) _ _ _ _ fun _ h => State.ringWrite_changes
      (by decide +kernel) h ..)

theorem execCommandFetch_changes (ring : Nat) (entry : Bytes) (s : State) :
    Stays (commandScope (.commandFetch ring entry)) s (execCommandFetch ring entry s) := by
  simp only [commandScope, mayChange, mayWrite]
  exact .run (State.fetchCommand_changes (by decide +kernel) (.refl ..) ..)

theorem execFencedCommandStart_changes (job : Nat) (s : State) :
    Stays (commandScope (.fencedCommandStart job)) s (execFencedCommandStart job s) := by
  simp only [commandScope, mayChange, mayWrite]
  exact .run (State.unfence_changes (by decide +kernel) (.refl ..) ..)

theorem execStreamOpen_changes (job : Nat) (s : State) : Stays (commandScope (.streamOpen job)) s (execStreamOpen job s) := by
  simp only [commandScope, mayChange, mayWrite]
  exact .run (.ite (State.doOpen_changes (by decide +kernel) (.refl ..) ..) (.refl ..))

theorem execStreamClose_changes (job : Nat) (s : State) : Stays (commandScope (.streamClose job)) s (execStreamClose job s) := by
  simp only [commandScope, mayChange, mayWrite]
  exact .run (.ite (State.doClose_changes (by decide +kernel) (.refl ..) ..) (.refl ..))

theorem execStreamFlush_changes (job : Nat) (s : State) : Stays (commandScope (.streamFlush job)) s (execStreamFlush job s) := by
  simp only [commandScope, mayChange, mayWrite]
  exact .run (.ite (State.doFlush_changes (by decide +kernel) (.refl ..) ..) (.refl ..))

theorem execStreamSetPolicy_changes (job : Nat) (s : State) :
    Stays (commandScope (.streamSetPolicy job)) s (execStreamSetPolicy job s) := by
  simp only [commandScope, mayChange, mayWrite]
  exact .run (.ite (State.doPolicy_changes (by decide +kernel) (.refl ..) ..) (.refl ..))

theorem execCalibreWrite_changes (job : Nat) (image : Bytes) (read : ReadEnd) (s : State) :
    Stays (commandScope (.calibreWrite job image read)) s (execCalibreWrite job image read s) := by
  simp only [commandScope, mayChange, mayWrite]
  exact .run (.ite (State.calibreWrite_changes (by decide +kernel) (.refl ..) ..) (.refl ..))

theorem execCalibreWriteCommit_changes (job : Nat) (s : State) :
    Stays (commandScope (.calibreWriteCommit job)) s (execCalibreWriteCommit job s) := by
  simp only [commandScope, mayChange, mayWrite]
  exact .run (State.writeCommit_changes (by decide +kernel) (.refl ..) ..)

theorem execCalibreSwap_changes (job : Nat) (s : State) : Stays (commandScope (.calibreSwap job)) s (execCalibreSwap job s) := by
  simp only [commandScope, mayChange, mayWrite]
  exact .run (.ite (State.calibreSwap_changes (by decide +kernel) (.refl ..) ..) (.refl ..))

theorem execSwapArmed_changes (s : State) : Stays (commandScope .swapArmed) s (execSwapArmed s) := by
  simp only [commandScope, mayChange, mayWrite]
  exact .run (State.swapArmed_changes (by decide +kernel) (.refl ..) ..)

theorem execOldBankRelease_changes (s : State) : Stays (commandScope .oldBankRelease) s (execOldBankRelease s) := by
  simp only [commandScope, mayChange, mayWrite]
  exact .run (State.oldRelease_changes (by decide +kernel) (.refl ..) ..)

theorem execCalibreRead_changes (job : Nat) (s : State) : Stays (commandScope (.calibreRead job)) s (execCalibreRead job s) := by
  simp only [commandScope, mayChange, mayWrite]
  exact .run (.ite (State.calibreRead_changes (by decide +kernel) (.refl ..) ..) (.refl ..))

theorem execCalibreSave_changes (ok : Bool) (s : State) : Stays (commandScope (.calibreSave ok)) s (execCalibreSave ok s) := by
  simp only [commandScope, mayChange, mayWrite]
  exact .run (State.calibreSave_changes (by decide +kernel) (.refl ..) ..)

theorem execEncSessionOpen_changes (job : Nat) (s : State) :
    Stays (commandScope (.encSessionOpen job)) s (execEncSessionOpen job s) := by
  simp only [commandScope, mayChange, mayWrite]
  exact .run (.ite (State.encOpen_changes (by decide +kernel) (.refl ..) ..) (.refl ..))

theorem execEncSessionClose_changes (job : Nat) (s : State) :
    Stays (commandScope (.encSessionClose job)) s (execEncSessionClose job s) := by
  simp only [commandScope, mayChange, mayWrite]
  exact .run (.ite (State.encClose_changes (by decide +kernel) (.refl ..) ..) (.refl ..))

theorem execDmaSubmit_changes (job : Nat) (s : State) : Stays (commandScope (.dmaSubmit job)) s (execDmaSubmit job s) := by
  simp only [commandScope, mayChange, mayWrite]
  exact .run (.ite (State.submit_changes (by decide +kernel) (.refl ..) ..) (.refl ..))

theorem execTileRefresh_changes (job : Nat) (s : State) : Stays (commandScope (.tileRefresh job)) s (execTileRefresh job s) := by
  simp only [commandScope, mayChange, mayWrite]
  exact .run (.ite (State.tileRefresh_changes (by decide +kernel) (.refl ..) ..) (.refl ..))

theorem execTileIdentityRead_changes (job : Nat) (s : State) :
    Stays (commandScope (.tileIdentityRead job)) s (execTileIdentityRead job s) := by
  simp only [commandScope, mayChange, mayWrite]
  exact .run (.ite (State.identRead_changes (by decide +kernel) (.refl ..) ..) (.refl ..))

theorem execComplicationLoad_changes (job : Nat) (image : Bytes) (read : ReadEnd) (init : Option Bool) (s : State) :
    Stays (commandScope (.complicationLoad job image read init)) s (execComplicationLoad job image read init s) := by
  simp only [commandScope, mayChange, mayWrite]
  exact .run (.ite (State.cplLoad_changes (by decide +kernel) (.refl ..) ..) (.refl ..))

theorem execQuery_changes (job : Nat) (s : State) : Stays (commandScope (.query job)) s (execQuery job s) := by
  simp only [commandScope, mayChange, mayWrite]
  exact .run (.ite (State.doQuery_changes (by decide +kernel) (.refl ..) ..) (.refl ..))

theorem execNop_changes (job : Nat) (s : State) : Stays (commandScope (.nop job)) s (execNop job s) := by
  simp only [commandScope, mayChange, mayWrite]
  exact .run (.ite (State.finish_changes (by decide +kernel) (.refl ..) ..) (.refl ..))

theorem execMtrEnable_changes (m : Nat) (v : Word) (s : State) : Stays (commandScope (.mtrEnable m v)) s (execMtrEnable m v s) := by
  simp only [commandScope, mayChange, mayWrite]
  exact .run (State.regCmd_changes (by decide +kernel) (.refl ..) _ _ _ _ fun _ h => State.meterCfg_changes
      (by decide +kernel) h ..)

theorem execMtrRateWrite_changes (m reg : Nat) (v : Word) (s : State) :
    Stays (commandScope (.mtrRateWrite m reg v)) s (execMtrRateWrite m reg v s) := by
  simp only [commandScope, mayChange, mayWrite]
  exact .run (State.regCmd_changes (by decide +kernel) (.refl ..) _ _ _ _ fun _ h => State.meterRate_changes
      (by decide +kernel) h ..)

theorem execSysQueryCtl_changes (v : Word) (s : State) : Stays (commandScope (.sysQueryCtl v)) s (execSysQueryCtl v s) := by
  simp only [commandScope, mayChange, mayWrite]
  exact .run (State.regCmd_changes (by decide +kernel) (.refl ..) _ _ _ _ fun _ h => State.queryCtl_changes
      (by decide +kernel) h ..)

theorem execQueryResultReady_changes (s : State) : Stays (commandScope .queryResultReady) s (execQueryResultReady s) := by
  simp only [commandScope, mayChange, mayWrite]
  exact .run (State.queryReady_changes (by decide +kernel) (.refl ..) ..)

theorem execSysQueryResultRead_changes (s : State) : Stays (commandScope .sysQueryResultRead) s (execSysQueryResultRead s) := by
  simp only [commandScope, mayChange, mayWrite]
  exact .run (.ite (State.countSat_changes (by decide +kernel) (by decide +kernel) (.refl ..) ..) (.refl ..))

theorem execAudSnapTake_changes (page : Nat) (s : State) : Stays (commandScope (.audSnapTake page)) s (execAudSnapTake page s) := by
  simp only [commandScope, mayChange, mayWrite]
  exact .run (State.onPage_changes (by decide +kernel) (.refl ..) _ _ _ fun _ blk _ h => State.snapBlock_changes
      (by decide +kernel) h ..)

theorem execFrameMark_changes (s : State) : Stays (commandScope .frameMark) s (execFrameMark s) := by
  simp only [commandScope, mayChange, mayWrite]
  exact .run (State.frameMark_changes (by decide +kernel) (.refl ..) ..)

theorem execWallsyncEdge_changes (s : State) : Stays (commandScope .wallsyncEdge) s (execWallsyncEdge s) := by
  simp only [commandScope, mayChange, mayWrite]
  exact .run (State.wallsyncEdge_changes (by decide +kernel) (.refl ..) ..)

theorem execWallsyncHoldover_changes (s : State) : Stays (commandScope .wallsyncHoldover) s (execWallsyncHoldover s) := by
  simp only [commandScope, mayChange, mayWrite]
  exact .run (State.wallsyncHoldover_changes (by decide +kernel) (.refl ..) ..)

theorem execUnitDispatch_changes (core : Nat) (s : State) :
    Stays (commandScope (.unitDispatch core)) s (execUnitDispatch core s) := by
  simp only [commandScope, mayChange, mayWrite]
  exact .run (State.dispatch_changes (by decide +kernel) (.refl ..) ..)

theorem execWorkUnitDone_changes (core : Nat) (res : UnitResult) (s : State) :
    Stays (commandScope (.workUnitDone core res)) s (execWorkUnitDone core res s) := by
  simp only [commandScope, mayChange, mayWrite]
  exact .run (State.unitEnd_changes (by decide +kernel) (.refl ..) ..)

theorem execPinCopyDone_changes (stream order : Nat) (s : State) :
    Stays (commandScope (.pinCopyDone stream order)) s (execPinCopyDone stream order s) := by
  simp only [commandScope, mayChange, mayWrite]
  exact .run (State.pinCopied_changes (by decide +kernel) (.refl ..) ..)

theorem execPickup_changes (window : Nat) (s : State) : Stays (commandScope (.pickup window)) s (execPickup window s) := by
  simp only [commandScope, mayChange, mayWrite]
  exact .run (State.pickup_changes (by decide +kernel) (.refl ..) ..)

theorem execStreamDrainDone_changes (stream : Nat) (s : State) :
    Stays (commandScope (.streamDrainDone stream)) s (execStreamDrainDone stream s) := by
  simp only [commandScope, mayChange, mayWrite]
  exact .run (State.drainDone_changes (by decide +kernel) (.refl ..) ..)

theorem execDrainTimeout_changes (stream : Nat) (s : State) :
    Stays (commandScope (.drainTimeout stream)) s (execDrainTimeout stream s) := by
  simp only [commandScope, mayChange, mayWrite]
  exact .run (State.drainTimeout_changes (by decide +kernel) (.refl ..) ..)

theorem execDecCoreCtlOffline_changes (core : Nat) (v : Word) (s : State) :
    Stays (commandScope (.decCoreCtlOffline core v)) s (execDecCoreCtlOffline core v s) := by
  simp only [commandScope, mayChange, mayWrite]
  exact .run (State.regCmd_changes (by decide +kernel) (.refl ..) _ _ _ _ fun _ h => State.decCtl_changes (by decide +kernel) h ..)

theorem execDecCoreReset_changes (core : Nat) (s : State) :
    Stays (commandScope (.decCoreReset core)) s (execDecCoreReset core s) := by
  simp only [commandScope, mayChange, mayWrite]
  exact .run (State.regCmd_changes (by decide +kernel) (.refl ..) _ _ _ _ fun _ h => State.decReset_changes
      (by decide +kernel) h ..)

theorem execRfsRegionWrite_changes (reg : Nat) (v : Word) (s : State) :
    Stays (commandScope (.rfsRegionWrite reg v)) s (execRfsRegionWrite reg v s) := by
  simp only [commandScope, mayChange, mayWrite]
  exact .run (State.regCmd_changes (by decide +kernel) (.refl ..) _ _ _ _ fun _ h => State.rfsRegion_changes
      (by decide +kernel) h ..)

theorem execRowPairStart_changes (s : State) : Stays (commandScope .rowPairStart) s (execRowPairStart s) := by
  simp only [commandScope, mayChange, mayWrite]
  exact .run (State.rowPairStart_changes (by decide +kernel) (.refl ..) ..)

theorem execDriveRowPair_changes (s : State) : Stays (commandScope .driveRowPair) s (execDriveRowPair s) := by
  simp only [commandScope, mayChange, mayWrite]
  exact .run (State.driveRowPair_changes (by decide +kernel) (.refl ..) ..)

theorem execFusCapCommit_changes (s : State) : Stays (commandScope .fusCapCommit) s (execFusCapCommit s) := by
  simp only [commandScope, mayChange, mayWrite]
  exact .run (State.hostCmd_changes (by decide +kernel) (.refl ..) _ _ _ _ fun _ h => State.capCommit_changes
      (by decide +kernel) h ..)

theorem execCapCommitStoreDone_changes (okA okB : Bool) (s : State) :
    Stays (commandScope (.capCommitStoreDone okA okB)) s (execCapCommitStoreDone okA okB s) := by
  simp only [commandScope, mayChange, mayWrite]
  exact .run (State.capStore_changes (by decide +kernel) (.refl ..) ..)

theorem execFusForce_changes (page : Nat) (v : Word) (s : State) :
    Stays (commandScope (.fusForce page v)) s (execFusForce page v s) := by
  simp only [commandScope, mayChange, mayWrite]
  exact .run (State.onPage_changes (by decide +kernel) (.refl ..) _ _ _ fun _ blk inst h => .ite (State.fusForce_changes
      (by decide +kernel) h ..) h)

theorem execMzeRowPairStart_changes (core : Nat) (s : State) :
    Stays (commandScope (.mzeRowPairStart core)) s (execMzeRowPairStart core s) := by
  simp only [commandScope, mayChange, mayWrite]
  exact .run (State.rowStart_changes (by decide +kernel) (.refl ..) ..)

theorem execMzeRowPairDone_changes (core : Nat) (s : State) :
    Stays (commandScope (.mzeRowPairDone core)) s (execMzeRowPairDone core s) := by
  simp only [commandScope, mayChange, mayWrite]
  exact .run (State.rowEnd_changes (by decide +kernel) (.refl ..) ..)

theorem execLinkFrameSubmit_changes (input : Nat) (s : State) :
    Stays (commandScope (.linkFrameSubmit input)) s (execLinkFrameSubmit input s) := by
  simp only [commandScope, mayChange, mayWrite]
  exact .run (State.frameSubmit_changes (by decide +kernel) (.refl ..) ..)

theorem execMzeCoreReset_changes (core : Nat) (s : State) :
    Stays (commandScope (.mzeCoreReset core)) s (execMzeCoreReset core s) := by
  simp only [commandScope, mayChange, mayWrite]
  exact .run (State.regCmd_changes (by decide +kernel) (.refl ..) _ _ _ _ fun _ h => State.mzeReset_changes
      (by decide +kernel) h ..)

theorem execMzeRefRegionWrite_changes (reg : Nat) (v : Word) (s : State) :
    Stays (commandScope (.mzeRefRegionWrite reg v)) s (execMzeRefRegionWrite reg v s) := by
  simp only [commandScope, mayChange, mayWrite]
  exact .run (State.regCmd_changes (by decide +kernel) (.refl ..) _ _ _ _ fun _ h => State.mzeRegion_changes
      (by decide +kernel) h ..)

theorem execEncSourceReady_changes (session : Nat) (s : State) :
    Stays (commandScope (.encSourceReady session)) s (execEncSourceReady session s) := by
  simp only [commandScope, mayChange, mayWrite]
  exact .run (State.encReady_changes (by decide +kernel) (.refl ..) ..)

theorem execEncPictureStart_changes (session : Nat) (s : State) :
    Stays (commandScope (.encPictureStart session)) s (execEncPictureStart session s) := by
  simp only [commandScope, mayChange, mayWrite]
  exact .run (State.encStart_changes (by decide +kernel) (.refl ..) ..)

theorem execEncPictureDone_changes (session : Nat) (cols : List EncCol) (qp : Nat) (guard : List (List Nat)) (s : State) :
    Stays (commandScope (.encPictureDone session cols qp guard)) s (execEncPictureDone session cols qp guard s) := by
  simp only [commandScope, mayChange, mayWrite]
  exact .run (State.pictureEnd_changes (by decide +kernel) (.refl ..) ..)

theorem execEncCoreReset_changes (core : Nat) (s : State) :
    Stays (commandScope (.encCoreReset core)) s (execEncCoreReset core s) := by
  simp only [commandScope, mayChange, mayWrite]
  exact .run (State.regCmd_changes (by decide +kernel) (.refl ..) _ _ _ _ fun _ h => State.encReset_changes
      (by decide +kernel) h ..)

theorem execEncRegionWrite_changes (reg : Nat) (v : Word) (s : State) :
    Stays (commandScope (.encRegionWrite reg v)) s (execEncRegionWrite reg v s) := by
  simp only [commandScope, mayChange, mayWrite]
  exact .run (State.regCmd_changes (by decide +kernel) (.refl ..) _ _ _ _ fun _ h => State.encRegion_changes
      (by decide +kernel) h ..)

theorem execAlloc_changes (r : PoolReq) (s : State) : Stays (commandScope (.alloc r)) s (execAlloc r s) := by
  simp only [commandScope, mayChange, mayWrite]
  exact .run (State.poolReq_changes (by decide +kernel) (.refl ..) ..)

theorem execShare_changes (r : PoolReq) (buf n holder : Nat) (s : State) :
    Stays (commandScope (.share r buf n holder)) s (execShare r buf n holder s) := by
  simp only [commandScope, mayChange, mayWrite]
  exact .run (State.poolReq_changes (by decide +kernel) (.refl ..) ..)

theorem execRelease_changes (r : PoolReq) (buf : Nat) (s : State) :
    Stays (commandScope (.release r buf)) s (execRelease r buf s) := by
  simp only [commandScope, mayChange, mayWrite]
  exact .run (State.poolReq_changes (by decide +kernel) (.refl ..) ..)

theorem execFree_changes (r : PoolReq) (buf : Nat) (s : State) : Stays (commandScope (.free r buf)) s (execFree r buf s) := by
  simp only [commandScope, mayChange, mayWrite]
  exact .run (State.poolReq_changes (by decide +kernel) (.refl ..) ..)

theorem execHandover_changes (r : PoolReq) (buf new : Nat) (s : State) :
    Stays (commandScope (.handover r buf new)) s (execHandover r buf new s) := by
  simp only [commandScope, mayChange, mayWrite]
  exact .run (State.poolReq_changes (by decide +kernel) (.refl ..) ..)

theorem execListRebuildDone_changes (pool : Nat) (s : State) :
    Stays (commandScope (.listRebuildDone pool)) s (execListRebuildDone pool s) := by
  simp only [commandScope, mayChange, mayWrite]
  exact .run (State.listRebuilt_changes (by decide +kernel) (.refl ..) ..)

theorem execForceFree_changes (v : Word) (s : State) : Stays (commandScope (.forceFree v)) s (execForceFree v s) := by
  simp only [commandScope, mayChange, mayWrite]
  exact .run (State.regCmd_changes (by decide +kernel) (.refl ..) _ _ _ _ fun _ h => State.force_changes (by decide +kernel) h ..)

theorem execForceOwner_changes (v : Word) (s : State) : Stays (commandScope (.forceOwner v)) s (execForceOwner v s) := by
  simp only [commandScope, mayChange, mayWrite]
  exact .run (State.regCmd_changes (by decide +kernel) (.refl ..) _ _ _ _ fun _ h => State.force_changes (by decide +kernel) h ..)

theorem execDpoolConfigWrite_changes (reg : Nat) (v : Word) (s : State) :
    Stays (commandScope (.dpoolConfigWrite reg v)) s (execDpoolConfigWrite reg v s) := by
  simp only [commandScope, mayChange, mayWrite]
  exact .run (State.regCmd_changes (by decide +kernel) (.refl ..) _ _ _ _ fun _ h => State.dpoolConfig_changes
      (by decide +kernel) h ..)

theorem execDpoolRebuildDone_changes (s : State) : Stays (commandScope .dpoolRebuildDone) s (execDpoolRebuildDone s) := by
  simp only [commandScope, mayChange, mayWrite]
  exact .run (Within.setFld (by decide +kernel) (by decide +kernel) (.refl ..) ..)

theorem execQuotaWrite_changes (owner : Nat) (v : Word) (s : State) :
    Stays (commandScope (.quotaWrite owner v)) s (execQuotaWrite owner v s) := by
  simp only [commandScope, mayChange, mayWrite]
  exact .run (State.regCmd_changes (by decide +kernel) (.refl ..) _ _ _ _ fun _ h => State.quotaWrite_changes
      (by decide +kernel) h ..)

theorem execMinWrite_changes (owner : Nat) (v : Word) (s : State) :
    Stays (commandScope (.minWrite owner v)) s (execMinWrite owner v s) := by
  simp only [commandScope, mayChange, mayWrite]
  exact .run (State.regCmd_changes (by decide +kernel) (.refl ..) _ _ _ _ fun _ h => State.minWrite_changes
      (by decide +kernel) h ..)

theorem execCellMatch_changes (s : State) : Stays (commandScope .cellMatch) s (execCellMatch s) := by
  simp only [commandScope, mayChange, mayWrite]
  exact .run (State.cellTime_changes (by decide +kernel) (.refl ..) ..)

theorem execPortMark_changes (port : Nat) (s : State) : Stays (commandScope (.portMark port)) s (execPortMark port s) := by
  simp only [commandScope, mayChange, mayWrite]
  exact .run (State.portMarkChecked_changes (by decide +kernel) (.refl ..) ..)

theorem execLinkFrameDepart_changes (port slot : Nat) (s : State) :
    Stays (commandScope (.linkFrameDepart port slot)) s (execLinkFrameDepart port slot s) := by
  simp only [commandScope, mayChange, mayWrite]
  exact .run (State.check_changes (by decide +kernel) (State.linkDepart_changes (by decide +kernel) (.refl ..) ..) ..)

theorem execTileClose_changes (port tile : Nat) (s : State) :
    Stays (commandScope (.tileClose port tile)) s (execTileClose port tile s) := by
  simp only [commandScope, mayChange, mayWrite]
  exact .run (State.tileClose_changes (by decide +kernel) (.refl ..) ..)

theorem execShaperRateWrite_changes (port : Nat) (v : Word) (s : State) :
    Stays (commandScope (.shaperRateWrite port v)) s (execShaperRateWrite port v s) := by
  simp only [commandScope, mayChange, mayWrite]
  exact .run (State.regCmd_changes (by decide +kernel) (.refl ..) _ _ _ _ fun _ h => State.onShaper_changes
      (by decide +kernel) h ..)

theorem execShaperBurstWrite_changes (port : Nat) (v : Word) (s : State) :
    Stays (commandScope (.shaperBurstWrite port v)) s (execShaperBurstWrite port v s) := by
  simp only [commandScope, mayChange, mayWrite]
  exact .run (State.regCmd_changes (by decide +kernel) (.refl ..) _ _ _ _ fun _ h => State.onShaper_changes
      (by decide +kernel) h ..)

theorem execShaperForgive_changes (port : Nat) (s : State) :
    Stays (commandScope (.shaperForgive port)) s (execShaperForgive port s) := by
  simp only [commandScope, mayChange, mayWrite]
  exact .run (State.regCmd_changes (by decide +kernel) (.refl ..) _ _ _ _ fun _ h => State.onShaper_changes
      (by decide +kernel) h ..)

theorem execShaperEnable_changes (port : Nat) (v : Word) (s : State) :
    Stays (commandScope (.shaperEnable port v)) s (execShaperEnable port v s) := by
  simp only [commandScope, mayChange, mayWrite]
  exact .run (State.regCmd_changes (by decide +kernel) (.refl ..) _ _ _ _ fun _ h => .ite (State.subCfg_changes
      (by decide +kernel) h ..) h)

theorem execShaperDisable_changes (port : Nat) (v : Word) (s : State) :
    Stays (commandScope (.shaperDisable port v)) s (execShaperDisable port v s) := by
  simp only [commandScope, mayChange, mayWrite]
  exact .run (State.regCmd_changes (by decide +kernel) (.refl ..) _ _ _ _ fun _ h => .ite h (State.subCfg_changes
      (by decide +kernel) h ..))

theorem execBeatTableParity_changes (port : Nat) (s : State) :
    Stays (commandScope (.beatTableParity port)) s (execBeatTableParity port s) := by
  simp only [commandScope, mayChange, mayWrite]
  exact .run (State.tableParity_changes (by decide +kernel) (.refl ..) ..)

theorem execPortTrainStart_changes (port : Nat) (s : State) :
    Stays (commandScope (.portTrainStart port)) s (execPortTrainStart port s) := by
  simp only [commandScope, mayChange, mayWrite]
  exact .run (.ite (State.portTrainStart_changes (by decide +kernel) (.refl ..) ..) (.refl ..))

theorem execTrainAlignTimeout_changes (port : Nat) (s : State) :
    Stays (commandScope (.trainAlignTimeout port)) s (execTrainAlignTimeout port s) := by
  simp only [commandScope, mayChange, mayWrite]
  exact .run (State.alignTimeout_changes (by decide +kernel) (.refl ..) ..)

theorem execTrainRetryTimer_changes (port : Nat) (s : State) :
    Stays (commandScope (.trainRetryTimer port)) s (execTrainRetryTimer port s) := by
  simp only [commandScope, mayChange, mayWrite]
  exact .run (State.retryTimer_changes (by decide +kernel) (.refl ..) ..)

theorem execTsType2Received_changes (port pos vers : Nat) (rest : TrainRest) (s : State) :
    Stays (commandScope (.tsType2Received port pos vers rest)) s (execTsType2Received port pos vers rest s) := by
  simp only [commandScope, mayChange, mayWrite]
  exact .run (State.tsType2_changes (by decide +kernel) (.refl ..) ..)

theorem execPositionCollectTimeout_changes (port : Nat) (s : State) :
    Stays (commandScope (.positionCollectTimeout port)) s (execPositionCollectTimeout port s) := by
  simp only [commandScope, mayChange, mayWrite]
  exact .run (State.collectTimeout_changes (by decide +kernel) (.refl ..) ..)

theorem execTsType4Received_changes (port pos : Nat) (set : TrainVers) (s : State) :
    Stays (commandScope (.tsType4Received port pos set)) s (execTsType4Received port pos set s) := by
  simp only [commandScope, mayChange, mayWrite]
  exact .run (State.tsType4_changes (by decide +kernel) (.refl ..) ..)

theorem execVersionConfirmTimeout_changes (port pos : Nat) (s : State) :
    Stays (commandScope (.versionConfirmTimeout port pos)) s (execVersionConfirmTimeout port pos s) := by
  simp only [commandScope, mayChange, mayWrite]
  exact .run (State.confirmTimeout_changes (by decide +kernel) (.refl ..) ..)

theorem execEchoReceived_changes (port pos rtNs : Nat) (s : State) :
    Stays (commandScope (.echoReceived port pos rtNs)) s (execEchoReceived port pos rtNs s) := by
  simp only [commandScope, mayChange, mayWrite]
  exact .run (State.echo_changes (by decide +kernel) (.refl ..) ..)

theorem execTrainComplete_changes (port : Nat) (s : State) :
    Stays (commandScope (.trainComplete port)) s (execTrainComplete port s) := by
  simp only [commandScope, mayChange, mayWrite]
  exact .run (State.trainComplete_changes (by decide +kernel) (.refl ..) ..)

theorem execLaneAlignLoss_changes (lane : LaneRun) (s : State) :
    Stays (commandScope (.laneAlignLoss lane)) s (execLaneAlignLoss lane s) := by
  simp only [commandScope, mayChange, mayWrite]
  exact .run (State.laneRx_changes (by decide +kernel) (.refl ..) ..)

theorem execFomMeasure_changes (lane fom : Nat) (s : State) :
    Stays (commandScope (.fomMeasure lane fom)) s (execFomMeasure lane fom s) := by
  simp only [commandScope, mayChange, mayWrite]
  exact .run (State.fomMeasure_changes (by decide +kernel) (.refl ..) ..)

theorem execPlkRetrain_changes (port : Nat) (s : State) : Stays (commandScope (.plkRetrain port)) s (execPlkRetrain port s) := by
  simp only [commandScope, mayChange, mayWrite]
  exact .run (State.regCmd_changes (by decide +kernel) (.refl ..) _ _ _ _ fun _ h => State.plkRetrain_changes
      (by decide +kernel) h ..)

theorem execPlkPortCfgWrite_changes (port : Nat) (v : Word) (s : State) :
    Stays (commandScope (.plkPortCfgWrite port v)) s (execPlkPortCfgWrite port v s) := by
  simp only [commandScope, mayChange, mayWrite]
  exact .run (State.regCmd_changes (by decide +kernel) (.refl ..) _ _ _ _ fun _ h => State.portCfgWrite_changes
      (by decide +kernel) h ..)

theorem execPortTestEnter_changes (port : Nat) (s : State) :
    Stays (commandScope (.portTestEnter port)) s (execPortTestEnter port s) := by
  simp only [commandScope, mayChange, mayWrite]
  exact .run (State.regCmd_changes (by decide +kernel) (.refl ..) _ _ _ _ fun _ h => State.testEnter_changes
      (by decide +kernel) h ..)

theorem execPortTestClear_changes (port : Nat) (s : State) :
    Stays (commandScope (.portTestClear port)) s (execPortTestClear port s) := by
  simp only [commandScope, mayChange, mayWrite]
  exact .run (State.regCmd_changes (by decide +kernel) (.refl ..) _ _ _ _ fun _ h => State.testClear_changes
      (by decide +kernel) h ..)

theorem execLneTestInject_changes (lane : Nat) (s : State) :
    Stays (commandScope (.lneTestInject lane)) s (execLneTestInject lane s) := by
  simp only [commandScope, mayChange, mayWrite]
  exact .run (State.regCmd_changes (by decide +kernel) (.refl ..) _ _ _ _ fun _ h => State.laneInject_changes
      (by decide +kernel) h ..)

theorem execStatusFrame_changes (port : Nat) (frame : Bytes) (s : State) :
    Stays (commandScope (.statusFrame port frame)) s (execStatusFrame port frame s) := by
  simp only [commandScope, mayChange, mayWrite]
  exact .run (State.upstream_changes (by decide +kernel) (.refl ..) _ _ _ fun _ h => .ite (State.status_changes
      (by decide +kernel) h ..) h)

theorem execMgmtResponse_changes (port : Nat) (frame : Bytes) (s : State) :
    Stays (commandScope (.mgmtResponse port frame)) s (execMgmtResponse port frame s) := by
  simp only [commandScope, mayChange, mayWrite]
  exact .run (State.upstream_changes (by decide +kernel) (.refl ..) _ _ _ fun _ h =>
    .ite h (.ite (State.identReply_changes (by decide +kernel) h ..) (State.intoSwitch_changes (by decide +kernel) h ..)))

theorem execIdentityReplyTimeout_changes (port pos : Nat) (s : State) :
    Stays (commandScope (.identityReplyTimeout port pos)) s (execIdentityReplyTimeout port pos s) := by
  simp only [commandScope, mayChange, mayWrite]
  exact .run (State.replyTimeout_changes (by decide +kernel) (.refl ..) ..)

theorem execIdentityReread_changes (port pos : Nat) (s : State) :
    Stays (commandScope (.identityReread port pos)) s (execIdentityReread port pos s) := by
  simp only [commandScope, mayChange, mayWrite]
  exact .run (State.reread_changes (by decide +kernel) (.refl ..) ..)

theorem execCreditBlock_changes (port n : Nat) (s : State) :
    Stays (commandScope (.creditBlock port n)) s (execCreditBlock port n s) := by
  simp only [commandScope, mayChange, mayWrite]
  exact .run (State.creditBlock_changes (by decide +kernel) (.refl ..) ..)

theorem execUpstreamFrame_changes (port : Nat) (frame : Bytes) (s : State) :
    Stays (commandScope (.upstreamFrame port frame)) s (execUpstreamFrame port frame s) := by
  simp only [commandScope, mayChange, mayWrite]
  exact .run (State.upstream_changes (by decide +kernel) (.refl ..) _ _ _ fun _ h =>
    .ite h (State.intoSwitch_changes (by decide +kernel) (State.check_changes (by decide +kernel) h ..) ..))

theorem execModulePoll_changes (bus : Nat) (found : List ModInfo) (s : State) :
    Stays (commandScope (.modulePoll bus found)) s (execModulePoll bus found s) := by
  simp only [commandScope, mayChange, mayWrite]
  exact .run (State.modulePoll_changes (by decide +kernel) (.refl ..) ..)

theorem execI2cGo_changes (v : Word) (s : State) : Stays (commandScope (.i2cGo v)) s (execI2cGo v s) := by
  simp only [commandScope, mayChange, mayWrite]
  exact .run (State.regCmd_changes (by decide +kernel) (.refl ..) _ _ _ _ fun _ h => State.i2cGo_changes (by decide +kernel) h ..)

theorem execEscRoutineStart_changes (kind index routine : Nat) (s : State) :
    Stays (commandScope (.escRoutineStart kind index routine)) s (execEscRoutineStart kind index routine s) := by
  simp only [commandScope, mayChange, mayWrite]
  exact .run (State.escStart_changes (by decide +kernel) (.refl ..) ..)

theorem execEscRoutineExit_changes (kind index : Nat) (conds : List (BitVec 64)) (s : State) :
    Stays (commandScope (.escRoutineExit kind index conds)) s (execEscRoutineExit kind index conds s) := by
  simp only [commandScope, mayChange, mayWrite]
  exact .run (State.escRun_changes (by decide +kernel) (.refl ..) ..)

theorem execEscWaitTimeout_changes (kind index : Nat) (conds : List (BitVec 64)) (s : State) :
    Stays (commandScope (.escWaitTimeout kind index conds)) s (execEscWaitTimeout kind index conds s) := by
  simp only [commandScope, mayChange, mayWrite]
  exact .run (State.escTimeout_changes (by decide +kernel) (.refl ..) ..)

theorem execEscSafePointExit_changes (kind index : Nat) (conds : List (BitVec 64)) (s : State) :
    Stays (commandScope (.escSafePointExit kind index conds)) s (execEscSafePointExit kind index conds s) := by
  simp only [commandScope, mayChange, mayWrite]
  exact .run (State.escSafe_changes (by decide +kernel) (.refl ..) ..)

theorem execStopLimitExpiry_changes (kind index : Nat) (s : State) :
    Stays (commandScope (.stopLimitExpiry kind index)) s (execStopLimitExpiry kind index s) := by
  simp only [commandScope, mayChange, mayWrite]
  exact .run (State.stopExpired_changes (by decide +kernel) (.refl ..) ..)

theorem execMicrowordParity_changes (kind index : Nat) (s : State) :
    Stays (commandScope (.microwordParity kind index)) s (execMicrowordParity kind index s) := by
  simp only [commandScope, mayChange, mayWrite]
  refine .run ?_
  split
  · exact .refl ..
  · exact State.escParity_changes (by decide +kernel) (.refl ..) ..

theorem execEscLoadGo_changes (v : Word) (s : State) : Stays (commandScope (.escLoadGo v)) s (execEscLoadGo v s) := by
  simp only [commandScope, mayChange, mayWrite]
  exact .run (State.regCmd_changes (by decide +kernel) (.refl ..) _ _ _ _ fun _ h => State.escLoadCtl_changes
      (by decide +kernel) h ..)

theorem execEscLoadDone_changes (s : State) : Stays (commandScope .escLoadDone) s (execEscLoadDone s) := by
  simp only [commandScope, mayChange, mayWrite]
  exact .run (State.escLoaded_changes (by decide +kernel) (.refl ..) ..)

theorem execPgEnableClear_changes (page : Nat) (s : State) :
    Stays (commandScope (.pgEnableClear page)) s (execPgEnableClear page s) := by
  simp only [commandScope, mayChange, mayWrite]
  exact .run (State.onPage_changes (by decide +kernel) (.refl ..) _ _ _ fun _ blk inst h => State.disablePage_changes
      (by decide +kernel) h ..)

theorem execPgEnableSet_changes (page : Nat) (s : State) : Stays (commandScope (.pgEnableSet page)) s (execPgEnableSet page s) := by
  simp only [commandScope, mayChange, mayWrite]
  exact .run (State.onPage_changes (by decide +kernel) (.refl ..) _ _ _ fun _ blk inst h => State.enablePage_changes
      (by decide +kernel) h ..)

theorem execPgSoftReset_changes (page : Nat) (s : State) : Stays (commandScope (.pgSoftReset page)) s (execPgSoftReset page s) := by
  simp only [commandScope, mayChange, mayWrite]
  exact .run (State.onPage_changes (by decide +kernel) (.refl ..) _ _ _ fun _ blk inst h => State.softReset_changes
      (by decide +kernel) h ..)

theorem execPgSafeStop_changes (page : Nat) (s : State) : Stays (commandScope (.pgSafeStop page)) s (execPgSafeStop page s) := by
  simp only [commandScope, mayChange, mayWrite]
  exact .run (State.onPage_changes (by decide +kernel) (.refl ..) _ _ _ fun _ blk inst h => State.safeStop_changes
      (by decide +kernel) h ..)

theorem execBundleWriteGo_changes (v : Word) (s : State) : Stays (commandScope (.bundleWriteGo v)) s (execBundleWriteGo v s) := by
  simp only [commandScope, mayChange, mayWrite]
  exact .run (State.hostCmd_changes (by decide +kernel) (.refl ..) _ _ _ _ fun _ h => State.bundleCtl_changes
      (by decide +kernel) h ..)

theorem execBundleWriteDone_changes (readBackOk : Bool) (s : State) :
    Stays (commandScope (.bundleWriteDone readBackOk)) s (execBundleWriteDone readBackOk s) := by
  simp only [commandScope, mayChange, mayWrite]
  exact .run (State.bundleDone_changes (by decide +kernel) (.refl ..) ..)

theorem execWatchdogRestart_changes (g : Nat) (s : State) :
    Stays (commandScope (.watchdogRestart g)) s (execWatchdogRestart g s) := by
  simp only [commandScope, mayChange, mayWrite]
  exact .run (State.wdogRestart_changes (by decide +kernel) (.refl ..) ..)

theorem execWatchdogHalf_changes (g : Nat) (s : State) : Stays (commandScope (.watchdogHalf g)) s (execWatchdogHalf g s) := by
  simp only [commandScope, mayChange, mayWrite]
  exact .run (State.wdogHalf_changes (by decide +kernel) (.refl ..) ..)

theorem execWatchdogExpire_changes (g : Nat) (s : State) : Stays (commandScope (.watchdogExpire g)) s (execWatchdogExpire g s) := by
  simp only [commandScope, mayChange, mayWrite]
  exact .run (State.wdogExpire_changes (by decide +kernel) (.refl ..) ..)

theorem execRglReload_changes (g : Nat) (s : State) : Stays (commandScope (.rglReload g)) s (execRglReload g s) := by
  simp only [commandScope, mayChange, mayWrite]
  exact .run (State.regCmd_changes (by decide +kernel) (.refl ..) _ _ _ _ fun _ h => State.reload_changes (by decide +kernel) h ..)

theorem execHostMbxPost_changes (g : Nat) (s : State) : Stays (commandScope (.hostMbxPost g)) s (execHostMbxPost g s) := by
  simp only [commandScope, mayChange, mayWrite]
  exact .run (State.regCmd_changes (by decide +kernel) (.refl ..) _ _ _ _ fun _ h => State.hostPost_changes
      (by decide +kernel) h ..)

theorem execLMbxPost_changes (g : Nat) (v : Word) (s : State) : Stays (commandScope (.lMbxPost g v)) s (execLMbxPost g v s) := by
  simp only [commandScope, mayChange, mayWrite]
  exact .run (State.lPost_changes (by decide +kernel) (.refl ..) ..)

theorem execLMbxPop_changes (g : Nat) (s : State) : Stays (commandScope (.lMbxPop g)) s (execLMbxPop g s) := by
  simp only [commandScope, mayChange, mayWrite]
  exact .run (State.mbxPop_changes (by decide +kernel) (.refl ..) ..)

theorem execLRxqCiWrite_changes (g : Nat) (v : Word) (s : State) :
    Stays (commandScope (.lRxqCiWrite g v)) s (execLRxqCiWrite g v s) := by
  simp only [commandScope, mayChange, mayWrite]
  exact .run (State.rxCi_changes (by decide +kernel) (.refl ..) ..)

theorem execLTxqPiWrite_changes (g : Nat) (v : Word) (s : State) :
    Stays (commandScope (.lTxqPiWrite g v)) s (execLTxqPiWrite g v s) := by
  simp only [commandScope, mayChange, mayWrite]
  exact .run (State.txPi_changes (by decide +kernel) (.refl ..) ..)

theorem execTxEntrySend_changes (g : Nat) (s : State) : Stays (commandScope (.txEntrySend g)) s (execTxEntrySend g s) := by
  simp only [commandScope, mayChange, mayWrite]
  exact .run (State.txSend_changes (by decide +kernel) (.refl ..) ..)

theorem execFrameOverrunStop_changes (g slot : Nat) (access : Bool) (s : State) :
    Stays (commandScope (.frameOverrunStop g slot access)) s (execFrameOverrunStop g slot access s) := by
  simp only [commandScope, mayChange, mayWrite]
  exact .run (State.overrun_changes (by decide +kernel) (.refl ..) ..)

theorem execYield_changes (g slot : Nat) (s : State) : Stays (commandScope (.yield g slot)) s (execYield g slot s) := by
  simp only [commandScope, mayChange, mayWrite]
  exact .run (.ite (State.check_changes (by decide +kernel) (State.doYield_changes (by decide +kernel) (.refl ..) ..) ..)
      (.refl ..))

theorem execMbxSend_changes (g slot target : Nat) (msg : Bytes) (s : State) :
    Stays (commandScope (.mbxSend g slot target msg)) s (execMbxSend g slot target msg s) := by
  simp only [commandScope, mayChange, mayWrite]
  exact .run (State.svcSend_changes (by decide +kernel) (.refl ..) ..)

theorem execMbxRecv_changes (g slot : Nat) (s : State) : Stays (commandScope (.mbxRecv g slot)) s (execMbxRecv g slot s) := by
  simp only [commandScope, mayChange, mayWrite]
  exact .run (State.svcRecv_changes (by decide +kernel) (.refl ..) ..)

theorem execPool_changes (g slot op buf n owner : Nat) (s : State) :
    Stays (commandScope (.pool g slot op buf n owner)) s (execPool g slot op buf n owner s) := by
  simp only [commandScope, mayChange, mayWrite]
  exact .run (State.svcPool_changes (by decide +kernel) (.refl ..) ..)

theorem execEvent_changes (g slot code : Nat) (args : List Word) (s : State) :
    Stays (commandScope (.event g slot code args)) s (execEvent g slot code args s) := by
  simp only [commandScope, mayChange, mayWrite]
  exact .run (State.svcEvent_changes (by decide +kernel) (.refl ..) ..)

theorem execTime_changes (g slot : Nat) (s : State) : Stays (commandScope (.time g slot)) s (execTime g slot s) := by
  simp only [commandScope, mayChange, mayWrite]
  exact .run (State.svcTime_changes (by decide +kernel) (.refl ..) ..)

theorem execRxqTake_changes (g slot : Nat) (s : State) : Stays (commandScope (.rxqTake g slot)) s (execRxqTake g slot s) := by
  simp only [commandScope, mayChange, mayWrite]
  exact .run (State.svcTake_changes (by decide +kernel) (.refl ..) ..)

theorem execTxqPost_changes (g slot : Nat) (entry : Bytes) (s : State) :
    Stays (commandScope (.txqPost g slot entry)) s (execTxqPost g slot entry s) := by
  simp only [commandScope, mayChange, mayWrite]
  exact .run (State.svcTx_changes (by decide +kernel) (.refl ..) ..)

theorem execPublish_changes (g slot kind addr : Nat) (s : State) :
    Stays (commandScope (.publish g slot kind addr)) s (execPublish g slot kind addr s) := by
  simp only [commandScope, mayChange, mayWrite]
  exact .run (State.svcPublish_changes (by decide +kernel) (.refl ..) ..)

theorem execLookup_changes (g slot kind : Nat) (s : State) :
    Stays (commandScope (.lookup g slot kind)) s (execLookup g slot kind s) := by
  simp only [commandScope, mayChange, mayWrite]
  exact .run (State.svcLookup_changes (by decide +kernel) (.refl ..) ..)

theorem execTimer_changes (g slot us : Nat) (s : State) : Stays (commandScope (.timer g slot us)) s (execTimer g slot us s) := by
  simp only [commandScope, mayChange, mayWrite]
  exact .run (State.svcTimer_changes (by decide +kernel) (.refl ..) ..)

theorem execTimerExpire_changes (g slot : Nat) (s : State) :
    Stays (commandScope (.timerExpire g slot)) s (execTimerExpire g slot s) := by
  simp only [commandScope, mayChange, mayWrite]
  exact .run (State.timerDone_changes (by decide +kernel) (.refl ..) ..)

theorem execDescriptorFetch_changes (ch : Nat) (desc : Bytes) (resp : DmaResp) (s : State) :
    Stays (commandScope (.descriptorFetch ch desc resp)) s (execDescriptorFetch ch desc resp s) := by
  simp only [commandScope, mayChange, mayWrite]
  exact .run (State.descFetch_changes (by decide +kernel) (.refl ..) ..)

theorem execDmaCopy_changes (ch : Nat) (data : Bytes) (s : State) :
    Stays (commandScope (.dmaCopy ch data)) s (execDmaCopy ch data s) := by
  simp only [commandScope, mayChange, mayWrite]
  exact .run (State.copyDone_changes (by decide +kernel) (.refl ..) ..)

theorem execDmaFill_changes (ch : Nat) (s : State) : Stays (commandScope (.dmaFill ch)) s (execDmaFill ch s) := by
  simp only [commandScope, mayChange, mayWrite]
  exact .run (State.fillDone_changes (by decide +kernel) (.refl ..) ..)

theorem execDmaCompare_changes (ch : Nat) (a b : Bytes) (s : State) :
    Stays (commandScope (.dmaCompare ch a b)) s (execDmaCompare ch a b s) := by
  simp only [commandScope, mayChange, mayWrite]
  exact .run (State.compareDone_changes (by decide +kernel) (.refl ..) ..)

theorem execDmaAccessResponse_changes (ch : Nat) (onSrc : Bool) (offset len : Nat) (resp : DmaResp) (s : State) :
    Stays (commandScope (.dmaAccessResponse ch onSrc offset len resp)) s (execDmaAccessResponse ch onSrc offset len resp s) := by
  simp only [commandScope, mayChange, mayWrite]
  exact .run (State.accessDone_changes (by decide +kernel) (.refl ..) ..)

theorem execDmaChainTimeout_changes (ch : Nat) (s : State) :
    Stays (commandScope (.dmaChainTimeout ch)) s (execDmaChainTimeout ch s) := by
  simp only [commandScope, mayChange, mayWrite]
  exact .run (State.chainTimeout_changes (by decide +kernel) (.refl ..) ..)

theorem execDmaGo_changes (ch : Nat) (s : State) : Stays (commandScope (.dmaGo ch)) s (execDmaGo ch s) := by
  simp only [commandScope, mayChange, mayWrite]
  exact .run (State.regCmd_changes (by decide +kernel) (.refl ..) _ _ _ _ fun _ h => State.dmaStart_changes
      (by decide +kernel) h ..)

theorem execDmaAbort_changes (ch : Nat) (s : State) : Stays (commandScope (.dmaAbort ch)) s (execDmaAbort ch s) := by
  simp only [commandScope, mayChange, mayWrite]
  exact .run (State.regCmd_changes (by decide +kernel) (.refl ..) _ _ _ _ fun _ h => State.chainStop_changes
      (by decide +kernel) h ..)

theorem execIntSourceEdge_changes (id : Nat) (priv : Option Nat) (level : Bool) (s : State) :
    Stays (commandScope (.intSourceEdge id priv level)) s (execIntSourceEdge id priv level s) := by
  simp only [commandScope, mayChange, mayWrite]
  cases priv with
  | some g => exact .run (State.privSample_changes (by decide +kernel) (.refl ..) ..)
  | none => exact .run (State.check_changes (by decide +kernel) (State.lineSample_changes (by decide +kernel) (.refl ..) ..) ..)

theorem execIntTimerMatch_changes (g : Nat) (s : State) : Stays (commandScope (.intTimerMatch g)) s (execIntTimerMatch g s) := by
  simp only [commandScope, mayChange, mayWrite]
  exact .run (State.timerMatch_changes (by decide +kernel) (.refl ..) ..)

theorem execIntSwset_changes (v : Word) (s : State) : Stays (commandScope (.intSwset v)) s (execIntSwset v s) := by
  simp only [commandScope, mayChange, mayWrite]
  exact .run (State.regCmd_changes (by decide +kernel) (.refl ..) _ _ _ _ fun _ h => State.swset_changes (by decide +kernel) h ..)

theorem execLIntSwset_changes (g : Nat) (v : Word) (s : State) : Stays (commandScope (.lIntSwset g v)) s (execLIntSwset g v s) := by
  simp only [commandScope, mayChange, mayWrite]
  exact .run (State.lSwset_changes (by decide +kernel) (.refl ..) ..)

theorem execIntPendClear_changes (page w : Nat) (v : Word) (s : State) :
    Stays (commandScope (.intPendClear page w v)) s (execIntPendClear page w v s) := by
  simp only [commandScope, mayChange, mayWrite]
  exact .run (State.regCmd_changes (by decide +kernel) (.refl ..) _ _ _ _ fun _ h => State.pendClear_changes
      (by decide +kernel) h ..)

theorem execIntEntry_changes (g pc : Nat) (s : State) : Stays (commandScope (.intEntry g pc)) s (execIntEntry g pc s) := by
  simp only [commandScope, mayChange, mayWrite]
  exact .run (State.entry_changes (by decide +kernel) (.refl ..) ..)

theorem execIntMret_changes (g : Nat) (s : State) : Stays (commandScope (.intMret g)) s (execIntMret g s) := by
  simp only [commandScope, mayChange, mayWrite]
  exact .run (State.mret_changes (by decide +kernel) (.refl ..) ..)

theorem execIntHoldSet_changes (v : Word) (s : State) : Stays (commandScope (.intHoldSet v)) s (execIntHoldSet v s) := by
  simp only [commandScope, mayChange, mayWrite]
  exact .run (State.regCmd_changes (by decide +kernel) (.refl ..) _ _ _ _ fun _ h => State.intGlobal_changes
      (by decide +kernel) h ..)

theorem execIntHoldClear_changes (v : Word) (s : State) : Stays (commandScope (.intHoldClear v)) s (execIntHoldClear v s) := by
  simp only [commandScope, mayChange, mayWrite]
  exact .run (State.regCmd_changes (by decide +kernel) (.refl ..) _ _ _ _ fun _ h => State.intGlobal_changes
      (by decide +kernel) h ..)

theorem execIntHclaimRead_changes (id : Nat) (s : State) : Stays (commandScope (.intHclaimRead id)) s (execIntHclaimRead id s) := by
  simp only [commandScope, mayChange, mayWrite]
  exact .run (.ite (State.claim_changes (by decide +kernel) (.refl ..) ..) (.refl ..))

theorem execIntHclaimWrite_changes (id : Nat) (_v : Word) (s : State) :
    Stays (commandScope (.intHclaimWrite id v)) s (execIntHclaimWrite id v s) := by
  simp only [commandScope, mayChange, mayWrite]
  exact .run (State.regCmd_changes (by decide +kernel) (.refl ..) _ _ _ _ fun _ h => State.claimDone_changes
      (by decide +kernel) h ..)

theorem execFaultNPulseEnd_changes (s : State) : Stays (commandScope .faultNPulseEnd) s (execFaultNPulseEnd s) := by
  simp only [commandScope, mayChange, mayWrite]
  exact .run (.ite (.refl ..) (.flt (by decide +kernel) (.refl ..) _))

theorem execPgErrStickyW1c_changes (page : Nat) (v : Word) (s : State) :
    Stays (commandScope (.pgErrStickyW1c page v)) s (execPgErrStickyW1c page v s) := by
  simp only [commandScope, mayChange, mayWrite]
  exact .run (State.onPage_changes (by decide +kernel) (.refl ..) _ _ _ fun _ blk inst h => State.stickyW1c_changes
      (by decide +kernel) h ..)

theorem execPgErrEnableWrite_changes (page : Nat) (v : Word) (s : State) :
    Stays (commandScope (.pgErrEnableWrite page v)) s (execPgErrEnableWrite page v s) := by
  simp only [commandScope, mayChange, mayWrite]
  exact .run (State.onPage_changes (by decide +kernel) (.refl ..) _ _ _ fun _ blk inst h => State.errEnable_changes
      (by decide +kernel) h ..)

theorem execPgErrInjectWrite_changes (page : Nat) (v : Word) (s : State) :
    Stays (commandScope (.pgErrInjectWrite page v)) s (execPgErrInjectWrite page v s) := by
  simp only [commandScope, mayChange, mayWrite]
  exact .run (State.onPage_changes (by decide +kernel) (.refl ..) _ _ _ fun _ blk inst h => State.errInject_changes
      (by decide +kernel) h ..)

theorem execTestUnlockKey1_changes (v : Word) (s : State) :
    Stays (commandScope (.testUnlockKey1 v)) s (execTestUnlockKey1 v s) := by
  simp only [commandScope, mayChange, mayWrite]
  exact .run (State.unlockWrite_changes (by decide +kernel) (.refl ..) ..)

theorem execTestUnlockKey2_changes (v : Word) (s : State) :
    Stays (commandScope (.testUnlockKey2 v)) s (execTestUnlockKey2 v s) := by
  simp only [commandScope, mayChange, mayWrite]
  exact .run (State.unlockWrite_changes (by decide +kernel) (.refl ..) ..)

theorem execTestUnlockArmTimeout_changes (s : State) :
    Stays (commandScope .testUnlockArmTimeout) s (execTestUnlockArmTimeout s) := by
  simp only [commandScope, mayChange, mayWrite]
  exact .run (.flt (by decide +kernel) (.refl ..) _)

theorem execJtagInstruction_changes (code : Nat) (s : State) :
    Stays (commandScope (.jtagInstruction code)) s (execJtagInstruction code s) := by
  simp only [commandScope, mayChange, mayWrite]
  exact .next (State.jtagSet_changes (by decide +kernel) (.refl ..) _)

theorem execPatrolScrub_changes (line channel : Nat) (ecc : Ecc) (s : State) :
    Stays (commandScope (.patrolScrub line channel ecc)) s (execPatrolScrub line channel ecc s) := by
  simp only [commandScope, mayChange, mayWrite]
  exact .run (State.patrol_changes (by decide +kernel) (.refl ..) ..)

theorem execZeroChunk_changes (s : State) : Stays (commandScope .zeroChunk) s (execZeroChunk s) := by
  simp only [commandScope, mayChange, mayWrite]
  exact .run (State.zeroStep_changes (by decide +kernel) (.refl ..) ..)

theorem execMemFreqGo_changes (v : Word) (s : State) : Stays (commandScope (.memFreqGo v)) s (execMemFreqGo v s) := by
  simp only [commandScope, mayChange, mayWrite]
  exact .run (State.regCmd_changes (by decide +kernel) (.refl ..) _ _ _ _ fun _ h => State.freqCtl_changes (by decide +kernel) h ..)

theorem execMemFreqDone_changes (s : State) : Stays (commandScope .memFreqDone) s (execMemFreqDone s) := by
  simp only [commandScope, mayChange, mayWrite]
  exact .run (State.memFreqDone_changes (by decide +kernel) (.refl ..) ..)

theorem execMemErrlogClear_changes (s : State) : Stays (commandScope .memErrlogClear) s (execMemErrlogClear s) := by
  simp only [commandScope, mayChange, mayWrite]
  exact .run (State.regCmd_changes (by decide +kernel) (.refl ..) _ _ _ _ fun _ h => State.errlogClear_changes
      (by decide +kernel) h ..)

theorem execMemTimingWrite_changes (f w : Nat) (v : Word) (s : State) :
    Stays (commandScope (.memTimingWrite f w v)) s (execMemTimingWrite f w v s) := by
  simp only [commandScope, mayChange, mayWrite]
  exact .run (State.regCmd_changes (by decide +kernel) (.refl ..) _ _ _ _ fun _ h => State.timingWrite_changes
      (by decide +kernel) h ..)

theorem execKstXferGo_changes (v : Word) (s : State) : Stays (commandScope (.kstXferGo v)) s (execKstXferGo v s) := by
  simp only [commandScope, mayChange, mayWrite]
  exact .run (State.regCmd_changes (by decide +kernel) (.refl ..) _ _ _ _ fun _ h => State.xferCtl_changes (by decide +kernel) h ..)

theorem execKstXferDone_changes (s : State) : Stays (commandScope .kstXferDone) s (execKstXferDone s) := by
  simp only [commandScope, mayChange, mayWrite]
  exact .run (State.xferDone_changes (by decide +kernel) (.refl ..) ..)

theorem execPwrDomainOffReq_changes (v : Word) (s : State) :
    Stays (commandScope (.pwrDomainOffReq v)) s (execPwrDomainOffReq v s) := by
  simp only [commandScope, mayChange, mayWrite]
  exact .run (State.regCmd_changes (by decide +kernel) (.refl ..) _ _ _ _ fun _ h => State.domCtl_changes (by decide +kernel) h ..)

theorem execDomainDrainDone_changes (d : Nat) (s : State) :
    Stays (commandScope (.domainDrainDone d)) s (execDomainDrainDone d s) := by
  simp only [commandScope, mayChange, mayWrite]
  exact .run (State.domDrained_changes (by decide +kernel) (.refl ..) ..)

theorem execDomainDrainTimeout_changes (d : Nat) (s : State) :
    Stays (commandScope (.domainDrainTimeout d)) s (execDomainDrainTimeout d s) := by
  simp only [commandScope, mayChange, mayWrite]
  exact .run (State.drainTimeoutAt_changes (by decide +kernel) (.refl ..) ..)

theorem execPwrDomainOnReq_changes (v : Word) (s : State) :
    Stays (commandScope (.pwrDomainOnReq v)) s (execPwrDomainOnReq v s) := by
  simp only [commandScope, mayChange, mayWrite]
  exact .run (State.regCmd_changes (by decide +kernel) (.refl ..) _ _ _ _ fun _ h => State.domCtl_changes (by decide +kernel) h ..)

theorem execDomainWakeDone_changes (d : Nat) (s : State) : Stays (commandScope (.domainWakeDone d)) s (execDomainWakeDone d s) := by
  simp only [commandScope, mayChange, mayWrite]
  exact .run (State.wakeDone_changes (by decide +kernel) (.refl ..) ..)

theorem execThermalSample_changes (temps : List Int) (s : State) :
    Stays (commandScope (.thermalSample temps)) s (execThermalSample temps s) := by
  simp only [commandScope, mayChange, mayWrite]
  refine .next (.ite (.refl ..) (.ite ?_ (State.thermalAct_changes (by decide +kernel) (State.check_changes
      (by decide +kernel) ?_ ..) ..)))
  all_goals exact .setFld (by decide +kernel) (by decide +kernel) (.setFld (by decide +kernel) (by decide +kernel) (.refl ..) ..) ..

theorem execSmbusRead_changes (cmd : Nat) (s : State) : Stays (commandScope (.smbusRead cmd)) s (execSmbusRead cmd s) := by
  simp only [commandScope, mayChange, mayWrite]
  exact .next (.pwr (by decide +kernel) (.refl ..) _)

theorem execRegisterWrite_changes (by_ : Agent) (offset : Nat) (v : Word) (s : State) :
    Stays (commandScope (.registerWrite by_ offset v)) s (execRegisterWrite by_ offset v s) := by
  simp only [commandScope, mayChange, mayWrite]
  cases by_ with
  | host => exact .run (State.hostRegWrite_changes (by decide +kernel) (.refl ..) ..)
  | regulator g => exact .run (State.regulatorWrite_changes (by decide +kernel) (.refl ..) ..)

theorem execCxlMemAccess_changes (write : Bool) (addr : Nat) (data : Bytes) (ecc : Ecc) (s : State) :
    Stays (commandScope (.cxlMemAccess write addr data ecc)) s (execCxlMemAccess write addr data ecc s) := by
  simp only [commandScope, mayChange, mayWrite]
  exact .run (State.cxlMem_changes (by decide +kernel) (.refl ..) ..)

theorem execLanePllUnlock_changes (lane : Nat) (s : State) :
    Stays (commandScope (.lanePllUnlock lane)) s (execLanePllUnlock lane s) := by
  simp only [commandScope, mayChange, mayWrite]
  exact .run (State.pllUnlock_changes (by decide +kernel) (.refl ..) ..)

theorem execLanePllRelock_changes (lane : Nat) (s : State) :
    Stays (commandScope (.lanePllRelock lane)) s (execLanePllRelock lane s) := by
  simp only [commandScope, mayChange, mayWrite]
  exact .run (State.pllRelock_changes (by decide +kernel) (.refl ..) ..)

theorem execI2cTransferDone_changes (rdata : Nat) (nack : Bool) (s : State) :
    Stays (commandScope (.i2cTransferDone rdata nack)) s (execI2cTransferDone rdata nack s) := by
  simp only [commandScope, mayChange, mayWrite]
  exact .run (State.i2cDone_changes (by decide +kernel) (.refl ..) ..)

theorem execCcacheFlushDone_changes (s : State) : Stays (commandScope .ccacheFlushDone) s (execCcacheFlushDone s) := by
  simp only [commandScope, mayChange, mayWrite]
  have dropped : Within (Scope.of [.regs, .hst, .hostMem] [Reg.HST_CCACHE_STATUS_FLUSH_BUSY]) s
      (s.hst.ccache.foldl (fun t e => t.dropLine e.1) s) :=
    .foldl (.refl ..) (fun _ _ h => State.dropLine_changes (by decide +kernel) h ..) _
  have ended := dropped.hst (by decide +kernel) { (s.hst.ccache.foldl (fun t e =>
      t.dropLine e.1) s).hst with flushing := false } rfl rfl
  exact .run (.ite (ended.setFld (by decide +kernel) (by decide +kernel) ..) (.refl ..))

theorem execComplicationInitTimeout_changes (job : Nat) (s : State) :
    Stays (commandScope (.complicationInitTimeout job)) s (execComplicationInitTimeout job s) := by
  simp only [commandScope, mayChange, mayWrite]
  exact .run (State.initTimeout_changes (by decide +kernel) (.refl ..) ..)

/-- Every command stays within what the two tables name for it. -/
theorem exec_changes (c : Instr) (s : State) : Stays (commandScope c) s (exec c s) := by
  cases c with
  | powerOn => exact execPowerOn_changes s
  | railOutOfRange => exact execRailOutOfRange_changes s
  | rootPllLoss => exact execRootPllLoss_changes s
  | perstNAssert => exact execPerstNAssert_changes s
  | perstNRelease => exact execPerstNRelease_changes s
  | windingW0 testMode capWriteN bootSel => exact execWindingW0_changes testMode capWriteN bootSel s
  | selfTestGroup g coverage durUs fail => exact execSelfTestGroup_changes g coverage durUs fail s
  | selfTestTimeout g coverage => exact execSelfTestTimeout_changes g coverage s
  | windingW2 => exact execWindingW2_changes s
  | windingW3 => exact execWindingW3_changes s
  | windingW4 => exact execWindingW4_changes s
  | windingW5 chans timing => exact execWindingW5_changes chans timing s
  | windingW6 => exact execWindingW6_changes s
  | windingW7 => exact execWindingW7_changes s
  | strapSample testMode capWriteN => exact execStrapSample_changes testMode capWriteN s
  | configRequestEarly config => exact execConfigRequestEarly_changes config s
  | linkTrained hostMode speed width flit256 cacheEn memEn =>
      exact execLinkTrained_changes hostMode speed width flit256 cacheEn memEn s
  | linkRetrain speed width => exact execLinkRetrain_changes speed width s
  | linkDown => exact execLinkDown_changes s
  | flr => exact execFlr_changes s
  | hostBadAccess write bar offset => exact execHostBadAccess_changes write bar offset s
  | bar4Access write offset len data ecc => exact execBar4Access_changes write offset len data ecc s
  | winBaseWrite a v => exact execWinBaseWrite_changes a v s
  | hostSizeWrite v => exact execHostSizeWrite_changes v s
  | hdmDecoderCommit d biEnable => exact execHdmDecoderCommit_changes d biEnable s
  | biSnoopResponse line => exact execBiSnoopResponse_changes line s
  | hostLineSnoop line => exact execHostLineSnoop_changes line s
  | ccacheFlush v => exact execCcacheFlush_changes v s
  | tenantEnable n v => exact execTenantEnable_changes n v s
  | tenantDisable n v => exact execTenantDisable_changes n v s
  | dbgrpOwnerWrite w v => exact execDbgrpOwnerWrite_changes w v s
  | addressTranslationFail ring index => exact execAddressTranslationFail_changes ring index s
  | ideCheckFail => exact execIdeCheckFail_changes s
  | spdmRequest code data => exact execSpdmRequest_changes code data s
  | setCertificate slot secured chain => exact execSetCertificate_changes slot secured chain s
  | msixUnmask mask => exact execMsixUnmask_changes mask s
  | rngDbPi ring v entries => exact execRngDbPi_changes ring v entries s
  | rngDbCi ring v => exact execRngDbCi_changes ring v s
  | payloadFetch ring => exact execPayloadFetch_changes ring s
  | payloadFetchDone ring payload au => exact execPayloadFetchDone_changes ring payload au s
  | seqGapTimeout stream => exact execSeqGapTimeout_changes stream s
  | ringCfgWrite ring reg v => exact execRingCfgWrite_changes ring reg v s
  | ringEnable ring v => exact execRingEnable_changes ring v s
  | ringDisable ring v => exact execRingDisable_changes ring v s
  | commandFetch ring entry => exact execCommandFetch_changes ring entry s
  | fencedCommandStart job => exact execFencedCommandStart_changes job s
  | streamOpen job => exact execStreamOpen_changes job s
  | streamClose job => exact execStreamClose_changes job s
  | streamFlush job => exact execStreamFlush_changes job s
  | streamSetPolicy job => exact execStreamSetPolicy_changes job s
  | calibreWrite job image read => exact execCalibreWrite_changes job image read s
  | calibreWriteCommit job => exact execCalibreWriteCommit_changes job s
  | calibreSwap job => exact execCalibreSwap_changes job s
  | swapArmed => exact execSwapArmed_changes s
  | oldBankRelease => exact execOldBankRelease_changes s
  | calibreRead job => exact execCalibreRead_changes job s
  | calibreSave ok => exact execCalibreSave_changes ok s
  | encSessionOpen job => exact execEncSessionOpen_changes job s
  | encSessionClose job => exact execEncSessionClose_changes job s
  | dmaSubmit job => exact execDmaSubmit_changes job s
  | tileRefresh job => exact execTileRefresh_changes job s
  | tileIdentityRead job => exact execTileIdentityRead_changes job s
  | complicationLoad job image read init => exact execComplicationLoad_changes job image read init s
  | query job => exact execQuery_changes job s
  | nop job => exact execNop_changes job s
  | mtrEnable m v => exact execMtrEnable_changes m v s
  | mtrRateWrite m reg v => exact execMtrRateWrite_changes m reg v s
  | sysQueryCtl v => exact execSysQueryCtl_changes v s
  | queryResultReady => exact execQueryResultReady_changes s
  | sysQueryResultRead => exact execSysQueryResultRead_changes s
  | audSnapTake page => exact execAudSnapTake_changes page s
  | frameMark => exact execFrameMark_changes s
  | wallsyncEdge => exact execWallsyncEdge_changes s
  | wallsyncHoldover => exact execWallsyncHoldover_changes s
  | unitDispatch core => exact execUnitDispatch_changes core s
  | workUnitDone core res => exact execWorkUnitDone_changes core res s
  | pinCopyDone stream order => exact execPinCopyDone_changes stream order s
  | pickup window => exact execPickup_changes window s
  | streamDrainDone stream => exact execStreamDrainDone_changes stream s
  | drainTimeout stream => exact execDrainTimeout_changes stream s
  | decCoreCtlOffline core v => exact execDecCoreCtlOffline_changes core v s
  | decCoreReset core => exact execDecCoreReset_changes core s
  | rfsRegionWrite reg v => exact execRfsRegionWrite_changes reg v s
  | rowPairStart => exact execRowPairStart_changes s
  | driveRowPair => exact execDriveRowPair_changes s
  | fusCapCommit => exact execFusCapCommit_changes s
  | capCommitStoreDone okA okB => exact execCapCommitStoreDone_changes okA okB s
  | fusForce page v => exact execFusForce_changes page v s
  | mzeRowPairStart core => exact execMzeRowPairStart_changes core s
  | mzeRowPairDone core => exact execMzeRowPairDone_changes core s
  | linkFrameSubmit input => exact execLinkFrameSubmit_changes input s
  | mzeCoreReset core => exact execMzeCoreReset_changes core s
  | mzeRefRegionWrite reg v => exact execMzeRefRegionWrite_changes reg v s
  | encSourceReady session => exact execEncSourceReady_changes session s
  | encPictureStart session => exact execEncPictureStart_changes session s
  | encPictureDone session cols qp guard => exact execEncPictureDone_changes session cols qp guard s
  | encCoreReset core => exact execEncCoreReset_changes core s
  | encRegionWrite reg v => exact execEncRegionWrite_changes reg v s
  | alloc r => exact execAlloc_changes r s
  | share r buf n holder => exact execShare_changes r buf n holder s
  | release r buf => exact execRelease_changes r buf s
  | free r buf => exact execFree_changes r buf s
  | handover r buf new => exact execHandover_changes r buf new s
  | listRebuildDone pool => exact execListRebuildDone_changes pool s
  | forceFree v => exact execForceFree_changes v s
  | forceOwner v => exact execForceOwner_changes v s
  | dpoolConfigWrite reg v => exact execDpoolConfigWrite_changes reg v s
  | dpoolRebuildDone => exact execDpoolRebuildDone_changes s
  | quotaWrite owner v => exact execQuotaWrite_changes owner v s
  | minWrite owner v => exact execMinWrite_changes owner v s
  | cellMatch => exact execCellMatch_changes s
  | portMark port => exact execPortMark_changes port s
  | linkFrameDepart port slot => exact execLinkFrameDepart_changes port slot s
  | tileClose port tile => exact execTileClose_changes port tile s
  | shaperRateWrite port v => exact execShaperRateWrite_changes port v s
  | shaperBurstWrite port v => exact execShaperBurstWrite_changes port v s
  | shaperForgive port => exact execShaperForgive_changes port s
  | shaperEnable port v => exact execShaperEnable_changes port v s
  | shaperDisable port v => exact execShaperDisable_changes port v s
  | beatTableParity port => exact execBeatTableParity_changes port s
  | portTrainStart port => exact execPortTrainStart_changes port s
  | trainAlignTimeout port => exact execTrainAlignTimeout_changes port s
  | trainRetryTimer port => exact execTrainRetryTimer_changes port s
  | tsType2Received port pos vers rest => exact execTsType2Received_changes port pos vers rest s
  | positionCollectTimeout port => exact execPositionCollectTimeout_changes port s
  | tsType4Received port pos set => exact execTsType4Received_changes port pos set s
  | versionConfirmTimeout port pos => exact execVersionConfirmTimeout_changes port pos s
  | echoReceived port pos rtNs => exact execEchoReceived_changes port pos rtNs s
  | trainComplete port => exact execTrainComplete_changes port s
  | laneAlignLoss lane => exact execLaneAlignLoss_changes lane s
  | fomMeasure lane fom => exact execFomMeasure_changes lane fom s
  | plkRetrain port => exact execPlkRetrain_changes port s
  | plkPortCfgWrite port v => exact execPlkPortCfgWrite_changes port v s
  | portTestEnter port => exact execPortTestEnter_changes port s
  | portTestClear port => exact execPortTestClear_changes port s
  | lneTestInject lane => exact execLneTestInject_changes lane s
  | statusFrame port frame => exact execStatusFrame_changes port frame s
  | mgmtResponse port frame => exact execMgmtResponse_changes port frame s
  | identityReplyTimeout port pos => exact execIdentityReplyTimeout_changes port pos s
  | identityReread port pos => exact execIdentityReread_changes port pos s
  | creditBlock port n => exact execCreditBlock_changes port n s
  | upstreamFrame port frame => exact execUpstreamFrame_changes port frame s
  | modulePoll bus found => exact execModulePoll_changes bus found s
  | i2cGo v => exact execI2cGo_changes v s
  | escRoutineStart kind index routine => exact execEscRoutineStart_changes kind index routine s
  | escRoutineExit kind index conds => exact execEscRoutineExit_changes kind index conds s
  | escWaitTimeout kind index conds => exact execEscWaitTimeout_changes kind index conds s
  | escSafePointExit kind index conds => exact execEscSafePointExit_changes kind index conds s
  | stopLimitExpiry kind index => exact execStopLimitExpiry_changes kind index s
  | microwordParity kind index => exact execMicrowordParity_changes kind index s
  | escLoadGo v => exact execEscLoadGo_changes v s
  | escLoadDone => exact execEscLoadDone_changes s
  | pgEnableClear page => exact execPgEnableClear_changes page s
  | pgEnableSet page => exact execPgEnableSet_changes page s
  | pgSoftReset page => exact execPgSoftReset_changes page s
  | pgSafeStop page => exact execPgSafeStop_changes page s
  | bundleWriteGo v => exact execBundleWriteGo_changes v s
  | bundleWriteDone readBackOk => exact execBundleWriteDone_changes readBackOk s
  | watchdogRestart g => exact execWatchdogRestart_changes g s
  | watchdogHalf g => exact execWatchdogHalf_changes g s
  | watchdogExpire g => exact execWatchdogExpire_changes g s
  | rglReload g => exact execRglReload_changes g s
  | hostMbxPost g => exact execHostMbxPost_changes g s
  | lMbxPost g v => exact execLMbxPost_changes g v s
  | lMbxPop g => exact execLMbxPop_changes g s
  | lRxqCiWrite g v => exact execLRxqCiWrite_changes g v s
  | lTxqPiWrite g v => exact execLTxqPiWrite_changes g v s
  | txEntrySend g => exact execTxEntrySend_changes g s
  | frameOverrunStop g slot access => exact execFrameOverrunStop_changes g slot access s
  | yield g slot => exact execYield_changes g slot s
  | mbxSend g slot target msg => exact execMbxSend_changes g slot target msg s
  | mbxRecv g slot => exact execMbxRecv_changes g slot s
  | pool g slot op buf n owner => exact execPool_changes g slot op buf n owner s
  | event g slot code args => exact execEvent_changes g slot code args s
  | time g slot => exact execTime_changes g slot s
  | rxqTake g slot => exact execRxqTake_changes g slot s
  | txqPost g slot entry => exact execTxqPost_changes g slot entry s
  | publish g slot kind addr => exact execPublish_changes g slot kind addr s
  | lookup g slot kind => exact execLookup_changes g slot kind s
  | timer g slot us => exact execTimer_changes g slot us s
  | timerExpire g slot => exact execTimerExpire_changes g slot s
  | descriptorFetch ch desc resp => exact execDescriptorFetch_changes ch desc resp s
  | dmaCopy ch data => exact execDmaCopy_changes ch data s
  | dmaFill ch => exact execDmaFill_changes ch s
  | dmaCompare ch a b => exact execDmaCompare_changes ch a b s
  | dmaAccessResponse ch onSrc offset len resp => exact execDmaAccessResponse_changes ch onSrc offset len resp s
  | dmaChainTimeout ch => exact execDmaChainTimeout_changes ch s
  | dmaGo ch => exact execDmaGo_changes ch s
  | dmaAbort ch => exact execDmaAbort_changes ch s
  | intSourceEdge id priv level => exact execIntSourceEdge_changes id priv level s
  | intTimerMatch g => exact execIntTimerMatch_changes g s
  | intSwset v => exact execIntSwset_changes v s
  | lIntSwset g v => exact execLIntSwset_changes g v s
  | intPendClear page w v => exact execIntPendClear_changes page w v s
  | intEntry g pc => exact execIntEntry_changes g pc s
  | intMret g => exact execIntMret_changes g s
  | intHoldSet v => exact execIntHoldSet_changes v s
  | intHoldClear v => exact execIntHoldClear_changes v s
  | intHclaimRead id => exact execIntHclaimRead_changes id s
  | intHclaimWrite id v => exact execIntHclaimWrite_changes id v s
  | faultNPulseEnd => exact execFaultNPulseEnd_changes s
  | pgErrStickyW1c page v => exact execPgErrStickyW1c_changes page v s
  | pgErrEnableWrite page v => exact execPgErrEnableWrite_changes page v s
  | pgErrInjectWrite page v => exact execPgErrInjectWrite_changes page v s
  | testUnlockKey1 v => exact execTestUnlockKey1_changes v s
  | testUnlockKey2 v => exact execTestUnlockKey2_changes v s
  | testUnlockArmTimeout => exact execTestUnlockArmTimeout_changes s
  | jtagInstruction code => exact execJtagInstruction_changes code s
  | patrolScrub line channel ecc => exact execPatrolScrub_changes line channel ecc s
  | zeroChunk => exact execZeroChunk_changes s
  | memFreqGo v => exact execMemFreqGo_changes v s
  | memFreqDone => exact execMemFreqDone_changes s
  | memErrlogClear => exact execMemErrlogClear_changes s
  | memTimingWrite f w v => exact execMemTimingWrite_changes f w v s
  | kstXferGo v => exact execKstXferGo_changes v s
  | kstXferDone => exact execKstXferDone_changes s
  | pwrDomainOffReq v => exact execPwrDomainOffReq_changes v s
  | domainDrainDone d => exact execDomainDrainDone_changes d s
  | domainDrainTimeout d => exact execDomainDrainTimeout_changes d s
  | pwrDomainOnReq v => exact execPwrDomainOnReq_changes v s
  | domainWakeDone d => exact execDomainWakeDone_changes d s
  | thermalSample temps => exact execThermalSample_changes temps s
  | smbusRead cmd => exact execSmbusRead_changes cmd s
  | registerWrite by_ offset v => exact execRegisterWrite_changes by_ offset v s
  | cxlMemAccess write addr data ecc => exact execCxlMemAccess_changes write addr data ecc s
  | lanePllUnlock lane => exact execLanePllUnlock_changes lane s
  | lanePllRelock lane => exact execLanePllRelock_changes lane s
  | i2cTransferDone rdata nack => exact execI2cTransferDone_changes rdata nack s
  | ccacheFlushDone => exact execCcacheFlushDone_changes s
  | complicationInitTimeout job => exact execComplicationInitTimeout_changes job s

theorem commandScope_has {c : Instr} {p : Part} (h : (mayChange c).contains p = false) : (commandScope c).has p = false := by
  have hn : ((mayChange c).map Part.no).contains p.no = false := by
    rw [← Bool.not_eq_true, List.contains_iff_mem, List.mem_map]
    rintro ⟨q, hq, e⟩
    rw [Part.no_injective e, ← List.contains_iff_mem, h] at hq
    cases hq
  unfold commandScope
  split
  · rw [Scope.has_of, hn]
  · rw [Scope.has_anyReg, Scope.has_of, hn]

theorem commandScope_writes {c : Instr} {fs : List Fld} {f : Fld} (hw : mayWrite c = some fs)
    (hf : (fs.map fun g => g.id).contains f.id = false) : (commandScope c).writes f = false := by
  unfold commandScope
  rw [hw, ← Bool.not_eq_true, Scope.writes_of, hf]
  simp

/-- Settles O56: each command's operations stay within the scope that the two tables name for it. -/
theorem commandsChangeNothingElse : Obligations.CommandsChangeNothingElse := by
  intro c s
  obtain ⟨t, ht, within⟩ := exec_changes c s
  exact ⟨⟨t, ht, fun p _ hp => within.same p (commandScope_has hp)⟩,
    fun fs hw => ⟨t, ht, fun f i hl hf => within.fld f i hl (commandScope_writes hw hf)⟩⟩

end

end Sys2Proof.Machine
end
